-- ==== Sys2Proof/Word.lean ====
section
/-! DEFINITION. The words of the module and the plain records that commands carry as operands. -/

namespace Sys2Proof

/-- A byte of any memory of the module. -/
abbrev Byte := BitVec 8
/-- A 32-bit word, for example an FP32 pattern (R104). -/
abbrev Word := BitVec 32
/-- A 64-byte memory line. -/
abbrev Line := BitVec 512

/-- The functions and agents that can reach a register (R7, R8). A resident core reaches registers as the VF of its
quarter (R13, R292). -/
inductive Agent where
  | pf
  | vf (q : Nat)
  | cp
  | mc
  deriving DecidableEq, Repr

/-- INITIATOR of a fault record: class and unit number (Table 6-6). -/
structure Initiator where
  cls : Nat
  unit : Nat
  deriving DecidableEq, Repr

/-- A write to a bank window (R219): the quarter, the address it writes, the initiator and TAG (Table 6-6). -/
structure WinWrite where
  q : Nat
  va : Nat
  init : Initiator
  tag : Nat
  deriving DecidableEq, Repr

/-- A submission entry (Table 14-3) as the CP or the MC has it in hand: the page it came from (0 to 11 a quarter page,
12 the PF command page, 13 the PF management page), its SOURCE (Table 14-4: 0 ring, 1 plan, 2 urgent slot) and its 64
bytes read as R7 provides. -/
structure SubEntry where
  page : Nat
  source : Nat
  raw : Line
  deriving DecidableEq, Repr

/-- A request to a cacheable line at its home slice (R129 to R131). `data` is empty for a read; `off` is its first byte
within the 256-byte line. `cls` is the client's class of Table 6-6; `hint` and `keep` are PHINT and KEEPGRP, `enc` and `noalloc` ENC and NOALLOC of its
page. `rank` is where it comes from (R130): 0 the port, 1 + i tap i, 17 + u unit u of the privileged clients; `tile` is the physical tile at the other end
of a tap's packets (R60, R134), where one is named. -/
structure PlazaReq where
  q : Nat
  tier : Nat
  unit : Nat
  addr : Nat
  write : Bool
  off : Nat
  data : List Byte
  cls : Nat
  hint : Nat
  keep : Nat
  noalloc : Bool
  enc : Bool
  rank : Nat
  tile : Option (Nat × Nat)
  deriving DecidableEq, Repr

/-- A request to a memory channel (R155): its quarter (15 for none), tier address, direction, the stream deadline where it has one, the cycle since
which it is in the queue, or since which its requester stalls, and which of the two, and the number of the stream request it is for, if any. -/
structure MemReq where
  q : Nat
  addr : Nat
  write : Bool
  deadline : Option Nat
  arrival : Nat
  stalled : Bool
  sid : Option Nat
  deriving DecidableEq, Repr

/-- An inbound request of a port (R272): `func` 0 is the PF and n the VF of Q(n - 1); `kind` 0 memory, 1 AtomicOp, 2 I/O;
`atField` the AT field; `ide` the IDE stream it arrived in and the function bound to it, as 256 × function + stream. Log entry 75, DESIGN CHOICE. -/
structure InReq where
  port : Nat
  tag : Nat
  rid : Nat
  func : Nat
  bar : Nat
  off : Nat
  write : Bool
  len : Nat
  data : List Byte
  kind : Nat
  atField : Nat
  ide : Option Nat
  deriving DecidableEq, Repr

/-- A faulty tile of a blank for one work unit: logical column and row within the blank, the bits that the partial sum or chain value it sends on
has wrong, and those that the A operand it forwards east has wrong (the hardware fault that R97 to R100 detect). -/
structure TileFault where
  col : Nat
  row : Nat
  mask : Word
  fwd : Word
  deriving DecidableEq, Repr

/-- The conserved quantities of Table 2-7, in the order of their bits in TURN_BAL_ERR. -/
inductive Pool where
  | linkCredit
  | ringToken
  | reqTag
  | powerToken
  | journalSlot
  | fabricCredit
  | opSlot
  | parkRecord
  deriving DecidableEq, Repr

/-- A counter of a pool that a hardware error has moved by `delta` since the last turn end; `q` and `inst` as
Table 2-8 names pools. -/
structure Upset where
  pool : Pool
  q : Nat
  inst : Nat
  delta : Int
  deriving DecidableEq, Repr

/-- A resident core's access (R292): physical address, direction and data. -/
structure CoreAcc where
  q : Nat
  c : Nat
  pa : Nat
  write : Bool
  len : Nat
  data : List Byte
  writeBack : Bool
  deriving DecidableEq, Repr

/-- A signed object as the MC reads it (R365): its bytes, header first. -/
structure SignedObj where
  bytes : List Byte
  deriving DecidableEq, Repr

/-- An SPDM request (R372): the transport (0 or 1 the PF DOE of that port, 2 MCTP over SMBus, 3 a VF DOE mailbox) and what it
asks. -/
inductive SpdmKind where
  | discovery
  | getVersion
  | getCapabilities
  | negotiateAlgorithms
  | getDigests
  | getCertificate
  | challenge
  | getMeasurements (index : Nat)
  | keyExchange
  | finish (session : Nat)
  | endSession (session : Nat)
  | ideKm (port stream : Nat)
  | other
  deriving DecidableEq, Repr

end Sys2Proof
end

