-- ==== Sys2Proof/Syntax.lean ====
section
/-! DEFINITION. The commands of the block: one constructor per row of spec/opcode_table.json, in its order. -/

namespace Sys2Proof

/-- One step of the module. `t` is the cycle of the current turn at which the step falls (R30); `q` a quarter, `id` the
model's number of an operation, `s` a stack (or strip), `d` a bay, `u` an update unit, `e` an engine, `a` the agent of a
register write. Log entry 73, DESIGN CHOICE. -/
inductive Instr where
  /-- R30: cycle 0 of the next turn. -/
  | turnStart
  /-- R31, R359, R392: turn mark `m`; `flow` is the coolant flow sampled, in 0.05 L/min. -/
  | turnMark (m flow : Nat)
  /-- R33: one admission decision of quarter `q`. -/
  | admissionDecision (q t : Nat)
  /-- R71: the allocator of `q` takes the head of its queue. -/
  | blankAllocation (q t : Nat)
  /-- R72: a waiting allocator of `q` starts again. -/
  | allocatorRetry (q t : Nat)
  /-- R72: the operation begins. -/
  | operationStart (id t : Nat)
  /-- R82, R97: the residency preload in hand completes. -/
  | preloadComplete (id t : Nat)
  /-- R85: a work unit begins; `faults` are the tiles of its blank that misbehave. -/
  | workUnitStart (id t : Nat) (faults : List TileFault)
  /-- R99: the corner posts the verdict; `frozen` cycles of the work unit were frozen (R86). -/
  | witnessVerdict (id t frozen : Nat)
  /-- R100: the self-test ends; `failing` logical tiles (col, row) of the quarter failed. -/
  | tileSelfTest (id t : Nat) (failing : List (Nat × Nat))
  /-- R40: cycle S. -/
  | sweepStart
  /-- R41: the operation parks. -/
  | park (id t : Nat)
  /-- R45: cycle P. -/
  | parkDeadline
  /-- R46: cycle D. -/
  | drainDeadline
  /-- R53: w 0 to 511; `upsets` are the counters that a hardware error has moved. -/
  | balanceCheck (upsets : List Upset)
  /-- R50: w 512 to 2,559. -/
  | stagedConfigurationApply
  /-- R374: w 2,560. -/
  | keyApply
  /-- R36, R386: w 3,584. `late` when the MC has not delivered (R18); `metered` tokens by quarter, `modMetered` for the
  module, `fixed` the tokens for the fixed draws, `vmin` in 10 mV and `tmax` in degrees C of the ending turn. -/
  | tokenBudgetLoad (late : Bool) (metered : List Nat) (modMetered fixed vmin tmax : Nat)
  /-- R49: w 3,840. -/
  | resumeQueueRebuild
  /-- R208: an operation that has finished completes. -/
  | operationComplete (id t : Nat)
  /-- R138: the MMU of `q` walks for one access. -/
  | translationWalk (q va : Nat) (write : Bool) (init : Initiator)
  /-- R130: a home slice serves the requests of one cycle. -/
  | plazaAccess (rs : List PlazaReq)
  /-- R133: the scans of `q` complete. -/
  | rehomeScanComplete (q : Nat)
  /-- R127: a CLEARING extent (or `lot`) is zeroed. -/
  | unitZeroed (lot : Bool) (i : Nat)
  /-- R68: CLEARING strip `s` is cleared. -/
  | stripCleared (s : Nat)
  /-- R145: a move treats its next page. -/
  | movePage (id t : Nat)
  /-- R149: `n` reads of the operation are late. -/
  | lateRead (id t : Nat)
  /-- R155: a request enters the queue of a channel; with `serve` the channel then serves one. -/
  | memoryRequest (tier unit : Nat) (r : MemReq) (serve : Bool)
  /-- R160: a DRAM read of a line returns with `wrong` symbols (stack) or bytes (cartridge) in error; `lane` is the lane
  of the symbol corrected. -/
  | readComplete (tier unit addr wrong lane : Nat)
  /-- R156: a per-bank refresh falls due. -/
  | bankRefresh (tier unit ch bank : Nat)
  /-- R159: the scrubber of channel `ch` handles its next codeword. -/
  | scrub (tier unit ch wrong lane : Nat)
  /-- R161: lane `lane` of PC `p` of stack `s` fails. -/
  | laneFailure (s p lane : Nat)
  /-- R162: the MC remaps the failed lane. -/
  | laneRemap (s p : Nat)
  /-- R162: spare training ends. -/
  | spareTrained (s p : Nat) (ok : Bool)
  /-- R164: a write of STK_RETIRE. -/
  | stkRetire (a : Agent) (s val : Nat)
  /-- R340: the scan after a stack loss completes. -/
  | lostScanComplete (s : Nat)
  /-- R164: the retirement copy completes. -/
  | retirementCopyComplete (s : Nat)
  /-- R168: the repair in hand of stack `s`; `fits` when copy and remap end by w 3,583. -/
  | repairApply (s : Nat) (fits : Bool)
  /-- R166: a write of CRT_BF_DATA. -/
  | badFrameWrite (a : Agent) (d val : Nat)
  /-- R169: CRT_CTRL REQ 1. -/
  | withdraw (a : Agent) (d : Nat)
  /-- R169: the bay is powered down. -/
  | cartridgeSafe (d : Nat)
  /-- R170: CRT_CTRL REQ 2. -/
  | bringIntoService (a : Agent) (d : Nat)
  /-- R170: training and zeroing complete. -/
  | cartridgeInService (d : Nat)
  /-- R170: a latch opens. -/
  | latchOpen (d : Nat)
  /-- R170: a latch closes on a cartridge; `genuine` when its identity memory names an LC1024-A1, `frames` its bad-frame table. -/
  | latchClose (d : Nat) (genuine : Bool) (frames : List Nat)
  /-- R393: a presence contact opens. -/
  | presenceContactOpen (d : Nat)
  /-- R185: a packer writes `data` at `va`, a page with the packed flag. -/
  | packedWrite (q va : Nat) (data : List Byte) (init : Initiator)
  /-- R186: the stalled packer of `q` reads the pool header again. -/
  | poolRecheck (q : Nat)
  /-- R184: an access that found BUSY reads the header line again. -/
  | busyRecheck (q va : Nat)
  /-- R188, R191: an expander decodes sub-stream `j` of the page at `va`, from block `first` to `last`; in `inWait` cycles it had no input, in
  `outWait` its output was full. -/
  | expanderDecode (q va j first last inWait outWait : Nat)
  /-- R199: engine `e` in one cycle. -/
  | streamIssue (e t : Nat)
  /-- R192: Port A issues the next tier-3 request. -/
  | portTier3Issue (t : Nat)
  /-- R194: the response to request `req` returns. -/
  | streamResponse (req t : Nat)
  /-- R202: the stream opens its next work unit. -/
  | slotOpen (id t : Nat)
  /-- R202, R204: the stream's work unit commits. -/
  | slotCommit (id t : Nat)
  /-- R211: a drain row of the operation sends its oldest direct store to Port A. -/
  | directHostStore (id t : Nat)
  /-- R215: the entry scan of stack `s` completes. -/
  | bankReady (s : Nat)
  /-- R220: a write to the PUSH window of engine `p`; `full` for a full line. -/
  | commandPush (w : WinWrite) (s p : Nat) (full : Bool) (line : Line)
  /-- R220: a write to the broadcast command window. -/
  | broadcastPush (w : WinWrite) (s : Nat) (full : Bool) (line : Line)
  /-- R221: a write to the broadcast data window at offset `off`. -/
  | broadcastDataWrite (w : WinWrite) (s off : Nat) (data : List Byte)
  /-- R221: engine `p` performs its oldest pending copy. -/
  | broadcastCopy (s p : Nat)
  /-- R219: a write to the CLEAR offset. -/
  | engineClear (w : WinWrite) (s p : Nat) (full : Bool)
  /-- R222: engine `p` runs the NOP (or invalid line) at the head of its queue. -/
  | bankNop (s p t : Nat)
  /-- R224. -/
  | gemv (s p t : Nat)
  /-- R225. -/
  | outer (s p t : Nat)
  /-- R226. -/
  | rowadd (s p t : Nat)
  /-- R227. -/
  | signal (s p t : Nat)
  /-- R230: a burst of engine `p` ends; ordinary requests waited `hold` cycles and the engine yields `yielded`. -/
  | burstBoundary (s p hold yielded : Nat)
  /-- R242: unit `u` does the next shard of the ACCUM it runs, or starts one. -/
  | accum (u t wait : Nat)
  /-- R244. -/
  | norm (u t wait : Nat)
  /-- R250, R251. -/
  | update (u t wait : Nat)
  /-- R256: the oldest OPEN slot of unit `u` commits. -/
  | shardCommit (u t : Nat)
  /-- R257: the oldest COMMITTED slot of unit `u` retires. -/
  | slotRetire (u t : Nat)
  /-- R272. -/
  | inboundRequest (r : InReq) (t : Nat)
  /-- R275: 9 ms after its arrival the BAR2 read `tag` of `port` is incomplete. -/
  | bar2ReadTimeout (port tag : Nat)
  /-- R385: a configuration request of `port` to function `func`. -/
  | configRequest (port func off : Nat) (write : Bool) (val : Nat)
  /-- R276. -/
  | hostSnoop (addr : Nat)
  /-- R277: the host acknowledges CXL.cache request `req`. -/
  | hostAck (req : Nat)
  /-- R278: request `req` times out or is answered with an error. -/
  | hostRequestTimeout (req : Nat)
  /-- R283: the holdoff of vector `v` of the VF of `q` ends. -/
  | holdoffExpiry (q v : Nat)
  /-- R285: a received flit fails CRC; the failing lane is `lane`, and FEC has corrected `fec` flits since the last failure. -/
  | flitCrcFail (port lane fec : Nat)
  /-- R285: the partner NAKs an own flit. -/
  | flitNak (port : Nat)
  /-- R285: the replay timer expires; `rollover` enters Recovery. -/
  | replayTimeout (port : Nat) (rollover : Bool)
  /-- R287. -/
  | portLaneFailure (port lane : Nat)
  /-- R288. -/
  | linkDown (port : Nat)
  /-- R288, R265: the port has trained: width, rate code, FLIT mode, CXL.cache negotiated. -/
  | linkUp (port width rate : Nat) (flit cache : Bool)
  /-- R384, R288: fundamental (or `hot`) reset of a port. -/
  | portReset (port : Nat) (hot : Bool)
  /-- R290: function-level reset of function `func` on `port`. -/
  | functionLevelReset (port func : Nat)
  /-- R280: an integrity check of IDE stream `stream` fails. -/
  | ideIntegrityFail (port stream : Nat)
  /-- R289. -/
  | portAdaptationRefresh (port : Nat)
  /-- R292. -/
  | coreDeviceAccess (x : CoreAcc) (t : Nat)
  /-- R293: a write of the maintenance action register of `q`. -/
  | maintenanceAction (q action : Nat)
  /-- R295: a RUN bit is set. -/
  | coreRelease (a : Agent) (q c : Nat)
  /-- R295: a RUN bit is cleared. -/
  | coreHold (a : Agent) (q c : Nat)
  /-- R296: the fabric engine of the operation's route sends its next message. -/
  | messageSend (id t : Nat)
  /-- R302: engine `e` observes the header line of slot (`i`, `l`) of `q`, written with requester ID `rid`. -/
  | headerCheck (e q i l rid t : Nat)
  /-- R306: the received message of slot (`i`, `l`) is applied. -/
  | messageApply (q i l t : Nat)
  /-- R303: the acknowledgement line of route `i` of `q` has been written. -/
  | ackLineReceive (q i t : Nat)
  /-- R303: 1,024 cycles after an unacknowledged reception. -/
  | ackTimer (q i t : Nat)
  /-- R303: RETX_US after the last sending of send record `r` of engine `e`. -/
  | resendTimer (q e r t : Nat)
  /-- R305: a SEND operation begins. -/
  | send (id t : Nat)
  /-- R305: a RECV operation begins. -/
  | recv (id t : Nat)
  /-- R306: an ALLREDUCE operation begins. -/
  | allreduce (id t : Nat)
  /-- R313: a write of MB_SQ_DB of `page`, arriving on `port`. -/
  | sqDoorbell (a : Agent) (port page tail : Nat)
  /-- R314: a write of MB_CQ_DB. -/
  | cqDoorbell (a : Agent) (port page head : Nat)
  /-- R316: a write of MB_SQ_CFG, or of MB_CQ_CFG with `cq`. -/
  | ringConfig (a : Agent) (page : Nat) (cq : Bool) (val : Nat)
  /-- R325: GO with the line held in MB_URG_CMD. -/
  | urgentGo (a : Agent) (port page : Nat) (line : Line)
  /-- R313: the CP copies and dispatches the next entry. -/
  | sqEntryCopy (t : Nat)
  /-- R17: the CP carries out the MC's write of `val` to the register at BAR0 offset `off`. -/
  | mcRingRequest (off val : Nat)
  | nop (e : SubEntry)
  | version (e : SubEntry)
  | submit (e : SubEntry)
  | plan (e : SubEntry)
  | invalidate (e : SubEntry)
  | abortFault (e : SubEntry)
  | fqHead (e : SubEntry)
  | mmuCfg (e : SubEntry)
  | place (e : SubEntry)
  | releaseKeep (e : SubEntry)
  | unit (e : SubEntry)
  | hostWin (e : SubEntry)
  | swap (e : SubEntry)
  | advance (e : SubEntry)
  | barrier (e : SubEntry)
  | bufCfg (e : SubEntry)
  | cbLoad (e : SubEntry)
  | cbUnload (e : SubEntry)
  | verdict (e : SubEntry)
  | setScale (e : SubEntry)
  | setStep (e : SubEntry)
  | journal (e : SubEntry)
  | hist (e : SubEntry)
  | config (e : SubEntry)
  | halt (e : SubEntry)
  | release (e : SubEntry)
  | cores (e : SubEntry)
  | pfWin (e : SubEntry)
  | bank (e : SubEntry)
  | fence (e : SubEntry)
  | unfence (e : SubEntry)
  | route (e : SubEntry)
  | fabricCfg (e : SubEntry)
  | modId (e : SubEntry)
  | link (e : SubEntry)
  | fwLoad (e : SubEntry)
  | fwSelect (e : SubEntry)
  | manifest (e : SubEntry)
  | override (e : SubEntry)
  | repair (e : SubEntry)
  | snapRead (e : SubEntry)
  | errLogRead (e : SubEntry)
  | scan (e : SubEntry)
  | keyNew (e : SubEntry)
  | keyErase (e : SubEntry)
  | debugNonce (e : SubEntry)
  | debugUnlock (e : SubEntry)
  | svnCommit (e : SubEntry)
  | keyRevoke (e : SubEntry)
  | powerCap (e : SubEntry)
  | powerRead (e : SubEntry)
  | thermCfg (e : SubEntry)
  /-- R337: the lockstep compare of the active pair fails. -/
  | lockstepMismatch
  /-- R338: the MC has tested the failed pair. -/
  | cpPairRetest (pass : Bool)
  /-- R333: the MC watchdog expires. -/
  | mcWatchdog
  /-- R334: the self-tests of one boundary window; `failing` lists unit classes (1 stream engine, 2 expander, 3 packer,
  4 update unit, 5 bank engine), u and index of the units whose test fails. -/
  | unitSelfTest (failing : List (Nat × Nat × Nat))
  /-- R348: one PC of every stack and one channel of every bay are refreshed; `failing` lists tier, unit and lane. -/
  | receiverAdaptationRefresh (failing : List (Nat × Nat × Nat))
  /-- R345: a write of RES_CTRL. -/
  | resCtrlMod (a : Agent) (val : Nat)
  /-- R384: MOD_RST_N has been low for 1 microsecond. -/
  | modRstN
  /-- R345: the quiesce ends; which of the two CP pairs pass their self-test. -/
  | quiesceEnd (pair0 pair1 : Bool)
  /-- R350: a write of SNAP_CFG with NOW. -/
  | snapNow (a : Agent) (val : Nat)
  /-- R350: a trigger falls: source 0 turn end, 1 turn mark, 2 event, 3 command. -/
  | snapshotLatch (src t : Nat)
  /-- R352. -/
  | shiftOutComplete
  /-- R358: a write of PMC_SEL of counter `i`. -/
  | pmcSelect (a : Agent) (i val : Nat)
  /-- R360: a bandwidth window of a port ends after `rx` and `tx` bytes. -/
  | bwWindowEnd (port rx tx : Nat)
  /-- R360: a write of PT_BW_CFG. -/
  | bwWindowConfig (a : Agent) (port val : Nat)
  /-- R123: a write of GH_CTRL of slot `sl` of `q`. -/
  | ghClear (a : Agent) (q sl val : Nat)
  /-- R9: a read of the register at BAR0 offset `off`. -/
  | registerReadClear (a : Agent) (off : Nat)
  /-- R8: a write of `val` to the register at BAR0 offset `off`. -/
  | registerWrite (a : Agent) (off val : Nat)
  /-- R372. -/
  | spdmRequest (transport : Nat) (k : SpdmKind)
  | extest
  | samplePreload
  | idcode
  | clamp
  | highz
  | dbgState
  | unlockNonce
  /-- R379: Update-DR submits the token. -/
  | unlockLoad (obj : SignedObj)
  /-- R380: w 2,560 after the halt and the scan. -/
  | debugErasure
  /-- R378: the 96-bit data register. -/
  | regAccess (dr : BitVec 96)
  /-- R378: the 576-bit data register. -/
  | memAccess (dr : BitVec 576)
  | mcDebug
  | cpDebug
  | bypass
  /-- R385, R369: which MFW slots verify. -/
  | powerOnReset
  /-- R385, R370: which CP pairs pass their self-test. -/
  | powerUp (pair0 pair1 : Bool)
  | inputUndervoltage
  | pwrWarn
  | auxSupplyLoss
  /-- R391: a die (`die`) or base-die temperature sample in degrees C. -/
  | thermalTrip (die base : Nat)
  | flowTrip
  | powerDownPortIdle
  | powerDownOff
  /-- R390: `ms` since the power-off, input at `vin` (10 mV). -/
  | repower (ms vin : Nat)
  /-- R384: MOD_RST_N returns high. -/
  | modRstNRelease
  /-- R385: PERST_N of a port goes high. -/
  | perstNRelease (port : Nat)
  /-- R320: 100 ms after a LINK command of `port`. -/
  | linkTrainingTimeout (port : Nat)
  /-- R287: a port leaves Recovery. -/
  | recoveryExit (port : Nat)
  /-- R369: PLDM firmware-update messages deliver an image for MFW slot `slot`. -/
  | pldmFirmwareUpdate (slot : Nat) (obj : SignedObj)
  /-- R292: the timer reaches the compare value of core `c` of `q`. -/
  | timerCompare (q c : Nat)
  deriving DecidableEq, Repr

end Sys2Proof
end

