-- ==== Sys2Proof/Decode.lean ====
section
/-! DEFINITION. The commands that a word spells. No row of spec/opcode_table.json gives bits: the commands of the block arrive as
register accesses, ring entries, protocol messages and pin events, not as instruction words. -/

namespace Sys2Proof

/-- The command that a word of `nbits` bits spells by the bits of the opcode table: none, since no row gives any. -/
def decodeTableWord (_nbits _w : Nat) : Option Instr := none

end Sys2Proof
end

