-- ==== Sys2Proof/Config.lean ====
section
/-! DEFINITION. The free values: what the spec leaves open and the hardware nevertheless produces. Each is a constant with no body,
applied to a counter of State or to the operands it depends on; nothing can be proved about its value. -/

namespace Sys2Proof.Config

/-- The translation that a full translation cache replaces (R138), by a counter. Log entry 10, DESIGN CHOICE. -/
opaque tlbVictim : Nat → Nat

/-- The set of its home slice that a line takes; the spec gives the slice (R129) and not the set. Log entry 11, DESIGN CHOICE. -/
opaque plazaSet : Nat → Nat

/-- Whether a line of a quarter's cache lies in a way that becomes scratchpad (R128): by a number of the change and the line; the spec does not say
which way a line takes. Log entry 11, DESIGN CHOICE. -/
opaque wayTaken : Nat → Nat → Bool

/-- The 512 bits of AES-256-XTS key number `n`, drawn at random by the MC (R171, R374); a slot that holds no key uses a number that no key
has. Log entry 12, DESIGN CHOICE. -/
opaque keyBits : Nat → Nat

/-- The byte that a scratchpad read returns where a change of P or SCRATCH_ACT has lost the contents (R128): by the numbers of the changes
before which it was written and read, the address and the byte. Log entry 12, DESIGN CHOICE. -/
opaque lostByte : Nat → Nat → Nat → Nat → Nat

/-- Whether a host line whose write failed holds the written value (R278, R347), by a counter. Log entry 13, DESIGN CHOICE. -/
opaque hostLineNew : Nat → Bool

/-- A 32-byte random nonce of the MC (R373, R379), as a number, by a counter. Log entry 14, DESIGN CHOICE. -/
opaque nonce : Nat → Nat

/-- SHA-384 of a byte string, as a number (R365, R366). Log entry 15, DESIGN CHOICE. -/
opaque sha384 : List (BitVec 8) → Nat

/-- Whether the ECDSA P-384 signature bytes (last) verify over a byte string under public key number `k` (R365). Log entry
15, DESIGN CHOICE. -/
opaque sigValid : Nat → List (BitVec 8) → List (BitVec 8) → Bool

/-- The DRAM row of a local offset within a bank, in the order of the fitted device's addressing (R154): tier, offset. Log entry
16, DESIGN CHOICE. -/
opaque dramRow : Nat → Nat → Nat

/-- The digest fused for root key `k` (R366). Log entry 15, DESIGN CHOICE. -/
opaque rootDigest : Nat → Nat

/-- What the body of a manifest (a triple and its protocol range by index, and their count at index 256) or of an override policy
(its triple at index 0) says; the spec gives no layout of the body (R330). Log entry 32, DESIGN CHOICE. -/
opaque bodyTriple : List (BitVec 8) → Nat → Nat

/-- A byte of the module's certificate chains, signatures and measurements that depends on its own keys (R366 to R372): by a
kind, an index and a counter. Log entry 15, DESIGN CHOICE. -/
opaque identityByte : Nat → Nat → Nat → Nat

/-- What a sensor shows (TEMP of a base die or a cartridge): by a kind, a unit and the cycle. Log entry 31, DESIGN CHOICE. -/
opaque sensor : Nat → Nat → Nat → Nat

/-- What the snapshot record of a tile shows of the work in progress (Table 16-1): by SEQ and the tile's number. Log entry 31, DESIGN CHOICE. -/
opaque tileBits : Nat → Nat → Nat

/-- The bits of a result that the spec does not state, by a counter. Log entry 17, DESIGN CHOICE. -/
opaque openValue : Nat → Nat

/-- The signed objects that the MC's non-volatile store holds when the module leaves the factory (0 and 1 CFW images, 2 and 3 MFW images, 4 the
manifest); the spec does not give them. Log entry 33, DESIGN CHOICE. -/
opaque factoryObject : Nat → List (BitVec 8)

/-- The digest of the boot ROM (Table 17-3). Log entry 15, DESIGN CHOICE. -/
opaque romDigest : Nat

end Sys2Proof.Config
end

