-- ==== Sys2Proof/Machine/Float.lean ====
section
/-! DEFINITION. The arithmetic of chapter 05: binary16, binary32 and the MX storage formats, exact sums and products, and
rounding. Values are held exactly as a sign, a natural significand and a power of two, and rounded once. -/

namespace Sys2Proof.Machine

/-- The bits `[lo + n - 1 : lo]` of `x`. -/
def bitsOf (x lo n : Nat) : Nat := x / 2 ^ lo % 2 ^ n

/-- A value of a format: a NaN (signaling or quiet), an infinity, or the exact finite value ±m × 2^e. -/
inductive FV where
  | nan (sig : Bool)
  | inf (neg : Bool)
  | fin (neg : Bool) (m : Nat) (e : Int)
  deriving DecidableEq, Repr

def FV.isNan : FV → Bool
  | .nan _ => true
  | _ => false

def FV.isSig : FV → Bool
  | .nan b => b
  | _ => false

def FV.isInf : FV → Bool
  | .inf _ => true
  | _ => false

def FV.isZero : FV → Bool
  | .fin _ m _ => m == 0
  | _ => false

def FV.isNeg : FV → Bool
  | .nan _ => false
  | .inf n => n
  | .fin n _ _ => n

def FV.isFin : FV → Bool
  | .fin _ _ _ => true
  | _ => false

/-- Flag bits at the positions of NUM_FLAGS [4:0] (R114). -/
def flagNX : Nat := 1
def flagUF : Nat := 2
def flagOF : Nat := 4
def flagNV : Nat := 8
def flagESAT : Nat := 16

/-- An IEEE format: significand precision with the implicit bit, smallest normal exponent, largest exponent (Table 5-1). -/
structure Fmt where
  p : Nat
  emin : Int
  emax : Int
  deriving DecidableEq, Repr

def fmt16 : Fmt := ⟨11, -14, 15⟩
def fmt32 : Fmt := ⟨24, -126, 127⟩

/-- Canonical NaNs (R105). -/
def nan16 : Nat := 0x7E00
def nan32 : Nat := 0x7FC00000

/-- Reads an encoding with `eb` exponent bits and `mb` mantissa bits and IEEE special values (R104, R105). -/
def decodeIeee (eb mb x : Nat) : FV :=
  let neg := bitsOf x (eb + mb) 1 == 1
  let ex := bitsOf x mb eb
  let man := bitsOf x 0 mb
  let bias : Int := 2 ^ (eb - 1) - 1
  if ex = 2 ^ eb - 1 then
    if man = 0 then .inf neg else .nan (bitsOf x (mb - 1) 1 == 0)
  else if ex = 0 then .fin neg man (1 - bias - mb)
  else .fin neg (man + 2 ^ mb) (ex - bias - mb)

def dec16 (x : Nat) : FV := decodeIeee 5 10 x
def dec32 (x : Nat) : FV := decodeIeee 8 23 x

/-- Rounding modes: those of Table 5-2, and toward +∞ (RU of R97, used on positive values only). -/
inductive RMode where
  | rne
  | rtz
  | rto
  | up
  deriving DecidableEq, Repr

/-- RND 0 to 2 (Table 4-4). -/
def RMode.ofRnd (n : Nat) : RMode := if n = 1 then .rtz else if n = 2 then .rto else .rne

/-- Rounds m × 2^e to a multiple of 2^q: the multiple, and whether it was inexact. -/
def roundQ (mode : RMode) (m : Nat) (e q : Int) : Nat × Bool :=
  if q ≤ e then (m * 2 ^ (e - q).toNat, false)
  else
    let sh := (q - e).toNat
    let d := m / 2 ^ sh
    let r := m % 2 ^ sh
    if r = 0 then (d, false)
    else
      let up : Bool := match mode with
        | .rne => decide (2 ^ sh < 2 * r) || (decide (2 * r = 2 ^ sh) && decide (d % 2 = 1))
        | .rtz => false
        | .rto => decide (d % 2 = 0)
        | .up => true
      (if up then d + 1 else d, true)

/-- The exponent E with 2^E ≤ m × 2^e < 2^(E + 1). -/
def topExp (m : Nat) (e : Int) : Int := e + (Nat.log2 m : Int)

/-- The rounding of R107 at precision `p` with smallest normal exponent `emin`, no upper limit: the significand, its quantum
exponent, whether inexact, and whether the result is tiny (tininess after rounding). -/
def roundFin (mode : RMode) (p : Nat) (emin : Int) (m : Nat) (e : Int) : Nat × Int × Bool × Bool :=
  let top := topExp m e
  let qmin := emin - p + 1
  let q := max (top - p + 1) qmin
  let (d, nx) := roundQ mode m e q
  let qu := top - p + 1
  let (du, _) := roundQ mode m e qu
  let tiny := decide (topExp du qu < emin) && decide (du ≠ 0)
  (d, q, nx, tiny)

/-- Encodes d × 2^q at precision `p` (R104): subnormal and normal alike. -/
def encodeMag (p : Nat) (emin : Int) (d : Nat) (q : Int) : Nat :=
  (q - (emin - p + 1)).toNat * 2 ^ (p - 1) + d

/-- Rounds ±m × 2^e to an IEEE format: the encoding without its sign bit, and the flags (Tables 5-3 and 5-4). -/
def roundIeee (f : Fmt) (mode : RMode) (m : Nat) (e : Int) : Nat × Nat :=
  if m = 0 then (0, 0)
  else
    let (d, q, nx, tiny) := roundFin mode f.p f.emin m e
    if topExp d q > f.emax ∧ d ≠ 0 then
      let infMag := encodeMag f.p f.emin (2 ^ (f.p - 1)) (f.emax + 1 - f.p + 1)
      let mag := match mode with
        | .rne => infMag
        | .up => infMag
        | _ => infMag - 1
      (mag, flagOF ||| flagNX)
    else
      (encodeMag f.p f.emin d q, (if nx then flagNX else 0) ||| (if nx && tiny then flagUF else 0))

def signBit (f : Fmt) (neg : Bool) : Nat :=
  if neg then (if f.p = 11 then 0x8000 else 0x80000000) else 0

/-- Infinity of binary32. -/
def inf32 (neg : Bool) : Nat := (if neg then 0x80000000 else 0) + 0x7F800000

/-- A finite value rounded to binary32 by `mode`. -/
def round32 (mode : RMode) (neg : Bool) (m : Nat) (e : Int) : Nat × Nat :=
  let (b, fl) := roundIeee fmt32 mode m e
  (signBit fmt32 neg + b, fl)

/-- Table 5-3: narrowing of a value to binary16. -/
def narrow16 (mode : RMode) (v : FV) : Nat × Nat :=
  match v with
  | .nan s => (nan16, if s then flagNV else 0)
  | .inf n => ((if n then 0x8000 else 0) + 0x7C00, 0)
  | .fin n m e =>
    let (b, fl) := roundIeee fmt16 mode m e
    (signBit fmt16 n + b, fl)

/-- An exact widening to binary32. -/
def widen32 (v : FV) : Nat :=
  match v with
  | .nan _ => nan32
  | .inf n => inf32 n
  | .fin n m e => (round32 .rne n m e).1

/-- The product of two values that is neither NaN nor ∞ × 0. -/
def mulFV (a b : FV) : FV :=
  match a, b with
  | .fin n m e, .fin n' m' e' => .fin (n != n') (m * m') (e + e')
  | x, y => .inf (x.isNeg != y.isNeg)

/-- The signed significand of a finite term at exponent `e0` at or below its own. -/
def termAt (e0 : Int) (v : FV) : Int :=
  match v with
  | .fin n m e =>
    let k : Int := m * 2 ^ (e - e0).toNat
    if n then -k else k
  | _ => 0

/-- The least exponent among finite terms. -/
def minExp (ts : List FV) : Int :=
  ts.foldl (fun acc v => match v with
    | .fin _ m e => if m = 0 then acc else min acc e
    | _ => acc) 10000

/-- R110 to R112: the sum of an optional addend and products, formed exactly and rounded once to binary32 by `mode`; the rows
of Table 5-4 in order. -/
def fusedSum (mode : RMode) (c : Option FV) (ps : List (FV × FV)) : Nat × Nat :=
  let operands := c.toList ++ ps.flatMap (fun ab => [ab.1, ab.2])
  if operands.any FV.isNan then (nan32, if operands.any FV.isSig then flagNV else 0)
  else if ps.any (fun ab => (ab.1.isInf && ab.2.isZero) || (ab.1.isZero && ab.2.isInf)) then (nan32, flagNV)
  else
    let terms := c.toList ++ ps.map (fun ab => mulFV ab.1 ab.2)
    let posInf := terms.any (fun v => v.isInf && !v.isNeg)
    let negInf := terms.any (fun v => v.isInf && v.isNeg)
    if posInf && negInf then (nan32, flagNV)
    else if posInf then (inf32 false, 0)
    else if negInf then (inf32 true, 0)
    else
      let e0 := minExp terms
      let sum : Int := terms.foldl (fun acc v => acc + (if v.isZero then 0 else termAt e0 v)) 0
      if sum = 0 then (if terms.all FV.isNeg && terms.all FV.isZero then 0x80000000 else 0, 0)
      else round32 mode (decide (sum < 0)) sum.natAbs e0

/-- R110, FP16 mode: one DP2 step on binary16 pairs; `none` is a masked product, +0.0 (R70, R76). -/
def dp2 (c : Nat) (p0 p1 : Option (Nat × Nat)) : Nat × Nat :=
  let pr := fun (p : Option (Nat × Nat)) => match p with
    | some (a, b) => (dec16 a, dec16 b)
    | none => (FV.fin false 0 0, FV.fin false 0 0)
  fusedSum .rne (some (dec32 c)) [pr p0, pr p1]

/-- R110, FP32 mode: one fused multiply-add. -/
def fma32 (c : Nat) (p : Option (Nat × Nat)) : Nat × Nat :=
  match p with
  | some (a, b) => fusedSum .rne (some (dec32 c)) [(dec32 a, dec32 b)]
  | none => fusedSum .rne (some (dec32 c)) [(.fin false 0 0, .fin false 0 0)]

def oneFV : FV := .fin false 1 0

/-- ADD of the finishing chain and the carry-add of R81. -/
def add32 (x v : Nat) : Nat × Nat := fusedSum .rne (some (dec32 x)) [(dec32 v, oneFV)]

/-- A sum rounded toward +∞, for non-negative terms (R97). -/
def addUp (x v : Nat) : Nat := (fusedSum .up (some (dec32 x)) [(dec32 v, oneFV)]).1

def sub32 (x v : Nat) : Nat × Nat := fusedSum .rne (some (dec32 x)) [(dec32 v, .fin true 1 0)]

/-- MUL: one product and no addend. -/
def mul32 (x v : Nat) : Nat × Nat := fusedSum .rne none [(dec32 x, dec32 v)]

/-- A product with a power of two, rounded toward +∞ (R97, R99). -/
def scaleUp (x : Nat) (k : Int) : Nat := (fusedSum .up none [(dec32 x, .fin false 1 k)]).1

/-- The order of binary32 values with −0.0 below +0.0 (R113), for values that are not NaN. -/
def key32 (x : Nat) : Int :=
  if x / 2 ^ 31 % 2 = 1 then -((x % 2 ^ 31 : Nat) : Int) - 1 else ((x % 2 ^ 31 : Nat) : Int)

def isNan32 (x : Nat) : Bool := (dec32 x).isNan
def isFin32 (x : Nat) : Bool := (dec32 x).isFin

/-- MAX and MIN of the finishing chain (Table 4-8, R113). -/
def max32 (x v : Nat) : Nat × Nat :=
  if isNan32 x || isNan32 v then (nan32, if (dec32 x).isSig || (dec32 v).isSig then flagNV else 0)
  else (if key32 x < key32 v then v else x, 0)
def min32 (x v : Nat) : Nat × Nat :=
  if isNan32 x || isNan32 v then (nan32, if (dec32 x).isSig || (dec32 v).isSig then flagNV else 0)
  else (if key32 v < key32 x then v else x, 0)

/-- R95, R109: a CVT16 step. `followed` when a later narrowing to a narrower format follows it. -/
def cvt16 (rnd : Nat) (followed : Bool) (x : Nat) : Nat × Nat :=
  match dec32 x with
  | .nan s => (nan32, if s then flagNV else 0)
  | .inf n => (inf32 n, 0)
  | .fin n m e =>
    if followed then
      if m = 0 then (x, 0)
      else
        let (d, q, nx, _) := roundFin .rto 11 (-2000) m e
        ((round32 .rne n d q).1, if nx then flagNX else 0)
    else
      let (b, fl) := narrow16 (RMode.ofRnd rnd) (.fin n m e)
      (widen32 (dec16 b), fl)

/-- Storage formats of operands (Table 4-5, Table 5-6): exponent bits, mantissa bits and bias. -/
def mxShape (fmt : Nat) : Nat × Nat × Int :=
  match fmt with
  | 2 => (4, 3, 7)
  | 3 => (5, 2, 15)
  | 4 => (3, 2, 3)
  | 5 => (2, 3, 1)
  | _ => (2, 1, 1)

/-- Reads an MX element (Table 5-6): E4M3 has one NaN pattern and no infinity, E5M2 is as IEEE, the others have neither. -/
def decMx (fmt x : Nat) : FV :=
  let (eb, mb, bias) := mxShape fmt
  let neg := bitsOf x (eb + mb) 1 == 1
  let ex := bitsOf x mb eb
  let man := bitsOf x 0 mb
  if fmt = 2 ∧ ex = 15 ∧ man = 7 then .nan false
  else if fmt = 3 ∧ ex = 31 then (if man = 0 then .inf neg else .nan false)
  else if ex = 0 then .fin neg man (1 - bias - mb)
  else .fin neg (man + 2 ^ mb) (ex - bias - mb)

/-- R118, Table 5-7: an MX element with scale byte `s` widened to binary16, with flags. -/
def widenMx (fmt s x : Nat) : Nat × Nat :=
  if s = 0xFF then (nan16, 0)
  else match decMx fmt x with
    | .nan _ => (nan16, 0)
    | .inf n => ((if n then 0x8000 else 0) + 0x7C00, 0)
    | .fin n m e =>
      let (b, fl) := roundIeee fmt16 .rne m (e + s - 127)
      if b ≥ 0x7C00 then ((if n then 0x8000 else 0) + 0x7BFF, flagESAT ||| flagNX)
      else ((if n then 0x8000 else 0) + b, fl)

/-- The largest finite magnitude of an 8-bit or 4-bit output format: its encoding (Tables 5-6, 6-9). -/
def mxMax (fmt : Nat) : Nat := if fmt = 2 then 0x7E else if fmt = 3 then 0x7B else 0x7

/-- E_max of R119 and R147. -/
def mxEmax (fmt : Nat) : Int := if fmt = 2 then 8 else if fmt = 3 then 15 else 2

/-- Rounds ±m × 2^e to an MX format and saturates (the finite rows of Tables 5-8 and 6-9). -/
def roundMx (fmt : Nat) (mode : RMode) (neg : Bool) (m : Nat) (e : Int) : Nat × Nat :=
  let (eb, mb, bias) := mxShape fmt
  let sgn := if neg then 2 ^ (eb + mb) else 0
  if m = 0 then (sgn, 0)
  else
    let emin : Int := 1 - bias
    let (d, q, nx, tiny) := roundFin mode (mb + 1) emin m e
    let mag := encodeMag (mb + 1) emin d q
    if mag > mxMax fmt then (sgn + mxMax fmt, flagNX)
    else (sgn + mag, (if nx then flagNX else 0) ||| (if nx && tiny then flagUF else 0))

/-- The exponent X of R119 for a group of values: the largest finite magnitude decides. -/
def mxExp (fmt : Nat) (vs : List FV) : Int :=
  let tops := vs.filterMap (fun v => match v with
    | .fin _ m e => if m = 0 then none else some (topExp m e)
    | _ => none)
  match tops with
  | [] => 0
  | t :: ts => max (ts.foldl max t - mxEmax fmt) (-127)

/-- R119: a group narrowed to MXFP8 E4M3 (`fmt` 2) or E5M2 (3) from binary32 elements: scale byte, elements, flags. -/
def narrowMx8 (fmt : Nat) (mode : RMode) (xs : List Nat) : Nat × List Nat × Nat :=
  let x := mxExp fmt (xs.map dec32)
  let rs := xs.map (fun w => match dec32 w with
    | .nan s => ((if fmt = 2 then 0x7F else 0x7E), if s then flagNV else 0)
    | .inf n => if fmt = 2 then ((if n then 0x80 else 0) + 0x7E, flagOF ||| flagNX)
                else ((if n then 0x80 else 0) + 0x7C, 0)
    | .fin n m e => roundMx fmt mode n m (e - x))
  ((x + 127).toNat, rs.map (·.1), rs.foldl (fun f r => f ||| r.2) 0)

/-- A finite element of Table 6-9, scaled: rounded to E2M1 by RNE; UF only where it lies below 0.5 and is inexact. -/
def roundMx4 (neg : Bool) (m : Nat) (e : Int) : Nat × Nat :=
  let (code, fl) := roundMx 6 .rne neg m e
  let nx := fl &&& flagNX
  (code, if nx ≠ 0 ∧ m ≠ 0 ∧ topExp m e < -1 then flagNX ||| flagUF else nx)

/-- R147, Table 6-9: a group narrowed to MXFP4 by RNE: scale byte, elements, flags. -/
def narrowMx4 (vs : List FV) : Nat × List Nat × Nat :=
  if vs.any FV.isNan then (0xFF, vs.map (fun _ => 0), if vs.any FV.isSig then flagNV else 0)
  else
    let x := mxExp 6 vs
    let rs := vs.map (fun v => match v with
      | .nan _ => (0, 0)
      | .inf n => ((if n then 8 else 0) + 7, flagOF ||| flagNX)
      | .fin n m e => roundMx4 n m (e - x))
    ((x + 127).toNat, rs.map (·.1), rs.foldl (fun f r => f ||| r.2) 0)

/-- Integer square root by bits: the largest r < 2^n with r × r ≤ x. -/
def isqrt (x : Nat) : Nat → Nat → Nat
  | 0, r => r
  | n + 1, r => isqrt x n (if (r + 2 ^ n) * (r + 2 ^ n) ≤ x then r + 2 ^ n else r)

/-- The square root of m × 2^e, rounded to nearest even in binary32; `rsqrt` rounds its reciprocal. Both keep a sticky bit below
the digits computed, so the one rounding is exact. -/
def sqrtFin (m : Nat) (e : Int) : Nat :=
  let k : Int := 2 * (60 : Nat) + (if e % 2 = 0 then 0 else 1)
  let big := m * 2 ^ k.toNat
  let r := isqrt big (Nat.log2 big / 2 + 1) 0
  let d := 2 * r + (if r * r = big then 0 else 1)
  (round32 .rne false d ((e - k) / 2 - 1)).1

def rsqrtFin (m : Nat) (e : Int) : Nat :=
  let big := 2 ^ 400 / m
  let odd : Bool := e % 2 != 0
  let big' := if odd then big * 2 else big
  let e' : Int := if odd then -400 - e - 1 else -400 - e
  let r := isqrt big' (Nat.log2 big' / 2 + 1) 0
  let exact := decide (r * r = big') && decide (2 ^ 400 % m = 0)
  let d := 2 * r + (if exact then 0 else 1)
  (round32 .rne false d (e' / 2 - 1)).1

end Sys2Proof.Machine
end

