-- ==== Sys2Proof/Machine/Regs.lean ====
section
/-! DEFINITION. The registers of the block: every register the spec introduces by a header line, with its offset, width,
reach (R8) and, field by field, its bits, access type (R9, Table 0-4) and reset value. The tables here are those of the spec;
the file and rule of each register stand in its comment. -/

namespace Sys2Proof.Machine

/-- Access types of Table 0-4 (R9). The -ST suffix is a flag of its own (`FldInfo.st`). -/
inductive Access where
  | ro
  | rw
  | wo
  | w1c
  | w1s
  | rc
  deriving DecidableEq, Repr

/-- The registers, by the spec's names. -/
inductive Reg where
  /-- R32 (02_turns.md). -/
  | TURN_LEN
  /-- R50 (02_turns.md). -/
  | TURN_COUNT
  /-- R31 (02_turns.md). -/
  | TURN_POS
  /-- R36 (02_turns.md). -/
  | TOK_BUDGET
  /-- R36 (02_turns.md). -/
  | TOK_FIXED
  /-- R39 (02_turns.md). -/
  | TOK_Q_SHARE
  /-- R38 (02_turns.md). -/
  | TOK_Q_STAT
  /-- R36 (02_turns.md). -/
  | TOK_Q_CARRY
  /-- R44 (02_turns.md). -/
  | TURN_Q_PARK
  /-- R54 (02_turns.md). -/
  | TURN_BAL_ERR
  /-- R55 (02_turns.md). -/
  | TURN_BAL_WHERE
  /-- R56 (03_tile_grid.md). -/
  | GRID_GEOM
  /-- R62 (03_tile_grid.md). -/
  | GRID_STRIP_STATE
  /-- R66 (03_tile_grid.md). -/
  | GRID_Q_STRIPS
  /-- R66 (03_tile_grid.md). -/
  | GRID_Q_STAT
  /-- R61 (03_tile_grid.md). -/
  | GRID_MAP_ADDR
  /-- R61 (03_tile_grid.md). -/
  | GRID_MAP_DATA
  /-- R74 (03_tile_grid.md). -/
  | GRID_FENCE_STAT
  /-- R74 (03_tile_grid.md). -/
  | GRID_FENCE_REQ
  /-- R100 (04_matrix_operations.md). -/
  | MX_WIT_STAT
  /-- R100 (04_matrix_operations.md). -/
  | MX_WIT_LOG0
  /-- R100 (04_matrix_operations.md). -/
  | MX_WIT_LOG1
  /-- R114 (05_numerics.md). -/
  | NUM_FLAGS
  /-- R121 (05_numerics.md). -/
  | GH_BIN
  /-- R121 (05_numerics.md). -/
  | GH_SPECIAL
  /-- R123 (05_numerics.md). -/
  | GH_CTRL
  /-- R127 (06_memory_tiers.md). -/
  | MEM_EXT
  /-- R127 (06_memory_tiers.md). -/
  | MEM_LOT
  /-- R128 (06_memory_tiers.md). -/
  | PLZ_Q_CFG
  /-- R136 (06_memory_tiers.md). -/
  | MMU_ROOT
  /-- R141 (06_memory_tiers.md). -/
  | MMU_FQ_BASE
  /-- R141 (06_memory_tiers.md). -/
  | MMU_FQ_PTR
  /-- R143 (06_memory_tiers.md). -/
  | MMU_LEDGER
  /-- R148 (06_memory_tiers.md). -/
  | MMU_HOST_WIN
  /-- R149 (06_memory_tiers.md). -/
  | MEM_DL_CFG
  /-- R150 (06_memory_tiers.md). -/
  | MEM_DEG_STAT
  /-- R167 (07_stacks_and_cartridges.md). -/
  | MEM_RETIRE
  /-- R166 (07_stacks_and_cartridges.md). -/
  | CRT_BF_IDX
  /-- R166 (07_stacks_and_cartridges.md). -/
  | CRT_BF_DATA
  /-- R170 (07_stacks_and_cartridges.md). -/
  | CRT_STAT
  /-- R169 (07_stacks_and_cartridges.md). -/
  | CRT_CTRL
  /-- R160 (07_stacks_and_cartridges.md). -/
  | CRT_ERR
  /-- R160 (07_stacks_and_cartridges.md). -/
  | CRT_UE_LOG
  /-- R164 (07_stacks_and_cartridges.md). -/
  | STK_STAT
  /-- R164 (07_stacks_and_cartridges.md). -/
  | STK_RETIRE
  /-- R160 (07_stacks_and_cartridges.md). -/
  | STK_UE_LOG
  /-- R161 (07_stacks_and_cartridges.md). -/
  | STK_PC_ERR
  /-- R172 (07_stacks_and_cartridges.md). -/
  | MEM_ENC_STAT
  /-- R179 (08_packing.md). -/
  | CB_SLOT
  /-- R186 (08_packing.md). -/
  | PK_Q_STAT
  /-- R189 (08_packing.md). -/
  | EXP_STAT
  /-- R189 (08_packing.md). -/
  | EXP_DMG_LOG
  /-- R195 (09_streams.md). -/
  | SE_CFG
  /-- R195 (09_streams.md). -/
  | SE_Q_TAGS
  /-- R194 (09_streams.md). -/
  | SE_STAT
  /-- R203 (09_streams.md). -/
  | SE_BUF_CFG
  /-- R203 (09_streams.md). -/
  | SE_BUF_PTR
  /-- R202 (09_streams.md). -/
  | SE_BUF_GEOM
  /-- R208 (09_streams.md). -/
  | SE_BAR
  /-- R214 (10_bank_engines.md). -/
  | BANK_CFG
  /-- R230 (10_bank_engines.md). -/
  | BANK_STAT
  /-- R235 (10_bank_engines.md). -/
  | BANK_ENERGY
  /-- R245 (11_training.md). -/
  | UU_STEP_EXPECT
  /-- R245 (11_training.md). -/
  | UU_Q_KEEP
  /-- R245 (11_training.md). -/
  | UU_Q_VERDICT
  /-- R245 (11_training.md). -/
  | UU_Q_CLIP
  /-- R243 (11_training.md). -/
  | UU_Q_NF
  /-- R245 (11_training.md). -/
  | UU_Q_VCMD
  /-- R261 (11_training.md). -/
  | UU_Q_JRNL
  /-- R258 (11_training.md). -/
  | UU_STAT
  /-- R255 (11_training.md). -/
  | UU_SLOTS
  /-- R268 (12_host_attachment.md). -/
  | PT_Q_CFG
  /-- R271 (12_host_attachment.md). -/
  | PT_PF_WIN
  /-- R272 (12_host_attachment.md). -/
  | PT_REJ_LOG
  /-- R281 (12_host_attachment.md). -/
  | PT_RID
  /-- R287 (12_host_attachment.md). -/
  | PT_LINK_STAT
  /-- R285 (12_host_attachment.md). -/
  | PT_ERR_CNT
  /-- R286 (12_host_attachment.md). -/
  | PT_LINK_CFG
  /-- R295 (12_host_attachment.md). -/
  | CORE_CTRL
  /-- R300 (13_multi_module.md). -/
  | FE_MOD_ID
  /-- R303 (13_multi_module.md). -/
  | FE_CFG
  /-- R299 (13_multi_module.md). -/
  | FE_STAT
  /-- R297 (13_multi_module.md). -/
  | FE_Q_CFG
  /-- R298 (13_multi_module.md). -/
  | FE_Q_LOG
  /-- R301 (13_multi_module.md). -/
  | FE_Q_RT
  /-- R302 (13_multi_module.md). -/
  | FE_Q_ERR
  /-- R303 (13_multi_module.md). -/
  | FE_Q_DOWN
  /-- R316 (14_command_interface.md). -/
  | MB_SQ_CFG
  /-- R316 (14_command_interface.md). -/
  | MB_CQ_CFG
  /-- R313 (14_command_interface.md). -/
  | MB_SQ_DB
  /-- R314 (14_command_interface.md). -/
  | MB_CQ_DB
  /-- R315 (14_command_interface.md). -/
  | MB_STAT
  /-- R325 (14_command_interface.md). -/
  | MB_URG_DB
  /-- R330 (14_command_interface.md). -/
  | FW_STATE
  /-- R341 (15_resilience.md). -/
  | RES_STAT
  /-- R345 (15_resilience.md). -/
  | RES_CTRL
  /-- R334 (15_resilience.md). -/
  | RES_OUT_EXP
  /-- R334 (15_resilience.md). -/
  | RES_OUT_BANK
  /-- R334 (15_resilience.md). -/
  | RES_OUT_MISC
  /-- R350 (16_instruments.md). -/
  | SNAP_CFG
  /-- R351 (16_instruments.md). -/
  | SNAP_STAT
  /-- R355 (16_instruments.md). -/
  | FN_ERR
  /-- R355 (16_instruments.md). -/
  | FN_ERR_CNT
  /-- R356 (16_instruments.md). -/
  | MC_ERR_PTR
  /-- R357 (16_instruments.md). -/
  | PMC_SEL
  /-- R357 (16_instruments.md). -/
  | PMC_VAL
  /-- R359 (16_instruments.md). -/
  | PMC_DUMP_CFG
  /-- R359 (16_instruments.md). -/
  | PMC_DUMP_BASE
  /-- R360 (16_instruments.md). -/
  | PT_BW_CFG
  /-- R360 (16_instruments.md). -/
  | PT_BW_RX
  /-- R360 (16_instruments.md). -/
  | PT_BW_TX
  /-- R379 (17_security_and_debug.md). -/
  | SEC_STAT
  /-- R366 (17_security_and_debug.md). -/
  | SEC_SERIAL
  /-- R386 (18_electrical_and_mechanical.md). -/
  | PWR_STAT
  /-- R389 (18_electrical_and_mechanical.md). -/
  | PWR_CFG
  deriving DecidableEq, Repr

/-- The fields of the registers, by the spec's names: register and field. -/
inductive Fld where
  | TURN_LEN_LEN_ACTIVE
  | TURN_LEN_LEN_SEL
  | TURN_COUNT_COUNT
  | TURN_POS_PHASE
  | TURN_POS_MARK
  | TURN_POS_CYCLE
  | TOK_BUDGET_LATE
  | TOK_BUDGET_NEXT
  | TOK_BUDGET_CUR
  | TOK_FIXED_FIXED
  | TOK_Q_SHARE_SHARE
  | TOK_Q_STAT_OVERDRAW
  | TOK_Q_STAT_DEBT
  | TOK_Q_STAT_FREE
  | TOK_Q_CARRY_CARRY
  | TURN_Q_PARK_EN
  | TURN_Q_PARK_VA
  | TURN_BAL_ERR_PARK_FAULT
  | TURN_BAL_ERR_LEN_INVALID
  | TURN_BAL_ERR_SHARE_SUM
  | TURN_BAL_ERR_PARK_RECORD
  | TURN_BAL_ERR_OP_SLOT
  | TURN_BAL_ERR_FABRIC_CREDIT
  | TURN_BAL_ERR_JOURNAL_SLOT
  | TURN_BAL_ERR_POWER_TOKEN
  | TURN_BAL_ERR_REQ_TAG
  | TURN_BAL_ERR_RING_TOKEN
  | TURN_BAL_ERR_LINK_CREDIT
  | TURN_BAL_ERR_ANY
  | TURN_BAL_WHERE_INSTANCE
  | TURN_BAL_WHERE_QUARTER
  | TURN_BAL_WHERE_CODE
  | GRID_GEOM_PHYS_ROWS
  | GRID_GEOM_SPARE_ROWS
  | GRID_GEOM_STRIPS
  | GRID_STRIP_STATE_ADJ
  | GRID_STRIP_STATE_TAPS
  | GRID_STRIP_STATE_ALLEYS
  | GRID_STRIP_STATE_RETIRED
  | GRID_STRIP_STATE_OWNER
  | GRID_STRIP_STATE_STATE
  | GRID_Q_STRIPS_PENDING
  | GRID_Q_STRIPS_COUNT_ACT
  | GRID_Q_STRIPS_FIRST_ACT
  | GRID_Q_STRIPS_COUNT
  | GRID_Q_STRIPS_FIRST
  | GRID_Q_STAT_RESIZE_FAIL
  | GRID_Q_STAT_SUSPECTS
  | GRID_Q_STAT_WAITING
  | GRID_Q_STAT_BLANKS
  | GRID_MAP_ADDR_INDEX
  | GRID_MAP_ADDR_STRIP
  | GRID_MAP_ADDR_TABLE
  | GRID_MAP_DATA_VALID
  | GRID_MAP_DATA_VALUE
  | GRID_FENCE_STAT_FENCED_TOTAL
  | GRID_FENCE_STAT_PENDING
  | GRID_FENCE_STAT_TAPS_LOST
  | GRID_FENCE_STAT_Q_SPLIT
  | GRID_FENCE_STAT_SPARES_LOW
  | GRID_FENCE_STAT_STRIP_OUT
  | GRID_FENCE_STAT_REFUSED
  | GRID_FENCE_STAT_BUSY
  | GRID_FENCE_REQ_ACTION
  | GRID_FENCE_REQ_Y
  | GRID_FENCE_REQ_X
  | MX_WIT_STAT_MISMATCH
  | MX_WIT_STAT_WIT_FAIL
  | MX_WIT_STAT_SPILL_TAG
  | MX_WIT_STAT_MISMATCH_CNT
  | MX_WIT_STAT_CHECKED
  | MX_WIT_LOG0_OP_TAG
  | MX_WIT_LOG0_PROBLEM
  | MX_WIT_LOG0_CAUSE
  | MX_WIT_LOG0_K_CHUNK
  | MX_WIT_LOG1_NAMED
  | MX_WIT_LOG1_FAILED
  | MX_WIT_LOG1_ROW
  | MX_WIT_LOG1_COL
  | MX_WIT_LOG1_K_CHUNK_HI
  | NUM_FLAGS_ESAT
  | NUM_FLAGS_NV
  | NUM_FLAGS_OF
  | NUM_FLAGS_UF
  | NUM_FLAGS_NX
  | GH_BIN_SAT
  | GH_BIN_COUNT
  | GH_SPECIAL_SAT
  | GH_SPECIAL_COUNT
  | GH_CTRL_CLEAR
  | GH_CTRL_ANY_SAT
  | GH_CTRL_MAXEXP
  | MEM_EXT_REQ
  | MEM_EXT_OWNER
  | MEM_EXT_STATE
  | MEM_LOT_PRESENT
  | MEM_LOT_REQ
  | MEM_LOT_OWNER
  | MEM_LOT_STATE
  | PLZ_Q_CFG_REHOME
  | PLZ_Q_CFG_SCRATCH_ACT
  | PLZ_Q_CFG_SCRATCH_WAYS
  | MMU_ROOT_EN
  | MMU_ROOT_UNIT
  | MMU_ROOT_ADDR
  | MMU_FQ_BASE_UNIT
  | MMU_FQ_BASE_ADDR
  | MMU_FQ_PTR_FULL
  | MMU_FQ_PTR_HEAD
  | MMU_FQ_PTR_TAIL
  | MMU_LEDGER_LOG2
  | MMU_LEDGER_VA
  | MMU_HOST_WIN_EN
  | MMU_HOST_WIN_LIMIT
  | MMU_HOST_WIN_BASE
  | MEM_DL_CFG_DL_GRACE
  | MEM_DEG_STAT_SWITCHES
  | MEM_DEG_STAT_LATE
  | MEM_RETIRE_ACTION
  | MEM_RETIRE_KIND
  | MEM_RETIRE_INDEX
  | CRT_BF_IDX_INDEX
  | CRT_BF_DATA_VALID
  | CRT_BF_DATA_FRAME
  | CRT_STAT_STATE
  | CRT_STAT_LATCH
  | CRT_STAT_REJECT
  | CRT_STAT_BF_FULL
  | CRT_STAT_BADFRAMES
  | CRT_STAT_TEMP
  | CRT_CTRL_REQ
  | CRT_ERR_UE
  | CRT_ERR_UE_CNT
  | CRT_ERR_CE_CNT
  | CRT_UE_LOG_VALID
  | CRT_UE_LOG_POISON
  | CRT_UE_LOG_CH
  | CRT_UE_LOG_OWNER
  | CRT_UE_LOG_ADDR
  | STK_STAT_STATE
  | STK_STAT_RPC_VALID
  | STK_STAT_COPYING
  | STK_STAT_RPC
  | STK_STAT_SPARES_USED
  | STK_STAT_TEMP
  | STK_RETIRE_GO
  | STK_RETIRE_PC
  | STK_UE_LOG_VALID
  | STK_UE_LOG_POISON
  | STK_UE_LOG_PC
  | STK_UE_LOG_OWNER
  | STK_UE_LOG_ADDR
  | STK_PC_ERR_UE
  | STK_PC_ERR_LANE_FAIL
  | STK_PC_ERR_SPARE_USED
  | STK_PC_ERR_SPARE_FOR
  | STK_PC_ERR_FAILED_LANE
  | STK_PC_ERR_UE_CNT
  | STK_PC_ERR_CE_CNT
  | MEM_ENC_STAT_GEN
  | MEM_ENC_STAT_KEY
  | CB_SLOT_VALID
  | CB_SLOT_UNLOADING
  | CB_SLOT_OWNER
  | CB_SLOT_FMT
  | CB_SLOT_ENTRIES
  | CB_SLOT_BASE
  | CB_SLOT_UNITS
  | PK_Q_STAT_POOL_FULL
  | PK_Q_STAT_WAITING
  | PK_Q_STAT_RELOCS
  | EXP_STAT_DAMAGED
  | EXP_STAT_DAMAGED_CNT
  | EXP_STAT_RAW_BLOCKS
  | EXP_DMG_LOG_VALID
  | EXP_DMG_LOG_CAUSE
  | EXP_DMG_LOG_QUARTER
  | EXP_DMG_LOG_BLOCK
  | EXP_DMG_LOG_PAGE
  | SE_CFG_TAG_SUM
  | SE_CFG_LOOKAHEAD
  | SE_Q_TAGS_AUTO
  | SE_Q_TAGS_TAGS_ACT
  | SE_Q_TAGS_TAGS
  | SE_STAT_ISSUED
  | SE_STAT_ABANDONED
  | SE_STAT_OUT
  | SE_BUF_CFG_EN
  | SE_BUF_CFG_KIND
  | SE_BUF_CFG_SLOTS_M1
  | SE_BUF_CFG_BASE
  | SE_BUF_PTR_HEAD_PAST
  | SE_BUF_PTR_CLAIMED
  | SE_BUF_PTR_FULL
  | SE_BUF_PTR_HEAD
  | SE_BUF_GEOM_SLOT_KIB
  | SE_BUF_GEOM_ROWS
  | SE_BAR_BROKEN
  | SE_BAR_COUNT
  | BANK_CFG_EN
  | BANK_CFG_ACTIVE
  | BANK_CFG_READY
  | BANK_CFG_FORCED_EXIT
  | BANK_CFG_OWNER
  | BANK_CFG_OWNER_ACT
  | BANK_CFG_FIRST
  | BANK_CFG_COUNT
  | BANK_CFG_FIRST_ACT
  | BANK_CFG_COUNT_ACT
  | BANK_CFG_REFUSED
  | BANK_CFG_TOKENS
  | BANK_STAT_POISONED
  | BANK_STAT_BUSY
  | BANK_STAT_HOLD_CYCLES
  | BANK_ENERGY_ENERGY
  | UU_STEP_EXPECT_VSEQ
  | UU_STEP_EXPECT_STEP
  | UU_Q_KEEP_HW
  | UU_Q_KEEP_APPLY
  | UU_Q_KEEP_BAD
  | UU_Q_KEEP_VREFUSED
  | UU_Q_KEEP_INTERVAL
  | UU_Q_KEEP_CLEAN
  | UU_Q_KEEP_E_STEP
  | UU_Q_KEEP_E
  | UU_Q_VERDICT_CLIP
  | UU_Q_VERDICT_STEP
  | UU_Q_CLIP_CLIP
  | UU_Q_NF_NF
  | UU_Q_VCMD_SKIP
  | UU_Q_VCMD_STEP
  | UU_Q_JRNL_EN
  | UU_Q_JRNL_OFFSET
  | UU_STAT_REPLAY
  | UU_STAT_DROP
  | UU_STAT_JBAD
  | UU_STAT_QUEUED
  | UU_STAT_QUARTER
  | UU_STAT_BUSY
  | UU_STAT_SHARDS
  | UU_SLOTS_SLOT_Q
  | UU_SLOTS_SLOT_STATE
  | PT_Q_CFG_REQ_IDE
  | PT_Q_CFG_HOST_PORT
  | PT_Q_CFG_INT_ROUTE
  | PT_Q_CFG_HOLDOFF
  | PT_Q_CFG_B2_BASE
  | PT_PF_WIN_EN
  | PT_PF_WIN_QUARTER
  | PT_PF_WIN_BASE
  | PT_REJ_LOG_VALID
  | PT_REJ_LOG_CAUSE
  | PT_REJ_LOG_FUNC
  | PT_REJ_LOG_RID
  | PT_REJ_LOG_REJECTS
  | PT_RID_EN
  | PT_RID_MASK
  | PT_RID_RID
  | PT_LINK_STAT_UP
  | PT_LINK_STAT_CACHE
  | PT_LINK_STAT_FLIT
  | PT_LINK_STAT_WIDTH
  | PT_LINK_STAT_RATE
  | PT_LINK_STAT_NARROWED
  | PT_LINK_STAT_DOWN_EVT
  | PT_LINK_STAT_ESCALATED
  | PT_LINK_STAT_IDE_FAIL
  | PT_LINK_STAT_BAD_LANE
  | PT_LINK_STAT_RECOV
  | PT_ERR_CNT_FEC_CORR
  | PT_ERR_CNT_CRC_ERR
  | PT_ERR_CNT_REPLAY_TX
  | PT_LINK_CFG_REPLAY_LIMIT
  | PT_LINK_CFG_HOST_TMO
  | CORE_CTRL_RUN
  | CORE_CTRL_HALTED
  | CORE_CTRL_BOOT
  | FE_MOD_ID_MOD_ID
  | FE_CFG_RETRY_MAX
  | FE_CFG_RETX_US
  | FE_STAT_SENT
  | FE_STAT_OUT
  | FE_STAT_RESENT
  | FE_Q_CFG_RX_EN
  | FE_Q_CFG_AUTO
  | FE_Q_CFG_CREDITS
  | FE_Q_CFG_CREDITS_ACT
  | FE_Q_CFG_RX_OFF
  | FE_Q_LOG_VA
  | FE_Q_RT_GO
  | FE_Q_RT_RT_HELD
  | FE_Q_RT_VA
  | FE_Q_ERR_EPOCH_ACT
  | FE_Q_ERR_FOREIGN
  | FE_Q_ERR_RANGE
  | FE_Q_ERR_TIMEOUT
  | FE_Q_ERR_PROTO
  | FE_Q_ERR_CREDIT_SUM
  | FE_Q_ERR_ROUTE
  | FE_Q_DOWN_DOWN
  | MB_SQ_CFG_BASE
  | MB_SQ_CFG_EN
  | MB_SQ_CFG_LOC
  | MB_SQ_CFG_PORT
  | MB_SQ_CFG_LOG2
  | MB_CQ_CFG_BASE
  | MB_CQ_CFG_EN
  | MB_CQ_CFG_LOC
  | MB_CQ_CFG_LOG2
  | MB_SQ_DB_TAIL
  | MB_CQ_DB_HEAD
  | MB_STAT_RING_FAULT
  | MB_STAT_DB_DISCARD
  | MB_STAT_HANDSHAKE
  | MB_STAT_HALTED
  | MB_STAT_CQ_TAIL
  | MB_STAT_SQ_HEAD
  | MB_STAT_CQ_WAIT
  | MB_URG_DB_BUSY
  | MB_URG_DB_GO
  | FW_STATE_SERVICE
  | FW_STATE_CFW_SLOT
  | FW_STATE_MFW_SLOT
  | FW_STATE_CP_PAIR
  | FW_STATE_SWAP_PEND
  | FW_STATE_CFW_VER
  | FW_STATE_MFW_VER
  | RES_STAT_LEVEL
  | RES_STAT_LAST_RESET
  | RES_STAT_CP_SPARE
  | RES_STAT_FAILOVER
  | RES_STAT_UNIT_OUT
  | RES_STAT_STACK_LOST
  | RES_STAT_DROPPED_LINES
  | RES_STAT_HOST_ABANDONED
  | RES_CTRL_KEY
  | RES_CTRL_MOD
  | RES_OUT_EXP_EXP
  | RES_OUT_BANK_BANK
  | RES_OUT_MISC_UU
  | RES_OUT_MISC_SE
  | RES_OUT_MISC_PACK
  | SNAP_CFG_ARM
  | SNAP_CFG_REPEAT
  | SNAP_CFG_NOW
  | SNAP_CFG_SRC
  | SNAP_CFG_MARK
  | SNAP_CFG_QUARTER
  | SNAP_CFG_EVENT
  | SNAP_STAT_BUSY
  | SNAP_STAT_VALID
  | SNAP_STAT_MISSED
  | SNAP_STAT_SEQ
  | FN_ERR_VALID
  | FN_ERR_CODE
  | FN_ERR_DETAIL
  | FN_ERR_CNT_COUNT
  | MC_ERR_PTR_OVERFLOW
  | MC_ERR_PTR_DROPPED
  | MC_ERR_PTR_HEAD
  | MC_ERR_PTR_TAIL
  | PMC_SEL_EN
  | PMC_SEL_EDGE
  | PMC_SEL_QUARTER
  | PMC_SEL_INSTANCE
  | PMC_SEL_EVENT
  | PMC_VAL_SAT
  | PMC_VAL_COUNT
  | PMC_DUMP_CFG_EN
  | PMC_DUMP_CFG_PORT
  | PMC_DUMP_CFG_LOST
  | PMC_DUMP_CFG_LOG2
  | PMC_DUMP_CFG_PERIOD
  | PMC_DUMP_BASE_BASE
  | PT_BW_CFG_WIN_LOG2
  | PT_BW_RX_RATE
  | PT_BW_RX_BYTES
  | PT_BW_TX_RATE
  | PT_BW_TX_BYTES
  | SEC_STAT_DBG_OPEN
  | SEC_STAT_SCOPE
  | SEC_STAT_ERASE_PEND
  | SEC_STAT_UNLOCK_FAILS
  | SEC_STAT_MFW_FALLBACK
  | SEC_STAT_CFW_FALLBACK
  | SEC_STAT_REVOKED
  | SEC_STAT_SVN_MIN_MFW
  | SEC_STAT_SVN_MIN_CFW
  | SEC_STAT_SVN_MFW
  | SEC_STAT_SVN_CFW
  | SEC_SERIAL_SERIAL
  | PWR_STAT_SAG
  | PWR_STAT_THROTTLE
  | PWR_STAT_FLOW_LOW
  | PWR_STAT_TRIP
  | PWR_STAT_PDOWN_LAST
  | PWR_STAT_PDOWN_CAUSE
  | PWR_STAT_T_MAX
  | PWR_STAT_FLOW
  | PWR_STAT_C_EFF
  | PWR_STAT_VIN_MIN
  | PWR_CFG_THERM_RESUME
  | PWR_CFG_THERM_LIMIT
  | PWR_CFG_CAP_SET
  deriving DecidableEq, Repr

/-- What the spec gives for a field: its register, its bits, access type, whether it is sticky (-ST), its reset values on the
LT1200 and the LT0960, and the agents its description lets write it (1 PF, 2 VF, 4 CP, 8 MC). -/
structure FldInfo where
  reg : Reg
  hi : Nat
  lo : Nat
  acc : Access
  st : Bool
  reset12 : Nat
  reset09 : Nat
  writers : Nat
  deriving DecidableEq, Repr

/-- What the spec gives for a register: BAR0 offset (page offset for a mailbox register), width in bits, the index
dimensions as (stride, count on the LT1200, count on the LT0960), the agents that reach it and those that may write it
(1 PF, 2 VF, 4 CP, 8 MC), whether it is a mailbox register, and whether it belongs to the management plane. -/
structure RegInfo where
  off : Nat
  bits : Nat
  dims : List (Nat × Nat × Nat)
  readers : Nat
  writers : Nat
  page : Bool
  mgmt : Bool
  deriving DecidableEq, Repr

/-- The field tables. The fused values (SEC_STAT, SEC_SERIAL) are the model's (log entry 3, DESIGN CHOICE). -/
def Fld.info : Fld → FldInfo
  | .TURN_LEN_LEN_ACTIVE => ⟨.TURN_LEN, 10, 8, .ro, false, 2, 2, 15⟩
  | .TURN_LEN_LEN_SEL => ⟨.TURN_LEN, 2, 0, .rw, false, 2, 2, 15⟩
  | .TURN_COUNT_COUNT => ⟨.TURN_COUNT, 63, 0, .ro, false, 0, 0, 15⟩
  | .TURN_POS_PHASE => ⟨.TURN_POS, 28, 27, .ro, false, 0, 0, 15⟩
  | .TURN_POS_MARK => ⟨.TURN_POS, 26, 24, .ro, false, 0, 0, 15⟩
  | .TURN_POS_CYCLE => ⟨.TURN_POS, 23, 0, .ro, false, 0, 0, 15⟩
  | .TOK_BUDGET_LATE => ⟨.TOK_BUDGET, 63, 63, .ro, false, 0, 0, 15⟩
  | .TOK_BUDGET_NEXT => ⟨.TOK_BUDGET, 52, 32, .rw, false, 65536, 51118, 8⟩
  | .TOK_BUDGET_CUR => ⟨.TOK_BUDGET, 20, 0, .ro, false, 65536, 51118, 15⟩
  | .TOK_FIXED_FIXED => ⟨.TOK_FIXED, 20, 0, .rw, false, 0, 0, 8⟩
  | .TOK_Q_SHARE_SHARE => ⟨.TOK_Q_SHARE, 12, 0, .rw, false, 0, 0, 4⟩
  | .TOK_Q_STAT_OVERDRAW => ⟨.TOK_Q_STAT, 63, 63, .w1c, true, 0, 0, 15⟩
  | .TOK_Q_STAT_DEBT => ⟨.TOK_Q_STAT, 52, 32, .ro, false, 0, 0, 15⟩
  | .TOK_Q_STAT_FREE => ⟨.TOK_Q_STAT, 20, 0, .ro, false, 0, 0, 15⟩
  | .TOK_Q_CARRY_CARRY => ⟨.TOK_Q_CARRY, 20, 0, .ro, false, 0, 0, 15⟩
  | .TURN_Q_PARK_EN => ⟨.TURN_Q_PARK, 63, 63, .rw, false, 0, 0, 15⟩
  | .TURN_Q_PARK_VA => ⟨.TURN_Q_PARK, 51, 16, .rw, false, 0, 0, 15⟩
  | .TURN_BAL_ERR_PARK_FAULT => ⟨.TURN_BAL_ERR, 11, 11, .w1c, true, 0, 0, 15⟩
  | .TURN_BAL_ERR_LEN_INVALID => ⟨.TURN_BAL_ERR, 10, 10, .w1c, true, 0, 0, 15⟩
  | .TURN_BAL_ERR_SHARE_SUM => ⟨.TURN_BAL_ERR, 9, 9, .w1c, true, 0, 0, 15⟩
  | .TURN_BAL_ERR_PARK_RECORD => ⟨.TURN_BAL_ERR, 8, 8, .w1c, true, 0, 0, 15⟩
  | .TURN_BAL_ERR_OP_SLOT => ⟨.TURN_BAL_ERR, 7, 7, .w1c, true, 0, 0, 15⟩
  | .TURN_BAL_ERR_FABRIC_CREDIT => ⟨.TURN_BAL_ERR, 6, 6, .w1c, true, 0, 0, 15⟩
  | .TURN_BAL_ERR_JOURNAL_SLOT => ⟨.TURN_BAL_ERR, 5, 5, .w1c, true, 0, 0, 15⟩
  | .TURN_BAL_ERR_POWER_TOKEN => ⟨.TURN_BAL_ERR, 4, 4, .w1c, true, 0, 0, 15⟩
  | .TURN_BAL_ERR_REQ_TAG => ⟨.TURN_BAL_ERR, 3, 3, .w1c, true, 0, 0, 15⟩
  | .TURN_BAL_ERR_RING_TOKEN => ⟨.TURN_BAL_ERR, 2, 2, .w1c, true, 0, 0, 15⟩
  | .TURN_BAL_ERR_LINK_CREDIT => ⟨.TURN_BAL_ERR, 1, 1, .w1c, true, 0, 0, 15⟩
  | .TURN_BAL_ERR_ANY => ⟨.TURN_BAL_ERR, 0, 0, .ro, false, 0, 0, 15⟩
  | .TURN_BAL_WHERE_INSTANCE => ⟨.TURN_BAL_WHERE, 31, 8, .ro, true, 0, 0, 15⟩
  | .TURN_BAL_WHERE_QUARTER => ⟨.TURN_BAL_WHERE, 7, 4, .ro, true, 0, 0, 15⟩
  | .TURN_BAL_WHERE_CODE => ⟨.TURN_BAL_WHERE, 3, 0, .ro, true, 0, 0, 15⟩
  | .GRID_GEOM_PHYS_ROWS => ⟨.GRID_GEOM, 26, 16, .ro, false, 1040, 1040, 15⟩
  | .GRID_GEOM_SPARE_ROWS => ⟨.GRID_GEOM, 12, 8, .ro, false, 16, 16, 15⟩
  | .GRID_GEOM_STRIPS => ⟨.GRID_GEOM, 4, 0, .ro, false, 16, 12, 15⟩
  | .GRID_STRIP_STATE_ADJ => ⟨.GRID_STRIP_STATE, 31, 31, .ro, false, 0, 0, 15⟩
  | .GRID_STRIP_STATE_TAPS => ⟨.GRID_STRIP_STATE, 30, 27, .ro, false, 0, 0, 15⟩
  | .GRID_STRIP_STATE_ALLEYS => ⟨.GRID_STRIP_STATE, 26, 16, .ro, false, 0, 0, 15⟩
  | .GRID_STRIP_STATE_RETIRED => ⟨.GRID_STRIP_STATE, 12, 8, .ro, false, 0, 0, 15⟩
  | .GRID_STRIP_STATE_OWNER => ⟨.GRID_STRIP_STATE, 7, 4, .ro, false, 0, 0, 15⟩
  | .GRID_STRIP_STATE_STATE => ⟨.GRID_STRIP_STATE, 1, 0, .ro, false, 0, 0, 15⟩
  | .GRID_Q_STRIPS_PENDING => ⟨.GRID_Q_STRIPS, 31, 31, .ro, false, 0, 0, 15⟩
  | .GRID_Q_STRIPS_COUNT_ACT => ⟨.GRID_Q_STRIPS, 28, 24, .ro, false, 0, 0, 15⟩
  | .GRID_Q_STRIPS_FIRST_ACT => ⟨.GRID_Q_STRIPS, 19, 16, .ro, false, 0, 0, 15⟩
  | .GRID_Q_STRIPS_COUNT => ⟨.GRID_Q_STRIPS, 12, 8, .rw, false, 0, 0, 4⟩
  | .GRID_Q_STRIPS_FIRST => ⟨.GRID_Q_STRIPS, 3, 0, .rw, false, 0, 0, 15⟩
  | .GRID_Q_STAT_RESIZE_FAIL => ⟨.GRID_Q_STAT, 31, 31, .w1c, true, 0, 0, 15⟩
  | .GRID_Q_STAT_SUSPECTS => ⟨.GRID_Q_STAT, 27, 24, .ro, false, 0, 0, 15⟩
  | .GRID_Q_STAT_WAITING => ⟨.GRID_Q_STAT, 20, 12, .ro, false, 0, 0, 15⟩
  | .GRID_Q_STAT_BLANKS => ⟨.GRID_Q_STAT, 8, 0, .ro, false, 0, 0, 15⟩
  | .GRID_MAP_ADDR_INDEX => ⟨.GRID_MAP_ADDR, 18, 8, .rw, false, 0, 0, 15⟩
  | .GRID_MAP_ADDR_STRIP => ⟨.GRID_MAP_ADDR, 7, 4, .rw, false, 0, 0, 15⟩
  | .GRID_MAP_ADDR_TABLE => ⟨.GRID_MAP_ADDR, 0, 0, .rw, false, 0, 0, 15⟩
  | .GRID_MAP_DATA_VALID => ⟨.GRID_MAP_DATA, 15, 15, .ro, false, 0, 0, 15⟩
  | .GRID_MAP_DATA_VALUE => ⟨.GRID_MAP_DATA, 10, 0, .ro, false, 0, 0, 15⟩
  | .GRID_FENCE_STAT_FENCED_TOTAL => ⟨.GRID_FENCE_STAT, 31, 16, .ro, false, 0, 0, 15⟩
  | .GRID_FENCE_STAT_PENDING => ⟨.GRID_FENCE_STAT, 15, 8, .ro, false, 0, 0, 15⟩
  | .GRID_FENCE_STAT_TAPS_LOST => ⟨.GRID_FENCE_STAT, 5, 5, .w1c, true, 0, 0, 15⟩
  | .GRID_FENCE_STAT_Q_SPLIT => ⟨.GRID_FENCE_STAT, 4, 4, .w1c, true, 0, 0, 15⟩
  | .GRID_FENCE_STAT_SPARES_LOW => ⟨.GRID_FENCE_STAT, 3, 3, .w1c, true, 0, 0, 15⟩
  | .GRID_FENCE_STAT_STRIP_OUT => ⟨.GRID_FENCE_STAT, 2, 2, .w1c, true, 0, 0, 15⟩
  | .GRID_FENCE_STAT_REFUSED => ⟨.GRID_FENCE_STAT, 1, 1, .w1c, true, 0, 0, 15⟩
  | .GRID_FENCE_STAT_BUSY => ⟨.GRID_FENCE_STAT, 0, 0, .ro, false, 0, 0, 15⟩
  | .GRID_FENCE_REQ_ACTION => ⟨.GRID_FENCE_REQ, 23, 22, .wo, false, 0, 0, 15⟩
  | .GRID_FENCE_REQ_Y => ⟨.GRID_FENCE_REQ, 21, 11, .wo, false, 0, 0, 15⟩
  | .GRID_FENCE_REQ_X => ⟨.GRID_FENCE_REQ, 10, 0, .wo, false, 0, 0, 15⟩
  | .MX_WIT_STAT_MISMATCH => ⟨.MX_WIT_STAT, 63, 63, .w1c, true, 0, 0, 15⟩
  | .MX_WIT_STAT_WIT_FAIL => ⟨.MX_WIT_STAT, 62, 62, .w1c, true, 0, 0, 15⟩
  | .MX_WIT_STAT_SPILL_TAG => ⟨.MX_WIT_STAT, 61, 61, .w1c, true, 0, 0, 15⟩
  | .MX_WIT_STAT_MISMATCH_CNT => ⟨.MX_WIT_STAT, 47, 32, .rc, false, 0, 0, 15⟩
  | .MX_WIT_STAT_CHECKED => ⟨.MX_WIT_STAT, 31, 0, .rc, false, 0, 0, 15⟩
  | .MX_WIT_LOG0_OP_TAG => ⟨.MX_WIT_LOG0, 63, 32, .ro, true, 0, 0, 15⟩
  | .MX_WIT_LOG0_PROBLEM => ⟨.MX_WIT_LOG0, 31, 20, .ro, true, 0, 0, 15⟩
  | .MX_WIT_LOG0_CAUSE => ⟨.MX_WIT_LOG0, 19, 16, .ro, true, 0, 0, 15⟩
  | .MX_WIT_LOG0_K_CHUNK => ⟨.MX_WIT_LOG0, 15, 0, .ro, true, 0, 0, 15⟩
  | .MX_WIT_LOG1_NAMED => ⟨.MX_WIT_LOG1, 63, 63, .ro, true, 0, 0, 15⟩
  | .MX_WIT_LOG1_FAILED => ⟨.MX_WIT_LOG1, 55, 48, .ro, true, 0, 0, 15⟩
  | .MX_WIT_LOG1_ROW => ⟨.MX_WIT_LOG1, 41, 32, .ro, true, 0, 0, 15⟩
  | .MX_WIT_LOG1_COL => ⟨.MX_WIT_LOG1, 25, 16, .ro, true, 0, 0, 15⟩
  | .MX_WIT_LOG1_K_CHUNK_HI => ⟨.MX_WIT_LOG1, 15, 0, .ro, true, 0, 0, 15⟩
  | .NUM_FLAGS_ESAT => ⟨.NUM_FLAGS, 4, 4, .w1c, true, 0, 0, 15⟩
  | .NUM_FLAGS_NV => ⟨.NUM_FLAGS, 3, 3, .w1c, true, 0, 0, 15⟩
  | .NUM_FLAGS_OF => ⟨.NUM_FLAGS, 2, 2, .w1c, true, 0, 0, 15⟩
  | .NUM_FLAGS_UF => ⟨.NUM_FLAGS, 1, 1, .w1c, true, 0, 0, 15⟩
  | .NUM_FLAGS_NX => ⟨.NUM_FLAGS, 0, 0, .w1c, true, 0, 0, 15⟩
  | .GH_BIN_SAT => ⟨.GH_BIN, 63, 63, .ro, false, 0, 0, 15⟩
  | .GH_BIN_COUNT => ⟨.GH_BIN, 47, 0, .ro, false, 0, 0, 15⟩
  | .GH_SPECIAL_SAT => ⟨.GH_SPECIAL, 63, 63, .ro, false, 0, 0, 15⟩
  | .GH_SPECIAL_COUNT => ⟨.GH_SPECIAL, 47, 0, .ro, false, 0, 0, 15⟩
  | .GH_CTRL_CLEAR => ⟨.GH_CTRL, 31, 31, .wo, false, 0, 0, 15⟩
  | .GH_CTRL_ANY_SAT => ⟨.GH_CTRL, 30, 30, .ro, false, 0, 0, 15⟩
  | .GH_CTRL_MAXEXP => ⟨.GH_CTRL, 7, 0, .ro, false, 0, 0, 15⟩
  | .MEM_EXT_REQ => ⟨.MEM_EXT, 9, 8, .wo, false, 0, 0, 4⟩
  | .MEM_EXT_OWNER => ⟨.MEM_EXT, 7, 4, .rw, false, 0, 0, 4⟩
  | .MEM_EXT_STATE => ⟨.MEM_EXT, 1, 0, .ro, false, 0, 0, 15⟩
  | .MEM_LOT_PRESENT => ⟨.MEM_LOT, 10, 10, .ro, false, 0, 0, 15⟩
  | .MEM_LOT_REQ => ⟨.MEM_LOT, 9, 8, .wo, false, 0, 0, 4⟩
  | .MEM_LOT_OWNER => ⟨.MEM_LOT, 7, 4, .rw, false, 0, 0, 4⟩
  | .MEM_LOT_STATE => ⟨.MEM_LOT, 1, 0, .ro, false, 0, 0, 15⟩
  | .PLZ_Q_CFG_REHOME => ⟨.PLZ_Q_CFG, 31, 31, .ro, false, 0, 0, 15⟩
  | .PLZ_Q_CFG_SCRATCH_ACT => ⟨.PLZ_Q_CFG, 11, 8, .ro, false, 0, 0, 15⟩
  | .PLZ_Q_CFG_SCRATCH_WAYS => ⟨.PLZ_Q_CFG, 3, 0, .rw, false, 0, 0, 4⟩
  | .MMU_ROOT_EN => ⟨.MMU_ROOT, 63, 63, .rw, false, 0, 0, 15⟩
  | .MMU_ROOT_UNIT => ⟨.MMU_ROOT, 59, 56, .rw, false, 0, 0, 15⟩
  | .MMU_ROOT_ADDR => ⟨.MMU_ROOT, 51, 6, .rw, false, 0, 0, 15⟩
  | .MMU_FQ_BASE_UNIT => ⟨.MMU_FQ_BASE, 59, 56, .rw, false, 0, 0, 15⟩
  | .MMU_FQ_BASE_ADDR => ⟨.MMU_FQ_BASE, 51, 6, .rw, false, 0, 0, 15⟩
  | .MMU_FQ_PTR_FULL => ⟨.MMU_FQ_PTR, 31, 31, .ro, false, 0, 0, 15⟩
  | .MMU_FQ_PTR_HEAD => ⟨.MMU_FQ_PTR, 15, 8, .rw, false, 0, 0, 4⟩
  | .MMU_FQ_PTR_TAIL => ⟨.MMU_FQ_PTR, 7, 0, .ro, false, 0, 0, 15⟩
  | .MMU_LEDGER_LOG2 => ⟨.MMU_LEDGER, 56, 52, .rw, false, 0, 0, 15⟩
  | .MMU_LEDGER_VA => ⟨.MMU_LEDGER, 51, 6, .rw, false, 0, 0, 15⟩
  | .MMU_HOST_WIN_EN => ⟨.MMU_HOST_WIN, 63, 63, .rw, false, 0, 0, 15⟩
  | .MMU_HOST_WIN_LIMIT => ⟨.MMU_HOST_WIN, 53, 32, .rw, false, 0, 0, 15⟩
  | .MMU_HOST_WIN_BASE => ⟨.MMU_HOST_WIN, 21, 0, .rw, false, 0, 0, 15⟩
  | .MEM_DL_CFG_DL_GRACE => ⟨.MEM_DL_CFG, 15, 0, .rw, false, 2048, 2048, 15⟩
  | .MEM_DEG_STAT_SWITCHES => ⟨.MEM_DEG_STAT, 63, 32, .rc, false, 0, 0, 15⟩
  | .MEM_DEG_STAT_LATE => ⟨.MEM_DEG_STAT, 31, 0, .rc, false, 0, 0, 15⟩
  | .MEM_RETIRE_ACTION => ⟨.MEM_RETIRE, 31, 30, .wo, false, 0, 0, 15⟩
  | .MEM_RETIRE_KIND => ⟨.MEM_RETIRE, 29, 29, .wo, false, 0, 0, 15⟩
  | .MEM_RETIRE_INDEX => ⟨.MEM_RETIRE, 10, 0, .wo, false, 0, 0, 15⟩
  | .CRT_BF_IDX_INDEX => ⟨.CRT_BF_IDX, 9, 0, .rw, false, 0, 0, 15⟩
  | .CRT_BF_DATA_VALID => ⟨.CRT_BF_DATA, 31, 31, .rw, false, 0, 0, 15⟩
  | .CRT_BF_DATA_FRAME => ⟨.CRT_BF_DATA, 23, 0, .rw, false, 0, 0, 15⟩
  | .CRT_STAT_STATE => ⟨.CRT_STAT, 31, 29, .ro, false, 0, 0, 15⟩
  | .CRT_STAT_LATCH => ⟨.CRT_STAT, 28, 28, .ro, false, 0, 0, 15⟩
  | .CRT_STAT_REJECT => ⟨.CRT_STAT, 27, 27, .w1c, true, 0, 0, 15⟩
  | .CRT_STAT_BF_FULL => ⟨.CRT_STAT, 26, 26, .w1c, true, 0, 0, 15⟩
  | .CRT_STAT_BADFRAMES => ⟨.CRT_STAT, 25, 15, .ro, false, 0, 0, 15⟩
  | .CRT_STAT_TEMP => ⟨.CRT_STAT, 7, 0, .ro, false, 0, 0, 15⟩
  | .CRT_CTRL_REQ => ⟨.CRT_CTRL, 1, 0, .wo, false, 0, 0, 15⟩
  | .CRT_ERR_UE => ⟨.CRT_ERR, 63, 63, .w1c, true, 0, 0, 15⟩
  | .CRT_ERR_UE_CNT => ⟨.CRT_ERR, 48, 32, .rc, false, 0, 0, 15⟩
  | .CRT_ERR_CE_CNT => ⟨.CRT_ERR, 31, 0, .rc, false, 0, 0, 15⟩
  | .CRT_UE_LOG_VALID => ⟨.CRT_UE_LOG, 63, 63, .w1c, true, 0, 0, 15⟩
  | .CRT_UE_LOG_POISON => ⟨.CRT_UE_LOG, 62, 62, .ro, true, 0, 0, 15⟩
  | .CRT_UE_LOG_CH => ⟨.CRT_UE_LOG, 61, 57, .ro, true, 0, 0, 15⟩
  | .CRT_UE_LOG_OWNER => ⟨.CRT_UE_LOG, 55, 52, .ro, true, 0, 0, 15⟩
  | .CRT_UE_LOG_ADDR => ⟨.CRT_UE_LOG, 39, 6, .ro, true, 0, 0, 15⟩
  | .STK_STAT_STATE => ⟨.STK_STAT, 31, 30, .ro, false, 0, 0, 15⟩
  | .STK_STAT_RPC_VALID => ⟨.STK_STAT, 29, 29, .ro, false, 0, 0, 15⟩
  | .STK_STAT_COPYING => ⟨.STK_STAT, 28, 28, .ro, false, 0, 0, 15⟩
  | .STK_STAT_RPC => ⟨.STK_STAT, 27, 22, .ro, false, 0, 0, 15⟩
  | .STK_STAT_SPARES_USED => ⟨.STK_STAT, 21, 15, .ro, false, 0, 0, 15⟩
  | .STK_STAT_TEMP => ⟨.STK_STAT, 7, 0, .ro, false, 0, 0, 15⟩
  | .STK_RETIRE_GO => ⟨.STK_RETIRE, 31, 31, .wo, false, 0, 0, 15⟩
  | .STK_RETIRE_PC => ⟨.STK_RETIRE, 5, 0, .wo, false, 0, 0, 15⟩
  | .STK_UE_LOG_VALID => ⟨.STK_UE_LOG, 63, 63, .w1c, true, 0, 0, 15⟩
  | .STK_UE_LOG_POISON => ⟨.STK_UE_LOG, 62, 62, .ro, true, 0, 0, 15⟩
  | .STK_UE_LOG_PC => ⟨.STK_UE_LOG, 61, 56, .ro, true, 0, 0, 15⟩
  | .STK_UE_LOG_OWNER => ⟨.STK_UE_LOG, 55, 52, .ro, true, 0, 0, 15⟩
  | .STK_UE_LOG_ADDR => ⟨.STK_UE_LOG, 36, 6, .ro, true, 0, 0, 15⟩
  | .STK_PC_ERR_UE => ⟨.STK_PC_ERR, 63, 63, .w1c, true, 0, 0, 15⟩
  | .STK_PC_ERR_LANE_FAIL => ⟨.STK_PC_ERR, 62, 62, .w1c, true, 0, 0, 15⟩
  | .STK_PC_ERR_SPARE_USED => ⟨.STK_PC_ERR, 61, 61, .ro, false, 0, 0, 15⟩
  | .STK_PC_ERR_SPARE_FOR => ⟨.STK_PC_ERR, 60, 55, .ro, false, 0, 0, 15⟩
  | .STK_PC_ERR_FAILED_LANE => ⟨.STK_PC_ERR, 54, 49, .ro, true, 0, 0, 15⟩
  | .STK_PC_ERR_UE_CNT => ⟨.STK_PC_ERR, 48, 32, .rc, false, 0, 0, 15⟩
  | .STK_PC_ERR_CE_CNT => ⟨.STK_PC_ERR, 31, 0, .rc, false, 0, 0, 15⟩
  | .MEM_ENC_STAT_GEN => ⟨.MEM_ENC_STAT, 15, 8, .ro, false, 0, 0, 15⟩
  | .MEM_ENC_STAT_KEY => ⟨.MEM_ENC_STAT, 1, 0, .ro, false, 0, 0, 15⟩
  | .CB_SLOT_VALID => ⟨.CB_SLOT, 63, 63, .rw, false, 0, 0, 15⟩
  | .CB_SLOT_UNLOADING => ⟨.CB_SLOT, 62, 62, .rw, false, 0, 0, 15⟩
  | .CB_SLOT_OWNER => ⟨.CB_SLOT, 59, 56, .rw, false, 0, 0, 15⟩
  | .CB_SLOT_FMT => ⟨.CB_SLOT, 55, 53, .rw, false, 0, 0, 15⟩
  | .CB_SLOT_ENTRIES => ⟨.CB_SLOT, 44, 32, .rw, false, 0, 0, 15⟩
  | .CB_SLOT_BASE => ⟨.CB_SLOT, 27, 16, .rw, false, 0, 0, 15⟩
  | .CB_SLOT_UNITS => ⟨.CB_SLOT, 15, 0, .rw, false, 0, 0, 15⟩
  | .PK_Q_STAT_POOL_FULL => ⟨.PK_Q_STAT, 63, 63, .w1c, true, 0, 0, 15⟩
  | .PK_Q_STAT_WAITING => ⟨.PK_Q_STAT, 62, 62, .ro, false, 0, 0, 15⟩
  | .PK_Q_STAT_RELOCS => ⟨.PK_Q_STAT, 31, 0, .rc, false, 0, 0, 15⟩
  | .EXP_STAT_DAMAGED => ⟨.EXP_STAT, 63, 63, .w1c, true, 0, 0, 15⟩
  | .EXP_STAT_DAMAGED_CNT => ⟨.EXP_STAT, 47, 32, .rc, false, 0, 0, 15⟩
  | .EXP_STAT_RAW_BLOCKS => ⟨.EXP_STAT, 31, 0, .rc, false, 0, 0, 15⟩
  | .EXP_DMG_LOG_VALID => ⟨.EXP_DMG_LOG, 63, 63, .w1c, true, 0, 0, 15⟩
  | .EXP_DMG_LOG_CAUSE => ⟨.EXP_DMG_LOG, 62, 60, .ro, true, 0, 0, 15⟩
  | .EXP_DMG_LOG_QUARTER => ⟨.EXP_DMG_LOG, 59, 56, .ro, true, 0, 0, 15⟩
  | .EXP_DMG_LOG_BLOCK => ⟨.EXP_DMG_LOG, 50, 37, .ro, true, 0, 0, 15⟩
  | .EXP_DMG_LOG_PAGE => ⟨.EXP_DMG_LOG, 36, 1, .ro, true, 0, 0, 15⟩
  | .SE_CFG_TAG_SUM => ⟨.SE_CFG, 31, 31, .w1c, true, 0, 0, 15⟩
  | .SE_CFG_LOOKAHEAD => ⟨.SE_CFG, 15, 0, .rw, false, 4096, 4096, 4⟩
  | .SE_Q_TAGS_AUTO => ⟨.SE_Q_TAGS, 31, 31, .rw, false, 1, 1, 15⟩
  | .SE_Q_TAGS_TAGS_ACT => ⟨.SE_Q_TAGS, 25, 16, .ro, false, 0, 0, 15⟩
  | .SE_Q_TAGS_TAGS => ⟨.SE_Q_TAGS, 9, 0, .rw, false, 0, 0, 4⟩
  | .SE_STAT_ISSUED => ⟨.SE_STAT, 63, 32, .rc, false, 0, 0, 15⟩
  | .SE_STAT_ABANDONED => ⟨.SE_STAT, 25, 16, .ro, false, 0, 0, 15⟩
  | .SE_STAT_OUT => ⟨.SE_STAT, 9, 0, .ro, false, 0, 0, 15⟩
  | .SE_BUF_CFG_EN => ⟨.SE_BUF_CFG, 63, 63, .rw, false, 0, 0, 15⟩
  | .SE_BUF_CFG_KIND => ⟨.SE_BUF_CFG, 62, 62, .rw, false, 0, 0, 15⟩
  | .SE_BUF_CFG_SLOTS_M1 => ⟨.SE_BUF_CFG, 61, 56, .rw, false, 0, 0, 15⟩
  | .SE_BUF_CFG_BASE => ⟨.SE_BUF_CFG, 51, 10, .rw, false, 0, 0, 15⟩
  | .SE_BUF_PTR_HEAD_PAST => ⟨.SE_BUF_PTR, 31, 31, .w1c, true, 0, 0, 15⟩
  | .SE_BUF_PTR_CLAIMED => ⟨.SE_BUF_PTR, 22, 16, .ro, false, 0, 0, 15⟩
  | .SE_BUF_PTR_FULL => ⟨.SE_BUF_PTR, 14, 8, .ro, false, 0, 0, 15⟩
  | .SE_BUF_PTR_HEAD => ⟨.SE_BUF_PTR, 5, 0, .ro, false, 0, 0, 15⟩
  | .SE_BUF_GEOM_SLOT_KIB => ⟨.SE_BUF_GEOM, 31, 16, .rw, false, 0, 0, 15⟩
  | .SE_BUF_GEOM_ROWS => ⟨.SE_BUF_GEOM, 15, 0, .rw, false, 0, 0, 15⟩
  | .SE_BAR_BROKEN => ⟨.SE_BAR, 63, 63, .rw, true, 0, 0, 4⟩
  | .SE_BAR_COUNT => ⟨.SE_BAR, 31, 0, .rw, false, 0, 0, 4⟩
  | .BANK_CFG_EN => ⟨.BANK_CFG, 63, 63, .rw, false, 0, 0, 15⟩
  | .BANK_CFG_ACTIVE => ⟨.BANK_CFG, 62, 62, .ro, false, 0, 0, 15⟩
  | .BANK_CFG_READY => ⟨.BANK_CFG, 61, 61, .ro, false, 0, 0, 15⟩
  | .BANK_CFG_FORCED_EXIT => ⟨.BANK_CFG, 60, 60, .w1c, true, 0, 0, 15⟩
  | .BANK_CFG_OWNER => ⟨.BANK_CFG, 59, 56, .rw, false, 0, 0, 15⟩
  | .BANK_CFG_OWNER_ACT => ⟨.BANK_CFG, 55, 52, .ro, false, 0, 0, 15⟩
  | .BANK_CFG_FIRST => ⟨.BANK_CFG, 51, 45, .rw, false, 0, 0, 15⟩
  | .BANK_CFG_COUNT => ⟨.BANK_CFG, 44, 38, .rw, false, 0, 0, 15⟩
  | .BANK_CFG_FIRST_ACT => ⟨.BANK_CFG, 37, 31, .ro, false, 0, 0, 15⟩
  | .BANK_CFG_COUNT_ACT => ⟨.BANK_CFG, 30, 24, .ro, false, 0, 0, 15⟩
  | .BANK_CFG_REFUSED => ⟨.BANK_CFG, 23, 23, .w1c, true, 0, 0, 15⟩
  | .BANK_CFG_TOKENS => ⟨.BANK_CFG, 20, 0, .rw, false, 0, 0, 15⟩
  | .BANK_STAT_POISONED => ⟨.BANK_STAT, 63, 63, .w1c, true, 0, 0, 15⟩
  | .BANK_STAT_BUSY => ⟨.BANK_STAT, 47, 40, .ro, false, 0, 0, 15⟩
  | .BANK_STAT_HOLD_CYCLES => ⟨.BANK_STAT, 31, 0, .rc, false, 0, 0, 15⟩
  | .BANK_ENERGY_ENERGY => ⟨.BANK_ENERGY, 15, 0, .ro, false, 164, 164, 15⟩
  | .UU_STEP_EXPECT_VSEQ => ⟨.UU_STEP_EXPECT, 63, 32, .ro, false, 0, 0, 15⟩
  | .UU_STEP_EXPECT_STEP => ⟨.UU_STEP_EXPECT, 31, 0, .rw, false, 1, 1, 4⟩
  | .UU_Q_KEEP_HW => ⟨.UU_Q_KEEP, 63, 63, .rw, false, 1, 1, 15⟩
  | .UU_Q_KEEP_APPLY => ⟨.UU_Q_KEEP, 62, 62, .ro, false, 0, 0, 15⟩
  | .UU_Q_KEEP_BAD => ⟨.UU_Q_KEEP, 61, 61, .ro, false, 0, 0, 15⟩
  | .UU_Q_KEEP_VREFUSED => ⟨.UU_Q_KEEP, 60, 60, .w1c, true, 0, 0, 15⟩
  | .UU_Q_KEEP_INTERVAL => ⟨.UU_Q_KEEP, 47, 32, .rw, false, 2000, 2000, 15⟩
  | .UU_Q_KEEP_CLEAN => ⟨.UU_Q_KEEP, 31, 16, .ro, false, 0, 0, 15⟩
  | .UU_Q_KEEP_E_STEP => ⟨.UU_Q_KEEP, 12, 8, .ro, false, 0, 0, 15⟩
  | .UU_Q_KEEP_E => ⟨.UU_Q_KEEP, 4, 0, .rw, false, 16, 16, 15⟩
  | .UU_Q_VERDICT_CLIP => ⟨.UU_Q_VERDICT, 63, 32, .ro, false, 0, 0, 15⟩
  | .UU_Q_VERDICT_STEP => ⟨.UU_Q_VERDICT, 31, 0, .ro, false, 0, 0, 15⟩
  | .UU_Q_CLIP_CLIP => ⟨.UU_Q_CLIP, 31, 0, .rw, false, 1065353216, 1065353216, 4⟩
  | .UU_Q_NF_NF => ⟨.UU_Q_NF, 31, 0, .ro, false, 0, 0, 15⟩
  | .UU_Q_VCMD_SKIP => ⟨.UU_Q_VCMD, 32, 32, .wo, false, 0, 0, 15⟩
  | .UU_Q_VCMD_STEP => ⟨.UU_Q_VCMD, 31, 0, .wo, false, 0, 0, 15⟩
  | .UU_Q_JRNL_EN => ⟨.UU_Q_JRNL, 63, 63, .rw, false, 0, 0, 15⟩
  | .UU_Q_JRNL_OFFSET => ⟨.UU_Q_JRNL, 40, 12, .rw, false, 0, 0, 15⟩
  | .UU_STAT_REPLAY => ⟨.UU_STAT, 63, 63, .w1c, true, 0, 0, 15⟩
  | .UU_STAT_DROP => ⟨.UU_STAT, 62, 62, .w1c, true, 0, 0, 15⟩
  | .UU_STAT_JBAD => ⟨.UU_STAT, 61, 61, .w1c, true, 0, 0, 15⟩
  | .UU_STAT_QUEUED => ⟨.UU_STAT, 59, 48, .ro, false, 0, 0, 15⟩
  | .UU_STAT_QUARTER => ⟨.UU_STAT, 47, 44, .ro, false, 0, 0, 15⟩
  | .UU_STAT_BUSY => ⟨.UU_STAT, 43, 43, .ro, false, 0, 0, 15⟩
  | .UU_STAT_SHARDS => ⟨.UU_STAT, 31, 0, .rc, false, 0, 0, 15⟩
  | .UU_SLOTS_SLOT_Q => ⟨.UU_SLOTS, 63, 32, .ro, false, 0, 0, 15⟩
  | .UU_SLOTS_SLOT_STATE => ⟨.UU_SLOTS, 15, 0, .ro, false, 0, 0, 15⟩
  | .PT_Q_CFG_REQ_IDE => ⟨.PT_Q_CFG, 63, 63, .rw, false, 0, 0, 15⟩
  | .PT_Q_CFG_HOST_PORT => ⟨.PT_Q_CFG, 62, 62, .rw, false, 0, 0, 15⟩
  | .PT_Q_CFG_INT_ROUTE => ⟨.PT_Q_CFG, 61, 60, .rw, false, 0, 0, 15⟩
  | .PT_Q_CFG_HOLDOFF => ⟨.PT_Q_CFG, 59, 52, .rw, false, 0, 0, 15⟩
  | .PT_Q_CFG_B2_BASE => ⟨.PT_Q_CFG, 51, 36, .rw, false, 0, 0, 15⟩
  | .PT_PF_WIN_EN => ⟨.PT_PF_WIN, 63, 63, .rw, false, 0, 0, 15⟩
  | .PT_PF_WIN_QUARTER => ⟨.PT_PF_WIN, 59, 56, .rw, false, 0, 0, 15⟩
  | .PT_PF_WIN_BASE => ⟨.PT_PF_WIN, 51, 36, .rw, false, 0, 0, 15⟩
  | .PT_REJ_LOG_VALID => ⟨.PT_REJ_LOG, 63, 63, .w1c, true, 0, 0, 15⟩
  | .PT_REJ_LOG_CAUSE => ⟨.PT_REJ_LOG, 62, 60, .ro, true, 0, 0, 15⟩
  | .PT_REJ_LOG_FUNC => ⟨.PT_REJ_LOG, 59, 56, .ro, true, 0, 0, 15⟩
  | .PT_REJ_LOG_RID => ⟨.PT_REJ_LOG, 47, 32, .ro, true, 0, 0, 15⟩
  | .PT_REJ_LOG_REJECTS => ⟨.PT_REJ_LOG, 31, 0, .rc, false, 0, 0, 15⟩
  | .PT_RID_EN => ⟨.PT_RID, 63, 63, .rw, false, 0, 0, 15⟩
  | .PT_RID_MASK => ⟨.PT_RID, 47, 32, .rw, false, 0, 0, 15⟩
  | .PT_RID_RID => ⟨.PT_RID, 15, 0, .rw, false, 0, 0, 15⟩
  | .PT_LINK_STAT_UP => ⟨.PT_LINK_STAT, 63, 63, .ro, false, 0, 0, 15⟩
  | .PT_LINK_STAT_CACHE => ⟨.PT_LINK_STAT, 62, 62, .ro, false, 0, 0, 15⟩
  | .PT_LINK_STAT_FLIT => ⟨.PT_LINK_STAT, 61, 61, .ro, false, 0, 0, 15⟩
  | .PT_LINK_STAT_WIDTH => ⟨.PT_LINK_STAT, 60, 56, .ro, false, 0, 0, 15⟩
  | .PT_LINK_STAT_RATE => ⟨.PT_LINK_STAT, 55, 52, .ro, false, 0, 0, 15⟩
  | .PT_LINK_STAT_NARROWED => ⟨.PT_LINK_STAT, 51, 51, .w1c, true, 0, 0, 15⟩
  | .PT_LINK_STAT_DOWN_EVT => ⟨.PT_LINK_STAT, 50, 50, .w1c, true, 0, 0, 15⟩
  | .PT_LINK_STAT_ESCALATED => ⟨.PT_LINK_STAT, 49, 49, .w1c, true, 0, 0, 15⟩
  | .PT_LINK_STAT_IDE_FAIL => ⟨.PT_LINK_STAT, 48, 48, .w1c, true, 0, 0, 15⟩
  | .PT_LINK_STAT_BAD_LANE => ⟨.PT_LINK_STAT, 47, 43, .ro, true, 31, 31, 15⟩
  | .PT_LINK_STAT_RECOV => ⟨.PT_LINK_STAT, 31, 16, .rc, false, 0, 0, 15⟩
  | .PT_ERR_CNT_FEC_CORR => ⟨.PT_ERR_CNT, 63, 32, .rc, false, 0, 0, 15⟩
  | .PT_ERR_CNT_CRC_ERR => ⟨.PT_ERR_CNT, 31, 16, .rc, false, 0, 0, 15⟩
  | .PT_ERR_CNT_REPLAY_TX => ⟨.PT_ERR_CNT, 15, 0, .rc, false, 0, 0, 15⟩
  | .PT_LINK_CFG_REPLAY_LIMIT => ⟨.PT_LINK_CFG, 31, 16, .rw, false, 256, 256, 15⟩
  | .PT_LINK_CFG_HOST_TMO => ⟨.PT_LINK_CFG, 15, 8, .rw, false, 50, 50, 15⟩
  | .CORE_CTRL_RUN => ⟨.CORE_CTRL, 63, 61, .rw, false, 0, 0, 15⟩
  | .CORE_CTRL_HALTED => ⟨.CORE_CTRL, 60, 58, .ro, false, 7, 7, 15⟩
  | .CORE_CTRL_BOOT => ⟨.CORE_CTRL, 55, 2, .rw, false, 0, 0, 15⟩
  | .FE_MOD_ID_MOD_ID => ⟨.FE_MOD_ID, 15, 0, .rw, false, 0, 0, 15⟩
  | .FE_CFG_RETRY_MAX => ⟨.FE_CFG, 31, 24, .rw, false, 200, 200, 15⟩
  | .FE_CFG_RETX_US => ⟨.FE_CFG, 15, 0, .rw, false, 100, 100, 15⟩
  | .FE_STAT_SENT => ⟨.FE_STAT, 63, 32, .rc, false, 0, 0, 15⟩
  | .FE_STAT_OUT => ⟨.FE_STAT, 26, 16, .ro, false, 0, 0, 15⟩
  | .FE_STAT_RESENT => ⟨.FE_STAT, 15, 0, .rc, false, 0, 0, 15⟩
  | .FE_Q_CFG_RX_EN => ⟨.FE_Q_CFG, 63, 63, .rw, false, 0, 0, 15⟩
  | .FE_Q_CFG_AUTO => ⟨.FE_Q_CFG, 62, 62, .rw, false, 1, 1, 15⟩
  | .FE_Q_CFG_CREDITS => ⟨.FE_Q_CFG, 61, 51, .rw, false, 0, 0, 15⟩
  | .FE_Q_CFG_CREDITS_ACT => ⟨.FE_Q_CFG, 50, 40, .ro, false, 0, 0, 15⟩
  | .FE_Q_CFG_RX_OFF => ⟨.FE_Q_CFG, 39, 20, .rw, false, 0, 0, 15⟩
  | .FE_Q_LOG_VA => ⟨.FE_Q_LOG, 51, 12, .rw, false, 0, 0, 15⟩
  | .FE_Q_RT_GO => ⟨.FE_Q_RT, 63, 63, .wo, false, 0, 0, 15⟩
  | .FE_Q_RT_RT_HELD => ⟨.FE_Q_RT, 62, 62, .w1c, true, 0, 0, 15⟩
  | .FE_Q_RT_VA => ⟨.FE_Q_RT, 51, 6, .rw, false, 0, 0, 15⟩
  | .FE_Q_ERR_EPOCH_ACT => ⟨.FE_Q_ERR, 63, 32, .ro, false, 0, 0, 15⟩
  | .FE_Q_ERR_FOREIGN => ⟨.FE_Q_ERR, 31, 31, .w1c, true, 0, 0, 15⟩
  | .FE_Q_ERR_RANGE => ⟨.FE_Q_ERR, 30, 30, .w1c, true, 0, 0, 15⟩
  | .FE_Q_ERR_TIMEOUT => ⟨.FE_Q_ERR, 29, 29, .w1c, true, 0, 0, 15⟩
  | .FE_Q_ERR_PROTO => ⟨.FE_Q_ERR, 28, 28, .w1c, true, 0, 0, 15⟩
  | .FE_Q_ERR_CREDIT_SUM => ⟨.FE_Q_ERR, 27, 27, .w1c, true, 0, 0, 15⟩
  | .FE_Q_ERR_ROUTE => ⟨.FE_Q_ERR, 20, 15, .ro, true, 0, 0, 15⟩
  | .FE_Q_DOWN_DOWN => ⟨.FE_Q_DOWN, 63, 0, .ro, false, 0, 0, 15⟩
  | .MB_SQ_CFG_BASE => ⟨.MB_SQ_CFG, 63, 12, .rw, false, 0, 0, 15⟩
  | .MB_SQ_CFG_EN => ⟨.MB_SQ_CFG, 11, 11, .rw, false, 0, 0, 15⟩
  | .MB_SQ_CFG_LOC => ⟨.MB_SQ_CFG, 10, 10, .rw, false, 0, 0, 15⟩
  | .MB_SQ_CFG_PORT => ⟨.MB_SQ_CFG, 9, 9, .rw, false, 0, 0, 15⟩
  | .MB_SQ_CFG_LOG2 => ⟨.MB_SQ_CFG, 3, 0, .rw, false, 4, 4, 15⟩
  | .MB_CQ_CFG_BASE => ⟨.MB_CQ_CFG, 63, 12, .rw, false, 0, 0, 15⟩
  | .MB_CQ_CFG_EN => ⟨.MB_CQ_CFG, 11, 11, .rw, false, 0, 0, 15⟩
  | .MB_CQ_CFG_LOC => ⟨.MB_CQ_CFG, 10, 10, .rw, false, 0, 0, 15⟩
  | .MB_CQ_CFG_LOG2 => ⟨.MB_CQ_CFG, 3, 0, .rw, false, 4, 4, 15⟩
  | .MB_SQ_DB_TAIL => ⟨.MB_SQ_DB, 12, 0, .rw, false, 0, 0, 15⟩
  | .MB_CQ_DB_HEAD => ⟨.MB_CQ_DB, 12, 0, .rw, false, 0, 0, 15⟩
  | .MB_STAT_RING_FAULT => ⟨.MB_STAT, 63, 63, .w1c, true, 0, 0, 15⟩
  | .MB_STAT_DB_DISCARD => ⟨.MB_STAT, 62, 62, .w1c, true, 0, 0, 15⟩
  | .MB_STAT_HANDSHAKE => ⟨.MB_STAT, 61, 61, .ro, false, 0, 0, 15⟩
  | .MB_STAT_HALTED => ⟨.MB_STAT, 60, 60, .ro, false, 0, 0, 15⟩
  | .MB_STAT_CQ_TAIL => ⟨.MB_STAT, 44, 32, .ro, false, 0, 0, 15⟩
  | .MB_STAT_SQ_HEAD => ⟨.MB_STAT, 28, 16, .ro, false, 0, 0, 15⟩
  | .MB_STAT_CQ_WAIT => ⟨.MB_STAT, 15, 0, .ro, false, 0, 0, 15⟩
  | .MB_URG_DB_BUSY => ⟨.MB_URG_DB, 31, 31, .ro, false, 0, 0, 15⟩
  | .MB_URG_DB_GO => ⟨.MB_URG_DB, 0, 0, .wo, false, 0, 0, 15⟩
  | .FW_STATE_SERVICE => ⟨.FW_STATE, 63, 62, .ro, false, 0, 0, 15⟩
  | .FW_STATE_CFW_SLOT => ⟨.FW_STATE, 61, 61, .ro, false, 0, 0, 15⟩
  | .FW_STATE_MFW_SLOT => ⟨.FW_STATE, 60, 60, .ro, false, 0, 0, 15⟩
  | .FW_STATE_CP_PAIR => ⟨.FW_STATE, 59, 59, .ro, false, 0, 0, 15⟩
  | .FW_STATE_SWAP_PEND => ⟨.FW_STATE, 58, 58, .ro, false, 0, 0, 15⟩
  | .FW_STATE_CFW_VER => ⟨.FW_STATE, 47, 24, .ro, false, 0, 0, 15⟩
  | .FW_STATE_MFW_VER => ⟨.FW_STATE, 23, 0, .ro, false, 0, 0, 15⟩
  | .RES_STAT_LEVEL => ⟨.RES_STAT, 63, 62, .ro, false, 0, 0, 15⟩
  | .RES_STAT_LAST_RESET => ⟨.RES_STAT, 61, 58, .ro, true, 0, 0, 15⟩
  | .RES_STAT_CP_SPARE => ⟨.RES_STAT, 57, 57, .ro, false, 0, 0, 15⟩
  | .RES_STAT_FAILOVER => ⟨.RES_STAT, 56, 56, .w1c, true, 0, 0, 15⟩
  | .RES_STAT_UNIT_OUT => ⟨.RES_STAT, 55, 55, .w1c, true, 0, 0, 15⟩
  | .RES_STAT_STACK_LOST => ⟨.RES_STAT, 54, 54, .w1c, true, 0, 0, 15⟩
  | .RES_STAT_DROPPED_LINES => ⟨.RES_STAT, 31, 16, .rc, false, 0, 0, 15⟩
  | .RES_STAT_HOST_ABANDONED => ⟨.RES_STAT, 15, 0, .rc, false, 0, 0, 15⟩
  | .RES_CTRL_KEY => ⟨.RES_CTRL, 31, 16, .wo, false, 0, 0, 15⟩
  | .RES_CTRL_MOD => ⟨.RES_CTRL, 0, 0, .wo, false, 0, 0, 15⟩
  | .RES_OUT_EXP_EXP => ⟨.RES_OUT_EXP, 63, 0, .rw, false, 0, 0, 15⟩
  | .RES_OUT_BANK_BANK => ⟨.RES_OUT_BANK, 63, 0, .rw, false, 0, 0, 15⟩
  | .RES_OUT_MISC_UU => ⟨.RES_OUT_MISC, 63, 63, .rw, false, 0, 0, 15⟩
  | .RES_OUT_MISC_SE => ⟨.RES_OUT_MISC, 59, 56, .rw, false, 0, 0, 15⟩
  | .RES_OUT_MISC_PACK => ⟨.RES_OUT_MISC, 31, 0, .rw, false, 0, 0, 15⟩
  | .SNAP_CFG_ARM => ⟨.SNAP_CFG, 63, 63, .rw, false, 0, 0, 15⟩
  | .SNAP_CFG_REPEAT => ⟨.SNAP_CFG, 62, 62, .rw, false, 0, 0, 15⟩
  | .SNAP_CFG_NOW => ⟨.SNAP_CFG, 61, 61, .wo, false, 0, 0, 15⟩
  | .SNAP_CFG_SRC => ⟨.SNAP_CFG, 59, 58, .rw, false, 0, 0, 15⟩
  | .SNAP_CFG_MARK => ⟨.SNAP_CFG, 57, 55, .rw, false, 0, 0, 15⟩
  | .SNAP_CFG_QUARTER => ⟨.SNAP_CFG, 51, 48, .rw, false, 15, 15, 15⟩
  | .SNAP_CFG_EVENT => ⟨.SNAP_CFG, 47, 36, .rw, false, 0, 0, 15⟩
  | .SNAP_STAT_BUSY => ⟨.SNAP_STAT, 63, 63, .ro, false, 0, 0, 15⟩
  | .SNAP_STAT_VALID => ⟨.SNAP_STAT, 62, 62, .ro, false, 0, 0, 15⟩
  | .SNAP_STAT_MISSED => ⟨.SNAP_STAT, 47, 32, .rc, false, 0, 0, 15⟩
  | .SNAP_STAT_SEQ => ⟨.SNAP_STAT, 31, 0, .ro, false, 0, 0, 15⟩
  | .FN_ERR_VALID => ⟨.FN_ERR, 63, 63, .w1c, true, 0, 0, 15⟩
  | .FN_ERR_CODE => ⟨.FN_ERR, 55, 48, .ro, true, 0, 0, 15⟩
  | .FN_ERR_DETAIL => ⟨.FN_ERR, 47, 0, .ro, true, 0, 0, 15⟩
  | .FN_ERR_CNT_COUNT => ⟨.FN_ERR_CNT, 31, 0, .rc, false, 0, 0, 15⟩
  | .MC_ERR_PTR_OVERFLOW => ⟨.MC_ERR_PTR, 63, 63, .w1c, true, 0, 0, 15⟩
  | .MC_ERR_PTR_DROPPED => ⟨.MC_ERR_PTR, 47, 32, .rc, false, 0, 0, 15⟩
  | .MC_ERR_PTR_HEAD => ⟨.MC_ERR_PTR, 15, 8, .rw, false, 0, 0, 15⟩
  | .MC_ERR_PTR_TAIL => ⟨.MC_ERR_PTR, 7, 0, .ro, false, 0, 0, 15⟩
  | .PMC_SEL_EN => ⟨.PMC_SEL, 63, 63, .rw, false, 0, 0, 15⟩
  | .PMC_SEL_EDGE => ⟨.PMC_SEL, 62, 62, .rw, false, 0, 0, 15⟩
  | .PMC_SEL_QUARTER => ⟨.PMC_SEL, 51, 48, .rw, false, 15, 15, 15⟩
  | .PMC_SEL_INSTANCE => ⟨.PMC_SEL, 35, 24, .rw, false, 4095, 4095, 15⟩
  | .PMC_SEL_EVENT => ⟨.PMC_SEL, 11, 0, .rw, false, 0, 0, 15⟩
  | .PMC_VAL_SAT => ⟨.PMC_VAL, 63, 63, .ro, false, 0, 0, 15⟩
  | .PMC_VAL_COUNT => ⟨.PMC_VAL, 47, 0, .ro, false, 0, 0, 15⟩
  | .PMC_DUMP_CFG_EN => ⟨.PMC_DUMP_CFG, 63, 63, .rw, false, 0, 0, 15⟩
  | .PMC_DUMP_CFG_PORT => ⟨.PMC_DUMP_CFG, 62, 62, .rw, false, 0, 0, 15⟩
  | .PMC_DUMP_CFG_LOST => ⟨.PMC_DUMP_CFG, 47, 32, .rc, false, 0, 0, 15⟩
  | .PMC_DUMP_CFG_LOG2 => ⟨.PMC_DUMP_CFG, 12, 8, .rw, false, 4, 4, 15⟩
  | .PMC_DUMP_CFG_PERIOD => ⟨.PMC_DUMP_CFG, 3, 0, .rw, false, 3, 3, 15⟩
  | .PMC_DUMP_BASE_BASE => ⟨.PMC_DUMP_BASE, 63, 6, .rw, false, 0, 0, 15⟩
  | .PT_BW_CFG_WIN_LOG2 => ⟨.PT_BW_CFG, 4, 0, .rw, false, 20, 20, 15⟩
  | .PT_BW_RX_RATE => ⟨.PT_BW_RX, 63, 40, .ro, false, 0, 0, 15⟩
  | .PT_BW_RX_BYTES => ⟨.PT_BW_RX, 39, 0, .ro, false, 0, 0, 15⟩
  | .PT_BW_TX_RATE => ⟨.PT_BW_TX, 63, 40, .ro, false, 0, 0, 15⟩
  | .PT_BW_TX_BYTES => ⟨.PT_BW_TX, 39, 0, .ro, false, 0, 0, 15⟩
  | .SEC_STAT_DBG_OPEN => ⟨.SEC_STAT, 63, 63, .ro, false, 0, 0, 15⟩
  | .SEC_STAT_SCOPE => ⟨.SEC_STAT, 62, 59, .ro, false, 0, 0, 15⟩
  | .SEC_STAT_ERASE_PEND => ⟨.SEC_STAT, 58, 58, .ro, false, 0, 0, 15⟩
  | .SEC_STAT_UNLOCK_FAILS => ⟨.SEC_STAT, 57, 56, .ro, false, 0, 0, 15⟩
  | .SEC_STAT_MFW_FALLBACK => ⟨.SEC_STAT, 55, 55, .w1c, true, 0, 0, 15⟩
  | .SEC_STAT_CFW_FALLBACK => ⟨.SEC_STAT, 54, 54, .w1c, true, 0, 0, 15⟩
  | .SEC_STAT_REVOKED => ⟨.SEC_STAT, 51, 48, .ro, false, 0, 0, 15⟩
  | .SEC_STAT_SVN_MIN_MFW => ⟨.SEC_STAT, 47, 42, .ro, false, 0, 0, 15⟩
  | .SEC_STAT_SVN_MIN_CFW => ⟨.SEC_STAT, 41, 36, .ro, false, 0, 0, 15⟩
  | .SEC_STAT_SVN_MFW => ⟨.SEC_STAT, 35, 30, .ro, false, 0, 0, 15⟩
  | .SEC_STAT_SVN_CFW => ⟨.SEC_STAT, 29, 24, .ro, false, 0, 0, 15⟩
  | .SEC_SERIAL_SERIAL => ⟨.SEC_SERIAL, 63, 0, .ro, false, 1, 1, 15⟩
  | .PWR_STAT_SAG => ⟨.PWR_STAT, 63, 63, .w1c, true, 0, 0, 15⟩
  | .PWR_STAT_THROTTLE => ⟨.PWR_STAT, 62, 62, .ro, false, 0, 0, 15⟩
  | .PWR_STAT_FLOW_LOW => ⟨.PWR_STAT, 61, 61, .w1c, true, 0, 0, 15⟩
  | .PWR_STAT_TRIP => ⟨.PWR_STAT, 60, 60, .w1c, true, 0, 0, 15⟩
  | .PWR_STAT_PDOWN_LAST => ⟨.PWR_STAT, 59, 59, .w1c, true, 0, 0, 15⟩
  | .PWR_STAT_PDOWN_CAUSE => ⟨.PWR_STAT, 58, 56, .ro, true, 0, 0, 15⟩
  | .PWR_STAT_T_MAX => ⟨.PWR_STAT, 55, 48, .ro, false, 0, 0, 15⟩
  | .PWR_STAT_FLOW => ⟨.PWR_STAT, 47, 40, .ro, false, 0, 0, 15⟩
  | .PWR_STAT_C_EFF => ⟨.PWR_STAT, 26, 16, .ro, false, 1000, 780, 15⟩
  | .PWR_STAT_VIN_MIN => ⟨.PWR_STAT, 15, 0, .ro, false, 0, 0, 15⟩
  | .PWR_CFG_THERM_RESUME => ⟨.PWR_CFG, 31, 24, .rw, false, 85, 85, 15⟩
  | .PWR_CFG_THERM_LIMIT => ⟨.PWR_CFG, 23, 16, .rw, false, 90, 90, 15⟩
  | .PWR_CFG_CAP_SET => ⟨.PWR_CFG, 10, 0, .rw, false, 1000, 780, 15⟩

/-- The header lines. -/
def Reg.info : Reg → RegInfo
  | .TURN_LEN => ⟨0x20000, 32, [], 13, 5, false, false⟩
  | .TURN_COUNT => ⟨0x20008, 64, [], 13, 13, false, false⟩
  | .TURN_POS => ⟨0x20010, 32, [], 13, 13, false, false⟩
  | .TOK_BUDGET => ⟨0x20020, 64, [], 13, 13, false, false⟩
  | .TOK_FIXED => ⟨0x20028, 32, [], 13, 13, false, false⟩
  | .TOK_Q_SHARE => ⟨0x21000, 32, [(256, 12, 9)], 13, 13, false, false⟩
  | .TOK_Q_STAT => ⟨0x21008, 64, [(256, 12, 9)], 13, 13, false, false⟩
  | .TOK_Q_CARRY => ⟨0x21018, 32, [(256, 12, 9)], 13, 13, false, false⟩
  | .TURN_Q_PARK => ⟨0x21010, 64, [(256, 12, 9)], 13, 4, false, false⟩
  | .TURN_BAL_ERR => ⟨0x20040, 32, [], 13, 13, false, false⟩
  | .TURN_BAL_WHERE => ⟨0x20044, 32, [], 13, 13, false, false⟩
  | .GRID_GEOM => ⟨0x40000, 32, [], 13, 13, false, false⟩
  | .GRID_STRIP_STATE => ⟨0x40100, 32, [(8, 16, 12)], 13, 13, false, false⟩
  | .GRID_Q_STRIPS => ⟨0x40200, 32, [(16, 12, 9)], 13, 13, false, false⟩
  | .GRID_Q_STAT => ⟨0x40208, 32, [(16, 12, 9)], 13, 13, false, false⟩
  | .GRID_MAP_ADDR => ⟨0x41000, 32, [], 13, 13, false, false⟩
  | .GRID_MAP_DATA => ⟨0x41004, 32, [], 13, 13, false, false⟩
  | .GRID_FENCE_STAT => ⟨0x41c00, 32, [], 13, 13, false, false⟩
  | .GRID_FENCE_REQ => ⟨0x41c08, 32, [], 13, 4, false, false⟩
  | .MX_WIT_STAT => ⟨0x50000, 64, [(64, 12, 9)], 13, 13, false, false⟩
  | .MX_WIT_LOG0 => ⟨0x50008, 64, [(64, 12, 9)], 13, 13, false, false⟩
  | .MX_WIT_LOG1 => ⟨0x50010, 64, [(64, 12, 9)], 13, 13, false, false⟩
  | .NUM_FLAGS => ⟨0x51000, 32, [(64, 12, 9)], 13, 13, false, false⟩
  | .GH_BIN => ⟨0x1000000, 64, [(65536, 12, 9), (1024, 64, 64), (8, 64, 64)], 13, 13, false, false⟩
  | .GH_SPECIAL => ⟨0x1000200, 64, [(65536, 12, 9), (1024, 64, 64), (8, 4, 4)], 13, 13, false, false⟩
  | .GH_CTRL => ⟨0x1000220, 32, [(65536, 12, 9), (1024, 64, 64)], 13, 13, false, false⟩
  | .MEM_EXT => ⟨0x74000, 32, [(4, 1152, 864)], 13, 13, false, false⟩
  | .MEM_LOT => ⟨0x76000, 32, [(4, 256, 192)], 13, 13, false, false⟩
  | .PLZ_Q_CFG => ⟨0x70000, 32, [(256, 12, 9)], 13, 13, false, false⟩
  | .MMU_ROOT => ⟨0x70008, 64, [(256, 12, 9)], 13, 4, false, false⟩
  | .MMU_FQ_BASE => ⟨0x70010, 64, [(256, 12, 9)], 13, 13, false, false⟩
  | .MMU_FQ_PTR => ⟨0x70018, 32, [(256, 12, 9)], 13, 13, false, false⟩
  | .MMU_LEDGER => ⟨0x70020, 64, [(256, 12, 9)], 13, 13, false, false⟩
  | .MMU_HOST_WIN => ⟨0x70028, 64, [(256, 12, 9)], 13, 4, false, false⟩
  | .MEM_DL_CFG => ⟨0x77000, 32, [], 13, 13, false, false⟩
  | .MEM_DEG_STAT => ⟨0x70030, 64, [(256, 12, 9)], 13, 13, false, false⟩
  | .MEM_RETIRE => ⟨0x77008, 32, [], 13, 12, false, false⟩
  | .CRT_BF_IDX => ⟨0x90010, 32, [(4096, 4, 3)], 13, 13, false, false⟩
  | .CRT_BF_DATA => ⟨0x90014, 32, [(4096, 4, 3)], 13, 13, false, false⟩
  | .CRT_STAT => ⟨0x90000, 32, [(4096, 4, 3)], 13, 13, false, false⟩
  | .CRT_CTRL => ⟨0x90008, 32, [(4096, 4, 3)], 13, 12, false, false⟩
  | .CRT_ERR => ⟨0x90020, 64, [(4096, 4, 3)], 13, 13, false, false⟩
  | .CRT_UE_LOG => ⟨0x90028, 64, [(4096, 4, 3)], 13, 13, false, false⟩
  | .STK_STAT => ⟨0x80000, 32, [(4096, 12, 9)], 13, 13, false, false⟩
  | .STK_RETIRE => ⟨0x80008, 32, [(4096, 12, 9)], 13, 12, false, false⟩
  | .STK_UE_LOG => ⟨0x80080, 64, [(4096, 12, 9)], 13, 13, false, false⟩
  | .STK_PC_ERR => ⟨0x80100, 64, [(4096, 12, 9), (16, 64, 64)], 13, 13, false, false⟩
  | .MEM_ENC_STAT => ⟨0x77010, 32, [(8, 12, 9)], 13, 13, false, false⟩
  | .CB_SLOT => ⟨0xa0000, 64, [(16, 256, 256)], 13, 4, false, false⟩
  | .PK_Q_STAT => ⟨0xa1000, 64, [(16, 12, 9)], 13, 13, false, false⟩
  | .EXP_STAT => ⟨0xa2000, 64, [(32, 16, 16)], 13, 13, false, false⟩
  | .EXP_DMG_LOG => ⟨0xa2008, 64, [(32, 16, 16)], 13, 13, false, false⟩
  | .SE_CFG => ⟨0xb0000, 32, [], 13, 13, false, false⟩
  | .SE_Q_TAGS => ⟨0xb1000, 32, [(16, 12, 9)], 13, 13, false, false⟩
  | .SE_STAT => ⟨0xb2000, 64, [(16, 64, 48)], 13, 13, false, false⟩
  | .SE_BUF_CFG => ⟨0xb4000, 64, [(256, 12, 9), (16, 16, 16)], 13, 4, false, false⟩
  | .SE_BUF_PTR => ⟨0xb4008, 32, [(256, 12, 9), (16, 16, 16)], 13, 13, false, false⟩
  | .SE_BUF_GEOM => ⟨0xb400c, 32, [(256, 12, 9), (16, 16, 16)], 13, 4, false, false⟩
  | .SE_BAR => ⟨0xb8000, 64, [(512, 12, 9), (8, 64, 64)], 13, 13, false, false⟩
  | .BANK_CFG => ⟨0xc0000, 64, [(256, 12, 9)], 13, 4, false, false⟩
  | .BANK_STAT => ⟨0xc0008, 64, [(256, 12, 9)], 13, 13, false, false⟩
  | .BANK_ENERGY => ⟨0xc1000, 32, [], 13, 13, false, false⟩
  | .UU_STEP_EXPECT => ⟨0xd0000, 64, [(256, 12, 9)], 13, 13, false, false⟩
  | .UU_Q_KEEP => ⟨0xd0008, 64, [(256, 12, 9)], 13, 4, false, false⟩
  | .UU_Q_VERDICT => ⟨0xd0010, 64, [(256, 12, 9)], 13, 13, false, false⟩
  | .UU_Q_CLIP => ⟨0xd0018, 32, [(256, 12, 9)], 13, 13, false, false⟩
  | .UU_Q_NF => ⟨0xd001c, 32, [(256, 12, 9)], 13, 13, false, false⟩
  | .UU_Q_VCMD => ⟨0xd0020, 64, [(256, 12, 9)], 13, 4, false, false⟩
  | .UU_Q_JRNL => ⟨0xd0028, 64, [(256, 12, 9)], 13, 4, false, false⟩
  | .UU_STAT => ⟨0xd1000, 64, [(64, 16, 16)], 13, 13, false, false⟩
  | .UU_SLOTS => ⟨0xd1008, 64, [(64, 16, 16)], 13, 13, false, false⟩
  | .PT_Q_CFG => ⟨0x128000, 64, [(16, 12, 9)], 13, 5, false, false⟩
  | .PT_PF_WIN => ⟨0x128100, 64, [(4096, 2, 2)], 13, 13, false, false⟩
  | .PT_REJ_LOG => ⟨0x120018, 64, [(4096, 2, 2)], 13, 13, false, false⟩
  | .PT_RID => ⟨0x128008, 64, [(4096, 2, 2), (16, 13, 13)], 13, 5, false, false⟩
  | .PT_LINK_STAT => ⟨0x120000, 64, [(4096, 2, 2)], 13, 13, false, false⟩
  | .PT_ERR_CNT => ⟨0x120008, 64, [(4096, 2, 2)], 13, 13, false, false⟩
  | .PT_LINK_CFG => ⟨0x120010, 32, [(4096, 2, 2)], 13, 9, false, false⟩
  | .CORE_CTRL => ⟨0x130000, 64, [(256, 12, 9)], 13, 5, false, false⟩
  | .FE_MOD_ID => ⟨0x140000, 32, [], 13, 9, false, false⟩
  | .FE_CFG => ⟨0x140010, 32, [(4096, 2, 2)], 13, 5, false, false⟩
  | .FE_STAT => ⟨0x140018, 64, [(4096, 2, 2)], 13, 13, false, false⟩
  | .FE_Q_CFG => ⟨0x148000, 64, [(256, 12, 9)], 13, 4, false, false⟩
  | .FE_Q_LOG => ⟨0x148008, 64, [(256, 12, 9)], 13, 4, false, false⟩
  | .FE_Q_RT => ⟨0x148010, 64, [(256, 12, 9)], 13, 4, false, false⟩
  | .FE_Q_ERR => ⟨0x148018, 64, [(256, 12, 9)], 13, 13, false, false⟩
  | .FE_Q_DOWN => ⟨0x148020, 64, [(256, 12, 9)], 13, 13, false, false⟩
  | .MB_SQ_CFG => ⟨0x0, 64, [], 15, 15, true, false⟩
  | .MB_CQ_CFG => ⟨0x8, 64, [], 15, 15, true, false⟩
  | .MB_SQ_DB => ⟨0x40, 32, [], 15, 15, true, false⟩
  | .MB_CQ_DB => ⟨0x48, 32, [], 15, 15, true, false⟩
  | .MB_STAT => ⟨0x50, 64, [], 15, 15, true, false⟩
  | .MB_URG_DB => ⟨0xc0, 32, [], 15, 15, true, false⟩
  | .FW_STATE => ⟨0x100000, 64, [], 13, 13, false, false⟩
  | .RES_STAT => ⟨0x150000, 64, [], 13, 13, false, true⟩
  | .RES_CTRL => ⟨0x150010, 32, [], 9, 9, false, true⟩
  | .RES_OUT_EXP => ⟨0x151000, 64, [(64, 16, 16)], 13, 8, false, true⟩
  | .RES_OUT_BANK => ⟨0x151008, 64, [(64, 16, 16)], 13, 8, false, true⟩
  | .RES_OUT_MISC => ⟨0x151010, 64, [(64, 16, 16)], 13, 8, false, true⟩
  | .SNAP_CFG => ⟨0x160000, 64, [], 9, 9, false, true⟩
  | .SNAP_STAT => ⟨0x160008, 64, [], 9, 9, false, true⟩
  | .FN_ERR => ⟨0x160100, 64, [(16, 15, 15)], 13, 13, false, true⟩
  | .FN_ERR_CNT => ⟨0x160108, 32, [(16, 15, 15)], 13, 13, false, true⟩
  | .MC_ERR_PTR => ⟨0x160010, 64, [], 9, 9, false, true⟩
  | .PMC_SEL => ⟨0x161000, 64, [(16, 64, 64)], 9, 9, false, true⟩
  | .PMC_VAL => ⟨0x161008, 64, [(16, 64, 64)], 9, 9, false, true⟩
  | .PMC_DUMP_CFG => ⟨0x160020, 64, [], 9, 9, false, true⟩
  | .PMC_DUMP_BASE => ⟨0x160028, 64, [], 9, 9, false, true⟩
  | .PT_BW_CFG => ⟨0x120020, 32, [(4096, 2, 2)], 9, 9, false, true⟩
  | .PT_BW_RX => ⟨0x120028, 64, [(4096, 2, 2)], 9, 9, false, true⟩
  | .PT_BW_TX => ⟨0x120030, 64, [(4096, 2, 2)], 9, 9, false, true⟩
  | .SEC_STAT => ⟨0x170000, 64, [], 9, 9, false, true⟩
  | .SEC_SERIAL => ⟨0x170008, 64, [], 13, 13, false, true⟩
  | .PWR_STAT => ⟨0x180000, 64, [], 13, 13, false, true⟩
  | .PWR_CFG => ⟨0x180008, 32, [], 13, 8, false, true⟩

/-- The fields of a register, from the highest bits down. -/
def Reg.fields : Reg → List Fld
  | .TURN_LEN => [.TURN_LEN_LEN_ACTIVE, .TURN_LEN_LEN_SEL]
  | .TURN_COUNT => [.TURN_COUNT_COUNT]
  | .TURN_POS => [.TURN_POS_PHASE, .TURN_POS_MARK, .TURN_POS_CYCLE]
  | .TOK_BUDGET => [.TOK_BUDGET_LATE, .TOK_BUDGET_NEXT, .TOK_BUDGET_CUR]
  | .TOK_FIXED => [.TOK_FIXED_FIXED]
  | .TOK_Q_SHARE => [.TOK_Q_SHARE_SHARE]
  | .TOK_Q_STAT => [.TOK_Q_STAT_OVERDRAW, .TOK_Q_STAT_DEBT, .TOK_Q_STAT_FREE]
  | .TOK_Q_CARRY => [.TOK_Q_CARRY_CARRY]
  | .TURN_Q_PARK => [.TURN_Q_PARK_EN, .TURN_Q_PARK_VA]
  | .TURN_BAL_ERR => [.TURN_BAL_ERR_PARK_FAULT, .TURN_BAL_ERR_LEN_INVALID, .TURN_BAL_ERR_SHARE_SUM, .TURN_BAL_ERR_PARK_RECORD, .TURN_BAL_ERR_OP_SLOT, .TURN_BAL_ERR_FABRIC_CREDIT, .TURN_BAL_ERR_JOURNAL_SLOT, .TURN_BAL_ERR_POWER_TOKEN, .TURN_BAL_ERR_REQ_TAG, .TURN_BAL_ERR_RING_TOKEN, .TURN_BAL_ERR_LINK_CREDIT, .TURN_BAL_ERR_ANY]
  | .TURN_BAL_WHERE => [.TURN_BAL_WHERE_INSTANCE, .TURN_BAL_WHERE_QUARTER, .TURN_BAL_WHERE_CODE]
  | .GRID_GEOM => [.GRID_GEOM_PHYS_ROWS, .GRID_GEOM_SPARE_ROWS, .GRID_GEOM_STRIPS]
  | .GRID_STRIP_STATE => [.GRID_STRIP_STATE_ADJ, .GRID_STRIP_STATE_TAPS, .GRID_STRIP_STATE_ALLEYS, .GRID_STRIP_STATE_RETIRED, .GRID_STRIP_STATE_OWNER, .GRID_STRIP_STATE_STATE]
  | .GRID_Q_STRIPS => [.GRID_Q_STRIPS_PENDING, .GRID_Q_STRIPS_COUNT_ACT, .GRID_Q_STRIPS_FIRST_ACT, .GRID_Q_STRIPS_COUNT, .GRID_Q_STRIPS_FIRST]
  | .GRID_Q_STAT => [.GRID_Q_STAT_RESIZE_FAIL, .GRID_Q_STAT_SUSPECTS, .GRID_Q_STAT_WAITING, .GRID_Q_STAT_BLANKS]
  | .GRID_MAP_ADDR => [.GRID_MAP_ADDR_INDEX, .GRID_MAP_ADDR_STRIP, .GRID_MAP_ADDR_TABLE]
  | .GRID_MAP_DATA => [.GRID_MAP_DATA_VALID, .GRID_MAP_DATA_VALUE]
  | .GRID_FENCE_STAT => [.GRID_FENCE_STAT_FENCED_TOTAL, .GRID_FENCE_STAT_PENDING, .GRID_FENCE_STAT_TAPS_LOST, .GRID_FENCE_STAT_Q_SPLIT, .GRID_FENCE_STAT_SPARES_LOW, .GRID_FENCE_STAT_STRIP_OUT, .GRID_FENCE_STAT_REFUSED, .GRID_FENCE_STAT_BUSY]
  | .GRID_FENCE_REQ => [.GRID_FENCE_REQ_ACTION, .GRID_FENCE_REQ_Y, .GRID_FENCE_REQ_X]
  | .MX_WIT_STAT => [.MX_WIT_STAT_MISMATCH, .MX_WIT_STAT_WIT_FAIL, .MX_WIT_STAT_SPILL_TAG, .MX_WIT_STAT_MISMATCH_CNT, .MX_WIT_STAT_CHECKED]
  | .MX_WIT_LOG0 => [.MX_WIT_LOG0_OP_TAG, .MX_WIT_LOG0_PROBLEM, .MX_WIT_LOG0_CAUSE, .MX_WIT_LOG0_K_CHUNK]
  | .MX_WIT_LOG1 => [.MX_WIT_LOG1_NAMED, .MX_WIT_LOG1_FAILED, .MX_WIT_LOG1_ROW, .MX_WIT_LOG1_COL, .MX_WIT_LOG1_K_CHUNK_HI]
  | .NUM_FLAGS => [.NUM_FLAGS_ESAT, .NUM_FLAGS_NV, .NUM_FLAGS_OF, .NUM_FLAGS_UF, .NUM_FLAGS_NX]
  | .GH_BIN => [.GH_BIN_SAT, .GH_BIN_COUNT]
  | .GH_SPECIAL => [.GH_SPECIAL_SAT, .GH_SPECIAL_COUNT]
  | .GH_CTRL => [.GH_CTRL_CLEAR, .GH_CTRL_ANY_SAT, .GH_CTRL_MAXEXP]
  | .MEM_EXT => [.MEM_EXT_REQ, .MEM_EXT_OWNER, .MEM_EXT_STATE]
  | .MEM_LOT => [.MEM_LOT_PRESENT, .MEM_LOT_REQ, .MEM_LOT_OWNER, .MEM_LOT_STATE]
  | .PLZ_Q_CFG => [.PLZ_Q_CFG_REHOME, .PLZ_Q_CFG_SCRATCH_ACT, .PLZ_Q_CFG_SCRATCH_WAYS]
  | .MMU_ROOT => [.MMU_ROOT_EN, .MMU_ROOT_UNIT, .MMU_ROOT_ADDR]
  | .MMU_FQ_BASE => [.MMU_FQ_BASE_UNIT, .MMU_FQ_BASE_ADDR]
  | .MMU_FQ_PTR => [.MMU_FQ_PTR_FULL, .MMU_FQ_PTR_HEAD, .MMU_FQ_PTR_TAIL]
  | .MMU_LEDGER => [.MMU_LEDGER_LOG2, .MMU_LEDGER_VA]
  | .MMU_HOST_WIN => [.MMU_HOST_WIN_EN, .MMU_HOST_WIN_LIMIT, .MMU_HOST_WIN_BASE]
  | .MEM_DL_CFG => [.MEM_DL_CFG_DL_GRACE]
  | .MEM_DEG_STAT => [.MEM_DEG_STAT_SWITCHES, .MEM_DEG_STAT_LATE]
  | .MEM_RETIRE => [.MEM_RETIRE_ACTION, .MEM_RETIRE_KIND, .MEM_RETIRE_INDEX]
  | .CRT_BF_IDX => [.CRT_BF_IDX_INDEX]
  | .CRT_BF_DATA => [.CRT_BF_DATA_VALID, .CRT_BF_DATA_FRAME]
  | .CRT_STAT => [.CRT_STAT_STATE, .CRT_STAT_LATCH, .CRT_STAT_REJECT, .CRT_STAT_BF_FULL, .CRT_STAT_BADFRAMES, .CRT_STAT_TEMP]
  | .CRT_CTRL => [.CRT_CTRL_REQ]
  | .CRT_ERR => [.CRT_ERR_UE, .CRT_ERR_UE_CNT, .CRT_ERR_CE_CNT]
  | .CRT_UE_LOG => [.CRT_UE_LOG_VALID, .CRT_UE_LOG_POISON, .CRT_UE_LOG_CH, .CRT_UE_LOG_OWNER, .CRT_UE_LOG_ADDR]
  | .STK_STAT => [.STK_STAT_STATE, .STK_STAT_RPC_VALID, .STK_STAT_COPYING, .STK_STAT_RPC, .STK_STAT_SPARES_USED, .STK_STAT_TEMP]
  | .STK_RETIRE => [.STK_RETIRE_GO, .STK_RETIRE_PC]
  | .STK_UE_LOG => [.STK_UE_LOG_VALID, .STK_UE_LOG_POISON, .STK_UE_LOG_PC, .STK_UE_LOG_OWNER, .STK_UE_LOG_ADDR]
  | .STK_PC_ERR => [.STK_PC_ERR_UE, .STK_PC_ERR_LANE_FAIL, .STK_PC_ERR_SPARE_USED, .STK_PC_ERR_SPARE_FOR, .STK_PC_ERR_FAILED_LANE, .STK_PC_ERR_UE_CNT, .STK_PC_ERR_CE_CNT]
  | .MEM_ENC_STAT => [.MEM_ENC_STAT_GEN, .MEM_ENC_STAT_KEY]
  | .CB_SLOT => [.CB_SLOT_VALID, .CB_SLOT_UNLOADING, .CB_SLOT_OWNER, .CB_SLOT_FMT, .CB_SLOT_ENTRIES, .CB_SLOT_BASE, .CB_SLOT_UNITS]
  | .PK_Q_STAT => [.PK_Q_STAT_POOL_FULL, .PK_Q_STAT_WAITING, .PK_Q_STAT_RELOCS]
  | .EXP_STAT => [.EXP_STAT_DAMAGED, .EXP_STAT_DAMAGED_CNT, .EXP_STAT_RAW_BLOCKS]
  | .EXP_DMG_LOG => [.EXP_DMG_LOG_VALID, .EXP_DMG_LOG_CAUSE, .EXP_DMG_LOG_QUARTER, .EXP_DMG_LOG_BLOCK, .EXP_DMG_LOG_PAGE]
  | .SE_CFG => [.SE_CFG_TAG_SUM, .SE_CFG_LOOKAHEAD]
  | .SE_Q_TAGS => [.SE_Q_TAGS_AUTO, .SE_Q_TAGS_TAGS_ACT, .SE_Q_TAGS_TAGS]
  | .SE_STAT => [.SE_STAT_ISSUED, .SE_STAT_ABANDONED, .SE_STAT_OUT]
  | .SE_BUF_CFG => [.SE_BUF_CFG_EN, .SE_BUF_CFG_KIND, .SE_BUF_CFG_SLOTS_M1, .SE_BUF_CFG_BASE]
  | .SE_BUF_PTR => [.SE_BUF_PTR_HEAD_PAST, .SE_BUF_PTR_CLAIMED, .SE_BUF_PTR_FULL, .SE_BUF_PTR_HEAD]
  | .SE_BUF_GEOM => [.SE_BUF_GEOM_SLOT_KIB, .SE_BUF_GEOM_ROWS]
  | .SE_BAR => [.SE_BAR_BROKEN, .SE_BAR_COUNT]
  | .BANK_CFG => [.BANK_CFG_EN, .BANK_CFG_ACTIVE, .BANK_CFG_READY, .BANK_CFG_FORCED_EXIT, .BANK_CFG_OWNER, .BANK_CFG_OWNER_ACT, .BANK_CFG_FIRST, .BANK_CFG_COUNT, .BANK_CFG_FIRST_ACT, .BANK_CFG_COUNT_ACT, .BANK_CFG_REFUSED, .BANK_CFG_TOKENS]
  | .BANK_STAT => [.BANK_STAT_POISONED, .BANK_STAT_BUSY, .BANK_STAT_HOLD_CYCLES]
  | .BANK_ENERGY => [.BANK_ENERGY_ENERGY]
  | .UU_STEP_EXPECT => [.UU_STEP_EXPECT_VSEQ, .UU_STEP_EXPECT_STEP]
  | .UU_Q_KEEP => [.UU_Q_KEEP_HW, .UU_Q_KEEP_APPLY, .UU_Q_KEEP_BAD, .UU_Q_KEEP_VREFUSED, .UU_Q_KEEP_INTERVAL, .UU_Q_KEEP_CLEAN, .UU_Q_KEEP_E_STEP, .UU_Q_KEEP_E]
  | .UU_Q_VERDICT => [.UU_Q_VERDICT_CLIP, .UU_Q_VERDICT_STEP]
  | .UU_Q_CLIP => [.UU_Q_CLIP_CLIP]
  | .UU_Q_NF => [.UU_Q_NF_NF]
  | .UU_Q_VCMD => [.UU_Q_VCMD_SKIP, .UU_Q_VCMD_STEP]
  | .UU_Q_JRNL => [.UU_Q_JRNL_EN, .UU_Q_JRNL_OFFSET]
  | .UU_STAT => [.UU_STAT_REPLAY, .UU_STAT_DROP, .UU_STAT_JBAD, .UU_STAT_QUEUED, .UU_STAT_QUARTER, .UU_STAT_BUSY, .UU_STAT_SHARDS]
  | .UU_SLOTS => [.UU_SLOTS_SLOT_Q, .UU_SLOTS_SLOT_STATE]
  | .PT_Q_CFG => [.PT_Q_CFG_REQ_IDE, .PT_Q_CFG_HOST_PORT, .PT_Q_CFG_INT_ROUTE, .PT_Q_CFG_HOLDOFF, .PT_Q_CFG_B2_BASE]
  | .PT_PF_WIN => [.PT_PF_WIN_EN, .PT_PF_WIN_QUARTER, .PT_PF_WIN_BASE]
  | .PT_REJ_LOG => [.PT_REJ_LOG_VALID, .PT_REJ_LOG_CAUSE, .PT_REJ_LOG_FUNC, .PT_REJ_LOG_RID, .PT_REJ_LOG_REJECTS]
  | .PT_RID => [.PT_RID_EN, .PT_RID_MASK, .PT_RID_RID]
  | .PT_LINK_STAT => [.PT_LINK_STAT_UP, .PT_LINK_STAT_CACHE, .PT_LINK_STAT_FLIT, .PT_LINK_STAT_WIDTH, .PT_LINK_STAT_RATE, .PT_LINK_STAT_NARROWED, .PT_LINK_STAT_DOWN_EVT, .PT_LINK_STAT_ESCALATED, .PT_LINK_STAT_IDE_FAIL, .PT_LINK_STAT_BAD_LANE, .PT_LINK_STAT_RECOV]
  | .PT_ERR_CNT => [.PT_ERR_CNT_FEC_CORR, .PT_ERR_CNT_CRC_ERR, .PT_ERR_CNT_REPLAY_TX]
  | .PT_LINK_CFG => [.PT_LINK_CFG_REPLAY_LIMIT, .PT_LINK_CFG_HOST_TMO]
  | .CORE_CTRL => [.CORE_CTRL_RUN, .CORE_CTRL_HALTED, .CORE_CTRL_BOOT]
  | .FE_MOD_ID => [.FE_MOD_ID_MOD_ID]
  | .FE_CFG => [.FE_CFG_RETRY_MAX, .FE_CFG_RETX_US]
  | .FE_STAT => [.FE_STAT_SENT, .FE_STAT_OUT, .FE_STAT_RESENT]
  | .FE_Q_CFG => [.FE_Q_CFG_RX_EN, .FE_Q_CFG_AUTO, .FE_Q_CFG_CREDITS, .FE_Q_CFG_CREDITS_ACT, .FE_Q_CFG_RX_OFF]
  | .FE_Q_LOG => [.FE_Q_LOG_VA]
  | .FE_Q_RT => [.FE_Q_RT_GO, .FE_Q_RT_RT_HELD, .FE_Q_RT_VA]
  | .FE_Q_ERR => [.FE_Q_ERR_EPOCH_ACT, .FE_Q_ERR_FOREIGN, .FE_Q_ERR_RANGE, .FE_Q_ERR_TIMEOUT, .FE_Q_ERR_PROTO, .FE_Q_ERR_CREDIT_SUM, .FE_Q_ERR_ROUTE]
  | .FE_Q_DOWN => [.FE_Q_DOWN_DOWN]
  | .MB_SQ_CFG => [.MB_SQ_CFG_BASE, .MB_SQ_CFG_EN, .MB_SQ_CFG_LOC, .MB_SQ_CFG_PORT, .MB_SQ_CFG_LOG2]
  | .MB_CQ_CFG => [.MB_CQ_CFG_BASE, .MB_CQ_CFG_EN, .MB_CQ_CFG_LOC, .MB_CQ_CFG_LOG2]
  | .MB_SQ_DB => [.MB_SQ_DB_TAIL]
  | .MB_CQ_DB => [.MB_CQ_DB_HEAD]
  | .MB_STAT => [.MB_STAT_RING_FAULT, .MB_STAT_DB_DISCARD, .MB_STAT_HANDSHAKE, .MB_STAT_HALTED, .MB_STAT_CQ_TAIL, .MB_STAT_SQ_HEAD, .MB_STAT_CQ_WAIT]
  | .MB_URG_DB => [.MB_URG_DB_BUSY, .MB_URG_DB_GO]
  | .FW_STATE => [.FW_STATE_SERVICE, .FW_STATE_CFW_SLOT, .FW_STATE_MFW_SLOT, .FW_STATE_CP_PAIR, .FW_STATE_SWAP_PEND, .FW_STATE_CFW_VER, .FW_STATE_MFW_VER]
  | .RES_STAT => [.RES_STAT_LEVEL, .RES_STAT_LAST_RESET, .RES_STAT_CP_SPARE, .RES_STAT_FAILOVER, .RES_STAT_UNIT_OUT, .RES_STAT_STACK_LOST, .RES_STAT_DROPPED_LINES, .RES_STAT_HOST_ABANDONED]
  | .RES_CTRL => [.RES_CTRL_KEY, .RES_CTRL_MOD]
  | .RES_OUT_EXP => [.RES_OUT_EXP_EXP]
  | .RES_OUT_BANK => [.RES_OUT_BANK_BANK]
  | .RES_OUT_MISC => [.RES_OUT_MISC_UU, .RES_OUT_MISC_SE, .RES_OUT_MISC_PACK]
  | .SNAP_CFG => [.SNAP_CFG_ARM, .SNAP_CFG_REPEAT, .SNAP_CFG_NOW, .SNAP_CFG_SRC, .SNAP_CFG_MARK, .SNAP_CFG_QUARTER, .SNAP_CFG_EVENT]
  | .SNAP_STAT => [.SNAP_STAT_BUSY, .SNAP_STAT_VALID, .SNAP_STAT_MISSED, .SNAP_STAT_SEQ]
  | .FN_ERR => [.FN_ERR_VALID, .FN_ERR_CODE, .FN_ERR_DETAIL]
  | .FN_ERR_CNT => [.FN_ERR_CNT_COUNT]
  | .MC_ERR_PTR => [.MC_ERR_PTR_OVERFLOW, .MC_ERR_PTR_DROPPED, .MC_ERR_PTR_HEAD, .MC_ERR_PTR_TAIL]
  | .PMC_SEL => [.PMC_SEL_EN, .PMC_SEL_EDGE, .PMC_SEL_QUARTER, .PMC_SEL_INSTANCE, .PMC_SEL_EVENT]
  | .PMC_VAL => [.PMC_VAL_SAT, .PMC_VAL_COUNT]
  | .PMC_DUMP_CFG => [.PMC_DUMP_CFG_EN, .PMC_DUMP_CFG_PORT, .PMC_DUMP_CFG_LOST, .PMC_DUMP_CFG_LOG2, .PMC_DUMP_CFG_PERIOD]
  | .PMC_DUMP_BASE => [.PMC_DUMP_BASE_BASE]
  | .PT_BW_CFG => [.PT_BW_CFG_WIN_LOG2]
  | .PT_BW_RX => [.PT_BW_RX_RATE, .PT_BW_RX_BYTES]
  | .PT_BW_TX => [.PT_BW_TX_RATE, .PT_BW_TX_BYTES]
  | .SEC_STAT => [.SEC_STAT_DBG_OPEN, .SEC_STAT_SCOPE, .SEC_STAT_ERASE_PEND, .SEC_STAT_UNLOCK_FAILS, .SEC_STAT_MFW_FALLBACK, .SEC_STAT_CFW_FALLBACK, .SEC_STAT_REVOKED, .SEC_STAT_SVN_MIN_MFW, .SEC_STAT_SVN_MIN_CFW, .SEC_STAT_SVN_MFW, .SEC_STAT_SVN_CFW]
  | .SEC_SERIAL => [.SEC_SERIAL_SERIAL]
  | .PWR_STAT => [.PWR_STAT_SAG, .PWR_STAT_THROTTLE, .PWR_STAT_FLOW_LOW, .PWR_STAT_TRIP, .PWR_STAT_PDOWN_LAST, .PWR_STAT_PDOWN_CAUSE, .PWR_STAT_T_MAX, .PWR_STAT_FLOW, .PWR_STAT_C_EFF, .PWR_STAT_VIN_MIN]
  | .PWR_CFG => [.PWR_CFG_THERM_RESUME, .PWR_CFG_THERM_LIMIT, .PWR_CFG_CAP_SET]

/-- Registers, part 1. -/
def Reg.all1 : List Reg := [.TURN_LEN, .TURN_COUNT, .TURN_POS, .TOK_BUDGET, .TOK_FIXED, .TOK_Q_SHARE, .TOK_Q_STAT, .TOK_Q_CARRY, .TURN_Q_PARK, .TURN_BAL_ERR, .TURN_BAL_WHERE, .GRID_GEOM, .GRID_STRIP_STATE, .GRID_Q_STRIPS, .GRID_Q_STAT, .GRID_MAP_ADDR, .GRID_MAP_DATA, .GRID_FENCE_STAT, .GRID_FENCE_REQ, .MX_WIT_STAT]

/-- Registers, part 2. -/
def Reg.all2 : List Reg := [.MX_WIT_LOG0, .MX_WIT_LOG1, .NUM_FLAGS, .GH_BIN, .GH_SPECIAL, .GH_CTRL, .MEM_EXT, .MEM_LOT, .PLZ_Q_CFG, .MMU_ROOT, .MMU_FQ_BASE, .MMU_FQ_PTR, .MMU_LEDGER, .MMU_HOST_WIN, .MEM_DL_CFG, .MEM_DEG_STAT, .MEM_RETIRE, .CRT_BF_IDX, .CRT_BF_DATA, .CRT_STAT]

/-- Registers, part 3. -/
def Reg.all3 : List Reg := [.CRT_CTRL, .CRT_ERR, .CRT_UE_LOG, .STK_STAT, .STK_RETIRE, .STK_UE_LOG, .STK_PC_ERR, .MEM_ENC_STAT, .CB_SLOT, .PK_Q_STAT, .EXP_STAT, .EXP_DMG_LOG, .SE_CFG, .SE_Q_TAGS, .SE_STAT, .SE_BUF_CFG, .SE_BUF_PTR, .SE_BUF_GEOM, .SE_BAR, .BANK_CFG]

/-- Registers, part 4. -/
def Reg.all4 : List Reg := [.BANK_STAT, .BANK_ENERGY, .UU_STEP_EXPECT, .UU_Q_KEEP, .UU_Q_VERDICT, .UU_Q_CLIP, .UU_Q_NF, .UU_Q_VCMD, .UU_Q_JRNL, .UU_STAT, .UU_SLOTS, .PT_Q_CFG, .PT_PF_WIN, .PT_REJ_LOG, .PT_RID, .PT_LINK_STAT, .PT_ERR_CNT, .PT_LINK_CFG, .CORE_CTRL, .FE_MOD_ID]

/-- Registers, part 5. -/
def Reg.all5 : List Reg := [.FE_CFG, .FE_STAT, .FE_Q_CFG, .FE_Q_LOG, .FE_Q_RT, .FE_Q_ERR, .FE_Q_DOWN, .MB_SQ_CFG, .MB_CQ_CFG, .MB_SQ_DB, .MB_CQ_DB, .MB_STAT, .MB_URG_DB, .FW_STATE, .RES_STAT, .RES_CTRL, .RES_OUT_EXP, .RES_OUT_BANK, .RES_OUT_MISC, .SNAP_CFG]

/-- Registers, part 6. -/
def Reg.all6 : List Reg := [.SNAP_STAT, .FN_ERR, .FN_ERR_CNT, .MC_ERR_PTR, .PMC_SEL, .PMC_VAL, .PMC_DUMP_CFG, .PMC_DUMP_BASE, .PT_BW_CFG, .PT_BW_RX, .PT_BW_TX, .SEC_STAT, .SEC_SERIAL, .PWR_STAT, .PWR_CFG]

/-- All registers, in the order of the spec. -/
def Reg.all : List Reg := Reg.all1 ++ Reg.all2 ++ Reg.all3 ++ Reg.all4 ++ Reg.all5 ++ Reg.all6

/-- A number of its own for every field. -/
def Fld.code (f : Fld) : Nat := f.ctorIdx

/-- Width of a field in bits. -/
def Fld.width (f : Fld) : Nat := f.info.hi + 1 - f.info.lo

/-- Reset value of a field; `lt09` on the LT0960 (R5). -/
def Fld.resetVal (lt09 : Bool) (f : Fld) : Nat := if lt09 then f.info.reset09 else f.info.reset12

end Sys2Proof.Machine
end

