-- ==== Sys2Proof/Machine/Tab.lean ====
section
/-! DEFINITION. Sparse tables of plain data: lists of (key, value) pairs with strictly rising keys and no pair whose value is the
one an unlisted key reads as. Registers and memories are held in this form. -/

namespace Sys2Proof.Machine

/-- A sparse table. -/
abbrev Tab (α : Type) := List (Nat × α)

/-- The value at key `k`; `d` is what an unlisted key reads as. -/
def Tab.get {α : Type} (d : α) (k : Nat) : Tab α → α
  | [] => d
  | (k', v) :: t => if k = k' then v else Tab.get d k t

/-- Puts a pair at its place. -/
def Tab.insert {α : Type} (k : Nat) (v : α) : Tab α → Tab α
  | [] => [(k, v)]
  | (k', v') :: t =>
    if k < k' then (k, v) :: (k', v') :: t
    else if k = k' then (k, v) :: t
    else (k', v') :: Tab.insert k v t

/-- Removes key `k`. -/
def Tab.erase {α : Type} (k : Nat) : Tab α → Tab α
  | [] => []
  | (k', v') :: t => if k = k' then Tab.erase k t else (k', v') :: Tab.erase k t

/-- Sets key `k` to `v`, keeping the canonical form: a value equal to the default `d` is not listed. -/
def Tab.set {α : Type} [DecidableEq α] (d : α) (k : Nat) (v : α) (t : Tab α) : Tab α :=
  if v = d then Tab.erase k t else Tab.insert k v t

/-- Sets `vs` at the keys `k`, `k + 1`, … -/
def Tab.setList {α : Type} [DecidableEq α] (d : α) : Nat → List α → Tab α → Tab α
  | _, [], t => t
  | k, v :: vs, t => Tab.setList d (k + 1) vs (Tab.set d k v t)

/-- The `n` values from key `k`. -/
def Tab.getList {α : Type} (d : α) (t : Tab α) : Nat → Nat → List α
  | _, 0 => []
  | k, n + 1 => Tab.get d k t :: Tab.getList d t (k + 1) n

/-- Keeps the keys that satisfy `p`. -/
def Tab.keep {α : Type} (p : Nat → Bool) (t : Tab α) : Tab α := t.filter (fun e => p e.1)

/-- The canonical form: keys strictly rising, no default value listed. -/
def Tab.wf {α : Type} [DecidableEq α] (d : α) : Tab α → Bool
  | [] => true
  | [(_, v)] => decide (v ≠ d)
  | (k, v) :: (k', v') :: t => decide (v ≠ d) && decide (k < k') && Tab.wf d ((k', v') :: t)

end Sys2Proof.Machine
end

