-- ==== Sys2Proof/Machine/State.lean ====
section
/-! DEFINITION. The state of the block as plain data, and the state right after reset (POR). Registers are held field by field
in `regs`; what the rules imply beyond the registers is held in the other fields. -/

namespace Sys2Proof.Machine

/-- Scalars that the rules give the block beside its registers, each indexed (by quarter, unit, page, …) and zero at reset.
The comment names the rule and the index. -/
inductive Hid where
  /-- R37: tokens charged in the turn; by quarter. -/
  | charged
  /-- R36: A(q) of the turn; by quarter. -/
  | allot
  /-- R36: G(q) of the turn; by quarter. -/
  | gross
  /-- R38: OWED(q) for the next load; by quarter. -/
  | owed
  /-- R39: the share in force; by quarter. -/
  | shareAct
  /-- R36: F of the turn, at most B (index 0). -/
  | fixedAct
  /-- R36: the reserve of the turn (index 0). -/
  | reserve
  /-- R53: discrepancy of the power tokens to add to E (index 0). -/
  | balE
  /-- R386: E_carry (index 0). -/
  | carryE
  /-- R32: LEN_SEL applied and in force from the next turn (index 0). -/
  | lenNext
  /-- R54: a link failed its check at the last turn end: last turn index plus 1; by link INSTANCE. -/
  | linkBad
  /-- R53: likewise for the tags of a stream engine; by engine. -/
  | tagBad
  /-- R33: 1 past the position of the next admission decision in the turn; by quarter. -/
  | decideAt
  /-- The free value counter: the model's own field (log entry 17, DESIGN CHOICE). -/
  | freeCtr
  /-- The next number the model gives an operation (log entry 18, DESIGN CHOICE). -/
  | nextId
  /-- R326: the halt asked for disposal at the next turn end; by quarter. -/
  | dispose
  /-- R327: RELEASE is staged; by quarter. -/
  | releaseStaged
  /-- R326: the quarter is halted; by quarter. -/
  | halted
  /-- R313: round robin: the page served last and the entries taken from it in the round (indices 0 and 1). -/
  | rrobin
  /-- R325: PHASE of the urgent result; by page. -/
  | urgPhase
  /-- R314: 1 + the cycle since which completions wait on a full ring; by page. -/
  | cqSince
  /-- R319: 1 + the cycle since which class 0x01 entries stall; by quarter. -/
  | submitSince
  /-- R283: 1 + the cycle at which the holdoff of the vector ends; by 8 × quarter + vector. -/
  | holdUntil
  /-- R283: the pending bit of an MSI-X vector; by 16 × (13 × port + function) + vector. -/
  | msixPend
  /-- R282: vector unmasked; by 16 × (13 × port + function) + vector. -/
  | msixUnmask
  /-- R282: MSI-X: 0 off, 1 enabled, 2 enabled with every vector masked; by 13 × port + function. -/
  | msixEn
  /-- R293: interrupt pending bits at the cores' controller, one per vector; by quarter. -/
  | corePend
  /-- R293: interrupt enable bits; by 3 × quarter + core. -/
  | coreEn
  /-- R357: 1 + the last cycle in which an event was asserted; by event key. -/
  | evLast
  /-- R358: 1 + the cycle of the last write of PMC_SEL; by counter. -/
  | selAt
  /-- R354: 1 + the cycle in which software last cleared a W1C field that was set; by the field's key. -/
  | clrAt
  /-- R184, R186, R319: 1 when the command that the command processor last made waits in an access and is made again (index 0). -/
  | cmdWait
  /-- R356: sticky log entries; by 2 × index, and + 1: low and high 8 bytes. -/
  | mcLog
  /-- R172, R374: the number of the key in the slot, 0 when none; by quarter. -/
  | keyNum
  /-- R374: keys made so far (index 0). -/
  | keyCount
  /-- R378: the TAP: selected instruction (index 0). -/
  | tapIr
  /-- R128: changes of the scratchpad after which its contents are lost; by quarter. -/
  | scratchEpoch
  /-- R72: 1 + the cycle in which the allocator examined the last row before it waits; by quarter. -/
  | allocWait
  /-- R72: 1 + the cycle in which the operation that the allocator scans for reached the head of its queue; 0 when none does; by quarter. -/
  | allocAt
  /-- R72: granule rows examined for it so far; by quarter. -/
  | allocRow
  /-- R72: 1 + the cycle in which the release that ends the allocator's wait takes effect; by quarter. -/
  | allocFree
  /-- R51: 1 + the number of the function or agent that staged the strips or the scratchpad ways; by quarter. -/
  | sizeBy
  /-- R15, R40, R50: steps of the turn's schedule done in this turn, 1 the sweep to 9 the rebuild of the resume queues (index 0). -/
  | sched
  /-- R17: 1 when the MC has written NEXT, or FIXED, since the last load (index 0). -/
  | mcNext
  | mcFixed
  /-- R53: 4,096 + what a quarter's count of park records holds beside those of its operations; 0 for nothing; by quarter. -/
  | parkAdj
  /-- R9: how much hardware has added in the cycle of `setAt` to a field that a read clears; by the field's key. -/
  | rcNew
  /-- R14, R334: the units out of service in force, by the number of the stack or bay: stream engines, expanders, packers, the update unit, bank
  engines. -/
  | outSe
  | outExp
  | outPack
  | outUu
  | outBank
  /-- The next number the model gives a stream request (log entry 18, DESIGN CHOICE). -/
  | nextReq
  /-- R235: tokens charged for the engines of a bank owner in the turn; by quarter. -/
  | bankCharge
  /-- R235: busy cycles of its engines' retired commands in the turn; by quarter. -/
  | bankBusy
  /-- R254: the absolute cycle at which the computation of an update unit ends; by unit. -/
  | uuFree
  /-- R133, R215: the absolute cycle at which a scan of plaza began; of the region of stack k at k, of quarter q at 16 + q. -/
  | scanAt
  /-- R161: bit mask of the failed lanes not yet replaced; by 64 × stack + PC. -/
  | laneBad
  /-- R162: the absolute cycle of the lane's failure. -/
  | laneFailAt
  /-- R162: 1 + the lane for which the spare trains. -/
  | spareTrain
  /-- R162: failed trainings of the spare. -/
  | spareTries
  /-- R161: 64 × the number of consecutive codewords with the same symbol corrected + that lane; by 64 × stack + PC. -/
  | corrRun
  /-- R164: 1 + the PC whose retirement is requested; by stack. -/
  | retirePend
  /-- R164: the copy is complete: 1; by stack. -/
  | copyDone
  /-- R159: the next codeword of the scrubber; by (channel × 16 + unit) × 4 + tier. -/
  | scrubPos
  /-- R166: the bad-frame table changed in the turn: 1; by bay. -/
  | bfDirty
  /-- R169: the turn end after the withdrawal request has passed: 1; by bay. -/
  | withdrawn
  /-- R170: the lots become PRESENT at the next turn end: 1; by bay. -/
  | presentPend
  /-- R335: the update unit leaves service once its slots are free: 1; by unit. -/
  | uuLeaving
  /-- R350: 1 + the cycle at which the snapshot that NOW asked for latches (index 0). -/
  | snapDue
  /-- R359: SEQ of the next dump (index 0). -/
  | dumpSeq
  /-- R360: the first cycle that the windows of the port count, after a write of PT_BW_CFG; by port. -/
  | bwFrom
  /-- R300: MOD_ID in force (index 0). -/
  | modId
  /-- R301: 1 + the number of the function or agent that staged the route table; by quarter. -/
  | rtStaged
  /-- R303: applications not acknowledged; by 64 × quarter + route. -/
  | feApps
  /-- R303: 1 + the cycle of the first reception or application not acknowledged; by 64 × quarter + route. -/
  | feAckAt
  /-- R385: 1 while the data and control planes are out of their power reset (index 0). -/
  | planes
  /-- R337, R385: bit p: CP pair p is in service, serving or spare (index 0). -/
  | cpUp
  /-- R331: 1 + the CFW slot whose image the spare pair runs (index 0). -/
  | spareImg
  /-- R331: 1 + the slot of a staged image select; by image, 0 CFW and 1 MFW. -/
  | selStaged
  /-- R369, R370: the slot that the MC's non-volatile store names as selected; by image. -/
  | nvSel
  /-- R369: 1 in ROM recovery (index 0). -/
  | romRec
  /-- R390: 1 + the cycle at which the power-down sweep began (index 0). -/
  | sweepAt
  /-- R345: 1 + LAST_RESET of the module reset that quiesces (index 0). -/
  | quiesce
  /-- R384: 1 while MOD_RST_N is held low (index 0). -/
  | rstHeld
  /-- R384: 1 while PERST_N is low or the port trains; by port. -/
  | perstLow
  /-- R334: 1 when the unit failed its last self-test; by (class × 16 + u) × 64 + index. -/
  | testBad
  /-- R348: failed refreshes in a row of a bay; by bay. -/
  | refreshBad
  /-- R387: C − C_therm in hundredths of C (index 0). -/
  | thermCut
  /-- R392: 1 while the coolant flow limits (index 0). -/
  | flowLow
  /-- R330: 1 when restricted service ends at the next turn end (index 0). -/
  | svcEnd
  /-- R214: 1 + the number of the function or agent that staged BANK_CFG; by stack. -/
  | bankBy
  /-- R374: staged key action: 1 KEY_NEW, 2 KEY_ERASE; by quarter. -/
  | keyStage
  /-- R380: 1 + the cycle at which the halt and the plaza scan of the unlock are complete (index 0). -/
  | eraseReady
  /-- R379: the number of the current nonce (index 0). -/
  | nonceNo
  /-- R372: open SPDM sessions; by transport. -/
  | spdm
  /-- R280: state of an IDE stream: 0 not set up, 1 Secure, 2 Insecure; by 256 × port + stream. -/
  | ide
  /-- R286: CRC_ERR of the port in the turn (R286), and flits in the turn (R287); by port. -/
  | crcTurn
  /-- R286: REPLAY_LIMIT was exceeded in the turn: 1; by port. -/
  | escTurn
  /-- R287: bit l: lane l of the port failed; by port. -/
  | portBad
  /-- R287: CRC-failed flits of a lane in the turn; by 16 × port + lane. -/
  | laneCrc
  /-- R286: 1 + RATE + 16 × WIDEN of a retraining asked for; by port. -/
  | linkReq
  /-- R292: the timer compare; by 3 × quarter + core. -/
  | timerCmp
  /-- R292: the timer has reached the compare: 1; by 3 × quarter + core. -/
  | timerPend
  /-- R293: base address of the maintenance port; by quarter. -/
  | maintBase
  /-- R293: length of the maintenance port; by quarter. -/
  | maintLen
  /-- R269: dwords 0 to 2 (address, data) of an MSI-X table entry; by 4 × (16 × (13 × port + function) + vector) + dword. -/
  | msixTab
  /-- R266: configuration space: bit 0 Memory Space Enable, bit 1 D3hot, bit 2 Bus Master Enable; by 13 × port + function. -/
  | cfgMem
  /-- R266: what software has written into configuration space beside these, against its reset value; by 1024 × (13 × port + function) + dword. -/
  | cfgReg
  /-- R372: the DOE mailbox of a function; by 4096 × (13 × port + function): 0 dwords written, 1 dwords of the response, 2 of them read, 16 + i the
  dword i written, 2048 + i of the response. -/
  | doe
  /-- R285: a correctable AER message of a class has been sent in the turn: 1; by 4 × port + class: 0 CRC, 1 NAK, 2 replay timeout. -/
  | aerSent
  /-- R268: VF Enable of the PF's SR-IOV capability, with NumVFs × 2; by port. -/
  | cfgVf
  /-- R348: the PC of every stack to be refreshed next (index 0). -/
  | refreshPos
  /-- R348: the channel of a bay to be refreshed next; by bay. -/
  | refreshCh
  /-- R348: the absolute cycle at which the refresh of a channel ends; by 64 × the number of the stack or bay + channel. -/
  | refreshEnd
  /-- R334: the place of each kind's self-tests in its round-robin order; by class. -/
  | testPos
  /-- R384: the planes stay in reset until MOD_RST_N returns high: 1 + the pairs that passed, bit 0 pair 0 (index 0). -/
  | rstPairs
  /-- R170, R385, R393: a cartridge is fitted: 1 an LC1024-A1, 2 another part; by bay. -/
  | fitted
  /-- R391: a thermal or flow trip asserts THERM_ALERT_N until POR: 1 (index 0). -/
  | thermTrip
  /-- R390: the auxiliary supply was lost: 1 (index 0). -/
  | auxLost
  /-- R390: the 48 V stage is off after a sweep and the MC has not repowered the module: 1 (index 0). -/
  | offHold
  /-- R390: the ports are in electrical idle in the sweep: 1 (index 0). -/
  | sweepIdle
  /-- R369: MFW runs: 1 (index 0). -/
  | mfwUp
  /-- R162, R168: 1 + the lane that a REPAIR command gives to the spare in the next window; by 64 × stack + PC. -/
  | spareWant
  /-- R163, R164: the lines of the retired PC in an extent were copied with the poison marker: 1; by extent. -/
  | pcPoison
  /-- R195: 1 + the cycle since which a ready request waits on a quota; by 16 × engine + quarter. -/
  | tagsSince
  /-- R26: 1 + the cycle since which a unit waits for a journal slot; by 16 × unit + quarter. -/
  | jrnlSince
  /-- R26: 1 + the cycle since which a message waits for a message slot, or for a lane slot; by 16 × engine + quarter. -/
  | feMsgSince
  | feLaneSince
  /-- R199: 1 + the cycle in which the engine issued last; by engine. -/
  | seLast
  /-- R9: 1 + the cycle in which hardware last set a W1C field; by the field's key. -/
  | setAt
  /-- R199: admissions so far (index 0). -/
  | admits
  /-- R162: 1 + the absolute cycle at which the spare last began to train; by 64 × stack + PC. -/
  | spareTurn
  /-- Resets that have cleared the turn block, so that what a sensor shows then is free anew (index 0). -/
  | resets
  deriving DecidableEq, Repr

/-- A completion before it is posted (Table 14-4): `res1` is `none` where RESULT1 is TURN_COUNT at posting. -/
structure Cpl where
  tag : Nat
  source : Nat
  status : Nat
  flags : Nat
  degraded : Bool
  failed : Nat
  res0 : Nat
  res1 : Option Nat
  deriving DecidableEq, Repr

/-- A granule of a packed page that a stream reads (R193): tier, unit and tier address, its sub-stream, and whether a block that is wanted lies in
it or after it. -/
structure Gran where
  tier : Nat
  unit : Nat
  addr : Nat
  sub : Nat
  must : Bool
  deriving DecidableEq, Repr

/-- What a stream reads next (R196): the work unit it is for (of an explicit stream the row, of a move the page), the stream, the bytes, where a copy puts them, the cycle in which the blank
would first use a byte of them, and on a packed page the granule. -/
structure Need where
  unit : Nat
  stream : Nat
  va : Nat
  n : Nat
  dst : Nat
  at_ : Nat
  gran : Option Gran
  deriving DecidableEq, Repr

/-- Where an operation stands. -/
inductive Phase where
  /-- In the submit queue (R33). -/
  | queued
  /-- In the resume queue (R49). -/
  | resuming
  /-- With the blank allocator (R71), or with the unit that runs it, not yet begun. -/
  | placing
  /-- It has a blank and its 32 cycles of setup run (R72). -/
  | setup
  /-- Executing. -/
  | running
  /-- Its footprint runs the self-test (R100). -/
  | testing
  /-- Parked (R41): a record in the park area. -/
  | parked
  /-- Ended: its completion is due (R208). -/
  | ended
  /-- A group whose problems are all issued, or a plan, waiting for its members. -/
  | members
  deriving DecidableEq, Repr

/-- A blank (R69, R71): westmost and northernmost granule, and its size in granules. -/
structure Blank where
  left : Nat
  top : Nat
  w : Nat
  h : Nat
  deriving DecidableEq, Repr

/-- A write that an operation makes: quarter virtual address and bytes. -/
structure VWrite where
  va : Nat
  data : List Byte
  deriving DecidableEq, Repr

/-- A work unit in hand (R79): what it leaves at its verdict. -/
structure WorkUnit where
  /-- Its number: units begun since the operation's first cycle, itself among them. -/
  no : Nat
  /-- Its row run, first n-block and first k-chunk. -/
  rowRun : Nat
  nBlock : Nat
  kChunk : Nat
  /-- The faulty tiles of the blank while it runs (R99). -/
  faults : List TileFault
  /-- It has been computed and its writes have been made. -/
  written : Bool
  /-- The cycle after its last step (R85). -/
  endAt : Nat
  /-- The cycle of its verdict (R85). -/
  verdictAt : Nat
  /-- Its writes to C, to the accumulation area and of ROWMAX and ROWSUM. -/
  writes : List VWrite
  flags : Nat
  /-- Histogram counts held apart (R122): class 0 to 63 a bin, 64 ZERO, 65 SUB, 66 INF, 67 NAN, with the biased exponent. -/
  hist : List (Nat × Nat)
  /-- The corner's E (R99), as binary32. -/
  diff : Nat
  /-- The corner's bound (R99), as binary32. -/
  bound : Nat
  /-- A step was checked and the bound is finite (R99). -/
  checked : Bool
  /-- A witness word read back did not match (R81). -/
  spillTag : Bool
  /-- An operand carried poison (Table 7-2). -/
  poison : Bool
  deriving DecidableEq, Repr

/-- An operation (R33): the fields of its submission entry, what admission and its park record hold, and how far it is. `raw`
is its descriptor as one number, bit 0 the least significant (R7). -/
structure Op where
  id : Nat
  q : Nat
  page : Nat
  source : Nat
  notify : Bool
  tag : Nat
  problem : Nat
  /-- The group or plan it belongs to, and its index in it. -/
  group : Option (Nat × Nat)
  plan : Option (Nat × Nat)
  sig : Option Nat
  wait : Option (Nat × Nat)
  bind : Option (Nat × Nat)
  raw : Nat
  descVA : Nat
  phase : Phase
  /-- What it presents to R33 (R48). -/
  estCycles : Nat
  estTokens : Nat
  slice : Nat
  charge : Nat
  /-- The cursor: row run, first n-block, first k-chunk (R47); a move's next page, a stream's next granule. -/
  rowRun : Nat
  nBlock : Nat
  kChunk : Nat
  spilled : Bool
  degraded : Bool
  flags : Nat
  noProgress : Nat
  overrun : Bool
  parkTurn : Nat
  spillBytes : Nat
  /-- The position of its valid park record. -/
  record : Option Nat
  blank : Option Blank
  /-- Its first cycle (R72), absolute. -/
  startAt : Nat
  /-- n-group and residency whose B the preload half, then the active half, holds (R82). -/
  preKey : Option (Nat × Nat)
  preDone : Bool
  preEnd : Nat
  preFlags : Nat
  prePoison : Bool
  actKey : Option (Nat × Nat)
  /-- How often the two halves of its pockets have changed places (R82). -/
  swaps : Nat
  /-- B of the residency as arithmetic values, n-block by n-block, column by column, in increasing k (R76). -/
  preB : List (List (List Nat))
  actB : List (List (List Nat))
  /-- The preload in hand reads the generation replica (R150), and the ledger entry that names it. -/
  replica : Bool
  repEntry : Nat
  /-- Work units begun whose verdict is not posted, oldest first (R85). -/
  units : List WorkUnit
  /-- The cycle after the last step of its last work unit; 0 for none. -/
  lastEnd : Nat
  /-- E latched at admission (R241). -/
  lossE : Nat
  /-- Its operation slot (R26). -/
  slotNo : Nat
  /-- What streams, moves, update-unit and fabric operations keep beside the cursor (their chapters). -/
  aux : List Nat
  /-- The status it ends with, set once (R324). -/
  status : Option Nat
  res0 : Nat
  /-- Members: problems or entries not completed with success, the lowest such index and its status, and those not ended. -/
  failed : Nat
  lowBad : Option (Nat × Nat)
  left : Nat
  /-- Problems issued so far by a group (R89). -/
  issued : Nat
  /-- The access it stalls on, if any (R140): page number in the stall list. -/
  stalled : Bool
  /-- Its step operand entries (Table 4-9), as numbers, by slot. -/
  entries : List Nat
  /-- What its implicit streams still have to read (R196), stream by stream in order; of an explicit stream or a move the pieces in hand. -/
  needs : List Need
  /-- Work units begun since its first cycle; of a move, 1 + the page whose reads have begun. -/
  unitNo : Nat
  /-- Cycle 0 of its next work unit, as far as it is known. -/
  nextAt : Nat
  /-- Its first read has been made with the slots it claims full (R203), and its first A read, or request, past its barrier (R209). -/
  claimOk : Bool
  barOk : Bool
  /-- The cycle from which the barrier that released it lets it read (R209). -/
  relAt : Nat
  /-- Its number in the order of admission (R199). -/
  admitNo : Nat
  /-- Work units past their verdict since its record's cursor, and such units that an overrun abort makes it repeat (R114, R122). -/
  passed : Nat
  again : Nat
  deriving DecidableEq, Repr

/-- A line of a quarter's plaza cache (R129): its home slice, its tier address (256-byte aligned), whether it is dirty, its keep
group (R131), and, when it is dirty, what its home tier holds: 256 bytes and the poison of its four 64-byte lines. The
current contents are those of `State.mem`. The list of lines runs from the most to the least recently used. -/
structure PLine where
  q : Nat
  slice : Nat
  tier : Nat
  unit : Nat
  addr : Nat
  dirty : Bool
  keep : Option Nat
  home : List Byte
  homePoison : List Nat
  /-- The restore copy's address of the line and its object, where a write-back goes there as well (R144). -/
  shadow : Option (Nat × Nat)
  deriving DecidableEq, Repr

/-- A translation in the cache of an MMU (R138): page base, log2 of its size, the leaf entry and where it lies. -/
structure TlbEnt where
  q : Nat
  base : Nat
  log2 : Nat
  pte : Nat
  unit : Nat
  addr : Nat
  deriving DecidableEq, Repr

/-- A faulting access that stalls (R140), or whose record is still unresolved (R141). -/
structure Stall where
  q : Nat
  va : Nat
  cause : Nat
  write : Bool
  level : Nat
  init : Initiator
  tag : Nat
  /-- The operation that waits on it; none for an access that does not stall. -/
  op : Option Nat
  /-- Its record is written (R141). -/
  recorded : Bool
  /-- HOSTERR: the host address that failed (R148). -/
  host : Option Nat
  deriving DecidableEq, Repr

/-- A strip (R56, R61): its alleys (physical row and f), its rows whose spare at u = 64 is fenced, and its retired-row list in
the order of entry. -/
structure Strip where
  alleys : Tab Nat
  spareOut : List Nat
  retired : List Nat
  deriving DecidableEq, Repr

/-- A staged fence or unfence (R74). -/
structure Fence where
  x : Nat
  y : Nat
  undo : Bool
  deriving DecidableEq, Repr

/-- A suspect tile of a quarter (R74), by its logical position and physical tile. -/
structure Suspect where
  q : Nat
  x : Nat
  y : Nat
  deriving DecidableEq, Repr

/-- An entry of a witness repeat table (R101), the most recently used first. -/
structure Repeat where
  q : Nat
  tag : Nat
  problem : Nat
  count : Nat
  deriving DecidableEq, Repr

/-- A claim of a ring buffer by a bound consumer (R203), in admission order. -/
structure Claim where
  q : Nat
  buf : Nat
  op : Nat
  n : Nat
  done : Bool
  deriving DecidableEq, Repr

/-- A command that has begun and completes later (R319), with what it waits for. -/
inductive Until where
  /-- UNIT release (R127). -/
  | unitFree (lot : Bool) (i : Nat)
  /-- CB_UNLOAD (R180). -/
  | slotFree (k : Nat)
  /-- LINK: the port up (R286). -/
  | linkUp (port : Nat)
  /-- KEY_NEW, KEY_ERASE: applied (R381). -/
  | keyApplied (q : Nat)
  /-- DEBUG_UNLOCK: step 4 of R380. -/
  | erased
  deriving DecidableEq, Repr

/-- A command in hand (R319): where its completion goes. -/
structure Late where
  page : Nat
  source : Nat
  tag : Nat
  until_ : Until
  deriving DecidableEq, Repr

/-- An MSI-X message (R282, R283): port, function, vector. -/
structure IntMsg where
  port : Nat
  func : Nat
  vec : Nat
  deriving DecidableEq, Repr

/-- What a port, a core or the debug port got back: status 0 success, 1 unsupported request, 2 completer abort, 3 successful
with poison, 4 dropped, 5 access fault; and data. -/
structure Reply where
  status : Nat
  data : List Byte
  deriving DecidableEq, Repr

/-- An access to a packed page that waits: on BUSY (R184), or, a packer, on a full pool (R186). Its quarter and initiator, the page's leaf and where
that lies, where it accesses, and, of a write, its bytes and the poison of its lines. -/
structure PackStall where
  q : Nat
  init : Initiator
  tag : Nat
  op : Option Nat
  pte : Nat
  log2 : Nat
  unit : Nat
  addr : Nat
  va : Nat
  write : Bool
  data : List Byte
  bads : List Bool
  busy : Bool
  deriving DecidableEq, Repr

/-- A repair of a DRAM row (R168): its stack and PC, its kind as in REPAIR (0 soft, 1 hard, 2 base-die remap), bank and row, and whether it is in
force or still waits for its window. -/
structure Repair where
  stack : Nat
  pc : Nat
  kind : Nat
  bank : Nat
  row : Nat
  applied : Bool
  deriving DecidableEq, Repr

/-- A stream request that holds a tag (R194), or waits at Port A (R192): the operation it reads for, with its number
of admission, its engine, its tier, what it reads and its deadline. -/
structure Req where
  id : Nat
  op : Nat
  q : Nat
  adm : Nat
  engine : Nat
  tier : Nat
  /-- It waits in the tier-3 queue of Port A. -/
  atPort : Bool
  need : Need
  deadline : Nat
  /-- A direct host load of a blank (R211): it has neither a tag nor a deadline. -/
  direct : Bool
  /-- It failed (R278): its tag is free, and it is sent again once its fault is resolved (R206). -/
  lost : Bool
  /-- Its translation faulted (R194): it keeps its tag while its operation stalls. -/
  faulted : Bool
  /-- Its response is discarded (R150). -/
  drop : Bool
  /-- It has been counted as late (R149). -/
  late : Bool
  deriving DecidableEq, Repr

/-- A bank engine (R218 to R224): its command queue with the number of its first entry, its counts and status, its registers, the
broadcast copies it still owes, and the command it runs. -/
structure Engine where
  queue : List Nat
  seqDone : Nat
  seqPushed : Nat
  flags : Nat
  overflow : Bool
  lastStatus : Nat
  lastTag : Nat
  badSeq : Option Nat
  discarded : Nat
  /-- Every command since the previous SIGNAL, or since entry, retired DONE (R227). -/
  clean : Bool
  /-- Registers as FP32 words: register i, lane l at 32 × i + l. -/
  regs : List Nat
  /-- Broadcast copies pending: engine address and bytes, oldest first (R221). -/
  copies : List (Nat × List Byte)
  /-- The command it runs: start cycle, and the cycle at which it ends. -/
  run : Option (Nat × Nat)
  /-- What that command has done by the last boundary (R230, R231): its units performed, and its flags so far. -/
  units : Nat
  cmdFlags : Nat
  /-- The operand lines it holds beside its registers between boundaries: of a GEMV the scales of the block and the x of each token, of an OUTER
  the u and then the v of each token, of a ROWADD the address of the row. -/
  held : List Nat
  deriving DecidableEq, Repr

/-- An engine that has never run: nothing queued, nothing counted. -/
def Engine.empty : Engine := ⟨[], 0, 0, 0, false, 0, 0, none, 0, true, [], [], none, 0, 0, []⟩

/-- A latched snapshot (R349 to R353): its header fields, and what the tile and block records are read from: the register fields, the
strips, the fenced and suspect tiles, the cycle, and the operations that hold blanks, each with whether its blank is frozen. -/
structure Snap where
  seq : Nat
  turn : Nat
  pos : Nat
  src : Nat
  regs : Tab Nat
  strips : List Strip
  fenced : List (Nat × Nat)
  suspects : List Suspect
  at_ : Nat
  blanks : List (Op × Bool)
  deriving DecidableEq, Repr

/-- A send record (R298) that is VALID: its quarter, engine and number, its route and ALIVE, the operation it belongs to, whether that
operation originated it, the cycle of its last sending, its resends, and whether its reception has been reported (R303). -/
structure FeTx where
  q : Nat
  e : Nat
  recNo : Nat
  route : Nat
  alive : Nat
  op : Nat
  own : Bool
  sentAt : Nat
  resends : Nat
  received : Bool
  deriving DecidableEq, Repr

/-- A received message in its slot (R302): quarter, slot index and lane, SRC_IDX and ALIVE, whether it has been applied while an earlier one has
not, and 1 + the cycle since which no operation has armed its transfer. -/
structure FeRx where
  q : Nat
  i : Nat
  l : Nat
  rt : Nat
  alive : Nat
  applied : Bool
  since : Nat
  deriving DecidableEq, Repr

/-- A header line to check again at cycle 0 (R302, R308). -/
structure FeHeld where
  e : Nat
  q : Nat
  i : Nat
  l : Nat
  rid : Nat
  deriving DecidableEq, Repr

/-- A direct host store (R211): its number, its operation, quarter and tag, where it writes and what; 0 while it waits at its drain row, 1 once
Port A has accepted it, 2 when it has failed (R278). -/
structure DirectStore where
  no : Nat
  op : Nat
  q : Nat
  tag : Nat
  va : Nat
  ha : Nat
  data : List Byte
  st : Nat
  deriving DecidableEq, Repr

/-- A line in the L2 of core `c` of quarter `q` (R291 to R293): its physical address in the cacheable window, its bytes, whether they carry poison,
and whether the core has written them. -/
structure L2Line where
  q : Nat
  c : Nat
  pa : Nat
  dirty : Bool
  bad : Bool
  data : List Byte
  deriving DecidableEq, Repr

/-- The counts that were committed to a grain histogram slot (R122) in one cycle: the cycle, 64 × quarter + slot, the 68 counters and MAXEXP before
them, and the counts. -/
structure HistNow where
  cycle : Nat
  sl : Nat
  was : List Nat
  hist : List (Nat × Nat)
  deriving DecidableEq, Repr

/-- The block. -/
structure State where
  /-- Commands that wait, first in, first out. -/
  pending : List Instr
  /-- Which module it is (R1): an LT0960 when set. -/
  lt09 : Bool
  /-- Sea cycles since the last reset that clears the turn block (R360), and the one at which the current turn began (R30). -/
  now : Nat
  turn0 : Nat
  /-- Register fields (R8, R9), by field and index. -/
  regs : Tab Nat
  /-- The register fields as they stood before any update of the present cycle (R353). -/
  regs0 : Tab Nat
  hid : Tab Nat
  /-- Device memory of tiers 0, 1 and 2 as the home slices hold it (R125, R129); what nothing has written reads as zero. -/
  mem : List Host.Cell
  /-- Host memory (tier 3, rings in host memory). -/
  hostMem : List Host.Cell
  /-- Poisoned 64-byte lines (R160): 1 formed by a read, 2 stored. -/
  poison : Tab Nat
  /-- 64-byte lines stored encrypted (R171): the number of the key. -/
  encTag : Tab Nat
  plaza : List PLine
  tlb : List TlbEnt
  stalls : List Stall
  ops : List Op
  submitQ : List Nat
  resumeQ : List Nat
  allocQ : List Nat
  strips : List Strip
  /-- Fenced physical tiles in the order applied (R61), the staged fences (R74) and the suspects of the turn. -/
  fenced : List (Nat × Nat)
  fences : List Fence
  suspects : List Suspect
  repeats : List Repeat
  /-- Commits to grain histogram slots in the latest cycle that had one (R123). -/
  histNow : List HistNow
  /-- Completions that wait for room (R314), by page, in order. -/
  cqWait : List (Nat × Cpl)
  /-- MB_URG_CMD and MB_URG_RES (Table 14-1), by page. -/
  urgCmd : Tab Nat
  urgRes : Tab Nat
  late : List Late
  /-- MC requests on the internal ring pair (R17): offset and value. -/
  mcRing : List (Nat × Nat)
  outbox : List IntMsg
  reply : Reply
  /-- Evicted dirty lines whose restore copy is due (R144). -/
  due : List PLine
  /-- Codebook images in the stores, by slot (R179). -/
  codebooks : List (Nat × List Byte)
  /-- Accesses to packed pages that wait: for BUSY (R184), or for blocks of a full pool (R186). -/
  packStalls : List PackStall
  /-- Claims of ring buffers (R203), oldest first. -/
  claims : List Claim
  /-- Stream requests outstanding (R194), in order of issue. -/
  reqs : List Req
  /-- Bank engines, by 64 × stack + pseudo-channel. -/
  engines : Tab Engine
  /-- Requests in the channel queues (R155), and behind the 64 of a full queue those of requesters that stall, in order of arrival: tier, unit, channel,
  request. -/
  memQ : List (Nat × Nat × Nat × MemReq)
  /-- 1 + the row open in a bank (R155), by ((channel × 16 + bank) × 16 + unit) × 4 + tier. -/
  openRow : Tab Nat
  /-- Uncorrectable reads of the last 1,024 turns (R163): 64 × stack + PC, or 1,024 + bay; and the turn. -/
  ueTurns : List (Nat × Nat)
  /-- Bad-frame tables in the cartridges' identity memories (R166), by bay. -/
  idFrames : List (Nat × List Nat)
  /-- Row repairs (R168), oldest first. -/
  repairs : List Repair
  /-- Journal slots in hand, in the order opened: unit, slot, operation, and 1 + the number of its shard (R255 to R257). -/
  uuSlots : List (Nat × Nat × Nat × Nat)
  /-- The snapshot image in the snapshot store (R352). -/
  snap : Option Snap
  /-- Entries of the route table in force (Table 13-3), 256 bits each, by 64 × quarter + index. -/
  routes : Tab Nat
  feTx : List FeTx
  feRx : List FeRx
  feHeld : List FeHeld
  /-- Signed objects of the MC's non-volatile store (R330, R331, R365), as bytes: 0 and 1 CFW images A and B, 2 and 3 MFW images A and
  B, 4 the manifest, 5 the override policy; 6 the accepted unlock token (R379); 7 and 8 the manifest and the policy in use. -/
  objs : List (Nat × List Byte)
  /-- Imbalances of this window's verdict that are still to be corrected (R54): code, quarter, instance, amount. -/
  balDue : List (Nat × Nat × Nat × Nat)
  /-- Units that leave service at the next turn end (R334): class, u, index. -/
  leaving : List (Nat × Nat × Nat)
  /-- BAR2 requests and core accesses held in a boundary window (R52), in order of arrival. -/
  heldReqs : List InReq
  heldCores : List CoreAcc
  /-- Direct host stores not yet acknowledged (R211, R212), in the order issued. -/
  direct : List DirectStore
  /-- Lines of the resident cores' L2 caches (R293). -/
  l2 : List L2Line
  /-- Line accesses of the debug port held in a boundary window (R378), oldest first: their 576-bit data registers. -/
  heldTap : List Nat
  deriving DecidableEq, Repr

/-- Faults of the model: none. The spec gives every command of the table an effect; no meaning stops. Log entry 9, DESIGN CHOICE. -/
inductive Fault where
  /-- No meaning raises it; it stands so that the type is not empty. Safe. -/
  | unused
  deriving DecidableEq, Repr

/-- Refusals of the model. -/
inductive Refusal where
  /-- An arm of `exec` that has no meaning yet answers with it. Safe. -/
  | notModelled (mnemonic : String)
  deriving DecidableEq, Repr

/-- The block right after a power-on reset (R343, Table 15-10): every register field at its reset value, everything else
empty, no time passed. The module is an LT1200 (log entry 1, DESIGN CHOICE). Log entry 7, DESIGN CHOICE. -/
def State.reset : State where
  pending := []
  lt09 := false
  now := 0
  turn0 := 0
  regs := []
  regs0 := []
  hid := []
  mem := []
  hostMem := []
  poison := []
  encTag := []
  plaza := []
  tlb := []
  stalls := []
  ops := []
  submitQ := []
  resumeQ := []
  allocQ := []
  strips := List.replicate 16 ⟨[], [], []⟩
  fenced := []
  fences := []
  suspects := []
  repeats := []
  histNow := []
  cqWait := []
  urgCmd := []
  urgRes := []
  late := []
  mcRing := []
  outbox := []
  reply := ⟨0, []⟩
  due := []
  codebooks := []
  packStalls := []
  claims := []
  reqs := []
  engines := []
  memQ := []
  openRow := []
  ueTurns := []
  idFrames := []
  repairs := []
  uuSlots := []
  snap := none
  routes := []
  feTx := []
  feRx := []
  feHeld := []
  objs := []
  balDue := []
  leaving := []
  heldReqs := []
  heldCores := []
  direct := []
  l2 := []
  heldTap := []

end Sys2Proof.Machine
end

