-- ==== Sys2Proof/Machine/Ops.lean ====
section
/-! DEFINITION. The shared operations over registers, time, events, error records and interrupts. -/

namespace Sys2Proof.Machine

/-- The key of a field's value in `State.regs`. -/
def regKey (f : Fld) (i : Nat) : Nat := i * 512 + f.code

/-- The key of a hidden scalar in `State.hid`. -/
def hidKey (x : Hid) (i : Nat) : Nat := i * 512 + x.ctorIdx

/-- KIND of a descriptor. -/
def Op.kind (o : Op) : Nat := bitsOf o.raw 0 8

namespace State

/-- Field `f` of the `i`-th register of its kind. Log entry 6, DEDUCED. -/
def rd (s : State) (f : Fld) (i : Nat) : Nat := Tab.get (f.resetVal s.lt09) (regKey f i) s.regs

/-- Sets field `f` of the `i`-th register, cut to the field's width. -/
def wr (s : State) (f : Fld) (i v : Nat) : State :=
  { s with regs := Tab.set (f.resetVal s.lt09) (regKey f i) (v % 2 ^ f.width) s.regs }

/-- Hidden scalar `x` at index `i`. -/
def h (s : State) (x : Hid) (i : Nat) : Nat := Tab.get 0 (hidKey x i) s.hid

def setH (s : State) (x : Hid) (i v : Nat) : State := { s with hid := Tab.set 0 (hidKey x i) v s.hid }

def addH (s : State) (x : Hid) (i n : Nat) : State := s.setH x i (s.h x i + n)

/-- Adds to a count that saturates at the field's largest value; of a field that a read clears, what the present cycle adds is noted, for a read in
the same cycle leaves it (Table 0-4). -/
def bump (s : State) (f : Fld) (i n : Nat) : State :=
  let k := regKey f i
  let s1 := s.wr f i (min (s.rd f i + n) (2 ^ f.width - 1))
  if f.info.acc = .rc then (s1.setH .rcNew k ((if s.h .setAt k = s.now + 1 then s.h .rcNew k else 0) + n)).setH .setAt k (s.now + 1) else s1

/-- Hardware sets a one-bit field; of a W1C field the cycle is noted, for the set wins over a clear in the same cycle (Table 0-4). -/
def mark (s : State) (f : Fld) (i : Nat) : State :=
  if f.info.acc = .w1c then (s.wr f i 1).setH .setAt (regKey f i) (s.now + 1) else s.wr f i 1

def flag (s : State) (f : Fld) (i : Nat) : Bool := s.rd f i == 1

/-- A first-error log (R354) with VALID bit `f`: `fill` writes the fields where VALID goes from 0 to 1. An error in the cycle in which VALID is cleared
leaves it at 1 and the fields as they were. -/
def firstError (s : State) (f : Fld) (i : Nat) (fill : State → State) : State :=
  if s.flag f i ∨ s.h .clrAt (regKey f i) = s.now + 1 then s.mark f i else fill (s.mark f i)

/-- Quantities of Table 0-2. -/
def nQ (s : State) : Nat := if s.lt09 then 9 else 12
def nStacks (s : State) : Nat := if s.lt09 then 9 else 12
def nStrips (s : State) : Nat := if s.lt09 then 12 else 16
def nBays (s : State) : Nat := if s.lt09 then 3 else 4
/-- The cap C in watts. -/
def capW (s : State) : Nat := if s.lt09 then 780 else 1000
/-- Physical columns. -/
def nCols (s : State) : Nat := if s.lt09 then 780 else 1040

/-- A free number for a value that the spec leaves open, and the state with the counter advanced (log entry 17, DESIGN CHOICE). -/
def fresh (s : State) : Nat × State := (s.h .freeCtr 0, s.addH .freeCtr 0 1)

/-- The cycle within the turn (R30). -/
def pos (s : State) : Nat := s.now - s.turn0

/-- The length of the current turn (R32). -/
def len (s : State) : Nat := 2 ^ (18 + s.rd .TURN_LEN_LEN_ACTIVE 0)

/-- Sweep start S = L − 16,384 (R31), park deadline P = L − 5,120 (R45), drain deadline D = L − 4,352 (R46) and boundary-window cycle
w = L − 4,096 + w (R50), with L = 2^18 × 2^k. -/
def cycS (s : State) : Nat := 16384 * (2 ^ (4 + s.rd .TURN_LEN_LEN_ACTIVE 0) - 1)
def cycP (s : State) : Nat := 1024 * (2 ^ (8 + s.rd .TURN_LEN_LEN_ACTIVE 0) - 5)
def cycD (s : State) : Nat := 256 * (2 ^ (10 + s.rd .TURN_LEN_LEN_ACTIVE 0) - 17)
def cycW (s : State) (w : Nat) : Nat := 4096 * (2 ^ (6 + s.rd .TURN_LEN_LEN_ACTIVE 0) - 1) + w

/-- Adds `n` to counter `i` (R357): it stays at 2^48 − 1 and then sets SAT. -/
def pmcBump (s : State) (i n : Nat) : State :=
  let c := s.rd .PMC_VAL_COUNT i + n
  if 2 ^ 48 - 1 ≤ c then (s.wr .PMC_VAL_COUNT i (2 ^ 48 - 1)).mark .PMC_VAL_SAT i else s.wr .PMC_VAL_COUNT i c

/-- Whether counter `i` counts event `code` of quarter `q` (15 for none) and instance `inst` (R357). -/
def pmcMatch (s : State) (i code q inst : Nat) : Bool :=
  s.flag .PMC_SEL_EN i && s.rd .PMC_SEL_EVENT i == code &&
    (s.rd .PMC_SEL_QUARTER i == 15 || s.rd .PMC_SEL_QUARTER i == q) &&
    (s.rd .PMC_SEL_INSTANCE i == 0xFFF || s.rd .PMC_SEL_INSTANCE i == inst)

/-- Event `code` asserted in the `n` cycles from `t` on (R357, R358): each counter adds, of the cycles after the write of its PMC_SEL, by level all and
by edge the first unless the event was asserted in the cycle before. -/
def evFrom (s : State) (code q inst t n : Nat) : State :=
  if n = 0 then s
  else
    let key := (code * 16 + q) * 4096 + inst
    let edge := if s.h .evLast key = t ∧ t ≠ 0 then 0 else 1
    let s1 := (List.range 64).foldl (fun (u : State) (i : Nat) =>
      if u.pmcMatch i code q inst then
        u.pmcBump i (if u.flag .PMC_SEL_EDGE i then (if u.h .selAt i ≤ t then edge else 0) else t + n - max t (u.h .selAt i))
      else u) s
    s1.setH .evLast key (t + n)

/-- Event `code` asserted in `n` cycles from the present one (R357). -/
def ev (s : State) (code q inst n : Nat) : State := s.evFrom code q inst s.now n

/-- An event that is asserted in every cycle of a span (R26, R28): the span begins, or ends and is counted; `x` at `i` holds 1 + its first
cycle. -/
def span (s : State) (x : Hid) (i : Nat) (on : Bool) (code q inst : Nat) : State :=
  let since := s.h x i
  if on then (if since = 0 then s.setH x i (s.now + 1) else s)
  else if since = 0 then s else (s.setH x i 0).evFrom code q inst (since - 1) (s.now + 1 - since)

/-- Time passes: `n` sea cycles, in each of which EV_CYCLE is asserted (Table 16-4). -/
def advance (s : State) (n : Nat) : State :=
  let s1 := s.ev 0x100 15 0 n
  { s1 with now := s1.now + n, regs0 := s1.regs }

/-- Moves to cycle `t` of the turn when it lies ahead, at most to the last cycle L − 1 (log entry 19, DESIGN CHOICE). -/
def goTo (s : State) (t : Nat) : State :=
  if s.pos < min t (s.len - 1) then s.advance (min t (s.len - 1) - s.pos) else s

/-- The number of a function or agent in the error records (R355). -/
def agentNo : Agent → Nat
  | .vf q => q
  | .pf => 12
  | .cp => 13
  | .mc => 14

/-- Sends the message of a vector, or sets its pending bit while the vector is masked (R282, R283). -/
def sendMsix (s : State) (port func vec : Nat) : State :=
  let k := 16 * (13 * port + func) + vec
  if s.h .msixEn (13 * port + func) = 0 then s
  else if s.h .msixUnmask k = 0 ∨ s.h .msixEn (13 * port + func) = 2 then s.setH .msixPend k 1
  else { s.setH .msixPend k 0 with outbox := s.outbox ++ [⟨port, func, vec⟩] }

/-- A vector of the VF of `q` (R268, R283, R284): to the cores with INT_ROUTE 1 or 2, to the host on HOST_PORT with INT_ROUTE 0 or
2, no more often than HOLDOFF allows. -/
def raiseVf (s : State) (q vec : Nat) : State :=
  let route := s.rd .PT_Q_CFG_INT_ROUTE q
  let s1 := if route = 1 ∨ route = 2 then s.setH .corePend q (s.h .corePend q ||| 2 ^ vec) else s
  if route = 1 then s1
  else
    let port := s1.rd .PT_Q_CFG_HOST_PORT q
    let hold := s1.rd .PT_Q_CFG_HOLDOFF q
    if s1.now < s1.h .holdUntil (8 * q + vec) then
      s1.setH .msixPend (16 * (13 * port + (q + 1)) + vec) 1
    else
      let s2 := s1.sendMsix port (q + 1) vec
      if hold = 0 ∨ s2.outbox.length = s1.outbox.length then s2 else s2.setH .holdUntil (8 * q + vec) (s1.now + 1000 * hold)

/-- PF vectors 2 to 4: sent by the PF of every port (R282). -/
def raisePf (s : State) (vec : Nat) : State := (s.sendMsix 0 0 vec).sendMsix 1 0 vec

/-- PF vector 3 of the port other than `p` alone (R288). -/
def raisePfOther (s : State) (p vec : Nat) : State := s.sendMsix (1 - p) 0 vec

/-- Records an error of function or agent number `f` (R354, R355). -/
def fnErr (s : State) (f code detail : Nat) : State :=
  let s1 := s.bump .FN_ERR_CNT_COUNT f 1
  s1.firstError .FN_ERR_VALID f (fun (s : State) =>
    let s2 := (s.wr .FN_ERR_CODE f code).wr .FN_ERR_DETAIL f detail
    if f < 12 then s2.raiseVf f 3 else s2.raisePf 2)

/-- Appends an entry to the management log (R356): code, quarter (15 for none), detail. -/
def mcLog (s : State) (code q detail : Nat) : State :=
  let tail := s.rd .MC_ERR_PTR_TAIL 0
  if (tail + 1) % 256 = s.rd .MC_ERR_PTR_HEAD 0 then
    (s.bump .MC_ERR_PTR_DROPPED 0 1).mark .MC_ERR_PTR_OVERFLOW 0
  else
    let s1 := (s.setH .mcLog (2 * tail) (s.rd .TURN_COUNT_COUNT 0)).setH .mcLog (2 * tail + 1)
      (code + 2 ^ 8 * q + 2 ^ 16 * (detail % 2 ^ 32))
    (s1.wr .MC_ERR_PTR_TAIL 0 ((tail + 1) % 256)).raisePf 2

/-- Bits of TURN_BAL_ERR by CODE (R54), 1 LINK_CREDIT to 11 PARK_FAULT. -/
def balFld (code : Nat) : Fld :=
  match code with
  | 1 => .TURN_BAL_ERR_LINK_CREDIT
  | 2 => .TURN_BAL_ERR_RING_TOKEN
  | 3 => .TURN_BAL_ERR_REQ_TAG
  | 4 => .TURN_BAL_ERR_POWER_TOKEN
  | 5 => .TURN_BAL_ERR_JOURNAL_SLOT
  | 6 => .TURN_BAL_ERR_FABRIC_CREDIT
  | 7 => .TURN_BAL_ERR_OP_SLOT
  | 8 => .TURN_BAL_ERR_PARK_RECORD
  | 9 => .TURN_BAL_ERR_SHARE_SUM
  | 10 => .TURN_BAL_ERR_LEN_INVALID
  | _ => .TURN_BAL_ERR_PARK_FAULT

/-- ANY of TURN_BAL_ERR: the OR of bits 11:1 (R54). -/
def balAny (s : State) : Bool := (List.range 11).any (fun c => s.flag (balFld (c + 1)) 0)

/-- The operation with a number. -/
def op? (s : State) (id : Nat) : Option Op := s.ops.find? (fun o => o.id == id)

def setOp (s : State) (o : Op) : State := { s with ops := s.ops.map (fun p => if p.id = o.id then o else p) }

/-- The blank operation at the head of the allocator queue of `q` (R71). -/
def allocHead (s : State) (q : Nat) : Option Op :=
  s.allocQ.findSome? (fun id => match s.op? id with
    | some o => if o.q = q ∧ o.kind = 0x01 then some o else none
    | none => none)

/-- The allocator of `q` turns to the head of its queue, if any, which has reached it in cycle `a` (R72). -/
def startAlloc (s : State) (q a : Nat) : State :=
  (((s.setH .allocAt q (if (s.allocHead q).isSome then a + 1 else 0)).setH .allocRow q 0).setH .allocWait q 0).setH .allocFree q 0

/-- An operation leaves the allocator queue in cycle `a`; where it stood at the head the next one reaches it then. -/
def leaveAlloc (s : State) (id a : Nat) : State :=
  let s1 := { s with allocQ := s.allocQ.filter (· != id) }
  match s.op? id with
  | none => s1
  | some o => if (s.allocHead o.q).map (·.id) = some id then s1.startAlloc o.q a else s1

def dropOp (s : State) (id : Nat) : State :=
  let s := s.leaveAlloc id s.now
  { s with ops := s.ops.filter (fun o => o.id != id), submitQ := s.submitQ.filter (· != id),
           resumeQ := s.resumeQ.filter (· != id),
           stalls := s.stalls.filter (fun x => x.op != some id),
           direct := s.direct.filter (fun d => d.op != id || d.st == 1) }

def updOp (s : State) (id : Nat) (f : Op → Op) : State :=
  { s with ops := s.ops.map (fun p => if p.id = id then f p else p) }

end State

/-- A little-endian number of bytes (R7). -/
def ofBytes : List Byte → Nat
  | [] => 0
  | b :: bs => b.toNat + 256 * ofBytes bs

/-- The `n` low bytes of a number, least significant first (R7). -/
def toBytes (x : Nat) : Nat → List Byte
  | 0 => []
  | n + 1 => BitVec.ofNat 8 x :: toBytes (x / 256) n

/-- CRC register shifted over the bits of a byte, most significant first, width `w`, polynomial `poly`. -/
def crcBits (w poly : Nat) (b : Nat) : Nat → Nat → Nat
  | 0, c => c
  | n + 1, c =>
    let top := c / 2 ^ (w - 1) % 2
    let inb := b / 2 ^ n % 2
    let sh := c * 2 % 2 ^ w
    crcBits w poly b n (if top = inb then sh else Nat.xor sh poly)

/-- A CRC that takes each byte most significant bit first (Table 16-5, not reflected). -/
def crcPlain (w poly init : Nat) (bs : List Byte) : Nat := bs.foldl (fun c b => crcBits w poly b.toNat 8 c) init

/-- A value's `n` low bits in reverse order. -/
def revBits (x : Nat) : Nat → Nat
  | 0 => 0
  | n + 1 => (x % 2) * 2 ^ n + revBits (x / 2) n

/-- A reflected CRC (Table 16-5): the register in reflected order. -/
def crcRefl (w poly init : Nat) (bs : List Byte) : Nat :=
  revBits (bs.foldl (fun c b => crcBits w poly (revBits b.toNat 8) 8 c) (revBits init w)) w

/-- CRC-16, polynomial 0x1021 (R47, R239, R255). -/
def crc16 (init : Nat) (bs : List Byte) : Nat := crcPlain 16 0x1021 init bs

/-- CRC-32C (engine 0 of Table 16-5). -/
def crc32c (bs : List Byte) : Nat := Nat.xor (crcRefl 32 0x1EDC6F41 0xFFFFFFFF bs) 0xFFFFFFFF

/-- CRC-32 (engine 1 of Table 16-5). -/
def crc32 (bs : List Byte) : Nat := Nat.xor (crcRefl 32 0x04C11DB7 0xFFFFFFFF bs) 0xFFFFFFFF

/-- Event codes (Table 16-4). -/
def evOpsFull : Nat := 0x001
def evParkHigh : Nat := 0x002
def evAdmitWait : Nat := 0x003
def evOverrun : Nat := 0x004
def evSubmitFull : Nat := 0x005
def evCqFull : Nat := 0x006
def evBlankWait : Nat := 0x010
def evPreloadGap : Nat := 0x011
def evBlankFreeze : Nat := 0x012
def evSpillTag : Nat := 0x013
def evWitSkip : Nat := 0x014
def evWitMismatch : Nat := 0x015
def evSeTagsFull : Nat := 0x020
def evSeBufFull : Nat := 0x021
def evTagAbandon : Nat := 0x022
def evLateRead : Nat := 0x023
def evFqFull : Nat := 0x024
def evKeepDeny : Nat := 0x025
def evMemQfull : Nat := 0x026
def evExpInWait : Nat := 0x030
def evExpOutWait : Nat := 0x031
def evExpDamaged : Nat := 0x032
def evPkBusyWait : Nat := 0x033
def evPkReloc : Nat := 0x034
def evPkPoolFull : Nat := 0x035
def evBankHold : Nat := 0x040
def evBankYield : Nat := 0x041
def evBankTokens : Nat := 0x042
def evUuQueue : Nat := 0x050
def evUuInWait : Nat := 0x051
def evUuJournalFull : Nat := 0x052
def evFeMsgFull : Nat := 0x060
def evFeLaneFull : Nat := 0x061
def evFeCrc : Nat := 0x062
def evFeForeign : Nat := 0x063
def evFeStale : Nat := 0x064
def evFeDup : Nat := 0x065
def evFeRxWait : Nat := 0x066
def evPortReject : Nat := 0x070
def evPortCredit : Nat := 0x071
def evCycle : Nat := 0x100
def evBlankBusy : Nat := 0x101
def evSeIssue : Nat := 0x102

/-- Completion statuses (Table 14-6). -/
def stSuccess : Nat := 0
def stInvalidDescriptor : Nat := 1
def stInvalidTarget : Nat := 2
def stNotPermitted : Nat := 3
def stNoHandshake : Nat := 4
def stRestricted : Nat := 5
def stEstimateTooLong : Nat := 6
def stBlankTooLarge : Nat := 7
def stNoProgress : Nat := 8
def stDamagedPark : Nat := 9
def stWitnessFail : Nat := 10
def stPageFault : Nat := 11
def stPoisonedData : Nat := 12
def stConflict : Nat := 13
def stCodebookRefused : Nat := 14
def stBarrierBroken : Nat := 15
def stMisplaced : Nat := 16
def stTensorBusy : Nat := 17
def stStepMismatch : Nat := 18
def stFabricTimeout : Nat := 19
def stTransferBusy : Nat := 20
def stFabricRange : Nat := 21
def stHalted : Nat := 22
def stBusy : Nat := 23
def stIncompatible : Nat := 24
def stVersionRefused : Nat := 25
def stNotAuthentic : Nat := 26
def stLinkFailed : Nat := 27

end Sys2Proof.Machine
end

