-- ==== Sys2Proof/Machine/BankState.lean ====
section
/-! DEFINITION. The bank windows (R219 to R221), the queues behind them, and the end of bank mode (R216). -/

namespace Sys2Proof.Machine

/-- Statuses of Table 10-5. -/
def bkDone : Nat := 0
def bkInvalid : Nat := 1
def bkTooLong : Nat := 2
def bkRange : Nat := 3
def bkPoisoned : Nat := 4
def bkDropped : Nat := 5
def bkCut : Nat := 6

/-- Ceiling of a quotient. -/
def cdiv (a b : Nat) : Nat := (a + b - 1) / b

/-- First tier address of the windows (Table 10-1). -/
def bankWinBase : Nat := 0x1800000000

/-- Fields of a command line (Table 10-4). -/
def bkOp (d : Nat) : Nat := bitsOf d 0 8
def bkAccum (d : Nat) : Bool := bitsOf d 8 1 == 1
def bkY16 (d : Nat) : Bool := bitsOf d 9 1 == 1
def bkFmt (d : Nat) : Nat := bitsOf d 10 3
def bkTok (d : Nat) : Nat := bitsOf d 13 3 + 1
def bkDimA (d : Nat) : Nat := bitsOf d 64 32
def bkDimB (d : Nat) : Nat := bitsOf d 96 32
def bkEA0 (d : Nat) : Nat := bitsOf d 128 32
def bkEA1 (d : Nat) : Nat := bitsOf d 160 32
def bkLD1 (d : Nat) : Nat := bitsOf d 192 32
def bkEA2 (d : Nat) : Nat := bitsOf d 224 32
def bkLD2 (d : Nat) : Nat := bitsOf d 256 32
def bkEA3 (d : Nat) : Nat := bitsOf d 288 32

/-- The conditions of INVALID (Table 10-5). -/
def bkBad (d : Nat) : Bool :=
  let aligned := [bkEA0 d, bkEA1 d, bkLD1 d, bkEA2 d, bkLD2 d, bkEA3 d].all (fun x => x % 64 == 0)
  let top := bitsOf d 320 192 == 0 && bitsOf d 16 16 == 0
  match bkOp d with
  | 0 => !(d == bkOp d + 2 ^ 32 * bitsOf d 32 32)
  | 1 => !top || !aligned || !([0, 2, 3, 6].contains (bkFmt d)) || bkDimA d == 0 || bkDimB d == 0 || (bkFmt d == 0 && bkEA3 d != 0)
  | 2 => !top || !aligned || bitsOf d 8 5 != 0 || bkDimA d == 0 || bkDimB d == 0 || bkEA3 d != 0
  | 3 => !top || !aligned || bitsOf d 8 8 != 0 || bkDimA d == 0 || bkDimB d == 0 || decide (4096 < bkDimB d) || bkEA3 d != 0
  | 4 => !(d == 4 + 2 ^ 32 * bitsOf d 32 32 + 2 ^ 96 * bitsOf d 96 6)
  | _ => true

/-- The cycles of one group of a GEMV or an OUTER, or of one row of a ROWADD (Table 10-6). -/
def bkGroup (d : Nat) : Nat :=
  let b := bkTok d
  match bkOp d with
  | 1 => cdiv (bkDimA d) 32 * max (32 * b) (32 + b) + 4 * b
  | 2 => b + bkDimA d * max b 4 + cdiv (bkDimA d) 32 * b
  | 3 => 1 + 5 * cdiv (bkDimA d) 32
  | _ => 0

/-- Table 10-6. -/
def bkCycles (d : Nat) : Nat :=
  match bkOp d with
  | 1 | 2 | 3 => 16 + bkDimB d * bkGroup d
  | 4 => 4
  | _ => 1

/-- The units in which a command is performed, each within one burst (R230): the k of a GEMV's group and then the outputs of its tokens, the columns
of an OUTER, 32 columns of a row of a ROWADD. Log entry 29, DEDUCED. -/
def bkUnits (d : Nat) : Nat :=
  match bkOp d with
  | 1 => bkDimB d * (bkDimA d + bkTok d)
  | 2 => bkDimB d * bkDimA d
  | 3 => bkDimB d * cdiv (bkDimA d) 32
  | _ => 0

/-- How many of a command's units are complete after `own` cycles of its own, by the terms of Table 10-6: a GEMV reads x before each block of 32 k, an
OUTER u before each group and v before every 32 columns, a ROWADD the index before each row. -/
def bkDue (d own : Nat) : Nat :=
  let b := bkTok d
  let m := max b 4
  let c := cdiv (bkDimA d) 32
  let g := (own - 16) / max 1 (bkGroup d)
  let r := (own - 16) % max 1 (bkGroup d)
  let blk := max (32 * b) (32 + b)
  min (bkUnits d) (match bkOp d with
    | 1 => g * (bkDimA d + b) +
      (if r < c * blk then min (bkDimA d) (32 * (r / blk) + min 32 ((r % blk - (blk - 32 * b)) / b)) else bkDimA d + (r - c * blk) / 4)
    | 2 => g * bkDimA d + (32 * ((r - b) / (b + 32 * m)) + ((r - b) % (b + 32 * m) - b) / m)
    | 3 => g * c + (r - 1) / 5
    | _ => 0)

/-- The units complete at the next boundary at or after `own` cycles (R233): the one in hand is completed. -/
def bkNext (d own : Nat) : Nat :=
  if own ≤ 16 then 0 else if bkDue d (own - 1) < bkDue d own then bkDue d own else min (bkUnits d) (bkDue d own + 1)

/-- Twice the bytes of an element of W_FMT (R224). -/
def wHalf (fmt : Nat) : Nat := if fmt = 0 then 4 else if fmt = 6 then 1 else 2

/-- The ranges of engine addresses that a GEMV or an OUTER touches, as (first, length) (R224, R225). -/
def bkRanges (d : Nat) : List (Nat × Nat) :=
  let b := bkTok d
  match bkOp d with
  | 1 =>
    let k := bkDimA d
    let g := bkDimB d
    [(bkEA0 d, g * k * 16 * wHalf (bkFmt d))] ++
      (List.range b).map (fun t => (bkEA1 d + t * bkLD1 d, 2 * k)) ++
      (List.range b).map (fun t => (bkEA2 d + t * bkLD2 d, 32 * g * (if bkY16 d then 2 else 4))) ++
      (if bkFmt d = 0 then [] else [(bkEA3 d, g * cdiv k 32 * 32)])
  | 2 =>
    [(bkEA0 d, bkDimB d * bkDimA d * 128)] ++ (List.range b).map (fun t => (bkEA1 d + t * bkLD1 d, 64 * bkDimB d)) ++
      (List.range b).map (fun t => (bkEA2 d + t * bkLD2 d, 2 * bkDimA d))
  | 3 => [(bkEA2 d, 4 * bkDimB d), (bkEA1 d, (bkDimB d - 1) * bkLD1 d + 2 * bkDimA d)]
  | _ => []

/-- The engine addresses whose banks unit `n` of a command uses (R224 to R226). -/
def bkTouches (d n : Nat) (held : List Nat) : List Nat :=
  let b := bkTok d
  let a := bkDimA d
  match bkOp d with
  | 1 =>
    let g := n / (a + b)
    let r := n % (a + b)
    if r < a then
      (bkEA0 d + (g * a + r) * 16 * wHalf (bkFmt d)) ::
        (if r % 32 = 0 then (if bkFmt d = 0 then [] else [bkEA3 d + (g * cdiv a 32 + r / 32) * 32]) ++
          (List.range b).map (fun t => bkEA1 d + t * bkLD1 d + 2 * r) else [])
    else [bkEA2 d + (r - a) * bkLD2 d + 32 * g * (if bkY16 d then 2 else 4)]
  | 2 =>
    let j := n % a
    (bkEA0 d + n * 128) :: ((if j = 0 then (List.range b).map (fun t => bkEA1 d + t * bkLD1 d + 64 * (n / a)) else []) ++
      (if j % 32 = 0 then (List.range b).map (fun t => bkEA2 d + t * bkLD2 d + 2 * j) else []))
  | 3 =>
    let i := n / cdiv a 32
    let x := n % cdiv a 32
    (bkEA1 d + i * bkLD1 d + 64 * x) :: (if x = 0 then [bkEA2 d + 4 * i] else [held.getD 0 0 + 128 * x])
  | _ => []

namespace State

/-- The tier address of engine address `ea` of engine `p` of stack `k` (R218). -/
def eaAddr (s : State) (k p ea : Nat) : Nat :=
  (s.rd .BANK_CFG_FIRST_ACT k + ea / 2 ^ 24) * 2 ^ 30 + ea % 2 ^ 24 / 1024 * 65536 + 1024 * p + ea % 1024

def eaLimit (s : State) (k : Nat) : Nat := s.rd .BANK_CFG_COUNT_ACT k * 2 ^ 24

def engine (s : State) (k p : Nat) : Engine := Tab.get Engine.empty (64 * k + p) s.engines
def setEngine (s : State) (k p : Nat) (e : Engine) : State := { s with engines := Tab.set Engine.empty (64 * k + p) e s.engines }

/-- Whether quarter `q` is the bank owner of stack `k` with its region active (R219). -/
def bankOwner (s : State) (q k : Nat) : Bool := s.flag .BANK_CFG_ACTIVE k && s.rd .BANK_CFG_OWNER_ACT k == q

/-- BUSY of BANK_STAT. -/
def syncBusy (s : State) (k : Nat) : State :=
  s.wr .BANK_STAT_BUSY k ((List.range 64).filter (fun p => (s.engine k p).run.isSome)).length

/-- An engine out of service (R335). -/
def bankOut (s : State) (k p : Nat) : Bool := bitsOf (s.h .outBank k) p 1 == 1

/-- A full-line push (R220, R335). -/
def pushEngine (s : State) (k p line : Nat) : State :=
  let e := s.engine k p
  if e.queue.length ≥ 64 ∨ s.bankOut k p = true then s.setEngine k p { e with discarded := min (e.discarded + 1) (2 ^ 32 - 1), overflow := true }
  else s.setEngine k p { e with queue := e.queue ++ [line], seqPushed := e.seqPushed + 1 }

/-- A broadcast push (R220): in every engine, or in none. -/
def pushAll (s : State) (k line : Nat) : State :=
  if (List.range 64).any (fun p => decide ((s.engine k p).queue.length ≥ 64)) then
    (List.range 64).foldl (fun (s : State) (p : Nat) =>
      let e := s.engine k p
      s.setEngine k p { e with discarded := min (e.discarded + 1) (2 ^ 32 - 1), overflow := true }) s
  else (List.range 64).foldl (fun (s : State) (p : Nat) => s.pushEngine k p line) s

/-- A broadcast data write (R221): every engine owes a copy. -/
def bcastData (s : State) (k off : Nat) (data : List Byte) : State :=
  (List.range 64).foldl (fun (s : State) (p : Nat) =>
    let e := s.engine k p
    s.setEngine k p { e with copies := e.copies ++ [(off, data)] }) s

/-- CLEAR (Table 10-2). -/
def clearEngine (s : State) (k p : Nat) : State :=
  s.setEngine k p { s.engine k p with flags := 0, overflow := false, badSeq := none, discarded := 0 }

/-- An access that Table 10-2 does not give, or a partial push (R220). -/
def windowErr (s : State) (q a : Nat) : State := s.fnErr q 5 (a % 2 ^ 48)

/-- A write at window address `a` of stack `k` by its bank owner (Tables 10-1, 10-2). -/
def windowWrite (s : State) (q k a : Nat) (d : List Byte) : State :=
  let o := a - bankWinBase
  let full := decide (d.length = 64 ∧ a % 64 = 0)
  let line := ofBytes d
  if o < 0x400000 then
    let p := o / 65536
    let off := o % 65536
    if off < 0x40 then (if full then s.pushEngine k p line else s.windowErr q a)
    else if off < 0x80 then s
    else if off < 0xC0 then (if full then s.clearEngine k p else s)
    else if 0x1000 ≤ off ∧ off < 0x1800 then s
    else s.windowErr q a
  else if o < 0x410000 then
    (if o % 65536 < 0x40 then (if full then s.pushAll k line else s.windowErr q a) else s)
  else if 0x800000 ≤ o ∧ o < 0xC00000 then s.bcastData k (o - 0x800000) d
  else s.windowErr q a

/-- STATE of the STATUS line (Table 10-3). -/
def engineState (s : State) (k p : Nat) (e : Engine) : Nat :=
  if !s.flag .BANK_CFG_ACTIVE k || s.bankOut k p then 3 else if e.run.isSome then 1 else if e.queue.isEmpty then 0 else 2

/-- The STATUS line (Table 10-3). -/
def statusLine (s : State) (k p : Nat) : Nat :=
  let e := s.engine k p
  e.seqDone % 2 ^ 64 + 2 ^ 64 * (e.seqPushed % 2 ^ 64) + 2 ^ 128 * (e.queue.length % 128) + 2 ^ 135 * s.engineState k p e +
    2 ^ 138 * (e.flags % 32) + (if e.overflow then 2 ^ 143 else 0) + 2 ^ 144 * (e.lastStatus % 256) +
    2 ^ 152 * (e.lastTag % 2 ^ 32) + 2 ^ 192 * (e.badSeq.getD (2 ^ 64 - 1) % 2 ^ 64) + 2 ^ 256 * (e.discarded % 2 ^ 32)

/-- The byte a read of window address `a` returns (Table 10-2). -/
def windowByte (s : State) (k a : Nat) : Byte :=
  let o := a - bankWinBase
  let off := o % 65536
  if o < 0x400000 then
    if 0x40 ≤ off ∧ off < 0x80 then (toBytes (s.statusLine k (o / 65536)) 64).getD (off - 0x40) 0
    else if 0x1000 ≤ off ∧ off < 0x1800 then
      (toBytes ((s.engine k (o / 65536)).regs.getD ((off - 0x1000) / 4) 0) 4).getD (off % 4) 0
    else 0
  else 0

/-- Retires the head command of an engine with a status (R223), merging its flags unless nothing was performed. -/
def retireCmd (s : State) (k p status fl : Nat) : State :=
  let e := s.engine k p
  match e.queue with
  | [] => s
  | line :: rest =>
    let fl := if status = bkInvalid ∨ status = bkTooLong then 0 else fl
    let q := s.rd .BANK_CFG_OWNER_ACT k
    let busy := match e.run with
      | some (a, b) => min s.now b - a
      | none => 0
    let e := { e with
      queue := rest, seqDone := e.seqDone + 1, lastStatus := status, lastTag := bitsOf line 32 32, flags := e.flags ||| fl,
      badSeq := if status ≠ bkDone ∧ e.badSeq.isNone then some e.seqDone else e.badSeq,
      clean := e.clean && status == bkDone, run := none, units := 0, cmdFlags := 0, held := [] }
    let s1 := ((s.setEngine k p e).addH .bankBusy q busy).syncBusy k
    let s2 := [(0, Fld.NUM_FLAGS_NX), (1, .NUM_FLAGS_UF), (2, .NUM_FLAGS_OF), (3, .NUM_FLAGS_NV), (4, .NUM_FLAGS_ESAT)].foldl
      (fun (s : State) (x : Nat × Fld) => if bitsOf fl x.1 1 = 1 then s.mark x.2 q else s) s1
    if status = bkPoisoned then s2.mark .BANK_STAT_POISONED k else s2

/-- Retires every queued command of an engine as DROPPED, with the flags of what a running one has performed. `n` bounds them. -/
def dropCmds (s : State) (k p : Nat) : Nat → State
  | 0 => s
  | n + 1 => if (s.engine k p).queue.isEmpty then s else dropCmds (s.retireCmd k p bkDropped (s.engine k p).cmdFlags) k p n

/-- The end of bank mode on a stack (R216); `forced` by retirement or loss. -/
def endBank (s : State) (k : Nat) (forced : Bool) : State :=
  if !s.flag .BANK_CFG_ACTIVE k then s
  else
    let s1 := (List.range 64).foldl (fun (s : State) (p : Nat) =>
      let s := s.dropCmds k p 64
      s.setEngine k p { s.engine k p with copies := [] }) s
    let s2 := ((s1.wr .BANK_CFG_ACTIVE k 0).wr .BANK_CFG_READY k 0).syncBusy k
    if forced then s2.mark .BANK_CFG_FORCED_EXIT k else s2

end State

end Sys2Proof.Machine
end

