-- ==== Sys2Proof/Machine/Cipher.lean ====
section
/-! DEFINITION. AES-256-XTS over the 64-byte lines of ENC pages (R171): the block cipher of FIPS 197 and the tweaked mode of IEEE 1619 that
the rule names. The keys are the MC's own random numbers and stay open (`Config.keyBits`, log entry 12, DESIGN CHOICE). -/

namespace Sys2Proof.Machine

/-- A product in GF(2^8) modulo x^8 + x^4 + x^3 + x + 1, over the low `n` bits of `b`. -/
def gfMulN (a b : Nat) : Nat → Nat
  | 0 => 0
  | n + 1 => Nat.xor (if b % 2 = 1 then a else 0) (gfMulN (if 128 ≤ a then Nat.xor (2 * a % 256) 0x1B else 2 * a) (b / 2) n)

def gfMul (a b : Nat) : Nat := gfMulN a b 8

/-- The inverse in GF(2^8), a^254; 0 for 0. -/
def gfInv (a : Nat) : Nat :=
  ((List.range 7).foldl (fun (e : Nat × Nat) _ => (gfMul e.1 e.1, gfMul e.2 (gfMul e.1 e.1))) (a, 1)).2

def rotByte (x k : Nat) : Nat := x * 2 ^ k % 256 + x / 2 ^ (8 - k)

/-- The substitution of AES and its inverse. -/
def aesSub (x : Nat) : Nat :=
  let y := gfInv x
  [1, 2, 3, 4].foldl (fun v k => Nat.xor v (rotByte y k)) (Nat.xor y 0x63)

def aesSubInv (x : Nat) : Nat :=
  let y := [1, 3, 6].foldl (fun v k => Nat.xor v (rotByte x k)) 0
  gfInv (Nat.xor y 0x05)

def xorBytes (a b : List Nat) : List Nat := List.zipWith Nat.xor a b

/-- The round constants 2^(k − 1) in GF(2^8). -/
def aesRcon : Nat → Nat
  | 0 => 1
  | k + 1 => gfMul (aesRcon k) 2

/-- The key schedule of AES-256: words of four bytes, the eight of the key first, `n` more. -/
def aesExpand : Nat → List (List Nat) → List (List Nat)
  | 0, ws => ws
  | n + 1, ws =>
    let i := ws.length
    let t := ws.getD (i - 1) []
    let t := if i % 8 = 0 then xorBytes ((t.drop 1 ++ t.take 1).map aesSub) [aesRcon (i / 8 - 1), 0, 0, 0]
      else if i % 8 = 4 then t.map aesSub else t
    aesExpand n (ws ++ [xorBytes (ws.getD (i - 8) []) t])

/-- The fifteen round keys of a 256-bit key, 16 bytes each. -/
def aesKeys (key : Nat) : List (List Nat) :=
  let bs := (toBytes key 32).map (·.toNat)
  let ws := aesExpand 52 ((List.range 8).map (fun i => (bs.drop (4 * i)).take 4))
  (List.range 15).map (fun r => ((ws.drop (4 * r)).take 4).flatten)

/-- Row r of the state moves by r columns; `back` undoes it. -/
def aesShift (back : Bool) (b : List Nat) : List Nat :=
  (List.range 16).map (fun i => b.getD (i % 4 + 4 * ((i / 4 + (if back then 4 - i % 4 else i % 4)) % 4)) 0)

/-- The column mixture with the given first row of coefficients. -/
def aesMix (m : List Nat) (b : List Nat) : List Nat :=
  (List.range 16).map (fun i => (List.range 4).foldl (fun v k =>
    Nat.xor v (gfMul (m.getD ((k + 4 - i % 4) % 4) 0) (b.getD (i / 4 * 4 + k) 0))) 0)

def aesEncrypt (key : Nat) (b : List Nat) : List Nat :=
  let ks := aesKeys key
  let b := (List.range 13).foldl (fun b r =>
    xorBytes (aesMix [2, 3, 1, 1] (aesShift false (b.map aesSub))) (ks.getD (r + 1) [])) (xorBytes b (ks.getD 0 []))
  xorBytes (aesShift false (b.map aesSub)) (ks.getD 14 [])

def aesDecrypt (key : Nat) (b : List Nat) : List Nat :=
  let ks := aesKeys key
  let b := (List.range 13).foldl (fun b r =>
    aesMix [14, 11, 13, 9] (xorBytes ((aesShift true b).map aesSubInv) (ks.getD (13 - r) []))) (xorBytes b (ks.getD 14 []))
  xorBytes ((aesShift true b).map aesSubInv) (ks.getD 0 [])

/-- The product of a 128-bit tweak by α^`n` (IEEE 1619). -/
def xtsAlpha (t : Nat) : Nat → Nat
  | 0 => t
  | n + 1 => xtsAlpha (if 2 ^ 127 ≤ t then Nat.xor (2 * t % 2 ^ 128) 0x87 else 2 * t) n

/-- XTS over the four blocks of a 64-byte line with the 512 key bits `key` (data key in the low half, tweak key in the high half) and the data
unit number `unit`. -/
def xtsLine (enc : Bool) (key unit : Nat) (d : List Byte) : List Byte :=
  let t0 := (aesEncrypt (key / 2 ^ 256) ((toBytes unit 16).map (·.toNat))).map (BitVec.ofNat 8)
  (List.range 4).flatMap (fun j =>
    let t := (toBytes (xtsAlpha (ofBytes t0) j) 16).map (·.toNat)
    let b := ((d.drop (16 * j)).take 16).map (·.toNat)
    let f := if enc then aesEncrypt else aesDecrypt
    (xorBytes (f (key % 2 ^ 256) (xorBytes b t)) t).map (BitVec.ofNat 8))

/-- A stored 64-byte line as it lies in DRAM, and back: key number 0 is no encryption (R171); the tweak is (TIER × 16 + UNIT) × 2^46 + a div 64. -/
def cipherLine (enc : Bool) (no t u a : Nat) (d : List Byte) : List Byte :=
  if no = 0 then d else xtsLine enc (Config.keyBits no) ((t * 16 + u) * 2 ^ 46 + a / 64) d

end Sys2Proof.Machine
end

