-- ==== Sys2Proof/Machine/Dram.lean ====
section
/-! DEFINITION. The bytes of tiers 0 to 3, the channels that serve them, poison, error correction, lanes and retired pseudo-channels
(R153 to R165). -/

namespace Sys2Proof.Machine

/-- Key of byte `a` of unit `u` of tier `t`. -/
def mkey (t u a : Nat) : Nat := (a * 16 + u) * 4 + t

/-- Key of the 64-byte line that holds byte `a`. -/
def lkey (t u a : Nat) : Nat := mkey t u (a / 64)

/-- Tier address of channel-local byte `l` of channel `ch` (R154, R183). -/
def chanAddr (t ch l : Nat) : Nat := l / 1024 * (if t = 1 then 65536 else 32768) + 1024 * ch + l % 1024

/-- Channels of a unit (R153). A packed tier-3 page (Table 6-1 allows it, R20) has no channels in the spec: its sub-streams lie over 32, as in
a cartridge. Log entry 79, DESIGN CHOICE. -/
def nChan (t : Nat) : Nat := if t = 1 then 64 else 32

/-- The number of a unit in CB_SLOT UNITS and EXP_STAT. A packed tier-3 page takes that of bay D0, which the spec leaves open (R20). Log entry 79,
DESIGN CHOICE. -/
def unitNo (t u : Nat) : Nat := if t = 1 then u else 12 + u

namespace State

/-- A unit number within what the module has (R4). -/
def unitFitted (s : State) (t u : Nat) : Bool := (t == 1 && decide (u < s.nStacks)) || (t == 2 && decide (u < s.nBays))

/-- Index of a pseudo-channel. -/
def pcIdx (k p : Nat) : Nat := 64 * k + p

/-- Whether the granule of byte `a` has moved into the reserve of a DEGRADED stack (R164). -/
def redirected (s : State) (t u a : Nat) : Bool :=
  t == 1 && s.rd .STK_STAT_STATE u == 2 && s.rd .STK_STAT_RPC u == a / 1024 % 64

/-- The channel that serves a byte (R153, R154), after the redirection of a retired PC (R164). -/
def channelOf (s : State) (t u a : Nat) : Nat :=
  let ch := a / 1024 % nChan t
  if s.redirected t u a then
    let j := a / 65536 % 63
    if j < ch then j else j + 1
  else ch

/-- Local offset of a byte in the channel that serves it (R154); in the reserve, beyond the 1.5 GiB of the PC, granule j of a retired PC lies
at (j div 63) KiB (R164). -/
def localOf (s : State) (t u a : Nat) : Nat :=
  if s.redirected t u a then 1536 * 2 ^ 20 + a / 65536 / 63 * 1024 + a % 1024
  else a / (1024 * nChan t) * 1024 + a % 1024

/-- The bank that holds a local offset: bank group and bank within it (R154). -/
def bankOf (l : Nat) : Nat := l / 1024 % 4 + 4 * (l / 4096 % 4)
def bankKey (t u ch b : Nat) : Nat := ((ch * 16 + b) * 16 + u) * 4 + t

/-- One byte of device memory, or of host memory for tier 3, as every device-side access sees it. Log entry 4, DESIGN CHOICE. -/
def memByte (s : State) (t u a : Nat) : Byte :=
  if t = 3 then Tab.get 0 a s.hostMem else Tab.get 0 (mkey t u a) s.mem

def setByte (s : State) (t u a : Nat) (b : Byte) : State :=
  if t = 3 then { s with hostMem := Tab.set 0 a b s.hostMem } else { s with mem := Tab.set 0 (mkey t u a) b s.mem }

def setBytes (s : State) (t u : Nat) : Nat → List Byte → State
  | _, [] => s
  | a, b :: bs => (s.setByte t u a b).setBytes t u (a + 1) bs

def memBytes (s : State) (t u a n : Nat) : List Byte := (List.range n).map (fun i => s.memByte t u (a + i))

/-- A line that the retirement copy of R164 read as uncorrectable, the whole PC having two failed lanes (R163), carries poison until it is
written: the copy notes it for each extent. -/
def copyPoisoned (s : State) (t u a : Nat) : Bool :=
  t == 1 && s.h .pcPoison (96 * u + a / 2 ^ 30) == 1 && s.rd .STK_STAT_RPC u == a / 1024 % 64

/-- Poison of the line that holds byte `a` (R160): 0 none, 1 formed by a read, 2 stored. -/
def poisonOf (s : State) (t u a : Nat) : Nat :=
  let v := Tab.get 0 (lkey t u a) s.poison
  if v = 3 then 0 else if v = 0 ∧ s.copyPoisoned t u a = true then 2 else v

def setPoison (s : State) (t u a v : Nat) : State :=
  { s with poison := Tab.set 0 (lkey t u a) (if v = 0 ∧ s.copyPoisoned t u a = true then 3 else v) s.poison }

/-- A stack enters LOST (R165, R339). -/
def loseStack (s : State) (k : Nat) : State :=
  if s.rd .STK_STAT_STATE k = 3 then s
  else
    let s1 := (s.endBank k true).wr .STK_STAT_STATE k 3
    (s1.mark .RES_STAT_STACK_LOST 0).mcLog 10 15 k

/-- A request to retire PC `p` of stack `k` (R164, R165). What becomes of one for a stack that is not in service (STATE 0) the spec does not
say: it is dropped, and nothing is recorded. Log entry 80, DESIGN CHOICE. -/
def requestRetire (s : State) (k p : Nat) : State :=
  let cur := if s.flag .STK_STAT_RPC_VALID k then s.rd .STK_STAT_RPC k + 1 else s.h .retirePend k
  if s.rd .STK_STAT_STATE k = 3 ∨ s.rd .STK_STAT_STATE k = 0 then s
  else if cur = 0 then s.setH .retirePend k (p + 1)
  else if cur = p + 1 then s
  else s.loseStack k

/-- The failed lanes of a PC that the spare has not replaced (R161). -/
def badLanes (s : State) (i : Nat) : List Nat := (List.range 35).filter (fun l => bitsOf (s.h .laneBad i) l 1 == 1)

/-- A lane of a PC fails (R161, R163). -/
def laneFails (s : State) (k p lane : Nat) : State :=
  let i := pcIdx k p
  let bad := s.h .laneBad i
  if bitsOf bad lane 1 = 1 then s
  else
    let s1 := ((s.setH .laneBad i (bad + 2 ^ lane)).setH .laneFailAt i s.now).setH .spareTries i 0
    let s2 := ((s1.mark .STK_PC_ERR_LANE_FAIL i).wr .STK_PC_ERR_FAILED_LANE i lane).mcLog 3 15 (2 ^ 28 * k + 2 ^ 22 * p + 2 ^ 16 * lane)
    if s.flag .STK_PC_ERR_SPARE_USED i ∨ bad ≠ 0 then s2.requestRetire k p else s2

/-- The owner shown in a UE log. -/
def ownerAt (s : State) (t u a : Nat) : Nat :=
  if t = 1 then s.rd .MEM_EXT_OWNER (96 * u + a / 2 ^ 30) else s.rd .MEM_LOT_OWNER (64 * u + a / 2 ^ 34)

/-- Writes the UE log of a stack or bay where it is empty (R160). -/
def ueLog (s : State) (t u a : Nat) (stored : Bool) : State :=
  let p := if stored then 1 else 0
  if t = 1 then
    s.firstError .STK_UE_LOG_VALID u (fun (s : State) =>
      (((s.wr .STK_UE_LOG_POISON u p).wr .STK_UE_LOG_PC u (s.channelOf t u a)).wr .STK_UE_LOG_OWNER u (s.ownerAt t u a)).wr .STK_UE_LOG_ADDR u (a / 64))
  else
    s.firstError .CRT_UE_LOG_VALID u (fun (s : State) =>
      (((s.wr .CRT_UE_LOG_POISON u p).wr .CRT_UE_LOG_CH u (s.channelOf t u a)).wr .CRT_UE_LOG_OWNER u (s.ownerAt t u a)).wr .CRT_UE_LOG_ADDR u (a / 64))

/-- An uncorrectable read (R160, R163): counted at the channel that served it, logged, the error interrupt of the PF; it ends a run of
corrections (R161); a PC with 4 in 1,024 turns is retired, a bay with 16 reported. -/
def uncorrectable (s : State) (t u a : Nat) : State :=
  let turn := s.rd .TURN_COUNT_COUNT 0
  let ch := s.channelOf t u a
  let key := if t = 1 then 64 * u + ch else 1024 + u
  let recent := (s.ueTurns.filter (fun (e : Nat × Nat) => decide (turn < e.2 + 1024))) ++ [(key, turn)]
  let n := (recent.filter (fun (e : Nat × Nat) => e.1 == key)).length
  let s1 := { s with ueTurns := recent }
  let s2 := if t = 1 then ((s1.bump .STK_PC_ERR_UE_CNT (pcIdx u ch) 1).mark .STK_PC_ERR_UE (pcIdx u ch)).setH .corrRun (pcIdx u ch) 0
    else (s1.bump .CRT_ERR_UE_CNT u 1).mark .CRT_ERR_UE u
  let s3 := ((s2.ueLog t u a false).raisePf 2).setPoison t u a 1
  if t = 1 then (if 4 ≤ n then s3.requestRetire u ch else s3)
  else if n = 16 then s3.mcLog 4 15 u else s3

/-- A corrected read (R159, R161): counted at the channel that served it; 16 consecutive corrections of one symbol fail its lane. -/
def corrected (s : State) (t u a lane : Nat) : State :=
  if t = 1 then
    let p := s.channelOf t u a
    let i := pcIdx u p
    let run := s.h .corrRun i
    let n := if run % 64 = lane % 64 ∧ run ≠ 0 then run / 64 + 1 else 1
    let s1 := (s.bump .STK_PC_ERR_CE_CNT i 1).setH .corrRun i (64 * n + lane % 64)
    if n = 16 then s1.laneFails u p lane else s1
  else s.bump .CRT_ERR_CE_CNT u 1

/-- Bytes that the decoder leaves where more symbols are wrong than the code detects (R157, R158; log entry 17, DESIGN CHOICE). -/
def scramble (s : State) (t u a : Nat) : State :=
  let (k, s) := s.fresh
  s.setBytes t u (a / 64 * 64) (toBytes (Config.openValue k) 64)

/-- A codeword read from DRAM (R157 to R163) with `wrong` symbols in error beside those of failed lanes, `lane` the lane of a single one: each
failed lane of the PC that serves it has a wrong symbol in every codeword. The state, and whether the line is poisoned. -/
def dramRead (s : State) (t u a wrong lane : Nat) : State × Bool :=
  let detect := if t = 1 then 2 else 3
  let bad := if t = 1 then s.badLanes (pcIdx u (s.channelOf t u a)) else []
  let total := bad.length + (if wrong = 1 ∧ bad.contains lane = true then 0 else wrong)
  if s.poisonOf t u a = 2 then (s.ueLog t u a true, true)
  else if s.poisonOf t u a = 1 then (s, true)
  else if 2 ≤ bad.length ∨ (2 ≤ total ∧ total ≤ detect) then (s.uncorrectable t u a, true)
  else if detect < total then (s.scramble t u a, false)
  else if total = 1 then (s.corrected t u a (bad.headD lane), false)
  else (if t = 1 then s.setH .corrRun (pcIdx u (s.channelOf t u a)) 0 else s, false)

end State

end Sys2Proof.Machine
end

