-- ==== Sys2Proof/Machine/Mmu.lean ====
section
/-! DEFINITION. The plaza cache, the owner check, translation and faults (chapter 06; R126 to R142, R171, R172). `State.mem` holds what every
device-side access sees; the plaza lines hold what the home tier has where that differs. -/

namespace Sys2Proof.Machine

/-- An access: whose quarter, which initiator (Table 6-6), for which operation, and whether it stalls on a fault (R140). -/
structure Client where
  q : Nat
  init : Initiator
  tag : Nat
  op : Option Nat
  deriving DecidableEq, Repr

/-- A completed walk (R137): leaf entry, log2 of the page size, where the entry lies. -/
structure Leaf where
  pte : Nat
  log2 : Nat
  unit : Nat
  addr : Nat
  deriving DecidableEq, Repr

/-- Fields of a leaf entry (Table 6-4). -/
def pteV (p : Nat) : Bool := bitsOf p 0 1 == 1
def pteTable (p : Nat) : Bool := bitsOf p 1 1 == 1
def pteR (p : Nat) : Bool := bitsOf p 2 1 == 1
def pteW (p : Nat) : Bool := bitsOf p 3 1 == 1
def pteA (p : Nat) : Bool := bitsOf p 4 1 == 1
def pteD (p : Nat) : Bool := bitsOf p 5 1 == 1
def pteTier (p : Nat) : Nat := bitsOf p 6 2
def pteUnit (p : Nat) : Nat := bitsOf p 8 4
def ptePacked (p : Nat) : Bool := bitsOf p 12 1 == 1
def pteEnc (p : Nat) : Bool := bitsOf p 13 1 == 1
def pteNoalloc (p : Nat) : Bool := bitsOf p 14 1 == 1
def pteMig (p : Nat) : Bool := bitsOf p 15 1 == 1
def pteAddr (p : Nat) : Nat := bitsOf p 16 46 * 64
def pteCodebook (p : Nat) : Nat := bitsOf p 64 8
def pteObj (p : Nat) : Nat := bitsOf p 72 24
def ptePhint (p : Nat) : Nat := bitsOf p 96 2
def pteKeep (p : Nat) : Nat := bitsOf p 98 4
def pteShadowed (p : Nat) : Bool := bitsOf p 102 1 == 1

namespace State

/-- Capacity of a unit of a tier in bytes (Table 6-1); the scratchpad of quarter `u` for tier 0 (R128). -/
def precincts (s : State) (q : Nat) : Nat := 16 * s.rd .GRID_Q_STRIPS_COUNT_ACT q
def scratchBytes (s : State) (q : Nat) : Nat := s.precincts q * s.rd .PLZ_Q_CFG_SCRATCH_ACT q * 2097152

/-- Whether a tier-1 address lies in a bank window of Table 10-1. -/
def inBankWindow (a : Nat) : Bool :=
  decide (bankWinBase ≤ a) && (decide (a < bankWinBase + 0x410000) ||
    (decide (bankWinBase + 0x800000 ≤ a) && decide (a < bankWinBase + 0xC00000)))

/-- R126, R136, Table 6-5: whether quarter `q` may reach byte `a` of unit `u` of tier `t`: none when it may, else OFFLINE (5),
OWNER (3) or HOSTERR (6). A unit out of service is found before its owner (log entry 20, DEDUCED). -/
def ownCheck (s : State) (q t u a : Nat) : Option Nat :=
  match t with
  | 0 => if a < s.scratchBytes q then none else some 3
  | 1 =>
    let e := 96 * u + a / 2 ^ 30
    if u ≥ s.nStacks then some 3
    else if a ≥ 96 * 2 ^ 30 then (if inBankWindow a ∧ s.bankOwner q u then none else some 3)
    else if s.rd .STK_STAT_STATE u = 0 ∨ s.rd .STK_STAT_STATE u = 3 ∨ s.rd .MEM_EXT_STATE e = 3 then some 5
    else if s.rd .MEM_EXT_STATE e = 1 ∧ s.rd .MEM_EXT_OWNER e = q then none else some 3
  | 2 =>
    let l := 64 * u + a / 2 ^ 34
    if u ≥ s.nBays ∨ a ≥ 2 ^ 40 then some 3
    else if ¬ (s.rd .CRT_STAT_STATE u = 3 ∨ s.rd .CRT_STAT_STATE u = 4) ∨ s.rd .MEM_LOT_STATE l = 3 then some 5
    else if (List.range 1024).any (fun i => s.flag .CRT_BF_DATA_VALID (1024 * u + i) &&
        s.rd .CRT_BF_DATA_FRAME (1024 * u + i) == a / 65536) then some 5
    else if s.rd .MEM_LOT_STATE l = 1 ∧ s.rd .MEM_LOT_OWNER l = q then none else some 3
  | _ =>
    if s.flag .MMU_HOST_WIN_EN q ∧ s.rd .MMU_HOST_WIN_BASE q ≤ a / 2 ^ 30 ∧ a / 2 ^ 30 ≤ s.rd .MMU_HOST_WIN_LIMIT q then
      (if s.flag .PT_LINK_STAT_CACHE 0 then none else some 6)
    else some 3

/-- The key number under which the line of byte `a` is stored, 0 for none (R171). -/
def encOf (s : State) (t u a : Nat) : Nat := Tab.get 0 (lkey t u a) s.encTag

/-- The key number a page with ENC set uses: that of its quarter; a slot with no key gives a number no key has (log entry
12, DESIGN CHOICE). Scratchpad lines use the number of the scratchpad's last change, so that what a change lost reads as a free value (R128). -/
def encWant (s : State) (q pte : Nat) : Nat :=
  if pteTier pte = 0 then s.h .scratchEpoch q else
  if pteEnc pte then (if s.rd .MEM_ENC_STAT_KEY q = 1 then s.h .keyNum q else 2 ^ 40) else 0

/-- The bytes of a piece of one line as a page with key number `want` reads them (R171): what lies in DRAM is the line enciphered under the key
it was stored with, and the read deciphers it under its own. -/
def lineView (s : State) (t u a n want : Nat) : List Byte :=
  if t = 3 ∨ s.encOf t u a = want then s.memBytes t u a n
  else if t = 0 then (List.range n).map (fun i =>
    BitVec.ofNat 8 (Config.lostByte (s.encOf t u a) want (mkey t u (a + i)) (s.memByte t u (a + i)).toNat))
  else ((cipherLine false want t u a (cipherLine true (s.encOf t u a) t u a (s.memBytes t u (a / 64 * 64) 64))).drop (a % 64)).take n

/-- The physical precinct of slice number `k` of a quarter: sixteen to a strip, strips west to east (log entry 22, DEDUCED). -/
def sliceId (s : State) (q k : Nat) : Nat := 16 * (s.rd .GRID_Q_STRIPS_FIRST_ACT q + k / 16) + k % 16

/-- Home slice of a line (R129), as its physical precinct. -/
def homeSlice (s : State) (q t u a : Nat) : Nat :=
  let x := a / 256
  let hash := Nat.xor (Nat.xor (bitsOf x 0 16) (bitsOf x 16 16)) (Nat.xor (bitsOf x 32 12) (16 * t + u))
  s.sliceId q (hash % s.precincts q)

def sameLine (l : PLine) (q t u a : Nat) : Bool := l.q == q && l.tier == t && l.unit == u && l.addr == a / 256 * 256

def findLine (s : State) (q t u a : Nat) : Option PLine := s.plaza.find? (fun l => sameLine l q t u a)

def dropLine (s : State) (q t u a : Nat) : State :=
  { s with plaza := s.plaza.filter (fun l => !sameLine l q t u a) }

/-- Puts a dirty line's home contents back in place of its own: the line is discarded without a write-back (R131, R339). -/
def revertLine (s : State) (l : PLine) : State :=
  let s1 := if l.dirty then
      let s2 := s.setBytes l.tier l.unit l.addr l.home
      (List.range 4).foldl (fun t i => t.setPoison l.tier l.unit (l.addr + 64 * i) (l.homePoison.getD i 0)) s2
    else s
  s1.dropLine l.q l.tier l.unit l.addr

/-- Ways of a slice that serve as cache (R128). -/
def cacheWays (s : State) (q : Nat) : Nat := 12 - s.rd .PLZ_Q_CFG_SCRATCH_ACT q

/-- The lines of a slice that share the set of byte `a`. The set is consulted only when the slice holds at least `lim` lines
that satisfy `p`; below that no set can hold so many (log entry 11, DESIGN CHOICE). -/
def setLines (s : State) (q slice t u a lim : Nat) (p : PLine → Bool) : List PLine :=
  let ls := s.plaza.filter (fun l => l.q == q && l.slice == slice && p l)
  if ls.length < lim then [] else
    ls.filter (fun l => Config.plazaSet (mkey l.tier l.unit (l.addr / 256)) % 8192 ==
      Config.plazaSet (mkey t u (a / 256)) % 8192)

/-- The privileged clients of R130: expanders, update units and fabric engines. -/
def privileged (cls : Nat) : Bool := cls == 2 || cls == 4 || cls == 6

/-- R144: the write-back of a line of a page with a restore copy is also made there; the caller performs that second write. Here
the line becomes clean. -/
def cleanLine (l : PLine) : PLine := { l with dirty := false, home := [], homePoison := [], shadow := none }

/-- A write-back of a line stores the poison pattern of its poisoned parts (R160). -/
def storePoison (s : State) (l : PLine) : State :=
  (List.range 4).foldl (fun (s : State) (i : Nat) =>
    if s.poisonOf l.tier l.unit (l.addr + 64 * i) = 1 then s.setPoison l.tier l.unit (l.addr + 64 * i) 2 else s) s

/-- An access to a cacheable line at its home slice (R129 to R132). A dirty line that is evicted is written back; where its page has
a restore copy, the second write is noted in `due` (R144). The data of a write is written by the caller, after this. -/
def plazaTouch (s : State) (q t u a cls hint keep : Nat) (noalloc write : Bool) (shadow : Option (Nat × Nat)) : State :=
  let hint := if privileged cls then hint else 0
  if (t = 1 ∨ t = 2) ∧ s.precincts q ≠ 0 then
    let base := a / 256 * 256
    let slice := s.homeSlice q t u a
    let lim := s.cacheWays q / 2
    let keepOk : State → Bool := fun s =>
      decide ((s.setLines q slice t u a lim (fun l => l.keep.isSome && !sameLine l q t u a)).length < lim)
    match s.findLine q t u a with
    | some l =>
      if hint = 3 ∧ write = false then s
      else
        let (s, kp) := if hint = 2 then
            (if keepOk s then (s, some keep) else (s.ev evKeepDeny q 0 1, l.keep)) else (s, l.keep)
        let l1 := { l with keep := kp }
        let l2 := if write then
            (if l.dirty then { l1 with shadow := if shadow.isSome then shadow else l.shadow } else
              { l1 with dirty := true, home := s.memBytes t u base 256, shadow := shadow,
                        homePoison := (List.range 4).map (fun i => s.poisonOf t u (base + 64 * i)) })
          else l1
        { s with plaza := l2 :: s.plaza.filter (fun x => !sameLine x q t u a) }
    | none =>
      if noalloc ∨ s.cacheWays q = 0 ∨ (hint = 3 ∧ write = false) then s
      else
        let inSet := s.setLines q slice t u a (s.cacheWays q) (fun _ => true)
        let victim := if inSet.length < s.cacheWays q then none else (inSet.filter (fun l => l.keep.isNone)).getLast?
        let s := match victim with
          | some v =>
            let s1 := s.dropLine v.q v.tier v.unit v.addr
            let s1 := if v.dirty then s1.storePoison v else s1
            if v.dirty && v.shadow.isSome then { s1 with due := s1.due ++ [v] } else s1
          | none => s
        let (s, kp) := if hint = 2 then
            (if keepOk s then (s, some keep) else (s.ev evKeepDeny q 0 1, none)) else (s, none)
        let l : PLine := ⟨q, slice, t, u, base, write, kp,
          if write then s.memBytes t u base 256 else [],
          if write then (List.range 4).map (fun i => s.poisonOf t u (base + 64 * i)) else [],
          if write then shadow else none⟩
        { s with plaza := if hint = 1 then s.plaza ++ [l] else l :: s.plaza }
  else s

/-- Whether extent `e` of stack `u` is in bank mode (R214): inside the active region. -/
def inBank (s : State) (u a : Nat) : Bool :=
  s.flag .BANK_CFG_ACTIVE u && decide (s.rd .BANK_CFG_FIRST_ACT u ≤ a / 2 ^ 30) &&
    decide (a / 2 ^ 30 < s.rd .BANK_CFG_FIRST_ACT u + s.rd .BANK_CFG_COUNT_ACT u)

/-- R136, R141: a byte that must lie in an owned stack extent (a table node, the fault queue); a bank window is none. A line of a bank-mode
region would be allocated, which raises RSVD (R138). -/
def ownStack (s : State) (q u a : Nat) : Option Nat :=
  if 96 * 2 ^ 30 ≤ a then some 3
  else match s.ownCheck q 1 u a with
    | some c => some c
    | none => if s.inBank u a then some 4 else none

/-- Writes the 32 bytes of a fault record (Table 6-6) at TAIL, advances TAIL and raises VF vector 2 (R140, R141). What happens where the queue's
own memory fails the owner check the spec does not say: TAIL advances and the vector is raised, and no record is written. Log entry 81, DESIGN
CHOICE. -/
def putRecord (s : State) (x : Stall) : State :=
  let q := x.q
  let tail := s.rd .MMU_FQ_PTR_TAIL q
  let unit := s.rd .MMU_FQ_BASE_UNIT q
  let a := s.rd .MMU_FQ_BASE_ADDR q * 64 + 32 * tail
  let lo := x.va % 2 ^ 52 + 2 ^ 52 * x.cause + (if x.write then 2 ^ 56 else 0) + 2 ^ 57 * x.level + 2 ^ 60 * q
  let w := lo + 2 ^ 64 * (x.init.unit + 2 ^ 12 * x.init.cls) + 2 ^ 80 * (x.tag % 2 ^ 32) +
    2 ^ 112 * s.rd .TURN_COUNT_COUNT 0
  let s1 := match s.ownStack q unit a with
    | none => (s.plazaTouch q 1 unit a 11 0 0 false true none).setBytes 1 unit a (toBytes w 32)
    | some _ => s
  (s1.wr .MMU_FQ_PTR_TAIL q ((tail + 1) % 256)).raiseVf q 2

def fqFull (s : State) (q : Nat) : Bool := (s.rd .MMU_FQ_PTR_TAIL q + 1) % 256 == s.rd .MMU_FQ_PTR_HEAD q

/-- Bits of a pointer entry that must be zero (R137). -/
def badPointer (p : Nat) : Bool := bitsOf p 62 66 != 0 || bitsOf p 2 6 != 0 || bitsOf p 12 4 != 0

/-- Conditions of R137 and R171 under which a leaf of page size 2^`k` raises RSVD. Table 6-1 calls tier 0 never packed and gives no fault for a leaf
with TIER 0 and PACKED set: it is accepted, and treated as a packed page. Log entry 82, DESIGN CHOICE. -/
def badLeaf (p k : Nat) : Bool :=
  bitsOf p 62 2 != 0 || bitsOf p 103 25 != 0 || (!ptePacked p && pteAddr p % 2 ^ k != 0) ||
    ((pteTier p == 0 || pteTier p == 3) && (pteUnit p != 0 || pteEnc p))

/-- The walk below a node (R136 to R138): `lv` the levels left as (level, shift, entries). Answers a leaf or (cause, level). -/
def walkFrom (s : State) (q va unit node : Nat) : List (Nat × Nat × Nat) → State × Except (Nat × Nat) Leaf
  | [] => (s, .error (4, 3))
  | (lv, sh, n) :: rest =>
    match s.ownStack q unit node with
    | some c => (s, .error (c, lv))
    | none =>
      let a := node + 16 * (va / 2 ^ sh % n)
      let s := s.plazaTouch q 1 unit a 11 0 0 false false none
      if s.poisonOf 1 unit a ≠ 0 then (s, .error (7, lv))
      else
        let p := ofBytes (s.memBytes 1 unit a 16)
        if !pteV p then (s, .error (1, lv))
        else if pteTable p then
          (if lv = 3 ∨ badPointer p = true then (s, .error (4, lv))
           else walkFrom s q va (pteUnit p) (pteAddr p) rest)
        else if lv < 2 ∨ badLeaf p (if lv = 2 then 21 else 16) = true then (s, .error (4, lv))
        else (s, .ok ⟨p, if lv = 2 then 21 else 16, unit, a⟩)

/-- The walk for one address (R136). -/
def walk (s : State) (q va : Nat) : State × Except (Nat × Nat) Leaf :=
  if !s.flag .MMU_ROOT_EN q then (s, .error (1, 0))
  else s.walkFrom q va (s.rd .MMU_ROOT_UNIT q) (s.rd .MMU_ROOT_ADDR q * 64)
    [(0, 39, 8192), (1, 30, 512), (2, 21, 512), (3, 16, 32)]

/-- log2 of the size of the page that holds `va`: of its leaf, and 64 KiB where the walk finds none (R141). -/
def pageLog (s : State) (q va : Nat) : Nat :=
  match s.tlb.find? (fun e => e.q == q && e.base == va / 2 ^ e.log2 * 2 ^ e.log2) with
  | some e => e.log2
  | none => match (s.walk q va).2 with
    | .ok l => l.log2
    | .error _ => 16

/-- A fault (R140, R141): one record for one page, cause and initiator while unresolved; held back while the queue is full. -/
def raiseFault (s : State) (c : Client) (va : Nat) (write : Bool) (cause level : Nat) (host : Option Nat) : State :=
  let k := s.pageLog c.q va
  let noted := s.stalls.any (fun x => x.q == c.q && x.va / 2 ^ k == va / 2 ^ k && x.cause == cause && x.init == c.init)
  let same := s.stalls.any (fun x => x.q == c.q && x.va / 2 ^ k == va / 2 ^ k && x.cause == cause && x.init == c.init &&
    x.op == c.op)
  let x : Stall := ⟨c.q, va, cause, write, level, c.init, c.tag, c.op, true, host⟩
  if same then s
  else if noted then { s with stalls := s.stalls ++ [x] }
  else if s.fqFull c.q then
    let s1 := s.ev evFqFull c.q 0 1
    { s1 with stalls := s1.stalls ++ [{ x with recorded := false }] }
  else
    let s1 := s.putRecord x
    { s1 with stalls := s1.stalls ++ [x] }

/-- Writes the records held back as far as entries are free (R141); `n` bounds the records tried. -/
def flushRecords (s : State) (q : Nat) : Nat → State
  | 0 => s
  | n + 1 =>
    match s.stalls.find? (fun x => x.q == q && !x.recorded) with
    | none => s
    | some x =>
      if s.fqFull q then s
      else
        let s1 := s.putRecord x
        flushRecords { s1 with stalls := s1.stalls.map (fun y => if y = x then { y with recorded := true } else y) } q n

/-- Puts a translation into the cache of 4,096 entries (R138). -/
def tlbPut (s : State) (e : TlbEnt) : State :=
  let mine := s.tlb.filter (fun x => x.q == e.q && !(x.base == e.base && x.log2 == e.log2))
  if mine.length < 4096 then
    { s with tlb := e :: s.tlb.filter (fun x => !(x.q == e.q && x.base == e.base && x.log2 == e.log2)) }
  else
    let (k, s) := s.fresh
    let v := mine.getD (Config.tlbVictim k % 4096) e
    { s with tlb := e :: s.tlb.filter (fun x => x != v && !(x.q == e.q && x.base == e.base && x.log2 == e.log2)) }

/-- The walk with its A and D update and the translation cached (R138). -/
def walkAndCache (s : State) (q va : Nat) (write : Bool) : State × Except (Nat × Nat) Leaf :=
  let (s, r) := s.walk q va
  match r with
  | .error e => (s, .error e)
  | .ok l =>
    if (write ∧ !pteW l.pte) ∨ (!write ∧ !pteR l.pte) then (s, .ok l)
    else
      let p := l.pte ||| 16 ||| (if write then 32 else 0)
      let s := if p = l.pte then s else
        (s.plazaTouch q 1 l.unit l.addr 11 0 0 false true none).setBytes 1 l.unit l.addr (toBytes p 16)
      (s.tlbPut ⟨q, va / 2 ^ l.log2 * 2 ^ l.log2, l.log2, p, l.unit, l.addr⟩, .ok { l with pte := p })

/-- Translation of one address: from the cache, or by a walk; then permissions, a move in hand (cause 0: the write waits without a
record, R145), the owner check and the rule for bank-mode regions (R126, R138). Answers the leaf, or (cause, level). -/
def translate (s : State) (q va : Nat) (write : Bool) : State × Except (Nat × Nat) Leaf :=
  let hit := s.tlb.find? (fun e => e.q == q && e.base == va / 2 ^ e.log2 * 2 ^ e.log2 && (!write || pteD e.pte))
  let (s, r) := match hit with
    | some e => (s, (.ok ⟨e.pte, e.log2, e.unit, e.addr⟩ : Except (Nat × Nat) Leaf))
    | none => s.walkAndCache q va write
  match r with
  | .error e => (s, .error e)
  | .ok l =>
    let p := l.pte
    let a := if ptePacked p then pteAddr p else pteAddr p + va % 2 ^ l.log2
    if (write ∧ !pteW p) ∨ (!write ∧ !pteR p) then (s, .error (2, 7))
    else if write ∧ pteMig p then (s, .error (0, 7))
    else match s.ownCheck q (pteTier p) (pteUnit p) a with
      | some c => (s, .error (c, 7))
      | none =>
        let win := decide (pteTier p = 1) && inBankWindow a
        if win = true ∧ (l.log2 ≠ 16 ∨ !pteNoalloc p ∨ ptePacked p ∨ pteEnc p) then (s, .error (4, 7))
        else if pteTier p = 1 ∧ s.inBank (pteUnit p) a ∧ (!pteNoalloc p ∨ ptePacked p) then (s, .error (4, 7))
        else (s, .ok l)

/-- The tier address of `va` on an unpacked page. -/
def leafAddr (l : Leaf) (va : Nat) : Nat := pteAddr l.pte + va % 2 ^ l.log2

/-- A translation whose failure is recorded as the client's fault; HOSTERR notes the host address (R148). -/
def xlate (s : State) (c : Client) (va : Nat) (write : Bool) : State × Except Nat Leaf :=
  let (s, r) := s.translate c.q va write
  match r with
  | .ok l => (s, .ok l)
  | .error (0, lv) =>
    ({ s with stalls := s.stalls ++ [⟨c.q, va, 0, write, lv, c.init, c.tag, c.op, true, none⟩] }, .error 0)
  | .error (cause, lv) =>
    let host := if cause = 6 then
        (match (s.walk c.q va).2 with
         | .ok l => some (leafAddr l va)
         | .error _ => none)
      else none
    (s.raiseFault c va write cause lv host, .error cause)

/-- A read of bytes within one 64-byte line at its home slice, or in its tier where no slice holds it (R129, R131, R160, R171, R172): data and
poison. `fin` on the last piece of its 256-byte line in the access: then a hit under hint 3 leaves the line invalid (R131). -/
def lineRead (s : State) (c : Client) (pte t u a n : Nat) (fin : Bool) : State × List Byte × Bool :=
  let found := s.findLine c.q t u a
  let s := if (t = 1 ∨ t = 2) ∧ found = none then (s.dramRead t u a 0 0).1 else s
  let s1 := s.plazaTouch c.q t u a c.init.cls (ptePhint pte) (pteKeep pte) (pteNoalloc pte) false none
  let bad := s1.poisonOf t u a != 0 || (pteEnc pte && s1.rd .MEM_ENC_STAT_KEY c.q != 1)
  let d := s1.lineView t u a n (s1.encWant c.q pte)
  let s2 := match found with
    | some pl => if fin = true ∧ privileged c.init.cls ∧ ptePhint pte = 3 then s1.revertLine pl else s1
    | none => s1
  (s2, d, bad)

/-- A write of bytes within one 64-byte line; `bad` writes the line with the poison marker. A whole line without poison clears it, a partial write
leaves it (R160). A line stored under another key is taken over under the page's own (R171). -/
def lineWrite (s : State) (c : Client) (pte t u a : Nat) (d : List Byte) (bad : Bool) (shadow : Option (Nat × Nat)) : State :=
  let s1 := s.plazaTouch c.q t u a c.init.cls (ptePhint pte) (pteKeep pte) (pteNoalloc pte) true shadow
  let want := s1.encWant c.q pte
  let line := a / 64 * 64
  let s2 := if t = 3 ∨ s1.encOf t u a = want then s1 else
    let v := s1.lineView t u line 64 want
    let s3 := s1.setBytes t u line v
    { s3 with encTag := Tab.set 0 (lkey t u a) want s3.encTag }
  let s4 := s2.setBytes t u a d
  if bad then s4.setPoison t u a 2 else if d.length = 64 then s4.setPoison t u a 0 else s4

/-- Bytes of an unpacked page within one 64-byte line: data and poison (R160, R172). -/
def readPiece (s : State) (c : Client) (l : Leaf) (va n : Nat) (fin : Bool) : State × List Byte × Bool :=
  let t := pteTier l.pte
  let u := if t = 0 then c.q else pteUnit l.pte
  let a := leafAddr l va
  if t = 1 ∧ bankWinBase ≤ a then (s, (List.range n).map (fun i => s.windowByte u (a + i)), false)
  else s.lineRead c l.pte t u a n fin

/-- Writes bytes within one 64-byte line of an unpacked page. A blank's store to a tier-3 page is a direct host store (R211): it waits at its drain
row. Log entry 50, DEDUCED. -/
def writePiece (s : State) (c : Client) (l : Leaf) (va : Nat) (d : List Byte) (bad : Bool)
    (shadow : Option (Nat × Nat)) : State :=
  let t := pteTier l.pte
  let u := if t = 0 then c.q else pteUnit l.pte
  let a := leafAddr l va
  if t = 1 ∧ bankWinBase ≤ a then s.windowWrite c.q u a d else
  if t = 3 ∧ c.init.cls = 0 ∧ c.op.isSome then
    { s with direct := s.direct ++ [(⟨s.h .nextReq 0, c.op.getD 0, c.q, c.tag, va, a, d, 0⟩ : DirectStore)] }.addH .nextReq 0 1
  else s.lineWrite c l.pte t u a d bad shadow

end State

end Sys2Proof.Machine
end

