-- ==== Sys2Proof/Machine/Packing.lean ====
section
/-! DEFINITION. Lossless packing (chapter 08): blocks, codebooks, pools and directories, and what packers and expanders do. -/

namespace Sys2Proof.Machine

/-- Element width W of a MODE (Table 8-1). -/
def modeW (mode : Nat) : Nat :=
  match mode with
  | 0 => 16
  | 1 => 32
  | 2 => 8
  | _ => 4

/-- Bytes of an unpacked block, RB (Table 8-1). -/
def modeRB (mode : Nat) : Nat := 32 * modeW mode

/-- Length of a coded block (R174). -/
def codedLen (i r : Nat) : Nat := 4 * ((6 + (64 * i + 256 * r + 7) / 8 + 3) / 4)

/-- A block header (Table 8-2). -/
structure BlockHdr where
  mode : Nat
  raw : Bool
  slot : Nat
  iw : Nat
  rw : Nat
  rest : Nat
  deriving DecidableEq, Repr

def blockHdr (w : Nat) : BlockHdr :=
  ⟨bitsOf w 0 3, bitsOf w 3 1 == 1, bitsOf w 4 8, bitsOf w 12 4, bitsOf w 16 6, bitsOf w 22 10⟩

/-- Whether a header obeys Table 8-2 for a page of format `fmt` (cause 2 of Table 8-7 where it does not). -/
def BlockHdr.good (h : BlockHdr) (fmt : Nat) : Bool :=
  h.mode == fmt && h.rest == 0 &&
    (if h.raw then h.slot == 0 && h.iw == 0 && h.rw == 0
     else decide (4 ≤ h.iw) && decide (h.iw ≤ 12) && decide (h.rw ≤ modeW h.mode))

/-- L of R174. -/
def BlockHdr.len (h : BlockHdr) : Nat := if h.raw then modeRB h.mode + 8 else codedLen h.iw h.rw

/-- A codebook image (Table 8-3). -/
def cbFmt (img : List Byte) : Nat := (img.getD 0 0).toNat % 8
def cbEntries (img : List Byte) : Nat := ofBytes ((img.drop 2).take 2)
def cbBucket (img : List Byte) (key : Nat) : Nat × Nat :=
  let w := ofBytes ((img.drop (64 + 4 * key)).take 4)
  (bitsOf w 0 12, bitsOf w 12 5)
def cbElem (img : List Byte) (w k f : Nat) : Nat :=
  bitsOf (ofBytes ((img.drop (1088 + k * w / 2)).take (w / 2))) (w * f) w

/-- The rules of Table 8-3 and the image's CHECK (R179). -/
def cbImageOk (img : List Byte) : Bool :=
  let n := cbEntries img
  let w := modeW (cbFmt img)
  let head := ofBytes (img.take 64)
  cbFmt img ≤ 3 && 1 ≤ n && n ≤ 4096 && img.length == 1088 + n * w / 2 &&
    (head == cbFmt img + 2 ^ 16 * n + 2 ^ 64 * bitsOf head 64 32) &&
    bitsOf head 64 32 == crc32c (img.drop 64) &&
    (List.range 256).all (fun key =>
      let b := ofBytes ((img.drop (64 + 4 * key)).take 4)
      let (st, c) := cbBucket img key
      bitsOf b 17 15 == 0 && c ≤ 16 && st + c ≤ n)

/-- Recovers an element (R177): codebook element plus the decoded residual, modulo 2^W. -/
def recover (w c z : Nat) : Nat :=
  let d := if z % 2 = 1 then 2 ^ w - 1 - z / 2 else z / 2
  (c + d) % 2 ^ w

/-- The residual of an element against a codebook element (R178 step 3). -/
def residual (w x c : Nat) : Nat :=
  let d := (x + 2 ^ w - c) % 2 ^ w
  if d < 2 ^ (w - 1) then 2 * d else 2 * (2 ^ w - 1 - d) + 1

/-- The bit length of a number. -/
def bitLen (x : Nat) : Nat := if x = 0 then 0 else Nat.log2 x + 1

/-- The candidate of a sub-vector with the lowest score, lower index first (R178 steps 1 to 3): index and residuals. -/
def chooseEntry (img : List Byte) (w : Nat) (xs : List Nat) : Nat × List Nat :=
  let x0 := xs.getD 0 0
  let key := if w = 4 then x0 * 16 + xs.getD 1 0 else x0 / 2 ^ (w - 8)
  let (st, c) := cbBucket img key
  let cands := if c = 0 then [0] else (List.range c).map (fun i => st + i)
  let scored := cands.map (fun k => (k, (List.range 4).map (fun f => residual w (xs.getD f 0) (cbElem img w k f))))
  scored.foldl (fun best e =>
    if e.2.foldl max 0 < best.2.foldl max 0 then e else best) (scored.headD (0, []))

/-- Packs one block of RB bytes (R178), with its check seeded by its index `b` (R176). -/
def packBlock (mode slot : Nat) (img : List Byte) (b : Nat) (bytes : List Byte) : List Byte :=
  let w := modeW mode
  let x := ofBytes bytes
  let subs := (List.range 64).map (fun v =>
    chooseEntry img w ((List.range 4).map (fun f => bitsOf x (w * (4 * v + f)) w)))
  let maxIdx := subs.foldl (fun m e => max m e.1) 0
  let maxZ := subs.foldl (fun m e => max m (e.2.foldl max 0)) 0
  let i := max 4 (bitLen maxIdx)
  let r := bitLen maxZ
  let body :=
    if codedLen i r < modeRB mode + 8 then
      let idx := subs.zipIdx.foldl (fun acc e => acc + e.1.1 * 2 ^ (e.2 * i)) 0
      let zs := subs.flatMap (fun e => e.2)
      let res := zs.zipIdx.foldl (fun acc e => acc + e.1 * 2 ^ (e.2 * r)) 0
      toBytes (mode + 16 * slot + 2 ^ 12 * i + 2 ^ 16 * r) 4 ++ toBytes (idx + 2 ^ (64 * i) * res) (codedLen i r - 6)
    else toBytes (mode + 8) 4 ++ bytes ++ [0, 0]
  body ++ toBytes (crc16 (b % 2 ^ 16) body) 2

/-- Decodes a coded payload (R175, R177); none where an index is at or above ENTRIES (cause 3). -/
def unpackBlock (h : BlockHdr) (img : List Byte) (payload : List Byte) : Option (List Byte) :=
  let w := modeW h.mode
  let p := ofBytes payload
  let idx := (List.range 64).map (fun v => bitsOf p (v * h.iw) h.iw)
  if idx.any (fun k => decide (cbEntries img ≤ k)) then none
  else
    let elems := idx.zipIdx.flatMap (fun e => (List.range 4).map (fun f =>
      recover w (cbElem img w e.1 f) (bitsOf p (64 * h.iw + (4 * e.2 + f) * h.rw) h.rw)))
    some (toBytes (elems.zipIdx.foldl (fun acc e => acc + e.1 * 2 ^ (e.2 * w)) 0) (modeRB h.mode))

/-- What an expander finds in a sub-stream: blocks delivered (none: poisoned), damages as (cause, block), raw blocks. -/
structure SubOut where
  blocks : List (Nat × Option (List Byte))
  damages : List (Nat × Nat)
  raws : Nat
  deriving DecidableEq, Repr

/-- The walk of R188 over the stored bytes of a sub-stream. `bs` the block indices left in order; `pos` the offset of the next
block; `first` the first block requested and `last` the last one of this sub-stream; `cb` the codebook image of a slot where it may be used (cause
4); `badAt` the poison of a 64-byte line of the run by offset (cause 5). What lies beyond a block that ends beyond LEN is not delivered (cause 7). -/
def expandSub (fmt len first last : Nat) (data : List Byte) (cb : Nat → Option (List Byte)) (badAt : Nat → Nat → Bool) :
    List Nat → Nat → SubOut
  | [], _ => ⟨[], [], 0⟩
  | b :: bs, pos =>
    let dead := fun (cause : Nat) =>
      (⟨(b :: bs).filterMap (fun x => if first ≤ x ∧ x ≤ last then some (x, none) else none), [(cause, b)], 0⟩ : SubOut)
    if last < b then ⟨[], [], 0⟩
    else if badAt pos 4 then dead 5
    else if len < pos + 4 then dead 7
    else
      let h := blockHdr (ofBytes ((data.drop pos).take 4))
      if !h.good fmt then dead 2
      else
        let l := h.len
        if len < pos + l then dead 7
        else if b < first then expandSub fmt len first last data cb badAt bs (pos + l)
        else if badAt pos l then dead 5
        else
          let blk := (data.drop pos).take l
          let payload := (blk.drop 4).take (l - 6)
          if crc16 (b % 2 ^ 16) (blk.take (l - 2)) ≠ ofBytes (blk.drop (l - 2)) then dead 1
          else
            let padBits := if h.raw then 8 * modeRB h.mode else 64 * h.iw + 256 * h.rw
            if ofBytes payload / 2 ^ padBits ≠ 0 then dead 2
            else
              let (out, dm) : Option (List Byte) × List (Nat × Nat) :=
                if bs.isEmpty && pos + l != len then (none, [(7, b)])
                else if h.raw then (some (payload.take (modeRB h.mode)), [])
                else match cb h.slot with
                  | none => (none, [(4, b)])
                  | some img => match unpackBlock h img payload with
                    | none => (none, [(3, b)])
                    | some d => (some d, [])
              let rest := if b = last then (⟨[], [], 0⟩ : SubOut) else expandSub fmt len first last data cb badAt bs (pos + l)
              ⟨(b, out) :: rest.blocks, dm ++ rest.damages, (if h.raw then 1 else 0) + rest.raws⟩

/-- Where a packer begins to rewrite a sub-stream (R185): the offset of its first written block `first`, or of an earlier block whose header does not
let the walk go on, and the block indices from there. -/
def subWalk (fmt len first : Nat) (data : List Byte) (badAt : Nat → Nat → Bool) : List Nat → Nat → Nat × List Nat
  | [], pos => (pos, [])
  | b :: bs, pos =>
    if first ≤ b ∨ badAt pos 4 = true ∨ len < pos + 4 then (pos, b :: bs)
    else
      let h := blockHdr (ofBytes ((data.drop pos).take 4))
      if !h.good fmt ∨ len < pos + h.len then (pos, b :: bs) else subWalk fmt len first data badAt bs (pos + h.len)

/-- A directory slot as read (Table 8-5). -/
structure Dir where
  valid : Bool
  busy : Bool
  fmt : Nat
  slot : Nat
  pool : Nat
  check : Nat
  subs : Nat
  /-- (LOCAL, LEN, CAP) of each sub-stream. -/
  runs : List (Nat × Nat × Nat)
  deriving DecidableEq, Repr

def dirRun (w : Nat) : Nat × Nat × Nat := (bitsOf w 0 26, bitsOf w 26 20, bitsOf w 46 10)

/-- S of a pool header's SUBS (R182). -/
def subsOf (code : Nat) : Nat := if code = 0 then 8 else if code = 1 then 16 else 32

/-- The bytes of a directory slot, with its CHECK. -/
def dirBytes (d : Dir) : List Byte :=
  let head := toBytes ((if d.valid then 1 else 0) + (if d.busy then 2 else 0) + 4 * d.fmt + 2 ^ 8 * d.slot +
    2 ^ 64 * (d.pool / 64)) 62
  let runs := d.runs.flatMap (fun r => toBytes (r.1 + 2 ^ 26 * r.2.1 + 2 ^ 46 * r.2.2) 8)
  head ++ toBytes (crc16 0xFFFF (head ++ runs)) 2 ++ runs

namespace State

/-- The client that an expander or packer is at a home slice (R130, Table 6-6): `cls` 2 or 3. -/
def packClient (c : Client) (cls t u : Nat) : Client := { c with init := ⟨cls, unitNo t u⟩ }

/-- `n` bytes of a channel from channel-local byte `l`, with the poison of each 64-byte line. -/
def chanRead (s : State) (c : Client) (pte t u ch l n : Nat) : Nat → State × List Byte × List Bool
  | 0 => (s, [], [])
  | k + 1 =>
    if n = 0 then (s, [], [])
    else
      let m := min n (64 - l % 64)
      let (s1, d, b) := s.lineRead c pte t u (chanAddr t ch l) m (decide ((l + m) % 256 = 0) || decide (n = m))
      let (s2, ds, bs) := chanRead s1 c pte t u ch (l + m) (n - m) k
      (s2, d ++ ds, b :: bs)

/-- Writes bytes of a unit's memory from tier address `a`, cut at lines. -/
def physWrite (s : State) (c : Client) (pte t u a : Nat) (d : List Byte) : Nat → State
  | 0 => s
  | k + 1 =>
    if d.isEmpty then s
    else
      let m := min d.length (64 - a % 64)
      physWrite (s.lineWrite c pte t u a (d.take m) false none) c pte t u (a + m) (d.drop m) k

/-- Writes a sub-stream from channel-local byte `l` to its end. What lies behind its end in its last line belongs to no block, so that the line is
clean as well (R190). -/
def chanWrite (s : State) (c : Client) (pte t u ch l : Nat) (d : List Byte) : Nat → State
  | 0 => s
  | k + 1 =>
    if d.isEmpty then s
    else
      let m := min d.length (64 - l % 64)
      let s1 := s.lineWrite c pte t u (chanAddr t ch l) (d.take m) false none
      let s2 := if l % 64 = 0 then s1.setPoison t u (chanAddr t ch l) 0 else s1
      chanWrite s2 c pte t u ch (l + m) (d.drop m) k

/-- Poison on the lines of a channel that hold the bytes `[l, l + n)` (R190). -/
def chanPoison (s : State) (t u ch l n : Nat) : State :=
  (List.range (n / 64 + 2)).foldl (fun s i =>
    if (l + 64 * i) / 64 * 64 < l + n then s.setPoison t u (chanAddr t ch ((l + 64 * i) / 64 * 64)) 2 else s) s

/-- The owner check (R126, R166) of the granules of a run of `n` bytes from channel-local granule `loc`. -/
def runCheck (s : State) (q t u ch loc n : Nat) : Option Nat :=
  (List.range ((n + 1023) / 1024)).findSome? (fun i => s.ownCheck q t u (chanAddr t ch (1024 * (loc + i))))

/-- Bytes `[a, a + 64 × n)` as lines, with a mark when one of them carries poison. -/
def readLines (s : State) (c : Client) (pte t u : Nat) : Nat → Nat → State × List Byte × Bool
  | _, 0 => (s, [], false)
  | a, n + 1 =>
    let (s1, d, b) := s.lineRead c pte t u a 64 (decide ((a + 64) % 256 = 0) || decide (n = 0))
    let (s2, ds, bs) := readLines s1 c pte t u (a + 64) n
    (s2, d ++ ds, b || bs)

/-- Reads a directory slot (Table 8-5) at the page's ADDR, with the S of its pool header (Table 8-4): the slot and its bytes, and whether a line of
them carries poison; or the cause of a failed owner check (R126). -/
def readDir (s : State) (c : Client) (pte : Nat) : State × Except Nat (Dir × List Byte × Bool) :=
  let t := pteTier pte
  let u := if t = 0 then c.q else pteUnit pte
  let a := pteAddr pte
  let c := packClient c 2 t u
  match s.ownCheck c.q t u a with
  | some e => (s, .error e)
  | none =>
    let (s1, hd, bad1) := s.readLines c pte t u a 1
    let w := ofBytes hd
    let pool := bitsOf w 64 46 * 64
    match s1.ownCheck c.q t u pool, s1.ownCheck c.q t u (pool + 319) with
    | some e, _ => (s1, .error e)
    | none, some e => (s1, .error e)
    | none, none =>
      let (s2, ph, bad2) := s1.readLines c pte t u pool 1
      let n := subsOf (bitsOf (ofBytes ph) 0 2)
      match s2.ownCheck c.q t u (a + 63 + 8 * n) with
      | some e => (s2, .error e)
      | none =>
        let (s3, ents, bad3) := s2.readLines c pte t u (a + 64) (n / 8)
        let runs := (List.range n).map (fun j => dirRun (ofBytes ((ents.drop (8 * j)).take 8)))
        (s3, .ok (⟨bitsOf w 0 1 == 1, bitsOf w 1 1 == 1, bitsOf w 2 3, bitsOf w 8 24, pool, bitsOf w 496 16, n, runs⟩, hd ++ ents,
          bad1 || bad2 || bad3))

/-- Cause 6 of Table 8-7, over the bytes of the slot. -/
def dirBad (d : Dir) (bytes : List Byte) : Bool :=
  crc16 0xFFFF (bytes.take 62 ++ bytes.drop 64) != d.check || decide (3 < d.fmt) ||
    d.runs.any (fun r => decide (1024 * r.2.2 < r.2.1))

/-- The codebook image that an expander of a unit may use for quarter `q` (cause 4). -/
def cbFor (s : State) (q t u fmt k : Nat) : Option (List Byte) :=
  if s.flag .CB_SLOT_VALID k ∧ s.rd .CB_SLOT_OWNER k = q ∧ bitsOf (s.rd .CB_SLOT_UNITS k) (unitNo t u) 1 = 1 ∧
      s.rd .CB_SLOT_FMT k = fmt then
    (s.codebooks.find? (fun e => e.1 == k)).map (·.2)
  else none

/-- R189: a damaged block is counted and logged; `va` is the page's. -/
def noteDamage (s : State) (q t u va cause b : Nat) : State :=
  let n := unitNo t u
  let s1 := ((s.ev evExpDamaged q n 1).bump .EXP_STAT_DAMAGED_CNT n 1).mark .EXP_STAT_DAMAGED n
  s1.firstError .EXP_DMG_LOG_VALID n (fun (s : State) =>
    (((s.wr .EXP_DMG_LOG_CAUSE n cause).wr .EXP_DMG_LOG_QUARTER n q).wr .EXP_DMG_LOG_BLOCK n b).wr .EXP_DMG_LOG_PAGE n (va / 65536))

/-- Whether the expander of channel `ch`, or its partner, serves (R335). -/
def expanderUp (s : State) (t u ch : Nat) : Bool :=
  let p := if t = 1 then ch else ch / 2
  let out := s.h .outExp (unitNo t u)
  !(bitsOf out p 1 == 1 && bitsOf out (Nat.xor p 1) 1 == 1)

def packerUp (s : State) (t u ch : Nat) : Bool :=
  let p := if t = 1 then ch / 2 else ch / 4
  let out := s.h .outPack (unitNo t u)
  !(bitsOf out p 1 == 1 && bitsOf out (Nat.xor p 1) 1 == 1)

/-- The stored bytes of sub-stream `j`, the poison of its bytes by offset, and its block indices. -/
def subData (s : State) (c : Client) (pte log2 j fmt : Nat) (d : Dir) : State × List Byte × List Bool × List Nat :=
  let t := pteTier pte
  let u := if t = 0 then c.q else pteUnit pte
  let ch := (d.subs * d.slot + j) % nChan t
  let (loc, len, _) := d.runs.getD j (0, 0, 0)
  let bs := (List.range (2 ^ log2 / modeRB fmt / d.subs)).map (fun i => j + d.subs * i)
  let (s, data, bads) := s.chanRead (packClient c 2 t u) pte t u ch (1024 * loc) len (len / 64 + 2)
  (s, data, bads, bs)

/-- Whether a line of the bytes `[pos, pos + n)` of a sub-stream carries poison. -/
def badIn (bads : List Bool) (pos n : Nat) : Bool :=
  (List.range (n / 64 + 2)).any (fun i => decide (pos / 64 + i ≤ (pos + n - 1) / 64) && bads.getD (pos / 64 + i) false)

/-- What an expander found is counted and logged (R188, R189). -/
def noteSub (s : State) (q t u page : Nat) (o : SubOut) : State :=
  (o.damages.foldl (fun s e => s.noteDamage q t u page e.1 e.2) s).bump .EXP_STAT_RAW_BLOCKS (unitNo t u) o.raws

/-- Expands blocks `first` to `last` of sub-stream `j` of the page at `va` (R188, R189). -/
def expand (s : State) (c : Client) (pte log2 va j first last : Nat) (d : Dir) : State × List (Nat × Option (List Byte)) :=
  let t := pteTier pte
  let u := if t = 0 then c.q else pteUnit pte
  let (_, len, cap) := d.runs.getD j (0, 0, 0)
  let nBlocks := 2 ^ log2 / modeRB d.fmt
  let bs := (List.range (nBlocks / d.subs)).map (fun i => j + d.subs * i)
  if cap = 0 then
    (s, (bs.filter (fun b => decide (first ≤ b) && decide (b ≤ last))).map (fun b => (b, some (List.replicate (modeRB d.fmt) 0))))
  else
    let (s, data, bads, bs) := s.subData c pte log2 j d.fmt d
    let lastJ := ((bs.filter (fun b => decide (b ≤ last))).getLast?).getD 0
    let o := expandSub d.fmt len first lastJ data (s.cbFor c.q t u d.fmt) (badIn bads) bs 0
    (s.noteSub c.q t u (va / 2 ^ log2 * 2 ^ log2) o, o.blocks)

/-- Codes that a packed access answers beside the causes of Table 6-5: it waits on BUSY (R184), or on a full pool (R186). -/
def waitBusy : Nat := 32
def waitPool : Nat := 33

/-- An access waits: on BUSY, which it looks at again every 64 cycles (R184), or on a full pool, every 1,024 (R186). -/
def holdPacked (s : State) (c : Client) (l : Leaf) (va : Nat) (write : Bool) (data : List Byte) (bads : List Bool) (busy : Bool) : State :=
  let x : PackStall := ⟨c.q, c.init, c.tag, c.op, l.pte, l.log2, l.unit, l.addr, va, write, data, bads, busy⟩
  if s.packStalls.contains x then s else { s with packStalls := s.packStalls ++ [x] }

/-- An access finds BUSY = 1 (R184): it waits. -/
def waitForDir (s : State) (c : Client) (l : Leaf) (va : Nat) (write : Bool) (data : List Byte) (bads : List Bool) : State :=
  (s.ev evPkBusyWait c.q 0 1).holdPacked c l va write data bads true

/-- Every block of a page is damaged (R189): cause 6, or 5 where a line of its slot or pool header carries poison. Log entry 83, DESIGN CHOICE. -/
def dirDamage (s : State) (c : Client) (l : Leaf) (va : Nat) (poisoned : Bool) : State :=
  let t := pteTier l.pte
  let u := if t = 0 then c.q else pteUnit l.pte
  s.noteDamage c.q t u (va / 2 ^ l.log2 * 2 ^ l.log2) (if poisoned then 5 else 6) 0

/-- Reads `n` bytes at `va` of a packed page (R20, R184, R188), within the page: data, and the poison of each line of 64 bytes
touched; or the cause of a fault, or a wait. -/
def packedRead (s : State) (c : Client) (l : Leaf) (va n : Nat) : State × Except Nat (List Byte × List Bool) :=
  let pte := l.pte
  let t := pteTier pte
  let u := if t = 0 then c.q else pteUnit pte
  let nLines := (va + n - 1) / 64 - va / 64 + 1
  match s.readDir c pte with
  | (s, .error e) => (s, .error e)
  | (s, .ok (d, bytes, poisoned)) =>
    if poisoned then (s.dirDamage c l va true, .ok (List.replicate n 0, List.replicate nLines true))
    else if d.busy then (s.waitForDir c l va false (List.replicate n 0) [], .error waitBusy)
    else if !d.valid then (s, .ok (List.replicate n 0, List.replicate nLines false))
    else if dirBad d bytes then (s.dirDamage c l va false, .ok (List.replicate n 0, List.replicate nLines true))
    else
      let rb := modeRB d.fmt
      let off := va % 2 ^ l.log2
      let first := off / rb
      let last := (off + n - 1) / rb
      let touched := (List.range d.subs).filter (fun j => (List.range (last + 1 - first)).any (fun i => (first + i) % d.subs == j))
      let chOf := fun j => (d.subs * d.slot + j) % nChan t
      if touched.any (fun j => !s.expanderUp t u (chOf j)) then (s, .error 5)
      else match touched.findSome? (fun j => s.runCheck c.q t u (chOf j) (d.runs.getD j (0, 0, 0)).1 (d.runs.getD j (0, 0, 0)).2.1) with
      | some e => (s, .error e)
      | none =>
        let (s, blocks) := touched.foldl (fun (acc : State × List (Nat × Option (List Byte))) j =>
          let (s, bs) := acc.1.expand c pte l.log2 va j first last d
          (s, acc.2 ++ bs)) (s, [])
        let block := fun b => (blocks.find? (fun e => e.1 == b)).bind (·.2)
        let bytes := (List.range (last + 1 - first)).flatMap (fun i => (block (first + i)).getD (List.replicate rb 0))
        let marks := (List.range nLines).map (fun i =>
          (block ((max off ((off / 64 + i) * 64)) / rb)).isNone)
        (s, .ok ((bytes.drop (off - first * rb)).take n, marks))

/-- Sets the BUSY bit of a directory slot's header line. -/
def dirBusy (s : State) (c : Client) (pte : Nat) (on : Bool) : State :=
  let t := pteTier pte
  let u := if t = 0 then c.q else pteUnit pte
  let a := pteAddr pte
  let b := (s.lineView t u a 1 (s.encWant c.q pte)).getD 0 0
  let v := b.toNat / 4 * 4 + b.toNat % 2 + (if on then 2 else 0)
  s.physWrite (packClient c 3 t u) pte t u a [BitVec.ofNat 8 v] 1

/-- What a packer keeps and expands of sub-stream `j` when block `first` is its first written one (R185): the stored bytes before the rewritten
blocks with the poison of their lines, and the old contents of the blocks from there, zero where nothing is stored. -/
def oldBlocks (s : State) (c : Client) (l : Leaf) (va j fmt first : Nat) (d : Dir) :
    State × List Byte × List Bool × List (Nat × Option (List Byte)) :=
  let t := pteTier l.pte
  let u := if t = 0 then c.q else pteUnit l.pte
  let zero := fun (b : Nat) => (b, some (List.replicate (modeRB fmt) (0 : Byte)))
  let (_, len, cap) := d.runs.getD j (0, 0, 0)
  if d.valid = true ∧ cap ≠ 0 then
    let (s, data, bads, bs) := s.subData c l.pte l.log2 j fmt d
    let (pos, rest) := subWalk fmt len first data (badIn bads) bs 0
    let o := expandSub fmt len (rest.headD 0) (rest.getLast?.getD 0) data (s.cbFor c.q t u fmt) (badIn bads) rest pos
    (s.noteSub c.q t u (va / 2 ^ l.log2 * 2 ^ l.log2) o, data.take pos, bads, o.blocks)
  else (s, [], [], (List.range (2 ^ l.log2 / modeRB fmt / d.subs)).map (fun i => zero (j + d.subs * i)))

/-- Replaces the bytes of `blk`, whose first byte has page offset `bo`, by those of `data` at page offset `off`. -/
def mergeBytes (blk : List Byte) (bo off : Nat) (data : List Byte) : List Byte :=
  blk.zipIdx.map (fun e => if off ≤ bo + e.2 ∧ bo + e.2 < off + data.length then data.getD (bo + e.2 - off) 0 else e.1)

/-- The new stored bytes of the rewritten blocks of a sub-stream from offset `pos`, and the (offset, length) of blocks stored with the poison marker
(R190); `mk` names the blocks that the write itself carries with poison. -/
def packSub (mode slot : Nat) (img : List Byte) (off : Nat) (data : List Byte) (mk : Nat → Bool) :
    List (Nat × Option (List Byte)) → Nat → List Byte × List (Nat × Nat)
  | [], _ => ([], [])
  | (b, blk) :: rest, pos =>
    let rb := modeRB mode
    let full := decide (off ≤ b * rb) && decide ((b + 1) * rb ≤ off + data.length)
    let new := mergeBytes (blk.getD (List.replicate rb 0)) (b * rb) off data
    let out := packBlock mode slot img b new
    let (bs, ps) := packSub mode slot img off data mk rest (pos + out.length)
    (out ++ bs, if (blk.isNone && !full) || mk b then (pos, out.length) :: ps else ps)

/-- A sub-stream as a packer rewrites it: its number, the stored bytes kept, those rewritten behind them, the (offset, length) of blocks stored
with the marker, and the poison of the kept lines. -/
structure NewSub where
  j : Nat
  kept : List Byte
  bytes : List Byte
  marks : List (Nat × Nat)
  bads : List Bool
  deriving DecidableEq, Repr

def NewSub.len (e : NewSub) : Nat := e.kept.length + e.bytes.length

/-- Stores a rewritten sub-stream (R185): in place from the first rewritten block where it fits its run, or whole in a run claimed from NEXT. -/
def putSub (s : State) (c : Client) (pte slack : Nat) (d : Dir) (runs : List (Nat × Nat × Nat)) (e : NewSub) :
    State × List (Nat × Nat × Nat) :=
  let t := pteTier pte
  let u := if t = 0 then c.q else pteUnit pte
  let want := s.encWant c.q pte
  let ch := (d.subs * d.slot + e.j) % nChan t
  let (loc, _, cap) := runs.getD e.j (0, 0, 0)
  let poison := fun (s : State) (loc : Nat) => e.marks.foldl (fun (s : State) p => s.chanPoison t u ch (1024 * loc + p.1) p.2) s
  if e.len ≤ 1024 * cap then
    let s := s.chanWrite c pte t u ch (1024 * loc + e.kept.length) e.bytes (e.bytes.length / 64 + 2)
    (poison s loc, runs.set e.j (loc, e.len, cap))
  else
    let ncap := (e.len + 1023) / 1024 + slack
    let next := d.pool + 64 + 4 * ch
    let nl := ofBytes (s.lineView t u next 4 want)
    let s := s.physWrite c pte t u next (toBytes (nl + ncap) 4) 2
    let s := s.chanWrite c pte t u ch (1024 * nl) (e.kept ++ e.bytes) (e.len / 64 + 2)
    let s := (List.range ((e.kept.length + 63) / 64)).foldl (fun (s : State) (i : Nat) =>
      if e.bads.getD i false then s.chanPoison t u ch (1024 * nl + 64 * i) 1 else s) s
    let dead := ofBytes (s.lineView t u (d.pool + 16) 4 want)
    let s := s.physWrite c pte t u (d.pool + 16) (toBytes (dead + cap) 4) 2
    ((poison s nl).ev evPkReloc c.q 0 1 |>.bump .PK_Q_STAT_RELOCS c.q 1, runs.set e.j (nl, e.len, ncap))

/-- Whether the packer of a page may use the codebook slot that its entry names (R181). -/
def packSlotOk (s : State) (c : Client) (pte : Nat) (dir : Option Nat) : Bool :=
  let k := pteCodebook pte
  s.flag .CB_SLOT_VALID k && !s.flag .CB_SLOT_UNLOADING k && s.rd .CB_SLOT_OWNER k == c.q &&
    bitsOf (s.rd .CB_SLOT_UNITS k) (unitNo (pteTier pte) (pteUnit pte)) 1 == 1 &&
    (match dir with
     | some fmt => s.rd .CB_SLOT_FMT k == fmt
     | none => true)

/-- Writes `data` at `va` of a packed page, within the page (R185, R186, R190); or answers the cause of a fault, or a wait. -/
def packedWriteAt (s : State) (c : Client) (l : Leaf) (va : Nat) (data : List Byte) (bads : List Bool) :
    State × Except Nat Unit :=
  let pte := l.pte
  let t := pteTier pte
  let u := if t = 0 then c.q else pteUnit pte
  let off := va % 2 ^ l.log2
  match s.readDir c pte with
  | (s, .error e) => (s, .error e)
  | (s, .ok (d, bytes, poisoned)) =>
    let whole := decide (data.length = 2 ^ l.log2)
    let k := pteCodebook pte
    let img := ((s.codebooks.find? (fun e => e.1 == k)).map (·.2)).getD []
    let bad := poisoned || (!d.busy && d.valid && dirBad d bytes)
    if !poisoned && d.busy then (s.waitForDir c l va true data bads, .error waitBusy)
    else if !s.packSlotOk c pte (if d.valid && !bad then some d.fmt else none) then (s, .error 4)
    else if bad && !whole then (s.dirDamage c l va poisoned, .ok ())
    else
      let d := if bad then { d with runs := d.runs.map (fun _ => (0, 0, 0)), valid := false, busy := false } else d
      let fmt := if d.valid then d.fmt else s.rd .CB_SLOT_FMT k
      let rb := modeRB fmt
      let first := off / rb
      let last := (off + data.length - 1) / rb
      let mk := fun b => (List.range (rb / 64 + 1)).any (fun i =>
        decide (off / 64 ≤ b * rb / 64 + i) && decide (b * rb / 64 + i ≤ ((b + 1) * rb - 1) / 64) &&
          bads.getD (b * rb / 64 + i - off / 64) false)
      let firstOf := fun (j : Nat) => ((List.range (last + 1 - first)).find? (fun i => (first + i) % d.subs == j)).map (fun i => first + i)
      let touched := (List.range d.subs).filter (fun j => (firstOf j).isSome)
      let chOf := fun j => (d.subs * d.slot + j) % nChan t
      let runFault := touched.findSome? (fun j =>
        s.runCheck c.q t u (chOf j) (d.runs.getD j (0, 0, 0)).1 (1024 * (d.runs.getD j (0, 0, 0)).2.2))
      if touched.any (fun j => !s.packerUp t u (chOf j)) then (s, .error 5)
      else if runFault.isSome then (s, .error (runFault.getD 0))
      else
        let want := s.encWant c.q pte
        let poolBytes := ofBytes (s.lineView t u d.pool 20 want)
        let slack := bitsOf poolBytes 8 4
        let dataEnd := bitsOf poolBytes 96 32
        let nextOf := fun (s : State) ch => ofBytes (s.lineView t u (d.pool + 64 + 4 * ch) 4 want)
        let c3 := packClient c 3 t u
        let (s, news) := touched.foldl (fun (acc : State × List NewSub) j =>
          let (s, kept, kb, old) := acc.1.oldBlocks c l va j fmt ((firstOf j).getD 0) d
          let (out, marks) := packSub fmt k img off data mk old kept.length
          (s, acc.2 ++ [⟨j, kept, out, marks, kb⟩])) (s, [])
        let need := news.filter (fun e => decide (1024 * (d.runs.getD e.j (0, 0, 0)).2.2 < e.len))
        let capOf := fun (e : NewSub) => (e.len + 1023) / 1024 + slack
        let endOf := fun (e : NewSub) =>
          nextOf s (chOf e.j) + ((need.filter (fun x => chOf x.j == chOf e.j && decide (x.j ≤ e.j))).map capOf).sum
        if need.any (fun e => decide (dataEnd < endOf e)) then
          let s := (s.dirBusy c pte true).ev evPkPoolFull c.q 0 1
          let s := (((s.mark .PK_Q_STAT_POOL_FULL c.q).mark .PK_Q_STAT_WAITING c.q)).raiseVf c.q 3
          (s.holdPacked c l va true data bads false, .error waitPool)
        else
          match need.findSome? (fun e => s.runCheck c.q t u (chOf e.j) (nextOf s (chOf e.j)) (1024 * capOf e)) with
          | some e => (s, .error e)
          | none =>
            let (s, runs) := news.foldl (fun (acc : State × List (Nat × Nat × Nat)) e => acc.1.putSub c3 pte slack d acc.2 e) (s, d.runs)
            let out := dirBytes { d with valid := true, busy := false, fmt := fmt, runs := runs }
            (s.physWrite c3 pte t u (pteAddr pte) out (out.length / 64 + 2), .ok ())

end State

end Sys2Proof.Machine
end

