-- ==== Sys2Proof/Machine/Access.lean ====
section
/-! DEFINITION. Reads and writes at quarter virtual addresses by any initiator: pages packed and unpacked (R20), pages with a shadow
(R144, R397). -/

namespace Sys2Proof.Machine

namespace State

/-- A packed access that fails for a cause of Table 6-5 raises that fault; one that waits (R184, R186) raises none. -/
def packedFault (s : State) (c : Client) (va : Nat) (write : Bool) (cause : Nat) : State :=
  if cause < 32 then s.raiseFault c va write cause 7 none else s

/-- Reads `n` bytes from `va` (R20, R126): data, and the poison of each 64-byte line touched; or the cause of the fault, or a
wait. `k` bounds the pieces. -/
def readPieces (s : State) (c : Client) (va n : Nat) : Nat → State × Except Nat (List Byte × List Bool)
  | 0 => (s, .ok ([], []))
  | k + 1 =>
    if n = 0 then (s, .ok ([], []))
    else
      let (s, r) := s.xlate c va false
      match r with
      | .error e => (s, .error e)
      | .ok l =>
        let m := if ptePacked l.pte then min n (2 ^ l.log2 - va % 2 ^ l.log2) else min n (64 - va % 64)
        let (s, piece) : State × Except Nat (List Byte × List Bool) :=
          if ptePacked l.pte then
            let (s, r) := s.packedRead c l va m
            match r with
            | .error e => (s.packedFault c va false e, .error e)
            | r => (s, r)
          else
            let (s, d, bad) := s.readPiece c l va m (decide ((va + m) % 256 = 0) || decide (n = m))
            (s, .ok (d, [bad]))
        match piece with
        | .error e => (s, .error e)
        | .ok (d, b) =>
          let (s, rest) := readPieces s c (va + m) (n - m) k
          match rest with
          | .error e => (s, .error e)
          | .ok (ds, bs) => (s, .ok (d ++ ds, b ++ bs))

/-- Writes `d` within one line, or within one packed page, of the page `l` at `va`, with no restore copy; `bads` the poison of its lines. -/
def writePlain (s : State) (c : Client) (l : Leaf) (va : Nat) (d : List Byte) (bads : List Bool) (shadow : Option (Nat × Nat)) :
    State × Except Nat Unit :=
  if ptePacked l.pte then
    let (s, r) := s.packedWriteAt c l va d bads
    match r with
    | .error e => (s.packedFault c va true e, .error e)
    | .ok _ => (s, .ok ())
  else (s.writePiece c l va d (bads.any id) shadow, .ok ())

/-- Writes bytes from `va`, cut at lines and packed pages, with no restore copy; `bads` marks the lines that carry poison. -/
def plainPieces (s : State) (c : Client) (va : Nat) (d : List Byte) (bads : List Bool) : Nat → State × Except Nat Unit
  | 0 => (s, .ok ())
  | k + 1 =>
    if d.isEmpty then (s, .ok ())
    else
      let (s, r) := s.xlate c va true
      match r with
      | .error e => (s, .error e)
      | .ok l =>
        let m := if ptePacked l.pte then min d.length (2 ^ l.log2 - va % 2 ^ l.log2) else min d.length (64 - va % 64)
        let nl := (va + m - 1) / 64 - va / 64 + 1
        let (s, r) := s.writePlain c l va (d.take m) (bads.take nl) none
        match r with
        | .error e => (s, .error e)
        | .ok _ => plainPieces s c (va + m) (d.drop m) (bads.drop nl) k

/-- Where the ledger entry of object `obj` lies (R143). -/
def ledgerVA (s : State) (q obj : Nat) : Nat := s.rd .MMU_LEDGER_VA q * 64 + 64 * obj

/-- The client that the MMU is for its ledger reads and restore-copy writes (Table 6-6, class 11). -/
def mmuClient (q tag : Nat) : Client := ⟨q, ⟨11, 0⟩, tag, none⟩

/-- The ledger entry of object `obj` read by the MMU as class 11 (R143, R397): `none` where the page has no entry; a fault or
poison is recorded for the ledger address. -/
def readLedger (s : State) (c : Client) (obj : Nat) : State × Except Nat (Option Nat) :=
  if obj ≥ 2 ^ s.rd .MMU_LEDGER_LOG2 c.q then (s, .ok none)
  else
    let m : Client := { c with init := ⟨11, 0⟩ }
    let (s, r) := s.readPieces m (s.ledgerVA c.q obj) 64 2
    match r with
    | .error e => (s, .error e)
    | .ok (d, bads) =>
      if bads.any id then (s.raiseFault m (s.ledgerVA c.q obj) false 7 7 none, .error 7) else (s, .ok (some (ofBytes d)))

/-- Clears SHADOW_VALID of a ledger entry (R144). -/
def clearShadow (s : State) (q obj : Nat) : State :=
  let m := mmuClient q 0
  let va := s.ledgerVA q obj
  let (s, r) := s.readPieces m va 64 2
  match r with
  | .error _ => s
  | .ok (d, _) =>
    let e := ofBytes d
    if bitsOf e 21 1 = 1 then (s.plainPieces m va (toBytes (e - 2 ^ 21) 64) [] 2).1 else s

/-- The second write of R144, to the restore copy: a fault drops it, is recorded, and clears SHADOW_VALID. -/
def secondWrite (s : State) (q obj va : Nat) (d : List Byte) (bads : List Bool) : State :=
  let (s, r) := s.plainPieces (mmuClient q 0) va d bads (d.length / 64 + 2)
  match r with
  | .ok _ => s
  | .error e => if e < 32 then s.clearShadow q obj else s

/-- The second write of a write-back (R144): the line's contents, with its poison, to the restore copy. -/
def restoreWrite (s : State) (l : PLine) : State :=
  match l.shadow with
  | none => s
  | some (va, obj) => s.secondWrite l.q obj va (s.memBytes l.tier l.unit l.addr 256)
      ((List.range 4).map (fun i => s.poisonOf l.tier l.unit (l.addr + 64 * i) != 0))

/-- Performs the second writes of evicted lines (R144). -/
def settle (s : State) : State := s.due.foldl (fun s l => s.restoreWrite l) { s with due := [] }

/-- Writes a dirty line back: its home tier takes its contents and its poison (R160), and so does its restore copy. -/
def writeBack (s : State) (l : PLine) : State :=
  if l.dirty then
    let s1 := { s with plaza := s.plaza.map (fun x => if sameLine x l.q l.tier l.unit l.addr then cleanLine x else x) }
    (s1.storePoison l).restoreWrite l
  else s

/-- Writes back and invalidates the lines of a list. -/
def flushLines (s : State) (ls : List PLine) : State :=
  ls.foldl (fun s l => (s.writeBack l).dropLine l.q l.tier l.unit l.addr) s

/-- Reads bytes, with the poison of each line. -/
def vreadL (s : State) (c : Client) (va n : Nat) : State × Except Nat (List Byte × List Bool) :=
  let (s, r) := s.readPieces c va n (n / 64 + 2)
  (s.settle, r)

/-- Reads bytes, with one poison mark. -/
def vread (s : State) (c : Client) (va n : Nat) : State × Except Nat (List Byte × Bool) :=
  let (s, r) := s.vreadL c va n
  match r with
  | .error e => (s, .error e)
  | .ok (d, bs) => (s, .ok (d, bs.any id))

/-- What R144 asks of a write to a page with SHADOWED set: the object's kind, its restore address for `va`; a kind-1 object loses
SHADOW_VALID first. -/
def shadowFor (s : State) (c : Client) (l : Leaf) (va : Nat) : State × Except Nat (Option (Nat × Nat)) :=
  if !pteShadowed l.pte then (s, .ok none)
  else
    let obj := pteObj l.pte
    let (s, r) := s.readLedger c obj
    match r with
    | .error e => (s, .error e)
    | .ok none => (s, .ok none)
    | .ok (some e) =>
      let kind := bitsOf e 19 2
      if kind = 1 then (if bitsOf e 21 1 = 1 then s.clearShadow c.q obj else s, .ok none)
      else if kind = 2 then (s, .ok (some (bitsOf e 320 64 + va - bitsOf e 64 64, obj)))
      else (s, .ok none)

/-- Writes `d` within one line, or within one packed page, of the page `l` at `va`; `bads` the poison of its lines. -/
def writeOne (s : State) (c : Client) (l : Leaf) (va : Nat) (d : List Byte) (bads : List Bool) : State × Except Nat Unit :=
  let (s, sh) := s.shadowFor c l va
  match sh with
  | .error e => (s, .error e)
  | .ok shadow =>
    let second := fun (s : State) => match shadow with
      | none => s
      | some (sv, obj) => s.secondWrite c.q obj sv d bads
    let cached := !ptePacked l.pte && (pteTier l.pte == 1 || pteTier l.pte == 2) && !pteNoalloc l.pte && s.precincts c.q != 0 &&
      s.cacheWays c.q != 0
    let lineShadow := shadow.map (fun e => (e.1 - va % 256, e.2))
    match s.writePlain c l va d bads (if cached then lineShadow else none) with
    | (s, .error e) => (s, .error e)
    | (s, .ok _) => (if cached then s else second s, .ok ())

/-- Writes bytes from `va`, cut at lines and packed pages; `bads` marks the lines that carry poison. -/
def writePieces (s : State) (c : Client) (va : Nat) (d : List Byte) (bads : List Bool) : Nat → State × Except Nat Unit
  | 0 => (s, .ok ())
  | k + 1 =>
    if d.isEmpty then (s, .ok ())
    else
      let (s, r) := s.xlate c va true
      match r with
      | .error e => (s, .error e)
      | .ok l =>
        let m := if ptePacked l.pte then min d.length (2 ^ l.log2 - va % 2 ^ l.log2) else min d.length (64 - va % 64)
        let nl := (va + m - 1) / 64 - va / 64 + 1
        let (s, r) := s.writeOne c l va (d.take m) (bads.take nl)
        match r with
        | .error e => (s, .error e)
        | .ok _ => writePieces s c (va + m) (d.drop m) (bads.drop nl) k

def vwriteL (s : State) (c : Client) (va : Nat) (d : List Byte) (bads : List Bool) : State × Except Nat Unit :=
  let (s, r) := s.writePieces c va d bads (d.length / 64 + 2)
  (s.settle, r)

/-- Writes bytes that carry no poison. -/
def vwrite (s : State) (c : Client) (va : Nat) (d : List Byte) : State × Except Nat Unit := s.vwriteL c va d []

/-- Makes a list of writes in order, as far as they succeed. -/
def vwrites (s : State) (c : Client) : List VWrite → State × Except Nat Unit
  | [] => (s, .ok ())
  | w :: ws =>
    match s.vwrite c w.va w.data with
    | (s, .error e) => (s, .error e)
    | (s, .ok _) => vwrites s c ws

end State

end Sys2Proof.Machine
end

