-- ==== Sys2Proof/Machine/Channels.lean ====
section
/-! DEFINITION. The queues of the memory channels (R155). -/

namespace Sys2Proof.Machine

namespace State

/-- The requests of a channel, oldest first: its queue holds the first 64, the others are requesters that stall (R155). -/
def chanQueue (s : State) (t u ch : Nat) : List MemReq :=
  (s.memQ.filter (fun (e : Nat × Nat × Nat × MemReq) => e.1 == t && e.2.1 == u && e.2.2.1 == ch)).map (·.2.2.2)

/-- A repair of the row that holds byte `a` is being made (R168): requests to the row are held from w 512 until it is in force or the window for it
ends. -/
def rowHeld (s : State) (t u a : Nat) : Bool :=
  t == 1 && decide (s.cycW 512 ≤ s.pos) && decide (s.pos < s.cycW 3584) &&
    s.repairs.any (fun r => r.stack == u && !r.applied && r.pc == s.channelOf t u a && r.bank == bankOf (s.localOf t u a) &&
      r.row == Config.dramRow t (s.localOf t u a))

/-- The banks that unit `n` of the command an engine runs uses (R230). -/
def engineBanks (s : State) (k p n : Nat) : List Nat :=
  let e := s.engine k p
  match e.run, e.queue with
  | some _, d :: _ => if n < bkUnits d then (bkTouches d n e.held).map (fun ea => bankOf (s.localOf 1 k (s.eaAddr k p ea))) else []
  | _, _ => []

/-- The bank of a request that waits for the engine's boundary (R230). -/
def engineHeld (s : State) (t u ch a : Nat) : Bool := t == 1 && (s.engineBanks u ch (s.engine u ch).units).contains (bankOf (s.localOf t u a))

/-- The number of a channel, over all stacks and bays. -/
def chanNo (t u ch : Nat) : Nat := 64 * unitNo t u + ch

/-- A PC whose spare trains (R162), and a channel whose receivers are refreshed (R348), serve no request. -/
def chanShut (s : State) (t u ch : Nat) : Bool :=
  (t == 1 && s.h .spareTrain (pcIdx u ch) != 0) || decide (s.now < s.h .refreshEnd (chanNo t u ch))

/-- The request that a channel serves next (R155): the oldest of each line is a candidate; one that has waited 2,048 cycles first, then reads by
deadline within 512 cycles, then the oldest row hit, then the oldest. A channel that is shut serves none. -/
def pickFrom (s : State) (t u ch : Nat) (free : MemReq → Bool) : Option MemReq :=
  let q := (s.chanQueue t u ch).take 64
  let cand := q.zipIdx.filterMap (fun e =>
    if (q.take e.2).any (fun (r : MemReq) => r.addr / 64 == e.1.addr / 64) || s.rowHeld t u e.1.addr || !free e.1 then none else some e.1)
  let aged := cand.filter (fun (r : MemReq) => decide (r.arrival + 2048 ≤ s.now))
  let due := cand.filter (fun (r : MemReq) => match r.deadline with
    | some d => !r.write && decide (d ≤ s.now + 512)
    | none => false)
  let hit := cand.filter (fun (r : MemReq) =>
    Tab.get 0 (bankKey t u ch (bankOf (s.localOf t u r.addr))) s.openRow == Config.dramRow t (s.localOf t u r.addr) + 1)
  if s.chanShut t u ch then none
  else match aged, due with
    | r :: _, _ => some r
    | [], d :: ds => some (ds.foldl (fun (b x : MemReq) => if x.deadline.getD 0 < b.deadline.getD 0 then x else b) d)
    | [], [] => match hit with
      | r :: _ => some r
      | [] => cand.head?

/-- The request that a channel serves next while it is at no boundary: not one for a bank that an engine holds (R155, R230). -/
def pickRequest (s : State) (t u ch : Nat) : Option MemReq := s.pickFrom t u ch (fun r => !s.engineHeld t u ch r.addr)

/-- The oldest requester that stalls on a full queue enters it (R155): its stalled cycles are counted. -/
def promote (s : State) (t u ch : Nat) : State :=
  match (s.chanQueue t u ch)[63]? with
  | some r =>
    if !r.stalled then s
    else { s with memQ := s.memQ.map (fun e => if e = (t, u, ch, r) then (t, u, ch, { r with arrival := s.now, stalled := false }) else e) }.ev
      evMemQfull r.q (chanNo t u ch) (s.now - r.arrival - 1)
  | none => s

/-- A channel serves request `x` (R155): its row is open then. -/
def serveReq (s : State) (t u ch : Nat) (x : MemReq) : State :=
  State.promote { s with
    memQ := s.memQ.erase (t, u, ch, x),
    openRow := Tab.set 0 (bankKey t u ch (bankOf (s.localOf t u x.addr))) (Config.dramRow t (s.localOf t u x.addr) + 1) s.openRow } t u ch

/-- A request enters the queue of its channel, or its requester stalls on a full one and counts EV_MEM_QFULL (R155). -/
def enqueue (s : State) (t u : Nat) (r : MemReq) : State :=
  let ch := s.channelOf t u r.addr
  let full := decide (64 ≤ (s.chanQueue t u ch).length)
  let s1 := { s with memQ := s.memQ ++ [(t, u, ch, { r with arrival := s.now, stalled := full })] }
  if full then s1.ev evMemQfull r.q (chanNo t u ch) 1 else s1

/-- Serves what a channel holds, in the order of R155; `n` bounds the requests. -/
def serveAll (s : State) (t u ch : Nat) : Nat → State
  | 0 => s
  | n + 1 => match s.pickRequest t u ch with
    | some x => (s.serveReq t u ch x).serveAll t u ch n
    | none => s

/-- Serves every request queued for one of the banks `bs` of PC `p` of stack `k`, in the order of R155 (R230); `n` bounds the requests. -/
def serveFor (s : State) (k p : Nat) (bs : List Nat) : Nat → State
  | 0 => s
  | n + 1 => match s.pickFrom 1 k p (fun r => bs.contains (bankOf (s.localOf 1 k r.addr))) with
    | some x => (s.serveReq 1 k p x).serveFor k p bs n
    | none => s

/-- A command boundary of an engine (R230): where a request waits for the bank of the burst that ended or of the next one, the row of that bank closes
and its requests are served. -/
def serveBanks (s : State) (k p : Nat) : State :=
  let u := (s.engine k p).units
  let bs := (s.engineBanks k p (u - 1) ++ s.engineBanks k p u).filter (fun b =>
    (s.chanQueue 1 k p).any (fun r => bankOf (s.localOf 1 k r.addr) == b))
  { s with openRow := bs.foldl (fun (o : List (Nat × Nat)) (b : Nat) => Tab.set 0 (bankKey 1 k p b) 0 o) s.openRow }.serveFor k p bs s.memQ.length

/-- By the drain deadline every request that was accepted has been served (R22, R46). -/
def serveQueues (s : State) : State :=
  s.memQ.foldl (fun (s : State) (e : Nat × Nat × Nat × MemReq) => s.serveAll e.1 e.2.1 e.2.2.1 s.memQ.length) s

end State

end Sys2Proof.Machine
end

