-- ==== Sys2Proof/Machine/Tiles.lean ====
section
/-! DEFINITION. The tiles (chapter 03): the logical map, the links of the mesh and the routes of packets, the bypasses and jogs of a placed blank,
and the scan of the blank allocator. -/

namespace Sys2Proof.Machine

/-- No two rows of a list adjacent (R62, R63). -/
def noAdjacent (l : List Nat) : Bool := l.all (fun y => !l.contains (y + 1))

/-- The (row + 1)-th physical row, from y on, that is not in `ret` (R57); `n` bounds the rows looked at. -/
def nthRow (ret : List Nat) : Nat → Nat → Nat → Nat
  | 0, y, _ => y
  | n + 1, y, row =>
    if ret.contains y then nthRow ret n (y + 1) row
    else if row = 0 then y
    else nthRow ret n (y + 1) (row - 1)

/-- Receive-buffer depth of a virtual channel in flits (Table 3-3): VC0 operand, VC1 memory, VC2 control. -/
def vcDepth (vc : Nat) : Nat := if vc = 1 then 8 else 4

/-- One virtual channel of one link (R59): credits that the sender holds, flits on the link and flits in the receiver's buffer. -/
structure LinkVc where
  credits : Nat
  wire : Nat
  buf : Nat
  deriving DecidableEq, Repr

/-- At rest the sender holds every credit. -/
def LinkVc.full (vc : Nat) : LinkVc := ⟨vcDepth vc, 0, 0⟩
/-- A flit is sent only against a credit; it arrives; it leaves the buffer, and its credit returns (R59). -/
def LinkVc.send (l : LinkVc) : Option LinkVc := if l.credits = 0 then none else some { l with credits := l.credits - 1, wire := l.wire + 1 }
def LinkVc.arrive (l : LinkVc) : LinkVc := if l.wire = 0 then l else { l with wire := l.wire - 1, buf := l.buf + 1 }
def LinkVc.leave (l : LinkVc) : LinkVc := if l.buf = 0 then l else { l with buf := l.buf - 1, credits := l.credits + 1 }

/-- `n` flits cross a link one after another: each is sent, arrives and leaves. -/
def LinkVc.carry (l : LinkVc) : Nat → Option LinkVc
  | 0 => some l
  | n + 1 => match l.send with
    | none => none
    | some l1 => LinkVc.carry l1.arrive.leave n

/-- The virtual channel whose flit takes the packet slot of a link (Table 3-3): VC2 first, except that a VC1 flit that has waited 4 cycles takes the next
slot. `vc1` is how long the first VC1 flit has waited. -/
def packetSlot (vc1 : Option Nat) (vc2 : Bool) : Option Nat :=
  match vc1 with
  | some n => if vc2 ∧ n < 4 then some 2 else some 1
  | none => if vc2 then some 2 else none

/-- Packet flits of `n` bytes (3.3): a header flit, and 12 bytes in each payload flit. -/
def packetFlits (n : Nat) : Nat := 1 + (n + 11) / 12

/-- One place from `x` towards `dest`. -/
def towards (x dest : Nat) : Nat := if x < dest then x + 1 else if dest < x then x - 1 else x

namespace State

def strip (s : State) (k : Nat) : Strip := s.strips.getD k ⟨[], [], []⟩

def setStrip (s : State) (k : Nat) (st : Strip) : State := { s with strips := s.strips.set k st }

/-- The strips a quarter holds (R66). -/
def stripsOf (s : State) (q : Nat) : List Nat :=
  (List.range (s.rd .GRID_Q_STRIPS_COUNT_ACT q)).map (fun i => s.rd .GRID_Q_STRIPS_FIRST_ACT q + i)

/-- The quarter that holds strip `k`, if any. -/
def holder (s : State) (k : Nat) : Option Nat :=
  if s.rd .GRID_STRIP_STATE_STATE k = 1 then some (s.rd .GRID_STRIP_STATE_OWNER k) else none

/-- A retired set over strips (3.4). -/
def retiredOf (s : State) (ks : List Nat) : List Nat := (ks.flatMap (fun k => (s.strip k).retired)).dedup

def retiredSet (s : State) (q : Nat) : List Nat := s.retiredOf (s.stripsOf q)

/-- Physical row of a logical row (R57). -/
def physRow (s : State) (q row : Nat) : Nat := nthRow (s.retiredSet q) 1040 0 row

/-- Physical tile of a logical tile (R57). -/
def physTile (s : State) (q col row : Nat) : Nat × Nat :=
  let k := s.rd .GRID_Q_STRIPS_FIRST_ACT q + col / 64
  let j := col % 64
  let y := s.physRow q row
  let f := Tab.get 64 y (s.strip k).alleys
  (65 * k + (if j < f then j else j + 1), y)

/-- Logical tile of a physical tile of quarter `q`, where one maps to it (R57). -/
def logTile (s : State) (q x y : Nat) : Option (Nat × Nat) :=
  let k := x / 65
  let u := x % 65
  let ret := s.retiredSet q
  if ret.contains y then none
  else
    let row := y - (ret.filter (fun r => decide (r < y))).length
    let f := Tab.get 64 y (s.strip k).alleys
    let first := s.rd .GRID_Q_STRIPS_FIRST_ACT q
    if row ≥ 1024 ∨ u = f ∨ k < first then none
    else some (64 * (k - first) + (if u < f then u else u - 1), row)

/-- A tile is fenced. -/
def isFenced (s : State) (x y : Nat) : Bool := s.fenced.contains (x, y)

/-- Two tiles of the strip-row of (x, y) are fenced (R60). -/
def rowSplit (s : State) (x y : Nat) : Bool := decide (2 ≤ (s.fenced.filter (fun t => t.1 / 65 == x / 65 && t.2 == y)).length)

/-- The tiles that a packet for (tx, ty) comes to from (x, y) (R60): along the street first, then, with `down`, along the avenue; one avenue step south
where the street meets a strip-row with two fenced tiles, one street step east where the avenue meets two vertically adjacent fenced tiles, after which it
ends along the street of its destination. `n` bounds the steps. Log entry 94, DEDUCED. -/
def packetRoute (s : State) (tx ty : Nat) : Nat → Bool → Nat → Nat → List (Nat × Nat)
  | 0, _, _, _ => []
  | n + 1, down, x, y =>
    if x = tx ∧ y = ty then []
    else if down ∧ y ≠ ty then
      let y1 := towards y ty
      if s.isFenced x y1 && s.isFenced x (towards y1 ty) && y1 != ty then (x + 1, y) :: s.packetRoute tx ty n true (x + 1) y
      else (x, y1) :: s.packetRoute tx ty n true x y1
    else if x ≠ tx then
      let x1 := towards x tx
      if s.rowSplit x1 y && !down then (x, y + 1) :: s.packetRoute tx ty n false x (y + 1)
      else (x1, y) :: s.packetRoute tx ty n down x1 y
    else s.packetRoute tx ty n true x y

/-- A packet of quarter `q` is delivered (R60): its destination is a tile of that quarter, and takes part in routing (3.4). -/
def delivers (s : State) (q tx ty : Nat) : Bool := s.holder (tx / 65) == some q && !s.isFenced tx ty

/-- A packet of quarter `q` from one crossing reaches another, its flits held to the credits of each link (R59, R60). -/
def packetArrives (s : State) (q flits : Nat) (src dst : Nat × Nat) : Bool :=
  ((src :: s.packetRoute dst.1 dst.2 4160 false src.1 src.2).getLast? == some dst) && ((LinkVc.full 1).carry flits).isSome && s.delivers q dst.1 dst.2

/-- The crossing of tap `i` of precinct `p` (R135): its own tile, or its alternate; none when both are out. -/
def tapTile (s : State) (p i : Nat) : Option (Nat × Nat) :=
  let k := p / 16
  let y := 65 * (p % 16) + 4 * i + 2
  let st := s.strip k
  let ok := fun x y => decide (y < 1040) && !s.isFenced x y && !st.retired.contains y
  let y' := nthRow st.retired 1040 (y + 1) 0
  if ok (65 * k + 32) y then some (65 * k + 32, y) else if ok (65 * k + 33) y' then some (65 * k + 33, y') else none

/-- The dimensions of a matrix operation's blank: r, c, d (Table 4-4). -/
def blankRows (o : Op) : Nat := bitsOf o.raw 40 11
def blankCols (o : Op) : Nat := bitsOf o.raw 52 11
def drainRows (o : Op) : Nat := bitsOf o.raw 15 3

/-- R69. -/
def blankLegal (s : State) (q r c d : Nat) : Bool :=
  decide (2 ≤ r) && decide (2 ≤ c) && decide (c ≤ 64 * s.rd .GRID_Q_STRIPS_COUNT_ACT q) && decide (r + d ≤ 1024)

/-- Whether a rectangle of granules is free: no blank overlaps it and no suspect tile lies in it (3.7, R74). -/
def rectFree (s : State) (q top left h w : Nat) : Bool :=
  s.ops.all (fun o => match o.blank with
    | none => true
    | some b => o.q != q || decide (top + h ≤ b.top) || decide (b.top + b.h ≤ top) || decide (left + w ≤ b.left) ||
        decide (b.left + b.w ≤ left)) &&
  s.suspects.all (fun t => t.q != q || (match s.logTile q t.x t.y with
    | none => true
    | some (col, row) => !(decide (left ≤ col / 8) && decide (col / 8 < left + w) && decide (top ≤ row / 8) &&
        decide (row / 8 < top + h))))

/-- Where column `col` of the row after `row` lies east of it (Table 3-2): the avenue jog of the tile at (col, row), 0 south-west, 1 south, 2
south-east. -/
def jogOf (s : State) (q col row : Nat) : Nat := (s.physTile q col (row + 1)).1 + 1 - (s.physTile q col row).1

/-- The trim bypasses of the tile at row `i`, column `j` of a blank of `rows` × `cols` whose first tile is (col0, row0) (R64): its street output register
where the hop to the next column passes an alley, its avenue output register where the hop to the next row passes an avenue bypass. -/
def trimS (s : State) (q col0 row0 cols j i : Nat) : Bool :=
  decide (j + 1 < cols) && (s.physTile q (col0 + j + 1) (row0 + i)).1 != (s.physTile q (col0 + j) (row0 + i)).1 + 1
def trimA (s : State) (q col0 row0 rows j i : Nat) : Bool :=
  decide (i + 1 < rows) && (s.physTile q (col0 + j) (row0 + i + 1)).2 != (s.physTile q (col0 + j) (row0 + i)).2 + 1

/-- Granule rows `lo` to `hi − 1` are examined: the first that fits, and the westmost place in it (R71). -/
def findPlace (s : State) (q h w lo hi : Nat) : Option (Nat × Nat) :=
  let wq := 8 * s.rd .GRID_Q_STRIPS_COUNT_ACT q
  (List.range (hi - lo)).findSome? (fun i =>
    ((List.range (wq + 1 - w)).find? (fun left => s.rectFree q (lo + i) left h w)).map (fun left => (lo + i, left)))

/-- BLANKS and WAITING of GRID_Q_STAT. -/
def syncBlanks (s : State) (q : Nat) : State :=
  (s.wr .GRID_Q_STAT_BLANKS q (s.ops.filter (fun o => o.q == q && o.blank.isSome)).length).wr .GRID_Q_STAT_WAITING q
    (s.ops.filter (fun o => o.q == q && o.kind == 0x01 && o.phase == .placing)).length

/-- The granules of a footprint (3.7): rows and columns. -/
def granH (o : Op) : Nat := (blankRows o + drainRows o + 7) / 8
def granW (o : Op) : Nat := (blankCols o + 7) / 8

/-- An operation receives its blank in cycle `c` (R71, R72): 32 cycles of setup follow, and the next one reaches the head. -/
def placeBlank (s : State) (o : Op) (top left c : Nat) : State :=
  let s1 := { s with allocQ := s.allocQ.filter (· != o.id) }.setOp { o with
    blank := some ⟨left, top, granW o, granH o⟩, phase := .setup, startAt := c + 32 }
  (s1.startAlloc o.q c).syncBlanks o.q

/-- The scan of R72 goes on to cycle `c`: granule row `top` is examined in cycle a + 2 + top against the free bits of that cycle. An operation that is
not legal (R69) is not scanned for. `n` bounds the operations placed. Log entry 95, DEDUCED. -/
def scanTo (s : State) (q c : Nat) : Nat → State
  | 0 => s
  | n + 1 =>
    if s.h .halted q = 1 ∨ s.h .allocAt q = 0 then s
    else match s.allocHead q with
    | none => s
    | some o =>
      if !s.blankLegal q (blankRows o) (blankCols o) (drainRows o) then s
      else
        let a := s.h .allocAt q - 1
        let rows := 129 - granH o
        let lo := s.h .allocRow q
        let hi := min rows (c - (a + 1))
        match s.findPlace q (granH o) (granW o) lo hi with
        | some (top, left) => (s.placeBlank o top left (a + 2 + top)).scanTo q c n
        | none =>
          if rows ≤ hi then (((s.setH .allocAt q 0).setH .allocRow q 0).setH .allocWait q (a + 2 + rows)).setH .allocFree q 0
          else s.setH .allocRow q (max lo hi)

end State

end Sys2Proof.Machine
end

