-- ==== Sys2Proof/Machine/Mailbox.lean ====
section
/-! DEFINITION. Park records (R43, R47, R48), barriers (R208), completions and their posting (R314, R315, R318), and the end of an
operation. -/

namespace Sys2Proof.Machine

/-- A park record (Table 2-4) of operation `o`, written in turn `turn`. -/
def recordBytes (o : Op) (turn : Nat) : List Byte :=
  let w := o.tag % 2 ^ 32 + 2 ^ 32 * (o.problem % 4096) + 2 ^ 44 * o.q + 2 ^ 48 + (if o.overrun then 2 ^ 49 else 0) +
    (if o.spilled then 2 ^ 50 else 0) + (if o.degraded then 2 ^ 51 else 0) + 2 ^ 52 * (o.flags % 32) +
    2 ^ 64 * (turn % 2 ^ 64) + 2 ^ 128 * (o.rowRun % 2 ^ 32) + 2 ^ 160 * (o.nBlock % 2 ^ 32) +
    2 ^ 192 * (if bitsOf o.raw 0 8 = 1 then bitsOf o.raw 576 64 % 2 ^ 52 else 0) + 2 ^ 256 * (o.estCycles % 2 ^ 32) + 2 ^ 288 * (o.estTokens % 2 ^ 21) +
    2 ^ 320 * (o.spillBytes % 2 ^ 32) + 2 ^ 352 * (o.noProgress % 256) + 2 ^ 368 * (o.kChunk % 2 ^ 32)
  let body := toBytes w 50
  body ++ toBytes (crc16 0xFFFF body) 2 ++ List.replicate 12 0

/-- SPAN of a descriptor (Tables 4-4, 6-8). -/
def Op.span (o : Op) : Bool := bitsOf o.raw 8 1 == 1

/-- Descriptor estimates as submitted: EST_CYCLES, EST_TOKENS, CHUNK_CYCLES, whose places depend on the KIND. -/
def estOf (raw : Nat) : Nat × Nat × Nat :=
  match bitsOf raw 0 8 with
  | 0x01 => (bitsOf raw 480 32, bitsOf raw 512 21, bitsOf raw 544 32)
  | 0x20 => (bitsOf raw 256 32, bitsOf raw 288 21, bitsOf raw 320 32)
  | 0x10 => (bitsOf raw 768 32, bitsOf raw 800 21, bitsOf raw 832 32)
  | 0x30 => (bitsOf raw 192 32, bitsOf raw 224 21, bitsOf raw 256 32)
  | 0x40 => (bitsOf raw 256 32, bitsOf raw 288 21, bitsOf raw 320 32)
  | _ => (0, 0, 0)

namespace State

/-- The client of the turn scheduler (R43): class 9. -/
def schedClient (o : Op) : Client := ⟨o.q, ⟨9, 0⟩, o.tag, none⟩

/-- Quarter virtual address of park-record position `i` (R43, R44). -/
def parkVA (s : State) (q i : Nat) : Nat := s.rd .TURN_Q_PARK_VA q * 65536 + 64 * i

/-- The position of an operation's record: its own, or the lowest that no operation of the quarter holds (log entry 21, DESIGN CHOICE). -/
def recordPos (s : State) (o : Op) : Nat :=
  match o.record with
  | some i => i
  | none =>
    let used := s.ops.filterMap (fun p => if p.q = o.q then p.record else none)
    ((List.range 1024).find? (fun i => !used.contains i)).getD 0

/-- Writes or updates the park record of `o`; answers whether it was written. A fault of the write never stalls (R43). Log entry 65, DEDUCED. -/
def writeRecord (s : State) (o : Op) : State × Bool :=
  let i := s.recordPos o
  let o := { o with record := some i, parkTurn := s.rd .TURN_COUNT_COUNT 0 }
  let (s, r) := s.vwrite (schedClient o) (s.parkVA o.q i) (recordBytes o o.parkTurn)
  match r with
  | .ok _ => (s.setOp o, true)
  | .error e => if e < 32 then (s.mark .TURN_BAL_ERR_PARK_FAULT 0, false) else (s.setOp o, true)

/-- Clears VALID of an operation's park record. -/
def clearRecord (s : State) (o : Op) : State :=
  match o.record with
  | none => s
  | some i =>
    let va := s.parkVA o.q i
    let (s, r) := s.vread (schedClient o) va 64
    match r with
    | .error _ => s
    | .ok (d, _) =>
      let w := ofBytes d
      if bitsOf w 48 1 = 1 then (s.vwrite (schedClient o) va (toBytes (w - 2 ^ 48) 64)).1 else s

/-- Whether an operation holds an operation slot: admitted and not parked. -/
def holdsSlot (o : Op) : Bool :=
  o.phase == .placing || o.phase == .setup || o.phase == .running || o.phase == .testing || o.phase == .ended

/-- Parked operations of a quarter: parked(q) of R33. -/
def parkedCount (s : State) (q : Nat) : Nat := (s.ops.filter (fun o => o.q == q && (o.phase == .parked || o.phase == .resuming))).length

/-- Blank operations executing in a quarter (R26, R33). -/
def executing (s : State) (q : Nat) : Nat := (s.ops.filter (fun o => o.q == q && holdsSlot o)).length

/-- Index of barrier `b` of quarter `q`. -/
def barIdx (q b : Nat) : Nat := 64 * q + b

/-- R208: an operation that names a barrier increments COUNT on success and sets BROKEN otherwise. -/
def signalBar (s : State) (q b status : Nat) : State :=
  if status = 0 then
    let s1 := s.wr .SE_BAR_COUNT (barIdx q b) (s.rd .SE_BAR_COUNT (barIdx q b) + 1)
    -- the increment that releases a waiter lets it read 24 cycles later (R209)
    { s1 with ops := s1.ops.map (fun o => if o.q = q ∧ o.wait = some (b, s1.rd .SE_BAR_COUNT (barIdx q b)) then
        { o with relAt := s.now + 24 } else o) }
  else s.mark .SE_BAR_BROKEN (barIdx q b)

/-- R209: whether the wait of an operation is over. -/
def waitOver (s : State) (o : Op) : Bool :=
  match o.wait with
  | none => true
  | some (b, v) =>
    let d := (s.rd .SE_BAR_COUNT (barIdx o.q b) + 2 ^ 32 - v % 2 ^ 32) % 2 ^ 32
    decide (d < 2 ^ 31)

/-- R209: whether the barrier an operation still waits on is broken. -/
def waitBroken (s : State) (o : Op) : Bool :=
  match o.wait with
  | none => false
  | some (b, _) => !o.barOk && s.flag .SE_BAR_BROKEN (barIdx o.q b)

/-- R209: an operation's first A read, or first request, may issue: it has been, or its barrier lets it. -/
def barOpen (s : State) (o : Op) : Bool := o.barOk || (s.waitOver o && decide (o.relAt ≤ s.now))

/-- The function whose error record and vectors a page uses: 0 to 11 a quarter, 12 the PF. -/
def pageFn (page : Nat) : Nat := if page < 12 then page else 12

/-- The port of a page's ring traffic (R312): HOST_PORT of the quarter, PORT of a PF page. -/
def pagePort (s : State) (page : Nat) : Nat :=
  if page < 12 then s.rd .PT_Q_CFG_HOST_PORT page else s.rd .MB_SQ_CFG_PORT page

/-- The interrupt of a posted completion (Table 12-4): VF vector 0, PF vector 1 for the command page, 0 for the management
page. -/
def pageVector (s : State) (page : Nat) : State :=
  if page < 12 then s.raiseVf page 0
  else if page = 12 then s.sendMsix (s.pagePort 12) 0 1
  else if page = 13 then s.sendMsix (s.pagePort 13) 0 0
  else s

/-- R315: a ring fault. -/
def ringFault (s : State) (page : Nat) : State :=
  let s1 := (((s.mark .MB_STAT_RING_FAULT page).wr .MB_SQ_CFG_EN page 0).wr .MB_CQ_CFG_EN page 0).wr .MB_STAT_HANDSHAKE page 0
  if page < 12 then s1.raiseVf page 3 else s1.raisePf 2

/-- The client of the CP (Table 6-6). -/
def cpClient (q tag : Nat) : Client := ⟨q, ⟨10, 0⟩, tag, none⟩

/-- Ring bytes at `a` with LOC 1 must lie in an unpacked page of tier 0 or 1 (R312). -/
def locOk (s : State) (q a : Nat) : Bool :=
  match (s.translate q a false).2 with
  | .ok l => !ptePacked l.pte && decide (pteTier l.pte ≤ 1)
  | .error _ => true

/-- Reads ring bytes (R312): none is an error. -/
def ringRead (s : State) (page loc a n : Nat) : State × Option (List Byte) :=
  if loc = 0 then
    (s, if s.flag .PT_LINK_STAT_UP (s.pagePort page) then some ((List.range n).map (fun i => s.memByte 3 0 (a + i))) else none)
  else if page ≥ 12 ∨ s.locOk page a = false then (s, none)
  else match s.vread (cpClient page 0) a n with
    | (s, .ok (d, bad)) => (s, if bad then none else some d)
    | (s, .error _) => (s, none)

/-- Writes ring bytes; false is an error. -/
def ringWrite (s : State) (page loc a : Nat) (d : List Byte) : State × Bool :=
  if loc = 0 then
    (if s.flag .PT_LINK_STAT_UP (s.pagePort page) then (s.setBytes 3 0 a d, true) else (s, false))
  else if page ≥ 12 ∨ s.locOk page a = false then (s, false)
  else match s.vwrite (cpClient page 0) a d with
    | (s, .ok _) => (s, true)
    | (s, .error _) => (s, false)

/-- The number of a completion entry (Table 14-4). -/
def cplWord (s : State) (page phase : Nat) (c : Cpl) : Nat :=
  c.tag % 2 ^ 32 + 2 ^ 32 * s.rd .MB_STAT_SQ_HEAD page + 2 ^ 45 * (c.source % 8) + 2 ^ 48 * phase + 2 ^ 56 * (c.status % 256) +
    2 ^ 64 * (c.flags % 32) + (if c.degraded then 2 ^ 69 else 0) + 2 ^ 72 * (min c.failed 8191) +
    2 ^ 128 * (c.res0 % 2 ^ 64) + 2 ^ 192 * ((c.res1.getD (s.rd .TURN_COUNT_COUNT 0)) % 2 ^ 64)

/-- Entries held between two pointers that count modulo 2 × 2^`lg` (R312). -/
def ringHeld (tail head lg : Nat) : Nat := (tail + 2 * 2 ^ lg - head % (2 * 2 ^ lg)) % (2 * 2 ^ lg)

def cqFull (s : State) (page : Nat) : Bool :=
  ringHeld (s.rd .MB_STAT_CQ_TAIL page) (s.rd .MB_CQ_DB_HEAD page) (s.rd .MB_CQ_CFG_LOG2 page) ==
    2 ^ s.rd .MB_CQ_CFG_LOG2 page

/-- Posts a completion in the three steps of R314, or raises a ring fault (R315); answers whether it was posted. -/
def postNow (s : State) (page : Nat) (c : Cpl) : State × Bool :=
  let lg := s.rd .MB_CQ_CFG_LOG2 page
  let tail := s.rd .MB_STAT_CQ_TAIL page
  let phase := 1 - tail / 2 ^ lg % 2
  let a := s.rd .MB_CQ_CFG_BASE page * 4096 + 32 * (tail % 2 ^ lg)
  let (s1, ok) := s.ringWrite page (s.rd .MB_CQ_CFG_LOC page) a (toBytes (s.cplWord page phase c) 32)
  if ok then ((s1.wr .MB_STAT_CQ_TAIL page ((tail + 1) % (2 * 2 ^ lg))).pageVector page, true)
  else (s1.ringFault page, false)

/-- Completions have waited on a full ring in every cycle since `cqSince` (EV_CQ_FULL). -/
def endCqWait (s : State) (page : Nat) : State :=
  let since := s.h .cqSince page
  if since = 0 then s else (s.ev evCqFull (if page < 12 then page else 15) 0 (s.now + 1 - since)).setH .cqSince page 0

/-- Posts the waiting completions of a page in order while there is room (R314). `n` bounds them. -/
def drainCq (s : State) (page : Nat) : Nat → State
  | 0 => s
  | n + 1 =>
    match s.cqWait.find? (fun e => e.1 == page) with
    | none => s
    | some e =>
      if !s.flag .MB_CQ_CFG_EN page then s
      else if s.cqFull page then (if s.h .cqSince page = 0 then s.setH .cqSince page (s.now + 1) else s)
      else
        let (s1, ok) := (s.endCqWait page).postNow page e.2
        if ok then drainCq { s1 with cqWait := s1.cqWait.erase e } page n else s1

/-- A completion for a page: it joins the page's waiting list and is posted at once when nothing holds it back (R314). Completions
of the internal pair (page 14) have no reader. -/
def complete (s : State) (page : Nat) (c : Cpl) : State :=
  if page ≥ 14 then s
  else if c.source = 2 then
    let ph := 1 - s.h .urgPhase page
    let s1 := { s with urgRes := Tab.set 0 page (s.cplWord page ph c) s.urgRes }
    let s2 := (s1.setH .urgPhase page ph).wr .MB_URG_DB_BUSY page 0
    if page < 12 then s2.raiseVf page 1 else s2.sendMsix (s2.pagePort page) 0 1
  else
    let s1 := { s with cqWait := s.cqWait ++ [(page, c)] }
    s1.drainCq page (s1.cqWait.length)

/-- The index of buffer `b` of quarter `q`. -/
def bufIdx (q b : Nat) : Nat := 16 * q + b

/-- Releases the finished claims at the front of a buffer (R203): HEAD advances past each, FULL and CLAIMED fall. -/
def releaseClaims (s : State) (q b : Nat) : Nat → State
  | 0 => s
  | k + 1 =>
    match s.claims.find? (fun c => c.q == q && c.buf == b) with
    | none => s
    | some c =>
      if c.done then
        let i := bufIdx q b
        let slots := s.rd .SE_BUF_CFG_SLOTS_M1 i + 1
        let s1 := (s.wr .SE_BUF_PTR_HEAD i ((s.rd .SE_BUF_PTR_HEAD i + c.n) % slots)).wr .SE_BUF_PTR_FULL i
          (s.rd .SE_BUF_PTR_FULL i - c.n)
        let s2 := s1.wr .SE_BUF_PTR_CLAIMED i (s.rd .SE_BUF_PTR_CLAIMED i - c.n)
        releaseClaims { s2 with claims := s2.claims.erase c } q b k
      else s

/-- The claim of an operation ends with it (R203). -/
def endClaim (s : State) (o : Op) : State :=
  match o.bind with
  | none => s
  | some (b, _) =>
    let s1 := { s with claims := s.claims.map (fun (c : Claim) => if c.op = o.id then { c with done := true } else c) }
    s1.releaseClaims o.q b s1.claims.length

/-- Whether an operation's first read may be made as to its claim (R203): it has been, or the slots claimed are full; a problem's claim is its
group's. -/
def claimFull (s : State) (o : Op) : Bool :=
  match o.bind with
  | none => true
  | some (b, n) => o.claimOk || (
    let owner := match o.group with
      | some (g, _) => g
      | none => o.id
    let before := (s.claims.filter (fun c => c.q == o.q && c.buf == b)).takeWhile (fun c => c.op != owner)
    decide ((before.map (·.n)).sum + n ≤ s.rd .SE_BUF_PTR_FULL (bufIdx o.q b)))

/-- Status and RESULT0 of a group or plan whose members have all ended (R89, R322). A plan whose array faulted has its status set. -/
def memberStatus (p : Op) : Nat × Nat :=
  match p.lowBad with
  | none => (p.status.getD 0, 0)
  | some (j, st) => (p.status.getD st, j % 4096 + 2 ^ 16 * st)

/-- RESULT0 of an operation (Table 14-5): the committed cursor of a stream, the pages moved, the first failed problem or entry. -/
def opResult (o : Op) : Nat :=
  match o.kind with
  | 0x10 => o.rowRun + 2 ^ 32 * o.nBlock
  | 0x20 => o.rowRun
  | 0x02 | 0x03 => (memberStatus o).2
  | _ => o.res0

/-- The completion of an operation that has its status. -/
def opCpl (o : Op) (source status : Nat) : Cpl :=
  ⟨o.tag, source, status, o.flags, o.degraded, o.failed, opResult o, none⟩

/-- What a member's end leaves in its group or plan: the group's FLAGS and DEGRADED gather those of its members. Log entry 99, DESIGN CHOICE. -/
def memberEnd (p : Op) (i status flags : Nat) (degraded : Bool) : Op :=
  { p with
    left := p.left - 1, flags := p.flags ||| flags, degraded := p.degraded || degraded,
    failed := if status = 0 then p.failed else p.failed + 1,
    lowBad := if status = 0 then p.lowBad else match p.lowBad with
      | some (j, st) => if i < j then some (i, status) else some (j, st)
      | none => some (i, status) }

/-- Releases an operation's blank and slot: it leaves the executing ones (R72). Its slot was busy (EV_BLANK_BUSY) since its first
cycle. -/
def releaseBlank (s : State) (id : Nat) : State :=
  match s.op? id with
  | none => s
  | some o =>
    -- the rows examined so far saw its granules busy; they are free from the next cycle on (R72)
    let s0 := if o.blank.isSome then s.scanTo o.q s.now s.allocQ.length else s
    let s0 := if o.blank.isSome && s0.h .allocWait o.q != 0 && s0.h .allocFree o.q == 0 then s0.setH .allocFree o.q (s.now + 2) else s0
    let s1 := if o.blank.isSome && decide (o.startAt < s.now) then s0.ev evBlankBusy o.q o.slotNo (s.now - o.startAt) else s0
    s1.setOp { o with blank := none, preKey := none, preDone := false, actKey := none, preB := [], actB := [], units := [],
                      stalled := false, needs := [], unitNo := 0 }

/-- The end of an operation (R208, R314): its barrier is signalled, its park record freed, and its completion posted, or counted
in its group or plan, whose own end follows its last member. `n` bounds the nesting of group and plan. -/
def endOp (s : State) (id status : Nat) : Nat → State
  | 0 => s
  | n + 1 =>
    let s := s.releaseBlank id
    match s.op? id with
    | none => s
    | some o =>
      let s := (s.clearRecord o).endClaim o
      let s := match o.sig with
        | some b => s.signalBar o.q b status
        | none => s
      let s := s.dropOp id
      let parentEnd := fun (s : State) (pid i : Nat) =>
        match s.op? pid with
        | none => s
        | some p =>
          let p := memberEnd p i status o.flags o.degraded
          let s := s.setOp p
          if p.left = 0 ∧ p.phase = .members then
            endOp s pid (memberStatus p).1 n
          else s
      match o.group with
      | some (g, i) => parentEnd s g i
      | none =>
        match o.plan with
        | some (p, i) =>
          let s := if o.notify then s.complete o.page (opCpl o 1 status) else s
          parentEnd s p i
        | none => s.complete o.page (opCpl o o.source status)

/-- The end of operation `id` with a status. -/
def finish (s : State) (id status : Nat) : State := s.endOp id status 3

/-- Stands for a status where an access waits, on BUSY (R184) or on a full pool (R186): nothing completes, and the command or decision that made
the access is made again. -/
def stWait : Nat := 0x1FF

/-- Whether an access waits. -/
def accessWaits {α : Type} (r : Except Nat α) : Bool :=
  match r with
  | .error e => decide (32 ≤ e)
  | .ok _ => false

/-- The status that an access by the CP or the turn scheduler ends with where it fails for `cause`. -/
def accessStatus (cause : Nat) : Nat := if cause < 32 then stPageFault else stWait

/-- An operation completes with a status, or waits. -/
def finishWith (s : State) (id status : Nat) : State := if status = stWait then s else s.finish id status

/-- An operation parks (R41, R48): the estimates left, its record, its blank and slot. When the record's write faults, it ends with
page-fault (R43). -/
def parkOp (s : State) (id : Nat) (spilled overrun : Bool) (noProgress : Nat) : State :=
  match s.op? id with
  | none => s
  | some o =>
    let (_, _, chunk) := estOf o.raw
    let o1 : Op := { o with
      estCycles := max (o.estCycles - o.slice) chunk, estTokens := max (o.estTokens - o.charge) 1,
      spilled := spilled, overrun := overrun, noProgress := noProgress, phase := .parked, slice := 0, charge := 0, passed := 0,
      spillBytes := if spilled ∨ o.kind = 0x40 then o.spillBytes else 0 }
    let (s1, ok) := (s.setOp o1).writeRecord o1
    let s2 := { (s1.releaseBlank id).leaveAlloc id s.now with stalls := s1.stalls.filter (fun x => x.op != some id) }
    if ok then s2 else s2.finish id stPageFault

/-- Completes the commands in hand that wait for `u` (R319). -/
def lateDone (s : State) (u : Until) (status : Nat) : State :=
  (s.late.filter (fun (l : Late) => l.until_ == u)).foldl (fun (s : State) (l : Late) =>
    s.complete l.page ⟨l.tag, l.source, status, 0, false, 0, 0, none⟩)
    { s with late := s.late.filter (fun (l : Late) => l.until_ != u) }

/-- Forgets what the units of memory hold where `p tier unit address` (R127, R170): they read as zero, without poison. -/
def wipe (s : State) (p : Nat → Nat → Nat → Bool) : State :=
  let byteIn := fun (k : Nat) => p (k % 4) (k / 4 % 16) (k / 64)
  let lineIn := fun (k : Nat) => p (k % 4) (k / 4 % 16) (k / 64 * 64)
  { s with
    mem := Tab.keep (fun k => !byteIn k) s.mem, poison := Tab.keep (fun k => !lineIn k) s.poison,
    encTag := Tab.keep (fun k => !lineIn k) s.encTag, plaza := s.plaza.filter (fun (l : PLine) => !p l.tier l.unit l.addr) }

/-- R8: an access that the register's header line or description bars, of the register at BAR0 offset `off`. -/
def refuse (s : State) (a : Agent) (off : Nat) : State := s.fnErr (agentNo a) 1 off

end State

end Sys2Proof.Machine
end

