-- ==== Sys2Proof/Machine/Grid.lean ====
section
/-! DEFINITION. The tile grid (chapter 03): fences, strips, the sizes of quarters, and the blank allocator. -/

namespace Sys2Proof.Machine

namespace State

/-- Whether spare row `y` of strip `k` is unused (R61). -/
def spareUnused (s : State) (k y : Nat) : Bool :=
  let ret := match s.holder k with
    | some q => s.retiredSet q
    | none => (s.strip k).retired
  decide (1024 ≤ y) && (ret.contains y || decide (nthRow ret 1040 0 1023 < y))

/-- Applies one fence to the records of its strip (R61, Table 3-4); the rows of the table in order. -/
def applyFence (s : State) (x y : Nat) : State :=
  if s.fenced.contains (x, y) then s
  else
    let k := x / 65
    let u := x % 65
    let st := s.strip k
    let s1 := { s with fenced := s.fenced ++ [(x, y)] }
    let alley := Tab.get 64 y st.alleys != 64
    let spareOut := st.spareOut.contains y
    if st.retired.contains y then s1
    else if s.spareUnused k y && (alley || spareOut) then s1.setStrip k { st with retired := st.retired ++ [y] }
    else if !alley && u == 64 then s1.setStrip k { st with spareOut := st.spareOut ++ [y] }
    else if !alley && !spareOut then s1.setStrip k { st with alleys := Tab.insert y u st.alleys }
    else s1.setStrip k { st with retired := st.retired ++ [y] }

/-- An unfence (GRID_FENCE_REQ ACTION 1): the tile rejoins as an unused position; the map stays (log entry 23, DEDUCED). -/
def applyUnfence (s : State) (x y : Nat) : State :=
  let k := x / 65
  let st := s.strip k
  let s1 := { s with fenced := s.fenced.filter (· != (x, y)) }
  if x % 65 = 64 then s1.setStrip k { st with spareOut := st.spareOut.filter (· != y) } else s1

/-- Taps in service of precinct `py` of strip `k` (R135). -/
def tapsUp (s : State) (k py : Nat) : Nat := ((List.range 16).filter (fun i => (s.tapTile (16 * k + py) i).isSome)).length

/-- Writes what the records of strip `k` give GRID_STRIP_STATE (R62, R135); `old` is the state before the fences. -/
def syncStrip (old s : State) (k : Nat) : State :=
  let st := s.strip k
  let lost := ((List.range 16).filter (fun py => decide (s.tapsUp k py < 16))).length
  let s1 := (s.wr .GRID_STRIP_STATE_ALLEYS k st.alleys.length).wr .GRID_STRIP_STATE_RETIRED k (min st.retired.length 16)
  let s2 := (s1.wr .GRID_STRIP_STATE_ADJ k (if noAdjacent st.retired then 0 else 1)).wr .GRID_STRIP_STATE_TAPS k (min lost 15)
  let s3 := if (List.range 16).any (fun py => decide (s.tapsUp k py < old.tapsUp k py)) then s2.mark .GRID_FENCE_STAT_TAPS_LOST 0 else s2
  if st.retired.length ≥ 14 then s3.mark .GRID_FENCE_STAT_SPARES_LOW 0 else s3

/-- R62, R135: a strip's records put it out of service. -/
def stripBad (s : State) (k : Nat) : Bool :=
  let st := s.strip k
  decide (16 < st.retired.length) || !noAdjacent st.retired || (List.range 16).any (fun py => decide (s.tapsUp k py < 8))

/-- A strip leaves a quarter into CLEARING (R68). -/
def startClearing (s : State) (k : Nat) : State := s.wr .GRID_STRIP_STATE_STATE k 2

/-- The runs of consecutive strips among those of a quarter that stay in service and satisfy R63, as (first, count). -/
def runsOf (s : State) (q : Nat) : List (Nat × Nat) :=
  let ks := s.stripsOf q
  (ks.flatMap (fun a => (List.range (ks.length + 1)).map (fun n => (a, n)))).filter (fun r =>
    let run := (List.range r.2).map (fun i => r.1 + i)
    let ret := s.retiredOf run
    decide (1 ≤ r.2) && run.all (fun k => ks.contains k && s.rd .GRID_STRIP_STATE_STATE k == 1) &&
      decide (ret.length ≤ 16) && noAdjacent ret)

/-- PENDING of GRID_Q_STRIPS: staged assignment differs from active. -/
def syncPending (s : State) (q : Nat) : State :=
  let same := s.rd .GRID_Q_STRIPS_COUNT q = s.rd .GRID_Q_STRIPS_COUNT_ACT q ∧
    (s.rd .GRID_Q_STRIPS_COUNT q = 0 ∨ s.rd .GRID_Q_STRIPS_FIRST q = s.rd .GRID_Q_STRIPS_FIRST_ACT q)
  s.wr .GRID_Q_STRIPS_PENDING q (if same then 0 else 1)

/-- R63: when a quarter's strips break the rule, or one has left service, it keeps its longest run, the westmost of equals. -/
def trimQuarter (s : State) (q : Nat) : State :=
  let ks := s.stripsOf q
  let ret := s.retiredSet q
  if ks.all (fun k => s.rd .GRID_STRIP_STATE_STATE k == 1) && decide (ret.length ≤ 16) && noAdjacent ret then s
  else
    let best : Nat × Nat := (s.runsOf q).foldl (fun b r => if b.2 < r.2 then r else b) (0, 0)
    let s1 := ks.foldl (fun (s : State) (k : Nat) =>
      if s.rd .GRID_STRIP_STATE_STATE k = 1 ∧ ¬ (best.1 ≤ k ∧ k < best.1 + best.2) then s.startClearing k else s) s
    let s2 := ((s1.wr .GRID_Q_STRIPS_FIRST_ACT q best.1).wr .GRID_Q_STRIPS_COUNT_ACT q best.2).mark .GRID_FENCE_STAT_Q_SPLIT 0
    ((s2.wr .GRID_Q_STRIPS_FIRST q best.1).wr .GRID_Q_STRIPS_COUNT q best.2).syncPending q

/-- Change 1 of Table 2-6: the staged fences in order, then the strips and quarters they put out of service (R61 to R63). -/
def applyFences (s : State) : State :=
  if s.fences.isEmpty then s else
  let s1 := s.fences.foldl (fun s f => if f.undo then s.applyUnfence f.x f.y else s.applyFence f.x f.y) s
  let s2 := { s1 with fences := [] }
  let s3 := ((s2.wr .GRID_FENCE_STAT_PENDING 0 0).wr .GRID_FENCE_STAT_BUSY 0 0).wr .GRID_FENCE_STAT_FENCED_TOTAL 0 s2.fenced.length
  let s4 := (List.range s.nStrips).foldl (fun t k =>
    let t := syncStrip s t k
    if t.stripBad k ∧ t.rd .GRID_STRIP_STATE_STATE k ≠ 3 then
      (t.wr .GRID_STRIP_STATE_STATE k 3).mark .GRID_FENCE_STAT_STRIP_OUT 0
    else t) s3
  (List.range s.nQ).foldl (fun s q => if s.rd .GRID_Q_STRIPS_COUNT_ACT q = 0 then s else s.trimQuarter q) s4

/-- R66: whether the staged assignment of `q` may be applied. A re-size whose retired set would break R63 is refused. Log entry 96, DEDUCED. -/
def assignOk (s : State) (q : Nat) : Bool :=
  let first := s.rd .GRID_Q_STRIPS_FIRST q
  let count := s.rd .GRID_Q_STRIPS_COUNT q
  let new := (List.range count).map (fun i => first + i)
  let ret := s.retiredOf new
  decide (first + count ≤ s.nStrips) &&
    new.all (fun k => (s.stripsOf q).contains k || s.rd .GRID_STRIP_STATE_STATE k == 0) &&
    decide (ret.length ≤ 16) && noAdjacent ret

/-- Scratchpad contents of a quarter are lost (R128). -/
def loseScratch (s : State) (q : Nat) : State := s.addH .scratchEpoch q 1

/-- A quarter that held no strip takes strips that are FREE: their slices hold zero (R68). -/
def zeroScratch (s : State) (q : Nat) : State := (s.wipe (fun t u _ => t == 0 && u == q)).setH .scratchEpoch q 0

/-- The cache lines in the ways that become scratchpad (R128), when `n` ways of each slice stay cache: which of a set's lines lie in them is a free
value, and no more than `n` stay. Log entry 11, DESIGN CHOICE. -/
def takenLines (s : State) (q n : Nat) : List PLine :=
  let out := fun (l : PLine) => Config.wayTaken (s.h .scratchEpoch q) (mkey l.tier l.unit l.addr)
  let set_ := fun (l : PLine) => (l.slice, Config.plazaSet (mkey l.tier l.unit (l.addr / 256)) % 8192)
  let ls := s.plaza.filter (fun l => l.q == q)
  ls.zipIdx.filterMap (fun e =>
    if out e.1 then some e.1
    else if n ≤ ((ls.take e.2).filter (fun l => !out l && set_ l == set_ e.1)).length then some e.1 else none)

/-- What a change of P or of SCRATCH_ACT brings (R128, R133): `oldP` and `oldWays` were in force before the window. -/
def settleSize (s : State) (q oldP oldWays : Nat) : State :=
  let ways := s.rd .PLZ_Q_CFG_SCRATCH_ACT q
  let s1 := if oldWays < ways then s.flushLines (s.takenLines q (12 - ways)) else s
  let s2 := if s.precincts q = oldP ∧ ways = oldWays then s1 else if oldP = 0 then s1.zeroScratch q else s1.loseScratch q
  if s.precincts q = oldP then s2 else (s2.mark .PLZ_Q_CFG_REHOME q).setH .scanAt (16 + q) s.now

/-- P and SCRATCH_ACT of every quarter. -/
def sizesOf (s : State) : List (Nat × Nat) := (List.range s.nQ).map (fun q => (s.precincts q, s.rd .PLZ_Q_CFG_SCRATCH_ACT q))

/-- The fences are applied before the grid enters service (R74), with what they change of P. -/
def refence (s : State) : State :=
  let s1 := s.applyFences
  s.sizesOf.zipIdx.foldl (fun (t : State) (e : (Nat × Nat) × Nat) => t.settleSize e.2 e.1.1 e.1.2) s1

/-- A change of the strips or the ways of `q` is not applied: it stays staged and stands in the record of the function that staged it (R51, R66). -/
def sizeRefused (s : State) (q : Nat) : State :=
  (s.mark .GRID_Q_STAT_RESIZE_FAIL q).fnErr (if s.h .sizeBy q = 0 then 13 else s.h .sizeBy q - 1) 3 (0x40200 + 16 * q)

/-- Applies the staged assignment and scratchpad ways of `q` (R66, R68). -/
def applyAssign (s : State) (q : Nat) : State :=
  let first := s.rd .GRID_Q_STRIPS_FIRST q
  let count := s.rd .GRID_Q_STRIPS_COUNT q
  let changed := s.flag .GRID_Q_STRIPS_PENDING q
  if changed && !s.assignOk q then s.sizeRefused q
  else
    let old := s.stripsOf q
    let s1 := if changed then
        let new := (List.range count).map (fun i => first + i)
        let s1 := new.foldl (fun s k => (s.wr .GRID_STRIP_STATE_STATE k 1).wr .GRID_STRIP_STATE_OWNER k q) s
        let s2 := old.foldl (fun s k => if new.contains k then s else s.startClearing k) s1
        (s2.wr .GRID_Q_STRIPS_FIRST_ACT q (if count = 0 then 0 else first)).wr .GRID_Q_STRIPS_COUNT_ACT q count
      else s
    (s1.wr .PLZ_Q_CFG_SCRATCH_ACT q (s.rd .PLZ_Q_CFG_SCRATCH_WAYS q)).syncPending q

/-- A tile becomes suspect in its quarter (R74), up to 8 in a turn; answers whether it is suspect now. -/
def suspect (s : State) (x y : Nat) : State × Bool :=
  match s.holder (x / 65) with
  | none => (s, true)
  | some q =>
    if s.suspects.any (fun t => t.q == q && t.x == x && t.y == y) then (s, true)
    else
      -- the rows examined so far saw its granule free (R72, R74)
      let s := s.scanTo q (s.now - 1) s.allocQ.length
      let n := (s.suspects.filter (fun t => t.q == q)).length
      if n ≥ 8 then (s, false)
      else (({ s with suspects := s.suspects ++ [(⟨q, x, y⟩ : Suspect)] } : State).wr .GRID_Q_STAT_SUSPECTS q (n + 1), true)

/-- A fence request (R74): ACTION 0 fence, 1 unfence, which only an MC request may ask (`fromMc`); others refused. -/
def fenceReq (s : State) (x y action : Nat) (fromMc : Bool) : State :=
  let refuse := s.mark .GRID_FENCE_STAT_REFUSED 0
  if x ≥ s.nCols ∨ y ≥ 1040 ∨ s.fences.length ≥ 64 ∨ action ≥ 2 ∨ (action = 1 ∧ fromMc = false) then refuse
  else
    let put := fun (s : State) =>
      let s1 := { s with fences := s.fences ++ [(⟨x, y, action == 1⟩ : Fence)] }
      (s1.wr .GRID_FENCE_STAT_PENDING 0 s1.fences.length).mark .GRID_FENCE_STAT_BUSY 0
    if action = 1 then put s
    else
      let (s1, ok) := s.suspect x y
      if ok then put s1 else refuse

/-- The allocator of `q` up to the present cycle (R69, R71, R72): an operation that is not legal completes in the cycle after it reached the head; for
the others the scan runs. `n` bounds the operations. -/
def allocate (s : State) (q : Nat) : Nat → State
  | 0 => s
  | n + 1 =>
    let s := s.scanTo q s.now s.allocQ.length
    match s.allocHead q with
    | none => s
    | some o =>
      let a := s.h .allocAt q
      if s.h .halted q = 1 ∨ a = 0 ∨ s.now < a ∨ s.blankLegal q (blankRows o) (blankCols o) (drainRows o) = true then s
      else (((s.finish o.id stBlankTooLarge).startAlloc q a).syncBlanks q).allocate q n

/-- A waiting allocator starts again as though its operation had reached the head in the cycle in which the release takes effect (R72); it has waited
in every cycle since it examined the last row. -/
def retryAlloc (s : State) (q : Nat) : State :=
  let a := s.h .allocFree q
  if s.h .allocWait q = 0 ∨ a = 0 then s else (s.ev evBlankWait q 0 (a - s.h .allocWait q)).startAlloc q (a - 1)

end State

/-- BLANK_ALLOCATION (R69, R71, R72): the allocator of `q` in cycle `t`. -/
def execBlankAllocation (q t : Nat) (s : State) : Host.Outcome State Fault Refusal :=
  let s := s.goTo t
  .next (s.allocate q (s.allocQ.length + 1))

/-- ALLOCATOR_RETRY (R72): a release has taken effect, and the waiting allocator starts again. -/
def execAllocatorRetry (q t : Nat) (s : State) : Host.Outcome State Fault Refusal :=
  let s := (s.goTo t).retryAlloc q
  .next (s.allocate q (s.allocQ.length + 1))

/-- STRIP_CLEARED (R68): the released strip is written back, zeroed and FREE: its slices, its pockets and its accumulators hold zero (log
entry 106, DEDUCED). -/
def execStripCleared (k : Nat) (s : State) : Host.Outcome State Fault Refusal :=
  if s.rd .GRID_STRIP_STATE_STATE k = 2 then
    let ls := s.plaza.filter (fun l => l.slice / 16 == k)
    .next ((s.flushLines ls).wr .GRID_STRIP_STATE_STATE k 0)
  else .next s

/-- REHOME_SCAN_COMPLETE (R133), at least 98,304 cycles after the change: every line whose home has moved is written back and invalidated, and REHOME clears. -/
def execRehomeScanComplete (q : Nat) (s : State) : Host.Outcome State Fault Refusal :=
  if s.flag .PLZ_Q_CFG_REHOME q ∧ s.h .scanAt (16 + q) + 98304 ≤ s.now then
    let ls := s.plaza.filter (fun l => l.q == q && l.slice != s.homeSlice q l.tier l.unit l.addr)
    .next ((s.flushLines ls).wr .PLZ_Q_CFG_REHOME q 0)
  else .next s

end Sys2Proof.Machine
end

