-- ==== Sys2Proof/Machine/Operands.lean ====
section
/-! DEFINITION. Descriptors (Tables 4-4, 4-6, 4-8, 4-9) and operands: their fields, their validation (Tables 4-1, 4-7; R90 to R94), and the reading
of operand elements in every storage format (Tables 4-5, 5-6; R116 to R118, R150). -/

namespace Sys2Proof.Machine

/-- Fields of a matrix-operation descriptor (Table 4-4). -/
def mCanon (d : Nat) : Bool := bitsOf d 9 1 == 1
def mTclass (d : Nat) : Bool := bitsOf d 10 1 == 1
def mFp32 (d : Nat) : Bool := bitsOf d 11 1 == 1
def mTransB (d : Nat) : Bool := bitsOf d 12 1 == 1
def mRnd (d : Nat) : Nat := bitsOf d 13 2
def mDrain (d : Nat) : Nat := bitsOf d 15 3
def mHist (d : Nat) : Nat := bitsOf d 18 6
def mOutFmt (d : Nat) : Nat := bitsOf d 24 3
def mAFmt (d : Nat) : Nat := bitsOf d 32 3
def mBFmt (d : Nat) : Nat := bitsOf d 36 3
def mR (d : Nat) : Nat := bitsOf d 40 11
def mC (d : Nat) : Nat := bitsOf d 52 11
def mM (d : Nat) : Nat := bitsOf d 64 32
def mK (d : Nat) : Nat := bitsOf d 96 32
def mN (d : Nat) : Nat := bitsOf d 128 32
def mRowRun (d : Nat) : Nat := bitsOf d 160 13
def mNb (d : Nat) : Nat := bitsOf d 176 9
def mAva (d : Nat) : Nat := bitsOf d 192 64
def mAld (d : Nat) : Nat := bitsOf d 256 32
def mBld (d : Nat) : Nat := bitsOf d 288 32
def mBva (d : Nat) : Nat := bitsOf d 320 64
def mCva (d : Nat) : Nat := bitsOf d 384 64
def mCld (d : Nat) : Nat := bitsOf d 448 32
def mSpill (d : Nat) : Nat := bitsOf d 576 64
def mOpnd (d : Nat) : Nat := bitsOf d 640 64
def mStep (d s : Nat) : Nat := bitsOf d (704 + 8 * s) 8
def mAsc (d : Nat) : Nat := bitsOf d 768 64
def mBsc (d : Nat) : Nat := bitsOf d 832 64
def mCsc (d : Nat) : Nat := bitsOf d 896 64
def stepOp (b : Nat) : Nat := b % 32
def stepSrc (b : Nat) : Nat := b / 32

/-- Residency depth KR (Table 4-1); none where no row matches. -/
def residencyDepth (d : Nat) : Option Nat :=
  let k := mK d
  let r := mR d
  let span := if mFp32 d then r - 1 else 2 * (r - 1)
  let tall := if mFp32 d then 513 else 257
  let unit := if mFp32 d then 512 else 256
  if mCanon d then
    (if k ≤ 512 ∧ k ≤ span then some k else if k > 512 ∧ r ≥ tall then some 512 else none)
  else if k ≤ span then some k
  else if r ≥ tall then some (512 * ((r - 1) / unit))
  else none

/-- Columns of an n-block, and how many n-blocks, residencies and row runs an operation has (R77 to R79). -/
def mCols (d : Nat) : Nat := mC d - 1
def mBlocks (d : Nat) : Nat := cdiv (mN d) (mCols d)
def mKr (d : Nat) : Nat := (residencyDepth d).getD 1
def mResid (d : Nat) : Nat := cdiv (mK d) (mKr d)
def mRuns (d : Nat) : Nat := cdiv (mM d) (mRowRun d)

/-- Reserved bits and the bits 63:52 of addresses (R88). -/
def matrixReserved (d : Nat) : Bool :=
  bitsOf d 27 5 != 0 || bitsOf d 35 1 != 0 || bitsOf d 39 1 != 0 || bitsOf d 51 1 != 0 || bitsOf d 63 1 != 0 ||
    bitsOf d 173 3 != 0 || bitsOf d 185 7 != 0 || bitsOf d 533 11 != 0 || bitsOf d 960 64 != 0 ||
    [mAva d, mBva d, mCva d, mSpill d, mOpnd d, mAsc d, mBsc d, mCsc d].any (fun a => decide (2 ^ 52 ≤ a))

/-- Legal OP and SRC pairs (Table 4-8). -/
def stepLegal (b : Nat) : Bool :=
  match stepOp b with
  | 0 => stepSrc b == 0
  | 1 => 1 ≤ stepSrc b && stepSrc b ≤ 4
  | 2 => 1 ≤ stepSrc b && stepSrc b ≤ 5
  | 3 => stepSrc b == 1 || stepSrc b == 2
  | 4 => stepSrc b == 1 || stepSrc b == 2
  | 5 => stepSrc b == 6
  | 6 => stepSrc b == 0
  | 7 => stepSrc b == 0
  | 8 => stepSrc b == 0
  | 9 => stepSrc b == 0
  | _ => false

/-- R91, R92, R94: the steps of a descriptor obey their rules. -/
def stepsOk (d : Nat) : Bool :=
  let st := (List.range 8).map (mStep d)
  let inUse := fun s => decide (s < 2 * mDrain d)
  (List.range 8).all (fun s => stepLegal (mStep d s) && (inUse s || stepOp (mStep d s) == 0)) &&
    decide ((st.filter (fun b => stepSrc b == 4)).length ≤ 1) &&
    (List.range 4).all (fun u =>
      let pair := [mStep d (2 * u), mStep d (2 * u + 1)]
      decide ((pair.map (fun b => if stepSrc b = 2 then mNb d else if stepSrc b = 6 then 196 else 0)).sum ≤ 256) &&
        decide ((pair.filter (fun b => stepSrc b == 3 || stepOp b == 6 || stepOp b == 7)).length ≤ 1))

/-- Whether step slot `s` uses its operand entry (R92). -/
def needsEntry (b : Nat) : Bool :=
  stepSrc b == 1 || stepSrc b == 2 || stepSrc b == 3 || stepSrc b == 4 || stepSrc b == 6 || stepOp b == 6 || stepOp b == 7

/-- Table 4-9: an operand entry in the form its step needs. -/
def entryOk (b e : Nat) : Bool :=
  let fmt := bitsOf e 96 3
  let va := bitsOf e 0 64
  fmt ≤ 1 && bitsOf e 99 29 == 0 && (stepSrc b == 4 || bitsOf e 64 32 == 0) &&
    (!(stepOp b == 6 || stepOp b == 7 || stepSrc b == 6) || fmt == 0) &&
    (if stepSrc b = 1 then (if fmt = 0 then va < 2 ^ 32 else va < 2 ^ 16) else va < 2 ^ 52)

/-- The rows of Table 4-7 that a matrix descriptor alone decides, in order: its status where one fails. -/
def matrixInvalid (d : Nat) : Bool :=
  matrixReserved d || mRnd d == 3 || decide (4 < mDrain d) || decide (4 ≤ mOutFmt d) || mAFmt d == 7 || mBFmt d == 7 ||
    (if mFp32 d then mAFmt d != 1 || mBFmt d != 1 else mAFmt d == 1 || mBFmt d == 1) ||
    mM d == 0 || mK d == 0 || mN d == 0 || mRowRun d == 0 || decide (4096 < mRowRun d) || mNb d == 0 || decide (256 < mNb d) ||
    (residencyDepth d).isNone ||
    ((mOutFmt d == 2 || mOutFmt d == 3) && (mC d + 31) % 32 != 0) || !stepsOk d

/-- Bits of an element in storage format `fmt` (Table 4-5). -/
def elemBits (fmt : Nat) : Nat :=
  match fmt with
  | 0 => 16
  | 1 => 32
  | 2 => 8
  | 3 => 8
  | 4 => 6
  | 5 => 6
  | _ => 4

/-- Data of operand elements: values, flags, poison. -/
structure Elems where
  vals : List Nat
  flags : Nat
  poison : Bool
  deriving DecidableEq, Repr

namespace State

/-- Stored codes `i0` to `i0 + n - 1` of a stored row of `w`-bit elements at `rowVA` (R116, R117). -/
def readCodes (s : State) (c : Client) (rowVA w i0 n : Nat) : State × Except Nat (List Nat × Bool) :=
  let b0 := i0 * w / 8
  let b1 := ((i0 + n) * w + 7) / 8
  match s.vread c (rowVA + b0) (b1 - b0) with
  | (s, .error e) => (s, .error e)
  | (s, .ok (d, bad)) =>
    let x := ofBytes d
    (s, .ok ((List.range n).map (fun i => bitsOf x ((i0 + i) * w - 8 * b0) w), bad))

/-- Elements `i0` to `i0 + n - 1` of a stored row, each with the scale byte that `scale` gives it, widened as they enter a blank
(R118); FP16 and FP32 pass unchanged. -/
def readElems (s : State) (c : Client) (fmt rowVA i0 n : Nat) (scale : Nat → Nat) : State × Except Nat Elems :=
  match s.readCodes c rowVA (elemBits fmt) i0 n with
  | (s, .error e) => (s, .error e)
  | (s, .ok (cs, bad)) =>
    if fmt < 2 then (s, .ok ⟨cs, 0, bad⟩)
    else
      let rs := cs.zipIdx.map (fun e => widenMx fmt (scale (i0 + e.2)) e.1)
      (s, .ok ⟨rs.map (·.1), rs.foldl (fun f r => f ||| r.2) 0, bad⟩)

/-- Row `t` of A from k index `k0`, `n` elements (R76, R88, R116). -/
def readA (s : State) (c : Client) (d t k0 n : Nat) : State × Except Nat Elems :=
  let kb := cdiv (mK d) 32
  if mAFmt d < 2 then s.readElems c (mAFmt d) (mAva d + t * mAld d) k0 n (fun _ => 0)
  else
    let j0 := k0 / 32
    match s.vread c (mAsc d + t * kb + j0) ((k0 + n - 1) / 32 - j0 + 1) with
    | (s, .error e) => (s, .error e)
    | (s, .ok (sc, bad)) =>
      match s.readElems c (mAFmt d) (mAva d + t * mAld d) k0 n (fun k => (sc.getD (k / 32 - j0) 0).toNat) with
      | (s, .error e) => (s, .error e)
      | (s, .ok el) => (s, .ok { el with poison := el.poison || bad })

/-- Applies `f` to each index in turn, stopping at the first fault. -/
def collect (s : State) (f : State → Nat → State × Except Nat Elems) : List Nat → State × Except Nat (List Elems)
  | [] => (s, .ok [])
  | i :: is =>
    match f s i with
    | (s, .error e) => (s, .error e)
    | (s, .ok x) =>
      match collect s f is with
      | (s, .error e) => (s, .error e)
      | (s, .ok xs) => (s, .ok (x :: xs))

/-- Column `n` of B over k indices `k0` to `k0 + m - 1`, B stored N × K (TRANS_B), or from the generation replica `rep`, a ledger
entry (R150). -/
def readBcol (s : State) (c : Client) (d n k0 m : Nat) (rep : Option Nat) : State × Except Nat Elems :=
  let kb := cdiv (mK d) 32
  match rep with
  | some e =>
    let rowBytes := bitsOf e 256 32
    let el := elemBits (bitsOf e 24 2) / 8
    let rowLen := rowBytes / el
    let rho := n + (mBva d - bitsOf e 64 64) / rowBytes
    let f := (mBva d - bitsOf e 64 64) % rowBytes / el
    let scVA := bitsOf e 384 64 + cdiv rowLen 32 * rho
    let j0 := (f + k0) / 32
    match s.vread c (scVA + j0) ((f + k0 + m - 1) / 32 - j0 + 1) with
    | (s, .error e) => (s, .error e)
    | (s, .ok (sc, bad)) =>
      match s.readElems c 6 (bitsOf e 320 64 + cdiv rowLen 2 * rho) (f + k0) m (fun k => (sc.getD (k / 32 - j0) 0).toNat) with
      | (s, .error e) => (s, .error e)
      | (s, .ok el) => (s, .ok { el with poison := el.poison || bad })
  | none =>
    if mBFmt d < 2 then s.readElems c (mBFmt d) (mBva d + n * mBld d) k0 m (fun _ => 0)
    else
      let j0 := k0 / 32
      match s.vread c (mBsc d + n * kb + j0) ((k0 + m - 1) / 32 - j0 + 1) with
      | (s, .error e) => (s, .error e)
      | (s, .ok (sc, bad)) =>
        match s.readElems c (mBFmt d) (mBva d + n * mBld d) k0 m (fun k => (sc.getD (k / 32 - j0) 0).toNat) with
        | (s, .error e) => (s, .error e)
        | (s, .ok el) => (s, .ok { el with poison := el.poison || bad })

/-- Row `k` of B, columns `n0` to `n0 + m - 1`, B stored K × N. -/
def readBrow (s : State) (c : Client) (d k n0 m : Nat) : State × Except Nat Elems :=
  let kb := cdiv (mK d) 32
  if mBFmt d < 2 then s.readElems c (mBFmt d) (mBva d + k * mBld d) n0 m (fun _ => 0)
  else
    match s.collect (fun s n => match s.vread c (mBsc d + n * kb + k / 32) 1 with
        | (s, .error e) => (s, .error e)
        | (s, .ok (b, bad)) => (s, .ok ⟨[(b.getD 0 0).toNat], 0, bad⟩)) ((List.range m).map (fun i => n0 + i)) with
    | (s, .error e) => (s, .error e)
    | (s, .ok scs) =>
      match s.readElems c (mBFmt d) (mBva d + k * mBld d) n0 m (fun n => ((scs.getD (n - n0) ⟨[], 0, false⟩).vals).getD 0 0) with
      | (s, .error e) => (s, .error e)
      | (s, .ok el) => (s, .ok { el with poison := el.poison || scs.any (·.poison) })

/-- B of one residency and n-group (R76, R82): n-block by n-block, column by column, k indices in increasing order; flags and
poison. Columns at or beyond N are not listed: they are masked (R78). -/
def readB (s : State) (c : Client) (d nb0 k0 : Nat) (rep : Option Nat) : State × Except Nat (List (List (List Nat)) × Nat × Bool) :=
  let m := min (mKr d) (mK d - k0)
  let nbs := (List.range (min (mNb d) (mBlocks d - nb0))).map (fun b => nb0 + b)
  let colsOf := fun b => (List.range (min (mCols d) (mN d - b * mCols d))).map (fun j => b * mCols d + j)
  let cols := nbs.flatMap colsOf
  if mTransB d then
    match s.collect (fun s n => s.readBcol c d n k0 m rep) cols with
    | (s, .error e) => (s, .error e)
    | (s, .ok es) =>
      let at_ := fun n => (es.getD (n - nb0 * mCols d) ⟨[], 0, false⟩).vals
      (s, .ok (nbs.map (fun b => (colsOf b).map at_), es.foldl (fun f e => f ||| e.flags) 0, es.any (·.poison)))
  else
    match s.collect (fun s k => s.readBrow c d (k0 + k) (nb0 * mCols d) cols.length) (List.range m) with
    | (s, .error e) => (s, .error e)
    | (s, .ok es) =>
      let at_ := fun n => es.map (fun e => e.vals.getD (n - nb0 * mCols d) 0)
      (s, .ok (nbs.map (fun b => (colsOf b).map at_), es.foldl (fun f e => f ||| e.flags) 0, es.any (·.poison)))

end State

end Sys2Proof.Machine
end

