-- ==== Sys2Proof/Machine/Flags.lean ====
section
/-! DEFINITION. Sticky flags (R114, NUM_FLAGS) and the grain histogram (R120 to R123). -/

namespace Sys2Proof.Machine

/-- The counter and the biased exponent of an element that passes a HIST step (Table 5-9): 0 to 63 a bin, 64 ZERO, 65 SUB, 66 INF,
67 NAN. -/
def histClass (x : Nat) : Nat × Nat :=
  let ex := bitsOf x 23 8
  let man := bitsOf x 0 23
  if ex = 255 then (if man = 0 then 66 else 67, ex)
  else if ex = 0 then (if man = 0 then 64 else 65, ex)
  else (ex / 4, ex)

namespace State

/-- Merges a flag set into NUM_FLAGS of a quarter (R114). -/
def mergeFlags (s : State) (q fl : Nat) : State :=
  [(0, Fld.NUM_FLAGS_NX), (1, .NUM_FLAGS_UF), (2, .NUM_FLAGS_OF), (3, .NUM_FLAGS_NV), (4, .NUM_FLAGS_ESAT)].foldl
    (fun (s : State) (e : Nat × Fld) => if bitsOf fl e.1 1 = 1 then s.mark e.2 q else s) s

/-- One count of a slot's counter `cls` (R121). -/
def histCount (s : State) (q slot : Nat) (e : Nat × Nat) : State :=
  let sl := 64 * q + slot
  let (cnt, sat, i) := if e.1 < 64 then (Fld.GH_BIN_COUNT, Fld.GH_BIN_SAT, 64 * sl + e.1)
    else (Fld.GH_SPECIAL_COUNT, Fld.GH_SPECIAL_SAT, 4 * sl + (e.1 - 64))
  let n := min (s.rd cnt i + 1) (2 ^ 48 - 1)
  let s1 := s.wr cnt i n
  let s2 := if n = 2 ^ 48 - 1 then (s1.mark sat i).mark .GH_CTRL_ANY_SAT sl else s1
  if e.1 < 64 ∧ s2.rd .GH_CTRL_MAXEXP sl < e.2 then s2.wr .GH_CTRL_MAXEXP sl e.2 else s2

/-- The 68 counters of a slot with their SAT bits, in the order of `histClass`, and its MAXEXP (R124). -/
def histRead (s : State) (sl : Nat) : List Nat :=
  let word := fun (cnt sat : Fld) (i : Nat) => 2 ^ cnt.info.lo * s.rd cnt i + 2 ^ sat.info.lo * s.rd sat i
  (List.range 64).map (fun b => word .GH_BIN_COUNT .GH_BIN_SAT (64 * sl + b)) ++
    (List.range 4).map (fun b => word .GH_SPECIAL_COUNT .GH_SPECIAL_SAT (4 * sl + b)) ++ [s.rd .GH_CTRL_MAXEXP sl]

/-- The commits to a slot in the present cycle. -/
def histOf (s : State) (sl : Nat) : Option HistNow := s.histNow.find? (fun e => e.cycle == s.now && e.sl == sl)

/-- Commits the counts of a work unit to a slot (R122). -/
def histCommit (s : State) (q slot : Nat) (hist : List (Nat × Nat)) : State :=
  let sl := 64 * q + slot
  let e : HistNow := match s.histOf sl with
    | some e => { e with hist := e.hist ++ hist }
    | none => ⟨s.now, sl, s.histRead sl, hist⟩
  let s1 := { s with histNow := e :: s.histNow.filter (fun x => x.cycle == s.now && x.sl != sl) }
  hist.foldl (fun (s : State) (e : Nat × Nat) => s.histCount q slot e) s1

/-- Every counter, SAT bit and MAXEXP of a slot is zero. -/
def histZero (s : State) (q slot : Nat) : State :=
  let sl := 64 * q + slot
  let s1 := (List.range 64).foldl (fun (s : State) (b : Nat) => (s.wr .GH_BIN_COUNT (64 * sl + b) 0).wr .GH_BIN_SAT (64 * sl + b) 0) s
  let s2 := (List.range 4).foldl (fun (s : State) (b : Nat) =>
    (s.wr .GH_SPECIAL_COUNT (4 * sl + b) 0).wr .GH_SPECIAL_SAT (4 * sl + b) 0) s1
  (s2.wr .GH_CTRL_ANY_SAT sl 0).wr .GH_CTRL_MAXEXP sl 0

/-- CLEAR of a slot (R123); a commit in the same cycle is kept. -/
def histClear (s : State) (q slot : Nat) : State :=
  let s1 := s.histZero q slot
  match s.histOf (64 * q + slot) with
  | some e => e.hist.foldl (fun (s : State) (e : Nat × Nat) => s.histCount q slot e)
      { s1 with histNow := s1.histNow.map (fun x => if x = e then { x with was := List.replicate 69 0 } else x) }
  | none => s1

end State

end Sys2Proof.Machine
end

