-- ==== Sys2Proof/Machine/Needs.lean ====
section
/-! DEFINITION. What the implicit streams of a matrix operation read, and when its blank needs it (R82, R83, R196, R396): the requests of
each stream in row order and in address order within a row, a granule of 1 KiB each. -/

namespace Sys2Proof.Machine

/-- The streams of an operation: B and its scales, A and its scales, partial sums; 8 + s the COLVEC or TABLE of slot s and 16 + s its ROWVEC or
TENSOR; a move's reads, and an explicit stream's. -/
def stmB : Nat := 0
def stmBsc : Nat := 1
def stmA : Nat := 2
def stmAsc : Nat := 3
def stmP : Nat := 4
def stmPre (slot : Nat) : Nat := 8 + slot
def stmVec (slot : Nat) : Nat := 16 + slot
def stmMove : Nat := 32
def stmCopy : Nat := 33

/-- The streams that a preload reads (R82, R92), those of B among them, and those of A. -/
def Need.ofB (e : Need) : Bool := decide (e.stream < 2)
def Need.preload (e : Need) : Bool := e.ofB || (decide (8 ≤ e.stream) && decide (e.stream < 16))
def Need.ofA (e : Need) : Bool := e.stream == stmA || e.stream == stmAsc

/-- A work unit's place: row run, n-group, residency (R79). -/
structure UnitPos where
  rowRun : Nat
  nBlock : Nat
  kChunk : Nat
  deriving DecidableEq, Repr

/-- First k index of the residency, how many k it covers, and whether it is the first or the last (R77). -/
def UnitPos.k0 (p : UnitPos) : Nat := 512 * p.kChunk
def UnitPos.kq (p : UnitPos) (d : Nat) : Nat := min (mKr d) (mK d - p.k0)
def UnitPos.last (p : UnitPos) (d : Nat) : Bool := decide (mK d ≤ p.k0 + mKr d)
/-- Rows of the row run and n-blocks of the n-group. -/
def UnitPos.rows (p : UnitPos) (d : Nat) : Nat := min (mRowRun d) (mM d - p.rowRun * mRowRun d)
def UnitPos.nbs (p : UnitPos) (d : Nat) : Nat := min (mNb d) (mBlocks d - p.nBlock)
/-- Its steps, its witness step apart (R79). -/
def UnitPos.steps (p : UnitPos) (d : Nat) : Nat := p.rows d * p.nbs d
/-- Unmasked columns of n-block `b`. -/
def blockCols (d b : Nat) : Nat := min (mCols d) (mN d - b * mCols d)

/-- The next work unit (R79). -/
def UnitPos.next (p : UnitPos) (d : Nat) : UnitPos :=
  if !p.last d then { p with kChunk := p.kChunk + mKr d / 512 }
  else if p.nBlock + mNb d < mBlocks d then { p with nBlock := p.nBlock + mNb d, kChunk := 0 }
  else ⟨p.rowRun + 1, 0, 0⟩

def UnitPos.key (p : UnitPos) : Nat × Nat := (p.nBlock, p.kChunk)

/-- T_pre (R82). -/
def tPre (d : Nat) (p : UnitPos) : Nat := p.nbs d * mC d + mC d + 32

/-- The accumulation area's words of local row `t` and local n-block `b` (R80). -/
def spillAddr (d t b : Nat) : Nat := mSpill d + 4 * mC d * (t * mNb d + b)

/-- The reads of bytes `[va, va + n)`, a granule each; `atOf` gives the cycle of the byte at an offset. `k` bounds them. -/
def cutNeeds (unit stream dst : Nat) (atOf : Nat → Nat) (va0 : Nat) : Nat → Nat → Nat → List Need
  | 0, _, _ => []
  | k + 1, va, n =>
    if n = 0 then []
    else
      let m := min n (1024 - va % 1024)
      ⟨unit, stream, va, m, if dst = 0 then 0 else dst + (va - va0), atOf (va - va0), none⟩ :: cutNeeds unit stream dst atOf va0 k (va + m) (n - m)

/-- The reads of elements `i0` to `i0 + n - 1`, of `w` bits each, of the stored row at `rowVA` (R116); element `i0 + j` is needed in cycle
`atOf j`. -/
def rowNeeds (unit stream rowVA w i0 n : Nat) (atOf : Nat → Nat) : List Need :=
  let b0 := i0 * w / 8
  let len := ((i0 + n) * w + 7) / 8 - b0
  cutNeeds unit stream 0 (fun off => atOf ((b0 + off) * 8 / w - i0)) (rowVA + b0) (len / 1024 + 2) (rowVA + b0) len

/-- Reads of one granule that follow one another are one request. -/
def joinNeeds (es : List Need) : List Need :=
  (es.foldl (fun (acc : List Need) (b : Need) => match acc with
    | a :: rest =>
      if a.stream = b.stream ∧ a.va / 1024 = b.va / 1024 then
        let lo := min a.va b.va
        { a with va := lo, n := max (a.va + a.n) (b.va + b.n) - lo, at_ := min a.at_ b.at_ } :: rest
      else b :: acc
    | [] => [b]) []).reverse

/-- Where B of a residency lies: stored rows of elements of `w` bits, stored row n of TRANS_B at `row n`, its scales at `scale n`, and the
element with which a stored row's k index 0 begins (R150). -/
structure BPlace where
  w : Nat
  mx : Bool
  row : Nat → Nat
  scale : Nat → Nat
  f : Nat

/-- The object itself (R88), or the generation replica that ledger entry `e` names (R150). -/
def bPlace (d : Nat) : Option Nat → BPlace
  | none => ⟨elemBits (mBFmt d), decide (2 ≤ mBFmt d), fun n => mBva d + n * mBld d, fun n => mBsc d + n * cdiv (mK d) 32, 0⟩
  | some e =>
    let rowBytes := bitsOf e 256 32
    let el := elemBits (bitsOf e 24 2) / 8
    let rowLen := rowBytes / el
    let rho := fun n => n + (mBva d - bitsOf e 64 64) / rowBytes
    ⟨4, true, fun n => bitsOf e 320 64 + cdiv rowLen 2 * rho n, fun n => bitsOf e 384 64 + cdiv rowLen 32 * rho n,
      (mBva d - bitsOf e 64 64) % rowBytes / el⟩

/-- The B reads of the preload that starts in cycle `t0` (R82): pair j of n-block b is needed in preload cycle b × c + j. -/
def needsB (d unit : Nat) (pos : UnitPos) (t0 : Nat) (rep : Option Nat) : List Need :=
  let m := pos.kq d
  let cols := (List.range (pos.nbs d)).flatMap (fun b => (List.range (blockCols d (pos.nBlock + b))).map (fun j => (b, j)))
  let colOf := fun (e : Nat × Nat) => (pos.nBlock + e.1) * mCols d + e.2
  let atOf := fun (e : Nat × Nat) => t0 + e.1 * mC d + e.2
  let p := bPlace d rep
  let scales := if p.mx then
      cols.flatMap (fun e => rowNeeds unit stmBsc (p.scale (colOf e)) 8 ((p.f + pos.k0) / 32)
        ((p.f + pos.k0 + m - 1) / 32 - (p.f + pos.k0) / 32 + 1) (fun _ => atOf e))
    else []
  let elems := if mTransB d then
      cols.flatMap (fun e => rowNeeds unit stmB (p.row (colOf e)) p.w (p.f + pos.k0) m (fun _ => atOf e))
    else
      let n0 := pos.nBlock * mCols d
      (List.range m).flatMap (fun k => rowNeeds unit stmB (mBva d + (pos.k0 + k) * mBld d) p.w n0 cols.length
        (fun i => t0 + i / mCols d * mC d + i % mCols d))
  joinNeeds elems ++ joinNeeds scales

/-- Fields of a step operand entry (Table 4-9). -/
def entVA (e : Nat) : Nat := bitsOf e 0 64
def entLD (e : Nat) : Nat := bitsOf e 64 32
def entFmt (e : Nat) : Nat := bitsOf e 96 3
def entBits (e : Nat) : Nat := if entFmt e = 0 then 32 else 16

/-- The COLVEC and TABLE reads of a preload (R92, R196): the COLVEC value of column j of n-block b goes into its pocket with that column's pair,
word i of a TABLE in preload cycle i. Log entry 87, DESIGN CHOICE. -/
def needsPre (d unit : Nat) (entries : List Nat) (pos : UnitPos) (t0 : Nat) : List Need :=
  (List.range 8).flatMap (fun slot =>
    let e := entries.getD slot 0
    match stepSrc (mStep d slot) with
    | 2 =>
      let n0 := pos.nBlock * mCols d
      joinNeeds (rowNeeds unit (stmPre slot) (entVA e) (entBits e) n0 (min (pos.nbs d * mCols d) (mN d - n0))
        (fun i => t0 + i / mCols d * mC d + i % mCols d))
    | 6 => joinNeeds (rowNeeds unit (stmPre slot) (entVA e) 32 0 196 (fun i => t0 + i))
    | _ => [])

/-- The A reads of a work unit with cycle 0 at `t0` (Table 4-2): row t is needed at its first step. -/
def needsA (d unit : Nat) (pos : UnitPos) (t0 : Nat) : List Need :=
  let m := pos.kq d
  let row := fun t => pos.rowRun * mRowRun d + t
  let ts := List.range (pos.rows d)
  let elems := ts.flatMap (fun t => rowNeeds unit stmA (mAva d + row t * mAld d) (elemBits (mAFmt d)) pos.k0 m (fun _ => t0 + t * pos.nbs d))
  let scales := if mAFmt d < 2 then [] else
    ts.flatMap (fun t => rowNeeds unit stmAsc (mAsc d + row t * cdiv (mK d) 32) 8 (pos.k0 / 32) ((pos.k0 + m - 1) / 32 - pos.k0 / 32 + 1)
      (fun _ => t0 + t * pos.nbs d))
  joinNeeds elems ++ joinNeeds scales

/-- The P reads (R396): column j of step τ at τ + r + j + 5. -/
def needsP (d unit : Nat) (pos : UnitPos) (t0 : Nat) : List Need :=
  if pos.kChunk = 0 then [] else
  joinNeeds ((List.range (pos.steps d)).flatMap (fun i =>
    rowNeeds unit stmP (spillAddr d (i / pos.nbs d) (i % pos.nbs d)) 32 0 (mC d) (fun j => t0 + i + mR d + j + 5)))

/-- The ROWVEC and TENSOR reads of a last residency (Table 4-2): drain row u handles column j of step τ at τ + r + j + 6 + u. -/
def needsVec (d unit : Nat) (entries : List Nat) (pos : UnitPos) (t0 : Nat) : List Need :=
  if !pos.last d then [] else
  (List.range 8).flatMap (fun slot =>
    let e := entries.getD slot 0
    let rowOf := fun i => pos.rowRun * mRowRun d + i / pos.nbs d
    let atOf := fun i j => t0 + i + mR d + j + 6 + slot / 2
    match stepSrc (mStep d slot) with
    | 3 => joinNeeds ((List.range (pos.rows d)).flatMap (fun t =>
        rowNeeds unit (stmVec slot) (entVA e) (entBits e) (pos.rowRun * mRowRun d + t) 1 (fun _ => atOf (t * pos.nbs d) 0)))
    | 4 => joinNeeds ((List.range (pos.steps d)).flatMap (fun i =>
        let nb := pos.nBlock + i % pos.nbs d
        rowNeeds unit (stmVec slot) (entVA e + rowOf i * entLD e) (entBits e) (nb * mCols d) (blockCols d nb) (atOf i)))
    | _ => [])

/-- The reads of a preload, and those of a work unit but for its partial sums. -/
def needsLoad (o : Op) (unit : Nat) (pos : UnitPos) (t0 : Nat) (rep : Option Nat) : List Need :=
  needsB o.raw unit pos t0 rep ++ needsPre o.raw unit o.entries pos t0
def needsRun (o : Op) (unit : Nat) (pos : UnitPos) (t0 : Nat) : List Need :=
  needsA o.raw unit pos t0 ++ needsVec o.raw unit o.entries pos t0

/-- The reads that `p` picks are needed `n` cycles later. -/
def laterNeeds (n : Nat) (p : Need → Bool) (es : List Need) : List Need :=
  es.map (fun e => if p e then { e with at_ := e.at_ + n } else e)

namespace State

/-- Data that `p` picks, of operation `id`, has still to be requested or to return. -/
def dataDue (s : State) (id : Nat) (p : Need → Bool) : Bool :=
  (match s.op? id with
   | some o => o.needs.any p
   | none => false) || s.reqs.any (fun (r : Req) => r.op == id && !r.drop && p r.need)

/-- The requests of operation `id` that `p` picks are needed `n` cycles later; their deadlines stay (R196). -/
def laterReqs (s : State) (id n : Nat) (p : Need → Bool) : State :=
  { s with reqs := s.reqs.map (fun (r : Req) => if r.op = id ∧ p r.need = true then { r with need := { r.need with at_ := r.need.at_ + n } } else r) }

/-- A blank freezes for `n` cycles (R86): each counts EV_BLANK_FREEZE, and everything it has begun or will begin comes later. -/
def freezeBlank (s : State) (id n : Nat) : State :=
  match s.op? id with
  | none => s
  | some o =>
    if n = 0 then s
    else
      let p := fun (e : Need) => !e.preload
      (((s.ev evBlankFreeze o.q o.slotNo n).updOp id (fun o => { o with
        startAt := o.startAt + n, lastEnd := o.lastEnd + n, nextAt := o.nextAt + n, needs := laterNeeds n p o.needs,
        units := o.units.map (fun u => { u with endAt := u.endAt + n, verdictAt := u.verdictAt + n }) })).laterReqs id n p)

/-- A preload receives a pair `n` cycles late (R82): what follows it comes as much later. -/
def delayPreload (s : State) (id n : Nat) : State :=
  ((s.updOp id (fun o => { o with preEnd := o.preEnd + n, needs := laterNeeds n Need.preload o.needs })).laterReqs id n Need.preload)

/-- Data of a matrix operation is in its line or its destination in the present cycle and in its operand buffer 64 cycles on (R196): where that is
later than its need the preload is delayed, or the blank has frozen. -/
def arrive (s : State) (id : Nat) (e : Need) : State :=
  match s.op? id with
  | none => s
  | some o =>
    let n := s.now + 64 - e.at_
    if o.kind ≠ 0x01 then s
    else if e.preload then (if o.preKey.isSome && !o.preDone then s.delayPreload id n else s)
    else if e.unit ≤ o.unitNo then s.freezeBlank id n
    else s

/-- Whether a blank is frozen (R86): data that it needs by now, preloads apart, has not come. -/
def frozen (s : State) (o : Op) : Bool :=
  o.kind == 0x01 && o.phase == .running &&
    (o.needs ++ (s.reqs.filter (fun (r : Req) => r.op == o.id && !r.drop)).map (·.need)).any (fun e =>
      !e.preload && decide (e.unit ≤ o.unitNo) && decide (e.at_ ≤ s.now))

/-- The cycles for which a blank has been frozen for want of data that has not come, when it is cut off (R86). -/
def countFrozen (s : State) (o : Op) : State :=
  let due := (o.needs ++ (s.reqs.filter (fun (r : Req) => r.op == o.id && !r.drop)).map (·.need)).filter (fun e =>
    !e.preload && decide (e.unit ≤ o.unitNo))
  let n := due.foldl (fun (m : Nat) (e : Need) => max m (s.now - e.at_)) 0
  if o.kind = 0x01 ∧ o.phase = .running then s.ev evBlankFreeze o.q o.slotNo n else s

end State

end Sys2Proof.Machine
end

