-- ==== Sys2Proof/Machine/Matrix.lean ====
section
/-! DEFINITION. Matrix operations on their blanks (chapter 04): preloads, work units, the finishing chain, the witness check and the
self-test. -/

namespace Sys2Proof.Machine

/-- The clients of a matrix operation (Table 6-6): its operand reads are implicit streams, class 1; its writes are those of tiles,
class 0 (log entry 25, DEDUCED). -/
def blankClient (o : Op) : Client := ⟨o.q, ⟨1, 0⟩, o.tag, some o.id⟩
/-- ROWVEC and TENSOR operands of a tier-3 page are direct host loads (R211); the class of their reads is that of tiles. -/
def State.vecClient (s : State) (o : Op) (va : Nat) : Client :=
  match (s.translate o.q va false).2 with
  | .ok l => if pteTier l.pte = 3 then ⟨o.q, ⟨0, 0⟩, o.tag, some o.id⟩ else blankClient o
  | .error _ => blankClient o
def drainClient (o : Op) : Client := ⟨o.q, ⟨0, 0⟩, o.tag, some o.id⟩

/-- The masks of the faulty tiles of column `j` of a blank, by row. -/
def colFaults (fs : List TileFault) (j : Nat) : List (Nat × Nat) :=
  (fs.filter (fun (f : TileFault) => f.col == j)).map (fun (f : TileFault) => (f.row, f.mask.toNat))

/-- What a faulty tile at row `i` makes of its output. -/
def upsetAt (flt : List (Nat × Nat)) (i x : Nat) : Nat :=
  flt.foldl (fun (x : Nat) (f : Nat × Nat) => if f.1 = i then Nat.xor x f.2 else x) x

/-- A as column `j` receives it: each faulty tile west of it has forwarded its row's operand wrong (R99). In FP16 mode a row's operand is a pair. -/
def forwarded (fp32 : Bool) (fs : List TileFault) (j : Nat) (a : List Nat) : List Nat :=
  let bad := fs.filter (fun (f : TileFault) => decide (f.col < j) && f.fwd != 0)
  if bad.isEmpty then a
  else a.zipIdx.map (fun e => (bad.filter (fun (f : TileFault) => f.row == (if fp32 then e.2 else e.2 / 2))).foldl (fun (x : Nat) (f : TileFault) =>
    Nat.xor x (if fp32 then f.fwd.toNat else bitsOf f.fwd.toNat (16 * (e.2 % 2)) 16)) e.1)

/-- A column chain in FP16 mode (R76, R110) from row `i` on: partial sum and flags. -/
def chain16 (flt : List (Nat × Nat)) : Nat → List Nat → List Nat → Nat × Nat → Nat × Nat
  | i, a0 :: a1 :: as, b0 :: b1 :: bs, (c, f) =>
    let (x, g) := dp2 c (some (a0, b0)) (some (a1, b1))
    chain16 flt (i + 1) as bs (upsetAt flt i x, f ||| g)
  | i, a0 :: _, b0 :: _, (c, f) =>
    let (x, g) := dp2 c (some (a0, b0)) none
    (upsetAt flt i x, f ||| g)
  | _, _, _, acc => acc

/-- A column chain in FP32 mode (R76, R110). -/
def chain32 (flt : List (Nat × Nat)) : Nat → List Nat → List Nat → Nat × Nat → Nat × Nat
  | i, a0 :: as, b0 :: bs, (c, f) =>
    let (x, g) := fma32 c (some (a0, b0))
    chain32 flt (i + 1) as bs (upsetAt flt i x, f ||| g)
  | _, _, _, acc => acc

/-- The increment Δ of a column of `rows` array rows (R76): the operands' rows, then the masked ones, which matter only where one
is faulty. -/
def columnChain (fp32 : Bool) (rows : Nat) (flt : List (Nat × Nat)) (a b : List Nat) : Nat × Nat :=
  let used := if fp32 then a.length else (a.length + 1) / 2
  let r := if fp32 then chain32 flt 0 a b (0, 0) else chain16 flt 0 a b (0, 0)
  if flt.all (fun f => decide (f.1 < used)) then r
  else (List.range (rows - used)).foldl (fun (acc : Nat × Nat) (k : Nat) =>
    (upsetAt flt (used + k) (if fp32 then (fma32 acc.1 none).1 else (dp2 acc.1 none none).1), acc.2)) r

/-- |x| of an element as binary32. -/
def absWide (fp32 : Bool) (x : Nat) : Nat := widen32 (if fp32 then dec32 x else dec16 x) % 2 ^ 31

/-- σ of an n-block (R97): for each k of the residency, the sum over the n-block's columns, narrowed in FP16 mode. -/
def sigmas (fp32 : Bool) (m : Nat) (cols : List (List Nat)) : List Nat :=
  (List.range m).map (fun k =>
    let x := cols.foldl (fun (acc : Nat) (col : List Nat) =>
      (add32 acc (widen32 (if fp32 then dec32 (col.getD k 0) else dec16 (col.getD k 0)))).1) 0
    if fp32 then x else (narrow16 .rne (dec32 x)).1)

/-- μ of an n-block (R97). -/
def muOf (fp32 : Bool) (m : Nat) (cols : List (List Nat)) : Nat :=
  (List.range m).foldl (fun (acc : Nat) (k : Nat) =>
    cols.foldl (fun (acc : Nat) (col : List Nat) => addUp acc (absWide fp32 (col.getD k 0))) acc) 0

/-- T (R97); none where some μ is not finite. -/
def witnessT (mus : List Nat) (kq : Nat) : Option Nat :=
  if mus.all isFin32 then
    let t := addUp (scaleUp (mus.foldl max 0) (-10)) (round32 .up false kq (-24)).1
    if isFin32 t then some t else none
  else none

/-- The exponent e of R98. -/
def expOf (fp32 : Bool) (as : List (List Nat)) : Int :=
  as.flatten.foldl (fun (e : Int) (x : Nat) => match (if fp32 then dec32 x else dec16 x) with
    | .fin _ m k => if m = 0 then e else max e (topExp m k + 1)
    | _ => e) (if fp32 then -149 else -24)

/-- τ (R99), none where it is not finite. -/
def witnessBound (e : Int) (t : Option Nat) : Option Nat :=
  t.bind (fun t =>
    let b := addUp (scaleUp t e) (round32 .up false 1 (-100)).1
    if isFin32 b then some b else none)

/-- A binary16 operand as binary32, bit for bit (Table 4-9). -/
def wide16 (x : Nat) : Nat :=
  match dec16 x with
  | .nan _ => x / 2 ^ 15 * 2 ^ 31 + 0x7F800000 + x % 2 ^ 10 * 2 ^ 13
  | v => widen32 v

/-- A table word that is a step's result (R105, R106): a NaN is the canonical one, and a signaling one raises NV. -/
def tableOut (x : Nat) : Nat × Nat := if isNan32 x then (nan32, if (dec32 x).isSig then flagNV else 0) else (x, 0)

/-- The ACT step (R93) with the 196 words of its table. -/
def actStep (tab : List Nat) (x : Nat) : Nat × Nat :=
  let w := fun i => tab.getD i 0
  let scale := w 1
  let bad := match dec32 scale with
    | .fin n m _ => n || m == 0
    | _ => true
  if bad then (nan32, flagNV)
  else if isNan32 x then (nan32, if (dec32 x).isSig then flagNV else 0)
  else
    let (e, f1) := sub32 x (w 0)
    let (u, f2) := mul32 e scale
    let fl := f1 ||| f2
    match dec32 u with
    | .nan _ => (nan32, fl)
    | .inf n =>
      if n then ((tableOut (w 4)).1, fl ||| (tableOut (w 4)).2) else
        let (y, g) := add32 (w 193) (w 194)
        let (z, h) := add32 y (w 195)
        (z, fl ||| g ||| h)
    | .fin n m k =>
      if n && m != 0 then ((tableOut (w 4)).1, fl ||| (tableOut (w 4)).2)
      else
        let i := if 0 ≤ k then m * 2 ^ k.toNat else m / 2 ^ (-k).toNat
        if 64 ≤ i then
          let (y, g) := add32 (w 193) (w 194)
          let (z, h) := add32 y (w 195)
          (z, fl ||| g ||| h)
        else
          let fr := FV.fin false (if 0 ≤ k then 0 else m % 2 ^ (-k).toNat) (min k 0)
          let (y, g) := fusedSum .rne (some (dec32 (w (4 + 3 * i + 1)))) [(dec32 (w (4 + 3 * i + 2)), fr)]
          let (z, h) := fusedSum .rne (some (dec32 (w (4 + 3 * i)))) [(dec32 y, fr)]
          (z, fl ||| g ||| h)

/-- An element-wise step (Table 4-8) with operand `v`. -/
def elemStep (d slot : Nat) (tab : List Nat) (x v : Nat) : Nat × Nat :=
  match stepOp (mStep d slot) with
  | 1 => add32 x v
  | 2 => mul32 x v
  | 3 => max32 x v
  | 4 => min32 x v
  | 5 => actStep tab x
  | 9 =>
    let followed := decide (2 ≤ mOutFmt d) || (List.range 8).any (fun s => decide (slot < s) && stepOp (mStep d s) == 9)
    cvt16 (mRnd d) followed x
  | _ => (x, 0)

/-- What the finishing chain makes of the elements of one row of an n-block: elements, flags, counts, and the row results emitted,
by slot. -/
structure Finished where
  xs : List Nat
  flags : Nat
  hist : List (Nat × Nat)
  emits : List (Nat × Nat)
  deriving DecidableEq, Repr

/-- One step slot over a row (R91, R94). A ROWSUM chain starts from its first element. Log entry 88, DESIGN CHOICE. -/
def slotStep (d slot : Nat) (tab vs : List Nat) (f : Finished) : Finished :=
  match stepOp (mStep d slot) with
  | 6 =>
    let r := (f.xs.drop 1).foldl (fun (acc : Nat × Nat) (x : Nat) =>
      let (y, g) := max32 acc.1 x
      (y, acc.2 ||| g)) (max32 (f.xs.headD 0) (f.xs.headD 0))
    { f with flags := f.flags ||| r.2, emits := f.emits ++ [(slot, r.1)] }
  | 7 =>
    let r := (f.xs.drop 1).foldl (fun (acc : Nat × Nat) (x : Nat) =>
      let (y, g) := add32 acc.1 x
      (y, acc.2 ||| g)) (f.xs.headD 0, 0)
    { f with flags := f.flags ||| r.2, emits := f.emits ++ [(slot, r.1)] }
  | 8 => { f with hist := f.hist ++ f.xs.map histClass }
  | _ =>
    let rs := f.xs.zipIdx.map (fun e => elemStep d slot tab e.1 (vs.getD e.2 0))
    { f with xs := rs.map (·.1), flags := rs.foldl (fun (acc : Nat) (r : Nat × Nat) => acc ||| r.2) f.flags }

/-- The drain rows over a row of an n-block: slots 2u and 2u + 1 in row u, and what faulty tiles of that row make of its outputs. -/
def drainRow (d : Nat) (fs : List TileFault) (opnds : Nat → List Nat) (xs : List Nat) : Finished :=
  (List.range (mDrain d)).foldl (fun (f : Finished) (u : Nat) =>
    let f1 := slotStep d (2 * u) (opnds (2 * u)) (opnds (2 * u)) f
    let f2 := slotStep d (2 * u + 1) (opnds (2 * u + 1)) (opnds (2 * u + 1)) f1
    { f2 with xs := f2.xs.zipIdx.map (fun e => upsetAt (colFaults fs e.2) (mR d + u) e.1) }) ⟨xs, 0, [], []⟩

/-- Groups of 32. `k` bounds them. -/
def groups32 (xs : List Nat) : Nat → List (List Nat)
  | 0 => []
  | k + 1 => if xs.isEmpty then [] else xs.take 32 :: groups32 (xs.drop 32) k

/-- The writes of the exit stage (R95, R96, R119) for row `t`, columns from `n0`, with flags. -/
def exitWrites (d t n0 : Nat) (xs : List Nat) : List VWrite × Nat :=
  let row := mCva d + t * mCld d
  match mOutFmt d with
  | 0 => ([⟨row + 4 * n0, xs.flatMap (fun x => toBytes x 4)⟩], 0)
  | 1 =>
    let rs := xs.map (fun x => narrow16 (RMode.ofRnd (mRnd d)) (dec32 x))
    ([⟨row + 2 * n0, rs.flatMap (fun r => toBytes r.1 2)⟩], rs.foldl (fun (f : Nat) (r : Nat × Nat) => f ||| r.2) 0)
  | fmt =>
    (groups32 xs (xs.length / 32 + 1)).zipIdx.foldl (fun (acc : List VWrite × Nat) (g : List Nat × Nat) =>
      let (sc, es, fl) := narrowMx8 fmt (RMode.ofRnd (mRnd d)) g.1
      let n := n0 + 32 * g.2
      (acc.1 ++ [(⟨row + n, es.map (BitVec.ofNat 8)⟩ : VWrite), (⟨mCsc d + t * cdiv (mN d) 32 + n / 32, [BitVec.ofNat 8 sc]⟩ : VWrite)],
        acc.2 ||| fl)) ([], 0)

/-- Everything a work unit reads beyond its resident operand. -/
structure UnitIn where
  /-- A, row by row. -/
  a : List Elems
  /-- Accumulation-area words, by local row and n-block; empty in the first residency. -/
  p : List Elems
  /-- ROWVEC and TENSOR values: by slot, local row and n-block. -/
  vecs : Nat → Nat → Nat → List Nat
  flags : Nat
  poison : Bool

/-- The computation of work unit `u` as it has begun (R76 to R81, R91 to R99): its writes, flags, counts, and what the corner has found. `blocks`
is B of the residency, `pre` the operands preloaded with it, by slot, `ents` the step operand entries. -/
def runUnit (d : Nat) (u : WorkUnit) (blocks : List (List (List Nat))) (pre : List (List Nat)) (ents : List Nat) (inp : UnitIn) : WorkUnit :=
  let pos : UnitPos := ⟨u.rowRun, u.nBlock, u.kChunk⟩
  let fs := u.faults
  let fp32 := mFp32 d
  let r1 := mR d - 1
  let c1 := mC d - 1
  let m := pos.kq d
  let first := decide (pos.kChunk = 0)
  let last := pos.last d
  let sig := blocks.map (sigmas fp32 m)
  let t_ := witnessT (blocks.map (muOf fp32 m)) m
  let bound := witnessBound (expOf fp32 (inp.a.map (·.vals))) t_
  let steps := (List.range (pos.rows d)).flatMap (fun t => (List.range (pos.nbs d)).map (fun b => (t, b)))
  let init : WorkUnit := { u with
    writes := [], flags := u.flags ||| inp.flags, hist := [], diff := 0, bound := bound.getD 0, checked := false, spillTag := false,
    poison := u.poison || inp.poison }
  let tagWord := pos.kChunk % 2 ^ 16 + 2 ^ 16 * (pos.nBlock % 2 ^ 16)
  let nextTag := (pos.kChunk + mKr d / 512) % 2 ^ 16 + 2 ^ 16 * (pos.nBlock % 2 ^ 16)
  let w := steps.foldl (fun (w : WorkUnit) (tb : Nat × Nat) =>
    let (t, b) := tb
    let a := (inp.a.getD t ⟨[], 0, false⟩).vals
    let cols := blocks.getD b []
    let ds := cols.zipIdx.map (fun e => columnChain fp32 r1 (colFaults fs e.2) (forwarded fp32 fs e.2 a) e.1)
    let wit := (columnChain fp32 r1 (colFaults fs c1) (forwarded fp32 fs c1 a) (sig.getD b [])).1
    -- witness row: the X chain, which masked columns pass on unchanged, and the carry-add
    let x := (List.range c1).foldl (fun (acc : Nat) (j : Nat) =>
      upsetAt (colFaults fs j) r1 (match ds[j]? with
        | some e => if j = 0 then e.1 else (add32 acc e.1).1
        | none => acc)) 0
    let pw := (inp.p.getD (t * pos.nbs d + b) ⟨[], 0, false⟩).vals
    let outs := ds.zipIdx.map (fun e =>
      let (y, g) := if first then (e.1.1, 0) else add32 (pw.getD e.2 0) e.1.1
      (upsetAt (colFaults fs e.2) r1 y, e.1.2 ||| g))
    let fl := outs.foldl (fun (f : Nat) (o : Nat × Nat) => f ||| o.2) w.flags
    let ok := isFin32 x && isFin32 wit
    let dd := (sub32 x wit).1 % 2 ^ 31
    let w1 := { w with
      flags := fl,
      diff := if ok then max w.diff dd else w.diff,
      checked := w.checked || (ok && bound.isSome),
      spillTag := w.spillTag || (!first && pw.getD c1 0 != tagWord) }
    if last then
      let row := pos.rowRun * mRowRun d + t
      let nb := pos.nBlock + b
      let opnds := fun slot =>
        let st := mStep d slot
        match stepSrc st with
        | 1 => List.replicate cols.length ((pre.getD slot []).headD 0)
        | 2 => (pre.getD slot []).drop (b * c1)
        | 5 => List.replicate cols.length ((pre.getD slot []).headD 0)
        | 6 => pre.getD slot []
        | _ => inp.vecs slot t b
      let f := drainRow d fs opnds (outs.map (·.1))
      let (ws, xf) := exitWrites d row (nb * c1) f.xs
      let emits := f.emits.map (fun e =>
        (⟨entVA (ents.getD e.1 0) + 4 * (row * mBlocks d + nb), toBytes e.2 4⟩ : VWrite))
      { w1 with writes := w1.writes ++ ws ++ emits, flags := w1.flags ||| f.flags ||| xf, hist := w1.hist ++ f.hist }
    else
      let words := outs.map (·.1) ++ List.replicate (c1 - outs.length) 0 ++ [nextTag]
      { w1 with writes := w1.writes ++ [(⟨spillAddr d t b, words.flatMap (fun x => toBytes x 4)⟩ : VWrite)] }) init
  { w with diff := upsetAt (colFaults fs c1) r1 w.diff }

namespace State

/-- `n` values of an operand from element `i` on at `va`: FMT 0 FP32, 1 FP16 widened. -/
def operandVals (s : State) (c : Client) (fmt va i n : Nat) : State × Except Nat Elems :=
  match s.readElems c (if fmt = 0 then 1 else 0) va i n (fun _ => 0) with
  | (s, .error e) => (s, .error e)
  | (s, .ok el) => (s, .ok (if fmt = 0 then el else { el with vals := el.vals.map wide16 }))

/-- The operands preloaded with a residency (R91, R92), by slot. -/
def preOperands (s : State) (o : Op) (pos : UnitPos) : State × Except Nat (List Elems) :=
  let d := o.raw
  let c := blankClient o
  s.collect (fun (s : State) (slot : Nat) =>
    let e := o.entries.getD slot 0
    match stepSrc (mStep d slot) with
    | 1 => (s, .ok ⟨[if entFmt e = 0 then bitsOf e 0 32 else wide16 (bitsOf e 0 16)], 0, false⟩)
    | 2 =>
      let n0 := pos.nBlock * mCols d
      s.operandVals c (entFmt e) (entVA e) n0 (min (pos.nbs d * mCols d) (mN d - n0))
    | 5 => (s, .ok ⟨[(round32 .rne false 1 o.lossE).1], 0, false⟩)
    | 6 => s.operandVals c 0 (entVA e) 0 196
    | _ => (s, .ok ⟨[], 0, false⟩)) (List.range 8)

/-- The values of ROWVEC or TENSOR slot `slot` for every row and n-block of the work unit, rows outermost. -/
def streamedOperand (s : State) (o : Op) (pos : UnitPos) (slot : Nat) : State × Except Nat (List Elems) :=
  let d := o.raw
  let st := mStep d slot
  let e := o.entries.getD slot 0
  if stepSrc st ≠ 3 ∧ stepSrc st ≠ 4 then (s, .ok [])
  else s.collect (fun (s : State) (i : Nat) =>
    let row := pos.rowRun * mRowRun d + i / pos.nbs d
    let nb := pos.nBlock + i % pos.nbs d
    let c := s.vecClient o (entVA e + (if stepSrc st = 3 then row * (entBits e / 8) else row * entLD e))
    let r := if stepSrc st = 3 then s.operandVals c (entFmt e) (entVA e) row 1
      else s.operandVals c (entFmt e) (entVA e + row * entLD e) (nb * mCols d) (blockCols d nb)
    match r with
    | (s, .error e) => (s, .error e)
    | (s, .ok el) =>
      let vs := if stepSrc st = 3 then List.replicate (blockCols d nb) (el.vals.headD 0) else el.vals
      (s, .ok ⟨vs, 0, el.poison⟩)) (List.range (pos.steps d))

/-- Runs `f` on each index in turn, stopping at the first fault. -/
def collectAll (s : State) (f : State → Nat → State × Except Nat (List Elems)) : List Nat → State × Except Nat (List (List Elems))
  | [] => (s, .ok [])
  | i :: is =>
    match f s i with
    | (s, .error e) => (s, .error e)
    | (s, .ok x) =>
      match collectAll s f is with
      | (s, .error e) => (s, .error e)
      | (s, .ok xs) => (s, .ok (x :: xs))

/-- Reads what a work unit streams: A, P and the streamed operands. -/
def readUnit (s : State) (o : Op) (pos : UnitPos) : State × Except Nat UnitIn :=
  let d := o.raw
  let c := blankClient o
  match s.collect (fun (s : State) (t : Nat) => s.readA c d (pos.rowRun * mRowRun d + t) pos.k0 (pos.kq d))
      (List.range (pos.rows d)) with
  | (s, .error e) => (s, .error e)
  | (s, .ok a) =>
    match s.collect (fun (s : State) (i : Nat) =>
        s.readElems c 1 (spillAddr d (i / pos.nbs d) (i % pos.nbs d)) 0 (mC d) (fun _ => 0))
        (if pos.kChunk = 0 then [] else List.range (pos.steps d)) with
    | (s, .error e) => (s, .error e)
    | (s, .ok p) =>
      match s.collectAll (fun (s : State) (slot : Nat) => s.streamedOperand o pos slot) (if pos.last d then List.range 8 else []) with
      | (s, .error e) => (s, .error e)
      | (s, .ok vs) =>
        (s, .ok ⟨a, p, fun slot t b => ((vs.getD slot []).getD (t * pos.nbs d + b) ⟨[], 0, false⟩).vals,
          a.foldl (fun (f : Nat) (e : Elems) => f ||| e.flags) 0,
          a.any (·.poison) || p.any (·.poison) || vs.any (fun v => v.any (·.poison))⟩)

/-- An overrun abort (R45): the cursor of the last valid record, OVERRUN set, NO_PROGRESS up by `inc`; at 3 the operation ends. The work units
past their verdict since that cursor will be repeated (R114, R122). -/
def overrun (s : State) (id inc : Nat) : State :=
  match s.op? id with
  | none => s
  | some o =>
    let s1 := (s.countFrozen o).ev evOverrun o.q 0 1
    let n := o.noProgress + inc
    if n ≥ 3 then s1.finish id stNoProgress
    else
      let old := match o.kind, o.aux with
        | 0x01, [rr, nb, kc, sp, sb] => { o with rowRun := rr, nBlock := nb, kChunk := kc, spilled := sp == 1, spillBytes := sb }
        | _, _ => o
      (s1.setOp { old with again := o.again + o.passed }).parkOp id old.spilled true n

/-- Work unit `u` computed and its writes made, once everything it reads has come (R81, R85, R86). A fault on the accumulation area is an overrun
abort with PARK_FAULT (R43); on another address the operation stalls. Log entry 90, DESIGN CHOICE. -/
def finishUnit (s : State) (id : Nat) (u : WorkUnit) : State × Bool :=
  if u.written then (s, true)
  else if s.dataDue id (fun e => !e.preload && e.unit == u.no) then (s, false)
  else match s.op? id with
    | none => (s, false)
    | some o =>
      let pos : UnitPos := ⟨u.rowRun, u.nBlock, u.kChunk⟩
      match s.readUnit o pos with
      | (s, .error _) => (s, false)
      | (s, .ok inp) =>
        let w := runUnit o.raw u o.actB.dropLast (o.actB.getLastD []) o.entries inp
        let last := pos.last o.raw
        match s.vwrites { drainClient o with op := if last then some id else none } w.writes with
        | (s, .error _) => if last then (s, false) else ((s.mark .TURN_BAL_ERR_PARK_FAULT 0).overrun id 1, false)
        | (s, .ok _) =>
          (s.updOp id (fun o => { o with units := o.units.map (fun x => if x.no = u.no then { w with written := true } else x) }), true)

/-- Every work unit of a list computed, oldest first. -/
def finishUnits (s : State) (id : Nat) : List WorkUnit → State × Bool
  | [] => (s, true)
  | u :: us =>
    match s.finishUnit id u with
    | (s, false) => (s, false)
    | (s, true) => finishUnits s id us

/-- The cursor of an operation's next work unit, and whether none is left. -/
def nextUnit (o : Op) : UnitPos := ⟨o.rowRun, o.nBlock, o.kChunk⟩
def unitsDone (o : Op) : Bool := decide (mRuns o.raw ≤ o.rowRun)

/-- R101: a mismatch in the repeat table; the entry's count. -/
def repeatHit (s : State) (o : Op) : State × Nat :=
  let same := fun (r : Repeat) => r.q == o.q && r.tag == o.tag && r.problem == o.problem
  let n := match s.repeats.find? same with
    | some r => r.count + 1
    | none => 1
  let rest := s.repeats.filter (fun (r : Repeat) => !same r)
  let mine := (rest.filter (fun (r : Repeat) => r.q == o.q)).take 15
  let others := rest.filter (fun (r : Repeat) => r.q != o.q)
  ({ s with repeats := (⟨o.q, o.tag, o.problem, n⟩ : Repeat) :: (mine ++ others) }, n)

/-- R101: a work unit that passes removes its operation's entry; one that passes unchecked does so too. Log entry 89, DESIGN CHOICE. -/
def repeatClear (s : State) (o : Op) : State :=
  { s with repeats := s.repeats.filter (fun (r : Repeat) => !(r.q == o.q && r.tag == o.tag && r.problem == o.problem)) }

/-- Steps 3 and 4 of R100 and R101, for the residency whose first k-chunk is `kc`: logs, counts, the repeat table, and the park with
the cursor of R42, or the end with witness-fail. `named` is the first failing tile, `nFail` how many failed. -/
def mismatch (s : State) (id cause kc nFail : Nat) (named : Option (Nat × Nat)) : State :=
  match s.op? id with
  | none => s
  | some o =>
    let q := o.q
    let s1 := s.firstError .MX_WIT_STAT_MISMATCH q (fun (s : State) =>
      let s2 := ((s.wr .MX_WIT_LOG0_OP_TAG q o.tag).wr .MX_WIT_LOG0_PROBLEM q o.problem).wr .MX_WIT_LOG0_CAUSE q cause
      let s3 := ((s2.wr .MX_WIT_LOG0_K_CHUNK q kc).wr .MX_WIT_LOG1_K_CHUNK_HI q (kc / 2 ^ 16)).wr .MX_WIT_LOG1_FAILED q (min nFail 255)
      match named with
      | some (col, row) => ((s3.wr .MX_WIT_LOG1_NAMED q 1).wr .MX_WIT_LOG1_COL q col).wr .MX_WIT_LOG1_ROW q row
      | none => ((s3.wr .MX_WIT_LOG1_NAMED q 0).wr .MX_WIT_LOG1_COL q 0).wr .MX_WIT_LOG1_ROW q 0)
    let s4 := (s1.bump .MX_WIT_STAT_MISMATCH_CNT q 1).ev evWitMismatch q o.slotNo 1
    let (s5, n) := s4.repeatHit o
    if n ≥ 3 then
      (((s5.mark .MX_WIT_STAT_WIT_FAIL q).mcLog 2 q o.tag).finish id stWitnessFail).syncBlanks q
    else
      ((s5.setOp { o with kChunk := 0, units := [] }).parkOp id false false 0).syncBlanks q

/-- The preload of the residency after `pos` starts at cycle 0 of the work unit before it (R82), where it differs; what the next work unit reads is
known then (R196), its cycle 0 as R85 gives it. -/
def planNext (o : Op) (pos : UnitPos) (now : Nat) : Op :=
  let d := o.raw
  let nxt := pos.next d
  if mRuns d ≤ nxt.rowRun then o
  else
    let o1 := if nxt.key = pos.key then o
      else { o with
        preKey := some nxt.key, preDone := false, preEnd := now + tPre d nxt, replica := false,
        needs := o.needs ++ needsLoad o (o.unitNo + 1) nxt now none }
    let at_ := if nxt.key = pos.key then o.lastEnd else max o.lastEnd (now + tPre d nxt)
    { o1 with nextAt := at_, needs := o1.needs ++ needsRun o (o.unitNo + 1) nxt at_ }

/-- Work unit `pos` begins in the present cycle (R79, R85, R396). -/
def beginUnit (s : State) (o : Op) (pos : UnitPos) (swap : Bool) (faults : List TileFault) : State :=
  let d := o.raw
  let now := s.now
  let no := o.unitNo + 1
  let shift := now - o.nextAt
  -- the cycles before it: its preload's, and those for which it waited for its first A row (not those of a barrier, R82)
  let due := max o.lastEnd (if swap then o.preEnd else 0)
  let gap := if o.lastEnd = 0 then 0 else due - o.lastEnd
  let late := if o.lastEnd = 0 ∧ o.wait.isSome then 0 else now - due
  let s := (s.ev evPreloadGap o.q o.slotNo gap).ev evBlankFreeze o.q o.slotNo late
  let w : WorkUnit :=
    { no := no, rowRun := pos.rowRun, nBlock := pos.nBlock, kChunk := pos.kChunk, faults := faults, written := false,
      endAt := now + pos.steps d + 1, verdictAt := now + pos.steps d + mR d + mC d + 8, writes := [],
      flags := if swap then o.preFlags else 0, hist := [], diff := 0, bound := 0, checked := false, spillTag := false,
      poison := swap && o.prePoison }
  let mine := fun (e : Need) => !e.preload && e.unit == no
  let s := s.laterReqs o.id shift mine
  let nxt := pos.next d
  let o := { o with
    actKey := some pos.key, swaps := if swap then o.swaps + 1 else o.swaps, actB := if swap then o.preB else o.actB, preKey := if swap then none else o.preKey,
    preDone := if swap then false else o.preDone, startAt := o.startAt + late, lastEnd := w.endAt, unitNo := no,
    units := o.units.map (fun u => { u with endAt := u.endAt + late, verdictAt := u.verdictAt + late }) ++ [w],
    needs := laterNeeds shift mine o.needs ++ needsP d no pos now,
    spillBytes := if pos.last d then 0 else pos.steps d * mC d * 4,
    rowRun := nxt.rowRun, nBlock := nxt.nBlock, kChunk := nxt.kChunk }
  s.setOp (planNext o pos now)

end State

/-- OPERATION_START (R72, R82, R196): the setup of 32 cycles is over; the operation executes, and the preload of its first residency
starts. -/
def execOperationStart (id t : Nat) (s : State) : Host.Outcome State Fault Refusal :=
  let s := s.goTo t
  match s.op? id with
  | some o =>
    if o.phase = .setup ∧ o.startAt ≤ s.now ∧ s.h .halted o.q = 0 then
      let pos := State.nextUnit o
      let ready := s.now + tPre o.raw pos
      .next (s.setOp { o with
        phase := .running, startAt := s.now, preKey := some pos.key, preDone := false, preEnd := ready, replica := false, lastEnd := 0,
        units := [], unitNo := 0, nextAt := ready, needs := needsLoad o 1 pos s.now none ++ needsRun o 1 pos ready })
    else .next s
  | none => .next s

/-- PRELOAD_COMPLETE (R82, R92, R97): the cycle before the present one was the preload's last; B of the residency, and the COLVEC and TABLE operands,
are in the preload half. A preload that read the generation replica holds that (R150). -/
def execPreloadComplete (id t : Nat) (s : State) : Host.Outcome State Fault Refusal :=
  let s := s.goTo t
  match s.op? id with
  | some o =>
    match o.preKey with
    | some (nb, kc) =>
      if o.phase = .running ∧ !o.preDone ∧ o.preEnd ≤ s.now ∧ s.h .halted o.q = 0 ∧ s.dataDue id Need.preload = false then
        let pos : UnitPos := ⟨0, nb, kc⟩
        match s.readB (blankClient o) o.raw nb pos.k0 (if o.replica then some o.repEntry else none) with
        | (s, .error _) => .next s
        | (s, .ok (b, fl, bad)) =>
          match s.preOperands o pos with
          | (s, .error _) => .next s
          | (s, .ok es) =>
            .next (s.updOp id (fun o => { o with
              preDone := true, preEnd := s.now, preB := b ++ [es.map (·.vals)], preFlags := fl,
              prePoison := bad || es.any (·.poison) }))
      else .next s
    | none => .next s
  | none => .next s

/-- WORK_UNIT_START (R41, R79, R85, R87): the next work unit of an operation begins when its residency is preloaded and its first A row is there,
which a stage barrier may hold back; it parks instead when its declared length would pass P. Log entry 8, DESIGN CHOICE. Log entry 77, DEDUCED. -/
def execWorkUnitStart (id t : Nat) (faults : List TileFault) (s : State) : Host.Outcome State Fault Refusal :=
  let s := s.goTo t
  match s.op? id with
  | some o =>
    let pos := State.nextUnit o
    let (_, _, chunk) := estOf o.raw
    let swap := decide (o.actKey ≠ some pos.key)
    if o.phase ≠ .running ∨ o.kind ≠ 0x01 ∨ State.unitsDone o ∨ s.now < o.lastEnd ∨ s.h .halted o.q = 1 then .next s
    else if s.waitBroken o then .next ((s.finish id stBarrierBroken).syncBlanks o.q)
    else if s.cycP < s.pos + chunk ∨ s.cycS ≤ s.pos then
      -- no work unit that would pass P (R41): the operation parks when nothing is in flight
      (if o.units.isEmpty then .next ((s.parkOp id (decide (pos.kChunk ≠ 0)) false 0).syncBlanks o.q) else .next s)
    else if swap ∧ (o.preKey ≠ some pos.key ∨ !o.preDone ∨ s.now < o.preEnd) then .next s
    else if s.dataDue id (fun e => e.ofA && e.unit == o.unitNo + 1 && decide (e.at_ ≤ o.nextAt)) then .next s
    else
      match s.finishUnits id o.units with
      | (s, false) => .next s
      | (s, true) =>
        match s.op? id with
        | none => .next s
        | some o => .next (s.beginUnit o pos swap faults)
  | none => .next s

/-- What a verdict that passes leaves (R101, R114, R122): flags and counts are committed, once for a work unit that an overrun abort made the
operation repeat. -/
def State.passUnit (s : State) (o : Op) (u : WorkUnit) : State :=
  let s := s.repeatClear o
  if o.again = 0 then (s.mergeFlags o.q u.flags).histCommit o.q (mHist o.raw) u.hist else s

/-- WITNESS_VERDICT (R81, R85, R86, R99, R100, R114, R122, Table 7-2): the corner posts the verdict of the oldest work unit in hand, once all that it
reads has come, after `frozen` cycles for which the write path froze the blank. -/
def execWitnessVerdict (id t frozen : Nat) (s : State) : Host.Outcome State Fault Refusal :=
  let s := s.goTo t
  match s.op? id with
  | some o =>
    match o.units with
    | u :: rest =>
      if o.phase ≠ .running ∨ s.now < u.verdictAt + frozen ∨ s.h .halted o.q = 1 then .next s
      else
        let q := o.q
        match (s.freezeBlank id frozen).finishUnit id u with
        | (s, false) => .next s
        | (s, true) =>
          match (s.op? id).bind (fun o => o.units.head?) with
          | none => .next s
          | some u =>
            if u.poison then .next ((s.finish id stPoisonedData).syncBlanks q)
            else
              let s := if u.checked then s.bump .MX_WIT_STAT_CHECKED q 1 else s.ev evWitSkip q o.slotNo 1
              if u.spillTag then
                let s := (s.ev evSpillTag q o.slotNo 1).mark .MX_WIT_STAT_SPILL_TAG q
                .next ((s.updOp id (fun o => { o with rowRun := u.rowRun, nBlock := u.nBlock })).mismatch id 2 u.kChunk 0 none)
              else if u.checked ∧ u.bound < u.diff then
                -- steps 1 and 2 of R100: the blank stops and its tiles test themselves
                .next (s.updOp id (fun o => { o with
                  phase := .testing, units := [], needs := [], rowRun := u.rowRun, nBlock := u.nBlock, kChunk := u.kChunk,
                  preEnd := s.now + 512 }))
              else
                .next ((s.passUnit o u).updOp id (fun o =>
                  let o := { o with units := rest.map (fun r => (o.units.find? (fun x => x.no == r.no)).getD r), flags := o.flags ||| u.flags,
                                    passed := o.passed + 1, again := o.again - 1 }
                  if rest.isEmpty && State.unitsDone o then { o with phase := .ended, status := some stSuccess } else o))
    | [] => .next s
  | none => .next s

/-- TILE_SELF_TEST (R100, R101, R74): after 512 cycles the failing tiles become suspect and are fenced, the mismatch is logged, and
the operation parks, or ends with witness-fail. -/
def execTileSelfTest (id t : Nat) (failing : List (Nat × Nat)) (s : State) : Host.Outcome State Fault Refusal :=
  let s := s.goTo t
  match s.op? id with
  | some o =>
    if o.phase = .testing ∧ o.preEnd ≤ s.now then
      match o.blank with
      | none => .next s
      | some b =>
        let inBlank := fun (p : Nat × Nat) => decide (8 * b.left ≤ p.1) && decide (p.1 < 8 * b.left + mC o.raw) &&
          decide (8 * b.top ≤ p.2) && decide (p.2 < 8 * b.top + mR o.raw + mDrain o.raw)
        let bad := ((failing.filter inBlank).dedup).mergeSort (fun a b => decide (a.2 * 2 ^ 16 + a.1 ≤ b.2 * 2 ^ 16 + b.1))
        let tiles := bad.map (fun (p : Nat × Nat) => s.physTile o.q p.1 p.2)
        -- the tiles are suspect whatever becomes of their fences, which the CP stages
        let s := tiles.foldl (fun (s : State) (p : Nat × Nat) => (s.suspect p.1 p.2).1) s
        let s := tiles.foldl (fun (s : State) (p : Nat × Nat) => s.fenceReq p.1 p.2 0 false) s
        .next (s.mismatch id 1 o.kChunk bad.length bad.head?)
    else .next s
  | none => .next s

/-- OPERATION_COMPLETE (R208, R212, R314): an operation whose work is done, and whose direct stores are acknowledged, releases its blank and
slot, signals its barrier and completes with its status. -/
def execOperationComplete (id t : Nat) (s : State) : Host.Outcome State Fault Refusal :=
  let s := s.goTo t
  match s.op? id with
  | some o =>
    match o.phase, o.status with
    | .ended, some st =>
      if s.direct.any (fun (d : DirectStore) => d.op == id) then .next s else .next ((s.finish id st).syncBlanks o.q)
    | _, _ => .next s
  | none => .next s

end Sys2Proof.Machine
end

