-- ==== Sys2Proof/Machine/Streams.lean ====
section
/-! DEFINITION. Streams, explicit and implicit: their requests, the engines that issue them, and buffers (chapter 09). -/

namespace Sys2Proof.Machine

/-- Fields of a stream descriptor (Table 9-2). -/
def stDstKind (d : Nat) : Nat := bitsOf d 10 2
def stDims (d : Nat) : Nat := bitsOf d 12 2
def stBuf (d : Nat) : Nat := bitsOf d 14 4
def stRowBytes (d : Nat) : Nat := bitsOf d 32 32
/-- A dimension not in use counts 1 and has stride 0. -/
def stCount (d i : Nat) : Nat := if i < stDims d then bitsOf d (64 + 32 * i) 32 else 1
def stSegRows (d : Nat) : Nat := bitsOf d 160 32
def stSrc (d : Nat) : Nat := bitsOf d 192 64
def stDst (d : Nat) : Nat := bitsOf d 256 64
def stSrcS (d i : Nat) : Nat := if i < stDims d then bitsOf d (320 + 64 * i) 64 else 0
def stDstS (d i : Nat) : Nat := if i < stDims d then bitsOf d (512 + 64 * i) 64 else 0
def stDlFirst (d : Nat) : Nat := bitsOf d 704 32
def stDlPeriod (d : Nat) : Nat := bitsOf d 736 32
def stTotal (d : Nat) : Nat := stCount d 0 * stCount d 1 * stCount d 2

/-- An address that counts of signed strides reach (R201), modulo 2^64. -/
def boxAddr (base s1 s2 s3 i1 i2 i3 : Nat) : Nat := (base + i1 * s1 + i2 * s2 + i3 * s3) % 2 ^ 64

/-- Source and plain destination of row `r` (R201). -/
def stRowIdx (d r : Nat) : Nat × Nat × Nat :=
  (r % stCount d 0, r / stCount d 0 % stCount d 1, r / (stCount d 0 * stCount d 1))
def stSrcRow (d r : Nat) : Nat :=
  let (i, j, k) := stRowIdx d r
  boxAddr (stSrc d) (stSrcS d 0) (stSrcS d 1) (stSrcS d 2) i j k
def stDstRow (d r : Nat) : Nat :=
  let (i, j, k) := stRowIdx d r
  boxAddr (stDst d) (stDstS d 0) (stDstS d 1) (stDstS d 2) i j k

/-- Corner rows of a box with an address beyond bit 51 (R201). -/
def cornerBad (d : Nat) (f : Nat → Nat → Nat → Nat) : Bool :=
  let ends := fun i => [0, stCount d i - 1]
  (ends 0).any (fun i => (ends 1).any (fun j => (ends 2).any (fun k => decide (2 ^ 52 ≤ f i j k))))

namespace State

/-- Slots of a buffer; none where SLOTS_M1 disables it. -/
def bufSlots (s : State) (q b : Nat) : Option Nat :=
  let i := bufIdx q b
  let m := s.rd .SE_BUF_CFG_SLOTS_M1 i
  if !s.flag .SE_BUF_CFG_EN i then none
  else if s.flag .SE_BUF_CFG_KIND i then (if m = 1 then some 2 else none)
  else if 2 ≤ m then some (m + 1) else none

/-- RPS (R201). -/
def rps (s : State) (q d : Nat) : Nat :=
  if stDstKind d = 1 then s.rd .SE_BUF_GEOM_ROWS (bufIdx q (stBuf d)) else stSegRows d

/-- The conditions of R200 and R201 under which a stream is an invalid descriptor. -/
def streamInvalid (s : State) (q d : Nat) : Bool :=
  bitsOf d 18 14 != 0 || bitsOf d 821 11 != 0 || bitsOf d 864 160 != 0 || decide (2 ≤ stDstKind d) ||
    (List.range 3).any (fun i => decide (i < stDims d) && stCount d i == 0) || decide (2 ^ 48 ≤ stTotal d) ||
    stRowBytes d == 0 || decide (16777216 < stRowBytes d) || s.rps q d == 0 ||
    (stDstKind d == 1 && ((s.bufSlots q (stBuf d)).isNone ||
      decide (1024 * s.rd .SE_BUF_GEOM_SLOT_KIB (bufIdx q (stBuf d)) < s.rps q d * stRowBytes d))) ||
    cornerBad d (fun i j k => boxAddr (stSrc d) (stSrcS d 0) (stSrcS d 1) (stSrcS d 2) i j k) ||
    (stDstKind d == 0 && cornerBad d (fun i j k => boxAddr (stDst d) (stDstS d 0) (stDstS d 1) (stDstS d 2) i j k))

end State

/-- What a stream keeps beside its committed cursor: the next row to issue and the offset in it, 1 + the first row of the open work
unit, its start cycle and the cursor then (R197), 1 + the cycle since which it waits for a slot, and the open slot. -/
structure StreamPos where
  row : Nat
  off : Nat
  opened : Nat
  start : Nat
  startRow : Nat
  fullSince : Nat
  slot : Nat
  deriving DecidableEq, Repr

def StreamPos.ofOp (o : Op) : StreamPos :=
  ⟨o.aux.getD 0 0, o.aux.getD 1 0, o.aux.getD 2 0, o.aux.getD 3 0, o.aux.getD 4 0, o.aux.getD 5 0, o.aux.getD 6 0⟩

def StreamPos.put (p : StreamPos) (o : Op) : Op :=
  { o with aux := [p.row, p.off, p.opened, p.start, p.startRow, p.fullSince, p.slot] }

/-- The committed cursor of a stream (R204). -/
def streamCursor (o : Op) : Nat := o.rowRun + 2 ^ 32 * o.nBlock

/-- A stream as admission starts it (R197, R200), in a first start or a resume. -/
def startStream (o : Op) (now : Nat) : Op :=
  StreamPos.put ⟨streamCursor o, 0, 0, now, streamCursor o, 0, 0⟩ { o with phase := .running }

namespace State

/-- One past the last row of the work unit that begins at row `r`. -/
def unitEnd (s : State) (o : Op) (r : Nat) : Nat := min (r + s.rps o.q o.raw) (stTotal o.raw)

/-- The deadline of row `r` (R197), as an absolute cycle. -/
def rowDeadline (s : State) (o : Op) (r : Nat) : Nat :=
  let d := o.raw
  let p := StreamPos.ofOp o
  if stDlPeriod d = 0 then s.turn0 + s.cycS
  else p.start + stDlFirst d + (r / s.rps o.q d - p.startRow / s.rps o.q d) * stDlPeriod d

/-- Where the byte at offset `off` of row `r` goes (R201, R202). -/
def rowDst (s : State) (o : Op) (r : Nat) : Nat :=
  let d := o.raw
  if stDstKind d = 1 then
    let i := bufIdx o.q (stBuf d)
    s.rd .SE_BUF_CFG_BASE i * 1024 + (StreamPos.ofOp o).slot * (1024 * s.rd .SE_BUF_GEOM_SLOT_KIB i) +
      r % s.rps o.q d * stRowBytes d
  else stDstRow d r

/-- An operation waits on an unresolved fault, or on a packed page (R184, R186). -/
def isStalled (s : State) (id : Nat) : Bool :=
  s.stalls.any (fun x => x.op == some id) || s.packStalls.any (fun x => x.op == some id)

/-- A stream steps past `n` bytes of its row. -/
def stepPiece (o : Op) (n : Nat) : Op :=
  let p := StreamPos.ofOp o
  if p.off + n < stRowBytes o.raw then { p with off := p.off + n }.put o else { p with row := p.row + 1, off := 0 }.put o

/-- The next read of an explicit stream in its order becomes its read in hand (R198): into a buffer while its slot is open, to a plain destination
also beyond the open segment before S, and up to its end from S on (R205). -/
def planPiece (s : State) (o : Op) : Op :=
  let p := StreamPos.ofOp o
  let d := o.raw
  let stop := if stDstKind d = 1 ∨ s.cycS ≤ s.pos then s.unitEnd o (p.opened - 1) else stTotal d
  if !o.needs.isEmpty ∨ p.opened = 0 ∨ stop ≤ p.row then o
  else
    let src := stSrcRow d p.row + p.off
    let n := min (stRowBytes d - p.off) (1024 - src % 1024)
    { stepPiece o n with needs := [⟨p.row, stmCopy, src, n, s.rowDst o p.row + p.off, 0, none⟩] }

/-- Stacks that are not LOST, ascending (Table 9-1). -/
def liveStacks (s : State) : List Nat := (List.range s.nStacks).filter (fun k => s.rd .STK_STAT_STATE k != 3)

/-- The engine that serves in place of engine `e` (R335): itself or the next of its unit in service. -/
def engineUp (s : State) (e : Nat) : Option Nat :=
  let u := e / 4
  let out := s.h .outSe (if u < s.nStacks then u else 12 + (u - s.nStacks))
  ((List.range 4).map (fun i => (e % 4 + i) % 4)).findSome? (fun k => if bitsOf out k 1 = 0 then some (4 * u + k) else none)

/-- The engine of a granule (Table 9-1): none for the scratchpad, and for tier 3 when no stack is left. -/
def engineOf (s : State) (t u a : Nat) : Option Nat :=
  match t with
  | 0 => none
  | 1 => s.engineUp (4 * u + a / 1024 % 64 / 16)
  | 2 => s.engineUp (4 * s.nStacks + 4 * u + a / 1024 % 32 / 8)
  | _ =>
    let l := s.liveStacks
    if l.isEmpty then none else s.engineUp (4 * l.getD (a / 1024 / 4 % l.length) 0 + a / 1024 % 4)

/-- The client of a stream engine (Table 6-6, class 1). -/
def engineClient (o : Op) (e : Nat) : Client := ⟨o.q, ⟨1, e⟩, o.tag, some o.id⟩

/-- Copies bytes with their poison marks; answers false where an access faults or waits. -/
def copyBytes (s : State) (c : Client) (src dst n : Nat) : State × Bool :=
  match s.vreadL c src n with
  | (s, .error _) => (s, false)
  | (s, .ok (d, bads)) =>
    let marks := if src % 64 = dst % 64 then bads
      else List.replicate ((dst + n - 1) / 64 - dst / 64 + 1) (bads.any id)
    match s.vwriteL c dst d marks with
    | (s, .error _) => (s, false)
    | (s, .ok _) => (s, true)

/-- A request that holds a tag of engine `e` (R194). -/
def holdsTag (e : Nat) (r : Req) : Bool := r.engine == e && !r.lost && !r.direct

def outOf (s : State) (q e : Nat) : Nat := (s.reqs.filter (fun (r : Req) => r.q == q && holdsTag e r)).length

/-- SE_STAT OUT follows the tags outstanding. -/
def syncOut (s : State) (e : Nat) : State := s.wr .SE_STAT_OUT e (s.reqs.filter (holdsTag e)).length

/-- A read goes back to the head of its operation's stream. -/
def giveBack (s : State) (r : Req) : State := s.updOp r.op (fun o => { o with needs := r.need :: o.needs })

/-- Requests whose fault is resolved give back their tags and are made ready again (R194, R206). -/
def resumeFaulted (s : State) : State :=
  let gone := s.reqs.filter (fun (r : Req) => r.faulted && !s.isStalled r.op)
  let s1 := { s with reqs := s.reqs.filter (fun (r : Req) => !(r.faulted && !s.isStalled r.op)) }
  gone.foldl (fun (s : State) (r : Req) => (s.giveBack r).syncOut r.engine) s1

/-- The deadline of a read (R196, R197), as an absolute cycle. -/
def needDeadline (s : State) (o : Op) (e : Need) : Nat :=
  match o.kind with
  | 0x10 => s.rowDeadline o e.unit
  | 0x20 => s.turn0 + s.cycS
  | _ => e.at_ - 64

/-- A read at the head of its stream is ready but for its engine (R198, R203, R209); of a matrix operation from S on only where it lies before the
park point: for a work unit that has begun. -/
def needReady (s : State) (o : Op) (e : Need) : Bool :=
  let soon := decide (s.needDeadline o e ≤ s.now + s.rd .SE_CFG_LOOKAHEAD 0)
  s.claimFull o && (match o.kind with
    | 0x01 => soon && (!e.ofA || s.barOpen o) && (decide (s.pos < s.cycS) || decide (e.unit ≤ o.unitNo))
    | 0x10 => (soon || stDlPeriod o.raw == 0) && s.barOpen o
    | _ => s.barOpen o)

/-- What becomes of a read that is ready: it is served without a tag, by the scratchpad's port or plaza; it is the granules of a packed page; it is a
direct host load; an engine serves it, from a tier, unit and address; or it cannot be made now. -/
inductive Offer where
  | served
  | packed (gs : List Need)
  | direct
  | engine (e t u a : Nat)
  | none
  deriving DecidableEq, Repr

/-- Every line of bytes `[a, a + n)` is held in plaza (R193). -/
def linesHeld (s : State) (q t u a n : Nat) : Bool :=
  (t == 1 || t == 2) && (List.range ((a + n - 1) / 256 - a / 256 + 1)).all (fun i => (s.findLine q t u ((a / 256 + i) * 256)).isSome)

/-- The granules of sub-stream `j` of a packed page (R193): its run from LOCAL upwards; those are wanted that hold a block up to `last`. -/
def subGranules (s : State) (c : Client) (l : Leaf) (e : Need) (d : Dir) (last j : Nat) : List Need :=
  let t := pteTier l.pte
  let u := if t = 0 then c.q else pteUnit l.pte
  let (loc, len, cap) := d.runs.getD j (0, 0, 0)
  if cap = 0 then []
  else
    let (_, data, bads, bs) := s.subData c l.pte l.log2 j d.fmt d
    let stop := (subWalk d.fmt len (last + 1) data (badIn bads) bs 0).1
    (List.range (cdiv len 1024)).map (fun i =>
      { e with gran := some ⟨t, u, chanAddr t ((d.subs * d.slot + j) % nChan t) (1024 * (loc + i)), j, i == 0 || decide (1024 * i < stop)⟩ })

/-- The reads of a packed page for one read of its bytes (R193): the directory slot is read first; no granule is requested where the slot gives all. -/
def packedNeeds (s : State) (c : Client) (l : Leaf) (e : Need) : State × Offer :=
  match s.readDir c l.pte with
  | (s, .error x) => (s.packedFault c e.va false x, .none)
  | (s, .ok (d, bytes, poisoned)) =>
    if poisoned ∨ (!d.busy ∧ (!d.valid ∨ dirBad d bytes)) then (s, .served)
    else if d.busy then (s.waitForDir c l e.va false (List.replicate e.n 0) [], .none)
    else
      let rb := modeRB d.fmt
      let off := e.va % 2 ^ l.log2
      let first := off / rb
      let last := (off + e.n - 1) / rb
      let touched := (List.range d.subs).filter (fun j => (List.range (last + 1 - first)).any (fun i => (first + i) % d.subs == j))
      match touched.flatMap (fun j => s.subGranules c l e d last j) with
      | [] => (s, .served)
      | gs => (s, .packed gs)

/-- Who makes a read: a move as class 8, a stream engine as class 1, a blank's direct host load as class 0 (Table 6-6). -/
def needClient (o : Op) (e : Nat) : Client := if o.kind = 0x20 then ⟨o.q, ⟨8, 0⟩, o.tag, some o.id⟩ else engineClient o e

/-- Where a read that is ready is served (R192, R193, R211). -/
def offerNeed (s : State) (eng : Nat) (o : Op) (e : Need) : State × Offer :=
  let c := needClient o eng
  let at_ := fun (s : State) (t u a : Nat) => match s.engineOf t u a with
    | some x => (s, Offer.engine x t u a)
    | none => (s.raiseFault c e.va false 5 7 none, .none)
  match e.gran with
  | some g => at_ s g.tier g.unit g.addr
  | none =>
    match s.xlate c e.va false with
    | (s, .error _) => (s, .none)
    | (s, .ok l) =>
      let t := pteTier l.pte
      let u := if t = 0 then o.q else pteUnit l.pte
      let a := leafAddr l e.va
      if ptePacked l.pte then s.packedNeeds c l e
      else if t = 0 ∨ s.linesHeld o.q t u a e.n = true then (s, .served)
      else if t = 3 ∧ o.kind = 0x01 ∧ 16 ≤ e.stream then (s, .direct)
      else at_ s t u a

/-- Operation `id` has made read `e` (R203, R209): it leaves the stream. -/
def takeNeed (s : State) (id : Nat) (e : Need) : State :=
  s.updOp id (fun o => { o with
    needs := o.needs.erase e, claimOk := true, barOk := o.barOk || e.ofA || o.kind != 0x01 })

/-- A read of an operation is complete but for a copy: an explicit stream writes its bytes (R194). Answers whether it is. -/
def deliver (s : State) (o : Op) (eng : Nat) (e : Need) : State × Bool :=
  if o.kind = 0x10 then s.copyBytes (engineClient o eng) e.va e.dst e.n else (s.arrive o.id e, true)

/-- A request as it is made. -/
def newReq (s : State) (o : Op) (eng t : Nat) (e : Need) : Req :=
  ⟨s.h .nextReq 0, o.id, o.q, o.admitNo, eng, t, false, e, s.needDeadline o e, false, false, false, false, false⟩

def addReq (s : State) (r : Req) : State := { s with reqs := s.reqs ++ [r] }.addH .nextReq 0 1

/-- A read whose translation faults takes a tag of the engine that meets the fault, where its quarter's quota has one, and keeps it while it is stalled
(R194). Log entry 91, DESIGN CHOICE. -/
def holdFault (s : State) (eng : Nat) (o : Op) (e : Need) : State :=
  if s.stalls.any (fun x => x.op == some o.id && x.cause != 0) ∧ s.outOf o.q eng < s.rd .SE_Q_TAGS_TAGS_ACT o.q then
    (((s.takeNeed o.id e).addReq { s.newReq o eng 0 e with faulted := true }).syncOut eng)
  else s

/-- A candidate of an engine (R199): operation, read, tier, unit and address. -/
structure Cand where
  op : Op
  need : Need
  t : Nat
  u : Nat
  a : Nat
  deriving DecidableEq, Repr

/-- The reads of one operation at the heads of its streams, in order: what engine `eng` can issue joins `cands`. -/
def offerNeeds (s : State) (eng : Nat) (id : Nat) (cands : List Cand) : List Need → List Nat → State × List Cand
  | [], _ => (s, cands)
  | e :: es, seen =>
    match s.op? id with
    | none => (s, cands)
    | some o =>
      if s.isStalled id then (s, cands)
      else if seen.contains e.stream || !s.needReady o e then offerNeeds s eng id cands es (e.stream :: seen)
      else match s.offerNeed eng o e with
        | (s, .served) =>
          (match s.deliver o eng e with
           | (s, true) => offerNeeds (s.takeNeed id e) eng id cands es seen
           | (s, false) => (s, cands))
        | (s, .packed gs) => offerNeeds (s.updOp id (fun o => { o with needs := o.needs.flatMap (fun x => if x = e then gs else [x]) })) eng id cands es
            (e.stream :: seen)
        | (s, .direct) => offerNeeds ((s.takeNeed id e).addReq { s.newReq o eng 3 e with direct := true }) eng id cands es seen
        | (s, .engine x t u a) => offerNeeds s eng id (if x = eng then cands ++ [⟨o, e, t, u, a⟩] else cands) es (e.stream :: seen)
        | (s, .none) => (s.holdFault eng o e, cands)

/-- The page that a move reads next, a granule at a time (R146, R196): no page begins from S on. -/
def planPage (s : State) (o : Op) : State :=
  if o.unitNo = o.rowRun + 1 ∨ s.cycS ≤ s.pos then s
  else match s.xlate (needClient o 0) (bitsOf o.raw 64 64) false with
    | (s, .error _) => s
    | (s, .ok l) =>
      let sz := 2 ^ l.log2
      -- a copy reads from its source address on, a migrate whole pages
      let va := (if bitsOf o.raw 9 1 = 1 then bitsOf o.raw 64 64 else bitsOf o.raw 64 64 / sz * sz) + o.rowRun * sz
      s.updOp o.id (fun o => { o with unitNo := o.rowRun + 1, needs := cutNeeds o.rowRun stmMove 0 (fun _ => 0) va (sz / 1024 + 2) va sz })

/-- One operation's part in an engine's cycle. -/
def offerOp (s : State) (eng : Nat) (cands : List Cand) (id : Nat) : State × List Cand :=
  match s.op? id with
  | none => (s, cands)
  | some o =>
    if o.phase ≠ .running ∨ s.isStalled id ∨ s.h .halted o.q = 1 ∨ !(o.kind == 0x01 || o.kind == 0x10 || o.kind == 0x20) then (s, cands)
    else if s.waitBroken o then ((s.finish id stBarrierBroken).syncBlanks o.q, cands)
    else
      let s := if o.kind = 0x10 then s.setOp (s.planPiece o) else if o.kind = 0x20 ∧ s.barOpen o ∧ s.claimFull o then s.planPage o else s
      match s.op? id with
      | none => (s, cands)
      | some o => s.offerNeeds eng id cands o.needs []

/-- Whether candidate `a` goes before `b` (R199): deadline, quarter, admission, address. -/
def reqBefore (a b : Nat × Nat × Nat × Nat) : Bool :=
  decide (a.1 < b.1) || (a.1 == b.1 && (decide (a.2.1 < b.2.1) || (a.2.1 == b.2.1 && (decide (a.2.2.1 < b.2.2.1) ||
    (a.2.2.1 == b.2.2.1 && decide (a.2.2.2 < b.2.2.2))))))

/-- EV_SE_TAGS_FULL (R195, R29): quarter `q` has a ready request for engine `e` and no tag left of its quota; not from S on. -/
def tagsWait (s : State) (q e : Nat) (on : Bool) : State :=
  s.span .tagsSince (16 * e + q) (on && decide (s.pos < s.cycS)) evSeTagsFull q e

/-- An engine takes a tag and queues the request at its channel, or in Port A's tier-3 queue (R192, R199). -/
def issueReq (s : State) (eng : Nat) (c : Cand) : State :=
  let r : Req := { s.newReq c.op eng c.t c.need with atPort := c.t == 3 }
  let s1 := (s.takeNeed c.op.id c.need).addReq r
  let s2 := if c.t = 1 ∨ c.t = 2 then s1.enqueue c.t c.u ⟨c.op.q, c.a, false, some r.deadline, s.now, false, some r.id⟩ else s1
  (((s2.setH .seLast eng (s.now + 1)).syncOut eng).bump .SE_STAT_ISSUED eng 1).ev evSeIssue c.op.q eng 1

/-- A channel serves what stands before stream request `sid` in the order of R155, and then it; `n` bounds the requests. -/
def serveUntil (s : State) (sid : Nat) : Nat → State
  | 0 => s
  | n + 1 =>
    match s.memQ.find? (fun (e : Nat × Nat × Nat × MemReq) => e.2.2.2.sid == some sid) with
    | none => s
    | some (t, u, ch, _) =>
      match s.pickRequest t u ch with
      | some x => (s.serveReq t u ch x).serveUntil sid n
      | none => s

/-- A request is over: its tag is free. -/
def freeReq (s : State) (r : Req) : State :=
  ({ s with reqs := s.reqs.filter (fun (x : Req) => x.id != r.id) }.syncOut r.engine).tagsWait r.q r.engine false

/-- Granules of the sub-stream of `e` that are wanted have still to come (R193). -/
def subDue (s : State) (id : Nat) (e : Need) : Bool :=
  s.dataDue id (fun x => x.stream == e.stream && x.va == e.va && x.unit == e.unit && (match x.gran, e.gran with
    | some a, some b => a.sub == b.sub && a.must
    | _, _ => false))

/-- Wanted granules of any sub-stream of the read of `e` have still to come. -/
def pieceDue (s : State) (id : Nat) (e : Need) : Bool :=
  s.dataDue id (fun x => x.stream == e.stream && x.va == e.va && x.unit == e.unit && (match x.gran with
    | some a => a.must
    | none => false))

/-- The data of request `r` of operation `o` is there (R193, R194): of a packed page the requests beyond the last block wanted are dropped once it
has come. -/
def answered (s : State) (r : Req) (o : Op) : State :=
  match r.need.gran with
  | none =>
    (match s.deliver o r.engine r.need with
     | (s, true) => s.freeReq r
     | (s, false) => s)
  | some g =>
    let s1 := s.freeReq r
    let drop := fun (s : State) => s.updOp o.id (fun o => { o with needs := o.needs.filter (fun x =>
      !(x.stream == r.need.stream && x.va == r.need.va && x.unit == r.need.unit && (match x.gran with
        | some a => a.sub == g.sub
        | none => false))) })
    if !g.must || s1.subDue o.id r.need then s1
    else if s1.pieceDue o.id r.need then drop s1
    else
      (match s.deliver o r.engine r.need with
       | (s, true) => drop (s.freeReq r)
       | (s, false) => s)

end State

/-- STREAM_ISSUE (R192 to R199): engine `e` in one cycle issues at most one request, the ready one of least deadline. Reads that the scratchpad or
plaza serve take no tag. -/
def execStreamIssue (e t : Nat) (s : State) : Host.Outcome State Fault Refusal :=
  let s := (s.goTo t).resumeFaulted
  let (s, cands) := (s.ops.map (·.id)).foldl (fun (acc : State × List State.Cand) (id : Nat) => acc.1.offerOp e acc.2 id) (s, [])
  let full := fun (q : Nat) => decide (s.rd .SE_Q_TAGS_TAGS_ACT q ≤ s.outOf q e)
  let key := fun (c : State.Cand) => (s.needDeadline c.op c.need, c.op.q, c.op.admitNo, c.need.va)
  let s1 := (List.range s.nQ).foldl (fun (s : State) (q : Nat) => s.tagsWait q e (full q && cands.any (fun c => c.op.q == q))) s
  match cands.filter (fun c => !full c.op.q) with
  | [] => .next s1
  | c :: cs =>
    if s1.h .seLast e = s1.now + 1 then .next s1
    else .next (s1.issueReq e (cs.foldl (fun b x => if State.reqBefore (key x) (key b) then x else b) c))

/-- CXL.cache requests that Port A has outstanding (R277): 16 for each tier-3 stream request it has sent, one for each direct store. -/
def State.cacheOut (s : State) : Nat :=
  16 * (s.reqs.filter (fun (r : Req) => !r.atPort && r.tier == 3)).length + (s.direct.filter (fun (d : DirectStore) => d.st == 1)).length

/-- PORT_TIER3_ISSUE (R192, R277): Port A sends the request of least deadline that waits for it, while fewer than 4,096 are outstanding. A
request that failed is sent again once its fault is resolved. With no stack left, what is pending raises OFFLINE. -/
def execPortTier3Issue (t : Nat) (s : State) : Host.Outcome State Fault Refusal :=
  let s := s.goTo t
  match s.reqs.filter (fun (r : Req) => r.atPort && !(r.lost && s.isStalled r.op)) with
  | [] => .next s
  | r :: rs =>
    if s.liveStacks.isEmpty then
      .next ((r :: rs).foldl (fun (s : State) (r : Req) => match s.op? r.op with
        | some o => { s with reqs := s.reqs.map (fun (x : Req) => if x.id = r.id then { x with atPort := false, faulted := true } else x) }.raiseFault
            (State.needClient o r.engine) r.need.va false 5 7 none
        | none => s.freeReq r) s)
    else if 4096 < s.cacheOut + 16 then .next (s.ev evPortCredit 15 0 1)
    else
      let key := fun (x : Req) => (x.deadline, x.q, x.adm, x.need.va)
      let b := rs.foldl (fun (b x : Req) => if State.reqBefore (key x) (key b) then x else b) r
      .next ({ s with reqs := s.reqs.map (fun (x : Req) => if x.id = b.id then { x with atPort := false, lost := false } else x) }.syncOut b.engine)

/-- STREAM_RESPONSE (R155, R193, R194, R206): the data of request `req` returns, once its channel has served it; it is in the line or the
destination, and the tag is freed once the write is accepted. A response for an operation that no longer runs, or that has switched to its replica
(R150), is discarded. Log entry 26, DEDUCED. -/
def execStreamResponse (req t : Nat) (s : State) : Host.Outcome State Fault Refusal :=
  let s := (s.goTo t).serveUntil req s.memQ.length
  match s.reqs.find? (fun (r : Req) => r.id == req && !r.atPort && !r.faulted) with
  | none => .next s
  | some r =>
    if s.memQ.any (fun (e : Nat × Nat × Nat × MemReq) => e.2.2.2.sid == some req) then .next s
    else match s.op? r.op with
      | none => .next (s.freeReq r)
      | some o => if o.phase ≠ .running ∨ r.drop then .next (s.freeReq r) else .next (s.answered r o)

/-- SLOT_OPEN (R202, R205): a stream opens its next work unit: a buffer slot at the tail while there is one, or a segment. None opens
from cycle S on. -/
def execSlotOpen (id t : Nat) (s : State) : Host.Outcome State Fault Refusal :=
  let s := s.goTo t
  match s.op? id with
  | none => .next s
  | some o =>
    let p := StreamPos.ofOp o
    let d := o.raw
    if o.kind ≠ 0x10 ∨ o.phase ≠ .running ∨ p.opened ≠ 0 ∨ s.cycS ≤ s.pos ∨ s.h .halted o.q = 1 then .next s
    else if s.waitBroken o then .next (s.finish id stBarrierBroken)
    else if stDstKind d = 1 then
      let i := State.bufIdx o.q (stBuf d)
      let slots := (s.bufSlots o.q (stBuf d)).getD 1
      if s.rd .SE_BUF_PTR_FULL i < slots then
        let s1 := if p.fullSince = 0 then s else s.ev evSeBufFull o.q (stBuf d) (s.now + 1 - p.fullSince)
        .next (s1.setOp ({ p with
          opened := streamCursor o + 1, fullSince := 0,
          slot := (s.rd .SE_BUF_PTR_HEAD i + s.rd .SE_BUF_PTR_FULL i) % slots }.put o))
      else .next (if p.fullSince = 0 then s.setOp ({ p with fullSince := s.now + 1 }.put o) else s)
    else .next (s.setOp ({ p with opened := streamCursor o + 1 }.put o))

/-- SLOT_COMMIT (R202, R204, R205): every row of the open work unit is delivered: the slot becomes full, the cursor advances and the
checkpoint is written; the stream ends after its last row, and parks from cycle S on. -/
def execSlotCommit (id t : Nat) (s : State) : Host.Outcome State Fault Refusal :=
  let s := s.goTo t
  match s.op? id with
  | none => .next s
  | some o =>
    let p := StreamPos.ofOp o
    let d := o.raw
    let done := s.unitEnd o (p.opened - 1)
    if o.kind ≠ 0x10 ∨ o.phase ≠ .running ∨ p.opened = 0 ∨ p.row < done ∨ s.h .halted o.q = 1 ∨
        s.dataDue id (fun e => decide (e.unit < done)) then .next s
    else
      let i := State.bufIdx o.q (stBuf d)
      let s := if stDstKind d = 1 then s.wr .SE_BUF_PTR_FULL i (s.rd .SE_BUF_PTR_FULL i + 1) else s
      let o := { p with opened := 0 }.put { o with
        rowRun := done % 2 ^ 32, nBlock := done / 2 ^ 32, overrun := false, spilled := false, noProgress := 0 }
      if done < stTotal d ∧ s.cycS ≤ s.pos then .next ((s.setOp o).parkOp id false false 0)
      else
        let (_, _, chunk) := estOf d
        let left : Op := { o with estCycles := max (o.estCycles - o.slice) chunk, estTokens := max (o.estTokens - o.charge) 1 }
        let (s, ok) := (s.setOp o).writeRecord left
        if ok then .next (s.updOp id (fun l =>
          let l := { l with estCycles := o.estCycles, estTokens := o.estTokens }
          if stTotal d ≤ done then { l with phase := .ended, status := some stSuccess } else l))
        else .next (s.finish id stPageFault)

end Sys2Proof.Machine
end

