-- ==== Sys2Proof/Machine/Fabric.lean ====
section
/-! DEFINITION. The fabric engines (chapter 13): receive windows, send logs, routes, messages and the fabric operations. -/

namespace Sys2Proof.Machine

/-- Fields of a fabric descriptor (Table 13-5). -/
def feOp (d : Nat) : Nat := bitsOf d 9 2
def feGather (d : Nat) : Bool := bitsOf d 11 1 == 1
def fePhint (d : Nat) : Nat := bitsOf d 12 2
def feKeep (d : Nat) : Nat := bitsOf d 14 4
def feRoute (d : Nat) : Nat := bitsOf d 18 6
def feR (d : Nat) : Nat := bitsOf d 32 6 + 1
def fePos (d : Nat) : Nat := bitsOf d 40 6
def feXfer (d : Nat) : Nat := bitsOf d 48 16
def feBytes (d : Nat) : Nat := bitsOf d 64 32
def feSrc (d : Nat) : Nat := bitsOf d 128 64
def feDst (d : Nat) : Nat := bitsOf d 192 64

/-- Fields of a route-table entry (Table 13-3). -/
def rtValid (r : Nat) : Bool := bitsOf r 0 1 == 1
def rtEngine (r : Nat) : Nat := bitsOf r 1 1
def rtPeerIdx (r : Nat) : Nat := bitsOf r 2 6
def rtPeerMod (r : Nat) : Nat := bitsOf r 16 16
def rtPeerQ (r : Nat) : Nat := bitsOf r 32 4
def rtPeerRid (r : Nat) : Nat := bitsOf r 48 16
def rtWin (r : Nat) : Nat := bitsOf r 64 64

/-- Fields of a message header (Table 13-1). -/
def mhVer (h : Nat) : Nat := bitsOf h 0 8
def mhOpc (h : Nat) : Nat := bitsOf h 8 2
def mhGather (h : Nat) : Bool := bitsOf h 10 1 == 1
def mhPoison (h : Nat) : Bool := bitsOf h 11 1 == 1
def mhHops (h : Nat) : Nat := bitsOf h 12 8
def mhSrcIdx (h : Nat) : Nat := bitsOf h 20 6
def mhSrcMod (h : Nat) : Nat := bitsOf h 32 16
def mhDstMod (h : Nat) : Nat := bitsOf h 48 16
def mhDstQ (h : Nat) : Nat := bitsOf h 68 4
def mhXfer (h : Nat) : Nat := bitsOf h 72 16
def mhBytes (h : Nat) : Nat := bitsOf h 88 13
def mhAlive (h : Nat) : Nat := bitsOf h 128 32
def mhEpoch (h : Nat) : Nat := bitsOf h 160 32
def mhOffset (h : Nat) : Nat := bitsOf h 192 32
def mhCrc (h : Nat) : Nat := bitsOf h 480 32

/-- Bytes of a slot of a receive window, and where the acknowledgement lines and the route state area lie (R297, R298). -/
def feSlot : Nat := 4160
def feAckOff : Nat := 17039360
def feStateOff : Nat := 8519680

/-- `a − b` as a 32-bit difference, and whether it is below zero when signed (R302). -/
def diff32 (a b : Nat) : Nat := (a % 2 ^ 32 + 2 ^ 32 - b % 2 ^ 32) % 2 ^ 32
def below32 (a b : Nat) : Bool := decide (2 ^ 31 ≤ diff32 a b)

/-- What a message carries, before ALIVE and CRC. -/
structure FeMsg where
  opc : Nat
  gather : Bool
  poison : Bool
  hops : Nat
  xfer : Nat
  offset : Nat
  payload : List Byte
  deriving DecidableEq, Repr

/-- What a fabric operation keeps beside its cursor: 1 when it stored or sent poison (R307). -/
def feBad (o : Op) : Bool := o.aux.getD 0 0 == 1

/-- Messages that an operation originates (R305, R306). -/
def feCount (d : Nat) : Nat :=
  if feOp d = 0 then (feBytes d + 4095) / 4096 else if feOp d = 2 then feBytes d / feR d / 4096 else 0

/-- Bytes that an operation stores (R307). -/
def feStores (d : Nat) : Nat :=
  if feOp d = 0 then 0 else if feOp d = 2 ∧ !feGather d then feBytes d / feR d else feBytes d

/-- The leaf with the hint of the descriptor in place of its own (Table 6-2). -/
def hintLeaf (l : Leaf) (hint keep : Nat) : Leaf :=
  { l with pte := l.pte % 2 ^ 96 + 2 ^ 96 * hint + 2 ^ 98 * keep + 2 ^ 102 * (l.pte / 2 ^ 102) }

namespace State

/-- The client of fabric engine `e` (Table 6-6, class 6). -/
def feClient (q e tag : Nat) (op : Option Nat) : Client := ⟨q, ⟨6, e⟩, tag, op⟩

def route (s : State) (q i : Nat) : Nat := Tab.get 0 (64 * q + i) s.routes

/-- Virtual addresses of the receive window and the send log of a quarter (R297, R298). -/
def feWin (s : State) (q : Nat) : Nat := s.rd .PT_Q_CFG_B2_BASE q * 2 ^ 36 + s.rd .FE_Q_CFG_RX_OFF q * 65536
def feLog (s : State) (q : Nat) : Nat := s.rd .FE_Q_LOG_VA q * 4096
def feRecVA (s : State) (q e r : Nat) : Nat := s.feLog q + (1024 * e + r) * feSlot

/-- Whether route `i` of `q` is DOWN. -/
def routeDown (s : State) (q i : Nat) : Bool := bitsOf (s.rd .FE_Q_DOWN_DOWN q) i 1 == 1

/-- R304. -/
def fabricInvalid (s : State) (q d : Nat) : Bool :=
  let op := feOp d
  let r := feR d
  op == 3 || bitsOf d 24 8 != 0 || bitsOf d 38 2 != 0 || bitsOf d 46 2 != 0 || bitsOf d 96 32 != 0 || bitsOf d 309 11 != 0 ||
    bitsOf d 352 160 != 0 || !rtValid (s.route q (feRoute d)) || bitsOf d 180 12 != 0 || bitsOf d 244 12 != 0 ||
    feBytes d == 0 || feBytes d % 64 != 0 || (op == 2 && (feBytes d % (4096 * r) != 0 || r == 1 || decide (r ≤ fePos d)))

/-- OUT of FE_STAT. -/
def syncFe (s : State) (e : Nat) : State := s.wr .FE_STAT_OUT e (s.feTx.filter (fun x => x.e == e)).length

/-- Sets an error bit of FE_Q_ERR; ROUTE keeps the first since all four were clear. -/
def feErr (s : State) (f : Fld) (q i : Nat) : State :=
  let clear := [Fld.FE_Q_ERR_FOREIGN, .FE_Q_ERR_RANGE, .FE_Q_ERR_TIMEOUT, .FE_Q_ERR_PROTO].all (fun g => s.rd g q == 0)
  (if clear then s.wr .FE_Q_ERR_ROUTE q i else s).mark f q

/-- Route state: NEXT, EXP and SEEN of route `i` (R298). -/
def rsRead (s : State) (q e i : Nat) : State × Option (Nat × Nat × Nat) :=
  match s.vread (feClient q e 0 none) (s.feLog q + feStateOff + 16 * i) 16 with
  | (s, .ok (d, _)) =>
    let w := ofBytes d
    (s, some (bitsOf w 0 32, bitsOf w 32 32, bitsOf w 64 64))
  | (s, .error _) => (s, none)

def rsWrite (s : State) (q e i next exp seen : Nat) : State × Bool :=
  match s.vwrite (feClient q e 0 none) (s.feLog q + feStateOff + 16 * i)
      (toBytes (next % 2 ^ 32 + 2 ^ 32 * (exp % 2 ^ 32) + 2 ^ 64 * (seen % 2 ^ 64)) 16) with
  | (s, .ok _) => (s, true)
  | (s, .error _) => (s, false)

/-- The bytes of a message on the bus, header and payload apart: `h` the header as a number, its CRC put in (R300). -/
def msgBytes (h : Nat) (payload : List Byte) : List Byte :=
  let head := toBytes h 60
  head ++ toBytes (crc32c (head ++ payload)) 4

/-- Puts a message on the bus: its payload, then its header line, into the peer's window (R296, R297). Writes on a port whose link is
down are lost. -/
def putMessage (s : State) (r alive : Nat) (head payload : List Byte) : State :=
  if s.flag .PT_LINK_STAT_UP (rtEngine r) then
    let a := rtWin r + (64 * rtPeerIdx r + alive % 64) * feSlot
    (s.setBytes 3 0 (a + 64) payload).setBytes 3 0 a head
  else s

/-- Why a message cannot go: the quota, the half of it that originated messages may hold, or the 64 messages of a route (R299). -/
def feBlocked (s : State) (q route op : Nat) (own : Bool) : Option Nat :=
  let e := rtEngine (s.route q route)
  let quota := s.rd .FE_Q_CFG_CREDITS_ACT q
  let held := (s.feTx.filter (fun x => x.q == q && x.e == e)).length
  let mine := (s.feTx.filter (fun x => x.q == q && x.e == e && x.own && x.op == op)).length
  if quota ≤ held ∨ (own = true ∧ quota / 2 ≤ mine) ∨ 1024 ≤ (s.feTx.filter (fun x => x.e == e)).length then some evFeMsgFull
  else if 64 ≤ (s.feTx.filter (fun x => x.q == q && x.route == route)).length then some evFeLaneFull
  else none

/-- EV_FE_MSG_FULL and EV_FE_LANE_FULL (R26): why messages of `q` wait at engine `e`, if they do. -/
def messageWait (s : State) (q e : Nat) (why : Option Nat) : State :=
  (s.span .feMsgSince (16 * e + q) (why == some evFeMsgFull) evFeMsgFull q e).span .feLaneSince (16 * e + q) (why == some evFeLaneFull)
    evFeLaneFull q e

/-- Logs a message in a free record, takes its credit and sends it (R296, R298, R299); false where nothing was sent. -/
def sendMsg (s : State) (q route op : Nat) (own : Bool) (m : FeMsg) : State × Bool :=
  let r := s.route q route
  let e := rtEngine r
  let why := s.feBlocked q route op own
  let s := s.messageWait q e why
  match why with
  | some _ => (s, false)
  | none =>
    match s.rsRead q e route with
    | (s, none) => (s, false)
    | (s, some (next, exp, seen)) =>
      let used := s.feTx.filterMap (fun x => if x.q = q ∧ x.e = e then some x.recNo else none)
      let k := ((List.range 1024).find? (fun i => !used.contains i)).getD 0
      let h := 1 + 2 ^ 8 * m.opc + (if m.gather then 2 ^ 10 else 0) + (if m.poison then 2 ^ 11 else 0) + 2 ^ 12 * m.hops +
        2 ^ 20 * rtPeerIdx r + 2 ^ 32 * s.h .modId 0 + 2 ^ 48 * rtPeerMod r + 2 ^ 64 * q + 2 ^ 68 * rtPeerQ r +
        2 ^ 72 * m.xfer + 2 ^ 88 * m.payload.length + 2 ^ 128 * next + 2 ^ 160 * s.rd .FE_Q_ERR_EPOCH_ACT q + 2 ^ 192 * m.offset
      let head := msgBytes h m.payload
      let logged := toBytes (ofBytes head + 2 ^ 26) 64 ++ m.payload
      match s.vwrite (feClient q e 0 none) (s.feRecVA q e k) logged with
      | (s, .error _) => (s, false)
      | (s, .ok _) =>
        let (s, ok) := s.rsWrite q e route (next + 1) exp seen
        if ok then
          let x : FeTx := ⟨q, e, k, route, next, op, own, s.now, 0, false⟩
          let s1 := { s with feTx := s.feTx ++ [x] }
          (((s1.putMessage r next head m.payload).bump .FE_STAT_SENT e 1).syncFe e, true)
        else (s, false)

/-- Sends a logged message again (R303). -/
def resend (s : State) (x : FeTx) : State :=
  match s.vread (feClient x.q x.e 0 none) (s.feRecVA x.q x.e x.recNo) feSlot with
  | (s, .error _) => s
  | (s, .ok (d, _)) =>
    let h := ofBytes (d.take 64)
    let r := s.route x.q x.route
    let s1 := s.putMessage r x.alive (toBytes (h - 2 ^ 26 * bitsOf h 26 1) 64) ((d.drop 64).take (mhBytes h))
    let s2 := { s1 with feTx := s1.feTx.map (fun (y : FeTx) => if y = x then { y with sentAt := s.now, resends := y.resends + 1 } else y) }
    s2.bump .FE_STAT_RESENT x.e 1

/-- Frees send records: VALID cleared in the log, the credits returned. -/
def freeRecords (s : State) (xs : List FeTx) : State :=
  let s1 := xs.foldl (fun (s : State) (x : FeTx) =>
    let va := s.feRecVA x.q x.e x.recNo
    match s.vread (feClient x.q x.e 0 none) va 64 with
    | (s, .error _) => s
    | (s, .ok (d, _)) =>
      let h := ofBytes d
      (s.vwrite (feClient x.q x.e 0 none) va (toBytes (h - 2 ^ 26 * bitsOf h 26 1) 64)).1) s
  ({ s1 with feTx := s1.feTx.filter (fun x => !xs.contains x) }.syncFe 0).syncFe 1

/-- An operation whose messages have all been applied downstream and whose bytes are stored has finished (R307). -/
def feDone (s : State) (id : Nat) : State :=
  match s.op? id with
  | some o =>
    if o.kind = 0x40 ∧ o.phase = .running ∧ feCount o.raw ≤ o.rowRun ∧ feStores o.raw ≤ o.spillBytes ∧
        !s.feTx.any (fun x => x.op == id) then
      s.setOp { o with phase := .ended, status := some (if feBad o then stPoisonedData else stSuccess) }
    else s
  | none => s

/-- The acknowledgement line of route `i` of `q` to its peer (R303, Table 13-2). -/
def sendAck (s : State) (q i : Nat) (missing : Bool) : State :=
  let r := s.route q i
  match s.rsRead q (rtEngine r) i with
  | (s, none) => s
  | (s, some (_, exp, seen)) =>
    let first := (List.range 65).find? (fun k => bitsOf seen k 1 == 0)
    let h := 2 + (if missing then 2 ^ 8 else 0) + 2 ^ 16 * rtPeerIdx r + 2 ^ 32 * s.rd .FE_Q_ERR_EPOCH_ACT q +
      2 ^ 64 * ((exp + first.getD 64) % 2 ^ 32) + 2 ^ 96 * exp
    let s1 := (s.setH .feApps (64 * q + i) 0).setH .feAckAt (64 * q + i) 0
    if s1.flag .PT_LINK_STAT_UP (rtEngine r) then s1.setBytes 3 0 (rtWin r + feAckOff + 64 * rtPeerIdx r) (msgBytes h []) else s1

/-- A reception or application starts the acknowledgement timer where none runs (R303). -/
def startAck (s : State) (q i : Nat) : State :=
  if s.h .feAckAt (64 * q + i) = 0 then s.setH .feAckAt (64 * q + i) (s.now + 1) else s

/-- The executing operation of `q` that has armed a transfer (R304). -/
def armed (s : State) (q xfer : Nat) : Option Op :=
  s.ops.find? (fun o => o.q == q && o.kind == 0x40 && o.phase == .running && feXfer o.raw == xfer)

/-- The message in a slot of the window of `q`: its header and payload. -/
def slotMsg (s : State) (q e i l : Nat) : State × Option (Nat × List Byte × Bool) :=
  let va := s.feWin q + (64 * i + l) * feSlot
  match s.vread (feClient q e 0 none) va 64 with
  | (s, .error _) => (s, none)
  | (s, .ok (d, _)) =>
    let h := ofBytes d
    let n := mhBytes h
    if n < 64 ∨ 4096 < n ∨ n % 64 ≠ 0 then (s, some (h, [], true))
    else match s.vread (feClient q e 0 none) (va + 64) n with
      | (s, .error _) => (s, none)
      | (s, .ok (p, _)) => (s, some (h, p, false))

/-- The receive checks 1 to 7 of Table 13-4 for the header line of slot (i, l), written with requester ID `rid`. -/
def checkHeader (s : State) (e q i l rid : Nat) : State :=
  if !s.flag .FE_Q_CFG_RX_EN q then s
  else match s.slotMsg q e i l with
  | (s, none) => s
  | (s, some (h, p, badLen)) =>
    let r := s.route q (mhSrcIdx h)
    let act := s.rd .FE_Q_ERR_EPOCH_ACT q
    if badLen ∨ mhVer h ≠ 1 ∨ 2 ≤ mhOpc h ∨ mhCrc h ≠ crc32c (toBytes h 60 ++ p) then s.ev evFeCrc q e 1
    else if !rtValid r ∨ mhSrcMod h ≠ rtPeerMod r ∨ mhDstMod h ≠ s.h .modId 0 ∨ mhDstQ h ≠ q ∨ rid ≠ rtPeerRid r then
      (s.feErr .FE_Q_ERR_FOREIGN q (mhSrcIdx h)).ev evFeForeign q e 1
    else if below32 (mhEpoch h) act then s.ev evFeStale q e 1
    else if mhEpoch h ≠ act then
      (let x : FeHeld := ⟨e, q, i, l, rid⟩
       if s.feHeld.contains x then s else { s with feHeld := s.feHeld ++ [x] })
    else match s.rsRead q e (mhSrcIdx h) with
    | (s, none) => s
    | (s, some (next, exp, seen)) =>
      let a := mhAlive h
      let k := diff32 a exp
      if below32 a exp ∨ (k < 64 ∧ bitsOf seen k 1 = 1) then (s.sendAck q (mhSrcIdx h) false).ev evFeDup q e 1
      else if 64 ≤ k then s.feErr .FE_Q_ERR_PROTO q (mhSrcIdx h)
      else
        let (s, ok) := s.rsWrite q e (mhSrcIdx h) next exp (seen + 2 ^ k)
        if !ok then s
        else
          let wait := if (s.armed q (mhXfer h)).isSome then 0 else s.now + 1
          let s1 := { s with feRx := s.feRx ++ [(⟨q, i, l, mhSrcIdx h, a, false, wait⟩ : FeRx)] }
          if (List.range k).any (fun j => bitsOf seen j 1 == 0) then s1.sendAck q (mhSrcIdx h) true else s1.startAck q (mhSrcIdx h)

/-- A message counts as applied: EXP advances past every applied ALIVE contiguous from it; every eighth application is acknowledged
(R302, R303). -/
def markApplied (s : State) (x : FeRx) : State :=
  let q := x.q
  let i := x.rt
  let e := rtEngine (s.route q i)
  match s.rsRead q e i with
  | (s, none) => s
  | (s, some (next, exp, seen)) =>
    let mine := s.feRx.map (fun (y : FeRx) => if y = x then { y with applied := true } else y)
    let isApplied := fun (a : Nat) => mine.any (fun (y : FeRx) => y.q == q && y.rt == i && y.applied && y.alive == a % 2 ^ 32)
    let n := ((List.range 64).find? (fun k => !isApplied (exp + k))).getD 64
    let left := mine.filter (fun (y : FeRx) => !(y.q == q && y.rt == i && y.applied && decide (diff32 y.alive exp < n)))
    let (s, _) := { s with feRx := left }.rsWrite q e i next (exp + n) (seen / 2 ^ n)
    let apps := s.h .feApps (64 * q + i) + 1
    if 8 ≤ apps then s.sendAck q i false else (s.setH .feApps (64 * q + i) apps).startAck q i

/-- Stores with the hint of the descriptor (R305, Table 6-2). `k` bounds the pieces. -/
def feStore (s : State) (c : Client) (hint keep va : Nat) (d : List Byte) (bad : Bool) : Nat → State × Bool
  | 0 => (s, true)
  | k + 1 =>
    if d.isEmpty then (s, true)
    else
      match s.xlate c va true with
      | (s, .error _) => (s, false)
      | (s, .ok l) =>
        let m := if ptePacked l.pte then min d.length (2 ^ l.log2 - va % 2 ^ l.log2) else min d.length (64 - va % 64)
        match s.writeOne c (hintLeaf l hint keep) va (d.take m) (List.replicate ((va + m - 1) / 64 - va / 64 + 1) bad) with
        | (s, .error _) => (s, false)
        | (s, .ok _) => feStore s.settle c hint keep (va + m) (d.drop m) bad k

/-- y = RNE(in + local) element by element, with its flags (R306). -/
def feAdd : List Byte → List Byte → List Byte × Nat
  | a0 :: a1 :: a2 :: a3 :: as, b0 :: b1 :: b2 :: b3 :: bs =>
    let (v, f) := add32 (ofBytes [a0, a1, a2, a3]) (ofBytes [b0, b1, b2, b3])
    let (ys, g) := feAdd as bs
    (toBytes v 4 ++ ys, f ||| g)
  | _, _ => ([], 0)

/-- Notes bytes stored, poison and flags of an operation. -/
def feNote (s : State) (id n : Nat) (bad : Bool) (fl : Nat) : State :=
  match s.op? id with
  | none => s
  | some o => (s.mergeFlags o.q fl).setOp { o with
      spillBytes := o.spillBytes + n, aux := if bad then [1] else o.aux, flags := o.flags ||| fl }

/-- Checks 8 to 10 of Table 13-4: the message of a slot is applied to the operation that has armed its transfer (R305 to R307). Log entry 63, DEDUCED. -/
def applyMsg (s : State) (x : FeRx) : State :=
  let q := x.q
  match s.slotMsg q (rtEngine (s.route q x.rt)) x.i x.l with
  | (s, none) => s
  | (s, some (h, p, _)) =>
    match s.armed q (mhXfer h) with
    | none => if x.since = 0 then { s with feRx := s.feRx.map (fun (y : FeRx) => if y = x then { y with since := s.now + 1 } else y) } else s
    | some o =>
      let d := o.raw
      let s := if x.since = 0 then s else s.ev evFeRxWait q (rtEngine (s.route q x.rt)) (s.now + 1 - x.since)
      let c := feClient q (rtEngine (s.route q x.rt)) o.tag (some o.id)
      let off := mhOffset h
      let fits := (feOp d = 1 ∧ mhOpc h = 0) ∨ (feOp d = 2 ∧ (mhOpc h = 1 ∨ feGather d = true))
      let rt := feRoute d
      let fwd := fun (s : State) (m : FeMsg) => s.sendMsg q rt o.id false m
      if ¬ fits ∨ feBytes d < off + mhBytes h then
        ((s.feErr .FE_Q_ERR_RANGE q x.rt).markApplied x).finish o.id stFabricRange
      else if mhOpc h = 0 then
        -- a PUT is stored, and forwarded while HOPS is above 1 (R305)
        let go := mhHops h > 1
        if go ∧ (s.feBlocked q rt o.id false).isSome = true then s.messageWait q (rtEngine (s.route q rt)) (s.feBlocked q rt o.id false)
        else
          match s.feStore c (fePhint d) (feKeep d) (feDst d + off) p (mhPoison h) (p.length / 64 + 2) with
          | (s, false) => s
          | (s, true) =>
            let (s, ok) := if go then fwd s ⟨0, false, mhPoison h, mhHops h - 1, mhXfer h, off, p⟩ else (s, true)
            if ok then ((s.feNote o.id p.length (mhPoison h) 0).markApplied x).feDone o.id else s
      else
        -- a RADD adds the local contribution, and goes on or ends here (R306)
        match s.vread c (feSrc d + off) p.length with
        | (s, .error _) => s
        | (s, .ok (loc, lbad)) =>
          let (y, fl) := feAdd p loc
          let bad := mhPoison h || lbad
          let last := mhHops h ≤ 1
          if (¬ last ∨ mhGather h = true) ∧ (s.feBlocked q rt o.id false).isSome = true then
            s.messageWait q (rtEngine (s.route q rt)) (s.feBlocked q rt o.id false)
          else if last then
            match s.feStore c (fePhint d) (feKeep d) (feDst d + off) y bad (p.length / 64 + 2) with
            | (s, false) => s
            | (s, true) =>
              let (s, ok) := if mhGather h then fwd s ⟨0, false, bad, feR d - 1, mhXfer h, off, y⟩ else (s, true)
              if ok then ((s.feNote o.id y.length bad fl).markApplied x).feDone o.id else s
          else
            let (s, ok) := fwd s ⟨1, mhGather h, bad, mhHops h - 1, mhXfer h, off, y⟩
            if ok then ((s.feNote o.id 0 bad fl).markApplied x).feDone o.id else s

/-- A route goes DOWN (R303): its credits are freed, and the operations that use it complete with fabric-timeout. -/
def downRoute (s : State) (q i : Nat) : State :=
  let s1 := s.wr .FE_Q_DOWN_DOWN q (s.rd .FE_Q_DOWN_DOWN q ||| 2 ^ i)
  let s2 := s1.freeRecords (s1.feTx.filter (fun x => x.q == q && x.route == i))
  let s3 := s2.feErr .FE_Q_ERR_TIMEOUT q i
  (s3.ops.filter (fun o => o.q == q && o.kind == 0x40 && feRoute o.raw == i && o.phase != .queued && o.phase != .ended)).foldl
    (fun (s : State) (o : Op) => s.finish o.id stFabricTimeout) s3

/-- A fabric operation begins (R304): it arms its XFER. All its reads follow, so that it waits here on its barrier and its claim (R203, R209). Log
entry 93, DEDUCED. -/
def feBegin (s : State) (id op : Nat) : State :=
  match s.op? id with
  | some o =>
    if o.kind = 0x40 ∧ feOp o.raw = op ∧ o.phase = .placing ∧ s.pos < s.cycS ∧ s.h .halted o.q = 0 then
      if s.waitBroken o then s.finish id stBarrierBroken
      else if !s.barOpen o ∨ !s.claimFull o then s
      else if (s.armed o.q (feXfer o.raw)).isSome then s.finish id stTransferBusy
      else if s.routeDown o.q (feRoute o.raw) then s.finish id stFabricTimeout
      else (s.setOp { o with phase := .running, startAt := s.now, claimOk := true, barOk := true }).feDone id
    else s
  | none => s

/-- The staged route table of `q` (R301); false where it is not applied. -/
def applyTable (s : State) (q : Nat) : State × Bool :=
  if s.feTx.any (fun x => x.q == q) || s.feRx.any (fun x => x.q == q && !x.applied) then (s, false)
  else
    match s.vread (feClient q 0 0 none) (s.rd .FE_Q_RT_VA q * 64) 2112 with
    | (s, .error _) => (s, false)
    | (s, .ok (d, bad)) =>
      let chk := ofBytes ((d.drop 62).take 2)
      if bad ∨ crc16 0xFFFF (d.take 62 ++ d.drop 64) ≠ chk then (s, false)
      else
        match s.vwrite (feClient q 0 0 none) (s.feLog q + feStateOff) (List.replicate 1024 0) with
        | (s, .error _) => (s, false)
        | (s, .ok _) =>
          let s1 := (List.range 64).foldl (fun (s : State) (i : Nat) =>
            { s with routes := Tab.set 0 (64 * q + i) (ofBytes ((d.drop (64 + 32 * i)).take 32)) s.routes }) s
          let s2 := (s1.wr .FE_Q_ERR_EPOCH_ACT q (ofBytes (d.take 4))).wr .FE_Q_DOWN_DOWN q 0
          let s3 := (List.range 64).foldl (fun (s : State) (i : Nat) => (s.setH .feApps (64 * q + i) 0).setH .feAckAt (64 * q + i) 0) s2
          ({ s3 with feRx := s3.feRx.filter (fun x => x.q != q) }, true)

/-- Change 4 of Table 2-6: the route tables of Q0 to Q11, and MOD_ID (R301). -/
def applyFabric (s : State) : State :=
  let s1 := (List.range s.nQ).foldl (fun (s : State) (q : Nat) =>
    let by_ := s.h .rtStaged q
    if by_ = 0 then s
    else
      let (s, ok) := s.applyTable q
      if ok then s.setH .rtStaged q 0 else (s.mark .FE_Q_RT_RT_HELD q).fnErr (by_ - 1) 3 (0x148010 + 256 * q)) s
  s1.setH .modId 0 (s1.rd .FE_MOD_ID_MOD_ID 0)

/-- Quotas of fabric credits that would be in force after the turn end (R299). -/
def creditsNext (s : State) (q : Nat) : Nat :=
  if s.flag .FE_Q_CFG_AUTO q then 1024 * s.h .shareAct q / 4096 else s.rd .FE_Q_CFG_CREDITS q

/-- The quotas of R299, applied with the token shares. -/
def applyCredits (s : State) : State :=
  let sum := ((List.range s.nQ).map (fun q => s.creditsNext q)).sum
  if 1024 < sum then (List.range s.nQ).foldl (fun (s : State) (q : Nat) => s.mark .FE_Q_ERR_CREDIT_SUM q) s
  else (List.range s.nQ).foldl (fun (s : State) (q : Nat) => s.wr .FE_Q_CFG_CREDITS_ACT q (s.creditsNext q)) s

/-- Header lines held are checked again at cycle 0 (R302, R308). -/
def recheckHeaders (s : State) : State :=
  s.feHeld.foldl (fun (s : State) (x : FeHeld) => s.checkHeader x.e x.q x.i x.l x.rid) { s with feHeld := [] }

end State

/-- MESSAGE_SEND (R296, R305, R306): the next message that the operation originates. -/
def execMessageSend (id t : Nat) (s : State) : Host.Outcome State Fault Refusal :=
  let s := s.goTo t
  match s.op? id with
  | none => .next s
  | some o =>
    let d := o.raw
    if o.kind ≠ 0x40 ∨ o.phase ≠ .running ∨ feCount d ≤ o.rowRun ∨ s.cycS ≤ s.pos ∨ s.h .halted o.q = 1 then .next s
    else
      let base := if feOp d = 2 then feBytes d / feR d * fePos d else 0
      let off := base + 4096 * o.rowRun
      let n := if feOp d = 2 then 4096 else min 4096 (feBytes d - 4096 * o.rowRun)
      match s.feBlocked o.q (feRoute d) id true with
      | some code => .next (s.messageWait o.q (rtEngine (s.route o.q (feRoute d))) (some code))
      | none =>
        match s.vread (State.feClient o.q (rtEngine (s.route o.q (feRoute d))) o.tag (some id)) (feSrc d + off) n with
        | (s, .error _) => .next s
        | (s, .ok (p, bad)) =>
          let m : FeMsg := if feOp d = 2 then ⟨1, feGather d, bad, feR d - 1, feXfer d, off, p⟩ else ⟨0, false, bad, 1, feXfer d, off, p⟩
          let (s, ok) := s.sendMsg o.q (feRoute d) id true m
          if ok then .next ((s.feNote id 0 bad 0).updOp id (fun o => { o with rowRun := o.rowRun + 1 })) else .next s

/-- HEADER_CHECK (R302, R308): before the drain deadline the line is checked, afterwards it waits for cycle 0. -/
def execHeaderCheck (e q i l rid t : Nat) (s : State) : Host.Outcome State Fault Refusal :=
  let s := s.goTo t
  if e ≥ 2 ∨ q ≥ s.nQ ∨ i ≥ 64 ∨ l ≥ 64 then .next s
  else if s.cycD ≤ s.pos then .next { s with feHeld := s.feHeld ++ [(⟨e, q, i, l, rid⟩ : FeHeld)] }
  else .next (s.checkHeader e q i l rid)

/-- MESSAGE_APPLY (R302, R305 to R308): none is applied from S on, or while the quarter is halted. -/
def execMessageApply (q i l t : Nat) (s : State) : Host.Outcome State Fault Refusal :=
  let s := s.goTo t
  match s.feRx.find? (fun (x : FeRx) => x.q == q && x.i == i && x.l == l && !x.applied) with
  | none => .next s
  | some x => if s.cycS ≤ s.pos ∨ s.h .halted q = 1 then .next s else .next (s.applyMsg x)

/-- ACK_LINE_RECEIVE (R303): the line frees the messages below APPLIED; with MISSING the message RECEIVED goes again. -/
def execAckLineReceive (q i t : Nat) (s : State) : Host.Outcome State Fault Refusal :=
  let s := s.goTo t
  if q ≥ s.nQ ∨ i ≥ 64 ∨ !s.flag .FE_Q_CFG_RX_EN q then .next s
  else
    match s.vread (State.feClient q (rtEngine (s.route q i)) 0 none) (s.feWin q + feAckOff + 64 * i) 64 with
    | (s, .error _) => .next s
    | (s, .ok (d, _)) =>
      let h := ofBytes d
      if mhVer h ≠ 2 ∨ mhCrc h ≠ crc32c (d.take 60) ∨ bitsOf h 32 32 ≠ s.rd .FE_Q_ERR_EPOCH_ACT q then .next s
      else
        let received := bitsOf h 64 32
        let applied := bitsOf h 96 32
        let gone := s.feTx.filter (fun x => x.q == q && x.route == i && below32 x.alive applied)
        let s1 := s.freeRecords gone
        let s2 := { s1 with feTx := s1.feTx.map (fun (x : FeTx) =>
          if x.q = q ∧ x.route = i ∧ below32 x.alive received = true then { x with received := true } else x) }
        let s3 := if bitsOf h 8 1 = 1 ∧ s.pos < s.cycS then
            match s2.feTx.find? (fun (x : FeTx) => x.q == q && x.route == i && x.alive == received) with
            | some x => s2.resend x
            | none => s2
          else s2
        .next (gone.foldl (fun (s : State) (x : FeTx) => s.feDone x.op) s3)

/-- ACK_TIMER (R303). -/
def execAckTimer (q i t : Nat) (s : State) : Host.Outcome State Fault Refusal :=
  let s := s.goTo t
  let since := s.h .feAckAt (64 * q + i)
  if since = 0 ∨ s.now + 1 < since + 1024 ∨ s.cycD ≤ s.pos then .next s else .next (s.sendAck q i false)

/-- RESEND_TIMER (R303): RETX_US after its last sending a message not yet received goes again, RETRY_MAX times; then its route is
DOWN. Nothing is resent from S on. -/
def execResendTimer (q e r t : Nat) (s : State) : Host.Outcome State Fault Refusal :=
  let s := s.goTo t
  match s.feTx.find? (fun (x : FeTx) => x.q == q && x.e == e && x.recNo == r) with
  | none => .next s
  | some x =>
    if x.received = true ∨ s.cycS ≤ s.pos ∨ s.now < x.sentAt + 1000 * s.rd .FE_CFG_RETX_US e then .next s
    else if s.rd .FE_CFG_RETRY_MAX e ≤ x.resends then .next (s.downRoute q x.route)
    else .next (s.resend x)

/-- SEND (R304, R305). -/
def execSend (id t : Nat) (s : State) : Host.Outcome State Fault Refusal := .next ((s.goTo t).feBegin id 0)

/-- RECV (R304, R305). -/
def execRecv (id t : Nat) (s : State) : Host.Outcome State Fault Refusal := .next ((s.goTo t).feBegin id 1)

/-- ALLREDUCE (R304, R306). -/
def execAllreduce (id t : Nat) (s : State) : Host.Outcome State Fault Refusal := .next ((s.goTo t).feBegin id 2)

end Sys2Proof.Machine
end

