-- ==== Sys2Proof/Machine/Moves.lean ====
section
/-! DEFINITION. Moves and migrations, late reads (6.6, 6.7). -/

namespace Sys2Proof.Machine

/-- Fields of a move descriptor (Table 6-8). -/
def mvCopy (d : Nat) : Bool := bitsOf d 9 1 == 1
def mvConv (d : Nat) : Bool := bitsOf d 10 1 == 1
def mvSrcFmt (d : Nat) : Nat := bitsOf d 26 2
def mvPages (d : Nat) : Nat := bitsOf d 32 32
def mvSrc (d : Nat) : Nat := bitsOf d 64 64
def mvDst (d : Nat) : Nat := bitsOf d 128 64
def mvScale (d : Nat) : Nat := bitsOf d 192 64
def mvRowLen (d : Nat) : Nat := bitsOf d 352 32

/-- What a move descriptor must satisfy (Table 6-8; log entry 27, DEDUCED). -/
def moveInvalid (d : Nat) : Bool :=
  bitsOf d 28 4 != 0 || bitsOf d 309 11 != 0 || bitsOf d 384 128 != 0 || mvPages d == 0 || (mvConv d && !mvCopy d) ||
    (!mvConv d && mvSrcFmt d != 0) || (mvConv d && mvRowLen d == 0) ||
    [mvSrc d, mvDst d, mvScale d].any (fun a => decide (2 ^ 52 ≤ a))

/-- The client of a move (Table 6-6, class 8). -/
def moveClient (o : Op) : Client := ⟨o.q, ⟨8, 0⟩, o.tag, some o.id⟩

/-- The leaf entry that a migrate writes for page `i`: new place, PACKED and CODEBOOK; MIG as given. `addr` is the destination. -/
def migPte (d p addr : Nat) (mig : Bool) : Nat :=
  let keep := p % 2 ^ 6 + 2 ^ 13 * bitsOf p 13 2 + 2 ^ 72 * (p / 2 ^ 72)
  keep + 2 ^ 6 * bitsOf d 12 2 + 2 ^ 8 * bitsOf d 14 4 + 2 ^ 12 * bitsOf d 11 1 + (if mig then 2 ^ 15 else 0) +
    2 ^ 16 * (addr / 64 % 2 ^ 46) + 2 ^ 64 * bitsOf d 18 8

/-- An element of a converting move's source as a value (R147). The descriptor names no scale for MXFP8 source elements: they are taken bare. Log
entry 84, DESIGN CHOICE. -/
def convElem (fmt x : Nat) : FV := if fmt = 0 then dec16 x else if fmt = 1 then dec32 x else decMx fmt x

/-- Elements of MXFP4 as bytes, two to a byte, even element low (R116). -/
def packNibbles : List Nat → List Byte
  | [] => []
  | [a] => [BitVec.ofNat 8 a]
  | a :: b :: xs => BitVec.ofNat 8 (a + 16 * b) :: packNibbles xs

namespace State

/-- Writes a leaf entry (R138, R145). -/
def putPte (s : State) (q unit addr p : Nat) : State :=
  (s.plazaTouch q 1 unit addr 11 0 0 false true none).setBytes 1 unit addr (toBytes p 16)

/-- Invalidates a quarter's translations of the pages that meet `[va, va + n)`. -/
def dropTlb (s : State) (q va n : Nat) : State :=
  { s with tlb := s.tlb.filter (fun (e : TlbEnt) => !(e.q == q && decide (e.base < va + n) && decide (va < e.base + 2 ^ e.log2))) }

/-- Writes the page's bytes to the frame that entry `l` names (R145). -/
def writeFrame (s : State) (c : Client) (l : Leaf) (va : Nat) (d : List Byte) (bads : List Bool) : State × Except Nat Unit :=
  if ptePacked l.pte then
    match s.packedWriteAt c l va d bads with
    | (s, .error e) => (s.packedFault c va true e, .error e)
    | (s, .ok _) => (s, .ok ())
  else
    ((List.range (d.length / 64)).foldl (fun (s : State) (i : Nat) =>
      s.writePiece c l (va + 64 * i) ((d.drop (64 * i)).take 64) (bads.getD i false) none) s, .ok ())

/-- Whether a migrate may put a page of `sz` bytes at `dst` (R126, R138, R146, R217): the cause that stops it. -/
def migCheck (s : State) (q new dst sz : Nat) : Option Nat :=
  let t := pteTier new
  let u := if t = 0 then q else pteUnit new
  match s.ownCheck q t u dst, s.ownCheck q t u (dst + sz - 1) with
  | some e, _ => some e
  | none, some e => some e
  | none, none =>
    if t = 1 ∧ 96 * 2 ^ 30 ≤ dst then some 3
    else if t = 1 ∧ (s.inBank u dst || s.inBank u (dst + sz - 1)) = true ∧ (!pteNoalloc new || ptePacked new) = true then some 4
    else none

/-- Marks the move as one that met poison: it reports poisoned-data at its completion (Table 7-2). -/
def noteMovePoison (s : State) (id : Nat) (bad : Bool) : State :=
  if bad then s.updOp id (fun o => { o with status := some stPoisonedData }) else s

/-- The step to the next page (R146), or the end. -/
def nextPage (s : State) (id : Nat) : State :=
  s.updOp id (fun o =>
    let o := { o with rowRun := o.rowRun + 1, aux := [], needs := [] }
    if mvPages o.raw ≤ o.rowRun then { o with phase := .ended, status := some (o.status.getD stSuccess) } else o)

/-- The destination of page `i` of `sz` bytes in a migrate: a frame, or consecutive directory slots (R145, 8.4); and how many bytes it takes
there. -/
def migDst (s : State) (c : Client) (d i sz : Nat) : State × Except Nat (Nat × Nat) :=
  if bitsOf d 11 1 = 1 then
    match s.readDir c (migPte d 0 (mvDst d) false) with
    | (s, .error e) => (s, .error e)
    | (s, .ok (dir, _)) => (s, .ok (mvDst d + i * (64 + 8 * dir.subs), 64 + 8 * dir.subs))
  else (s, .ok (mvDst d + i * sz, sz))

/-- The last steps of a page (R145): the entry names the new place, MIG is clear, translations are invalidated, and writes that waited proceed. -/
def migDone (s : State) (o : Op) (l : Leaf) (va new : Nat) (bads : List Bool) : State :=
  let s := { s with stalls := s.stalls.filter (fun (x : Stall) => !(x.q == o.q && x.cause == 0 && x.va / 2 ^ l.log2 == va / 2 ^ l.log2)) }
  (((s.putPte o.q l.unit l.addr new).dropTlb o.q va (2 ^ l.log2)).noteMovePoison o.id (bads.any id)).nextPage o.id

/-- R139: software has changed an entry with MIG set: A and D apart, it is not what the move put there. -/
def migChanged (o : Op) (p : Nat) : Bool :=
  match o.aux with
  | [1, _, _, old, _, _] => (p ||| 48) != (old ||| 48)
  | _ => false

/-- A page of a migrate with its leaf at hand (R145, R146). -/
def migrateLeaf (s : State) (o : Op) (l : Leaf) (va : Nat) : State :=
  let d := o.raw
  let c := moveClient o
  let sz := 2 ^ l.log2
  match s.migDst c d o.rowRun sz with
  | (s, .error cause) => s.raiseFault c va true cause 7 none
  | (s, .ok (dst, n)) =>
    let new := migPte d l.pte dst false
    match s.migCheck o.q new dst n with
    | some cause => s.raiseFault c va true cause 7 none
    | none =>
      -- MIG, with reads still served from the old frame
      let marked := l.pte ||| 2 ^ 15
      let s := (s.putPte o.q l.unit l.addr marked).dropTlb o.q va sz
      let s := s.updOp o.id (fun o => { o with aux := [1, l.unit, l.addr, marked, va, sz] })
      match s.vreadL c va sz with
      | (s, .error _) => s
      | (s, .ok (data, bads)) =>
        match s.writeFrame c ⟨new, l.log2, l.unit, l.addr⟩ va data bads with
        | (s, .error _) => s
        | (s, .ok _) => s.migDone o l va new bads

/-- One page of a migrate (R145). A page whose entry software has changed since MIG was set ends with the conflict status, and the entry stays
as software wrote it (R139). -/
def migratePage (s : State) (o : Op) : State :=
  let d := o.raw
  let c := moveClient o
  let hit := match o.aux with
    | [1, unit, addr, _, _, _] => migChanged o (ofBytes (s.memBytes 1 unit addr 16))
    | _ => false
  if hit then (s.updOp o.id (fun o => { o with status := some stConflict })).nextPage o.id
  else
    match s.walk o.q (mvSrc d) with
    | (s, .error (cause, lv)) => s.raiseFault c (mvSrc d) true cause lv none
    | (s, .ok l0) =>
      let sz := 2 ^ l0.log2
      let va := mvSrc d / sz * sz + o.rowRun * sz
      match s.walk o.q va with
      | (s, .error (cause, lv)) => s.raiseFault c va true cause lv none
      | (s, .ok l) => s.migrateLeaf o l va

/-- The groups of a converting copy that begin in bytes `[lo, hi)` of the source: (row, group). -/
def convGroups (rowLen es lo hi : Nat) : List (Nat × Nat) :=
  let gs := cdiv rowLen 32
  let r0 := lo / (rowLen * es)
  let r1 := hi / (rowLen * es) + 1
  ((List.range (r1 - r0)).flatMap (fun r => (List.range gs).map (fun g => (r0 + r, g)))).filter (fun e =>
    let b := (e.1 * rowLen + 32 * e.2) * es
    decide (lo ≤ b) && decide (b < hi))

/-- One group of a converting copy (R147): flags and poison merge into the operation. -/
def convGroup (s : State) (o : Op) (total : Nat) (g : Nat × Nat) : State × Bool :=
  let d := o.raw
  let c := moveClient o
  let es := if mvSrcFmt d = 0 then 2 else if mvSrcFmt d = 1 then 4 else 1
  let rl := mvRowLen d
  let first := g.1 * rl + 32 * g.2
  let n := min (min 32 (rl - 32 * g.2)) (total / es - first)
  match s.vread c (mvSrc d + first * es) (n * es) with
  | (s, .error _) => (s, false)
  | (s, .ok (b, bad)) =>
    let x := ofBytes b
    let (sc, codes, fl) := narrowMx4 ((List.range n).map (fun i => convElem (mvSrcFmt d) (bitsOf x (8 * es * i) (8 * es))))
    match s.vwriteL c (mvDst d + g.1 * cdiv rl 2 + 16 * g.2) (packNibbles codes) [bad, bad] with
    | (s, .error _) => (s, false)
    | (s, .ok _) =>
      match s.vwriteL c (mvScale d + g.1 * cdiv rl 32 + g.2) [BitVec.ofNat 8 sc] [bad] with
      | (s, .error _) => (s, false)
      | (s, .ok _) => ((s.updOp o.id (fun o => { o with flags := o.flags ||| fl })).noteMovePoison o.id bad, true)

/-- One page of a copy (Table 6-8, MODE 1). -/
def copyPage (s : State) (o : Op) : State :=
  let d := o.raw
  let c := moveClient o
  match s.xlate c (mvSrc d) false with
  | (s, .error _) => s
  | (s, .ok l) =>
    let sz := 2 ^ l.log2
    let off := o.rowRun * sz
    if mvConv d then
      let es := if mvSrcFmt d = 0 then 2 else if mvSrcFmt d = 1 then 4 else 1
      let (s, ok) := (convGroups (mvRowLen d) es off (off + sz)).foldl (fun (acc : State × Bool) (g : Nat × Nat) =>
        if acc.2 then acc.1.convGroup o (mvPages d * sz) g else acc) (s, true)
      if ok then s.nextPage o.id else s
    else
      match s.vreadL c (mvSrc d + off) sz with
      | (s, .error _) => s
      | (s, .ok (data, bads)) =>
        match s.vwriteL c (mvDst d + off) data bads with
        | (s, .error _) => s
        | (s, .ok _) => (s.noteMovePoison o.id (bads.any id)).nextPage o.id

/-- A move abandons its page (R146): MIG clears, the entry else stays, and writes that waited on it proceed to the old frame. -/
def abandonPage (s : State) (id : Nat) : State :=
  match s.op? id with
  | some o =>
    match o.kind, o.aux with
    | 0x20, [1, unit, addr, old, va, sz] =>
      let p := ofBytes (s.memBytes 1 unit addr 16)
      let s := if migChanged o p then s else s.putPte o.q unit addr (if pteMig p then p - 2 ^ 15 else p)
      { (s.dropTlb o.q va sz) with
        stalls := s.stalls.filter (fun (x : Stall) => !(x.q == o.q && x.cause == 0 && decide (va ≤ x.va) && decide (x.va < va + sz))) }.updOp
          id (fun o => { o with aux := [], status := if migChanged o (if pteMig p then p else old) then some stConflict else o.status })
    | _, _ => s
  | none => s

/-- The conditions of R150 on a ledger entry. -/
def replicaOk (d e : Nat) : Bool :=
  let es := elemBits (bitsOf e 24 2) / 8
  let gap := mBva d - bitsOf e 64 64
  let rb := bitsOf e 256 32
  mTransB d && bitsOf e 19 2 == 1 && bitsOf e 21 1 == 1 && mBld d == rb && rb != 0 && decide (bitsOf e 64 64 ≤ mBva d) &&
    gap % es == 0 && gap % rb / es % 32 == 0

/-- The switch of R150, for a late read `e` of the preload in hand: the ledger entry of the object of its page. -/
def replicaOf (s : State) (o : Op) (e : Need) : State × Option Nat :=
  match s.translate o.q e.va false with
  | (s, .error _) => (s, none)
  | (s, .ok l) =>
    match s.readLedger { blankClient o with op := none } (pteObj l.pte) with
    | (s, .ok (some x)) => (s, if replicaOk o.raw x then some x else none)
    | (s, _) => (s, none)

/-- The preload in hand restarts from the replica that ledger entry `x` names (R150): the responses to its original B reads are discarded when they
arrive, and their tags stay outstanding until then. -/
def switchReplica (s : State) (id x : Nat) : State :=
  match s.op? id with
  | none => s
  | some o =>
    match o.preKey with
    | none => s
    | some (nb, kc) =>
      let pos : UnitPos := { State.nextUnit o with nBlock := nb, kChunk := kc }
      let delay := s.now + tPre o.raw pos - o.preEnd
      let other := fun (e : Need) => e.preload && !e.ofB
      let s1 := { s with reqs := s.reqs.map (fun (r : Req) => if r.op = id ∧ r.need.ofB = true then { r with drop := true } else r) }
      ((s1.laterReqs id delay other).updOp id (fun o => { o with
        replica := true, repEntry := x, degraded := true, preEnd := s.now + tPre o.raw pos,
        needs := laterNeeds delay other (o.needs.filter (fun e => !e.ofB)) ++ needsB o.raw (o.unitNo + 1) pos s.now (some x) })).bump
          .MEM_DEG_STAT_SWITCHES o.q 1

/-- The requests of an operation that are late in the present cycle and not yet counted (R148): of tiers 2 and 3, with no response at their deadline
plus DL_GRACE. -/
def lateReqs (s : State) (id : Nat) : List Req :=
  s.reqs.filter (fun (r : Req) => r.op == id && decide (2 ≤ r.tier) && !r.direct && !r.drop && !r.late && !r.faulted &&
    decide (r.deadline + s.rd .MEM_DL_CFG_DL_GRACE 0 ≤ s.now))

end State

/-- MOVE_PAGE (R145 to R147): a move treats the page whose reads it has made; it begins none from cycle S on (R146). -/
def execMovePage (id t : Nat) (s : State) : Host.Outcome State Fault Refusal :=
  let s := s.goTo t
  match s.op? id with
  | none => .next s
  | some o =>
    if o.kind ≠ 0x20 ∨ o.phase ≠ .running ∨ s.isStalled id ∨ s.h .halted o.q = 1 then .next s
    else if s.waitBroken o then .next (s.finish id stBarrierBroken)
    else if o.unitNo ≠ o.rowRun + 1 ∨ s.dataDue id (fun _ => true) = true then .next s
    else .next (if mvCopy o.raw then s.copyPage o else s.migratePage o)

/-- LATE_READ (R148 to R150): reads of an operation are late at cycle `t`; a generation-class preload one of whose B reads is late may switch to its
replica. -/
def execLateRead (id t : Nat) (s : State) : Host.Outcome State Fault Refusal :=
  let s := s.goTo t
  match s.op? id with
  | none => .next s
  | some o =>
    let rs := s.lateReqs id
    let s := (({ s with reqs := s.reqs.map (fun (r : Req) => if rs.contains r then { r with late := true } else r) }.bump
      .MEM_DEG_STAT_LATE o.q rs.length).ev evLateRead o.q 0 rs.length)
    match rs.find? (fun r => r.need.ofB && r.need.unit == o.unitNo + 1) with
    | none => .next s
    | some r =>
      if o.kind = 0x01 ∧ mTclass o.raw ∧ o.phase = .running ∧ o.preKey.isSome ∧ !o.preDone ∧ !o.replica then
        match s.replicaOf o r.need with
        | (s, some x) => .next (s.switchReplica id x)
        | (s, none) => .next s
      else .next s

end Sys2Proof.Machine
end

