-- ==== Sys2Proof/Machine/Memory.lean ====
section
/-! DEFINITION. Stacks and cartridges (chapter 07), the walk and the home slice as commands of their own (R130, R138), and packed
pages (R184 to R188). -/

namespace Sys2Proof.Machine

namespace State

/-- The bay's bad-frame count (CRT_STAT). -/
def syncFrames (s : State) (d : Nat) : State :=
  s.wr .CRT_STAT_BADFRAMES d ((List.range 1024).filter (fun i => s.flag .CRT_BF_DATA_VALID (1024 * d + i))).length

/-- A byte that the module's DRAM offers and that no bad-frame entry bars (R153, R166). -/
def dramReachable (s : State) (t u a : Nat) : Bool :=
  s.unitFitted t u && (if t = 1 then decide (a < 96 * 2 ^ 30) else
    decide (a < 2 ^ 40) && !(List.range 1024).any (fun i => s.flag .CRT_BF_DATA_VALID (1024 * u + i) &&
      s.rd .CRT_BF_DATA_FRAME (1024 * u + i) == a / 65536))

/-- A write of MEM_RETIRE by the CP or the MC (R167, R217). -/
def memRetire (s : State) (fromMc : Bool) (val : Nat) : State :=
  let action := bitsOf val 30 2
  let lot := bitsOf val 29 1 == 1
  let i := bitsOf val 0 11
  let fld : Fld := if lot then .MEM_LOT_STATE else .MEM_EXT_STATE
  let err := s.fnErr (if fromMc then 14 else 13) 4 (0x77008 * 2 ^ 22 + i)
  let inRegion := !lot && s.inBank (i / 96) (i % 96 * 2 ^ 30)
  if action = 0 ∨ action = 3 then s
  else if (if lot then s.nBays * 64 ≤ i else s.nStacks * 96 ≤ i) then s
  else if action = 1 then (if s.rd fld i = 0 ∧ !inRegion then s.wr fld i 3 else err)
  else if s.rd fld i = 3 ∧ fromMc then s.wr fld i 0 else err

/-- A bay goes to LOST (R170): reads outstanding to it are abandoned with their tags freed. -/
def loseBay (s : State) (d : Nat) : State :=
  let mine := fun (r : Req) => decide (4 * s.nStacks + 4 * d ≤ r.engine) && decide (r.engine < 4 * s.nStacks + 4 * d + 4) && !r.atPort
  let n := (s.reqs.filter mine)
  let s1 := { s with reqs := s.reqs.filter (fun r => !mine r) }
  let s2 := n.foldl (fun (s : State) (r : Req) => ((s.bump .SE_STAT_ABANDONED r.engine 1).ev evTagAbandon r.q r.engine 1).giveBack r) s1
  let s3 := (List.range 4).foldl (fun (s : State) (k : Nat) => s.syncOut (4 * s.nStacks + 4 * d + k)) s2
  let s4 := (List.range 64).foldl (fun (s : State) (l : Nat) => s.wr .MEM_LOT_PRESENT (64 * d + l) 0) s3
  { ((s4.wr .CRT_STAT_STATE d 6).setH .presentPend d 0).setH .withdrawn d 0 with memQ := s4.memQ.filter (fun (e : Nat × Nat × Nat × MemReq) => !(e.1 == 2 && e.2.1 == d)) }

/-- An opened latch of a bay (R170): a SAFE bay is EMPTY then, any other is LOST; a latch that is open already does not open. -/
def bayOpens (s : State) (d : Nat) : State :=
  if s.rd .CRT_STAT_STATE d = 5 then s.wr .CRT_STAT_STATE d 0
  else if s.rd .CRT_STAT_STATE d = 0 ∧ s.flag .CRT_STAT_LATCH d = false then s
  else s.loseBay d

end State

/-- TRANSLATION_WALK (R136 to R142): the MMU of `q` translates one access, walking, updating A and D, and recording a fault. -/
def execTranslationWalk (q va : Nat) (write : Bool) (init : Initiator) (s : State) : Host.Outcome State Fault Refusal :=
  if q < s.nQ then .next (s.xlate ⟨q, init, 0, none⟩ va write).1 else .next s

/-- The leaf that a request at a home slice stands for. -/
def plazaPte (r : PlazaReq) : Nat :=
  2 ^ 6 * (r.tier % 4) + 2 ^ 8 * (r.unit % 16) + (if r.enc then 2 ^ 13 else 0) + (if r.noalloc then 2 ^ 14 else 0) +
    2 ^ 96 * (r.hint % 4) + 2 ^ 98 * (r.keep % 16)

/-- The packets of a tap's request reach the tap and its tile (R60, R134): the request one way, the line the other. -/
def State.meshOk (s : State) (r : PlazaReq) : Bool :=
  match r.tile with
  | none => true
  | some tile =>
    if r.rank = 0 ∨ 17 ≤ r.rank then true
    else
      let slice := if r.tier = 0 then s.sliceId r.q (r.addr / 256 % s.precincts r.q) else s.homeSlice r.q r.tier r.unit r.addr
      match s.tapTile slice (r.rank - 1) with
      | none => false
      | some tap =>
        s.packetArrives r.q (packetFlits r.data.length) tile tap && (r.write || s.packetArrives r.q (packetFlits 256) tap tile)

/-- A home slice serves one request (R129 to R132); a read answers the line's 256 bytes. -/
def State.plazaServe (s : State) (r : PlazaReq) : State × Nat × List Byte :=
  let a := r.addr / 256 * 256
  let u := if r.tier = 0 then r.q else r.unit
  let c : Client := ⟨r.q, ⟨r.cls, 0⟩, 0, none⟩
  let banked := r.tier == 1 && (decide (96 * 2 ^ 30 ≤ a) || (s.inBank u a && !r.noalloc))
  if (s.ownCheck r.q r.tier u a).isSome ∨ banked = true ∨ s.meshOk r = false then (s, 5, [])
  else if r.write then
    (((List.range 4).foldl (fun (s : State) (i : Nat) =>
      let lo := max r.off (64 * i)
      let hi := min (r.off + r.data.length) (64 * i + 64)
      if lo < hi then s.lineWrite c (plazaPte r) r.tier u (a + lo) ((r.data.drop (lo - r.off)).take (hi - lo)) false none else s) s).settle, 0, [])
  else
    let (s, d, bad) := s.readLines c (plazaPte r) r.tier u a 4
    (s.settle, if bad then 3 else 0, d)

/-- PLAZA_ACCESS (R129 to R132): a home slice serves the requests of one cycle in the order of R130, the port, the taps in ascending number, then the
privileged clients in ascending unit number; reads answer their lines' 256 bytes, in that order, with poison as status 3. -/
def execPlazaAccess (rs : List PlazaReq) (s : State) : Host.Outcome State Fault Refusal :=
  let (s, st, d) := (rs.insertionSort (fun a b => a.rank ≤ b.rank)).foldl (fun (acc : State × Nat × List Byte) (r : PlazaReq) =>
    let (s, st, d) := acc.1.plazaServe r
    (s, max acc.2.1 st, acc.2.2 ++ d)) (s, 0, [])
  .next { s with reply := ⟨st, d⟩ }

/-- UNIT_ZEROED (R127): a CLEARING extent or lot has zero in every byte and is FREE; a UNIT release of it completes. -/
def execUnitZeroed (lot : Bool) (i : Nat) (s : State) : Host.Outcome State Fault Refusal :=
  let fld : Fld := if lot then .MEM_LOT_STATE else .MEM_EXT_STATE
  if s.rd fld i = 2 then
    let inUnit := fun (t u a : Nat) => if lot then t == 2 && 64 * u + a / 2 ^ 34 == i else t == 1 && decide (a < 96 * 2 ^ 30) && 96 * u + a / 2 ^ 30 == i
    let s := if lot then s else s.setH .pcPoison i 0
    .next (((s.wipe inUnit).wr fld i 0).lateDone (.unitFree lot i) 0)
  else .next s

/-- MEMORY_REQUEST (R155, R166): a request enters the queue of its channel, or stalls on a full one; with `serve` the channel then serves one. One
that names no byte of the module's DRAM, or a listed frame, reaches none (status 5). Log entry 28, DESIGN CHOICE. -/
def execMemoryRequest (tier unit : Nat) (r : MemReq) (serve : Bool) (s : State) : Host.Outcome State Fault Refusal :=
  if !s.dramReachable tier unit r.addr then .next { s with reply := ⟨5, []⟩ }
  else
    let ch := s.channelOf tier unit r.addr
    let s1 := s.enqueue tier unit { r with sid := none }
    if serve then
      match s1.pickRequest tier unit ch with
      | none => .next s1
      | some x => .next (s1.serveReq tier unit ch x)
    else .next s1

/-- READ_COMPLETE (R157 to R162): a DRAM read of the line at `addr` is decoded; the answer is its 64 bytes, with poison as status
3. A channel that is shut serves none. -/
def execReadComplete (tier unit addr wrong lane : Nat) (s : State) : Host.Outcome State Fault Refusal :=
  if !s.dramReachable tier unit addr then .next { s with reply := ⟨5, []⟩ }
  else if s.chanShut tier unit (s.channelOf tier unit addr) then .next s
  else
    let (s1, bad) := s.dramRead tier unit addr wrong lane
    .next { s1 with reply := ⟨if bad then 3 else 0, s1.memBytes tier unit (addr / 64 * 64) 64⟩ }

/-- BANK_REFRESH (R156): the bank is refreshed; its row is closed. -/
def execBankRefresh (tier unit ch bank : Nat) (s : State) : Host.Outcome State Fault Refusal :=
  .next { s with openRow := Tab.set 0 (State.bankKey tier unit ch bank) 0 s.openRow }

/-- SCRUB (R159): the scrubber of a channel reads and corrects its next codeword. -/
def execScrub (tier unit ch wrong lane : Nat) (s : State) : Host.Outcome State Fault Refusal :=
  if !s.unitFitted tier unit ∨ nChan tier ≤ ch then .next s
  else
    let i := (ch * 16 + unit) * 4 + tier
    let n := s.h .scrubPos i
    let words := (if tier = 1 then 96 * 2 ^ 30 else 2 ^ 40) / nChan tier / 64
    let (s1, _) := s.dramRead tier unit (chanAddr tier ch (64 * n)) wrong lane
    .next (s1.setH .scrubPos i ((n + 1) % words))

/-- LANE_FAILURE (R161, R163). -/
def execLaneFailure (k p lane : Nat) (s : State) : Host.Outcome State Fault Refusal :=
  if k < s.nStacks ∧ p < 64 ∧ lane < 35 then .next (s.laneFails k p lane) else .next s

/-- LANE_REMAP (R162): in the first window that begins at least 64 cycles after the failure, and again in the next windows after a training that
failed, the spare begins to train; likewise for the lane that a REPAIR command names (Table 7-3). -/
def execLaneRemap (k p : Nat) (s : State) : Host.Outcome State Fault Refusal :=
  let s := s.goTo (s.cycW 512)
  let i := State.pcIdx k p
  let want := s.h .spareWant i
  match (if want = 0 then s.badLanes i else [want - 1]) with
  | [l] =>
    if k < s.nStacks ∧ s.pos < s.cycW 3584 ∧ ¬ s.flag .STK_PC_ERR_SPARE_USED i ∧ s.h .laneFailAt i + 64 ≤ s.turn0 + s.cycW 0 ∧
        s.h .spareTrain i = 0 ∧ s.h .spareTurn i ≤ s.turn0 then
      .next (((s.setH .spareTrain i (l + 1)).setH .spareTurn i (s.now + 1)).setH .spareWant i 0)
    else .next s
  | _ => .next s

/-- SPARE_TRAINED (R162): 1,024 cycles after it began the spare replaces the lane, or its training failed; the fourth failure retires the PC. -/
def execSpareTrained (k p : Nat) (ok : Bool) (s : State) : Host.Outcome State Fault Refusal :=
  let i := State.pcIdx k p
  let s := s.goTo (s.h .spareTurn i + 1023 - s.turn0)
  let l := s.h .spareTrain i
  if l = 0 then .next s
  else
    let s1 := s.setH .spareTrain i 0
    if ok then
      let s2 := ((s1.wr .STK_PC_ERR_SPARE_USED i 1).wr .STK_PC_ERR_SPARE_FOR i (l - 1)).setH .laneBad i
        (s.h .laneBad i - (if bitsOf (s.h .laneBad i) (l - 1) 1 = 1 then 2 ^ (l - 1) else 0))
      .next (s2.wr .STK_STAT_SPARES_USED k (s.rd .STK_STAT_SPARES_USED k + 1))
    else
      let n := s.h .spareTries i + 1
      let s2 := s1.setH .spareTries i n
      .next (if 4 ≤ n then s2.requestRetire k p else s2)

/-- LOST_SCAN_COMPLETE (R339, R340): every line of a lost stack has left plaza; a dirty line with a restore copy has been written
there, the others are dropped and counted. -/
def execLostScanComplete (k : Nat) (s : State) : Host.Outcome State Fault Refusal :=
  if s.rd .STK_STAT_STATE k = 3 then
    let ls := s.plaza.filter (fun (l : PLine) => l.tier == 1 && l.unit == k)
    .next (ls.foldl (fun (s : State) (l : PLine) =>
      if l.dirty ∧ l.shadow.isSome then (s.writeBack l).dropLine l.q l.tier l.unit l.addr
      else if l.dirty then (s.revertLine l).bump .RES_STAT_DROPPED_LINES 0 1
      else s.dropLine l.q l.tier l.unit l.addr) s)
  else .next s

/-- RETIREMENT_COPY_COMPLETE (R164): the copy is complete; the redirect applies at the next turn end. Every granule of a PC with two failed lanes
reads uncorrectable (R163) and is copied with the poison marker. The model makes the copy whole in this step. Log entry 86, DESIGN CHOICE. -/
def execRetirementCopyComplete (k : Nat) (s : State) : Host.Outcome State Fault Refusal :=
  if s.flag .STK_STAT_COPYING k then
    let bad := decide (2 ≤ (s.badLanes (State.pcIdx k (s.rd .STK_STAT_RPC k))).length)
    let s := if bad then (List.range 96).foldl (fun (s : State) (e : Nat) => s.setH .pcPoison (96 * k + e) 1) s else s
    .next ((s.wr .STK_STAT_COPYING k 0).setH .copyDone k 1)
  else .next s

/-- REPAIR_APPLY (R168): the row's contents move to the spare in one boundary window; a repair that does not fit waits for the next. -/
def execRepairApply (k : Nat) (fits : Bool) (s : State) : Host.Outcome State Fault Refusal :=
  let s := s.goTo (s.cycW 512)
  if fits = true ∧ s.pos < s.cycW 3584 then
    match s.repairs.find? (fun r => r.stack == k && !r.applied) with
    | some x => .next { s with repairs := s.repairs.map (fun r => if r = x then { r with applied := true } else r) }
    | none => .next s
  else .next s

/-- A write of CRT_BF_DATA at the entry CRT_BF_IDX names (R166). When the table is full a further write is discarded and sets BF_FULL; which
writes those are the rule does not say: every write with VALID set; one with VALID clear frees its entry. Log entry 85, DESIGN CHOICE. -/
def State.badFrame (s : State) (d val : Nat) : State :=
  let i := 1024 * d + s.rd .CRT_BF_IDX_INDEX d
  if s.rd .CRT_STAT_BADFRAMES d = 1024 ∧ bitsOf val 31 1 = 1 then s.mark .CRT_STAT_BF_FULL d
  else (((s.wr .CRT_BF_DATA_VALID i (bitsOf val 31 1)).wr .CRT_BF_DATA_FRAME i (bitsOf val 0 24)).syncFrames d).setH .bfDirty d 1

/-- REQ 1 of CRT_CTRL (R169), asked by agent number `who`: only when every lot of the bay is FREE or RETIRED. Log entry 62, DEDUCED. -/
def State.askWithdraw (s : State) (who d : Nat) : State :=
  if s.rd .CRT_STAT_STATE d = 3 ∧ (List.range 64).all (fun l =>
      s.rd .MEM_LOT_STATE (64 * d + l) == 0 || s.rd .MEM_LOT_STATE (64 * d + l) == 3) then
    ((s.wr .CRT_STAT_STATE d 4).setH .withdrawn d 0).setH .presentPend d 0
  else s.fnErr who 4 ((0x90008 + 0x1000 * d) * 2 ^ 22 + d)

/-- The bad-frame table in the identity memory of the cartridge in a bay (R166, R170). -/
def State.cartFrames (s : State) (d : Nat) : List Nat :=
  match s.idFrames.find? (fun (e : Nat × List Nat) => e.1 == d) with
  | some e => e.2
  | none => []

/-- REQ 2 of CRT_CTRL (R170, R393) on a PRESENT bay: the MC reads the identity memory of the cartridge fitted, loads its bad-frame table and trains
the bay, or refuses a part that is not an LC1024-A1. -/
def State.askService (s : State) (who d : Nat) : State :=
  if s.rd .CRT_STAT_STATE d ≠ 1 then s.fnErr who 4 ((0x90008 + 0x1000 * d) * 2 ^ 22 + d)
  else if s.h .fitted d = 1 then
    let s1 := (List.range 1024).foldl (fun (s : State) (i : Nat) => match (s.cartFrames d)[i]? with
      | some f => (s.wr .CRT_BF_DATA_VALID (1024 * d + i) 1).wr .CRT_BF_DATA_FRAME (1024 * d + i) f
      | none => (s.wr .CRT_BF_DATA_VALID (1024 * d + i) 0).wr .CRT_BF_DATA_FRAME (1024 * d + i) 0) s
    (s1.syncFrames d).wr .CRT_STAT_STATE d 2
  else (s.mark .CRT_STAT_REJECT d).wr .CRT_STAT_STATE d 1

/-- CARTRIDGE_SAFE (R169): after the turn end that took the bay out, it is powered down. -/
def execCartridgeSafe (d : Nat) (s : State) : Host.Outcome State Fault Refusal :=
  if s.rd .CRT_STAT_STATE d = 4 ∧ s.h .withdrawn d = 1 then .next ((s.wr .CRT_STAT_STATE d 5).setH .withdrawn d 0) else .next s

/-- CARTRIDGE_IN_SERVICE (R3, R170): trained and zeroed; its lots are offered at the next turn end. -/
def execCartridgeInService (d : Nat) (s : State) : Host.Outcome State Fault Refusal :=
  if s.rd .CRT_STAT_STATE d = 2 then
    .next (((s.wipe (fun t u _ => t == 2 && u == d)).wr .CRT_STAT_STATE d 3).setH .presentPend d 1)
  else .next s

/-- LATCH_OPEN (R170): a bay that is not SAFE is lost. The cartridge, with its identity memory, can be taken out. -/
def execLatchOpen (d : Nat) (s : State) : Host.Outcome State Fault Refusal :=
  if s.nBays ≤ d then .next s else .next (((s.bayOpens d).wr .CRT_STAT_LATCH d 0).setH .fitted d 0)

/-- LATCH_CLOSE (R170): the latch closes on a cartridge; `genuine` when its identity memory names an LC1024-A1, `frames` the bad-frame table there. -/
def execLatchClose (d : Nat) (genuine : Bool) (frames : List Nat) (s : State) : Host.Outcome State Fault Refusal :=
  if s.nBays ≤ d ∨ s.flag .CRT_STAT_LATCH d then .next s
  else .next { ((s.wr .CRT_STAT_LATCH d 1).wr .CRT_STAT_STATE d 1).setH .fitted d (if genuine then 1 else 2) with
    idFrames := (d, frames) :: s.idFrames.filter (fun (e : Nat × List Nat) => e.1 != d) }

/-- PRESENCE_CONTACT_OPEN (R393): as an opened latch, unless the bay is SAFE; an EMPTY bay has no closed contact. -/
def execPresenceContactOpen (d : Nat) (s : State) : Host.Outcome State Fault Refusal :=
  if s.nBays ≤ d ∨ s.rd .CRT_STAT_STATE d = 5 ∨ s.rd .CRT_STAT_STATE d = 0 then .next s else .next (s.loseBay d)

/-- PACKED_WRITE (R185, R186, R190): a packer writes `data` at `va`, a page with the packed flag. -/
def execPackedWrite (q va : Nat) (data : List Byte) (init : Initiator) (s : State) : Host.Outcome State Fault Refusal :=
  let c : Client := ⟨q, init, 0, none⟩
  match s.xlate c va true with
  | (s, .error _) => .next s
  | (s, .ok l) =>
    if ptePacked l.pte then .next (s.vwrite c va (data.take (2 ^ l.log2 - va % 2 ^ l.log2))).1 else .next s

/-- A packed access that waited is made again (R184, R186): a migrate goes on with its page, any other write is made, a read answers its bytes with
poison as status 3. -/
def State.retryPacked (s : State) (x : PackStall) : State × Except Nat Unit :=
  let c : Client := ⟨x.q, x.init, x.tag, x.op⟩
  let l : Leaf := ⟨x.pte, x.log2, x.unit, x.addr⟩
  let mig := ((x.op.bind s.op?).filter (fun o => o.kind == 0x20 && !mvCopy o.raw && x.write))
  match mig with
  | some o => match s.packedWriteAt c l x.va x.data x.bads with
    | (s, .ok _) => (s.migDone o l x.va x.pte x.bads, .ok ())
    | (s, .error e) => (s.packedFault c x.va true e, .error e)
  | none =>
    if x.write then
      let (s, r) := s.writeOne c l x.va x.data x.bads
      (s.settle, r)
    else match s.packedRead c l x.va x.data.length with
      | (s, .ok (d, bs)) => ({ s with reply := ⟨if bs.any id then 3 else 0, d⟩ }, .ok ())
      | (s, .error e) => (s.packedFault c x.va false e, .error e)

/-- POOL_RECHECK (R186): the stalled packer of `q` reads the pool header again after 1,024 cycles, and makes its write if it fits. -/
def execPoolRecheck (q : Nat) (s : State) : Host.Outcome State Fault Refusal :=
  match s.packStalls.find? (fun (x : PackStall) => x.q == q && !x.busy) with
  | none => .next s
  | some x =>
    let c : Client := ⟨q, x.init, x.tag, x.op⟩
    match ({ s with packStalls := s.packStalls.erase x }.dirBusy c x.pte false).retryPacked x with
    | (s1, r) =>
      if r = .error State.waitPool then .next (s.ev evPkPoolFull q 0 1024)
      else
        let s := s1.ev evPkPoolFull q 0 1023
        .next (if s.packStalls.any (fun (y : PackStall) => y.q == q && !y.busy) then s else s.wr .PK_Q_STAT_WAITING q 0)

/-- BUSY_RECHECK (R184): an access of `q` that found BUSY on the page of `va` reads the header line again after 64 cycles, and takes place if BUSY
is clear. -/
def execBusyRecheck (q va : Nat) (s : State) : Host.Outcome State Fault Refusal :=
  match s.packStalls.find? (fun (x : PackStall) => x.q == q && x.busy && x.va / 2 ^ x.log2 == va / 2 ^ x.log2) with
  | none => .next s
  | some x =>
    match { s with packStalls := s.packStalls.erase x }.retryPacked x with
    | (s1, r) => if r = .error State.waitBusy then .next (s.ev evPkBusyWait q 0 64) else .next (s1.ev evPkBusyWait q 0 63)

/-- EXPANDER_DECODE (R187 to R191): an expander decodes blocks of a sub-stream; the answer is the bytes delivered, with poison as status 3. In
`inWait` cycles it lacked input and in `outWait` its output was full. -/
def execExpanderDecode (q va j first last inWait outWait : Nat) (s : State) : Host.Outcome State Fault Refusal :=
  let c : Client := ⟨q, ⟨2, 0⟩, 0, none⟩
  match s.xlate c va false with
  | (s, .error _) => .next s
  | (s, .ok l) =>
    if !ptePacked l.pte then .next s
    else
      let u := if pteTier l.pte = 0 then q else pteUnit l.pte
      match s.readDir c l.pte with
      | (s, .error e) => .next (s.packedFault c va false e)
      | (s, .ok (d, bytes, poisoned)) =>
        if poisoned then .next { s.dirDamage c l va true with reply := ⟨3, []⟩ }
        else if d.busy then .next (s.waitForDir c l va false [] [])
        else if !d.valid then .next { s with reply := ⟨0, []⟩ }
        else if State.dirBad d bytes then .next { s.dirDamage c l va false with reply := ⟨3, []⟩ }
        else match s.runCheck q (pteTier l.pte) u ((d.subs * d.slot + j) % nChan (pteTier l.pte)) (d.runs.getD j (0, 0, 0)).1
            (d.runs.getD j (0, 0, 0)).2.1 with
        | some e => .next (s.packedFault c va false e)
        | none =>
          let n := unitNo (pteTier l.pte) u
          let (s, bs) := ((s.ev evExpInWait q n inWait).ev evExpOutWait q n outWait).expand c l.pte l.log2 va j first last d
          .next { s with reply := ⟨if bs.any (fun e => e.2.isNone) then 3 else 0, bs.flatMap (fun e => e.2.getD [])⟩ }

end Sys2Proof.Machine
end

