-- ==== Sys2Proof/Machine/Bank.lean ====
section
/-! DEFINITION. Bank engines (chapter 10): pushes, copies and commands. A command starts in one step and retires in a later one, once
its cycles have passed. -/

namespace Sys2Proof.Machine

namespace State

/-- The lines of 64 bytes that `n` bytes at an engine address lie in, as (first byte, length) of the piece in each. -/
def eaPieces (ea n : Nat) : List (Nat × Nat) :=
  (List.range ((ea + n + 63) / 64 - ea / 64)).map (fun i =>
    let lo := max ea ((ea / 64 + i) * 64)
    (lo, min (ea + n) ((ea / 64 + i + 1) * 64) - lo))

/-- The key number under which the base die decrypts for the bank owner (R217): of its key, or of no key. -/
def bankKeyNo (s : State) (k : Nat) : Nat :=
  let q := s.rd .BANK_CFG_OWNER_ACT k
  if s.rd .MEM_ENC_STAT_KEY q = 1 then s.h .keyNum q else 2 ^ 40

/-- Whether an engine's read of the line at `a` returns poison (R160, R163, R172, R232). -/
def eaPoisoned (s : State) (k a : Nat) : Bool :=
  s.poisonOf 1 k a != 0 || decide (2 ≤ (s.badLanes (pcIdx k (a / 1024 % 64))).length) ||
    (s.encOf 1 k a != 0 && s.rd .MEM_ENC_STAT_KEY (s.rd .BANK_CFG_OWNER_ACT k) != 1)

/-- `n` bytes at an engine address as a number, and whether one of their lines is poisoned (R232). A line stored enciphered is deciphered under the
owner's key. Log entry 100, DEDUCED. -/
def eaRead (s : State) (k p ea n : Nat) : Nat × Bool :=
  let ps := eaPieces ea n
  (ofBytes (ps.flatMap (fun x =>
      let a := s.eaAddr k p x.1
      if s.encOf 1 k a = 0 then s.memBytes 1 k a x.2 else s.lineView 1 k a x.2 (s.bankKeyNo k))),
    ps.any (fun x => s.eaPoisoned k (s.eaAddr k p x.1)))

/-- Writes bytes within a line at engine address `ea`; a line stored enciphered is taken over under the owner's key; a whole line clears its
poison. -/
def eaPut (s : State) (k p ea : Nat) (d : List Byte) : State :=
  let a := s.eaAddr k p ea
  let s1 := if s.encOf 1 k a = 0 ∨ s.encOf 1 k a = s.bankKeyNo k then s else
    let s2 := s.setBytes 1 k (a / 64 * 64) (s.lineView 1 k (a / 64 * 64) 64 (s.bankKeyNo k))
    { s2 with encTag := Tab.set 0 (lkey 1 k a) (s.bankKeyNo k) s2.encTag }
  let s3 := s1.setBytes 1 k a d
  if d.length = 64 then s3.setPoison 1 k a 0 else s3

/-- Writes a number's `n` bytes at an engine address. -/
def eaWrite (s : State) (k p ea n v : Nat) : State :=
  (eaPieces ea n).foldl (fun (s : State) (x : Nat × Nat) => s.eaPut k p x.1 (toBytes (v / 2 ^ (8 * (x.1 - ea))) x.2)) s

/-- What the decoder notes of an engine's read of the line at `a` (R232): a corrected read counts, an uncorrectable one counts and logs as any read's
(R160), a stored poison logs. -/
def noteRead (s : State) (k a : Nat) : State :=
  let i := pcIdx k (a / 1024 % 64)
  let bad := (s.badLanes i).length
  if s.poisonOf 1 k a = 2 then s.ueLog 1 k a true
  else if s.poisonOf 1 k a = 1 then s
  else if 2 ≤ bad then s.uncorrectable 1 k a
  else if bad = 1 then s.bump .STK_PC_ERR_CE_CNT i 1
  else s.setH .corrRun i 0

/-- What a command has done: the state, its status, its flags, the registers and the operand lines it leaves, and the lines it has read. -/
structure BankOut where
  st : State
  status : Nat
  flags : Nat
  regs : List Nat
  held : List Nat
  reads : List Nat

/-- The register file with `vs` from lane `i` on. -/
def setLanes (regs : List Nat) (i : Nat) (vs : List Nat) : List Nat :=
  (regs ++ List.replicate (i - regs.length) 0).take i ++ vs ++ regs.drop (i + vs.length)

/-- Numbers of `w` bits each, the first lowest, as one number. -/
def packLanes (w : Nat) (vs : List Nat) : Nat := vs.zipIdx.foldl (fun (v : Nat) (e : Nat × Nat) => v + 2 ^ (w * e.2) * e.1) 0

def orFlags (fl : Nat) (vs : List (Nat × Nat)) : Nat := vs.foldl (fun (f : Nat) (e : Nat × Nat) => f ||| e.2) fl

/-- Reads of engine addresses, each (first, length): the numbers; the command stops POISONED where one is poisoned (R232). -/
def bankReads (o : BankOut) (k p : Nat) (rs : List (Nat × Nat)) : BankOut × List Nat :=
  let vs := rs.map (fun r => o.st.eaRead k p r.1 r.2)
  ({ o with
      status := if vs.any (·.2) then bkPoisoned else o.status,
      reads := o.reads ++ rs.flatMap (fun r => (eaPieces r.1 r.2).map (fun x => o.st.eaAddr k p x.1)) }, vs.map (·.1))

/-- The output of token `t` of group `g` of a GEMV from its accumulators (R224). -/
def gemvStore (o : BankOut) (k p d g t : Nat) : BankOut :=
  let ysz := if bkY16 d then 2 else 4
  let ea := bkEA2 d + t * bkLD2 d + 32 * g * ysz
  let (o, ys) := bankReads o k p (if bkAccum d then [(ea, 32 * ysz)] else [])
  if o.status ≠ bkDone then o
  else
    let out := (List.range 32).map (fun l =>
      let acc := o.regs.getD (32 * t + l) 0
      let old := bitsOf (ys.getD 0 0) (8 * ysz * l) (8 * ysz)
      let (z, f) := if bkAccum d then add32 (if bkY16 d then wide16 old else old) acc else (acc, 0)
      let (r, f1) := if bkY16 d then narrow16 .rne (dec32 z) else (z, 0)
      (r, f ||| f1))
    { o with st := o.st.eaWrite k p ea (32 * ysz) (packLanes (8 * ysz) (out.map (·.1))), flags := orFlags o.flags out }

/-- The operands of a block of 32 k of a GEMV: the scales, and each token's x (R224). -/
def gemvBlock (o : BankOut) (k p d g kb : Nat) : BankOut :=
  let m := min 32 (bkDimA d - 32 * kb)
  let (o, vs) := bankReads o k p ((if bkFmt d = 0 then [] else [(bkEA3 d + (g * cdiv (bkDimA d) 32 + kb) * 32, 32)]) ++
    (List.range (bkTok d)).map (fun t => (bkEA1 d + t * bkLD1 d + 64 * kb, 2 * m)))
  let held := if bkFmt d = 0 then 0 :: vs else vs
  { o with
    held := held,
    regs := setLanes (if kb = 0 then setLanes o.regs 0 (List.replicate (32 * bkTok d) 0) else o.regs) 256
      ((held.drop 1).flatMap (fun x => (List.range 32).map (fun i => if i < m then wide16 (bitsOf x (16 * i) 16) else 0))) }

/-- Step k = `r` of group `g` of a GEMV (R224, R228): the products of one k are added to the accumulators. -/
def gemvStep (o : BankOut) (k p d g r : Nat) : BankOut :=
  let fmt := bkFmt d
  let bits := 4 * wHalf fmt
  let o := if r % 32 = 0 then gemvBlock o k p d g (r / 32) else o
  if o.status ≠ bkDone then o
  else
    let (o, ws) := bankReads o k p [(bkEA0 d + (g * bkDimA d + r) * 16 * wHalf fmt, 16 * wHalf fmt)]
    if o.status ≠ bkDone then o
    else
      let accs := (List.range (bkTok d)).flatMap (fun t => (List.range 32).map (fun l =>
        let code := bitsOf (ws.getD 0 0) (bits * l) bits
        let (v, f1) := if fmt = 0 then (code, 0) else widenMx fmt (bitsOf (o.held.getD 0 0) (8 * l) 8) code
        let (y, f2) := fusedSum .rne (some (dec32 (o.regs.getD (32 * t + l) 0)))
          [(dec16 v, dec16 (bitsOf (o.held.getD (1 + t) 0) (16 * (r % 32)) 16))]
        (y, f1 ||| f2)))
      { o with flags := orFlags o.flags accs, regs := setLanes o.regs 0 (accs.map (·.1)) }

/-- Unit `n` of a GEMV. -/
def gemvUnit (o : BankOut) (k p d n : Nat) : BankOut :=
  let w := bkDimA d + bkTok d
  if n % w < bkDimA d then gemvStep o k p d (n / w) (n % w) else gemvStore o k p d (n / w) (n % w - bkDimA d)

/-- Column `n` of an OUTER (R225, R228): registers 0 to b − 1 take u at the first column of a group; v is read every 32 columns. -/
def outerUnit (o : BankOut) (k p d n : Nat) : BankOut :=
  let nc := bkDimA d
  let b := bkTok d
  let j := n % nc
  let (o, us) := bankReads o k p (if j = 0 then (List.range b).map (fun t => (bkEA1 d + t * bkLD1 d + 64 * (n / nc), 64)) else [])
  let (o, vs) := bankReads o k p (if j % 32 = 0 then (List.range b).map (fun t => (bkEA2 d + t * bkLD2 d + 2 * j, 2 * min 32 (nc - j))) else [])
  let (o, cs) := bankReads o k p [(bkEA0 d + n * 128, 128)]
  if o.status ≠ bkDone then o
  else
    let held := (if j = 0 then us else o.held.take b) ++ (if j % 32 = 0 then vs else o.held.drop b)
    let new := (List.range 32).map (fun l => (List.range b).foldl (fun (a : Nat × Nat) (t : Nat) =>
      let (y, f) := fusedSum .rne (some (dec32 a.1))
        [(dec16 (bitsOf (held.getD t 0) (16 * l) 16), dec16 (bitsOf (held.getD (b + t) 0) (16 * (j % 32)) 16))]
      (y, a.2 ||| f)) (bitsOf (cs.getD 0 0) (32 * l) 32, 0))
    let regs := if j = 0 then setLanes o.regs 0 (us.flatMap (fun u => (List.range 32).map (fun l => wide16 (bitsOf u (16 * l) 16)))) else o.regs
    { o with
      st := o.st.eaWrite k p (bkEA0 d + n * 128) 128 (packLanes 32 (new.map (·.1))), flags := orFlags o.flags new, held := held,
      regs := setLanes regs 256 (new.map (·.1)) }

/-- The index of row `i` of a ROWADD, checked with the bytes of its row and of D as it is read (Table 10-5, R226). -/
def rowaddIndex (o : BankOut) (k p d i : Nat) : BankOut :=
  let nc := bkDimA d
  let lim := o.st.eaLimit k
  if lim < bkEA2 d + 4 * i + 4 then { o with status := bkRange }
  else
    let (o, rs) := bankReads o k p [(bkEA2 d + 4 * i, 4)]
    let row := bkEA0 d + rs.getD 0 0 * bkLD2 d
    if o.status ≠ bkDone then o
    else if lim < row + 4 * nc ∨ lim < bkEA1 d + i * bkLD1 d + 2 * nc then { o with status := bkRange }
    else { o with held := [row] }

/-- Unit `n` of a ROWADD (R226, R228): 32 columns of a row. -/
def rowaddUnit (o : BankOut) (k p d n : Nat) : BankOut :=
  let nc := bkDimA d
  let i := n / cdiv nc 32
  let x := n % cdiv nc 32
  let m := min 32 (nc - 32 * x)
  let o := if x = 0 then rowaddIndex o k p d i else o
  if o.status ≠ bkDone then o
  else
    let ea := o.held.getD 0 0 + 128 * x
    let (o, vs) := bankReads o k p [(bkEA1 d + i * bkLD1 d + 64 * x, 2 * m), (ea, 4 * m)]
    if o.status ≠ bkDone then o
    else
      let new := (List.range m).map (fun c =>
        fusedSum .rne (some (dec32 (bitsOf (vs.getD 1 0) (32 * c) 32))) [(dec16 (bitsOf (vs.getD 0 0) (16 * c) 16), oneFV)])
      { o with st := o.st.eaWrite k p ea (4 * m) (packLanes 32 (new.map (·.1))), flags := orFlags o.flags new }

/-- Unit `n` of a command. -/
def burstUnit (o : BankOut) (k p d n : Nat) : BankOut :=
  match bkOp d with
  | 1 => gemvUnit o k p d n
  | 2 => outerUnit o k p d n
  | 3 => rowaddUnit o k p d n
  | _ => o

/-- The units of a command up to unit `n` that are not yet performed; one that ends with another status than DONE is the last (Table 10-5). -/
def runUnits (s : State) (k p d n : Nat) : BankOut :=
  let e := s.engine k p
  (List.range (n - e.units)).foldl (fun (o : BankOut) (i : Nat) =>
    if o.status ≠ bkDone then o else burstUnit o k p d (e.units + i)) ⟨s, bkDone, e.cmdFlags, e.regs, e.held, []⟩

/-- Performs a command up to unit `n` (R231), and retires it with the status that ends it there, or else with `fin` if given; then the decoder notes
what it read (R232). -/
def performCmd (s : State) (k p d n : Nat) (fin : Option Nat) : State :=
  let o := s.runUnits k p d n
  let e := o.st.engine k p
  let s1 := o.st.setEngine k p { e with regs := o.regs, held := o.held, units := max n e.units, cmdFlags := o.flags }
  let s2 := if o.status ≠ bkDone then s1.retireCmd k p o.status o.flags
    else match fin with
      | some st => s1.retireCmd k p st o.flags
      | none => s1
  o.reads.foldl (fun (s : State) (a : Nat) => s.noteRead k a) s2

/-- The bursts of a command whose cycles have passed at this boundary (R230, R231 item 2). Delays have moved its end, so the cycles of its own are
those of Table 10-6 less those that remain. -/
def burstsDone (s : State) (k p : Nat) : State :=
  let e := s.engine k p
  match e.queue, e.run with
  | d :: _, some (_, b) => if s.now < b then s.performCmd k p d (bkDue d (bkCycles d - (b - s.now))) none else s
  | _, _ => s

/-- The energy an owner's engines have metered in the turn, in units of 2^-24 token (R235). -/
def bankMetered (s : State) (q : Nat) : Nat :=
  let running := ((List.range s.nStacks).filter (fun k => s.bankOwner q k)).flatMap (fun k =>
    (List.range 64).map (fun p => match (s.engine k p).run with
      | some (a, b) => min s.now b - a
      | none => 0))
  (s.h .bankBusy q + running.sum) * s.rd .BANK_ENERGY_ENERGY 0

/-- The engine's next step on a command of an opcode of `isOp` (R222, R223, R233, R235): an idle engine starts it, retiring it at once with
INVALID, TOO_LONG or RANGE; a running one performs the bursts whose cycles have passed, and retires it when all have. -/
def stepCmd (s : State) (k p : Nat) (isOp : Nat → Bool) : State :=
  let e := s.engine k p
  match e.queue with
  | [] => s
  | d :: _ =>
    let q := s.rd .BANK_CFG_OWNER_ACT k
    if !isOp d ∨ k ≥ s.nStacks ∨ p ≥ 64 then s
    else match e.run with
      | some (_, endAt) => if s.now < endAt then s.burstsDone k p else s.performCmd k p d (bkUnits d) (some bkDone)
      | none =>
        if !s.flag .BANK_CFG_READY k ∨ s.cycS ≤ s.pos ∨ s.h .halted q = 1 ∨ !e.copies.isEmpty then s
        else if s.h .bankCharge q * 2 ^ 24 ≤ s.bankMetered q then s.ev evBankTokens q (64 * k + p) 1
        else if bkBad d then s.retireCmd k p bkInvalid 0
        else if 8192 < bkCycles d then s.retireCmd k p bkTooLong 0
        else if (bkOp d = 1 ∨ bkOp d = 2) ∧ (bkRanges d).any (fun r => decide (s.eaLimit k < r.1 + r.2)) then s.retireCmd k p bkRange 0
        else (s.setEngine k p { e with run := some (s.now, s.now + bkCycles d) }).syncBusy k

/-- SIGNAL at its retirement (R227). -/
def signalCmd (s : State) (k p : Nat) : State :=
  let e := s.engine k p
  match e.queue, e.run with
  | d :: _, some (_, endAt) =>
    if s.now < endAt then s
    else
      let q := s.rd .BANK_CFG_OWNER_ACT k
      let s1 := (s.signalBar q (bitsOf d 96 6) (if e.clean then 0 else 1)).retireCmd k p bkDone 0
      s1.setEngine k p { s1.engine k p with clean := true }
  | _, _ => s

/-- An engine's oldest pending copy (R221): 64 bytes to a cycle, not below the region's end. -/
def copyOnce (s : State) (k p : Nat) : State :=
  let e := s.engine k p
  match e.copies with
  | [] => s
  | (ea, d) :: rest =>
    let s1 := s.setEngine k p { e with copies := rest, run := e.run.map (fun r => (r.1, r.2 + (d.length + 63) / 64)) }
    if ea + d.length ≤ s.eaLimit k then s1.eaWrite k p ea d.length (ofBytes d) else s1

/-- At D a command still running stops at its next boundary, its burst in hand complete, and retires CUT (R233). -/
def cutEngines (s : State) : State :=
  s.engines.foldl (fun (s : State) (x : Nat × Engine) =>
    match x.2.run, x.2.queue with
    | some (_, b), d :: _ =>
      if s.now < b then s.performCmd (x.1 / 64) (x.1 % 64) d (bkNext d (bkCycles d - (b - s.now))) (some bkCut) else s
    | _, _ => s) s

/-- At cycle 0 every register reads +0.0 (R233). -/
def zeroRegs (s : State) : State :=
  let es := s.engines.map (fun (x : Nat × Engine) => (x.1, { x.2 with regs := [] }))
  { s with engines := es.filter (fun (x : Nat × Engine) => x.2 != Engine.empty) }

end State

/-- A write to a window that the quarter does not own, or of a stack or engine that the module has not, or beyond the window, raises an OWNER fault
(R219, Table 6-5). -/
def State.windowDo (s : State) (w : WinWrite) (k : Nat) (inside : Bool) (f : State → State) : State :=
  if k < s.nStacks ∧ inside = true ∧ s.bankOwner w.q k = true then f s else s.raiseFault ⟨w.q, w.init, w.tag, none⟩ w.va true 3 7 none

/-- COMMAND_PUSH (R219, R220): a write to the PUSH window of an engine. -/
def execCommandPush (w : WinWrite) (k p : Nat) (full : Bool) (line : Line) (s : State) : Host.Outcome State Fault Refusal :=
  .next (s.windowDo w k (decide (p < 64)) (fun s =>
    if full then s.pushEngine k p line.toNat else s.windowErr w.q (bankWinBase + 65536 * p)))

/-- BROADCAST_PUSH (R220). -/
def execBroadcastPush (w : WinWrite) (k : Nat) (full : Bool) (line : Line) (s : State) : Host.Outcome State Fault Refusal :=
  .next (s.windowDo w k true (fun s => if full then s.pushAll k line.toNat else s.windowErr w.q (bankWinBase + 0x400000)))

/-- BROADCAST_DATA_WRITE (R221). -/
def execBroadcastDataWrite (w : WinWrite) (k off : Nat) (data : List Byte) (s : State) : Host.Outcome State Fault Refusal :=
  .next (s.windowDo w k (decide (off + data.length ≤ 0x400000)) (fun s => s.bcastData k off data))

/-- BROADCAST_COPY (R221, R233): at a command boundary; from cycle S on not inside a running command. -/
def execBroadcastCopy (k p : Nat) (s : State) : Host.Outcome State Fault Refusal :=
  if s.flag .BANK_CFG_ACTIVE k ∧ ¬ (s.cycS ≤ s.pos ∧ (s.engine k p).run.isSome) then .next ((s.burstsDone k p).copyOnce k p) else .next s

/-- ENGINE_CLEAR (Table 10-2). -/
def execEngineClear (w : WinWrite) (k p : Nat) (full : Bool) (s : State) : Host.Outcome State Fault Refusal :=
  .next (s.windowDo w k (decide (p < 64)) (fun s => if full then s.clearEngine k p else s))

/-- BANK_READY (R215): the entry scan is complete, at least 98,304 cycles after it began; every line of the region has left plaza. -/
def execBankReady (k : Nat) (s : State) : Host.Outcome State Fault Refusal :=
  if s.flag .BANK_CFG_ACTIVE k ∧ ¬ s.flag .BANK_CFG_READY k ∧ s.h .scanAt k + 98304 ≤ s.now then
    .next ((s.flushLines (s.plaza.filter (fun (l : PLine) => l.tier == 1 && l.unit == k && s.inBank k l.addr))).wr .BANK_CFG_READY k 1)
  else .next s

/-- BANK_NOP (R222): a NOP, or a line whose OP is invalid, at the head of the queue. -/
def execBankNop (k p t : Nat) (s : State) : Host.Outcome State Fault Refusal :=
  .next ((s.goTo t).stepCmd k p (fun d => bkOp d == 0 || decide (4 < bkOp d)))

/-- GEMV (R224). -/
def execGemv (k p t : Nat) (s : State) : Host.Outcome State Fault Refusal :=
  .next ((s.goTo t).stepCmd k p (fun d => bkOp d == 1))

/-- OUTER (R225). -/
def execOuter (k p t : Nat) (s : State) : Host.Outcome State Fault Refusal :=
  .next ((s.goTo t).stepCmd k p (fun d => bkOp d == 2))

/-- ROWADD (R226). -/
def execRowadd (k p t : Nat) (s : State) : Host.Outcome State Fault Refusal :=
  .next ((s.goTo t).stepCmd k p (fun d => bkOp d == 3))

/-- SIGNAL (R227). -/
def execSignal (k p t : Nat) (s : State) : Host.Outcome State Fault Refusal :=
  let s := s.goTo t
  let e := s.engine k p
  .next (match e.queue, e.run with
    | d :: _, some _ => if bkOp d = 4 then s.signalCmd k p else s
    | _, _ => s.stepCmd k p (fun d => bkOp d == 4))

/-- BURST_BOUNDARY (R230, R231): the bursts so far are done; where a request waits for a bank of the burst that ended or of the next one, the engine's
row closes and every request queued for those banks is served. Ordinary requests waited `hold` cycles, and the engine yields `yielded`. -/
def execBurstBoundary (k p hold yielded : Nat) (s : State) : Host.Outcome State Fault Refusal :=
  if k ≥ s.nStacks ∨ p ≥ 64 then .next s
  else
    let q := s.rd .BANK_CFG_OWNER_ACT k
    let s := s.burstsDone k p
    let e := s.engine k p
    let s1 := ((s.bump .BANK_STAT_HOLD_CYCLES k hold).ev evBankHold q (64 * k + p) hold).ev evBankYield q (64 * k + p) yielded
    .next ((s1.setEngine k p { e with run := e.run.map (fun r => (r.1, r.2 + yielded)) }).serveBanks k p)

end Sys2Proof.Machine
end

