-- ==== Sys2Proof/Machine/Update.lean ====
section
/-! DEFINITION. The update unit (chapter 11): tensor records, ACCUM, NORM and UPDATE, the shard journal, and the scale keeper. -/

namespace Sys2Proof.Machine

/-- Fields of an update-unit descriptor (Table 11-4). -/
def uuOp (d : Nat) : Nat := bitsOf d 9 2
def uuSrcFmt (d : Nat) : Nat := bitsOf d 11 1
def uuSeq (d : Nat) : Nat := bitsOf d 32 32
def uuRec (d : Nat) : Nat := bitsOf d 64 64
def uuData (d : Nat) : Nat := bitsOf d 128 64

/-- The admission rows of Table 11-5 that the descriptor alone decides. -/
def uuInvalid (d : Nat) : Bool :=
  uuOp d == 3 || bitsOf d 12 20 != 0 || bitsOf d 245 11 != 0 || bitsOf d 288 224 != 0 || (uuOp d != 0 && uuSrcFmt d != 0) ||
    (uuOp d == 1 && uuSeq d != 0) || (uuOp d == 2 && uuData d != 0) || [uuRec d, uuData d].any (fun a => decide (2 ^ 52 ≤ a))

/-- Fields of a tensor record (Table 11-3), a number of 1,536 bits. -/
def trMode (r : Nat) : Nat := bitsOf r 0 2
def trMatrix (r : Nat) : Bool := bitsOf r 2 1 == 1
def trUnit (r : Nat) : Nat := bitsOf r 4 4
def trShift (r : Nat) : Int := if bitsOf r 15 1 = 1 then (bitsOf r 8 8 : Int) - 256 else bitsOf r 8 8
def trRows (r : Nat) : Nat := bitsOf r 32 32
def trCols (r : Nat) : Nat := bitsOf r 64 32
def trB1 (r : Nat) : Nat := bitsOf r 96 32
def trB1C (r : Nat) : Nat := bitsOf r 128 32
def trB2 (r : Nat) : Nat := bitsOf r 160 32
def trB2C (r : Nat) : Nat := bitsOf r 192 32
def trEps (r : Nat) : Nat := bitsOf r 224 32
def trWd (r : Nat) : Nat := bitsOf r 256 32
def trInvRows (r : Nat) : Nat := bitsOf r 288 32
def trInvCols (r : Nat) : Nat := bitsOf r 320 32
def trW (r : Nat) : Nat := bitsOf r 384 64
def trM (r : Nat) : Nat := bitsOf r 448 64
def trG (r : Nat) : Nat := bitsOf r 512 64
def trV (r : Nat) : Nat := bitsOf r 576 64
def trSched (r : Nat) : Nat := bitsOf r 640 64
def trStep (r : Nat) : Nat := bitsOf r 1024 32
def trAcc (r : Nat) : Nat := bitsOf r 1056 32
def trLast (r : Nat) : Nat := bitsOf r 1088 32
def trHold (r : Nat) : Nat := bitsOf r 1120 32
def trCursor (r : Nat) : Nat := bitsOf r 1152 32
def trSumr (r : Nat) : Nat := bitsOf r 1184 32
def trSqs (r : Nat) : Nat := bitsOf r 1216 32
def trClip (r : Nat) : Nat := bitsOf r 1248 32
def trPass (r : Nat) : Nat := bitsOf r 1280 2
def trApply (r : Nat) : Bool := bitsOf r 1282 1 == 1
def trE (r : Nat) : Nat := bitsOf r 1283 5

/-- Elements and shards of a tensor. -/
def trN (r : Nat) : Nat := if trMatrix r then trRows r * trCols r else trRows r
def trShards (r : Nat) : Nat := cdiv (trN r) 16384

/-- A progress line (bits 1,535:1,024 of Table 11-3) as a number, with its LCHECK. -/
def progressLine (step acc last hold cursor sumr sqs clip pass : Nat) (apply : Bool) (e : Nat) : Nat :=
  let w := step % 2 ^ 32 + 2 ^ 32 * (acc % 2 ^ 32) + 2 ^ 64 * (last % 2 ^ 32) + 2 ^ 96 * (hold % 2 ^ 32) + 2 ^ 128 * (cursor % 2 ^ 32) +
    2 ^ 160 * (sumr % 2 ^ 32) + 2 ^ 192 * (sqs % 2 ^ 32) + 2 ^ 224 * (clip % 2 ^ 32) + 2 ^ 256 * (pass % 4) +
    (if apply then 2 ^ 258 else 0) + 2 ^ 259 * (e % 32)
  w + 2 ^ 496 * crc16 0xFFFF (toBytes w 62)

/-- The alignments of R238. -/
def trAligned (recVA r : Nat) : Bool :=
  recVA % 64 == 0 && trW r % 65536 == 0 && trG r % 65536 == 0 && trM r % 32768 == 0 &&
    (trMode r == 0 || (if trMatrix r then trV r % 64 == 0 else trV r % 65536 == 0))

/-- The start conditions of Table 11-5 on a tensor record: true where it is invalid. -/
def recInvalid (recVA r : Nat) : Bool :=
  let eps := match dec32 (trEps r) with
    | .fin n m _ => !n && m != 0
    | _ => false
  bitsOf r 1008 16 != crc16 0xFFFF (toBytes r 126) || bitsOf r 1520 16 != crc16 0xFFFF (toBytes (r / 2 ^ 1024) 62) ||
    decide (2 ≤ trMode r) || (trMode r == 0 && trMatrix r) || trRows r == 0 ||
    (if trMatrix r then trCols r == 0 || decide (65536 < trCols r) else trCols r != 1) ||
    decide (trShift r < -24) || decide (24 < trShift r) || (trMode r == 1 && !eps) || !trAligned recVA r

/-- Pieces of a schedule table (Table 11-7): START, KIND, LR0, LR1, INV_LEN. -/
def schedPiece (t i : Nat) : Nat × Nat × Nat × Nat × Nat :=
  let p := bitsOf t (256 * i) 256
  (bitsOf p 0 32, bitsOf p 32 2, bitsOf p 64 32, bitsOf p 96 32, bitsOf p 128 32)
def schedUsed (t : Nat) : List (Nat × Nat × Nat × Nat × Nat) :=
  ((List.range 8).map (schedPiece t)).filter (fun p => decide (p.2.1 < 3))

/-- R249: piece 0 in use with START 0, and STARTs that increase strictly. -/
def schedOk (t : Nat) : Bool :=
  let p0 := schedPiece t 0
  let starts := (schedUsed t).map (·.1)
  decide (p0.2.1 < 3) && p0.1 == 0 && (starts.zip (starts.drop 1)).all (fun e => decide (e.1 < e.2))

/-- π × 2^256, rounded down. -/
def piFixed : Nat := 363771576891766324280234942777729862653393377328392429958772151117938894466185

/-- The Taylor sum of sin (`k` odd) or cos (`k` even) of x / 2^256, from the term `term` of index `k`; `n` terms. -/
def taylor (x2 : Nat) : Nat → Nat → Nat → Bool → Int → Int
  | 0, _, _, _, acc => acc
  | n + 1, term, k, neg, acc =>
    taylor x2 n (term * x2 / 2 ^ 256 / ((k + 1) * (k + 2))) (k + 2) (!neg) (acc + (if neg then -(term : Int) else term))

/-- cospi of a finite value m × 2^e, correctly rounded (R248): by reduction to the first quadrant and a Taylor sum to 2^-240. Only
multiples of 1/2 are exact. -/
def cospiFin (m : Nat) (e : Int) : Nat × Nat :=
  if e ≥ 1 then (0x3F800000, 0)
  else if e = 0 then (if m % 2 = 0 then 0x3F800000 else 0xBF800000, 0)
  else
    let sh := (-e).toNat
    -- f modulo 2 as r / 2^sh
    let r := m % 2 ^ (sh + 1)
    let r := if 2 ^ sh < r then 2 ^ (sh + 1) - r else r
    if 2 * r = 2 ^ sh then (0, 0)
    else if r = 0 then (0x3F800000, 0)
    else if r = 2 ^ sh then (0xBF800000, 0)
    else
      let neg := decide (2 ^ sh < 2 * r)
      let r := if neg then 2 ^ sh - r else r
      -- cos for r below 1/4, otherwise sin of the complement
      let small := decide (4 * r ≤ 2 ^ sh)
      let y := if small then r else 2 ^ sh / 2 - r
      let x := piFixed * y / 2 ^ sh
      let x2 := x * x / 2 ^ 256
      let v := if small then taylor x2 40 (2 ^ 256) 0 false 0 else taylor x2 40 x 1 false 0
      ((round32 .rne neg (2 * v.toNat + 1) (-257)).1, flagNX)

/-- cospi (Table 11-6). -/
def cospi (x : Nat) : Nat × Nat :=
  match dec32 x with
  | .nan s => (nan32, if s then flagNV else 0)
  | .inf _ => (nan32, flagNV)
  | .fin _ m e => if m = 0 then (0x3F800000, 0) else cospiFin m e

/-- Whether r = m × 2^e is the exact square of the binary32 value `y`. -/
def sqExact (y m : Nat) (e : Int) : Bool :=
  match dec32 y with
  | .fin _ a b => termAt (min (2 * b) e) (.fin false (a * a) (2 * b)) == termAt (min (2 * b) e) (.fin false m e)
  | _ => false

/-- sqrt (Table 11-6). -/
def sqrt32 (x : Nat) : Nat × Nat :=
  match dec32 x with
  | .nan s => (nan32, if s then flagNV else 0)
  | .inf n => if n then (nan32, flagNV) else (inf32 false, 0)
  | .fin n m e =>
    if m = 0 then (x, 0) else if n then (nan32, flagNV)
    else
      let y := sqrtFin m e
      (y, if sqExact y m e then 0 else flagNX)

/-- rsqrt (Table 11-6). -/
def rsqrt32 (x : Nat) : Nat × Nat :=
  match dec32 x with
  | .nan s => (nan32, if s then flagNV else 0)
  | .inf n => if n then (nan32, flagNV) else (0, 0)
  | .fin n m e =>
    if m = 0 then (if n then (nan32, flagNV) else (inf32 false, flagOF))
    else if n then (nan32, flagNV)
    else
      let y := rsqrtFin m e
      -- exact where y × y × x = 1
      let exact := match dec32 y with
        | .fin _ a b => (fusedSum .rne (some (dec32 0xBF800000)) [(.fin false (a * a) (2 * b), .fin false m e)]).1 == 0
        | _ => false
      (y, if exact then 0 else flagNX)

/-- Arithmetic that gathers flags: a value and the flags so far. -/
abbrev Fl := Nat × Nat
def Fl.mul (a b : Fl) : Fl := let (y, f) := mul32 a.1 b.1; (y, a.2 ||| b.2 ||| f)
def Fl.add (a b : Fl) : Fl := let (y, f) := add32 a.1 b.1; (y, a.2 ||| b.2 ||| f)
def Fl.sub (a b : Fl) : Fl := let (y, f) := sub32 a.1 b.1; (y, a.2 ||| b.2 ||| f)
def Fl.un (f : Nat → Nat × Nat) (a : Fl) : Fl := let (y, g) := f a.1; (y, a.2 ||| g)
/-- a × b + c, rounded once. -/
def Fl.fma (a b c : Fl) : Fl :=
  let (y, f) := fusedSum .rne (some (dec32 c.1)) [(dec32 a.1, dec32 b.1)]
  (y, a.2 ||| b.2 ||| c.2 ||| f)
def Fl.of (x : Nat) : Fl := (x, 0)

/-- 2^k as binary32. -/
def pow2f (k : Int) : Nat := (round32 .rne false 1 k).1

/-- The learning rate of step `n` (R249). -/
def schedRate (t n : Nat) : Fl :=
  let used := schedUsed t
  let pick := used.foldl (fun (b : Option (Nat × Nat × Nat × Nat × Nat)) (p : Nat × Nat × Nat × Nat × Nat) =>
    if p.1 < n then some p else b) none
  let (p, tt) := match pick with
    | some p => (p, n - p.1)
    | none => (schedPiece t 0, 0)
  let (_, kind, lr0, lr1, inv) := p
  let (tf, f0) := round32 .rne false tt 0
  let x := Fl.mul (tf, f0) (Fl.of inv)
  let f := Fl.un (fun v => min32 0x3F800000 v) x
  match kind with
  | 0 => Fl.of lr0
  | 1 => Fl.add (Fl.of lr0) (Fl.mul (Fl.sub (Fl.of lr1) (Fl.of lr0)) f)
  | _ =>
    let h := Fl.mul (Fl.of 0x3F000000) (Fl.add (Fl.of 0x3F800000) (Fl.un cospi f))
    Fl.add (Fl.of lr1) (Fl.mul (Fl.sub (Fl.of lr0) (Fl.of lr1)) h)

/-- gc and q of R249's last sentence. -/
def clippedGrad (e clip g : Nat) : Fl := Fl.mul (Fl.mul (Fl.of g) (Fl.of (pow2f (-(e : Int))))) (Fl.of clip)
def squaredGrad (eps : Nat) (gc : Fl) : Fl := Fl.fma gc gc (Fl.of eps)

/-- A stored first moment as binary32, exact (R251). -/
def momentOut (shift : Int) (m : Nat) : Fl :=
  match dec16 m with
  | .nan s => (nan32, if s then flagNV else 0)
  | .inf n => (inf32 n, 0)
  | .fin n k e => (widen32 (.fin n k (e - shift)), 0)

/-- A first moment narrowed for storage (R251). -/
def momentIn (shift : Int) (x : Fl) : Fl :=
  let (y, f) := narrow16 .rne (match dec32 x.1 with
    | .fin n k e => .fin n k (e + shift)
    | v => v)
  (y, x.2 ||| f)

/-- One element of the apply pass (R251): W, m, v (as read), and what u's factor needs; new W, m, v and flags. -/
def applyElem (r : Nat) (lr lrwd : Fl) (w m g v rf cf : Nat) : Nat × Nat × Nat × Nat :=
  let gc := clippedGrad (trE r) (trClip r) g
  let mo := momentOut (trShift r) m
  let m32 := Fl.add (Fl.mul (Fl.of (trB1 r)) mo) (Fl.mul (Fl.of (trB1C r)) gc)
  let mn := momentIn (trShift r) m32
  let mt : Fl := let (y, f) := momentOut (trShift r) mn.1; (y, mn.2 ||| f)
  let v' := Fl.add (Fl.mul (Fl.of (trB2 r)) (Fl.of v)) (Fl.mul (Fl.of (trB2C r)) (squaredGrad (trEps r) gc))
  let u := if trMode r = 0 then mt
    else if trMatrix r then
      Fl.mul mt (Fl.mul (Fl.mul (Fl.un rsqrt32 (Fl.of rf)) (Fl.un rsqrt32 (Fl.of cf))) (Fl.of (trSqs r)))
    else Fl.mul mt (Fl.un rsqrt32 v')
  let w' := Fl.sub (Fl.sub (Fl.of w) (Fl.mul lrwd (Fl.of w))) (Fl.mul lr u)
  (w'.1, mn.1, v'.1, w'.2 ||| mn.2 ||| (if trMode r = 1 ∧ !trMatrix r then v'.2 else 0))

/-- The pairwise reduction of R244: `n` levels. -/
def pairwise : Nat → List Fl → List Fl
  | 0, xs => xs
  | n + 1, xs => pairwise n ((List.range (xs.length / 2)).map (fun i => Fl.add (xs.getD (2 * i) (0, 0)) (xs.getD (2 * i + 1) (0, 0))))

/-- A binary32 pattern that is a NaN or an infinity. -/
def notFinite (x : Nat) : Bool := !isFin32 x

/-- Words of `n` bytes out of a byte string's number. -/
def wordsOf (x bits n : Nat) : List Nat := (List.range n).map (fun i => bitsOf x (bits * i) bits)

/-- Parts of the factor area (R250). -/
def pad64 (n : Nat) : Nat := (n + 63) / 64 * 64
def rfAddr (r p : Nat) : Nat := trV r + p * pad64 (4 * trRows r)
def cfAddr (r p : Nat) : Nat := trV r + 2 * pad64 (4 * trRows r) + p * pad64 (4 * trCols r)
def partAddr (r : Nat) : Nat := trV r + 2 * pad64 (4 * trRows r) + 2 * pad64 (4 * trCols r)

/-- Offsets of a journal slot and its regions (Table 11-9). -/
def slotBytes : Nat := 167936
def regionOff (i : Nat) : Nat := if i = 0 then 4096 else if i = 1 then 69632 else 102400

/-- What an update-unit operation keeps: its unit; CLIP, APPLY, E_STEP, VERDICT.STEP and VSEQ latched at its admission (R246); 1
once it has claimed its tensor; SUMR; and, for NORM, its NF count and its 64 lane sums. -/
structure UnitOp where
  unit : Nat
  clip : Nat
  apply : Nat
  eStep : Nat
  vStep : Nat
  vSeq : Nat
  claimed : Nat
  sumr : Nat
  nf : Nat
  lanes : List Nat
  deriving DecidableEq, Repr

def UnitOp.ofOp (o : Op) : UnitOp :=
  let a := fun i => o.aux.getD i 0
  ⟨a 0, a 1, a 2, a 3, a 4, a 5, a 6, a 7, a 8, o.aux.drop 9⟩

def UnitOp.put (x : UnitOp) (o : Op) : Op :=
  { o with aux := [x.unit, x.clip, x.apply, x.eStep, x.vStep, x.vSeq, x.claimed, x.sumr, x.nf] ++ x.lanes }

/-- What R241 and R246 latch at admission, for unit `u`. -/
def latchUnit (s : State) (o : Op) (u : Nat) : Op :=
  UnitOp.put ⟨u, s.rd .UU_Q_VERDICT_CLIP o.q, s.rd .UU_Q_KEEP_APPLY o.q, s.rd .UU_Q_KEEP_E_STEP o.q, s.rd .UU_Q_VERDICT_STEP o.q,
    s.rd .UU_STEP_EXPECT_VSEQ o.q, 0, 0, 0, []⟩ o

namespace State

/-- The client of update unit `u` (Table 6-6, class 4). -/
def unitClient (q u tag : Nat) (op : Option Nat) : Client := ⟨q, ⟨4, u⟩, tag, op⟩

/-- The client with which unit `u` retires a slot, which is no operation's (R257). Its tag lies above the 32 bits that a fault record shows, and so tells
an unresolved fault of a retire from that of a write at a park, which holds nothing up (R244). -/
def retireClient (q u : Nat) : Client := ⟨q, ⟨4, u⟩, 2 ^ 32, none⟩

/-- An unresolved fault of unit `u`'s retire: it retires none of its slots (R257). -/
def retireStalled (s : State) (u : Nat) : Bool := s.stalls.any (fun x => x.op.isNone && x.init == ⟨4, u⟩ && x.tag == 2 ^ 32)

/-- The scratchpad as one range of bytes of quarter `q`. -/
def scratchLeaf : Leaf := ⟨0, 52, 0, 0⟩

def scratchRead (s : State) (q a n : Nat) : List Byte × Bool :=
  let c := unitClient q 0 0 none
  (List.range (n / 64 + 1)).foldl (fun (acc : List Byte × Bool) (i : Nat) =>
    let m := min 64 (n - 64 * i)
    if m = 0 then acc else
      let (_, d, b) := s.readPiece c scratchLeaf (a + 64 * i) m true
      (acc.1 ++ d, acc.2 || b)) ([], false)

def scratchWrite (s : State) (q a : Nat) (d : List Byte) : State :=
  let c := unitClient q 0 0 none
  (List.range (d.length / 64 + 1)).foldl (fun (s : State) (i : Nat) =>
    let p := (d.drop (64 * i)).take 64
    if p.isEmpty then s else s.writePiece c scratchLeaf (a + 64 * i) p false none) s

/-- The unit of a stack or bay home (Table 11-1) fitted and in service (R236, R335). -/
def unitFit (s : State) (u : Nat) : Bool :=
  (if u < 12 then decide (u < s.nStacks) else decide (u - 12 < s.nBays)) && s.h .outUu u == 0

/-- The journal area lies in the quarter's scratchpad (Table 11-5). -/
def journalOk (s : State) (q : Nat) : Bool :=
  s.flag .UU_Q_JRNL_EN q && decide (s.rd .UU_Q_JRNL_OFFSET q * 4096 + 128 * slotBytes ≤ s.scratchBytes q)

def slotBase (s : State) (q u k : Nat) : Nat := s.rd .UU_Q_JRNL_OFFSET q * 4096 + (8 * u + k) * slotBytes

/-- State of slot k of unit u (UU_SLOTS). -/
def slotState (s : State) (u k : Nat) : Nat := bitsOf (s.rd .UU_SLOTS_SLOT_STATE u) (2 * k) 2
def slotQ (s : State) (u k : Nat) : Nat := bitsOf (s.rd .UU_SLOTS_SLOT_Q u) (4 * k) 4

def setSlot (s : State) (u k st q : Nat) : State :=
  let a := s.rd .UU_SLOTS_SLOT_STATE u
  let b := s.rd .UU_SLOTS_SLOT_Q u
  (s.wr .UU_SLOTS_SLOT_STATE u (a - bitsOf a (2 * k) 2 * 2 ^ (2 * k) + st * 2 ^ (2 * k))).wr .UU_SLOTS_SLOT_Q u
    (b - bitsOf b (4 * k) 4 * 2 ^ (4 * k) + q * 2 ^ (4 * k))

/-- Any unit holds a slot of quarter `q` (R261). -/
def slotsHeld (s : State) (q : Nat) : Bool :=
  (List.range 16).any (fun u => (List.range 8).any (fun k => s.slotState u k != 0 && s.slotQ u k == q))

/-- Whether every page of the `n` bytes at `va` lies in the home of unit `u` (R238); a fault answers its cause. `k` bounds the pages. -/
def pagesHome (s : State) (c : Client) (u va n : Nat) (write : Bool) : Nat → State × Except Nat Bool
  | 0 => (s, .ok true)
  | k + 1 =>
    match s.xlate c va write with
    | (s, .error e) => (s, .error e)
    | (s, .ok l) =>
      let home := if u < 12 then pteTier l.pte == 1 && pteUnit l.pte == u else pteTier l.pte == 2 && pteUnit l.pte == u - 12
      let m := 65536 - va % 65536
      if home = true ∧ m < n then s.pagesHome c u (va + m) (n - m) write k else (s, .ok home)

def inHome (s : State) (c : Client) (u va n : Nat) (write : Bool) : State × Except Nat Bool := s.pagesHome c u va n write (n / 65536 + 2)

/-- Writes bytes that must lie in the home (R238): false where they do not. -/
def homeWrite (s : State) (c : Client) (u va : Nat) (d : List Byte) : State × Except Nat Bool :=
  match s.inHome c u va d.length true with
  | (s, .error e) => (s, .error e)
  | (s, .ok false) => (s, .ok false)
  | (s, .ok true) =>
    match s.vwrite c va d with
    | (s, .error e) => (s, .error e)
    | (s, .ok _) => (s, .ok true)

/-- Reads a range that must lie in the home. -/
def homeRead (s : State) (c : Client) (u va n : Nat) : State × Except Nat (Option (Nat × Bool)) :=
  match s.inHome c u va n false with
  | (s, .error e) => (s, .error e)
  | (s, .ok false) => (s, .ok none)
  | (s, .ok true) =>
    match s.vread c va n with
    | (s, .error e) => (s, .error e)
    | (s, .ok (d, bad)) => (s, .ok (some (ofBytes d, bad)))

/-- The operation a unit runs, and the head of its queue, passing over halted quarters (R237). -/
def unitRuns (s : State) (u : Nat) : Option Op :=
  s.ops.find? (fun o => o.kind == 0x30 && o.phase == .running && (UnitOp.ofOp o).unit == u)
def unitHead (s : State) (u : Nat) : Option Op :=
  s.allocQ.findSome? (fun id => match s.op? id with
    | some o => if o.kind = 0x30 ∧ (UnitOp.ofOp o).unit = u ∧ s.h .halted o.q = 0 then some o else none
    | none => none)

/-- QUEUED, QUARTER and BUSY of UU_STAT. -/
def syncUnit (s : State) (u : Nat) : State :=
  let n := (s.ops.filter (fun o => o.kind == 0x30 && o.phase == .placing && (UnitOp.ofOp o).unit == u)).length
  let s1 := s.wr .UU_STAT_QUEUED u n
  match s1.unitRuns u with
  | some o => (s1.wr .UU_STAT_BUSY u 1).wr .UU_STAT_QUARTER u o.q
  | none => s1.wr .UU_STAT_BUSY u 0

/-- Writes a progress line at its home (R240). -/
def putLine (s : State) (c : Client) (recVA line : Nat) : State × Except Nat Unit := s.vwrite c (recVA + 128) (toBytes line 64)

/-- Reads a tensor record: a fault's cause, or the record and its poison. -/
def readRec (s : State) (c : Client) (recVA : Nat) : State × Except Nat (Nat × Bool) :=
  match s.vread c recVA 192 with
  | (s, .error e) => (s, .error e)
  | (s, .ok (d, bad)) => (s, .ok (ofBytes d, bad))

/-- v − w as a 32-bit signed difference is at most zero, or below it. -/
def diffLe (v w : Nat) : Bool := v % 2 ^ 32 == w % 2 ^ 32 || decide (2 ^ 31 ≤ (v + 2 ^ 32 - w % 2 ^ 32) % 2 ^ 32)
def diffLt (v w : Nat) : Bool := v % 2 ^ 32 != w % 2 ^ 32 && diffLe v w

/-- The end of an update-unit operation with a status; its unit takes the next. -/
def unitFail (s : State) (o : Op) (st : Nat) : State := (s.finish o.id st).syncUnit (UnitOp.ofOp o).unit

/-- Update unit `u` is to leave service and starts no new operation (R335). -/
def unitClosing (s : State) (u : Nat) : Bool := s.h .uuLeaving u == 1 || s.rd .RES_OUT_MISC_UU u == 1

/-- Starts the operation at the head of a unit's queue (R240, R246, Table 11-5). -/
def unitStart (s : State) (o : Op) : State :=
  let x := UnitOp.ofOp o
  let d := o.raw
  let c := unitClient o.q x.unit o.tag (some o.id)
  let s := if o.startAt < s.now ∧ ¬ s.isStalled o.id then (s.ev evUuQueue o.q x.unit (s.now - o.startAt)).setOp { o with startAt := s.now } else s
  if !s.unitFit x.unit then s.unitFail o stInvalidTarget
  else if s.unitClosing x.unit then s
  else
    match s.inHome c x.unit (uuRec d) 192 false with
    | (s, .error _) => s
    | (s, .ok home) =>
      match s.readRec c (uuRec d) with
      | (s, .error _) => s
      | (s, .ok (r, bad)) =>
        if bad then s.unitFail o stPoisonedData
        else if recInvalid (uuRec d) r then s.unitFail o stInvalidDescriptor
        else if !home then s.unitFail o stMisplaced
        else
          let (s, sch) : State × Except Nat (Nat × Bool) := if uuOp d = 2 then
              (match s.vread c (trSched r) 256 with
               | (s, .error e) => (s, .error e)
               | (s, .ok (b, bad)) => (s, .ok (ofBytes b, bad))) else (s, .ok (0, false))
          match sch with
          | .error _ => s
          | .ok (t, tbad) =>
            if tbad then s.unitFail o stPoisonedData
            else if uuOp d = 2 ∧ !schedOk t then s.unitFail o stInvalidDescriptor
            else
              let go := fun (s : State) (pass cursor sumr : Nat) =>
                let o := { ({ x with claimed := 1, sumr := sumr } : UnitOp).put o with
                  phase := .running, rowRun := cursor, nBlock := pass, actB := [] }
                ({ s with allocQ := s.allocQ.filter (· != o.id) }.setOp o).syncUnit x.unit
              let claim := fun (s : State) (pass clip : Nat) (apply : Bool) (e : Nat) =>
                match s.putLine c (uuRec d) (progressLine (trStep r) (trAcc r) (trLast r) (uuSeq d) 0 0 (trSqs r) clip pass apply e) with
                | (s, .error _) => s
                | (s, .ok _) => go s pass 0 0
              match uuOp d with
              | 0 =>
                if trPass r = 0 then
                  (if uuSeq d ≠ trAcc r then s.unitFail o stStepMismatch
                   else claim s 3 (trClip r) (trApply r) (trE r))
                else if trPass r = 3 ∧ trHold r = uuSeq d then go s 3 (trCursor r) (trSumr r)
                else s.unitFail o stTensorBusy
              | 1 =>
                if trPass r ≠ 0 then s.unitFail o stTensorBusy
                else
                  -- a resumed NORM reads its result area back (R244)
                  let cur := o.rowRun
                  let (s, back) : State × Except Nat (List Nat × Nat) := if cur = 0 then (s, .ok ([], 0)) else
                    (match s.vread c (uuData d) 320 with
                     | (s, .error e) => (s, .error e)
                     | (s, .ok (b, _)) =>
                       let v := ofBytes b
                       if bitsOf v 2112 32 = cur then (s, .ok (wordsOf v 32 64, bitsOf v 2080 32)) else (s, .ok ([], 0)))
                  (match back with
                   | .error _ => s
                   | .ok (lanes, nf) =>
                     let cur := if lanes.isEmpty then 0 else cur
                     let lanes := if lanes.isEmpty then List.replicate 64 0 else lanes
                     let o := { ({ x with claimed := 1, nf := nf, lanes := lanes } : UnitOp).put o with
                       phase := .running, rowRun := cur, nBlock := 0 }
                     ({ s with allocQ := s.allocQ.filter (· != o.id) }.setOp o).syncUnit x.unit)
              | _ =>
                if trPass r = 0 then
                  (if uuSeq d ≠ x.vSeq ∨ !diffLt (trLast r) (uuSeq d) ∨ (x.apply = 1 ∧ (trStep r + 1) % 2 ^ 32 ≠ x.vStep) then
                     s.unitFail o stStepMismatch
                   else claim s (if x.apply = 1 ∧ trMode r = 1 ∧ trMatrix r then 1 else 2) x.clip (x.apply == 1) x.eStep)
                else if (trPass r = 1 ∨ trPass r = 2) ∧ trHold r = uuSeq d then
                  -- R259: a factor pass resumes with its sums only when the partial area holds the record's CURSOR and HOLD
                  (if trPass r = 1 then
                     match s.vread c (partAddr r) (64 + 4 * trCols r) with
                     | (s, .error _) => s
                     | (s, .ok (b, bad)) =>
                       let v := ofBytes b
                       if !bad ∧ bitsOf v 0 32 = trCursor r ∧ bitsOf v 32 32 = trHold r ∧ trCursor r ≠ 0 then
                         (go s 1 (trCursor r) (trSumr r)).updOp o.id (fun o => { o with actB := [[wordsOf (v / 2 ^ 512) 32 (trCols r)]] })
                       else go s 1 0 0
                   else go s 2 (trCursor r) (trSumr r))
                else s.unitFail o stTensorBusy

/-- A unit computes for `n` cycles (R254, Table 11-8): it starts nothing more before. -/
def unitBusy (s : State) (u n : Nat) : State := s.setH .uuFree u (s.now + n)

/-- A free slot of a unit. -/
def freeSlot (s : State) (u : Nat) : Option Nat := (List.range 8).find? (fun k => s.slotState u k == 0)

/-- The bytes of a slot header (Table 11-10). -/
def headerBytes (st u k q : Nat) (a b c gclr : Bool) (shard turn recVA line2 : Nat) : List Byte :=
  let bit := fun (x : Bool) (n : Nat) => if x then 2 ^ n else 0
  let w := st + 2 ^ 2 * u + 2 ^ 6 * k + 2 ^ 9 * q + bit a 13 + bit b 14 + bit c 15 + bit gclr 16 + 2 ^ 32 * (shard % 2 ^ 32) +
    2 ^ 64 * (turn % 2 ^ 64) + 2 ^ 128 * (recVA % 2 ^ 64) + 2 ^ 512 * line2
  let body := toBytes w 254
  body ++ toBytes (crc16 0xFFFF body) 2

/-- Opens a slot for a shard and writes its regions (R251, R255, R256): region A, B and C data where there are any. -/
def openSlot (s : State) (o : Op) (u k shard : Nat) (gclr : Bool) (ra rb rc : Option (List Byte)) (fl nf cycles : Nat)
    (poison : Bool) : State :=
  let base := s.slotBase o.q u k
  let put := fun (s : State) (i : Nat) (r : Option (List Byte)) => match r with
    | some d => s.scratchWrite o.q (base + regionOff i) d
    | none => s
  let s1 := put (put (put s 0 ra) 1 rb) 2 rc
  let s2 := s1.scratchWrite o.q base (headerBytes 1 u k o.q ra.isSome rb.isSome rc.isSome gclr shard 0 (uuRec o.raw) 0)
  let s3 := { s2.setSlot u k 1 o.q with uuSlots := s2.uuSlots ++ [(u, k, o.id, shard + 1)] }
  let w : WorkUnit := ⟨0, shard, k, nf, [], true, s.now + cycles, s.now + cycles, [], fl,
    [(if ra.isSome then 1 else 0, if gclr then 1 else 0), (if rb.isSome then 1 else 0, if rc.isSome then 1 else 0)], 0, 0, false, false, poison⟩
  (s3.setOp { o with rowRun := shard + 1, units := o.units ++ [w] }).unitBusy u cycles

/-- EV_UU_JOURNAL_FULL (R26): a unit waits for a free journal slot, or no longer. -/
def journalWait (s : State) (u q : Nat) (on : Bool) : State := s.span .jrnlSince (16 * u + q) on evUuJournalFull q u

/-- The next shard of an ACCUM (R242, R243). Log entry 30, DEDUCED. -/
def accumShard (s : State) (o : Op) (r u k : Nat) : State :=
  let d := o.raw
  let c := unitClient o.q u o.tag (some o.id)
  let sh := o.rowRun
  let n := min 16384 (trN r - 16384 * sh)
  let es := if uuSrcFmt d = 0 then 2 else 4
  match s.homeRead c u (trG r + 65536 * sh) 65536 with
  | (s, .error _) => s
  | (s, .ok none) => s.unitFail o stMisplaced
  | (s, .ok (some (g, bad1))) =>
    match s.vread c (uuData d + es * 16384 * sh) (es * n) with
    | (s, .error _) => s
    | (s, .ok (src, bad2)) =>
      let sv := ofBytes src
      let outs := (List.range 16384).map (fun i =>
        let old := bitsOf g (32 * i) 32
        if i < n then
          let x := bitsOf sv (8 * es * i) (8 * es)
          Fl.add (Fl.of old) (Fl.of (if es = 2 then wide16 x else x))
        else Fl.of old)
      let nf := ((outs.take n).filter (fun x => notFinite x.1)).length
      if bad1 || bad2 then s.unitFail o stPoisonedData
      else s.openSlot o u k sh false (some (outs.flatMap (fun x => toBytes x.1 4))) none none
        (outs.foldl (fun (f : Nat) (x : Fl) => f ||| x.2) 0) nf 256 false

/-- The next shard of an UPDATE's apply pass, or of a clear-only UPDATE (R251 to R253). -/
def applyShard (s : State) (o : Op) (r u k : Nat) : State :=
  let c := unitClient o.q u o.tag (some o.id)
  let sh := o.rowRun
  if !trApply r then
    match s.inHome c u (trG r + 65536 * sh) 65536 true with
    | (s, .error _) => s
    | (s, .ok false) => s.unitFail o stMisplaced
    | (s, .ok true) => s.openSlot o u k sh true none none none 0 0 16 false
  else
    let vec := trMode r == 1 && !trMatrix r
    let par := (trStep r + 1) % 2
    match s.homeRead c u (trW r + 65536 * sh) 65536 with
    | (s, .error _) => s
    | (s, .ok none) => s.unitFail o stMisplaced
    | (s, .ok (some (w, b1))) =>
      match s.homeRead c u (trM r + 32768 * sh) 32768 with
      | (s, .error _) => s
      | (s, .ok none) => s.unitFail o stMisplaced
      | (s, .ok (some (m, b2))) =>
        match s.homeRead c u (trG r + 65536 * sh) 65536 with
        | (s, .error _) => s
        | (s, .ok none) => s.unitFail o stMisplaced
        | (s, .ok (some (g, b3))) =>
          let (s, v) := if vec then s.homeRead c u (trV r + 65536 * sh) 65536 else (s, .ok (some (0, false)))
          match v with
          | .error _ => s
          | .ok none => s.unitFail o stMisplaced
          | .ok (some (v, b4)) =>
            let x0 := 16384 * sh
            let mat := trMode r == 1 && trMatrix r
            let i0 := x0 / trCols r
            let i1 := (x0 + 16383) / trCols r
            let iN := min (i1 + 1) (trRows r)
            let (s, rf) := if mat then s.homeRead c u (rfAddr r par + 4 * i0) (4 * (iN - i0)) else (s, .ok (some (0, false)))
            match rf with
            | .error _ => s
            | .ok none => s.unitFail o stMisplaced
            | .ok (some (rf, b5)) =>
              let (s, cf) := if mat then s.homeRead c u (cfAddr r par) (4 * trCols r) else (s, .ok (some (0, false)))
              match cf with
              | .error _ => s
              | .ok none => s.unitFail o stMisplaced
              | .ok (some (cf, b6)) =>
                match s.vread c (trSched r) 256 with
                | (s, .error _) => s
                | (s, .ok (t, b7)) =>
                  let lr := schedRate (ofBytes t) ((trStep r + 1) % 2 ^ 32)
                  let lrwd := Fl.mul lr (Fl.of (trWd r))
                  -- the elements past N have no row factor: a free value (R253; log entry 17, DESIGN CHOICE)
                  let (fv, s) := s.fresh
                  let rowFactor := fun e =>
                    if (x0 + e) / trCols r < trRows r then bitsOf rf (32 * ((x0 + e) / trCols r - i0)) 32
                    else Config.openValue (16384 * fv + e) % 2 ^ 32
                  let outs := (List.range 16384).map (fun e =>
                    applyElem r (lr.1, 0) (lrwd.1, 0) (bitsOf w (32 * e) 32) (bitsOf m (16 * e) 16) (bitsOf g (32 * e) 32)
                      (bitsOf v (32 * e) 32) (rowFactor e)
                      (bitsOf cf (32 * ((x0 + e) % trCols r)) 32))
                  if b1 || b2 || b3 || b4 || b5 || b6 || b7 then s.unitFail o stPoisonedData
                  else
                    s.openSlot o u k sh true (some (outs.flatMap (fun e => toBytes e.1 4)))
                      (some (outs.flatMap (fun e => toBytes e.2.1 2)))
                      (if vec then some (outs.flatMap (fun e => toBytes e.2.2.1 4)) else none)
                      (outs.foldl (fun (f : Nat) (e : Nat × Nat × Nat × Nat) => f ||| e.2.2.2) lrwd.2) 0 256 false

/-- The next row of the factor pass, or its end (R250). -/
def factorRow (s : State) (o : Op) (r u : Nat) : State :=
  let x := UnitOp.ofOp o
  let c := unitClient o.q u o.tag (some o.id)
  let cols := trCols r
  let n := (trStep r + 1) % 2
  let old := trStep r % 2
  let col := ((o.actB.headD []).headD [])
  let col := if col.isEmpty then List.replicate cols 0 else col
  if o.rowRun < trRows r then
    let i := o.rowRun
    match s.homeRead c u (trG r + 4 * i * cols) (4 * cols) with
    | (s, .error _) => s
    | (s, .ok none) => s.unitFail o stMisplaced
    | (s, .ok (some (g, b1))) =>
      match s.homeRead c u (rfAddr r old + 4 * i) 4 with
      | (s, .error _) => s
      | (s, .ok none) => s.unitFail o stMisplaced
      | (s, .ok (some (rf, b2))) =>
        let qs := (List.range cols).map (fun j => squaredGrad (trEps r) (clippedGrad (trE r) (trClip r) (bitsOf g (32 * j) 32)))
        let lanes := (List.range 64).map (fun l =>
          (List.range (cdiv (cols - l) 64)).foldl (fun (a : Fl) (k : Nat) => Fl.add a (qs.getD (64 * k + l) (0, 0))) (0, 0))
        let colN := (List.range cols).map (fun j => Fl.add (Fl.of (col.getD j 0)) (qs.getD j (0, 0)))
        let row := (pairwise 6 lanes).headD (0, 0)
        let rf' := Fl.add (Fl.mul (Fl.of (trB2 r)) (Fl.of rf)) (Fl.mul (Fl.of (trB2C r)) (Fl.mul row (Fl.of (trInvCols r))))
        let sumr := Fl.add (Fl.of x.sumr) rf'
        if b1 || b2 then s.unitFail o stPoisonedData
        else match s.homeWrite c u (rfAddr r n + 4 * i) (toBytes rf'.1 4) with
          | (s, .error _) => s
          | (s, .ok false) => s.unitFail o stMisplaced
          | (s, .ok true) =>
            let fl := colN.foldl (fun (f : Nat) (e : Fl) => f ||| e.2) sumr.2
            let o := { ({ x with sumr := sumr.1 } : UnitOp).put o with
              rowRun := i + 1, actB := [[colN.map (·.1)]], flags := o.flags ||| fl }
            ((s.setOp o).mergeFlags o.q fl).unitBusy u (cdiv cols 64 + 2)
  else
    match s.homeRead c u (cfAddr r old) (4 * cols) with
    | (s, .error _) => s
    | (s, .ok none) => s.unitFail o stMisplaced
    | (s, .ok (some (cf, b1))) =>
      let new := (List.range cols).map (fun j =>
        Fl.add (Fl.mul (Fl.of (trB2 r)) (Fl.of (bitsOf cf (32 * j) 32)))
          (Fl.mul (Fl.of (trB2C r)) (Fl.mul (Fl.of (col.getD j 0)) (Fl.of (trInvRows r)))))
      let sqs := Fl.un sqrt32 (Fl.of x.sumr)
      if b1 then s.unitFail o stPoisonedData
      else match s.homeWrite c u (cfAddr r n) (new.flatMap (fun e => toBytes e.1 4)) with
        | (s, .error _) => s
        | (s, .ok false) => s.unitFail o stMisplaced
        | (s, .ok true) =>
          match s.putLine c (uuRec o.raw) (progressLine (trStep r) (trAcc r) (trLast r) (trHold r) 0 x.sumr sqs.1 (trClip r) 2
              (trApply r) (trE r)) with
          | (s, .error _) => s
          | (s, .ok _) =>
            let fl := new.foldl (fun (f : Nat) (e : Fl) => f ||| e.2) sqs.2
            ((s.setOp { o with rowRun := 0, nBlock := 2, actB := [], flags := o.flags ||| fl }).mergeFlags o.q fl).unitBusy u (cdiv cols 64 + 32)

/-- The 320 bytes of a NORM's result area (R244). -/
def normArea (lanes : List Nat) (sumsq nf cursor : Nat) (done : Bool) : List Byte :=
  lanes.flatMap (fun x => toBytes x 4) ++
    toBytes (sumsq + 2 ^ 32 * (nf % 2 ^ 32) + 2 ^ 64 * (cursor % 2 ^ 32) + (if done then 2 ^ 96 else 0)) 64

/-- The next shard of a NORM, and its end after the last (R244). -/
def normShard (s : State) (o : Op) (r u : Nat) : State :=
  let x := UnitOp.ofOp o
  let c := unitClient o.q u o.tag (some o.id)
  let sh := o.rowRun
  if sh < trShards r then
    let n := min 16384 (trN r - 16384 * sh)
    match s.homeRead c u (trG r + 65536 * sh) (4 * n) with
    | (s, .error _) => s
    | (s, .ok none) => s.unitFail o stMisplaced
    | (s, .ok (some (g, bad))) =>
      if bad then s.unitFail o stPoisonedData
      else
        let gs := (List.range n).map (fun i => Fl.mul (Fl.of (bitsOf g (32 * i) 32)) (Fl.of (pow2f (-(o.lossE : Int)))))
        let lanes := (List.range 64).map (fun l =>
          (List.range (cdiv (n - l) 64)).foldl (fun (a : Fl) (k : Nat) =>
            let e := gs.getD (64 * k + l) (0, 0)
            Fl.fma e e a) (Fl.of (x.lanes.getD l 0)))
        let fl := lanes.foldl (fun (f : Nat) (e : Fl) => f ||| e.2) 0
        let nf := ((List.range n).filter (fun i => notFinite (bitsOf g (32 * i) 32))).length
        let o := { ({ x with nf := x.nf + nf, lanes := lanes.map (·.1) } : UnitOp).put o with rowRun := sh + 1, flags := o.flags ||| fl }
        ((s.setOp o).mergeFlags o.q fl).unitBusy u 256
  else
    let sum := (pairwise 6 (x.lanes.map Fl.of)).headD (0, 0)
    match s.vwrite c (uuData o.raw) (normArea x.lanes sum.1 x.nf sh true) with
    | (s, .error _) => s
    | (s, .ok _) =>
      ((((s.setOp { o with flags := o.flags ||| sum.2, phase := .ended, status := some stSuccess }).mergeFlags o.q sum.2).bump .UU_Q_NF_NF
        o.q x.nf)).syncUnit u

/-- A unit's step on its operation of kind `op` (R237, R254, R260): the start of its head, or, once it has computed the last, the next shard or row of
what it runs; it has waited `wait` cycles for data. -/
def unitStep (s : State) (u op wait : Nat) : State :=
  if s.cycS ≤ s.pos then s
  else match s.unitRuns u with
  | some o =>
    let d := o.raw
    if uuOp d ≠ op ∨ s.isStalled o.id ∨ s.h .halted o.q = 1 ∨ s.now < s.h .uuFree u then s
    else
      let s := s.ev evUuInWait o.q u wait
      match s.readRec (unitClient o.q u o.tag (some o.id)) (uuRec d) with
      | (s, .error _) => s
      | (s, .ok (r, bad)) =>
        if bad then s.unitFail o stPoisonedData
        else if op = 1 then s.normShard o r u
        else if o.nBlock = 1 then s.factorRow o r u
        else if trShards r ≤ o.rowRun then s
        else match s.freeSlot u with
          | none => s.journalWait u o.q true
          | some k =>
            let s := s.journalWait u o.q false
            if op = 0 then s.accumShard o r u k else s.applyShard o r u k
  | none =>
    match s.unitHead u with
    | some o =>
      if uuOp o.raw ≠ op ∨ s.isStalled o.id then s
      else if s.waitBroken o then s.unitFail o stBarrierBroken
      else if !s.barOpen o ∨ !s.claimFull o then s
      else s.unitStart { o with claimOk := true, barOk := true }
    | none => s

/-- The last slot of an operation whose every shard has committed has retired (R398). -/
def unitDone (s : State) (id : Nat) : State :=
  match s.op? id with
  | some o =>
    if o.kind = 0x30 ∧ (o.phase = .ended ∨ o.phase = .members) ∧ o.status.isNone ∧ !s.uuSlots.any (fun e => e.2.2.1 == id) then
      s.setOp { o with phase := .ended, status := some stSuccess }
    else s
  | none => s

/-- Frees slot `k` of unit `u`. -/
def freeUp (s : State) (u k : Nat) : State :=
  { s.setSlot u k 0 0 with uuSlots := s.uuSlots.filter (fun e => !(e.1 == u && e.2.1 == k)) }

/-- Retires a COMMITTED slot (R257): true when every write was made. -/
def retireSlot (s : State) (u k id : Nat) : State × Bool :=
  let q := s.slotQ u k
  let base := s.slotBase q u k
  let hd := ofBytes (s.scratchRead q base 256).1
  let recVA := bitsOf hd 128 64
  let sh := bitsOf hd 32 32
  let c := retireClient q u
  let region := fun i n => (s.scratchRead q (base + regionOff i) n).1
  match s.readRec c recVA with
  | (s, .error _) => (s, false)
  | (s, .ok (r, _)) =>
    let gclr := bitsOf hd 16 1 == 1
    let ws : List VWrite :=
      (if bitsOf hd 15 1 = 1 then [⟨trV r + 65536 * sh, region 2 65536⟩] else []) ++
      (if bitsOf hd 14 1 = 1 then [⟨trM r + 32768 * sh, region 1 32768⟩] else []) ++
      (if bitsOf hd 13 1 = 1 then [⟨(if gclr then trW r else trG r) + 65536 * sh, region 0 65536⟩] else []) ++
      (if gclr then [⟨trG r + 65536 * sh, List.replicate 65536 0⟩] else []) ++
      [⟨recVA + 128, toBytes (bitsOf hd 512 512) 64⟩]
    match s.vwrites c ws with
    | (s, .error _) => (s, false)
    | (s, .ok _) =>
      let s1 := s.scratchWrite q base (toBytes (hd / 4 * 4) 256)
      ((s1.freeUp u k).unitDone id, true)

/-- A slot freed because its header fails its check, or its fault is aborted (R257, R258). -/
def dropBad (s : State) (u k id : Nat) : State :=
  let q := s.slotQ u k
  let base := s.slotBase q u k
  let hd := ofBytes (s.scratchRead q base 256).1
  let s1 := s.scratchWrite q base (toBytes (hd / 4 * 4) 256)
  (((s1.freeUp u k).mark .UU_STAT_JBAD u).mcLog 5 q (2 ^ 28 * u + 2 ^ 24 * k)).unitDone id

/-- ABORT_FAULT resolves the fault of a unit's retire (R257): its oldest slot is freed, with JBAD. -/
def abortRetire (s : State) (u : Nat) : State :=
  match s.uuSlots.find? (fun e => e.1 == u) with
  | some (_, k, id, _) => if s.slotState u k = 2 then s.dropBad u k id else s
  | none => s

/-- Settling at cycle 0 (R258): OPEN slots discarded, COMMITTED ones retired again or freed. -/
def settleUnits (s : State) : State :=
  let s := s.uuSlots.foldl (fun (s : State) (e : Nat × Nat × Nat × Nat) =>
    let (u, k, id, _) := e
    let q := s.slotQ u k
    let hd := (s.scratchRead q (s.slotBase q u k) 256).1
    if s.slotState u k = 1 then
      ((s.scratchWrite q (s.slotBase q u k) (toBytes (ofBytes hd / 4 * 4) 256)).freeUp u k).mark .UU_STAT_DROP u
    else if ofBytes (hd.drop 254) = crc16 0xFFFF (hd.take 254) then
      if s.retireStalled u then s else
      let (s1, ok) := s.retireSlot u k id
      if ok then s1.mark .UU_STAT_REPLAY u else s1
    else s.dropBad u k id) s
  { s with ops := s.ops.map (fun o => if o.kind = 0x30 then { o with units := [] } else o) }

/-- After a reset a unit rebuilds its slots' states from the headers of every quarter whose journal is enabled (R258), in the order of their commits: by TURN,
and in a turn by SHARD (R256, R257). -/
def rebuildSlots (s : State) : State :=
  let found := ((List.range s.nQ).filter (fun q => s.flag .UU_Q_JRNL_EN q)).flatMap (fun q => (List.range 16).flatMap (fun u =>
    (List.range 8).filterMap (fun k =>
      let hd := ofBytes (s.scratchRead q (s.slotBase q u k) 256).1
      let st := bitsOf hd 0 2
      if st = 1 ∨ st = 2 then some (st, bitsOf hd 64 64, q, u, k, bitsOf hd 32 32) else none)))
  let before := fun (x y : Nat × Nat × Nat × Nat × Nat × Nat) =>
    decide (x.2.1 < y.2.1) || (x.2.1 == y.2.1 && decide (x.2.2.2.2.2 ≤ y.2.2.2.2.2))
  (found.mergeSort before).foldl (fun (s : State) (x : Nat × Nat × Nat × Nat × Nat × Nat) =>
    let (st, _, q, u, k, sh) := x
    { s.setSlot u k st q with uuSlots := s.uuSlots ++ [(u, k, 0, sh + 1)] }) s

/-- What an update-unit operation writes when it parks (R244, R259, R260). -/
def unitPark (s : State) (o : Op) : State :=
  let x := UnitOp.ofOp o
  let c := unitClient o.q x.unit o.tag none
  let d := o.raw
  if x.claimed = 0 then s
  else if uuOp d = 1 then (s.vwrite c (uuData d) (normArea x.lanes 0 x.nf o.rowRun false)).1
  else if uuOp d = 2 ∧ o.nBlock = 1 then
    match s.readRec c (uuRec d) with
    | (s, .error _) => s
    | (s, .ok (r, _)) =>
      let col := ((o.actB.headD []).headD [])
      match s.vwrite c (partAddr r) (toBytes (o.rowRun % 2 ^ 32 + 2 ^ 32 * (uuSeq d)) 64 ++ col.flatMap (fun v => toBytes v 4)) with
      | (s, .error _) => s
      | (s, .ok _) =>
        (s.putLine c (uuRec d) (progressLine (trStep r) (trAcc r) (trLast r) (trHold r) o.rowRun x.sumr (trSqs r) (trClip r) 1
          (trApply r) (trE r))).1
  else s

/-- The verdict (R245) with STEP `n` and SKIP `skip`; false where it is refused. -/
def giveVerdict (s : State) (q n : Nat) (skip : Bool) : State × Bool :=
  let clip := s.rd .UU_Q_CLIP_CLIP q
  let good := match dec32 clip with
    | .fin neg m _ => !neg && m != 0
    | _ => false
  if n ≠ s.rd .UU_STEP_EXPECT_STEP q ∨ !good then (s.mark .UU_Q_KEEP_VREFUSED q, false)
  else
    let bad := s.rd .UU_Q_NF_NF q != 0
    let apply := !skip && !(s.flag .UU_Q_KEEP_HW q && bad)
    let e := s.rd .UU_Q_KEEP_E q
    let s1 := ((s.wr .UU_Q_KEEP_E_STEP q e).wr .UU_Q_VERDICT_STEP q n).wr .UU_Q_VERDICT_CLIP q clip
    let s2 := if apply then
        let clean := s1.rd .UU_Q_KEEP_CLEAN q + 1
        let s2 := s1.wr .UU_STEP_EXPECT_STEP q (n + 1)
        if s2.rd .UU_Q_KEEP_INTERVAL q ≤ clean then (s2.wr .UU_Q_KEEP_E q (min (e + 1) 24)).wr .UU_Q_KEEP_CLEAN q 0
        else s2.wr .UU_Q_KEEP_CLEAN q clean
      else (s1.wr .UU_Q_KEEP_E q (e - 1)).wr .UU_Q_KEEP_CLEAN q 0
    let s3 := (s2.wr .UU_Q_KEEP_APPLY q (if apply then 1 else 0)).wr .UU_Q_KEEP_BAD q (if bad then 1 else 0)
    ((s3.wr .UU_Q_NF_NF q 0).wr .UU_STEP_EXPECT_VSEQ q (s3.rd .UU_STEP_EXPECT_VSEQ q + 1), true)

end State

/-- ACCUM (R242): unit `u` starts the ACCUM at the head of its queue, or does its next shard. -/
def execAccum (u t wait : Nat) (s : State) : Host.Outcome State Fault Refusal := .next ((s.goTo t).unitStep u 0 wait)

/-- NORM (R244). -/
def execNorm (u t wait : Nat) (s : State) : Host.Outcome State Fault Refusal := .next ((s.goTo t).unitStep u 1 wait)

/-- UPDATE (R246, R250 to R253). -/
def execUpdate (u t wait : Nat) (s : State) : Host.Outcome State Fault Refusal := .next ((s.goTo t).unitStep u 2 wait)

/-- SHARD_COMMIT (R242, R243, R251, R252, R256): the oldest OPEN slot of a unit commits with the new progress line; flags and NF
counts are merged. A halt lets the shard in hand commit (R326). -/
def execShardCommit (u t : Nat) (s : State) : Host.Outcome State Fault Refusal :=
  let s := s.goTo t
  match s.uuSlots.find? (fun e => e.1 == u && s.slotState u e.2.1 == 1) with
  | none => .next s
  | some (_, k, id, sh1) =>
    match s.op? id with
    | none => .next s
    | some o =>
      match o.units with
      | [] => .next s
      | w :: rest =>
        if s.now < w.endAt then .next s
        else
          match s.readRec (State.unitClient o.q u o.tag (some id)) (uuRec o.raw) with
          | (s, .error _) => .next s
          | (s, .ok (r, _)) =>
            let lastShard := decide (trShards r ≤ sh1)
            let line := if uuOp o.raw = 0 then
                progressLine (trStep r) (if lastShard then trAcc r + 1 else trAcc r) (trLast r) (trHold r) sh1 (trSumr r) (trSqs r)
                  (trClip r) (if lastShard then 0 else 3) (trApply r) (trE r)
              else
                progressLine (if lastShard ∧ trApply r then trStep r + 1 else trStep r) (if lastShard then 0 else trAcc r)
                  (if lastShard then trHold r else trLast r) (trHold r) sh1 (trSumr r) (trSqs r) (trClip r)
                  (if lastShard then 0 else 2) (trApply r) (trE r)
            let has := fun i j => match w.hist[i]? with
              | some e => (if j = 0 then e.1 else e.2) == 1
              | none => false
            let s1 := s.scratchWrite o.q (s.slotBase o.q u k)
              (State.headerBytes 2 u k o.q (has 0 0) (has 1 0) (has 1 1) (has 0 1) w.rowRun (s.rd .TURN_COUNT_COUNT 0) (uuRec o.raw) line)
            let s2 := (((s1.setSlot u k 2 o.q).mergeFlags o.q w.flags).bump .UU_Q_NF_NF o.q w.kChunk).bump .UU_STAT_SHARDS u 1
            let o := { o with units := rest, flags := o.flags ||| w.flags, phase := if lastShard then .ended else o.phase }
            .next ((s2.setOp o).syncUnit u)

/-- SLOT_RETIRE (R257, R260, R398): before D the oldest slot of a unit, when COMMITTED, is written to its home and freed. -/
def execSlotRetire (u t : Nat) (s : State) : Host.Outcome State Fault Refusal :=
  let s := s.goTo t
  match s.uuSlots.find? (fun e => e.1 == u) with
  | none => .next s
  | some (_, k, id, _) =>
    if s.slotState u k = 2 ∧ !s.retireStalled u ∧ s.pos < s.cycD then .next (s.retireSlot u k id).1 else .next s

end Sys2Proof.Machine
end

