-- ==== Sys2Proof/Machine/Service.lean ====
section
/-! DEFINITION. Signed objects (R365, R366), the coverage of the firmware triple (R330), service levels (R341, R342), the quarter halt (R326,
R327), units that leave service (R334, R335) and image selects (R331). -/

namespace Sys2Proof.Machine

/-- Fields of a signed object (Table 17-1). -/
def objAt (b : List Byte) (o n : Nat) : Nat := ofBytes ((b.drop o).take n)
def objType (b : List Byte) : Nat := objAt b 1 1
def objKey (b : List Byte) : Nat := objAt b 2 1
def objSvn (b : List Byte) : Nat := objAt b 3 1
def objSerial (b : List Byte) : Nat := objAt b 8 8
def objVersion (b : List Byte) : Nat := objAt b 16 4
def objNonce (b : List Byte) : Nat := objAt b 20 32
def objScope (b : List Byte) : Nat := objAt b 52 4
def objBody (b : List Byte) : List Byte := b.drop 320

/-- Table 17-1: the header's fixed values and zeros. -/
def objForm (b : List Byte) : Bool :=
  let ty := objType b
  decide (320 ≤ b.length) && decide (b.length = 320 + objAt b 4 4) && objAt b 0 1 == 1 && decide (1 ≤ ty ∧ ty ≤ 6) &&
    decide (objKey b < 4) && decide (objSvn b < 64) && (decide (ty ≤ 2) || objSvn b == 0) &&
    (!(ty == 4 || ty == 5) || objSerial b != 0) && (decide (ty ≤ 3) || objVersion b == 0) && (ty == 5 || objNonce b == 0) &&
    (if ty = 5 ∨ ty = 6 then decide (objScope b < 16) else objScope b == 0) &&
    objAt b 56 8 == 0 && objAt b 161 31 == 0 && objAt b 288 32 == 0

/-- Entries of Table 17-1's use in `State.objs`. -/
def objCfw : Nat := 0
def objMfw : Nat := 2
def objManifest : Nat := 4
def objPolicy : Nat := 5
def objToken : Nat := 6
def objManifestUse : Nat := 7
def objPolicyUse : Nat := 8

/-- What a body says (log entry 32, DESIGN CHOICE): a triple and its protocol range, as one number: HW_REV [7:0], CFW_VER [31:8], MFW_VER [55:32], lowest protocol
[71:56], highest [87:72]. -/
def tripleNo (cfw mfw : Nat) : Nat := 0xA1 + 2 ^ 8 * (cfw % 2 ^ 24) + 2 ^ 32 * (mfw % 2 ^ 24)

namespace State

def obj (s : State) (k : Nat) : List Byte := match s.objs.find? (fun e => e.1 == k) with
  | some e => e.2
  | none => if k < 5 then Config.factoryObject k else []

def setObj (s : State) (k : Nat) (b : List Byte) : State :=
  { s with objs := s.objs.filter (fun e => e.1 != k) ++ [(k, b)] }

/-- The fused minimum security version of an image type (R366): TYPE 1 MFW, 2 CFW. -/
def svnMin (s : State) (ty : Nat) : Nat := s.rd (if ty = 1 then .SEC_STAT_SVN_MIN_MFW else .SEC_STAT_SVN_MIN_CFW) 0

/-- R366: whether an object is authentic where TYPE `ty` is expected. -/
def authentic (s : State) (ty : Nat) (b : List Byte) : Bool :=
  let pub := (b.drop 64).take 97
  objForm b && objType b == ty &&
    Config.sigValid (ofBytes pub) (b.take 192 ++ objBody b) ((b.drop 192).take 96) &&
    Config.sha384 pub == Config.rootDigest (objKey b) && bitsOf (s.rd .SEC_STAT_REVOKED 0) (objKey b) 1 == 0 &&
    (objSerial b == 0 || objSerial b == s.rd .SEC_SERIAL_SERIAL 0) && (decide (2 < ty) || decide (s.svnMin ty ≤ objSvn b))

/-- The protocol range, lowest and highest, that covers a triple, and whether the override policy alone covers it (R330). -/
def coverage (s : State) (cfw mfw : Nat) : Option (Bool × Nat × Nat) :=
  let want := tripleNo cfw mfw
  let man := s.obj objManifestUse
  let pol := s.obj objPolicyUse
  let hit := if man.isEmpty then none else
    ((List.range (min 256 (Config.bodyTriple (objBody man) 256))).map (fun i => Config.bodyTriple (objBody man) i)).find?
      (fun t => t % 2 ^ 56 == want)
  match hit with
  | some t => some (false, bitsOf t 56 16, bitsOf t 72 16)
  | none =>
    let t := Config.bodyTriple (objBody pol) 0
    if !pol.isEmpty && t % 2 ^ 56 == want && objSerial pol == s.rd .SEC_SERIAL_SERIAL 0 then
      some (true, bitsOf t 56 16, bitsOf t 72 16)
    else none

/-- Coverage of the active triple. -/
def covered (s : State) : Option (Bool × Nat × Nat) := s.coverage (s.rd .FW_STATE_CFW_VER 0) (s.rd .FW_STATE_MFW_VER 0)

/-- SERVICE of FW_STATE from the coverage of the active triple (R329, R330). -/
def serviceOf (s : State) : Nat := match s.covered with
  | some (false, _) => 0
  | some (true, _) => 2
  | none => 1

/-- Whether a unit of class `cls` (1 stream engine, 2 expander, 3 packer, 4 update unit, 5 bank engine) is out of service (Tables 15-6 to
15-8). -/
def unitIsOut (s : State) (cls u i : Nat) : Bool :=
  match cls with
  | 1 => bitsOf (s.h .outSe u) i 1 == 1
  | 2 => bitsOf (s.h .outExp u) i 1 == 1
  | 3 => bitsOf (s.h .outPack u) i 1 == 1
  | 4 => s.h .outUu u == 1
  | _ => bitsOf (s.h .outBank u) i 1 == 1

/-- Whether a unit of a class exists at `u` (stacks 0 to 11, bays from 12; Tables 15-6 to 15-8). Log entry 68, DESIGN CHOICE. -/
def unitExists (s : State) (cls u i : Nat) : Bool :=
  let stack := decide (u < s.nStacks)
  let bay := decide (12 ≤ u) && decide (u < 12 + s.nBays)
  match cls with
  | 1 => (stack || bay) && decide (i < 4)
  | 2 => (stack && decide (i < 64)) || (bay && decide (i < 16))
  | 3 => (stack && decide (i < 32)) || (bay && decide (i < 8))
  | 4 => (stack || bay) && i == 0
  | 5 => stack && decide (i < 64)
  | _ => false

/-- Sets a bit of a register field. -/
def orBit (s : State) (f : Fld) (u i : Nat) : State := s.wr f u (s.rd f u ||| 2 ^ i)

/-- A unit that failed its tests is to leave service (R334, R335): its bit, UNIT_OUT and the management log. -/
def removeUnit (s : State) (cls u i : Nat) : State :=
  if s.unitIsOut cls u i ∨ s.unitExists cls u i = false then s
  else
    let s1 := match cls with
      | 1 => s.orBit .RES_OUT_MISC_SE u i
      | 2 => s.orBit .RES_OUT_EXP_EXP u i
      | 3 => s.orBit .RES_OUT_MISC_PACK u i
      | 4 => s.wr .RES_OUT_MISC_UU u 1
      | _ => s.orBit .RES_OUT_BANK_BANK u i
    (s1.mark .RES_STAT_UNIT_OUT 0).mcLog 7 15 (2 ^ 28 * u + 2 ^ 24 * cls + i)

/-- Whether all slots of update unit `u` are FREE. -/
def unitIdle (s : State) (u : Nat) : Bool := (List.range 8).all (fun k => s.slotState u k == 0)

/-- The out-of-service registers take effect (R14, R17, R335): a bank engine drops its commands, an update unit waits until its slots are FREE, a stream
engine's requests go to the next engine from then on. -/
def applyOuts (s : State) : State :=
  (List.range 16).foldl (fun (s : State) (u : Nat) =>
    let gone := (List.range 64).filter (fun p => bitsOf (s.rd .RES_OUT_BANK_BANK u) p 1 == 1 && bitsOf (s.h .outBank u) p 1 == 0)
    let s1 := if u < s.nStacks then gone.foldl (fun (s : State) (p : Nat) => s.dropCmds u p 64) s else s
    let s2 := (((s1.setH .outSe u (s.rd .RES_OUT_MISC_SE u)).setH .outExp u (s.rd .RES_OUT_EXP_EXP u)).setH .outPack u
      (s.rd .RES_OUT_MISC_PACK u)).setH .outBank u (s.rd .RES_OUT_BANK_BANK u)
    if s.rd .RES_OUT_MISC_UU u = 1 ∧ s.unitIdle u = false then s2 else s2.setH .outUu u (s.rd .RES_OUT_MISC_UU u)) s

/-- The removals of a turn end (R334, R335): an update unit waits until its slots are FREE. -/
def removeUnits (s : State) : State :=
  let s1 := s.leaving.foldl (fun (s : State) (e : Nat × Nat × Nat) =>
    if e.1 = 4 then s.setH .uuLeaving e.2.1 1 else s.removeUnit e.1 e.2.1 e.2.2) { s with leaving := [] }
  (List.range 16).foldl (fun (s : State) (u : Nat) =>
    if s.h .uuLeaving u = 1 ∧ s.unitIdle u then (s.setH .uuLeaving u 0).removeUnit 4 u 0 else s) s1 |>.applyOuts

/-- R341: whether one strip, one stack with a stream engine, and a CP pair are in service. -/
def computing (s : State) : Bool :=
  s.h .cpUp 0 != 0 && (List.range s.nStrips).any (fun k => s.rd .GRID_STRIP_STATE_STATE k != 3) &&
    (List.range s.nStacks).any (fun k => (s.rd .STK_STAT_STATE k == 1 || s.rd .STK_STAT_STATE k == 2) &&
      decide (s.h .outSe k < 15))

/-- R341: whether every fitted unit is in service. -/
def allUnits (s : State) : Bool :=
  s.h .cpUp 0 == 3 && (List.range s.nStrips).all (fun k => s.rd .GRID_STRIP_STATE_STATE k != 3) &&
    (List.range s.nStacks).all (fun k => s.rd .STK_STAT_STATE k == 1) &&
    (List.range s.nBays).all (fun d => s.rd .CRT_STAT_STATE d == 3 || s.rd .CRT_STAT_STATE d == 0) &&
    (List.range 16).all (fun u => s.h .outExp u == 0 && s.h .outBank u == 0 && s.h .outSe u == 0 && s.h .outPack u == 0 && s.h .outUu u == 0)

/-- The highest service level whose working set is in service (R341, R342). Log entry 70, DEDUCED. -/
def levelOf (s : State) : Nat :=
  if s.h .planes 0 = 0 ∨ ¬ (s.flag .PT_LINK_STAT_UP 0 ∨ s.flag .PT_LINK_STAT_UP 1) then 0
  else if s.covered.isNone ∨ ¬ s.computing then 1
  else if s.allUnits then 3 else 2

/-- HALT of a quarter (R326). -/
def haltQuarter (s : State) (q : Nat) (dispose : Bool) : State :=
  let s1 := (s.setH .halted q 1).mark .MB_STAT_HALTED q
  if dispose then s1.setH .dispose q 1 else s1

def haltAll (s : State) : State := (List.range s.nQ).foldl (fun (s : State) (q : Nat) => s.haltQuarter q false) s

/-- R342: LEVEL at the end of a reset and at every turn end; a fall from 2 or 3 halts every quarter. -/
def setLevel (s : State) : State :=
  let old := s.rd .RES_STAT_LEVEL 0
  let new := s.levelOf
  let s1 := s.wr .RES_STAT_LEVEL 0 new
  if 2 ≤ old ∧ new < 2 then s1.haltAll else s1

/-- R329: pages serve restricted service only: the active triple is not covered, or LEVEL is 1 (Table 15-5). Log entry 34, DEDUCED. -/
def restricted (s : State) : Bool := s.rd .FW_STATE_SERVICE 0 == 1 || s.rd .RES_STAT_LEVEL 0 == 1

/-- Problems of a group header (Table 4-6). -/
def grCountOf (d : Nat) : Nat := bitsOf d 8 12 + 1

/-- The end of every operation of `q` with a status, members before their groups and plans (R327); an update-unit operation
whose every shard has committed completes by itself (R398). -/
def endAll (s : State) (q status : Nat) : State :=
  let leafIds := (s.ops.filter (fun o => o.q == q && o.phase != .members && o.kind != 0x02)).map (·.id)
  let s1 := leafIds.foldl (fun (s : State) (id : Nat) => s.finish id status) s
  let unread := fun (o : Op) => if o.kind = 0x02 then grCountOf o.raw - o.issued else if o.kind = 0x03 then o.left else 0
  let s2 := { s1 with ops := s1.ops.map (fun (o : Op) => if o.q = q ∧ (o.kind = 0x02 ∨ o.kind = 0x03) then
    { o with failed := o.failed + unread o, lowBad := if unread o = 0 then o.lowBad else some (o.lowBad.getD (o.issued, status)) } else o) }
  let rest := (s2.ops.filter (fun o => o.q == q && o.kind != 0x30)).map (·.id)
  rest.foldl (fun (s : State) (id : Nat) => s.finish id status) s2

/-- DISPOSE at the first turn end after the halt (R327). -/
def disposeQuarter (s : State) (q : Nat) : State :=
  if s.h .dispose q = 1 then ((s.endAll q stHalted).setH .dispose q 0).syncBlanks q else s

/-- RELEASE at cycle 0 (R327). -/
def releaseQuarter (s : State) (q : Nat) : State :=
  if s.h .releaseStaged q = 1 then
    (((s.setH .releaseStaged q 0).setH .halted q 0).setH .dispose q 0).wr .MB_STAT_HALTED q 0
  else s

/-- Every open SPDM session ends when a measurement changes (R371). -/
def newMeasurement (s : State) : State := (List.range 3).foldl (fun (s : State) (t : Nat) => s.setH .spdm t 0) s

/-- HANDSHAKE of every page clears (R331). -/
def clearHandshakes (s : State) : State := (List.range 14).foldl (fun (s : State) (p : Nat) => s.wr .MB_STAT_HANDSHAKE p 0) s

/-- The highest protocol major that covers the active triple. -/
def protoMajor (s : State) : Nat := match s.covered with
  | some (_, _, hi) => hi / 256
  | none => 0

/-- Change 7 of Table 2-6 (R331, R373): staged image selects are applied. -/
def applySelects (s : State) : State :=
  let c := s.h .selStaged 0
  let m := s.h .selStaged 1
  if c = 0 ∧ m = 0 then s
  else
    let old := s.protoMajor
    let s1 := if c = 0 then s else
      let img := s.obj (objCfw + (c - 1))
      let s1 := (((s.wr .FW_STATE_CFW_SLOT 0 (c - 1)).wr .FW_STATE_CFW_VER 0 (objVersion img)).wr .SEC_STAT_SVN_CFW 0 (objSvn img)).setH
        .nvSel 0 (c - 1)
      ((s1.wr .FW_STATE_CP_PAIR 0 (1 - s1.rd .FW_STATE_CP_PAIR 0)).setH .spareImg 0 c).mark .RES_STAT_CP_SPARE 0
    let s2 := if m = 0 then s1 else
      let img := s1.obj (objMfw + (m - 1))
      (((s1.wr .FW_STATE_MFW_SLOT 0 (m - 1)).wr .FW_STATE_MFW_VER 0 (objVersion img)).wr .SEC_STAT_SVN_MFW 0 (objSvn img)).setH
        .nvSel 1 (m - 1)
    let s3 := (((s2.setH .selStaged 0 0).setH .selStaged 1 0).wr .FW_STATE_SWAP_PEND 0 0).newMeasurement
    let s4 := s3.wr .FW_STATE_SERVICE 0 s3.serviceOf
    if c ≠ 0 ∧ s4.protoMajor ≠ old then s4.clearHandshakes else s4

/-- R330: restricted service ends at the turn end after a load has made the active triple covered. -/
def endRestricted (s : State) : State :=
  if s.h .svcEnd 0 = 1 then (s.setH .svcEnd 0 0).wr .FW_STATE_SERVICE 0 s.serviceOf else s

/-- The CP pair not serving. -/
def sparePair (s : State) : Nat := 1 - s.rd .FW_STATE_CP_PAIR 0

/-- Whether the spare pair is in service. -/
def spareUp (s : State) : Bool := bitsOf (s.h .cpUp 0) s.sparePair 1 == 1

end State

end Sys2Proof.Machine
end

