-- ==== Sys2Proof/Machine/Admission.lean ====
section
/-! DEFINITION. Admission (R33 to R35): the heads of a quarter's queues, their validation (R90, Table 4-7), the problems of a group (R89), the
hand-over of update-unit operations (R237) and the decision itself. -/

namespace Sys2Proof.Machine

/-- Fields of a group header (Table 4-6). -/
def grProb (d : Nat) : Nat := bitsOf d 64 64
/-- The conditions of Table 4-7 on a group header. -/
def groupInvalid (d : Nat) : Bool :=
  bitsOf d 20 44 != 0 || bitsOf d 128 384 != 0 || decide (2 ^ 52 ≤ grProb d) || grProb d % 128 != 0

/-- An operation as it is submitted. -/
def Op.fresh (id q page source tag raw descVA : Nat) : Op where
  id := id
  q := q
  page := page
  source := source
  notify := false
  tag := tag
  problem := 0
  group := none
  plan := none
  sig := none
  wait := none
  bind := none
  raw := raw
  descVA := descVA
  phase := .queued
  estCycles := (estOf raw).1
  estTokens := (estOf raw).2.1
  slice := 0
  charge := 0
  rowRun := 0
  nBlock := 0
  kChunk := 0
  spilled := false
  degraded := false
  flags := 0
  noProgress := 0
  overrun := false
  parkTurn := 0
  spillBytes := 0
  record := none
  blank := none
  startAt := 0
  preKey := none
  preDone := false
  preEnd := 0
  preFlags := 0
  prePoison := false
  actKey := none
  swaps := 0
  preB := []
  actB := []
  replica := false
  repEntry := 0
  units := []
  lastEnd := 0
  lossE := 0
  slotNo := 0
  aux := []
  status := none
  res0 := 0
  failed := 0
  lowBad := none
  left := 0
  issued := 0
  stalled := false
  entries := []
  needs := []
  unitNo := 0
  nextAt := 0
  claimOk := false
  barOk := false
  relAt := 0
  admitNo := 0
  passed := 0
  again := 0

namespace State

/-- A number for a new operation (log entry 18, DESIGN CHOICE). -/
def newId (s : State) : Nat × State := (s.h .nextId 0, s.addH .nextId 0 1)

/-- R203: the binding of an operation names a ring that the module holds, and a claim that does not cover slots SLOTS − 1 and 0 together. -/
def bindBad (s : State) (o : Op) : Bool :=
  match o.bind with
  | none => false
  | some (b, n) =>
    let i := bufIdx o.q b
    match s.bufSlots o.q b with
    | none => true
    | some slots =>
      let at_ := (s.rd .SE_BUF_PTR_HEAD i + s.rd .SE_BUF_PTR_CLAIMED i) % slots
      s.flag .SE_BUF_CFG_KIND i || n == 0 || decide (slots < at_ + n)

/-- The claim that admission makes (R203): for a problem the claim of its group, once. -/
def claim (s : State) (o : Op) : State :=
  let owner := match o.group with
    | some (g, _) => g
    | none => o.id
  match o.bind with
  | none => s
  | some (b, n) =>
    if s.claims.any (fun c => c.op == owner) then s
    else
      let i := bufIdx o.q b
      { s with claims := s.claims ++ [(⟨o.q, b, owner, n, false⟩ : Claim)] }.wr .SE_BUF_PTR_CLAIMED i (s.rd .SE_BUF_PTR_CLAIMED i + n)

/-- The first operation of `q` in a queue. -/
def headOf (s : State) (q : Nat) (l : List Nat) : Option Op :=
  l.findSome? (fun id => match s.op? id with
    | some o => if o.q = q then some o else none
    | none => none)

/-- The next problem of group `g`, which stands at the head of the submit queue (R89): its descriptor is read and it goes before the
rest of the group. Answers the problem, unless it has completed. -/
def issueProblem (s : State) (g : Op) : State × Option Op :=
  let d := g.raw
  let i := g.issued
  let (s, r) := s.vread (schedClient g) (grProb d + 128 * i) 128
  if accessWaits r then (s, none) else
  let (id, s) := s.newId
  let raw := match r with
    | .ok (b, _) => ofBytes b
    | .error _ => 0
  let p := { Op.fresh id g.q g.page g.source g.tag raw (grProb d + 128 * i) with
    problem := i, group := some (g.id, i), wait := g.wait, bind := g.bind }
  let last := decide (State.grCountOf d ≤ i + 1)
  let s := s.setOp { g with
    issued := i + 1, left := if i = 0 then State.grCountOf d else g.left, phase := if last then .members else .queued }
  let s := { s with ops := s.ops ++ [p], submitQ := s.submitQ.flatMap (fun x => if x = g.id then (if last then [id] else [id, x]) else [x]) }
  match r with
  | .error _ => (s.finish id stPageFault, none)
  | .ok (_, true) => (s.finish id stPoisonedData, none)
  | .ok (_, false) => if p.kind ≠ 0x01 then (s.finish id stInvalidDescriptor, none) else (s, some p)

/-- What stands at the head of the quarter's queues (R33, R49): the operation, and whether it is new. Log entry 64, DEDUCED. -/
def admissionHead (s : State) (q : Nat) : State × Option (Op × Bool) :=
  match s.headOf q s.resumeQ with
  | some o => (s, some (o, false))
  | none =>
    match s.headOf q s.submitQ with
    | none => (s, none)
    | some o =>
      if o.kind ≠ 0x02 then (s, some (o, true))
      else if groupInvalid o.raw ∨ (o.issued = 0 ∧ s.bindBad o) then (s.finish o.id stInvalidDescriptor, none)
      else
        match s.issueProblem o with
        | (s, some p) => (s, some (p, true))
        | (s, none) => (s, none)

/-- R35. -/
def estBad (s : State) (o : Op) : Option Nat :=
  let (_, _, chunk) := estOf o.raw
  if o.estCycles = 0 ∨ chunk = 0 then some stInvalidDescriptor
  else if (if o.span then chunk else o.estCycles) > s.cycS then some stEstimateTooLong
  else none

/-- The hand-over of an update-unit operation (R237): the unit that its tensor record names, or a status. -/
def handOver (s : State) (o : Op) : State × Except Nat Nat :=
  match s.vread (schedClient o) (uuRec o.raw) 64 with
  | (s, .error e) => (s, .error (accessStatus e))
  | (s, .ok (_, true)) => (s, .error stPoisonedData)
  | (s, .ok (b, false)) =>
    let u := trUnit (ofBytes b)
    (s, if s.unitFit u then .ok u else .error stInvalidTarget)

/-- The validation of a new operation (Table 4-7 and the rules of the chapters): the status with which it completes. -/
def invalid (s : State) (o : Op) : Option Nat :=
  let d := o.raw
  let bad := match o.kind with
    | 0x01 => matrixInvalid d
    | 0x10 => s.streamInvalid o.q d
    | 0x20 => moveInvalid d
    | 0x30 => uuInvalid d
    | 0x40 => s.fabricInvalid o.q d
    | _ => true
  if bad then some stInvalidDescriptor
  else match s.estBad o with
    | some st => some st
    | none =>
      if o.kind = 0x01 ∧ s.blankLegal o.q (blankRows o) (blankCols o) (drainRows o) = false then some stBlankTooLarge
      else if o.kind = 0x30 ∧ uuOp d = 2 ∧ !diffLe (uuSeq d) (s.rd .UU_STEP_EXPECT_VSEQ o.q) then some stStepMismatch
      else if o.kind = 0x30 ∧ !s.journalOk o.q then some stMisplaced
      else if o.group.isNone ∧ s.bindBad o then some stInvalidDescriptor
      else none

/-- The lowest operation slot of a quarter that no executing operation holds. -/
def freeSlotNo (s : State) (q : Nat) : Nat :=
  let used := (s.ops.filter (fun o => o.q == q && holdsSlot o)).map (·.slotNo)
  ((List.range 257).find? (fun i => !used.contains i)).getD 256

/-- An operation leaves its queue and starts (R33, R71, R200, R237): blank operations go to the allocator at the present cycle + 2, update-unit
operations to unit `u`. -/
def admitOp (s : State) (o : Op) (new : Bool) (u slice charge : Nat) : State :=
  let q := o.q
  let s := if new then s.claim o else s
  let s := (s.wr .TOK_Q_STAT_FREE q (s.rd .TOK_Q_STAT_FREE q - charge)).addH .charged q charge
  let o := { o with
    slice := slice, charge := charge, slotNo := s.freeSlotNo q, lossE := if new then s.rd .UU_Q_KEEP_E q else o.lossE,
    phase := .placing, startAt := s.now + 2, stalled := false, admitNo := s.h .admits 0, passed := 0 }
  let s := s.addH .admits 0 1
  let s := { s with submitQ := s.submitQ.filter (· != o.id), resumeQ := s.resumeQ.filter (· != o.id) }
  match o.kind with
  | 0x01 =>
    let s1 := { s with allocQ := s.allocQ ++ [o.id] }.setOp { o with
      aux := [o.rowRun, o.nBlock, o.kChunk, if o.spilled then 1 else 0, o.spillBytes] }
    (if (s.allocHead q).isNone then s1.startAlloc q (s.now + 2) else s1).syncBlanks q
  | 0x10 => s.setOp (startStream o (s.now + 2))
  | 0x20 => s.setOp { o with phase := .running, aux := [] }
  | 0x30 =>
    let o1 := if new then latchUnit s o u else
      { UnitOp.ofOp o with unit := u, claimed := 0, sumr := 0, nf := 0, lanes := [] : UnitOp }.put o
    ({ s with allocQ := s.allocQ ++ [o.id] }.setOp o1).syncUnit u
  | _ => s.setOp o

/-- The step operand entries of a matrix operation (R92, Table 4-9), read by the turn scheduler at its admission decision: a status where one cannot be
read or breaks the rule. Log entry 92, DESIGN CHOICE. -/
def readOpnds (s : State) (o : Op) : List Nat → State × Except Nat (List Nat)
  | [] => (s, .ok [])
  | slot :: slots =>
    let st := mStep o.raw slot
    let (s, r) : State × Except Nat Nat :=
      if !needsEntry st then (s, .ok 0)
      else match s.vread (schedClient o) (mOpnd o.raw + 16 * slot) 16 with
        | (s, .error e) => (s, .error (accessStatus e))
        | (s, .ok (_, true)) => (s, .error stPoisonedData)
        | (s, .ok (b, false)) => (s, if entryOk st (ofBytes b) then .ok (ofBytes b) else .error stInvalidDescriptor)
    match r with
    | .error st => (s, .error st)
    | .ok e =>
      match readOpnds s o slots with
      | (s, .error st) => (s, .error st)
      | (s, .ok es) => (s, .ok (e :: es))

/-- The entries of a new matrix operation whose descriptor is otherwise valid (Table 4-7). -/
def withEntries (s : State) (o : Op) (new : Bool) : State × Except Nat Op :=
  if new ∧ o.kind = 0x01 ∧ matrixInvalid o.raw = false then
    match s.readOpnds o (List.range 8) with
    | (s, .error st) => (s, .error st)
    | (s, .ok es) => (s, .ok { o with entries := es })
  else (s, .ok o)

/-- The decision on the operation at the head (R33). At the bound of 256 the scheduler is stalled up to its next decision, two cycles on (R26). -/
def decideOn (s : State) (o : Op) (new : Bool) : State :=
  let q := o.q
  if s.executing q ≥ 256 then s.ev evOpsFull q 0 2
  else if new ∧ s.parkedCount q ≥ 768 then s.ev evParkHigh q 0 1
  else
    match s.withEntries o new with
    | (s, .error st) => s.finishWith o.id st
    | (s, .ok o) =>
    match if new then s.invalid o else s.estBad o with
    | some st => s.finish o.id st
    | none =>
      let (s, unit) : State × Except Nat Nat := if o.kind = 0x30 then s.handOver o else (s, .ok 0)
      match unit with
      | .error st => s.finishWith o.id st
      | .ok u =>
        let left := s.cycS - s.pos
        let (_, _, chunk) := estOf o.raw
        let need := if o.span then chunk else o.estCycles
        let slice := min o.estCycles left
        let charge := (o.estTokens * slice + o.estCycles - 1) / o.estCycles
        if left < need ∨ s.rd .TOK_Q_STAT_FREE q < charge then s.ev evAdmitWait q 0 1
        else s.admitOp o new u slice charge

/-- One admission decision of `q` in the present cycle. -/
def admission (s : State) (q : Nat) : State :=
  if s.cycS ≤ s.pos ∨ s.h .halted q = 1 ∨ s.pos < s.h .decideAt q ∨ s.nQ ≤ q then s
  else
    let s := s.setH .decideAt q (s.pos + 2)
    if !s.flag .TURN_Q_PARK_EN q then s.ev evAdmitWait q 0 1
    else
      match s.admissionHead q with
      | (s, none) => s
      | (s, some (o, new)) => s.decideOn o new

end State

/-- ADMISSION_DECISION (R33 to R35, R44, R89, R90, R237): at most one decision of a quarter in two cycles, none from S on or while it is
halted. -/
def execAdmissionDecision (q t : Nat) (s : State) : Host.Outcome State Fault Refusal := .next ((s.goTo t).admission q)

end Sys2Proof.Machine
end

