-- ==== Sys2Proof/Machine/Instruments.lean ====
section
/-! DEFINITION. Register values as read, snapshots, turn-mark dumps and port bandwidth (chapter 16). -/

namespace Sys2Proof.Machine

/-- Number of registers that the dimensions of a header line give, counted as on the LT1200. -/
def dimSize (ds : List (Nat × Nat × Nat)) : Nat := (ds.map (fun (d : Nat × Nat × Nat) => d.2.1)).prod

/-- Indices and offsets of the registers of a header line. -/
def dimOffs (lt09 : Bool) : List (Nat × Nat × Nat) → List (Nat × Nat)
  | [] => [(0, 0)]
  | (st, n12, n09) :: ds =>
    (List.range (if lt09 then n09 else n12)).flatMap (fun i =>
      (dimOffs lt09 ds).map (fun (e : Nat × Nat) => (i * dimSize ds + e.1, i * st + e.2)))

/-- The index of the register at byte `o` past the base of a header line, where one lies there. -/
def dimIndex (lt09 : Bool) : List (Nat × Nat × Nat) → Nat → Option Nat
  | [], o => if o = 0 then some 0 else none
  | (st, n12, n09) :: ds, o =>
    if o / st < (if lt09 then n09 else n12) then (dimIndex lt09 ds (o % st)).map (fun j => o / st * dimSize ds + j) else none

/-- Whether the `i`-th register of a kind exists (R2, R4): on an LT0960 not one of a stack, bay or quarter that it has not. -/
def regThere (lt09 : Bool) (r : Reg) (i : Nat) : Bool :=
  !lt09 || (match r with
    | .RES_OUT_EXP | .RES_OUT_BANK | .RES_OUT_MISC | .EXP_STAT | .EXP_DMG_LOG | .UU_STAT | .UU_SLOTS =>
      decide (i < 9) || (decide (12 ≤ i) && decide (i < 15))
    | .PT_RID => decide (i % 13 < 9) || i % 13 == 12
    | .FN_ERR | .FN_ERR_CNT => decide (i < 9) || decide (12 ≤ i)
    | _ => true)

/-- The registers of a kind in the block of base `b`: index and offset. The mailbox pages of the quarters are one block, and each page of the PF is one
(log entry 102, DEDUCED). -/
def regOffs (lt09 : Bool) (b : Nat) (r : Reg) : List (Nat × Nat) :=
  if r.info.page then
    (if b = 0 then (List.range (if lt09 then 9 else 12)).map (fun p => (p, 0x1000 * p))
     else if r = .MB_URG_DB ∧ b ≠ 0x2000000 then [] else [(12 + (b - 0x2000000) / 0x10000, 0)])
  else (dimOffs lt09 r.info.dims).filter (fun (e : Nat × Nat) => regThere lt09 r e.1)

/-- The sixteen mailbox pages of the model: 0 to 11 the quarters, 12 and 13 the PF's. -/
def nPages : Nat := 14

namespace State

/-- Fields that hold no value of their own: what they show now. -/
def liveFld (s : State) (f : Fld) (i : Nat) : Option Nat :=
  match f with
  | .TURN_POS_PHASE => some (if s.pos < s.cycS then 0 else if s.pos < s.cycW 0 then 1 else 2)
  | .TURN_POS_MARK => some (s.pos * 8 / s.len)
  | .TURN_POS_CYCLE => some s.pos
  | .TURN_BAL_ERR_ANY => some (if s.balAny then 1 else 0)
  | .GRID_MAP_DATA_VALID =>
    let st := s.strip (s.rd .GRID_MAP_ADDR_STRIP 0)
    let k := s.rd .GRID_MAP_ADDR_INDEX 0
    some (if s.rd .GRID_MAP_ADDR_TABLE 0 = 0 then (if Tab.get 64 k st.alleys = 64 then 0 else 1)
      else if k < min st.retired.length 16 then 1 else 0)
  | .GRID_MAP_DATA_VALUE =>
    let st := s.strip (s.rd .GRID_MAP_ADDR_STRIP 0)
    let k := s.rd .GRID_MAP_ADDR_INDEX 0
    some (if s.rd .GRID_MAP_ADDR_TABLE 0 = 0 then (if Tab.get 64 k st.alleys = 64 then 0 else Tab.get 64 k st.alleys)
      else if k < 16 then st.retired.getD k 0 else 0)
  | .MMU_FQ_PTR_FULL => some (if s.fqFull i then 1 else 0)
  | .MB_STAT_CQ_WAIT => some (min (s.cqWait.filter (fun e => e.1 == i)).length 65535)
  | .CRT_BF_DATA_VALID => some (s.rd .CRT_BF_DATA_VALID (1024 * i + s.rd .CRT_BF_IDX_INDEX i))
  | .CRT_BF_DATA_FRAME => some (s.rd .CRT_BF_DATA_FRAME (1024 * i + s.rd .CRT_BF_IDX_INDEX i))
  | .STK_STAT_TEMP => some (Config.sensor 0 i (s.now + 2 ^ 64 * s.h .resets 0) % 256)
  | .CRT_STAT_TEMP => some (Config.sensor 1 i (s.now + 2 ^ 64 * s.h .resets 0) % 256)
  | _ => none

/-- The value a field shows. -/
def shown (s : State) (f : Fld) (i : Nat) : Nat := (s.liveFld f i).getD (s.rd f i)

/-- The value of the `i`-th register of its kind (R7): each field at its place, reserved bits zero (R10). -/
def regVal (s : State) (r : Reg) (i : Nat) : Nat :=
  r.fields.foldl (fun (acc : Nat) (f : Fld) => acc + 2 ^ f.info.lo * s.shown f i) 0

end State

/-- The registers of a mailbox page. -/
def mailRegs : List Reg := [.MB_SQ_CFG, .MB_CQ_CFG, .MB_SQ_DB, .MB_CQ_DB, .MB_STAT, .MB_URG_DB]

/-- The blocks of the data and control planes with their registers, by their lowest offset (R349). Log entry 102, DEDUCED. -/
def snapBlocks : List (Nat × List Reg) :=
  [(0x20000, [.TURN_LEN, .TURN_COUNT, .TURN_POS, .TOK_BUDGET, .TOK_FIXED, .TOK_Q_SHARE, .TOK_Q_STAT, .TOK_Q_CARRY, .TURN_Q_PARK,
     .TURN_BAL_ERR, .TURN_BAL_WHERE]),
   (0x40000, [.GRID_GEOM, .GRID_STRIP_STATE, .GRID_Q_STRIPS, .GRID_Q_STAT, .GRID_MAP_ADDR, .GRID_MAP_DATA, .GRID_FENCE_STAT,
     .GRID_FENCE_REQ]),
   (0x50000, [.MX_WIT_STAT, .MX_WIT_LOG0, .MX_WIT_LOG1, .NUM_FLAGS]),
   (0x70000, [.MEM_EXT, .MEM_LOT, .PLZ_Q_CFG, .MEM_DL_CFG, .MEM_DEG_STAT, .MEM_RETIRE, .MEM_ENC_STAT]),
   (0x70008, [.MMU_ROOT, .MMU_FQ_BASE, .MMU_FQ_PTR, .MMU_LEDGER, .MMU_HOST_WIN]),
   (0x80000, [.STK_STAT, .STK_RETIRE, .STK_UE_LOG, .STK_PC_ERR]),
   (0x90000, [.CRT_BF_IDX, .CRT_BF_DATA, .CRT_STAT, .CRT_CTRL, .CRT_ERR, .CRT_UE_LOG]),
   (0xA0000, [.CB_SLOT, .PK_Q_STAT, .EXP_STAT, .EXP_DMG_LOG]),
   (0xB0000, [.SE_CFG, .SE_Q_TAGS, .SE_STAT, .SE_BUF_CFG, .SE_BUF_PTR, .SE_BUF_GEOM, .SE_BAR]),
   (0xC0000, [.BANK_CFG, .BANK_STAT, .BANK_ENERGY]),
   (0xD0000, [.UU_STEP_EXPECT, .UU_Q_KEEP, .UU_Q_VERDICT, .UU_Q_CLIP, .UU_Q_NF, .UU_Q_VCMD, .UU_Q_JRNL]),
   (0xD1000, [.UU_STAT, .UU_SLOTS]),
   (0x100000, [.FW_STATE]),
   (0x120000, [.PT_Q_CFG, .PT_PF_WIN, .PT_REJ_LOG, .PT_RID, .PT_LINK_STAT, .PT_ERR_CNT, .PT_LINK_CFG, .PT_BW_CFG, .PT_BW_RX,
     .PT_BW_TX]),
   (0x130000, [.CORE_CTRL]),
   (0x140000, [.FE_MOD_ID, .FE_Q_CFG, .FE_Q_LOG, .FE_Q_RT, .FE_Q_ERR, .FE_Q_DOWN]),
   (0x140010, [.FE_CFG, .FE_STAT]),
   (0x1000000, [.GH_BIN, .GH_SPECIAL, .GH_CTRL]),
   (0, mailRegs), (0x2000000, mailRegs), (0x2010000, mailRegs)]

/-- The registers of a block in ascending offset order: offset, register, index. -/
def blockRegs (lt09 : Bool) (b : Nat) (rs : List Reg) : List (Nat × Reg × Nat) :=
  (rs.flatMap (fun (r : Reg) => (regOffs lt09 b r).map (fun (e : Nat × Nat) => (r.info.off + e.2, r, e.1)))).mergeSort
    (fun a b => decide (a.1 ≤ b.1))

/-- Length in bytes of a block's record. -/
def blockLen (lt09 : Bool) (b : Nat) (rs : List Reg) : Nat :=
  (rs.map (fun (r : Reg) => (regOffs lt09 b r).length * (r.info.bits / 8))).sum

namespace State

/-- The image of a snapshot as state: the registers as they stood at the latch. -/
def ofSnap (s : State) (p : Snap) : State :=
  { s with regs := p.regs, strips := p.strips, fenced := p.fenced, suspects := p.suspects }

/-- Writes what the live fields show into the register table, so that a copy of it stands for itself. -/
def freeze (s : State) : State :=
  let one := fun (f : Fld) (t : State) (i : Nat) => match s.liveFld f i with
    | some v => t.wr f i v
    | none => t
  let s1 := [Fld.TURN_POS_PHASE, .TURN_POS_MARK, .TURN_POS_CYCLE, .TURN_BAL_ERR_ANY, .GRID_MAP_DATA_VALID,
    .GRID_MAP_DATA_VALUE].foldl (fun (t : State) (f : Fld) => one f t 0) s
  let s2 := (List.range 12).foldl (one .MMU_FQ_PTR_FULL) s1
  let s3 := (List.range 12).foldl (one .STK_STAT_TEMP) s2
  let s4 := (List.range 4).foldl (one .CRT_STAT_TEMP) s3
  let s5 := (List.range 14).foldl (one .MB_STAT_CQ_WAIT) s4
  (List.range 4).foldl (fun (t : State) (d : Nat) => one .CRT_BF_DATA_FRAME (one .CRT_BF_DATA_VALID t d) d) s5

/-- Cycles after cycle 0 of a work unit at which the tile at row `i`, column `j` of a blank handles its first step (Table 4-2). -/
def stepOffset (r i j : Nat) : Nat := if i + 1 = r then r + j + 5 else if r ≤ i then r + j + 6 + (i - r) else i + j + 6

/-- The work unit in hand at the tile at row `i`, column `j` in cycle `now`, with the step it handles (Table 4-2, R87). -/
def unitAt (o : Op) (now i j : Nat) : Option (WorkUnit × Nat) :=
  o.units.findSome? (fun u =>
    let p : UnitPos := ⟨u.rowRun, u.nBlock, u.kChunk⟩
    let first := u.endAt - (p.steps o.raw + 1) + stepOffset (mR o.raw) i j
    if first ≤ now ∧ now ≤ first + p.steps o.raw then some (u, now - first) else none)

/-- MASK of the tile at row `i`, column `j` in n-block `nb` of a residency (R70). -/
def maskAt (d : Nat) (p : UnitPos) (nb i j : Nat) : Bool :=
  (decide (i + 1 < mR d) && decide ((if mFp32 d then p.kq d else (p.kq d + 1) / 2) ≤ i)) ||
    (decide (j + 1 < mC d) && decide (mN d ≤ nb * mCols d + j))

/-- What a tile of a blank shows beside its place (Table 16-1): MASK, HALF, FLAGS, STEP, WORD. FLAGS, and STEP and WORD of a tile that handles no step
of a work unit, are free values, and so is the half that the first preload fills (log entry 31, DESIGN CHOICE). -/
def tileWork (o : Op) (now free i j : Nat) : Nat :=
  let d := o.raw
  let half := (o.swaps + bitsOf free 15 1) % 2
  let at_ := unitAt o now i j
  let p : UnitPos := match at_ with
    | some (u, _) => ⟨u.rowRun, u.nBlock, u.kChunk⟩
    | none => ⟨o.rowRun, o.nBlock, o.kChunk⟩
  let word := match at_ with
    | some (_, t) => if t < p.steps d then t % p.nbs d else bitsOf free 40 8
    | none => bitsOf free 40 8
  let nb := match at_ with
    | some (_, t) => if t < p.steps d then p.nBlock + t % p.nbs d else p.nBlock
    | none => p.nBlock
  let step := match at_ with
    | some (_, t) => t % 2 ^ 13
    | none => bitsOf free 24 13
  (if maskAt d p nb i j then 2 ^ 9 else 0) + 2 ^ 15 * half + 2 ^ 16 * bitsOf free 16 5 + 2 ^ 24 * step + 2 ^ 40 * word

/-- The tile record of physical tile (x, y) of an image (Table 16-1). QUARTER of a tile that no quarter holds is a free value (log entry 31, DESIGN
CHOICE). -/
def tileRecord (s : State) (p : Snap) (x y : Nat) : Nat :=
  let t := s.ofSnap p
  let st := t.strip (x / 65)
  let free := Config.tileBits p.seq (2048 * y + x)
  let u := x % 65
  let bit := fun (b : Bool) (k : Nat) => if b then 2 ^ k else 0
  let fenced := p.fenced.contains (x, y)
  let retired := match t.holder (x / 65) with
    | some q => (t.retiredSet q).contains y
    | none => st.retired.contains y
  let base := bit fenced 4 + bit (p.suspects.any (fun (e : Suspect) => e.x == x && e.y == y)) 5 +
    bit (fenced || Tab.get 64 y st.alleys == u) 11 + bit (fenced || retired) 12
  match t.holder (x / 65) with
  | none => base + free % 16
  | some q =>
    let blank := match t.logTile q x y with
      | none => none
      | some (col, row) => p.blanks.findSome? (fun (e : Op × Bool) => match e.1.blank with
          | some b => if e.1.q = q ∧ 8 * b.left ≤ col ∧ col < 8 * b.left + mC e.1.raw ∧ 8 * b.top ≤ row ∧
              row < 8 * b.top + mR e.1.raw + mDrain e.1.raw then some (e, 8 * b.left, 8 * b.top, col - 8 * b.left, row - 8 * b.top) else none
          | none => none)
    match blank with
    | none => base + q
    | some ((o, frozen), col0, row0, j, i) =>
      let r := mR o.raw
      let c := mC o.raw
      let role := if r ≤ i then 3 else if i + 1 = r then 2 else if j + 1 = c then 1 else 0
      base + q + 64 + 128 * role + bit frozen 10 + bit (t.trimS q col0 row0 c j i) 13 + bit (t.trimA q col0 row0 (r + mDrain o.raw) j i) 14 +
        tileWork o p.at_ free i j

/-- Bytes of the tile records of an image. -/
def tileArea (s : State) : Nat := 8 * s.nCols * 1040

/-- Where the records of the blocks begin (R352), block by block: base, image offset, length, registers. -/
def blockPlaces (s : State) : Nat → List (Nat × List Reg) → List (Nat × Nat × Nat × List Reg)
  | _, [] => []
  | o, (b, rs) :: rest => (b, o, blockLen s.lt09 b rs, rs) :: s.blockPlaces (o + blockLen s.lt09 b rs) rest

def imagePlaces (s : State) : List (Nat × Nat × Nat × List Reg) := s.blockPlaces (4096 + s.tileArea) snapBlocks

/-- The size of an image in bytes. -/
def imageSize (s : State) : Nat :=
  4096 + s.tileArea + (snapBlocks.map (fun (b : Nat × List Reg) => blockLen s.lt09 b.1 b.2)).sum

/-- Bytes `lo` to `lo + n − 1` of the image (R352). -/
def imageBytes (s : State) (p : Snap) (lo n : Nat) : List Byte :=
  let dir := s.imagePlaces
  let hdr := p.seq % 2 ^ 32 + 2 ^ 32 * s.imageSize + 2 ^ 64 * (p.turn % 2 ^ 64) + 2 ^ 128 * (p.pos % 2 ^ 24) +
    2 ^ 152 * (p.src % 4)
  let recs := dir.map (fun (e : Nat × Nat × Nat × List Reg) => (e.2.1, e.2.2.1,
    if lo < e.2.1 + e.2.2.1 ∧ e.2.1 < lo + n then
      (blockRegs s.lt09 e.1 e.2.2.2).flatMap (fun (x : Nat × Reg × Nat) =>
        toBytes (x.2.1.fields.foldl (fun (acc : Nat) (f : Fld) =>
          acc + 2 ^ f.info.lo * (s.ofSnap p).rd f x.2.2) 0) (x.2.1.info.bits / 8))
    else []))
  (List.range n).map (fun i =>
    let a := lo + i
    if a < 64 then (toBytes hdr 64).getD a 0
    else if a < 4096 then
      match dir[(a - 64) / 16]? with
      | some (b, o, l, _) => (toBytes (b % 2 ^ 26 + 2 ^ 32 * o + 2 ^ 64 * l) 16).getD ((a - 64) % 16) 0
      | none => 0
    else if a < 4096 + s.tileArea then
      let k := (a - 4096) / 8
      (toBytes (s.tileRecord p (k % s.nCols) (k / s.nCols)) 8).getD (a % 8) 0
    else
      match recs.find? (fun (e : Nat × Nat × List Byte) => decide (e.1 ≤ a) && decide (a < e.1 + e.2.1)) with
      | some (o, _, bs) => bs.getD (a - o) 0
      | none => 0)

/-- A trigger (R351): taken only when ARM is 1 and no shift-out is in progress; else counted in MISSED. The registers are those before any update of
the cycle (R353). -/
def latch (s : State) (src : Nat) : State :=
  if s.rd .SNAP_CFG_ARM 0 = 0 ∨ s.rd .SNAP_STAT_BUSY 0 = 1 then s.bump .SNAP_STAT_MISSED 0 1
  else
    let seq := (s.rd .SNAP_STAT_SEQ 0 + 1) % 2 ^ 32
    let f := { s with regs := s.regs0 }.freeze
    let p : Snap := ⟨seq, s.rd .TURN_COUNT_COUNT 0, s.pos, src, f.regs, s.strips, s.fenced, s.suspects,
      s.now, (s.ops.filter (fun (o : Op) => o.blank.isSome)).map (fun (o : Op) => (o, s.frozen o))⟩
    let s1 : State := { s with snap := some p }
    let s2 := ((s1.wr .SNAP_STAT_SEQ 0 seq).wr .SNAP_STAT_BUSY 0 1).wr .SNAP_STAT_VALID 0 0
    if s.rd .SNAP_CFG_REPEAT 0 = 1 then s2 else s2.wr .SNAP_CFG_ARM 0 0

/-- Whether event EVENT of SNAP_CFG has been asserted by an instance that matches its filter (R350). -/
def snapEvent (s : State) : Bool :=
  s.hid.any (fun (e : Nat × Nat) =>
    let key := e.1 / 512
    e.1 % 512 == Hid.evLast.ctorIdx && decide (e.2 ≠ 0) && key / 4096 / 16 == s.rd .SNAP_CFG_EVENT 0 &&
      (s.rd .SNAP_CFG_QUARTER 0 == 15 || key / 4096 % 16 == s.rd .SNAP_CFG_QUARTER 0))

/-- The dump of the 64 counters at turn mark `m` (R359). -/
def dump (s : State) (m : Nat) : State :=
  if s.rd .PMC_DUMP_CFG_EN 0 = 0 ∨ (8 * s.rd .TURN_COUNT_COUNT 0 + m) % 2 ^ s.rd .PMC_DUMP_CFG_PERIOD 0 ≠ 0 then s
  else
    let seq := s.h .dumpSeq 0
    let s1 := s.setH .dumpSeq 0 ((seq + 1) % 2 ^ 32)
    if s.flag .PT_LINK_STAT_UP (s.rd .PMC_DUMP_CFG_PORT 0) then
      let hdr := seq + 2 ^ 64 * (s.rd .TURN_COUNT_COUNT 0 % 2 ^ 64) + 2 ^ 128 * m
      let bytes := toBytes hdr 64 ++ (List.range 64).flatMap (fun i => toBytes (s.regVal .PMC_VAL i) 8)
      s1.setBytes 3 0 (s.rd .PMC_DUMP_BASE_BASE 0 * 64 + 576 * (seq % 2 ^ s.rd .PMC_DUMP_CFG_LOG2 0)) bytes
    else s1.bump .PMC_DUMP_CFG_LOST 0 1

end State

/-- SHIFT_OUT_COMPLETE (R352). -/
def execShiftOutComplete (s : State) : Host.Outcome State Fault Refusal :=
  if s.flag .SNAP_STAT_BUSY 0 then .next ((s.wr .SNAP_STAT_BUSY 0 0).wr .SNAP_STAT_VALID 0 1) else .next s

/-- BW_WINDOW_END (R360): a window that began after the last write of PT_BW_CFG ends. -/
def execBwWindowEnd (port rx tx : Nat) (s : State) : Host.Outcome State Fault Refusal :=
  if port ≥ 2 then .next s
  else
    let w := 2 ^ s.rd .PT_BW_CFG_WIN_LOG2 port
    if s.now / w * w < s.h .bwFrom port + w ∧ s.h .bwFrom port ≠ 0 then .next s
    else
      let put := fun (fb fr : Fld) (n : Nat) (t : State) => (t.wr fb port n).wr fr port (n * 1000 / w)
      .next (put .PT_BW_TX_BYTES .PT_BW_TX_RATE tx (put .PT_BW_RX_BYTES .PT_BW_RX_RATE rx s))

end Sys2Proof.Machine
end

