-- ==== Sys2Proof/Machine/Turn.lean ====
section
/-! DEFINITION. The sweep (R40 to R46), the boundary window (R50), the balance of the books (R53 to R55, R399), the application of staged
configuration (Table 2-6), keys (R374), the token budget (R36, R386 to R388) and the rebuild of the resume queues (R49). -/

namespace Sys2Proof.Machine

/-- The number that names a pool in TURN_BAL_ERR (R54). -/
def poolCode : Pool → Nat
  | .linkCredit => 1
  | .ringToken => 2
  | .reqTag => 3
  | .powerToken => 4
  | .journalSlot => 5
  | .fabricCredit => 6
  | .opSlot => 7
  | .parkRecord => 8

/-- The unit (stacks 0 to 11, bays from 12) and the index of stream engine `e` (R192). -/
def engineUnit (nStacks e : Nat) : Nat × Nat := if e < 4 * nStacks then (e / 4, e % 4) else (12 + (e - 4 * nStacks) / 4, e % 4)

namespace State

/-- Whether the operation waits for its first read on a barrier (R209). -/
def waits (s : State) (o : Op) : Bool := !s.barOpen o

/-- The cycles that a stream waited for a slot assert EV_SE_BUF_FULL (R202). -/
def endSlotWait (s : State) (o : Op) : State :=
  let p := StreamPos.ofOp o
  if o.kind = 0x10 ∧ p.fullSince ≠ 0 then
    (s.ev evSeBufFull o.q (stBuf o.raw) (s.now + 1 - p.fullSince)).setOp ({ p with fullSince := 0 }.put o)
  else s

/-- An operation parks with its cursor unchanged; its partial sums stay where an earlier park left them, but for one that still waits for its blank,
which parks with SPILLED clear (R72, R209). -/
def parkAsIs (s : State) (id : Nat) : State :=
  match s.op? id with
  | none => s
  | some o => ((s.endSlotWait o).parkOp id (decide (o.kind = 0x01 ∧ o.kChunk ≠ 0 ∧ o.phase ≠ .placing)) false 0).syncBlanks o.q

/-- What becomes of one operation at S (R40, R72, R205, R209, R237, R308, R327, R398). -/
def sweepOp (s : State) (id : Nat) : State :=
  match s.op? id with
  | none => s
  | some o =>
    if o.kind = 0x30 ∧ o.phase = .ended ∧ o.status.isNone then s.setOp { o with phase := .members }
    else if !(o.phase == .placing || o.phase == .setup || o.phase == .running || o.phase == .testing) then s
    else if s.h .halted o.q = 1 then
      let s1 := (s.endSlotWait o).overrun id 0
      if o.kind = 0x30 then s1.syncUnit (UnitOp.ofOp o).unit else s1.syncBlanks o.q
    else if o.kind = 0x40 then s.parkOp id false false 0
    else if o.phase = .placing then
      let s1 := if o.kind = 0x30 ∧ o.startAt < s.now then s.ev evUuQueue o.q (UnitOp.ofOp o).unit (s.now - o.startAt) else s
      let s2 := s1.parkAsIs id
      if o.kind = 0x30 then s2.syncUnit (UnitOp.ofOp o).unit else s2
    else if s.waits o ∧ o.kind ≠ 0x30 ∧ o.units.isEmpty then s.parkAsIs id
    else s

/-- Cycle S (R40). -/
def sweep (s : State) : State :=
  let s1 := (List.range s.nQ).foldl (fun (s : State) (q : Nat) =>
    let s := s.scanTo q (s.now - 1) s.allocQ.length
    let since := s.h .allocWait q
    if since = 0 then s else s.ev evBlankWait q 0 (s.now - since)) s
  let s2 := (s1.ops.map (·.id)).foldl (fun (s : State) (id : Nat) => s.sweepOp id) s1
  -- what waits on a bound is parked, not stalled, from here on (R29)
  let s3 := (List.range s2.nQ).foldl (fun (s : State) (q : Nat) =>
    (List.range 16).foldl (fun (s : State) (u : Nat) => (s.journalWait u q false).messageWait q u none)
      ((((s.setH .allocAt q 0).setH .allocRow q 0).setH .allocWait q 0).setH .allocFree q 0)) s2
  (List.range (4 * (s3.nStacks + s3.nBays))).foldl (fun (s : State) (e : Nat) =>
    (List.range s.nQ).foldl (fun (s : State) (q : Nat) => s.tagsWait q e false) s) s3

/-- Whether an operation stands at its park point (R41, R205, R146, R260). -/
def atParkPoint (s : State) (o : Op) : Bool :=
  match o.kind with
  | 0x01 => (o.phase == .running || o.phase == .setup) && o.units.isEmpty && !unitsDone o
  | 0x10 => o.phase == .running && ((StreamPos.ofOp o).opened == 0 || s.waits o)
  | 0x20 => o.phase == .running && !s.isStalled o.id && o.aux.isEmpty && o.unitNo != o.rowRun + 1
  | 0x30 => o.phase == .running && !s.uuSlots.any (fun e => e.2.2.1 == o.id && s.slotState e.1 e.2.1 == 1)
  | _ => false

/-- PARK of one operation. -/
def parkNow (s : State) (o : Op) : State :=
  if o.kind = 0x30 then ((s.unitPark o).parkOp o.id false false 0).syncUnit (UnitOp.ofOp o).unit
  else s.parkAsIs o.id

/-- What becomes of one operation at P (R45, R146, R327). -/
def deadlineOp (s : State) (id : Nat) : State :=
  match s.op? id with
  | none => s
  | some o =>
    let open_ := s.direct.any (fun (d : DirectStore) => d.op == id)
    match o.phase, o.status, open_ with
    | .ended, some st, false => (s.finish id st).syncBlanks o.q
    | _, _, _ =>
      if !holdsSlot o ∨ (o.phase = .ended ∧ open_ = false) then s
      else
        let s1 := ((s.abandonPage id).endSlotWait o).overrun id (if s.h .halted o.q = 1 then 0 else 1)
        if o.kind = 0x30 then s1.syncUnit (UnitOp.ofOp o).unit else s1.syncBlanks o.q

/-- A packed access still waiting at D does not take place (R186): its page keeps its contents, and BUSY that it set clears. -/
def dropPacked (s : State) : State :=
  let s1 := (s.packStalls.filter (fun (x : PackStall) => !x.busy)).foldl (fun (s : State) (x : PackStall) =>
    s.dirBusy ⟨x.q, x.init, x.tag, none⟩ x.pte false) { s with packStalls := [] }
  (List.range s.nQ).foldl (fun (s : State) (q : Nat) => s.wr .PK_Q_STAT_WAITING q 0) s1

/-- Cycle D (R46, R233): reads abandoned, stalled writes dropped, running bank commands cut. -/
def drain (s : State) : State :=
  let reqs := s.reqs.filter (fun (r : Req) => !r.lost && !r.direct)
  let s1 := reqs.foldl (fun (s : State) (r : Req) => (s.bump .SE_STAT_ABANDONED r.engine 1).ev evTagAbandon r.q r.engine 1) { s with reqs := [] }
  let s2 := (reqs.map (·.engine)).dedup.foldl (fun (s : State) (e : Nat) => s.syncOut e) s1
  let s3 := s2.dropPacked.cutEngines.serveQueues
  { s3 with stalls := s3.stalls.filter (fun x => !(x.op.isSome || x.init.cls == 4 || x.init.cls == 6)),
            direct := (s3.direct.filter (fun (d : DirectStore) => d.st != 2)).map (fun (d : DirectStore) => { d with st := 1 }) }

/-- How TURN_BAL_WHERE names the pool that a hardware error has moved (R399, Table 2-8): code, quarter, instance. -/
def poolName (s : State) (u : Upset) : Nat × Nat × Nat :=
  let q := if u.q < s.nQ then u.q else 15
  match u.pool with
  | .linkCredit => (1, (s.holder (u.inst / 12 % 1040 / 65)).getD 15, u.inst)
  | .ringToken => (2, q, if q = 15 then u.inst else 0)
  | .reqTag => (3, 15, u.inst)
  | .powerToken => (4, q, 0)
  | .journalSlot => (5, 15, u.inst)
  | .fabricCredit => (6, 15, u.inst)
  | .opSlot => (7, q, 0)
  | .parkRecord => (8, q, 0)

/-- Credits that the sender of a link's virtual channel holds at the check (R59, R53), the link being at rest. -/
def senderCredits (inst : Nat) (delta : Int) : Int := (LinkVc.full (inst % 3)).credits + delta

/-- What hardware errors make of the identities of Table 2-7: the pools that fail, with the amount. -/
def upsetPools (s : State) (upsets : List Upset) : List (Nat × Nat × Nat × Nat) :=
  let names := (upsets.map s.poolName).dedup
  names.filterMap (fun n =>
    let d := ((upsets.filter (fun u => s.poolName u == n)).map (fun u => u.delta)).sum
    let bad := if n.1 = 1 then senderCredits n.2.2 d != vcDepth (n.2.2 % 3) else d != 0
    if bad then some (n.1, n.2.1, n.2.2, d.natAbs) else none)

/-- Whether record `i` of the park area of `q` is VALID (Table 2-4). -/
def parkValid (s : State) (q i : Nat) : Bool :=
  match (s.vread ⟨q, ⟨9, 0⟩, 0, none⟩ (s.parkVA q i) 64).2 with
  | .ok (d, false) => bitsOf (ofBytes d) 48 1 == 1
  | _ => false

/-- The count of park records of `q`, and that of the VALID bits of its area (Table 2-7). -/
def parkCount (s : State) (q : Nat) : Nat :=
  let n := (s.ops.filter (fun o => o.q == q && o.record.isSome)).length
  if s.h .parkAdj q = 0 then n else n + s.h .parkAdj q - 4096
def parkInArea (s : State) (q : Nat) : Nat :=
  if s.flag .TURN_Q_PARK_EN q then ((List.range 1024).filter (fun i => s.parkValid q i)).length else s.parkCount q

/-- Whether a send record is VALID in memory (Table 13-2). -/
def sendValid (s : State) (x : FeTx) : Bool :=
  match (s.vread (feClient x.q x.e 0 none) (s.feRecVA x.q x.e x.recNo) 64).2 with
  | .ok (d, _) => bitsOf (ofBytes d) 26 1 == 1
  | .error _ => true

/-- State of a journal slot in its header (R255). -/
def headerState (s : State) (q u k : Nat) : Nat := ofBytes (s.scratchRead q (s.slotBase q u k) 256).1 % 4

/-- The imbalances of the window (Tables 2-7 and 2-8) as (code, quarter, instance, amount): those that a hardware error made, tags still out, slots that
differ from their headers, credits that differ from the records, operations still executing, and park records that differ from the area. -/
def imbalances (s : State) (upsets : List Upset) : List (Nat × Nat × Nat × Nat) :=
  let tags := ((s.reqs.filter (fun (r : Req) => !r.lost && !r.direct)).map (fun r => (3, 15, r.engine, 0))).dedup
  let slots := (s.uuSlots.filter (fun x => s.slotState x.1 x.2.1 != s.headerState (s.slotQ x.1 x.2.1) x.1 x.2.1)).map
    (fun x => (5, 15, 8 * x.1 + x.2.1, 0))
  let fabric := ((s.feTx.filter (fun x => !s.sendValid x)).map (fun x => (6, 15, x.e, 0))).dedup
  let ops := ((List.range s.nQ).filter (fun q => s.executing q != 0)).map (fun q => (7, q, 0, 0))
  let parks := ((List.range s.nQ).filter (fun q => s.parkCount q != s.parkInArea q)).map (fun q => (8, q, 0, 0))
  s.upsetPools upsets ++ tags ++ slots ++ fabric ++ ops ++ parks

/-- R55: the first of two imbalances. -/
def balBefore (a b : Nat × Nat × Nat × Nat) : Bool :=
  decide (a.1 < b.1) || (a.1 == b.1 && (decide (a.2.1 < b.2.1) || (a.2.1 == b.2.1 && decide (a.2.2.1 < b.2.2.1))))

/-- The action of Table 2-7 on one imbalance. -/
def balAction (s : State) (e : Nat × Nat × Nat × Nat) : State :=
  let (code, q, i, d) := e
  let turn := s.rd .TURN_COUNT_COUNT 0
  match code with
  | 1 =>
    -- the same link, whichever virtual channel, in two consecutive turns: the CP fences its sending tile
    let again := decide (turn ≠ 0 ∧ s.h .linkBad (i / 3) = turn)
    let s1 := s.setH .linkBad (i / 3) (turn + 1)
    if again ∧ s.h .cpUp 0 ≠ 0 then s1.fenceReq (i / 12 % 1040) (i / 12 / 1040) 0 false else s1
  | 2 => if q < 12 then s.ringFault q else if i < 14 then s.ringFault i else s
  | 3 =>
    let again := decide (turn ≠ 0 ∧ s.h .tagBad i = turn)
    let s1 := ({ s with reqs := s.reqs.filter (fun r => r.engine != i) }.setH .tagBad i (turn + 1)).syncOut i
    let (u, k) := engineUnit s.nStacks i
    if again then { s1 with leaving := s1.leaving ++ [(1, u, k)] } else s1
  | 4 => s.addH .balE 0 d
  | 5 => s.uuSlots.foldl (fun (s : State) (x : Nat × Nat × Nat × Nat) =>
      if 8 * x.1 + x.2.1 = i then s.setSlot x.1 x.2.1 (s.headerState (s.slotQ x.1 x.2.1) x.1 x.2.1) (s.slotQ x.1 x.2.1) else s) s
  | 6 => { s with feTx := s.feTx.filter (fun x => x.e != i || s.sendValid x) }.syncFe i
  | 7 => ((s.ops.filter (fun o => o.q == q && holdsSlot o)).map (·.id)).foldl (fun (s : State) (id : Nat) => s.overrun id 1) s
  | 8 => s.setH .parkAdj q (4096 + s.parkInArea q - (s.ops.filter (fun o => o.q == q && o.record.isSome)).length)
  | _ => s

/-- The verdict of w 256 (R53 to R55, R399). Log entry 66, DEDUCED. -/
def balance (s : State) (upsets : List Upset) : State :=
  let bad := s.imbalances upsets
  let s := { s with balDue := bad }
  match bad with
  | [] => s
  | b :: bs =>
    let s1 := bad.foldl (fun (s : State) (e : Nat × Nat × Nat × Nat) => s.mark (balFld e.1) 0) s
    let first := bs.foldl (fun m e => if balBefore e m then e else m) b
    let s2 := if s.rd .TURN_BAL_WHERE_CODE 0 ≠ 0 then s1 else
      ((s1.wr .TURN_BAL_WHERE_CODE 0 first.1).wr .TURN_BAL_WHERE_QUARTER 0 first.2.1).wr .TURN_BAL_WHERE_INSTANCE 0 first.2.2.1
    (s2.mcLog 9 15 (s2.rd .TURN_BAL_WHERE_CODE 0 + 2 ^ 4 * s2.rd .TURN_BAL_WHERE_QUARTER 0 +
      2 ^ 8 * s2.rd .TURN_BAL_WHERE_INSTANCE 0)).raisePf 4

/-- The corrective resets of w 258 to 511 (R54, Table 2-5). -/
def correct (s : State) : State := s.balDue.foldl (fun (s : State) (e : Nat × Nat × Nat × Nat) => s.balAction e) { s with balDue := [] }

/-- Change 2 of Table 2-6 with R261: a change of a quarter whose journal slots are not all FREE stays staged. `old` holds P and SCRATCH_ACT of every
quarter as the window found them. -/
def applySizes (s : State) (old : List (Nat × Nat)) : State :=
  (List.range s.nQ).foldl (fun (s : State) (q : Nat) =>
    let wanted := s.flag .GRID_Q_STRIPS_PENDING q || s.rd .PLZ_Q_CFG_SCRATCH_WAYS q != s.rd .PLZ_Q_CFG_SCRATCH_ACT q
    let was := old.getD q (0, 0)
    (if wanted && s.slotsHeld q then s.sizeRefused q else s.applyAssign q).settleSize q was.1 was.2) s

/-- Every extent of a staged bank region is OWNED by its owner (R214). -/
def regionOwned (s : State) (k : Nat) : Bool :=
  (List.range (s.rd .BANK_CFG_COUNT k)).all (fun i =>
    let e := 96 * k + s.rd .BANK_CFG_FIRST k + i
    s.rd .MEM_EXT_STATE e == 1 && s.rd .MEM_EXT_OWNER e == s.rd .BANK_CFG_OWNER k)

/-- Entry of a bank region (R215): what Table 10-3 keeps until CLEAR stays. -/
def bankEnter (s : State) (k : Nat) : State :=
  let s1 := ((s.mark .BANK_CFG_ACTIVE k).wr .BANK_CFG_READY k 0).wr .BANK_CFG_OWNER_ACT k (s.rd .BANK_CFG_OWNER k)
  let s2 := (s1.wr .BANK_CFG_FIRST_ACT k (s.rd .BANK_CFG_FIRST k)).wr .BANK_CFG_COUNT_ACT k (s.rd .BANK_CFG_COUNT k)
  (((List.range 64).foldl (fun (s : State) (p : Nat) =>
    let e := s.engine k p
    s.setEngine k p { Engine.empty with
      flags := e.flags, overflow := e.overflow, badSeq := e.badSeq, discarded := e.discarded, lastStatus := e.lastStatus, lastTag := e.lastTag }) s2).syncBusy
    k).setH .scanAt k s.now

/-- Change 3 of Table 2-6 for one stack (R214, R216). -/
def applyBank (s : State) (k : Nat) : State :=
  let en := s.flag .BANK_CFG_EN k
  let refuse := (s.mark .BANK_CFG_REFUSED k).fnErr (s.h .bankBy k - 1) 3 (0xC0000 + 256 * k)
  if s.flag .BANK_CFG_ACTIVE k then
    if !en then s.endBank k false
    else if s.rd .BANK_CFG_OWNER k = s.rd .BANK_CFG_OWNER_ACT k ∧ s.rd .BANK_CFG_FIRST k = s.rd .BANK_CFG_FIRST_ACT k ∧
        s.rd .BANK_CFG_COUNT k = s.rd .BANK_CFG_COUNT_ACT k then s
    else refuse
  else if !en then s
  else if s.rd .STK_STAT_STATE k = 1 ∧ 1 ≤ s.rd .BANK_CFG_COUNT k ∧ s.rd .BANK_CFG_FIRST k + s.rd .BANK_CFG_COUNT k ≤ 96 ∧
      s.regionOwned k then s.bankEnter k
  else refuse

/-- Change 6 of Table 2-6: token shares (R39). -/
def applyShares (s : State) : State :=
  if 4096 < ((List.range s.nQ).map (fun q => s.rd .TOK_Q_SHARE_SHARE q)).sum then s.mark .TURN_BAL_ERR_SHARE_SUM 0
  else (List.range s.nQ).foldl (fun (s : State) (q : Nat) => s.setH .shareAct q (s.rd .TOK_Q_SHARE_SHARE q)) s

/-- The tag quota that would be in force (R195). -/
def tagsNext (s : State) (q : Nat) : Nat :=
  if s.flag .SE_Q_TAGS_AUTO q then 512 * s.h .shareAct q / 4096 else s.rd .SE_Q_TAGS_TAGS q

/-- Tag quotas (R195). -/
def applyTags (s : State) : State :=
  if 512 < ((List.range s.nQ).map (fun q => s.tagsNext q)).sum then s.mark .SE_CFG_TAG_SUM 0
  else (List.range s.nQ).foldl (fun (s : State) (q : Nat) => s.wr .SE_Q_TAGS_TAGS_ACT q (s.tagsNext q)) s

/-- Retirements of pseudo-channels at a turn end (R164, R216). -/
def applyRetire (s : State) (k : Nat) : State :=
  let p := s.h .retirePend k
  if s.h .copyDone k = 1 ∧ s.rd .STK_STAT_STATE k = 1 then (s.setH .copyDone k 0).wr .STK_STAT_STATE k 2
  else if p ≠ 0 ∧ s.rd .STK_STAT_STATE k = 1 then
    (((s.endBank k true).setH .retirePend k 0).wr .STK_STAT_RPC k (p - 1)).mark .STK_STAT_RPC_VALID k
  else s

/-- The turn end of a bay (R166, R169, R170). -/
def applyBay (s : State) (d : Nat) : State :=
  let store := fun (s : State) =>
    let frames := ((List.range 1024).filter (fun i => s.flag .CRT_BF_DATA_VALID (1024 * d + i))).map
      (fun i => s.rd .CRT_BF_DATA_FRAME (1024 * d + i))
    { s with idFrames := (d, frames) :: s.idFrames.filter (fun (e : Nat × List Nat) => e.1 != d) }.setH .bfDirty d 0
  let s1 := if s.h .bfDirty d = 1 then store s else s
  let s2 := if s1.rd .CRT_STAT_STATE d = 4 ∧ s1.h .withdrawn d = 0 then
      (store ((List.range 64).foldl (fun (s : State) (l : Nat) => s.wr .MEM_LOT_PRESENT (64 * d + l) 0) s1)).setH .withdrawn d 1
    else s1
  if s2.h .presentPend d = 1 ∧ s2.rd .CRT_STAT_STATE d = 3 then
    (List.range 64).foldl (fun (s : State) (l : Nat) =>
      if s.rd .MEM_LOT_STATE (64 * d + l) = 3 then s else (s.wr .MEM_LOT_PRESENT (64 * d + l) 1).wr .MEM_LOT_STATE (64 * d + l) 0)
      (s2.setH .presentPend d 0)
  else s2

/-- Codebook slots that unload are free (R180). -/
def freeCodebooks (s : State) : State :=
  (List.range 256).foldl (fun (s : State) (k : Nat) =>
    if s.flag .CB_SLOT_UNLOADING k then
      { (s.wr .CB_SLOT_UNLOADING k 0).wr .CB_SLOT_VALID k 0 with codebooks := s.codebooks.filter (fun e => e.1 != k) }.lateDone
        (.slotFree k) stSuccess
    else s) s

/-- The changes of Table 2-6, in order, and the other effects of a turn end (R50, R51). -/
def applyStaged (s : State) : State :=
  let qs := List.range s.nQ
  let s0 := qs.foldl (fun (s : State) (q : Nat) => s.disposeQuarter q) s
  let s2 := s0.applyFences.applySizes s0.sizesOf
  let s3 := (List.range s2.nStacks).foldl (fun (s : State) (k : Nat) => s.applyBank k) s2
  let s4 := s3.applyFabric
  let s5 := s4.setH .lenNext 0 (s4.rd .TURN_LEN_LEN_SEL 0 + 1)
  let s6 := s5.applyShares.applyTags.applyCredits
  let s7 := s6.applySelects
  let s8 := (List.range s7.nStacks).foldl (fun (s : State) (k : Nat) => s.applyRetire k) s7
  let s9 := (List.range s8.nBays).foldl (fun (s : State) (d : Nat) => s.applyBay d) s8
  s9.freeCodebooks.removeUnits.endRestricted.setLevel

/-- Staged key actions (R374); those staged for the window of an unlock's erasure complete with not-permitted (R375). -/
def applyKeys (s : State) : State :=
  (List.range s.nQ).foldl (fun (s : State) (q : Nat) =>
    let done := fun (s : State) (status res0 : Nat) =>
      (s.late.filter (fun (l : Late) => l.until_ == .keyApplied q)).foldl (fun (s : State) (l : Late) =>
        s.complete l.page ⟨l.tag, l.source, status, 0, false, 0, res0, none⟩)
        { s with late := s.late.filter (fun (l : Late) => l.until_ != .keyApplied q) }
    let erasing := s.flag .SEC_STAT_ERASE_PEND 0 && s.h .eraseReady 0 != 0 && decide (s.h .eraseReady 0 ≤ s.now + 1)
    match s.h .keyStage q with
    | 1 =>
      if erasing then done (s.setH .keyStage q 0) stNotPermitted 0 else
      let n := s.h .keyCount 0 + 1
      let s1 := ((s.setH .keyStage q 0).setH .keyCount 0 n).setH .keyNum q n
      let g := s1.rd .MEM_ENC_STAT_GEN q + 1
      done ((s1.wr .MEM_ENC_STAT_KEY q 1).wr .MEM_ENC_STAT_GEN q g) stSuccess (g % 256)
    | 2 => if erasing then done (s.setH .keyStage q 0) stNotPermitted 0 else done (((s.setH .keyStage q 0).setH .keyNum q 0).wr .MEM_ENC_STAT_KEY q 2) stSuccess 0
    | _ => s) s

/-- The turn length that the budget is computed for (R51). -/
def lenAfter (s : State) : Nat := if s.h .lenNext 0 = 0 then s.len else 2 ^ (18 + (s.h .lenNext 0 - 1))

/-- R387, R388, R392: C_therm, THROTTLE and the supply and temperature readings of the ending turn. -/
def thermal (s : State) (vmin tmax : Nat) : State :=
  let cut := s.h .thermCut 0
  let cut1 := if s.rd .PWR_CFG_THERM_LIMIT 0 ≤ tmax ∨ s.h .flowLow 0 = 1 then max cut (min (cut + 5) 70)
    else if tmax < s.rd .PWR_CFG_THERM_RESUME 0 then cut - 1 else cut
  let s1 := ((s.setH .thermCut 0 cut1).wr .PWR_STAT_T_MAX 0 tmax).wr .PWR_STAT_VIN_MIN 0 vmin
  let s2 := if vmin < 4000 then (s1.mark .PWR_STAT_SAG 0).mcLog 13 15 vmin else s1
  let was := s2.flag .PWR_STAT_THROTTLE 0
  let s3 := s2.wr .PWR_STAT_THROTTLE 0 (if cut1 = 0 then 0 else 1)
  if cut1 ≠ 0 ∧ !was then s3.mcLog 14 15 tmax else s3

/-- C_eff (R386) in hundredths of a watt. -/
def ceff (s : State) (vmin : Nat) : Nat :=
  let c := s.capW
  min (min (100 * c) (100 * s.rd .PWR_CFG_CAP_SET 0)) (min (100 * min c (vmin * c / 4000)) (c * (100 - s.h .thermCut 0)))

/-- A(q), DEBT(q) and CARRY(q) from B and F (R36, R38): to the tokens metered by the activity counters come those of the quarter's bank engines
(R235). Log entry 101, DEDUCED. -/
def allotQ (s : State) (b f : Nat) (metered : List Nat) (q : Nat) : State :=
  let used := metered.getD q 0 + s.bankMetered q / 2 ^ 24
  let s1 := if s.h .allot q < used then s.mark .TOK_Q_STAT_OVERDRAW q else s
  let owed := s1.rd .TOK_Q_CARRY_CARRY q + (used - s1.h .charged q)
  let g := (b - f) * s1.h .shareAct q / 4096
  let debt := min owed g
  let a := g - debt
  let s2 := ((s1.setH .allot q a).setH .gross q g).setH .owed q owed
  ((s2.wr .TOK_Q_STAT_FREE q a).wr .TOK_Q_STAT_DEBT q debt).wr .TOK_Q_CARRY_CARRY q (min (owed - debt) 2097151)

/-- B of the next turn (R36, R386), the part of E that it did not take, and C_EFF. -/
def nextBudget (s : State) (modMetered vmin : Nat) : Nat × Nat × Nat :=
  let l := s.lenAfter
  let full := s.capW * l / 16000
  let ce := s.ceff vmin
  let e := (100 * s.capW - ce) * l / 1600000 + (modMetered - s.rd .TOK_BUDGET_CUR 0) + s.h .balE 0 + s.h .carryE 0
  (full - e, e - full, ce / 100)

/-- w 3,584 (R36, R18). A value that the MC itself has written to NEXT or FIXED in the turn is what it delivers (R17). Log entry 67, DEDUCED. -/
def loadBudget (s : State) (late : Bool) (metered : List Nat) (modMetered fixed vmin tmax : Nat) : State :=
  let given := decide (s.h .mcNext 0 = 1)
  let s1 := if late && !given then (s.wr .TOK_BUDGET_LATE 0 1).mcLog 1 15 0
    else
      let s1 := s.thermal vmin tmax
      let (b, carry, ce) := s1.nextBudget modMetered vmin
      let s2 := ((s1.setH .balE 0 0).setH .carryE 0 carry).wr .PWR_STAT_C_EFF 0 ce
      let b := if given then s.rd .TOK_BUDGET_NEXT 0 else b
      let f := if s.h .mcFixed 0 = 1 then s.rd .TOK_FIXED_FIXED 0 else fixed
      (((s2.wr .TOK_BUDGET_NEXT 0 b).wr .TOK_BUDGET_CUR 0 b).wr .TOK_FIXED_FIXED 0 f).wr .TOK_BUDGET_LATE 0 0
  let s1 := (s1.setH .mcNext 0 0).setH .mcFixed 0 0
  let b := s1.rd .TOK_BUDGET_CUR 0
  let f := s1.rd .TOK_FIXED_FIXED 0
  let s2 := (List.range s1.nQ).foldl (fun (s : State) (q : Nat) => s.allotQ b f metered q) s1
  let sum := ((List.range s2.nQ).map (fun q => s2.h .gross q)).sum
  (s2.setH .fixedAct 0 (min f b)).setH .reserve 0 (b - f - sum)

/-- The fields of a park record (Table 2-4) that a resumed operation takes. -/
def fromRecord (o : Op) (w : Nat) : Op :=
  { o with
    overrun := bitsOf w 49 1 == 1, spilled := bitsOf w 50 1 == 1, degraded := bitsOf w 51 1 == 1, flags := bitsOf w 52 5,
    parkTurn := bitsOf w 64 64, rowRun := bitsOf w 128 32, nBlock := bitsOf w 160 32, kChunk := bitsOf w 368 32,
    estCycles := bitsOf w 256 32, estTokens := bitsOf w 288 21, spillBytes := bitsOf w 320 32, noProgress := bitsOf w 352 8,
    phase := .resuming }

/-- One parked operation at the rebuild (R49): resumed from its record, or completed as damaged. -/
def rebuildOp (s : State) (id : Nat) : State :=
  match s.op? id with
  | none => s
  | some o =>
    match o.record with
    | none => s
    | some i =>
      let (s, r) := s.vread (schedClient o) (s.parkVA o.q i) 64
      let w := match r with
        | .ok (d, false) => some d
        | _ => none
      let good := match w with
        | some d => bitsOf (ofBytes d) 48 1 == 1 && bitsOf (ofBytes d) 400 16 == crc16 0xFFFF (d.take 50)
        | none => false
      if good then s.setOp (fromRecord o (ofBytes (w.getD [])))
      else (s.mark .TURN_BAL_ERR_PARK_FAULT 0).finish id stDamagedPark

/-- The order of R49. -/
def resumeBefore (a b : Op) : Bool :=
  let ka := (a.parkTurn * 2 ^ 32 + a.tag % 2 ^ 32) * 4096 + a.problem
  let kb := (b.parkTurn * 2 ^ 32 + b.tag % 2 ^ 32) * 4096 + b.problem
  decide (ka ≤ kb)

/-- The rebuild of every resume queue (R49), and TURN_COUNT. -/
def rebuildQueues (s : State) : State :=
  let ids := (s.ops.filter (fun o => o.phase == .parked || o.phase == .resuming)).map (·.id)
  let s1 := ids.foldl (fun (s : State) (id : Nat) => s.rebuildOp id) s
  let order := (s1.ops.filter (fun o => o.phase == .resuming)).mergeSort resumeBefore
  let s2 := { s1 with resumeQ := order.map (fun (o : Op) => o.id) }
  s2.wr .TURN_COUNT_COUNT 0 (s2.rd .TURN_COUNT_COUNT 0 + 1)

/-- R235: the charge of a bank owner at cycle 0. -/
def chargeBank (s : State) (q : Nat) : State :=
  let want := ((List.range s.nStacks).map (fun k => if s.bankOwner q k then s.rd .BANK_CFG_TOKENS k else 0)).sum
  let free := s.rd .TOK_Q_STAT_FREE q
  let c := min want free
  ((s.wr .TOK_Q_STAT_FREE q (free - c)).addH .charged q c).setH .bankCharge q c

/-- The correctable AER messages of a port count anew (R285). -/
def clearAer (s : State) (p : Nat) : State := (List.range 3).foldl (fun (s : State) (c : Nat) => s.setH .aerSent (4 * p + c) 0) s

/-- The present cycle is cycle 0 of a turn (R30), but for the requests held over the boundary window. -/
def beginTurn (s : State) : State :=
  let s := { s with turn0 := s.now, suspects := [] }.setH .sched 0 0
  let s := if s.h .lenNext 0 = 0 then s else s.wr .TURN_LEN_LEN_ACTIVE 0 (s.h .lenNext 0 - 1)
  let s := (List.range s.nQ).foldl (fun (s : State) (q : Nat) =>
    ((((s.setH .decideAt q 0).setH .charged q 0).setH .bankBusy q 0).wr .GRID_Q_STAT_SUSPECTS q 0).setH .bankCharge q 0) s
  let s := (List.range (4 * (s.nStacks + s.nBays))).foldl (fun (s : State) (e : Nat) => s.wr .SE_STAT_ABANDONED e 0) s
  let s := (List.range 2).foldl (fun (s : State) (p : Nat) => ((s.setH .crcTurn p 0).setH .escTurn p 0).clearAer p) s
  let s := (List.range 32).foldl (fun (s : State) (i : Nat) => s.setH .laneCrc i 0) s
  let s := (List.range s.nStacks).foldl (fun (s : State) (k : Nat) =>
    if s.flag .STK_STAT_RPC_VALID k ∧ s.rd .STK_STAT_STATE k = 1 ∧ s.h .copyDone k = 0 then s.mark .STK_STAT_COPYING k else s) s
  let s := s.settleUnits.zeroRegs
  let s := (List.range s.nQ).foldl (fun (s : State) (q : Nat) => (s.chargeBank q).releaseQuarter q) s
  s.recheckHeaders

/-- Cycle P (R45): what becomes of every operation. -/
def parkDeadline (s : State) : State := (s.ops.map (·.id)).foldl (fun (s : State) (id : Nat) => s.deadlineOp id) s

/-- Step `k` of the turn's schedule in its cycle, where nothing from outside comes with it: S, P, D, then the window's verdict, corrective resets, staged
configuration, keys, budget and rebuild (R15, R40, R45, R46, R50). -/
def schedStep (s : State) (k : Nat) : State :=
  match k with
  | 1 => (s.goTo s.cycS).sweep
  | 2 => (s.goTo s.cycP).parkDeadline
  | 3 => (s.goTo s.cycD).drain
  | 4 => (s.goTo (s.cycW 256)).balance []
  | 5 => (s.goTo (s.cycW 258)).correct
  | 6 => (s.goTo (s.cycW 512)).applyStaged
  | 7 => (s.goTo (s.cycW 2560)).applyKeys
  | 8 => (s.goTo (s.cycW 3584)).loadBudget true [] 0 0 0 0
  | _ => (s.goTo (s.cycW 3840)).rebuildQueues

/-- The schedule keeps its order (R15, R50): the steps up to `k` that this turn has not had yet take place. -/
def schedTo (s : State) (k : Nat) : State :=
  (List.range k).foldl (fun (s : State) (i : Nat) => if s.h .sched 0 = i then (s.schedStep (i + 1)).setH .sched 0 (i + 1) else s) s

/-- Step `k` with what comes with it, after those before it; a turn has it once. -/
def schedDo (s : State) (k : Nat) (f : State → State) : State :=
  if k ≤ s.h .sched 0 then s else (f (s.schedTo (k - 1))).setH .sched 0 k

/-- The next turn begins, its predecessor complete. -/
def newTurn (s : State) : State :=
  let s := s.schedTo 9
  (s.advance (s.len - s.pos)).beginTurn

end State

/-- SWEEP_START (R40, R72, R209, R237, R308, R327, R398): cycle S. -/
def execSweepStart (s : State) : Host.Outcome State Fault Refusal := .next (s.schedTo 1)

/-- PARK (R41, R42, R205, R146, R260): an operation at its park point parks, from S on, or where its next work unit would not end by P. -/
def execPark (id t : Nat) (s : State) : Host.Outcome State Fault Refusal :=
  let s := s.goTo t
  match s.op? id with
  | none => .next s
  | some o =>
    let (_, _, chunk) := estOf o.raw
    if s.h .halted o.q = 0 ∧ s.atParkPoint o ∧ (s.cycS ≤ s.pos ∨ (o.kind = 0x01 ∧ s.cycP < s.pos + chunk)) then .next (s.parkNow o)
    else .next s

/-- PARK_DEADLINE (R45, R146, R327): cycle P. -/
def execParkDeadline (s : State) : Host.Outcome State Fault Refusal := .next (s.schedTo 2)

/-- DRAIN_DEADLINE (R46, R142, R186, R233): cycle D. -/
def execDrainDeadline (s : State) : Host.Outcome State Fault Refusal := .next (s.schedTo 3)

/-- BALANCE_CHECK (R53 to R55, R399): w 0 to 511: the verdict at w 256; once it stands, the corrective resets from w 258. -/
def execBalanceCheck (upsets : List Upset) (s : State) : Host.Outcome State Fault Refusal :=
  if s.h .sched 0 = 4 then .next (s.schedTo 5)
  else .next (s.schedDo 4 (fun (s : State) => (s.goTo (s.cycW 256)).balance upsets))

/-- STAGED_CONFIGURATION_APPLY (R50, R51, Table 2-6): from w 512. -/
def execStagedConfigurationApply (s : State) : Host.Outcome State Fault Refusal := .next (s.schedTo 6)

/-- KEY_APPLY (R374): w 2,560. -/
def execKeyApply (s : State) : Host.Outcome State Fault Refusal := .next (s.schedTo 7)

/-- TOKEN_BUDGET_LOAD (R18, R36, R38, R386 to R388): w 3,584. -/
def execTokenBudgetLoad (late : Bool) (metered : List Nat) (modMetered fixed vmin tmax : Nat) (s : State) :
    Host.Outcome State Fault Refusal :=
  .next (s.schedDo 8 (fun (s : State) => (s.goTo (s.cycW 3584)).loadBudget late metered modMetered fixed vmin tmax))

/-- RESUME_QUEUE_REBUILD (R49, R50): w 3,840. -/
def execResumeQueueRebuild (s : State) : Host.Outcome State Fault Refusal := .next (s.schedTo 9)

/-- SNAPSHOT_LATCH (R15, R350, R351): the latch cycle of a trigger of source `src` is reached: w 257 for the turn end, after the verdict and before the
corrective resets; the mark's cycle; 16 cycles after the event; the cycle that NOW asked for. -/
def execSnapshotLatch (src t : Nat) (s : State) : Host.Outcome State Fault Refusal :=
  if src = 3 then
    (if s.h .snapDue 0 = 0 then .next s
     else
      let s1 := s.goTo (s.h .snapDue 0 - 1 - s.turn0)
      .next ((s1.latch 3).setH .snapDue 0 0))
  else if s.rd .SNAP_CFG_SRC 0 ≠ src then .next s
  else if src = 0 then
    (if 4 < s.h .sched 0 ∨ s.cycW 257 < s.pos then .next s
     else
      let s1 := s.schedTo 4
      .next ((s1.goTo (s1.cycW 257)).latch 0))
  else if src = 1 then .next ((s.goTo (s.rd .SNAP_CFG_MARK 0 * s.len / 8)).latch 1)
  else if src = 2 ∧ s.snapEvent = true then .next ((s.goTo t).latch 2)
  else .next s

end Sys2Proof.Machine
end

