-- ==== Sys2Proof/Machine/Cores.lean ====
section
/-! DEFINITION. The resident cores as the module sees them (R291 to R295): their L2 lines, and what holding a core in reset does. -/

namespace Sys2Proof.Machine

namespace State

/-- The client of core `c` of quarter `q` (R292). -/
def coreClient (q c : Nat) : Client := ⟨q, ⟨7, 16 + 3 * q + c⟩, 0, none⟩

/-- The quarter virtual address of an offset of the BAR2 window (R270, R292). -/
def bar2VA (s : State) (q o : Nat) : Nat := s.rd .PT_Q_CFG_B2_BASE q * 2 ^ 36 + o

/-- A dirty line is written back; a write-back that faults is discarded and raises VF vector 3 (R294). The line stays, clean. -/
def cleanL2 (s : State) (l : L2Line) : State :=
  if l.dirty then
    let s := { s with l2 := s.l2.map (fun (x : L2Line) => if x = l then { l with dirty := false } else x) }
    match s.vwriteL (coreClient l.q l.c) (s.bar2VA l.q l.pa) l.data [l.bad] with
    | (s, .ok _) => s
    | (s, .error _) => s.raiseVf l.q 3
  else s

def dropL2 (s : State) (p : L2Line → Bool) : State := { s with l2 := s.l2.filter (fun (x : L2Line) => !p x) }

/-- Lines are written back and leave the L2. -/
def flushL2 (s : State) (p : L2Line → Bool) : State := ((s.l2.filter p).foldl (fun (s : State) (l : L2Line) => s.cleanL2 l) s).dropL2 p

/-- RUN of CORE_CTRL has been written (R295): a core whose bit is clear has its L2 written back and invalidated, and is held. -/
def setCores (s : State) (q : Nat) : State :=
  let run := s.rd .CORE_CTRL_RUN q
  let s1 := s.flushL2 (fun (l : L2Line) => l.q == q && bitsOf run l.c 1 == 0)
  s1.wr .CORE_CTRL_HALTED q (7 - run)

/-- Every core of the module is written back and held (R295, R380). -/
def holdCores (s : State) : State :=
  (List.range s.nQ).foldl (fun (s : State) (q : Nat) => (s.wr .CORE_CTRL_RUN q 0).setCores q) s

end State

end Sys2Proof.Machine
end

