-- ==== Sys2Proof/Machine/RegHooks.lean ====
section
/-! DEFINITION. Register writes and reads (R7 to R10, R16, R17): which register lies at an offset, who may reach and write it, what each
access type does, which values are discarded, and what a write sets going. The mailbox registers have rules of their own. -/

namespace Sys2Proof.Machine

/-- The bit of an agent in `RegInfo.readers` and `RegInfo.writers`. -/
def agentBit : Agent → Nat
  | .pf => 1
  | .vf _ => 2
  | .cp => 4
  | .mc => 8

/-- The global register at a BAR0 offset, with its index. -/
def findReg (lt09 : Bool) (off : Nat) : Option (Reg × Nat) :=
  Reg.all.findSome? (fun (r : Reg) =>
    if r.info.page || decide (off < r.info.off) then none
    else match dimIndex lt09 r.info.dims (off - r.info.off) with
      | some i => if regThere lt09 r i then some (r, i) else none
      | none => none)

/-- The bits that a register value gives a field. -/
def fldOf (f : Fld) (val : Nat) : Nat := bitsOf val f.info.lo f.width

namespace State

/-- Values whose write the field's description discards (R395): the field keeps its value. -/
def fldLegal (s : State) (f : Fld) (i val : Nat) : Bool :=
  let v := fldOf f val
  match f with
  | .TURN_LEN_LEN_SEL => v != 7
  | .PLZ_Q_CFG_SCRATCH_WAYS => decide (v ≤ 12)
  | .SE_CFG_LOOKAHEAD => decide (256 ≤ v)
  | .SE_Q_TAGS_TAGS => decide (v ≤ 512)
  | .UU_Q_KEEP_INTERVAL => v != 0
  | .UU_Q_KEEP_E => decide (v ≤ 24)
  | .PT_Q_CFG_INT_ROUTE => v != 3
  | .PT_LINK_CFG_HOST_TMO => v != 0
  | .FE_CFG_RETRY_MAX => v != 0
  | .FE_CFG_RETX_US => decide (10 ≤ v)
  | .FE_Q_CFG_CREDITS => decide (v ≤ 1024)
  | .PMC_DUMP_CFG_LOG2 => decide (4 ≤ v) && decide (v ≤ 16)
  | .PT_BW_CFG_WIN_LOG2 => decide (10 ≤ v) && decide (v ≤ 24)
  | .PT_PF_WIN_QUARTER => decide (v < s.nQ)
  | .PWR_CFG_CAP_SET => decide (100 ≤ v) && decide (v ≤ s.capW)
  | .PWR_CFG_THERM_LIMIT | .PWR_CFG_THERM_RESUME =>
    let l := fldOf .PWR_CFG_THERM_LIMIT val
    decide (70 ≤ l) && decide (l ≤ 95) && decide (fldOf .PWR_CFG_THERM_RESUME val < l)
  | .MEM_EXT_OWNER => fldOf .MEM_EXT_REQ val == 0 || fldOf .MEM_EXT_REQ val == 3 ||
      (fldOf .MEM_EXT_REQ val == 1 && s.rd .MEM_EXT_STATE i == 0 && decide (v < s.nQ))
  | .MEM_LOT_OWNER => fldOf .MEM_LOT_REQ val == 0 || fldOf .MEM_LOT_REQ val == 3 ||
      (fldOf .MEM_LOT_REQ val == 1 && s.rd .MEM_LOT_STATE i == 0 && s.flag .MEM_LOT_PRESENT i && decide (v < s.nQ))
  | _ => true

/-- On an LT0960 a write that names a quarter, strip or unit which it has not completes without effect (R4). -/
def namesAbsent (s : State) (r : Reg) (val : Nat) : Bool :=
  s.lt09 && (match r with
    | .PT_PF_WIN => decide (9 ≤ fldOf .PT_PF_WIN_QUARTER val)
    | .GRID_MAP_ADDR => decide (12 ≤ fldOf .GRID_MAP_ADDR_STRIP val)
    | .CB_SLOT => decide (9 ≤ fldOf .CB_SLOT_OWNER val) || (List.range 16).any (fun u =>
        bitsOf (fldOf .CB_SLOT_UNITS val) u 1 == 1 && !(decide (u < 9) || (decide (12 ≤ u) && decide (u < 15))))
    | .BANK_CFG => decide (9 ≤ fldOf .BANK_CFG_OWNER val)
    | .MEM_EXT => fldOf .MEM_EXT_REQ val == 1 && decide (9 ≤ fldOf .MEM_EXT_OWNER val)
    | .MEM_LOT => fldOf .MEM_LOT_REQ val == 1 && decide (9 ≤ fldOf .MEM_LOT_OWNER val)
    | .PMC_SEL => decide (9 ≤ fldOf .PMC_SEL_QUARTER val) && decide (fldOf .PMC_SEL_QUARTER val < 15)
    | .SNAP_CFG => decide (9 ≤ fldOf .SNAP_CFG_QUARTER val) && decide (fldOf .SNAP_CFG_QUARTER val < 15)
    | _ => false)

/-- Hardware has set a W1C field in the present cycle: the set wins over a clear (Table 0-4). -/
def setNow (s : State) (f : Fld) (i : Nat) : Bool := s.h .setAt (regKey f i) == s.now + 1

/-- Clears the bits `v` of a W1C field, unless hardware has set it in the same cycle (Table 0-4). -/
def clearBits (s : State) (f : Fld) (i v : Nat) : State :=
  if s.setNow f i = true ∨ s.rd f i &&& v = 0 then s else (s.wr f i (s.rd f i - (s.rd f i &&& v))).setH .clrAt (regKey f i) (s.now + 1)

/-- What a write does to a field by its access type (Table 0-4). -/
def fldWrite (s : State) (f : Fld) (i v : Nat) : State :=
  match f.info.acc with
  | .rw => s.wr f i v
  | .w1c => s.clearBits f i v
  | .w1s => s.wr f i (s.rd f i ||| v)
  | .ro | .wo | .rc => s

/-- Whether buffer index `i` is in use by a stream or a claim (SE_BUF_CFG). -/
def bufUsed (s : State) (q b : Nat) : Bool :=
  s.claims.any (fun (c : Claim) => c.q == q && c.buf == b) ||
    s.ops.any (fun (o : Op) => o.q == q && o.kind == 0x10 && stDstKind o.raw == 1 && stBuf o.raw == b && o.phase != .queued)

/-- R44: the quarter holds a valid park record or an executing operation. -/
def parkUsed (s : State) (q : Nat) : Bool :=
  s.ops.any (fun (o : Op) => o.q == q && (holdsSlot o || o.phase == .parked || o.phase == .resuming))

/-- The writes that are discarded with cause 7 while what they configure is in use (Table 16-2). -/
def regBusy (s : State) (r : Reg) (i val : Nat) : Bool :=
  match r with
  | .TURN_Q_PARK => (fldOf .TURN_Q_PARK_EN val != s.rd .TURN_Q_PARK_EN i || fldOf .TURN_Q_PARK_VA val != s.rd .TURN_Q_PARK_VA i) &&
      s.parkUsed i
  | .SE_BUF_CFG | .SE_BUF_GEOM => s.bufUsed (i / 16) (i % 16)
  | .UU_Q_JRNL => s.slotsHeld i
  | .FE_Q_LOG => s.feTx.any (fun (x : FeTx) => x.q == i)
  | _ => false

/-- A request on an extent or a lot (R127, R170, R217) whose OWNER field is written: REQ 1 grant, 2 release. -/
def unitRequest (s : State) (lot : Bool) (i req : Nat) (granted : Bool) : State :=
  let st : Fld := if lot then .MEM_LOT_STATE else .MEM_EXT_STATE
  let off := if lot then 0x76000 + 4 * i else 0x74000 + 4 * i
  let err := s.fnErr 13 4 (off * 2 ^ 22 + i)
  let there := !lot || s.flag .MEM_LOT_PRESENT i
  let inRegion := !lot && s.inBank (i / 96) (i % 96 * 2 ^ 30)
  if req = 0 ∨ req = 3 then s
  else if req = 1 then (if granted then s.wr st i 1 else err)
  else if s.rd st i ≠ 1 ∨ inRegion then err
  else if there then s.wr st i 2
  else if s.rd .CRT_STAT_STATE (i / 64) = 6 then s.wr st i 0
  else err

/-- Every quarter stops as HALT stops it, with no acknowledgement (R345, R390). -/
def stopAll (s : State) : State := (List.range s.nQ).foldl (fun (s : State) (q : Nat) => s.setH .halted q 1) s

/-- A module reset quiesces (R345): `cause` is LAST_RESET to be, 2 for MOD_RST_N, 3 for RES_CTRL, 4 for the MC. -/
def startQuiesce (s : State) (cause : Nat) : State := if s.h .quiesce 0 = 0 then s.stopAll.setH .quiesce 0 (1 + cause) else s

/-- What a write of register `r` sets going once its fields are written. `old` is the state before the write, `who` the agent number
of the writer, `mc` whether the CP carries out an MC request. Log entry 35, DEDUCED. Log entry 37, DEDUCED. -/
def regAfter (old s : State) (r : Reg) (i val who : Nat) (mc : Bool) : State :=
  match r with
  | .TURN_LEN => if fldOf .TURN_LEN_LEN_SEL val = 7 then s.mark .TURN_BAL_ERR_LEN_INVALID 0 else s
  | .TURN_BAL_ERR => if s.balAny then s
      else ((s.wr .TURN_BAL_WHERE_CODE 0 0).wr .TURN_BAL_WHERE_QUARTER 0 0).wr .TURN_BAL_WHERE_INSTANCE 0 0
  | .TOK_BUDGET => if mc ∨ who = 14 then s.setH .mcNext 0 1 else s
  | .TOK_FIXED => if mc ∨ who = 14 then s.setH .mcFixed 0 1 else s
  | .GRID_Q_STRIPS => (s.syncPending i).setH .sizeBy i (who + 1)
  | .PLZ_Q_CFG => s.setH .sizeBy i (who + 1)
  | .GRID_FENCE_REQ => s.fenceReq (fldOf .GRID_FENCE_REQ_X val) (fldOf .GRID_FENCE_REQ_Y val) (fldOf .GRID_FENCE_REQ_ACTION val) mc
  | .GH_CTRL => if fldOf .GH_CTRL_CLEAR val = 1 then s.histClear (i / 64) (i % 64) else s
  | .MEM_EXT => s.unitRequest false i (fldOf .MEM_EXT_REQ val) (old.fldLegal .MEM_EXT_OWNER i val)
  | .MEM_LOT => s.unitRequest true i (fldOf .MEM_LOT_REQ val) (old.fldLegal .MEM_LOT_OWNER i val)
  | .MEM_RETIRE => s.memRetire mc val
  | .MMU_ROOT => { s with tlb := s.tlb.filter (fun (e : TlbEnt) => e.q != i) }
  | .MMU_FQ_PTR => s.flushRecords i s.stalls.length
  | .CRT_BF_DATA => s.badFrame i val
  | .CRT_CTRL =>
    let req := fldOf .CRT_CTRL_REQ val
    if req = 1 then s.askWithdraw who i
    else if req = 2 then s.askService who i
    else s
  | .STK_RETIRE => if fldOf .STK_RETIRE_GO val = 1 then s.requestRetire i (fldOf .STK_RETIRE_PC val) else s
  | .BANK_CFG => s.setH .bankBy i (who + 1)
  | .UU_Q_KEEP => if s.rd .UU_Q_KEEP_E i = old.rd .UU_Q_KEEP_E i then s else s.wr .UU_Q_KEEP_CLEAN i 0
  | .UU_Q_VCMD => (s.giveVerdict i (fldOf .UU_Q_VCMD_STEP val) (fldOf .UU_Q_VCMD_SKIP val == 1)).1
  | .CORE_CTRL => s.setCores i
  | .FE_Q_RT => if fldOf .FE_Q_RT_GO val = 1 then s.setH .rtStaged i (who + 1) else s
  | .RES_CTRL => if fldOf .RES_CTRL_KEY val = 0xA5C3 ∧ fldOf .RES_CTRL_MOD val = 1 then s.startQuiesce 3 else s
  | .SNAP_CFG => if fldOf .SNAP_CFG_NOW val = 1 then s.setH .snapDue 0 (1 + s.turn0 + (s.pos + 16 + 1023) / 1024 * 1024) else s
  | .PMC_SEL => ((s.wr .PMC_VAL_COUNT i 0).wr .PMC_VAL_SAT i 0).setH .selAt i (s.now + 1)
  | .PT_BW_CFG =>
    let s1 := ((s.wr .PT_BW_RX_BYTES i 0).wr .PT_BW_RX_RATE i 0).wr .PT_BW_TX_BYTES i 0
    (s1.wr .PT_BW_TX_RATE i 0).setH .bwFrom i (s.now + 1)
  | _ => s

/-- A write of register `r` by the agents of mask `bits`, number `who` in the error records (R8, R9). -/
def regWrite (s : State) (bits who : Nat) (mc : Bool) (r : Reg) (i off val : Nat) : State :=
  if r.info.readers &&& bits = 0 ∨ r.info.writers &&& bits = 0 then s.fnErr who 1 off
  else if s.namesAbsent r val then s
  else if s.regBusy r i val then s.fnErr who 7 off
  else
    let no := fun (f : Fld) => f.info.writers &&& bits == 0
    let barred := r.fields.any (fun (f : Fld) => no f &&
      fldOf f val != (if f.info.acc = .wo then 0 else s.shown f i))
    let s1 := if r = .CRT_BF_DATA then s
      else r.fields.foldl (fun (t : State) (f : Fld) => if no f || !s.fldLegal f i val then t else t.fldWrite f i (fldOf f val)) s
    let val1 := r.fields.foldl (fun (v : Nat) (f : Fld) => if no f then v - 2 ^ f.info.lo * fldOf f val else v) val
    let s2 := regAfter s s1 r i val1 who mc
    if barred then s2.fnErr who 1 off else s2

/-- Whether a write by the MC acts on the register itself: management registers, and the two power-token values (R17). -/
def mcDirect (r : Reg) : Bool := r.info.mgmt || r == .TOK_BUDGET || r == .TOK_FIXED

/-- The MC may ask for a write of a register (R17): its header lets the MC write it, or R17 names it. -/
def mcMay (r : Reg) : Bool := r.info.writers &&& 8 != 0 || r == .GRID_FENCE_REQ || r == .CB_SLOT

/-- The CP carries out a write that the MC asked for (R17), with the rights of the MC (R8, R16). Log entry 36, DEDUCED. -/
def mcWrite (s : State) (off val : Nat) : State :=
  match findReg s.lt09 off with
  | none => s
  | some (r, i) => if mcMay r then s.regWrite (if r.info.writers &&& 8 = 0 then 12 else 8) 14 true r i off val else s.fnErr 14 1 off

/-- The requests of the MC on the internal ring pair, oldest first, while a CP pair is in service (R17). `n` bounds them. -/
def serveMcRing (s : State) : Nat → State
  | 0 => s
  | n + 1 =>
    if s.h .cpUp 0 = 0 then s
    else match s.mcRing with
      | [] => s
      | (o, v) :: rest => ({ s with mcRing := rest }.mcWrite o v).serveMcRing n

/-- The MC sends a write as a request on the internal ring pair (R17). -/
def mcAsk (s : State) (off val : Nat) : State :=
  let s1 := { s with mcRing := s.mcRing ++ [(off, val)] }
  s1.serveMcRing s1.mcRing.length

/-- A write of a global register by an agent (R8, R17): the MC's writes of the other planes' registers are requests. -/
def busWrite (s : State) (a : Agent) (off val : Nat) : State :=
  match findReg s.lt09 off with
  | none => s
  | some (r, i) => if a = .mc ∧ !mcDirect r then s.mcAsk off val else s.regWrite (agentBit a) (agentNo a) false r i off val

/-- A write of the CP in carrying out a command. -/
def cpWrite (s : State) (off val : Nat) : State := s.busWrite .cp off val

/-- What a read of bits `lo` to `lo + n - 1` of a register does to a field beside showing it: RC clears what is read, but for what the same cycle has added
(R9, Table 0-4). -/
def fldRead (s : State) (f : Fld) (i lo n : Nat) : State :=
  if f.info.acc = .rc ∧ f.info.lo < lo + n ∧ lo < f.info.lo + f.width then
    s.wr f i (if s.setNow f i then min (s.h .rcNew (regKey f i)) (s.rd f i) else 0)
  else s

/-- What a read shows of a field: of one that it clears, what stood before the present cycle (Table 0-4); of a counter, the value before any increment
of the cycle (R358). -/
def readVal (s : State) (f : Fld) (i : Nat) : Nat :=
  if (f = .PMC_VAL_COUNT ∨ f = .PMC_VAL_SAT) ∧ s.h .selAt i ≠ s.now + 1 then Tab.get 0 (regKey f i) s.regs0
  else if f.info.acc = .rc ∧ s.setNow f i = true then s.shown f i - min (s.h .rcNew (regKey f i)) (s.shown f i) else s.shown f i

/-- The value that an agent reads from a register, where it reads bits `lo` to `lo + n - 1`; WO fields read zero (R9), and an agent not listed reads zero
(R8). -/
def regRead (s : State) (bits who : Nat) (r : Reg) (i off lo n : Nat) : State × Nat :=
  if r.info.readers &&& bits = 0 then (s.fnErr who 1 off, 0)
  else
    let v := r.fields.foldl (fun (acc : Nat) (f : Fld) =>
      if f.info.acc = .wo then acc else acc + 2 ^ f.info.lo * s.readVal f i) 0
    (r.fields.foldl (fun (t : State) (f : Fld) => t.fldRead f i lo n) s, v)

/-- A read of bits `lo` to `lo + n - 1` of a global register by an agent (R8, R9): an offset with no register reads zero. -/
def busRead (s : State) (a : Agent) (off lo n : Nat) : State × Nat :=
  match findReg s.lt09 off with
  | none => (s, 0)
  | some (r, i) => s.regRead (agentBit a) (agentNo a) r i off lo n

end State

end Sys2Proof.Machine
end

