-- ==== Sys2Proof/Machine/Commands.lean ====
section
/-! DEFINITION. Doresque commands (chapter 14): entries, pages, the checks every command passes (R4, R317, R320, R321, R329), and the commands
of classes 0x00 to 0x05. Each command has one meaning, `State.cmd…`, over a submission entry; the ring service of R313 dispatches to the
same meanings. -/

namespace Sys2Proof.Machine

/-- The number of a submission entry's line (R7). -/
def eRaw (e : SubEntry) : Nat := e.raw.toNat
/-- CLASS × 256 + CODE. -/
def eCode (e : SubEntry) : Nat := 256 * bitsOf (eRaw e) 0 8 + bitsOf (eRaw e) 8 8
def eTag (e : SubEntry) : Nat := bitsOf (eRaw e) 32 32
def eQuarter (e : SubEntry) : Nat := bitsOf (eRaw e) 108 4
/-- ARGS bits `lo` to `lo + n − 1`. -/
def eArg (e : SubEntry) (lo n : Nat) : Nat := bitsOf (eRaw e) (128 + lo) n

/-- A row of Table 14-5: the pages (1 quarter, 2 PF command, 4 PF management, 8 urgent slot), whether it is quarter-scoped, and the ARGS
fields it uses as (lowest bit, width). -/
structure CmdRow where
  pages : Nat
  byQ : Bool
  args : List (Nat × Nat)
  deriving DecidableEq, Repr

/-- Tables 14-5, 16-6, 17-6 and 18-6. -/
def cmdRow : Nat → Option CmdRow
  | 0x000 => some ⟨15, false, []⟩
  | 0x001 => some ⟨7, false, [(0, 16)]⟩
  | 0x100 => some ⟨3, true, [(0, 64)]⟩
  | 0x101 => some ⟨3, true, [(0, 76)]⟩
  | 0x200 => some ⟨3, true, [(0, 128)]⟩
  | 0x201 => some ⟨3, true, [(0, 64)]⟩
  | 0x202 => some ⟨3, true, [(0, 8)]⟩
  | 0x203 => some ⟨3, true, [(0, 256)]⟩
  | 0x204 => some ⟨3, true, [(0, 96)]⟩
  | 0x205 => some ⟨3, true, [(0, 16)]⟩
  | 0x206 => some ⟨2, true, [(0, 14)]⟩
  | 0x207 => some ⟨2, true, [(0, 64)]⟩
  | 0x300 => some ⟨3, true, [(0, 4)]⟩
  | 0x301 => some ⟨3, true, [(0, 4), (8, 7)]⟩
  | 0x302 => some ⟨3, true, [(0, 6), (32, 32)]⟩
  | 0x303 => some ⟨3, true, [(0, 4), (64, 96)]⟩
  | 0x400 => some ⟨3, true, [(0, 8), (16, 16), (64, 64)]⟩
  | 0x401 => some ⟨3, true, [(0, 8)]⟩
  | 0x500 => some ⟨3, true, [(0, 33), (64, 32)]⟩
  | 0x501 => some ⟨3, true, [(0, 5), (16, 18)]⟩
  | 0x502 => some ⟨3, true, [(0, 32)]⟩
  | 0x503 => some ⟨3, true, [(0, 29), (63, 1)]⟩
  | 0x600 => some ⟨3, true, [(0, 7), (64, 64)]⟩
  | 0x700 => some ⟨2, true, [(0, 61), (64, 16)]⟩
  | 0x701 => some ⟨10, true, [(0, 1)]⟩
  | 0x702 => some ⟨10, true, []⟩
  | 0x703 => some ⟨2, true, [(0, 3), (64, 54)]⟩
  | 0x704 => some ⟨2, true, [(0, 2), (64, 16)]⟩
  | 0x705 => some ⟨3, true, [(0, 19), (32, 21)]⟩
  | 0x706 => some ⟨2, false, [(0, 22)]⟩
  | 0x800 => some ⟨3, true, [(0, 64)]⟩
  | 0x801 => some ⟨3, true, [(0, 21), (64, 64)]⟩
  | 0x802 => some ⟨2, false, [(0, 16)]⟩
  | 0x803 => some ⟨6, false, [(0, 5)]⟩
  | 0x900 => some ⟨4, false, [(0, 1), (64, 96)]⟩
  | 0x901 => some ⟨4, false, [(0, 2)]⟩
  | 0x902 => some ⟨4, false, [(64, 96)]⟩
  | 0x903 => some ⟨4, false, [(0, 1), (64, 96)]⟩
  | 0x904 => some ⟨4, false, [(0, 24), (32, 32)]⟩
  | 0x905 => some ⟨4, false, [(0, 22)]⟩
  | 0xA00 => some ⟨6, false, [(0, 96), (128, 64)]⟩
  | 0xA01 => some ⟨6, false, [(0, 8), (64, 64)]⟩
  | 0xA02 => some ⟨6, true, [(0, 7), (64, 160), (256, 128)]⟩
  | 0xB00 => some ⟨4, false, [(0, 4)]⟩
  | 0xB01 => some ⟨4, false, [(0, 4)]⟩
  | 0xB02 => some ⟨4, false, [(64, 64)]⟩
  | 0xB03 => some ⟨4, false, [(64, 96)]⟩
  | 0xB04 => some ⟨4, false, [(0, 1)]⟩
  | 0xB05 => some ⟨4, false, [(64, 96)]⟩
  | 0xC00 => some ⟨4, false, [(0, 11)]⟩
  | 0xC01 => some ⟨4, false, []⟩
  | 0xC02 => some ⟨4, false, [(0, 16)]⟩
  | _ => none

/-- Whether every reserved bit, and every field that the command does not use, is zero (R317). -/
def entryClean (e : SubEntry) (r : CmdRow) : Bool :=
  let w := eRaw e
  let submit := eCode e == 0x100
  let argsLeft := r.args.foldl (fun (x : Nat) (f : Nat × Nat) => x - 2 ^ f.1 * bitsOf x f.1 f.2) (w / 2 ^ 128)
  bitsOf w 107 1 == 0 && bitsOf w 112 16 == 0 && argsLeft == 0 && (submit || (bitsOf w 16 15 == 0 && bitsOf w 64 43 == 0)) &&
    bitsOf w 31 1 == 0 && ((r.byQ && decide (12 ≤ e.page)) || eQuarter e == 0)

/-- The quarter that a command acts on (R317). -/
def eTarget (e : SubEntry) : Nat := if e.page < 12 then e.page else eQuarter e

/-- Commands that a page serves in restricted service (R329). -/
def restrictedServes (page code : Nat) : Bool :=
  if page = 13 then decide (0x900 ≤ code) else code == 0 || code == 1 || (page == 12 && code == 0x803)

namespace State

/-- The completion of a command. -/
def done (s : State) (e : SubEntry) (status res0 : Nat) : State :=
  s.complete e.page ⟨eTag e, e.source, status, 0, false, 0, res0, none⟩

/-- The completion of a command, or its wait (R184, R186): the command processor makes it again. -/
def doneWith (s : State) (e : SubEntry) (status res0 : Nat) : State := if status = stWait then s.setH .cmdWait 0 1 else s.done e status res0

/-- Whether a mailbox page exists on the module. -/
def pageHere (s : State) (page : Nat) : Bool := decide (page < s.nQ) || page == 12 || page == 13

/-- The status with which an entry completes before its command is looked at, in the order of R321, R329, R320, R317 and R4. -/
def screen (s : State) (e : SubEntry) : Option Nat :=
  let code := eCode e
  let urgent := e.source == 2
  let free := code == 0 || code == 1
  let limited := s.restricted
  if !urgent && !free && s.rd .MB_STAT_HANDSHAKE e.page == 0 && !(limited && e.page == 13 && restrictedServes 13 code) then
    some stNoHandshake
  else if !urgent && limited && !restrictedServes e.page code then some stRestricted
  else
    match cmdRow code with
    | none => some (if urgent then stNotPermitted else stInvalidDescriptor)
    | some r =>
      let bit := if urgent then 3 else if e.page < 12 then 0 else e.page - 11
      if bitsOf r.pages bit 1 = 0 then some stNotPermitted
      else if !entryClean e r then some stInvalidDescriptor
      else if r.byQ ∧ s.nQ ≤ eTarget e then some stInvalidTarget
      else none

/-- A command in hand: the checks, then its effect on the target quarter. An entry of another command changes nothing (log entry 24, DESIGN CHOICE). -/
def command (s : State) (e : SubEntry) (code : Nat) (body : State → Nat → State) : State :=
  if eCode e ≠ code ∨ s.pageHere e.page = false then s
  else match s.screen e with
    | some st => s.done e st 0
    | none => body s (eTarget e)

/-- NOP (0x00.0). -/
def cmdNop (s : State) (e : SubEntry) : State := s.command e 0x000 (fun (s : State) _ => s.done e stSuccess 0)

/-- VERSION (0x00.1, R332). Log entry 69, DEDUCED. -/
def cmdVersion (s : State) (e : SubEntry) : State := s.command e 0x001 (fun (s : State) _ =>
  let major := eArg e 8 8
  let (lo, hi) := match s.covered with
    | some (_, lo, hi) => (lo, hi)
    | none => (0, 0)
  let ok := s.covered.isSome && decide (lo / 256 ≤ major) && decide (major ≤ hi / 256)
  let r0 := 0xA1 + 2 ^ 8 * s.rd .FW_STATE_CFW_VER 0 + 2 ^ 32 * s.rd .FW_STATE_MFW_VER 0 + 2 ^ 56 * s.rd .FW_STATE_SERVICE 0
  let r1 := lo + 2 ^ 16 * hi + 2 ^ 32 * objVersion (s.obj objManifestUse)
  let s1 := if ok then s.mark .MB_STAT_HANDSHAKE e.page else s
  s1.complete e.page ⟨eTag e, e.source, if ok then stSuccess else stVersionRefused, 0, false, 0, r0, some r1⟩)

/-- Operations in the submit queue of a quarter (R319). -/
def submitCount (s : State) (q : Nat) : Nat :=
  (s.submitQ.filter (fun (id : Nat) => match s.op? id with
    | some o => o.q == q
    | none => false)).length

/-- Reads a descriptor as the CP (R90): 64 bytes, and 64 more for the KINDs that have them. -/
def readDesc (s : State) (q tag va : Nat) : State × Except Nat Nat :=
  match s.vread (cpClient q tag) va 64 with
  | (s, .error e) => (s, .error (accessStatus e))
  | (s, .ok (_, true)) => (s, .error stPoisonedData)
  | (s, .ok (d, false)) =>
    let k := bitsOf (ofBytes d) 0 8
    if k = 0x01 ∨ k = 0x10 then
      match s.vread (cpClient q tag) (va + 64) 64 with
      | (s, .error e) => (s, .error (accessStatus e))
      | (s, .ok (_, true)) => (s, .error stPoisonedData)
      | (s, .ok (d2, false)) => (s, .ok (ofBytes (d ++ d2)))
    else (s, .ok (ofBytes d))

/-- A SUBMIT entry `w` enters the quarter's submit queue as an operation; one whose descriptor cannot be read completes (R90); false where the read of the
descriptor waits. -/
def submitEntry (s : State) (q page source w : Nat) (plan : Option (Nat × Nat)) : State × Bool :=
  let tag := bitsOf w 32 32
  let va := bitsOf w 128 64
  let (s, r) := s.readDesc q tag va
  if r = .error stWait then (s, false) else
  let (id, s) := s.newId
  let raw := match r with
    | .ok d => d
    | .error _ => 0
  let o : Op := { Op.fresh id q page source tag raw va with
    notify := bitsOf w 31 1 == 1, plan := plan,
    sig := if bitsOf w 16 1 = 1 then some (bitsOf w 17 6) else none,
    wait := if bitsOf w 23 1 = 1 then some (bitsOf w 24 6, bitsOf w 64 32) else none,
    bind := if bitsOf w 30 1 = 1 then some (bitsOf w 96 4, bitsOf w 100 7) else none }
  let s := { s with ops := s.ops ++ [o] }
  match r with
  | .error st => (s.finish id st, true)
  | .ok _ => ({ s with submitQ := s.submitQ ++ [id] }, true)

/-- Plans of a quarter whose array is not read to its end (R322). -/
def planOpen (s : State) (q : Nat) : Bool :=
  s.ops.any (fun (o : Op) => o.kind == 0x03 && o.q == q && o.status.isNone && decide (o.issued < o.lossE))

/-- Whether class 0x01 entries of a quarter are not copied now (R319, R322). -/
def submitHeld (s : State) (q : Nat) : Bool := decide (4096 ≤ s.submitCount q) || s.planOpen q

/-- SUBMIT (0x01.0, R319). -/
def cmdSubmit (s : State) (e : SubEntry) : State := s.command e 0x100 (fun (s : State) q =>
  if s.submitHeld q then s.ev evSubmitFull q 0 1
  else
    let (s, ok) := s.submitEntry q e.page e.source (eRaw e) none
    if ok then s else s.setH .cmdWait 0 1)

/-- Whether a plan's entry is a SUBMIT entry of good form (R317, R322). -/
def planEntryOk (page w : Nat) : Bool :=
  bitsOf w 0 16 == 1 && bitsOf w 107 1 == 0 && bitsOf w 112 16 == 0 && w / 2 ^ 192 == 0 && (decide (12 ≤ page) || bitsOf w 108 4 == 0)

/-- Reads and enqueues the entries of plan `id` while the submit queue has room (R322). In a plan's `Op`, `issued` counts the entries read
and `lossE` is their number; `n` bounds the entries of one run. -/
def planRun (s : State) (id : Nat) : Nat → State
  | 0 => s
  | n + 1 =>
    match s.op? id with
    | none => s
    | some p =>
      if p.lossE ≤ p.issued ∨ p.status.isSome ∨ 4096 ≤ s.submitCount p.q then s
      else
        let i := p.issued
        let fail := fun (s : State) (k st : Nat) =>
          match s.op? id with
          | none => s
          | some p =>
            let p1 : Op := { p with
              issued := i + k, left := p.left - k, failed := p.failed + k,
              lowBad := match p.lowBad with
                | some (j, b) => if i < j then some (i, st) else some (j, b)
                | none => some (i, st),
              status := if st = stPageFault then some stPageFault else p.status }
            let s1 := s.setOp p1
            if p1.left = 0 then s1.finish id (memberStatus p1).1 else s1
        match s.vread (cpClient p.q p.tag) (p.descVA + 64 * i) 64 with
        | (s, .error e) => if e < 32 then fail s (p.lossE - i) stPageFault else s
        | (s, .ok (_, true)) => fail s (p.lossE - i) stPageFault
        | (s, .ok (d, false)) =>
          let w := ofBytes d
          if planEntryOk p.page w then
            let (s, ok) := s.submitEntry p.q p.page p.source w (some (id, i))
            if ok then planRun (s.updOp id (fun (o : Op) => { o with issued := i + 1 })) id n else s
          else planRun (fail s 1 stInvalidDescriptor) id n

/-- PLAN (0x01.1, R322). -/
def cmdPlan (s : State) (e : SubEntry) : State := s.command e 0x101 (fun (s : State) q =>
  let va := eArg e 0 64
  if va % 64 ≠ 0 then s.done e stInvalidDescriptor 0
  else if s.submitHeld q then s.ev evSubmitFull q 0 1
  else
    let n := eArg e 64 12 + 1
    let (id, s) := s.newId
    let o : Op := { Op.fresh id q e.page e.source (eTag e) 0x03 va with phase := .members, left := n, lossE := n }
    { s with ops := s.ops ++ [o] }.planRun id n)

/-- Plans go on where the submit queue has room again. -/
def pumpPlans (s : State) : State :=
  ((s.ops.filter (fun (o : Op) => o.kind == 0x03)).map (fun (o : Op) => o.id)).foldl
    (fun (s : State) (id : Nat) => s.planRun id 4096) s

/-- An access that stalls in its initiator (R140): all but those that never stall, which only leave a record (R43, R90, R141, R244). Of an update unit's
accesses for no operation those of a retire stall (R257). -/
def accessStalls (x : Stall) : Bool := x.op.isSome || (x.init.cls == 4 && x.tag == 2 ^ 32) || x.init.cls == 5 || x.init.cls == 6

/-- One stalled access after an invalidation of its page (R142, R148): the MMU walks again and the access proceeds or faults again. -/
def retryStall (s : State) (x : Stall) : State :=
  let again := fun (s : State) =>
    let s1 := { s with stalls := s.stalls.erase x }
    if accessStalls x then (s1.xlate ⟨x.q, x.init, x.tag, x.op⟩ x.va x.write).1 else s1
  match x.cause, x.host with
  | 0, _ => s
  | 6, some h =>
    match (s.walk x.q x.va).2 with
    | .ok l => if pteTier l.pte = 3 ∧ leafAddr l x.va = h then s else again s
    | .error _ => again s
  | _, _ => again s

/-- INVALIDATE (0x02.0, R139, R142, R148). -/
def cmdInvalidate (s : State) (e : SubEntry) : State := s.command e 0x200 (fun (s : State) q =>
  let va := eArg e 0 64
  let n := eArg e 64 64
  if va % 65536 ≠ 0 ∨ n % 65536 ≠ 0 then s.done e stInvalidDescriptor 0
  else
    let lo := if n = 0 then 0 else va
    let len := if n = 0 then 2 ^ 64 else n
    let s1 := s.dropTlb q lo len
    let hit := s1.stalls.filter (fun (x : Stall) => x.q == q && decide (lo ≤ x.va) && decide (x.va < lo + len))
    ((hit.foldl (fun (s : State) (x : Stall) => s.retryStall x) s1).resumeFaulted.flushRecords q s1.stalls.length).done e stSuccess 0)

/-- The end of an operation whose stalled access is aborted (R142, R207). -/
def abortOp (s : State) (id : Nat) : State :=
  match s.op? id with
  | none => s
  | some o =>
    let s1 := ({ s with reqs := s.reqs.filter (fun (r : Req) => r.op != id) }.abandonPage id).finish id stPageFault
    let s2 := (s.reqs.filter (fun (r : Req) => r.op == id)).foldl (fun (s : State) (r : Req) => s.syncOut r.engine) s1
    if o.kind = 0x30 then s2.syncUnit (UnitOp.ofOp o).unit else s2.syncBlanks o.q

/-- ABORT_FAULT (0x02.1, R142): RESULT0 counts the accesses aborted; an aborted retire of an update unit frees its slot (R257). Log entry 38, DEDUCED. -/
def cmdAbortFault (s : State) (e : SubEntry) : State := s.command e 0x201 (fun (s : State) q =>
  let page := eArg e 0 64 / 65536
  let hit := s.stalls.filter (fun (x : Stall) => x.q == q && x.va / 65536 == page && x.cause != 0)
  let stalled := hit.filter accessStalls
  let s1 := { s with stalls := s.stalls.filter (fun (x : Stall) => !hit.contains x) }
  let s2 := (stalled.filterMap (fun (x : Stall) => x.op)).dedup.foldl (fun (s : State) (id : Nat) => s.abortOp id) s1
  let units := ((stalled.filter (fun (x : Stall) => x.op.isNone && x.init.cls == 4)).map (fun (x : Stall) => x.init.unit)).dedup
  let s2 := units.foldl (fun (s : State) (u : Nat) => s.abortRetire u) s2
  s2.done e stSuccess stalled.length)

/-- FQ_HEAD (0x02.2). -/
def cmdFqHead (s : State) (e : SubEntry) : State := s.command e 0x202 (fun (s : State) q =>
  (s.cpWrite (0x70018 + 0x100 * q) (2 ^ 8 * eArg e 0 8)).done e stSuccess 0)

/-- MMU_CFG (0x02.3): the four registers, in order; TURN_Q_PARK under R44. -/
def cmdMmuCfg (s : State) (e : SubEntry) : State := s.command e 0x203 (fun (s : State) q =>
  let s1 := ((s.cpWrite (0x70008 + 0x100 * q) (eArg e 0 64)).cpWrite (0x70010 + 0x100 * q) (eArg e 64 64)).cpWrite
    (0x70020 + 0x100 * q) (eArg e 128 64)
  (s1.cpWrite (0x21010 + 0x100 * q) (eArg e 192 64)).done e stSuccess 0)

/-- RELEASE_KEEP (0x02.5, R131): the lines of the named keep groups are normal. -/
def cmdReleaseKeep (s : State) (e : SubEntry) : State := s.command e 0x205 (fun (s : State) q =>
  let free := fun (l : PLine) => l.q == q && (match l.keep with
    | some g => bitsOf (eArg e 0 16) g 1 == 1
    | none => false)
  { s with plaza := s.plaza.map (fun (l : PLine) => if free l then { l with keep := none } else l) }.done e stSuccess 0)

/-- UNIT (0x02.6, R127, R167): a discarded request completes with the present STATE (log entry 40, DESIGN CHOICE). -/
def cmdUnit (s : State) (e : SubEntry) : State := s.command e 0x206 (fun (s : State) q =>
  let act := eArg e 0 2
  let lot := eArg e 2 1 == 1
  let i := eArg e 3 11
  let fld : Fld := if lot then .MEM_LOT_STATE else .MEM_EXT_STATE
  let off := if lot then 0x76000 + 4 * i else 0x74000 + 4 * i
  if act = 0 then s.done e stInvalidDescriptor 0
  else if (if lot then 64 * s.nBays ≤ i else 96 * s.nStacks ≤ i) then s.done e stInvalidTarget 0
  else if act = 3 then
    let s1 := s.cpWrite 0x77008 (2 ^ 30 + (if lot then 2 ^ 29 else 0) + i)
    s1.done e stSuccess (s1.rd fld i)
  else
    let s1 := s.cpWrite off (2 ^ 8 * act + 2 ^ 4 * q)
    if act = 2 ∧ s.rd fld i = 1 ∧ s1.rd fld i = 2 then
      { s1 with late := s1.late ++ [(⟨e.page, e.source, eTag e, .unitFree lot i⟩ : Late)] }
    else s1.done e stSuccess (s1.rd fld i))

/-- HOST_WIN (0x02.7, R148). -/
def cmdHostWin (s : State) (e : SubEntry) : State := s.command e 0x207 (fun (s : State) q =>
  (s.cpWrite (0x70028 + 0x100 * q) (eArg e 0 64)).done e stSuccess 0)

/-- HEAD of a buffer moves by `n`, or HEAD_PAST is set (R203). -/
def moveHead (s : State) (q b n : Nat) : State :=
  let i := bufIdx q b
  let slots := s.rd .SE_BUF_CFG_SLOTS_M1 i + 1
  if s.rd .SE_BUF_PTR_FULL i < n then s.mark .SE_BUF_PTR_HEAD_PAST i
  else (s.wr .SE_BUF_PTR_HEAD i ((s.rd .SE_BUF_PTR_HEAD i + n) % slots)).wr .SE_BUF_PTR_FULL i (s.rd .SE_BUF_PTR_FULL i - n)

/-- SWAP (0x03.0, R203): a two-half buffer. A buffer of the other kind, or none, is an invalid target (log entry 40, DESIGN CHOICE). -/
def cmdSwap (s : State) (e : SubEntry) : State := s.command e 0x300 (fun (s : State) q =>
  let b := eArg e 0 4
  if (s.bufSlots q b).isNone ∨ s.flag .SE_BUF_CFG_KIND (bufIdx q b) = false then s.done e stInvalidTarget 0
  else (s.moveHead q b 1).done e stSuccess 0)

/-- ADVANCE (0x03.1, R203): a ring. -/
def cmdAdvance (s : State) (e : SubEntry) : State := s.command e 0x301 (fun (s : State) q =>
  let b := eArg e 0 4
  let n := eArg e 8 7
  if n = 0 ∨ 64 < n then s.done e stInvalidDescriptor 0
  else if (s.bufSlots q b).isNone ∨ s.flag .SE_BUF_CFG_KIND (bufIdx q b) = true then s.done e stInvalidTarget 0
  else (s.moveHead q b n).done e stSuccess 0)

/-- BARRIER (0x03.2, R210). -/
def cmdBarrier (s : State) (e : SubEntry) : State := s.command e 0x302 (fun (s : State) q =>
  (s.cpWrite (0xB8000 + 0x200 * q + 8 * eArg e 0 6) (eArg e 32 32)).done e stSuccess 0)

/-- BUF_CFG (0x03.3): busy while a stream or claim uses the buffer. -/
def cmdBufCfg (s : State) (e : SubEntry) : State := s.command e 0x303 (fun (s : State) q =>
  let b := eArg e 0 4
  if s.bufUsed q b then s.done e stBusy 0
  else ((s.cpWrite (0xB4000 + 0x100 * q + 0x10 * b) (eArg e 64 64)).cpWrite (0xB400C + 0x100 * q + 0x10 * b) (eArg e 128 32)).done
    e stSuccess 0)

/-- The region of a loaded codebook slot, in 64-byte units. -/
def cbRegion (s : State) (k : Nat) : Nat × Nat :=
  let img := ((s.codebooks.find? (fun e => e.1 == k)).map (·.2)).getD []
  (s.rd .CB_SLOT_BASE k, (img.length + 63) / 64)

/-- Whether `n` store units at `base` are free in every unit of `units` (R179). -/
def cbFits (s : State) (units base n : Nat) : Bool :=
  decide (base + n ≤ 4096) && (List.range 256).all (fun k =>
    let r := s.cbRegion k
    !(s.flag .CB_SLOT_VALID k || s.flag .CB_SLOT_UNLOADING k) || (s.rd .CB_SLOT_UNITS k &&& units) == 0 ||
      decide (base + n ≤ r.1) || decide (r.1 + r.2 ≤ base))

/-- CB_LOAD (0x04.0, R179): BASE is the lowest offset at which the image fits (log entry 41, DESIGN CHOICE). -/
def cmdCbLoad (s : State) (e : SubEntry) : State := s.command e 0x400 (fun (s : State) q =>
  let k := eArg e 0 8
  let units := eArg e 16 16
  let va := eArg e 64 64
  if (List.range 16).any (fun u => bitsOf units u 1 == 1 && !(decide (u < s.nStacks) || (decide (12 ≤ u) && decide (u < 12 + s.nBays)))) then
    s.done e stInvalidTarget 0
  else if s.flag .CB_SLOT_VALID k ∨ s.flag .CB_SLOT_UNLOADING k then s.done e stCodebookRefused 0
  else match s.vread (cpClient q (eTag e)) va 64 with
    | (s, .error c) => s.doneWith e (accessStatus c) 0
    | (s, .ok (_, true)) => s.done e stPoisonedData 0
    | (s, .ok (h, false)) =>
      let n := min (cbEntries h) 4096
      match s.vread (cpClient q (eTag e)) va (1088 + n * modeW (cbFmt h) / 2) with
      | (s, .error c) => s.doneWith e (accessStatus c) 0
      | (s, .ok (_, true)) => s.done e stPoisonedData 0
      | (s, .ok (img, false)) =>
        if !cbImageOk img then s.done e stInvalidDescriptor 0
        else match (List.range 4096).find? (fun b => s.cbFits units b ((img.length + 63) / 64)) with
          | none => s.done e stCodebookRefused 0
          | some b =>
            let s1 := (((s.wr .CB_SLOT_OWNER k q).wr .CB_SLOT_FMT k (cbFmt img)).wr .CB_SLOT_ENTRIES k n).wr .CB_SLOT_BASE k b
            { (s1.wr .CB_SLOT_UNITS k units).mark .CB_SLOT_VALID k with codebooks := s1.codebooks ++ [(k, img)] }.done e stSuccess 0)

/-- CB_UNLOAD (0x04.1, R180). -/
def cmdCbUnload (s : State) (e : SubEntry) : State := s.command e 0x401 (fun (s : State) q =>
  let k := eArg e 0 8
  if !(s.flag .CB_SLOT_VALID k || s.flag .CB_SLOT_UNLOADING k) then s.done e stSuccess 0
  else if s.rd .CB_SLOT_OWNER k ≠ q then s.done e stInvalidTarget 0
  else { s.mark .CB_SLOT_UNLOADING k with late := s.late ++ [(⟨e.page, e.source, eTag e, .slotFree k⟩ : Late)] })

/-- VERDICT (0x05.0, R245). -/
def cmdVerdict (s : State) (e : SubEntry) : State := s.command e 0x500 (fun (s : State) q =>
  let (s1, ok) := (s.wr .UU_Q_CLIP_CLIP q (eArg e 64 32)).giveVerdict q (eArg e 0 32) (eArg e 32 1 == 1)
  if ok then s1.done e stSuccess (s1.rd .UU_STEP_EXPECT_VSEQ q + 2 ^ 32 * s1.rd .UU_Q_KEEP_APPLY q + 2 ^ 40 * s1.rd .UU_Q_KEEP_E q)
  else s1.done e stStepMismatch 0)

/-- SET_SCALE (0x05.1). -/
def cmdSetScale (s : State) (e : SubEntry) : State := s.command e 0x501 (fun (s : State) q =>
  if 24 < eArg e 0 5 then s.done e stInvalidDescriptor 0
  else
    let s1 := (s.wr .UU_Q_KEEP_E q (eArg e 0 5)).wr .UU_Q_KEEP_CLEAN q 0
    let s2 := if eArg e 16 16 = 0 then s1 else s1.wr .UU_Q_KEEP_INTERVAL q (eArg e 16 16)
    (if eArg e 33 1 = 1 then s2.wr .UU_Q_KEEP_HW q (eArg e 32 1) else s2).done e stSuccess 0)

/-- SET_STEP (0x05.2). -/
def cmdSetStep (s : State) (e : SubEntry) : State := s.command e 0x502 (fun (s : State) q =>
  (s.wr .UU_STEP_EXPECT_STEP q (eArg e 0 32)).done e stSuccess 0)

/-- JOURNAL (0x05.3): busy under R261. -/
def cmdJournal (s : State) (e : SubEntry) : State := s.command e 0x503 (fun (s : State) q =>
  if s.slotsHeld q then s.done e stBusy 0
  else ((s.wr .UU_Q_JRNL_OFFSET q (eArg e 0 29)).wr .UU_Q_JRNL_EN q (eArg e 63 1)).done e stSuccess 0)

/-- HIST (0x06.0, R123, R323): the 69 words are copied, and the slot cleared, as they stand. A copy whose write faults leaves the slot as it is: log
entry 97, DESIGN CHOICE. -/
def cmdHist (s : State) (e : SubEntry) : State := s.command e 0x600 (fun (s : State) q =>
  let slot := eArg e 0 6
  let va := eArg e 64 64
  if va % 64 ≠ 0 then s.done e stInvalidDescriptor 0
  else
    let sl := 64 * q + slot
    let clear := decide (eArg e 6 1 = 1)
    -- with CLEAR no commit falls between the copy and the clear: those of the same cycle are after both
    let words := if clear then ((s.histOf sl).map (·.was)).getD (s.histRead sl) else s.histRead sl
    match s.vwrite (cpClient q (eTag e)) va (words.flatMap (fun w => toBytes w 8)) with
    | (s, .ok _) => (if clear then s.histClear q slot else s).done e stSuccess 0
    | (s, .error c) => s.doneWith e (accessStatus c) 0)

end State

/-- NOP. -/
def execNop (e : SubEntry) (s : State) : Host.Outcome State Fault Refusal := .next (s.cmdNop e)
/-- VERSION (R332). -/
def execVersion (e : SubEntry) (s : State) : Host.Outcome State Fault Refusal := .next (s.cmdVersion e)
/-- SUBMIT (R319). -/
def execSubmit (e : SubEntry) (s : State) : Host.Outcome State Fault Refusal := .next (s.cmdSubmit e)
/-- PLAN (R322). -/
def execPlan (e : SubEntry) (s : State) : Host.Outcome State Fault Refusal := .next (s.cmdPlan e)
/-- INVALIDATE (R139, R142). -/
def execInvalidate (e : SubEntry) (s : State) : Host.Outcome State Fault Refusal := .next (s.cmdInvalidate e)
/-- ABORT_FAULT (R142). -/
def execAbortFault (e : SubEntry) (s : State) : Host.Outcome State Fault Refusal := .next (s.cmdAbortFault e)
/-- FQ_HEAD. -/
def execFqHead (e : SubEntry) (s : State) : Host.Outcome State Fault Refusal := .next (s.cmdFqHead e)
/-- MMU_CFG (R44, R139). -/
def execMmuCfg (e : SubEntry) (s : State) : Host.Outcome State Fault Refusal := .next (s.cmdMmuCfg e)
/-- RELEASE_KEEP (R131). -/
def execReleaseKeep (e : SubEntry) (s : State) : Host.Outcome State Fault Refusal := .next (s.cmdReleaseKeep e)
/-- UNIT (R127, R167). -/
def execUnit (e : SubEntry) (s : State) : Host.Outcome State Fault Refusal := .next (s.cmdUnit e)
/-- HOST_WIN (R148). -/
def execHostWin (e : SubEntry) (s : State) : Host.Outcome State Fault Refusal := .next (s.cmdHostWin e)
/-- SWAP (R203). -/
def execSwap (e : SubEntry) (s : State) : Host.Outcome State Fault Refusal := .next (s.cmdSwap e)
/-- ADVANCE (R203). -/
def execAdvance (e : SubEntry) (s : State) : Host.Outcome State Fault Refusal := .next (s.cmdAdvance e)
/-- BARRIER (R210). -/
def execBarrier (e : SubEntry) (s : State) : Host.Outcome State Fault Refusal := .next (s.cmdBarrier e)
/-- BUF_CFG. -/
def execBufCfg (e : SubEntry) (s : State) : Host.Outcome State Fault Refusal := .next (s.cmdBufCfg e)
/-- CB_LOAD (R179). -/
def execCbLoad (e : SubEntry) (s : State) : Host.Outcome State Fault Refusal := .next (s.cmdCbLoad e)
/-- CB_UNLOAD (R180). -/
def execCbUnload (e : SubEntry) (s : State) : Host.Outcome State Fault Refusal := .next (s.cmdCbUnload e)
/-- VERDICT (R245). -/
def execVerdict (e : SubEntry) (s : State) : Host.Outcome State Fault Refusal := .next (s.cmdVerdict e)
/-- SET_SCALE. -/
def execSetScale (e : SubEntry) (s : State) : Host.Outcome State Fault Refusal := .next (s.cmdSetScale e)
/-- SET_STEP. -/
def execSetStep (e : SubEntry) (s : State) : Host.Outcome State Fault Refusal := .next (s.cmdSetStep e)
/-- JOURNAL (R261). -/
def execJournal (e : SubEntry) (s : State) : Host.Outcome State Fault Refusal := .next (s.cmdJournal e)
/-- HIST (R123, R323). -/
def execHist (e : SubEntry) (s : State) : Host.Outcome State Fault Refusal := .next (s.cmdHist e)

end Sys2Proof.Machine
end

