-- ==== Sys2Proof/Machine/CommandsB.lean ====
section
/-! DEFINITION. Doresque commands of classes 0x07 to 0x0C (Tables 14-5, 16-6, 17-6, 18-6), and the attempts to unlock the debug port
(R379, R380). -/

namespace Sys2Proof.Machine

/-- Width, polynomial, reflected, final XOR and reset value of a CRC engine (Table 16-5). -/
def crcEngine : Nat → Nat × Nat × Bool × Nat × Nat
  | 0 => (32, 0x1EDC6F41, true, 0xFFFFFFFF, 0xFFFFFFFF)
  | 1 => (32, 0x04C11DB7, true, 0xFFFFFFFF, 0xFFFFFFFF)
  | 2 => (64, 0x42F0E1EBA9EA3693, false, 0, 0)
  | _ => (16, 0x1021, false, 0, 0xFFFF)

/-- A job of CRC engine `k` over bytes; `init` where USE_INIT is 1 (R361). -/
def crcJob (k : Nat) (init : Option Nat) (bs : List Byte) : Nat :=
  let (w, poly, refl, fin, rst) := crcEngine k
  let i := match init with
    | some v => v % 2 ^ w
    | none => rst
  Nat.xor (if refl then crcRefl w poly i bs else crcPlain w poly i bs) fin

namespace State

/-- CONFIG (0x07.0): stages GRID_Q_STRIPS, PLZ_Q_CFG, TOK_Q_SHARE, SE_Q_TAGS and FE_Q_CFG, and writes PT_Q_CFG. A value that a write of
its register would discard is out of range. -/
def cmdConfig (s : State) (e : SubEntry) : State := s.command e 0x700 (fun (s : State) q =>
  if 16 < eArg e 4 5 ∨ 12 < eArg e 9 4 ∨ 512 < eArg e 26 10 ∨ 1024 < eArg e 37 11 ∨ eArg e 50 2 = 3 then
    s.done e stInvalidDescriptor 0
  else
    let s1 := (((s.wr .GRID_Q_STRIPS_FIRST q (eArg e 0 4)).wr .GRID_Q_STRIPS_COUNT q (eArg e 4 5)).syncPending q).setH .sizeBy q (pageFn e.page + 1)
    let s2 := (s1.wr .PLZ_Q_CFG_SCRATCH_WAYS q (eArg e 9 4)).wr .TOK_Q_SHARE_SHARE q (eArg e 13 13)
    let s3 := (s2.wr .SE_Q_TAGS_TAGS q (eArg e 26 10)).wr .SE_Q_TAGS_AUTO q (eArg e 36 1)
    let s4 := (s3.wr .FE_Q_CFG_CREDITS q (eArg e 37 11)).wr .FE_Q_CFG_AUTO q (eArg e 48 1)
    let s5 := (s4.wr .PT_Q_CFG_HOST_PORT q (eArg e 49 1)).wr .PT_Q_CFG_INT_ROUTE q (eArg e 50 2)
    let s6 := (s5.wr .PT_Q_CFG_HOLDOFF q (eArg e 52 8)).wr .PT_Q_CFG_REQ_IDE q (eArg e 60 1)
    (s6.wr .PT_Q_CFG_B2_BASE q (eArg e 64 16)).done e stSuccess 0)

/-- HALT (0x07.1, R326, R327): RESULT0 counts the operations frozen. A halted quarter stays halted, and DISPOSE takes effect. -/
def cmdHalt (s : State) (e : SubEntry) : State := s.command e 0x701 (fun (s : State) q =>
  (s.haltQuarter q (eArg e 0 1 == 1)).done e stSuccess (s.executing q))

/-- RELEASE (0x07.2, R327): staged for cycle 0 of the next turn. -/
def cmdRelease (s : State) (e : SubEntry) : State := s.command e 0x702 (fun (s : State) q =>
  (if s.h .halted q = 1 then s.setH .releaseStaged q 1 else s).done e stSuccess 0)

/-- CORES (0x07.3, R295). -/
def cmdCores (s : State) (e : SubEntry) : State := s.command e 0x703 (fun (s : State) q =>
  (s.cpWrite (0x130000 + 0x100 * q) (2 ^ 61 * eArg e 0 3 + 2 ^ 2 * eArg e 64 54)).done e stSuccess 0)

/-- PF_WIN (0x07.4, R270). -/
def cmdPfWin (s : State) (e : SubEntry) : State := s.command e 0x704 (fun (s : State) q =>
  (s.cpWrite (0x128100 + 0x1000 * eArg e 0 1) (2 ^ 63 * eArg e 1 1 + 2 ^ 56 * q + 2 ^ 36 * eArg e 64 16)).done e stSuccess 0)

/-- BANK (0x07.5, R214): stages BANK_CFG with OWNER set to the quarter. -/
def cmdBank (s : State) (e : SubEntry) : State := s.command e 0x705 (fun (s : State) q =>
  let k := eArg e 0 4
  if s.nStacks ≤ k then s.done e stInvalidTarget 0
  else
    let s1 := ((s.wr .BANK_CFG_EN k (eArg e 4 1)).wr .BANK_CFG_FIRST k (eArg e 5 7)).wr .BANK_CFG_COUNT k (eArg e 12 7)
    (((s1.wr .BANK_CFG_TOKENS k (eArg e 32 21)).wr .BANK_CFG_OWNER k q).setH .bankBy k (pageFn e.page + 1)).done e stSuccess 0)

/-- FENCE (0x07.6, R74). -/
def cmdFence (s : State) (e : SubEntry) : State := s.command e 0x706 (fun (s : State) _ =>
  if s.nCols ≤ eArg e 0 11 ∨ 1040 ≤ eArg e 11 11 then s.done e stInvalidTarget 0
  else (s.fenceReq (eArg e 0 11) (eArg e 11 11) 0 false).done e stSuccess 0)

/-- UNFENCE (0x09.5, R74): the MC serves it, and asks the CP for the write of GRID_FENCE_REQ (R17). -/
def cmdUnfence (s : State) (e : SubEntry) : State := s.command e 0x905 (fun (s : State) _ =>
  (s.mcAsk 0x41c08 (2 ^ 22 + 2 ^ 11 * eArg e 11 11 + eArg e 0 11)).done e stSuccess 0)

/-- ROUTE (0x08.0, R301): FE_Q_RT with GO. -/
def cmdRoute (s : State) (e : SubEntry) : State := s.command e 0x800 (fun (s : State) q =>
  ((s.wr .FE_Q_RT_VA q (eArg e 0 64 / 64)).setH .rtStaged q (pageFn e.page + 1)).done e stSuccess 0)

/-- FABRIC_CFG (0x08.1): busy while the quarter holds a send record. -/
def cmdFabricCfg (s : State) (e : SubEntry) : State := s.command e 0x801 (fun (s : State) q =>
  if s.feTx.any (fun (x : FeTx) => x.q == q) then s.done e stBusy 0
  else (((s.wr .FE_Q_CFG_RX_EN q (eArg e 0 1)).wr .FE_Q_CFG_RX_OFF q (eArg e 1 20)).wr .FE_Q_LOG_VA q (eArg e 64 64 / 4096)).done
    e stSuccess 0)

/-- MOD_ID (0x08.2, R300). -/
def cmdModId (s : State) (e : SubEntry) : State := s.command e 0x802 (fun (s : State) _ =>
  (s.wr .FE_MOD_ID_MOD_ID 0 (eArg e 0 16)).done e stSuccess 0)

/-- LINK (0x08.3, R286, R287): the port retrains; a port that is up enters Recovery. -/
def cmdLink (s : State) (e : SubEntry) : State := s.command e 0x803 (fun (s : State) _ =>
  let p := eArg e 0 1
  let rate := eArg e 1 3
  if rate = 0 ∨ 6 < rate then s.done e stInvalidDescriptor 0
  else
    let s1 := (if s.flag .PT_LINK_STAT_UP p then s.bump .PT_LINK_STAT_RECOV p 1 else s).setH .linkReq p (1 + rate + 16 * eArg e 4 1)
    { s1 with late := s1.late ++ [(⟨e.page, e.source, eTag e, .linkUp p⟩ : Late)] })

/-- The MC reads a signed object at a bus address, through the page's port (R381). Log entry 39, DEDUCED. -/
def readObject (s : State) (page a n : Nat) : List Byte :=
  if s.flag .PT_LINK_STAT_UP (s.pagePort page) then s.memBytes 3 0 a n else []

/-- The module writes bytes at a bus address through the page's port. -/
def putHost (s : State) (page a : Nat) (d : List Byte) : State :=
  if s.flag .PT_LINK_STAT_UP (s.pagePort page) then s.setBytes 3 0 a d else s

/-- FW_LOAD (0x09.0, R331). -/
def cmdFwLoad (s : State) (e : SubEntry) : State := s.command e 0x900 (fun (s : State) _ =>
  let mfw := eArg e 0 1 == 1
  let slot := 1 - s.rd (if mfw then .FW_STATE_MFW_SLOT else .FW_STATE_CFW_SLOT) 0
  let b := s.readObject e.page (eArg e 64 64) (eArg e 128 32)
  if s.h .selStaged (eArg e 0 1) = slot + 1 ∨ (!mfw && !s.spareUp) = true then s.done e stBusy 0
  else if !s.authentic (if mfw then 1 else 2) b then s.done e stNotAuthentic 0
  else if mfw then (s.setObj (objMfw + slot) b).done e stSuccess 0
  else (((s.setObj (objCfw + slot) b).setH .spareImg 0 (slot + 1)).wr .RES_STAT_CP_SPARE 0 0).done e stSuccess 0)

/-- FW_SELECT (0x09.1, R331, R368). -/
def cmdFwSelect (s : State) (e : SubEntry) : State := s.command e 0x901 (fun (s : State) _ =>
  let mfw := eArg e 0 1 == 1
  let slot := eArg e 1 1
  let img := s.obj ((if mfw then objMfw else objCfw) + slot)
  let c := s.h .selStaged 0
  let m := s.h .selStaged 1
  let cv := if !mfw then objVersion img else if c = 0 then s.rd .FW_STATE_CFW_VER 0 else objVersion (s.obj (objCfw + (c - 1)))
  let mv := if mfw then objVersion img else if m = 0 then s.rd .FW_STATE_MFW_VER 0 else objVersion (s.obj (objMfw + (m - 1)))
  if !s.authentic (if mfw then 1 else 2) img then s.done e stNotAuthentic 0
  else if (s.coverage cv mv).isNone then s.done e stIncompatible 0
  else if !mfw ∧ (s.spareUp = false ∨ s.h .spareImg 0 ≠ slot + 1) then s.done e stBusy 0
  else ((s.setH .selStaged (eArg e 0 1) (slot + 1)).mark .FW_STATE_SWAP_PEND 0).done e stSuccess 0)

/-- A load that makes the active triple covered ends restricted service at the next turn end (R330). -/
def afterLoad (s : State) : State :=
  if s.rd .FW_STATE_SERVICE 0 = 1 ∧ s.covered.isSome then s.setH .svcEnd 0 1 else s

/-- MANIFEST (0x09.2, R330). -/
def cmdManifest (s : State) (e : SubEntry) : State := s.command e 0x902 (fun (s : State) _ =>
  let b := s.readObject e.page (eArg e 64 64) (eArg e 128 32)
  let held := s.obj objManifest
  if !s.authentic 3 b then s.done e stNotAuthentic 0
  else if !held.isEmpty && decide (objVersion b ≤ objVersion held) then s.done e stVersionRefused 0
  else (((s.setObj objManifest b).setObj objManifestUse b).afterLoad).done e stSuccess 0)

/-- OVERRIDE (0x09.3, R330): a removal takes effect at the next reset. -/
def cmdOverride (s : State) (e : SubEntry) : State := s.command e 0x903 (fun (s : State) _ =>
  if eArg e 0 1 = 1 then (s.setObj objPolicy []).done e stSuccess 0
  else
    let b := s.readObject e.page (eArg e 64 64) (eArg e 128 32)
    if !s.authentic 4 b then s.done e stNotAuthentic 0
    else (((s.setObj objPolicy b).setObj objPolicyUse b).afterLoad).done e stSuccess 0)

/-- Where Table 7-3 allows a hard repair or a pattern test: a retired PC, or a stack LOST or not in service. -/
def repairFree (s : State) (k p : Nat) : Bool :=
  !(s.rd .STK_STAT_STATE k == 1 || s.rd .STK_STAT_STATE k == 2) ||
    (s.rd .STK_STAT_STATE k == 2 && s.rd .STK_STAT_RPC k == p)

/-- A pattern test overwrites what PC `p` of stack `k` holds (R168); what it leaves there is free (log entry 17, DESIGN CHOICE). -/
def patternTest (s : State) (k p : Nat) : State :=
  let keys := (s.mem.map Prod.fst).filter (fun x => x % 4 == 1 && x / 4 % 16 == k && x / 64 / 1024 % 64 == p)
  keys.foldl (fun (s : State) (x : Nat) =>
    let (c, s) := s.fresh
    s.setByte 1 k (x / 64) (BitVec.ofNat 8 (Config.openValue c))) s

/-- REPAIR (0x09.4, R168, Table 7-3): row repairs wait for a boundary window. Whether a pattern test or margin scan fails is a free
value (log entry 17, DESIGN CHOICE); where KIND does not apply, the target is invalid (log entry 40, DESIGN CHOICE). -/
def cmdRepair (s : State) (e : SubEntry) : State := s.command e 0x904 (fun (s : State) _ =>
  let k := eArg e 0 4
  let p := eArg e 4 6
  let lane := eArg e 18 6
  let test := fun (s : State) =>
    let (c, s) := s.fresh
    s.done e stSuccess (2 * (Config.openValue c % 2))
  if 5 < eArg e 10 4 then s.done e stInvalidDescriptor 0
  else if s.nStacks ≤ k then s.done e stInvalidTarget 0
  else match eArg e 10 4 with
    | 1 => if s.repairFree k p then State.done { s with repairs := s.repairs ++ [⟨k, p, 1, eArg e 14 4, eArg e 32 32, true⟩] } e stSuccess 0
      else s.done e stInvalidTarget 0
    | 3 =>
      let i := pcIdx k p
      if 35 ≤ lane ∨ s.flag .STK_PC_ERR_SPARE_USED i then s.done e stInvalidTarget 0
      else (s.setH .spareWant i (lane + 1)).done e stSuccess 1
    | 4 => if s.repairFree k p then test (s.patternTest k p) else s.done e stInvalidTarget 0
    | 5 => test s
    | kind => if kind = 2 ∧ 256 ≤ (s.repairs.filter (fun r => r.stack == k && r.pc == p && r.kind == 2)).length then s.done e stInvalidTarget 0
      else State.done { s with repairs := s.repairs ++ [⟨k, p, kind, eArg e 14 4, eArg e 32 32, false⟩] } e stSuccess 1)

/-- SNAP_READ (0x0A.0). -/
def cmdSnapRead (s : State) (e : SubEntry) : State := s.command e 0xA00 (fun (s : State) _ =>
  let off := eArg e 0 64
  let n := eArg e 64 32
  match s.snap with
  | some p =>
    if s.flag .SNAP_STAT_BUSY 0 ∨ s.flag .SNAP_STAT_VALID 0 = false then s.done e stBusy 0
    else if n % 64 ≠ 0 ∨ s.imageSize < off + n then s.done e stInvalidDescriptor 0
    else (s.putHost e.page (eArg e 128 64) (s.imageBytes p off n)).done e stSuccess 0
  | none => s.done e stBusy 0)

/-- An entry of the management log (R356). -/
def logEntry (s : State) (i : Nat) : List Byte := toBytes (s.h .mcLog (2 * i)) 8 ++ toBytes (s.h .mcLog (2 * i + 1)) 8

/-- ERR_LOG_READ (0x0A.1, R356). -/
def cmdErrLogRead (s : State) (e : SubEntry) : State := s.command e 0xA01 (fun (s : State) _ =>
  let head := s.rd .MC_ERR_PTR_HEAD 0
  let n := min (eArg e 0 8) ((s.rd .MC_ERR_PTR_TAIL 0 + 256 - head) % 256)
  let d := (List.range n).flatMap (fun i => s.logEntry ((head + i) % 256))
  ((s.putHost e.page (eArg e 64 64) d).wr .MC_ERR_PTR_HEAD 0 ((head + n) % 256)).done e stSuccess n)

/-- The end of a scan over the bytes `bs` (R361, R363). -/
def endScan (s : State) (e : SubEntry) (bs : List Byte) : State :=
  let crc := crcJob (eArg e 0 2) (if eArg e 6 1 = 1 then some (eArg e 256 64) else none) bs
  let guard := eArg e 4 1 == 1
  let alive := if guard then ofBytes (bs.drop (bs.length - 4)) else 0
  let d := (alive + 2 ^ 32 - eArg e 192 32) % 2 ^ 32
  let stale := guard && (d == 0 || decide (2 ^ 31 ≤ d))
  let mismatch := eArg e 5 1 == 1 && crc != eArg e 320 64
  s.complete e.page ⟨eTag e, e.source, stSuccess, 0, false, 0, crc,
    some (alive + (if stale then 2 ^ 32 else 0) + (if mismatch then 2 ^ 33 else 0))⟩

/-- SCAN (0x0A.2, R361 to R363). An empty firmware slot is an invalid target (log entry 40, DESIGN CHOICE). Log entry 72, DEDUCED. -/
def cmdScan (s : State) (e : SubEntry) : State := s.command e 0xA02 (fun (s : State) q =>
  let start := eArg e 64 64
  let n := eArg e 128 64
  let space := eArg e 2 2
  let short := eArg e 4 1 == 1 && decide (n < 4)
  if space = 3 ∨ (space = 2 ∧ (n ≠ 0 ∨ 4 ≤ start)) ∨ (space < 2 ∧ (n = 0 ∨ 2 ^ 40 < n ∨ short = true)) then
    s.done e stInvalidDescriptor 0
  else if space = 2 then
    let img := s.obj (objCfw + start)
    if img.isEmpty then s.done e stInvalidTarget 0 else s.endScan e img
  else if space = 1 then
    match s.snap with
    | some p =>
      if s.flag .SNAP_STAT_BUSY 0 ∨ s.flag .SNAP_STAT_VALID 0 = false then s.done e stBusy 0
      else if s.imageSize < start + n then s.done e stInvalidDescriptor 0
      else s.endScan e (s.imageBytes p start n)
    | none => s.done e stBusy 0
  else match s.vread ⟨q, ⟨7, 15⟩, eTag e, none⟩ start n with
    | (s, .error c) => s.doneWith e (accessStatus c) 0
    | (s, .ok (_, true)) => s.done e stPoisonedData 0
    | (s, .ok (d, false)) => s.endScan e d)

/-- A staged key action (R374, R375): 1 KEY_NEW, 2 KEY_ERASE. -/
def keyCommand (s : State) (e : SubEntry) (action : Nat) : State :=
  let q := eArg e 0 4
  if s.nQ ≤ q then s.done e stInvalidTarget 0
  else if s.flag .SEC_STAT_DBG_OPEN 0 then s.done e stNotPermitted 0
  else
    let s1 := s.setH .keyStage q action
    { s1 with late := s1.late ++ [(⟨e.page, e.source, eTag e, .keyApplied q⟩ : Late)] }

/-- KEY_NEW (0x0B.0). -/
def cmdKeyNew (s : State) (e : SubEntry) : State := s.command e 0xB00 (fun (s : State) _ => s.keyCommand e 1)

/-- KEY_ERASE (0x0B.1). -/
def cmdKeyErase (s : State) (e : SubEntry) : State := s.command e 0xB01 (fun (s : State) _ => s.keyCommand e 2)

/-- The current nonce (R379): zero after three failures. -/
def nonceNow (s : State) : Nat :=
  if s.rd .SEC_STAT_UNLOCK_FAILS 0 = 3 then 0 else Config.nonce (s.h .nonceNo 0) % 2 ^ 256

/-- DEBUG_NONCE (0x0B.2). -/
def cmdDebugNonce (s : State) (e : SubEntry) : State := s.command e 0xB02 (fun (s : State) _ =>
  (s.putHost e.page (eArg e 64 64) (toBytes s.nonceNow 32)).done e stSuccess (s.rd .SEC_STAT_UNLOCK_FAILS 0))

/-- Whether a token is accepted (R379). -/
def tokenGood (s : State) (b : List Byte) : Bool :=
  s.authentic 5 b && objSerial b == s.rd .SEC_SERIAL_SERIAL 0 && objNonce b == s.nonceNow && objScope b != 0

/-- Step 2 of R380: lines of ENC pages are written back and leave plaza. -/
def flushEnc (s : State) : State := s.flushLines (s.plaza.filter (fun (l : PLine) => s.encOf l.tier l.unit l.addr != 0))

/-- An unlock attempt with a token (R379, R380), and whether it is accepted: an attempt while ERASE_PEND or DBG_OPEN is set, or after
three failures, is refused without counting. -/
def tryUnlock (s : State) (b : List Byte) : State × Bool :=
  if s.flag .SEC_STAT_ERASE_PEND 0 ∨ s.flag .SEC_STAT_DBG_OPEN 0 ∨ s.rd .SEC_STAT_UNLOCK_FAILS 0 = 3 then (s.addH .nonceNo 0 1, false)
  else
    let ok := s.tokenGood b
    let s := s.addH .nonceNo 0 1
    if ok then
      let s1 := ((s.setObj objToken b).mark .SEC_STAT_ERASE_PEND 0).haltAll
      (s1.holdCores.flushEnc.setH .eraseReady 0 (1 + s.now + 98304), true)
    else (s.wr .SEC_STAT_UNLOCK_FAILS 0 (s.rd .SEC_STAT_UNLOCK_FAILS 0 + 1), false)

/-- DEBUG_UNLOCK (0x0B.3). -/
def cmdDebugUnlock (s : State) (e : SubEntry) : State := s.command e 0xB03 (fun (s : State) _ =>
  let (s1, ok) := s.tryUnlock (s.readObject e.page (eArg e 64 64) (eArg e 128 32))
  if ok then { s1 with late := s1.late ++ [(⟨e.page, e.source, eTag e, .erased⟩ : Late)] } else s1.done e stNotAuthentic 0)

/-- SVN_COMMIT (0x0B.4, R368). -/
def cmdSvnCommit (s : State) (e : SubEntry) : State := s.command e 0xB04 (fun (s : State) _ =>
  if s.flag .FW_STATE_SWAP_PEND 0 then s.done e stBusy 0
  else
    let mfw := eArg e 0 1 == 1
    let f : Fld := if mfw then .SEC_STAT_SVN_MIN_MFW else .SEC_STAT_SVN_MIN_CFW
    let v := s.rd (if mfw then .SEC_STAT_SVN_MFW else .SEC_STAT_SVN_CFW) 0
    if s.rd f 0 < v then (s.wr f 0 v).newMeasurement.done e stSuccess v else s.done e stSuccess (s.rd f 0))

/-- KEY_REVOKE (0x0B.5, R367). -/
def cmdKeyRevoke (s : State) (e : SubEntry) : State := s.command e 0xB05 (fun (s : State) _ =>
  let b := s.readObject e.page (eArg e 64 64) (eArg e 128 32)
  let gone := s.rd .SEC_STAT_REVOKED 0 ||| objScope b
  if !s.authentic 6 b || bitsOf (objScope b) (objKey b) 1 == 1 || gone == 15 then s.done e stNotAuthentic 0
  else (s.wr .SEC_STAT_REVOKED 0 gone).newMeasurement.done e stSuccess gone)

/-- POWER_CAP (0x0C.0): a value that CAP_SET discards leaves it as it was. -/
def cmdPowerCap (s : State) (e : SubEntry) : State := s.command e 0xC00 (fun (s : State) _ =>
  let v := eArg e 0 11
  let s1 := if 100 ≤ v ∧ v ≤ s.capW then s.wr .PWR_CFG_CAP_SET 0 v else s
  s1.done e stSuccess (s1.rd .PWR_CFG_CAP_SET 0))

/-- POWER_READ (0x0C.1). -/
def cmdPowerRead (s : State) (e : SubEntry) : State := s.command e 0xC01 (fun (s : State) _ =>
  s.done e stSuccess (s.regVal .PWR_STAT 0))

/-- THERM_CFG (0x0C.2). -/
def cmdThermCfg (s : State) (e : SubEntry) : State := s.command e 0xC02 (fun (s : State) _ =>
  let l := eArg e 0 8
  let r := eArg e 8 8
  if l < 70 ∨ 95 < l ∨ l ≤ r then s.done e stInvalidDescriptor 0
  else ((s.wr .PWR_CFG_THERM_LIMIT 0 l).wr .PWR_CFG_THERM_RESUME 0 r).done e stSuccess 0)

end State

/-- CONFIG (R39, R66, R195). -/
def execConfig (e : SubEntry) (s : State) : Host.Outcome State Fault Refusal := .next (s.cmdConfig e)
/-- HALT (R326, R327). -/
def execHalt (e : SubEntry) (s : State) : Host.Outcome State Fault Refusal := .next (s.cmdHalt e)
/-- RELEASE (R327). -/
def execRelease (e : SubEntry) (s : State) : Host.Outcome State Fault Refusal := .next (s.cmdRelease e)
/-- CORES (R295). -/
def execCores (e : SubEntry) (s : State) : Host.Outcome State Fault Refusal := .next (s.cmdCores e)
/-- PF_WIN (R270). -/
def execPfWin (e : SubEntry) (s : State) : Host.Outcome State Fault Refusal := .next (s.cmdPfWin e)
/-- BANK (R214). -/
def execBank (e : SubEntry) (s : State) : Host.Outcome State Fault Refusal := .next (s.cmdBank e)
/-- FENCE (R74). -/
def execFence (e : SubEntry) (s : State) : Host.Outcome State Fault Refusal := .next (s.cmdFence e)
/-- UNFENCE (R74). -/
def execUnfence (e : SubEntry) (s : State) : Host.Outcome State Fault Refusal := .next (s.cmdUnfence e)
/-- ROUTE (R301). -/
def execRoute (e : SubEntry) (s : State) : Host.Outcome State Fault Refusal := .next (s.cmdRoute e)
/-- FABRIC_CFG (R302). -/
def execFabricCfg (e : SubEntry) (s : State) : Host.Outcome State Fault Refusal := .next (s.cmdFabricCfg e)
/-- MOD_ID (R300). -/
def execModId (e : SubEntry) (s : State) : Host.Outcome State Fault Refusal := .next (s.cmdModId e)
/-- LINK (R286, R287). -/
def execLink (e : SubEntry) (s : State) : Host.Outcome State Fault Refusal := .next (s.cmdLink e)
/-- FW_LOAD (R331). -/
def execFwLoad (e : SubEntry) (s : State) : Host.Outcome State Fault Refusal := .next (s.cmdFwLoad e)
/-- FW_SELECT (R331). -/
def execFwSelect (e : SubEntry) (s : State) : Host.Outcome State Fault Refusal := .next (s.cmdFwSelect e)
/-- MANIFEST (R330). -/
def execManifest (e : SubEntry) (s : State) : Host.Outcome State Fault Refusal := .next (s.cmdManifest e)
/-- OVERRIDE (R330). -/
def execOverride (e : SubEntry) (s : State) : Host.Outcome State Fault Refusal := .next (s.cmdOverride e)
/-- REPAIR (R168). -/
def execRepair (e : SubEntry) (s : State) : Host.Outcome State Fault Refusal := .next (s.cmdRepair e)
/-- SNAP_READ (R352). -/
def execSnapRead (e : SubEntry) (s : State) : Host.Outcome State Fault Refusal := .next (s.cmdSnapRead e)
/-- ERR_LOG_READ (R356). -/
def execErrLogRead (e : SubEntry) (s : State) : Host.Outcome State Fault Refusal := .next (s.cmdErrLogRead e)
/-- SCAN (R361 to R363). -/
def execScan (e : SubEntry) (s : State) : Host.Outcome State Fault Refusal := .next (s.cmdScan e)
/-- KEY_NEW (R374). -/
def execKeyNew (e : SubEntry) (s : State) : Host.Outcome State Fault Refusal := .next (s.cmdKeyNew e)
/-- KEY_ERASE (R374). -/
def execKeyErase (e : SubEntry) (s : State) : Host.Outcome State Fault Refusal := .next (s.cmdKeyErase e)
/-- DEBUG_NONCE (R379). -/
def execDebugNonce (e : SubEntry) (s : State) : Host.Outcome State Fault Refusal := .next (s.cmdDebugNonce e)
/-- DEBUG_UNLOCK (R379, R380). -/
def execDebugUnlock (e : SubEntry) (s : State) : Host.Outcome State Fault Refusal := .next (s.cmdDebugUnlock e)
/-- SVN_COMMIT (R368). -/
def execSvnCommit (e : SubEntry) (s : State) : Host.Outcome State Fault Refusal := .next (s.cmdSvnCommit e)
/-- KEY_REVOKE (R367). -/
def execKeyRevoke (e : SubEntry) (s : State) : Host.Outcome State Fault Refusal := .next (s.cmdKeyRevoke e)
/-- POWER_CAP (R389). -/
def execPowerCap (e : SubEntry) (s : State) : Host.Outcome State Fault Refusal := .next (s.cmdPowerCap e)
/-- POWER_READ (R389). -/
def execPowerRead (e : SubEntry) (s : State) : Host.Outcome State Fault Refusal := .next (s.cmdPowerRead e)
/-- THERM_CFG (R389). -/
def execThermCfg (e : SubEntry) (s : State) : Host.Outcome State Fault Refusal := .next (s.cmdThermCfg e)

end Sys2Proof.Machine
end

