-- ==== Sys2Proof/Machine/Place.lean ====
section
/-! DEFINITION. The placement of objects (R151, R152). -/

namespace Sys2Proof.Machine

/-- A free run: first byte and length. -/
abbrev Run := Nat × Nat

/-- The free runs of every unit, by (tier, unit), in ascending address order. -/
abbrev FreeMap := List ((Nat × Nat) × List Run)

/-- An object placed, or not: ledger index, preference used (7 for none), tier, unit, address and size. -/
structure Placed where
  obj : Nat
  pref : Nat
  tier : Nat
  unit : Nat
  addr : Nat
  size : Nat
  deriving DecidableEq, Repr

/-- Joins neighbouring pieces of equal size `sz` whose indices are given in ascending order into runs. -/
def runsFrom (sz : Nat) : List Nat → List Run
  | [] => []
  | i :: is => match runsFrom sz is with
    | (a, n) :: rest => if i * sz + sz = a then (i * sz, n + sz) :: rest else (i * sz, sz) :: (a, n) :: rest
    | [] => [(i * sz, sz)]

/-- PREF of an entry: its tier. -/
def prefTier (p : Nat) : Nat := p - 1

/-- Whether an entry's codes are valid (R151). -/
def entryCodes (w : Nat) : Bool :=
  decide (bitsOf w 10 3 ≤ 4) && decide (bitsOf w 13 3 ≤ 4) && decide (bitsOf w 16 3 ≤ 4) && bitsOf w 19 2 != 3

/-- The size that an entry takes (R151). -/
def entrySize (w : Nat) : Nat :=
  let b := bitsOf w 192 64
  ((if b = 0 then bitsOf w 128 64 else b) + 65535) / 65536 * 65536

def freeOf (m : FreeMap) (t u : Nat) : List Run := match m.find? (fun e => e.1 == (t, u)) with
  | some e => e.2
  | none => []

def totalFree (rs : List Run) : Nat := (rs.map (fun (r : Run) => r.2)).sum
def largestFree (rs : List Run) : Nat := (rs.map (fun (r : Run) => r.2)).foldl max 0

/-- Takes `size` bytes at the start of the lowest run that holds them; the address, and the runs left. -/
def takeRun (size : Nat) : List Run → Option (Nat × List Run)
  | [] => none
  | (a, n) :: rest =>
    if size ≤ n then some (a, if n = size then rest else (a + size, n - size) :: rest)
    else (takeRun size rest).map (fun r => (r.1, (a, n) :: r.2))

/-- Units of a tier by most free, lowest index first among equals. -/
def unitOrder (m : FreeMap) (t : Nat) : List Nat :=
  ((m.filter (fun e => e.1.1 == t)).mergeSort (fun a b =>
    decide (totalFree b.2 < totalFree a.2) || (totalFree a.2 == totalFree b.2 && decide (a.1.2 ≤ b.1.2)))).map (fun e => e.1.2)

/-- One object by the preferences left, with their numbers (R151). -/
def placeOne (w : Nat) (m : FreeMap) : List (Nat × Nat) → Option (Placed × FreeMap)
  | [] => none
  | (k, p) :: ps =>
    if p = 0 then none
    else
      let t := prefTier p
      let size := entrySize w
      let units := if bitsOf w 5 1 = 1 then [bitsOf w 6 4] else unitOrder m t
      match units.find? (fun u => m.any (fun e => e.1 == (t, u)) && decide (size ≤ largestFree (freeOf m t u))) with
      | none => placeOne w m ps
      | some u =>
        match takeRun size (freeOf m t u) with
        | none => placeOne w m ps
        | some (a, rs) => some (⟨0, k, t, u, a, size⟩, m.map (fun e => if e.1 = (t, u) then (e.1, rs) else e))

/-- The objects in placement order (R151). -/
def placeAll : List (Nat × Nat) → FreeMap → List Placed
  | [], _ => []
  | (i, w) :: es, m =>
    match placeOne w m [(0, bitsOf w 10 3), (1, bitsOf w 13 3), (2, bitsOf w 16 3)] with
    | some (p, m1) => { p with obj := i } :: placeAll es m1
    | none => ⟨i, 7, 0, 0, 0, 0⟩ :: placeAll es m

/-- PRIO descending, then index ascending. -/
def placeOrder (es : List (Nat × Nat)) : List (Nat × Nat) :=
  es.mergeSort (fun a b => decide (bitsOf b.2 1 4 < bitsOf a.2 1 4) || (bitsOf a.2 1 4 == bitsOf b.2 1 4 && decide (a.1 ≤ b.1)))

/-- STATUS of the report. -/
def placeStatus (ps : List Placed) : Nat :=
  if ps.any (fun p => p.pref == 7) then 2 else if ps.any (fun p => p.pref != 0) then 1 else 0

/-- Bytes placed in a tier, of each object its size rounded up to 64 KiB. Log entry 98, DESIGN CHOICE. -/
def placedIn (ps : List Placed) (t : Nat) : Nat := ((ps.filter (fun p => p.pref != 7 && p.tier == t)).map (fun p => p.size)).sum

/-- The report (Table 6-10): `ms` is EST_HOST_MS. -/
def placeReport (ps : List Placed) (ms : Nat) : List Byte :=
  let n := fun (f : Placed → Bool) => (ps.filter f).length
  let hdr := placeStatus ps + 2 ^ 8 * ps.length + 2 ^ 32 * n (fun p => p.pref == 7) + 2 ^ 56 * n (fun p => p.pref == 1 || p.pref == 2) +
    2 ^ 128 * (placedIn ps 0 % 2 ^ 64) + 2 ^ 192 * (placedIn ps 1 % 2 ^ 64) + 2 ^ 256 * (placedIn ps 2 % 2 ^ 64) +
    2 ^ 320 * (placedIn ps 3 % 2 ^ 64) + 2 ^ 384 * (ms % 2 ^ 32)
  toBytes hdr 64 ++ ps.flatMap (fun p =>
    toBytes (p.obj % 2 ^ 24 + 2 ^ 24 * p.pref + 2 ^ 32 * p.tier + 2 ^ 34 * p.unit + 2 ^ 40 * (p.addr / 64 % 2 ^ 46)) 16)

/-- A ledger entry with its PLACED fields (Table 6-7). -/
def placedEntry (w : Nat) (p : Placed) : Nat :=
  w % 2 ^ 448 + 2 ^ 448 * p.tier + 2 ^ 450 * p.unit + 2 ^ 454 * bitsOf w 454 2 + 2 ^ 456 * (p.addr / 64 % 2 ^ 46) + 2 ^ 502 * bitsOf w 502 10

namespace State

/-- The owned capacity of a quarter (R151). -/
def ownedFree (s : State) (q : Nat) : FreeMap :=
  let tier0 := [((0, 0), if s.scratchBytes q = 0 then [] else [(0, s.scratchBytes q)])]
  let inStacks := (List.range s.nStacks).map (fun k => ((1, k), if s.rd .STK_STAT_STATE k = 1 ∨ s.rd .STK_STAT_STATE k = 2 then
    runsFrom (2 ^ 30) ((List.range 96).filter (fun i => s.rd .MEM_EXT_STATE (96 * k + i) == 1 && s.rd .MEM_EXT_OWNER (96 * k + i) == q))
    else []))
  let inBays := (List.range s.nBays).map (fun d => ((2, d), if s.rd .CRT_STAT_STATE d = 3 then
    runsFrom (2 ^ 34) ((List.range 64).filter (fun i => s.rd .MEM_LOT_STATE (64 * d + i) == 1 && s.rd .MEM_LOT_OWNER (64 * d + i) == q))
    else []))
  let lo := s.rd .MMU_HOST_WIN_BASE q
  let hi := s.rd .MMU_HOST_WIN_LIMIT q
  let inHost := [((3, 0), if s.flag .MMU_HOST_WIN_EN q ∧ lo ≤ hi then [(lo * 2 ^ 30, (hi + 1 - lo) * 2 ^ 30)] else [])]
  tier0 ++ inStacks ++ inBays ++ inHost

/-- Reads the ledger's valid entries from entry `i` on, as (index, entry); or the status of a failed read. `n` bounds them. -/
def readEntries (s : State) (q tag i : Nat) : Nat → State × Except Nat (List (Nat × Nat))
  | 0 => (s, .ok [])
  | n + 1 =>
    match s.vread (cpClient q tag) (s.ledgerVA q i) 64 with
    | (s, .error e) => (s, .error (accessStatus e))
    | (s, .ok (_, true)) => (s, .error stPoisonedData)
    | (s, .ok (d, false)) =>
      let w := ofBytes d
      if bitsOf w 0 1 = 1 ∧ !entryCodes w then (s, .error stInvalidDescriptor)
      else match readEntries s q tag (i + 1) n with
        | (s, .error e) => (s, .error e)
        | (s, .ok es) => (s, .ok (if bitsOf w 0 1 = 1 then (i, w) :: es else es))

/-- EST_HOST_MS (Table 6-10, section 6.8: HOST_GBPS 0 means 100 GB/s). -/
def hostMs (bytes gbps : Nat) : Nat :=
  let g := if gbps = 0 then 100 else gbps
  (bytes + g * 10 ^ 6 - 1) / (g * 10 ^ 6)

/-- PLACE (0x02.4, R151, R152). Log entry 71, DESIGN CHOICE. -/
def cmdPlace (s : State) (e : SubEntry) : State := s.command e 0x204 (fun (s : State) q =>
  let tag := eTag e
  match s.readEntries q tag 0 (2 ^ min 24 (s.rd .MMU_LEDGER_LOG2 q)) with
  | (s, .error st) => s.doneWith e st 0
  | (s, .ok es) =>
    let ps := placeAll (placeOrder es) (s.ownedFree q)
    let st := placeStatus ps
    let ms := hostMs (placedIn ps 3) (eArg e 64 32)
    let c := cpClient q tag
    let write := fun (acc : State × Nat) (va : Nat) (d : List Byte) => if acc.2 = stSuccess then
        (match acc.1.vwrite c va d with
         | (s, .ok _) => (s, stSuccess)
         | (s, .error e) => (s, accessStatus e))
      else acc
    let r1 := if st = 2 then (s, stSuccess) else ps.foldl (fun (acc : State × Nat) (p : Placed) =>
      match es.find? (fun (x : Nat × Nat) => x.1 == p.obj) with
      | some x => write acc (s.ledgerVA q p.obj) (toBytes (placedEntry x.2 p) 64)
      | none => acc) (s, stSuccess)
    let r2 := write r1 (eArg e 0 64) (placeReport ps ms)
    r2.1.doneWith e r2.2 (if r2.2 = stSuccess then st else 0))

end State

/-- PLACE (R151, R152). -/
def execPlace (e : SubEntry) (s : State) : Host.Outcome State Fault Refusal := .next (s.cmdPlace e)

end Sys2Proof.Machine
end

