-- ==== Sys2Proof/Machine/Rings.lean ====
section
/-! DEFINITION. The mailbox registers (R310 to R316), the urgent slot (R325), and the service of the rings (R313, R319). -/

namespace Sys2Proof.Machine

namespace State

/-- What every submission entry starts (Tables 14-5, 16-6, 17-6, 18-6). Log entry 49, DESIGN CHOICE. -/
def dispatch (s : State) (e : SubEntry) : State :=
  match eCode e with
  | 0x000 => s.cmdNop e
  | 0x001 => s.cmdVersion e
  | 0x100 => s.cmdSubmit e
  | 0x101 => s.cmdPlan e
  | 0x200 => s.cmdInvalidate e
  | 0x201 => s.cmdAbortFault e
  | 0x202 => s.cmdFqHead e
  | 0x203 => s.cmdMmuCfg e
  | 0x204 => s.cmdPlace e
  | 0x205 => s.cmdReleaseKeep e
  | 0x206 => s.cmdUnit e
  | 0x207 => s.cmdHostWin e
  | 0x300 => s.cmdSwap e
  | 0x301 => s.cmdAdvance e
  | 0x302 => s.cmdBarrier e
  | 0x303 => s.cmdBufCfg e
  | 0x400 => s.cmdCbLoad e
  | 0x401 => s.cmdCbUnload e
  | 0x500 => s.cmdVerdict e
  | 0x501 => s.cmdSetScale e
  | 0x502 => s.cmdSetStep e
  | 0x503 => s.cmdJournal e
  | 0x600 => s.cmdHist e
  | 0x700 => s.cmdConfig e
  | 0x701 => s.cmdHalt e
  | 0x702 => s.cmdRelease e
  | 0x703 => s.cmdCores e
  | 0x704 => s.cmdPfWin e
  | 0x705 => s.cmdBank e
  | 0x706 => s.cmdFence e
  | 0x800 => s.cmdRoute e
  | 0x801 => s.cmdFabricCfg e
  | 0x802 => s.cmdModId e
  | 0x803 => s.cmdLink e
  | 0x900 => s.cmdFwLoad e
  | 0x901 => s.cmdFwSelect e
  | 0x902 => s.cmdManifest e
  | 0x903 => s.cmdOverride e
  | 0x904 => s.cmdRepair e
  | 0x905 => s.cmdUnfence e
  | 0xA00 => s.cmdSnapRead e
  | 0xA01 => s.cmdErrLogRead e
  | 0xA02 => s.cmdScan e
  | 0xB00 => s.cmdKeyNew e
  | 0xB01 => s.cmdKeyErase e
  | 0xB02 => s.cmdDebugNonce e
  | 0xB03 => s.cmdDebugUnlock e
  | 0xB04 => s.cmdSvnCommit e
  | 0xB05 => s.cmdKeyRevoke e
  | 0xC00 => s.cmdPowerCap e
  | 0xC01 => s.cmdPowerRead e
  | 0xC02 => s.cmdThermCfg e
  | c => s.command e c (fun (s : State) _ => s)

/-- Whether an agent reaches a page's registers (R311, Table 14-2). -/
def pageReach (a : Agent) (page : Nat) : Bool :=
  match a with
  | .vf q => page == q
  | .pf => page == 12 || page == 13
  | .cp => decide (page ≤ 12)
  | .mc => page == 13

/-- BAR0 offset of a page's register. -/
def pageOff (page off : Nat) : Nat := if page < 12 then off else 0x02000000 + 0x10000 * (page - 12) + off

/-- A discarded doorbell, HEAD write or urgent GO (R27, R313, R314, R325). -/
def discardDb (s : State) (page off : Nat) : State := (s.mark .MB_STAT_DB_DISCARD page).fnErr (pageFn page) 2 off

/-- A doorbell of a page by an agent through a port, where the page has it: the agent must reach the page (R8, R311), and a VF's doorbell
come through HOST_PORT (R268). -/
def doorbell (s : State) (a : Agent) (port page off : Nat) (body : State → State) : State :=
  if s.pageHere page = false then s
  else if pageReach a page = false then s.fnErr (agentNo a) 1 (pageOff page off)
  else match a with
    | .vf q => if port = s.rd .PT_Q_CFG_HOST_PORT q then body s else s.fnErr q 6 off
    | _ => body s

/-- MB_SQ_DB (R313). -/
def writeTail (s : State) (page tail : Nat) : State :=
  let lg := s.rd .MB_SQ_CFG_LOG2 page
  if 2 * 2 ^ lg ≤ tail ∨ 2 ^ lg < ringHeld tail (s.rd .MB_STAT_SQ_HEAD page) lg then s.discardDb page 0x40
  else s.wr .MB_SQ_DB_TAIL page tail

/-- MB_CQ_DB (R314): completions that waited are posted. -/
def writeHead (s : State) (page head : Nat) : State :=
  let lg := s.rd .MB_CQ_CFG_LOG2 page
  let old := s.rd .MB_CQ_DB_HEAD page
  if 2 * 2 ^ lg ≤ head ∨ ringHeld (s.rd .MB_STAT_CQ_TAIL page) old lg < ringHeld head old lg then s.discardDb page 0x48
  else
    let s1 := s.wr .MB_CQ_DB_HEAD page head
    s1.drainCq page s1.cqWait.length

/-- MB_SQ_CFG and MB_CQ_CFG (R312, R315, R316, R332, R395). A write of LOC 1 on a PF page is discarded (log entry 42, DEDUCED). -/
def writeRing (s : State) (page : Nat) (cq : Bool) (val : Nat) : State :=
  let f := fun (a b : Fld) => if cq then a else b
  let en : Fld := f .MB_CQ_CFG_EN .MB_SQ_CFG_EN
  let lg0 := s.rd (f .MB_CQ_CFG_LOG2 .MB_SQ_CFG_LOG2) page
  let lg := if 4 ≤ bitsOf val 0 4 ∧ bitsOf val 0 4 ≤ 12 then bitsOf val 0 4 else lg0
  let port := if cq ∨ page < 12 then 0 else bitsOf val 9 1
  let same := bitsOf val 12 52 = s.rd (f .MB_CQ_CFG_BASE .MB_SQ_CFG_BASE) page ∧
    bitsOf val 10 1 = s.rd (f .MB_CQ_CFG_LOC .MB_SQ_CFG_LOC) page ∧ lg = lg0 ∧ (cq = true ∨ port = s.rd .MB_SQ_CFG_PORT page)
  if (12 ≤ page ∧ bitsOf val 10 1 = 1) ∨ (s.rd en page = 1 ∧ ¬ same) then s
  else
    let was := s.rd en page
    let s1 := ((s.wr (f .MB_CQ_CFG_BASE .MB_SQ_CFG_BASE) page (bitsOf val 12 52)).wr (f .MB_CQ_CFG_LOC .MB_SQ_CFG_LOC) page
      (bitsOf val 10 1)).wr (f .MB_CQ_CFG_LOG2 .MB_SQ_CFG_LOG2) page lg
    let s2 := (if cq then s1 else s1.wr .MB_SQ_CFG_PORT page port).wr en page (bitsOf val 11 1)
    let s3 := if was = 0 ∧ bitsOf val 11 1 = 1 then
        (((s2.wr .MB_STAT_SQ_HEAD page 0).wr .MB_SQ_DB_TAIL page 0).wr .MB_STAT_CQ_TAIL page 0).wr .MB_CQ_DB_HEAD page 0
      else s2
    let s4 := if !cq ∧ was = 1 ∧ bitsOf val 11 1 = 0 then s3.wr .MB_STAT_HANDSHAKE page 0 else s3
    s4.drainCq page s4.cqWait.length

/-- Whether a page's rings and urgent slot are served: the CP's while a CP pair is in service, the management page by the MC (R311, R370,
R385). -/
def served (s : State) (page : Nat) : Bool := s.h .planes 0 == 1 && (page == 13 || s.h .cpUp 0 != 0)

/-- GO (R325). -/
def writeGo (s : State) (page : Nat) (line : Line) : State :=
  if s.flag .MB_URG_DB_BUSY page then s.discardDb page 0xC0
  else
    let s1 := { s.mark .MB_URG_DB_BUSY page with urgCmd := Tab.set 0 page line.toNat s.urgCmd }
    if s1.served page then s1.dispatch ⟨page, 2, line⟩ else s1

/-- Whether the ring of a page is read now: it holds an entry, fewer than 4,096 completions wait, and its quarter is not halted (R313, R314,
R326). -/
def ringReady (s : State) (page : Nat) : Bool :=
  s.pageHere page && s.served page && s.flag .MB_SQ_CFG_EN page && s.rd .MB_STAT_SQ_HEAD page != s.rd .MB_SQ_DB_TAIL page &&
    decide ((s.cqWait.filter (fun e => e.1 == page)).length < 4096) && (decide (12 ≤ page) || s.h .halted page == 0)

/-- The stall of R319 begins or goes on, and ends, with EV_SUBMIT_FULL in each cycle of it. -/
def submitStall (s : State) (q : Nat) : State := if s.h .submitSince q = 0 then s.setH .submitSince q (s.now + 1) else s

def submitGo (s : State) (q : Nat) : State :=
  let since := s.h .submitSince q
  if since = 0 then s else (s.ev evSubmitFull q 0 (s.now + 1 - since)).setH .submitSince q 0

/-- Copies and dispatches the next entry of the first page of the list whose ring is ready and does not stall (R313, R315, R319); an entry whose command
meets a page in use by another access (R184, R186) stays next. Log entry 103, DEDUCED. -/
def copyFrom (s : State) : List Nat → State
  | [] => s
  | page :: rest =>
    if s.ringReady page = false then copyFrom s rest
    else
      let lg := s.rd .MB_SQ_CFG_LOG2 page
      let head := s.rd .MB_STAT_SQ_HEAD page
      let a := s.rd .MB_SQ_CFG_BASE page * 4096 + 64 * (head % 2 ^ lg)
      match s.ringRead page (s.rd .MB_SQ_CFG_LOC page) a 64 with
      | (s, none) => s.ringFault page
      | (s, some d) =>
        let e : SubEntry := ⟨page, 0, BitVec.ofNat 512 (ofBytes d)⟩
        let q := eTarget e
        if eCode e / 256 = 1 ∧ q < s.nQ ∧ s.submitHeld q = true then copyFrom (s.submitStall q) rest
        else
          let s1 := if eCode e / 256 = 1 ∧ q < s.nQ then s.submitGo q else s
          let n := if s1.h .rrobin 0 = page then s1.h .rrobin 1 + 1 else 1
          let s2 := (((s1.setH .rrobin 0 page).setH .rrobin 1 n).wr .MB_STAT_SQ_HEAD page ((head + 1) % (2 * 2 ^ lg))).setH .cmdWait 0 0
          let s3 := s2.dispatch e
          -- a command whose access waits is made again: its entry stays next
          if s3.h .cmdWait 0 = 1 then (s3.wr .MB_STAT_SQ_HEAD page head).setH .cmdWait 0 0 else s3

/-- The pages in the order in which they are served next (R313): round robin, at most 32 entries of a page in a round. -/
def ringOrder (s : State) : List Nat :=
  let p := s.h .rrobin 0
  let turn := (List.range 14).map (fun i => (p + i) % 14)
  if s.h .rrobin 1 < 32 then turn else turn.drop 1 ++ [p]

end State

/-- SQ_DOORBELL (R313). -/
def execSqDoorbell (a : Agent) (port page tail : Nat) (s : State) : Host.Outcome State Fault Refusal :=
  .next (s.doorbell a port page 0x40 (fun (s : State) => s.writeTail page tail))

/-- CQ_DOORBELL (R314). -/
def execCqDoorbell (a : Agent) (port page head : Nat) (s : State) : Host.Outcome State Fault Refusal :=
  .next (s.doorbell a port page 0x48 (fun (s : State) => s.writeHead page head))

/-- RING_CONFIG (R316). -/
def execRingConfig (a : Agent) (page : Nat) (cq : Bool) (val : Nat) (s : State) : Host.Outcome State Fault Refusal :=
  if s.pageHere page = false then .next s
  else if State.pageReach a page then .next (s.writeRing page cq val)
  else .next (s.fnErr (State.agentNo a) 1 (State.pageOff page (if cq then 8 else 0)))

/-- URGENT_GO (R325): the management page has no urgent slot. -/
def execUrgentGo (a : Agent) (port page : Nat) (line : Line) (s : State) : Host.Outcome State Fault Refusal :=
  if page = 13 then .next s else .next (s.doorbell a port page 0xC0 (fun (s : State) => s.writeGo page line))

/-- SQ_ENTRY_COPY (R313, R319): the next entry is copied and its command started. -/
def execSqEntryCopy (t : Nat) (s : State) : Host.Outcome State Fault Refusal :=
  let s := s.goTo t
  let s := (s.serveMcRing s.mcRing.length).pumpPlans
  .next (s.copyFrom s.ringOrder)


end Sys2Proof.Machine
end

