-- ==== Sys2Proof/Machine/RegBus.lean ====
section
/-! DEFINITION. BAR0 (R269, R310): the mailbox pages, the global registers and the MSI-X tables as a function reads and writes them, and the
commands that write or read one register. -/

namespace Sys2Proof.Machine

/-- The register that a dword of the global registers belongs to, with its index and its offset. -/
def regAt (lt09 : Bool) (off : Nat) : Option (Reg × Nat × Nat) :=
  match findReg lt09 off with
  | some (r, i) => some (r, i, off)
  | none => match findReg lt09 (off - 4) with
    | some (r, i) => if off % 8 = 4 ∧ r.info.bits = 64 then some (r, i, off - 4) else none
    | none => none

/-- `cur` with the dword at byte `o` (0 or 4) replaced. -/
def putDword (cur o d : Nat) : Nat := cur - 2 ^ (8 * o) * bitsOf cur (8 * o) 32 + 2 ^ (8 * o) * (d % 2 ^ 32)

namespace State

/-- The 8 bytes at offset `o` of a page (Table 14-1). The management page has no urgent slot. -/
def pageWord (s : State) (page o : Nat) : Nat :=
  if o = 0 then s.regVal .MB_SQ_CFG page
  else if o = 0x8 then s.regVal .MB_CQ_CFG page
  else if o = 0x40 then s.regVal .MB_SQ_DB page
  else if o = 0x48 then s.regVal .MB_CQ_DB page
  else if o = 0x50 then s.regVal .MB_STAT page
  else if page = 13 then 0
  else if 0x80 ≤ o ∧ o < 0xC0 then bitsOf (Tab.get 0 page s.urgCmd) (8 * (o - 0x80)) 64
  else if o = 0xC0 then s.regVal .MB_URG_DB page
  else if 0x100 ≤ o ∧ o < 0x120 then bitsOf (Tab.get 0 page s.urgRes) (8 * (o - 0x100)) 64
  else 0

/-- A write of the 8 bytes at offset `o` of a page. -/
def pagePut (s : State) (a : Agent) (port page o val : Nat) : State :=
  if o = 0 then s.writeRing page false val
  else if o = 0x8 then s.writeRing page true val
  else if o = 0x40 then s.doorbell a port page 0x40 (fun (s : State) => s.writeTail page (bitsOf val 0 13))
  else if o = 0x48 then s.doorbell a port page 0x48 (fun (s : State) => s.writeHead page (bitsOf val 0 13))
  else if o = 0x50 then
    (s.clearBits .MB_STAT_RING_FAULT page (bitsOf val 63 1)).clearBits .MB_STAT_DB_DISCARD page (bitsOf val 62 1)
  else if page = 13 then s
  else if 0x80 ≤ o ∧ o < 0xC0 then
    let w := Tab.get 0 page s.urgCmd
    let k := 8 * (o - 0x80)
    { s with urgCmd := Tab.set 0 page (w - 2 ^ k * bitsOf w k 64 + 2 ^ k * (val % 2 ^ 64)) s.urgCmd }
  else if o = 0xC0 then
    if bitsOf val 0 1 = 1 then
      s.doorbell a port page 0xC0 (fun (s : State) => s.writeGo page (BitVec.ofNat 512 (Tab.get 0 page s.urgCmd)))
    else s
  else s

/-- A write to a page by an agent that reaches it (R8, R311); others' attempts at its registers are recorded. -/
def pageWrite (s : State) (a : Agent) (port page o val : Nat) : State :=
  if s.pageHere page = false then s
  else if pageReach a page then s.pagePut a port page o val
  else s.fnErr (agentNo a) 1 (pageOff page o)

def pageRead (s : State) (a : Agent) (page o : Nat) : State × Nat :=
  if s.pageHere page = false then (s, 0)
  else if pageReach a page then (s, s.pageWord page o)
  else (s.fnErr (agentNo a) 1 (pageOff page o), 0)

/-- What a write of half of a register leaves of the other half: nothing of a field that is cleared or triggered by ones (log entry 43, DEDUCED). -/
def keepVal (s : State) (r : Reg) (i : Nat) : Nat :=
  r.fields.foldl (fun (acc : Nat) (f : Fld) => if f.info.acc = .rw then acc + 2 ^ f.info.lo * s.shown f i else acc) 0

/-- The function number of an agent on a port: 0 the PF, n the VF of Q(n − 1). -/
def funcOf : Agent → Nat
  | .vf q => q + 1
  | _ => 0

/-- MSI-X table and pending bits (R269, R283): vectors of a function. -/
def nVec (func : Nat) : Nat := if func = 0 then 16 else 8

/-- A dword of the MSI-X table is written: dword 3 holds the mask; a vector unmasked sends what it has pending. -/
def msixPut (s : State) (port func o d : Nat) : State :=
  let v := o / 16
  let k := 16 * (13 * port + func) + v
  if nVec func ≤ v then s
  else if o % 16 = 12 then
    let s1 := s.setH .msixUnmask k (1 - d % 2)
    if d % 2 = 0 ∧ s.h .msixPend k = 1 then s1.sendMsix port func v else s1
  else s.setH .msixTab (4 * k + o % 16 / 4) (d % 2 ^ 32)

def msixGet (s : State) (port func o : Nat) : Nat :=
  let k := 16 * (13 * port + func) + o / 16
  if nVec func ≤ o / 16 then 0
  else if o % 16 = 12 then 1 - s.h .msixUnmask k
  else s.h .msixTab (4 * k + o % 16 / 4)

def pbaGet (s : State) (port func : Nat) : Nat :=
  (List.range (nVec func)).foldl (fun (acc : Nat) (v : Nat) => acc + 2 ^ v * s.h .msixPend (16 * (13 * port + func) + v)) 0

/-- A write of one dword of a function's BAR0. -/
def bar0Dword (s : State) (a : Agent) (port off d : Nat) : State :=
  let page := match a with
    | .vf q => some (q, off)
    | _ => if 0x02000000 ≤ off ∧ off < 0x02020000 then some (12 + (off - 0x02000000) / 0x10000, off % 0x10000) else none
  let (tab, pba) := match a with
    | .vf _ => (0xF0000, 0xF8000)
    | _ => (0x03F00000, 0x03F80000)
  if tab ≤ off then (if off < pba then s.msixPut port (funcOf a) (off - tab) d else s)
  else match page with
    | some (p, o) =>
      let keep := if o / 8 * 8 = 0x50 then 0 else s.pageWord p (o / 8 * 8)
      s.pageWrite a port p (o / 8 * 8) (putDword keep (o % 8) d)
    | none => match regAt s.lt09 off with
      | some (r, i, b) => s.busWrite a b (putDword (s.keepVal r i) (off - b) d)
      | none => s

/-- A write of bytes to a function's BAR0, as whole registers where it covers them and dwords elsewhere. `n` bounds the pieces. -/
def bar0Write (s : State) (a : Agent) (port off : Nat) (d : List Byte) : Nat → State
  | 0 => s
  | n + 1 =>
    if d.isEmpty then s
    else
      let wide := off % 8 = 0 ∧ 8 ≤ d.length
      let page := match a with
        | .vf q => if off < 0xF0000 then some (q, off) else none
        | _ => if 0x02000000 ≤ off ∧ off < 0x02020000 then some (12 + (off - 0x02000000) / 0x10000, off % 0x10000) else none
      let v := ofBytes (d.take 8)
      match page with
      | some (p, o) =>
        if wide then (s.pageWrite a port p o v).bar0Write a port (off + 8) (d.drop 8) n
        else (s.bar0Dword a port off (ofBytes (d.take 4))).bar0Write a port (off + 4) (d.drop 4) n
      | none =>
        match a, findReg s.lt09 off with
        | .vf _, _ => (s.bar0Dword a port off (ofBytes (d.take 4))).bar0Write a port (off + 4) (d.drop 4) n
        | _, some (r, _) =>
          if wide ∧ r.info.bits = 64 then (s.busWrite a off v).bar0Write a port (off + 8) (d.drop 8) n
          else (s.bar0Dword a port off (ofBytes (d.take 4))).bar0Write a port (off + 4) (d.drop 4) n
        | _, none => (s.bar0Dword a port off (ofBytes (d.take 4))).bar0Write a port (off + 4) (d.drop 4) n

/-- Reads bytes of a function's BAR0, register by register (R8, R9). `n` bounds the pieces. -/
def bar0Read (s : State) (a : Agent) (port off len : Nat) : Nat → State × List Byte
  | 0 => (s, [])
  | n + 1 =>
    if len = 0 then (s, [])
    else
      let (tab, pba) := match a with
        | .vf _ => (0xF0000, 0xF8000)
        | _ => (0x03F00000, 0x03F80000)
      let page := match a with
        | .vf q => if off < tab then some (q, off) else none
        | _ => if 0x02000000 ≤ off ∧ off < 0x02020000 then some (12 + (off - 0x02000000) / 0x10000, off % 0x10000) else none
      let (s, k, v) : State × Nat × Nat :=
        if pba ≤ off then (s, 8, if off = pba then s.pbaGet port (funcOf a) else 0)
        else if tab ≤ off then (s, 4, s.msixGet port (funcOf a) (off - tab))
        else match page with
          | some (p, o) =>
            let (s, v) := s.pageRead a p (o / 8 * 8)
            (s, 8 - o % 8, v / 2 ^ (8 * (o % 8)))
          | none => match regAt s.lt09 off with
            | some (r, _, b) =>
              let (s, v) := s.busRead a b (8 * (off - b)) (8 * len)
              (s, r.info.bits / 8 - (off - b), v / 2 ^ (8 * (off - b)))
            | none => (s, 4, 0)
      let m := min len k
      let (s, rest) := bar0Read s a port (off + m) (len - m) n
      (s, toBytes v m ++ rest)

/-- The write of a whole register at an offset by an agent. -/
def agentWrite (s : State) (a : Agent) (off val : Nat) : State :=
  let port := match a with
    | .vf q => s.rd .PT_Q_CFG_HOST_PORT q
    | _ => 0
  match a with
  | .vf q => if off < 0xF0000 then s.pageWrite a port q off val else s.bar0Dword a port off val
  | _ =>
    if 0x02000000 ≤ off ∧ off < 0x02020000 then s.pageWrite a port (12 + (off - 0x02000000) / 0x10000) (off % 0x10000) val
    else if 0x03F00000 ≤ off then s.bar0Dword a port off val
    else s.busWrite a off val

/-- The read of a whole register at an offset by an agent: the answer holds its bytes. -/
def agentRead (s : State) (a : Agent) (off : Nat) : State :=
  let n := match a, findReg s.lt09 off with
    | .vf _, _ => 8
    | _, some (r, _) => r.info.bits / 8
    | _, none => 8
  let port := match a with
    | .vf q => s.rd .PT_Q_CFG_HOST_PORT q
    | _ => 0
  let (s1, d) := s.bar0Read a port off n 2
  { s1 with reply := ⟨0, d⟩ }

end State

/-- REGISTER_WRITE (R8, R9, R16, R395). -/
def execRegisterWrite (a : Agent) (off val : Nat) (s : State) : Host.Outcome State Fault Refusal := .next (s.agentWrite a off val)

/-- REGISTER_READ_CLEAR (R8, R9). -/
def execRegisterReadClear (a : Agent) (off : Nat) (s : State) : Host.Outcome State Fault Refusal := .next (s.agentRead a off)

/-- MC_RING_REQUEST (R17): the MC's request joins the internal ring pair, and the CP, where a pair is in service, performs the requests in ring order. -/
def execMcRingRequest (off val : Nat) (s : State) : Host.Outcome State Fault Refusal := .next (s.mcAsk off val)

/-- STK_RETIRE (R164, R165, R17): a write of STK_RETIRE. -/
def execStkRetire (a : Agent) (k val : Nat) (s : State) : Host.Outcome State Fault Refusal :=
  if k < s.nStacks then .next (s.busWrite a (0x80008 + 0x1000 * k) val) else .next s

/-- BAD_FRAME_WRITE (R166): a write of CRT_BF_DATA at the entry CRT_BF_IDX names. -/
def execBadFrameWrite (a : Agent) (d val : Nat) (s : State) : Host.Outcome State Fault Refusal :=
  if d < s.nBays then .next (s.busWrite a (0x90014 + 0x1000 * d) val) else .next s

/-- WITHDRAW (R169): CRT_CTRL REQ 1. -/
def execWithdraw (a : Agent) (d : Nat) (s : State) : Host.Outcome State Fault Refusal :=
  if d < s.nBays then .next (s.busWrite a (0x90008 + 0x1000 * d) 1) else .next s

/-- BRING_INTO_SERVICE (R170, R393): CRT_CTRL REQ 2. -/
def execBringIntoService (a : Agent) (d : Nat) (s : State) : Host.Outcome State Fault Refusal :=
  if d < s.nBays then .next (s.busWrite a (0x90008 + 0x1000 * d) 2) else .next s

/-- PMC_SELECT (R358): a write of PMC_SEL. -/
def execPmcSelect (a : Agent) (i val : Nat) (s : State) : Host.Outcome State Fault Refusal :=
  if i < 64 then .next (s.busWrite a (0x161000 + 0x10 * i) val) else .next s

/-- BW_WINDOW_CONFIG (R360): a write of PT_BW_CFG. -/
def execBwWindowConfig (a : Agent) (port val : Nat) (s : State) : Host.Outcome State Fault Refusal :=
  if port < 2 then .next (s.busWrite a (0x120020 + 0x1000 * port) val) else .next s

/-- SNAP_NOW (R350): a write of SNAP_CFG with NOW. -/
def execSnapNow (a : Agent) (val : Nat) (s : State) : Host.Outcome State Fault Refusal := .next (s.busWrite a 0x160000 val)

/-- GH_CLEAR (R123): a write of GH_CTRL. -/
def execGhClear (a : Agent) (q sl val : Nat) (s : State) : Host.Outcome State Fault Refusal :=
  match (dimOffs s.lt09 Reg.GH_CTRL.info.dims).find? (fun (e : Nat × Nat) => e.1 == 64 * q + sl) with
  | some e => if sl < 64 then .next (s.busWrite a (Reg.GH_CTRL.info.off + e.2) val) else .next s
  | none => .next s

/-- RES_CTRL_MOD (R345): a write of RES_CTRL. -/
def execResCtrlMod (a : Agent) (val : Nat) (s : State) : Host.Outcome State Fault Refusal := .next (s.busWrite a 0x150010 val)

end Sys2Proof.Machine
end

