-- ==== Sys2Proof/Machine/Host.lean ====
section
/-! DEFINITION. Host attachment (chapter 12): inbound requests, CXL.cache responses, interrupts, link events, resets of
ports and functions, the resident cores' accesses, and cycle 0 of a turn. -/

namespace Sys2Proof.Machine

/-- Answers of a port beside success (0), unsupported request (1), completer abort (2) and poison (3): dropped or not answered (4), access fault
(5), Request Retry Status (6), Busy (7). Log entry 74, DESIGN CHOICE. -/
def State.answer (s : State) (status : Nat) (d : List Byte) : State := { s with reply := ⟨status, d⟩ }

/-- A dword of configuration space: its offset, its reset value, and which of its bits are written as they are and which a 1 clears. -/
structure CfgRow where
  off : Nat
  base : Nat
  rw : Nat
  w1c : Nat

/-- The dwords of the header and the capabilities of Table 12-1 that hold what software writes (R266, R269); of a VF, or of the PF. Log entry 45,
PRESUMED. -/
def cfgRows (vf : Bool) : List CfgRow :=
  (if vf then [⟨0x04, 0x100000, 0x540, 0xF9000000⟩] else
    [⟨0x04, 0x100000, 0x540, 0xF9000000⟩, ⟨0x10, 0x4, 0xFC000000, 0⟩, ⟨0x14, 0, 0xFFFFFFFF, 0⟩, ⟨0x18, 0xC, 0, 0⟩, ⟨0x1C, 0, 0xFFFFFFF0, 0⟩,
     ⟨0x224, 0x4, 0xFFF00000, 0⟩, ⟨0x228, 0, 0xFFFFFFFF, 0⟩, ⟨0x22C, 0xC, 0, 0⟩, ⟨0x230, 0, 0xFFFFFFF0, 0⟩]) ++
  [⟨0x08, 0x12000000, 0, 0⟩, ⟨0x0C, 0, 0xFF, 0⟩, ⟨0x34, 0x40, 0, 0⟩, ⟨0x3C, 0, 0xFF, 0⟩, ⟨0x40, 0x00035001, 0, 0⟩,
   ⟨0x54, if vf then 0xF0000 else 0x3F00000, 0, 0⟩, ⟨0x58, if vf then 0xF8000 else 0x3F80000, 0, 0⟩,
   ⟨0x60, 0x00020010, 0, 0⟩, ⟨0x64, 0x10008022, 0, 0⟩, ⟨0x68, 0x2810, 0x79FF, 0xF0000⟩, ⟨0x6C, 0x106, 0, 0⟩,
   ⟨0x100, 0x14020001, 0, 0⟩, ⟨0x104, 0, 0, 0xFFFFF030⟩, ⟨0x108, 0x400000, 0xFFFFF030, 0⟩, ⟨0x10C, 0x462030, 0xFFFFF030, 0⟩,
   ⟨0x110, 0, 0, 0xF1C1⟩, ⟨0x114, 0xE000, 0xF1C1, 0⟩, ⟨0x118, 0xA0, 0x140, 0⟩,
   ⟨0x140, 0x1501000D, 0, 0⟩, ⟨0x144, 0xC, 0xC0000, 0⟩, ⟨0x150, 0x1601000E, 0, 0⟩, ⟨0x160, 0x1802002E, 0, 0⟩,
   ⟨0x180, if vf then 0x00010030 else 0x20010030, 0, 0⟩, ⟨0x184, if vf then 0 else 0x70003, 0, 0⟩, ⟨0x200, if vf then 0 else 0x00010010, 0, 0⟩]

namespace State

/-- In the boundary window (R52). -/
def inWindow (s : State) : Bool := decide (s.cycW 0 ≤ s.pos)

/-- Sets bits of a configuration dword that hardware sets. -/
def cfgSet (s : State) (f off bits : Nat) : State := s.setH .cfgReg (1024 * f + off / 4) (s.h .cfgReg (1024 * f + off / 4) ||| bits)

/-- What AER and the device status show of a rejected non-posted or posted request (R272): Unsupported Request or Completer Abort, as an advisory
non-fatal error. Log entry 45, PRESUMED. -/
def aerReject (s : State) (port func status : Nat) : State :=
  let f := 13 * port + func
  match status with
  | 1 => (((s.cfgSet f 0x104 (2 ^ 20)).cfgSet f 0x110 (2 ^ 13)).cfgSet f 0x68 (2 ^ 16 + 2 ^ 19))
  | 2 => (((s.cfgSet f 0x104 (2 ^ 15)).cfgSet f 0x110 (2 ^ 13)).cfgSet f 0x68 (2 ^ 16)).cfgSet f 0x04 (2 ^ 27)
  | _ => s

/-- A correctable error of a class on a port, as AER shows it in the PF: one message for each class and port in a turn (R285). Log entry 45,
PRESUMED. -/
def aerCorrectable (s : State) (port cls bit : Nat) : State :=
  (((s.cfgSet (13 * port) 0x110 (2 ^ bit)).cfgSet (13 * port) 0x68 (2 ^ 16))).setH .aerSent (4 * port + cls) 1

/-- A rejected request (R272): counted, logged, with PF vector 3 when the log was empty. -/
def reject (s : State) (r : InReq) (cause status : Nat) : State :=
  let s1 := (s.bump .PT_REJ_LOG_REJECTS r.port 1).ev evPortReject (if r.func = 0 then 15 else r.func - 1) r.port 1
  let s2 := s1.firstError .PT_REJ_LOG_VALID r.port (fun (s : State) =>
    (((s.wr .PT_REJ_LOG_CAUSE r.port cause).wr .PT_REJ_LOG_FUNC r.port r.func).wr .PT_REJ_LOG_RID r.port r.rid).raisePf 3)
  (s2.aerReject r.port r.func status).answer status []

/-- A function is enabled, in D0, with Memory Space Enable set (R266, R268). -/
def funcOpen (s : State) (port func : Nat) : Bool :=
  let c := s.h .cfgMem (13 * port + func)
  let vf := s.h .cfgVf port
  if func = 0 then bitsOf c 0 1 == 1 && bitsOf c 1 1 == 0
  else decide (func ≤ s.nQ) && bitsOf vf 0 1 == 1 && decide (func ≤ bitsOf vf 1 16) && bitsOf vf 17 1 == 1 && bitsOf c 1 1 == 0

/-- Whether the request arrives in a Secure IDE stream bound to its function (R280). -/
def ideBound (s : State) (r : InReq) : Bool :=
  match r.ide with
  | none => false
  | some k => k / 256 == r.func && s.h .ide (256 * r.port + k % 256) == 1

/-- The stream it arrived in is Insecure: its TLPs are dropped (R280). -/
def ideDropped (s : State) (r : InReq) : Bool :=
  match r.ide with
  | none => false
  | some k => s.h .ide (256 * r.port + k % 256) == 2

/-- The requester filter of the function on the port (R281). -/
def filterPass (s : State) (r : InReq) : Bool :=
  let i := 13 * r.port + (if r.func = 0 then 12 else r.func - 1)
  let m := s.rd .PT_RID_MASK i
  s.rd .PT_RID_EN i == 0 || (r.rid % 65536 &&& m) == (s.rd .PT_RID_RID i &&& m)

/-- The agent that a function is (R7, R8). -/
def funcAgent (func : Nat) : Agent := if func = 0 then .pf else .vf (func - 1)

/-- The bytes of a BAR. -/
def barSize (r : InReq) : Nat := if r.bar = 2 then 2 ^ 36 else if r.bar ≠ 0 then 0 else if r.func = 0 then 2 ^ 26 else 2 ^ 20

/-- Checks 1 to 5 of Table 12-3: the cause of a failure. -/
def inboundCause (s : State) (r : InReq) : Option Nat :=
  if s.funcOpen r.port r.func = false ∨ barSize r < r.off + r.len then some 1
  else if 0 < r.func ∧ s.flag .PT_Q_CFG_REQ_IDE (r.func - 1) ∧ s.ideBound r = false then some 2
  else if s.filterPass r = false then some 3
  else if r.kind ≠ 0 ∨ r.atField ≠ 0 then some 4
  else if r.bar = 2 ∧ r.func = 0 ∧ s.flag .PT_PF_WIN_EN r.port = false then some 5
  else none

/-- The quarter and the quarter virtual address of a BAR2 access (R270, R271). -/
def bar2Target (s : State) (r : InReq) : Nat × Nat :=
  if r.func = 0 then (s.rd .PT_PF_WIN_QUARTER r.port, s.rd .PT_PF_WIN_BASE r.port * 2 ^ 36 + r.off)
  else (r.func - 1, s.bar2VA (r.func - 1) r.off)

/-- Every page that an access touches translates and passes R126; a fault writes its record. Answers the cause of the failure. -/
def reachable (s : State) (c : Client) (va n : Nat) (write : Bool) : State × Option Nat :=
  (List.range ((va + n - 1) / 65536 - va / 65536 + 1)).foldl (fun (acc : State × Option Nat) (i : Nat) =>
    if acc.2.isNone then
      match acc.1.xlate c (max va ((va / 65536 + i) * 65536)) write with
      | (t, .ok _) => (t, none)
      | (t, .error e) => (t, some e)
    else acc) (s, none)

/-- How a BAR2 access that `cause` keeps from being served ends (R274, R275): a move in hand (R145), BUSY (R184) and a full pool (R186) hold it in the
port's queue, a fault rejects it. -/
def bar2Stops (s : State) (r : InReq) (cause : Nat) : State :=
  if cause = 0 ∨ 32 ≤ cause then { s with heldReqs := s.heldReqs ++ [r] } else s.reject r 6 (if r.write then 4 else 2)

/-- An inbound request is served at its target (R270 to R275): check 6 of Table 12-3. -/
def serveInbound (s : State) (r : InReq) : State :=
  if r.bar = 2 then
    let (q, va) := s.bar2Target r
    let c : Client := ⟨q, ⟨7, r.port⟩, 0, none⟩
    if r.len = 0 then s.answer 0 []
    else
      match s.reachable c va r.len r.write with
      | (s, some e) => s.bar2Stops r e
      | (s, none) =>
        if r.write then
          match s.vwrite c va (r.data.take r.len) with
          | (s, .ok _) => s.answer 0 []
          | (s, .error e) => s.bar2Stops r e
        else match s.vread c va r.len with
          | (s, .ok (d, bad)) => s.answer (if bad then 3 else 0) d
          | (s, .error e) => s.bar2Stops r e
  else if r.write then (s.bar0Write (funcAgent r.func) r.port r.off (r.data.take r.len) r.len).answer 0 []
  else
    let (s, d) := s.bar0Read (funcAgent r.func) r.port r.off r.len r.len
    s.answer 0 d

/-- Whether a request waits in the port's inbound queue (R52, R273): a BAR2 access in the boundary window, and whatever arrives behind a
held posted write. -/
def holds (s : State) (r : InReq) : Bool :=
  (s.inWindow && r.bar == 2) || s.heldReqs.any (fun (x : InReq) => x.port == r.port && x.write)

/-- A request of the queue in its turn: one behind a posted write of its port that still waits goes on waiting (R273). -/
def serveNext (s : State) (r : InReq) : State := if s.holds r then { s with heldReqs := s.heldReqs ++ [r] } else s.serveInbound r

/-- Outside the boundary window the held requests are looked at again, in the order of their arrival. -/
def retryHeld (s : State) : State :=
  if s.inWindow then s else s.heldReqs.foldl (fun (s : State) (r : InReq) => s.serveNext r) { s with heldReqs := [] }

/-- INBOUND_REQUEST (R272 to R275, R280, R281), behind those that wait. A posted write that arrives in the quiesce of a module reset is lost (Table 15-11). -/
def inbound (s : State) (r : InReq) : State :=
  if 2 ≤ r.port ∨ s.flag .PT_LINK_STAT_UP r.port = false ∨ s.ideDropped r = true ∨ (s.h .quiesce 0 ≠ 0 ∧ r.write = true) then s.answer 4 []
  else match s.inboundCause r with
    | some c => s.reject r c (if c = 2 ∧ r.write then 4 else 1)
    | none => s.retryHeld.serveNext r

/-- Completes LINK commands for a port that is up, or whose time is over (R320). -/
def endLink (s : State) (port status : Nat) : State :=
  (s.late.filter (fun (l : Late) => l.until_ == .linkUp port)).foldl (fun (s : State) (l : Late) =>
    s.complete l.page ⟨l.tag, l.source, status, 0, false, 0, s.regVal .PT_LINK_STAT port, none⟩)
    ({ s with late := s.late.filter (fun (l : Late) => l.until_ != Until.linkUp port) }.setH .linkReq port 0)

/-- A function's configuration state and MSI-X table return to their reset state (R288, R290). -/
def resetFunc (s : State) (port func : Nat) : State :=
  let f := 13 * port + func
  let s1 := ((s.setH .cfgMem f 0).setH .msixEn f 0)
  let s2 := if func = 0 then s1.setH .cfgVf port 0 else s1
  let s2 := (cfgRows (func != 0)).foldl (fun (s : State) (w : CfgRow) =>
    if 0x104 ≤ w.off ∧ w.off ≤ 0x118 then s else s.setH .cfgReg (1024 * f + w.off / 4) 0) ((s2.setH .doe (4096 * f) 0).setH .doe (4096 * f + 1) 0)
  (List.range 16).foldl (fun (s : State) (v : Nat) =>
    (List.range 3).foldl (fun (s : State) (d : Nat) => s.setH .msixTab (4 * (16 * f + v) + d) 0)
      ((s.setH .msixPend (16 * f + v) 0).setH .msixUnmask (16 * f + v) 0)) s2

/-- A direct store fails (R278): the host line holds its old or the written value, and its page raises HOSTERR. -/
def failStore (s : State) (d : DirectStore) : State :=
  let (c, s) := s.fresh
  let s1 := if Config.hostLineNew c then s.setBytes 3 0 d.ha d.data else s
  let s2 := { s1 with direct := s1.direct.map (fun (x : DirectStore) => if x = d then { d with st := 2 } else x) }
  s2.raiseFault ⟨d.q, ⟨0, 0⟩, d.tag, some d.op⟩ d.va true 6 7 (some d.ha)

/-- A tier-3 stream read fails (R206, R278): HOSTERR; its tag is free. Log entry 51, DEDUCED. -/
def failRead (s : State) (r : Req) : State :=
  let ha := match (s.walk r.q r.need.va).2 with
    | .ok l => some (leafAddr l r.need.va)
    | .error _ => none
  let tag := match s.op? r.op with
    | some o => o.tag
    | none => 0
  let s1 := { s with reqs := s.reqs.map (fun (x : Req) => if x.id = r.id then { r with atPort := true, lost := true } else x) }.syncOut r.engine
  s1.raiseFault ⟨r.q, if r.direct then ⟨0, 0⟩ else ⟨1, r.engine⟩, tag, some r.op⟩ r.need.va false 6 7 ha

/-- Tier-3 stream reads that Port A has sent. -/
def readsOut (s : State) : List Req :=
  s.reqs.filter (fun (r : Req) => !r.atPort && r.tier == 3)

/-- What a port loses with its link, or at a hot reset (R288): held requests, outstanding requests, its functions' configuration. -/
def portFalls (s : State) (port : Nat) : State :=
  let s1 := { s with heldReqs := s.heldReqs.filter (fun (r : InReq) => r.port != port) }
  let s2 := if port = 0 then
      (s1.direct.filter (fun (d : DirectStore) => d.st != 2)).foldl (fun (s : State) (d : DirectStore) => s.failStore d)
        (s1.readsOut.foldl (fun (s : State) (r : Req) => s.failRead r) s1)
    else s1
  let s3 := (List.range 13).foldl (fun (s : State) (f : Nat) => s.resetFunc port f) s2
  (s3.mark .PT_LINK_STAT_DOWN_EVT port).raisePfOther port 3

/-- The link of a port is gone. Log entry 52, DEDUCED. -/
def linkGone (s : State) (port : Nat) : State :=
  ((((s.wr .PT_LINK_STAT_UP port 0).wr .PT_LINK_STAT_CACHE port 0).wr .PT_LINK_STAT_FLIT port 0).wr .PT_LINK_STAT_WIDTH port 0).wr
    .PT_LINK_STAT_RATE port 0

/-- LINK_DOWN (R288). -/
def portDown (s : State) (port : Nat) : State := if s.flag .PT_LINK_STAT_UP port then (s.linkGone port).portFalls port else s

/-- The widest of x8, x4, x2 and x1, no wider than `max`, on good lanes alone (R287): `bad` is the mask of failed lanes. -/
def narrowWidth (bad most : Nat) : Nat :=
  let good := fun (lanes : List Nat) => lanes.all (fun (l : Nat) => bitsOf bad l 1 == 0)
  (([8, 4, 2, 1].filter (fun n => decide (n ≤ most))).find? (fun n =>
    good (List.range n) || good ((List.range n).map (fun i => 15 - i)))).getD 0

/-- A lane fails (R287): the port trains to a narrower width, or its link is lost when no width is left. -/
def laneFail (s : State) (port lane : Nat) : State :=
  let s1 := s.setH .portBad port (s.h .portBad port ||| 2 ^ lane)
  let w := narrowWidth (s1.h .portBad port) (s1.rd .PT_LINK_STAT_WIDTH port)
  let s2 := ((s1.mark .PT_LINK_STAT_NARROWED port).wr .PT_LINK_STAT_BAD_LANE port lane).bump .PT_LINK_STAT_RECOV port 1
  let s3 := s2.raisePf 3
  if w = 0 then s3.portDown port else s3.wr .PT_LINK_STAT_WIDTH port w

/-- CRC_ERR grows (R285 to R287). -/
def crcFail (s : State) (port lane : Nat) : State :=
  let s1 := (((s.aerCorrectable port 0 6).bump .PT_ERR_CNT_CRC_ERR port 1).addH .crcTurn port 1).addH .laneCrc (16 * port + lane) 1
  let s2 := if s1.rd .PT_LINK_CFG_REPLAY_LIMIT port < s1.h .crcTurn port ∧ s1.h .escTurn port = 0 then
      (((s1.setH .escTurn port 1).mark .PT_LINK_STAT_ESCALATED port).raisePf 3).mcLog 6 15 port
    else s1
  if s2.h .laneCrc (16 * port + lane) = 1025 then s2.laneFail port lane else s2

/-- The line of the L2s that holds `pa`, moved to core `c`, after a fill from device memory where none holds it (R292, R293). -/
def l2Line (s : State) (q c pa : Nat) : State × Option L2Line :=
  let base := pa / 64 * 64
  match s.l2.find? (fun (l : L2Line) => l.q == q && l.pa == base) with
  | some l => ({ s with l2 := s.l2.map (fun (x : L2Line) => if x = l then { l with c := c } else x) }, some { l with c := c })
  | none =>
    match s.vread (coreClient q c) (s.bar2VA q base) 64 with
    | (s, .error _) => (s, none)
    | (s, .ok (d, bad)) =>
      let l : L2Line := ⟨q, c, base, false, bad, d⟩
      ({ s with l2 := s.l2 ++ [l] }, some l)

/-- A core's access through the cacheable alias, line by line. `n` bounds the lines. -/
def l2Access (s : State) (q c pa len : Nat) (write : Bool) (d : List Byte) : Nat → State × Option (List Byte × Bool)
  | 0 => (s, some ([], false))
  | n + 1 =>
    if len = 0 then (s, some ([], false))
    else
      let m := min len (64 - pa % 64)
      match s.l2Line q c pa with
      | (s, none) => (s, none)
      | (s, some l) =>
        let s1 := if write then
            let l1 := { l with dirty := true, data := l.data.take (pa % 64) ++ d.take m ++ l.data.drop (pa % 64 + m) }
            { s with l2 := s.l2.map (fun (x : L2Line) => if x = l then l1 else x) }
          else s
        match s1.l2Access q c (pa + m) (len - m) write (d.drop m) n with
        | (s, none) => (s, none)
        | (s, some (rest, bad)) => (s, some (if write then [] else (l.data.drop (pa % 64)).take m ++ rest, bad || l.bad))

/-- The core-local block (Table 12-6): timer, compares, interrupt pending and enable bits, maintenance port. The places of the pending and
enable bits within 0x100 are log entry 46, PRESUMED. -/
def localRead (s : State) (q o : Nat) : Nat :=
  if o = 0 then s.now / 10
  else if 8 ≤ o ∧ o < 0x20 then s.h .timerCmp (3 * q + (o - 8) / 8)
  else if o = 0x100 then s.h .corePend q
  else if 0x108 ≤ o ∧ o < 0x120 then s.h .coreEn (3 * q + (o - 0x108) / 8)
  else if o = 0x1000 then s.h .maintBase q
  else if o = 0x1008 then s.h .maintLen q
  else 0

/-- The maintenance port's action (R293): 1 clean, 2 invalidate, 3 both, over the lines that lie in the range. -/
def maintain (s : State) (q action : Nat) : State :=
  let base := s.h .maintBase q
  let hit := fun (l : L2Line) => l.q == q && decide (base < l.pa + 64) && decide (l.pa < base + s.h .maintLen q)
  match action with
  | 1 => (s.l2.filter hit).foldl (fun (s : State) (l : L2Line) => s.cleanL2 l) s
  | 2 => s.dropL2 hit
  | 3 => s.flushL2 hit
  | _ => s

def localWrite (s : State) (q o v : Nat) : State :=
  if 8 ≤ o ∧ o < 0x20 then
    let i := 3 * q + (o - 8) / 8
    (s.setH .timerCmp i (v % 2 ^ 64)).setH .timerPend i (if v % 2 ^ 64 ≤ s.now / 10 then 1 else 0)
  else if o = 0x100 then s.setH .corePend q (s.h .corePend q - (s.h .corePend q &&& v))
  else if 0x108 ≤ o ∧ o < 0x120 then s.setH .coreEn (3 * q + (o - 0x108) / 8) (v % 256)
  else if o = 0x1000 then s.setH .maintBase q (v % 2 ^ 64)
  else if o = 0x1008 then s.setH .maintLen q (v % 2 ^ 64)
  else if o = 0x1010 then s.maintain q v
  else s

/-- A resident core's access (R292 to R294). In the boundary window an access to device memory or to BAR0 is held (R52). -/
def coreAccess (s : State) (x : CoreAcc) : State :=
  let q := x.q
  let k := coreClient q x.c
  let data := x.data.take x.len
  let window := decide (x.pa < 2 ^ 37)
  let bar0 := decide (2 ^ 37 ≤ x.pa ∧ x.pa < 2 ^ 37 + 2 ^ 20)
  if s.nQ ≤ q ∨ 3 ≤ x.c ∨ bitsOf (s.rd .CORE_CTRL_RUN q) x.c 1 = 0 then s
  else if x.len = 0 then s.answer 0 []
  else if (window || bar0) && s.inWindow then { s with heldCores := s.heldCores ++ [x] }
  else if x.pa < 2 ^ 36 then
    if x.writeBack then s.flushL2 (fun (l : L2Line) => l.q == q && l.c == x.c && l.pa == x.pa / 64 * 64)
    else match s.l2Access q x.c x.pa x.len x.write data (x.len / 64 + 2) with
      | (s, none) => s.answer 5 []
      | (s, some (d, bad)) => s.answer (if bad then 3 else 0) d
  else if window then
    let va := s.bar2VA q (x.pa - 2 ^ 36)
    if x.write then
      match s.vwrite k va data with
      | (s, .ok _) => s.answer 0 []
      | (s, .error _) => s.answer 5 []
    else match s.vread k va x.len with
      | (s, .ok (d, bad)) => s.answer (if bad then 3 else 0) d
      | (s, .error _) => s.answer 5 []
  else if bar0 then
    let port := s.rd .PT_Q_CFG_HOST_PORT q
    if x.write then (s.bar0Write (.vf q) port (x.pa - 2 ^ 37) data x.len).answer 0 []
    else
      let (s, d) := s.bar0Read (.vf q) port (x.pa - 2 ^ 37) x.len x.len
      s.answer 0 d
  else if 2 ^ 37 + 2 ^ 20 ≤ x.pa ∧ x.pa < 2 ^ 37 + 2 ^ 20 + 2 ^ 16 then
    let o := x.pa - 2 ^ 37 - 2 ^ 20
    if x.write then (s.localWrite q o (ofBytes data)).answer 0 [] else s.answer 0 (toBytes (s.localRead q o) x.len)
  else if 2 ^ 52 ≤ x.pa ∧ x.pa + x.len ≤ 2 ^ 53 then
    let ha := x.pa - 2 ^ 52
    match s.ownCheck q 3 0 ha, s.ownCheck q 3 0 (ha + x.len - 1) with
    | none, none => if x.write then (s.setBytes 3 0 ha data).answer 0 [] else s.answer 0 (s.memBytes 3 0 ha x.len)
    | _, _ => s.answer 5 []
  else s.answer 5 []

/-- Every earlier direct store to the line of `d` has been sent (R212). -/
def lineClear (s : State) (d : DirectStore) : Bool :=
  (s.direct.takeWhile (fun (x : DirectStore) => x.no != d.no)).all (fun (x : DirectStore) => x.st == 1 || x.ha / 64 != d.ha / 64)

/-- The oldest direct store of an operation that its drain row may send (R211, R212, R278): one that waits, or one that failed and whose fault
is resolved, behind none to its line. -/
def nextStore (s : State) (id : Nat) : Option DirectStore :=
  s.direct.find? (fun (d : DirectStore) => d.op == id && (d.st == 0 || (d.st == 2 && !s.isStalled id)) && s.lineClear d)

/-- Stores to one line are acknowledged in the order issued (R212, R277). -/
def storeFirst (s : State) (d : DirectStore) : Bool :=
  (s.direct.takeWhile (fun (x : DirectStore) => x.no != d.no)).all (fun (x : DirectStore) => x.ha / 64 != d.ha / 64)

end State

/-- The debug port's access to the line of a tier address (R378), past the owner check: `dr` is its 576-bit data register. A line stored under a key
reads as poison. Log entry 60, DEDUCED. -/
def State.tapLine (s : State) (dr : Nat) : State :=
  let t := bitsOf dr 52 2
  let u := bitsOf dr 54 4
  let a := bitsOf dr 0 52 / 64 * 64
  if bitsOf dr 58 1 = 1 then
    let s1 := s.setBytes t u a (toBytes (bitsOf dr 64 512) 64)
    let s2 := s1.setPoison t u a (if bitsOf dr 63 1 = 1 then 2 else 0)
    { s2 with encTag := if t = 1 ∨ t = 2 then Tab.set 0 (lkey t u a) 0 s2.encTag else s2.encTag }.answer 0 []
  else
    let bad := s.poisonOf t u a != 0 || ((t == 1 || t == 2) && s.encOf t u a != 0)
    s.answer (if bad then 3 else 0) (s.lineView t u a 64 (if t = 0 then s.h .scratchEpoch u else 0))

/-- TURN_START (R30, R52): cycle 0 of the next turn; held requests and core accesses are served in the order of their arrival. -/
def execTurnStart (s : State) : Host.Outcome State Fault Refusal :=
  let s := s.newTurn
  let s1 := s.retryHeld
  let s2 := s1.heldCores.foldl (fun (s : State) (x : CoreAcc) => s.coreAccess x) { s1 with heldCores := [] }
  .next (s2.heldTap.foldl (fun (s : State) (dr : Nat) => s.tapLine dr) { s2 with heldTap := [] })

/-- A direct store that failed is made again, in its place (R212): its page may lie elsewhere now. -/
def State.remakeStore (s : State) (d : DirectStore) : State :=
  let c : Client := ⟨d.q, ⟨0, 0⟩, d.tag, some d.op⟩
  match s.xlate c d.va true with
  | (s, .error _) => s
  | (s, .ok l) =>
    if pteTier l.pte = 3 ∧ !ptePacked l.pte then
      { s with direct := s.direct.map (fun (x : DirectStore) => if x.no = d.no then { d with ha := leafAddr l d.va, st := 0 } else x) }
    else ({ s with direct := s.direct.filter (fun (x : DirectStore) => x.no != d.no) }.vwrite c d.va d.data).1

/-- DIRECT_HOST_STORE (R211, R267, R277): a drain row sends its oldest direct store to Port A, which holds at most 4,096 requests; a
store that failed and whose page has been mapped anew is made again. -/
def execDirectHostStore (id t : Nat) (s : State) : Host.Outcome State Fault Refusal :=
  let s := s.goTo t
  match s.nextStore id, s.op? id with
  | some d, some o =>
    if s.h .halted o.q = 1 then .next s
    else if d.st = 2 then
      .next (s.remakeStore d)
    else if s.flag .PT_LINK_STAT_CACHE 0 = false then .next (s.failStore d)
    else if 4096 ≤ s.cacheOut then .next (s.ev evPortCredit o.q 0 1)
    else .next { s with direct := s.direct.map (fun (x : DirectStore) => if x = d then { d with st := 1 } else x) }
  | _, _ => .next s

/-- INBOUND_REQUEST (R272). -/
def execInboundRequest (r : InReq) (t : Nat) (s : State) : Host.Outcome State Fault Refusal := .next ((s.goTo t).inbound r)

/-- BAR2_READ_TIMEOUT (R275): a BAR2 read still waiting is completed with completer abort. -/
def execBar2ReadTimeout (port tag : Nat) (s : State) : Host.Outcome State Fault Refusal :=
  match s.heldReqs.find? (fun (r : InReq) => r.port == port && r.tag == tag && r.bar == 2 && !r.write) with
  | none => .next s
  | some r => .next ({ s with heldReqs := s.heldReqs.erase r }.reject r 7 2)

/-- HOST_SNOOP (R276): answered with RspIMiss, an empty success; the module holds no host line. -/
def execHostSnoop (_addr : Nat) (s : State) : Host.Outcome State Fault Refusal := .next (s.answer 0 [])

/-- HOST_ACK (R212, R277): the global-observation response of a direct store: its line holds the written value. -/
def execHostAck (req : Nat) (s : State) : Host.Outcome State Fault Refusal :=
  match s.direct.find? (fun (d : DirectStore) => d.no == req && d.st == 1) with
  | none => .next s
  | some d =>
    if s.storeFirst d then
      .next ({ s with direct := s.direct.filter (fun (x : DirectStore) => x.no != req) }.setBytes 3 0 d.ha d.data)
    else .next s

/-- HOST_REQUEST_TIMEOUT (R278): a CXL.cache request has no response within HOST_TMO, or is answered with an error. -/
def execHostRequestTimeout (req : Nat) (s : State) : Host.Outcome State Fault Refusal :=
  match s.direct.find? (fun (d : DirectStore) => d.no == req && d.st == 1) with
  | some d => .next (s.failStore d)
  | none => match s.readsOut.find? (fun (r : Req) => r.id == req) with
    | some r => .next (s.failRead r)
    | none => .next s

/-- HOLDOFF_EXPIRY (R283): events of the holdoff are sent as one message at its end. -/
def execHoldoffExpiry (q v : Nat) (s : State) : Host.Outcome State Fault Refusal :=
  let i := 8 * q + v
  if s.nQ ≤ q ∨ 8 ≤ v ∨ s.h .holdUntil i = 0 then .next s
  else
    let s := s.goTo (s.h .holdUntil i - s.turn0)
    let port := s.rd .PT_Q_CFG_HOST_PORT q
    let s1 := s.setH .holdUntil i 0
    if s1.h .msixPend (16 * (13 * port + (q + 1)) + v) = 1 then
      .next ((s1.sendMsix port (q + 1) v).setH .holdUntil i
        (if s.rd .PT_Q_CFG_HOLDOFF q = 0 then 0 else s.now + 1000 * s.rd .PT_Q_CFG_HOLDOFF q))
    else .next s1

/-- FLIT_CRC_FAIL (R285 to R287): a flit fails CRC after `fec` flits that FEC has corrected since the last one that failed. -/
def execFlitCrcFail (port lane fec : Nat) (s : State) : Host.Outcome State Fault Refusal :=
  if port < 2 ∧ lane < 16 ∧ s.flag .PT_LINK_STAT_UP port then .next ((s.bump .PT_ERR_CNT_FEC_CORR port fec).crcFail port lane) else .next s

/-- FLIT_NAK (R285): replayed. -/
def execFlitNak (port : Nat) (s : State) : Host.Outcome State Fault Refusal :=
  if port < 2 ∧ s.flag .PT_LINK_STAT_UP port then .next ((s.aerCorrectable port 1 12).bump .PT_ERR_CNT_REPLAY_TX port 1) else .next s

/-- REPLAY_TIMEOUT (R285): replayed; a rollover enters Recovery. -/
def execReplayTimeout (port : Nat) (rollover : Bool) (s : State) : Host.Outcome State Fault Refusal :=
  if port < 2 ∧ s.flag .PT_LINK_STAT_UP port then
    let s1 := (s.aerCorrectable port 2 (if rollover then 8 else 12)).bump .PT_ERR_CNT_REPLAY_TX port 1
    .next (if rollover then s1.bump .PT_LINK_STAT_RECOV port 1 else s1)
  else .next s

/-- PORT_LANE_FAILURE (R287). -/
def execPortLaneFailure (port lane : Nat) (s : State) : Host.Outcome State Fault Refusal :=
  if port < 2 ∧ lane < 16 ∧ s.flag .PT_LINK_STAT_UP port then .next (s.laneFail port lane) else .next s

/-- LINK_DOWN (R288). -/
def execLinkDown (port : Nat) (s : State) : Host.Outcome State Fault Refusal := if port < 2 then .next (s.portDown port) else .next s

/-- LINK_UP (R265, R288, R385): a port whose PERST_N is high has trained; a LINK command in hand completes. -/
def execLinkUp (port width rate : Nat) (flit cache : Bool) (s : State) : Host.Outcome State Fault Refusal :=
  if 2 ≤ port ∨ ¬ (width ∈ [1, 2, 4, 8, 16]) ∨ rate = 0 ∨ 6 < rate ∨ s.h .planes 0 = 0 ∨ s.h .perstLow port = 1 then .next s
  else
    let s1 := ((s.mark .PT_LINK_STAT_UP port).wr .PT_LINK_STAT_WIDTH port width).wr .PT_LINK_STAT_RATE port rate
    let s2 := (s1.wr .PT_LINK_STAT_FLIT port (if flit ∨ rate = 6 then 1 else 0)).wr .PT_LINK_STAT_CACHE port
      (if cache ∧ port = 0 then 1 else 0)
    .next (s2.endLink port stSuccess)

/-- RECOVERY_EXIT (R287): held traffic resumes; a retraining that a LINK command asked for gives its rate, and with WIDEN the widest good
width. -/
def execRecoveryExit (port : Nat) (s : State) : Host.Outcome State Fault Refusal :=
  let k := s.h .linkReq port
  if 2 ≤ port ∨ s.flag .PT_LINK_STAT_UP port = false ∨ k = 0 then .next s
  else
    let bad := s.h .portBad port
    let widest := if bad = 0 then 16 else State.narrowWidth bad 16
    let s1 := s.wr .PT_LINK_STAT_RATE port ((k - 1) % 16)
    .next ((if 16 ≤ k - 1 ∧ widest ≠ 0 then s1.wr .PT_LINK_STAT_WIDTH port widest else s1).endLink port stSuccess)

/-- LINK_TRAINING_TIMEOUT (R320): a LINK command whose port has not reached L0 in 100 ms. -/
def execLinkTrainingTimeout (port : Nat) (s : State) : Host.Outcome State Fault Refusal := .next (s.endLink port stLinkFailed)

/-- PORT_RESET (R288, R384): PERST_N of a port, or a hot reset, which keeps the link; ignored in the power-down sweep. -/
def execPortReset (port : Nat) (hot : Bool) (s : State) : Host.Outcome State Fault Refusal :=
  if 2 ≤ port ∨ s.h .sweepAt 0 ≠ 0 then .next s
  else if hot then (if s.flag .PT_LINK_STAT_UP port then .next (s.portFalls port) else .next s)
  else .next ((s.portDown port).setH .perstLow port 1)

/-- PERST_N_RELEASE (R385): the port may train. -/
def execPerstNRelease (port : Nat) (s : State) : Host.Outcome State Fault Refusal :=
  if port < 2 then .next (s.setH .perstLow port 0) else .next s

/-- A function-level reset (R290, R332): a VF on its quarter's HOST_PORT halts the quarter with DISPOSE 1; HANDSHAKE of the function's pages
clears. Log entry 44, DEDUCED. -/
def State.functionReset (s : State) (port func : Nat) : State :=
  let s1 := if 0 < func ∧ s.rd .PT_Q_CFG_HOST_PORT (func - 1) = port then s.haltQuarter (func - 1) true else s
  let s2 := if func = 0 then (s1.wr .MB_STAT_HANDSHAKE 12 0).wr .MB_STAT_HANDSHAKE 13 0 else s1.wr .MB_STAT_HANDSHAKE (func - 1) 0
  s2.resetFunc port func

/-- FUNCTION_LEVEL_RESET (R290, R332). -/
def execFunctionLevelReset (port func : Nat) (s : State) : Host.Outcome State Fault Refusal :=
  if 2 ≤ port ∨ s.nQ < func then .next s else .next (s.functionReset port func)

/-- IDE_INTEGRITY_FAIL (R280). -/
def execIdeIntegrityFail (port stream : Nat) (s : State) : Host.Outcome State Fault Refusal :=
  if 2 ≤ port ∨ 256 ≤ stream ∨ s.h .ide (256 * port + stream) ≠ 1 then .next s
  else .next (((s.setH .ide (256 * port + stream) 2).mark .PT_LINK_STAT_IDE_FAIL port).raisePf 3)

/-- PORT_ADAPTATION_REFRESH (R52, R289): one lane in w 512 to 3,583, on a port that holds no access; it changes nothing that software sees. -/
def execPortAdaptationRefresh (port : Nat) (s : State) : Host.Outcome State Fault Refusal :=
  if s.heldReqs.any (fun (r : InReq) => r.port == port) then .next s else .next (s.goTo (s.cycW 512))

/-- CORE_DEVICE_ACCESS (R292 to R294). -/
def execCoreDeviceAccess (x : CoreAcc) (t : Nat) (s : State) : Host.Outcome State Fault Refusal := .next ((s.goTo t).coreAccess x)

/-- MAINTENANCE_ACTION (R293). -/
def execMaintenanceAction (q action : Nat) (s : State) : Host.Outcome State Fault Refusal :=
  if q < s.nQ then .next (s.maintain q action) else .next s

/-- CORE_RELEASE (R295): RUN bit `c` of CORE_CTRL is set. -/
def execCoreRelease (a : Agent) (q c : Nat) (s : State) : Host.Outcome State Fault Refusal :=
  if q < s.nQ ∧ c < 3 then
    .next (s.busWrite a (0x130000 + 0x100 * q) (2 ^ 61 * (s.rd .CORE_CTRL_RUN q ||| 2 ^ c) + 2 ^ 2 * s.rd .CORE_CTRL_BOOT q))
  else .next s

/-- CORE_HOLD (R295): RUN bit `c` is cleared. Log entry 48, DEDUCED. -/
def execCoreHold (a : Agent) (q c : Nat) (s : State) : Host.Outcome State Fault Refusal :=
  let run := s.rd .CORE_CTRL_RUN q
  if q < s.nQ ∧ c < 3 then
    .next (s.busWrite a (0x130000 + 0x100 * q) (2 ^ 61 * (run - (run &&& 2 ^ c)) + 2 ^ 2 * s.rd .CORE_CTRL_BOOT q))
  else .next s

/-- TIMER_COMPARE (R292): the core-local timer reaches the compare value. -/
def execTimerCompare (q c : Nat) (s : State) : Host.Outcome State Fault Refusal :=
  let i := 3 * q + c
  let s := s.goTo (10 * s.h .timerCmp i - s.turn0)
  if q < s.nQ ∧ c < 3 ∧ s.h .timerCmp i ≤ s.now / 10 then .next (s.setH .timerPend i 1) else .next s

end Sys2Proof.Machine
end

