-- ==== Sys2Proof/Machine/Resilience.lean ====
section
/-! DEFINITION. Resilience (chapter 15): Command Processor failover, the MC's self-tests and receiver refresh, and module resets. -/

namespace Sys2Proof.Machine

namespace State

/-- CFW is verified before a CP pair is released (R370): the slot that the non-volatile store names, else the other one, which sets CFW_FALLBACK;
the answer says whether one verified. -/
def bootCfw (s : State) : State × Bool :=
  let sel := s.h .nvSel 0
  let good := fun (k : Nat) => s.authentic 2 (s.obj (objCfw + k))
  let run := fun (k : Nat) =>
    let img := s.obj (objCfw + k)
    ((s.wr .FW_STATE_CFW_SLOT 0 k).wr .FW_STATE_CFW_VER 0 (objVersion img)).wr .SEC_STAT_SVN_CFW 0 (objSvn img)
  if good sel then (run sel, true)
  else if good (1 - sel) then ((run (1 - sel)).mark .SEC_STAT_CFW_FALLBACK 0, true)
  else (s, false)

/-- A signed object is put to use if it verifies (R370), and is treated as absent if it does not. -/
def useObject (s : State) (use src ty : Nat) : State := s.setObj use (if s.authentic ty (s.obj src) then s.obj src else [])

/-- The control plane starts after a module or power reset (R330, R345, R370): CFW, the manifest and the override policy are verified, and the CP
pairs that pass their self-test enter service. -/
def startControl (s : State) (pair0 pair1 : Bool) : State :=
  let r := s.bootCfw
  let s1 := (r.1.useObject objManifestUse objManifest 3).useObject objPolicyUse objPolicy 4
  let up := if r.2 then (if pair0 then 1 else 0) + (if pair1 then 2 else 0) else 0
  let old := s1.rd .FW_STATE_CP_PAIR 0
  let act := if up = 0 ∨ bitsOf up old 1 = 1 then old else 1 - old
  let s2 := (s1.setH .cpUp 0 up).wr .FW_STATE_CP_PAIR 0 act
  let s3 := (s2.wr .RES_STAT_CP_SPARE 0 (if up = 3 then 1 else 0)).setH .spareImg 0 (if up = 3 then s2.rd .FW_STATE_CFW_SLOT 0 + 1 else 0)
  let s4 := s3.wr .FW_STATE_SERVICE 0 s3.serviceOf
  if s4.rd .FW_STATE_CFW_VER 0 = s.rd .FW_STATE_CFW_VER 0 ∧ s4.rd .FW_STATE_CFW_SLOT 0 = s.rd .FW_STATE_CFW_SLOT 0 then s4 else s4.newMeasurement

/-- Host-bound stores with no acknowledgement are abandoned and counted (R347): the host line holds its old or the written value. -/
def abandonStores (s : State) : State :=
  let out := s.direct.filter (fun (d : DirectStore) => d.st != 2)
  let s1 := out.foldl (fun (s : State) (d : DirectStore) =>
    if Config.hostLineNew s.fresh.1 then s.fresh.2.setBytes 3 0 d.ha d.data else s.fresh.2) { s with direct := [] }
  s1.bump .RES_STAT_HOST_ABANDONED 0 out.length

/-- What the quiesce of a module reset still serves (Table 15-11): inbound posted writes and core accesses that a boundary window held. Inbound reads are
lost with the link. -/
def serveHeld (s : State) : State :=
  let s1 := (s.heldReqs.filter (fun (r : InReq) => r.write)).foldl (fun (s : State) (r : InReq) => s.serveInbound r)
    ({ s with turn0 := s.now, heldReqs := [] }.setH .sched 0 0)
  s1.heldCores.foldl (fun (s : State) (x : CoreAcc) => s.coreAccess x) { s1 with heldCores := [] }

/-- Every operation is discarded without completion (R346): park records are invalidated, stalled accesses dropped. -/
def discardOps (s : State) : State :=
  let s1 := s.ops.foldl (fun (s : State) (o : Op) => s.clearRecord o) s
  let s2 : State := { s1 with
    ops := [], submitQ := [], resumeQ := [], allocQ := [], stalls := [], repeats := [], claims := [], reqs := [], packStalls := [],
    cqWait := [], late := [], mcRing := [], memQ := [], openRow := [], tlb := [], heldReqs := [] }
  let gone := ([.allocAt, .allocRow, .allocFree, .allocWait, .dispose, .submitSince, .cqSince, .rrobin, .linkReq] : List Hid).map Hid.ctorIdx
  let s3 : State := { s2 with hid := Tab.keep (fun k => !gone.contains (k % 512)) s2.hid }
  let s4 := (List.range s3.nQ).foldl (fun (s : State) (q : Nat) => (s.syncBlanks q).wr .TOK_Q_STAT_FREE q (s.h .allot q)) s3
  (List.range (4 * (s4.nStacks + s4.nBays))).foldl (fun (s : State) (e : Nat) => s.syncOut e) s4

/-- Bank engines drop their commands (R346); regions stay. -/
def dropBanks (s : State) : State :=
  (List.range s.nStacks).foldl (fun (s : State) (k : Nat) =>
    ((List.range 64).foldl (fun (s : State) (p : Nat) =>
      let s := s.dropCmds k p 64
      s.setEngine k p { s.engine k p with copies := [], run := none, units := 0, cmdFlags := 0 }) s).syncBusy k) s

/-- Send records are invalidated, received messages forgotten, and every route is DOWN (Table 15-10). -/
def dropFabric (s : State) : State :=
  let s1 := s.freeRecords s.feTx
  let gone := ([.feApps, .feAckAt] : List Hid).map Hid.ctorIdx
  let s2 : State := { s1 with feRx := [], feHeld := [], hid := Tab.keep (fun k => !gone.contains (k % 512)) s1.hid }
  (List.range s2.nQ).foldl (fun (s : State) (q : Nat) => s.wr .FE_Q_DOWN_DOWN q (2 ^ 64 - 1)) s2

/-- The mailbox rings of every page stop, and HANDSHAKE clears (Table 15-10). -/
def stopRings (s : State) : State :=
  ((List.range 14).foldl (fun (s : State) (p : Nat) => (s.wr .MB_SQ_CFG_EN p 0).wr .MB_CQ_CFG_EN p 0) s).clearHandshakes

/-- Both ports retrain (R345): their links are gone, and their functions are reset. -/
def retrainPorts (s : State) : State :=
  (List.range 2).foldl (fun (s : State) (p : Nat) => (List.range 13).foldl (fun (s : State) (f : Nat) => s.resetFunc p f) (s.linkGone p)) s

/-- The quiesce of a module reset is over, and the planes go into reset (R345 to R347). -/
def planesDown (s : State) : State :=
  let cause := s.h .quiesce 0 - 1
  let s1 := s.serveHeld.abandonStores.holdCores.discardOps.dropBanks.dropFabric.stopRings.retrainPorts
  let s2 := ((s1.setH .quiesce 0 0).setH .planes 0 0).setH .cpUp 0 0
  let s3 := (s2.wr .RES_STAT_LAST_RESET 0 cause).wr .RES_STAT_CP_SPARE 0 0
  s3.wr .RES_STAT_LEVEL 0 s3.levelOf

/-- The planes leave a module reset (R345): the CP starts, staged fences are applied (R74), slots are rebuilt, and a new turn starts at cycle 0. Quarters
that software halted stay halted. -/
def planesUp (s : State) (pair0 pair1 : Bool) : State :=
  let s1 := ((s.setH .planes 0 1).setH .rstPairs 0 0).startControl pair0 pair1
  let s2 := s1.refence.applyOuts
  let s3 := (List.range 16).foldl (fun (s : State) (u : Nat) => ((s.wr .UU_SLOTS_SLOT_STATE u 0).wr .UU_SLOTS_SLOT_Q u 0).syncUnit u) { s2 with uuSlots := [] }
  let s4 := (List.range s3.nQ).foldl (fun (s : State) (q : Nat) => s.setH .halted q (s.rd .MB_STAT_HALTED q)) s3.rebuildSlots
  let s5 := (s4.wr .TURN_COUNT_COUNT 0 ((s4.rd .TURN_COUNT_COUNT 0 + 1) % 2 ^ 64)).beginTurn
  let s6 := s5.heldTap.foldl (fun (s : State) (dr : Nat) => s.tapLine dr) { s5 with heldTap := [] }
  s6.wr .RES_STAT_LEVEL 0 s6.levelOf

end State

/-- TURN_MARK (R31, R359, R392): mark `m`: the counters are dumped, and coolant flow, in 0.05 L/min, is sampled. Log entry 57, DEDUCED. -/
def execTurnMark (m flow : Nat) (s : State) : Host.Outcome State Fault Refusal :=
  if 8 ≤ m then .next s
  else
    let s1 := ((s.goTo (m * s.len / 8)).dump m).wr .PWR_STAT_FLOW 0 (min flow 255)
    if flow < 36 then .next (((s1.mark .PWR_STAT_FLOW_LOW 0).setH .flowLow 0 1).mcLog 16 15 flow)
    else if 38 < flow then .next (s1.setH .flowLow 0 0)
    else .next s1

/-- LOCKSTEP_MISMATCH (R337, R338): the active pair stops and the spare takes over; with no spare the MC raises a module reset. Log entry 53, DEDUCED. -/
def execLockstepMismatch (s : State) : Host.Outcome State Fault Refusal :=
  let act := s.rd .FW_STATE_CP_PAIR 0
  if bitsOf (s.h .cpUp 0) act 1 = 0 then .next s
  else
    let s1 := (s.setH .cpUp 0 (s.h .cpUp 0 - 2 ^ act)).mcLog 8 15 act
    if s1.spareUp then
      let s2 := ((s1.wr .FW_STATE_CP_PAIR 0 (1 - act)).wr .RES_STAT_CP_SPARE 0 0).mark .RES_STAT_FAILOVER 0
      let s3 := (s2.setH .spareImg 0 0).setH .selStaged 0 0
      .next (s3.wr .FW_STATE_SWAP_PEND 0 (if s3.h .selStaged 1 = 0 then 0 else 1))
    else .next (s1.startQuiesce 4)

/-- CP_PAIR_RETEST (R338): the pair out of service becomes the spare if it passes. -/
def execCpPairRetest (pass : Bool) (s : State) : Host.Outcome State Fault Refusal :=
  if pass ∧ s.h .cpUp 0 ≠ 0 ∧ s.spareUp = false then
    .next (((s.setH .cpUp 0 3).wr .RES_STAT_CP_SPARE 0 1).setH .spareImg 0 (s.rd .FW_STATE_CFW_SLOT 0 + 1))
  else .next s

/-- MC_WATCHDOG (R333, R371): the MC restarts from its active MFW slot; every SPDM session ends. -/
def execMcWatchdog (s : State) : Host.Outcome State Fault Refusal := .next ((s.mcLog 11 15 0).newMeasurement)

/-- How many units of a class a stack has. -/
def classSize (cls : Nat) : Nat :=
  match cls with
  | 1 => 4
  | 2 => 64
  | 3 => 32
  | 5 => 64
  | _ => 1

/-- The units tested in a window (R334): of each stack the next in round-robin order of each class, the update unit of each stack and of each bay in
service, and the units that failed the last test. -/
def State.testedNow (s : State) (cls u i : Nat) : Bool :=
  s.h .testBad ((cls * 16 + u) * 64 + i) == 1 || (decide (u < 12) && i == s.h .testPos cls % classSize cls) ||
    (cls == 4 && s.rd .CRT_STAT_STATE (u - 12) == 3)

/-- UNIT_SELF_TEST (R334): the self-tests of one boundary window; a unit that fails two in a row leaves service at the next turn end. Log entry 61, DESIGN CHOICE. -/
def execUnitSelfTest (failing : List (Nat × Nat × Nat)) (s : State) : Host.Outcome State Fault Refusal :=
  let s1 := s.goTo (s.cycW 512)
  let key := fun (e : Nat × Nat × Nat) => (e.1 * 16 + e.2.1) * 64 + e.2.2
  let bad := failing.filter (fun (e : Nat × Nat × Nat) => s1.unitExists e.1 e.2.1 e.2.2 && !s1.unitIsOut e.1 e.2.1 e.2.2 && s1.testedNow e.1 e.2.1 e.2.2)
  let was := bad.filter (fun (e : Nat × Nat × Nat) => s1.h .testBad (key e) == 1)
  let s2 : State := { s1 with hid := Tab.keep (fun k => k % 512 != Hid.testBad.ctorIdx) s1.hid }
  let s3 := bad.foldl (fun (s : State) (e : Nat × Nat × Nat) => s.setH .testBad (key e) 1) s2
  let s4 := [1, 2, 3, 5].foldl (fun (s : State) (c : Nat) => s.setH .testPos c ((s.h .testPos c + 1) % classSize c)) s3
  .next { s4 with leaving := s4.leaving ++ was.filter (fun (e : Nat × Nat × Nat) => !s4.leaving.contains e) }

/-- RECEIVER_ADAPTATION_REFRESH (R348): one PC of every stack and one channel of every bay; a failed stack lane is a lane failure, and a bay that fails
four times is reported for withdrawal. -/
def execReceiverAdaptationRefresh (failing : List (Nat × Nat × Nat)) (s : State) : Host.Outcome State Fault Refusal :=
  let s := s.goTo (s.cycW 512)
  let p := s.h .refreshPos 0 % 64
  let s0 := (List.range s.nStacks).foldl (fun (s : State) (k : Nat) => s.setH .refreshEnd (State.chanNo 1 k p) (s.now + 512))
    (s.setH .refreshPos 0 ((p + 1) % 64))
  let s1 := failing.foldl (fun (s : State) (e : Nat × Nat × Nat) =>
    if e.1 = 1 ∧ e.2.1 < s.nStacks ∧ e.2.2 < 35 then s.laneFails e.2.1 p e.2.2 else s) s0
  .next ((List.range s1.nBays).foldl (fun (s : State) (d : Nat) =>
    let ch := s.h .refreshCh d % 32
    let s := s.setH .refreshEnd (State.chanNo 2 d ch) (s.now + 512)
    if failing.any (fun (e : Nat × Nat × Nat) => e.1 == 2 && e.2.1 == d) then
      if s.h .refreshBad d = 3 then (s.setH .refreshBad d 0).mcLog 4 15 d else s.addH .refreshBad d 1
    else (s.setH .refreshBad d 0).setH .refreshCh d ((ch + 1) % 32)) s1)

/-- MOD_RST_N (R345, R384): held low for 1 µs: a module reset begins; ignored in the power-down sweep. -/
def execModRstN (s : State) : Host.Outcome State Fault Refusal :=
  if s.h .sweepAt 0 ≠ 0 then .next s
  else if s.h .planes 0 = 1 then .next ((s.setH .rstHeld 0 1).startQuiesce 2)
  else .next (s.setH .rstHeld 0 1)

/-- QUIESCE_END (R345): the planes are reset; while MOD_RST_N is held they stay in reset. `pair0` and `pair1`: the CP pairs that pass their self-test. Log entry 54, DEDUCED. -/
def execQuiesceEnd (pair0 pair1 : Bool) (s : State) : Host.Outcome State Fault Refusal :=
  if s.h .quiesce 0 = 0 then .next s
  else
    let s1 := s.planesDown
    if s1.h .rstHeld 0 = 1 then .next (s1.setH .rstPairs 0 (1 + (if pair0 then 1 else 0) + (if pair1 then 2 else 0)))
    else .next (s1.planesUp pair0 pair1)

/-- MOD_RST_N_RELEASE (R345, R384): a reset that was held continues. -/
def execModRstNRelease (s : State) : Host.Outcome State Fault Refusal :=
  let k := s.h .rstPairs 0
  let s1 := s.setH .rstHeld 0 0
  if k = 0 then .next s1 else .next (s1.planesUp (bitsOf (k - 1) 0 1 == 1) (bitsOf (k - 1) 1 1 == 1))

end Sys2Proof.Machine
end

