-- ==== Sys2Proof/Machine/Security.lean ====
section
/-! DEFINITION. Security and debug access (chapter 17): attestation requests, the debug port's TAP and the erasure that opens it. -/

namespace Sys2Proof.Machine

namespace State

/-- A measurement block (Table 17-3). -/
def measurement (s : State) (i : Nat) : List Byte :=
  let digest := fun (b : List Byte) => toBytes (Config.sha384 b) 48
  let mfw := s.obj (objMfw + s.rd .FW_STATE_MFW_SLOT 0)
  let cfw := s.obj (objCfw + s.rd .FW_STATE_CFW_SLOT 0)
  match i with
  | 1 => toBytes Config.romDigest 48
  | 2 => digest mfw ++ toBytes (s.rd .FW_STATE_MFW_VER 0) 4
  | 3 => digest cfw ++ toBytes (s.rd .FW_STATE_CFW_VER 0) 4
  | 4 => toBytes (objVersion (s.obj objManifestUse)) 4 ++ digest (s.obj objManifestUse)
  | 5 => if (s.obj objPolicyUse).isEmpty then toBytes 0 48 else digest (s.obj objPolicyUse)
  | 6 => toBytes (s.rd .SEC_STAT_REVOKED 0) 1 ++ toBytes (s.rd .SEC_STAT_SVN_MIN_MFW 0) 1 ++ toBytes (s.rd .SEC_STAT_SVN_MIN_CFW 0) 1
  | 7 => if s.flag .SEC_STAT_DBG_OPEN 0 then toBytes 1 1 ++ toBytes (s.rd .SEC_STAT_SCOPE 0) 1 ++ digest (s.obj objToken) else toBytes 0 50
  | 8 => toBytes 0xA1 1 ++ toBytes (s.rd .SEC_SERIAL_SERIAL 0) 8 ++ toBytes (if s.lt09 then 0x4C0A else 0x4C12) 2
  | _ => []

/-- What the module's own keys make of a request (R371, R372): bytes that the spec does not give. -/
def identity (s : State) (kind n : Nat) : State × List Byte :=
  let (c, s) := s.fresh
  (s, (List.range n).map (fun i => BitVec.ofNat 8 (Config.identityByte kind i c)))

/-- An SPDM message (DSP0274): version 1.3, its code and its two parameters, then its body. Log entry 58, PRESUMED. -/
def spdmMsg (code p1 p2 : Nat) (body : List Byte) : List Byte := toBytes (0x13 + 2 ^ 8 * code + 2 ^ 16 * p1 + 2 ^ 24 * p2) 4 ++ body

/-- The choices of Table 17-2 as the CAPABILITIES and ALGORITHMS messages give them (DSP0274). Log entry 58, PRESUMED. -/
def spdmCapabilities : List Byte := spdmMsg 0x61 0 0 (toBytes 0 4 ++ toBytes 0x2D6 4 ++ toBytes 0x1000 4 ++ toBytes 0x1000 4)
def spdmAlgorithms : List Byte :=
  spdmMsg 0x63 3 0 (toBytes (48 + 2 ^ 16 + 2 ^ 25) 4 ++ toBytes 4 4 ++ toBytes 0x80 4 ++ toBytes 2 4 ++ toBytes 0 16 ++
    toBytes (2 + 2 ^ 8 * 0x20 + 2 ^ 16 * 0x10) 4 ++ toBytes (3 + 2 ^ 8 * 0x20 + 2 ^ 16 * 2) 4 ++ toBytes (5 + 2 ^ 8 * 0x20 + 2 ^ 16) 4)

/-- An ERROR message: invalid request (1), busy (3) or unsupported request (7), for the answers 1, 7 and 1 of the port. -/
def spdmError (s : State) (status code : Nat) : State := s.answer status (spdmMsg 0x7F code 0 [])

/-- A measurement block as MEASUREMENTS carries it: its index, DMTF's form, its size and its value. -/
def spdmBlock (s : State) (i : Nat) : List Byte :=
  let m := s.measurement i
  toBytes i 1 ++ toBytes 1 1 ++ toBytes (m.length + 3) 2 ++ toBytes i 1 ++ toBytes m.length 2 ++ m

/-- MEASUREMENTS: all blocks for index 0xFF, their number for 0, else one; then the nonce, the requester's context and the signature. -/
def spdmMeasurements (s : State) (i : Nat) : State :=
  let rec_ := if i = 0xFF then (List.range 8).flatMap (fun k => s.spdmBlock (k + 1)) else if i = 0 then [] else s.spdmBlock i
  let (s, d) := s.identity 3 (32 + 2 + 8 + 96)
  s.answer 0 (spdmMsg 0x60 (if i = 0 then 8 else 0) 0 (toBytes (if i = 0xFF then 8 else if i = 0 then 0 else 1) 1 ++ toBytes rec_.length 3 ++ rec_ ++ d))

/-- The lowest free session of a transport, of four (Table 17-2); bit k of the word says that session k is open, bit 4 + k that it is established. -/
def spdmFree (s : State) (t : Nat) : Option Nat := (List.range 4).find? (fun k => bitsOf (s.h .spdm t) k 1 == 0)

/-- IDE streams of a port that have keys (R266: a Link stream and 8 Selective ones). -/
def ideCount (s : State) (port : Nat) : Nat := ((List.range 256).filter (fun k => s.h .ide (256 * port + k) != 0)).length

/-- An SPDM request (R371 to R373, Table 17-2). -/
def spdm (s : State) (t : Nat) (k : SpdmKind) : State :=
  let up := if t < 2 then s.flag .PT_LINK_STAT_UP t else true
  let open_ := fun (n : Nat) => decide (n < 4) && bitsOf (s.h .spdm t) n 1 == 1
  if s.h .mfwUp 0 = 0 ∨ 4 ≤ t ∨ up = false then s.answer 4 []
  else if t = 3 then s.answer (if k = .discovery then 0 else 1) []
  else match k with
    | .discovery => s.answer 0 []
    | .getVersion => s.answer 0 (toBytes 0x0410 2 ++ toBytes 0 2 ++ toBytes 0x0100 2 ++ toBytes 0x1300 2)
    | .getCapabilities => s.answer 0 spdmCapabilities
    | .negotiateAlgorithms => s.answer 0 spdmAlgorithms
    | .getDigests => let (s, d) := s.identity 0 48; s.answer 0 (spdmMsg 0x01 0 1 d)
    | .getCertificate => let (s, d) := s.identity 1 1024; s.answer 0 (spdmMsg 0x02 0 0 (toBytes 1024 4 ++ d))
    | .challenge => let (s, d) := s.identity 2 (48 + 32 + 48 + 2 + 8 + 96); s.answer 0 (spdmMsg 0x03 0 1 d)
    | .getMeasurements i => if i ≤ 8 ∨ i = 0xFF then s.spdmMeasurements i else s.spdmError 1 1
    | .keyExchange =>
      match s.spdmFree t with
      | none => s.spdmError 7 3
      | some n =>
        let (s, d) := (s.addH .spdm t (2 ^ n)).identity 4 (32 + 96 + 48 + 2 + 96)
        s.answer 0 (spdmMsg 0x64 0 0 (toBytes n 2 ++ toBytes 0 2 ++ d))
    | .finish n =>
      if open_ n ∧ bitsOf (s.h .spdm t) (4 + n) 1 = 0 then (s.addH .spdm t (2 ^ (4 + n))).answer 0 (spdmMsg 0x65 0 0 []) else s.spdmError 1 1
    | .endSession n =>
      if open_ n then
        (s.setH .spdm t (s.h .spdm t - 2 ^ n - 2 ^ (4 + n) * bitsOf (s.h .spdm t) (4 + n) 1)).answer 0 (spdmMsg 0x6C 0 0 [])
      else s.spdmError 1 1
    | .ideKm port stream =>
      if port = t ∧ 16 ≤ s.h .spdm t ∧ stream < 256 ∧ (s.h .ide (256 * port + stream) ≠ 0 ∨ s.ideCount port < 9) then
        (s.setH .ide (256 * port + stream) 1).answer 0 []
      else s.spdmError 1 1
    | .other => s.spdmError 1 7

/-- A TAP instruction (R376): with its condition false it selects the bypass register. The answer is what the instruction register captures, then the data
register. -/
def tap (s : State) (opcode : Nat) (cond : Bool) (run : State → State × List Byte) : State :=
  let ir := toBytes (if s.flag .SEC_STAT_DBG_OPEN 0 then 5 else 1) 1
  if cond then
    let (s1, d) := run (s.setH .tapIr 0 opcode)
    s1.answer 0 (ir ++ d)
  else (s.setH .tapIr 0 0xFF).answer 0 (ir ++ [0#8])

/-- A TAP instruction that only shows a data register. Log entry 59, DESIGN CHOICE. -/
def tapShow (s : State) (opcode : Nat) (cond : Bool) (d : List Byte) : State := s.tap opcode cond (fun (s : State) => (s, d))

/-- A bit of SCOPE in force. -/
def scopeBit (s : State) (b : Nat) : Bool := bitsOf (s.rd .SEC_STAT_SCOPE 0) b 1 == 1

/-- Steps 3 and 4 of R380: every key is erased and the debug port opens; key actions staged for this window are not permitted (R375). -/
def openDebug (s : State) : State :=
  let staged := s.late.filter (fun (l : Late) => match l.until_ with
    | .keyApplied _ => true
    | _ => false)
  let s0 := staged.foldl (fun (s : State) (l : Late) => s.complete l.page ⟨l.tag, l.source, stNotPermitted, 0, false, 0, 0, none⟩)
    { s with late := s.late.filter (fun (l : Late) => !staged.contains l) }
  let s1 := (List.range s.nQ).foldl (fun (s : State) (q : Nat) => ((s.setH .keyStage q 0).setH .keyNum q 0).wr .MEM_ENC_STAT_KEY q 2) s0
  let s2 := (List.range 512).foldl (fun (s : State) (i : Nat) => if s.h .ide i = 1 then s.setH .ide i 2 else s) s1
  let scope := objScope (s2.obj objToken)
  let s3 := ((((s2.newMeasurement.mark .SEC_STAT_DBG_OPEN 0).wr .SEC_STAT_SCOPE 0 scope).wr .SEC_STAT_ERASE_PEND 0 0).setH .eraseReady 0 0).mcLog 12 15 scope
  let mine := s3.late.filter (fun (l : Late) => l.until_ == .erased)
  mine.foldl (fun (s : State) (l : Late) => s.complete l.page ⟨l.tag, l.source, stSuccess, 0, false, 0, 0, none⟩)
    { s3 with late := s3.late.filter (fun (l : Late) => l.until_ != Until.erased) }

end State

/-- SPDM_REQUEST (R372). Log entry 58, PRESUMED. -/
def execSpdmRequest (transport : Nat) (k : SpdmKind) (s : State) : Host.Outcome State Fault Refusal := .next (s.spdm transport k)

/-- EXTEST (R376): while the 48 V planes are in reset. -/
def execExtest (s : State) : Host.Outcome State Fault Refusal := .next (s.tapShow 0x00 (s.h .planes 0 == 0) [])

/-- SAMPLE/PRELOAD (R376). -/
def execSamplePreload (s : State) : Host.Outcome State Fault Refusal := .next (s.tapShow 0x01 true [])

/-- IDCODE (R376, R377). -/
def execIdcode (s : State) : Host.Outcome State Fault Refusal :=
  .next (s.tapShow 0x02 true (toBytes (if s.lt09 then 0x14C0A56B else 0x14C1256B) 4))

/-- CLAMP (R376): as EXTEST, with the bypass register. -/
def execClamp (s : State) : Host.Outcome State Fault Refusal := .next (s.tapShow 0x03 (s.h .planes 0 == 0) [0#8])

/-- HIGHZ (R376). -/
def execHighz (s : State) : Host.Outcome State Fault Refusal := .next (s.tapShow 0x04 (s.h .planes 0 == 0) [0#8])

/-- DBG_STATE (R376): SEC_STAT bits 63:32. -/
def execDbgState (s : State) : Host.Outcome State Fault Refusal := .next (s.tapShow 0x10 true (toBytes (s.regVal .SEC_STAT 0 / 2 ^ 32) 4))

/-- UNLOCK_NONCE (R376, R379). -/
def execUnlockNonce (s : State) : Host.Outcome State Fault Refusal := .next (s.tapShow 0x11 true (toBytes s.nonceNow 32))

/-- UNLOCK_LOAD (R376, R379, R380): the token is submitted. -/
def execUnlockLoad (obj : SignedObj) (s : State) : Host.Outcome State Fault Refusal :=
  .next (s.tap 0x12 true (fun (s : State) => (if s.h .mfwUp 0 = 1 then (s.tryUnlock obj.bytes).1 else s, [])))

/-- DEBUG_ERASURE (R371, R380): w 2,560 once the halt and the scan are complete. Log entry 47, DESIGN CHOICE. -/
def execDebugErasure (s : State) : Host.Outcome State Fault Refusal :=
  let s := s.goTo (s.cycW 2560)
  if s.flag .SEC_STAT_ERASE_PEND 0 ∧ s.h .eraseReady 0 ≠ 0 ∧ s.h .eraseReady 0 ≤ s.now + 1 then .next s.openDebug else .next s

/-- REG_ACCESS (R376, R378): offset [25:0], write [26], data [95:32]; with the rights of the MC. -/
def execRegAccess (dr : BitVec 96) (s : State) : Host.Outcome State Fault Refusal :=
  let d := dr.toNat
  .next (s.tap 0x20 (s.scopeBit 2) (fun (s : State) =>
    if bitsOf d 26 1 = 1 then (s.agentWrite .mc (bitsOf d 0 26) (bitsOf d 32 64), [])
    else
      let s1 := s.agentRead .mc (bitsOf d 0 26)
      (s1, s1.reply.data)))

/-- MEM_ACCESS (R376, R378): held in boundary windows as a BAR2 access is. -/
def execMemAccess (dr : BitVec 576) (s : State) : Host.Outcome State Fault Refusal :=
  if s.scopeBit 3 then
    let s1 := s.setH .tapIr 0 0x21
    if s1.inWindow then .next { s1 with heldTap := s1.heldTap ++ [dr.toNat] } else .next (s1.tapLine dr.toNat)
  else .next (s.tapShow 0x21 false [])

/-- MC_DEBUG (R376): the MC debug module is selected. -/
def execMcDebug (s : State) : Host.Outcome State Fault Refusal := .next (s.tapShow 0x22 (s.scopeBit 0) [])

/-- CP_DEBUG (R376): the CP debug module is selected. -/
def execCpDebug (s : State) : Host.Outcome State Fault Refusal := .next (s.tapShow 0x23 (s.scopeBit 1) [])

/-- BYPASS (R376). -/
def execBypass (s : State) : Host.Outcome State Fault Refusal := .next (s.tapShow 0xFF true [0#8])

end Sys2Proof.Machine
end

