-- ==== Sys2Proof/Machine/ConfigSpace.lean ====
section
/-! DEFINITION. Configuration space of the ports' functions (R266, R268, R269, R372, R385): the header, the capabilities of Table 12-1, and the DOE
mailbox. -/

namespace Sys2Proof.Machine

namespace State

/-- The SPDM request that a message's bytes ask for (R372): its code, with the operand that the message carries. -/
def spdmOf (b : List Byte) : SpdmKind :=
  match ofBytes ((b.drop 1).take 1) with
  | 0x84 => .getVersion
  | 0xE1 => .getCapabilities
  | 0xE3 => .negotiateAlgorithms
  | 0x81 => .getDigests
  | 0x82 => .getCertificate
  | 0x83 => .challenge
  | 0xE0 => .getMeasurements (ofBytes ((b.drop 3).take 1))
  | 0xE4 => .keyExchange
  | _ => .other

/-- Places a response object of the DOE mailbox: its first dword and its payload. -/
def doeRespond (s : State) (f head : Nat) (payload : List Byte) : State :=
  let n := (payload.length + 3) / 4
  let s1 := (List.range n).foldl (fun (s : State) (i : Nat) =>
    s.setH .doe (4096 * f + 2048 + 2 + i) (ofBytes ((payload.drop (4 * i)).take 4)))
    ((s.setH .doe (4096 * f + 2048) head).setH .doe (4096 * f + 2048 + 1) (n + 2))
  ((s1.setH .doe (4096 * f) 0).setH .doe (4096 * f + 1) (n + 2)).setH .doe (4096 * f + 2) 0

/-- The protocols that a function's mailbox serves, by DOE discovery: SPDM and secured SPDM on the PF, discovery alone on a VF (R372). -/
def doeDiscovery (func i : Nat) : Nat :=
  if func ≠ 0 ∨ 3 ≤ i then 1 else 1 + 2 ^ 16 * i + 2 ^ 24 * ((i + 1) % 3)

/-- GO of the DOE mailbox: the object written is answered. A secured message is answered by SPDM_REQUEST. Log entry 45, PRESUMED. -/
def doeGo (s : State) (port func : Nat) : State :=
  let f := 13 * port + func
  let w := fun (i : Nat) => s.h .doe (4096 * f + 16 + i)
  let n := s.h .doe (4096 * f)
  let head := w 0
  if bitsOf head 0 16 ≠ 1 then s.setH .doe (4096 * f) 0
  else if bitsOf head 16 8 = 0 then s.doeRespond f head (toBytes (doeDiscovery func (bitsOf (w 2) 0 8)) 4)
  else if bitsOf head 16 8 = 1 ∧ func = 0 then
    let s1 := s.spdm port (spdmOf ((List.range (n - 2)).flatMap (fun i => toBytes (w (2 + i)) 4)))
    s1.doeRespond f head s1.reply.data
  else s.setH .doe (4096 * f) 0

/-- A write to the DOE capability: GO (bit 31) or abort (bit 0) of the control, a dword into the write mailbox, or past one of the response. -/
def doeWrite (s : State) (port func off val : Nat) : State :=
  let f := 13 * port + func
  let n := s.h .doe (4096 * f)
  if off = 0x168 then
    (if bitsOf val 0 1 = 1 then (s.setH .doe (4096 * f) 0).setH .doe (4096 * f + 1) 0 else if bitsOf val 31 1 = 1 then s.doeGo port func else s)
  else if off = 0x170 then (if n < 1024 then (s.setH .doe (4096 * f + 16 + n) (val % 2 ^ 32)).setH .doe (4096 * f) (n + 1) else s)
  else if off = 0x174 then
    (if s.h .doe (4096 * f + 2) + 1 < s.h .doe (4096 * f + 1) then s.addH .doe (4096 * f + 2) 1
     else (s.setH .doe (4096 * f + 1) 0).setH .doe (4096 * f + 2) 0)
  else s

/-- The device identity of a function. -/
def devId (s : State) (func : Nat) : Nat := if func = 0 then (if s.lt09 then 0x4C0A else 0x4C12) else (if s.lt09 then 0x4C0B else 0x4C13)

/-- What a configuration dword reads (R266, R268, R269). Log entry 45, PRESUMED. -/
def cfgRead (s : State) (port func off : Nat) : Nat :=
  let f := 13 * port + func
  let c := s.h .cfgMem f
  let held := match (cfgRows (func != 0)).find? (fun w => w.off == off) with
    | some w => Nat.xor w.base (s.h .cfgReg (1024 * f + off / 4))
    | none => 0
  if off = 0 then (if func = 0 then 0x1F3C + 2 ^ 16 * s.devId 0 else 0xFFFFFFFF)
  else if off = 0x04 then held + 2 * bitsOf c 0 1 + 4 * bitsOf c 2 1
  else if off = 0x44 then 3 * bitsOf c 1 1
  else if off = 0x50 then 0x6011 + 2 ^ 16 * (nVec func - 1) + (if s.h .msixEn f = 0 then 0 else 2 ^ 31) +
    (if s.h .msixEn f = 2 then 2 ^ 30 else 0)
  else if off = 0x70 then 2 ^ 16 * s.rd .PT_LINK_STAT_RATE port + 2 ^ 20 * s.rd .PT_LINK_STAT_WIDTH port
  else if off = 0x154 then (if func < s.nQ then 2 ^ 8 * (func + 1) else 0)
  else if off = 0x16C then (if s.h .doe (4096 * f + 1) = 0 then 0 else 2 ^ 31)
  else if off = 0x174 then (if s.h .doe (4096 * f + 1) = 0 then 0 else s.h .doe (4096 * f + 2048 + s.h .doe (4096 * f + 2)))
  else if off = 0x208 ∧ func = 0 then bitsOf (s.h .cfgVf port) 0 1 + 8 * bitsOf (s.h .cfgVf port) 17 1
  else if off = 0x20C ∧ func = 0 then s.nQ * (2 ^ 16 + 1)
  else if off = 0x210 ∧ func = 0 then bitsOf (s.h .cfgVf port) 1 16
  else if off = 0x214 ∧ func = 0 then 2 ^ 16 + 1
  else if off = 0x218 ∧ func = 0 then 2 ^ 16 * s.devId 1
  else held

/-- A write of a dword that holds what software writes, with the bits that a 1 clears. -/
def cfgHold (s : State) (f : Nat) (vf : Bool) (off val : Nat) : State :=
  match (cfgRows vf).find? (fun w => w.off == off) with
  | none => s
  | some w =>
    let cur := Nat.xor w.base (s.h .cfgReg (1024 * f + off / 4))
    let new := (cur - (cur &&& w.rw)) ||| (val &&& w.rw)
    s.setH .cfgReg (1024 * f + off / 4) (Nat.xor w.base (new - (new &&& (val &&& w.w1c))))

/-- What a write of a configuration dword does (R266, R268, R290). Log entry 45, PRESUMED. -/
def cfgWrite (s : State) (port func off val : Nat) : State :=
  let f := 13 * port + func
  let putBit := fun (w k b : Nat) => w - 2 ^ k * bitsOf w k 1 + 2 ^ k * b
  let s := s.cfgHold f (func != 0) off val
  let c := s.h .cfgMem f
  if off = 0x04 then s.setH .cfgMem f (putBit (putBit c 0 (if func = 0 then bitsOf val 1 1 else 0)) 2 (bitsOf val 2 1))
  else if off = 0x44 then
    (if bitsOf val 0 2 = 0 then s.setH .cfgMem f (putBit c 1 0)
     else if bitsOf val 0 2 = 3 then s.setH .cfgMem f (putBit c 1 1) else s)
  else if off = 0x50 then
    let s1 := s.setH .msixEn f (if bitsOf val 31 1 = 0 then 0 else if bitsOf val 30 1 = 1 then 2 else 1)
    if s1.h .msixEn f = 1 then
      (List.range (nVec func)).foldl (fun (s : State) (v : Nat) =>
        if s.h .msixPend (16 * f + v) = 1 then s.sendMsix port func v else s) s1
    else s1
  else if off = 0x68 ∧ bitsOf val 15 1 = 1 then s.functionReset port func
  else if off = 0x168 ∨ off = 0x170 ∨ off = 0x174 then s.doeWrite port func off val
  else if off = 0x208 ∧ func = 0 then
    s.setH .cfgVf port (bitsOf val 0 1 + 2 * bitsOf (s.h .cfgVf port) 1 16 + 2 ^ 17 * bitsOf val 3 1)
  else if off = 0x210 ∧ func = 0 then
    (if bitsOf (s.h .cfgVf port) 0 1 = 1 then s
     else s.setH .cfgVf port (2 * min (bitsOf val 0 16) s.nQ + 2 ^ 17 * bitsOf (s.h .cfgVf port) 17 1))
  else s

/-- A configuration read or write (R266, R268, R269). -/
def configAccess (s : State) (port func off : Nat) (write : Bool) (val : Nat) : State :=
  if write then (s.cfgWrite port func off val).answer 0 [] else s.answer 0 (toBytes (s.cfgRead port func off) 4)

end State

/-- CONFIG_REQUEST (R385): Request Retry Status before LEVEL 1, and no answer while PERST_N of the port is low. -/
def execConfigRequest (port func off : Nat) (write : Bool) (val : Nat) (s : State) : Host.Outcome State Fault Refusal :=
  if 2 ≤ port ∨ s.h .perstLow port = 1 ∨ s.h .romRec 0 = 1 then .next (s.answer 4 [])
  else if s.rd .RES_STAT_LEVEL 0 = 0 then .next (s.answer 6 [])
  else if s.flag .PT_LINK_STAT_UP port = false then .next (s.answer 4 [])
  else if s.nQ < func ∨ (0 < func ∧ (bitsOf (s.h .cfgVf port) 0 1 = 0 ∨ bitsOf (s.h .cfgVf port) 1 16 < func)) then .next (s.answer 1 [])
  else .next (s.configAccess port func off write val)

end Sys2Proof.Machine
end

