-- ==== Sys2Proof/Machine/Electrical.lean ====
section
/-! DEFINITION. Power, cooling and mechanical data (chapter 18): power-on and power resets, the power-down sweep, trips, and the outputs that
follow from the state. -/

namespace Sys2Proof.Machine

/-- Fields that persist in the MC's non-volatile store or in the stacks' repairs (R168, R334, R344), and fused ones: kept by every reset. -/
def lastingFld : List Fld :=
  [.STK_PC_ERR_SPARE_USED, .STK_PC_ERR_SPARE_FOR, .STK_STAT_SPARES_USED, .STK_STAT_RPC_VALID, .STK_STAT_RPC, .RES_OUT_EXP_EXP, .RES_OUT_BANK_BANK,
    .RES_OUT_MISC_UU, .RES_OUT_MISC_SE, .RES_OUT_MISC_PACK, .SEC_STAT_REVOKED, .SEC_STAT_SVN_MIN_MFW, .SEC_STAT_SVN_MIN_CFW, .SEC_SERIAL_SERIAL]

/-- Fields that a PWR reset keeps (Tables 15-9, 15-10): sticky ones and those of the management plane, which it does not reset. -/
def pwrKeepsFld (f : Fld) : Bool :=
  f.info.st || f.info.reg.info.mgmt || lastingFld.contains f || f == .FW_STATE_MFW_SLOT || f == .FW_STATE_MFW_VER

/-- The codes of the fields that satisfy a property. -/
def fldCodes (p : Fld → Bool) : List Nat := ((Reg.all.flatMap Reg.fields).filter p).map Fld.code

/-- Beside the registers, what every reset keeps: the model's counters, the non-volatile store, pins and what is fitted. -/
def lastingHid : List Hid :=
  [.freeCtr, .nextId, .nextReq, .keyCount, .nonceNo, .nvSel, .fitted, .perstLow, .rstHeld, .laneBad, .uuLeaving, .outSe, .outExp, .outPack, .outUu, .outBank, .resets]

/-- What a PWR reset keeps in the management plane beside that. -/
def pwrKeepsHid : List Hid := lastingHid ++ [.mcLog, .dumpSeq, .spdm, .testBad, .mfwUp, .romRec, .thermTrip, .flowLow, .tapIr]

namespace State

/-- The block with the fields and scalars that a reset keeps, and with what persists in any reset (Table 15-10): fences, staged ones included (R74), signed
objects, bad-frame tables, row repairs (R168), retired memory units. Host memory is not the module's. -/
def resetKeeping (s : State) (flds : List Nat) (hids : List Hid) : State :=
  let kept := Tab.keep (fun k => flds.contains (k % 512) ||
    ((k % 512 == Fld.MEM_EXT_STATE.code || k % 512 == Fld.MEM_LOT_STATE.code) && Tab.get 0 k s.regs == 3)) s.regs
  let lost : State := { State.reset with
    pending := s.pending, lt09 := s.lt09, hostMem := s.hostMem, idFrames := s.idFrames, repairs := s.repairs.filter (·.applied), reply := s.reply, outbox := s.outbox,
    objs := s.objs.filter (fun (e : Nat × List Byte) => decide (e.1 < 6)),
    fences := s.fenced.map (fun (e : Nat × Nat) => (⟨e.1, e.2, false⟩ : Fence)) ++ s.fences,
    regs := kept, regs0 := kept,
    hid := Tab.keep (fun k => (hids.map Hid.ctorIdx).contains (k % 512)) s.hid }
  lost.addH .resets 0 1

/-- A PWR reset (R343, R344): the data and control planes lose their state and stay in reset; every key slot is empty. Log entry 55, DEDUCED. -/
def powerReset (s : State) : State :=
  let s1 := { s.resetKeeping (fldCodes pwrKeepsFld) pwrKeepsHid with
    leaving := s.leaving, snap := s.snap, objs := s.objs.filter (fun (e : Nat × List Byte) => decide (e.1 < 7)) }
  let s2 := if s.flag .SEC_STAT_ERASE_PEND 0 then s1.setH .eraseReady 0 1 else s1
  (((s2.wr .RES_STAT_LAST_RESET 0 1).wr .RES_STAT_LEVEL 0 0).wr .RES_STAT_CP_SPARE 0 0).wr .PWR_STAT_THROTTLE 0 0

/-- MFW boots (R369): the slot named as selected, else the other, which sets MFW_FALLBACK; with neither the MC stays in ROM recovery. -/
def bootMfw (s : State) : State :=
  let sel := s.h .nvSel 1
  let good := fun (k : Nat) => s.authentic 1 (s.obj (objMfw + k))
  let run := fun (k : Nat) =>
    let img := s.obj (objMfw + k)
    (((s.wr .FW_STATE_MFW_SLOT 0 k).wr .FW_STATE_MFW_VER 0 (objVersion img)).wr .SEC_STAT_SVN_MFW 0 (objSvn img)).setH .mfwUp 0 1
  if good sel then run sel
  else if good (1 - sel) then (run (1 - sel)).mark .SEC_STAT_MFW_FALLBACK 0
  else s.setH .romRec 0 1

/-- A fitted bay at power-up (Table 18-5, R170): its identity memory is read; a part that was refused stays so. -/
def startBay (s : State) (d : Nat) : State :=
  if s.h .fitted d = 0 then s
  else ((s.wr .CRT_STAT_LATCH d 1).wr .CRT_STAT_STATE d 1).askService 14 d

/-- The planes leave their power reset (Table 18-5): firmware is verified, stacks and strips enter service, fitted bays train. -/
def startPlanes (s : State) (pair0 pair1 : Bool) : State :=
  let s1 := (s.setH .planes 0 1).startControl pair0 pair1
  let s2 := (List.range s1.nStacks).foldl (fun (s : State) (k : Nat) =>
    s.wr .STK_STAT_STATE k (if s.flag .STK_STAT_RPC_VALID k then 2 else 1)) s1.refence.applyOuts
  let s3 := (List.range s2.nBays).foldl (fun (s : State) (d : Nat) => s.startBay d) s2
  s3.wr .RES_STAT_LEVEL 0 s3.levelOf

/-- The power-down sweep begins (R390); a trip is recorded (R391). It cancels staged image selects. -/
def startSweep (s : State) (cause : Nat) : State :=
  let s0 := if cause = 3 then s.setH .auxLost 0 1 else s
  if s0.h .sweepAt 0 ≠ 0 ∨ (s0.h .planes 0 = 0 ∧ s0.h .rstPairs 0 = 0) then s0
  else
    let s1 := ((s0.stopAll.setH .sweepAt 0 (1 + s0.now)).setH .quiesce 0 0).wr .PWR_STAT_PDOWN_CAUSE 0 cause
    let s2 := ((s1.setH .selStaged 0 0).setH .selStaged 1 0).wr .FW_STATE_SWAP_PEND 0 0
    if cause = 4 ∨ cause = 5 then (s2.mark .PWR_STAT_TRIP 0).setH .thermTrip 0 1 else s2

/-- Steps 2 and 3 of R390. -/
def portsIdle (s : State) : State :=
  if s.h .sweepAt 0 = 0 ∨ s.h .sweepIdle 0 = 1 then s
  else
    let s1 := (((s.abandonStores.linkGone 0).linkGone 1).setH .sweepIdle 0 1)
    if s1.h .auxLost 0 = 1 then s1 else s1.mcLog 15 15 (s1.rd .PWR_STAT_PDOWN_CAUSE 0)

/-- THERM_ALERT_N is asserted (R391). -/
def thermAlert (s : State) : Bool := s.flag .PWR_STAT_THROTTLE 0 || s.h .thermTrip 0 == 1

/-- MGMT_LED is low (Table 18-2). -/
def mgmtLed (s : State) : Bool := decide (1 ≤ s.rd .RES_STAT_LEVEL 0)

/-- The indicator of a bay (Table 18-8): 0 off, 1 green blinking, 2 green, 3 amber blinking, 4 amber, 5 red. -/
def bayIndicator (s : State) (d : Nat) : Nat :=
  if s.flag .CRT_STAT_REJECT d then 5
  else match s.rd .CRT_STAT_STATE d with
    | 0 => 0
    | 1 => 1
    | 2 => 2
    | 3 => 2
    | 4 => 3
    | 5 => 4
    | _ => 5

/-- The module powers a bay (R393): from the bring-into-service request on, until it is SAFE or LOST. -/
def bayPowered (s : State) (d : Nat) : Bool := decide (2 ≤ s.rd .CRT_STAT_STATE d) && decide (s.rd .CRT_STAT_STATE d ≤ 4)

end State

/-- POWER_ON_RESET (R343, R369, R371, R379, R385): the auxiliary supply comes up: everything but the non-volatile store is lost, and the boot ROM starts MFW. -/
def execPowerOnReset (s : State) : Host.Outcome State Fault Refusal :=
  .next ((s.resetKeeping (fldCodes (fun (f : Fld) => lastingFld.contains f)) lastingHid).addH .nonceNo 0 1).bootMfw

/-- POWER_UP (R384, R385): the 48 V input is good, under MFW, with the planes in their power reset. -/
def execPowerUp (pair0 pair1 : Bool) (s : State) : Host.Outcome State Fault Refusal :=
  if s.h .mfwUp 0 = 0 ∨ s.h .planes 0 = 1 ∨ s.h .rstPairs 0 ≠ 0 ∨ s.h .rstHeld 0 = 1 ∨ s.h .offHold 0 = 1 ∨ s.h .auxLost 0 = 1 then .next s
  else .next (s.startPlanes pair0 pair1)

/-- INPUT_UNDERVOLTAGE (R390): below 39.0 V for 20 µs. -/
def execInputUndervoltage (s : State) : Host.Outcome State Fault Refusal := .next (s.startSweep 1)

/-- PWR_WARN (R390): PWR_WARN_N for 1 µs. -/
def execPwrWarn (s : State) : Host.Outcome State Fault Refusal := .next (s.startSweep 2)

/-- AUX_SUPPLY_LOSS (R390). -/
def execAuxSupplyLoss (s : State) : Host.Outcome State Fault Refusal := .next (s.startSweep 3)

/-- THERMAL_TRIP (R391): a die at 105 °C or a base die at 100 °C. -/
def execThermalTrip (die base : Nat) (s : State) : Host.Outcome State Fault Refusal :=
  if 105 ≤ die ∨ 100 ≤ base then .next (s.startSweep 4) else .next s

/-- FLOW_TRIP (R392): flow below 1.0 L/min for 1 s. -/
def execFlowTrip (s : State) : Host.Outcome State Fault Refusal := .next (s.startSweep 5)

/-- POWER_DOWN_PORT_IDLE (R347, R390): t + 1.0 ms, with the log entry of step 3. -/
def execPowerDownPortIdle (s : State) : Host.Outcome State Fault Refusal := .next s.portsIdle

/-- POWER_DOWN_OFF (R344, R390): t + 2.0 ms: a PWR reset, and the 48 V stage is off. Log entry 56, DEDUCED. -/
def execPowerDownOff (s : State) : Host.Outcome State Fault Refusal :=
  if s.h .sweepAt 0 = 0 then .next s
  else
    let s1 := s.portsIdle
    .next (((s1.powerReset.mark .PWR_STAT_PDOWN_LAST 0).setH .offHold 0 1).setH .auxLost 0 (s1.h .auxLost 0))

/-- REPOWER (R390): no sooner than 100 ms after the power-off, the input at its rising threshold (41.0 V, in 10 mV): the 48 V stage may start. -/
def execRepower (ms vin : Nat) (s : State) : Host.Outcome State Fault Refusal :=
  if s.h .offHold 0 = 1 ∧ s.h .auxLost 0 = 0 ∧ 100 ≤ ms ∧ 4100 ≤ vin then .next (s.setH .offHold 0 0) else .next s

/-- PLDM_FIRMWARE_UPDATE (R366, R369): an authentic image goes into an MFW slot whose selection is not staged. -/
def execPldmFirmwareUpdate (slot : Nat) (obj : SignedObj) (s : State) : Host.Outcome State Fault Refusal :=
  if 2 ≤ slot ∨ s.h .selStaged 1 = slot + 1 ∨ s.authentic 1 obj.bytes = false then .next (s.answer 1 [])
  else .next ((s.setObj (objMfw + slot) obj.bytes).answer 0 [])

end Sys2Proof.Machine
end

