-- ==== Sys2Proof/Machine/Dispatch.lean ====
section
/-! DEFINITION. One arm per command: its meaning. -/

namespace Sys2Proof.Machine

/-- The effect of a command on everything but the queue. -/
def exec (i : Instr) (s : State) : Host.Outcome State Fault Refusal :=
  match i with
  | .turnStart => Sys2Proof.Machine.execTurnStart s
  | .turnMark m flow => Sys2Proof.Machine.execTurnMark m flow s
  | .admissionDecision q t => Sys2Proof.Machine.execAdmissionDecision q t s
  | .blankAllocation q t => Sys2Proof.Machine.execBlankAllocation q t s
  | .allocatorRetry q t => Sys2Proof.Machine.execAllocatorRetry q t s
  | .operationStart id t => Sys2Proof.Machine.execOperationStart id t s
  | .preloadComplete id t => Sys2Proof.Machine.execPreloadComplete id t s
  | .workUnitStart id t faults => Sys2Proof.Machine.execWorkUnitStart id t faults s
  | .witnessVerdict id t frozen => Sys2Proof.Machine.execWitnessVerdict id t frozen s
  | .tileSelfTest id t failing => Sys2Proof.Machine.execTileSelfTest id t failing s
  | .sweepStart => Sys2Proof.Machine.execSweepStart s
  | .park id t => Sys2Proof.Machine.execPark id t s
  | .parkDeadline => Sys2Proof.Machine.execParkDeadline s
  | .drainDeadline => Sys2Proof.Machine.execDrainDeadline s
  | .balanceCheck upsets => Sys2Proof.Machine.execBalanceCheck upsets s
  | .stagedConfigurationApply => Sys2Proof.Machine.execStagedConfigurationApply s
  | .keyApply => Sys2Proof.Machine.execKeyApply s
  | .tokenBudgetLoad late metered modMetered fixed vmin tmax => Sys2Proof.Machine.execTokenBudgetLoad late metered modMetered fixed vmin tmax s
  | .resumeQueueRebuild => Sys2Proof.Machine.execResumeQueueRebuild s
  | .operationComplete id t => Sys2Proof.Machine.execOperationComplete id t s
  | .translationWalk q va write init => Sys2Proof.Machine.execTranslationWalk q va write init s
  | .plazaAccess rs => Sys2Proof.Machine.execPlazaAccess rs s
  | .rehomeScanComplete q => Sys2Proof.Machine.execRehomeScanComplete q s
  | .unitZeroed lot j => Sys2Proof.Machine.execUnitZeroed lot j s
  | .stripCleared k => Sys2Proof.Machine.execStripCleared k s
  | .movePage id t => Sys2Proof.Machine.execMovePage id t s
  | .lateRead id t => Sys2Proof.Machine.execLateRead id t s
  | .memoryRequest tier unit r serve => Sys2Proof.Machine.execMemoryRequest tier unit r serve s
  | .readComplete tier unit addr wrong lane => Sys2Proof.Machine.execReadComplete tier unit addr wrong lane s
  | .bankRefresh tier unit ch bank => Sys2Proof.Machine.execBankRefresh tier unit ch bank s
  | .scrub tier unit ch wrong lane => Sys2Proof.Machine.execScrub tier unit ch wrong lane s
  | .laneFailure k p lane => Sys2Proof.Machine.execLaneFailure k p lane s
  | .laneRemap k p => Sys2Proof.Machine.execLaneRemap k p s
  | .spareTrained k p ok => Sys2Proof.Machine.execSpareTrained k p ok s
  | .stkRetire a k val => Sys2Proof.Machine.execStkRetire a k val s
  | .lostScanComplete k => Sys2Proof.Machine.execLostScanComplete k s
  | .retirementCopyComplete k => Sys2Proof.Machine.execRetirementCopyComplete k s
  | .repairApply k fits => Sys2Proof.Machine.execRepairApply k fits s
  | .badFrameWrite a d val => Sys2Proof.Machine.execBadFrameWrite a d val s
  | .withdraw a d => Sys2Proof.Machine.execWithdraw a d s
  | .cartridgeSafe d => Sys2Proof.Machine.execCartridgeSafe d s
  | .bringIntoService a d => Sys2Proof.Machine.execBringIntoService a d s
  | .cartridgeInService d => Sys2Proof.Machine.execCartridgeInService d s
  | .latchOpen d => Sys2Proof.Machine.execLatchOpen d s
  | .latchClose d genuine frames => Sys2Proof.Machine.execLatchClose d genuine frames s
  | .presenceContactOpen d => Sys2Proof.Machine.execPresenceContactOpen d s
  | .packedWrite q va data init => Sys2Proof.Machine.execPackedWrite q va data init s
  | .poolRecheck q => Sys2Proof.Machine.execPoolRecheck q s
  | .busyRecheck q va => Sys2Proof.Machine.execBusyRecheck q va s
  | .expanderDecode q va j first last inWait outWait => Sys2Proof.Machine.execExpanderDecode q va j first last inWait outWait s
  | .streamIssue e t => Sys2Proof.Machine.execStreamIssue e t s
  | .portTier3Issue t => Sys2Proof.Machine.execPortTier3Issue t s
  | .streamResponse req t => Sys2Proof.Machine.execStreamResponse req t s
  | .slotOpen id t => Sys2Proof.Machine.execSlotOpen id t s
  | .slotCommit id t => Sys2Proof.Machine.execSlotCommit id t s
  | .directHostStore id t => Sys2Proof.Machine.execDirectHostStore id t s
  | .bankReady k => Sys2Proof.Machine.execBankReady k s
  | .commandPush w k p full line => Sys2Proof.Machine.execCommandPush w k p full line s
  | .broadcastPush w k full line => Sys2Proof.Machine.execBroadcastPush w k full line s
  | .broadcastDataWrite w k off data => Sys2Proof.Machine.execBroadcastDataWrite w k off data s
  | .broadcastCopy k p => Sys2Proof.Machine.execBroadcastCopy k p s
  | .engineClear w k p full => Sys2Proof.Machine.execEngineClear w k p full s
  | .bankNop k p t => Sys2Proof.Machine.execBankNop k p t s
  | .gemv k p t => Sys2Proof.Machine.execGemv k p t s
  | .outer k p t => Sys2Proof.Machine.execOuter k p t s
  | .rowadd k p t => Sys2Proof.Machine.execRowadd k p t s
  | .signal k p t => Sys2Proof.Machine.execSignal k p t s
  | .burstBoundary k p hold yielded => Sys2Proof.Machine.execBurstBoundary k p hold yielded s
  | .accum u t wait => Sys2Proof.Machine.execAccum u t wait s
  | .norm u t wait => Sys2Proof.Machine.execNorm u t wait s
  | .update u t wait => Sys2Proof.Machine.execUpdate u t wait s
  | .shardCommit u t => Sys2Proof.Machine.execShardCommit u t s
  | .slotRetire u t => Sys2Proof.Machine.execSlotRetire u t s
  | .inboundRequest r t => Sys2Proof.Machine.execInboundRequest r t s
  | .bar2ReadTimeout port tag => Sys2Proof.Machine.execBar2ReadTimeout port tag s
  | .configRequest port func off write val => Sys2Proof.Machine.execConfigRequest port func off write val s
  | .hostSnoop addr => Sys2Proof.Machine.execHostSnoop addr s
  | .hostAck req => Sys2Proof.Machine.execHostAck req s
  | .hostRequestTimeout req => Sys2Proof.Machine.execHostRequestTimeout req s
  | .holdoffExpiry q v => Sys2Proof.Machine.execHoldoffExpiry q v s
  | .flitCrcFail port lane fec => Sys2Proof.Machine.execFlitCrcFail port lane fec s
  | .flitNak port => Sys2Proof.Machine.execFlitNak port s
  | .replayTimeout port rollover => Sys2Proof.Machine.execReplayTimeout port rollover s
  | .portLaneFailure port lane => Sys2Proof.Machine.execPortLaneFailure port lane s
  | .linkDown port => Sys2Proof.Machine.execLinkDown port s
  | .linkUp port width rate flit cache => Sys2Proof.Machine.execLinkUp port width rate flit cache s
  | .portReset port hot => Sys2Proof.Machine.execPortReset port hot s
  | .functionLevelReset port func => Sys2Proof.Machine.execFunctionLevelReset port func s
  | .ideIntegrityFail port stream => Sys2Proof.Machine.execIdeIntegrityFail port stream s
  | .portAdaptationRefresh port => Sys2Proof.Machine.execPortAdaptationRefresh port s
  | .coreDeviceAccess x t => Sys2Proof.Machine.execCoreDeviceAccess x t s
  | .maintenanceAction q action => Sys2Proof.Machine.execMaintenanceAction q action s
  | .coreRelease a q c => Sys2Proof.Machine.execCoreRelease a q c s
  | .coreHold a q c => Sys2Proof.Machine.execCoreHold a q c s
  | .messageSend id t => Sys2Proof.Machine.execMessageSend id t s
  | .headerCheck e q j l rid t => Sys2Proof.Machine.execHeaderCheck e q j l rid t s
  | .messageApply q j l t => Sys2Proof.Machine.execMessageApply q j l t s
  | .ackLineReceive q j t => Sys2Proof.Machine.execAckLineReceive q j t s
  | .ackTimer q j t => Sys2Proof.Machine.execAckTimer q j t s
  | .resendTimer q e r t => Sys2Proof.Machine.execResendTimer q e r t s
  | .send id t => Sys2Proof.Machine.execSend id t s
  | .recv id t => Sys2Proof.Machine.execRecv id t s
  | .allreduce id t => Sys2Proof.Machine.execAllreduce id t s
  | .sqDoorbell a port page tail => Sys2Proof.Machine.execSqDoorbell a port page tail s
  | .cqDoorbell a port page head => Sys2Proof.Machine.execCqDoorbell a port page head s
  | .ringConfig a page cq val => Sys2Proof.Machine.execRingConfig a page cq val s
  | .urgentGo a port page line => Sys2Proof.Machine.execUrgentGo a port page line s
  | .sqEntryCopy t => Sys2Proof.Machine.execSqEntryCopy t s
  | .mcRingRequest off val => Sys2Proof.Machine.execMcRingRequest off val s
  | .nop e => Sys2Proof.Machine.execNop e s
  | .version e => Sys2Proof.Machine.execVersion e s
  | .submit e => Sys2Proof.Machine.execSubmit e s
  | .plan e => Sys2Proof.Machine.execPlan e s
  | .invalidate e => Sys2Proof.Machine.execInvalidate e s
  | .abortFault e => Sys2Proof.Machine.execAbortFault e s
  | .fqHead e => Sys2Proof.Machine.execFqHead e s
  | .mmuCfg e => Sys2Proof.Machine.execMmuCfg e s
  | .place e => Sys2Proof.Machine.execPlace e s
  | .releaseKeep e => Sys2Proof.Machine.execReleaseKeep e s
  | .unit e => Sys2Proof.Machine.execUnit e s
  | .hostWin e => Sys2Proof.Machine.execHostWin e s
  | .swap e => Sys2Proof.Machine.execSwap e s
  | .advance e => Sys2Proof.Machine.execAdvance e s
  | .barrier e => Sys2Proof.Machine.execBarrier e s
  | .bufCfg e => Sys2Proof.Machine.execBufCfg e s
  | .cbLoad e => Sys2Proof.Machine.execCbLoad e s
  | .cbUnload e => Sys2Proof.Machine.execCbUnload e s
  | .verdict e => Sys2Proof.Machine.execVerdict e s
  | .setScale e => Sys2Proof.Machine.execSetScale e s
  | .setStep e => Sys2Proof.Machine.execSetStep e s
  | .journal e => Sys2Proof.Machine.execJournal e s
  | .hist e => Sys2Proof.Machine.execHist e s
  | .config e => Sys2Proof.Machine.execConfig e s
  | .halt e => Sys2Proof.Machine.execHalt e s
  | .release e => Sys2Proof.Machine.execRelease e s
  | .cores e => Sys2Proof.Machine.execCores e s
  | .pfWin e => Sys2Proof.Machine.execPfWin e s
  | .bank e => Sys2Proof.Machine.execBank e s
  | .fence e => Sys2Proof.Machine.execFence e s
  | .unfence e => Sys2Proof.Machine.execUnfence e s
  | .route e => Sys2Proof.Machine.execRoute e s
  | .fabricCfg e => Sys2Proof.Machine.execFabricCfg e s
  | .modId e => Sys2Proof.Machine.execModId e s
  | .link e => Sys2Proof.Machine.execLink e s
  | .fwLoad e => Sys2Proof.Machine.execFwLoad e s
  | .fwSelect e => Sys2Proof.Machine.execFwSelect e s
  | .manifest e => Sys2Proof.Machine.execManifest e s
  | .override e => Sys2Proof.Machine.execOverride e s
  | .repair e => Sys2Proof.Machine.execRepair e s
  | .snapRead e => Sys2Proof.Machine.execSnapRead e s
  | .errLogRead e => Sys2Proof.Machine.execErrLogRead e s
  | .scan e => Sys2Proof.Machine.execScan e s
  | .keyNew e => Sys2Proof.Machine.execKeyNew e s
  | .keyErase e => Sys2Proof.Machine.execKeyErase e s
  | .debugNonce e => Sys2Proof.Machine.execDebugNonce e s
  | .debugUnlock e => Sys2Proof.Machine.execDebugUnlock e s
  | .svnCommit e => Sys2Proof.Machine.execSvnCommit e s
  | .keyRevoke e => Sys2Proof.Machine.execKeyRevoke e s
  | .powerCap e => Sys2Proof.Machine.execPowerCap e s
  | .powerRead e => Sys2Proof.Machine.execPowerRead e s
  | .thermCfg e => Sys2Proof.Machine.execThermCfg e s
  | .lockstepMismatch => Sys2Proof.Machine.execLockstepMismatch s
  | .cpPairRetest pass => Sys2Proof.Machine.execCpPairRetest pass s
  | .mcWatchdog => Sys2Proof.Machine.execMcWatchdog s
  | .unitSelfTest failing => Sys2Proof.Machine.execUnitSelfTest failing s
  | .receiverAdaptationRefresh failing => Sys2Proof.Machine.execReceiverAdaptationRefresh failing s
  | .resCtrlMod a val => Sys2Proof.Machine.execResCtrlMod a val s
  | .modRstN => Sys2Proof.Machine.execModRstN s
  | .quiesceEnd pair0 pair1 => Sys2Proof.Machine.execQuiesceEnd pair0 pair1 s
  | .snapNow a val => Sys2Proof.Machine.execSnapNow a val s
  | .snapshotLatch src t => Sys2Proof.Machine.execSnapshotLatch src t s
  | .shiftOutComplete => Sys2Proof.Machine.execShiftOutComplete s
  | .pmcSelect a j val => Sys2Proof.Machine.execPmcSelect a j val s
  | .bwWindowEnd port rx tx => Sys2Proof.Machine.execBwWindowEnd port rx tx s
  | .bwWindowConfig a port val => Sys2Proof.Machine.execBwWindowConfig a port val s
  | .ghClear a q sl val => Sys2Proof.Machine.execGhClear a q sl val s
  | .registerReadClear a off => Sys2Proof.Machine.execRegisterReadClear a off s
  | .registerWrite a off val => Sys2Proof.Machine.execRegisterWrite a off val s
  | .spdmRequest transport k => Sys2Proof.Machine.execSpdmRequest transport k s
  | .extest => Sys2Proof.Machine.execExtest s
  | .samplePreload => Sys2Proof.Machine.execSamplePreload s
  | .idcode => Sys2Proof.Machine.execIdcode s
  | .clamp => Sys2Proof.Machine.execClamp s
  | .highz => Sys2Proof.Machine.execHighz s
  | .dbgState => Sys2Proof.Machine.execDbgState s
  | .unlockNonce => Sys2Proof.Machine.execUnlockNonce s
  | .unlockLoad obj => Sys2Proof.Machine.execUnlockLoad obj s
  | .debugErasure => Sys2Proof.Machine.execDebugErasure s
  | .regAccess dr => Sys2Proof.Machine.execRegAccess dr s
  | .memAccess dr => Sys2Proof.Machine.execMemAccess dr s
  | .mcDebug => Sys2Proof.Machine.execMcDebug s
  | .cpDebug => Sys2Proof.Machine.execCpDebug s
  | .bypass => Sys2Proof.Machine.execBypass s
  | .powerOnReset => Sys2Proof.Machine.execPowerOnReset s
  | .powerUp pair0 pair1 => Sys2Proof.Machine.execPowerUp pair0 pair1 s
  | .inputUndervoltage => Sys2Proof.Machine.execInputUndervoltage s
  | .pwrWarn => Sys2Proof.Machine.execPwrWarn s
  | .auxSupplyLoss => Sys2Proof.Machine.execAuxSupplyLoss s
  | .thermalTrip die base => Sys2Proof.Machine.execThermalTrip die base s
  | .flowTrip => Sys2Proof.Machine.execFlowTrip s
  | .powerDownPortIdle => Sys2Proof.Machine.execPowerDownPortIdle s
  | .powerDownOff => Sys2Proof.Machine.execPowerDownOff s
  | .repower ms vin => Sys2Proof.Machine.execRepower ms vin s
  | .modRstNRelease => Sys2Proof.Machine.execModRstNRelease s
  | .perstNRelease port => Sys2Proof.Machine.execPerstNRelease port s
  | .linkTrainingTimeout port => Sys2Proof.Machine.execLinkTrainingTimeout port s
  | .recoveryExit port => Sys2Proof.Machine.execRecoveryExit port s
  | .pldmFirmwareUpdate slot obj => Sys2Proof.Machine.execPldmFirmwareUpdate slot obj s
  | .timerCompare q c => Sys2Proof.Machine.execTimerCompare q c s

end Sys2Proof.Machine
end

