-- ==== Sys2Proof/Machine/Step.lean ====
section
/-! DEFINITION. One step of the block: the command at the front of the queue, or, on an empty queue, one sea cycle. -/

namespace Sys2Proof.Machine

/-- On an empty queue the sea clock counts one cycle, up to the last cycle of the turn: the turn itself ends by the TURN_START command
(log entry 2, DESIGN CHOICE). -/
def State.idle (s : State) : State := s.goTo (s.pos + 1)

/-- One step: the command at the front of the queue is carried out on the state with the rest of the queue. Log entry 5, DESIGN CHOICE. Log entry 76, DESIGN CHOICE. -/
def step (s : State) : Host.Outcome State Fault Refusal :=
  match s.pending with
  | [] => .next s.idle
  | c :: rest => exec c { s with pending := rest }

/-- `s` with the command that a word spells at the front of its queue. -/
def State.withFetchWord (s : State) (nbits w : Nat) : State :=
  match decodeTableWord nbits w with
  | none => s
  | some c => { s with pending := c :: s.pending }

end Sys2Proof.Machine
end

