-- ==== Sys2Proof/Safety.lean ====
section
/-! DEFINITION. What a sound state of the block is, in the terms the statements use: every register field holds a value of its width, and the device
and host memories are in canonical form. No command faults or is refused, so that a run is safe when it keeps this. -/

namespace Sys2Proof.Machine

/-- The canonical form of a memory: addresses strictly rising, no listed byte equal to the zero that an unlisted address reads as. -/
def Memory.wf (m : List Host.Cell) : Bool := Tab.wf (0 : BitVec 8) m

/-- A sound state. -/
structure State.Inv (s : State) : Prop where
  fits : ∀ (f : Fld) (i : Nat), s.rd f i < 2 ^ f.width
  mem : Memory.wf s.mem = true
  host : Memory.wf s.hostMem = true

/-- What no command changes: the queue and which module it is; and that a sound state stays sound. -/
structure State.Keeps (s t : State) : Prop where
  pending : t.pending = s.pending
  lt09 : t.lt09 = s.lt09
  inv : s.Inv → t.Inv

/-- What is fixed at a turn's start, or in its boundary window, for the whole of the turn: TURN_COUNT and the token budget (R36, R50), the length in force
(R51). -/
def Fld.perTurn : Fld → Bool
  | .TURN_COUNT_COUNT | .TURN_LEN_LEN_ACTIVE | .TOK_BUDGET_CUR | .TOK_BUDGET_LATE | .PWR_STAT_C_EFF => true
  | _ => false

/-- No time passes, and nothing that is fixed for the turn changes. -/
structure State.Still (s t : State) : Prop where
  now : t.now = s.now
  turn0 : t.turn0 = s.turn0
  lt09 : t.lt09 = s.lt09
  regs : ∀ (f : Fld) (i : Nat), f.perTurn = true → t.rd f i = s.rd f i

/-- No byte of memory or of host memory changes. -/
structure State.Dry (s t : State) : Prop where
  mem : t.mem = s.mem
  host : t.hostMem = s.hostMem

/-- The registers that show a quarter's memory key (R374). -/
def Fld.keyed : Fld → Bool
  | .MEM_ENC_STAT_KEY | .MEM_ENC_STAT_GEN => true
  | _ => false

/-- No key slot changes. -/
structure State.Sealed (s t : State) : Prop where
  lt09 : t.lt09 = s.lt09
  key : ∀ (q : Nat), t.h .keyNum q = s.h .keyNum q
  regs : ∀ (f : Fld) (i : Nat), f.keyed = true → t.rd f i = s.rd f i

/-- What the end of an operation or command may change beside its own effect: the completion ring and its errors (R314, R315, R354), interrupts, event
counters, faults and records of a full queue (R141), the packed pages that the ring's page touches, and what a memory error met on the way leaves (R159 to
R163, to the loss of a stack). -/
def Fld.posts : Fld → Bool
  | .BANK_CFG_ACTIVE | .BANK_CFG_FORCED_EXIT | .BANK_CFG_READY | .BANK_STAT_BUSY | .BANK_STAT_POISONED | .CRT_ERR_CE_CNT | .CRT_ERR_UE |
  .CRT_ERR_UE_CNT | .CRT_UE_LOG_ADDR | .CRT_UE_LOG_CH | .CRT_UE_LOG_OWNER | .CRT_UE_LOG_POISON | .CRT_UE_LOG_VALID | .EXP_DMG_LOG_BLOCK |
  .EXP_DMG_LOG_CAUSE | .EXP_DMG_LOG_PAGE | .EXP_DMG_LOG_QUARTER | .EXP_DMG_LOG_VALID | .EXP_STAT_DAMAGED | .EXP_STAT_DAMAGED_CNT |
  .EXP_STAT_RAW_BLOCKS | .FN_ERR_CNT_COUNT | .FN_ERR_CODE | .FN_ERR_DETAIL | .FN_ERR_VALID | .MB_CQ_CFG_EN | .MB_SQ_CFG_EN | .MB_STAT_CQ_TAIL |
  .MB_STAT_HANDSHAKE | .MB_STAT_RING_FAULT | .MB_URG_DB_BUSY | .MC_ERR_PTR_DROPPED | .MC_ERR_PTR_OVERFLOW | .MC_ERR_PTR_TAIL | .MMU_FQ_PTR_TAIL |
  .NUM_FLAGS_ESAT | .NUM_FLAGS_NV | .NUM_FLAGS_NX | .NUM_FLAGS_OF | .NUM_FLAGS_UF | .PK_Q_STAT_POOL_FULL | .PK_Q_STAT_RELOCS | .PK_Q_STAT_WAITING |
  .PMC_VAL_COUNT | .PMC_VAL_SAT | .RES_STAT_STACK_LOST | .SE_BAR_BROKEN | .SE_BAR_COUNT | .SE_BUF_PTR_CLAIMED | .SE_BUF_PTR_FULL | .SE_BUF_PTR_HEAD
  | .STK_PC_ERR_CE_CNT | .STK_PC_ERR_FAILED_LANE | .STK_PC_ERR_LANE_FAIL | .STK_PC_ERR_UE | .STK_PC_ERR_UE_CNT | .STK_STAT_STATE | .STK_UE_LOG_ADDR
  | .STK_UE_LOG_OWNER | .STK_UE_LOG_PC | .STK_UE_LOG_POISON | .STK_UE_LOG_VALID => true
  | _ => false

/-- The hidden scalars of the same, with the notes of the cycle in which hardware last set a field. Log entry 78, DESIGN CHOICE. -/
def Hid.posts : Hid → Bool
  | .bankBusy | .corePend | .corrRun | .cqSince | .evLast | .freeCtr | .holdUntil | .laneBad | .laneFailAt | .mcLog | .msixPend | .nextId | .nextReq
  | .rcNew | .retirePend | .setAt | .spareTries | .urgPhase => true
  | _ => false

/-- No time passes, and of the registers only those of `Fld.posts` may change. -/
structure State.Posts (s t : State) : Prop where
  now : t.now = s.now
  turn0 : t.turn0 = s.turn0
  lt09 : t.lt09 = s.lt09
  regs : ∀ (f : Fld) (i : Nat), f.posts = false → t.rd f i = s.rd f i
  hid : ∀ (x : Hid) (i : Nat), x.posts = false → t.h x i = s.h x i

/-- A page and an entry that are served (R317, R320, R321, R329): the entry is command `code`, its page exists, and no check completes it first. -/
structure State.Serves (s : State) (e : SubEntry) (code : Nat) : Prop where
  isCode : eCode e = code
  here : s.pageHere e.page = true
  passes : s.screen e = none

end Sys2Proof.Machine

namespace Sys2Proof

open Machine

/-- CLASS × 256 + CODE and the entry of a Doresque command (Tables 14-5, 16-6, 17-6, 18-6). -/
def Instr.entry? : Instr → Option (Nat × SubEntry)
  | .nop e => some (0x000, e)
  | .version e => some (0x001, e)
  | .submit e => some (0x100, e)
  | .plan e => some (0x101, e)
  | .invalidate e => some (0x200, e)
  | .abortFault e => some (0x201, e)
  | .fqHead e => some (0x202, e)
  | .mmuCfg e => some (0x203, e)
  | .place e => some (0x204, e)
  | .releaseKeep e => some (0x205, e)
  | .unit e => some (0x206, e)
  | .hostWin e => some (0x207, e)
  | .swap e => some (0x300, e)
  | .advance e => some (0x301, e)
  | .barrier e => some (0x302, e)
  | .bufCfg e => some (0x303, e)
  | .cbLoad e => some (0x400, e)
  | .cbUnload e => some (0x401, e)
  | .verdict e => some (0x500, e)
  | .setScale e => some (0x501, e)
  | .setStep e => some (0x502, e)
  | .journal e => some (0x503, e)
  | .hist e => some (0x600, e)
  | .config e => some (0x700, e)
  | .halt e => some (0x701, e)
  | .release e => some (0x702, e)
  | .cores e => some (0x703, e)
  | .pfWin e => some (0x704, e)
  | .bank e => some (0x705, e)
  | .fence e => some (0x706, e)
  | .route e => some (0x800, e)
  | .fabricCfg e => some (0x801, e)
  | .modId e => some (0x802, e)
  | .link e => some (0x803, e)
  | .fwLoad e => some (0x900, e)
  | .fwSelect e => some (0x901, e)
  | .manifest e => some (0x902, e)
  | .override e => some (0x903, e)
  | .repair e => some (0x904, e)
  | .unfence e => some (0x905, e)
  | .snapRead e => some (0xA00, e)
  | .errLogRead e => some (0xA01, e)
  | .scan e => some (0xA02, e)
  | .keyNew e => some (0xB00, e)
  | .keyErase e => some (0xB01, e)
  | .debugNonce e => some (0xB02, e)
  | .debugUnlock e => some (0xB03, e)
  | .svnCommit e => some (0xB04, e)
  | .keyRevoke e => some (0xB05, e)
  | .powerCap e => some (0xC00, e)
  | .powerRead e => some (0xC01, e)
  | .thermCfg e => some (0xC02, e)
  | _ => none

/-- The cycle of a turn of length L at which a command of the turn falls (R31, R40, R45, R46, R50, R374). -/
def Instr.fallsOn : Instr → State → Option Nat
  | .turnMark m _, s => if m < 8 then some (m * s.len / 8) else none
  | .sweepStart, s => some (s.len - 16384)
  | .parkDeadline, s => some (s.len - 5120)
  | .drainDeadline, s => some (s.len - 4352)
  | .balanceCheck _, s => some (s.len - 4096 + 256)
  | .stagedConfigurationApply, s => some (s.len - 4096 + 512)
  | .keyApply, s => some (s.len - 4096 + 2560)
  | .tokenBudgetLoad .., s => some (s.len - 4096 + 3584)
  | .resumeQueueRebuild, s => some (s.len - 4096 + 3840)
  | _, _ => none

/-- The number of a command among the steps of a turn's schedule, which a turn has once each (R15, R40, R50). -/
def Instr.schedNo : Instr → Option Nat
  | .sweepStart => some 1
  | .parkDeadline => some 2
  | .drainDeadline => some 3
  | .balanceCheck _ => some 4
  | .stagedConfigurationApply => some 6
  | .keyApply => some 7
  | .tokenBudgetLoad .. => some 8
  | .resumeQueueRebuild => some 9
  | _ => none

/-- Commands that take no time: they fall in the cycle in which they are given. -/
def Instr.timeless : Instr → Bool
  | .translationWalk .. | .plazaAccess .. | .rehomeScanComplete .. | .unitZeroed .. | .stripCleared .. | .memoryRequest .. | .readComplete ..
  | .bankRefresh .. | .scrub .. | .laneFailure .. | .stkRetire .. | .lostScanComplete .. | .retirementCopyComplete ..
  | .badFrameWrite .. | .withdraw .. | .cartridgeSafe .. | .bringIntoService .. | .cartridgeInService .. | .latchOpen .. | .latchClose ..
  | .presenceContactOpen .. | .packedWrite .. | .poolRecheck .. | .busyRecheck .. | .expanderDecode .. | .bankReady .. | .commandPush ..
  | .broadcastPush .. | .broadcastDataWrite .. | .broadcastCopy .. | .engineClear .. | .burstBoundary .. | .bar2ReadTimeout .. | .configRequest ..
  | .hostSnoop .. | .hostAck .. | .hostRequestTimeout .. | .flitCrcFail .. | .flitNak .. | .replayTimeout .. | .portLaneFailure .. | .linkDown ..
  | .linkUp .. | .portReset .. | .functionLevelReset .. | .ideIntegrityFail .. | .maintenanceAction .. | .coreRelease .. | .coreHold ..
  | .sqDoorbell .. | .cqDoorbell .. | .ringConfig .. | .urgentGo .. | .mcRingRequest .. | .nop .. | .version .. | .submit .. | .plan ..
  | .invalidate .. | .abortFault .. | .fqHead .. | .mmuCfg .. | .place .. | .releaseKeep .. | .unit .. | .hostWin .. | .swap .. | .advance ..
  | .barrier .. | .bufCfg .. | .cbLoad .. | .cbUnload .. | .verdict .. | .setScale .. | .setStep .. | .journal .. | .hist .. | .config .. | .halt ..
  | .release .. | .cores .. | .pfWin .. | .bank .. | .fence .. | .unfence .. | .route .. | .fabricCfg .. | .modId .. | .link .. | .fwLoad ..
  | .fwSelect .. | .manifest .. | .override .. | .repair .. | .snapRead .. | .errLogRead .. | .scan .. | .keyNew .. | .keyErase .. | .debugNonce ..
  | .debugUnlock .. | .svnCommit .. | .keyRevoke .. | .powerCap .. | .powerRead .. | .thermCfg .. | .lockstepMismatch | .cpPairRetest ..
  | .mcWatchdog | .resCtrlMod .. | .modRstN | .snapNow .. | .shiftOutComplete | .pmcSelect .. | .bwWindowEnd .. | .bwWindowConfig .. | .ghClear ..
  | .registerReadClear .. | .registerWrite .. | .spdmRequest .. | .extest | .samplePreload | .idcode | .clamp | .highz | .dbgState | .unlockNonce
  | .unlockLoad .. | .regAccess .. | .memAccess .. | .mcDebug | .cpDebug | .bypass | .powerUp .. | .inputUndervoltage | .pwrWarn | .auxSupplyLoss
  | .thermalTrip .. | .flowTrip | .powerDownPortIdle | .repower .. | .perstNRelease .. | .linkTrainingTimeout .. | .recoveryExit ..
  | .pldmFirmwareUpdate .. => true
  | _ => false

/-- Commands that change no byte of memory. -/
def Instr.dry : Instr → Bool
  | .operationStart .. | .memoryRequest .. | .bankRefresh .. | .laneFailure .. | .laneRemap .. | .spareTrained .. | .retirementCopyComplete ..
  | .repairApply .. | .cartridgeSafe .. | .latchOpen .. | .latchClose .. | .presenceContactOpen .. | .bar2ReadTimeout .. | .configRequest ..
  | .hostSnoop .. | .holdoffExpiry .. | .flitNak .. | .replayTimeout .. | .functionLevelReset .. | .ideIntegrityFail ..
  | .portAdaptationRefresh .. | .sqDoorbell .. | .lockstepMismatch | .cpPairRetest .. | .mcWatchdog | .unitSelfTest ..
  | .receiverAdaptationRefresh .. | .modRstN | .shiftOutComplete | .bwWindowEnd .. | .registerReadClear .. | .spdmRequest .. | .extest
  | .samplePreload | .idcode | .clamp | .highz | .dbgState | .unlockNonce | .mcDebug | .cpDebug | .bypass | .inputUndervoltage | .pwrWarn
  | .auxSupplyLoss | .thermalTrip .. | .flowTrip | .repower .. | .perstNRelease .. | .pldmFirmwareUpdate .. | .timerCompare .. => true
  | _ => false

/-- Commands that may change a quarter's key: the key window and the later steps of the boundary window, which it precedes (R50, R374), an unlock's erasure,
and the two that lose power. -/
def Instr.mayKey : Instr → Bool
  | .keyApply | .tokenBudgetLoad .. | .resumeQueueRebuild | .turnStart .. | .debugErasure | .powerOnReset | .powerDownOff => true
  | _ => false

end Sys2Proof
end

