-- ==== Sys2Proof/Certificates/Slice0/Obligations.lean ====
section
/-! DEFINITION. The statements for the provers. -/

open Sys2Proof Sys2Proof.Machine

/-- For every command and state, a step of the state with that command in front of its queue is exec of the command on the state with the rest of the
queue. -/
def Obligations.StepRunsTheFrontCommand : Prop :=
  ∀ (c : Instr) (s : State), step { s with pending := c :: s.pending } = exec c s

/-- On an empty queue a step lets one sea cycle pass, and stays in the last cycle of the turn (the model's choice, log entry 2): the turn, its length
and TURN_COUNT stay, and with no counter enabled nothing but the clock and the note of EV_CYCLE changes. -/
def Obligations.EmptyQueueIdles : Prop :=
  ∀ (s : State), s.pending = [] → s.turn0 ≤ s.now →
    ∃ t, step s = .next t ∧ t.pos = max s.pos (min (s.pos + 1) (s.len - 1)) ∧ t.turn0 = s.turn0 ∧ t.pending = [] ∧
      (∀ (f : Fld) (i : Nat), f.perTurn = true → t.rd f i = s.rd f i) ∧ t.mem = s.mem ∧ t.ops = s.ops ∧
      ((∀ i < 64, s.rd .PMC_SEL_EN i = 0) → ∀ (f : Fld) (i : Nat), t.rd f i = s.rd f i)

/-- After reset every register field holds a value of its width, and both memories are in canonical form. -/
def Obligations.ResetIsSound : Prop :=
  State.reset.Inv

/-- From every sound state (each register field within its width, so that reserved bits read zero and no field spills into its neighbour; device and
host memory in canonical form), whatever the queue holds, the next state is sound. -/
def Obligations.EveryStepKeepsTheStateSound : Prop :=
  ∀ (s t : State), s.Inv → step s = .next t → t.Inv

/-- Every command, with any operands in any state, answers a next state, in which the waiting commands are those that waited and the module is still
the one it was (an LT1200 or an LT0960). -/
def Obligations.EveryCommandKeepsTheQueue : Prop :=
  ∀ (c : Instr) (s : State), ∃ t, exec c s = .next t ∧ t.pending = s.pending ∧ t.lt09 = s.lt09

/-- The 145 commands of Instr.timeless leave the sea clock and the start of the turn as they are, and no agent can change TURN_COUNT, the turn length
in force, the power-token budget in force, the late mark or C_EFF by any of them. -/
def Obligations.CommandsThatTakeNoTime : Prop :=
  ∀ (c : Instr) (s t : State), c.timeless = true → exec c s = .next t → s.Still t

/-- The 51 commands of Instr.dry leave every byte of device memory and of host memory as it was. -/
def Obligations.CommandsThatLeaveMemory : Prop :=
  ∀ (c : Instr) (s t : State), c.dry = true → exec c s = .next t →
    ∀ (tier unit a : Nat), t.memByte tier unit a = s.memByte tier unit a

/-- Apart from KEY_APPLY (the key window of a turn end), the three later commands that the key window precedes (TOKEN_BUDGET_LOAD,
RESUME_QUEUE_REBUILD, TURN_START), DEBUG_ERASURE and the two commands that lose power, no command, and no write of any register by any agent, changes
a key slot, or what MEM_ENC_STAT shows of one. -/
def Obligations.KeysStayOutsideTheirCommands : Prop :=
  ∀ (c : Instr) (s t : State), c.mayKey = false → exec c s = .next t →
    (∀ q, t.h .keyNum q = s.h .keyNum q) ∧
      ∀ q, t.rd .MEM_ENC_STAT_KEY q = s.rd .MEM_ENC_STAT_KEY q ∧ t.rd .MEM_ENC_STAT_GEN q = s.rd .MEM_ENC_STAT_GEN q

/-- RESUME_QUEUE_REBUILD, the last step of the boundary window, adds one to TURN_COUNT, modulo 2^64, once in a turn. TURN_START ends a turn of L
cycles after its cycle L − 1: the sea clock stands at cycle 0 of the next turn, L cycles after the start of the last one, with TURN_COUNT one more
than in the turn that ended, and with the length that the window put in force.
Completes (exec answers next with the command's own effect, for every state and operands that meet the premises): turnStart, resumeQueueRebuild. -/
def Obligations.TurnStartBeginsATurn : Prop :=
  ∀ (s : State),
    (s.h .sched 0 < 9 → ∃ t, exec .resumeQueueRebuild s = .next t ∧ t.h .sched 0 = 9 ∧
      t.rd .TURN_COUNT_COUNT 0 = (s.rd .TURN_COUNT_COUNT 0 + 1) % 2 ^ 64) ∧
    (s.h .sched 0 = 9 → exec .resumeQueueRebuild s = .next s) ∧
    (s.turn0 ≤ s.now → s.pos ≤ s.len →
      ∃ t, exec .turnStart s = .next t ∧ t.turn0 = s.turn0 + s.len ∧ t.now = t.turn0 ∧ t.pos = 0 ∧
        (s.h .sched 0 < 9 → t.rd .TURN_COUNT_COUNT 0 = (s.rd .TURN_COUNT_COUNT 0 + 1) % 2 ^ 64) ∧
        (s.h .sched 0 = 9 → t.rd .TURN_COUNT_COUNT 0 = s.rd .TURN_COUNT_COUNT 0 ∧ t.rd .TURN_LEN_LEN_ACTIVE 0 =
          (if s.h .lenNext 0 = 0 then s.rd .TURN_LEN_LEN_ACTIVE 0 else (s.h .lenNext 0 - 1) % 8)))

/-- In a turn of length L, a turn mark m falls on m × L ÷ 8, the sweep on S = L − 16,384, the park deadline on P = L − 5,120, the drain deadline on D
= L − 4,352, and the steps of the boundary window on L − 4,096 + w with w 256, 512, 2,560, 3,584 and 3,840: given before that cycle, in a turn that
has not had that step, the command waits for it. -/
def Obligations.TurnCommandsFallOnTheirCycles : Prop :=
  ∀ (c : Instr) (s : State) (n : Nat), c.fallsOn s = some n → (∀ k, c.schedNo = some k → s.h .sched 0 < k) → s.turn0 ≤ s.now → s.pos < n →
    ∃ t, exec c s = .next t ∧ t.turn0 = s.turn0 ∧ t.pos = n

/-- After TOKEN_BUDGET_LOAD, with B the budget in force and F the tokens for the fixed draws, each quarter's FREE and DEBT together are G(q) =
floor((B − F) × SHARE(q) ÷ 4,096), zero where F exceeds B; the fixed draws take F, or all of B where F exceeds it; and these with the reserve and
the sum of G(q) are B. The shares in force are those that R39 lets the window apply: together no more than 4,096. B is the MC's: where it has not
delivered one (late), the budget in force stays and LATE is set.
Completes (exec answers next with the command's own effect, for every state and operands that meet the premises): tokenBudgetLoad. -/
def Obligations.TheBudgetIsShared : Prop :=
  ∀ (s : State) (late : Bool) (metered : List Nat) (modMetered fixed vmin tmax : Nat), s.h .sched 0 = 7 →
    ((List.range s.nQ).map (fun (q : Nat) => s.h .shareAct q)).sum ≤ 4096 →
    ∃ t, exec (.tokenBudgetLoad late metered modMetered fixed vmin tmax) s = .next t ∧
      (∀ q < s.nQ, t.rd .TOK_Q_STAT_FREE q + t.rd .TOK_Q_STAT_DEBT q =
        (t.rd .TOK_BUDGET_CUR 0 - t.rd .TOK_FIXED_FIXED 0) * s.h .shareAct q / 4096) ∧
      t.h .fixedAct 0 = min (t.rd .TOK_FIXED_FIXED 0) (t.rd .TOK_BUDGET_CUR 0) ∧
      t.h .fixedAct 0 + t.h .reserve 0 + ((List.range s.nQ).map (fun (q : Nat) => t.h .gross q)).sum = t.rd .TOK_BUDGET_CUR 0 ∧
      (late = true → s.h .mcNext 0 ≠ 1 → t.rd .TOK_BUDGET_LATE 0 = 1 ∧ t.rd .TOK_BUDGET_CUR 0 = s.rd .TOK_BUDGET_CUR 0) ∧
      (late = false → s.h .mcNext 0 ≠ 1 → t.rd .TOK_BUDGET_LATE 0 = 0 ∧ t.rd .TOK_BUDGET_CUR 0 ≤ s.capW * s.lenAfter / 16000) ∧
      (s.h .mcNext 0 = 1 → t.rd .TOK_BUDGET_LATE 0 = 0 ∧ t.rd .TOK_BUDGET_CUR 0 = s.rd .TOK_BUDGET_NEXT 0 % 2 ^ 21)

/-- KEY_APPLY, with no erasure due: a quarter whose KEY_NEW is staged gets a key that no quarter had, KEY shows a key and GEN goes up by one modulo
256; a quarter whose KEY_ERASE is staged has no key and KEY shows it erased; every other quarter keeps its key; nothing stays staged.
Completes (exec answers next with the command's own effect, for every state and operands that meet the premises): keyApply. -/
def Obligations.KeysChangeInTheirWindow : Prop :=
  ∀ (s : State), s.h .sched 0 = 6 → s.rd .SEC_STAT_ERASE_PEND 0 = 0 →
    ∃ t, exec .keyApply s = .next t ∧ ∀ q < s.nQ,
      (s.h .keyStage q = 1 → s.h .keyCount 0 < t.h .keyNum q ∧ t.rd .MEM_ENC_STAT_KEY q = 1 ∧
        t.rd .MEM_ENC_STAT_GEN q = (s.rd .MEM_ENC_STAT_GEN q + 1) % 256 ∧ t.h .keyStage q = 0) ∧
      (s.h .keyStage q = 2 → t.h .keyNum q = 0 ∧ t.rd .MEM_ENC_STAT_KEY q = 2 ∧ t.h .keyStage q = 0) ∧
      (s.h .keyStage q = 0 → t.h .keyNum q = s.h .keyNum q ∧ t.rd .MEM_ENC_STAT_KEY q = s.rd .MEM_ENC_STAT_KEY q ∧
        t.rd .MEM_ENC_STAT_GEN q = s.rd .MEM_ENC_STAT_GEN q)

/-- In cycle S of the turn or later an admission decision changes nothing at all but the time that passes until it. -/
def Obligations.NothingIsAdmittedFromS : Prop :=
  ∀ (s : State) (q t : Nat), s.turn0 ≤ s.now → s.cycS ≤ s.pos → exec (.admissionDecision q t) s = .next (s.goTo t)

/-- Whatever an admission decision does, the tokens free and the tokens charged in the turn have the same sum before and after, and free tokens never
grow: an operation is admitted only for tokens that the quarter has. -/
def Obligations.AdmissionKeepsTheTokens : Prop :=
  ∀ (s t : State) (q c : Nat), s.Inv → exec (.admissionDecision q c) s = .next t →
    ∀ r, t.rd .TOK_Q_STAT_FREE r + t.h .charged r = s.rd .TOK_Q_STAT_FREE r + s.h .charged r ∧
      t.rd .TOK_Q_STAT_FREE r ≤ s.rd .TOK_Q_STAT_FREE r

/-- ADMISSION_DECISION of a quarter that is not halted, has its park area, fewer than 256 executing operations and an operation that no unit's tensor
record must name (no update-unit operation): with left = S − now, need = EST_CYCLES (CHUNK_CYCLES with SPAN), slice = min(EST_CYCLES, left) and
charge = ceil(EST_TOKENS × slice ÷ EST_CYCLES), an operation at the head of the resume queue, or, with none and fewer than 768 parked, a valid one at
the head of the submit queue, is admitted with that slice and charge where need fits left and charge fits the free tokens: the free tokens fall by
the charge, what the quarter was charged grows by it. Where it does not fit, nothing but EV_ADMIT_WAIT comes of the decision.
Completes (exec answers next with the command's own effect, for every state and operands that meet the premises): admissionDecision. -/
def Obligations.AdmissionChargesTheSlice : Prop :=
  ∀ (s : State) (q c : Nat) (o : Op),
    let u := s.goTo c
    let s1 := u.setH .decideAt q (u.pos + 2)
    let left := u.cycS - u.pos
    let need := fun (o : Op) => if o.span then (estOf o.raw).2.2 else o.estCycles
    let slice := fun (o : Op) => min o.estCycles left
    let charge := fun (o : Op) => (o.estTokens * slice o + o.estCycles - 1) / o.estCycles
    u.pos < u.cycS → u.h .halted q = 0 → u.h .decideAt q ≤ u.pos → q < u.nQ → u.rd .TURN_Q_PARK_EN q = 1 → o.q = q → o.kind ≠ 0x30 →
    s1.executing q < 256 →
    (s1.headOf q s1.resumeQ = some o → s1.estBad o = none →
      (need o ≤ left → charge o ≤ s1.rd .TOK_Q_STAT_FREE q →
        ∃ t, exec (.admissionDecision q c) s = .next t ∧ t = s1.admitOp o false 0 (slice o) (charge o) ∧
          (s.rd .TOK_Q_STAT_FREE q < 2 ^ 21 → t.rd .TOK_Q_STAT_FREE q = s.rd .TOK_Q_STAT_FREE q - charge o) ∧
          t.h .charged q = s.h .charged q + charge o) ∧
      (left < need o ∨ s1.rd .TOK_Q_STAT_FREE q < charge o → exec (.admissionDecision q c) s = .next (s1.ev evAdmitWait q 0 1))) ∧
    (∀ s2 p, s1.headOf q s1.resumeQ = none → s1.headOf q s1.submitQ = some o → o.kind ≠ 0x02 → s1.parkedCount q < 768 →
      s1.withEntries o true = (s2, .ok p) → s2.invalid p = none →
      (need p ≤ left → charge p ≤ s2.rd .TOK_Q_STAT_FREE q →
        ∃ t, exec (.admissionDecision q c) s = .next t ∧ t = s2.admitOp p true 0 (slice p) (charge p) ∧
          (s.rd .TOK_Q_STAT_FREE q < 2 ^ 21 → t.rd .TOK_Q_STAT_FREE q = s.rd .TOK_Q_STAT_FREE q - charge p) ∧
          t.h .charged q = s.h .charged q + charge p) ∧
      (left < need p ∨ s2.rd .TOK_Q_STAT_FREE q < charge p → exec (.admissionDecision q c) s = .next (s2.ev evAdmitWait q 0 1)))

/-- A blank is legal exactly when 2 ≤ r, 2 ≤ c ≤ 64 × COUNT_ACT and r + d ≤ 1,024. BLANK_ALLOCATION, from the cycle after an operation that is not
legal reached the head, completes it with blank-too-large and turns to the next one; the tokens free and the tokens charged stay as they were: it
holds none beyond those charged at admission. -/
def Obligations.BlanksAreLegal : Prop :=
  ∀ (s : State) (q c : Nat) (o : Op),
    (s.blankLegal q (State.blankRows o) (State.blankCols o) (State.drainRows o) = true ↔
      2 ≤ State.blankRows o ∧ 2 ≤ State.blankCols o ∧ State.blankCols o ≤ 64 * s.rd .GRID_Q_STRIPS_COUNT_ACT q ∧ State.blankRows o + State.drainRows o ≤ 1024) ∧
    (let u := s.goTo c
     let v := ((u.finish o.id stBlankTooLarge).startAlloc q (u.h .allocAt q)).syncBlanks q
     u.h .halted q ≠ 1 → u.allocHead q = some o → u.h .allocAt q ≠ 0 → u.h .allocAt q ≤ u.now →
      u.blankLegal q (State.blankRows o) (State.blankCols o) (State.drainRows o) = false →
      exec (.blankAllocation q c) s = .next (v.allocate q u.allocQ.length) ∧ (v.allocHead q = none → v.allocate q u.allocQ.length = v) ∧
        ∀ r, v.rd .TOK_Q_STAT_FREE r = s.rd .TOK_Q_STAT_FREE r ∧ v.h .charged r = s.h .charged r)

/-- The allocator examines granule row i for a legal operation, of h × w granules with h = ceil((r + d) ÷ 8) and w = ceil(c ÷ 8), in cycle a + 2 + i,
a the cycle in which the operation reached the head. BLANK_ALLOCATION gives the operation that is alone in the queue the first place that the rows
examined by then show (topmost, then westmost), as of the cycle of its row, and starts it 32 cycles later; when the last row has shown none, the
allocator waits. ALLOCATOR_RETRY, once a release takes effect in cycle f, counts the cycles waited and scans again as though the operation had
reached the head in cycle f − 1.
Completes (exec answers next with the command's own effect, for every state and operands that meet the premises): blankAllocation,
allocatorRetry. -/
def Obligations.BlanksAreAllocated : Prop :=
  ∀ (s : State) (q c : Nat) (o : Op),
    let u := s.goTo c
    let h := (State.blankRows o + State.drainRows o + 7) / 8
    let w := (State.blankCols o + 7) / 8
    u.h .halted q ≠ 1 → u.allocHead q = some o → u.blankLegal q (State.blankRows o) (State.blankCols o) (State.drainRows o) = true →
    (∀ a top left, u.h .allocAt q = a + 1 → u.h .allocRow q = 0 → u.allocQ = [o.id] →
      u.findPlace q h w 0 (min (129 - h) (u.now - (a + 1))) = some (top, left) →
      exec (.blankAllocation q c) s = .next (u.placeBlank o top left (a + 2 + top)) ∧
        (u.placeBlank o top left (a + 2 + top)).op? o.id =
          some { o with blank := some ⟨left, top, w, h⟩, phase := .setup, startAt := a + 2 + top + 32 }) ∧
    (∀ a, u.h .allocAt q = a + 1 → u.h .allocRow q = 0 → a + 1 + (129 - h) ≤ u.now → u.findPlace q h w 0 (129 - h) = none →
      exec (.blankAllocation q c) s =
        .next ((((u.setH .allocAt q 0).setH .allocRow q 0).setH .allocWait q (a + 2 + (129 - h))).setH .allocFree q 0)) ∧
    (∀ f, u.h .allocWait q ≠ 0 → u.h .allocFree q = f + 1 →
      let v := (u.ev evBlankWait q 0 (f + 1 - u.h .allocWait q)).startAlloc q f
      exec (.allocatorRetry q c) s = .next (v.allocate q (u.allocQ.length + 1)) ∧ v.h .allocAt q = f + 1 ∧ v.h .allocWait q = 0 ∧
        ∀ top left, u.allocQ = [o.id] → v.findPlace q h w 0 (min (129 - h) (u.now - (f + 1))) = some (top, left) →
          exec (.allocatorRetry q c) s = .next (v.placeBlank o top left (f + 2 + top)))

/-- For every Doresque command of Tables 14-5, 16-6, 17-6 and 18-6: where the checks of the entry (handshake, restricted service, known command and
page, form, target) find a status, the command completes with that status and RESULT0 zero, and of registers only what a completion posts
changes; an entry with another CLASS or CODE, or a page that the module does not have, changes nothing. -/
def Obligations.CommandsAreScreened : Prop :=
  ∀ (c : Instr) (s : State) (code : Nat) (e : SubEntry), c.entry? = some (code, e) →
    (∀ st, eCode e = code → s.pageHere e.page = true → s.screen e = some st →
      exec c s = .next (s.done e st 0) ∧ s.Posts (s.done e st 0)) ∧
    ((eCode e ≠ code ∨ s.pageHere e.page = false) → exec c s = .next s)

/-- Outside restricted service, an entry of a ring whose page has HANDSHAKE 0, for a command other than NOP and VERSION, completes with no-handshake
(Table 14-6, 4); NOP and VERSION, and every command of the urgent slot, are not held back by it. -/
def Obligations.NoCommandBeforeTheHandshake : Prop :=
  ∀ (s : State) (e : SubEntry), s.restricted = false → s.rd .MB_STAT_HANDSHAKE e.page = 0 →
    (e.source ≠ 2 → eCode e ≠ 0 → eCode e ≠ 1 → s.screen e = some 4) ∧
    (e.source = 2 ∨ eCode e = 0 ∨ eCode e = 1 → s.screen e ≠ some 4)

/-- A completion for a page whose completion ring is enabled in host memory over a port that is up, is not full and has nothing waiting: the 32 bytes
at BASE + 32 × (CQ_TAIL mod SIZE) are the completion entry with phase 1 in the ring's first round and alternating, CQ_TAIL goes up by one modulo
2 × SIZE, and nothing waits. -/
def Obligations.CompletionsArePosted : Prop :=
  ∀ (s : State) (page : Nat) (c : Cpl),
    let lg := s.rd .MB_CQ_CFG_LOG2 page
    let tail := s.rd .MB_STAT_CQ_TAIL page
    page < 14 → c.source ≠ 2 → s.cqWait = [] → s.rd .MB_CQ_CFG_EN page = 1 → s.cqFull page = false → lg ≤ 12 →
    s.rd .MB_CQ_CFG_LOC page = 0 → s.rd .PT_LINK_STAT_UP (s.pagePort page) = 1 → s.h .cqSince page = 0 →
    (s.complete page c).memBytes 3 0 (s.rd .MB_CQ_CFG_BASE page * 4096 + 32 * (tail % 2 ^ lg)) 32 =
        toBytes (s.cplWord page (1 - tail / 2 ^ lg % 2) c) 32 ∧
      (s.complete page c).rd .MB_STAT_CQ_TAIL page = (tail + 1) % (2 * 2 ^ lg) ∧ (s.complete page c).cqWait = []

/-- Completing a command, whatever its status and its ring, changes no register but those of the completion ring and its faults, the error record,
the event counters and what a packed ring page touches; the clock, the turn and every other register and hidden scalar stay. -/
def Obligations.CompletionsChangeNothingElse : Prop :=
  ∀ (s : State) (e : SubEntry) (st res0 : Nat), s.Posts (s.done e st res0)

/-- Served, NOP completes with success; VERSION answers HW_REV 0xA1, the firmware versions, the service, the protocol range and the manifest version,
and sets HANDSHAKE exactly when its major lies in the covered range (else version-refused); POWER_READ answers PWR_STAT; ERR_LOG_READ puts the
oldest entries, as many as asked for and held, into the host's buffer and frees them; DEBUG_NONCE delivers the current nonce and the failures;
SNAP_READ delivers the bytes of a completed image; SCAN of a CFW slot answers the check value of its image; HIST writes the 69 words of its
slot and, with CLEAR, clears the slot once they are written (with CLEAR stated where no work unit has committed to the slot in the cycle).
Completes (exec answers next with the command's own effect, for every state and operands that meet the premises): nop, version, hist, snapRead,
errLogRead, scan, debugNonce, powerRead. -/
def Obligations.ReportingCommandsAnswer : Prop :=
  ∀ (s : State) (e : SubEntry),
    (s.Serves e 0x000 → exec (.nop e) s = .next (s.done e stSuccess 0)) ∧
    (s.Serves e 0x001 →
      let lo := (s.covered.map (fun (x : Bool × Nat × Nat) => x.2.1)).getD 0
      let hi := (s.covered.map (fun (x : Bool × Nat × Nat) => x.2.2)).getD 0
      let ok := s.covered.isSome && decide (lo / 256 ≤ eArg e 8 8) && decide (eArg e 8 8 ≤ hi / 256)
      let r0 := 0xA1 + 2 ^ 8 * s.rd .FW_STATE_CFW_VER 0 + 2 ^ 32 * s.rd .FW_STATE_MFW_VER 0 + 2 ^ 56 * s.rd .FW_STATE_SERVICE 0
      let r1 := lo + 2 ^ 16 * hi + 2 ^ 32 * objVersion (s.obj objManifestUse)
      exec (.version e) s = .next ((if ok then s.wr .MB_STAT_HANDSHAKE e.page 1 else s).complete e.page
        ⟨eTag e, e.source, if ok then stSuccess else stVersionRefused, 0, false, 0, r0, some r1⟩)) ∧
    (s.Serves e 0xC01 → exec (.powerRead e) s = .next (s.done e stSuccess (s.regVal .PWR_STAT 0))) ∧
    (s.Serves e 0xA01 →
      let head := s.rd .MC_ERR_PTR_HEAD 0
      let n := min (eArg e 0 8) ((s.rd .MC_ERR_PTR_TAIL 0 + 256 - head) % 256)
      exec (.errLogRead e) s = .next (((s.putHost e.page (eArg e 64 64)
        ((List.range n).flatMap (fun i => s.logEntry ((head + i) % 256)))).wr .MC_ERR_PTR_HEAD 0 ((head + n) % 256)).done e stSuccess n)) ∧
    (s.Serves e 0xB02 → exec (.debugNonce e) s =
      .next ((s.putHost e.page (eArg e 64 64) (toBytes s.nonceNow 32)).done e stSuccess (s.rd .SEC_STAT_UNLOCK_FAILS 0))) ∧
    (s.Serves e 0xA00 → ∀ p, s.snap = some p → s.rd .SNAP_STAT_BUSY 0 = 0 → s.rd .SNAP_STAT_VALID 0 = 1 → eArg e 64 32 % 64 = 0 →
      eArg e 0 64 + eArg e 64 32 ≤ s.imageSize → exec (.snapRead e) s =
        .next ((s.putHost e.page (eArg e 128 64) (s.imageBytes p (eArg e 0 64) (eArg e 64 32))).done e stSuccess 0)) ∧
    (s.Serves e 0xA02 → eArg e 2 2 = 2 → eArg e 128 64 = 0 → eArg e 64 64 < 4 → s.obj (objCfw + eArg e 64 64) ≠ [] →
      eArg e 4 1 = 0 → eArg e 5 1 = 0 → eArg e 6 1 = 0 → exec (.scan e) s = .next (s.complete e.page
        ⟨eTag e, e.source, stSuccess, 0, false, 0, crcJob (eArg e 0 2) none (s.obj (objCfw + eArg e 64 64)), some 0⟩)) ∧
    (s.Serves e 0x600 → eArg e 64 64 % 64 = 0 → ∀ t,
      let q := eTarget e
      let sl := 64 * q + eArg e 0 6
      s.vwrite (State.cpClient q (eTag e)) (eArg e 64 64) ((s.histRead sl).flatMap (fun w => toBytes w 8)) = (t, .ok ()) →
        (eArg e 6 1 = 0 → exec (.hist e) s = .next (t.done e stSuccess 0)) ∧
        (eArg e 6 1 = 1 → s.histOf sl = none → exec (.hist e) s = .next ((t.histClear q (eArg e 0 6)).done e stSuccess 0)))

/-- Served, with arguments in range and, for JOURNAL and FABRIC_CFG, no journal slot or send record in use, each command writes exactly the registers
that its row gives, and changes no other register or hidden scalar but what its completion posts.
Completes (exec answers next with the command's own effect, for every state and operands that meet the premises): setScale, setStep, journal,
bank, route, fabricCfg, modId, powerCap, thermCfg. -/
def Obligations.SettingCommandsWriteTheirRegisters : Prop :=
  ∀ (s : State) (e : SubEntry),
    let q := eTarget e
    (s.Serves e 0x502 → ∃ t, exec (.setStep e) s = .next t ∧ (s.wr .UU_STEP_EXPECT_STEP q (eArg e 0 32)).Posts t) ∧
    (s.Serves e 0x501 → eArg e 0 5 ≤ 24 → eArg e 16 16 ≠ 0 → eArg e 33 1 = 1 → ∃ t, exec (.setScale e) s = .next t ∧
      ((((s.wr .UU_Q_KEEP_E q (eArg e 0 5)).wr .UU_Q_KEEP_CLEAN q 0).wr .UU_Q_KEEP_INTERVAL q (eArg e 16 16)).wr
        .UU_Q_KEEP_HW q (eArg e 32 1)).Posts t) ∧
    (s.Serves e 0x503 → s.slotsHeld q = false → ∃ t, exec (.journal e) s = .next t ∧
      ((s.wr .UU_Q_JRNL_OFFSET q (eArg e 0 29)).wr .UU_Q_JRNL_EN q (eArg e 63 1)).Posts t) ∧
    (s.Serves e 0x802 → ∃ t, exec (.modId e) s = .next t ∧ (s.wr .FE_MOD_ID_MOD_ID 0 (eArg e 0 16)).Posts t) ∧
    (s.Serves e 0xC00 → 100 ≤ eArg e 0 11 → eArg e 0 11 ≤ s.capW → ∃ t, exec (.powerCap e) s = .next t ∧
      (s.wr .PWR_CFG_CAP_SET 0 (eArg e 0 11)).Posts t) ∧
    (s.Serves e 0xC02 → 70 ≤ eArg e 0 8 → eArg e 0 8 ≤ 95 → eArg e 8 8 < eArg e 0 8 → ∃ t, exec (.thermCfg e) s = .next t ∧
      ((s.wr .PWR_CFG_THERM_LIMIT 0 (eArg e 0 8)).wr .PWR_CFG_THERM_RESUME 0 (eArg e 8 8)).Posts t) ∧
    (s.Serves e 0x705 → eArg e 0 4 < s.nStacks → ∃ t, exec (.bank e) s = .next t ∧
      ((((((s.wr .BANK_CFG_EN (eArg e 0 4) (eArg e 4 1)).wr .BANK_CFG_FIRST (eArg e 0 4) (eArg e 5 7)).wr .BANK_CFG_COUNT (eArg e 0 4)
        (eArg e 12 7)).wr .BANK_CFG_TOKENS (eArg e 0 4) (eArg e 32 21)).wr .BANK_CFG_OWNER (eArg e 0 4) q).setH .bankBy (eArg e 0 4)
        (State.pageFn e.page + 1)).Posts t) ∧
    (s.Serves e 0x800 → ∃ t, exec (.route e) s = .next t ∧
      ((s.wr .FE_Q_RT_VA q (eArg e 0 64 / 64)).setH .rtStaged q (State.pageFn e.page + 1)).Posts t) ∧
    (s.Serves e 0x801 → (∀ x ∈ s.feTx, x.q ≠ q) → ∃ t, exec (.fabricCfg e) s = .next t ∧
      (((s.wr .FE_Q_CFG_RX_EN q (eArg e 0 1)).wr .FE_Q_CFG_RX_OFF q (eArg e 1 20)).wr .FE_Q_LOG_VA q (eArg e 64 64 / 4096)).Posts t)

/-- Served with its counts in range (at most 16 strips, 12 ways, 512 tags, 1,024 credits, and INT_ROUTE not 3), CONFIG leaves its arguments in
GRID_Q_STRIPS, PLZ_Q_CFG, TOK_Q_SHARE, SE_Q_TAGS, FE_Q_CFG and PT_Q_CFG of its quarter, marks a change of strips as pending, changes what is in
force nowhere, and leaves the registers of every other quarter.
Completes (exec answers next with the command's own effect, for every state and operands that meet the premises): config. -/
def Obligations.ConfigStagesTheQuarter : Prop :=
  ∀ (s : State) (e : SubEntry), s.Serves e 0x700 → eArg e 4 5 ≤ 16 → eArg e 9 4 ≤ 12 → eArg e 26 10 ≤ 512 → eArg e 37 11 ≤ 1024 →
    eArg e 50 2 ≠ 3 → ∃ t, exec (.config e) s = .next t ∧
      let q := eTarget e
      t.rd .GRID_Q_STRIPS_FIRST q = eArg e 0 4 ∧ t.rd .GRID_Q_STRIPS_COUNT q = eArg e 4 5 ∧
      t.rd .GRID_Q_STRIPS_PENDING q = (if eArg e 4 5 = s.rd .GRID_Q_STRIPS_COUNT_ACT q ∧
        (eArg e 4 5 = 0 ∨ eArg e 0 4 = s.rd .GRID_Q_STRIPS_FIRST_ACT q) then 0 else 1) ∧
      t.rd .PLZ_Q_CFG_SCRATCH_WAYS q = eArg e 9 4 ∧ t.rd .TOK_Q_SHARE_SHARE q = eArg e 13 13 ∧ t.rd .SE_Q_TAGS_TAGS q = eArg e 26 10 ∧
      t.rd .SE_Q_TAGS_AUTO q = eArg e 36 1 ∧ t.rd .FE_Q_CFG_CREDITS q = eArg e 37 11 ∧ t.rd .FE_Q_CFG_AUTO q = eArg e 48 1 ∧
      t.rd .PT_Q_CFG_HOST_PORT q = eArg e 49 1 ∧ t.rd .PT_Q_CFG_INT_ROUTE q = eArg e 50 2 ∧ t.rd .PT_Q_CFG_HOLDOFF q = eArg e 52 8 ∧
      t.rd .PT_Q_CFG_REQ_IDE q = eArg e 60 1 ∧ t.rd .PT_Q_CFG_B2_BASE q = eArg e 64 16 ∧
      (∀ f, f ∈ [Fld.GRID_Q_STRIPS_COUNT_ACT, .GRID_Q_STRIPS_FIRST_ACT, .PLZ_Q_CFG_SCRATCH_ACT, .SE_Q_TAGS_TAGS_ACT] →
        ∀ r, t.rd f r = s.rd f r) ∧
      (∀ f, f.posts = false → ∀ r, r ≠ q → t.rd f r = s.rd f r)

/-- Served, each of these commands is the write of its registers by the CP with its arguments (so that what bars such a write bars the command), then
a completion with success; BUF_CFG of a buffer that a stream or claim uses completes with busy and writes nothing.
Completes (exec answers next with the command's own effect, for every state and operands that meet the premises): fqHead, mmuCfg, hostWin,
barrier, bufCfg, cores, pfWin. -/
def Obligations.RegisterCommandsWriteAsTheCP : Prop :=
  ∀ (s : State) (e : SubEntry),
    let q := eTarget e
    (s.Serves e 0x202 → exec (.fqHead e) s = .next ((s.cpWrite (0x70018 + 0x100 * q) (2 ^ 8 * eArg e 0 8)).done e stSuccess 0)) ∧
    (s.Serves e 0x203 → exec (.mmuCfg e) s = .next (((((s.cpWrite (0x70008 + 0x100 * q) (eArg e 0 64)).cpWrite (0x70010 + 0x100 * q)
      (eArg e 64 64)).cpWrite (0x70020 + 0x100 * q) (eArg e 128 64)).cpWrite (0x21010 + 0x100 * q) (eArg e 192 64)).done e stSuccess 0)) ∧
    (s.Serves e 0x207 → exec (.hostWin e) s = .next ((s.cpWrite (0x70028 + 0x100 * q) (eArg e 0 64)).done e stSuccess 0)) ∧
    (s.Serves e 0x302 → exec (.barrier e) s =
      .next ((s.cpWrite (0xB8000 + 0x200 * q + 8 * eArg e 0 6) (eArg e 32 32)).done e stSuccess 0)) ∧
    (s.Serves e 0x303 → (s.bufUsed q (eArg e 0 4) = true → exec (.bufCfg e) s = .next (s.done e stBusy 0)) ∧
      (s.bufUsed q (eArg e 0 4) = false → exec (.bufCfg e) s = .next (((s.cpWrite (0xB4000 + 0x100 * q + 0x10 * eArg e 0 4)
        (eArg e 64 64)).cpWrite (0xB400C + 0x100 * q + 0x10 * eArg e 0 4) (eArg e 128 32)).done e stSuccess 0))) ∧
    (s.Serves e 0x703 → exec (.cores e) s =
      .next ((s.cpWrite (0x130000 + 0x100 * q) (2 ^ 61 * eArg e 0 3 + 2 ^ 2 * eArg e 64 54)).done e stSuccess 0)) ∧
    (s.Serves e 0x704 → exec (.pfWin e) s = .next ((s.cpWrite (0x128100 + 0x1000 * eArg e 0 1)
      (2 ^ 63 * eArg e 1 1 + 2 ^ 56 * q + 2 ^ 36 * eArg e 64 16)).done e stSuccess 0))

/-- Served, HALT freezes its quarter at once, with DISPOSE 1 has its operations disposed of at the turn end, and answers how many operations it
froze; RELEASE of a halted quarter is staged for cycle 0; FENCE makes its fence request and UNFENCE asks the CP for one on the
internal ring pair; LINK asks a port to train at its rate and
completes when the port is up; KEY_NEW and KEY_ERASE are staged for the key window and complete there; REPAIR of a row waits for a window, and of
a free lane waits for the window in which the spare trains.
Completes (exec answers next with the command's own effect, for every state and operands that meet the premises): halt, release, fence, unfence,
link, repair, keyNew, keyErase. -/
def Obligations.StagingCommands : Prop :=
  ∀ (s : State) (e : SubEntry),
    let q := eTarget e
    (s.Serves e 0x701 → exec (.halt e) s = .next ((s.haltQuarter q (eArg e 0 1 == 1)).done e stSuccess (s.executing q)) ∧
      ∃ t, exec (.halt e) s = .next t ∧ t.h .halted q = 1 ∧ t.rd .MB_STAT_HALTED q = 1 ∧
        t.h .dispose q = (if eArg e 0 1 = 1 then 1 else s.h .dispose q)) ∧
    (s.Serves e 0x702 → s.h .halted q = 1 → ∃ t, exec (.release e) s = .next t ∧ (s.setH .releaseStaged q 1).Posts t) ∧
    (s.Serves e 0x706 → eArg e 0 11 < s.nCols → eArg e 11 11 < 1040 →
      exec (.fence e) s = .next ((s.fenceReq (eArg e 0 11) (eArg e 11 11) 0 false).done e stSuccess 0)) ∧
    (s.Serves e 0x905 → s.mcRing = [] →
      let v := 2 ^ 22 + 2 ^ 11 * eArg e 11 11 + eArg e 0 11
      (s.h .cpUp 0 = 0 → exec (.unfence e) s = .next (State.done { s with mcRing := [(0x41c08, v)] } e stSuccess 0)) ∧
      (s.h .cpUp 0 ≠ 0 → exec (.unfence e) s = .next ((s.mcWrite 0x41c08 v).done e stSuccess 0) ∧
        (eArg e 0 11 < s.nCols → eArg e 11 11 < 1040 → s.fences.length < 64 →
          (s.mcWrite 0x41c08 v).fences = s.fences ++ [⟨eArg e 0 11, eArg e 11 11, true⟩]))) ∧
    (s.Serves e 0x803 → 1 ≤ eArg e 1 3 → eArg e 1 3 ≤ 6 → s.rd .PT_LINK_STAT_UP (eArg e 0 1) = 0 →
      exec (.link e) s = .next { s.setH .linkReq (eArg e 0 1) (1 + eArg e 1 3 + 16 * eArg e 4 1) with
        late := s.late ++ [⟨e.page, e.source, eTag e, .linkUp (eArg e 0 1)⟩] }) ∧
    (s.Serves e 0xB00 → eArg e 0 4 < s.nQ → s.rd .SEC_STAT_DBG_OPEN 0 = 0 → exec (.keyNew e) s =
      .next { s.setH .keyStage (eArg e 0 4) 1 with late := s.late ++ [⟨e.page, e.source, eTag e, .keyApplied (eArg e 0 4)⟩] }) ∧
    (s.Serves e 0xB01 → eArg e 0 4 < s.nQ → s.rd .SEC_STAT_DBG_OPEN 0 = 0 → exec (.keyErase e) s =
      .next { s.setH .keyStage (eArg e 0 4) 2 with late := s.late ++ [⟨e.page, e.source, eTag e, .keyApplied (eArg e 0 4)⟩] }) ∧
    (s.Serves e 0x904 → eArg e 0 4 < s.nStacks → eArg e 10 4 = 0 ∨ eArg e 10 4 = 2 →
      (s.repairs.filter (fun r => r.stack == eArg e 0 4 && r.pc == eArg e 4 6 && r.kind == 2)).length < 256 →
      exec (.repair e) s = .next (State.done { s with
        repairs := s.repairs ++ [⟨eArg e 0 4, eArg e 4 6, eArg e 10 4, eArg e 14 4, eArg e 32 32, false⟩] } e stSuccess 1)) ∧
    (s.Serves e 0x904 → eArg e 0 4 < s.nStacks → eArg e 10 4 = 3 → eArg e 18 6 < 35 →
      s.rd .STK_PC_ERR_SPARE_USED (State.pcIdx (eArg e 0 4) (eArg e 4 6)) = 0 → exec (.repair e) s =
        .next ((s.setH .spareWant (State.pcIdx (eArg e 0 4) (eArg e 4 6)) (eArg e 18 6 + 1)).done e stSuccess 1))

/-- A request that names no physical tile, finds 64 fences staged, or is an unfence that is not the MC's, only sets REFUSED; so does a fence of a
tile that is not yet suspect in a quarter that holds 8 suspect tiles in the turn. Every other fence of a quarter's tile makes the tile suspect at
once and joins the staged queue; an unfence by the MC joins it and makes nothing suspect. -/
def Obligations.FenceRequestsAreStagedOrRefused : Prop :=
  ∀ (s : State) (x y act : Nat) (mc : Bool),
    ((s.nCols ≤ x ∨ 1040 ≤ y ∨ 64 ≤ s.fences.length ∨ 2 ≤ act ∨ (act = 1 ∧ mc = false)) →
      s.fenceReq x y act mc = s.mark .GRID_FENCE_STAT_REFUSED 0 ∧ (s.fenceReq x y act mc).rd .GRID_FENCE_STAT_REFUSED 0 = 1) ∧
    (x < s.nCols → y < 1040 → s.fences.length < 64 →
      (mc = true → (s.fenceReq x y 1 mc).fences = s.fences ++ [⟨x, y, true⟩] ∧ (s.fenceReq x y 1 mc).suspects = s.suspects) ∧
      (∀ q, s.holder (x / 65) = some q →
        (⟨q, x, y⟩ ∈ s.suspects ∨ (s.suspects.filter (fun t => t.q == q)).length < 8 →
          (s.fenceReq x y 0 mc).fences = s.fences ++ [⟨x, y, false⟩] ∧ ⟨q, x, y⟩ ∈ (s.fenceReq x y 0 mc).suspects ∧
            (s.fenceReq x y 0 mc).rd .GRID_FENCE_STAT_PENDING 0 = s.fences.length + 1) ∧
        (⟨q, x, y⟩ ∉ s.suspects → 8 ≤ (s.suspects.filter (fun t => t.q == q)).length →
          s.fenceReq x y 0 mc = s.mark .GRID_FENCE_STAT_REFUSED 0)))

/-- Served, INVALIDATE of an aligned range, none of whose accesses stalls, drops the quarter's translations that meet the range and lets requests and
records that waited go on; ABORT_FAULT of a page with no stalled access answers 0; RELEASE_KEEP makes lines of the named keep groups of the quarter
normal; UNIT grants a FREE extent, and a release of an OWNED one completes once it is zeroed; SWAP and ADVANCE move a buffer's HEAD past one and
n full slots, modulo the slots, and set HEAD_PAST alone where fewer are full; PLACE of a ledger whose objects do not all fit writes the report
alone, and one object that fits is written with its place, then the report.
Completes (exec answers next with the command's own effect, for every state and operands that meet the premises): invalidate, abortFault, place,
releaseKeep, unit, swap, advance. -/
def Obligations.MemoryCommandsAct : Prop :=
  ∀ (s : State) (e : SubEntry),
    let q := eTarget e
    let va := eArg e 0 64
    let n := eArg e 64 64
    (s.Serves e 0x200 → va % 65536 = 0 → n % 65536 = 0 → n ≠ 0 → s.stalls = [] →
      exec (.invalidate e) s = .next (((s.dropTlb q va n).resumeFaulted.flushRecords q 0).done e stSuccess 0)) ∧
    (s.Serves e 0x201 → s.stalls = [] → exec (.abortFault e) s = .next (s.done e stSuccess 0)) ∧
    (s.Serves e 0x205 → exec (.releaseKeep e) s = .next ({ s with plaza := s.plaza.map (fun (l : PLine) =>
      if (l.q == q && l.keep.any (fun g => bitsOf (eArg e 0 16) g 1 == 1)) = true then { l with keep := none } else l) }.done e stSuccess 0)) ∧
    (s.Serves e 0x206 → eArg e 0 2 = 1 → eArg e 2 1 = 0 → eArg e 3 11 < 96 * s.nStacks → exec (.unit e) s =
      let s1 := s.cpWrite (0x74000 + 4 * eArg e 3 11) (2 ^ 8 + 2 ^ 4 * q)
      .next (s1.done e stSuccess (s1.rd .MEM_EXT_STATE (eArg e 3 11)))) ∧
    (s.Serves e 0x206 → eArg e 0 2 = 2 → eArg e 2 1 = 0 → eArg e 3 11 < 96 * s.nStacks →
      let s1 := s.cpWrite (0x74000 + 4 * eArg e 3 11) (2 ^ 9 + 2 ^ 4 * q)
      s.rd .MEM_EXT_STATE (eArg e 3 11) = 1 → s1.rd .MEM_EXT_STATE (eArg e 3 11) = 2 → exec (.unit e) s =
        .next { s1 with late := s1.late ++ [⟨e.page, e.source, eTag e, .unitFree false (eArg e 3 11)⟩] }) ∧
    (s.Serves e 0x300 → s.bufSlots q (eArg e 0 4) = some 2 → s.rd .SE_BUF_CFG_KIND (State.bufIdx q (eArg e 0 4)) = 1 →
      exec (.swap e) s = .next ((s.moveHead q (eArg e 0 4) 1).done e stSuccess 0)) ∧
    (s.Serves e 0x301 → 1 ≤ eArg e 8 7 → eArg e 8 7 ≤ 64 → ∀ k, s.bufSlots q (eArg e 0 4) = some k →
      s.rd .SE_BUF_CFG_KIND (State.bufIdx q (eArg e 0 4)) = 0 →
      exec (.advance e) s = .next ((s.moveHead q (eArg e 0 4) (eArg e 8 7)).done e stSuccess 0)) ∧
    (s.Serves e 0x204 → ∀ s1 es,
      let ps := placeAll (placeOrder es) (s1.ownedFree q)
      let ms := State.hostMs (placedIn ps 3) (eArg e 64 32)
      s.readEntries q (eTag e) 0 (2 ^ min 24 (s.rd .MMU_LEDGER_LOG2 q)) = (s1, .ok es) →
      (placeStatus ps = 2 → ∀ s2, s1.vwrite (State.cpClient q (eTag e)) va (placeReport ps ms) = (s2, .ok ()) →
        exec (.place e) s = .next (s2.done e stSuccess 2)) ∧
      (∀ i w p, es = [(i, w)] → ps = [p] → p.obj = i → placeStatus ps ≠ 2 → ∀ s2 s3,
        s1.vwrite (State.cpClient q (eTag e)) (s1.ledgerVA q i) (toBytes (placedEntry w p) 64) = (s2, .ok ()) →
        s2.vwrite (State.cpClient q (eTag e)) va (placeReport ps ms) = (s3, .ok ()) →
        exec (.place e) s = .next (s3.done e stSuccess (placeStatus ps)))) ∧
    (∀ b k, b < 16 →
      let i := 16 * q + b
      (k ≤ s.rd .SE_BUF_PTR_FULL i → s.rd .SE_BUF_PTR_FULL i < 128 → s.rd .SE_BUF_CFG_SLOTS_M1 i < 64 →
        (s.moveHead q b k).rd .SE_BUF_PTR_HEAD i = (s.rd .SE_BUF_PTR_HEAD i + k) % (s.rd .SE_BUF_CFG_SLOTS_M1 i + 1) ∧
        (s.moveHead q b k).rd .SE_BUF_PTR_FULL i = s.rd .SE_BUF_PTR_FULL i - k) ∧
      (s.rd .SE_BUF_PTR_FULL i < k → s.moveHead q b k = s.mark .SE_BUF_PTR_HEAD_PAST i))

/-- Served, CB_LOAD of a good image into a slot that is not in use puts it at the lowest offset that fits the named units and makes the slot valid;
CB_UNLOAD by the slot's owner marks it as unloading, and completes at the turn end that frees it; VERDICT with a step that the quarter expects
gives it, and answers the new sequence, the decision and E; SUBMIT puts its descriptor's operation at the end of the quarter's submit queue; PLAN
of n entries begins to read its array.
Completes (exec answers next with the command's own effect, for every state and operands that meet the premises): submit, plan, cbLoad, cbUnload,
verdict. -/
def Obligations.CodebookAndTrainingCommands : Prop :=
  ∀ (s : State) (e : SubEntry),
    let q := eTarget e
    let c := State.cpClient q (eTag e)
    (s.Serves e 0x400 → (∀ u < 16, bitsOf (eArg e 16 16) u 1 = 1 → u < s.nStacks ∨ (12 ≤ u ∧ u < 12 + s.nBays)) →
      s.rd .CB_SLOT_VALID (eArg e 0 8) = 0 → s.rd .CB_SLOT_UNLOADING (eArg e 0 8) = 0 →
      ∀ s1 h s2 img b, s.vread c (eArg e 64 64) 64 = (s1, .ok (h, false)) →
      s1.vread c (eArg e 64 64) (1088 + min (cbEntries h) 4096 * modeW (cbFmt h) / 2) = (s2, .ok (img, false)) → cbImageOk img = true →
      (List.range 4096).find? (fun b => s2.cbFits (eArg e 16 16) b ((img.length + 63) / 64)) = some b →
      ∃ t, exec (.cbLoad e) s = .next t ∧ t.rd .CB_SLOT_VALID (eArg e 0 8) = 1 ∧ t.rd .CB_SLOT_OWNER (eArg e 0 8) = q % 16 ∧
        t.rd .CB_SLOT_BASE (eArg e 0 8) = b % 4096 ∧ t.rd .CB_SLOT_UNITS (eArg e 0 8) = eArg e 16 16) ∧
    (s.Serves e 0x401 → s.rd .CB_SLOT_VALID (eArg e 0 8) = 1 → s.rd .CB_SLOT_OWNER (eArg e 0 8) = q → exec (.cbUnload e) s =
      .next { s.wr .CB_SLOT_UNLOADING (eArg e 0 8) 1 with late := s.late ++ [⟨e.page, e.source, eTag e, .slotFree (eArg e 0 8)⟩] }) ∧
    (s.Serves e 0x500 → ∀ s1, (s.wr .UU_Q_CLIP_CLIP q (eArg e 64 32)).giveVerdict q (eArg e 0 32) (eArg e 32 1 == 1) = (s1, true) →
      exec (.verdict e) s = .next (s1.done e stSuccess
        (s1.rd .UU_STEP_EXPECT_VSEQ q + 2 ^ 32 * s1.rd .UU_Q_KEEP_APPLY q + 2 ^ 40 * s1.rd .UU_Q_KEEP_E q))) ∧
    (s.Serves e 0x100 → s.submitHeld q = false → (∀ t, s.submitEntry q e.page e.source (eRaw e) none = (t, true) → exec (.submit e) s = .next t) ∧
      ∀ s1 d, s.readDesc q (eTag e) (eArg e 0 64) = (s1, .ok d) → ∃ t o, exec (.submit e) s = .next t ∧
        t.submitQ = s1.submitQ ++ [s1.h .nextId 0] ∧ t.ops = s1.ops ++ [o] ∧ o.id = s1.h .nextId 0 ∧ o.q = q ∧ o.raw = d ∧
        o.tag = eTag e ∧ o.phase = .queued ∧ t.h .nextId 0 = s1.h .nextId 0 + 1) ∧
    (s.Serves e 0x101 → eArg e 0 64 % 64 = 0 → s.submitHeld q = false → exec (.plan e) s =
      .next ({ s.newId.2 with ops := s.newId.2.ops ++ [{ Op.fresh (s.h .nextId 0) q e.page e.source (eTag e) 0x03 (eArg e 0 64) with
        phase := .members, left := eArg e 64 12 + 1, lossE := eArg e 64 12 + 1 }] }.planRun (s.h .nextId 0) (eArg e 64 12 + 1)))

/-- Served, FW_LOAD puts an authentic image into the slot that does not run, MANIFEST a newer manifest and OVERRIDE a policy into use; an object that
is not authentic changes nothing and completes with not-authentic; FW_SELECT of an authentic MFW image is staged for the next turn end where the
triple it would make is covered, and is refused as incompatible where it is not; SVN_COMMIT raises the fused minimum to the running image's
security version and never lowers it; KEY_REVOKE adds the object's keys to those revoked; DEBUG_UNLOCK with an accepted token starts the erasure,
and one that is refused completes with not-authentic.
Completes (exec answers next with the command's own effect, for every state and operands that meet the premises): fwLoad, fwSelect, manifest,
override, debugUnlock, svnCommit, keyRevoke. -/
def Obligations.FirmwareAndKeyCommands : Prop :=
  ∀ (s : State) (e : SubEntry),
    let b := s.readObject e.page (eArg e 64 64) (eArg e 128 32)
    (s.Serves e 0x900 → eArg e 0 1 = 1 → s.h .selStaged 1 ≠ 1 - s.rd .FW_STATE_MFW_SLOT 0 + 1 →
      (s.authentic 1 b = true → exec (.fwLoad e) s = .next ((s.setObj (objMfw + (1 - s.rd .FW_STATE_MFW_SLOT 0)) b).done e stSuccess 0)) ∧
      (s.authentic 1 b = false → exec (.fwLoad e) s = .next (s.done e stNotAuthentic 0))) ∧
    (s.Serves e 0x901 → eArg e 0 1 = 1 → s.h .selStaged 0 = 0 → 
      let img := s.obj (objMfw + eArg e 1 1)
      let cover := s.coverage (s.rd .FW_STATE_CFW_VER 0) (objVersion img)
      (s.authentic 1 img = true → cover.isSome = true → exec (.fwSelect e) s =
        .next (((s.setH .selStaged 1 (eArg e 1 1 + 1)).wr .FW_STATE_SWAP_PEND 0 1).done e stSuccess 0)) ∧
      (s.authentic 1 img = true → cover = none → exec (.fwSelect e) s = .next (s.done e stIncompatible 0)) ∧
      (s.authentic 1 img = false → exec (.fwSelect e) s = .next (s.done e stNotAuthentic 0))) ∧
    (s.Serves e 0x902 → s.obj objManifest = [] ∨ objVersion (s.obj objManifest) < objVersion b →
      (s.authentic 3 b = true →
        exec (.manifest e) s = .next ((((s.setObj objManifest b).setObj objManifestUse b).afterLoad).done e stSuccess 0)) ∧
      (s.authentic 3 b = false → exec (.manifest e) s = .next (s.done e stNotAuthentic 0))) ∧
    (s.Serves e 0x903 → eArg e 0 1 = 0 → 
      (s.authentic 4 b = true →
        exec (.override e) s = .next ((((s.setObj objPolicy b).setObj objPolicyUse b).afterLoad).done e stSuccess 0)) ∧
      (s.authentic 4 b = false → exec (.override e) s = .next (s.done e stNotAuthentic 0))) ∧
    (s.Serves e 0xB04 → s.rd .FW_STATE_SWAP_PEND 0 = 0 → eArg e 0 1 = 1 → s.rd .SEC_STAT_SVN_MFW 0 < 64 →
      ∃ t, exec (.svnCommit e) s = .next t ∧
        t.rd .SEC_STAT_SVN_MIN_MFW 0 = max (s.rd .SEC_STAT_SVN_MIN_MFW 0) (s.rd .SEC_STAT_SVN_MFW 0)) ∧
    (s.Serves e 0xB05 → bitsOf (objScope b) (objKey b) 1 = 0 → s.rd .SEC_STAT_REVOKED 0 ||| objScope b ≠ 15 → 
      (s.authentic 6 b = true → exec (.keyRevoke e) s =
        .next (((s.wr .SEC_STAT_REVOKED 0 (s.rd .SEC_STAT_REVOKED 0 ||| objScope b)).newMeasurement).done e
          stSuccess (s.rd .SEC_STAT_REVOKED 0 ||| objScope b))) ∧
      (s.authentic 6 b = false → exec (.keyRevoke e) s = .next (s.done e stNotAuthentic 0))) ∧
    (s.Serves e 0xB03 →
      let s1 := (s.tryUnlock b).1
      ((s.tryUnlock b).2 = true →
        exec (.debugUnlock e) s = .next { s1 with late := s1.late ++ [⟨e.page, e.source, eTag e, .erased⟩] }) ∧
      ((s.tryUnlock b).2 = false → exec (.debugUnlock e) s = .next (s1.done e stNotAuthentic 0)) ∧
      ((s.tryUnlock b).2 = (s.rd .SEC_STAT_ERASE_PEND 0 != 1 && s.rd .SEC_STAT_DBG_OPEN 0 != 1 &&
        s.rd .SEC_STAT_UNLOCK_FAILS 0 != 3 && s.tokenGood b)))

/-- TURN_MARK m shows the flow sampled, in 0.05 L/min and held at 255, in PWR_STAT FLOW. Below 36 (1.8 L/min) FLOW_LOW is set and the alert stands;
above 38 the alert ends and FLOW_LOW stays as it was; between them both stay as they were. A dump at the mark changes none of this.
Completes (exec answers next with the command's own effect, for every state and operands that meet the premises): turnMark. -/
def Obligations.TurnMarksSampleTheFlow : Prop :=
  ∀ (s : State) (m flow : Nat), m < 8 → ∃ t, exec (.turnMark m flow) s = .next t ∧
    t.rd .PWR_STAT_FLOW 0 = min flow 255 ∧
    (flow < 36 → t.rd .PWR_STAT_FLOW_LOW 0 = 1 ∧ t.h .flowLow 0 = 1) ∧
    (36 ≤ flow → flow ≤ 38 → t.rd .PWR_STAT_FLOW_LOW 0 = s.rd .PWR_STAT_FLOW_LOW 0 ∧ t.h .flowLow 0 = s.h .flowLow 0) ∧
    (38 < flow → t.rd .PWR_STAT_FLOW_LOW 0 = s.rd .PWR_STAT_FLOW_LOW 0 ∧ t.h .flowLow 0 = 0)

/-- SWEEP_START falls on S: an operation that waits for its blank parks with its cursor unchanged, one that waits for its barrier before its first read
parks, and one that runs goes on. From S on PARK parks an operation at its park point. PARK_DEADLINE falls on P: a blank operation that still executes
is overrun and its NO_PROGRESS grows by one, stated for one that is alone. DRAIN_DEADLINE falls on D: reads that have not returned are abandoned,
stalls of operations, of ports and of the fabric engines are dropped, and of the direct stores only those that Port A has accepted stay, stated with
no bank command and no packer at work.
Completes (exec answers next with the command's own effect, for every state and operands that meet the premises): sweepStart, park, parkDeadline,
drainDeadline. -/
def Obligations.TheSweepParksAndCutsOff : Prop :=
  ∀ (s : State) (o : Op),
    (s.h .sched 0 = 0 → exec .sweepStart s = .next (((s.goTo s.cycS).sweep).setH .sched 0 1)) ∧
    (∀ v : State, v.op? o.id = some o → v.h .halted o.q = 0 →
      (o.phase = .placing → o.kind = 0x01 → v.sweepOp o.id = v.parkAsIs o.id) ∧
      (o.phase = .running → v.barOpen o = false → o.kind = 0x01 → o.units = [] → v.sweepOp o.id = v.parkAsIs o.id) ∧
      (o.phase = .running → v.barOpen o = true → o.kind ≠ 0x40 → v.sweepOp o.id = v)) ∧
    (∀ t u, u = s.goTo t → u.op? o.id = some o → u.h .halted o.q = 0 → u.atParkPoint o = true → u.cycS ≤ u.pos → o.kind ≠ 0x30 →
      exec (.park o.id t) s = .next (u.parkAsIs o.id)) ∧
    (∀ u, u = s.goTo s.cycP → s.h .sched 0 = 1 → u.ops = [o] → o.kind = 0x01 → o.phase = .running → u.h .halted o.q = 0 →
      exec .parkDeadline s = .next ((((((u.abandonPage o.id).endSlotWait o).overrun o.id 1)).syncBlanks o.q).setH .sched 0 2)) ∧
    (s.h .sched 0 = 2 → s.engines = [] → s.packStalls = [] → ∃ t, exec .drainDeadline s = .next t ∧ t.reqs = [] ∧
      t.stalls = s.stalls.filter (fun x => !(x.op.isSome || x.init.cls == 4 || x.init.cls == 6)) ∧ (∀ d ∈ t.direct, d.st = 1))

/-- BALANCE_CHECK at w 256, with no counter moved by a hardware error, no tag out, no journal slot or send record in use, no operation executing, and
every quarter's count of park records that of the VALID bits of its area, changes nothing but the time. With one power-token counter moved it sets its
bit and ANY of TURN_BAL_ERR and names it in TURN_BAL_WHERE where nothing was named; the corrective resets, from w 258, take the tokens from the next
budget.
Completes (exec answers next with the command's own effect, for every state and operands that meet the premises): balanceCheck. -/
def Obligations.TheBalanceVerdict : Prop :=
  ∀ (s : State), s.reqs = [] → s.ops = [] → s.uuSlots = [] → s.feTx = [] →
    (s.h .sched 0 = 3 → (∀ q < s.nQ, (s.goTo (s.cycW 256)).parkCount q = (s.goTo (s.cycW 256)).parkInArea q) →
      exec (.balanceCheck []) s = .next (({ s.goTo (s.cycW 256) with balDue := [] } : State).setH .sched 0 4) ∧
      (∀ q d, d ≠ 0 → q < s.nQ → ∃ t, exec (.balanceCheck [⟨.powerToken, q, 0, d⟩]) s = .next t ∧
        t.rd .TURN_BAL_ERR_POWER_TOKEN 0 = 1 ∧ t.balAny = true ∧ t.balDue = [(4, q, 0, d.natAbs)] ∧ t.h .sched 0 = 4 ∧
        (s.rd .TURN_BAL_WHERE_CODE 0 = 0 → t.rd .TURN_BAL_WHERE_CODE 0 = 4 ∧ t.rd .TURN_BAL_WHERE_QUARTER 0 = q ∧
          t.rd .TURN_BAL_WHERE_INSTANCE 0 = 0))) ∧
    (∀ q n, s.h .sched 0 = 4 → s.balDue = [(4, q, 0, n)] → s.turn0 ≤ s.now → s.pos < s.cycW 258 → ∃ t, exec (.balanceCheck []) s = .next t ∧
      t.pos = s.cycW 258 ∧ t.balDue = [] ∧ t.h .balE 0 = s.h .balE 0 + n ∧ t.h .sched 0 = 5)

/-- STAGED_CONFIGURATION_APPLY applies the staged configuration at w 512 of the window. Of it: the staged token shares are put in force when together
they are no more than 4,096, else every share stays and only SHARE_SUM is set; the staged tag quotas are put in force when together they are no
more than 512, else every quota stays and only TAG_SUM is set.
Completes (exec answers next with the command's own effect, for every state and operands that meet the premises): stagedConfigurationApply. -/
def Obligations.StagedSharesAndTags : Prop :=
  ∀ (s : State),
    (s.h .sched 0 = 5 → exec .stagedConfigurationApply s = .next ((s.goTo (s.cycW 512)).applyStaged.setH .sched 0 6)) ∧
    (((List.range s.nQ).map (fun (q : Nat) => s.rd .TOK_Q_SHARE_SHARE q)).sum ≤ 4096 →
      (∀ q < s.nQ, s.applyShares.h .shareAct q = s.rd .TOK_Q_SHARE_SHARE q) ∧ ∀ f i, s.applyShares.rd f i = s.rd f i) ∧
    (4096 < ((List.range s.nQ).map (fun (q : Nat) => s.rd .TOK_Q_SHARE_SHARE q)).sum →
      s.applyShares = s.mark .TURN_BAL_ERR_SHARE_SUM 0 ∧ s.applyShares.rd .TURN_BAL_ERR_SHARE_SUM 0 = 1 ∧
        ∀ q, s.applyShares.h .shareAct q = s.h .shareAct q) ∧
    (((List.range s.nQ).map (fun (q : Nat) => s.tagsNext q)).sum ≤ 512 →
      ∀ q < s.nQ, s.applyTags.rd .SE_Q_TAGS_TAGS_ACT q = s.tagsNext q) ∧
    (512 < ((List.range s.nQ).map (fun (q : Nat) => s.tagsNext q)).sum → s.applyTags = s.mark .SE_CFG_TAG_SUM 0 ∧
      s.applyTags.rd .SE_CFG_TAG_SUM 0 = 1 ∧ ∀ q, s.applyTags.rd .SE_Q_TAGS_TAGS_ACT q = s.rd .SE_Q_TAGS_TAGS_ACT q)

/-- OPERATION_START runs an operation whose setup is over, starts the preload of its first residency, and names what that and its first work unit
read; PRELOAD_COMPLETE, once all that a preload reads has come, takes B and the operands of the residency that were read; WORK_UNIT_START of a
residency in place, or preloaded, whose first A row is there and which does not pass P, begins the work unit, with its end after its steps and its
witness step, and moves the cursor on; WITNESS_VERDICT of a computed work unit that passes counts it as checked, or EV_WIT_SKIP, takes it out of the
hand, and of one whose difference exceeds its bound starts the self-test of 512 cycles at its cursor, of one that read poisoned data ends the
operation, and of one with a wrong spill tag parks it with its mismatch; TILE_SELF_TEST with no failing tile logs the mismatch; OPERATION_COMPLETE
ends an operation that has its status and no store in flight.
Completes (exec answers next with the command's own effect, for every state and operands that meet the premises): operationStart,
preloadComplete, workUnitStart, witnessVerdict, tileSelfTest, operationComplete. -/
def Obligations.BlankOperationsRun : Prop :=
  ∀ (s : State) (o : Op) (t : Nat),
    let u := s.goTo t
    let key := (State.nextUnit o).key
    u.op? o.id = some o → u.h .halted o.q = 0 →
    (o.phase = .setup → o.startAt ≤ u.now → exec (.operationStart o.id t) s = .next (u.setOp { o with
      phase := .running, startAt := u.now, preKey := some key, preDone := false, preEnd := u.now + tPre o.raw (State.nextUnit o), replica := false,
      lastEnd := 0, units := [], unitNo := 0, nextAt := u.now + tPre o.raw (State.nextUnit o),
      needs := needsLoad o 1 (State.nextUnit o) u.now none ++
        needsRun o 1 (State.nextUnit o) (u.now + tPre o.raw (State.nextUnit o)) })) ∧
    (∀ nb kc, o.preKey = some (nb, kc) → o.phase = .running → o.preDone = false → o.preEnd ≤ u.now → u.dataDue o.id Need.preload = false →
      ∀ s1 b fl bad s2 es,
        u.readB (blankClient o) o.raw nb (⟨0, nb, kc⟩ : UnitPos).k0 (if o.replica then some o.repEntry else none) = (s1, .ok (b, fl, bad)) →
      s1.preOperands o ⟨0, nb, kc⟩ = (s2, .ok es) → exec (.preloadComplete o.id t) s = .next (s2.updOp o.id (fun p => { p with
        preDone := true, preEnd := s2.now, preB := b ++ [es.map (·.vals)], preFlags := fl, prePoison := bad || es.any (·.poison) }))) ∧
    (∀ faults, o.phase = .running → o.kind = 0x01 → State.unitsDone o = false → o.lastEnd ≤ u.now → u.waitBroken o = false →
      u.pos + (estOf o.raw).2.2 ≤ u.cycP → u.pos < u.cycS → o.units = [] →
      (o.actKey = some key ∨ (o.preKey = some key ∧ o.preDone = true ∧ o.preEnd ≤ u.now)) →
      u.dataDue o.id (fun e => e.ofA && e.unit == o.unitNo + 1 && decide (e.at_ ≤ o.nextAt)) = false →
        ∃ v w x, exec (.workUnitStart o.id t faults) s = .next v ∧ v.op? o.id = some w ∧
          w.rowRun = ((State.nextUnit o).next o.raw).rowRun ∧ w.nBlock = ((State.nextUnit o).next o.raw).nBlock ∧
          w.kChunk = ((State.nextUnit o).next o.raw).kChunk ∧ w.actKey = some key ∧ w.unitNo = o.unitNo + 1 ∧
          w.lastEnd = u.now + (State.nextUnit o).steps o.raw + 1 ∧ w.units = [x] ∧
          x.verdictAt = u.now + (State.nextUnit o).steps o.raw + mR o.raw + mC o.raw + 8) ∧
    (∀ x, o.phase = .running → o.units = [x] → x.verdictAt ≤ u.now → x.written = true →
      (x.poison = true → exec (.witnessVerdict o.id t 0) s = .next ((u.finish o.id stPoisonedData).syncBlanks o.q)) ∧
      (x.poison = false → x.spillTag = true → ∃ (v : State), exec (.witnessVerdict o.id t 0) s = .next (v.mismatch o.id 2 x.kChunk 0 none) ∧
        v.rd .MX_WIT_STAT_SPILL_TAG o.q = 1) ∧
      (x.poison = false → x.spillTag = false → (x.checked = false ∨ x.diff ≤ x.bound) → ∃ v w, exec (.witnessVerdict o.id t 0) s = .next v ∧
        v.op? o.id = some w ∧ w.units = [] ∧ w.flags = o.flags ||| x.flags ∧ (State.unitsDone o = true → w.status = some stSuccess) ∧
        (x.checked = true → v.rd .MX_WIT_STAT_CHECKED o.q = min (u.rd .MX_WIT_STAT_CHECKED o.q + 1) (2 ^ Fld.width .MX_WIT_STAT_CHECKED - 1))) ∧
      (x.poison = false → x.spillTag = false → x.checked = true → x.bound < x.diff → ∃ v w, exec (.witnessVerdict o.id t 0) s = .next v ∧
        v.op? o.id = some w ∧ w.phase = .testing ∧ w.units = [] ∧ w.rowRun = x.rowRun ∧ w.nBlock = x.nBlock ∧ w.kChunk = x.kChunk ∧
        w.preEnd = u.now + 512)) ∧
    (∀ b, o.phase = .testing → o.preEnd ≤ u.now → o.blank = some b →
      exec (.tileSelfTest o.id t []) s = .next (u.mismatch o.id 1 o.kChunk 0 none)) ∧
    (∀ st, o.phase = .ended → o.status = some st → (∀ d ∈ u.direct, d.op ≠ o.id) →
      exec (.operationComplete o.id t) s = .next ((u.finish o.id st).syncBlanks o.q))

/-- TRANSLATION_WALK leaves what the MMU's translation of the access leaves; PLAZA_ACCESS of a line that its quarter does not own, of a bank-mode
extent but with NOALLOC, or past a cut-off tap is answered with an access fault and changes nothing else; a read that is allowed leaves the line's 256
bytes in the answer, with status 3 where one of its lines is poisoned; of two requests of one cycle the one of the lower rank (the port, then the
taps in ascending number, then the privileged clients) is served first, whichever is named first; MOVE_PAGE of a plain copy whose page's reads have
come reads that page, writes it and goes to the next, and a read or write that faults leaves the copy at that page; LATE_READ counts the late
reads of an operation once each, up to the count's largest value.
Completes (exec answers next with the command's own effect, for every state and operands that meet the premises): translationWalk, plazaAccess,
movePage, lateRead. -/
def Obligations.TranslationsAndPlaza : Prop :=
  ∀ (s : State),
    (∀ q va write init, q < s.nQ → exec (.translationWalk q va write init) s = .next (s.xlate ⟨q, init, 0, none⟩ va write).1) ∧
    (∀ r, let a := r.addr / 256 * 256
      let u := if r.tier = 0 then r.q else r.unit
      ((s.ownCheck r.q r.tier u a).isSome = true ∨ (r.tier = 1 ∧ s.inBank u a = true ∧ r.noalloc = false) ∨ (r.tier = 1 ∧ 96 * 2 ^ 30 ≤ a) ∨
        s.meshOk r = false) → exec (.plazaAccess [r]) s = .next { s with reply := ⟨5, []⟩ }) ∧
    (∀ r, let a := r.addr / 256 * 256
      let u := if r.tier = 0 then r.q else r.unit
      s.ownCheck r.q r.tier u a = none → (r.tier ≠ 1 ∨ (a < 96 * 2 ^ 30 ∧ (s.inBank u a = false ∨ r.noalloc = true))) → s.meshOk r = true →
      r.write = false → ∀ s1 d bad, s.readLines ⟨r.q, ⟨r.cls, 0⟩, 0, none⟩ (plazaPte r) r.tier u a 4 = (s1, d, bad) →
        exec (.plazaAccess [r]) s = .next { s1.settle with reply := ⟨if bad = true then 3 else 0, d⟩ }) ∧
    (∀ r1 r2, r2.rank < r1.rank → exec (.plazaAccess [r1, r2]) s = exec (.plazaAccess [r2, r1]) s) ∧
    (∀ o t s1 l, let u := s.goTo t
      u.op? o.id = some o → o.kind = 0x20 → o.phase = .running → u.isStalled o.id = false → u.h .halted o.q = 0 → u.waitBroken o = false →
      o.unitNo = o.rowRun + 1 → u.dataDue o.id (fun _ => true) = false → mvCopy o.raw = true → mvConv o.raw = false →
      u.xlate (moveClient o) (mvSrc o.raw) false = (s1, .ok l) →
      exec (.movePage o.id t) s = .next (match s1.vreadL (moveClient o) (mvSrc o.raw + o.rowRun * 2 ^ l.log2) (2 ^ l.log2) with
        | (s2, .error _) => s2
        | (s2, .ok (data, bads)) => match s2.vwriteL (moveClient o) (mvDst o.raw + o.rowRun * 2 ^ l.log2) data bads with
          | (s3, .error _) => s3
          | (s3, .ok _) => (s3.noteMovePoison o.id (bads.any id)).nextPage o.id)) ∧
    (∀ o t, (s.goTo t).op? o.id = some o → o.kind ≠ 0x01 → ∃ u, exec (.lateRead o.id t) s = .next u ∧
      (∀ r ∈ u.reqs, r ∉ (s.goTo t).lateReqs o.id) ∧
      u.rd .MEM_DEG_STAT_LATE o.q =
        min (s.rd .MEM_DEG_STAT_LATE o.q + ((s.goTo t).lateReqs o.id).length) (2 ^ Fld.width .MEM_DEG_STAT_LATE - 1))

/-- A request to a byte of the module's DRAM enters the queue of its channel while it holds fewer than 64, and else waits as a stalled requester that
counts EV_MEM_QFULL for its quarter and channel; one that names no such byte, or a listed frame, is answered with an access fault; where a channel
serves, it serves the request that R155 picks. A DRAM read of a sound channel with no symbol in error answers the line's 64 bytes, and one with two in
a stack's codeword answers it as poisoned and counts an uncorrectable error; a refresh closes the row of its bank; the scrubber reads its next
codeword and moves on.
Completes (exec answers next with the command's own effect, for every state and operands that meet the premises): memoryRequest, readComplete,
bankRefresh, scrub. -/
def Obligations.ChannelsServe : Prop :=
  ∀ (s : State) (tier unit : Nat),
    (∀ r serve, s.dramReachable tier unit r.addr = false → exec (.memoryRequest tier unit r serve) s = .next { s with reply := ⟨5, []⟩ }) ∧
    (∀ r, s.dramReachable tier unit r.addr = true → (s.chanQueue tier unit (s.channelOf tier unit r.addr)).length < 64 →
      exec (.memoryRequest tier unit r false) s = .next { s with
        memQ := s.memQ ++ [(tier, unit, s.channelOf tier unit r.addr, { r with sid := none, arrival := s.now, stalled := false })] }) ∧
    (∀ r, s.dramReachable tier unit r.addr = true → 64 ≤ (s.chanQueue tier unit (s.channelOf tier unit r.addr)).length →
      exec (.memoryRequest tier unit r false) s = .next ({ s with
        memQ := s.memQ ++ [(tier, unit, s.channelOf tier unit r.addr, { r with sid := none, arrival := s.now, stalled := true })] }.ev evMemQfull r.q
          (State.chanNo tier unit (s.channelOf tier unit r.addr)) 1)) ∧
    (∀ r s1 x, s.dramReachable tier unit r.addr = true → exec (.memoryRequest tier unit r false) s = .next s1 →
      s1.pickRequest tier unit (s.channelOf tier unit r.addr) = some x →
      exec (.memoryRequest tier unit r true) s = .next (s1.serveReq tier unit (s.channelOf tier unit r.addr) x)) ∧
    (∀ a lane, s.dramReachable tier unit a = true → s.chanShut tier unit (s.channelOf tier unit a) = false → s.poisonOf tier unit a = 0 →
      s.badLanes (State.pcIdx unit (s.channelOf tier unit a)) = [] →
      (∃ t, exec (.readComplete tier unit a 0 lane) s = .next t ∧ t.reply = ⟨0, s.memBytes tier unit (a / 64 * 64) 64⟩ ∧ t.mem = s.mem) ∧
      (tier = 1 → ∃ t, exec (.readComplete tier unit a 2 lane) s = .next t ∧ t.reply.status = 3 ∧
        t = { s.uncorrectable 1 unit a with reply := t.reply })) ∧
    (∀ ch bank, exec (.bankRefresh tier unit ch bank) s =
      .next { s with openRow := Tab.set 0 (State.bankKey tier unit ch bank) 0 s.openRow }) ∧
    (∀ ch wrong lane, s.unitFitted tier unit = true → ch < nChan tier → exec (.scrub tier unit ch wrong lane) s =
      .next ((s.dramRead tier unit (chanAddr tier ch (64 * s.h .scrubPos ((ch * 16 + unit) * 4 + tier))) wrong lane).1.setH .scrubPos
        ((ch * 16 + unit) * 4 + tier)
        ((s.h .scrubPos ((ch * 16 + unit) * 4 + tier) + 1) % ((if tier = 1 then 96 * 2 ^ 30 else 2 ^ 40) / nChan tier / 64))))

/-- The first failure of a lane of a PC shows it in STK_PC_ERR and asks for no retirement; LANE_REMAP begins the training of its spare in the window,
or of the lane that a REPAIR names; SPARE_TRAINED, 1,024 cycles on, puts the spare in its place, and the fourth failed training asks for the PC's
retirement; STK_RETIRE by the CP asks for it, and by the PF is refused; a retirement of a second PC loses the stack; REPAIR_APPLY that fits puts the
oldest row repair of the stack in force, and one that does not leaves it for the next window; RETIREMENT_COPY_COMPLETE ends the copy, in which every
extent of a PC with two failed lanes is marked; the scan after a loss with no line of the stack in plaza changes nothing; a refresh without failures
shuts its PC of every stack for 512 cycles and moves to the next.
Completes (exec answers next with the command's own effect, for every state and operands that meet the premises): laneFailure, laneRemap,
spareTrained, stkRetire, lostScanComplete, retirementCopyComplete, repairApply, receiverAdaptationRefresh. -/
def Obligations.StacksAreRepaired : Prop :=
  ∀ (s : State) (k p lane : Nat), k < s.nStacks → p < 64 → lane < 35 →
    let i := State.pcIdx k p
    let u := s.goTo (s.cycW 512)
    let v := s.goTo (s.h .spareTurn i + 1023 - s.turn0)
    (s.h .laneBad i = 0 → s.rd .STK_PC_ERR_SPARE_USED i = 0 → ∃ t, exec (.laneFailure k p lane) s = .next t ∧ t.h .laneBad i = 2 ^ lane ∧
      t.rd .STK_PC_ERR_LANE_FAIL i = 1 ∧ t.rd .STK_PC_ERR_FAILED_LANE i = lane ∧ t.h .laneFailAt i = s.now ∧
      t.h .retirePend k = s.h .retirePend k ∧ t.rd .STK_STAT_STATE k = s.rd .STK_STAT_STATE k) ∧
    ((u.h .spareWant i = lane + 1 ∨ (u.h .spareWant i = 0 ∧ u.badLanes i = [lane])) → u.pos < u.cycW 3584 →
      u.rd .STK_PC_ERR_SPARE_USED i = 0 → u.h .laneFailAt i + 64 ≤ u.turn0 + u.cycW 0 → u.h .spareTrain i = 0 → u.h .spareTurn i ≤ u.turn0 →
      exec (.laneRemap k p) s = .next (((u.setH .spareTrain i (lane + 1)).setH .spareTurn i (u.now + 1)).setH .spareWant i 0)) ∧
    (v.h .spareTrain i = lane + 1 → ∃ t, exec (.spareTrained k p true) s = .next t ∧ t.rd .STK_PC_ERR_SPARE_USED i = 1 ∧
      t.rd .STK_PC_ERR_SPARE_FOR i = lane ∧ t.h .spareTrain i = 0 ∧ bitsOf (t.h .laneBad i) lane 1 = 0) ∧
    (v.h .spareTrain i = lane + 1 → v.h .spareTries i = 3 → exec (.spareTrained k p false) s =
      .next (((v.setH .spareTrain i 0).setH .spareTries i 4).requestRetire k p)) ∧
    (∀ val, exec (.stkRetire .cp k val) s = .next (if bitsOf val 31 1 = 1 then s.requestRetire k (bitsOf val 0 6) else s)) ∧
    (∀ val, exec (.stkRetire .pf k val) s = .next (s.fnErr 12 1 (0x80008 + 0x1000 * k))) ∧
    (s.rd .STK_STAT_STATE k = 1 → s.rd .STK_STAT_RPC_VALID k = 0 →
      (s.h .retirePend k = 0 → s.requestRetire k p = s.setH .retirePend k (p + 1)) ∧
      (s.h .retirePend k ≠ 0 → s.h .retirePend k ≠ p + 1 → (s.requestRetire k p).rd .STK_STAT_STATE k = 3 ∧
        (s.requestRetire k p).rd .RES_STAT_STACK_LOST 0 = 1)) ∧
    (∀ x, u.repairs.find? (fun r => r.stack == k && !r.applied) = some x → u.pos < u.cycW 3584 → exec (.repairApply k true) s =
      .next { u with repairs := u.repairs.map (fun r => if r = x then { r with applied := true } else r) }) ∧
    exec (.repairApply k false) s = .next u ∧
    (s.rd .STK_STAT_COPYING k = 1 → (s.badLanes (State.pcIdx k (s.rd .STK_STAT_RPC k))).length < 2 →
      exec (.retirementCopyComplete k) s = .next ((s.wr .STK_STAT_COPYING k 0).setH .copyDone k 1)) ∧
    (s.rd .STK_STAT_COPYING k = 1 → 2 ≤ (s.badLanes (State.pcIdx k (s.rd .STK_STAT_RPC k))).length →
      ∃ t, exec (.retirementCopyComplete k) s = .next t ∧ t.rd .STK_STAT_COPYING k = 0 ∧ t.h .copyDone k = 1 ∧
        ∀ e < 96, t.h .pcPoison (96 * k + e) = 1) ∧
    (s.rd .STK_STAT_STATE k = 3 → s.plaza = [] → exec (.lostScanComplete k) s = .next s) ∧
    (∃ t, exec (.receiverAdaptationRefresh []) s = .next t ∧ t.h .refreshPos 0 = (s.h .refreshPos 0 % 64 + 1) % 64 ∧
      t.h .refreshEnd (State.chanNo 1 k (s.h .refreshPos 0 % 64)) = u.now + 512 ∧
      (∀ d < s.nBays, t.h .refreshBad d = 0) ∧ (∀ f i, f.perTurn = true → t.rd f i = s.rd f i))

/-- A bad frame written by the CP goes to the entry that CRT_BF_IDX names, unless the table is full, which BF_FULL shows; WITHDRAW of a bay IN_SERVICE
whose lots are all FREE or RETIRED begins its withdrawal, and in any other state is recorded with cause 4; a withdrawn bay is SAFE after the turn end
that took it out; a PRESENT genuine cartridge trains with the bad-frame table of its identity memory, one that is not is rejected; a trained and
zeroed bay is IN_SERVICE and reads zero everywhere; a latch opened on a SAFE bay leaves it EMPTY, on a bay in service LOST; a latch closed on a
cartridge makes the bay PRESENT; a presence contact that opens on a SAFE bay changes nothing, and on a bay in service loses it.
Completes (exec answers next with the command's own effect, for every state and operands that meet the premises): badFrameWrite, withdraw,
cartridgeSafe, bringIntoService, cartridgeInService, latchOpen, latchClose, presenceContactOpen. -/
def Obligations.CartridgesComeAndGo : Prop :=
  ∀ (s : State) (d : Nat), d < s.nBays →
    (∀ val, s.rd .CRT_STAT_BADFRAMES d ≠ 1024 ∨ bitsOf val 31 1 = 0 → ∃ t, exec (.badFrameWrite .cp d val) s = .next t ∧
      t.rd .CRT_BF_DATA_VALID (1024 * d + s.rd .CRT_BF_IDX_INDEX d) = bitsOf val 31 1 ∧
      t.rd .CRT_BF_DATA_FRAME (1024 * d + s.rd .CRT_BF_IDX_INDEX d) = bitsOf val 0 24 ∧ t.h .bfDirty d = 1) ∧
    (∀ val, s.rd .CRT_STAT_BADFRAMES d = 1024 → bitsOf val 31 1 = 1 → exec (.badFrameWrite .cp d val) s = .next (s.mark .CRT_STAT_BF_FULL d)) ∧
    (s.rd .CRT_STAT_STATE d = 3 → (∀ l < 64, s.rd .MEM_LOT_STATE (64 * d + l) = 0 ∨ s.rd .MEM_LOT_STATE (64 * d + l) = 3) →
      exec (.withdraw .cp d) s = .next (((s.wr .CRT_STAT_STATE d 4).setH .withdrawn d 0).setH .presentPend d 0)) ∧
    (s.rd .CRT_STAT_STATE d ≠ 3 → exec (.withdraw .cp d) s = .next (s.fnErr 13 4 ((0x90008 + 0x1000 * d) * 2 ^ 22 + d))) ∧
    (s.rd .CRT_STAT_STATE d = 4 → s.h .withdrawn d = 1 →
      exec (.cartridgeSafe d) s = .next ((s.wr .CRT_STAT_STATE d 5).setH .withdrawn d 0)) ∧
    (s.rd .CRT_STAT_STATE d = 1 → s.h .fitted d = 1 → ∃ t, exec (.bringIntoService .cp d) s = .next t ∧ t.rd .CRT_STAT_STATE d = 2 ∧
      ∀ i < 1024, t.rd .CRT_BF_DATA_VALID (1024 * d + i) = (if i < (s.cartFrames d).length then 1 else 0) ∧
        t.rd .CRT_BF_DATA_FRAME (1024 * d + i) = (s.cartFrames d).getD i 0 % 2 ^ 24) ∧
    (s.rd .CRT_STAT_STATE d = 1 → s.h .fitted d ≠ 1 → ∃ t, exec (.bringIntoService .cp d) s = .next t ∧ t.rd .CRT_STAT_STATE d = 1 ∧
      t.rd .CRT_STAT_REJECT d = 1) ∧
    (s.rd .CRT_STAT_STATE d = 2 → ∃ t, exec (.cartridgeInService d) s = .next t ∧ t.rd .CRT_STAT_STATE d = 3 ∧ t.h .presentPend d = 1 ∧
      ∀ a, t.memByte 2 d a = 0) ∧
    (s.rd .CRT_STAT_STATE d = 5 → ∃ t, exec (.latchOpen d) s = .next t ∧ t.rd .CRT_STAT_STATE d = 0 ∧ t.rd .CRT_STAT_LATCH d = 0) ∧
    (s.rd .CRT_STAT_STATE d = 3 → ∃ t, exec (.latchOpen d) s = .next t ∧ t.rd .CRT_STAT_STATE d = 6 ∧ t.rd .CRT_STAT_LATCH d = 0 ∧
      ∀ l < 64, t.rd .MEM_LOT_PRESENT (64 * d + l) = 0) ∧
    (∀ genuine frames, s.rd .CRT_STAT_LATCH d = 0 → ∃ t, exec (.latchClose d genuine frames) s = .next t ∧ t.rd .CRT_STAT_STATE d = 1 ∧
      t.rd .CRT_STAT_LATCH d = 1 ∧ (t.h .fitted d = 1 ↔ genuine = true) ∧ t.cartFrames d = frames) ∧
    (s.rd .CRT_STAT_STATE d = 5 → exec (.presenceContactOpen d) s = .next s) ∧
    (s.rd .CRT_STAT_STATE d = 3 → exec (.presenceContactOpen d) s = .next (s.loseBay d))

/-- A CLEARING extent whose zeroing is complete reads zero in every byte, is FREE, and completes the release that waited for it; a CLEARING strip,
its lines written back, is FREE; a quarter whose lines have moved to their new homes clears REHOME, and a bank region whose lines have left plaza is
READY, each 98,304 cycles after its scan began.
Completes (exec answers next with the command's own effect, for every state and operands that meet the premises): rehomeScanComplete, unitZeroed,
stripCleared, bankReady. -/
def Obligations.ScansCompleteAndFree : Prop :=
  ∀ (s : State) (k : Nat),
    (s.rd .MEM_EXT_STATE k = 2 → exec (.unitZeroed false k) s = .next ((((s.setH .pcPoison k 0).wipe (fun t u a =>
      t == 1 && decide (a < 96 * 2 ^ 30) && 96 * u + a / 2 ^ 30 == k)).wr .MEM_EXT_STATE k 0).lateDone (.unitFree false k) 0)) ∧
    (∀ a < 2 ^ 30, k < 96 * s.nStacks → (s.wipe (fun t u a =>
      t == 1 && decide (a < 96 * 2 ^ 30) && 96 * u + a / 2 ^ 30 == k)).memByte 1 (k / 96) (k % 96 * 2 ^ 30 + a) = 0) ∧
    (s.rd .GRID_STRIP_STATE_STATE k = 2 → exec (.stripCleared k) s =
      .next ((s.flushLines (s.plaza.filter (fun l => l.slice / 16 == k))).wr .GRID_STRIP_STATE_STATE k 0)) ∧
    (s.rd .PLZ_Q_CFG_REHOME k = 1 → s.h .scanAt (16 + k) + 98304 ≤ s.now →
      ∃ t, exec (.rehomeScanComplete k) s = .next t ∧ t.rd .PLZ_Q_CFG_REHOME k = 0) ∧
    (s.rd .BANK_CFG_ACTIVE k = 1 → s.rd .BANK_CFG_READY k = 0 → s.h .scanAt k + 98304 ≤ s.now →
      ∃ t, exec (.bankReady k) s = .next t ∧ t.rd .BANK_CFG_READY k = 1)

/-- A packed write goes through the quarter's packer up to the end of its page; a stalled packer that finds room makes its write and stops waiting,
and one that finds none waits 1,024 cycles more; an access that finds BUSY again counts 64 cycles, and one that finds it clear takes place; an expander
of a good directory entry delivers its blocks' bytes, marked as poisoned where one is damaged, and of a damaged entry delivers nothing and notes the
damage.
Completes (exec answers next with the command's own effect, for every state and operands that meet the premises): packedWrite, poolRecheck,
busyRecheck, expanderDecode. -/
def Obligations.PackedPagesAreServed : Prop :=
  ∀ (s : State) (q va : Nat),
    (∀ data init s1 l s2 r, s.xlate ⟨q, init, 0, none⟩ va true = (s1, .ok l) → ptePacked l.pte = true →
      s1.vwrite ⟨q, init, 0, none⟩ va (data.take (2 ^ l.log2 - va % 2 ^ l.log2)) = (s2, r) →
      exec (.packedWrite q va data init) s = .next s2) ∧
    (∀ x s1 r, s.packStalls = [x] → x.q = q → x.busy = false → x.op = none → x.write = true →
      ({ s with packStalls := [] }.dirBusy ⟨q, x.init, x.tag, none⟩ x.pte false).writeOne ⟨q, x.init, x.tag, none⟩ ⟨x.pte, x.log2, x.unit, x.addr⟩ x.va
        x.data x.bads = (s1, r) →
      (r = .error State.waitPool → exec (.poolRecheck q) s = .next (s.ev evPkPoolFull q 0 1024)) ∧
      (r = .ok () → s1.settle.packStalls = [] →
        exec (.poolRecheck q) s = .next ((s1.settle.ev evPkPoolFull q 0 1023).wr .PK_Q_STAT_WAITING q 0))) ∧
    (∀ x s1 r, s.packStalls = [x] → x.q = q → x.va / 2 ^ x.log2 = va / 2 ^ x.log2 → x.busy = true → x.op = none → x.write = false →
      { s with packStalls := [] }.packedRead ⟨q, x.init, x.tag, none⟩ ⟨x.pte, x.log2, x.unit, x.addr⟩ x.va x.data.length = (s1, r) →
      (r = .error State.waitBusy → exec (.busyRecheck q va) s = .next (s.ev evPkBusyWait q 0 64)) ∧
      (∀ d bs, r = .ok (d, bs) → exec (.busyRecheck q va) s =
        .next ({ s1 with reply := ⟨if bs.any id = true then 3 else 0, d⟩ }.ev evPkBusyWait q 0 63))) ∧
    (∀ s1 l s2 d bytes, let c : Client := ⟨q, ⟨2, 0⟩, 0, none⟩
      let u := if pteTier l.pte = 0 then q else pteUnit l.pte
      s.xlate c va false = (s1, .ok l) → ptePacked l.pte = true → s1.readDir c l.pte = (s2, .ok (d, bytes, false)) → d.busy = false →
      (d.valid = false → ∀ j first last i o, exec (.expanderDecode q va j first last i o) s = .next { s2 with reply := ⟨0, []⟩ }) ∧
      (d.valid = true → State.dirBad d bytes = false → ∀ j first last i o,
        s2.runCheck q (pteTier l.pte) u ((d.subs * d.slot + j) % nChan (pteTier l.pte)) (d.runs.getD j (0, 0, 0)).1 (d.runs.getD j (0, 0, 0)).2.1 =
          none →
        let x := ((s2.ev evExpInWait q (unitNo (pteTier l.pte) u) i).ev evExpOutWait q (unitNo (pteTier l.pte) u) o).expand c l.pte l.log2 va j first
          last d
        ∃ t, exec (.expanderDecode q va j first last i o) s = .next t ∧ t = { x.1 with reply := t.reply } ∧
          (t.reply.status = 0 ↔ ∀ e ∈ x.2, e.2 ≠ none) ∧ t.reply.data = x.2.flatMap (fun e => e.2.getD [])) ∧
      (d.valid = true → State.dirBad d bytes = true → ∀ j first last i o,
        ∃ t, exec (.expanderDecode q va j first last i o) s = .next t ∧ t.reply = ⟨3, []⟩ ∧
          t.rd .EXP_STAT_DAMAGED (unitNo (pteTier l.pte) u) = 1))

/-- An engine that has not issued in the cycle, and has one ready read within its quarter's quota, takes a tag and issues its request; Port A sends the
one request that waits for it while fewer than 4,096 are outstanding; a response of a running stream is written at its destination and frees the
tag, and one for an operation that is gone, or whose read is abandoned, frees the tag and writes nothing; a stream opens its next segment before S
and none from S on; a work unit whose every row is delivered commits with its record written, and after the last row the stream is done; a drain
row sends its oldest direct store while Port A has room.
Completes (exec answers next with the command's own effect, for every state and operands that meet the premises): streamIssue, portTier3Issue,
streamResponse, slotOpen, slotCommit, directHostStore. -/
def Obligations.StreamsRun : Prop :=
  ∀ (s : State) (t : Nat),
    let u := s.goTo t
    (∀ e c v, (u.resumeFaulted.ops.map (·.id)).foldl (fun (acc : State × List State.Cand) (id : Nat) => acc.1.offerOp e acc.2 id)
        (u.resumeFaulted, []) = (v, [c]) → v.h .seLast e ≠ v.now + 1 → v.outOf c.op.q e < v.rd .SE_Q_TAGS_TAGS_ACT c.op.q →
      ∃ w r, exec (.streamIssue e t) s = .next w ∧ w.reqs = v.reqs ++ [r] ∧ r.id = v.h .nextReq 0 ∧ r.op = c.op.id ∧ r.q = c.op.q ∧ r.engine = e ∧
        r.need = c.need ∧ r.tier = c.t ∧ r.atPort = (c.t == 3) ∧ w.h .nextReq 0 = v.h .nextReq 0 + 1 ∧ w.h .seLast e = v.now + 1) ∧
    (∀ e cs v, (u.resumeFaulted.ops.map (·.id)).foldl (fun (acc : State × List State.Cand) (id : Nat) => acc.1.offerOp e acc.2 id)
        (u.resumeFaulted, []) = (v, cs) → v.h .seLast e = v.now + 1 → ∃ w, exec (.streamIssue e t) s = .next w ∧ w.reqs = v.reqs) ∧
    (∀ r, u.reqs = [r] → r.atPort = true → r.lost = false → u.direct = [] → u.liveStacks ≠ [] → exec (.portTier3Issue t) s =
      .next ({ u with reqs := [{ r with atPort := false, lost := false }] }.syncOut r.engine)) ∧
    (∀ r o v, u.reqs = [r] → r.atPort = false → r.faulted = false → r.drop = false → r.need.gran = none → u.memQ = [] → u.op? r.op = some o →
      o.phase = .running → o.kind = 0x10 → u.copyBytes (State.engineClient o r.engine) r.need.va r.need.dst r.need.n = (v, true) →
      exec (.streamResponse r.id t) s = .next (v.freeReq r)) ∧
    (∀ r, u.reqs = [r] → r.atPort = false → r.faulted = false → u.memQ = [] → (u.op? r.op = none ∨ r.drop = true) →
      exec (.streamResponse r.id t) s = .next (u.freeReq r)) ∧
    (∀ o, u.op? o.id = some o → o.kind = 0x10 → o.phase = .running → (StreamPos.ofOp o).opened = 0 → u.h .halted o.q ≠ 1 →
      u.waitBroken o = false → stDstKind o.raw = 0 →
      (u.pos < u.cycS → exec (.slotOpen o.id t) s =
        .next (u.setOp ({ StreamPos.ofOp o with opened := streamCursor o + 1 }.put o))) ∧
      (u.cycS ≤ u.pos → exec (.slotOpen o.id t) s = .next u)) ∧
    (∀ o, let done := u.unitEnd o ((StreamPos.ofOp o).opened - 1)
      let o1 := { StreamPos.ofOp o with opened := 0 }.put { o with
        rowRun := done % 2 ^ 32, nBlock := done / 2 ^ 32, overrun := false, spilled := false, noProgress := 0 }
      let left : Op := { o1 with estCycles := max (o1.estCycles - o1.slice) (estOf o.raw).2.2, estTokens := max (o1.estTokens - o1.charge) 1 }
      u.op? o.id = some o → o.kind = 0x10 → o.phase = .running → (StreamPos.ofOp o).opened ≠ 0 → u.h .halted o.q ≠ 1 →
      stDstKind o.raw = 0 → done ≤ (StreamPos.ofOp o).row → u.dataDue o.id (fun e => decide (e.unit < done)) = false → stTotal o.raw ≤ done →
      (∀ v, (u.setOp o1).writeRecord left = (v, true) → exec (.slotCommit o.id t) s = .next (v.updOp o.id (fun l => { l with
        estCycles := o1.estCycles, estTokens := o1.estTokens, phase := .ended, status := some stSuccess }))) ∧
      (∀ v, (u.setOp o1).writeRecord left = (v, false) → exec (.slotCommit o.id t) s = .next (v.finish o.id stPageFault))) ∧
    (∀ o d, u.op? o.id = some o → u.direct = [d] → d.op = o.id → d.st = 0 → u.reqs = [] → u.h .halted o.q ≠ 1 →
      u.rd .PT_LINK_STAT_CACHE 0 = 1 → exec (.directHostStore o.id t) s = .next { u with direct := [{ d with st := 1 }] })

/-- By the owner of an active region: a full line pushed on an engine in service with fewer than 64 commands joins its queue and counts in
SEQ_PUSHED, and on a full queue is discarded, counted, and sets OVERFLOW; a partial push is an error of cause 5; a broadcast push goes into every
engine's queue where every engine has room, into none where one has not; a broadcast data write owes every engine a copy, which the engine makes
within its region; CLEAR clears flags, overflow, the bad sequence and the count of discarded commands. By any other quarter each of these raises an
OWNER fault and has no other effect. A burst boundary finds the bursts whose cycles have passed done, counts the cycles that ordinary requests
waited, moves the end of the running command by the cycles yielded, and serves the requests that wait. A push on one engine changes no other.
Completes (exec answers next with the command's own effect, for every state and operands that meet the premises): commandPush, broadcastPush,
broadcastDataWrite, broadcastCopy, engineClear, burstBoundary. -/
def Obligations.BankWindowsAccept : Prop :=
  ∀ (s : State) (w : WinWrite) (k p : Nat) (line : Line), k < s.nStacks → p < 64 →
    (s.bankOwner w.q k = true →
      ((s.engine k p).queue.length < 64 → s.bankOut k p = false → ∃ t, exec (.commandPush w k p true line) s = .next t ∧
        (t.engine k p).queue = (s.engine k p).queue ++ [line.toNat] ∧ (t.engine k p).seqPushed = (s.engine k p).seqPushed + 1 ∧
        (∀ j, j ≠ p → j < 64 → t.engine k j = s.engine k j)) ∧
      (64 ≤ (s.engine k p).queue.length → ∃ t, exec (.commandPush w k p true line) s = .next t ∧
        (t.engine k p).queue = (s.engine k p).queue ∧ (t.engine k p).overflow = true ∧
        (t.engine k p).discarded = min ((s.engine k p).discarded + 1) (2 ^ 32 - 1)) ∧
      exec (.commandPush w k p false line) s = .next (s.fnErr w.q 5 ((bankWinBase + 65536 * p) % 2 ^ 48)) ∧
      ((∀ j < 64, (s.engine k j).queue.length < 64 ∧ s.bankOut k j = false) → ∃ t, exec (.broadcastPush w k true line) s = .next t ∧
        ∀ j < 64, (t.engine k j).queue = (s.engine k j).queue ++ [line.toNat]) ∧
      ((∃ j < 64, 64 ≤ (s.engine k j).queue.length) → ∃ t, exec (.broadcastPush w k true line) s = .next t ∧
        ∀ j < 64, (t.engine k j).queue = (s.engine k j).queue ∧ (t.engine k j).overflow = true) ∧
      (∀ off data, off + data.length ≤ 0x400000 → ∃ t, exec (.broadcastDataWrite w k off data) s = .next t ∧
        ∀ j < 64, (t.engine k j).copies = (s.engine k j).copies ++ [(off, data)] ∧ (t.engine k j).queue = (s.engine k j).queue) ∧
      (∃ t, exec (.engineClear w k p true) s = .next t ∧ (t.engine k p).flags = 0 ∧ (t.engine k p).overflow = false ∧
        (t.engine k p).badSeq = none ∧ (t.engine k p).discarded = 0 ∧ (t.engine k p).queue = (s.engine k p).queue)) ∧
    (s.bankOwner w.q k = false → ∀ full off data,
      ∀ c ∈ [Instr.commandPush w k p full line, .broadcastPush w k full line, .broadcastDataWrite w k off data, .engineClear w k p full],
        exec c s = .next (s.raiseFault ⟨w.q, w.init, w.tag, none⟩ w.va true 3 7 none)) ∧
    (s.rd .BANK_CFG_ACTIVE k = 1 → s.pos < s.cycS → exec (.broadcastCopy k p) s = .next ((s.burstsDone k p).copyOnce k p)) ∧
    (∀ hold yielded, let v := s.burstsDone k p
      ∃ (t : State), exec (.burstBoundary k p hold yielded) s = .next (t.serveBanks k p) ∧ t.mem = v.mem ∧ t.memQ = v.memQ ∧
        t.rd .BANK_STAT_HOLD_CYCLES k = min (v.rd .BANK_STAT_HOLD_CYCLES k + hold) (2 ^ Fld.width .BANK_STAT_HOLD_CYCLES - 1) ∧
        (t.engine k p).run = (v.engine k p).run.map (fun r => (r.1, r.2 + yielded)) ∧ (t.engine k p).queue = (v.engine k p).queue)

/-- An idle engine of a READY region whose owner is not halted and has tokens, before S, with its copies made, starts the well-formed command at the
head of its queue, of at most 8,192 cycles and within the region: it runs for the cycles of Table 10-6. A running NOP, GEMV, OUTER or ROWADD is
performed up to the last boundary passed, and retires once its cycles have passed, counted in SEQ_DONE with its TAG in LAST_TAG, after which the
decoder notes the lines it read; a SIGNAL retires then with its barrier signalled. How a command divides into units within its bursts is the model's
reading (log entry 29).
Completes (exec answers next with the command's own effect, for every state and operands that meet the premises): bankNop, gemv, outer, rowadd,
signal. -/
def Obligations.BankEnginesRun : Prop :=
  ∀ (s : State) (k p t d : Nat) (rest : List Nat),
    let u := s.goTo t
    let q := u.rd .BANK_CFG_OWNER_ACT k
    k < u.nStacks → p < 64 → (u.engine k p).queue = d :: rest →
    (∀ c, (c, bkOp d) ∈ [(Instr.bankNop k p t, 0), (.gemv k p t, 1), (.outer k p t, 2), (.rowadd k p t, 3), (.signal k p t, 4)] →
      (u.engine k p).run = none → u.rd .BANK_CFG_READY k = 1 → u.pos < u.cycS → u.h .halted q ≠ 1 → (u.engine k p).copies = [] →
      u.bankMetered q < u.h .bankCharge q * 2 ^ 24 → bkBad d = false → bkCycles d ≤ 8192 →
      (∀ r ∈ bkRanges d, bkOp d = 3 ∨ r.1 + r.2 ≤ u.eaLimit k) →
      exec c s = .next ((u.setEngine k p { u.engine k p with run := some (u.now, u.now + bkCycles d) }).syncBusy k)) ∧
    (∀ c a b, (c, bkOp d) ∈ [(Instr.bankNop k p t, 0), (.gemv k p t, 1), (.outer k p t, 2), (.rowadd k p t, 3)] →
      (u.engine k p).run = some (a, b) →
      (u.now < b → exec c s = .next (u.performCmd k p d (bkDue d (bkCycles d - (b - u.now))) none)) ∧
      (b ≤ u.now → ∃ w, exec c s = .next ((u.runUnits k p d (bkUnits d)).reads.foldl (fun s a => s.noteRead k a) w) ∧
        (w.engine k p).queue = rest ∧ (w.engine k p).run = none ∧ (w.engine k p).seqDone = (u.engine k p).seqDone + 1 ∧
        (w.engine k p).lastTag = bitsOf d 32 32 ∧ (w.engine k p).lastStatus = (u.runUnits k p d (bkUnits d)).status)) ∧
    (∀ a b, bkOp d = 4 → (u.engine k p).run = some (a, b) → b ≤ u.now → exec (.signal k p t) s =
      .next (let s1 := (u.signalBar q (bitsOf d 96 6) (if (u.engine k p).clean then 0 else 1)).retireCmd k p bkDone 0
        s1.setEngine k p { s1.engine k p with clean := true }))

/-- Before S a unit that is free does the next shard of the operation it runs, and counts the cycles that it waited for input: of a readable record with
a FREE slot, an ACCUM and an UPDATE compute the shard into that slot, and a NORM its part of the norm; while it is busy, or with nothing to run, it
does nothing, and from S on it starts no shard. Before D a COMMITTED slot at the front whose writes are made is freed, and a shard in hand whose
cycles have passed commits, in a halted quarter too.
Completes (exec answers next with the command's own effect, for every state and operands that meet the premises): accum, norm, update,
shardCommit, slotRetire. -/
def Obligations.UpdateUnitsRun : Prop :=
  ∀ (s : State) (u t wait : Nat),
    let v := s.goTo t
    (∀ o s1 r, v.pos < v.cycS → v.unitRuns u = some o → v.isStalled o.id = false → v.h .halted o.q ≠ 1 → o.nBlock ≠ 1 → v.h .uuFree u ≤ v.now →
      (v.ev evUuInWait o.q u wait).readRec (State.unitClient o.q u o.tag (some o.id)) (uuRec o.raw) = (s1, .ok (r, false)) →
      (uuOp o.raw = 1 → exec (.norm u t wait) s = .next (s1.normShard o r u)) ∧
      (∀ k, o.rowRun < trShards r → s1.freeSlot u = some k →
        (uuOp o.raw = 0 → exec (.accum u t wait) s = .next ((s1.journalWait u o.q false).accumShard o r u k)) ∧
        (uuOp o.raw = 2 → exec (.update u t wait) s = .next ((s1.journalWait u o.q false).applyShard o r u k)))) ∧
    ((v.cycS ≤ v.pos ∨ (∃ o, v.unitRuns u = some o ∧ v.now < v.h .uuFree u) ∨ (v.unitRuns u = none ∧ v.unitHead u = none)) →
      exec (.accum u t wait) s = .next v ∧ exec (.norm u t wait) s = .next v ∧ exec (.update u t wait) s = .next v) ∧
    (∀ k id sh w, v.pos < v.cycD → v.uuSlots = [(u, k, id, sh)] → v.slotState u k = 2 → v.stalls = [] → v.retireSlot u k id = (w, true) →
      exec (.slotRetire u t) s = .next w) ∧
    (∀ k o w rest s1 r b, v.uuSlots = [(u, k, o.id, 1)] → v.slotState u k = 1 → v.op? o.id = some o → o.units = w :: rest → w.endAt ≤ v.now →
      v.readRec (State.unitClient o.q u o.tag (some o.id)) (uuRec o.raw) = (s1, .ok (r, b)) →
      s1.op? o.id = some o → ∃ x y, exec (.shardCommit u t) s = .next x ∧ x.op? o.id = some y ∧ y.units = rest ∧
        y.flags = o.flags ||| w.flags ∧ (y.phase = .ended ↔ trShards r ≤ 1 ∨ o.phase = .ended))

/-- A request that passes the checks of Table 12-3 on a port that is up is served, after the requests that still wait, or held in the boundary window
when it is a BAR2 access or stands behind a held write of its port; one that fails a check is rejected with its cause; a BAR2 read still held at its timeout is rejected with cause 7 and completer abort; a configuration
request is answered with Request Retry Status before LEVEL 1 and served after; a snoop misses; the acknowledgement of a direct store leaves its
bytes in the host line; a store or a read that times out fails.
Completes (exec answers next with the command's own effect, for every state and operands that meet the premises): inboundRequest,
bar2ReadTimeout, configRequest, hostSnoop, hostAck, hostRequestTimeout. -/
def Obligations.HostRequestsAreServed : Prop :=
  ∀ (s : State),
    (∀ r t, let u := s.goTo t
      r.port < 2 → u.rd .PT_LINK_STAT_UP r.port = 1 → u.ideDropped r = false → (u.h .quiesce 0 = 0 ∨ r.write = false) →
      (∀ c, u.inboundCause r = some c → exec (.inboundRequest r t) s = .next (u.reject r c (if c = 2 ∧ r.write then 4 else 1))) ∧
      (u.inboundCause r = none → u.pos < u.cycW 0 → u.heldReqs = [] → exec (.inboundRequest r t) s = .next (u.serveInbound r)) ∧
      (u.inboundCause r = none → u.pos < u.cycW 0 → exec (.inboundRequest r t) s = .next (u.retryHeld.serveNext r)) ∧
      (u.inboundCause r = none → u.cycW 0 ≤ u.pos → (r.bar = 2 ∨ ∃ x ∈ u.heldReqs, x.port = r.port ∧ x.write = true) →
        exec (.inboundRequest r t) s = .next { u with heldReqs := u.heldReqs ++ [r] })) ∧
    (∀ r, s.heldReqs = [r] → r.bar = 2 → r.write = false →
      exec (.bar2ReadTimeout r.port r.tag) s = .next ({ s with heldReqs := [] }.reject r 7 2)) ∧
    (∀ port func off write val, port < 2 → s.h .perstLow port = 0 → s.h .romRec 0 = 0 →
      (s.rd .RES_STAT_LEVEL 0 = 0 → exec (.configRequest port func off write val) s = .next { s with reply := ⟨6, []⟩ }) ∧
      (s.rd .RES_STAT_LEVEL 0 ≠ 0 → s.rd .PT_LINK_STAT_UP port = 1 → func = 0 →
        exec (.configRequest port func off write val) s = .next (s.configAccess port 0 off write val))) ∧
    (∀ a, exec (.hostSnoop a) s = .next { s with reply := ⟨0, []⟩ }) ∧
    (∀ d, s.direct = [d] → d.st = 1 → d.data.length ≤ 64 → ∃ t, exec (.hostAck d.no) s = .next t ∧ t.direct = [] ∧
      t.memBytes 3 0 d.ha d.data.length = d.data) ∧
    (∀ d, s.direct = [d] → d.st = 1 → exec (.hostRequestTimeout d.no) s = .next (s.failStore d))

/-- A vector of a quarter's VF is raised at the resident cores exactly when INT_ROUTE is 1 or 2, and with INT_ROUTE 1 no message goes to the host. -/
def Obligations.InterruptsReachCoresAndHost : Prop :=
  ∀ (s : State) (q vec : Nat), q < 12 → vec < 8 →
    (s.rd .PT_Q_CFG_INT_ROUTE q = 1 ∨ s.rd .PT_Q_CFG_INT_ROUTE q = 2 → bitsOf ((s.raiseVf q vec).h .corePend q) vec 1 = 1) ∧
    (s.rd .PT_Q_CFG_INT_ROUTE q ≠ 1 → s.rd .PT_Q_CFG_INT_ROUTE q ≠ 2 → (s.raiseVf q vec).h .corePend q = s.h .corePend q) ∧
    (s.rd .PT_Q_CFG_INT_ROUTE q = 1 → (s.raiseVf q vec).outbox = s.outbox)

/-- At the end of its holdoff a vector that has an event pending, unmasked, goes to the host on HOST_PORT as one message and the holdoff begins anew;
without one nothing is sent. A core-local timer that has reached its compare value is pending.
Completes (exec answers next with the command's own effect, for every state and operands that meet the premises): holdoffExpiry, timerCompare. -/
def Obligations.TimersAndHoldoffs : Prop :=
  ∀ (s : State) (q v c : Nat), q < s.nQ → v < 8 → c < 3 →
    (let i := 8 * q + v;
      let port := s.rd .PT_Q_CFG_HOST_PORT q;
      let u := s.goTo (s.h .holdUntil i - s.turn0);
      s.h .holdUntil i ≠ 0 → u.h .holdUntil i = s.h .holdUntil i → u.rd .PT_Q_CFG_HOST_PORT q = port →
      (u.h .msixPend (16 * (13 * port + (q + 1)) + v) = 1 → u.h .msixEn (13 * port + (q + 1)) = 1 →
        u.h .msixUnmask (16 * (13 * port + (q + 1)) + v) = 1 → ∃ t, exec (.holdoffExpiry q v) s = .next t ∧
          t.outbox = u.outbox ++ [⟨port, q + 1, v⟩] ∧ t.h .msixPend (16 * (13 * port + (q + 1)) + v) = 0) ∧
      (u.h .msixPend (16 * (13 * port + (q + 1)) + v) ≠ 1 →
        exec (.holdoffExpiry q v) s = .next (u.setH .holdUntil i 0))) ∧
    (let u := s.goTo (10 * s.h .timerCmp (3 * q + c) - s.turn0);
      u.h .timerCmp (3 * q + c) ≤ u.now / 10 → exec (.timerCompare q c) s = .next (u.setH .timerPend (3 * q + c) 1))

/-- On a port that is up: a failed flit CRC, below the limits, counts one error and the flits that FEC corrected before
it; a NAK and a replay timeout count a replay, and a rollover a
Recovery, each shown as a correctable error; a failed lane is named, counts a Recovery and narrows the port to a width on good lanes; a link that goes down shows it and its other
port's PF is told; a port that trains shows its width and rate and completes its LINK command; leaving Recovery gives the rate asked for; a LINK
command out of time completes with link-failed; PERST_N holds a port down until it is released; a hot reset keeps the link; a function-level
reset clears HANDSHAKE of the function's page and halts its quarter; a stream that fails its integrity check is Insecure; re-calibration on a
port with no access held changes nothing but the time.
Completes (exec answers next with the command's own effect, for every state and operands that meet the premises): flitCrcFail, flitNak,
replayTimeout, portLaneFailure, linkDown, linkUp, portReset, functionLevelReset, ideIntegrityFail, portAdaptationRefresh, perstNRelease,
linkTrainingTimeout, recoveryExit. -/
def Obligations.PortsTrainFailAndRecover : Prop :=
  ∀ (s : State) (port : Nat), port < 2 →
    (∀ lane fec, lane < 16 → s.rd .PT_LINK_STAT_UP port = 1 → s.h .crcTurn port + 1 ≤ s.rd .PT_LINK_CFG_REPLAY_LIMIT port →
      s.h .laneCrc (16 * port + lane) < 1024 → ∃ t, exec (.flitCrcFail port lane fec) s = .next t ∧
        t.rd .PT_ERR_CNT_FEC_CORR port = min (s.rd .PT_ERR_CNT_FEC_CORR port + fec) (2 ^ Fld.width .PT_ERR_CNT_FEC_CORR - 1) ∧
        t.rd .PT_ERR_CNT_CRC_ERR port = min (s.rd .PT_ERR_CNT_CRC_ERR port + 1) (2 ^ Fld.width .PT_ERR_CNT_CRC_ERR - 1) ∧
        (∀ f i, f ≠ .PT_ERR_CNT_CRC_ERR → f ≠ .PT_ERR_CNT_FEC_CORR → t.rd f i = s.rd f i)) ∧
    (s.rd .PT_LINK_STAT_UP port = 1 → exec (.flitNak port) s = .next ((s.aerCorrectable port 1 12).bump .PT_ERR_CNT_REPLAY_TX port 1) ∧
      exec (.replayTimeout port false) s = .next ((s.aerCorrectable port 2 12).bump .PT_ERR_CNT_REPLAY_TX port 1) ∧
      exec (.replayTimeout port true) s =
        .next (((s.aerCorrectable port 2 8).bump .PT_ERR_CNT_REPLAY_TX port 1).bump .PT_LINK_STAT_RECOV port 1)) ∧
    (s.rd .PT_LINK_STAT_UP port = 1 → s.rd .PT_LINK_STAT_WIDTH port = 16 → s.h .portBad port = 0 →
      ∃ t, exec (.portLaneFailure port 3) s = .next t ∧ t.rd .PT_LINK_STAT_WIDTH port = 8 ∧ t.rd .PT_LINK_STAT_BAD_LANE port = 3 ∧
        t.rd .PT_LINK_STAT_NARROWED port = 1 ∧ t.rd .PT_LINK_STAT_UP port = 1) ∧
    (s.rd .PT_LINK_STAT_UP port = 1 → ∃ t, exec (.linkDown port) s = .next t ∧ t.rd .PT_LINK_STAT_UP port = 0 ∧
      t.rd .PT_LINK_STAT_DOWN_EVT port = 1 ∧ t.rd .PT_LINK_STAT_UP (1 - port) = s.rd .PT_LINK_STAT_UP (1 - port) ∧
      (∀ r ∈ t.heldReqs, r.port ≠ port)) ∧
    (∀ width rate flit cache, width ∈ [1, 2, 4, 8, 16] → 1 ≤ rate → rate ≤ 6 → s.h .planes 0 = 1 → s.h .perstLow port = 0 → s.late = [] →
      ∃ t, exec (.linkUp port width rate flit cache) s = .next t ∧ t.rd .PT_LINK_STAT_UP port = 1 ∧ t.rd .PT_LINK_STAT_WIDTH port = width ∧
        t.rd .PT_LINK_STAT_RATE port = rate ∧ t.rd .PT_LINK_STAT_FLIT port = (if flit ∨ rate = 6 then 1 else 0) ∧
        t.rd .PT_LINK_STAT_CACHE port = (if cache ∧ port = 0 then 1 else 0)) ∧
    (∀ rate, rate ≤ 6 → s.rd .PT_LINK_STAT_UP port = 1 → s.h .linkReq port = 1 + rate → s.late = [] →
      ∃ t, exec (.recoveryExit port) s = .next t ∧ t.rd .PT_LINK_STAT_RATE port = rate ∧ t.h .linkReq port = 0 ∧
        t.rd .PT_LINK_STAT_WIDTH port = s.rd .PT_LINK_STAT_WIDTH port) ∧
    (∀ l, l.until_ = .linkUp port → s.late = [l] → exec (.linkTrainingTimeout port) s = .next
      (({ s with late := [] }.setH .linkReq port 0).complete l.page
        ⟨l.tag, l.source, 27, 0, false, 0, ({ s with late := [] }.setH .linkReq port 0).regVal .PT_LINK_STAT port, none⟩)) ∧
    (s.h .sweepAt 0 = 0 → (∃ t, exec (.portReset port false) s = .next t ∧ t.h .perstLow port = 1) ∧
      (s.rd .PT_LINK_STAT_UP port = 1 → ∃ t, exec (.portReset port true) s = .next t ∧ t.rd .PT_LINK_STAT_UP port = 1 ∧
        t.rd .PT_LINK_STAT_DOWN_EVT port = 1)) ∧
    exec (.perstNRelease port) s = .next (s.setH .perstLow port 0) ∧
    (∀ func, 0 < func → func ≤ s.nQ → s.rd .PT_Q_CFG_HOST_PORT (func - 1) = port →
      ∃ t, exec (.functionLevelReset port func) s = .next t ∧ t.rd .MB_STAT_HANDSHAKE (func - 1) = 0 ∧ t.h .halted (func - 1) = 1 ∧
        t.h .dispose (func - 1) = 1 ∧ t.h .cfgMem (13 * port + func) = 0) ∧
    (∀ stream, stream < 256 → s.h .ide (256 * port + stream) = 1 → ∃ t, exec (.ideIntegrityFail port stream) s = .next t ∧
      t.h .ide (256 * port + stream) = 2 ∧ t.rd .PT_LINK_STAT_IDE_FAIL port = 1) ∧
    ((∀ r ∈ s.heldReqs, r.port ≠ port) → exec (.portAdaptationRefresh port) s = .next (s.goTo (s.cycW 512)))

/-- A running core's uncached read of its window answers the bytes, marked where poisoned, or an access fault; in the boundary window it is held; an
access of a core that is held in reset does nothing; a maintenance action cleans, invalidates or does both to the lines of its range; releasing
and holding a core are the CP's writes of its RUN bit.
Completes (exec answers next with the command's own effect, for every state and operands that meet the premises): coreDeviceAccess,
maintenanceAction, coreRelease, coreHold. -/
def Obligations.ResidentCoresRun : Prop :=
  ∀ (s : State),
    (∀ x t, let u := s.goTo t
      x.q < u.nQ → x.c < 3 → bitsOf (u.rd .CORE_CTRL_RUN x.q) x.c 1 = 1 → x.len ≠ 0 → 2 ^ 36 ≤ x.pa → x.pa < 2 ^ 37 → x.write = false →
      (u.pos < u.cycW 0 → (∀ v d bad, u.vread (State.coreClient x.q x.c) (u.bar2VA x.q (x.pa - 2 ^ 36)) x.len = (v, .ok (d, bad)) →
        exec (.coreDeviceAccess x t) s = .next { v with reply := ⟨if bad then 3 else 0, d⟩ }) ∧
        (∀ v c, u.vread (State.coreClient x.q x.c) (u.bar2VA x.q (x.pa - 2 ^ 36)) x.len = (v, .error c) →
          exec (.coreDeviceAccess x t) s = .next { v with reply := ⟨5, []⟩ })) ∧
      (u.cycW 0 ≤ u.pos → exec (.coreDeviceAccess x t) s = .next { u with heldCores := u.heldCores ++ [x] })) ∧
    (∀ x t, bitsOf ((s.goTo t).rd .CORE_CTRL_RUN x.q) x.c 1 = 0 → exec (.coreDeviceAccess x t) s = .next (s.goTo t)) ∧
    (∀ q, q < s.nQ →
      let hit := fun (l : L2Line) => l.q == q && decide (s.h .maintBase q < l.pa + 64) && decide (l.pa < s.h .maintBase q + s.h .maintLen q)
      exec (.maintenanceAction q 1) s = .next ((s.l2.filter hit).foldl (fun s l => s.cleanL2 l) s) ∧
      exec (.maintenanceAction q 2) s = .next { s with l2 := s.l2.filter (fun l => !hit l) } ∧
      exec (.maintenanceAction q 3) s = .next (s.flushL2 hit)) ∧
    (∀ a q c, q < s.nQ → c < 3 →
      exec (.coreRelease a q c) s = .next (s.busWrite a (0x130000 + 0x100 * q)
        (2 ^ 61 * (s.rd .CORE_CTRL_RUN q ||| 2 ^ c) + 4 * s.rd .CORE_CTRL_BOOT q)) ∧
      exec (.coreHold a q c) s = .next (s.busWrite a (0x130000 + 0x100 * q)
        (2 ^ 61 * (s.rd .CORE_CTRL_RUN q - (s.rd .CORE_CTRL_RUN q &&& 2 ^ c)) + 4 * s.rd .CORE_CTRL_BOOT q)))

/-- A SEND, RECV or ALLREDUCE waits for its stage barrier and for the slots it binds, and then begins before S where its XFER is free and its route is
not DOWN, ends with transfer-busy where another holds the XFER, with fabric-timeout where the route is DOWN, and with barrier-broken where its
barrier is broken; a message whose route has what it needs is read and sent, and one that is held back counts its
event; a header line is checked before D and waits from D on; a message is applied before S and not from S on; 1,024 cycles after a reception not
acknowledged the acknowledgement goes out; an acknowledgement line that fails its check changes nothing; a message not acknowledged in RETX_US
goes again until RETRY_MAX, and then its route is DOWN.
Completes (exec answers next with the command's own effect, for every state and operands that meet the premises): messageSend, headerCheck,
messageApply, ackLineReceive, ackTimer, resendTimer, send, recv, allreduce. -/
def Obligations.FabricEnginesRun : Prop :=
  ∀ (s : State) (t : Nat),
    let u := s.goTo t
    (∀ o c n, (c, n) ∈ [(Instr.send o.id t, 0), (.recv o.id t, 1), (.allreduce o.id t, 2)] → u.op? o.id = some o → o.kind = 0x40 →
      feOp o.raw = n → o.phase = .placing → u.pos < u.cycS → u.h .halted o.q = 0 →
      (u.waitBroken o = true → exec c s = .next (u.finish o.id stBarrierBroken)) ∧
      (u.waitBroken o = false → (u.barOpen o = false ∨ u.claimFull o = false) → exec c s = .next u) ∧
      (u.waitBroken o = false → u.barOpen o = true → u.claimFull o = true →
        (u.armed o.q (feXfer o.raw) ≠ none → exec c s = .next (u.finish o.id stTransferBusy)) ∧
        (u.armed o.q (feXfer o.raw) = none → u.routeDown o.q (feRoute o.raw) = true → exec c s = .next (u.finish o.id stFabricTimeout)) ∧
        (u.armed o.q (feXfer o.raw) = none → u.routeDown o.q (feRoute o.raw) = false →
          exec c s = .next ((u.setOp { o with phase := .running, startAt := u.now, claimOk := true, barOk := true }).feDone o.id)))) ∧
    (∀ o, u.op? o.id = some o → o.kind = 0x40 → o.phase = .running → o.rowRun < feCount o.raw → u.pos < u.cycS → u.h .halted o.q = 0 →
      (∀ code, u.feBlocked o.q (feRoute o.raw) o.id true = some code → exec (.messageSend o.id t) s =
        .next (u.messageWait o.q (rtEngine (u.route o.q (feRoute o.raw))) (some code))) ∧
      (∀ s1 p bad s2, feOp o.raw = 0 → u.feBlocked o.q (feRoute o.raw) o.id true = none →
        u.vread (State.feClient o.q (rtEngine (u.route o.q (feRoute o.raw))) o.tag (some o.id)) (feSrc o.raw + (0 + 4096 * o.rowRun))
          (min 4096 (feBytes o.raw - 4096 * o.rowRun)) = (s1, .ok (p, bad)) →
        s1.sendMsg o.q (feRoute o.raw) o.id true ⟨0, false, bad, 1, feXfer o.raw, 0 + 4096 * o.rowRun, p⟩ = (s2, true) →
        exec (.messageSend o.id t) s = .next ((s2.feNote o.id 0 bad 0).updOp o.id (fun p => { p with rowRun := p.rowRun + 1 })))) ∧
    (∀ e q i l rid, e < 2 → q < u.nQ → i < 64 → l < 64 →
      (u.pos < u.cycD → exec (.headerCheck e q i l rid t) s = .next (u.checkHeader e q i l rid)) ∧
      (u.cycD ≤ u.pos → exec (.headerCheck e q i l rid t) s = .next { u with feHeld := u.feHeld ++ [⟨e, q, i, l, rid⟩] })) ∧
    (∀ x, u.feRx = [x] → x.applied = false →
      (u.pos < u.cycS → u.h .halted x.q ≠ 1 → exec (.messageApply x.q x.i x.l t) s = .next (u.applyMsg x)) ∧
      (u.cycS ≤ u.pos → exec (.messageApply x.q x.i x.l t) s = .next u)) ∧
    (∀ q i s1 d b, q < u.nQ → i < 64 → u.rd .FE_Q_CFG_RX_EN q = 1 →
      u.vread (State.feClient q (rtEngine (u.route q i)) 0 none) (u.feWin q + feAckOff + 64 * i) 64 = (s1, .ok (d, b)) →
      (mhCrc (ofBytes d) ≠ crc32c (d.take 60) → exec (.ackLineReceive q i t) s = .next s1) ∧
      (mhVer (ofBytes d) = 2 → mhCrc (ofBytes d) = crc32c (d.take 60) → bitsOf (ofBytes d) 32 32 = s1.rd .FE_Q_ERR_EPOCH_ACT q →
        s1.feTx = [] → bitsOf (ofBytes d) 8 1 = 0 → ∃ v, exec (.ackLineReceive q i t) s = .next v ∧ v.feTx = [] ∧ v.ops = (s1.freeRecords []).ops)) ∧
    (∀ q i, u.h .feAckAt (64 * q + i) ≠ 0 → u.h .feAckAt (64 * q + i) + 1024 ≤ u.now + 1 → u.pos < u.cycD →
      exec (.ackTimer q i t) s = .next (u.sendAck q i false)) ∧
    (∀ x, u.feTx = [x] → x.received = false → u.pos < u.cycS → x.sentAt + 1000 * u.rd .FE_CFG_RETX_US x.e ≤ u.now →
      (x.resends < u.rd .FE_CFG_RETRY_MAX x.e → exec (.resendTimer x.q x.e x.recNo t) s = .next (u.resend x)) ∧
      (u.rd .FE_CFG_RETRY_MAX x.e ≤ x.resends → exec (.resendTimer x.q x.e x.recNo t) s = .next (u.downRoute x.q x.route)))

/-- A doorbell by the page's own function on its port, with a tail that its ring can hold, moves the tail, and one out of range is discarded; a HEAD
that frees entries is taken; an agent that does not reach the page changes nothing but the error records; enabling a ring that is off takes its
base and size and starts it at zero; GO on a slot that is not busy starts its command at once, on a busy one is discarded; SQ_ENTRY_COPY of a
ready ring reads the entry at HEAD, advances HEAD and starts the command, which stays next where its access has to wait; a request of the MC joins
the internal ring pair, where the CP carries out the oldest.
Completes (exec answers next with the command's own effect, for every state and operands that meet the premises): sqDoorbell, cqDoorbell,
ringConfig, urgentGo, sqEntryCopy, mcRingRequest. -/
def Obligations.RingsAreServed : Prop :=
  ∀ (s : State) (q : Nat), q < s.nQ → q < 12 →
    let lg := s.rd .MB_SQ_CFG_LOG2 q
    (∀ tail, tail < 2 * 2 ^ lg → State.ringHeld tail (s.rd .MB_STAT_SQ_HEAD q) lg ≤ 2 ^ lg →
      exec (.sqDoorbell (.vf q) (s.rd .PT_Q_CFG_HOST_PORT q) q tail) s = .next (s.wr .MB_SQ_DB_TAIL q tail)) ∧
    (∀ tail, 2 * 2 ^ lg ≤ tail → exec (.sqDoorbell (.vf q) (s.rd .PT_Q_CFG_HOST_PORT q) q tail) s =
      .next ((s.mark .MB_STAT_DB_DISCARD q).fnErr q 2 0x40)) ∧
    (∀ head, head < 2 * 2 ^ s.rd .MB_CQ_CFG_LOG2 q → State.ringHeld head (s.rd .MB_CQ_DB_HEAD q) (s.rd .MB_CQ_CFG_LOG2 q) ≤
        State.ringHeld (s.rd .MB_STAT_CQ_TAIL q) (s.rd .MB_CQ_DB_HEAD q) (s.rd .MB_CQ_CFG_LOG2 q) → s.cqWait = [] →
      exec (.cqDoorbell (.vf q) (s.rd .PT_Q_CFG_HOST_PORT q) q head) s = .next (s.wr .MB_CQ_DB_HEAD q head)) ∧
    (∀ port tail, exec (.sqDoorbell .pf port q tail) s = .next (s.fnErr 12 1 0x40)) ∧
    (∀ val, s.rd .MB_SQ_CFG_EN q = 0 → bitsOf val 11 1 = 1 → 4 ≤ bitsOf val 0 4 → bitsOf val 0 4 ≤ 12 → s.cqWait = [] →
      ∃ t, exec (.ringConfig (.vf q) q false val) s = .next t ∧ t.rd .MB_SQ_CFG_EN q = 1 ∧ t.rd .MB_SQ_CFG_BASE q = bitsOf val 12 52 ∧
        t.rd .MB_SQ_CFG_LOG2 q = bitsOf val 0 4 ∧ t.rd .MB_SQ_DB_TAIL q = 0 ∧ t.rd .MB_STAT_SQ_HEAD q = 0) ∧
    (∀ line, s.rd .MB_URG_DB_BUSY q = 0 → s.served q = true → exec (.urgentGo (.vf q) (s.rd .PT_Q_CFG_HOST_PORT q) q line) s =
      .next (State.dispatch { s.mark .MB_URG_DB_BUSY q with urgCmd := Tab.set 0 q line.toNat s.urgCmd } ⟨q, 2, line⟩)) ∧
    (∀ line, s.rd .MB_URG_DB_BUSY q = 1 → exec (.urgentGo (.vf q) (s.rd .PT_Q_CFG_HOST_PORT q) q line) s =
      .next ((s.mark .MB_STAT_DB_DISCARD q).fnErr q 2 0xC0)) ∧
    (∀ t u d rest, u = ((s.goTo t).serveMcRing (s.goTo t).mcRing.length).pumpPlans → u.ringOrder = q :: rest → u.ringReady q = true →
      u.rd .MB_SQ_CFG_LOC q = 0 → u.rd .PT_LINK_STAT_UP (u.pagePort q) = 1 → d = BitVec.ofNat 512 (ofBytes ((List.range 64).map (fun i =>
        u.memByte 3 0 (u.rd .MB_SQ_CFG_BASE q * 4096 + 64 * (u.rd .MB_STAT_SQ_HEAD q % 2 ^ u.rd .MB_SQ_CFG_LOG2 q) + i)))) →
      eCode ⟨q, 0, d⟩ / 256 ≠ 1 →
      let v := (((((u.setH .rrobin 0 q).setH .rrobin 1 (if u.h .rrobin 0 = q then u.h .rrobin 1 + 1 else 1)).wr
        .MB_STAT_SQ_HEAD q ((u.rd .MB_STAT_SQ_HEAD q + 1) % (2 * 2 ^ u.rd .MB_SQ_CFG_LOG2 q))).setH .cmdWait 0 0).dispatch ⟨q, 0, d⟩)
      (v.h .cmdWait 0 ≠ 1 → exec (.sqEntryCopy t) s = .next v) ∧
      (v.h .cmdWait 0 = 1 → exec (.sqEntryCopy t) s = .next ((v.wr .MB_STAT_SQ_HEAD q (u.rd .MB_STAT_SQ_HEAD q)).setH .cmdWait 0 0))) ∧
    (∀ off val, (s.mcRing = [] → s.h .cpUp 0 ≠ 0 → exec (.mcRingRequest off val) s = .next (s.mcWrite off val)) ∧
      (s.h .cpUp 0 = 0 → exec (.mcRingRequest off val) s = .next { s with mcRing := s.mcRing ++ [(off, val)] }))

/-- A write sets an RW field to the value written; clears the bits of a W1C field that are written as 1, leaving the others, unless hardware has set
the field in the same cycle, when it keeps them; sets the bits of a W1S field written as 1 (no field of
the register tables has this type); leaves RO, WO and RC fields as they are. A read of any of
its bits clears an RC field, but for what the same cycle has added to it, and a read of other bits leaves it. No other field changes. -/
def Obligations.RegisterFieldsObeyTheirAccessType : Prop :=
  ∀ (s : State) (f : Fld) (i v : Nat), s.rd f i < 2 ^ f.width → v < 2 ^ f.width →
    (f.info.acc = .rw → (s.fldWrite f i v).rd f i = v) ∧
    (f.info.acc = .w1c → s.setNow f i = false → ∀ k,
      bitsOf ((s.fldWrite f i v).rd f i) k 1 = (if bitsOf v k 1 = 1 then 0 else bitsOf (s.rd f i) k 1)) ∧
    (f.info.acc = .w1c → s.setNow f i = true → s.fldWrite f i v = s) ∧
    (f.info.acc = .w1s → ∀ k, bitsOf ((s.fldWrite f i v).rd f i) k 1 = (if bitsOf v k 1 = 1 then 1 else bitsOf (s.rd f i) k 1)) ∧
    (f.info.acc = .ro ∨ f.info.acc = .wo ∨ f.info.acc = .rc → s.fldWrite f i v = s) ∧
    (∀ lo n, f.info.lo < lo + n → lo < f.info.lo + f.width →
      (s.fldRead f i lo n).rd f i = (if f.info.acc = .rc then (if s.setNow f i = true then min (s.h .rcNew (regKey f i)) (s.rd f i) else 0)
        else s.rd f i)) ∧
    (∀ lo n, lo + n ≤ f.info.lo ∨ f.info.lo + f.width ≤ lo → s.fldRead f i lo n = s) ∧
    (∀ g j lo n, (g, j) ≠ (f, i) → (s.fldWrite f i v).rd g j = s.rd g j ∧ (s.fldRead f i lo n).rd g j = s.rd g j)

/-- A write by the PF at an offset of the global registers is that register's write on the bus; a write by the CP of a register whose header line
does not list it changes nothing but the error records; PMC_SELECT of a counter by the PF selects its event and clears the counter;
BW_WINDOW_CONFIG sets the window and clears the readings; SNAP_NOW asks for a latch on the next multiple of 1,024 cycles of the turn that is at
least 16 away; GH_CLEAR clears its histogram slot, with no commit in the same cycle; RES_CTRL_MOD with the key begins a module reset; a read answers the register's bytes, and clears the counts of MEM_DEG_STAT
that stood before its cycle. On an LT0960 a write that names a quarter it has not completes without effect.
Completes (exec answers next with the command's own effect, for every state and operands that meet the premises): resCtrlMod, snapNow, pmcSelect,
bwWindowConfig, ghClear, registerReadClear, registerWrite. -/
def Obligations.RegistersAreWrittenAndRead : Prop :=
  ∀ (s : State),
    (∀ off val, off < 0x02000000 → exec (.registerWrite .pf off val) s = .next (s.busWrite .pf off val)) ∧
    (∀ off r i val, findReg s.lt09 off = some (r, i) → r.info.readers &&& 4 = 0 → off < 0x02000000 →
      exec (.registerWrite .cp off val) s = .next (s.fnErr 13 1 off)) ∧
    (∀ a off, exec (.registerReadClear a off) s = .next (s.agentRead a off)) ∧
    (s.setNow .MEM_DEG_STAT_LATE 0 = false → s.setNow .MEM_DEG_STAT_SWITCHES 0 = false → ∃ t, exec (.registerReadClear .pf 0x70030) s = .next t ∧
      t.rd .MEM_DEG_STAT_LATE 0 = 0 ∧ t.rd .MEM_DEG_STAT_SWITCHES 0 = 0 ∧
      t.reply = ⟨0, toBytes (s.rd .MEM_DEG_STAT_LATE 0 + 2 ^ 32 * s.rd .MEM_DEG_STAT_SWITCHES 0) 8⟩) ∧
    (∀ a i val, i < 64 → exec (.pmcSelect a i val) s = .next (s.busWrite a (0x161000 + 0x10 * i) val)) ∧
    (∀ val, s.lt09 = false ∨ fldOf .PMC_SEL_QUARTER val < 9 ∨ fldOf .PMC_SEL_QUARTER val = 15 → ∃ t, exec (.pmcSelect .pf 0 val) s = .next t ∧ t.rd .PMC_SEL_EVENT 0 = fldOf .PMC_SEL_EVENT val ∧
      t.rd .PMC_SEL_EN 0 = fldOf .PMC_SEL_EN val ∧ t.rd .PMC_VAL_COUNT 0 = 0 ∧ t.rd .PMC_VAL_SAT 0 = 0) ∧
    (∀ val, 10 ≤ fldOf .PT_BW_CFG_WIN_LOG2 val → fldOf .PT_BW_CFG_WIN_LOG2 val ≤ 24 → ∃ t, exec (.bwWindowConfig .pf 0 val) s = .next t ∧
      t.rd .PT_BW_CFG_WIN_LOG2 0 = fldOf .PT_BW_CFG_WIN_LOG2 val ∧ t.rd .PT_BW_RX_BYTES 0 = 0 ∧ t.rd .PT_BW_TX_BYTES 0 = 0 ∧
      t.h .bwFrom 0 = s.now + 1) ∧
    (∀ val, s.lt09 = true → 9 ≤ fldOf .PMC_SEL_QUARTER val → fldOf .PMC_SEL_QUARTER val < 15 → exec (.pmcSelect .pf 0 val) s = .next s) ∧
    (∀ val, s.lt09 = false ∨ fldOf .SNAP_CFG_QUARTER val < 9 ∨ fldOf .SNAP_CFG_QUARTER val = 15 → fldOf .SNAP_CFG_NOW val = 1 →
      ∃ t, exec (.snapNow .pf val) s = .next t ∧ t.h .snapDue 0 = 1 + s.turn0 + (s.pos + 16 + 1023) / 1024 * 1024) ∧
    (∀ val, s.histOf 0 = none → fldOf .GH_CTRL_CLEAR val = 1 → ∃ t, exec (.ghClear .pf 0 0 val) s = .next t ∧ ∀ b < 64, t.rd .GH_BIN_COUNT b = 0) ∧
    (∀ val, fldOf .RES_CTRL_KEY val = 0xA5C3 → fldOf .RES_CTRL_MOD val = 1 → s.h .quiesce 0 = 0 →
      ∃ t, exec (.resCtrlMod .pf val) s = .next t ∧ t.h .quiesce 0 = 4)

/-- A trigger with ARM 1 and no shift-out in progress latches: SEQ goes up by one, the shift-out begins, and ARM clears with REPEAT 0 and stays with
REPEAT 1; any other trigger is counted in MISSED and latches nothing. (In this model SNAP_READ is one step, so that none is ever in progress: log
entry 24.) -/
def Obligations.SnapshotsLatchOnce : Prop :=
  ∀ (s : State) (src : Nat),
    (s.rd .SNAP_CFG_ARM 0 = 1 → s.rd .SNAP_STAT_BUSY 0 = 0 →
      (s.latch src).rd .SNAP_STAT_SEQ 0 = (s.rd .SNAP_STAT_SEQ 0 + 1) % 2 ^ 32 ∧ (s.latch src).rd .SNAP_STAT_BUSY 0 = 1 ∧
      (∃ p, (s.latch src).snap = some p ∧ p.seq = (s.rd .SNAP_STAT_SEQ 0 + 1) % 2 ^ 32 ∧ p.src = src ∧ p.pos = s.pos ∧
        p.turn = s.rd .TURN_COUNT_COUNT 0 ∧ p.at_ = s.now ∧ p.strips = s.strips ∧ p.fenced = s.fenced) ∧
      (s.latch src).rd .SNAP_CFG_ARM 0 = (if s.rd .SNAP_CFG_REPEAT 0 = 1 then 1 else 0)) ∧
    (s.rd .SNAP_CFG_ARM 0 = 0 ∨ s.rd .SNAP_STAT_BUSY 0 = 1 →
      (s.latch src).rd .SNAP_STAT_MISSED 0 = min (s.rd .SNAP_STAT_MISSED 0 + 1) (2 ^ Fld.width .SNAP_STAT_MISSED - 1) ∧
      (s.latch src).snap = s.snap ∧ ∀ f i, f ≠ .SNAP_STAT_MISSED → (s.latch src).rd f i = s.rd f i)

/-- The trigger that SNAP_CFG names latches in its cycle: the turn end in w 257, after the verdict and before any later step of the window, a mark on the mark, and NOW in the cycle it asked for; the end of
the shift-out makes the image valid; the end of a window shows the bytes and their rate in the window.
Completes (exec answers next with the command's own effect, for every state and operands that meet the premises): snapshotLatch,
shiftOutComplete, bwWindowEnd. -/
def Obligations.InstrumentsComplete : Prop :=
  ∀ (s : State),
    (s.rd .SNAP_CFG_SRC 0 = 0 → s.h .sched 0 ≤ 4 → s.pos ≤ s.cycW 257 → ∀ t, exec (.snapshotLatch 0 t) s =
      .next (((s.schedTo 4).goTo ((s.schedTo 4).cycW 257)).latch 0)) ∧
    (s.rd .SNAP_CFG_SRC 0 = 0 → 4 < s.h .sched 0 → ∀ t, exec (.snapshotLatch 0 t) s = .next s) ∧
    (s.rd .SNAP_CFG_SRC 0 = 1 → ∀ t, exec (.snapshotLatch 1 t) s = .next ((s.goTo (s.rd .SNAP_CFG_MARK 0 * s.len / 8)).latch 1)) ∧
    (s.h .snapDue 0 ≠ 0 → ∀ t, exec (.snapshotLatch 3 t) s =
      .next (((s.goTo (s.h .snapDue 0 - 1 - s.turn0)).latch 3).setH .snapDue 0 0)) ∧
    (s.rd .SNAP_STAT_BUSY 0 = 1 → exec .shiftOutComplete s = .next ((s.wr .SNAP_STAT_BUSY 0 0).wr .SNAP_STAT_VALID 0 1)) ∧
    (∀ port rx tx, port < 2 → s.h .bwFrom port ≠ 0 →
      let w := 2 ^ s.rd .PT_BW_CFG_WIN_LOG2 port
      s.h .bwFrom port + w ≤ s.now / w * w → ∃ t, exec (.bwWindowEnd port rx tx) s = .next t ∧
        t.rd .PT_BW_RX_BYTES port = rx % 2 ^ Fld.width .PT_BW_RX_BYTES ∧ t.rd .PT_BW_TX_BYTES port = tx % 2 ^ Fld.width .PT_BW_TX_BYTES ∧
        t.rd .PT_BW_RX_RATE port = (rx * 1000 / w) % 2 ^ Fld.width .PT_BW_RX_RATE)

/-- A lockstep mismatch of the active pair with the spare in service hands over to the spare and shows FAILOVER; without a spare it begins a module
reset for the MC; a pair that passes its retest is the spare; the MC watchdog ends every SPDM session; a unit that fails its self-test a second
window running leaves at the turn end; MOD_RST_N begins a module reset; the end of the quiesce drops every operation, shows the cause and stops
every ring, and while MOD_RST_N is low the planes stay in reset until it is released.
Completes (exec answers next with the command's own effect, for every state and operands that meet the premises): lockstepMismatch, cpPairRetest,
mcWatchdog, unitSelfTest, modRstN, quiesceEnd, modRstNRelease. -/
def Obligations.TheModuleRecovers : Prop :=
  ∀ (s : State),
    (s.rd .FW_STATE_CP_PAIR 0 = 0 → s.h .cpUp 0 = 3 → ∃ t, exec .lockstepMismatch s = .next t ∧ t.h .cpUp 0 = 2 ∧
      t.rd .FW_STATE_CP_PAIR 0 = 1 ∧ t.rd .RES_STAT_CP_SPARE 0 = 0 ∧ t.rd .RES_STAT_FAILOVER 0 = 1 ∧ t.h .quiesce 0 = s.h .quiesce 0) ∧
    (s.rd .FW_STATE_CP_PAIR 0 = 0 → s.h .cpUp 0 = 1 → s.h .quiesce 0 = 0 → ∃ t, exec .lockstepMismatch s = .next t ∧ t.h .quiesce 0 = 5 ∧
      ∀ q < s.nQ, t.h .halted q = 1) ∧
    (s.rd .FW_STATE_CP_PAIR 0 = 0 → s.h .cpUp 0 = 1 → ∃ t, exec (.cpPairRetest true) s = .next t ∧ t.h .cpUp 0 = 3 ∧
      t.rd .RES_STAT_CP_SPARE 0 = 1) ∧
    (∃ t, exec .mcWatchdog s = .next t ∧ ∀ i < 3, t.h .spdm i = 0) ∧
    (∀ cls u i, s.unitExists cls u i = true → s.unitIsOut cls u i = false → u < 16 → i < 64 →
      s.h .testBad ((cls * 16 + u) * 64 + i) = 1 → s.leaving = [] →
      ∃ t, exec (.unitSelfTest [(cls, u, i)]) s = .next t ∧ t.leaving = [(cls, u, i)] ∧ t.h .testBad ((cls * 16 + u) * 64 + i) = 1) ∧
    (s.h .sweepAt 0 = 0 → s.h .planes 0 = 1 → s.h .quiesce 0 = 0 → ∃ t, exec .modRstN s = .next t ∧ t.h .quiesce 0 = 3 ∧ t.h .rstHeld 0 = 1 ∧
      ∀ q < s.nQ, t.h .halted q = 1) ∧
    (∀ p0 p1, s.h .quiesce 0 ≠ 0 → s.h .rstHeld 0 = 1 → ∃ t, exec (.quiesceEnd p0 p1) s = .next t ∧ t.h .planes 0 = 0 ∧ t.ops = [] ∧
      t.rd .RES_STAT_LAST_RESET 0 = (s.h .quiesce 0 - 1) % 4 ∧ t.h .quiesce 0 = 0 ∧
      (∀ p < 14, t.rd .MB_SQ_CFG_EN p = 0 ∧ t.rd .MB_STAT_HANDSHAKE p = 0) ∧ t.rd .RES_STAT_LEVEL 0 = 0) ∧
    (s.h .rstPairs 0 = 0 → exec .modRstNRelease s = .next (s.setH .rstHeld 0 0)) ∧
    (s.h .rstPairs 0 ≠ 0 → exec .modRstNRelease s = .next ((s.setH .rstHeld 0 0).planesUp
      (bitsOf (s.h .rstPairs 0 - 1) 0 1 == 1) (bitsOf (s.h .rstPairs 0 - 1) 1 1 == 1)))

/-- Every TAP instruction first shows the instruction capture, 5 when the debug port is open and 1 when it is not, then its data register; one whose
condition does not hold selects BYPASS and shows one zero bit. IDCODE, DBG_STATE and UNLOCK_NONCE show their registers to anyone, SAMPLE/PRELOAD
and BYPASS are always there, EXTEST, CLAMP and HIGHZ only while the planes are in their power reset, MC_DEBUG, CP_DEBUG, REG_ACCESS and
MEM_ACCESS only under their bit of SCOPE; UNLOCK_LOAD submits its token to MFW that runs. DEBUG_ERASURE, once the halt and the scan are over,
opens the port with no quarter's key left. An attestation request that needs no session is answered, in the
model's form of DSP0274's messages (log entry 58, PRESUMED).
Completes (exec answers next with the command's own effect, for every state and operands that meet the premises): spdmRequest, extest,
samplePreload, idcode, clamp, highz, dbgState, unlockNonce, unlockLoad, debugErasure, regAccess, memAccess, mcDebug, cpDebug, bypass. -/
def Obligations.TheDebugPortShowsWhatItMay : Prop :=
  ∀ (s : State),
    let ir := toBytes (if s.rd .SEC_STAT_DBG_OPEN 0 = 1 then 5 else 1) 1
    let shows := fun (op : Nat) (d : List Byte) => { s.setH .tapIr 0 op with reply := ⟨0, ir ++ d⟩ }
    exec .idcode s = .next (shows 0x02 (toBytes (if s.lt09 then 0x14C0A56B else 0x14C1256B) 4)) ∧
    exec .bypass s = .next (shows 0xFF [0#8]) ∧ exec .samplePreload s = .next (shows 0x01 []) ∧
    exec .dbgState s = .next (shows 0x10 (toBytes (s.regVal .SEC_STAT 0 / 2 ^ 32) 4)) ∧
    exec .unlockNonce s = .next (shows 0x11 (toBytes s.nonceNow 32)) ∧
    (s.h .planes 0 = 0 → exec .extest s = .next (shows 0x00 []) ∧ exec .clamp s = .next (shows 0x03 [0#8]) ∧
      exec .highz s = .next (shows 0x04 [0#8])) ∧
    (s.h .planes 0 ≠ 0 → exec .extest s = .next (shows 0xFF [0#8]) ∧ exec .clamp s = .next (shows 0xFF [0#8]) ∧
      exec .highz s = .next (shows 0xFF [0#8])) ∧
    exec .mcDebug s = .next (if bitsOf (s.rd .SEC_STAT_SCOPE 0) 0 1 = 1 then shows 0x22 [] else shows 0xFF [0#8]) ∧
    exec .cpDebug s = .next (if bitsOf (s.rd .SEC_STAT_SCOPE 0) 1 1 = 1 then shows 0x23 [] else shows 0xFF [0#8]) ∧
    (∀ dr : BitVec 96, (bitsOf (s.rd .SEC_STAT_SCOPE 0) 2 1 = 0 → exec (.regAccess dr) s = .next (shows 0xFF [0#8])) ∧
      (bitsOf (s.rd .SEC_STAT_SCOPE 0) 2 1 = 1 → bitsOf dr.toNat 26 1 = 1 → exec (.regAccess dr) s = .next
        { (s.setH .tapIr 0 0x20).agentWrite .mc (bitsOf dr.toNat 0 26) (bitsOf dr.toNat 32 64) with reply := ⟨0, ir⟩ })) ∧
    (∀ dr : BitVec 576, (bitsOf (s.rd .SEC_STAT_SCOPE 0) 3 1 = 0 → exec (.memAccess dr) s = .next (shows 0xFF [0#8])) ∧
      (bitsOf (s.rd .SEC_STAT_SCOPE 0) 3 1 = 1 → s.pos < s.cycW 0 → exec (.memAccess dr) s =
        .next ((s.setH .tapIr 0 0x21).tapLine dr.toNat)) ∧
      (bitsOf (s.rd .SEC_STAT_SCOPE 0) 3 1 = 1 → s.cycW 0 ≤ s.pos → exec (.memAccess dr) s =
        .next { s.setH .tapIr 0 0x21 with heldTap := s.heldTap ++ [dr.toNat] })) ∧
    (∀ obj, s.h .mfwUp 0 = 1 → exec (.unlockLoad obj) s =
      .next { ((s.setH .tapIr 0 0x12).tryUnlock obj.bytes).1 with reply := ⟨0, ir⟩ }) ∧
    (let u := s.goTo (s.cycW 2560);
      u.rd .SEC_STAT_ERASE_PEND 0 = 1 → u.h .eraseReady 0 ≠ 0 → u.h .eraseReady 0 ≤ u.now + 1 → u.late = [] →
      ∃ t, exec .debugErasure s = .next t ∧ t.rd .SEC_STAT_DBG_OPEN 0 = 1 ∧ t.rd .SEC_STAT_ERASE_PEND 0 = 0 ∧
        ∀ q < s.nQ, t.h .keyNum q = 0 ∧ t.rd .MEM_ENC_STAT_KEY q = 2) ∧
    (s.h .mfwUp 0 = 1 → exec (.spdmRequest 2 .getVersion) s = .next { s with reply := ⟨0, toBytes 0x0410 2 ++ toBytes 0 2 ++ toBytes 0x0100 2 ++ toBytes 0x1300 2⟩ })

/-- POWER_ON_RESET starts MFW from the selected slot when it is authentic, and from the other with MFW_FALLBACK when it alone is; POWER_UP under MFW
brings the planes up; each of the five causes begins the sweep where none runs: every quarter stops, PDOWN_CAUSE names the cause and a thermal or
flow trip also shows TRIP, and a temperature below both trip points does nothing; the ports go idle; at the end the module is in a PWR reset with
PDOWN_LAST set, its keys gone, and stays off until the input has been good for long enough; an authentic image is taken into an MFW slot, and
another is refused.
Completes (exec answers next with the command's own effect, for every state and operands that meet the premises): powerOnReset, powerUp,
inputUndervoltage, pwrWarn, auxSupplyLoss, thermalTrip, flowTrip, powerDownPortIdle, powerDownOff, repower, pldmFirmwareUpdate. -/
def Obligations.PowerIsSequenced : Prop :=
  ∀ (s : State),
    (∃ t, exec .powerOnReset s = .next t ∧ t.h .planes 0 = 0 ∧ t.ops = [] ∧ t.mem = [] ∧ (∀ q, t.h .keyNum q = 0) ∧
      (t.h .mfwUp 0 = 1 ∨ t.h .romRec 0 = 1)) ∧
    (∀ p0 p1, s.h .mfwUp 0 = 1 → s.h .planes 0 = 0 → s.h .rstPairs 0 = 0 → s.h .rstHeld 0 = 0 → s.h .offHold 0 = 0 → s.h .auxLost 0 = 0 →
      exec (.powerUp p0 p1) s = .next (s.startPlanes p0 p1)) ∧
    (s.h .sweepAt 0 = 0 → s.h .planes 0 = 1 → ∀ c cause, (c, cause) ∈ [(Instr.inputUndervoltage, 1), (.pwrWarn, 2), (.auxSupplyLoss, 3),
        (.thermalTrip 105 0, 4), (.thermalTrip 0 100, 4), (.flowTrip, 5)] →
      ∃ t, exec c s = .next t ∧ t.h .sweepAt 0 = 1 + s.now ∧ t.rd .PWR_STAT_PDOWN_CAUSE 0 = cause ∧ (∀ q < s.nQ, t.h .halted q = 1) ∧
        (4 ≤ cause → t.rd .PWR_STAT_TRIP 0 = 1 ∧ t.h .thermTrip 0 = 1) ∧ t.rd .FW_STATE_SWAP_PEND 0 = 0) ∧
    (∀ die base, die < 105 → base < 100 → exec (.thermalTrip die base) s = .next s) ∧
    (s.h .sweepAt 0 ≠ 0 → s.h .sweepIdle 0 = 0 → ∃ t, exec .powerDownPortIdle s = .next t ∧ t.h .sweepIdle 0 = 1 ∧
      t.rd .PT_LINK_STAT_UP 0 = 0 ∧ t.rd .PT_LINK_STAT_UP 1 = 0 ∧ t.direct = []) ∧
    (s.h .sweepAt 0 ≠ 0 → ∃ t, exec .powerDownOff s = .next t ∧ t.h .offHold 0 = 1 ∧ t.rd .PWR_STAT_PDOWN_LAST 0 = 1 ∧
      t.h .planes 0 = 0 ∧ t.ops = [] ∧ t.mem = [] ∧ (∀ q, t.h .keyNum q = 0) ∧ t.rd .RES_STAT_LAST_RESET 0 = 1) ∧
    (∀ ms vin, s.h .offHold 0 = 1 → s.h .auxLost 0 = 0 → 100 ≤ ms → 4100 ≤ vin →
      exec (.repower ms vin) s = .next (s.setH .offHold 0 0)) ∧
    (∀ ms vin, ms < 100 ∨ vin < 4100 → exec (.repower ms vin) s = .next s) ∧
    (∀ slot obj, slot < 2 → s.h .selStaged 1 ≠ slot + 1 → exec (.pldmFirmwareUpdate slot obj) s = .next
      (if s.authentic 1 obj.bytes then { s.setObj (objMfw + slot) obj.bytes with reply := ⟨0, []⟩ } else { s with reply := ⟨1, []⟩ }))

/-- After reset the module is an LT1200 (the model's choice, log entry 1) at cycle 0 of its first turn of 2^20 cycles, TURN_COUNT 0, with a budget of
65,536 tokens; memory lists nothing, no operation, request or translation is held, no command waits, and no register of the tables below differs
from its reset value. -/
def Obligations.WhatResetLeaves : Prop :=
  State.reset.lt09 = false ∧ State.reset.now = 0 ∧ State.reset.turn0 = 0 ∧ State.reset.pos = 0 ∧ State.reset.len = 2 ^ 20 ∧
    State.reset.rd .TURN_COUNT_COUNT 0 = 0 ∧ State.reset.rd .TOK_BUDGET_CUR 0 = 65536 ∧ State.reset.nQ = 12 ∧ State.reset.mem = [] ∧
    State.reset.hostMem = [] ∧ State.reset.ops = [] ∧ State.reset.reqs = [] ∧ State.reset.tlb = [] ∧ State.reset.pending = [] ∧
    ∀ (f : Fld) (i : Nat), State.reset.rd f i = f.resetVal false
end

