-- ==== Sys2Proof/Laws/Bank.lean ====
section
/-! SUPPORT. A bank command up to its retirement changes no engine, no register and no hidden scalar: its units write memory, poison and key tags alone. -/

namespace Sys2Proof.Machine

namespace State

/-- A part of the state that no write of bytes, poison or key tags touches. -/
structure Inert {α : Type} (f : State → α) : Prop where
  byte : ∀ (s : State) (t u a : Nat) (b : Byte), f (s.setByte t u a b) = f s
  pois : ∀ (s : State) (t u a v : Nat), f (s.setPoison t u a v) = f s
  tags : ∀ (s : State) (e : Tab Nat), f { s with encTag := e } = f s

theorem ite_st {α : Type} {f : State → α} {x : α} {a b : BankOut} {c : Prop} [Decidable c] (ha : f a.st = x) (hb : f b.st = x) :
    f (if c then a else b).st = x := by
  split
  · exact ha
  · exact hb

theorem inert_engines : Inert State.engines :=
  ⟨fun s t u a b => by unfold setByte; split <;> rfl, fun s t u a v => by unfold setPoison; split <;> rfl, fun _ _ => rfl⟩

theorem inert_regs : Inert State.regs :=
  ⟨fun s t u a b => by unfold setByte; split <;> rfl, fun s t u a v => by unfold setPoison; split <;> rfl, fun _ _ => rfl⟩

theorem inert_hid : Inert State.hid :=
  ⟨fun s t u a b => by unfold setByte; split <;> rfl, fun s t u a v => by unfold setPoison; split <;> rfl, fun _ _ => rfl⟩

theorem inert_now : Inert State.now :=
  ⟨fun s t u a b => by unfold setByte; split <;> rfl, fun s t u a v => by unfold setPoison; split <;> rfl, fun _ _ => rfl⟩

section

variable {α : Type} {f : State → α} (hf : Inert f)
include hf

theorem setBytes_fixes (s : State) (t u a : Nat) (d : List Byte) : f (s.setBytes t u a d) = f s := by
  induction d generalizing s a with
  | nil => rfl
  | cons b d ih =>
    unfold setBytes
    rw [ih, hf.byte]

theorem eaPut_fixes (s : State) (k p ea : Nat) (d : List Byte) : f (s.eaPut k p ea d) = f s := by
  have h1 : ∀ (c : Prop) [Decidable c] (x : State), f x = f s → f (if c then s else x) = f s := fun c _ x hx => by split <;> simp_all
  unfold eaPut
  simp only
  split
  · rw [hf.pois, setBytes_fixes hf]
    exact h1 _ _ (by rw [hf.tags, setBytes_fixes hf])
  · rw [setBytes_fixes hf]
    exact h1 _ _ (by rw [hf.tags, setBytes_fixes hf])

theorem eaWrite_fixes (s : State) (k p ea n v : Nat) : f (s.eaWrite k p ea n v) = f s := by
  unfold eaWrite
  generalize eaPieces ea n = l
  induction l generalizing s with
  | nil => rfl
  | cons x l ih => rw [List.foldl_cons, ih, eaPut_fixes hf]

omit hf in
@[simp] theorem bankReads_st (o : BankOut) (k p : Nat) (rs : List (Nat × Nat)) : (bankReads o k p rs).1.st = o.st := rfl

theorem gemvStore_fixes (o : BankOut) (k p d g t : Nat) : f (gemvStore o k p d g t).st = f o.st := by
  unfold gemvStore
  exact ite_st rfl (eaWrite_fixes hf _ _ _ _ _ _)

omit hf in
@[simp] theorem gemvBlock_st (o : BankOut) (k p d g kb : Nat) : (gemvBlock o k p d g kb).st = o.st := rfl

omit hf in
@[simp] theorem gemvStep_st (o : BankOut) (k p d g r : Nat) : (gemvStep o k p d g r).st = o.st := by
  have hb : (if r % 32 = 0 then gemvBlock o k p d g (r / 32) else o).st = o.st := ite_st (f := id) (gemvBlock_st _ _ _ _ _ _) rfl
  unfold gemvStep
  exact ite_st (f := id) hb (ite_st (f := id) hb hb)

theorem gemvUnit_fixes (o : BankOut) (k p d n : Nat) : f (gemvUnit o k p d n).st = f o.st := by
  unfold gemvUnit
  exact ite_st (by rw [gemvStep_st]) (gemvStore_fixes hf _ _ _ _ _ _)

theorem outerUnit_fixes (o : BankOut) (k p d n : Nat) : f (outerUnit o k p d n).st = f o.st := by
  unfold outerUnit
  exact ite_st rfl (eaWrite_fixes hf _ _ _ _ _ _)

omit hf in
@[simp] theorem rowaddIndex_st (o : BankOut) (k p d i : Nat) : (rowaddIndex o k p d i).st = o.st := by
  rw [rowaddIndex]
  generalize o.st.eaLimit k = lim
  simp only [apply_ite BankOut.st, bankReads_st, ite_self]

theorem rowaddUnit_fixes (o : BankOut) (k p d n : Nat) : f (rowaddUnit o k p d n).st = f o.st := by
  have hi : f (if n % cdiv (bkDimA d) 32 = 0 then rowaddIndex o k p d (n / cdiv (bkDimA d) 32) else o).st = f o.st :=
    ite_st (by rw [rowaddIndex_st]) rfl
  unfold rowaddUnit
  exact ite_st hi (ite_st hi ((eaWrite_fixes hf _ _ _ _ _ _).trans hi))

/-- A unit of a command. -/
theorem burstUnit_fixes (o : BankOut) (k p d n : Nat) : f (burstUnit o k p d n).st = f o.st := by
  unfold burstUnit
  split
  · exact gemvUnit_fixes hf o k p d n
  · exact outerUnit_fixes hf o k p d n
  · exact rowaddUnit_fixes hf o k p d n
  · rfl

theorem runUnits_fixes (s : State) (k p d n : Nat) : f (s.runUnits k p d n).st = f s := by
  have key : ∀ (l : List Nat) (o : BankOut) (e : Nat),
      f (l.foldl (fun (o : BankOut) (i : Nat) => if o.status ≠ bkDone then o else burstUnit o k p d (e + i)) o).st = f o.st := by
    intro l
    induction l with
    | nil => exact fun _ _ => rfl
    | cons x l ih =>
      intro o e
      rw [List.foldl_cons, ih]
      exact ite_st rfl (burstUnit_fixes hf _ _ _ _ _)
  exact key _ _ _

end

@[simp] theorem runUnits_engines (s : State) (k p d n : Nat) : (s.runUnits k p d n).st.engines = s.engines := runUnits_fixes inert_engines s k p d n
@[simp] theorem runUnits_regs (s : State) (k p d n : Nat) : (s.runUnits k p d n).st.regs = s.regs := runUnits_fixes inert_regs s k p d n
@[simp] theorem runUnits_hid (s : State) (k p d n : Nat) : (s.runUnits k p d n).st.hid = s.hid := runUnits_fixes inert_hid s k p d n
@[simp] theorem runUnits_now (s : State) (k p d n : Nat) : (s.runUnits k p d n).st.now = s.now := runUnits_fixes inert_now s k p d n

end State

end Sys2Proof.Machine
end

