-- ==== Sys2Proof/Laws/Tab.lean ====
section
/-! SUPPORT. Laws of sparse tables: a read after a write, and the canonical form. -/

namespace Sys2Proof.Machine

section Reads

variable {α : Type} (d : α)

@[simp] theorem Tab.get_insert_same (k : Nat) (v : α) (t : Tab α) : Tab.get d k (Tab.insert k v t) = v := by
  induction t with
  | nil => simp [Tab.insert, Tab.get]
  | cons e t ih =>
    obtain ⟨k', v'⟩ := e
    unfold Tab.insert
    split
    · simp [Tab.get]
    · split
      · simp [Tab.get]
      · rename_i _ h
        simp [Tab.get, h, ih]

theorem Tab.get_insert_other {k j : Nat} (v : α) (t : Tab α) (h : j ≠ k) : Tab.get d j (Tab.insert k v t) = Tab.get d j t := by
  induction t with
  | nil => simp [Tab.insert, Tab.get, h]
  | cons e t ih =>
    obtain ⟨k', v'⟩ := e
    unfold Tab.insert
    split
    · simp [Tab.get, h]
    · split
      · rename_i _ hk
        subst hk
        simp [Tab.get, h]
      · simp [Tab.get, ih]

@[simp] theorem Tab.get_erase_same (k : Nat) (t : Tab α) : Tab.get d k (Tab.erase k t) = d := by
  induction t with
  | nil => simp [Tab.erase, Tab.get]
  | cons e t ih =>
    obtain ⟨k', v'⟩ := e
    unfold Tab.erase
    split
    · exact ih
    · rename_i h
      simp [Tab.get, h, ih]

theorem Tab.get_erase_other {k j : Nat} (t : Tab α) (h : j ≠ k) : Tab.get d j (Tab.erase k t) = Tab.get d j t := by
  induction t with
  | nil => simp [Tab.erase, Tab.get]
  | cons e t ih =>
    obtain ⟨k', v'⟩ := e
    unfold Tab.erase
    split
    · rename_i hk
      subst hk
      simp [Tab.get, h, ih]
    · simp [Tab.get, ih]

@[simp] theorem Tab.get_set_same [DecidableEq α] (k : Nat) (v : α) (t : Tab α) : Tab.get d k (Tab.set d k v t) = v := by
  unfold Tab.set
  split
  · rename_i h
    simp [h]
  · simp

theorem Tab.get_set_other [DecidableEq α] {k j : Nat} (d' v : α) (t : Tab α) (h : j ≠ k) :
    Tab.get d j (Tab.set d' k v t) = Tab.get d j t := by
  unfold Tab.set
  split
  · exact Tab.get_erase_other d t h
  · exact Tab.get_insert_other d v t h

theorem Tab.get_keep (p : Nat → Bool) (k : Nat) (t : Tab α) : Tab.get d k (Tab.keep p t) = if p k then Tab.get d k t else d := by
  induction t with
  | nil => simp [Tab.keep, Tab.get]
  | cons e t ih =>
    obtain ⟨k', v'⟩ := e
    simp only [Tab.keep, List.filter_cons] at ih ⊢
    by_cases hp : p k' = true
    · simp only [hp, if_true, Tab.get]
      by_cases hk : k = k'
      · subst hk
        simp [hp]
      · simp [hk, ih]
    · simp only [hp, Tab.get]
      by_cases hk : k = k'
      · subst hk
        simp only [Bool.false_eq_true, if_false, ih]
        simp [hp]
      · simp [hk, ih]

end Reads

section Canonical

variable {α : Type} [DecidableEq α] (d : α)

theorem Tab.wf_iff (t : Tab α) : Tab.wf d t = true ↔ (t.map (fun e => e.1)).Pairwise (fun a b => a < b) ∧ ∀ e ∈ t, e.2 ≠ d := by
  induction t with
  | nil => simp [Tab.wf]
  | cons e t ih =>
    obtain ⟨k, v⟩ := e
    cases t with
    | nil => simp [Tab.wf]
    | cons e' t' =>
      obtain ⟨k', v'⟩ := e'
      simp only [Tab.wf, Bool.and_eq_true, decide_eq_true_eq, ih, List.map_cons, List.pairwise_cons, List.mem_cons, List.mem_map]
      constructor
      · rintro ⟨⟨hv, hk⟩, ⟨h1, h2⟩, h3⟩
        refine ⟨⟨?_, h1, h2⟩, ?_⟩
        · rintro a (rfl | h)
          · exact hk
          · exact Nat.lt_trans hk (h1 a h)
        · rintro e (rfl | h)
          · exact hv
          · exact h3 e h
      · rintro ⟨⟨h0, h1, h2⟩, h3⟩
        exact ⟨⟨h3 (k, v) (Or.inl rfl), h0 k' (Or.inl rfl)⟩, ⟨h1, h2⟩, fun e h => h3 e (Or.inr h)⟩

theorem Tab.mem_insert {k : Nat} {v : α} {t : Tab α} {e : Nat × α} (h : e ∈ Tab.insert k v t) : e = (k, v) ∨ e ∈ t := by
  induction t with
  | nil => simpa [Tab.insert] using h
  | cons e' t ih =>
    obtain ⟨k', v'⟩ := e'
    unfold Tab.insert at h
    split at h
    · simpa using h
    · split at h
      · simp only [List.mem_cons] at h ⊢
        tauto
      · simp only [List.mem_cons] at h ⊢
        rcases h with h | h
        · tauto
        · have := ih h
          tauto

theorem Tab.wf_insert {k : Nat} {v : α} {t : Tab α} (hv : v ≠ d) (h : Tab.wf d t = true) : Tab.wf d (Tab.insert k v t) = true := by
  rw [Tab.wf_iff] at h ⊢
  induction t with
  | nil => simpa [Tab.insert] using hv
  | cons e t ih =>
    obtain ⟨k', v'⟩ := e
    obtain ⟨h1, h2⟩ := h
    simp only [List.map_cons, List.pairwise_cons, List.mem_map] at h1
    have ht := ih ⟨h1.2, fun e he => h2 e (List.mem_cons_of_mem _ he)⟩
    unfold Tab.insert
    split
    · rename_i hk
      refine ⟨?_, ?_⟩
      · simp only [List.map_cons, List.pairwise_cons, List.mem_cons, List.mem_map]
        refine ⟨?_, h1⟩
        rintro a (rfl | ⟨e, he, rfl⟩)
        · exact hk
        · exact Nat.lt_trans hk (h1.1 _ ⟨e, he, rfl⟩)
      · intro e he
        rcases List.mem_cons.1 he with rfl | he
        · exact hv
        · exact h2 e he
    · split
      · rename_i _ hk
        subst hk
        refine ⟨?_, ?_⟩
        · simp only [List.map_cons, List.pairwise_cons, List.mem_map]
          exact h1
        · intro e he
          rcases List.mem_cons.1 he with rfl | he
          · exact hv
          · exact h2 e (List.mem_cons_of_mem _ he)
      · rename_i hlt hne
        refine ⟨?_, ?_⟩
        · simp only [List.map_cons, List.pairwise_cons, List.mem_map]
          refine ⟨?_, ht.1⟩
          rintro a ⟨e, he, rfl⟩
          rcases Tab.mem_insert he with rfl | he
          · simp only
            omega
          · exact h1.1 _ ⟨e, he, rfl⟩
        · intro e he
          rcases List.mem_cons.1 he with rfl | he
          · exact h2 _ (List.mem_cons_self ..)
          · exact ht.2 e he

omit [DecidableEq α] in
theorem Tab.erase_sublist (k : Nat) (t : Tab α) : (Tab.erase k t).Sublist t := by
  induction t with
  | nil => simp [Tab.erase]
  | cons e t ih =>
    obtain ⟨k', v'⟩ := e
    unfold Tab.erase
    split
    · exact ih.cons _
    · exact ih.cons_cons _

theorem Tab.wf_sublist {t u : Tab α} (hs : u.Sublist t) (h : Tab.wf d t = true) : Tab.wf d u = true := by
  rw [Tab.wf_iff] at h ⊢
  exact ⟨h.1.sublist (hs.map _), fun e he => h.2 e (hs.subset he)⟩

/-- A write keeps the canonical form. -/
theorem Tab.wf_set {k : Nat} {v : α} {t : Tab α} (h : Tab.wf d t = true) : Tab.wf d (Tab.set d k v t) = true := by
  unfold Tab.set
  split
  · exact Tab.wf_sublist d (Tab.erase_sublist k t) h
  · rename_i hv
    exact Tab.wf_insert d hv h

/-- So does keeping some of the keys. -/
theorem Tab.wf_keep {p : Nat → Bool} {t : Tab α} (h : Tab.wf d t = true) : Tab.wf d (Tab.keep p t) = true :=
  Tab.wf_sublist d List.filter_sublist h

end Canonical

end Sys2Proof.Machine
end

