-- ==== Sys2Proof/Laws/State.lean ====
section
/-! SUPPORT. What a register write and a write of a scalar leave alone, field by field of the state, and reads after writes. -/

namespace Sys2Proof.Machine

namespace State

variable (s : State)

@[simp] theorem wr_pending (f : Fld) (i v : Nat) : (s.wr f i v).pending = s.pending := rfl
@[simp] theorem wr_lt09 (f : Fld) (i v : Nat) : (s.wr f i v).lt09 = s.lt09 := rfl
@[simp] theorem wr_now (f : Fld) (i v : Nat) : (s.wr f i v).now = s.now := rfl
@[simp] theorem wr_turn0 (f : Fld) (i v : Nat) : (s.wr f i v).turn0 = s.turn0 := rfl
@[simp] theorem wr_regs0 (f : Fld) (i v : Nat) : (s.wr f i v).regs0 = s.regs0 := rfl
@[simp] theorem wr_hid (f : Fld) (i v : Nat) : (s.wr f i v).hid = s.hid := rfl
@[simp] theorem wr_mem (f : Fld) (i v : Nat) : (s.wr f i v).mem = s.mem := rfl
@[simp] theorem wr_hostMem (f : Fld) (i v : Nat) : (s.wr f i v).hostMem = s.hostMem := rfl
@[simp] theorem wr_poison (f : Fld) (i v : Nat) : (s.wr f i v).poison = s.poison := rfl
@[simp] theorem wr_encTag (f : Fld) (i v : Nat) : (s.wr f i v).encTag = s.encTag := rfl
@[simp] theorem wr_plaza (f : Fld) (i v : Nat) : (s.wr f i v).plaza = s.plaza := rfl
@[simp] theorem wr_tlb (f : Fld) (i v : Nat) : (s.wr f i v).tlb = s.tlb := rfl
@[simp] theorem wr_stalls (f : Fld) (i v : Nat) : (s.wr f i v).stalls = s.stalls := rfl
@[simp] theorem wr_ops (f : Fld) (i v : Nat) : (s.wr f i v).ops = s.ops := rfl
@[simp] theorem wr_submitQ (f : Fld) (i v : Nat) : (s.wr f i v).submitQ = s.submitQ := rfl
@[simp] theorem wr_resumeQ (f : Fld) (i v : Nat) : (s.wr f i v).resumeQ = s.resumeQ := rfl
@[simp] theorem wr_allocQ (f : Fld) (i v : Nat) : (s.wr f i v).allocQ = s.allocQ := rfl
@[simp] theorem wr_strips (f : Fld) (i v : Nat) : (s.wr f i v).strips = s.strips := rfl
@[simp] theorem wr_fenced (f : Fld) (i v : Nat) : (s.wr f i v).fenced = s.fenced := rfl
@[simp] theorem wr_fences (f : Fld) (i v : Nat) : (s.wr f i v).fences = s.fences := rfl
@[simp] theorem wr_suspects (f : Fld) (i v : Nat) : (s.wr f i v).suspects = s.suspects := rfl
@[simp] theorem wr_repeats (f : Fld) (i v : Nat) : (s.wr f i v).repeats = s.repeats := rfl
@[simp] theorem wr_histNow (f : Fld) (i v : Nat) : (s.wr f i v).histNow = s.histNow := rfl
@[simp] theorem wr_cqWait (f : Fld) (i v : Nat) : (s.wr f i v).cqWait = s.cqWait := rfl
@[simp] theorem wr_urgCmd (f : Fld) (i v : Nat) : (s.wr f i v).urgCmd = s.urgCmd := rfl
@[simp] theorem wr_urgRes (f : Fld) (i v : Nat) : (s.wr f i v).urgRes = s.urgRes := rfl
@[simp] theorem wr_late (f : Fld) (i v : Nat) : (s.wr f i v).late = s.late := rfl
@[simp] theorem wr_mcRing (f : Fld) (i v : Nat) : (s.wr f i v).mcRing = s.mcRing := rfl
@[simp] theorem wr_outbox (f : Fld) (i v : Nat) : (s.wr f i v).outbox = s.outbox := rfl
@[simp] theorem wr_reply (f : Fld) (i v : Nat) : (s.wr f i v).reply = s.reply := rfl
@[simp] theorem wr_due (f : Fld) (i v : Nat) : (s.wr f i v).due = s.due := rfl
@[simp] theorem wr_codebooks (f : Fld) (i v : Nat) : (s.wr f i v).codebooks = s.codebooks := rfl
@[simp] theorem wr_packStalls (f : Fld) (i v : Nat) : (s.wr f i v).packStalls = s.packStalls := rfl
@[simp] theorem wr_claims (f : Fld) (i v : Nat) : (s.wr f i v).claims = s.claims := rfl
@[simp] theorem wr_reqs (f : Fld) (i v : Nat) : (s.wr f i v).reqs = s.reqs := rfl
@[simp] theorem wr_engines (f : Fld) (i v : Nat) : (s.wr f i v).engines = s.engines := rfl
@[simp] theorem wr_memQ (f : Fld) (i v : Nat) : (s.wr f i v).memQ = s.memQ := rfl
@[simp] theorem wr_openRow (f : Fld) (i v : Nat) : (s.wr f i v).openRow = s.openRow := rfl
@[simp] theorem wr_ueTurns (f : Fld) (i v : Nat) : (s.wr f i v).ueTurns = s.ueTurns := rfl
@[simp] theorem wr_idFrames (f : Fld) (i v : Nat) : (s.wr f i v).idFrames = s.idFrames := rfl
@[simp] theorem wr_repairs (f : Fld) (i v : Nat) : (s.wr f i v).repairs = s.repairs := rfl
@[simp] theorem wr_uuSlots (f : Fld) (i v : Nat) : (s.wr f i v).uuSlots = s.uuSlots := rfl
@[simp] theorem wr_snap (f : Fld) (i v : Nat) : (s.wr f i v).snap = s.snap := rfl
@[simp] theorem wr_routes (f : Fld) (i v : Nat) : (s.wr f i v).routes = s.routes := rfl
@[simp] theorem wr_feTx (f : Fld) (i v : Nat) : (s.wr f i v).feTx = s.feTx := rfl
@[simp] theorem wr_feRx (f : Fld) (i v : Nat) : (s.wr f i v).feRx = s.feRx := rfl
@[simp] theorem wr_feHeld (f : Fld) (i v : Nat) : (s.wr f i v).feHeld = s.feHeld := rfl
@[simp] theorem wr_objs (f : Fld) (i v : Nat) : (s.wr f i v).objs = s.objs := rfl
@[simp] theorem wr_balDue (f : Fld) (i v : Nat) : (s.wr f i v).balDue = s.balDue := rfl
@[simp] theorem wr_leaving (f : Fld) (i v : Nat) : (s.wr f i v).leaving = s.leaving := rfl
@[simp] theorem wr_heldReqs (f : Fld) (i v : Nat) : (s.wr f i v).heldReqs = s.heldReqs := rfl
@[simp] theorem wr_heldCores (f : Fld) (i v : Nat) : (s.wr f i v).heldCores = s.heldCores := rfl
@[simp] theorem wr_direct (f : Fld) (i v : Nat) : (s.wr f i v).direct = s.direct := rfl
@[simp] theorem wr_l2 (f : Fld) (i v : Nat) : (s.wr f i v).l2 = s.l2 := rfl
@[simp] theorem wr_heldTap (f : Fld) (i v : Nat) : (s.wr f i v).heldTap = s.heldTap := rfl

@[simp] theorem setH_pending (x : Hid) (i v : Nat) : (s.setH x i v).pending = s.pending := rfl
@[simp] theorem setH_lt09 (x : Hid) (i v : Nat) : (s.setH x i v).lt09 = s.lt09 := rfl
@[simp] theorem setH_now (x : Hid) (i v : Nat) : (s.setH x i v).now = s.now := rfl
@[simp] theorem setH_turn0 (x : Hid) (i v : Nat) : (s.setH x i v).turn0 = s.turn0 := rfl
@[simp] theorem setH_regs (x : Hid) (i v : Nat) : (s.setH x i v).regs = s.regs := rfl
@[simp] theorem setH_regs0 (x : Hid) (i v : Nat) : (s.setH x i v).regs0 = s.regs0 := rfl
@[simp] theorem setH_mem (x : Hid) (i v : Nat) : (s.setH x i v).mem = s.mem := rfl
@[simp] theorem setH_hostMem (x : Hid) (i v : Nat) : (s.setH x i v).hostMem = s.hostMem := rfl
@[simp] theorem setH_poison (x : Hid) (i v : Nat) : (s.setH x i v).poison = s.poison := rfl
@[simp] theorem setH_encTag (x : Hid) (i v : Nat) : (s.setH x i v).encTag = s.encTag := rfl
@[simp] theorem setH_plaza (x : Hid) (i v : Nat) : (s.setH x i v).plaza = s.plaza := rfl
@[simp] theorem setH_tlb (x : Hid) (i v : Nat) : (s.setH x i v).tlb = s.tlb := rfl
@[simp] theorem setH_stalls (x : Hid) (i v : Nat) : (s.setH x i v).stalls = s.stalls := rfl
@[simp] theorem setH_ops (x : Hid) (i v : Nat) : (s.setH x i v).ops = s.ops := rfl
@[simp] theorem setH_submitQ (x : Hid) (i v : Nat) : (s.setH x i v).submitQ = s.submitQ := rfl
@[simp] theorem setH_resumeQ (x : Hid) (i v : Nat) : (s.setH x i v).resumeQ = s.resumeQ := rfl
@[simp] theorem setH_allocQ (x : Hid) (i v : Nat) : (s.setH x i v).allocQ = s.allocQ := rfl
@[simp] theorem setH_strips (x : Hid) (i v : Nat) : (s.setH x i v).strips = s.strips := rfl
@[simp] theorem setH_fenced (x : Hid) (i v : Nat) : (s.setH x i v).fenced = s.fenced := rfl
@[simp] theorem setH_fences (x : Hid) (i v : Nat) : (s.setH x i v).fences = s.fences := rfl
@[simp] theorem setH_suspects (x : Hid) (i v : Nat) : (s.setH x i v).suspects = s.suspects := rfl
@[simp] theorem setH_repeats (x : Hid) (i v : Nat) : (s.setH x i v).repeats = s.repeats := rfl
@[simp] theorem setH_histNow (x : Hid) (i v : Nat) : (s.setH x i v).histNow = s.histNow := rfl
@[simp] theorem setH_cqWait (x : Hid) (i v : Nat) : (s.setH x i v).cqWait = s.cqWait := rfl
@[simp] theorem setH_urgCmd (x : Hid) (i v : Nat) : (s.setH x i v).urgCmd = s.urgCmd := rfl
@[simp] theorem setH_urgRes (x : Hid) (i v : Nat) : (s.setH x i v).urgRes = s.urgRes := rfl
@[simp] theorem setH_late (x : Hid) (i v : Nat) : (s.setH x i v).late = s.late := rfl
@[simp] theorem setH_mcRing (x : Hid) (i v : Nat) : (s.setH x i v).mcRing = s.mcRing := rfl
@[simp] theorem setH_outbox (x : Hid) (i v : Nat) : (s.setH x i v).outbox = s.outbox := rfl
@[simp] theorem setH_reply (x : Hid) (i v : Nat) : (s.setH x i v).reply = s.reply := rfl
@[simp] theorem setH_due (x : Hid) (i v : Nat) : (s.setH x i v).due = s.due := rfl
@[simp] theorem setH_codebooks (x : Hid) (i v : Nat) : (s.setH x i v).codebooks = s.codebooks := rfl
@[simp] theorem setH_packStalls (x : Hid) (i v : Nat) : (s.setH x i v).packStalls = s.packStalls := rfl
@[simp] theorem setH_claims (x : Hid) (i v : Nat) : (s.setH x i v).claims = s.claims := rfl
@[simp] theorem setH_reqs (x : Hid) (i v : Nat) : (s.setH x i v).reqs = s.reqs := rfl
@[simp] theorem setH_engines (x : Hid) (i v : Nat) : (s.setH x i v).engines = s.engines := rfl
@[simp] theorem setH_memQ (x : Hid) (i v : Nat) : (s.setH x i v).memQ = s.memQ := rfl
@[simp] theorem setH_openRow (x : Hid) (i v : Nat) : (s.setH x i v).openRow = s.openRow := rfl
@[simp] theorem setH_ueTurns (x : Hid) (i v : Nat) : (s.setH x i v).ueTurns = s.ueTurns := rfl
@[simp] theorem setH_idFrames (x : Hid) (i v : Nat) : (s.setH x i v).idFrames = s.idFrames := rfl
@[simp] theorem setH_repairs (x : Hid) (i v : Nat) : (s.setH x i v).repairs = s.repairs := rfl
@[simp] theorem setH_uuSlots (x : Hid) (i v : Nat) : (s.setH x i v).uuSlots = s.uuSlots := rfl
@[simp] theorem setH_snap (x : Hid) (i v : Nat) : (s.setH x i v).snap = s.snap := rfl
@[simp] theorem setH_routes (x : Hid) (i v : Nat) : (s.setH x i v).routes = s.routes := rfl
@[simp] theorem setH_feTx (x : Hid) (i v : Nat) : (s.setH x i v).feTx = s.feTx := rfl
@[simp] theorem setH_feRx (x : Hid) (i v : Nat) : (s.setH x i v).feRx = s.feRx := rfl
@[simp] theorem setH_feHeld (x : Hid) (i v : Nat) : (s.setH x i v).feHeld = s.feHeld := rfl
@[simp] theorem setH_objs (x : Hid) (i v : Nat) : (s.setH x i v).objs = s.objs := rfl
@[simp] theorem setH_balDue (x : Hid) (i v : Nat) : (s.setH x i v).balDue = s.balDue := rfl
@[simp] theorem setH_leaving (x : Hid) (i v : Nat) : (s.setH x i v).leaving = s.leaving := rfl
@[simp] theorem setH_heldReqs (x : Hid) (i v : Nat) : (s.setH x i v).heldReqs = s.heldReqs := rfl
@[simp] theorem setH_heldCores (x : Hid) (i v : Nat) : (s.setH x i v).heldCores = s.heldCores := rfl
@[simp] theorem setH_direct (x : Hid) (i v : Nat) : (s.setH x i v).direct = s.direct := rfl
@[simp] theorem setH_l2 (x : Hid) (i v : Nat) : (s.setH x i v).l2 = s.l2 := rfl
@[simp] theorem setH_heldTap (x : Hid) (i v : Nat) : (s.setH x i v).heldTap = s.heldTap := rfl

end State

/-- A field has its own key. -/
theorem Fld.code_lt (f : Fld) : f.code < 512 := by cases f <;> decide

theorem Fld.code_inj {f g : Fld} (h : f.code = g.code) : f = g := by
  have key : ∀ x : Fld, Fld.ofNat x.ctorIdx = x := fun x => by cases x <;> rfl
  rw [← key f, ← key g]
  exact congrArg Fld.ofNat h

theorem regKey_inj {f g : Fld} {i j : Nat} (h : regKey f i = regKey g j) : f = g ∧ i = j := by
  have hf := f.code_lt
  have hg := g.code_lt
  unfold regKey at h
  refine ⟨Fld.code_inj ?_, ?_⟩ <;> omega

theorem Hid.ctorIdx_lt (x : Hid) : x.ctorIdx < 512 := by cases x <;> decide

theorem Hid.ctorIdx_inj {x y : Hid} (h : x.ctorIdx = y.ctorIdx) : x = y := by
  have key : ∀ x : Hid, Hid.ofNat x.ctorIdx = x := fun x => by cases x <;> rfl
  rw [← key x, ← key y]
  exact congrArg Hid.ofNat h

theorem hidKey_inj {x y : Hid} {i j : Nat} (h : hidKey x i = hidKey y j) : x = y ∧ i = j := by
  have hx := x.ctorIdx_lt
  have hy := y.ctorIdx_lt
  unfold hidKey at h
  refine ⟨Hid.ctorIdx_inj ?_, ?_⟩ <;> omega

namespace State

variable (s : State)

@[simp] theorem rd_wr_same (f : Fld) (i v : Nat) : (s.wr f i v).rd f i = v % 2 ^ f.width := by simp [rd, wr]

theorem rd_wr_other {f g : Fld} {i j : Nat} (v : Nat) (h : f ≠ g ∨ i ≠ j) : (s.wr f i v).rd g j = s.rd g j := by
  have hk : regKey g j ≠ regKey f i := fun hk => by
    have := regKey_inj hk
    rcases h with h | h
    · exact h this.1.symm
    · exact h this.2.symm
  simp [rd, wr, Tab.get_set_other _ _ _ _ hk]

@[simp] theorem rd_setH (x : Hid) (i v : Nat) (f : Fld) (j : Nat) : (s.setH x i v).rd f j = s.rd f j := rfl

@[simp] theorem h_wr (f : Fld) (i v : Nat) (x : Hid) (j : Nat) : (s.wr f i v).h x j = s.h x j := rfl

@[simp] theorem h_setH_same (x : Hid) (i v : Nat) : (s.setH x i v).h x i = v := by simp [h, setH]

theorem h_setH_other {x y : Hid} {i j : Nat} (v : Nat) (hn : x ≠ y ∨ i ≠ j) : (s.setH x i v).h y j = s.h y j := by
  have hk : hidKey y j ≠ hidKey x i := fun hk => by
    have := hidKey_inj hk
    rcases hn with hn | hn
    · exact hn this.1.symm
    · exact hn this.2.symm
  simp [h, setH, Tab.get_set_other _ _ _ _ hk]

end State

end Sys2Proof.Machine
end

