-- ==== Sys2Proof/Laws/DryBase.lean ====
section
/-! SUPPORT. The relation `State.Dry` (no byte of memory changes) for the operations that change a state, and how it goes through what the meanings are built
of. -/

namespace Sys2Proof.Machine

namespace State

theorem Dry.refl (s : State) : s.Dry s := ⟨rfl, rfl⟩

theorem Dry.trans {s t u : State} (h1 : s.Dry t) (h2 : t.Dry u) : s.Dry u := ⟨h2.mem.trans h1.mem, h2.host.trans h1.host⟩

theorem Dry.upd {s t u : State} (h : s.Dry t) (hm : u.mem = t.mem) (hh : u.hostMem = t.hostMem) : s.Dry u := h.trans ⟨hm, hh⟩

/-- `Dry` for the parts of a state that it speaks of. -/
def DryParts (s : State) (m k : List Host.Cell) : Prop := s.Dry { s with mem := m, hostMem := k }

theorem dryParts_of {s t : State} (h : s.Dry t) : s.DryParts t.mem t.hostMem := Dry.upd h rfl rfl

/-- A record: only the memories count. -/
theorem dry_mk {s : State} {p : List Instr} {l : Bool} {g : Tab Nat} {m k : List Host.Cell}
    {x2 : Nat} {x3 : Nat} {x5 : Tab Nat} {x6 : Tab Nat} {x9 : Tab Nat} {x10 : Tab Nat} {x11 : List PLine} {x12 : List TlbEnt} {x13 : List Stall}
    {x14 : List Op} {x15 : List Nat} {x16 : List Nat} {x17 : List Nat} {x18 : List Strip} {x19 : List (Nat × Nat)} {x20 : List Fence} {x21 : List
    Suspect} {x22 : List Repeat} {x23 : List HistNow} {x24 : List (Nat × Cpl)} {x25 : Tab Nat} {x26 : Tab Nat} {x27 : List Late} {x28 : List (Nat
    × Nat)} {x29 : List IntMsg} {x30 : Reply} {x31 : List PLine} {x32 : List (Nat × List Byte)} {x33 : List PackStall} {x34 : List Claim} {x35 :
    List Req} {x36 : Tab Engine} {x37 : List (Nat × Nat × Nat × MemReq)} {x38 : Tab Nat} {x39 : List (Nat × Nat)} {x40 : List (Nat × List Nat)}
    {x41 : List Repair} {x42 : List (Nat × Nat × Nat × Nat)} {x43 : Option Snap} {x44 : Tab Nat} {x45 : List FeTx} {x46 : List FeRx} {x47 : List
    FeHeld} {x48 : List (Nat × List Byte)} {x49 : List (Nat × Nat × Nat × Nat)} {x50 : List (Nat × Nat × Nat)} {x51 : List InReq} {x52 : List
    CoreAcc} {x53 : List DirectStore} {x54 : List L2Line} {x55 : List Nat} :
    s.Dry (State.mk p l x2 x3 g x5 x6 m k x9 x10 x11 x12 x13 x14 x15 x16 x17 x18 x19 x20 x21 x22 x23 x24 x25 x26 x27 x28 x29 x30 x31 x32 x33 x34
      x35 x36 x37 x38 x39 x40 x41 x42 x43 x44 x45 x46 x47 x48 x49 x50 x51 x52 x53 x54 x55) ↔ s.DryParts m k :=
  ⟨fun h => Dry.upd h rfl rfl, fun h => Dry.upd h rfl rfl⟩

theorem Dry.ite {s a b : State} {c : Prop} [Decidable c] (ha : s.Dry a) (hb : s.Dry b) : s.Dry (if c then a else b) := by
  split
  · exact ha
  · exact hb

theorem Dry.ite_fst {α : Type} {s : State} {a b : State × α} {c : Prop} [Decidable c] (ha : s.Dry a.1) (hb : s.Dry b.1) :
    s.Dry (if c then a else b).1 := by
  split
  · exact ha
  · exact hb

theorem Dry.foldl {α : Type} {s t : State} {f : State → α → State} {l : List α} (ht : s.Dry t) (hf : ∀ (u : State) (x : α), u.Dry (f u x)) :
    s.Dry (l.foldl f t) := by
  induction l generalizing t with
  | nil => exact ht
  | cons x l ih => exact ih (ht.trans (hf t x))

/-- A fold that carries something beside the state. -/
theorem Dry.foldl_fst {α β : Type} {s : State} {p : State × β} {f : State × β → α → State × β} {l : List α} (ht : s.Dry p.1)
    (hf : ∀ (u : State × β) (x : α), u.1.Dry (f u x).1) : s.Dry (l.foldl f p).1 := by
  induction l generalizing p with
  | nil => exact ht
  | cons x l ih => exact ih (ht.trans (hf p x))

/-- A fold over what an engine carries. -/
theorem Dry.foldl_st {α : Type} {s : State} {p : BankOut} {f : BankOut → α → BankOut} {l : List α} (ht : s.Dry p.st)
    (hf : ∀ (u : BankOut) (x : α), u.st.Dry (f u x).st) : s.Dry (l.foldl f p).st := by
  induction l generalizing p with
  | nil => exact ht
  | cons x l ih => exact ih (ht.trans (hf p x))

theorem Dry.ite_st {s : State} {a b : BankOut} {c : Prop} [Decidable c] (ha : s.Dry a.st) (hb : s.Dry b.st) :
    s.Dry (if c then a else b).st := by
  split
  · exact ha
  · exact hb

/-- The state in a pair that a function gave. -/
theorem Dry.of_eq {α : Type} {s t : State} {p : State × α} {x : α} (h : p = (t, x)) (hk : s.Dry p.1) : s.Dry t := by
  rw [h] at hk
  exact hk

theorem Dry.of_eq_snd {α : Type} {s t : State} {p : α × State} {x : α} (h : p = (x, t)) (hk : s.Dry p.2) : s.Dry t := by
  rw [h] at hk
  exact hk

theorem wr_dry {r s : State} (h : r.Dry s) (f : Fld) (i v : Nat) : r.Dry (s.wr f i v) := Dry.upd h rfl rfl

theorem setH_dry {r s : State} (h : r.Dry s) (x : Hid) (i v : Nat) : r.Dry (s.setH x i v) := Dry.upd h rfl rfl

theorem fresh_dry {r s : State} (h : r.Dry s) : r.Dry s.fresh.2 := setH_dry h _ _ _

theorem newId_dry {r s : State} (h : r.Dry s) : r.Dry s.newId.2 := setH_dry h _ _ _

/-- An answer that is a next state with the same memory. -/
structure DryNext (s : State) (o : Host.Outcome State Fault Refusal) : Prop where
  out : ∀ t, o = .next t → s.Dry t

theorem DryNext.next {s t : State} (h : s.Dry t) : s.DryNext (.next t) := ⟨fun _ he => by
  cases he
  exact h⟩

theorem DryNext.ite {s : State} {a b : Host.Outcome State Fault Refusal} {c : Prop} [Decidable c] (ha : s.DryNext a)
    (hb : s.DryNext b) : s.DryNext (if c then a else b) := by
  split
  · exact ha
  · exact hb

end State

end Sys2Proof.Machine
end

