-- ==== Sys2Proof/Laws/Dry.lean ====
section
/-! SUPPORT. `State.Dry` (no byte of memory changes) for every operation and command of which it holds: one lemma each, in the order of the files of
the machine. -/

section

-- One theorem at a time: the text as a whole then needs far less memory.
set_option Elab.async false
set_option linter.all false

namespace Sys2Proof.Machine

open State

theorem State.addH_dry {r s : State} (h : r.Dry s) (x : Hid) (i : ℕ) (n : ℕ) : r.Dry (State.addH s x i n) := by
  unfold State.addH
  repeat' first
    | with_reducible assumption
    | with_reducible exact Dry.refl _
    | with_reducible apply Dry.ite
    | with_reducible apply setH_dry
    | with_reducible apply dryParts_of
    | intro _
    | with_reducible refine Dry.of_eq (by assumption) ?_
    | with_reducible refine Dry.of_eq_snd (by assumption) ?_
    | simp only [dry_mk]
    | split

theorem State.bump_dry {r s : State} (h : r.Dry s) (f : Fld) (i : ℕ) (n : ℕ) : r.Dry (State.bump s f i n) := by
  unfold State.bump
  repeat' first
    | with_reducible assumption
    | with_reducible exact Dry.refl _
    | with_reducible apply Dry.ite
    | with_reducible apply wr_dry
    | with_reducible apply setH_dry
    | with_reducible apply dryParts_of
    | intro _
    | with_reducible refine Dry.of_eq (by assumption) ?_
    | with_reducible refine Dry.of_eq_snd (by assumption) ?_
    | simp only [dry_mk]
    | split

theorem State.mark_dry {r s : State} (h : r.Dry s) (f : Fld) (i : ℕ) : r.Dry (State.mark s f i) := by
  unfold State.mark
  repeat' first
    | with_reducible assumption
    | with_reducible exact Dry.refl _
    | with_reducible apply Dry.ite
    | with_reducible apply setH_dry
    | with_reducible apply wr_dry
    | with_reducible apply dryParts_of
    | intro _
    | with_reducible refine Dry.of_eq (by assumption) ?_
    | with_reducible refine Dry.of_eq_snd (by assumption) ?_
    | simp only [dry_mk]
    | split

theorem State.firstError_dry {r s : State} (h : r.Dry s) (f : Fld) (i : ℕ) (fill : State → State) (hfill : ∀ (u : State), u.Dry (fill u)) : r.Dry
    (State.firstError s f i fill) := by
  unfold State.firstError
  repeat' first
    | with_reducible assumption
    | with_reducible exact Dry.refl _
    | with_reducible apply Dry.ite
    | with_reducible refine Dry.trans ?_ (hfill _)
    | with_reducible apply mark_dry
    | with_reducible apply dryParts_of
    | intro _
    | with_reducible refine Dry.of_eq (by assumption) ?_
    | with_reducible refine Dry.of_eq_snd (by assumption) ?_
    | simp only [dry_mk]
    | split

theorem State.pmcBump_dry {r s : State} (h : r.Dry s) (i : ℕ) (n : ℕ) : r.Dry (State.pmcBump s i n) := by
  unfold State.pmcBump
  repeat' first
    | with_reducible assumption
    | with_reducible exact Dry.refl _
    | with_reducible apply Dry.ite
    | with_reducible apply mark_dry
    | with_reducible apply wr_dry
    | with_reducible apply dryParts_of
    | intro _
    | with_reducible refine Dry.of_eq (by assumption) ?_
    | with_reducible refine Dry.of_eq_snd (by assumption) ?_
    | simp only [dry_mk]
    | split

theorem State.evFrom_dry {r s : State} (h : r.Dry s) (code : ℕ) (q : ℕ) (inst : ℕ) (t : ℕ) (n : ℕ) : r.Dry (State.evFrom s code q inst t n) := by
  unfold State.evFrom
  repeat' first
    | with_reducible assumption
    | with_reducible exact Dry.refl _
    | with_reducible apply Dry.ite
    | with_reducible apply pmcBump_dry
    | with_reducible apply setH_dry
    | with_reducible refine Dry.foldl ?_ (fun u x => ?_)
    | with_reducible refine Dry.foldl_fst ?_ (fun u x => ?_)
    | with_reducible apply dryParts_of
    | intro _
    | with_reducible refine Dry.of_eq (by assumption) ?_
    | with_reducible refine Dry.of_eq_snd (by assumption) ?_
    | simp only [dry_mk]
    | split

theorem State.ev_dry {r s : State} (h : r.Dry s) (code : ℕ) (q : ℕ) (inst : ℕ) (n : ℕ) : r.Dry (State.ev s code q inst n) := by
  unfold State.ev
  repeat' first
    | with_reducible assumption
    | with_reducible exact Dry.refl _
    | with_reducible apply Dry.ite
    | with_reducible apply evFrom_dry
    | with_reducible apply dryParts_of
    | intro _
    | with_reducible refine Dry.of_eq (by assumption) ?_
    | with_reducible refine Dry.of_eq_snd (by assumption) ?_
    | simp only [dry_mk]
    | split

theorem State.span_dry {r s : State} (h : r.Dry s) (x : Hid) (i : ℕ) (on : Bool) (code : ℕ) (q : ℕ) (inst : ℕ) : r.Dry (State.span s x i on code q
    inst) := by
  unfold State.span
  repeat' first
    | with_reducible assumption
    | with_reducible exact Dry.refl _
    | with_reducible apply Dry.ite
    | with_reducible apply setH_dry
    | with_reducible apply evFrom_dry
    | with_reducible apply dryParts_of
    | intro _
    | with_reducible refine Dry.of_eq (by assumption) ?_
    | with_reducible refine Dry.of_eq_snd (by assumption) ?_
    | simp only [dry_mk]
    | split

theorem State.advance_dry {r s : State} (h : r.Dry s) (n : ℕ) : r.Dry (State.advance s n) := by
  unfold State.advance
  repeat' first
    | with_reducible assumption
    | with_reducible exact Dry.refl _
    | with_reducible apply Dry.ite
    | with_reducible apply ev_dry
    | with_reducible apply dryParts_of
    | intro _
    | with_reducible refine Dry.of_eq (by assumption) ?_
    | with_reducible refine Dry.of_eq_snd (by assumption) ?_
    | simp only [dry_mk]
    | split

theorem State.goTo_dry {r s : State} (h : r.Dry s) (t : ℕ) : r.Dry (State.goTo s t) := by
  unfold State.goTo
  repeat' first
    | with_reducible assumption
    | with_reducible exact Dry.refl _
    | with_reducible apply Dry.ite
    | with_reducible apply advance_dry
    | with_reducible apply dryParts_of
    | intro _
    | with_reducible refine Dry.of_eq (by assumption) ?_
    | with_reducible refine Dry.of_eq_snd (by assumption) ?_
    | simp only [dry_mk]
    | split

theorem State.sendMsix_dry {r s : State} (h : r.Dry s) (port : ℕ) (func : ℕ) (vec : ℕ) : r.Dry (State.sendMsix s port func vec) := by
  unfold State.sendMsix
  repeat' first
    | with_reducible assumption
    | with_reducible exact Dry.refl _
    | with_reducible apply Dry.ite
    | with_reducible apply setH_dry
    | with_reducible apply dryParts_of
    | intro _
    | with_reducible refine Dry.of_eq (by assumption) ?_
    | with_reducible refine Dry.of_eq_snd (by assumption) ?_
    | simp only [dry_mk]
    | split

theorem State.raiseVf_dry {r s : State} (h : r.Dry s) (q : ℕ) (vec : ℕ) : r.Dry (State.raiseVf s q vec) := by
  unfold State.raiseVf
  repeat' first
    | with_reducible assumption
    | with_reducible exact Dry.refl _
    | with_reducible apply Dry.ite
    | with_reducible apply setH_dry
    | with_reducible apply sendMsix_dry
    | with_reducible apply dryParts_of
    | intro _
    | with_reducible refine Dry.of_eq (by assumption) ?_
    | with_reducible refine Dry.of_eq_snd (by assumption) ?_
    | simp only [dry_mk]
    | split

theorem State.raisePf_dry {r s : State} (h : r.Dry s) (vec : ℕ) : r.Dry (State.raisePf s vec) := by
  unfold State.raisePf
  repeat' first
    | with_reducible assumption
    | with_reducible exact Dry.refl _
    | with_reducible apply Dry.ite
    | with_reducible apply sendMsix_dry
    | with_reducible apply dryParts_of
    | intro _
    | with_reducible refine Dry.of_eq (by assumption) ?_
    | with_reducible refine Dry.of_eq_snd (by assumption) ?_
    | simp only [dry_mk]
    | split

theorem State.raisePfOther_dry {r s : State} (h : r.Dry s) (p : ℕ) (vec : ℕ) : r.Dry (State.raisePfOther s p vec) := by
  unfold State.raisePfOther
  repeat' first
    | with_reducible assumption
    | with_reducible exact Dry.refl _
    | with_reducible apply Dry.ite
    | with_reducible apply sendMsix_dry
    | with_reducible apply dryParts_of
    | intro _
    | with_reducible refine Dry.of_eq (by assumption) ?_
    | with_reducible refine Dry.of_eq_snd (by assumption) ?_
    | simp only [dry_mk]
    | split

theorem State.fnErr_dry {r s : State} (h : r.Dry s) (f : ℕ) (code : ℕ) (detail : ℕ) : r.Dry (State.fnErr s f code detail) := by
  unfold State.fnErr
  repeat' first
    | with_reducible assumption
    | with_reducible exact Dry.refl _
    | with_reducible apply Dry.ite
    | with_reducible apply bump_dry
    | with_reducible apply firstError_dry
    | with_reducible apply wr_dry
    | with_reducible apply raiseVf_dry
    | with_reducible apply raisePf_dry
    | with_reducible apply dryParts_of
    | intro _
    | with_reducible refine Dry.of_eq (by assumption) ?_
    | with_reducible refine Dry.of_eq_snd (by assumption) ?_
    | simp only [dry_mk]
    | split

theorem State.mcLog_dry {r s : State} (h : r.Dry s) (code : ℕ) (q : ℕ) (detail : ℕ) : r.Dry (State.mcLog s code q detail) := by
  unfold State.mcLog
  repeat' first
    | with_reducible assumption
    | with_reducible exact Dry.refl _
    | with_reducible apply Dry.ite
    | with_reducible apply mark_dry
    | with_reducible apply bump_dry
    | with_reducible apply setH_dry
    | with_reducible apply raisePf_dry
    | with_reducible apply wr_dry
    | with_reducible apply dryParts_of
    | intro _
    | with_reducible refine Dry.of_eq (by assumption) ?_
    | with_reducible refine Dry.of_eq_snd (by assumption) ?_
    | simp only [dry_mk]
    | split

theorem State.setOp_dry {r s : State} (h : r.Dry s) (o : Op) : r.Dry (State.setOp s o) := by
  unfold State.setOp
  repeat' first
    | with_reducible assumption
    | with_reducible exact Dry.refl _
    | with_reducible apply Dry.ite
    | with_reducible apply dryParts_of
    | intro _
    | with_reducible refine Dry.of_eq (by assumption) ?_
    | with_reducible refine Dry.of_eq_snd (by assumption) ?_
    | simp only [dry_mk]
    | split

theorem State.startAlloc_dry {r s : State} (h : r.Dry s) (q : ℕ) (a : ℕ) : r.Dry (State.startAlloc s q a) := by
  unfold State.startAlloc
  repeat' first
    | with_reducible assumption
    | with_reducible exact Dry.refl _
    | with_reducible apply Dry.ite
    | with_reducible apply setH_dry
    | with_reducible apply dryParts_of
    | intro _
    | with_reducible refine Dry.of_eq (by assumption) ?_
    | with_reducible refine Dry.of_eq_snd (by assumption) ?_
    | simp only [dry_mk]
    | split

theorem State.leaveAlloc_dry {r s : State} (h : r.Dry s) (id : ℕ) (a : ℕ) : r.Dry (State.leaveAlloc s id a) := by
  unfold State.leaveAlloc
  repeat' first
    | with_reducible assumption
    | with_reducible exact Dry.refl _
    | with_reducible apply Dry.ite
    | with_reducible apply startAlloc_dry
    | with_reducible apply dryParts_of
    | intro _
    | with_reducible refine Dry.of_eq (by assumption) ?_
    | with_reducible refine Dry.of_eq_snd (by assumption) ?_
    | simp only [dry_mk]
    | split

theorem State.dropOp_dry {r s : State} (h : r.Dry s) (id : ℕ) : r.Dry (State.dropOp s id) := by
  unfold State.dropOp
  repeat' first
    | with_reducible assumption
    | with_reducible exact Dry.refl _
    | with_reducible apply Dry.ite
    | with_reducible apply leaveAlloc_dry
    | with_reducible apply dryParts_of
    | intro _
    | with_reducible refine Dry.of_eq (by assumption) ?_
    | with_reducible refine Dry.of_eq_snd (by assumption) ?_
    | simp only [dry_mk]
    | split

theorem State.updOp_dry {r s : State} (h : r.Dry s) (id : ℕ) (f : Op → Op) : r.Dry (State.updOp s id f) := by
  unfold State.updOp
  repeat' first
    | with_reducible assumption
    | with_reducible exact Dry.refl _
    | with_reducible apply Dry.ite
    | with_reducible apply dryParts_of
    | intro _
    | with_reducible refine Dry.of_eq (by assumption) ?_
    | with_reducible refine Dry.of_eq_snd (by assumption) ?_
    | simp only [dry_mk]
    | split

theorem State.setEngine_dry {r s : State} (h : r.Dry s) (k : ℕ) (p : ℕ) (e : Engine) : r.Dry (State.setEngine s k p e) := by
  unfold State.setEngine
  repeat' first
    | with_reducible assumption
    | with_reducible exact Dry.refl _
    | with_reducible apply Dry.ite
    | with_reducible apply dryParts_of
    | intro _
    | with_reducible refine Dry.of_eq (by assumption) ?_
    | with_reducible refine Dry.of_eq_snd (by assumption) ?_
    | simp only [dry_mk]
    | split

theorem State.syncBusy_dry {r s : State} (h : r.Dry s) (k : ℕ) : r.Dry (State.syncBusy s k) := by
  unfold State.syncBusy
  repeat' first
    | with_reducible assumption
    | with_reducible exact Dry.refl _
    | with_reducible apply Dry.ite
    | with_reducible apply wr_dry
    | with_reducible apply dryParts_of
    | intro _
    | with_reducible refine Dry.of_eq (by assumption) ?_
    | with_reducible refine Dry.of_eq_snd (by assumption) ?_
    | simp only [dry_mk]
    | split

theorem State.pushEngine_dry {r s : State} (h : r.Dry s) (k : ℕ) (p : ℕ) (line : ℕ) : r.Dry (State.pushEngine s k p line) := by
  unfold State.pushEngine
  repeat' first
    | with_reducible assumption
    | with_reducible exact Dry.refl _
    | with_reducible apply Dry.ite
    | with_reducible apply setEngine_dry
    | with_reducible apply dryParts_of
    | intro _
    | with_reducible refine Dry.of_eq (by assumption) ?_
    | with_reducible refine Dry.of_eq_snd (by assumption) ?_
    | simp only [dry_mk]
    | split

theorem State.pushAll_dry {r s : State} (h : r.Dry s) (k : ℕ) (line : ℕ) : r.Dry (State.pushAll s k line) := by
  unfold State.pushAll
  repeat' first
    | with_reducible assumption
    | with_reducible exact Dry.refl _
    | with_reducible apply Dry.ite
    | with_reducible apply setEngine_dry
    | with_reducible apply pushEngine_dry
    | with_reducible refine Dry.foldl ?_ (fun u x => ?_)
    | with_reducible refine Dry.foldl_fst ?_ (fun u x => ?_)
    | with_reducible apply dryParts_of
    | intro _
    | with_reducible refine Dry.of_eq (by assumption) ?_
    | with_reducible refine Dry.of_eq_snd (by assumption) ?_
    | simp only [dry_mk]
    | split

theorem State.bcastData_dry {r s : State} (h : r.Dry s) (k : ℕ) (off : ℕ) (data : List Byte) : r.Dry (State.bcastData s k off data) := by
  unfold State.bcastData
  repeat' first
    | with_reducible assumption
    | with_reducible exact Dry.refl _
    | with_reducible apply Dry.ite
    | with_reducible apply setEngine_dry
    | with_reducible refine Dry.foldl ?_ (fun u x => ?_)
    | with_reducible refine Dry.foldl_fst ?_ (fun u x => ?_)
    | with_reducible apply dryParts_of
    | intro _
    | with_reducible refine Dry.of_eq (by assumption) ?_
    | with_reducible refine Dry.of_eq_snd (by assumption) ?_
    | simp only [dry_mk]
    | split

theorem State.clearEngine_dry {r s : State} (h : r.Dry s) (k : ℕ) (p : ℕ) : r.Dry (State.clearEngine s k p) := by
  unfold State.clearEngine
  repeat' first
    | with_reducible assumption
    | with_reducible exact Dry.refl _
    | with_reducible apply Dry.ite
    | with_reducible apply setEngine_dry
    | with_reducible apply dryParts_of
    | intro _
    | with_reducible refine Dry.of_eq (by assumption) ?_
    | with_reducible refine Dry.of_eq_snd (by assumption) ?_
    | simp only [dry_mk]
    | split

theorem State.windowErr_dry {r s : State} (h : r.Dry s) (q : ℕ) (a : ℕ) : r.Dry (State.windowErr s q a) := by
  unfold State.windowErr
  repeat' first
    | with_reducible assumption
    | with_reducible exact Dry.refl _
    | with_reducible apply Dry.ite
    | with_reducible apply fnErr_dry
    | with_reducible apply dryParts_of
    | intro _
    | with_reducible refine Dry.of_eq (by assumption) ?_
    | with_reducible refine Dry.of_eq_snd (by assumption) ?_
    | simp only [dry_mk]
    | split

theorem State.windowWrite_dry {r s : State} (h : r.Dry s) (q : ℕ) (k : ℕ) (a : ℕ) (d : List Byte) : r.Dry (State.windowWrite s q k a d) := by
  unfold State.windowWrite
  repeat' first
    | with_reducible assumption
    | with_reducible exact Dry.refl _
    | with_reducible apply Dry.ite
    | with_reducible apply pushEngine_dry
    | with_reducible apply windowErr_dry
    | with_reducible apply clearEngine_dry
    | with_reducible apply pushAll_dry
    | with_reducible apply bcastData_dry
    | with_reducible apply dryParts_of
    | intro _
    | with_reducible refine Dry.of_eq (by assumption) ?_
    | with_reducible refine Dry.of_eq_snd (by assumption) ?_
    | simp only [dry_mk]
    | split

theorem State.retireCmd_dry {r s : State} (h : r.Dry s) (k : ℕ) (p : ℕ) (status : ℕ) (fl : ℕ) : r.Dry (State.retireCmd s k p status fl) := by
  unfold State.retireCmd
  repeat' first
    | with_reducible assumption
    | with_reducible exact Dry.refl _
    | with_reducible apply Dry.ite
    | with_reducible apply syncBusy_dry
    | with_reducible apply addH_dry
    | with_reducible apply setEngine_dry
    | with_reducible apply mark_dry
    | with_reducible refine Dry.foldl ?_ (fun u x => ?_)
    | with_reducible refine Dry.foldl_fst ?_ (fun u x => ?_)
    | with_reducible apply dryParts_of
    | intro _
    | with_reducible refine Dry.of_eq (by assumption) ?_
    | with_reducible refine Dry.of_eq_snd (by assumption) ?_
    | simp only [dry_mk]
    | split

theorem State.dropCmds_dry {r s : State} (h : r.Dry s) (k : ℕ) (p : ℕ) (y3 : ℕ) : r.Dry (State.dropCmds s k p y3) := by
  induction y3 generalizing s k p with
  | zero =>
    unfold State.dropCmds
    repeat' first
      | with_reducible assumption
      | with_reducible exact Dry.refl _
      | with_reducible apply Dry.ite
      | with_reducible apply retireCmd_dry
      | with_reducible apply dryParts_of
      | intro _
      | with_reducible refine Dry.of_eq (by assumption) ?_
      | with_reducible refine Dry.of_eq_snd (by assumption) ?_
      | simp only [dry_mk]
      | split
  | succ n0 ih =>
    unfold State.dropCmds
    repeat' first
      | with_reducible assumption
      | with_reducible exact Dry.refl _
      | with_reducible apply Dry.ite
      | with_reducible apply retireCmd_dry
      | with_reducible apply ih
      | with_reducible apply dryParts_of
      | intro _
      | with_reducible refine Dry.of_eq (by assumption) ?_
      | with_reducible refine Dry.of_eq_snd (by assumption) ?_
      | simp only [dry_mk]
      | split

theorem State.endBank_dry {r s : State} (h : r.Dry s) (k : ℕ) (forced : Bool) : r.Dry (State.endBank s k forced) := by
  unfold State.endBank
  repeat' first
    | with_reducible assumption
    | with_reducible exact Dry.refl _
    | with_reducible apply Dry.ite
    | with_reducible apply dropCmds_dry
    | with_reducible apply setEngine_dry
    | with_reducible apply syncBusy_dry
    | with_reducible apply wr_dry
    | with_reducible apply mark_dry
    | with_reducible refine Dry.foldl ?_ (fun u x => ?_)
    | with_reducible refine Dry.foldl_fst ?_ (fun u x => ?_)
    | with_reducible apply dryParts_of
    | intro _
    | with_reducible refine Dry.of_eq (by assumption) ?_
    | with_reducible refine Dry.of_eq_snd (by assumption) ?_
    | simp only [dry_mk]
    | split

theorem State.setPoison_dry {r s : State} (h : r.Dry s) (t : ℕ) (u : ℕ) (a : ℕ) (v : ℕ) : r.Dry (State.setPoison s t u a v) := by
  unfold State.setPoison
  repeat' first
    | with_reducible assumption
    | with_reducible exact Dry.refl _
    | with_reducible apply Dry.ite
    | with_reducible apply dryParts_of
    | intro _
    | with_reducible refine Dry.of_eq (by assumption) ?_
    | with_reducible refine Dry.of_eq_snd (by assumption) ?_
    | simp only [dry_mk]
    | split

theorem State.loseStack_dry {r s : State} (h : r.Dry s) (k : ℕ) : r.Dry (State.loseStack s k) := by
  unfold State.loseStack
  repeat' first
    | with_reducible assumption
    | with_reducible exact Dry.refl _
    | with_reducible apply Dry.ite
    | with_reducible apply wr_dry
    | with_reducible apply endBank_dry
    | with_reducible apply mcLog_dry
    | with_reducible apply mark_dry
    | with_reducible apply dryParts_of
    | intro _
    | with_reducible refine Dry.of_eq (by assumption) ?_
    | with_reducible refine Dry.of_eq_snd (by assumption) ?_
    | simp only [dry_mk]
    | split

theorem State.requestRetire_dry {r s : State} (h : r.Dry s) (k : ℕ) (p : ℕ) : r.Dry (State.requestRetire s k p) := by
  unfold State.requestRetire
  repeat' first
    | with_reducible assumption
    | with_reducible exact Dry.refl _
    | with_reducible apply Dry.ite
    | with_reducible apply setH_dry
    | with_reducible apply loseStack_dry
    | with_reducible apply dryParts_of
    | intro _
    | with_reducible refine Dry.of_eq (by assumption) ?_
    | with_reducible refine Dry.of_eq_snd (by assumption) ?_
    | simp only [dry_mk]
    | split

theorem State.laneFails_dry {r s : State} (h : r.Dry s) (k : ℕ) (p : ℕ) (lane : ℕ) : r.Dry (State.laneFails s k p lane) := by
  unfold State.laneFails
  repeat' first
    | with_reducible assumption
    | with_reducible exact Dry.refl _
    | with_reducible apply Dry.ite
    | with_reducible apply setH_dry
    | with_reducible apply mcLog_dry
    | with_reducible apply wr_dry
    | with_reducible apply mark_dry
    | with_reducible apply requestRetire_dry
    | with_reducible apply dryParts_of
    | intro _
    | with_reducible refine Dry.of_eq (by assumption) ?_
    | with_reducible refine Dry.of_eq_snd (by assumption) ?_
    | simp only [dry_mk]
    | split

theorem State.ueLog_dry {r s : State} (h : r.Dry s) (t : ℕ) (u : ℕ) (a : ℕ) (stored : Bool) : r.Dry (State.ueLog s t u a stored) := by
  unfold State.ueLog
  repeat' first
    | with_reducible assumption
    | with_reducible exact Dry.refl _
    | with_reducible apply Dry.ite
    | with_reducible apply firstError_dry
    | with_reducible apply wr_dry
    | with_reducible apply dryParts_of
    | intro _
    | with_reducible refine Dry.of_eq (by assumption) ?_
    | with_reducible refine Dry.of_eq_snd (by assumption) ?_
    | simp only [dry_mk]
    | split

theorem State.uncorrectable_dry {r s : State} (h : r.Dry s) (t : ℕ) (u : ℕ) (a : ℕ) : r.Dry (State.uncorrectable s t u a) := by
  unfold State.uncorrectable
  repeat' first
    | with_reducible assumption
    | with_reducible exact Dry.refl _
    | with_reducible apply Dry.ite
    | with_reducible apply setH_dry
    | with_reducible apply mark_dry
    | with_reducible apply bump_dry
    | with_reducible apply setPoison_dry
    | with_reducible apply raisePf_dry
    | with_reducible apply ueLog_dry
    | with_reducible apply requestRetire_dry
    | with_reducible apply mcLog_dry
    | with_reducible apply dryParts_of
    | intro _
    | with_reducible refine Dry.of_eq (by assumption) ?_
    | with_reducible refine Dry.of_eq_snd (by assumption) ?_
    | simp only [dry_mk]
    | split

theorem State.corrected_dry {r s : State} (h : r.Dry s) (t : ℕ) (u : ℕ) (a : ℕ) (lane : ℕ) : r.Dry (State.corrected s t u a lane) := by
  unfold State.corrected
  repeat' first
    | with_reducible assumption
    | with_reducible exact Dry.refl _
    | with_reducible apply Dry.ite
    | with_reducible apply setH_dry
    | with_reducible apply bump_dry
    | with_reducible apply laneFails_dry
    | with_reducible apply dryParts_of
    | intro _
    | with_reducible refine Dry.of_eq (by assumption) ?_
    | with_reducible refine Dry.of_eq_snd (by assumption) ?_
    | simp only [dry_mk]
    | split

theorem State.dropLine_dry {r s : State} (h : r.Dry s) (q : ℕ) (t : ℕ) (u : ℕ) (a : ℕ) : r.Dry (State.dropLine s q t u a) := by
  unfold State.dropLine
  repeat' first
    | with_reducible assumption
    | with_reducible exact Dry.refl _
    | with_reducible apply Dry.ite
    | with_reducible apply dryParts_of
    | intro _
    | with_reducible refine Dry.of_eq (by assumption) ?_
    | with_reducible refine Dry.of_eq_snd (by assumption) ?_
    | simp only [dry_mk]
    | split

theorem State.storePoison_dry {r s : State} (h : r.Dry s) (l : PLine) : r.Dry (State.storePoison s l) := by
  unfold State.storePoison
  repeat' first
    | with_reducible assumption
    | with_reducible exact Dry.refl _
    | with_reducible apply Dry.ite
    | with_reducible apply setPoison_dry
    | with_reducible refine Dry.foldl ?_ (fun u x => ?_)
    | with_reducible refine Dry.foldl_fst ?_ (fun u x => ?_)
    | with_reducible apply dryParts_of
    | intro _
    | with_reducible refine Dry.of_eq (by assumption) ?_
    | with_reducible refine Dry.of_eq_snd (by assumption) ?_
    | simp only [dry_mk]
    | split

theorem State.plazaTouch_dry {r s : State} (h : r.Dry s) (q : ℕ) (t : ℕ) (u : ℕ) (a : ℕ) (cls : ℕ) (hint : ℕ) (keep : ℕ) (noalloc : Bool) (write :
    Bool) (shadow : Option (ℕ × ℕ)) : r.Dry (State.plazaTouch s q t u a cls hint keep noalloc write shadow) := by
  unfold State.plazaTouch
  repeat' first
    | with_reducible assumption
    | with_reducible exact Dry.refl _
    | with_reducible apply Dry.ite
    | with_reducible apply ev_dry
    | with_reducible apply dropLine_dry
    | with_reducible apply storePoison_dry
    | with_reducible apply dryParts_of
    | intro _
    | with_reducible refine Dry.of_eq (by assumption) ?_
    | with_reducible refine Dry.of_eq_snd (by assumption) ?_
    | simp only [dry_mk]
    | split

theorem State.walkFrom_dry {r s : State} (h : r.Dry s) (q : ℕ) (va : ℕ) (unit : ℕ) (node : ℕ) (y5 : List (ℕ × ℕ × ℕ)) : r.Dry (State.walkFrom s q va
    unit node y5).1 := by
  induction y5 generalizing s q va unit node with
  | nil =>
    unfold State.walkFrom
    repeat' first
      | with_reducible assumption
      | with_reducible exact Dry.refl _
      | with_reducible apply Dry.ite
      | with_reducible apply Dry.ite_fst
      | with_reducible apply plazaTouch_dry
      | with_reducible apply dryParts_of
      | intro _
      | with_reducible refine Dry.of_eq (by assumption) ?_
      | with_reducible refine Dry.of_eq_snd (by assumption) ?_
      | simp only [dry_mk]
      | split
  | cons z l ih =>
    unfold State.walkFrom
    repeat' first
      | with_reducible assumption
      | with_reducible exact Dry.refl _
      | with_reducible apply Dry.ite
      | with_reducible apply Dry.ite_fst
      | with_reducible apply plazaTouch_dry
      | with_reducible apply ih
      | with_reducible apply dryParts_of
      | intro _
      | with_reducible refine Dry.of_eq (by assumption) ?_
      | with_reducible refine Dry.of_eq_snd (by assumption) ?_
      | simp only [dry_mk]
      | split

theorem State.walk_dry {r s : State} (h : r.Dry s) (q : ℕ) (va : ℕ) : r.Dry (State.walk s q va).1 := by
  unfold State.walk
  repeat' first
    | with_reducible assumption
    | with_reducible exact Dry.refl _
    | with_reducible apply Dry.ite
    | with_reducible apply Dry.ite_fst
    | with_reducible apply walkFrom_dry
    | with_reducible apply dryParts_of
    | intro _
    | with_reducible refine Dry.of_eq (by assumption) ?_
    | with_reducible refine Dry.of_eq_snd (by assumption) ?_
    | simp only [dry_mk]
    | split

theorem State.tlbPut_dry {r s : State} (h : r.Dry s) (e : TlbEnt) : r.Dry (State.tlbPut s e) := by
  unfold State.tlbPut
  repeat' first
    | with_reducible assumption
    | with_reducible exact Dry.refl _
    | with_reducible apply Dry.ite
    | with_reducible apply Dry.ite_fst
    | with_reducible apply fresh_dry
    | with_reducible apply dryParts_of
    | intro _
    | with_reducible refine Dry.of_eq (by assumption) ?_
    | with_reducible refine Dry.of_eq_snd (by assumption) ?_
    | simp only [dry_mk]
    | split

theorem State.chanPoison_dry {r s : State} (h : r.Dry s) (t : ℕ) (u : ℕ) (ch : ℕ) (l : ℕ) (n : ℕ) : r.Dry (State.chanPoison s t u ch l n) := by
  unfold State.chanPoison
  repeat' first
    | with_reducible assumption
    | with_reducible exact Dry.refl _
    | with_reducible apply Dry.ite
    | with_reducible apply setPoison_dry
    | with_reducible refine Dry.foldl ?_ (fun u x => ?_)
    | with_reducible refine Dry.foldl_fst ?_ (fun u x => ?_)
    | with_reducible apply dryParts_of
    | intro _
    | with_reducible refine Dry.of_eq (by assumption) ?_
    | with_reducible refine Dry.of_eq_snd (by assumption) ?_
    | simp only [dry_mk]
    | split

theorem State.noteDamage_dry {r s : State} (h : r.Dry s) (q : ℕ) (t : ℕ) (u : ℕ) (va : ℕ) (cause : ℕ) (b : ℕ) : r.Dry (State.noteDamage s q t u va
    cause b) := by
  unfold State.noteDamage
  repeat' first
    | with_reducible assumption
    | with_reducible exact Dry.refl _
    | with_reducible apply Dry.ite
    | with_reducible apply mark_dry
    | with_reducible apply bump_dry
    | with_reducible apply ev_dry
    | with_reducible apply firstError_dry
    | with_reducible apply wr_dry
    | with_reducible apply dryParts_of
    | intro _
    | with_reducible refine Dry.of_eq (by assumption) ?_
    | with_reducible refine Dry.of_eq_snd (by assumption) ?_
    | simp only [dry_mk]
    | split

theorem State.noteSub_dry {r s : State} (h : r.Dry s) (q : ℕ) (t : ℕ) (u : ℕ) (page : ℕ) (o : SubOut) : r.Dry (State.noteSub s q t u page o) := by
  unfold State.noteSub
  repeat' first
    | with_reducible assumption
    | with_reducible exact Dry.refl _
    | with_reducible apply Dry.ite
    | with_reducible apply bump_dry
    | with_reducible apply noteDamage_dry
    | with_reducible refine Dry.foldl ?_ (fun u x => ?_)
    | with_reducible refine Dry.foldl_fst ?_ (fun u x => ?_)
    | with_reducible apply dryParts_of
    | intro _
    | with_reducible refine Dry.of_eq (by assumption) ?_
    | with_reducible refine Dry.of_eq_snd (by assumption) ?_
    | simp only [dry_mk]
    | split

theorem State.holdPacked_dry {r s : State} (h : r.Dry s) (c : Client) (l : Leaf) (va : ℕ) (write : Bool) (data : List Byte) (bads : List Bool) (busy :
    Bool) : r.Dry (State.holdPacked s c l va write data bads busy) := by
  unfold State.holdPacked
  repeat' first
    | with_reducible assumption
    | with_reducible exact Dry.refl _
    | with_reducible apply Dry.ite
    | with_reducible apply dryParts_of
    | intro _
    | with_reducible refine Dry.of_eq (by assumption) ?_
    | with_reducible refine Dry.of_eq_snd (by assumption) ?_
    | simp only [dry_mk]
    | split

theorem State.waitForDir_dry {r s : State} (h : r.Dry s) (c : Client) (l : Leaf) (va : ℕ) (write : Bool) (data : List Byte) (bads : List Bool) : r.Dry
    (State.waitForDir s c l va write data bads) := by
  unfold State.waitForDir
  repeat' first
    | with_reducible assumption
    | with_reducible exact Dry.refl _
    | with_reducible apply Dry.ite
    | with_reducible apply holdPacked_dry
    | with_reducible apply ev_dry
    | with_reducible apply dryParts_of
    | intro _
    | with_reducible refine Dry.of_eq (by assumption) ?_
    | with_reducible refine Dry.of_eq_snd (by assumption) ?_
    | simp only [dry_mk]
    | split

theorem State.dirDamage_dry {r s : State} (h : r.Dry s) (c : Client) (l : Leaf) (va : ℕ) (poisoned : Bool) : r.Dry (State.dirDamage s c l va poisoned)
    := by
  unfold State.dirDamage
  repeat' first
    | with_reducible assumption
    | with_reducible exact Dry.refl _
    | with_reducible apply Dry.ite
    | with_reducible apply noteDamage_dry
    | with_reducible apply dryParts_of
    | intro _
    | with_reducible refine Dry.of_eq (by assumption) ?_
    | with_reducible refine Dry.of_eq_snd (by assumption) ?_
    | simp only [dry_mk]
    | split

theorem State.promote_dry {r s : State} (h : r.Dry s) (t : ℕ) (u : ℕ) (ch : ℕ) : r.Dry (State.promote s t u ch) := by
  unfold State.promote
  repeat' first
    | with_reducible assumption
    | with_reducible exact Dry.refl _
    | with_reducible apply Dry.ite
    | with_reducible apply ev_dry
    | with_reducible apply dryParts_of
    | intro _
    | with_reducible refine Dry.of_eq (by assumption) ?_
    | with_reducible refine Dry.of_eq_snd (by assumption) ?_
    | simp only [dry_mk]
    | split

theorem State.serveReq_dry {r s : State} (h : r.Dry s) (t : ℕ) (u : ℕ) (ch : ℕ) (x : MemReq) : r.Dry (State.serveReq s t u ch x) := by
  unfold State.serveReq
  repeat' first
    | with_reducible assumption
    | with_reducible exact Dry.refl _
    | with_reducible apply Dry.ite
    | with_reducible apply promote_dry
    | with_reducible apply dryParts_of
    | intro _
    | with_reducible refine Dry.of_eq (by assumption) ?_
    | with_reducible refine Dry.of_eq_snd (by assumption) ?_
    | simp only [dry_mk]
    | split

theorem State.enqueue_dry {r0 s : State} (h : r0.Dry s) (t : ℕ) (u : ℕ) (r : MemReq) : r0.Dry (State.enqueue s t u r) := by
  unfold State.enqueue
  repeat' first
    | with_reducible assumption
    | with_reducible exact Dry.refl _
    | with_reducible apply Dry.ite
    | with_reducible apply ev_dry
    | with_reducible apply dryParts_of
    | intro _
    | with_reducible refine Dry.of_eq (by assumption) ?_
    | with_reducible refine Dry.of_eq_snd (by assumption) ?_
    | simp only [dry_mk]
    | split

theorem State.serveAll_dry {r s : State} (h : r.Dry s) (t : ℕ) (u : ℕ) (ch : ℕ) (y4 : ℕ) : r.Dry (State.serveAll s t u ch y4) := by
  induction y4 generalizing s t u ch with
  | zero =>
    unfold State.serveAll
    repeat' first
      | with_reducible assumption
      | with_reducible exact Dry.refl _
      | with_reducible apply Dry.ite
      | with_reducible apply serveReq_dry
      | with_reducible apply dryParts_of
      | intro _
      | with_reducible refine Dry.of_eq (by assumption) ?_
      | with_reducible refine Dry.of_eq_snd (by assumption) ?_
      | simp only [dry_mk]
      | split
  | succ n0 ih =>
    unfold State.serveAll
    repeat' first
      | with_reducible assumption
      | with_reducible exact Dry.refl _
      | with_reducible apply Dry.ite
      | with_reducible apply serveReq_dry
      | with_reducible apply ih
      | with_reducible apply dryParts_of
      | intro _
      | with_reducible refine Dry.of_eq (by assumption) ?_
      | with_reducible refine Dry.of_eq_snd (by assumption) ?_
      | simp only [dry_mk]
      | split

theorem State.serveFor_dry {r s : State} (h : r.Dry s) (k : ℕ) (p : ℕ) (bs : List ℕ) (y4 : ℕ) : r.Dry (State.serveFor s k p bs y4) := by
  induction y4 generalizing s k p bs with
  | zero =>
    unfold State.serveFor
    repeat' first
      | with_reducible assumption
      | with_reducible exact Dry.refl _
      | with_reducible apply Dry.ite
      | with_reducible apply serveReq_dry
      | with_reducible apply dryParts_of
      | intro _
      | with_reducible refine Dry.of_eq (by assumption) ?_
      | with_reducible refine Dry.of_eq_snd (by assumption) ?_
      | simp only [dry_mk]
      | split
  | succ n0 ih =>
    unfold State.serveFor
    repeat' first
      | with_reducible assumption
      | with_reducible exact Dry.refl _
      | with_reducible apply Dry.ite
      | with_reducible apply serveReq_dry
      | with_reducible apply ih
      | with_reducible apply dryParts_of
      | intro _
      | with_reducible refine Dry.of_eq (by assumption) ?_
      | with_reducible refine Dry.of_eq_snd (by assumption) ?_
      | simp only [dry_mk]
      | split

theorem State.serveBanks_dry {r s : State} (h : r.Dry s) (k : ℕ) (p : ℕ) : r.Dry (State.serveBanks s k p) := by
  unfold State.serveBanks
  repeat' first
    | with_reducible assumption
    | with_reducible exact Dry.refl _
    | with_reducible apply Dry.ite
    | with_reducible apply serveFor_dry
    | with_reducible refine Dry.foldl ?_ (fun u x => ?_)
    | with_reducible refine Dry.foldl_fst ?_ (fun u x => ?_)
    | with_reducible apply dryParts_of
    | intro _
    | with_reducible refine Dry.of_eq (by assumption) ?_
    | with_reducible refine Dry.of_eq_snd (by assumption) ?_
    | simp only [dry_mk]
    | split

theorem State.serveQueues_dry {r s : State} (h : r.Dry s) : r.Dry (State.serveQueues s) := by
  unfold State.serveQueues
  repeat' first
    | with_reducible assumption
    | with_reducible exact Dry.refl _
    | with_reducible apply Dry.ite
    | with_reducible apply serveAll_dry
    | with_reducible refine Dry.foldl ?_ (fun u x => ?_)
    | with_reducible refine Dry.foldl_fst ?_ (fun u x => ?_)
    | with_reducible apply dryParts_of
    | intro _
    | with_reducible refine Dry.of_eq (by assumption) ?_
    | with_reducible refine Dry.of_eq_snd (by assumption) ?_
    | simp only [dry_mk]
    | split

theorem State.setStrip_dry {r s : State} (h : r.Dry s) (k : ℕ) (st : Strip) : r.Dry (State.setStrip s k st) := by
  unfold State.setStrip
  repeat' first
    | with_reducible assumption
    | with_reducible exact Dry.refl _
    | with_reducible apply Dry.ite
    | with_reducible apply dryParts_of
    | intro _
    | with_reducible refine Dry.of_eq (by assumption) ?_
    | with_reducible refine Dry.of_eq_snd (by assumption) ?_
    | simp only [dry_mk]
    | split

theorem State.syncBlanks_dry {r s : State} (h : r.Dry s) (q : ℕ) : r.Dry (State.syncBlanks s q) := by
  unfold State.syncBlanks
  repeat' first
    | with_reducible assumption
    | with_reducible exact Dry.refl _
    | with_reducible apply Dry.ite
    | with_reducible apply wr_dry
    | with_reducible apply dryParts_of
    | intro _
    | with_reducible refine Dry.of_eq (by assumption) ?_
    | with_reducible refine Dry.of_eq_snd (by assumption) ?_
    | simp only [dry_mk]
    | split

theorem State.placeBlank_dry {r s : State} (h : r.Dry s) (o : Op) (top : ℕ) (left : ℕ) (c : ℕ) : r.Dry (State.placeBlank s o top left c) := by
  unfold State.placeBlank
  repeat' first
    | with_reducible assumption
    | with_reducible exact Dry.refl _
    | with_reducible apply Dry.ite
    | with_reducible apply setOp_dry
    | with_reducible apply syncBlanks_dry
    | with_reducible apply startAlloc_dry
    | with_reducible apply dryParts_of
    | intro _
    | with_reducible refine Dry.of_eq (by assumption) ?_
    | with_reducible refine Dry.of_eq_snd (by assumption) ?_
    | simp only [dry_mk]
    | split

theorem State.scanTo_dry {r s : State} (h : r.Dry s) (q : ℕ) (c : ℕ) (y3 : ℕ) : r.Dry (State.scanTo s q c y3) := by
  induction y3 generalizing s q c with
  | zero =>
    unfold State.scanTo
    repeat' first
      | with_reducible assumption
      | with_reducible exact Dry.refl _
      | with_reducible apply Dry.ite
      | with_reducible apply placeBlank_dry
      | with_reducible apply setH_dry
      | with_reducible apply dryParts_of
      | intro _
      | with_reducible refine Dry.of_eq (by assumption) ?_
      | with_reducible refine Dry.of_eq_snd (by assumption) ?_
      | simp only [dry_mk]
      | split
  | succ n0 ih =>
    unfold State.scanTo
    repeat' first
      | with_reducible assumption
      | with_reducible exact Dry.refl _
      | with_reducible apply Dry.ite
      | with_reducible apply placeBlank_dry
      | with_reducible apply setH_dry
      | with_reducible apply ih
      | with_reducible apply dryParts_of
      | intro _
      | with_reducible refine Dry.of_eq (by assumption) ?_
      | with_reducible refine Dry.of_eq_snd (by assumption) ?_
      | simp only [dry_mk]
      | split

theorem State.signalBar_dry {r s : State} (h : r.Dry s) (q : ℕ) (b : ℕ) (status : ℕ) : r.Dry (State.signalBar s q b status) := by
  unfold State.signalBar
  repeat' first
    | with_reducible assumption
    | with_reducible exact Dry.refl _
    | with_reducible apply Dry.ite
    | with_reducible apply wr_dry
    | with_reducible apply mark_dry
    | with_reducible apply dryParts_of
    | intro _
    | with_reducible refine Dry.of_eq (by assumption) ?_
    | with_reducible refine Dry.of_eq_snd (by assumption) ?_
    | simp only [dry_mk]
    | split

theorem State.pageVector_dry {r s : State} (h : r.Dry s) (page : ℕ) : r.Dry (State.pageVector s page) := by
  unfold State.pageVector
  repeat' first
    | with_reducible assumption
    | with_reducible exact Dry.refl _
    | with_reducible apply Dry.ite
    | with_reducible apply raiseVf_dry
    | with_reducible apply sendMsix_dry
    | with_reducible apply dryParts_of
    | intro _
    | with_reducible refine Dry.of_eq (by assumption) ?_
    | with_reducible refine Dry.of_eq_snd (by assumption) ?_
    | simp only [dry_mk]
    | split

theorem State.ringFault_dry {r s : State} (h : r.Dry s) (page : ℕ) : r.Dry (State.ringFault s page) := by
  unfold State.ringFault
  repeat' first
    | with_reducible assumption
    | with_reducible exact Dry.refl _
    | with_reducible apply Dry.ite
    | with_reducible apply wr_dry
    | with_reducible apply mark_dry
    | with_reducible apply raiseVf_dry
    | with_reducible apply raisePf_dry
    | with_reducible apply dryParts_of
    | intro _
    | with_reducible refine Dry.of_eq (by assumption) ?_
    | with_reducible refine Dry.of_eq_snd (by assumption) ?_
    | simp only [dry_mk]
    | split

theorem State.endCqWait_dry {r s : State} (h : r.Dry s) (page : ℕ) : r.Dry (State.endCqWait s page) := by
  unfold State.endCqWait
  repeat' first
    | with_reducible assumption
    | with_reducible exact Dry.refl _
    | with_reducible apply Dry.ite
    | with_reducible apply setH_dry
    | with_reducible apply ev_dry
    | with_reducible apply dryParts_of
    | intro _
    | with_reducible refine Dry.of_eq (by assumption) ?_
    | with_reducible refine Dry.of_eq_snd (by assumption) ?_
    | simp only [dry_mk]
    | split

theorem State.releaseClaims_dry {r s : State} (h : r.Dry s) (q : ℕ) (b : ℕ) (y3 : ℕ) : r.Dry (State.releaseClaims s q b y3) := by
  induction y3 generalizing s q b with
  | zero =>
    unfold State.releaseClaims
    repeat' first
      | with_reducible assumption
      | with_reducible exact Dry.refl _
      | with_reducible apply Dry.ite
      | with_reducible apply wr_dry
      | with_reducible apply dryParts_of
      | intro _
      | with_reducible refine Dry.of_eq (by assumption) ?_
      | with_reducible refine Dry.of_eq_snd (by assumption) ?_
      | simp only [dry_mk]
      | split
  | succ n0 ih =>
    unfold State.releaseClaims
    repeat' first
      | with_reducible assumption
      | with_reducible exact Dry.refl _
      | with_reducible apply Dry.ite
      | with_reducible apply wr_dry
      | with_reducible apply ih
      | with_reducible apply dryParts_of
      | intro _
      | with_reducible refine Dry.of_eq (by assumption) ?_
      | with_reducible refine Dry.of_eq_snd (by assumption) ?_
      | simp only [dry_mk]
      | split

theorem State.endClaim_dry {r s : State} (h : r.Dry s) (o : Op) : r.Dry (State.endClaim s o) := by
  unfold State.endClaim
  repeat' first
    | with_reducible assumption
    | with_reducible exact Dry.refl _
    | with_reducible apply Dry.ite
    | with_reducible apply releaseClaims_dry
    | with_reducible apply dryParts_of
    | intro _
    | with_reducible refine Dry.of_eq (by assumption) ?_
    | with_reducible refine Dry.of_eq_snd (by assumption) ?_
    | simp only [dry_mk]
    | split

theorem State.releaseBlank_dry {r s : State} (h : r.Dry s) (id : ℕ) : r.Dry (State.releaseBlank s id) := by
  unfold State.releaseBlank
  repeat' first
    | with_reducible assumption
    | with_reducible exact Dry.refl _
    | with_reducible apply Dry.ite
    | with_reducible apply scanTo_dry
    | with_reducible apply setH_dry
    | with_reducible apply ev_dry
    | with_reducible apply setOp_dry
    | with_reducible apply dryParts_of
    | intro _
    | with_reducible refine Dry.of_eq (by assumption) ?_
    | with_reducible refine Dry.of_eq_snd (by assumption) ?_
    | simp only [dry_mk]
    | split

theorem State.refuse_dry {r s : State} (h : r.Dry s) (a : Agent) (off : ℕ) : r.Dry (State.refuse s a off) := by
  unfold State.refuse
  repeat' first
    | with_reducible assumption
    | with_reducible exact Dry.refl _
    | with_reducible apply Dry.ite
    | with_reducible apply fnErr_dry
    | with_reducible apply dryParts_of
    | intro _
    | with_reducible refine Dry.of_eq (by assumption) ?_
    | with_reducible refine Dry.of_eq_snd (by assumption) ?_
    | simp only [dry_mk]
    | split

theorem State.applyFence_dry {r s : State} (h : r.Dry s) (x : ℕ) (y : ℕ) : r.Dry (State.applyFence s x y) := by
  unfold State.applyFence
  repeat' first
    | with_reducible assumption
    | with_reducible exact Dry.refl _
    | with_reducible apply Dry.ite
    | with_reducible apply setStrip_dry
    | with_reducible apply dryParts_of
    | intro _
    | with_reducible refine Dry.of_eq (by assumption) ?_
    | with_reducible refine Dry.of_eq_snd (by assumption) ?_
    | simp only [dry_mk]
    | split

theorem State.applyUnfence_dry {r s : State} (h : r.Dry s) (x : ℕ) (y : ℕ) : r.Dry (State.applyUnfence s x y) := by
  unfold State.applyUnfence
  repeat' first
    | with_reducible assumption
    | with_reducible exact Dry.refl _
    | with_reducible apply Dry.ite
    | with_reducible apply setStrip_dry
    | with_reducible apply dryParts_of
    | intro _
    | with_reducible refine Dry.of_eq (by assumption) ?_
    | with_reducible refine Dry.of_eq_snd (by assumption) ?_
    | simp only [dry_mk]
    | split

theorem State.syncStrip_dry {r s : State} (h : r.Dry s) (old : State) (k : ℕ) : r.Dry (State.syncStrip old s k) := by
  unfold State.syncStrip
  repeat' first
    | with_reducible assumption
    | with_reducible exact Dry.refl _
    | with_reducible apply Dry.ite
    | with_reducible apply wr_dry
    | with_reducible apply mark_dry
    | with_reducible apply dryParts_of
    | intro _
    | with_reducible refine Dry.of_eq (by assumption) ?_
    | with_reducible refine Dry.of_eq_snd (by assumption) ?_
    | simp only [dry_mk]
    | split

theorem State.startClearing_dry {r s : State} (h : r.Dry s) (k : ℕ) : r.Dry (State.startClearing s k) := by
  unfold State.startClearing
  repeat' first
    | with_reducible assumption
    | with_reducible exact Dry.refl _
    | with_reducible apply Dry.ite
    | with_reducible apply wr_dry
    | with_reducible apply dryParts_of
    | intro _
    | with_reducible refine Dry.of_eq (by assumption) ?_
    | with_reducible refine Dry.of_eq_snd (by assumption) ?_
    | simp only [dry_mk]
    | split

theorem State.syncPending_dry {r s : State} (h : r.Dry s) (q : ℕ) : r.Dry (State.syncPending s q) := by
  unfold State.syncPending
  repeat' first
    | with_reducible assumption
    | with_reducible exact Dry.refl _
    | with_reducible apply Dry.ite
    | with_reducible apply wr_dry
    | with_reducible apply dryParts_of
    | intro _
    | with_reducible refine Dry.of_eq (by assumption) ?_
    | with_reducible refine Dry.of_eq_snd (by assumption) ?_
    | simp only [dry_mk]
    | split

theorem State.trimQuarter_dry {r s : State} (h : r.Dry s) (q : ℕ) : r.Dry (State.trimQuarter s q) := by
  unfold State.trimQuarter
  repeat' first
    | with_reducible assumption
    | with_reducible exact Dry.refl _
    | with_reducible apply Dry.ite
    | with_reducible apply startClearing_dry
    | with_reducible apply mark_dry
    | with_reducible apply wr_dry
    | with_reducible apply syncPending_dry
    | with_reducible refine Dry.foldl ?_ (fun u x => ?_)
    | with_reducible refine Dry.foldl_fst ?_ (fun u x => ?_)
    | with_reducible apply dryParts_of
    | intro _
    | with_reducible refine Dry.of_eq (by assumption) ?_
    | with_reducible refine Dry.of_eq_snd (by assumption) ?_
    | simp only [dry_mk]
    | split

theorem State.applyFences_dry {r s : State} (h : r.Dry s) : r.Dry (State.applyFences s) := by
  unfold State.applyFences
  repeat' first
    | with_reducible assumption
    | with_reducible exact Dry.refl _
    | with_reducible apply Dry.ite
    | with_reducible apply applyUnfence_dry
    | with_reducible apply applyFence_dry
    | with_reducible apply wr_dry
    | with_reducible apply syncStrip_dry
    | with_reducible apply mark_dry
    | with_reducible apply trimQuarter_dry
    | with_reducible refine Dry.foldl ?_ (fun u x => ?_)
    | with_reducible refine Dry.foldl_fst ?_ (fun u x => ?_)
    | with_reducible apply dryParts_of
    | intro _
    | with_reducible refine Dry.of_eq (by assumption) ?_
    | with_reducible refine Dry.of_eq_snd (by assumption) ?_
    | simp only [dry_mk]
    | split

theorem State.loseScratch_dry {r s : State} (h : r.Dry s) (q : ℕ) : r.Dry (State.loseScratch s q) := by
  unfold State.loseScratch
  repeat' first
    | with_reducible assumption
    | with_reducible exact Dry.refl _
    | with_reducible apply Dry.ite
    | with_reducible apply addH_dry
    | with_reducible apply dryParts_of
    | intro _
    | with_reducible refine Dry.of_eq (by assumption) ?_
    | with_reducible refine Dry.of_eq_snd (by assumption) ?_
    | simp only [dry_mk]
    | split

theorem State.sizeRefused_dry {r s : State} (h : r.Dry s) (q : ℕ) : r.Dry (State.sizeRefused s q) := by
  unfold State.sizeRefused
  repeat' first
    | with_reducible assumption
    | with_reducible exact Dry.refl _
    | with_reducible apply Dry.ite
    | with_reducible apply fnErr_dry
    | with_reducible apply mark_dry
    | with_reducible apply dryParts_of
    | intro _
    | with_reducible refine Dry.of_eq (by assumption) ?_
    | with_reducible refine Dry.of_eq_snd (by assumption) ?_
    | simp only [dry_mk]
    | split

theorem State.applyAssign_dry {r s : State} (h : r.Dry s) (q : ℕ) : r.Dry (State.applyAssign s q) := by
  unfold State.applyAssign
  repeat' first
    | with_reducible assumption
    | with_reducible exact Dry.refl _
    | with_reducible apply Dry.ite
    | with_reducible apply sizeRefused_dry
    | with_reducible apply wr_dry
    | with_reducible apply startClearing_dry
    | with_reducible apply syncPending_dry
    | with_reducible refine Dry.foldl ?_ (fun u x => ?_)
    | with_reducible refine Dry.foldl_fst ?_ (fun u x => ?_)
    | with_reducible apply dryParts_of
    | intro _
    | with_reducible refine Dry.of_eq (by assumption) ?_
    | with_reducible refine Dry.of_eq_snd (by assumption) ?_
    | simp only [dry_mk]
    | split

theorem State.suspect_dry {r s : State} (h : r.Dry s) (x : ℕ) (y : ℕ) : r.Dry (State.suspect s x y).1 := by
  unfold State.suspect
  repeat' first
    | with_reducible assumption
    | with_reducible exact Dry.refl _
    | with_reducible apply Dry.ite
    | with_reducible apply Dry.ite_fst
    | with_reducible apply scanTo_dry
    | with_reducible apply wr_dry
    | with_reducible apply dryParts_of
    | intro _
    | with_reducible refine Dry.of_eq (by assumption) ?_
    | with_reducible refine Dry.of_eq_snd (by assumption) ?_
    | simp only [dry_mk]
    | split

theorem State.fenceReq_dry {r s : State} (h : r.Dry s) (x : ℕ) (y : ℕ) (action : ℕ) (fromMc : Bool) : r.Dry (State.fenceReq s x y action fromMc) := by
  unfold State.fenceReq
  repeat' first
    | with_reducible assumption
    | with_reducible exact Dry.refl _
    | with_reducible apply Dry.ite
    | with_reducible apply Dry.ite_fst
    | with_reducible apply mark_dry
    | with_reducible apply wr_dry
    | with_reducible apply suspect_dry
    | with_reducible apply dryParts_of
    | intro _
    | with_reducible refine Dry.of_eq (by assumption) ?_
    | with_reducible refine Dry.of_eq_snd (by assumption) ?_
    | simp only [dry_mk]
    | split

theorem State.retryAlloc_dry {r s : State} (h : r.Dry s) (q : ℕ) : r.Dry (State.retryAlloc s q) := by
  unfold State.retryAlloc
  repeat' first
    | with_reducible assumption
    | with_reducible exact Dry.refl _
    | with_reducible apply Dry.ite
    | with_reducible apply startAlloc_dry
    | with_reducible apply ev_dry
    | with_reducible apply dryParts_of
    | intro _
    | with_reducible refine Dry.of_eq (by assumption) ?_
    | with_reducible refine Dry.of_eq_snd (by assumption) ?_
    | simp only [dry_mk]
    | split

theorem State.collect_dry {r s : State} (h : r.Dry s) (f : State → ℕ → State × Except ℕ Elems) (y2 : List ℕ) (hf : ∀ (u : State) w1, u.Dry (f u w1).1)
    : r.Dry (State.collect s f y2).1 := by
  induction y2 generalizing s with
  | nil =>
    unfold State.collect
    repeat' first
      | with_reducible assumption
      | with_reducible exact Dry.refl _
      | with_reducible apply Dry.ite
      | with_reducible apply Dry.ite_fst
      | with_reducible refine Dry.trans ?_ (hf _ _)
      | with_reducible apply dryParts_of
      | intro _
      | with_reducible refine Dry.of_eq (by assumption) ?_
      | with_reducible refine Dry.of_eq_snd (by assumption) ?_
      | simp only [dry_mk]
      | split
  | cons z l ih =>
    unfold State.collect
    repeat' first
      | with_reducible assumption
      | with_reducible exact Dry.refl _
      | with_reducible apply Dry.ite
      | with_reducible apply Dry.ite_fst
      | with_reducible refine Dry.trans ?_ (hf _ _)
      | with_reducible apply ih
      | with_reducible apply dryParts_of
      | intro _
      | with_reducible refine Dry.of_eq (by assumption) ?_
      | with_reducible refine Dry.of_eq_snd (by assumption) ?_
      | simp only [dry_mk]
      | split

theorem State.mergeFlags_dry {r s : State} (h : r.Dry s) (q : ℕ) (fl : ℕ) : r.Dry (State.mergeFlags s q fl) := by
  unfold State.mergeFlags
  repeat' first
    | with_reducible assumption
    | with_reducible exact Dry.refl _
    | with_reducible apply Dry.ite
    | with_reducible apply mark_dry
    | with_reducible refine Dry.foldl ?_ (fun u x => ?_)
    | with_reducible refine Dry.foldl_fst ?_ (fun u x => ?_)
    | with_reducible apply dryParts_of
    | intro _
    | with_reducible refine Dry.of_eq (by assumption) ?_
    | with_reducible refine Dry.of_eq_snd (by assumption) ?_
    | simp only [dry_mk]
    | split

theorem State.histCount_dry {r s : State} (h : r.Dry s) (q : ℕ) (slot : ℕ) (e : ℕ × ℕ) : r.Dry (State.histCount s q slot e) := by
  unfold State.histCount
  repeat' first
    | with_reducible assumption
    | with_reducible exact Dry.refl _
    | with_reducible apply Dry.ite
    | with_reducible apply wr_dry
    | with_reducible apply mark_dry
    | with_reducible apply dryParts_of
    | intro _
    | with_reducible refine Dry.of_eq (by assumption) ?_
    | with_reducible refine Dry.of_eq_snd (by assumption) ?_
    | simp only [dry_mk]
    | split

theorem State.histCommit_dry {r s : State} (h : r.Dry s) (q : ℕ) (slot : ℕ) (hist : List (ℕ × ℕ)) : r.Dry (State.histCommit s q slot hist) := by
  unfold State.histCommit
  repeat' first
    | with_reducible assumption
    | with_reducible exact Dry.refl _
    | with_reducible apply Dry.ite
    | with_reducible apply histCount_dry
    | with_reducible refine Dry.foldl ?_ (fun u x => ?_)
    | with_reducible refine Dry.foldl_fst ?_ (fun u x => ?_)
    | with_reducible apply dryParts_of
    | intro _
    | with_reducible refine Dry.of_eq (by assumption) ?_
    | with_reducible refine Dry.of_eq_snd (by assumption) ?_
    | simp only [dry_mk]
    | split

theorem State.histZero_dry {r s : State} (h : r.Dry s) (q : ℕ) (slot : ℕ) : r.Dry (State.histZero s q slot) := by
  unfold State.histZero
  repeat' first
    | with_reducible assumption
    | with_reducible exact Dry.refl _
    | with_reducible apply Dry.ite
    | with_reducible apply wr_dry
    | with_reducible refine Dry.foldl ?_ (fun u x => ?_)
    | with_reducible refine Dry.foldl_fst ?_ (fun u x => ?_)
    | with_reducible apply dryParts_of
    | intro _
    | with_reducible refine Dry.of_eq (by assumption) ?_
    | with_reducible refine Dry.of_eq_snd (by assumption) ?_
    | simp only [dry_mk]
    | split

theorem State.histClear_dry {r s : State} (h : r.Dry s) (q : ℕ) (slot : ℕ) : r.Dry (State.histClear s q slot) := by
  unfold State.histClear
  repeat' first
    | with_reducible assumption
    | with_reducible exact Dry.refl _
    | with_reducible apply Dry.ite
    | with_reducible apply histZero_dry
    | with_reducible apply histCount_dry
    | with_reducible refine Dry.foldl ?_ (fun u x => ?_)
    | with_reducible refine Dry.foldl_fst ?_ (fun u x => ?_)
    | with_reducible apply dryParts_of
    | intro _
    | with_reducible refine Dry.of_eq (by assumption) ?_
    | with_reducible refine Dry.of_eq_snd (by assumption) ?_
    | simp only [dry_mk]
    | split

theorem State.laterReqs_dry {r s : State} (h : r.Dry s) (id : ℕ) (n : ℕ) (p : Need → Bool) : r.Dry (State.laterReqs s id n p) := by
  unfold State.laterReqs
  repeat' first
    | with_reducible assumption
    | with_reducible exact Dry.refl _
    | with_reducible apply Dry.ite
    | with_reducible apply dryParts_of
    | intro _
    | with_reducible refine Dry.of_eq (by assumption) ?_
    | with_reducible refine Dry.of_eq_snd (by assumption) ?_
    | simp only [dry_mk]
    | split

theorem State.freezeBlank_dry {r s : State} (h : r.Dry s) (id : ℕ) (n : ℕ) : r.Dry (State.freezeBlank s id n) := by
  unfold State.freezeBlank
  repeat' first
    | with_reducible assumption
    | with_reducible exact Dry.refl _
    | with_reducible apply Dry.ite
    | with_reducible apply laterReqs_dry
    | with_reducible apply updOp_dry
    | with_reducible apply ev_dry
    | with_reducible apply dryParts_of
    | intro _
    | with_reducible refine Dry.of_eq (by assumption) ?_
    | with_reducible refine Dry.of_eq_snd (by assumption) ?_
    | simp only [dry_mk]
    | split

theorem State.delayPreload_dry {r s : State} (h : r.Dry s) (id : ℕ) (n : ℕ) : r.Dry (State.delayPreload s id n) := by
  unfold State.delayPreload
  repeat' first
    | with_reducible assumption
    | with_reducible exact Dry.refl _
    | with_reducible apply Dry.ite
    | with_reducible apply laterReqs_dry
    | with_reducible apply updOp_dry
    | with_reducible apply dryParts_of
    | intro _
    | with_reducible refine Dry.of_eq (by assumption) ?_
    | with_reducible refine Dry.of_eq_snd (by assumption) ?_
    | simp only [dry_mk]
    | split

theorem State.arrive_dry {r s : State} (h : r.Dry s) (id : ℕ) (e : Need) : r.Dry (State.arrive s id e) := by
  unfold State.arrive
  repeat' first
    | with_reducible assumption
    | with_reducible exact Dry.refl _
    | with_reducible apply Dry.ite
    | with_reducible apply delayPreload_dry
    | with_reducible apply freezeBlank_dry
    | with_reducible apply dryParts_of
    | intro _
    | with_reducible refine Dry.of_eq (by assumption) ?_
    | with_reducible refine Dry.of_eq_snd (by assumption) ?_
    | simp only [dry_mk]
    | split

theorem State.countFrozen_dry {r s : State} (h : r.Dry s) (o : Op) : r.Dry (State.countFrozen s o) := by
  unfold State.countFrozen
  repeat' first
    | with_reducible assumption
    | with_reducible exact Dry.refl _
    | with_reducible apply Dry.ite
    | with_reducible apply ev_dry
    | with_reducible refine Dry.foldl ?_ (fun u x => ?_)
    | with_reducible refine Dry.foldl_fst ?_ (fun u x => ?_)
    | with_reducible apply dryParts_of
    | intro _
    | with_reducible refine Dry.of_eq (by assumption) ?_
    | with_reducible refine Dry.of_eq_snd (by assumption) ?_
    | simp only [dry_mk]
    | split

theorem State.collectAll_dry {r s : State} (h : r.Dry s) (f : State → ℕ → State × Except ℕ (List Elems)) (y2 : List ℕ) (hf : ∀ (u : State) w1, u.Dry
    (f u w1).1) : r.Dry (State.collectAll s f y2).1 := by
  induction y2 generalizing s with
  | nil =>
    unfold State.collectAll
    repeat' first
      | with_reducible assumption
      | with_reducible exact Dry.refl _
      | with_reducible apply Dry.ite
      | with_reducible apply Dry.ite_fst
      | with_reducible refine Dry.trans ?_ (hf _ _)
      | with_reducible apply dryParts_of
      | intro _
      | with_reducible refine Dry.of_eq (by assumption) ?_
      | with_reducible refine Dry.of_eq_snd (by assumption) ?_
      | simp only [dry_mk]
      | split
  | cons z l ih =>
    unfold State.collectAll
    repeat' first
      | with_reducible assumption
      | with_reducible exact Dry.refl _
      | with_reducible apply Dry.ite
      | with_reducible apply Dry.ite_fst
      | with_reducible refine Dry.trans ?_ (hf _ _)
      | with_reducible apply ih
      | with_reducible apply dryParts_of
      | intro _
      | with_reducible refine Dry.of_eq (by assumption) ?_
      | with_reducible refine Dry.of_eq_snd (by assumption) ?_
      | simp only [dry_mk]
      | split

theorem State.repeatHit_dry {r s : State} (h : r.Dry s) (o : Op) : r.Dry (State.repeatHit s o).1 := by
  unfold State.repeatHit
  repeat' first
    | with_reducible assumption
    | with_reducible exact Dry.refl _
    | with_reducible apply Dry.ite
    | with_reducible apply Dry.ite_fst
    | with_reducible apply dryParts_of
    | intro _
    | with_reducible refine Dry.of_eq (by assumption) ?_
    | with_reducible refine Dry.of_eq_snd (by assumption) ?_
    | simp only [dry_mk]
    | split

theorem State.repeatClear_dry {r s : State} (h : r.Dry s) (o : Op) : r.Dry (State.repeatClear s o) := by
  unfold State.repeatClear
  repeat' first
    | with_reducible assumption
    | with_reducible exact Dry.refl _
    | with_reducible apply Dry.ite
    | with_reducible apply dryParts_of
    | intro _
    | with_reducible refine Dry.of_eq (by assumption) ?_
    | with_reducible refine Dry.of_eq_snd (by assumption) ?_
    | simp only [dry_mk]
    | split

theorem State.beginUnit_dry {r s : State} (h : r.Dry s) (o : Op) (pos : UnitPos) (swap : Bool) (faults : List TileFault) : r.Dry (State.beginUnit s o
    pos swap faults) := by
  unfold State.beginUnit
  repeat' first
    | with_reducible assumption
    | with_reducible exact Dry.refl _
    | with_reducible apply Dry.ite
    | with_reducible apply ev_dry
    | with_reducible apply laterReqs_dry
    | with_reducible apply setOp_dry
    | with_reducible apply dryParts_of
    | intro _
    | with_reducible refine Dry.of_eq (by assumption) ?_
    | with_reducible refine Dry.of_eq_snd (by assumption) ?_
    | simp only [dry_mk]
    | split

theorem execOperationStart_dry (id : ℕ) (t : ℕ) {s : State} : s.DryNext (execOperationStart id t s) := by
  unfold execOperationStart
  repeat' first
    | with_reducible assumption
    | with_reducible exact Dry.refl _
    | with_reducible apply DryNext.next
    | with_reducible apply DryNext.ite
    | with_reducible apply Dry.ite
    | with_reducible apply goTo_dry
    | with_reducible apply setOp_dry
    | with_reducible apply dryParts_of
    | intro _
    | with_reducible refine Dry.of_eq (by assumption) ?_
    | with_reducible refine Dry.of_eq_snd (by assumption) ?_
    | simp only [dry_mk]
    | split

theorem State.passUnit_dry {r s : State} (h : r.Dry s) (o : Op) (u : WorkUnit) : r.Dry (State.passUnit s o u) := by
  unfold State.passUnit
  repeat' first
    | with_reducible assumption
    | with_reducible exact Dry.refl _
    | with_reducible apply Dry.ite
    | with_reducible apply repeatClear_dry
    | with_reducible apply histCommit_dry
    | with_reducible apply mergeFlags_dry
    | with_reducible apply dryParts_of
    | intro _
    | with_reducible refine Dry.of_eq (by assumption) ?_
    | with_reducible refine Dry.of_eq_snd (by assumption) ?_
    | simp only [dry_mk]
    | split

theorem State.syncOut_dry {r s : State} (h : r.Dry s) (e : ℕ) : r.Dry (State.syncOut s e) := by
  unfold State.syncOut
  repeat' first
    | with_reducible assumption
    | with_reducible exact Dry.refl _
    | with_reducible apply Dry.ite
    | with_reducible apply wr_dry
    | with_reducible apply dryParts_of
    | intro _
    | with_reducible refine Dry.of_eq (by assumption) ?_
    | with_reducible refine Dry.of_eq_snd (by assumption) ?_
    | simp only [dry_mk]
    | split

theorem State.giveBack_dry {r0 s : State} (h : r0.Dry s) (r : Req) : r0.Dry (State.giveBack s r) := by
  unfold State.giveBack
  repeat' first
    | with_reducible assumption
    | with_reducible exact Dry.refl _
    | with_reducible apply Dry.ite
    | with_reducible apply updOp_dry
    | with_reducible apply dryParts_of
    | intro _
    | with_reducible refine Dry.of_eq (by assumption) ?_
    | with_reducible refine Dry.of_eq_snd (by assumption) ?_
    | simp only [dry_mk]
    | split

theorem State.resumeFaulted_dry {r s : State} (h : r.Dry s) : r.Dry (State.resumeFaulted s) := by
  unfold State.resumeFaulted
  repeat' first
    | with_reducible assumption
    | with_reducible exact Dry.refl _
    | with_reducible apply Dry.ite
    | with_reducible apply syncOut_dry
    | with_reducible apply giveBack_dry
    | with_reducible refine Dry.foldl ?_ (fun u x => ?_)
    | with_reducible refine Dry.foldl_fst ?_ (fun u x => ?_)
    | with_reducible apply dryParts_of
    | intro _
    | with_reducible refine Dry.of_eq (by assumption) ?_
    | with_reducible refine Dry.of_eq_snd (by assumption) ?_
    | simp only [dry_mk]
    | split

theorem State.takeNeed_dry {r s : State} (h : r.Dry s) (id : ℕ) (e : Need) : r.Dry (State.takeNeed s id e) := by
  unfold State.takeNeed
  repeat' first
    | with_reducible assumption
    | with_reducible exact Dry.refl _
    | with_reducible apply Dry.ite
    | with_reducible apply updOp_dry
    | with_reducible apply dryParts_of
    | intro _
    | with_reducible refine Dry.of_eq (by assumption) ?_
    | with_reducible refine Dry.of_eq_snd (by assumption) ?_
    | simp only [dry_mk]
    | split

theorem State.addReq_dry {r0 s : State} (h : r0.Dry s) (r : Req) : r0.Dry (State.addReq s r) := by
  unfold State.addReq
  repeat' first
    | with_reducible assumption
    | with_reducible exact Dry.refl _
    | with_reducible apply Dry.ite
    | with_reducible apply addH_dry
    | with_reducible apply dryParts_of
    | intro _
    | with_reducible refine Dry.of_eq (by assumption) ?_
    | with_reducible refine Dry.of_eq_snd (by assumption) ?_
    | simp only [dry_mk]
    | split

theorem State.holdFault_dry {r s : State} (h : r.Dry s) (eng : ℕ) (o : Op) (e : Need) : r.Dry (State.holdFault s eng o e) := by
  unfold State.holdFault
  repeat' first
    | with_reducible assumption
    | with_reducible exact Dry.refl _
    | with_reducible apply Dry.ite
    | with_reducible apply syncOut_dry
    | with_reducible apply addReq_dry
    | with_reducible apply takeNeed_dry
    | with_reducible apply dryParts_of
    | intro _
    | with_reducible refine Dry.of_eq (by assumption) ?_
    | with_reducible refine Dry.of_eq_snd (by assumption) ?_
    | simp only [dry_mk]
    | split

theorem State.tagsWait_dry {r s : State} (h : r.Dry s) (q : ℕ) (e : ℕ) (on : Bool) : r.Dry (State.tagsWait s q e on) := by
  unfold State.tagsWait
  repeat' first
    | with_reducible assumption
    | with_reducible exact Dry.refl _
    | with_reducible apply Dry.ite
    | with_reducible apply span_dry
    | with_reducible apply dryParts_of
    | intro _
    | with_reducible refine Dry.of_eq (by assumption) ?_
    | with_reducible refine Dry.of_eq_snd (by assumption) ?_
    | simp only [dry_mk]
    | split

theorem State.issueReq_dry {r s : State} (h : r.Dry s) (eng : ℕ) (c : State.Cand) : r.Dry (State.issueReq s eng c) := by
  unfold State.issueReq
  repeat' first
    | with_reducible assumption
    | with_reducible exact Dry.refl _
    | with_reducible apply Dry.ite
    | with_reducible apply addReq_dry
    | with_reducible apply takeNeed_dry
    | with_reducible apply enqueue_dry
    | with_reducible apply ev_dry
    | with_reducible apply bump_dry
    | with_reducible apply syncOut_dry
    | with_reducible apply setH_dry
    | with_reducible apply dryParts_of
    | intro _
    | with_reducible refine Dry.of_eq (by assumption) ?_
    | with_reducible refine Dry.of_eq_snd (by assumption) ?_
    | simp only [dry_mk]
    | split

theorem State.serveUntil_dry {r s : State} (h : r.Dry s) (sid : ℕ) (y2 : ℕ) : r.Dry (State.serveUntil s sid y2) := by
  induction y2 generalizing s sid with
  | zero =>
    unfold State.serveUntil
    repeat' first
      | with_reducible assumption
      | with_reducible exact Dry.refl _
      | with_reducible apply Dry.ite
      | with_reducible apply serveReq_dry
      | with_reducible apply dryParts_of
      | intro _
      | with_reducible refine Dry.of_eq (by assumption) ?_
      | with_reducible refine Dry.of_eq_snd (by assumption) ?_
      | simp only [dry_mk]
      | split
  | succ n0 ih =>
    unfold State.serveUntil
    repeat' first
      | with_reducible assumption
      | with_reducible exact Dry.refl _
      | with_reducible apply Dry.ite
      | with_reducible apply serveReq_dry
      | with_reducible apply ih
      | with_reducible apply dryParts_of
      | intro _
      | with_reducible refine Dry.of_eq (by assumption) ?_
      | with_reducible refine Dry.of_eq_snd (by assumption) ?_
      | simp only [dry_mk]
      | split

theorem State.freeReq_dry {r0 s : State} (h : r0.Dry s) (r : Req) : r0.Dry (State.freeReq s r) := by
  unfold State.freeReq
  repeat' first
    | with_reducible assumption
    | with_reducible exact Dry.refl _
    | with_reducible apply Dry.ite
    | with_reducible apply tagsWait_dry
    | with_reducible apply syncOut_dry
    | with_reducible apply dryParts_of
    | intro _
    | with_reducible refine Dry.of_eq (by assumption) ?_
    | with_reducible refine Dry.of_eq_snd (by assumption) ?_
    | simp only [dry_mk]
    | split

theorem State.syncFe_dry {r s : State} (h : r.Dry s) (e : ℕ) : r.Dry (State.syncFe s e) := by
  unfold State.syncFe
  repeat' first
    | with_reducible assumption
    | with_reducible exact Dry.refl _
    | with_reducible apply Dry.ite
    | with_reducible apply wr_dry
    | with_reducible apply dryParts_of
    | intro _
    | with_reducible refine Dry.of_eq (by assumption) ?_
    | with_reducible refine Dry.of_eq_snd (by assumption) ?_
    | simp only [dry_mk]
    | split

theorem State.feErr_dry {r s : State} (h : r.Dry s) (f : Fld) (q : ℕ) (i : ℕ) : r.Dry (State.feErr s f q i) := by
  unfold State.feErr
  repeat' first
    | with_reducible assumption
    | with_reducible exact Dry.refl _
    | with_reducible apply Dry.ite
    | with_reducible apply mark_dry
    | with_reducible apply wr_dry
    | with_reducible apply dryParts_of
    | intro _
    | with_reducible refine Dry.of_eq (by assumption) ?_
    | with_reducible refine Dry.of_eq_snd (by assumption) ?_
    | simp only [dry_mk]
    | split

theorem State.messageWait_dry {r s : State} (h : r.Dry s) (q : ℕ) (e : ℕ) (why : Option ℕ) : r.Dry (State.messageWait s q e why) := by
  unfold State.messageWait
  repeat' first
    | with_reducible assumption
    | with_reducible exact Dry.refl _
    | with_reducible apply Dry.ite
    | with_reducible apply span_dry
    | with_reducible apply dryParts_of
    | intro _
    | with_reducible refine Dry.of_eq (by assumption) ?_
    | with_reducible refine Dry.of_eq_snd (by assumption) ?_
    | simp only [dry_mk]
    | split

theorem State.feDone_dry {r s : State} (h : r.Dry s) (id : ℕ) : r.Dry (State.feDone s id) := by
  unfold State.feDone
  repeat' first
    | with_reducible assumption
    | with_reducible exact Dry.refl _
    | with_reducible apply Dry.ite
    | with_reducible apply setOp_dry
    | with_reducible apply dryParts_of
    | intro _
    | with_reducible refine Dry.of_eq (by assumption) ?_
    | with_reducible refine Dry.of_eq_snd (by assumption) ?_
    | simp only [dry_mk]
    | split

theorem State.startAck_dry {r s : State} (h : r.Dry s) (q : ℕ) (i : ℕ) : r.Dry (State.startAck s q i) := by
  unfold State.startAck
  repeat' first
    | with_reducible assumption
    | with_reducible exact Dry.refl _
    | with_reducible apply Dry.ite
    | with_reducible apply setH_dry
    | with_reducible apply dryParts_of
    | intro _
    | with_reducible refine Dry.of_eq (by assumption) ?_
    | with_reducible refine Dry.of_eq_snd (by assumption) ?_
    | simp only [dry_mk]
    | split

theorem State.feNote_dry {r s : State} (h : r.Dry s) (id : ℕ) (n : ℕ) (bad : Bool) (fl : ℕ) : r.Dry (State.feNote s id n bad fl) := by
  unfold State.feNote
  repeat' first
    | with_reducible assumption
    | with_reducible exact Dry.refl _
    | with_reducible apply Dry.ite
    | with_reducible apply setOp_dry
    | with_reducible apply mergeFlags_dry
    | with_reducible apply dryParts_of
    | intro _
    | with_reducible refine Dry.of_eq (by assumption) ?_
    | with_reducible refine Dry.of_eq_snd (by assumption) ?_
    | simp only [dry_mk]
    | split

theorem State.applyCredits_dry {r s : State} (h : r.Dry s) : r.Dry (State.applyCredits s) := by
  unfold State.applyCredits
  repeat' first
    | with_reducible assumption
    | with_reducible exact Dry.refl _
    | with_reducible apply Dry.ite
    | with_reducible apply mark_dry
    | with_reducible apply wr_dry
    | with_reducible refine Dry.foldl ?_ (fun u x => ?_)
    | with_reducible refine Dry.foldl_fst ?_ (fun u x => ?_)
    | with_reducible apply dryParts_of
    | intro _
    | with_reducible refine Dry.of_eq (by assumption) ?_
    | with_reducible refine Dry.of_eq_snd (by assumption) ?_
    | simp only [dry_mk]
    | split

theorem State.dropTlb_dry {r s : State} (h : r.Dry s) (q : ℕ) (va : ℕ) (n : ℕ) : r.Dry (State.dropTlb s q va n) := by
  unfold State.dropTlb
  repeat' first
    | with_reducible assumption
    | with_reducible exact Dry.refl _
    | with_reducible apply Dry.ite
    | with_reducible apply dryParts_of
    | intro _
    | with_reducible refine Dry.of_eq (by assumption) ?_
    | with_reducible refine Dry.of_eq_snd (by assumption) ?_
    | simp only [dry_mk]
    | split

theorem State.noteMovePoison_dry {r s : State} (h : r.Dry s) (id : ℕ) (bad : Bool) : r.Dry (State.noteMovePoison s id bad) := by
  unfold State.noteMovePoison
  repeat' first
    | with_reducible assumption
    | with_reducible exact Dry.refl _
    | with_reducible apply Dry.ite
    | with_reducible apply updOp_dry
    | with_reducible apply dryParts_of
    | intro _
    | with_reducible refine Dry.of_eq (by assumption) ?_
    | with_reducible refine Dry.of_eq_snd (by assumption) ?_
    | simp only [dry_mk]
    | split

theorem State.nextPage_dry {r s : State} (h : r.Dry s) (id : ℕ) : r.Dry (State.nextPage s id) := by
  unfold State.nextPage
  repeat' first
    | with_reducible assumption
    | with_reducible exact Dry.refl _
    | with_reducible apply Dry.ite
    | with_reducible apply updOp_dry
    | with_reducible apply dryParts_of
    | intro _
    | with_reducible refine Dry.of_eq (by assumption) ?_
    | with_reducible refine Dry.of_eq_snd (by assumption) ?_
    | simp only [dry_mk]
    | split

theorem State.switchReplica_dry {r s : State} (h : r.Dry s) (id : ℕ) (x : ℕ) : r.Dry (State.switchReplica s id x) := by
  unfold State.switchReplica
  repeat' first
    | with_reducible assumption
    | with_reducible exact Dry.refl _
    | with_reducible apply Dry.ite
    | with_reducible apply bump_dry
    | with_reducible apply updOp_dry
    | with_reducible apply laterReqs_dry
    | with_reducible apply dryParts_of
    | intro _
    | with_reducible refine Dry.of_eq (by assumption) ?_
    | with_reducible refine Dry.of_eq_snd (by assumption) ?_
    | simp only [dry_mk]
    | split

theorem State.syncFrames_dry {r s : State} (h : r.Dry s) (d : ℕ) : r.Dry (State.syncFrames s d) := by
  unfold State.syncFrames
  repeat' first
    | with_reducible assumption
    | with_reducible exact Dry.refl _
    | with_reducible apply Dry.ite
    | with_reducible apply wr_dry
    | with_reducible apply dryParts_of
    | intro _
    | with_reducible refine Dry.of_eq (by assumption) ?_
    | with_reducible refine Dry.of_eq_snd (by assumption) ?_
    | simp only [dry_mk]
    | split

theorem State.memRetire_dry {r s : State} (h : r.Dry s) (fromMc : Bool) (val : ℕ) : r.Dry (State.memRetire s fromMc val) := by
  unfold State.memRetire
  repeat' first
    | with_reducible assumption
    | with_reducible exact Dry.refl _
    | with_reducible apply Dry.ite
    | with_reducible apply fnErr_dry
    | with_reducible apply wr_dry
    | with_reducible apply dryParts_of
    | intro _
    | with_reducible refine Dry.of_eq (by assumption) ?_
    | with_reducible refine Dry.of_eq_snd (by assumption) ?_
    | simp only [dry_mk]
    | split

theorem State.loseBay_dry {r s : State} (h : r.Dry s) (d : ℕ) : r.Dry (State.loseBay s d) := by
  unfold State.loseBay
  repeat' first
    | with_reducible assumption
    | with_reducible exact Dry.refl _
    | with_reducible apply Dry.ite
    | with_reducible apply giveBack_dry
    | with_reducible apply ev_dry
    | with_reducible apply bump_dry
    | with_reducible apply syncOut_dry
    | with_reducible apply wr_dry
    | with_reducible apply setH_dry
    | with_reducible refine Dry.foldl ?_ (fun u x => ?_)
    | with_reducible refine Dry.foldl_fst ?_ (fun u x => ?_)
    | with_reducible apply dryParts_of
    | intro _
    | with_reducible refine Dry.of_eq (by assumption) ?_
    | with_reducible refine Dry.of_eq_snd (by assumption) ?_
    | simp only [dry_mk]
    | split

theorem State.bayOpens_dry {r s : State} (h : r.Dry s) (d : ℕ) : r.Dry (State.bayOpens s d) := by
  unfold State.bayOpens
  repeat' first
    | with_reducible assumption
    | with_reducible exact Dry.refl _
    | with_reducible apply Dry.ite
    | with_reducible apply wr_dry
    | with_reducible apply loseBay_dry
    | with_reducible apply dryParts_of
    | intro _
    | with_reducible refine Dry.of_eq (by assumption) ?_
    | with_reducible refine Dry.of_eq_snd (by assumption) ?_
    | simp only [dry_mk]
    | split

theorem execMemoryRequest_dry (tier : ℕ) (unit : ℕ) (r : MemReq) (serve : Bool) {s : State} : s.DryNext (execMemoryRequest tier unit r serve s) := by
  unfold execMemoryRequest
  repeat' first
    | with_reducible assumption
    | with_reducible exact Dry.refl _
    | with_reducible apply DryNext.next
    | with_reducible apply DryNext.ite
    | with_reducible apply Dry.ite
    | with_reducible apply enqueue_dry
    | with_reducible apply serveReq_dry
    | with_reducible apply dryParts_of
    | intro _
    | with_reducible refine Dry.of_eq (by assumption) ?_
    | with_reducible refine Dry.of_eq_snd (by assumption) ?_
    | simp only [dry_mk]
    | split

theorem execBankRefresh_dry (tier : ℕ) (unit : ℕ) (ch : ℕ) (bank : ℕ) {s : State} : s.DryNext (execBankRefresh tier unit ch bank s) := by
  unfold execBankRefresh
  repeat' first
    | with_reducible assumption
    | with_reducible exact Dry.refl _
    | with_reducible apply DryNext.next
    | with_reducible apply DryNext.ite
    | with_reducible apply Dry.ite
    | with_reducible apply dryParts_of
    | intro _
    | with_reducible refine Dry.of_eq (by assumption) ?_
    | with_reducible refine Dry.of_eq_snd (by assumption) ?_
    | simp only [dry_mk]
    | split

theorem execLaneFailure_dry (k : ℕ) (p : ℕ) (lane : ℕ) {s : State} : s.DryNext (execLaneFailure k p lane s) := by
  unfold execLaneFailure
  repeat' first
    | with_reducible assumption
    | with_reducible exact Dry.refl _
    | with_reducible apply DryNext.next
    | with_reducible apply DryNext.ite
    | with_reducible apply Dry.ite
    | with_reducible apply laneFails_dry
    | with_reducible apply dryParts_of
    | intro _
    | with_reducible refine Dry.of_eq (by assumption) ?_
    | with_reducible refine Dry.of_eq_snd (by assumption) ?_
    | simp only [dry_mk]
    | split

theorem execLaneRemap_dry (k : ℕ) (p : ℕ) {s : State} : s.DryNext (execLaneRemap k p s) := by
  unfold execLaneRemap
  repeat' first
    | with_reducible assumption
    | with_reducible exact Dry.refl _
    | with_reducible apply DryNext.next
    | with_reducible apply DryNext.ite
    | with_reducible apply Dry.ite
    | with_reducible apply goTo_dry
    | with_reducible apply setH_dry
    | with_reducible apply dryParts_of
    | intro _
    | with_reducible refine Dry.of_eq (by assumption) ?_
    | with_reducible refine Dry.of_eq_snd (by assumption) ?_
    | simp only [dry_mk]
    | split

theorem execSpareTrained_dry (k : ℕ) (p : ℕ) (ok : Bool) {s : State} : s.DryNext (execSpareTrained k p ok s) := by
  unfold execSpareTrained
  repeat' first
    | with_reducible assumption
    | with_reducible exact Dry.refl _
    | with_reducible apply DryNext.next
    | with_reducible apply DryNext.ite
    | with_reducible apply Dry.ite
    | with_reducible apply goTo_dry
    | with_reducible apply setH_dry
    | with_reducible apply wr_dry
    | with_reducible apply requestRetire_dry
    | with_reducible apply dryParts_of
    | intro _
    | with_reducible refine Dry.of_eq (by assumption) ?_
    | with_reducible refine Dry.of_eq_snd (by assumption) ?_
    | simp only [dry_mk]
    | split

theorem execRetirementCopyComplete_dry (k : ℕ) {s : State} : s.DryNext (execRetirementCopyComplete k s) := by
  unfold execRetirementCopyComplete
  repeat' first
    | with_reducible assumption
    | with_reducible exact Dry.refl _
    | with_reducible apply DryNext.next
    | with_reducible apply DryNext.ite
    | with_reducible apply Dry.ite
    | with_reducible apply setH_dry
    | with_reducible apply wr_dry
    | with_reducible refine Dry.foldl ?_ (fun u x => ?_)
    | with_reducible refine Dry.foldl_fst ?_ (fun u x => ?_)
    | with_reducible apply dryParts_of
    | intro _
    | with_reducible refine Dry.of_eq (by assumption) ?_
    | with_reducible refine Dry.of_eq_snd (by assumption) ?_
    | simp only [dry_mk]
    | split

theorem execRepairApply_dry (k : ℕ) (fits : Bool) {s : State} : s.DryNext (execRepairApply k fits s) := by
  unfold execRepairApply
  repeat' first
    | with_reducible assumption
    | with_reducible exact Dry.refl _
    | with_reducible apply DryNext.next
    | with_reducible apply DryNext.ite
    | with_reducible apply Dry.ite
    | with_reducible apply goTo_dry
    | with_reducible apply dryParts_of
    | intro _
    | with_reducible refine Dry.of_eq (by assumption) ?_
    | with_reducible refine Dry.of_eq_snd (by assumption) ?_
    | simp only [dry_mk]
    | split

theorem State.badFrame_dry {r s : State} (h : r.Dry s) (d : ℕ) (val : ℕ) : r.Dry (State.badFrame s d val) := by
  unfold State.badFrame
  repeat' first
    | with_reducible assumption
    | with_reducible exact Dry.refl _
    | with_reducible apply Dry.ite
    | with_reducible apply mark_dry
    | with_reducible apply setH_dry
    | with_reducible apply syncFrames_dry
    | with_reducible apply wr_dry
    | with_reducible apply dryParts_of
    | intro _
    | with_reducible refine Dry.of_eq (by assumption) ?_
    | with_reducible refine Dry.of_eq_snd (by assumption) ?_
    | simp only [dry_mk]
    | split

theorem State.askWithdraw_dry {r s : State} (h : r.Dry s) (who : ℕ) (d : ℕ) : r.Dry (State.askWithdraw s who d) := by
  unfold State.askWithdraw
  repeat' first
    | with_reducible assumption
    | with_reducible exact Dry.refl _
    | with_reducible apply Dry.ite
    | with_reducible apply setH_dry
    | with_reducible apply wr_dry
    | with_reducible apply fnErr_dry
    | with_reducible apply dryParts_of
    | intro _
    | with_reducible refine Dry.of_eq (by assumption) ?_
    | with_reducible refine Dry.of_eq_snd (by assumption) ?_
    | simp only [dry_mk]
    | split

theorem State.askService_dry {r s : State} (h : r.Dry s) (who : ℕ) (d : ℕ) : r.Dry (State.askService s who d) := by
  unfold State.askService
  repeat' first
    | with_reducible assumption
    | with_reducible exact Dry.refl _
    | with_reducible apply Dry.ite
    | with_reducible apply fnErr_dry
    | with_reducible apply wr_dry
    | with_reducible apply syncFrames_dry
    | with_reducible apply mark_dry
    | with_reducible refine Dry.foldl ?_ (fun u x => ?_)
    | with_reducible refine Dry.foldl_fst ?_ (fun u x => ?_)
    | with_reducible apply dryParts_of
    | intro _
    | with_reducible refine Dry.of_eq (by assumption) ?_
    | with_reducible refine Dry.of_eq_snd (by assumption) ?_
    | simp only [dry_mk]
    | split

theorem execCartridgeSafe_dry (d : ℕ) {s : State} : s.DryNext (execCartridgeSafe d s) := by
  unfold execCartridgeSafe
  repeat' first
    | with_reducible assumption
    | with_reducible exact Dry.refl _
    | with_reducible apply DryNext.next
    | with_reducible apply DryNext.ite
    | with_reducible apply Dry.ite
    | with_reducible apply setH_dry
    | with_reducible apply wr_dry
    | with_reducible apply dryParts_of
    | intro _
    | with_reducible refine Dry.of_eq (by assumption) ?_
    | with_reducible refine Dry.of_eq_snd (by assumption) ?_
    | simp only [dry_mk]
    | split

theorem execLatchOpen_dry (d : ℕ) {s : State} : s.DryNext (execLatchOpen d s) := by
  unfold execLatchOpen
  repeat' first
    | with_reducible assumption
    | with_reducible exact Dry.refl _
    | with_reducible apply DryNext.next
    | with_reducible apply DryNext.ite
    | with_reducible apply Dry.ite
    | with_reducible apply setH_dry
    | with_reducible apply wr_dry
    | with_reducible apply bayOpens_dry
    | with_reducible apply dryParts_of
    | intro _
    | with_reducible refine Dry.of_eq (by assumption) ?_
    | with_reducible refine Dry.of_eq_snd (by assumption) ?_
    | simp only [dry_mk]
    | split

theorem execLatchClose_dry (d : ℕ) (genuine : Bool) (frames : List ℕ) {s : State} : s.DryNext (execLatchClose d genuine frames s) := by
  unfold execLatchClose
  repeat' first
    | with_reducible assumption
    | with_reducible exact Dry.refl _
    | with_reducible apply DryNext.next
    | with_reducible apply DryNext.ite
    | with_reducible apply Dry.ite
    | with_reducible apply setH_dry
    | with_reducible apply wr_dry
    | with_reducible apply dryParts_of
    | intro _
    | with_reducible refine Dry.of_eq (by assumption) ?_
    | with_reducible refine Dry.of_eq_snd (by assumption) ?_
    | simp only [dry_mk]
    | split

theorem execPresenceContactOpen_dry (d : ℕ) {s : State} : s.DryNext (execPresenceContactOpen d s) := by
  unfold execPresenceContactOpen
  repeat' first
    | with_reducible assumption
    | with_reducible exact Dry.refl _
    | with_reducible apply DryNext.next
    | with_reducible apply DryNext.ite
    | with_reducible apply Dry.ite
    | with_reducible apply loseBay_dry
    | with_reducible apply dryParts_of
    | intro _
    | with_reducible refine Dry.of_eq (by assumption) ?_
    | with_reducible refine Dry.of_eq_snd (by assumption) ?_
    | simp only [dry_mk]
    | split

theorem State.noteRead_dry {r s : State} (h : r.Dry s) (k : ℕ) (a : ℕ) : r.Dry (State.noteRead s k a) := by
  unfold State.noteRead
  repeat' first
    | with_reducible assumption
    | with_reducible exact Dry.refl _
    | with_reducible apply Dry.ite
    | with_reducible apply ueLog_dry
    | with_reducible apply uncorrectable_dry
    | with_reducible apply bump_dry
    | with_reducible apply setH_dry
    | with_reducible apply dryParts_of
    | intro _
    | with_reducible refine Dry.of_eq (by assumption) ?_
    | with_reducible refine Dry.of_eq_snd (by assumption) ?_
    | simp only [dry_mk]
    | split

theorem State.bankReads_dry {r : State} {o : State.BankOut} (h : r.Dry o.st) (k : ℕ) (p : ℕ) (rs : List (ℕ × ℕ)) :
    r.Dry (State.bankReads o k p rs).1.st := h

theorem State.gemvBlock_dry {r : State} {o : State.BankOut} (h : r.Dry o.st) (k : ℕ) (p : ℕ) (d : ℕ) (g : ℕ) (kb : ℕ) : r.Dry (State.gemvBlock o k p d
    g kb).st := by
  unfold State.gemvBlock
  repeat' first
    | with_reducible assumption
    | with_reducible exact Dry.refl _
    | with_reducible apply Dry.ite
    | with_reducible apply Dry.ite_st
    | with_reducible apply bankReads_dry
    | with_reducible apply dryParts_of
    | intro _
    | with_reducible refine Dry.of_eq (by assumption) ?_
    | with_reducible refine Dry.of_eq_snd (by assumption) ?_
    | simp only [dry_mk]
    | split

theorem State.gemvStep_dry {r0 : State} {o : State.BankOut} (h : r0.Dry o.st) (k : ℕ) (p : ℕ) (d : ℕ) (g : ℕ) (r : ℕ) : r0.Dry (State.gemvStep o k p d
    g r).st := by
  unfold State.gemvStep
  repeat' first
    | with_reducible assumption
    | with_reducible exact Dry.refl _
    | with_reducible apply Dry.ite
    | with_reducible apply Dry.ite_st
    | with_reducible apply gemvBlock_dry
    | with_reducible apply bankReads_dry
    | with_reducible apply dryParts_of
    | intro _
    | with_reducible refine Dry.of_eq (by assumption) ?_
    | with_reducible refine Dry.of_eq_snd (by assumption) ?_
    | simp only [dry_mk]
    | split

theorem State.rowaddIndex_dry {r : State} {o : State.BankOut} (h : r.Dry o.st) (k : ℕ) (p : ℕ) (d : ℕ) (i : ℕ) : r.Dry (State.rowaddIndex o k p d
    i).st := by
  unfold State.rowaddIndex
  repeat' first
    | with_reducible assumption
    | with_reducible exact Dry.refl _
    | with_reducible apply Dry.ite
    | with_reducible apply Dry.ite_st
    | with_reducible apply bankReads_dry
    | with_reducible apply dryParts_of
    | intro _
    | with_reducible refine Dry.of_eq (by assumption) ?_
    | with_reducible refine Dry.of_eq_snd (by assumption) ?_
    | simp only [dry_mk]
    | split

theorem State.signalCmd_dry {r s : State} (h : r.Dry s) (k : ℕ) (p : ℕ) : r.Dry (State.signalCmd s k p) := by
  unfold State.signalCmd
  repeat' first
    | with_reducible assumption
    | with_reducible exact Dry.refl _
    | with_reducible apply Dry.ite
    | with_reducible apply retireCmd_dry
    | with_reducible apply signalBar_dry
    | with_reducible apply setEngine_dry
    | with_reducible apply dryParts_of
    | intro _
    | with_reducible refine Dry.of_eq (by assumption) ?_
    | with_reducible refine Dry.of_eq_snd (by assumption) ?_
    | simp only [dry_mk]
    | split

theorem State.zeroRegs_dry {r s : State} (h : r.Dry s) : r.Dry (State.zeroRegs s) := by
  unfold State.zeroRegs
  repeat' first
    | with_reducible assumption
    | with_reducible exact Dry.refl _
    | with_reducible apply Dry.ite
    | with_reducible apply dryParts_of
    | intro _
    | with_reducible refine Dry.of_eq (by assumption) ?_
    | with_reducible refine Dry.of_eq_snd (by assumption) ?_
    | simp only [dry_mk]
    | split

theorem State.setSlot_dry {r s : State} (h : r.Dry s) (u : ℕ) (k : ℕ) (st : ℕ) (q : ℕ) : r.Dry (State.setSlot s u k st q) := by
  unfold State.setSlot
  repeat' first
    | with_reducible assumption
    | with_reducible exact Dry.refl _
    | with_reducible apply Dry.ite
    | with_reducible apply wr_dry
    | with_reducible apply dryParts_of
    | intro _
    | with_reducible refine Dry.of_eq (by assumption) ?_
    | with_reducible refine Dry.of_eq_snd (by assumption) ?_
    | simp only [dry_mk]
    | split

theorem State.syncUnit_dry {r s : State} (h : r.Dry s) (u : ℕ) : r.Dry (State.syncUnit s u) := by
  unfold State.syncUnit
  repeat' first
    | with_reducible assumption
    | with_reducible exact Dry.refl _
    | with_reducible apply Dry.ite
    | with_reducible apply wr_dry
    | with_reducible apply dryParts_of
    | intro _
    | with_reducible refine Dry.of_eq (by assumption) ?_
    | with_reducible refine Dry.of_eq_snd (by assumption) ?_
    | simp only [dry_mk]
    | split

theorem State.unitBusy_dry {r s : State} (h : r.Dry s) (u : ℕ) (n : ℕ) : r.Dry (State.unitBusy s u n) := by
  unfold State.unitBusy
  repeat' first
    | with_reducible assumption
    | with_reducible exact Dry.refl _
    | with_reducible apply Dry.ite
    | with_reducible apply setH_dry
    | with_reducible apply dryParts_of
    | intro _
    | with_reducible refine Dry.of_eq (by assumption) ?_
    | with_reducible refine Dry.of_eq_snd (by assumption) ?_
    | simp only [dry_mk]
    | split

theorem State.journalWait_dry {r s : State} (h : r.Dry s) (u : ℕ) (q : ℕ) (on : Bool) : r.Dry (State.journalWait s u q on) := by
  unfold State.journalWait
  repeat' first
    | with_reducible assumption
    | with_reducible exact Dry.refl _
    | with_reducible apply Dry.ite
    | with_reducible apply span_dry
    | with_reducible apply dryParts_of
    | intro _
    | with_reducible refine Dry.of_eq (by assumption) ?_
    | with_reducible refine Dry.of_eq_snd (by assumption) ?_
    | simp only [dry_mk]
    | split

theorem State.unitDone_dry {r s : State} (h : r.Dry s) (id : ℕ) : r.Dry (State.unitDone s id) := by
  unfold State.unitDone
  repeat' first
    | with_reducible assumption
    | with_reducible exact Dry.refl _
    | with_reducible apply Dry.ite
    | with_reducible apply setOp_dry
    | with_reducible apply dryParts_of
    | intro _
    | with_reducible refine Dry.of_eq (by assumption) ?_
    | with_reducible refine Dry.of_eq_snd (by assumption) ?_
    | simp only [dry_mk]
    | split

theorem State.freeUp_dry {r s : State} (h : r.Dry s) (u : ℕ) (k : ℕ) : r.Dry (State.freeUp s u k) := by
  unfold State.freeUp
  repeat' first
    | with_reducible assumption
    | with_reducible exact Dry.refl _
    | with_reducible apply Dry.ite
    | with_reducible apply setSlot_dry
    | with_reducible apply dryParts_of
    | intro _
    | with_reducible refine Dry.of_eq (by assumption) ?_
    | with_reducible refine Dry.of_eq_snd (by assumption) ?_
    | simp only [dry_mk]
    | split

theorem State.rebuildSlots_dry {r s : State} (h : r.Dry s) : r.Dry (State.rebuildSlots s) := by
  unfold State.rebuildSlots
  repeat' first
    | with_reducible assumption
    | with_reducible exact Dry.refl _
    | with_reducible apply Dry.ite
    | with_reducible apply setSlot_dry
    | with_reducible refine Dry.foldl ?_ (fun u x => ?_)
    | with_reducible refine Dry.foldl_fst ?_ (fun u x => ?_)
    | with_reducible apply dryParts_of
    | intro _
    | with_reducible refine Dry.of_eq (by assumption) ?_
    | with_reducible refine Dry.of_eq_snd (by assumption) ?_
    | simp only [dry_mk]
    | split

theorem State.giveVerdict_dry {r s : State} (h : r.Dry s) (q : ℕ) (n : ℕ) (skip : Bool) : r.Dry (State.giveVerdict s q n skip).1 := by
  unfold State.giveVerdict
  repeat' first
    | with_reducible assumption
    | with_reducible exact Dry.refl _
    | with_reducible apply Dry.ite
    | with_reducible apply Dry.ite_fst
    | with_reducible apply mark_dry
    | with_reducible apply wr_dry
    | with_reducible apply dryParts_of
    | intro _
    | with_reducible refine Dry.of_eq (by assumption) ?_
    | with_reducible refine Dry.of_eq_snd (by assumption) ?_
    | simp only [dry_mk]
    | split

theorem State.setObj_dry {r s : State} (h : r.Dry s) (k : ℕ) (b : List Byte) : r.Dry (State.setObj s k b) := by
  unfold State.setObj
  repeat' first
    | with_reducible assumption
    | with_reducible exact Dry.refl _
    | with_reducible apply Dry.ite
    | with_reducible apply dryParts_of
    | intro _
    | with_reducible refine Dry.of_eq (by assumption) ?_
    | with_reducible refine Dry.of_eq_snd (by assumption) ?_
    | simp only [dry_mk]
    | split

theorem State.orBit_dry {r s : State} (h : r.Dry s) (f : Fld) (u : ℕ) (i : ℕ) : r.Dry (State.orBit s f u i) := by
  unfold State.orBit
  repeat' first
    | with_reducible assumption
    | with_reducible exact Dry.refl _
    | with_reducible apply Dry.ite
    | with_reducible apply wr_dry
    | with_reducible apply dryParts_of
    | intro _
    | with_reducible refine Dry.of_eq (by assumption) ?_
    | with_reducible refine Dry.of_eq_snd (by assumption) ?_
    | simp only [dry_mk]
    | split

theorem State.removeUnit_dry {r s : State} (h : r.Dry s) (cls : ℕ) (u : ℕ) (i : ℕ) : r.Dry (State.removeUnit s cls u i) := by
  unfold State.removeUnit
  repeat' first
    | with_reducible assumption
    | with_reducible exact Dry.refl _
    | with_reducible apply Dry.ite
    | with_reducible apply orBit_dry
    | with_reducible apply wr_dry
    | with_reducible apply mcLog_dry
    | with_reducible apply mark_dry
    | with_reducible apply dryParts_of
    | intro _
    | with_reducible refine Dry.of_eq (by assumption) ?_
    | with_reducible refine Dry.of_eq_snd (by assumption) ?_
    | simp only [dry_mk]
    | split

theorem State.applyOuts_dry {r s : State} (h : r.Dry s) : r.Dry (State.applyOuts s) := by
  unfold State.applyOuts
  repeat' first
    | with_reducible assumption
    | with_reducible exact Dry.refl _
    | with_reducible apply Dry.ite
    | with_reducible apply dropCmds_dry
    | with_reducible apply setH_dry
    | with_reducible refine Dry.foldl ?_ (fun u x => ?_)
    | with_reducible refine Dry.foldl_fst ?_ (fun u x => ?_)
    | with_reducible apply dryParts_of
    | intro _
    | with_reducible refine Dry.of_eq (by assumption) ?_
    | with_reducible refine Dry.of_eq_snd (by assumption) ?_
    | simp only [dry_mk]
    | split

theorem State.removeUnits_dry {r s : State} (h : r.Dry s) : r.Dry (State.removeUnits s) := by
  unfold State.removeUnits
  repeat' first
    | with_reducible assumption
    | with_reducible exact Dry.refl _
    | with_reducible apply Dry.ite
    | with_reducible apply setH_dry
    | with_reducible apply removeUnit_dry
    | with_reducible apply applyOuts_dry
    | with_reducible refine Dry.foldl ?_ (fun u x => ?_)
    | with_reducible refine Dry.foldl_fst ?_ (fun u x => ?_)
    | with_reducible apply dryParts_of
    | intro _
    | with_reducible refine Dry.of_eq (by assumption) ?_
    | with_reducible refine Dry.of_eq_snd (by assumption) ?_
    | simp only [dry_mk]
    | split

theorem State.haltQuarter_dry {r s : State} (h : r.Dry s) (q : ℕ) (dispose : Bool) : r.Dry (State.haltQuarter s q dispose) := by
  unfold State.haltQuarter
  repeat' first
    | with_reducible assumption
    | with_reducible exact Dry.refl _
    | with_reducible apply Dry.ite
    | with_reducible apply mark_dry
    | with_reducible apply setH_dry
    | with_reducible apply dryParts_of
    | intro _
    | with_reducible refine Dry.of_eq (by assumption) ?_
    | with_reducible refine Dry.of_eq_snd (by assumption) ?_
    | simp only [dry_mk]
    | split

theorem State.haltAll_dry {r s : State} (h : r.Dry s) : r.Dry (State.haltAll s) := by
  unfold State.haltAll
  repeat' first
    | with_reducible assumption
    | with_reducible exact Dry.refl _
    | with_reducible apply Dry.ite
    | with_reducible apply haltQuarter_dry
    | with_reducible refine Dry.foldl ?_ (fun u x => ?_)
    | with_reducible refine Dry.foldl_fst ?_ (fun u x => ?_)
    | with_reducible apply dryParts_of
    | intro _
    | with_reducible refine Dry.of_eq (by assumption) ?_
    | with_reducible refine Dry.of_eq_snd (by assumption) ?_
    | simp only [dry_mk]
    | split

theorem State.setLevel_dry {r s : State} (h : r.Dry s) : r.Dry (State.setLevel s) := by
  unfold State.setLevel
  repeat' first
    | with_reducible assumption
    | with_reducible exact Dry.refl _
    | with_reducible apply Dry.ite
    | with_reducible apply wr_dry
    | with_reducible apply haltAll_dry
    | with_reducible apply dryParts_of
    | intro _
    | with_reducible refine Dry.of_eq (by assumption) ?_
    | with_reducible refine Dry.of_eq_snd (by assumption) ?_
    | simp only [dry_mk]
    | split

theorem State.releaseQuarter_dry {r s : State} (h : r.Dry s) (q : ℕ) : r.Dry (State.releaseQuarter s q) := by
  unfold State.releaseQuarter
  repeat' first
    | with_reducible assumption
    | with_reducible exact Dry.refl _
    | with_reducible apply Dry.ite
    | with_reducible apply wr_dry
    | with_reducible apply setH_dry
    | with_reducible apply dryParts_of
    | intro _
    | with_reducible refine Dry.of_eq (by assumption) ?_
    | with_reducible refine Dry.of_eq_snd (by assumption) ?_
    | simp only [dry_mk]
    | split

theorem State.newMeasurement_dry {r s : State} (h : r.Dry s) : r.Dry (State.newMeasurement s) := by
  unfold State.newMeasurement
  repeat' first
    | with_reducible assumption
    | with_reducible exact Dry.refl _
    | with_reducible apply Dry.ite
    | with_reducible apply setH_dry
    | with_reducible refine Dry.foldl ?_ (fun u x => ?_)
    | with_reducible refine Dry.foldl_fst ?_ (fun u x => ?_)
    | with_reducible apply dryParts_of
    | intro _
    | with_reducible refine Dry.of_eq (by assumption) ?_
    | with_reducible refine Dry.of_eq_snd (by assumption) ?_
    | simp only [dry_mk]
    | split

theorem State.clearHandshakes_dry {r s : State} (h : r.Dry s) : r.Dry (State.clearHandshakes s) := by
  unfold State.clearHandshakes
  repeat' first
    | with_reducible assumption
    | with_reducible exact Dry.refl _
    | with_reducible apply Dry.ite
    | with_reducible apply wr_dry
    | with_reducible refine Dry.foldl ?_ (fun u x => ?_)
    | with_reducible refine Dry.foldl_fst ?_ (fun u x => ?_)
    | with_reducible apply dryParts_of
    | intro _
    | with_reducible refine Dry.of_eq (by assumption) ?_
    | with_reducible refine Dry.of_eq_snd (by assumption) ?_
    | simp only [dry_mk]
    | split

theorem State.applySelects_dry {r s : State} (h : r.Dry s) : r.Dry (State.applySelects s) := by
  unfold State.applySelects
  repeat' first
    | with_reducible assumption
    | with_reducible exact Dry.refl _
    | with_reducible apply Dry.ite
    | with_reducible apply setH_dry
    | with_reducible apply wr_dry
    | with_reducible apply mark_dry
    | with_reducible apply newMeasurement_dry
    | with_reducible apply clearHandshakes_dry
    | with_reducible apply dryParts_of
    | intro _
    | with_reducible refine Dry.of_eq (by assumption) ?_
    | with_reducible refine Dry.of_eq_snd (by assumption) ?_
    | simp only [dry_mk]
    | split

theorem State.endRestricted_dry {r s : State} (h : r.Dry s) : r.Dry (State.endRestricted s) := by
  unfold State.endRestricted
  repeat' first
    | with_reducible assumption
    | with_reducible exact Dry.refl _
    | with_reducible apply Dry.ite
    | with_reducible apply wr_dry
    | with_reducible apply setH_dry
    | with_reducible apply dryParts_of
    | intro _
    | with_reducible refine Dry.of_eq (by assumption) ?_
    | with_reducible refine Dry.of_eq_snd (by assumption) ?_
    | simp only [dry_mk]
    | split

theorem State.claim_dry {r s : State} (h : r.Dry s) (o : Op) : r.Dry (State.claim s o) := by
  unfold State.claim
  repeat' first
    | with_reducible assumption
    | with_reducible exact Dry.refl _
    | with_reducible apply Dry.ite
    | with_reducible apply wr_dry
    | with_reducible apply dryParts_of
    | intro _
    | with_reducible refine Dry.of_eq (by assumption) ?_
    | with_reducible refine Dry.of_eq_snd (by assumption) ?_
    | simp only [dry_mk]
    | split

theorem State.admitOp_dry {r s : State} (h : r.Dry s) (o : Op) (new : Bool) (u : ℕ) (slice : ℕ) (charge : ℕ) : r.Dry (State.admitOp s o new u slice
    charge) := by
  unfold State.admitOp
  repeat' first
    | with_reducible assumption
    | with_reducible exact Dry.refl _
    | with_reducible apply Dry.ite
    | with_reducible apply claim_dry
    | with_reducible apply addH_dry
    | with_reducible apply wr_dry
    | with_reducible apply setOp_dry
    | with_reducible apply syncBlanks_dry
    | with_reducible apply startAlloc_dry
    | with_reducible apply syncUnit_dry
    | with_reducible apply dryParts_of
    | intro _
    | with_reducible refine Dry.of_eq (by assumption) ?_
    | with_reducible refine Dry.of_eq_snd (by assumption) ?_
    | simp only [dry_mk]
    | split

theorem State.freeze_dry {r s : State} (h : r.Dry s) : r.Dry (State.freeze s) := by
  unfold State.freeze
  repeat' first
    | with_reducible assumption
    | with_reducible exact Dry.refl _
    | with_reducible apply Dry.ite
    | with_reducible apply wr_dry
    | with_reducible refine Dry.foldl ?_ (fun u x => ?_)
    | with_reducible refine Dry.foldl_fst ?_ (fun u x => ?_)
    | with_reducible apply dryParts_of
    | intro _
    | with_reducible refine Dry.of_eq (by assumption) ?_
    | with_reducible refine Dry.of_eq_snd (by assumption) ?_
    | simp only [dry_mk]
    | split

theorem State.latch_dry {r s : State} (h : r.Dry s) (src : ℕ) : r.Dry (State.latch s src) := by
  unfold State.latch
  repeat' first
    | with_reducible assumption
    | with_reducible exact Dry.refl _
    | with_reducible apply Dry.ite
    | with_reducible apply bump_dry
    | with_reducible apply freeze_dry
    | with_reducible apply wr_dry
    | with_reducible apply dryParts_of
    | intro _
    | with_reducible refine Dry.of_eq (by assumption) ?_
    | with_reducible refine Dry.of_eq_snd (by assumption) ?_
    | simp only [dry_mk]
    | split

theorem execShiftOutComplete_dry {s : State} : s.DryNext (execShiftOutComplete s) := by
  unfold execShiftOutComplete
  repeat' first
    | with_reducible assumption
    | with_reducible exact Dry.refl _
    | with_reducible apply DryNext.next
    | with_reducible apply DryNext.ite
    | with_reducible apply Dry.ite
    | with_reducible apply wr_dry
    | with_reducible apply dryParts_of
    | intro _
    | with_reducible refine Dry.of_eq (by assumption) ?_
    | with_reducible refine Dry.of_eq_snd (by assumption) ?_
    | simp only [dry_mk]
    | split

theorem execBwWindowEnd_dry (port : ℕ) (rx : ℕ) (tx : ℕ) {s : State} : s.DryNext (execBwWindowEnd port rx tx s) := by
  unfold execBwWindowEnd
  repeat' first
    | with_reducible assumption
    | with_reducible exact Dry.refl _
    | with_reducible apply DryNext.next
    | with_reducible apply DryNext.ite
    | with_reducible apply Dry.ite
    | with_reducible apply wr_dry
    | with_reducible apply dryParts_of
    | intro _
    | with_reducible refine Dry.of_eq (by assumption) ?_
    | with_reducible refine Dry.of_eq_snd (by assumption) ?_
    | simp only [dry_mk]
    | split

theorem State.endSlotWait_dry {r s : State} (h : r.Dry s) (o : Op) : r.Dry (State.endSlotWait s o) := by
  unfold State.endSlotWait
  repeat' first
    | with_reducible assumption
    | with_reducible exact Dry.refl _
    | with_reducible apply Dry.ite
    | with_reducible apply setOp_dry
    | with_reducible apply ev_dry
    | with_reducible apply dryParts_of
    | intro _
    | with_reducible refine Dry.of_eq (by assumption) ?_
    | with_reducible refine Dry.of_eq_snd (by assumption) ?_
    | simp only [dry_mk]
    | split

theorem State.balance_dry {r s : State} (h : r.Dry s) (upsets : List Upset) : r.Dry (State.balance s upsets) := by
  unfold State.balance
  repeat' first
    | with_reducible assumption
    | with_reducible exact Dry.refl _
    | with_reducible apply Dry.ite
    | with_reducible apply mark_dry
    | with_reducible apply wr_dry
    | with_reducible apply raisePf_dry
    | with_reducible apply mcLog_dry
    | with_reducible refine Dry.foldl ?_ (fun u x => ?_)
    | with_reducible refine Dry.foldl_fst ?_ (fun u x => ?_)
    | with_reducible apply dryParts_of
    | intro _
    | with_reducible refine Dry.of_eq (by assumption) ?_
    | with_reducible refine Dry.of_eq_snd (by assumption) ?_
    | simp only [dry_mk]
    | split

theorem State.bankEnter_dry {r s : State} (h : r.Dry s) (k : ℕ) : r.Dry (State.bankEnter s k) := by
  unfold State.bankEnter
  repeat' first
    | with_reducible assumption
    | with_reducible exact Dry.refl _
    | with_reducible apply Dry.ite
    | with_reducible apply wr_dry
    | with_reducible apply mark_dry
    | with_reducible apply setH_dry
    | with_reducible apply syncBusy_dry
    | with_reducible apply setEngine_dry
    | with_reducible refine Dry.foldl ?_ (fun u x => ?_)
    | with_reducible refine Dry.foldl_fst ?_ (fun u x => ?_)
    | with_reducible apply dryParts_of
    | intro _
    | with_reducible refine Dry.of_eq (by assumption) ?_
    | with_reducible refine Dry.of_eq_snd (by assumption) ?_
    | simp only [dry_mk]
    | split

theorem State.applyBank_dry {r s : State} (h : r.Dry s) (k : ℕ) : r.Dry (State.applyBank s k) := by
  unfold State.applyBank
  repeat' first
    | with_reducible assumption
    | with_reducible exact Dry.refl _
    | with_reducible apply Dry.ite
    | with_reducible apply fnErr_dry
    | with_reducible apply mark_dry
    | with_reducible apply endBank_dry
    | with_reducible apply bankEnter_dry
    | with_reducible apply dryParts_of
    | intro _
    | with_reducible refine Dry.of_eq (by assumption) ?_
    | with_reducible refine Dry.of_eq_snd (by assumption) ?_
    | simp only [dry_mk]
    | split

theorem State.applyShares_dry {r s : State} (h : r.Dry s) : r.Dry (State.applyShares s) := by
  unfold State.applyShares
  repeat' first
    | with_reducible assumption
    | with_reducible exact Dry.refl _
    | with_reducible apply Dry.ite
    | with_reducible apply mark_dry
    | with_reducible apply setH_dry
    | with_reducible refine Dry.foldl ?_ (fun u x => ?_)
    | with_reducible refine Dry.foldl_fst ?_ (fun u x => ?_)
    | with_reducible apply dryParts_of
    | intro _
    | with_reducible refine Dry.of_eq (by assumption) ?_
    | with_reducible refine Dry.of_eq_snd (by assumption) ?_
    | simp only [dry_mk]
    | split

theorem State.applyTags_dry {r s : State} (h : r.Dry s) : r.Dry (State.applyTags s) := by
  unfold State.applyTags
  repeat' first
    | with_reducible assumption
    | with_reducible exact Dry.refl _
    | with_reducible apply Dry.ite
    | with_reducible apply mark_dry
    | with_reducible apply wr_dry
    | with_reducible refine Dry.foldl ?_ (fun u x => ?_)
    | with_reducible refine Dry.foldl_fst ?_ (fun u x => ?_)
    | with_reducible apply dryParts_of
    | intro _
    | with_reducible refine Dry.of_eq (by assumption) ?_
    | with_reducible refine Dry.of_eq_snd (by assumption) ?_
    | simp only [dry_mk]
    | split

theorem State.applyRetire_dry {r s : State} (h : r.Dry s) (k : ℕ) : r.Dry (State.applyRetire s k) := by
  unfold State.applyRetire
  repeat' first
    | with_reducible assumption
    | with_reducible exact Dry.refl _
    | with_reducible apply Dry.ite
    | with_reducible apply wr_dry
    | with_reducible apply setH_dry
    | with_reducible apply mark_dry
    | with_reducible apply endBank_dry
    | with_reducible apply dryParts_of
    | intro _
    | with_reducible refine Dry.of_eq (by assumption) ?_
    | with_reducible refine Dry.of_eq_snd (by assumption) ?_
    | simp only [dry_mk]
    | split

theorem State.applyBay_dry {r s : State} (h : r.Dry s) (d : ℕ) : r.Dry (State.applyBay s d) := by
  unfold State.applyBay
  repeat' first
    | with_reducible assumption
    | with_reducible exact Dry.refl _
    | with_reducible apply Dry.ite
    | with_reducible apply setH_dry
    | with_reducible apply wr_dry
    | with_reducible refine Dry.foldl ?_ (fun u x => ?_)
    | with_reducible refine Dry.foldl_fst ?_ (fun u x => ?_)
    | with_reducible apply dryParts_of
    | intro _
    | with_reducible refine Dry.of_eq (by assumption) ?_
    | with_reducible refine Dry.of_eq_snd (by assumption) ?_
    | simp only [dry_mk]
    | split

theorem State.thermal_dry {r s : State} (h : r.Dry s) (vmin : ℕ) (tmax : ℕ) : r.Dry (State.thermal s vmin tmax) := by
  unfold State.thermal
  repeat' first
    | with_reducible assumption
    | with_reducible exact Dry.refl _
    | with_reducible apply Dry.ite
    | with_reducible apply wr_dry
    | with_reducible apply setH_dry
    | with_reducible apply mcLog_dry
    | with_reducible apply mark_dry
    | with_reducible apply dryParts_of
    | intro _
    | with_reducible refine Dry.of_eq (by assumption) ?_
    | with_reducible refine Dry.of_eq_snd (by assumption) ?_
    | simp only [dry_mk]
    | split

theorem State.allotQ_dry {r s : State} (h : r.Dry s) (b : ℕ) (f : ℕ) (metered : List ℕ) (q : ℕ) : r.Dry (State.allotQ s b f metered q) := by
  unfold State.allotQ
  repeat' first
    | with_reducible assumption
    | with_reducible exact Dry.refl _
    | with_reducible apply Dry.ite
    | with_reducible apply mark_dry
    | with_reducible apply setH_dry
    | with_reducible apply wr_dry
    | with_reducible apply dryParts_of
    | intro _
    | with_reducible refine Dry.of_eq (by assumption) ?_
    | with_reducible refine Dry.of_eq_snd (by assumption) ?_
    | simp only [dry_mk]
    | split

theorem State.loadBudget_dry {r s : State} (h : r.Dry s) (late : Bool) (metered : List ℕ) (modMetered : ℕ) (fixed : ℕ) (vmin : ℕ) (tmax : ℕ) : r.Dry
    (State.loadBudget s late metered modMetered fixed vmin tmax) := by
  unfold State.loadBudget
  repeat' first
    | with_reducible assumption
    | with_reducible exact Dry.refl _
    | with_reducible apply Dry.ite
    | with_reducible apply mcLog_dry
    | with_reducible apply wr_dry
    | with_reducible apply thermal_dry
    | with_reducible apply setH_dry
    | with_reducible apply allotQ_dry
    | with_reducible refine Dry.foldl ?_ (fun u x => ?_)
    | with_reducible refine Dry.foldl_fst ?_ (fun u x => ?_)
    | with_reducible apply dryParts_of
    | intro _
    | with_reducible refine Dry.of_eq (by assumption) ?_
    | with_reducible refine Dry.of_eq_snd (by assumption) ?_
    | simp only [dry_mk]
    | split

theorem State.chargeBank_dry {r s : State} (h : r.Dry s) (q : ℕ) : r.Dry (State.chargeBank s q) := by
  unfold State.chargeBank
  repeat' first
    | with_reducible assumption
    | with_reducible exact Dry.refl _
    | with_reducible apply Dry.ite
    | with_reducible apply setH_dry
    | with_reducible apply addH_dry
    | with_reducible apply wr_dry
    | with_reducible apply dryParts_of
    | intro _
    | with_reducible refine Dry.of_eq (by assumption) ?_
    | with_reducible refine Dry.of_eq_snd (by assumption) ?_
    | simp only [dry_mk]
    | split

theorem State.clearAer_dry {r s : State} (h : r.Dry s) (p : ℕ) : r.Dry (State.clearAer s p) := by
  unfold State.clearAer
  repeat' first
    | with_reducible assumption
    | with_reducible exact Dry.refl _
    | with_reducible apply Dry.ite
    | with_reducible apply setH_dry
    | with_reducible refine Dry.foldl ?_ (fun u x => ?_)
    | with_reducible refine Dry.foldl_fst ?_ (fun u x => ?_)
    | with_reducible apply dryParts_of
    | intro _
    | with_reducible refine Dry.of_eq (by assumption) ?_
    | with_reducible refine Dry.of_eq_snd (by assumption) ?_
    | simp only [dry_mk]
    | split

theorem State.dropL2_dry {r s : State} (h : r.Dry s) (p : L2Line → Bool) : r.Dry (State.dropL2 s p) := by
  unfold State.dropL2
  repeat' first
    | with_reducible assumption
    | with_reducible exact Dry.refl _
    | with_reducible apply Dry.ite
    | with_reducible apply dryParts_of
    | intro _
    | with_reducible refine Dry.of_eq (by assumption) ?_
    | with_reducible refine Dry.of_eq_snd (by assumption) ?_
    | simp only [dry_mk]
    | split

theorem State.clearBits_dry {r s : State} (h : r.Dry s) (f : Fld) (i : ℕ) (v : ℕ) : r.Dry (State.clearBits s f i v) := by
  unfold State.clearBits
  repeat' first
    | with_reducible assumption
    | with_reducible exact Dry.refl _
    | with_reducible apply Dry.ite
    | with_reducible apply setH_dry
    | with_reducible apply wr_dry
    | with_reducible apply dryParts_of
    | intro _
    | with_reducible refine Dry.of_eq (by assumption) ?_
    | with_reducible refine Dry.of_eq_snd (by assumption) ?_
    | simp only [dry_mk]
    | split

theorem State.fldWrite_dry {r s : State} (h : r.Dry s) (f : Fld) (i : ℕ) (v : ℕ) : r.Dry (State.fldWrite s f i v) := by
  unfold State.fldWrite
  repeat' first
    | with_reducible assumption
    | with_reducible exact Dry.refl _
    | with_reducible apply Dry.ite
    | with_reducible apply wr_dry
    | with_reducible apply clearBits_dry
    | with_reducible apply dryParts_of
    | intro _
    | with_reducible refine Dry.of_eq (by assumption) ?_
    | with_reducible refine Dry.of_eq_snd (by assumption) ?_
    | simp only [dry_mk]
    | split

theorem State.unitRequest_dry {r s : State} (h : r.Dry s) (lot : Bool) (i : ℕ) (req : ℕ) (granted : Bool) : r.Dry (State.unitRequest s lot i req
    granted) := by
  unfold State.unitRequest
  repeat' first
    | with_reducible assumption
    | with_reducible exact Dry.refl _
    | with_reducible apply Dry.ite
    | with_reducible apply fnErr_dry
    | with_reducible apply wr_dry
    | with_reducible apply dryParts_of
    | intro _
    | with_reducible refine Dry.of_eq (by assumption) ?_
    | with_reducible refine Dry.of_eq_snd (by assumption) ?_
    | simp only [dry_mk]
    | split

theorem State.stopAll_dry {r s : State} (h : r.Dry s) : r.Dry (State.stopAll s) := by
  unfold State.stopAll
  repeat' first
    | with_reducible assumption
    | with_reducible exact Dry.refl _
    | with_reducible apply Dry.ite
    | with_reducible apply setH_dry
    | with_reducible refine Dry.foldl ?_ (fun u x => ?_)
    | with_reducible refine Dry.foldl_fst ?_ (fun u x => ?_)
    | with_reducible apply dryParts_of
    | intro _
    | with_reducible refine Dry.of_eq (by assumption) ?_
    | with_reducible refine Dry.of_eq_snd (by assumption) ?_
    | simp only [dry_mk]
    | split

theorem State.startQuiesce_dry {r s : State} (h : r.Dry s) (cause : ℕ) : r.Dry (State.startQuiesce s cause) := by
  unfold State.startQuiesce
  repeat' first
    | with_reducible assumption
    | with_reducible exact Dry.refl _
    | with_reducible apply Dry.ite
    | with_reducible apply setH_dry
    | with_reducible apply stopAll_dry
    | with_reducible apply dryParts_of
    | intro _
    | with_reducible refine Dry.of_eq (by assumption) ?_
    | with_reducible refine Dry.of_eq_snd (by assumption) ?_
    | simp only [dry_mk]
    | split

theorem State.fldRead_dry {r s : State} (h : r.Dry s) (f : Fld) (i : ℕ) (lo : ℕ) (n : ℕ) : r.Dry (State.fldRead s f i lo n) := by
  unfold State.fldRead
  repeat' first
    | with_reducible assumption
    | with_reducible exact Dry.refl _
    | with_reducible apply Dry.ite
    | with_reducible apply wr_dry
    | with_reducible apply dryParts_of
    | intro _
    | with_reducible refine Dry.of_eq (by assumption) ?_
    | with_reducible refine Dry.of_eq_snd (by assumption) ?_
    | simp only [dry_mk]
    | split

theorem State.regRead_dry {r0 s : State} (h : r0.Dry s) (bits : ℕ) (who : ℕ) (r : Reg) (i : ℕ) (off : ℕ) (lo : ℕ) (n : ℕ) : r0.Dry (State.regRead s
    bits who r i off lo n).1 := by
  unfold State.regRead
  repeat' first
    | with_reducible assumption
    | with_reducible exact Dry.refl _
    | with_reducible apply Dry.ite
    | with_reducible apply Dry.ite_fst
    | with_reducible apply fnErr_dry
    | with_reducible apply fldRead_dry
    | with_reducible refine Dry.foldl ?_ (fun u x => ?_)
    | with_reducible refine Dry.foldl_fst ?_ (fun u x => ?_)
    | with_reducible apply dryParts_of
    | intro _
    | with_reducible refine Dry.of_eq (by assumption) ?_
    | with_reducible refine Dry.of_eq_snd (by assumption) ?_
    | simp only [dry_mk]
    | split

theorem State.busRead_dry {r s : State} (h : r.Dry s) (a : Agent) (off : ℕ) (lo : ℕ) (n : ℕ) : r.Dry (State.busRead s a off lo n).1 := by
  unfold State.busRead
  repeat' first
    | with_reducible assumption
    | with_reducible exact Dry.refl _
    | with_reducible apply Dry.ite
    | with_reducible apply Dry.ite_fst
    | with_reducible apply regRead_dry
    | with_reducible apply dryParts_of
    | intro _
    | with_reducible refine Dry.of_eq (by assumption) ?_
    | with_reducible refine Dry.of_eq_snd (by assumption) ?_
    | simp only [dry_mk]
    | split

theorem State.moveHead_dry {r s : State} (h : r.Dry s) (q : ℕ) (b : ℕ) (n : ℕ) : r.Dry (State.moveHead s q b n) := by
  unfold State.moveHead
  repeat' first
    | with_reducible assumption
    | with_reducible exact Dry.refl _
    | with_reducible apply Dry.ite
    | with_reducible apply mark_dry
    | with_reducible apply wr_dry
    | with_reducible apply dryParts_of
    | intro _
    | with_reducible refine Dry.of_eq (by assumption) ?_
    | with_reducible refine Dry.of_eq_snd (by assumption) ?_
    | simp only [dry_mk]
    | split

theorem State.afterLoad_dry {r s : State} (h : r.Dry s) : r.Dry (State.afterLoad s) := by
  unfold State.afterLoad
  repeat' first
    | with_reducible assumption
    | with_reducible exact Dry.refl _
    | with_reducible apply Dry.ite
    | with_reducible apply setH_dry
    | with_reducible apply dryParts_of
    | intro _
    | with_reducible refine Dry.of_eq (by assumption) ?_
    | with_reducible refine Dry.of_eq_snd (by assumption) ?_
    | simp only [dry_mk]
    | split

theorem State.discardDb_dry {r s : State} (h : r.Dry s) (page : ℕ) (off : ℕ) : r.Dry (State.discardDb s page off) := by
  unfold State.discardDb
  repeat' first
    | with_reducible assumption
    | with_reducible exact Dry.refl _
    | with_reducible apply Dry.ite
    | with_reducible apply fnErr_dry
    | with_reducible apply mark_dry
    | with_reducible apply dryParts_of
    | intro _
    | with_reducible refine Dry.of_eq (by assumption) ?_
    | with_reducible refine Dry.of_eq_snd (by assumption) ?_
    | simp only [dry_mk]
    | split

theorem State.doorbell_dry {r s : State} (h : r.Dry s) (a : Agent) (port : ℕ) (page : ℕ) (off : ℕ) (body : State → State) (hbody : ∀ (u : State),
    u.Dry (body u)) : r.Dry (State.doorbell s a port page off body) := by
  unfold State.doorbell
  repeat' first
    | with_reducible assumption
    | with_reducible exact Dry.refl _
    | with_reducible apply Dry.ite
    | with_reducible refine Dry.trans ?_ (hbody _)
    | with_reducible apply fnErr_dry
    | with_reducible apply dryParts_of
    | intro _
    | with_reducible refine Dry.of_eq (by assumption) ?_
    | with_reducible refine Dry.of_eq_snd (by assumption) ?_
    | simp only [dry_mk]
    | split

theorem State.writeTail_dry {r s : State} (h : r.Dry s) (page : ℕ) (tail : ℕ) : r.Dry (State.writeTail s page tail) := by
  unfold State.writeTail
  repeat' first
    | with_reducible assumption
    | with_reducible exact Dry.refl _
    | with_reducible apply Dry.ite
    | with_reducible apply discardDb_dry
    | with_reducible apply wr_dry
    | with_reducible apply dryParts_of
    | intro _
    | with_reducible refine Dry.of_eq (by assumption) ?_
    | with_reducible refine Dry.of_eq_snd (by assumption) ?_
    | simp only [dry_mk]
    | split

theorem State.submitStall_dry {r s : State} (h : r.Dry s) (q : ℕ) : r.Dry (State.submitStall s q) := by
  unfold State.submitStall
  repeat' first
    | with_reducible assumption
    | with_reducible exact Dry.refl _
    | with_reducible apply Dry.ite
    | with_reducible apply setH_dry
    | with_reducible apply dryParts_of
    | intro _
    | with_reducible refine Dry.of_eq (by assumption) ?_
    | with_reducible refine Dry.of_eq_snd (by assumption) ?_
    | simp only [dry_mk]
    | split

theorem State.submitGo_dry {r s : State} (h : r.Dry s) (q : ℕ) : r.Dry (State.submitGo s q) := by
  unfold State.submitGo
  repeat' first
    | with_reducible assumption
    | with_reducible exact Dry.refl _
    | with_reducible apply Dry.ite
    | with_reducible apply setH_dry
    | with_reducible apply ev_dry
    | with_reducible apply dryParts_of
    | intro _
    | with_reducible refine Dry.of_eq (by assumption) ?_
    | with_reducible refine Dry.of_eq_snd (by assumption) ?_
    | simp only [dry_mk]
    | split

theorem execSqDoorbell_dry (a : Agent) (port : ℕ) (page : ℕ) (tail : ℕ) {s : State} : s.DryNext (execSqDoorbell a port page tail s) := by
  unfold execSqDoorbell
  repeat' first
    | with_reducible assumption
    | with_reducible exact Dry.refl _
    | with_reducible apply DryNext.next
    | with_reducible apply DryNext.ite
    | with_reducible apply Dry.ite
    | with_reducible apply doorbell_dry
    | with_reducible apply writeTail_dry
    | with_reducible apply dryParts_of
    | intro _
    | with_reducible refine Dry.of_eq (by assumption) ?_
    | with_reducible refine Dry.of_eq_snd (by assumption) ?_
    | simp only [dry_mk]
    | split

theorem State.pageRead_dry {r s : State} (h : r.Dry s) (a : Agent) (page : ℕ) (o : ℕ) : r.Dry (State.pageRead s a page o).1 := by
  unfold State.pageRead
  repeat' first
    | with_reducible assumption
    | with_reducible exact Dry.refl _
    | with_reducible apply Dry.ite
    | with_reducible apply Dry.ite_fst
    | with_reducible apply fnErr_dry
    | with_reducible apply dryParts_of
    | intro _
    | with_reducible refine Dry.of_eq (by assumption) ?_
    | with_reducible refine Dry.of_eq_snd (by assumption) ?_
    | simp only [dry_mk]
    | split

theorem State.msixPut_dry {r s : State} (h : r.Dry s) (port : ℕ) (func : ℕ) (o : ℕ) (d : ℕ) : r.Dry (State.msixPut s port func o d) := by
  unfold State.msixPut
  repeat' first
    | with_reducible assumption
    | with_reducible exact Dry.refl _
    | with_reducible apply Dry.ite
    | with_reducible apply setH_dry
    | with_reducible apply sendMsix_dry
    | with_reducible apply dryParts_of
    | intro _
    | with_reducible refine Dry.of_eq (by assumption) ?_
    | with_reducible refine Dry.of_eq_snd (by assumption) ?_
    | simp only [dry_mk]
    | split

theorem State.bar0Read_dry {r s : State} (h : r.Dry s) (a : Agent) (port : ℕ) (off : ℕ) (len : ℕ) (y5 : ℕ) : r.Dry (State.bar0Read s a port off len
    y5).1 := by
  induction y5 generalizing s a port off len with
  | zero =>
    unfold State.bar0Read
    repeat' first
      | with_reducible assumption
      | with_reducible exact Dry.refl _
      | with_reducible apply Dry.ite
      | with_reducible apply Dry.ite_fst
      | with_reducible apply pageRead_dry
      | with_reducible apply busRead_dry
      | with_reducible apply dryParts_of
      | intro _
      | with_reducible refine Dry.of_eq (by assumption) ?_
      | with_reducible refine Dry.of_eq_snd (by assumption) ?_
      | simp only [dry_mk]
      | split
  | succ n0 ih =>
    unfold State.bar0Read
    repeat' first
      | with_reducible assumption
      | with_reducible exact Dry.refl _
      | with_reducible apply Dry.ite
      | with_reducible apply Dry.ite_fst
      | with_reducible apply pageRead_dry
      | with_reducible apply busRead_dry
      | with_reducible apply ih
      | with_reducible apply dryParts_of
      | intro _
      | with_reducible refine Dry.of_eq (by assumption) ?_
      | with_reducible refine Dry.of_eq_snd (by assumption) ?_
      | simp only [dry_mk]
      | split

theorem State.agentRead_dry {r s : State} (h : r.Dry s) (a : Agent) (off : ℕ) : r.Dry (State.agentRead s a off) := by
  unfold State.agentRead
  repeat' first
    | with_reducible assumption
    | with_reducible exact Dry.refl _
    | with_reducible apply Dry.ite
    | with_reducible apply Dry.ite_fst
    | with_reducible apply bar0Read_dry
    | with_reducible apply dryParts_of
    | intro _
    | with_reducible refine Dry.of_eq (by assumption) ?_
    | with_reducible refine Dry.of_eq_snd (by assumption) ?_
    | simp only [dry_mk]
    | split

theorem execRegisterReadClear_dry (a : Agent) (off : ℕ) {s : State} : s.DryNext (execRegisterReadClear a off s) := by
  unfold execRegisterReadClear
  repeat' first
    | with_reducible assumption
    | with_reducible exact Dry.refl _
    | with_reducible apply DryNext.next
    | with_reducible apply DryNext.ite
    | with_reducible apply Dry.ite
    | with_reducible apply agentRead_dry
    | with_reducible apply dryParts_of
    | intro _
    | with_reducible refine Dry.of_eq (by assumption) ?_
    | with_reducible refine Dry.of_eq_snd (by assumption) ?_
    | simp only [dry_mk]
    | split

theorem State.answer_dry {r s : State} (h : r.Dry s) (status : ℕ) (d : List Byte) : r.Dry (State.answer s status d) := by
  unfold State.answer
  repeat' first
    | with_reducible assumption
    | with_reducible exact Dry.refl _
    | with_reducible apply Dry.ite
    | with_reducible apply dryParts_of
    | intro _
    | with_reducible refine Dry.of_eq (by assumption) ?_
    | with_reducible refine Dry.of_eq_snd (by assumption) ?_
    | simp only [dry_mk]
    | split

theorem State.cfgSet_dry {r s : State} (h : r.Dry s) (f : ℕ) (off : ℕ) (bits : ℕ) : r.Dry (State.cfgSet s f off bits) := by
  unfold State.cfgSet
  repeat' first
    | with_reducible assumption
    | with_reducible exact Dry.refl _
    | with_reducible apply Dry.ite
    | with_reducible apply setH_dry
    | with_reducible apply dryParts_of
    | intro _
    | with_reducible refine Dry.of_eq (by assumption) ?_
    | with_reducible refine Dry.of_eq_snd (by assumption) ?_
    | simp only [dry_mk]
    | split

theorem State.aerReject_dry {r s : State} (h : r.Dry s) (port : ℕ) (func : ℕ) (status : ℕ) : r.Dry (State.aerReject s port func status) := by
  unfold State.aerReject
  repeat' first
    | with_reducible assumption
    | with_reducible exact Dry.refl _
    | with_reducible apply Dry.ite
    | with_reducible apply cfgSet_dry
    | with_reducible apply dryParts_of
    | intro _
    | with_reducible refine Dry.of_eq (by assumption) ?_
    | with_reducible refine Dry.of_eq_snd (by assumption) ?_
    | simp only [dry_mk]
    | split

theorem State.aerCorrectable_dry {r s : State} (h : r.Dry s) (port : ℕ) (cls : ℕ) (bit : ℕ) : r.Dry (State.aerCorrectable s port cls bit) := by
  unfold State.aerCorrectable
  repeat' first
    | with_reducible assumption
    | with_reducible exact Dry.refl _
    | with_reducible apply Dry.ite
    | with_reducible apply setH_dry
    | with_reducible apply cfgSet_dry
    | with_reducible apply dryParts_of
    | intro _
    | with_reducible refine Dry.of_eq (by assumption) ?_
    | with_reducible refine Dry.of_eq_snd (by assumption) ?_
    | simp only [dry_mk]
    | split

theorem State.reject_dry {r0 s : State} (h : r0.Dry s) (r : InReq) (cause : ℕ) (status : ℕ) : r0.Dry (State.reject s r cause status) := by
  unfold State.reject
  repeat' first
    | with_reducible assumption
    | with_reducible exact Dry.refl _
    | with_reducible apply Dry.ite
    | with_reducible apply ev_dry
    | with_reducible apply bump_dry
    | with_reducible apply firstError_dry
    | with_reducible apply raisePf_dry
    | with_reducible apply wr_dry
    | with_reducible apply answer_dry
    | with_reducible apply aerReject_dry
    | with_reducible apply dryParts_of
    | intro _
    | with_reducible refine Dry.of_eq (by assumption) ?_
    | with_reducible refine Dry.of_eq_snd (by assumption) ?_
    | simp only [dry_mk]
    | split

theorem State.bar2Stops_dry {r0 s : State} (h : r0.Dry s) (r : InReq) (cause : ℕ) : r0.Dry (State.bar2Stops s r cause) := by
  unfold State.bar2Stops
  repeat' first
    | with_reducible assumption
    | with_reducible exact Dry.refl _
    | with_reducible apply Dry.ite
    | with_reducible apply reject_dry
    | with_reducible apply dryParts_of
    | intro _
    | with_reducible refine Dry.of_eq (by assumption) ?_
    | with_reducible refine Dry.of_eq_snd (by assumption) ?_
    | simp only [dry_mk]
    | split

theorem State.resetFunc_dry {r s : State} (h : r.Dry s) (port : ℕ) (func : ℕ) : r.Dry (State.resetFunc s port func) := by
  unfold State.resetFunc
  repeat' first
    | with_reducible assumption
    | with_reducible exact Dry.refl _
    | with_reducible apply Dry.ite
    | with_reducible apply setH_dry
    | with_reducible refine Dry.foldl ?_ (fun u x => ?_)
    | with_reducible refine Dry.foldl_fst ?_ (fun u x => ?_)
    | with_reducible apply dryParts_of
    | intro _
    | with_reducible refine Dry.of_eq (by assumption) ?_
    | with_reducible refine Dry.of_eq_snd (by assumption) ?_
    | simp only [dry_mk]
    | split

theorem State.linkGone_dry {r s : State} (h : r.Dry s) (port : ℕ) : r.Dry (State.linkGone s port) := by
  unfold State.linkGone
  repeat' first
    | with_reducible assumption
    | with_reducible exact Dry.refl _
    | with_reducible apply Dry.ite
    | with_reducible apply wr_dry
    | with_reducible apply dryParts_of
    | intro _
    | with_reducible refine Dry.of_eq (by assumption) ?_
    | with_reducible refine Dry.of_eq_snd (by assumption) ?_
    | simp only [dry_mk]
    | split

theorem execBar2ReadTimeout_dry (port : ℕ) (tag : ℕ) {s : State} : s.DryNext (execBar2ReadTimeout port tag s) := by
  unfold execBar2ReadTimeout
  repeat' first
    | with_reducible assumption
    | with_reducible exact Dry.refl _
    | with_reducible apply DryNext.next
    | with_reducible apply DryNext.ite
    | with_reducible apply Dry.ite
    | with_reducible apply reject_dry
    | with_reducible apply dryParts_of
    | intro _
    | with_reducible refine Dry.of_eq (by assumption) ?_
    | with_reducible refine Dry.of_eq_snd (by assumption) ?_
    | simp only [dry_mk]
    | split

theorem execHostSnoop_dry (_addr : ℕ) {s : State} : s.DryNext (execHostSnoop _addr s) := by
  unfold execHostSnoop
  repeat' first
    | with_reducible assumption
    | with_reducible exact Dry.refl _
    | with_reducible apply DryNext.next
    | with_reducible apply DryNext.ite
    | with_reducible apply Dry.ite
    | with_reducible apply answer_dry
    | with_reducible apply dryParts_of
    | intro _
    | with_reducible refine Dry.of_eq (by assumption) ?_
    | with_reducible refine Dry.of_eq_snd (by assumption) ?_
    | simp only [dry_mk]
    | split

theorem execHoldoffExpiry_dry (q : ℕ) (v : ℕ) {s : State} : s.DryNext (execHoldoffExpiry q v s) := by
  unfold execHoldoffExpiry
  repeat' first
    | with_reducible assumption
    | with_reducible exact Dry.refl _
    | with_reducible apply DryNext.next
    | with_reducible apply DryNext.ite
    | with_reducible apply Dry.ite
    | with_reducible apply goTo_dry
    | with_reducible apply setH_dry
    | with_reducible apply sendMsix_dry
    | with_reducible apply dryParts_of
    | intro _
    | with_reducible refine Dry.of_eq (by assumption) ?_
    | with_reducible refine Dry.of_eq_snd (by assumption) ?_
    | simp only [dry_mk]
    | split

theorem execFlitNak_dry (port : ℕ) {s : State} : s.DryNext (execFlitNak port s) := by
  unfold execFlitNak
  repeat' first
    | with_reducible assumption
    | with_reducible exact Dry.refl _
    | with_reducible apply DryNext.next
    | with_reducible apply DryNext.ite
    | with_reducible apply Dry.ite
    | with_reducible apply bump_dry
    | with_reducible apply aerCorrectable_dry
    | with_reducible apply dryParts_of
    | intro _
    | with_reducible refine Dry.of_eq (by assumption) ?_
    | with_reducible refine Dry.of_eq_snd (by assumption) ?_
    | simp only [dry_mk]
    | split

theorem execReplayTimeout_dry (port : ℕ) (rollover : Bool) {s : State} : s.DryNext (execReplayTimeout port rollover s) := by
  unfold execReplayTimeout
  repeat' first
    | with_reducible assumption
    | with_reducible exact Dry.refl _
    | with_reducible apply DryNext.next
    | with_reducible apply DryNext.ite
    | with_reducible apply Dry.ite
    | with_reducible apply bump_dry
    | with_reducible apply aerCorrectable_dry
    | with_reducible apply dryParts_of
    | intro _
    | with_reducible refine Dry.of_eq (by assumption) ?_
    | with_reducible refine Dry.of_eq_snd (by assumption) ?_
    | simp only [dry_mk]
    | split

theorem execPerstNRelease_dry (port : ℕ) {s : State} : s.DryNext (execPerstNRelease port s) := by
  unfold execPerstNRelease
  repeat' first
    | with_reducible assumption
    | with_reducible exact Dry.refl _
    | with_reducible apply DryNext.next
    | with_reducible apply DryNext.ite
    | with_reducible apply Dry.ite
    | with_reducible apply setH_dry
    | with_reducible apply dryParts_of
    | intro _
    | with_reducible refine Dry.of_eq (by assumption) ?_
    | with_reducible refine Dry.of_eq_snd (by assumption) ?_
    | simp only [dry_mk]
    | split

theorem State.functionReset_dry {r s : State} (h : r.Dry s) (port : ℕ) (func : ℕ) : r.Dry (State.functionReset s port func) := by
  unfold State.functionReset
  repeat' first
    | with_reducible assumption
    | with_reducible exact Dry.refl _
    | with_reducible apply Dry.ite
    | with_reducible apply haltQuarter_dry
    | with_reducible apply wr_dry
    | with_reducible apply resetFunc_dry
    | with_reducible apply dryParts_of
    | intro _
    | with_reducible refine Dry.of_eq (by assumption) ?_
    | with_reducible refine Dry.of_eq_snd (by assumption) ?_
    | simp only [dry_mk]
    | split

theorem execFunctionLevelReset_dry (port : ℕ) (func : ℕ) {s : State} : s.DryNext (execFunctionLevelReset port func s) := by
  unfold execFunctionLevelReset
  repeat' first
    | with_reducible assumption
    | with_reducible exact Dry.refl _
    | with_reducible apply DryNext.next
    | with_reducible apply DryNext.ite
    | with_reducible apply Dry.ite
    | with_reducible apply functionReset_dry
    | with_reducible apply dryParts_of
    | intro _
    | with_reducible refine Dry.of_eq (by assumption) ?_
    | with_reducible refine Dry.of_eq_snd (by assumption) ?_
    | simp only [dry_mk]
    | split

theorem execIdeIntegrityFail_dry (port : ℕ) (stream : ℕ) {s : State} : s.DryNext (execIdeIntegrityFail port stream s) := by
  unfold execIdeIntegrityFail
  repeat' first
    | with_reducible assumption
    | with_reducible exact Dry.refl _
    | with_reducible apply DryNext.next
    | with_reducible apply DryNext.ite
    | with_reducible apply Dry.ite
    | with_reducible apply raisePf_dry
    | with_reducible apply mark_dry
    | with_reducible apply setH_dry
    | with_reducible apply dryParts_of
    | intro _
    | with_reducible refine Dry.of_eq (by assumption) ?_
    | with_reducible refine Dry.of_eq_snd (by assumption) ?_
    | simp only [dry_mk]
    | split

theorem execPortAdaptationRefresh_dry (port : ℕ) {s : State} : s.DryNext (execPortAdaptationRefresh port s) := by
  unfold execPortAdaptationRefresh
  repeat' first
    | with_reducible assumption
    | with_reducible exact Dry.refl _
    | with_reducible apply DryNext.next
    | with_reducible apply DryNext.ite
    | with_reducible apply Dry.ite
    | with_reducible apply goTo_dry
    | with_reducible apply dryParts_of
    | intro _
    | with_reducible refine Dry.of_eq (by assumption) ?_
    | with_reducible refine Dry.of_eq_snd (by assumption) ?_
    | simp only [dry_mk]
    | split

theorem execTimerCompare_dry (q : ℕ) (c : ℕ) {s : State} : s.DryNext (execTimerCompare q c s) := by
  unfold execTimerCompare
  repeat' first
    | with_reducible assumption
    | with_reducible exact Dry.refl _
    | with_reducible apply DryNext.next
    | with_reducible apply DryNext.ite
    | with_reducible apply Dry.ite
    | with_reducible apply goTo_dry
    | with_reducible apply setH_dry
    | with_reducible apply dryParts_of
    | intro _
    | with_reducible refine Dry.of_eq (by assumption) ?_
    | with_reducible refine Dry.of_eq_snd (by assumption) ?_
    | simp only [dry_mk]
    | split

theorem State.bootCfw_dry {r s : State} (h : r.Dry s) : r.Dry (State.bootCfw s).1 := by
  unfold State.bootCfw
  repeat' first
    | with_reducible assumption
    | with_reducible exact Dry.refl _
    | with_reducible apply Dry.ite
    | with_reducible apply Dry.ite_fst
    | with_reducible apply wr_dry
    | with_reducible apply mark_dry
    | with_reducible apply dryParts_of
    | intro _
    | with_reducible refine Dry.of_eq (by assumption) ?_
    | with_reducible refine Dry.of_eq_snd (by assumption) ?_
    | simp only [dry_mk]
    | split

theorem State.useObject_dry {r s : State} (h : r.Dry s) (use : ℕ) (src : ℕ) (ty : ℕ) : r.Dry (State.useObject s use src ty) := by
  unfold State.useObject
  repeat' first
    | with_reducible assumption
    | with_reducible exact Dry.refl _
    | with_reducible apply Dry.ite
    | with_reducible apply setObj_dry
    | with_reducible apply dryParts_of
    | intro _
    | with_reducible refine Dry.of_eq (by assumption) ?_
    | with_reducible refine Dry.of_eq_snd (by assumption) ?_
    | simp only [dry_mk]
    | split

theorem State.startControl_dry {r s : State} (h : r.Dry s) (pair0 : Bool) (pair1 : Bool) : r.Dry (State.startControl s pair0 pair1) := by
  unfold State.startControl
  repeat' first
    | with_reducible assumption
    | with_reducible exact Dry.refl _
    | with_reducible apply Dry.ite
    | with_reducible apply Dry.ite_fst
    | with_reducible apply bootCfw_dry
    | with_reducible apply useObject_dry
    | with_reducible apply wr_dry
    | with_reducible apply setH_dry
    | with_reducible apply newMeasurement_dry
    | with_reducible apply dryParts_of
    | intro _
    | with_reducible refine Dry.of_eq (by assumption) ?_
    | with_reducible refine Dry.of_eq_snd (by assumption) ?_
    | simp only [dry_mk]
    | split

theorem State.dropBanks_dry {r s : State} (h : r.Dry s) : r.Dry (State.dropBanks s) := by
  unfold State.dropBanks
  repeat' first
    | with_reducible assumption
    | with_reducible exact Dry.refl _
    | with_reducible apply Dry.ite
    | with_reducible apply syncBusy_dry
    | with_reducible apply dropCmds_dry
    | with_reducible apply setEngine_dry
    | with_reducible refine Dry.foldl ?_ (fun u x => ?_)
    | with_reducible refine Dry.foldl_fst ?_ (fun u x => ?_)
    | with_reducible apply dryParts_of
    | intro _
    | with_reducible refine Dry.of_eq (by assumption) ?_
    | with_reducible refine Dry.of_eq_snd (by assumption) ?_
    | simp only [dry_mk]
    | split

theorem State.stopRings_dry {r s : State} (h : r.Dry s) : r.Dry (State.stopRings s) := by
  unfold State.stopRings
  repeat' first
    | with_reducible assumption
    | with_reducible exact Dry.refl _
    | with_reducible apply Dry.ite
    | with_reducible apply clearHandshakes_dry
    | with_reducible apply wr_dry
    | with_reducible refine Dry.foldl ?_ (fun u x => ?_)
    | with_reducible refine Dry.foldl_fst ?_ (fun u x => ?_)
    | with_reducible apply dryParts_of
    | intro _
    | with_reducible refine Dry.of_eq (by assumption) ?_
    | with_reducible refine Dry.of_eq_snd (by assumption) ?_
    | simp only [dry_mk]
    | split

theorem State.retrainPorts_dry {r s : State} (h : r.Dry s) : r.Dry (State.retrainPorts s) := by
  unfold State.retrainPorts
  repeat' first
    | with_reducible assumption
    | with_reducible exact Dry.refl _
    | with_reducible apply Dry.ite
    | with_reducible apply resetFunc_dry
    | with_reducible apply linkGone_dry
    | with_reducible refine Dry.foldl ?_ (fun u x => ?_)
    | with_reducible refine Dry.foldl_fst ?_ (fun u x => ?_)
    | with_reducible apply dryParts_of
    | intro _
    | with_reducible refine Dry.of_eq (by assumption) ?_
    | with_reducible refine Dry.of_eq_snd (by assumption) ?_
    | simp only [dry_mk]
    | split

theorem execLockstepMismatch_dry {s : State} : s.DryNext (execLockstepMismatch s) := by
  unfold execLockstepMismatch
  repeat' first
    | with_reducible assumption
    | with_reducible exact Dry.refl _
    | with_reducible apply DryNext.next
    | with_reducible apply DryNext.ite
    | with_reducible apply Dry.ite
    | with_reducible apply mcLog_dry
    | with_reducible apply setH_dry
    | with_reducible apply mark_dry
    | with_reducible apply wr_dry
    | with_reducible apply startQuiesce_dry
    | with_reducible apply dryParts_of
    | intro _
    | with_reducible refine Dry.of_eq (by assumption) ?_
    | with_reducible refine Dry.of_eq_snd (by assumption) ?_
    | simp only [dry_mk]
    | split

theorem execCpPairRetest_dry (pass : Bool) {s : State} : s.DryNext (execCpPairRetest pass s) := by
  unfold execCpPairRetest
  repeat' first
    | with_reducible assumption
    | with_reducible exact Dry.refl _
    | with_reducible apply DryNext.next
    | with_reducible apply DryNext.ite
    | with_reducible apply Dry.ite
    | with_reducible apply setH_dry
    | with_reducible apply wr_dry
    | with_reducible apply dryParts_of
    | intro _
    | with_reducible refine Dry.of_eq (by assumption) ?_
    | with_reducible refine Dry.of_eq_snd (by assumption) ?_
    | simp only [dry_mk]
    | split

theorem execMcWatchdog_dry {s : State} : s.DryNext (execMcWatchdog s) := by
  unfold execMcWatchdog
  repeat' first
    | with_reducible assumption
    | with_reducible exact Dry.refl _
    | with_reducible apply DryNext.next
    | with_reducible apply DryNext.ite
    | with_reducible apply Dry.ite
    | with_reducible apply newMeasurement_dry
    | with_reducible apply mcLog_dry
    | with_reducible apply dryParts_of
    | intro _
    | with_reducible refine Dry.of_eq (by assumption) ?_
    | with_reducible refine Dry.of_eq_snd (by assumption) ?_
    | simp only [dry_mk]
    | split

theorem execUnitSelfTest_dry (failing : List (ℕ × ℕ × ℕ)) {s : State} : s.DryNext (execUnitSelfTest failing s) := by
  unfold execUnitSelfTest
  repeat' first
    | with_reducible assumption
    | with_reducible exact Dry.refl _
    | with_reducible apply DryNext.next
    | with_reducible apply DryNext.ite
    | with_reducible apply Dry.ite
    | with_reducible apply goTo_dry
    | with_reducible apply setH_dry
    | with_reducible refine Dry.foldl ?_ (fun u x => ?_)
    | with_reducible refine Dry.foldl_fst ?_ (fun u x => ?_)
    | with_reducible apply dryParts_of
    | intro _
    | with_reducible refine Dry.of_eq (by assumption) ?_
    | with_reducible refine Dry.of_eq_snd (by assumption) ?_
    | simp only [dry_mk]
    | split

theorem execReceiverAdaptationRefresh_dry (failing : List (ℕ × ℕ × ℕ)) {s : State} : s.DryNext (execReceiverAdaptationRefresh failing s) := by
  unfold execReceiverAdaptationRefresh
  repeat' first
    | with_reducible assumption
    | with_reducible exact Dry.refl _
    | with_reducible apply DryNext.next
    | with_reducible apply DryNext.ite
    | with_reducible apply Dry.ite
    | with_reducible apply goTo_dry
    | with_reducible apply setH_dry
    | with_reducible apply laneFails_dry
    | with_reducible apply mcLog_dry
    | with_reducible apply addH_dry
    | with_reducible refine Dry.foldl ?_ (fun u x => ?_)
    | with_reducible refine Dry.foldl_fst ?_ (fun u x => ?_)
    | with_reducible apply dryParts_of
    | intro _
    | with_reducible refine Dry.of_eq (by assumption) ?_
    | with_reducible refine Dry.of_eq_snd (by assumption) ?_
    | simp only [dry_mk]
    | split

theorem execModRstN_dry {s : State} : s.DryNext (execModRstN s) := by
  unfold execModRstN
  repeat' first
    | with_reducible assumption
    | with_reducible exact Dry.refl _
    | with_reducible apply DryNext.next
    | with_reducible apply DryNext.ite
    | with_reducible apply Dry.ite
    | with_reducible apply startQuiesce_dry
    | with_reducible apply setH_dry
    | with_reducible apply dryParts_of
    | intro _
    | with_reducible refine Dry.of_eq (by assumption) ?_
    | with_reducible refine Dry.of_eq_snd (by assumption) ?_
    | simp only [dry_mk]
    | split

theorem State.identity_dry {r s : State} (h : r.Dry s) (kind : ℕ) (n : ℕ) : r.Dry (State.identity s kind n).1 := by
  unfold State.identity
  repeat' first
    | with_reducible assumption
    | with_reducible exact Dry.refl _
    | with_reducible apply Dry.ite
    | with_reducible apply Dry.ite_fst
    | with_reducible apply fresh_dry
    | with_reducible apply dryParts_of
    | intro _
    | with_reducible refine Dry.of_eq (by assumption) ?_
    | with_reducible refine Dry.of_eq_snd (by assumption) ?_
    | simp only [dry_mk]
    | split

theorem State.spdmError_dry {r s : State} (h : r.Dry s) (status : ℕ) (code : ℕ) : r.Dry (State.spdmError s status code) := by
  unfold State.spdmError
  repeat' first
    | with_reducible assumption
    | with_reducible exact Dry.refl _
    | with_reducible apply Dry.ite
    | with_reducible apply answer_dry
    | with_reducible apply dryParts_of
    | intro _
    | with_reducible refine Dry.of_eq (by assumption) ?_
    | with_reducible refine Dry.of_eq_snd (by assumption) ?_
    | simp only [dry_mk]
    | split

theorem State.spdmMeasurements_dry {r s : State} (h : r.Dry s) (i : ℕ) : r.Dry (State.spdmMeasurements s i) := by
  unfold State.spdmMeasurements
  repeat' first
    | with_reducible assumption
    | with_reducible exact Dry.refl _
    | with_reducible apply Dry.ite
    | with_reducible apply Dry.ite_fst
    | with_reducible apply identity_dry
    | with_reducible apply answer_dry
    | with_reducible apply dryParts_of
    | intro _
    | with_reducible refine Dry.of_eq (by assumption) ?_
    | with_reducible refine Dry.of_eq_snd (by assumption) ?_
    | simp only [dry_mk]
    | split

theorem State.spdm_dry {r s : State} (h : r.Dry s) (t : ℕ) (k : SpdmKind) : r.Dry (State.spdm s t k) := by
  unfold State.spdm
  repeat' first
    | with_reducible assumption
    | with_reducible exact Dry.refl _
    | with_reducible apply Dry.ite
    | with_reducible apply Dry.ite_fst
    | with_reducible apply answer_dry
    | with_reducible apply identity_dry
    | with_reducible apply spdmMeasurements_dry
    | with_reducible apply spdmError_dry
    | with_reducible apply addH_dry
    | with_reducible apply setH_dry
    | with_reducible apply dryParts_of
    | intro _
    | with_reducible refine Dry.of_eq (by assumption) ?_
    | with_reducible refine Dry.of_eq_snd (by assumption) ?_
    | simp only [dry_mk]
    | split

theorem State.tap_dry {r s : State} (h : r.Dry s) (opcode : ℕ) (cond : Bool) (run : State → State × List Byte) (hrun : ∀ (u : State), u.Dry (run u).1)
    : r.Dry (State.tap s opcode cond run) := by
  unfold State.tap
  repeat' first
    | with_reducible assumption
    | with_reducible exact Dry.refl _
    | with_reducible apply Dry.ite
    | with_reducible refine Dry.trans ?_ (hrun _)
    | with_reducible apply setH_dry
    | with_reducible apply answer_dry
    | with_reducible apply dryParts_of
    | intro _
    | with_reducible refine Dry.of_eq (by assumption) ?_
    | with_reducible refine Dry.of_eq_snd (by assumption) ?_
    | simp only [dry_mk]
    | split

theorem State.tapShow_dry {r s : State} (h : r.Dry s) (opcode : ℕ) (cond : Bool) (d : List Byte) : r.Dry (State.tapShow s opcode cond d) := by
  unfold State.tapShow
  repeat' first
    | with_reducible assumption
    | with_reducible exact Dry.refl _
    | with_reducible apply Dry.ite
    | with_reducible apply tap_dry
    | with_reducible apply dryParts_of
    | intro _
    | with_reducible refine Dry.of_eq (by assumption) ?_
    | with_reducible refine Dry.of_eq_snd (by assumption) ?_
    | simp only [dry_mk]
    | split

theorem execSpdmRequest_dry (transport : ℕ) (k : SpdmKind) {s : State} : s.DryNext (execSpdmRequest transport k s) := by
  unfold execSpdmRequest
  repeat' first
    | with_reducible assumption
    | with_reducible exact Dry.refl _
    | with_reducible apply DryNext.next
    | with_reducible apply DryNext.ite
    | with_reducible apply Dry.ite
    | with_reducible apply spdm_dry
    | with_reducible apply dryParts_of
    | intro _
    | with_reducible refine Dry.of_eq (by assumption) ?_
    | with_reducible refine Dry.of_eq_snd (by assumption) ?_
    | simp only [dry_mk]
    | split

theorem execExtest_dry {s : State} : s.DryNext (execExtest s) := by
  unfold execExtest
  repeat' first
    | with_reducible assumption
    | with_reducible exact Dry.refl _
    | with_reducible apply DryNext.next
    | with_reducible apply DryNext.ite
    | with_reducible apply Dry.ite
    | with_reducible apply tapShow_dry
    | with_reducible apply dryParts_of
    | intro _
    | with_reducible refine Dry.of_eq (by assumption) ?_
    | with_reducible refine Dry.of_eq_snd (by assumption) ?_
    | simp only [dry_mk]
    | split

theorem execSamplePreload_dry {s : State} : s.DryNext (execSamplePreload s) := by
  unfold execSamplePreload
  repeat' first
    | with_reducible assumption
    | with_reducible exact Dry.refl _
    | with_reducible apply DryNext.next
    | with_reducible apply DryNext.ite
    | with_reducible apply Dry.ite
    | with_reducible apply tapShow_dry
    | with_reducible apply dryParts_of
    | intro _
    | with_reducible refine Dry.of_eq (by assumption) ?_
    | with_reducible refine Dry.of_eq_snd (by assumption) ?_
    | simp only [dry_mk]
    | split

theorem execIdcode_dry {s : State} : s.DryNext (execIdcode s) := by
  unfold execIdcode
  repeat' first
    | with_reducible assumption
    | with_reducible exact Dry.refl _
    | with_reducible apply DryNext.next
    | with_reducible apply DryNext.ite
    | with_reducible apply Dry.ite
    | with_reducible apply tapShow_dry
    | with_reducible apply dryParts_of
    | intro _
    | with_reducible refine Dry.of_eq (by assumption) ?_
    | with_reducible refine Dry.of_eq_snd (by assumption) ?_
    | simp only [dry_mk]
    | split

theorem execClamp_dry {s : State} : s.DryNext (execClamp s) := by
  unfold execClamp
  repeat' first
    | with_reducible assumption
    | with_reducible exact Dry.refl _
    | with_reducible apply DryNext.next
    | with_reducible apply DryNext.ite
    | with_reducible apply Dry.ite
    | with_reducible apply tapShow_dry
    | with_reducible apply dryParts_of
    | intro _
    | with_reducible refine Dry.of_eq (by assumption) ?_
    | with_reducible refine Dry.of_eq_snd (by assumption) ?_
    | simp only [dry_mk]
    | split

theorem execHighz_dry {s : State} : s.DryNext (execHighz s) := by
  unfold execHighz
  repeat' first
    | with_reducible assumption
    | with_reducible exact Dry.refl _
    | with_reducible apply DryNext.next
    | with_reducible apply DryNext.ite
    | with_reducible apply Dry.ite
    | with_reducible apply tapShow_dry
    | with_reducible apply dryParts_of
    | intro _
    | with_reducible refine Dry.of_eq (by assumption) ?_
    | with_reducible refine Dry.of_eq_snd (by assumption) ?_
    | simp only [dry_mk]
    | split

theorem execDbgState_dry {s : State} : s.DryNext (execDbgState s) := by
  unfold execDbgState
  repeat' first
    | with_reducible assumption
    | with_reducible exact Dry.refl _
    | with_reducible apply DryNext.next
    | with_reducible apply DryNext.ite
    | with_reducible apply Dry.ite
    | with_reducible apply tapShow_dry
    | with_reducible apply dryParts_of
    | intro _
    | with_reducible refine Dry.of_eq (by assumption) ?_
    | with_reducible refine Dry.of_eq_snd (by assumption) ?_
    | simp only [dry_mk]
    | split

theorem execUnlockNonce_dry {s : State} : s.DryNext (execUnlockNonce s) := by
  unfold execUnlockNonce
  repeat' first
    | with_reducible assumption
    | with_reducible exact Dry.refl _
    | with_reducible apply DryNext.next
    | with_reducible apply DryNext.ite
    | with_reducible apply Dry.ite
    | with_reducible apply tapShow_dry
    | with_reducible apply dryParts_of
    | intro _
    | with_reducible refine Dry.of_eq (by assumption) ?_
    | with_reducible refine Dry.of_eq_snd (by assumption) ?_
    | simp only [dry_mk]
    | split

theorem execMcDebug_dry {s : State} : s.DryNext (execMcDebug s) := by
  unfold execMcDebug
  repeat' first
    | with_reducible assumption
    | with_reducible exact Dry.refl _
    | with_reducible apply DryNext.next
    | with_reducible apply DryNext.ite
    | with_reducible apply Dry.ite
    | with_reducible apply tapShow_dry
    | with_reducible apply dryParts_of
    | intro _
    | with_reducible refine Dry.of_eq (by assumption) ?_
    | with_reducible refine Dry.of_eq_snd (by assumption) ?_
    | simp only [dry_mk]
    | split

theorem execCpDebug_dry {s : State} : s.DryNext (execCpDebug s) := by
  unfold execCpDebug
  repeat' first
    | with_reducible assumption
    | with_reducible exact Dry.refl _
    | with_reducible apply DryNext.next
    | with_reducible apply DryNext.ite
    | with_reducible apply Dry.ite
    | with_reducible apply tapShow_dry
    | with_reducible apply dryParts_of
    | intro _
    | with_reducible refine Dry.of_eq (by assumption) ?_
    | with_reducible refine Dry.of_eq_snd (by assumption) ?_
    | simp only [dry_mk]
    | split

theorem execBypass_dry {s : State} : s.DryNext (execBypass s) := by
  unfold execBypass
  repeat' first
    | with_reducible assumption
    | with_reducible exact Dry.refl _
    | with_reducible apply DryNext.next
    | with_reducible apply DryNext.ite
    | with_reducible apply Dry.ite
    | with_reducible apply tapShow_dry
    | with_reducible apply dryParts_of
    | intro _
    | with_reducible refine Dry.of_eq (by assumption) ?_
    | with_reducible refine Dry.of_eq_snd (by assumption) ?_
    | simp only [dry_mk]
    | split

theorem State.doeRespond_dry {r s : State} (h : r.Dry s) (f : ℕ) (head : ℕ) (payload : List Byte) : r.Dry (State.doeRespond s f head payload) := by
  unfold State.doeRespond
  repeat' first
    | with_reducible assumption
    | with_reducible exact Dry.refl _
    | with_reducible apply Dry.ite
    | with_reducible apply setH_dry
    | with_reducible refine Dry.foldl ?_ (fun u x => ?_)
    | with_reducible refine Dry.foldl_fst ?_ (fun u x => ?_)
    | with_reducible apply dryParts_of
    | intro _
    | with_reducible refine Dry.of_eq (by assumption) ?_
    | with_reducible refine Dry.of_eq_snd (by assumption) ?_
    | simp only [dry_mk]
    | split

theorem State.doeGo_dry {r s : State} (h : r.Dry s) (port : ℕ) (func : ℕ) : r.Dry (State.doeGo s port func) := by
  unfold State.doeGo
  repeat' first
    | with_reducible assumption
    | with_reducible exact Dry.refl _
    | with_reducible apply Dry.ite
    | with_reducible apply setH_dry
    | with_reducible apply doeRespond_dry
    | with_reducible apply spdm_dry
    | with_reducible apply dryParts_of
    | intro _
    | with_reducible refine Dry.of_eq (by assumption) ?_
    | with_reducible refine Dry.of_eq_snd (by assumption) ?_
    | simp only [dry_mk]
    | split

theorem State.doeWrite_dry {r s : State} (h : r.Dry s) (port : ℕ) (func : ℕ) (off : ℕ) (val : ℕ) : r.Dry (State.doeWrite s port func off val) := by
  unfold State.doeWrite
  repeat' first
    | with_reducible assumption
    | with_reducible exact Dry.refl _
    | with_reducible apply Dry.ite
    | with_reducible apply setH_dry
    | with_reducible apply doeGo_dry
    | with_reducible apply addH_dry
    | with_reducible apply dryParts_of
    | intro _
    | with_reducible refine Dry.of_eq (by assumption) ?_
    | with_reducible refine Dry.of_eq_snd (by assumption) ?_
    | simp only [dry_mk]
    | split

theorem State.cfgHold_dry {r s : State} (h : r.Dry s) (f : ℕ) (vf : Bool) (off : ℕ) (val : ℕ) : r.Dry (State.cfgHold s f vf off val) := by
  unfold State.cfgHold
  repeat' first
    | with_reducible assumption
    | with_reducible exact Dry.refl _
    | with_reducible apply Dry.ite
    | with_reducible apply setH_dry
    | with_reducible apply dryParts_of
    | intro _
    | with_reducible refine Dry.of_eq (by assumption) ?_
    | with_reducible refine Dry.of_eq_snd (by assumption) ?_
    | simp only [dry_mk]
    | split

theorem State.cfgWrite_dry {r s : State} (h : r.Dry s) (port : ℕ) (func : ℕ) (off : ℕ) (val : ℕ) : r.Dry (State.cfgWrite s port func off val) := by
  unfold State.cfgWrite
  repeat' first
    | with_reducible assumption
    | with_reducible exact Dry.refl _
    | with_reducible apply Dry.ite
    | with_reducible apply cfgHold_dry
    | with_reducible apply setH_dry
    | with_reducible apply sendMsix_dry
    | with_reducible apply functionReset_dry
    | with_reducible apply doeWrite_dry
    | with_reducible refine Dry.foldl ?_ (fun u x => ?_)
    | with_reducible refine Dry.foldl_fst ?_ (fun u x => ?_)
    | with_reducible apply dryParts_of
    | intro _
    | with_reducible refine Dry.of_eq (by assumption) ?_
    | with_reducible refine Dry.of_eq_snd (by assumption) ?_
    | simp only [dry_mk]
    | split

theorem State.configAccess_dry {r s : State} (h : r.Dry s) (port : ℕ) (func : ℕ) (off : ℕ) (write : Bool) (val : ℕ) : r.Dry (State.configAccess s port
    func off write val) := by
  unfold State.configAccess
  repeat' first
    | with_reducible assumption
    | with_reducible exact Dry.refl _
    | with_reducible apply Dry.ite
    | with_reducible apply answer_dry
    | with_reducible apply cfgWrite_dry
    | with_reducible apply dryParts_of
    | intro _
    | with_reducible refine Dry.of_eq (by assumption) ?_
    | with_reducible refine Dry.of_eq_snd (by assumption) ?_
    | simp only [dry_mk]
    | split

theorem execConfigRequest_dry (port : ℕ) (func : ℕ) (off : ℕ) (write : Bool) (val : ℕ) {s : State} : s.DryNext (execConfigRequest port func off write
    val s) := by
  unfold execConfigRequest
  repeat' first
    | with_reducible assumption
    | with_reducible exact Dry.refl _
    | with_reducible apply DryNext.next
    | with_reducible apply DryNext.ite
    | with_reducible apply Dry.ite
    | with_reducible apply answer_dry
    | with_reducible apply configAccess_dry
    | with_reducible apply dryParts_of
    | intro _
    | with_reducible refine Dry.of_eq (by assumption) ?_
    | with_reducible refine Dry.of_eq_snd (by assumption) ?_
    | simp only [dry_mk]
    | split

theorem State.bootMfw_dry {r s : State} (h : r.Dry s) : r.Dry (State.bootMfw s) := by
  unfold State.bootMfw
  repeat' first
    | with_reducible assumption
    | with_reducible exact Dry.refl _
    | with_reducible apply Dry.ite
    | with_reducible apply setH_dry
    | with_reducible apply wr_dry
    | with_reducible apply mark_dry
    | with_reducible apply dryParts_of
    | intro _
    | with_reducible refine Dry.of_eq (by assumption) ?_
    | with_reducible refine Dry.of_eq_snd (by assumption) ?_
    | simp only [dry_mk]
    | split

theorem State.startBay_dry {r s : State} (h : r.Dry s) (d : ℕ) : r.Dry (State.startBay s d) := by
  unfold State.startBay
  repeat' first
    | with_reducible assumption
    | with_reducible exact Dry.refl _
    | with_reducible apply Dry.ite
    | with_reducible apply askService_dry
    | with_reducible apply wr_dry
    | with_reducible apply dryParts_of
    | intro _
    | with_reducible refine Dry.of_eq (by assumption) ?_
    | with_reducible refine Dry.of_eq_snd (by assumption) ?_
    | simp only [dry_mk]
    | split

theorem State.startSweep_dry {r s : State} (h : r.Dry s) (cause : ℕ) : r.Dry (State.startSweep s cause) := by
  unfold State.startSweep
  repeat' first
    | with_reducible assumption
    | with_reducible exact Dry.refl _
    | with_reducible apply Dry.ite
    | with_reducible apply setH_dry
    | with_reducible apply wr_dry
    | with_reducible apply stopAll_dry
    | with_reducible apply mark_dry
    | with_reducible apply dryParts_of
    | intro _
    | with_reducible refine Dry.of_eq (by assumption) ?_
    | with_reducible refine Dry.of_eq_snd (by assumption) ?_
    | simp only [dry_mk]
    | split

theorem execInputUndervoltage_dry {s : State} : s.DryNext (execInputUndervoltage s) := by
  unfold execInputUndervoltage
  repeat' first
    | with_reducible assumption
    | with_reducible exact Dry.refl _
    | with_reducible apply DryNext.next
    | with_reducible apply DryNext.ite
    | with_reducible apply Dry.ite
    | with_reducible apply startSweep_dry
    | with_reducible apply dryParts_of
    | intro _
    | with_reducible refine Dry.of_eq (by assumption) ?_
    | with_reducible refine Dry.of_eq_snd (by assumption) ?_
    | simp only [dry_mk]
    | split

theorem execPwrWarn_dry {s : State} : s.DryNext (execPwrWarn s) := by
  unfold execPwrWarn
  repeat' first
    | with_reducible assumption
    | with_reducible exact Dry.refl _
    | with_reducible apply DryNext.next
    | with_reducible apply DryNext.ite
    | with_reducible apply Dry.ite
    | with_reducible apply startSweep_dry
    | with_reducible apply dryParts_of
    | intro _
    | with_reducible refine Dry.of_eq (by assumption) ?_
    | with_reducible refine Dry.of_eq_snd (by assumption) ?_
    | simp only [dry_mk]
    | split

theorem execAuxSupplyLoss_dry {s : State} : s.DryNext (execAuxSupplyLoss s) := by
  unfold execAuxSupplyLoss
  repeat' first
    | with_reducible assumption
    | with_reducible exact Dry.refl _
    | with_reducible apply DryNext.next
    | with_reducible apply DryNext.ite
    | with_reducible apply Dry.ite
    | with_reducible apply startSweep_dry
    | with_reducible apply dryParts_of
    | intro _
    | with_reducible refine Dry.of_eq (by assumption) ?_
    | with_reducible refine Dry.of_eq_snd (by assumption) ?_
    | simp only [dry_mk]
    | split

theorem execThermalTrip_dry (die : ℕ) (base : ℕ) {s : State} : s.DryNext (execThermalTrip die base s) := by
  unfold execThermalTrip
  repeat' first
    | with_reducible assumption
    | with_reducible exact Dry.refl _
    | with_reducible apply DryNext.next
    | with_reducible apply DryNext.ite
    | with_reducible apply Dry.ite
    | with_reducible apply startSweep_dry
    | with_reducible apply dryParts_of
    | intro _
    | with_reducible refine Dry.of_eq (by assumption) ?_
    | with_reducible refine Dry.of_eq_snd (by assumption) ?_
    | simp only [dry_mk]
    | split

theorem execFlowTrip_dry {s : State} : s.DryNext (execFlowTrip s) := by
  unfold execFlowTrip
  repeat' first
    | with_reducible assumption
    | with_reducible exact Dry.refl _
    | with_reducible apply DryNext.next
    | with_reducible apply DryNext.ite
    | with_reducible apply Dry.ite
    | with_reducible apply startSweep_dry
    | with_reducible apply dryParts_of
    | intro _
    | with_reducible refine Dry.of_eq (by assumption) ?_
    | with_reducible refine Dry.of_eq_snd (by assumption) ?_
    | simp only [dry_mk]
    | split

theorem execRepower_dry (ms : ℕ) (vin : ℕ) {s : State} : s.DryNext (execRepower ms vin s) := by
  unfold execRepower
  repeat' first
    | with_reducible assumption
    | with_reducible exact Dry.refl _
    | with_reducible apply DryNext.next
    | with_reducible apply DryNext.ite
    | with_reducible apply Dry.ite
    | with_reducible apply setH_dry
    | with_reducible apply dryParts_of
    | intro _
    | with_reducible refine Dry.of_eq (by assumption) ?_
    | with_reducible refine Dry.of_eq_snd (by assumption) ?_
    | simp only [dry_mk]
    | split

theorem execPldmFirmwareUpdate_dry (slot : ℕ) (obj : SignedObj) {s : State} : s.DryNext (execPldmFirmwareUpdate slot obj s) := by
  unfold execPldmFirmwareUpdate
  repeat' first
    | with_reducible assumption
    | with_reducible exact Dry.refl _
    | with_reducible apply DryNext.next
    | with_reducible apply DryNext.ite
    | with_reducible apply Dry.ite
    | with_reducible apply answer_dry
    | with_reducible apply setObj_dry
    | with_reducible apply dryParts_of
    | intro _
    | with_reducible refine Dry.of_eq (by assumption) ?_
    | with_reducible refine Dry.of_eq_snd (by assumption) ?_
    | simp only [dry_mk]
    | split

theorem State.idle_dry {r s : State} (h : r.Dry s) : r.Dry (State.idle s) := by
  unfold State.idle
  repeat' first
    | with_reducible assumption
    | with_reducible exact Dry.refl _
    | with_reducible apply Dry.ite
    | with_reducible apply goTo_dry
    | with_reducible apply dryParts_of
    | intro _
    | with_reducible refine Dry.of_eq (by assumption) ?_
    | with_reducible refine Dry.of_eq_snd (by assumption) ?_
    | simp only [dry_mk]
    | split

end Sys2Proof.Machine

end
end

