-- ==== Sys2Proof/Laws/KeepsBase.lean ====
section
/-! SUPPORT. The relation `State.Keeps` (nothing touches the queue or the kind of module, and a sound state stays sound) for the operations that change a
state, and how it goes through what the meanings are built of. -/

namespace Sys2Proof.Machine

theorem Fld.resetVal_lt (b : Bool) (f : Fld) : f.resetVal b < 2 ^ f.width := by cases b <;> cases f <;> decide

namespace State

theorem Keeps.refl (s : State) : s.Keeps s := ⟨rfl, rfl, fun h => h⟩

theorem Keeps.trans {s t u : State} (h1 : s.Keeps t) (h2 : t.Keeps u) : s.Keeps u :=
  ⟨h2.pending.trans h1.pending, h2.lt09.trans h1.lt09, fun h => h2.inv (h1.inv h)⟩

/-- An update of anything but the queue, the kind of module, the registers and the memories. -/
theorem Keeps.upd {s t u : State} (h : s.Keeps t) (hp : u.pending = t.pending) (hl : u.lt09 = t.lt09) (hr : u.regs = t.regs)
    (hm : u.mem = t.mem) (hh : u.hostMem = t.hostMem) : s.Keeps u :=
  ⟨hp.trans h.pending, hl.trans h.lt09, fun hi => by
    have ht := h.inv hi
    refine ⟨fun f i => ?_, ?_, ?_⟩
    · have := ht.fits f i
      simpa [rd, hl, hr] using this
    · rw [hm]
      exact ht.mem
    · rw [hh]
      exact ht.host⟩

/-- `Keeps` for the parts of a state that it speaks of. -/
def KeepsParts (s : State) (p : List Instr) (l : Bool) (g : Tab Nat) (m k : List Host.Cell) : Prop :=
  s.Keeps { s with pending := p, lt09 := l, regs := g, mem := m, hostMem := k }

theorem keepsParts_of {s t : State} (h : s.Keeps t) : s.KeepsParts t.pending t.lt09 t.regs t.mem t.hostMem := Keeps.upd h rfl rfl rfl rfl rfl

/-- A record: only the queue, the kind of module, the registers and the memories count. -/
theorem keeps_mk {s : State} {p : List Instr} {l : Bool} {g : Tab Nat} {m k : List Host.Cell}
    {x2 : Nat} {x3 : Nat} {x5 : Tab Nat} {x6 : Tab Nat} {x9 : Tab Nat} {x10 : Tab Nat} {x11 : List PLine} {x12 : List TlbEnt} {x13 : List Stall}
    {x14 : List Op} {x15 : List Nat} {x16 : List Nat} {x17 : List Nat} {x18 : List Strip} {x19 : List (Nat × Nat)} {x20 : List Fence} {x21 : List
    Suspect} {x22 : List Repeat} {x23 : List HistNow} {x24 : List (Nat × Cpl)} {x25 : Tab Nat} {x26 : Tab Nat} {x27 : List Late} {x28 : List (Nat
    × Nat)} {x29 : List IntMsg} {x30 : Reply} {x31 : List PLine} {x32 : List (Nat × List Byte)} {x33 : List PackStall} {x34 : List Claim} {x35 :
    List Req} {x36 : Tab Engine} {x37 : List (Nat × Nat × Nat × MemReq)} {x38 : Tab Nat} {x39 : List (Nat × Nat)} {x40 : List (Nat × List Nat)}
    {x41 : List Repair} {x42 : List (Nat × Nat × Nat × Nat)} {x43 : Option Snap} {x44 : Tab Nat} {x45 : List FeTx} {x46 : List FeRx} {x47 : List
    FeHeld} {x48 : List (Nat × List Byte)} {x49 : List (Nat × Nat × Nat × Nat)} {x50 : List (Nat × Nat × Nat)} {x51 : List InReq} {x52 : List
    CoreAcc} {x53 : List DirectStore} {x54 : List L2Line} {x55 : List Nat} :
    s.Keeps (State.mk p l x2 x3 g x5 x6 m k x9 x10 x11 x12 x13 x14 x15 x16 x17 x18 x19 x20 x21 x22 x23 x24 x25 x26 x27 x28 x29 x30 x31 x32 x33 x34
      x35 x36 x37 x38 x39 x40 x41 x42 x43 x44 x45 x46 x47 x48 x49 x50 x51 x52 x53 x54 x55) ↔ s.KeepsParts p l g m k :=
  ⟨fun h => Keeps.upd h rfl rfl rfl rfl rfl, fun h => Keeps.upd h rfl rfl rfl rfl rfl⟩

theorem Keeps.ite {s a b : State} {c : Prop} [Decidable c] (ha : s.Keeps a) (hb : s.Keeps b) : s.Keeps (if c then a else b) := by
  split
  · exact ha
  · exact hb

theorem Keeps.ite_fst {α : Type} {s : State} {a b : State × α} {c : Prop} [Decidable c] (ha : s.Keeps a.1) (hb : s.Keeps b.1) :
    s.Keeps (if c then a else b).1 := by
  split
  · exact ha
  · exact hb

theorem Keeps.foldl {α : Type} {s t : State} {f : State → α → State} {l : List α} (ht : s.Keeps t) (hf : ∀ (u : State) (x : α), u.Keeps (f u x)) :
    s.Keeps (l.foldl f t) := by
  induction l generalizing t with
  | nil => exact ht
  | cons x l ih => exact ih (ht.trans (hf t x))

/-- A fold that carries something beside the state. -/
theorem Keeps.foldl_fst {α β : Type} {s : State} {p : State × β} {f : State × β → α → State × β} {l : List α} (ht : s.Keeps p.1)
    (hf : ∀ (u : State × β) (x : α), u.1.Keeps (f u x).1) : s.Keeps (l.foldl f p).1 := by
  induction l generalizing p with
  | nil => exact ht
  | cons x l ih => exact ih (ht.trans (hf p x))

/-- A fold over what an engine carries. -/
theorem Keeps.foldl_st {α : Type} {s : State} {p : BankOut} {f : BankOut → α → BankOut} {l : List α} (ht : s.Keeps p.st)
    (hf : ∀ (u : BankOut) (x : α), u.st.Keeps (f u x).st) : s.Keeps (l.foldl f p).st := by
  induction l generalizing p with
  | nil => exact ht
  | cons x l ih => exact ih (ht.trans (hf p x))

theorem Keeps.ite_st {s : State} {a b : BankOut} {c : Prop} [Decidable c] (ha : s.Keeps a.st) (hb : s.Keeps b.st) :
    s.Keeps (if c then a else b).st := by
  split
  · exact ha
  · exact hb

/-- The state in a pair that a function gave. -/
theorem Keeps.of_eq {α : Type} {s t : State} {p : State × α} {x : α} (h : p = (t, x)) (hk : s.Keeps p.1) : s.Keeps t := by
  rw [h] at hk
  exact hk

theorem Keeps.of_eq_snd {α : Type} {s t : State} {p : α × State} {x : α} (h : p = (x, t)) (hk : s.Keeps p.2) : s.Keeps t := by
  rw [h] at hk
  exact hk

theorem wr_keeps {r s : State} (h : r.Keeps s) (f : Fld) (i v : Nat) : r.Keeps (s.wr f i v) :=
  h.trans ⟨rfl, rfl, fun hi => ⟨fun g j => by
    by_cases hfg : f = g ∧ i = j
    · obtain ⟨rfl, rfl⟩ := hfg
      rw [rd_wr_same]
      exact Nat.mod_lt _ (Nat.two_pow_pos _)
    · rw [rd_wr_other]
      · exact hi.fits g j
      · tauto, hi.mem, hi.host⟩⟩

theorem setH_keeps {r s : State} (h : r.Keeps s) (x : Hid) (i v : Nat) : r.Keeps (s.setH x i v) := Keeps.upd h rfl rfl rfl rfl rfl

theorem fresh_keeps {r s : State} (h : r.Keeps s) : r.Keeps s.fresh.2 := setH_keeps h _ _ _

theorem newId_keeps {r s : State} (h : r.Keeps s) : r.Keeps s.newId.2 := setH_keeps h _ _ _

theorem setByte_keeps {r s : State} (h : r.Keeps s) (t u a : Nat) (b : Byte) : r.Keeps (s.setByte t u a b) := by
  refine h.trans ?_
  unfold setByte
  split
  · exact ⟨rfl, rfl, fun hi => ⟨hi.fits, hi.mem, Tab.wf_set _ hi.host⟩⟩
  · exact ⟨rfl, rfl, fun hi => ⟨hi.fits, Tab.wf_set _ hi.mem, hi.host⟩⟩

theorem setBytes_keeps {r s : State} (h : r.Keeps s) (t u a : Nat) (bs : List Byte) : r.Keeps (s.setBytes t u a bs) := by
  induction bs generalizing s a with
  | nil => exact h
  | cons b bs ih => exact ih (setByte_keeps h t u a b) (a + 1)

theorem wipe_keeps {r s : State} (h : r.Keeps s) (p : Nat → Nat → Nat → Bool) : r.Keeps (s.wipe p) :=
  h.trans ⟨rfl, rfl, fun hi => ⟨hi.fits, by
    unfold Memory.wf wipe
    exact Tab.wf_keep (p := fun k => !p (k % 4) (k / 4 % 16) (k / 64)) _ hi.mem, hi.host⟩⟩

/-- An answer that is a next state keeps what `Keeps` says. -/
structure KeepsNext (s : State) (o : Host.Outcome State Fault Refusal) : Prop where
  out : ∀ t, o = .next t → s.Keeps t

theorem KeepsNext.next {s t : State} (h : s.Keeps t) : s.KeepsNext (.next t) := ⟨fun _ he => by
  cases he
  exact h⟩

theorem KeepsNext.ite {s : State} {a b : Host.Outcome State Fault Refusal} {c : Prop} [Decidable c] (ha : s.KeepsNext a)
    (hb : s.KeepsNext b) : s.KeepsNext (if c then a else b) := by
  split
  · exact ha
  · exact hb

end State

end Sys2Proof.Machine
end

