-- ==== Sys2Proof/Laws/Keeps.lean ====
section
/-! SUPPORT. `State.Keeps` (the queue and the kind of module stay, and a sound state stays sound) for every operation and command: one lemma each, in
the order of the files of the machine. -/

section

-- One theorem at a time: the text as a whole then needs far less memory.
set_option Elab.async false
set_option linter.all false

namespace Sys2Proof.Machine

open State

theorem State.addH_keeps {r s : State} (h : r.Keeps s) (x : Hid) (i : ℕ) (n : ℕ) : r.Keeps (State.addH s x i n) := by
  unfold State.addH
  repeat' first
    | with_reducible assumption
    | with_reducible exact Keeps.refl _
    | with_reducible apply Keeps.ite
    | with_reducible apply setH_keeps
    | with_reducible apply keepsParts_of
    | intro _
    | with_reducible refine Keeps.of_eq (by assumption) ?_
    | with_reducible refine Keeps.of_eq_snd (by assumption) ?_
    | simp only [keeps_mk]
    | split

theorem State.bump_keeps {r s : State} (h : r.Keeps s) (f : Fld) (i : ℕ) (n : ℕ) : r.Keeps (State.bump s f i n) := by
  unfold State.bump
  repeat' first
    | with_reducible assumption
    | with_reducible exact Keeps.refl _
    | with_reducible apply Keeps.ite
    | with_reducible apply wr_keeps
    | with_reducible apply setH_keeps
    | with_reducible apply keepsParts_of
    | intro _
    | with_reducible refine Keeps.of_eq (by assumption) ?_
    | with_reducible refine Keeps.of_eq_snd (by assumption) ?_
    | simp only [keeps_mk]
    | split

theorem State.mark_keeps {r s : State} (h : r.Keeps s) (f : Fld) (i : ℕ) : r.Keeps (State.mark s f i) := by
  unfold State.mark
  repeat' first
    | with_reducible assumption
    | with_reducible exact Keeps.refl _
    | with_reducible apply Keeps.ite
    | with_reducible apply setH_keeps
    | with_reducible apply wr_keeps
    | with_reducible apply keepsParts_of
    | intro _
    | with_reducible refine Keeps.of_eq (by assumption) ?_
    | with_reducible refine Keeps.of_eq_snd (by assumption) ?_
    | simp only [keeps_mk]
    | split

theorem State.firstError_keeps {r s : State} (h : r.Keeps s) (f : Fld) (i : ℕ) (fill : State → State) (hfill : ∀ (u : State), u.Keeps (fill u)) :
    r.Keeps (State.firstError s f i fill) := by
  unfold State.firstError
  repeat' first
    | with_reducible assumption
    | with_reducible exact Keeps.refl _
    | with_reducible apply Keeps.ite
    | with_reducible refine Keeps.trans ?_ (hfill _)
    | with_reducible apply mark_keeps
    | with_reducible apply keepsParts_of
    | intro _
    | with_reducible refine Keeps.of_eq (by assumption) ?_
    | with_reducible refine Keeps.of_eq_snd (by assumption) ?_
    | simp only [keeps_mk]
    | split

theorem State.pmcBump_keeps {r s : State} (h : r.Keeps s) (i : ℕ) (n : ℕ) : r.Keeps (State.pmcBump s i n) := by
  unfold State.pmcBump
  repeat' first
    | with_reducible assumption
    | with_reducible exact Keeps.refl _
    | with_reducible apply Keeps.ite
    | with_reducible apply mark_keeps
    | with_reducible apply wr_keeps
    | with_reducible apply keepsParts_of
    | intro _
    | with_reducible refine Keeps.of_eq (by assumption) ?_
    | with_reducible refine Keeps.of_eq_snd (by assumption) ?_
    | simp only [keeps_mk]
    | split

theorem State.evFrom_keeps {r s : State} (h : r.Keeps s) (code : ℕ) (q : ℕ) (inst : ℕ) (t : ℕ) (n : ℕ) : r.Keeps (State.evFrom s code q inst t n) :=
    by
  unfold State.evFrom
  repeat' first
    | with_reducible assumption
    | with_reducible exact Keeps.refl _
    | with_reducible apply Keeps.ite
    | with_reducible apply pmcBump_keeps
    | with_reducible apply setH_keeps
    | with_reducible refine Keeps.foldl ?_ (fun u x => ?_)
    | with_reducible refine Keeps.foldl_fst ?_ (fun u x => ?_)
    | with_reducible apply keepsParts_of
    | intro _
    | with_reducible refine Keeps.of_eq (by assumption) ?_
    | with_reducible refine Keeps.of_eq_snd (by assumption) ?_
    | simp only [keeps_mk]
    | split

theorem State.ev_keeps {r s : State} (h : r.Keeps s) (code : ℕ) (q : ℕ) (inst : ℕ) (n : ℕ) : r.Keeps (State.ev s code q inst n) := by
  unfold State.ev
  repeat' first
    | with_reducible assumption
    | with_reducible exact Keeps.refl _
    | with_reducible apply Keeps.ite
    | with_reducible apply evFrom_keeps
    | with_reducible apply keepsParts_of
    | intro _
    | with_reducible refine Keeps.of_eq (by assumption) ?_
    | with_reducible refine Keeps.of_eq_snd (by assumption) ?_
    | simp only [keeps_mk]
    | split

theorem State.span_keeps {r s : State} (h : r.Keeps s) (x : Hid) (i : ℕ) (on : Bool) (code : ℕ) (q : ℕ) (inst : ℕ) : r.Keeps (State.span s x i on code
    q inst) := by
  unfold State.span
  repeat' first
    | with_reducible assumption
    | with_reducible exact Keeps.refl _
    | with_reducible apply Keeps.ite
    | with_reducible apply setH_keeps
    | with_reducible apply evFrom_keeps
    | with_reducible apply keepsParts_of
    | intro _
    | with_reducible refine Keeps.of_eq (by assumption) ?_
    | with_reducible refine Keeps.of_eq_snd (by assumption) ?_
    | simp only [keeps_mk]
    | split

theorem State.advance_keeps {r s : State} (h : r.Keeps s) (n : ℕ) : r.Keeps (State.advance s n) := by
  unfold State.advance
  repeat' first
    | with_reducible assumption
    | with_reducible exact Keeps.refl _
    | with_reducible apply Keeps.ite
    | with_reducible apply ev_keeps
    | with_reducible apply keepsParts_of
    | intro _
    | with_reducible refine Keeps.of_eq (by assumption) ?_
    | with_reducible refine Keeps.of_eq_snd (by assumption) ?_
    | simp only [keeps_mk]
    | split

theorem State.goTo_keeps {r s : State} (h : r.Keeps s) (t : ℕ) : r.Keeps (State.goTo s t) := by
  unfold State.goTo
  repeat' first
    | with_reducible assumption
    | with_reducible exact Keeps.refl _
    | with_reducible apply Keeps.ite
    | with_reducible apply advance_keeps
    | with_reducible apply keepsParts_of
    | intro _
    | with_reducible refine Keeps.of_eq (by assumption) ?_
    | with_reducible refine Keeps.of_eq_snd (by assumption) ?_
    | simp only [keeps_mk]
    | split

theorem State.sendMsix_keeps {r s : State} (h : r.Keeps s) (port : ℕ) (func : ℕ) (vec : ℕ) : r.Keeps (State.sendMsix s port func vec) := by
  unfold State.sendMsix
  repeat' first
    | with_reducible assumption
    | with_reducible exact Keeps.refl _
    | with_reducible apply Keeps.ite
    | with_reducible apply setH_keeps
    | with_reducible apply keepsParts_of
    | intro _
    | with_reducible refine Keeps.of_eq (by assumption) ?_
    | with_reducible refine Keeps.of_eq_snd (by assumption) ?_
    | simp only [keeps_mk]
    | split

theorem State.raiseVf_keeps {r s : State} (h : r.Keeps s) (q : ℕ) (vec : ℕ) : r.Keeps (State.raiseVf s q vec) := by
  unfold State.raiseVf
  repeat' first
    | with_reducible assumption
    | with_reducible exact Keeps.refl _
    | with_reducible apply Keeps.ite
    | with_reducible apply setH_keeps
    | with_reducible apply sendMsix_keeps
    | with_reducible apply keepsParts_of
    | intro _
    | with_reducible refine Keeps.of_eq (by assumption) ?_
    | with_reducible refine Keeps.of_eq_snd (by assumption) ?_
    | simp only [keeps_mk]
    | split

theorem State.raisePf_keeps {r s : State} (h : r.Keeps s) (vec : ℕ) : r.Keeps (State.raisePf s vec) := by
  unfold State.raisePf
  repeat' first
    | with_reducible assumption
    | with_reducible exact Keeps.refl _
    | with_reducible apply Keeps.ite
    | with_reducible apply sendMsix_keeps
    | with_reducible apply keepsParts_of
    | intro _
    | with_reducible refine Keeps.of_eq (by assumption) ?_
    | with_reducible refine Keeps.of_eq_snd (by assumption) ?_
    | simp only [keeps_mk]
    | split

theorem State.raisePfOther_keeps {r s : State} (h : r.Keeps s) (p : ℕ) (vec : ℕ) : r.Keeps (State.raisePfOther s p vec) := by
  unfold State.raisePfOther
  repeat' first
    | with_reducible assumption
    | with_reducible exact Keeps.refl _
    | with_reducible apply Keeps.ite
    | with_reducible apply sendMsix_keeps
    | with_reducible apply keepsParts_of
    | intro _
    | with_reducible refine Keeps.of_eq (by assumption) ?_
    | with_reducible refine Keeps.of_eq_snd (by assumption) ?_
    | simp only [keeps_mk]
    | split

theorem State.fnErr_keeps {r s : State} (h : r.Keeps s) (f : ℕ) (code : ℕ) (detail : ℕ) : r.Keeps (State.fnErr s f code detail) := by
  unfold State.fnErr
  repeat' first
    | with_reducible assumption
    | with_reducible exact Keeps.refl _
    | with_reducible apply Keeps.ite
    | with_reducible apply bump_keeps
    | with_reducible apply firstError_keeps
    | with_reducible apply wr_keeps
    | with_reducible apply raiseVf_keeps
    | with_reducible apply raisePf_keeps
    | with_reducible apply keepsParts_of
    | intro _
    | with_reducible refine Keeps.of_eq (by assumption) ?_
    | with_reducible refine Keeps.of_eq_snd (by assumption) ?_
    | simp only [keeps_mk]
    | split

theorem State.mcLog_keeps {r s : State} (h : r.Keeps s) (code : ℕ) (q : ℕ) (detail : ℕ) : r.Keeps (State.mcLog s code q detail) := by
  unfold State.mcLog
  repeat' first
    | with_reducible assumption
    | with_reducible exact Keeps.refl _
    | with_reducible apply Keeps.ite
    | with_reducible apply mark_keeps
    | with_reducible apply bump_keeps
    | with_reducible apply setH_keeps
    | with_reducible apply raisePf_keeps
    | with_reducible apply wr_keeps
    | with_reducible apply keepsParts_of
    | intro _
    | with_reducible refine Keeps.of_eq (by assumption) ?_
    | with_reducible refine Keeps.of_eq_snd (by assumption) ?_
    | simp only [keeps_mk]
    | split

theorem State.setOp_keeps {r s : State} (h : r.Keeps s) (o : Op) : r.Keeps (State.setOp s o) := by
  unfold State.setOp
  repeat' first
    | with_reducible assumption
    | with_reducible exact Keeps.refl _
    | with_reducible apply Keeps.ite
    | with_reducible apply keepsParts_of
    | intro _
    | with_reducible refine Keeps.of_eq (by assumption) ?_
    | with_reducible refine Keeps.of_eq_snd (by assumption) ?_
    | simp only [keeps_mk]
    | split

theorem State.startAlloc_keeps {r s : State} (h : r.Keeps s) (q : ℕ) (a : ℕ) : r.Keeps (State.startAlloc s q a) := by
  unfold State.startAlloc
  repeat' first
    | with_reducible assumption
    | with_reducible exact Keeps.refl _
    | with_reducible apply Keeps.ite
    | with_reducible apply setH_keeps
    | with_reducible apply keepsParts_of
    | intro _
    | with_reducible refine Keeps.of_eq (by assumption) ?_
    | with_reducible refine Keeps.of_eq_snd (by assumption) ?_
    | simp only [keeps_mk]
    | split

theorem State.leaveAlloc_keeps {r s : State} (h : r.Keeps s) (id : ℕ) (a : ℕ) : r.Keeps (State.leaveAlloc s id a) := by
  unfold State.leaveAlloc
  repeat' first
    | with_reducible assumption
    | with_reducible exact Keeps.refl _
    | with_reducible apply Keeps.ite
    | with_reducible apply startAlloc_keeps
    | with_reducible apply keepsParts_of
    | intro _
    | with_reducible refine Keeps.of_eq (by assumption) ?_
    | with_reducible refine Keeps.of_eq_snd (by assumption) ?_
    | simp only [keeps_mk]
    | split

theorem State.dropOp_keeps {r s : State} (h : r.Keeps s) (id : ℕ) : r.Keeps (State.dropOp s id) := by
  unfold State.dropOp
  repeat' first
    | with_reducible assumption
    | with_reducible exact Keeps.refl _
    | with_reducible apply Keeps.ite
    | with_reducible apply leaveAlloc_keeps
    | with_reducible apply keepsParts_of
    | intro _
    | with_reducible refine Keeps.of_eq (by assumption) ?_
    | with_reducible refine Keeps.of_eq_snd (by assumption) ?_
    | simp only [keeps_mk]
    | split

theorem State.updOp_keeps {r s : State} (h : r.Keeps s) (id : ℕ) (f : Op → Op) : r.Keeps (State.updOp s id f) := by
  unfold State.updOp
  repeat' first
    | with_reducible assumption
    | with_reducible exact Keeps.refl _
    | with_reducible apply Keeps.ite
    | with_reducible apply keepsParts_of
    | intro _
    | with_reducible refine Keeps.of_eq (by assumption) ?_
    | with_reducible refine Keeps.of_eq_snd (by assumption) ?_
    | simp only [keeps_mk]
    | split

theorem State.setEngine_keeps {r s : State} (h : r.Keeps s) (k : ℕ) (p : ℕ) (e : Engine) : r.Keeps (State.setEngine s k p e) := by
  unfold State.setEngine
  repeat' first
    | with_reducible assumption
    | with_reducible exact Keeps.refl _
    | with_reducible apply Keeps.ite
    | with_reducible apply keepsParts_of
    | intro _
    | with_reducible refine Keeps.of_eq (by assumption) ?_
    | with_reducible refine Keeps.of_eq_snd (by assumption) ?_
    | simp only [keeps_mk]
    | split

theorem State.syncBusy_keeps {r s : State} (h : r.Keeps s) (k : ℕ) : r.Keeps (State.syncBusy s k) := by
  unfold State.syncBusy
  repeat' first
    | with_reducible assumption
    | with_reducible exact Keeps.refl _
    | with_reducible apply Keeps.ite
    | with_reducible apply wr_keeps
    | with_reducible apply keepsParts_of
    | intro _
    | with_reducible refine Keeps.of_eq (by assumption) ?_
    | with_reducible refine Keeps.of_eq_snd (by assumption) ?_
    | simp only [keeps_mk]
    | split

theorem State.pushEngine_keeps {r s : State} (h : r.Keeps s) (k : ℕ) (p : ℕ) (line : ℕ) : r.Keeps (State.pushEngine s k p line) := by
  unfold State.pushEngine
  repeat' first
    | with_reducible assumption
    | with_reducible exact Keeps.refl _
    | with_reducible apply Keeps.ite
    | with_reducible apply setEngine_keeps
    | with_reducible apply keepsParts_of
    | intro _
    | with_reducible refine Keeps.of_eq (by assumption) ?_
    | with_reducible refine Keeps.of_eq_snd (by assumption) ?_
    | simp only [keeps_mk]
    | split

theorem State.pushAll_keeps {r s : State} (h : r.Keeps s) (k : ℕ) (line : ℕ) : r.Keeps (State.pushAll s k line) := by
  unfold State.pushAll
  repeat' first
    | with_reducible assumption
    | with_reducible exact Keeps.refl _
    | with_reducible apply Keeps.ite
    | with_reducible apply setEngine_keeps
    | with_reducible apply pushEngine_keeps
    | with_reducible refine Keeps.foldl ?_ (fun u x => ?_)
    | with_reducible refine Keeps.foldl_fst ?_ (fun u x => ?_)
    | with_reducible apply keepsParts_of
    | intro _
    | with_reducible refine Keeps.of_eq (by assumption) ?_
    | with_reducible refine Keeps.of_eq_snd (by assumption) ?_
    | simp only [keeps_mk]
    | split

theorem State.bcastData_keeps {r s : State} (h : r.Keeps s) (k : ℕ) (off : ℕ) (data : List Byte) : r.Keeps (State.bcastData s k off data) := by
  unfold State.bcastData
  repeat' first
    | with_reducible assumption
    | with_reducible exact Keeps.refl _
    | with_reducible apply Keeps.ite
    | with_reducible apply setEngine_keeps
    | with_reducible refine Keeps.foldl ?_ (fun u x => ?_)
    | with_reducible refine Keeps.foldl_fst ?_ (fun u x => ?_)
    | with_reducible apply keepsParts_of
    | intro _
    | with_reducible refine Keeps.of_eq (by assumption) ?_
    | with_reducible refine Keeps.of_eq_snd (by assumption) ?_
    | simp only [keeps_mk]
    | split

theorem State.clearEngine_keeps {r s : State} (h : r.Keeps s) (k : ℕ) (p : ℕ) : r.Keeps (State.clearEngine s k p) := by
  unfold State.clearEngine
  repeat' first
    | with_reducible assumption
    | with_reducible exact Keeps.refl _
    | with_reducible apply Keeps.ite
    | with_reducible apply setEngine_keeps
    | with_reducible apply keepsParts_of
    | intro _
    | with_reducible refine Keeps.of_eq (by assumption) ?_
    | with_reducible refine Keeps.of_eq_snd (by assumption) ?_
    | simp only [keeps_mk]
    | split

theorem State.windowErr_keeps {r s : State} (h : r.Keeps s) (q : ℕ) (a : ℕ) : r.Keeps (State.windowErr s q a) := by
  unfold State.windowErr
  repeat' first
    | with_reducible assumption
    | with_reducible exact Keeps.refl _
    | with_reducible apply Keeps.ite
    | with_reducible apply fnErr_keeps
    | with_reducible apply keepsParts_of
    | intro _
    | with_reducible refine Keeps.of_eq (by assumption) ?_
    | with_reducible refine Keeps.of_eq_snd (by assumption) ?_
    | simp only [keeps_mk]
    | split

theorem State.windowWrite_keeps {r s : State} (h : r.Keeps s) (q : ℕ) (k : ℕ) (a : ℕ) (d : List Byte) : r.Keeps (State.windowWrite s q k a d) := by
  unfold State.windowWrite
  repeat' first
    | with_reducible assumption
    | with_reducible exact Keeps.refl _
    | with_reducible apply Keeps.ite
    | with_reducible apply pushEngine_keeps
    | with_reducible apply windowErr_keeps
    | with_reducible apply clearEngine_keeps
    | with_reducible apply pushAll_keeps
    | with_reducible apply bcastData_keeps
    | with_reducible apply keepsParts_of
    | intro _
    | with_reducible refine Keeps.of_eq (by assumption) ?_
    | with_reducible refine Keeps.of_eq_snd (by assumption) ?_
    | simp only [keeps_mk]
    | split

theorem State.retireCmd_keeps {r s : State} (h : r.Keeps s) (k : ℕ) (p : ℕ) (status : ℕ) (fl : ℕ) : r.Keeps (State.retireCmd s k p status fl) := by
  unfold State.retireCmd
  repeat' first
    | with_reducible assumption
    | with_reducible exact Keeps.refl _
    | with_reducible apply Keeps.ite
    | with_reducible apply syncBusy_keeps
    | with_reducible apply addH_keeps
    | with_reducible apply setEngine_keeps
    | with_reducible apply mark_keeps
    | with_reducible refine Keeps.foldl ?_ (fun u x => ?_)
    | with_reducible refine Keeps.foldl_fst ?_ (fun u x => ?_)
    | with_reducible apply keepsParts_of
    | intro _
    | with_reducible refine Keeps.of_eq (by assumption) ?_
    | with_reducible refine Keeps.of_eq_snd (by assumption) ?_
    | simp only [keeps_mk]
    | split

theorem State.dropCmds_keeps {r s : State} (h : r.Keeps s) (k : ℕ) (p : ℕ) (y3 : ℕ) : r.Keeps (State.dropCmds s k p y3) := by
  induction y3 generalizing s k p with
  | zero =>
    unfold State.dropCmds
    repeat' first
      | with_reducible assumption
      | with_reducible exact Keeps.refl _
      | with_reducible apply Keeps.ite
      | with_reducible apply retireCmd_keeps
      | with_reducible apply keepsParts_of
      | intro _
      | with_reducible refine Keeps.of_eq (by assumption) ?_
      | with_reducible refine Keeps.of_eq_snd (by assumption) ?_
      | simp only [keeps_mk]
      | split
  | succ n0 ih =>
    unfold State.dropCmds
    repeat' first
      | with_reducible assumption
      | with_reducible exact Keeps.refl _
      | with_reducible apply Keeps.ite
      | with_reducible apply retireCmd_keeps
      | with_reducible apply ih
      | with_reducible apply keepsParts_of
      | intro _
      | with_reducible refine Keeps.of_eq (by assumption) ?_
      | with_reducible refine Keeps.of_eq_snd (by assumption) ?_
      | simp only [keeps_mk]
      | split

theorem State.endBank_keeps {r s : State} (h : r.Keeps s) (k : ℕ) (forced : Bool) : r.Keeps (State.endBank s k forced) := by
  unfold State.endBank
  repeat' first
    | with_reducible assumption
    | with_reducible exact Keeps.refl _
    | with_reducible apply Keeps.ite
    | with_reducible apply dropCmds_keeps
    | with_reducible apply setEngine_keeps
    | with_reducible apply syncBusy_keeps
    | with_reducible apply wr_keeps
    | with_reducible apply mark_keeps
    | with_reducible refine Keeps.foldl ?_ (fun u x => ?_)
    | with_reducible refine Keeps.foldl_fst ?_ (fun u x => ?_)
    | with_reducible apply keepsParts_of
    | intro _
    | with_reducible refine Keeps.of_eq (by assumption) ?_
    | with_reducible refine Keeps.of_eq_snd (by assumption) ?_
    | simp only [keeps_mk]
    | split

theorem State.setPoison_keeps {r s : State} (h : r.Keeps s) (t : ℕ) (u : ℕ) (a : ℕ) (v : ℕ) : r.Keeps (State.setPoison s t u a v) := by
  unfold State.setPoison
  repeat' first
    | with_reducible assumption
    | with_reducible exact Keeps.refl _
    | with_reducible apply Keeps.ite
    | with_reducible apply keepsParts_of
    | intro _
    | with_reducible refine Keeps.of_eq (by assumption) ?_
    | with_reducible refine Keeps.of_eq_snd (by assumption) ?_
    | simp only [keeps_mk]
    | split

theorem State.loseStack_keeps {r s : State} (h : r.Keeps s) (k : ℕ) : r.Keeps (State.loseStack s k) := by
  unfold State.loseStack
  repeat' first
    | with_reducible assumption
    | with_reducible exact Keeps.refl _
    | with_reducible apply Keeps.ite
    | with_reducible apply wr_keeps
    | with_reducible apply endBank_keeps
    | with_reducible apply mcLog_keeps
    | with_reducible apply mark_keeps
    | with_reducible apply keepsParts_of
    | intro _
    | with_reducible refine Keeps.of_eq (by assumption) ?_
    | with_reducible refine Keeps.of_eq_snd (by assumption) ?_
    | simp only [keeps_mk]
    | split

theorem State.requestRetire_keeps {r s : State} (h : r.Keeps s) (k : ℕ) (p : ℕ) : r.Keeps (State.requestRetire s k p) := by
  unfold State.requestRetire
  repeat' first
    | with_reducible assumption
    | with_reducible exact Keeps.refl _
    | with_reducible apply Keeps.ite
    | with_reducible apply setH_keeps
    | with_reducible apply loseStack_keeps
    | with_reducible apply keepsParts_of
    | intro _
    | with_reducible refine Keeps.of_eq (by assumption) ?_
    | with_reducible refine Keeps.of_eq_snd (by assumption) ?_
    | simp only [keeps_mk]
    | split

theorem State.laneFails_keeps {r s : State} (h : r.Keeps s) (k : ℕ) (p : ℕ) (lane : ℕ) : r.Keeps (State.laneFails s k p lane) := by
  unfold State.laneFails
  repeat' first
    | with_reducible assumption
    | with_reducible exact Keeps.refl _
    | with_reducible apply Keeps.ite
    | with_reducible apply setH_keeps
    | with_reducible apply mcLog_keeps
    | with_reducible apply wr_keeps
    | with_reducible apply mark_keeps
    | with_reducible apply requestRetire_keeps
    | with_reducible apply keepsParts_of
    | intro _
    | with_reducible refine Keeps.of_eq (by assumption) ?_
    | with_reducible refine Keeps.of_eq_snd (by assumption) ?_
    | simp only [keeps_mk]
    | split

theorem State.ueLog_keeps {r s : State} (h : r.Keeps s) (t : ℕ) (u : ℕ) (a : ℕ) (stored : Bool) : r.Keeps (State.ueLog s t u a stored) := by
  unfold State.ueLog
  repeat' first
    | with_reducible assumption
    | with_reducible exact Keeps.refl _
    | with_reducible apply Keeps.ite
    | with_reducible apply firstError_keeps
    | with_reducible apply wr_keeps
    | with_reducible apply keepsParts_of
    | intro _
    | with_reducible refine Keeps.of_eq (by assumption) ?_
    | with_reducible refine Keeps.of_eq_snd (by assumption) ?_
    | simp only [keeps_mk]
    | split

theorem State.uncorrectable_keeps {r s : State} (h : r.Keeps s) (t : ℕ) (u : ℕ) (a : ℕ) : r.Keeps (State.uncorrectable s t u a) := by
  unfold State.uncorrectable
  repeat' first
    | with_reducible assumption
    | with_reducible exact Keeps.refl _
    | with_reducible apply Keeps.ite
    | with_reducible apply setH_keeps
    | with_reducible apply mark_keeps
    | with_reducible apply bump_keeps
    | with_reducible apply setPoison_keeps
    | with_reducible apply raisePf_keeps
    | with_reducible apply ueLog_keeps
    | with_reducible apply requestRetire_keeps
    | with_reducible apply mcLog_keeps
    | with_reducible apply keepsParts_of
    | intro _
    | with_reducible refine Keeps.of_eq (by assumption) ?_
    | with_reducible refine Keeps.of_eq_snd (by assumption) ?_
    | simp only [keeps_mk]
    | split

theorem State.corrected_keeps {r s : State} (h : r.Keeps s) (t : ℕ) (u : ℕ) (a : ℕ) (lane : ℕ) : r.Keeps (State.corrected s t u a lane) := by
  unfold State.corrected
  repeat' first
    | with_reducible assumption
    | with_reducible exact Keeps.refl _
    | with_reducible apply Keeps.ite
    | with_reducible apply setH_keeps
    | with_reducible apply bump_keeps
    | with_reducible apply laneFails_keeps
    | with_reducible apply keepsParts_of
    | intro _
    | with_reducible refine Keeps.of_eq (by assumption) ?_
    | with_reducible refine Keeps.of_eq_snd (by assumption) ?_
    | simp only [keeps_mk]
    | split

theorem State.scramble_keeps {r s : State} (h : r.Keeps s) (t : ℕ) (u : ℕ) (a : ℕ) : r.Keeps (State.scramble s t u a) := by
  unfold State.scramble
  repeat' first
    | with_reducible assumption
    | with_reducible exact Keeps.refl _
    | with_reducible apply Keeps.ite
    | with_reducible apply Keeps.ite_fst
    | with_reducible apply fresh_keeps
    | with_reducible apply setBytes_keeps
    | with_reducible apply keepsParts_of
    | intro _
    | with_reducible refine Keeps.of_eq (by assumption) ?_
    | with_reducible refine Keeps.of_eq_snd (by assumption) ?_
    | simp only [keeps_mk]
    | split

theorem State.dramRead_keeps {r s : State} (h : r.Keeps s) (t : ℕ) (u : ℕ) (a : ℕ) (wrong : ℕ) (lane : ℕ) : r.Keeps (State.dramRead s t u a wrong
    lane).1 := by
  unfold State.dramRead
  repeat' first
    | with_reducible assumption
    | with_reducible exact Keeps.refl _
    | with_reducible apply Keeps.ite
    | with_reducible apply Keeps.ite_fst
    | with_reducible apply ueLog_keeps
    | with_reducible apply uncorrectable_keeps
    | with_reducible apply scramble_keeps
    | with_reducible apply corrected_keeps
    | with_reducible apply setH_keeps
    | with_reducible apply keepsParts_of
    | intro _
    | with_reducible refine Keeps.of_eq (by assumption) ?_
    | with_reducible refine Keeps.of_eq_snd (by assumption) ?_
    | simp only [keeps_mk]
    | split

theorem State.dropLine_keeps {r s : State} (h : r.Keeps s) (q : ℕ) (t : ℕ) (u : ℕ) (a : ℕ) : r.Keeps (State.dropLine s q t u a) := by
  unfold State.dropLine
  repeat' first
    | with_reducible assumption
    | with_reducible exact Keeps.refl _
    | with_reducible apply Keeps.ite
    | with_reducible apply keepsParts_of
    | intro _
    | with_reducible refine Keeps.of_eq (by assumption) ?_
    | with_reducible refine Keeps.of_eq_snd (by assumption) ?_
    | simp only [keeps_mk]
    | split

theorem State.revertLine_keeps {r s : State} (h : r.Keeps s) (l : PLine) : r.Keeps (State.revertLine s l) := by
  unfold State.revertLine
  repeat' first
    | with_reducible assumption
    | with_reducible exact Keeps.refl _
    | with_reducible apply Keeps.ite
    | with_reducible apply setBytes_keeps
    | with_reducible apply setPoison_keeps
    | with_reducible apply dropLine_keeps
    | with_reducible refine Keeps.foldl ?_ (fun u x => ?_)
    | with_reducible refine Keeps.foldl_fst ?_ (fun u x => ?_)
    | with_reducible apply keepsParts_of
    | intro _
    | with_reducible refine Keeps.of_eq (by assumption) ?_
    | with_reducible refine Keeps.of_eq_snd (by assumption) ?_
    | simp only [keeps_mk]
    | split

theorem State.storePoison_keeps {r s : State} (h : r.Keeps s) (l : PLine) : r.Keeps (State.storePoison s l) := by
  unfold State.storePoison
  repeat' first
    | with_reducible assumption
    | with_reducible exact Keeps.refl _
    | with_reducible apply Keeps.ite
    | with_reducible apply setPoison_keeps
    | with_reducible refine Keeps.foldl ?_ (fun u x => ?_)
    | with_reducible refine Keeps.foldl_fst ?_ (fun u x => ?_)
    | with_reducible apply keepsParts_of
    | intro _
    | with_reducible refine Keeps.of_eq (by assumption) ?_
    | with_reducible refine Keeps.of_eq_snd (by assumption) ?_
    | simp only [keeps_mk]
    | split

theorem State.plazaTouch_keeps {r s : State} (h : r.Keeps s) (q : ℕ) (t : ℕ) (u : ℕ) (a : ℕ) (cls : ℕ) (hint : ℕ) (keep : ℕ) (noalloc : Bool) (write :
    Bool) (shadow : Option (ℕ × ℕ)) : r.Keeps (State.plazaTouch s q t u a cls hint keep noalloc write shadow) := by
  unfold State.plazaTouch
  repeat' first
    | with_reducible assumption
    | with_reducible exact Keeps.refl _
    | with_reducible apply Keeps.ite
    | with_reducible apply ev_keeps
    | with_reducible apply dropLine_keeps
    | with_reducible apply storePoison_keeps
    | with_reducible apply keepsParts_of
    | intro _
    | with_reducible refine Keeps.of_eq (by assumption) ?_
    | with_reducible refine Keeps.of_eq_snd (by assumption) ?_
    | simp only [keeps_mk]
    | split

theorem State.putRecord_keeps {r s : State} (h : r.Keeps s) (x : Stall) : r.Keeps (State.putRecord s x) := by
  unfold State.putRecord
  repeat' first
    | with_reducible assumption
    | with_reducible exact Keeps.refl _
    | with_reducible apply Keeps.ite
    | with_reducible apply setBytes_keeps
    | with_reducible apply plazaTouch_keeps
    | with_reducible apply raiseVf_keeps
    | with_reducible apply wr_keeps
    | with_reducible apply keepsParts_of
    | intro _
    | with_reducible refine Keeps.of_eq (by assumption) ?_
    | with_reducible refine Keeps.of_eq_snd (by assumption) ?_
    | simp only [keeps_mk]
    | split

theorem State.walkFrom_keeps {r s : State} (h : r.Keeps s) (q : ℕ) (va : ℕ) (unit : ℕ) (node : ℕ) (y5 : List (ℕ × ℕ × ℕ)) : r.Keeps (State.walkFrom s
    q va unit node y5).1 := by
  induction y5 generalizing s q va unit node with
  | nil =>
    unfold State.walkFrom
    repeat' first
      | with_reducible assumption
      | with_reducible exact Keeps.refl _
      | with_reducible apply Keeps.ite
      | with_reducible apply Keeps.ite_fst
      | with_reducible apply plazaTouch_keeps
      | with_reducible apply keepsParts_of
      | intro _
      | with_reducible refine Keeps.of_eq (by assumption) ?_
      | with_reducible refine Keeps.of_eq_snd (by assumption) ?_
      | simp only [keeps_mk]
      | split
  | cons z l ih =>
    unfold State.walkFrom
    repeat' first
      | with_reducible assumption
      | with_reducible exact Keeps.refl _
      | with_reducible apply Keeps.ite
      | with_reducible apply Keeps.ite_fst
      | with_reducible apply plazaTouch_keeps
      | with_reducible apply ih
      | with_reducible apply keepsParts_of
      | intro _
      | with_reducible refine Keeps.of_eq (by assumption) ?_
      | with_reducible refine Keeps.of_eq_snd (by assumption) ?_
      | simp only [keeps_mk]
      | split

theorem State.walk_keeps {r s : State} (h : r.Keeps s) (q : ℕ) (va : ℕ) : r.Keeps (State.walk s q va).1 := by
  unfold State.walk
  repeat' first
    | with_reducible assumption
    | with_reducible exact Keeps.refl _
    | with_reducible apply Keeps.ite
    | with_reducible apply Keeps.ite_fst
    | with_reducible apply walkFrom_keeps
    | with_reducible apply keepsParts_of
    | intro _
    | with_reducible refine Keeps.of_eq (by assumption) ?_
    | with_reducible refine Keeps.of_eq_snd (by assumption) ?_
    | simp only [keeps_mk]
    | split

theorem State.raiseFault_keeps {r s : State} (h : r.Keeps s) (c : Client) (va : ℕ) (write : Bool) (cause : ℕ) (level : ℕ) (host : Option ℕ) : r.Keeps
    (State.raiseFault s c va write cause level host) := by
  unfold State.raiseFault
  repeat' first
    | with_reducible assumption
    | with_reducible exact Keeps.refl _
    | with_reducible apply Keeps.ite
    | with_reducible apply ev_keeps
    | with_reducible apply putRecord_keeps
    | with_reducible apply keepsParts_of
    | intro _
    | with_reducible refine Keeps.of_eq (by assumption) ?_
    | with_reducible refine Keeps.of_eq_snd (by assumption) ?_
    | simp only [keeps_mk]
    | split

theorem State.flushRecords_keeps {r s : State} (h : r.Keeps s) (q : ℕ) (y2 : ℕ) : r.Keeps (State.flushRecords s q y2) := by
  induction y2 generalizing s q with
  | zero =>
    unfold State.flushRecords
    repeat' first
      | with_reducible assumption
      | with_reducible exact Keeps.refl _
      | with_reducible apply Keeps.ite
      | with_reducible apply putRecord_keeps
      | with_reducible apply keepsParts_of
      | intro _
      | with_reducible refine Keeps.of_eq (by assumption) ?_
      | with_reducible refine Keeps.of_eq_snd (by assumption) ?_
      | simp only [keeps_mk]
      | split
  | succ n0 ih =>
    unfold State.flushRecords
    repeat' first
      | with_reducible assumption
      | with_reducible exact Keeps.refl _
      | with_reducible apply Keeps.ite
      | with_reducible apply putRecord_keeps
      | with_reducible apply ih
      | with_reducible apply keepsParts_of
      | intro _
      | with_reducible refine Keeps.of_eq (by assumption) ?_
      | with_reducible refine Keeps.of_eq_snd (by assumption) ?_
      | simp only [keeps_mk]
      | split

theorem State.tlbPut_keeps {r s : State} (h : r.Keeps s) (e : TlbEnt) : r.Keeps (State.tlbPut s e) := by
  unfold State.tlbPut
  repeat' first
    | with_reducible assumption
    | with_reducible exact Keeps.refl _
    | with_reducible apply Keeps.ite
    | with_reducible apply Keeps.ite_fst
    | with_reducible apply fresh_keeps
    | with_reducible apply keepsParts_of
    | intro _
    | with_reducible refine Keeps.of_eq (by assumption) ?_
    | with_reducible refine Keeps.of_eq_snd (by assumption) ?_
    | simp only [keeps_mk]
    | split

theorem State.walkAndCache_keeps {r s : State} (h : r.Keeps s) (q : ℕ) (va : ℕ) (write : Bool) : r.Keeps (State.walkAndCache s q va write).1 := by
  unfold State.walkAndCache
  repeat' first
    | with_reducible assumption
    | with_reducible exact Keeps.refl _
    | with_reducible apply Keeps.ite
    | with_reducible apply Keeps.ite_fst
    | with_reducible apply walk_keeps
    | with_reducible apply setBytes_keeps
    | with_reducible apply plazaTouch_keeps
    | with_reducible apply tlbPut_keeps
    | with_reducible apply keepsParts_of
    | intro _
    | with_reducible refine Keeps.of_eq (by assumption) ?_
    | with_reducible refine Keeps.of_eq_snd (by assumption) ?_
    | simp only [keeps_mk]
    | split

theorem State.translate_keeps {r s : State} (h : r.Keeps s) (q : ℕ) (va : ℕ) (write : Bool) : r.Keeps (State.translate s q va write).1 := by
  unfold State.translate
  repeat' first
    | with_reducible assumption
    | with_reducible exact Keeps.refl _
    | with_reducible apply Keeps.ite
    | with_reducible apply Keeps.ite_fst
    | with_reducible apply walkAndCache_keeps
    | with_reducible apply keepsParts_of
    | intro _
    | with_reducible refine Keeps.of_eq (by assumption) ?_
    | with_reducible refine Keeps.of_eq_snd (by assumption) ?_
    | simp only [keeps_mk]
    | split

theorem State.xlate_keeps {r s : State} (h : r.Keeps s) (c : Client) (va : ℕ) (write : Bool) : r.Keeps (State.xlate s c va write).1 := by
  unfold State.xlate
  repeat' first
    | with_reducible assumption
    | with_reducible exact Keeps.refl _
    | with_reducible apply Keeps.ite
    | with_reducible apply Keeps.ite_fst
    | with_reducible apply translate_keeps
    | with_reducible apply walk_keeps
    | with_reducible apply raiseFault_keeps
    | with_reducible apply keepsParts_of
    | intro _
    | with_reducible refine Keeps.of_eq (by assumption) ?_
    | with_reducible refine Keeps.of_eq_snd (by assumption) ?_
    | simp only [keeps_mk]
    | split

theorem State.lineRead_keeps {r s : State} (h : r.Keeps s) (c : Client) (pte : ℕ) (t : ℕ) (u : ℕ) (a : ℕ) (n : ℕ) (fin : Bool) : r.Keeps
    (State.lineRead s c pte t u a n fin).1 := by
  unfold State.lineRead
  repeat' first
    | with_reducible assumption
    | with_reducible exact Keeps.refl _
    | with_reducible apply Keeps.ite
    | with_reducible apply Keeps.ite_fst
    | with_reducible apply dramRead_keeps
    | with_reducible apply plazaTouch_keeps
    | with_reducible apply revertLine_keeps
    | with_reducible apply keepsParts_of
    | intro _
    | with_reducible refine Keeps.of_eq (by assumption) ?_
    | with_reducible refine Keeps.of_eq_snd (by assumption) ?_
    | simp only [keeps_mk]
    | split

theorem State.lineWrite_keeps {r s : State} (h : r.Keeps s) (c : Client) (pte : ℕ) (t : ℕ) (u : ℕ) (a : ℕ) (d : List Byte) (bad : Bool) (shadow :
    Option (ℕ × ℕ)) : r.Keeps (State.lineWrite s c pte t u a d bad shadow) := by
  unfold State.lineWrite
  repeat' first
    | with_reducible assumption
    | with_reducible exact Keeps.refl _
    | with_reducible apply Keeps.ite
    | with_reducible apply plazaTouch_keeps
    | with_reducible apply setBytes_keeps
    | with_reducible apply setPoison_keeps
    | with_reducible apply keepsParts_of
    | intro _
    | with_reducible refine Keeps.of_eq (by assumption) ?_
    | with_reducible refine Keeps.of_eq_snd (by assumption) ?_
    | simp only [keeps_mk]
    | split

theorem State.readPiece_keeps {r s : State} (h : r.Keeps s) (c : Client) (l : Leaf) (va : ℕ) (n : ℕ) (fin : Bool) : r.Keeps (State.readPiece s c l va
    n fin).1 := by
  unfold State.readPiece
  repeat' first
    | with_reducible assumption
    | with_reducible exact Keeps.refl _
    | with_reducible apply Keeps.ite
    | with_reducible apply Keeps.ite_fst
    | with_reducible apply lineRead_keeps
    | with_reducible apply keepsParts_of
    | intro _
    | with_reducible refine Keeps.of_eq (by assumption) ?_
    | with_reducible refine Keeps.of_eq_snd (by assumption) ?_
    | simp only [keeps_mk]
    | split

theorem State.writePiece_keeps {r s : State} (h : r.Keeps s) (c : Client) (l : Leaf) (va : ℕ) (d : List Byte) (bad : Bool) (shadow : Option (ℕ × ℕ)) :
    r.Keeps (State.writePiece s c l va d bad shadow) := by
  unfold State.writePiece
  repeat' first
    | with_reducible assumption
    | with_reducible exact Keeps.refl _
    | with_reducible apply Keeps.ite
    | with_reducible apply windowWrite_keeps
    | with_reducible apply addH_keeps
    | with_reducible apply lineWrite_keeps
    | with_reducible apply keepsParts_of
    | intro _
    | with_reducible refine Keeps.of_eq (by assumption) ?_
    | with_reducible refine Keeps.of_eq_snd (by assumption) ?_
    | simp only [keeps_mk]
    | split

theorem State.chanRead_keeps {r s : State} (h : r.Keeps s) (c : Client) (pte : ℕ) (t : ℕ) (u : ℕ) (ch : ℕ) (l : ℕ) (n : ℕ) (y8 : ℕ) : r.Keeps
    (State.chanRead s c pte t u ch l n y8).1 := by
  induction y8 generalizing s c pte t u ch l n with
  | zero =>
    unfold State.chanRead
    repeat' first
      | with_reducible assumption
      | with_reducible exact Keeps.refl _
      | with_reducible apply Keeps.ite
      | with_reducible apply Keeps.ite_fst
      | with_reducible apply lineRead_keeps
      | with_reducible apply keepsParts_of
      | intro _
      | with_reducible refine Keeps.of_eq (by assumption) ?_
      | with_reducible refine Keeps.of_eq_snd (by assumption) ?_
      | simp only [keeps_mk]
      | split
  | succ n0 ih =>
    unfold State.chanRead
    repeat' first
      | with_reducible assumption
      | with_reducible exact Keeps.refl _
      | with_reducible apply Keeps.ite
      | with_reducible apply Keeps.ite_fst
      | with_reducible apply lineRead_keeps
      | with_reducible apply ih
      | with_reducible apply keepsParts_of
      | intro _
      | with_reducible refine Keeps.of_eq (by assumption) ?_
      | with_reducible refine Keeps.of_eq_snd (by assumption) ?_
      | simp only [keeps_mk]
      | split

theorem State.physWrite_keeps {r s : State} (h : r.Keeps s) (c : Client) (pte : ℕ) (t : ℕ) (u : ℕ) (a : ℕ) (d : List Byte) (y7 : ℕ) : r.Keeps
    (State.physWrite s c pte t u a d y7) := by
  induction y7 generalizing s c pte t u a d with
  | zero =>
    unfold State.physWrite
    repeat' first
      | with_reducible assumption
      | with_reducible exact Keeps.refl _
      | with_reducible apply Keeps.ite
      | with_reducible apply lineWrite_keeps
      | with_reducible apply keepsParts_of
      | intro _
      | with_reducible refine Keeps.of_eq (by assumption) ?_
      | with_reducible refine Keeps.of_eq_snd (by assumption) ?_
      | simp only [keeps_mk]
      | split
  | succ n0 ih =>
    unfold State.physWrite
    repeat' first
      | with_reducible assumption
      | with_reducible exact Keeps.refl _
      | with_reducible apply Keeps.ite
      | with_reducible apply lineWrite_keeps
      | with_reducible apply ih
      | with_reducible apply keepsParts_of
      | intro _
      | with_reducible refine Keeps.of_eq (by assumption) ?_
      | with_reducible refine Keeps.of_eq_snd (by assumption) ?_
      | simp only [keeps_mk]
      | split

theorem State.chanWrite_keeps {r s : State} (h : r.Keeps s) (c : Client) (pte : ℕ) (t : ℕ) (u : ℕ) (ch : ℕ) (l : ℕ) (d : List Byte) (y8 : ℕ) : r.Keeps
    (State.chanWrite s c pte t u ch l d y8) := by
  induction y8 generalizing s c pte t u ch l d with
  | zero =>
    unfold State.chanWrite
    repeat' first
      | with_reducible assumption
      | with_reducible exact Keeps.refl _
      | with_reducible apply Keeps.ite
      | with_reducible apply lineWrite_keeps
      | with_reducible apply setPoison_keeps
      | with_reducible apply keepsParts_of
      | intro _
      | with_reducible refine Keeps.of_eq (by assumption) ?_
      | with_reducible refine Keeps.of_eq_snd (by assumption) ?_
      | simp only [keeps_mk]
      | split
  | succ n0 ih =>
    unfold State.chanWrite
    repeat' first
      | with_reducible assumption
      | with_reducible exact Keeps.refl _
      | with_reducible apply Keeps.ite
      | with_reducible apply lineWrite_keeps
      | with_reducible apply setPoison_keeps
      | with_reducible apply ih
      | with_reducible apply keepsParts_of
      | intro _
      | with_reducible refine Keeps.of_eq (by assumption) ?_
      | with_reducible refine Keeps.of_eq_snd (by assumption) ?_
      | simp only [keeps_mk]
      | split

theorem State.chanPoison_keeps {r s : State} (h : r.Keeps s) (t : ℕ) (u : ℕ) (ch : ℕ) (l : ℕ) (n : ℕ) : r.Keeps (State.chanPoison s t u ch l n) := by
  unfold State.chanPoison
  repeat' first
    | with_reducible assumption
    | with_reducible exact Keeps.refl _
    | with_reducible apply Keeps.ite
    | with_reducible apply setPoison_keeps
    | with_reducible refine Keeps.foldl ?_ (fun u x => ?_)
    | with_reducible refine Keeps.foldl_fst ?_ (fun u x => ?_)
    | with_reducible apply keepsParts_of
    | intro _
    | with_reducible refine Keeps.of_eq (by assumption) ?_
    | with_reducible refine Keeps.of_eq_snd (by assumption) ?_
    | simp only [keeps_mk]
    | split

theorem State.readLines_keeps {r s : State} (h : r.Keeps s) (c : Client) (pte : ℕ) (t : ℕ) (u : ℕ) (y5 : ℕ) (y6 : ℕ) : r.Keeps (State.readLines s c
    pte t u y5 y6).1 := by
  induction y6 generalizing s c pte t u y5 with
  | zero =>
    unfold State.readLines
    repeat' first
      | with_reducible assumption
      | with_reducible exact Keeps.refl _
      | with_reducible apply Keeps.ite
      | with_reducible apply Keeps.ite_fst
      | with_reducible apply lineRead_keeps
      | with_reducible apply keepsParts_of
      | intro _
      | with_reducible refine Keeps.of_eq (by assumption) ?_
      | with_reducible refine Keeps.of_eq_snd (by assumption) ?_
      | simp only [keeps_mk]
      | split
  | succ n0 ih =>
    unfold State.readLines
    repeat' first
      | with_reducible assumption
      | with_reducible exact Keeps.refl _
      | with_reducible apply Keeps.ite
      | with_reducible apply Keeps.ite_fst
      | with_reducible apply lineRead_keeps
      | with_reducible apply ih
      | with_reducible apply keepsParts_of
      | intro _
      | with_reducible refine Keeps.of_eq (by assumption) ?_
      | with_reducible refine Keeps.of_eq_snd (by assumption) ?_
      | simp only [keeps_mk]
      | split

theorem State.readDir_keeps {r s : State} (h : r.Keeps s) (c : Client) (pte : ℕ) : r.Keeps (State.readDir s c pte).1 := by
  unfold State.readDir
  repeat' first
    | with_reducible assumption
    | with_reducible exact Keeps.refl _
    | with_reducible apply Keeps.ite
    | with_reducible apply Keeps.ite_fst
    | with_reducible apply readLines_keeps
    | with_reducible apply keepsParts_of
    | intro _
    | with_reducible refine Keeps.of_eq (by assumption) ?_
    | with_reducible refine Keeps.of_eq_snd (by assumption) ?_
    | simp only [keeps_mk]
    | split

theorem State.noteDamage_keeps {r s : State} (h : r.Keeps s) (q : ℕ) (t : ℕ) (u : ℕ) (va : ℕ) (cause : ℕ) (b : ℕ) : r.Keeps (State.noteDamage s q t u
    va cause b) := by
  unfold State.noteDamage
  repeat' first
    | with_reducible assumption
    | with_reducible exact Keeps.refl _
    | with_reducible apply Keeps.ite
    | with_reducible apply mark_keeps
    | with_reducible apply bump_keeps
    | with_reducible apply ev_keeps
    | with_reducible apply firstError_keeps
    | with_reducible apply wr_keeps
    | with_reducible apply keepsParts_of
    | intro _
    | with_reducible refine Keeps.of_eq (by assumption) ?_
    | with_reducible refine Keeps.of_eq_snd (by assumption) ?_
    | simp only [keeps_mk]
    | split

theorem State.subData_keeps {r s : State} (h : r.Keeps s) (c : Client) (pte : ℕ) (log2 : ℕ) (j : ℕ) (fmt : ℕ) (d : Dir) : r.Keeps (State.subData s c
    pte log2 j fmt d).1 := by
  unfold State.subData
  repeat' first
    | with_reducible assumption
    | with_reducible exact Keeps.refl _
    | with_reducible apply Keeps.ite
    | with_reducible apply Keeps.ite_fst
    | with_reducible apply chanRead_keeps
    | with_reducible apply keepsParts_of
    | intro _
    | with_reducible refine Keeps.of_eq (by assumption) ?_
    | with_reducible refine Keeps.of_eq_snd (by assumption) ?_
    | simp only [keeps_mk]
    | split

theorem State.noteSub_keeps {r s : State} (h : r.Keeps s) (q : ℕ) (t : ℕ) (u : ℕ) (page : ℕ) (o : SubOut) : r.Keeps (State.noteSub s q t u page o) :=
    by
  unfold State.noteSub
  repeat' first
    | with_reducible assumption
    | with_reducible exact Keeps.refl _
    | with_reducible apply Keeps.ite
    | with_reducible apply bump_keeps
    | with_reducible apply noteDamage_keeps
    | with_reducible refine Keeps.foldl ?_ (fun u x => ?_)
    | with_reducible refine Keeps.foldl_fst ?_ (fun u x => ?_)
    | with_reducible apply keepsParts_of
    | intro _
    | with_reducible refine Keeps.of_eq (by assumption) ?_
    | with_reducible refine Keeps.of_eq_snd (by assumption) ?_
    | simp only [keeps_mk]
    | split

theorem State.expand_keeps {r s : State} (h : r.Keeps s) (c : Client) (pte : ℕ) (log2 : ℕ) (va : ℕ) (j : ℕ) (first : ℕ) (last : ℕ) (d : Dir) : r.Keeps
    (State.expand s c pte log2 va j first last d).1 := by
  unfold State.expand
  repeat' first
    | with_reducible assumption
    | with_reducible exact Keeps.refl _
    | with_reducible apply Keeps.ite
    | with_reducible apply Keeps.ite_fst
    | with_reducible apply subData_keeps
    | with_reducible apply noteSub_keeps
    | with_reducible apply keepsParts_of
    | intro _
    | with_reducible refine Keeps.of_eq (by assumption) ?_
    | with_reducible refine Keeps.of_eq_snd (by assumption) ?_
    | simp only [keeps_mk]
    | split

theorem State.holdPacked_keeps {r s : State} (h : r.Keeps s) (c : Client) (l : Leaf) (va : ℕ) (write : Bool) (data : List Byte) (bads : List Bool)
    (busy : Bool) : r.Keeps (State.holdPacked s c l va write data bads busy) := by
  unfold State.holdPacked
  repeat' first
    | with_reducible assumption
    | with_reducible exact Keeps.refl _
    | with_reducible apply Keeps.ite
    | with_reducible apply keepsParts_of
    | intro _
    | with_reducible refine Keeps.of_eq (by assumption) ?_
    | with_reducible refine Keeps.of_eq_snd (by assumption) ?_
    | simp only [keeps_mk]
    | split

theorem State.waitForDir_keeps {r s : State} (h : r.Keeps s) (c : Client) (l : Leaf) (va : ℕ) (write : Bool) (data : List Byte) (bads : List Bool) :
    r.Keeps (State.waitForDir s c l va write data bads) := by
  unfold State.waitForDir
  repeat' first
    | with_reducible assumption
    | with_reducible exact Keeps.refl _
    | with_reducible apply Keeps.ite
    | with_reducible apply holdPacked_keeps
    | with_reducible apply ev_keeps
    | with_reducible apply keepsParts_of
    | intro _
    | with_reducible refine Keeps.of_eq (by assumption) ?_
    | with_reducible refine Keeps.of_eq_snd (by assumption) ?_
    | simp only [keeps_mk]
    | split

theorem State.dirDamage_keeps {r s : State} (h : r.Keeps s) (c : Client) (l : Leaf) (va : ℕ) (poisoned : Bool) : r.Keeps (State.dirDamage s c l va
    poisoned) := by
  unfold State.dirDamage
  repeat' first
    | with_reducible assumption
    | with_reducible exact Keeps.refl _
    | with_reducible apply Keeps.ite
    | with_reducible apply noteDamage_keeps
    | with_reducible apply keepsParts_of
    | intro _
    | with_reducible refine Keeps.of_eq (by assumption) ?_
    | with_reducible refine Keeps.of_eq_snd (by assumption) ?_
    | simp only [keeps_mk]
    | split

theorem State.packedRead_keeps {r s : State} (h : r.Keeps s) (c : Client) (l : Leaf) (va : ℕ) (n : ℕ) : r.Keeps (State.packedRead s c l va n).1 := by
  unfold State.packedRead
  repeat' first
    | with_reducible assumption
    | with_reducible exact Keeps.refl _
    | with_reducible apply Keeps.ite
    | with_reducible apply Keeps.ite_fst
    | with_reducible apply readDir_keeps
    | with_reducible apply dirDamage_keeps
    | with_reducible apply waitForDir_keeps
    | with_reducible apply expand_keeps
    | with_reducible refine Keeps.foldl ?_ (fun u x => ?_)
    | with_reducible refine Keeps.foldl_fst ?_ (fun u x => ?_)
    | with_reducible apply keepsParts_of
    | intro _
    | with_reducible refine Keeps.of_eq (by assumption) ?_
    | with_reducible refine Keeps.of_eq_snd (by assumption) ?_
    | simp only [keeps_mk]
    | split

theorem State.dirBusy_keeps {r s : State} (h : r.Keeps s) (c : Client) (pte : ℕ) (on : Bool) : r.Keeps (State.dirBusy s c pte on) := by
  unfold State.dirBusy
  repeat' first
    | with_reducible assumption
    | with_reducible exact Keeps.refl _
    | with_reducible apply Keeps.ite
    | with_reducible apply physWrite_keeps
    | with_reducible apply keepsParts_of
    | intro _
    | with_reducible refine Keeps.of_eq (by assumption) ?_
    | with_reducible refine Keeps.of_eq_snd (by assumption) ?_
    | simp only [keeps_mk]
    | split

theorem State.oldBlocks_keeps {r s : State} (h : r.Keeps s) (c : Client) (l : Leaf) (va : ℕ) (j : ℕ) (fmt : ℕ) (first : ℕ) (d : Dir) : r.Keeps
    (State.oldBlocks s c l va j fmt first d).1 := by
  unfold State.oldBlocks
  repeat' first
    | with_reducible assumption
    | with_reducible exact Keeps.refl _
    | with_reducible apply Keeps.ite
    | with_reducible apply Keeps.ite_fst
    | with_reducible apply subData_keeps
    | with_reducible apply noteSub_keeps
    | with_reducible apply keepsParts_of
    | intro _
    | with_reducible refine Keeps.of_eq (by assumption) ?_
    | with_reducible refine Keeps.of_eq_snd (by assumption) ?_
    | simp only [keeps_mk]
    | split

theorem State.putSub_keeps {r s : State} (h : r.Keeps s) (c : Client) (pte : ℕ) (slack : ℕ) (d : Dir) (runs : List (ℕ × ℕ × ℕ)) (e : State.NewSub) :
    r.Keeps (State.putSub s c pte slack d runs e).1 := by
  unfold State.putSub
  repeat' first
    | with_reducible assumption
    | with_reducible exact Keeps.refl _
    | with_reducible apply Keeps.ite
    | with_reducible apply Keeps.ite_fst
    | with_reducible apply chanPoison_keeps
    | with_reducible apply chanWrite_keeps
    | with_reducible apply physWrite_keeps
    | with_reducible apply bump_keeps
    | with_reducible apply ev_keeps
    | with_reducible refine Keeps.foldl ?_ (fun u x => ?_)
    | with_reducible refine Keeps.foldl_fst ?_ (fun u x => ?_)
    | with_reducible apply keepsParts_of
    | intro _
    | with_reducible refine Keeps.of_eq (by assumption) ?_
    | with_reducible refine Keeps.of_eq_snd (by assumption) ?_
    | simp only [keeps_mk]
    | split

theorem State.packedWriteAt_keeps {r s : State} (h : r.Keeps s) (c : Client) (l : Leaf) (va : ℕ) (data : List Byte) (bads : List Bool) : r.Keeps
    (State.packedWriteAt s c l va data bads).1 := by
  unfold State.packedWriteAt
  repeat' first
    | with_reducible assumption
    | with_reducible exact Keeps.refl _
    | with_reducible apply Keeps.ite
    | with_reducible apply Keeps.ite_fst
    | with_reducible apply readDir_keeps
    | with_reducible apply waitForDir_keeps
    | with_reducible apply dirDamage_keeps
    | with_reducible apply oldBlocks_keeps
    | with_reducible apply ev_keeps
    | with_reducible apply dirBusy_keeps
    | with_reducible apply raiseVf_keeps
    | with_reducible apply mark_keeps
    | with_reducible apply holdPacked_keeps
    | with_reducible apply putSub_keeps
    | with_reducible apply physWrite_keeps
    | with_reducible refine Keeps.foldl ?_ (fun u x => ?_)
    | with_reducible refine Keeps.foldl_fst ?_ (fun u x => ?_)
    | with_reducible apply keepsParts_of
    | intro _
    | with_reducible refine Keeps.of_eq (by assumption) ?_
    | with_reducible refine Keeps.of_eq_snd (by assumption) ?_
    | simp only [keeps_mk]
    | split

theorem State.packedFault_keeps {r s : State} (h : r.Keeps s) (c : Client) (va : ℕ) (write : Bool) (cause : ℕ) : r.Keeps (State.packedFault s c va
    write cause) := by
  unfold State.packedFault
  repeat' first
    | with_reducible assumption
    | with_reducible exact Keeps.refl _
    | with_reducible apply Keeps.ite
    | with_reducible apply raiseFault_keeps
    | with_reducible apply keepsParts_of
    | intro _
    | with_reducible refine Keeps.of_eq (by assumption) ?_
    | with_reducible refine Keeps.of_eq_snd (by assumption) ?_
    | simp only [keeps_mk]
    | split

theorem State.readPieces_keeps {r s : State} (h : r.Keeps s) (c : Client) (va : ℕ) (n : ℕ) (y4 : ℕ) : r.Keeps (State.readPieces s c va n y4).1 := by
  induction y4 generalizing s c va n with
  | zero =>
    unfold State.readPieces
    repeat' first
      | with_reducible assumption
      | with_reducible exact Keeps.refl _
      | with_reducible apply Keeps.ite
      | with_reducible apply Keeps.ite_fst
      | with_reducible apply xlate_keeps
      | with_reducible apply packedRead_keeps
      | with_reducible apply packedFault_keeps
      | with_reducible apply readPiece_keeps
      | with_reducible apply keepsParts_of
      | intro _
      | with_reducible refine Keeps.of_eq (by assumption) ?_
      | with_reducible refine Keeps.of_eq_snd (by assumption) ?_
      | simp only [keeps_mk]
      | split
  | succ n0 ih =>
    unfold State.readPieces
    repeat' first
      | with_reducible assumption
      | with_reducible exact Keeps.refl _
      | with_reducible apply Keeps.ite
      | with_reducible apply Keeps.ite_fst
      | with_reducible apply xlate_keeps
      | with_reducible apply packedRead_keeps
      | with_reducible apply packedFault_keeps
      | with_reducible apply readPiece_keeps
      | with_reducible apply ih
      | with_reducible apply keepsParts_of
      | intro _
      | with_reducible refine Keeps.of_eq (by assumption) ?_
      | with_reducible refine Keeps.of_eq_snd (by assumption) ?_
      | simp only [keeps_mk]
      | split

theorem State.writePlain_keeps {r s : State} (h : r.Keeps s) (c : Client) (l : Leaf) (va : ℕ) (d : List Byte) (bads : List Bool) (shadow : Option (ℕ ×
    ℕ)) : r.Keeps (State.writePlain s c l va d bads shadow).1 := by
  unfold State.writePlain
  repeat' first
    | with_reducible assumption
    | with_reducible exact Keeps.refl _
    | with_reducible apply Keeps.ite
    | with_reducible apply Keeps.ite_fst
    | with_reducible apply packedWriteAt_keeps
    | with_reducible apply packedFault_keeps
    | with_reducible apply writePiece_keeps
    | with_reducible apply keepsParts_of
    | intro _
    | with_reducible refine Keeps.of_eq (by assumption) ?_
    | with_reducible refine Keeps.of_eq_snd (by assumption) ?_
    | simp only [keeps_mk]
    | split

theorem State.plainPieces_keeps {r s : State} (h : r.Keeps s) (c : Client) (va : ℕ) (d : List Byte) (bads : List Bool) (y5 : ℕ) : r.Keeps
    (State.plainPieces s c va d bads y5).1 := by
  induction y5 generalizing s c va d bads with
  | zero =>
    unfold State.plainPieces
    repeat' first
      | with_reducible assumption
      | with_reducible exact Keeps.refl _
      | with_reducible apply Keeps.ite
      | with_reducible apply Keeps.ite_fst
      | with_reducible apply xlate_keeps
      | with_reducible apply writePlain_keeps
      | with_reducible apply keepsParts_of
      | intro _
      | with_reducible refine Keeps.of_eq (by assumption) ?_
      | with_reducible refine Keeps.of_eq_snd (by assumption) ?_
      | simp only [keeps_mk]
      | split
  | succ n0 ih =>
    unfold State.plainPieces
    repeat' first
      | with_reducible assumption
      | with_reducible exact Keeps.refl _
      | with_reducible apply Keeps.ite
      | with_reducible apply Keeps.ite_fst
      | with_reducible apply xlate_keeps
      | with_reducible apply writePlain_keeps
      | with_reducible apply ih
      | with_reducible apply keepsParts_of
      | intro _
      | with_reducible refine Keeps.of_eq (by assumption) ?_
      | with_reducible refine Keeps.of_eq_snd (by assumption) ?_
      | simp only [keeps_mk]
      | split

theorem State.readLedger_keeps {r s : State} (h : r.Keeps s) (c : Client) (obj : ℕ) : r.Keeps (State.readLedger s c obj).1 := by
  unfold State.readLedger
  repeat' first
    | with_reducible assumption
    | with_reducible exact Keeps.refl _
    | with_reducible apply Keeps.ite
    | with_reducible apply Keeps.ite_fst
    | with_reducible apply readPieces_keeps
    | with_reducible apply raiseFault_keeps
    | with_reducible apply keepsParts_of
    | intro _
    | with_reducible refine Keeps.of_eq (by assumption) ?_
    | with_reducible refine Keeps.of_eq_snd (by assumption) ?_
    | simp only [keeps_mk]
    | split

theorem State.clearShadow_keeps {r s : State} (h : r.Keeps s) (q : ℕ) (obj : ℕ) : r.Keeps (State.clearShadow s q obj) := by
  unfold State.clearShadow
  repeat' first
    | with_reducible assumption
    | with_reducible exact Keeps.refl _
    | with_reducible apply Keeps.ite
    | with_reducible apply Keeps.ite_fst
    | with_reducible apply readPieces_keeps
    | with_reducible apply plainPieces_keeps
    | with_reducible apply keepsParts_of
    | intro _
    | with_reducible refine Keeps.of_eq (by assumption) ?_
    | with_reducible refine Keeps.of_eq_snd (by assumption) ?_
    | simp only [keeps_mk]
    | split

theorem State.secondWrite_keeps {r s : State} (h : r.Keeps s) (q : ℕ) (obj : ℕ) (va : ℕ) (d : List Byte) (bads : List Bool) : r.Keeps
    (State.secondWrite s q obj va d bads) := by
  unfold State.secondWrite
  repeat' first
    | with_reducible assumption
    | with_reducible exact Keeps.refl _
    | with_reducible apply Keeps.ite
    | with_reducible apply Keeps.ite_fst
    | with_reducible apply plainPieces_keeps
    | with_reducible apply clearShadow_keeps
    | with_reducible apply keepsParts_of
    | intro _
    | with_reducible refine Keeps.of_eq (by assumption) ?_
    | with_reducible refine Keeps.of_eq_snd (by assumption) ?_
    | simp only [keeps_mk]
    | split

theorem State.restoreWrite_keeps {r s : State} (h : r.Keeps s) (l : PLine) : r.Keeps (State.restoreWrite s l) := by
  unfold State.restoreWrite
  repeat' first
    | with_reducible assumption
    | with_reducible exact Keeps.refl _
    | with_reducible apply Keeps.ite
    | with_reducible apply secondWrite_keeps
    | with_reducible apply keepsParts_of
    | intro _
    | with_reducible refine Keeps.of_eq (by assumption) ?_
    | with_reducible refine Keeps.of_eq_snd (by assumption) ?_
    | simp only [keeps_mk]
    | split

theorem State.settle_keeps {r s : State} (h : r.Keeps s) : r.Keeps (State.settle s) := by
  unfold State.settle
  repeat' first
    | with_reducible assumption
    | with_reducible exact Keeps.refl _
    | with_reducible apply Keeps.ite
    | with_reducible apply restoreWrite_keeps
    | with_reducible refine Keeps.foldl ?_ (fun u x => ?_)
    | with_reducible refine Keeps.foldl_fst ?_ (fun u x => ?_)
    | with_reducible apply keepsParts_of
    | intro _
    | with_reducible refine Keeps.of_eq (by assumption) ?_
    | with_reducible refine Keeps.of_eq_snd (by assumption) ?_
    | simp only [keeps_mk]
    | split

theorem State.writeBack_keeps {r s : State} (h : r.Keeps s) (l : PLine) : r.Keeps (State.writeBack s l) := by
  unfold State.writeBack
  repeat' first
    | with_reducible assumption
    | with_reducible exact Keeps.refl _
    | with_reducible apply Keeps.ite
    | with_reducible apply restoreWrite_keeps
    | with_reducible apply storePoison_keeps
    | with_reducible apply keepsParts_of
    | intro _
    | with_reducible refine Keeps.of_eq (by assumption) ?_
    | with_reducible refine Keeps.of_eq_snd (by assumption) ?_
    | simp only [keeps_mk]
    | split

theorem State.flushLines_keeps {r s : State} (h : r.Keeps s) (ls : List PLine) : r.Keeps (State.flushLines s ls) := by
  unfold State.flushLines
  repeat' first
    | with_reducible assumption
    | with_reducible exact Keeps.refl _
    | with_reducible apply Keeps.ite
    | with_reducible apply dropLine_keeps
    | with_reducible apply writeBack_keeps
    | with_reducible refine Keeps.foldl ?_ (fun u x => ?_)
    | with_reducible refine Keeps.foldl_fst ?_ (fun u x => ?_)
    | with_reducible apply keepsParts_of
    | intro _
    | with_reducible refine Keeps.of_eq (by assumption) ?_
    | with_reducible refine Keeps.of_eq_snd (by assumption) ?_
    | simp only [keeps_mk]
    | split

theorem State.vreadL_keeps {r s : State} (h : r.Keeps s) (c : Client) (va : ℕ) (n : ℕ) : r.Keeps (State.vreadL s c va n).1 := by
  unfold State.vreadL
  repeat' first
    | with_reducible assumption
    | with_reducible exact Keeps.refl _
    | with_reducible apply Keeps.ite
    | with_reducible apply Keeps.ite_fst
    | with_reducible apply readPieces_keeps
    | with_reducible apply settle_keeps
    | with_reducible apply keepsParts_of
    | intro _
    | with_reducible refine Keeps.of_eq (by assumption) ?_
    | with_reducible refine Keeps.of_eq_snd (by assumption) ?_
    | simp only [keeps_mk]
    | split

theorem State.vread_keeps {r s : State} (h : r.Keeps s) (c : Client) (va : ℕ) (n : ℕ) : r.Keeps (State.vread s c va n).1 := by
  unfold State.vread
  repeat' first
    | with_reducible assumption
    | with_reducible exact Keeps.refl _
    | with_reducible apply Keeps.ite
    | with_reducible apply Keeps.ite_fst
    | with_reducible apply vreadL_keeps
    | with_reducible apply keepsParts_of
    | intro _
    | with_reducible refine Keeps.of_eq (by assumption) ?_
    | with_reducible refine Keeps.of_eq_snd (by assumption) ?_
    | simp only [keeps_mk]
    | split

theorem State.shadowFor_keeps {r s : State} (h : r.Keeps s) (c : Client) (l : Leaf) (va : ℕ) : r.Keeps (State.shadowFor s c l va).1 := by
  unfold State.shadowFor
  repeat' first
    | with_reducible assumption
    | with_reducible exact Keeps.refl _
    | with_reducible apply Keeps.ite
    | with_reducible apply Keeps.ite_fst
    | with_reducible apply readLedger_keeps
    | with_reducible apply clearShadow_keeps
    | with_reducible apply keepsParts_of
    | intro _
    | with_reducible refine Keeps.of_eq (by assumption) ?_
    | with_reducible refine Keeps.of_eq_snd (by assumption) ?_
    | simp only [keeps_mk]
    | split

theorem State.writeOne_keeps {r s : State} (h : r.Keeps s) (c : Client) (l : Leaf) (va : ℕ) (d : List Byte) (bads : List Bool) : r.Keeps
    (State.writeOne s c l va d bads).1 := by
  unfold State.writeOne
  repeat' first
    | with_reducible assumption
    | with_reducible exact Keeps.refl _
    | with_reducible apply Keeps.ite
    | with_reducible apply Keeps.ite_fst
    | with_reducible apply shadowFor_keeps
    | with_reducible apply secondWrite_keeps
    | with_reducible apply writePlain_keeps
    | with_reducible apply keepsParts_of
    | intro _
    | with_reducible refine Keeps.of_eq (by assumption) ?_
    | with_reducible refine Keeps.of_eq_snd (by assumption) ?_
    | simp only [keeps_mk]
    | split

theorem State.writePieces_keeps {r s : State} (h : r.Keeps s) (c : Client) (va : ℕ) (d : List Byte) (bads : List Bool) (y5 : ℕ) : r.Keeps
    (State.writePieces s c va d bads y5).1 := by
  induction y5 generalizing s c va d bads with
  | zero =>
    unfold State.writePieces
    repeat' first
      | with_reducible assumption
      | with_reducible exact Keeps.refl _
      | with_reducible apply Keeps.ite
      | with_reducible apply Keeps.ite_fst
      | with_reducible apply xlate_keeps
      | with_reducible apply writeOne_keeps
      | with_reducible apply keepsParts_of
      | intro _
      | with_reducible refine Keeps.of_eq (by assumption) ?_
      | with_reducible refine Keeps.of_eq_snd (by assumption) ?_
      | simp only [keeps_mk]
      | split
  | succ n0 ih =>
    unfold State.writePieces
    repeat' first
      | with_reducible assumption
      | with_reducible exact Keeps.refl _
      | with_reducible apply Keeps.ite
      | with_reducible apply Keeps.ite_fst
      | with_reducible apply xlate_keeps
      | with_reducible apply writeOne_keeps
      | with_reducible apply ih
      | with_reducible apply keepsParts_of
      | intro _
      | with_reducible refine Keeps.of_eq (by assumption) ?_
      | with_reducible refine Keeps.of_eq_snd (by assumption) ?_
      | simp only [keeps_mk]
      | split

theorem State.vwriteL_keeps {r s : State} (h : r.Keeps s) (c : Client) (va : ℕ) (d : List Byte) (bads : List Bool) : r.Keeps (State.vwriteL s c va d
    bads).1 := by
  unfold State.vwriteL
  repeat' first
    | with_reducible assumption
    | with_reducible exact Keeps.refl _
    | with_reducible apply Keeps.ite
    | with_reducible apply Keeps.ite_fst
    | with_reducible apply writePieces_keeps
    | with_reducible apply settle_keeps
    | with_reducible apply keepsParts_of
    | intro _
    | with_reducible refine Keeps.of_eq (by assumption) ?_
    | with_reducible refine Keeps.of_eq_snd (by assumption) ?_
    | simp only [keeps_mk]
    | split

theorem State.vwrite_keeps {r s : State} (h : r.Keeps s) (c : Client) (va : ℕ) (d : List Byte) : r.Keeps (State.vwrite s c va d).1 := by
  unfold State.vwrite
  repeat' first
    | with_reducible assumption
    | with_reducible exact Keeps.refl _
    | with_reducible apply Keeps.ite
    | with_reducible apply Keeps.ite_fst
    | with_reducible apply vwriteL_keeps
    | with_reducible apply keepsParts_of
    | intro _
    | with_reducible refine Keeps.of_eq (by assumption) ?_
    | with_reducible refine Keeps.of_eq_snd (by assumption) ?_
    | simp only [keeps_mk]
    | split

theorem State.vwrites_keeps {r s : State} (h : r.Keeps s) (c : Client) (y2 : List VWrite) : r.Keeps (State.vwrites s c y2).1 := by
  induction y2 generalizing s c with
  | nil =>
    unfold State.vwrites
    repeat' first
      | with_reducible assumption
      | with_reducible exact Keeps.refl _
      | with_reducible apply Keeps.ite
      | with_reducible apply Keeps.ite_fst
      | with_reducible apply vwrite_keeps
      | with_reducible apply keepsParts_of
      | intro _
      | with_reducible refine Keeps.of_eq (by assumption) ?_
      | with_reducible refine Keeps.of_eq_snd (by assumption) ?_
      | simp only [keeps_mk]
      | split
  | cons z l ih =>
    unfold State.vwrites
    repeat' first
      | with_reducible assumption
      | with_reducible exact Keeps.refl _
      | with_reducible apply Keeps.ite
      | with_reducible apply Keeps.ite_fst
      | with_reducible apply vwrite_keeps
      | with_reducible apply ih
      | with_reducible apply keepsParts_of
      | intro _
      | with_reducible refine Keeps.of_eq (by assumption) ?_
      | with_reducible refine Keeps.of_eq_snd (by assumption) ?_
      | simp only [keeps_mk]
      | split

theorem State.promote_keeps {r s : State} (h : r.Keeps s) (t : ℕ) (u : ℕ) (ch : ℕ) : r.Keeps (State.promote s t u ch) := by
  unfold State.promote
  repeat' first
    | with_reducible assumption
    | with_reducible exact Keeps.refl _
    | with_reducible apply Keeps.ite
    | with_reducible apply ev_keeps
    | with_reducible apply keepsParts_of
    | intro _
    | with_reducible refine Keeps.of_eq (by assumption) ?_
    | with_reducible refine Keeps.of_eq_snd (by assumption) ?_
    | simp only [keeps_mk]
    | split

theorem State.serveReq_keeps {r s : State} (h : r.Keeps s) (t : ℕ) (u : ℕ) (ch : ℕ) (x : MemReq) : r.Keeps (State.serveReq s t u ch x) := by
  unfold State.serveReq
  repeat' first
    | with_reducible assumption
    | with_reducible exact Keeps.refl _
    | with_reducible apply Keeps.ite
    | with_reducible apply promote_keeps
    | with_reducible apply keepsParts_of
    | intro _
    | with_reducible refine Keeps.of_eq (by assumption) ?_
    | with_reducible refine Keeps.of_eq_snd (by assumption) ?_
    | simp only [keeps_mk]
    | split

theorem State.enqueue_keeps {r0 s : State} (h : r0.Keeps s) (t : ℕ) (u : ℕ) (r : MemReq) : r0.Keeps (State.enqueue s t u r) := by
  unfold State.enqueue
  repeat' first
    | with_reducible assumption
    | with_reducible exact Keeps.refl _
    | with_reducible apply Keeps.ite
    | with_reducible apply ev_keeps
    | with_reducible apply keepsParts_of
    | intro _
    | with_reducible refine Keeps.of_eq (by assumption) ?_
    | with_reducible refine Keeps.of_eq_snd (by assumption) ?_
    | simp only [keeps_mk]
    | split

theorem State.serveAll_keeps {r s : State} (h : r.Keeps s) (t : ℕ) (u : ℕ) (ch : ℕ) (y4 : ℕ) : r.Keeps (State.serveAll s t u ch y4) := by
  induction y4 generalizing s t u ch with
  | zero =>
    unfold State.serveAll
    repeat' first
      | with_reducible assumption
      | with_reducible exact Keeps.refl _
      | with_reducible apply Keeps.ite
      | with_reducible apply serveReq_keeps
      | with_reducible apply keepsParts_of
      | intro _
      | with_reducible refine Keeps.of_eq (by assumption) ?_
      | with_reducible refine Keeps.of_eq_snd (by assumption) ?_
      | simp only [keeps_mk]
      | split
  | succ n0 ih =>
    unfold State.serveAll
    repeat' first
      | with_reducible assumption
      | with_reducible exact Keeps.refl _
      | with_reducible apply Keeps.ite
      | with_reducible apply serveReq_keeps
      | with_reducible apply ih
      | with_reducible apply keepsParts_of
      | intro _
      | with_reducible refine Keeps.of_eq (by assumption) ?_
      | with_reducible refine Keeps.of_eq_snd (by assumption) ?_
      | simp only [keeps_mk]
      | split

theorem State.serveFor_keeps {r s : State} (h : r.Keeps s) (k : ℕ) (p : ℕ) (bs : List ℕ) (y4 : ℕ) : r.Keeps (State.serveFor s k p bs y4) := by
  induction y4 generalizing s k p bs with
  | zero =>
    unfold State.serveFor
    repeat' first
      | with_reducible assumption
      | with_reducible exact Keeps.refl _
      | with_reducible apply Keeps.ite
      | with_reducible apply serveReq_keeps
      | with_reducible apply keepsParts_of
      | intro _
      | with_reducible refine Keeps.of_eq (by assumption) ?_
      | with_reducible refine Keeps.of_eq_snd (by assumption) ?_
      | simp only [keeps_mk]
      | split
  | succ n0 ih =>
    unfold State.serveFor
    repeat' first
      | with_reducible assumption
      | with_reducible exact Keeps.refl _
      | with_reducible apply Keeps.ite
      | with_reducible apply serveReq_keeps
      | with_reducible apply ih
      | with_reducible apply keepsParts_of
      | intro _
      | with_reducible refine Keeps.of_eq (by assumption) ?_
      | with_reducible refine Keeps.of_eq_snd (by assumption) ?_
      | simp only [keeps_mk]
      | split

theorem State.serveBanks_keeps {r s : State} (h : r.Keeps s) (k : ℕ) (p : ℕ) : r.Keeps (State.serveBanks s k p) := by
  unfold State.serveBanks
  repeat' first
    | with_reducible assumption
    | with_reducible exact Keeps.refl _
    | with_reducible apply Keeps.ite
    | with_reducible apply serveFor_keeps
    | with_reducible refine Keeps.foldl ?_ (fun u x => ?_)
    | with_reducible refine Keeps.foldl_fst ?_ (fun u x => ?_)
    | with_reducible apply keepsParts_of
    | intro _
    | with_reducible refine Keeps.of_eq (by assumption) ?_
    | with_reducible refine Keeps.of_eq_snd (by assumption) ?_
    | simp only [keeps_mk]
    | split

theorem State.serveQueues_keeps {r s : State} (h : r.Keeps s) : r.Keeps (State.serveQueues s) := by
  unfold State.serveQueues
  repeat' first
    | with_reducible assumption
    | with_reducible exact Keeps.refl _
    | with_reducible apply Keeps.ite
    | with_reducible apply serveAll_keeps
    | with_reducible refine Keeps.foldl ?_ (fun u x => ?_)
    | with_reducible refine Keeps.foldl_fst ?_ (fun u x => ?_)
    | with_reducible apply keepsParts_of
    | intro _
    | with_reducible refine Keeps.of_eq (by assumption) ?_
    | with_reducible refine Keeps.of_eq_snd (by assumption) ?_
    | simp only [keeps_mk]
    | split

theorem State.setStrip_keeps {r s : State} (h : r.Keeps s) (k : ℕ) (st : Strip) : r.Keeps (State.setStrip s k st) := by
  unfold State.setStrip
  repeat' first
    | with_reducible assumption
    | with_reducible exact Keeps.refl _
    | with_reducible apply Keeps.ite
    | with_reducible apply keepsParts_of
    | intro _
    | with_reducible refine Keeps.of_eq (by assumption) ?_
    | with_reducible refine Keeps.of_eq_snd (by assumption) ?_
    | simp only [keeps_mk]
    | split

theorem State.syncBlanks_keeps {r s : State} (h : r.Keeps s) (q : ℕ) : r.Keeps (State.syncBlanks s q) := by
  unfold State.syncBlanks
  repeat' first
    | with_reducible assumption
    | with_reducible exact Keeps.refl _
    | with_reducible apply Keeps.ite
    | with_reducible apply wr_keeps
    | with_reducible apply keepsParts_of
    | intro _
    | with_reducible refine Keeps.of_eq (by assumption) ?_
    | with_reducible refine Keeps.of_eq_snd (by assumption) ?_
    | simp only [keeps_mk]
    | split

theorem State.placeBlank_keeps {r s : State} (h : r.Keeps s) (o : Op) (top : ℕ) (left : ℕ) (c : ℕ) : r.Keeps (State.placeBlank s o top left c) := by
  unfold State.placeBlank
  repeat' first
    | with_reducible assumption
    | with_reducible exact Keeps.refl _
    | with_reducible apply Keeps.ite
    | with_reducible apply setOp_keeps
    | with_reducible apply syncBlanks_keeps
    | with_reducible apply startAlloc_keeps
    | with_reducible apply keepsParts_of
    | intro _
    | with_reducible refine Keeps.of_eq (by assumption) ?_
    | with_reducible refine Keeps.of_eq_snd (by assumption) ?_
    | simp only [keeps_mk]
    | split

theorem State.scanTo_keeps {r s : State} (h : r.Keeps s) (q : ℕ) (c : ℕ) (y3 : ℕ) : r.Keeps (State.scanTo s q c y3) := by
  induction y3 generalizing s q c with
  | zero =>
    unfold State.scanTo
    repeat' first
      | with_reducible assumption
      | with_reducible exact Keeps.refl _
      | with_reducible apply Keeps.ite
      | with_reducible apply placeBlank_keeps
      | with_reducible apply setH_keeps
      | with_reducible apply keepsParts_of
      | intro _
      | with_reducible refine Keeps.of_eq (by assumption) ?_
      | with_reducible refine Keeps.of_eq_snd (by assumption) ?_
      | simp only [keeps_mk]
      | split
  | succ n0 ih =>
    unfold State.scanTo
    repeat' first
      | with_reducible assumption
      | with_reducible exact Keeps.refl _
      | with_reducible apply Keeps.ite
      | with_reducible apply placeBlank_keeps
      | with_reducible apply setH_keeps
      | with_reducible apply ih
      | with_reducible apply keepsParts_of
      | intro _
      | with_reducible refine Keeps.of_eq (by assumption) ?_
      | with_reducible refine Keeps.of_eq_snd (by assumption) ?_
      | simp only [keeps_mk]
      | split

theorem State.writeRecord_keeps {r s : State} (h : r.Keeps s) (o : Op) : r.Keeps (State.writeRecord s o).1 := by
  unfold State.writeRecord
  repeat' first
    | with_reducible assumption
    | with_reducible exact Keeps.refl _
    | with_reducible apply Keeps.ite
    | with_reducible apply Keeps.ite_fst
    | with_reducible apply vwrite_keeps
    | with_reducible apply setOp_keeps
    | with_reducible apply mark_keeps
    | with_reducible apply keepsParts_of
    | intro _
    | with_reducible refine Keeps.of_eq (by assumption) ?_
    | with_reducible refine Keeps.of_eq_snd (by assumption) ?_
    | simp only [keeps_mk]
    | split

theorem State.clearRecord_keeps {r s : State} (h : r.Keeps s) (o : Op) : r.Keeps (State.clearRecord s o) := by
  unfold State.clearRecord
  repeat' first
    | with_reducible assumption
    | with_reducible exact Keeps.refl _
    | with_reducible apply Keeps.ite
    | with_reducible apply Keeps.ite_fst
    | with_reducible apply vread_keeps
    | with_reducible apply vwrite_keeps
    | with_reducible apply keepsParts_of
    | intro _
    | with_reducible refine Keeps.of_eq (by assumption) ?_
    | with_reducible refine Keeps.of_eq_snd (by assumption) ?_
    | simp only [keeps_mk]
    | split

theorem State.signalBar_keeps {r s : State} (h : r.Keeps s) (q : ℕ) (b : ℕ) (status : ℕ) : r.Keeps (State.signalBar s q b status) := by
  unfold State.signalBar
  repeat' first
    | with_reducible assumption
    | with_reducible exact Keeps.refl _
    | with_reducible apply Keeps.ite
    | with_reducible apply wr_keeps
    | with_reducible apply mark_keeps
    | with_reducible apply keepsParts_of
    | intro _
    | with_reducible refine Keeps.of_eq (by assumption) ?_
    | with_reducible refine Keeps.of_eq_snd (by assumption) ?_
    | simp only [keeps_mk]
    | split

theorem State.pageVector_keeps {r s : State} (h : r.Keeps s) (page : ℕ) : r.Keeps (State.pageVector s page) := by
  unfold State.pageVector
  repeat' first
    | with_reducible assumption
    | with_reducible exact Keeps.refl _
    | with_reducible apply Keeps.ite
    | with_reducible apply raiseVf_keeps
    | with_reducible apply sendMsix_keeps
    | with_reducible apply keepsParts_of
    | intro _
    | with_reducible refine Keeps.of_eq (by assumption) ?_
    | with_reducible refine Keeps.of_eq_snd (by assumption) ?_
    | simp only [keeps_mk]
    | split

theorem State.ringFault_keeps {r s : State} (h : r.Keeps s) (page : ℕ) : r.Keeps (State.ringFault s page) := by
  unfold State.ringFault
  repeat' first
    | with_reducible assumption
    | with_reducible exact Keeps.refl _
    | with_reducible apply Keeps.ite
    | with_reducible apply wr_keeps
    | with_reducible apply mark_keeps
    | with_reducible apply raiseVf_keeps
    | with_reducible apply raisePf_keeps
    | with_reducible apply keepsParts_of
    | intro _
    | with_reducible refine Keeps.of_eq (by assumption) ?_
    | with_reducible refine Keeps.of_eq_snd (by assumption) ?_
    | simp only [keeps_mk]
    | split

theorem State.ringRead_keeps {r s : State} (h : r.Keeps s) (page : ℕ) (loc : ℕ) (a : ℕ) (n : ℕ) : r.Keeps (State.ringRead s page loc a n).1 := by
  unfold State.ringRead
  repeat' first
    | with_reducible assumption
    | with_reducible exact Keeps.refl _
    | with_reducible apply Keeps.ite
    | with_reducible apply Keeps.ite_fst
    | with_reducible apply vread_keeps
    | with_reducible apply keepsParts_of
    | intro _
    | with_reducible refine Keeps.of_eq (by assumption) ?_
    | with_reducible refine Keeps.of_eq_snd (by assumption) ?_
    | simp only [keeps_mk]
    | split

theorem State.ringWrite_keeps {r s : State} (h : r.Keeps s) (page : ℕ) (loc : ℕ) (a : ℕ) (d : List Byte) : r.Keeps (State.ringWrite s page loc a d).1
    := by
  unfold State.ringWrite
  repeat' first
    | with_reducible assumption
    | with_reducible exact Keeps.refl _
    | with_reducible apply Keeps.ite
    | with_reducible apply Keeps.ite_fst
    | with_reducible apply setBytes_keeps
    | with_reducible apply vwrite_keeps
    | with_reducible apply keepsParts_of
    | intro _
    | with_reducible refine Keeps.of_eq (by assumption) ?_
    | with_reducible refine Keeps.of_eq_snd (by assumption) ?_
    | simp only [keeps_mk]
    | split

theorem State.postNow_keeps {r s : State} (h : r.Keeps s) (page : ℕ) (c : Cpl) : r.Keeps (State.postNow s page c).1 := by
  unfold State.postNow
  repeat' first
    | with_reducible assumption
    | with_reducible exact Keeps.refl _
    | with_reducible apply Keeps.ite
    | with_reducible apply Keeps.ite_fst
    | with_reducible apply ringWrite_keeps
    | with_reducible apply pageVector_keeps
    | with_reducible apply wr_keeps
    | with_reducible apply ringFault_keeps
    | with_reducible apply keepsParts_of
    | intro _
    | with_reducible refine Keeps.of_eq (by assumption) ?_
    | with_reducible refine Keeps.of_eq_snd (by assumption) ?_
    | simp only [keeps_mk]
    | split

theorem State.endCqWait_keeps {r s : State} (h : r.Keeps s) (page : ℕ) : r.Keeps (State.endCqWait s page) := by
  unfold State.endCqWait
  repeat' first
    | with_reducible assumption
    | with_reducible exact Keeps.refl _
    | with_reducible apply Keeps.ite
    | with_reducible apply setH_keeps
    | with_reducible apply ev_keeps
    | with_reducible apply keepsParts_of
    | intro _
    | with_reducible refine Keeps.of_eq (by assumption) ?_
    | with_reducible refine Keeps.of_eq_snd (by assumption) ?_
    | simp only [keeps_mk]
    | split

theorem State.drainCq_keeps {r s : State} (h : r.Keeps s) (page : ℕ) (y2 : ℕ) : r.Keeps (State.drainCq s page y2) := by
  induction y2 generalizing s page with
  | zero =>
    unfold State.drainCq
    repeat' first
      | with_reducible assumption
      | with_reducible exact Keeps.refl _
      | with_reducible apply Keeps.ite
      | with_reducible apply Keeps.ite_fst
      | with_reducible apply setH_keeps
      | with_reducible apply postNow_keeps
      | with_reducible apply endCqWait_keeps
      | with_reducible apply keepsParts_of
      | intro _
      | with_reducible refine Keeps.of_eq (by assumption) ?_
      | with_reducible refine Keeps.of_eq_snd (by assumption) ?_
      | simp only [keeps_mk]
      | split
  | succ n0 ih =>
    unfold State.drainCq
    repeat' first
      | with_reducible assumption
      | with_reducible exact Keeps.refl _
      | with_reducible apply Keeps.ite
      | with_reducible apply Keeps.ite_fst
      | with_reducible apply setH_keeps
      | with_reducible apply postNow_keeps
      | with_reducible apply endCqWait_keeps
      | with_reducible apply ih
      | with_reducible apply keepsParts_of
      | intro _
      | with_reducible refine Keeps.of_eq (by assumption) ?_
      | with_reducible refine Keeps.of_eq_snd (by assumption) ?_
      | simp only [keeps_mk]
      | split

theorem State.complete_keeps {r s : State} (h : r.Keeps s) (page : ℕ) (c : Cpl) : r.Keeps (State.complete s page c) := by
  unfold State.complete
  repeat' first
    | with_reducible assumption
    | with_reducible exact Keeps.refl _
    | with_reducible apply Keeps.ite
    | with_reducible apply wr_keeps
    | with_reducible apply setH_keeps
    | with_reducible apply raiseVf_keeps
    | with_reducible apply sendMsix_keeps
    | with_reducible apply drainCq_keeps
    | with_reducible apply keepsParts_of
    | intro _
    | with_reducible refine Keeps.of_eq (by assumption) ?_
    | with_reducible refine Keeps.of_eq_snd (by assumption) ?_
    | simp only [keeps_mk]
    | split

theorem State.releaseClaims_keeps {r s : State} (h : r.Keeps s) (q : ℕ) (b : ℕ) (y3 : ℕ) : r.Keeps (State.releaseClaims s q b y3) := by
  induction y3 generalizing s q b with
  | zero =>
    unfold State.releaseClaims
    repeat' first
      | with_reducible assumption
      | with_reducible exact Keeps.refl _
      | with_reducible apply Keeps.ite
      | with_reducible apply wr_keeps
      | with_reducible apply keepsParts_of
      | intro _
      | with_reducible refine Keeps.of_eq (by assumption) ?_
      | with_reducible refine Keeps.of_eq_snd (by assumption) ?_
      | simp only [keeps_mk]
      | split
  | succ n0 ih =>
    unfold State.releaseClaims
    repeat' first
      | with_reducible assumption
      | with_reducible exact Keeps.refl _
      | with_reducible apply Keeps.ite
      | with_reducible apply wr_keeps
      | with_reducible apply ih
      | with_reducible apply keepsParts_of
      | intro _
      | with_reducible refine Keeps.of_eq (by assumption) ?_
      | with_reducible refine Keeps.of_eq_snd (by assumption) ?_
      | simp only [keeps_mk]
      | split

theorem State.endClaim_keeps {r s : State} (h : r.Keeps s) (o : Op) : r.Keeps (State.endClaim s o) := by
  unfold State.endClaim
  repeat' first
    | with_reducible assumption
    | with_reducible exact Keeps.refl _
    | with_reducible apply Keeps.ite
    | with_reducible apply releaseClaims_keeps
    | with_reducible apply keepsParts_of
    | intro _
    | with_reducible refine Keeps.of_eq (by assumption) ?_
    | with_reducible refine Keeps.of_eq_snd (by assumption) ?_
    | simp only [keeps_mk]
    | split

theorem State.releaseBlank_keeps {r s : State} (h : r.Keeps s) (id : ℕ) : r.Keeps (State.releaseBlank s id) := by
  unfold State.releaseBlank
  repeat' first
    | with_reducible assumption
    | with_reducible exact Keeps.refl _
    | with_reducible apply Keeps.ite
    | with_reducible apply scanTo_keeps
    | with_reducible apply setH_keeps
    | with_reducible apply ev_keeps
    | with_reducible apply setOp_keeps
    | with_reducible apply keepsParts_of
    | intro _
    | with_reducible refine Keeps.of_eq (by assumption) ?_
    | with_reducible refine Keeps.of_eq_snd (by assumption) ?_
    | simp only [keeps_mk]
    | split

theorem State.endOp_keeps {r s : State} (h : r.Keeps s) (id : ℕ) (status : ℕ) (y3 : ℕ) : r.Keeps (State.endOp s id status y3) := by
  induction y3 generalizing s id status with
  | zero =>
    unfold State.endOp
    repeat' first
      | with_reducible assumption
      | with_reducible exact Keeps.refl _
      | with_reducible apply Keeps.ite
      | with_reducible apply releaseBlank_keeps
      | with_reducible apply endClaim_keeps
      | with_reducible apply clearRecord_keeps
      | with_reducible apply signalBar_keeps
      | with_reducible apply dropOp_keeps
      | with_reducible apply setOp_keeps
      | with_reducible apply complete_keeps
      | with_reducible apply keepsParts_of
      | intro _
      | with_reducible refine Keeps.of_eq (by assumption) ?_
      | with_reducible refine Keeps.of_eq_snd (by assumption) ?_
      | simp only [keeps_mk]
      | split
  | succ n0 ih =>
    unfold State.endOp
    repeat' first
      | with_reducible assumption
      | with_reducible exact Keeps.refl _
      | with_reducible apply Keeps.ite
      | with_reducible apply releaseBlank_keeps
      | with_reducible apply endClaim_keeps
      | with_reducible apply clearRecord_keeps
      | with_reducible apply signalBar_keeps
      | with_reducible apply dropOp_keeps
      | with_reducible apply setOp_keeps
      | with_reducible apply complete_keeps
      | with_reducible apply ih
      | with_reducible apply keepsParts_of
      | intro _
      | with_reducible refine Keeps.of_eq (by assumption) ?_
      | with_reducible refine Keeps.of_eq_snd (by assumption) ?_
      | simp only [keeps_mk]
      | split

theorem State.finish_keeps {r s : State} (h : r.Keeps s) (id : ℕ) (status : ℕ) : r.Keeps (State.finish s id status) := by
  unfold State.finish
  repeat' first
    | with_reducible assumption
    | with_reducible exact Keeps.refl _
    | with_reducible apply Keeps.ite
    | with_reducible apply endOp_keeps
    | with_reducible apply keepsParts_of
    | intro _
    | with_reducible refine Keeps.of_eq (by assumption) ?_
    | with_reducible refine Keeps.of_eq_snd (by assumption) ?_
    | simp only [keeps_mk]
    | split

theorem State.finishWith_keeps {r s : State} (h : r.Keeps s) (id : ℕ) (status : ℕ) : r.Keeps (State.finishWith s id status) := by
  unfold State.finishWith
  repeat' first
    | with_reducible assumption
    | with_reducible exact Keeps.refl _
    | with_reducible apply Keeps.ite
    | with_reducible apply finish_keeps
    | with_reducible apply keepsParts_of
    | intro _
    | with_reducible refine Keeps.of_eq (by assumption) ?_
    | with_reducible refine Keeps.of_eq_snd (by assumption) ?_
    | simp only [keeps_mk]
    | split

theorem State.parkOp_keeps {r s : State} (h : r.Keeps s) (id : ℕ) (spilled : Bool) (overrun : Bool) (noProgress : ℕ) : r.Keeps (State.parkOp s id
    spilled overrun noProgress) := by
  unfold State.parkOp
  repeat' first
    | with_reducible assumption
    | with_reducible exact Keeps.refl _
    | with_reducible apply Keeps.ite
    | with_reducible apply Keeps.ite_fst
    | with_reducible apply writeRecord_keeps
    | with_reducible apply setOp_keeps
    | with_reducible apply leaveAlloc_keeps
    | with_reducible apply releaseBlank_keeps
    | with_reducible apply finish_keeps
    | with_reducible apply keepsParts_of
    | intro _
    | with_reducible refine Keeps.of_eq (by assumption) ?_
    | with_reducible refine Keeps.of_eq_snd (by assumption) ?_
    | simp only [keeps_mk]
    | split

theorem State.lateDone_keeps {r s : State} (h : r.Keeps s) (u : Until) (status : ℕ) : r.Keeps (State.lateDone s u status) := by
  unfold State.lateDone
  repeat' first
    | with_reducible assumption
    | with_reducible exact Keeps.refl _
    | with_reducible apply Keeps.ite
    | with_reducible apply complete_keeps
    | with_reducible refine Keeps.foldl ?_ (fun u x => ?_)
    | with_reducible refine Keeps.foldl_fst ?_ (fun u x => ?_)
    | with_reducible apply keepsParts_of
    | intro _
    | with_reducible refine Keeps.of_eq (by assumption) ?_
    | with_reducible refine Keeps.of_eq_snd (by assumption) ?_
    | simp only [keeps_mk]
    | split

theorem State.refuse_keeps {r s : State} (h : r.Keeps s) (a : Agent) (off : ℕ) : r.Keeps (State.refuse s a off) := by
  unfold State.refuse
  repeat' first
    | with_reducible assumption
    | with_reducible exact Keeps.refl _
    | with_reducible apply Keeps.ite
    | with_reducible apply fnErr_keeps
    | with_reducible apply keepsParts_of
    | intro _
    | with_reducible refine Keeps.of_eq (by assumption) ?_
    | with_reducible refine Keeps.of_eq_snd (by assumption) ?_
    | simp only [keeps_mk]
    | split

theorem State.applyFence_keeps {r s : State} (h : r.Keeps s) (x : ℕ) (y : ℕ) : r.Keeps (State.applyFence s x y) := by
  unfold State.applyFence
  repeat' first
    | with_reducible assumption
    | with_reducible exact Keeps.refl _
    | with_reducible apply Keeps.ite
    | with_reducible apply setStrip_keeps
    | with_reducible apply keepsParts_of
    | intro _
    | with_reducible refine Keeps.of_eq (by assumption) ?_
    | with_reducible refine Keeps.of_eq_snd (by assumption) ?_
    | simp only [keeps_mk]
    | split

theorem State.applyUnfence_keeps {r s : State} (h : r.Keeps s) (x : ℕ) (y : ℕ) : r.Keeps (State.applyUnfence s x y) := by
  unfold State.applyUnfence
  repeat' first
    | with_reducible assumption
    | with_reducible exact Keeps.refl _
    | with_reducible apply Keeps.ite
    | with_reducible apply setStrip_keeps
    | with_reducible apply keepsParts_of
    | intro _
    | with_reducible refine Keeps.of_eq (by assumption) ?_
    | with_reducible refine Keeps.of_eq_snd (by assumption) ?_
    | simp only [keeps_mk]
    | split

theorem State.syncStrip_keeps {r s : State} (h : r.Keeps s) (old : State) (k : ℕ) : r.Keeps (State.syncStrip old s k) := by
  unfold State.syncStrip
  repeat' first
    | with_reducible assumption
    | with_reducible exact Keeps.refl _
    | with_reducible apply Keeps.ite
    | with_reducible apply wr_keeps
    | with_reducible apply mark_keeps
    | with_reducible apply keepsParts_of
    | intro _
    | with_reducible refine Keeps.of_eq (by assumption) ?_
    | with_reducible refine Keeps.of_eq_snd (by assumption) ?_
    | simp only [keeps_mk]
    | split

theorem State.startClearing_keeps {r s : State} (h : r.Keeps s) (k : ℕ) : r.Keeps (State.startClearing s k) := by
  unfold State.startClearing
  repeat' first
    | with_reducible assumption
    | with_reducible exact Keeps.refl _
    | with_reducible apply Keeps.ite
    | with_reducible apply wr_keeps
    | with_reducible apply keepsParts_of
    | intro _
    | with_reducible refine Keeps.of_eq (by assumption) ?_
    | with_reducible refine Keeps.of_eq_snd (by assumption) ?_
    | simp only [keeps_mk]
    | split

theorem State.syncPending_keeps {r s : State} (h : r.Keeps s) (q : ℕ) : r.Keeps (State.syncPending s q) := by
  unfold State.syncPending
  repeat' first
    | with_reducible assumption
    | with_reducible exact Keeps.refl _
    | with_reducible apply Keeps.ite
    | with_reducible apply wr_keeps
    | with_reducible apply keepsParts_of
    | intro _
    | with_reducible refine Keeps.of_eq (by assumption) ?_
    | with_reducible refine Keeps.of_eq_snd (by assumption) ?_
    | simp only [keeps_mk]
    | split

theorem State.trimQuarter_keeps {r s : State} (h : r.Keeps s) (q : ℕ) : r.Keeps (State.trimQuarter s q) := by
  unfold State.trimQuarter
  repeat' first
    | with_reducible assumption
    | with_reducible exact Keeps.refl _
    | with_reducible apply Keeps.ite
    | with_reducible apply startClearing_keeps
    | with_reducible apply mark_keeps
    | with_reducible apply wr_keeps
    | with_reducible apply syncPending_keeps
    | with_reducible refine Keeps.foldl ?_ (fun u x => ?_)
    | with_reducible refine Keeps.foldl_fst ?_ (fun u x => ?_)
    | with_reducible apply keepsParts_of
    | intro _
    | with_reducible refine Keeps.of_eq (by assumption) ?_
    | with_reducible refine Keeps.of_eq_snd (by assumption) ?_
    | simp only [keeps_mk]
    | split

theorem State.applyFences_keeps {r s : State} (h : r.Keeps s) : r.Keeps (State.applyFences s) := by
  unfold State.applyFences
  repeat' first
    | with_reducible assumption
    | with_reducible exact Keeps.refl _
    | with_reducible apply Keeps.ite
    | with_reducible apply applyUnfence_keeps
    | with_reducible apply applyFence_keeps
    | with_reducible apply wr_keeps
    | with_reducible apply syncStrip_keeps
    | with_reducible apply mark_keeps
    | with_reducible apply trimQuarter_keeps
    | with_reducible refine Keeps.foldl ?_ (fun u x => ?_)
    | with_reducible refine Keeps.foldl_fst ?_ (fun u x => ?_)
    | with_reducible apply keepsParts_of
    | intro _
    | with_reducible refine Keeps.of_eq (by assumption) ?_
    | with_reducible refine Keeps.of_eq_snd (by assumption) ?_
    | simp only [keeps_mk]
    | split

theorem State.loseScratch_keeps {r s : State} (h : r.Keeps s) (q : ℕ) : r.Keeps (State.loseScratch s q) := by
  unfold State.loseScratch
  repeat' first
    | with_reducible assumption
    | with_reducible exact Keeps.refl _
    | with_reducible apply Keeps.ite
    | with_reducible apply addH_keeps
    | with_reducible apply keepsParts_of
    | intro _
    | with_reducible refine Keeps.of_eq (by assumption) ?_
    | with_reducible refine Keeps.of_eq_snd (by assumption) ?_
    | simp only [keeps_mk]
    | split

theorem State.zeroScratch_keeps {r s : State} (h : r.Keeps s) (q : ℕ) : r.Keeps (State.zeroScratch s q) := by
  unfold State.zeroScratch
  repeat' first
    | with_reducible assumption
    | with_reducible exact Keeps.refl _
    | with_reducible apply Keeps.ite
    | with_reducible apply setH_keeps
    | with_reducible apply wipe_keeps
    | with_reducible apply keepsParts_of
    | intro _
    | with_reducible refine Keeps.of_eq (by assumption) ?_
    | with_reducible refine Keeps.of_eq_snd (by assumption) ?_
    | simp only [keeps_mk]
    | split

theorem State.settleSize_keeps {r s : State} (h : r.Keeps s) (q : ℕ) (oldP : ℕ) (oldWays : ℕ) : r.Keeps (State.settleSize s q oldP oldWays) := by
  unfold State.settleSize
  repeat' first
    | with_reducible assumption
    | with_reducible exact Keeps.refl _
    | with_reducible apply Keeps.ite
    | with_reducible apply flushLines_keeps
    | with_reducible apply zeroScratch_keeps
    | with_reducible apply loseScratch_keeps
    | with_reducible apply setH_keeps
    | with_reducible apply mark_keeps
    | with_reducible apply keepsParts_of
    | intro _
    | with_reducible refine Keeps.of_eq (by assumption) ?_
    | with_reducible refine Keeps.of_eq_snd (by assumption) ?_
    | simp only [keeps_mk]
    | split

theorem State.refence_keeps {r s : State} (h : r.Keeps s) : r.Keeps (State.refence s) := by
  unfold State.refence
  repeat' first
    | with_reducible assumption
    | with_reducible exact Keeps.refl _
    | with_reducible apply Keeps.ite
    | with_reducible apply applyFences_keeps
    | with_reducible apply settleSize_keeps
    | with_reducible refine Keeps.foldl ?_ (fun u x => ?_)
    | with_reducible refine Keeps.foldl_fst ?_ (fun u x => ?_)
    | with_reducible apply keepsParts_of
    | intro _
    | with_reducible refine Keeps.of_eq (by assumption) ?_
    | with_reducible refine Keeps.of_eq_snd (by assumption) ?_
    | simp only [keeps_mk]
    | split

theorem State.sizeRefused_keeps {r s : State} (h : r.Keeps s) (q : ℕ) : r.Keeps (State.sizeRefused s q) := by
  unfold State.sizeRefused
  repeat' first
    | with_reducible assumption
    | with_reducible exact Keeps.refl _
    | with_reducible apply Keeps.ite
    | with_reducible apply fnErr_keeps
    | with_reducible apply mark_keeps
    | with_reducible apply keepsParts_of
    | intro _
    | with_reducible refine Keeps.of_eq (by assumption) ?_
    | with_reducible refine Keeps.of_eq_snd (by assumption) ?_
    | simp only [keeps_mk]
    | split

theorem State.applyAssign_keeps {r s : State} (h : r.Keeps s) (q : ℕ) : r.Keeps (State.applyAssign s q) := by
  unfold State.applyAssign
  repeat' first
    | with_reducible assumption
    | with_reducible exact Keeps.refl _
    | with_reducible apply Keeps.ite
    | with_reducible apply sizeRefused_keeps
    | with_reducible apply wr_keeps
    | with_reducible apply startClearing_keeps
    | with_reducible apply syncPending_keeps
    | with_reducible refine Keeps.foldl ?_ (fun u x => ?_)
    | with_reducible refine Keeps.foldl_fst ?_ (fun u x => ?_)
    | with_reducible apply keepsParts_of
    | intro _
    | with_reducible refine Keeps.of_eq (by assumption) ?_
    | with_reducible refine Keeps.of_eq_snd (by assumption) ?_
    | simp only [keeps_mk]
    | split

theorem State.suspect_keeps {r s : State} (h : r.Keeps s) (x : ℕ) (y : ℕ) : r.Keeps (State.suspect s x y).1 := by
  unfold State.suspect
  repeat' first
    | with_reducible assumption
    | with_reducible exact Keeps.refl _
    | with_reducible apply Keeps.ite
    | with_reducible apply Keeps.ite_fst
    | with_reducible apply scanTo_keeps
    | with_reducible apply wr_keeps
    | with_reducible apply keepsParts_of
    | intro _
    | with_reducible refine Keeps.of_eq (by assumption) ?_
    | with_reducible refine Keeps.of_eq_snd (by assumption) ?_
    | simp only [keeps_mk]
    | split

theorem State.fenceReq_keeps {r s : State} (h : r.Keeps s) (x : ℕ) (y : ℕ) (action : ℕ) (fromMc : Bool) : r.Keeps (State.fenceReq s x y action fromMc)
    := by
  unfold State.fenceReq
  repeat' first
    | with_reducible assumption
    | with_reducible exact Keeps.refl _
    | with_reducible apply Keeps.ite
    | with_reducible apply Keeps.ite_fst
    | with_reducible apply mark_keeps
    | with_reducible apply wr_keeps
    | with_reducible apply suspect_keeps
    | with_reducible apply keepsParts_of
    | intro _
    | with_reducible refine Keeps.of_eq (by assumption) ?_
    | with_reducible refine Keeps.of_eq_snd (by assumption) ?_
    | simp only [keeps_mk]
    | split

theorem State.allocate_keeps {r s : State} (h : r.Keeps s) (q : ℕ) (y2 : ℕ) : r.Keeps (State.allocate s q y2) := by
  induction y2 generalizing s q with
  | zero =>
    unfold State.allocate
    repeat' first
      | with_reducible assumption
      | with_reducible exact Keeps.refl _
      | with_reducible apply Keeps.ite
      | with_reducible apply scanTo_keeps
      | with_reducible apply syncBlanks_keeps
      | with_reducible apply startAlloc_keeps
      | with_reducible apply finish_keeps
      | with_reducible apply keepsParts_of
      | intro _
      | with_reducible refine Keeps.of_eq (by assumption) ?_
      | with_reducible refine Keeps.of_eq_snd (by assumption) ?_
      | simp only [keeps_mk]
      | split
  | succ n0 ih =>
    unfold State.allocate
    repeat' first
      | with_reducible assumption
      | with_reducible exact Keeps.refl _
      | with_reducible apply Keeps.ite
      | with_reducible apply scanTo_keeps
      | with_reducible apply syncBlanks_keeps
      | with_reducible apply startAlloc_keeps
      | with_reducible apply finish_keeps
      | with_reducible apply ih
      | with_reducible apply keepsParts_of
      | intro _
      | with_reducible refine Keeps.of_eq (by assumption) ?_
      | with_reducible refine Keeps.of_eq_snd (by assumption) ?_
      | simp only [keeps_mk]
      | split

theorem State.retryAlloc_keeps {r s : State} (h : r.Keeps s) (q : ℕ) : r.Keeps (State.retryAlloc s q) := by
  unfold State.retryAlloc
  repeat' first
    | with_reducible assumption
    | with_reducible exact Keeps.refl _
    | with_reducible apply Keeps.ite
    | with_reducible apply startAlloc_keeps
    | with_reducible apply ev_keeps
    | with_reducible apply keepsParts_of
    | intro _
    | with_reducible refine Keeps.of_eq (by assumption) ?_
    | with_reducible refine Keeps.of_eq_snd (by assumption) ?_
    | simp only [keeps_mk]
    | split

theorem execBlankAllocation_keeps (q : ℕ) (t : ℕ) {s : State} : s.KeepsNext (execBlankAllocation q t s) := by
  unfold execBlankAllocation
  repeat' first
    | with_reducible assumption
    | with_reducible exact Keeps.refl _
    | with_reducible apply KeepsNext.next
    | with_reducible apply KeepsNext.ite
    | with_reducible apply Keeps.ite
    | with_reducible apply goTo_keeps
    | with_reducible apply allocate_keeps
    | with_reducible apply keepsParts_of
    | intro _
    | with_reducible refine Keeps.of_eq (by assumption) ?_
    | with_reducible refine Keeps.of_eq_snd (by assumption) ?_
    | simp only [keeps_mk]
    | split

theorem execAllocatorRetry_keeps (q : ℕ) (t : ℕ) {s : State} : s.KeepsNext (execAllocatorRetry q t s) := by
  unfold execAllocatorRetry
  repeat' first
    | with_reducible assumption
    | with_reducible exact Keeps.refl _
    | with_reducible apply KeepsNext.next
    | with_reducible apply KeepsNext.ite
    | with_reducible apply Keeps.ite
    | with_reducible apply retryAlloc_keeps
    | with_reducible apply goTo_keeps
    | with_reducible apply allocate_keeps
    | with_reducible apply keepsParts_of
    | intro _
    | with_reducible refine Keeps.of_eq (by assumption) ?_
    | with_reducible refine Keeps.of_eq_snd (by assumption) ?_
    | simp only [keeps_mk]
    | split

theorem execStripCleared_keeps (k : ℕ) {s : State} : s.KeepsNext (execStripCleared k s) := by
  unfold execStripCleared
  repeat' first
    | with_reducible assumption
    | with_reducible exact Keeps.refl _
    | with_reducible apply KeepsNext.next
    | with_reducible apply KeepsNext.ite
    | with_reducible apply Keeps.ite
    | with_reducible apply wr_keeps
    | with_reducible apply flushLines_keeps
    | with_reducible apply keepsParts_of
    | intro _
    | with_reducible refine Keeps.of_eq (by assumption) ?_
    | with_reducible refine Keeps.of_eq_snd (by assumption) ?_
    | simp only [keeps_mk]
    | split

theorem execRehomeScanComplete_keeps (q : ℕ) {s : State} : s.KeepsNext (execRehomeScanComplete q s) := by
  unfold execRehomeScanComplete
  repeat' first
    | with_reducible assumption
    | with_reducible exact Keeps.refl _
    | with_reducible apply KeepsNext.next
    | with_reducible apply KeepsNext.ite
    | with_reducible apply Keeps.ite
    | with_reducible apply wr_keeps
    | with_reducible apply flushLines_keeps
    | with_reducible apply keepsParts_of
    | intro _
    | with_reducible refine Keeps.of_eq (by assumption) ?_
    | with_reducible refine Keeps.of_eq_snd (by assumption) ?_
    | simp only [keeps_mk]
    | split

theorem State.readCodes_keeps {r s : State} (h : r.Keeps s) (c : Client) (rowVA : ℕ) (w : ℕ) (i0 : ℕ) (n : ℕ) : r.Keeps (State.readCodes s c rowVA w
    i0 n).1 := by
  unfold State.readCodes
  repeat' first
    | with_reducible assumption
    | with_reducible exact Keeps.refl _
    | with_reducible apply Keeps.ite
    | with_reducible apply Keeps.ite_fst
    | with_reducible apply vread_keeps
    | with_reducible apply keepsParts_of
    | intro _
    | with_reducible refine Keeps.of_eq (by assumption) ?_
    | with_reducible refine Keeps.of_eq_snd (by assumption) ?_
    | simp only [keeps_mk]
    | split

theorem State.readElems_keeps {r s : State} (h : r.Keeps s) (c : Client) (fmt : ℕ) (rowVA : ℕ) (i0 : ℕ) (n : ℕ) (scale : ℕ → ℕ) : r.Keeps
    (State.readElems s c fmt rowVA i0 n scale).1 := by
  unfold State.readElems
  repeat' first
    | with_reducible assumption
    | with_reducible exact Keeps.refl _
    | with_reducible apply Keeps.ite
    | with_reducible apply Keeps.ite_fst
    | with_reducible apply readCodes_keeps
    | with_reducible refine Keeps.foldl ?_ (fun u x => ?_)
    | with_reducible refine Keeps.foldl_fst ?_ (fun u x => ?_)
    | with_reducible apply keepsParts_of
    | intro _
    | with_reducible refine Keeps.of_eq (by assumption) ?_
    | with_reducible refine Keeps.of_eq_snd (by assumption) ?_
    | simp only [keeps_mk]
    | split

theorem State.readA_keeps {r s : State} (h : r.Keeps s) (c : Client) (d : ℕ) (t : ℕ) (k0 : ℕ) (n : ℕ) : r.Keeps (State.readA s c d t k0 n).1 := by
  unfold State.readA
  repeat' first
    | with_reducible assumption
    | with_reducible exact Keeps.refl _
    | with_reducible apply Keeps.ite
    | with_reducible apply Keeps.ite_fst
    | with_reducible apply readElems_keeps
    | with_reducible apply vread_keeps
    | with_reducible apply keepsParts_of
    | intro _
    | with_reducible refine Keeps.of_eq (by assumption) ?_
    | with_reducible refine Keeps.of_eq_snd (by assumption) ?_
    | simp only [keeps_mk]
    | split

theorem State.collect_keeps {r s : State} (h : r.Keeps s) (f : State → ℕ → State × Except ℕ Elems) (y2 : List ℕ) (hf : ∀ (u : State) w1, u.Keeps (f u
    w1).1) : r.Keeps (State.collect s f y2).1 := by
  induction y2 generalizing s with
  | nil =>
    unfold State.collect
    repeat' first
      | with_reducible assumption
      | with_reducible exact Keeps.refl _
      | with_reducible apply Keeps.ite
      | with_reducible apply Keeps.ite_fst
      | with_reducible refine Keeps.trans ?_ (hf _ _)
      | with_reducible apply keepsParts_of
      | intro _
      | with_reducible refine Keeps.of_eq (by assumption) ?_
      | with_reducible refine Keeps.of_eq_snd (by assumption) ?_
      | simp only [keeps_mk]
      | split
  | cons z l ih =>
    unfold State.collect
    repeat' first
      | with_reducible assumption
      | with_reducible exact Keeps.refl _
      | with_reducible apply Keeps.ite
      | with_reducible apply Keeps.ite_fst
      | with_reducible refine Keeps.trans ?_ (hf _ _)
      | with_reducible apply ih
      | with_reducible apply keepsParts_of
      | intro _
      | with_reducible refine Keeps.of_eq (by assumption) ?_
      | with_reducible refine Keeps.of_eq_snd (by assumption) ?_
      | simp only [keeps_mk]
      | split

theorem State.readBcol_keeps {r s : State} (h : r.Keeps s) (c : Client) (d : ℕ) (n : ℕ) (k0 : ℕ) (m : ℕ) (rep : Option ℕ) : r.Keeps (State.readBcol s
    c d n k0 m rep).1 := by
  unfold State.readBcol
  repeat' first
    | with_reducible assumption
    | with_reducible exact Keeps.refl _
    | with_reducible apply Keeps.ite
    | with_reducible apply Keeps.ite_fst
    | with_reducible apply vread_keeps
    | with_reducible apply readElems_keeps
    | with_reducible apply keepsParts_of
    | intro _
    | with_reducible refine Keeps.of_eq (by assumption) ?_
    | with_reducible refine Keeps.of_eq_snd (by assumption) ?_
    | simp only [keeps_mk]
    | split

theorem State.readBrow_keeps {r s : State} (h : r.Keeps s) (c : Client) (d : ℕ) (k : ℕ) (n0 : ℕ) (m : ℕ) : r.Keeps (State.readBrow s c d k n0 m).1 :=
    by
  unfold State.readBrow
  repeat' first
    | with_reducible assumption
    | with_reducible exact Keeps.refl _
    | with_reducible apply Keeps.ite
    | with_reducible apply Keeps.ite_fst
    | with_reducible apply readElems_keeps
    | with_reducible apply collect_keeps
    | with_reducible apply vread_keeps
    | with_reducible apply keepsParts_of
    | intro _
    | with_reducible refine Keeps.of_eq (by assumption) ?_
    | with_reducible refine Keeps.of_eq_snd (by assumption) ?_
    | simp only [keeps_mk]
    | split

theorem State.readB_keeps {r s : State} (h : r.Keeps s) (c : Client) (d : ℕ) (nb0 : ℕ) (k0 : ℕ) (rep : Option ℕ) : r.Keeps (State.readB s c d nb0 k0
    rep).1 := by
  unfold State.readB
  repeat' first
    | with_reducible assumption
    | with_reducible exact Keeps.refl _
    | with_reducible apply Keeps.ite
    | with_reducible apply Keeps.ite_fst
    | with_reducible apply collect_keeps
    | with_reducible apply readBcol_keeps
    | with_reducible apply readBrow_keeps
    | with_reducible refine Keeps.foldl ?_ (fun u x => ?_)
    | with_reducible refine Keeps.foldl_fst ?_ (fun u x => ?_)
    | with_reducible apply keepsParts_of
    | intro _
    | with_reducible refine Keeps.of_eq (by assumption) ?_
    | with_reducible refine Keeps.of_eq_snd (by assumption) ?_
    | simp only [keeps_mk]
    | split

theorem State.mergeFlags_keeps {r s : State} (h : r.Keeps s) (q : ℕ) (fl : ℕ) : r.Keeps (State.mergeFlags s q fl) := by
  unfold State.mergeFlags
  repeat' first
    | with_reducible assumption
    | with_reducible exact Keeps.refl _
    | with_reducible apply Keeps.ite
    | with_reducible apply mark_keeps
    | with_reducible refine Keeps.foldl ?_ (fun u x => ?_)
    | with_reducible refine Keeps.foldl_fst ?_ (fun u x => ?_)
    | with_reducible apply keepsParts_of
    | intro _
    | with_reducible refine Keeps.of_eq (by assumption) ?_
    | with_reducible refine Keeps.of_eq_snd (by assumption) ?_
    | simp only [keeps_mk]
    | split

theorem State.histCount_keeps {r s : State} (h : r.Keeps s) (q : ℕ) (slot : ℕ) (e : ℕ × ℕ) : r.Keeps (State.histCount s q slot e) := by
  unfold State.histCount
  repeat' first
    | with_reducible assumption
    | with_reducible exact Keeps.refl _
    | with_reducible apply Keeps.ite
    | with_reducible apply wr_keeps
    | with_reducible apply mark_keeps
    | with_reducible apply keepsParts_of
    | intro _
    | with_reducible refine Keeps.of_eq (by assumption) ?_
    | with_reducible refine Keeps.of_eq_snd (by assumption) ?_
    | simp only [keeps_mk]
    | split

theorem State.histCommit_keeps {r s : State} (h : r.Keeps s) (q : ℕ) (slot : ℕ) (hist : List (ℕ × ℕ)) : r.Keeps (State.histCommit s q slot hist) := by
  unfold State.histCommit
  repeat' first
    | with_reducible assumption
    | with_reducible exact Keeps.refl _
    | with_reducible apply Keeps.ite
    | with_reducible apply histCount_keeps
    | with_reducible refine Keeps.foldl ?_ (fun u x => ?_)
    | with_reducible refine Keeps.foldl_fst ?_ (fun u x => ?_)
    | with_reducible apply keepsParts_of
    | intro _
    | with_reducible refine Keeps.of_eq (by assumption) ?_
    | with_reducible refine Keeps.of_eq_snd (by assumption) ?_
    | simp only [keeps_mk]
    | split

theorem State.histZero_keeps {r s : State} (h : r.Keeps s) (q : ℕ) (slot : ℕ) : r.Keeps (State.histZero s q slot) := by
  unfold State.histZero
  repeat' first
    | with_reducible assumption
    | with_reducible exact Keeps.refl _
    | with_reducible apply Keeps.ite
    | with_reducible apply wr_keeps
    | with_reducible refine Keeps.foldl ?_ (fun u x => ?_)
    | with_reducible refine Keeps.foldl_fst ?_ (fun u x => ?_)
    | with_reducible apply keepsParts_of
    | intro _
    | with_reducible refine Keeps.of_eq (by assumption) ?_
    | with_reducible refine Keeps.of_eq_snd (by assumption) ?_
    | simp only [keeps_mk]
    | split

theorem State.histClear_keeps {r s : State} (h : r.Keeps s) (q : ℕ) (slot : ℕ) : r.Keeps (State.histClear s q slot) := by
  unfold State.histClear
  repeat' first
    | with_reducible assumption
    | with_reducible exact Keeps.refl _
    | with_reducible apply Keeps.ite
    | with_reducible apply histZero_keeps
    | with_reducible apply histCount_keeps
    | with_reducible refine Keeps.foldl ?_ (fun u x => ?_)
    | with_reducible refine Keeps.foldl_fst ?_ (fun u x => ?_)
    | with_reducible apply keepsParts_of
    | intro _
    | with_reducible refine Keeps.of_eq (by assumption) ?_
    | with_reducible refine Keeps.of_eq_snd (by assumption) ?_
    | simp only [keeps_mk]
    | split

theorem State.laterReqs_keeps {r s : State} (h : r.Keeps s) (id : ℕ) (n : ℕ) (p : Need → Bool) : r.Keeps (State.laterReqs s id n p) := by
  unfold State.laterReqs
  repeat' first
    | with_reducible assumption
    | with_reducible exact Keeps.refl _
    | with_reducible apply Keeps.ite
    | with_reducible apply keepsParts_of
    | intro _
    | with_reducible refine Keeps.of_eq (by assumption) ?_
    | with_reducible refine Keeps.of_eq_snd (by assumption) ?_
    | simp only [keeps_mk]
    | split

theorem State.freezeBlank_keeps {r s : State} (h : r.Keeps s) (id : ℕ) (n : ℕ) : r.Keeps (State.freezeBlank s id n) := by
  unfold State.freezeBlank
  repeat' first
    | with_reducible assumption
    | with_reducible exact Keeps.refl _
    | with_reducible apply Keeps.ite
    | with_reducible apply laterReqs_keeps
    | with_reducible apply updOp_keeps
    | with_reducible apply ev_keeps
    | with_reducible apply keepsParts_of
    | intro _
    | with_reducible refine Keeps.of_eq (by assumption) ?_
    | with_reducible refine Keeps.of_eq_snd (by assumption) ?_
    | simp only [keeps_mk]
    | split

theorem State.delayPreload_keeps {r s : State} (h : r.Keeps s) (id : ℕ) (n : ℕ) : r.Keeps (State.delayPreload s id n) := by
  unfold State.delayPreload
  repeat' first
    | with_reducible assumption
    | with_reducible exact Keeps.refl _
    | with_reducible apply Keeps.ite
    | with_reducible apply laterReqs_keeps
    | with_reducible apply updOp_keeps
    | with_reducible apply keepsParts_of
    | intro _
    | with_reducible refine Keeps.of_eq (by assumption) ?_
    | with_reducible refine Keeps.of_eq_snd (by assumption) ?_
    | simp only [keeps_mk]
    | split

theorem State.arrive_keeps {r s : State} (h : r.Keeps s) (id : ℕ) (e : Need) : r.Keeps (State.arrive s id e) := by
  unfold State.arrive
  repeat' first
    | with_reducible assumption
    | with_reducible exact Keeps.refl _
    | with_reducible apply Keeps.ite
    | with_reducible apply delayPreload_keeps
    | with_reducible apply freezeBlank_keeps
    | with_reducible apply keepsParts_of
    | intro _
    | with_reducible refine Keeps.of_eq (by assumption) ?_
    | with_reducible refine Keeps.of_eq_snd (by assumption) ?_
    | simp only [keeps_mk]
    | split

theorem State.countFrozen_keeps {r s : State} (h : r.Keeps s) (o : Op) : r.Keeps (State.countFrozen s o) := by
  unfold State.countFrozen
  repeat' first
    | with_reducible assumption
    | with_reducible exact Keeps.refl _
    | with_reducible apply Keeps.ite
    | with_reducible apply ev_keeps
    | with_reducible refine Keeps.foldl ?_ (fun u x => ?_)
    | with_reducible refine Keeps.foldl_fst ?_ (fun u x => ?_)
    | with_reducible apply keepsParts_of
    | intro _
    | with_reducible refine Keeps.of_eq (by assumption) ?_
    | with_reducible refine Keeps.of_eq_snd (by assumption) ?_
    | simp only [keeps_mk]
    | split

theorem State.operandVals_keeps {r s : State} (h : r.Keeps s) (c : Client) (fmt : ℕ) (va : ℕ) (i : ℕ) (n : ℕ) : r.Keeps (State.operandVals s c fmt va
    i n).1 := by
  unfold State.operandVals
  repeat' first
    | with_reducible assumption
    | with_reducible exact Keeps.refl _
    | with_reducible apply Keeps.ite
    | with_reducible apply Keeps.ite_fst
    | with_reducible apply readElems_keeps
    | with_reducible apply keepsParts_of
    | intro _
    | with_reducible refine Keeps.of_eq (by assumption) ?_
    | with_reducible refine Keeps.of_eq_snd (by assumption) ?_
    | simp only [keeps_mk]
    | split

theorem State.preOperands_keeps {r s : State} (h : r.Keeps s) (o : Op) (pos : UnitPos) : r.Keeps (State.preOperands s o pos).1 := by
  unfold State.preOperands
  repeat' first
    | with_reducible assumption
    | with_reducible exact Keeps.refl _
    | with_reducible apply Keeps.ite
    | with_reducible apply Keeps.ite_fst
    | with_reducible apply collect_keeps
    | with_reducible apply operandVals_keeps
    | with_reducible apply keepsParts_of
    | intro _
    | with_reducible refine Keeps.of_eq (by assumption) ?_
    | with_reducible refine Keeps.of_eq_snd (by assumption) ?_
    | simp only [keeps_mk]
    | split

theorem State.streamedOperand_keeps {r s : State} (h : r.Keeps s) (o : Op) (pos : UnitPos) (slot : ℕ) : r.Keeps (State.streamedOperand s o pos slot).1
    := by
  unfold State.streamedOperand
  repeat' first
    | with_reducible assumption
    | with_reducible exact Keeps.refl _
    | with_reducible apply Keeps.ite
    | with_reducible apply Keeps.ite_fst
    | with_reducible apply collect_keeps
    | with_reducible apply operandVals_keeps
    | with_reducible apply keepsParts_of
    | intro _
    | with_reducible refine Keeps.of_eq (by assumption) ?_
    | with_reducible refine Keeps.of_eq_snd (by assumption) ?_
    | simp only [keeps_mk]
    | split

theorem State.collectAll_keeps {r s : State} (h : r.Keeps s) (f : State → ℕ → State × Except ℕ (List Elems)) (y2 : List ℕ) (hf : ∀ (u : State) w1,
    u.Keeps (f u w1).1) : r.Keeps (State.collectAll s f y2).1 := by
  induction y2 generalizing s with
  | nil =>
    unfold State.collectAll
    repeat' first
      | with_reducible assumption
      | with_reducible exact Keeps.refl _
      | with_reducible apply Keeps.ite
      | with_reducible apply Keeps.ite_fst
      | with_reducible refine Keeps.trans ?_ (hf _ _)
      | with_reducible apply keepsParts_of
      | intro _
      | with_reducible refine Keeps.of_eq (by assumption) ?_
      | with_reducible refine Keeps.of_eq_snd (by assumption) ?_
      | simp only [keeps_mk]
      | split
  | cons z l ih =>
    unfold State.collectAll
    repeat' first
      | with_reducible assumption
      | with_reducible exact Keeps.refl _
      | with_reducible apply Keeps.ite
      | with_reducible apply Keeps.ite_fst
      | with_reducible refine Keeps.trans ?_ (hf _ _)
      | with_reducible apply ih
      | with_reducible apply keepsParts_of
      | intro _
      | with_reducible refine Keeps.of_eq (by assumption) ?_
      | with_reducible refine Keeps.of_eq_snd (by assumption) ?_
      | simp only [keeps_mk]
      | split

theorem State.readUnit_keeps {r s : State} (h : r.Keeps s) (o : Op) (pos : UnitPos) : r.Keeps (State.readUnit s o pos).1 := by
  unfold State.readUnit
  repeat' first
    | with_reducible assumption
    | with_reducible exact Keeps.refl _
    | with_reducible apply Keeps.ite
    | with_reducible apply Keeps.ite_fst
    | with_reducible apply collect_keeps
    | with_reducible apply readA_keeps
    | with_reducible apply readElems_keeps
    | with_reducible apply collectAll_keeps
    | with_reducible apply streamedOperand_keeps
    | with_reducible refine Keeps.foldl ?_ (fun u x => ?_)
    | with_reducible refine Keeps.foldl_fst ?_ (fun u x => ?_)
    | with_reducible apply keepsParts_of
    | intro _
    | with_reducible refine Keeps.of_eq (by assumption) ?_
    | with_reducible refine Keeps.of_eq_snd (by assumption) ?_
    | simp only [keeps_mk]
    | split

theorem State.overrun_keeps {r s : State} (h : r.Keeps s) (id : ℕ) (inc : ℕ) : r.Keeps (State.overrun s id inc) := by
  unfold State.overrun
  repeat' first
    | with_reducible assumption
    | with_reducible exact Keeps.refl _
    | with_reducible apply Keeps.ite
    | with_reducible apply ev_keeps
    | with_reducible apply countFrozen_keeps
    | with_reducible apply finish_keeps
    | with_reducible apply parkOp_keeps
    | with_reducible apply setOp_keeps
    | with_reducible apply keepsParts_of
    | intro _
    | with_reducible refine Keeps.of_eq (by assumption) ?_
    | with_reducible refine Keeps.of_eq_snd (by assumption) ?_
    | simp only [keeps_mk]
    | split

theorem State.finishUnit_keeps {r s : State} (h : r.Keeps s) (id : ℕ) (u : WorkUnit) : r.Keeps (State.finishUnit s id u).1 := by
  unfold State.finishUnit
  repeat' first
    | with_reducible assumption
    | with_reducible exact Keeps.refl _
    | with_reducible apply Keeps.ite
    | with_reducible apply Keeps.ite_fst
    | with_reducible apply readUnit_keeps
    | with_reducible apply vwrites_keeps
    | with_reducible apply overrun_keeps
    | with_reducible apply mark_keeps
    | with_reducible apply updOp_keeps
    | with_reducible apply keepsParts_of
    | intro _
    | with_reducible refine Keeps.of_eq (by assumption) ?_
    | with_reducible refine Keeps.of_eq_snd (by assumption) ?_
    | simp only [keeps_mk]
    | split

theorem State.finishUnits_keeps {r s : State} (h : r.Keeps s) (id : ℕ) (y2 : List WorkUnit) : r.Keeps (State.finishUnits s id y2).1 := by
  induction y2 generalizing s id with
  | nil =>
    unfold State.finishUnits
    repeat' first
      | with_reducible assumption
      | with_reducible exact Keeps.refl _
      | with_reducible apply Keeps.ite
      | with_reducible apply Keeps.ite_fst
      | with_reducible apply finishUnit_keeps
      | with_reducible apply keepsParts_of
      | intro _
      | with_reducible refine Keeps.of_eq (by assumption) ?_
      | with_reducible refine Keeps.of_eq_snd (by assumption) ?_
      | simp only [keeps_mk]
      | split
  | cons z l ih =>
    unfold State.finishUnits
    repeat' first
      | with_reducible assumption
      | with_reducible exact Keeps.refl _
      | with_reducible apply Keeps.ite
      | with_reducible apply Keeps.ite_fst
      | with_reducible apply finishUnit_keeps
      | with_reducible apply ih
      | with_reducible apply keepsParts_of
      | intro _
      | with_reducible refine Keeps.of_eq (by assumption) ?_
      | with_reducible refine Keeps.of_eq_snd (by assumption) ?_
      | simp only [keeps_mk]
      | split

theorem State.repeatHit_keeps {r s : State} (h : r.Keeps s) (o : Op) : r.Keeps (State.repeatHit s o).1 := by
  unfold State.repeatHit
  repeat' first
    | with_reducible assumption
    | with_reducible exact Keeps.refl _
    | with_reducible apply Keeps.ite
    | with_reducible apply Keeps.ite_fst
    | with_reducible apply keepsParts_of
    | intro _
    | with_reducible refine Keeps.of_eq (by assumption) ?_
    | with_reducible refine Keeps.of_eq_snd (by assumption) ?_
    | simp only [keeps_mk]
    | split

theorem State.repeatClear_keeps {r s : State} (h : r.Keeps s) (o : Op) : r.Keeps (State.repeatClear s o) := by
  unfold State.repeatClear
  repeat' first
    | with_reducible assumption
    | with_reducible exact Keeps.refl _
    | with_reducible apply Keeps.ite
    | with_reducible apply keepsParts_of
    | intro _
    | with_reducible refine Keeps.of_eq (by assumption) ?_
    | with_reducible refine Keeps.of_eq_snd (by assumption) ?_
    | simp only [keeps_mk]
    | split

theorem State.mismatch_keeps {r s : State} (h : r.Keeps s) (id : ℕ) (cause : ℕ) (kc : ℕ) (nFail : ℕ) (named : Option (ℕ × ℕ)) : r.Keeps
    (State.mismatch s id cause kc nFail named) := by
  unfold State.mismatch
  repeat' first
    | with_reducible assumption
    | with_reducible exact Keeps.refl _
    | with_reducible apply Keeps.ite
    | with_reducible apply Keeps.ite_fst
    | with_reducible apply firstError_keeps
    | with_reducible apply wr_keeps
    | with_reducible apply ev_keeps
    | with_reducible apply bump_keeps
    | with_reducible apply repeatHit_keeps
    | with_reducible apply syncBlanks_keeps
    | with_reducible apply finish_keeps
    | with_reducible apply mcLog_keeps
    | with_reducible apply mark_keeps
    | with_reducible apply parkOp_keeps
    | with_reducible apply setOp_keeps
    | with_reducible apply keepsParts_of
    | intro _
    | with_reducible refine Keeps.of_eq (by assumption) ?_
    | with_reducible refine Keeps.of_eq_snd (by assumption) ?_
    | simp only [keeps_mk]
    | split

theorem State.beginUnit_keeps {r s : State} (h : r.Keeps s) (o : Op) (pos : UnitPos) (swap : Bool) (faults : List TileFault) : r.Keeps
    (State.beginUnit s o pos swap faults) := by
  unfold State.beginUnit
  repeat' first
    | with_reducible assumption
    | with_reducible exact Keeps.refl _
    | with_reducible apply Keeps.ite
    | with_reducible apply ev_keeps
    | with_reducible apply laterReqs_keeps
    | with_reducible apply setOp_keeps
    | with_reducible apply keepsParts_of
    | intro _
    | with_reducible refine Keeps.of_eq (by assumption) ?_
    | with_reducible refine Keeps.of_eq_snd (by assumption) ?_
    | simp only [keeps_mk]
    | split

theorem execOperationStart_keeps (id : ℕ) (t : ℕ) {s : State} : s.KeepsNext (execOperationStart id t s) := by
  unfold execOperationStart
  repeat' first
    | with_reducible assumption
    | with_reducible exact Keeps.refl _
    | with_reducible apply KeepsNext.next
    | with_reducible apply KeepsNext.ite
    | with_reducible apply Keeps.ite
    | with_reducible apply goTo_keeps
    | with_reducible apply setOp_keeps
    | with_reducible apply keepsParts_of
    | intro _
    | with_reducible refine Keeps.of_eq (by assumption) ?_
    | with_reducible refine Keeps.of_eq_snd (by assumption) ?_
    | simp only [keeps_mk]
    | split

theorem execPreloadComplete_keeps (id : ℕ) (t : ℕ) {s : State} : s.KeepsNext (execPreloadComplete id t s) := by
  unfold execPreloadComplete
  repeat' first
    | with_reducible assumption
    | with_reducible exact Keeps.refl _
    | with_reducible apply KeepsNext.next
    | with_reducible apply KeepsNext.ite
    | with_reducible apply Keeps.ite
    | with_reducible apply Keeps.ite_fst
    | with_reducible apply goTo_keeps
    | with_reducible apply readB_keeps
    | with_reducible apply preOperands_keeps
    | with_reducible apply updOp_keeps
    | with_reducible apply keepsParts_of
    | intro _
    | with_reducible refine Keeps.of_eq (by assumption) ?_
    | with_reducible refine Keeps.of_eq_snd (by assumption) ?_
    | simp only [keeps_mk]
    | split

theorem execWorkUnitStart_keeps (id : ℕ) (t : ℕ) (faults : List TileFault) {s : State} : s.KeepsNext (execWorkUnitStart id t faults s) := by
  unfold execWorkUnitStart
  repeat' first
    | with_reducible assumption
    | with_reducible exact Keeps.refl _
    | with_reducible apply KeepsNext.next
    | with_reducible apply KeepsNext.ite
    | with_reducible apply Keeps.ite
    | with_reducible apply Keeps.ite_fst
    | with_reducible apply goTo_keeps
    | with_reducible apply syncBlanks_keeps
    | with_reducible apply finish_keeps
    | with_reducible apply parkOp_keeps
    | with_reducible apply finishUnits_keeps
    | with_reducible apply beginUnit_keeps
    | with_reducible apply keepsParts_of
    | intro _
    | with_reducible refine Keeps.of_eq (by assumption) ?_
    | with_reducible refine Keeps.of_eq_snd (by assumption) ?_
    | simp only [keeps_mk]
    | split

theorem State.passUnit_keeps {r s : State} (h : r.Keeps s) (o : Op) (u : WorkUnit) : r.Keeps (State.passUnit s o u) := by
  unfold State.passUnit
  repeat' first
    | with_reducible assumption
    | with_reducible exact Keeps.refl _
    | with_reducible apply Keeps.ite
    | with_reducible apply repeatClear_keeps
    | with_reducible apply histCommit_keeps
    | with_reducible apply mergeFlags_keeps
    | with_reducible apply keepsParts_of
    | intro _
    | with_reducible refine Keeps.of_eq (by assumption) ?_
    | with_reducible refine Keeps.of_eq_snd (by assumption) ?_
    | simp only [keeps_mk]
    | split

theorem execWitnessVerdict_keeps (id : ℕ) (t : ℕ) (frozen : ℕ) {s : State} : s.KeepsNext (execWitnessVerdict id t frozen s) := by
  unfold execWitnessVerdict
  repeat' first
    | with_reducible assumption
    | with_reducible exact Keeps.refl _
    | with_reducible apply KeepsNext.next
    | with_reducible apply KeepsNext.ite
    | with_reducible apply Keeps.ite
    | with_reducible apply Keeps.ite_fst
    | with_reducible apply goTo_keeps
    | with_reducible apply finishUnit_keeps
    | with_reducible apply freezeBlank_keeps
    | with_reducible apply syncBlanks_keeps
    | with_reducible apply finish_keeps
    | with_reducible apply bump_keeps
    | with_reducible apply ev_keeps
    | with_reducible apply mark_keeps
    | with_reducible apply mismatch_keeps
    | with_reducible apply updOp_keeps
    | with_reducible apply passUnit_keeps
    | with_reducible apply keepsParts_of
    | intro _
    | with_reducible refine Keeps.of_eq (by assumption) ?_
    | with_reducible refine Keeps.of_eq_snd (by assumption) ?_
    | simp only [keeps_mk]
    | split

theorem execTileSelfTest_keeps (id : ℕ) (t : ℕ) (failing : List (ℕ × ℕ)) {s : State} : s.KeepsNext (execTileSelfTest id t failing s) := by
  unfold execTileSelfTest
  repeat' first
    | with_reducible assumption
    | with_reducible exact Keeps.refl _
    | with_reducible apply KeepsNext.next
    | with_reducible apply KeepsNext.ite
    | with_reducible apply Keeps.ite
    | with_reducible apply Keeps.ite_fst
    | with_reducible apply goTo_keeps
    | with_reducible apply suspect_keeps
    | with_reducible apply fenceReq_keeps
    | with_reducible apply mismatch_keeps
    | with_reducible refine Keeps.foldl ?_ (fun u x => ?_)
    | with_reducible refine Keeps.foldl_fst ?_ (fun u x => ?_)
    | with_reducible apply keepsParts_of
    | intro _
    | with_reducible refine Keeps.of_eq (by assumption) ?_
    | with_reducible refine Keeps.of_eq_snd (by assumption) ?_
    | simp only [keeps_mk]
    | split

theorem execOperationComplete_keeps (id : ℕ) (t : ℕ) {s : State} : s.KeepsNext (execOperationComplete id t s) := by
  unfold execOperationComplete
  repeat' first
    | with_reducible assumption
    | with_reducible exact Keeps.refl _
    | with_reducible apply KeepsNext.next
    | with_reducible apply KeepsNext.ite
    | with_reducible apply Keeps.ite
    | with_reducible apply goTo_keeps
    | with_reducible apply syncBlanks_keeps
    | with_reducible apply finish_keeps
    | with_reducible apply keepsParts_of
    | intro _
    | with_reducible refine Keeps.of_eq (by assumption) ?_
    | with_reducible refine Keeps.of_eq_snd (by assumption) ?_
    | simp only [keeps_mk]
    | split

theorem State.copyBytes_keeps {r s : State} (h : r.Keeps s) (c : Client) (src : ℕ) (dst : ℕ) (n : ℕ) : r.Keeps (State.copyBytes s c src dst n).1 := by
  unfold State.copyBytes
  repeat' first
    | with_reducible assumption
    | with_reducible exact Keeps.refl _
    | with_reducible apply Keeps.ite
    | with_reducible apply Keeps.ite_fst
    | with_reducible apply vreadL_keeps
    | with_reducible apply vwriteL_keeps
    | with_reducible apply keepsParts_of
    | intro _
    | with_reducible refine Keeps.of_eq (by assumption) ?_
    | with_reducible refine Keeps.of_eq_snd (by assumption) ?_
    | simp only [keeps_mk]
    | split

theorem State.syncOut_keeps {r s : State} (h : r.Keeps s) (e : ℕ) : r.Keeps (State.syncOut s e) := by
  unfold State.syncOut
  repeat' first
    | with_reducible assumption
    | with_reducible exact Keeps.refl _
    | with_reducible apply Keeps.ite
    | with_reducible apply wr_keeps
    | with_reducible apply keepsParts_of
    | intro _
    | with_reducible refine Keeps.of_eq (by assumption) ?_
    | with_reducible refine Keeps.of_eq_snd (by assumption) ?_
    | simp only [keeps_mk]
    | split

theorem State.giveBack_keeps {r0 s : State} (h : r0.Keeps s) (r : Req) : r0.Keeps (State.giveBack s r) := by
  unfold State.giveBack
  repeat' first
    | with_reducible assumption
    | with_reducible exact Keeps.refl _
    | with_reducible apply Keeps.ite
    | with_reducible apply updOp_keeps
    | with_reducible apply keepsParts_of
    | intro _
    | with_reducible refine Keeps.of_eq (by assumption) ?_
    | with_reducible refine Keeps.of_eq_snd (by assumption) ?_
    | simp only [keeps_mk]
    | split

theorem State.resumeFaulted_keeps {r s : State} (h : r.Keeps s) : r.Keeps (State.resumeFaulted s) := by
  unfold State.resumeFaulted
  repeat' first
    | with_reducible assumption
    | with_reducible exact Keeps.refl _
    | with_reducible apply Keeps.ite
    | with_reducible apply syncOut_keeps
    | with_reducible apply giveBack_keeps
    | with_reducible refine Keeps.foldl ?_ (fun u x => ?_)
    | with_reducible refine Keeps.foldl_fst ?_ (fun u x => ?_)
    | with_reducible apply keepsParts_of
    | intro _
    | with_reducible refine Keeps.of_eq (by assumption) ?_
    | with_reducible refine Keeps.of_eq_snd (by assumption) ?_
    | simp only [keeps_mk]
    | split

theorem State.packedNeeds_keeps {r s : State} (h : r.Keeps s) (c : Client) (l : Leaf) (e : Need) : r.Keeps (State.packedNeeds s c l e).1 := by
  unfold State.packedNeeds
  repeat' first
    | with_reducible assumption
    | with_reducible exact Keeps.refl _
    | with_reducible apply Keeps.ite
    | with_reducible apply Keeps.ite_fst
    | with_reducible apply readDir_keeps
    | with_reducible apply packedFault_keeps
    | with_reducible apply waitForDir_keeps
    | with_reducible apply keepsParts_of
    | intro _
    | with_reducible refine Keeps.of_eq (by assumption) ?_
    | with_reducible refine Keeps.of_eq_snd (by assumption) ?_
    | simp only [keeps_mk]
    | split

theorem State.offerNeed_keeps {r s : State} (h : r.Keeps s) (eng : ℕ) (o : Op) (e : Need) : r.Keeps (State.offerNeed s eng o e).1 := by
  unfold State.offerNeed
  repeat' first
    | with_reducible assumption
    | with_reducible exact Keeps.refl _
    | with_reducible apply Keeps.ite
    | with_reducible apply Keeps.ite_fst
    | with_reducible apply raiseFault_keeps
    | with_reducible apply xlate_keeps
    | with_reducible apply packedNeeds_keeps
    | with_reducible apply keepsParts_of
    | intro _
    | with_reducible refine Keeps.of_eq (by assumption) ?_
    | with_reducible refine Keeps.of_eq_snd (by assumption) ?_
    | simp only [keeps_mk]
    | split

theorem State.takeNeed_keeps {r s : State} (h : r.Keeps s) (id : ℕ) (e : Need) : r.Keeps (State.takeNeed s id e) := by
  unfold State.takeNeed
  repeat' first
    | with_reducible assumption
    | with_reducible exact Keeps.refl _
    | with_reducible apply Keeps.ite
    | with_reducible apply updOp_keeps
    | with_reducible apply keepsParts_of
    | intro _
    | with_reducible refine Keeps.of_eq (by assumption) ?_
    | with_reducible refine Keeps.of_eq_snd (by assumption) ?_
    | simp only [keeps_mk]
    | split

theorem State.deliver_keeps {r s : State} (h : r.Keeps s) (o : Op) (eng : ℕ) (e : Need) : r.Keeps (State.deliver s o eng e).1 := by
  unfold State.deliver
  repeat' first
    | with_reducible assumption
    | with_reducible exact Keeps.refl _
    | with_reducible apply Keeps.ite
    | with_reducible apply Keeps.ite_fst
    | with_reducible apply copyBytes_keeps
    | with_reducible apply arrive_keeps
    | with_reducible apply keepsParts_of
    | intro _
    | with_reducible refine Keeps.of_eq (by assumption) ?_
    | with_reducible refine Keeps.of_eq_snd (by assumption) ?_
    | simp only [keeps_mk]
    | split

theorem State.addReq_keeps {r0 s : State} (h : r0.Keeps s) (r : Req) : r0.Keeps (State.addReq s r) := by
  unfold State.addReq
  repeat' first
    | with_reducible assumption
    | with_reducible exact Keeps.refl _
    | with_reducible apply Keeps.ite
    | with_reducible apply addH_keeps
    | with_reducible apply keepsParts_of
    | intro _
    | with_reducible refine Keeps.of_eq (by assumption) ?_
    | with_reducible refine Keeps.of_eq_snd (by assumption) ?_
    | simp only [keeps_mk]
    | split

theorem State.holdFault_keeps {r s : State} (h : r.Keeps s) (eng : ℕ) (o : Op) (e : Need) : r.Keeps (State.holdFault s eng o e) := by
  unfold State.holdFault
  repeat' first
    | with_reducible assumption
    | with_reducible exact Keeps.refl _
    | with_reducible apply Keeps.ite
    | with_reducible apply syncOut_keeps
    | with_reducible apply addReq_keeps
    | with_reducible apply takeNeed_keeps
    | with_reducible apply keepsParts_of
    | intro _
    | with_reducible refine Keeps.of_eq (by assumption) ?_
    | with_reducible refine Keeps.of_eq_snd (by assumption) ?_
    | simp only [keeps_mk]
    | split

theorem State.offerNeeds_keeps {r s : State} (h : r.Keeps s) (eng : ℕ) (id : ℕ) (cands : List State.Cand) (y4 : List Need) (y5 : List ℕ) : r.Keeps
    (State.offerNeeds s eng id cands y4 y5).1 := by
  induction y4 generalizing s eng id cands y5 with
  | nil =>
    unfold State.offerNeeds
    repeat' first
      | with_reducible assumption
      | with_reducible exact Keeps.refl _
      | with_reducible apply Keeps.ite
      | with_reducible apply Keeps.ite_fst
      | with_reducible apply offerNeed_keeps
      | with_reducible apply deliver_keeps
      | with_reducible apply takeNeed_keeps
      | with_reducible apply updOp_keeps
      | with_reducible apply addReq_keeps
      | with_reducible apply holdFault_keeps
      | with_reducible apply keepsParts_of
      | intro _
      | with_reducible refine Keeps.of_eq (by assumption) ?_
      | with_reducible refine Keeps.of_eq_snd (by assumption) ?_
      | simp only [keeps_mk]
      | split
  | cons z l ih =>
    unfold State.offerNeeds
    repeat' first
      | with_reducible assumption
      | with_reducible exact Keeps.refl _
      | with_reducible apply Keeps.ite
      | with_reducible apply Keeps.ite_fst
      | with_reducible apply offerNeed_keeps
      | with_reducible apply deliver_keeps
      | with_reducible apply takeNeed_keeps
      | with_reducible apply updOp_keeps
      | with_reducible apply addReq_keeps
      | with_reducible apply holdFault_keeps
      | with_reducible apply ih
      | with_reducible apply keepsParts_of
      | intro _
      | with_reducible refine Keeps.of_eq (by assumption) ?_
      | with_reducible refine Keeps.of_eq_snd (by assumption) ?_
      | simp only [keeps_mk]
      | split

theorem State.planPage_keeps {r s : State} (h : r.Keeps s) (o : Op) : r.Keeps (State.planPage s o) := by
  unfold State.planPage
  repeat' first
    | with_reducible assumption
    | with_reducible exact Keeps.refl _
    | with_reducible apply Keeps.ite
    | with_reducible apply Keeps.ite_fst
    | with_reducible apply xlate_keeps
    | with_reducible apply updOp_keeps
    | with_reducible apply keepsParts_of
    | intro _
    | with_reducible refine Keeps.of_eq (by assumption) ?_
    | with_reducible refine Keeps.of_eq_snd (by assumption) ?_
    | simp only [keeps_mk]
    | split

theorem State.offerOp_keeps {r s : State} (h : r.Keeps s) (eng : ℕ) (cands : List State.Cand) (id : ℕ) : r.Keeps (State.offerOp s eng cands id).1 :=
    by
  unfold State.offerOp
  repeat' first
    | with_reducible assumption
    | with_reducible exact Keeps.refl _
    | with_reducible apply Keeps.ite
    | with_reducible apply Keeps.ite_fst
    | with_reducible apply syncBlanks_keeps
    | with_reducible apply finish_keeps
    | with_reducible apply setOp_keeps
    | with_reducible apply planPage_keeps
    | with_reducible apply offerNeeds_keeps
    | with_reducible apply keepsParts_of
    | intro _
    | with_reducible refine Keeps.of_eq (by assumption) ?_
    | with_reducible refine Keeps.of_eq_snd (by assumption) ?_
    | simp only [keeps_mk]
    | split

theorem State.tagsWait_keeps {r s : State} (h : r.Keeps s) (q : ℕ) (e : ℕ) (on : Bool) : r.Keeps (State.tagsWait s q e on) := by
  unfold State.tagsWait
  repeat' first
    | with_reducible assumption
    | with_reducible exact Keeps.refl _
    | with_reducible apply Keeps.ite
    | with_reducible apply span_keeps
    | with_reducible apply keepsParts_of
    | intro _
    | with_reducible refine Keeps.of_eq (by assumption) ?_
    | with_reducible refine Keeps.of_eq_snd (by assumption) ?_
    | simp only [keeps_mk]
    | split

theorem State.issueReq_keeps {r s : State} (h : r.Keeps s) (eng : ℕ) (c : State.Cand) : r.Keeps (State.issueReq s eng c) := by
  unfold State.issueReq
  repeat' first
    | with_reducible assumption
    | with_reducible exact Keeps.refl _
    | with_reducible apply Keeps.ite
    | with_reducible apply addReq_keeps
    | with_reducible apply takeNeed_keeps
    | with_reducible apply enqueue_keeps
    | with_reducible apply ev_keeps
    | with_reducible apply bump_keeps
    | with_reducible apply syncOut_keeps
    | with_reducible apply setH_keeps
    | with_reducible apply keepsParts_of
    | intro _
    | with_reducible refine Keeps.of_eq (by assumption) ?_
    | with_reducible refine Keeps.of_eq_snd (by assumption) ?_
    | simp only [keeps_mk]
    | split

theorem State.serveUntil_keeps {r s : State} (h : r.Keeps s) (sid : ℕ) (y2 : ℕ) : r.Keeps (State.serveUntil s sid y2) := by
  induction y2 generalizing s sid with
  | zero =>
    unfold State.serveUntil
    repeat' first
      | with_reducible assumption
      | with_reducible exact Keeps.refl _
      | with_reducible apply Keeps.ite
      | with_reducible apply serveReq_keeps
      | with_reducible apply keepsParts_of
      | intro _
      | with_reducible refine Keeps.of_eq (by assumption) ?_
      | with_reducible refine Keeps.of_eq_snd (by assumption) ?_
      | simp only [keeps_mk]
      | split
  | succ n0 ih =>
    unfold State.serveUntil
    repeat' first
      | with_reducible assumption
      | with_reducible exact Keeps.refl _
      | with_reducible apply Keeps.ite
      | with_reducible apply serveReq_keeps
      | with_reducible apply ih
      | with_reducible apply keepsParts_of
      | intro _
      | with_reducible refine Keeps.of_eq (by assumption) ?_
      | with_reducible refine Keeps.of_eq_snd (by assumption) ?_
      | simp only [keeps_mk]
      | split

theorem State.freeReq_keeps {r0 s : State} (h : r0.Keeps s) (r : Req) : r0.Keeps (State.freeReq s r) := by
  unfold State.freeReq
  repeat' first
    | with_reducible assumption
    | with_reducible exact Keeps.refl _
    | with_reducible apply Keeps.ite
    | with_reducible apply tagsWait_keeps
    | with_reducible apply syncOut_keeps
    | with_reducible apply keepsParts_of
    | intro _
    | with_reducible refine Keeps.of_eq (by assumption) ?_
    | with_reducible refine Keeps.of_eq_snd (by assumption) ?_
    | simp only [keeps_mk]
    | split

theorem State.answered_keeps {r0 s : State} (h : r0.Keeps s) (r : Req) (o : Op) : r0.Keeps (State.answered s r o) := by
  unfold State.answered
  repeat' first
    | with_reducible assumption
    | with_reducible exact Keeps.refl _
    | with_reducible apply Keeps.ite
    | with_reducible apply Keeps.ite_fst
    | with_reducible apply deliver_keeps
    | with_reducible apply freeReq_keeps
    | with_reducible apply updOp_keeps
    | with_reducible apply keepsParts_of
    | intro _
    | with_reducible refine Keeps.of_eq (by assumption) ?_
    | with_reducible refine Keeps.of_eq_snd (by assumption) ?_
    | simp only [keeps_mk]
    | split

theorem execStreamIssue_keeps (e : ℕ) (t : ℕ) {s : State} : s.KeepsNext (execStreamIssue e t s) := by
  unfold execStreamIssue
  repeat' first
    | with_reducible assumption
    | with_reducible exact Keeps.refl _
    | with_reducible apply KeepsNext.next
    | with_reducible apply KeepsNext.ite
    | with_reducible apply Keeps.ite
    | with_reducible apply Keeps.ite_fst
    | with_reducible apply resumeFaulted_keeps
    | with_reducible apply goTo_keeps
    | with_reducible apply offerOp_keeps
    | with_reducible apply tagsWait_keeps
    | with_reducible apply issueReq_keeps
    | with_reducible refine Keeps.foldl ?_ (fun u x => ?_)
    | with_reducible refine Keeps.foldl_fst ?_ (fun u x => ?_)
    | with_reducible apply keepsParts_of
    | intro _
    | with_reducible refine Keeps.of_eq (by assumption) ?_
    | with_reducible refine Keeps.of_eq_snd (by assumption) ?_
    | simp only [keeps_mk]
    | split

theorem execPortTier3Issue_keeps (t : ℕ) {s : State} : s.KeepsNext (execPortTier3Issue t s) := by
  unfold execPortTier3Issue
  repeat' first
    | with_reducible assumption
    | with_reducible exact Keeps.refl _
    | with_reducible apply KeepsNext.next
    | with_reducible apply KeepsNext.ite
    | with_reducible apply Keeps.ite
    | with_reducible apply goTo_keeps
    | with_reducible apply raiseFault_keeps
    | with_reducible apply freeReq_keeps
    | with_reducible apply ev_keeps
    | with_reducible apply syncOut_keeps
    | with_reducible refine Keeps.foldl ?_ (fun u x => ?_)
    | with_reducible refine Keeps.foldl_fst ?_ (fun u x => ?_)
    | with_reducible apply keepsParts_of
    | intro _
    | with_reducible refine Keeps.of_eq (by assumption) ?_
    | with_reducible refine Keeps.of_eq_snd (by assumption) ?_
    | simp only [keeps_mk]
    | split

theorem execStreamResponse_keeps (req : ℕ) (t : ℕ) {s : State} : s.KeepsNext (execStreamResponse req t s) := by
  unfold execStreamResponse
  repeat' first
    | with_reducible assumption
    | with_reducible exact Keeps.refl _
    | with_reducible apply KeepsNext.next
    | with_reducible apply KeepsNext.ite
    | with_reducible apply Keeps.ite
    | with_reducible apply serveUntil_keeps
    | with_reducible apply goTo_keeps
    | with_reducible apply freeReq_keeps
    | with_reducible apply answered_keeps
    | with_reducible apply keepsParts_of
    | intro _
    | with_reducible refine Keeps.of_eq (by assumption) ?_
    | with_reducible refine Keeps.of_eq_snd (by assumption) ?_
    | simp only [keeps_mk]
    | split

theorem execSlotOpen_keeps (id : ℕ) (t : ℕ) {s : State} : s.KeepsNext (execSlotOpen id t s) := by
  unfold execSlotOpen
  repeat' first
    | with_reducible assumption
    | with_reducible exact Keeps.refl _
    | with_reducible apply KeepsNext.next
    | with_reducible apply KeepsNext.ite
    | with_reducible apply Keeps.ite
    | with_reducible apply goTo_keeps
    | with_reducible apply finish_keeps
    | with_reducible apply ev_keeps
    | with_reducible apply setOp_keeps
    | with_reducible apply keepsParts_of
    | intro _
    | with_reducible refine Keeps.of_eq (by assumption) ?_
    | with_reducible refine Keeps.of_eq_snd (by assumption) ?_
    | simp only [keeps_mk]
    | split

theorem execSlotCommit_keeps (id : ℕ) (t : ℕ) {s : State} : s.KeepsNext (execSlotCommit id t s) := by
  unfold execSlotCommit
  repeat' first
    | with_reducible assumption
    | with_reducible exact Keeps.refl _
    | with_reducible apply KeepsNext.next
    | with_reducible apply KeepsNext.ite
    | with_reducible apply Keeps.ite
    | with_reducible apply Keeps.ite_fst
    | with_reducible apply goTo_keeps
    | with_reducible apply wr_keeps
    | with_reducible apply parkOp_keeps
    | with_reducible apply setOp_keeps
    | with_reducible apply writeRecord_keeps
    | with_reducible apply updOp_keeps
    | with_reducible apply finish_keeps
    | with_reducible apply keepsParts_of
    | intro _
    | with_reducible refine Keeps.of_eq (by assumption) ?_
    | with_reducible refine Keeps.of_eq_snd (by assumption) ?_
    | simp only [keeps_mk]
    | split

theorem State.syncFe_keeps {r s : State} (h : r.Keeps s) (e : ℕ) : r.Keeps (State.syncFe s e) := by
  unfold State.syncFe
  repeat' first
    | with_reducible assumption
    | with_reducible exact Keeps.refl _
    | with_reducible apply Keeps.ite
    | with_reducible apply wr_keeps
    | with_reducible apply keepsParts_of
    | intro _
    | with_reducible refine Keeps.of_eq (by assumption) ?_
    | with_reducible refine Keeps.of_eq_snd (by assumption) ?_
    | simp only [keeps_mk]
    | split

theorem State.feErr_keeps {r s : State} (h : r.Keeps s) (f : Fld) (q : ℕ) (i : ℕ) : r.Keeps (State.feErr s f q i) := by
  unfold State.feErr
  repeat' first
    | with_reducible assumption
    | with_reducible exact Keeps.refl _
    | with_reducible apply Keeps.ite
    | with_reducible apply mark_keeps
    | with_reducible apply wr_keeps
    | with_reducible apply keepsParts_of
    | intro _
    | with_reducible refine Keeps.of_eq (by assumption) ?_
    | with_reducible refine Keeps.of_eq_snd (by assumption) ?_
    | simp only [keeps_mk]
    | split

theorem State.rsRead_keeps {r s : State} (h : r.Keeps s) (q : ℕ) (e : ℕ) (i : ℕ) : r.Keeps (State.rsRead s q e i).1 := by
  unfold State.rsRead
  repeat' first
    | with_reducible assumption
    | with_reducible exact Keeps.refl _
    | with_reducible apply Keeps.ite
    | with_reducible apply Keeps.ite_fst
    | with_reducible apply vread_keeps
    | with_reducible apply keepsParts_of
    | intro _
    | with_reducible refine Keeps.of_eq (by assumption) ?_
    | with_reducible refine Keeps.of_eq_snd (by assumption) ?_
    | simp only [keeps_mk]
    | split

theorem State.rsWrite_keeps {r s : State} (h : r.Keeps s) (q : ℕ) (e : ℕ) (i : ℕ) (next : ℕ) (exp : ℕ) (seen : ℕ) : r.Keeps (State.rsWrite s q e i
    next exp seen).1 := by
  unfold State.rsWrite
  repeat' first
    | with_reducible assumption
    | with_reducible exact Keeps.refl _
    | with_reducible apply Keeps.ite
    | with_reducible apply Keeps.ite_fst
    | with_reducible apply vwrite_keeps
    | with_reducible apply keepsParts_of
    | intro _
    | with_reducible refine Keeps.of_eq (by assumption) ?_
    | with_reducible refine Keeps.of_eq_snd (by assumption) ?_
    | simp only [keeps_mk]
    | split

theorem State.putMessage_keeps {r0 s : State} (h : r0.Keeps s) (r : ℕ) (alive : ℕ) (head : List Byte) (payload : List Byte) : r0.Keeps
    (State.putMessage s r alive head payload) := by
  unfold State.putMessage
  repeat' first
    | with_reducible assumption
    | with_reducible exact Keeps.refl _
    | with_reducible apply Keeps.ite
    | with_reducible apply setBytes_keeps
    | with_reducible apply keepsParts_of
    | intro _
    | with_reducible refine Keeps.of_eq (by assumption) ?_
    | with_reducible refine Keeps.of_eq_snd (by assumption) ?_
    | simp only [keeps_mk]
    | split

theorem State.messageWait_keeps {r s : State} (h : r.Keeps s) (q : ℕ) (e : ℕ) (why : Option ℕ) : r.Keeps (State.messageWait s q e why) := by
  unfold State.messageWait
  repeat' first
    | with_reducible assumption
    | with_reducible exact Keeps.refl _
    | with_reducible apply Keeps.ite
    | with_reducible apply span_keeps
    | with_reducible apply keepsParts_of
    | intro _
    | with_reducible refine Keeps.of_eq (by assumption) ?_
    | with_reducible refine Keeps.of_eq_snd (by assumption) ?_
    | simp only [keeps_mk]
    | split

theorem State.sendMsg_keeps {r s : State} (h : r.Keeps s) (q : ℕ) (route : ℕ) (op : ℕ) (own : Bool) (m : FeMsg) : r.Keeps (State.sendMsg s q route op
    own m).1 := by
  unfold State.sendMsg
  repeat' first
    | with_reducible assumption
    | with_reducible exact Keeps.refl _
    | with_reducible apply Keeps.ite
    | with_reducible apply Keeps.ite_fst
    | with_reducible apply messageWait_keeps
    | with_reducible apply rsRead_keeps
    | with_reducible apply vwrite_keeps
    | with_reducible apply rsWrite_keeps
    | with_reducible apply syncFe_keeps
    | with_reducible apply bump_keeps
    | with_reducible apply putMessage_keeps
    | with_reducible apply keepsParts_of
    | intro _
    | with_reducible refine Keeps.of_eq (by assumption) ?_
    | with_reducible refine Keeps.of_eq_snd (by assumption) ?_
    | simp only [keeps_mk]
    | split

theorem State.resend_keeps {r s : State} (h : r.Keeps s) (x : FeTx) : r.Keeps (State.resend s x) := by
  unfold State.resend
  repeat' first
    | with_reducible assumption
    | with_reducible exact Keeps.refl _
    | with_reducible apply Keeps.ite
    | with_reducible apply Keeps.ite_fst
    | with_reducible apply vread_keeps
    | with_reducible apply putMessage_keeps
    | with_reducible apply bump_keeps
    | with_reducible apply keepsParts_of
    | intro _
    | with_reducible refine Keeps.of_eq (by assumption) ?_
    | with_reducible refine Keeps.of_eq_snd (by assumption) ?_
    | simp only [keeps_mk]
    | split

theorem State.freeRecords_keeps {r s : State} (h : r.Keeps s) (xs : List FeTx) : r.Keeps (State.freeRecords s xs) := by
  unfold State.freeRecords
  repeat' first
    | with_reducible assumption
    | with_reducible exact Keeps.refl _
    | with_reducible apply Keeps.ite
    | with_reducible apply Keeps.ite_fst
    | with_reducible apply vread_keeps
    | with_reducible apply vwrite_keeps
    | with_reducible apply syncFe_keeps
    | with_reducible refine Keeps.foldl ?_ (fun u x => ?_)
    | with_reducible refine Keeps.foldl_fst ?_ (fun u x => ?_)
    | with_reducible apply keepsParts_of
    | intro _
    | with_reducible refine Keeps.of_eq (by assumption) ?_
    | with_reducible refine Keeps.of_eq_snd (by assumption) ?_
    | simp only [keeps_mk]
    | split

theorem State.feDone_keeps {r s : State} (h : r.Keeps s) (id : ℕ) : r.Keeps (State.feDone s id) := by
  unfold State.feDone
  repeat' first
    | with_reducible assumption
    | with_reducible exact Keeps.refl _
    | with_reducible apply Keeps.ite
    | with_reducible apply setOp_keeps
    | with_reducible apply keepsParts_of
    | intro _
    | with_reducible refine Keeps.of_eq (by assumption) ?_
    | with_reducible refine Keeps.of_eq_snd (by assumption) ?_
    | simp only [keeps_mk]
    | split

theorem State.sendAck_keeps {r s : State} (h : r.Keeps s) (q : ℕ) (i : ℕ) (missing : Bool) : r.Keeps (State.sendAck s q i missing) := by
  unfold State.sendAck
  repeat' first
    | with_reducible assumption
    | with_reducible exact Keeps.refl _
    | with_reducible apply Keeps.ite
    | with_reducible apply Keeps.ite_fst
    | with_reducible apply rsRead_keeps
    | with_reducible apply setH_keeps
    | with_reducible apply setBytes_keeps
    | with_reducible apply keepsParts_of
    | intro _
    | with_reducible refine Keeps.of_eq (by assumption) ?_
    | with_reducible refine Keeps.of_eq_snd (by assumption) ?_
    | simp only [keeps_mk]
    | split

theorem State.startAck_keeps {r s : State} (h : r.Keeps s) (q : ℕ) (i : ℕ) : r.Keeps (State.startAck s q i) := by
  unfold State.startAck
  repeat' first
    | with_reducible assumption
    | with_reducible exact Keeps.refl _
    | with_reducible apply Keeps.ite
    | with_reducible apply setH_keeps
    | with_reducible apply keepsParts_of
    | intro _
    | with_reducible refine Keeps.of_eq (by assumption) ?_
    | with_reducible refine Keeps.of_eq_snd (by assumption) ?_
    | simp only [keeps_mk]
    | split

theorem State.slotMsg_keeps {r s : State} (h : r.Keeps s) (q : ℕ) (e : ℕ) (i : ℕ) (l : ℕ) : r.Keeps (State.slotMsg s q e i l).1 := by
  unfold State.slotMsg
  repeat' first
    | with_reducible assumption
    | with_reducible exact Keeps.refl _
    | with_reducible apply Keeps.ite
    | with_reducible apply Keeps.ite_fst
    | with_reducible apply vread_keeps
    | with_reducible apply keepsParts_of
    | intro _
    | with_reducible refine Keeps.of_eq (by assumption) ?_
    | with_reducible refine Keeps.of_eq_snd (by assumption) ?_
    | simp only [keeps_mk]
    | split

theorem State.checkHeader_keeps {r s : State} (h : r.Keeps s) (e : ℕ) (q : ℕ) (i : ℕ) (l : ℕ) (rid : ℕ) : r.Keeps (State.checkHeader s e q i l rid) :=
    by
  unfold State.checkHeader
  repeat' first
    | with_reducible assumption
    | with_reducible exact Keeps.refl _
    | with_reducible apply Keeps.ite
    | with_reducible apply Keeps.ite_fst
    | with_reducible apply slotMsg_keeps
    | with_reducible apply ev_keeps
    | with_reducible apply feErr_keeps
    | with_reducible apply rsRead_keeps
    | with_reducible apply sendAck_keeps
    | with_reducible apply rsWrite_keeps
    | with_reducible apply startAck_keeps
    | with_reducible apply keepsParts_of
    | intro _
    | with_reducible refine Keeps.of_eq (by assumption) ?_
    | with_reducible refine Keeps.of_eq_snd (by assumption) ?_
    | simp only [keeps_mk]
    | split

theorem State.markApplied_keeps {r s : State} (h : r.Keeps s) (x : FeRx) : r.Keeps (State.markApplied s x) := by
  unfold State.markApplied
  repeat' first
    | with_reducible assumption
    | with_reducible exact Keeps.refl _
    | with_reducible apply Keeps.ite
    | with_reducible apply Keeps.ite_fst
    | with_reducible apply rsRead_keeps
    | with_reducible apply rsWrite_keeps
    | with_reducible apply sendAck_keeps
    | with_reducible apply startAck_keeps
    | with_reducible apply setH_keeps
    | with_reducible apply keepsParts_of
    | intro _
    | with_reducible refine Keeps.of_eq (by assumption) ?_
    | with_reducible refine Keeps.of_eq_snd (by assumption) ?_
    | simp only [keeps_mk]
    | split

theorem State.feStore_keeps {r s : State} (h : r.Keeps s) (c : Client) (hint : ℕ) (keep : ℕ) (va : ℕ) (d : List Byte) (bad : Bool) (y7 : ℕ) : r.Keeps
    (State.feStore s c hint keep va d bad y7).1 := by
  induction y7 generalizing s c hint keep va d bad with
  | zero =>
    unfold State.feStore
    repeat' first
      | with_reducible assumption
      | with_reducible exact Keeps.refl _
      | with_reducible apply Keeps.ite
      | with_reducible apply Keeps.ite_fst
      | with_reducible apply xlate_keeps
      | with_reducible apply writeOne_keeps
      | with_reducible apply settle_keeps
      | with_reducible apply keepsParts_of
      | intro _
      | with_reducible refine Keeps.of_eq (by assumption) ?_
      | with_reducible refine Keeps.of_eq_snd (by assumption) ?_
      | simp only [keeps_mk]
      | split
  | succ n0 ih =>
    unfold State.feStore
    repeat' first
      | with_reducible assumption
      | with_reducible exact Keeps.refl _
      | with_reducible apply Keeps.ite
      | with_reducible apply Keeps.ite_fst
      | with_reducible apply xlate_keeps
      | with_reducible apply writeOne_keeps
      | with_reducible apply settle_keeps
      | with_reducible apply ih
      | with_reducible apply keepsParts_of
      | intro _
      | with_reducible refine Keeps.of_eq (by assumption) ?_
      | with_reducible refine Keeps.of_eq_snd (by assumption) ?_
      | simp only [keeps_mk]
      | split

theorem State.feNote_keeps {r s : State} (h : r.Keeps s) (id : ℕ) (n : ℕ) (bad : Bool) (fl : ℕ) : r.Keeps (State.feNote s id n bad fl) := by
  unfold State.feNote
  repeat' first
    | with_reducible assumption
    | with_reducible exact Keeps.refl _
    | with_reducible apply Keeps.ite
    | with_reducible apply setOp_keeps
    | with_reducible apply mergeFlags_keeps
    | with_reducible apply keepsParts_of
    | intro _
    | with_reducible refine Keeps.of_eq (by assumption) ?_
    | with_reducible refine Keeps.of_eq_snd (by assumption) ?_
    | simp only [keeps_mk]
    | split

theorem State.applyMsg_keeps {r s : State} (h : r.Keeps s) (x : FeRx) : r.Keeps (State.applyMsg s x) := by
  unfold State.applyMsg
  repeat' first
    | with_reducible assumption
    | with_reducible exact Keeps.refl _
    | with_reducible apply Keeps.ite
    | with_reducible apply Keeps.ite_fst
    | with_reducible apply slotMsg_keeps
    | with_reducible apply ev_keeps
    | with_reducible apply sendMsg_keeps
    | with_reducible apply finish_keeps
    | with_reducible apply markApplied_keeps
    | with_reducible apply feErr_keeps
    | with_reducible apply messageWait_keeps
    | with_reducible apply feStore_keeps
    | with_reducible apply feDone_keeps
    | with_reducible apply feNote_keeps
    | with_reducible apply vread_keeps
    | with_reducible apply keepsParts_of
    | intro _
    | with_reducible refine Keeps.of_eq (by assumption) ?_
    | with_reducible refine Keeps.of_eq_snd (by assumption) ?_
    | simp only [keeps_mk]
    | split

theorem State.downRoute_keeps {r s : State} (h : r.Keeps s) (q : ℕ) (i : ℕ) : r.Keeps (State.downRoute s q i) := by
  unfold State.downRoute
  repeat' first
    | with_reducible assumption
    | with_reducible exact Keeps.refl _
    | with_reducible apply Keeps.ite
    | with_reducible apply wr_keeps
    | with_reducible apply freeRecords_keeps
    | with_reducible apply feErr_keeps
    | with_reducible apply finish_keeps
    | with_reducible refine Keeps.foldl ?_ (fun u x => ?_)
    | with_reducible refine Keeps.foldl_fst ?_ (fun u x => ?_)
    | with_reducible apply keepsParts_of
    | intro _
    | with_reducible refine Keeps.of_eq (by assumption) ?_
    | with_reducible refine Keeps.of_eq_snd (by assumption) ?_
    | simp only [keeps_mk]
    | split

theorem State.feBegin_keeps {r s : State} (h : r.Keeps s) (id : ℕ) (op : ℕ) : r.Keeps (State.feBegin s id op) := by
  unfold State.feBegin
  repeat' first
    | with_reducible assumption
    | with_reducible exact Keeps.refl _
    | with_reducible apply Keeps.ite
    | with_reducible apply finish_keeps
    | with_reducible apply feDone_keeps
    | with_reducible apply setOp_keeps
    | with_reducible apply keepsParts_of
    | intro _
    | with_reducible refine Keeps.of_eq (by assumption) ?_
    | with_reducible refine Keeps.of_eq_snd (by assumption) ?_
    | simp only [keeps_mk]
    | split

theorem State.applyTable_keeps {r s : State} (h : r.Keeps s) (q : ℕ) : r.Keeps (State.applyTable s q).1 := by
  unfold State.applyTable
  repeat' first
    | with_reducible assumption
    | with_reducible exact Keeps.refl _
    | with_reducible apply Keeps.ite
    | with_reducible apply Keeps.ite_fst
    | with_reducible apply vread_keeps
    | with_reducible apply vwrite_keeps
    | with_reducible apply wr_keeps
    | with_reducible apply setH_keeps
    | with_reducible refine Keeps.foldl ?_ (fun u x => ?_)
    | with_reducible refine Keeps.foldl_fst ?_ (fun u x => ?_)
    | with_reducible apply keepsParts_of
    | intro _
    | with_reducible refine Keeps.of_eq (by assumption) ?_
    | with_reducible refine Keeps.of_eq_snd (by assumption) ?_
    | simp only [keeps_mk]
    | split

theorem State.applyFabric_keeps {r s : State} (h : r.Keeps s) : r.Keeps (State.applyFabric s) := by
  unfold State.applyFabric
  repeat' first
    | with_reducible assumption
    | with_reducible exact Keeps.refl _
    | with_reducible apply Keeps.ite
    | with_reducible apply Keeps.ite_fst
    | with_reducible apply applyTable_keeps
    | with_reducible apply setH_keeps
    | with_reducible apply fnErr_keeps
    | with_reducible apply mark_keeps
    | with_reducible refine Keeps.foldl ?_ (fun u x => ?_)
    | with_reducible refine Keeps.foldl_fst ?_ (fun u x => ?_)
    | with_reducible apply keepsParts_of
    | intro _
    | with_reducible refine Keeps.of_eq (by assumption) ?_
    | with_reducible refine Keeps.of_eq_snd (by assumption) ?_
    | simp only [keeps_mk]
    | split

theorem State.applyCredits_keeps {r s : State} (h : r.Keeps s) : r.Keeps (State.applyCredits s) := by
  unfold State.applyCredits
  repeat' first
    | with_reducible assumption
    | with_reducible exact Keeps.refl _
    | with_reducible apply Keeps.ite
    | with_reducible apply mark_keeps
    | with_reducible apply wr_keeps
    | with_reducible refine Keeps.foldl ?_ (fun u x => ?_)
    | with_reducible refine Keeps.foldl_fst ?_ (fun u x => ?_)
    | with_reducible apply keepsParts_of
    | intro _
    | with_reducible refine Keeps.of_eq (by assumption) ?_
    | with_reducible refine Keeps.of_eq_snd (by assumption) ?_
    | simp only [keeps_mk]
    | split

theorem State.recheckHeaders_keeps {r s : State} (h : r.Keeps s) : r.Keeps (State.recheckHeaders s) := by
  unfold State.recheckHeaders
  repeat' first
    | with_reducible assumption
    | with_reducible exact Keeps.refl _
    | with_reducible apply Keeps.ite
    | with_reducible apply checkHeader_keeps
    | with_reducible refine Keeps.foldl ?_ (fun u x => ?_)
    | with_reducible refine Keeps.foldl_fst ?_ (fun u x => ?_)
    | with_reducible apply keepsParts_of
    | intro _
    | with_reducible refine Keeps.of_eq (by assumption) ?_
    | with_reducible refine Keeps.of_eq_snd (by assumption) ?_
    | simp only [keeps_mk]
    | split

theorem execMessageSend_keeps (id : ℕ) (t : ℕ) {s : State} : s.KeepsNext (execMessageSend id t s) := by
  unfold execMessageSend
  repeat' first
    | with_reducible assumption
    | with_reducible exact Keeps.refl _
    | with_reducible apply KeepsNext.next
    | with_reducible apply KeepsNext.ite
    | with_reducible apply Keeps.ite
    | with_reducible apply Keeps.ite_fst
    | with_reducible apply goTo_keeps
    | with_reducible apply messageWait_keeps
    | with_reducible apply vread_keeps
    | with_reducible apply sendMsg_keeps
    | with_reducible apply updOp_keeps
    | with_reducible apply feNote_keeps
    | with_reducible apply keepsParts_of
    | intro _
    | with_reducible refine Keeps.of_eq (by assumption) ?_
    | with_reducible refine Keeps.of_eq_snd (by assumption) ?_
    | simp only [keeps_mk]
    | split

theorem execHeaderCheck_keeps (e : ℕ) (q : ℕ) (i : ℕ) (l : ℕ) (rid : ℕ) (t : ℕ) {s : State} : s.KeepsNext (execHeaderCheck e q i l rid t s) := by
  unfold execHeaderCheck
  repeat' first
    | with_reducible assumption
    | with_reducible exact Keeps.refl _
    | with_reducible apply KeepsNext.next
    | with_reducible apply KeepsNext.ite
    | with_reducible apply Keeps.ite
    | with_reducible apply goTo_keeps
    | with_reducible apply checkHeader_keeps
    | with_reducible apply keepsParts_of
    | intro _
    | with_reducible refine Keeps.of_eq (by assumption) ?_
    | with_reducible refine Keeps.of_eq_snd (by assumption) ?_
    | simp only [keeps_mk]
    | split

theorem execMessageApply_keeps (q : ℕ) (i : ℕ) (l : ℕ) (t : ℕ) {s : State} : s.KeepsNext (execMessageApply q i l t s) := by
  unfold execMessageApply
  repeat' first
    | with_reducible assumption
    | with_reducible exact Keeps.refl _
    | with_reducible apply KeepsNext.next
    | with_reducible apply KeepsNext.ite
    | with_reducible apply Keeps.ite
    | with_reducible apply goTo_keeps
    | with_reducible apply applyMsg_keeps
    | with_reducible apply keepsParts_of
    | intro _
    | with_reducible refine Keeps.of_eq (by assumption) ?_
    | with_reducible refine Keeps.of_eq_snd (by assumption) ?_
    | simp only [keeps_mk]
    | split

theorem execAckLineReceive_keeps (q : ℕ) (i : ℕ) (t : ℕ) {s : State} : s.KeepsNext (execAckLineReceive q i t s) := by
  unfold execAckLineReceive
  repeat' first
    | with_reducible assumption
    | with_reducible exact Keeps.refl _
    | with_reducible apply KeepsNext.next
    | with_reducible apply KeepsNext.ite
    | with_reducible apply Keeps.ite
    | with_reducible apply Keeps.ite_fst
    | with_reducible apply goTo_keeps
    | with_reducible apply vread_keeps
    | with_reducible apply freeRecords_keeps
    | with_reducible apply resend_keeps
    | with_reducible apply feDone_keeps
    | with_reducible refine Keeps.foldl ?_ (fun u x => ?_)
    | with_reducible refine Keeps.foldl_fst ?_ (fun u x => ?_)
    | with_reducible apply keepsParts_of
    | intro _
    | with_reducible refine Keeps.of_eq (by assumption) ?_
    | with_reducible refine Keeps.of_eq_snd (by assumption) ?_
    | simp only [keeps_mk]
    | split

theorem execAckTimer_keeps (q : ℕ) (i : ℕ) (t : ℕ) {s : State} : s.KeepsNext (execAckTimer q i t s) := by
  unfold execAckTimer
  repeat' first
    | with_reducible assumption
    | with_reducible exact Keeps.refl _
    | with_reducible apply KeepsNext.next
    | with_reducible apply KeepsNext.ite
    | with_reducible apply Keeps.ite
    | with_reducible apply goTo_keeps
    | with_reducible apply sendAck_keeps
    | with_reducible apply keepsParts_of
    | intro _
    | with_reducible refine Keeps.of_eq (by assumption) ?_
    | with_reducible refine Keeps.of_eq_snd (by assumption) ?_
    | simp only [keeps_mk]
    | split

theorem execResendTimer_keeps (q : ℕ) (e : ℕ) (r : ℕ) (t : ℕ) {s : State} : s.KeepsNext (execResendTimer q e r t s) := by
  unfold execResendTimer
  repeat' first
    | with_reducible assumption
    | with_reducible exact Keeps.refl _
    | with_reducible apply KeepsNext.next
    | with_reducible apply KeepsNext.ite
    | with_reducible apply Keeps.ite
    | with_reducible apply goTo_keeps
    | with_reducible apply downRoute_keeps
    | with_reducible apply resend_keeps
    | with_reducible apply keepsParts_of
    | intro _
    | with_reducible refine Keeps.of_eq (by assumption) ?_
    | with_reducible refine Keeps.of_eq_snd (by assumption) ?_
    | simp only [keeps_mk]
    | split

theorem execSend_keeps (id : ℕ) (t : ℕ) {s : State} : s.KeepsNext (execSend id t s) := by
  unfold execSend
  repeat' first
    | with_reducible assumption
    | with_reducible exact Keeps.refl _
    | with_reducible apply KeepsNext.next
    | with_reducible apply KeepsNext.ite
    | with_reducible apply Keeps.ite
    | with_reducible apply feBegin_keeps
    | with_reducible apply goTo_keeps
    | with_reducible apply keepsParts_of
    | intro _
    | with_reducible refine Keeps.of_eq (by assumption) ?_
    | with_reducible refine Keeps.of_eq_snd (by assumption) ?_
    | simp only [keeps_mk]
    | split

theorem execRecv_keeps (id : ℕ) (t : ℕ) {s : State} : s.KeepsNext (execRecv id t s) := by
  unfold execRecv
  repeat' first
    | with_reducible assumption
    | with_reducible exact Keeps.refl _
    | with_reducible apply KeepsNext.next
    | with_reducible apply KeepsNext.ite
    | with_reducible apply Keeps.ite
    | with_reducible apply feBegin_keeps
    | with_reducible apply goTo_keeps
    | with_reducible apply keepsParts_of
    | intro _
    | with_reducible refine Keeps.of_eq (by assumption) ?_
    | with_reducible refine Keeps.of_eq_snd (by assumption) ?_
    | simp only [keeps_mk]
    | split

theorem execAllreduce_keeps (id : ℕ) (t : ℕ) {s : State} : s.KeepsNext (execAllreduce id t s) := by
  unfold execAllreduce
  repeat' first
    | with_reducible assumption
    | with_reducible exact Keeps.refl _
    | with_reducible apply KeepsNext.next
    | with_reducible apply KeepsNext.ite
    | with_reducible apply Keeps.ite
    | with_reducible apply feBegin_keeps
    | with_reducible apply goTo_keeps
    | with_reducible apply keepsParts_of
    | intro _
    | with_reducible refine Keeps.of_eq (by assumption) ?_
    | with_reducible refine Keeps.of_eq_snd (by assumption) ?_
    | simp only [keeps_mk]
    | split

theorem State.putPte_keeps {r s : State} (h : r.Keeps s) (q : ℕ) (unit : ℕ) (addr : ℕ) (p : ℕ) : r.Keeps (State.putPte s q unit addr p) := by
  unfold State.putPte
  repeat' first
    | with_reducible assumption
    | with_reducible exact Keeps.refl _
    | with_reducible apply Keeps.ite
    | with_reducible apply setBytes_keeps
    | with_reducible apply plazaTouch_keeps
    | with_reducible apply keepsParts_of
    | intro _
    | with_reducible refine Keeps.of_eq (by assumption) ?_
    | with_reducible refine Keeps.of_eq_snd (by assumption) ?_
    | simp only [keeps_mk]
    | split

theorem State.dropTlb_keeps {r s : State} (h : r.Keeps s) (q : ℕ) (va : ℕ) (n : ℕ) : r.Keeps (State.dropTlb s q va n) := by
  unfold State.dropTlb
  repeat' first
    | with_reducible assumption
    | with_reducible exact Keeps.refl _
    | with_reducible apply Keeps.ite
    | with_reducible apply keepsParts_of
    | intro _
    | with_reducible refine Keeps.of_eq (by assumption) ?_
    | with_reducible refine Keeps.of_eq_snd (by assumption) ?_
    | simp only [keeps_mk]
    | split

theorem State.writeFrame_keeps {r s : State} (h : r.Keeps s) (c : Client) (l : Leaf) (va : ℕ) (d : List Byte) (bads : List Bool) : r.Keeps
    (State.writeFrame s c l va d bads).1 := by
  unfold State.writeFrame
  repeat' first
    | with_reducible assumption
    | with_reducible exact Keeps.refl _
    | with_reducible apply Keeps.ite
    | with_reducible apply Keeps.ite_fst
    | with_reducible apply packedWriteAt_keeps
    | with_reducible apply packedFault_keeps
    | with_reducible apply writePiece_keeps
    | with_reducible refine Keeps.foldl ?_ (fun u x => ?_)
    | with_reducible refine Keeps.foldl_fst ?_ (fun u x => ?_)
    | with_reducible apply keepsParts_of
    | intro _
    | with_reducible refine Keeps.of_eq (by assumption) ?_
    | with_reducible refine Keeps.of_eq_snd (by assumption) ?_
    | simp only [keeps_mk]
    | split

theorem State.noteMovePoison_keeps {r s : State} (h : r.Keeps s) (id : ℕ) (bad : Bool) : r.Keeps (State.noteMovePoison s id bad) := by
  unfold State.noteMovePoison
  repeat' first
    | with_reducible assumption
    | with_reducible exact Keeps.refl _
    | with_reducible apply Keeps.ite
    | with_reducible apply updOp_keeps
    | with_reducible apply keepsParts_of
    | intro _
    | with_reducible refine Keeps.of_eq (by assumption) ?_
    | with_reducible refine Keeps.of_eq_snd (by assumption) ?_
    | simp only [keeps_mk]
    | split

theorem State.nextPage_keeps {r s : State} (h : r.Keeps s) (id : ℕ) : r.Keeps (State.nextPage s id) := by
  unfold State.nextPage
  repeat' first
    | with_reducible assumption
    | with_reducible exact Keeps.refl _
    | with_reducible apply Keeps.ite
    | with_reducible apply updOp_keeps
    | with_reducible apply keepsParts_of
    | intro _
    | with_reducible refine Keeps.of_eq (by assumption) ?_
    | with_reducible refine Keeps.of_eq_snd (by assumption) ?_
    | simp only [keeps_mk]
    | split

theorem State.migDst_keeps {r s : State} (h : r.Keeps s) (c : Client) (d : ℕ) (i : ℕ) (sz : ℕ) : r.Keeps (State.migDst s c d i sz).1 := by
  unfold State.migDst
  repeat' first
    | with_reducible assumption
    | with_reducible exact Keeps.refl _
    | with_reducible apply Keeps.ite
    | with_reducible apply Keeps.ite_fst
    | with_reducible apply readDir_keeps
    | with_reducible apply keepsParts_of
    | intro _
    | with_reducible refine Keeps.of_eq (by assumption) ?_
    | with_reducible refine Keeps.of_eq_snd (by assumption) ?_
    | simp only [keeps_mk]
    | split

theorem State.migDone_keeps {r s : State} (h : r.Keeps s) (o : Op) (l : Leaf) (va : ℕ) (new : ℕ) (bads : List Bool) : r.Keeps (State.migDone s o l va
    new bads) := by
  unfold State.migDone
  repeat' first
    | with_reducible assumption
    | with_reducible exact Keeps.refl _
    | with_reducible apply Keeps.ite
    | with_reducible apply nextPage_keeps
    | with_reducible apply noteMovePoison_keeps
    | with_reducible apply dropTlb_keeps
    | with_reducible apply putPte_keeps
    | with_reducible apply keepsParts_of
    | intro _
    | with_reducible refine Keeps.of_eq (by assumption) ?_
    | with_reducible refine Keeps.of_eq_snd (by assumption) ?_
    | simp only [keeps_mk]
    | split

theorem State.migrateLeaf_keeps {r s : State} (h : r.Keeps s) (o : Op) (l : Leaf) (va : ℕ) : r.Keeps (State.migrateLeaf s o l va) := by
  unfold State.migrateLeaf
  repeat' first
    | with_reducible assumption
    | with_reducible exact Keeps.refl _
    | with_reducible apply Keeps.ite
    | with_reducible apply Keeps.ite_fst
    | with_reducible apply migDst_keeps
    | with_reducible apply raiseFault_keeps
    | with_reducible apply dropTlb_keeps
    | with_reducible apply putPte_keeps
    | with_reducible apply updOp_keeps
    | with_reducible apply vreadL_keeps
    | with_reducible apply writeFrame_keeps
    | with_reducible apply migDone_keeps
    | with_reducible apply keepsParts_of
    | intro _
    | with_reducible refine Keeps.of_eq (by assumption) ?_
    | with_reducible refine Keeps.of_eq_snd (by assumption) ?_
    | simp only [keeps_mk]
    | split

theorem State.migratePage_keeps {r s : State} (h : r.Keeps s) (o : Op) : r.Keeps (State.migratePage s o) := by
  unfold State.migratePage
  repeat' first
    | with_reducible assumption
    | with_reducible exact Keeps.refl _
    | with_reducible apply Keeps.ite
    | with_reducible apply Keeps.ite_fst
    | with_reducible apply nextPage_keeps
    | with_reducible apply updOp_keeps
    | with_reducible apply walk_keeps
    | with_reducible apply raiseFault_keeps
    | with_reducible apply migrateLeaf_keeps
    | with_reducible apply keepsParts_of
    | intro _
    | with_reducible refine Keeps.of_eq (by assumption) ?_
    | with_reducible refine Keeps.of_eq_snd (by assumption) ?_
    | simp only [keeps_mk]
    | split

theorem State.convGroup_keeps {r s : State} (h : r.Keeps s) (o : Op) (total : ℕ) (g : ℕ × ℕ) : r.Keeps (State.convGroup s o total g).1 := by
  unfold State.convGroup
  repeat' first
    | with_reducible assumption
    | with_reducible exact Keeps.refl _
    | with_reducible apply Keeps.ite
    | with_reducible apply Keeps.ite_fst
    | with_reducible apply vread_keeps
    | with_reducible apply vwriteL_keeps
    | with_reducible apply noteMovePoison_keeps
    | with_reducible apply updOp_keeps
    | with_reducible apply keepsParts_of
    | intro _
    | with_reducible refine Keeps.of_eq (by assumption) ?_
    | with_reducible refine Keeps.of_eq_snd (by assumption) ?_
    | simp only [keeps_mk]
    | split

theorem State.copyPage_keeps {r s : State} (h : r.Keeps s) (o : Op) : r.Keeps (State.copyPage s o) := by
  unfold State.copyPage
  repeat' first
    | with_reducible assumption
    | with_reducible exact Keeps.refl _
    | with_reducible apply Keeps.ite
    | with_reducible apply Keeps.ite_fst
    | with_reducible apply xlate_keeps
    | with_reducible apply convGroup_keeps
    | with_reducible apply nextPage_keeps
    | with_reducible apply vreadL_keeps
    | with_reducible apply vwriteL_keeps
    | with_reducible apply noteMovePoison_keeps
    | with_reducible refine Keeps.foldl ?_ (fun u x => ?_)
    | with_reducible refine Keeps.foldl_fst ?_ (fun u x => ?_)
    | with_reducible apply keepsParts_of
    | intro _
    | with_reducible refine Keeps.of_eq (by assumption) ?_
    | with_reducible refine Keeps.of_eq_snd (by assumption) ?_
    | simp only [keeps_mk]
    | split

theorem State.abandonPage_keeps {r s : State} (h : r.Keeps s) (id : ℕ) : r.Keeps (State.abandonPage s id) := by
  unfold State.abandonPage
  repeat' first
    | with_reducible assumption
    | with_reducible exact Keeps.refl _
    | with_reducible apply Keeps.ite
    | with_reducible apply putPte_keeps
    | with_reducible apply updOp_keeps
    | with_reducible apply dropTlb_keeps
    | with_reducible apply keepsParts_of
    | intro _
    | with_reducible refine Keeps.of_eq (by assumption) ?_
    | with_reducible refine Keeps.of_eq_snd (by assumption) ?_
    | simp only [keeps_mk]
    | split

theorem State.replicaOf_keeps {r s : State} (h : r.Keeps s) (o : Op) (e : Need) : r.Keeps (State.replicaOf s o e).1 := by
  unfold State.replicaOf
  repeat' first
    | with_reducible assumption
    | with_reducible exact Keeps.refl _
    | with_reducible apply Keeps.ite
    | with_reducible apply Keeps.ite_fst
    | with_reducible apply translate_keeps
    | with_reducible apply readLedger_keeps
    | with_reducible apply keepsParts_of
    | intro _
    | with_reducible refine Keeps.of_eq (by assumption) ?_
    | with_reducible refine Keeps.of_eq_snd (by assumption) ?_
    | simp only [keeps_mk]
    | split

theorem State.switchReplica_keeps {r s : State} (h : r.Keeps s) (id : ℕ) (x : ℕ) : r.Keeps (State.switchReplica s id x) := by
  unfold State.switchReplica
  repeat' first
    | with_reducible assumption
    | with_reducible exact Keeps.refl _
    | with_reducible apply Keeps.ite
    | with_reducible apply bump_keeps
    | with_reducible apply updOp_keeps
    | with_reducible apply laterReqs_keeps
    | with_reducible apply keepsParts_of
    | intro _
    | with_reducible refine Keeps.of_eq (by assumption) ?_
    | with_reducible refine Keeps.of_eq_snd (by assumption) ?_
    | simp only [keeps_mk]
    | split

theorem execMovePage_keeps (id : ℕ) (t : ℕ) {s : State} : s.KeepsNext (execMovePage id t s) := by
  unfold execMovePage
  repeat' first
    | with_reducible assumption
    | with_reducible exact Keeps.refl _
    | with_reducible apply KeepsNext.next
    | with_reducible apply KeepsNext.ite
    | with_reducible apply Keeps.ite
    | with_reducible apply goTo_keeps
    | with_reducible apply finish_keeps
    | with_reducible apply copyPage_keeps
    | with_reducible apply migratePage_keeps
    | with_reducible apply keepsParts_of
    | intro _
    | with_reducible refine Keeps.of_eq (by assumption) ?_
    | with_reducible refine Keeps.of_eq_snd (by assumption) ?_
    | simp only [keeps_mk]
    | split

theorem execLateRead_keeps (id : ℕ) (t : ℕ) {s : State} : s.KeepsNext (execLateRead id t s) := by
  unfold execLateRead
  repeat' first
    | with_reducible assumption
    | with_reducible exact Keeps.refl _
    | with_reducible apply KeepsNext.next
    | with_reducible apply KeepsNext.ite
    | with_reducible apply Keeps.ite
    | with_reducible apply Keeps.ite_fst
    | with_reducible apply goTo_keeps
    | with_reducible apply ev_keeps
    | with_reducible apply bump_keeps
    | with_reducible apply replicaOf_keeps
    | with_reducible apply switchReplica_keeps
    | with_reducible apply keepsParts_of
    | intro _
    | with_reducible refine Keeps.of_eq (by assumption) ?_
    | with_reducible refine Keeps.of_eq_snd (by assumption) ?_
    | simp only [keeps_mk]
    | split

theorem State.syncFrames_keeps {r s : State} (h : r.Keeps s) (d : ℕ) : r.Keeps (State.syncFrames s d) := by
  unfold State.syncFrames
  repeat' first
    | with_reducible assumption
    | with_reducible exact Keeps.refl _
    | with_reducible apply Keeps.ite
    | with_reducible apply wr_keeps
    | with_reducible apply keepsParts_of
    | intro _
    | with_reducible refine Keeps.of_eq (by assumption) ?_
    | with_reducible refine Keeps.of_eq_snd (by assumption) ?_
    | simp only [keeps_mk]
    | split

theorem State.memRetire_keeps {r s : State} (h : r.Keeps s) (fromMc : Bool) (val : ℕ) : r.Keeps (State.memRetire s fromMc val) := by
  unfold State.memRetire
  repeat' first
    | with_reducible assumption
    | with_reducible exact Keeps.refl _
    | with_reducible apply Keeps.ite
    | with_reducible apply fnErr_keeps
    | with_reducible apply wr_keeps
    | with_reducible apply keepsParts_of
    | intro _
    | with_reducible refine Keeps.of_eq (by assumption) ?_
    | with_reducible refine Keeps.of_eq_snd (by assumption) ?_
    | simp only [keeps_mk]
    | split

theorem State.loseBay_keeps {r s : State} (h : r.Keeps s) (d : ℕ) : r.Keeps (State.loseBay s d) := by
  unfold State.loseBay
  repeat' first
    | with_reducible assumption
    | with_reducible exact Keeps.refl _
    | with_reducible apply Keeps.ite
    | with_reducible apply giveBack_keeps
    | with_reducible apply ev_keeps
    | with_reducible apply bump_keeps
    | with_reducible apply syncOut_keeps
    | with_reducible apply wr_keeps
    | with_reducible apply setH_keeps
    | with_reducible refine Keeps.foldl ?_ (fun u x => ?_)
    | with_reducible refine Keeps.foldl_fst ?_ (fun u x => ?_)
    | with_reducible apply keepsParts_of
    | intro _
    | with_reducible refine Keeps.of_eq (by assumption) ?_
    | with_reducible refine Keeps.of_eq_snd (by assumption) ?_
    | simp only [keeps_mk]
    | split

theorem State.bayOpens_keeps {r s : State} (h : r.Keeps s) (d : ℕ) : r.Keeps (State.bayOpens s d) := by
  unfold State.bayOpens
  repeat' first
    | with_reducible assumption
    | with_reducible exact Keeps.refl _
    | with_reducible apply Keeps.ite
    | with_reducible apply wr_keeps
    | with_reducible apply loseBay_keeps
    | with_reducible apply keepsParts_of
    | intro _
    | with_reducible refine Keeps.of_eq (by assumption) ?_
    | with_reducible refine Keeps.of_eq_snd (by assumption) ?_
    | simp only [keeps_mk]
    | split

theorem execTranslationWalk_keeps (q : ℕ) (va : ℕ) (write : Bool) (init : Initiator) {s : State} : s.KeepsNext (execTranslationWalk q va write init s)
    := by
  unfold execTranslationWalk
  repeat' first
    | with_reducible assumption
    | with_reducible exact Keeps.refl _
    | with_reducible apply KeepsNext.next
    | with_reducible apply KeepsNext.ite
    | with_reducible apply Keeps.ite
    | with_reducible apply Keeps.ite_fst
    | with_reducible apply xlate_keeps
    | with_reducible apply keepsParts_of
    | intro _
    | with_reducible refine Keeps.of_eq (by assumption) ?_
    | with_reducible refine Keeps.of_eq_snd (by assumption) ?_
    | simp only [keeps_mk]
    | split

theorem State.plazaServe_keeps {r0 s : State} (h : r0.Keeps s) (r : PlazaReq) : r0.Keeps (State.plazaServe s r).1 := by
  unfold State.plazaServe
  repeat' first
    | with_reducible assumption
    | with_reducible exact Keeps.refl _
    | with_reducible apply Keeps.ite
    | with_reducible apply Keeps.ite_fst
    | with_reducible apply settle_keeps
    | with_reducible apply lineWrite_keeps
    | with_reducible apply readLines_keeps
    | with_reducible refine Keeps.foldl ?_ (fun u x => ?_)
    | with_reducible refine Keeps.foldl_fst ?_ (fun u x => ?_)
    | with_reducible apply keepsParts_of
    | intro _
    | with_reducible refine Keeps.of_eq (by assumption) ?_
    | with_reducible refine Keeps.of_eq_snd (by assumption) ?_
    | simp only [keeps_mk]
    | split

theorem execPlazaAccess_keeps (rs : List PlazaReq) {s : State} : s.KeepsNext (execPlazaAccess rs s) := by
  unfold execPlazaAccess
  repeat' first
    | with_reducible assumption
    | with_reducible exact Keeps.refl _
    | with_reducible apply KeepsNext.next
    | with_reducible apply KeepsNext.ite
    | with_reducible apply Keeps.ite
    | with_reducible apply Keeps.ite_fst
    | with_reducible apply plazaServe_keeps
    | with_reducible refine Keeps.foldl ?_ (fun u x => ?_)
    | with_reducible refine Keeps.foldl_fst ?_ (fun u x => ?_)
    | with_reducible apply keepsParts_of
    | intro _
    | with_reducible refine Keeps.of_eq (by assumption) ?_
    | with_reducible refine Keeps.of_eq_snd (by assumption) ?_
    | simp only [keeps_mk]
    | split

theorem execUnitZeroed_keeps (lot : Bool) (i : ℕ) {s : State} : s.KeepsNext (execUnitZeroed lot i s) := by
  unfold execUnitZeroed
  repeat' first
    | with_reducible assumption
    | with_reducible exact Keeps.refl _
    | with_reducible apply KeepsNext.next
    | with_reducible apply KeepsNext.ite
    | with_reducible apply Keeps.ite
    | with_reducible apply setH_keeps
    | with_reducible apply lateDone_keeps
    | with_reducible apply wr_keeps
    | with_reducible apply wipe_keeps
    | with_reducible apply keepsParts_of
    | intro _
    | with_reducible refine Keeps.of_eq (by assumption) ?_
    | with_reducible refine Keeps.of_eq_snd (by assumption) ?_
    | simp only [keeps_mk]
    | split

theorem execMemoryRequest_keeps (tier : ℕ) (unit : ℕ) (r : MemReq) (serve : Bool) {s : State} : s.KeepsNext (execMemoryRequest tier unit r serve s) :=
    by
  unfold execMemoryRequest
  repeat' first
    | with_reducible assumption
    | with_reducible exact Keeps.refl _
    | with_reducible apply KeepsNext.next
    | with_reducible apply KeepsNext.ite
    | with_reducible apply Keeps.ite
    | with_reducible apply enqueue_keeps
    | with_reducible apply serveReq_keeps
    | with_reducible apply keepsParts_of
    | intro _
    | with_reducible refine Keeps.of_eq (by assumption) ?_
    | with_reducible refine Keeps.of_eq_snd (by assumption) ?_
    | simp only [keeps_mk]
    | split

theorem execReadComplete_keeps (tier : ℕ) (unit : ℕ) (addr : ℕ) (wrong : ℕ) (lane : ℕ) {s : State} : s.KeepsNext (execReadComplete tier unit addr
    wrong lane s) := by
  unfold execReadComplete
  repeat' first
    | with_reducible assumption
    | with_reducible exact Keeps.refl _
    | with_reducible apply KeepsNext.next
    | with_reducible apply KeepsNext.ite
    | with_reducible apply Keeps.ite
    | with_reducible apply Keeps.ite_fst
    | with_reducible apply dramRead_keeps
    | with_reducible apply keepsParts_of
    | intro _
    | with_reducible refine Keeps.of_eq (by assumption) ?_
    | with_reducible refine Keeps.of_eq_snd (by assumption) ?_
    | simp only [keeps_mk]
    | split

theorem execBankRefresh_keeps (tier : ℕ) (unit : ℕ) (ch : ℕ) (bank : ℕ) {s : State} : s.KeepsNext (execBankRefresh tier unit ch bank s) := by
  unfold execBankRefresh
  repeat' first
    | with_reducible assumption
    | with_reducible exact Keeps.refl _
    | with_reducible apply KeepsNext.next
    | with_reducible apply KeepsNext.ite
    | with_reducible apply Keeps.ite
    | with_reducible apply keepsParts_of
    | intro _
    | with_reducible refine Keeps.of_eq (by assumption) ?_
    | with_reducible refine Keeps.of_eq_snd (by assumption) ?_
    | simp only [keeps_mk]
    | split

theorem execScrub_keeps (tier : ℕ) (unit : ℕ) (ch : ℕ) (wrong : ℕ) (lane : ℕ) {s : State} : s.KeepsNext (execScrub tier unit ch wrong lane s) := by
  unfold execScrub
  repeat' first
    | with_reducible assumption
    | with_reducible exact Keeps.refl _
    | with_reducible apply KeepsNext.next
    | with_reducible apply KeepsNext.ite
    | with_reducible apply Keeps.ite
    | with_reducible apply Keeps.ite_fst
    | with_reducible apply dramRead_keeps
    | with_reducible apply setH_keeps
    | with_reducible apply keepsParts_of
    | intro _
    | with_reducible refine Keeps.of_eq (by assumption) ?_
    | with_reducible refine Keeps.of_eq_snd (by assumption) ?_
    | simp only [keeps_mk]
    | split

theorem execLaneFailure_keeps (k : ℕ) (p : ℕ) (lane : ℕ) {s : State} : s.KeepsNext (execLaneFailure k p lane s) := by
  unfold execLaneFailure
  repeat' first
    | with_reducible assumption
    | with_reducible exact Keeps.refl _
    | with_reducible apply KeepsNext.next
    | with_reducible apply KeepsNext.ite
    | with_reducible apply Keeps.ite
    | with_reducible apply laneFails_keeps
    | with_reducible apply keepsParts_of
    | intro _
    | with_reducible refine Keeps.of_eq (by assumption) ?_
    | with_reducible refine Keeps.of_eq_snd (by assumption) ?_
    | simp only [keeps_mk]
    | split

theorem execLaneRemap_keeps (k : ℕ) (p : ℕ) {s : State} : s.KeepsNext (execLaneRemap k p s) := by
  unfold execLaneRemap
  repeat' first
    | with_reducible assumption
    | with_reducible exact Keeps.refl _
    | with_reducible apply KeepsNext.next
    | with_reducible apply KeepsNext.ite
    | with_reducible apply Keeps.ite
    | with_reducible apply goTo_keeps
    | with_reducible apply setH_keeps
    | with_reducible apply keepsParts_of
    | intro _
    | with_reducible refine Keeps.of_eq (by assumption) ?_
    | with_reducible refine Keeps.of_eq_snd (by assumption) ?_
    | simp only [keeps_mk]
    | split

theorem execSpareTrained_keeps (k : ℕ) (p : ℕ) (ok : Bool) {s : State} : s.KeepsNext (execSpareTrained k p ok s) := by
  unfold execSpareTrained
  repeat' first
    | with_reducible assumption
    | with_reducible exact Keeps.refl _
    | with_reducible apply KeepsNext.next
    | with_reducible apply KeepsNext.ite
    | with_reducible apply Keeps.ite
    | with_reducible apply goTo_keeps
    | with_reducible apply setH_keeps
    | with_reducible apply wr_keeps
    | with_reducible apply requestRetire_keeps
    | with_reducible apply keepsParts_of
    | intro _
    | with_reducible refine Keeps.of_eq (by assumption) ?_
    | with_reducible refine Keeps.of_eq_snd (by assumption) ?_
    | simp only [keeps_mk]
    | split

theorem execLostScanComplete_keeps (k : ℕ) {s : State} : s.KeepsNext (execLostScanComplete k s) := by
  unfold execLostScanComplete
  repeat' first
    | with_reducible assumption
    | with_reducible exact Keeps.refl _
    | with_reducible apply KeepsNext.next
    | with_reducible apply KeepsNext.ite
    | with_reducible apply Keeps.ite
    | with_reducible apply dropLine_keeps
    | with_reducible apply writeBack_keeps
    | with_reducible apply bump_keeps
    | with_reducible apply revertLine_keeps
    | with_reducible refine Keeps.foldl ?_ (fun u x => ?_)
    | with_reducible refine Keeps.foldl_fst ?_ (fun u x => ?_)
    | with_reducible apply keepsParts_of
    | intro _
    | with_reducible refine Keeps.of_eq (by assumption) ?_
    | with_reducible refine Keeps.of_eq_snd (by assumption) ?_
    | simp only [keeps_mk]
    | split

theorem execRetirementCopyComplete_keeps (k : ℕ) {s : State} : s.KeepsNext (execRetirementCopyComplete k s) := by
  unfold execRetirementCopyComplete
  repeat' first
    | with_reducible assumption
    | with_reducible exact Keeps.refl _
    | with_reducible apply KeepsNext.next
    | with_reducible apply KeepsNext.ite
    | with_reducible apply Keeps.ite
    | with_reducible apply setH_keeps
    | with_reducible apply wr_keeps
    | with_reducible refine Keeps.foldl ?_ (fun u x => ?_)
    | with_reducible refine Keeps.foldl_fst ?_ (fun u x => ?_)
    | with_reducible apply keepsParts_of
    | intro _
    | with_reducible refine Keeps.of_eq (by assumption) ?_
    | with_reducible refine Keeps.of_eq_snd (by assumption) ?_
    | simp only [keeps_mk]
    | split

theorem execRepairApply_keeps (k : ℕ) (fits : Bool) {s : State} : s.KeepsNext (execRepairApply k fits s) := by
  unfold execRepairApply
  repeat' first
    | with_reducible assumption
    | with_reducible exact Keeps.refl _
    | with_reducible apply KeepsNext.next
    | with_reducible apply KeepsNext.ite
    | with_reducible apply Keeps.ite
    | with_reducible apply goTo_keeps
    | with_reducible apply keepsParts_of
    | intro _
    | with_reducible refine Keeps.of_eq (by assumption) ?_
    | with_reducible refine Keeps.of_eq_snd (by assumption) ?_
    | simp only [keeps_mk]
    | split

theorem State.badFrame_keeps {r s : State} (h : r.Keeps s) (d : ℕ) (val : ℕ) : r.Keeps (State.badFrame s d val) := by
  unfold State.badFrame
  repeat' first
    | with_reducible assumption
    | with_reducible exact Keeps.refl _
    | with_reducible apply Keeps.ite
    | with_reducible apply mark_keeps
    | with_reducible apply setH_keeps
    | with_reducible apply syncFrames_keeps
    | with_reducible apply wr_keeps
    | with_reducible apply keepsParts_of
    | intro _
    | with_reducible refine Keeps.of_eq (by assumption) ?_
    | with_reducible refine Keeps.of_eq_snd (by assumption) ?_
    | simp only [keeps_mk]
    | split

theorem State.askWithdraw_keeps {r s : State} (h : r.Keeps s) (who : ℕ) (d : ℕ) : r.Keeps (State.askWithdraw s who d) := by
  unfold State.askWithdraw
  repeat' first
    | with_reducible assumption
    | with_reducible exact Keeps.refl _
    | with_reducible apply Keeps.ite
    | with_reducible apply setH_keeps
    | with_reducible apply wr_keeps
    | with_reducible apply fnErr_keeps
    | with_reducible apply keepsParts_of
    | intro _
    | with_reducible refine Keeps.of_eq (by assumption) ?_
    | with_reducible refine Keeps.of_eq_snd (by assumption) ?_
    | simp only [keeps_mk]
    | split

theorem State.askService_keeps {r s : State} (h : r.Keeps s) (who : ℕ) (d : ℕ) : r.Keeps (State.askService s who d) := by
  unfold State.askService
  repeat' first
    | with_reducible assumption
    | with_reducible exact Keeps.refl _
    | with_reducible apply Keeps.ite
    | with_reducible apply fnErr_keeps
    | with_reducible apply wr_keeps
    | with_reducible apply syncFrames_keeps
    | with_reducible apply mark_keeps
    | with_reducible refine Keeps.foldl ?_ (fun u x => ?_)
    | with_reducible refine Keeps.foldl_fst ?_ (fun u x => ?_)
    | with_reducible apply keepsParts_of
    | intro _
    | with_reducible refine Keeps.of_eq (by assumption) ?_
    | with_reducible refine Keeps.of_eq_snd (by assumption) ?_
    | simp only [keeps_mk]
    | split

theorem execCartridgeSafe_keeps (d : ℕ) {s : State} : s.KeepsNext (execCartridgeSafe d s) := by
  unfold execCartridgeSafe
  repeat' first
    | with_reducible assumption
    | with_reducible exact Keeps.refl _
    | with_reducible apply KeepsNext.next
    | with_reducible apply KeepsNext.ite
    | with_reducible apply Keeps.ite
    | with_reducible apply setH_keeps
    | with_reducible apply wr_keeps
    | with_reducible apply keepsParts_of
    | intro _
    | with_reducible refine Keeps.of_eq (by assumption) ?_
    | with_reducible refine Keeps.of_eq_snd (by assumption) ?_
    | simp only [keeps_mk]
    | split

theorem execCartridgeInService_keeps (d : ℕ) {s : State} : s.KeepsNext (execCartridgeInService d s) := by
  unfold execCartridgeInService
  repeat' first
    | with_reducible assumption
    | with_reducible exact Keeps.refl _
    | with_reducible apply KeepsNext.next
    | with_reducible apply KeepsNext.ite
    | with_reducible apply Keeps.ite
    | with_reducible apply setH_keeps
    | with_reducible apply wr_keeps
    | with_reducible apply wipe_keeps
    | with_reducible apply keepsParts_of
    | intro _
    | with_reducible refine Keeps.of_eq (by assumption) ?_
    | with_reducible refine Keeps.of_eq_snd (by assumption) ?_
    | simp only [keeps_mk]
    | split

theorem execLatchOpen_keeps (d : ℕ) {s : State} : s.KeepsNext (execLatchOpen d s) := by
  unfold execLatchOpen
  repeat' first
    | with_reducible assumption
    | with_reducible exact Keeps.refl _
    | with_reducible apply KeepsNext.next
    | with_reducible apply KeepsNext.ite
    | with_reducible apply Keeps.ite
    | with_reducible apply setH_keeps
    | with_reducible apply wr_keeps
    | with_reducible apply bayOpens_keeps
    | with_reducible apply keepsParts_of
    | intro _
    | with_reducible refine Keeps.of_eq (by assumption) ?_
    | with_reducible refine Keeps.of_eq_snd (by assumption) ?_
    | simp only [keeps_mk]
    | split

theorem execLatchClose_keeps (d : ℕ) (genuine : Bool) (frames : List ℕ) {s : State} : s.KeepsNext (execLatchClose d genuine frames s) := by
  unfold execLatchClose
  repeat' first
    | with_reducible assumption
    | with_reducible exact Keeps.refl _
    | with_reducible apply KeepsNext.next
    | with_reducible apply KeepsNext.ite
    | with_reducible apply Keeps.ite
    | with_reducible apply setH_keeps
    | with_reducible apply wr_keeps
    | with_reducible apply keepsParts_of
    | intro _
    | with_reducible refine Keeps.of_eq (by assumption) ?_
    | with_reducible refine Keeps.of_eq_snd (by assumption) ?_
    | simp only [keeps_mk]
    | split

theorem execPresenceContactOpen_keeps (d : ℕ) {s : State} : s.KeepsNext (execPresenceContactOpen d s) := by
  unfold execPresenceContactOpen
  repeat' first
    | with_reducible assumption
    | with_reducible exact Keeps.refl _
    | with_reducible apply KeepsNext.next
    | with_reducible apply KeepsNext.ite
    | with_reducible apply Keeps.ite
    | with_reducible apply loseBay_keeps
    | with_reducible apply keepsParts_of
    | intro _
    | with_reducible refine Keeps.of_eq (by assumption) ?_
    | with_reducible refine Keeps.of_eq_snd (by assumption) ?_
    | simp only [keeps_mk]
    | split

theorem execPackedWrite_keeps (q : ℕ) (va : ℕ) (data : List Byte) (init : Initiator) {s : State} : s.KeepsNext (execPackedWrite q va data init s) :=
    by
  unfold execPackedWrite
  repeat' first
    | with_reducible assumption
    | with_reducible exact Keeps.refl _
    | with_reducible apply KeepsNext.next
    | with_reducible apply KeepsNext.ite
    | with_reducible apply Keeps.ite
    | with_reducible apply Keeps.ite_fst
    | with_reducible apply xlate_keeps
    | with_reducible apply vwrite_keeps
    | with_reducible apply keepsParts_of
    | intro _
    | with_reducible refine Keeps.of_eq (by assumption) ?_
    | with_reducible refine Keeps.of_eq_snd (by assumption) ?_
    | simp only [keeps_mk]
    | split

theorem State.retryPacked_keeps {r s : State} (h : r.Keeps s) (x : PackStall) : r.Keeps (State.retryPacked s x).1 := by
  unfold State.retryPacked
  repeat' first
    | with_reducible assumption
    | with_reducible exact Keeps.refl _
    | with_reducible apply Keeps.ite
    | with_reducible apply Keeps.ite_fst
    | with_reducible apply packedWriteAt_keeps
    | with_reducible apply migDone_keeps
    | with_reducible apply packedFault_keeps
    | with_reducible apply writeOne_keeps
    | with_reducible apply settle_keeps
    | with_reducible apply packedRead_keeps
    | with_reducible apply keepsParts_of
    | intro _
    | with_reducible refine Keeps.of_eq (by assumption) ?_
    | with_reducible refine Keeps.of_eq_snd (by assumption) ?_
    | simp only [keeps_mk]
    | split

theorem execPoolRecheck_keeps (q : ℕ) {s : State} : s.KeepsNext (execPoolRecheck q s) := by
  unfold execPoolRecheck
  repeat' first
    | with_reducible assumption
    | with_reducible exact Keeps.refl _
    | with_reducible apply KeepsNext.next
    | with_reducible apply KeepsNext.ite
    | with_reducible apply Keeps.ite
    | with_reducible apply Keeps.ite_fst
    | with_reducible apply retryPacked_keeps
    | with_reducible apply dirBusy_keeps
    | with_reducible apply ev_keeps
    | with_reducible apply wr_keeps
    | with_reducible apply keepsParts_of
    | intro _
    | with_reducible refine Keeps.of_eq (by assumption) ?_
    | with_reducible refine Keeps.of_eq_snd (by assumption) ?_
    | simp only [keeps_mk]
    | split

theorem execBusyRecheck_keeps (q : ℕ) (va : ℕ) {s : State} : s.KeepsNext (execBusyRecheck q va s) := by
  unfold execBusyRecheck
  repeat' first
    | with_reducible assumption
    | with_reducible exact Keeps.refl _
    | with_reducible apply KeepsNext.next
    | with_reducible apply KeepsNext.ite
    | with_reducible apply Keeps.ite
    | with_reducible apply Keeps.ite_fst
    | with_reducible apply retryPacked_keeps
    | with_reducible apply ev_keeps
    | with_reducible apply keepsParts_of
    | intro _
    | with_reducible refine Keeps.of_eq (by assumption) ?_
    | with_reducible refine Keeps.of_eq_snd (by assumption) ?_
    | simp only [keeps_mk]
    | split

theorem execExpanderDecode_keeps (q : ℕ) (va : ℕ) (j : ℕ) (first : ℕ) (last : ℕ) (inWait : ℕ) (outWait : ℕ) {s : State} : s.KeepsNext
    (execExpanderDecode q va j first last inWait outWait s) := by
  unfold execExpanderDecode
  repeat' first
    | with_reducible assumption
    | with_reducible exact Keeps.refl _
    | with_reducible apply KeepsNext.next
    | with_reducible apply KeepsNext.ite
    | with_reducible apply Keeps.ite
    | with_reducible apply Keeps.ite_fst
    | with_reducible apply xlate_keeps
    | with_reducible apply readDir_keeps
    | with_reducible apply packedFault_keeps
    | with_reducible apply dirDamage_keeps
    | with_reducible apply waitForDir_keeps
    | with_reducible apply expand_keeps
    | with_reducible apply ev_keeps
    | with_reducible apply keepsParts_of
    | intro _
    | with_reducible refine Keeps.of_eq (by assumption) ?_
    | with_reducible refine Keeps.of_eq_snd (by assumption) ?_
    | simp only [keeps_mk]
    | split

theorem State.eaPut_keeps {r s : State} (h : r.Keeps s) (k : ℕ) (p : ℕ) (ea : ℕ) (d : List Byte) : r.Keeps (State.eaPut s k p ea d) := by
  unfold State.eaPut
  repeat' first
    | with_reducible assumption
    | with_reducible exact Keeps.refl _
    | with_reducible apply Keeps.ite
    | with_reducible apply setBytes_keeps
    | with_reducible apply setPoison_keeps
    | with_reducible apply keepsParts_of
    | intro _
    | with_reducible refine Keeps.of_eq (by assumption) ?_
    | with_reducible refine Keeps.of_eq_snd (by assumption) ?_
    | simp only [keeps_mk]
    | split

theorem State.eaWrite_keeps {r s : State} (h : r.Keeps s) (k : ℕ) (p : ℕ) (ea : ℕ) (n : ℕ) (v : ℕ) : r.Keeps (State.eaWrite s k p ea n v) := by
  unfold State.eaWrite
  repeat' first
    | with_reducible assumption
    | with_reducible exact Keeps.refl _
    | with_reducible apply Keeps.ite
    | with_reducible apply eaPut_keeps
    | with_reducible refine Keeps.foldl ?_ (fun u x => ?_)
    | with_reducible refine Keeps.foldl_fst ?_ (fun u x => ?_)
    | with_reducible apply keepsParts_of
    | intro _
    | with_reducible refine Keeps.of_eq (by assumption) ?_
    | with_reducible refine Keeps.of_eq_snd (by assumption) ?_
    | simp only [keeps_mk]
    | split

theorem State.noteRead_keeps {r s : State} (h : r.Keeps s) (k : ℕ) (a : ℕ) : r.Keeps (State.noteRead s k a) := by
  unfold State.noteRead
  repeat' first
    | with_reducible assumption
    | with_reducible exact Keeps.refl _
    | with_reducible apply Keeps.ite
    | with_reducible apply ueLog_keeps
    | with_reducible apply uncorrectable_keeps
    | with_reducible apply bump_keeps
    | with_reducible apply setH_keeps
    | with_reducible apply keepsParts_of
    | intro _
    | with_reducible refine Keeps.of_eq (by assumption) ?_
    | with_reducible refine Keeps.of_eq_snd (by assumption) ?_
    | simp only [keeps_mk]
    | split

theorem State.bankReads_keeps {r : State} {o : State.BankOut} (h : r.Keeps o.st) (k : ℕ) (p : ℕ) (rs : List (ℕ × ℕ)) :
    r.Keeps (State.bankReads o k p rs).1.st := h

theorem State.gemvStore_keeps {r : State} {o : State.BankOut} (h : r.Keeps o.st) (k : ℕ) (p : ℕ) (d : ℕ) (g : ℕ) (t : ℕ) : r.Keeps (State.gemvStore o
    k p d g t).st := by
  unfold State.gemvStore
  repeat' first
    | with_reducible assumption
    | with_reducible exact Keeps.refl _
    | with_reducible apply Keeps.ite
    | with_reducible apply Keeps.ite_st
    | with_reducible apply bankReads_keeps
    | with_reducible apply eaWrite_keeps
    | with_reducible apply keepsParts_of
    | intro _
    | with_reducible refine Keeps.of_eq (by assumption) ?_
    | with_reducible refine Keeps.of_eq_snd (by assumption) ?_
    | simp only [keeps_mk]
    | split

theorem State.gemvBlock_keeps {r : State} {o : State.BankOut} (h : r.Keeps o.st) (k : ℕ) (p : ℕ) (d : ℕ) (g : ℕ) (kb : ℕ) : r.Keeps (State.gemvBlock o
    k p d g kb).st := by
  unfold State.gemvBlock
  repeat' first
    | with_reducible assumption
    | with_reducible exact Keeps.refl _
    | with_reducible apply Keeps.ite
    | with_reducible apply Keeps.ite_st
    | with_reducible apply bankReads_keeps
    | with_reducible apply keepsParts_of
    | intro _
    | with_reducible refine Keeps.of_eq (by assumption) ?_
    | with_reducible refine Keeps.of_eq_snd (by assumption) ?_
    | simp only [keeps_mk]
    | split

theorem State.gemvStep_keeps {r0 : State} {o : State.BankOut} (h : r0.Keeps o.st) (k : ℕ) (p : ℕ) (d : ℕ) (g : ℕ) (r : ℕ) : r0.Keeps (State.gemvStep o
    k p d g r).st := by
  unfold State.gemvStep
  repeat' first
    | with_reducible assumption
    | with_reducible exact Keeps.refl _
    | with_reducible apply Keeps.ite
    | with_reducible apply Keeps.ite_st
    | with_reducible apply gemvBlock_keeps
    | with_reducible apply bankReads_keeps
    | with_reducible apply keepsParts_of
    | intro _
    | with_reducible refine Keeps.of_eq (by assumption) ?_
    | with_reducible refine Keeps.of_eq_snd (by assumption) ?_
    | simp only [keeps_mk]
    | split

theorem State.gemvUnit_keeps {r : State} {o : State.BankOut} (h : r.Keeps o.st) (k : ℕ) (p : ℕ) (d : ℕ) (n : ℕ) : r.Keeps (State.gemvUnit o k p d
    n).st := by
  unfold State.gemvUnit
  repeat' first
    | with_reducible assumption
    | with_reducible exact Keeps.refl _
    | with_reducible apply Keeps.ite
    | with_reducible apply Keeps.ite_st
    | with_reducible apply gemvStep_keeps
    | with_reducible apply gemvStore_keeps
    | with_reducible apply keepsParts_of
    | intro _
    | with_reducible refine Keeps.of_eq (by assumption) ?_
    | with_reducible refine Keeps.of_eq_snd (by assumption) ?_
    | simp only [keeps_mk]
    | split

theorem State.outerUnit_keeps {r : State} {o : State.BankOut} (h : r.Keeps o.st) (k : ℕ) (p : ℕ) (d : ℕ) (n : ℕ) : r.Keeps (State.outerUnit o k p d
    n).st := by
  unfold State.outerUnit
  repeat' first
    | with_reducible assumption
    | with_reducible exact Keeps.refl _
    | with_reducible apply Keeps.ite
    | with_reducible apply Keeps.ite_st
    | with_reducible apply bankReads_keeps
    | with_reducible apply eaWrite_keeps
    | with_reducible refine Keeps.foldl ?_ (fun u x => ?_)
    | with_reducible refine Keeps.foldl_fst ?_ (fun u x => ?_)
    | with_reducible refine Keeps.foldl_st ?_ (fun u x => ?_)
    | with_reducible apply keepsParts_of
    | intro _
    | with_reducible refine Keeps.of_eq (by assumption) ?_
    | with_reducible refine Keeps.of_eq_snd (by assumption) ?_
    | simp only [keeps_mk]
    | split

theorem State.rowaddIndex_keeps {r : State} {o : State.BankOut} (h : r.Keeps o.st) (k : ℕ) (p : ℕ) (d : ℕ) (i : ℕ) : r.Keeps (State.rowaddIndex o k p
    d i).st := by
  unfold State.rowaddIndex
  repeat' first
    | with_reducible assumption
    | with_reducible exact Keeps.refl _
    | with_reducible apply Keeps.ite
    | with_reducible apply Keeps.ite_st
    | with_reducible apply bankReads_keeps
    | with_reducible apply keepsParts_of
    | intro _
    | with_reducible refine Keeps.of_eq (by assumption) ?_
    | with_reducible refine Keeps.of_eq_snd (by assumption) ?_
    | simp only [keeps_mk]
    | split

theorem State.rowaddUnit_keeps {r : State} {o : State.BankOut} (h : r.Keeps o.st) (k : ℕ) (p : ℕ) (d : ℕ) (n : ℕ) : r.Keeps (State.rowaddUnit o k p d
    n).st := by
  unfold State.rowaddUnit
  repeat' first
    | with_reducible assumption
    | with_reducible exact Keeps.refl _
    | with_reducible apply Keeps.ite
    | with_reducible apply Keeps.ite_st
    | with_reducible apply rowaddIndex_keeps
    | with_reducible apply bankReads_keeps
    | with_reducible apply eaWrite_keeps
    | with_reducible apply keepsParts_of
    | intro _
    | with_reducible refine Keeps.of_eq (by assumption) ?_
    | with_reducible refine Keeps.of_eq_snd (by assumption) ?_
    | simp only [keeps_mk]
    | split

theorem State.burstUnit_keeps {r : State} {o : State.BankOut} (h : r.Keeps o.st) (k : ℕ) (p : ℕ) (d : ℕ) (n : ℕ) : r.Keeps (State.burstUnit o k p d
    n).st := by
  unfold State.burstUnit
  repeat' first
    | with_reducible assumption
    | with_reducible exact Keeps.refl _
    | with_reducible apply Keeps.ite
    | with_reducible apply Keeps.ite_st
    | with_reducible apply gemvUnit_keeps
    | with_reducible apply outerUnit_keeps
    | with_reducible apply rowaddUnit_keeps
    | with_reducible apply keepsParts_of
    | intro _
    | with_reducible refine Keeps.of_eq (by assumption) ?_
    | with_reducible refine Keeps.of_eq_snd (by assumption) ?_
    | simp only [keeps_mk]
    | split

theorem State.runUnits_keeps {r s : State} (h : r.Keeps s) (k : ℕ) (p : ℕ) (d : ℕ) (n : ℕ) : r.Keeps (State.runUnits s k p d n).st := by
  unfold State.runUnits
  repeat' first
    | with_reducible assumption
    | with_reducible exact Keeps.refl _
    | with_reducible apply Keeps.ite
    | with_reducible apply Keeps.ite_st
    | with_reducible apply burstUnit_keeps
    | with_reducible refine Keeps.foldl ?_ (fun u x => ?_)
    | with_reducible refine Keeps.foldl_fst ?_ (fun u x => ?_)
    | with_reducible refine Keeps.foldl_st ?_ (fun u x => ?_)
    | with_reducible apply keepsParts_of
    | intro _
    | with_reducible refine Keeps.of_eq (by assumption) ?_
    | with_reducible refine Keeps.of_eq_snd (by assumption) ?_
    | simp only [keeps_mk]
    | split

theorem State.performCmd_keeps {r s : State} (h : r.Keeps s) (k : ℕ) (p : ℕ) (d : ℕ) (n : ℕ) (fin : Option ℕ) : r.Keeps (State.performCmd s k p d n
    fin) := by
  unfold State.performCmd
  repeat' first
    | with_reducible assumption
    | with_reducible exact Keeps.refl _
    | with_reducible apply Keeps.ite
    | with_reducible apply Keeps.ite_st
    | with_reducible apply runUnits_keeps
    | with_reducible apply setEngine_keeps
    | with_reducible apply retireCmd_keeps
    | with_reducible apply noteRead_keeps
    | with_reducible refine Keeps.foldl ?_ (fun u x => ?_)
    | with_reducible refine Keeps.foldl_fst ?_ (fun u x => ?_)
    | with_reducible refine Keeps.foldl_st ?_ (fun u x => ?_)
    | with_reducible apply keepsParts_of
    | intro _
    | with_reducible refine Keeps.of_eq (by assumption) ?_
    | with_reducible refine Keeps.of_eq_snd (by assumption) ?_
    | simp only [keeps_mk]
    | split

theorem State.burstsDone_keeps {r s : State} (h : r.Keeps s) (k : ℕ) (p : ℕ) : r.Keeps (State.burstsDone s k p) := by
  unfold State.burstsDone
  repeat' first
    | with_reducible assumption
    | with_reducible exact Keeps.refl _
    | with_reducible apply Keeps.ite
    | with_reducible apply performCmd_keeps
    | with_reducible apply keepsParts_of
    | intro _
    | with_reducible refine Keeps.of_eq (by assumption) ?_
    | with_reducible refine Keeps.of_eq_snd (by assumption) ?_
    | simp only [keeps_mk]
    | split

theorem State.stepCmd_keeps {r s : State} (h : r.Keeps s) (k : ℕ) (p : ℕ) (isOp : ℕ → Bool) : r.Keeps (State.stepCmd s k p isOp) := by
  unfold State.stepCmd
  repeat' first
    | with_reducible assumption
    | with_reducible exact Keeps.refl _
    | with_reducible apply Keeps.ite
    | with_reducible apply burstsDone_keeps
    | with_reducible apply performCmd_keeps
    | with_reducible apply ev_keeps
    | with_reducible apply retireCmd_keeps
    | with_reducible apply syncBusy_keeps
    | with_reducible apply setEngine_keeps
    | with_reducible apply keepsParts_of
    | intro _
    | with_reducible refine Keeps.of_eq (by assumption) ?_
    | with_reducible refine Keeps.of_eq_snd (by assumption) ?_
    | simp only [keeps_mk]
    | split

theorem State.signalCmd_keeps {r s : State} (h : r.Keeps s) (k : ℕ) (p : ℕ) : r.Keeps (State.signalCmd s k p) := by
  unfold State.signalCmd
  repeat' first
    | with_reducible assumption
    | with_reducible exact Keeps.refl _
    | with_reducible apply Keeps.ite
    | with_reducible apply retireCmd_keeps
    | with_reducible apply signalBar_keeps
    | with_reducible apply setEngine_keeps
    | with_reducible apply keepsParts_of
    | intro _
    | with_reducible refine Keeps.of_eq (by assumption) ?_
    | with_reducible refine Keeps.of_eq_snd (by assumption) ?_
    | simp only [keeps_mk]
    | split

theorem State.copyOnce_keeps {r s : State} (h : r.Keeps s) (k : ℕ) (p : ℕ) : r.Keeps (State.copyOnce s k p) := by
  unfold State.copyOnce
  repeat' first
    | with_reducible assumption
    | with_reducible exact Keeps.refl _
    | with_reducible apply Keeps.ite
    | with_reducible apply setEngine_keeps
    | with_reducible apply eaWrite_keeps
    | with_reducible apply keepsParts_of
    | intro _
    | with_reducible refine Keeps.of_eq (by assumption) ?_
    | with_reducible refine Keeps.of_eq_snd (by assumption) ?_
    | simp only [keeps_mk]
    | split

theorem State.cutEngines_keeps {r s : State} (h : r.Keeps s) : r.Keeps (State.cutEngines s) := by
  unfold State.cutEngines
  repeat' first
    | with_reducible assumption
    | with_reducible exact Keeps.refl _
    | with_reducible apply Keeps.ite
    | with_reducible apply performCmd_keeps
    | with_reducible refine Keeps.foldl ?_ (fun u x => ?_)
    | with_reducible refine Keeps.foldl_fst ?_ (fun u x => ?_)
    | with_reducible apply keepsParts_of
    | intro _
    | with_reducible refine Keeps.of_eq (by assumption) ?_
    | with_reducible refine Keeps.of_eq_snd (by assumption) ?_
    | simp only [keeps_mk]
    | split

theorem State.zeroRegs_keeps {r s : State} (h : r.Keeps s) : r.Keeps (State.zeroRegs s) := by
  unfold State.zeroRegs
  repeat' first
    | with_reducible assumption
    | with_reducible exact Keeps.refl _
    | with_reducible apply Keeps.ite
    | with_reducible apply keepsParts_of
    | intro _
    | with_reducible refine Keeps.of_eq (by assumption) ?_
    | with_reducible refine Keeps.of_eq_snd (by assumption) ?_
    | simp only [keeps_mk]
    | split

theorem State.windowDo_keeps {r s : State} (h : r.Keeps s) (w : WinWrite) (k : ℕ) (inside : Bool) (f : State → State) (hf : ∀ (u : State), u.Keeps (f
    u)) : r.Keeps (State.windowDo s w k inside f) := by
  unfold State.windowDo
  repeat' first
    | with_reducible assumption
    | with_reducible exact Keeps.refl _
    | with_reducible apply Keeps.ite
    | with_reducible refine Keeps.trans ?_ (hf _)
    | with_reducible apply raiseFault_keeps
    | with_reducible apply keepsParts_of
    | intro _
    | with_reducible refine Keeps.of_eq (by assumption) ?_
    | with_reducible refine Keeps.of_eq_snd (by assumption) ?_
    | simp only [keeps_mk]
    | split

theorem execCommandPush_keeps (w : WinWrite) (k : ℕ) (p : ℕ) (full : Bool) (line : Line) {s : State} : s.KeepsNext (execCommandPush w k p full line s)
    := by
  unfold execCommandPush
  repeat' first
    | with_reducible assumption
    | with_reducible exact Keeps.refl _
    | with_reducible apply KeepsNext.next
    | with_reducible apply KeepsNext.ite
    | with_reducible apply Keeps.ite
    | with_reducible apply windowDo_keeps
    | with_reducible apply pushEngine_keeps
    | with_reducible apply windowErr_keeps
    | with_reducible apply keepsParts_of
    | intro _
    | with_reducible refine Keeps.of_eq (by assumption) ?_
    | with_reducible refine Keeps.of_eq_snd (by assumption) ?_
    | simp only [keeps_mk]
    | split

theorem execBroadcastPush_keeps (w : WinWrite) (k : ℕ) (full : Bool) (line : Line) {s : State} : s.KeepsNext (execBroadcastPush w k full line s) := by
  unfold execBroadcastPush
  repeat' first
    | with_reducible assumption
    | with_reducible exact Keeps.refl _
    | with_reducible apply KeepsNext.next
    | with_reducible apply KeepsNext.ite
    | with_reducible apply Keeps.ite
    | with_reducible apply windowDo_keeps
    | with_reducible apply pushAll_keeps
    | with_reducible apply windowErr_keeps
    | with_reducible apply keepsParts_of
    | intro _
    | with_reducible refine Keeps.of_eq (by assumption) ?_
    | with_reducible refine Keeps.of_eq_snd (by assumption) ?_
    | simp only [keeps_mk]
    | split

theorem execBroadcastDataWrite_keeps (w : WinWrite) (k : ℕ) (off : ℕ) (data : List Byte) {s : State} : s.KeepsNext (execBroadcastDataWrite w k off
    data s) := by
  unfold execBroadcastDataWrite
  repeat' first
    | with_reducible assumption
    | with_reducible exact Keeps.refl _
    | with_reducible apply KeepsNext.next
    | with_reducible apply KeepsNext.ite
    | with_reducible apply Keeps.ite
    | with_reducible apply windowDo_keeps
    | with_reducible apply bcastData_keeps
    | with_reducible apply keepsParts_of
    | intro _
    | with_reducible refine Keeps.of_eq (by assumption) ?_
    | with_reducible refine Keeps.of_eq_snd (by assumption) ?_
    | simp only [keeps_mk]
    | split

theorem execBroadcastCopy_keeps (k : ℕ) (p : ℕ) {s : State} : s.KeepsNext (execBroadcastCopy k p s) := by
  unfold execBroadcastCopy
  repeat' first
    | with_reducible assumption
    | with_reducible exact Keeps.refl _
    | with_reducible apply KeepsNext.next
    | with_reducible apply KeepsNext.ite
    | with_reducible apply Keeps.ite
    | with_reducible apply copyOnce_keeps
    | with_reducible apply burstsDone_keeps
    | with_reducible apply keepsParts_of
    | intro _
    | with_reducible refine Keeps.of_eq (by assumption) ?_
    | with_reducible refine Keeps.of_eq_snd (by assumption) ?_
    | simp only [keeps_mk]
    | split

theorem execEngineClear_keeps (w : WinWrite) (k : ℕ) (p : ℕ) (full : Bool) {s : State} : s.KeepsNext (execEngineClear w k p full s) := by
  unfold execEngineClear
  repeat' first
    | with_reducible assumption
    | with_reducible exact Keeps.refl _
    | with_reducible apply KeepsNext.next
    | with_reducible apply KeepsNext.ite
    | with_reducible apply Keeps.ite
    | with_reducible apply windowDo_keeps
    | with_reducible apply clearEngine_keeps
    | with_reducible apply keepsParts_of
    | intro _
    | with_reducible refine Keeps.of_eq (by assumption) ?_
    | with_reducible refine Keeps.of_eq_snd (by assumption) ?_
    | simp only [keeps_mk]
    | split

theorem execBankReady_keeps (k : ℕ) {s : State} : s.KeepsNext (execBankReady k s) := by
  unfold execBankReady
  repeat' first
    | with_reducible assumption
    | with_reducible exact Keeps.refl _
    | with_reducible apply KeepsNext.next
    | with_reducible apply KeepsNext.ite
    | with_reducible apply Keeps.ite
    | with_reducible apply wr_keeps
    | with_reducible apply flushLines_keeps
    | with_reducible apply keepsParts_of
    | intro _
    | with_reducible refine Keeps.of_eq (by assumption) ?_
    | with_reducible refine Keeps.of_eq_snd (by assumption) ?_
    | simp only [keeps_mk]
    | split

theorem execBankNop_keeps (k : ℕ) (p : ℕ) (t : ℕ) {s : State} : s.KeepsNext (execBankNop k p t s) := by
  unfold execBankNop
  repeat' first
    | with_reducible assumption
    | with_reducible exact Keeps.refl _
    | with_reducible apply KeepsNext.next
    | with_reducible apply KeepsNext.ite
    | with_reducible apply Keeps.ite
    | with_reducible apply stepCmd_keeps
    | with_reducible apply goTo_keeps
    | with_reducible apply keepsParts_of
    | intro _
    | with_reducible refine Keeps.of_eq (by assumption) ?_
    | with_reducible refine Keeps.of_eq_snd (by assumption) ?_
    | simp only [keeps_mk]
    | split

theorem execGemv_keeps (k : ℕ) (p : ℕ) (t : ℕ) {s : State} : s.KeepsNext (execGemv k p t s) := by
  unfold execGemv
  repeat' first
    | with_reducible assumption
    | with_reducible exact Keeps.refl _
    | with_reducible apply KeepsNext.next
    | with_reducible apply KeepsNext.ite
    | with_reducible apply Keeps.ite
    | with_reducible apply stepCmd_keeps
    | with_reducible apply goTo_keeps
    | with_reducible apply keepsParts_of
    | intro _
    | with_reducible refine Keeps.of_eq (by assumption) ?_
    | with_reducible refine Keeps.of_eq_snd (by assumption) ?_
    | simp only [keeps_mk]
    | split

theorem execOuter_keeps (k : ℕ) (p : ℕ) (t : ℕ) {s : State} : s.KeepsNext (execOuter k p t s) := by
  unfold execOuter
  repeat' first
    | with_reducible assumption
    | with_reducible exact Keeps.refl _
    | with_reducible apply KeepsNext.next
    | with_reducible apply KeepsNext.ite
    | with_reducible apply Keeps.ite
    | with_reducible apply stepCmd_keeps
    | with_reducible apply goTo_keeps
    | with_reducible apply keepsParts_of
    | intro _
    | with_reducible refine Keeps.of_eq (by assumption) ?_
    | with_reducible refine Keeps.of_eq_snd (by assumption) ?_
    | simp only [keeps_mk]
    | split

theorem execRowadd_keeps (k : ℕ) (p : ℕ) (t : ℕ) {s : State} : s.KeepsNext (execRowadd k p t s) := by
  unfold execRowadd
  repeat' first
    | with_reducible assumption
    | with_reducible exact Keeps.refl _
    | with_reducible apply KeepsNext.next
    | with_reducible apply KeepsNext.ite
    | with_reducible apply Keeps.ite
    | with_reducible apply stepCmd_keeps
    | with_reducible apply goTo_keeps
    | with_reducible apply keepsParts_of
    | intro _
    | with_reducible refine Keeps.of_eq (by assumption) ?_
    | with_reducible refine Keeps.of_eq_snd (by assumption) ?_
    | simp only [keeps_mk]
    | split

theorem execSignal_keeps (k : ℕ) (p : ℕ) (t : ℕ) {s : State} : s.KeepsNext (execSignal k p t s) := by
  unfold execSignal
  repeat' first
    | with_reducible assumption
    | with_reducible exact Keeps.refl _
    | with_reducible apply KeepsNext.next
    | with_reducible apply KeepsNext.ite
    | with_reducible apply Keeps.ite
    | with_reducible apply goTo_keeps
    | with_reducible apply signalCmd_keeps
    | with_reducible apply stepCmd_keeps
    | with_reducible apply keepsParts_of
    | intro _
    | with_reducible refine Keeps.of_eq (by assumption) ?_
    | with_reducible refine Keeps.of_eq_snd (by assumption) ?_
    | simp only [keeps_mk]
    | split

theorem execBurstBoundary_keeps (k : ℕ) (p : ℕ) (hold : ℕ) (yielded : ℕ) {s : State} : s.KeepsNext (execBurstBoundary k p hold yielded s) := by
  unfold execBurstBoundary
  repeat' first
    | with_reducible assumption
    | with_reducible exact Keeps.refl _
    | with_reducible apply KeepsNext.next
    | with_reducible apply KeepsNext.ite
    | with_reducible apply Keeps.ite
    | with_reducible apply burstsDone_keeps
    | with_reducible apply ev_keeps
    | with_reducible apply bump_keeps
    | with_reducible apply serveBanks_keeps
    | with_reducible apply setEngine_keeps
    | with_reducible apply keepsParts_of
    | intro _
    | with_reducible refine Keeps.of_eq (by assumption) ?_
    | with_reducible refine Keeps.of_eq_snd (by assumption) ?_
    | simp only [keeps_mk]
    | split

theorem State.scratchWrite_keeps {r s : State} (h : r.Keeps s) (q : ℕ) (a : ℕ) (d : List Byte) : r.Keeps (State.scratchWrite s q a d) := by
  unfold State.scratchWrite
  repeat' first
    | with_reducible assumption
    | with_reducible exact Keeps.refl _
    | with_reducible apply Keeps.ite
    | with_reducible apply writePiece_keeps
    | with_reducible refine Keeps.foldl ?_ (fun u x => ?_)
    | with_reducible refine Keeps.foldl_fst ?_ (fun u x => ?_)
    | with_reducible apply keepsParts_of
    | intro _
    | with_reducible refine Keeps.of_eq (by assumption) ?_
    | with_reducible refine Keeps.of_eq_snd (by assumption) ?_
    | simp only [keeps_mk]
    | split

theorem State.setSlot_keeps {r s : State} (h : r.Keeps s) (u : ℕ) (k : ℕ) (st : ℕ) (q : ℕ) : r.Keeps (State.setSlot s u k st q) := by
  unfold State.setSlot
  repeat' first
    | with_reducible assumption
    | with_reducible exact Keeps.refl _
    | with_reducible apply Keeps.ite
    | with_reducible apply wr_keeps
    | with_reducible apply keepsParts_of
    | intro _
    | with_reducible refine Keeps.of_eq (by assumption) ?_
    | with_reducible refine Keeps.of_eq_snd (by assumption) ?_
    | simp only [keeps_mk]
    | split

theorem State.pagesHome_keeps {r s : State} (h : r.Keeps s) (c : Client) (u : ℕ) (va : ℕ) (n : ℕ) (write : Bool) (y6 : ℕ) : r.Keeps (State.pagesHome s
    c u va n write y6).1 := by
  induction y6 generalizing s c u va n write with
  | zero =>
    unfold State.pagesHome
    repeat' first
      | with_reducible assumption
      | with_reducible exact Keeps.refl _
      | with_reducible apply Keeps.ite
      | with_reducible apply Keeps.ite_fst
      | with_reducible apply xlate_keeps
      | with_reducible apply keepsParts_of
      | intro _
      | with_reducible refine Keeps.of_eq (by assumption) ?_
      | with_reducible refine Keeps.of_eq_snd (by assumption) ?_
      | simp only [keeps_mk]
      | split
  | succ n0 ih =>
    unfold State.pagesHome
    repeat' first
      | with_reducible assumption
      | with_reducible exact Keeps.refl _
      | with_reducible apply Keeps.ite
      | with_reducible apply Keeps.ite_fst
      | with_reducible apply xlate_keeps
      | with_reducible apply ih
      | with_reducible apply keepsParts_of
      | intro _
      | with_reducible refine Keeps.of_eq (by assumption) ?_
      | with_reducible refine Keeps.of_eq_snd (by assumption) ?_
      | simp only [keeps_mk]
      | split

theorem State.inHome_keeps {r s : State} (h : r.Keeps s) (c : Client) (u : ℕ) (va : ℕ) (n : ℕ) (write : Bool) : r.Keeps (State.inHome s c u va n
    write).1 := by
  unfold State.inHome
  repeat' first
    | with_reducible assumption
    | with_reducible exact Keeps.refl _
    | with_reducible apply Keeps.ite
    | with_reducible apply Keeps.ite_fst
    | with_reducible apply pagesHome_keeps
    | with_reducible apply keepsParts_of
    | intro _
    | with_reducible refine Keeps.of_eq (by assumption) ?_
    | with_reducible refine Keeps.of_eq_snd (by assumption) ?_
    | simp only [keeps_mk]
    | split

theorem State.homeWrite_keeps {r s : State} (h : r.Keeps s) (c : Client) (u : ℕ) (va : ℕ) (d : List Byte) : r.Keeps (State.homeWrite s c u va d).1 :=
    by
  unfold State.homeWrite
  repeat' first
    | with_reducible assumption
    | with_reducible exact Keeps.refl _
    | with_reducible apply Keeps.ite
    | with_reducible apply Keeps.ite_fst
    | with_reducible apply inHome_keeps
    | with_reducible apply vwrite_keeps
    | with_reducible apply keepsParts_of
    | intro _
    | with_reducible refine Keeps.of_eq (by assumption) ?_
    | with_reducible refine Keeps.of_eq_snd (by assumption) ?_
    | simp only [keeps_mk]
    | split

theorem State.homeRead_keeps {r s : State} (h : r.Keeps s) (c : Client) (u : ℕ) (va : ℕ) (n : ℕ) : r.Keeps (State.homeRead s c u va n).1 := by
  unfold State.homeRead
  repeat' first
    | with_reducible assumption
    | with_reducible exact Keeps.refl _
    | with_reducible apply Keeps.ite
    | with_reducible apply Keeps.ite_fst
    | with_reducible apply inHome_keeps
    | with_reducible apply vread_keeps
    | with_reducible apply keepsParts_of
    | intro _
    | with_reducible refine Keeps.of_eq (by assumption) ?_
    | with_reducible refine Keeps.of_eq_snd (by assumption) ?_
    | simp only [keeps_mk]
    | split

theorem State.syncUnit_keeps {r s : State} (h : r.Keeps s) (u : ℕ) : r.Keeps (State.syncUnit s u) := by
  unfold State.syncUnit
  repeat' first
    | with_reducible assumption
    | with_reducible exact Keeps.refl _
    | with_reducible apply Keeps.ite
    | with_reducible apply wr_keeps
    | with_reducible apply keepsParts_of
    | intro _
    | with_reducible refine Keeps.of_eq (by assumption) ?_
    | with_reducible refine Keeps.of_eq_snd (by assumption) ?_
    | simp only [keeps_mk]
    | split

theorem State.putLine_keeps {r s : State} (h : r.Keeps s) (c : Client) (recVA : ℕ) (line : ℕ) : r.Keeps (State.putLine s c recVA line).1 := by
  unfold State.putLine
  repeat' first
    | with_reducible assumption
    | with_reducible exact Keeps.refl _
    | with_reducible apply Keeps.ite
    | with_reducible apply Keeps.ite_fst
    | with_reducible apply vwrite_keeps
    | with_reducible apply keepsParts_of
    | intro _
    | with_reducible refine Keeps.of_eq (by assumption) ?_
    | with_reducible refine Keeps.of_eq_snd (by assumption) ?_
    | simp only [keeps_mk]
    | split

theorem State.readRec_keeps {r s : State} (h : r.Keeps s) (c : Client) (recVA : ℕ) : r.Keeps (State.readRec s c recVA).1 := by
  unfold State.readRec
  repeat' first
    | with_reducible assumption
    | with_reducible exact Keeps.refl _
    | with_reducible apply Keeps.ite
    | with_reducible apply Keeps.ite_fst
    | with_reducible apply vread_keeps
    | with_reducible apply keepsParts_of
    | intro _
    | with_reducible refine Keeps.of_eq (by assumption) ?_
    | with_reducible refine Keeps.of_eq_snd (by assumption) ?_
    | simp only [keeps_mk]
    | split

theorem State.unitFail_keeps {r s : State} (h : r.Keeps s) (o : Op) (st : ℕ) : r.Keeps (State.unitFail s o st) := by
  unfold State.unitFail
  repeat' first
    | with_reducible assumption
    | with_reducible exact Keeps.refl _
    | with_reducible apply Keeps.ite
    | with_reducible apply syncUnit_keeps
    | with_reducible apply finish_keeps
    | with_reducible apply keepsParts_of
    | intro _
    | with_reducible refine Keeps.of_eq (by assumption) ?_
    | with_reducible refine Keeps.of_eq_snd (by assumption) ?_
    | simp only [keeps_mk]
    | split

theorem State.unitStart_keeps {r s : State} (h : r.Keeps s) (o : Op) : r.Keeps (State.unitStart s o) := by
  unfold State.unitStart
  repeat' first
    | with_reducible assumption
    | with_reducible exact Keeps.refl _
    | with_reducible apply Keeps.ite
    | with_reducible apply Keeps.ite_fst
    | with_reducible apply setOp_keeps
    | with_reducible apply ev_keeps
    | with_reducible apply unitFail_keeps
    | with_reducible apply inHome_keeps
    | with_reducible apply readRec_keeps
    | with_reducible apply vread_keeps
    | with_reducible apply syncUnit_keeps
    | with_reducible apply putLine_keeps
    | with_reducible apply updOp_keeps
    | with_reducible apply keepsParts_of
    | intro _
    | with_reducible refine Keeps.of_eq (by assumption) ?_
    | with_reducible refine Keeps.of_eq_snd (by assumption) ?_
    | simp only [keeps_mk]
    | split

theorem State.unitBusy_keeps {r s : State} (h : r.Keeps s) (u : ℕ) (n : ℕ) : r.Keeps (State.unitBusy s u n) := by
  unfold State.unitBusy
  repeat' first
    | with_reducible assumption
    | with_reducible exact Keeps.refl _
    | with_reducible apply Keeps.ite
    | with_reducible apply setH_keeps
    | with_reducible apply keepsParts_of
    | intro _
    | with_reducible refine Keeps.of_eq (by assumption) ?_
    | with_reducible refine Keeps.of_eq_snd (by assumption) ?_
    | simp only [keeps_mk]
    | split

theorem State.openSlot_keeps {r s : State} (h : r.Keeps s) (o : Op) (u : ℕ) (k : ℕ) (shard : ℕ) (gclr : Bool) (ra : Option (List Byte)) (rb : Option
    (List Byte)) (rc : Option (List Byte)) (fl : ℕ) (nf : ℕ) (cycles : ℕ) (poison : Bool) : r.Keeps (State.openSlot s o u k shard gclr ra rb rc fl nf
    cycles poison) := by
  unfold State.openSlot
  repeat' first
    | with_reducible assumption
    | with_reducible exact Keeps.refl _
    | with_reducible apply Keeps.ite
    | with_reducible apply scratchWrite_keeps
    | with_reducible apply setSlot_keeps
    | with_reducible apply unitBusy_keeps
    | with_reducible apply setOp_keeps
    | with_reducible apply keepsParts_of
    | intro _
    | with_reducible refine Keeps.of_eq (by assumption) ?_
    | with_reducible refine Keeps.of_eq_snd (by assumption) ?_
    | simp only [keeps_mk]
    | split

theorem State.journalWait_keeps {r s : State} (h : r.Keeps s) (u : ℕ) (q : ℕ) (on : Bool) : r.Keeps (State.journalWait s u q on) := by
  unfold State.journalWait
  repeat' first
    | with_reducible assumption
    | with_reducible exact Keeps.refl _
    | with_reducible apply Keeps.ite
    | with_reducible apply span_keeps
    | with_reducible apply keepsParts_of
    | intro _
    | with_reducible refine Keeps.of_eq (by assumption) ?_
    | with_reducible refine Keeps.of_eq_snd (by assumption) ?_
    | simp only [keeps_mk]
    | split

theorem State.accumShard_keeps {r0 s : State} (h : r0.Keeps s) (o : Op) (r : ℕ) (u : ℕ) (k : ℕ) : r0.Keeps (State.accumShard s o r u k) := by
  unfold State.accumShard
  repeat' first
    | with_reducible assumption
    | with_reducible exact Keeps.refl _
    | with_reducible apply Keeps.ite
    | with_reducible apply Keeps.ite_fst
    | with_reducible apply homeRead_keeps
    | with_reducible apply unitFail_keeps
    | with_reducible apply vread_keeps
    | with_reducible apply openSlot_keeps
    | with_reducible refine Keeps.foldl ?_ (fun u x => ?_)
    | with_reducible refine Keeps.foldl_fst ?_ (fun u x => ?_)
    | with_reducible apply keepsParts_of
    | intro _
    | with_reducible refine Keeps.of_eq (by assumption) ?_
    | with_reducible refine Keeps.of_eq_snd (by assumption) ?_
    | simp only [keeps_mk]
    | split

theorem State.applyShard_keeps {r0 s : State} (h : r0.Keeps s) (o : Op) (r : ℕ) (u : ℕ) (k : ℕ) : r0.Keeps (State.applyShard s o r u k) := by
  unfold State.applyShard
  repeat' first
    | with_reducible assumption
    | with_reducible exact Keeps.refl _
    | with_reducible apply Keeps.ite
    | with_reducible apply Keeps.ite_fst
    | with_reducible apply inHome_keeps
    | with_reducible apply unitFail_keeps
    | with_reducible apply openSlot_keeps
    | with_reducible apply homeRead_keeps
    | with_reducible apply vread_keeps
    | with_reducible apply fresh_keeps
    | with_reducible refine Keeps.foldl ?_ (fun u x => ?_)
    | with_reducible refine Keeps.foldl_fst ?_ (fun u x => ?_)
    | with_reducible apply keepsParts_of
    | intro _
    | with_reducible refine Keeps.of_eq (by assumption) ?_
    | with_reducible refine Keeps.of_eq_snd (by assumption) ?_
    | simp only [keeps_mk]
    | split

theorem State.factorRow_keeps {r0 s : State} (h : r0.Keeps s) (o : Op) (r : ℕ) (u : ℕ) : r0.Keeps (State.factorRow s o r u) := by
  unfold State.factorRow
  repeat' first
    | with_reducible assumption
    | with_reducible exact Keeps.refl _
    | with_reducible apply Keeps.ite
    | with_reducible apply Keeps.ite_fst
    | with_reducible apply homeRead_keeps
    | with_reducible apply unitFail_keeps
    | with_reducible apply homeWrite_keeps
    | with_reducible apply unitBusy_keeps
    | with_reducible apply mergeFlags_keeps
    | with_reducible apply setOp_keeps
    | with_reducible apply putLine_keeps
    | with_reducible refine Keeps.foldl ?_ (fun u x => ?_)
    | with_reducible refine Keeps.foldl_fst ?_ (fun u x => ?_)
    | with_reducible apply keepsParts_of
    | intro _
    | with_reducible refine Keeps.of_eq (by assumption) ?_
    | with_reducible refine Keeps.of_eq_snd (by assumption) ?_
    | simp only [keeps_mk]
    | split

theorem State.normShard_keeps {r0 s : State} (h : r0.Keeps s) (o : Op) (r : ℕ) (u : ℕ) : r0.Keeps (State.normShard s o r u) := by
  unfold State.normShard
  repeat' first
    | with_reducible assumption
    | with_reducible exact Keeps.refl _
    | with_reducible apply Keeps.ite
    | with_reducible apply Keeps.ite_fst
    | with_reducible apply homeRead_keeps
    | with_reducible apply unitFail_keeps
    | with_reducible apply unitBusy_keeps
    | with_reducible apply mergeFlags_keeps
    | with_reducible apply setOp_keeps
    | with_reducible apply vwrite_keeps
    | with_reducible apply syncUnit_keeps
    | with_reducible apply bump_keeps
    | with_reducible refine Keeps.foldl ?_ (fun u x => ?_)
    | with_reducible refine Keeps.foldl_fst ?_ (fun u x => ?_)
    | with_reducible apply keepsParts_of
    | intro _
    | with_reducible refine Keeps.of_eq (by assumption) ?_
    | with_reducible refine Keeps.of_eq_snd (by assumption) ?_
    | simp only [keeps_mk]
    | split

theorem State.unitStep_keeps {r s : State} (h : r.Keeps s) (u : ℕ) (op : ℕ) (wait : ℕ) : r.Keeps (State.unitStep s u op wait) := by
  unfold State.unitStep
  repeat' first
    | with_reducible assumption
    | with_reducible exact Keeps.refl _
    | with_reducible apply Keeps.ite
    | with_reducible apply Keeps.ite_fst
    | with_reducible apply ev_keeps
    | with_reducible apply readRec_keeps
    | with_reducible apply unitFail_keeps
    | with_reducible apply normShard_keeps
    | with_reducible apply factorRow_keeps
    | with_reducible apply journalWait_keeps
    | with_reducible apply accumShard_keeps
    | with_reducible apply applyShard_keeps
    | with_reducible apply unitStart_keeps
    | with_reducible apply keepsParts_of
    | intro _
    | with_reducible refine Keeps.of_eq (by assumption) ?_
    | with_reducible refine Keeps.of_eq_snd (by assumption) ?_
    | simp only [keeps_mk]
    | split

theorem State.unitDone_keeps {r s : State} (h : r.Keeps s) (id : ℕ) : r.Keeps (State.unitDone s id) := by
  unfold State.unitDone
  repeat' first
    | with_reducible assumption
    | with_reducible exact Keeps.refl _
    | with_reducible apply Keeps.ite
    | with_reducible apply setOp_keeps
    | with_reducible apply keepsParts_of
    | intro _
    | with_reducible refine Keeps.of_eq (by assumption) ?_
    | with_reducible refine Keeps.of_eq_snd (by assumption) ?_
    | simp only [keeps_mk]
    | split

theorem State.freeUp_keeps {r s : State} (h : r.Keeps s) (u : ℕ) (k : ℕ) : r.Keeps (State.freeUp s u k) := by
  unfold State.freeUp
  repeat' first
    | with_reducible assumption
    | with_reducible exact Keeps.refl _
    | with_reducible apply Keeps.ite
    | with_reducible apply setSlot_keeps
    | with_reducible apply keepsParts_of
    | intro _
    | with_reducible refine Keeps.of_eq (by assumption) ?_
    | with_reducible refine Keeps.of_eq_snd (by assumption) ?_
    | simp only [keeps_mk]
    | split

theorem State.retireSlot_keeps {r s : State} (h : r.Keeps s) (u : ℕ) (k : ℕ) (id : ℕ) : r.Keeps (State.retireSlot s u k id).1 := by
  unfold State.retireSlot
  repeat' first
    | with_reducible assumption
    | with_reducible exact Keeps.refl _
    | with_reducible apply Keeps.ite
    | with_reducible apply Keeps.ite_fst
    | with_reducible apply readRec_keeps
    | with_reducible apply vwrites_keeps
    | with_reducible apply scratchWrite_keeps
    | with_reducible apply unitDone_keeps
    | with_reducible apply freeUp_keeps
    | with_reducible apply keepsParts_of
    | intro _
    | with_reducible refine Keeps.of_eq (by assumption) ?_
    | with_reducible refine Keeps.of_eq_snd (by assumption) ?_
    | simp only [keeps_mk]
    | split

theorem State.dropBad_keeps {r s : State} (h : r.Keeps s) (u : ℕ) (k : ℕ) (id : ℕ) : r.Keeps (State.dropBad s u k id) := by
  unfold State.dropBad
  repeat' first
    | with_reducible assumption
    | with_reducible exact Keeps.refl _
    | with_reducible apply Keeps.ite
    | with_reducible apply scratchWrite_keeps
    | with_reducible apply unitDone_keeps
    | with_reducible apply mcLog_keeps
    | with_reducible apply mark_keeps
    | with_reducible apply freeUp_keeps
    | with_reducible apply keepsParts_of
    | intro _
    | with_reducible refine Keeps.of_eq (by assumption) ?_
    | with_reducible refine Keeps.of_eq_snd (by assumption) ?_
    | simp only [keeps_mk]
    | split

theorem State.abortRetire_keeps {r s : State} (h : r.Keeps s) (u : ℕ) : r.Keeps (State.abortRetire s u) := by
  unfold State.abortRetire
  repeat' first
    | with_reducible assumption
    | with_reducible exact Keeps.refl _
    | with_reducible apply Keeps.ite
    | with_reducible apply dropBad_keeps
    | with_reducible apply keepsParts_of
    | intro _
    | with_reducible refine Keeps.of_eq (by assumption) ?_
    | with_reducible refine Keeps.of_eq_snd (by assumption) ?_
    | simp only [keeps_mk]
    | split

theorem State.settleUnits_keeps {r s : State} (h : r.Keeps s) : r.Keeps (State.settleUnits s) := by
  unfold State.settleUnits
  repeat' first
    | with_reducible assumption
    | with_reducible exact Keeps.refl _
    | with_reducible apply Keeps.ite
    | with_reducible apply Keeps.ite_fst
    | with_reducible apply mark_keeps
    | with_reducible apply freeUp_keeps
    | with_reducible apply scratchWrite_keeps
    | with_reducible apply retireSlot_keeps
    | with_reducible apply dropBad_keeps
    | with_reducible refine Keeps.foldl ?_ (fun u x => ?_)
    | with_reducible refine Keeps.foldl_fst ?_ (fun u x => ?_)
    | with_reducible apply keepsParts_of
    | intro _
    | with_reducible refine Keeps.of_eq (by assumption) ?_
    | with_reducible refine Keeps.of_eq_snd (by assumption) ?_
    | simp only [keeps_mk]
    | split

theorem State.rebuildSlots_keeps {r s : State} (h : r.Keeps s) : r.Keeps (State.rebuildSlots s) := by
  unfold State.rebuildSlots
  repeat' first
    | with_reducible assumption
    | with_reducible exact Keeps.refl _
    | with_reducible apply Keeps.ite
    | with_reducible apply setSlot_keeps
    | with_reducible refine Keeps.foldl ?_ (fun u x => ?_)
    | with_reducible refine Keeps.foldl_fst ?_ (fun u x => ?_)
    | with_reducible apply keepsParts_of
    | intro _
    | with_reducible refine Keeps.of_eq (by assumption) ?_
    | with_reducible refine Keeps.of_eq_snd (by assumption) ?_
    | simp only [keeps_mk]
    | split

theorem State.unitPark_keeps {r s : State} (h : r.Keeps s) (o : Op) : r.Keeps (State.unitPark s o) := by
  unfold State.unitPark
  repeat' first
    | with_reducible assumption
    | with_reducible exact Keeps.refl _
    | with_reducible apply Keeps.ite
    | with_reducible apply Keeps.ite_fst
    | with_reducible apply vwrite_keeps
    | with_reducible apply readRec_keeps
    | with_reducible apply putLine_keeps
    | with_reducible apply keepsParts_of
    | intro _
    | with_reducible refine Keeps.of_eq (by assumption) ?_
    | with_reducible refine Keeps.of_eq_snd (by assumption) ?_
    | simp only [keeps_mk]
    | split

theorem State.giveVerdict_keeps {r s : State} (h : r.Keeps s) (q : ℕ) (n : ℕ) (skip : Bool) : r.Keeps (State.giveVerdict s q n skip).1 := by
  unfold State.giveVerdict
  repeat' first
    | with_reducible assumption
    | with_reducible exact Keeps.refl _
    | with_reducible apply Keeps.ite
    | with_reducible apply Keeps.ite_fst
    | with_reducible apply mark_keeps
    | with_reducible apply wr_keeps
    | with_reducible apply keepsParts_of
    | intro _
    | with_reducible refine Keeps.of_eq (by assumption) ?_
    | with_reducible refine Keeps.of_eq_snd (by assumption) ?_
    | simp only [keeps_mk]
    | split

theorem execAccum_keeps (u : ℕ) (t : ℕ) (wait : ℕ) {s : State} : s.KeepsNext (execAccum u t wait s) := by
  unfold execAccum
  repeat' first
    | with_reducible assumption
    | with_reducible exact Keeps.refl _
    | with_reducible apply KeepsNext.next
    | with_reducible apply KeepsNext.ite
    | with_reducible apply Keeps.ite
    | with_reducible apply unitStep_keeps
    | with_reducible apply goTo_keeps
    | with_reducible apply keepsParts_of
    | intro _
    | with_reducible refine Keeps.of_eq (by assumption) ?_
    | with_reducible refine Keeps.of_eq_snd (by assumption) ?_
    | simp only [keeps_mk]
    | split

theorem execNorm_keeps (u : ℕ) (t : ℕ) (wait : ℕ) {s : State} : s.KeepsNext (execNorm u t wait s) := by
  unfold execNorm
  repeat' first
    | with_reducible assumption
    | with_reducible exact Keeps.refl _
    | with_reducible apply KeepsNext.next
    | with_reducible apply KeepsNext.ite
    | with_reducible apply Keeps.ite
    | with_reducible apply unitStep_keeps
    | with_reducible apply goTo_keeps
    | with_reducible apply keepsParts_of
    | intro _
    | with_reducible refine Keeps.of_eq (by assumption) ?_
    | with_reducible refine Keeps.of_eq_snd (by assumption) ?_
    | simp only [keeps_mk]
    | split

theorem execUpdate_keeps (u : ℕ) (t : ℕ) (wait : ℕ) {s : State} : s.KeepsNext (execUpdate u t wait s) := by
  unfold execUpdate
  repeat' first
    | with_reducible assumption
    | with_reducible exact Keeps.refl _
    | with_reducible apply KeepsNext.next
    | with_reducible apply KeepsNext.ite
    | with_reducible apply Keeps.ite
    | with_reducible apply unitStep_keeps
    | with_reducible apply goTo_keeps
    | with_reducible apply keepsParts_of
    | intro _
    | with_reducible refine Keeps.of_eq (by assumption) ?_
    | with_reducible refine Keeps.of_eq_snd (by assumption) ?_
    | simp only [keeps_mk]
    | split

theorem execShardCommit_keeps (u : ℕ) (t : ℕ) {s : State} : s.KeepsNext (execShardCommit u t s) := by
  unfold execShardCommit
  repeat' first
    | with_reducible assumption
    | with_reducible exact Keeps.refl _
    | with_reducible apply KeepsNext.next
    | with_reducible apply KeepsNext.ite
    | with_reducible apply Keeps.ite
    | with_reducible apply Keeps.ite_fst
    | with_reducible apply goTo_keeps
    | with_reducible apply readRec_keeps
    | with_reducible apply scratchWrite_keeps
    | with_reducible apply bump_keeps
    | with_reducible apply mergeFlags_keeps
    | with_reducible apply setSlot_keeps
    | with_reducible apply syncUnit_keeps
    | with_reducible apply setOp_keeps
    | with_reducible apply keepsParts_of
    | intro _
    | with_reducible refine Keeps.of_eq (by assumption) ?_
    | with_reducible refine Keeps.of_eq_snd (by assumption) ?_
    | simp only [keeps_mk]
    | split

theorem execSlotRetire_keeps (u : ℕ) (t : ℕ) {s : State} : s.KeepsNext (execSlotRetire u t s) := by
  unfold execSlotRetire
  repeat' first
    | with_reducible assumption
    | with_reducible exact Keeps.refl _
    | with_reducible apply KeepsNext.next
    | with_reducible apply KeepsNext.ite
    | with_reducible apply Keeps.ite
    | with_reducible apply Keeps.ite_fst
    | with_reducible apply goTo_keeps
    | with_reducible apply retireSlot_keeps
    | with_reducible apply keepsParts_of
    | intro _
    | with_reducible refine Keeps.of_eq (by assumption) ?_
    | with_reducible refine Keeps.of_eq_snd (by assumption) ?_
    | simp only [keeps_mk]
    | split

theorem State.setObj_keeps {r s : State} (h : r.Keeps s) (k : ℕ) (b : List Byte) : r.Keeps (State.setObj s k b) := by
  unfold State.setObj
  repeat' first
    | with_reducible assumption
    | with_reducible exact Keeps.refl _
    | with_reducible apply Keeps.ite
    | with_reducible apply keepsParts_of
    | intro _
    | with_reducible refine Keeps.of_eq (by assumption) ?_
    | with_reducible refine Keeps.of_eq_snd (by assumption) ?_
    | simp only [keeps_mk]
    | split

theorem State.orBit_keeps {r s : State} (h : r.Keeps s) (f : Fld) (u : ℕ) (i : ℕ) : r.Keeps (State.orBit s f u i) := by
  unfold State.orBit
  repeat' first
    | with_reducible assumption
    | with_reducible exact Keeps.refl _
    | with_reducible apply Keeps.ite
    | with_reducible apply wr_keeps
    | with_reducible apply keepsParts_of
    | intro _
    | with_reducible refine Keeps.of_eq (by assumption) ?_
    | with_reducible refine Keeps.of_eq_snd (by assumption) ?_
    | simp only [keeps_mk]
    | split

theorem State.removeUnit_keeps {r s : State} (h : r.Keeps s) (cls : ℕ) (u : ℕ) (i : ℕ) : r.Keeps (State.removeUnit s cls u i) := by
  unfold State.removeUnit
  repeat' first
    | with_reducible assumption
    | with_reducible exact Keeps.refl _
    | with_reducible apply Keeps.ite
    | with_reducible apply orBit_keeps
    | with_reducible apply wr_keeps
    | with_reducible apply mcLog_keeps
    | with_reducible apply mark_keeps
    | with_reducible apply keepsParts_of
    | intro _
    | with_reducible refine Keeps.of_eq (by assumption) ?_
    | with_reducible refine Keeps.of_eq_snd (by assumption) ?_
    | simp only [keeps_mk]
    | split

theorem State.applyOuts_keeps {r s : State} (h : r.Keeps s) : r.Keeps (State.applyOuts s) := by
  unfold State.applyOuts
  repeat' first
    | with_reducible assumption
    | with_reducible exact Keeps.refl _
    | with_reducible apply Keeps.ite
    | with_reducible apply dropCmds_keeps
    | with_reducible apply setH_keeps
    | with_reducible refine Keeps.foldl ?_ (fun u x => ?_)
    | with_reducible refine Keeps.foldl_fst ?_ (fun u x => ?_)
    | with_reducible apply keepsParts_of
    | intro _
    | with_reducible refine Keeps.of_eq (by assumption) ?_
    | with_reducible refine Keeps.of_eq_snd (by assumption) ?_
    | simp only [keeps_mk]
    | split

theorem State.removeUnits_keeps {r s : State} (h : r.Keeps s) : r.Keeps (State.removeUnits s) := by
  unfold State.removeUnits
  repeat' first
    | with_reducible assumption
    | with_reducible exact Keeps.refl _
    | with_reducible apply Keeps.ite
    | with_reducible apply setH_keeps
    | with_reducible apply removeUnit_keeps
    | with_reducible apply applyOuts_keeps
    | with_reducible refine Keeps.foldl ?_ (fun u x => ?_)
    | with_reducible refine Keeps.foldl_fst ?_ (fun u x => ?_)
    | with_reducible apply keepsParts_of
    | intro _
    | with_reducible refine Keeps.of_eq (by assumption) ?_
    | with_reducible refine Keeps.of_eq_snd (by assumption) ?_
    | simp only [keeps_mk]
    | split

theorem State.haltQuarter_keeps {r s : State} (h : r.Keeps s) (q : ℕ) (dispose : Bool) : r.Keeps (State.haltQuarter s q dispose) := by
  unfold State.haltQuarter
  repeat' first
    | with_reducible assumption
    | with_reducible exact Keeps.refl _
    | with_reducible apply Keeps.ite
    | with_reducible apply mark_keeps
    | with_reducible apply setH_keeps
    | with_reducible apply keepsParts_of
    | intro _
    | with_reducible refine Keeps.of_eq (by assumption) ?_
    | with_reducible refine Keeps.of_eq_snd (by assumption) ?_
    | simp only [keeps_mk]
    | split

theorem State.haltAll_keeps {r s : State} (h : r.Keeps s) : r.Keeps (State.haltAll s) := by
  unfold State.haltAll
  repeat' first
    | with_reducible assumption
    | with_reducible exact Keeps.refl _
    | with_reducible apply Keeps.ite
    | with_reducible apply haltQuarter_keeps
    | with_reducible refine Keeps.foldl ?_ (fun u x => ?_)
    | with_reducible refine Keeps.foldl_fst ?_ (fun u x => ?_)
    | with_reducible apply keepsParts_of
    | intro _
    | with_reducible refine Keeps.of_eq (by assumption) ?_
    | with_reducible refine Keeps.of_eq_snd (by assumption) ?_
    | simp only [keeps_mk]
    | split

theorem State.setLevel_keeps {r s : State} (h : r.Keeps s) : r.Keeps (State.setLevel s) := by
  unfold State.setLevel
  repeat' first
    | with_reducible assumption
    | with_reducible exact Keeps.refl _
    | with_reducible apply Keeps.ite
    | with_reducible apply wr_keeps
    | with_reducible apply haltAll_keeps
    | with_reducible apply keepsParts_of
    | intro _
    | with_reducible refine Keeps.of_eq (by assumption) ?_
    | with_reducible refine Keeps.of_eq_snd (by assumption) ?_
    | simp only [keeps_mk]
    | split

theorem State.endAll_keeps {r s : State} (h : r.Keeps s) (q : ℕ) (status : ℕ) : r.Keeps (State.endAll s q status) := by
  unfold State.endAll
  repeat' first
    | with_reducible assumption
    | with_reducible exact Keeps.refl _
    | with_reducible apply Keeps.ite
    | with_reducible apply finish_keeps
    | with_reducible refine Keeps.foldl ?_ (fun u x => ?_)
    | with_reducible refine Keeps.foldl_fst ?_ (fun u x => ?_)
    | with_reducible apply keepsParts_of
    | intro _
    | with_reducible refine Keeps.of_eq (by assumption) ?_
    | with_reducible refine Keeps.of_eq_snd (by assumption) ?_
    | simp only [keeps_mk]
    | split

theorem State.disposeQuarter_keeps {r s : State} (h : r.Keeps s) (q : ℕ) : r.Keeps (State.disposeQuarter s q) := by
  unfold State.disposeQuarter
  repeat' first
    | with_reducible assumption
    | with_reducible exact Keeps.refl _
    | with_reducible apply Keeps.ite
    | with_reducible apply syncBlanks_keeps
    | with_reducible apply setH_keeps
    | with_reducible apply endAll_keeps
    | with_reducible apply keepsParts_of
    | intro _
    | with_reducible refine Keeps.of_eq (by assumption) ?_
    | with_reducible refine Keeps.of_eq_snd (by assumption) ?_
    | simp only [keeps_mk]
    | split

theorem State.releaseQuarter_keeps {r s : State} (h : r.Keeps s) (q : ℕ) : r.Keeps (State.releaseQuarter s q) := by
  unfold State.releaseQuarter
  repeat' first
    | with_reducible assumption
    | with_reducible exact Keeps.refl _
    | with_reducible apply Keeps.ite
    | with_reducible apply wr_keeps
    | with_reducible apply setH_keeps
    | with_reducible apply keepsParts_of
    | intro _
    | with_reducible refine Keeps.of_eq (by assumption) ?_
    | with_reducible refine Keeps.of_eq_snd (by assumption) ?_
    | simp only [keeps_mk]
    | split

theorem State.newMeasurement_keeps {r s : State} (h : r.Keeps s) : r.Keeps (State.newMeasurement s) := by
  unfold State.newMeasurement
  repeat' first
    | with_reducible assumption
    | with_reducible exact Keeps.refl _
    | with_reducible apply Keeps.ite
    | with_reducible apply setH_keeps
    | with_reducible refine Keeps.foldl ?_ (fun u x => ?_)
    | with_reducible refine Keeps.foldl_fst ?_ (fun u x => ?_)
    | with_reducible apply keepsParts_of
    | intro _
    | with_reducible refine Keeps.of_eq (by assumption) ?_
    | with_reducible refine Keeps.of_eq_snd (by assumption) ?_
    | simp only [keeps_mk]
    | split

theorem State.clearHandshakes_keeps {r s : State} (h : r.Keeps s) : r.Keeps (State.clearHandshakes s) := by
  unfold State.clearHandshakes
  repeat' first
    | with_reducible assumption
    | with_reducible exact Keeps.refl _
    | with_reducible apply Keeps.ite
    | with_reducible apply wr_keeps
    | with_reducible refine Keeps.foldl ?_ (fun u x => ?_)
    | with_reducible refine Keeps.foldl_fst ?_ (fun u x => ?_)
    | with_reducible apply keepsParts_of
    | intro _
    | with_reducible refine Keeps.of_eq (by assumption) ?_
    | with_reducible refine Keeps.of_eq_snd (by assumption) ?_
    | simp only [keeps_mk]
    | split

theorem State.applySelects_keeps {r s : State} (h : r.Keeps s) : r.Keeps (State.applySelects s) := by
  unfold State.applySelects
  repeat' first
    | with_reducible assumption
    | with_reducible exact Keeps.refl _
    | with_reducible apply Keeps.ite
    | with_reducible apply setH_keeps
    | with_reducible apply wr_keeps
    | with_reducible apply mark_keeps
    | with_reducible apply newMeasurement_keeps
    | with_reducible apply clearHandshakes_keeps
    | with_reducible apply keepsParts_of
    | intro _
    | with_reducible refine Keeps.of_eq (by assumption) ?_
    | with_reducible refine Keeps.of_eq_snd (by assumption) ?_
    | simp only [keeps_mk]
    | split

theorem State.endRestricted_keeps {r s : State} (h : r.Keeps s) : r.Keeps (State.endRestricted s) := by
  unfold State.endRestricted
  repeat' first
    | with_reducible assumption
    | with_reducible exact Keeps.refl _
    | with_reducible apply Keeps.ite
    | with_reducible apply wr_keeps
    | with_reducible apply setH_keeps
    | with_reducible apply keepsParts_of
    | intro _
    | with_reducible refine Keeps.of_eq (by assumption) ?_
    | with_reducible refine Keeps.of_eq_snd (by assumption) ?_
    | simp only [keeps_mk]
    | split

theorem State.claim_keeps {r s : State} (h : r.Keeps s) (o : Op) : r.Keeps (State.claim s o) := by
  unfold State.claim
  repeat' first
    | with_reducible assumption
    | with_reducible exact Keeps.refl _
    | with_reducible apply Keeps.ite
    | with_reducible apply wr_keeps
    | with_reducible apply keepsParts_of
    | intro _
    | with_reducible refine Keeps.of_eq (by assumption) ?_
    | with_reducible refine Keeps.of_eq_snd (by assumption) ?_
    | simp only [keeps_mk]
    | split

theorem State.issueProblem_keeps {r s : State} (h : r.Keeps s) (g : Op) : r.Keeps (State.issueProblem s g).1 := by
  unfold State.issueProblem
  repeat' first
    | with_reducible assumption
    | with_reducible exact Keeps.refl _
    | with_reducible apply Keeps.ite
    | with_reducible apply Keeps.ite_fst
    | with_reducible apply vread_keeps
    | with_reducible apply newId_keeps
    | with_reducible apply setOp_keeps
    | with_reducible apply finish_keeps
    | with_reducible apply keepsParts_of
    | intro _
    | with_reducible refine Keeps.of_eq (by assumption) ?_
    | with_reducible refine Keeps.of_eq_snd (by assumption) ?_
    | simp only [keeps_mk]
    | split

theorem State.admissionHead_keeps {r s : State} (h : r.Keeps s) (q : ℕ) : r.Keeps (State.admissionHead s q).1 := by
  unfold State.admissionHead
  repeat' first
    | with_reducible assumption
    | with_reducible exact Keeps.refl _
    | with_reducible apply Keeps.ite
    | with_reducible apply Keeps.ite_fst
    | with_reducible apply finish_keeps
    | with_reducible apply issueProblem_keeps
    | with_reducible apply keepsParts_of
    | intro _
    | with_reducible refine Keeps.of_eq (by assumption) ?_
    | with_reducible refine Keeps.of_eq_snd (by assumption) ?_
    | simp only [keeps_mk]
    | split

theorem State.handOver_keeps {r s : State} (h : r.Keeps s) (o : Op) : r.Keeps (State.handOver s o).1 := by
  unfold State.handOver
  repeat' first
    | with_reducible assumption
    | with_reducible exact Keeps.refl _
    | with_reducible apply Keeps.ite
    | with_reducible apply Keeps.ite_fst
    | with_reducible apply vread_keeps
    | with_reducible apply keepsParts_of
    | intro _
    | with_reducible refine Keeps.of_eq (by assumption) ?_
    | with_reducible refine Keeps.of_eq_snd (by assumption) ?_
    | simp only [keeps_mk]
    | split

theorem State.admitOp_keeps {r s : State} (h : r.Keeps s) (o : Op) (new : Bool) (u : ℕ) (slice : ℕ) (charge : ℕ) : r.Keeps (State.admitOp s o new u
    slice charge) := by
  unfold State.admitOp
  repeat' first
    | with_reducible assumption
    | with_reducible exact Keeps.refl _
    | with_reducible apply Keeps.ite
    | with_reducible apply claim_keeps
    | with_reducible apply addH_keeps
    | with_reducible apply wr_keeps
    | with_reducible apply setOp_keeps
    | with_reducible apply syncBlanks_keeps
    | with_reducible apply startAlloc_keeps
    | with_reducible apply syncUnit_keeps
    | with_reducible apply keepsParts_of
    | intro _
    | with_reducible refine Keeps.of_eq (by assumption) ?_
    | with_reducible refine Keeps.of_eq_snd (by assumption) ?_
    | simp only [keeps_mk]
    | split

theorem State.readOpnds_keeps {r s : State} (h : r.Keeps s) (o : Op) (y2 : List ℕ) : r.Keeps (State.readOpnds s o y2).1 := by
  induction y2 generalizing s o with
  | nil =>
    unfold State.readOpnds
    repeat' first
      | with_reducible assumption
      | with_reducible exact Keeps.refl _
      | with_reducible apply Keeps.ite
      | with_reducible apply Keeps.ite_fst
      | with_reducible apply vread_keeps
      | with_reducible apply keepsParts_of
      | intro _
      | with_reducible refine Keeps.of_eq (by assumption) ?_
      | with_reducible refine Keeps.of_eq_snd (by assumption) ?_
      | simp only [keeps_mk]
      | split
  | cons z l ih =>
    unfold State.readOpnds
    repeat' first
      | with_reducible assumption
      | with_reducible exact Keeps.refl _
      | with_reducible apply Keeps.ite
      | with_reducible apply Keeps.ite_fst
      | with_reducible apply vread_keeps
      | with_reducible apply ih
      | with_reducible apply keepsParts_of
      | intro _
      | with_reducible refine Keeps.of_eq (by assumption) ?_
      | with_reducible refine Keeps.of_eq_snd (by assumption) ?_
      | simp only [keeps_mk]
      | split

theorem State.withEntries_keeps {r s : State} (h : r.Keeps s) (o : Op) (new : Bool) : r.Keeps (State.withEntries s o new).1 := by
  unfold State.withEntries
  repeat' first
    | with_reducible assumption
    | with_reducible exact Keeps.refl _
    | with_reducible apply Keeps.ite
    | with_reducible apply Keeps.ite_fst
    | with_reducible apply readOpnds_keeps
    | with_reducible apply keepsParts_of
    | intro _
    | with_reducible refine Keeps.of_eq (by assumption) ?_
    | with_reducible refine Keeps.of_eq_snd (by assumption) ?_
    | simp only [keeps_mk]
    | split

theorem State.decideOn_keeps {r s : State} (h : r.Keeps s) (o : Op) (new : Bool) : r.Keeps (State.decideOn s o new) := by
  unfold State.decideOn
  repeat' first
    | with_reducible assumption
    | with_reducible exact Keeps.refl _
    | with_reducible apply Keeps.ite
    | with_reducible apply Keeps.ite_fst
    | with_reducible apply ev_keeps
    | with_reducible apply withEntries_keeps
    | with_reducible apply finishWith_keeps
    | with_reducible apply finish_keeps
    | with_reducible apply handOver_keeps
    | with_reducible apply admitOp_keeps
    | with_reducible apply keepsParts_of
    | intro _
    | with_reducible refine Keeps.of_eq (by assumption) ?_
    | with_reducible refine Keeps.of_eq_snd (by assumption) ?_
    | simp only [keeps_mk]
    | split

theorem State.admission_keeps {r s : State} (h : r.Keeps s) (q : ℕ) : r.Keeps (State.admission s q) := by
  unfold State.admission
  repeat' first
    | with_reducible assumption
    | with_reducible exact Keeps.refl _
    | with_reducible apply Keeps.ite
    | with_reducible apply Keeps.ite_fst
    | with_reducible apply setH_keeps
    | with_reducible apply ev_keeps
    | with_reducible apply admissionHead_keeps
    | with_reducible apply decideOn_keeps
    | with_reducible apply keepsParts_of
    | intro _
    | with_reducible refine Keeps.of_eq (by assumption) ?_
    | with_reducible refine Keeps.of_eq_snd (by assumption) ?_
    | simp only [keeps_mk]
    | split

theorem execAdmissionDecision_keeps (q : ℕ) (t : ℕ) {s : State} : s.KeepsNext (execAdmissionDecision q t s) := by
  unfold execAdmissionDecision
  repeat' first
    | with_reducible assumption
    | with_reducible exact Keeps.refl _
    | with_reducible apply KeepsNext.next
    | with_reducible apply KeepsNext.ite
    | with_reducible apply Keeps.ite
    | with_reducible apply admission_keeps
    | with_reducible apply goTo_keeps
    | with_reducible apply keepsParts_of
    | intro _
    | with_reducible refine Keeps.of_eq (by assumption) ?_
    | with_reducible refine Keeps.of_eq_snd (by assumption) ?_
    | simp only [keeps_mk]
    | split

theorem State.freeze_keeps {r s : State} (h : r.Keeps s) : r.Keeps (State.freeze s) := by
  unfold State.freeze
  repeat' first
    | with_reducible assumption
    | with_reducible exact Keeps.refl _
    | with_reducible apply Keeps.ite
    | with_reducible apply wr_keeps
    | with_reducible refine Keeps.foldl ?_ (fun u x => ?_)
    | with_reducible refine Keeps.foldl_fst ?_ (fun u x => ?_)
    | with_reducible apply keepsParts_of
    | intro _
    | with_reducible refine Keeps.of_eq (by assumption) ?_
    | with_reducible refine Keeps.of_eq_snd (by assumption) ?_
    | simp only [keeps_mk]
    | split

theorem State.latch_keeps {r s : State} (h : r.Keeps s) (src : ℕ) : r.Keeps (State.latch s src) := by
  unfold State.latch
  repeat' first
    | with_reducible assumption
    | with_reducible exact Keeps.refl _
    | with_reducible apply Keeps.ite
    | with_reducible apply bump_keeps
    | with_reducible apply freeze_keeps
    | with_reducible apply wr_keeps
    | with_reducible apply keepsParts_of
    | intro _
    | with_reducible refine Keeps.of_eq (by assumption) ?_
    | with_reducible refine Keeps.of_eq_snd (by assumption) ?_
    | simp only [keeps_mk]
    | split

theorem State.dump_keeps {r s : State} (h : r.Keeps s) (m : ℕ) : r.Keeps (State.dump s m) := by
  unfold State.dump
  repeat' first
    | with_reducible assumption
    | with_reducible exact Keeps.refl _
    | with_reducible apply Keeps.ite
    | with_reducible apply setH_keeps
    | with_reducible apply setBytes_keeps
    | with_reducible apply bump_keeps
    | with_reducible apply keepsParts_of
    | intro _
    | with_reducible refine Keeps.of_eq (by assumption) ?_
    | with_reducible refine Keeps.of_eq_snd (by assumption) ?_
    | simp only [keeps_mk]
    | split

theorem execShiftOutComplete_keeps {s : State} : s.KeepsNext (execShiftOutComplete s) := by
  unfold execShiftOutComplete
  repeat' first
    | with_reducible assumption
    | with_reducible exact Keeps.refl _
    | with_reducible apply KeepsNext.next
    | with_reducible apply KeepsNext.ite
    | with_reducible apply Keeps.ite
    | with_reducible apply wr_keeps
    | with_reducible apply keepsParts_of
    | intro _
    | with_reducible refine Keeps.of_eq (by assumption) ?_
    | with_reducible refine Keeps.of_eq_snd (by assumption) ?_
    | simp only [keeps_mk]
    | split

theorem execBwWindowEnd_keeps (port : ℕ) (rx : ℕ) (tx : ℕ) {s : State} : s.KeepsNext (execBwWindowEnd port rx tx s) := by
  unfold execBwWindowEnd
  repeat' first
    | with_reducible assumption
    | with_reducible exact Keeps.refl _
    | with_reducible apply KeepsNext.next
    | with_reducible apply KeepsNext.ite
    | with_reducible apply Keeps.ite
    | with_reducible apply wr_keeps
    | with_reducible apply keepsParts_of
    | intro _
    | with_reducible refine Keeps.of_eq (by assumption) ?_
    | with_reducible refine Keeps.of_eq_snd (by assumption) ?_
    | simp only [keeps_mk]
    | split

theorem State.endSlotWait_keeps {r s : State} (h : r.Keeps s) (o : Op) : r.Keeps (State.endSlotWait s o) := by
  unfold State.endSlotWait
  repeat' first
    | with_reducible assumption
    | with_reducible exact Keeps.refl _
    | with_reducible apply Keeps.ite
    | with_reducible apply setOp_keeps
    | with_reducible apply ev_keeps
    | with_reducible apply keepsParts_of
    | intro _
    | with_reducible refine Keeps.of_eq (by assumption) ?_
    | with_reducible refine Keeps.of_eq_snd (by assumption) ?_
    | simp only [keeps_mk]
    | split

theorem State.parkAsIs_keeps {r s : State} (h : r.Keeps s) (id : ℕ) : r.Keeps (State.parkAsIs s id) := by
  unfold State.parkAsIs
  repeat' first
    | with_reducible assumption
    | with_reducible exact Keeps.refl _
    | with_reducible apply Keeps.ite
    | with_reducible apply syncBlanks_keeps
    | with_reducible apply parkOp_keeps
    | with_reducible apply endSlotWait_keeps
    | with_reducible apply keepsParts_of
    | intro _
    | with_reducible refine Keeps.of_eq (by assumption) ?_
    | with_reducible refine Keeps.of_eq_snd (by assumption) ?_
    | simp only [keeps_mk]
    | split

theorem State.sweepOp_keeps {r s : State} (h : r.Keeps s) (id : ℕ) : r.Keeps (State.sweepOp s id) := by
  unfold State.sweepOp
  repeat' first
    | with_reducible assumption
    | with_reducible exact Keeps.refl _
    | with_reducible apply Keeps.ite
    | with_reducible apply setOp_keeps
    | with_reducible apply overrun_keeps
    | with_reducible apply endSlotWait_keeps
    | with_reducible apply syncUnit_keeps
    | with_reducible apply syncBlanks_keeps
    | with_reducible apply parkOp_keeps
    | with_reducible apply ev_keeps
    | with_reducible apply parkAsIs_keeps
    | with_reducible apply keepsParts_of
    | intro _
    | with_reducible refine Keeps.of_eq (by assumption) ?_
    | with_reducible refine Keeps.of_eq_snd (by assumption) ?_
    | simp only [keeps_mk]
    | split

theorem State.sweep_keeps {r s : State} (h : r.Keeps s) : r.Keeps (State.sweep s) := by
  unfold State.sweep
  repeat' first
    | with_reducible assumption
    | with_reducible exact Keeps.refl _
    | with_reducible apply Keeps.ite
    | with_reducible apply scanTo_keeps
    | with_reducible apply ev_keeps
    | with_reducible apply sweepOp_keeps
    | with_reducible apply messageWait_keeps
    | with_reducible apply journalWait_keeps
    | with_reducible apply setH_keeps
    | with_reducible apply tagsWait_keeps
    | with_reducible refine Keeps.foldl ?_ (fun u x => ?_)
    | with_reducible refine Keeps.foldl_fst ?_ (fun u x => ?_)
    | with_reducible apply keepsParts_of
    | intro _
    | with_reducible refine Keeps.of_eq (by assumption) ?_
    | with_reducible refine Keeps.of_eq_snd (by assumption) ?_
    | simp only [keeps_mk]
    | split

theorem State.parkNow_keeps {r s : State} (h : r.Keeps s) (o : Op) : r.Keeps (State.parkNow s o) := by
  unfold State.parkNow
  repeat' first
    | with_reducible assumption
    | with_reducible exact Keeps.refl _
    | with_reducible apply Keeps.ite
    | with_reducible apply syncUnit_keeps
    | with_reducible apply parkOp_keeps
    | with_reducible apply unitPark_keeps
    | with_reducible apply parkAsIs_keeps
    | with_reducible apply keepsParts_of
    | intro _
    | with_reducible refine Keeps.of_eq (by assumption) ?_
    | with_reducible refine Keeps.of_eq_snd (by assumption) ?_
    | simp only [keeps_mk]
    | split

theorem State.deadlineOp_keeps {r s : State} (h : r.Keeps s) (id : ℕ) : r.Keeps (State.deadlineOp s id) := by
  unfold State.deadlineOp
  repeat' first
    | with_reducible assumption
    | with_reducible exact Keeps.refl _
    | with_reducible apply Keeps.ite
    | with_reducible apply syncBlanks_keeps
    | with_reducible apply finish_keeps
    | with_reducible apply overrun_keeps
    | with_reducible apply endSlotWait_keeps
    | with_reducible apply abandonPage_keeps
    | with_reducible apply syncUnit_keeps
    | with_reducible apply keepsParts_of
    | intro _
    | with_reducible refine Keeps.of_eq (by assumption) ?_
    | with_reducible refine Keeps.of_eq_snd (by assumption) ?_
    | simp only [keeps_mk]
    | split

theorem State.dropPacked_keeps {r s : State} (h : r.Keeps s) : r.Keeps (State.dropPacked s) := by
  unfold State.dropPacked
  repeat' first
    | with_reducible assumption
    | with_reducible exact Keeps.refl _
    | with_reducible apply Keeps.ite
    | with_reducible apply dirBusy_keeps
    | with_reducible apply wr_keeps
    | with_reducible refine Keeps.foldl ?_ (fun u x => ?_)
    | with_reducible refine Keeps.foldl_fst ?_ (fun u x => ?_)
    | with_reducible apply keepsParts_of
    | intro _
    | with_reducible refine Keeps.of_eq (by assumption) ?_
    | with_reducible refine Keeps.of_eq_snd (by assumption) ?_
    | simp only [keeps_mk]
    | split

theorem State.drain_keeps {r s : State} (h : r.Keeps s) : r.Keeps (State.drain s) := by
  unfold State.drain
  repeat' first
    | with_reducible assumption
    | with_reducible exact Keeps.refl _
    | with_reducible apply Keeps.ite
    | with_reducible apply ev_keeps
    | with_reducible apply bump_keeps
    | with_reducible apply syncOut_keeps
    | with_reducible apply serveQueues_keeps
    | with_reducible apply cutEngines_keeps
    | with_reducible apply dropPacked_keeps
    | with_reducible refine Keeps.foldl ?_ (fun u x => ?_)
    | with_reducible refine Keeps.foldl_fst ?_ (fun u x => ?_)
    | with_reducible apply keepsParts_of
    | intro _
    | with_reducible refine Keeps.of_eq (by assumption) ?_
    | with_reducible refine Keeps.of_eq_snd (by assumption) ?_
    | simp only [keeps_mk]
    | split

theorem State.balAction_keeps {r s : State} (h : r.Keeps s) (e : ℕ × ℕ × ℕ × ℕ) : r.Keeps (State.balAction s e) := by
  unfold State.balAction
  repeat' first
    | with_reducible assumption
    | with_reducible exact Keeps.refl _
    | with_reducible apply Keeps.ite
    | with_reducible apply setH_keeps
    | with_reducible apply fenceReq_keeps
    | with_reducible apply ringFault_keeps
    | with_reducible apply syncOut_keeps
    | with_reducible apply addH_keeps
    | with_reducible apply setSlot_keeps
    | with_reducible apply syncFe_keeps
    | with_reducible apply overrun_keeps
    | with_reducible refine Keeps.foldl ?_ (fun u x => ?_)
    | with_reducible refine Keeps.foldl_fst ?_ (fun u x => ?_)
    | with_reducible apply keepsParts_of
    | intro _
    | with_reducible refine Keeps.of_eq (by assumption) ?_
    | with_reducible refine Keeps.of_eq_snd (by assumption) ?_
    | simp only [keeps_mk]
    | split

theorem State.balance_keeps {r s : State} (h : r.Keeps s) (upsets : List Upset) : r.Keeps (State.balance s upsets) := by
  unfold State.balance
  repeat' first
    | with_reducible assumption
    | with_reducible exact Keeps.refl _
    | with_reducible apply Keeps.ite
    | with_reducible apply mark_keeps
    | with_reducible apply wr_keeps
    | with_reducible apply raisePf_keeps
    | with_reducible apply mcLog_keeps
    | with_reducible refine Keeps.foldl ?_ (fun u x => ?_)
    | with_reducible refine Keeps.foldl_fst ?_ (fun u x => ?_)
    | with_reducible apply keepsParts_of
    | intro _
    | with_reducible refine Keeps.of_eq (by assumption) ?_
    | with_reducible refine Keeps.of_eq_snd (by assumption) ?_
    | simp only [keeps_mk]
    | split

theorem State.correct_keeps {r s : State} (h : r.Keeps s) : r.Keeps (State.correct s) := by
  unfold State.correct
  repeat' first
    | with_reducible assumption
    | with_reducible exact Keeps.refl _
    | with_reducible apply Keeps.ite
    | with_reducible apply balAction_keeps
    | with_reducible refine Keeps.foldl ?_ (fun u x => ?_)
    | with_reducible refine Keeps.foldl_fst ?_ (fun u x => ?_)
    | with_reducible apply keepsParts_of
    | intro _
    | with_reducible refine Keeps.of_eq (by assumption) ?_
    | with_reducible refine Keeps.of_eq_snd (by assumption) ?_
    | simp only [keeps_mk]
    | split

theorem State.applySizes_keeps {r s : State} (h : r.Keeps s) (old : List (ℕ × ℕ)) : r.Keeps (State.applySizes s old) := by
  unfold State.applySizes
  repeat' first
    | with_reducible assumption
    | with_reducible exact Keeps.refl _
    | with_reducible apply Keeps.ite
    | with_reducible apply settleSize_keeps
    | with_reducible apply sizeRefused_keeps
    | with_reducible apply applyAssign_keeps
    | with_reducible refine Keeps.foldl ?_ (fun u x => ?_)
    | with_reducible refine Keeps.foldl_fst ?_ (fun u x => ?_)
    | with_reducible apply keepsParts_of
    | intro _
    | with_reducible refine Keeps.of_eq (by assumption) ?_
    | with_reducible refine Keeps.of_eq_snd (by assumption) ?_
    | simp only [keeps_mk]
    | split

theorem State.bankEnter_keeps {r s : State} (h : r.Keeps s) (k : ℕ) : r.Keeps (State.bankEnter s k) := by
  unfold State.bankEnter
  repeat' first
    | with_reducible assumption
    | with_reducible exact Keeps.refl _
    | with_reducible apply Keeps.ite
    | with_reducible apply wr_keeps
    | with_reducible apply mark_keeps
    | with_reducible apply setH_keeps
    | with_reducible apply syncBusy_keeps
    | with_reducible apply setEngine_keeps
    | with_reducible refine Keeps.foldl ?_ (fun u x => ?_)
    | with_reducible refine Keeps.foldl_fst ?_ (fun u x => ?_)
    | with_reducible apply keepsParts_of
    | intro _
    | with_reducible refine Keeps.of_eq (by assumption) ?_
    | with_reducible refine Keeps.of_eq_snd (by assumption) ?_
    | simp only [keeps_mk]
    | split

theorem State.applyBank_keeps {r s : State} (h : r.Keeps s) (k : ℕ) : r.Keeps (State.applyBank s k) := by
  unfold State.applyBank
  repeat' first
    | with_reducible assumption
    | with_reducible exact Keeps.refl _
    | with_reducible apply Keeps.ite
    | with_reducible apply fnErr_keeps
    | with_reducible apply mark_keeps
    | with_reducible apply endBank_keeps
    | with_reducible apply bankEnter_keeps
    | with_reducible apply keepsParts_of
    | intro _
    | with_reducible refine Keeps.of_eq (by assumption) ?_
    | with_reducible refine Keeps.of_eq_snd (by assumption) ?_
    | simp only [keeps_mk]
    | split

theorem State.applyShares_keeps {r s : State} (h : r.Keeps s) : r.Keeps (State.applyShares s) := by
  unfold State.applyShares
  repeat' first
    | with_reducible assumption
    | with_reducible exact Keeps.refl _
    | with_reducible apply Keeps.ite
    | with_reducible apply mark_keeps
    | with_reducible apply setH_keeps
    | with_reducible refine Keeps.foldl ?_ (fun u x => ?_)
    | with_reducible refine Keeps.foldl_fst ?_ (fun u x => ?_)
    | with_reducible apply keepsParts_of
    | intro _
    | with_reducible refine Keeps.of_eq (by assumption) ?_
    | with_reducible refine Keeps.of_eq_snd (by assumption) ?_
    | simp only [keeps_mk]
    | split

theorem State.applyTags_keeps {r s : State} (h : r.Keeps s) : r.Keeps (State.applyTags s) := by
  unfold State.applyTags
  repeat' first
    | with_reducible assumption
    | with_reducible exact Keeps.refl _
    | with_reducible apply Keeps.ite
    | with_reducible apply mark_keeps
    | with_reducible apply wr_keeps
    | with_reducible refine Keeps.foldl ?_ (fun u x => ?_)
    | with_reducible refine Keeps.foldl_fst ?_ (fun u x => ?_)
    | with_reducible apply keepsParts_of
    | intro _
    | with_reducible refine Keeps.of_eq (by assumption) ?_
    | with_reducible refine Keeps.of_eq_snd (by assumption) ?_
    | simp only [keeps_mk]
    | split

theorem State.applyRetire_keeps {r s : State} (h : r.Keeps s) (k : ℕ) : r.Keeps (State.applyRetire s k) := by
  unfold State.applyRetire
  repeat' first
    | with_reducible assumption
    | with_reducible exact Keeps.refl _
    | with_reducible apply Keeps.ite
    | with_reducible apply wr_keeps
    | with_reducible apply setH_keeps
    | with_reducible apply mark_keeps
    | with_reducible apply endBank_keeps
    | with_reducible apply keepsParts_of
    | intro _
    | with_reducible refine Keeps.of_eq (by assumption) ?_
    | with_reducible refine Keeps.of_eq_snd (by assumption) ?_
    | simp only [keeps_mk]
    | split

theorem State.applyBay_keeps {r s : State} (h : r.Keeps s) (d : ℕ) : r.Keeps (State.applyBay s d) := by
  unfold State.applyBay
  repeat' first
    | with_reducible assumption
    | with_reducible exact Keeps.refl _
    | with_reducible apply Keeps.ite
    | with_reducible apply setH_keeps
    | with_reducible apply wr_keeps
    | with_reducible refine Keeps.foldl ?_ (fun u x => ?_)
    | with_reducible refine Keeps.foldl_fst ?_ (fun u x => ?_)
    | with_reducible apply keepsParts_of
    | intro _
    | with_reducible refine Keeps.of_eq (by assumption) ?_
    | with_reducible refine Keeps.of_eq_snd (by assumption) ?_
    | simp only [keeps_mk]
    | split

theorem State.freeCodebooks_keeps {r s : State} (h : r.Keeps s) : r.Keeps (State.freeCodebooks s) := by
  unfold State.freeCodebooks
  repeat' first
    | with_reducible assumption
    | with_reducible exact Keeps.refl _
    | with_reducible apply Keeps.ite
    | with_reducible apply lateDone_keeps
    | with_reducible apply wr_keeps
    | with_reducible refine Keeps.foldl ?_ (fun u x => ?_)
    | with_reducible refine Keeps.foldl_fst ?_ (fun u x => ?_)
    | with_reducible apply keepsParts_of
    | intro _
    | with_reducible refine Keeps.of_eq (by assumption) ?_
    | with_reducible refine Keeps.of_eq_snd (by assumption) ?_
    | simp only [keeps_mk]
    | split

theorem State.applyStaged_keeps {r s : State} (h : r.Keeps s) : r.Keeps (State.applyStaged s) := by
  unfold State.applyStaged
  repeat' first
    | with_reducible assumption
    | with_reducible exact Keeps.refl _
    | with_reducible apply Keeps.ite
    | with_reducible apply disposeQuarter_keeps
    | with_reducible apply applySizes_keeps
    | with_reducible apply applyFences_keeps
    | with_reducible apply applyBank_keeps
    | with_reducible apply applyFabric_keeps
    | with_reducible apply setH_keeps
    | with_reducible apply applyCredits_keeps
    | with_reducible apply applyTags_keeps
    | with_reducible apply applyShares_keeps
    | with_reducible apply applySelects_keeps
    | with_reducible apply applyRetire_keeps
    | with_reducible apply applyBay_keeps
    | with_reducible apply setLevel_keeps
    | with_reducible apply endRestricted_keeps
    | with_reducible apply removeUnits_keeps
    | with_reducible apply freeCodebooks_keeps
    | with_reducible refine Keeps.foldl ?_ (fun u x => ?_)
    | with_reducible refine Keeps.foldl_fst ?_ (fun u x => ?_)
    | with_reducible apply keepsParts_of
    | intro _
    | with_reducible refine Keeps.of_eq (by assumption) ?_
    | with_reducible refine Keeps.of_eq_snd (by assumption) ?_
    | simp only [keeps_mk]
    | split

theorem State.applyKeys_keeps {r s : State} (h : r.Keeps s) : r.Keeps (State.applyKeys s) := by
  unfold State.applyKeys
  repeat' first
    | with_reducible assumption
    | with_reducible exact Keeps.refl _
    | with_reducible apply Keeps.ite
    | with_reducible apply complete_keeps
    | with_reducible apply setH_keeps
    | with_reducible apply wr_keeps
    | with_reducible refine Keeps.foldl ?_ (fun u x => ?_)
    | with_reducible refine Keeps.foldl_fst ?_ (fun u x => ?_)
    | with_reducible apply keepsParts_of
    | intro _
    | with_reducible refine Keeps.of_eq (by assumption) ?_
    | with_reducible refine Keeps.of_eq_snd (by assumption) ?_
    | simp only [keeps_mk]
    | split

theorem State.thermal_keeps {r s : State} (h : r.Keeps s) (vmin : ℕ) (tmax : ℕ) : r.Keeps (State.thermal s vmin tmax) := by
  unfold State.thermal
  repeat' first
    | with_reducible assumption
    | with_reducible exact Keeps.refl _
    | with_reducible apply Keeps.ite
    | with_reducible apply wr_keeps
    | with_reducible apply setH_keeps
    | with_reducible apply mcLog_keeps
    | with_reducible apply mark_keeps
    | with_reducible apply keepsParts_of
    | intro _
    | with_reducible refine Keeps.of_eq (by assumption) ?_
    | with_reducible refine Keeps.of_eq_snd (by assumption) ?_
    | simp only [keeps_mk]
    | split

theorem State.allotQ_keeps {r s : State} (h : r.Keeps s) (b : ℕ) (f : ℕ) (metered : List ℕ) (q : ℕ) : r.Keeps (State.allotQ s b f metered q) := by
  unfold State.allotQ
  repeat' first
    | with_reducible assumption
    | with_reducible exact Keeps.refl _
    | with_reducible apply Keeps.ite
    | with_reducible apply mark_keeps
    | with_reducible apply setH_keeps
    | with_reducible apply wr_keeps
    | with_reducible apply keepsParts_of
    | intro _
    | with_reducible refine Keeps.of_eq (by assumption) ?_
    | with_reducible refine Keeps.of_eq_snd (by assumption) ?_
    | simp only [keeps_mk]
    | split

theorem State.loadBudget_keeps {r s : State} (h : r.Keeps s) (late : Bool) (metered : List ℕ) (modMetered : ℕ) (fixed : ℕ) (vmin : ℕ) (tmax : ℕ) :
    r.Keeps (State.loadBudget s late metered modMetered fixed vmin tmax) := by
  unfold State.loadBudget
  repeat' first
    | with_reducible assumption
    | with_reducible exact Keeps.refl _
    | with_reducible apply Keeps.ite
    | with_reducible apply mcLog_keeps
    | with_reducible apply wr_keeps
    | with_reducible apply thermal_keeps
    | with_reducible apply setH_keeps
    | with_reducible apply allotQ_keeps
    | with_reducible refine Keeps.foldl ?_ (fun u x => ?_)
    | with_reducible refine Keeps.foldl_fst ?_ (fun u x => ?_)
    | with_reducible apply keepsParts_of
    | intro _
    | with_reducible refine Keeps.of_eq (by assumption) ?_
    | with_reducible refine Keeps.of_eq_snd (by assumption) ?_
    | simp only [keeps_mk]
    | split

theorem State.rebuildOp_keeps {r s : State} (h : r.Keeps s) (id : ℕ) : r.Keeps (State.rebuildOp s id) := by
  unfold State.rebuildOp
  repeat' first
    | with_reducible assumption
    | with_reducible exact Keeps.refl _
    | with_reducible apply Keeps.ite
    | with_reducible apply Keeps.ite_fst
    | with_reducible apply vread_keeps
    | with_reducible apply setOp_keeps
    | with_reducible apply finish_keeps
    | with_reducible apply mark_keeps
    | with_reducible apply keepsParts_of
    | intro _
    | with_reducible refine Keeps.of_eq (by assumption) ?_
    | with_reducible refine Keeps.of_eq_snd (by assumption) ?_
    | simp only [keeps_mk]
    | split

theorem State.rebuildQueues_keeps {r s : State} (h : r.Keeps s) : r.Keeps (State.rebuildQueues s) := by
  unfold State.rebuildQueues
  repeat' first
    | with_reducible assumption
    | with_reducible exact Keeps.refl _
    | with_reducible apply Keeps.ite
    | with_reducible apply rebuildOp_keeps
    | with_reducible apply wr_keeps
    | with_reducible refine Keeps.foldl ?_ (fun u x => ?_)
    | with_reducible refine Keeps.foldl_fst ?_ (fun u x => ?_)
    | with_reducible apply keepsParts_of
    | intro _
    | with_reducible refine Keeps.of_eq (by assumption) ?_
    | with_reducible refine Keeps.of_eq_snd (by assumption) ?_
    | simp only [keeps_mk]
    | split

theorem State.chargeBank_keeps {r s : State} (h : r.Keeps s) (q : ℕ) : r.Keeps (State.chargeBank s q) := by
  unfold State.chargeBank
  repeat' first
    | with_reducible assumption
    | with_reducible exact Keeps.refl _
    | with_reducible apply Keeps.ite
    | with_reducible apply setH_keeps
    | with_reducible apply addH_keeps
    | with_reducible apply wr_keeps
    | with_reducible apply keepsParts_of
    | intro _
    | with_reducible refine Keeps.of_eq (by assumption) ?_
    | with_reducible refine Keeps.of_eq_snd (by assumption) ?_
    | simp only [keeps_mk]
    | split

theorem State.clearAer_keeps {r s : State} (h : r.Keeps s) (p : ℕ) : r.Keeps (State.clearAer s p) := by
  unfold State.clearAer
  repeat' first
    | with_reducible assumption
    | with_reducible exact Keeps.refl _
    | with_reducible apply Keeps.ite
    | with_reducible apply setH_keeps
    | with_reducible refine Keeps.foldl ?_ (fun u x => ?_)
    | with_reducible refine Keeps.foldl_fst ?_ (fun u x => ?_)
    | with_reducible apply keepsParts_of
    | intro _
    | with_reducible refine Keeps.of_eq (by assumption) ?_
    | with_reducible refine Keeps.of_eq_snd (by assumption) ?_
    | simp only [keeps_mk]
    | split

theorem State.beginTurn_keeps {r s : State} (h : r.Keeps s) : r.Keeps (State.beginTurn s) := by
  unfold State.beginTurn
  repeat' first
    | with_reducible assumption
    | with_reducible exact Keeps.refl _
    | with_reducible apply Keeps.ite
    | with_reducible apply setH_keeps
    | with_reducible apply wr_keeps
    | with_reducible apply clearAer_keeps
    | with_reducible apply mark_keeps
    | with_reducible apply zeroRegs_keeps
    | with_reducible apply settleUnits_keeps
    | with_reducible apply releaseQuarter_keeps
    | with_reducible apply chargeBank_keeps
    | with_reducible apply recheckHeaders_keeps
    | with_reducible refine Keeps.foldl ?_ (fun u x => ?_)
    | with_reducible refine Keeps.foldl_fst ?_ (fun u x => ?_)
    | with_reducible apply keepsParts_of
    | intro _
    | with_reducible refine Keeps.of_eq (by assumption) ?_
    | with_reducible refine Keeps.of_eq_snd (by assumption) ?_
    | simp only [keeps_mk]
    | split

theorem State.parkDeadline_keeps {r s : State} (h : r.Keeps s) : r.Keeps (State.parkDeadline s) := by
  unfold State.parkDeadline
  repeat' first
    | with_reducible assumption
    | with_reducible exact Keeps.refl _
    | with_reducible apply Keeps.ite
    | with_reducible apply deadlineOp_keeps
    | with_reducible refine Keeps.foldl ?_ (fun u x => ?_)
    | with_reducible refine Keeps.foldl_fst ?_ (fun u x => ?_)
    | with_reducible apply keepsParts_of
    | intro _
    | with_reducible refine Keeps.of_eq (by assumption) ?_
    | with_reducible refine Keeps.of_eq_snd (by assumption) ?_
    | simp only [keeps_mk]
    | split

theorem State.schedStep_keeps {r s : State} (h : r.Keeps s) (k : ℕ) : r.Keeps (State.schedStep s k) := by
  unfold State.schedStep
  repeat' first
    | with_reducible assumption
    | with_reducible exact Keeps.refl _
    | with_reducible apply Keeps.ite
    | with_reducible apply sweep_keeps
    | with_reducible apply goTo_keeps
    | with_reducible apply parkDeadline_keeps
    | with_reducible apply drain_keeps
    | with_reducible apply balance_keeps
    | with_reducible apply correct_keeps
    | with_reducible apply applyStaged_keeps
    | with_reducible apply applyKeys_keeps
    | with_reducible apply loadBudget_keeps
    | with_reducible apply rebuildQueues_keeps
    | with_reducible apply keepsParts_of
    | intro _
    | with_reducible refine Keeps.of_eq (by assumption) ?_
    | with_reducible refine Keeps.of_eq_snd (by assumption) ?_
    | simp only [keeps_mk]
    | split

theorem State.schedTo_keeps {r s : State} (h : r.Keeps s) (k : ℕ) : r.Keeps (State.schedTo s k) := by
  unfold State.schedTo
  repeat' first
    | with_reducible assumption
    | with_reducible exact Keeps.refl _
    | with_reducible apply Keeps.ite
    | with_reducible apply setH_keeps
    | with_reducible apply schedStep_keeps
    | with_reducible refine Keeps.foldl ?_ (fun u x => ?_)
    | with_reducible refine Keeps.foldl_fst ?_ (fun u x => ?_)
    | with_reducible apply keepsParts_of
    | intro _
    | with_reducible refine Keeps.of_eq (by assumption) ?_
    | with_reducible refine Keeps.of_eq_snd (by assumption) ?_
    | simp only [keeps_mk]
    | split

theorem State.schedDo_keeps {r s : State} (h : r.Keeps s) (k : ℕ) (f : State → State) (hf : ∀ (u : State), u.Keeps (f u)) : r.Keeps (State.schedDo s k
    f) := by
  unfold State.schedDo
  repeat' first
    | with_reducible assumption
    | with_reducible exact Keeps.refl _
    | with_reducible apply Keeps.ite
    | with_reducible refine Keeps.trans ?_ (hf _)
    | with_reducible apply setH_keeps
    | with_reducible apply schedTo_keeps
    | with_reducible apply keepsParts_of
    | intro _
    | with_reducible refine Keeps.of_eq (by assumption) ?_
    | with_reducible refine Keeps.of_eq_snd (by assumption) ?_
    | simp only [keeps_mk]
    | split

theorem State.newTurn_keeps {r s : State} (h : r.Keeps s) : r.Keeps (State.newTurn s) := by
  unfold State.newTurn
  repeat' first
    | with_reducible assumption
    | with_reducible exact Keeps.refl _
    | with_reducible apply Keeps.ite
    | with_reducible apply schedTo_keeps
    | with_reducible apply beginTurn_keeps
    | with_reducible apply advance_keeps
    | with_reducible apply keepsParts_of
    | intro _
    | with_reducible refine Keeps.of_eq (by assumption) ?_
    | with_reducible refine Keeps.of_eq_snd (by assumption) ?_
    | simp only [keeps_mk]
    | split

theorem execSweepStart_keeps {s : State} : s.KeepsNext (execSweepStart s) := by
  unfold execSweepStart
  repeat' first
    | with_reducible assumption
    | with_reducible exact Keeps.refl _
    | with_reducible apply KeepsNext.next
    | with_reducible apply KeepsNext.ite
    | with_reducible apply Keeps.ite
    | with_reducible apply schedTo_keeps
    | with_reducible apply keepsParts_of
    | intro _
    | with_reducible refine Keeps.of_eq (by assumption) ?_
    | with_reducible refine Keeps.of_eq_snd (by assumption) ?_
    | simp only [keeps_mk]
    | split

theorem execPark_keeps (id : ℕ) (t : ℕ) {s : State} : s.KeepsNext (execPark id t s) := by
  unfold execPark
  repeat' first
    | with_reducible assumption
    | with_reducible exact Keeps.refl _
    | with_reducible apply KeepsNext.next
    | with_reducible apply KeepsNext.ite
    | with_reducible apply Keeps.ite
    | with_reducible apply goTo_keeps
    | with_reducible apply parkNow_keeps
    | with_reducible apply keepsParts_of
    | intro _
    | with_reducible refine Keeps.of_eq (by assumption) ?_
    | with_reducible refine Keeps.of_eq_snd (by assumption) ?_
    | simp only [keeps_mk]
    | split

theorem execParkDeadline_keeps {s : State} : s.KeepsNext (execParkDeadline s) := by
  unfold execParkDeadline
  repeat' first
    | with_reducible assumption
    | with_reducible exact Keeps.refl _
    | with_reducible apply KeepsNext.next
    | with_reducible apply KeepsNext.ite
    | with_reducible apply Keeps.ite
    | with_reducible apply schedTo_keeps
    | with_reducible apply keepsParts_of
    | intro _
    | with_reducible refine Keeps.of_eq (by assumption) ?_
    | with_reducible refine Keeps.of_eq_snd (by assumption) ?_
    | simp only [keeps_mk]
    | split

theorem execDrainDeadline_keeps {s : State} : s.KeepsNext (execDrainDeadline s) := by
  unfold execDrainDeadline
  repeat' first
    | with_reducible assumption
    | with_reducible exact Keeps.refl _
    | with_reducible apply KeepsNext.next
    | with_reducible apply KeepsNext.ite
    | with_reducible apply Keeps.ite
    | with_reducible apply schedTo_keeps
    | with_reducible apply keepsParts_of
    | intro _
    | with_reducible refine Keeps.of_eq (by assumption) ?_
    | with_reducible refine Keeps.of_eq_snd (by assumption) ?_
    | simp only [keeps_mk]
    | split

theorem execBalanceCheck_keeps (upsets : List Upset) {s : State} : s.KeepsNext (execBalanceCheck upsets s) := by
  unfold execBalanceCheck
  repeat' first
    | with_reducible assumption
    | with_reducible exact Keeps.refl _
    | with_reducible apply KeepsNext.next
    | with_reducible apply KeepsNext.ite
    | with_reducible apply Keeps.ite
    | with_reducible apply schedTo_keeps
    | with_reducible apply schedDo_keeps
    | with_reducible apply balance_keeps
    | with_reducible apply goTo_keeps
    | with_reducible apply keepsParts_of
    | intro _
    | with_reducible refine Keeps.of_eq (by assumption) ?_
    | with_reducible refine Keeps.of_eq_snd (by assumption) ?_
    | simp only [keeps_mk]
    | split

theorem execStagedConfigurationApply_keeps {s : State} : s.KeepsNext (execStagedConfigurationApply s) := by
  unfold execStagedConfigurationApply
  repeat' first
    | with_reducible assumption
    | with_reducible exact Keeps.refl _
    | with_reducible apply KeepsNext.next
    | with_reducible apply KeepsNext.ite
    | with_reducible apply Keeps.ite
    | with_reducible apply schedTo_keeps
    | with_reducible apply keepsParts_of
    | intro _
    | with_reducible refine Keeps.of_eq (by assumption) ?_
    | with_reducible refine Keeps.of_eq_snd (by assumption) ?_
    | simp only [keeps_mk]
    | split

theorem execKeyApply_keeps {s : State} : s.KeepsNext (execKeyApply s) := by
  unfold execKeyApply
  repeat' first
    | with_reducible assumption
    | with_reducible exact Keeps.refl _
    | with_reducible apply KeepsNext.next
    | with_reducible apply KeepsNext.ite
    | with_reducible apply Keeps.ite
    | with_reducible apply schedTo_keeps
    | with_reducible apply keepsParts_of
    | intro _
    | with_reducible refine Keeps.of_eq (by assumption) ?_
    | with_reducible refine Keeps.of_eq_snd (by assumption) ?_
    | simp only [keeps_mk]
    | split

theorem execTokenBudgetLoad_keeps (late : Bool) (metered : List ℕ) (modMetered : ℕ) (fixed : ℕ) (vmin : ℕ) (tmax : ℕ) {s : State} : s.KeepsNext
    (execTokenBudgetLoad late metered modMetered fixed vmin tmax s) := by
  unfold execTokenBudgetLoad
  repeat' first
    | with_reducible assumption
    | with_reducible exact Keeps.refl _
    | with_reducible apply KeepsNext.next
    | with_reducible apply KeepsNext.ite
    | with_reducible apply Keeps.ite
    | with_reducible apply schedDo_keeps
    | with_reducible apply loadBudget_keeps
    | with_reducible apply goTo_keeps
    | with_reducible apply keepsParts_of
    | intro _
    | with_reducible refine Keeps.of_eq (by assumption) ?_
    | with_reducible refine Keeps.of_eq_snd (by assumption) ?_
    | simp only [keeps_mk]
    | split

theorem execResumeQueueRebuild_keeps {s : State} : s.KeepsNext (execResumeQueueRebuild s) := by
  unfold execResumeQueueRebuild
  repeat' first
    | with_reducible assumption
    | with_reducible exact Keeps.refl _
    | with_reducible apply KeepsNext.next
    | with_reducible apply KeepsNext.ite
    | with_reducible apply Keeps.ite
    | with_reducible apply schedTo_keeps
    | with_reducible apply keepsParts_of
    | intro _
    | with_reducible refine Keeps.of_eq (by assumption) ?_
    | with_reducible refine Keeps.of_eq_snd (by assumption) ?_
    | simp only [keeps_mk]
    | split

theorem execSnapshotLatch_keeps (src : ℕ) (t : ℕ) {s : State} : s.KeepsNext (execSnapshotLatch src t s) := by
  unfold execSnapshotLatch
  repeat' first
    | with_reducible assumption
    | with_reducible exact Keeps.refl _
    | with_reducible apply KeepsNext.next
    | with_reducible apply KeepsNext.ite
    | with_reducible apply Keeps.ite
    | with_reducible apply goTo_keeps
    | with_reducible apply setH_keeps
    | with_reducible apply latch_keeps
    | with_reducible apply schedTo_keeps
    | with_reducible apply keepsParts_of
    | intro _
    | with_reducible refine Keeps.of_eq (by assumption) ?_
    | with_reducible refine Keeps.of_eq_snd (by assumption) ?_
    | simp only [keeps_mk]
    | split

theorem State.cleanL2_keeps {r s : State} (h : r.Keeps s) (l : L2Line) : r.Keeps (State.cleanL2 s l) := by
  unfold State.cleanL2
  repeat' first
    | with_reducible assumption
    | with_reducible exact Keeps.refl _
    | with_reducible apply Keeps.ite
    | with_reducible apply Keeps.ite_fst
    | with_reducible apply vwriteL_keeps
    | with_reducible apply raiseVf_keeps
    | with_reducible apply keepsParts_of
    | intro _
    | with_reducible refine Keeps.of_eq (by assumption) ?_
    | with_reducible refine Keeps.of_eq_snd (by assumption) ?_
    | simp only [keeps_mk]
    | split

theorem State.dropL2_keeps {r s : State} (h : r.Keeps s) (p : L2Line → Bool) : r.Keeps (State.dropL2 s p) := by
  unfold State.dropL2
  repeat' first
    | with_reducible assumption
    | with_reducible exact Keeps.refl _
    | with_reducible apply Keeps.ite
    | with_reducible apply keepsParts_of
    | intro _
    | with_reducible refine Keeps.of_eq (by assumption) ?_
    | with_reducible refine Keeps.of_eq_snd (by assumption) ?_
    | simp only [keeps_mk]
    | split

theorem State.flushL2_keeps {r s : State} (h : r.Keeps s) (p : L2Line → Bool) : r.Keeps (State.flushL2 s p) := by
  unfold State.flushL2
  repeat' first
    | with_reducible assumption
    | with_reducible exact Keeps.refl _
    | with_reducible apply Keeps.ite
    | with_reducible apply dropL2_keeps
    | with_reducible apply cleanL2_keeps
    | with_reducible refine Keeps.foldl ?_ (fun u x => ?_)
    | with_reducible refine Keeps.foldl_fst ?_ (fun u x => ?_)
    | with_reducible apply keepsParts_of
    | intro _
    | with_reducible refine Keeps.of_eq (by assumption) ?_
    | with_reducible refine Keeps.of_eq_snd (by assumption) ?_
    | simp only [keeps_mk]
    | split

theorem State.setCores_keeps {r s : State} (h : r.Keeps s) (q : ℕ) : r.Keeps (State.setCores s q) := by
  unfold State.setCores
  repeat' first
    | with_reducible assumption
    | with_reducible exact Keeps.refl _
    | with_reducible apply Keeps.ite
    | with_reducible apply flushL2_keeps
    | with_reducible apply wr_keeps
    | with_reducible apply keepsParts_of
    | intro _
    | with_reducible refine Keeps.of_eq (by assumption) ?_
    | with_reducible refine Keeps.of_eq_snd (by assumption) ?_
    | simp only [keeps_mk]
    | split

theorem State.holdCores_keeps {r s : State} (h : r.Keeps s) : r.Keeps (State.holdCores s) := by
  unfold State.holdCores
  repeat' first
    | with_reducible assumption
    | with_reducible exact Keeps.refl _
    | with_reducible apply Keeps.ite
    | with_reducible apply setCores_keeps
    | with_reducible apply wr_keeps
    | with_reducible refine Keeps.foldl ?_ (fun u x => ?_)
    | with_reducible refine Keeps.foldl_fst ?_ (fun u x => ?_)
    | with_reducible apply keepsParts_of
    | intro _
    | with_reducible refine Keeps.of_eq (by assumption) ?_
    | with_reducible refine Keeps.of_eq_snd (by assumption) ?_
    | simp only [keeps_mk]
    | split

theorem State.clearBits_keeps {r s : State} (h : r.Keeps s) (f : Fld) (i : ℕ) (v : ℕ) : r.Keeps (State.clearBits s f i v) := by
  unfold State.clearBits
  repeat' first
    | with_reducible assumption
    | with_reducible exact Keeps.refl _
    | with_reducible apply Keeps.ite
    | with_reducible apply setH_keeps
    | with_reducible apply wr_keeps
    | with_reducible apply keepsParts_of
    | intro _
    | with_reducible refine Keeps.of_eq (by assumption) ?_
    | with_reducible refine Keeps.of_eq_snd (by assumption) ?_
    | simp only [keeps_mk]
    | split

theorem State.fldWrite_keeps {r s : State} (h : r.Keeps s) (f : Fld) (i : ℕ) (v : ℕ) : r.Keeps (State.fldWrite s f i v) := by
  unfold State.fldWrite
  repeat' first
    | with_reducible assumption
    | with_reducible exact Keeps.refl _
    | with_reducible apply Keeps.ite
    | with_reducible apply wr_keeps
    | with_reducible apply clearBits_keeps
    | with_reducible apply keepsParts_of
    | intro _
    | with_reducible refine Keeps.of_eq (by assumption) ?_
    | with_reducible refine Keeps.of_eq_snd (by assumption) ?_
    | simp only [keeps_mk]
    | split

theorem State.unitRequest_keeps {r s : State} (h : r.Keeps s) (lot : Bool) (i : ℕ) (req : ℕ) (granted : Bool) : r.Keeps (State.unitRequest s lot i req
    granted) := by
  unfold State.unitRequest
  repeat' first
    | with_reducible assumption
    | with_reducible exact Keeps.refl _
    | with_reducible apply Keeps.ite
    | with_reducible apply fnErr_keeps
    | with_reducible apply wr_keeps
    | with_reducible apply keepsParts_of
    | intro _
    | with_reducible refine Keeps.of_eq (by assumption) ?_
    | with_reducible refine Keeps.of_eq_snd (by assumption) ?_
    | simp only [keeps_mk]
    | split

theorem State.stopAll_keeps {r s : State} (h : r.Keeps s) : r.Keeps (State.stopAll s) := by
  unfold State.stopAll
  repeat' first
    | with_reducible assumption
    | with_reducible exact Keeps.refl _
    | with_reducible apply Keeps.ite
    | with_reducible apply setH_keeps
    | with_reducible refine Keeps.foldl ?_ (fun u x => ?_)
    | with_reducible refine Keeps.foldl_fst ?_ (fun u x => ?_)
    | with_reducible apply keepsParts_of
    | intro _
    | with_reducible refine Keeps.of_eq (by assumption) ?_
    | with_reducible refine Keeps.of_eq_snd (by assumption) ?_
    | simp only [keeps_mk]
    | split

theorem State.startQuiesce_keeps {r s : State} (h : r.Keeps s) (cause : ℕ) : r.Keeps (State.startQuiesce s cause) := by
  unfold State.startQuiesce
  repeat' first
    | with_reducible assumption
    | with_reducible exact Keeps.refl _
    | with_reducible apply Keeps.ite
    | with_reducible apply setH_keeps
    | with_reducible apply stopAll_keeps
    | with_reducible apply keepsParts_of
    | intro _
    | with_reducible refine Keeps.of_eq (by assumption) ?_
    | with_reducible refine Keeps.of_eq_snd (by assumption) ?_
    | simp only [keeps_mk]
    | split

theorem State.regAfter_keeps {r0 s : State} (h : r0.Keeps s) (old : State) (r : Reg) (i : ℕ) (val : ℕ) (who : ℕ) (mc : Bool) : r0.Keeps
    (State.regAfter old s r i val who mc) := by
  unfold State.regAfter
  repeat' first
    | with_reducible assumption
    | with_reducible exact Keeps.refl _
    | with_reducible apply Keeps.ite
    | with_reducible apply Keeps.ite_fst
    | with_reducible apply mark_keeps
    | with_reducible apply wr_keeps
    | with_reducible apply setH_keeps
    | with_reducible apply syncPending_keeps
    | with_reducible apply fenceReq_keeps
    | with_reducible apply histClear_keeps
    | with_reducible apply unitRequest_keeps
    | with_reducible apply memRetire_keeps
    | with_reducible apply flushRecords_keeps
    | with_reducible apply badFrame_keeps
    | with_reducible apply askWithdraw_keeps
    | with_reducible apply askService_keeps
    | with_reducible apply requestRetire_keeps
    | with_reducible apply giveVerdict_keeps
    | with_reducible apply setCores_keeps
    | with_reducible apply startQuiesce_keeps
    | with_reducible apply keepsParts_of
    | intro _
    | with_reducible refine Keeps.of_eq (by assumption) ?_
    | with_reducible refine Keeps.of_eq_snd (by assumption) ?_
    | simp only [keeps_mk]
    | split

theorem State.regWrite_keeps {r0 s : State} (h : r0.Keeps s) (bits : ℕ) (who : ℕ) (mc : Bool) (r : Reg) (i : ℕ) (off : ℕ) (val : ℕ) : r0.Keeps
    (State.regWrite s bits who mc r i off val) := by
  unfold State.regWrite
  repeat' first
    | with_reducible assumption
    | with_reducible exact Keeps.refl _
    | with_reducible apply Keeps.ite
    | with_reducible apply fnErr_keeps
    | with_reducible apply fldWrite_keeps
    | with_reducible apply regAfter_keeps
    | with_reducible refine Keeps.foldl ?_ (fun u x => ?_)
    | with_reducible refine Keeps.foldl_fst ?_ (fun u x => ?_)
    | with_reducible apply keepsParts_of
    | intro _
    | with_reducible refine Keeps.of_eq (by assumption) ?_
    | with_reducible refine Keeps.of_eq_snd (by assumption) ?_
    | simp only [keeps_mk]
    | split

theorem State.mcWrite_keeps {r s : State} (h : r.Keeps s) (off : ℕ) (val : ℕ) : r.Keeps (State.mcWrite s off val) := by
  unfold State.mcWrite
  repeat' first
    | with_reducible assumption
    | with_reducible exact Keeps.refl _
    | with_reducible apply Keeps.ite
    | with_reducible apply regWrite_keeps
    | with_reducible apply fnErr_keeps
    | with_reducible apply keepsParts_of
    | intro _
    | with_reducible refine Keeps.of_eq (by assumption) ?_
    | with_reducible refine Keeps.of_eq_snd (by assumption) ?_
    | simp only [keeps_mk]
    | split

theorem State.serveMcRing_keeps {r s : State} (h : r.Keeps s) (y1 : ℕ) : r.Keeps (State.serveMcRing s y1) := by
  induction y1 generalizing s with
  | zero =>
    unfold State.serveMcRing
    repeat' first
      | with_reducible assumption
      | with_reducible exact Keeps.refl _
      | with_reducible apply Keeps.ite
      | with_reducible apply mcWrite_keeps
      | with_reducible apply keepsParts_of
      | intro _
      | with_reducible refine Keeps.of_eq (by assumption) ?_
      | with_reducible refine Keeps.of_eq_snd (by assumption) ?_
      | simp only [keeps_mk]
      | split
  | succ n0 ih =>
    unfold State.serveMcRing
    repeat' first
      | with_reducible assumption
      | with_reducible exact Keeps.refl _
      | with_reducible apply Keeps.ite
      | with_reducible apply mcWrite_keeps
      | with_reducible apply ih
      | with_reducible apply keepsParts_of
      | intro _
      | with_reducible refine Keeps.of_eq (by assumption) ?_
      | with_reducible refine Keeps.of_eq_snd (by assumption) ?_
      | simp only [keeps_mk]
      | split

theorem State.mcAsk_keeps {r s : State} (h : r.Keeps s) (off : ℕ) (val : ℕ) : r.Keeps (State.mcAsk s off val) := by
  unfold State.mcAsk
  repeat' first
    | with_reducible assumption
    | with_reducible exact Keeps.refl _
    | with_reducible apply Keeps.ite
    | with_reducible apply serveMcRing_keeps
    | with_reducible apply keepsParts_of
    | intro _
    | with_reducible refine Keeps.of_eq (by assumption) ?_
    | with_reducible refine Keeps.of_eq_snd (by assumption) ?_
    | simp only [keeps_mk]
    | split

theorem State.busWrite_keeps {r s : State} (h : r.Keeps s) (a : Agent) (off : ℕ) (val : ℕ) : r.Keeps (State.busWrite s a off val) := by
  unfold State.busWrite
  repeat' first
    | with_reducible assumption
    | with_reducible exact Keeps.refl _
    | with_reducible apply Keeps.ite
    | with_reducible apply mcAsk_keeps
    | with_reducible apply regWrite_keeps
    | with_reducible apply keepsParts_of
    | intro _
    | with_reducible refine Keeps.of_eq (by assumption) ?_
    | with_reducible refine Keeps.of_eq_snd (by assumption) ?_
    | simp only [keeps_mk]
    | split

theorem State.cpWrite_keeps {r s : State} (h : r.Keeps s) (off : ℕ) (val : ℕ) : r.Keeps (State.cpWrite s off val) := by
  unfold State.cpWrite
  repeat' first
    | with_reducible assumption
    | with_reducible exact Keeps.refl _
    | with_reducible apply Keeps.ite
    | with_reducible apply busWrite_keeps
    | with_reducible apply keepsParts_of
    | intro _
    | with_reducible refine Keeps.of_eq (by assumption) ?_
    | with_reducible refine Keeps.of_eq_snd (by assumption) ?_
    | simp only [keeps_mk]
    | split

theorem State.fldRead_keeps {r s : State} (h : r.Keeps s) (f : Fld) (i : ℕ) (lo : ℕ) (n : ℕ) : r.Keeps (State.fldRead s f i lo n) := by
  unfold State.fldRead
  repeat' first
    | with_reducible assumption
    | with_reducible exact Keeps.refl _
    | with_reducible apply Keeps.ite
    | with_reducible apply wr_keeps
    | with_reducible apply keepsParts_of
    | intro _
    | with_reducible refine Keeps.of_eq (by assumption) ?_
    | with_reducible refine Keeps.of_eq_snd (by assumption) ?_
    | simp only [keeps_mk]
    | split

theorem State.regRead_keeps {r0 s : State} (h : r0.Keeps s) (bits : ℕ) (who : ℕ) (r : Reg) (i : ℕ) (off : ℕ) (lo : ℕ) (n : ℕ) : r0.Keeps
    (State.regRead s bits who r i off lo n).1 := by
  unfold State.regRead
  repeat' first
    | with_reducible assumption
    | with_reducible exact Keeps.refl _
    | with_reducible apply Keeps.ite
    | with_reducible apply Keeps.ite_fst
    | with_reducible apply fnErr_keeps
    | with_reducible apply fldRead_keeps
    | with_reducible refine Keeps.foldl ?_ (fun u x => ?_)
    | with_reducible refine Keeps.foldl_fst ?_ (fun u x => ?_)
    | with_reducible apply keepsParts_of
    | intro _
    | with_reducible refine Keeps.of_eq (by assumption) ?_
    | with_reducible refine Keeps.of_eq_snd (by assumption) ?_
    | simp only [keeps_mk]
    | split

theorem State.busRead_keeps {r s : State} (h : r.Keeps s) (a : Agent) (off : ℕ) (lo : ℕ) (n : ℕ) : r.Keeps (State.busRead s a off lo n).1 := by
  unfold State.busRead
  repeat' first
    | with_reducible assumption
    | with_reducible exact Keeps.refl _
    | with_reducible apply Keeps.ite
    | with_reducible apply Keeps.ite_fst
    | with_reducible apply regRead_keeps
    | with_reducible apply keepsParts_of
    | intro _
    | with_reducible refine Keeps.of_eq (by assumption) ?_
    | with_reducible refine Keeps.of_eq_snd (by assumption) ?_
    | simp only [keeps_mk]
    | split

theorem State.done_keeps {r s : State} (h : r.Keeps s) (e : SubEntry) (status : ℕ) (res0 : ℕ) : r.Keeps (State.done s e status res0) := by
  unfold State.done
  repeat' first
    | with_reducible assumption
    | with_reducible exact Keeps.refl _
    | with_reducible apply Keeps.ite
    | with_reducible apply complete_keeps
    | with_reducible apply keepsParts_of
    | intro _
    | with_reducible refine Keeps.of_eq (by assumption) ?_
    | with_reducible refine Keeps.of_eq_snd (by assumption) ?_
    | simp only [keeps_mk]
    | split

theorem State.doneWith_keeps {r s : State} (h : r.Keeps s) (e : SubEntry) (status : ℕ) (res0 : ℕ) : r.Keeps (State.doneWith s e status res0) := by
  unfold State.doneWith
  repeat' first
    | with_reducible assumption
    | with_reducible exact Keeps.refl _
    | with_reducible apply Keeps.ite
    | with_reducible apply setH_keeps
    | with_reducible apply done_keeps
    | with_reducible apply keepsParts_of
    | intro _
    | with_reducible refine Keeps.of_eq (by assumption) ?_
    | with_reducible refine Keeps.of_eq_snd (by assumption) ?_
    | simp only [keeps_mk]
    | split

theorem State.command_keeps {r s : State} (h : r.Keeps s) (e : SubEntry) (code : ℕ) (body : State → ℕ → State) (hbody : ∀ (u : State) w1, u.Keeps
    (body u w1)) : r.Keeps (State.command s e code body) := by
  unfold State.command
  repeat' first
    | with_reducible assumption
    | with_reducible exact Keeps.refl _
    | with_reducible apply Keeps.ite
    | with_reducible refine Keeps.trans ?_ (hbody _ _)
    | with_reducible apply done_keeps
    | with_reducible apply keepsParts_of
    | intro _
    | with_reducible refine Keeps.of_eq (by assumption) ?_
    | with_reducible refine Keeps.of_eq_snd (by assumption) ?_
    | simp only [keeps_mk]
    | split

theorem State.cmdNop_keeps {r s : State} (h : r.Keeps s) (e : SubEntry) : r.Keeps (State.cmdNop s e) := by
  unfold State.cmdNop
  repeat' first
    | with_reducible assumption
    | with_reducible exact Keeps.refl _
    | with_reducible apply Keeps.ite
    | with_reducible apply command_keeps
    | with_reducible apply done_keeps
    | with_reducible apply keepsParts_of
    | intro _
    | with_reducible refine Keeps.of_eq (by assumption) ?_
    | with_reducible refine Keeps.of_eq_snd (by assumption) ?_
    | simp only [keeps_mk]
    | split

theorem State.cmdVersion_keeps {r s : State} (h : r.Keeps s) (e : SubEntry) : r.Keeps (State.cmdVersion s e) := by
  unfold State.cmdVersion
  repeat' first
    | with_reducible assumption
    | with_reducible exact Keeps.refl _
    | with_reducible apply Keeps.ite
    | with_reducible apply command_keeps
    | with_reducible apply mark_keeps
    | with_reducible apply complete_keeps
    | with_reducible apply keepsParts_of
    | intro _
    | with_reducible refine Keeps.of_eq (by assumption) ?_
    | with_reducible refine Keeps.of_eq_snd (by assumption) ?_
    | simp only [keeps_mk]
    | split

theorem State.readDesc_keeps {r s : State} (h : r.Keeps s) (q : ℕ) (tag : ℕ) (va : ℕ) : r.Keeps (State.readDesc s q tag va).1 := by
  unfold State.readDesc
  repeat' first
    | with_reducible assumption
    | with_reducible exact Keeps.refl _
    | with_reducible apply Keeps.ite
    | with_reducible apply Keeps.ite_fst
    | with_reducible apply vread_keeps
    | with_reducible apply keepsParts_of
    | intro _
    | with_reducible refine Keeps.of_eq (by assumption) ?_
    | with_reducible refine Keeps.of_eq_snd (by assumption) ?_
    | simp only [keeps_mk]
    | split

theorem State.submitEntry_keeps {r s : State} (h : r.Keeps s) (q : ℕ) (page : ℕ) (source : ℕ) (w : ℕ) (plan : Option (ℕ × ℕ)) : r.Keeps
    (State.submitEntry s q page source w plan).1 := by
  unfold State.submitEntry
  repeat' first
    | with_reducible assumption
    | with_reducible exact Keeps.refl _
    | with_reducible apply Keeps.ite
    | with_reducible apply Keeps.ite_fst
    | with_reducible apply readDesc_keeps
    | with_reducible apply newId_keeps
    | with_reducible apply finish_keeps
    | with_reducible apply keepsParts_of
    | intro _
    | with_reducible refine Keeps.of_eq (by assumption) ?_
    | with_reducible refine Keeps.of_eq_snd (by assumption) ?_
    | simp only [keeps_mk]
    | split

theorem State.cmdSubmit_keeps {r s : State} (h : r.Keeps s) (e : SubEntry) : r.Keeps (State.cmdSubmit s e) := by
  unfold State.cmdSubmit
  repeat' first
    | with_reducible assumption
    | with_reducible exact Keeps.refl _
    | with_reducible apply Keeps.ite
    | with_reducible apply Keeps.ite_fst
    | with_reducible apply command_keeps
    | with_reducible apply ev_keeps
    | with_reducible apply submitEntry_keeps
    | with_reducible apply setH_keeps
    | with_reducible apply keepsParts_of
    | intro _
    | with_reducible refine Keeps.of_eq (by assumption) ?_
    | with_reducible refine Keeps.of_eq_snd (by assumption) ?_
    | simp only [keeps_mk]
    | split

theorem State.planRun_keeps {r s : State} (h : r.Keeps s) (id : ℕ) (y2 : ℕ) : r.Keeps (State.planRun s id y2) := by
  induction y2 generalizing s id with
  | zero =>
    unfold State.planRun
    repeat' first
      | with_reducible assumption
      | with_reducible exact Keeps.refl _
      | with_reducible apply Keeps.ite
      | with_reducible apply Keeps.ite_fst
      | with_reducible apply setOp_keeps
      | with_reducible apply finish_keeps
      | with_reducible apply vread_keeps
      | with_reducible apply submitEntry_keeps
      | with_reducible apply updOp_keeps
      | with_reducible apply keepsParts_of
      | intro _
      | with_reducible refine Keeps.of_eq (by assumption) ?_
      | with_reducible refine Keeps.of_eq_snd (by assumption) ?_
      | simp only [keeps_mk]
      | split
  | succ n0 ih =>
    unfold State.planRun
    repeat' first
      | with_reducible assumption
      | with_reducible exact Keeps.refl _
      | with_reducible apply Keeps.ite
      | with_reducible apply Keeps.ite_fst
      | with_reducible apply setOp_keeps
      | with_reducible apply finish_keeps
      | with_reducible apply vread_keeps
      | with_reducible apply submitEntry_keeps
      | with_reducible apply updOp_keeps
      | with_reducible apply ih
      | with_reducible apply keepsParts_of
      | intro _
      | with_reducible refine Keeps.of_eq (by assumption) ?_
      | with_reducible refine Keeps.of_eq_snd (by assumption) ?_
      | simp only [keeps_mk]
      | split

theorem State.cmdPlan_keeps {r s : State} (h : r.Keeps s) (e : SubEntry) : r.Keeps (State.cmdPlan s e) := by
  unfold State.cmdPlan
  repeat' first
    | with_reducible assumption
    | with_reducible exact Keeps.refl _
    | with_reducible apply Keeps.ite
    | with_reducible apply Keeps.ite_fst
    | with_reducible apply command_keeps
    | with_reducible apply done_keeps
    | with_reducible apply ev_keeps
    | with_reducible apply newId_keeps
    | with_reducible apply planRun_keeps
    | with_reducible apply keepsParts_of
    | intro _
    | with_reducible refine Keeps.of_eq (by assumption) ?_
    | with_reducible refine Keeps.of_eq_snd (by assumption) ?_
    | simp only [keeps_mk]
    | split

theorem State.pumpPlans_keeps {r s : State} (h : r.Keeps s) : r.Keeps (State.pumpPlans s) := by
  unfold State.pumpPlans
  repeat' first
    | with_reducible assumption
    | with_reducible exact Keeps.refl _
    | with_reducible apply Keeps.ite
    | with_reducible apply planRun_keeps
    | with_reducible refine Keeps.foldl ?_ (fun u x => ?_)
    | with_reducible refine Keeps.foldl_fst ?_ (fun u x => ?_)
    | with_reducible apply keepsParts_of
    | intro _
    | with_reducible refine Keeps.of_eq (by assumption) ?_
    | with_reducible refine Keeps.of_eq_snd (by assumption) ?_
    | simp only [keeps_mk]
    | split

theorem State.retryStall_keeps {r s : State} (h : r.Keeps s) (x : Stall) : r.Keeps (State.retryStall s x) := by
  unfold State.retryStall
  repeat' first
    | with_reducible assumption
    | with_reducible exact Keeps.refl _
    | with_reducible apply Keeps.ite
    | with_reducible apply Keeps.ite_fst
    | with_reducible apply xlate_keeps
    | with_reducible apply walk_keeps
    | with_reducible apply keepsParts_of
    | intro _
    | with_reducible refine Keeps.of_eq (by assumption) ?_
    | with_reducible refine Keeps.of_eq_snd (by assumption) ?_
    | simp only [keeps_mk]
    | split

theorem State.cmdInvalidate_keeps {r s : State} (h : r.Keeps s) (e : SubEntry) : r.Keeps (State.cmdInvalidate s e) := by
  unfold State.cmdInvalidate
  repeat' first
    | with_reducible assumption
    | with_reducible exact Keeps.refl _
    | with_reducible apply Keeps.ite
    | with_reducible apply command_keeps
    | with_reducible apply done_keeps
    | with_reducible apply dropTlb_keeps
    | with_reducible apply flushRecords_keeps
    | with_reducible apply resumeFaulted_keeps
    | with_reducible apply retryStall_keeps
    | with_reducible refine Keeps.foldl ?_ (fun u x => ?_)
    | with_reducible refine Keeps.foldl_fst ?_ (fun u x => ?_)
    | with_reducible apply keepsParts_of
    | intro _
    | with_reducible refine Keeps.of_eq (by assumption) ?_
    | with_reducible refine Keeps.of_eq_snd (by assumption) ?_
    | simp only [keeps_mk]
    | split

theorem State.abortOp_keeps {r s : State} (h : r.Keeps s) (id : ℕ) : r.Keeps (State.abortOp s id) := by
  unfold State.abortOp
  repeat' first
    | with_reducible assumption
    | with_reducible exact Keeps.refl _
    | with_reducible apply Keeps.ite
    | with_reducible apply finish_keeps
    | with_reducible apply abandonPage_keeps
    | with_reducible apply syncOut_keeps
    | with_reducible apply syncUnit_keeps
    | with_reducible apply syncBlanks_keeps
    | with_reducible refine Keeps.foldl ?_ (fun u x => ?_)
    | with_reducible refine Keeps.foldl_fst ?_ (fun u x => ?_)
    | with_reducible apply keepsParts_of
    | intro _
    | with_reducible refine Keeps.of_eq (by assumption) ?_
    | with_reducible refine Keeps.of_eq_snd (by assumption) ?_
    | simp only [keeps_mk]
    | split

theorem State.cmdAbortFault_keeps {r s : State} (h : r.Keeps s) (e : SubEntry) : r.Keeps (State.cmdAbortFault s e) := by
  unfold State.cmdAbortFault
  repeat' first
    | with_reducible assumption
    | with_reducible exact Keeps.refl _
    | with_reducible apply Keeps.ite
    | with_reducible apply command_keeps
    | with_reducible apply abortOp_keeps
    | with_reducible apply abortRetire_keeps
    | with_reducible apply done_keeps
    | with_reducible refine Keeps.foldl ?_ (fun u x => ?_)
    | with_reducible refine Keeps.foldl_fst ?_ (fun u x => ?_)
    | with_reducible apply keepsParts_of
    | intro _
    | with_reducible refine Keeps.of_eq (by assumption) ?_
    | with_reducible refine Keeps.of_eq_snd (by assumption) ?_
    | simp only [keeps_mk]
    | split

theorem State.cmdFqHead_keeps {r s : State} (h : r.Keeps s) (e : SubEntry) : r.Keeps (State.cmdFqHead s e) := by
  unfold State.cmdFqHead
  repeat' first
    | with_reducible assumption
    | with_reducible exact Keeps.refl _
    | with_reducible apply Keeps.ite
    | with_reducible apply command_keeps
    | with_reducible apply done_keeps
    | with_reducible apply cpWrite_keeps
    | with_reducible apply keepsParts_of
    | intro _
    | with_reducible refine Keeps.of_eq (by assumption) ?_
    | with_reducible refine Keeps.of_eq_snd (by assumption) ?_
    | simp only [keeps_mk]
    | split

theorem State.cmdMmuCfg_keeps {r s : State} (h : r.Keeps s) (e : SubEntry) : r.Keeps (State.cmdMmuCfg s e) := by
  unfold State.cmdMmuCfg
  repeat' first
    | with_reducible assumption
    | with_reducible exact Keeps.refl _
    | with_reducible apply Keeps.ite
    | with_reducible apply command_keeps
    | with_reducible apply cpWrite_keeps
    | with_reducible apply done_keeps
    | with_reducible apply keepsParts_of
    | intro _
    | with_reducible refine Keeps.of_eq (by assumption) ?_
    | with_reducible refine Keeps.of_eq_snd (by assumption) ?_
    | simp only [keeps_mk]
    | split

theorem State.cmdReleaseKeep_keeps {r s : State} (h : r.Keeps s) (e : SubEntry) : r.Keeps (State.cmdReleaseKeep s e) := by
  unfold State.cmdReleaseKeep
  repeat' first
    | with_reducible assumption
    | with_reducible exact Keeps.refl _
    | with_reducible apply Keeps.ite
    | with_reducible apply command_keeps
    | with_reducible apply done_keeps
    | with_reducible apply keepsParts_of
    | intro _
    | with_reducible refine Keeps.of_eq (by assumption) ?_
    | with_reducible refine Keeps.of_eq_snd (by assumption) ?_
    | simp only [keeps_mk]
    | split

theorem State.cmdUnit_keeps {r s : State} (h : r.Keeps s) (e : SubEntry) : r.Keeps (State.cmdUnit s e) := by
  unfold State.cmdUnit
  repeat' first
    | with_reducible assumption
    | with_reducible exact Keeps.refl _
    | with_reducible apply Keeps.ite
    | with_reducible apply command_keeps
    | with_reducible apply done_keeps
    | with_reducible apply cpWrite_keeps
    | with_reducible apply keepsParts_of
    | intro _
    | with_reducible refine Keeps.of_eq (by assumption) ?_
    | with_reducible refine Keeps.of_eq_snd (by assumption) ?_
    | simp only [keeps_mk]
    | split

theorem State.cmdHostWin_keeps {r s : State} (h : r.Keeps s) (e : SubEntry) : r.Keeps (State.cmdHostWin s e) := by
  unfold State.cmdHostWin
  repeat' first
    | with_reducible assumption
    | with_reducible exact Keeps.refl _
    | with_reducible apply Keeps.ite
    | with_reducible apply command_keeps
    | with_reducible apply done_keeps
    | with_reducible apply cpWrite_keeps
    | with_reducible apply keepsParts_of
    | intro _
    | with_reducible refine Keeps.of_eq (by assumption) ?_
    | with_reducible refine Keeps.of_eq_snd (by assumption) ?_
    | simp only [keeps_mk]
    | split

theorem State.moveHead_keeps {r s : State} (h : r.Keeps s) (q : ℕ) (b : ℕ) (n : ℕ) : r.Keeps (State.moveHead s q b n) := by
  unfold State.moveHead
  repeat' first
    | with_reducible assumption
    | with_reducible exact Keeps.refl _
    | with_reducible apply Keeps.ite
    | with_reducible apply mark_keeps
    | with_reducible apply wr_keeps
    | with_reducible apply keepsParts_of
    | intro _
    | with_reducible refine Keeps.of_eq (by assumption) ?_
    | with_reducible refine Keeps.of_eq_snd (by assumption) ?_
    | simp only [keeps_mk]
    | split

theorem State.cmdSwap_keeps {r s : State} (h : r.Keeps s) (e : SubEntry) : r.Keeps (State.cmdSwap s e) := by
  unfold State.cmdSwap
  repeat' first
    | with_reducible assumption
    | with_reducible exact Keeps.refl _
    | with_reducible apply Keeps.ite
    | with_reducible apply command_keeps
    | with_reducible apply done_keeps
    | with_reducible apply moveHead_keeps
    | with_reducible apply keepsParts_of
    | intro _
    | with_reducible refine Keeps.of_eq (by assumption) ?_
    | with_reducible refine Keeps.of_eq_snd (by assumption) ?_
    | simp only [keeps_mk]
    | split

theorem State.cmdAdvance_keeps {r s : State} (h : r.Keeps s) (e : SubEntry) : r.Keeps (State.cmdAdvance s e) := by
  unfold State.cmdAdvance
  repeat' first
    | with_reducible assumption
    | with_reducible exact Keeps.refl _
    | with_reducible apply Keeps.ite
    | with_reducible apply command_keeps
    | with_reducible apply done_keeps
    | with_reducible apply moveHead_keeps
    | with_reducible apply keepsParts_of
    | intro _
    | with_reducible refine Keeps.of_eq (by assumption) ?_
    | with_reducible refine Keeps.of_eq_snd (by assumption) ?_
    | simp only [keeps_mk]
    | split

theorem State.cmdBarrier_keeps {r s : State} (h : r.Keeps s) (e : SubEntry) : r.Keeps (State.cmdBarrier s e) := by
  unfold State.cmdBarrier
  repeat' first
    | with_reducible assumption
    | with_reducible exact Keeps.refl _
    | with_reducible apply Keeps.ite
    | with_reducible apply command_keeps
    | with_reducible apply done_keeps
    | with_reducible apply cpWrite_keeps
    | with_reducible apply keepsParts_of
    | intro _
    | with_reducible refine Keeps.of_eq (by assumption) ?_
    | with_reducible refine Keeps.of_eq_snd (by assumption) ?_
    | simp only [keeps_mk]
    | split

theorem State.cmdBufCfg_keeps {r s : State} (h : r.Keeps s) (e : SubEntry) : r.Keeps (State.cmdBufCfg s e) := by
  unfold State.cmdBufCfg
  repeat' first
    | with_reducible assumption
    | with_reducible exact Keeps.refl _
    | with_reducible apply Keeps.ite
    | with_reducible apply command_keeps
    | with_reducible apply done_keeps
    | with_reducible apply cpWrite_keeps
    | with_reducible apply keepsParts_of
    | intro _
    | with_reducible refine Keeps.of_eq (by assumption) ?_
    | with_reducible refine Keeps.of_eq_snd (by assumption) ?_
    | simp only [keeps_mk]
    | split

theorem State.cmdCbLoad_keeps {r s : State} (h : r.Keeps s) (e : SubEntry) : r.Keeps (State.cmdCbLoad s e) := by
  unfold State.cmdCbLoad
  repeat' first
    | with_reducible assumption
    | with_reducible exact Keeps.refl _
    | with_reducible apply Keeps.ite
    | with_reducible apply Keeps.ite_fst
    | with_reducible apply command_keeps
    | with_reducible apply done_keeps
    | with_reducible apply vread_keeps
    | with_reducible apply doneWith_keeps
    | with_reducible apply wr_keeps
    | with_reducible apply mark_keeps
    | with_reducible apply keepsParts_of
    | intro _
    | with_reducible refine Keeps.of_eq (by assumption) ?_
    | with_reducible refine Keeps.of_eq_snd (by assumption) ?_
    | simp only [keeps_mk]
    | split

theorem State.cmdCbUnload_keeps {r s : State} (h : r.Keeps s) (e : SubEntry) : r.Keeps (State.cmdCbUnload s e) := by
  unfold State.cmdCbUnload
  repeat' first
    | with_reducible assumption
    | with_reducible exact Keeps.refl _
    | with_reducible apply Keeps.ite
    | with_reducible apply command_keeps
    | with_reducible apply done_keeps
    | with_reducible apply mark_keeps
    | with_reducible apply keepsParts_of
    | intro _
    | with_reducible refine Keeps.of_eq (by assumption) ?_
    | with_reducible refine Keeps.of_eq_snd (by assumption) ?_
    | simp only [keeps_mk]
    | split

theorem State.cmdVerdict_keeps {r s : State} (h : r.Keeps s) (e : SubEntry) : r.Keeps (State.cmdVerdict s e) := by
  unfold State.cmdVerdict
  repeat' first
    | with_reducible assumption
    | with_reducible exact Keeps.refl _
    | with_reducible apply Keeps.ite
    | with_reducible apply Keeps.ite_fst
    | with_reducible apply command_keeps
    | with_reducible apply giveVerdict_keeps
    | with_reducible apply wr_keeps
    | with_reducible apply done_keeps
    | with_reducible apply keepsParts_of
    | intro _
    | with_reducible refine Keeps.of_eq (by assumption) ?_
    | with_reducible refine Keeps.of_eq_snd (by assumption) ?_
    | simp only [keeps_mk]
    | split

theorem State.cmdSetScale_keeps {r s : State} (h : r.Keeps s) (e : SubEntry) : r.Keeps (State.cmdSetScale s e) := by
  unfold State.cmdSetScale
  repeat' first
    | with_reducible assumption
    | with_reducible exact Keeps.refl _
    | with_reducible apply Keeps.ite
    | with_reducible apply command_keeps
    | with_reducible apply done_keeps
    | with_reducible apply wr_keeps
    | with_reducible apply keepsParts_of
    | intro _
    | with_reducible refine Keeps.of_eq (by assumption) ?_
    | with_reducible refine Keeps.of_eq_snd (by assumption) ?_
    | simp only [keeps_mk]
    | split

theorem State.cmdSetStep_keeps {r s : State} (h : r.Keeps s) (e : SubEntry) : r.Keeps (State.cmdSetStep s e) := by
  unfold State.cmdSetStep
  repeat' first
    | with_reducible assumption
    | with_reducible exact Keeps.refl _
    | with_reducible apply Keeps.ite
    | with_reducible apply command_keeps
    | with_reducible apply done_keeps
    | with_reducible apply wr_keeps
    | with_reducible apply keepsParts_of
    | intro _
    | with_reducible refine Keeps.of_eq (by assumption) ?_
    | with_reducible refine Keeps.of_eq_snd (by assumption) ?_
    | simp only [keeps_mk]
    | split

theorem State.cmdJournal_keeps {r s : State} (h : r.Keeps s) (e : SubEntry) : r.Keeps (State.cmdJournal s e) := by
  unfold State.cmdJournal
  repeat' first
    | with_reducible assumption
    | with_reducible exact Keeps.refl _
    | with_reducible apply Keeps.ite
    | with_reducible apply command_keeps
    | with_reducible apply done_keeps
    | with_reducible apply wr_keeps
    | with_reducible apply keepsParts_of
    | intro _
    | with_reducible refine Keeps.of_eq (by assumption) ?_
    | with_reducible refine Keeps.of_eq_snd (by assumption) ?_
    | simp only [keeps_mk]
    | split

theorem State.cmdHist_keeps {r s : State} (h : r.Keeps s) (e : SubEntry) : r.Keeps (State.cmdHist s e) := by
  unfold State.cmdHist
  repeat' first
    | with_reducible assumption
    | with_reducible exact Keeps.refl _
    | with_reducible apply Keeps.ite
    | with_reducible apply Keeps.ite_fst
    | with_reducible apply command_keeps
    | with_reducible apply done_keeps
    | with_reducible apply vwrite_keeps
    | with_reducible apply histClear_keeps
    | with_reducible apply doneWith_keeps
    | with_reducible apply keepsParts_of
    | intro _
    | with_reducible refine Keeps.of_eq (by assumption) ?_
    | with_reducible refine Keeps.of_eq_snd (by assumption) ?_
    | simp only [keeps_mk]
    | split

theorem execNop_keeps (e : SubEntry) {s : State} : s.KeepsNext (execNop e s) := by
  unfold execNop
  repeat' first
    | with_reducible assumption
    | with_reducible exact Keeps.refl _
    | with_reducible apply KeepsNext.next
    | with_reducible apply KeepsNext.ite
    | with_reducible apply Keeps.ite
    | with_reducible apply cmdNop_keeps
    | with_reducible apply keepsParts_of
    | intro _
    | with_reducible refine Keeps.of_eq (by assumption) ?_
    | with_reducible refine Keeps.of_eq_snd (by assumption) ?_
    | simp only [keeps_mk]
    | split

theorem execVersion_keeps (e : SubEntry) {s : State} : s.KeepsNext (execVersion e s) := by
  unfold execVersion
  repeat' first
    | with_reducible assumption
    | with_reducible exact Keeps.refl _
    | with_reducible apply KeepsNext.next
    | with_reducible apply KeepsNext.ite
    | with_reducible apply Keeps.ite
    | with_reducible apply cmdVersion_keeps
    | with_reducible apply keepsParts_of
    | intro _
    | with_reducible refine Keeps.of_eq (by assumption) ?_
    | with_reducible refine Keeps.of_eq_snd (by assumption) ?_
    | simp only [keeps_mk]
    | split

theorem execSubmit_keeps (e : SubEntry) {s : State} : s.KeepsNext (execSubmit e s) := by
  unfold execSubmit
  repeat' first
    | with_reducible assumption
    | with_reducible exact Keeps.refl _
    | with_reducible apply KeepsNext.next
    | with_reducible apply KeepsNext.ite
    | with_reducible apply Keeps.ite
    | with_reducible apply cmdSubmit_keeps
    | with_reducible apply keepsParts_of
    | intro _
    | with_reducible refine Keeps.of_eq (by assumption) ?_
    | with_reducible refine Keeps.of_eq_snd (by assumption) ?_
    | simp only [keeps_mk]
    | split

theorem execPlan_keeps (e : SubEntry) {s : State} : s.KeepsNext (execPlan e s) := by
  unfold execPlan
  repeat' first
    | with_reducible assumption
    | with_reducible exact Keeps.refl _
    | with_reducible apply KeepsNext.next
    | with_reducible apply KeepsNext.ite
    | with_reducible apply Keeps.ite
    | with_reducible apply cmdPlan_keeps
    | with_reducible apply keepsParts_of
    | intro _
    | with_reducible refine Keeps.of_eq (by assumption) ?_
    | with_reducible refine Keeps.of_eq_snd (by assumption) ?_
    | simp only [keeps_mk]
    | split

theorem execInvalidate_keeps (e : SubEntry) {s : State} : s.KeepsNext (execInvalidate e s) := by
  unfold execInvalidate
  repeat' first
    | with_reducible assumption
    | with_reducible exact Keeps.refl _
    | with_reducible apply KeepsNext.next
    | with_reducible apply KeepsNext.ite
    | with_reducible apply Keeps.ite
    | with_reducible apply cmdInvalidate_keeps
    | with_reducible apply keepsParts_of
    | intro _
    | with_reducible refine Keeps.of_eq (by assumption) ?_
    | with_reducible refine Keeps.of_eq_snd (by assumption) ?_
    | simp only [keeps_mk]
    | split

theorem execAbortFault_keeps (e : SubEntry) {s : State} : s.KeepsNext (execAbortFault e s) := by
  unfold execAbortFault
  repeat' first
    | with_reducible assumption
    | with_reducible exact Keeps.refl _
    | with_reducible apply KeepsNext.next
    | with_reducible apply KeepsNext.ite
    | with_reducible apply Keeps.ite
    | with_reducible apply cmdAbortFault_keeps
    | with_reducible apply keepsParts_of
    | intro _
    | with_reducible refine Keeps.of_eq (by assumption) ?_
    | with_reducible refine Keeps.of_eq_snd (by assumption) ?_
    | simp only [keeps_mk]
    | split

theorem execFqHead_keeps (e : SubEntry) {s : State} : s.KeepsNext (execFqHead e s) := by
  unfold execFqHead
  repeat' first
    | with_reducible assumption
    | with_reducible exact Keeps.refl _
    | with_reducible apply KeepsNext.next
    | with_reducible apply KeepsNext.ite
    | with_reducible apply Keeps.ite
    | with_reducible apply cmdFqHead_keeps
    | with_reducible apply keepsParts_of
    | intro _
    | with_reducible refine Keeps.of_eq (by assumption) ?_
    | with_reducible refine Keeps.of_eq_snd (by assumption) ?_
    | simp only [keeps_mk]
    | split

theorem execMmuCfg_keeps (e : SubEntry) {s : State} : s.KeepsNext (execMmuCfg e s) := by
  unfold execMmuCfg
  repeat' first
    | with_reducible assumption
    | with_reducible exact Keeps.refl _
    | with_reducible apply KeepsNext.next
    | with_reducible apply KeepsNext.ite
    | with_reducible apply Keeps.ite
    | with_reducible apply cmdMmuCfg_keeps
    | with_reducible apply keepsParts_of
    | intro _
    | with_reducible refine Keeps.of_eq (by assumption) ?_
    | with_reducible refine Keeps.of_eq_snd (by assumption) ?_
    | simp only [keeps_mk]
    | split

theorem execReleaseKeep_keeps (e : SubEntry) {s : State} : s.KeepsNext (execReleaseKeep e s) := by
  unfold execReleaseKeep
  repeat' first
    | with_reducible assumption
    | with_reducible exact Keeps.refl _
    | with_reducible apply KeepsNext.next
    | with_reducible apply KeepsNext.ite
    | with_reducible apply Keeps.ite
    | with_reducible apply cmdReleaseKeep_keeps
    | with_reducible apply keepsParts_of
    | intro _
    | with_reducible refine Keeps.of_eq (by assumption) ?_
    | with_reducible refine Keeps.of_eq_snd (by assumption) ?_
    | simp only [keeps_mk]
    | split

theorem execUnit_keeps (e : SubEntry) {s : State} : s.KeepsNext (execUnit e s) := by
  unfold execUnit
  repeat' first
    | with_reducible assumption
    | with_reducible exact Keeps.refl _
    | with_reducible apply KeepsNext.next
    | with_reducible apply KeepsNext.ite
    | with_reducible apply Keeps.ite
    | with_reducible apply cmdUnit_keeps
    | with_reducible apply keepsParts_of
    | intro _
    | with_reducible refine Keeps.of_eq (by assumption) ?_
    | with_reducible refine Keeps.of_eq_snd (by assumption) ?_
    | simp only [keeps_mk]
    | split

theorem execHostWin_keeps (e : SubEntry) {s : State} : s.KeepsNext (execHostWin e s) := by
  unfold execHostWin
  repeat' first
    | with_reducible assumption
    | with_reducible exact Keeps.refl _
    | with_reducible apply KeepsNext.next
    | with_reducible apply KeepsNext.ite
    | with_reducible apply Keeps.ite
    | with_reducible apply cmdHostWin_keeps
    | with_reducible apply keepsParts_of
    | intro _
    | with_reducible refine Keeps.of_eq (by assumption) ?_
    | with_reducible refine Keeps.of_eq_snd (by assumption) ?_
    | simp only [keeps_mk]
    | split

theorem execSwap_keeps (e : SubEntry) {s : State} : s.KeepsNext (execSwap e s) := by
  unfold execSwap
  repeat' first
    | with_reducible assumption
    | with_reducible exact Keeps.refl _
    | with_reducible apply KeepsNext.next
    | with_reducible apply KeepsNext.ite
    | with_reducible apply Keeps.ite
    | with_reducible apply cmdSwap_keeps
    | with_reducible apply keepsParts_of
    | intro _
    | with_reducible refine Keeps.of_eq (by assumption) ?_
    | with_reducible refine Keeps.of_eq_snd (by assumption) ?_
    | simp only [keeps_mk]
    | split

theorem execAdvance_keeps (e : SubEntry) {s : State} : s.KeepsNext (execAdvance e s) := by
  unfold execAdvance
  repeat' first
    | with_reducible assumption
    | with_reducible exact Keeps.refl _
    | with_reducible apply KeepsNext.next
    | with_reducible apply KeepsNext.ite
    | with_reducible apply Keeps.ite
    | with_reducible apply cmdAdvance_keeps
    | with_reducible apply keepsParts_of
    | intro _
    | with_reducible refine Keeps.of_eq (by assumption) ?_
    | with_reducible refine Keeps.of_eq_snd (by assumption) ?_
    | simp only [keeps_mk]
    | split

theorem execBarrier_keeps (e : SubEntry) {s : State} : s.KeepsNext (execBarrier e s) := by
  unfold execBarrier
  repeat' first
    | with_reducible assumption
    | with_reducible exact Keeps.refl _
    | with_reducible apply KeepsNext.next
    | with_reducible apply KeepsNext.ite
    | with_reducible apply Keeps.ite
    | with_reducible apply cmdBarrier_keeps
    | with_reducible apply keepsParts_of
    | intro _
    | with_reducible refine Keeps.of_eq (by assumption) ?_
    | with_reducible refine Keeps.of_eq_snd (by assumption) ?_
    | simp only [keeps_mk]
    | split

theorem execBufCfg_keeps (e : SubEntry) {s : State} : s.KeepsNext (execBufCfg e s) := by
  unfold execBufCfg
  repeat' first
    | with_reducible assumption
    | with_reducible exact Keeps.refl _
    | with_reducible apply KeepsNext.next
    | with_reducible apply KeepsNext.ite
    | with_reducible apply Keeps.ite
    | with_reducible apply cmdBufCfg_keeps
    | with_reducible apply keepsParts_of
    | intro _
    | with_reducible refine Keeps.of_eq (by assumption) ?_
    | with_reducible refine Keeps.of_eq_snd (by assumption) ?_
    | simp only [keeps_mk]
    | split

theorem execCbLoad_keeps (e : SubEntry) {s : State} : s.KeepsNext (execCbLoad e s) := by
  unfold execCbLoad
  repeat' first
    | with_reducible assumption
    | with_reducible exact Keeps.refl _
    | with_reducible apply KeepsNext.next
    | with_reducible apply KeepsNext.ite
    | with_reducible apply Keeps.ite
    | with_reducible apply cmdCbLoad_keeps
    | with_reducible apply keepsParts_of
    | intro _
    | with_reducible refine Keeps.of_eq (by assumption) ?_
    | with_reducible refine Keeps.of_eq_snd (by assumption) ?_
    | simp only [keeps_mk]
    | split

theorem execCbUnload_keeps (e : SubEntry) {s : State} : s.KeepsNext (execCbUnload e s) := by
  unfold execCbUnload
  repeat' first
    | with_reducible assumption
    | with_reducible exact Keeps.refl _
    | with_reducible apply KeepsNext.next
    | with_reducible apply KeepsNext.ite
    | with_reducible apply Keeps.ite
    | with_reducible apply cmdCbUnload_keeps
    | with_reducible apply keepsParts_of
    | intro _
    | with_reducible refine Keeps.of_eq (by assumption) ?_
    | with_reducible refine Keeps.of_eq_snd (by assumption) ?_
    | simp only [keeps_mk]
    | split

theorem execVerdict_keeps (e : SubEntry) {s : State} : s.KeepsNext (execVerdict e s) := by
  unfold execVerdict
  repeat' first
    | with_reducible assumption
    | with_reducible exact Keeps.refl _
    | with_reducible apply KeepsNext.next
    | with_reducible apply KeepsNext.ite
    | with_reducible apply Keeps.ite
    | with_reducible apply cmdVerdict_keeps
    | with_reducible apply keepsParts_of
    | intro _
    | with_reducible refine Keeps.of_eq (by assumption) ?_
    | with_reducible refine Keeps.of_eq_snd (by assumption) ?_
    | simp only [keeps_mk]
    | split

theorem execSetScale_keeps (e : SubEntry) {s : State} : s.KeepsNext (execSetScale e s) := by
  unfold execSetScale
  repeat' first
    | with_reducible assumption
    | with_reducible exact Keeps.refl _
    | with_reducible apply KeepsNext.next
    | with_reducible apply KeepsNext.ite
    | with_reducible apply Keeps.ite
    | with_reducible apply cmdSetScale_keeps
    | with_reducible apply keepsParts_of
    | intro _
    | with_reducible refine Keeps.of_eq (by assumption) ?_
    | with_reducible refine Keeps.of_eq_snd (by assumption) ?_
    | simp only [keeps_mk]
    | split

theorem execSetStep_keeps (e : SubEntry) {s : State} : s.KeepsNext (execSetStep e s) := by
  unfold execSetStep
  repeat' first
    | with_reducible assumption
    | with_reducible exact Keeps.refl _
    | with_reducible apply KeepsNext.next
    | with_reducible apply KeepsNext.ite
    | with_reducible apply Keeps.ite
    | with_reducible apply cmdSetStep_keeps
    | with_reducible apply keepsParts_of
    | intro _
    | with_reducible refine Keeps.of_eq (by assumption) ?_
    | with_reducible refine Keeps.of_eq_snd (by assumption) ?_
    | simp only [keeps_mk]
    | split

theorem execJournal_keeps (e : SubEntry) {s : State} : s.KeepsNext (execJournal e s) := by
  unfold execJournal
  repeat' first
    | with_reducible assumption
    | with_reducible exact Keeps.refl _
    | with_reducible apply KeepsNext.next
    | with_reducible apply KeepsNext.ite
    | with_reducible apply Keeps.ite
    | with_reducible apply cmdJournal_keeps
    | with_reducible apply keepsParts_of
    | intro _
    | with_reducible refine Keeps.of_eq (by assumption) ?_
    | with_reducible refine Keeps.of_eq_snd (by assumption) ?_
    | simp only [keeps_mk]
    | split

theorem execHist_keeps (e : SubEntry) {s : State} : s.KeepsNext (execHist e s) := by
  unfold execHist
  repeat' first
    | with_reducible assumption
    | with_reducible exact Keeps.refl _
    | with_reducible apply KeepsNext.next
    | with_reducible apply KeepsNext.ite
    | with_reducible apply Keeps.ite
    | with_reducible apply cmdHist_keeps
    | with_reducible apply keepsParts_of
    | intro _
    | with_reducible refine Keeps.of_eq (by assumption) ?_
    | with_reducible refine Keeps.of_eq_snd (by assumption) ?_
    | simp only [keeps_mk]
    | split

theorem State.cmdConfig_keeps {r s : State} (h : r.Keeps s) (e : SubEntry) : r.Keeps (State.cmdConfig s e) := by
  unfold State.cmdConfig
  repeat' first
    | with_reducible assumption
    | with_reducible exact Keeps.refl _
    | with_reducible apply Keeps.ite
    | with_reducible apply command_keeps
    | with_reducible apply done_keeps
    | with_reducible apply setH_keeps
    | with_reducible apply syncPending_keeps
    | with_reducible apply wr_keeps
    | with_reducible apply keepsParts_of
    | intro _
    | with_reducible refine Keeps.of_eq (by assumption) ?_
    | with_reducible refine Keeps.of_eq_snd (by assumption) ?_
    | simp only [keeps_mk]
    | split

theorem State.cmdHalt_keeps {r s : State} (h : r.Keeps s) (e : SubEntry) : r.Keeps (State.cmdHalt s e) := by
  unfold State.cmdHalt
  repeat' first
    | with_reducible assumption
    | with_reducible exact Keeps.refl _
    | with_reducible apply Keeps.ite
    | with_reducible apply command_keeps
    | with_reducible apply done_keeps
    | with_reducible apply haltQuarter_keeps
    | with_reducible apply keepsParts_of
    | intro _
    | with_reducible refine Keeps.of_eq (by assumption) ?_
    | with_reducible refine Keeps.of_eq_snd (by assumption) ?_
    | simp only [keeps_mk]
    | split

theorem State.cmdRelease_keeps {r s : State} (h : r.Keeps s) (e : SubEntry) : r.Keeps (State.cmdRelease s e) := by
  unfold State.cmdRelease
  repeat' first
    | with_reducible assumption
    | with_reducible exact Keeps.refl _
    | with_reducible apply Keeps.ite
    | with_reducible apply command_keeps
    | with_reducible apply done_keeps
    | with_reducible apply setH_keeps
    | with_reducible apply keepsParts_of
    | intro _
    | with_reducible refine Keeps.of_eq (by assumption) ?_
    | with_reducible refine Keeps.of_eq_snd (by assumption) ?_
    | simp only [keeps_mk]
    | split

theorem State.cmdCores_keeps {r s : State} (h : r.Keeps s) (e : SubEntry) : r.Keeps (State.cmdCores s e) := by
  unfold State.cmdCores
  repeat' first
    | with_reducible assumption
    | with_reducible exact Keeps.refl _
    | with_reducible apply Keeps.ite
    | with_reducible apply command_keeps
    | with_reducible apply done_keeps
    | with_reducible apply cpWrite_keeps
    | with_reducible apply keepsParts_of
    | intro _
    | with_reducible refine Keeps.of_eq (by assumption) ?_
    | with_reducible refine Keeps.of_eq_snd (by assumption) ?_
    | simp only [keeps_mk]
    | split

theorem State.cmdPfWin_keeps {r s : State} (h : r.Keeps s) (e : SubEntry) : r.Keeps (State.cmdPfWin s e) := by
  unfold State.cmdPfWin
  repeat' first
    | with_reducible assumption
    | with_reducible exact Keeps.refl _
    | with_reducible apply Keeps.ite
    | with_reducible apply command_keeps
    | with_reducible apply done_keeps
    | with_reducible apply cpWrite_keeps
    | with_reducible apply keepsParts_of
    | intro _
    | with_reducible refine Keeps.of_eq (by assumption) ?_
    | with_reducible refine Keeps.of_eq_snd (by assumption) ?_
    | simp only [keeps_mk]
    | split

theorem State.cmdBank_keeps {r s : State} (h : r.Keeps s) (e : SubEntry) : r.Keeps (State.cmdBank s e) := by
  unfold State.cmdBank
  repeat' first
    | with_reducible assumption
    | with_reducible exact Keeps.refl _
    | with_reducible apply Keeps.ite
    | with_reducible apply command_keeps
    | with_reducible apply done_keeps
    | with_reducible apply wr_keeps
    | with_reducible apply setH_keeps
    | with_reducible apply keepsParts_of
    | intro _
    | with_reducible refine Keeps.of_eq (by assumption) ?_
    | with_reducible refine Keeps.of_eq_snd (by assumption) ?_
    | simp only [keeps_mk]
    | split

theorem State.cmdFence_keeps {r s : State} (h : r.Keeps s) (e : SubEntry) : r.Keeps (State.cmdFence s e) := by
  unfold State.cmdFence
  repeat' first
    | with_reducible assumption
    | with_reducible exact Keeps.refl _
    | with_reducible apply Keeps.ite
    | with_reducible apply command_keeps
    | with_reducible apply done_keeps
    | with_reducible apply fenceReq_keeps
    | with_reducible apply keepsParts_of
    | intro _
    | with_reducible refine Keeps.of_eq (by assumption) ?_
    | with_reducible refine Keeps.of_eq_snd (by assumption) ?_
    | simp only [keeps_mk]
    | split

theorem State.cmdUnfence_keeps {r s : State} (h : r.Keeps s) (e : SubEntry) : r.Keeps (State.cmdUnfence s e) := by
  unfold State.cmdUnfence
  repeat' first
    | with_reducible assumption
    | with_reducible exact Keeps.refl _
    | with_reducible apply Keeps.ite
    | with_reducible apply command_keeps
    | with_reducible apply done_keeps
    | with_reducible apply mcAsk_keeps
    | with_reducible apply keepsParts_of
    | intro _
    | with_reducible refine Keeps.of_eq (by assumption) ?_
    | with_reducible refine Keeps.of_eq_snd (by assumption) ?_
    | simp only [keeps_mk]
    | split

theorem State.cmdRoute_keeps {r s : State} (h : r.Keeps s) (e : SubEntry) : r.Keeps (State.cmdRoute s e) := by
  unfold State.cmdRoute
  repeat' first
    | with_reducible assumption
    | with_reducible exact Keeps.refl _
    | with_reducible apply Keeps.ite
    | with_reducible apply command_keeps
    | with_reducible apply done_keeps
    | with_reducible apply setH_keeps
    | with_reducible apply wr_keeps
    | with_reducible apply keepsParts_of
    | intro _
    | with_reducible refine Keeps.of_eq (by assumption) ?_
    | with_reducible refine Keeps.of_eq_snd (by assumption) ?_
    | simp only [keeps_mk]
    | split

theorem State.cmdFabricCfg_keeps {r s : State} (h : r.Keeps s) (e : SubEntry) : r.Keeps (State.cmdFabricCfg s e) := by
  unfold State.cmdFabricCfg
  repeat' first
    | with_reducible assumption
    | with_reducible exact Keeps.refl _
    | with_reducible apply Keeps.ite
    | with_reducible apply command_keeps
    | with_reducible apply done_keeps
    | with_reducible apply wr_keeps
    | with_reducible apply keepsParts_of
    | intro _
    | with_reducible refine Keeps.of_eq (by assumption) ?_
    | with_reducible refine Keeps.of_eq_snd (by assumption) ?_
    | simp only [keeps_mk]
    | split

theorem State.cmdModId_keeps {r s : State} (h : r.Keeps s) (e : SubEntry) : r.Keeps (State.cmdModId s e) := by
  unfold State.cmdModId
  repeat' first
    | with_reducible assumption
    | with_reducible exact Keeps.refl _
    | with_reducible apply Keeps.ite
    | with_reducible apply command_keeps
    | with_reducible apply done_keeps
    | with_reducible apply wr_keeps
    | with_reducible apply keepsParts_of
    | intro _
    | with_reducible refine Keeps.of_eq (by assumption) ?_
    | with_reducible refine Keeps.of_eq_snd (by assumption) ?_
    | simp only [keeps_mk]
    | split

theorem State.cmdLink_keeps {r s : State} (h : r.Keeps s) (e : SubEntry) : r.Keeps (State.cmdLink s e) := by
  unfold State.cmdLink
  repeat' first
    | with_reducible assumption
    | with_reducible exact Keeps.refl _
    | with_reducible apply Keeps.ite
    | with_reducible apply command_keeps
    | with_reducible apply done_keeps
    | with_reducible apply setH_keeps
    | with_reducible apply bump_keeps
    | with_reducible apply keepsParts_of
    | intro _
    | with_reducible refine Keeps.of_eq (by assumption) ?_
    | with_reducible refine Keeps.of_eq_snd (by assumption) ?_
    | simp only [keeps_mk]
    | split

theorem State.putHost_keeps {r s : State} (h : r.Keeps s) (page : ℕ) (a : ℕ) (d : List Byte) : r.Keeps (State.putHost s page a d) := by
  unfold State.putHost
  repeat' first
    | with_reducible assumption
    | with_reducible exact Keeps.refl _
    | with_reducible apply Keeps.ite
    | with_reducible apply setBytes_keeps
    | with_reducible apply keepsParts_of
    | intro _
    | with_reducible refine Keeps.of_eq (by assumption) ?_
    | with_reducible refine Keeps.of_eq_snd (by assumption) ?_
    | simp only [keeps_mk]
    | split

theorem State.cmdFwLoad_keeps {r s : State} (h : r.Keeps s) (e : SubEntry) : r.Keeps (State.cmdFwLoad s e) := by
  unfold State.cmdFwLoad
  repeat' first
    | with_reducible assumption
    | with_reducible exact Keeps.refl _
    | with_reducible apply Keeps.ite
    | with_reducible apply command_keeps
    | with_reducible apply done_keeps
    | with_reducible apply setObj_keeps
    | with_reducible apply wr_keeps
    | with_reducible apply setH_keeps
    | with_reducible apply keepsParts_of
    | intro _
    | with_reducible refine Keeps.of_eq (by assumption) ?_
    | with_reducible refine Keeps.of_eq_snd (by assumption) ?_
    | simp only [keeps_mk]
    | split

theorem State.cmdFwSelect_keeps {r s : State} (h : r.Keeps s) (e : SubEntry) : r.Keeps (State.cmdFwSelect s e) := by
  unfold State.cmdFwSelect
  repeat' first
    | with_reducible assumption
    | with_reducible exact Keeps.refl _
    | with_reducible apply Keeps.ite
    | with_reducible apply command_keeps
    | with_reducible apply done_keeps
    | with_reducible apply mark_keeps
    | with_reducible apply setH_keeps
    | with_reducible apply keepsParts_of
    | intro _
    | with_reducible refine Keeps.of_eq (by assumption) ?_
    | with_reducible refine Keeps.of_eq_snd (by assumption) ?_
    | simp only [keeps_mk]
    | split

theorem State.afterLoad_keeps {r s : State} (h : r.Keeps s) : r.Keeps (State.afterLoad s) := by
  unfold State.afterLoad
  repeat' first
    | with_reducible assumption
    | with_reducible exact Keeps.refl _
    | with_reducible apply Keeps.ite
    | with_reducible apply setH_keeps
    | with_reducible apply keepsParts_of
    | intro _
    | with_reducible refine Keeps.of_eq (by assumption) ?_
    | with_reducible refine Keeps.of_eq_snd (by assumption) ?_
    | simp only [keeps_mk]
    | split

theorem State.cmdManifest_keeps {r s : State} (h : r.Keeps s) (e : SubEntry) : r.Keeps (State.cmdManifest s e) := by
  unfold State.cmdManifest
  repeat' first
    | with_reducible assumption
    | with_reducible exact Keeps.refl _
    | with_reducible apply Keeps.ite
    | with_reducible apply command_keeps
    | with_reducible apply done_keeps
    | with_reducible apply afterLoad_keeps
    | with_reducible apply setObj_keeps
    | with_reducible apply keepsParts_of
    | intro _
    | with_reducible refine Keeps.of_eq (by assumption) ?_
    | with_reducible refine Keeps.of_eq_snd (by assumption) ?_
    | simp only [keeps_mk]
    | split

theorem State.cmdOverride_keeps {r s : State} (h : r.Keeps s) (e : SubEntry) : r.Keeps (State.cmdOverride s e) := by
  unfold State.cmdOverride
  repeat' first
    | with_reducible assumption
    | with_reducible exact Keeps.refl _
    | with_reducible apply Keeps.ite
    | with_reducible apply command_keeps
    | with_reducible apply done_keeps
    | with_reducible apply setObj_keeps
    | with_reducible apply afterLoad_keeps
    | with_reducible apply keepsParts_of
    | intro _
    | with_reducible refine Keeps.of_eq (by assumption) ?_
    | with_reducible refine Keeps.of_eq_snd (by assumption) ?_
    | simp only [keeps_mk]
    | split

theorem State.patternTest_keeps {r s : State} (h : r.Keeps s) (k : ℕ) (p : ℕ) : r.Keeps (State.patternTest s k p) := by
  unfold State.patternTest
  repeat' first
    | with_reducible assumption
    | with_reducible exact Keeps.refl _
    | with_reducible apply Keeps.ite
    | with_reducible apply Keeps.ite_fst
    | with_reducible apply fresh_keeps
    | with_reducible apply setByte_keeps
    | with_reducible refine Keeps.foldl ?_ (fun u x => ?_)
    | with_reducible refine Keeps.foldl_fst ?_ (fun u x => ?_)
    | with_reducible apply keepsParts_of
    | intro _
    | with_reducible refine Keeps.of_eq (by assumption) ?_
    | with_reducible refine Keeps.of_eq_snd (by assumption) ?_
    | simp only [keeps_mk]
    | split

theorem State.cmdRepair_keeps {r s : State} (h : r.Keeps s) (e : SubEntry) : r.Keeps (State.cmdRepair s e) := by
  unfold State.cmdRepair
  repeat' first
    | with_reducible assumption
    | with_reducible exact Keeps.refl _
    | with_reducible apply Keeps.ite
    | with_reducible apply Keeps.ite_fst
    | with_reducible apply command_keeps
    | with_reducible apply fresh_keeps
    | with_reducible apply done_keeps
    | with_reducible apply setH_keeps
    | with_reducible apply patternTest_keeps
    | with_reducible apply keepsParts_of
    | intro _
    | with_reducible refine Keeps.of_eq (by assumption) ?_
    | with_reducible refine Keeps.of_eq_snd (by assumption) ?_
    | simp only [keeps_mk]
    | split

theorem State.cmdSnapRead_keeps {r s : State} (h : r.Keeps s) (e : SubEntry) : r.Keeps (State.cmdSnapRead s e) := by
  unfold State.cmdSnapRead
  repeat' first
    | with_reducible assumption
    | with_reducible exact Keeps.refl _
    | with_reducible apply Keeps.ite
    | with_reducible apply command_keeps
    | with_reducible apply done_keeps
    | with_reducible apply putHost_keeps
    | with_reducible apply keepsParts_of
    | intro _
    | with_reducible refine Keeps.of_eq (by assumption) ?_
    | with_reducible refine Keeps.of_eq_snd (by assumption) ?_
    | simp only [keeps_mk]
    | split

theorem State.cmdErrLogRead_keeps {r s : State} (h : r.Keeps s) (e : SubEntry) : r.Keeps (State.cmdErrLogRead s e) := by
  unfold State.cmdErrLogRead
  repeat' first
    | with_reducible assumption
    | with_reducible exact Keeps.refl _
    | with_reducible apply Keeps.ite
    | with_reducible apply command_keeps
    | with_reducible apply done_keeps
    | with_reducible apply wr_keeps
    | with_reducible apply putHost_keeps
    | with_reducible apply keepsParts_of
    | intro _
    | with_reducible refine Keeps.of_eq (by assumption) ?_
    | with_reducible refine Keeps.of_eq_snd (by assumption) ?_
    | simp only [keeps_mk]
    | split

theorem State.endScan_keeps {r s : State} (h : r.Keeps s) (e : SubEntry) (bs : List Byte) : r.Keeps (State.endScan s e bs) := by
  unfold State.endScan
  repeat' first
    | with_reducible assumption
    | with_reducible exact Keeps.refl _
    | with_reducible apply Keeps.ite
    | with_reducible apply complete_keeps
    | with_reducible apply keepsParts_of
    | intro _
    | with_reducible refine Keeps.of_eq (by assumption) ?_
    | with_reducible refine Keeps.of_eq_snd (by assumption) ?_
    | simp only [keeps_mk]
    | split

theorem State.cmdScan_keeps {r s : State} (h : r.Keeps s) (e : SubEntry) : r.Keeps (State.cmdScan s e) := by
  unfold State.cmdScan
  repeat' first
    | with_reducible assumption
    | with_reducible exact Keeps.refl _
    | with_reducible apply Keeps.ite
    | with_reducible apply Keeps.ite_fst
    | with_reducible apply command_keeps
    | with_reducible apply done_keeps
    | with_reducible apply endScan_keeps
    | with_reducible apply vread_keeps
    | with_reducible apply doneWith_keeps
    | with_reducible apply keepsParts_of
    | intro _
    | with_reducible refine Keeps.of_eq (by assumption) ?_
    | with_reducible refine Keeps.of_eq_snd (by assumption) ?_
    | simp only [keeps_mk]
    | split

theorem State.keyCommand_keeps {r s : State} (h : r.Keeps s) (e : SubEntry) (action : ℕ) : r.Keeps (State.keyCommand s e action) := by
  unfold State.keyCommand
  repeat' first
    | with_reducible assumption
    | with_reducible exact Keeps.refl _
    | with_reducible apply Keeps.ite
    | with_reducible apply done_keeps
    | with_reducible apply setH_keeps
    | with_reducible apply keepsParts_of
    | intro _
    | with_reducible refine Keeps.of_eq (by assumption) ?_
    | with_reducible refine Keeps.of_eq_snd (by assumption) ?_
    | simp only [keeps_mk]
    | split

theorem State.cmdKeyNew_keeps {r s : State} (h : r.Keeps s) (e : SubEntry) : r.Keeps (State.cmdKeyNew s e) := by
  unfold State.cmdKeyNew
  repeat' first
    | with_reducible assumption
    | with_reducible exact Keeps.refl _
    | with_reducible apply Keeps.ite
    | with_reducible apply command_keeps
    | with_reducible apply keyCommand_keeps
    | with_reducible apply keepsParts_of
    | intro _
    | with_reducible refine Keeps.of_eq (by assumption) ?_
    | with_reducible refine Keeps.of_eq_snd (by assumption) ?_
    | simp only [keeps_mk]
    | split

theorem State.cmdKeyErase_keeps {r s : State} (h : r.Keeps s) (e : SubEntry) : r.Keeps (State.cmdKeyErase s e) := by
  unfold State.cmdKeyErase
  repeat' first
    | with_reducible assumption
    | with_reducible exact Keeps.refl _
    | with_reducible apply Keeps.ite
    | with_reducible apply command_keeps
    | with_reducible apply keyCommand_keeps
    | with_reducible apply keepsParts_of
    | intro _
    | with_reducible refine Keeps.of_eq (by assumption) ?_
    | with_reducible refine Keeps.of_eq_snd (by assumption) ?_
    | simp only [keeps_mk]
    | split

theorem State.cmdDebugNonce_keeps {r s : State} (h : r.Keeps s) (e : SubEntry) : r.Keeps (State.cmdDebugNonce s e) := by
  unfold State.cmdDebugNonce
  repeat' first
    | with_reducible assumption
    | with_reducible exact Keeps.refl _
    | with_reducible apply Keeps.ite
    | with_reducible apply command_keeps
    | with_reducible apply done_keeps
    | with_reducible apply putHost_keeps
    | with_reducible apply keepsParts_of
    | intro _
    | with_reducible refine Keeps.of_eq (by assumption) ?_
    | with_reducible refine Keeps.of_eq_snd (by assumption) ?_
    | simp only [keeps_mk]
    | split

theorem State.flushEnc_keeps {r s : State} (h : r.Keeps s) : r.Keeps (State.flushEnc s) := by
  unfold State.flushEnc
  repeat' first
    | with_reducible assumption
    | with_reducible exact Keeps.refl _
    | with_reducible apply Keeps.ite
    | with_reducible apply flushLines_keeps
    | with_reducible apply keepsParts_of
    | intro _
    | with_reducible refine Keeps.of_eq (by assumption) ?_
    | with_reducible refine Keeps.of_eq_snd (by assumption) ?_
    | simp only [keeps_mk]
    | split

theorem State.tryUnlock_keeps {r s : State} (h : r.Keeps s) (b : List Byte) : r.Keeps (State.tryUnlock s b).1 := by
  unfold State.tryUnlock
  repeat' first
    | with_reducible assumption
    | with_reducible exact Keeps.refl _
    | with_reducible apply Keeps.ite
    | with_reducible apply Keeps.ite_fst
    | with_reducible apply addH_keeps
    | with_reducible apply haltAll_keeps
    | with_reducible apply mark_keeps
    | with_reducible apply setObj_keeps
    | with_reducible apply setH_keeps
    | with_reducible apply flushEnc_keeps
    | with_reducible apply holdCores_keeps
    | with_reducible apply wr_keeps
    | with_reducible apply keepsParts_of
    | intro _
    | with_reducible refine Keeps.of_eq (by assumption) ?_
    | with_reducible refine Keeps.of_eq_snd (by assumption) ?_
    | simp only [keeps_mk]
    | split

theorem State.cmdDebugUnlock_keeps {r s : State} (h : r.Keeps s) (e : SubEntry) : r.Keeps (State.cmdDebugUnlock s e) := by
  unfold State.cmdDebugUnlock
  repeat' first
    | with_reducible assumption
    | with_reducible exact Keeps.refl _
    | with_reducible apply Keeps.ite
    | with_reducible apply Keeps.ite_fst
    | with_reducible apply command_keeps
    | with_reducible apply tryUnlock_keeps
    | with_reducible apply done_keeps
    | with_reducible apply keepsParts_of
    | intro _
    | with_reducible refine Keeps.of_eq (by assumption) ?_
    | with_reducible refine Keeps.of_eq_snd (by assumption) ?_
    | simp only [keeps_mk]
    | split

theorem State.cmdSvnCommit_keeps {r s : State} (h : r.Keeps s) (e : SubEntry) : r.Keeps (State.cmdSvnCommit s e) := by
  unfold State.cmdSvnCommit
  repeat' first
    | with_reducible assumption
    | with_reducible exact Keeps.refl _
    | with_reducible apply Keeps.ite
    | with_reducible apply command_keeps
    | with_reducible apply done_keeps
    | with_reducible apply newMeasurement_keeps
    | with_reducible apply wr_keeps
    | with_reducible apply keepsParts_of
    | intro _
    | with_reducible refine Keeps.of_eq (by assumption) ?_
    | with_reducible refine Keeps.of_eq_snd (by assumption) ?_
    | simp only [keeps_mk]
    | split

theorem State.cmdKeyRevoke_keeps {r s : State} (h : r.Keeps s) (e : SubEntry) : r.Keeps (State.cmdKeyRevoke s e) := by
  unfold State.cmdKeyRevoke
  repeat' first
    | with_reducible assumption
    | with_reducible exact Keeps.refl _
    | with_reducible apply Keeps.ite
    | with_reducible apply command_keeps
    | with_reducible apply done_keeps
    | with_reducible apply newMeasurement_keeps
    | with_reducible apply wr_keeps
    | with_reducible apply keepsParts_of
    | intro _
    | with_reducible refine Keeps.of_eq (by assumption) ?_
    | with_reducible refine Keeps.of_eq_snd (by assumption) ?_
    | simp only [keeps_mk]
    | split

theorem State.cmdPowerCap_keeps {r s : State} (h : r.Keeps s) (e : SubEntry) : r.Keeps (State.cmdPowerCap s e) := by
  unfold State.cmdPowerCap
  repeat' first
    | with_reducible assumption
    | with_reducible exact Keeps.refl _
    | with_reducible apply Keeps.ite
    | with_reducible apply command_keeps
    | with_reducible apply wr_keeps
    | with_reducible apply done_keeps
    | with_reducible apply keepsParts_of
    | intro _
    | with_reducible refine Keeps.of_eq (by assumption) ?_
    | with_reducible refine Keeps.of_eq_snd (by assumption) ?_
    | simp only [keeps_mk]
    | split

theorem State.cmdPowerRead_keeps {r s : State} (h : r.Keeps s) (e : SubEntry) : r.Keeps (State.cmdPowerRead s e) := by
  unfold State.cmdPowerRead
  repeat' first
    | with_reducible assumption
    | with_reducible exact Keeps.refl _
    | with_reducible apply Keeps.ite
    | with_reducible apply command_keeps
    | with_reducible apply done_keeps
    | with_reducible apply keepsParts_of
    | intro _
    | with_reducible refine Keeps.of_eq (by assumption) ?_
    | with_reducible refine Keeps.of_eq_snd (by assumption) ?_
    | simp only [keeps_mk]
    | split

theorem State.cmdThermCfg_keeps {r s : State} (h : r.Keeps s) (e : SubEntry) : r.Keeps (State.cmdThermCfg s e) := by
  unfold State.cmdThermCfg
  repeat' first
    | with_reducible assumption
    | with_reducible exact Keeps.refl _
    | with_reducible apply Keeps.ite
    | with_reducible apply command_keeps
    | with_reducible apply done_keeps
    | with_reducible apply wr_keeps
    | with_reducible apply keepsParts_of
    | intro _
    | with_reducible refine Keeps.of_eq (by assumption) ?_
    | with_reducible refine Keeps.of_eq_snd (by assumption) ?_
    | simp only [keeps_mk]
    | split

theorem execConfig_keeps (e : SubEntry) {s : State} : s.KeepsNext (execConfig e s) := by
  unfold execConfig
  repeat' first
    | with_reducible assumption
    | with_reducible exact Keeps.refl _
    | with_reducible apply KeepsNext.next
    | with_reducible apply KeepsNext.ite
    | with_reducible apply Keeps.ite
    | with_reducible apply cmdConfig_keeps
    | with_reducible apply keepsParts_of
    | intro _
    | with_reducible refine Keeps.of_eq (by assumption) ?_
    | with_reducible refine Keeps.of_eq_snd (by assumption) ?_
    | simp only [keeps_mk]
    | split

theorem execHalt_keeps (e : SubEntry) {s : State} : s.KeepsNext (execHalt e s) := by
  unfold execHalt
  repeat' first
    | with_reducible assumption
    | with_reducible exact Keeps.refl _
    | with_reducible apply KeepsNext.next
    | with_reducible apply KeepsNext.ite
    | with_reducible apply Keeps.ite
    | with_reducible apply cmdHalt_keeps
    | with_reducible apply keepsParts_of
    | intro _
    | with_reducible refine Keeps.of_eq (by assumption) ?_
    | with_reducible refine Keeps.of_eq_snd (by assumption) ?_
    | simp only [keeps_mk]
    | split

theorem execRelease_keeps (e : SubEntry) {s : State} : s.KeepsNext (execRelease e s) := by
  unfold execRelease
  repeat' first
    | with_reducible assumption
    | with_reducible exact Keeps.refl _
    | with_reducible apply KeepsNext.next
    | with_reducible apply KeepsNext.ite
    | with_reducible apply Keeps.ite
    | with_reducible apply cmdRelease_keeps
    | with_reducible apply keepsParts_of
    | intro _
    | with_reducible refine Keeps.of_eq (by assumption) ?_
    | with_reducible refine Keeps.of_eq_snd (by assumption) ?_
    | simp only [keeps_mk]
    | split

theorem execCores_keeps (e : SubEntry) {s : State} : s.KeepsNext (execCores e s) := by
  unfold execCores
  repeat' first
    | with_reducible assumption
    | with_reducible exact Keeps.refl _
    | with_reducible apply KeepsNext.next
    | with_reducible apply KeepsNext.ite
    | with_reducible apply Keeps.ite
    | with_reducible apply cmdCores_keeps
    | with_reducible apply keepsParts_of
    | intro _
    | with_reducible refine Keeps.of_eq (by assumption) ?_
    | with_reducible refine Keeps.of_eq_snd (by assumption) ?_
    | simp only [keeps_mk]
    | split

theorem execPfWin_keeps (e : SubEntry) {s : State} : s.KeepsNext (execPfWin e s) := by
  unfold execPfWin
  repeat' first
    | with_reducible assumption
    | with_reducible exact Keeps.refl _
    | with_reducible apply KeepsNext.next
    | with_reducible apply KeepsNext.ite
    | with_reducible apply Keeps.ite
    | with_reducible apply cmdPfWin_keeps
    | with_reducible apply keepsParts_of
    | intro _
    | with_reducible refine Keeps.of_eq (by assumption) ?_
    | with_reducible refine Keeps.of_eq_snd (by assumption) ?_
    | simp only [keeps_mk]
    | split

theorem execBank_keeps (e : SubEntry) {s : State} : s.KeepsNext (execBank e s) := by
  unfold execBank
  repeat' first
    | with_reducible assumption
    | with_reducible exact Keeps.refl _
    | with_reducible apply KeepsNext.next
    | with_reducible apply KeepsNext.ite
    | with_reducible apply Keeps.ite
    | with_reducible apply cmdBank_keeps
    | with_reducible apply keepsParts_of
    | intro _
    | with_reducible refine Keeps.of_eq (by assumption) ?_
    | with_reducible refine Keeps.of_eq_snd (by assumption) ?_
    | simp only [keeps_mk]
    | split

theorem execFence_keeps (e : SubEntry) {s : State} : s.KeepsNext (execFence e s) := by
  unfold execFence
  repeat' first
    | with_reducible assumption
    | with_reducible exact Keeps.refl _
    | with_reducible apply KeepsNext.next
    | with_reducible apply KeepsNext.ite
    | with_reducible apply Keeps.ite
    | with_reducible apply cmdFence_keeps
    | with_reducible apply keepsParts_of
    | intro _
    | with_reducible refine Keeps.of_eq (by assumption) ?_
    | with_reducible refine Keeps.of_eq_snd (by assumption) ?_
    | simp only [keeps_mk]
    | split

theorem execUnfence_keeps (e : SubEntry) {s : State} : s.KeepsNext (execUnfence e s) := by
  unfold execUnfence
  repeat' first
    | with_reducible assumption
    | with_reducible exact Keeps.refl _
    | with_reducible apply KeepsNext.next
    | with_reducible apply KeepsNext.ite
    | with_reducible apply Keeps.ite
    | with_reducible apply cmdUnfence_keeps
    | with_reducible apply keepsParts_of
    | intro _
    | with_reducible refine Keeps.of_eq (by assumption) ?_
    | with_reducible refine Keeps.of_eq_snd (by assumption) ?_
    | simp only [keeps_mk]
    | split

theorem execRoute_keeps (e : SubEntry) {s : State} : s.KeepsNext (execRoute e s) := by
  unfold execRoute
  repeat' first
    | with_reducible assumption
    | with_reducible exact Keeps.refl _
    | with_reducible apply KeepsNext.next
    | with_reducible apply KeepsNext.ite
    | with_reducible apply Keeps.ite
    | with_reducible apply cmdRoute_keeps
    | with_reducible apply keepsParts_of
    | intro _
    | with_reducible refine Keeps.of_eq (by assumption) ?_
    | with_reducible refine Keeps.of_eq_snd (by assumption) ?_
    | simp only [keeps_mk]
    | split

theorem execFabricCfg_keeps (e : SubEntry) {s : State} : s.KeepsNext (execFabricCfg e s) := by
  unfold execFabricCfg
  repeat' first
    | with_reducible assumption
    | with_reducible exact Keeps.refl _
    | with_reducible apply KeepsNext.next
    | with_reducible apply KeepsNext.ite
    | with_reducible apply Keeps.ite
    | with_reducible apply cmdFabricCfg_keeps
    | with_reducible apply keepsParts_of
    | intro _
    | with_reducible refine Keeps.of_eq (by assumption) ?_
    | with_reducible refine Keeps.of_eq_snd (by assumption) ?_
    | simp only [keeps_mk]
    | split

theorem execModId_keeps (e : SubEntry) {s : State} : s.KeepsNext (execModId e s) := by
  unfold execModId
  repeat' first
    | with_reducible assumption
    | with_reducible exact Keeps.refl _
    | with_reducible apply KeepsNext.next
    | with_reducible apply KeepsNext.ite
    | with_reducible apply Keeps.ite
    | with_reducible apply cmdModId_keeps
    | with_reducible apply keepsParts_of
    | intro _
    | with_reducible refine Keeps.of_eq (by assumption) ?_
    | with_reducible refine Keeps.of_eq_snd (by assumption) ?_
    | simp only [keeps_mk]
    | split

theorem execLink_keeps (e : SubEntry) {s : State} : s.KeepsNext (execLink e s) := by
  unfold execLink
  repeat' first
    | with_reducible assumption
    | with_reducible exact Keeps.refl _
    | with_reducible apply KeepsNext.next
    | with_reducible apply KeepsNext.ite
    | with_reducible apply Keeps.ite
    | with_reducible apply cmdLink_keeps
    | with_reducible apply keepsParts_of
    | intro _
    | with_reducible refine Keeps.of_eq (by assumption) ?_
    | with_reducible refine Keeps.of_eq_snd (by assumption) ?_
    | simp only [keeps_mk]
    | split

theorem execFwLoad_keeps (e : SubEntry) {s : State} : s.KeepsNext (execFwLoad e s) := by
  unfold execFwLoad
  repeat' first
    | with_reducible assumption
    | with_reducible exact Keeps.refl _
    | with_reducible apply KeepsNext.next
    | with_reducible apply KeepsNext.ite
    | with_reducible apply Keeps.ite
    | with_reducible apply cmdFwLoad_keeps
    | with_reducible apply keepsParts_of
    | intro _
    | with_reducible refine Keeps.of_eq (by assumption) ?_
    | with_reducible refine Keeps.of_eq_snd (by assumption) ?_
    | simp only [keeps_mk]
    | split

theorem execFwSelect_keeps (e : SubEntry) {s : State} : s.KeepsNext (execFwSelect e s) := by
  unfold execFwSelect
  repeat' first
    | with_reducible assumption
    | with_reducible exact Keeps.refl _
    | with_reducible apply KeepsNext.next
    | with_reducible apply KeepsNext.ite
    | with_reducible apply Keeps.ite
    | with_reducible apply cmdFwSelect_keeps
    | with_reducible apply keepsParts_of
    | intro _
    | with_reducible refine Keeps.of_eq (by assumption) ?_
    | with_reducible refine Keeps.of_eq_snd (by assumption) ?_
    | simp only [keeps_mk]
    | split

theorem execManifest_keeps (e : SubEntry) {s : State} : s.KeepsNext (execManifest e s) := by
  unfold execManifest
  repeat' first
    | with_reducible assumption
    | with_reducible exact Keeps.refl _
    | with_reducible apply KeepsNext.next
    | with_reducible apply KeepsNext.ite
    | with_reducible apply Keeps.ite
    | with_reducible apply cmdManifest_keeps
    | with_reducible apply keepsParts_of
    | intro _
    | with_reducible refine Keeps.of_eq (by assumption) ?_
    | with_reducible refine Keeps.of_eq_snd (by assumption) ?_
    | simp only [keeps_mk]
    | split

theorem execOverride_keeps (e : SubEntry) {s : State} : s.KeepsNext (execOverride e s) := by
  unfold execOverride
  repeat' first
    | with_reducible assumption
    | with_reducible exact Keeps.refl _
    | with_reducible apply KeepsNext.next
    | with_reducible apply KeepsNext.ite
    | with_reducible apply Keeps.ite
    | with_reducible apply cmdOverride_keeps
    | with_reducible apply keepsParts_of
    | intro _
    | with_reducible refine Keeps.of_eq (by assumption) ?_
    | with_reducible refine Keeps.of_eq_snd (by assumption) ?_
    | simp only [keeps_mk]
    | split

theorem execRepair_keeps (e : SubEntry) {s : State} : s.KeepsNext (execRepair e s) := by
  unfold execRepair
  repeat' first
    | with_reducible assumption
    | with_reducible exact Keeps.refl _
    | with_reducible apply KeepsNext.next
    | with_reducible apply KeepsNext.ite
    | with_reducible apply Keeps.ite
    | with_reducible apply cmdRepair_keeps
    | with_reducible apply keepsParts_of
    | intro _
    | with_reducible refine Keeps.of_eq (by assumption) ?_
    | with_reducible refine Keeps.of_eq_snd (by assumption) ?_
    | simp only [keeps_mk]
    | split

theorem execSnapRead_keeps (e : SubEntry) {s : State} : s.KeepsNext (execSnapRead e s) := by
  unfold execSnapRead
  repeat' first
    | with_reducible assumption
    | with_reducible exact Keeps.refl _
    | with_reducible apply KeepsNext.next
    | with_reducible apply KeepsNext.ite
    | with_reducible apply Keeps.ite
    | with_reducible apply cmdSnapRead_keeps
    | with_reducible apply keepsParts_of
    | intro _
    | with_reducible refine Keeps.of_eq (by assumption) ?_
    | with_reducible refine Keeps.of_eq_snd (by assumption) ?_
    | simp only [keeps_mk]
    | split

theorem execErrLogRead_keeps (e : SubEntry) {s : State} : s.KeepsNext (execErrLogRead e s) := by
  unfold execErrLogRead
  repeat' first
    | with_reducible assumption
    | with_reducible exact Keeps.refl _
    | with_reducible apply KeepsNext.next
    | with_reducible apply KeepsNext.ite
    | with_reducible apply Keeps.ite
    | with_reducible apply cmdErrLogRead_keeps
    | with_reducible apply keepsParts_of
    | intro _
    | with_reducible refine Keeps.of_eq (by assumption) ?_
    | with_reducible refine Keeps.of_eq_snd (by assumption) ?_
    | simp only [keeps_mk]
    | split

theorem execScan_keeps (e : SubEntry) {s : State} : s.KeepsNext (execScan e s) := by
  unfold execScan
  repeat' first
    | with_reducible assumption
    | with_reducible exact Keeps.refl _
    | with_reducible apply KeepsNext.next
    | with_reducible apply KeepsNext.ite
    | with_reducible apply Keeps.ite
    | with_reducible apply cmdScan_keeps
    | with_reducible apply keepsParts_of
    | intro _
    | with_reducible refine Keeps.of_eq (by assumption) ?_
    | with_reducible refine Keeps.of_eq_snd (by assumption) ?_
    | simp only [keeps_mk]
    | split

theorem execKeyNew_keeps (e : SubEntry) {s : State} : s.KeepsNext (execKeyNew e s) := by
  unfold execKeyNew
  repeat' first
    | with_reducible assumption
    | with_reducible exact Keeps.refl _
    | with_reducible apply KeepsNext.next
    | with_reducible apply KeepsNext.ite
    | with_reducible apply Keeps.ite
    | with_reducible apply cmdKeyNew_keeps
    | with_reducible apply keepsParts_of
    | intro _
    | with_reducible refine Keeps.of_eq (by assumption) ?_
    | with_reducible refine Keeps.of_eq_snd (by assumption) ?_
    | simp only [keeps_mk]
    | split

theorem execKeyErase_keeps (e : SubEntry) {s : State} : s.KeepsNext (execKeyErase e s) := by
  unfold execKeyErase
  repeat' first
    | with_reducible assumption
    | with_reducible exact Keeps.refl _
    | with_reducible apply KeepsNext.next
    | with_reducible apply KeepsNext.ite
    | with_reducible apply Keeps.ite
    | with_reducible apply cmdKeyErase_keeps
    | with_reducible apply keepsParts_of
    | intro _
    | with_reducible refine Keeps.of_eq (by assumption) ?_
    | with_reducible refine Keeps.of_eq_snd (by assumption) ?_
    | simp only [keeps_mk]
    | split

theorem execDebugNonce_keeps (e : SubEntry) {s : State} : s.KeepsNext (execDebugNonce e s) := by
  unfold execDebugNonce
  repeat' first
    | with_reducible assumption
    | with_reducible exact Keeps.refl _
    | with_reducible apply KeepsNext.next
    | with_reducible apply KeepsNext.ite
    | with_reducible apply Keeps.ite
    | with_reducible apply cmdDebugNonce_keeps
    | with_reducible apply keepsParts_of
    | intro _
    | with_reducible refine Keeps.of_eq (by assumption) ?_
    | with_reducible refine Keeps.of_eq_snd (by assumption) ?_
    | simp only [keeps_mk]
    | split

theorem execDebugUnlock_keeps (e : SubEntry) {s : State} : s.KeepsNext (execDebugUnlock e s) := by
  unfold execDebugUnlock
  repeat' first
    | with_reducible assumption
    | with_reducible exact Keeps.refl _
    | with_reducible apply KeepsNext.next
    | with_reducible apply KeepsNext.ite
    | with_reducible apply Keeps.ite
    | with_reducible apply cmdDebugUnlock_keeps
    | with_reducible apply keepsParts_of
    | intro _
    | with_reducible refine Keeps.of_eq (by assumption) ?_
    | with_reducible refine Keeps.of_eq_snd (by assumption) ?_
    | simp only [keeps_mk]
    | split

theorem execSvnCommit_keeps (e : SubEntry) {s : State} : s.KeepsNext (execSvnCommit e s) := by
  unfold execSvnCommit
  repeat' first
    | with_reducible assumption
    | with_reducible exact Keeps.refl _
    | with_reducible apply KeepsNext.next
    | with_reducible apply KeepsNext.ite
    | with_reducible apply Keeps.ite
    | with_reducible apply cmdSvnCommit_keeps
    | with_reducible apply keepsParts_of
    | intro _
    | with_reducible refine Keeps.of_eq (by assumption) ?_
    | with_reducible refine Keeps.of_eq_snd (by assumption) ?_
    | simp only [keeps_mk]
    | split

theorem execKeyRevoke_keeps (e : SubEntry) {s : State} : s.KeepsNext (execKeyRevoke e s) := by
  unfold execKeyRevoke
  repeat' first
    | with_reducible assumption
    | with_reducible exact Keeps.refl _
    | with_reducible apply KeepsNext.next
    | with_reducible apply KeepsNext.ite
    | with_reducible apply Keeps.ite
    | with_reducible apply cmdKeyRevoke_keeps
    | with_reducible apply keepsParts_of
    | intro _
    | with_reducible refine Keeps.of_eq (by assumption) ?_
    | with_reducible refine Keeps.of_eq_snd (by assumption) ?_
    | simp only [keeps_mk]
    | split

theorem execPowerCap_keeps (e : SubEntry) {s : State} : s.KeepsNext (execPowerCap e s) := by
  unfold execPowerCap
  repeat' first
    | with_reducible assumption
    | with_reducible exact Keeps.refl _
    | with_reducible apply KeepsNext.next
    | with_reducible apply KeepsNext.ite
    | with_reducible apply Keeps.ite
    | with_reducible apply cmdPowerCap_keeps
    | with_reducible apply keepsParts_of
    | intro _
    | with_reducible refine Keeps.of_eq (by assumption) ?_
    | with_reducible refine Keeps.of_eq_snd (by assumption) ?_
    | simp only [keeps_mk]
    | split

theorem execPowerRead_keeps (e : SubEntry) {s : State} : s.KeepsNext (execPowerRead e s) := by
  unfold execPowerRead
  repeat' first
    | with_reducible assumption
    | with_reducible exact Keeps.refl _
    | with_reducible apply KeepsNext.next
    | with_reducible apply KeepsNext.ite
    | with_reducible apply Keeps.ite
    | with_reducible apply cmdPowerRead_keeps
    | with_reducible apply keepsParts_of
    | intro _
    | with_reducible refine Keeps.of_eq (by assumption) ?_
    | with_reducible refine Keeps.of_eq_snd (by assumption) ?_
    | simp only [keeps_mk]
    | split

theorem execThermCfg_keeps (e : SubEntry) {s : State} : s.KeepsNext (execThermCfg e s) := by
  unfold execThermCfg
  repeat' first
    | with_reducible assumption
    | with_reducible exact Keeps.refl _
    | with_reducible apply KeepsNext.next
    | with_reducible apply KeepsNext.ite
    | with_reducible apply Keeps.ite
    | with_reducible apply cmdThermCfg_keeps
    | with_reducible apply keepsParts_of
    | intro _
    | with_reducible refine Keeps.of_eq (by assumption) ?_
    | with_reducible refine Keeps.of_eq_snd (by assumption) ?_
    | simp only [keeps_mk]
    | split

theorem State.readEntries_keeps {r s : State} (h : r.Keeps s) (q : ℕ) (tag : ℕ) (i : ℕ) (y4 : ℕ) : r.Keeps (State.readEntries s q tag i y4).1 := by
  induction y4 generalizing s q tag i with
  | zero =>
    unfold State.readEntries
    repeat' first
      | with_reducible assumption
      | with_reducible exact Keeps.refl _
      | with_reducible apply Keeps.ite
      | with_reducible apply Keeps.ite_fst
      | with_reducible apply vread_keeps
      | with_reducible apply keepsParts_of
      | intro _
      | with_reducible refine Keeps.of_eq (by assumption) ?_
      | with_reducible refine Keeps.of_eq_snd (by assumption) ?_
      | simp only [keeps_mk]
      | split
  | succ n0 ih =>
    unfold State.readEntries
    repeat' first
      | with_reducible assumption
      | with_reducible exact Keeps.refl _
      | with_reducible apply Keeps.ite
      | with_reducible apply Keeps.ite_fst
      | with_reducible apply vread_keeps
      | with_reducible apply ih
      | with_reducible apply keepsParts_of
      | intro _
      | with_reducible refine Keeps.of_eq (by assumption) ?_
      | with_reducible refine Keeps.of_eq_snd (by assumption) ?_
      | simp only [keeps_mk]
      | split

theorem State.cmdPlace_keeps {r s : State} (h : r.Keeps s) (e : SubEntry) : r.Keeps (State.cmdPlace s e) := by
  unfold State.cmdPlace
  repeat' first
    | with_reducible assumption
    | with_reducible exact Keeps.refl _
    | with_reducible apply Keeps.ite
    | with_reducible apply Keeps.ite_fst
    | with_reducible apply command_keeps
    | with_reducible apply readEntries_keeps
    | with_reducible apply doneWith_keeps
    | with_reducible apply vwrite_keeps
    | with_reducible refine Keeps.foldl ?_ (fun u x => ?_)
    | with_reducible refine Keeps.foldl_fst ?_ (fun u x => ?_)
    | with_reducible apply keepsParts_of
    | intro _
    | with_reducible refine Keeps.of_eq (by assumption) ?_
    | with_reducible refine Keeps.of_eq_snd (by assumption) ?_
    | simp only [keeps_mk]
    | split

theorem execPlace_keeps (e : SubEntry) {s : State} : s.KeepsNext (execPlace e s) := by
  unfold execPlace
  repeat' first
    | with_reducible assumption
    | with_reducible exact Keeps.refl _
    | with_reducible apply KeepsNext.next
    | with_reducible apply KeepsNext.ite
    | with_reducible apply Keeps.ite
    | with_reducible apply cmdPlace_keeps
    | with_reducible apply keepsParts_of
    | intro _
    | with_reducible refine Keeps.of_eq (by assumption) ?_
    | with_reducible refine Keeps.of_eq_snd (by assumption) ?_
    | simp only [keeps_mk]
    | split

theorem State.dispatch_keeps {r s : State} (h : r.Keeps s) (e : SubEntry) : r.Keeps (State.dispatch s e) := by
  unfold State.dispatch
  repeat' first
    | with_reducible assumption
    | with_reducible exact Keeps.refl _
    | with_reducible apply Keeps.ite
    | with_reducible apply cmdNop_keeps
    | with_reducible apply cmdVersion_keeps
    | with_reducible apply cmdSubmit_keeps
    | with_reducible apply cmdPlan_keeps
    | with_reducible apply cmdInvalidate_keeps
    | with_reducible apply cmdAbortFault_keeps
    | with_reducible apply cmdFqHead_keeps
    | with_reducible apply cmdMmuCfg_keeps
    | with_reducible apply cmdPlace_keeps
    | with_reducible apply cmdReleaseKeep_keeps
    | with_reducible apply cmdUnit_keeps
    | with_reducible apply cmdHostWin_keeps
    | with_reducible apply cmdSwap_keeps
    | with_reducible apply cmdAdvance_keeps
    | with_reducible apply cmdBarrier_keeps
    | with_reducible apply cmdBufCfg_keeps
    | with_reducible apply cmdCbLoad_keeps
    | with_reducible apply cmdCbUnload_keeps
    | with_reducible apply cmdVerdict_keeps
    | with_reducible apply cmdSetScale_keeps
    | with_reducible apply cmdSetStep_keeps
    | with_reducible apply cmdJournal_keeps
    | with_reducible apply cmdHist_keeps
    | with_reducible apply cmdConfig_keeps
    | with_reducible apply cmdHalt_keeps
    | with_reducible apply cmdRelease_keeps
    | with_reducible apply cmdCores_keeps
    | with_reducible apply cmdPfWin_keeps
    | with_reducible apply cmdBank_keeps
    | with_reducible apply cmdFence_keeps
    | with_reducible apply cmdRoute_keeps
    | with_reducible apply cmdFabricCfg_keeps
    | with_reducible apply cmdModId_keeps
    | with_reducible apply cmdLink_keeps
    | with_reducible apply cmdFwLoad_keeps
    | with_reducible apply cmdFwSelect_keeps
    | with_reducible apply cmdManifest_keeps
    | with_reducible apply cmdOverride_keeps
    | with_reducible apply cmdRepair_keeps
    | with_reducible apply cmdUnfence_keeps
    | with_reducible apply cmdSnapRead_keeps
    | with_reducible apply cmdErrLogRead_keeps
    | with_reducible apply cmdScan_keeps
    | with_reducible apply cmdKeyNew_keeps
    | with_reducible apply cmdKeyErase_keeps
    | with_reducible apply cmdDebugNonce_keeps
    | with_reducible apply cmdDebugUnlock_keeps
    | with_reducible apply cmdSvnCommit_keeps
    | with_reducible apply cmdKeyRevoke_keeps
    | with_reducible apply cmdPowerCap_keeps
    | with_reducible apply cmdPowerRead_keeps
    | with_reducible apply cmdThermCfg_keeps
    | with_reducible apply command_keeps
    | with_reducible apply keepsParts_of
    | intro _
    | with_reducible refine Keeps.of_eq (by assumption) ?_
    | with_reducible refine Keeps.of_eq_snd (by assumption) ?_
    | simp only [keeps_mk]
    | split

theorem State.discardDb_keeps {r s : State} (h : r.Keeps s) (page : ℕ) (off : ℕ) : r.Keeps (State.discardDb s page off) := by
  unfold State.discardDb
  repeat' first
    | with_reducible assumption
    | with_reducible exact Keeps.refl _
    | with_reducible apply Keeps.ite
    | with_reducible apply fnErr_keeps
    | with_reducible apply mark_keeps
    | with_reducible apply keepsParts_of
    | intro _
    | with_reducible refine Keeps.of_eq (by assumption) ?_
    | with_reducible refine Keeps.of_eq_snd (by assumption) ?_
    | simp only [keeps_mk]
    | split

theorem State.doorbell_keeps {r s : State} (h : r.Keeps s) (a : Agent) (port : ℕ) (page : ℕ) (off : ℕ) (body : State → State) (hbody : ∀ (u : State),
    u.Keeps (body u)) : r.Keeps (State.doorbell s a port page off body) := by
  unfold State.doorbell
  repeat' first
    | with_reducible assumption
    | with_reducible exact Keeps.refl _
    | with_reducible apply Keeps.ite
    | with_reducible refine Keeps.trans ?_ (hbody _)
    | with_reducible apply fnErr_keeps
    | with_reducible apply keepsParts_of
    | intro _
    | with_reducible refine Keeps.of_eq (by assumption) ?_
    | with_reducible refine Keeps.of_eq_snd (by assumption) ?_
    | simp only [keeps_mk]
    | split

theorem State.writeTail_keeps {r s : State} (h : r.Keeps s) (page : ℕ) (tail : ℕ) : r.Keeps (State.writeTail s page tail) := by
  unfold State.writeTail
  repeat' first
    | with_reducible assumption
    | with_reducible exact Keeps.refl _
    | with_reducible apply Keeps.ite
    | with_reducible apply discardDb_keeps
    | with_reducible apply wr_keeps
    | with_reducible apply keepsParts_of
    | intro _
    | with_reducible refine Keeps.of_eq (by assumption) ?_
    | with_reducible refine Keeps.of_eq_snd (by assumption) ?_
    | simp only [keeps_mk]
    | split

theorem State.writeHead_keeps {r s : State} (h : r.Keeps s) (page : ℕ) (head : ℕ) : r.Keeps (State.writeHead s page head) := by
  unfold State.writeHead
  repeat' first
    | with_reducible assumption
    | with_reducible exact Keeps.refl _
    | with_reducible apply Keeps.ite
    | with_reducible apply discardDb_keeps
    | with_reducible apply wr_keeps
    | with_reducible apply drainCq_keeps
    | with_reducible apply keepsParts_of
    | intro _
    | with_reducible refine Keeps.of_eq (by assumption) ?_
    | with_reducible refine Keeps.of_eq_snd (by assumption) ?_
    | simp only [keeps_mk]
    | split

theorem State.writeRing_keeps {r s : State} (h : r.Keeps s) (page : ℕ) (cq : Bool) (val : ℕ) : r.Keeps (State.writeRing s page cq val) := by
  unfold State.writeRing
  repeat' first
    | with_reducible assumption
    | with_reducible exact Keeps.refl _
    | with_reducible apply Keeps.ite
    | with_reducible apply wr_keeps
    | with_reducible apply drainCq_keeps
    | with_reducible apply keepsParts_of
    | intro _
    | with_reducible refine Keeps.of_eq (by assumption) ?_
    | with_reducible refine Keeps.of_eq_snd (by assumption) ?_
    | simp only [keeps_mk]
    | split

theorem State.writeGo_keeps {r s : State} (h : r.Keeps s) (page : ℕ) (line : Line) : r.Keeps (State.writeGo s page line) := by
  unfold State.writeGo
  repeat' first
    | with_reducible assumption
    | with_reducible exact Keeps.refl _
    | with_reducible apply Keeps.ite
    | with_reducible apply discardDb_keeps
    | with_reducible apply mark_keeps
    | with_reducible apply dispatch_keeps
    | with_reducible apply keepsParts_of
    | intro _
    | with_reducible refine Keeps.of_eq (by assumption) ?_
    | with_reducible refine Keeps.of_eq_snd (by assumption) ?_
    | simp only [keeps_mk]
    | split

theorem State.submitStall_keeps {r s : State} (h : r.Keeps s) (q : ℕ) : r.Keeps (State.submitStall s q) := by
  unfold State.submitStall
  repeat' first
    | with_reducible assumption
    | with_reducible exact Keeps.refl _
    | with_reducible apply Keeps.ite
    | with_reducible apply setH_keeps
    | with_reducible apply keepsParts_of
    | intro _
    | with_reducible refine Keeps.of_eq (by assumption) ?_
    | with_reducible refine Keeps.of_eq_snd (by assumption) ?_
    | simp only [keeps_mk]
    | split

theorem State.submitGo_keeps {r s : State} (h : r.Keeps s) (q : ℕ) : r.Keeps (State.submitGo s q) := by
  unfold State.submitGo
  repeat' first
    | with_reducible assumption
    | with_reducible exact Keeps.refl _
    | with_reducible apply Keeps.ite
    | with_reducible apply setH_keeps
    | with_reducible apply ev_keeps
    | with_reducible apply keepsParts_of
    | intro _
    | with_reducible refine Keeps.of_eq (by assumption) ?_
    | with_reducible refine Keeps.of_eq_snd (by assumption) ?_
    | simp only [keeps_mk]
    | split

theorem State.copyFrom_keeps {r s : State} (h : r.Keeps s) (y1 : List ℕ) : r.Keeps (State.copyFrom s y1) := by
  induction y1 generalizing s with
  | nil =>
    unfold State.copyFrom
    repeat' first
      | with_reducible assumption
      | with_reducible exact Keeps.refl _
      | with_reducible apply Keeps.ite
      | with_reducible apply Keeps.ite_fst
      | with_reducible apply ringRead_keeps
      | with_reducible apply ringFault_keeps
      | with_reducible apply submitStall_keeps
      | with_reducible apply submitGo_keeps
      | with_reducible apply setH_keeps
      | with_reducible apply wr_keeps
      | with_reducible apply dispatch_keeps
      | with_reducible apply keepsParts_of
      | intro _
      | with_reducible refine Keeps.of_eq (by assumption) ?_
      | with_reducible refine Keeps.of_eq_snd (by assumption) ?_
      | simp only [keeps_mk]
      | split
  | cons z l ih =>
    unfold State.copyFrom
    repeat' first
      | with_reducible assumption
      | with_reducible exact Keeps.refl _
      | with_reducible apply Keeps.ite
      | with_reducible apply Keeps.ite_fst
      | with_reducible apply ringRead_keeps
      | with_reducible apply ringFault_keeps
      | with_reducible apply submitStall_keeps
      | with_reducible apply submitGo_keeps
      | with_reducible apply setH_keeps
      | with_reducible apply wr_keeps
      | with_reducible apply dispatch_keeps
      | with_reducible apply ih
      | with_reducible apply keepsParts_of
      | intro _
      | with_reducible refine Keeps.of_eq (by assumption) ?_
      | with_reducible refine Keeps.of_eq_snd (by assumption) ?_
      | simp only [keeps_mk]
      | split

theorem execSqDoorbell_keeps (a : Agent) (port : ℕ) (page : ℕ) (tail : ℕ) {s : State} : s.KeepsNext (execSqDoorbell a port page tail s) := by
  unfold execSqDoorbell
  repeat' first
    | with_reducible assumption
    | with_reducible exact Keeps.refl _
    | with_reducible apply KeepsNext.next
    | with_reducible apply KeepsNext.ite
    | with_reducible apply Keeps.ite
    | with_reducible apply doorbell_keeps
    | with_reducible apply writeTail_keeps
    | with_reducible apply keepsParts_of
    | intro _
    | with_reducible refine Keeps.of_eq (by assumption) ?_
    | with_reducible refine Keeps.of_eq_snd (by assumption) ?_
    | simp only [keeps_mk]
    | split

theorem execCqDoorbell_keeps (a : Agent) (port : ℕ) (page : ℕ) (head : ℕ) {s : State} : s.KeepsNext (execCqDoorbell a port page head s) := by
  unfold execCqDoorbell
  repeat' first
    | with_reducible assumption
    | with_reducible exact Keeps.refl _
    | with_reducible apply KeepsNext.next
    | with_reducible apply KeepsNext.ite
    | with_reducible apply Keeps.ite
    | with_reducible apply doorbell_keeps
    | with_reducible apply writeHead_keeps
    | with_reducible apply keepsParts_of
    | intro _
    | with_reducible refine Keeps.of_eq (by assumption) ?_
    | with_reducible refine Keeps.of_eq_snd (by assumption) ?_
    | simp only [keeps_mk]
    | split

theorem execRingConfig_keeps (a : Agent) (page : ℕ) (cq : Bool) (val : ℕ) {s : State} : s.KeepsNext (execRingConfig a page cq val s) := by
  unfold execRingConfig
  repeat' first
    | with_reducible assumption
    | with_reducible exact Keeps.refl _
    | with_reducible apply KeepsNext.next
    | with_reducible apply KeepsNext.ite
    | with_reducible apply Keeps.ite
    | with_reducible apply writeRing_keeps
    | with_reducible apply fnErr_keeps
    | with_reducible apply keepsParts_of
    | intro _
    | with_reducible refine Keeps.of_eq (by assumption) ?_
    | with_reducible refine Keeps.of_eq_snd (by assumption) ?_
    | simp only [keeps_mk]
    | split

theorem execUrgentGo_keeps (a : Agent) (port : ℕ) (page : ℕ) (line : Line) {s : State} : s.KeepsNext (execUrgentGo a port page line s) := by
  unfold execUrgentGo
  repeat' first
    | with_reducible assumption
    | with_reducible exact Keeps.refl _
    | with_reducible apply KeepsNext.next
    | with_reducible apply KeepsNext.ite
    | with_reducible apply Keeps.ite
    | with_reducible apply doorbell_keeps
    | with_reducible apply writeGo_keeps
    | with_reducible apply keepsParts_of
    | intro _
    | with_reducible refine Keeps.of_eq (by assumption) ?_
    | with_reducible refine Keeps.of_eq_snd (by assumption) ?_
    | simp only [keeps_mk]
    | split

theorem execSqEntryCopy_keeps (t : ℕ) {s : State} : s.KeepsNext (execSqEntryCopy t s) := by
  unfold execSqEntryCopy
  repeat' first
    | with_reducible assumption
    | with_reducible exact Keeps.refl _
    | with_reducible apply KeepsNext.next
    | with_reducible apply KeepsNext.ite
    | with_reducible apply Keeps.ite
    | with_reducible apply goTo_keeps
    | with_reducible apply pumpPlans_keeps
    | with_reducible apply serveMcRing_keeps
    | with_reducible apply copyFrom_keeps
    | with_reducible apply keepsParts_of
    | intro _
    | with_reducible refine Keeps.of_eq (by assumption) ?_
    | with_reducible refine Keeps.of_eq_snd (by assumption) ?_
    | simp only [keeps_mk]
    | split

theorem State.pagePut_keeps {r s : State} (h : r.Keeps s) (a : Agent) (port : ℕ) (page : ℕ) (o : ℕ) (val : ℕ) : r.Keeps (State.pagePut s a port page o
    val) := by
  unfold State.pagePut
  repeat' first
    | with_reducible assumption
    | with_reducible exact Keeps.refl _
    | with_reducible apply Keeps.ite
    | with_reducible apply writeRing_keeps
    | with_reducible apply doorbell_keeps
    | with_reducible apply writeTail_keeps
    | with_reducible apply writeHead_keeps
    | with_reducible apply clearBits_keeps
    | with_reducible apply writeGo_keeps
    | with_reducible apply keepsParts_of
    | intro _
    | with_reducible refine Keeps.of_eq (by assumption) ?_
    | with_reducible refine Keeps.of_eq_snd (by assumption) ?_
    | simp only [keeps_mk]
    | split

theorem State.pageWrite_keeps {r s : State} (h : r.Keeps s) (a : Agent) (port : ℕ) (page : ℕ) (o : ℕ) (val : ℕ) : r.Keeps (State.pageWrite s a port
    page o val) := by
  unfold State.pageWrite
  repeat' first
    | with_reducible assumption
    | with_reducible exact Keeps.refl _
    | with_reducible apply Keeps.ite
    | with_reducible apply pagePut_keeps
    | with_reducible apply fnErr_keeps
    | with_reducible apply keepsParts_of
    | intro _
    | with_reducible refine Keeps.of_eq (by assumption) ?_
    | with_reducible refine Keeps.of_eq_snd (by assumption) ?_
    | simp only [keeps_mk]
    | split

theorem State.pageRead_keeps {r s : State} (h : r.Keeps s) (a : Agent) (page : ℕ) (o : ℕ) : r.Keeps (State.pageRead s a page o).1 := by
  unfold State.pageRead
  repeat' first
    | with_reducible assumption
    | with_reducible exact Keeps.refl _
    | with_reducible apply Keeps.ite
    | with_reducible apply Keeps.ite_fst
    | with_reducible apply fnErr_keeps
    | with_reducible apply keepsParts_of
    | intro _
    | with_reducible refine Keeps.of_eq (by assumption) ?_
    | with_reducible refine Keeps.of_eq_snd (by assumption) ?_
    | simp only [keeps_mk]
    | split

theorem State.msixPut_keeps {r s : State} (h : r.Keeps s) (port : ℕ) (func : ℕ) (o : ℕ) (d : ℕ) : r.Keeps (State.msixPut s port func o d) := by
  unfold State.msixPut
  repeat' first
    | with_reducible assumption
    | with_reducible exact Keeps.refl _
    | with_reducible apply Keeps.ite
    | with_reducible apply setH_keeps
    | with_reducible apply sendMsix_keeps
    | with_reducible apply keepsParts_of
    | intro _
    | with_reducible refine Keeps.of_eq (by assumption) ?_
    | with_reducible refine Keeps.of_eq_snd (by assumption) ?_
    | simp only [keeps_mk]
    | split

theorem State.bar0Dword_keeps {r s : State} (h : r.Keeps s) (a : Agent) (port : ℕ) (off : ℕ) (d : ℕ) : r.Keeps (State.bar0Dword s a port off d) := by
  unfold State.bar0Dword
  repeat' first
    | with_reducible assumption
    | with_reducible exact Keeps.refl _
    | with_reducible apply Keeps.ite
    | with_reducible apply msixPut_keeps
    | with_reducible apply pageWrite_keeps
    | with_reducible apply busWrite_keeps
    | with_reducible apply keepsParts_of
    | intro _
    | with_reducible refine Keeps.of_eq (by assumption) ?_
    | with_reducible refine Keeps.of_eq_snd (by assumption) ?_
    | simp only [keeps_mk]
    | split

theorem State.bar0Write_keeps {r s : State} (h : r.Keeps s) (a : Agent) (port : ℕ) (off : ℕ) (d : List Byte) (y5 : ℕ) : r.Keeps (State.bar0Write s a
    port off d y5) := by
  induction y5 generalizing s a port off d with
  | zero =>
    unfold State.bar0Write
    repeat' first
      | with_reducible assumption
      | with_reducible exact Keeps.refl _
      | with_reducible apply Keeps.ite
      | with_reducible apply pageWrite_keeps
      | with_reducible apply bar0Dword_keeps
      | with_reducible apply busWrite_keeps
      | with_reducible apply keepsParts_of
      | intro _
      | with_reducible refine Keeps.of_eq (by assumption) ?_
      | with_reducible refine Keeps.of_eq_snd (by assumption) ?_
      | simp only [keeps_mk]
      | split
  | succ n0 ih =>
    unfold State.bar0Write
    repeat' first
      | with_reducible assumption
      | with_reducible exact Keeps.refl _
      | with_reducible apply Keeps.ite
      | with_reducible apply pageWrite_keeps
      | with_reducible apply bar0Dword_keeps
      | with_reducible apply busWrite_keeps
      | with_reducible apply ih
      | with_reducible apply keepsParts_of
      | intro _
      | with_reducible refine Keeps.of_eq (by assumption) ?_
      | with_reducible refine Keeps.of_eq_snd (by assumption) ?_
      | simp only [keeps_mk]
      | split

theorem State.bar0Read_keeps {r s : State} (h : r.Keeps s) (a : Agent) (port : ℕ) (off : ℕ) (len : ℕ) (y5 : ℕ) : r.Keeps (State.bar0Read s a port off
    len y5).1 := by
  induction y5 generalizing s a port off len with
  | zero =>
    unfold State.bar0Read
    repeat' first
      | with_reducible assumption
      | with_reducible exact Keeps.refl _
      | with_reducible apply Keeps.ite
      | with_reducible apply Keeps.ite_fst
      | with_reducible apply pageRead_keeps
      | with_reducible apply busRead_keeps
      | with_reducible apply keepsParts_of
      | intro _
      | with_reducible refine Keeps.of_eq (by assumption) ?_
      | with_reducible refine Keeps.of_eq_snd (by assumption) ?_
      | simp only [keeps_mk]
      | split
  | succ n0 ih =>
    unfold State.bar0Read
    repeat' first
      | with_reducible assumption
      | with_reducible exact Keeps.refl _
      | with_reducible apply Keeps.ite
      | with_reducible apply Keeps.ite_fst
      | with_reducible apply pageRead_keeps
      | with_reducible apply busRead_keeps
      | with_reducible apply ih
      | with_reducible apply keepsParts_of
      | intro _
      | with_reducible refine Keeps.of_eq (by assumption) ?_
      | with_reducible refine Keeps.of_eq_snd (by assumption) ?_
      | simp only [keeps_mk]
      | split

theorem State.agentWrite_keeps {r s : State} (h : r.Keeps s) (a : Agent) (off : ℕ) (val : ℕ) : r.Keeps (State.agentWrite s a off val) := by
  unfold State.agentWrite
  repeat' first
    | with_reducible assumption
    | with_reducible exact Keeps.refl _
    | with_reducible apply Keeps.ite
    | with_reducible apply pageWrite_keeps
    | with_reducible apply bar0Dword_keeps
    | with_reducible apply busWrite_keeps
    | with_reducible apply keepsParts_of
    | intro _
    | with_reducible refine Keeps.of_eq (by assumption) ?_
    | with_reducible refine Keeps.of_eq_snd (by assumption) ?_
    | simp only [keeps_mk]
    | split

theorem State.agentRead_keeps {r s : State} (h : r.Keeps s) (a : Agent) (off : ℕ) : r.Keeps (State.agentRead s a off) := by
  unfold State.agentRead
  repeat' first
    | with_reducible assumption
    | with_reducible exact Keeps.refl _
    | with_reducible apply Keeps.ite
    | with_reducible apply Keeps.ite_fst
    | with_reducible apply bar0Read_keeps
    | with_reducible apply keepsParts_of
    | intro _
    | with_reducible refine Keeps.of_eq (by assumption) ?_
    | with_reducible refine Keeps.of_eq_snd (by assumption) ?_
    | simp only [keeps_mk]
    | split

theorem execRegisterWrite_keeps (a : Agent) (off : ℕ) (val : ℕ) {s : State} : s.KeepsNext (execRegisterWrite a off val s) := by
  unfold execRegisterWrite
  repeat' first
    | with_reducible assumption
    | with_reducible exact Keeps.refl _
    | with_reducible apply KeepsNext.next
    | with_reducible apply KeepsNext.ite
    | with_reducible apply Keeps.ite
    | with_reducible apply agentWrite_keeps
    | with_reducible apply keepsParts_of
    | intro _
    | with_reducible refine Keeps.of_eq (by assumption) ?_
    | with_reducible refine Keeps.of_eq_snd (by assumption) ?_
    | simp only [keeps_mk]
    | split

theorem execRegisterReadClear_keeps (a : Agent) (off : ℕ) {s : State} : s.KeepsNext (execRegisterReadClear a off s) := by
  unfold execRegisterReadClear
  repeat' first
    | with_reducible assumption
    | with_reducible exact Keeps.refl _
    | with_reducible apply KeepsNext.next
    | with_reducible apply KeepsNext.ite
    | with_reducible apply Keeps.ite
    | with_reducible apply agentRead_keeps
    | with_reducible apply keepsParts_of
    | intro _
    | with_reducible refine Keeps.of_eq (by assumption) ?_
    | with_reducible refine Keeps.of_eq_snd (by assumption) ?_
    | simp only [keeps_mk]
    | split

theorem execMcRingRequest_keeps (off : ℕ) (val : ℕ) {s : State} : s.KeepsNext (execMcRingRequest off val s) := by
  unfold execMcRingRequest
  repeat' first
    | with_reducible assumption
    | with_reducible exact Keeps.refl _
    | with_reducible apply KeepsNext.next
    | with_reducible apply KeepsNext.ite
    | with_reducible apply Keeps.ite
    | with_reducible apply mcAsk_keeps
    | with_reducible apply keepsParts_of
    | intro _
    | with_reducible refine Keeps.of_eq (by assumption) ?_
    | with_reducible refine Keeps.of_eq_snd (by assumption) ?_
    | simp only [keeps_mk]
    | split

theorem execStkRetire_keeps (a : Agent) (k : ℕ) (val : ℕ) {s : State} : s.KeepsNext (execStkRetire a k val s) := by
  unfold execStkRetire
  repeat' first
    | with_reducible assumption
    | with_reducible exact Keeps.refl _
    | with_reducible apply KeepsNext.next
    | with_reducible apply KeepsNext.ite
    | with_reducible apply Keeps.ite
    | with_reducible apply busWrite_keeps
    | with_reducible apply keepsParts_of
    | intro _
    | with_reducible refine Keeps.of_eq (by assumption) ?_
    | with_reducible refine Keeps.of_eq_snd (by assumption) ?_
    | simp only [keeps_mk]
    | split

theorem execBadFrameWrite_keeps (a : Agent) (d : ℕ) (val : ℕ) {s : State} : s.KeepsNext (execBadFrameWrite a d val s) := by
  unfold execBadFrameWrite
  repeat' first
    | with_reducible assumption
    | with_reducible exact Keeps.refl _
    | with_reducible apply KeepsNext.next
    | with_reducible apply KeepsNext.ite
    | with_reducible apply Keeps.ite
    | with_reducible apply busWrite_keeps
    | with_reducible apply keepsParts_of
    | intro _
    | with_reducible refine Keeps.of_eq (by assumption) ?_
    | with_reducible refine Keeps.of_eq_snd (by assumption) ?_
    | simp only [keeps_mk]
    | split

theorem execWithdraw_keeps (a : Agent) (d : ℕ) {s : State} : s.KeepsNext (execWithdraw a d s) := by
  unfold execWithdraw
  repeat' first
    | with_reducible assumption
    | with_reducible exact Keeps.refl _
    | with_reducible apply KeepsNext.next
    | with_reducible apply KeepsNext.ite
    | with_reducible apply Keeps.ite
    | with_reducible apply busWrite_keeps
    | with_reducible apply keepsParts_of
    | intro _
    | with_reducible refine Keeps.of_eq (by assumption) ?_
    | with_reducible refine Keeps.of_eq_snd (by assumption) ?_
    | simp only [keeps_mk]
    | split

theorem execBringIntoService_keeps (a : Agent) (d : ℕ) {s : State} : s.KeepsNext (execBringIntoService a d s) := by
  unfold execBringIntoService
  repeat' first
    | with_reducible assumption
    | with_reducible exact Keeps.refl _
    | with_reducible apply KeepsNext.next
    | with_reducible apply KeepsNext.ite
    | with_reducible apply Keeps.ite
    | with_reducible apply busWrite_keeps
    | with_reducible apply keepsParts_of
    | intro _
    | with_reducible refine Keeps.of_eq (by assumption) ?_
    | with_reducible refine Keeps.of_eq_snd (by assumption) ?_
    | simp only [keeps_mk]
    | split

theorem execPmcSelect_keeps (a : Agent) (i : ℕ) (val : ℕ) {s : State} : s.KeepsNext (execPmcSelect a i val s) := by
  unfold execPmcSelect
  repeat' first
    | with_reducible assumption
    | with_reducible exact Keeps.refl _
    | with_reducible apply KeepsNext.next
    | with_reducible apply KeepsNext.ite
    | with_reducible apply Keeps.ite
    | with_reducible apply busWrite_keeps
    | with_reducible apply keepsParts_of
    | intro _
    | with_reducible refine Keeps.of_eq (by assumption) ?_
    | with_reducible refine Keeps.of_eq_snd (by assumption) ?_
    | simp only [keeps_mk]
    | split

theorem execBwWindowConfig_keeps (a : Agent) (port : ℕ) (val : ℕ) {s : State} : s.KeepsNext (execBwWindowConfig a port val s) := by
  unfold execBwWindowConfig
  repeat' first
    | with_reducible assumption
    | with_reducible exact Keeps.refl _
    | with_reducible apply KeepsNext.next
    | with_reducible apply KeepsNext.ite
    | with_reducible apply Keeps.ite
    | with_reducible apply busWrite_keeps
    | with_reducible apply keepsParts_of
    | intro _
    | with_reducible refine Keeps.of_eq (by assumption) ?_
    | with_reducible refine Keeps.of_eq_snd (by assumption) ?_
    | simp only [keeps_mk]
    | split

theorem execSnapNow_keeps (a : Agent) (val : ℕ) {s : State} : s.KeepsNext (execSnapNow a val s) := by
  unfold execSnapNow
  repeat' first
    | with_reducible assumption
    | with_reducible exact Keeps.refl _
    | with_reducible apply KeepsNext.next
    | with_reducible apply KeepsNext.ite
    | with_reducible apply Keeps.ite
    | with_reducible apply busWrite_keeps
    | with_reducible apply keepsParts_of
    | intro _
    | with_reducible refine Keeps.of_eq (by assumption) ?_
    | with_reducible refine Keeps.of_eq_snd (by assumption) ?_
    | simp only [keeps_mk]
    | split

theorem execGhClear_keeps (a : Agent) (q : ℕ) (sl : ℕ) (val : ℕ) {s : State} : s.KeepsNext (execGhClear a q sl val s) := by
  unfold execGhClear
  repeat' first
    | with_reducible assumption
    | with_reducible exact Keeps.refl _
    | with_reducible apply KeepsNext.next
    | with_reducible apply KeepsNext.ite
    | with_reducible apply Keeps.ite
    | with_reducible apply busWrite_keeps
    | with_reducible apply keepsParts_of
    | intro _
    | with_reducible refine Keeps.of_eq (by assumption) ?_
    | with_reducible refine Keeps.of_eq_snd (by assumption) ?_
    | simp only [keeps_mk]
    | split

theorem execResCtrlMod_keeps (a : Agent) (val : ℕ) {s : State} : s.KeepsNext (execResCtrlMod a val s) := by
  unfold execResCtrlMod
  repeat' first
    | with_reducible assumption
    | with_reducible exact Keeps.refl _
    | with_reducible apply KeepsNext.next
    | with_reducible apply KeepsNext.ite
    | with_reducible apply Keeps.ite
    | with_reducible apply busWrite_keeps
    | with_reducible apply keepsParts_of
    | intro _
    | with_reducible refine Keeps.of_eq (by assumption) ?_
    | with_reducible refine Keeps.of_eq_snd (by assumption) ?_
    | simp only [keeps_mk]
    | split

theorem State.answer_keeps {r s : State} (h : r.Keeps s) (status : ℕ) (d : List Byte) : r.Keeps (State.answer s status d) := by
  unfold State.answer
  repeat' first
    | with_reducible assumption
    | with_reducible exact Keeps.refl _
    | with_reducible apply Keeps.ite
    | with_reducible apply keepsParts_of
    | intro _
    | with_reducible refine Keeps.of_eq (by assumption) ?_
    | with_reducible refine Keeps.of_eq_snd (by assumption) ?_
    | simp only [keeps_mk]
    | split

theorem State.cfgSet_keeps {r s : State} (h : r.Keeps s) (f : ℕ) (off : ℕ) (bits : ℕ) : r.Keeps (State.cfgSet s f off bits) := by
  unfold State.cfgSet
  repeat' first
    | with_reducible assumption
    | with_reducible exact Keeps.refl _
    | with_reducible apply Keeps.ite
    | with_reducible apply setH_keeps
    | with_reducible apply keepsParts_of
    | intro _
    | with_reducible refine Keeps.of_eq (by assumption) ?_
    | with_reducible refine Keeps.of_eq_snd (by assumption) ?_
    | simp only [keeps_mk]
    | split

theorem State.aerReject_keeps {r s : State} (h : r.Keeps s) (port : ℕ) (func : ℕ) (status : ℕ) : r.Keeps (State.aerReject s port func status) := by
  unfold State.aerReject
  repeat' first
    | with_reducible assumption
    | with_reducible exact Keeps.refl _
    | with_reducible apply Keeps.ite
    | with_reducible apply cfgSet_keeps
    | with_reducible apply keepsParts_of
    | intro _
    | with_reducible refine Keeps.of_eq (by assumption) ?_
    | with_reducible refine Keeps.of_eq_snd (by assumption) ?_
    | simp only [keeps_mk]
    | split

theorem State.aerCorrectable_keeps {r s : State} (h : r.Keeps s) (port : ℕ) (cls : ℕ) (bit : ℕ) : r.Keeps (State.aerCorrectable s port cls bit) := by
  unfold State.aerCorrectable
  repeat' first
    | with_reducible assumption
    | with_reducible exact Keeps.refl _
    | with_reducible apply Keeps.ite
    | with_reducible apply setH_keeps
    | with_reducible apply cfgSet_keeps
    | with_reducible apply keepsParts_of
    | intro _
    | with_reducible refine Keeps.of_eq (by assumption) ?_
    | with_reducible refine Keeps.of_eq_snd (by assumption) ?_
    | simp only [keeps_mk]
    | split

theorem State.reject_keeps {r0 s : State} (h : r0.Keeps s) (r : InReq) (cause : ℕ) (status : ℕ) : r0.Keeps (State.reject s r cause status) := by
  unfold State.reject
  repeat' first
    | with_reducible assumption
    | with_reducible exact Keeps.refl _
    | with_reducible apply Keeps.ite
    | with_reducible apply ev_keeps
    | with_reducible apply bump_keeps
    | with_reducible apply firstError_keeps
    | with_reducible apply raisePf_keeps
    | with_reducible apply wr_keeps
    | with_reducible apply answer_keeps
    | with_reducible apply aerReject_keeps
    | with_reducible apply keepsParts_of
    | intro _
    | with_reducible refine Keeps.of_eq (by assumption) ?_
    | with_reducible refine Keeps.of_eq_snd (by assumption) ?_
    | simp only [keeps_mk]
    | split

theorem State.reachable_keeps {r s : State} (h : r.Keeps s) (c : Client) (va : ℕ) (n : ℕ) (write : Bool) : r.Keeps (State.reachable s c va n write).1
    := by
  unfold State.reachable
  repeat' first
    | with_reducible assumption
    | with_reducible exact Keeps.refl _
    | with_reducible apply Keeps.ite
    | with_reducible apply Keeps.ite_fst
    | with_reducible apply xlate_keeps
    | with_reducible refine Keeps.foldl ?_ (fun u x => ?_)
    | with_reducible refine Keeps.foldl_fst ?_ (fun u x => ?_)
    | with_reducible apply keepsParts_of
    | intro _
    | with_reducible refine Keeps.of_eq (by assumption) ?_
    | with_reducible refine Keeps.of_eq_snd (by assumption) ?_
    | simp only [keeps_mk]
    | split

theorem State.bar2Stops_keeps {r0 s : State} (h : r0.Keeps s) (r : InReq) (cause : ℕ) : r0.Keeps (State.bar2Stops s r cause) := by
  unfold State.bar2Stops
  repeat' first
    | with_reducible assumption
    | with_reducible exact Keeps.refl _
    | with_reducible apply Keeps.ite
    | with_reducible apply reject_keeps
    | with_reducible apply keepsParts_of
    | intro _
    | with_reducible refine Keeps.of_eq (by assumption) ?_
    | with_reducible refine Keeps.of_eq_snd (by assumption) ?_
    | simp only [keeps_mk]
    | split

theorem State.serveInbound_keeps {r0 s : State} (h : r0.Keeps s) (r : InReq) : r0.Keeps (State.serveInbound s r) := by
  unfold State.serveInbound
  repeat' first
    | with_reducible assumption
    | with_reducible exact Keeps.refl _
    | with_reducible apply Keeps.ite
    | with_reducible apply Keeps.ite_fst
    | with_reducible apply answer_keeps
    | with_reducible apply reachable_keeps
    | with_reducible apply bar2Stops_keeps
    | with_reducible apply vwrite_keeps
    | with_reducible apply vread_keeps
    | with_reducible apply bar0Write_keeps
    | with_reducible apply bar0Read_keeps
    | with_reducible apply keepsParts_of
    | intro _
    | with_reducible refine Keeps.of_eq (by assumption) ?_
    | with_reducible refine Keeps.of_eq_snd (by assumption) ?_
    | simp only [keeps_mk]
    | split

theorem State.serveNext_keeps {r0 s : State} (h : r0.Keeps s) (r : InReq) : r0.Keeps (State.serveNext s r) := by
  unfold State.serveNext
  repeat' first
    | with_reducible assumption
    | with_reducible exact Keeps.refl _
    | with_reducible apply Keeps.ite
    | with_reducible apply serveInbound_keeps
    | with_reducible apply keepsParts_of
    | intro _
    | with_reducible refine Keeps.of_eq (by assumption) ?_
    | with_reducible refine Keeps.of_eq_snd (by assumption) ?_
    | simp only [keeps_mk]
    | split

theorem State.retryHeld_keeps {r s : State} (h : r.Keeps s) : r.Keeps (State.retryHeld s) := by
  unfold State.retryHeld
  repeat' first
    | with_reducible assumption
    | with_reducible exact Keeps.refl _
    | with_reducible apply Keeps.ite
    | with_reducible apply serveNext_keeps
    | with_reducible refine Keeps.foldl ?_ (fun u x => ?_)
    | with_reducible refine Keeps.foldl_fst ?_ (fun u x => ?_)
    | with_reducible apply keepsParts_of
    | intro _
    | with_reducible refine Keeps.of_eq (by assumption) ?_
    | with_reducible refine Keeps.of_eq_snd (by assumption) ?_
    | simp only [keeps_mk]
    | split

theorem State.inbound_keeps {r0 s : State} (h : r0.Keeps s) (r : InReq) : r0.Keeps (State.inbound s r) := by
  unfold State.inbound
  repeat' first
    | with_reducible assumption
    | with_reducible exact Keeps.refl _
    | with_reducible apply Keeps.ite
    | with_reducible apply answer_keeps
    | with_reducible apply reject_keeps
    | with_reducible apply serveNext_keeps
    | with_reducible apply retryHeld_keeps
    | with_reducible apply keepsParts_of
    | intro _
    | with_reducible refine Keeps.of_eq (by assumption) ?_
    | with_reducible refine Keeps.of_eq_snd (by assumption) ?_
    | simp only [keeps_mk]
    | split

theorem State.endLink_keeps {r s : State} (h : r.Keeps s) (port : ℕ) (status : ℕ) : r.Keeps (State.endLink s port status) := by
  unfold State.endLink
  repeat' first
    | with_reducible assumption
    | with_reducible exact Keeps.refl _
    | with_reducible apply Keeps.ite
    | with_reducible apply complete_keeps
    | with_reducible apply setH_keeps
    | with_reducible refine Keeps.foldl ?_ (fun u x => ?_)
    | with_reducible refine Keeps.foldl_fst ?_ (fun u x => ?_)
    | with_reducible apply keepsParts_of
    | intro _
    | with_reducible refine Keeps.of_eq (by assumption) ?_
    | with_reducible refine Keeps.of_eq_snd (by assumption) ?_
    | simp only [keeps_mk]
    | split

theorem State.resetFunc_keeps {r s : State} (h : r.Keeps s) (port : ℕ) (func : ℕ) : r.Keeps (State.resetFunc s port func) := by
  unfold State.resetFunc
  repeat' first
    | with_reducible assumption
    | with_reducible exact Keeps.refl _
    | with_reducible apply Keeps.ite
    | with_reducible apply setH_keeps
    | with_reducible refine Keeps.foldl ?_ (fun u x => ?_)
    | with_reducible refine Keeps.foldl_fst ?_ (fun u x => ?_)
    | with_reducible apply keepsParts_of
    | intro _
    | with_reducible refine Keeps.of_eq (by assumption) ?_
    | with_reducible refine Keeps.of_eq_snd (by assumption) ?_
    | simp only [keeps_mk]
    | split

theorem State.failStore_keeps {r s : State} (h : r.Keeps s) (d : DirectStore) : r.Keeps (State.failStore s d) := by
  unfold State.failStore
  repeat' first
    | with_reducible assumption
    | with_reducible exact Keeps.refl _
    | with_reducible apply Keeps.ite
    | with_reducible apply Keeps.ite_fst
    | with_reducible apply fresh_keeps
    | with_reducible apply setBytes_keeps
    | with_reducible apply raiseFault_keeps
    | with_reducible apply keepsParts_of
    | intro _
    | with_reducible refine Keeps.of_eq (by assumption) ?_
    | with_reducible refine Keeps.of_eq_snd (by assumption) ?_
    | simp only [keeps_mk]
    | split

theorem State.failRead_keeps {r0 s : State} (h : r0.Keeps s) (r : Req) : r0.Keeps (State.failRead s r) := by
  unfold State.failRead
  repeat' first
    | with_reducible assumption
    | with_reducible exact Keeps.refl _
    | with_reducible apply Keeps.ite
    | with_reducible apply Keeps.ite_fst
    | with_reducible apply walk_keeps
    | with_reducible apply syncOut_keeps
    | with_reducible apply raiseFault_keeps
    | with_reducible apply keepsParts_of
    | intro _
    | with_reducible refine Keeps.of_eq (by assumption) ?_
    | with_reducible refine Keeps.of_eq_snd (by assumption) ?_
    | simp only [keeps_mk]
    | split

theorem State.portFalls_keeps {r s : State} (h : r.Keeps s) (port : ℕ) : r.Keeps (State.portFalls s port) := by
  unfold State.portFalls
  repeat' first
    | with_reducible assumption
    | with_reducible exact Keeps.refl _
    | with_reducible apply Keeps.ite
    | with_reducible apply failStore_keeps
    | with_reducible apply failRead_keeps
    | with_reducible apply resetFunc_keeps
    | with_reducible apply raisePfOther_keeps
    | with_reducible apply mark_keeps
    | with_reducible refine Keeps.foldl ?_ (fun u x => ?_)
    | with_reducible refine Keeps.foldl_fst ?_ (fun u x => ?_)
    | with_reducible apply keepsParts_of
    | intro _
    | with_reducible refine Keeps.of_eq (by assumption) ?_
    | with_reducible refine Keeps.of_eq_snd (by assumption) ?_
    | simp only [keeps_mk]
    | split

theorem State.linkGone_keeps {r s : State} (h : r.Keeps s) (port : ℕ) : r.Keeps (State.linkGone s port) := by
  unfold State.linkGone
  repeat' first
    | with_reducible assumption
    | with_reducible exact Keeps.refl _
    | with_reducible apply Keeps.ite
    | with_reducible apply wr_keeps
    | with_reducible apply keepsParts_of
    | intro _
    | with_reducible refine Keeps.of_eq (by assumption) ?_
    | with_reducible refine Keeps.of_eq_snd (by assumption) ?_
    | simp only [keeps_mk]
    | split

theorem State.portDown_keeps {r s : State} (h : r.Keeps s) (port : ℕ) : r.Keeps (State.portDown s port) := by
  unfold State.portDown
  repeat' first
    | with_reducible assumption
    | with_reducible exact Keeps.refl _
    | with_reducible apply Keeps.ite
    | with_reducible apply portFalls_keeps
    | with_reducible apply linkGone_keeps
    | with_reducible apply keepsParts_of
    | intro _
    | with_reducible refine Keeps.of_eq (by assumption) ?_
    | with_reducible refine Keeps.of_eq_snd (by assumption) ?_
    | simp only [keeps_mk]
    | split

theorem State.laneFail_keeps {r s : State} (h : r.Keeps s) (port : ℕ) (lane : ℕ) : r.Keeps (State.laneFail s port lane) := by
  unfold State.laneFail
  repeat' first
    | with_reducible assumption
    | with_reducible exact Keeps.refl _
    | with_reducible apply Keeps.ite
    | with_reducible apply setH_keeps
    | with_reducible apply bump_keeps
    | with_reducible apply wr_keeps
    | with_reducible apply mark_keeps
    | with_reducible apply raisePf_keeps
    | with_reducible apply portDown_keeps
    | with_reducible apply keepsParts_of
    | intro _
    | with_reducible refine Keeps.of_eq (by assumption) ?_
    | with_reducible refine Keeps.of_eq_snd (by assumption) ?_
    | simp only [keeps_mk]
    | split

theorem State.crcFail_keeps {r s : State} (h : r.Keeps s) (port : ℕ) (lane : ℕ) : r.Keeps (State.crcFail s port lane) := by
  unfold State.crcFail
  repeat' first
    | with_reducible assumption
    | with_reducible exact Keeps.refl _
    | with_reducible apply Keeps.ite
    | with_reducible apply addH_keeps
    | with_reducible apply bump_keeps
    | with_reducible apply aerCorrectable_keeps
    | with_reducible apply mcLog_keeps
    | with_reducible apply raisePf_keeps
    | with_reducible apply mark_keeps
    | with_reducible apply setH_keeps
    | with_reducible apply laneFail_keeps
    | with_reducible apply keepsParts_of
    | intro _
    | with_reducible refine Keeps.of_eq (by assumption) ?_
    | with_reducible refine Keeps.of_eq_snd (by assumption) ?_
    | simp only [keeps_mk]
    | split

theorem State.l2Line_keeps {r s : State} (h : r.Keeps s) (q : ℕ) (c : ℕ) (pa : ℕ) : r.Keeps (State.l2Line s q c pa).1 := by
  unfold State.l2Line
  repeat' first
    | with_reducible assumption
    | with_reducible exact Keeps.refl _
    | with_reducible apply Keeps.ite
    | with_reducible apply Keeps.ite_fst
    | with_reducible apply vread_keeps
    | with_reducible apply keepsParts_of
    | intro _
    | with_reducible refine Keeps.of_eq (by assumption) ?_
    | with_reducible refine Keeps.of_eq_snd (by assumption) ?_
    | simp only [keeps_mk]
    | split

theorem State.l2Access_keeps {r s : State} (h : r.Keeps s) (q : ℕ) (c : ℕ) (pa : ℕ) (len : ℕ) (write : Bool) (d : List Byte) (y7 : ℕ) : r.Keeps
    (State.l2Access s q c pa len write d y7).1 := by
  induction y7 generalizing s q c pa len write d with
  | zero =>
    unfold State.l2Access
    repeat' first
      | with_reducible assumption
      | with_reducible exact Keeps.refl _
      | with_reducible apply Keeps.ite
      | with_reducible apply Keeps.ite_fst
      | with_reducible apply l2Line_keeps
      | with_reducible apply keepsParts_of
      | intro _
      | with_reducible refine Keeps.of_eq (by assumption) ?_
      | with_reducible refine Keeps.of_eq_snd (by assumption) ?_
      | simp only [keeps_mk]
      | split
  | succ n0 ih =>
    unfold State.l2Access
    repeat' first
      | with_reducible assumption
      | with_reducible exact Keeps.refl _
      | with_reducible apply Keeps.ite
      | with_reducible apply Keeps.ite_fst
      | with_reducible apply l2Line_keeps
      | with_reducible apply ih
      | with_reducible apply keepsParts_of
      | intro _
      | with_reducible refine Keeps.of_eq (by assumption) ?_
      | with_reducible refine Keeps.of_eq_snd (by assumption) ?_
      | simp only [keeps_mk]
      | split

theorem State.maintain_keeps {r s : State} (h : r.Keeps s) (q : ℕ) (action : ℕ) : r.Keeps (State.maintain s q action) := by
  unfold State.maintain
  repeat' first
    | with_reducible assumption
    | with_reducible exact Keeps.refl _
    | with_reducible apply Keeps.ite
    | with_reducible apply cleanL2_keeps
    | with_reducible apply dropL2_keeps
    | with_reducible apply flushL2_keeps
    | with_reducible refine Keeps.foldl ?_ (fun u x => ?_)
    | with_reducible refine Keeps.foldl_fst ?_ (fun u x => ?_)
    | with_reducible apply keepsParts_of
    | intro _
    | with_reducible refine Keeps.of_eq (by assumption) ?_
    | with_reducible refine Keeps.of_eq_snd (by assumption) ?_
    | simp only [keeps_mk]
    | split

theorem State.localWrite_keeps {r s : State} (h : r.Keeps s) (q : ℕ) (o : ℕ) (v : ℕ) : r.Keeps (State.localWrite s q o v) := by
  unfold State.localWrite
  repeat' first
    | with_reducible assumption
    | with_reducible exact Keeps.refl _
    | with_reducible apply Keeps.ite
    | with_reducible apply setH_keeps
    | with_reducible apply maintain_keeps
    | with_reducible apply keepsParts_of
    | intro _
    | with_reducible refine Keeps.of_eq (by assumption) ?_
    | with_reducible refine Keeps.of_eq_snd (by assumption) ?_
    | simp only [keeps_mk]
    | split

theorem State.coreAccess_keeps {r s : State} (h : r.Keeps s) (x : CoreAcc) : r.Keeps (State.coreAccess s x) := by
  unfold State.coreAccess
  repeat' first
    | with_reducible assumption
    | with_reducible exact Keeps.refl _
    | with_reducible apply Keeps.ite
    | with_reducible apply Keeps.ite_fst
    | with_reducible apply answer_keeps
    | with_reducible apply flushL2_keeps
    | with_reducible apply l2Access_keeps
    | with_reducible apply vwrite_keeps
    | with_reducible apply vread_keeps
    | with_reducible apply bar0Write_keeps
    | with_reducible apply bar0Read_keeps
    | with_reducible apply localWrite_keeps
    | with_reducible apply setBytes_keeps
    | with_reducible apply keepsParts_of
    | intro _
    | with_reducible refine Keeps.of_eq (by assumption) ?_
    | with_reducible refine Keeps.of_eq_snd (by assumption) ?_
    | simp only [keeps_mk]
    | split

theorem State.tapLine_keeps {r s : State} (h : r.Keeps s) (dr : ℕ) : r.Keeps (State.tapLine s dr) := by
  unfold State.tapLine
  repeat' first
    | with_reducible assumption
    | with_reducible exact Keeps.refl _
    | with_reducible apply Keeps.ite
    | with_reducible apply setBytes_keeps
    | with_reducible apply setPoison_keeps
    | with_reducible apply answer_keeps
    | with_reducible apply keepsParts_of
    | intro _
    | with_reducible refine Keeps.of_eq (by assumption) ?_
    | with_reducible refine Keeps.of_eq_snd (by assumption) ?_
    | simp only [keeps_mk]
    | split

theorem execTurnStart_keeps {s : State} : s.KeepsNext (execTurnStart s) := by
  unfold execTurnStart
  repeat' first
    | with_reducible assumption
    | with_reducible exact Keeps.refl _
    | with_reducible apply KeepsNext.next
    | with_reducible apply KeepsNext.ite
    | with_reducible apply Keeps.ite
    | with_reducible apply newTurn_keeps
    | with_reducible apply retryHeld_keeps
    | with_reducible apply coreAccess_keeps
    | with_reducible apply tapLine_keeps
    | with_reducible refine Keeps.foldl ?_ (fun u x => ?_)
    | with_reducible refine Keeps.foldl_fst ?_ (fun u x => ?_)
    | with_reducible apply keepsParts_of
    | intro _
    | with_reducible refine Keeps.of_eq (by assumption) ?_
    | with_reducible refine Keeps.of_eq_snd (by assumption) ?_
    | simp only [keeps_mk]
    | split

theorem State.remakeStore_keeps {r s : State} (h : r.Keeps s) (d : DirectStore) : r.Keeps (State.remakeStore s d) := by
  unfold State.remakeStore
  repeat' first
    | with_reducible assumption
    | with_reducible exact Keeps.refl _
    | with_reducible apply Keeps.ite
    | with_reducible apply Keeps.ite_fst
    | with_reducible apply xlate_keeps
    | with_reducible apply vwrite_keeps
    | with_reducible apply keepsParts_of
    | intro _
    | with_reducible refine Keeps.of_eq (by assumption) ?_
    | with_reducible refine Keeps.of_eq_snd (by assumption) ?_
    | simp only [keeps_mk]
    | split

theorem execDirectHostStore_keeps (id : ℕ) (t : ℕ) {s : State} : s.KeepsNext (execDirectHostStore id t s) := by
  unfold execDirectHostStore
  repeat' first
    | with_reducible assumption
    | with_reducible exact Keeps.refl _
    | with_reducible apply KeepsNext.next
    | with_reducible apply KeepsNext.ite
    | with_reducible apply Keeps.ite
    | with_reducible apply goTo_keeps
    | with_reducible apply remakeStore_keeps
    | with_reducible apply failStore_keeps
    | with_reducible apply ev_keeps
    | with_reducible apply keepsParts_of
    | intro _
    | with_reducible refine Keeps.of_eq (by assumption) ?_
    | with_reducible refine Keeps.of_eq_snd (by assumption) ?_
    | simp only [keeps_mk]
    | split

theorem execInboundRequest_keeps (r : InReq) (t : ℕ) {s : State} : s.KeepsNext (execInboundRequest r t s) := by
  unfold execInboundRequest
  repeat' first
    | with_reducible assumption
    | with_reducible exact Keeps.refl _
    | with_reducible apply KeepsNext.next
    | with_reducible apply KeepsNext.ite
    | with_reducible apply Keeps.ite
    | with_reducible apply inbound_keeps
    | with_reducible apply goTo_keeps
    | with_reducible apply keepsParts_of
    | intro _
    | with_reducible refine Keeps.of_eq (by assumption) ?_
    | with_reducible refine Keeps.of_eq_snd (by assumption) ?_
    | simp only [keeps_mk]
    | split

theorem execBar2ReadTimeout_keeps (port : ℕ) (tag : ℕ) {s : State} : s.KeepsNext (execBar2ReadTimeout port tag s) := by
  unfold execBar2ReadTimeout
  repeat' first
    | with_reducible assumption
    | with_reducible exact Keeps.refl _
    | with_reducible apply KeepsNext.next
    | with_reducible apply KeepsNext.ite
    | with_reducible apply Keeps.ite
    | with_reducible apply reject_keeps
    | with_reducible apply keepsParts_of
    | intro _
    | with_reducible refine Keeps.of_eq (by assumption) ?_
    | with_reducible refine Keeps.of_eq_snd (by assumption) ?_
    | simp only [keeps_mk]
    | split

theorem execHostSnoop_keeps (_addr : ℕ) {s : State} : s.KeepsNext (execHostSnoop _addr s) := by
  unfold execHostSnoop
  repeat' first
    | with_reducible assumption
    | with_reducible exact Keeps.refl _
    | with_reducible apply KeepsNext.next
    | with_reducible apply KeepsNext.ite
    | with_reducible apply Keeps.ite
    | with_reducible apply answer_keeps
    | with_reducible apply keepsParts_of
    | intro _
    | with_reducible refine Keeps.of_eq (by assumption) ?_
    | with_reducible refine Keeps.of_eq_snd (by assumption) ?_
    | simp only [keeps_mk]
    | split

theorem execHostAck_keeps (req : ℕ) {s : State} : s.KeepsNext (execHostAck req s) := by
  unfold execHostAck
  repeat' first
    | with_reducible assumption
    | with_reducible exact Keeps.refl _
    | with_reducible apply KeepsNext.next
    | with_reducible apply KeepsNext.ite
    | with_reducible apply Keeps.ite
    | with_reducible apply setBytes_keeps
    | with_reducible apply keepsParts_of
    | intro _
    | with_reducible refine Keeps.of_eq (by assumption) ?_
    | with_reducible refine Keeps.of_eq_snd (by assumption) ?_
    | simp only [keeps_mk]
    | split

theorem execHostRequestTimeout_keeps (req : ℕ) {s : State} : s.KeepsNext (execHostRequestTimeout req s) := by
  unfold execHostRequestTimeout
  repeat' first
    | with_reducible assumption
    | with_reducible exact Keeps.refl _
    | with_reducible apply KeepsNext.next
    | with_reducible apply KeepsNext.ite
    | with_reducible apply Keeps.ite
    | with_reducible apply failStore_keeps
    | with_reducible apply failRead_keeps
    | with_reducible apply keepsParts_of
    | intro _
    | with_reducible refine Keeps.of_eq (by assumption) ?_
    | with_reducible refine Keeps.of_eq_snd (by assumption) ?_
    | simp only [keeps_mk]
    | split

theorem execHoldoffExpiry_keeps (q : ℕ) (v : ℕ) {s : State} : s.KeepsNext (execHoldoffExpiry q v s) := by
  unfold execHoldoffExpiry
  repeat' first
    | with_reducible assumption
    | with_reducible exact Keeps.refl _
    | with_reducible apply KeepsNext.next
    | with_reducible apply KeepsNext.ite
    | with_reducible apply Keeps.ite
    | with_reducible apply goTo_keeps
    | with_reducible apply setH_keeps
    | with_reducible apply sendMsix_keeps
    | with_reducible apply keepsParts_of
    | intro _
    | with_reducible refine Keeps.of_eq (by assumption) ?_
    | with_reducible refine Keeps.of_eq_snd (by assumption) ?_
    | simp only [keeps_mk]
    | split

theorem execFlitCrcFail_keeps (port : ℕ) (lane : ℕ) (fec : ℕ) {s : State} : s.KeepsNext (execFlitCrcFail port lane fec s) := by
  unfold execFlitCrcFail
  repeat' first
    | with_reducible assumption
    | with_reducible exact Keeps.refl _
    | with_reducible apply KeepsNext.next
    | with_reducible apply KeepsNext.ite
    | with_reducible apply Keeps.ite
    | with_reducible apply crcFail_keeps
    | with_reducible apply bump_keeps
    | with_reducible apply keepsParts_of
    | intro _
    | with_reducible refine Keeps.of_eq (by assumption) ?_
    | with_reducible refine Keeps.of_eq_snd (by assumption) ?_
    | simp only [keeps_mk]
    | split

theorem execFlitNak_keeps (port : ℕ) {s : State} : s.KeepsNext (execFlitNak port s) := by
  unfold execFlitNak
  repeat' first
    | with_reducible assumption
    | with_reducible exact Keeps.refl _
    | with_reducible apply KeepsNext.next
    | with_reducible apply KeepsNext.ite
    | with_reducible apply Keeps.ite
    | with_reducible apply bump_keeps
    | with_reducible apply aerCorrectable_keeps
    | with_reducible apply keepsParts_of
    | intro _
    | with_reducible refine Keeps.of_eq (by assumption) ?_
    | with_reducible refine Keeps.of_eq_snd (by assumption) ?_
    | simp only [keeps_mk]
    | split

theorem execReplayTimeout_keeps (port : ℕ) (rollover : Bool) {s : State} : s.KeepsNext (execReplayTimeout port rollover s) := by
  unfold execReplayTimeout
  repeat' first
    | with_reducible assumption
    | with_reducible exact Keeps.refl _
    | with_reducible apply KeepsNext.next
    | with_reducible apply KeepsNext.ite
    | with_reducible apply Keeps.ite
    | with_reducible apply bump_keeps
    | with_reducible apply aerCorrectable_keeps
    | with_reducible apply keepsParts_of
    | intro _
    | with_reducible refine Keeps.of_eq (by assumption) ?_
    | with_reducible refine Keeps.of_eq_snd (by assumption) ?_
    | simp only [keeps_mk]
    | split

theorem execPortLaneFailure_keeps (port : ℕ) (lane : ℕ) {s : State} : s.KeepsNext (execPortLaneFailure port lane s) := by
  unfold execPortLaneFailure
  repeat' first
    | with_reducible assumption
    | with_reducible exact Keeps.refl _
    | with_reducible apply KeepsNext.next
    | with_reducible apply KeepsNext.ite
    | with_reducible apply Keeps.ite
    | with_reducible apply laneFail_keeps
    | with_reducible apply keepsParts_of
    | intro _
    | with_reducible refine Keeps.of_eq (by assumption) ?_
    | with_reducible refine Keeps.of_eq_snd (by assumption) ?_
    | simp only [keeps_mk]
    | split

theorem execLinkDown_keeps (port : ℕ) {s : State} : s.KeepsNext (execLinkDown port s) := by
  unfold execLinkDown
  repeat' first
    | with_reducible assumption
    | with_reducible exact Keeps.refl _
    | with_reducible apply KeepsNext.next
    | with_reducible apply KeepsNext.ite
    | with_reducible apply Keeps.ite
    | with_reducible apply portDown_keeps
    | with_reducible apply keepsParts_of
    | intro _
    | with_reducible refine Keeps.of_eq (by assumption) ?_
    | with_reducible refine Keeps.of_eq_snd (by assumption) ?_
    | simp only [keeps_mk]
    | split

theorem execLinkUp_keeps (port : ℕ) (width : ℕ) (rate : ℕ) (flit : Bool) (cache : Bool) {s : State} : s.KeepsNext (execLinkUp port width rate flit
    cache s) := by
  unfold execLinkUp
  repeat' first
    | with_reducible assumption
    | with_reducible exact Keeps.refl _
    | with_reducible apply KeepsNext.next
    | with_reducible apply KeepsNext.ite
    | with_reducible apply Keeps.ite
    | with_reducible apply wr_keeps
    | with_reducible apply mark_keeps
    | with_reducible apply endLink_keeps
    | with_reducible apply keepsParts_of
    | intro _
    | with_reducible refine Keeps.of_eq (by assumption) ?_
    | with_reducible refine Keeps.of_eq_snd (by assumption) ?_
    | simp only [keeps_mk]
    | split

theorem execRecoveryExit_keeps (port : ℕ) {s : State} : s.KeepsNext (execRecoveryExit port s) := by
  unfold execRecoveryExit
  repeat' first
    | with_reducible assumption
    | with_reducible exact Keeps.refl _
    | with_reducible apply KeepsNext.next
    | with_reducible apply KeepsNext.ite
    | with_reducible apply Keeps.ite
    | with_reducible apply wr_keeps
    | with_reducible apply endLink_keeps
    | with_reducible apply keepsParts_of
    | intro _
    | with_reducible refine Keeps.of_eq (by assumption) ?_
    | with_reducible refine Keeps.of_eq_snd (by assumption) ?_
    | simp only [keeps_mk]
    | split

theorem execLinkTrainingTimeout_keeps (port : ℕ) {s : State} : s.KeepsNext (execLinkTrainingTimeout port s) := by
  unfold execLinkTrainingTimeout
  repeat' first
    | with_reducible assumption
    | with_reducible exact Keeps.refl _
    | with_reducible apply KeepsNext.next
    | with_reducible apply KeepsNext.ite
    | with_reducible apply Keeps.ite
    | with_reducible apply endLink_keeps
    | with_reducible apply keepsParts_of
    | intro _
    | with_reducible refine Keeps.of_eq (by assumption) ?_
    | with_reducible refine Keeps.of_eq_snd (by assumption) ?_
    | simp only [keeps_mk]
    | split

theorem execPortReset_keeps (port : ℕ) (hot : Bool) {s : State} : s.KeepsNext (execPortReset port hot s) := by
  unfold execPortReset
  repeat' first
    | with_reducible assumption
    | with_reducible exact Keeps.refl _
    | with_reducible apply KeepsNext.next
    | with_reducible apply KeepsNext.ite
    | with_reducible apply Keeps.ite
    | with_reducible apply portFalls_keeps
    | with_reducible apply setH_keeps
    | with_reducible apply portDown_keeps
    | with_reducible apply keepsParts_of
    | intro _
    | with_reducible refine Keeps.of_eq (by assumption) ?_
    | with_reducible refine Keeps.of_eq_snd (by assumption) ?_
    | simp only [keeps_mk]
    | split

theorem execPerstNRelease_keeps (port : ℕ) {s : State} : s.KeepsNext (execPerstNRelease port s) := by
  unfold execPerstNRelease
  repeat' first
    | with_reducible assumption
    | with_reducible exact Keeps.refl _
    | with_reducible apply KeepsNext.next
    | with_reducible apply KeepsNext.ite
    | with_reducible apply Keeps.ite
    | with_reducible apply setH_keeps
    | with_reducible apply keepsParts_of
    | intro _
    | with_reducible refine Keeps.of_eq (by assumption) ?_
    | with_reducible refine Keeps.of_eq_snd (by assumption) ?_
    | simp only [keeps_mk]
    | split

theorem State.functionReset_keeps {r s : State} (h : r.Keeps s) (port : ℕ) (func : ℕ) : r.Keeps (State.functionReset s port func) := by
  unfold State.functionReset
  repeat' first
    | with_reducible assumption
    | with_reducible exact Keeps.refl _
    | with_reducible apply Keeps.ite
    | with_reducible apply haltQuarter_keeps
    | with_reducible apply wr_keeps
    | with_reducible apply resetFunc_keeps
    | with_reducible apply keepsParts_of
    | intro _
    | with_reducible refine Keeps.of_eq (by assumption) ?_
    | with_reducible refine Keeps.of_eq_snd (by assumption) ?_
    | simp only [keeps_mk]
    | split

theorem execFunctionLevelReset_keeps (port : ℕ) (func : ℕ) {s : State} : s.KeepsNext (execFunctionLevelReset port func s) := by
  unfold execFunctionLevelReset
  repeat' first
    | with_reducible assumption
    | with_reducible exact Keeps.refl _
    | with_reducible apply KeepsNext.next
    | with_reducible apply KeepsNext.ite
    | with_reducible apply Keeps.ite
    | with_reducible apply functionReset_keeps
    | with_reducible apply keepsParts_of
    | intro _
    | with_reducible refine Keeps.of_eq (by assumption) ?_
    | with_reducible refine Keeps.of_eq_snd (by assumption) ?_
    | simp only [keeps_mk]
    | split

theorem execIdeIntegrityFail_keeps (port : ℕ) (stream : ℕ) {s : State} : s.KeepsNext (execIdeIntegrityFail port stream s) := by
  unfold execIdeIntegrityFail
  repeat' first
    | with_reducible assumption
    | with_reducible exact Keeps.refl _
    | with_reducible apply KeepsNext.next
    | with_reducible apply KeepsNext.ite
    | with_reducible apply Keeps.ite
    | with_reducible apply raisePf_keeps
    | with_reducible apply mark_keeps
    | with_reducible apply setH_keeps
    | with_reducible apply keepsParts_of
    | intro _
    | with_reducible refine Keeps.of_eq (by assumption) ?_
    | with_reducible refine Keeps.of_eq_snd (by assumption) ?_
    | simp only [keeps_mk]
    | split

theorem execPortAdaptationRefresh_keeps (port : ℕ) {s : State} : s.KeepsNext (execPortAdaptationRefresh port s) := by
  unfold execPortAdaptationRefresh
  repeat' first
    | with_reducible assumption
    | with_reducible exact Keeps.refl _
    | with_reducible apply KeepsNext.next
    | with_reducible apply KeepsNext.ite
    | with_reducible apply Keeps.ite
    | with_reducible apply goTo_keeps
    | with_reducible apply keepsParts_of
    | intro _
    | with_reducible refine Keeps.of_eq (by assumption) ?_
    | with_reducible refine Keeps.of_eq_snd (by assumption) ?_
    | simp only [keeps_mk]
    | split

theorem execCoreDeviceAccess_keeps (x : CoreAcc) (t : ℕ) {s : State} : s.KeepsNext (execCoreDeviceAccess x t s) := by
  unfold execCoreDeviceAccess
  repeat' first
    | with_reducible assumption
    | with_reducible exact Keeps.refl _
    | with_reducible apply KeepsNext.next
    | with_reducible apply KeepsNext.ite
    | with_reducible apply Keeps.ite
    | with_reducible apply coreAccess_keeps
    | with_reducible apply goTo_keeps
    | with_reducible apply keepsParts_of
    | intro _
    | with_reducible refine Keeps.of_eq (by assumption) ?_
    | with_reducible refine Keeps.of_eq_snd (by assumption) ?_
    | simp only [keeps_mk]
    | split

theorem execMaintenanceAction_keeps (q : ℕ) (action : ℕ) {s : State} : s.KeepsNext (execMaintenanceAction q action s) := by
  unfold execMaintenanceAction
  repeat' first
    | with_reducible assumption
    | with_reducible exact Keeps.refl _
    | with_reducible apply KeepsNext.next
    | with_reducible apply KeepsNext.ite
    | with_reducible apply Keeps.ite
    | with_reducible apply maintain_keeps
    | with_reducible apply keepsParts_of
    | intro _
    | with_reducible refine Keeps.of_eq (by assumption) ?_
    | with_reducible refine Keeps.of_eq_snd (by assumption) ?_
    | simp only [keeps_mk]
    | split

theorem execCoreRelease_keeps (a : Agent) (q : ℕ) (c : ℕ) {s : State} : s.KeepsNext (execCoreRelease a q c s) := by
  unfold execCoreRelease
  repeat' first
    | with_reducible assumption
    | with_reducible exact Keeps.refl _
    | with_reducible apply KeepsNext.next
    | with_reducible apply KeepsNext.ite
    | with_reducible apply Keeps.ite
    | with_reducible apply busWrite_keeps
    | with_reducible apply keepsParts_of
    | intro _
    | with_reducible refine Keeps.of_eq (by assumption) ?_
    | with_reducible refine Keeps.of_eq_snd (by assumption) ?_
    | simp only [keeps_mk]
    | split

theorem execCoreHold_keeps (a : Agent) (q : ℕ) (c : ℕ) {s : State} : s.KeepsNext (execCoreHold a q c s) := by
  unfold execCoreHold
  repeat' first
    | with_reducible assumption
    | with_reducible exact Keeps.refl _
    | with_reducible apply KeepsNext.next
    | with_reducible apply KeepsNext.ite
    | with_reducible apply Keeps.ite
    | with_reducible apply busWrite_keeps
    | with_reducible apply keepsParts_of
    | intro _
    | with_reducible refine Keeps.of_eq (by assumption) ?_
    | with_reducible refine Keeps.of_eq_snd (by assumption) ?_
    | simp only [keeps_mk]
    | split

theorem execTimerCompare_keeps (q : ℕ) (c : ℕ) {s : State} : s.KeepsNext (execTimerCompare q c s) := by
  unfold execTimerCompare
  repeat' first
    | with_reducible assumption
    | with_reducible exact Keeps.refl _
    | with_reducible apply KeepsNext.next
    | with_reducible apply KeepsNext.ite
    | with_reducible apply Keeps.ite
    | with_reducible apply goTo_keeps
    | with_reducible apply setH_keeps
    | with_reducible apply keepsParts_of
    | intro _
    | with_reducible refine Keeps.of_eq (by assumption) ?_
    | with_reducible refine Keeps.of_eq_snd (by assumption) ?_
    | simp only [keeps_mk]
    | split

theorem State.bootCfw_keeps {r s : State} (h : r.Keeps s) : r.Keeps (State.bootCfw s).1 := by
  unfold State.bootCfw
  repeat' first
    | with_reducible assumption
    | with_reducible exact Keeps.refl _
    | with_reducible apply Keeps.ite
    | with_reducible apply Keeps.ite_fst
    | with_reducible apply wr_keeps
    | with_reducible apply mark_keeps
    | with_reducible apply keepsParts_of
    | intro _
    | with_reducible refine Keeps.of_eq (by assumption) ?_
    | with_reducible refine Keeps.of_eq_snd (by assumption) ?_
    | simp only [keeps_mk]
    | split

theorem State.useObject_keeps {r s : State} (h : r.Keeps s) (use : ℕ) (src : ℕ) (ty : ℕ) : r.Keeps (State.useObject s use src ty) := by
  unfold State.useObject
  repeat' first
    | with_reducible assumption
    | with_reducible exact Keeps.refl _
    | with_reducible apply Keeps.ite
    | with_reducible apply setObj_keeps
    | with_reducible apply keepsParts_of
    | intro _
    | with_reducible refine Keeps.of_eq (by assumption) ?_
    | with_reducible refine Keeps.of_eq_snd (by assumption) ?_
    | simp only [keeps_mk]
    | split

theorem State.startControl_keeps {r s : State} (h : r.Keeps s) (pair0 : Bool) (pair1 : Bool) : r.Keeps (State.startControl s pair0 pair1) := by
  unfold State.startControl
  repeat' first
    | with_reducible assumption
    | with_reducible exact Keeps.refl _
    | with_reducible apply Keeps.ite
    | with_reducible apply Keeps.ite_fst
    | with_reducible apply bootCfw_keeps
    | with_reducible apply useObject_keeps
    | with_reducible apply wr_keeps
    | with_reducible apply setH_keeps
    | with_reducible apply newMeasurement_keeps
    | with_reducible apply keepsParts_of
    | intro _
    | with_reducible refine Keeps.of_eq (by assumption) ?_
    | with_reducible refine Keeps.of_eq_snd (by assumption) ?_
    | simp only [keeps_mk]
    | split

theorem State.abandonStores_keeps {r s : State} (h : r.Keeps s) : r.Keeps (State.abandonStores s) := by
  unfold State.abandonStores
  repeat' first
    | with_reducible assumption
    | with_reducible exact Keeps.refl _
    | with_reducible apply Keeps.ite
    | with_reducible apply Keeps.ite_fst
    | with_reducible apply fresh_keeps
    | with_reducible apply setBytes_keeps
    | with_reducible apply bump_keeps
    | with_reducible refine Keeps.foldl ?_ (fun u x => ?_)
    | with_reducible refine Keeps.foldl_fst ?_ (fun u x => ?_)
    | with_reducible apply keepsParts_of
    | intro _
    | with_reducible refine Keeps.of_eq (by assumption) ?_
    | with_reducible refine Keeps.of_eq_snd (by assumption) ?_
    | simp only [keeps_mk]
    | split

theorem State.serveHeld_keeps {r s : State} (h : r.Keeps s) : r.Keeps (State.serveHeld s) := by
  unfold State.serveHeld
  repeat' first
    | with_reducible assumption
    | with_reducible exact Keeps.refl _
    | with_reducible apply Keeps.ite
    | with_reducible apply serveInbound_keeps
    | with_reducible apply setH_keeps
    | with_reducible apply coreAccess_keeps
    | with_reducible refine Keeps.foldl ?_ (fun u x => ?_)
    | with_reducible refine Keeps.foldl_fst ?_ (fun u x => ?_)
    | with_reducible apply keepsParts_of
    | intro _
    | with_reducible refine Keeps.of_eq (by assumption) ?_
    | with_reducible refine Keeps.of_eq_snd (by assumption) ?_
    | simp only [keeps_mk]
    | split

theorem State.discardOps_keeps {r s : State} (h : r.Keeps s) : r.Keeps (State.discardOps s) := by
  unfold State.discardOps
  repeat' first
    | with_reducible assumption
    | with_reducible exact Keeps.refl _
    | with_reducible apply Keeps.ite
    | with_reducible apply clearRecord_keeps
    | with_reducible apply wr_keeps
    | with_reducible apply syncBlanks_keeps
    | with_reducible apply syncOut_keeps
    | with_reducible refine Keeps.foldl ?_ (fun u x => ?_)
    | with_reducible refine Keeps.foldl_fst ?_ (fun u x => ?_)
    | with_reducible apply keepsParts_of
    | intro _
    | with_reducible refine Keeps.of_eq (by assumption) ?_
    | with_reducible refine Keeps.of_eq_snd (by assumption) ?_
    | simp only [keeps_mk]
    | split

theorem State.dropBanks_keeps {r s : State} (h : r.Keeps s) : r.Keeps (State.dropBanks s) := by
  unfold State.dropBanks
  repeat' first
    | with_reducible assumption
    | with_reducible exact Keeps.refl _
    | with_reducible apply Keeps.ite
    | with_reducible apply syncBusy_keeps
    | with_reducible apply dropCmds_keeps
    | with_reducible apply setEngine_keeps
    | with_reducible refine Keeps.foldl ?_ (fun u x => ?_)
    | with_reducible refine Keeps.foldl_fst ?_ (fun u x => ?_)
    | with_reducible apply keepsParts_of
    | intro _
    | with_reducible refine Keeps.of_eq (by assumption) ?_
    | with_reducible refine Keeps.of_eq_snd (by assumption) ?_
    | simp only [keeps_mk]
    | split

theorem State.dropFabric_keeps {r s : State} (h : r.Keeps s) : r.Keeps (State.dropFabric s) := by
  unfold State.dropFabric
  repeat' first
    | with_reducible assumption
    | with_reducible exact Keeps.refl _
    | with_reducible apply Keeps.ite
    | with_reducible apply freeRecords_keeps
    | with_reducible apply wr_keeps
    | with_reducible refine Keeps.foldl ?_ (fun u x => ?_)
    | with_reducible refine Keeps.foldl_fst ?_ (fun u x => ?_)
    | with_reducible apply keepsParts_of
    | intro _
    | with_reducible refine Keeps.of_eq (by assumption) ?_
    | with_reducible refine Keeps.of_eq_snd (by assumption) ?_
    | simp only [keeps_mk]
    | split

theorem State.stopRings_keeps {r s : State} (h : r.Keeps s) : r.Keeps (State.stopRings s) := by
  unfold State.stopRings
  repeat' first
    | with_reducible assumption
    | with_reducible exact Keeps.refl _
    | with_reducible apply Keeps.ite
    | with_reducible apply clearHandshakes_keeps
    | with_reducible apply wr_keeps
    | with_reducible refine Keeps.foldl ?_ (fun u x => ?_)
    | with_reducible refine Keeps.foldl_fst ?_ (fun u x => ?_)
    | with_reducible apply keepsParts_of
    | intro _
    | with_reducible refine Keeps.of_eq (by assumption) ?_
    | with_reducible refine Keeps.of_eq_snd (by assumption) ?_
    | simp only [keeps_mk]
    | split

theorem State.retrainPorts_keeps {r s : State} (h : r.Keeps s) : r.Keeps (State.retrainPorts s) := by
  unfold State.retrainPorts
  repeat' first
    | with_reducible assumption
    | with_reducible exact Keeps.refl _
    | with_reducible apply Keeps.ite
    | with_reducible apply resetFunc_keeps
    | with_reducible apply linkGone_keeps
    | with_reducible refine Keeps.foldl ?_ (fun u x => ?_)
    | with_reducible refine Keeps.foldl_fst ?_ (fun u x => ?_)
    | with_reducible apply keepsParts_of
    | intro _
    | with_reducible refine Keeps.of_eq (by assumption) ?_
    | with_reducible refine Keeps.of_eq_snd (by assumption) ?_
    | simp only [keeps_mk]
    | split

theorem State.planesDown_keeps {r s : State} (h : r.Keeps s) : r.Keeps (State.planesDown s) := by
  unfold State.planesDown
  repeat' first
    | with_reducible assumption
    | with_reducible exact Keeps.refl _
    | with_reducible apply Keeps.ite
    | with_reducible apply retrainPorts_keeps
    | with_reducible apply stopRings_keeps
    | with_reducible apply dropFabric_keeps
    | with_reducible apply dropBanks_keeps
    | with_reducible apply discardOps_keeps
    | with_reducible apply holdCores_keeps
    | with_reducible apply abandonStores_keeps
    | with_reducible apply serveHeld_keeps
    | with_reducible apply setH_keeps
    | with_reducible apply wr_keeps
    | with_reducible apply keepsParts_of
    | intro _
    | with_reducible refine Keeps.of_eq (by assumption) ?_
    | with_reducible refine Keeps.of_eq_snd (by assumption) ?_
    | simp only [keeps_mk]
    | split

theorem State.planesUp_keeps {r s : State} (h : r.Keeps s) (pair0 : Bool) (pair1 : Bool) : r.Keeps (State.planesUp s pair0 pair1) := by
  unfold State.planesUp
  repeat' first
    | with_reducible assumption
    | with_reducible exact Keeps.refl _
    | with_reducible apply Keeps.ite
    | with_reducible apply startControl_keeps
    | with_reducible apply setH_keeps
    | with_reducible apply applyOuts_keeps
    | with_reducible apply refence_keeps
    | with_reducible apply syncUnit_keeps
    | with_reducible apply wr_keeps
    | with_reducible apply rebuildSlots_keeps
    | with_reducible apply beginTurn_keeps
    | with_reducible apply tapLine_keeps
    | with_reducible refine Keeps.foldl ?_ (fun u x => ?_)
    | with_reducible refine Keeps.foldl_fst ?_ (fun u x => ?_)
    | with_reducible apply keepsParts_of
    | intro _
    | with_reducible refine Keeps.of_eq (by assumption) ?_
    | with_reducible refine Keeps.of_eq_snd (by assumption) ?_
    | simp only [keeps_mk]
    | split

theorem execTurnMark_keeps (m : ℕ) (flow : ℕ) {s : State} : s.KeepsNext (execTurnMark m flow s) := by
  unfold execTurnMark
  repeat' first
    | with_reducible assumption
    | with_reducible exact Keeps.refl _
    | with_reducible apply KeepsNext.next
    | with_reducible apply KeepsNext.ite
    | with_reducible apply Keeps.ite
    | with_reducible apply wr_keeps
    | with_reducible apply dump_keeps
    | with_reducible apply goTo_keeps
    | with_reducible apply mcLog_keeps
    | with_reducible apply setH_keeps
    | with_reducible apply mark_keeps
    | with_reducible apply keepsParts_of
    | intro _
    | with_reducible refine Keeps.of_eq (by assumption) ?_
    | with_reducible refine Keeps.of_eq_snd (by assumption) ?_
    | simp only [keeps_mk]
    | split

theorem execLockstepMismatch_keeps {s : State} : s.KeepsNext (execLockstepMismatch s) := by
  unfold execLockstepMismatch
  repeat' first
    | with_reducible assumption
    | with_reducible exact Keeps.refl _
    | with_reducible apply KeepsNext.next
    | with_reducible apply KeepsNext.ite
    | with_reducible apply Keeps.ite
    | with_reducible apply mcLog_keeps
    | with_reducible apply setH_keeps
    | with_reducible apply mark_keeps
    | with_reducible apply wr_keeps
    | with_reducible apply startQuiesce_keeps
    | with_reducible apply keepsParts_of
    | intro _
    | with_reducible refine Keeps.of_eq (by assumption) ?_
    | with_reducible refine Keeps.of_eq_snd (by assumption) ?_
    | simp only [keeps_mk]
    | split

theorem execCpPairRetest_keeps (pass : Bool) {s : State} : s.KeepsNext (execCpPairRetest pass s) := by
  unfold execCpPairRetest
  repeat' first
    | with_reducible assumption
    | with_reducible exact Keeps.refl _
    | with_reducible apply KeepsNext.next
    | with_reducible apply KeepsNext.ite
    | with_reducible apply Keeps.ite
    | with_reducible apply setH_keeps
    | with_reducible apply wr_keeps
    | with_reducible apply keepsParts_of
    | intro _
    | with_reducible refine Keeps.of_eq (by assumption) ?_
    | with_reducible refine Keeps.of_eq_snd (by assumption) ?_
    | simp only [keeps_mk]
    | split

theorem execMcWatchdog_keeps {s : State} : s.KeepsNext (execMcWatchdog s) := by
  unfold execMcWatchdog
  repeat' first
    | with_reducible assumption
    | with_reducible exact Keeps.refl _
    | with_reducible apply KeepsNext.next
    | with_reducible apply KeepsNext.ite
    | with_reducible apply Keeps.ite
    | with_reducible apply newMeasurement_keeps
    | with_reducible apply mcLog_keeps
    | with_reducible apply keepsParts_of
    | intro _
    | with_reducible refine Keeps.of_eq (by assumption) ?_
    | with_reducible refine Keeps.of_eq_snd (by assumption) ?_
    | simp only [keeps_mk]
    | split

theorem execUnitSelfTest_keeps (failing : List (ℕ × ℕ × ℕ)) {s : State} : s.KeepsNext (execUnitSelfTest failing s) := by
  unfold execUnitSelfTest
  repeat' first
    | with_reducible assumption
    | with_reducible exact Keeps.refl _
    | with_reducible apply KeepsNext.next
    | with_reducible apply KeepsNext.ite
    | with_reducible apply Keeps.ite
    | with_reducible apply goTo_keeps
    | with_reducible apply setH_keeps
    | with_reducible refine Keeps.foldl ?_ (fun u x => ?_)
    | with_reducible refine Keeps.foldl_fst ?_ (fun u x => ?_)
    | with_reducible apply keepsParts_of
    | intro _
    | with_reducible refine Keeps.of_eq (by assumption) ?_
    | with_reducible refine Keeps.of_eq_snd (by assumption) ?_
    | simp only [keeps_mk]
    | split

theorem execReceiverAdaptationRefresh_keeps (failing : List (ℕ × ℕ × ℕ)) {s : State} : s.KeepsNext (execReceiverAdaptationRefresh failing s) := by
  unfold execReceiverAdaptationRefresh
  repeat' first
    | with_reducible assumption
    | with_reducible exact Keeps.refl _
    | with_reducible apply KeepsNext.next
    | with_reducible apply KeepsNext.ite
    | with_reducible apply Keeps.ite
    | with_reducible apply goTo_keeps
    | with_reducible apply setH_keeps
    | with_reducible apply laneFails_keeps
    | with_reducible apply mcLog_keeps
    | with_reducible apply addH_keeps
    | with_reducible refine Keeps.foldl ?_ (fun u x => ?_)
    | with_reducible refine Keeps.foldl_fst ?_ (fun u x => ?_)
    | with_reducible apply keepsParts_of
    | intro _
    | with_reducible refine Keeps.of_eq (by assumption) ?_
    | with_reducible refine Keeps.of_eq_snd (by assumption) ?_
    | simp only [keeps_mk]
    | split

theorem execModRstN_keeps {s : State} : s.KeepsNext (execModRstN s) := by
  unfold execModRstN
  repeat' first
    | with_reducible assumption
    | with_reducible exact Keeps.refl _
    | with_reducible apply KeepsNext.next
    | with_reducible apply KeepsNext.ite
    | with_reducible apply Keeps.ite
    | with_reducible apply startQuiesce_keeps
    | with_reducible apply setH_keeps
    | with_reducible apply keepsParts_of
    | intro _
    | with_reducible refine Keeps.of_eq (by assumption) ?_
    | with_reducible refine Keeps.of_eq_snd (by assumption) ?_
    | simp only [keeps_mk]
    | split

theorem execQuiesceEnd_keeps (pair0 : Bool) (pair1 : Bool) {s : State} : s.KeepsNext (execQuiesceEnd pair0 pair1 s) := by
  unfold execQuiesceEnd
  repeat' first
    | with_reducible assumption
    | with_reducible exact Keeps.refl _
    | with_reducible apply KeepsNext.next
    | with_reducible apply KeepsNext.ite
    | with_reducible apply Keeps.ite
    | with_reducible apply planesDown_keeps
    | with_reducible apply setH_keeps
    | with_reducible apply planesUp_keeps
    | with_reducible apply keepsParts_of
    | intro _
    | with_reducible refine Keeps.of_eq (by assumption) ?_
    | with_reducible refine Keeps.of_eq_snd (by assumption) ?_
    | simp only [keeps_mk]
    | split

theorem execModRstNRelease_keeps {s : State} : s.KeepsNext (execModRstNRelease s) := by
  unfold execModRstNRelease
  repeat' first
    | with_reducible assumption
    | with_reducible exact Keeps.refl _
    | with_reducible apply KeepsNext.next
    | with_reducible apply KeepsNext.ite
    | with_reducible apply Keeps.ite
    | with_reducible apply setH_keeps
    | with_reducible apply planesUp_keeps
    | with_reducible apply keepsParts_of
    | intro _
    | with_reducible refine Keeps.of_eq (by assumption) ?_
    | with_reducible refine Keeps.of_eq_snd (by assumption) ?_
    | simp only [keeps_mk]
    | split

theorem State.identity_keeps {r s : State} (h : r.Keeps s) (kind : ℕ) (n : ℕ) : r.Keeps (State.identity s kind n).1 := by
  unfold State.identity
  repeat' first
    | with_reducible assumption
    | with_reducible exact Keeps.refl _
    | with_reducible apply Keeps.ite
    | with_reducible apply Keeps.ite_fst
    | with_reducible apply fresh_keeps
    | with_reducible apply keepsParts_of
    | intro _
    | with_reducible refine Keeps.of_eq (by assumption) ?_
    | with_reducible refine Keeps.of_eq_snd (by assumption) ?_
    | simp only [keeps_mk]
    | split

theorem State.spdmError_keeps {r s : State} (h : r.Keeps s) (status : ℕ) (code : ℕ) : r.Keeps (State.spdmError s status code) := by
  unfold State.spdmError
  repeat' first
    | with_reducible assumption
    | with_reducible exact Keeps.refl _
    | with_reducible apply Keeps.ite
    | with_reducible apply answer_keeps
    | with_reducible apply keepsParts_of
    | intro _
    | with_reducible refine Keeps.of_eq (by assumption) ?_
    | with_reducible refine Keeps.of_eq_snd (by assumption) ?_
    | simp only [keeps_mk]
    | split

theorem State.spdmMeasurements_keeps {r s : State} (h : r.Keeps s) (i : ℕ) : r.Keeps (State.spdmMeasurements s i) := by
  unfold State.spdmMeasurements
  repeat' first
    | with_reducible assumption
    | with_reducible exact Keeps.refl _
    | with_reducible apply Keeps.ite
    | with_reducible apply Keeps.ite_fst
    | with_reducible apply identity_keeps
    | with_reducible apply answer_keeps
    | with_reducible apply keepsParts_of
    | intro _
    | with_reducible refine Keeps.of_eq (by assumption) ?_
    | with_reducible refine Keeps.of_eq_snd (by assumption) ?_
    | simp only [keeps_mk]
    | split

theorem State.spdm_keeps {r s : State} (h : r.Keeps s) (t : ℕ) (k : SpdmKind) : r.Keeps (State.spdm s t k) := by
  unfold State.spdm
  repeat' first
    | with_reducible assumption
    | with_reducible exact Keeps.refl _
    | with_reducible apply Keeps.ite
    | with_reducible apply Keeps.ite_fst
    | with_reducible apply answer_keeps
    | with_reducible apply identity_keeps
    | with_reducible apply spdmMeasurements_keeps
    | with_reducible apply spdmError_keeps
    | with_reducible apply addH_keeps
    | with_reducible apply setH_keeps
    | with_reducible apply keepsParts_of
    | intro _
    | with_reducible refine Keeps.of_eq (by assumption) ?_
    | with_reducible refine Keeps.of_eq_snd (by assumption) ?_
    | simp only [keeps_mk]
    | split

theorem State.tap_keeps {r s : State} (h : r.Keeps s) (opcode : ℕ) (cond : Bool) (run : State → State × List Byte) (hrun : ∀ (u : State), u.Keeps (run
    u).1) : r.Keeps (State.tap s opcode cond run) := by
  unfold State.tap
  repeat' first
    | with_reducible assumption
    | with_reducible exact Keeps.refl _
    | with_reducible apply Keeps.ite
    | with_reducible refine Keeps.trans ?_ (hrun _)
    | with_reducible apply setH_keeps
    | with_reducible apply answer_keeps
    | with_reducible apply keepsParts_of
    | intro _
    | with_reducible refine Keeps.of_eq (by assumption) ?_
    | with_reducible refine Keeps.of_eq_snd (by assumption) ?_
    | simp only [keeps_mk]
    | split

theorem State.tapShow_keeps {r s : State} (h : r.Keeps s) (opcode : ℕ) (cond : Bool) (d : List Byte) : r.Keeps (State.tapShow s opcode cond d) := by
  unfold State.tapShow
  repeat' first
    | with_reducible assumption
    | with_reducible exact Keeps.refl _
    | with_reducible apply Keeps.ite
    | with_reducible apply tap_keeps
    | with_reducible apply keepsParts_of
    | intro _
    | with_reducible refine Keeps.of_eq (by assumption) ?_
    | with_reducible refine Keeps.of_eq_snd (by assumption) ?_
    | simp only [keeps_mk]
    | split

theorem State.openDebug_keeps {r s : State} (h : r.Keeps s) : r.Keeps (State.openDebug s) := by
  unfold State.openDebug
  repeat' first
    | with_reducible assumption
    | with_reducible exact Keeps.refl _
    | with_reducible apply Keeps.ite
    | with_reducible apply complete_keeps
    | with_reducible apply wr_keeps
    | with_reducible apply setH_keeps
    | with_reducible apply mcLog_keeps
    | with_reducible apply mark_keeps
    | with_reducible apply newMeasurement_keeps
    | with_reducible refine Keeps.foldl ?_ (fun u x => ?_)
    | with_reducible refine Keeps.foldl_fst ?_ (fun u x => ?_)
    | with_reducible apply keepsParts_of
    | intro _
    | with_reducible refine Keeps.of_eq (by assumption) ?_
    | with_reducible refine Keeps.of_eq_snd (by assumption) ?_
    | simp only [keeps_mk]
    | split

theorem execSpdmRequest_keeps (transport : ℕ) (k : SpdmKind) {s : State} : s.KeepsNext (execSpdmRequest transport k s) := by
  unfold execSpdmRequest
  repeat' first
    | with_reducible assumption
    | with_reducible exact Keeps.refl _
    | with_reducible apply KeepsNext.next
    | with_reducible apply KeepsNext.ite
    | with_reducible apply Keeps.ite
    | with_reducible apply spdm_keeps
    | with_reducible apply keepsParts_of
    | intro _
    | with_reducible refine Keeps.of_eq (by assumption) ?_
    | with_reducible refine Keeps.of_eq_snd (by assumption) ?_
    | simp only [keeps_mk]
    | split

theorem execExtest_keeps {s : State} : s.KeepsNext (execExtest s) := by
  unfold execExtest
  repeat' first
    | with_reducible assumption
    | with_reducible exact Keeps.refl _
    | with_reducible apply KeepsNext.next
    | with_reducible apply KeepsNext.ite
    | with_reducible apply Keeps.ite
    | with_reducible apply tapShow_keeps
    | with_reducible apply keepsParts_of
    | intro _
    | with_reducible refine Keeps.of_eq (by assumption) ?_
    | with_reducible refine Keeps.of_eq_snd (by assumption) ?_
    | simp only [keeps_mk]
    | split

theorem execSamplePreload_keeps {s : State} : s.KeepsNext (execSamplePreload s) := by
  unfold execSamplePreload
  repeat' first
    | with_reducible assumption
    | with_reducible exact Keeps.refl _
    | with_reducible apply KeepsNext.next
    | with_reducible apply KeepsNext.ite
    | with_reducible apply Keeps.ite
    | with_reducible apply tapShow_keeps
    | with_reducible apply keepsParts_of
    | intro _
    | with_reducible refine Keeps.of_eq (by assumption) ?_
    | with_reducible refine Keeps.of_eq_snd (by assumption) ?_
    | simp only [keeps_mk]
    | split

theorem execIdcode_keeps {s : State} : s.KeepsNext (execIdcode s) := by
  unfold execIdcode
  repeat' first
    | with_reducible assumption
    | with_reducible exact Keeps.refl _
    | with_reducible apply KeepsNext.next
    | with_reducible apply KeepsNext.ite
    | with_reducible apply Keeps.ite
    | with_reducible apply tapShow_keeps
    | with_reducible apply keepsParts_of
    | intro _
    | with_reducible refine Keeps.of_eq (by assumption) ?_
    | with_reducible refine Keeps.of_eq_snd (by assumption) ?_
    | simp only [keeps_mk]
    | split

theorem execClamp_keeps {s : State} : s.KeepsNext (execClamp s) := by
  unfold execClamp
  repeat' first
    | with_reducible assumption
    | with_reducible exact Keeps.refl _
    | with_reducible apply KeepsNext.next
    | with_reducible apply KeepsNext.ite
    | with_reducible apply Keeps.ite
    | with_reducible apply tapShow_keeps
    | with_reducible apply keepsParts_of
    | intro _
    | with_reducible refine Keeps.of_eq (by assumption) ?_
    | with_reducible refine Keeps.of_eq_snd (by assumption) ?_
    | simp only [keeps_mk]
    | split

theorem execHighz_keeps {s : State} : s.KeepsNext (execHighz s) := by
  unfold execHighz
  repeat' first
    | with_reducible assumption
    | with_reducible exact Keeps.refl _
    | with_reducible apply KeepsNext.next
    | with_reducible apply KeepsNext.ite
    | with_reducible apply Keeps.ite
    | with_reducible apply tapShow_keeps
    | with_reducible apply keepsParts_of
    | intro _
    | with_reducible refine Keeps.of_eq (by assumption) ?_
    | with_reducible refine Keeps.of_eq_snd (by assumption) ?_
    | simp only [keeps_mk]
    | split

theorem execDbgState_keeps {s : State} : s.KeepsNext (execDbgState s) := by
  unfold execDbgState
  repeat' first
    | with_reducible assumption
    | with_reducible exact Keeps.refl _
    | with_reducible apply KeepsNext.next
    | with_reducible apply KeepsNext.ite
    | with_reducible apply Keeps.ite
    | with_reducible apply tapShow_keeps
    | with_reducible apply keepsParts_of
    | intro _
    | with_reducible refine Keeps.of_eq (by assumption) ?_
    | with_reducible refine Keeps.of_eq_snd (by assumption) ?_
    | simp only [keeps_mk]
    | split

theorem execUnlockNonce_keeps {s : State} : s.KeepsNext (execUnlockNonce s) := by
  unfold execUnlockNonce
  repeat' first
    | with_reducible assumption
    | with_reducible exact Keeps.refl _
    | with_reducible apply KeepsNext.next
    | with_reducible apply KeepsNext.ite
    | with_reducible apply Keeps.ite
    | with_reducible apply tapShow_keeps
    | with_reducible apply keepsParts_of
    | intro _
    | with_reducible refine Keeps.of_eq (by assumption) ?_
    | with_reducible refine Keeps.of_eq_snd (by assumption) ?_
    | simp only [keeps_mk]
    | split

theorem execUnlockLoad_keeps (obj : SignedObj) {s : State} : s.KeepsNext (execUnlockLoad obj s) := by
  unfold execUnlockLoad
  repeat' first
    | with_reducible assumption
    | with_reducible exact Keeps.refl _
    | with_reducible apply KeepsNext.next
    | with_reducible apply KeepsNext.ite
    | with_reducible apply Keeps.ite
    | with_reducible apply Keeps.ite_fst
    | with_reducible apply tap_keeps
    | with_reducible apply tryUnlock_keeps
    | with_reducible apply keepsParts_of
    | intro _
    | with_reducible refine Keeps.of_eq (by assumption) ?_
    | with_reducible refine Keeps.of_eq_snd (by assumption) ?_
    | simp only [keeps_mk]
    | split

theorem execDebugErasure_keeps {s : State} : s.KeepsNext (execDebugErasure s) := by
  unfold execDebugErasure
  repeat' first
    | with_reducible assumption
    | with_reducible exact Keeps.refl _
    | with_reducible apply KeepsNext.next
    | with_reducible apply KeepsNext.ite
    | with_reducible apply Keeps.ite
    | with_reducible apply goTo_keeps
    | with_reducible apply openDebug_keeps
    | with_reducible apply keepsParts_of
    | intro _
    | with_reducible refine Keeps.of_eq (by assumption) ?_
    | with_reducible refine Keeps.of_eq_snd (by assumption) ?_
    | simp only [keeps_mk]
    | split

theorem execRegAccess_keeps (dr : BitVec 96) {s : State} : s.KeepsNext (execRegAccess dr s) := by
  unfold execRegAccess
  repeat' first
    | with_reducible assumption
    | with_reducible exact Keeps.refl _
    | with_reducible apply KeepsNext.next
    | with_reducible apply KeepsNext.ite
    | with_reducible apply Keeps.ite
    | with_reducible apply tap_keeps
    | with_reducible apply agentWrite_keeps
    | with_reducible apply agentRead_keeps
    | with_reducible apply keepsParts_of
    | intro _
    | with_reducible refine Keeps.of_eq (by assumption) ?_
    | with_reducible refine Keeps.of_eq_snd (by assumption) ?_
    | simp only [keeps_mk]
    | split

theorem execMemAccess_keeps (dr : BitVec 576) {s : State} : s.KeepsNext (execMemAccess dr s) := by
  unfold execMemAccess
  repeat' first
    | with_reducible assumption
    | with_reducible exact Keeps.refl _
    | with_reducible apply KeepsNext.next
    | with_reducible apply KeepsNext.ite
    | with_reducible apply Keeps.ite
    | with_reducible apply setH_keeps
    | with_reducible apply tapLine_keeps
    | with_reducible apply tapShow_keeps
    | with_reducible apply keepsParts_of
    | intro _
    | with_reducible refine Keeps.of_eq (by assumption) ?_
    | with_reducible refine Keeps.of_eq_snd (by assumption) ?_
    | simp only [keeps_mk]
    | split

theorem execMcDebug_keeps {s : State} : s.KeepsNext (execMcDebug s) := by
  unfold execMcDebug
  repeat' first
    | with_reducible assumption
    | with_reducible exact Keeps.refl _
    | with_reducible apply KeepsNext.next
    | with_reducible apply KeepsNext.ite
    | with_reducible apply Keeps.ite
    | with_reducible apply tapShow_keeps
    | with_reducible apply keepsParts_of
    | intro _
    | with_reducible refine Keeps.of_eq (by assumption) ?_
    | with_reducible refine Keeps.of_eq_snd (by assumption) ?_
    | simp only [keeps_mk]
    | split

theorem execCpDebug_keeps {s : State} : s.KeepsNext (execCpDebug s) := by
  unfold execCpDebug
  repeat' first
    | with_reducible assumption
    | with_reducible exact Keeps.refl _
    | with_reducible apply KeepsNext.next
    | with_reducible apply KeepsNext.ite
    | with_reducible apply Keeps.ite
    | with_reducible apply tapShow_keeps
    | with_reducible apply keepsParts_of
    | intro _
    | with_reducible refine Keeps.of_eq (by assumption) ?_
    | with_reducible refine Keeps.of_eq_snd (by assumption) ?_
    | simp only [keeps_mk]
    | split

theorem execBypass_keeps {s : State} : s.KeepsNext (execBypass s) := by
  unfold execBypass
  repeat' first
    | with_reducible assumption
    | with_reducible exact Keeps.refl _
    | with_reducible apply KeepsNext.next
    | with_reducible apply KeepsNext.ite
    | with_reducible apply Keeps.ite
    | with_reducible apply tapShow_keeps
    | with_reducible apply keepsParts_of
    | intro _
    | with_reducible refine Keeps.of_eq (by assumption) ?_
    | with_reducible refine Keeps.of_eq_snd (by assumption) ?_
    | simp only [keeps_mk]
    | split

theorem State.doeRespond_keeps {r s : State} (h : r.Keeps s) (f : ℕ) (head : ℕ) (payload : List Byte) : r.Keeps (State.doeRespond s f head payload) :=
    by
  unfold State.doeRespond
  repeat' first
    | with_reducible assumption
    | with_reducible exact Keeps.refl _
    | with_reducible apply Keeps.ite
    | with_reducible apply setH_keeps
    | with_reducible refine Keeps.foldl ?_ (fun u x => ?_)
    | with_reducible refine Keeps.foldl_fst ?_ (fun u x => ?_)
    | with_reducible apply keepsParts_of
    | intro _
    | with_reducible refine Keeps.of_eq (by assumption) ?_
    | with_reducible refine Keeps.of_eq_snd (by assumption) ?_
    | simp only [keeps_mk]
    | split

theorem State.doeGo_keeps {r s : State} (h : r.Keeps s) (port : ℕ) (func : ℕ) : r.Keeps (State.doeGo s port func) := by
  unfold State.doeGo
  repeat' first
    | with_reducible assumption
    | with_reducible exact Keeps.refl _
    | with_reducible apply Keeps.ite
    | with_reducible apply setH_keeps
    | with_reducible apply doeRespond_keeps
    | with_reducible apply spdm_keeps
    | with_reducible apply keepsParts_of
    | intro _
    | with_reducible refine Keeps.of_eq (by assumption) ?_
    | with_reducible refine Keeps.of_eq_snd (by assumption) ?_
    | simp only [keeps_mk]
    | split

theorem State.doeWrite_keeps {r s : State} (h : r.Keeps s) (port : ℕ) (func : ℕ) (off : ℕ) (val : ℕ) : r.Keeps (State.doeWrite s port func off val) :=
    by
  unfold State.doeWrite
  repeat' first
    | with_reducible assumption
    | with_reducible exact Keeps.refl _
    | with_reducible apply Keeps.ite
    | with_reducible apply setH_keeps
    | with_reducible apply doeGo_keeps
    | with_reducible apply addH_keeps
    | with_reducible apply keepsParts_of
    | intro _
    | with_reducible refine Keeps.of_eq (by assumption) ?_
    | with_reducible refine Keeps.of_eq_snd (by assumption) ?_
    | simp only [keeps_mk]
    | split

theorem State.cfgHold_keeps {r s : State} (h : r.Keeps s) (f : ℕ) (vf : Bool) (off : ℕ) (val : ℕ) : r.Keeps (State.cfgHold s f vf off val) := by
  unfold State.cfgHold
  repeat' first
    | with_reducible assumption
    | with_reducible exact Keeps.refl _
    | with_reducible apply Keeps.ite
    | with_reducible apply setH_keeps
    | with_reducible apply keepsParts_of
    | intro _
    | with_reducible refine Keeps.of_eq (by assumption) ?_
    | with_reducible refine Keeps.of_eq_snd (by assumption) ?_
    | simp only [keeps_mk]
    | split

theorem State.cfgWrite_keeps {r s : State} (h : r.Keeps s) (port : ℕ) (func : ℕ) (off : ℕ) (val : ℕ) : r.Keeps (State.cfgWrite s port func off val) :=
    by
  unfold State.cfgWrite
  repeat' first
    | with_reducible assumption
    | with_reducible exact Keeps.refl _
    | with_reducible apply Keeps.ite
    | with_reducible apply cfgHold_keeps
    | with_reducible apply setH_keeps
    | with_reducible apply sendMsix_keeps
    | with_reducible apply functionReset_keeps
    | with_reducible apply doeWrite_keeps
    | with_reducible refine Keeps.foldl ?_ (fun u x => ?_)
    | with_reducible refine Keeps.foldl_fst ?_ (fun u x => ?_)
    | with_reducible apply keepsParts_of
    | intro _
    | with_reducible refine Keeps.of_eq (by assumption) ?_
    | with_reducible refine Keeps.of_eq_snd (by assumption) ?_
    | simp only [keeps_mk]
    | split

theorem State.configAccess_keeps {r s : State} (h : r.Keeps s) (port : ℕ) (func : ℕ) (off : ℕ) (write : Bool) (val : ℕ) : r.Keeps (State.configAccess
    s port func off write val) := by
  unfold State.configAccess
  repeat' first
    | with_reducible assumption
    | with_reducible exact Keeps.refl _
    | with_reducible apply Keeps.ite
    | with_reducible apply answer_keeps
    | with_reducible apply cfgWrite_keeps
    | with_reducible apply keepsParts_of
    | intro _
    | with_reducible refine Keeps.of_eq (by assumption) ?_
    | with_reducible refine Keeps.of_eq_snd (by assumption) ?_
    | simp only [keeps_mk]
    | split

theorem execConfigRequest_keeps (port : ℕ) (func : ℕ) (off : ℕ) (write : Bool) (val : ℕ) {s : State} : s.KeepsNext (execConfigRequest port func off
    write val s) := by
  unfold execConfigRequest
  repeat' first
    | with_reducible assumption
    | with_reducible exact Keeps.refl _
    | with_reducible apply KeepsNext.next
    | with_reducible apply KeepsNext.ite
    | with_reducible apply Keeps.ite
    | with_reducible apply answer_keeps
    | with_reducible apply configAccess_keeps
    | with_reducible apply keepsParts_of
    | intro _
    | with_reducible refine Keeps.of_eq (by assumption) ?_
    | with_reducible refine Keeps.of_eq_snd (by assumption) ?_
    | simp only [keeps_mk]
    | split

theorem State.resetKeeping_keeps {r s : State} (h : r.Keeps s) (flds : List ℕ) (hids : List Hid) : r.Keeps (State.resetKeeping s flds hids) := by
  unfold State.resetKeeping
  apply addH_keeps
  refine h.trans ⟨rfl, rfl, fun hi => ⟨fun f i => ?_, rfl, hi.host⟩⟩
  simp only [rd, Tab.get_keep]
  split
  · exact hi.fits f i
  · exact Fld.resetVal_lt _ _

theorem State.powerReset_keeps {r s : State} (h : r.Keeps s) : r.Keeps (State.powerReset s) := by
  unfold State.powerReset
  repeat' first
    | with_reducible assumption
    | with_reducible exact Keeps.refl _
    | with_reducible apply Keeps.ite
    | with_reducible apply resetKeeping_keeps
    | with_reducible apply setH_keeps
    | with_reducible apply wr_keeps
    | with_reducible apply keepsParts_of
    | intro _
    | with_reducible refine Keeps.of_eq (by assumption) ?_
    | with_reducible refine Keeps.of_eq_snd (by assumption) ?_
    | simp only [keeps_mk]
    | split

theorem State.bootMfw_keeps {r s : State} (h : r.Keeps s) : r.Keeps (State.bootMfw s) := by
  unfold State.bootMfw
  repeat' first
    | with_reducible assumption
    | with_reducible exact Keeps.refl _
    | with_reducible apply Keeps.ite
    | with_reducible apply setH_keeps
    | with_reducible apply wr_keeps
    | with_reducible apply mark_keeps
    | with_reducible apply keepsParts_of
    | intro _
    | with_reducible refine Keeps.of_eq (by assumption) ?_
    | with_reducible refine Keeps.of_eq_snd (by assumption) ?_
    | simp only [keeps_mk]
    | split

theorem State.startBay_keeps {r s : State} (h : r.Keeps s) (d : ℕ) : r.Keeps (State.startBay s d) := by
  unfold State.startBay
  repeat' first
    | with_reducible assumption
    | with_reducible exact Keeps.refl _
    | with_reducible apply Keeps.ite
    | with_reducible apply askService_keeps
    | with_reducible apply wr_keeps
    | with_reducible apply keepsParts_of
    | intro _
    | with_reducible refine Keeps.of_eq (by assumption) ?_
    | with_reducible refine Keeps.of_eq_snd (by assumption) ?_
    | simp only [keeps_mk]
    | split

theorem State.startPlanes_keeps {r s : State} (h : r.Keeps s) (pair0 : Bool) (pair1 : Bool) : r.Keeps (State.startPlanes s pair0 pair1) := by
  unfold State.startPlanes
  repeat' first
    | with_reducible assumption
    | with_reducible exact Keeps.refl _
    | with_reducible apply Keeps.ite
    | with_reducible apply startControl_keeps
    | with_reducible apply setH_keeps
    | with_reducible apply wr_keeps
    | with_reducible apply applyOuts_keeps
    | with_reducible apply refence_keeps
    | with_reducible apply startBay_keeps
    | with_reducible refine Keeps.foldl ?_ (fun u x => ?_)
    | with_reducible refine Keeps.foldl_fst ?_ (fun u x => ?_)
    | with_reducible apply keepsParts_of
    | intro _
    | with_reducible refine Keeps.of_eq (by assumption) ?_
    | with_reducible refine Keeps.of_eq_snd (by assumption) ?_
    | simp only [keeps_mk]
    | split

theorem State.startSweep_keeps {r s : State} (h : r.Keeps s) (cause : ℕ) : r.Keeps (State.startSweep s cause) := by
  unfold State.startSweep
  repeat' first
    | with_reducible assumption
    | with_reducible exact Keeps.refl _
    | with_reducible apply Keeps.ite
    | with_reducible apply setH_keeps
    | with_reducible apply wr_keeps
    | with_reducible apply stopAll_keeps
    | with_reducible apply mark_keeps
    | with_reducible apply keepsParts_of
    | intro _
    | with_reducible refine Keeps.of_eq (by assumption) ?_
    | with_reducible refine Keeps.of_eq_snd (by assumption) ?_
    | simp only [keeps_mk]
    | split

theorem State.portsIdle_keeps {r s : State} (h : r.Keeps s) : r.Keeps (State.portsIdle s) := by
  unfold State.portsIdle
  repeat' first
    | with_reducible assumption
    | with_reducible exact Keeps.refl _
    | with_reducible apply Keeps.ite
    | with_reducible apply setH_keeps
    | with_reducible apply linkGone_keeps
    | with_reducible apply abandonStores_keeps
    | with_reducible apply mcLog_keeps
    | with_reducible apply keepsParts_of
    | intro _
    | with_reducible refine Keeps.of_eq (by assumption) ?_
    | with_reducible refine Keeps.of_eq_snd (by assumption) ?_
    | simp only [keeps_mk]
    | split

theorem execPowerOnReset_keeps {s : State} : s.KeepsNext (execPowerOnReset s) := by
  unfold execPowerOnReset
  repeat' first
    | with_reducible assumption
    | with_reducible exact Keeps.refl _
    | with_reducible apply KeepsNext.next
    | with_reducible apply KeepsNext.ite
    | with_reducible apply Keeps.ite
    | with_reducible apply bootMfw_keeps
    | with_reducible apply addH_keeps
    | with_reducible apply resetKeeping_keeps
    | with_reducible apply keepsParts_of
    | intro _
    | with_reducible refine Keeps.of_eq (by assumption) ?_
    | with_reducible refine Keeps.of_eq_snd (by assumption) ?_
    | simp only [keeps_mk]
    | split

theorem execPowerUp_keeps (pair0 : Bool) (pair1 : Bool) {s : State} : s.KeepsNext (execPowerUp pair0 pair1 s) := by
  unfold execPowerUp
  repeat' first
    | with_reducible assumption
    | with_reducible exact Keeps.refl _
    | with_reducible apply KeepsNext.next
    | with_reducible apply KeepsNext.ite
    | with_reducible apply Keeps.ite
    | with_reducible apply startPlanes_keeps
    | with_reducible apply keepsParts_of
    | intro _
    | with_reducible refine Keeps.of_eq (by assumption) ?_
    | with_reducible refine Keeps.of_eq_snd (by assumption) ?_
    | simp only [keeps_mk]
    | split

theorem execInputUndervoltage_keeps {s : State} : s.KeepsNext (execInputUndervoltage s) := by
  unfold execInputUndervoltage
  repeat' first
    | with_reducible assumption
    | with_reducible exact Keeps.refl _
    | with_reducible apply KeepsNext.next
    | with_reducible apply KeepsNext.ite
    | with_reducible apply Keeps.ite
    | with_reducible apply startSweep_keeps
    | with_reducible apply keepsParts_of
    | intro _
    | with_reducible refine Keeps.of_eq (by assumption) ?_
    | with_reducible refine Keeps.of_eq_snd (by assumption) ?_
    | simp only [keeps_mk]
    | split

theorem execPwrWarn_keeps {s : State} : s.KeepsNext (execPwrWarn s) := by
  unfold execPwrWarn
  repeat' first
    | with_reducible assumption
    | with_reducible exact Keeps.refl _
    | with_reducible apply KeepsNext.next
    | with_reducible apply KeepsNext.ite
    | with_reducible apply Keeps.ite
    | with_reducible apply startSweep_keeps
    | with_reducible apply keepsParts_of
    | intro _
    | with_reducible refine Keeps.of_eq (by assumption) ?_
    | with_reducible refine Keeps.of_eq_snd (by assumption) ?_
    | simp only [keeps_mk]
    | split

theorem execAuxSupplyLoss_keeps {s : State} : s.KeepsNext (execAuxSupplyLoss s) := by
  unfold execAuxSupplyLoss
  repeat' first
    | with_reducible assumption
    | with_reducible exact Keeps.refl _
    | with_reducible apply KeepsNext.next
    | with_reducible apply KeepsNext.ite
    | with_reducible apply Keeps.ite
    | with_reducible apply startSweep_keeps
    | with_reducible apply keepsParts_of
    | intro _
    | with_reducible refine Keeps.of_eq (by assumption) ?_
    | with_reducible refine Keeps.of_eq_snd (by assumption) ?_
    | simp only [keeps_mk]
    | split

theorem execThermalTrip_keeps (die : ℕ) (base : ℕ) {s : State} : s.KeepsNext (execThermalTrip die base s) := by
  unfold execThermalTrip
  repeat' first
    | with_reducible assumption
    | with_reducible exact Keeps.refl _
    | with_reducible apply KeepsNext.next
    | with_reducible apply KeepsNext.ite
    | with_reducible apply Keeps.ite
    | with_reducible apply startSweep_keeps
    | with_reducible apply keepsParts_of
    | intro _
    | with_reducible refine Keeps.of_eq (by assumption) ?_
    | with_reducible refine Keeps.of_eq_snd (by assumption) ?_
    | simp only [keeps_mk]
    | split

theorem execFlowTrip_keeps {s : State} : s.KeepsNext (execFlowTrip s) := by
  unfold execFlowTrip
  repeat' first
    | with_reducible assumption
    | with_reducible exact Keeps.refl _
    | with_reducible apply KeepsNext.next
    | with_reducible apply KeepsNext.ite
    | with_reducible apply Keeps.ite
    | with_reducible apply startSweep_keeps
    | with_reducible apply keepsParts_of
    | intro _
    | with_reducible refine Keeps.of_eq (by assumption) ?_
    | with_reducible refine Keeps.of_eq_snd (by assumption) ?_
    | simp only [keeps_mk]
    | split

theorem execPowerDownPortIdle_keeps {s : State} : s.KeepsNext (execPowerDownPortIdle s) := by
  unfold execPowerDownPortIdle
  repeat' first
    | with_reducible assumption
    | with_reducible exact Keeps.refl _
    | with_reducible apply KeepsNext.next
    | with_reducible apply KeepsNext.ite
    | with_reducible apply Keeps.ite
    | with_reducible apply portsIdle_keeps
    | with_reducible apply keepsParts_of
    | intro _
    | with_reducible refine Keeps.of_eq (by assumption) ?_
    | with_reducible refine Keeps.of_eq_snd (by assumption) ?_
    | simp only [keeps_mk]
    | split

theorem execPowerDownOff_keeps {s : State} : s.KeepsNext (execPowerDownOff s) := by
  unfold execPowerDownOff
  repeat' first
    | with_reducible assumption
    | with_reducible exact Keeps.refl _
    | with_reducible apply KeepsNext.next
    | with_reducible apply KeepsNext.ite
    | with_reducible apply Keeps.ite
    | with_reducible apply portsIdle_keeps
    | with_reducible apply setH_keeps
    | with_reducible apply mark_keeps
    | with_reducible apply powerReset_keeps
    | with_reducible apply keepsParts_of
    | intro _
    | with_reducible refine Keeps.of_eq (by assumption) ?_
    | with_reducible refine Keeps.of_eq_snd (by assumption) ?_
    | simp only [keeps_mk]
    | split

theorem execRepower_keeps (ms : ℕ) (vin : ℕ) {s : State} : s.KeepsNext (execRepower ms vin s) := by
  unfold execRepower
  repeat' first
    | with_reducible assumption
    | with_reducible exact Keeps.refl _
    | with_reducible apply KeepsNext.next
    | with_reducible apply KeepsNext.ite
    | with_reducible apply Keeps.ite
    | with_reducible apply setH_keeps
    | with_reducible apply keepsParts_of
    | intro _
    | with_reducible refine Keeps.of_eq (by assumption) ?_
    | with_reducible refine Keeps.of_eq_snd (by assumption) ?_
    | simp only [keeps_mk]
    | split

theorem execPldmFirmwareUpdate_keeps (slot : ℕ) (obj : SignedObj) {s : State} : s.KeepsNext (execPldmFirmwareUpdate slot obj s) := by
  unfold execPldmFirmwareUpdate
  repeat' first
    | with_reducible assumption
    | with_reducible exact Keeps.refl _
    | with_reducible apply KeepsNext.next
    | with_reducible apply KeepsNext.ite
    | with_reducible apply Keeps.ite
    | with_reducible apply answer_keeps
    | with_reducible apply setObj_keeps
    | with_reducible apply keepsParts_of
    | intro _
    | with_reducible refine Keeps.of_eq (by assumption) ?_
    | with_reducible refine Keeps.of_eq_snd (by assumption) ?_
    | simp only [keeps_mk]
    | split

theorem State.idle_keeps {r s : State} (h : r.Keeps s) : r.Keeps (State.idle s) := by
  unfold State.idle
  repeat' first
    | with_reducible assumption
    | with_reducible exact Keeps.refl _
    | with_reducible apply Keeps.ite
    | with_reducible apply goTo_keeps
    | with_reducible apply keepsParts_of
    | intro _
    | with_reducible refine Keeps.of_eq (by assumption) ?_
    | with_reducible refine Keeps.of_eq_snd (by assumption) ?_
    | simp only [keeps_mk]
    | split

end Sys2Proof.Machine

end
end

