-- ==== Sys2Proof/Laws/PostsBase.lean ====
section
/-! SUPPORT. The relation `State.Posts` (no time passes, and only what a completion changes may change) for the operations that change a state, and how it
goes through what the meanings are built of. -/

namespace Sys2Proof.Machine

theorem Fld.postsOk {f : Fld} (h : (!f.posts) = false) : f.posts = true := by simpa using h

theorem Hid.postsOk {x : Hid} (h : (!x.posts) = false) : x.posts = true := by simpa using h

namespace State

theorem Posts.refl (s : State) : s.Posts s := ⟨rfl, rfl, rfl, fun _ _ _ => rfl, fun _ _ _ => rfl⟩

theorem Posts.trans {s t u : State} (h1 : s.Posts t) (h2 : t.Posts u) : s.Posts u :=
  ⟨h2.now.trans h1.now, h2.turn0.trans h1.turn0, h2.lt09.trans h1.lt09, fun f i h => (h2.regs f i h).trans (h1.regs f i h),
    fun x i h => (h2.hid x i h).trans (h1.hid x i h)⟩

/-- An update of anything but time, the kind of module, the registers and the hidden scalars. -/
theorem Posts.upd {s t u : State} (h : s.Posts t) (hn : u.now = t.now) (h0 : u.turn0 = t.turn0) (hl : u.lt09 = t.lt09) (hr : u.regs = t.regs)
    (hh : u.hid = t.hid) : s.Posts u :=
  h.trans ⟨hn, h0, hl, fun f i _ => by simp [rd, hl, hr], fun x i _ => by simp [State.h, hh]⟩

/-- `Posts` for the parts of a state that it speaks of. -/
def PostsParts (s : State) (l : Bool) (n t0 : Nat) (g d : Tab Nat) : Prop := s.Posts { s with lt09 := l, now := n, turn0 := t0, regs := g, hid := d }

theorem postsParts_of {s t : State} (h : s.Posts t) : s.PostsParts t.lt09 t.now t.turn0 t.regs t.hid := Posts.upd h rfl rfl rfl rfl rfl

/-- A record: only time, the kind of module, the registers and the hidden scalars count. -/
theorem posts_mk {s : State} {p : List Instr} {l : Bool} {g : Tab Nat} {m k : List Host.Cell}
    {x2 : Nat} {x3 : Nat} {x5 : Tab Nat} {x6 : Tab Nat} {x9 : Tab Nat} {x10 : Tab Nat} {x11 : List PLine} {x12 : List TlbEnt} {x13 : List Stall}
    {x14 : List Op} {x15 : List Nat} {x16 : List Nat} {x17 : List Nat} {x18 : List Strip} {x19 : List (Nat × Nat)} {x20 : List Fence} {x21 : List
    Suspect} {x22 : List Repeat} {x23 : List HistNow} {x24 : List (Nat × Cpl)} {x25 : Tab Nat} {x26 : Tab Nat} {x27 : List Late} {x28 : List (Nat
    × Nat)} {x29 : List IntMsg} {x30 : Reply} {x31 : List PLine} {x32 : List (Nat × List Byte)} {x33 : List PackStall} {x34 : List Claim} {x35 :
    List Req} {x36 : Tab Engine} {x37 : List (Nat × Nat × Nat × MemReq)} {x38 : Tab Nat} {x39 : List (Nat × Nat)} {x40 : List (Nat × List Nat)}
    {x41 : List Repair} {x42 : List (Nat × Nat × Nat × Nat)} {x43 : Option Snap} {x44 : Tab Nat} {x45 : List FeTx} {x46 : List FeRx} {x47 : List
    FeHeld} {x48 : List (Nat × List Byte)} {x49 : List (Nat × Nat × Nat × Nat)} {x50 : List (Nat × Nat × Nat)} {x51 : List InReq} {x52 : List
    CoreAcc} {x53 : List DirectStore} {x54 : List L2Line} {x55 : List Nat} :
    s.Posts (State.mk p l x2 x3 g x5 x6 m k x9 x10 x11 x12 x13 x14 x15 x16 x17 x18 x19 x20 x21 x22 x23 x24 x25 x26 x27 x28 x29 x30 x31 x32 x33 x34
      x35 x36 x37 x38 x39 x40 x41 x42 x43 x44 x45 x46 x47 x48 x49 x50 x51 x52 x53 x54 x55) ↔ s.PostsParts l x2 x3 g x6 :=
  ⟨fun h => Posts.upd h rfl rfl rfl rfl rfl, fun h => Posts.upd h rfl rfl rfl rfl rfl⟩

theorem Posts.ite {s a b : State} {c : Prop} [Decidable c] (ha : s.Posts a) (hb : s.Posts b) : s.Posts (if c then a else b) := by
  split
  · exact ha
  · exact hb

theorem Posts.ite_fst {α : Type} {s : State} {a b : State × α} {c : Prop} [Decidable c] (ha : s.Posts a.1) (hb : s.Posts b.1) :
    s.Posts (if c then a else b).1 := by
  split
  · exact ha
  · exact hb

theorem Posts.foldl {α : Type} {s t : State} {f : State → α → State} {l : List α} (ht : s.Posts t) (hf : ∀ (u : State) (x : α), u.Posts (f u x)) :
    s.Posts (l.foldl f t) := by
  induction l generalizing t with
  | nil => exact ht
  | cons x l ih => exact ih (ht.trans (hf t x))

/-- A fold that carries something beside the state. -/
theorem Posts.foldl_fst {α β : Type} {s : State} {p : State × β} {f : State × β → α → State × β} {l : List α} (ht : s.Posts p.1)
    (hf : ∀ (u : State × β) (x : α), u.1.Posts (f u x).1) : s.Posts (l.foldl f p).1 := by
  induction l generalizing p with
  | nil => exact ht
  | cons x l ih => exact ih (ht.trans (hf p x))

/-- A fold over what an engine carries. -/
theorem Posts.foldl_st {α : Type} {s : State} {p : BankOut} {f : BankOut → α → BankOut} {l : List α} (ht : s.Posts p.st)
    (hf : ∀ (u : BankOut) (x : α), u.st.Posts (f u x).st) : s.Posts (l.foldl f p).st := by
  induction l generalizing p with
  | nil => exact ht
  | cons x l ih => exact ih (ht.trans (hf p x))

theorem Posts.ite_st {s : State} {a b : BankOut} {c : Prop} [Decidable c] (ha : s.Posts a.st) (hb : s.Posts b.st) :
    s.Posts (if c then a else b).st := by
  split
  · exact ha
  · exact hb

/-- The state in a pair that a function gave. -/
theorem Posts.of_eq {α : Type} {s t : State} {p : State × α} {x : α} (h : p = (t, x)) (hk : s.Posts p.1) : s.Posts t := by
  rw [h] at hk
  exact hk

theorem Posts.of_eq_snd {α : Type} {s t : State} {p : α × State} {x : α} (h : p = (x, t)) (hk : s.Posts p.2) : s.Posts t := by
  rw [h] at hk
  exact hk

theorem wr_posts {r s : State} (h : r.Posts s) (f : Fld) (i v : Nat) (hf : f.posts = true) : r.Posts (s.wr f i v) :=
  h.trans ⟨rfl, rfl, rfl, fun g j hg => rd_wr_other _ _ (Or.inl (fun he => by
    rw [← he, hf] at hg
    cases hg)), fun _ _ _ => rfl⟩

theorem setH_posts {r s : State} (h : r.Posts s) (x : Hid) (i v : Nat) (hx : x.posts = true) : r.Posts (s.setH x i v) :=
  h.trans ⟨rfl, rfl, rfl, fun _ _ _ => rfl, fun y j hy => by
    rw [h_setH_other]
    refine Or.inl (fun he => ?_)
    subst he
    rw [hx] at hy
    cases hy⟩

theorem fresh_posts {r s : State} (h : r.Posts s) : r.Posts s.fresh.2 := setH_posts h _ _ _ rfl

theorem newId_posts {r s : State} (h : r.Posts s) : r.Posts s.newId.2 := setH_posts h _ _ _ rfl

theorem setByte_posts {r s : State} (h : r.Posts s) (t u a : Nat) (b : Byte) : r.Posts (s.setByte t u a b) := by
  refine h.trans ?_
  unfold setByte
  split
  · exact ⟨rfl, rfl, rfl, fun _ _ _ => rfl, fun _ _ _ => rfl⟩
  · exact ⟨rfl, rfl, rfl, fun _ _ _ => rfl, fun _ _ _ => rfl⟩

theorem setBytes_posts {r s : State} (h : r.Posts s) (t u a : Nat) (bs : List Byte) : r.Posts (s.setBytes t u a bs) := by
  induction bs generalizing s a with
  | nil => exact h
  | cons b bs ih => exact ih (setByte_posts h t u a b) (a + 1)

theorem wipe_posts {r s : State} (h : r.Posts s) (p : Nat → Nat → Nat → Bool) : r.Posts (s.wipe p) := h.trans ⟨rfl, rfl, rfl, fun _ _ _ => rfl, fun _ _ _ => rfl⟩

/-- An answer that is a next state of which only what a completion changes may differ. -/
structure PostsNext (s : State) (o : Host.Outcome State Fault Refusal) : Prop where
  out : ∀ t, o = .next t → s.Posts t

theorem PostsNext.next {s t : State} (h : s.Posts t) : s.PostsNext (.next t) := ⟨fun _ he => by
  cases he
  exact h⟩

theorem PostsNext.ite {s : State} {a b : Host.Outcome State Fault Refusal} {c : Prop} [Decidable c] (ha : s.PostsNext a)
    (hb : s.PostsNext b) : s.PostsNext (if c then a else b) := by
  split
  · exact ha
  · exact hb

end State

end Sys2Proof.Machine
end

