-- ==== Sys2Proof/Laws/Posts.lean ====
section
/-! SUPPORT. `State.Posts` (only what a completion changes may change) for every operation of which it holds: one lemma each, in the order
of the files of the machine. -/

section

-- One theorem at a time: the text as a whole then needs far less memory.
set_option Elab.async false
set_option linter.all false

namespace Sys2Proof.Machine

open State

theorem State.addH_posts {r s : State} (h : r.Posts s) (x : Hid) (i : ℕ) (n : ℕ) (hxx : x.posts = true) : r.Posts (State.addH s x i n) := by
  unfold State.addH
  repeat' first
    | with_reducible assumption
    | with_reducible exact Posts.refl _
    | with_reducible apply Posts.ite
    | with_reducible apply setH_posts
    | exact Fld.postsOk rfl
    | exact Hid.postsOk rfl
    | decide
    | with_reducible apply postsParts_of
    | intro _
    | with_reducible refine Posts.of_eq (by assumption) ?_
    | with_reducible refine Posts.of_eq_snd (by assumption) ?_
    | simp only [posts_mk]
    | split

theorem State.bump_posts {r s : State} (h : r.Posts s) (f : Fld) (i : ℕ) (n : ℕ) (hff : f.posts = true) : r.Posts (State.bump s f i n) := by
  unfold State.bump
  repeat' first
    | with_reducible assumption
    | with_reducible exact Posts.refl _
    | with_reducible apply Posts.ite
    | with_reducible apply wr_posts
    | with_reducible apply setH_posts
    | exact Fld.postsOk rfl
    | exact Hid.postsOk rfl
    | decide
    | with_reducible apply postsParts_of
    | intro _
    | with_reducible refine Posts.of_eq (by assumption) ?_
    | with_reducible refine Posts.of_eq_snd (by assumption) ?_
    | simp only [posts_mk]
    | split

theorem State.mark_posts {r s : State} (h : r.Posts s) (f : Fld) (i : ℕ) (hff : f.posts = true) : r.Posts (State.mark s f i) := by
  unfold State.mark
  repeat' first
    | with_reducible assumption
    | with_reducible exact Posts.refl _
    | with_reducible apply Posts.ite
    | with_reducible apply setH_posts
    | with_reducible apply wr_posts
    | exact Fld.postsOk rfl
    | exact Hid.postsOk rfl
    | decide
    | with_reducible apply postsParts_of
    | intro _
    | with_reducible refine Posts.of_eq (by assumption) ?_
    | with_reducible refine Posts.of_eq_snd (by assumption) ?_
    | simp only [posts_mk]
    | split

theorem State.firstError_posts {r s : State} (h : r.Posts s) (f : Fld) (i : ℕ) (fill : State → State) (hff : f.posts = true) (hfill : ∀ (u : State),
    u.Posts (fill u)) : r.Posts (State.firstError s f i fill) := by
  unfold State.firstError
  repeat' first
    | with_reducible assumption
    | with_reducible exact Posts.refl _
    | with_reducible apply Posts.ite
    | with_reducible refine Posts.trans ?_ (hfill _)
    | with_reducible apply mark_posts
    | exact Fld.postsOk rfl
    | exact Hid.postsOk rfl
    | decide
    | with_reducible apply postsParts_of
    | intro _
    | with_reducible refine Posts.of_eq (by assumption) ?_
    | with_reducible refine Posts.of_eq_snd (by assumption) ?_
    | simp only [posts_mk]
    | split

theorem State.pmcBump_posts {r s : State} (h : r.Posts s) (i : ℕ) (n : ℕ) : r.Posts (State.pmcBump s i n) := by
  unfold State.pmcBump
  repeat' first
    | with_reducible assumption
    | with_reducible exact Posts.refl _
    | with_reducible apply Posts.ite
    | with_reducible apply mark_posts
    | with_reducible apply wr_posts
    | exact Fld.postsOk rfl
    | exact Hid.postsOk rfl
    | decide
    | with_reducible apply postsParts_of
    | intro _
    | with_reducible refine Posts.of_eq (by assumption) ?_
    | with_reducible refine Posts.of_eq_snd (by assumption) ?_
    | simp only [posts_mk]
    | split

theorem State.evFrom_posts {r s : State} (h : r.Posts s) (code : ℕ) (q : ℕ) (inst : ℕ) (t : ℕ) (n : ℕ) : r.Posts (State.evFrom s code q inst t n) :=
    by
  unfold State.evFrom
  repeat' first
    | with_reducible assumption
    | with_reducible exact Posts.refl _
    | with_reducible apply Posts.ite
    | with_reducible apply pmcBump_posts
    | with_reducible apply setH_posts
    | rw [List.foldl_cons]
    | rw [List.foldl_nil]
    | exact Fld.postsOk rfl
    | exact Hid.postsOk rfl
    | decide
    | with_reducible refine Posts.foldl ?_ (fun u x => ?_)
    | with_reducible refine Posts.foldl_fst ?_ (fun u x => ?_)
    | with_reducible apply postsParts_of
    | intro _
    | with_reducible refine Posts.of_eq (by assumption) ?_
    | with_reducible refine Posts.of_eq_snd (by assumption) ?_
    | simp only [posts_mk]
    | split

theorem State.ev_posts {r s : State} (h : r.Posts s) (code : ℕ) (q : ℕ) (inst : ℕ) (n : ℕ) : r.Posts (State.ev s code q inst n) := by
  unfold State.ev
  repeat' first
    | with_reducible assumption
    | with_reducible exact Posts.refl _
    | with_reducible apply Posts.ite
    | with_reducible apply evFrom_posts
    | exact Fld.postsOk rfl
    | exact Hid.postsOk rfl
    | decide
    | with_reducible apply postsParts_of
    | intro _
    | with_reducible refine Posts.of_eq (by assumption) ?_
    | with_reducible refine Posts.of_eq_snd (by assumption) ?_
    | simp only [posts_mk]
    | split

theorem State.sendMsix_posts {r s : State} (h : r.Posts s) (port : ℕ) (func : ℕ) (vec : ℕ) : r.Posts (State.sendMsix s port func vec) := by
  unfold State.sendMsix
  repeat' first
    | with_reducible assumption
    | with_reducible exact Posts.refl _
    | with_reducible apply Posts.ite
    | with_reducible apply setH_posts
    | exact Fld.postsOk rfl
    | exact Hid.postsOk rfl
    | decide
    | with_reducible apply postsParts_of
    | intro _
    | with_reducible refine Posts.of_eq (by assumption) ?_
    | with_reducible refine Posts.of_eq_snd (by assumption) ?_
    | simp only [posts_mk]
    | split

theorem State.raiseVf_posts {r s : State} (h : r.Posts s) (q : ℕ) (vec : ℕ) : r.Posts (State.raiseVf s q vec) := by
  unfold State.raiseVf
  repeat' first
    | with_reducible assumption
    | with_reducible exact Posts.refl _
    | with_reducible apply Posts.ite
    | with_reducible apply setH_posts
    | with_reducible apply sendMsix_posts
    | exact Fld.postsOk rfl
    | exact Hid.postsOk rfl
    | decide
    | with_reducible apply postsParts_of
    | intro _
    | with_reducible refine Posts.of_eq (by assumption) ?_
    | with_reducible refine Posts.of_eq_snd (by assumption) ?_
    | simp only [posts_mk]
    | split

theorem State.raisePf_posts {r s : State} (h : r.Posts s) (vec : ℕ) : r.Posts (State.raisePf s vec) := by
  unfold State.raisePf
  repeat' first
    | with_reducible assumption
    | with_reducible exact Posts.refl _
    | with_reducible apply Posts.ite
    | with_reducible apply sendMsix_posts
    | exact Fld.postsOk rfl
    | exact Hid.postsOk rfl
    | decide
    | with_reducible apply postsParts_of
    | intro _
    | with_reducible refine Posts.of_eq (by assumption) ?_
    | with_reducible refine Posts.of_eq_snd (by assumption) ?_
    | simp only [posts_mk]
    | split

theorem State.fnErr_posts {r s : State} (h : r.Posts s) (f : ℕ) (code : ℕ) (detail : ℕ) : r.Posts (State.fnErr s f code detail) := by
  unfold State.fnErr
  repeat' first
    | with_reducible assumption
    | with_reducible exact Posts.refl _
    | with_reducible apply Posts.ite
    | with_reducible apply bump_posts
    | with_reducible apply firstError_posts
    | with_reducible apply wr_posts
    | with_reducible apply raiseVf_posts
    | with_reducible apply raisePf_posts
    | exact Fld.postsOk rfl
    | exact Hid.postsOk rfl
    | decide
    | with_reducible apply postsParts_of
    | intro _
    | with_reducible refine Posts.of_eq (by assumption) ?_
    | with_reducible refine Posts.of_eq_snd (by assumption) ?_
    | simp only [posts_mk]
    | split

theorem State.mcLog_posts {r s : State} (h : r.Posts s) (code : ℕ) (q : ℕ) (detail : ℕ) : r.Posts (State.mcLog s code q detail) := by
  unfold State.mcLog
  repeat' first
    | with_reducible assumption
    | with_reducible exact Posts.refl _
    | with_reducible apply Posts.ite
    | with_reducible apply mark_posts
    | with_reducible apply bump_posts
    | with_reducible apply setH_posts
    | with_reducible apply raisePf_posts
    | with_reducible apply wr_posts
    | exact Fld.postsOk rfl
    | exact Hid.postsOk rfl
    | decide
    | with_reducible apply postsParts_of
    | intro _
    | with_reducible refine Posts.of_eq (by assumption) ?_
    | with_reducible refine Posts.of_eq_snd (by assumption) ?_
    | simp only [posts_mk]
    | split

theorem State.setEngine_posts {r s : State} (h : r.Posts s) (k : ℕ) (p : ℕ) (e : Engine) : r.Posts (State.setEngine s k p e) := by
  unfold State.setEngine
  repeat' first
    | with_reducible assumption
    | with_reducible exact Posts.refl _
    | with_reducible apply Posts.ite
    | exact Fld.postsOk rfl
    | exact Hid.postsOk rfl
    | decide
    | with_reducible apply postsParts_of
    | intro _
    | with_reducible refine Posts.of_eq (by assumption) ?_
    | with_reducible refine Posts.of_eq_snd (by assumption) ?_
    | simp only [posts_mk]
    | split

theorem State.syncBusy_posts {r s : State} (h : r.Posts s) (k : ℕ) : r.Posts (State.syncBusy s k) := by
  unfold State.syncBusy
  repeat' first
    | with_reducible assumption
    | with_reducible exact Posts.refl _
    | with_reducible apply Posts.ite
    | with_reducible apply wr_posts
    | exact Fld.postsOk rfl
    | exact Hid.postsOk rfl
    | decide
    | with_reducible apply postsParts_of
    | intro _
    | with_reducible refine Posts.of_eq (by assumption) ?_
    | with_reducible refine Posts.of_eq_snd (by assumption) ?_
    | simp only [posts_mk]
    | split

theorem State.pushEngine_posts {r s : State} (h : r.Posts s) (k : ℕ) (p : ℕ) (line : ℕ) : r.Posts (State.pushEngine s k p line) := by
  unfold State.pushEngine
  repeat' first
    | with_reducible assumption
    | with_reducible exact Posts.refl _
    | with_reducible apply Posts.ite
    | with_reducible apply setEngine_posts
    | exact Fld.postsOk rfl
    | exact Hid.postsOk rfl
    | decide
    | with_reducible apply postsParts_of
    | intro _
    | with_reducible refine Posts.of_eq (by assumption) ?_
    | with_reducible refine Posts.of_eq_snd (by assumption) ?_
    | simp only [posts_mk]
    | split

theorem State.pushAll_posts {r s : State} (h : r.Posts s) (k : ℕ) (line : ℕ) : r.Posts (State.pushAll s k line) := by
  unfold State.pushAll
  repeat' first
    | with_reducible assumption
    | with_reducible exact Posts.refl _
    | with_reducible apply Posts.ite
    | with_reducible apply setEngine_posts
    | with_reducible apply pushEngine_posts
    | rw [List.foldl_cons]
    | rw [List.foldl_nil]
    | exact Fld.postsOk rfl
    | exact Hid.postsOk rfl
    | decide
    | with_reducible refine Posts.foldl ?_ (fun u x => ?_)
    | with_reducible refine Posts.foldl_fst ?_ (fun u x => ?_)
    | with_reducible apply postsParts_of
    | intro _
    | with_reducible refine Posts.of_eq (by assumption) ?_
    | with_reducible refine Posts.of_eq_snd (by assumption) ?_
    | simp only [posts_mk]
    | split

theorem State.bcastData_posts {r s : State} (h : r.Posts s) (k : ℕ) (off : ℕ) (data : List Byte) : r.Posts (State.bcastData s k off data) := by
  unfold State.bcastData
  repeat' first
    | with_reducible assumption
    | with_reducible exact Posts.refl _
    | with_reducible apply Posts.ite
    | with_reducible apply setEngine_posts
    | rw [List.foldl_cons]
    | rw [List.foldl_nil]
    | exact Fld.postsOk rfl
    | exact Hid.postsOk rfl
    | decide
    | with_reducible refine Posts.foldl ?_ (fun u x => ?_)
    | with_reducible refine Posts.foldl_fst ?_ (fun u x => ?_)
    | with_reducible apply postsParts_of
    | intro _
    | with_reducible refine Posts.of_eq (by assumption) ?_
    | with_reducible refine Posts.of_eq_snd (by assumption) ?_
    | simp only [posts_mk]
    | split

theorem State.clearEngine_posts {r s : State} (h : r.Posts s) (k : ℕ) (p : ℕ) : r.Posts (State.clearEngine s k p) := by
  unfold State.clearEngine
  repeat' first
    | with_reducible assumption
    | with_reducible exact Posts.refl _
    | with_reducible apply Posts.ite
    | with_reducible apply setEngine_posts
    | exact Fld.postsOk rfl
    | exact Hid.postsOk rfl
    | decide
    | with_reducible apply postsParts_of
    | intro _
    | with_reducible refine Posts.of_eq (by assumption) ?_
    | with_reducible refine Posts.of_eq_snd (by assumption) ?_
    | simp only [posts_mk]
    | split

theorem State.windowErr_posts {r s : State} (h : r.Posts s) (q : ℕ) (a : ℕ) : r.Posts (State.windowErr s q a) := by
  unfold State.windowErr
  repeat' first
    | with_reducible assumption
    | with_reducible exact Posts.refl _
    | with_reducible apply Posts.ite
    | with_reducible apply fnErr_posts
    | exact Fld.postsOk rfl
    | exact Hid.postsOk rfl
    | decide
    | with_reducible apply postsParts_of
    | intro _
    | with_reducible refine Posts.of_eq (by assumption) ?_
    | with_reducible refine Posts.of_eq_snd (by assumption) ?_
    | simp only [posts_mk]
    | split

theorem State.windowWrite_posts {r s : State} (h : r.Posts s) (q : ℕ) (k : ℕ) (a : ℕ) (d : List Byte) : r.Posts (State.windowWrite s q k a d) := by
  unfold State.windowWrite
  repeat' first
    | with_reducible assumption
    | with_reducible exact Posts.refl _
    | with_reducible apply Posts.ite
    | with_reducible apply pushEngine_posts
    | with_reducible apply windowErr_posts
    | with_reducible apply clearEngine_posts
    | with_reducible apply pushAll_posts
    | with_reducible apply bcastData_posts
    | exact Fld.postsOk rfl
    | exact Hid.postsOk rfl
    | decide
    | with_reducible apply postsParts_of
    | intro _
    | with_reducible refine Posts.of_eq (by assumption) ?_
    | with_reducible refine Posts.of_eq_snd (by assumption) ?_
    | simp only [posts_mk]
    | split

theorem State.retireCmd_posts {r s : State} (h : r.Posts s) (k : ℕ) (p : ℕ) (status : ℕ) (fl : ℕ) : r.Posts (State.retireCmd s k p status fl) := by
  unfold State.retireCmd
  repeat' first
    | with_reducible assumption
    | with_reducible exact Posts.refl _
    | with_reducible apply Posts.ite
    | with_reducible apply syncBusy_posts
    | with_reducible apply addH_posts
    | with_reducible apply setEngine_posts
    | with_reducible apply mark_posts
    | rw [List.foldl_cons]
    | rw [List.foldl_nil]
    | exact Fld.postsOk rfl
    | exact Hid.postsOk rfl
    | decide
    | with_reducible refine Posts.foldl ?_ (fun u x => ?_)
    | with_reducible refine Posts.foldl_fst ?_ (fun u x => ?_)
    | with_reducible apply postsParts_of
    | intro _
    | with_reducible refine Posts.of_eq (by assumption) ?_
    | with_reducible refine Posts.of_eq_snd (by assumption) ?_
    | simp only [posts_mk]
    | split

theorem State.dropCmds_posts {r s : State} (h : r.Posts s) (k : ℕ) (p : ℕ) (y3 : ℕ) : r.Posts (State.dropCmds s k p y3) := by
  induction y3 generalizing s k p with
  | zero =>
    unfold State.dropCmds
    repeat' first
      | with_reducible assumption
      | with_reducible exact Posts.refl _
      | with_reducible apply Posts.ite
      | with_reducible apply retireCmd_posts
      | exact Fld.postsOk rfl
      | exact Hid.postsOk rfl
      | decide
      | with_reducible apply postsParts_of
      | intro _
      | with_reducible refine Posts.of_eq (by assumption) ?_
      | with_reducible refine Posts.of_eq_snd (by assumption) ?_
      | simp only [posts_mk]
      | split
  | succ n0 ih =>
    unfold State.dropCmds
    repeat' first
      | with_reducible assumption
      | with_reducible exact Posts.refl _
      | with_reducible apply Posts.ite
      | with_reducible apply retireCmd_posts
      | with_reducible apply ih
      | exact Fld.postsOk rfl
      | exact Hid.postsOk rfl
      | decide
      | with_reducible apply postsParts_of
      | intro _
      | with_reducible refine Posts.of_eq (by assumption) ?_
      | with_reducible refine Posts.of_eq_snd (by assumption) ?_
      | simp only [posts_mk]
      | split

theorem State.endBank_posts {r s : State} (h : r.Posts s) (k : ℕ) (forced : Bool) : r.Posts (State.endBank s k forced) := by
  unfold State.endBank
  repeat' first
    | with_reducible assumption
    | with_reducible exact Posts.refl _
    | with_reducible apply Posts.ite
    | with_reducible apply dropCmds_posts
    | with_reducible apply setEngine_posts
    | with_reducible apply syncBusy_posts
    | with_reducible apply wr_posts
    | with_reducible apply mark_posts
    | rw [List.foldl_cons]
    | rw [List.foldl_nil]
    | exact Fld.postsOk rfl
    | exact Hid.postsOk rfl
    | decide
    | with_reducible refine Posts.foldl ?_ (fun u x => ?_)
    | with_reducible refine Posts.foldl_fst ?_ (fun u x => ?_)
    | with_reducible apply postsParts_of
    | intro _
    | with_reducible refine Posts.of_eq (by assumption) ?_
    | with_reducible refine Posts.of_eq_snd (by assumption) ?_
    | simp only [posts_mk]
    | split

theorem State.setPoison_posts {r s : State} (h : r.Posts s) (t : ℕ) (u : ℕ) (a : ℕ) (v : ℕ) : r.Posts (State.setPoison s t u a v) := by
  unfold State.setPoison
  repeat' first
    | with_reducible assumption
    | with_reducible exact Posts.refl _
    | with_reducible apply Posts.ite
    | exact Fld.postsOk rfl
    | exact Hid.postsOk rfl
    | decide
    | with_reducible apply postsParts_of
    | intro _
    | with_reducible refine Posts.of_eq (by assumption) ?_
    | with_reducible refine Posts.of_eq_snd (by assumption) ?_
    | simp only [posts_mk]
    | split

theorem State.loseStack_posts {r s : State} (h : r.Posts s) (k : ℕ) : r.Posts (State.loseStack s k) := by
  unfold State.loseStack
  repeat' first
    | with_reducible assumption
    | with_reducible exact Posts.refl _
    | with_reducible apply Posts.ite
    | with_reducible apply wr_posts
    | with_reducible apply endBank_posts
    | with_reducible apply mcLog_posts
    | with_reducible apply mark_posts
    | exact Fld.postsOk rfl
    | exact Hid.postsOk rfl
    | decide
    | with_reducible apply postsParts_of
    | intro _
    | with_reducible refine Posts.of_eq (by assumption) ?_
    | with_reducible refine Posts.of_eq_snd (by assumption) ?_
    | simp only [posts_mk]
    | split

theorem State.requestRetire_posts {r s : State} (h : r.Posts s) (k : ℕ) (p : ℕ) : r.Posts (State.requestRetire s k p) := by
  unfold State.requestRetire
  repeat' first
    | with_reducible assumption
    | with_reducible exact Posts.refl _
    | with_reducible apply Posts.ite
    | with_reducible apply setH_posts
    | with_reducible apply loseStack_posts
    | exact Fld.postsOk rfl
    | exact Hid.postsOk rfl
    | decide
    | with_reducible apply postsParts_of
    | intro _
    | with_reducible refine Posts.of_eq (by assumption) ?_
    | with_reducible refine Posts.of_eq_snd (by assumption) ?_
    | simp only [posts_mk]
    | split

theorem State.laneFails_posts {r s : State} (h : r.Posts s) (k : ℕ) (p : ℕ) (lane : ℕ) : r.Posts (State.laneFails s k p lane) := by
  unfold State.laneFails
  repeat' first
    | with_reducible assumption
    | with_reducible exact Posts.refl _
    | with_reducible apply Posts.ite
    | with_reducible apply setH_posts
    | with_reducible apply mcLog_posts
    | with_reducible apply wr_posts
    | with_reducible apply mark_posts
    | with_reducible apply requestRetire_posts
    | exact Fld.postsOk rfl
    | exact Hid.postsOk rfl
    | decide
    | with_reducible apply postsParts_of
    | intro _
    | with_reducible refine Posts.of_eq (by assumption) ?_
    | with_reducible refine Posts.of_eq_snd (by assumption) ?_
    | simp only [posts_mk]
    | split

theorem State.ueLog_posts {r s : State} (h : r.Posts s) (t : ℕ) (u : ℕ) (a : ℕ) (stored : Bool) : r.Posts (State.ueLog s t u a stored) := by
  unfold State.ueLog
  repeat' first
    | with_reducible assumption
    | with_reducible exact Posts.refl _
    | with_reducible apply Posts.ite
    | with_reducible apply firstError_posts
    | with_reducible apply wr_posts
    | exact Fld.postsOk rfl
    | exact Hid.postsOk rfl
    | decide
    | with_reducible apply postsParts_of
    | intro _
    | with_reducible refine Posts.of_eq (by assumption) ?_
    | with_reducible refine Posts.of_eq_snd (by assumption) ?_
    | simp only [posts_mk]
    | split

theorem State.uncorrectable_posts {r s : State} (h : r.Posts s) (t : ℕ) (u : ℕ) (a : ℕ) : r.Posts (State.uncorrectable s t u a) := by
  unfold State.uncorrectable
  repeat' first
    | with_reducible assumption
    | with_reducible exact Posts.refl _
    | with_reducible apply Posts.ite
    | with_reducible apply setH_posts
    | with_reducible apply mark_posts
    | with_reducible apply bump_posts
    | with_reducible apply setPoison_posts
    | with_reducible apply raisePf_posts
    | with_reducible apply ueLog_posts
    | with_reducible apply requestRetire_posts
    | with_reducible apply mcLog_posts
    | exact Fld.postsOk rfl
    | exact Hid.postsOk rfl
    | decide
    | with_reducible apply postsParts_of
    | intro _
    | with_reducible refine Posts.of_eq (by assumption) ?_
    | with_reducible refine Posts.of_eq_snd (by assumption) ?_
    | simp only [posts_mk]
    | split

theorem State.corrected_posts {r s : State} (h : r.Posts s) (t : ℕ) (u : ℕ) (a : ℕ) (lane : ℕ) : r.Posts (State.corrected s t u a lane) := by
  unfold State.corrected
  repeat' first
    | with_reducible assumption
    | with_reducible exact Posts.refl _
    | with_reducible apply Posts.ite
    | with_reducible apply setH_posts
    | with_reducible apply bump_posts
    | with_reducible apply laneFails_posts
    | exact Fld.postsOk rfl
    | exact Hid.postsOk rfl
    | decide
    | with_reducible apply postsParts_of
    | intro _
    | with_reducible refine Posts.of_eq (by assumption) ?_
    | with_reducible refine Posts.of_eq_snd (by assumption) ?_
    | simp only [posts_mk]
    | split

theorem State.scramble_posts {r s : State} (h : r.Posts s) (t : ℕ) (u : ℕ) (a : ℕ) : r.Posts (State.scramble s t u a) := by
  unfold State.scramble
  repeat' first
    | with_reducible assumption
    | with_reducible exact Posts.refl _
    | with_reducible apply Posts.ite
    | with_reducible apply Posts.ite_fst
    | with_reducible apply fresh_posts
    | with_reducible apply setBytes_posts
    | exact Fld.postsOk rfl
    | exact Hid.postsOk rfl
    | decide
    | with_reducible apply postsParts_of
    | intro _
    | with_reducible refine Posts.of_eq (by assumption) ?_
    | with_reducible refine Posts.of_eq_snd (by assumption) ?_
    | simp only [posts_mk]
    | split

theorem State.dramRead_posts {r s : State} (h : r.Posts s) (t : ℕ) (u : ℕ) (a : ℕ) (wrong : ℕ) (lane : ℕ) : r.Posts (State.dramRead s t u a wrong
    lane).1 := by
  unfold State.dramRead
  repeat' first
    | with_reducible assumption
    | with_reducible exact Posts.refl _
    | with_reducible apply Posts.ite
    | with_reducible apply Posts.ite_fst
    | with_reducible apply ueLog_posts
    | with_reducible apply uncorrectable_posts
    | with_reducible apply scramble_posts
    | with_reducible apply corrected_posts
    | with_reducible apply setH_posts
    | exact Fld.postsOk rfl
    | exact Hid.postsOk rfl
    | decide
    | with_reducible apply postsParts_of
    | intro _
    | with_reducible refine Posts.of_eq (by assumption) ?_
    | with_reducible refine Posts.of_eq_snd (by assumption) ?_
    | simp only [posts_mk]
    | split

theorem State.dropLine_posts {r s : State} (h : r.Posts s) (q : ℕ) (t : ℕ) (u : ℕ) (a : ℕ) : r.Posts (State.dropLine s q t u a) := by
  unfold State.dropLine
  repeat' first
    | with_reducible assumption
    | with_reducible exact Posts.refl _
    | with_reducible apply Posts.ite
    | exact Fld.postsOk rfl
    | exact Hid.postsOk rfl
    | decide
    | with_reducible apply postsParts_of
    | intro _
    | with_reducible refine Posts.of_eq (by assumption) ?_
    | with_reducible refine Posts.of_eq_snd (by assumption) ?_
    | simp only [posts_mk]
    | split

theorem State.revertLine_posts {r s : State} (h : r.Posts s) (l : PLine) : r.Posts (State.revertLine s l) := by
  unfold State.revertLine
  repeat' first
    | with_reducible assumption
    | with_reducible exact Posts.refl _
    | with_reducible apply Posts.ite
    | with_reducible apply setBytes_posts
    | with_reducible apply setPoison_posts
    | with_reducible apply dropLine_posts
    | rw [List.foldl_cons]
    | rw [List.foldl_nil]
    | exact Fld.postsOk rfl
    | exact Hid.postsOk rfl
    | decide
    | with_reducible refine Posts.foldl ?_ (fun u x => ?_)
    | with_reducible refine Posts.foldl_fst ?_ (fun u x => ?_)
    | with_reducible apply postsParts_of
    | intro _
    | with_reducible refine Posts.of_eq (by assumption) ?_
    | with_reducible refine Posts.of_eq_snd (by assumption) ?_
    | simp only [posts_mk]
    | split

theorem State.storePoison_posts {r s : State} (h : r.Posts s) (l : PLine) : r.Posts (State.storePoison s l) := by
  unfold State.storePoison
  repeat' first
    | with_reducible assumption
    | with_reducible exact Posts.refl _
    | with_reducible apply Posts.ite
    | with_reducible apply setPoison_posts
    | rw [List.foldl_cons]
    | rw [List.foldl_nil]
    | exact Fld.postsOk rfl
    | exact Hid.postsOk rfl
    | decide
    | with_reducible refine Posts.foldl ?_ (fun u x => ?_)
    | with_reducible refine Posts.foldl_fst ?_ (fun u x => ?_)
    | with_reducible apply postsParts_of
    | intro _
    | with_reducible refine Posts.of_eq (by assumption) ?_
    | with_reducible refine Posts.of_eq_snd (by assumption) ?_
    | simp only [posts_mk]
    | split

theorem State.plazaTouch_posts {r s : State} (h : r.Posts s) (q : ℕ) (t : ℕ) (u : ℕ) (a : ℕ) (cls : ℕ) (hint : ℕ) (keep : ℕ) (noalloc : Bool) (write :
    Bool) (shadow : Option (ℕ × ℕ)) : r.Posts (State.plazaTouch s q t u a cls hint keep noalloc write shadow) := by
  unfold State.plazaTouch
  repeat' first
    | with_reducible assumption
    | with_reducible exact Posts.refl _
    | with_reducible apply Posts.ite
    | with_reducible apply ev_posts
    | with_reducible apply dropLine_posts
    | with_reducible apply storePoison_posts
    | exact Fld.postsOk rfl
    | exact Hid.postsOk rfl
    | decide
    | with_reducible apply postsParts_of
    | intro _
    | with_reducible refine Posts.of_eq (by assumption) ?_
    | with_reducible refine Posts.of_eq_snd (by assumption) ?_
    | simp only [posts_mk]
    | split

theorem State.putRecord_posts {r s : State} (h : r.Posts s) (x : Stall) : r.Posts (State.putRecord s x) := by
  unfold State.putRecord
  repeat' first
    | with_reducible assumption
    | with_reducible exact Posts.refl _
    | with_reducible apply Posts.ite
    | with_reducible apply setBytes_posts
    | with_reducible apply plazaTouch_posts
    | with_reducible apply raiseVf_posts
    | with_reducible apply wr_posts
    | exact Fld.postsOk rfl
    | exact Hid.postsOk rfl
    | decide
    | with_reducible apply postsParts_of
    | intro _
    | with_reducible refine Posts.of_eq (by assumption) ?_
    | with_reducible refine Posts.of_eq_snd (by assumption) ?_
    | simp only [posts_mk]
    | split

theorem State.walkFrom_posts {r s : State} (h : r.Posts s) (q : ℕ) (va : ℕ) (unit : ℕ) (node : ℕ) (y5 : List (ℕ × ℕ × ℕ)) : r.Posts (State.walkFrom s
    q va unit node y5).1 := by
  induction y5 generalizing s q va unit node with
  | nil =>
    unfold State.walkFrom
    repeat' first
      | with_reducible assumption
      | with_reducible exact Posts.refl _
      | with_reducible apply Posts.ite
      | with_reducible apply Posts.ite_fst
      | with_reducible apply plazaTouch_posts
      | exact Fld.postsOk rfl
      | exact Hid.postsOk rfl
      | decide
      | with_reducible apply postsParts_of
      | intro _
      | with_reducible refine Posts.of_eq (by assumption) ?_
      | with_reducible refine Posts.of_eq_snd (by assumption) ?_
      | simp only [posts_mk]
      | split
  | cons z l ih =>
    unfold State.walkFrom
    repeat' first
      | with_reducible assumption
      | with_reducible exact Posts.refl _
      | with_reducible apply Posts.ite
      | with_reducible apply Posts.ite_fst
      | with_reducible apply plazaTouch_posts
      | with_reducible apply ih
      | exact Fld.postsOk rfl
      | exact Hid.postsOk rfl
      | decide
      | with_reducible apply postsParts_of
      | intro _
      | with_reducible refine Posts.of_eq (by assumption) ?_
      | with_reducible refine Posts.of_eq_snd (by assumption) ?_
      | simp only [posts_mk]
      | split

theorem State.walk_posts {r s : State} (h : r.Posts s) (q : ℕ) (va : ℕ) : r.Posts (State.walk s q va).1 := by
  unfold State.walk
  repeat' first
    | with_reducible assumption
    | with_reducible exact Posts.refl _
    | with_reducible apply Posts.ite
    | with_reducible apply Posts.ite_fst
    | with_reducible apply walkFrom_posts
    | exact Fld.postsOk rfl
    | exact Hid.postsOk rfl
    | decide
    | with_reducible apply postsParts_of
    | intro _
    | with_reducible refine Posts.of_eq (by assumption) ?_
    | with_reducible refine Posts.of_eq_snd (by assumption) ?_
    | simp only [posts_mk]
    | split

theorem State.raiseFault_posts {r s : State} (h : r.Posts s) (c : Client) (va : ℕ) (write : Bool) (cause : ℕ) (level : ℕ) (host : Option ℕ) : r.Posts
    (State.raiseFault s c va write cause level host) := by
  unfold State.raiseFault
  repeat' first
    | with_reducible assumption
    | with_reducible exact Posts.refl _
    | with_reducible apply Posts.ite
    | with_reducible apply ev_posts
    | with_reducible apply putRecord_posts
    | exact Fld.postsOk rfl
    | exact Hid.postsOk rfl
    | decide
    | with_reducible apply postsParts_of
    | intro _
    | with_reducible refine Posts.of_eq (by assumption) ?_
    | with_reducible refine Posts.of_eq_snd (by assumption) ?_
    | simp only [posts_mk]
    | split

theorem State.tlbPut_posts {r s : State} (h : r.Posts s) (e : TlbEnt) : r.Posts (State.tlbPut s e) := by
  unfold State.tlbPut
  repeat' first
    | with_reducible assumption
    | with_reducible exact Posts.refl _
    | with_reducible apply Posts.ite
    | with_reducible apply Posts.ite_fst
    | with_reducible apply fresh_posts
    | exact Fld.postsOk rfl
    | exact Hid.postsOk rfl
    | decide
    | with_reducible apply postsParts_of
    | intro _
    | with_reducible refine Posts.of_eq (by assumption) ?_
    | with_reducible refine Posts.of_eq_snd (by assumption) ?_
    | simp only [posts_mk]
    | split

theorem State.walkAndCache_posts {r s : State} (h : r.Posts s) (q : ℕ) (va : ℕ) (write : Bool) : r.Posts (State.walkAndCache s q va write).1 := by
  unfold State.walkAndCache
  repeat' first
    | with_reducible assumption
    | with_reducible exact Posts.refl _
    | with_reducible apply Posts.ite
    | with_reducible apply Posts.ite_fst
    | with_reducible apply walk_posts
    | with_reducible apply setBytes_posts
    | with_reducible apply plazaTouch_posts
    | with_reducible apply tlbPut_posts
    | exact Fld.postsOk rfl
    | exact Hid.postsOk rfl
    | decide
    | with_reducible apply postsParts_of
    | intro _
    | with_reducible refine Posts.of_eq (by assumption) ?_
    | with_reducible refine Posts.of_eq_snd (by assumption) ?_
    | simp only [posts_mk]
    | split

theorem State.translate_posts {r s : State} (h : r.Posts s) (q : ℕ) (va : ℕ) (write : Bool) : r.Posts (State.translate s q va write).1 := by
  unfold State.translate
  repeat' first
    | with_reducible assumption
    | with_reducible exact Posts.refl _
    | with_reducible apply Posts.ite
    | with_reducible apply Posts.ite_fst
    | with_reducible apply walkAndCache_posts
    | exact Fld.postsOk rfl
    | exact Hid.postsOk rfl
    | decide
    | with_reducible apply postsParts_of
    | intro _
    | with_reducible refine Posts.of_eq (by assumption) ?_
    | with_reducible refine Posts.of_eq_snd (by assumption) ?_
    | simp only [posts_mk]
    | split

theorem State.xlate_posts {r s : State} (h : r.Posts s) (c : Client) (va : ℕ) (write : Bool) : r.Posts (State.xlate s c va write).1 := by
  unfold State.xlate
  repeat' first
    | with_reducible assumption
    | with_reducible exact Posts.refl _
    | with_reducible apply Posts.ite
    | with_reducible apply Posts.ite_fst
    | with_reducible apply translate_posts
    | with_reducible apply walk_posts
    | with_reducible apply raiseFault_posts
    | exact Fld.postsOk rfl
    | exact Hid.postsOk rfl
    | decide
    | with_reducible apply postsParts_of
    | intro _
    | with_reducible refine Posts.of_eq (by assumption) ?_
    | with_reducible refine Posts.of_eq_snd (by assumption) ?_
    | simp only [posts_mk]
    | split

theorem State.lineRead_posts {r s : State} (h : r.Posts s) (c : Client) (pte : ℕ) (t : ℕ) (u : ℕ) (a : ℕ) (n : ℕ) (fin : Bool) : r.Posts
    (State.lineRead s c pte t u a n fin).1 := by
  unfold State.lineRead
  repeat' first
    | with_reducible assumption
    | with_reducible exact Posts.refl _
    | with_reducible apply Posts.ite
    | with_reducible apply Posts.ite_fst
    | with_reducible apply dramRead_posts
    | with_reducible apply plazaTouch_posts
    | with_reducible apply revertLine_posts
    | exact Fld.postsOk rfl
    | exact Hid.postsOk rfl
    | decide
    | with_reducible apply postsParts_of
    | intro _
    | with_reducible refine Posts.of_eq (by assumption) ?_
    | with_reducible refine Posts.of_eq_snd (by assumption) ?_
    | simp only [posts_mk]
    | split

theorem State.lineWrite_posts {r s : State} (h : r.Posts s) (c : Client) (pte : ℕ) (t : ℕ) (u : ℕ) (a : ℕ) (d : List Byte) (bad : Bool) (shadow :
    Option (ℕ × ℕ)) : r.Posts (State.lineWrite s c pte t u a d bad shadow) := by
  unfold State.lineWrite
  repeat' first
    | with_reducible assumption
    | with_reducible exact Posts.refl _
    | with_reducible apply Posts.ite
    | with_reducible apply plazaTouch_posts
    | with_reducible apply setBytes_posts
    | with_reducible apply setPoison_posts
    | exact Fld.postsOk rfl
    | exact Hid.postsOk rfl
    | decide
    | with_reducible apply postsParts_of
    | intro _
    | with_reducible refine Posts.of_eq (by assumption) ?_
    | with_reducible refine Posts.of_eq_snd (by assumption) ?_
    | simp only [posts_mk]
    | split

theorem State.readPiece_posts {r s : State} (h : r.Posts s) (c : Client) (l : Leaf) (va : ℕ) (n : ℕ) (fin : Bool) : r.Posts (State.readPiece s c l va
    n fin).1 := by
  unfold State.readPiece
  repeat' first
    | with_reducible assumption
    | with_reducible exact Posts.refl _
    | with_reducible apply Posts.ite
    | with_reducible apply Posts.ite_fst
    | with_reducible apply lineRead_posts
    | exact Fld.postsOk rfl
    | exact Hid.postsOk rfl
    | decide
    | with_reducible apply postsParts_of
    | intro _
    | with_reducible refine Posts.of_eq (by assumption) ?_
    | with_reducible refine Posts.of_eq_snd (by assumption) ?_
    | simp only [posts_mk]
    | split

theorem State.writePiece_posts {r s : State} (h : r.Posts s) (c : Client) (l : Leaf) (va : ℕ) (d : List Byte) (bad : Bool) (shadow : Option (ℕ × ℕ)) :
    r.Posts (State.writePiece s c l va d bad shadow) := by
  unfold State.writePiece
  repeat' first
    | with_reducible assumption
    | with_reducible exact Posts.refl _
    | with_reducible apply Posts.ite
    | with_reducible apply windowWrite_posts
    | with_reducible apply addH_posts
    | with_reducible apply lineWrite_posts
    | exact Fld.postsOk rfl
    | exact Hid.postsOk rfl
    | decide
    | with_reducible apply postsParts_of
    | intro _
    | with_reducible refine Posts.of_eq (by assumption) ?_
    | with_reducible refine Posts.of_eq_snd (by assumption) ?_
    | simp only [posts_mk]
    | split

theorem State.chanRead_posts {r s : State} (h : r.Posts s) (c : Client) (pte : ℕ) (t : ℕ) (u : ℕ) (ch : ℕ) (l : ℕ) (n : ℕ) (y8 : ℕ) : r.Posts
    (State.chanRead s c pte t u ch l n y8).1 := by
  induction y8 generalizing s c pte t u ch l n with
  | zero =>
    unfold State.chanRead
    repeat' first
      | with_reducible assumption
      | with_reducible exact Posts.refl _
      | with_reducible apply Posts.ite
      | with_reducible apply Posts.ite_fst
      | with_reducible apply lineRead_posts
      | exact Fld.postsOk rfl
      | exact Hid.postsOk rfl
      | decide
      | with_reducible apply postsParts_of
      | intro _
      | with_reducible refine Posts.of_eq (by assumption) ?_
      | with_reducible refine Posts.of_eq_snd (by assumption) ?_
      | simp only [posts_mk]
      | split
  | succ n0 ih =>
    unfold State.chanRead
    repeat' first
      | with_reducible assumption
      | with_reducible exact Posts.refl _
      | with_reducible apply Posts.ite
      | with_reducible apply Posts.ite_fst
      | with_reducible apply lineRead_posts
      | with_reducible apply ih
      | exact Fld.postsOk rfl
      | exact Hid.postsOk rfl
      | decide
      | with_reducible apply postsParts_of
      | intro _
      | with_reducible refine Posts.of_eq (by assumption) ?_
      | with_reducible refine Posts.of_eq_snd (by assumption) ?_
      | simp only [posts_mk]
      | split

theorem State.physWrite_posts {r s : State} (h : r.Posts s) (c : Client) (pte : ℕ) (t : ℕ) (u : ℕ) (a : ℕ) (d : List Byte) (y7 : ℕ) : r.Posts
    (State.physWrite s c pte t u a d y7) := by
  induction y7 generalizing s c pte t u a d with
  | zero =>
    unfold State.physWrite
    repeat' first
      | with_reducible assumption
      | with_reducible exact Posts.refl _
      | with_reducible apply Posts.ite
      | with_reducible apply lineWrite_posts
      | exact Fld.postsOk rfl
      | exact Hid.postsOk rfl
      | decide
      | with_reducible apply postsParts_of
      | intro _
      | with_reducible refine Posts.of_eq (by assumption) ?_
      | with_reducible refine Posts.of_eq_snd (by assumption) ?_
      | simp only [posts_mk]
      | split
  | succ n0 ih =>
    unfold State.physWrite
    repeat' first
      | with_reducible assumption
      | with_reducible exact Posts.refl _
      | with_reducible apply Posts.ite
      | with_reducible apply lineWrite_posts
      | with_reducible apply ih
      | exact Fld.postsOk rfl
      | exact Hid.postsOk rfl
      | decide
      | with_reducible apply postsParts_of
      | intro _
      | with_reducible refine Posts.of_eq (by assumption) ?_
      | with_reducible refine Posts.of_eq_snd (by assumption) ?_
      | simp only [posts_mk]
      | split

theorem State.chanWrite_posts {r s : State} (h : r.Posts s) (c : Client) (pte : ℕ) (t : ℕ) (u : ℕ) (ch : ℕ) (l : ℕ) (d : List Byte) (y8 : ℕ) : r.Posts
    (State.chanWrite s c pte t u ch l d y8) := by
  induction y8 generalizing s c pte t u ch l d with
  | zero =>
    unfold State.chanWrite
    repeat' first
      | with_reducible assumption
      | with_reducible exact Posts.refl _
      | with_reducible apply Posts.ite
      | with_reducible apply lineWrite_posts
      | with_reducible apply setPoison_posts
      | exact Fld.postsOk rfl
      | exact Hid.postsOk rfl
      | decide
      | with_reducible apply postsParts_of
      | intro _
      | with_reducible refine Posts.of_eq (by assumption) ?_
      | with_reducible refine Posts.of_eq_snd (by assumption) ?_
      | simp only [posts_mk]
      | split
  | succ n0 ih =>
    unfold State.chanWrite
    repeat' first
      | with_reducible assumption
      | with_reducible exact Posts.refl _
      | with_reducible apply Posts.ite
      | with_reducible apply lineWrite_posts
      | with_reducible apply setPoison_posts
      | with_reducible apply ih
      | exact Fld.postsOk rfl
      | exact Hid.postsOk rfl
      | decide
      | with_reducible apply postsParts_of
      | intro _
      | with_reducible refine Posts.of_eq (by assumption) ?_
      | with_reducible refine Posts.of_eq_snd (by assumption) ?_
      | simp only [posts_mk]
      | split

theorem State.chanPoison_posts {r s : State} (h : r.Posts s) (t : ℕ) (u : ℕ) (ch : ℕ) (l : ℕ) (n : ℕ) : r.Posts (State.chanPoison s t u ch l n) := by
  unfold State.chanPoison
  repeat' first
    | with_reducible assumption
    | with_reducible exact Posts.refl _
    | with_reducible apply Posts.ite
    | with_reducible apply setPoison_posts
    | rw [List.foldl_cons]
    | rw [List.foldl_nil]
    | exact Fld.postsOk rfl
    | exact Hid.postsOk rfl
    | decide
    | with_reducible refine Posts.foldl ?_ (fun u x => ?_)
    | with_reducible refine Posts.foldl_fst ?_ (fun u x => ?_)
    | with_reducible apply postsParts_of
    | intro _
    | with_reducible refine Posts.of_eq (by assumption) ?_
    | with_reducible refine Posts.of_eq_snd (by assumption) ?_
    | simp only [posts_mk]
    | split

theorem State.readLines_posts {r s : State} (h : r.Posts s) (c : Client) (pte : ℕ) (t : ℕ) (u : ℕ) (y5 : ℕ) (y6 : ℕ) : r.Posts (State.readLines s c
    pte t u y5 y6).1 := by
  induction y6 generalizing s c pte t u y5 with
  | zero =>
    unfold State.readLines
    repeat' first
      | with_reducible assumption
      | with_reducible exact Posts.refl _
      | with_reducible apply Posts.ite
      | with_reducible apply Posts.ite_fst
      | with_reducible apply lineRead_posts
      | exact Fld.postsOk rfl
      | exact Hid.postsOk rfl
      | decide
      | with_reducible apply postsParts_of
      | intro _
      | with_reducible refine Posts.of_eq (by assumption) ?_
      | with_reducible refine Posts.of_eq_snd (by assumption) ?_
      | simp only [posts_mk]
      | split
  | succ n0 ih =>
    unfold State.readLines
    repeat' first
      | with_reducible assumption
      | with_reducible exact Posts.refl _
      | with_reducible apply Posts.ite
      | with_reducible apply Posts.ite_fst
      | with_reducible apply lineRead_posts
      | with_reducible apply ih
      | exact Fld.postsOk rfl
      | exact Hid.postsOk rfl
      | decide
      | with_reducible apply postsParts_of
      | intro _
      | with_reducible refine Posts.of_eq (by assumption) ?_
      | with_reducible refine Posts.of_eq_snd (by assumption) ?_
      | simp only [posts_mk]
      | split

theorem State.readDir_posts {r s : State} (h : r.Posts s) (c : Client) (pte : ℕ) : r.Posts (State.readDir s c pte).1 := by
  unfold State.readDir
  repeat' first
    | with_reducible assumption
    | with_reducible exact Posts.refl _
    | with_reducible apply Posts.ite
    | with_reducible apply Posts.ite_fst
    | with_reducible apply readLines_posts
    | exact Fld.postsOk rfl
    | exact Hid.postsOk rfl
    | decide
    | with_reducible apply postsParts_of
    | intro _
    | with_reducible refine Posts.of_eq (by assumption) ?_
    | with_reducible refine Posts.of_eq_snd (by assumption) ?_
    | simp only [posts_mk]
    | split

theorem State.noteDamage_posts {r s : State} (h : r.Posts s) (q : ℕ) (t : ℕ) (u : ℕ) (va : ℕ) (cause : ℕ) (b : ℕ) : r.Posts (State.noteDamage s q t u
    va cause b) := by
  unfold State.noteDamage
  repeat' first
    | with_reducible assumption
    | with_reducible exact Posts.refl _
    | with_reducible apply Posts.ite
    | with_reducible apply mark_posts
    | with_reducible apply bump_posts
    | with_reducible apply ev_posts
    | with_reducible apply firstError_posts
    | with_reducible apply wr_posts
    | exact Fld.postsOk rfl
    | exact Hid.postsOk rfl
    | decide
    | with_reducible apply postsParts_of
    | intro _
    | with_reducible refine Posts.of_eq (by assumption) ?_
    | with_reducible refine Posts.of_eq_snd (by assumption) ?_
    | simp only [posts_mk]
    | split

theorem State.subData_posts {r s : State} (h : r.Posts s) (c : Client) (pte : ℕ) (log2 : ℕ) (j : ℕ) (fmt : ℕ) (d : Dir) : r.Posts (State.subData s c
    pte log2 j fmt d).1 := by
  unfold State.subData
  repeat' first
    | with_reducible assumption
    | with_reducible exact Posts.refl _
    | with_reducible apply Posts.ite
    | with_reducible apply Posts.ite_fst
    | with_reducible apply chanRead_posts
    | exact Fld.postsOk rfl
    | exact Hid.postsOk rfl
    | decide
    | with_reducible apply postsParts_of
    | intro _
    | with_reducible refine Posts.of_eq (by assumption) ?_
    | with_reducible refine Posts.of_eq_snd (by assumption) ?_
    | simp only [posts_mk]
    | split

theorem State.noteSub_posts {r s : State} (h : r.Posts s) (q : ℕ) (t : ℕ) (u : ℕ) (page : ℕ) (o : SubOut) : r.Posts (State.noteSub s q t u page o) :=
    by
  unfold State.noteSub
  repeat' first
    | with_reducible assumption
    | with_reducible exact Posts.refl _
    | with_reducible apply Posts.ite
    | with_reducible apply bump_posts
    | with_reducible apply noteDamage_posts
    | rw [List.foldl_cons]
    | rw [List.foldl_nil]
    | exact Fld.postsOk rfl
    | exact Hid.postsOk rfl
    | decide
    | with_reducible refine Posts.foldl ?_ (fun u x => ?_)
    | with_reducible refine Posts.foldl_fst ?_ (fun u x => ?_)
    | with_reducible apply postsParts_of
    | intro _
    | with_reducible refine Posts.of_eq (by assumption) ?_
    | with_reducible refine Posts.of_eq_snd (by assumption) ?_
    | simp only [posts_mk]
    | split

theorem State.expand_posts {r s : State} (h : r.Posts s) (c : Client) (pte : ℕ) (log2 : ℕ) (va : ℕ) (j : ℕ) (first : ℕ) (last : ℕ) (d : Dir) : r.Posts
    (State.expand s c pte log2 va j first last d).1 := by
  unfold State.expand
  repeat' first
    | with_reducible assumption
    | with_reducible exact Posts.refl _
    | with_reducible apply Posts.ite
    | with_reducible apply Posts.ite_fst
    | with_reducible apply subData_posts
    | with_reducible apply noteSub_posts
    | exact Fld.postsOk rfl
    | exact Hid.postsOk rfl
    | decide
    | with_reducible apply postsParts_of
    | intro _
    | with_reducible refine Posts.of_eq (by assumption) ?_
    | with_reducible refine Posts.of_eq_snd (by assumption) ?_
    | simp only [posts_mk]
    | split

theorem State.holdPacked_posts {r s : State} (h : r.Posts s) (c : Client) (l : Leaf) (va : ℕ) (write : Bool) (data : List Byte) (bads : List Bool)
    (busy : Bool) : r.Posts (State.holdPacked s c l va write data bads busy) := by
  unfold State.holdPacked
  repeat' first
    | with_reducible assumption
    | with_reducible exact Posts.refl _
    | with_reducible apply Posts.ite
    | exact Fld.postsOk rfl
    | exact Hid.postsOk rfl
    | decide
    | with_reducible apply postsParts_of
    | intro _
    | with_reducible refine Posts.of_eq (by assumption) ?_
    | with_reducible refine Posts.of_eq_snd (by assumption) ?_
    | simp only [posts_mk]
    | split

theorem State.waitForDir_posts {r s : State} (h : r.Posts s) (c : Client) (l : Leaf) (va : ℕ) (write : Bool) (data : List Byte) (bads : List Bool) :
    r.Posts (State.waitForDir s c l va write data bads) := by
  unfold State.waitForDir
  repeat' first
    | with_reducible assumption
    | with_reducible exact Posts.refl _
    | with_reducible apply Posts.ite
    | with_reducible apply holdPacked_posts
    | with_reducible apply ev_posts
    | exact Fld.postsOk rfl
    | exact Hid.postsOk rfl
    | decide
    | with_reducible apply postsParts_of
    | intro _
    | with_reducible refine Posts.of_eq (by assumption) ?_
    | with_reducible refine Posts.of_eq_snd (by assumption) ?_
    | simp only [posts_mk]
    | split

theorem State.dirDamage_posts {r s : State} (h : r.Posts s) (c : Client) (l : Leaf) (va : ℕ) (poisoned : Bool) : r.Posts (State.dirDamage s c l va
    poisoned) := by
  unfold State.dirDamage
  repeat' first
    | with_reducible assumption
    | with_reducible exact Posts.refl _
    | with_reducible apply Posts.ite
    | with_reducible apply noteDamage_posts
    | exact Fld.postsOk rfl
    | exact Hid.postsOk rfl
    | decide
    | with_reducible apply postsParts_of
    | intro _
    | with_reducible refine Posts.of_eq (by assumption) ?_
    | with_reducible refine Posts.of_eq_snd (by assumption) ?_
    | simp only [posts_mk]
    | split

theorem State.packedRead_posts {r s : State} (h : r.Posts s) (c : Client) (l : Leaf) (va : ℕ) (n : ℕ) : r.Posts (State.packedRead s c l va n).1 := by
  unfold State.packedRead
  repeat' first
    | with_reducible assumption
    | with_reducible exact Posts.refl _
    | with_reducible apply Posts.ite
    | with_reducible apply Posts.ite_fst
    | with_reducible apply readDir_posts
    | with_reducible apply dirDamage_posts
    | with_reducible apply waitForDir_posts
    | with_reducible apply expand_posts
    | rw [List.foldl_cons]
    | rw [List.foldl_nil]
    | exact Fld.postsOk rfl
    | exact Hid.postsOk rfl
    | decide
    | with_reducible refine Posts.foldl ?_ (fun u x => ?_)
    | with_reducible refine Posts.foldl_fst ?_ (fun u x => ?_)
    | with_reducible apply postsParts_of
    | intro _
    | with_reducible refine Posts.of_eq (by assumption) ?_
    | with_reducible refine Posts.of_eq_snd (by assumption) ?_
    | simp only [posts_mk]
    | split

theorem State.dirBusy_posts {r s : State} (h : r.Posts s) (c : Client) (pte : ℕ) (on : Bool) : r.Posts (State.dirBusy s c pte on) := by
  unfold State.dirBusy
  repeat' first
    | with_reducible assumption
    | with_reducible exact Posts.refl _
    | with_reducible apply Posts.ite
    | with_reducible apply physWrite_posts
    | exact Fld.postsOk rfl
    | exact Hid.postsOk rfl
    | decide
    | with_reducible apply postsParts_of
    | intro _
    | with_reducible refine Posts.of_eq (by assumption) ?_
    | with_reducible refine Posts.of_eq_snd (by assumption) ?_
    | simp only [posts_mk]
    | split

theorem State.oldBlocks_posts {r s : State} (h : r.Posts s) (c : Client) (l : Leaf) (va : ℕ) (j : ℕ) (fmt : ℕ) (first : ℕ) (d : Dir) : r.Posts
    (State.oldBlocks s c l va j fmt first d).1 := by
  unfold State.oldBlocks
  repeat' first
    | with_reducible assumption
    | with_reducible exact Posts.refl _
    | with_reducible apply Posts.ite
    | with_reducible apply Posts.ite_fst
    | with_reducible apply subData_posts
    | with_reducible apply noteSub_posts
    | exact Fld.postsOk rfl
    | exact Hid.postsOk rfl
    | decide
    | with_reducible apply postsParts_of
    | intro _
    | with_reducible refine Posts.of_eq (by assumption) ?_
    | with_reducible refine Posts.of_eq_snd (by assumption) ?_
    | simp only [posts_mk]
    | split

theorem State.putSub_posts {r s : State} (h : r.Posts s) (c : Client) (pte : ℕ) (slack : ℕ) (d : Dir) (runs : List (ℕ × ℕ × ℕ)) (e : State.NewSub) :
    r.Posts (State.putSub s c pte slack d runs e).1 := by
  unfold State.putSub
  repeat' first
    | with_reducible assumption
    | with_reducible exact Posts.refl _
    | with_reducible apply Posts.ite
    | with_reducible apply Posts.ite_fst
    | with_reducible apply chanPoison_posts
    | with_reducible apply chanWrite_posts
    | with_reducible apply physWrite_posts
    | with_reducible apply bump_posts
    | with_reducible apply ev_posts
    | rw [List.foldl_cons]
    | rw [List.foldl_nil]
    | exact Fld.postsOk rfl
    | exact Hid.postsOk rfl
    | decide
    | with_reducible refine Posts.foldl ?_ (fun u x => ?_)
    | with_reducible refine Posts.foldl_fst ?_ (fun u x => ?_)
    | with_reducible apply postsParts_of
    | intro _
    | with_reducible refine Posts.of_eq (by assumption) ?_
    | with_reducible refine Posts.of_eq_snd (by assumption) ?_
    | simp only [posts_mk]
    | split

theorem State.packedWriteAt_posts {r s : State} (h : r.Posts s) (c : Client) (l : Leaf) (va : ℕ) (data : List Byte) (bads : List Bool) : r.Posts
    (State.packedWriteAt s c l va data bads).1 := by
  unfold State.packedWriteAt
  repeat' first
    | with_reducible assumption
    | with_reducible exact Posts.refl _
    | with_reducible apply Posts.ite
    | with_reducible apply Posts.ite_fst
    | with_reducible apply readDir_posts
    | with_reducible apply waitForDir_posts
    | with_reducible apply dirDamage_posts
    | with_reducible apply oldBlocks_posts
    | with_reducible apply ev_posts
    | with_reducible apply dirBusy_posts
    | with_reducible apply raiseVf_posts
    | with_reducible apply mark_posts
    | with_reducible apply holdPacked_posts
    | with_reducible apply putSub_posts
    | with_reducible apply physWrite_posts
    | rw [List.foldl_cons]
    | rw [List.foldl_nil]
    | exact Fld.postsOk rfl
    | exact Hid.postsOk rfl
    | decide
    | with_reducible refine Posts.foldl ?_ (fun u x => ?_)
    | with_reducible refine Posts.foldl_fst ?_ (fun u x => ?_)
    | with_reducible apply postsParts_of
    | intro _
    | with_reducible refine Posts.of_eq (by assumption) ?_
    | with_reducible refine Posts.of_eq_snd (by assumption) ?_
    | simp only [posts_mk]
    | split

theorem State.packedFault_posts {r s : State} (h : r.Posts s) (c : Client) (va : ℕ) (write : Bool) (cause : ℕ) : r.Posts (State.packedFault s c va
    write cause) := by
  unfold State.packedFault
  repeat' first
    | with_reducible assumption
    | with_reducible exact Posts.refl _
    | with_reducible apply Posts.ite
    | with_reducible apply raiseFault_posts
    | exact Fld.postsOk rfl
    | exact Hid.postsOk rfl
    | decide
    | with_reducible apply postsParts_of
    | intro _
    | with_reducible refine Posts.of_eq (by assumption) ?_
    | with_reducible refine Posts.of_eq_snd (by assumption) ?_
    | simp only [posts_mk]
    | split

theorem State.readPieces_posts {r s : State} (h : r.Posts s) (c : Client) (va : ℕ) (n : ℕ) (y4 : ℕ) : r.Posts (State.readPieces s c va n y4).1 := by
  induction y4 generalizing s c va n with
  | zero =>
    unfold State.readPieces
    repeat' first
      | with_reducible assumption
      | with_reducible exact Posts.refl _
      | with_reducible apply Posts.ite
      | with_reducible apply Posts.ite_fst
      | with_reducible apply xlate_posts
      | with_reducible apply packedRead_posts
      | with_reducible apply packedFault_posts
      | with_reducible apply readPiece_posts
      | exact Fld.postsOk rfl
      | exact Hid.postsOk rfl
      | decide
      | with_reducible apply postsParts_of
      | intro _
      | with_reducible refine Posts.of_eq (by assumption) ?_
      | with_reducible refine Posts.of_eq_snd (by assumption) ?_
      | simp only [posts_mk]
      | split
  | succ n0 ih =>
    unfold State.readPieces
    repeat' first
      | with_reducible assumption
      | with_reducible exact Posts.refl _
      | with_reducible apply Posts.ite
      | with_reducible apply Posts.ite_fst
      | with_reducible apply xlate_posts
      | with_reducible apply packedRead_posts
      | with_reducible apply packedFault_posts
      | with_reducible apply readPiece_posts
      | with_reducible apply ih
      | exact Fld.postsOk rfl
      | exact Hid.postsOk rfl
      | decide
      | with_reducible apply postsParts_of
      | intro _
      | with_reducible refine Posts.of_eq (by assumption) ?_
      | with_reducible refine Posts.of_eq_snd (by assumption) ?_
      | simp only [posts_mk]
      | split

theorem State.writePlain_posts {r s : State} (h : r.Posts s) (c : Client) (l : Leaf) (va : ℕ) (d : List Byte) (bads : List Bool) (shadow : Option (ℕ ×
    ℕ)) : r.Posts (State.writePlain s c l va d bads shadow).1 := by
  unfold State.writePlain
  repeat' first
    | with_reducible assumption
    | with_reducible exact Posts.refl _
    | with_reducible apply Posts.ite
    | with_reducible apply Posts.ite_fst
    | with_reducible apply packedWriteAt_posts
    | with_reducible apply packedFault_posts
    | with_reducible apply writePiece_posts
    | exact Fld.postsOk rfl
    | exact Hid.postsOk rfl
    | decide
    | with_reducible apply postsParts_of
    | intro _
    | with_reducible refine Posts.of_eq (by assumption) ?_
    | with_reducible refine Posts.of_eq_snd (by assumption) ?_
    | simp only [posts_mk]
    | split

theorem State.plainPieces_posts {r s : State} (h : r.Posts s) (c : Client) (va : ℕ) (d : List Byte) (bads : List Bool) (y5 : ℕ) : r.Posts
    (State.plainPieces s c va d bads y5).1 := by
  induction y5 generalizing s c va d bads with
  | zero =>
    unfold State.plainPieces
    repeat' first
      | with_reducible assumption
      | with_reducible exact Posts.refl _
      | with_reducible apply Posts.ite
      | with_reducible apply Posts.ite_fst
      | with_reducible apply xlate_posts
      | with_reducible apply writePlain_posts
      | exact Fld.postsOk rfl
      | exact Hid.postsOk rfl
      | decide
      | with_reducible apply postsParts_of
      | intro _
      | with_reducible refine Posts.of_eq (by assumption) ?_
      | with_reducible refine Posts.of_eq_snd (by assumption) ?_
      | simp only [posts_mk]
      | split
  | succ n0 ih =>
    unfold State.plainPieces
    repeat' first
      | with_reducible assumption
      | with_reducible exact Posts.refl _
      | with_reducible apply Posts.ite
      | with_reducible apply Posts.ite_fst
      | with_reducible apply xlate_posts
      | with_reducible apply writePlain_posts
      | with_reducible apply ih
      | exact Fld.postsOk rfl
      | exact Hid.postsOk rfl
      | decide
      | with_reducible apply postsParts_of
      | intro _
      | with_reducible refine Posts.of_eq (by assumption) ?_
      | with_reducible refine Posts.of_eq_snd (by assumption) ?_
      | simp only [posts_mk]
      | split

theorem State.readLedger_posts {r s : State} (h : r.Posts s) (c : Client) (obj : ℕ) : r.Posts (State.readLedger s c obj).1 := by
  unfold State.readLedger
  repeat' first
    | with_reducible assumption
    | with_reducible exact Posts.refl _
    | with_reducible apply Posts.ite
    | with_reducible apply Posts.ite_fst
    | with_reducible apply readPieces_posts
    | with_reducible apply raiseFault_posts
    | exact Fld.postsOk rfl
    | exact Hid.postsOk rfl
    | decide
    | with_reducible apply postsParts_of
    | intro _
    | with_reducible refine Posts.of_eq (by assumption) ?_
    | with_reducible refine Posts.of_eq_snd (by assumption) ?_
    | simp only [posts_mk]
    | split

theorem State.clearShadow_posts {r s : State} (h : r.Posts s) (q : ℕ) (obj : ℕ) : r.Posts (State.clearShadow s q obj) := by
  unfold State.clearShadow
  repeat' first
    | with_reducible assumption
    | with_reducible exact Posts.refl _
    | with_reducible apply Posts.ite
    | with_reducible apply Posts.ite_fst
    | with_reducible apply readPieces_posts
    | with_reducible apply plainPieces_posts
    | exact Fld.postsOk rfl
    | exact Hid.postsOk rfl
    | decide
    | with_reducible apply postsParts_of
    | intro _
    | with_reducible refine Posts.of_eq (by assumption) ?_
    | with_reducible refine Posts.of_eq_snd (by assumption) ?_
    | simp only [posts_mk]
    | split

theorem State.secondWrite_posts {r s : State} (h : r.Posts s) (q : ℕ) (obj : ℕ) (va : ℕ) (d : List Byte) (bads : List Bool) : r.Posts
    (State.secondWrite s q obj va d bads) := by
  unfold State.secondWrite
  repeat' first
    | with_reducible assumption
    | with_reducible exact Posts.refl _
    | with_reducible apply Posts.ite
    | with_reducible apply Posts.ite_fst
    | with_reducible apply plainPieces_posts
    | with_reducible apply clearShadow_posts
    | exact Fld.postsOk rfl
    | exact Hid.postsOk rfl
    | decide
    | with_reducible apply postsParts_of
    | intro _
    | with_reducible refine Posts.of_eq (by assumption) ?_
    | with_reducible refine Posts.of_eq_snd (by assumption) ?_
    | simp only [posts_mk]
    | split

theorem State.restoreWrite_posts {r s : State} (h : r.Posts s) (l : PLine) : r.Posts (State.restoreWrite s l) := by
  unfold State.restoreWrite
  repeat' first
    | with_reducible assumption
    | with_reducible exact Posts.refl _
    | with_reducible apply Posts.ite
    | with_reducible apply secondWrite_posts
    | exact Fld.postsOk rfl
    | exact Hid.postsOk rfl
    | decide
    | with_reducible apply postsParts_of
    | intro _
    | with_reducible refine Posts.of_eq (by assumption) ?_
    | with_reducible refine Posts.of_eq_snd (by assumption) ?_
    | simp only [posts_mk]
    | split

theorem State.settle_posts {r s : State} (h : r.Posts s) : r.Posts (State.settle s) := by
  unfold State.settle
  repeat' first
    | with_reducible assumption
    | with_reducible exact Posts.refl _
    | with_reducible apply Posts.ite
    | with_reducible apply restoreWrite_posts
    | rw [List.foldl_cons]
    | rw [List.foldl_nil]
    | exact Fld.postsOk rfl
    | exact Hid.postsOk rfl
    | decide
    | with_reducible refine Posts.foldl ?_ (fun u x => ?_)
    | with_reducible refine Posts.foldl_fst ?_ (fun u x => ?_)
    | with_reducible apply postsParts_of
    | intro _
    | with_reducible refine Posts.of_eq (by assumption) ?_
    | with_reducible refine Posts.of_eq_snd (by assumption) ?_
    | simp only [posts_mk]
    | split

theorem State.shadowFor_posts {r s : State} (h : r.Posts s) (c : Client) (l : Leaf) (va : ℕ) : r.Posts (State.shadowFor s c l va).1 := by
  unfold State.shadowFor
  repeat' first
    | with_reducible assumption
    | with_reducible exact Posts.refl _
    | with_reducible apply Posts.ite
    | with_reducible apply Posts.ite_fst
    | with_reducible apply readLedger_posts
    | with_reducible apply clearShadow_posts
    | exact Fld.postsOk rfl
    | exact Hid.postsOk rfl
    | decide
    | with_reducible apply postsParts_of
    | intro _
    | with_reducible refine Posts.of_eq (by assumption) ?_
    | with_reducible refine Posts.of_eq_snd (by assumption) ?_
    | simp only [posts_mk]
    | split

theorem State.writeOne_posts {r s : State} (h : r.Posts s) (c : Client) (l : Leaf) (va : ℕ) (d : List Byte) (bads : List Bool) : r.Posts
    (State.writeOne s c l va d bads).1 := by
  unfold State.writeOne
  repeat' first
    | with_reducible assumption
    | with_reducible exact Posts.refl _
    | with_reducible apply Posts.ite
    | with_reducible apply Posts.ite_fst
    | with_reducible apply shadowFor_posts
    | with_reducible apply secondWrite_posts
    | with_reducible apply writePlain_posts
    | exact Fld.postsOk rfl
    | exact Hid.postsOk rfl
    | decide
    | with_reducible apply postsParts_of
    | intro _
    | with_reducible refine Posts.of_eq (by assumption) ?_
    | with_reducible refine Posts.of_eq_snd (by assumption) ?_
    | simp only [posts_mk]
    | split

theorem State.writePieces_posts {r s : State} (h : r.Posts s) (c : Client) (va : ℕ) (d : List Byte) (bads : List Bool) (y5 : ℕ) : r.Posts
    (State.writePieces s c va d bads y5).1 := by
  induction y5 generalizing s c va d bads with
  | zero =>
    unfold State.writePieces
    repeat' first
      | with_reducible assumption
      | with_reducible exact Posts.refl _
      | with_reducible apply Posts.ite
      | with_reducible apply Posts.ite_fst
      | with_reducible apply xlate_posts
      | with_reducible apply writeOne_posts
      | exact Fld.postsOk rfl
      | exact Hid.postsOk rfl
      | decide
      | with_reducible apply postsParts_of
      | intro _
      | with_reducible refine Posts.of_eq (by assumption) ?_
      | with_reducible refine Posts.of_eq_snd (by assumption) ?_
      | simp only [posts_mk]
      | split
  | succ n0 ih =>
    unfold State.writePieces
    repeat' first
      | with_reducible assumption
      | with_reducible exact Posts.refl _
      | with_reducible apply Posts.ite
      | with_reducible apply Posts.ite_fst
      | with_reducible apply xlate_posts
      | with_reducible apply writeOne_posts
      | with_reducible apply ih
      | exact Fld.postsOk rfl
      | exact Hid.postsOk rfl
      | decide
      | with_reducible apply postsParts_of
      | intro _
      | with_reducible refine Posts.of_eq (by assumption) ?_
      | with_reducible refine Posts.of_eq_snd (by assumption) ?_
      | simp only [posts_mk]
      | split

theorem State.vwriteL_posts {r s : State} (h : r.Posts s) (c : Client) (va : ℕ) (d : List Byte) (bads : List Bool) : r.Posts (State.vwriteL s c va d
    bads).1 := by
  unfold State.vwriteL
  repeat' first
    | with_reducible assumption
    | with_reducible exact Posts.refl _
    | with_reducible apply Posts.ite
    | with_reducible apply Posts.ite_fst
    | with_reducible apply writePieces_posts
    | with_reducible apply settle_posts
    | exact Fld.postsOk rfl
    | exact Hid.postsOk rfl
    | decide
    | with_reducible apply postsParts_of
    | intro _
    | with_reducible refine Posts.of_eq (by assumption) ?_
    | with_reducible refine Posts.of_eq_snd (by assumption) ?_
    | simp only [posts_mk]
    | split

theorem State.vwrite_posts {r s : State} (h : r.Posts s) (c : Client) (va : ℕ) (d : List Byte) : r.Posts (State.vwrite s c va d).1 := by
  unfold State.vwrite
  repeat' first
    | with_reducible assumption
    | with_reducible exact Posts.refl _
    | with_reducible apply Posts.ite
    | with_reducible apply Posts.ite_fst
    | with_reducible apply vwriteL_posts
    | exact Fld.postsOk rfl
    | exact Hid.postsOk rfl
    | decide
    | with_reducible apply postsParts_of
    | intro _
    | with_reducible refine Posts.of_eq (by assumption) ?_
    | with_reducible refine Posts.of_eq_snd (by assumption) ?_
    | simp only [posts_mk]
    | split

theorem State.pageVector_posts {r s : State} (h : r.Posts s) (page : ℕ) : r.Posts (State.pageVector s page) := by
  unfold State.pageVector
  repeat' first
    | with_reducible assumption
    | with_reducible exact Posts.refl _
    | with_reducible apply Posts.ite
    | with_reducible apply raiseVf_posts
    | with_reducible apply sendMsix_posts
    | exact Fld.postsOk rfl
    | exact Hid.postsOk rfl
    | decide
    | with_reducible apply postsParts_of
    | intro _
    | with_reducible refine Posts.of_eq (by assumption) ?_
    | with_reducible refine Posts.of_eq_snd (by assumption) ?_
    | simp only [posts_mk]
    | split

theorem State.ringFault_posts {r s : State} (h : r.Posts s) (page : ℕ) : r.Posts (State.ringFault s page) := by
  unfold State.ringFault
  repeat' first
    | with_reducible assumption
    | with_reducible exact Posts.refl _
    | with_reducible apply Posts.ite
    | with_reducible apply wr_posts
    | with_reducible apply mark_posts
    | with_reducible apply raiseVf_posts
    | with_reducible apply raisePf_posts
    | exact Fld.postsOk rfl
    | exact Hid.postsOk rfl
    | decide
    | with_reducible apply postsParts_of
    | intro _
    | with_reducible refine Posts.of_eq (by assumption) ?_
    | with_reducible refine Posts.of_eq_snd (by assumption) ?_
    | simp only [posts_mk]
    | split

theorem State.ringWrite_posts {r s : State} (h : r.Posts s) (page : ℕ) (loc : ℕ) (a : ℕ) (d : List Byte) : r.Posts (State.ringWrite s page loc a d).1
    := by
  unfold State.ringWrite
  repeat' first
    | with_reducible assumption
    | with_reducible exact Posts.refl _
    | with_reducible apply Posts.ite
    | with_reducible apply Posts.ite_fst
    | with_reducible apply setBytes_posts
    | with_reducible apply vwrite_posts
    | exact Fld.postsOk rfl
    | exact Hid.postsOk rfl
    | decide
    | with_reducible apply postsParts_of
    | intro _
    | with_reducible refine Posts.of_eq (by assumption) ?_
    | with_reducible refine Posts.of_eq_snd (by assumption) ?_
    | simp only [posts_mk]
    | split

theorem State.postNow_posts {r s : State} (h : r.Posts s) (page : ℕ) (c : Cpl) : r.Posts (State.postNow s page c).1 := by
  unfold State.postNow
  repeat' first
    | with_reducible assumption
    | with_reducible exact Posts.refl _
    | with_reducible apply Posts.ite
    | with_reducible apply Posts.ite_fst
    | with_reducible apply ringWrite_posts
    | with_reducible apply pageVector_posts
    | with_reducible apply wr_posts
    | with_reducible apply ringFault_posts
    | exact Fld.postsOk rfl
    | exact Hid.postsOk rfl
    | decide
    | with_reducible apply postsParts_of
    | intro _
    | with_reducible refine Posts.of_eq (by assumption) ?_
    | with_reducible refine Posts.of_eq_snd (by assumption) ?_
    | simp only [posts_mk]
    | split

theorem State.endCqWait_posts {r s : State} (h : r.Posts s) (page : ℕ) : r.Posts (State.endCqWait s page) := by
  unfold State.endCqWait
  repeat' first
    | with_reducible assumption
    | with_reducible exact Posts.refl _
    | with_reducible apply Posts.ite
    | with_reducible apply setH_posts
    | with_reducible apply ev_posts
    | exact Fld.postsOk rfl
    | exact Hid.postsOk rfl
    | decide
    | with_reducible apply postsParts_of
    | intro _
    | with_reducible refine Posts.of_eq (by assumption) ?_
    | with_reducible refine Posts.of_eq_snd (by assumption) ?_
    | simp only [posts_mk]
    | split

theorem State.drainCq_posts {r s : State} (h : r.Posts s) (page : ℕ) (y2 : ℕ) : r.Posts (State.drainCq s page y2) := by
  induction y2 generalizing s page with
  | zero =>
    unfold State.drainCq
    repeat' first
      | with_reducible assumption
      | with_reducible exact Posts.refl _
      | with_reducible apply Posts.ite
      | with_reducible apply Posts.ite_fst
      | with_reducible apply setH_posts
      | with_reducible apply postNow_posts
      | with_reducible apply endCqWait_posts
      | exact Fld.postsOk rfl
      | exact Hid.postsOk rfl
      | decide
      | with_reducible apply postsParts_of
      | intro _
      | with_reducible refine Posts.of_eq (by assumption) ?_
      | with_reducible refine Posts.of_eq_snd (by assumption) ?_
      | simp only [posts_mk]
      | split
  | succ n0 ih =>
    unfold State.drainCq
    repeat' first
      | with_reducible assumption
      | with_reducible exact Posts.refl _
      | with_reducible apply Posts.ite
      | with_reducible apply Posts.ite_fst
      | with_reducible apply setH_posts
      | with_reducible apply postNow_posts
      | with_reducible apply endCqWait_posts
      | with_reducible apply ih
      | exact Fld.postsOk rfl
      | exact Hid.postsOk rfl
      | decide
      | with_reducible apply postsParts_of
      | intro _
      | with_reducible refine Posts.of_eq (by assumption) ?_
      | with_reducible refine Posts.of_eq_snd (by assumption) ?_
      | simp only [posts_mk]
      | split

theorem State.complete_posts {r s : State} (h : r.Posts s) (page : ℕ) (c : Cpl) : r.Posts (State.complete s page c) := by
  unfold State.complete
  repeat' first
    | with_reducible assumption
    | with_reducible exact Posts.refl _
    | with_reducible apply Posts.ite
    | with_reducible apply wr_posts
    | with_reducible apply setH_posts
    | with_reducible apply raiseVf_posts
    | with_reducible apply sendMsix_posts
    | with_reducible apply drainCq_posts
    | exact Fld.postsOk rfl
    | exact Hid.postsOk rfl
    | decide
    | with_reducible apply postsParts_of
    | intro _
    | with_reducible refine Posts.of_eq (by assumption) ?_
    | with_reducible refine Posts.of_eq_snd (by assumption) ?_
    | simp only [posts_mk]
    | split

theorem State.done_posts {r s : State} (h : r.Posts s) (e : SubEntry) (status : ℕ) (res0 : ℕ) : r.Posts (State.done s e status res0) := by
  unfold State.done
  repeat' first
    | with_reducible assumption
    | with_reducible exact Posts.refl _
    | with_reducible apply Posts.ite
    | with_reducible apply complete_posts
    | exact Fld.postsOk rfl
    | exact Hid.postsOk rfl
    | decide
    | with_reducible apply postsParts_of
    | intro _
    | with_reducible refine Posts.of_eq (by assumption) ?_
    | with_reducible refine Posts.of_eq_snd (by assumption) ?_
    | simp only [posts_mk]
    | split

end Sys2Proof.Machine

end
end

