-- ==== Sys2Proof/Laws/SealedBase.lean ====
section
/-! SUPPORT. The relation `State.Sealed` (no key slot changes) for the operations that change a state, and how it goes through what the meanings are built
of. -/

namespace Sys2Proof.Machine

theorem Fld.keyed_ro {f : Fld} (h : f.keyed = true) : f.info.acc = .ro := by
  unfold Fld.keyed at h
  split at h <;> first | rfl | cases h

/-- A field that software or a read may change is none of these. -/
theorem Fld.keyed_acc {f : Fld} {a : Access} (ha : f.info.acc = a) (hne : a ≠ .ro) : f.keyed = false := by
  by_contra hk
  exact hne (ha.symm.trans (Fld.keyed_ro (by simpa using hk)))

theorem Fld.keyFree {f : Fld} (h : (!f.keyed) = true) : f.keyed = false := by simpa using h

theorem Hid.keyFree {x : Hid} (h : (x == .keyNum) = false) : x ≠ .keyNum := by
  rintro rfl
  cases h

namespace State

theorem balFld_keyFree (c : Nat) : (balFld c).keyed = false := by
  unfold balFld
  split <;> rfl

theorem Sealed.refl (s : State) : s.Sealed s := ⟨rfl, fun _ => rfl, fun _ _ _ => rfl⟩

theorem Sealed.trans {s t u : State} (h1 : s.Sealed t) (h2 : t.Sealed u) : s.Sealed u :=
  ⟨h2.lt09.trans h1.lt09, fun q => (h2.key q).trans (h1.key q), fun f i h => (h2.regs f i h).trans (h1.regs f i h)⟩

/-- An update of anything but the kind of module, the registers and the hidden scalars. -/
theorem Sealed.upd {s t u : State} (h : s.Sealed t) (hl : u.lt09 = t.lt09) (hh : u.hid = t.hid) (hr : u.regs = t.regs) : s.Sealed u :=
  h.trans ⟨hl, fun q => by simp [State.h, hh], fun f i _ => by simp [rd, hl, hr]⟩

/-- `Sealed` for the parts of a state that it speaks of. -/
def SealedParts (s : State) (l : Bool) (g d : Tab Nat) : Prop := s.Sealed { s with lt09 := l, regs := g, hid := d }

theorem sealedParts_of {s t : State} (h : s.Sealed t) : s.SealedParts t.lt09 t.regs t.hid := Sealed.upd h rfl rfl rfl

theorem hidKey_mod (x : Hid) (i : Nat) : hidKey x i % 512 = x.ctorIdx := by
  have h : x.ctorIdx < 512 := by cases x <;> decide
  unfold hidKey
  omega

theorem sealedParts_keep {s t : State} (h : s.Sealed t) (p : Nat → Bool) (hp : ∀ q, p (hidKey .keyNum q) = true) :
    s.SealedParts t.lt09 t.regs (Tab.keep p t.hid) :=
  h.trans ⟨rfl, fun q => by simp [State.h, Tab.get_keep, hp q], fun _ _ _ => rfl⟩

/-- A record: only the kind of module, the registers and the hidden scalars count. -/
theorem sealed_mk {s : State} {p : List Instr} {l : Bool} {g : Tab Nat} {m k : List Host.Cell}
    {x2 : Nat} {x3 : Nat} {x5 : Tab Nat} {x6 : Tab Nat} {x9 : Tab Nat} {x10 : Tab Nat} {x11 : List PLine} {x12 : List TlbEnt} {x13 : List Stall}
    {x14 : List Op} {x15 : List Nat} {x16 : List Nat} {x17 : List Nat} {x18 : List Strip} {x19 : List (Nat × Nat)} {x20 : List Fence} {x21 : List
    Suspect} {x22 : List Repeat} {x23 : List HistNow} {x24 : List (Nat × Cpl)} {x25 : Tab Nat} {x26 : Tab Nat} {x27 : List Late} {x28 : List (Nat
    × Nat)} {x29 : List IntMsg} {x30 : Reply} {x31 : List PLine} {x32 : List (Nat × List Byte)} {x33 : List PackStall} {x34 : List Claim} {x35 :
    List Req} {x36 : Tab Engine} {x37 : List (Nat × Nat × Nat × MemReq)} {x38 : Tab Nat} {x39 : List (Nat × Nat)} {x40 : List (Nat × List Nat)}
    {x41 : List Repair} {x42 : List (Nat × Nat × Nat × Nat)} {x43 : Option Snap} {x44 : Tab Nat} {x45 : List FeTx} {x46 : List FeRx} {x47 : List
    FeHeld} {x48 : List (Nat × List Byte)} {x49 : List (Nat × Nat × Nat × Nat)} {x50 : List (Nat × Nat × Nat)} {x51 : List InReq} {x52 : List
    CoreAcc} {x53 : List DirectStore} {x54 : List L2Line} {x55 : List Nat} :
    s.Sealed (State.mk p l x2 x3 g x5 x6 m k x9 x10 x11 x12 x13 x14 x15 x16 x17 x18 x19 x20 x21 x22 x23 x24 x25 x26 x27 x28 x29 x30 x31 x32 x33
      x34 x35 x36 x37 x38 x39 x40 x41 x42 x43 x44 x45 x46 x47 x48 x49 x50 x51 x52 x53 x54 x55) ↔ s.SealedParts l g x6 :=
  ⟨fun h => Sealed.upd h rfl rfl rfl, fun h => Sealed.upd h rfl rfl rfl⟩

theorem Sealed.ite {s a b : State} {c : Prop} [Decidable c] (ha : s.Sealed a) (hb : s.Sealed b) : s.Sealed (if c then a else b) := by
  split
  · exact ha
  · exact hb

theorem Sealed.ite_fst {α : Type} {s : State} {a b : State × α} {c : Prop} [Decidable c] (ha : s.Sealed a.1) (hb : s.Sealed b.1) :
    s.Sealed (if c then a else b).1 := by
  split
  · exact ha
  · exact hb

theorem Sealed.foldl {α : Type} {s t : State} {f : State → α → State} {l : List α} (ht : s.Sealed t) (hf : ∀ (u : State) (x : α), u.Sealed (f u x)) :
    s.Sealed (l.foldl f t) := by
  induction l generalizing t with
  | nil => exact ht
  | cons x l ih => exact ih (ht.trans (hf t x))

/-- A fold that carries something beside the state. -/
theorem Sealed.foldl_fst {α β : Type} {s : State} {p : State × β} {f : State × β → α → State × β} {l : List α} (ht : s.Sealed p.1)
    (hf : ∀ (u : State × β) (x : α), u.1.Sealed (f u x).1) : s.Sealed (l.foldl f p).1 := by
  induction l generalizing p with
  | nil => exact ht
  | cons x l ih => exact ih (ht.trans (hf p x))

/-- A fold over what an engine carries. -/
theorem Sealed.foldl_st {α : Type} {s : State} {p : BankOut} {f : BankOut → α → BankOut} {l : List α} (ht : s.Sealed p.st)
    (hf : ∀ (u : BankOut) (x : α), u.st.Sealed (f u x).st) : s.Sealed (l.foldl f p).st := by
  induction l generalizing p with
  | nil => exact ht
  | cons x l ih => exact ih (ht.trans (hf p x))

theorem Sealed.ite_st {s : State} {a b : BankOut} {c : Prop} [Decidable c] (ha : s.Sealed a.st) (hb : s.Sealed b.st) :
    s.Sealed (if c then a else b).st := by
  split
  · exact ha
  · exact hb

/-- The state in a pair that a function gave. -/
theorem Sealed.of_eq {α : Type} {s t : State} {p : State × α} {x : α} (h : p = (t, x)) (hk : s.Sealed p.1) : s.Sealed t := by
  rw [h] at hk
  exact hk

theorem Sealed.of_eq_snd {α : Type} {s t : State} {p : α × State} {x : α} (h : p = (x, t)) (hk : s.Sealed p.2) : s.Sealed t := by
  rw [h] at hk
  exact hk

theorem wr_sealed {r s : State} (h : r.Sealed s) (f : Fld) (i v : Nat) (hf : f.keyed = false) : r.Sealed (s.wr f i v) :=
  h.trans ⟨rfl, fun _ => rfl, fun g j hg => by
    rw [rd_wr_other]
    refine Or.inl (fun he => ?_)
    subst he
    rw [hf] at hg
    cases hg⟩

theorem setH_sealed {r s : State} (h : r.Sealed s) (x : Hid) (i v : Nat) (hx : x ≠ .keyNum) : r.Sealed (s.setH x i v) :=
  h.trans ⟨rfl, fun _ => h_setH_other _ _ (Or.inl hx), fun _ _ _ => rfl⟩

theorem fresh_sealed {r s : State} (h : r.Sealed s) : r.Sealed s.fresh.2 := setH_sealed h _ _ _ (by simp)

theorem newId_sealed {r s : State} (h : r.Sealed s) : r.Sealed s.newId.2 := setH_sealed h _ _ _ (by simp)

theorem setByte_sealed {r s : State} (h : r.Sealed s) (t u a : Nat) (b : Byte) : r.Sealed (s.setByte t u a b) := by
  refine h.trans ?_
  unfold setByte
  split
  · exact ⟨rfl, fun _ => rfl, fun _ _ _ => rfl⟩
  · exact ⟨rfl, fun _ => rfl, fun _ _ _ => rfl⟩

theorem setBytes_sealed {r s : State} (h : r.Sealed s) (t u a : Nat) (bs : List Byte) : r.Sealed (s.setBytes t u a bs) := by
  induction bs generalizing s a with
  | nil => exact h
  | cons b bs ih => exact ih (setByte_sealed h t u a b) (a + 1)

theorem wipe_sealed {r s : State} (h : r.Sealed s) (p : Nat → Nat → Nat → Bool) : r.Sealed (s.wipe p) := h.trans ⟨rfl, fun _ => rfl, fun _ _ _ => rfl⟩

/-- An answer that is a next state with the same keys. -/
structure SealedNext (s : State) (o : Host.Outcome State Fault Refusal) : Prop where
  out : ∀ t, o = .next t → s.Sealed t

theorem SealedNext.next {s t : State} (h : s.Sealed t) : s.SealedNext (.next t) := ⟨fun _ he => by
  cases he
  exact h⟩

theorem SealedNext.ite {s : State} {a b : Host.Outcome State Fault Refusal} {c : Prop} [Decidable c] (ha : s.SealedNext a)
    (hb : s.SealedNext b) : s.SealedNext (if c then a else b) := by
  split
  · exact ha
  · exact hb

end State

end Sys2Proof.Machine
end

