-- ==== Sys2Proof/Laws/Sealed.lean ====
section
/-! SUPPORT. `State.Sealed` (no key slot changes) for every operation and command of which it holds: one lemma each, in the order of the files of the
machine. -/

section

-- One theorem at a time: the text as a whole then needs far less memory.
set_option Elab.async false
set_option linter.all false

namespace Sys2Proof.Machine

open State

theorem State.addH_sealed {r s : State} (h : r.Sealed s) (x : Hid) (i : ℕ) (n : ℕ) (hxx : x ≠ .keyNum) : r.Sealed (State.addH s x i n) := by
  unfold State.addH
  repeat' first
    | with_reducible assumption
    | with_reducible exact Sealed.refl _
    | with_reducible apply Sealed.ite
    | with_reducible apply setH_sealed
    | exact Fld.keyFree rfl
    | exact Hid.keyFree rfl
    | exact balFld_keyFree _
    | decide
    | with_reducible apply sealedParts_of
    | intro _
    | with_reducible refine Sealed.of_eq (by assumption) ?_
    | with_reducible refine Sealed.of_eq_snd (by assumption) ?_
    | simp only [sealed_mk]
    | split

theorem State.bump_sealed {r s : State} (h : r.Sealed s) (f : Fld) (i : ℕ) (n : ℕ) (hff : f.keyed = false) : r.Sealed (State.bump s f i n) := by
  unfold State.bump
  repeat' first
    | with_reducible assumption
    | with_reducible exact Sealed.refl _
    | with_reducible apply Sealed.ite
    | with_reducible apply wr_sealed
    | with_reducible apply setH_sealed
    | exact Fld.keyFree rfl
    | exact Hid.keyFree rfl
    | exact balFld_keyFree _
    | decide
    | with_reducible apply sealedParts_of
    | intro _
    | with_reducible refine Sealed.of_eq (by assumption) ?_
    | with_reducible refine Sealed.of_eq_snd (by assumption) ?_
    | simp only [sealed_mk]
    | split

theorem State.mark_sealed {r s : State} (h : r.Sealed s) (f : Fld) (i : ℕ) (hff : f.keyed = false) : r.Sealed (State.mark s f i) := by
  unfold State.mark
  repeat' first
    | with_reducible assumption
    | with_reducible exact Sealed.refl _
    | with_reducible apply Sealed.ite
    | with_reducible apply setH_sealed
    | with_reducible apply wr_sealed
    | exact Fld.keyFree rfl
    | exact Hid.keyFree rfl
    | exact balFld_keyFree _
    | decide
    | with_reducible apply sealedParts_of
    | intro _
    | with_reducible refine Sealed.of_eq (by assumption) ?_
    | with_reducible refine Sealed.of_eq_snd (by assumption) ?_
    | simp only [sealed_mk]
    | split

theorem State.firstError_sealed {r s : State} (h : r.Sealed s) (f : Fld) (i : ℕ) (fill : State → State) (hff : f.keyed = false) (hfill : ∀ (u :
    State), u.Sealed (fill u)) : r.Sealed (State.firstError s f i fill) := by
  unfold State.firstError
  repeat' first
    | with_reducible assumption
    | with_reducible exact Sealed.refl _
    | with_reducible apply Sealed.ite
    | with_reducible refine Sealed.trans ?_ (hfill _)
    | with_reducible apply mark_sealed
    | exact Fld.keyFree rfl
    | exact Hid.keyFree rfl
    | exact balFld_keyFree _
    | decide
    | with_reducible apply sealedParts_of
    | intro _
    | with_reducible refine Sealed.of_eq (by assumption) ?_
    | with_reducible refine Sealed.of_eq_snd (by assumption) ?_
    | simp only [sealed_mk]
    | split

theorem State.pmcBump_sealed {r s : State} (h : r.Sealed s) (i : ℕ) (n : ℕ) : r.Sealed (State.pmcBump s i n) := by
  unfold State.pmcBump
  repeat' first
    | with_reducible assumption
    | with_reducible exact Sealed.refl _
    | with_reducible apply Sealed.ite
    | with_reducible apply mark_sealed
    | with_reducible apply wr_sealed
    | exact Fld.keyFree rfl
    | exact Hid.keyFree rfl
    | exact balFld_keyFree _
    | decide
    | with_reducible apply sealedParts_of
    | intro _
    | with_reducible refine Sealed.of_eq (by assumption) ?_
    | with_reducible refine Sealed.of_eq_snd (by assumption) ?_
    | simp only [sealed_mk]
    | split

theorem State.evFrom_sealed {r s : State} (h : r.Sealed s) (code : ℕ) (q : ℕ) (inst : ℕ) (t : ℕ) (n : ℕ) : r.Sealed (State.evFrom s code q inst t n)
    := by
  unfold State.evFrom
  repeat' first
    | with_reducible assumption
    | with_reducible exact Sealed.refl _
    | with_reducible apply Sealed.ite
    | with_reducible apply pmcBump_sealed
    | with_reducible apply setH_sealed
    | rw [List.foldl_cons]
    | rw [List.foldl_nil]
    | exact Fld.keyFree rfl
    | exact Hid.keyFree rfl
    | exact balFld_keyFree _
    | decide
    | with_reducible refine Sealed.foldl ?_ (fun u x => ?_)
    | with_reducible refine Sealed.foldl_fst ?_ (fun u x => ?_)
    | with_reducible apply sealedParts_of
    | intro _
    | with_reducible refine Sealed.of_eq (by assumption) ?_
    | with_reducible refine Sealed.of_eq_snd (by assumption) ?_
    | simp only [sealed_mk]
    | split

theorem State.ev_sealed {r s : State} (h : r.Sealed s) (code : ℕ) (q : ℕ) (inst : ℕ) (n : ℕ) : r.Sealed (State.ev s code q inst n) := by
  unfold State.ev
  repeat' first
    | with_reducible assumption
    | with_reducible exact Sealed.refl _
    | with_reducible apply Sealed.ite
    | with_reducible apply evFrom_sealed
    | exact Fld.keyFree rfl
    | exact Hid.keyFree rfl
    | exact balFld_keyFree _
    | decide
    | with_reducible apply sealedParts_of
    | intro _
    | with_reducible refine Sealed.of_eq (by assumption) ?_
    | with_reducible refine Sealed.of_eq_snd (by assumption) ?_
    | simp only [sealed_mk]
    | split

theorem State.span_sealed {r s : State} (h : r.Sealed s) (x : Hid) (i : ℕ) (on : Bool) (code : ℕ) (q : ℕ) (inst : ℕ) (hxx : x ≠ .keyNum) : r.Sealed
    (State.span s x i on code q inst) := by
  unfold State.span
  repeat' first
    | with_reducible assumption
    | with_reducible exact Sealed.refl _
    | with_reducible apply Sealed.ite
    | with_reducible apply setH_sealed
    | with_reducible apply evFrom_sealed
    | exact Fld.keyFree rfl
    | exact Hid.keyFree rfl
    | exact balFld_keyFree _
    | decide
    | with_reducible apply sealedParts_of
    | intro _
    | with_reducible refine Sealed.of_eq (by assumption) ?_
    | with_reducible refine Sealed.of_eq_snd (by assumption) ?_
    | simp only [sealed_mk]
    | split

theorem State.advance_sealed {r s : State} (h : r.Sealed s) (n : ℕ) : r.Sealed (State.advance s n) := by
  unfold State.advance
  repeat' first
    | with_reducible assumption
    | with_reducible exact Sealed.refl _
    | with_reducible apply Sealed.ite
    | with_reducible apply ev_sealed
    | exact Fld.keyFree rfl
    | exact Hid.keyFree rfl
    | exact balFld_keyFree _
    | decide
    | with_reducible apply sealedParts_of
    | intro _
    | with_reducible refine Sealed.of_eq (by assumption) ?_
    | with_reducible refine Sealed.of_eq_snd (by assumption) ?_
    | simp only [sealed_mk]
    | split

theorem State.goTo_sealed {r s : State} (h : r.Sealed s) (t : ℕ) : r.Sealed (State.goTo s t) := by
  unfold State.goTo
  repeat' first
    | with_reducible assumption
    | with_reducible exact Sealed.refl _
    | with_reducible apply Sealed.ite
    | with_reducible apply advance_sealed
    | exact Fld.keyFree rfl
    | exact Hid.keyFree rfl
    | exact balFld_keyFree _
    | decide
    | with_reducible apply sealedParts_of
    | intro _
    | with_reducible refine Sealed.of_eq (by assumption) ?_
    | with_reducible refine Sealed.of_eq_snd (by assumption) ?_
    | simp only [sealed_mk]
    | split

theorem State.sendMsix_sealed {r s : State} (h : r.Sealed s) (port : ℕ) (func : ℕ) (vec : ℕ) : r.Sealed (State.sendMsix s port func vec) := by
  unfold State.sendMsix
  repeat' first
    | with_reducible assumption
    | with_reducible exact Sealed.refl _
    | with_reducible apply Sealed.ite
    | with_reducible apply setH_sealed
    | exact Fld.keyFree rfl
    | exact Hid.keyFree rfl
    | exact balFld_keyFree _
    | decide
    | with_reducible apply sealedParts_of
    | intro _
    | with_reducible refine Sealed.of_eq (by assumption) ?_
    | with_reducible refine Sealed.of_eq_snd (by assumption) ?_
    | simp only [sealed_mk]
    | split

theorem State.raiseVf_sealed {r s : State} (h : r.Sealed s) (q : ℕ) (vec : ℕ) : r.Sealed (State.raiseVf s q vec) := by
  unfold State.raiseVf
  repeat' first
    | with_reducible assumption
    | with_reducible exact Sealed.refl _
    | with_reducible apply Sealed.ite
    | with_reducible apply setH_sealed
    | with_reducible apply sendMsix_sealed
    | exact Fld.keyFree rfl
    | exact Hid.keyFree rfl
    | exact balFld_keyFree _
    | decide
    | with_reducible apply sealedParts_of
    | intro _
    | with_reducible refine Sealed.of_eq (by assumption) ?_
    | with_reducible refine Sealed.of_eq_snd (by assumption) ?_
    | simp only [sealed_mk]
    | split

theorem State.raisePf_sealed {r s : State} (h : r.Sealed s) (vec : ℕ) : r.Sealed (State.raisePf s vec) := by
  unfold State.raisePf
  repeat' first
    | with_reducible assumption
    | with_reducible exact Sealed.refl _
    | with_reducible apply Sealed.ite
    | with_reducible apply sendMsix_sealed
    | exact Fld.keyFree rfl
    | exact Hid.keyFree rfl
    | exact balFld_keyFree _
    | decide
    | with_reducible apply sealedParts_of
    | intro _
    | with_reducible refine Sealed.of_eq (by assumption) ?_
    | with_reducible refine Sealed.of_eq_snd (by assumption) ?_
    | simp only [sealed_mk]
    | split

theorem State.raisePfOther_sealed {r s : State} (h : r.Sealed s) (p : ℕ) (vec : ℕ) : r.Sealed (State.raisePfOther s p vec) := by
  unfold State.raisePfOther
  repeat' first
    | with_reducible assumption
    | with_reducible exact Sealed.refl _
    | with_reducible apply Sealed.ite
    | with_reducible apply sendMsix_sealed
    | exact Fld.keyFree rfl
    | exact Hid.keyFree rfl
    | exact balFld_keyFree _
    | decide
    | with_reducible apply sealedParts_of
    | intro _
    | with_reducible refine Sealed.of_eq (by assumption) ?_
    | with_reducible refine Sealed.of_eq_snd (by assumption) ?_
    | simp only [sealed_mk]
    | split

theorem State.fnErr_sealed {r s : State} (h : r.Sealed s) (f : ℕ) (code : ℕ) (detail : ℕ) : r.Sealed (State.fnErr s f code detail) := by
  unfold State.fnErr
  repeat' first
    | with_reducible assumption
    | with_reducible exact Sealed.refl _
    | with_reducible apply Sealed.ite
    | with_reducible apply bump_sealed
    | with_reducible apply firstError_sealed
    | with_reducible apply wr_sealed
    | with_reducible apply raiseVf_sealed
    | with_reducible apply raisePf_sealed
    | exact Fld.keyFree rfl
    | exact Hid.keyFree rfl
    | exact balFld_keyFree _
    | decide
    | with_reducible apply sealedParts_of
    | intro _
    | with_reducible refine Sealed.of_eq (by assumption) ?_
    | with_reducible refine Sealed.of_eq_snd (by assumption) ?_
    | simp only [sealed_mk]
    | split

theorem State.mcLog_sealed {r s : State} (h : r.Sealed s) (code : ℕ) (q : ℕ) (detail : ℕ) : r.Sealed (State.mcLog s code q detail) := by
  unfold State.mcLog
  repeat' first
    | with_reducible assumption
    | with_reducible exact Sealed.refl _
    | with_reducible apply Sealed.ite
    | with_reducible apply mark_sealed
    | with_reducible apply bump_sealed
    | with_reducible apply setH_sealed
    | with_reducible apply raisePf_sealed
    | with_reducible apply wr_sealed
    | exact Fld.keyFree rfl
    | exact Hid.keyFree rfl
    | exact balFld_keyFree _
    | decide
    | with_reducible apply sealedParts_of
    | intro _
    | with_reducible refine Sealed.of_eq (by assumption) ?_
    | with_reducible refine Sealed.of_eq_snd (by assumption) ?_
    | simp only [sealed_mk]
    | split

theorem State.setOp_sealed {r s : State} (h : r.Sealed s) (o : Op) : r.Sealed (State.setOp s o) := by
  unfold State.setOp
  repeat' first
    | with_reducible assumption
    | with_reducible exact Sealed.refl _
    | with_reducible apply Sealed.ite
    | exact Fld.keyFree rfl
    | exact Hid.keyFree rfl
    | exact balFld_keyFree _
    | decide
    | with_reducible apply sealedParts_of
    | intro _
    | with_reducible refine Sealed.of_eq (by assumption) ?_
    | with_reducible refine Sealed.of_eq_snd (by assumption) ?_
    | simp only [sealed_mk]
    | split

theorem State.startAlloc_sealed {r s : State} (h : r.Sealed s) (q : ℕ) (a : ℕ) : r.Sealed (State.startAlloc s q a) := by
  unfold State.startAlloc
  repeat' first
    | with_reducible assumption
    | with_reducible exact Sealed.refl _
    | with_reducible apply Sealed.ite
    | with_reducible apply setH_sealed
    | exact Fld.keyFree rfl
    | exact Hid.keyFree rfl
    | exact balFld_keyFree _
    | decide
    | with_reducible apply sealedParts_of
    | intro _
    | with_reducible refine Sealed.of_eq (by assumption) ?_
    | with_reducible refine Sealed.of_eq_snd (by assumption) ?_
    | simp only [sealed_mk]
    | split

theorem State.leaveAlloc_sealed {r s : State} (h : r.Sealed s) (id : ℕ) (a : ℕ) : r.Sealed (State.leaveAlloc s id a) := by
  unfold State.leaveAlloc
  repeat' first
    | with_reducible assumption
    | with_reducible exact Sealed.refl _
    | with_reducible apply Sealed.ite
    | with_reducible apply startAlloc_sealed
    | exact Fld.keyFree rfl
    | exact Hid.keyFree rfl
    | exact balFld_keyFree _
    | decide
    | with_reducible apply sealedParts_of
    | intro _
    | with_reducible refine Sealed.of_eq (by assumption) ?_
    | with_reducible refine Sealed.of_eq_snd (by assumption) ?_
    | simp only [sealed_mk]
    | split

theorem State.dropOp_sealed {r s : State} (h : r.Sealed s) (id : ℕ) : r.Sealed (State.dropOp s id) := by
  unfold State.dropOp
  repeat' first
    | with_reducible assumption
    | with_reducible exact Sealed.refl _
    | with_reducible apply Sealed.ite
    | with_reducible apply leaveAlloc_sealed
    | exact Fld.keyFree rfl
    | exact Hid.keyFree rfl
    | exact balFld_keyFree _
    | decide
    | with_reducible apply sealedParts_of
    | intro _
    | with_reducible refine Sealed.of_eq (by assumption) ?_
    | with_reducible refine Sealed.of_eq_snd (by assumption) ?_
    | simp only [sealed_mk]
    | split

theorem State.updOp_sealed {r s : State} (h : r.Sealed s) (id : ℕ) (f : Op → Op) : r.Sealed (State.updOp s id f) := by
  unfold State.updOp
  repeat' first
    | with_reducible assumption
    | with_reducible exact Sealed.refl _
    | with_reducible apply Sealed.ite
    | exact Fld.keyFree rfl
    | exact Hid.keyFree rfl
    | exact balFld_keyFree _
    | decide
    | with_reducible apply sealedParts_of
    | intro _
    | with_reducible refine Sealed.of_eq (by assumption) ?_
    | with_reducible refine Sealed.of_eq_snd (by assumption) ?_
    | simp only [sealed_mk]
    | split

theorem State.setEngine_sealed {r s : State} (h : r.Sealed s) (k : ℕ) (p : ℕ) (e : Engine) : r.Sealed (State.setEngine s k p e) := by
  unfold State.setEngine
  repeat' first
    | with_reducible assumption
    | with_reducible exact Sealed.refl _
    | with_reducible apply Sealed.ite
    | exact Fld.keyFree rfl
    | exact Hid.keyFree rfl
    | exact balFld_keyFree _
    | decide
    | with_reducible apply sealedParts_of
    | intro _
    | with_reducible refine Sealed.of_eq (by assumption) ?_
    | with_reducible refine Sealed.of_eq_snd (by assumption) ?_
    | simp only [sealed_mk]
    | split

theorem State.syncBusy_sealed {r s : State} (h : r.Sealed s) (k : ℕ) : r.Sealed (State.syncBusy s k) := by
  unfold State.syncBusy
  repeat' first
    | with_reducible assumption
    | with_reducible exact Sealed.refl _
    | with_reducible apply Sealed.ite
    | with_reducible apply wr_sealed
    | exact Fld.keyFree rfl
    | exact Hid.keyFree rfl
    | exact balFld_keyFree _
    | decide
    | with_reducible apply sealedParts_of
    | intro _
    | with_reducible refine Sealed.of_eq (by assumption) ?_
    | with_reducible refine Sealed.of_eq_snd (by assumption) ?_
    | simp only [sealed_mk]
    | split

theorem State.pushEngine_sealed {r s : State} (h : r.Sealed s) (k : ℕ) (p : ℕ) (line : ℕ) : r.Sealed (State.pushEngine s k p line) := by
  unfold State.pushEngine
  repeat' first
    | with_reducible assumption
    | with_reducible exact Sealed.refl _
    | with_reducible apply Sealed.ite
    | with_reducible apply setEngine_sealed
    | exact Fld.keyFree rfl
    | exact Hid.keyFree rfl
    | exact balFld_keyFree _
    | decide
    | with_reducible apply sealedParts_of
    | intro _
    | with_reducible refine Sealed.of_eq (by assumption) ?_
    | with_reducible refine Sealed.of_eq_snd (by assumption) ?_
    | simp only [sealed_mk]
    | split

theorem State.pushAll_sealed {r s : State} (h : r.Sealed s) (k : ℕ) (line : ℕ) : r.Sealed (State.pushAll s k line) := by
  unfold State.pushAll
  repeat' first
    | with_reducible assumption
    | with_reducible exact Sealed.refl _
    | with_reducible apply Sealed.ite
    | with_reducible apply setEngine_sealed
    | with_reducible apply pushEngine_sealed
    | rw [List.foldl_cons]
    | rw [List.foldl_nil]
    | exact Fld.keyFree rfl
    | exact Hid.keyFree rfl
    | exact balFld_keyFree _
    | decide
    | with_reducible refine Sealed.foldl ?_ (fun u x => ?_)
    | with_reducible refine Sealed.foldl_fst ?_ (fun u x => ?_)
    | with_reducible apply sealedParts_of
    | intro _
    | with_reducible refine Sealed.of_eq (by assumption) ?_
    | with_reducible refine Sealed.of_eq_snd (by assumption) ?_
    | simp only [sealed_mk]
    | split

theorem State.bcastData_sealed {r s : State} (h : r.Sealed s) (k : ℕ) (off : ℕ) (data : List Byte) : r.Sealed (State.bcastData s k off data) := by
  unfold State.bcastData
  repeat' first
    | with_reducible assumption
    | with_reducible exact Sealed.refl _
    | with_reducible apply Sealed.ite
    | with_reducible apply setEngine_sealed
    | rw [List.foldl_cons]
    | rw [List.foldl_nil]
    | exact Fld.keyFree rfl
    | exact Hid.keyFree rfl
    | exact balFld_keyFree _
    | decide
    | with_reducible refine Sealed.foldl ?_ (fun u x => ?_)
    | with_reducible refine Sealed.foldl_fst ?_ (fun u x => ?_)
    | with_reducible apply sealedParts_of
    | intro _
    | with_reducible refine Sealed.of_eq (by assumption) ?_
    | with_reducible refine Sealed.of_eq_snd (by assumption) ?_
    | simp only [sealed_mk]
    | split

theorem State.clearEngine_sealed {r s : State} (h : r.Sealed s) (k : ℕ) (p : ℕ) : r.Sealed (State.clearEngine s k p) := by
  unfold State.clearEngine
  repeat' first
    | with_reducible assumption
    | with_reducible exact Sealed.refl _
    | with_reducible apply Sealed.ite
    | with_reducible apply setEngine_sealed
    | exact Fld.keyFree rfl
    | exact Hid.keyFree rfl
    | exact balFld_keyFree _
    | decide
    | with_reducible apply sealedParts_of
    | intro _
    | with_reducible refine Sealed.of_eq (by assumption) ?_
    | with_reducible refine Sealed.of_eq_snd (by assumption) ?_
    | simp only [sealed_mk]
    | split

theorem State.windowErr_sealed {r s : State} (h : r.Sealed s) (q : ℕ) (a : ℕ) : r.Sealed (State.windowErr s q a) := by
  unfold State.windowErr
  repeat' first
    | with_reducible assumption
    | with_reducible exact Sealed.refl _
    | with_reducible apply Sealed.ite
    | with_reducible apply fnErr_sealed
    | exact Fld.keyFree rfl
    | exact Hid.keyFree rfl
    | exact balFld_keyFree _
    | decide
    | with_reducible apply sealedParts_of
    | intro _
    | with_reducible refine Sealed.of_eq (by assumption) ?_
    | with_reducible refine Sealed.of_eq_snd (by assumption) ?_
    | simp only [sealed_mk]
    | split

theorem State.windowWrite_sealed {r s : State} (h : r.Sealed s) (q : ℕ) (k : ℕ) (a : ℕ) (d : List Byte) : r.Sealed (State.windowWrite s q k a d) := by
  unfold State.windowWrite
  repeat' first
    | with_reducible assumption
    | with_reducible exact Sealed.refl _
    | with_reducible apply Sealed.ite
    | with_reducible apply pushEngine_sealed
    | with_reducible apply windowErr_sealed
    | with_reducible apply clearEngine_sealed
    | with_reducible apply pushAll_sealed
    | with_reducible apply bcastData_sealed
    | exact Fld.keyFree rfl
    | exact Hid.keyFree rfl
    | exact balFld_keyFree _
    | decide
    | with_reducible apply sealedParts_of
    | intro _
    | with_reducible refine Sealed.of_eq (by assumption) ?_
    | with_reducible refine Sealed.of_eq_snd (by assumption) ?_
    | simp only [sealed_mk]
    | split

theorem State.retireCmd_sealed {r s : State} (h : r.Sealed s) (k : ℕ) (p : ℕ) (status : ℕ) (fl : ℕ) : r.Sealed (State.retireCmd s k p status fl) := by
  unfold State.retireCmd
  repeat' first
    | with_reducible assumption
    | with_reducible exact Sealed.refl _
    | with_reducible apply Sealed.ite
    | with_reducible apply syncBusy_sealed
    | with_reducible apply addH_sealed
    | with_reducible apply setEngine_sealed
    | with_reducible apply mark_sealed
    | rw [List.foldl_cons]
    | rw [List.foldl_nil]
    | exact Fld.keyFree rfl
    | exact Hid.keyFree rfl
    | exact balFld_keyFree _
    | decide
    | with_reducible refine Sealed.foldl ?_ (fun u x => ?_)
    | with_reducible refine Sealed.foldl_fst ?_ (fun u x => ?_)
    | with_reducible apply sealedParts_of
    | intro _
    | with_reducible refine Sealed.of_eq (by assumption) ?_
    | with_reducible refine Sealed.of_eq_snd (by assumption) ?_
    | simp only [sealed_mk]
    | split

theorem State.dropCmds_sealed {r s : State} (h : r.Sealed s) (k : ℕ) (p : ℕ) (y3 : ℕ) : r.Sealed (State.dropCmds s k p y3) := by
  induction y3 generalizing s k p with
  | zero =>
    unfold State.dropCmds
    repeat' first
      | with_reducible assumption
      | with_reducible exact Sealed.refl _
      | with_reducible apply Sealed.ite
      | with_reducible apply retireCmd_sealed
      | exact Fld.keyFree rfl
      | exact Hid.keyFree rfl
      | exact balFld_keyFree _
      | decide
      | with_reducible apply sealedParts_of
      | intro _
      | with_reducible refine Sealed.of_eq (by assumption) ?_
      | with_reducible refine Sealed.of_eq_snd (by assumption) ?_
      | simp only [sealed_mk]
      | split
  | succ n0 ih =>
    unfold State.dropCmds
    repeat' first
      | with_reducible assumption
      | with_reducible exact Sealed.refl _
      | with_reducible apply Sealed.ite
      | with_reducible apply retireCmd_sealed
      | with_reducible apply ih
      | exact Fld.keyFree rfl
      | exact Hid.keyFree rfl
      | exact balFld_keyFree _
      | decide
      | with_reducible apply sealedParts_of
      | intro _
      | with_reducible refine Sealed.of_eq (by assumption) ?_
      | with_reducible refine Sealed.of_eq_snd (by assumption) ?_
      | simp only [sealed_mk]
      | split

theorem State.endBank_sealed {r s : State} (h : r.Sealed s) (k : ℕ) (forced : Bool) : r.Sealed (State.endBank s k forced) := by
  unfold State.endBank
  repeat' first
    | with_reducible assumption
    | with_reducible exact Sealed.refl _
    | with_reducible apply Sealed.ite
    | with_reducible apply dropCmds_sealed
    | with_reducible apply setEngine_sealed
    | with_reducible apply syncBusy_sealed
    | with_reducible apply wr_sealed
    | with_reducible apply mark_sealed
    | rw [List.foldl_cons]
    | rw [List.foldl_nil]
    | exact Fld.keyFree rfl
    | exact Hid.keyFree rfl
    | exact balFld_keyFree _
    | decide
    | with_reducible refine Sealed.foldl ?_ (fun u x => ?_)
    | with_reducible refine Sealed.foldl_fst ?_ (fun u x => ?_)
    | with_reducible apply sealedParts_of
    | intro _
    | with_reducible refine Sealed.of_eq (by assumption) ?_
    | with_reducible refine Sealed.of_eq_snd (by assumption) ?_
    | simp only [sealed_mk]
    | split

theorem State.setPoison_sealed {r s : State} (h : r.Sealed s) (t : ℕ) (u : ℕ) (a : ℕ) (v : ℕ) : r.Sealed (State.setPoison s t u a v) := by
  unfold State.setPoison
  repeat' first
    | with_reducible assumption
    | with_reducible exact Sealed.refl _
    | with_reducible apply Sealed.ite
    | exact Fld.keyFree rfl
    | exact Hid.keyFree rfl
    | exact balFld_keyFree _
    | decide
    | with_reducible apply sealedParts_of
    | intro _
    | with_reducible refine Sealed.of_eq (by assumption) ?_
    | with_reducible refine Sealed.of_eq_snd (by assumption) ?_
    | simp only [sealed_mk]
    | split

theorem State.loseStack_sealed {r s : State} (h : r.Sealed s) (k : ℕ) : r.Sealed (State.loseStack s k) := by
  unfold State.loseStack
  repeat' first
    | with_reducible assumption
    | with_reducible exact Sealed.refl _
    | with_reducible apply Sealed.ite
    | with_reducible apply wr_sealed
    | with_reducible apply endBank_sealed
    | with_reducible apply mcLog_sealed
    | with_reducible apply mark_sealed
    | exact Fld.keyFree rfl
    | exact Hid.keyFree rfl
    | exact balFld_keyFree _
    | decide
    | with_reducible apply sealedParts_of
    | intro _
    | with_reducible refine Sealed.of_eq (by assumption) ?_
    | with_reducible refine Sealed.of_eq_snd (by assumption) ?_
    | simp only [sealed_mk]
    | split

theorem State.requestRetire_sealed {r s : State} (h : r.Sealed s) (k : ℕ) (p : ℕ) : r.Sealed (State.requestRetire s k p) := by
  unfold State.requestRetire
  repeat' first
    | with_reducible assumption
    | with_reducible exact Sealed.refl _
    | with_reducible apply Sealed.ite
    | with_reducible apply setH_sealed
    | with_reducible apply loseStack_sealed
    | exact Fld.keyFree rfl
    | exact Hid.keyFree rfl
    | exact balFld_keyFree _
    | decide
    | with_reducible apply sealedParts_of
    | intro _
    | with_reducible refine Sealed.of_eq (by assumption) ?_
    | with_reducible refine Sealed.of_eq_snd (by assumption) ?_
    | simp only [sealed_mk]
    | split

theorem State.laneFails_sealed {r s : State} (h : r.Sealed s) (k : ℕ) (p : ℕ) (lane : ℕ) : r.Sealed (State.laneFails s k p lane) := by
  unfold State.laneFails
  repeat' first
    | with_reducible assumption
    | with_reducible exact Sealed.refl _
    | with_reducible apply Sealed.ite
    | with_reducible apply setH_sealed
    | with_reducible apply mcLog_sealed
    | with_reducible apply wr_sealed
    | with_reducible apply mark_sealed
    | with_reducible apply requestRetire_sealed
    | exact Fld.keyFree rfl
    | exact Hid.keyFree rfl
    | exact balFld_keyFree _
    | decide
    | with_reducible apply sealedParts_of
    | intro _
    | with_reducible refine Sealed.of_eq (by assumption) ?_
    | with_reducible refine Sealed.of_eq_snd (by assumption) ?_
    | simp only [sealed_mk]
    | split

theorem State.ueLog_sealed {r s : State} (h : r.Sealed s) (t : ℕ) (u : ℕ) (a : ℕ) (stored : Bool) : r.Sealed (State.ueLog s t u a stored) := by
  unfold State.ueLog
  repeat' first
    | with_reducible assumption
    | with_reducible exact Sealed.refl _
    | with_reducible apply Sealed.ite
    | with_reducible apply firstError_sealed
    | with_reducible apply wr_sealed
    | exact Fld.keyFree rfl
    | exact Hid.keyFree rfl
    | exact balFld_keyFree _
    | decide
    | with_reducible apply sealedParts_of
    | intro _
    | with_reducible refine Sealed.of_eq (by assumption) ?_
    | with_reducible refine Sealed.of_eq_snd (by assumption) ?_
    | simp only [sealed_mk]
    | split

theorem State.uncorrectable_sealed {r s : State} (h : r.Sealed s) (t : ℕ) (u : ℕ) (a : ℕ) : r.Sealed (State.uncorrectable s t u a) := by
  unfold State.uncorrectable
  repeat' first
    | with_reducible assumption
    | with_reducible exact Sealed.refl _
    | with_reducible apply Sealed.ite
    | with_reducible apply setH_sealed
    | with_reducible apply mark_sealed
    | with_reducible apply bump_sealed
    | with_reducible apply setPoison_sealed
    | with_reducible apply raisePf_sealed
    | with_reducible apply ueLog_sealed
    | with_reducible apply requestRetire_sealed
    | with_reducible apply mcLog_sealed
    | exact Fld.keyFree rfl
    | exact Hid.keyFree rfl
    | exact balFld_keyFree _
    | decide
    | with_reducible apply sealedParts_of
    | intro _
    | with_reducible refine Sealed.of_eq (by assumption) ?_
    | with_reducible refine Sealed.of_eq_snd (by assumption) ?_
    | simp only [sealed_mk]
    | split

theorem State.corrected_sealed {r s : State} (h : r.Sealed s) (t : ℕ) (u : ℕ) (a : ℕ) (lane : ℕ) : r.Sealed (State.corrected s t u a lane) := by
  unfold State.corrected
  repeat' first
    | with_reducible assumption
    | with_reducible exact Sealed.refl _
    | with_reducible apply Sealed.ite
    | with_reducible apply setH_sealed
    | with_reducible apply bump_sealed
    | with_reducible apply laneFails_sealed
    | exact Fld.keyFree rfl
    | exact Hid.keyFree rfl
    | exact balFld_keyFree _
    | decide
    | with_reducible apply sealedParts_of
    | intro _
    | with_reducible refine Sealed.of_eq (by assumption) ?_
    | with_reducible refine Sealed.of_eq_snd (by assumption) ?_
    | simp only [sealed_mk]
    | split

theorem State.scramble_sealed {r s : State} (h : r.Sealed s) (t : ℕ) (u : ℕ) (a : ℕ) : r.Sealed (State.scramble s t u a) := by
  unfold State.scramble
  repeat' first
    | with_reducible assumption
    | with_reducible exact Sealed.refl _
    | with_reducible apply Sealed.ite
    | with_reducible apply Sealed.ite_fst
    | with_reducible apply fresh_sealed
    | with_reducible apply setBytes_sealed
    | exact Fld.keyFree rfl
    | exact Hid.keyFree rfl
    | exact balFld_keyFree _
    | decide
    | with_reducible apply sealedParts_of
    | intro _
    | with_reducible refine Sealed.of_eq (by assumption) ?_
    | with_reducible refine Sealed.of_eq_snd (by assumption) ?_
    | simp only [sealed_mk]
    | split

theorem State.dramRead_sealed {r s : State} (h : r.Sealed s) (t : ℕ) (u : ℕ) (a : ℕ) (wrong : ℕ) (lane : ℕ) : r.Sealed (State.dramRead s t u a wrong
    lane).1 := by
  unfold State.dramRead
  repeat' first
    | with_reducible assumption
    | with_reducible exact Sealed.refl _
    | with_reducible apply Sealed.ite
    | with_reducible apply Sealed.ite_fst
    | with_reducible apply ueLog_sealed
    | with_reducible apply uncorrectable_sealed
    | with_reducible apply scramble_sealed
    | with_reducible apply corrected_sealed
    | with_reducible apply setH_sealed
    | exact Fld.keyFree rfl
    | exact Hid.keyFree rfl
    | exact balFld_keyFree _
    | decide
    | with_reducible apply sealedParts_of
    | intro _
    | with_reducible refine Sealed.of_eq (by assumption) ?_
    | with_reducible refine Sealed.of_eq_snd (by assumption) ?_
    | simp only [sealed_mk]
    | split

theorem State.dropLine_sealed {r s : State} (h : r.Sealed s) (q : ℕ) (t : ℕ) (u : ℕ) (a : ℕ) : r.Sealed (State.dropLine s q t u a) := by
  unfold State.dropLine
  repeat' first
    | with_reducible assumption
    | with_reducible exact Sealed.refl _
    | with_reducible apply Sealed.ite
    | exact Fld.keyFree rfl
    | exact Hid.keyFree rfl
    | exact balFld_keyFree _
    | decide
    | with_reducible apply sealedParts_of
    | intro _
    | with_reducible refine Sealed.of_eq (by assumption) ?_
    | with_reducible refine Sealed.of_eq_snd (by assumption) ?_
    | simp only [sealed_mk]
    | split

theorem State.revertLine_sealed {r s : State} (h : r.Sealed s) (l : PLine) : r.Sealed (State.revertLine s l) := by
  unfold State.revertLine
  repeat' first
    | with_reducible assumption
    | with_reducible exact Sealed.refl _
    | with_reducible apply Sealed.ite
    | with_reducible apply setBytes_sealed
    | with_reducible apply setPoison_sealed
    | with_reducible apply dropLine_sealed
    | rw [List.foldl_cons]
    | rw [List.foldl_nil]
    | exact Fld.keyFree rfl
    | exact Hid.keyFree rfl
    | exact balFld_keyFree _
    | decide
    | with_reducible refine Sealed.foldl ?_ (fun u x => ?_)
    | with_reducible refine Sealed.foldl_fst ?_ (fun u x => ?_)
    | with_reducible apply sealedParts_of
    | intro _
    | with_reducible refine Sealed.of_eq (by assumption) ?_
    | with_reducible refine Sealed.of_eq_snd (by assumption) ?_
    | simp only [sealed_mk]
    | split

theorem State.storePoison_sealed {r s : State} (h : r.Sealed s) (l : PLine) : r.Sealed (State.storePoison s l) := by
  unfold State.storePoison
  repeat' first
    | with_reducible assumption
    | with_reducible exact Sealed.refl _
    | with_reducible apply Sealed.ite
    | with_reducible apply setPoison_sealed
    | rw [List.foldl_cons]
    | rw [List.foldl_nil]
    | exact Fld.keyFree rfl
    | exact Hid.keyFree rfl
    | exact balFld_keyFree _
    | decide
    | with_reducible refine Sealed.foldl ?_ (fun u x => ?_)
    | with_reducible refine Sealed.foldl_fst ?_ (fun u x => ?_)
    | with_reducible apply sealedParts_of
    | intro _
    | with_reducible refine Sealed.of_eq (by assumption) ?_
    | with_reducible refine Sealed.of_eq_snd (by assumption) ?_
    | simp only [sealed_mk]
    | split

theorem State.plazaTouch_sealed {r s : State} (h : r.Sealed s) (q : ℕ) (t : ℕ) (u : ℕ) (a : ℕ) (cls : ℕ) (hint : ℕ) (keep : ℕ) (noalloc : Bool) (write
    : Bool) (shadow : Option (ℕ × ℕ)) : r.Sealed (State.plazaTouch s q t u a cls hint keep noalloc write shadow) := by
  unfold State.plazaTouch
  repeat' first
    | with_reducible assumption
    | with_reducible exact Sealed.refl _
    | with_reducible apply Sealed.ite
    | with_reducible apply ev_sealed
    | with_reducible apply dropLine_sealed
    | with_reducible apply storePoison_sealed
    | exact Fld.keyFree rfl
    | exact Hid.keyFree rfl
    | exact balFld_keyFree _
    | decide
    | with_reducible apply sealedParts_of
    | intro _
    | with_reducible refine Sealed.of_eq (by assumption) ?_
    | with_reducible refine Sealed.of_eq_snd (by assumption) ?_
    | simp only [sealed_mk]
    | split

theorem State.putRecord_sealed {r s : State} (h : r.Sealed s) (x : Stall) : r.Sealed (State.putRecord s x) := by
  unfold State.putRecord
  repeat' first
    | with_reducible assumption
    | with_reducible exact Sealed.refl _
    | with_reducible apply Sealed.ite
    | with_reducible apply setBytes_sealed
    | with_reducible apply plazaTouch_sealed
    | with_reducible apply raiseVf_sealed
    | with_reducible apply wr_sealed
    | exact Fld.keyFree rfl
    | exact Hid.keyFree rfl
    | exact balFld_keyFree _
    | decide
    | with_reducible apply sealedParts_of
    | intro _
    | with_reducible refine Sealed.of_eq (by assumption) ?_
    | with_reducible refine Sealed.of_eq_snd (by assumption) ?_
    | simp only [sealed_mk]
    | split

theorem State.walkFrom_sealed {r s : State} (h : r.Sealed s) (q : ℕ) (va : ℕ) (unit : ℕ) (node : ℕ) (y5 : List (ℕ × ℕ × ℕ)) : r.Sealed (State.walkFrom
    s q va unit node y5).1 := by
  induction y5 generalizing s q va unit node with
  | nil =>
    unfold State.walkFrom
    repeat' first
      | with_reducible assumption
      | with_reducible exact Sealed.refl _
      | with_reducible apply Sealed.ite
      | with_reducible apply Sealed.ite_fst
      | with_reducible apply plazaTouch_sealed
      | exact Fld.keyFree rfl
      | exact Hid.keyFree rfl
      | exact balFld_keyFree _
      | decide
      | with_reducible apply sealedParts_of
      | intro _
      | with_reducible refine Sealed.of_eq (by assumption) ?_
      | with_reducible refine Sealed.of_eq_snd (by assumption) ?_
      | simp only [sealed_mk]
      | split
  | cons z l ih =>
    unfold State.walkFrom
    repeat' first
      | with_reducible assumption
      | with_reducible exact Sealed.refl _
      | with_reducible apply Sealed.ite
      | with_reducible apply Sealed.ite_fst
      | with_reducible apply plazaTouch_sealed
      | with_reducible apply ih
      | exact Fld.keyFree rfl
      | exact Hid.keyFree rfl
      | exact balFld_keyFree _
      | decide
      | with_reducible apply sealedParts_of
      | intro _
      | with_reducible refine Sealed.of_eq (by assumption) ?_
      | with_reducible refine Sealed.of_eq_snd (by assumption) ?_
      | simp only [sealed_mk]
      | split

theorem State.walk_sealed {r s : State} (h : r.Sealed s) (q : ℕ) (va : ℕ) : r.Sealed (State.walk s q va).1 := by
  unfold State.walk
  repeat' first
    | with_reducible assumption
    | with_reducible exact Sealed.refl _
    | with_reducible apply Sealed.ite
    | with_reducible apply Sealed.ite_fst
    | with_reducible apply walkFrom_sealed
    | exact Fld.keyFree rfl
    | exact Hid.keyFree rfl
    | exact balFld_keyFree _
    | decide
    | with_reducible apply sealedParts_of
    | intro _
    | with_reducible refine Sealed.of_eq (by assumption) ?_
    | with_reducible refine Sealed.of_eq_snd (by assumption) ?_
    | simp only [sealed_mk]
    | split

theorem State.raiseFault_sealed {r s : State} (h : r.Sealed s) (c : Client) (va : ℕ) (write : Bool) (cause : ℕ) (level : ℕ) (host : Option ℕ) :
    r.Sealed (State.raiseFault s c va write cause level host) := by
  unfold State.raiseFault
  repeat' first
    | with_reducible assumption
    | with_reducible exact Sealed.refl _
    | with_reducible apply Sealed.ite
    | with_reducible apply ev_sealed
    | with_reducible apply putRecord_sealed
    | exact Fld.keyFree rfl
    | exact Hid.keyFree rfl
    | exact balFld_keyFree _
    | decide
    | with_reducible apply sealedParts_of
    | intro _
    | with_reducible refine Sealed.of_eq (by assumption) ?_
    | with_reducible refine Sealed.of_eq_snd (by assumption) ?_
    | simp only [sealed_mk]
    | split

theorem State.flushRecords_sealed {r s : State} (h : r.Sealed s) (q : ℕ) (y2 : ℕ) : r.Sealed (State.flushRecords s q y2) := by
  induction y2 generalizing s q with
  | zero =>
    unfold State.flushRecords
    repeat' first
      | with_reducible assumption
      | with_reducible exact Sealed.refl _
      | with_reducible apply Sealed.ite
      | with_reducible apply putRecord_sealed
      | exact Fld.keyFree rfl
      | exact Hid.keyFree rfl
      | exact balFld_keyFree _
      | decide
      | with_reducible apply sealedParts_of
      | intro _
      | with_reducible refine Sealed.of_eq (by assumption) ?_
      | with_reducible refine Sealed.of_eq_snd (by assumption) ?_
      | simp only [sealed_mk]
      | split
  | succ n0 ih =>
    unfold State.flushRecords
    repeat' first
      | with_reducible assumption
      | with_reducible exact Sealed.refl _
      | with_reducible apply Sealed.ite
      | with_reducible apply putRecord_sealed
      | with_reducible apply ih
      | exact Fld.keyFree rfl
      | exact Hid.keyFree rfl
      | exact balFld_keyFree _
      | decide
      | with_reducible apply sealedParts_of
      | intro _
      | with_reducible refine Sealed.of_eq (by assumption) ?_
      | with_reducible refine Sealed.of_eq_snd (by assumption) ?_
      | simp only [sealed_mk]
      | split

theorem State.tlbPut_sealed {r s : State} (h : r.Sealed s) (e : TlbEnt) : r.Sealed (State.tlbPut s e) := by
  unfold State.tlbPut
  repeat' first
    | with_reducible assumption
    | with_reducible exact Sealed.refl _
    | with_reducible apply Sealed.ite
    | with_reducible apply Sealed.ite_fst
    | with_reducible apply fresh_sealed
    | exact Fld.keyFree rfl
    | exact Hid.keyFree rfl
    | exact balFld_keyFree _
    | decide
    | with_reducible apply sealedParts_of
    | intro _
    | with_reducible refine Sealed.of_eq (by assumption) ?_
    | with_reducible refine Sealed.of_eq_snd (by assumption) ?_
    | simp only [sealed_mk]
    | split

theorem State.walkAndCache_sealed {r s : State} (h : r.Sealed s) (q : ℕ) (va : ℕ) (write : Bool) : r.Sealed (State.walkAndCache s q va write).1 := by
  unfold State.walkAndCache
  repeat' first
    | with_reducible assumption
    | with_reducible exact Sealed.refl _
    | with_reducible apply Sealed.ite
    | with_reducible apply Sealed.ite_fst
    | with_reducible apply walk_sealed
    | with_reducible apply setBytes_sealed
    | with_reducible apply plazaTouch_sealed
    | with_reducible apply tlbPut_sealed
    | exact Fld.keyFree rfl
    | exact Hid.keyFree rfl
    | exact balFld_keyFree _
    | decide
    | with_reducible apply sealedParts_of
    | intro _
    | with_reducible refine Sealed.of_eq (by assumption) ?_
    | with_reducible refine Sealed.of_eq_snd (by assumption) ?_
    | simp only [sealed_mk]
    | split

theorem State.translate_sealed {r s : State} (h : r.Sealed s) (q : ℕ) (va : ℕ) (write : Bool) : r.Sealed (State.translate s q va write).1 := by
  unfold State.translate
  repeat' first
    | with_reducible assumption
    | with_reducible exact Sealed.refl _
    | with_reducible apply Sealed.ite
    | with_reducible apply Sealed.ite_fst
    | with_reducible apply walkAndCache_sealed
    | exact Fld.keyFree rfl
    | exact Hid.keyFree rfl
    | exact balFld_keyFree _
    | decide
    | with_reducible apply sealedParts_of
    | intro _
    | with_reducible refine Sealed.of_eq (by assumption) ?_
    | with_reducible refine Sealed.of_eq_snd (by assumption) ?_
    | simp only [sealed_mk]
    | split

theorem State.xlate_sealed {r s : State} (h : r.Sealed s) (c : Client) (va : ℕ) (write : Bool) : r.Sealed (State.xlate s c va write).1 := by
  unfold State.xlate
  repeat' first
    | with_reducible assumption
    | with_reducible exact Sealed.refl _
    | with_reducible apply Sealed.ite
    | with_reducible apply Sealed.ite_fst
    | with_reducible apply translate_sealed
    | with_reducible apply walk_sealed
    | with_reducible apply raiseFault_sealed
    | exact Fld.keyFree rfl
    | exact Hid.keyFree rfl
    | exact balFld_keyFree _
    | decide
    | with_reducible apply sealedParts_of
    | intro _
    | with_reducible refine Sealed.of_eq (by assumption) ?_
    | with_reducible refine Sealed.of_eq_snd (by assumption) ?_
    | simp only [sealed_mk]
    | split

theorem State.lineRead_sealed {r s : State} (h : r.Sealed s) (c : Client) (pte : ℕ) (t : ℕ) (u : ℕ) (a : ℕ) (n : ℕ) (fin : Bool) : r.Sealed
    (State.lineRead s c pte t u a n fin).1 := by
  unfold State.lineRead
  repeat' first
    | with_reducible assumption
    | with_reducible exact Sealed.refl _
    | with_reducible apply Sealed.ite
    | with_reducible apply Sealed.ite_fst
    | with_reducible apply dramRead_sealed
    | with_reducible apply plazaTouch_sealed
    | with_reducible apply revertLine_sealed
    | exact Fld.keyFree rfl
    | exact Hid.keyFree rfl
    | exact balFld_keyFree _
    | decide
    | with_reducible apply sealedParts_of
    | intro _
    | with_reducible refine Sealed.of_eq (by assumption) ?_
    | with_reducible refine Sealed.of_eq_snd (by assumption) ?_
    | simp only [sealed_mk]
    | split

theorem State.lineWrite_sealed {r s : State} (h : r.Sealed s) (c : Client) (pte : ℕ) (t : ℕ) (u : ℕ) (a : ℕ) (d : List Byte) (bad : Bool) (shadow :
    Option (ℕ × ℕ)) : r.Sealed (State.lineWrite s c pte t u a d bad shadow) := by
  unfold State.lineWrite
  repeat' first
    | with_reducible assumption
    | with_reducible exact Sealed.refl _
    | with_reducible apply Sealed.ite
    | with_reducible apply plazaTouch_sealed
    | with_reducible apply setBytes_sealed
    | with_reducible apply setPoison_sealed
    | exact Fld.keyFree rfl
    | exact Hid.keyFree rfl
    | exact balFld_keyFree _
    | decide
    | with_reducible apply sealedParts_of
    | intro _
    | with_reducible refine Sealed.of_eq (by assumption) ?_
    | with_reducible refine Sealed.of_eq_snd (by assumption) ?_
    | simp only [sealed_mk]
    | split

theorem State.readPiece_sealed {r s : State} (h : r.Sealed s) (c : Client) (l : Leaf) (va : ℕ) (n : ℕ) (fin : Bool) : r.Sealed (State.readPiece s c l
    va n fin).1 := by
  unfold State.readPiece
  repeat' first
    | with_reducible assumption
    | with_reducible exact Sealed.refl _
    | with_reducible apply Sealed.ite
    | with_reducible apply Sealed.ite_fst
    | with_reducible apply lineRead_sealed
    | exact Fld.keyFree rfl
    | exact Hid.keyFree rfl
    | exact balFld_keyFree _
    | decide
    | with_reducible apply sealedParts_of
    | intro _
    | with_reducible refine Sealed.of_eq (by assumption) ?_
    | with_reducible refine Sealed.of_eq_snd (by assumption) ?_
    | simp only [sealed_mk]
    | split

theorem State.writePiece_sealed {r s : State} (h : r.Sealed s) (c : Client) (l : Leaf) (va : ℕ) (d : List Byte) (bad : Bool) (shadow : Option (ℕ × ℕ))
    : r.Sealed (State.writePiece s c l va d bad shadow) := by
  unfold State.writePiece
  repeat' first
    | with_reducible assumption
    | with_reducible exact Sealed.refl _
    | with_reducible apply Sealed.ite
    | with_reducible apply windowWrite_sealed
    | with_reducible apply addH_sealed
    | with_reducible apply lineWrite_sealed
    | exact Fld.keyFree rfl
    | exact Hid.keyFree rfl
    | exact balFld_keyFree _
    | decide
    | with_reducible apply sealedParts_of
    | intro _
    | with_reducible refine Sealed.of_eq (by assumption) ?_
    | with_reducible refine Sealed.of_eq_snd (by assumption) ?_
    | simp only [sealed_mk]
    | split

theorem State.chanRead_sealed {r s : State} (h : r.Sealed s) (c : Client) (pte : ℕ) (t : ℕ) (u : ℕ) (ch : ℕ) (l : ℕ) (n : ℕ) (y8 : ℕ) : r.Sealed
    (State.chanRead s c pte t u ch l n y8).1 := by
  induction y8 generalizing s c pte t u ch l n with
  | zero =>
    unfold State.chanRead
    repeat' first
      | with_reducible assumption
      | with_reducible exact Sealed.refl _
      | with_reducible apply Sealed.ite
      | with_reducible apply Sealed.ite_fst
      | with_reducible apply lineRead_sealed
      | exact Fld.keyFree rfl
      | exact Hid.keyFree rfl
      | exact balFld_keyFree _
      | decide
      | with_reducible apply sealedParts_of
      | intro _
      | with_reducible refine Sealed.of_eq (by assumption) ?_
      | with_reducible refine Sealed.of_eq_snd (by assumption) ?_
      | simp only [sealed_mk]
      | split
  | succ n0 ih =>
    unfold State.chanRead
    repeat' first
      | with_reducible assumption
      | with_reducible exact Sealed.refl _
      | with_reducible apply Sealed.ite
      | with_reducible apply Sealed.ite_fst
      | with_reducible apply lineRead_sealed
      | with_reducible apply ih
      | exact Fld.keyFree rfl
      | exact Hid.keyFree rfl
      | exact balFld_keyFree _
      | decide
      | with_reducible apply sealedParts_of
      | intro _
      | with_reducible refine Sealed.of_eq (by assumption) ?_
      | with_reducible refine Sealed.of_eq_snd (by assumption) ?_
      | simp only [sealed_mk]
      | split

theorem State.physWrite_sealed {r s : State} (h : r.Sealed s) (c : Client) (pte : ℕ) (t : ℕ) (u : ℕ) (a : ℕ) (d : List Byte) (y7 : ℕ) : r.Sealed
    (State.physWrite s c pte t u a d y7) := by
  induction y7 generalizing s c pte t u a d with
  | zero =>
    unfold State.physWrite
    repeat' first
      | with_reducible assumption
      | with_reducible exact Sealed.refl _
      | with_reducible apply Sealed.ite
      | with_reducible apply lineWrite_sealed
      | exact Fld.keyFree rfl
      | exact Hid.keyFree rfl
      | exact balFld_keyFree _
      | decide
      | with_reducible apply sealedParts_of
      | intro _
      | with_reducible refine Sealed.of_eq (by assumption) ?_
      | with_reducible refine Sealed.of_eq_snd (by assumption) ?_
      | simp only [sealed_mk]
      | split
  | succ n0 ih =>
    unfold State.physWrite
    repeat' first
      | with_reducible assumption
      | with_reducible exact Sealed.refl _
      | with_reducible apply Sealed.ite
      | with_reducible apply lineWrite_sealed
      | with_reducible apply ih
      | exact Fld.keyFree rfl
      | exact Hid.keyFree rfl
      | exact balFld_keyFree _
      | decide
      | with_reducible apply sealedParts_of
      | intro _
      | with_reducible refine Sealed.of_eq (by assumption) ?_
      | with_reducible refine Sealed.of_eq_snd (by assumption) ?_
      | simp only [sealed_mk]
      | split

theorem State.chanWrite_sealed {r s : State} (h : r.Sealed s) (c : Client) (pte : ℕ) (t : ℕ) (u : ℕ) (ch : ℕ) (l : ℕ) (d : List Byte) (y8 : ℕ) :
    r.Sealed (State.chanWrite s c pte t u ch l d y8) := by
  induction y8 generalizing s c pte t u ch l d with
  | zero =>
    unfold State.chanWrite
    repeat' first
      | with_reducible assumption
      | with_reducible exact Sealed.refl _
      | with_reducible apply Sealed.ite
      | with_reducible apply lineWrite_sealed
      | with_reducible apply setPoison_sealed
      | exact Fld.keyFree rfl
      | exact Hid.keyFree rfl
      | exact balFld_keyFree _
      | decide
      | with_reducible apply sealedParts_of
      | intro _
      | with_reducible refine Sealed.of_eq (by assumption) ?_
      | with_reducible refine Sealed.of_eq_snd (by assumption) ?_
      | simp only [sealed_mk]
      | split
  | succ n0 ih =>
    unfold State.chanWrite
    repeat' first
      | with_reducible assumption
      | with_reducible exact Sealed.refl _
      | with_reducible apply Sealed.ite
      | with_reducible apply lineWrite_sealed
      | with_reducible apply setPoison_sealed
      | with_reducible apply ih
      | exact Fld.keyFree rfl
      | exact Hid.keyFree rfl
      | exact balFld_keyFree _
      | decide
      | with_reducible apply sealedParts_of
      | intro _
      | with_reducible refine Sealed.of_eq (by assumption) ?_
      | with_reducible refine Sealed.of_eq_snd (by assumption) ?_
      | simp only [sealed_mk]
      | split

theorem State.chanPoison_sealed {r s : State} (h : r.Sealed s) (t : ℕ) (u : ℕ) (ch : ℕ) (l : ℕ) (n : ℕ) : r.Sealed (State.chanPoison s t u ch l n) :=
    by
  unfold State.chanPoison
  repeat' first
    | with_reducible assumption
    | with_reducible exact Sealed.refl _
    | with_reducible apply Sealed.ite
    | with_reducible apply setPoison_sealed
    | rw [List.foldl_cons]
    | rw [List.foldl_nil]
    | exact Fld.keyFree rfl
    | exact Hid.keyFree rfl
    | exact balFld_keyFree _
    | decide
    | with_reducible refine Sealed.foldl ?_ (fun u x => ?_)
    | with_reducible refine Sealed.foldl_fst ?_ (fun u x => ?_)
    | with_reducible apply sealedParts_of
    | intro _
    | with_reducible refine Sealed.of_eq (by assumption) ?_
    | with_reducible refine Sealed.of_eq_snd (by assumption) ?_
    | simp only [sealed_mk]
    | split

theorem State.readLines_sealed {r s : State} (h : r.Sealed s) (c : Client) (pte : ℕ) (t : ℕ) (u : ℕ) (y5 : ℕ) (y6 : ℕ) : r.Sealed (State.readLines s c
    pte t u y5 y6).1 := by
  induction y6 generalizing s c pte t u y5 with
  | zero =>
    unfold State.readLines
    repeat' first
      | with_reducible assumption
      | with_reducible exact Sealed.refl _
      | with_reducible apply Sealed.ite
      | with_reducible apply Sealed.ite_fst
      | with_reducible apply lineRead_sealed
      | exact Fld.keyFree rfl
      | exact Hid.keyFree rfl
      | exact balFld_keyFree _
      | decide
      | with_reducible apply sealedParts_of
      | intro _
      | with_reducible refine Sealed.of_eq (by assumption) ?_
      | with_reducible refine Sealed.of_eq_snd (by assumption) ?_
      | simp only [sealed_mk]
      | split
  | succ n0 ih =>
    unfold State.readLines
    repeat' first
      | with_reducible assumption
      | with_reducible exact Sealed.refl _
      | with_reducible apply Sealed.ite
      | with_reducible apply Sealed.ite_fst
      | with_reducible apply lineRead_sealed
      | with_reducible apply ih
      | exact Fld.keyFree rfl
      | exact Hid.keyFree rfl
      | exact balFld_keyFree _
      | decide
      | with_reducible apply sealedParts_of
      | intro _
      | with_reducible refine Sealed.of_eq (by assumption) ?_
      | with_reducible refine Sealed.of_eq_snd (by assumption) ?_
      | simp only [sealed_mk]
      | split

theorem State.readDir_sealed {r s : State} (h : r.Sealed s) (c : Client) (pte : ℕ) : r.Sealed (State.readDir s c pte).1 := by
  unfold State.readDir
  repeat' first
    | with_reducible assumption
    | with_reducible exact Sealed.refl _
    | with_reducible apply Sealed.ite
    | with_reducible apply Sealed.ite_fst
    | with_reducible apply readLines_sealed
    | exact Fld.keyFree rfl
    | exact Hid.keyFree rfl
    | exact balFld_keyFree _
    | decide
    | with_reducible apply sealedParts_of
    | intro _
    | with_reducible refine Sealed.of_eq (by assumption) ?_
    | with_reducible refine Sealed.of_eq_snd (by assumption) ?_
    | simp only [sealed_mk]
    | split

theorem State.noteDamage_sealed {r s : State} (h : r.Sealed s) (q : ℕ) (t : ℕ) (u : ℕ) (va : ℕ) (cause : ℕ) (b : ℕ) : r.Sealed (State.noteDamage s q t
    u va cause b) := by
  unfold State.noteDamage
  repeat' first
    | with_reducible assumption
    | with_reducible exact Sealed.refl _
    | with_reducible apply Sealed.ite
    | with_reducible apply mark_sealed
    | with_reducible apply bump_sealed
    | with_reducible apply ev_sealed
    | with_reducible apply firstError_sealed
    | with_reducible apply wr_sealed
    | exact Fld.keyFree rfl
    | exact Hid.keyFree rfl
    | exact balFld_keyFree _
    | decide
    | with_reducible apply sealedParts_of
    | intro _
    | with_reducible refine Sealed.of_eq (by assumption) ?_
    | with_reducible refine Sealed.of_eq_snd (by assumption) ?_
    | simp only [sealed_mk]
    | split

theorem State.subData_sealed {r s : State} (h : r.Sealed s) (c : Client) (pte : ℕ) (log2 : ℕ) (j : ℕ) (fmt : ℕ) (d : Dir) : r.Sealed (State.subData s
    c pte log2 j fmt d).1 := by
  unfold State.subData
  repeat' first
    | with_reducible assumption
    | with_reducible exact Sealed.refl _
    | with_reducible apply Sealed.ite
    | with_reducible apply Sealed.ite_fst
    | with_reducible apply chanRead_sealed
    | exact Fld.keyFree rfl
    | exact Hid.keyFree rfl
    | exact balFld_keyFree _
    | decide
    | with_reducible apply sealedParts_of
    | intro _
    | with_reducible refine Sealed.of_eq (by assumption) ?_
    | with_reducible refine Sealed.of_eq_snd (by assumption) ?_
    | simp only [sealed_mk]
    | split

theorem State.noteSub_sealed {r s : State} (h : r.Sealed s) (q : ℕ) (t : ℕ) (u : ℕ) (page : ℕ) (o : SubOut) : r.Sealed (State.noteSub s q t u page o)
    := by
  unfold State.noteSub
  repeat' first
    | with_reducible assumption
    | with_reducible exact Sealed.refl _
    | with_reducible apply Sealed.ite
    | with_reducible apply bump_sealed
    | with_reducible apply noteDamage_sealed
    | rw [List.foldl_cons]
    | rw [List.foldl_nil]
    | exact Fld.keyFree rfl
    | exact Hid.keyFree rfl
    | exact balFld_keyFree _
    | decide
    | with_reducible refine Sealed.foldl ?_ (fun u x => ?_)
    | with_reducible refine Sealed.foldl_fst ?_ (fun u x => ?_)
    | with_reducible apply sealedParts_of
    | intro _
    | with_reducible refine Sealed.of_eq (by assumption) ?_
    | with_reducible refine Sealed.of_eq_snd (by assumption) ?_
    | simp only [sealed_mk]
    | split

theorem State.expand_sealed {r s : State} (h : r.Sealed s) (c : Client) (pte : ℕ) (log2 : ℕ) (va : ℕ) (j : ℕ) (first : ℕ) (last : ℕ) (d : Dir) :
    r.Sealed (State.expand s c pte log2 va j first last d).1 := by
  unfold State.expand
  repeat' first
    | with_reducible assumption
    | with_reducible exact Sealed.refl _
    | with_reducible apply Sealed.ite
    | with_reducible apply Sealed.ite_fst
    | with_reducible apply subData_sealed
    | with_reducible apply noteSub_sealed
    | exact Fld.keyFree rfl
    | exact Hid.keyFree rfl
    | exact balFld_keyFree _
    | decide
    | with_reducible apply sealedParts_of
    | intro _
    | with_reducible refine Sealed.of_eq (by assumption) ?_
    | with_reducible refine Sealed.of_eq_snd (by assumption) ?_
    | simp only [sealed_mk]
    | split

theorem State.holdPacked_sealed {r s : State} (h : r.Sealed s) (c : Client) (l : Leaf) (va : ℕ) (write : Bool) (data : List Byte) (bads : List Bool)
    (busy : Bool) : r.Sealed (State.holdPacked s c l va write data bads busy) := by
  unfold State.holdPacked
  repeat' first
    | with_reducible assumption
    | with_reducible exact Sealed.refl _
    | with_reducible apply Sealed.ite
    | exact Fld.keyFree rfl
    | exact Hid.keyFree rfl
    | exact balFld_keyFree _
    | decide
    | with_reducible apply sealedParts_of
    | intro _
    | with_reducible refine Sealed.of_eq (by assumption) ?_
    | with_reducible refine Sealed.of_eq_snd (by assumption) ?_
    | simp only [sealed_mk]
    | split

theorem State.waitForDir_sealed {r s : State} (h : r.Sealed s) (c : Client) (l : Leaf) (va : ℕ) (write : Bool) (data : List Byte) (bads : List Bool) :
    r.Sealed (State.waitForDir s c l va write data bads) := by
  unfold State.waitForDir
  repeat' first
    | with_reducible assumption
    | with_reducible exact Sealed.refl _
    | with_reducible apply Sealed.ite
    | with_reducible apply holdPacked_sealed
    | with_reducible apply ev_sealed
    | exact Fld.keyFree rfl
    | exact Hid.keyFree rfl
    | exact balFld_keyFree _
    | decide
    | with_reducible apply sealedParts_of
    | intro _
    | with_reducible refine Sealed.of_eq (by assumption) ?_
    | with_reducible refine Sealed.of_eq_snd (by assumption) ?_
    | simp only [sealed_mk]
    | split

theorem State.dirDamage_sealed {r s : State} (h : r.Sealed s) (c : Client) (l : Leaf) (va : ℕ) (poisoned : Bool) : r.Sealed (State.dirDamage s c l va
    poisoned) := by
  unfold State.dirDamage
  repeat' first
    | with_reducible assumption
    | with_reducible exact Sealed.refl _
    | with_reducible apply Sealed.ite
    | with_reducible apply noteDamage_sealed
    | exact Fld.keyFree rfl
    | exact Hid.keyFree rfl
    | exact balFld_keyFree _
    | decide
    | with_reducible apply sealedParts_of
    | intro _
    | with_reducible refine Sealed.of_eq (by assumption) ?_
    | with_reducible refine Sealed.of_eq_snd (by assumption) ?_
    | simp only [sealed_mk]
    | split

theorem State.packedRead_sealed {r s : State} (h : r.Sealed s) (c : Client) (l : Leaf) (va : ℕ) (n : ℕ) : r.Sealed (State.packedRead s c l va n).1 :=
    by
  unfold State.packedRead
  repeat' first
    | with_reducible assumption
    | with_reducible exact Sealed.refl _
    | with_reducible apply Sealed.ite
    | with_reducible apply Sealed.ite_fst
    | with_reducible apply readDir_sealed
    | with_reducible apply dirDamage_sealed
    | with_reducible apply waitForDir_sealed
    | with_reducible apply expand_sealed
    | rw [List.foldl_cons]
    | rw [List.foldl_nil]
    | exact Fld.keyFree rfl
    | exact Hid.keyFree rfl
    | exact balFld_keyFree _
    | decide
    | with_reducible refine Sealed.foldl ?_ (fun u x => ?_)
    | with_reducible refine Sealed.foldl_fst ?_ (fun u x => ?_)
    | with_reducible apply sealedParts_of
    | intro _
    | with_reducible refine Sealed.of_eq (by assumption) ?_
    | with_reducible refine Sealed.of_eq_snd (by assumption) ?_
    | simp only [sealed_mk]
    | split

theorem State.dirBusy_sealed {r s : State} (h : r.Sealed s) (c : Client) (pte : ℕ) (on : Bool) : r.Sealed (State.dirBusy s c pte on) := by
  unfold State.dirBusy
  repeat' first
    | with_reducible assumption
    | with_reducible exact Sealed.refl _
    | with_reducible apply Sealed.ite
    | with_reducible apply physWrite_sealed
    | exact Fld.keyFree rfl
    | exact Hid.keyFree rfl
    | exact balFld_keyFree _
    | decide
    | with_reducible apply sealedParts_of
    | intro _
    | with_reducible refine Sealed.of_eq (by assumption) ?_
    | with_reducible refine Sealed.of_eq_snd (by assumption) ?_
    | simp only [sealed_mk]
    | split

theorem State.oldBlocks_sealed {r s : State} (h : r.Sealed s) (c : Client) (l : Leaf) (va : ℕ) (j : ℕ) (fmt : ℕ) (first : ℕ) (d : Dir) : r.Sealed
    (State.oldBlocks s c l va j fmt first d).1 := by
  unfold State.oldBlocks
  repeat' first
    | with_reducible assumption
    | with_reducible exact Sealed.refl _
    | with_reducible apply Sealed.ite
    | with_reducible apply Sealed.ite_fst
    | with_reducible apply subData_sealed
    | with_reducible apply noteSub_sealed
    | exact Fld.keyFree rfl
    | exact Hid.keyFree rfl
    | exact balFld_keyFree _
    | decide
    | with_reducible apply sealedParts_of
    | intro _
    | with_reducible refine Sealed.of_eq (by assumption) ?_
    | with_reducible refine Sealed.of_eq_snd (by assumption) ?_
    | simp only [sealed_mk]
    | split

theorem State.putSub_sealed {r s : State} (h : r.Sealed s) (c : Client) (pte : ℕ) (slack : ℕ) (d : Dir) (runs : List (ℕ × ℕ × ℕ)) (e : State.NewSub) :
    r.Sealed (State.putSub s c pte slack d runs e).1 := by
  unfold State.putSub
  repeat' first
    | with_reducible assumption
    | with_reducible exact Sealed.refl _
    | with_reducible apply Sealed.ite
    | with_reducible apply Sealed.ite_fst
    | with_reducible apply chanPoison_sealed
    | with_reducible apply chanWrite_sealed
    | with_reducible apply physWrite_sealed
    | with_reducible apply bump_sealed
    | with_reducible apply ev_sealed
    | rw [List.foldl_cons]
    | rw [List.foldl_nil]
    | exact Fld.keyFree rfl
    | exact Hid.keyFree rfl
    | exact balFld_keyFree _
    | decide
    | with_reducible refine Sealed.foldl ?_ (fun u x => ?_)
    | with_reducible refine Sealed.foldl_fst ?_ (fun u x => ?_)
    | with_reducible apply sealedParts_of
    | intro _
    | with_reducible refine Sealed.of_eq (by assumption) ?_
    | with_reducible refine Sealed.of_eq_snd (by assumption) ?_
    | simp only [sealed_mk]
    | split

theorem State.packedWriteAt_sealed {r s : State} (h : r.Sealed s) (c : Client) (l : Leaf) (va : ℕ) (data : List Byte) (bads : List Bool) : r.Sealed
    (State.packedWriteAt s c l va data bads).1 := by
  unfold State.packedWriteAt
  repeat' first
    | with_reducible assumption
    | with_reducible exact Sealed.refl _
    | with_reducible apply Sealed.ite
    | with_reducible apply Sealed.ite_fst
    | with_reducible apply readDir_sealed
    | with_reducible apply waitForDir_sealed
    | with_reducible apply dirDamage_sealed
    | with_reducible apply oldBlocks_sealed
    | with_reducible apply ev_sealed
    | with_reducible apply dirBusy_sealed
    | with_reducible apply raiseVf_sealed
    | with_reducible apply mark_sealed
    | with_reducible apply holdPacked_sealed
    | with_reducible apply putSub_sealed
    | with_reducible apply physWrite_sealed
    | rw [List.foldl_cons]
    | rw [List.foldl_nil]
    | exact Fld.keyFree rfl
    | exact Hid.keyFree rfl
    | exact balFld_keyFree _
    | decide
    | with_reducible refine Sealed.foldl ?_ (fun u x => ?_)
    | with_reducible refine Sealed.foldl_fst ?_ (fun u x => ?_)
    | with_reducible apply sealedParts_of
    | intro _
    | with_reducible refine Sealed.of_eq (by assumption) ?_
    | with_reducible refine Sealed.of_eq_snd (by assumption) ?_
    | simp only [sealed_mk]
    | split

theorem State.packedFault_sealed {r s : State} (h : r.Sealed s) (c : Client) (va : ℕ) (write : Bool) (cause : ℕ) : r.Sealed (State.packedFault s c va
    write cause) := by
  unfold State.packedFault
  repeat' first
    | with_reducible assumption
    | with_reducible exact Sealed.refl _
    | with_reducible apply Sealed.ite
    | with_reducible apply raiseFault_sealed
    | exact Fld.keyFree rfl
    | exact Hid.keyFree rfl
    | exact balFld_keyFree _
    | decide
    | with_reducible apply sealedParts_of
    | intro _
    | with_reducible refine Sealed.of_eq (by assumption) ?_
    | with_reducible refine Sealed.of_eq_snd (by assumption) ?_
    | simp only [sealed_mk]
    | split

theorem State.readPieces_sealed {r s : State} (h : r.Sealed s) (c : Client) (va : ℕ) (n : ℕ) (y4 : ℕ) : r.Sealed (State.readPieces s c va n y4).1 :=
    by
  induction y4 generalizing s c va n with
  | zero =>
    unfold State.readPieces
    repeat' first
      | with_reducible assumption
      | with_reducible exact Sealed.refl _
      | with_reducible apply Sealed.ite
      | with_reducible apply Sealed.ite_fst
      | with_reducible apply xlate_sealed
      | with_reducible apply packedRead_sealed
      | with_reducible apply packedFault_sealed
      | with_reducible apply readPiece_sealed
      | exact Fld.keyFree rfl
      | exact Hid.keyFree rfl
      | exact balFld_keyFree _
      | decide
      | with_reducible apply sealedParts_of
      | intro _
      | with_reducible refine Sealed.of_eq (by assumption) ?_
      | with_reducible refine Sealed.of_eq_snd (by assumption) ?_
      | simp only [sealed_mk]
      | split
  | succ n0 ih =>
    unfold State.readPieces
    repeat' first
      | with_reducible assumption
      | with_reducible exact Sealed.refl _
      | with_reducible apply Sealed.ite
      | with_reducible apply Sealed.ite_fst
      | with_reducible apply xlate_sealed
      | with_reducible apply packedRead_sealed
      | with_reducible apply packedFault_sealed
      | with_reducible apply readPiece_sealed
      | with_reducible apply ih
      | exact Fld.keyFree rfl
      | exact Hid.keyFree rfl
      | exact balFld_keyFree _
      | decide
      | with_reducible apply sealedParts_of
      | intro _
      | with_reducible refine Sealed.of_eq (by assumption) ?_
      | with_reducible refine Sealed.of_eq_snd (by assumption) ?_
      | simp only [sealed_mk]
      | split

theorem State.writePlain_sealed {r s : State} (h : r.Sealed s) (c : Client) (l : Leaf) (va : ℕ) (d : List Byte) (bads : List Bool) (shadow : Option (ℕ
    × ℕ)) : r.Sealed (State.writePlain s c l va d bads shadow).1 := by
  unfold State.writePlain
  repeat' first
    | with_reducible assumption
    | with_reducible exact Sealed.refl _
    | with_reducible apply Sealed.ite
    | with_reducible apply Sealed.ite_fst
    | with_reducible apply packedWriteAt_sealed
    | with_reducible apply packedFault_sealed
    | with_reducible apply writePiece_sealed
    | exact Fld.keyFree rfl
    | exact Hid.keyFree rfl
    | exact balFld_keyFree _
    | decide
    | with_reducible apply sealedParts_of
    | intro _
    | with_reducible refine Sealed.of_eq (by assumption) ?_
    | with_reducible refine Sealed.of_eq_snd (by assumption) ?_
    | simp only [sealed_mk]
    | split

theorem State.plainPieces_sealed {r s : State} (h : r.Sealed s) (c : Client) (va : ℕ) (d : List Byte) (bads : List Bool) (y5 : ℕ) : r.Sealed
    (State.plainPieces s c va d bads y5).1 := by
  induction y5 generalizing s c va d bads with
  | zero =>
    unfold State.plainPieces
    repeat' first
      | with_reducible assumption
      | with_reducible exact Sealed.refl _
      | with_reducible apply Sealed.ite
      | with_reducible apply Sealed.ite_fst
      | with_reducible apply xlate_sealed
      | with_reducible apply writePlain_sealed
      | exact Fld.keyFree rfl
      | exact Hid.keyFree rfl
      | exact balFld_keyFree _
      | decide
      | with_reducible apply sealedParts_of
      | intro _
      | with_reducible refine Sealed.of_eq (by assumption) ?_
      | with_reducible refine Sealed.of_eq_snd (by assumption) ?_
      | simp only [sealed_mk]
      | split
  | succ n0 ih =>
    unfold State.plainPieces
    repeat' first
      | with_reducible assumption
      | with_reducible exact Sealed.refl _
      | with_reducible apply Sealed.ite
      | with_reducible apply Sealed.ite_fst
      | with_reducible apply xlate_sealed
      | with_reducible apply writePlain_sealed
      | with_reducible apply ih
      | exact Fld.keyFree rfl
      | exact Hid.keyFree rfl
      | exact balFld_keyFree _
      | decide
      | with_reducible apply sealedParts_of
      | intro _
      | with_reducible refine Sealed.of_eq (by assumption) ?_
      | with_reducible refine Sealed.of_eq_snd (by assumption) ?_
      | simp only [sealed_mk]
      | split

theorem State.readLedger_sealed {r s : State} (h : r.Sealed s) (c : Client) (obj : ℕ) : r.Sealed (State.readLedger s c obj).1 := by
  unfold State.readLedger
  repeat' first
    | with_reducible assumption
    | with_reducible exact Sealed.refl _
    | with_reducible apply Sealed.ite
    | with_reducible apply Sealed.ite_fst
    | with_reducible apply readPieces_sealed
    | with_reducible apply raiseFault_sealed
    | exact Fld.keyFree rfl
    | exact Hid.keyFree rfl
    | exact balFld_keyFree _
    | decide
    | with_reducible apply sealedParts_of
    | intro _
    | with_reducible refine Sealed.of_eq (by assumption) ?_
    | with_reducible refine Sealed.of_eq_snd (by assumption) ?_
    | simp only [sealed_mk]
    | split

theorem State.clearShadow_sealed {r s : State} (h : r.Sealed s) (q : ℕ) (obj : ℕ) : r.Sealed (State.clearShadow s q obj) := by
  unfold State.clearShadow
  repeat' first
    | with_reducible assumption
    | with_reducible exact Sealed.refl _
    | with_reducible apply Sealed.ite
    | with_reducible apply Sealed.ite_fst
    | with_reducible apply readPieces_sealed
    | with_reducible apply plainPieces_sealed
    | exact Fld.keyFree rfl
    | exact Hid.keyFree rfl
    | exact balFld_keyFree _
    | decide
    | with_reducible apply sealedParts_of
    | intro _
    | with_reducible refine Sealed.of_eq (by assumption) ?_
    | with_reducible refine Sealed.of_eq_snd (by assumption) ?_
    | simp only [sealed_mk]
    | split

theorem State.secondWrite_sealed {r s : State} (h : r.Sealed s) (q : ℕ) (obj : ℕ) (va : ℕ) (d : List Byte) (bads : List Bool) : r.Sealed
    (State.secondWrite s q obj va d bads) := by
  unfold State.secondWrite
  repeat' first
    | with_reducible assumption
    | with_reducible exact Sealed.refl _
    | with_reducible apply Sealed.ite
    | with_reducible apply Sealed.ite_fst
    | with_reducible apply plainPieces_sealed
    | with_reducible apply clearShadow_sealed
    | exact Fld.keyFree rfl
    | exact Hid.keyFree rfl
    | exact balFld_keyFree _
    | decide
    | with_reducible apply sealedParts_of
    | intro _
    | with_reducible refine Sealed.of_eq (by assumption) ?_
    | with_reducible refine Sealed.of_eq_snd (by assumption) ?_
    | simp only [sealed_mk]
    | split

theorem State.restoreWrite_sealed {r s : State} (h : r.Sealed s) (l : PLine) : r.Sealed (State.restoreWrite s l) := by
  unfold State.restoreWrite
  repeat' first
    | with_reducible assumption
    | with_reducible exact Sealed.refl _
    | with_reducible apply Sealed.ite
    | with_reducible apply secondWrite_sealed
    | exact Fld.keyFree rfl
    | exact Hid.keyFree rfl
    | exact balFld_keyFree _
    | decide
    | with_reducible apply sealedParts_of
    | intro _
    | with_reducible refine Sealed.of_eq (by assumption) ?_
    | with_reducible refine Sealed.of_eq_snd (by assumption) ?_
    | simp only [sealed_mk]
    | split

theorem State.settle_sealed {r s : State} (h : r.Sealed s) : r.Sealed (State.settle s) := by
  unfold State.settle
  repeat' first
    | with_reducible assumption
    | with_reducible exact Sealed.refl _
    | with_reducible apply Sealed.ite
    | with_reducible apply restoreWrite_sealed
    | rw [List.foldl_cons]
    | rw [List.foldl_nil]
    | exact Fld.keyFree rfl
    | exact Hid.keyFree rfl
    | exact balFld_keyFree _
    | decide
    | with_reducible refine Sealed.foldl ?_ (fun u x => ?_)
    | with_reducible refine Sealed.foldl_fst ?_ (fun u x => ?_)
    | with_reducible apply sealedParts_of
    | intro _
    | with_reducible refine Sealed.of_eq (by assumption) ?_
    | with_reducible refine Sealed.of_eq_snd (by assumption) ?_
    | simp only [sealed_mk]
    | split

theorem State.writeBack_sealed {r s : State} (h : r.Sealed s) (l : PLine) : r.Sealed (State.writeBack s l) := by
  unfold State.writeBack
  repeat' first
    | with_reducible assumption
    | with_reducible exact Sealed.refl _
    | with_reducible apply Sealed.ite
    | with_reducible apply restoreWrite_sealed
    | with_reducible apply storePoison_sealed
    | exact Fld.keyFree rfl
    | exact Hid.keyFree rfl
    | exact balFld_keyFree _
    | decide
    | with_reducible apply sealedParts_of
    | intro _
    | with_reducible refine Sealed.of_eq (by assumption) ?_
    | with_reducible refine Sealed.of_eq_snd (by assumption) ?_
    | simp only [sealed_mk]
    | split

theorem State.flushLines_sealed {r s : State} (h : r.Sealed s) (ls : List PLine) : r.Sealed (State.flushLines s ls) := by
  unfold State.flushLines
  repeat' first
    | with_reducible assumption
    | with_reducible exact Sealed.refl _
    | with_reducible apply Sealed.ite
    | with_reducible apply dropLine_sealed
    | with_reducible apply writeBack_sealed
    | rw [List.foldl_cons]
    | rw [List.foldl_nil]
    | exact Fld.keyFree rfl
    | exact Hid.keyFree rfl
    | exact balFld_keyFree _
    | decide
    | with_reducible refine Sealed.foldl ?_ (fun u x => ?_)
    | with_reducible refine Sealed.foldl_fst ?_ (fun u x => ?_)
    | with_reducible apply sealedParts_of
    | intro _
    | with_reducible refine Sealed.of_eq (by assumption) ?_
    | with_reducible refine Sealed.of_eq_snd (by assumption) ?_
    | simp only [sealed_mk]
    | split

theorem State.vreadL_sealed {r s : State} (h : r.Sealed s) (c : Client) (va : ℕ) (n : ℕ) : r.Sealed (State.vreadL s c va n).1 := by
  unfold State.vreadL
  repeat' first
    | with_reducible assumption
    | with_reducible exact Sealed.refl _
    | with_reducible apply Sealed.ite
    | with_reducible apply Sealed.ite_fst
    | with_reducible apply readPieces_sealed
    | with_reducible apply settle_sealed
    | exact Fld.keyFree rfl
    | exact Hid.keyFree rfl
    | exact balFld_keyFree _
    | decide
    | with_reducible apply sealedParts_of
    | intro _
    | with_reducible refine Sealed.of_eq (by assumption) ?_
    | with_reducible refine Sealed.of_eq_snd (by assumption) ?_
    | simp only [sealed_mk]
    | split

theorem State.vread_sealed {r s : State} (h : r.Sealed s) (c : Client) (va : ℕ) (n : ℕ) : r.Sealed (State.vread s c va n).1 := by
  unfold State.vread
  repeat' first
    | with_reducible assumption
    | with_reducible exact Sealed.refl _
    | with_reducible apply Sealed.ite
    | with_reducible apply Sealed.ite_fst
    | with_reducible apply vreadL_sealed
    | exact Fld.keyFree rfl
    | exact Hid.keyFree rfl
    | exact balFld_keyFree _
    | decide
    | with_reducible apply sealedParts_of
    | intro _
    | with_reducible refine Sealed.of_eq (by assumption) ?_
    | with_reducible refine Sealed.of_eq_snd (by assumption) ?_
    | simp only [sealed_mk]
    | split

theorem State.shadowFor_sealed {r s : State} (h : r.Sealed s) (c : Client) (l : Leaf) (va : ℕ) : r.Sealed (State.shadowFor s c l va).1 := by
  unfold State.shadowFor
  repeat' first
    | with_reducible assumption
    | with_reducible exact Sealed.refl _
    | with_reducible apply Sealed.ite
    | with_reducible apply Sealed.ite_fst
    | with_reducible apply readLedger_sealed
    | with_reducible apply clearShadow_sealed
    | exact Fld.keyFree rfl
    | exact Hid.keyFree rfl
    | exact balFld_keyFree _
    | decide
    | with_reducible apply sealedParts_of
    | intro _
    | with_reducible refine Sealed.of_eq (by assumption) ?_
    | with_reducible refine Sealed.of_eq_snd (by assumption) ?_
    | simp only [sealed_mk]
    | split

theorem State.writeOne_sealed {r s : State} (h : r.Sealed s) (c : Client) (l : Leaf) (va : ℕ) (d : List Byte) (bads : List Bool) : r.Sealed
    (State.writeOne s c l va d bads).1 := by
  unfold State.writeOne
  repeat' first
    | with_reducible assumption
    | with_reducible exact Sealed.refl _
    | with_reducible apply Sealed.ite
    | with_reducible apply Sealed.ite_fst
    | with_reducible apply shadowFor_sealed
    | with_reducible apply secondWrite_sealed
    | with_reducible apply writePlain_sealed
    | exact Fld.keyFree rfl
    | exact Hid.keyFree rfl
    | exact balFld_keyFree _
    | decide
    | with_reducible apply sealedParts_of
    | intro _
    | with_reducible refine Sealed.of_eq (by assumption) ?_
    | with_reducible refine Sealed.of_eq_snd (by assumption) ?_
    | simp only [sealed_mk]
    | split

theorem State.writePieces_sealed {r s : State} (h : r.Sealed s) (c : Client) (va : ℕ) (d : List Byte) (bads : List Bool) (y5 : ℕ) : r.Sealed
    (State.writePieces s c va d bads y5).1 := by
  induction y5 generalizing s c va d bads with
  | zero =>
    unfold State.writePieces
    repeat' first
      | with_reducible assumption
      | with_reducible exact Sealed.refl _
      | with_reducible apply Sealed.ite
      | with_reducible apply Sealed.ite_fst
      | with_reducible apply xlate_sealed
      | with_reducible apply writeOne_sealed
      | exact Fld.keyFree rfl
      | exact Hid.keyFree rfl
      | exact balFld_keyFree _
      | decide
      | with_reducible apply sealedParts_of
      | intro _
      | with_reducible refine Sealed.of_eq (by assumption) ?_
      | with_reducible refine Sealed.of_eq_snd (by assumption) ?_
      | simp only [sealed_mk]
      | split
  | succ n0 ih =>
    unfold State.writePieces
    repeat' first
      | with_reducible assumption
      | with_reducible exact Sealed.refl _
      | with_reducible apply Sealed.ite
      | with_reducible apply Sealed.ite_fst
      | with_reducible apply xlate_sealed
      | with_reducible apply writeOne_sealed
      | with_reducible apply ih
      | exact Fld.keyFree rfl
      | exact Hid.keyFree rfl
      | exact balFld_keyFree _
      | decide
      | with_reducible apply sealedParts_of
      | intro _
      | with_reducible refine Sealed.of_eq (by assumption) ?_
      | with_reducible refine Sealed.of_eq_snd (by assumption) ?_
      | simp only [sealed_mk]
      | split

theorem State.vwriteL_sealed {r s : State} (h : r.Sealed s) (c : Client) (va : ℕ) (d : List Byte) (bads : List Bool) : r.Sealed (State.vwriteL s c va
    d bads).1 := by
  unfold State.vwriteL
  repeat' first
    | with_reducible assumption
    | with_reducible exact Sealed.refl _
    | with_reducible apply Sealed.ite
    | with_reducible apply Sealed.ite_fst
    | with_reducible apply writePieces_sealed
    | with_reducible apply settle_sealed
    | exact Fld.keyFree rfl
    | exact Hid.keyFree rfl
    | exact balFld_keyFree _
    | decide
    | with_reducible apply sealedParts_of
    | intro _
    | with_reducible refine Sealed.of_eq (by assumption) ?_
    | with_reducible refine Sealed.of_eq_snd (by assumption) ?_
    | simp only [sealed_mk]
    | split

theorem State.vwrite_sealed {r s : State} (h : r.Sealed s) (c : Client) (va : ℕ) (d : List Byte) : r.Sealed (State.vwrite s c va d).1 := by
  unfold State.vwrite
  repeat' first
    | with_reducible assumption
    | with_reducible exact Sealed.refl _
    | with_reducible apply Sealed.ite
    | with_reducible apply Sealed.ite_fst
    | with_reducible apply vwriteL_sealed
    | exact Fld.keyFree rfl
    | exact Hid.keyFree rfl
    | exact balFld_keyFree _
    | decide
    | with_reducible apply sealedParts_of
    | intro _
    | with_reducible refine Sealed.of_eq (by assumption) ?_
    | with_reducible refine Sealed.of_eq_snd (by assumption) ?_
    | simp only [sealed_mk]
    | split

theorem State.vwrites_sealed {r s : State} (h : r.Sealed s) (c : Client) (y2 : List VWrite) : r.Sealed (State.vwrites s c y2).1 := by
  induction y2 generalizing s c with
  | nil =>
    unfold State.vwrites
    repeat' first
      | with_reducible assumption
      | with_reducible exact Sealed.refl _
      | with_reducible apply Sealed.ite
      | with_reducible apply Sealed.ite_fst
      | with_reducible apply vwrite_sealed
      | exact Fld.keyFree rfl
      | exact Hid.keyFree rfl
      | exact balFld_keyFree _
      | decide
      | with_reducible apply sealedParts_of
      | intro _
      | with_reducible refine Sealed.of_eq (by assumption) ?_
      | with_reducible refine Sealed.of_eq_snd (by assumption) ?_
      | simp only [sealed_mk]
      | split
  | cons z l ih =>
    unfold State.vwrites
    repeat' first
      | with_reducible assumption
      | with_reducible exact Sealed.refl _
      | with_reducible apply Sealed.ite
      | with_reducible apply Sealed.ite_fst
      | with_reducible apply vwrite_sealed
      | with_reducible apply ih
      | exact Fld.keyFree rfl
      | exact Hid.keyFree rfl
      | exact balFld_keyFree _
      | decide
      | with_reducible apply sealedParts_of
      | intro _
      | with_reducible refine Sealed.of_eq (by assumption) ?_
      | with_reducible refine Sealed.of_eq_snd (by assumption) ?_
      | simp only [sealed_mk]
      | split

theorem State.promote_sealed {r s : State} (h : r.Sealed s) (t : ℕ) (u : ℕ) (ch : ℕ) : r.Sealed (State.promote s t u ch) := by
  unfold State.promote
  repeat' first
    | with_reducible assumption
    | with_reducible exact Sealed.refl _
    | with_reducible apply Sealed.ite
    | with_reducible apply ev_sealed
    | exact Fld.keyFree rfl
    | exact Hid.keyFree rfl
    | exact balFld_keyFree _
    | decide
    | with_reducible apply sealedParts_of
    | intro _
    | with_reducible refine Sealed.of_eq (by assumption) ?_
    | with_reducible refine Sealed.of_eq_snd (by assumption) ?_
    | simp only [sealed_mk]
    | split

theorem State.serveReq_sealed {r s : State} (h : r.Sealed s) (t : ℕ) (u : ℕ) (ch : ℕ) (x : MemReq) : r.Sealed (State.serveReq s t u ch x) := by
  unfold State.serveReq
  repeat' first
    | with_reducible assumption
    | with_reducible exact Sealed.refl _
    | with_reducible apply Sealed.ite
    | with_reducible apply promote_sealed
    | exact Fld.keyFree rfl
    | exact Hid.keyFree rfl
    | exact balFld_keyFree _
    | decide
    | with_reducible apply sealedParts_of
    | intro _
    | with_reducible refine Sealed.of_eq (by assumption) ?_
    | with_reducible refine Sealed.of_eq_snd (by assumption) ?_
    | simp only [sealed_mk]
    | split

theorem State.enqueue_sealed {r0 s : State} (h : r0.Sealed s) (t : ℕ) (u : ℕ) (r : MemReq) : r0.Sealed (State.enqueue s t u r) := by
  unfold State.enqueue
  repeat' first
    | with_reducible assumption
    | with_reducible exact Sealed.refl _
    | with_reducible apply Sealed.ite
    | with_reducible apply ev_sealed
    | exact Fld.keyFree rfl
    | exact Hid.keyFree rfl
    | exact balFld_keyFree _
    | decide
    | with_reducible apply sealedParts_of
    | intro _
    | with_reducible refine Sealed.of_eq (by assumption) ?_
    | with_reducible refine Sealed.of_eq_snd (by assumption) ?_
    | simp only [sealed_mk]
    | split

theorem State.serveAll_sealed {r s : State} (h : r.Sealed s) (t : ℕ) (u : ℕ) (ch : ℕ) (y4 : ℕ) : r.Sealed (State.serveAll s t u ch y4) := by
  induction y4 generalizing s t u ch with
  | zero =>
    unfold State.serveAll
    repeat' first
      | with_reducible assumption
      | with_reducible exact Sealed.refl _
      | with_reducible apply Sealed.ite
      | with_reducible apply serveReq_sealed
      | exact Fld.keyFree rfl
      | exact Hid.keyFree rfl
      | exact balFld_keyFree _
      | decide
      | with_reducible apply sealedParts_of
      | intro _
      | with_reducible refine Sealed.of_eq (by assumption) ?_
      | with_reducible refine Sealed.of_eq_snd (by assumption) ?_
      | simp only [sealed_mk]
      | split
  | succ n0 ih =>
    unfold State.serveAll
    repeat' first
      | with_reducible assumption
      | with_reducible exact Sealed.refl _
      | with_reducible apply Sealed.ite
      | with_reducible apply serveReq_sealed
      | with_reducible apply ih
      | exact Fld.keyFree rfl
      | exact Hid.keyFree rfl
      | exact balFld_keyFree _
      | decide
      | with_reducible apply sealedParts_of
      | intro _
      | with_reducible refine Sealed.of_eq (by assumption) ?_
      | with_reducible refine Sealed.of_eq_snd (by assumption) ?_
      | simp only [sealed_mk]
      | split

theorem State.serveFor_sealed {r s : State} (h : r.Sealed s) (k : ℕ) (p : ℕ) (bs : List ℕ) (y4 : ℕ) : r.Sealed (State.serveFor s k p bs y4) := by
  induction y4 generalizing s k p bs with
  | zero =>
    unfold State.serveFor
    repeat' first
      | with_reducible assumption
      | with_reducible exact Sealed.refl _
      | with_reducible apply Sealed.ite
      | with_reducible apply serveReq_sealed
      | exact Fld.keyFree rfl
      | exact Hid.keyFree rfl
      | exact balFld_keyFree _
      | decide
      | with_reducible apply sealedParts_of
      | intro _
      | with_reducible refine Sealed.of_eq (by assumption) ?_
      | with_reducible refine Sealed.of_eq_snd (by assumption) ?_
      | simp only [sealed_mk]
      | split
  | succ n0 ih =>
    unfold State.serveFor
    repeat' first
      | with_reducible assumption
      | with_reducible exact Sealed.refl _
      | with_reducible apply Sealed.ite
      | with_reducible apply serveReq_sealed
      | with_reducible apply ih
      | exact Fld.keyFree rfl
      | exact Hid.keyFree rfl
      | exact balFld_keyFree _
      | decide
      | with_reducible apply sealedParts_of
      | intro _
      | with_reducible refine Sealed.of_eq (by assumption) ?_
      | with_reducible refine Sealed.of_eq_snd (by assumption) ?_
      | simp only [sealed_mk]
      | split

theorem State.serveBanks_sealed {r s : State} (h : r.Sealed s) (k : ℕ) (p : ℕ) : r.Sealed (State.serveBanks s k p) := by
  unfold State.serveBanks
  repeat' first
    | with_reducible assumption
    | with_reducible exact Sealed.refl _
    | with_reducible apply Sealed.ite
    | with_reducible apply serveFor_sealed
    | rw [List.foldl_cons]
    | rw [List.foldl_nil]
    | exact Fld.keyFree rfl
    | exact Hid.keyFree rfl
    | exact balFld_keyFree _
    | decide
    | with_reducible refine Sealed.foldl ?_ (fun u x => ?_)
    | with_reducible refine Sealed.foldl_fst ?_ (fun u x => ?_)
    | with_reducible apply sealedParts_of
    | intro _
    | with_reducible refine Sealed.of_eq (by assumption) ?_
    | with_reducible refine Sealed.of_eq_snd (by assumption) ?_
    | simp only [sealed_mk]
    | split

theorem State.serveQueues_sealed {r s : State} (h : r.Sealed s) : r.Sealed (State.serveQueues s) := by
  unfold State.serveQueues
  repeat' first
    | with_reducible assumption
    | with_reducible exact Sealed.refl _
    | with_reducible apply Sealed.ite
    | with_reducible apply serveAll_sealed
    | rw [List.foldl_cons]
    | rw [List.foldl_nil]
    | exact Fld.keyFree rfl
    | exact Hid.keyFree rfl
    | exact balFld_keyFree _
    | decide
    | with_reducible refine Sealed.foldl ?_ (fun u x => ?_)
    | with_reducible refine Sealed.foldl_fst ?_ (fun u x => ?_)
    | with_reducible apply sealedParts_of
    | intro _
    | with_reducible refine Sealed.of_eq (by assumption) ?_
    | with_reducible refine Sealed.of_eq_snd (by assumption) ?_
    | simp only [sealed_mk]
    | split

theorem State.setStrip_sealed {r s : State} (h : r.Sealed s) (k : ℕ) (st : Strip) : r.Sealed (State.setStrip s k st) := by
  unfold State.setStrip
  repeat' first
    | with_reducible assumption
    | with_reducible exact Sealed.refl _
    | with_reducible apply Sealed.ite
    | exact Fld.keyFree rfl
    | exact Hid.keyFree rfl
    | exact balFld_keyFree _
    | decide
    | with_reducible apply sealedParts_of
    | intro _
    | with_reducible refine Sealed.of_eq (by assumption) ?_
    | with_reducible refine Sealed.of_eq_snd (by assumption) ?_
    | simp only [sealed_mk]
    | split

theorem State.syncBlanks_sealed {r s : State} (h : r.Sealed s) (q : ℕ) : r.Sealed (State.syncBlanks s q) := by
  unfold State.syncBlanks
  repeat' first
    | with_reducible assumption
    | with_reducible exact Sealed.refl _
    | with_reducible apply Sealed.ite
    | with_reducible apply wr_sealed
    | exact Fld.keyFree rfl
    | exact Hid.keyFree rfl
    | exact balFld_keyFree _
    | decide
    | with_reducible apply sealedParts_of
    | intro _
    | with_reducible refine Sealed.of_eq (by assumption) ?_
    | with_reducible refine Sealed.of_eq_snd (by assumption) ?_
    | simp only [sealed_mk]
    | split

theorem State.placeBlank_sealed {r s : State} (h : r.Sealed s) (o : Op) (top : ℕ) (left : ℕ) (c : ℕ) : r.Sealed (State.placeBlank s o top left c) :=
    by
  unfold State.placeBlank
  repeat' first
    | with_reducible assumption
    | with_reducible exact Sealed.refl _
    | with_reducible apply Sealed.ite
    | with_reducible apply setOp_sealed
    | with_reducible apply syncBlanks_sealed
    | with_reducible apply startAlloc_sealed
    | exact Fld.keyFree rfl
    | exact Hid.keyFree rfl
    | exact balFld_keyFree _
    | decide
    | with_reducible apply sealedParts_of
    | intro _
    | with_reducible refine Sealed.of_eq (by assumption) ?_
    | with_reducible refine Sealed.of_eq_snd (by assumption) ?_
    | simp only [sealed_mk]
    | split

theorem State.scanTo_sealed {r s : State} (h : r.Sealed s) (q : ℕ) (c : ℕ) (y3 : ℕ) : r.Sealed (State.scanTo s q c y3) := by
  induction y3 generalizing s q c with
  | zero =>
    unfold State.scanTo
    repeat' first
      | with_reducible assumption
      | with_reducible exact Sealed.refl _
      | with_reducible apply Sealed.ite
      | with_reducible apply placeBlank_sealed
      | with_reducible apply setH_sealed
      | exact Fld.keyFree rfl
      | exact Hid.keyFree rfl
      | exact balFld_keyFree _
      | decide
      | with_reducible apply sealedParts_of
      | intro _
      | with_reducible refine Sealed.of_eq (by assumption) ?_
      | with_reducible refine Sealed.of_eq_snd (by assumption) ?_
      | simp only [sealed_mk]
      | split
  | succ n0 ih =>
    unfold State.scanTo
    repeat' first
      | with_reducible assumption
      | with_reducible exact Sealed.refl _
      | with_reducible apply Sealed.ite
      | with_reducible apply placeBlank_sealed
      | with_reducible apply setH_sealed
      | with_reducible apply ih
      | exact Fld.keyFree rfl
      | exact Hid.keyFree rfl
      | exact balFld_keyFree _
      | decide
      | with_reducible apply sealedParts_of
      | intro _
      | with_reducible refine Sealed.of_eq (by assumption) ?_
      | with_reducible refine Sealed.of_eq_snd (by assumption) ?_
      | simp only [sealed_mk]
      | split

theorem State.writeRecord_sealed {r s : State} (h : r.Sealed s) (o : Op) : r.Sealed (State.writeRecord s o).1 := by
  unfold State.writeRecord
  repeat' first
    | with_reducible assumption
    | with_reducible exact Sealed.refl _
    | with_reducible apply Sealed.ite
    | with_reducible apply Sealed.ite_fst
    | with_reducible apply vwrite_sealed
    | with_reducible apply setOp_sealed
    | with_reducible apply mark_sealed
    | exact Fld.keyFree rfl
    | exact Hid.keyFree rfl
    | exact balFld_keyFree _
    | decide
    | with_reducible apply sealedParts_of
    | intro _
    | with_reducible refine Sealed.of_eq (by assumption) ?_
    | with_reducible refine Sealed.of_eq_snd (by assumption) ?_
    | simp only [sealed_mk]
    | split

theorem State.clearRecord_sealed {r s : State} (h : r.Sealed s) (o : Op) : r.Sealed (State.clearRecord s o) := by
  unfold State.clearRecord
  repeat' first
    | with_reducible assumption
    | with_reducible exact Sealed.refl _
    | with_reducible apply Sealed.ite
    | with_reducible apply Sealed.ite_fst
    | with_reducible apply vread_sealed
    | with_reducible apply vwrite_sealed
    | exact Fld.keyFree rfl
    | exact Hid.keyFree rfl
    | exact balFld_keyFree _
    | decide
    | with_reducible apply sealedParts_of
    | intro _
    | with_reducible refine Sealed.of_eq (by assumption) ?_
    | with_reducible refine Sealed.of_eq_snd (by assumption) ?_
    | simp only [sealed_mk]
    | split

theorem State.signalBar_sealed {r s : State} (h : r.Sealed s) (q : ℕ) (b : ℕ) (status : ℕ) : r.Sealed (State.signalBar s q b status) := by
  unfold State.signalBar
  repeat' first
    | with_reducible assumption
    | with_reducible exact Sealed.refl _
    | with_reducible apply Sealed.ite
    | with_reducible apply wr_sealed
    | with_reducible apply mark_sealed
    | exact Fld.keyFree rfl
    | exact Hid.keyFree rfl
    | exact balFld_keyFree _
    | decide
    | with_reducible apply sealedParts_of
    | intro _
    | with_reducible refine Sealed.of_eq (by assumption) ?_
    | with_reducible refine Sealed.of_eq_snd (by assumption) ?_
    | simp only [sealed_mk]
    | split

theorem State.pageVector_sealed {r s : State} (h : r.Sealed s) (page : ℕ) : r.Sealed (State.pageVector s page) := by
  unfold State.pageVector
  repeat' first
    | with_reducible assumption
    | with_reducible exact Sealed.refl _
    | with_reducible apply Sealed.ite
    | with_reducible apply raiseVf_sealed
    | with_reducible apply sendMsix_sealed
    | exact Fld.keyFree rfl
    | exact Hid.keyFree rfl
    | exact balFld_keyFree _
    | decide
    | with_reducible apply sealedParts_of
    | intro _
    | with_reducible refine Sealed.of_eq (by assumption) ?_
    | with_reducible refine Sealed.of_eq_snd (by assumption) ?_
    | simp only [sealed_mk]
    | split

theorem State.ringFault_sealed {r s : State} (h : r.Sealed s) (page : ℕ) : r.Sealed (State.ringFault s page) := by
  unfold State.ringFault
  repeat' first
    | with_reducible assumption
    | with_reducible exact Sealed.refl _
    | with_reducible apply Sealed.ite
    | with_reducible apply wr_sealed
    | with_reducible apply mark_sealed
    | with_reducible apply raiseVf_sealed
    | with_reducible apply raisePf_sealed
    | exact Fld.keyFree rfl
    | exact Hid.keyFree rfl
    | exact balFld_keyFree _
    | decide
    | with_reducible apply sealedParts_of
    | intro _
    | with_reducible refine Sealed.of_eq (by assumption) ?_
    | with_reducible refine Sealed.of_eq_snd (by assumption) ?_
    | simp only [sealed_mk]
    | split

theorem State.ringRead_sealed {r s : State} (h : r.Sealed s) (page : ℕ) (loc : ℕ) (a : ℕ) (n : ℕ) : r.Sealed (State.ringRead s page loc a n).1 := by
  unfold State.ringRead
  repeat' first
    | with_reducible assumption
    | with_reducible exact Sealed.refl _
    | with_reducible apply Sealed.ite
    | with_reducible apply Sealed.ite_fst
    | with_reducible apply vread_sealed
    | exact Fld.keyFree rfl
    | exact Hid.keyFree rfl
    | exact balFld_keyFree _
    | decide
    | with_reducible apply sealedParts_of
    | intro _
    | with_reducible refine Sealed.of_eq (by assumption) ?_
    | with_reducible refine Sealed.of_eq_snd (by assumption) ?_
    | simp only [sealed_mk]
    | split

theorem State.ringWrite_sealed {r s : State} (h : r.Sealed s) (page : ℕ) (loc : ℕ) (a : ℕ) (d : List Byte) : r.Sealed (State.ringWrite s page loc a
    d).1 := by
  unfold State.ringWrite
  repeat' first
    | with_reducible assumption
    | with_reducible exact Sealed.refl _
    | with_reducible apply Sealed.ite
    | with_reducible apply Sealed.ite_fst
    | with_reducible apply setBytes_sealed
    | with_reducible apply vwrite_sealed
    | exact Fld.keyFree rfl
    | exact Hid.keyFree rfl
    | exact balFld_keyFree _
    | decide
    | with_reducible apply sealedParts_of
    | intro _
    | with_reducible refine Sealed.of_eq (by assumption) ?_
    | with_reducible refine Sealed.of_eq_snd (by assumption) ?_
    | simp only [sealed_mk]
    | split

theorem State.postNow_sealed {r s : State} (h : r.Sealed s) (page : ℕ) (c : Cpl) : r.Sealed (State.postNow s page c).1 := by
  unfold State.postNow
  repeat' first
    | with_reducible assumption
    | with_reducible exact Sealed.refl _
    | with_reducible apply Sealed.ite
    | with_reducible apply Sealed.ite_fst
    | with_reducible apply ringWrite_sealed
    | with_reducible apply pageVector_sealed
    | with_reducible apply wr_sealed
    | with_reducible apply ringFault_sealed
    | exact Fld.keyFree rfl
    | exact Hid.keyFree rfl
    | exact balFld_keyFree _
    | decide
    | with_reducible apply sealedParts_of
    | intro _
    | with_reducible refine Sealed.of_eq (by assumption) ?_
    | with_reducible refine Sealed.of_eq_snd (by assumption) ?_
    | simp only [sealed_mk]
    | split

theorem State.endCqWait_sealed {r s : State} (h : r.Sealed s) (page : ℕ) : r.Sealed (State.endCqWait s page) := by
  unfold State.endCqWait
  repeat' first
    | with_reducible assumption
    | with_reducible exact Sealed.refl _
    | with_reducible apply Sealed.ite
    | with_reducible apply setH_sealed
    | with_reducible apply ev_sealed
    | exact Fld.keyFree rfl
    | exact Hid.keyFree rfl
    | exact balFld_keyFree _
    | decide
    | with_reducible apply sealedParts_of
    | intro _
    | with_reducible refine Sealed.of_eq (by assumption) ?_
    | with_reducible refine Sealed.of_eq_snd (by assumption) ?_
    | simp only [sealed_mk]
    | split

theorem State.drainCq_sealed {r s : State} (h : r.Sealed s) (page : ℕ) (y2 : ℕ) : r.Sealed (State.drainCq s page y2) := by
  induction y2 generalizing s page with
  | zero =>
    unfold State.drainCq
    repeat' first
      | with_reducible assumption
      | with_reducible exact Sealed.refl _
      | with_reducible apply Sealed.ite
      | with_reducible apply Sealed.ite_fst
      | with_reducible apply setH_sealed
      | with_reducible apply postNow_sealed
      | with_reducible apply endCqWait_sealed
      | exact Fld.keyFree rfl
      | exact Hid.keyFree rfl
      | exact balFld_keyFree _
      | decide
      | with_reducible apply sealedParts_of
      | intro _
      | with_reducible refine Sealed.of_eq (by assumption) ?_
      | with_reducible refine Sealed.of_eq_snd (by assumption) ?_
      | simp only [sealed_mk]
      | split
  | succ n0 ih =>
    unfold State.drainCq
    repeat' first
      | with_reducible assumption
      | with_reducible exact Sealed.refl _
      | with_reducible apply Sealed.ite
      | with_reducible apply Sealed.ite_fst
      | with_reducible apply setH_sealed
      | with_reducible apply postNow_sealed
      | with_reducible apply endCqWait_sealed
      | with_reducible apply ih
      | exact Fld.keyFree rfl
      | exact Hid.keyFree rfl
      | exact balFld_keyFree _
      | decide
      | with_reducible apply sealedParts_of
      | intro _
      | with_reducible refine Sealed.of_eq (by assumption) ?_
      | with_reducible refine Sealed.of_eq_snd (by assumption) ?_
      | simp only [sealed_mk]
      | split

theorem State.complete_sealed {r s : State} (h : r.Sealed s) (page : ℕ) (c : Cpl) : r.Sealed (State.complete s page c) := by
  unfold State.complete
  repeat' first
    | with_reducible assumption
    | with_reducible exact Sealed.refl _
    | with_reducible apply Sealed.ite
    | with_reducible apply wr_sealed
    | with_reducible apply setH_sealed
    | with_reducible apply raiseVf_sealed
    | with_reducible apply sendMsix_sealed
    | with_reducible apply drainCq_sealed
    | exact Fld.keyFree rfl
    | exact Hid.keyFree rfl
    | exact balFld_keyFree _
    | decide
    | with_reducible apply sealedParts_of
    | intro _
    | with_reducible refine Sealed.of_eq (by assumption) ?_
    | with_reducible refine Sealed.of_eq_snd (by assumption) ?_
    | simp only [sealed_mk]
    | split

theorem State.releaseClaims_sealed {r s : State} (h : r.Sealed s) (q : ℕ) (b : ℕ) (y3 : ℕ) : r.Sealed (State.releaseClaims s q b y3) := by
  induction y3 generalizing s q b with
  | zero =>
    unfold State.releaseClaims
    repeat' first
      | with_reducible assumption
      | with_reducible exact Sealed.refl _
      | with_reducible apply Sealed.ite
      | with_reducible apply wr_sealed
      | exact Fld.keyFree rfl
      | exact Hid.keyFree rfl
      | exact balFld_keyFree _
      | decide
      | with_reducible apply sealedParts_of
      | intro _
      | with_reducible refine Sealed.of_eq (by assumption) ?_
      | with_reducible refine Sealed.of_eq_snd (by assumption) ?_
      | simp only [sealed_mk]
      | split
  | succ n0 ih =>
    unfold State.releaseClaims
    repeat' first
      | with_reducible assumption
      | with_reducible exact Sealed.refl _
      | with_reducible apply Sealed.ite
      | with_reducible apply wr_sealed
      | with_reducible apply ih
      | exact Fld.keyFree rfl
      | exact Hid.keyFree rfl
      | exact balFld_keyFree _
      | decide
      | with_reducible apply sealedParts_of
      | intro _
      | with_reducible refine Sealed.of_eq (by assumption) ?_
      | with_reducible refine Sealed.of_eq_snd (by assumption) ?_
      | simp only [sealed_mk]
      | split

theorem State.endClaim_sealed {r s : State} (h : r.Sealed s) (o : Op) : r.Sealed (State.endClaim s o) := by
  unfold State.endClaim
  repeat' first
    | with_reducible assumption
    | with_reducible exact Sealed.refl _
    | with_reducible apply Sealed.ite
    | with_reducible apply releaseClaims_sealed
    | exact Fld.keyFree rfl
    | exact Hid.keyFree rfl
    | exact balFld_keyFree _
    | decide
    | with_reducible apply sealedParts_of
    | intro _
    | with_reducible refine Sealed.of_eq (by assumption) ?_
    | with_reducible refine Sealed.of_eq_snd (by assumption) ?_
    | simp only [sealed_mk]
    | split

theorem State.releaseBlank_sealed {r s : State} (h : r.Sealed s) (id : ℕ) : r.Sealed (State.releaseBlank s id) := by
  unfold State.releaseBlank
  repeat' first
    | with_reducible assumption
    | with_reducible exact Sealed.refl _
    | with_reducible apply Sealed.ite
    | with_reducible apply scanTo_sealed
    | with_reducible apply setH_sealed
    | with_reducible apply ev_sealed
    | with_reducible apply setOp_sealed
    | exact Fld.keyFree rfl
    | exact Hid.keyFree rfl
    | exact balFld_keyFree _
    | decide
    | with_reducible apply sealedParts_of
    | intro _
    | with_reducible refine Sealed.of_eq (by assumption) ?_
    | with_reducible refine Sealed.of_eq_snd (by assumption) ?_
    | simp only [sealed_mk]
    | split

theorem State.endOp_sealed {r s : State} (h : r.Sealed s) (id : ℕ) (status : ℕ) (y3 : ℕ) : r.Sealed (State.endOp s id status y3) := by
  induction y3 generalizing s id status with
  | zero =>
    unfold State.endOp
    repeat' first
      | with_reducible assumption
      | with_reducible exact Sealed.refl _
      | with_reducible apply Sealed.ite
      | with_reducible apply releaseBlank_sealed
      | with_reducible apply endClaim_sealed
      | with_reducible apply clearRecord_sealed
      | with_reducible apply signalBar_sealed
      | with_reducible apply dropOp_sealed
      | with_reducible apply setOp_sealed
      | with_reducible apply complete_sealed
      | exact Fld.keyFree rfl
      | exact Hid.keyFree rfl
      | exact balFld_keyFree _
      | decide
      | with_reducible apply sealedParts_of
      | intro _
      | with_reducible refine Sealed.of_eq (by assumption) ?_
      | with_reducible refine Sealed.of_eq_snd (by assumption) ?_
      | simp only [sealed_mk]
      | split
  | succ n0 ih =>
    unfold State.endOp
    repeat' first
      | with_reducible assumption
      | with_reducible exact Sealed.refl _
      | with_reducible apply Sealed.ite
      | with_reducible apply releaseBlank_sealed
      | with_reducible apply endClaim_sealed
      | with_reducible apply clearRecord_sealed
      | with_reducible apply signalBar_sealed
      | with_reducible apply dropOp_sealed
      | with_reducible apply setOp_sealed
      | with_reducible apply complete_sealed
      | with_reducible apply ih
      | exact Fld.keyFree rfl
      | exact Hid.keyFree rfl
      | exact balFld_keyFree _
      | decide
      | with_reducible apply sealedParts_of
      | intro _
      | with_reducible refine Sealed.of_eq (by assumption) ?_
      | with_reducible refine Sealed.of_eq_snd (by assumption) ?_
      | simp only [sealed_mk]
      | split

theorem State.finish_sealed {r s : State} (h : r.Sealed s) (id : ℕ) (status : ℕ) : r.Sealed (State.finish s id status) := by
  unfold State.finish
  repeat' first
    | with_reducible assumption
    | with_reducible exact Sealed.refl _
    | with_reducible apply Sealed.ite
    | with_reducible apply endOp_sealed
    | exact Fld.keyFree rfl
    | exact Hid.keyFree rfl
    | exact balFld_keyFree _
    | decide
    | with_reducible apply sealedParts_of
    | intro _
    | with_reducible refine Sealed.of_eq (by assumption) ?_
    | with_reducible refine Sealed.of_eq_snd (by assumption) ?_
    | simp only [sealed_mk]
    | split

theorem State.finishWith_sealed {r s : State} (h : r.Sealed s) (id : ℕ) (status : ℕ) : r.Sealed (State.finishWith s id status) := by
  unfold State.finishWith
  repeat' first
    | with_reducible assumption
    | with_reducible exact Sealed.refl _
    | with_reducible apply Sealed.ite
    | with_reducible apply finish_sealed
    | exact Fld.keyFree rfl
    | exact Hid.keyFree rfl
    | exact balFld_keyFree _
    | decide
    | with_reducible apply sealedParts_of
    | intro _
    | with_reducible refine Sealed.of_eq (by assumption) ?_
    | with_reducible refine Sealed.of_eq_snd (by assumption) ?_
    | simp only [sealed_mk]
    | split

theorem State.parkOp_sealed {r s : State} (h : r.Sealed s) (id : ℕ) (spilled : Bool) (overrun : Bool) (noProgress : ℕ) : r.Sealed (State.parkOp s id
    spilled overrun noProgress) := by
  unfold State.parkOp
  repeat' first
    | with_reducible assumption
    | with_reducible exact Sealed.refl _
    | with_reducible apply Sealed.ite
    | with_reducible apply Sealed.ite_fst
    | with_reducible apply writeRecord_sealed
    | with_reducible apply setOp_sealed
    | with_reducible apply leaveAlloc_sealed
    | with_reducible apply releaseBlank_sealed
    | with_reducible apply finish_sealed
    | exact Fld.keyFree rfl
    | exact Hid.keyFree rfl
    | exact balFld_keyFree _
    | decide
    | with_reducible apply sealedParts_of
    | intro _
    | with_reducible refine Sealed.of_eq (by assumption) ?_
    | with_reducible refine Sealed.of_eq_snd (by assumption) ?_
    | simp only [sealed_mk]
    | split

theorem State.lateDone_sealed {r s : State} (h : r.Sealed s) (u : Until) (status : ℕ) : r.Sealed (State.lateDone s u status) := by
  unfold State.lateDone
  repeat' first
    | with_reducible assumption
    | with_reducible exact Sealed.refl _
    | with_reducible apply Sealed.ite
    | with_reducible apply complete_sealed
    | rw [List.foldl_cons]
    | rw [List.foldl_nil]
    | exact Fld.keyFree rfl
    | exact Hid.keyFree rfl
    | exact balFld_keyFree _
    | decide
    | with_reducible refine Sealed.foldl ?_ (fun u x => ?_)
    | with_reducible refine Sealed.foldl_fst ?_ (fun u x => ?_)
    | with_reducible apply sealedParts_of
    | intro _
    | with_reducible refine Sealed.of_eq (by assumption) ?_
    | with_reducible refine Sealed.of_eq_snd (by assumption) ?_
    | simp only [sealed_mk]
    | split

theorem State.refuse_sealed {r s : State} (h : r.Sealed s) (a : Agent) (off : ℕ) : r.Sealed (State.refuse s a off) := by
  unfold State.refuse
  repeat' first
    | with_reducible assumption
    | with_reducible exact Sealed.refl _
    | with_reducible apply Sealed.ite
    | with_reducible apply fnErr_sealed
    | exact Fld.keyFree rfl
    | exact Hid.keyFree rfl
    | exact balFld_keyFree _
    | decide
    | with_reducible apply sealedParts_of
    | intro _
    | with_reducible refine Sealed.of_eq (by assumption) ?_
    | with_reducible refine Sealed.of_eq_snd (by assumption) ?_
    | simp only [sealed_mk]
    | split

theorem State.applyFence_sealed {r s : State} (h : r.Sealed s) (x : ℕ) (y : ℕ) : r.Sealed (State.applyFence s x y) := by
  unfold State.applyFence
  repeat' first
    | with_reducible assumption
    | with_reducible exact Sealed.refl _
    | with_reducible apply Sealed.ite
    | with_reducible apply setStrip_sealed
    | exact Fld.keyFree rfl
    | exact Hid.keyFree rfl
    | exact balFld_keyFree _
    | decide
    | with_reducible apply sealedParts_of
    | intro _
    | with_reducible refine Sealed.of_eq (by assumption) ?_
    | with_reducible refine Sealed.of_eq_snd (by assumption) ?_
    | simp only [sealed_mk]
    | split

theorem State.applyUnfence_sealed {r s : State} (h : r.Sealed s) (x : ℕ) (y : ℕ) : r.Sealed (State.applyUnfence s x y) := by
  unfold State.applyUnfence
  repeat' first
    | with_reducible assumption
    | with_reducible exact Sealed.refl _
    | with_reducible apply Sealed.ite
    | with_reducible apply setStrip_sealed
    | exact Fld.keyFree rfl
    | exact Hid.keyFree rfl
    | exact balFld_keyFree _
    | decide
    | with_reducible apply sealedParts_of
    | intro _
    | with_reducible refine Sealed.of_eq (by assumption) ?_
    | with_reducible refine Sealed.of_eq_snd (by assumption) ?_
    | simp only [sealed_mk]
    | split

theorem State.syncStrip_sealed {r s : State} (h : r.Sealed s) (old : State) (k : ℕ) : r.Sealed (State.syncStrip old s k) := by
  unfold State.syncStrip
  repeat' first
    | with_reducible assumption
    | with_reducible exact Sealed.refl _
    | with_reducible apply Sealed.ite
    | with_reducible apply wr_sealed
    | with_reducible apply mark_sealed
    | exact Fld.keyFree rfl
    | exact Hid.keyFree rfl
    | exact balFld_keyFree _
    | decide
    | with_reducible apply sealedParts_of
    | intro _
    | with_reducible refine Sealed.of_eq (by assumption) ?_
    | with_reducible refine Sealed.of_eq_snd (by assumption) ?_
    | simp only [sealed_mk]
    | split

theorem State.startClearing_sealed {r s : State} (h : r.Sealed s) (k : ℕ) : r.Sealed (State.startClearing s k) := by
  unfold State.startClearing
  repeat' first
    | with_reducible assumption
    | with_reducible exact Sealed.refl _
    | with_reducible apply Sealed.ite
    | with_reducible apply wr_sealed
    | exact Fld.keyFree rfl
    | exact Hid.keyFree rfl
    | exact balFld_keyFree _
    | decide
    | with_reducible apply sealedParts_of
    | intro _
    | with_reducible refine Sealed.of_eq (by assumption) ?_
    | with_reducible refine Sealed.of_eq_snd (by assumption) ?_
    | simp only [sealed_mk]
    | split

theorem State.syncPending_sealed {r s : State} (h : r.Sealed s) (q : ℕ) : r.Sealed (State.syncPending s q) := by
  unfold State.syncPending
  repeat' first
    | with_reducible assumption
    | with_reducible exact Sealed.refl _
    | with_reducible apply Sealed.ite
    | with_reducible apply wr_sealed
    | exact Fld.keyFree rfl
    | exact Hid.keyFree rfl
    | exact balFld_keyFree _
    | decide
    | with_reducible apply sealedParts_of
    | intro _
    | with_reducible refine Sealed.of_eq (by assumption) ?_
    | with_reducible refine Sealed.of_eq_snd (by assumption) ?_
    | simp only [sealed_mk]
    | split

theorem State.trimQuarter_sealed {r s : State} (h : r.Sealed s) (q : ℕ) : r.Sealed (State.trimQuarter s q) := by
  unfold State.trimQuarter
  repeat' first
    | with_reducible assumption
    | with_reducible exact Sealed.refl _
    | with_reducible apply Sealed.ite
    | with_reducible apply startClearing_sealed
    | with_reducible apply mark_sealed
    | with_reducible apply wr_sealed
    | with_reducible apply syncPending_sealed
    | rw [List.foldl_cons]
    | rw [List.foldl_nil]
    | exact Fld.keyFree rfl
    | exact Hid.keyFree rfl
    | exact balFld_keyFree _
    | decide
    | with_reducible refine Sealed.foldl ?_ (fun u x => ?_)
    | with_reducible refine Sealed.foldl_fst ?_ (fun u x => ?_)
    | with_reducible apply sealedParts_of
    | intro _
    | with_reducible refine Sealed.of_eq (by assumption) ?_
    | with_reducible refine Sealed.of_eq_snd (by assumption) ?_
    | simp only [sealed_mk]
    | split

theorem State.applyFences_sealed {r s : State} (h : r.Sealed s) : r.Sealed (State.applyFences s) := by
  unfold State.applyFences
  repeat' first
    | with_reducible assumption
    | with_reducible exact Sealed.refl _
    | with_reducible apply Sealed.ite
    | with_reducible apply applyUnfence_sealed
    | with_reducible apply applyFence_sealed
    | with_reducible apply wr_sealed
    | with_reducible apply syncStrip_sealed
    | with_reducible apply mark_sealed
    | with_reducible apply trimQuarter_sealed
    | rw [List.foldl_cons]
    | rw [List.foldl_nil]
    | exact Fld.keyFree rfl
    | exact Hid.keyFree rfl
    | exact balFld_keyFree _
    | decide
    | with_reducible refine Sealed.foldl ?_ (fun u x => ?_)
    | with_reducible refine Sealed.foldl_fst ?_ (fun u x => ?_)
    | with_reducible apply sealedParts_of
    | intro _
    | with_reducible refine Sealed.of_eq (by assumption) ?_
    | with_reducible refine Sealed.of_eq_snd (by assumption) ?_
    | simp only [sealed_mk]
    | split

theorem State.loseScratch_sealed {r s : State} (h : r.Sealed s) (q : ℕ) : r.Sealed (State.loseScratch s q) := by
  unfold State.loseScratch
  repeat' first
    | with_reducible assumption
    | with_reducible exact Sealed.refl _
    | with_reducible apply Sealed.ite
    | with_reducible apply addH_sealed
    | exact Fld.keyFree rfl
    | exact Hid.keyFree rfl
    | exact balFld_keyFree _
    | decide
    | with_reducible apply sealedParts_of
    | intro _
    | with_reducible refine Sealed.of_eq (by assumption) ?_
    | with_reducible refine Sealed.of_eq_snd (by assumption) ?_
    | simp only [sealed_mk]
    | split

theorem State.zeroScratch_sealed {r s : State} (h : r.Sealed s) (q : ℕ) : r.Sealed (State.zeroScratch s q) := by
  unfold State.zeroScratch
  repeat' first
    | with_reducible assumption
    | with_reducible exact Sealed.refl _
    | with_reducible apply Sealed.ite
    | with_reducible apply setH_sealed
    | with_reducible apply wipe_sealed
    | exact Fld.keyFree rfl
    | exact Hid.keyFree rfl
    | exact balFld_keyFree _
    | decide
    | with_reducible apply sealedParts_of
    | intro _
    | with_reducible refine Sealed.of_eq (by assumption) ?_
    | with_reducible refine Sealed.of_eq_snd (by assumption) ?_
    | simp only [sealed_mk]
    | split

theorem State.settleSize_sealed {r s : State} (h : r.Sealed s) (q : ℕ) (oldP : ℕ) (oldWays : ℕ) : r.Sealed (State.settleSize s q oldP oldWays) := by
  unfold State.settleSize
  repeat' first
    | with_reducible assumption
    | with_reducible exact Sealed.refl _
    | with_reducible apply Sealed.ite
    | with_reducible apply flushLines_sealed
    | with_reducible apply zeroScratch_sealed
    | with_reducible apply loseScratch_sealed
    | with_reducible apply setH_sealed
    | with_reducible apply mark_sealed
    | exact Fld.keyFree rfl
    | exact Hid.keyFree rfl
    | exact balFld_keyFree _
    | decide
    | with_reducible apply sealedParts_of
    | intro _
    | with_reducible refine Sealed.of_eq (by assumption) ?_
    | with_reducible refine Sealed.of_eq_snd (by assumption) ?_
    | simp only [sealed_mk]
    | split

theorem State.refence_sealed {r s : State} (h : r.Sealed s) : r.Sealed (State.refence s) := by
  unfold State.refence
  repeat' first
    | with_reducible assumption
    | with_reducible exact Sealed.refl _
    | with_reducible apply Sealed.ite
    | with_reducible apply applyFences_sealed
    | with_reducible apply settleSize_sealed
    | rw [List.foldl_cons]
    | rw [List.foldl_nil]
    | exact Fld.keyFree rfl
    | exact Hid.keyFree rfl
    | exact balFld_keyFree _
    | decide
    | with_reducible refine Sealed.foldl ?_ (fun u x => ?_)
    | with_reducible refine Sealed.foldl_fst ?_ (fun u x => ?_)
    | with_reducible apply sealedParts_of
    | intro _
    | with_reducible refine Sealed.of_eq (by assumption) ?_
    | with_reducible refine Sealed.of_eq_snd (by assumption) ?_
    | simp only [sealed_mk]
    | split

theorem State.sizeRefused_sealed {r s : State} (h : r.Sealed s) (q : ℕ) : r.Sealed (State.sizeRefused s q) := by
  unfold State.sizeRefused
  repeat' first
    | with_reducible assumption
    | with_reducible exact Sealed.refl _
    | with_reducible apply Sealed.ite
    | with_reducible apply fnErr_sealed
    | with_reducible apply mark_sealed
    | exact Fld.keyFree rfl
    | exact Hid.keyFree rfl
    | exact balFld_keyFree _
    | decide
    | with_reducible apply sealedParts_of
    | intro _
    | with_reducible refine Sealed.of_eq (by assumption) ?_
    | with_reducible refine Sealed.of_eq_snd (by assumption) ?_
    | simp only [sealed_mk]
    | split

theorem State.applyAssign_sealed {r s : State} (h : r.Sealed s) (q : ℕ) : r.Sealed (State.applyAssign s q) := by
  unfold State.applyAssign
  repeat' first
    | with_reducible assumption
    | with_reducible exact Sealed.refl _
    | with_reducible apply Sealed.ite
    | with_reducible apply sizeRefused_sealed
    | with_reducible apply wr_sealed
    | with_reducible apply startClearing_sealed
    | with_reducible apply syncPending_sealed
    | rw [List.foldl_cons]
    | rw [List.foldl_nil]
    | exact Fld.keyFree rfl
    | exact Hid.keyFree rfl
    | exact balFld_keyFree _
    | decide
    | with_reducible refine Sealed.foldl ?_ (fun u x => ?_)
    | with_reducible refine Sealed.foldl_fst ?_ (fun u x => ?_)
    | with_reducible apply sealedParts_of
    | intro _
    | with_reducible refine Sealed.of_eq (by assumption) ?_
    | with_reducible refine Sealed.of_eq_snd (by assumption) ?_
    | simp only [sealed_mk]
    | split

theorem State.suspect_sealed {r s : State} (h : r.Sealed s) (x : ℕ) (y : ℕ) : r.Sealed (State.suspect s x y).1 := by
  unfold State.suspect
  repeat' first
    | with_reducible assumption
    | with_reducible exact Sealed.refl _
    | with_reducible apply Sealed.ite
    | with_reducible apply Sealed.ite_fst
    | with_reducible apply scanTo_sealed
    | with_reducible apply wr_sealed
    | exact Fld.keyFree rfl
    | exact Hid.keyFree rfl
    | exact balFld_keyFree _
    | decide
    | with_reducible apply sealedParts_of
    | intro _
    | with_reducible refine Sealed.of_eq (by assumption) ?_
    | with_reducible refine Sealed.of_eq_snd (by assumption) ?_
    | simp only [sealed_mk]
    | split

theorem State.fenceReq_sealed {r s : State} (h : r.Sealed s) (x : ℕ) (y : ℕ) (action : ℕ) (fromMc : Bool) : r.Sealed (State.fenceReq s x y action
    fromMc) := by
  unfold State.fenceReq
  repeat' first
    | with_reducible assumption
    | with_reducible exact Sealed.refl _
    | with_reducible apply Sealed.ite
    | with_reducible apply Sealed.ite_fst
    | with_reducible apply mark_sealed
    | with_reducible apply wr_sealed
    | with_reducible apply suspect_sealed
    | exact Fld.keyFree rfl
    | exact Hid.keyFree rfl
    | exact balFld_keyFree _
    | decide
    | with_reducible apply sealedParts_of
    | intro _
    | with_reducible refine Sealed.of_eq (by assumption) ?_
    | with_reducible refine Sealed.of_eq_snd (by assumption) ?_
    | simp only [sealed_mk]
    | split

theorem State.allocate_sealed {r s : State} (h : r.Sealed s) (q : ℕ) (y2 : ℕ) : r.Sealed (State.allocate s q y2) := by
  induction y2 generalizing s q with
  | zero =>
    unfold State.allocate
    repeat' first
      | with_reducible assumption
      | with_reducible exact Sealed.refl _
      | with_reducible apply Sealed.ite
      | with_reducible apply scanTo_sealed
      | with_reducible apply syncBlanks_sealed
      | with_reducible apply startAlloc_sealed
      | with_reducible apply finish_sealed
      | exact Fld.keyFree rfl
      | exact Hid.keyFree rfl
      | exact balFld_keyFree _
      | decide
      | with_reducible apply sealedParts_of
      | intro _
      | with_reducible refine Sealed.of_eq (by assumption) ?_
      | with_reducible refine Sealed.of_eq_snd (by assumption) ?_
      | simp only [sealed_mk]
      | split
  | succ n0 ih =>
    unfold State.allocate
    repeat' first
      | with_reducible assumption
      | with_reducible exact Sealed.refl _
      | with_reducible apply Sealed.ite
      | with_reducible apply scanTo_sealed
      | with_reducible apply syncBlanks_sealed
      | with_reducible apply startAlloc_sealed
      | with_reducible apply finish_sealed
      | with_reducible apply ih
      | exact Fld.keyFree rfl
      | exact Hid.keyFree rfl
      | exact balFld_keyFree _
      | decide
      | with_reducible apply sealedParts_of
      | intro _
      | with_reducible refine Sealed.of_eq (by assumption) ?_
      | with_reducible refine Sealed.of_eq_snd (by assumption) ?_
      | simp only [sealed_mk]
      | split

theorem State.retryAlloc_sealed {r s : State} (h : r.Sealed s) (q : ℕ) : r.Sealed (State.retryAlloc s q) := by
  unfold State.retryAlloc
  repeat' first
    | with_reducible assumption
    | with_reducible exact Sealed.refl _
    | with_reducible apply Sealed.ite
    | with_reducible apply startAlloc_sealed
    | with_reducible apply ev_sealed
    | exact Fld.keyFree rfl
    | exact Hid.keyFree rfl
    | exact balFld_keyFree _
    | decide
    | with_reducible apply sealedParts_of
    | intro _
    | with_reducible refine Sealed.of_eq (by assumption) ?_
    | with_reducible refine Sealed.of_eq_snd (by assumption) ?_
    | simp only [sealed_mk]
    | split

theorem execBlankAllocation_sealed (q : ℕ) (t : ℕ) {s : State} : s.SealedNext (execBlankAllocation q t s) := by
  unfold execBlankAllocation
  repeat' first
    | with_reducible assumption
    | with_reducible exact Sealed.refl _
    | with_reducible apply SealedNext.next
    | with_reducible apply SealedNext.ite
    | with_reducible apply Sealed.ite
    | with_reducible apply goTo_sealed
    | with_reducible apply allocate_sealed
    | exact Fld.keyFree rfl
    | exact Hid.keyFree rfl
    | exact balFld_keyFree _
    | decide
    | with_reducible apply sealedParts_of
    | intro _
    | with_reducible refine Sealed.of_eq (by assumption) ?_
    | with_reducible refine Sealed.of_eq_snd (by assumption) ?_
    | simp only [sealed_mk]
    | split

theorem execAllocatorRetry_sealed (q : ℕ) (t : ℕ) {s : State} : s.SealedNext (execAllocatorRetry q t s) := by
  unfold execAllocatorRetry
  repeat' first
    | with_reducible assumption
    | with_reducible exact Sealed.refl _
    | with_reducible apply SealedNext.next
    | with_reducible apply SealedNext.ite
    | with_reducible apply Sealed.ite
    | with_reducible apply retryAlloc_sealed
    | with_reducible apply goTo_sealed
    | with_reducible apply allocate_sealed
    | exact Fld.keyFree rfl
    | exact Hid.keyFree rfl
    | exact balFld_keyFree _
    | decide
    | with_reducible apply sealedParts_of
    | intro _
    | with_reducible refine Sealed.of_eq (by assumption) ?_
    | with_reducible refine Sealed.of_eq_snd (by assumption) ?_
    | simp only [sealed_mk]
    | split

theorem execStripCleared_sealed (k : ℕ) {s : State} : s.SealedNext (execStripCleared k s) := by
  unfold execStripCleared
  repeat' first
    | with_reducible assumption
    | with_reducible exact Sealed.refl _
    | with_reducible apply SealedNext.next
    | with_reducible apply SealedNext.ite
    | with_reducible apply Sealed.ite
    | with_reducible apply wr_sealed
    | with_reducible apply flushLines_sealed
    | exact Fld.keyFree rfl
    | exact Hid.keyFree rfl
    | exact balFld_keyFree _
    | decide
    | with_reducible apply sealedParts_of
    | intro _
    | with_reducible refine Sealed.of_eq (by assumption) ?_
    | with_reducible refine Sealed.of_eq_snd (by assumption) ?_
    | simp only [sealed_mk]
    | split

theorem execRehomeScanComplete_sealed (q : ℕ) {s : State} : s.SealedNext (execRehomeScanComplete q s) := by
  unfold execRehomeScanComplete
  repeat' first
    | with_reducible assumption
    | with_reducible exact Sealed.refl _
    | with_reducible apply SealedNext.next
    | with_reducible apply SealedNext.ite
    | with_reducible apply Sealed.ite
    | with_reducible apply wr_sealed
    | with_reducible apply flushLines_sealed
    | exact Fld.keyFree rfl
    | exact Hid.keyFree rfl
    | exact balFld_keyFree _
    | decide
    | with_reducible apply sealedParts_of
    | intro _
    | with_reducible refine Sealed.of_eq (by assumption) ?_
    | with_reducible refine Sealed.of_eq_snd (by assumption) ?_
    | simp only [sealed_mk]
    | split

theorem State.readCodes_sealed {r s : State} (h : r.Sealed s) (c : Client) (rowVA : ℕ) (w : ℕ) (i0 : ℕ) (n : ℕ) : r.Sealed (State.readCodes s c rowVA
    w i0 n).1 := by
  unfold State.readCodes
  repeat' first
    | with_reducible assumption
    | with_reducible exact Sealed.refl _
    | with_reducible apply Sealed.ite
    | with_reducible apply Sealed.ite_fst
    | with_reducible apply vread_sealed
    | exact Fld.keyFree rfl
    | exact Hid.keyFree rfl
    | exact balFld_keyFree _
    | decide
    | with_reducible apply sealedParts_of
    | intro _
    | with_reducible refine Sealed.of_eq (by assumption) ?_
    | with_reducible refine Sealed.of_eq_snd (by assumption) ?_
    | simp only [sealed_mk]
    | split

theorem State.readElems_sealed {r s : State} (h : r.Sealed s) (c : Client) (fmt : ℕ) (rowVA : ℕ) (i0 : ℕ) (n : ℕ) (scale : ℕ → ℕ) : r.Sealed
    (State.readElems s c fmt rowVA i0 n scale).1 := by
  unfold State.readElems
  repeat' first
    | with_reducible assumption
    | with_reducible exact Sealed.refl _
    | with_reducible apply Sealed.ite
    | with_reducible apply Sealed.ite_fst
    | with_reducible apply readCodes_sealed
    | rw [List.foldl_cons]
    | rw [List.foldl_nil]
    | exact Fld.keyFree rfl
    | exact Hid.keyFree rfl
    | exact balFld_keyFree _
    | decide
    | with_reducible refine Sealed.foldl ?_ (fun u x => ?_)
    | with_reducible refine Sealed.foldl_fst ?_ (fun u x => ?_)
    | with_reducible apply sealedParts_of
    | intro _
    | with_reducible refine Sealed.of_eq (by assumption) ?_
    | with_reducible refine Sealed.of_eq_snd (by assumption) ?_
    | simp only [sealed_mk]
    | split

theorem State.readA_sealed {r s : State} (h : r.Sealed s) (c : Client) (d : ℕ) (t : ℕ) (k0 : ℕ) (n : ℕ) : r.Sealed (State.readA s c d t k0 n).1 := by
  unfold State.readA
  repeat' first
    | with_reducible assumption
    | with_reducible exact Sealed.refl _
    | with_reducible apply Sealed.ite
    | with_reducible apply Sealed.ite_fst
    | with_reducible apply readElems_sealed
    | with_reducible apply vread_sealed
    | exact Fld.keyFree rfl
    | exact Hid.keyFree rfl
    | exact balFld_keyFree _
    | decide
    | with_reducible apply sealedParts_of
    | intro _
    | with_reducible refine Sealed.of_eq (by assumption) ?_
    | with_reducible refine Sealed.of_eq_snd (by assumption) ?_
    | simp only [sealed_mk]
    | split

theorem State.collect_sealed {r s : State} (h : r.Sealed s) (f : State → ℕ → State × Except ℕ Elems) (y2 : List ℕ) (hf : ∀ (u : State) w1, u.Sealed (f
    u w1).1) : r.Sealed (State.collect s f y2).1 := by
  induction y2 generalizing s with
  | nil =>
    unfold State.collect
    repeat' first
      | with_reducible assumption
      | with_reducible exact Sealed.refl _
      | with_reducible apply Sealed.ite
      | with_reducible apply Sealed.ite_fst
      | with_reducible refine Sealed.trans ?_ (hf _ _)
      | exact Fld.keyFree rfl
      | exact Hid.keyFree rfl
      | exact balFld_keyFree _
      | decide
      | with_reducible apply sealedParts_of
      | intro _
      | with_reducible refine Sealed.of_eq (by assumption) ?_
      | with_reducible refine Sealed.of_eq_snd (by assumption) ?_
      | simp only [sealed_mk]
      | split
  | cons z l ih =>
    unfold State.collect
    repeat' first
      | with_reducible assumption
      | with_reducible exact Sealed.refl _
      | with_reducible apply Sealed.ite
      | with_reducible apply Sealed.ite_fst
      | with_reducible refine Sealed.trans ?_ (hf _ _)
      | with_reducible apply ih
      | exact Fld.keyFree rfl
      | exact Hid.keyFree rfl
      | exact balFld_keyFree _
      | decide
      | with_reducible apply sealedParts_of
      | intro _
      | with_reducible refine Sealed.of_eq (by assumption) ?_
      | with_reducible refine Sealed.of_eq_snd (by assumption) ?_
      | simp only [sealed_mk]
      | split

theorem State.readBcol_sealed {r s : State} (h : r.Sealed s) (c : Client) (d : ℕ) (n : ℕ) (k0 : ℕ) (m : ℕ) (rep : Option ℕ) : r.Sealed (State.readBcol
    s c d n k0 m rep).1 := by
  unfold State.readBcol
  repeat' first
    | with_reducible assumption
    | with_reducible exact Sealed.refl _
    | with_reducible apply Sealed.ite
    | with_reducible apply Sealed.ite_fst
    | with_reducible apply vread_sealed
    | with_reducible apply readElems_sealed
    | exact Fld.keyFree rfl
    | exact Hid.keyFree rfl
    | exact balFld_keyFree _
    | decide
    | with_reducible apply sealedParts_of
    | intro _
    | with_reducible refine Sealed.of_eq (by assumption) ?_
    | with_reducible refine Sealed.of_eq_snd (by assumption) ?_
    | simp only [sealed_mk]
    | split

theorem State.readBrow_sealed {r s : State} (h : r.Sealed s) (c : Client) (d : ℕ) (k : ℕ) (n0 : ℕ) (m : ℕ) : r.Sealed (State.readBrow s c d k n0 m).1
    := by
  unfold State.readBrow
  repeat' first
    | with_reducible assumption
    | with_reducible exact Sealed.refl _
    | with_reducible apply Sealed.ite
    | with_reducible apply Sealed.ite_fst
    | with_reducible apply readElems_sealed
    | with_reducible apply collect_sealed
    | with_reducible apply vread_sealed
    | exact Fld.keyFree rfl
    | exact Hid.keyFree rfl
    | exact balFld_keyFree _
    | decide
    | with_reducible apply sealedParts_of
    | intro _
    | with_reducible refine Sealed.of_eq (by assumption) ?_
    | with_reducible refine Sealed.of_eq_snd (by assumption) ?_
    | simp only [sealed_mk]
    | split

theorem State.readB_sealed {r s : State} (h : r.Sealed s) (c : Client) (d : ℕ) (nb0 : ℕ) (k0 : ℕ) (rep : Option ℕ) : r.Sealed (State.readB s c d nb0
    k0 rep).1 := by
  unfold State.readB
  repeat' first
    | with_reducible assumption
    | with_reducible exact Sealed.refl _
    | with_reducible apply Sealed.ite
    | with_reducible apply Sealed.ite_fst
    | with_reducible apply collect_sealed
    | with_reducible apply readBcol_sealed
    | with_reducible apply readBrow_sealed
    | rw [List.foldl_cons]
    | rw [List.foldl_nil]
    | exact Fld.keyFree rfl
    | exact Hid.keyFree rfl
    | exact balFld_keyFree _
    | decide
    | with_reducible refine Sealed.foldl ?_ (fun u x => ?_)
    | with_reducible refine Sealed.foldl_fst ?_ (fun u x => ?_)
    | with_reducible apply sealedParts_of
    | intro _
    | with_reducible refine Sealed.of_eq (by assumption) ?_
    | with_reducible refine Sealed.of_eq_snd (by assumption) ?_
    | simp only [sealed_mk]
    | split

theorem State.mergeFlags_sealed {r s : State} (h : r.Sealed s) (q : ℕ) (fl : ℕ) : r.Sealed (State.mergeFlags s q fl) := by
  unfold State.mergeFlags
  repeat' first
    | with_reducible assumption
    | with_reducible exact Sealed.refl _
    | with_reducible apply Sealed.ite
    | with_reducible apply mark_sealed
    | rw [List.foldl_cons]
    | rw [List.foldl_nil]
    | exact Fld.keyFree rfl
    | exact Hid.keyFree rfl
    | exact balFld_keyFree _
    | decide
    | with_reducible refine Sealed.foldl ?_ (fun u x => ?_)
    | with_reducible refine Sealed.foldl_fst ?_ (fun u x => ?_)
    | with_reducible apply sealedParts_of
    | intro _
    | with_reducible refine Sealed.of_eq (by assumption) ?_
    | with_reducible refine Sealed.of_eq_snd (by assumption) ?_
    | simp only [sealed_mk]
    | split

theorem State.histCount_sealed {r s : State} (h : r.Sealed s) (q : ℕ) (slot : ℕ) (e : ℕ × ℕ) : r.Sealed (State.histCount s q slot e) := by
  unfold State.histCount
  repeat' first
    | with_reducible assumption
    | with_reducible exact Sealed.refl _
    | with_reducible apply Sealed.ite
    | with_reducible apply wr_sealed
    | with_reducible apply mark_sealed
    | exact Fld.keyFree rfl
    | exact Hid.keyFree rfl
    | exact balFld_keyFree _
    | decide
    | with_reducible apply sealedParts_of
    | intro _
    | with_reducible refine Sealed.of_eq (by assumption) ?_
    | with_reducible refine Sealed.of_eq_snd (by assumption) ?_
    | simp only [sealed_mk]
    | split

theorem State.histCommit_sealed {r s : State} (h : r.Sealed s) (q : ℕ) (slot : ℕ) (hist : List (ℕ × ℕ)) : r.Sealed (State.histCommit s q slot hist) :=
    by
  unfold State.histCommit
  repeat' first
    | with_reducible assumption
    | with_reducible exact Sealed.refl _
    | with_reducible apply Sealed.ite
    | with_reducible apply histCount_sealed
    | rw [List.foldl_cons]
    | rw [List.foldl_nil]
    | exact Fld.keyFree rfl
    | exact Hid.keyFree rfl
    | exact balFld_keyFree _
    | decide
    | with_reducible refine Sealed.foldl ?_ (fun u x => ?_)
    | with_reducible refine Sealed.foldl_fst ?_ (fun u x => ?_)
    | with_reducible apply sealedParts_of
    | intro _
    | with_reducible refine Sealed.of_eq (by assumption) ?_
    | with_reducible refine Sealed.of_eq_snd (by assumption) ?_
    | simp only [sealed_mk]
    | split

theorem State.histZero_sealed {r s : State} (h : r.Sealed s) (q : ℕ) (slot : ℕ) : r.Sealed (State.histZero s q slot) := by
  unfold State.histZero
  repeat' first
    | with_reducible assumption
    | with_reducible exact Sealed.refl _
    | with_reducible apply Sealed.ite
    | with_reducible apply wr_sealed
    | rw [List.foldl_cons]
    | rw [List.foldl_nil]
    | exact Fld.keyFree rfl
    | exact Hid.keyFree rfl
    | exact balFld_keyFree _
    | decide
    | with_reducible refine Sealed.foldl ?_ (fun u x => ?_)
    | with_reducible refine Sealed.foldl_fst ?_ (fun u x => ?_)
    | with_reducible apply sealedParts_of
    | intro _
    | with_reducible refine Sealed.of_eq (by assumption) ?_
    | with_reducible refine Sealed.of_eq_snd (by assumption) ?_
    | simp only [sealed_mk]
    | split

theorem State.histClear_sealed {r s : State} (h : r.Sealed s) (q : ℕ) (slot : ℕ) : r.Sealed (State.histClear s q slot) := by
  unfold State.histClear
  repeat' first
    | with_reducible assumption
    | with_reducible exact Sealed.refl _
    | with_reducible apply Sealed.ite
    | with_reducible apply histZero_sealed
    | with_reducible apply histCount_sealed
    | rw [List.foldl_cons]
    | rw [List.foldl_nil]
    | exact Fld.keyFree rfl
    | exact Hid.keyFree rfl
    | exact balFld_keyFree _
    | decide
    | with_reducible refine Sealed.foldl ?_ (fun u x => ?_)
    | with_reducible refine Sealed.foldl_fst ?_ (fun u x => ?_)
    | with_reducible apply sealedParts_of
    | intro _
    | with_reducible refine Sealed.of_eq (by assumption) ?_
    | with_reducible refine Sealed.of_eq_snd (by assumption) ?_
    | simp only [sealed_mk]
    | split

theorem State.laterReqs_sealed {r s : State} (h : r.Sealed s) (id : ℕ) (n : ℕ) (p : Need → Bool) : r.Sealed (State.laterReqs s id n p) := by
  unfold State.laterReqs
  repeat' first
    | with_reducible assumption
    | with_reducible exact Sealed.refl _
    | with_reducible apply Sealed.ite
    | exact Fld.keyFree rfl
    | exact Hid.keyFree rfl
    | exact balFld_keyFree _
    | decide
    | with_reducible apply sealedParts_of
    | intro _
    | with_reducible refine Sealed.of_eq (by assumption) ?_
    | with_reducible refine Sealed.of_eq_snd (by assumption) ?_
    | simp only [sealed_mk]
    | split

theorem State.freezeBlank_sealed {r s : State} (h : r.Sealed s) (id : ℕ) (n : ℕ) : r.Sealed (State.freezeBlank s id n) := by
  unfold State.freezeBlank
  repeat' first
    | with_reducible assumption
    | with_reducible exact Sealed.refl _
    | with_reducible apply Sealed.ite
    | with_reducible apply laterReqs_sealed
    | with_reducible apply updOp_sealed
    | with_reducible apply ev_sealed
    | exact Fld.keyFree rfl
    | exact Hid.keyFree rfl
    | exact balFld_keyFree _
    | decide
    | with_reducible apply sealedParts_of
    | intro _
    | with_reducible refine Sealed.of_eq (by assumption) ?_
    | with_reducible refine Sealed.of_eq_snd (by assumption) ?_
    | simp only [sealed_mk]
    | split

theorem State.delayPreload_sealed {r s : State} (h : r.Sealed s) (id : ℕ) (n : ℕ) : r.Sealed (State.delayPreload s id n) := by
  unfold State.delayPreload
  repeat' first
    | with_reducible assumption
    | with_reducible exact Sealed.refl _
    | with_reducible apply Sealed.ite
    | with_reducible apply laterReqs_sealed
    | with_reducible apply updOp_sealed
    | exact Fld.keyFree rfl
    | exact Hid.keyFree rfl
    | exact balFld_keyFree _
    | decide
    | with_reducible apply sealedParts_of
    | intro _
    | with_reducible refine Sealed.of_eq (by assumption) ?_
    | with_reducible refine Sealed.of_eq_snd (by assumption) ?_
    | simp only [sealed_mk]
    | split

theorem State.arrive_sealed {r s : State} (h : r.Sealed s) (id : ℕ) (e : Need) : r.Sealed (State.arrive s id e) := by
  unfold State.arrive
  repeat' first
    | with_reducible assumption
    | with_reducible exact Sealed.refl _
    | with_reducible apply Sealed.ite
    | with_reducible apply delayPreload_sealed
    | with_reducible apply freezeBlank_sealed
    | exact Fld.keyFree rfl
    | exact Hid.keyFree rfl
    | exact balFld_keyFree _
    | decide
    | with_reducible apply sealedParts_of
    | intro _
    | with_reducible refine Sealed.of_eq (by assumption) ?_
    | with_reducible refine Sealed.of_eq_snd (by assumption) ?_
    | simp only [sealed_mk]
    | split

theorem State.countFrozen_sealed {r s : State} (h : r.Sealed s) (o : Op) : r.Sealed (State.countFrozen s o) := by
  unfold State.countFrozen
  repeat' first
    | with_reducible assumption
    | with_reducible exact Sealed.refl _
    | with_reducible apply Sealed.ite
    | with_reducible apply ev_sealed
    | rw [List.foldl_cons]
    | rw [List.foldl_nil]
    | exact Fld.keyFree rfl
    | exact Hid.keyFree rfl
    | exact balFld_keyFree _
    | decide
    | with_reducible refine Sealed.foldl ?_ (fun u x => ?_)
    | with_reducible refine Sealed.foldl_fst ?_ (fun u x => ?_)
    | with_reducible apply sealedParts_of
    | intro _
    | with_reducible refine Sealed.of_eq (by assumption) ?_
    | with_reducible refine Sealed.of_eq_snd (by assumption) ?_
    | simp only [sealed_mk]
    | split

theorem State.operandVals_sealed {r s : State} (h : r.Sealed s) (c : Client) (fmt : ℕ) (va : ℕ) (i : ℕ) (n : ℕ) : r.Sealed (State.operandVals s c fmt
    va i n).1 := by
  unfold State.operandVals
  repeat' first
    | with_reducible assumption
    | with_reducible exact Sealed.refl _
    | with_reducible apply Sealed.ite
    | with_reducible apply Sealed.ite_fst
    | with_reducible apply readElems_sealed
    | exact Fld.keyFree rfl
    | exact Hid.keyFree rfl
    | exact balFld_keyFree _
    | decide
    | with_reducible apply sealedParts_of
    | intro _
    | with_reducible refine Sealed.of_eq (by assumption) ?_
    | with_reducible refine Sealed.of_eq_snd (by assumption) ?_
    | simp only [sealed_mk]
    | split

theorem State.preOperands_sealed {r s : State} (h : r.Sealed s) (o : Op) (pos : UnitPos) : r.Sealed (State.preOperands s o pos).1 := by
  unfold State.preOperands
  repeat' first
    | with_reducible assumption
    | with_reducible exact Sealed.refl _
    | with_reducible apply Sealed.ite
    | with_reducible apply Sealed.ite_fst
    | with_reducible apply collect_sealed
    | with_reducible apply operandVals_sealed
    | exact Fld.keyFree rfl
    | exact Hid.keyFree rfl
    | exact balFld_keyFree _
    | decide
    | with_reducible apply sealedParts_of
    | intro _
    | with_reducible refine Sealed.of_eq (by assumption) ?_
    | with_reducible refine Sealed.of_eq_snd (by assumption) ?_
    | simp only [sealed_mk]
    | split

theorem State.streamedOperand_sealed {r s : State} (h : r.Sealed s) (o : Op) (pos : UnitPos) (slot : ℕ) : r.Sealed (State.streamedOperand s o pos
    slot).1 := by
  unfold State.streamedOperand
  repeat' first
    | with_reducible assumption
    | with_reducible exact Sealed.refl _
    | with_reducible apply Sealed.ite
    | with_reducible apply Sealed.ite_fst
    | with_reducible apply collect_sealed
    | with_reducible apply operandVals_sealed
    | exact Fld.keyFree rfl
    | exact Hid.keyFree rfl
    | exact balFld_keyFree _
    | decide
    | with_reducible apply sealedParts_of
    | intro _
    | with_reducible refine Sealed.of_eq (by assumption) ?_
    | with_reducible refine Sealed.of_eq_snd (by assumption) ?_
    | simp only [sealed_mk]
    | split

theorem State.collectAll_sealed {r s : State} (h : r.Sealed s) (f : State → ℕ → State × Except ℕ (List Elems)) (y2 : List ℕ) (hf : ∀ (u : State) w1,
    u.Sealed (f u w1).1) : r.Sealed (State.collectAll s f y2).1 := by
  induction y2 generalizing s with
  | nil =>
    unfold State.collectAll
    repeat' first
      | with_reducible assumption
      | with_reducible exact Sealed.refl _
      | with_reducible apply Sealed.ite
      | with_reducible apply Sealed.ite_fst
      | with_reducible refine Sealed.trans ?_ (hf _ _)
      | exact Fld.keyFree rfl
      | exact Hid.keyFree rfl
      | exact balFld_keyFree _
      | decide
      | with_reducible apply sealedParts_of
      | intro _
      | with_reducible refine Sealed.of_eq (by assumption) ?_
      | with_reducible refine Sealed.of_eq_snd (by assumption) ?_
      | simp only [sealed_mk]
      | split
  | cons z l ih =>
    unfold State.collectAll
    repeat' first
      | with_reducible assumption
      | with_reducible exact Sealed.refl _
      | with_reducible apply Sealed.ite
      | with_reducible apply Sealed.ite_fst
      | with_reducible refine Sealed.trans ?_ (hf _ _)
      | with_reducible apply ih
      | exact Fld.keyFree rfl
      | exact Hid.keyFree rfl
      | exact balFld_keyFree _
      | decide
      | with_reducible apply sealedParts_of
      | intro _
      | with_reducible refine Sealed.of_eq (by assumption) ?_
      | with_reducible refine Sealed.of_eq_snd (by assumption) ?_
      | simp only [sealed_mk]
      | split

theorem State.readUnit_sealed {r s : State} (h : r.Sealed s) (o : Op) (pos : UnitPos) : r.Sealed (State.readUnit s o pos).1 := by
  unfold State.readUnit
  repeat' first
    | with_reducible assumption
    | with_reducible exact Sealed.refl _
    | with_reducible apply Sealed.ite
    | with_reducible apply Sealed.ite_fst
    | with_reducible apply collect_sealed
    | with_reducible apply readA_sealed
    | with_reducible apply readElems_sealed
    | with_reducible apply collectAll_sealed
    | with_reducible apply streamedOperand_sealed
    | rw [List.foldl_cons]
    | rw [List.foldl_nil]
    | exact Fld.keyFree rfl
    | exact Hid.keyFree rfl
    | exact balFld_keyFree _
    | decide
    | with_reducible refine Sealed.foldl ?_ (fun u x => ?_)
    | with_reducible refine Sealed.foldl_fst ?_ (fun u x => ?_)
    | with_reducible apply sealedParts_of
    | intro _
    | with_reducible refine Sealed.of_eq (by assumption) ?_
    | with_reducible refine Sealed.of_eq_snd (by assumption) ?_
    | simp only [sealed_mk]
    | split

theorem State.overrun_sealed {r s : State} (h : r.Sealed s) (id : ℕ) (inc : ℕ) : r.Sealed (State.overrun s id inc) := by
  unfold State.overrun
  repeat' first
    | with_reducible assumption
    | with_reducible exact Sealed.refl _
    | with_reducible apply Sealed.ite
    | with_reducible apply ev_sealed
    | with_reducible apply countFrozen_sealed
    | with_reducible apply finish_sealed
    | with_reducible apply parkOp_sealed
    | with_reducible apply setOp_sealed
    | exact Fld.keyFree rfl
    | exact Hid.keyFree rfl
    | exact balFld_keyFree _
    | decide
    | with_reducible apply sealedParts_of
    | intro _
    | with_reducible refine Sealed.of_eq (by assumption) ?_
    | with_reducible refine Sealed.of_eq_snd (by assumption) ?_
    | simp only [sealed_mk]
    | split

theorem State.finishUnit_sealed {r s : State} (h : r.Sealed s) (id : ℕ) (u : WorkUnit) : r.Sealed (State.finishUnit s id u).1 := by
  unfold State.finishUnit
  repeat' first
    | with_reducible assumption
    | with_reducible exact Sealed.refl _
    | with_reducible apply Sealed.ite
    | with_reducible apply Sealed.ite_fst
    | with_reducible apply readUnit_sealed
    | with_reducible apply vwrites_sealed
    | with_reducible apply overrun_sealed
    | with_reducible apply mark_sealed
    | with_reducible apply updOp_sealed
    | exact Fld.keyFree rfl
    | exact Hid.keyFree rfl
    | exact balFld_keyFree _
    | decide
    | with_reducible apply sealedParts_of
    | intro _
    | with_reducible refine Sealed.of_eq (by assumption) ?_
    | with_reducible refine Sealed.of_eq_snd (by assumption) ?_
    | simp only [sealed_mk]
    | split

theorem State.finishUnits_sealed {r s : State} (h : r.Sealed s) (id : ℕ) (y2 : List WorkUnit) : r.Sealed (State.finishUnits s id y2).1 := by
  induction y2 generalizing s id with
  | nil =>
    unfold State.finishUnits
    repeat' first
      | with_reducible assumption
      | with_reducible exact Sealed.refl _
      | with_reducible apply Sealed.ite
      | with_reducible apply Sealed.ite_fst
      | with_reducible apply finishUnit_sealed
      | exact Fld.keyFree rfl
      | exact Hid.keyFree rfl
      | exact balFld_keyFree _
      | decide
      | with_reducible apply sealedParts_of
      | intro _
      | with_reducible refine Sealed.of_eq (by assumption) ?_
      | with_reducible refine Sealed.of_eq_snd (by assumption) ?_
      | simp only [sealed_mk]
      | split
  | cons z l ih =>
    unfold State.finishUnits
    repeat' first
      | with_reducible assumption
      | with_reducible exact Sealed.refl _
      | with_reducible apply Sealed.ite
      | with_reducible apply Sealed.ite_fst
      | with_reducible apply finishUnit_sealed
      | with_reducible apply ih
      | exact Fld.keyFree rfl
      | exact Hid.keyFree rfl
      | exact balFld_keyFree _
      | decide
      | with_reducible apply sealedParts_of
      | intro _
      | with_reducible refine Sealed.of_eq (by assumption) ?_
      | with_reducible refine Sealed.of_eq_snd (by assumption) ?_
      | simp only [sealed_mk]
      | split

theorem State.repeatHit_sealed {r s : State} (h : r.Sealed s) (o : Op) : r.Sealed (State.repeatHit s o).1 := by
  unfold State.repeatHit
  repeat' first
    | with_reducible assumption
    | with_reducible exact Sealed.refl _
    | with_reducible apply Sealed.ite
    | with_reducible apply Sealed.ite_fst
    | exact Fld.keyFree rfl
    | exact Hid.keyFree rfl
    | exact balFld_keyFree _
    | decide
    | with_reducible apply sealedParts_of
    | intro _
    | with_reducible refine Sealed.of_eq (by assumption) ?_
    | with_reducible refine Sealed.of_eq_snd (by assumption) ?_
    | simp only [sealed_mk]
    | split

theorem State.repeatClear_sealed {r s : State} (h : r.Sealed s) (o : Op) : r.Sealed (State.repeatClear s o) := by
  unfold State.repeatClear
  repeat' first
    | with_reducible assumption
    | with_reducible exact Sealed.refl _
    | with_reducible apply Sealed.ite
    | exact Fld.keyFree rfl
    | exact Hid.keyFree rfl
    | exact balFld_keyFree _
    | decide
    | with_reducible apply sealedParts_of
    | intro _
    | with_reducible refine Sealed.of_eq (by assumption) ?_
    | with_reducible refine Sealed.of_eq_snd (by assumption) ?_
    | simp only [sealed_mk]
    | split

theorem State.mismatch_sealed {r s : State} (h : r.Sealed s) (id : ℕ) (cause : ℕ) (kc : ℕ) (nFail : ℕ) (named : Option (ℕ × ℕ)) : r.Sealed
    (State.mismatch s id cause kc nFail named) := by
  unfold State.mismatch
  repeat' first
    | with_reducible assumption
    | with_reducible exact Sealed.refl _
    | with_reducible apply Sealed.ite
    | with_reducible apply Sealed.ite_fst
    | with_reducible apply firstError_sealed
    | with_reducible apply wr_sealed
    | with_reducible apply ev_sealed
    | with_reducible apply bump_sealed
    | with_reducible apply repeatHit_sealed
    | with_reducible apply syncBlanks_sealed
    | with_reducible apply finish_sealed
    | with_reducible apply mcLog_sealed
    | with_reducible apply mark_sealed
    | with_reducible apply parkOp_sealed
    | with_reducible apply setOp_sealed
    | exact Fld.keyFree rfl
    | exact Hid.keyFree rfl
    | exact balFld_keyFree _
    | decide
    | with_reducible apply sealedParts_of
    | intro _
    | with_reducible refine Sealed.of_eq (by assumption) ?_
    | with_reducible refine Sealed.of_eq_snd (by assumption) ?_
    | simp only [sealed_mk]
    | split

theorem State.beginUnit_sealed {r s : State} (h : r.Sealed s) (o : Op) (pos : UnitPos) (swap : Bool) (faults : List TileFault) : r.Sealed
    (State.beginUnit s o pos swap faults) := by
  unfold State.beginUnit
  repeat' first
    | with_reducible assumption
    | with_reducible exact Sealed.refl _
    | with_reducible apply Sealed.ite
    | with_reducible apply ev_sealed
    | with_reducible apply laterReqs_sealed
    | with_reducible apply setOp_sealed
    | exact Fld.keyFree rfl
    | exact Hid.keyFree rfl
    | exact balFld_keyFree _
    | decide
    | with_reducible apply sealedParts_of
    | intro _
    | with_reducible refine Sealed.of_eq (by assumption) ?_
    | with_reducible refine Sealed.of_eq_snd (by assumption) ?_
    | simp only [sealed_mk]
    | split

theorem execOperationStart_sealed (id : ℕ) (t : ℕ) {s : State} : s.SealedNext (execOperationStart id t s) := by
  unfold execOperationStart
  repeat' first
    | with_reducible assumption
    | with_reducible exact Sealed.refl _
    | with_reducible apply SealedNext.next
    | with_reducible apply SealedNext.ite
    | with_reducible apply Sealed.ite
    | with_reducible apply goTo_sealed
    | with_reducible apply setOp_sealed
    | exact Fld.keyFree rfl
    | exact Hid.keyFree rfl
    | exact balFld_keyFree _
    | decide
    | with_reducible apply sealedParts_of
    | intro _
    | with_reducible refine Sealed.of_eq (by assumption) ?_
    | with_reducible refine Sealed.of_eq_snd (by assumption) ?_
    | simp only [sealed_mk]
    | split

theorem execPreloadComplete_sealed (id : ℕ) (t : ℕ) {s : State} : s.SealedNext (execPreloadComplete id t s) := by
  unfold execPreloadComplete
  repeat' first
    | with_reducible assumption
    | with_reducible exact Sealed.refl _
    | with_reducible apply SealedNext.next
    | with_reducible apply SealedNext.ite
    | with_reducible apply Sealed.ite
    | with_reducible apply Sealed.ite_fst
    | with_reducible apply goTo_sealed
    | with_reducible apply readB_sealed
    | with_reducible apply preOperands_sealed
    | with_reducible apply updOp_sealed
    | exact Fld.keyFree rfl
    | exact Hid.keyFree rfl
    | exact balFld_keyFree _
    | decide
    | with_reducible apply sealedParts_of
    | intro _
    | with_reducible refine Sealed.of_eq (by assumption) ?_
    | with_reducible refine Sealed.of_eq_snd (by assumption) ?_
    | simp only [sealed_mk]
    | split

theorem execWorkUnitStart_sealed (id : ℕ) (t : ℕ) (faults : List TileFault) {s : State} : s.SealedNext (execWorkUnitStart id t faults s) := by
  unfold execWorkUnitStart
  repeat' first
    | with_reducible assumption
    | with_reducible exact Sealed.refl _
    | with_reducible apply SealedNext.next
    | with_reducible apply SealedNext.ite
    | with_reducible apply Sealed.ite
    | with_reducible apply Sealed.ite_fst
    | with_reducible apply goTo_sealed
    | with_reducible apply syncBlanks_sealed
    | with_reducible apply finish_sealed
    | with_reducible apply parkOp_sealed
    | with_reducible apply finishUnits_sealed
    | with_reducible apply beginUnit_sealed
    | exact Fld.keyFree rfl
    | exact Hid.keyFree rfl
    | exact balFld_keyFree _
    | decide
    | with_reducible apply sealedParts_of
    | intro _
    | with_reducible refine Sealed.of_eq (by assumption) ?_
    | with_reducible refine Sealed.of_eq_snd (by assumption) ?_
    | simp only [sealed_mk]
    | split

theorem State.passUnit_sealed {r s : State} (h : r.Sealed s) (o : Op) (u : WorkUnit) : r.Sealed (State.passUnit s o u) := by
  unfold State.passUnit
  repeat' first
    | with_reducible assumption
    | with_reducible exact Sealed.refl _
    | with_reducible apply Sealed.ite
    | with_reducible apply repeatClear_sealed
    | with_reducible apply histCommit_sealed
    | with_reducible apply mergeFlags_sealed
    | exact Fld.keyFree rfl
    | exact Hid.keyFree rfl
    | exact balFld_keyFree _
    | decide
    | with_reducible apply sealedParts_of
    | intro _
    | with_reducible refine Sealed.of_eq (by assumption) ?_
    | with_reducible refine Sealed.of_eq_snd (by assumption) ?_
    | simp only [sealed_mk]
    | split

theorem execWitnessVerdict_sealed (id : ℕ) (t : ℕ) (frozen : ℕ) {s : State} : s.SealedNext (execWitnessVerdict id t frozen s) := by
  unfold execWitnessVerdict
  repeat' first
    | with_reducible assumption
    | with_reducible exact Sealed.refl _
    | with_reducible apply SealedNext.next
    | with_reducible apply SealedNext.ite
    | with_reducible apply Sealed.ite
    | with_reducible apply Sealed.ite_fst
    | with_reducible apply goTo_sealed
    | with_reducible apply finishUnit_sealed
    | with_reducible apply freezeBlank_sealed
    | with_reducible apply syncBlanks_sealed
    | with_reducible apply finish_sealed
    | with_reducible apply bump_sealed
    | with_reducible apply ev_sealed
    | with_reducible apply mark_sealed
    | with_reducible apply mismatch_sealed
    | with_reducible apply updOp_sealed
    | with_reducible apply passUnit_sealed
    | exact Fld.keyFree rfl
    | exact Hid.keyFree rfl
    | exact balFld_keyFree _
    | decide
    | with_reducible apply sealedParts_of
    | intro _
    | with_reducible refine Sealed.of_eq (by assumption) ?_
    | with_reducible refine Sealed.of_eq_snd (by assumption) ?_
    | simp only [sealed_mk]
    | split

theorem execTileSelfTest_sealed (id : ℕ) (t : ℕ) (failing : List (ℕ × ℕ)) {s : State} : s.SealedNext (execTileSelfTest id t failing s) := by
  unfold execTileSelfTest
  repeat' first
    | with_reducible assumption
    | with_reducible exact Sealed.refl _
    | with_reducible apply SealedNext.next
    | with_reducible apply SealedNext.ite
    | with_reducible apply Sealed.ite
    | with_reducible apply Sealed.ite_fst
    | with_reducible apply goTo_sealed
    | with_reducible apply suspect_sealed
    | with_reducible apply fenceReq_sealed
    | with_reducible apply mismatch_sealed
    | rw [List.foldl_cons]
    | rw [List.foldl_nil]
    | exact Fld.keyFree rfl
    | exact Hid.keyFree rfl
    | exact balFld_keyFree _
    | decide
    | with_reducible refine Sealed.foldl ?_ (fun u x => ?_)
    | with_reducible refine Sealed.foldl_fst ?_ (fun u x => ?_)
    | with_reducible apply sealedParts_of
    | intro _
    | with_reducible refine Sealed.of_eq (by assumption) ?_
    | with_reducible refine Sealed.of_eq_snd (by assumption) ?_
    | simp only [sealed_mk]
    | split

theorem execOperationComplete_sealed (id : ℕ) (t : ℕ) {s : State} : s.SealedNext (execOperationComplete id t s) := by
  unfold execOperationComplete
  repeat' first
    | with_reducible assumption
    | with_reducible exact Sealed.refl _
    | with_reducible apply SealedNext.next
    | with_reducible apply SealedNext.ite
    | with_reducible apply Sealed.ite
    | with_reducible apply goTo_sealed
    | with_reducible apply syncBlanks_sealed
    | with_reducible apply finish_sealed
    | exact Fld.keyFree rfl
    | exact Hid.keyFree rfl
    | exact balFld_keyFree _
    | decide
    | with_reducible apply sealedParts_of
    | intro _
    | with_reducible refine Sealed.of_eq (by assumption) ?_
    | with_reducible refine Sealed.of_eq_snd (by assumption) ?_
    | simp only [sealed_mk]
    | split

theorem State.copyBytes_sealed {r s : State} (h : r.Sealed s) (c : Client) (src : ℕ) (dst : ℕ) (n : ℕ) : r.Sealed (State.copyBytes s c src dst n).1 :=
    by
  unfold State.copyBytes
  repeat' first
    | with_reducible assumption
    | with_reducible exact Sealed.refl _
    | with_reducible apply Sealed.ite
    | with_reducible apply Sealed.ite_fst
    | with_reducible apply vreadL_sealed
    | with_reducible apply vwriteL_sealed
    | exact Fld.keyFree rfl
    | exact Hid.keyFree rfl
    | exact balFld_keyFree _
    | decide
    | with_reducible apply sealedParts_of
    | intro _
    | with_reducible refine Sealed.of_eq (by assumption) ?_
    | with_reducible refine Sealed.of_eq_snd (by assumption) ?_
    | simp only [sealed_mk]
    | split

theorem State.syncOut_sealed {r s : State} (h : r.Sealed s) (e : ℕ) : r.Sealed (State.syncOut s e) := by
  unfold State.syncOut
  repeat' first
    | with_reducible assumption
    | with_reducible exact Sealed.refl _
    | with_reducible apply Sealed.ite
    | with_reducible apply wr_sealed
    | exact Fld.keyFree rfl
    | exact Hid.keyFree rfl
    | exact balFld_keyFree _
    | decide
    | with_reducible apply sealedParts_of
    | intro _
    | with_reducible refine Sealed.of_eq (by assumption) ?_
    | with_reducible refine Sealed.of_eq_snd (by assumption) ?_
    | simp only [sealed_mk]
    | split

theorem State.giveBack_sealed {r0 s : State} (h : r0.Sealed s) (r : Req) : r0.Sealed (State.giveBack s r) := by
  unfold State.giveBack
  repeat' first
    | with_reducible assumption
    | with_reducible exact Sealed.refl _
    | with_reducible apply Sealed.ite
    | with_reducible apply updOp_sealed
    | exact Fld.keyFree rfl
    | exact Hid.keyFree rfl
    | exact balFld_keyFree _
    | decide
    | with_reducible apply sealedParts_of
    | intro _
    | with_reducible refine Sealed.of_eq (by assumption) ?_
    | with_reducible refine Sealed.of_eq_snd (by assumption) ?_
    | simp only [sealed_mk]
    | split

theorem State.resumeFaulted_sealed {r s : State} (h : r.Sealed s) : r.Sealed (State.resumeFaulted s) := by
  unfold State.resumeFaulted
  repeat' first
    | with_reducible assumption
    | with_reducible exact Sealed.refl _
    | with_reducible apply Sealed.ite
    | with_reducible apply syncOut_sealed
    | with_reducible apply giveBack_sealed
    | rw [List.foldl_cons]
    | rw [List.foldl_nil]
    | exact Fld.keyFree rfl
    | exact Hid.keyFree rfl
    | exact balFld_keyFree _
    | decide
    | with_reducible refine Sealed.foldl ?_ (fun u x => ?_)
    | with_reducible refine Sealed.foldl_fst ?_ (fun u x => ?_)
    | with_reducible apply sealedParts_of
    | intro _
    | with_reducible refine Sealed.of_eq (by assumption) ?_
    | with_reducible refine Sealed.of_eq_snd (by assumption) ?_
    | simp only [sealed_mk]
    | split

theorem State.packedNeeds_sealed {r s : State} (h : r.Sealed s) (c : Client) (l : Leaf) (e : Need) : r.Sealed (State.packedNeeds s c l e).1 := by
  unfold State.packedNeeds
  repeat' first
    | with_reducible assumption
    | with_reducible exact Sealed.refl _
    | with_reducible apply Sealed.ite
    | with_reducible apply Sealed.ite_fst
    | with_reducible apply readDir_sealed
    | with_reducible apply packedFault_sealed
    | with_reducible apply waitForDir_sealed
    | exact Fld.keyFree rfl
    | exact Hid.keyFree rfl
    | exact balFld_keyFree _
    | decide
    | with_reducible apply sealedParts_of
    | intro _
    | with_reducible refine Sealed.of_eq (by assumption) ?_
    | with_reducible refine Sealed.of_eq_snd (by assumption) ?_
    | simp only [sealed_mk]
    | split

theorem State.offerNeed_sealed {r s : State} (h : r.Sealed s) (eng : ℕ) (o : Op) (e : Need) : r.Sealed (State.offerNeed s eng o e).1 := by
  unfold State.offerNeed
  repeat' first
    | with_reducible assumption
    | with_reducible exact Sealed.refl _
    | with_reducible apply Sealed.ite
    | with_reducible apply Sealed.ite_fst
    | with_reducible apply raiseFault_sealed
    | with_reducible apply xlate_sealed
    | with_reducible apply packedNeeds_sealed
    | exact Fld.keyFree rfl
    | exact Hid.keyFree rfl
    | exact balFld_keyFree _
    | decide
    | with_reducible apply sealedParts_of
    | intro _
    | with_reducible refine Sealed.of_eq (by assumption) ?_
    | with_reducible refine Sealed.of_eq_snd (by assumption) ?_
    | simp only [sealed_mk]
    | split

theorem State.takeNeed_sealed {r s : State} (h : r.Sealed s) (id : ℕ) (e : Need) : r.Sealed (State.takeNeed s id e) := by
  unfold State.takeNeed
  repeat' first
    | with_reducible assumption
    | with_reducible exact Sealed.refl _
    | with_reducible apply Sealed.ite
    | with_reducible apply updOp_sealed
    | exact Fld.keyFree rfl
    | exact Hid.keyFree rfl
    | exact balFld_keyFree _
    | decide
    | with_reducible apply sealedParts_of
    | intro _
    | with_reducible refine Sealed.of_eq (by assumption) ?_
    | with_reducible refine Sealed.of_eq_snd (by assumption) ?_
    | simp only [sealed_mk]
    | split

theorem State.deliver_sealed {r s : State} (h : r.Sealed s) (o : Op) (eng : ℕ) (e : Need) : r.Sealed (State.deliver s o eng e).1 := by
  unfold State.deliver
  repeat' first
    | with_reducible assumption
    | with_reducible exact Sealed.refl _
    | with_reducible apply Sealed.ite
    | with_reducible apply Sealed.ite_fst
    | with_reducible apply copyBytes_sealed
    | with_reducible apply arrive_sealed
    | exact Fld.keyFree rfl
    | exact Hid.keyFree rfl
    | exact balFld_keyFree _
    | decide
    | with_reducible apply sealedParts_of
    | intro _
    | with_reducible refine Sealed.of_eq (by assumption) ?_
    | with_reducible refine Sealed.of_eq_snd (by assumption) ?_
    | simp only [sealed_mk]
    | split

theorem State.addReq_sealed {r0 s : State} (h : r0.Sealed s) (r : Req) : r0.Sealed (State.addReq s r) := by
  unfold State.addReq
  repeat' first
    | with_reducible assumption
    | with_reducible exact Sealed.refl _
    | with_reducible apply Sealed.ite
    | with_reducible apply addH_sealed
    | exact Fld.keyFree rfl
    | exact Hid.keyFree rfl
    | exact balFld_keyFree _
    | decide
    | with_reducible apply sealedParts_of
    | intro _
    | with_reducible refine Sealed.of_eq (by assumption) ?_
    | with_reducible refine Sealed.of_eq_snd (by assumption) ?_
    | simp only [sealed_mk]
    | split

theorem State.holdFault_sealed {r s : State} (h : r.Sealed s) (eng : ℕ) (o : Op) (e : Need) : r.Sealed (State.holdFault s eng o e) := by
  unfold State.holdFault
  repeat' first
    | with_reducible assumption
    | with_reducible exact Sealed.refl _
    | with_reducible apply Sealed.ite
    | with_reducible apply syncOut_sealed
    | with_reducible apply addReq_sealed
    | with_reducible apply takeNeed_sealed
    | exact Fld.keyFree rfl
    | exact Hid.keyFree rfl
    | exact balFld_keyFree _
    | decide
    | with_reducible apply sealedParts_of
    | intro _
    | with_reducible refine Sealed.of_eq (by assumption) ?_
    | with_reducible refine Sealed.of_eq_snd (by assumption) ?_
    | simp only [sealed_mk]
    | split

theorem State.offerNeeds_sealed {r s : State} (h : r.Sealed s) (eng : ℕ) (id : ℕ) (cands : List State.Cand) (y4 : List Need) (y5 : List ℕ) : r.Sealed
    (State.offerNeeds s eng id cands y4 y5).1 := by
  induction y4 generalizing s eng id cands y5 with
  | nil =>
    unfold State.offerNeeds
    repeat' first
      | with_reducible assumption
      | with_reducible exact Sealed.refl _
      | with_reducible apply Sealed.ite
      | with_reducible apply Sealed.ite_fst
      | with_reducible apply offerNeed_sealed
      | with_reducible apply deliver_sealed
      | with_reducible apply takeNeed_sealed
      | with_reducible apply updOp_sealed
      | with_reducible apply addReq_sealed
      | with_reducible apply holdFault_sealed
      | exact Fld.keyFree rfl
      | exact Hid.keyFree rfl
      | exact balFld_keyFree _
      | decide
      | with_reducible apply sealedParts_of
      | intro _
      | with_reducible refine Sealed.of_eq (by assumption) ?_
      | with_reducible refine Sealed.of_eq_snd (by assumption) ?_
      | simp only [sealed_mk]
      | split
  | cons z l ih =>
    unfold State.offerNeeds
    repeat' first
      | with_reducible assumption
      | with_reducible exact Sealed.refl _
      | with_reducible apply Sealed.ite
      | with_reducible apply Sealed.ite_fst
      | with_reducible apply offerNeed_sealed
      | with_reducible apply deliver_sealed
      | with_reducible apply takeNeed_sealed
      | with_reducible apply updOp_sealed
      | with_reducible apply addReq_sealed
      | with_reducible apply holdFault_sealed
      | with_reducible apply ih
      | exact Fld.keyFree rfl
      | exact Hid.keyFree rfl
      | exact balFld_keyFree _
      | decide
      | with_reducible apply sealedParts_of
      | intro _
      | with_reducible refine Sealed.of_eq (by assumption) ?_
      | with_reducible refine Sealed.of_eq_snd (by assumption) ?_
      | simp only [sealed_mk]
      | split

theorem State.planPage_sealed {r s : State} (h : r.Sealed s) (o : Op) : r.Sealed (State.planPage s o) := by
  unfold State.planPage
  repeat' first
    | with_reducible assumption
    | with_reducible exact Sealed.refl _
    | with_reducible apply Sealed.ite
    | with_reducible apply Sealed.ite_fst
    | with_reducible apply xlate_sealed
    | with_reducible apply updOp_sealed
    | exact Fld.keyFree rfl
    | exact Hid.keyFree rfl
    | exact balFld_keyFree _
    | decide
    | with_reducible apply sealedParts_of
    | intro _
    | with_reducible refine Sealed.of_eq (by assumption) ?_
    | with_reducible refine Sealed.of_eq_snd (by assumption) ?_
    | simp only [sealed_mk]
    | split

theorem State.offerOp_sealed {r s : State} (h : r.Sealed s) (eng : ℕ) (cands : List State.Cand) (id : ℕ) : r.Sealed (State.offerOp s eng cands id).1
    := by
  unfold State.offerOp
  repeat' first
    | with_reducible assumption
    | with_reducible exact Sealed.refl _
    | with_reducible apply Sealed.ite
    | with_reducible apply Sealed.ite_fst
    | with_reducible apply syncBlanks_sealed
    | with_reducible apply finish_sealed
    | with_reducible apply setOp_sealed
    | with_reducible apply planPage_sealed
    | with_reducible apply offerNeeds_sealed
    | exact Fld.keyFree rfl
    | exact Hid.keyFree rfl
    | exact balFld_keyFree _
    | decide
    | with_reducible apply sealedParts_of
    | intro _
    | with_reducible refine Sealed.of_eq (by assumption) ?_
    | with_reducible refine Sealed.of_eq_snd (by assumption) ?_
    | simp only [sealed_mk]
    | split

theorem State.tagsWait_sealed {r s : State} (h : r.Sealed s) (q : ℕ) (e : ℕ) (on : Bool) : r.Sealed (State.tagsWait s q e on) := by
  unfold State.tagsWait
  repeat' first
    | with_reducible assumption
    | with_reducible exact Sealed.refl _
    | with_reducible apply Sealed.ite
    | with_reducible apply span_sealed
    | exact Fld.keyFree rfl
    | exact Hid.keyFree rfl
    | exact balFld_keyFree _
    | decide
    | with_reducible apply sealedParts_of
    | intro _
    | with_reducible refine Sealed.of_eq (by assumption) ?_
    | with_reducible refine Sealed.of_eq_snd (by assumption) ?_
    | simp only [sealed_mk]
    | split

theorem State.issueReq_sealed {r s : State} (h : r.Sealed s) (eng : ℕ) (c : State.Cand) : r.Sealed (State.issueReq s eng c) := by
  unfold State.issueReq
  repeat' first
    | with_reducible assumption
    | with_reducible exact Sealed.refl _
    | with_reducible apply Sealed.ite
    | with_reducible apply addReq_sealed
    | with_reducible apply takeNeed_sealed
    | with_reducible apply enqueue_sealed
    | with_reducible apply ev_sealed
    | with_reducible apply bump_sealed
    | with_reducible apply syncOut_sealed
    | with_reducible apply setH_sealed
    | exact Fld.keyFree rfl
    | exact Hid.keyFree rfl
    | exact balFld_keyFree _
    | decide
    | with_reducible apply sealedParts_of
    | intro _
    | with_reducible refine Sealed.of_eq (by assumption) ?_
    | with_reducible refine Sealed.of_eq_snd (by assumption) ?_
    | simp only [sealed_mk]
    | split

theorem State.serveUntil_sealed {r s : State} (h : r.Sealed s) (sid : ℕ) (y2 : ℕ) : r.Sealed (State.serveUntil s sid y2) := by
  induction y2 generalizing s sid with
  | zero =>
    unfold State.serveUntil
    repeat' first
      | with_reducible assumption
      | with_reducible exact Sealed.refl _
      | with_reducible apply Sealed.ite
      | with_reducible apply serveReq_sealed
      | exact Fld.keyFree rfl
      | exact Hid.keyFree rfl
      | exact balFld_keyFree _
      | decide
      | with_reducible apply sealedParts_of
      | intro _
      | with_reducible refine Sealed.of_eq (by assumption) ?_
      | with_reducible refine Sealed.of_eq_snd (by assumption) ?_
      | simp only [sealed_mk]
      | split
  | succ n0 ih =>
    unfold State.serveUntil
    repeat' first
      | with_reducible assumption
      | with_reducible exact Sealed.refl _
      | with_reducible apply Sealed.ite
      | with_reducible apply serveReq_sealed
      | with_reducible apply ih
      | exact Fld.keyFree rfl
      | exact Hid.keyFree rfl
      | exact balFld_keyFree _
      | decide
      | with_reducible apply sealedParts_of
      | intro _
      | with_reducible refine Sealed.of_eq (by assumption) ?_
      | with_reducible refine Sealed.of_eq_snd (by assumption) ?_
      | simp only [sealed_mk]
      | split

theorem State.freeReq_sealed {r0 s : State} (h : r0.Sealed s) (r : Req) : r0.Sealed (State.freeReq s r) := by
  unfold State.freeReq
  repeat' first
    | with_reducible assumption
    | with_reducible exact Sealed.refl _
    | with_reducible apply Sealed.ite
    | with_reducible apply tagsWait_sealed
    | with_reducible apply syncOut_sealed
    | exact Fld.keyFree rfl
    | exact Hid.keyFree rfl
    | exact balFld_keyFree _
    | decide
    | with_reducible apply sealedParts_of
    | intro _
    | with_reducible refine Sealed.of_eq (by assumption) ?_
    | with_reducible refine Sealed.of_eq_snd (by assumption) ?_
    | simp only [sealed_mk]
    | split

theorem State.answered_sealed {r0 s : State} (h : r0.Sealed s) (r : Req) (o : Op) : r0.Sealed (State.answered s r o) := by
  unfold State.answered
  repeat' first
    | with_reducible assumption
    | with_reducible exact Sealed.refl _
    | with_reducible apply Sealed.ite
    | with_reducible apply Sealed.ite_fst
    | with_reducible apply deliver_sealed
    | with_reducible apply freeReq_sealed
    | with_reducible apply updOp_sealed
    | exact Fld.keyFree rfl
    | exact Hid.keyFree rfl
    | exact balFld_keyFree _
    | decide
    | with_reducible apply sealedParts_of
    | intro _
    | with_reducible refine Sealed.of_eq (by assumption) ?_
    | with_reducible refine Sealed.of_eq_snd (by assumption) ?_
    | simp only [sealed_mk]
    | split

theorem execStreamIssue_sealed (e : ℕ) (t : ℕ) {s : State} : s.SealedNext (execStreamIssue e t s) := by
  unfold execStreamIssue
  repeat' first
    | with_reducible assumption
    | with_reducible exact Sealed.refl _
    | with_reducible apply SealedNext.next
    | with_reducible apply SealedNext.ite
    | with_reducible apply Sealed.ite
    | with_reducible apply Sealed.ite_fst
    | with_reducible apply resumeFaulted_sealed
    | with_reducible apply goTo_sealed
    | with_reducible apply offerOp_sealed
    | with_reducible apply tagsWait_sealed
    | with_reducible apply issueReq_sealed
    | rw [List.foldl_cons]
    | rw [List.foldl_nil]
    | exact Fld.keyFree rfl
    | exact Hid.keyFree rfl
    | exact balFld_keyFree _
    | decide
    | with_reducible refine Sealed.foldl ?_ (fun u x => ?_)
    | with_reducible refine Sealed.foldl_fst ?_ (fun u x => ?_)
    | with_reducible apply sealedParts_of
    | intro _
    | with_reducible refine Sealed.of_eq (by assumption) ?_
    | with_reducible refine Sealed.of_eq_snd (by assumption) ?_
    | simp only [sealed_mk]
    | split

theorem execPortTier3Issue_sealed (t : ℕ) {s : State} : s.SealedNext (execPortTier3Issue t s) := by
  unfold execPortTier3Issue
  repeat' first
    | with_reducible assumption
    | with_reducible exact Sealed.refl _
    | with_reducible apply SealedNext.next
    | with_reducible apply SealedNext.ite
    | with_reducible apply Sealed.ite
    | with_reducible apply goTo_sealed
    | with_reducible apply raiseFault_sealed
    | with_reducible apply freeReq_sealed
    | with_reducible apply ev_sealed
    | with_reducible apply syncOut_sealed
    | rw [List.foldl_cons]
    | rw [List.foldl_nil]
    | exact Fld.keyFree rfl
    | exact Hid.keyFree rfl
    | exact balFld_keyFree _
    | decide
    | with_reducible refine Sealed.foldl ?_ (fun u x => ?_)
    | with_reducible refine Sealed.foldl_fst ?_ (fun u x => ?_)
    | with_reducible apply sealedParts_of
    | intro _
    | with_reducible refine Sealed.of_eq (by assumption) ?_
    | with_reducible refine Sealed.of_eq_snd (by assumption) ?_
    | simp only [sealed_mk]
    | split

theorem execStreamResponse_sealed (req : ℕ) (t : ℕ) {s : State} : s.SealedNext (execStreamResponse req t s) := by
  unfold execStreamResponse
  repeat' first
    | with_reducible assumption
    | with_reducible exact Sealed.refl _
    | with_reducible apply SealedNext.next
    | with_reducible apply SealedNext.ite
    | with_reducible apply Sealed.ite
    | with_reducible apply serveUntil_sealed
    | with_reducible apply goTo_sealed
    | with_reducible apply freeReq_sealed
    | with_reducible apply answered_sealed
    | exact Fld.keyFree rfl
    | exact Hid.keyFree rfl
    | exact balFld_keyFree _
    | decide
    | with_reducible apply sealedParts_of
    | intro _
    | with_reducible refine Sealed.of_eq (by assumption) ?_
    | with_reducible refine Sealed.of_eq_snd (by assumption) ?_
    | simp only [sealed_mk]
    | split

theorem execSlotOpen_sealed (id : ℕ) (t : ℕ) {s : State} : s.SealedNext (execSlotOpen id t s) := by
  unfold execSlotOpen
  repeat' first
    | with_reducible assumption
    | with_reducible exact Sealed.refl _
    | with_reducible apply SealedNext.next
    | with_reducible apply SealedNext.ite
    | with_reducible apply Sealed.ite
    | with_reducible apply goTo_sealed
    | with_reducible apply finish_sealed
    | with_reducible apply ev_sealed
    | with_reducible apply setOp_sealed
    | exact Fld.keyFree rfl
    | exact Hid.keyFree rfl
    | exact balFld_keyFree _
    | decide
    | with_reducible apply sealedParts_of
    | intro _
    | with_reducible refine Sealed.of_eq (by assumption) ?_
    | with_reducible refine Sealed.of_eq_snd (by assumption) ?_
    | simp only [sealed_mk]
    | split

theorem execSlotCommit_sealed (id : ℕ) (t : ℕ) {s : State} : s.SealedNext (execSlotCommit id t s) := by
  unfold execSlotCommit
  repeat' first
    | with_reducible assumption
    | with_reducible exact Sealed.refl _
    | with_reducible apply SealedNext.next
    | with_reducible apply SealedNext.ite
    | with_reducible apply Sealed.ite
    | with_reducible apply Sealed.ite_fst
    | with_reducible apply goTo_sealed
    | with_reducible apply wr_sealed
    | with_reducible apply parkOp_sealed
    | with_reducible apply setOp_sealed
    | with_reducible apply writeRecord_sealed
    | with_reducible apply updOp_sealed
    | with_reducible apply finish_sealed
    | exact Fld.keyFree rfl
    | exact Hid.keyFree rfl
    | exact balFld_keyFree _
    | decide
    | with_reducible apply sealedParts_of
    | intro _
    | with_reducible refine Sealed.of_eq (by assumption) ?_
    | with_reducible refine Sealed.of_eq_snd (by assumption) ?_
    | simp only [sealed_mk]
    | split

theorem State.syncFe_sealed {r s : State} (h : r.Sealed s) (e : ℕ) : r.Sealed (State.syncFe s e) := by
  unfold State.syncFe
  repeat' first
    | with_reducible assumption
    | with_reducible exact Sealed.refl _
    | with_reducible apply Sealed.ite
    | with_reducible apply wr_sealed
    | exact Fld.keyFree rfl
    | exact Hid.keyFree rfl
    | exact balFld_keyFree _
    | decide
    | with_reducible apply sealedParts_of
    | intro _
    | with_reducible refine Sealed.of_eq (by assumption) ?_
    | with_reducible refine Sealed.of_eq_snd (by assumption) ?_
    | simp only [sealed_mk]
    | split

theorem State.feErr_sealed {r s : State} (h : r.Sealed s) (f : Fld) (q : ℕ) (i : ℕ) (hff : f.keyed = false) : r.Sealed (State.feErr s f q i) := by
  unfold State.feErr
  repeat' first
    | with_reducible assumption
    | with_reducible exact Sealed.refl _
    | with_reducible apply Sealed.ite
    | with_reducible apply mark_sealed
    | with_reducible apply wr_sealed
    | exact Fld.keyFree rfl
    | exact Hid.keyFree rfl
    | exact balFld_keyFree _
    | decide
    | with_reducible apply sealedParts_of
    | intro _
    | with_reducible refine Sealed.of_eq (by assumption) ?_
    | with_reducible refine Sealed.of_eq_snd (by assumption) ?_
    | simp only [sealed_mk]
    | split

theorem State.rsRead_sealed {r s : State} (h : r.Sealed s) (q : ℕ) (e : ℕ) (i : ℕ) : r.Sealed (State.rsRead s q e i).1 := by
  unfold State.rsRead
  repeat' first
    | with_reducible assumption
    | with_reducible exact Sealed.refl _
    | with_reducible apply Sealed.ite
    | with_reducible apply Sealed.ite_fst
    | with_reducible apply vread_sealed
    | exact Fld.keyFree rfl
    | exact Hid.keyFree rfl
    | exact balFld_keyFree _
    | decide
    | with_reducible apply sealedParts_of
    | intro _
    | with_reducible refine Sealed.of_eq (by assumption) ?_
    | with_reducible refine Sealed.of_eq_snd (by assumption) ?_
    | simp only [sealed_mk]
    | split

theorem State.rsWrite_sealed {r s : State} (h : r.Sealed s) (q : ℕ) (e : ℕ) (i : ℕ) (next : ℕ) (exp : ℕ) (seen : ℕ) : r.Sealed (State.rsWrite s q e i
    next exp seen).1 := by
  unfold State.rsWrite
  repeat' first
    | with_reducible assumption
    | with_reducible exact Sealed.refl _
    | with_reducible apply Sealed.ite
    | with_reducible apply Sealed.ite_fst
    | with_reducible apply vwrite_sealed
    | exact Fld.keyFree rfl
    | exact Hid.keyFree rfl
    | exact balFld_keyFree _
    | decide
    | with_reducible apply sealedParts_of
    | intro _
    | with_reducible refine Sealed.of_eq (by assumption) ?_
    | with_reducible refine Sealed.of_eq_snd (by assumption) ?_
    | simp only [sealed_mk]
    | split

theorem State.putMessage_sealed {r0 s : State} (h : r0.Sealed s) (r : ℕ) (alive : ℕ) (head : List Byte) (payload : List Byte) : r0.Sealed
    (State.putMessage s r alive head payload) := by
  unfold State.putMessage
  repeat' first
    | with_reducible assumption
    | with_reducible exact Sealed.refl _
    | with_reducible apply Sealed.ite
    | with_reducible apply setBytes_sealed
    | exact Fld.keyFree rfl
    | exact Hid.keyFree rfl
    | exact balFld_keyFree _
    | decide
    | with_reducible apply sealedParts_of
    | intro _
    | with_reducible refine Sealed.of_eq (by assumption) ?_
    | with_reducible refine Sealed.of_eq_snd (by assumption) ?_
    | simp only [sealed_mk]
    | split

theorem State.messageWait_sealed {r s : State} (h : r.Sealed s) (q : ℕ) (e : ℕ) (why : Option ℕ) : r.Sealed (State.messageWait s q e why) := by
  unfold State.messageWait
  repeat' first
    | with_reducible assumption
    | with_reducible exact Sealed.refl _
    | with_reducible apply Sealed.ite
    | with_reducible apply span_sealed
    | exact Fld.keyFree rfl
    | exact Hid.keyFree rfl
    | exact balFld_keyFree _
    | decide
    | with_reducible apply sealedParts_of
    | intro _
    | with_reducible refine Sealed.of_eq (by assumption) ?_
    | with_reducible refine Sealed.of_eq_snd (by assumption) ?_
    | simp only [sealed_mk]
    | split

theorem State.sendMsg_sealed {r s : State} (h : r.Sealed s) (q : ℕ) (route : ℕ) (op : ℕ) (own : Bool) (m : FeMsg) : r.Sealed (State.sendMsg s q route
    op own m).1 := by
  unfold State.sendMsg
  repeat' first
    | with_reducible assumption
    | with_reducible exact Sealed.refl _
    | with_reducible apply Sealed.ite
    | with_reducible apply Sealed.ite_fst
    | with_reducible apply messageWait_sealed
    | with_reducible apply rsRead_sealed
    | with_reducible apply vwrite_sealed
    | with_reducible apply rsWrite_sealed
    | with_reducible apply syncFe_sealed
    | with_reducible apply bump_sealed
    | with_reducible apply putMessage_sealed
    | exact Fld.keyFree rfl
    | exact Hid.keyFree rfl
    | exact balFld_keyFree _
    | decide
    | with_reducible apply sealedParts_of
    | intro _
    | with_reducible refine Sealed.of_eq (by assumption) ?_
    | with_reducible refine Sealed.of_eq_snd (by assumption) ?_
    | simp only [sealed_mk]
    | split

theorem State.resend_sealed {r s : State} (h : r.Sealed s) (x : FeTx) : r.Sealed (State.resend s x) := by
  unfold State.resend
  repeat' first
    | with_reducible assumption
    | with_reducible exact Sealed.refl _
    | with_reducible apply Sealed.ite
    | with_reducible apply Sealed.ite_fst
    | with_reducible apply vread_sealed
    | with_reducible apply putMessage_sealed
    | with_reducible apply bump_sealed
    | exact Fld.keyFree rfl
    | exact Hid.keyFree rfl
    | exact balFld_keyFree _
    | decide
    | with_reducible apply sealedParts_of
    | intro _
    | with_reducible refine Sealed.of_eq (by assumption) ?_
    | with_reducible refine Sealed.of_eq_snd (by assumption) ?_
    | simp only [sealed_mk]
    | split

theorem State.freeRecords_sealed {r s : State} (h : r.Sealed s) (xs : List FeTx) : r.Sealed (State.freeRecords s xs) := by
  unfold State.freeRecords
  repeat' first
    | with_reducible assumption
    | with_reducible exact Sealed.refl _
    | with_reducible apply Sealed.ite
    | with_reducible apply Sealed.ite_fst
    | with_reducible apply vread_sealed
    | with_reducible apply vwrite_sealed
    | with_reducible apply syncFe_sealed
    | rw [List.foldl_cons]
    | rw [List.foldl_nil]
    | exact Fld.keyFree rfl
    | exact Hid.keyFree rfl
    | exact balFld_keyFree _
    | decide
    | with_reducible refine Sealed.foldl ?_ (fun u x => ?_)
    | with_reducible refine Sealed.foldl_fst ?_ (fun u x => ?_)
    | with_reducible apply sealedParts_of
    | intro _
    | with_reducible refine Sealed.of_eq (by assumption) ?_
    | with_reducible refine Sealed.of_eq_snd (by assumption) ?_
    | simp only [sealed_mk]
    | split

theorem State.feDone_sealed {r s : State} (h : r.Sealed s) (id : ℕ) : r.Sealed (State.feDone s id) := by
  unfold State.feDone
  repeat' first
    | with_reducible assumption
    | with_reducible exact Sealed.refl _
    | with_reducible apply Sealed.ite
    | with_reducible apply setOp_sealed
    | exact Fld.keyFree rfl
    | exact Hid.keyFree rfl
    | exact balFld_keyFree _
    | decide
    | with_reducible apply sealedParts_of
    | intro _
    | with_reducible refine Sealed.of_eq (by assumption) ?_
    | with_reducible refine Sealed.of_eq_snd (by assumption) ?_
    | simp only [sealed_mk]
    | split

theorem State.sendAck_sealed {r s : State} (h : r.Sealed s) (q : ℕ) (i : ℕ) (missing : Bool) : r.Sealed (State.sendAck s q i missing) := by
  unfold State.sendAck
  repeat' first
    | with_reducible assumption
    | with_reducible exact Sealed.refl _
    | with_reducible apply Sealed.ite
    | with_reducible apply Sealed.ite_fst
    | with_reducible apply rsRead_sealed
    | with_reducible apply setH_sealed
    | with_reducible apply setBytes_sealed
    | exact Fld.keyFree rfl
    | exact Hid.keyFree rfl
    | exact balFld_keyFree _
    | decide
    | with_reducible apply sealedParts_of
    | intro _
    | with_reducible refine Sealed.of_eq (by assumption) ?_
    | with_reducible refine Sealed.of_eq_snd (by assumption) ?_
    | simp only [sealed_mk]
    | split

theorem State.startAck_sealed {r s : State} (h : r.Sealed s) (q : ℕ) (i : ℕ) : r.Sealed (State.startAck s q i) := by
  unfold State.startAck
  repeat' first
    | with_reducible assumption
    | with_reducible exact Sealed.refl _
    | with_reducible apply Sealed.ite
    | with_reducible apply setH_sealed
    | exact Fld.keyFree rfl
    | exact Hid.keyFree rfl
    | exact balFld_keyFree _
    | decide
    | with_reducible apply sealedParts_of
    | intro _
    | with_reducible refine Sealed.of_eq (by assumption) ?_
    | with_reducible refine Sealed.of_eq_snd (by assumption) ?_
    | simp only [sealed_mk]
    | split

theorem State.slotMsg_sealed {r s : State} (h : r.Sealed s) (q : ℕ) (e : ℕ) (i : ℕ) (l : ℕ) : r.Sealed (State.slotMsg s q e i l).1 := by
  unfold State.slotMsg
  repeat' first
    | with_reducible assumption
    | with_reducible exact Sealed.refl _
    | with_reducible apply Sealed.ite
    | with_reducible apply Sealed.ite_fst
    | with_reducible apply vread_sealed
    | exact Fld.keyFree rfl
    | exact Hid.keyFree rfl
    | exact balFld_keyFree _
    | decide
    | with_reducible apply sealedParts_of
    | intro _
    | with_reducible refine Sealed.of_eq (by assumption) ?_
    | with_reducible refine Sealed.of_eq_snd (by assumption) ?_
    | simp only [sealed_mk]
    | split

theorem State.checkHeader_sealed {r s : State} (h : r.Sealed s) (e : ℕ) (q : ℕ) (i : ℕ) (l : ℕ) (rid : ℕ) : r.Sealed (State.checkHeader s e q i l rid)
    := by
  unfold State.checkHeader
  repeat' first
    | with_reducible assumption
    | with_reducible exact Sealed.refl _
    | with_reducible apply Sealed.ite
    | with_reducible apply Sealed.ite_fst
    | with_reducible apply slotMsg_sealed
    | with_reducible apply ev_sealed
    | with_reducible apply feErr_sealed
    | with_reducible apply rsRead_sealed
    | with_reducible apply sendAck_sealed
    | with_reducible apply rsWrite_sealed
    | with_reducible apply startAck_sealed
    | exact Fld.keyFree rfl
    | exact Hid.keyFree rfl
    | exact balFld_keyFree _
    | decide
    | with_reducible apply sealedParts_of
    | intro _
    | with_reducible refine Sealed.of_eq (by assumption) ?_
    | with_reducible refine Sealed.of_eq_snd (by assumption) ?_
    | simp only [sealed_mk]
    | split

theorem State.markApplied_sealed {r s : State} (h : r.Sealed s) (x : FeRx) : r.Sealed (State.markApplied s x) := by
  unfold State.markApplied
  repeat' first
    | with_reducible assumption
    | with_reducible exact Sealed.refl _
    | with_reducible apply Sealed.ite
    | with_reducible apply Sealed.ite_fst
    | with_reducible apply rsRead_sealed
    | with_reducible apply rsWrite_sealed
    | with_reducible apply sendAck_sealed
    | with_reducible apply startAck_sealed
    | with_reducible apply setH_sealed
    | exact Fld.keyFree rfl
    | exact Hid.keyFree rfl
    | exact balFld_keyFree _
    | decide
    | with_reducible apply sealedParts_of
    | intro _
    | with_reducible refine Sealed.of_eq (by assumption) ?_
    | with_reducible refine Sealed.of_eq_snd (by assumption) ?_
    | simp only [sealed_mk]
    | split

theorem State.feStore_sealed {r s : State} (h : r.Sealed s) (c : Client) (hint : ℕ) (keep : ℕ) (va : ℕ) (d : List Byte) (bad : Bool) (y7 : ℕ) :
    r.Sealed (State.feStore s c hint keep va d bad y7).1 := by
  induction y7 generalizing s c hint keep va d bad with
  | zero =>
    unfold State.feStore
    repeat' first
      | with_reducible assumption
      | with_reducible exact Sealed.refl _
      | with_reducible apply Sealed.ite
      | with_reducible apply Sealed.ite_fst
      | with_reducible apply xlate_sealed
      | with_reducible apply writeOne_sealed
      | with_reducible apply settle_sealed
      | exact Fld.keyFree rfl
      | exact Hid.keyFree rfl
      | exact balFld_keyFree _
      | decide
      | with_reducible apply sealedParts_of
      | intro _
      | with_reducible refine Sealed.of_eq (by assumption) ?_
      | with_reducible refine Sealed.of_eq_snd (by assumption) ?_
      | simp only [sealed_mk]
      | split
  | succ n0 ih =>
    unfold State.feStore
    repeat' first
      | with_reducible assumption
      | with_reducible exact Sealed.refl _
      | with_reducible apply Sealed.ite
      | with_reducible apply Sealed.ite_fst
      | with_reducible apply xlate_sealed
      | with_reducible apply writeOne_sealed
      | with_reducible apply settle_sealed
      | with_reducible apply ih
      | exact Fld.keyFree rfl
      | exact Hid.keyFree rfl
      | exact balFld_keyFree _
      | decide
      | with_reducible apply sealedParts_of
      | intro _
      | with_reducible refine Sealed.of_eq (by assumption) ?_
      | with_reducible refine Sealed.of_eq_snd (by assumption) ?_
      | simp only [sealed_mk]
      | split

theorem State.feNote_sealed {r s : State} (h : r.Sealed s) (id : ℕ) (n : ℕ) (bad : Bool) (fl : ℕ) : r.Sealed (State.feNote s id n bad fl) := by
  unfold State.feNote
  repeat' first
    | with_reducible assumption
    | with_reducible exact Sealed.refl _
    | with_reducible apply Sealed.ite
    | with_reducible apply setOp_sealed
    | with_reducible apply mergeFlags_sealed
    | exact Fld.keyFree rfl
    | exact Hid.keyFree rfl
    | exact balFld_keyFree _
    | decide
    | with_reducible apply sealedParts_of
    | intro _
    | with_reducible refine Sealed.of_eq (by assumption) ?_
    | with_reducible refine Sealed.of_eq_snd (by assumption) ?_
    | simp only [sealed_mk]
    | split

theorem State.applyMsg_sealed {r s : State} (h : r.Sealed s) (x : FeRx) : r.Sealed (State.applyMsg s x) := by
  unfold State.applyMsg
  repeat' first
    | with_reducible assumption
    | with_reducible exact Sealed.refl _
    | with_reducible apply Sealed.ite
    | with_reducible apply Sealed.ite_fst
    | with_reducible apply slotMsg_sealed
    | with_reducible apply ev_sealed
    | with_reducible apply sendMsg_sealed
    | with_reducible apply finish_sealed
    | with_reducible apply markApplied_sealed
    | with_reducible apply feErr_sealed
    | with_reducible apply messageWait_sealed
    | with_reducible apply feStore_sealed
    | with_reducible apply feDone_sealed
    | with_reducible apply feNote_sealed
    | with_reducible apply vread_sealed
    | exact Fld.keyFree rfl
    | exact Hid.keyFree rfl
    | exact balFld_keyFree _
    | decide
    | with_reducible apply sealedParts_of
    | intro _
    | with_reducible refine Sealed.of_eq (by assumption) ?_
    | with_reducible refine Sealed.of_eq_snd (by assumption) ?_
    | simp only [sealed_mk]
    | split

theorem State.downRoute_sealed {r s : State} (h : r.Sealed s) (q : ℕ) (i : ℕ) : r.Sealed (State.downRoute s q i) := by
  unfold State.downRoute
  repeat' first
    | with_reducible assumption
    | with_reducible exact Sealed.refl _
    | with_reducible apply Sealed.ite
    | with_reducible apply wr_sealed
    | with_reducible apply freeRecords_sealed
    | with_reducible apply feErr_sealed
    | with_reducible apply finish_sealed
    | rw [List.foldl_cons]
    | rw [List.foldl_nil]
    | exact Fld.keyFree rfl
    | exact Hid.keyFree rfl
    | exact balFld_keyFree _
    | decide
    | with_reducible refine Sealed.foldl ?_ (fun u x => ?_)
    | with_reducible refine Sealed.foldl_fst ?_ (fun u x => ?_)
    | with_reducible apply sealedParts_of
    | intro _
    | with_reducible refine Sealed.of_eq (by assumption) ?_
    | with_reducible refine Sealed.of_eq_snd (by assumption) ?_
    | simp only [sealed_mk]
    | split

theorem State.feBegin_sealed {r s : State} (h : r.Sealed s) (id : ℕ) (op : ℕ) : r.Sealed (State.feBegin s id op) := by
  unfold State.feBegin
  repeat' first
    | with_reducible assumption
    | with_reducible exact Sealed.refl _
    | with_reducible apply Sealed.ite
    | with_reducible apply finish_sealed
    | with_reducible apply feDone_sealed
    | with_reducible apply setOp_sealed
    | exact Fld.keyFree rfl
    | exact Hid.keyFree rfl
    | exact balFld_keyFree _
    | decide
    | with_reducible apply sealedParts_of
    | intro _
    | with_reducible refine Sealed.of_eq (by assumption) ?_
    | with_reducible refine Sealed.of_eq_snd (by assumption) ?_
    | simp only [sealed_mk]
    | split

theorem State.applyTable_sealed {r s : State} (h : r.Sealed s) (q : ℕ) : r.Sealed (State.applyTable s q).1 := by
  unfold State.applyTable
  repeat' first
    | with_reducible assumption
    | with_reducible exact Sealed.refl _
    | with_reducible apply Sealed.ite
    | with_reducible apply Sealed.ite_fst
    | with_reducible apply vread_sealed
    | with_reducible apply vwrite_sealed
    | with_reducible apply wr_sealed
    | with_reducible apply setH_sealed
    | rw [List.foldl_cons]
    | rw [List.foldl_nil]
    | exact Fld.keyFree rfl
    | exact Hid.keyFree rfl
    | exact balFld_keyFree _
    | decide
    | with_reducible refine Sealed.foldl ?_ (fun u x => ?_)
    | with_reducible refine Sealed.foldl_fst ?_ (fun u x => ?_)
    | with_reducible apply sealedParts_of
    | intro _
    | with_reducible refine Sealed.of_eq (by assumption) ?_
    | with_reducible refine Sealed.of_eq_snd (by assumption) ?_
    | simp only [sealed_mk]
    | split

theorem State.applyFabric_sealed {r s : State} (h : r.Sealed s) : r.Sealed (State.applyFabric s) := by
  unfold State.applyFabric
  repeat' first
    | with_reducible assumption
    | with_reducible exact Sealed.refl _
    | with_reducible apply Sealed.ite
    | with_reducible apply Sealed.ite_fst
    | with_reducible apply applyTable_sealed
    | with_reducible apply setH_sealed
    | with_reducible apply fnErr_sealed
    | with_reducible apply mark_sealed
    | rw [List.foldl_cons]
    | rw [List.foldl_nil]
    | exact Fld.keyFree rfl
    | exact Hid.keyFree rfl
    | exact balFld_keyFree _
    | decide
    | with_reducible refine Sealed.foldl ?_ (fun u x => ?_)
    | with_reducible refine Sealed.foldl_fst ?_ (fun u x => ?_)
    | with_reducible apply sealedParts_of
    | intro _
    | with_reducible refine Sealed.of_eq (by assumption) ?_
    | with_reducible refine Sealed.of_eq_snd (by assumption) ?_
    | simp only [sealed_mk]
    | split

theorem State.applyCredits_sealed {r s : State} (h : r.Sealed s) : r.Sealed (State.applyCredits s) := by
  unfold State.applyCredits
  repeat' first
    | with_reducible assumption
    | with_reducible exact Sealed.refl _
    | with_reducible apply Sealed.ite
    | with_reducible apply mark_sealed
    | with_reducible apply wr_sealed
    | rw [List.foldl_cons]
    | rw [List.foldl_nil]
    | exact Fld.keyFree rfl
    | exact Hid.keyFree rfl
    | exact balFld_keyFree _
    | decide
    | with_reducible refine Sealed.foldl ?_ (fun u x => ?_)
    | with_reducible refine Sealed.foldl_fst ?_ (fun u x => ?_)
    | with_reducible apply sealedParts_of
    | intro _
    | with_reducible refine Sealed.of_eq (by assumption) ?_
    | with_reducible refine Sealed.of_eq_snd (by assumption) ?_
    | simp only [sealed_mk]
    | split

theorem State.recheckHeaders_sealed {r s : State} (h : r.Sealed s) : r.Sealed (State.recheckHeaders s) := by
  unfold State.recheckHeaders
  repeat' first
    | with_reducible assumption
    | with_reducible exact Sealed.refl _
    | with_reducible apply Sealed.ite
    | with_reducible apply checkHeader_sealed
    | rw [List.foldl_cons]
    | rw [List.foldl_nil]
    | exact Fld.keyFree rfl
    | exact Hid.keyFree rfl
    | exact balFld_keyFree _
    | decide
    | with_reducible refine Sealed.foldl ?_ (fun u x => ?_)
    | with_reducible refine Sealed.foldl_fst ?_ (fun u x => ?_)
    | with_reducible apply sealedParts_of
    | intro _
    | with_reducible refine Sealed.of_eq (by assumption) ?_
    | with_reducible refine Sealed.of_eq_snd (by assumption) ?_
    | simp only [sealed_mk]
    | split

theorem execMessageSend_sealed (id : ℕ) (t : ℕ) {s : State} : s.SealedNext (execMessageSend id t s) := by
  unfold execMessageSend
  repeat' first
    | with_reducible assumption
    | with_reducible exact Sealed.refl _
    | with_reducible apply SealedNext.next
    | with_reducible apply SealedNext.ite
    | with_reducible apply Sealed.ite
    | with_reducible apply Sealed.ite_fst
    | with_reducible apply goTo_sealed
    | with_reducible apply messageWait_sealed
    | with_reducible apply vread_sealed
    | with_reducible apply sendMsg_sealed
    | with_reducible apply updOp_sealed
    | with_reducible apply feNote_sealed
    | exact Fld.keyFree rfl
    | exact Hid.keyFree rfl
    | exact balFld_keyFree _
    | decide
    | with_reducible apply sealedParts_of
    | intro _
    | with_reducible refine Sealed.of_eq (by assumption) ?_
    | with_reducible refine Sealed.of_eq_snd (by assumption) ?_
    | simp only [sealed_mk]
    | split

theorem execHeaderCheck_sealed (e : ℕ) (q : ℕ) (i : ℕ) (l : ℕ) (rid : ℕ) (t : ℕ) {s : State} : s.SealedNext (execHeaderCheck e q i l rid t s) := by
  unfold execHeaderCheck
  repeat' first
    | with_reducible assumption
    | with_reducible exact Sealed.refl _
    | with_reducible apply SealedNext.next
    | with_reducible apply SealedNext.ite
    | with_reducible apply Sealed.ite
    | with_reducible apply goTo_sealed
    | with_reducible apply checkHeader_sealed
    | exact Fld.keyFree rfl
    | exact Hid.keyFree rfl
    | exact balFld_keyFree _
    | decide
    | with_reducible apply sealedParts_of
    | intro _
    | with_reducible refine Sealed.of_eq (by assumption) ?_
    | with_reducible refine Sealed.of_eq_snd (by assumption) ?_
    | simp only [sealed_mk]
    | split

theorem execMessageApply_sealed (q : ℕ) (i : ℕ) (l : ℕ) (t : ℕ) {s : State} : s.SealedNext (execMessageApply q i l t s) := by
  unfold execMessageApply
  repeat' first
    | with_reducible assumption
    | with_reducible exact Sealed.refl _
    | with_reducible apply SealedNext.next
    | with_reducible apply SealedNext.ite
    | with_reducible apply Sealed.ite
    | with_reducible apply goTo_sealed
    | with_reducible apply applyMsg_sealed
    | exact Fld.keyFree rfl
    | exact Hid.keyFree rfl
    | exact balFld_keyFree _
    | decide
    | with_reducible apply sealedParts_of
    | intro _
    | with_reducible refine Sealed.of_eq (by assumption) ?_
    | with_reducible refine Sealed.of_eq_snd (by assumption) ?_
    | simp only [sealed_mk]
    | split

theorem execAckLineReceive_sealed (q : ℕ) (i : ℕ) (t : ℕ) {s : State} : s.SealedNext (execAckLineReceive q i t s) := by
  unfold execAckLineReceive
  repeat' first
    | with_reducible assumption
    | with_reducible exact Sealed.refl _
    | with_reducible apply SealedNext.next
    | with_reducible apply SealedNext.ite
    | with_reducible apply Sealed.ite
    | with_reducible apply Sealed.ite_fst
    | with_reducible apply goTo_sealed
    | with_reducible apply vread_sealed
    | with_reducible apply freeRecords_sealed
    | with_reducible apply resend_sealed
    | with_reducible apply feDone_sealed
    | rw [List.foldl_cons]
    | rw [List.foldl_nil]
    | exact Fld.keyFree rfl
    | exact Hid.keyFree rfl
    | exact balFld_keyFree _
    | decide
    | with_reducible refine Sealed.foldl ?_ (fun u x => ?_)
    | with_reducible refine Sealed.foldl_fst ?_ (fun u x => ?_)
    | with_reducible apply sealedParts_of
    | intro _
    | with_reducible refine Sealed.of_eq (by assumption) ?_
    | with_reducible refine Sealed.of_eq_snd (by assumption) ?_
    | simp only [sealed_mk]
    | split

theorem execAckTimer_sealed (q : ℕ) (i : ℕ) (t : ℕ) {s : State} : s.SealedNext (execAckTimer q i t s) := by
  unfold execAckTimer
  repeat' first
    | with_reducible assumption
    | with_reducible exact Sealed.refl _
    | with_reducible apply SealedNext.next
    | with_reducible apply SealedNext.ite
    | with_reducible apply Sealed.ite
    | with_reducible apply goTo_sealed
    | with_reducible apply sendAck_sealed
    | exact Fld.keyFree rfl
    | exact Hid.keyFree rfl
    | exact balFld_keyFree _
    | decide
    | with_reducible apply sealedParts_of
    | intro _
    | with_reducible refine Sealed.of_eq (by assumption) ?_
    | with_reducible refine Sealed.of_eq_snd (by assumption) ?_
    | simp only [sealed_mk]
    | split

theorem execResendTimer_sealed (q : ℕ) (e : ℕ) (r : ℕ) (t : ℕ) {s : State} : s.SealedNext (execResendTimer q e r t s) := by
  unfold execResendTimer
  repeat' first
    | with_reducible assumption
    | with_reducible exact Sealed.refl _
    | with_reducible apply SealedNext.next
    | with_reducible apply SealedNext.ite
    | with_reducible apply Sealed.ite
    | with_reducible apply goTo_sealed
    | with_reducible apply downRoute_sealed
    | with_reducible apply resend_sealed
    | exact Fld.keyFree rfl
    | exact Hid.keyFree rfl
    | exact balFld_keyFree _
    | decide
    | with_reducible apply sealedParts_of
    | intro _
    | with_reducible refine Sealed.of_eq (by assumption) ?_
    | with_reducible refine Sealed.of_eq_snd (by assumption) ?_
    | simp only [sealed_mk]
    | split

theorem execSend_sealed (id : ℕ) (t : ℕ) {s : State} : s.SealedNext (execSend id t s) := by
  unfold execSend
  repeat' first
    | with_reducible assumption
    | with_reducible exact Sealed.refl _
    | with_reducible apply SealedNext.next
    | with_reducible apply SealedNext.ite
    | with_reducible apply Sealed.ite
    | with_reducible apply feBegin_sealed
    | with_reducible apply goTo_sealed
    | exact Fld.keyFree rfl
    | exact Hid.keyFree rfl
    | exact balFld_keyFree _
    | decide
    | with_reducible apply sealedParts_of
    | intro _
    | with_reducible refine Sealed.of_eq (by assumption) ?_
    | with_reducible refine Sealed.of_eq_snd (by assumption) ?_
    | simp only [sealed_mk]
    | split

theorem execRecv_sealed (id : ℕ) (t : ℕ) {s : State} : s.SealedNext (execRecv id t s) := by
  unfold execRecv
  repeat' first
    | with_reducible assumption
    | with_reducible exact Sealed.refl _
    | with_reducible apply SealedNext.next
    | with_reducible apply SealedNext.ite
    | with_reducible apply Sealed.ite
    | with_reducible apply feBegin_sealed
    | with_reducible apply goTo_sealed
    | exact Fld.keyFree rfl
    | exact Hid.keyFree rfl
    | exact balFld_keyFree _
    | decide
    | with_reducible apply sealedParts_of
    | intro _
    | with_reducible refine Sealed.of_eq (by assumption) ?_
    | with_reducible refine Sealed.of_eq_snd (by assumption) ?_
    | simp only [sealed_mk]
    | split

theorem execAllreduce_sealed (id : ℕ) (t : ℕ) {s : State} : s.SealedNext (execAllreduce id t s) := by
  unfold execAllreduce
  repeat' first
    | with_reducible assumption
    | with_reducible exact Sealed.refl _
    | with_reducible apply SealedNext.next
    | with_reducible apply SealedNext.ite
    | with_reducible apply Sealed.ite
    | with_reducible apply feBegin_sealed
    | with_reducible apply goTo_sealed
    | exact Fld.keyFree rfl
    | exact Hid.keyFree rfl
    | exact balFld_keyFree _
    | decide
    | with_reducible apply sealedParts_of
    | intro _
    | with_reducible refine Sealed.of_eq (by assumption) ?_
    | with_reducible refine Sealed.of_eq_snd (by assumption) ?_
    | simp only [sealed_mk]
    | split

theorem State.putPte_sealed {r s : State} (h : r.Sealed s) (q : ℕ) (unit : ℕ) (addr : ℕ) (p : ℕ) : r.Sealed (State.putPte s q unit addr p) := by
  unfold State.putPte
  repeat' first
    | with_reducible assumption
    | with_reducible exact Sealed.refl _
    | with_reducible apply Sealed.ite
    | with_reducible apply setBytes_sealed
    | with_reducible apply plazaTouch_sealed
    | exact Fld.keyFree rfl
    | exact Hid.keyFree rfl
    | exact balFld_keyFree _
    | decide
    | with_reducible apply sealedParts_of
    | intro _
    | with_reducible refine Sealed.of_eq (by assumption) ?_
    | with_reducible refine Sealed.of_eq_snd (by assumption) ?_
    | simp only [sealed_mk]
    | split

theorem State.dropTlb_sealed {r s : State} (h : r.Sealed s) (q : ℕ) (va : ℕ) (n : ℕ) : r.Sealed (State.dropTlb s q va n) := by
  unfold State.dropTlb
  repeat' first
    | with_reducible assumption
    | with_reducible exact Sealed.refl _
    | with_reducible apply Sealed.ite
    | exact Fld.keyFree rfl
    | exact Hid.keyFree rfl
    | exact balFld_keyFree _
    | decide
    | with_reducible apply sealedParts_of
    | intro _
    | with_reducible refine Sealed.of_eq (by assumption) ?_
    | with_reducible refine Sealed.of_eq_snd (by assumption) ?_
    | simp only [sealed_mk]
    | split

theorem State.writeFrame_sealed {r s : State} (h : r.Sealed s) (c : Client) (l : Leaf) (va : ℕ) (d : List Byte) (bads : List Bool) : r.Sealed
    (State.writeFrame s c l va d bads).1 := by
  unfold State.writeFrame
  repeat' first
    | with_reducible assumption
    | with_reducible exact Sealed.refl _
    | with_reducible apply Sealed.ite
    | with_reducible apply Sealed.ite_fst
    | with_reducible apply packedWriteAt_sealed
    | with_reducible apply packedFault_sealed
    | with_reducible apply writePiece_sealed
    | rw [List.foldl_cons]
    | rw [List.foldl_nil]
    | exact Fld.keyFree rfl
    | exact Hid.keyFree rfl
    | exact balFld_keyFree _
    | decide
    | with_reducible refine Sealed.foldl ?_ (fun u x => ?_)
    | with_reducible refine Sealed.foldl_fst ?_ (fun u x => ?_)
    | with_reducible apply sealedParts_of
    | intro _
    | with_reducible refine Sealed.of_eq (by assumption) ?_
    | with_reducible refine Sealed.of_eq_snd (by assumption) ?_
    | simp only [sealed_mk]
    | split

theorem State.noteMovePoison_sealed {r s : State} (h : r.Sealed s) (id : ℕ) (bad : Bool) : r.Sealed (State.noteMovePoison s id bad) := by
  unfold State.noteMovePoison
  repeat' first
    | with_reducible assumption
    | with_reducible exact Sealed.refl _
    | with_reducible apply Sealed.ite
    | with_reducible apply updOp_sealed
    | exact Fld.keyFree rfl
    | exact Hid.keyFree rfl
    | exact balFld_keyFree _
    | decide
    | with_reducible apply sealedParts_of
    | intro _
    | with_reducible refine Sealed.of_eq (by assumption) ?_
    | with_reducible refine Sealed.of_eq_snd (by assumption) ?_
    | simp only [sealed_mk]
    | split

theorem State.nextPage_sealed {r s : State} (h : r.Sealed s) (id : ℕ) : r.Sealed (State.nextPage s id) := by
  unfold State.nextPage
  repeat' first
    | with_reducible assumption
    | with_reducible exact Sealed.refl _
    | with_reducible apply Sealed.ite
    | with_reducible apply updOp_sealed
    | exact Fld.keyFree rfl
    | exact Hid.keyFree rfl
    | exact balFld_keyFree _
    | decide
    | with_reducible apply sealedParts_of
    | intro _
    | with_reducible refine Sealed.of_eq (by assumption) ?_
    | with_reducible refine Sealed.of_eq_snd (by assumption) ?_
    | simp only [sealed_mk]
    | split

theorem State.migDst_sealed {r s : State} (h : r.Sealed s) (c : Client) (d : ℕ) (i : ℕ) (sz : ℕ) : r.Sealed (State.migDst s c d i sz).1 := by
  unfold State.migDst
  repeat' first
    | with_reducible assumption
    | with_reducible exact Sealed.refl _
    | with_reducible apply Sealed.ite
    | with_reducible apply Sealed.ite_fst
    | with_reducible apply readDir_sealed
    | exact Fld.keyFree rfl
    | exact Hid.keyFree rfl
    | exact balFld_keyFree _
    | decide
    | with_reducible apply sealedParts_of
    | intro _
    | with_reducible refine Sealed.of_eq (by assumption) ?_
    | with_reducible refine Sealed.of_eq_snd (by assumption) ?_
    | simp only [sealed_mk]
    | split

theorem State.migDone_sealed {r s : State} (h : r.Sealed s) (o : Op) (l : Leaf) (va : ℕ) (new : ℕ) (bads : List Bool) : r.Sealed (State.migDone s o l
    va new bads) := by
  unfold State.migDone
  repeat' first
    | with_reducible assumption
    | with_reducible exact Sealed.refl _
    | with_reducible apply Sealed.ite
    | with_reducible apply nextPage_sealed
    | with_reducible apply noteMovePoison_sealed
    | with_reducible apply dropTlb_sealed
    | with_reducible apply putPte_sealed
    | exact Fld.keyFree rfl
    | exact Hid.keyFree rfl
    | exact balFld_keyFree _
    | decide
    | with_reducible apply sealedParts_of
    | intro _
    | with_reducible refine Sealed.of_eq (by assumption) ?_
    | with_reducible refine Sealed.of_eq_snd (by assumption) ?_
    | simp only [sealed_mk]
    | split

theorem State.migrateLeaf_sealed {r s : State} (h : r.Sealed s) (o : Op) (l : Leaf) (va : ℕ) : r.Sealed (State.migrateLeaf s o l va) := by
  unfold State.migrateLeaf
  repeat' first
    | with_reducible assumption
    | with_reducible exact Sealed.refl _
    | with_reducible apply Sealed.ite
    | with_reducible apply Sealed.ite_fst
    | with_reducible apply migDst_sealed
    | with_reducible apply raiseFault_sealed
    | with_reducible apply dropTlb_sealed
    | with_reducible apply putPte_sealed
    | with_reducible apply updOp_sealed
    | with_reducible apply vreadL_sealed
    | with_reducible apply writeFrame_sealed
    | with_reducible apply migDone_sealed
    | exact Fld.keyFree rfl
    | exact Hid.keyFree rfl
    | exact balFld_keyFree _
    | decide
    | with_reducible apply sealedParts_of
    | intro _
    | with_reducible refine Sealed.of_eq (by assumption) ?_
    | with_reducible refine Sealed.of_eq_snd (by assumption) ?_
    | simp only [sealed_mk]
    | split

theorem State.migratePage_sealed {r s : State} (h : r.Sealed s) (o : Op) : r.Sealed (State.migratePage s o) := by
  unfold State.migratePage
  repeat' first
    | with_reducible assumption
    | with_reducible exact Sealed.refl _
    | with_reducible apply Sealed.ite
    | with_reducible apply Sealed.ite_fst
    | with_reducible apply nextPage_sealed
    | with_reducible apply updOp_sealed
    | with_reducible apply walk_sealed
    | with_reducible apply raiseFault_sealed
    | with_reducible apply migrateLeaf_sealed
    | exact Fld.keyFree rfl
    | exact Hid.keyFree rfl
    | exact balFld_keyFree _
    | decide
    | with_reducible apply sealedParts_of
    | intro _
    | with_reducible refine Sealed.of_eq (by assumption) ?_
    | with_reducible refine Sealed.of_eq_snd (by assumption) ?_
    | simp only [sealed_mk]
    | split

theorem State.convGroup_sealed {r s : State} (h : r.Sealed s) (o : Op) (total : ℕ) (g : ℕ × ℕ) : r.Sealed (State.convGroup s o total g).1 := by
  unfold State.convGroup
  repeat' first
    | with_reducible assumption
    | with_reducible exact Sealed.refl _
    | with_reducible apply Sealed.ite
    | with_reducible apply Sealed.ite_fst
    | with_reducible apply vread_sealed
    | with_reducible apply vwriteL_sealed
    | with_reducible apply noteMovePoison_sealed
    | with_reducible apply updOp_sealed
    | exact Fld.keyFree rfl
    | exact Hid.keyFree rfl
    | exact balFld_keyFree _
    | decide
    | with_reducible apply sealedParts_of
    | intro _
    | with_reducible refine Sealed.of_eq (by assumption) ?_
    | with_reducible refine Sealed.of_eq_snd (by assumption) ?_
    | simp only [sealed_mk]
    | split

theorem State.copyPage_sealed {r s : State} (h : r.Sealed s) (o : Op) : r.Sealed (State.copyPage s o) := by
  unfold State.copyPage
  repeat' first
    | with_reducible assumption
    | with_reducible exact Sealed.refl _
    | with_reducible apply Sealed.ite
    | with_reducible apply Sealed.ite_fst
    | with_reducible apply xlate_sealed
    | with_reducible apply convGroup_sealed
    | with_reducible apply nextPage_sealed
    | with_reducible apply vreadL_sealed
    | with_reducible apply vwriteL_sealed
    | with_reducible apply noteMovePoison_sealed
    | rw [List.foldl_cons]
    | rw [List.foldl_nil]
    | exact Fld.keyFree rfl
    | exact Hid.keyFree rfl
    | exact balFld_keyFree _
    | decide
    | with_reducible refine Sealed.foldl ?_ (fun u x => ?_)
    | with_reducible refine Sealed.foldl_fst ?_ (fun u x => ?_)
    | with_reducible apply sealedParts_of
    | intro _
    | with_reducible refine Sealed.of_eq (by assumption) ?_
    | with_reducible refine Sealed.of_eq_snd (by assumption) ?_
    | simp only [sealed_mk]
    | split

theorem State.abandonPage_sealed {r s : State} (h : r.Sealed s) (id : ℕ) : r.Sealed (State.abandonPage s id) := by
  unfold State.abandonPage
  repeat' first
    | with_reducible assumption
    | with_reducible exact Sealed.refl _
    | with_reducible apply Sealed.ite
    | with_reducible apply putPte_sealed
    | with_reducible apply updOp_sealed
    | with_reducible apply dropTlb_sealed
    | exact Fld.keyFree rfl
    | exact Hid.keyFree rfl
    | exact balFld_keyFree _
    | decide
    | with_reducible apply sealedParts_of
    | intro _
    | with_reducible refine Sealed.of_eq (by assumption) ?_
    | with_reducible refine Sealed.of_eq_snd (by assumption) ?_
    | simp only [sealed_mk]
    | split

theorem State.replicaOf_sealed {r s : State} (h : r.Sealed s) (o : Op) (e : Need) : r.Sealed (State.replicaOf s o e).1 := by
  unfold State.replicaOf
  repeat' first
    | with_reducible assumption
    | with_reducible exact Sealed.refl _
    | with_reducible apply Sealed.ite
    | with_reducible apply Sealed.ite_fst
    | with_reducible apply translate_sealed
    | with_reducible apply readLedger_sealed
    | exact Fld.keyFree rfl
    | exact Hid.keyFree rfl
    | exact balFld_keyFree _
    | decide
    | with_reducible apply sealedParts_of
    | intro _
    | with_reducible refine Sealed.of_eq (by assumption) ?_
    | with_reducible refine Sealed.of_eq_snd (by assumption) ?_
    | simp only [sealed_mk]
    | split

theorem State.switchReplica_sealed {r s : State} (h : r.Sealed s) (id : ℕ) (x : ℕ) : r.Sealed (State.switchReplica s id x) := by
  unfold State.switchReplica
  repeat' first
    | with_reducible assumption
    | with_reducible exact Sealed.refl _
    | with_reducible apply Sealed.ite
    | with_reducible apply bump_sealed
    | with_reducible apply updOp_sealed
    | with_reducible apply laterReqs_sealed
    | exact Fld.keyFree rfl
    | exact Hid.keyFree rfl
    | exact balFld_keyFree _
    | decide
    | with_reducible apply sealedParts_of
    | intro _
    | with_reducible refine Sealed.of_eq (by assumption) ?_
    | with_reducible refine Sealed.of_eq_snd (by assumption) ?_
    | simp only [sealed_mk]
    | split

theorem execMovePage_sealed (id : ℕ) (t : ℕ) {s : State} : s.SealedNext (execMovePage id t s) := by
  unfold execMovePage
  repeat' first
    | with_reducible assumption
    | with_reducible exact Sealed.refl _
    | with_reducible apply SealedNext.next
    | with_reducible apply SealedNext.ite
    | with_reducible apply Sealed.ite
    | with_reducible apply goTo_sealed
    | with_reducible apply finish_sealed
    | with_reducible apply copyPage_sealed
    | with_reducible apply migratePage_sealed
    | exact Fld.keyFree rfl
    | exact Hid.keyFree rfl
    | exact balFld_keyFree _
    | decide
    | with_reducible apply sealedParts_of
    | intro _
    | with_reducible refine Sealed.of_eq (by assumption) ?_
    | with_reducible refine Sealed.of_eq_snd (by assumption) ?_
    | simp only [sealed_mk]
    | split

theorem execLateRead_sealed (id : ℕ) (t : ℕ) {s : State} : s.SealedNext (execLateRead id t s) := by
  unfold execLateRead
  repeat' first
    | with_reducible assumption
    | with_reducible exact Sealed.refl _
    | with_reducible apply SealedNext.next
    | with_reducible apply SealedNext.ite
    | with_reducible apply Sealed.ite
    | with_reducible apply Sealed.ite_fst
    | with_reducible apply goTo_sealed
    | with_reducible apply ev_sealed
    | with_reducible apply bump_sealed
    | with_reducible apply replicaOf_sealed
    | with_reducible apply switchReplica_sealed
    | exact Fld.keyFree rfl
    | exact Hid.keyFree rfl
    | exact balFld_keyFree _
    | decide
    | with_reducible apply sealedParts_of
    | intro _
    | with_reducible refine Sealed.of_eq (by assumption) ?_
    | with_reducible refine Sealed.of_eq_snd (by assumption) ?_
    | simp only [sealed_mk]
    | split

theorem State.syncFrames_sealed {r s : State} (h : r.Sealed s) (d : ℕ) : r.Sealed (State.syncFrames s d) := by
  unfold State.syncFrames
  repeat' first
    | with_reducible assumption
    | with_reducible exact Sealed.refl _
    | with_reducible apply Sealed.ite
    | with_reducible apply wr_sealed
    | exact Fld.keyFree rfl
    | exact Hid.keyFree rfl
    | exact balFld_keyFree _
    | decide
    | with_reducible apply sealedParts_of
    | intro _
    | with_reducible refine Sealed.of_eq (by assumption) ?_
    | with_reducible refine Sealed.of_eq_snd (by assumption) ?_
    | simp only [sealed_mk]
    | split

theorem State.memRetire_sealed {r s : State} (h : r.Sealed s) (fromMc : Bool) (val : ℕ) : r.Sealed (State.memRetire s fromMc val) := by
  unfold State.memRetire
  repeat' first
    | with_reducible assumption
    | with_reducible exact Sealed.refl _
    | with_reducible apply Sealed.ite
    | with_reducible apply fnErr_sealed
    | with_reducible apply wr_sealed
    | exact Fld.keyFree rfl
    | exact Hid.keyFree rfl
    | exact balFld_keyFree _
    | decide
    | with_reducible apply sealedParts_of
    | intro _
    | with_reducible refine Sealed.of_eq (by assumption) ?_
    | with_reducible refine Sealed.of_eq_snd (by assumption) ?_
    | simp only [sealed_mk]
    | split

theorem State.loseBay_sealed {r s : State} (h : r.Sealed s) (d : ℕ) : r.Sealed (State.loseBay s d) := by
  unfold State.loseBay
  repeat' first
    | with_reducible assumption
    | with_reducible exact Sealed.refl _
    | with_reducible apply Sealed.ite
    | with_reducible apply giveBack_sealed
    | with_reducible apply ev_sealed
    | with_reducible apply bump_sealed
    | with_reducible apply syncOut_sealed
    | with_reducible apply wr_sealed
    | with_reducible apply setH_sealed
    | rw [List.foldl_cons]
    | rw [List.foldl_nil]
    | exact Fld.keyFree rfl
    | exact Hid.keyFree rfl
    | exact balFld_keyFree _
    | decide
    | with_reducible refine Sealed.foldl ?_ (fun u x => ?_)
    | with_reducible refine Sealed.foldl_fst ?_ (fun u x => ?_)
    | with_reducible apply sealedParts_of
    | intro _
    | with_reducible refine Sealed.of_eq (by assumption) ?_
    | with_reducible refine Sealed.of_eq_snd (by assumption) ?_
    | simp only [sealed_mk]
    | split

theorem State.bayOpens_sealed {r s : State} (h : r.Sealed s) (d : ℕ) : r.Sealed (State.bayOpens s d) := by
  unfold State.bayOpens
  repeat' first
    | with_reducible assumption
    | with_reducible exact Sealed.refl _
    | with_reducible apply Sealed.ite
    | with_reducible apply wr_sealed
    | with_reducible apply loseBay_sealed
    | exact Fld.keyFree rfl
    | exact Hid.keyFree rfl
    | exact balFld_keyFree _
    | decide
    | with_reducible apply sealedParts_of
    | intro _
    | with_reducible refine Sealed.of_eq (by assumption) ?_
    | with_reducible refine Sealed.of_eq_snd (by assumption) ?_
    | simp only [sealed_mk]
    | split

theorem execTranslationWalk_sealed (q : ℕ) (va : ℕ) (write : Bool) (init : Initiator) {s : State} : s.SealedNext (execTranslationWalk q va write init
    s) := by
  unfold execTranslationWalk
  repeat' first
    | with_reducible assumption
    | with_reducible exact Sealed.refl _
    | with_reducible apply SealedNext.next
    | with_reducible apply SealedNext.ite
    | with_reducible apply Sealed.ite
    | with_reducible apply Sealed.ite_fst
    | with_reducible apply xlate_sealed
    | exact Fld.keyFree rfl
    | exact Hid.keyFree rfl
    | exact balFld_keyFree _
    | decide
    | with_reducible apply sealedParts_of
    | intro _
    | with_reducible refine Sealed.of_eq (by assumption) ?_
    | with_reducible refine Sealed.of_eq_snd (by assumption) ?_
    | simp only [sealed_mk]
    | split

theorem State.plazaServe_sealed {r0 s : State} (h : r0.Sealed s) (r : PlazaReq) : r0.Sealed (State.plazaServe s r).1 := by
  unfold State.plazaServe
  repeat' first
    | with_reducible assumption
    | with_reducible exact Sealed.refl _
    | with_reducible apply Sealed.ite
    | with_reducible apply Sealed.ite_fst
    | with_reducible apply settle_sealed
    | with_reducible apply lineWrite_sealed
    | with_reducible apply readLines_sealed
    | rw [List.foldl_cons]
    | rw [List.foldl_nil]
    | exact Fld.keyFree rfl
    | exact Hid.keyFree rfl
    | exact balFld_keyFree _
    | decide
    | with_reducible refine Sealed.foldl ?_ (fun u x => ?_)
    | with_reducible refine Sealed.foldl_fst ?_ (fun u x => ?_)
    | with_reducible apply sealedParts_of
    | intro _
    | with_reducible refine Sealed.of_eq (by assumption) ?_
    | with_reducible refine Sealed.of_eq_snd (by assumption) ?_
    | simp only [sealed_mk]
    | split

theorem execPlazaAccess_sealed (rs : List PlazaReq) {s : State} : s.SealedNext (execPlazaAccess rs s) := by
  unfold execPlazaAccess
  repeat' first
    | with_reducible assumption
    | with_reducible exact Sealed.refl _
    | with_reducible apply SealedNext.next
    | with_reducible apply SealedNext.ite
    | with_reducible apply Sealed.ite
    | with_reducible apply Sealed.ite_fst
    | with_reducible apply plazaServe_sealed
    | rw [List.foldl_cons]
    | rw [List.foldl_nil]
    | exact Fld.keyFree rfl
    | exact Hid.keyFree rfl
    | exact balFld_keyFree _
    | decide
    | with_reducible refine Sealed.foldl ?_ (fun u x => ?_)
    | with_reducible refine Sealed.foldl_fst ?_ (fun u x => ?_)
    | with_reducible apply sealedParts_of
    | intro _
    | with_reducible refine Sealed.of_eq (by assumption) ?_
    | with_reducible refine Sealed.of_eq_snd (by assumption) ?_
    | simp only [sealed_mk]
    | split

theorem execUnitZeroed_sealed (lot : Bool) (i : ℕ) {s : State} : s.SealedNext (execUnitZeroed lot i s) := by
  unfold execUnitZeroed
  repeat' first
    | with_reducible assumption
    | with_reducible exact Sealed.refl _
    | with_reducible apply SealedNext.next
    | with_reducible apply SealedNext.ite
    | with_reducible apply Sealed.ite
    | with_reducible apply setH_sealed
    | with_reducible apply lateDone_sealed
    | with_reducible apply wr_sealed
    | with_reducible apply wipe_sealed
    | exact Fld.keyFree rfl
    | exact Hid.keyFree rfl
    | exact balFld_keyFree _
    | decide
    | with_reducible apply sealedParts_of
    | intro _
    | with_reducible refine Sealed.of_eq (by assumption) ?_
    | with_reducible refine Sealed.of_eq_snd (by assumption) ?_
    | simp only [sealed_mk]
    | split

theorem execMemoryRequest_sealed (tier : ℕ) (unit : ℕ) (r : MemReq) (serve : Bool) {s : State} : s.SealedNext (execMemoryRequest tier unit r serve s)
    := by
  unfold execMemoryRequest
  repeat' first
    | with_reducible assumption
    | with_reducible exact Sealed.refl _
    | with_reducible apply SealedNext.next
    | with_reducible apply SealedNext.ite
    | with_reducible apply Sealed.ite
    | with_reducible apply enqueue_sealed
    | with_reducible apply serveReq_sealed
    | exact Fld.keyFree rfl
    | exact Hid.keyFree rfl
    | exact balFld_keyFree _
    | decide
    | with_reducible apply sealedParts_of
    | intro _
    | with_reducible refine Sealed.of_eq (by assumption) ?_
    | with_reducible refine Sealed.of_eq_snd (by assumption) ?_
    | simp only [sealed_mk]
    | split

theorem execReadComplete_sealed (tier : ℕ) (unit : ℕ) (addr : ℕ) (wrong : ℕ) (lane : ℕ) {s : State} : s.SealedNext (execReadComplete tier unit addr
    wrong lane s) := by
  unfold execReadComplete
  repeat' first
    | with_reducible assumption
    | with_reducible exact Sealed.refl _
    | with_reducible apply SealedNext.next
    | with_reducible apply SealedNext.ite
    | with_reducible apply Sealed.ite
    | with_reducible apply Sealed.ite_fst
    | with_reducible apply dramRead_sealed
    | exact Fld.keyFree rfl
    | exact Hid.keyFree rfl
    | exact balFld_keyFree _
    | decide
    | with_reducible apply sealedParts_of
    | intro _
    | with_reducible refine Sealed.of_eq (by assumption) ?_
    | with_reducible refine Sealed.of_eq_snd (by assumption) ?_
    | simp only [sealed_mk]
    | split

theorem execBankRefresh_sealed (tier : ℕ) (unit : ℕ) (ch : ℕ) (bank : ℕ) {s : State} : s.SealedNext (execBankRefresh tier unit ch bank s) := by
  unfold execBankRefresh
  repeat' first
    | with_reducible assumption
    | with_reducible exact Sealed.refl _
    | with_reducible apply SealedNext.next
    | with_reducible apply SealedNext.ite
    | with_reducible apply Sealed.ite
    | exact Fld.keyFree rfl
    | exact Hid.keyFree rfl
    | exact balFld_keyFree _
    | decide
    | with_reducible apply sealedParts_of
    | intro _
    | with_reducible refine Sealed.of_eq (by assumption) ?_
    | with_reducible refine Sealed.of_eq_snd (by assumption) ?_
    | simp only [sealed_mk]
    | split

theorem execScrub_sealed (tier : ℕ) (unit : ℕ) (ch : ℕ) (wrong : ℕ) (lane : ℕ) {s : State} : s.SealedNext (execScrub tier unit ch wrong lane s) := by
  unfold execScrub
  repeat' first
    | with_reducible assumption
    | with_reducible exact Sealed.refl _
    | with_reducible apply SealedNext.next
    | with_reducible apply SealedNext.ite
    | with_reducible apply Sealed.ite
    | with_reducible apply Sealed.ite_fst
    | with_reducible apply dramRead_sealed
    | with_reducible apply setH_sealed
    | exact Fld.keyFree rfl
    | exact Hid.keyFree rfl
    | exact balFld_keyFree _
    | decide
    | with_reducible apply sealedParts_of
    | intro _
    | with_reducible refine Sealed.of_eq (by assumption) ?_
    | with_reducible refine Sealed.of_eq_snd (by assumption) ?_
    | simp only [sealed_mk]
    | split

theorem execLaneFailure_sealed (k : ℕ) (p : ℕ) (lane : ℕ) {s : State} : s.SealedNext (execLaneFailure k p lane s) := by
  unfold execLaneFailure
  repeat' first
    | with_reducible assumption
    | with_reducible exact Sealed.refl _
    | with_reducible apply SealedNext.next
    | with_reducible apply SealedNext.ite
    | with_reducible apply Sealed.ite
    | with_reducible apply laneFails_sealed
    | exact Fld.keyFree rfl
    | exact Hid.keyFree rfl
    | exact balFld_keyFree _
    | decide
    | with_reducible apply sealedParts_of
    | intro _
    | with_reducible refine Sealed.of_eq (by assumption) ?_
    | with_reducible refine Sealed.of_eq_snd (by assumption) ?_
    | simp only [sealed_mk]
    | split

theorem execLaneRemap_sealed (k : ℕ) (p : ℕ) {s : State} : s.SealedNext (execLaneRemap k p s) := by
  unfold execLaneRemap
  repeat' first
    | with_reducible assumption
    | with_reducible exact Sealed.refl _
    | with_reducible apply SealedNext.next
    | with_reducible apply SealedNext.ite
    | with_reducible apply Sealed.ite
    | with_reducible apply goTo_sealed
    | with_reducible apply setH_sealed
    | exact Fld.keyFree rfl
    | exact Hid.keyFree rfl
    | exact balFld_keyFree _
    | decide
    | with_reducible apply sealedParts_of
    | intro _
    | with_reducible refine Sealed.of_eq (by assumption) ?_
    | with_reducible refine Sealed.of_eq_snd (by assumption) ?_
    | simp only [sealed_mk]
    | split

theorem execSpareTrained_sealed (k : ℕ) (p : ℕ) (ok : Bool) {s : State} : s.SealedNext (execSpareTrained k p ok s) := by
  unfold execSpareTrained
  repeat' first
    | with_reducible assumption
    | with_reducible exact Sealed.refl _
    | with_reducible apply SealedNext.next
    | with_reducible apply SealedNext.ite
    | with_reducible apply Sealed.ite
    | with_reducible apply goTo_sealed
    | with_reducible apply setH_sealed
    | with_reducible apply wr_sealed
    | with_reducible apply requestRetire_sealed
    | exact Fld.keyFree rfl
    | exact Hid.keyFree rfl
    | exact balFld_keyFree _
    | decide
    | with_reducible apply sealedParts_of
    | intro _
    | with_reducible refine Sealed.of_eq (by assumption) ?_
    | with_reducible refine Sealed.of_eq_snd (by assumption) ?_
    | simp only [sealed_mk]
    | split

theorem execLostScanComplete_sealed (k : ℕ) {s : State} : s.SealedNext (execLostScanComplete k s) := by
  unfold execLostScanComplete
  repeat' first
    | with_reducible assumption
    | with_reducible exact Sealed.refl _
    | with_reducible apply SealedNext.next
    | with_reducible apply SealedNext.ite
    | with_reducible apply Sealed.ite
    | with_reducible apply dropLine_sealed
    | with_reducible apply writeBack_sealed
    | with_reducible apply bump_sealed
    | with_reducible apply revertLine_sealed
    | rw [List.foldl_cons]
    | rw [List.foldl_nil]
    | exact Fld.keyFree rfl
    | exact Hid.keyFree rfl
    | exact balFld_keyFree _
    | decide
    | with_reducible refine Sealed.foldl ?_ (fun u x => ?_)
    | with_reducible refine Sealed.foldl_fst ?_ (fun u x => ?_)
    | with_reducible apply sealedParts_of
    | intro _
    | with_reducible refine Sealed.of_eq (by assumption) ?_
    | with_reducible refine Sealed.of_eq_snd (by assumption) ?_
    | simp only [sealed_mk]
    | split

theorem execRetirementCopyComplete_sealed (k : ℕ) {s : State} : s.SealedNext (execRetirementCopyComplete k s) := by
  unfold execRetirementCopyComplete
  repeat' first
    | with_reducible assumption
    | with_reducible exact Sealed.refl _
    | with_reducible apply SealedNext.next
    | with_reducible apply SealedNext.ite
    | with_reducible apply Sealed.ite
    | with_reducible apply setH_sealed
    | with_reducible apply wr_sealed
    | rw [List.foldl_cons]
    | rw [List.foldl_nil]
    | exact Fld.keyFree rfl
    | exact Hid.keyFree rfl
    | exact balFld_keyFree _
    | decide
    | with_reducible refine Sealed.foldl ?_ (fun u x => ?_)
    | with_reducible refine Sealed.foldl_fst ?_ (fun u x => ?_)
    | with_reducible apply sealedParts_of
    | intro _
    | with_reducible refine Sealed.of_eq (by assumption) ?_
    | with_reducible refine Sealed.of_eq_snd (by assumption) ?_
    | simp only [sealed_mk]
    | split

theorem execRepairApply_sealed (k : ℕ) (fits : Bool) {s : State} : s.SealedNext (execRepairApply k fits s) := by
  unfold execRepairApply
  repeat' first
    | with_reducible assumption
    | with_reducible exact Sealed.refl _
    | with_reducible apply SealedNext.next
    | with_reducible apply SealedNext.ite
    | with_reducible apply Sealed.ite
    | with_reducible apply goTo_sealed
    | exact Fld.keyFree rfl
    | exact Hid.keyFree rfl
    | exact balFld_keyFree _
    | decide
    | with_reducible apply sealedParts_of
    | intro _
    | with_reducible refine Sealed.of_eq (by assumption) ?_
    | with_reducible refine Sealed.of_eq_snd (by assumption) ?_
    | simp only [sealed_mk]
    | split

theorem State.badFrame_sealed {r s : State} (h : r.Sealed s) (d : ℕ) (val : ℕ) : r.Sealed (State.badFrame s d val) := by
  unfold State.badFrame
  repeat' first
    | with_reducible assumption
    | with_reducible exact Sealed.refl _
    | with_reducible apply Sealed.ite
    | with_reducible apply mark_sealed
    | with_reducible apply setH_sealed
    | with_reducible apply syncFrames_sealed
    | with_reducible apply wr_sealed
    | exact Fld.keyFree rfl
    | exact Hid.keyFree rfl
    | exact balFld_keyFree _
    | decide
    | with_reducible apply sealedParts_of
    | intro _
    | with_reducible refine Sealed.of_eq (by assumption) ?_
    | with_reducible refine Sealed.of_eq_snd (by assumption) ?_
    | simp only [sealed_mk]
    | split

theorem State.askWithdraw_sealed {r s : State} (h : r.Sealed s) (who : ℕ) (d : ℕ) : r.Sealed (State.askWithdraw s who d) := by
  unfold State.askWithdraw
  repeat' first
    | with_reducible assumption
    | with_reducible exact Sealed.refl _
    | with_reducible apply Sealed.ite
    | with_reducible apply setH_sealed
    | with_reducible apply wr_sealed
    | with_reducible apply fnErr_sealed
    | exact Fld.keyFree rfl
    | exact Hid.keyFree rfl
    | exact balFld_keyFree _
    | decide
    | with_reducible apply sealedParts_of
    | intro _
    | with_reducible refine Sealed.of_eq (by assumption) ?_
    | with_reducible refine Sealed.of_eq_snd (by assumption) ?_
    | simp only [sealed_mk]
    | split

theorem State.askService_sealed {r s : State} (h : r.Sealed s) (who : ℕ) (d : ℕ) : r.Sealed (State.askService s who d) := by
  unfold State.askService
  repeat' first
    | with_reducible assumption
    | with_reducible exact Sealed.refl _
    | with_reducible apply Sealed.ite
    | with_reducible apply fnErr_sealed
    | with_reducible apply wr_sealed
    | with_reducible apply syncFrames_sealed
    | with_reducible apply mark_sealed
    | rw [List.foldl_cons]
    | rw [List.foldl_nil]
    | exact Fld.keyFree rfl
    | exact Hid.keyFree rfl
    | exact balFld_keyFree _
    | decide
    | with_reducible refine Sealed.foldl ?_ (fun u x => ?_)
    | with_reducible refine Sealed.foldl_fst ?_ (fun u x => ?_)
    | with_reducible apply sealedParts_of
    | intro _
    | with_reducible refine Sealed.of_eq (by assumption) ?_
    | with_reducible refine Sealed.of_eq_snd (by assumption) ?_
    | simp only [sealed_mk]
    | split

theorem execCartridgeSafe_sealed (d : ℕ) {s : State} : s.SealedNext (execCartridgeSafe d s) := by
  unfold execCartridgeSafe
  repeat' first
    | with_reducible assumption
    | with_reducible exact Sealed.refl _
    | with_reducible apply SealedNext.next
    | with_reducible apply SealedNext.ite
    | with_reducible apply Sealed.ite
    | with_reducible apply setH_sealed
    | with_reducible apply wr_sealed
    | exact Fld.keyFree rfl
    | exact Hid.keyFree rfl
    | exact balFld_keyFree _
    | decide
    | with_reducible apply sealedParts_of
    | intro _
    | with_reducible refine Sealed.of_eq (by assumption) ?_
    | with_reducible refine Sealed.of_eq_snd (by assumption) ?_
    | simp only [sealed_mk]
    | split

theorem execCartridgeInService_sealed (d : ℕ) {s : State} : s.SealedNext (execCartridgeInService d s) := by
  unfold execCartridgeInService
  repeat' first
    | with_reducible assumption
    | with_reducible exact Sealed.refl _
    | with_reducible apply SealedNext.next
    | with_reducible apply SealedNext.ite
    | with_reducible apply Sealed.ite
    | with_reducible apply setH_sealed
    | with_reducible apply wr_sealed
    | with_reducible apply wipe_sealed
    | exact Fld.keyFree rfl
    | exact Hid.keyFree rfl
    | exact balFld_keyFree _
    | decide
    | with_reducible apply sealedParts_of
    | intro _
    | with_reducible refine Sealed.of_eq (by assumption) ?_
    | with_reducible refine Sealed.of_eq_snd (by assumption) ?_
    | simp only [sealed_mk]
    | split

theorem execLatchOpen_sealed (d : ℕ) {s : State} : s.SealedNext (execLatchOpen d s) := by
  unfold execLatchOpen
  repeat' first
    | with_reducible assumption
    | with_reducible exact Sealed.refl _
    | with_reducible apply SealedNext.next
    | with_reducible apply SealedNext.ite
    | with_reducible apply Sealed.ite
    | with_reducible apply setH_sealed
    | with_reducible apply wr_sealed
    | with_reducible apply bayOpens_sealed
    | exact Fld.keyFree rfl
    | exact Hid.keyFree rfl
    | exact balFld_keyFree _
    | decide
    | with_reducible apply sealedParts_of
    | intro _
    | with_reducible refine Sealed.of_eq (by assumption) ?_
    | with_reducible refine Sealed.of_eq_snd (by assumption) ?_
    | simp only [sealed_mk]
    | split

theorem execLatchClose_sealed (d : ℕ) (genuine : Bool) (frames : List ℕ) {s : State} : s.SealedNext (execLatchClose d genuine frames s) := by
  unfold execLatchClose
  repeat' first
    | with_reducible assumption
    | with_reducible exact Sealed.refl _
    | with_reducible apply SealedNext.next
    | with_reducible apply SealedNext.ite
    | with_reducible apply Sealed.ite
    | with_reducible apply setH_sealed
    | with_reducible apply wr_sealed
    | exact Fld.keyFree rfl
    | exact Hid.keyFree rfl
    | exact balFld_keyFree _
    | decide
    | with_reducible apply sealedParts_of
    | intro _
    | with_reducible refine Sealed.of_eq (by assumption) ?_
    | with_reducible refine Sealed.of_eq_snd (by assumption) ?_
    | simp only [sealed_mk]
    | split

theorem execPresenceContactOpen_sealed (d : ℕ) {s : State} : s.SealedNext (execPresenceContactOpen d s) := by
  unfold execPresenceContactOpen
  repeat' first
    | with_reducible assumption
    | with_reducible exact Sealed.refl _
    | with_reducible apply SealedNext.next
    | with_reducible apply SealedNext.ite
    | with_reducible apply Sealed.ite
    | with_reducible apply loseBay_sealed
    | exact Fld.keyFree rfl
    | exact Hid.keyFree rfl
    | exact balFld_keyFree _
    | decide
    | with_reducible apply sealedParts_of
    | intro _
    | with_reducible refine Sealed.of_eq (by assumption) ?_
    | with_reducible refine Sealed.of_eq_snd (by assumption) ?_
    | simp only [sealed_mk]
    | split

theorem execPackedWrite_sealed (q : ℕ) (va : ℕ) (data : List Byte) (init : Initiator) {s : State} : s.SealedNext (execPackedWrite q va data init s) :=
    by
  unfold execPackedWrite
  repeat' first
    | with_reducible assumption
    | with_reducible exact Sealed.refl _
    | with_reducible apply SealedNext.next
    | with_reducible apply SealedNext.ite
    | with_reducible apply Sealed.ite
    | with_reducible apply Sealed.ite_fst
    | with_reducible apply xlate_sealed
    | with_reducible apply vwrite_sealed
    | exact Fld.keyFree rfl
    | exact Hid.keyFree rfl
    | exact balFld_keyFree _
    | decide
    | with_reducible apply sealedParts_of
    | intro _
    | with_reducible refine Sealed.of_eq (by assumption) ?_
    | with_reducible refine Sealed.of_eq_snd (by assumption) ?_
    | simp only [sealed_mk]
    | split

theorem State.retryPacked_sealed {r s : State} (h : r.Sealed s) (x : PackStall) : r.Sealed (State.retryPacked s x).1 := by
  unfold State.retryPacked
  repeat' first
    | with_reducible assumption
    | with_reducible exact Sealed.refl _
    | with_reducible apply Sealed.ite
    | with_reducible apply Sealed.ite_fst
    | with_reducible apply packedWriteAt_sealed
    | with_reducible apply migDone_sealed
    | with_reducible apply packedFault_sealed
    | with_reducible apply writeOne_sealed
    | with_reducible apply settle_sealed
    | with_reducible apply packedRead_sealed
    | exact Fld.keyFree rfl
    | exact Hid.keyFree rfl
    | exact balFld_keyFree _
    | decide
    | with_reducible apply sealedParts_of
    | intro _
    | with_reducible refine Sealed.of_eq (by assumption) ?_
    | with_reducible refine Sealed.of_eq_snd (by assumption) ?_
    | simp only [sealed_mk]
    | split

theorem execPoolRecheck_sealed (q : ℕ) {s : State} : s.SealedNext (execPoolRecheck q s) := by
  unfold execPoolRecheck
  repeat' first
    | with_reducible assumption
    | with_reducible exact Sealed.refl _
    | with_reducible apply SealedNext.next
    | with_reducible apply SealedNext.ite
    | with_reducible apply Sealed.ite
    | with_reducible apply Sealed.ite_fst
    | with_reducible apply retryPacked_sealed
    | with_reducible apply dirBusy_sealed
    | with_reducible apply ev_sealed
    | with_reducible apply wr_sealed
    | exact Fld.keyFree rfl
    | exact Hid.keyFree rfl
    | exact balFld_keyFree _
    | decide
    | with_reducible apply sealedParts_of
    | intro _
    | with_reducible refine Sealed.of_eq (by assumption) ?_
    | with_reducible refine Sealed.of_eq_snd (by assumption) ?_
    | simp only [sealed_mk]
    | split

theorem execBusyRecheck_sealed (q : ℕ) (va : ℕ) {s : State} : s.SealedNext (execBusyRecheck q va s) := by
  unfold execBusyRecheck
  repeat' first
    | with_reducible assumption
    | with_reducible exact Sealed.refl _
    | with_reducible apply SealedNext.next
    | with_reducible apply SealedNext.ite
    | with_reducible apply Sealed.ite
    | with_reducible apply Sealed.ite_fst
    | with_reducible apply retryPacked_sealed
    | with_reducible apply ev_sealed
    | exact Fld.keyFree rfl
    | exact Hid.keyFree rfl
    | exact balFld_keyFree _
    | decide
    | with_reducible apply sealedParts_of
    | intro _
    | with_reducible refine Sealed.of_eq (by assumption) ?_
    | with_reducible refine Sealed.of_eq_snd (by assumption) ?_
    | simp only [sealed_mk]
    | split

theorem execExpanderDecode_sealed (q : ℕ) (va : ℕ) (j : ℕ) (first : ℕ) (last : ℕ) (inWait : ℕ) (outWait : ℕ) {s : State} : s.SealedNext
    (execExpanderDecode q va j first last inWait outWait s) := by
  unfold execExpanderDecode
  repeat' first
    | with_reducible assumption
    | with_reducible exact Sealed.refl _
    | with_reducible apply SealedNext.next
    | with_reducible apply SealedNext.ite
    | with_reducible apply Sealed.ite
    | with_reducible apply Sealed.ite_fst
    | with_reducible apply xlate_sealed
    | with_reducible apply readDir_sealed
    | with_reducible apply packedFault_sealed
    | with_reducible apply dirDamage_sealed
    | with_reducible apply waitForDir_sealed
    | with_reducible apply expand_sealed
    | with_reducible apply ev_sealed
    | exact Fld.keyFree rfl
    | exact Hid.keyFree rfl
    | exact balFld_keyFree _
    | decide
    | with_reducible apply sealedParts_of
    | intro _
    | with_reducible refine Sealed.of_eq (by assumption) ?_
    | with_reducible refine Sealed.of_eq_snd (by assumption) ?_
    | simp only [sealed_mk]
    | split

theorem State.eaPut_sealed {r s : State} (h : r.Sealed s) (k : ℕ) (p : ℕ) (ea : ℕ) (d : List Byte) : r.Sealed (State.eaPut s k p ea d) := by
  unfold State.eaPut
  repeat' first
    | with_reducible assumption
    | with_reducible exact Sealed.refl _
    | with_reducible apply Sealed.ite
    | with_reducible apply setBytes_sealed
    | with_reducible apply setPoison_sealed
    | exact Fld.keyFree rfl
    | exact Hid.keyFree rfl
    | exact balFld_keyFree _
    | decide
    | with_reducible apply sealedParts_of
    | intro _
    | with_reducible refine Sealed.of_eq (by assumption) ?_
    | with_reducible refine Sealed.of_eq_snd (by assumption) ?_
    | simp only [sealed_mk]
    | split

theorem State.eaWrite_sealed {r s : State} (h : r.Sealed s) (k : ℕ) (p : ℕ) (ea : ℕ) (n : ℕ) (v : ℕ) : r.Sealed (State.eaWrite s k p ea n v) := by
  unfold State.eaWrite
  repeat' first
    | with_reducible assumption
    | with_reducible exact Sealed.refl _
    | with_reducible apply Sealed.ite
    | with_reducible apply eaPut_sealed
    | rw [List.foldl_cons]
    | rw [List.foldl_nil]
    | exact Fld.keyFree rfl
    | exact Hid.keyFree rfl
    | exact balFld_keyFree _
    | decide
    | with_reducible refine Sealed.foldl ?_ (fun u x => ?_)
    | with_reducible refine Sealed.foldl_fst ?_ (fun u x => ?_)
    | with_reducible apply sealedParts_of
    | intro _
    | with_reducible refine Sealed.of_eq (by assumption) ?_
    | with_reducible refine Sealed.of_eq_snd (by assumption) ?_
    | simp only [sealed_mk]
    | split

theorem State.noteRead_sealed {r s : State} (h : r.Sealed s) (k : ℕ) (a : ℕ) : r.Sealed (State.noteRead s k a) := by
  unfold State.noteRead
  repeat' first
    | with_reducible assumption
    | with_reducible exact Sealed.refl _
    | with_reducible apply Sealed.ite
    | with_reducible apply ueLog_sealed
    | with_reducible apply uncorrectable_sealed
    | with_reducible apply bump_sealed
    | with_reducible apply setH_sealed
    | exact Fld.keyFree rfl
    | exact Hid.keyFree rfl
    | exact balFld_keyFree _
    | decide
    | with_reducible apply sealedParts_of
    | intro _
    | with_reducible refine Sealed.of_eq (by assumption) ?_
    | with_reducible refine Sealed.of_eq_snd (by assumption) ?_
    | simp only [sealed_mk]
    | split

theorem State.bankReads_sealed {r : State} {o : State.BankOut} (h : r.Sealed o.st) (k : ℕ) (p : ℕ) (rs : List (ℕ × ℕ)) :
    r.Sealed (State.bankReads o k p rs).1.st := h

theorem State.gemvStore_sealed {r : State} {o : State.BankOut} (h : r.Sealed o.st) (k : ℕ) (p : ℕ) (d : ℕ) (g : ℕ) (t : ℕ) : r.Sealed (State.gemvStore
    o k p d g t).st := by
  unfold State.gemvStore
  repeat' first
    | with_reducible assumption
    | with_reducible exact Sealed.refl _
    | with_reducible apply Sealed.ite
    | with_reducible apply Sealed.ite_st
    | with_reducible apply bankReads_sealed
    | with_reducible apply eaWrite_sealed
    | exact Fld.keyFree rfl
    | exact Hid.keyFree rfl
    | exact balFld_keyFree _
    | decide
    | with_reducible apply sealedParts_of
    | intro _
    | with_reducible refine Sealed.of_eq (by assumption) ?_
    | with_reducible refine Sealed.of_eq_snd (by assumption) ?_
    | simp only [sealed_mk]
    | split

theorem State.gemvBlock_sealed {r : State} {o : State.BankOut} (h : r.Sealed o.st) (k : ℕ) (p : ℕ) (d : ℕ) (g : ℕ) (kb : ℕ) : r.Sealed
    (State.gemvBlock o k p d g kb).st := by
  unfold State.gemvBlock
  repeat' first
    | with_reducible assumption
    | with_reducible exact Sealed.refl _
    | with_reducible apply Sealed.ite
    | with_reducible apply Sealed.ite_st
    | with_reducible apply bankReads_sealed
    | exact Fld.keyFree rfl
    | exact Hid.keyFree rfl
    | exact balFld_keyFree _
    | decide
    | with_reducible apply sealedParts_of
    | intro _
    | with_reducible refine Sealed.of_eq (by assumption) ?_
    | with_reducible refine Sealed.of_eq_snd (by assumption) ?_
    | simp only [sealed_mk]
    | split

theorem State.gemvStep_sealed {r0 : State} {o : State.BankOut} (h : r0.Sealed o.st) (k : ℕ) (p : ℕ) (d : ℕ) (g : ℕ) (r : ℕ) : r0.Sealed
    (State.gemvStep o k p d g r).st := by
  unfold State.gemvStep
  repeat' first
    | with_reducible assumption
    | with_reducible exact Sealed.refl _
    | with_reducible apply Sealed.ite
    | with_reducible apply Sealed.ite_st
    | with_reducible apply gemvBlock_sealed
    | with_reducible apply bankReads_sealed
    | exact Fld.keyFree rfl
    | exact Hid.keyFree rfl
    | exact balFld_keyFree _
    | decide
    | with_reducible apply sealedParts_of
    | intro _
    | with_reducible refine Sealed.of_eq (by assumption) ?_
    | with_reducible refine Sealed.of_eq_snd (by assumption) ?_
    | simp only [sealed_mk]
    | split

theorem State.gemvUnit_sealed {r : State} {o : State.BankOut} (h : r.Sealed o.st) (k : ℕ) (p : ℕ) (d : ℕ) (n : ℕ) : r.Sealed (State.gemvUnit o k p d
    n).st := by
  unfold State.gemvUnit
  repeat' first
    | with_reducible assumption
    | with_reducible exact Sealed.refl _
    | with_reducible apply Sealed.ite
    | with_reducible apply Sealed.ite_st
    | with_reducible apply gemvStep_sealed
    | with_reducible apply gemvStore_sealed
    | exact Fld.keyFree rfl
    | exact Hid.keyFree rfl
    | exact balFld_keyFree _
    | decide
    | with_reducible apply sealedParts_of
    | intro _
    | with_reducible refine Sealed.of_eq (by assumption) ?_
    | with_reducible refine Sealed.of_eq_snd (by assumption) ?_
    | simp only [sealed_mk]
    | split

theorem State.outerUnit_sealed {r : State} {o : State.BankOut} (h : r.Sealed o.st) (k : ℕ) (p : ℕ) (d : ℕ) (n : ℕ) : r.Sealed (State.outerUnit o k p d
    n).st := by
  unfold State.outerUnit
  repeat' first
    | with_reducible assumption
    | with_reducible exact Sealed.refl _
    | with_reducible apply Sealed.ite
    | with_reducible apply Sealed.ite_st
    | with_reducible apply bankReads_sealed
    | with_reducible apply eaWrite_sealed
    | rw [List.foldl_cons]
    | rw [List.foldl_nil]
    | exact Fld.keyFree rfl
    | exact Hid.keyFree rfl
    | exact balFld_keyFree _
    | decide
    | with_reducible refine Sealed.foldl ?_ (fun u x => ?_)
    | with_reducible refine Sealed.foldl_fst ?_ (fun u x => ?_)
    | with_reducible refine Sealed.foldl_st ?_ (fun u x => ?_)
    | with_reducible apply sealedParts_of
    | intro _
    | with_reducible refine Sealed.of_eq (by assumption) ?_
    | with_reducible refine Sealed.of_eq_snd (by assumption) ?_
    | simp only [sealed_mk]
    | split

theorem State.rowaddIndex_sealed {r : State} {o : State.BankOut} (h : r.Sealed o.st) (k : ℕ) (p : ℕ) (d : ℕ) (i : ℕ) : r.Sealed (State.rowaddIndex o k
    p d i).st := by
  unfold State.rowaddIndex
  repeat' first
    | with_reducible assumption
    | with_reducible exact Sealed.refl _
    | with_reducible apply Sealed.ite
    | with_reducible apply Sealed.ite_st
    | with_reducible apply bankReads_sealed
    | exact Fld.keyFree rfl
    | exact Hid.keyFree rfl
    | exact balFld_keyFree _
    | decide
    | with_reducible apply sealedParts_of
    | intro _
    | with_reducible refine Sealed.of_eq (by assumption) ?_
    | with_reducible refine Sealed.of_eq_snd (by assumption) ?_
    | simp only [sealed_mk]
    | split

theorem State.rowaddUnit_sealed {r : State} {o : State.BankOut} (h : r.Sealed o.st) (k : ℕ) (p : ℕ) (d : ℕ) (n : ℕ) : r.Sealed (State.rowaddUnit o k p
    d n).st := by
  unfold State.rowaddUnit
  repeat' first
    | with_reducible assumption
    | with_reducible exact Sealed.refl _
    | with_reducible apply Sealed.ite
    | with_reducible apply Sealed.ite_st
    | with_reducible apply rowaddIndex_sealed
    | with_reducible apply bankReads_sealed
    | with_reducible apply eaWrite_sealed
    | exact Fld.keyFree rfl
    | exact Hid.keyFree rfl
    | exact balFld_keyFree _
    | decide
    | with_reducible apply sealedParts_of
    | intro _
    | with_reducible refine Sealed.of_eq (by assumption) ?_
    | with_reducible refine Sealed.of_eq_snd (by assumption) ?_
    | simp only [sealed_mk]
    | split

theorem State.burstUnit_sealed {r : State} {o : State.BankOut} (h : r.Sealed o.st) (k : ℕ) (p : ℕ) (d : ℕ) (n : ℕ) : r.Sealed (State.burstUnit o k p d
    n).st := by
  unfold State.burstUnit
  repeat' first
    | with_reducible assumption
    | with_reducible exact Sealed.refl _
    | with_reducible apply Sealed.ite
    | with_reducible apply Sealed.ite_st
    | with_reducible apply gemvUnit_sealed
    | with_reducible apply outerUnit_sealed
    | with_reducible apply rowaddUnit_sealed
    | exact Fld.keyFree rfl
    | exact Hid.keyFree rfl
    | exact balFld_keyFree _
    | decide
    | with_reducible apply sealedParts_of
    | intro _
    | with_reducible refine Sealed.of_eq (by assumption) ?_
    | with_reducible refine Sealed.of_eq_snd (by assumption) ?_
    | simp only [sealed_mk]
    | split

theorem State.runUnits_sealed {r s : State} (h : r.Sealed s) (k : ℕ) (p : ℕ) (d : ℕ) (n : ℕ) : r.Sealed (State.runUnits s k p d n).st := by
  unfold State.runUnits
  repeat' first
    | with_reducible assumption
    | with_reducible exact Sealed.refl _
    | with_reducible apply Sealed.ite
    | with_reducible apply Sealed.ite_st
    | with_reducible apply burstUnit_sealed
    | rw [List.foldl_cons]
    | rw [List.foldl_nil]
    | exact Fld.keyFree rfl
    | exact Hid.keyFree rfl
    | exact balFld_keyFree _
    | decide
    | with_reducible refine Sealed.foldl ?_ (fun u x => ?_)
    | with_reducible refine Sealed.foldl_fst ?_ (fun u x => ?_)
    | with_reducible refine Sealed.foldl_st ?_ (fun u x => ?_)
    | with_reducible apply sealedParts_of
    | intro _
    | with_reducible refine Sealed.of_eq (by assumption) ?_
    | with_reducible refine Sealed.of_eq_snd (by assumption) ?_
    | simp only [sealed_mk]
    | split

theorem State.performCmd_sealed {r s : State} (h : r.Sealed s) (k : ℕ) (p : ℕ) (d : ℕ) (n : ℕ) (fin : Option ℕ) : r.Sealed (State.performCmd s k p d n
    fin) := by
  unfold State.performCmd
  repeat' first
    | with_reducible assumption
    | with_reducible exact Sealed.refl _
    | with_reducible apply Sealed.ite
    | with_reducible apply Sealed.ite_st
    | with_reducible apply runUnits_sealed
    | with_reducible apply setEngine_sealed
    | with_reducible apply retireCmd_sealed
    | with_reducible apply noteRead_sealed
    | rw [List.foldl_cons]
    | rw [List.foldl_nil]
    | exact Fld.keyFree rfl
    | exact Hid.keyFree rfl
    | exact balFld_keyFree _
    | decide
    | with_reducible refine Sealed.foldl ?_ (fun u x => ?_)
    | with_reducible refine Sealed.foldl_fst ?_ (fun u x => ?_)
    | with_reducible refine Sealed.foldl_st ?_ (fun u x => ?_)
    | with_reducible apply sealedParts_of
    | intro _
    | with_reducible refine Sealed.of_eq (by assumption) ?_
    | with_reducible refine Sealed.of_eq_snd (by assumption) ?_
    | simp only [sealed_mk]
    | split

theorem State.burstsDone_sealed {r s : State} (h : r.Sealed s) (k : ℕ) (p : ℕ) : r.Sealed (State.burstsDone s k p) := by
  unfold State.burstsDone
  repeat' first
    | with_reducible assumption
    | with_reducible exact Sealed.refl _
    | with_reducible apply Sealed.ite
    | with_reducible apply performCmd_sealed
    | exact Fld.keyFree rfl
    | exact Hid.keyFree rfl
    | exact balFld_keyFree _
    | decide
    | with_reducible apply sealedParts_of
    | intro _
    | with_reducible refine Sealed.of_eq (by assumption) ?_
    | with_reducible refine Sealed.of_eq_snd (by assumption) ?_
    | simp only [sealed_mk]
    | split

theorem State.stepCmd_sealed {r s : State} (h : r.Sealed s) (k : ℕ) (p : ℕ) (isOp : ℕ → Bool) : r.Sealed (State.stepCmd s k p isOp) := by
  unfold State.stepCmd
  repeat' first
    | with_reducible assumption
    | with_reducible exact Sealed.refl _
    | with_reducible apply Sealed.ite
    | with_reducible apply burstsDone_sealed
    | with_reducible apply performCmd_sealed
    | with_reducible apply ev_sealed
    | with_reducible apply retireCmd_sealed
    | with_reducible apply syncBusy_sealed
    | with_reducible apply setEngine_sealed
    | exact Fld.keyFree rfl
    | exact Hid.keyFree rfl
    | exact balFld_keyFree _
    | decide
    | with_reducible apply sealedParts_of
    | intro _
    | with_reducible refine Sealed.of_eq (by assumption) ?_
    | with_reducible refine Sealed.of_eq_snd (by assumption) ?_
    | simp only [sealed_mk]
    | split

theorem State.signalCmd_sealed {r s : State} (h : r.Sealed s) (k : ℕ) (p : ℕ) : r.Sealed (State.signalCmd s k p) := by
  unfold State.signalCmd
  repeat' first
    | with_reducible assumption
    | with_reducible exact Sealed.refl _
    | with_reducible apply Sealed.ite
    | with_reducible apply retireCmd_sealed
    | with_reducible apply signalBar_sealed
    | with_reducible apply setEngine_sealed
    | exact Fld.keyFree rfl
    | exact Hid.keyFree rfl
    | exact balFld_keyFree _
    | decide
    | with_reducible apply sealedParts_of
    | intro _
    | with_reducible refine Sealed.of_eq (by assumption) ?_
    | with_reducible refine Sealed.of_eq_snd (by assumption) ?_
    | simp only [sealed_mk]
    | split

theorem State.copyOnce_sealed {r s : State} (h : r.Sealed s) (k : ℕ) (p : ℕ) : r.Sealed (State.copyOnce s k p) := by
  unfold State.copyOnce
  repeat' first
    | with_reducible assumption
    | with_reducible exact Sealed.refl _
    | with_reducible apply Sealed.ite
    | with_reducible apply setEngine_sealed
    | with_reducible apply eaWrite_sealed
    | exact Fld.keyFree rfl
    | exact Hid.keyFree rfl
    | exact balFld_keyFree _
    | decide
    | with_reducible apply sealedParts_of
    | intro _
    | with_reducible refine Sealed.of_eq (by assumption) ?_
    | with_reducible refine Sealed.of_eq_snd (by assumption) ?_
    | simp only [sealed_mk]
    | split

theorem State.cutEngines_sealed {r s : State} (h : r.Sealed s) : r.Sealed (State.cutEngines s) := by
  unfold State.cutEngines
  repeat' first
    | with_reducible assumption
    | with_reducible exact Sealed.refl _
    | with_reducible apply Sealed.ite
    | with_reducible apply performCmd_sealed
    | rw [List.foldl_cons]
    | rw [List.foldl_nil]
    | exact Fld.keyFree rfl
    | exact Hid.keyFree rfl
    | exact balFld_keyFree _
    | decide
    | with_reducible refine Sealed.foldl ?_ (fun u x => ?_)
    | with_reducible refine Sealed.foldl_fst ?_ (fun u x => ?_)
    | with_reducible apply sealedParts_of
    | intro _
    | with_reducible refine Sealed.of_eq (by assumption) ?_
    | with_reducible refine Sealed.of_eq_snd (by assumption) ?_
    | simp only [sealed_mk]
    | split

theorem State.zeroRegs_sealed {r s : State} (h : r.Sealed s) : r.Sealed (State.zeroRegs s) := by
  unfold State.zeroRegs
  repeat' first
    | with_reducible assumption
    | with_reducible exact Sealed.refl _
    | with_reducible apply Sealed.ite
    | exact Fld.keyFree rfl
    | exact Hid.keyFree rfl
    | exact balFld_keyFree _
    | decide
    | with_reducible apply sealedParts_of
    | intro _
    | with_reducible refine Sealed.of_eq (by assumption) ?_
    | with_reducible refine Sealed.of_eq_snd (by assumption) ?_
    | simp only [sealed_mk]
    | split

theorem State.windowDo_sealed {r s : State} (h : r.Sealed s) (w : WinWrite) (k : ℕ) (inside : Bool) (f : State → State) (hf : ∀ (u : State), u.Sealed
    (f u)) : r.Sealed (State.windowDo s w k inside f) := by
  unfold State.windowDo
  repeat' first
    | with_reducible assumption
    | with_reducible exact Sealed.refl _
    | with_reducible apply Sealed.ite
    | with_reducible refine Sealed.trans ?_ (hf _)
    | with_reducible apply raiseFault_sealed
    | exact Fld.keyFree rfl
    | exact Hid.keyFree rfl
    | exact balFld_keyFree _
    | decide
    | with_reducible apply sealedParts_of
    | intro _
    | with_reducible refine Sealed.of_eq (by assumption) ?_
    | with_reducible refine Sealed.of_eq_snd (by assumption) ?_
    | simp only [sealed_mk]
    | split

theorem execCommandPush_sealed (w : WinWrite) (k : ℕ) (p : ℕ) (full : Bool) (line : Line) {s : State} : s.SealedNext (execCommandPush w k p full line
    s) := by
  unfold execCommandPush
  repeat' first
    | with_reducible assumption
    | with_reducible exact Sealed.refl _
    | with_reducible apply SealedNext.next
    | with_reducible apply SealedNext.ite
    | with_reducible apply Sealed.ite
    | with_reducible apply windowDo_sealed
    | with_reducible apply pushEngine_sealed
    | with_reducible apply windowErr_sealed
    | exact Fld.keyFree rfl
    | exact Hid.keyFree rfl
    | exact balFld_keyFree _
    | decide
    | with_reducible apply sealedParts_of
    | intro _
    | with_reducible refine Sealed.of_eq (by assumption) ?_
    | with_reducible refine Sealed.of_eq_snd (by assumption) ?_
    | simp only [sealed_mk]
    | split

theorem execBroadcastPush_sealed (w : WinWrite) (k : ℕ) (full : Bool) (line : Line) {s : State} : s.SealedNext (execBroadcastPush w k full line s) :=
    by
  unfold execBroadcastPush
  repeat' first
    | with_reducible assumption
    | with_reducible exact Sealed.refl _
    | with_reducible apply SealedNext.next
    | with_reducible apply SealedNext.ite
    | with_reducible apply Sealed.ite
    | with_reducible apply windowDo_sealed
    | with_reducible apply pushAll_sealed
    | with_reducible apply windowErr_sealed
    | exact Fld.keyFree rfl
    | exact Hid.keyFree rfl
    | exact balFld_keyFree _
    | decide
    | with_reducible apply sealedParts_of
    | intro _
    | with_reducible refine Sealed.of_eq (by assumption) ?_
    | with_reducible refine Sealed.of_eq_snd (by assumption) ?_
    | simp only [sealed_mk]
    | split

theorem execBroadcastDataWrite_sealed (w : WinWrite) (k : ℕ) (off : ℕ) (data : List Byte) {s : State} : s.SealedNext (execBroadcastDataWrite w k off
    data s) := by
  unfold execBroadcastDataWrite
  repeat' first
    | with_reducible assumption
    | with_reducible exact Sealed.refl _
    | with_reducible apply SealedNext.next
    | with_reducible apply SealedNext.ite
    | with_reducible apply Sealed.ite
    | with_reducible apply windowDo_sealed
    | with_reducible apply bcastData_sealed
    | exact Fld.keyFree rfl
    | exact Hid.keyFree rfl
    | exact balFld_keyFree _
    | decide
    | with_reducible apply sealedParts_of
    | intro _
    | with_reducible refine Sealed.of_eq (by assumption) ?_
    | with_reducible refine Sealed.of_eq_snd (by assumption) ?_
    | simp only [sealed_mk]
    | split

theorem execBroadcastCopy_sealed (k : ℕ) (p : ℕ) {s : State} : s.SealedNext (execBroadcastCopy k p s) := by
  unfold execBroadcastCopy
  repeat' first
    | with_reducible assumption
    | with_reducible exact Sealed.refl _
    | with_reducible apply SealedNext.next
    | with_reducible apply SealedNext.ite
    | with_reducible apply Sealed.ite
    | with_reducible apply copyOnce_sealed
    | with_reducible apply burstsDone_sealed
    | exact Fld.keyFree rfl
    | exact Hid.keyFree rfl
    | exact balFld_keyFree _
    | decide
    | with_reducible apply sealedParts_of
    | intro _
    | with_reducible refine Sealed.of_eq (by assumption) ?_
    | with_reducible refine Sealed.of_eq_snd (by assumption) ?_
    | simp only [sealed_mk]
    | split

theorem execEngineClear_sealed (w : WinWrite) (k : ℕ) (p : ℕ) (full : Bool) {s : State} : s.SealedNext (execEngineClear w k p full s) := by
  unfold execEngineClear
  repeat' first
    | with_reducible assumption
    | with_reducible exact Sealed.refl _
    | with_reducible apply SealedNext.next
    | with_reducible apply SealedNext.ite
    | with_reducible apply Sealed.ite
    | with_reducible apply windowDo_sealed
    | with_reducible apply clearEngine_sealed
    | exact Fld.keyFree rfl
    | exact Hid.keyFree rfl
    | exact balFld_keyFree _
    | decide
    | with_reducible apply sealedParts_of
    | intro _
    | with_reducible refine Sealed.of_eq (by assumption) ?_
    | with_reducible refine Sealed.of_eq_snd (by assumption) ?_
    | simp only [sealed_mk]
    | split

theorem execBankReady_sealed (k : ℕ) {s : State} : s.SealedNext (execBankReady k s) := by
  unfold execBankReady
  repeat' first
    | with_reducible assumption
    | with_reducible exact Sealed.refl _
    | with_reducible apply SealedNext.next
    | with_reducible apply SealedNext.ite
    | with_reducible apply Sealed.ite
    | with_reducible apply wr_sealed
    | with_reducible apply flushLines_sealed
    | exact Fld.keyFree rfl
    | exact Hid.keyFree rfl
    | exact balFld_keyFree _
    | decide
    | with_reducible apply sealedParts_of
    | intro _
    | with_reducible refine Sealed.of_eq (by assumption) ?_
    | with_reducible refine Sealed.of_eq_snd (by assumption) ?_
    | simp only [sealed_mk]
    | split

theorem execBankNop_sealed (k : ℕ) (p : ℕ) (t : ℕ) {s : State} : s.SealedNext (execBankNop k p t s) := by
  unfold execBankNop
  repeat' first
    | with_reducible assumption
    | with_reducible exact Sealed.refl _
    | with_reducible apply SealedNext.next
    | with_reducible apply SealedNext.ite
    | with_reducible apply Sealed.ite
    | with_reducible apply stepCmd_sealed
    | with_reducible apply goTo_sealed
    | exact Fld.keyFree rfl
    | exact Hid.keyFree rfl
    | exact balFld_keyFree _
    | decide
    | with_reducible apply sealedParts_of
    | intro _
    | with_reducible refine Sealed.of_eq (by assumption) ?_
    | with_reducible refine Sealed.of_eq_snd (by assumption) ?_
    | simp only [sealed_mk]
    | split

theorem execGemv_sealed (k : ℕ) (p : ℕ) (t : ℕ) {s : State} : s.SealedNext (execGemv k p t s) := by
  unfold execGemv
  repeat' first
    | with_reducible assumption
    | with_reducible exact Sealed.refl _
    | with_reducible apply SealedNext.next
    | with_reducible apply SealedNext.ite
    | with_reducible apply Sealed.ite
    | with_reducible apply stepCmd_sealed
    | with_reducible apply goTo_sealed
    | exact Fld.keyFree rfl
    | exact Hid.keyFree rfl
    | exact balFld_keyFree _
    | decide
    | with_reducible apply sealedParts_of
    | intro _
    | with_reducible refine Sealed.of_eq (by assumption) ?_
    | with_reducible refine Sealed.of_eq_snd (by assumption) ?_
    | simp only [sealed_mk]
    | split

theorem execOuter_sealed (k : ℕ) (p : ℕ) (t : ℕ) {s : State} : s.SealedNext (execOuter k p t s) := by
  unfold execOuter
  repeat' first
    | with_reducible assumption
    | with_reducible exact Sealed.refl _
    | with_reducible apply SealedNext.next
    | with_reducible apply SealedNext.ite
    | with_reducible apply Sealed.ite
    | with_reducible apply stepCmd_sealed
    | with_reducible apply goTo_sealed
    | exact Fld.keyFree rfl
    | exact Hid.keyFree rfl
    | exact balFld_keyFree _
    | decide
    | with_reducible apply sealedParts_of
    | intro _
    | with_reducible refine Sealed.of_eq (by assumption) ?_
    | with_reducible refine Sealed.of_eq_snd (by assumption) ?_
    | simp only [sealed_mk]
    | split

theorem execRowadd_sealed (k : ℕ) (p : ℕ) (t : ℕ) {s : State} : s.SealedNext (execRowadd k p t s) := by
  unfold execRowadd
  repeat' first
    | with_reducible assumption
    | with_reducible exact Sealed.refl _
    | with_reducible apply SealedNext.next
    | with_reducible apply SealedNext.ite
    | with_reducible apply Sealed.ite
    | with_reducible apply stepCmd_sealed
    | with_reducible apply goTo_sealed
    | exact Fld.keyFree rfl
    | exact Hid.keyFree rfl
    | exact balFld_keyFree _
    | decide
    | with_reducible apply sealedParts_of
    | intro _
    | with_reducible refine Sealed.of_eq (by assumption) ?_
    | with_reducible refine Sealed.of_eq_snd (by assumption) ?_
    | simp only [sealed_mk]
    | split

theorem execSignal_sealed (k : ℕ) (p : ℕ) (t : ℕ) {s : State} : s.SealedNext (execSignal k p t s) := by
  unfold execSignal
  repeat' first
    | with_reducible assumption
    | with_reducible exact Sealed.refl _
    | with_reducible apply SealedNext.next
    | with_reducible apply SealedNext.ite
    | with_reducible apply Sealed.ite
    | with_reducible apply goTo_sealed
    | with_reducible apply signalCmd_sealed
    | with_reducible apply stepCmd_sealed
    | exact Fld.keyFree rfl
    | exact Hid.keyFree rfl
    | exact balFld_keyFree _
    | decide
    | with_reducible apply sealedParts_of
    | intro _
    | with_reducible refine Sealed.of_eq (by assumption) ?_
    | with_reducible refine Sealed.of_eq_snd (by assumption) ?_
    | simp only [sealed_mk]
    | split

theorem execBurstBoundary_sealed (k : ℕ) (p : ℕ) (hold : ℕ) (yielded : ℕ) {s : State} : s.SealedNext (execBurstBoundary k p hold yielded s) := by
  unfold execBurstBoundary
  repeat' first
    | with_reducible assumption
    | with_reducible exact Sealed.refl _
    | with_reducible apply SealedNext.next
    | with_reducible apply SealedNext.ite
    | with_reducible apply Sealed.ite
    | with_reducible apply burstsDone_sealed
    | with_reducible apply ev_sealed
    | with_reducible apply bump_sealed
    | with_reducible apply serveBanks_sealed
    | with_reducible apply setEngine_sealed
    | exact Fld.keyFree rfl
    | exact Hid.keyFree rfl
    | exact balFld_keyFree _
    | decide
    | with_reducible apply sealedParts_of
    | intro _
    | with_reducible refine Sealed.of_eq (by assumption) ?_
    | with_reducible refine Sealed.of_eq_snd (by assumption) ?_
    | simp only [sealed_mk]
    | split

theorem State.scratchWrite_sealed {r s : State} (h : r.Sealed s) (q : ℕ) (a : ℕ) (d : List Byte) : r.Sealed (State.scratchWrite s q a d) := by
  unfold State.scratchWrite
  repeat' first
    | with_reducible assumption
    | with_reducible exact Sealed.refl _
    | with_reducible apply Sealed.ite
    | with_reducible apply writePiece_sealed
    | rw [List.foldl_cons]
    | rw [List.foldl_nil]
    | exact Fld.keyFree rfl
    | exact Hid.keyFree rfl
    | exact balFld_keyFree _
    | decide
    | with_reducible refine Sealed.foldl ?_ (fun u x => ?_)
    | with_reducible refine Sealed.foldl_fst ?_ (fun u x => ?_)
    | with_reducible apply sealedParts_of
    | intro _
    | with_reducible refine Sealed.of_eq (by assumption) ?_
    | with_reducible refine Sealed.of_eq_snd (by assumption) ?_
    | simp only [sealed_mk]
    | split

theorem State.setSlot_sealed {r s : State} (h : r.Sealed s) (u : ℕ) (k : ℕ) (st : ℕ) (q : ℕ) : r.Sealed (State.setSlot s u k st q) := by
  unfold State.setSlot
  repeat' first
    | with_reducible assumption
    | with_reducible exact Sealed.refl _
    | with_reducible apply Sealed.ite
    | with_reducible apply wr_sealed
    | exact Fld.keyFree rfl
    | exact Hid.keyFree rfl
    | exact balFld_keyFree _
    | decide
    | with_reducible apply sealedParts_of
    | intro _
    | with_reducible refine Sealed.of_eq (by assumption) ?_
    | with_reducible refine Sealed.of_eq_snd (by assumption) ?_
    | simp only [sealed_mk]
    | split

theorem State.pagesHome_sealed {r s : State} (h : r.Sealed s) (c : Client) (u : ℕ) (va : ℕ) (n : ℕ) (write : Bool) (y6 : ℕ) : r.Sealed
    (State.pagesHome s c u va n write y6).1 := by
  induction y6 generalizing s c u va n write with
  | zero =>
    unfold State.pagesHome
    repeat' first
      | with_reducible assumption
      | with_reducible exact Sealed.refl _
      | with_reducible apply Sealed.ite
      | with_reducible apply Sealed.ite_fst
      | with_reducible apply xlate_sealed
      | exact Fld.keyFree rfl
      | exact Hid.keyFree rfl
      | exact balFld_keyFree _
      | decide
      | with_reducible apply sealedParts_of
      | intro _
      | with_reducible refine Sealed.of_eq (by assumption) ?_
      | with_reducible refine Sealed.of_eq_snd (by assumption) ?_
      | simp only [sealed_mk]
      | split
  | succ n0 ih =>
    unfold State.pagesHome
    repeat' first
      | with_reducible assumption
      | with_reducible exact Sealed.refl _
      | with_reducible apply Sealed.ite
      | with_reducible apply Sealed.ite_fst
      | with_reducible apply xlate_sealed
      | with_reducible apply ih
      | exact Fld.keyFree rfl
      | exact Hid.keyFree rfl
      | exact balFld_keyFree _
      | decide
      | with_reducible apply sealedParts_of
      | intro _
      | with_reducible refine Sealed.of_eq (by assumption) ?_
      | with_reducible refine Sealed.of_eq_snd (by assumption) ?_
      | simp only [sealed_mk]
      | split

theorem State.inHome_sealed {r s : State} (h : r.Sealed s) (c : Client) (u : ℕ) (va : ℕ) (n : ℕ) (write : Bool) : r.Sealed (State.inHome s c u va n
    write).1 := by
  unfold State.inHome
  repeat' first
    | with_reducible assumption
    | with_reducible exact Sealed.refl _
    | with_reducible apply Sealed.ite
    | with_reducible apply Sealed.ite_fst
    | with_reducible apply pagesHome_sealed
    | exact Fld.keyFree rfl
    | exact Hid.keyFree rfl
    | exact balFld_keyFree _
    | decide
    | with_reducible apply sealedParts_of
    | intro _
    | with_reducible refine Sealed.of_eq (by assumption) ?_
    | with_reducible refine Sealed.of_eq_snd (by assumption) ?_
    | simp only [sealed_mk]
    | split

theorem State.homeWrite_sealed {r s : State} (h : r.Sealed s) (c : Client) (u : ℕ) (va : ℕ) (d : List Byte) : r.Sealed (State.homeWrite s c u va d).1
    := by
  unfold State.homeWrite
  repeat' first
    | with_reducible assumption
    | with_reducible exact Sealed.refl _
    | with_reducible apply Sealed.ite
    | with_reducible apply Sealed.ite_fst
    | with_reducible apply inHome_sealed
    | with_reducible apply vwrite_sealed
    | exact Fld.keyFree rfl
    | exact Hid.keyFree rfl
    | exact balFld_keyFree _
    | decide
    | with_reducible apply sealedParts_of
    | intro _
    | with_reducible refine Sealed.of_eq (by assumption) ?_
    | with_reducible refine Sealed.of_eq_snd (by assumption) ?_
    | simp only [sealed_mk]
    | split

theorem State.homeRead_sealed {r s : State} (h : r.Sealed s) (c : Client) (u : ℕ) (va : ℕ) (n : ℕ) : r.Sealed (State.homeRead s c u va n).1 := by
  unfold State.homeRead
  repeat' first
    | with_reducible assumption
    | with_reducible exact Sealed.refl _
    | with_reducible apply Sealed.ite
    | with_reducible apply Sealed.ite_fst
    | with_reducible apply inHome_sealed
    | with_reducible apply vread_sealed
    | exact Fld.keyFree rfl
    | exact Hid.keyFree rfl
    | exact balFld_keyFree _
    | decide
    | with_reducible apply sealedParts_of
    | intro _
    | with_reducible refine Sealed.of_eq (by assumption) ?_
    | with_reducible refine Sealed.of_eq_snd (by assumption) ?_
    | simp only [sealed_mk]
    | split

theorem State.syncUnit_sealed {r s : State} (h : r.Sealed s) (u : ℕ) : r.Sealed (State.syncUnit s u) := by
  unfold State.syncUnit
  repeat' first
    | with_reducible assumption
    | with_reducible exact Sealed.refl _
    | with_reducible apply Sealed.ite
    | with_reducible apply wr_sealed
    | exact Fld.keyFree rfl
    | exact Hid.keyFree rfl
    | exact balFld_keyFree _
    | decide
    | with_reducible apply sealedParts_of
    | intro _
    | with_reducible refine Sealed.of_eq (by assumption) ?_
    | with_reducible refine Sealed.of_eq_snd (by assumption) ?_
    | simp only [sealed_mk]
    | split

theorem State.putLine_sealed {r s : State} (h : r.Sealed s) (c : Client) (recVA : ℕ) (line : ℕ) : r.Sealed (State.putLine s c recVA line).1 := by
  unfold State.putLine
  repeat' first
    | with_reducible assumption
    | with_reducible exact Sealed.refl _
    | with_reducible apply Sealed.ite
    | with_reducible apply Sealed.ite_fst
    | with_reducible apply vwrite_sealed
    | exact Fld.keyFree rfl
    | exact Hid.keyFree rfl
    | exact balFld_keyFree _
    | decide
    | with_reducible apply sealedParts_of
    | intro _
    | with_reducible refine Sealed.of_eq (by assumption) ?_
    | with_reducible refine Sealed.of_eq_snd (by assumption) ?_
    | simp only [sealed_mk]
    | split

theorem State.readRec_sealed {r s : State} (h : r.Sealed s) (c : Client) (recVA : ℕ) : r.Sealed (State.readRec s c recVA).1 := by
  unfold State.readRec
  repeat' first
    | with_reducible assumption
    | with_reducible exact Sealed.refl _
    | with_reducible apply Sealed.ite
    | with_reducible apply Sealed.ite_fst
    | with_reducible apply vread_sealed
    | exact Fld.keyFree rfl
    | exact Hid.keyFree rfl
    | exact balFld_keyFree _
    | decide
    | with_reducible apply sealedParts_of
    | intro _
    | with_reducible refine Sealed.of_eq (by assumption) ?_
    | with_reducible refine Sealed.of_eq_snd (by assumption) ?_
    | simp only [sealed_mk]
    | split

theorem State.unitFail_sealed {r s : State} (h : r.Sealed s) (o : Op) (st : ℕ) : r.Sealed (State.unitFail s o st) := by
  unfold State.unitFail
  repeat' first
    | with_reducible assumption
    | with_reducible exact Sealed.refl _
    | with_reducible apply Sealed.ite
    | with_reducible apply syncUnit_sealed
    | with_reducible apply finish_sealed
    | exact Fld.keyFree rfl
    | exact Hid.keyFree rfl
    | exact balFld_keyFree _
    | decide
    | with_reducible apply sealedParts_of
    | intro _
    | with_reducible refine Sealed.of_eq (by assumption) ?_
    | with_reducible refine Sealed.of_eq_snd (by assumption) ?_
    | simp only [sealed_mk]
    | split

theorem State.unitStart_sealed {r s : State} (h : r.Sealed s) (o : Op) : r.Sealed (State.unitStart s o) := by
  unfold State.unitStart
  repeat' first
    | with_reducible assumption
    | with_reducible exact Sealed.refl _
    | with_reducible apply Sealed.ite
    | with_reducible apply Sealed.ite_fst
    | with_reducible apply setOp_sealed
    | with_reducible apply ev_sealed
    | with_reducible apply unitFail_sealed
    | with_reducible apply inHome_sealed
    | with_reducible apply readRec_sealed
    | with_reducible apply vread_sealed
    | with_reducible apply syncUnit_sealed
    | with_reducible apply putLine_sealed
    | with_reducible apply updOp_sealed
    | exact Fld.keyFree rfl
    | exact Hid.keyFree rfl
    | exact balFld_keyFree _
    | decide
    | with_reducible apply sealedParts_of
    | intro _
    | with_reducible refine Sealed.of_eq (by assumption) ?_
    | with_reducible refine Sealed.of_eq_snd (by assumption) ?_
    | simp only [sealed_mk]
    | split

theorem State.unitBusy_sealed {r s : State} (h : r.Sealed s) (u : ℕ) (n : ℕ) : r.Sealed (State.unitBusy s u n) := by
  unfold State.unitBusy
  repeat' first
    | with_reducible assumption
    | with_reducible exact Sealed.refl _
    | with_reducible apply Sealed.ite
    | with_reducible apply setH_sealed
    | exact Fld.keyFree rfl
    | exact Hid.keyFree rfl
    | exact balFld_keyFree _
    | decide
    | with_reducible apply sealedParts_of
    | intro _
    | with_reducible refine Sealed.of_eq (by assumption) ?_
    | with_reducible refine Sealed.of_eq_snd (by assumption) ?_
    | simp only [sealed_mk]
    | split

theorem State.openSlot_sealed {r s : State} (h : r.Sealed s) (o : Op) (u : ℕ) (k : ℕ) (shard : ℕ) (gclr : Bool) (ra : Option (List Byte)) (rb : Option
    (List Byte)) (rc : Option (List Byte)) (fl : ℕ) (nf : ℕ) (cycles : ℕ) (poison : Bool) : r.Sealed (State.openSlot s o u k shard gclr ra rb rc fl nf
    cycles poison) := by
  unfold State.openSlot
  repeat' first
    | with_reducible assumption
    | with_reducible exact Sealed.refl _
    | with_reducible apply Sealed.ite
    | with_reducible apply scratchWrite_sealed
    | with_reducible apply setSlot_sealed
    | with_reducible apply unitBusy_sealed
    | with_reducible apply setOp_sealed
    | exact Fld.keyFree rfl
    | exact Hid.keyFree rfl
    | exact balFld_keyFree _
    | decide
    | with_reducible apply sealedParts_of
    | intro _
    | with_reducible refine Sealed.of_eq (by assumption) ?_
    | with_reducible refine Sealed.of_eq_snd (by assumption) ?_
    | simp only [sealed_mk]
    | split

theorem State.journalWait_sealed {r s : State} (h : r.Sealed s) (u : ℕ) (q : ℕ) (on : Bool) : r.Sealed (State.journalWait s u q on) := by
  unfold State.journalWait
  repeat' first
    | with_reducible assumption
    | with_reducible exact Sealed.refl _
    | with_reducible apply Sealed.ite
    | with_reducible apply span_sealed
    | exact Fld.keyFree rfl
    | exact Hid.keyFree rfl
    | exact balFld_keyFree _
    | decide
    | with_reducible apply sealedParts_of
    | intro _
    | with_reducible refine Sealed.of_eq (by assumption) ?_
    | with_reducible refine Sealed.of_eq_snd (by assumption) ?_
    | simp only [sealed_mk]
    | split

theorem State.accumShard_sealed {r0 s : State} (h : r0.Sealed s) (o : Op) (r : ℕ) (u : ℕ) (k : ℕ) : r0.Sealed (State.accumShard s o r u k) := by
  unfold State.accumShard
  repeat' first
    | with_reducible assumption
    | with_reducible exact Sealed.refl _
    | with_reducible apply Sealed.ite
    | with_reducible apply Sealed.ite_fst
    | with_reducible apply homeRead_sealed
    | with_reducible apply unitFail_sealed
    | with_reducible apply vread_sealed
    | with_reducible apply openSlot_sealed
    | rw [List.foldl_cons]
    | rw [List.foldl_nil]
    | exact Fld.keyFree rfl
    | exact Hid.keyFree rfl
    | exact balFld_keyFree _
    | decide
    | with_reducible refine Sealed.foldl ?_ (fun u x => ?_)
    | with_reducible refine Sealed.foldl_fst ?_ (fun u x => ?_)
    | with_reducible apply sealedParts_of
    | intro _
    | with_reducible refine Sealed.of_eq (by assumption) ?_
    | with_reducible refine Sealed.of_eq_snd (by assumption) ?_
    | simp only [sealed_mk]
    | split

theorem State.applyShard_sealed {r0 s : State} (h : r0.Sealed s) (o : Op) (r : ℕ) (u : ℕ) (k : ℕ) : r0.Sealed (State.applyShard s o r u k) := by
  unfold State.applyShard
  repeat' first
    | with_reducible assumption
    | with_reducible exact Sealed.refl _
    | with_reducible apply Sealed.ite
    | with_reducible apply Sealed.ite_fst
    | with_reducible apply inHome_sealed
    | with_reducible apply unitFail_sealed
    | with_reducible apply openSlot_sealed
    | with_reducible apply homeRead_sealed
    | with_reducible apply vread_sealed
    | with_reducible apply fresh_sealed
    | rw [List.foldl_cons]
    | rw [List.foldl_nil]
    | exact Fld.keyFree rfl
    | exact Hid.keyFree rfl
    | exact balFld_keyFree _
    | decide
    | with_reducible refine Sealed.foldl ?_ (fun u x => ?_)
    | with_reducible refine Sealed.foldl_fst ?_ (fun u x => ?_)
    | with_reducible apply sealedParts_of
    | intro _
    | with_reducible refine Sealed.of_eq (by assumption) ?_
    | with_reducible refine Sealed.of_eq_snd (by assumption) ?_
    | simp only [sealed_mk]
    | split

theorem State.factorRow_sealed {r0 s : State} (h : r0.Sealed s) (o : Op) (r : ℕ) (u : ℕ) : r0.Sealed (State.factorRow s o r u) := by
  unfold State.factorRow
  repeat' first
    | with_reducible assumption
    | with_reducible exact Sealed.refl _
    | with_reducible apply Sealed.ite
    | with_reducible apply Sealed.ite_fst
    | with_reducible apply homeRead_sealed
    | with_reducible apply unitFail_sealed
    | with_reducible apply homeWrite_sealed
    | with_reducible apply unitBusy_sealed
    | with_reducible apply mergeFlags_sealed
    | with_reducible apply setOp_sealed
    | with_reducible apply putLine_sealed
    | rw [List.foldl_cons]
    | rw [List.foldl_nil]
    | exact Fld.keyFree rfl
    | exact Hid.keyFree rfl
    | exact balFld_keyFree _
    | decide
    | with_reducible refine Sealed.foldl ?_ (fun u x => ?_)
    | with_reducible refine Sealed.foldl_fst ?_ (fun u x => ?_)
    | with_reducible apply sealedParts_of
    | intro _
    | with_reducible refine Sealed.of_eq (by assumption) ?_
    | with_reducible refine Sealed.of_eq_snd (by assumption) ?_
    | simp only [sealed_mk]
    | split

theorem State.normShard_sealed {r0 s : State} (h : r0.Sealed s) (o : Op) (r : ℕ) (u : ℕ) : r0.Sealed (State.normShard s o r u) := by
  unfold State.normShard
  repeat' first
    | with_reducible assumption
    | with_reducible exact Sealed.refl _
    | with_reducible apply Sealed.ite
    | with_reducible apply Sealed.ite_fst
    | with_reducible apply homeRead_sealed
    | with_reducible apply unitFail_sealed
    | with_reducible apply unitBusy_sealed
    | with_reducible apply mergeFlags_sealed
    | with_reducible apply setOp_sealed
    | with_reducible apply vwrite_sealed
    | with_reducible apply syncUnit_sealed
    | with_reducible apply bump_sealed
    | rw [List.foldl_cons]
    | rw [List.foldl_nil]
    | exact Fld.keyFree rfl
    | exact Hid.keyFree rfl
    | exact balFld_keyFree _
    | decide
    | with_reducible refine Sealed.foldl ?_ (fun u x => ?_)
    | with_reducible refine Sealed.foldl_fst ?_ (fun u x => ?_)
    | with_reducible apply sealedParts_of
    | intro _
    | with_reducible refine Sealed.of_eq (by assumption) ?_
    | with_reducible refine Sealed.of_eq_snd (by assumption) ?_
    | simp only [sealed_mk]
    | split

theorem State.unitStep_sealed {r s : State} (h : r.Sealed s) (u : ℕ) (op : ℕ) (wait : ℕ) : r.Sealed (State.unitStep s u op wait) := by
  unfold State.unitStep
  repeat' first
    | with_reducible assumption
    | with_reducible exact Sealed.refl _
    | with_reducible apply Sealed.ite
    | with_reducible apply Sealed.ite_fst
    | with_reducible apply ev_sealed
    | with_reducible apply readRec_sealed
    | with_reducible apply unitFail_sealed
    | with_reducible apply normShard_sealed
    | with_reducible apply factorRow_sealed
    | with_reducible apply journalWait_sealed
    | with_reducible apply accumShard_sealed
    | with_reducible apply applyShard_sealed
    | with_reducible apply unitStart_sealed
    | exact Fld.keyFree rfl
    | exact Hid.keyFree rfl
    | exact balFld_keyFree _
    | decide
    | with_reducible apply sealedParts_of
    | intro _
    | with_reducible refine Sealed.of_eq (by assumption) ?_
    | with_reducible refine Sealed.of_eq_snd (by assumption) ?_
    | simp only [sealed_mk]
    | split

theorem State.unitDone_sealed {r s : State} (h : r.Sealed s) (id : ℕ) : r.Sealed (State.unitDone s id) := by
  unfold State.unitDone
  repeat' first
    | with_reducible assumption
    | with_reducible exact Sealed.refl _
    | with_reducible apply Sealed.ite
    | with_reducible apply setOp_sealed
    | exact Fld.keyFree rfl
    | exact Hid.keyFree rfl
    | exact balFld_keyFree _
    | decide
    | with_reducible apply sealedParts_of
    | intro _
    | with_reducible refine Sealed.of_eq (by assumption) ?_
    | with_reducible refine Sealed.of_eq_snd (by assumption) ?_
    | simp only [sealed_mk]
    | split

theorem State.freeUp_sealed {r s : State} (h : r.Sealed s) (u : ℕ) (k : ℕ) : r.Sealed (State.freeUp s u k) := by
  unfold State.freeUp
  repeat' first
    | with_reducible assumption
    | with_reducible exact Sealed.refl _
    | with_reducible apply Sealed.ite
    | with_reducible apply setSlot_sealed
    | exact Fld.keyFree rfl
    | exact Hid.keyFree rfl
    | exact balFld_keyFree _
    | decide
    | with_reducible apply sealedParts_of
    | intro _
    | with_reducible refine Sealed.of_eq (by assumption) ?_
    | with_reducible refine Sealed.of_eq_snd (by assumption) ?_
    | simp only [sealed_mk]
    | split

theorem State.retireSlot_sealed {r s : State} (h : r.Sealed s) (u : ℕ) (k : ℕ) (id : ℕ) : r.Sealed (State.retireSlot s u k id).1 := by
  unfold State.retireSlot
  repeat' first
    | with_reducible assumption
    | with_reducible exact Sealed.refl _
    | with_reducible apply Sealed.ite
    | with_reducible apply Sealed.ite_fst
    | with_reducible apply readRec_sealed
    | with_reducible apply vwrites_sealed
    | with_reducible apply scratchWrite_sealed
    | with_reducible apply unitDone_sealed
    | with_reducible apply freeUp_sealed
    | exact Fld.keyFree rfl
    | exact Hid.keyFree rfl
    | exact balFld_keyFree _
    | decide
    | with_reducible apply sealedParts_of
    | intro _
    | with_reducible refine Sealed.of_eq (by assumption) ?_
    | with_reducible refine Sealed.of_eq_snd (by assumption) ?_
    | simp only [sealed_mk]
    | split

theorem State.dropBad_sealed {r s : State} (h : r.Sealed s) (u : ℕ) (k : ℕ) (id : ℕ) : r.Sealed (State.dropBad s u k id) := by
  unfold State.dropBad
  repeat' first
    | with_reducible assumption
    | with_reducible exact Sealed.refl _
    | with_reducible apply Sealed.ite
    | with_reducible apply scratchWrite_sealed
    | with_reducible apply unitDone_sealed
    | with_reducible apply mcLog_sealed
    | with_reducible apply mark_sealed
    | with_reducible apply freeUp_sealed
    | exact Fld.keyFree rfl
    | exact Hid.keyFree rfl
    | exact balFld_keyFree _
    | decide
    | with_reducible apply sealedParts_of
    | intro _
    | with_reducible refine Sealed.of_eq (by assumption) ?_
    | with_reducible refine Sealed.of_eq_snd (by assumption) ?_
    | simp only [sealed_mk]
    | split

theorem State.abortRetire_sealed {r s : State} (h : r.Sealed s) (u : ℕ) : r.Sealed (State.abortRetire s u) := by
  unfold State.abortRetire
  repeat' first
    | with_reducible assumption
    | with_reducible exact Sealed.refl _
    | with_reducible apply Sealed.ite
    | with_reducible apply dropBad_sealed
    | exact Fld.keyFree rfl
    | exact Hid.keyFree rfl
    | exact balFld_keyFree _
    | decide
    | with_reducible apply sealedParts_of
    | intro _
    | with_reducible refine Sealed.of_eq (by assumption) ?_
    | with_reducible refine Sealed.of_eq_snd (by assumption) ?_
    | simp only [sealed_mk]
    | split

theorem State.settleUnits_sealed {r s : State} (h : r.Sealed s) : r.Sealed (State.settleUnits s) := by
  unfold State.settleUnits
  repeat' first
    | with_reducible assumption
    | with_reducible exact Sealed.refl _
    | with_reducible apply Sealed.ite
    | with_reducible apply Sealed.ite_fst
    | with_reducible apply mark_sealed
    | with_reducible apply freeUp_sealed
    | with_reducible apply scratchWrite_sealed
    | with_reducible apply retireSlot_sealed
    | with_reducible apply dropBad_sealed
    | rw [List.foldl_cons]
    | rw [List.foldl_nil]
    | exact Fld.keyFree rfl
    | exact Hid.keyFree rfl
    | exact balFld_keyFree _
    | decide
    | with_reducible refine Sealed.foldl ?_ (fun u x => ?_)
    | with_reducible refine Sealed.foldl_fst ?_ (fun u x => ?_)
    | with_reducible apply sealedParts_of
    | intro _
    | with_reducible refine Sealed.of_eq (by assumption) ?_
    | with_reducible refine Sealed.of_eq_snd (by assumption) ?_
    | simp only [sealed_mk]
    | split

theorem State.rebuildSlots_sealed {r s : State} (h : r.Sealed s) : r.Sealed (State.rebuildSlots s) := by
  unfold State.rebuildSlots
  repeat' first
    | with_reducible assumption
    | with_reducible exact Sealed.refl _
    | with_reducible apply Sealed.ite
    | with_reducible apply setSlot_sealed
    | rw [List.foldl_cons]
    | rw [List.foldl_nil]
    | exact Fld.keyFree rfl
    | exact Hid.keyFree rfl
    | exact balFld_keyFree _
    | decide
    | with_reducible refine Sealed.foldl ?_ (fun u x => ?_)
    | with_reducible refine Sealed.foldl_fst ?_ (fun u x => ?_)
    | with_reducible apply sealedParts_of
    | intro _
    | with_reducible refine Sealed.of_eq (by assumption) ?_
    | with_reducible refine Sealed.of_eq_snd (by assumption) ?_
    | simp only [sealed_mk]
    | split

theorem State.unitPark_sealed {r s : State} (h : r.Sealed s) (o : Op) : r.Sealed (State.unitPark s o) := by
  unfold State.unitPark
  repeat' first
    | with_reducible assumption
    | with_reducible exact Sealed.refl _
    | with_reducible apply Sealed.ite
    | with_reducible apply Sealed.ite_fst
    | with_reducible apply vwrite_sealed
    | with_reducible apply readRec_sealed
    | with_reducible apply putLine_sealed
    | exact Fld.keyFree rfl
    | exact Hid.keyFree rfl
    | exact balFld_keyFree _
    | decide
    | with_reducible apply sealedParts_of
    | intro _
    | with_reducible refine Sealed.of_eq (by assumption) ?_
    | with_reducible refine Sealed.of_eq_snd (by assumption) ?_
    | simp only [sealed_mk]
    | split

theorem State.giveVerdict_sealed {r s : State} (h : r.Sealed s) (q : ℕ) (n : ℕ) (skip : Bool) : r.Sealed (State.giveVerdict s q n skip).1 := by
  unfold State.giveVerdict
  repeat' first
    | with_reducible assumption
    | with_reducible exact Sealed.refl _
    | with_reducible apply Sealed.ite
    | with_reducible apply Sealed.ite_fst
    | with_reducible apply mark_sealed
    | with_reducible apply wr_sealed
    | exact Fld.keyFree rfl
    | exact Hid.keyFree rfl
    | exact balFld_keyFree _
    | decide
    | with_reducible apply sealedParts_of
    | intro _
    | with_reducible refine Sealed.of_eq (by assumption) ?_
    | with_reducible refine Sealed.of_eq_snd (by assumption) ?_
    | simp only [sealed_mk]
    | split

theorem execAccum_sealed (u : ℕ) (t : ℕ) (wait : ℕ) {s : State} : s.SealedNext (execAccum u t wait s) := by
  unfold execAccum
  repeat' first
    | with_reducible assumption
    | with_reducible exact Sealed.refl _
    | with_reducible apply SealedNext.next
    | with_reducible apply SealedNext.ite
    | with_reducible apply Sealed.ite
    | with_reducible apply unitStep_sealed
    | with_reducible apply goTo_sealed
    | exact Fld.keyFree rfl
    | exact Hid.keyFree rfl
    | exact balFld_keyFree _
    | decide
    | with_reducible apply sealedParts_of
    | intro _
    | with_reducible refine Sealed.of_eq (by assumption) ?_
    | with_reducible refine Sealed.of_eq_snd (by assumption) ?_
    | simp only [sealed_mk]
    | split

theorem execNorm_sealed (u : ℕ) (t : ℕ) (wait : ℕ) {s : State} : s.SealedNext (execNorm u t wait s) := by
  unfold execNorm
  repeat' first
    | with_reducible assumption
    | with_reducible exact Sealed.refl _
    | with_reducible apply SealedNext.next
    | with_reducible apply SealedNext.ite
    | with_reducible apply Sealed.ite
    | with_reducible apply unitStep_sealed
    | with_reducible apply goTo_sealed
    | exact Fld.keyFree rfl
    | exact Hid.keyFree rfl
    | exact balFld_keyFree _
    | decide
    | with_reducible apply sealedParts_of
    | intro _
    | with_reducible refine Sealed.of_eq (by assumption) ?_
    | with_reducible refine Sealed.of_eq_snd (by assumption) ?_
    | simp only [sealed_mk]
    | split

theorem execUpdate_sealed (u : ℕ) (t : ℕ) (wait : ℕ) {s : State} : s.SealedNext (execUpdate u t wait s) := by
  unfold execUpdate
  repeat' first
    | with_reducible assumption
    | with_reducible exact Sealed.refl _
    | with_reducible apply SealedNext.next
    | with_reducible apply SealedNext.ite
    | with_reducible apply Sealed.ite
    | with_reducible apply unitStep_sealed
    | with_reducible apply goTo_sealed
    | exact Fld.keyFree rfl
    | exact Hid.keyFree rfl
    | exact balFld_keyFree _
    | decide
    | with_reducible apply sealedParts_of
    | intro _
    | with_reducible refine Sealed.of_eq (by assumption) ?_
    | with_reducible refine Sealed.of_eq_snd (by assumption) ?_
    | simp only [sealed_mk]
    | split

theorem execShardCommit_sealed (u : ℕ) (t : ℕ) {s : State} : s.SealedNext (execShardCommit u t s) := by
  unfold execShardCommit
  repeat' first
    | with_reducible assumption
    | with_reducible exact Sealed.refl _
    | with_reducible apply SealedNext.next
    | with_reducible apply SealedNext.ite
    | with_reducible apply Sealed.ite
    | with_reducible apply Sealed.ite_fst
    | with_reducible apply goTo_sealed
    | with_reducible apply readRec_sealed
    | with_reducible apply scratchWrite_sealed
    | with_reducible apply bump_sealed
    | with_reducible apply mergeFlags_sealed
    | with_reducible apply setSlot_sealed
    | with_reducible apply syncUnit_sealed
    | with_reducible apply setOp_sealed
    | exact Fld.keyFree rfl
    | exact Hid.keyFree rfl
    | exact balFld_keyFree _
    | decide
    | with_reducible apply sealedParts_of
    | intro _
    | with_reducible refine Sealed.of_eq (by assumption) ?_
    | with_reducible refine Sealed.of_eq_snd (by assumption) ?_
    | simp only [sealed_mk]
    | split

theorem execSlotRetire_sealed (u : ℕ) (t : ℕ) {s : State} : s.SealedNext (execSlotRetire u t s) := by
  unfold execSlotRetire
  repeat' first
    | with_reducible assumption
    | with_reducible exact Sealed.refl _
    | with_reducible apply SealedNext.next
    | with_reducible apply SealedNext.ite
    | with_reducible apply Sealed.ite
    | with_reducible apply Sealed.ite_fst
    | with_reducible apply goTo_sealed
    | with_reducible apply retireSlot_sealed
    | exact Fld.keyFree rfl
    | exact Hid.keyFree rfl
    | exact balFld_keyFree _
    | decide
    | with_reducible apply sealedParts_of
    | intro _
    | with_reducible refine Sealed.of_eq (by assumption) ?_
    | with_reducible refine Sealed.of_eq_snd (by assumption) ?_
    | simp only [sealed_mk]
    | split

theorem State.setObj_sealed {r s : State} (h : r.Sealed s) (k : ℕ) (b : List Byte) : r.Sealed (State.setObj s k b) := by
  unfold State.setObj
  repeat' first
    | with_reducible assumption
    | with_reducible exact Sealed.refl _
    | with_reducible apply Sealed.ite
    | exact Fld.keyFree rfl
    | exact Hid.keyFree rfl
    | exact balFld_keyFree _
    | decide
    | with_reducible apply sealedParts_of
    | intro _
    | with_reducible refine Sealed.of_eq (by assumption) ?_
    | with_reducible refine Sealed.of_eq_snd (by assumption) ?_
    | simp only [sealed_mk]
    | split

theorem State.orBit_sealed {r s : State} (h : r.Sealed s) (f : Fld) (u : ℕ) (i : ℕ) (hff : f.keyed = false) : r.Sealed (State.orBit s f u i) := by
  unfold State.orBit
  repeat' first
    | with_reducible assumption
    | with_reducible exact Sealed.refl _
    | with_reducible apply Sealed.ite
    | with_reducible apply wr_sealed
    | exact Fld.keyFree rfl
    | exact Hid.keyFree rfl
    | exact balFld_keyFree _
    | decide
    | with_reducible apply sealedParts_of
    | intro _
    | with_reducible refine Sealed.of_eq (by assumption) ?_
    | with_reducible refine Sealed.of_eq_snd (by assumption) ?_
    | simp only [sealed_mk]
    | split

theorem State.removeUnit_sealed {r s : State} (h : r.Sealed s) (cls : ℕ) (u : ℕ) (i : ℕ) : r.Sealed (State.removeUnit s cls u i) := by
  unfold State.removeUnit
  repeat' first
    | with_reducible assumption
    | with_reducible exact Sealed.refl _
    | with_reducible apply Sealed.ite
    | with_reducible apply orBit_sealed
    | with_reducible apply wr_sealed
    | with_reducible apply mcLog_sealed
    | with_reducible apply mark_sealed
    | exact Fld.keyFree rfl
    | exact Hid.keyFree rfl
    | exact balFld_keyFree _
    | decide
    | with_reducible apply sealedParts_of
    | intro _
    | with_reducible refine Sealed.of_eq (by assumption) ?_
    | with_reducible refine Sealed.of_eq_snd (by assumption) ?_
    | simp only [sealed_mk]
    | split

theorem State.applyOuts_sealed {r s : State} (h : r.Sealed s) : r.Sealed (State.applyOuts s) := by
  unfold State.applyOuts
  repeat' first
    | with_reducible assumption
    | with_reducible exact Sealed.refl _
    | with_reducible apply Sealed.ite
    | with_reducible apply dropCmds_sealed
    | with_reducible apply setH_sealed
    | rw [List.foldl_cons]
    | rw [List.foldl_nil]
    | exact Fld.keyFree rfl
    | exact Hid.keyFree rfl
    | exact balFld_keyFree _
    | decide
    | with_reducible refine Sealed.foldl ?_ (fun u x => ?_)
    | with_reducible refine Sealed.foldl_fst ?_ (fun u x => ?_)
    | with_reducible apply sealedParts_of
    | intro _
    | with_reducible refine Sealed.of_eq (by assumption) ?_
    | with_reducible refine Sealed.of_eq_snd (by assumption) ?_
    | simp only [sealed_mk]
    | split

theorem State.removeUnits_sealed {r s : State} (h : r.Sealed s) : r.Sealed (State.removeUnits s) := by
  unfold State.removeUnits
  repeat' first
    | with_reducible assumption
    | with_reducible exact Sealed.refl _
    | with_reducible apply Sealed.ite
    | with_reducible apply setH_sealed
    | with_reducible apply removeUnit_sealed
    | with_reducible apply applyOuts_sealed
    | rw [List.foldl_cons]
    | rw [List.foldl_nil]
    | exact Fld.keyFree rfl
    | exact Hid.keyFree rfl
    | exact balFld_keyFree _
    | decide
    | with_reducible refine Sealed.foldl ?_ (fun u x => ?_)
    | with_reducible refine Sealed.foldl_fst ?_ (fun u x => ?_)
    | with_reducible apply sealedParts_of
    | intro _
    | with_reducible refine Sealed.of_eq (by assumption) ?_
    | with_reducible refine Sealed.of_eq_snd (by assumption) ?_
    | simp only [sealed_mk]
    | split

theorem State.haltQuarter_sealed {r s : State} (h : r.Sealed s) (q : ℕ) (dispose : Bool) : r.Sealed (State.haltQuarter s q dispose) := by
  unfold State.haltQuarter
  repeat' first
    | with_reducible assumption
    | with_reducible exact Sealed.refl _
    | with_reducible apply Sealed.ite
    | with_reducible apply mark_sealed
    | with_reducible apply setH_sealed
    | exact Fld.keyFree rfl
    | exact Hid.keyFree rfl
    | exact balFld_keyFree _
    | decide
    | with_reducible apply sealedParts_of
    | intro _
    | with_reducible refine Sealed.of_eq (by assumption) ?_
    | with_reducible refine Sealed.of_eq_snd (by assumption) ?_
    | simp only [sealed_mk]
    | split

theorem State.haltAll_sealed {r s : State} (h : r.Sealed s) : r.Sealed (State.haltAll s) := by
  unfold State.haltAll
  repeat' first
    | with_reducible assumption
    | with_reducible exact Sealed.refl _
    | with_reducible apply Sealed.ite
    | with_reducible apply haltQuarter_sealed
    | rw [List.foldl_cons]
    | rw [List.foldl_nil]
    | exact Fld.keyFree rfl
    | exact Hid.keyFree rfl
    | exact balFld_keyFree _
    | decide
    | with_reducible refine Sealed.foldl ?_ (fun u x => ?_)
    | with_reducible refine Sealed.foldl_fst ?_ (fun u x => ?_)
    | with_reducible apply sealedParts_of
    | intro _
    | with_reducible refine Sealed.of_eq (by assumption) ?_
    | with_reducible refine Sealed.of_eq_snd (by assumption) ?_
    | simp only [sealed_mk]
    | split

theorem State.setLevel_sealed {r s : State} (h : r.Sealed s) : r.Sealed (State.setLevel s) := by
  unfold State.setLevel
  repeat' first
    | with_reducible assumption
    | with_reducible exact Sealed.refl _
    | with_reducible apply Sealed.ite
    | with_reducible apply wr_sealed
    | with_reducible apply haltAll_sealed
    | exact Fld.keyFree rfl
    | exact Hid.keyFree rfl
    | exact balFld_keyFree _
    | decide
    | with_reducible apply sealedParts_of
    | intro _
    | with_reducible refine Sealed.of_eq (by assumption) ?_
    | with_reducible refine Sealed.of_eq_snd (by assumption) ?_
    | simp only [sealed_mk]
    | split

theorem State.endAll_sealed {r s : State} (h : r.Sealed s) (q : ℕ) (status : ℕ) : r.Sealed (State.endAll s q status) := by
  unfold State.endAll
  repeat' first
    | with_reducible assumption
    | with_reducible exact Sealed.refl _
    | with_reducible apply Sealed.ite
    | with_reducible apply finish_sealed
    | rw [List.foldl_cons]
    | rw [List.foldl_nil]
    | exact Fld.keyFree rfl
    | exact Hid.keyFree rfl
    | exact balFld_keyFree _
    | decide
    | with_reducible refine Sealed.foldl ?_ (fun u x => ?_)
    | with_reducible refine Sealed.foldl_fst ?_ (fun u x => ?_)
    | with_reducible apply sealedParts_of
    | intro _
    | with_reducible refine Sealed.of_eq (by assumption) ?_
    | with_reducible refine Sealed.of_eq_snd (by assumption) ?_
    | simp only [sealed_mk]
    | split

theorem State.disposeQuarter_sealed {r s : State} (h : r.Sealed s) (q : ℕ) : r.Sealed (State.disposeQuarter s q) := by
  unfold State.disposeQuarter
  repeat' first
    | with_reducible assumption
    | with_reducible exact Sealed.refl _
    | with_reducible apply Sealed.ite
    | with_reducible apply syncBlanks_sealed
    | with_reducible apply setH_sealed
    | with_reducible apply endAll_sealed
    | exact Fld.keyFree rfl
    | exact Hid.keyFree rfl
    | exact balFld_keyFree _
    | decide
    | with_reducible apply sealedParts_of
    | intro _
    | with_reducible refine Sealed.of_eq (by assumption) ?_
    | with_reducible refine Sealed.of_eq_snd (by assumption) ?_
    | simp only [sealed_mk]
    | split

theorem State.releaseQuarter_sealed {r s : State} (h : r.Sealed s) (q : ℕ) : r.Sealed (State.releaseQuarter s q) := by
  unfold State.releaseQuarter
  repeat' first
    | with_reducible assumption
    | with_reducible exact Sealed.refl _
    | with_reducible apply Sealed.ite
    | with_reducible apply wr_sealed
    | with_reducible apply setH_sealed
    | exact Fld.keyFree rfl
    | exact Hid.keyFree rfl
    | exact balFld_keyFree _
    | decide
    | with_reducible apply sealedParts_of
    | intro _
    | with_reducible refine Sealed.of_eq (by assumption) ?_
    | with_reducible refine Sealed.of_eq_snd (by assumption) ?_
    | simp only [sealed_mk]
    | split

theorem State.newMeasurement_sealed {r s : State} (h : r.Sealed s) : r.Sealed (State.newMeasurement s) := by
  unfold State.newMeasurement
  repeat' first
    | with_reducible assumption
    | with_reducible exact Sealed.refl _
    | with_reducible apply Sealed.ite
    | with_reducible apply setH_sealed
    | rw [List.foldl_cons]
    | rw [List.foldl_nil]
    | exact Fld.keyFree rfl
    | exact Hid.keyFree rfl
    | exact balFld_keyFree _
    | decide
    | with_reducible refine Sealed.foldl ?_ (fun u x => ?_)
    | with_reducible refine Sealed.foldl_fst ?_ (fun u x => ?_)
    | with_reducible apply sealedParts_of
    | intro _
    | with_reducible refine Sealed.of_eq (by assumption) ?_
    | with_reducible refine Sealed.of_eq_snd (by assumption) ?_
    | simp only [sealed_mk]
    | split

theorem State.clearHandshakes_sealed {r s : State} (h : r.Sealed s) : r.Sealed (State.clearHandshakes s) := by
  unfold State.clearHandshakes
  repeat' first
    | with_reducible assumption
    | with_reducible exact Sealed.refl _
    | with_reducible apply Sealed.ite
    | with_reducible apply wr_sealed
    | rw [List.foldl_cons]
    | rw [List.foldl_nil]
    | exact Fld.keyFree rfl
    | exact Hid.keyFree rfl
    | exact balFld_keyFree _
    | decide
    | with_reducible refine Sealed.foldl ?_ (fun u x => ?_)
    | with_reducible refine Sealed.foldl_fst ?_ (fun u x => ?_)
    | with_reducible apply sealedParts_of
    | intro _
    | with_reducible refine Sealed.of_eq (by assumption) ?_
    | with_reducible refine Sealed.of_eq_snd (by assumption) ?_
    | simp only [sealed_mk]
    | split

theorem State.applySelects_sealed {r s : State} (h : r.Sealed s) : r.Sealed (State.applySelects s) := by
  unfold State.applySelects
  repeat' first
    | with_reducible assumption
    | with_reducible exact Sealed.refl _
    | with_reducible apply Sealed.ite
    | with_reducible apply setH_sealed
    | with_reducible apply wr_sealed
    | with_reducible apply mark_sealed
    | with_reducible apply newMeasurement_sealed
    | with_reducible apply clearHandshakes_sealed
    | exact Fld.keyFree rfl
    | exact Hid.keyFree rfl
    | exact balFld_keyFree _
    | decide
    | with_reducible apply sealedParts_of
    | intro _
    | with_reducible refine Sealed.of_eq (by assumption) ?_
    | with_reducible refine Sealed.of_eq_snd (by assumption) ?_
    | simp only [sealed_mk]
    | split

theorem State.endRestricted_sealed {r s : State} (h : r.Sealed s) : r.Sealed (State.endRestricted s) := by
  unfold State.endRestricted
  repeat' first
    | with_reducible assumption
    | with_reducible exact Sealed.refl _
    | with_reducible apply Sealed.ite
    | with_reducible apply wr_sealed
    | with_reducible apply setH_sealed
    | exact Fld.keyFree rfl
    | exact Hid.keyFree rfl
    | exact balFld_keyFree _
    | decide
    | with_reducible apply sealedParts_of
    | intro _
    | with_reducible refine Sealed.of_eq (by assumption) ?_
    | with_reducible refine Sealed.of_eq_snd (by assumption) ?_
    | simp only [sealed_mk]
    | split

theorem State.claim_sealed {r s : State} (h : r.Sealed s) (o : Op) : r.Sealed (State.claim s o) := by
  unfold State.claim
  repeat' first
    | with_reducible assumption
    | with_reducible exact Sealed.refl _
    | with_reducible apply Sealed.ite
    | with_reducible apply wr_sealed
    | exact Fld.keyFree rfl
    | exact Hid.keyFree rfl
    | exact balFld_keyFree _
    | decide
    | with_reducible apply sealedParts_of
    | intro _
    | with_reducible refine Sealed.of_eq (by assumption) ?_
    | with_reducible refine Sealed.of_eq_snd (by assumption) ?_
    | simp only [sealed_mk]
    | split

theorem State.issueProblem_sealed {r s : State} (h : r.Sealed s) (g : Op) : r.Sealed (State.issueProblem s g).1 := by
  unfold State.issueProblem
  repeat' first
    | with_reducible assumption
    | with_reducible exact Sealed.refl _
    | with_reducible apply Sealed.ite
    | with_reducible apply Sealed.ite_fst
    | with_reducible apply vread_sealed
    | with_reducible apply newId_sealed
    | with_reducible apply setOp_sealed
    | with_reducible apply finish_sealed
    | exact Fld.keyFree rfl
    | exact Hid.keyFree rfl
    | exact balFld_keyFree _
    | decide
    | with_reducible apply sealedParts_of
    | intro _
    | with_reducible refine Sealed.of_eq (by assumption) ?_
    | with_reducible refine Sealed.of_eq_snd (by assumption) ?_
    | simp only [sealed_mk]
    | split

theorem State.admissionHead_sealed {r s : State} (h : r.Sealed s) (q : ℕ) : r.Sealed (State.admissionHead s q).1 := by
  unfold State.admissionHead
  repeat' first
    | with_reducible assumption
    | with_reducible exact Sealed.refl _
    | with_reducible apply Sealed.ite
    | with_reducible apply Sealed.ite_fst
    | with_reducible apply finish_sealed
    | with_reducible apply issueProblem_sealed
    | exact Fld.keyFree rfl
    | exact Hid.keyFree rfl
    | exact balFld_keyFree _
    | decide
    | with_reducible apply sealedParts_of
    | intro _
    | with_reducible refine Sealed.of_eq (by assumption) ?_
    | with_reducible refine Sealed.of_eq_snd (by assumption) ?_
    | simp only [sealed_mk]
    | split

theorem State.handOver_sealed {r s : State} (h : r.Sealed s) (o : Op) : r.Sealed (State.handOver s o).1 := by
  unfold State.handOver
  repeat' first
    | with_reducible assumption
    | with_reducible exact Sealed.refl _
    | with_reducible apply Sealed.ite
    | with_reducible apply Sealed.ite_fst
    | with_reducible apply vread_sealed
    | exact Fld.keyFree rfl
    | exact Hid.keyFree rfl
    | exact balFld_keyFree _
    | decide
    | with_reducible apply sealedParts_of
    | intro _
    | with_reducible refine Sealed.of_eq (by assumption) ?_
    | with_reducible refine Sealed.of_eq_snd (by assumption) ?_
    | simp only [sealed_mk]
    | split

theorem State.admitOp_sealed {r s : State} (h : r.Sealed s) (o : Op) (new : Bool) (u : ℕ) (slice : ℕ) (charge : ℕ) : r.Sealed (State.admitOp s o new u
    slice charge) := by
  unfold State.admitOp
  repeat' first
    | with_reducible assumption
    | with_reducible exact Sealed.refl _
    | with_reducible apply Sealed.ite
    | with_reducible apply claim_sealed
    | with_reducible apply addH_sealed
    | with_reducible apply wr_sealed
    | with_reducible apply setOp_sealed
    | with_reducible apply syncBlanks_sealed
    | with_reducible apply startAlloc_sealed
    | with_reducible apply syncUnit_sealed
    | exact Fld.keyFree rfl
    | exact Hid.keyFree rfl
    | exact balFld_keyFree _
    | decide
    | with_reducible apply sealedParts_of
    | intro _
    | with_reducible refine Sealed.of_eq (by assumption) ?_
    | with_reducible refine Sealed.of_eq_snd (by assumption) ?_
    | simp only [sealed_mk]
    | split

theorem State.readOpnds_sealed {r s : State} (h : r.Sealed s) (o : Op) (y2 : List ℕ) : r.Sealed (State.readOpnds s o y2).1 := by
  induction y2 generalizing s o with
  | nil =>
    unfold State.readOpnds
    repeat' first
      | with_reducible assumption
      | with_reducible exact Sealed.refl _
      | with_reducible apply Sealed.ite
      | with_reducible apply Sealed.ite_fst
      | with_reducible apply vread_sealed
      | exact Fld.keyFree rfl
      | exact Hid.keyFree rfl
      | exact balFld_keyFree _
      | decide
      | with_reducible apply sealedParts_of
      | intro _
      | with_reducible refine Sealed.of_eq (by assumption) ?_
      | with_reducible refine Sealed.of_eq_snd (by assumption) ?_
      | simp only [sealed_mk]
      | split
  | cons z l ih =>
    unfold State.readOpnds
    repeat' first
      | with_reducible assumption
      | with_reducible exact Sealed.refl _
      | with_reducible apply Sealed.ite
      | with_reducible apply Sealed.ite_fst
      | with_reducible apply vread_sealed
      | with_reducible apply ih
      | exact Fld.keyFree rfl
      | exact Hid.keyFree rfl
      | exact balFld_keyFree _
      | decide
      | with_reducible apply sealedParts_of
      | intro _
      | with_reducible refine Sealed.of_eq (by assumption) ?_
      | with_reducible refine Sealed.of_eq_snd (by assumption) ?_
      | simp only [sealed_mk]
      | split

theorem State.withEntries_sealed {r s : State} (h : r.Sealed s) (o : Op) (new : Bool) : r.Sealed (State.withEntries s o new).1 := by
  unfold State.withEntries
  repeat' first
    | with_reducible assumption
    | with_reducible exact Sealed.refl _
    | with_reducible apply Sealed.ite
    | with_reducible apply Sealed.ite_fst
    | with_reducible apply readOpnds_sealed
    | exact Fld.keyFree rfl
    | exact Hid.keyFree rfl
    | exact balFld_keyFree _
    | decide
    | with_reducible apply sealedParts_of
    | intro _
    | with_reducible refine Sealed.of_eq (by assumption) ?_
    | with_reducible refine Sealed.of_eq_snd (by assumption) ?_
    | simp only [sealed_mk]
    | split

theorem State.decideOn_sealed {r s : State} (h : r.Sealed s) (o : Op) (new : Bool) : r.Sealed (State.decideOn s o new) := by
  unfold State.decideOn
  repeat' first
    | with_reducible assumption
    | with_reducible exact Sealed.refl _
    | with_reducible apply Sealed.ite
    | with_reducible apply Sealed.ite_fst
    | with_reducible apply ev_sealed
    | with_reducible apply withEntries_sealed
    | with_reducible apply finishWith_sealed
    | with_reducible apply finish_sealed
    | with_reducible apply handOver_sealed
    | with_reducible apply admitOp_sealed
    | exact Fld.keyFree rfl
    | exact Hid.keyFree rfl
    | exact balFld_keyFree _
    | decide
    | with_reducible apply sealedParts_of
    | intro _
    | with_reducible refine Sealed.of_eq (by assumption) ?_
    | with_reducible refine Sealed.of_eq_snd (by assumption) ?_
    | simp only [sealed_mk]
    | split

theorem State.admission_sealed {r s : State} (h : r.Sealed s) (q : ℕ) : r.Sealed (State.admission s q) := by
  unfold State.admission
  repeat' first
    | with_reducible assumption
    | with_reducible exact Sealed.refl _
    | with_reducible apply Sealed.ite
    | with_reducible apply Sealed.ite_fst
    | with_reducible apply setH_sealed
    | with_reducible apply ev_sealed
    | with_reducible apply admissionHead_sealed
    | with_reducible apply decideOn_sealed
    | exact Fld.keyFree rfl
    | exact Hid.keyFree rfl
    | exact balFld_keyFree _
    | decide
    | with_reducible apply sealedParts_of
    | intro _
    | with_reducible refine Sealed.of_eq (by assumption) ?_
    | with_reducible refine Sealed.of_eq_snd (by assumption) ?_
    | simp only [sealed_mk]
    | split

theorem execAdmissionDecision_sealed (q : ℕ) (t : ℕ) {s : State} : s.SealedNext (execAdmissionDecision q t s) := by
  unfold execAdmissionDecision
  repeat' first
    | with_reducible assumption
    | with_reducible exact Sealed.refl _
    | with_reducible apply SealedNext.next
    | with_reducible apply SealedNext.ite
    | with_reducible apply Sealed.ite
    | with_reducible apply admission_sealed
    | with_reducible apply goTo_sealed
    | exact Fld.keyFree rfl
    | exact Hid.keyFree rfl
    | exact balFld_keyFree _
    | decide
    | with_reducible apply sealedParts_of
    | intro _
    | with_reducible refine Sealed.of_eq (by assumption) ?_
    | with_reducible refine Sealed.of_eq_snd (by assumption) ?_
    | simp only [sealed_mk]
    | split

theorem State.freeze_sealed {r s : State} (h : r.Sealed s) : r.Sealed (State.freeze s) := by
  unfold State.freeze
  repeat' first
    | with_reducible assumption
    | with_reducible exact Sealed.refl _
    | with_reducible apply Sealed.ite
    | with_reducible apply wr_sealed
    | rw [List.foldl_cons]
    | rw [List.foldl_nil]
    | exact Fld.keyFree rfl
    | exact Hid.keyFree rfl
    | exact balFld_keyFree _
    | decide
    | with_reducible refine Sealed.foldl ?_ (fun u x => ?_)
    | with_reducible refine Sealed.foldl_fst ?_ (fun u x => ?_)
    | with_reducible apply sealedParts_of
    | intro _
    | with_reducible refine Sealed.of_eq (by assumption) ?_
    | with_reducible refine Sealed.of_eq_snd (by assumption) ?_
    | simp only [sealed_mk]
    | split

theorem State.latch_sealed {r s : State} (h : r.Sealed s) (src : ℕ) : r.Sealed (State.latch s src) := by
  unfold State.latch
  repeat' first
    | with_reducible assumption
    | with_reducible exact Sealed.refl _
    | with_reducible apply Sealed.ite
    | with_reducible apply bump_sealed
    | with_reducible apply freeze_sealed
    | with_reducible apply wr_sealed
    | exact Fld.keyFree rfl
    | exact Hid.keyFree rfl
    | exact balFld_keyFree _
    | decide
    | with_reducible apply sealedParts_of
    | intro _
    | with_reducible refine Sealed.of_eq (by assumption) ?_
    | with_reducible refine Sealed.of_eq_snd (by assumption) ?_
    | simp only [sealed_mk]
    | split

theorem State.dump_sealed {r s : State} (h : r.Sealed s) (m : ℕ) : r.Sealed (State.dump s m) := by
  unfold State.dump
  repeat' first
    | with_reducible assumption
    | with_reducible exact Sealed.refl _
    | with_reducible apply Sealed.ite
    | with_reducible apply setH_sealed
    | with_reducible apply setBytes_sealed
    | with_reducible apply bump_sealed
    | exact Fld.keyFree rfl
    | exact Hid.keyFree rfl
    | exact balFld_keyFree _
    | decide
    | with_reducible apply sealedParts_of
    | intro _
    | with_reducible refine Sealed.of_eq (by assumption) ?_
    | with_reducible refine Sealed.of_eq_snd (by assumption) ?_
    | simp only [sealed_mk]
    | split

theorem execShiftOutComplete_sealed {s : State} : s.SealedNext (execShiftOutComplete s) := by
  unfold execShiftOutComplete
  repeat' first
    | with_reducible assumption
    | with_reducible exact Sealed.refl _
    | with_reducible apply SealedNext.next
    | with_reducible apply SealedNext.ite
    | with_reducible apply Sealed.ite
    | with_reducible apply wr_sealed
    | exact Fld.keyFree rfl
    | exact Hid.keyFree rfl
    | exact balFld_keyFree _
    | decide
    | with_reducible apply sealedParts_of
    | intro _
    | with_reducible refine Sealed.of_eq (by assumption) ?_
    | with_reducible refine Sealed.of_eq_snd (by assumption) ?_
    | simp only [sealed_mk]
    | split

theorem execBwWindowEnd_sealed (port : ℕ) (rx : ℕ) (tx : ℕ) {s : State} : s.SealedNext (execBwWindowEnd port rx tx s) := by
  unfold execBwWindowEnd
  repeat' first
    | with_reducible assumption
    | with_reducible exact Sealed.refl _
    | with_reducible apply SealedNext.next
    | with_reducible apply SealedNext.ite
    | with_reducible apply Sealed.ite
    | with_reducible apply wr_sealed
    | exact Fld.keyFree rfl
    | exact Hid.keyFree rfl
    | exact balFld_keyFree _
    | decide
    | with_reducible apply sealedParts_of
    | intro _
    | with_reducible refine Sealed.of_eq (by assumption) ?_
    | with_reducible refine Sealed.of_eq_snd (by assumption) ?_
    | simp only [sealed_mk]
    | split

theorem State.endSlotWait_sealed {r s : State} (h : r.Sealed s) (o : Op) : r.Sealed (State.endSlotWait s o) := by
  unfold State.endSlotWait
  repeat' first
    | with_reducible assumption
    | with_reducible exact Sealed.refl _
    | with_reducible apply Sealed.ite
    | with_reducible apply setOp_sealed
    | with_reducible apply ev_sealed
    | exact Fld.keyFree rfl
    | exact Hid.keyFree rfl
    | exact balFld_keyFree _
    | decide
    | with_reducible apply sealedParts_of
    | intro _
    | with_reducible refine Sealed.of_eq (by assumption) ?_
    | with_reducible refine Sealed.of_eq_snd (by assumption) ?_
    | simp only [sealed_mk]
    | split

theorem State.parkAsIs_sealed {r s : State} (h : r.Sealed s) (id : ℕ) : r.Sealed (State.parkAsIs s id) := by
  unfold State.parkAsIs
  repeat' first
    | with_reducible assumption
    | with_reducible exact Sealed.refl _
    | with_reducible apply Sealed.ite
    | with_reducible apply syncBlanks_sealed
    | with_reducible apply parkOp_sealed
    | with_reducible apply endSlotWait_sealed
    | exact Fld.keyFree rfl
    | exact Hid.keyFree rfl
    | exact balFld_keyFree _
    | decide
    | with_reducible apply sealedParts_of
    | intro _
    | with_reducible refine Sealed.of_eq (by assumption) ?_
    | with_reducible refine Sealed.of_eq_snd (by assumption) ?_
    | simp only [sealed_mk]
    | split

theorem State.sweepOp_sealed {r s : State} (h : r.Sealed s) (id : ℕ) : r.Sealed (State.sweepOp s id) := by
  unfold State.sweepOp
  repeat' first
    | with_reducible assumption
    | with_reducible exact Sealed.refl _
    | with_reducible apply Sealed.ite
    | with_reducible apply setOp_sealed
    | with_reducible apply overrun_sealed
    | with_reducible apply endSlotWait_sealed
    | with_reducible apply syncUnit_sealed
    | with_reducible apply syncBlanks_sealed
    | with_reducible apply parkOp_sealed
    | with_reducible apply ev_sealed
    | with_reducible apply parkAsIs_sealed
    | exact Fld.keyFree rfl
    | exact Hid.keyFree rfl
    | exact balFld_keyFree _
    | decide
    | with_reducible apply sealedParts_of
    | intro _
    | with_reducible refine Sealed.of_eq (by assumption) ?_
    | with_reducible refine Sealed.of_eq_snd (by assumption) ?_
    | simp only [sealed_mk]
    | split

theorem State.sweep_sealed {r s : State} (h : r.Sealed s) : r.Sealed (State.sweep s) := by
  unfold State.sweep
  repeat' first
    | with_reducible assumption
    | with_reducible exact Sealed.refl _
    | with_reducible apply Sealed.ite
    | with_reducible apply scanTo_sealed
    | with_reducible apply ev_sealed
    | with_reducible apply sweepOp_sealed
    | with_reducible apply messageWait_sealed
    | with_reducible apply journalWait_sealed
    | with_reducible apply setH_sealed
    | with_reducible apply tagsWait_sealed
    | rw [List.foldl_cons]
    | rw [List.foldl_nil]
    | exact Fld.keyFree rfl
    | exact Hid.keyFree rfl
    | exact balFld_keyFree _
    | decide
    | with_reducible refine Sealed.foldl ?_ (fun u x => ?_)
    | with_reducible refine Sealed.foldl_fst ?_ (fun u x => ?_)
    | with_reducible apply sealedParts_of
    | intro _
    | with_reducible refine Sealed.of_eq (by assumption) ?_
    | with_reducible refine Sealed.of_eq_snd (by assumption) ?_
    | simp only [sealed_mk]
    | split

theorem State.parkNow_sealed {r s : State} (h : r.Sealed s) (o : Op) : r.Sealed (State.parkNow s o) := by
  unfold State.parkNow
  repeat' first
    | with_reducible assumption
    | with_reducible exact Sealed.refl _
    | with_reducible apply Sealed.ite
    | with_reducible apply syncUnit_sealed
    | with_reducible apply parkOp_sealed
    | with_reducible apply unitPark_sealed
    | with_reducible apply parkAsIs_sealed
    | exact Fld.keyFree rfl
    | exact Hid.keyFree rfl
    | exact balFld_keyFree _
    | decide
    | with_reducible apply sealedParts_of
    | intro _
    | with_reducible refine Sealed.of_eq (by assumption) ?_
    | with_reducible refine Sealed.of_eq_snd (by assumption) ?_
    | simp only [sealed_mk]
    | split

theorem State.deadlineOp_sealed {r s : State} (h : r.Sealed s) (id : ℕ) : r.Sealed (State.deadlineOp s id) := by
  unfold State.deadlineOp
  repeat' first
    | with_reducible assumption
    | with_reducible exact Sealed.refl _
    | with_reducible apply Sealed.ite
    | with_reducible apply syncBlanks_sealed
    | with_reducible apply finish_sealed
    | with_reducible apply overrun_sealed
    | with_reducible apply endSlotWait_sealed
    | with_reducible apply abandonPage_sealed
    | with_reducible apply syncUnit_sealed
    | exact Fld.keyFree rfl
    | exact Hid.keyFree rfl
    | exact balFld_keyFree _
    | decide
    | with_reducible apply sealedParts_of
    | intro _
    | with_reducible refine Sealed.of_eq (by assumption) ?_
    | with_reducible refine Sealed.of_eq_snd (by assumption) ?_
    | simp only [sealed_mk]
    | split

theorem State.dropPacked_sealed {r s : State} (h : r.Sealed s) : r.Sealed (State.dropPacked s) := by
  unfold State.dropPacked
  repeat' first
    | with_reducible assumption
    | with_reducible exact Sealed.refl _
    | with_reducible apply Sealed.ite
    | with_reducible apply dirBusy_sealed
    | with_reducible apply wr_sealed
    | rw [List.foldl_cons]
    | rw [List.foldl_nil]
    | exact Fld.keyFree rfl
    | exact Hid.keyFree rfl
    | exact balFld_keyFree _
    | decide
    | with_reducible refine Sealed.foldl ?_ (fun u x => ?_)
    | with_reducible refine Sealed.foldl_fst ?_ (fun u x => ?_)
    | with_reducible apply sealedParts_of
    | intro _
    | with_reducible refine Sealed.of_eq (by assumption) ?_
    | with_reducible refine Sealed.of_eq_snd (by assumption) ?_
    | simp only [sealed_mk]
    | split

theorem State.drain_sealed {r s : State} (h : r.Sealed s) : r.Sealed (State.drain s) := by
  unfold State.drain
  repeat' first
    | with_reducible assumption
    | with_reducible exact Sealed.refl _
    | with_reducible apply Sealed.ite
    | with_reducible apply ev_sealed
    | with_reducible apply bump_sealed
    | with_reducible apply syncOut_sealed
    | with_reducible apply serveQueues_sealed
    | with_reducible apply cutEngines_sealed
    | with_reducible apply dropPacked_sealed
    | rw [List.foldl_cons]
    | rw [List.foldl_nil]
    | exact Fld.keyFree rfl
    | exact Hid.keyFree rfl
    | exact balFld_keyFree _
    | decide
    | with_reducible refine Sealed.foldl ?_ (fun u x => ?_)
    | with_reducible refine Sealed.foldl_fst ?_ (fun u x => ?_)
    | with_reducible apply sealedParts_of
    | intro _
    | with_reducible refine Sealed.of_eq (by assumption) ?_
    | with_reducible refine Sealed.of_eq_snd (by assumption) ?_
    | simp only [sealed_mk]
    | split

theorem State.balAction_sealed {r s : State} (h : r.Sealed s) (e : ℕ × ℕ × ℕ × ℕ) : r.Sealed (State.balAction s e) := by
  unfold State.balAction
  repeat' first
    | with_reducible assumption
    | with_reducible exact Sealed.refl _
    | with_reducible apply Sealed.ite
    | with_reducible apply setH_sealed
    | with_reducible apply fenceReq_sealed
    | with_reducible apply ringFault_sealed
    | with_reducible apply syncOut_sealed
    | with_reducible apply addH_sealed
    | with_reducible apply setSlot_sealed
    | with_reducible apply syncFe_sealed
    | with_reducible apply overrun_sealed
    | rw [List.foldl_cons]
    | rw [List.foldl_nil]
    | exact Fld.keyFree rfl
    | exact Hid.keyFree rfl
    | exact balFld_keyFree _
    | decide
    | with_reducible refine Sealed.foldl ?_ (fun u x => ?_)
    | with_reducible refine Sealed.foldl_fst ?_ (fun u x => ?_)
    | with_reducible apply sealedParts_of
    | intro _
    | with_reducible refine Sealed.of_eq (by assumption) ?_
    | with_reducible refine Sealed.of_eq_snd (by assumption) ?_
    | simp only [sealed_mk]
    | split

theorem State.balance_sealed {r s : State} (h : r.Sealed s) (upsets : List Upset) : r.Sealed (State.balance s upsets) := by
  unfold State.balance
  repeat' first
    | with_reducible assumption
    | with_reducible exact Sealed.refl _
    | with_reducible apply Sealed.ite
    | with_reducible apply mark_sealed
    | with_reducible apply wr_sealed
    | with_reducible apply raisePf_sealed
    | with_reducible apply mcLog_sealed
    | rw [List.foldl_cons]
    | rw [List.foldl_nil]
    | exact Fld.keyFree rfl
    | exact Hid.keyFree rfl
    | exact balFld_keyFree _
    | decide
    | with_reducible refine Sealed.foldl ?_ (fun u x => ?_)
    | with_reducible refine Sealed.foldl_fst ?_ (fun u x => ?_)
    | with_reducible apply sealedParts_of
    | intro _
    | with_reducible refine Sealed.of_eq (by assumption) ?_
    | with_reducible refine Sealed.of_eq_snd (by assumption) ?_
    | simp only [sealed_mk]
    | split

theorem State.correct_sealed {r s : State} (h : r.Sealed s) : r.Sealed (State.correct s) := by
  unfold State.correct
  repeat' first
    | with_reducible assumption
    | with_reducible exact Sealed.refl _
    | with_reducible apply Sealed.ite
    | with_reducible apply balAction_sealed
    | rw [List.foldl_cons]
    | rw [List.foldl_nil]
    | exact Fld.keyFree rfl
    | exact Hid.keyFree rfl
    | exact balFld_keyFree _
    | decide
    | with_reducible refine Sealed.foldl ?_ (fun u x => ?_)
    | with_reducible refine Sealed.foldl_fst ?_ (fun u x => ?_)
    | with_reducible apply sealedParts_of
    | intro _
    | with_reducible refine Sealed.of_eq (by assumption) ?_
    | with_reducible refine Sealed.of_eq_snd (by assumption) ?_
    | simp only [sealed_mk]
    | split

theorem State.applySizes_sealed {r s : State} (h : r.Sealed s) (old : List (ℕ × ℕ)) : r.Sealed (State.applySizes s old) := by
  unfold State.applySizes
  repeat' first
    | with_reducible assumption
    | with_reducible exact Sealed.refl _
    | with_reducible apply Sealed.ite
    | with_reducible apply settleSize_sealed
    | with_reducible apply sizeRefused_sealed
    | with_reducible apply applyAssign_sealed
    | rw [List.foldl_cons]
    | rw [List.foldl_nil]
    | exact Fld.keyFree rfl
    | exact Hid.keyFree rfl
    | exact balFld_keyFree _
    | decide
    | with_reducible refine Sealed.foldl ?_ (fun u x => ?_)
    | with_reducible refine Sealed.foldl_fst ?_ (fun u x => ?_)
    | with_reducible apply sealedParts_of
    | intro _
    | with_reducible refine Sealed.of_eq (by assumption) ?_
    | with_reducible refine Sealed.of_eq_snd (by assumption) ?_
    | simp only [sealed_mk]
    | split

theorem State.bankEnter_sealed {r s : State} (h : r.Sealed s) (k : ℕ) : r.Sealed (State.bankEnter s k) := by
  unfold State.bankEnter
  repeat' first
    | with_reducible assumption
    | with_reducible exact Sealed.refl _
    | with_reducible apply Sealed.ite
    | with_reducible apply wr_sealed
    | with_reducible apply mark_sealed
    | with_reducible apply setH_sealed
    | with_reducible apply syncBusy_sealed
    | with_reducible apply setEngine_sealed
    | rw [List.foldl_cons]
    | rw [List.foldl_nil]
    | exact Fld.keyFree rfl
    | exact Hid.keyFree rfl
    | exact balFld_keyFree _
    | decide
    | with_reducible refine Sealed.foldl ?_ (fun u x => ?_)
    | with_reducible refine Sealed.foldl_fst ?_ (fun u x => ?_)
    | with_reducible apply sealedParts_of
    | intro _
    | with_reducible refine Sealed.of_eq (by assumption) ?_
    | with_reducible refine Sealed.of_eq_snd (by assumption) ?_
    | simp only [sealed_mk]
    | split

theorem State.applyBank_sealed {r s : State} (h : r.Sealed s) (k : ℕ) : r.Sealed (State.applyBank s k) := by
  unfold State.applyBank
  repeat' first
    | with_reducible assumption
    | with_reducible exact Sealed.refl _
    | with_reducible apply Sealed.ite
    | with_reducible apply fnErr_sealed
    | with_reducible apply mark_sealed
    | with_reducible apply endBank_sealed
    | with_reducible apply bankEnter_sealed
    | exact Fld.keyFree rfl
    | exact Hid.keyFree rfl
    | exact balFld_keyFree _
    | decide
    | with_reducible apply sealedParts_of
    | intro _
    | with_reducible refine Sealed.of_eq (by assumption) ?_
    | with_reducible refine Sealed.of_eq_snd (by assumption) ?_
    | simp only [sealed_mk]
    | split

theorem State.applyShares_sealed {r s : State} (h : r.Sealed s) : r.Sealed (State.applyShares s) := by
  unfold State.applyShares
  repeat' first
    | with_reducible assumption
    | with_reducible exact Sealed.refl _
    | with_reducible apply Sealed.ite
    | with_reducible apply mark_sealed
    | with_reducible apply setH_sealed
    | rw [List.foldl_cons]
    | rw [List.foldl_nil]
    | exact Fld.keyFree rfl
    | exact Hid.keyFree rfl
    | exact balFld_keyFree _
    | decide
    | with_reducible refine Sealed.foldl ?_ (fun u x => ?_)
    | with_reducible refine Sealed.foldl_fst ?_ (fun u x => ?_)
    | with_reducible apply sealedParts_of
    | intro _
    | with_reducible refine Sealed.of_eq (by assumption) ?_
    | with_reducible refine Sealed.of_eq_snd (by assumption) ?_
    | simp only [sealed_mk]
    | split

theorem State.applyTags_sealed {r s : State} (h : r.Sealed s) : r.Sealed (State.applyTags s) := by
  unfold State.applyTags
  repeat' first
    | with_reducible assumption
    | with_reducible exact Sealed.refl _
    | with_reducible apply Sealed.ite
    | with_reducible apply mark_sealed
    | with_reducible apply wr_sealed
    | rw [List.foldl_cons]
    | rw [List.foldl_nil]
    | exact Fld.keyFree rfl
    | exact Hid.keyFree rfl
    | exact balFld_keyFree _
    | decide
    | with_reducible refine Sealed.foldl ?_ (fun u x => ?_)
    | with_reducible refine Sealed.foldl_fst ?_ (fun u x => ?_)
    | with_reducible apply sealedParts_of
    | intro _
    | with_reducible refine Sealed.of_eq (by assumption) ?_
    | with_reducible refine Sealed.of_eq_snd (by assumption) ?_
    | simp only [sealed_mk]
    | split

theorem State.applyRetire_sealed {r s : State} (h : r.Sealed s) (k : ℕ) : r.Sealed (State.applyRetire s k) := by
  unfold State.applyRetire
  repeat' first
    | with_reducible assumption
    | with_reducible exact Sealed.refl _
    | with_reducible apply Sealed.ite
    | with_reducible apply wr_sealed
    | with_reducible apply setH_sealed
    | with_reducible apply mark_sealed
    | with_reducible apply endBank_sealed
    | exact Fld.keyFree rfl
    | exact Hid.keyFree rfl
    | exact balFld_keyFree _
    | decide
    | with_reducible apply sealedParts_of
    | intro _
    | with_reducible refine Sealed.of_eq (by assumption) ?_
    | with_reducible refine Sealed.of_eq_snd (by assumption) ?_
    | simp only [sealed_mk]
    | split

theorem State.applyBay_sealed {r s : State} (h : r.Sealed s) (d : ℕ) : r.Sealed (State.applyBay s d) := by
  unfold State.applyBay
  repeat' first
    | with_reducible assumption
    | with_reducible exact Sealed.refl _
    | with_reducible apply Sealed.ite
    | with_reducible apply setH_sealed
    | with_reducible apply wr_sealed
    | rw [List.foldl_cons]
    | rw [List.foldl_nil]
    | exact Fld.keyFree rfl
    | exact Hid.keyFree rfl
    | exact balFld_keyFree _
    | decide
    | with_reducible refine Sealed.foldl ?_ (fun u x => ?_)
    | with_reducible refine Sealed.foldl_fst ?_ (fun u x => ?_)
    | with_reducible apply sealedParts_of
    | intro _
    | with_reducible refine Sealed.of_eq (by assumption) ?_
    | with_reducible refine Sealed.of_eq_snd (by assumption) ?_
    | simp only [sealed_mk]
    | split

theorem State.freeCodebooks_sealed {r s : State} (h : r.Sealed s) : r.Sealed (State.freeCodebooks s) := by
  unfold State.freeCodebooks
  repeat' first
    | with_reducible assumption
    | with_reducible exact Sealed.refl _
    | with_reducible apply Sealed.ite
    | with_reducible apply lateDone_sealed
    | with_reducible apply wr_sealed
    | rw [List.foldl_cons]
    | rw [List.foldl_nil]
    | exact Fld.keyFree rfl
    | exact Hid.keyFree rfl
    | exact balFld_keyFree _
    | decide
    | with_reducible refine Sealed.foldl ?_ (fun u x => ?_)
    | with_reducible refine Sealed.foldl_fst ?_ (fun u x => ?_)
    | with_reducible apply sealedParts_of
    | intro _
    | with_reducible refine Sealed.of_eq (by assumption) ?_
    | with_reducible refine Sealed.of_eq_snd (by assumption) ?_
    | simp only [sealed_mk]
    | split

theorem State.applyStaged_sealed {r s : State} (h : r.Sealed s) : r.Sealed (State.applyStaged s) := by
  unfold State.applyStaged
  repeat' first
    | with_reducible assumption
    | with_reducible exact Sealed.refl _
    | with_reducible apply Sealed.ite
    | with_reducible apply disposeQuarter_sealed
    | with_reducible apply applySizes_sealed
    | with_reducible apply applyFences_sealed
    | with_reducible apply applyBank_sealed
    | with_reducible apply applyFabric_sealed
    | with_reducible apply setH_sealed
    | with_reducible apply applyCredits_sealed
    | with_reducible apply applyTags_sealed
    | with_reducible apply applyShares_sealed
    | with_reducible apply applySelects_sealed
    | with_reducible apply applyRetire_sealed
    | with_reducible apply applyBay_sealed
    | with_reducible apply setLevel_sealed
    | with_reducible apply endRestricted_sealed
    | with_reducible apply removeUnits_sealed
    | with_reducible apply freeCodebooks_sealed
    | rw [List.foldl_cons]
    | rw [List.foldl_nil]
    | exact Fld.keyFree rfl
    | exact Hid.keyFree rfl
    | exact balFld_keyFree _
    | decide
    | with_reducible refine Sealed.foldl ?_ (fun u x => ?_)
    | with_reducible refine Sealed.foldl_fst ?_ (fun u x => ?_)
    | with_reducible apply sealedParts_of
    | intro _
    | with_reducible refine Sealed.of_eq (by assumption) ?_
    | with_reducible refine Sealed.of_eq_snd (by assumption) ?_
    | simp only [sealed_mk]
    | split

theorem State.thermal_sealed {r s : State} (h : r.Sealed s) (vmin : ℕ) (tmax : ℕ) : r.Sealed (State.thermal s vmin tmax) := by
  unfold State.thermal
  repeat' first
    | with_reducible assumption
    | with_reducible exact Sealed.refl _
    | with_reducible apply Sealed.ite
    | with_reducible apply wr_sealed
    | with_reducible apply setH_sealed
    | with_reducible apply mcLog_sealed
    | with_reducible apply mark_sealed
    | exact Fld.keyFree rfl
    | exact Hid.keyFree rfl
    | exact balFld_keyFree _
    | decide
    | with_reducible apply sealedParts_of
    | intro _
    | with_reducible refine Sealed.of_eq (by assumption) ?_
    | with_reducible refine Sealed.of_eq_snd (by assumption) ?_
    | simp only [sealed_mk]
    | split

theorem State.allotQ_sealed {r s : State} (h : r.Sealed s) (b : ℕ) (f : ℕ) (metered : List ℕ) (q : ℕ) : r.Sealed (State.allotQ s b f metered q) := by
  unfold State.allotQ
  repeat' first
    | with_reducible assumption
    | with_reducible exact Sealed.refl _
    | with_reducible apply Sealed.ite
    | with_reducible apply mark_sealed
    | with_reducible apply setH_sealed
    | with_reducible apply wr_sealed
    | exact Fld.keyFree rfl
    | exact Hid.keyFree rfl
    | exact balFld_keyFree _
    | decide
    | with_reducible apply sealedParts_of
    | intro _
    | with_reducible refine Sealed.of_eq (by assumption) ?_
    | with_reducible refine Sealed.of_eq_snd (by assumption) ?_
    | simp only [sealed_mk]
    | split

theorem State.loadBudget_sealed {r s : State} (h : r.Sealed s) (late : Bool) (metered : List ℕ) (modMetered : ℕ) (fixed : ℕ) (vmin : ℕ) (tmax : ℕ) :
    r.Sealed (State.loadBudget s late metered modMetered fixed vmin tmax) := by
  unfold State.loadBudget
  repeat' first
    | with_reducible assumption
    | with_reducible exact Sealed.refl _
    | with_reducible apply Sealed.ite
    | with_reducible apply mcLog_sealed
    | with_reducible apply wr_sealed
    | with_reducible apply thermal_sealed
    | with_reducible apply setH_sealed
    | with_reducible apply allotQ_sealed
    | rw [List.foldl_cons]
    | rw [List.foldl_nil]
    | exact Fld.keyFree rfl
    | exact Hid.keyFree rfl
    | exact balFld_keyFree _
    | decide
    | with_reducible refine Sealed.foldl ?_ (fun u x => ?_)
    | with_reducible refine Sealed.foldl_fst ?_ (fun u x => ?_)
    | with_reducible apply sealedParts_of
    | intro _
    | with_reducible refine Sealed.of_eq (by assumption) ?_
    | with_reducible refine Sealed.of_eq_snd (by assumption) ?_
    | simp only [sealed_mk]
    | split

theorem State.rebuildOp_sealed {r s : State} (h : r.Sealed s) (id : ℕ) : r.Sealed (State.rebuildOp s id) := by
  unfold State.rebuildOp
  repeat' first
    | with_reducible assumption
    | with_reducible exact Sealed.refl _
    | with_reducible apply Sealed.ite
    | with_reducible apply Sealed.ite_fst
    | with_reducible apply vread_sealed
    | with_reducible apply setOp_sealed
    | with_reducible apply finish_sealed
    | with_reducible apply mark_sealed
    | exact Fld.keyFree rfl
    | exact Hid.keyFree rfl
    | exact balFld_keyFree _
    | decide
    | with_reducible apply sealedParts_of
    | intro _
    | with_reducible refine Sealed.of_eq (by assumption) ?_
    | with_reducible refine Sealed.of_eq_snd (by assumption) ?_
    | simp only [sealed_mk]
    | split

theorem State.rebuildQueues_sealed {r s : State} (h : r.Sealed s) : r.Sealed (State.rebuildQueues s) := by
  unfold State.rebuildQueues
  repeat' first
    | with_reducible assumption
    | with_reducible exact Sealed.refl _
    | with_reducible apply Sealed.ite
    | with_reducible apply rebuildOp_sealed
    | with_reducible apply wr_sealed
    | rw [List.foldl_cons]
    | rw [List.foldl_nil]
    | exact Fld.keyFree rfl
    | exact Hid.keyFree rfl
    | exact balFld_keyFree _
    | decide
    | with_reducible refine Sealed.foldl ?_ (fun u x => ?_)
    | with_reducible refine Sealed.foldl_fst ?_ (fun u x => ?_)
    | with_reducible apply sealedParts_of
    | intro _
    | with_reducible refine Sealed.of_eq (by assumption) ?_
    | with_reducible refine Sealed.of_eq_snd (by assumption) ?_
    | simp only [sealed_mk]
    | split

theorem State.chargeBank_sealed {r s : State} (h : r.Sealed s) (q : ℕ) : r.Sealed (State.chargeBank s q) := by
  unfold State.chargeBank
  repeat' first
    | with_reducible assumption
    | with_reducible exact Sealed.refl _
    | with_reducible apply Sealed.ite
    | with_reducible apply setH_sealed
    | with_reducible apply addH_sealed
    | with_reducible apply wr_sealed
    | exact Fld.keyFree rfl
    | exact Hid.keyFree rfl
    | exact balFld_keyFree _
    | decide
    | with_reducible apply sealedParts_of
    | intro _
    | with_reducible refine Sealed.of_eq (by assumption) ?_
    | with_reducible refine Sealed.of_eq_snd (by assumption) ?_
    | simp only [sealed_mk]
    | split

theorem State.clearAer_sealed {r s : State} (h : r.Sealed s) (p : ℕ) : r.Sealed (State.clearAer s p) := by
  unfold State.clearAer
  repeat' first
    | with_reducible assumption
    | with_reducible exact Sealed.refl _
    | with_reducible apply Sealed.ite
    | with_reducible apply setH_sealed
    | rw [List.foldl_cons]
    | rw [List.foldl_nil]
    | exact Fld.keyFree rfl
    | exact Hid.keyFree rfl
    | exact balFld_keyFree _
    | decide
    | with_reducible refine Sealed.foldl ?_ (fun u x => ?_)
    | with_reducible refine Sealed.foldl_fst ?_ (fun u x => ?_)
    | with_reducible apply sealedParts_of
    | intro _
    | with_reducible refine Sealed.of_eq (by assumption) ?_
    | with_reducible refine Sealed.of_eq_snd (by assumption) ?_
    | simp only [sealed_mk]
    | split

theorem State.beginTurn_sealed {r s : State} (h : r.Sealed s) : r.Sealed (State.beginTurn s) := by
  unfold State.beginTurn
  repeat' first
    | with_reducible assumption
    | with_reducible exact Sealed.refl _
    | with_reducible apply Sealed.ite
    | with_reducible apply setH_sealed
    | with_reducible apply wr_sealed
    | with_reducible apply clearAer_sealed
    | with_reducible apply mark_sealed
    | with_reducible apply zeroRegs_sealed
    | with_reducible apply settleUnits_sealed
    | with_reducible apply releaseQuarter_sealed
    | with_reducible apply chargeBank_sealed
    | with_reducible apply recheckHeaders_sealed
    | rw [List.foldl_cons]
    | rw [List.foldl_nil]
    | exact Fld.keyFree rfl
    | exact Hid.keyFree rfl
    | exact balFld_keyFree _
    | decide
    | with_reducible refine Sealed.foldl ?_ (fun u x => ?_)
    | with_reducible refine Sealed.foldl_fst ?_ (fun u x => ?_)
    | with_reducible apply sealedParts_of
    | intro _
    | with_reducible refine Sealed.of_eq (by assumption) ?_
    | with_reducible refine Sealed.of_eq_snd (by assumption) ?_
    | simp only [sealed_mk]
    | split

theorem State.parkDeadline_sealed {r s : State} (h : r.Sealed s) : r.Sealed (State.parkDeadline s) := by
  unfold State.parkDeadline
  repeat' first
    | with_reducible assumption
    | with_reducible exact Sealed.refl _
    | with_reducible apply Sealed.ite
    | with_reducible apply deadlineOp_sealed
    | rw [List.foldl_cons]
    | rw [List.foldl_nil]
    | exact Fld.keyFree rfl
    | exact Hid.keyFree rfl
    | exact balFld_keyFree _
    | decide
    | with_reducible refine Sealed.foldl ?_ (fun u x => ?_)
    | with_reducible refine Sealed.foldl_fst ?_ (fun u x => ?_)
    | with_reducible apply sealedParts_of
    | intro _
    | with_reducible refine Sealed.of_eq (by assumption) ?_
    | with_reducible refine Sealed.of_eq_snd (by assumption) ?_
    | simp only [sealed_mk]
    | split

theorem State.schedStep_sealed {r s : State} (h : r.Sealed s) (k : ℕ) (hk : k ≠ 7) : r.Sealed (State.schedStep s k) := by
  unfold State.schedStep
  split
  · exact sweep_sealed (goTo_sealed h _)
  · exact parkDeadline_sealed (goTo_sealed h _)
  · exact drain_sealed (goTo_sealed h _)
  · exact balance_sealed (goTo_sealed h _) _
  · exact correct_sealed (goTo_sealed h _)
  · exact applyStaged_sealed (goTo_sealed h _)
  · exact absurd rfl hk
  · exact loadBudget_sealed (goTo_sealed h _) _ _ _ _ _ _
  · exact rebuildQueues_sealed (goTo_sealed h _)

/-- The steps before the key window's change no key. -/
theorem State.schedTo_sealed {r s : State} (h : r.Sealed s) (k : ℕ) (hk : k < 7) : r.Sealed (State.schedTo s k) := by
  unfold State.schedTo
  have key : ∀ (l : List ℕ) (u : State), (∀ i ∈ l, i + 1 ≠ 7) → r.Sealed u →
      r.Sealed (l.foldl (fun (s : State) (i : ℕ) => if s.h .sched 0 = i then (s.schedStep (i + 1)).setH .sched 0 (i + 1) else s) u) := by
    intro l
    induction l with
    | nil => exact fun u _ hu => hu
    | cons x l ih =>
      intro u hl hu
      rw [List.foldl_cons]
      refine ih _ (fun i hi => hl i (List.mem_cons_of_mem _ hi)) ?_
      split
      · exact setH_sealed (schedStep_sealed hu _ (hl x List.mem_cons_self)) _ _ _ (Hid.keyFree rfl)
      · exact hu
  refine key _ _ (fun i hi => ?_) h
  have := List.mem_range.mp hi
  omega

theorem State.schedDo_sealed {r s : State} (h : r.Sealed s) (k : ℕ) (f : State → State) (hf : ∀ (u : State), u.Sealed (f u)) (hk : k < 7) :
    r.Sealed (State.schedDo s k f) := by
  unfold State.schedDo
  split
  · exact h
  · exact setH_sealed (Sealed.trans (schedTo_sealed h _ (by omega)) (hf _)) _ _ _ (Hid.keyFree rfl)

theorem execSweepStart_sealed {s : State} : s.SealedNext (execSweepStart s) := by
  unfold execSweepStart
  repeat' first
    | with_reducible assumption
    | with_reducible exact Sealed.refl _
    | with_reducible apply SealedNext.next
    | with_reducible apply SealedNext.ite
    | with_reducible apply Sealed.ite
    | with_reducible apply schedTo_sealed
    | exact Fld.keyFree rfl
    | exact Hid.keyFree rfl
    | exact balFld_keyFree _
    | decide
    | with_reducible apply sealedParts_of
    | intro _
    | with_reducible refine Sealed.of_eq (by assumption) ?_
    | with_reducible refine Sealed.of_eq_snd (by assumption) ?_
    | simp only [sealed_mk]
    | split

theorem execPark_sealed (id : ℕ) (t : ℕ) {s : State} : s.SealedNext (execPark id t s) := by
  unfold execPark
  repeat' first
    | with_reducible assumption
    | with_reducible exact Sealed.refl _
    | with_reducible apply SealedNext.next
    | with_reducible apply SealedNext.ite
    | with_reducible apply Sealed.ite
    | with_reducible apply goTo_sealed
    | with_reducible apply parkNow_sealed
    | exact Fld.keyFree rfl
    | exact Hid.keyFree rfl
    | exact balFld_keyFree _
    | decide
    | with_reducible apply sealedParts_of
    | intro _
    | with_reducible refine Sealed.of_eq (by assumption) ?_
    | with_reducible refine Sealed.of_eq_snd (by assumption) ?_
    | simp only [sealed_mk]
    | split

theorem execParkDeadline_sealed {s : State} : s.SealedNext (execParkDeadline s) := by
  unfold execParkDeadline
  repeat' first
    | with_reducible assumption
    | with_reducible exact Sealed.refl _
    | with_reducible apply SealedNext.next
    | with_reducible apply SealedNext.ite
    | with_reducible apply Sealed.ite
    | with_reducible apply schedTo_sealed
    | exact Fld.keyFree rfl
    | exact Hid.keyFree rfl
    | exact balFld_keyFree _
    | decide
    | with_reducible apply sealedParts_of
    | intro _
    | with_reducible refine Sealed.of_eq (by assumption) ?_
    | with_reducible refine Sealed.of_eq_snd (by assumption) ?_
    | simp only [sealed_mk]
    | split

theorem execDrainDeadline_sealed {s : State} : s.SealedNext (execDrainDeadline s) := by
  unfold execDrainDeadline
  repeat' first
    | with_reducible assumption
    | with_reducible exact Sealed.refl _
    | with_reducible apply SealedNext.next
    | with_reducible apply SealedNext.ite
    | with_reducible apply Sealed.ite
    | with_reducible apply schedTo_sealed
    | exact Fld.keyFree rfl
    | exact Hid.keyFree rfl
    | exact balFld_keyFree _
    | decide
    | with_reducible apply sealedParts_of
    | intro _
    | with_reducible refine Sealed.of_eq (by assumption) ?_
    | with_reducible refine Sealed.of_eq_snd (by assumption) ?_
    | simp only [sealed_mk]
    | split

theorem execBalanceCheck_sealed (upsets : List Upset) {s : State} : s.SealedNext (execBalanceCheck upsets s) := by
  unfold execBalanceCheck
  repeat' first
    | with_reducible assumption
    | with_reducible exact Sealed.refl _
    | with_reducible apply SealedNext.next
    | with_reducible apply SealedNext.ite
    | with_reducible apply Sealed.ite
    | with_reducible apply schedTo_sealed
    | with_reducible apply schedDo_sealed
    | with_reducible apply balance_sealed
    | with_reducible apply goTo_sealed
    | exact Fld.keyFree rfl
    | exact Hid.keyFree rfl
    | exact balFld_keyFree _
    | decide
    | with_reducible apply sealedParts_of
    | intro _
    | with_reducible refine Sealed.of_eq (by assumption) ?_
    | with_reducible refine Sealed.of_eq_snd (by assumption) ?_
    | simp only [sealed_mk]
    | split

theorem execStagedConfigurationApply_sealed {s : State} : s.SealedNext (execStagedConfigurationApply s) := by
  unfold execStagedConfigurationApply
  repeat' first
    | with_reducible assumption
    | with_reducible exact Sealed.refl _
    | with_reducible apply SealedNext.next
    | with_reducible apply SealedNext.ite
    | with_reducible apply Sealed.ite
    | with_reducible apply schedTo_sealed
    | exact Fld.keyFree rfl
    | exact Hid.keyFree rfl
    | exact balFld_keyFree _
    | decide
    | with_reducible apply sealedParts_of
    | intro _
    | with_reducible refine Sealed.of_eq (by assumption) ?_
    | with_reducible refine Sealed.of_eq_snd (by assumption) ?_
    | simp only [sealed_mk]
    | split

theorem execSnapshotLatch_sealed (src : ℕ) (t : ℕ) {s : State} : s.SealedNext (execSnapshotLatch src t s) := by
  unfold execSnapshotLatch
  repeat' first
    | with_reducible assumption
    | with_reducible exact Sealed.refl _
    | with_reducible apply SealedNext.next
    | with_reducible apply SealedNext.ite
    | with_reducible apply Sealed.ite
    | with_reducible apply goTo_sealed
    | with_reducible apply setH_sealed
    | with_reducible apply latch_sealed
    | with_reducible apply schedTo_sealed
    | exact Fld.keyFree rfl
    | exact Hid.keyFree rfl
    | exact balFld_keyFree _
    | decide
    | with_reducible apply sealedParts_of
    | intro _
    | with_reducible refine Sealed.of_eq (by assumption) ?_
    | with_reducible refine Sealed.of_eq_snd (by assumption) ?_
    | simp only [sealed_mk]
    | split

theorem State.cleanL2_sealed {r s : State} (h : r.Sealed s) (l : L2Line) : r.Sealed (State.cleanL2 s l) := by
  unfold State.cleanL2
  repeat' first
    | with_reducible assumption
    | with_reducible exact Sealed.refl _
    | with_reducible apply Sealed.ite
    | with_reducible apply Sealed.ite_fst
    | with_reducible apply vwriteL_sealed
    | with_reducible apply raiseVf_sealed
    | exact Fld.keyFree rfl
    | exact Hid.keyFree rfl
    | exact balFld_keyFree _
    | decide
    | with_reducible apply sealedParts_of
    | intro _
    | with_reducible refine Sealed.of_eq (by assumption) ?_
    | with_reducible refine Sealed.of_eq_snd (by assumption) ?_
    | simp only [sealed_mk]
    | split

theorem State.dropL2_sealed {r s : State} (h : r.Sealed s) (p : L2Line → Bool) : r.Sealed (State.dropL2 s p) := by
  unfold State.dropL2
  repeat' first
    | with_reducible assumption
    | with_reducible exact Sealed.refl _
    | with_reducible apply Sealed.ite
    | exact Fld.keyFree rfl
    | exact Hid.keyFree rfl
    | exact balFld_keyFree _
    | decide
    | with_reducible apply sealedParts_of
    | intro _
    | with_reducible refine Sealed.of_eq (by assumption) ?_
    | with_reducible refine Sealed.of_eq_snd (by assumption) ?_
    | simp only [sealed_mk]
    | split

theorem State.flushL2_sealed {r s : State} (h : r.Sealed s) (p : L2Line → Bool) : r.Sealed (State.flushL2 s p) := by
  unfold State.flushL2
  repeat' first
    | with_reducible assumption
    | with_reducible exact Sealed.refl _
    | with_reducible apply Sealed.ite
    | with_reducible apply dropL2_sealed
    | with_reducible apply cleanL2_sealed
    | rw [List.foldl_cons]
    | rw [List.foldl_nil]
    | exact Fld.keyFree rfl
    | exact Hid.keyFree rfl
    | exact balFld_keyFree _
    | decide
    | with_reducible refine Sealed.foldl ?_ (fun u x => ?_)
    | with_reducible refine Sealed.foldl_fst ?_ (fun u x => ?_)
    | with_reducible apply sealedParts_of
    | intro _
    | with_reducible refine Sealed.of_eq (by assumption) ?_
    | with_reducible refine Sealed.of_eq_snd (by assumption) ?_
    | simp only [sealed_mk]
    | split

theorem State.setCores_sealed {r s : State} (h : r.Sealed s) (q : ℕ) : r.Sealed (State.setCores s q) := by
  unfold State.setCores
  repeat' first
    | with_reducible assumption
    | with_reducible exact Sealed.refl _
    | with_reducible apply Sealed.ite
    | with_reducible apply flushL2_sealed
    | with_reducible apply wr_sealed
    | exact Fld.keyFree rfl
    | exact Hid.keyFree rfl
    | exact balFld_keyFree _
    | decide
    | with_reducible apply sealedParts_of
    | intro _
    | with_reducible refine Sealed.of_eq (by assumption) ?_
    | with_reducible refine Sealed.of_eq_snd (by assumption) ?_
    | simp only [sealed_mk]
    | split

theorem State.holdCores_sealed {r s : State} (h : r.Sealed s) : r.Sealed (State.holdCores s) := by
  unfold State.holdCores
  repeat' first
    | with_reducible assumption
    | with_reducible exact Sealed.refl _
    | with_reducible apply Sealed.ite
    | with_reducible apply setCores_sealed
    | with_reducible apply wr_sealed
    | rw [List.foldl_cons]
    | rw [List.foldl_nil]
    | exact Fld.keyFree rfl
    | exact Hid.keyFree rfl
    | exact balFld_keyFree _
    | decide
    | with_reducible refine Sealed.foldl ?_ (fun u x => ?_)
    | with_reducible refine Sealed.foldl_fst ?_ (fun u x => ?_)
    | with_reducible apply sealedParts_of
    | intro _
    | with_reducible refine Sealed.of_eq (by assumption) ?_
    | with_reducible refine Sealed.of_eq_snd (by assumption) ?_
    | simp only [sealed_mk]
    | split

theorem State.clearBits_sealed {r s : State} (h : r.Sealed s) (f : Fld) (i : ℕ) (v : ℕ) (hff : f.keyed = false) : r.Sealed (State.clearBits s f i v)
    := by
  unfold State.clearBits
  repeat' first
    | with_reducible assumption
    | with_reducible exact Sealed.refl _
    | with_reducible apply Sealed.ite
    | with_reducible apply setH_sealed
    | with_reducible apply wr_sealed
    | exact Fld.keyFree rfl
    | exact Hid.keyFree rfl
    | exact balFld_keyFree _
    | decide
    | with_reducible apply sealedParts_of
    | intro _
    | with_reducible refine Sealed.of_eq (by assumption) ?_
    | with_reducible refine Sealed.of_eq_snd (by assumption) ?_
    | simp only [sealed_mk]
    | split

theorem State.fldWrite_sealed {r s : State} (h : r.Sealed s) (f : Fld) (i : ℕ) (v : ℕ) : r.Sealed (State.fldWrite s f i v) := by
  unfold State.fldWrite
  split
  · exact wr_sealed h _ _ _ (Fld.keyed_acc (by assumption) (by decide))
  · exact clearBits_sealed h _ _ _ (Fld.keyed_acc (by assumption) (by decide))
  · exact wr_sealed h _ _ _ (Fld.keyed_acc (by assumption) (by decide))
  all_goals exact h

theorem State.unitRequest_sealed {r s : State} (h : r.Sealed s) (lot : Bool) (i : ℕ) (req : ℕ) (granted : Bool) : r.Sealed (State.unitRequest s lot i
    req granted) := by
  unfold State.unitRequest
  repeat' first
    | with_reducible assumption
    | with_reducible exact Sealed.refl _
    | with_reducible apply Sealed.ite
    | with_reducible apply fnErr_sealed
    | with_reducible apply wr_sealed
    | exact Fld.keyFree rfl
    | exact Hid.keyFree rfl
    | exact balFld_keyFree _
    | decide
    | with_reducible apply sealedParts_of
    | intro _
    | with_reducible refine Sealed.of_eq (by assumption) ?_
    | with_reducible refine Sealed.of_eq_snd (by assumption) ?_
    | simp only [sealed_mk]
    | split

theorem State.stopAll_sealed {r s : State} (h : r.Sealed s) : r.Sealed (State.stopAll s) := by
  unfold State.stopAll
  repeat' first
    | with_reducible assumption
    | with_reducible exact Sealed.refl _
    | with_reducible apply Sealed.ite
    | with_reducible apply setH_sealed
    | rw [List.foldl_cons]
    | rw [List.foldl_nil]
    | exact Fld.keyFree rfl
    | exact Hid.keyFree rfl
    | exact balFld_keyFree _
    | decide
    | with_reducible refine Sealed.foldl ?_ (fun u x => ?_)
    | with_reducible refine Sealed.foldl_fst ?_ (fun u x => ?_)
    | with_reducible apply sealedParts_of
    | intro _
    | with_reducible refine Sealed.of_eq (by assumption) ?_
    | with_reducible refine Sealed.of_eq_snd (by assumption) ?_
    | simp only [sealed_mk]
    | split

theorem State.startQuiesce_sealed {r s : State} (h : r.Sealed s) (cause : ℕ) : r.Sealed (State.startQuiesce s cause) := by
  unfold State.startQuiesce
  repeat' first
    | with_reducible assumption
    | with_reducible exact Sealed.refl _
    | with_reducible apply Sealed.ite
    | with_reducible apply setH_sealed
    | with_reducible apply stopAll_sealed
    | exact Fld.keyFree rfl
    | exact Hid.keyFree rfl
    | exact balFld_keyFree _
    | decide
    | with_reducible apply sealedParts_of
    | intro _
    | with_reducible refine Sealed.of_eq (by assumption) ?_
    | with_reducible refine Sealed.of_eq_snd (by assumption) ?_
    | simp only [sealed_mk]
    | split

theorem State.regAfter_sealed {r0 s : State} (h : r0.Sealed s) (old : State) (r : Reg) (i : ℕ) (val : ℕ) (who : ℕ) (mc : Bool) : r0.Sealed
    (State.regAfter old s r i val who mc) := by
  unfold State.regAfter
  repeat' first
    | with_reducible assumption
    | with_reducible exact Sealed.refl _
    | with_reducible apply Sealed.ite
    | with_reducible apply Sealed.ite_fst
    | with_reducible apply mark_sealed
    | with_reducible apply wr_sealed
    | with_reducible apply setH_sealed
    | with_reducible apply syncPending_sealed
    | with_reducible apply fenceReq_sealed
    | with_reducible apply histClear_sealed
    | with_reducible apply unitRequest_sealed
    | with_reducible apply memRetire_sealed
    | with_reducible apply flushRecords_sealed
    | with_reducible apply badFrame_sealed
    | with_reducible apply askWithdraw_sealed
    | with_reducible apply askService_sealed
    | with_reducible apply requestRetire_sealed
    | with_reducible apply giveVerdict_sealed
    | with_reducible apply setCores_sealed
    | with_reducible apply startQuiesce_sealed
    | exact Fld.keyFree rfl
    | exact Hid.keyFree rfl
    | exact balFld_keyFree _
    | decide
    | with_reducible apply sealedParts_of
    | intro _
    | with_reducible refine Sealed.of_eq (by assumption) ?_
    | with_reducible refine Sealed.of_eq_snd (by assumption) ?_
    | simp only [sealed_mk]
    | split

theorem State.regWrite_sealed {r0 s : State} (h : r0.Sealed s) (bits : ℕ) (who : ℕ) (mc : Bool) (r : Reg) (i : ℕ) (off : ℕ) (val : ℕ) : r0.Sealed
    (State.regWrite s bits who mc r i off val) := by
  unfold State.regWrite
  repeat' first
    | with_reducible assumption
    | with_reducible exact Sealed.refl _
    | with_reducible apply Sealed.ite
    | with_reducible apply fnErr_sealed
    | with_reducible apply fldWrite_sealed
    | with_reducible apply regAfter_sealed
    | rw [List.foldl_cons]
    | rw [List.foldl_nil]
    | exact Fld.keyFree rfl
    | exact Hid.keyFree rfl
    | exact balFld_keyFree _
    | decide
    | with_reducible refine Sealed.foldl ?_ (fun u x => ?_)
    | with_reducible refine Sealed.foldl_fst ?_ (fun u x => ?_)
    | with_reducible apply sealedParts_of
    | intro _
    | with_reducible refine Sealed.of_eq (by assumption) ?_
    | with_reducible refine Sealed.of_eq_snd (by assumption) ?_
    | simp only [sealed_mk]
    | split

theorem State.mcWrite_sealed {r s : State} (h : r.Sealed s) (off : ℕ) (val : ℕ) : r.Sealed (State.mcWrite s off val) := by
  unfold State.mcWrite
  repeat' first
    | with_reducible assumption
    | with_reducible exact Sealed.refl _
    | with_reducible apply Sealed.ite
    | with_reducible apply regWrite_sealed
    | with_reducible apply fnErr_sealed
    | exact Fld.keyFree rfl
    | exact Hid.keyFree rfl
    | exact balFld_keyFree _
    | decide
    | with_reducible apply sealedParts_of
    | intro _
    | with_reducible refine Sealed.of_eq (by assumption) ?_
    | with_reducible refine Sealed.of_eq_snd (by assumption) ?_
    | simp only [sealed_mk]
    | split

theorem State.serveMcRing_sealed {r s : State} (h : r.Sealed s) (y1 : ℕ) : r.Sealed (State.serveMcRing s y1) := by
  induction y1 generalizing s with
  | zero =>
    unfold State.serveMcRing
    repeat' first
      | with_reducible assumption
      | with_reducible exact Sealed.refl _
      | with_reducible apply Sealed.ite
      | with_reducible apply mcWrite_sealed
      | exact Fld.keyFree rfl
      | exact Hid.keyFree rfl
      | exact balFld_keyFree _
      | decide
      | with_reducible apply sealedParts_of
      | intro _
      | with_reducible refine Sealed.of_eq (by assumption) ?_
      | with_reducible refine Sealed.of_eq_snd (by assumption) ?_
      | simp only [sealed_mk]
      | split
  | succ n0 ih =>
    unfold State.serveMcRing
    repeat' first
      | with_reducible assumption
      | with_reducible exact Sealed.refl _
      | with_reducible apply Sealed.ite
      | with_reducible apply mcWrite_sealed
      | with_reducible apply ih
      | exact Fld.keyFree rfl
      | exact Hid.keyFree rfl
      | exact balFld_keyFree _
      | decide
      | with_reducible apply sealedParts_of
      | intro _
      | with_reducible refine Sealed.of_eq (by assumption) ?_
      | with_reducible refine Sealed.of_eq_snd (by assumption) ?_
      | simp only [sealed_mk]
      | split

theorem State.mcAsk_sealed {r s : State} (h : r.Sealed s) (off : ℕ) (val : ℕ) : r.Sealed (State.mcAsk s off val) := by
  unfold State.mcAsk
  repeat' first
    | with_reducible assumption
    | with_reducible exact Sealed.refl _
    | with_reducible apply Sealed.ite
    | with_reducible apply serveMcRing_sealed
    | exact Fld.keyFree rfl
    | exact Hid.keyFree rfl
    | exact balFld_keyFree _
    | decide
    | with_reducible apply sealedParts_of
    | intro _
    | with_reducible refine Sealed.of_eq (by assumption) ?_
    | with_reducible refine Sealed.of_eq_snd (by assumption) ?_
    | simp only [sealed_mk]
    | split

theorem State.busWrite_sealed {r s : State} (h : r.Sealed s) (a : Agent) (off : ℕ) (val : ℕ) : r.Sealed (State.busWrite s a off val) := by
  unfold State.busWrite
  repeat' first
    | with_reducible assumption
    | with_reducible exact Sealed.refl _
    | with_reducible apply Sealed.ite
    | with_reducible apply mcAsk_sealed
    | with_reducible apply regWrite_sealed
    | exact Fld.keyFree rfl
    | exact Hid.keyFree rfl
    | exact balFld_keyFree _
    | decide
    | with_reducible apply sealedParts_of
    | intro _
    | with_reducible refine Sealed.of_eq (by assumption) ?_
    | with_reducible refine Sealed.of_eq_snd (by assumption) ?_
    | simp only [sealed_mk]
    | split

theorem State.cpWrite_sealed {r s : State} (h : r.Sealed s) (off : ℕ) (val : ℕ) : r.Sealed (State.cpWrite s off val) := by
  unfold State.cpWrite
  repeat' first
    | with_reducible assumption
    | with_reducible exact Sealed.refl _
    | with_reducible apply Sealed.ite
    | with_reducible apply busWrite_sealed
    | exact Fld.keyFree rfl
    | exact Hid.keyFree rfl
    | exact balFld_keyFree _
    | decide
    | with_reducible apply sealedParts_of
    | intro _
    | with_reducible refine Sealed.of_eq (by assumption) ?_
    | with_reducible refine Sealed.of_eq_snd (by assumption) ?_
    | simp only [sealed_mk]
    | split

theorem State.fldRead_sealed {r s : State} (h : r.Sealed s) (f : Fld) (i : ℕ) (lo : ℕ) (n : ℕ) : r.Sealed (State.fldRead s f i lo n) := by
  unfold State.fldRead
  split
  · exact wr_sealed h _ _ _ (Fld.keyed_acc (And.left (by assumption)) (by decide))
  · exact h

theorem State.regRead_sealed {r0 s : State} (h : r0.Sealed s) (bits : ℕ) (who : ℕ) (r : Reg) (i : ℕ) (off : ℕ) (lo : ℕ) (n : ℕ) : r0.Sealed
    (State.regRead s bits who r i off lo n).1 := by
  unfold State.regRead
  repeat' first
    | with_reducible assumption
    | with_reducible exact Sealed.refl _
    | with_reducible apply Sealed.ite
    | with_reducible apply Sealed.ite_fst
    | with_reducible apply fnErr_sealed
    | with_reducible apply fldRead_sealed
    | rw [List.foldl_cons]
    | rw [List.foldl_nil]
    | exact Fld.keyFree rfl
    | exact Hid.keyFree rfl
    | exact balFld_keyFree _
    | decide
    | with_reducible refine Sealed.foldl ?_ (fun u x => ?_)
    | with_reducible refine Sealed.foldl_fst ?_ (fun u x => ?_)
    | with_reducible apply sealedParts_of
    | intro _
    | with_reducible refine Sealed.of_eq (by assumption) ?_
    | with_reducible refine Sealed.of_eq_snd (by assumption) ?_
    | simp only [sealed_mk]
    | split

theorem State.busRead_sealed {r s : State} (h : r.Sealed s) (a : Agent) (off : ℕ) (lo : ℕ) (n : ℕ) : r.Sealed (State.busRead s a off lo n).1 := by
  unfold State.busRead
  repeat' first
    | with_reducible assumption
    | with_reducible exact Sealed.refl _
    | with_reducible apply Sealed.ite
    | with_reducible apply Sealed.ite_fst
    | with_reducible apply regRead_sealed
    | exact Fld.keyFree rfl
    | exact Hid.keyFree rfl
    | exact balFld_keyFree _
    | decide
    | with_reducible apply sealedParts_of
    | intro _
    | with_reducible refine Sealed.of_eq (by assumption) ?_
    | with_reducible refine Sealed.of_eq_snd (by assumption) ?_
    | simp only [sealed_mk]
    | split

theorem State.done_sealed {r s : State} (h : r.Sealed s) (e : SubEntry) (status : ℕ) (res0 : ℕ) : r.Sealed (State.done s e status res0) := by
  unfold State.done
  repeat' first
    | with_reducible assumption
    | with_reducible exact Sealed.refl _
    | with_reducible apply Sealed.ite
    | with_reducible apply complete_sealed
    | exact Fld.keyFree rfl
    | exact Hid.keyFree rfl
    | exact balFld_keyFree _
    | decide
    | with_reducible apply sealedParts_of
    | intro _
    | with_reducible refine Sealed.of_eq (by assumption) ?_
    | with_reducible refine Sealed.of_eq_snd (by assumption) ?_
    | simp only [sealed_mk]
    | split

theorem State.doneWith_sealed {r s : State} (h : r.Sealed s) (e : SubEntry) (status : ℕ) (res0 : ℕ) : r.Sealed (State.doneWith s e status res0) := by
  unfold State.doneWith
  repeat' first
    | with_reducible assumption
    | with_reducible exact Sealed.refl _
    | with_reducible apply Sealed.ite
    | with_reducible apply setH_sealed
    | with_reducible apply done_sealed
    | exact Fld.keyFree rfl
    | exact Hid.keyFree rfl
    | exact balFld_keyFree _
    | decide
    | with_reducible apply sealedParts_of
    | intro _
    | with_reducible refine Sealed.of_eq (by assumption) ?_
    | with_reducible refine Sealed.of_eq_snd (by assumption) ?_
    | simp only [sealed_mk]
    | split

theorem State.command_sealed {r s : State} (h : r.Sealed s) (e : SubEntry) (code : ℕ) (body : State → ℕ → State) (hbody : ∀ (u : State) w1, u.Sealed
    (body u w1)) : r.Sealed (State.command s e code body) := by
  unfold State.command
  repeat' first
    | with_reducible assumption
    | with_reducible exact Sealed.refl _
    | with_reducible apply Sealed.ite
    | with_reducible refine Sealed.trans ?_ (hbody _ _)
    | with_reducible apply done_sealed
    | exact Fld.keyFree rfl
    | exact Hid.keyFree rfl
    | exact balFld_keyFree _
    | decide
    | with_reducible apply sealedParts_of
    | intro _
    | with_reducible refine Sealed.of_eq (by assumption) ?_
    | with_reducible refine Sealed.of_eq_snd (by assumption) ?_
    | simp only [sealed_mk]
    | split

theorem State.cmdNop_sealed {r s : State} (h : r.Sealed s) (e : SubEntry) : r.Sealed (State.cmdNop s e) := by
  unfold State.cmdNop
  repeat' first
    | with_reducible assumption
    | with_reducible exact Sealed.refl _
    | with_reducible apply Sealed.ite
    | with_reducible apply command_sealed
    | with_reducible apply done_sealed
    | exact Fld.keyFree rfl
    | exact Hid.keyFree rfl
    | exact balFld_keyFree _
    | decide
    | with_reducible apply sealedParts_of
    | intro _
    | with_reducible refine Sealed.of_eq (by assumption) ?_
    | with_reducible refine Sealed.of_eq_snd (by assumption) ?_
    | simp only [sealed_mk]
    | split

theorem State.cmdVersion_sealed {r s : State} (h : r.Sealed s) (e : SubEntry) : r.Sealed (State.cmdVersion s e) := by
  unfold State.cmdVersion
  repeat' first
    | with_reducible assumption
    | with_reducible exact Sealed.refl _
    | with_reducible apply Sealed.ite
    | with_reducible apply command_sealed
    | with_reducible apply mark_sealed
    | with_reducible apply complete_sealed
    | exact Fld.keyFree rfl
    | exact Hid.keyFree rfl
    | exact balFld_keyFree _
    | decide
    | with_reducible apply sealedParts_of
    | intro _
    | with_reducible refine Sealed.of_eq (by assumption) ?_
    | with_reducible refine Sealed.of_eq_snd (by assumption) ?_
    | simp only [sealed_mk]
    | split

theorem State.readDesc_sealed {r s : State} (h : r.Sealed s) (q : ℕ) (tag : ℕ) (va : ℕ) : r.Sealed (State.readDesc s q tag va).1 := by
  unfold State.readDesc
  repeat' first
    | with_reducible assumption
    | with_reducible exact Sealed.refl _
    | with_reducible apply Sealed.ite
    | with_reducible apply Sealed.ite_fst
    | with_reducible apply vread_sealed
    | exact Fld.keyFree rfl
    | exact Hid.keyFree rfl
    | exact balFld_keyFree _
    | decide
    | with_reducible apply sealedParts_of
    | intro _
    | with_reducible refine Sealed.of_eq (by assumption) ?_
    | with_reducible refine Sealed.of_eq_snd (by assumption) ?_
    | simp only [sealed_mk]
    | split

theorem State.submitEntry_sealed {r s : State} (h : r.Sealed s) (q : ℕ) (page : ℕ) (source : ℕ) (w : ℕ) (plan : Option (ℕ × ℕ)) : r.Sealed
    (State.submitEntry s q page source w plan).1 := by
  unfold State.submitEntry
  repeat' first
    | with_reducible assumption
    | with_reducible exact Sealed.refl _
    | with_reducible apply Sealed.ite
    | with_reducible apply Sealed.ite_fst
    | with_reducible apply readDesc_sealed
    | with_reducible apply newId_sealed
    | with_reducible apply finish_sealed
    | exact Fld.keyFree rfl
    | exact Hid.keyFree rfl
    | exact balFld_keyFree _
    | decide
    | with_reducible apply sealedParts_of
    | intro _
    | with_reducible refine Sealed.of_eq (by assumption) ?_
    | with_reducible refine Sealed.of_eq_snd (by assumption) ?_
    | simp only [sealed_mk]
    | split

theorem State.cmdSubmit_sealed {r s : State} (h : r.Sealed s) (e : SubEntry) : r.Sealed (State.cmdSubmit s e) := by
  unfold State.cmdSubmit
  repeat' first
    | with_reducible assumption
    | with_reducible exact Sealed.refl _
    | with_reducible apply Sealed.ite
    | with_reducible apply Sealed.ite_fst
    | with_reducible apply command_sealed
    | with_reducible apply ev_sealed
    | with_reducible apply submitEntry_sealed
    | with_reducible apply setH_sealed
    | exact Fld.keyFree rfl
    | exact Hid.keyFree rfl
    | exact balFld_keyFree _
    | decide
    | with_reducible apply sealedParts_of
    | intro _
    | with_reducible refine Sealed.of_eq (by assumption) ?_
    | with_reducible refine Sealed.of_eq_snd (by assumption) ?_
    | simp only [sealed_mk]
    | split

theorem State.planRun_sealed {r s : State} (h : r.Sealed s) (id : ℕ) (y2 : ℕ) : r.Sealed (State.planRun s id y2) := by
  induction y2 generalizing s id with
  | zero =>
    unfold State.planRun
    repeat' first
      | with_reducible assumption
      | with_reducible exact Sealed.refl _
      | with_reducible apply Sealed.ite
      | with_reducible apply Sealed.ite_fst
      | with_reducible apply setOp_sealed
      | with_reducible apply finish_sealed
      | with_reducible apply vread_sealed
      | with_reducible apply submitEntry_sealed
      | with_reducible apply updOp_sealed
      | exact Fld.keyFree rfl
      | exact Hid.keyFree rfl
      | exact balFld_keyFree _
      | decide
      | with_reducible apply sealedParts_of
      | intro _
      | with_reducible refine Sealed.of_eq (by assumption) ?_
      | with_reducible refine Sealed.of_eq_snd (by assumption) ?_
      | simp only [sealed_mk]
      | split
  | succ n0 ih =>
    unfold State.planRun
    repeat' first
      | with_reducible assumption
      | with_reducible exact Sealed.refl _
      | with_reducible apply Sealed.ite
      | with_reducible apply Sealed.ite_fst
      | with_reducible apply setOp_sealed
      | with_reducible apply finish_sealed
      | with_reducible apply vread_sealed
      | with_reducible apply submitEntry_sealed
      | with_reducible apply updOp_sealed
      | with_reducible apply ih
      | exact Fld.keyFree rfl
      | exact Hid.keyFree rfl
      | exact balFld_keyFree _
      | decide
      | with_reducible apply sealedParts_of
      | intro _
      | with_reducible refine Sealed.of_eq (by assumption) ?_
      | with_reducible refine Sealed.of_eq_snd (by assumption) ?_
      | simp only [sealed_mk]
      | split

theorem State.cmdPlan_sealed {r s : State} (h : r.Sealed s) (e : SubEntry) : r.Sealed (State.cmdPlan s e) := by
  unfold State.cmdPlan
  repeat' first
    | with_reducible assumption
    | with_reducible exact Sealed.refl _
    | with_reducible apply Sealed.ite
    | with_reducible apply Sealed.ite_fst
    | with_reducible apply command_sealed
    | with_reducible apply done_sealed
    | with_reducible apply ev_sealed
    | with_reducible apply newId_sealed
    | with_reducible apply planRun_sealed
    | exact Fld.keyFree rfl
    | exact Hid.keyFree rfl
    | exact balFld_keyFree _
    | decide
    | with_reducible apply sealedParts_of
    | intro _
    | with_reducible refine Sealed.of_eq (by assumption) ?_
    | with_reducible refine Sealed.of_eq_snd (by assumption) ?_
    | simp only [sealed_mk]
    | split

theorem State.pumpPlans_sealed {r s : State} (h : r.Sealed s) : r.Sealed (State.pumpPlans s) := by
  unfold State.pumpPlans
  repeat' first
    | with_reducible assumption
    | with_reducible exact Sealed.refl _
    | with_reducible apply Sealed.ite
    | with_reducible apply planRun_sealed
    | rw [List.foldl_cons]
    | rw [List.foldl_nil]
    | exact Fld.keyFree rfl
    | exact Hid.keyFree rfl
    | exact balFld_keyFree _
    | decide
    | with_reducible refine Sealed.foldl ?_ (fun u x => ?_)
    | with_reducible refine Sealed.foldl_fst ?_ (fun u x => ?_)
    | with_reducible apply sealedParts_of
    | intro _
    | with_reducible refine Sealed.of_eq (by assumption) ?_
    | with_reducible refine Sealed.of_eq_snd (by assumption) ?_
    | simp only [sealed_mk]
    | split

theorem State.retryStall_sealed {r s : State} (h : r.Sealed s) (x : Stall) : r.Sealed (State.retryStall s x) := by
  unfold State.retryStall
  repeat' first
    | with_reducible assumption
    | with_reducible exact Sealed.refl _
    | with_reducible apply Sealed.ite
    | with_reducible apply Sealed.ite_fst
    | with_reducible apply xlate_sealed
    | with_reducible apply walk_sealed
    | exact Fld.keyFree rfl
    | exact Hid.keyFree rfl
    | exact balFld_keyFree _
    | decide
    | with_reducible apply sealedParts_of
    | intro _
    | with_reducible refine Sealed.of_eq (by assumption) ?_
    | with_reducible refine Sealed.of_eq_snd (by assumption) ?_
    | simp only [sealed_mk]
    | split

theorem State.cmdInvalidate_sealed {r s : State} (h : r.Sealed s) (e : SubEntry) : r.Sealed (State.cmdInvalidate s e) := by
  unfold State.cmdInvalidate
  repeat' first
    | with_reducible assumption
    | with_reducible exact Sealed.refl _
    | with_reducible apply Sealed.ite
    | with_reducible apply command_sealed
    | with_reducible apply done_sealed
    | with_reducible apply dropTlb_sealed
    | with_reducible apply flushRecords_sealed
    | with_reducible apply resumeFaulted_sealed
    | with_reducible apply retryStall_sealed
    | rw [List.foldl_cons]
    | rw [List.foldl_nil]
    | exact Fld.keyFree rfl
    | exact Hid.keyFree rfl
    | exact balFld_keyFree _
    | decide
    | with_reducible refine Sealed.foldl ?_ (fun u x => ?_)
    | with_reducible refine Sealed.foldl_fst ?_ (fun u x => ?_)
    | with_reducible apply sealedParts_of
    | intro _
    | with_reducible refine Sealed.of_eq (by assumption) ?_
    | with_reducible refine Sealed.of_eq_snd (by assumption) ?_
    | simp only [sealed_mk]
    | split

theorem State.abortOp_sealed {r s : State} (h : r.Sealed s) (id : ℕ) : r.Sealed (State.abortOp s id) := by
  unfold State.abortOp
  repeat' first
    | with_reducible assumption
    | with_reducible exact Sealed.refl _
    | with_reducible apply Sealed.ite
    | with_reducible apply finish_sealed
    | with_reducible apply abandonPage_sealed
    | with_reducible apply syncOut_sealed
    | with_reducible apply syncUnit_sealed
    | with_reducible apply syncBlanks_sealed
    | rw [List.foldl_cons]
    | rw [List.foldl_nil]
    | exact Fld.keyFree rfl
    | exact Hid.keyFree rfl
    | exact balFld_keyFree _
    | decide
    | with_reducible refine Sealed.foldl ?_ (fun u x => ?_)
    | with_reducible refine Sealed.foldl_fst ?_ (fun u x => ?_)
    | with_reducible apply sealedParts_of
    | intro _
    | with_reducible refine Sealed.of_eq (by assumption) ?_
    | with_reducible refine Sealed.of_eq_snd (by assumption) ?_
    | simp only [sealed_mk]
    | split

theorem State.cmdAbortFault_sealed {r s : State} (h : r.Sealed s) (e : SubEntry) : r.Sealed (State.cmdAbortFault s e) := by
  unfold State.cmdAbortFault
  repeat' first
    | with_reducible assumption
    | with_reducible exact Sealed.refl _
    | with_reducible apply Sealed.ite
    | with_reducible apply command_sealed
    | with_reducible apply abortOp_sealed
    | with_reducible apply abortRetire_sealed
    | with_reducible apply done_sealed
    | rw [List.foldl_cons]
    | rw [List.foldl_nil]
    | exact Fld.keyFree rfl
    | exact Hid.keyFree rfl
    | exact balFld_keyFree _
    | decide
    | with_reducible refine Sealed.foldl ?_ (fun u x => ?_)
    | with_reducible refine Sealed.foldl_fst ?_ (fun u x => ?_)
    | with_reducible apply sealedParts_of
    | intro _
    | with_reducible refine Sealed.of_eq (by assumption) ?_
    | with_reducible refine Sealed.of_eq_snd (by assumption) ?_
    | simp only [sealed_mk]
    | split

theorem State.cmdFqHead_sealed {r s : State} (h : r.Sealed s) (e : SubEntry) : r.Sealed (State.cmdFqHead s e) := by
  unfold State.cmdFqHead
  repeat' first
    | with_reducible assumption
    | with_reducible exact Sealed.refl _
    | with_reducible apply Sealed.ite
    | with_reducible apply command_sealed
    | with_reducible apply done_sealed
    | with_reducible apply cpWrite_sealed
    | exact Fld.keyFree rfl
    | exact Hid.keyFree rfl
    | exact balFld_keyFree _
    | decide
    | with_reducible apply sealedParts_of
    | intro _
    | with_reducible refine Sealed.of_eq (by assumption) ?_
    | with_reducible refine Sealed.of_eq_snd (by assumption) ?_
    | simp only [sealed_mk]
    | split

theorem State.cmdMmuCfg_sealed {r s : State} (h : r.Sealed s) (e : SubEntry) : r.Sealed (State.cmdMmuCfg s e) := by
  unfold State.cmdMmuCfg
  repeat' first
    | with_reducible assumption
    | with_reducible exact Sealed.refl _
    | with_reducible apply Sealed.ite
    | with_reducible apply command_sealed
    | with_reducible apply cpWrite_sealed
    | with_reducible apply done_sealed
    | exact Fld.keyFree rfl
    | exact Hid.keyFree rfl
    | exact balFld_keyFree _
    | decide
    | with_reducible apply sealedParts_of
    | intro _
    | with_reducible refine Sealed.of_eq (by assumption) ?_
    | with_reducible refine Sealed.of_eq_snd (by assumption) ?_
    | simp only [sealed_mk]
    | split

theorem State.cmdReleaseKeep_sealed {r s : State} (h : r.Sealed s) (e : SubEntry) : r.Sealed (State.cmdReleaseKeep s e) := by
  unfold State.cmdReleaseKeep
  repeat' first
    | with_reducible assumption
    | with_reducible exact Sealed.refl _
    | with_reducible apply Sealed.ite
    | with_reducible apply command_sealed
    | with_reducible apply done_sealed
    | exact Fld.keyFree rfl
    | exact Hid.keyFree rfl
    | exact balFld_keyFree _
    | decide
    | with_reducible apply sealedParts_of
    | intro _
    | with_reducible refine Sealed.of_eq (by assumption) ?_
    | with_reducible refine Sealed.of_eq_snd (by assumption) ?_
    | simp only [sealed_mk]
    | split

theorem State.cmdUnit_sealed {r s : State} (h : r.Sealed s) (e : SubEntry) : r.Sealed (State.cmdUnit s e) := by
  unfold State.cmdUnit
  repeat' first
    | with_reducible assumption
    | with_reducible exact Sealed.refl _
    | with_reducible apply Sealed.ite
    | with_reducible apply command_sealed
    | with_reducible apply done_sealed
    | with_reducible apply cpWrite_sealed
    | exact Fld.keyFree rfl
    | exact Hid.keyFree rfl
    | exact balFld_keyFree _
    | decide
    | with_reducible apply sealedParts_of
    | intro _
    | with_reducible refine Sealed.of_eq (by assumption) ?_
    | with_reducible refine Sealed.of_eq_snd (by assumption) ?_
    | simp only [sealed_mk]
    | split

theorem State.cmdHostWin_sealed {r s : State} (h : r.Sealed s) (e : SubEntry) : r.Sealed (State.cmdHostWin s e) := by
  unfold State.cmdHostWin
  repeat' first
    | with_reducible assumption
    | with_reducible exact Sealed.refl _
    | with_reducible apply Sealed.ite
    | with_reducible apply command_sealed
    | with_reducible apply done_sealed
    | with_reducible apply cpWrite_sealed
    | exact Fld.keyFree rfl
    | exact Hid.keyFree rfl
    | exact balFld_keyFree _
    | decide
    | with_reducible apply sealedParts_of
    | intro _
    | with_reducible refine Sealed.of_eq (by assumption) ?_
    | with_reducible refine Sealed.of_eq_snd (by assumption) ?_
    | simp only [sealed_mk]
    | split

theorem State.moveHead_sealed {r s : State} (h : r.Sealed s) (q : ℕ) (b : ℕ) (n : ℕ) : r.Sealed (State.moveHead s q b n) := by
  unfold State.moveHead
  repeat' first
    | with_reducible assumption
    | with_reducible exact Sealed.refl _
    | with_reducible apply Sealed.ite
    | with_reducible apply mark_sealed
    | with_reducible apply wr_sealed
    | exact Fld.keyFree rfl
    | exact Hid.keyFree rfl
    | exact balFld_keyFree _
    | decide
    | with_reducible apply sealedParts_of
    | intro _
    | with_reducible refine Sealed.of_eq (by assumption) ?_
    | with_reducible refine Sealed.of_eq_snd (by assumption) ?_
    | simp only [sealed_mk]
    | split

theorem State.cmdSwap_sealed {r s : State} (h : r.Sealed s) (e : SubEntry) : r.Sealed (State.cmdSwap s e) := by
  unfold State.cmdSwap
  repeat' first
    | with_reducible assumption
    | with_reducible exact Sealed.refl _
    | with_reducible apply Sealed.ite
    | with_reducible apply command_sealed
    | with_reducible apply done_sealed
    | with_reducible apply moveHead_sealed
    | exact Fld.keyFree rfl
    | exact Hid.keyFree rfl
    | exact balFld_keyFree _
    | decide
    | with_reducible apply sealedParts_of
    | intro _
    | with_reducible refine Sealed.of_eq (by assumption) ?_
    | with_reducible refine Sealed.of_eq_snd (by assumption) ?_
    | simp only [sealed_mk]
    | split

theorem State.cmdAdvance_sealed {r s : State} (h : r.Sealed s) (e : SubEntry) : r.Sealed (State.cmdAdvance s e) := by
  unfold State.cmdAdvance
  repeat' first
    | with_reducible assumption
    | with_reducible exact Sealed.refl _
    | with_reducible apply Sealed.ite
    | with_reducible apply command_sealed
    | with_reducible apply done_sealed
    | with_reducible apply moveHead_sealed
    | exact Fld.keyFree rfl
    | exact Hid.keyFree rfl
    | exact balFld_keyFree _
    | decide
    | with_reducible apply sealedParts_of
    | intro _
    | with_reducible refine Sealed.of_eq (by assumption) ?_
    | with_reducible refine Sealed.of_eq_snd (by assumption) ?_
    | simp only [sealed_mk]
    | split

theorem State.cmdBarrier_sealed {r s : State} (h : r.Sealed s) (e : SubEntry) : r.Sealed (State.cmdBarrier s e) := by
  unfold State.cmdBarrier
  repeat' first
    | with_reducible assumption
    | with_reducible exact Sealed.refl _
    | with_reducible apply Sealed.ite
    | with_reducible apply command_sealed
    | with_reducible apply done_sealed
    | with_reducible apply cpWrite_sealed
    | exact Fld.keyFree rfl
    | exact Hid.keyFree rfl
    | exact balFld_keyFree _
    | decide
    | with_reducible apply sealedParts_of
    | intro _
    | with_reducible refine Sealed.of_eq (by assumption) ?_
    | with_reducible refine Sealed.of_eq_snd (by assumption) ?_
    | simp only [sealed_mk]
    | split

theorem State.cmdBufCfg_sealed {r s : State} (h : r.Sealed s) (e : SubEntry) : r.Sealed (State.cmdBufCfg s e) := by
  unfold State.cmdBufCfg
  repeat' first
    | with_reducible assumption
    | with_reducible exact Sealed.refl _
    | with_reducible apply Sealed.ite
    | with_reducible apply command_sealed
    | with_reducible apply done_sealed
    | with_reducible apply cpWrite_sealed
    | exact Fld.keyFree rfl
    | exact Hid.keyFree rfl
    | exact balFld_keyFree _
    | decide
    | with_reducible apply sealedParts_of
    | intro _
    | with_reducible refine Sealed.of_eq (by assumption) ?_
    | with_reducible refine Sealed.of_eq_snd (by assumption) ?_
    | simp only [sealed_mk]
    | split

theorem State.cmdCbLoad_sealed {r s : State} (h : r.Sealed s) (e : SubEntry) : r.Sealed (State.cmdCbLoad s e) := by
  unfold State.cmdCbLoad
  repeat' first
    | with_reducible assumption
    | with_reducible exact Sealed.refl _
    | with_reducible apply Sealed.ite
    | with_reducible apply Sealed.ite_fst
    | with_reducible apply command_sealed
    | with_reducible apply done_sealed
    | with_reducible apply vread_sealed
    | with_reducible apply doneWith_sealed
    | with_reducible apply wr_sealed
    | with_reducible apply mark_sealed
    | exact Fld.keyFree rfl
    | exact Hid.keyFree rfl
    | exact balFld_keyFree _
    | decide
    | with_reducible apply sealedParts_of
    | intro _
    | with_reducible refine Sealed.of_eq (by assumption) ?_
    | with_reducible refine Sealed.of_eq_snd (by assumption) ?_
    | simp only [sealed_mk]
    | split

theorem State.cmdCbUnload_sealed {r s : State} (h : r.Sealed s) (e : SubEntry) : r.Sealed (State.cmdCbUnload s e) := by
  unfold State.cmdCbUnload
  repeat' first
    | with_reducible assumption
    | with_reducible exact Sealed.refl _
    | with_reducible apply Sealed.ite
    | with_reducible apply command_sealed
    | with_reducible apply done_sealed
    | with_reducible apply mark_sealed
    | exact Fld.keyFree rfl
    | exact Hid.keyFree rfl
    | exact balFld_keyFree _
    | decide
    | with_reducible apply sealedParts_of
    | intro _
    | with_reducible refine Sealed.of_eq (by assumption) ?_
    | with_reducible refine Sealed.of_eq_snd (by assumption) ?_
    | simp only [sealed_mk]
    | split

theorem State.cmdVerdict_sealed {r s : State} (h : r.Sealed s) (e : SubEntry) : r.Sealed (State.cmdVerdict s e) := by
  unfold State.cmdVerdict
  repeat' first
    | with_reducible assumption
    | with_reducible exact Sealed.refl _
    | with_reducible apply Sealed.ite
    | with_reducible apply Sealed.ite_fst
    | with_reducible apply command_sealed
    | with_reducible apply giveVerdict_sealed
    | with_reducible apply wr_sealed
    | with_reducible apply done_sealed
    | exact Fld.keyFree rfl
    | exact Hid.keyFree rfl
    | exact balFld_keyFree _
    | decide
    | with_reducible apply sealedParts_of
    | intro _
    | with_reducible refine Sealed.of_eq (by assumption) ?_
    | with_reducible refine Sealed.of_eq_snd (by assumption) ?_
    | simp only [sealed_mk]
    | split

theorem State.cmdSetScale_sealed {r s : State} (h : r.Sealed s) (e : SubEntry) : r.Sealed (State.cmdSetScale s e) := by
  unfold State.cmdSetScale
  repeat' first
    | with_reducible assumption
    | with_reducible exact Sealed.refl _
    | with_reducible apply Sealed.ite
    | with_reducible apply command_sealed
    | with_reducible apply done_sealed
    | with_reducible apply wr_sealed
    | exact Fld.keyFree rfl
    | exact Hid.keyFree rfl
    | exact balFld_keyFree _
    | decide
    | with_reducible apply sealedParts_of
    | intro _
    | with_reducible refine Sealed.of_eq (by assumption) ?_
    | with_reducible refine Sealed.of_eq_snd (by assumption) ?_
    | simp only [sealed_mk]
    | split

theorem State.cmdSetStep_sealed {r s : State} (h : r.Sealed s) (e : SubEntry) : r.Sealed (State.cmdSetStep s e) := by
  unfold State.cmdSetStep
  repeat' first
    | with_reducible assumption
    | with_reducible exact Sealed.refl _
    | with_reducible apply Sealed.ite
    | with_reducible apply command_sealed
    | with_reducible apply done_sealed
    | with_reducible apply wr_sealed
    | exact Fld.keyFree rfl
    | exact Hid.keyFree rfl
    | exact balFld_keyFree _
    | decide
    | with_reducible apply sealedParts_of
    | intro _
    | with_reducible refine Sealed.of_eq (by assumption) ?_
    | with_reducible refine Sealed.of_eq_snd (by assumption) ?_
    | simp only [sealed_mk]
    | split

theorem State.cmdJournal_sealed {r s : State} (h : r.Sealed s) (e : SubEntry) : r.Sealed (State.cmdJournal s e) := by
  unfold State.cmdJournal
  repeat' first
    | with_reducible assumption
    | with_reducible exact Sealed.refl _
    | with_reducible apply Sealed.ite
    | with_reducible apply command_sealed
    | with_reducible apply done_sealed
    | with_reducible apply wr_sealed
    | exact Fld.keyFree rfl
    | exact Hid.keyFree rfl
    | exact balFld_keyFree _
    | decide
    | with_reducible apply sealedParts_of
    | intro _
    | with_reducible refine Sealed.of_eq (by assumption) ?_
    | with_reducible refine Sealed.of_eq_snd (by assumption) ?_
    | simp only [sealed_mk]
    | split

theorem State.cmdHist_sealed {r s : State} (h : r.Sealed s) (e : SubEntry) : r.Sealed (State.cmdHist s e) := by
  unfold State.cmdHist
  repeat' first
    | with_reducible assumption
    | with_reducible exact Sealed.refl _
    | with_reducible apply Sealed.ite
    | with_reducible apply Sealed.ite_fst
    | with_reducible apply command_sealed
    | with_reducible apply done_sealed
    | with_reducible apply vwrite_sealed
    | with_reducible apply histClear_sealed
    | with_reducible apply doneWith_sealed
    | exact Fld.keyFree rfl
    | exact Hid.keyFree rfl
    | exact balFld_keyFree _
    | decide
    | with_reducible apply sealedParts_of
    | intro _
    | with_reducible refine Sealed.of_eq (by assumption) ?_
    | with_reducible refine Sealed.of_eq_snd (by assumption) ?_
    | simp only [sealed_mk]
    | split

theorem execNop_sealed (e : SubEntry) {s : State} : s.SealedNext (execNop e s) := by
  unfold execNop
  repeat' first
    | with_reducible assumption
    | with_reducible exact Sealed.refl _
    | with_reducible apply SealedNext.next
    | with_reducible apply SealedNext.ite
    | with_reducible apply Sealed.ite
    | with_reducible apply cmdNop_sealed
    | exact Fld.keyFree rfl
    | exact Hid.keyFree rfl
    | exact balFld_keyFree _
    | decide
    | with_reducible apply sealedParts_of
    | intro _
    | with_reducible refine Sealed.of_eq (by assumption) ?_
    | with_reducible refine Sealed.of_eq_snd (by assumption) ?_
    | simp only [sealed_mk]
    | split

theorem execVersion_sealed (e : SubEntry) {s : State} : s.SealedNext (execVersion e s) := by
  unfold execVersion
  repeat' first
    | with_reducible assumption
    | with_reducible exact Sealed.refl _
    | with_reducible apply SealedNext.next
    | with_reducible apply SealedNext.ite
    | with_reducible apply Sealed.ite
    | with_reducible apply cmdVersion_sealed
    | exact Fld.keyFree rfl
    | exact Hid.keyFree rfl
    | exact balFld_keyFree _
    | decide
    | with_reducible apply sealedParts_of
    | intro _
    | with_reducible refine Sealed.of_eq (by assumption) ?_
    | with_reducible refine Sealed.of_eq_snd (by assumption) ?_
    | simp only [sealed_mk]
    | split

theorem execSubmit_sealed (e : SubEntry) {s : State} : s.SealedNext (execSubmit e s) := by
  unfold execSubmit
  repeat' first
    | with_reducible assumption
    | with_reducible exact Sealed.refl _
    | with_reducible apply SealedNext.next
    | with_reducible apply SealedNext.ite
    | with_reducible apply Sealed.ite
    | with_reducible apply cmdSubmit_sealed
    | exact Fld.keyFree rfl
    | exact Hid.keyFree rfl
    | exact balFld_keyFree _
    | decide
    | with_reducible apply sealedParts_of
    | intro _
    | with_reducible refine Sealed.of_eq (by assumption) ?_
    | with_reducible refine Sealed.of_eq_snd (by assumption) ?_
    | simp only [sealed_mk]
    | split

theorem execPlan_sealed (e : SubEntry) {s : State} : s.SealedNext (execPlan e s) := by
  unfold execPlan
  repeat' first
    | with_reducible assumption
    | with_reducible exact Sealed.refl _
    | with_reducible apply SealedNext.next
    | with_reducible apply SealedNext.ite
    | with_reducible apply Sealed.ite
    | with_reducible apply cmdPlan_sealed
    | exact Fld.keyFree rfl
    | exact Hid.keyFree rfl
    | exact balFld_keyFree _
    | decide
    | with_reducible apply sealedParts_of
    | intro _
    | with_reducible refine Sealed.of_eq (by assumption) ?_
    | with_reducible refine Sealed.of_eq_snd (by assumption) ?_
    | simp only [sealed_mk]
    | split

theorem execInvalidate_sealed (e : SubEntry) {s : State} : s.SealedNext (execInvalidate e s) := by
  unfold execInvalidate
  repeat' first
    | with_reducible assumption
    | with_reducible exact Sealed.refl _
    | with_reducible apply SealedNext.next
    | with_reducible apply SealedNext.ite
    | with_reducible apply Sealed.ite
    | with_reducible apply cmdInvalidate_sealed
    | exact Fld.keyFree rfl
    | exact Hid.keyFree rfl
    | exact balFld_keyFree _
    | decide
    | with_reducible apply sealedParts_of
    | intro _
    | with_reducible refine Sealed.of_eq (by assumption) ?_
    | with_reducible refine Sealed.of_eq_snd (by assumption) ?_
    | simp only [sealed_mk]
    | split

theorem execAbortFault_sealed (e : SubEntry) {s : State} : s.SealedNext (execAbortFault e s) := by
  unfold execAbortFault
  repeat' first
    | with_reducible assumption
    | with_reducible exact Sealed.refl _
    | with_reducible apply SealedNext.next
    | with_reducible apply SealedNext.ite
    | with_reducible apply Sealed.ite
    | with_reducible apply cmdAbortFault_sealed
    | exact Fld.keyFree rfl
    | exact Hid.keyFree rfl
    | exact balFld_keyFree _
    | decide
    | with_reducible apply sealedParts_of
    | intro _
    | with_reducible refine Sealed.of_eq (by assumption) ?_
    | with_reducible refine Sealed.of_eq_snd (by assumption) ?_
    | simp only [sealed_mk]
    | split

theorem execFqHead_sealed (e : SubEntry) {s : State} : s.SealedNext (execFqHead e s) := by
  unfold execFqHead
  repeat' first
    | with_reducible assumption
    | with_reducible exact Sealed.refl _
    | with_reducible apply SealedNext.next
    | with_reducible apply SealedNext.ite
    | with_reducible apply Sealed.ite
    | with_reducible apply cmdFqHead_sealed
    | exact Fld.keyFree rfl
    | exact Hid.keyFree rfl
    | exact balFld_keyFree _
    | decide
    | with_reducible apply sealedParts_of
    | intro _
    | with_reducible refine Sealed.of_eq (by assumption) ?_
    | with_reducible refine Sealed.of_eq_snd (by assumption) ?_
    | simp only [sealed_mk]
    | split

theorem execMmuCfg_sealed (e : SubEntry) {s : State} : s.SealedNext (execMmuCfg e s) := by
  unfold execMmuCfg
  repeat' first
    | with_reducible assumption
    | with_reducible exact Sealed.refl _
    | with_reducible apply SealedNext.next
    | with_reducible apply SealedNext.ite
    | with_reducible apply Sealed.ite
    | with_reducible apply cmdMmuCfg_sealed
    | exact Fld.keyFree rfl
    | exact Hid.keyFree rfl
    | exact balFld_keyFree _
    | decide
    | with_reducible apply sealedParts_of
    | intro _
    | with_reducible refine Sealed.of_eq (by assumption) ?_
    | with_reducible refine Sealed.of_eq_snd (by assumption) ?_
    | simp only [sealed_mk]
    | split

theorem execReleaseKeep_sealed (e : SubEntry) {s : State} : s.SealedNext (execReleaseKeep e s) := by
  unfold execReleaseKeep
  repeat' first
    | with_reducible assumption
    | with_reducible exact Sealed.refl _
    | with_reducible apply SealedNext.next
    | with_reducible apply SealedNext.ite
    | with_reducible apply Sealed.ite
    | with_reducible apply cmdReleaseKeep_sealed
    | exact Fld.keyFree rfl
    | exact Hid.keyFree rfl
    | exact balFld_keyFree _
    | decide
    | with_reducible apply sealedParts_of
    | intro _
    | with_reducible refine Sealed.of_eq (by assumption) ?_
    | with_reducible refine Sealed.of_eq_snd (by assumption) ?_
    | simp only [sealed_mk]
    | split

theorem execUnit_sealed (e : SubEntry) {s : State} : s.SealedNext (execUnit e s) := by
  unfold execUnit
  repeat' first
    | with_reducible assumption
    | with_reducible exact Sealed.refl _
    | with_reducible apply SealedNext.next
    | with_reducible apply SealedNext.ite
    | with_reducible apply Sealed.ite
    | with_reducible apply cmdUnit_sealed
    | exact Fld.keyFree rfl
    | exact Hid.keyFree rfl
    | exact balFld_keyFree _
    | decide
    | with_reducible apply sealedParts_of
    | intro _
    | with_reducible refine Sealed.of_eq (by assumption) ?_
    | with_reducible refine Sealed.of_eq_snd (by assumption) ?_
    | simp only [sealed_mk]
    | split

theorem execHostWin_sealed (e : SubEntry) {s : State} : s.SealedNext (execHostWin e s) := by
  unfold execHostWin
  repeat' first
    | with_reducible assumption
    | with_reducible exact Sealed.refl _
    | with_reducible apply SealedNext.next
    | with_reducible apply SealedNext.ite
    | with_reducible apply Sealed.ite
    | with_reducible apply cmdHostWin_sealed
    | exact Fld.keyFree rfl
    | exact Hid.keyFree rfl
    | exact balFld_keyFree _
    | decide
    | with_reducible apply sealedParts_of
    | intro _
    | with_reducible refine Sealed.of_eq (by assumption) ?_
    | with_reducible refine Sealed.of_eq_snd (by assumption) ?_
    | simp only [sealed_mk]
    | split

theorem execSwap_sealed (e : SubEntry) {s : State} : s.SealedNext (execSwap e s) := by
  unfold execSwap
  repeat' first
    | with_reducible assumption
    | with_reducible exact Sealed.refl _
    | with_reducible apply SealedNext.next
    | with_reducible apply SealedNext.ite
    | with_reducible apply Sealed.ite
    | with_reducible apply cmdSwap_sealed
    | exact Fld.keyFree rfl
    | exact Hid.keyFree rfl
    | exact balFld_keyFree _
    | decide
    | with_reducible apply sealedParts_of
    | intro _
    | with_reducible refine Sealed.of_eq (by assumption) ?_
    | with_reducible refine Sealed.of_eq_snd (by assumption) ?_
    | simp only [sealed_mk]
    | split

theorem execAdvance_sealed (e : SubEntry) {s : State} : s.SealedNext (execAdvance e s) := by
  unfold execAdvance
  repeat' first
    | with_reducible assumption
    | with_reducible exact Sealed.refl _
    | with_reducible apply SealedNext.next
    | with_reducible apply SealedNext.ite
    | with_reducible apply Sealed.ite
    | with_reducible apply cmdAdvance_sealed
    | exact Fld.keyFree rfl
    | exact Hid.keyFree rfl
    | exact balFld_keyFree _
    | decide
    | with_reducible apply sealedParts_of
    | intro _
    | with_reducible refine Sealed.of_eq (by assumption) ?_
    | with_reducible refine Sealed.of_eq_snd (by assumption) ?_
    | simp only [sealed_mk]
    | split

theorem execBarrier_sealed (e : SubEntry) {s : State} : s.SealedNext (execBarrier e s) := by
  unfold execBarrier
  repeat' first
    | with_reducible assumption
    | with_reducible exact Sealed.refl _
    | with_reducible apply SealedNext.next
    | with_reducible apply SealedNext.ite
    | with_reducible apply Sealed.ite
    | with_reducible apply cmdBarrier_sealed
    | exact Fld.keyFree rfl
    | exact Hid.keyFree rfl
    | exact balFld_keyFree _
    | decide
    | with_reducible apply sealedParts_of
    | intro _
    | with_reducible refine Sealed.of_eq (by assumption) ?_
    | with_reducible refine Sealed.of_eq_snd (by assumption) ?_
    | simp only [sealed_mk]
    | split

theorem execBufCfg_sealed (e : SubEntry) {s : State} : s.SealedNext (execBufCfg e s) := by
  unfold execBufCfg
  repeat' first
    | with_reducible assumption
    | with_reducible exact Sealed.refl _
    | with_reducible apply SealedNext.next
    | with_reducible apply SealedNext.ite
    | with_reducible apply Sealed.ite
    | with_reducible apply cmdBufCfg_sealed
    | exact Fld.keyFree rfl
    | exact Hid.keyFree rfl
    | exact balFld_keyFree _
    | decide
    | with_reducible apply sealedParts_of
    | intro _
    | with_reducible refine Sealed.of_eq (by assumption) ?_
    | with_reducible refine Sealed.of_eq_snd (by assumption) ?_
    | simp only [sealed_mk]
    | split

theorem execCbLoad_sealed (e : SubEntry) {s : State} : s.SealedNext (execCbLoad e s) := by
  unfold execCbLoad
  repeat' first
    | with_reducible assumption
    | with_reducible exact Sealed.refl _
    | with_reducible apply SealedNext.next
    | with_reducible apply SealedNext.ite
    | with_reducible apply Sealed.ite
    | with_reducible apply cmdCbLoad_sealed
    | exact Fld.keyFree rfl
    | exact Hid.keyFree rfl
    | exact balFld_keyFree _
    | decide
    | with_reducible apply sealedParts_of
    | intro _
    | with_reducible refine Sealed.of_eq (by assumption) ?_
    | with_reducible refine Sealed.of_eq_snd (by assumption) ?_
    | simp only [sealed_mk]
    | split

theorem execCbUnload_sealed (e : SubEntry) {s : State} : s.SealedNext (execCbUnload e s) := by
  unfold execCbUnload
  repeat' first
    | with_reducible assumption
    | with_reducible exact Sealed.refl _
    | with_reducible apply SealedNext.next
    | with_reducible apply SealedNext.ite
    | with_reducible apply Sealed.ite
    | with_reducible apply cmdCbUnload_sealed
    | exact Fld.keyFree rfl
    | exact Hid.keyFree rfl
    | exact balFld_keyFree _
    | decide
    | with_reducible apply sealedParts_of
    | intro _
    | with_reducible refine Sealed.of_eq (by assumption) ?_
    | with_reducible refine Sealed.of_eq_snd (by assumption) ?_
    | simp only [sealed_mk]
    | split

theorem execVerdict_sealed (e : SubEntry) {s : State} : s.SealedNext (execVerdict e s) := by
  unfold execVerdict
  repeat' first
    | with_reducible assumption
    | with_reducible exact Sealed.refl _
    | with_reducible apply SealedNext.next
    | with_reducible apply SealedNext.ite
    | with_reducible apply Sealed.ite
    | with_reducible apply cmdVerdict_sealed
    | exact Fld.keyFree rfl
    | exact Hid.keyFree rfl
    | exact balFld_keyFree _
    | decide
    | with_reducible apply sealedParts_of
    | intro _
    | with_reducible refine Sealed.of_eq (by assumption) ?_
    | with_reducible refine Sealed.of_eq_snd (by assumption) ?_
    | simp only [sealed_mk]
    | split

theorem execSetScale_sealed (e : SubEntry) {s : State} : s.SealedNext (execSetScale e s) := by
  unfold execSetScale
  repeat' first
    | with_reducible assumption
    | with_reducible exact Sealed.refl _
    | with_reducible apply SealedNext.next
    | with_reducible apply SealedNext.ite
    | with_reducible apply Sealed.ite
    | with_reducible apply cmdSetScale_sealed
    | exact Fld.keyFree rfl
    | exact Hid.keyFree rfl
    | exact balFld_keyFree _
    | decide
    | with_reducible apply sealedParts_of
    | intro _
    | with_reducible refine Sealed.of_eq (by assumption) ?_
    | with_reducible refine Sealed.of_eq_snd (by assumption) ?_
    | simp only [sealed_mk]
    | split

theorem execSetStep_sealed (e : SubEntry) {s : State} : s.SealedNext (execSetStep e s) := by
  unfold execSetStep
  repeat' first
    | with_reducible assumption
    | with_reducible exact Sealed.refl _
    | with_reducible apply SealedNext.next
    | with_reducible apply SealedNext.ite
    | with_reducible apply Sealed.ite
    | with_reducible apply cmdSetStep_sealed
    | exact Fld.keyFree rfl
    | exact Hid.keyFree rfl
    | exact balFld_keyFree _
    | decide
    | with_reducible apply sealedParts_of
    | intro _
    | with_reducible refine Sealed.of_eq (by assumption) ?_
    | with_reducible refine Sealed.of_eq_snd (by assumption) ?_
    | simp only [sealed_mk]
    | split

theorem execJournal_sealed (e : SubEntry) {s : State} : s.SealedNext (execJournal e s) := by
  unfold execJournal
  repeat' first
    | with_reducible assumption
    | with_reducible exact Sealed.refl _
    | with_reducible apply SealedNext.next
    | with_reducible apply SealedNext.ite
    | with_reducible apply Sealed.ite
    | with_reducible apply cmdJournal_sealed
    | exact Fld.keyFree rfl
    | exact Hid.keyFree rfl
    | exact balFld_keyFree _
    | decide
    | with_reducible apply sealedParts_of
    | intro _
    | with_reducible refine Sealed.of_eq (by assumption) ?_
    | with_reducible refine Sealed.of_eq_snd (by assumption) ?_
    | simp only [sealed_mk]
    | split

theorem execHist_sealed (e : SubEntry) {s : State} : s.SealedNext (execHist e s) := by
  unfold execHist
  repeat' first
    | with_reducible assumption
    | with_reducible exact Sealed.refl _
    | with_reducible apply SealedNext.next
    | with_reducible apply SealedNext.ite
    | with_reducible apply Sealed.ite
    | with_reducible apply cmdHist_sealed
    | exact Fld.keyFree rfl
    | exact Hid.keyFree rfl
    | exact balFld_keyFree _
    | decide
    | with_reducible apply sealedParts_of
    | intro _
    | with_reducible refine Sealed.of_eq (by assumption) ?_
    | with_reducible refine Sealed.of_eq_snd (by assumption) ?_
    | simp only [sealed_mk]
    | split

theorem State.cmdConfig_sealed {r s : State} (h : r.Sealed s) (e : SubEntry) : r.Sealed (State.cmdConfig s e) := by
  unfold State.cmdConfig
  repeat' first
    | with_reducible assumption
    | with_reducible exact Sealed.refl _
    | with_reducible apply Sealed.ite
    | with_reducible apply command_sealed
    | with_reducible apply done_sealed
    | with_reducible apply setH_sealed
    | with_reducible apply syncPending_sealed
    | with_reducible apply wr_sealed
    | exact Fld.keyFree rfl
    | exact Hid.keyFree rfl
    | exact balFld_keyFree _
    | decide
    | with_reducible apply sealedParts_of
    | intro _
    | with_reducible refine Sealed.of_eq (by assumption) ?_
    | with_reducible refine Sealed.of_eq_snd (by assumption) ?_
    | simp only [sealed_mk]
    | split

theorem State.cmdHalt_sealed {r s : State} (h : r.Sealed s) (e : SubEntry) : r.Sealed (State.cmdHalt s e) := by
  unfold State.cmdHalt
  repeat' first
    | with_reducible assumption
    | with_reducible exact Sealed.refl _
    | with_reducible apply Sealed.ite
    | with_reducible apply command_sealed
    | with_reducible apply done_sealed
    | with_reducible apply haltQuarter_sealed
    | exact Fld.keyFree rfl
    | exact Hid.keyFree rfl
    | exact balFld_keyFree _
    | decide
    | with_reducible apply sealedParts_of
    | intro _
    | with_reducible refine Sealed.of_eq (by assumption) ?_
    | with_reducible refine Sealed.of_eq_snd (by assumption) ?_
    | simp only [sealed_mk]
    | split

theorem State.cmdRelease_sealed {r s : State} (h : r.Sealed s) (e : SubEntry) : r.Sealed (State.cmdRelease s e) := by
  unfold State.cmdRelease
  repeat' first
    | with_reducible assumption
    | with_reducible exact Sealed.refl _
    | with_reducible apply Sealed.ite
    | with_reducible apply command_sealed
    | with_reducible apply done_sealed
    | with_reducible apply setH_sealed
    | exact Fld.keyFree rfl
    | exact Hid.keyFree rfl
    | exact balFld_keyFree _
    | decide
    | with_reducible apply sealedParts_of
    | intro _
    | with_reducible refine Sealed.of_eq (by assumption) ?_
    | with_reducible refine Sealed.of_eq_snd (by assumption) ?_
    | simp only [sealed_mk]
    | split

theorem State.cmdCores_sealed {r s : State} (h : r.Sealed s) (e : SubEntry) : r.Sealed (State.cmdCores s e) := by
  unfold State.cmdCores
  repeat' first
    | with_reducible assumption
    | with_reducible exact Sealed.refl _
    | with_reducible apply Sealed.ite
    | with_reducible apply command_sealed
    | with_reducible apply done_sealed
    | with_reducible apply cpWrite_sealed
    | exact Fld.keyFree rfl
    | exact Hid.keyFree rfl
    | exact balFld_keyFree _
    | decide
    | with_reducible apply sealedParts_of
    | intro _
    | with_reducible refine Sealed.of_eq (by assumption) ?_
    | with_reducible refine Sealed.of_eq_snd (by assumption) ?_
    | simp only [sealed_mk]
    | split

theorem State.cmdPfWin_sealed {r s : State} (h : r.Sealed s) (e : SubEntry) : r.Sealed (State.cmdPfWin s e) := by
  unfold State.cmdPfWin
  repeat' first
    | with_reducible assumption
    | with_reducible exact Sealed.refl _
    | with_reducible apply Sealed.ite
    | with_reducible apply command_sealed
    | with_reducible apply done_sealed
    | with_reducible apply cpWrite_sealed
    | exact Fld.keyFree rfl
    | exact Hid.keyFree rfl
    | exact balFld_keyFree _
    | decide
    | with_reducible apply sealedParts_of
    | intro _
    | with_reducible refine Sealed.of_eq (by assumption) ?_
    | with_reducible refine Sealed.of_eq_snd (by assumption) ?_
    | simp only [sealed_mk]
    | split

theorem State.cmdBank_sealed {r s : State} (h : r.Sealed s) (e : SubEntry) : r.Sealed (State.cmdBank s e) := by
  unfold State.cmdBank
  repeat' first
    | with_reducible assumption
    | with_reducible exact Sealed.refl _
    | with_reducible apply Sealed.ite
    | with_reducible apply command_sealed
    | with_reducible apply done_sealed
    | with_reducible apply wr_sealed
    | with_reducible apply setH_sealed
    | exact Fld.keyFree rfl
    | exact Hid.keyFree rfl
    | exact balFld_keyFree _
    | decide
    | with_reducible apply sealedParts_of
    | intro _
    | with_reducible refine Sealed.of_eq (by assumption) ?_
    | with_reducible refine Sealed.of_eq_snd (by assumption) ?_
    | simp only [sealed_mk]
    | split

theorem State.cmdFence_sealed {r s : State} (h : r.Sealed s) (e : SubEntry) : r.Sealed (State.cmdFence s e) := by
  unfold State.cmdFence
  repeat' first
    | with_reducible assumption
    | with_reducible exact Sealed.refl _
    | with_reducible apply Sealed.ite
    | with_reducible apply command_sealed
    | with_reducible apply done_sealed
    | with_reducible apply fenceReq_sealed
    | exact Fld.keyFree rfl
    | exact Hid.keyFree rfl
    | exact balFld_keyFree _
    | decide
    | with_reducible apply sealedParts_of
    | intro _
    | with_reducible refine Sealed.of_eq (by assumption) ?_
    | with_reducible refine Sealed.of_eq_snd (by assumption) ?_
    | simp only [sealed_mk]
    | split

theorem State.cmdUnfence_sealed {r s : State} (h : r.Sealed s) (e : SubEntry) : r.Sealed (State.cmdUnfence s e) := by
  unfold State.cmdUnfence
  repeat' first
    | with_reducible assumption
    | with_reducible exact Sealed.refl _
    | with_reducible apply Sealed.ite
    | with_reducible apply command_sealed
    | with_reducible apply done_sealed
    | with_reducible apply mcAsk_sealed
    | exact Fld.keyFree rfl
    | exact Hid.keyFree rfl
    | exact balFld_keyFree _
    | decide
    | with_reducible apply sealedParts_of
    | intro _
    | with_reducible refine Sealed.of_eq (by assumption) ?_
    | with_reducible refine Sealed.of_eq_snd (by assumption) ?_
    | simp only [sealed_mk]
    | split

theorem State.cmdRoute_sealed {r s : State} (h : r.Sealed s) (e : SubEntry) : r.Sealed (State.cmdRoute s e) := by
  unfold State.cmdRoute
  repeat' first
    | with_reducible assumption
    | with_reducible exact Sealed.refl _
    | with_reducible apply Sealed.ite
    | with_reducible apply command_sealed
    | with_reducible apply done_sealed
    | with_reducible apply setH_sealed
    | with_reducible apply wr_sealed
    | exact Fld.keyFree rfl
    | exact Hid.keyFree rfl
    | exact balFld_keyFree _
    | decide
    | with_reducible apply sealedParts_of
    | intro _
    | with_reducible refine Sealed.of_eq (by assumption) ?_
    | with_reducible refine Sealed.of_eq_snd (by assumption) ?_
    | simp only [sealed_mk]
    | split

theorem State.cmdFabricCfg_sealed {r s : State} (h : r.Sealed s) (e : SubEntry) : r.Sealed (State.cmdFabricCfg s e) := by
  unfold State.cmdFabricCfg
  repeat' first
    | with_reducible assumption
    | with_reducible exact Sealed.refl _
    | with_reducible apply Sealed.ite
    | with_reducible apply command_sealed
    | with_reducible apply done_sealed
    | with_reducible apply wr_sealed
    | exact Fld.keyFree rfl
    | exact Hid.keyFree rfl
    | exact balFld_keyFree _
    | decide
    | with_reducible apply sealedParts_of
    | intro _
    | with_reducible refine Sealed.of_eq (by assumption) ?_
    | with_reducible refine Sealed.of_eq_snd (by assumption) ?_
    | simp only [sealed_mk]
    | split

theorem State.cmdModId_sealed {r s : State} (h : r.Sealed s) (e : SubEntry) : r.Sealed (State.cmdModId s e) := by
  unfold State.cmdModId
  repeat' first
    | with_reducible assumption
    | with_reducible exact Sealed.refl _
    | with_reducible apply Sealed.ite
    | with_reducible apply command_sealed
    | with_reducible apply done_sealed
    | with_reducible apply wr_sealed
    | exact Fld.keyFree rfl
    | exact Hid.keyFree rfl
    | exact balFld_keyFree _
    | decide
    | with_reducible apply sealedParts_of
    | intro _
    | with_reducible refine Sealed.of_eq (by assumption) ?_
    | with_reducible refine Sealed.of_eq_snd (by assumption) ?_
    | simp only [sealed_mk]
    | split

theorem State.cmdLink_sealed {r s : State} (h : r.Sealed s) (e : SubEntry) : r.Sealed (State.cmdLink s e) := by
  unfold State.cmdLink
  repeat' first
    | with_reducible assumption
    | with_reducible exact Sealed.refl _
    | with_reducible apply Sealed.ite
    | with_reducible apply command_sealed
    | with_reducible apply done_sealed
    | with_reducible apply setH_sealed
    | with_reducible apply bump_sealed
    | exact Fld.keyFree rfl
    | exact Hid.keyFree rfl
    | exact balFld_keyFree _
    | decide
    | with_reducible apply sealedParts_of
    | intro _
    | with_reducible refine Sealed.of_eq (by assumption) ?_
    | with_reducible refine Sealed.of_eq_snd (by assumption) ?_
    | simp only [sealed_mk]
    | split

theorem State.putHost_sealed {r s : State} (h : r.Sealed s) (page : ℕ) (a : ℕ) (d : List Byte) : r.Sealed (State.putHost s page a d) := by
  unfold State.putHost
  repeat' first
    | with_reducible assumption
    | with_reducible exact Sealed.refl _
    | with_reducible apply Sealed.ite
    | with_reducible apply setBytes_sealed
    | exact Fld.keyFree rfl
    | exact Hid.keyFree rfl
    | exact balFld_keyFree _
    | decide
    | with_reducible apply sealedParts_of
    | intro _
    | with_reducible refine Sealed.of_eq (by assumption) ?_
    | with_reducible refine Sealed.of_eq_snd (by assumption) ?_
    | simp only [sealed_mk]
    | split

theorem State.cmdFwLoad_sealed {r s : State} (h : r.Sealed s) (e : SubEntry) : r.Sealed (State.cmdFwLoad s e) := by
  unfold State.cmdFwLoad
  repeat' first
    | with_reducible assumption
    | with_reducible exact Sealed.refl _
    | with_reducible apply Sealed.ite
    | with_reducible apply command_sealed
    | with_reducible apply done_sealed
    | with_reducible apply setObj_sealed
    | with_reducible apply wr_sealed
    | with_reducible apply setH_sealed
    | exact Fld.keyFree rfl
    | exact Hid.keyFree rfl
    | exact balFld_keyFree _
    | decide
    | with_reducible apply sealedParts_of
    | intro _
    | with_reducible refine Sealed.of_eq (by assumption) ?_
    | with_reducible refine Sealed.of_eq_snd (by assumption) ?_
    | simp only [sealed_mk]
    | split

theorem State.cmdFwSelect_sealed {r s : State} (h : r.Sealed s) (e : SubEntry) : r.Sealed (State.cmdFwSelect s e) := by
  unfold State.cmdFwSelect
  repeat' first
    | with_reducible assumption
    | with_reducible exact Sealed.refl _
    | with_reducible apply Sealed.ite
    | with_reducible apply command_sealed
    | with_reducible apply done_sealed
    | with_reducible apply mark_sealed
    | with_reducible apply setH_sealed
    | exact Fld.keyFree rfl
    | exact Hid.keyFree rfl
    | exact balFld_keyFree _
    | decide
    | with_reducible apply sealedParts_of
    | intro _
    | with_reducible refine Sealed.of_eq (by assumption) ?_
    | with_reducible refine Sealed.of_eq_snd (by assumption) ?_
    | simp only [sealed_mk]
    | split

theorem State.afterLoad_sealed {r s : State} (h : r.Sealed s) : r.Sealed (State.afterLoad s) := by
  unfold State.afterLoad
  repeat' first
    | with_reducible assumption
    | with_reducible exact Sealed.refl _
    | with_reducible apply Sealed.ite
    | with_reducible apply setH_sealed
    | exact Fld.keyFree rfl
    | exact Hid.keyFree rfl
    | exact balFld_keyFree _
    | decide
    | with_reducible apply sealedParts_of
    | intro _
    | with_reducible refine Sealed.of_eq (by assumption) ?_
    | with_reducible refine Sealed.of_eq_snd (by assumption) ?_
    | simp only [sealed_mk]
    | split

theorem State.cmdManifest_sealed {r s : State} (h : r.Sealed s) (e : SubEntry) : r.Sealed (State.cmdManifest s e) := by
  unfold State.cmdManifest
  repeat' first
    | with_reducible assumption
    | with_reducible exact Sealed.refl _
    | with_reducible apply Sealed.ite
    | with_reducible apply command_sealed
    | with_reducible apply done_sealed
    | with_reducible apply afterLoad_sealed
    | with_reducible apply setObj_sealed
    | exact Fld.keyFree rfl
    | exact Hid.keyFree rfl
    | exact balFld_keyFree _
    | decide
    | with_reducible apply sealedParts_of
    | intro _
    | with_reducible refine Sealed.of_eq (by assumption) ?_
    | with_reducible refine Sealed.of_eq_snd (by assumption) ?_
    | simp only [sealed_mk]
    | split

theorem State.cmdOverride_sealed {r s : State} (h : r.Sealed s) (e : SubEntry) : r.Sealed (State.cmdOverride s e) := by
  unfold State.cmdOverride
  repeat' first
    | with_reducible assumption
    | with_reducible exact Sealed.refl _
    | with_reducible apply Sealed.ite
    | with_reducible apply command_sealed
    | with_reducible apply done_sealed
    | with_reducible apply setObj_sealed
    | with_reducible apply afterLoad_sealed
    | exact Fld.keyFree rfl
    | exact Hid.keyFree rfl
    | exact balFld_keyFree _
    | decide
    | with_reducible apply sealedParts_of
    | intro _
    | with_reducible refine Sealed.of_eq (by assumption) ?_
    | with_reducible refine Sealed.of_eq_snd (by assumption) ?_
    | simp only [sealed_mk]
    | split

theorem State.patternTest_sealed {r s : State} (h : r.Sealed s) (k : ℕ) (p : ℕ) : r.Sealed (State.patternTest s k p) := by
  unfold State.patternTest
  repeat' first
    | with_reducible assumption
    | with_reducible exact Sealed.refl _
    | with_reducible apply Sealed.ite
    | with_reducible apply Sealed.ite_fst
    | with_reducible apply fresh_sealed
    | with_reducible apply setByte_sealed
    | rw [List.foldl_cons]
    | rw [List.foldl_nil]
    | exact Fld.keyFree rfl
    | exact Hid.keyFree rfl
    | exact balFld_keyFree _
    | decide
    | with_reducible refine Sealed.foldl ?_ (fun u x => ?_)
    | with_reducible refine Sealed.foldl_fst ?_ (fun u x => ?_)
    | with_reducible apply sealedParts_of
    | intro _
    | with_reducible refine Sealed.of_eq (by assumption) ?_
    | with_reducible refine Sealed.of_eq_snd (by assumption) ?_
    | simp only [sealed_mk]
    | split

theorem State.cmdRepair_sealed {r s : State} (h : r.Sealed s) (e : SubEntry) : r.Sealed (State.cmdRepair s e) := by
  unfold State.cmdRepair
  repeat' first
    | with_reducible assumption
    | with_reducible exact Sealed.refl _
    | with_reducible apply Sealed.ite
    | with_reducible apply Sealed.ite_fst
    | with_reducible apply command_sealed
    | with_reducible apply fresh_sealed
    | with_reducible apply done_sealed
    | with_reducible apply setH_sealed
    | with_reducible apply patternTest_sealed
    | exact Fld.keyFree rfl
    | exact Hid.keyFree rfl
    | exact balFld_keyFree _
    | decide
    | with_reducible apply sealedParts_of
    | intro _
    | with_reducible refine Sealed.of_eq (by assumption) ?_
    | with_reducible refine Sealed.of_eq_snd (by assumption) ?_
    | simp only [sealed_mk]
    | split

theorem State.cmdSnapRead_sealed {r s : State} (h : r.Sealed s) (e : SubEntry) : r.Sealed (State.cmdSnapRead s e) := by
  unfold State.cmdSnapRead
  repeat' first
    | with_reducible assumption
    | with_reducible exact Sealed.refl _
    | with_reducible apply Sealed.ite
    | with_reducible apply command_sealed
    | with_reducible apply done_sealed
    | with_reducible apply putHost_sealed
    | exact Fld.keyFree rfl
    | exact Hid.keyFree rfl
    | exact balFld_keyFree _
    | decide
    | with_reducible apply sealedParts_of
    | intro _
    | with_reducible refine Sealed.of_eq (by assumption) ?_
    | with_reducible refine Sealed.of_eq_snd (by assumption) ?_
    | simp only [sealed_mk]
    | split

theorem State.cmdErrLogRead_sealed {r s : State} (h : r.Sealed s) (e : SubEntry) : r.Sealed (State.cmdErrLogRead s e) := by
  unfold State.cmdErrLogRead
  repeat' first
    | with_reducible assumption
    | with_reducible exact Sealed.refl _
    | with_reducible apply Sealed.ite
    | with_reducible apply command_sealed
    | with_reducible apply done_sealed
    | with_reducible apply wr_sealed
    | with_reducible apply putHost_sealed
    | exact Fld.keyFree rfl
    | exact Hid.keyFree rfl
    | exact balFld_keyFree _
    | decide
    | with_reducible apply sealedParts_of
    | intro _
    | with_reducible refine Sealed.of_eq (by assumption) ?_
    | with_reducible refine Sealed.of_eq_snd (by assumption) ?_
    | simp only [sealed_mk]
    | split

theorem State.endScan_sealed {r s : State} (h : r.Sealed s) (e : SubEntry) (bs : List Byte) : r.Sealed (State.endScan s e bs) := by
  unfold State.endScan
  repeat' first
    | with_reducible assumption
    | with_reducible exact Sealed.refl _
    | with_reducible apply Sealed.ite
    | with_reducible apply complete_sealed
    | exact Fld.keyFree rfl
    | exact Hid.keyFree rfl
    | exact balFld_keyFree _
    | decide
    | with_reducible apply sealedParts_of
    | intro _
    | with_reducible refine Sealed.of_eq (by assumption) ?_
    | with_reducible refine Sealed.of_eq_snd (by assumption) ?_
    | simp only [sealed_mk]
    | split

theorem State.cmdScan_sealed {r s : State} (h : r.Sealed s) (e : SubEntry) : r.Sealed (State.cmdScan s e) := by
  unfold State.cmdScan
  repeat' first
    | with_reducible assumption
    | with_reducible exact Sealed.refl _
    | with_reducible apply Sealed.ite
    | with_reducible apply Sealed.ite_fst
    | with_reducible apply command_sealed
    | with_reducible apply done_sealed
    | with_reducible apply endScan_sealed
    | with_reducible apply vread_sealed
    | with_reducible apply doneWith_sealed
    | exact Fld.keyFree rfl
    | exact Hid.keyFree rfl
    | exact balFld_keyFree _
    | decide
    | with_reducible apply sealedParts_of
    | intro _
    | with_reducible refine Sealed.of_eq (by assumption) ?_
    | with_reducible refine Sealed.of_eq_snd (by assumption) ?_
    | simp only [sealed_mk]
    | split

theorem State.keyCommand_sealed {r s : State} (h : r.Sealed s) (e : SubEntry) (action : ℕ) : r.Sealed (State.keyCommand s e action) := by
  unfold State.keyCommand
  repeat' first
    | with_reducible assumption
    | with_reducible exact Sealed.refl _
    | with_reducible apply Sealed.ite
    | with_reducible apply done_sealed
    | with_reducible apply setH_sealed
    | exact Fld.keyFree rfl
    | exact Hid.keyFree rfl
    | exact balFld_keyFree _
    | decide
    | with_reducible apply sealedParts_of
    | intro _
    | with_reducible refine Sealed.of_eq (by assumption) ?_
    | with_reducible refine Sealed.of_eq_snd (by assumption) ?_
    | simp only [sealed_mk]
    | split

theorem State.cmdKeyNew_sealed {r s : State} (h : r.Sealed s) (e : SubEntry) : r.Sealed (State.cmdKeyNew s e) := by
  unfold State.cmdKeyNew
  repeat' first
    | with_reducible assumption
    | with_reducible exact Sealed.refl _
    | with_reducible apply Sealed.ite
    | with_reducible apply command_sealed
    | with_reducible apply keyCommand_sealed
    | exact Fld.keyFree rfl
    | exact Hid.keyFree rfl
    | exact balFld_keyFree _
    | decide
    | with_reducible apply sealedParts_of
    | intro _
    | with_reducible refine Sealed.of_eq (by assumption) ?_
    | with_reducible refine Sealed.of_eq_snd (by assumption) ?_
    | simp only [sealed_mk]
    | split

theorem State.cmdKeyErase_sealed {r s : State} (h : r.Sealed s) (e : SubEntry) : r.Sealed (State.cmdKeyErase s e) := by
  unfold State.cmdKeyErase
  repeat' first
    | with_reducible assumption
    | with_reducible exact Sealed.refl _
    | with_reducible apply Sealed.ite
    | with_reducible apply command_sealed
    | with_reducible apply keyCommand_sealed
    | exact Fld.keyFree rfl
    | exact Hid.keyFree rfl
    | exact balFld_keyFree _
    | decide
    | with_reducible apply sealedParts_of
    | intro _
    | with_reducible refine Sealed.of_eq (by assumption) ?_
    | with_reducible refine Sealed.of_eq_snd (by assumption) ?_
    | simp only [sealed_mk]
    | split

theorem State.cmdDebugNonce_sealed {r s : State} (h : r.Sealed s) (e : SubEntry) : r.Sealed (State.cmdDebugNonce s e) := by
  unfold State.cmdDebugNonce
  repeat' first
    | with_reducible assumption
    | with_reducible exact Sealed.refl _
    | with_reducible apply Sealed.ite
    | with_reducible apply command_sealed
    | with_reducible apply done_sealed
    | with_reducible apply putHost_sealed
    | exact Fld.keyFree rfl
    | exact Hid.keyFree rfl
    | exact balFld_keyFree _
    | decide
    | with_reducible apply sealedParts_of
    | intro _
    | with_reducible refine Sealed.of_eq (by assumption) ?_
    | with_reducible refine Sealed.of_eq_snd (by assumption) ?_
    | simp only [sealed_mk]
    | split

theorem State.flushEnc_sealed {r s : State} (h : r.Sealed s) : r.Sealed (State.flushEnc s) := by
  unfold State.flushEnc
  repeat' first
    | with_reducible assumption
    | with_reducible exact Sealed.refl _
    | with_reducible apply Sealed.ite
    | with_reducible apply flushLines_sealed
    | exact Fld.keyFree rfl
    | exact Hid.keyFree rfl
    | exact balFld_keyFree _
    | decide
    | with_reducible apply sealedParts_of
    | intro _
    | with_reducible refine Sealed.of_eq (by assumption) ?_
    | with_reducible refine Sealed.of_eq_snd (by assumption) ?_
    | simp only [sealed_mk]
    | split

theorem State.tryUnlock_sealed {r s : State} (h : r.Sealed s) (b : List Byte) : r.Sealed (State.tryUnlock s b).1 := by
  unfold State.tryUnlock
  repeat' first
    | with_reducible assumption
    | with_reducible exact Sealed.refl _
    | with_reducible apply Sealed.ite
    | with_reducible apply Sealed.ite_fst
    | with_reducible apply addH_sealed
    | with_reducible apply haltAll_sealed
    | with_reducible apply mark_sealed
    | with_reducible apply setObj_sealed
    | with_reducible apply setH_sealed
    | with_reducible apply flushEnc_sealed
    | with_reducible apply holdCores_sealed
    | with_reducible apply wr_sealed
    | exact Fld.keyFree rfl
    | exact Hid.keyFree rfl
    | exact balFld_keyFree _
    | decide
    | with_reducible apply sealedParts_of
    | intro _
    | with_reducible refine Sealed.of_eq (by assumption) ?_
    | with_reducible refine Sealed.of_eq_snd (by assumption) ?_
    | simp only [sealed_mk]
    | split

theorem State.cmdDebugUnlock_sealed {r s : State} (h : r.Sealed s) (e : SubEntry) : r.Sealed (State.cmdDebugUnlock s e) := by
  unfold State.cmdDebugUnlock
  repeat' first
    | with_reducible assumption
    | with_reducible exact Sealed.refl _
    | with_reducible apply Sealed.ite
    | with_reducible apply Sealed.ite_fst
    | with_reducible apply command_sealed
    | with_reducible apply tryUnlock_sealed
    | with_reducible apply done_sealed
    | exact Fld.keyFree rfl
    | exact Hid.keyFree rfl
    | exact balFld_keyFree _
    | decide
    | with_reducible apply sealedParts_of
    | intro _
    | with_reducible refine Sealed.of_eq (by assumption) ?_
    | with_reducible refine Sealed.of_eq_snd (by assumption) ?_
    | simp only [sealed_mk]
    | split

theorem State.cmdSvnCommit_sealed {r s : State} (h : r.Sealed s) (e : SubEntry) : r.Sealed (State.cmdSvnCommit s e) := by
  unfold State.cmdSvnCommit
  repeat' first
    | with_reducible assumption
    | with_reducible exact Sealed.refl _
    | with_reducible apply Sealed.ite
    | with_reducible apply command_sealed
    | with_reducible apply done_sealed
    | with_reducible apply newMeasurement_sealed
    | with_reducible apply wr_sealed
    | exact Fld.keyFree rfl
    | exact Hid.keyFree rfl
    | exact balFld_keyFree _
    | decide
    | with_reducible apply sealedParts_of
    | intro _
    | with_reducible refine Sealed.of_eq (by assumption) ?_
    | with_reducible refine Sealed.of_eq_snd (by assumption) ?_
    | simp only [sealed_mk]
    | split

theorem State.cmdKeyRevoke_sealed {r s : State} (h : r.Sealed s) (e : SubEntry) : r.Sealed (State.cmdKeyRevoke s e) := by
  unfold State.cmdKeyRevoke
  repeat' first
    | with_reducible assumption
    | with_reducible exact Sealed.refl _
    | with_reducible apply Sealed.ite
    | with_reducible apply command_sealed
    | with_reducible apply done_sealed
    | with_reducible apply newMeasurement_sealed
    | with_reducible apply wr_sealed
    | exact Fld.keyFree rfl
    | exact Hid.keyFree rfl
    | exact balFld_keyFree _
    | decide
    | with_reducible apply sealedParts_of
    | intro _
    | with_reducible refine Sealed.of_eq (by assumption) ?_
    | with_reducible refine Sealed.of_eq_snd (by assumption) ?_
    | simp only [sealed_mk]
    | split

theorem State.cmdPowerCap_sealed {r s : State} (h : r.Sealed s) (e : SubEntry) : r.Sealed (State.cmdPowerCap s e) := by
  unfold State.cmdPowerCap
  repeat' first
    | with_reducible assumption
    | with_reducible exact Sealed.refl _
    | with_reducible apply Sealed.ite
    | with_reducible apply command_sealed
    | with_reducible apply wr_sealed
    | with_reducible apply done_sealed
    | exact Fld.keyFree rfl
    | exact Hid.keyFree rfl
    | exact balFld_keyFree _
    | decide
    | with_reducible apply sealedParts_of
    | intro _
    | with_reducible refine Sealed.of_eq (by assumption) ?_
    | with_reducible refine Sealed.of_eq_snd (by assumption) ?_
    | simp only [sealed_mk]
    | split

theorem State.cmdPowerRead_sealed {r s : State} (h : r.Sealed s) (e : SubEntry) : r.Sealed (State.cmdPowerRead s e) := by
  unfold State.cmdPowerRead
  repeat' first
    | with_reducible assumption
    | with_reducible exact Sealed.refl _
    | with_reducible apply Sealed.ite
    | with_reducible apply command_sealed
    | with_reducible apply done_sealed
    | exact Fld.keyFree rfl
    | exact Hid.keyFree rfl
    | exact balFld_keyFree _
    | decide
    | with_reducible apply sealedParts_of
    | intro _
    | with_reducible refine Sealed.of_eq (by assumption) ?_
    | with_reducible refine Sealed.of_eq_snd (by assumption) ?_
    | simp only [sealed_mk]
    | split

theorem State.cmdThermCfg_sealed {r s : State} (h : r.Sealed s) (e : SubEntry) : r.Sealed (State.cmdThermCfg s e) := by
  unfold State.cmdThermCfg
  repeat' first
    | with_reducible assumption
    | with_reducible exact Sealed.refl _
    | with_reducible apply Sealed.ite
    | with_reducible apply command_sealed
    | with_reducible apply done_sealed
    | with_reducible apply wr_sealed
    | exact Fld.keyFree rfl
    | exact Hid.keyFree rfl
    | exact balFld_keyFree _
    | decide
    | with_reducible apply sealedParts_of
    | intro _
    | with_reducible refine Sealed.of_eq (by assumption) ?_
    | with_reducible refine Sealed.of_eq_snd (by assumption) ?_
    | simp only [sealed_mk]
    | split

theorem execConfig_sealed (e : SubEntry) {s : State} : s.SealedNext (execConfig e s) := by
  unfold execConfig
  repeat' first
    | with_reducible assumption
    | with_reducible exact Sealed.refl _
    | with_reducible apply SealedNext.next
    | with_reducible apply SealedNext.ite
    | with_reducible apply Sealed.ite
    | with_reducible apply cmdConfig_sealed
    | exact Fld.keyFree rfl
    | exact Hid.keyFree rfl
    | exact balFld_keyFree _
    | decide
    | with_reducible apply sealedParts_of
    | intro _
    | with_reducible refine Sealed.of_eq (by assumption) ?_
    | with_reducible refine Sealed.of_eq_snd (by assumption) ?_
    | simp only [sealed_mk]
    | split

theorem execHalt_sealed (e : SubEntry) {s : State} : s.SealedNext (execHalt e s) := by
  unfold execHalt
  repeat' first
    | with_reducible assumption
    | with_reducible exact Sealed.refl _
    | with_reducible apply SealedNext.next
    | with_reducible apply SealedNext.ite
    | with_reducible apply Sealed.ite
    | with_reducible apply cmdHalt_sealed
    | exact Fld.keyFree rfl
    | exact Hid.keyFree rfl
    | exact balFld_keyFree _
    | decide
    | with_reducible apply sealedParts_of
    | intro _
    | with_reducible refine Sealed.of_eq (by assumption) ?_
    | with_reducible refine Sealed.of_eq_snd (by assumption) ?_
    | simp only [sealed_mk]
    | split

theorem execRelease_sealed (e : SubEntry) {s : State} : s.SealedNext (execRelease e s) := by
  unfold execRelease
  repeat' first
    | with_reducible assumption
    | with_reducible exact Sealed.refl _
    | with_reducible apply SealedNext.next
    | with_reducible apply SealedNext.ite
    | with_reducible apply Sealed.ite
    | with_reducible apply cmdRelease_sealed
    | exact Fld.keyFree rfl
    | exact Hid.keyFree rfl
    | exact balFld_keyFree _
    | decide
    | with_reducible apply sealedParts_of
    | intro _
    | with_reducible refine Sealed.of_eq (by assumption) ?_
    | with_reducible refine Sealed.of_eq_snd (by assumption) ?_
    | simp only [sealed_mk]
    | split

theorem execCores_sealed (e : SubEntry) {s : State} : s.SealedNext (execCores e s) := by
  unfold execCores
  repeat' first
    | with_reducible assumption
    | with_reducible exact Sealed.refl _
    | with_reducible apply SealedNext.next
    | with_reducible apply SealedNext.ite
    | with_reducible apply Sealed.ite
    | with_reducible apply cmdCores_sealed
    | exact Fld.keyFree rfl
    | exact Hid.keyFree rfl
    | exact balFld_keyFree _
    | decide
    | with_reducible apply sealedParts_of
    | intro _
    | with_reducible refine Sealed.of_eq (by assumption) ?_
    | with_reducible refine Sealed.of_eq_snd (by assumption) ?_
    | simp only [sealed_mk]
    | split

theorem execPfWin_sealed (e : SubEntry) {s : State} : s.SealedNext (execPfWin e s) := by
  unfold execPfWin
  repeat' first
    | with_reducible assumption
    | with_reducible exact Sealed.refl _
    | with_reducible apply SealedNext.next
    | with_reducible apply SealedNext.ite
    | with_reducible apply Sealed.ite
    | with_reducible apply cmdPfWin_sealed
    | exact Fld.keyFree rfl
    | exact Hid.keyFree rfl
    | exact balFld_keyFree _
    | decide
    | with_reducible apply sealedParts_of
    | intro _
    | with_reducible refine Sealed.of_eq (by assumption) ?_
    | with_reducible refine Sealed.of_eq_snd (by assumption) ?_
    | simp only [sealed_mk]
    | split

theorem execBank_sealed (e : SubEntry) {s : State} : s.SealedNext (execBank e s) := by
  unfold execBank
  repeat' first
    | with_reducible assumption
    | with_reducible exact Sealed.refl _
    | with_reducible apply SealedNext.next
    | with_reducible apply SealedNext.ite
    | with_reducible apply Sealed.ite
    | with_reducible apply cmdBank_sealed
    | exact Fld.keyFree rfl
    | exact Hid.keyFree rfl
    | exact balFld_keyFree _
    | decide
    | with_reducible apply sealedParts_of
    | intro _
    | with_reducible refine Sealed.of_eq (by assumption) ?_
    | with_reducible refine Sealed.of_eq_snd (by assumption) ?_
    | simp only [sealed_mk]
    | split

theorem execFence_sealed (e : SubEntry) {s : State} : s.SealedNext (execFence e s) := by
  unfold execFence
  repeat' first
    | with_reducible assumption
    | with_reducible exact Sealed.refl _
    | with_reducible apply SealedNext.next
    | with_reducible apply SealedNext.ite
    | with_reducible apply Sealed.ite
    | with_reducible apply cmdFence_sealed
    | exact Fld.keyFree rfl
    | exact Hid.keyFree rfl
    | exact balFld_keyFree _
    | decide
    | with_reducible apply sealedParts_of
    | intro _
    | with_reducible refine Sealed.of_eq (by assumption) ?_
    | with_reducible refine Sealed.of_eq_snd (by assumption) ?_
    | simp only [sealed_mk]
    | split

theorem execUnfence_sealed (e : SubEntry) {s : State} : s.SealedNext (execUnfence e s) := by
  unfold execUnfence
  repeat' first
    | with_reducible assumption
    | with_reducible exact Sealed.refl _
    | with_reducible apply SealedNext.next
    | with_reducible apply SealedNext.ite
    | with_reducible apply Sealed.ite
    | with_reducible apply cmdUnfence_sealed
    | exact Fld.keyFree rfl
    | exact Hid.keyFree rfl
    | exact balFld_keyFree _
    | decide
    | with_reducible apply sealedParts_of
    | intro _
    | with_reducible refine Sealed.of_eq (by assumption) ?_
    | with_reducible refine Sealed.of_eq_snd (by assumption) ?_
    | simp only [sealed_mk]
    | split

theorem execRoute_sealed (e : SubEntry) {s : State} : s.SealedNext (execRoute e s) := by
  unfold execRoute
  repeat' first
    | with_reducible assumption
    | with_reducible exact Sealed.refl _
    | with_reducible apply SealedNext.next
    | with_reducible apply SealedNext.ite
    | with_reducible apply Sealed.ite
    | with_reducible apply cmdRoute_sealed
    | exact Fld.keyFree rfl
    | exact Hid.keyFree rfl
    | exact balFld_keyFree _
    | decide
    | with_reducible apply sealedParts_of
    | intro _
    | with_reducible refine Sealed.of_eq (by assumption) ?_
    | with_reducible refine Sealed.of_eq_snd (by assumption) ?_
    | simp only [sealed_mk]
    | split

theorem execFabricCfg_sealed (e : SubEntry) {s : State} : s.SealedNext (execFabricCfg e s) := by
  unfold execFabricCfg
  repeat' first
    | with_reducible assumption
    | with_reducible exact Sealed.refl _
    | with_reducible apply SealedNext.next
    | with_reducible apply SealedNext.ite
    | with_reducible apply Sealed.ite
    | with_reducible apply cmdFabricCfg_sealed
    | exact Fld.keyFree rfl
    | exact Hid.keyFree rfl
    | exact balFld_keyFree _
    | decide
    | with_reducible apply sealedParts_of
    | intro _
    | with_reducible refine Sealed.of_eq (by assumption) ?_
    | with_reducible refine Sealed.of_eq_snd (by assumption) ?_
    | simp only [sealed_mk]
    | split

theorem execModId_sealed (e : SubEntry) {s : State} : s.SealedNext (execModId e s) := by
  unfold execModId
  repeat' first
    | with_reducible assumption
    | with_reducible exact Sealed.refl _
    | with_reducible apply SealedNext.next
    | with_reducible apply SealedNext.ite
    | with_reducible apply Sealed.ite
    | with_reducible apply cmdModId_sealed
    | exact Fld.keyFree rfl
    | exact Hid.keyFree rfl
    | exact balFld_keyFree _
    | decide
    | with_reducible apply sealedParts_of
    | intro _
    | with_reducible refine Sealed.of_eq (by assumption) ?_
    | with_reducible refine Sealed.of_eq_snd (by assumption) ?_
    | simp only [sealed_mk]
    | split

theorem execLink_sealed (e : SubEntry) {s : State} : s.SealedNext (execLink e s) := by
  unfold execLink
  repeat' first
    | with_reducible assumption
    | with_reducible exact Sealed.refl _
    | with_reducible apply SealedNext.next
    | with_reducible apply SealedNext.ite
    | with_reducible apply Sealed.ite
    | with_reducible apply cmdLink_sealed
    | exact Fld.keyFree rfl
    | exact Hid.keyFree rfl
    | exact balFld_keyFree _
    | decide
    | with_reducible apply sealedParts_of
    | intro _
    | with_reducible refine Sealed.of_eq (by assumption) ?_
    | with_reducible refine Sealed.of_eq_snd (by assumption) ?_
    | simp only [sealed_mk]
    | split

theorem execFwLoad_sealed (e : SubEntry) {s : State} : s.SealedNext (execFwLoad e s) := by
  unfold execFwLoad
  repeat' first
    | with_reducible assumption
    | with_reducible exact Sealed.refl _
    | with_reducible apply SealedNext.next
    | with_reducible apply SealedNext.ite
    | with_reducible apply Sealed.ite
    | with_reducible apply cmdFwLoad_sealed
    | exact Fld.keyFree rfl
    | exact Hid.keyFree rfl
    | exact balFld_keyFree _
    | decide
    | with_reducible apply sealedParts_of
    | intro _
    | with_reducible refine Sealed.of_eq (by assumption) ?_
    | with_reducible refine Sealed.of_eq_snd (by assumption) ?_
    | simp only [sealed_mk]
    | split

theorem execFwSelect_sealed (e : SubEntry) {s : State} : s.SealedNext (execFwSelect e s) := by
  unfold execFwSelect
  repeat' first
    | with_reducible assumption
    | with_reducible exact Sealed.refl _
    | with_reducible apply SealedNext.next
    | with_reducible apply SealedNext.ite
    | with_reducible apply Sealed.ite
    | with_reducible apply cmdFwSelect_sealed
    | exact Fld.keyFree rfl
    | exact Hid.keyFree rfl
    | exact balFld_keyFree _
    | decide
    | with_reducible apply sealedParts_of
    | intro _
    | with_reducible refine Sealed.of_eq (by assumption) ?_
    | with_reducible refine Sealed.of_eq_snd (by assumption) ?_
    | simp only [sealed_mk]
    | split

theorem execManifest_sealed (e : SubEntry) {s : State} : s.SealedNext (execManifest e s) := by
  unfold execManifest
  repeat' first
    | with_reducible assumption
    | with_reducible exact Sealed.refl _
    | with_reducible apply SealedNext.next
    | with_reducible apply SealedNext.ite
    | with_reducible apply Sealed.ite
    | with_reducible apply cmdManifest_sealed
    | exact Fld.keyFree rfl
    | exact Hid.keyFree rfl
    | exact balFld_keyFree _
    | decide
    | with_reducible apply sealedParts_of
    | intro _
    | with_reducible refine Sealed.of_eq (by assumption) ?_
    | with_reducible refine Sealed.of_eq_snd (by assumption) ?_
    | simp only [sealed_mk]
    | split

theorem execOverride_sealed (e : SubEntry) {s : State} : s.SealedNext (execOverride e s) := by
  unfold execOverride
  repeat' first
    | with_reducible assumption
    | with_reducible exact Sealed.refl _
    | with_reducible apply SealedNext.next
    | with_reducible apply SealedNext.ite
    | with_reducible apply Sealed.ite
    | with_reducible apply cmdOverride_sealed
    | exact Fld.keyFree rfl
    | exact Hid.keyFree rfl
    | exact balFld_keyFree _
    | decide
    | with_reducible apply sealedParts_of
    | intro _
    | with_reducible refine Sealed.of_eq (by assumption) ?_
    | with_reducible refine Sealed.of_eq_snd (by assumption) ?_
    | simp only [sealed_mk]
    | split

theorem execRepair_sealed (e : SubEntry) {s : State} : s.SealedNext (execRepair e s) := by
  unfold execRepair
  repeat' first
    | with_reducible assumption
    | with_reducible exact Sealed.refl _
    | with_reducible apply SealedNext.next
    | with_reducible apply SealedNext.ite
    | with_reducible apply Sealed.ite
    | with_reducible apply cmdRepair_sealed
    | exact Fld.keyFree rfl
    | exact Hid.keyFree rfl
    | exact balFld_keyFree _
    | decide
    | with_reducible apply sealedParts_of
    | intro _
    | with_reducible refine Sealed.of_eq (by assumption) ?_
    | with_reducible refine Sealed.of_eq_snd (by assumption) ?_
    | simp only [sealed_mk]
    | split

theorem execSnapRead_sealed (e : SubEntry) {s : State} : s.SealedNext (execSnapRead e s) := by
  unfold execSnapRead
  repeat' first
    | with_reducible assumption
    | with_reducible exact Sealed.refl _
    | with_reducible apply SealedNext.next
    | with_reducible apply SealedNext.ite
    | with_reducible apply Sealed.ite
    | with_reducible apply cmdSnapRead_sealed
    | exact Fld.keyFree rfl
    | exact Hid.keyFree rfl
    | exact balFld_keyFree _
    | decide
    | with_reducible apply sealedParts_of
    | intro _
    | with_reducible refine Sealed.of_eq (by assumption) ?_
    | with_reducible refine Sealed.of_eq_snd (by assumption) ?_
    | simp only [sealed_mk]
    | split

theorem execErrLogRead_sealed (e : SubEntry) {s : State} : s.SealedNext (execErrLogRead e s) := by
  unfold execErrLogRead
  repeat' first
    | with_reducible assumption
    | with_reducible exact Sealed.refl _
    | with_reducible apply SealedNext.next
    | with_reducible apply SealedNext.ite
    | with_reducible apply Sealed.ite
    | with_reducible apply cmdErrLogRead_sealed
    | exact Fld.keyFree rfl
    | exact Hid.keyFree rfl
    | exact balFld_keyFree _
    | decide
    | with_reducible apply sealedParts_of
    | intro _
    | with_reducible refine Sealed.of_eq (by assumption) ?_
    | with_reducible refine Sealed.of_eq_snd (by assumption) ?_
    | simp only [sealed_mk]
    | split

theorem execScan_sealed (e : SubEntry) {s : State} : s.SealedNext (execScan e s) := by
  unfold execScan
  repeat' first
    | with_reducible assumption
    | with_reducible exact Sealed.refl _
    | with_reducible apply SealedNext.next
    | with_reducible apply SealedNext.ite
    | with_reducible apply Sealed.ite
    | with_reducible apply cmdScan_sealed
    | exact Fld.keyFree rfl
    | exact Hid.keyFree rfl
    | exact balFld_keyFree _
    | decide
    | with_reducible apply sealedParts_of
    | intro _
    | with_reducible refine Sealed.of_eq (by assumption) ?_
    | with_reducible refine Sealed.of_eq_snd (by assumption) ?_
    | simp only [sealed_mk]
    | split

theorem execKeyNew_sealed (e : SubEntry) {s : State} : s.SealedNext (execKeyNew e s) := by
  unfold execKeyNew
  repeat' first
    | with_reducible assumption
    | with_reducible exact Sealed.refl _
    | with_reducible apply SealedNext.next
    | with_reducible apply SealedNext.ite
    | with_reducible apply Sealed.ite
    | with_reducible apply cmdKeyNew_sealed
    | exact Fld.keyFree rfl
    | exact Hid.keyFree rfl
    | exact balFld_keyFree _
    | decide
    | with_reducible apply sealedParts_of
    | intro _
    | with_reducible refine Sealed.of_eq (by assumption) ?_
    | with_reducible refine Sealed.of_eq_snd (by assumption) ?_
    | simp only [sealed_mk]
    | split

theorem execKeyErase_sealed (e : SubEntry) {s : State} : s.SealedNext (execKeyErase e s) := by
  unfold execKeyErase
  repeat' first
    | with_reducible assumption
    | with_reducible exact Sealed.refl _
    | with_reducible apply SealedNext.next
    | with_reducible apply SealedNext.ite
    | with_reducible apply Sealed.ite
    | with_reducible apply cmdKeyErase_sealed
    | exact Fld.keyFree rfl
    | exact Hid.keyFree rfl
    | exact balFld_keyFree _
    | decide
    | with_reducible apply sealedParts_of
    | intro _
    | with_reducible refine Sealed.of_eq (by assumption) ?_
    | with_reducible refine Sealed.of_eq_snd (by assumption) ?_
    | simp only [sealed_mk]
    | split

theorem execDebugNonce_sealed (e : SubEntry) {s : State} : s.SealedNext (execDebugNonce e s) := by
  unfold execDebugNonce
  repeat' first
    | with_reducible assumption
    | with_reducible exact Sealed.refl _
    | with_reducible apply SealedNext.next
    | with_reducible apply SealedNext.ite
    | with_reducible apply Sealed.ite
    | with_reducible apply cmdDebugNonce_sealed
    | exact Fld.keyFree rfl
    | exact Hid.keyFree rfl
    | exact balFld_keyFree _
    | decide
    | with_reducible apply sealedParts_of
    | intro _
    | with_reducible refine Sealed.of_eq (by assumption) ?_
    | with_reducible refine Sealed.of_eq_snd (by assumption) ?_
    | simp only [sealed_mk]
    | split

theorem execDebugUnlock_sealed (e : SubEntry) {s : State} : s.SealedNext (execDebugUnlock e s) := by
  unfold execDebugUnlock
  repeat' first
    | with_reducible assumption
    | with_reducible exact Sealed.refl _
    | with_reducible apply SealedNext.next
    | with_reducible apply SealedNext.ite
    | with_reducible apply Sealed.ite
    | with_reducible apply cmdDebugUnlock_sealed
    | exact Fld.keyFree rfl
    | exact Hid.keyFree rfl
    | exact balFld_keyFree _
    | decide
    | with_reducible apply sealedParts_of
    | intro _
    | with_reducible refine Sealed.of_eq (by assumption) ?_
    | with_reducible refine Sealed.of_eq_snd (by assumption) ?_
    | simp only [sealed_mk]
    | split

theorem execSvnCommit_sealed (e : SubEntry) {s : State} : s.SealedNext (execSvnCommit e s) := by
  unfold execSvnCommit
  repeat' first
    | with_reducible assumption
    | with_reducible exact Sealed.refl _
    | with_reducible apply SealedNext.next
    | with_reducible apply SealedNext.ite
    | with_reducible apply Sealed.ite
    | with_reducible apply cmdSvnCommit_sealed
    | exact Fld.keyFree rfl
    | exact Hid.keyFree rfl
    | exact balFld_keyFree _
    | decide
    | with_reducible apply sealedParts_of
    | intro _
    | with_reducible refine Sealed.of_eq (by assumption) ?_
    | with_reducible refine Sealed.of_eq_snd (by assumption) ?_
    | simp only [sealed_mk]
    | split

theorem execKeyRevoke_sealed (e : SubEntry) {s : State} : s.SealedNext (execKeyRevoke e s) := by
  unfold execKeyRevoke
  repeat' first
    | with_reducible assumption
    | with_reducible exact Sealed.refl _
    | with_reducible apply SealedNext.next
    | with_reducible apply SealedNext.ite
    | with_reducible apply Sealed.ite
    | with_reducible apply cmdKeyRevoke_sealed
    | exact Fld.keyFree rfl
    | exact Hid.keyFree rfl
    | exact balFld_keyFree _
    | decide
    | with_reducible apply sealedParts_of
    | intro _
    | with_reducible refine Sealed.of_eq (by assumption) ?_
    | with_reducible refine Sealed.of_eq_snd (by assumption) ?_
    | simp only [sealed_mk]
    | split

theorem execPowerCap_sealed (e : SubEntry) {s : State} : s.SealedNext (execPowerCap e s) := by
  unfold execPowerCap
  repeat' first
    | with_reducible assumption
    | with_reducible exact Sealed.refl _
    | with_reducible apply SealedNext.next
    | with_reducible apply SealedNext.ite
    | with_reducible apply Sealed.ite
    | with_reducible apply cmdPowerCap_sealed
    | exact Fld.keyFree rfl
    | exact Hid.keyFree rfl
    | exact balFld_keyFree _
    | decide
    | with_reducible apply sealedParts_of
    | intro _
    | with_reducible refine Sealed.of_eq (by assumption) ?_
    | with_reducible refine Sealed.of_eq_snd (by assumption) ?_
    | simp only [sealed_mk]
    | split

theorem execPowerRead_sealed (e : SubEntry) {s : State} : s.SealedNext (execPowerRead e s) := by
  unfold execPowerRead
  repeat' first
    | with_reducible assumption
    | with_reducible exact Sealed.refl _
    | with_reducible apply SealedNext.next
    | with_reducible apply SealedNext.ite
    | with_reducible apply Sealed.ite
    | with_reducible apply cmdPowerRead_sealed
    | exact Fld.keyFree rfl
    | exact Hid.keyFree rfl
    | exact balFld_keyFree _
    | decide
    | with_reducible apply sealedParts_of
    | intro _
    | with_reducible refine Sealed.of_eq (by assumption) ?_
    | with_reducible refine Sealed.of_eq_snd (by assumption) ?_
    | simp only [sealed_mk]
    | split

theorem execThermCfg_sealed (e : SubEntry) {s : State} : s.SealedNext (execThermCfg e s) := by
  unfold execThermCfg
  repeat' first
    | with_reducible assumption
    | with_reducible exact Sealed.refl _
    | with_reducible apply SealedNext.next
    | with_reducible apply SealedNext.ite
    | with_reducible apply Sealed.ite
    | with_reducible apply cmdThermCfg_sealed
    | exact Fld.keyFree rfl
    | exact Hid.keyFree rfl
    | exact balFld_keyFree _
    | decide
    | with_reducible apply sealedParts_of
    | intro _
    | with_reducible refine Sealed.of_eq (by assumption) ?_
    | with_reducible refine Sealed.of_eq_snd (by assumption) ?_
    | simp only [sealed_mk]
    | split

theorem State.readEntries_sealed {r s : State} (h : r.Sealed s) (q : ℕ) (tag : ℕ) (i : ℕ) (y4 : ℕ) : r.Sealed (State.readEntries s q tag i y4).1 := by
  induction y4 generalizing s q tag i with
  | zero =>
    unfold State.readEntries
    repeat' first
      | with_reducible assumption
      | with_reducible exact Sealed.refl _
      | with_reducible apply Sealed.ite
      | with_reducible apply Sealed.ite_fst
      | with_reducible apply vread_sealed
      | exact Fld.keyFree rfl
      | exact Hid.keyFree rfl
      | exact balFld_keyFree _
      | decide
      | with_reducible apply sealedParts_of
      | intro _
      | with_reducible refine Sealed.of_eq (by assumption) ?_
      | with_reducible refine Sealed.of_eq_snd (by assumption) ?_
      | simp only [sealed_mk]
      | split
  | succ n0 ih =>
    unfold State.readEntries
    repeat' first
      | with_reducible assumption
      | with_reducible exact Sealed.refl _
      | with_reducible apply Sealed.ite
      | with_reducible apply Sealed.ite_fst
      | with_reducible apply vread_sealed
      | with_reducible apply ih
      | exact Fld.keyFree rfl
      | exact Hid.keyFree rfl
      | exact balFld_keyFree _
      | decide
      | with_reducible apply sealedParts_of
      | intro _
      | with_reducible refine Sealed.of_eq (by assumption) ?_
      | with_reducible refine Sealed.of_eq_snd (by assumption) ?_
      | simp only [sealed_mk]
      | split

theorem State.cmdPlace_sealed {r s : State} (h : r.Sealed s) (e : SubEntry) : r.Sealed (State.cmdPlace s e) := by
  unfold State.cmdPlace
  repeat' first
    | with_reducible assumption
    | with_reducible exact Sealed.refl _
    | with_reducible apply Sealed.ite
    | with_reducible apply Sealed.ite_fst
    | with_reducible apply command_sealed
    | with_reducible apply readEntries_sealed
    | with_reducible apply doneWith_sealed
    | with_reducible apply vwrite_sealed
    | rw [List.foldl_cons]
    | rw [List.foldl_nil]
    | exact Fld.keyFree rfl
    | exact Hid.keyFree rfl
    | exact balFld_keyFree _
    | decide
    | with_reducible refine Sealed.foldl ?_ (fun u x => ?_)
    | with_reducible refine Sealed.foldl_fst ?_ (fun u x => ?_)
    | with_reducible apply sealedParts_of
    | intro _
    | with_reducible refine Sealed.of_eq (by assumption) ?_
    | with_reducible refine Sealed.of_eq_snd (by assumption) ?_
    | simp only [sealed_mk]
    | split

theorem execPlace_sealed (e : SubEntry) {s : State} : s.SealedNext (execPlace e s) := by
  unfold execPlace
  repeat' first
    | with_reducible assumption
    | with_reducible exact Sealed.refl _
    | with_reducible apply SealedNext.next
    | with_reducible apply SealedNext.ite
    | with_reducible apply Sealed.ite
    | with_reducible apply cmdPlace_sealed
    | exact Fld.keyFree rfl
    | exact Hid.keyFree rfl
    | exact balFld_keyFree _
    | decide
    | with_reducible apply sealedParts_of
    | intro _
    | with_reducible refine Sealed.of_eq (by assumption) ?_
    | with_reducible refine Sealed.of_eq_snd (by assumption) ?_
    | simp only [sealed_mk]
    | split

theorem State.dispatch_sealed {r s : State} (h : r.Sealed s) (e : SubEntry) : r.Sealed (State.dispatch s e) := by
  unfold State.dispatch
  repeat' first
    | with_reducible assumption
    | with_reducible exact Sealed.refl _
    | with_reducible apply Sealed.ite
    | with_reducible apply cmdNop_sealed
    | with_reducible apply cmdVersion_sealed
    | with_reducible apply cmdSubmit_sealed
    | with_reducible apply cmdPlan_sealed
    | with_reducible apply cmdInvalidate_sealed
    | with_reducible apply cmdAbortFault_sealed
    | with_reducible apply cmdFqHead_sealed
    | with_reducible apply cmdMmuCfg_sealed
    | with_reducible apply cmdPlace_sealed
    | with_reducible apply cmdReleaseKeep_sealed
    | with_reducible apply cmdUnit_sealed
    | with_reducible apply cmdHostWin_sealed
    | with_reducible apply cmdSwap_sealed
    | with_reducible apply cmdAdvance_sealed
    | with_reducible apply cmdBarrier_sealed
    | with_reducible apply cmdBufCfg_sealed
    | with_reducible apply cmdCbLoad_sealed
    | with_reducible apply cmdCbUnload_sealed
    | with_reducible apply cmdVerdict_sealed
    | with_reducible apply cmdSetScale_sealed
    | with_reducible apply cmdSetStep_sealed
    | with_reducible apply cmdJournal_sealed
    | with_reducible apply cmdHist_sealed
    | with_reducible apply cmdConfig_sealed
    | with_reducible apply cmdHalt_sealed
    | with_reducible apply cmdRelease_sealed
    | with_reducible apply cmdCores_sealed
    | with_reducible apply cmdPfWin_sealed
    | with_reducible apply cmdBank_sealed
    | with_reducible apply cmdFence_sealed
    | with_reducible apply cmdRoute_sealed
    | with_reducible apply cmdFabricCfg_sealed
    | with_reducible apply cmdModId_sealed
    | with_reducible apply cmdLink_sealed
    | with_reducible apply cmdFwLoad_sealed
    | with_reducible apply cmdFwSelect_sealed
    | with_reducible apply cmdManifest_sealed
    | with_reducible apply cmdOverride_sealed
    | with_reducible apply cmdRepair_sealed
    | with_reducible apply cmdUnfence_sealed
    | with_reducible apply cmdSnapRead_sealed
    | with_reducible apply cmdErrLogRead_sealed
    | with_reducible apply cmdScan_sealed
    | with_reducible apply cmdKeyNew_sealed
    | with_reducible apply cmdKeyErase_sealed
    | with_reducible apply cmdDebugNonce_sealed
    | with_reducible apply cmdDebugUnlock_sealed
    | with_reducible apply cmdSvnCommit_sealed
    | with_reducible apply cmdKeyRevoke_sealed
    | with_reducible apply cmdPowerCap_sealed
    | with_reducible apply cmdPowerRead_sealed
    | with_reducible apply cmdThermCfg_sealed
    | with_reducible apply command_sealed
    | exact Fld.keyFree rfl
    | exact Hid.keyFree rfl
    | exact balFld_keyFree _
    | decide
    | with_reducible apply sealedParts_of
    | intro _
    | with_reducible refine Sealed.of_eq (by assumption) ?_
    | with_reducible refine Sealed.of_eq_snd (by assumption) ?_
    | simp only [sealed_mk]
    | split

theorem State.discardDb_sealed {r s : State} (h : r.Sealed s) (page : ℕ) (off : ℕ) : r.Sealed (State.discardDb s page off) := by
  unfold State.discardDb
  repeat' first
    | with_reducible assumption
    | with_reducible exact Sealed.refl _
    | with_reducible apply Sealed.ite
    | with_reducible apply fnErr_sealed
    | with_reducible apply mark_sealed
    | exact Fld.keyFree rfl
    | exact Hid.keyFree rfl
    | exact balFld_keyFree _
    | decide
    | with_reducible apply sealedParts_of
    | intro _
    | with_reducible refine Sealed.of_eq (by assumption) ?_
    | with_reducible refine Sealed.of_eq_snd (by assumption) ?_
    | simp only [sealed_mk]
    | split

theorem State.doorbell_sealed {r s : State} (h : r.Sealed s) (a : Agent) (port : ℕ) (page : ℕ) (off : ℕ) (body : State → State) (hbody : ∀ (u :
    State), u.Sealed (body u)) : r.Sealed (State.doorbell s a port page off body) := by
  unfold State.doorbell
  repeat' first
    | with_reducible assumption
    | with_reducible exact Sealed.refl _
    | with_reducible apply Sealed.ite
    | with_reducible refine Sealed.trans ?_ (hbody _)
    | with_reducible apply fnErr_sealed
    | exact Fld.keyFree rfl
    | exact Hid.keyFree rfl
    | exact balFld_keyFree _
    | decide
    | with_reducible apply sealedParts_of
    | intro _
    | with_reducible refine Sealed.of_eq (by assumption) ?_
    | with_reducible refine Sealed.of_eq_snd (by assumption) ?_
    | simp only [sealed_mk]
    | split

theorem State.writeTail_sealed {r s : State} (h : r.Sealed s) (page : ℕ) (tail : ℕ) : r.Sealed (State.writeTail s page tail) := by
  unfold State.writeTail
  repeat' first
    | with_reducible assumption
    | with_reducible exact Sealed.refl _
    | with_reducible apply Sealed.ite
    | with_reducible apply discardDb_sealed
    | with_reducible apply wr_sealed
    | exact Fld.keyFree rfl
    | exact Hid.keyFree rfl
    | exact balFld_keyFree _
    | decide
    | with_reducible apply sealedParts_of
    | intro _
    | with_reducible refine Sealed.of_eq (by assumption) ?_
    | with_reducible refine Sealed.of_eq_snd (by assumption) ?_
    | simp only [sealed_mk]
    | split

theorem State.writeHead_sealed {r s : State} (h : r.Sealed s) (page : ℕ) (head : ℕ) : r.Sealed (State.writeHead s page head) := by
  unfold State.writeHead
  repeat' first
    | with_reducible assumption
    | with_reducible exact Sealed.refl _
    | with_reducible apply Sealed.ite
    | with_reducible apply discardDb_sealed
    | with_reducible apply wr_sealed
    | with_reducible apply drainCq_sealed
    | exact Fld.keyFree rfl
    | exact Hid.keyFree rfl
    | exact balFld_keyFree _
    | decide
    | with_reducible apply sealedParts_of
    | intro _
    | with_reducible refine Sealed.of_eq (by assumption) ?_
    | with_reducible refine Sealed.of_eq_snd (by assumption) ?_
    | simp only [sealed_mk]
    | split

theorem State.writeRing_sealed {r s : State} (h : r.Sealed s) (page : ℕ) (cq : Bool) (val : ℕ) : r.Sealed (State.writeRing s page cq val) := by
  unfold State.writeRing
  repeat' first
    | with_reducible assumption
    | with_reducible exact Sealed.refl _
    | with_reducible apply Sealed.ite
    | with_reducible apply wr_sealed
    | with_reducible apply drainCq_sealed
    | exact Fld.keyFree rfl
    | exact Hid.keyFree rfl
    | exact balFld_keyFree _
    | decide
    | with_reducible apply sealedParts_of
    | intro _
    | with_reducible refine Sealed.of_eq (by assumption) ?_
    | with_reducible refine Sealed.of_eq_snd (by assumption) ?_
    | simp only [sealed_mk]
    | split

theorem State.writeGo_sealed {r s : State} (h : r.Sealed s) (page : ℕ) (line : Line) : r.Sealed (State.writeGo s page line) := by
  unfold State.writeGo
  repeat' first
    | with_reducible assumption
    | with_reducible exact Sealed.refl _
    | with_reducible apply Sealed.ite
    | with_reducible apply discardDb_sealed
    | with_reducible apply mark_sealed
    | with_reducible apply dispatch_sealed
    | exact Fld.keyFree rfl
    | exact Hid.keyFree rfl
    | exact balFld_keyFree _
    | decide
    | with_reducible apply sealedParts_of
    | intro _
    | with_reducible refine Sealed.of_eq (by assumption) ?_
    | with_reducible refine Sealed.of_eq_snd (by assumption) ?_
    | simp only [sealed_mk]
    | split

theorem State.submitStall_sealed {r s : State} (h : r.Sealed s) (q : ℕ) : r.Sealed (State.submitStall s q) := by
  unfold State.submitStall
  repeat' first
    | with_reducible assumption
    | with_reducible exact Sealed.refl _
    | with_reducible apply Sealed.ite
    | with_reducible apply setH_sealed
    | exact Fld.keyFree rfl
    | exact Hid.keyFree rfl
    | exact balFld_keyFree _
    | decide
    | with_reducible apply sealedParts_of
    | intro _
    | with_reducible refine Sealed.of_eq (by assumption) ?_
    | with_reducible refine Sealed.of_eq_snd (by assumption) ?_
    | simp only [sealed_mk]
    | split

theorem State.submitGo_sealed {r s : State} (h : r.Sealed s) (q : ℕ) : r.Sealed (State.submitGo s q) := by
  unfold State.submitGo
  repeat' first
    | with_reducible assumption
    | with_reducible exact Sealed.refl _
    | with_reducible apply Sealed.ite
    | with_reducible apply setH_sealed
    | with_reducible apply ev_sealed
    | exact Fld.keyFree rfl
    | exact Hid.keyFree rfl
    | exact balFld_keyFree _
    | decide
    | with_reducible apply sealedParts_of
    | intro _
    | with_reducible refine Sealed.of_eq (by assumption) ?_
    | with_reducible refine Sealed.of_eq_snd (by assumption) ?_
    | simp only [sealed_mk]
    | split

theorem State.copyFrom_sealed {r s : State} (h : r.Sealed s) (y1 : List ℕ) : r.Sealed (State.copyFrom s y1) := by
  induction y1 generalizing s with
  | nil =>
    unfold State.copyFrom
    repeat' first
      | with_reducible assumption
      | with_reducible exact Sealed.refl _
      | with_reducible apply Sealed.ite
      | with_reducible apply Sealed.ite_fst
      | with_reducible apply ringRead_sealed
      | with_reducible apply ringFault_sealed
      | with_reducible apply submitStall_sealed
      | with_reducible apply submitGo_sealed
      | with_reducible apply setH_sealed
      | with_reducible apply wr_sealed
      | with_reducible apply dispatch_sealed
      | exact Fld.keyFree rfl
      | exact Hid.keyFree rfl
      | exact balFld_keyFree _
      | decide
      | with_reducible apply sealedParts_of
      | intro _
      | with_reducible refine Sealed.of_eq (by assumption) ?_
      | with_reducible refine Sealed.of_eq_snd (by assumption) ?_
      | simp only [sealed_mk]
      | split
  | cons z l ih =>
    unfold State.copyFrom
    repeat' first
      | with_reducible assumption
      | with_reducible exact Sealed.refl _
      | with_reducible apply Sealed.ite
      | with_reducible apply Sealed.ite_fst
      | with_reducible apply ringRead_sealed
      | with_reducible apply ringFault_sealed
      | with_reducible apply submitStall_sealed
      | with_reducible apply submitGo_sealed
      | with_reducible apply setH_sealed
      | with_reducible apply wr_sealed
      | with_reducible apply dispatch_sealed
      | with_reducible apply ih
      | exact Fld.keyFree rfl
      | exact Hid.keyFree rfl
      | exact balFld_keyFree _
      | decide
      | with_reducible apply sealedParts_of
      | intro _
      | with_reducible refine Sealed.of_eq (by assumption) ?_
      | with_reducible refine Sealed.of_eq_snd (by assumption) ?_
      | simp only [sealed_mk]
      | split

theorem execSqDoorbell_sealed (a : Agent) (port : ℕ) (page : ℕ) (tail : ℕ) {s : State} : s.SealedNext (execSqDoorbell a port page tail s) := by
  unfold execSqDoorbell
  repeat' first
    | with_reducible assumption
    | with_reducible exact Sealed.refl _
    | with_reducible apply SealedNext.next
    | with_reducible apply SealedNext.ite
    | with_reducible apply Sealed.ite
    | with_reducible apply doorbell_sealed
    | with_reducible apply writeTail_sealed
    | exact Fld.keyFree rfl
    | exact Hid.keyFree rfl
    | exact balFld_keyFree _
    | decide
    | with_reducible apply sealedParts_of
    | intro _
    | with_reducible refine Sealed.of_eq (by assumption) ?_
    | with_reducible refine Sealed.of_eq_snd (by assumption) ?_
    | simp only [sealed_mk]
    | split

theorem execCqDoorbell_sealed (a : Agent) (port : ℕ) (page : ℕ) (head : ℕ) {s : State} : s.SealedNext (execCqDoorbell a port page head s) := by
  unfold execCqDoorbell
  repeat' first
    | with_reducible assumption
    | with_reducible exact Sealed.refl _
    | with_reducible apply SealedNext.next
    | with_reducible apply SealedNext.ite
    | with_reducible apply Sealed.ite
    | with_reducible apply doorbell_sealed
    | with_reducible apply writeHead_sealed
    | exact Fld.keyFree rfl
    | exact Hid.keyFree rfl
    | exact balFld_keyFree _
    | decide
    | with_reducible apply sealedParts_of
    | intro _
    | with_reducible refine Sealed.of_eq (by assumption) ?_
    | with_reducible refine Sealed.of_eq_snd (by assumption) ?_
    | simp only [sealed_mk]
    | split

theorem execRingConfig_sealed (a : Agent) (page : ℕ) (cq : Bool) (val : ℕ) {s : State} : s.SealedNext (execRingConfig a page cq val s) := by
  unfold execRingConfig
  repeat' first
    | with_reducible assumption
    | with_reducible exact Sealed.refl _
    | with_reducible apply SealedNext.next
    | with_reducible apply SealedNext.ite
    | with_reducible apply Sealed.ite
    | with_reducible apply writeRing_sealed
    | with_reducible apply fnErr_sealed
    | exact Fld.keyFree rfl
    | exact Hid.keyFree rfl
    | exact balFld_keyFree _
    | decide
    | with_reducible apply sealedParts_of
    | intro _
    | with_reducible refine Sealed.of_eq (by assumption) ?_
    | with_reducible refine Sealed.of_eq_snd (by assumption) ?_
    | simp only [sealed_mk]
    | split

theorem execUrgentGo_sealed (a : Agent) (port : ℕ) (page : ℕ) (line : Line) {s : State} : s.SealedNext (execUrgentGo a port page line s) := by
  unfold execUrgentGo
  repeat' first
    | with_reducible assumption
    | with_reducible exact Sealed.refl _
    | with_reducible apply SealedNext.next
    | with_reducible apply SealedNext.ite
    | with_reducible apply Sealed.ite
    | with_reducible apply doorbell_sealed
    | with_reducible apply writeGo_sealed
    | exact Fld.keyFree rfl
    | exact Hid.keyFree rfl
    | exact balFld_keyFree _
    | decide
    | with_reducible apply sealedParts_of
    | intro _
    | with_reducible refine Sealed.of_eq (by assumption) ?_
    | with_reducible refine Sealed.of_eq_snd (by assumption) ?_
    | simp only [sealed_mk]
    | split

theorem execSqEntryCopy_sealed (t : ℕ) {s : State} : s.SealedNext (execSqEntryCopy t s) := by
  unfold execSqEntryCopy
  repeat' first
    | with_reducible assumption
    | with_reducible exact Sealed.refl _
    | with_reducible apply SealedNext.next
    | with_reducible apply SealedNext.ite
    | with_reducible apply Sealed.ite
    | with_reducible apply goTo_sealed
    | with_reducible apply pumpPlans_sealed
    | with_reducible apply serveMcRing_sealed
    | with_reducible apply copyFrom_sealed
    | exact Fld.keyFree rfl
    | exact Hid.keyFree rfl
    | exact balFld_keyFree _
    | decide
    | with_reducible apply sealedParts_of
    | intro _
    | with_reducible refine Sealed.of_eq (by assumption) ?_
    | with_reducible refine Sealed.of_eq_snd (by assumption) ?_
    | simp only [sealed_mk]
    | split

theorem State.pagePut_sealed {r s : State} (h : r.Sealed s) (a : Agent) (port : ℕ) (page : ℕ) (o : ℕ) (val : ℕ) : r.Sealed (State.pagePut s a port
    page o val) := by
  unfold State.pagePut
  repeat' first
    | with_reducible assumption
    | with_reducible exact Sealed.refl _
    | with_reducible apply Sealed.ite
    | with_reducible apply writeRing_sealed
    | with_reducible apply doorbell_sealed
    | with_reducible apply writeTail_sealed
    | with_reducible apply writeHead_sealed
    | with_reducible apply clearBits_sealed
    | with_reducible apply writeGo_sealed
    | exact Fld.keyFree rfl
    | exact Hid.keyFree rfl
    | exact balFld_keyFree _
    | decide
    | with_reducible apply sealedParts_of
    | intro _
    | with_reducible refine Sealed.of_eq (by assumption) ?_
    | with_reducible refine Sealed.of_eq_snd (by assumption) ?_
    | simp only [sealed_mk]
    | split

theorem State.pageWrite_sealed {r s : State} (h : r.Sealed s) (a : Agent) (port : ℕ) (page : ℕ) (o : ℕ) (val : ℕ) : r.Sealed (State.pageWrite s a port
    page o val) := by
  unfold State.pageWrite
  repeat' first
    | with_reducible assumption
    | with_reducible exact Sealed.refl _
    | with_reducible apply Sealed.ite
    | with_reducible apply pagePut_sealed
    | with_reducible apply fnErr_sealed
    | exact Fld.keyFree rfl
    | exact Hid.keyFree rfl
    | exact balFld_keyFree _
    | decide
    | with_reducible apply sealedParts_of
    | intro _
    | with_reducible refine Sealed.of_eq (by assumption) ?_
    | with_reducible refine Sealed.of_eq_snd (by assumption) ?_
    | simp only [sealed_mk]
    | split

theorem State.pageRead_sealed {r s : State} (h : r.Sealed s) (a : Agent) (page : ℕ) (o : ℕ) : r.Sealed (State.pageRead s a page o).1 := by
  unfold State.pageRead
  repeat' first
    | with_reducible assumption
    | with_reducible exact Sealed.refl _
    | with_reducible apply Sealed.ite
    | with_reducible apply Sealed.ite_fst
    | with_reducible apply fnErr_sealed
    | exact Fld.keyFree rfl
    | exact Hid.keyFree rfl
    | exact balFld_keyFree _
    | decide
    | with_reducible apply sealedParts_of
    | intro _
    | with_reducible refine Sealed.of_eq (by assumption) ?_
    | with_reducible refine Sealed.of_eq_snd (by assumption) ?_
    | simp only [sealed_mk]
    | split

theorem State.msixPut_sealed {r s : State} (h : r.Sealed s) (port : ℕ) (func : ℕ) (o : ℕ) (d : ℕ) : r.Sealed (State.msixPut s port func o d) := by
  unfold State.msixPut
  repeat' first
    | with_reducible assumption
    | with_reducible exact Sealed.refl _
    | with_reducible apply Sealed.ite
    | with_reducible apply setH_sealed
    | with_reducible apply sendMsix_sealed
    | exact Fld.keyFree rfl
    | exact Hid.keyFree rfl
    | exact balFld_keyFree _
    | decide
    | with_reducible apply sealedParts_of
    | intro _
    | with_reducible refine Sealed.of_eq (by assumption) ?_
    | with_reducible refine Sealed.of_eq_snd (by assumption) ?_
    | simp only [sealed_mk]
    | split

theorem State.bar0Dword_sealed {r s : State} (h : r.Sealed s) (a : Agent) (port : ℕ) (off : ℕ) (d : ℕ) : r.Sealed (State.bar0Dword s a port off d) :=
    by
  unfold State.bar0Dword
  repeat' first
    | with_reducible assumption
    | with_reducible exact Sealed.refl _
    | with_reducible apply Sealed.ite
    | with_reducible apply msixPut_sealed
    | with_reducible apply pageWrite_sealed
    | with_reducible apply busWrite_sealed
    | exact Fld.keyFree rfl
    | exact Hid.keyFree rfl
    | exact balFld_keyFree _
    | decide
    | with_reducible apply sealedParts_of
    | intro _
    | with_reducible refine Sealed.of_eq (by assumption) ?_
    | with_reducible refine Sealed.of_eq_snd (by assumption) ?_
    | simp only [sealed_mk]
    | split

theorem State.bar0Write_sealed {r s : State} (h : r.Sealed s) (a : Agent) (port : ℕ) (off : ℕ) (d : List Byte) (y5 : ℕ) : r.Sealed (State.bar0Write s
    a port off d y5) := by
  induction y5 generalizing s a port off d with
  | zero =>
    unfold State.bar0Write
    repeat' first
      | with_reducible assumption
      | with_reducible exact Sealed.refl _
      | with_reducible apply Sealed.ite
      | with_reducible apply pageWrite_sealed
      | with_reducible apply bar0Dword_sealed
      | with_reducible apply busWrite_sealed
      | exact Fld.keyFree rfl
      | exact Hid.keyFree rfl
      | exact balFld_keyFree _
      | decide
      | with_reducible apply sealedParts_of
      | intro _
      | with_reducible refine Sealed.of_eq (by assumption) ?_
      | with_reducible refine Sealed.of_eq_snd (by assumption) ?_
      | simp only [sealed_mk]
      | split
  | succ n0 ih =>
    unfold State.bar0Write
    repeat' first
      | with_reducible assumption
      | with_reducible exact Sealed.refl _
      | with_reducible apply Sealed.ite
      | with_reducible apply pageWrite_sealed
      | with_reducible apply bar0Dword_sealed
      | with_reducible apply busWrite_sealed
      | with_reducible apply ih
      | exact Fld.keyFree rfl
      | exact Hid.keyFree rfl
      | exact balFld_keyFree _
      | decide
      | with_reducible apply sealedParts_of
      | intro _
      | with_reducible refine Sealed.of_eq (by assumption) ?_
      | with_reducible refine Sealed.of_eq_snd (by assumption) ?_
      | simp only [sealed_mk]
      | split

theorem State.bar0Read_sealed {r s : State} (h : r.Sealed s) (a : Agent) (port : ℕ) (off : ℕ) (len : ℕ) (y5 : ℕ) : r.Sealed (State.bar0Read s a port
    off len y5).1 := by
  induction y5 generalizing s a port off len with
  | zero =>
    unfold State.bar0Read
    repeat' first
      | with_reducible assumption
      | with_reducible exact Sealed.refl _
      | with_reducible apply Sealed.ite
      | with_reducible apply Sealed.ite_fst
      | with_reducible apply pageRead_sealed
      | with_reducible apply busRead_sealed
      | exact Fld.keyFree rfl
      | exact Hid.keyFree rfl
      | exact balFld_keyFree _
      | decide
      | with_reducible apply sealedParts_of
      | intro _
      | with_reducible refine Sealed.of_eq (by assumption) ?_
      | with_reducible refine Sealed.of_eq_snd (by assumption) ?_
      | simp only [sealed_mk]
      | split
  | succ n0 ih =>
    unfold State.bar0Read
    repeat' first
      | with_reducible assumption
      | with_reducible exact Sealed.refl _
      | with_reducible apply Sealed.ite
      | with_reducible apply Sealed.ite_fst
      | with_reducible apply pageRead_sealed
      | with_reducible apply busRead_sealed
      | with_reducible apply ih
      | exact Fld.keyFree rfl
      | exact Hid.keyFree rfl
      | exact balFld_keyFree _
      | decide
      | with_reducible apply sealedParts_of
      | intro _
      | with_reducible refine Sealed.of_eq (by assumption) ?_
      | with_reducible refine Sealed.of_eq_snd (by assumption) ?_
      | simp only [sealed_mk]
      | split

theorem State.agentWrite_sealed {r s : State} (h : r.Sealed s) (a : Agent) (off : ℕ) (val : ℕ) : r.Sealed (State.agentWrite s a off val) := by
  unfold State.agentWrite
  repeat' first
    | with_reducible assumption
    | with_reducible exact Sealed.refl _
    | with_reducible apply Sealed.ite
    | with_reducible apply pageWrite_sealed
    | with_reducible apply bar0Dword_sealed
    | with_reducible apply busWrite_sealed
    | exact Fld.keyFree rfl
    | exact Hid.keyFree rfl
    | exact balFld_keyFree _
    | decide
    | with_reducible apply sealedParts_of
    | intro _
    | with_reducible refine Sealed.of_eq (by assumption) ?_
    | with_reducible refine Sealed.of_eq_snd (by assumption) ?_
    | simp only [sealed_mk]
    | split

theorem State.agentRead_sealed {r s : State} (h : r.Sealed s) (a : Agent) (off : ℕ) : r.Sealed (State.agentRead s a off) := by
  unfold State.agentRead
  repeat' first
    | with_reducible assumption
    | with_reducible exact Sealed.refl _
    | with_reducible apply Sealed.ite
    | with_reducible apply Sealed.ite_fst
    | with_reducible apply bar0Read_sealed
    | exact Fld.keyFree rfl
    | exact Hid.keyFree rfl
    | exact balFld_keyFree _
    | decide
    | with_reducible apply sealedParts_of
    | intro _
    | with_reducible refine Sealed.of_eq (by assumption) ?_
    | with_reducible refine Sealed.of_eq_snd (by assumption) ?_
    | simp only [sealed_mk]
    | split

theorem execRegisterWrite_sealed (a : Agent) (off : ℕ) (val : ℕ) {s : State} : s.SealedNext (execRegisterWrite a off val s) := by
  unfold execRegisterWrite
  repeat' first
    | with_reducible assumption
    | with_reducible exact Sealed.refl _
    | with_reducible apply SealedNext.next
    | with_reducible apply SealedNext.ite
    | with_reducible apply Sealed.ite
    | with_reducible apply agentWrite_sealed
    | exact Fld.keyFree rfl
    | exact Hid.keyFree rfl
    | exact balFld_keyFree _
    | decide
    | with_reducible apply sealedParts_of
    | intro _
    | with_reducible refine Sealed.of_eq (by assumption) ?_
    | with_reducible refine Sealed.of_eq_snd (by assumption) ?_
    | simp only [sealed_mk]
    | split

theorem execRegisterReadClear_sealed (a : Agent) (off : ℕ) {s : State} : s.SealedNext (execRegisterReadClear a off s) := by
  unfold execRegisterReadClear
  repeat' first
    | with_reducible assumption
    | with_reducible exact Sealed.refl _
    | with_reducible apply SealedNext.next
    | with_reducible apply SealedNext.ite
    | with_reducible apply Sealed.ite
    | with_reducible apply agentRead_sealed
    | exact Fld.keyFree rfl
    | exact Hid.keyFree rfl
    | exact balFld_keyFree _
    | decide
    | with_reducible apply sealedParts_of
    | intro _
    | with_reducible refine Sealed.of_eq (by assumption) ?_
    | with_reducible refine Sealed.of_eq_snd (by assumption) ?_
    | simp only [sealed_mk]
    | split

theorem execMcRingRequest_sealed (off : ℕ) (val : ℕ) {s : State} : s.SealedNext (execMcRingRequest off val s) := by
  unfold execMcRingRequest
  repeat' first
    | with_reducible assumption
    | with_reducible exact Sealed.refl _
    | with_reducible apply SealedNext.next
    | with_reducible apply SealedNext.ite
    | with_reducible apply Sealed.ite
    | with_reducible apply mcAsk_sealed
    | exact Fld.keyFree rfl
    | exact Hid.keyFree rfl
    | exact balFld_keyFree _
    | decide
    | with_reducible apply sealedParts_of
    | intro _
    | with_reducible refine Sealed.of_eq (by assumption) ?_
    | with_reducible refine Sealed.of_eq_snd (by assumption) ?_
    | simp only [sealed_mk]
    | split

theorem execStkRetire_sealed (a : Agent) (k : ℕ) (val : ℕ) {s : State} : s.SealedNext (execStkRetire a k val s) := by
  unfold execStkRetire
  repeat' first
    | with_reducible assumption
    | with_reducible exact Sealed.refl _
    | with_reducible apply SealedNext.next
    | with_reducible apply SealedNext.ite
    | with_reducible apply Sealed.ite
    | with_reducible apply busWrite_sealed
    | exact Fld.keyFree rfl
    | exact Hid.keyFree rfl
    | exact balFld_keyFree _
    | decide
    | with_reducible apply sealedParts_of
    | intro _
    | with_reducible refine Sealed.of_eq (by assumption) ?_
    | with_reducible refine Sealed.of_eq_snd (by assumption) ?_
    | simp only [sealed_mk]
    | split

theorem execBadFrameWrite_sealed (a : Agent) (d : ℕ) (val : ℕ) {s : State} : s.SealedNext (execBadFrameWrite a d val s) := by
  unfold execBadFrameWrite
  repeat' first
    | with_reducible assumption
    | with_reducible exact Sealed.refl _
    | with_reducible apply SealedNext.next
    | with_reducible apply SealedNext.ite
    | with_reducible apply Sealed.ite
    | with_reducible apply busWrite_sealed
    | exact Fld.keyFree rfl
    | exact Hid.keyFree rfl
    | exact balFld_keyFree _
    | decide
    | with_reducible apply sealedParts_of
    | intro _
    | with_reducible refine Sealed.of_eq (by assumption) ?_
    | with_reducible refine Sealed.of_eq_snd (by assumption) ?_
    | simp only [sealed_mk]
    | split

theorem execWithdraw_sealed (a : Agent) (d : ℕ) {s : State} : s.SealedNext (execWithdraw a d s) := by
  unfold execWithdraw
  repeat' first
    | with_reducible assumption
    | with_reducible exact Sealed.refl _
    | with_reducible apply SealedNext.next
    | with_reducible apply SealedNext.ite
    | with_reducible apply Sealed.ite
    | with_reducible apply busWrite_sealed
    | exact Fld.keyFree rfl
    | exact Hid.keyFree rfl
    | exact balFld_keyFree _
    | decide
    | with_reducible apply sealedParts_of
    | intro _
    | with_reducible refine Sealed.of_eq (by assumption) ?_
    | with_reducible refine Sealed.of_eq_snd (by assumption) ?_
    | simp only [sealed_mk]
    | split

theorem execBringIntoService_sealed (a : Agent) (d : ℕ) {s : State} : s.SealedNext (execBringIntoService a d s) := by
  unfold execBringIntoService
  repeat' first
    | with_reducible assumption
    | with_reducible exact Sealed.refl _
    | with_reducible apply SealedNext.next
    | with_reducible apply SealedNext.ite
    | with_reducible apply Sealed.ite
    | with_reducible apply busWrite_sealed
    | exact Fld.keyFree rfl
    | exact Hid.keyFree rfl
    | exact balFld_keyFree _
    | decide
    | with_reducible apply sealedParts_of
    | intro _
    | with_reducible refine Sealed.of_eq (by assumption) ?_
    | with_reducible refine Sealed.of_eq_snd (by assumption) ?_
    | simp only [sealed_mk]
    | split

theorem execPmcSelect_sealed (a : Agent) (i : ℕ) (val : ℕ) {s : State} : s.SealedNext (execPmcSelect a i val s) := by
  unfold execPmcSelect
  repeat' first
    | with_reducible assumption
    | with_reducible exact Sealed.refl _
    | with_reducible apply SealedNext.next
    | with_reducible apply SealedNext.ite
    | with_reducible apply Sealed.ite
    | with_reducible apply busWrite_sealed
    | exact Fld.keyFree rfl
    | exact Hid.keyFree rfl
    | exact balFld_keyFree _
    | decide
    | with_reducible apply sealedParts_of
    | intro _
    | with_reducible refine Sealed.of_eq (by assumption) ?_
    | with_reducible refine Sealed.of_eq_snd (by assumption) ?_
    | simp only [sealed_mk]
    | split

theorem execBwWindowConfig_sealed (a : Agent) (port : ℕ) (val : ℕ) {s : State} : s.SealedNext (execBwWindowConfig a port val s) := by
  unfold execBwWindowConfig
  repeat' first
    | with_reducible assumption
    | with_reducible exact Sealed.refl _
    | with_reducible apply SealedNext.next
    | with_reducible apply SealedNext.ite
    | with_reducible apply Sealed.ite
    | with_reducible apply busWrite_sealed
    | exact Fld.keyFree rfl
    | exact Hid.keyFree rfl
    | exact balFld_keyFree _
    | decide
    | with_reducible apply sealedParts_of
    | intro _
    | with_reducible refine Sealed.of_eq (by assumption) ?_
    | with_reducible refine Sealed.of_eq_snd (by assumption) ?_
    | simp only [sealed_mk]
    | split

theorem execSnapNow_sealed (a : Agent) (val : ℕ) {s : State} : s.SealedNext (execSnapNow a val s) := by
  unfold execSnapNow
  repeat' first
    | with_reducible assumption
    | with_reducible exact Sealed.refl _
    | with_reducible apply SealedNext.next
    | with_reducible apply SealedNext.ite
    | with_reducible apply Sealed.ite
    | with_reducible apply busWrite_sealed
    | exact Fld.keyFree rfl
    | exact Hid.keyFree rfl
    | exact balFld_keyFree _
    | decide
    | with_reducible apply sealedParts_of
    | intro _
    | with_reducible refine Sealed.of_eq (by assumption) ?_
    | with_reducible refine Sealed.of_eq_snd (by assumption) ?_
    | simp only [sealed_mk]
    | split

theorem execGhClear_sealed (a : Agent) (q : ℕ) (sl : ℕ) (val : ℕ) {s : State} : s.SealedNext (execGhClear a q sl val s) := by
  unfold execGhClear
  repeat' first
    | with_reducible assumption
    | with_reducible exact Sealed.refl _
    | with_reducible apply SealedNext.next
    | with_reducible apply SealedNext.ite
    | with_reducible apply Sealed.ite
    | with_reducible apply busWrite_sealed
    | exact Fld.keyFree rfl
    | exact Hid.keyFree rfl
    | exact balFld_keyFree _
    | decide
    | with_reducible apply sealedParts_of
    | intro _
    | with_reducible refine Sealed.of_eq (by assumption) ?_
    | with_reducible refine Sealed.of_eq_snd (by assumption) ?_
    | simp only [sealed_mk]
    | split

theorem execResCtrlMod_sealed (a : Agent) (val : ℕ) {s : State} : s.SealedNext (execResCtrlMod a val s) := by
  unfold execResCtrlMod
  repeat' first
    | with_reducible assumption
    | with_reducible exact Sealed.refl _
    | with_reducible apply SealedNext.next
    | with_reducible apply SealedNext.ite
    | with_reducible apply Sealed.ite
    | with_reducible apply busWrite_sealed
    | exact Fld.keyFree rfl
    | exact Hid.keyFree rfl
    | exact balFld_keyFree _
    | decide
    | with_reducible apply sealedParts_of
    | intro _
    | with_reducible refine Sealed.of_eq (by assumption) ?_
    | with_reducible refine Sealed.of_eq_snd (by assumption) ?_
    | simp only [sealed_mk]
    | split

theorem State.answer_sealed {r s : State} (h : r.Sealed s) (status : ℕ) (d : List Byte) : r.Sealed (State.answer s status d) := by
  unfold State.answer
  repeat' first
    | with_reducible assumption
    | with_reducible exact Sealed.refl _
    | with_reducible apply Sealed.ite
    | exact Fld.keyFree rfl
    | exact Hid.keyFree rfl
    | exact balFld_keyFree _
    | decide
    | with_reducible apply sealedParts_of
    | intro _
    | with_reducible refine Sealed.of_eq (by assumption) ?_
    | with_reducible refine Sealed.of_eq_snd (by assumption) ?_
    | simp only [sealed_mk]
    | split

theorem State.cfgSet_sealed {r s : State} (h : r.Sealed s) (f : ℕ) (off : ℕ) (bits : ℕ) : r.Sealed (State.cfgSet s f off bits) := by
  unfold State.cfgSet
  repeat' first
    | with_reducible assumption
    | with_reducible exact Sealed.refl _
    | with_reducible apply Sealed.ite
    | with_reducible apply setH_sealed
    | exact Fld.keyFree rfl
    | exact Hid.keyFree rfl
    | exact balFld_keyFree _
    | decide
    | with_reducible apply sealedParts_of
    | intro _
    | with_reducible refine Sealed.of_eq (by assumption) ?_
    | with_reducible refine Sealed.of_eq_snd (by assumption) ?_
    | simp only [sealed_mk]
    | split

theorem State.aerReject_sealed {r s : State} (h : r.Sealed s) (port : ℕ) (func : ℕ) (status : ℕ) : r.Sealed (State.aerReject s port func status) := by
  unfold State.aerReject
  repeat' first
    | with_reducible assumption
    | with_reducible exact Sealed.refl _
    | with_reducible apply Sealed.ite
    | with_reducible apply cfgSet_sealed
    | exact Fld.keyFree rfl
    | exact Hid.keyFree rfl
    | exact balFld_keyFree _
    | decide
    | with_reducible apply sealedParts_of
    | intro _
    | with_reducible refine Sealed.of_eq (by assumption) ?_
    | with_reducible refine Sealed.of_eq_snd (by assumption) ?_
    | simp only [sealed_mk]
    | split

theorem State.aerCorrectable_sealed {r s : State} (h : r.Sealed s) (port : ℕ) (cls : ℕ) (bit : ℕ) : r.Sealed (State.aerCorrectable s port cls bit) :=
    by
  unfold State.aerCorrectable
  repeat' first
    | with_reducible assumption
    | with_reducible exact Sealed.refl _
    | with_reducible apply Sealed.ite
    | with_reducible apply setH_sealed
    | with_reducible apply cfgSet_sealed
    | exact Fld.keyFree rfl
    | exact Hid.keyFree rfl
    | exact balFld_keyFree _
    | decide
    | with_reducible apply sealedParts_of
    | intro _
    | with_reducible refine Sealed.of_eq (by assumption) ?_
    | with_reducible refine Sealed.of_eq_snd (by assumption) ?_
    | simp only [sealed_mk]
    | split

theorem State.reject_sealed {r0 s : State} (h : r0.Sealed s) (r : InReq) (cause : ℕ) (status : ℕ) : r0.Sealed (State.reject s r cause status) := by
  unfold State.reject
  repeat' first
    | with_reducible assumption
    | with_reducible exact Sealed.refl _
    | with_reducible apply Sealed.ite
    | with_reducible apply ev_sealed
    | with_reducible apply bump_sealed
    | with_reducible apply firstError_sealed
    | with_reducible apply raisePf_sealed
    | with_reducible apply wr_sealed
    | with_reducible apply answer_sealed
    | with_reducible apply aerReject_sealed
    | exact Fld.keyFree rfl
    | exact Hid.keyFree rfl
    | exact balFld_keyFree _
    | decide
    | with_reducible apply sealedParts_of
    | intro _
    | with_reducible refine Sealed.of_eq (by assumption) ?_
    | with_reducible refine Sealed.of_eq_snd (by assumption) ?_
    | simp only [sealed_mk]
    | split

theorem State.reachable_sealed {r s : State} (h : r.Sealed s) (c : Client) (va : ℕ) (n : ℕ) (write : Bool) : r.Sealed (State.reachable s c va n
    write).1 := by
  unfold State.reachable
  repeat' first
    | with_reducible assumption
    | with_reducible exact Sealed.refl _
    | with_reducible apply Sealed.ite
    | with_reducible apply Sealed.ite_fst
    | with_reducible apply xlate_sealed
    | rw [List.foldl_cons]
    | rw [List.foldl_nil]
    | exact Fld.keyFree rfl
    | exact Hid.keyFree rfl
    | exact balFld_keyFree _
    | decide
    | with_reducible refine Sealed.foldl ?_ (fun u x => ?_)
    | with_reducible refine Sealed.foldl_fst ?_ (fun u x => ?_)
    | with_reducible apply sealedParts_of
    | intro _
    | with_reducible refine Sealed.of_eq (by assumption) ?_
    | with_reducible refine Sealed.of_eq_snd (by assumption) ?_
    | simp only [sealed_mk]
    | split

theorem State.bar2Stops_sealed {r0 s : State} (h : r0.Sealed s) (r : InReq) (cause : ℕ) : r0.Sealed (State.bar2Stops s r cause) := by
  unfold State.bar2Stops
  repeat' first
    | with_reducible assumption
    | with_reducible exact Sealed.refl _
    | with_reducible apply Sealed.ite
    | with_reducible apply reject_sealed
    | exact Fld.keyFree rfl
    | exact Hid.keyFree rfl
    | exact balFld_keyFree _
    | decide
    | with_reducible apply sealedParts_of
    | intro _
    | with_reducible refine Sealed.of_eq (by assumption) ?_
    | with_reducible refine Sealed.of_eq_snd (by assumption) ?_
    | simp only [sealed_mk]
    | split

theorem State.serveInbound_sealed {r0 s : State} (h : r0.Sealed s) (r : InReq) : r0.Sealed (State.serveInbound s r) := by
  unfold State.serveInbound
  repeat' first
    | with_reducible assumption
    | with_reducible exact Sealed.refl _
    | with_reducible apply Sealed.ite
    | with_reducible apply Sealed.ite_fst
    | with_reducible apply answer_sealed
    | with_reducible apply reachable_sealed
    | with_reducible apply bar2Stops_sealed
    | with_reducible apply vwrite_sealed
    | with_reducible apply vread_sealed
    | with_reducible apply bar0Write_sealed
    | with_reducible apply bar0Read_sealed
    | exact Fld.keyFree rfl
    | exact Hid.keyFree rfl
    | exact balFld_keyFree _
    | decide
    | with_reducible apply sealedParts_of
    | intro _
    | with_reducible refine Sealed.of_eq (by assumption) ?_
    | with_reducible refine Sealed.of_eq_snd (by assumption) ?_
    | simp only [sealed_mk]
    | split

theorem State.serveNext_sealed {r0 s : State} (h : r0.Sealed s) (r : InReq) : r0.Sealed (State.serveNext s r) := by
  unfold State.serveNext
  repeat' first
    | with_reducible assumption
    | with_reducible exact Sealed.refl _
    | with_reducible apply Sealed.ite
    | with_reducible apply serveInbound_sealed
    | exact Fld.keyFree rfl
    | exact Hid.keyFree rfl
    | exact balFld_keyFree _
    | decide
    | with_reducible apply sealedParts_of
    | intro _
    | with_reducible refine Sealed.of_eq (by assumption) ?_
    | with_reducible refine Sealed.of_eq_snd (by assumption) ?_
    | simp only [sealed_mk]
    | split

theorem State.retryHeld_sealed {r s : State} (h : r.Sealed s) : r.Sealed (State.retryHeld s) := by
  unfold State.retryHeld
  repeat' first
    | with_reducible assumption
    | with_reducible exact Sealed.refl _
    | with_reducible apply Sealed.ite
    | with_reducible apply serveNext_sealed
    | rw [List.foldl_cons]
    | rw [List.foldl_nil]
    | exact Fld.keyFree rfl
    | exact Hid.keyFree rfl
    | exact balFld_keyFree _
    | decide
    | with_reducible refine Sealed.foldl ?_ (fun u x => ?_)
    | with_reducible refine Sealed.foldl_fst ?_ (fun u x => ?_)
    | with_reducible apply sealedParts_of
    | intro _
    | with_reducible refine Sealed.of_eq (by assumption) ?_
    | with_reducible refine Sealed.of_eq_snd (by assumption) ?_
    | simp only [sealed_mk]
    | split

theorem State.inbound_sealed {r0 s : State} (h : r0.Sealed s) (r : InReq) : r0.Sealed (State.inbound s r) := by
  unfold State.inbound
  repeat' first
    | with_reducible assumption
    | with_reducible exact Sealed.refl _
    | with_reducible apply Sealed.ite
    | with_reducible apply answer_sealed
    | with_reducible apply reject_sealed
    | with_reducible apply serveNext_sealed
    | with_reducible apply retryHeld_sealed
    | exact Fld.keyFree rfl
    | exact Hid.keyFree rfl
    | exact balFld_keyFree _
    | decide
    | with_reducible apply sealedParts_of
    | intro _
    | with_reducible refine Sealed.of_eq (by assumption) ?_
    | with_reducible refine Sealed.of_eq_snd (by assumption) ?_
    | simp only [sealed_mk]
    | split

theorem State.endLink_sealed {r s : State} (h : r.Sealed s) (port : ℕ) (status : ℕ) : r.Sealed (State.endLink s port status) := by
  unfold State.endLink
  repeat' first
    | with_reducible assumption
    | with_reducible exact Sealed.refl _
    | with_reducible apply Sealed.ite
    | with_reducible apply complete_sealed
    | with_reducible apply setH_sealed
    | rw [List.foldl_cons]
    | rw [List.foldl_nil]
    | exact Fld.keyFree rfl
    | exact Hid.keyFree rfl
    | exact balFld_keyFree _
    | decide
    | with_reducible refine Sealed.foldl ?_ (fun u x => ?_)
    | with_reducible refine Sealed.foldl_fst ?_ (fun u x => ?_)
    | with_reducible apply sealedParts_of
    | intro _
    | with_reducible refine Sealed.of_eq (by assumption) ?_
    | with_reducible refine Sealed.of_eq_snd (by assumption) ?_
    | simp only [sealed_mk]
    | split

theorem State.resetFunc_sealed {r s : State} (h : r.Sealed s) (port : ℕ) (func : ℕ) : r.Sealed (State.resetFunc s port func) := by
  unfold State.resetFunc
  repeat' first
    | with_reducible assumption
    | with_reducible exact Sealed.refl _
    | with_reducible apply Sealed.ite
    | with_reducible apply setH_sealed
    | rw [List.foldl_cons]
    | rw [List.foldl_nil]
    | exact Fld.keyFree rfl
    | exact Hid.keyFree rfl
    | exact balFld_keyFree _
    | decide
    | with_reducible refine Sealed.foldl ?_ (fun u x => ?_)
    | with_reducible refine Sealed.foldl_fst ?_ (fun u x => ?_)
    | with_reducible apply sealedParts_of
    | intro _
    | with_reducible refine Sealed.of_eq (by assumption) ?_
    | with_reducible refine Sealed.of_eq_snd (by assumption) ?_
    | simp only [sealed_mk]
    | split

theorem State.failStore_sealed {r s : State} (h : r.Sealed s) (d : DirectStore) : r.Sealed (State.failStore s d) := by
  unfold State.failStore
  repeat' first
    | with_reducible assumption
    | with_reducible exact Sealed.refl _
    | with_reducible apply Sealed.ite
    | with_reducible apply Sealed.ite_fst
    | with_reducible apply fresh_sealed
    | with_reducible apply setBytes_sealed
    | with_reducible apply raiseFault_sealed
    | exact Fld.keyFree rfl
    | exact Hid.keyFree rfl
    | exact balFld_keyFree _
    | decide
    | with_reducible apply sealedParts_of
    | intro _
    | with_reducible refine Sealed.of_eq (by assumption) ?_
    | with_reducible refine Sealed.of_eq_snd (by assumption) ?_
    | simp only [sealed_mk]
    | split

theorem State.failRead_sealed {r0 s : State} (h : r0.Sealed s) (r : Req) : r0.Sealed (State.failRead s r) := by
  unfold State.failRead
  repeat' first
    | with_reducible assumption
    | with_reducible exact Sealed.refl _
    | with_reducible apply Sealed.ite
    | with_reducible apply Sealed.ite_fst
    | with_reducible apply walk_sealed
    | with_reducible apply syncOut_sealed
    | with_reducible apply raiseFault_sealed
    | exact Fld.keyFree rfl
    | exact Hid.keyFree rfl
    | exact balFld_keyFree _
    | decide
    | with_reducible apply sealedParts_of
    | intro _
    | with_reducible refine Sealed.of_eq (by assumption) ?_
    | with_reducible refine Sealed.of_eq_snd (by assumption) ?_
    | simp only [sealed_mk]
    | split

theorem State.portFalls_sealed {r s : State} (h : r.Sealed s) (port : ℕ) : r.Sealed (State.portFalls s port) := by
  unfold State.portFalls
  repeat' first
    | with_reducible assumption
    | with_reducible exact Sealed.refl _
    | with_reducible apply Sealed.ite
    | with_reducible apply failStore_sealed
    | with_reducible apply failRead_sealed
    | with_reducible apply resetFunc_sealed
    | with_reducible apply raisePfOther_sealed
    | with_reducible apply mark_sealed
    | rw [List.foldl_cons]
    | rw [List.foldl_nil]
    | exact Fld.keyFree rfl
    | exact Hid.keyFree rfl
    | exact balFld_keyFree _
    | decide
    | with_reducible refine Sealed.foldl ?_ (fun u x => ?_)
    | with_reducible refine Sealed.foldl_fst ?_ (fun u x => ?_)
    | with_reducible apply sealedParts_of
    | intro _
    | with_reducible refine Sealed.of_eq (by assumption) ?_
    | with_reducible refine Sealed.of_eq_snd (by assumption) ?_
    | simp only [sealed_mk]
    | split

theorem State.linkGone_sealed {r s : State} (h : r.Sealed s) (port : ℕ) : r.Sealed (State.linkGone s port) := by
  unfold State.linkGone
  repeat' first
    | with_reducible assumption
    | with_reducible exact Sealed.refl _
    | with_reducible apply Sealed.ite
    | with_reducible apply wr_sealed
    | exact Fld.keyFree rfl
    | exact Hid.keyFree rfl
    | exact balFld_keyFree _
    | decide
    | with_reducible apply sealedParts_of
    | intro _
    | with_reducible refine Sealed.of_eq (by assumption) ?_
    | with_reducible refine Sealed.of_eq_snd (by assumption) ?_
    | simp only [sealed_mk]
    | split

theorem State.portDown_sealed {r s : State} (h : r.Sealed s) (port : ℕ) : r.Sealed (State.portDown s port) := by
  unfold State.portDown
  repeat' first
    | with_reducible assumption
    | with_reducible exact Sealed.refl _
    | with_reducible apply Sealed.ite
    | with_reducible apply portFalls_sealed
    | with_reducible apply linkGone_sealed
    | exact Fld.keyFree rfl
    | exact Hid.keyFree rfl
    | exact balFld_keyFree _
    | decide
    | with_reducible apply sealedParts_of
    | intro _
    | with_reducible refine Sealed.of_eq (by assumption) ?_
    | with_reducible refine Sealed.of_eq_snd (by assumption) ?_
    | simp only [sealed_mk]
    | split

theorem State.laneFail_sealed {r s : State} (h : r.Sealed s) (port : ℕ) (lane : ℕ) : r.Sealed (State.laneFail s port lane) := by
  unfold State.laneFail
  repeat' first
    | with_reducible assumption
    | with_reducible exact Sealed.refl _
    | with_reducible apply Sealed.ite
    | with_reducible apply setH_sealed
    | with_reducible apply bump_sealed
    | with_reducible apply wr_sealed
    | with_reducible apply mark_sealed
    | with_reducible apply raisePf_sealed
    | with_reducible apply portDown_sealed
    | exact Fld.keyFree rfl
    | exact Hid.keyFree rfl
    | exact balFld_keyFree _
    | decide
    | with_reducible apply sealedParts_of
    | intro _
    | with_reducible refine Sealed.of_eq (by assumption) ?_
    | with_reducible refine Sealed.of_eq_snd (by assumption) ?_
    | simp only [sealed_mk]
    | split

theorem State.crcFail_sealed {r s : State} (h : r.Sealed s) (port : ℕ) (lane : ℕ) : r.Sealed (State.crcFail s port lane) := by
  unfold State.crcFail
  repeat' first
    | with_reducible assumption
    | with_reducible exact Sealed.refl _
    | with_reducible apply Sealed.ite
    | with_reducible apply addH_sealed
    | with_reducible apply bump_sealed
    | with_reducible apply aerCorrectable_sealed
    | with_reducible apply mcLog_sealed
    | with_reducible apply raisePf_sealed
    | with_reducible apply mark_sealed
    | with_reducible apply setH_sealed
    | with_reducible apply laneFail_sealed
    | exact Fld.keyFree rfl
    | exact Hid.keyFree rfl
    | exact balFld_keyFree _
    | decide
    | with_reducible apply sealedParts_of
    | intro _
    | with_reducible refine Sealed.of_eq (by assumption) ?_
    | with_reducible refine Sealed.of_eq_snd (by assumption) ?_
    | simp only [sealed_mk]
    | split

theorem State.l2Line_sealed {r s : State} (h : r.Sealed s) (q : ℕ) (c : ℕ) (pa : ℕ) : r.Sealed (State.l2Line s q c pa).1 := by
  unfold State.l2Line
  repeat' first
    | with_reducible assumption
    | with_reducible exact Sealed.refl _
    | with_reducible apply Sealed.ite
    | with_reducible apply Sealed.ite_fst
    | with_reducible apply vread_sealed
    | exact Fld.keyFree rfl
    | exact Hid.keyFree rfl
    | exact balFld_keyFree _
    | decide
    | with_reducible apply sealedParts_of
    | intro _
    | with_reducible refine Sealed.of_eq (by assumption) ?_
    | with_reducible refine Sealed.of_eq_snd (by assumption) ?_
    | simp only [sealed_mk]
    | split

theorem State.l2Access_sealed {r s : State} (h : r.Sealed s) (q : ℕ) (c : ℕ) (pa : ℕ) (len : ℕ) (write : Bool) (d : List Byte) (y7 : ℕ) : r.Sealed
    (State.l2Access s q c pa len write d y7).1 := by
  induction y7 generalizing s q c pa len write d with
  | zero =>
    unfold State.l2Access
    repeat' first
      | with_reducible assumption
      | with_reducible exact Sealed.refl _
      | with_reducible apply Sealed.ite
      | with_reducible apply Sealed.ite_fst
      | with_reducible apply l2Line_sealed
      | exact Fld.keyFree rfl
      | exact Hid.keyFree rfl
      | exact balFld_keyFree _
      | decide
      | with_reducible apply sealedParts_of
      | intro _
      | with_reducible refine Sealed.of_eq (by assumption) ?_
      | with_reducible refine Sealed.of_eq_snd (by assumption) ?_
      | simp only [sealed_mk]
      | split
  | succ n0 ih =>
    unfold State.l2Access
    repeat' first
      | with_reducible assumption
      | with_reducible exact Sealed.refl _
      | with_reducible apply Sealed.ite
      | with_reducible apply Sealed.ite_fst
      | with_reducible apply l2Line_sealed
      | with_reducible apply ih
      | exact Fld.keyFree rfl
      | exact Hid.keyFree rfl
      | exact balFld_keyFree _
      | decide
      | with_reducible apply sealedParts_of
      | intro _
      | with_reducible refine Sealed.of_eq (by assumption) ?_
      | with_reducible refine Sealed.of_eq_snd (by assumption) ?_
      | simp only [sealed_mk]
      | split

theorem State.maintain_sealed {r s : State} (h : r.Sealed s) (q : ℕ) (action : ℕ) : r.Sealed (State.maintain s q action) := by
  unfold State.maintain
  repeat' first
    | with_reducible assumption
    | with_reducible exact Sealed.refl _
    | with_reducible apply Sealed.ite
    | with_reducible apply cleanL2_sealed
    | with_reducible apply dropL2_sealed
    | with_reducible apply flushL2_sealed
    | rw [List.foldl_cons]
    | rw [List.foldl_nil]
    | exact Fld.keyFree rfl
    | exact Hid.keyFree rfl
    | exact balFld_keyFree _
    | decide
    | with_reducible refine Sealed.foldl ?_ (fun u x => ?_)
    | with_reducible refine Sealed.foldl_fst ?_ (fun u x => ?_)
    | with_reducible apply sealedParts_of
    | intro _
    | with_reducible refine Sealed.of_eq (by assumption) ?_
    | with_reducible refine Sealed.of_eq_snd (by assumption) ?_
    | simp only [sealed_mk]
    | split

theorem State.localWrite_sealed {r s : State} (h : r.Sealed s) (q : ℕ) (o : ℕ) (v : ℕ) : r.Sealed (State.localWrite s q o v) := by
  unfold State.localWrite
  repeat' first
    | with_reducible assumption
    | with_reducible exact Sealed.refl _
    | with_reducible apply Sealed.ite
    | with_reducible apply setH_sealed
    | with_reducible apply maintain_sealed
    | exact Fld.keyFree rfl
    | exact Hid.keyFree rfl
    | exact balFld_keyFree _
    | decide
    | with_reducible apply sealedParts_of
    | intro _
    | with_reducible refine Sealed.of_eq (by assumption) ?_
    | with_reducible refine Sealed.of_eq_snd (by assumption) ?_
    | simp only [sealed_mk]
    | split

theorem State.coreAccess_sealed {r s : State} (h : r.Sealed s) (x : CoreAcc) : r.Sealed (State.coreAccess s x) := by
  unfold State.coreAccess
  repeat' first
    | with_reducible assumption
    | with_reducible exact Sealed.refl _
    | with_reducible apply Sealed.ite
    | with_reducible apply Sealed.ite_fst
    | with_reducible apply answer_sealed
    | with_reducible apply flushL2_sealed
    | with_reducible apply l2Access_sealed
    | with_reducible apply vwrite_sealed
    | with_reducible apply vread_sealed
    | with_reducible apply bar0Write_sealed
    | with_reducible apply bar0Read_sealed
    | with_reducible apply localWrite_sealed
    | with_reducible apply setBytes_sealed
    | exact Fld.keyFree rfl
    | exact Hid.keyFree rfl
    | exact balFld_keyFree _
    | decide
    | with_reducible apply sealedParts_of
    | intro _
    | with_reducible refine Sealed.of_eq (by assumption) ?_
    | with_reducible refine Sealed.of_eq_snd (by assumption) ?_
    | simp only [sealed_mk]
    | split

theorem State.tapLine_sealed {r s : State} (h : r.Sealed s) (dr : ℕ) : r.Sealed (State.tapLine s dr) := by
  unfold State.tapLine
  repeat' first
    | with_reducible assumption
    | with_reducible exact Sealed.refl _
    | with_reducible apply Sealed.ite
    | with_reducible apply setBytes_sealed
    | with_reducible apply setPoison_sealed
    | with_reducible apply answer_sealed
    | exact Fld.keyFree rfl
    | exact Hid.keyFree rfl
    | exact balFld_keyFree _
    | decide
    | with_reducible apply sealedParts_of
    | intro _
    | with_reducible refine Sealed.of_eq (by assumption) ?_
    | with_reducible refine Sealed.of_eq_snd (by assumption) ?_
    | simp only [sealed_mk]
    | split

theorem State.remakeStore_sealed {r s : State} (h : r.Sealed s) (d : DirectStore) : r.Sealed (State.remakeStore s d) := by
  unfold State.remakeStore
  repeat' first
    | with_reducible assumption
    | with_reducible exact Sealed.refl _
    | with_reducible apply Sealed.ite
    | with_reducible apply Sealed.ite_fst
    | with_reducible apply xlate_sealed
    | with_reducible apply vwrite_sealed
    | exact Fld.keyFree rfl
    | exact Hid.keyFree rfl
    | exact balFld_keyFree _
    | decide
    | with_reducible apply sealedParts_of
    | intro _
    | with_reducible refine Sealed.of_eq (by assumption) ?_
    | with_reducible refine Sealed.of_eq_snd (by assumption) ?_
    | simp only [sealed_mk]
    | split

theorem execDirectHostStore_sealed (id : ℕ) (t : ℕ) {s : State} : s.SealedNext (execDirectHostStore id t s) := by
  unfold execDirectHostStore
  repeat' first
    | with_reducible assumption
    | with_reducible exact Sealed.refl _
    | with_reducible apply SealedNext.next
    | with_reducible apply SealedNext.ite
    | with_reducible apply Sealed.ite
    | with_reducible apply goTo_sealed
    | with_reducible apply remakeStore_sealed
    | with_reducible apply failStore_sealed
    | with_reducible apply ev_sealed
    | exact Fld.keyFree rfl
    | exact Hid.keyFree rfl
    | exact balFld_keyFree _
    | decide
    | with_reducible apply sealedParts_of
    | intro _
    | with_reducible refine Sealed.of_eq (by assumption) ?_
    | with_reducible refine Sealed.of_eq_snd (by assumption) ?_
    | simp only [sealed_mk]
    | split

theorem execInboundRequest_sealed (r : InReq) (t : ℕ) {s : State} : s.SealedNext (execInboundRequest r t s) := by
  unfold execInboundRequest
  repeat' first
    | with_reducible assumption
    | with_reducible exact Sealed.refl _
    | with_reducible apply SealedNext.next
    | with_reducible apply SealedNext.ite
    | with_reducible apply Sealed.ite
    | with_reducible apply inbound_sealed
    | with_reducible apply goTo_sealed
    | exact Fld.keyFree rfl
    | exact Hid.keyFree rfl
    | exact balFld_keyFree _
    | decide
    | with_reducible apply sealedParts_of
    | intro _
    | with_reducible refine Sealed.of_eq (by assumption) ?_
    | with_reducible refine Sealed.of_eq_snd (by assumption) ?_
    | simp only [sealed_mk]
    | split

theorem execBar2ReadTimeout_sealed (port : ℕ) (tag : ℕ) {s : State} : s.SealedNext (execBar2ReadTimeout port tag s) := by
  unfold execBar2ReadTimeout
  repeat' first
    | with_reducible assumption
    | with_reducible exact Sealed.refl _
    | with_reducible apply SealedNext.next
    | with_reducible apply SealedNext.ite
    | with_reducible apply Sealed.ite
    | with_reducible apply reject_sealed
    | exact Fld.keyFree rfl
    | exact Hid.keyFree rfl
    | exact balFld_keyFree _
    | decide
    | with_reducible apply sealedParts_of
    | intro _
    | with_reducible refine Sealed.of_eq (by assumption) ?_
    | with_reducible refine Sealed.of_eq_snd (by assumption) ?_
    | simp only [sealed_mk]
    | split

theorem execHostSnoop_sealed (_addr : ℕ) {s : State} : s.SealedNext (execHostSnoop _addr s) := by
  unfold execHostSnoop
  repeat' first
    | with_reducible assumption
    | with_reducible exact Sealed.refl _
    | with_reducible apply SealedNext.next
    | with_reducible apply SealedNext.ite
    | with_reducible apply Sealed.ite
    | with_reducible apply answer_sealed
    | exact Fld.keyFree rfl
    | exact Hid.keyFree rfl
    | exact balFld_keyFree _
    | decide
    | with_reducible apply sealedParts_of
    | intro _
    | with_reducible refine Sealed.of_eq (by assumption) ?_
    | with_reducible refine Sealed.of_eq_snd (by assumption) ?_
    | simp only [sealed_mk]
    | split

theorem execHostAck_sealed (req : ℕ) {s : State} : s.SealedNext (execHostAck req s) := by
  unfold execHostAck
  repeat' first
    | with_reducible assumption
    | with_reducible exact Sealed.refl _
    | with_reducible apply SealedNext.next
    | with_reducible apply SealedNext.ite
    | with_reducible apply Sealed.ite
    | with_reducible apply setBytes_sealed
    | exact Fld.keyFree rfl
    | exact Hid.keyFree rfl
    | exact balFld_keyFree _
    | decide
    | with_reducible apply sealedParts_of
    | intro _
    | with_reducible refine Sealed.of_eq (by assumption) ?_
    | with_reducible refine Sealed.of_eq_snd (by assumption) ?_
    | simp only [sealed_mk]
    | split

theorem execHostRequestTimeout_sealed (req : ℕ) {s : State} : s.SealedNext (execHostRequestTimeout req s) := by
  unfold execHostRequestTimeout
  repeat' first
    | with_reducible assumption
    | with_reducible exact Sealed.refl _
    | with_reducible apply SealedNext.next
    | with_reducible apply SealedNext.ite
    | with_reducible apply Sealed.ite
    | with_reducible apply failStore_sealed
    | with_reducible apply failRead_sealed
    | exact Fld.keyFree rfl
    | exact Hid.keyFree rfl
    | exact balFld_keyFree _
    | decide
    | with_reducible apply sealedParts_of
    | intro _
    | with_reducible refine Sealed.of_eq (by assumption) ?_
    | with_reducible refine Sealed.of_eq_snd (by assumption) ?_
    | simp only [sealed_mk]
    | split

theorem execHoldoffExpiry_sealed (q : ℕ) (v : ℕ) {s : State} : s.SealedNext (execHoldoffExpiry q v s) := by
  unfold execHoldoffExpiry
  repeat' first
    | with_reducible assumption
    | with_reducible exact Sealed.refl _
    | with_reducible apply SealedNext.next
    | with_reducible apply SealedNext.ite
    | with_reducible apply Sealed.ite
    | with_reducible apply goTo_sealed
    | with_reducible apply setH_sealed
    | with_reducible apply sendMsix_sealed
    | exact Fld.keyFree rfl
    | exact Hid.keyFree rfl
    | exact balFld_keyFree _
    | decide
    | with_reducible apply sealedParts_of
    | intro _
    | with_reducible refine Sealed.of_eq (by assumption) ?_
    | with_reducible refine Sealed.of_eq_snd (by assumption) ?_
    | simp only [sealed_mk]
    | split

theorem execFlitCrcFail_sealed (port : ℕ) (lane : ℕ) (fec : ℕ) {s : State} : s.SealedNext (execFlitCrcFail port lane fec s) := by
  unfold execFlitCrcFail
  repeat' first
    | with_reducible assumption
    | with_reducible exact Sealed.refl _
    | with_reducible apply SealedNext.next
    | with_reducible apply SealedNext.ite
    | with_reducible apply Sealed.ite
    | with_reducible apply crcFail_sealed
    | with_reducible apply bump_sealed
    | exact Fld.keyFree rfl
    | exact Hid.keyFree rfl
    | exact balFld_keyFree _
    | decide
    | with_reducible apply sealedParts_of
    | intro _
    | with_reducible refine Sealed.of_eq (by assumption) ?_
    | with_reducible refine Sealed.of_eq_snd (by assumption) ?_
    | simp only [sealed_mk]
    | split

theorem execFlitNak_sealed (port : ℕ) {s : State} : s.SealedNext (execFlitNak port s) := by
  unfold execFlitNak
  repeat' first
    | with_reducible assumption
    | with_reducible exact Sealed.refl _
    | with_reducible apply SealedNext.next
    | with_reducible apply SealedNext.ite
    | with_reducible apply Sealed.ite
    | with_reducible apply bump_sealed
    | with_reducible apply aerCorrectable_sealed
    | exact Fld.keyFree rfl
    | exact Hid.keyFree rfl
    | exact balFld_keyFree _
    | decide
    | with_reducible apply sealedParts_of
    | intro _
    | with_reducible refine Sealed.of_eq (by assumption) ?_
    | with_reducible refine Sealed.of_eq_snd (by assumption) ?_
    | simp only [sealed_mk]
    | split

theorem execReplayTimeout_sealed (port : ℕ) (rollover : Bool) {s : State} : s.SealedNext (execReplayTimeout port rollover s) := by
  unfold execReplayTimeout
  repeat' first
    | with_reducible assumption
    | with_reducible exact Sealed.refl _
    | with_reducible apply SealedNext.next
    | with_reducible apply SealedNext.ite
    | with_reducible apply Sealed.ite
    | with_reducible apply bump_sealed
    | with_reducible apply aerCorrectable_sealed
    | exact Fld.keyFree rfl
    | exact Hid.keyFree rfl
    | exact balFld_keyFree _
    | decide
    | with_reducible apply sealedParts_of
    | intro _
    | with_reducible refine Sealed.of_eq (by assumption) ?_
    | with_reducible refine Sealed.of_eq_snd (by assumption) ?_
    | simp only [sealed_mk]
    | split

theorem execPortLaneFailure_sealed (port : ℕ) (lane : ℕ) {s : State} : s.SealedNext (execPortLaneFailure port lane s) := by
  unfold execPortLaneFailure
  repeat' first
    | with_reducible assumption
    | with_reducible exact Sealed.refl _
    | with_reducible apply SealedNext.next
    | with_reducible apply SealedNext.ite
    | with_reducible apply Sealed.ite
    | with_reducible apply laneFail_sealed
    | exact Fld.keyFree rfl
    | exact Hid.keyFree rfl
    | exact balFld_keyFree _
    | decide
    | with_reducible apply sealedParts_of
    | intro _
    | with_reducible refine Sealed.of_eq (by assumption) ?_
    | with_reducible refine Sealed.of_eq_snd (by assumption) ?_
    | simp only [sealed_mk]
    | split

theorem execLinkDown_sealed (port : ℕ) {s : State} : s.SealedNext (execLinkDown port s) := by
  unfold execLinkDown
  repeat' first
    | with_reducible assumption
    | with_reducible exact Sealed.refl _
    | with_reducible apply SealedNext.next
    | with_reducible apply SealedNext.ite
    | with_reducible apply Sealed.ite
    | with_reducible apply portDown_sealed
    | exact Fld.keyFree rfl
    | exact Hid.keyFree rfl
    | exact balFld_keyFree _
    | decide
    | with_reducible apply sealedParts_of
    | intro _
    | with_reducible refine Sealed.of_eq (by assumption) ?_
    | with_reducible refine Sealed.of_eq_snd (by assumption) ?_
    | simp only [sealed_mk]
    | split

theorem execLinkUp_sealed (port : ℕ) (width : ℕ) (rate : ℕ) (flit : Bool) (cache : Bool) {s : State} : s.SealedNext (execLinkUp port width rate flit
    cache s) := by
  unfold execLinkUp
  repeat' first
    | with_reducible assumption
    | with_reducible exact Sealed.refl _
    | with_reducible apply SealedNext.next
    | with_reducible apply SealedNext.ite
    | with_reducible apply Sealed.ite
    | with_reducible apply wr_sealed
    | with_reducible apply mark_sealed
    | with_reducible apply endLink_sealed
    | exact Fld.keyFree rfl
    | exact Hid.keyFree rfl
    | exact balFld_keyFree _
    | decide
    | with_reducible apply sealedParts_of
    | intro _
    | with_reducible refine Sealed.of_eq (by assumption) ?_
    | with_reducible refine Sealed.of_eq_snd (by assumption) ?_
    | simp only [sealed_mk]
    | split

theorem execRecoveryExit_sealed (port : ℕ) {s : State} : s.SealedNext (execRecoveryExit port s) := by
  unfold execRecoveryExit
  repeat' first
    | with_reducible assumption
    | with_reducible exact Sealed.refl _
    | with_reducible apply SealedNext.next
    | with_reducible apply SealedNext.ite
    | with_reducible apply Sealed.ite
    | with_reducible apply wr_sealed
    | with_reducible apply endLink_sealed
    | exact Fld.keyFree rfl
    | exact Hid.keyFree rfl
    | exact balFld_keyFree _
    | decide
    | with_reducible apply sealedParts_of
    | intro _
    | with_reducible refine Sealed.of_eq (by assumption) ?_
    | with_reducible refine Sealed.of_eq_snd (by assumption) ?_
    | simp only [sealed_mk]
    | split

theorem execLinkTrainingTimeout_sealed (port : ℕ) {s : State} : s.SealedNext (execLinkTrainingTimeout port s) := by
  unfold execLinkTrainingTimeout
  repeat' first
    | with_reducible assumption
    | with_reducible exact Sealed.refl _
    | with_reducible apply SealedNext.next
    | with_reducible apply SealedNext.ite
    | with_reducible apply Sealed.ite
    | with_reducible apply endLink_sealed
    | exact Fld.keyFree rfl
    | exact Hid.keyFree rfl
    | exact balFld_keyFree _
    | decide
    | with_reducible apply sealedParts_of
    | intro _
    | with_reducible refine Sealed.of_eq (by assumption) ?_
    | with_reducible refine Sealed.of_eq_snd (by assumption) ?_
    | simp only [sealed_mk]
    | split

theorem execPortReset_sealed (port : ℕ) (hot : Bool) {s : State} : s.SealedNext (execPortReset port hot s) := by
  unfold execPortReset
  repeat' first
    | with_reducible assumption
    | with_reducible exact Sealed.refl _
    | with_reducible apply SealedNext.next
    | with_reducible apply SealedNext.ite
    | with_reducible apply Sealed.ite
    | with_reducible apply portFalls_sealed
    | with_reducible apply setH_sealed
    | with_reducible apply portDown_sealed
    | exact Fld.keyFree rfl
    | exact Hid.keyFree rfl
    | exact balFld_keyFree _
    | decide
    | with_reducible apply sealedParts_of
    | intro _
    | with_reducible refine Sealed.of_eq (by assumption) ?_
    | with_reducible refine Sealed.of_eq_snd (by assumption) ?_
    | simp only [sealed_mk]
    | split

theorem execPerstNRelease_sealed (port : ℕ) {s : State} : s.SealedNext (execPerstNRelease port s) := by
  unfold execPerstNRelease
  repeat' first
    | with_reducible assumption
    | with_reducible exact Sealed.refl _
    | with_reducible apply SealedNext.next
    | with_reducible apply SealedNext.ite
    | with_reducible apply Sealed.ite
    | with_reducible apply setH_sealed
    | exact Fld.keyFree rfl
    | exact Hid.keyFree rfl
    | exact balFld_keyFree _
    | decide
    | with_reducible apply sealedParts_of
    | intro _
    | with_reducible refine Sealed.of_eq (by assumption) ?_
    | with_reducible refine Sealed.of_eq_snd (by assumption) ?_
    | simp only [sealed_mk]
    | split

theorem State.functionReset_sealed {r s : State} (h : r.Sealed s) (port : ℕ) (func : ℕ) : r.Sealed (State.functionReset s port func) := by
  unfold State.functionReset
  repeat' first
    | with_reducible assumption
    | with_reducible exact Sealed.refl _
    | with_reducible apply Sealed.ite
    | with_reducible apply haltQuarter_sealed
    | with_reducible apply wr_sealed
    | with_reducible apply resetFunc_sealed
    | exact Fld.keyFree rfl
    | exact Hid.keyFree rfl
    | exact balFld_keyFree _
    | decide
    | with_reducible apply sealedParts_of
    | intro _
    | with_reducible refine Sealed.of_eq (by assumption) ?_
    | with_reducible refine Sealed.of_eq_snd (by assumption) ?_
    | simp only [sealed_mk]
    | split

theorem execFunctionLevelReset_sealed (port : ℕ) (func : ℕ) {s : State} : s.SealedNext (execFunctionLevelReset port func s) := by
  unfold execFunctionLevelReset
  repeat' first
    | with_reducible assumption
    | with_reducible exact Sealed.refl _
    | with_reducible apply SealedNext.next
    | with_reducible apply SealedNext.ite
    | with_reducible apply Sealed.ite
    | with_reducible apply functionReset_sealed
    | exact Fld.keyFree rfl
    | exact Hid.keyFree rfl
    | exact balFld_keyFree _
    | decide
    | with_reducible apply sealedParts_of
    | intro _
    | with_reducible refine Sealed.of_eq (by assumption) ?_
    | with_reducible refine Sealed.of_eq_snd (by assumption) ?_
    | simp only [sealed_mk]
    | split

theorem execIdeIntegrityFail_sealed (port : ℕ) (stream : ℕ) {s : State} : s.SealedNext (execIdeIntegrityFail port stream s) := by
  unfold execIdeIntegrityFail
  repeat' first
    | with_reducible assumption
    | with_reducible exact Sealed.refl _
    | with_reducible apply SealedNext.next
    | with_reducible apply SealedNext.ite
    | with_reducible apply Sealed.ite
    | with_reducible apply raisePf_sealed
    | with_reducible apply mark_sealed
    | with_reducible apply setH_sealed
    | exact Fld.keyFree rfl
    | exact Hid.keyFree rfl
    | exact balFld_keyFree _
    | decide
    | with_reducible apply sealedParts_of
    | intro _
    | with_reducible refine Sealed.of_eq (by assumption) ?_
    | with_reducible refine Sealed.of_eq_snd (by assumption) ?_
    | simp only [sealed_mk]
    | split

theorem execPortAdaptationRefresh_sealed (port : ℕ) {s : State} : s.SealedNext (execPortAdaptationRefresh port s) := by
  unfold execPortAdaptationRefresh
  repeat' first
    | with_reducible assumption
    | with_reducible exact Sealed.refl _
    | with_reducible apply SealedNext.next
    | with_reducible apply SealedNext.ite
    | with_reducible apply Sealed.ite
    | with_reducible apply goTo_sealed
    | exact Fld.keyFree rfl
    | exact Hid.keyFree rfl
    | exact balFld_keyFree _
    | decide
    | with_reducible apply sealedParts_of
    | intro _
    | with_reducible refine Sealed.of_eq (by assumption) ?_
    | with_reducible refine Sealed.of_eq_snd (by assumption) ?_
    | simp only [sealed_mk]
    | split

theorem execCoreDeviceAccess_sealed (x : CoreAcc) (t : ℕ) {s : State} : s.SealedNext (execCoreDeviceAccess x t s) := by
  unfold execCoreDeviceAccess
  repeat' first
    | with_reducible assumption
    | with_reducible exact Sealed.refl _
    | with_reducible apply SealedNext.next
    | with_reducible apply SealedNext.ite
    | with_reducible apply Sealed.ite
    | with_reducible apply coreAccess_sealed
    | with_reducible apply goTo_sealed
    | exact Fld.keyFree rfl
    | exact Hid.keyFree rfl
    | exact balFld_keyFree _
    | decide
    | with_reducible apply sealedParts_of
    | intro _
    | with_reducible refine Sealed.of_eq (by assumption) ?_
    | with_reducible refine Sealed.of_eq_snd (by assumption) ?_
    | simp only [sealed_mk]
    | split

theorem execMaintenanceAction_sealed (q : ℕ) (action : ℕ) {s : State} : s.SealedNext (execMaintenanceAction q action s) := by
  unfold execMaintenanceAction
  repeat' first
    | with_reducible assumption
    | with_reducible exact Sealed.refl _
    | with_reducible apply SealedNext.next
    | with_reducible apply SealedNext.ite
    | with_reducible apply Sealed.ite
    | with_reducible apply maintain_sealed
    | exact Fld.keyFree rfl
    | exact Hid.keyFree rfl
    | exact balFld_keyFree _
    | decide
    | with_reducible apply sealedParts_of
    | intro _
    | with_reducible refine Sealed.of_eq (by assumption) ?_
    | with_reducible refine Sealed.of_eq_snd (by assumption) ?_
    | simp only [sealed_mk]
    | split

theorem execCoreRelease_sealed (a : Agent) (q : ℕ) (c : ℕ) {s : State} : s.SealedNext (execCoreRelease a q c s) := by
  unfold execCoreRelease
  repeat' first
    | with_reducible assumption
    | with_reducible exact Sealed.refl _
    | with_reducible apply SealedNext.next
    | with_reducible apply SealedNext.ite
    | with_reducible apply Sealed.ite
    | with_reducible apply busWrite_sealed
    | exact Fld.keyFree rfl
    | exact Hid.keyFree rfl
    | exact balFld_keyFree _
    | decide
    | with_reducible apply sealedParts_of
    | intro _
    | with_reducible refine Sealed.of_eq (by assumption) ?_
    | with_reducible refine Sealed.of_eq_snd (by assumption) ?_
    | simp only [sealed_mk]
    | split

theorem execCoreHold_sealed (a : Agent) (q : ℕ) (c : ℕ) {s : State} : s.SealedNext (execCoreHold a q c s) := by
  unfold execCoreHold
  repeat' first
    | with_reducible assumption
    | with_reducible exact Sealed.refl _
    | with_reducible apply SealedNext.next
    | with_reducible apply SealedNext.ite
    | with_reducible apply Sealed.ite
    | with_reducible apply busWrite_sealed
    | exact Fld.keyFree rfl
    | exact Hid.keyFree rfl
    | exact balFld_keyFree _
    | decide
    | with_reducible apply sealedParts_of
    | intro _
    | with_reducible refine Sealed.of_eq (by assumption) ?_
    | with_reducible refine Sealed.of_eq_snd (by assumption) ?_
    | simp only [sealed_mk]
    | split

theorem execTimerCompare_sealed (q : ℕ) (c : ℕ) {s : State} : s.SealedNext (execTimerCompare q c s) := by
  unfold execTimerCompare
  repeat' first
    | with_reducible assumption
    | with_reducible exact Sealed.refl _
    | with_reducible apply SealedNext.next
    | with_reducible apply SealedNext.ite
    | with_reducible apply Sealed.ite
    | with_reducible apply goTo_sealed
    | with_reducible apply setH_sealed
    | exact Fld.keyFree rfl
    | exact Hid.keyFree rfl
    | exact balFld_keyFree _
    | decide
    | with_reducible apply sealedParts_of
    | intro _
    | with_reducible refine Sealed.of_eq (by assumption) ?_
    | with_reducible refine Sealed.of_eq_snd (by assumption) ?_
    | simp only [sealed_mk]
    | split

theorem State.bootCfw_sealed {r s : State} (h : r.Sealed s) : r.Sealed (State.bootCfw s).1 := by
  unfold State.bootCfw
  repeat' first
    | with_reducible assumption
    | with_reducible exact Sealed.refl _
    | with_reducible apply Sealed.ite
    | with_reducible apply Sealed.ite_fst
    | with_reducible apply wr_sealed
    | with_reducible apply mark_sealed
    | exact Fld.keyFree rfl
    | exact Hid.keyFree rfl
    | exact balFld_keyFree _
    | decide
    | with_reducible apply sealedParts_of
    | intro _
    | with_reducible refine Sealed.of_eq (by assumption) ?_
    | with_reducible refine Sealed.of_eq_snd (by assumption) ?_
    | simp only [sealed_mk]
    | split

theorem State.useObject_sealed {r s : State} (h : r.Sealed s) (use : ℕ) (src : ℕ) (ty : ℕ) : r.Sealed (State.useObject s use src ty) := by
  unfold State.useObject
  repeat' first
    | with_reducible assumption
    | with_reducible exact Sealed.refl _
    | with_reducible apply Sealed.ite
    | with_reducible apply setObj_sealed
    | exact Fld.keyFree rfl
    | exact Hid.keyFree rfl
    | exact balFld_keyFree _
    | decide
    | with_reducible apply sealedParts_of
    | intro _
    | with_reducible refine Sealed.of_eq (by assumption) ?_
    | with_reducible refine Sealed.of_eq_snd (by assumption) ?_
    | simp only [sealed_mk]
    | split

theorem State.startControl_sealed {r s : State} (h : r.Sealed s) (pair0 : Bool) (pair1 : Bool) : r.Sealed (State.startControl s pair0 pair1) := by
  unfold State.startControl
  repeat' first
    | with_reducible assumption
    | with_reducible exact Sealed.refl _
    | with_reducible apply Sealed.ite
    | with_reducible apply Sealed.ite_fst
    | with_reducible apply bootCfw_sealed
    | with_reducible apply useObject_sealed
    | with_reducible apply wr_sealed
    | with_reducible apply setH_sealed
    | with_reducible apply newMeasurement_sealed
    | exact Fld.keyFree rfl
    | exact Hid.keyFree rfl
    | exact balFld_keyFree _
    | decide
    | with_reducible apply sealedParts_of
    | intro _
    | with_reducible refine Sealed.of_eq (by assumption) ?_
    | with_reducible refine Sealed.of_eq_snd (by assumption) ?_
    | simp only [sealed_mk]
    | split

theorem State.abandonStores_sealed {r s : State} (h : r.Sealed s) : r.Sealed (State.abandonStores s) := by
  unfold State.abandonStores
  repeat' first
    | with_reducible assumption
    | with_reducible exact Sealed.refl _
    | with_reducible apply Sealed.ite
    | with_reducible apply Sealed.ite_fst
    | with_reducible apply fresh_sealed
    | with_reducible apply setBytes_sealed
    | with_reducible apply bump_sealed
    | rw [List.foldl_cons]
    | rw [List.foldl_nil]
    | exact Fld.keyFree rfl
    | exact Hid.keyFree rfl
    | exact balFld_keyFree _
    | decide
    | with_reducible refine Sealed.foldl ?_ (fun u x => ?_)
    | with_reducible refine Sealed.foldl_fst ?_ (fun u x => ?_)
    | with_reducible apply sealedParts_of
    | intro _
    | with_reducible refine Sealed.of_eq (by assumption) ?_
    | with_reducible refine Sealed.of_eq_snd (by assumption) ?_
    | simp only [sealed_mk]
    | split

theorem State.serveHeld_sealed {r s : State} (h : r.Sealed s) : r.Sealed (State.serveHeld s) := by
  unfold State.serveHeld
  repeat' first
    | with_reducible assumption
    | with_reducible exact Sealed.refl _
    | with_reducible apply Sealed.ite
    | with_reducible apply serveInbound_sealed
    | with_reducible apply setH_sealed
    | with_reducible apply coreAccess_sealed
    | rw [List.foldl_cons]
    | rw [List.foldl_nil]
    | exact Fld.keyFree rfl
    | exact Hid.keyFree rfl
    | exact balFld_keyFree _
    | decide
    | with_reducible refine Sealed.foldl ?_ (fun u x => ?_)
    | with_reducible refine Sealed.foldl_fst ?_ (fun u x => ?_)
    | with_reducible apply sealedParts_of
    | intro _
    | with_reducible refine Sealed.of_eq (by assumption) ?_
    | with_reducible refine Sealed.of_eq_snd (by assumption) ?_
    | simp only [sealed_mk]
    | split

theorem State.discardOps_sealed {r s : State} (h : r.Sealed s) : r.Sealed (State.discardOps s) := by
  unfold State.discardOps
  repeat' first
    | with_reducible assumption
    | with_reducible exact Sealed.refl _
    | with_reducible apply Sealed.ite
    | with_reducible apply clearRecord_sealed
    | with_reducible apply wr_sealed
    | with_reducible apply syncBlanks_sealed
    | with_reducible apply syncOut_sealed
    | rw [List.foldl_cons]
    | rw [List.foldl_nil]
    | exact Fld.keyFree rfl
    | exact Hid.keyFree rfl
    | exact balFld_keyFree _
    | decide
    | with_reducible refine sealedParts_keep ?_ _ (fun q => ?_)
    | (simp only [hidKey_mod]; rfl)
    | with_reducible refine Sealed.foldl ?_ (fun u x => ?_)
    | with_reducible refine Sealed.foldl_fst ?_ (fun u x => ?_)
    | with_reducible apply sealedParts_of
    | intro _
    | with_reducible refine Sealed.of_eq (by assumption) ?_
    | with_reducible refine Sealed.of_eq_snd (by assumption) ?_
    | simp only [sealed_mk]
    | split

theorem State.dropBanks_sealed {r s : State} (h : r.Sealed s) : r.Sealed (State.dropBanks s) := by
  unfold State.dropBanks
  repeat' first
    | with_reducible assumption
    | with_reducible exact Sealed.refl _
    | with_reducible apply Sealed.ite
    | with_reducible apply syncBusy_sealed
    | with_reducible apply dropCmds_sealed
    | with_reducible apply setEngine_sealed
    | rw [List.foldl_cons]
    | rw [List.foldl_nil]
    | exact Fld.keyFree rfl
    | exact Hid.keyFree rfl
    | exact balFld_keyFree _
    | decide
    | with_reducible refine Sealed.foldl ?_ (fun u x => ?_)
    | with_reducible refine Sealed.foldl_fst ?_ (fun u x => ?_)
    | with_reducible apply sealedParts_of
    | intro _
    | with_reducible refine Sealed.of_eq (by assumption) ?_
    | with_reducible refine Sealed.of_eq_snd (by assumption) ?_
    | simp only [sealed_mk]
    | split

theorem State.dropFabric_sealed {r s : State} (h : r.Sealed s) : r.Sealed (State.dropFabric s) := by
  unfold State.dropFabric
  repeat' first
    | with_reducible assumption
    | with_reducible exact Sealed.refl _
    | with_reducible apply Sealed.ite
    | with_reducible apply freeRecords_sealed
    | with_reducible apply wr_sealed
    | rw [List.foldl_cons]
    | rw [List.foldl_nil]
    | exact Fld.keyFree rfl
    | exact Hid.keyFree rfl
    | exact balFld_keyFree _
    | decide
    | with_reducible refine sealedParts_keep ?_ _ (fun q => ?_)
    | (simp only [hidKey_mod]; rfl)
    | with_reducible refine Sealed.foldl ?_ (fun u x => ?_)
    | with_reducible refine Sealed.foldl_fst ?_ (fun u x => ?_)
    | with_reducible apply sealedParts_of
    | intro _
    | with_reducible refine Sealed.of_eq (by assumption) ?_
    | with_reducible refine Sealed.of_eq_snd (by assumption) ?_
    | simp only [sealed_mk]
    | split

theorem State.stopRings_sealed {r s : State} (h : r.Sealed s) : r.Sealed (State.stopRings s) := by
  unfold State.stopRings
  repeat' first
    | with_reducible assumption
    | with_reducible exact Sealed.refl _
    | with_reducible apply Sealed.ite
    | with_reducible apply clearHandshakes_sealed
    | with_reducible apply wr_sealed
    | rw [List.foldl_cons]
    | rw [List.foldl_nil]
    | exact Fld.keyFree rfl
    | exact Hid.keyFree rfl
    | exact balFld_keyFree _
    | decide
    | with_reducible refine Sealed.foldl ?_ (fun u x => ?_)
    | with_reducible refine Sealed.foldl_fst ?_ (fun u x => ?_)
    | with_reducible apply sealedParts_of
    | intro _
    | with_reducible refine Sealed.of_eq (by assumption) ?_
    | with_reducible refine Sealed.of_eq_snd (by assumption) ?_
    | simp only [sealed_mk]
    | split

theorem State.retrainPorts_sealed {r s : State} (h : r.Sealed s) : r.Sealed (State.retrainPorts s) := by
  unfold State.retrainPorts
  repeat' first
    | with_reducible assumption
    | with_reducible exact Sealed.refl _
    | with_reducible apply Sealed.ite
    | with_reducible apply resetFunc_sealed
    | with_reducible apply linkGone_sealed
    | rw [List.foldl_cons]
    | rw [List.foldl_nil]
    | exact Fld.keyFree rfl
    | exact Hid.keyFree rfl
    | exact balFld_keyFree _
    | decide
    | with_reducible refine Sealed.foldl ?_ (fun u x => ?_)
    | with_reducible refine Sealed.foldl_fst ?_ (fun u x => ?_)
    | with_reducible apply sealedParts_of
    | intro _
    | with_reducible refine Sealed.of_eq (by assumption) ?_
    | with_reducible refine Sealed.of_eq_snd (by assumption) ?_
    | simp only [sealed_mk]
    | split

theorem State.planesDown_sealed {r s : State} (h : r.Sealed s) : r.Sealed (State.planesDown s) := by
  unfold State.planesDown
  repeat' first
    | with_reducible assumption
    | with_reducible exact Sealed.refl _
    | with_reducible apply Sealed.ite
    | with_reducible apply retrainPorts_sealed
    | with_reducible apply stopRings_sealed
    | with_reducible apply dropFabric_sealed
    | with_reducible apply dropBanks_sealed
    | with_reducible apply discardOps_sealed
    | with_reducible apply holdCores_sealed
    | with_reducible apply abandonStores_sealed
    | with_reducible apply serveHeld_sealed
    | with_reducible apply setH_sealed
    | with_reducible apply wr_sealed
    | exact Fld.keyFree rfl
    | exact Hid.keyFree rfl
    | exact balFld_keyFree _
    | decide
    | with_reducible apply sealedParts_of
    | intro _
    | with_reducible refine Sealed.of_eq (by assumption) ?_
    | with_reducible refine Sealed.of_eq_snd (by assumption) ?_
    | simp only [sealed_mk]
    | split

theorem State.planesUp_sealed {r s : State} (h : r.Sealed s) (pair0 : Bool) (pair1 : Bool) : r.Sealed (State.planesUp s pair0 pair1) := by
  unfold State.planesUp
  repeat' first
    | with_reducible assumption
    | with_reducible exact Sealed.refl _
    | with_reducible apply Sealed.ite
    | with_reducible apply startControl_sealed
    | with_reducible apply setH_sealed
    | with_reducible apply applyOuts_sealed
    | with_reducible apply refence_sealed
    | with_reducible apply syncUnit_sealed
    | with_reducible apply wr_sealed
    | with_reducible apply rebuildSlots_sealed
    | with_reducible apply beginTurn_sealed
    | with_reducible apply tapLine_sealed
    | rw [List.foldl_cons]
    | rw [List.foldl_nil]
    | exact Fld.keyFree rfl
    | exact Hid.keyFree rfl
    | exact balFld_keyFree _
    | decide
    | with_reducible refine Sealed.foldl ?_ (fun u x => ?_)
    | with_reducible refine Sealed.foldl_fst ?_ (fun u x => ?_)
    | with_reducible apply sealedParts_of
    | intro _
    | with_reducible refine Sealed.of_eq (by assumption) ?_
    | with_reducible refine Sealed.of_eq_snd (by assumption) ?_
    | simp only [sealed_mk]
    | split

theorem execTurnMark_sealed (m : ℕ) (flow : ℕ) {s : State} : s.SealedNext (execTurnMark m flow s) := by
  unfold execTurnMark
  repeat' first
    | with_reducible assumption
    | with_reducible exact Sealed.refl _
    | with_reducible apply SealedNext.next
    | with_reducible apply SealedNext.ite
    | with_reducible apply Sealed.ite
    | with_reducible apply wr_sealed
    | with_reducible apply dump_sealed
    | with_reducible apply goTo_sealed
    | with_reducible apply mcLog_sealed
    | with_reducible apply setH_sealed
    | with_reducible apply mark_sealed
    | exact Fld.keyFree rfl
    | exact Hid.keyFree rfl
    | exact balFld_keyFree _
    | decide
    | with_reducible apply sealedParts_of
    | intro _
    | with_reducible refine Sealed.of_eq (by assumption) ?_
    | with_reducible refine Sealed.of_eq_snd (by assumption) ?_
    | simp only [sealed_mk]
    | split

theorem execLockstepMismatch_sealed {s : State} : s.SealedNext (execLockstepMismatch s) := by
  unfold execLockstepMismatch
  repeat' first
    | with_reducible assumption
    | with_reducible exact Sealed.refl _
    | with_reducible apply SealedNext.next
    | with_reducible apply SealedNext.ite
    | with_reducible apply Sealed.ite
    | with_reducible apply mcLog_sealed
    | with_reducible apply setH_sealed
    | with_reducible apply mark_sealed
    | with_reducible apply wr_sealed
    | with_reducible apply startQuiesce_sealed
    | exact Fld.keyFree rfl
    | exact Hid.keyFree rfl
    | exact balFld_keyFree _
    | decide
    | with_reducible apply sealedParts_of
    | intro _
    | with_reducible refine Sealed.of_eq (by assumption) ?_
    | with_reducible refine Sealed.of_eq_snd (by assumption) ?_
    | simp only [sealed_mk]
    | split

theorem execCpPairRetest_sealed (pass : Bool) {s : State} : s.SealedNext (execCpPairRetest pass s) := by
  unfold execCpPairRetest
  repeat' first
    | with_reducible assumption
    | with_reducible exact Sealed.refl _
    | with_reducible apply SealedNext.next
    | with_reducible apply SealedNext.ite
    | with_reducible apply Sealed.ite
    | with_reducible apply setH_sealed
    | with_reducible apply wr_sealed
    | exact Fld.keyFree rfl
    | exact Hid.keyFree rfl
    | exact balFld_keyFree _
    | decide
    | with_reducible apply sealedParts_of
    | intro _
    | with_reducible refine Sealed.of_eq (by assumption) ?_
    | with_reducible refine Sealed.of_eq_snd (by assumption) ?_
    | simp only [sealed_mk]
    | split

theorem execMcWatchdog_sealed {s : State} : s.SealedNext (execMcWatchdog s) := by
  unfold execMcWatchdog
  repeat' first
    | with_reducible assumption
    | with_reducible exact Sealed.refl _
    | with_reducible apply SealedNext.next
    | with_reducible apply SealedNext.ite
    | with_reducible apply Sealed.ite
    | with_reducible apply newMeasurement_sealed
    | with_reducible apply mcLog_sealed
    | exact Fld.keyFree rfl
    | exact Hid.keyFree rfl
    | exact balFld_keyFree _
    | decide
    | with_reducible apply sealedParts_of
    | intro _
    | with_reducible refine Sealed.of_eq (by assumption) ?_
    | with_reducible refine Sealed.of_eq_snd (by assumption) ?_
    | simp only [sealed_mk]
    | split

theorem execUnitSelfTest_sealed (failing : List (ℕ × ℕ × ℕ)) {s : State} : s.SealedNext (execUnitSelfTest failing s) := by
  unfold execUnitSelfTest
  repeat' first
    | with_reducible assumption
    | with_reducible exact Sealed.refl _
    | with_reducible apply SealedNext.next
    | with_reducible apply SealedNext.ite
    | with_reducible apply Sealed.ite
    | with_reducible apply goTo_sealed
    | with_reducible apply setH_sealed
    | rw [List.foldl_cons]
    | rw [List.foldl_nil]
    | exact Fld.keyFree rfl
    | exact Hid.keyFree rfl
    | exact balFld_keyFree _
    | decide
    | with_reducible refine sealedParts_keep ?_ _ (fun q => ?_)
    | (simp only [hidKey_mod]; rfl)
    | with_reducible refine Sealed.foldl ?_ (fun u x => ?_)
    | with_reducible refine Sealed.foldl_fst ?_ (fun u x => ?_)
    | with_reducible apply sealedParts_of
    | intro _
    | with_reducible refine Sealed.of_eq (by assumption) ?_
    | with_reducible refine Sealed.of_eq_snd (by assumption) ?_
    | simp only [sealed_mk]
    | split

theorem execReceiverAdaptationRefresh_sealed (failing : List (ℕ × ℕ × ℕ)) {s : State} : s.SealedNext (execReceiverAdaptationRefresh failing s) := by
  unfold execReceiverAdaptationRefresh
  repeat' first
    | with_reducible assumption
    | with_reducible exact Sealed.refl _
    | with_reducible apply SealedNext.next
    | with_reducible apply SealedNext.ite
    | with_reducible apply Sealed.ite
    | with_reducible apply goTo_sealed
    | with_reducible apply setH_sealed
    | with_reducible apply laneFails_sealed
    | with_reducible apply mcLog_sealed
    | with_reducible apply addH_sealed
    | rw [List.foldl_cons]
    | rw [List.foldl_nil]
    | exact Fld.keyFree rfl
    | exact Hid.keyFree rfl
    | exact balFld_keyFree _
    | decide
    | with_reducible refine Sealed.foldl ?_ (fun u x => ?_)
    | with_reducible refine Sealed.foldl_fst ?_ (fun u x => ?_)
    | with_reducible apply sealedParts_of
    | intro _
    | with_reducible refine Sealed.of_eq (by assumption) ?_
    | with_reducible refine Sealed.of_eq_snd (by assumption) ?_
    | simp only [sealed_mk]
    | split

theorem execModRstN_sealed {s : State} : s.SealedNext (execModRstN s) := by
  unfold execModRstN
  repeat' first
    | with_reducible assumption
    | with_reducible exact Sealed.refl _
    | with_reducible apply SealedNext.next
    | with_reducible apply SealedNext.ite
    | with_reducible apply Sealed.ite
    | with_reducible apply startQuiesce_sealed
    | with_reducible apply setH_sealed
    | exact Fld.keyFree rfl
    | exact Hid.keyFree rfl
    | exact balFld_keyFree _
    | decide
    | with_reducible apply sealedParts_of
    | intro _
    | with_reducible refine Sealed.of_eq (by assumption) ?_
    | with_reducible refine Sealed.of_eq_snd (by assumption) ?_
    | simp only [sealed_mk]
    | split

theorem execQuiesceEnd_sealed (pair0 : Bool) (pair1 : Bool) {s : State} : s.SealedNext (execQuiesceEnd pair0 pair1 s) := by
  unfold execQuiesceEnd
  repeat' first
    | with_reducible assumption
    | with_reducible exact Sealed.refl _
    | with_reducible apply SealedNext.next
    | with_reducible apply SealedNext.ite
    | with_reducible apply Sealed.ite
    | with_reducible apply planesDown_sealed
    | with_reducible apply setH_sealed
    | with_reducible apply planesUp_sealed
    | exact Fld.keyFree rfl
    | exact Hid.keyFree rfl
    | exact balFld_keyFree _
    | decide
    | with_reducible apply sealedParts_of
    | intro _
    | with_reducible refine Sealed.of_eq (by assumption) ?_
    | with_reducible refine Sealed.of_eq_snd (by assumption) ?_
    | simp only [sealed_mk]
    | split

theorem execModRstNRelease_sealed {s : State} : s.SealedNext (execModRstNRelease s) := by
  unfold execModRstNRelease
  repeat' first
    | with_reducible assumption
    | with_reducible exact Sealed.refl _
    | with_reducible apply SealedNext.next
    | with_reducible apply SealedNext.ite
    | with_reducible apply Sealed.ite
    | with_reducible apply setH_sealed
    | with_reducible apply planesUp_sealed
    | exact Fld.keyFree rfl
    | exact Hid.keyFree rfl
    | exact balFld_keyFree _
    | decide
    | with_reducible apply sealedParts_of
    | intro _
    | with_reducible refine Sealed.of_eq (by assumption) ?_
    | with_reducible refine Sealed.of_eq_snd (by assumption) ?_
    | simp only [sealed_mk]
    | split

theorem State.identity_sealed {r s : State} (h : r.Sealed s) (kind : ℕ) (n : ℕ) : r.Sealed (State.identity s kind n).1 := by
  unfold State.identity
  repeat' first
    | with_reducible assumption
    | with_reducible exact Sealed.refl _
    | with_reducible apply Sealed.ite
    | with_reducible apply Sealed.ite_fst
    | with_reducible apply fresh_sealed
    | exact Fld.keyFree rfl
    | exact Hid.keyFree rfl
    | exact balFld_keyFree _
    | decide
    | with_reducible apply sealedParts_of
    | intro _
    | with_reducible refine Sealed.of_eq (by assumption) ?_
    | with_reducible refine Sealed.of_eq_snd (by assumption) ?_
    | simp only [sealed_mk]
    | split

theorem State.spdmError_sealed {r s : State} (h : r.Sealed s) (status : ℕ) (code : ℕ) : r.Sealed (State.spdmError s status code) := by
  unfold State.spdmError
  repeat' first
    | with_reducible assumption
    | with_reducible exact Sealed.refl _
    | with_reducible apply Sealed.ite
    | with_reducible apply answer_sealed
    | exact Fld.keyFree rfl
    | exact Hid.keyFree rfl
    | exact balFld_keyFree _
    | decide
    | with_reducible apply sealedParts_of
    | intro _
    | with_reducible refine Sealed.of_eq (by assumption) ?_
    | with_reducible refine Sealed.of_eq_snd (by assumption) ?_
    | simp only [sealed_mk]
    | split

theorem State.spdmMeasurements_sealed {r s : State} (h : r.Sealed s) (i : ℕ) : r.Sealed (State.spdmMeasurements s i) := by
  unfold State.spdmMeasurements
  repeat' first
    | with_reducible assumption
    | with_reducible exact Sealed.refl _
    | with_reducible apply Sealed.ite
    | with_reducible apply Sealed.ite_fst
    | with_reducible apply identity_sealed
    | with_reducible apply answer_sealed
    | exact Fld.keyFree rfl
    | exact Hid.keyFree rfl
    | exact balFld_keyFree _
    | decide
    | with_reducible apply sealedParts_of
    | intro _
    | with_reducible refine Sealed.of_eq (by assumption) ?_
    | with_reducible refine Sealed.of_eq_snd (by assumption) ?_
    | simp only [sealed_mk]
    | split

theorem State.spdm_sealed {r s : State} (h : r.Sealed s) (t : ℕ) (k : SpdmKind) : r.Sealed (State.spdm s t k) := by
  unfold State.spdm
  repeat' first
    | with_reducible assumption
    | with_reducible exact Sealed.refl _
    | with_reducible apply Sealed.ite
    | with_reducible apply Sealed.ite_fst
    | with_reducible apply answer_sealed
    | with_reducible apply identity_sealed
    | with_reducible apply spdmMeasurements_sealed
    | with_reducible apply spdmError_sealed
    | with_reducible apply addH_sealed
    | with_reducible apply setH_sealed
    | exact Fld.keyFree rfl
    | exact Hid.keyFree rfl
    | exact balFld_keyFree _
    | decide
    | with_reducible apply sealedParts_of
    | intro _
    | with_reducible refine Sealed.of_eq (by assumption) ?_
    | with_reducible refine Sealed.of_eq_snd (by assumption) ?_
    | simp only [sealed_mk]
    | split

theorem State.tap_sealed {r s : State} (h : r.Sealed s) (opcode : ℕ) (cond : Bool) (run : State → State × List Byte) (hrun : ∀ (u : State), u.Sealed
    (run u).1) : r.Sealed (State.tap s opcode cond run) := by
  unfold State.tap
  repeat' first
    | with_reducible assumption
    | with_reducible exact Sealed.refl _
    | with_reducible apply Sealed.ite
    | with_reducible refine Sealed.trans ?_ (hrun _)
    | with_reducible apply setH_sealed
    | with_reducible apply answer_sealed
    | exact Fld.keyFree rfl
    | exact Hid.keyFree rfl
    | exact balFld_keyFree _
    | decide
    | with_reducible apply sealedParts_of
    | intro _
    | with_reducible refine Sealed.of_eq (by assumption) ?_
    | with_reducible refine Sealed.of_eq_snd (by assumption) ?_
    | simp only [sealed_mk]
    | split

theorem State.tapShow_sealed {r s : State} (h : r.Sealed s) (opcode : ℕ) (cond : Bool) (d : List Byte) : r.Sealed (State.tapShow s opcode cond d) :=
    by
  unfold State.tapShow
  repeat' first
    | with_reducible assumption
    | with_reducible exact Sealed.refl _
    | with_reducible apply Sealed.ite
    | with_reducible apply tap_sealed
    | exact Fld.keyFree rfl
    | exact Hid.keyFree rfl
    | exact balFld_keyFree _
    | decide
    | with_reducible apply sealedParts_of
    | intro _
    | with_reducible refine Sealed.of_eq (by assumption) ?_
    | with_reducible refine Sealed.of_eq_snd (by assumption) ?_
    | simp only [sealed_mk]
    | split

theorem execSpdmRequest_sealed (transport : ℕ) (k : SpdmKind) {s : State} : s.SealedNext (execSpdmRequest transport k s) := by
  unfold execSpdmRequest
  repeat' first
    | with_reducible assumption
    | with_reducible exact Sealed.refl _
    | with_reducible apply SealedNext.next
    | with_reducible apply SealedNext.ite
    | with_reducible apply Sealed.ite
    | with_reducible apply spdm_sealed
    | exact Fld.keyFree rfl
    | exact Hid.keyFree rfl
    | exact balFld_keyFree _
    | decide
    | with_reducible apply sealedParts_of
    | intro _
    | with_reducible refine Sealed.of_eq (by assumption) ?_
    | with_reducible refine Sealed.of_eq_snd (by assumption) ?_
    | simp only [sealed_mk]
    | split

theorem execExtest_sealed {s : State} : s.SealedNext (execExtest s) := by
  unfold execExtest
  repeat' first
    | with_reducible assumption
    | with_reducible exact Sealed.refl _
    | with_reducible apply SealedNext.next
    | with_reducible apply SealedNext.ite
    | with_reducible apply Sealed.ite
    | with_reducible apply tapShow_sealed
    | exact Fld.keyFree rfl
    | exact Hid.keyFree rfl
    | exact balFld_keyFree _
    | decide
    | with_reducible apply sealedParts_of
    | intro _
    | with_reducible refine Sealed.of_eq (by assumption) ?_
    | with_reducible refine Sealed.of_eq_snd (by assumption) ?_
    | simp only [sealed_mk]
    | split

theorem execSamplePreload_sealed {s : State} : s.SealedNext (execSamplePreload s) := by
  unfold execSamplePreload
  repeat' first
    | with_reducible assumption
    | with_reducible exact Sealed.refl _
    | with_reducible apply SealedNext.next
    | with_reducible apply SealedNext.ite
    | with_reducible apply Sealed.ite
    | with_reducible apply tapShow_sealed
    | exact Fld.keyFree rfl
    | exact Hid.keyFree rfl
    | exact balFld_keyFree _
    | decide
    | with_reducible apply sealedParts_of
    | intro _
    | with_reducible refine Sealed.of_eq (by assumption) ?_
    | with_reducible refine Sealed.of_eq_snd (by assumption) ?_
    | simp only [sealed_mk]
    | split

theorem execIdcode_sealed {s : State} : s.SealedNext (execIdcode s) := by
  unfold execIdcode
  repeat' first
    | with_reducible assumption
    | with_reducible exact Sealed.refl _
    | with_reducible apply SealedNext.next
    | with_reducible apply SealedNext.ite
    | with_reducible apply Sealed.ite
    | with_reducible apply tapShow_sealed
    | exact Fld.keyFree rfl
    | exact Hid.keyFree rfl
    | exact balFld_keyFree _
    | decide
    | with_reducible apply sealedParts_of
    | intro _
    | with_reducible refine Sealed.of_eq (by assumption) ?_
    | with_reducible refine Sealed.of_eq_snd (by assumption) ?_
    | simp only [sealed_mk]
    | split

theorem execClamp_sealed {s : State} : s.SealedNext (execClamp s) := by
  unfold execClamp
  repeat' first
    | with_reducible assumption
    | with_reducible exact Sealed.refl _
    | with_reducible apply SealedNext.next
    | with_reducible apply SealedNext.ite
    | with_reducible apply Sealed.ite
    | with_reducible apply tapShow_sealed
    | exact Fld.keyFree rfl
    | exact Hid.keyFree rfl
    | exact balFld_keyFree _
    | decide
    | with_reducible apply sealedParts_of
    | intro _
    | with_reducible refine Sealed.of_eq (by assumption) ?_
    | with_reducible refine Sealed.of_eq_snd (by assumption) ?_
    | simp only [sealed_mk]
    | split

theorem execHighz_sealed {s : State} : s.SealedNext (execHighz s) := by
  unfold execHighz
  repeat' first
    | with_reducible assumption
    | with_reducible exact Sealed.refl _
    | with_reducible apply SealedNext.next
    | with_reducible apply SealedNext.ite
    | with_reducible apply Sealed.ite
    | with_reducible apply tapShow_sealed
    | exact Fld.keyFree rfl
    | exact Hid.keyFree rfl
    | exact balFld_keyFree _
    | decide
    | with_reducible apply sealedParts_of
    | intro _
    | with_reducible refine Sealed.of_eq (by assumption) ?_
    | with_reducible refine Sealed.of_eq_snd (by assumption) ?_
    | simp only [sealed_mk]
    | split

theorem execDbgState_sealed {s : State} : s.SealedNext (execDbgState s) := by
  unfold execDbgState
  repeat' first
    | with_reducible assumption
    | with_reducible exact Sealed.refl _
    | with_reducible apply SealedNext.next
    | with_reducible apply SealedNext.ite
    | with_reducible apply Sealed.ite
    | with_reducible apply tapShow_sealed
    | exact Fld.keyFree rfl
    | exact Hid.keyFree rfl
    | exact balFld_keyFree _
    | decide
    | with_reducible apply sealedParts_of
    | intro _
    | with_reducible refine Sealed.of_eq (by assumption) ?_
    | with_reducible refine Sealed.of_eq_snd (by assumption) ?_
    | simp only [sealed_mk]
    | split

theorem execUnlockNonce_sealed {s : State} : s.SealedNext (execUnlockNonce s) := by
  unfold execUnlockNonce
  repeat' first
    | with_reducible assumption
    | with_reducible exact Sealed.refl _
    | with_reducible apply SealedNext.next
    | with_reducible apply SealedNext.ite
    | with_reducible apply Sealed.ite
    | with_reducible apply tapShow_sealed
    | exact Fld.keyFree rfl
    | exact Hid.keyFree rfl
    | exact balFld_keyFree _
    | decide
    | with_reducible apply sealedParts_of
    | intro _
    | with_reducible refine Sealed.of_eq (by assumption) ?_
    | with_reducible refine Sealed.of_eq_snd (by assumption) ?_
    | simp only [sealed_mk]
    | split

theorem execUnlockLoad_sealed (obj : SignedObj) {s : State} : s.SealedNext (execUnlockLoad obj s) := by
  unfold execUnlockLoad
  repeat' first
    | with_reducible assumption
    | with_reducible exact Sealed.refl _
    | with_reducible apply SealedNext.next
    | with_reducible apply SealedNext.ite
    | with_reducible apply Sealed.ite
    | with_reducible apply Sealed.ite_fst
    | with_reducible apply tap_sealed
    | with_reducible apply tryUnlock_sealed
    | exact Fld.keyFree rfl
    | exact Hid.keyFree rfl
    | exact balFld_keyFree _
    | decide
    | with_reducible apply sealedParts_of
    | intro _
    | with_reducible refine Sealed.of_eq (by assumption) ?_
    | with_reducible refine Sealed.of_eq_snd (by assumption) ?_
    | simp only [sealed_mk]
    | split

theorem execRegAccess_sealed (dr : BitVec 96) {s : State} : s.SealedNext (execRegAccess dr s) := by
  unfold execRegAccess
  repeat' first
    | with_reducible assumption
    | with_reducible exact Sealed.refl _
    | with_reducible apply SealedNext.next
    | with_reducible apply SealedNext.ite
    | with_reducible apply Sealed.ite
    | with_reducible apply tap_sealed
    | with_reducible apply agentWrite_sealed
    | with_reducible apply agentRead_sealed
    | exact Fld.keyFree rfl
    | exact Hid.keyFree rfl
    | exact balFld_keyFree _
    | decide
    | with_reducible apply sealedParts_of
    | intro _
    | with_reducible refine Sealed.of_eq (by assumption) ?_
    | with_reducible refine Sealed.of_eq_snd (by assumption) ?_
    | simp only [sealed_mk]
    | split

theorem execMemAccess_sealed (dr : BitVec 576) {s : State} : s.SealedNext (execMemAccess dr s) := by
  unfold execMemAccess
  repeat' first
    | with_reducible assumption
    | with_reducible exact Sealed.refl _
    | with_reducible apply SealedNext.next
    | with_reducible apply SealedNext.ite
    | with_reducible apply Sealed.ite
    | with_reducible apply setH_sealed
    | with_reducible apply tapLine_sealed
    | with_reducible apply tapShow_sealed
    | exact Fld.keyFree rfl
    | exact Hid.keyFree rfl
    | exact balFld_keyFree _
    | decide
    | with_reducible apply sealedParts_of
    | intro _
    | with_reducible refine Sealed.of_eq (by assumption) ?_
    | with_reducible refine Sealed.of_eq_snd (by assumption) ?_
    | simp only [sealed_mk]
    | split

theorem execMcDebug_sealed {s : State} : s.SealedNext (execMcDebug s) := by
  unfold execMcDebug
  repeat' first
    | with_reducible assumption
    | with_reducible exact Sealed.refl _
    | with_reducible apply SealedNext.next
    | with_reducible apply SealedNext.ite
    | with_reducible apply Sealed.ite
    | with_reducible apply tapShow_sealed
    | exact Fld.keyFree rfl
    | exact Hid.keyFree rfl
    | exact balFld_keyFree _
    | decide
    | with_reducible apply sealedParts_of
    | intro _
    | with_reducible refine Sealed.of_eq (by assumption) ?_
    | with_reducible refine Sealed.of_eq_snd (by assumption) ?_
    | simp only [sealed_mk]
    | split

theorem execCpDebug_sealed {s : State} : s.SealedNext (execCpDebug s) := by
  unfold execCpDebug
  repeat' first
    | with_reducible assumption
    | with_reducible exact Sealed.refl _
    | with_reducible apply SealedNext.next
    | with_reducible apply SealedNext.ite
    | with_reducible apply Sealed.ite
    | with_reducible apply tapShow_sealed
    | exact Fld.keyFree rfl
    | exact Hid.keyFree rfl
    | exact balFld_keyFree _
    | decide
    | with_reducible apply sealedParts_of
    | intro _
    | with_reducible refine Sealed.of_eq (by assumption) ?_
    | with_reducible refine Sealed.of_eq_snd (by assumption) ?_
    | simp only [sealed_mk]
    | split

theorem execBypass_sealed {s : State} : s.SealedNext (execBypass s) := by
  unfold execBypass
  repeat' first
    | with_reducible assumption
    | with_reducible exact Sealed.refl _
    | with_reducible apply SealedNext.next
    | with_reducible apply SealedNext.ite
    | with_reducible apply Sealed.ite
    | with_reducible apply tapShow_sealed
    | exact Fld.keyFree rfl
    | exact Hid.keyFree rfl
    | exact balFld_keyFree _
    | decide
    | with_reducible apply sealedParts_of
    | intro _
    | with_reducible refine Sealed.of_eq (by assumption) ?_
    | with_reducible refine Sealed.of_eq_snd (by assumption) ?_
    | simp only [sealed_mk]
    | split

theorem State.doeRespond_sealed {r s : State} (h : r.Sealed s) (f : ℕ) (head : ℕ) (payload : List Byte) : r.Sealed (State.doeRespond s f head payload)
    := by
  unfold State.doeRespond
  repeat' first
    | with_reducible assumption
    | with_reducible exact Sealed.refl _
    | with_reducible apply Sealed.ite
    | with_reducible apply setH_sealed
    | rw [List.foldl_cons]
    | rw [List.foldl_nil]
    | exact Fld.keyFree rfl
    | exact Hid.keyFree rfl
    | exact balFld_keyFree _
    | decide
    | with_reducible refine Sealed.foldl ?_ (fun u x => ?_)
    | with_reducible refine Sealed.foldl_fst ?_ (fun u x => ?_)
    | with_reducible apply sealedParts_of
    | intro _
    | with_reducible refine Sealed.of_eq (by assumption) ?_
    | with_reducible refine Sealed.of_eq_snd (by assumption) ?_
    | simp only [sealed_mk]
    | split

theorem State.doeGo_sealed {r s : State} (h : r.Sealed s) (port : ℕ) (func : ℕ) : r.Sealed (State.doeGo s port func) := by
  unfold State.doeGo
  repeat' first
    | with_reducible assumption
    | with_reducible exact Sealed.refl _
    | with_reducible apply Sealed.ite
    | with_reducible apply setH_sealed
    | with_reducible apply doeRespond_sealed
    | with_reducible apply spdm_sealed
    | exact Fld.keyFree rfl
    | exact Hid.keyFree rfl
    | exact balFld_keyFree _
    | decide
    | with_reducible apply sealedParts_of
    | intro _
    | with_reducible refine Sealed.of_eq (by assumption) ?_
    | with_reducible refine Sealed.of_eq_snd (by assumption) ?_
    | simp only [sealed_mk]
    | split

theorem State.doeWrite_sealed {r s : State} (h : r.Sealed s) (port : ℕ) (func : ℕ) (off : ℕ) (val : ℕ) : r.Sealed (State.doeWrite s port func off val)
    := by
  unfold State.doeWrite
  repeat' first
    | with_reducible assumption
    | with_reducible exact Sealed.refl _
    | with_reducible apply Sealed.ite
    | with_reducible apply setH_sealed
    | with_reducible apply doeGo_sealed
    | with_reducible apply addH_sealed
    | exact Fld.keyFree rfl
    | exact Hid.keyFree rfl
    | exact balFld_keyFree _
    | decide
    | with_reducible apply sealedParts_of
    | intro _
    | with_reducible refine Sealed.of_eq (by assumption) ?_
    | with_reducible refine Sealed.of_eq_snd (by assumption) ?_
    | simp only [sealed_mk]
    | split

theorem State.cfgHold_sealed {r s : State} (h : r.Sealed s) (f : ℕ) (vf : Bool) (off : ℕ) (val : ℕ) : r.Sealed (State.cfgHold s f vf off val) := by
  unfold State.cfgHold
  repeat' first
    | with_reducible assumption
    | with_reducible exact Sealed.refl _
    | with_reducible apply Sealed.ite
    | with_reducible apply setH_sealed
    | exact Fld.keyFree rfl
    | exact Hid.keyFree rfl
    | exact balFld_keyFree _
    | decide
    | with_reducible apply sealedParts_of
    | intro _
    | with_reducible refine Sealed.of_eq (by assumption) ?_
    | with_reducible refine Sealed.of_eq_snd (by assumption) ?_
    | simp only [sealed_mk]
    | split

theorem State.cfgWrite_sealed {r s : State} (h : r.Sealed s) (port : ℕ) (func : ℕ) (off : ℕ) (val : ℕ) : r.Sealed (State.cfgWrite s port func off val)
    := by
  unfold State.cfgWrite
  repeat' first
    | with_reducible assumption
    | with_reducible exact Sealed.refl _
    | with_reducible apply Sealed.ite
    | with_reducible apply cfgHold_sealed
    | with_reducible apply setH_sealed
    | with_reducible apply sendMsix_sealed
    | with_reducible apply functionReset_sealed
    | with_reducible apply doeWrite_sealed
    | rw [List.foldl_cons]
    | rw [List.foldl_nil]
    | exact Fld.keyFree rfl
    | exact Hid.keyFree rfl
    | exact balFld_keyFree _
    | decide
    | with_reducible refine Sealed.foldl ?_ (fun u x => ?_)
    | with_reducible refine Sealed.foldl_fst ?_ (fun u x => ?_)
    | with_reducible apply sealedParts_of
    | intro _
    | with_reducible refine Sealed.of_eq (by assumption) ?_
    | with_reducible refine Sealed.of_eq_snd (by assumption) ?_
    | simp only [sealed_mk]
    | split

theorem State.configAccess_sealed {r s : State} (h : r.Sealed s) (port : ℕ) (func : ℕ) (off : ℕ) (write : Bool) (val : ℕ) : r.Sealed
    (State.configAccess s port func off write val) := by
  unfold State.configAccess
  repeat' first
    | with_reducible assumption
    | with_reducible exact Sealed.refl _
    | with_reducible apply Sealed.ite
    | with_reducible apply answer_sealed
    | with_reducible apply cfgWrite_sealed
    | exact Fld.keyFree rfl
    | exact Hid.keyFree rfl
    | exact balFld_keyFree _
    | decide
    | with_reducible apply sealedParts_of
    | intro _
    | with_reducible refine Sealed.of_eq (by assumption) ?_
    | with_reducible refine Sealed.of_eq_snd (by assumption) ?_
    | simp only [sealed_mk]
    | split

theorem execConfigRequest_sealed (port : ℕ) (func : ℕ) (off : ℕ) (write : Bool) (val : ℕ) {s : State} : s.SealedNext (execConfigRequest port func off
    write val s) := by
  unfold execConfigRequest
  repeat' first
    | with_reducible assumption
    | with_reducible exact Sealed.refl _
    | with_reducible apply SealedNext.next
    | with_reducible apply SealedNext.ite
    | with_reducible apply Sealed.ite
    | with_reducible apply answer_sealed
    | with_reducible apply configAccess_sealed
    | exact Fld.keyFree rfl
    | exact Hid.keyFree rfl
    | exact balFld_keyFree _
    | decide
    | with_reducible apply sealedParts_of
    | intro _
    | with_reducible refine Sealed.of_eq (by assumption) ?_
    | with_reducible refine Sealed.of_eq_snd (by assumption) ?_
    | simp only [sealed_mk]
    | split

theorem State.bootMfw_sealed {r s : State} (h : r.Sealed s) : r.Sealed (State.bootMfw s) := by
  unfold State.bootMfw
  repeat' first
    | with_reducible assumption
    | with_reducible exact Sealed.refl _
    | with_reducible apply Sealed.ite
    | with_reducible apply setH_sealed
    | with_reducible apply wr_sealed
    | with_reducible apply mark_sealed
    | exact Fld.keyFree rfl
    | exact Hid.keyFree rfl
    | exact balFld_keyFree _
    | decide
    | with_reducible apply sealedParts_of
    | intro _
    | with_reducible refine Sealed.of_eq (by assumption) ?_
    | with_reducible refine Sealed.of_eq_snd (by assumption) ?_
    | simp only [sealed_mk]
    | split

theorem State.startBay_sealed {r s : State} (h : r.Sealed s) (d : ℕ) : r.Sealed (State.startBay s d) := by
  unfold State.startBay
  repeat' first
    | with_reducible assumption
    | with_reducible exact Sealed.refl _
    | with_reducible apply Sealed.ite
    | with_reducible apply askService_sealed
    | with_reducible apply wr_sealed
    | exact Fld.keyFree rfl
    | exact Hid.keyFree rfl
    | exact balFld_keyFree _
    | decide
    | with_reducible apply sealedParts_of
    | intro _
    | with_reducible refine Sealed.of_eq (by assumption) ?_
    | with_reducible refine Sealed.of_eq_snd (by assumption) ?_
    | simp only [sealed_mk]
    | split

theorem State.startPlanes_sealed {r s : State} (h : r.Sealed s) (pair0 : Bool) (pair1 : Bool) : r.Sealed (State.startPlanes s pair0 pair1) := by
  unfold State.startPlanes
  repeat' first
    | with_reducible assumption
    | with_reducible exact Sealed.refl _
    | with_reducible apply Sealed.ite
    | with_reducible apply startControl_sealed
    | with_reducible apply setH_sealed
    | with_reducible apply wr_sealed
    | with_reducible apply applyOuts_sealed
    | with_reducible apply refence_sealed
    | with_reducible apply startBay_sealed
    | rw [List.foldl_cons]
    | rw [List.foldl_nil]
    | exact Fld.keyFree rfl
    | exact Hid.keyFree rfl
    | exact balFld_keyFree _
    | decide
    | with_reducible refine Sealed.foldl ?_ (fun u x => ?_)
    | with_reducible refine Sealed.foldl_fst ?_ (fun u x => ?_)
    | with_reducible apply sealedParts_of
    | intro _
    | with_reducible refine Sealed.of_eq (by assumption) ?_
    | with_reducible refine Sealed.of_eq_snd (by assumption) ?_
    | simp only [sealed_mk]
    | split

theorem State.startSweep_sealed {r s : State} (h : r.Sealed s) (cause : ℕ) : r.Sealed (State.startSweep s cause) := by
  unfold State.startSweep
  repeat' first
    | with_reducible assumption
    | with_reducible exact Sealed.refl _
    | with_reducible apply Sealed.ite
    | with_reducible apply setH_sealed
    | with_reducible apply wr_sealed
    | with_reducible apply stopAll_sealed
    | with_reducible apply mark_sealed
    | exact Fld.keyFree rfl
    | exact Hid.keyFree rfl
    | exact balFld_keyFree _
    | decide
    | with_reducible apply sealedParts_of
    | intro _
    | with_reducible refine Sealed.of_eq (by assumption) ?_
    | with_reducible refine Sealed.of_eq_snd (by assumption) ?_
    | simp only [sealed_mk]
    | split

theorem State.portsIdle_sealed {r s : State} (h : r.Sealed s) : r.Sealed (State.portsIdle s) := by
  unfold State.portsIdle
  repeat' first
    | with_reducible assumption
    | with_reducible exact Sealed.refl _
    | with_reducible apply Sealed.ite
    | with_reducible apply setH_sealed
    | with_reducible apply linkGone_sealed
    | with_reducible apply abandonStores_sealed
    | with_reducible apply mcLog_sealed
    | exact Fld.keyFree rfl
    | exact Hid.keyFree rfl
    | exact balFld_keyFree _
    | decide
    | with_reducible apply sealedParts_of
    | intro _
    | with_reducible refine Sealed.of_eq (by assumption) ?_
    | with_reducible refine Sealed.of_eq_snd (by assumption) ?_
    | simp only [sealed_mk]
    | split

theorem execPowerUp_sealed (pair0 : Bool) (pair1 : Bool) {s : State} : s.SealedNext (execPowerUp pair0 pair1 s) := by
  unfold execPowerUp
  repeat' first
    | with_reducible assumption
    | with_reducible exact Sealed.refl _
    | with_reducible apply SealedNext.next
    | with_reducible apply SealedNext.ite
    | with_reducible apply Sealed.ite
    | with_reducible apply startPlanes_sealed
    | exact Fld.keyFree rfl
    | exact Hid.keyFree rfl
    | exact balFld_keyFree _
    | decide
    | with_reducible apply sealedParts_of
    | intro _
    | with_reducible refine Sealed.of_eq (by assumption) ?_
    | with_reducible refine Sealed.of_eq_snd (by assumption) ?_
    | simp only [sealed_mk]
    | split

theorem execInputUndervoltage_sealed {s : State} : s.SealedNext (execInputUndervoltage s) := by
  unfold execInputUndervoltage
  repeat' first
    | with_reducible assumption
    | with_reducible exact Sealed.refl _
    | with_reducible apply SealedNext.next
    | with_reducible apply SealedNext.ite
    | with_reducible apply Sealed.ite
    | with_reducible apply startSweep_sealed
    | exact Fld.keyFree rfl
    | exact Hid.keyFree rfl
    | exact balFld_keyFree _
    | decide
    | with_reducible apply sealedParts_of
    | intro _
    | with_reducible refine Sealed.of_eq (by assumption) ?_
    | with_reducible refine Sealed.of_eq_snd (by assumption) ?_
    | simp only [sealed_mk]
    | split

theorem execPwrWarn_sealed {s : State} : s.SealedNext (execPwrWarn s) := by
  unfold execPwrWarn
  repeat' first
    | with_reducible assumption
    | with_reducible exact Sealed.refl _
    | with_reducible apply SealedNext.next
    | with_reducible apply SealedNext.ite
    | with_reducible apply Sealed.ite
    | with_reducible apply startSweep_sealed
    | exact Fld.keyFree rfl
    | exact Hid.keyFree rfl
    | exact balFld_keyFree _
    | decide
    | with_reducible apply sealedParts_of
    | intro _
    | with_reducible refine Sealed.of_eq (by assumption) ?_
    | with_reducible refine Sealed.of_eq_snd (by assumption) ?_
    | simp only [sealed_mk]
    | split

theorem execAuxSupplyLoss_sealed {s : State} : s.SealedNext (execAuxSupplyLoss s) := by
  unfold execAuxSupplyLoss
  repeat' first
    | with_reducible assumption
    | with_reducible exact Sealed.refl _
    | with_reducible apply SealedNext.next
    | with_reducible apply SealedNext.ite
    | with_reducible apply Sealed.ite
    | with_reducible apply startSweep_sealed
    | exact Fld.keyFree rfl
    | exact Hid.keyFree rfl
    | exact balFld_keyFree _
    | decide
    | with_reducible apply sealedParts_of
    | intro _
    | with_reducible refine Sealed.of_eq (by assumption) ?_
    | with_reducible refine Sealed.of_eq_snd (by assumption) ?_
    | simp only [sealed_mk]
    | split

theorem execThermalTrip_sealed (die : ℕ) (base : ℕ) {s : State} : s.SealedNext (execThermalTrip die base s) := by
  unfold execThermalTrip
  repeat' first
    | with_reducible assumption
    | with_reducible exact Sealed.refl _
    | with_reducible apply SealedNext.next
    | with_reducible apply SealedNext.ite
    | with_reducible apply Sealed.ite
    | with_reducible apply startSweep_sealed
    | exact Fld.keyFree rfl
    | exact Hid.keyFree rfl
    | exact balFld_keyFree _
    | decide
    | with_reducible apply sealedParts_of
    | intro _
    | with_reducible refine Sealed.of_eq (by assumption) ?_
    | with_reducible refine Sealed.of_eq_snd (by assumption) ?_
    | simp only [sealed_mk]
    | split

theorem execFlowTrip_sealed {s : State} : s.SealedNext (execFlowTrip s) := by
  unfold execFlowTrip
  repeat' first
    | with_reducible assumption
    | with_reducible exact Sealed.refl _
    | with_reducible apply SealedNext.next
    | with_reducible apply SealedNext.ite
    | with_reducible apply Sealed.ite
    | with_reducible apply startSweep_sealed
    | exact Fld.keyFree rfl
    | exact Hid.keyFree rfl
    | exact balFld_keyFree _
    | decide
    | with_reducible apply sealedParts_of
    | intro _
    | with_reducible refine Sealed.of_eq (by assumption) ?_
    | with_reducible refine Sealed.of_eq_snd (by assumption) ?_
    | simp only [sealed_mk]
    | split

theorem execPowerDownPortIdle_sealed {s : State} : s.SealedNext (execPowerDownPortIdle s) := by
  unfold execPowerDownPortIdle
  repeat' first
    | with_reducible assumption
    | with_reducible exact Sealed.refl _
    | with_reducible apply SealedNext.next
    | with_reducible apply SealedNext.ite
    | with_reducible apply Sealed.ite
    | with_reducible apply portsIdle_sealed
    | exact Fld.keyFree rfl
    | exact Hid.keyFree rfl
    | exact balFld_keyFree _
    | decide
    | with_reducible apply sealedParts_of
    | intro _
    | with_reducible refine Sealed.of_eq (by assumption) ?_
    | with_reducible refine Sealed.of_eq_snd (by assumption) ?_
    | simp only [sealed_mk]
    | split

theorem execRepower_sealed (ms : ℕ) (vin : ℕ) {s : State} : s.SealedNext (execRepower ms vin s) := by
  unfold execRepower
  repeat' first
    | with_reducible assumption
    | with_reducible exact Sealed.refl _
    | with_reducible apply SealedNext.next
    | with_reducible apply SealedNext.ite
    | with_reducible apply Sealed.ite
    | with_reducible apply setH_sealed
    | exact Fld.keyFree rfl
    | exact Hid.keyFree rfl
    | exact balFld_keyFree _
    | decide
    | with_reducible apply sealedParts_of
    | intro _
    | with_reducible refine Sealed.of_eq (by assumption) ?_
    | with_reducible refine Sealed.of_eq_snd (by assumption) ?_
    | simp only [sealed_mk]
    | split

theorem execPldmFirmwareUpdate_sealed (slot : ℕ) (obj : SignedObj) {s : State} : s.SealedNext (execPldmFirmwareUpdate slot obj s) := by
  unfold execPldmFirmwareUpdate
  repeat' first
    | with_reducible assumption
    | with_reducible exact Sealed.refl _
    | with_reducible apply SealedNext.next
    | with_reducible apply SealedNext.ite
    | with_reducible apply Sealed.ite
    | with_reducible apply answer_sealed
    | with_reducible apply setObj_sealed
    | exact Fld.keyFree rfl
    | exact Hid.keyFree rfl
    | exact balFld_keyFree _
    | decide
    | with_reducible apply sealedParts_of
    | intro _
    | with_reducible refine Sealed.of_eq (by assumption) ?_
    | with_reducible refine Sealed.of_eq_snd (by assumption) ?_
    | simp only [sealed_mk]
    | split

theorem State.idle_sealed {r s : State} (h : r.Sealed s) : r.Sealed (State.idle s) := by
  unfold State.idle
  repeat' first
    | with_reducible assumption
    | with_reducible exact Sealed.refl _
    | with_reducible apply Sealed.ite
    | with_reducible apply goTo_sealed
    | exact Fld.keyFree rfl
    | exact Hid.keyFree rfl
    | exact balFld_keyFree _
    | decide
    | with_reducible apply sealedParts_of
    | intro _
    | with_reducible refine Sealed.of_eq (by assumption) ?_
    | with_reducible refine Sealed.of_eq_snd (by assumption) ?_
    | simp only [sealed_mk]
    | split

end Sys2Proof.Machine

end
end

