-- ==== Sys2Proof/Laws/StillBase.lean ====
section
/-! SUPPORT. The relation `State.Still` (no time passes, and nothing fixed for the turn changes) for the operations that change a state, and how it goes
through what the meanings are built of. -/

namespace Sys2Proof.Machine

theorem Fld.perTurn_ro {f : Fld} (h : f.perTurn = true) : f.info.acc = .ro := by
  unfold Fld.perTurn at h
  split at h <;> first | rfl | cases h

/-- A field that software or a read may change is none of these. -/
theorem Fld.perTurn_acc {f : Fld} {a : Access} (ha : f.info.acc = a) (hne : a ≠ .ro) : f.perTurn = false := by
  by_contra hk
  exact hne (ha.symm.trans (Fld.perTurn_ro (by simpa using hk)))

theorem Fld.turnFree {f : Fld} (h : (!f.perTurn) = true) : f.perTurn = false := by simpa using h

namespace State

theorem balFld_free (c : Nat) : (balFld c).perTurn = false := by
  unfold balFld
  split <;> rfl

theorem Still.refl (s : State) : s.Still s := ⟨rfl, rfl, rfl, fun _ _ _ => rfl⟩

theorem Still.trans {s t u : State} (h1 : s.Still t) (h2 : t.Still u) : s.Still u :=
  ⟨h2.now.trans h1.now, h2.turn0.trans h1.turn0, h2.lt09.trans h1.lt09, fun f i h => (h2.regs f i h).trans (h1.regs f i h)⟩

/-- An update of anything but time, the kind of module and the registers. -/
theorem Still.upd {s t u : State} (h : s.Still t) (hn : u.now = t.now) (h0 : u.turn0 = t.turn0) (hl : u.lt09 = t.lt09) (hr : u.regs = t.regs) :
    s.Still u :=
  h.trans ⟨hn, h0, hl, fun f i _ => by simp [rd, hl, hr]⟩

/-- `Still` for the parts of a state that it speaks of. -/
def StillParts (s : State) (l : Bool) (n t0 : Nat) (g : Tab Nat) : Prop := s.Still { s with lt09 := l, now := n, turn0 := t0, regs := g }

theorem stillParts_of {s t : State} (h : s.Still t) : s.StillParts t.lt09 t.now t.turn0 t.regs := Still.upd h rfl rfl rfl rfl

/-- A record: only time, the kind of module and the registers count. -/
theorem still_mk {s : State} {p : List Instr} {l : Bool} {g : Tab Nat} {m k : List Host.Cell}
    {x2 : Nat} {x3 : Nat} {x5 : Tab Nat} {x6 : Tab Nat} {x9 : Tab Nat} {x10 : Tab Nat} {x11 : List PLine} {x12 : List TlbEnt} {x13 : List Stall}
    {x14 : List Op} {x15 : List Nat} {x16 : List Nat} {x17 : List Nat} {x18 : List Strip} {x19 : List (Nat × Nat)} {x20 : List Fence} {x21 : List
    Suspect} {x22 : List Repeat} {x23 : List HistNow} {x24 : List (Nat × Cpl)} {x25 : Tab Nat} {x26 : Tab Nat} {x27 : List Late} {x28 : List (Nat
    × Nat)} {x29 : List IntMsg} {x30 : Reply} {x31 : List PLine} {x32 : List (Nat × List Byte)} {x33 : List PackStall} {x34 : List Claim} {x35 :
    List Req} {x36 : Tab Engine} {x37 : List (Nat × Nat × Nat × MemReq)} {x38 : Tab Nat} {x39 : List (Nat × Nat)} {x40 : List (Nat × List Nat)}
    {x41 : List Repair} {x42 : List (Nat × Nat × Nat × Nat)} {x43 : Option Snap} {x44 : Tab Nat} {x45 : List FeTx} {x46 : List FeRx} {x47 : List
    FeHeld} {x48 : List (Nat × List Byte)} {x49 : List (Nat × Nat × Nat × Nat)} {x50 : List (Nat × Nat × Nat)} {x51 : List InReq} {x52 : List
    CoreAcc} {x53 : List DirectStore} {x54 : List L2Line} {x55 : List Nat} :
    s.Still (State.mk p l x2 x3 g x5 x6 m k x9 x10 x11 x12 x13 x14 x15 x16 x17 x18 x19 x20 x21 x22 x23 x24 x25 x26 x27 x28 x29 x30 x31 x32 x33 x34
      x35 x36 x37 x38 x39 x40 x41 x42 x43 x44 x45 x46 x47 x48 x49 x50 x51 x52 x53 x54 x55) ↔ s.StillParts l x2 x3 g :=
  ⟨fun h => Still.upd h rfl rfl rfl rfl, fun h => Still.upd h rfl rfl rfl rfl⟩

theorem Still.ite {s a b : State} {c : Prop} [Decidable c] (ha : s.Still a) (hb : s.Still b) : s.Still (if c then a else b) := by
  split
  · exact ha
  · exact hb

theorem Still.ite_fst {α : Type} {s : State} {a b : State × α} {c : Prop} [Decidable c] (ha : s.Still a.1) (hb : s.Still b.1) :
    s.Still (if c then a else b).1 := by
  split
  · exact ha
  · exact hb

theorem Still.foldl {α : Type} {s t : State} {f : State → α → State} {l : List α} (ht : s.Still t) (hf : ∀ (u : State) (x : α), u.Still (f u x)) :
    s.Still (l.foldl f t) := by
  induction l generalizing t with
  | nil => exact ht
  | cons x l ih => exact ih (ht.trans (hf t x))

/-- A fold that carries something beside the state. -/
theorem Still.foldl_fst {α β : Type} {s : State} {p : State × β} {f : State × β → α → State × β} {l : List α} (ht : s.Still p.1)
    (hf : ∀ (u : State × β) (x : α), u.1.Still (f u x).1) : s.Still (l.foldl f p).1 := by
  induction l generalizing p with
  | nil => exact ht
  | cons x l ih => exact ih (ht.trans (hf p x))

/-- A fold over what an engine carries. -/
theorem Still.foldl_st {α : Type} {s : State} {p : BankOut} {f : BankOut → α → BankOut} {l : List α} (ht : s.Still p.st)
    (hf : ∀ (u : BankOut) (x : α), u.st.Still (f u x).st) : s.Still (l.foldl f p).st := by
  induction l generalizing p with
  | nil => exact ht
  | cons x l ih => exact ih (ht.trans (hf p x))

theorem Still.ite_st {s : State} {a b : BankOut} {c : Prop} [Decidable c] (ha : s.Still a.st) (hb : s.Still b.st) :
    s.Still (if c then a else b).st := by
  split
  · exact ha
  · exact hb

/-- The state in a pair that a function gave. -/
theorem Still.of_eq {α : Type} {s t : State} {p : State × α} {x : α} (h : p = (t, x)) (hk : s.Still p.1) : s.Still t := by
  rw [h] at hk
  exact hk

theorem Still.of_eq_snd {α : Type} {s t : State} {p : α × State} {x : α} (h : p = (x, t)) (hk : s.Still p.2) : s.Still t := by
  rw [h] at hk
  exact hk

theorem wr_still {r s : State} (h : r.Still s) (f : Fld) (i v : Nat) (hf : f.perTurn = false) : r.Still (s.wr f i v) :=
  h.trans ⟨rfl, rfl, rfl, fun g j hg => by
    rw [rd_wr_other]
    refine Or.inl (fun he => ?_)
    subst he
    rw [hf] at hg
    cases hg⟩

theorem setH_still {r s : State} (h : r.Still s) (x : Hid) (i v : Nat) : r.Still (s.setH x i v) := Still.upd h rfl rfl rfl rfl

theorem fresh_still {r s : State} (h : r.Still s) : r.Still s.fresh.2 := setH_still h _ _ _

theorem newId_still {r s : State} (h : r.Still s) : r.Still s.newId.2 := setH_still h _ _ _

theorem setByte_still {r s : State} (h : r.Still s) (t u a : Nat) (b : Byte) : r.Still (s.setByte t u a b) := by
  refine h.trans ?_
  unfold setByte
  split
  · exact ⟨rfl, rfl, rfl, fun _ _ _ => rfl⟩
  · exact ⟨rfl, rfl, rfl, fun _ _ _ => rfl⟩

theorem setBytes_still {r s : State} (h : r.Still s) (t u a : Nat) (bs : List Byte) : r.Still (s.setBytes t u a bs) := by
  induction bs generalizing s a with
  | nil => exact h
  | cons b bs ih => exact ih (setByte_still h t u a b) (a + 1)

theorem wipe_still {r s : State} (h : r.Still s) (p : Nat → Nat → Nat → Bool) : r.Still (s.wipe p) := h.trans ⟨rfl, rfl, rfl, fun _ _ _ => rfl⟩

/-- An answer that is a next state at which no time has passed. -/
structure StillNext (s : State) (o : Host.Outcome State Fault Refusal) : Prop where
  out : ∀ t, o = .next t → s.Still t

theorem StillNext.next {s t : State} (h : s.Still t) : s.StillNext (.next t) := ⟨fun _ he => by
  cases he
  exact h⟩

theorem StillNext.ite {s : State} {a b : Host.Outcome State Fault Refusal} {c : Prop} [Decidable c] (ha : s.StillNext a)
    (hb : s.StillNext b) : s.StillNext (if c then a else b) := by
  split
  · exact ha
  · exact hb

end State

end Sys2Proof.Machine
end

