-- ==== Sys2Proof/Laws/Still.lean ====
section
/-! SUPPORT. `State.Still` (no time passes, and nothing fixed for the turn changes) for every operation and command of which it holds: one lemma each, in
the order of the files of the machine. -/

section

-- One theorem at a time: the text as a whole then needs far less memory.
set_option Elab.async false
set_option linter.all false

namespace Sys2Proof.Machine

open State

theorem State.addH_still {r s : State} (h : r.Still s) (x : Hid) (i : ℕ) (n : ℕ) : r.Still (State.addH s x i n) := by
  unfold State.addH
  repeat' first
    | with_reducible assumption
    | with_reducible exact Still.refl _
    | with_reducible apply Still.ite
    | with_reducible apply setH_still
    | exact Fld.turnFree rfl
    | exact balFld_free _
    | decide
    | with_reducible apply stillParts_of
    | intro _
    | with_reducible refine Still.of_eq (by assumption) ?_
    | with_reducible refine Still.of_eq_snd (by assumption) ?_
    | simp only [still_mk]
    | split

theorem State.bump_still {r s : State} (h : r.Still s) (f : Fld) (i : ℕ) (n : ℕ) (hff : f.perTurn = false) : r.Still (State.bump s f i n) := by
  unfold State.bump
  repeat' first
    | with_reducible assumption
    | with_reducible exact Still.refl _
    | with_reducible apply Still.ite
    | with_reducible apply wr_still
    | with_reducible apply setH_still
    | exact Fld.turnFree rfl
    | exact balFld_free _
    | decide
    | with_reducible apply stillParts_of
    | intro _
    | with_reducible refine Still.of_eq (by assumption) ?_
    | with_reducible refine Still.of_eq_snd (by assumption) ?_
    | simp only [still_mk]
    | split

theorem State.mark_still {r s : State} (h : r.Still s) (f : Fld) (i : ℕ) (hff : f.perTurn = false) : r.Still (State.mark s f i) := by
  unfold State.mark
  repeat' first
    | with_reducible assumption
    | with_reducible exact Still.refl _
    | with_reducible apply Still.ite
    | with_reducible apply setH_still
    | with_reducible apply wr_still
    | exact Fld.turnFree rfl
    | exact balFld_free _
    | decide
    | with_reducible apply stillParts_of
    | intro _
    | with_reducible refine Still.of_eq (by assumption) ?_
    | with_reducible refine Still.of_eq_snd (by assumption) ?_
    | simp only [still_mk]
    | split

theorem State.firstError_still {r s : State} (h : r.Still s) (f : Fld) (i : ℕ) (fill : State → State) (hff : f.perTurn = false) (hfill : ∀ (u :
    State), u.Still (fill u)) : r.Still (State.firstError s f i fill) := by
  unfold State.firstError
  repeat' first
    | with_reducible assumption
    | with_reducible exact Still.refl _
    | with_reducible apply Still.ite
    | with_reducible refine Still.trans ?_ (hfill _)
    | with_reducible apply mark_still
    | exact Fld.turnFree rfl
    | exact balFld_free _
    | decide
    | with_reducible apply stillParts_of
    | intro _
    | with_reducible refine Still.of_eq (by assumption) ?_
    | with_reducible refine Still.of_eq_snd (by assumption) ?_
    | simp only [still_mk]
    | split

theorem State.pmcBump_still {r s : State} (h : r.Still s) (i : ℕ) (n : ℕ) : r.Still (State.pmcBump s i n) := by
  unfold State.pmcBump
  repeat' first
    | with_reducible assumption
    | with_reducible exact Still.refl _
    | with_reducible apply Still.ite
    | with_reducible apply mark_still
    | with_reducible apply wr_still
    | exact Fld.turnFree rfl
    | exact balFld_free _
    | decide
    | with_reducible apply stillParts_of
    | intro _
    | with_reducible refine Still.of_eq (by assumption) ?_
    | with_reducible refine Still.of_eq_snd (by assumption) ?_
    | simp only [still_mk]
    | split

theorem State.evFrom_still {r s : State} (h : r.Still s) (code : ℕ) (q : ℕ) (inst : ℕ) (t : ℕ) (n : ℕ) : r.Still (State.evFrom s code q inst t n) :=
    by
  unfold State.evFrom
  repeat' first
    | with_reducible assumption
    | with_reducible exact Still.refl _
    | with_reducible apply Still.ite
    | with_reducible apply pmcBump_still
    | with_reducible apply setH_still
    | rw [List.foldl_cons]
    | rw [List.foldl_nil]
    | exact Fld.turnFree rfl
    | exact balFld_free _
    | decide
    | with_reducible refine Still.foldl ?_ (fun u x => ?_)
    | with_reducible refine Still.foldl_fst ?_ (fun u x => ?_)
    | with_reducible apply stillParts_of
    | intro _
    | with_reducible refine Still.of_eq (by assumption) ?_
    | with_reducible refine Still.of_eq_snd (by assumption) ?_
    | simp only [still_mk]
    | split

theorem State.ev_still {r s : State} (h : r.Still s) (code : ℕ) (q : ℕ) (inst : ℕ) (n : ℕ) : r.Still (State.ev s code q inst n) := by
  unfold State.ev
  repeat' first
    | with_reducible assumption
    | with_reducible exact Still.refl _
    | with_reducible apply Still.ite
    | with_reducible apply evFrom_still
    | exact Fld.turnFree rfl
    | exact balFld_free _
    | decide
    | with_reducible apply stillParts_of
    | intro _
    | with_reducible refine Still.of_eq (by assumption) ?_
    | with_reducible refine Still.of_eq_snd (by assumption) ?_
    | simp only [still_mk]
    | split

theorem State.span_still {r s : State} (h : r.Still s) (x : Hid) (i : ℕ) (on : Bool) (code : ℕ) (q : ℕ) (inst : ℕ) : r.Still (State.span s x i on code
    q inst) := by
  unfold State.span
  repeat' first
    | with_reducible assumption
    | with_reducible exact Still.refl _
    | with_reducible apply Still.ite
    | with_reducible apply setH_still
    | with_reducible apply evFrom_still
    | exact Fld.turnFree rfl
    | exact balFld_free _
    | decide
    | with_reducible apply stillParts_of
    | intro _
    | with_reducible refine Still.of_eq (by assumption) ?_
    | with_reducible refine Still.of_eq_snd (by assumption) ?_
    | simp only [still_mk]
    | split

theorem State.sendMsix_still {r s : State} (h : r.Still s) (port : ℕ) (func : ℕ) (vec : ℕ) : r.Still (State.sendMsix s port func vec) := by
  unfold State.sendMsix
  repeat' first
    | with_reducible assumption
    | with_reducible exact Still.refl _
    | with_reducible apply Still.ite
    | with_reducible apply setH_still
    | exact Fld.turnFree rfl
    | exact balFld_free _
    | decide
    | with_reducible apply stillParts_of
    | intro _
    | with_reducible refine Still.of_eq (by assumption) ?_
    | with_reducible refine Still.of_eq_snd (by assumption) ?_
    | simp only [still_mk]
    | split

theorem State.raiseVf_still {r s : State} (h : r.Still s) (q : ℕ) (vec : ℕ) : r.Still (State.raiseVf s q vec) := by
  unfold State.raiseVf
  repeat' first
    | with_reducible assumption
    | with_reducible exact Still.refl _
    | with_reducible apply Still.ite
    | with_reducible apply setH_still
    | with_reducible apply sendMsix_still
    | exact Fld.turnFree rfl
    | exact balFld_free _
    | decide
    | with_reducible apply stillParts_of
    | intro _
    | with_reducible refine Still.of_eq (by assumption) ?_
    | with_reducible refine Still.of_eq_snd (by assumption) ?_
    | simp only [still_mk]
    | split

theorem State.raisePf_still {r s : State} (h : r.Still s) (vec : ℕ) : r.Still (State.raisePf s vec) := by
  unfold State.raisePf
  repeat' first
    | with_reducible assumption
    | with_reducible exact Still.refl _
    | with_reducible apply Still.ite
    | with_reducible apply sendMsix_still
    | exact Fld.turnFree rfl
    | exact balFld_free _
    | decide
    | with_reducible apply stillParts_of
    | intro _
    | with_reducible refine Still.of_eq (by assumption) ?_
    | with_reducible refine Still.of_eq_snd (by assumption) ?_
    | simp only [still_mk]
    | split

theorem State.raisePfOther_still {r s : State} (h : r.Still s) (p : ℕ) (vec : ℕ) : r.Still (State.raisePfOther s p vec) := by
  unfold State.raisePfOther
  repeat' first
    | with_reducible assumption
    | with_reducible exact Still.refl _
    | with_reducible apply Still.ite
    | with_reducible apply sendMsix_still
    | exact Fld.turnFree rfl
    | exact balFld_free _
    | decide
    | with_reducible apply stillParts_of
    | intro _
    | with_reducible refine Still.of_eq (by assumption) ?_
    | with_reducible refine Still.of_eq_snd (by assumption) ?_
    | simp only [still_mk]
    | split

theorem State.fnErr_still {r s : State} (h : r.Still s) (f : ℕ) (code : ℕ) (detail : ℕ) : r.Still (State.fnErr s f code detail) := by
  unfold State.fnErr
  repeat' first
    | with_reducible assumption
    | with_reducible exact Still.refl _
    | with_reducible apply Still.ite
    | with_reducible apply bump_still
    | with_reducible apply firstError_still
    | with_reducible apply wr_still
    | with_reducible apply raiseVf_still
    | with_reducible apply raisePf_still
    | exact Fld.turnFree rfl
    | exact balFld_free _
    | decide
    | with_reducible apply stillParts_of
    | intro _
    | with_reducible refine Still.of_eq (by assumption) ?_
    | with_reducible refine Still.of_eq_snd (by assumption) ?_
    | simp only [still_mk]
    | split

theorem State.mcLog_still {r s : State} (h : r.Still s) (code : ℕ) (q : ℕ) (detail : ℕ) : r.Still (State.mcLog s code q detail) := by
  unfold State.mcLog
  repeat' first
    | with_reducible assumption
    | with_reducible exact Still.refl _
    | with_reducible apply Still.ite
    | with_reducible apply mark_still
    | with_reducible apply bump_still
    | with_reducible apply setH_still
    | with_reducible apply raisePf_still
    | with_reducible apply wr_still
    | exact Fld.turnFree rfl
    | exact balFld_free _
    | decide
    | with_reducible apply stillParts_of
    | intro _
    | with_reducible refine Still.of_eq (by assumption) ?_
    | with_reducible refine Still.of_eq_snd (by assumption) ?_
    | simp only [still_mk]
    | split

theorem State.setOp_still {r s : State} (h : r.Still s) (o : Op) : r.Still (State.setOp s o) := by
  unfold State.setOp
  repeat' first
    | with_reducible assumption
    | with_reducible exact Still.refl _
    | with_reducible apply Still.ite
    | exact Fld.turnFree rfl
    | exact balFld_free _
    | decide
    | with_reducible apply stillParts_of
    | intro _
    | with_reducible refine Still.of_eq (by assumption) ?_
    | with_reducible refine Still.of_eq_snd (by assumption) ?_
    | simp only [still_mk]
    | split

theorem State.startAlloc_still {r s : State} (h : r.Still s) (q : ℕ) (a : ℕ) : r.Still (State.startAlloc s q a) := by
  unfold State.startAlloc
  repeat' first
    | with_reducible assumption
    | with_reducible exact Still.refl _
    | with_reducible apply Still.ite
    | with_reducible apply setH_still
    | exact Fld.turnFree rfl
    | exact balFld_free _
    | decide
    | with_reducible apply stillParts_of
    | intro _
    | with_reducible refine Still.of_eq (by assumption) ?_
    | with_reducible refine Still.of_eq_snd (by assumption) ?_
    | simp only [still_mk]
    | split

theorem State.leaveAlloc_still {r s : State} (h : r.Still s) (id : ℕ) (a : ℕ) : r.Still (State.leaveAlloc s id a) := by
  unfold State.leaveAlloc
  repeat' first
    | with_reducible assumption
    | with_reducible exact Still.refl _
    | with_reducible apply Still.ite
    | with_reducible apply startAlloc_still
    | exact Fld.turnFree rfl
    | exact balFld_free _
    | decide
    | with_reducible apply stillParts_of
    | intro _
    | with_reducible refine Still.of_eq (by assumption) ?_
    | with_reducible refine Still.of_eq_snd (by assumption) ?_
    | simp only [still_mk]
    | split

theorem State.dropOp_still {r s : State} (h : r.Still s) (id : ℕ) : r.Still (State.dropOp s id) := by
  unfold State.dropOp
  repeat' first
    | with_reducible assumption
    | with_reducible exact Still.refl _
    | with_reducible apply Still.ite
    | with_reducible apply leaveAlloc_still
    | exact Fld.turnFree rfl
    | exact balFld_free _
    | decide
    | with_reducible apply stillParts_of
    | intro _
    | with_reducible refine Still.of_eq (by assumption) ?_
    | with_reducible refine Still.of_eq_snd (by assumption) ?_
    | simp only [still_mk]
    | split

theorem State.updOp_still {r s : State} (h : r.Still s) (id : ℕ) (f : Op → Op) : r.Still (State.updOp s id f) := by
  unfold State.updOp
  repeat' first
    | with_reducible assumption
    | with_reducible exact Still.refl _
    | with_reducible apply Still.ite
    | exact Fld.turnFree rfl
    | exact balFld_free _
    | decide
    | with_reducible apply stillParts_of
    | intro _
    | with_reducible refine Still.of_eq (by assumption) ?_
    | with_reducible refine Still.of_eq_snd (by assumption) ?_
    | simp only [still_mk]
    | split

theorem State.setEngine_still {r s : State} (h : r.Still s) (k : ℕ) (p : ℕ) (e : Engine) : r.Still (State.setEngine s k p e) := by
  unfold State.setEngine
  repeat' first
    | with_reducible assumption
    | with_reducible exact Still.refl _
    | with_reducible apply Still.ite
    | exact Fld.turnFree rfl
    | exact balFld_free _
    | decide
    | with_reducible apply stillParts_of
    | intro _
    | with_reducible refine Still.of_eq (by assumption) ?_
    | with_reducible refine Still.of_eq_snd (by assumption) ?_
    | simp only [still_mk]
    | split

theorem State.syncBusy_still {r s : State} (h : r.Still s) (k : ℕ) : r.Still (State.syncBusy s k) := by
  unfold State.syncBusy
  repeat' first
    | with_reducible assumption
    | with_reducible exact Still.refl _
    | with_reducible apply Still.ite
    | with_reducible apply wr_still
    | exact Fld.turnFree rfl
    | exact balFld_free _
    | decide
    | with_reducible apply stillParts_of
    | intro _
    | with_reducible refine Still.of_eq (by assumption) ?_
    | with_reducible refine Still.of_eq_snd (by assumption) ?_
    | simp only [still_mk]
    | split

theorem State.pushEngine_still {r s : State} (h : r.Still s) (k : ℕ) (p : ℕ) (line : ℕ) : r.Still (State.pushEngine s k p line) := by
  unfold State.pushEngine
  repeat' first
    | with_reducible assumption
    | with_reducible exact Still.refl _
    | with_reducible apply Still.ite
    | with_reducible apply setEngine_still
    | exact Fld.turnFree rfl
    | exact balFld_free _
    | decide
    | with_reducible apply stillParts_of
    | intro _
    | with_reducible refine Still.of_eq (by assumption) ?_
    | with_reducible refine Still.of_eq_snd (by assumption) ?_
    | simp only [still_mk]
    | split

theorem State.pushAll_still {r s : State} (h : r.Still s) (k : ℕ) (line : ℕ) : r.Still (State.pushAll s k line) := by
  unfold State.pushAll
  repeat' first
    | with_reducible assumption
    | with_reducible exact Still.refl _
    | with_reducible apply Still.ite
    | with_reducible apply setEngine_still
    | with_reducible apply pushEngine_still
    | rw [List.foldl_cons]
    | rw [List.foldl_nil]
    | exact Fld.turnFree rfl
    | exact balFld_free _
    | decide
    | with_reducible refine Still.foldl ?_ (fun u x => ?_)
    | with_reducible refine Still.foldl_fst ?_ (fun u x => ?_)
    | with_reducible apply stillParts_of
    | intro _
    | with_reducible refine Still.of_eq (by assumption) ?_
    | with_reducible refine Still.of_eq_snd (by assumption) ?_
    | simp only [still_mk]
    | split

theorem State.bcastData_still {r s : State} (h : r.Still s) (k : ℕ) (off : ℕ) (data : List Byte) : r.Still (State.bcastData s k off data) := by
  unfold State.bcastData
  repeat' first
    | with_reducible assumption
    | with_reducible exact Still.refl _
    | with_reducible apply Still.ite
    | with_reducible apply setEngine_still
    | rw [List.foldl_cons]
    | rw [List.foldl_nil]
    | exact Fld.turnFree rfl
    | exact balFld_free _
    | decide
    | with_reducible refine Still.foldl ?_ (fun u x => ?_)
    | with_reducible refine Still.foldl_fst ?_ (fun u x => ?_)
    | with_reducible apply stillParts_of
    | intro _
    | with_reducible refine Still.of_eq (by assumption) ?_
    | with_reducible refine Still.of_eq_snd (by assumption) ?_
    | simp only [still_mk]
    | split

theorem State.clearEngine_still {r s : State} (h : r.Still s) (k : ℕ) (p : ℕ) : r.Still (State.clearEngine s k p) := by
  unfold State.clearEngine
  repeat' first
    | with_reducible assumption
    | with_reducible exact Still.refl _
    | with_reducible apply Still.ite
    | with_reducible apply setEngine_still
    | exact Fld.turnFree rfl
    | exact balFld_free _
    | decide
    | with_reducible apply stillParts_of
    | intro _
    | with_reducible refine Still.of_eq (by assumption) ?_
    | with_reducible refine Still.of_eq_snd (by assumption) ?_
    | simp only [still_mk]
    | split

theorem State.windowErr_still {r s : State} (h : r.Still s) (q : ℕ) (a : ℕ) : r.Still (State.windowErr s q a) := by
  unfold State.windowErr
  repeat' first
    | with_reducible assumption
    | with_reducible exact Still.refl _
    | with_reducible apply Still.ite
    | with_reducible apply fnErr_still
    | exact Fld.turnFree rfl
    | exact balFld_free _
    | decide
    | with_reducible apply stillParts_of
    | intro _
    | with_reducible refine Still.of_eq (by assumption) ?_
    | with_reducible refine Still.of_eq_snd (by assumption) ?_
    | simp only [still_mk]
    | split

theorem State.windowWrite_still {r s : State} (h : r.Still s) (q : ℕ) (k : ℕ) (a : ℕ) (d : List Byte) : r.Still (State.windowWrite s q k a d) := by
  unfold State.windowWrite
  repeat' first
    | with_reducible assumption
    | with_reducible exact Still.refl _
    | with_reducible apply Still.ite
    | with_reducible apply pushEngine_still
    | with_reducible apply windowErr_still
    | with_reducible apply clearEngine_still
    | with_reducible apply pushAll_still
    | with_reducible apply bcastData_still
    | exact Fld.turnFree rfl
    | exact balFld_free _
    | decide
    | with_reducible apply stillParts_of
    | intro _
    | with_reducible refine Still.of_eq (by assumption) ?_
    | with_reducible refine Still.of_eq_snd (by assumption) ?_
    | simp only [still_mk]
    | split

theorem State.retireCmd_still {r s : State} (h : r.Still s) (k : ℕ) (p : ℕ) (status : ℕ) (fl : ℕ) : r.Still (State.retireCmd s k p status fl) := by
  unfold State.retireCmd
  repeat' first
    | with_reducible assumption
    | with_reducible exact Still.refl _
    | with_reducible apply Still.ite
    | with_reducible apply syncBusy_still
    | with_reducible apply addH_still
    | with_reducible apply setEngine_still
    | with_reducible apply mark_still
    | rw [List.foldl_cons]
    | rw [List.foldl_nil]
    | exact Fld.turnFree rfl
    | exact balFld_free _
    | decide
    | with_reducible refine Still.foldl ?_ (fun u x => ?_)
    | with_reducible refine Still.foldl_fst ?_ (fun u x => ?_)
    | with_reducible apply stillParts_of
    | intro _
    | with_reducible refine Still.of_eq (by assumption) ?_
    | with_reducible refine Still.of_eq_snd (by assumption) ?_
    | simp only [still_mk]
    | split

theorem State.dropCmds_still {r s : State} (h : r.Still s) (k : ℕ) (p : ℕ) (y3 : ℕ) : r.Still (State.dropCmds s k p y3) := by
  induction y3 generalizing s k p with
  | zero =>
    unfold State.dropCmds
    repeat' first
      | with_reducible assumption
      | with_reducible exact Still.refl _
      | with_reducible apply Still.ite
      | with_reducible apply retireCmd_still
      | exact Fld.turnFree rfl
      | exact balFld_free _
      | decide
      | with_reducible apply stillParts_of
      | intro _
      | with_reducible refine Still.of_eq (by assumption) ?_
      | with_reducible refine Still.of_eq_snd (by assumption) ?_
      | simp only [still_mk]
      | split
  | succ n0 ih =>
    unfold State.dropCmds
    repeat' first
      | with_reducible assumption
      | with_reducible exact Still.refl _
      | with_reducible apply Still.ite
      | with_reducible apply retireCmd_still
      | with_reducible apply ih
      | exact Fld.turnFree rfl
      | exact balFld_free _
      | decide
      | with_reducible apply stillParts_of
      | intro _
      | with_reducible refine Still.of_eq (by assumption) ?_
      | with_reducible refine Still.of_eq_snd (by assumption) ?_
      | simp only [still_mk]
      | split

theorem State.endBank_still {r s : State} (h : r.Still s) (k : ℕ) (forced : Bool) : r.Still (State.endBank s k forced) := by
  unfold State.endBank
  repeat' first
    | with_reducible assumption
    | with_reducible exact Still.refl _
    | with_reducible apply Still.ite
    | with_reducible apply dropCmds_still
    | with_reducible apply setEngine_still
    | with_reducible apply syncBusy_still
    | with_reducible apply wr_still
    | with_reducible apply mark_still
    | rw [List.foldl_cons]
    | rw [List.foldl_nil]
    | exact Fld.turnFree rfl
    | exact balFld_free _
    | decide
    | with_reducible refine Still.foldl ?_ (fun u x => ?_)
    | with_reducible refine Still.foldl_fst ?_ (fun u x => ?_)
    | with_reducible apply stillParts_of
    | intro _
    | with_reducible refine Still.of_eq (by assumption) ?_
    | with_reducible refine Still.of_eq_snd (by assumption) ?_
    | simp only [still_mk]
    | split

theorem State.setPoison_still {r s : State} (h : r.Still s) (t : ℕ) (u : ℕ) (a : ℕ) (v : ℕ) : r.Still (State.setPoison s t u a v) := by
  unfold State.setPoison
  repeat' first
    | with_reducible assumption
    | with_reducible exact Still.refl _
    | with_reducible apply Still.ite
    | exact Fld.turnFree rfl
    | exact balFld_free _
    | decide
    | with_reducible apply stillParts_of
    | intro _
    | with_reducible refine Still.of_eq (by assumption) ?_
    | with_reducible refine Still.of_eq_snd (by assumption) ?_
    | simp only [still_mk]
    | split

theorem State.loseStack_still {r s : State} (h : r.Still s) (k : ℕ) : r.Still (State.loseStack s k) := by
  unfold State.loseStack
  repeat' first
    | with_reducible assumption
    | with_reducible exact Still.refl _
    | with_reducible apply Still.ite
    | with_reducible apply wr_still
    | with_reducible apply endBank_still
    | with_reducible apply mcLog_still
    | with_reducible apply mark_still
    | exact Fld.turnFree rfl
    | exact balFld_free _
    | decide
    | with_reducible apply stillParts_of
    | intro _
    | with_reducible refine Still.of_eq (by assumption) ?_
    | with_reducible refine Still.of_eq_snd (by assumption) ?_
    | simp only [still_mk]
    | split

theorem State.requestRetire_still {r s : State} (h : r.Still s) (k : ℕ) (p : ℕ) : r.Still (State.requestRetire s k p) := by
  unfold State.requestRetire
  repeat' first
    | with_reducible assumption
    | with_reducible exact Still.refl _
    | with_reducible apply Still.ite
    | with_reducible apply setH_still
    | with_reducible apply loseStack_still
    | exact Fld.turnFree rfl
    | exact balFld_free _
    | decide
    | with_reducible apply stillParts_of
    | intro _
    | with_reducible refine Still.of_eq (by assumption) ?_
    | with_reducible refine Still.of_eq_snd (by assumption) ?_
    | simp only [still_mk]
    | split

theorem State.laneFails_still {r s : State} (h : r.Still s) (k : ℕ) (p : ℕ) (lane : ℕ) : r.Still (State.laneFails s k p lane) := by
  unfold State.laneFails
  repeat' first
    | with_reducible assumption
    | with_reducible exact Still.refl _
    | with_reducible apply Still.ite
    | with_reducible apply setH_still
    | with_reducible apply mcLog_still
    | with_reducible apply wr_still
    | with_reducible apply mark_still
    | with_reducible apply requestRetire_still
    | exact Fld.turnFree rfl
    | exact balFld_free _
    | decide
    | with_reducible apply stillParts_of
    | intro _
    | with_reducible refine Still.of_eq (by assumption) ?_
    | with_reducible refine Still.of_eq_snd (by assumption) ?_
    | simp only [still_mk]
    | split

theorem State.ueLog_still {r s : State} (h : r.Still s) (t : ℕ) (u : ℕ) (a : ℕ) (stored : Bool) : r.Still (State.ueLog s t u a stored) := by
  unfold State.ueLog
  repeat' first
    | with_reducible assumption
    | with_reducible exact Still.refl _
    | with_reducible apply Still.ite
    | with_reducible apply firstError_still
    | with_reducible apply wr_still
    | exact Fld.turnFree rfl
    | exact balFld_free _
    | decide
    | with_reducible apply stillParts_of
    | intro _
    | with_reducible refine Still.of_eq (by assumption) ?_
    | with_reducible refine Still.of_eq_snd (by assumption) ?_
    | simp only [still_mk]
    | split

theorem State.uncorrectable_still {r s : State} (h : r.Still s) (t : ℕ) (u : ℕ) (a : ℕ) : r.Still (State.uncorrectable s t u a) := by
  unfold State.uncorrectable
  repeat' first
    | with_reducible assumption
    | with_reducible exact Still.refl _
    | with_reducible apply Still.ite
    | with_reducible apply setH_still
    | with_reducible apply mark_still
    | with_reducible apply bump_still
    | with_reducible apply setPoison_still
    | with_reducible apply raisePf_still
    | with_reducible apply ueLog_still
    | with_reducible apply requestRetire_still
    | with_reducible apply mcLog_still
    | exact Fld.turnFree rfl
    | exact balFld_free _
    | decide
    | with_reducible apply stillParts_of
    | intro _
    | with_reducible refine Still.of_eq (by assumption) ?_
    | with_reducible refine Still.of_eq_snd (by assumption) ?_
    | simp only [still_mk]
    | split

theorem State.corrected_still {r s : State} (h : r.Still s) (t : ℕ) (u : ℕ) (a : ℕ) (lane : ℕ) : r.Still (State.corrected s t u a lane) := by
  unfold State.corrected
  repeat' first
    | with_reducible assumption
    | with_reducible exact Still.refl _
    | with_reducible apply Still.ite
    | with_reducible apply setH_still
    | with_reducible apply bump_still
    | with_reducible apply laneFails_still
    | exact Fld.turnFree rfl
    | exact balFld_free _
    | decide
    | with_reducible apply stillParts_of
    | intro _
    | with_reducible refine Still.of_eq (by assumption) ?_
    | with_reducible refine Still.of_eq_snd (by assumption) ?_
    | simp only [still_mk]
    | split

theorem State.scramble_still {r s : State} (h : r.Still s) (t : ℕ) (u : ℕ) (a : ℕ) : r.Still (State.scramble s t u a) := by
  unfold State.scramble
  repeat' first
    | with_reducible assumption
    | with_reducible exact Still.refl _
    | with_reducible apply Still.ite
    | with_reducible apply Still.ite_fst
    | with_reducible apply fresh_still
    | with_reducible apply setBytes_still
    | exact Fld.turnFree rfl
    | exact balFld_free _
    | decide
    | with_reducible apply stillParts_of
    | intro _
    | with_reducible refine Still.of_eq (by assumption) ?_
    | with_reducible refine Still.of_eq_snd (by assumption) ?_
    | simp only [still_mk]
    | split

theorem State.dramRead_still {r s : State} (h : r.Still s) (t : ℕ) (u : ℕ) (a : ℕ) (wrong : ℕ) (lane : ℕ) : r.Still (State.dramRead s t u a wrong
    lane).1 := by
  unfold State.dramRead
  repeat' first
    | with_reducible assumption
    | with_reducible exact Still.refl _
    | with_reducible apply Still.ite
    | with_reducible apply Still.ite_fst
    | with_reducible apply ueLog_still
    | with_reducible apply uncorrectable_still
    | with_reducible apply scramble_still
    | with_reducible apply corrected_still
    | with_reducible apply setH_still
    | exact Fld.turnFree rfl
    | exact balFld_free _
    | decide
    | with_reducible apply stillParts_of
    | intro _
    | with_reducible refine Still.of_eq (by assumption) ?_
    | with_reducible refine Still.of_eq_snd (by assumption) ?_
    | simp only [still_mk]
    | split

theorem State.dropLine_still {r s : State} (h : r.Still s) (q : ℕ) (t : ℕ) (u : ℕ) (a : ℕ) : r.Still (State.dropLine s q t u a) := by
  unfold State.dropLine
  repeat' first
    | with_reducible assumption
    | with_reducible exact Still.refl _
    | with_reducible apply Still.ite
    | exact Fld.turnFree rfl
    | exact balFld_free _
    | decide
    | with_reducible apply stillParts_of
    | intro _
    | with_reducible refine Still.of_eq (by assumption) ?_
    | with_reducible refine Still.of_eq_snd (by assumption) ?_
    | simp only [still_mk]
    | split

theorem State.revertLine_still {r s : State} (h : r.Still s) (l : PLine) : r.Still (State.revertLine s l) := by
  unfold State.revertLine
  repeat' first
    | with_reducible assumption
    | with_reducible exact Still.refl _
    | with_reducible apply Still.ite
    | with_reducible apply setBytes_still
    | with_reducible apply setPoison_still
    | with_reducible apply dropLine_still
    | rw [List.foldl_cons]
    | rw [List.foldl_nil]
    | exact Fld.turnFree rfl
    | exact balFld_free _
    | decide
    | with_reducible refine Still.foldl ?_ (fun u x => ?_)
    | with_reducible refine Still.foldl_fst ?_ (fun u x => ?_)
    | with_reducible apply stillParts_of
    | intro _
    | with_reducible refine Still.of_eq (by assumption) ?_
    | with_reducible refine Still.of_eq_snd (by assumption) ?_
    | simp only [still_mk]
    | split

theorem State.storePoison_still {r s : State} (h : r.Still s) (l : PLine) : r.Still (State.storePoison s l) := by
  unfold State.storePoison
  repeat' first
    | with_reducible assumption
    | with_reducible exact Still.refl _
    | with_reducible apply Still.ite
    | with_reducible apply setPoison_still
    | rw [List.foldl_cons]
    | rw [List.foldl_nil]
    | exact Fld.turnFree rfl
    | exact balFld_free _
    | decide
    | with_reducible refine Still.foldl ?_ (fun u x => ?_)
    | with_reducible refine Still.foldl_fst ?_ (fun u x => ?_)
    | with_reducible apply stillParts_of
    | intro _
    | with_reducible refine Still.of_eq (by assumption) ?_
    | with_reducible refine Still.of_eq_snd (by assumption) ?_
    | simp only [still_mk]
    | split

theorem State.plazaTouch_still {r s : State} (h : r.Still s) (q : ℕ) (t : ℕ) (u : ℕ) (a : ℕ) (cls : ℕ) (hint : ℕ) (keep : ℕ) (noalloc : Bool) (write :
    Bool) (shadow : Option (ℕ × ℕ)) : r.Still (State.plazaTouch s q t u a cls hint keep noalloc write shadow) := by
  unfold State.plazaTouch
  repeat' first
    | with_reducible assumption
    | with_reducible exact Still.refl _
    | with_reducible apply Still.ite
    | with_reducible apply ev_still
    | with_reducible apply dropLine_still
    | with_reducible apply storePoison_still
    | exact Fld.turnFree rfl
    | exact balFld_free _
    | decide
    | with_reducible apply stillParts_of
    | intro _
    | with_reducible refine Still.of_eq (by assumption) ?_
    | with_reducible refine Still.of_eq_snd (by assumption) ?_
    | simp only [still_mk]
    | split

theorem State.putRecord_still {r s : State} (h : r.Still s) (x : Stall) : r.Still (State.putRecord s x) := by
  unfold State.putRecord
  repeat' first
    | with_reducible assumption
    | with_reducible exact Still.refl _
    | with_reducible apply Still.ite
    | with_reducible apply setBytes_still
    | with_reducible apply plazaTouch_still
    | with_reducible apply raiseVf_still
    | with_reducible apply wr_still
    | exact Fld.turnFree rfl
    | exact balFld_free _
    | decide
    | with_reducible apply stillParts_of
    | intro _
    | with_reducible refine Still.of_eq (by assumption) ?_
    | with_reducible refine Still.of_eq_snd (by assumption) ?_
    | simp only [still_mk]
    | split

theorem State.walkFrom_still {r s : State} (h : r.Still s) (q : ℕ) (va : ℕ) (unit : ℕ) (node : ℕ) (y5 : List (ℕ × ℕ × ℕ)) : r.Still (State.walkFrom s
    q va unit node y5).1 := by
  induction y5 generalizing s q va unit node with
  | nil =>
    unfold State.walkFrom
    repeat' first
      | with_reducible assumption
      | with_reducible exact Still.refl _
      | with_reducible apply Still.ite
      | with_reducible apply Still.ite_fst
      | with_reducible apply plazaTouch_still
      | exact Fld.turnFree rfl
      | exact balFld_free _
      | decide
      | with_reducible apply stillParts_of
      | intro _
      | with_reducible refine Still.of_eq (by assumption) ?_
      | with_reducible refine Still.of_eq_snd (by assumption) ?_
      | simp only [still_mk]
      | split
  | cons z l ih =>
    unfold State.walkFrom
    repeat' first
      | with_reducible assumption
      | with_reducible exact Still.refl _
      | with_reducible apply Still.ite
      | with_reducible apply Still.ite_fst
      | with_reducible apply plazaTouch_still
      | with_reducible apply ih
      | exact Fld.turnFree rfl
      | exact balFld_free _
      | decide
      | with_reducible apply stillParts_of
      | intro _
      | with_reducible refine Still.of_eq (by assumption) ?_
      | with_reducible refine Still.of_eq_snd (by assumption) ?_
      | simp only [still_mk]
      | split

theorem State.walk_still {r s : State} (h : r.Still s) (q : ℕ) (va : ℕ) : r.Still (State.walk s q va).1 := by
  unfold State.walk
  repeat' first
    | with_reducible assumption
    | with_reducible exact Still.refl _
    | with_reducible apply Still.ite
    | with_reducible apply Still.ite_fst
    | with_reducible apply walkFrom_still
    | exact Fld.turnFree rfl
    | exact balFld_free _
    | decide
    | with_reducible apply stillParts_of
    | intro _
    | with_reducible refine Still.of_eq (by assumption) ?_
    | with_reducible refine Still.of_eq_snd (by assumption) ?_
    | simp only [still_mk]
    | split

theorem State.raiseFault_still {r s : State} (h : r.Still s) (c : Client) (va : ℕ) (write : Bool) (cause : ℕ) (level : ℕ) (host : Option ℕ) : r.Still
    (State.raiseFault s c va write cause level host) := by
  unfold State.raiseFault
  repeat' first
    | with_reducible assumption
    | with_reducible exact Still.refl _
    | with_reducible apply Still.ite
    | with_reducible apply ev_still
    | with_reducible apply putRecord_still
    | exact Fld.turnFree rfl
    | exact balFld_free _
    | decide
    | with_reducible apply stillParts_of
    | intro _
    | with_reducible refine Still.of_eq (by assumption) ?_
    | with_reducible refine Still.of_eq_snd (by assumption) ?_
    | simp only [still_mk]
    | split

theorem State.flushRecords_still {r s : State} (h : r.Still s) (q : ℕ) (y2 : ℕ) : r.Still (State.flushRecords s q y2) := by
  induction y2 generalizing s q with
  | zero =>
    unfold State.flushRecords
    repeat' first
      | with_reducible assumption
      | with_reducible exact Still.refl _
      | with_reducible apply Still.ite
      | with_reducible apply putRecord_still
      | exact Fld.turnFree rfl
      | exact balFld_free _
      | decide
      | with_reducible apply stillParts_of
      | intro _
      | with_reducible refine Still.of_eq (by assumption) ?_
      | with_reducible refine Still.of_eq_snd (by assumption) ?_
      | simp only [still_mk]
      | split
  | succ n0 ih =>
    unfold State.flushRecords
    repeat' first
      | with_reducible assumption
      | with_reducible exact Still.refl _
      | with_reducible apply Still.ite
      | with_reducible apply putRecord_still
      | with_reducible apply ih
      | exact Fld.turnFree rfl
      | exact balFld_free _
      | decide
      | with_reducible apply stillParts_of
      | intro _
      | with_reducible refine Still.of_eq (by assumption) ?_
      | with_reducible refine Still.of_eq_snd (by assumption) ?_
      | simp only [still_mk]
      | split

theorem State.tlbPut_still {r s : State} (h : r.Still s) (e : TlbEnt) : r.Still (State.tlbPut s e) := by
  unfold State.tlbPut
  repeat' first
    | with_reducible assumption
    | with_reducible exact Still.refl _
    | with_reducible apply Still.ite
    | with_reducible apply Still.ite_fst
    | with_reducible apply fresh_still
    | exact Fld.turnFree rfl
    | exact balFld_free _
    | decide
    | with_reducible apply stillParts_of
    | intro _
    | with_reducible refine Still.of_eq (by assumption) ?_
    | with_reducible refine Still.of_eq_snd (by assumption) ?_
    | simp only [still_mk]
    | split

theorem State.walkAndCache_still {r s : State} (h : r.Still s) (q : ℕ) (va : ℕ) (write : Bool) : r.Still (State.walkAndCache s q va write).1 := by
  unfold State.walkAndCache
  repeat' first
    | with_reducible assumption
    | with_reducible exact Still.refl _
    | with_reducible apply Still.ite
    | with_reducible apply Still.ite_fst
    | with_reducible apply walk_still
    | with_reducible apply setBytes_still
    | with_reducible apply plazaTouch_still
    | with_reducible apply tlbPut_still
    | exact Fld.turnFree rfl
    | exact balFld_free _
    | decide
    | with_reducible apply stillParts_of
    | intro _
    | with_reducible refine Still.of_eq (by assumption) ?_
    | with_reducible refine Still.of_eq_snd (by assumption) ?_
    | simp only [still_mk]
    | split

theorem State.translate_still {r s : State} (h : r.Still s) (q : ℕ) (va : ℕ) (write : Bool) : r.Still (State.translate s q va write).1 := by
  unfold State.translate
  repeat' first
    | with_reducible assumption
    | with_reducible exact Still.refl _
    | with_reducible apply Still.ite
    | with_reducible apply Still.ite_fst
    | with_reducible apply walkAndCache_still
    | exact Fld.turnFree rfl
    | exact balFld_free _
    | decide
    | with_reducible apply stillParts_of
    | intro _
    | with_reducible refine Still.of_eq (by assumption) ?_
    | with_reducible refine Still.of_eq_snd (by assumption) ?_
    | simp only [still_mk]
    | split

theorem State.xlate_still {r s : State} (h : r.Still s) (c : Client) (va : ℕ) (write : Bool) : r.Still (State.xlate s c va write).1 := by
  unfold State.xlate
  repeat' first
    | with_reducible assumption
    | with_reducible exact Still.refl _
    | with_reducible apply Still.ite
    | with_reducible apply Still.ite_fst
    | with_reducible apply translate_still
    | with_reducible apply walk_still
    | with_reducible apply raiseFault_still
    | exact Fld.turnFree rfl
    | exact balFld_free _
    | decide
    | with_reducible apply stillParts_of
    | intro _
    | with_reducible refine Still.of_eq (by assumption) ?_
    | with_reducible refine Still.of_eq_snd (by assumption) ?_
    | simp only [still_mk]
    | split

theorem State.lineRead_still {r s : State} (h : r.Still s) (c : Client) (pte : ℕ) (t : ℕ) (u : ℕ) (a : ℕ) (n : ℕ) (fin : Bool) : r.Still
    (State.lineRead s c pte t u a n fin).1 := by
  unfold State.lineRead
  repeat' first
    | with_reducible assumption
    | with_reducible exact Still.refl _
    | with_reducible apply Still.ite
    | with_reducible apply Still.ite_fst
    | with_reducible apply dramRead_still
    | with_reducible apply plazaTouch_still
    | with_reducible apply revertLine_still
    | exact Fld.turnFree rfl
    | exact balFld_free _
    | decide
    | with_reducible apply stillParts_of
    | intro _
    | with_reducible refine Still.of_eq (by assumption) ?_
    | with_reducible refine Still.of_eq_snd (by assumption) ?_
    | simp only [still_mk]
    | split

theorem State.lineWrite_still {r s : State} (h : r.Still s) (c : Client) (pte : ℕ) (t : ℕ) (u : ℕ) (a : ℕ) (d : List Byte) (bad : Bool) (shadow :
    Option (ℕ × ℕ)) : r.Still (State.lineWrite s c pte t u a d bad shadow) := by
  unfold State.lineWrite
  repeat' first
    | with_reducible assumption
    | with_reducible exact Still.refl _
    | with_reducible apply Still.ite
    | with_reducible apply plazaTouch_still
    | with_reducible apply setBytes_still
    | with_reducible apply setPoison_still
    | exact Fld.turnFree rfl
    | exact balFld_free _
    | decide
    | with_reducible apply stillParts_of
    | intro _
    | with_reducible refine Still.of_eq (by assumption) ?_
    | with_reducible refine Still.of_eq_snd (by assumption) ?_
    | simp only [still_mk]
    | split

theorem State.readPiece_still {r s : State} (h : r.Still s) (c : Client) (l : Leaf) (va : ℕ) (n : ℕ) (fin : Bool) : r.Still (State.readPiece s c l va
    n fin).1 := by
  unfold State.readPiece
  repeat' first
    | with_reducible assumption
    | with_reducible exact Still.refl _
    | with_reducible apply Still.ite
    | with_reducible apply Still.ite_fst
    | with_reducible apply lineRead_still
    | exact Fld.turnFree rfl
    | exact balFld_free _
    | decide
    | with_reducible apply stillParts_of
    | intro _
    | with_reducible refine Still.of_eq (by assumption) ?_
    | with_reducible refine Still.of_eq_snd (by assumption) ?_
    | simp only [still_mk]
    | split

theorem State.writePiece_still {r s : State} (h : r.Still s) (c : Client) (l : Leaf) (va : ℕ) (d : List Byte) (bad : Bool) (shadow : Option (ℕ × ℕ)) :
    r.Still (State.writePiece s c l va d bad shadow) := by
  unfold State.writePiece
  repeat' first
    | with_reducible assumption
    | with_reducible exact Still.refl _
    | with_reducible apply Still.ite
    | with_reducible apply windowWrite_still
    | with_reducible apply addH_still
    | with_reducible apply lineWrite_still
    | exact Fld.turnFree rfl
    | exact balFld_free _
    | decide
    | with_reducible apply stillParts_of
    | intro _
    | with_reducible refine Still.of_eq (by assumption) ?_
    | with_reducible refine Still.of_eq_snd (by assumption) ?_
    | simp only [still_mk]
    | split

theorem State.chanRead_still {r s : State} (h : r.Still s) (c : Client) (pte : ℕ) (t : ℕ) (u : ℕ) (ch : ℕ) (l : ℕ) (n : ℕ) (y8 : ℕ) : r.Still
    (State.chanRead s c pte t u ch l n y8).1 := by
  induction y8 generalizing s c pte t u ch l n with
  | zero =>
    unfold State.chanRead
    repeat' first
      | with_reducible assumption
      | with_reducible exact Still.refl _
      | with_reducible apply Still.ite
      | with_reducible apply Still.ite_fst
      | with_reducible apply lineRead_still
      | exact Fld.turnFree rfl
      | exact balFld_free _
      | decide
      | with_reducible apply stillParts_of
      | intro _
      | with_reducible refine Still.of_eq (by assumption) ?_
      | with_reducible refine Still.of_eq_snd (by assumption) ?_
      | simp only [still_mk]
      | split
  | succ n0 ih =>
    unfold State.chanRead
    repeat' first
      | with_reducible assumption
      | with_reducible exact Still.refl _
      | with_reducible apply Still.ite
      | with_reducible apply Still.ite_fst
      | with_reducible apply lineRead_still
      | with_reducible apply ih
      | exact Fld.turnFree rfl
      | exact balFld_free _
      | decide
      | with_reducible apply stillParts_of
      | intro _
      | with_reducible refine Still.of_eq (by assumption) ?_
      | with_reducible refine Still.of_eq_snd (by assumption) ?_
      | simp only [still_mk]
      | split

theorem State.physWrite_still {r s : State} (h : r.Still s) (c : Client) (pte : ℕ) (t : ℕ) (u : ℕ) (a : ℕ) (d : List Byte) (y7 : ℕ) : r.Still
    (State.physWrite s c pte t u a d y7) := by
  induction y7 generalizing s c pte t u a d with
  | zero =>
    unfold State.physWrite
    repeat' first
      | with_reducible assumption
      | with_reducible exact Still.refl _
      | with_reducible apply Still.ite
      | with_reducible apply lineWrite_still
      | exact Fld.turnFree rfl
      | exact balFld_free _
      | decide
      | with_reducible apply stillParts_of
      | intro _
      | with_reducible refine Still.of_eq (by assumption) ?_
      | with_reducible refine Still.of_eq_snd (by assumption) ?_
      | simp only [still_mk]
      | split
  | succ n0 ih =>
    unfold State.physWrite
    repeat' first
      | with_reducible assumption
      | with_reducible exact Still.refl _
      | with_reducible apply Still.ite
      | with_reducible apply lineWrite_still
      | with_reducible apply ih
      | exact Fld.turnFree rfl
      | exact balFld_free _
      | decide
      | with_reducible apply stillParts_of
      | intro _
      | with_reducible refine Still.of_eq (by assumption) ?_
      | with_reducible refine Still.of_eq_snd (by assumption) ?_
      | simp only [still_mk]
      | split

theorem State.chanWrite_still {r s : State} (h : r.Still s) (c : Client) (pte : ℕ) (t : ℕ) (u : ℕ) (ch : ℕ) (l : ℕ) (d : List Byte) (y8 : ℕ) : r.Still
    (State.chanWrite s c pte t u ch l d y8) := by
  induction y8 generalizing s c pte t u ch l d with
  | zero =>
    unfold State.chanWrite
    repeat' first
      | with_reducible assumption
      | with_reducible exact Still.refl _
      | with_reducible apply Still.ite
      | with_reducible apply lineWrite_still
      | with_reducible apply setPoison_still
      | exact Fld.turnFree rfl
      | exact balFld_free _
      | decide
      | with_reducible apply stillParts_of
      | intro _
      | with_reducible refine Still.of_eq (by assumption) ?_
      | with_reducible refine Still.of_eq_snd (by assumption) ?_
      | simp only [still_mk]
      | split
  | succ n0 ih =>
    unfold State.chanWrite
    repeat' first
      | with_reducible assumption
      | with_reducible exact Still.refl _
      | with_reducible apply Still.ite
      | with_reducible apply lineWrite_still
      | with_reducible apply setPoison_still
      | with_reducible apply ih
      | exact Fld.turnFree rfl
      | exact balFld_free _
      | decide
      | with_reducible apply stillParts_of
      | intro _
      | with_reducible refine Still.of_eq (by assumption) ?_
      | with_reducible refine Still.of_eq_snd (by assumption) ?_
      | simp only [still_mk]
      | split

theorem State.chanPoison_still {r s : State} (h : r.Still s) (t : ℕ) (u : ℕ) (ch : ℕ) (l : ℕ) (n : ℕ) : r.Still (State.chanPoison s t u ch l n) := by
  unfold State.chanPoison
  repeat' first
    | with_reducible assumption
    | with_reducible exact Still.refl _
    | with_reducible apply Still.ite
    | with_reducible apply setPoison_still
    | rw [List.foldl_cons]
    | rw [List.foldl_nil]
    | exact Fld.turnFree rfl
    | exact balFld_free _
    | decide
    | with_reducible refine Still.foldl ?_ (fun u x => ?_)
    | with_reducible refine Still.foldl_fst ?_ (fun u x => ?_)
    | with_reducible apply stillParts_of
    | intro _
    | with_reducible refine Still.of_eq (by assumption) ?_
    | with_reducible refine Still.of_eq_snd (by assumption) ?_
    | simp only [still_mk]
    | split

theorem State.readLines_still {r s : State} (h : r.Still s) (c : Client) (pte : ℕ) (t : ℕ) (u : ℕ) (y5 : ℕ) (y6 : ℕ) : r.Still (State.readLines s c
    pte t u y5 y6).1 := by
  induction y6 generalizing s c pte t u y5 with
  | zero =>
    unfold State.readLines
    repeat' first
      | with_reducible assumption
      | with_reducible exact Still.refl _
      | with_reducible apply Still.ite
      | with_reducible apply Still.ite_fst
      | with_reducible apply lineRead_still
      | exact Fld.turnFree rfl
      | exact balFld_free _
      | decide
      | with_reducible apply stillParts_of
      | intro _
      | with_reducible refine Still.of_eq (by assumption) ?_
      | with_reducible refine Still.of_eq_snd (by assumption) ?_
      | simp only [still_mk]
      | split
  | succ n0 ih =>
    unfold State.readLines
    repeat' first
      | with_reducible assumption
      | with_reducible exact Still.refl _
      | with_reducible apply Still.ite
      | with_reducible apply Still.ite_fst
      | with_reducible apply lineRead_still
      | with_reducible apply ih
      | exact Fld.turnFree rfl
      | exact balFld_free _
      | decide
      | with_reducible apply stillParts_of
      | intro _
      | with_reducible refine Still.of_eq (by assumption) ?_
      | with_reducible refine Still.of_eq_snd (by assumption) ?_
      | simp only [still_mk]
      | split

theorem State.readDir_still {r s : State} (h : r.Still s) (c : Client) (pte : ℕ) : r.Still (State.readDir s c pte).1 := by
  unfold State.readDir
  repeat' first
    | with_reducible assumption
    | with_reducible exact Still.refl _
    | with_reducible apply Still.ite
    | with_reducible apply Still.ite_fst
    | with_reducible apply readLines_still
    | exact Fld.turnFree rfl
    | exact balFld_free _
    | decide
    | with_reducible apply stillParts_of
    | intro _
    | with_reducible refine Still.of_eq (by assumption) ?_
    | with_reducible refine Still.of_eq_snd (by assumption) ?_
    | simp only [still_mk]
    | split

theorem State.noteDamage_still {r s : State} (h : r.Still s) (q : ℕ) (t : ℕ) (u : ℕ) (va : ℕ) (cause : ℕ) (b : ℕ) : r.Still (State.noteDamage s q t u
    va cause b) := by
  unfold State.noteDamage
  repeat' first
    | with_reducible assumption
    | with_reducible exact Still.refl _
    | with_reducible apply Still.ite
    | with_reducible apply mark_still
    | with_reducible apply bump_still
    | with_reducible apply ev_still
    | with_reducible apply firstError_still
    | with_reducible apply wr_still
    | exact Fld.turnFree rfl
    | exact balFld_free _
    | decide
    | with_reducible apply stillParts_of
    | intro _
    | with_reducible refine Still.of_eq (by assumption) ?_
    | with_reducible refine Still.of_eq_snd (by assumption) ?_
    | simp only [still_mk]
    | split

theorem State.subData_still {r s : State} (h : r.Still s) (c : Client) (pte : ℕ) (log2 : ℕ) (j : ℕ) (fmt : ℕ) (d : Dir) : r.Still (State.subData s c
    pte log2 j fmt d).1 := by
  unfold State.subData
  repeat' first
    | with_reducible assumption
    | with_reducible exact Still.refl _
    | with_reducible apply Still.ite
    | with_reducible apply Still.ite_fst
    | with_reducible apply chanRead_still
    | exact Fld.turnFree rfl
    | exact balFld_free _
    | decide
    | with_reducible apply stillParts_of
    | intro _
    | with_reducible refine Still.of_eq (by assumption) ?_
    | with_reducible refine Still.of_eq_snd (by assumption) ?_
    | simp only [still_mk]
    | split

theorem State.noteSub_still {r s : State} (h : r.Still s) (q : ℕ) (t : ℕ) (u : ℕ) (page : ℕ) (o : SubOut) : r.Still (State.noteSub s q t u page o) :=
    by
  unfold State.noteSub
  repeat' first
    | with_reducible assumption
    | with_reducible exact Still.refl _
    | with_reducible apply Still.ite
    | with_reducible apply bump_still
    | with_reducible apply noteDamage_still
    | rw [List.foldl_cons]
    | rw [List.foldl_nil]
    | exact Fld.turnFree rfl
    | exact balFld_free _
    | decide
    | with_reducible refine Still.foldl ?_ (fun u x => ?_)
    | with_reducible refine Still.foldl_fst ?_ (fun u x => ?_)
    | with_reducible apply stillParts_of
    | intro _
    | with_reducible refine Still.of_eq (by assumption) ?_
    | with_reducible refine Still.of_eq_snd (by assumption) ?_
    | simp only [still_mk]
    | split

theorem State.expand_still {r s : State} (h : r.Still s) (c : Client) (pte : ℕ) (log2 : ℕ) (va : ℕ) (j : ℕ) (first : ℕ) (last : ℕ) (d : Dir) : r.Still
    (State.expand s c pte log2 va j first last d).1 := by
  unfold State.expand
  repeat' first
    | with_reducible assumption
    | with_reducible exact Still.refl _
    | with_reducible apply Still.ite
    | with_reducible apply Still.ite_fst
    | with_reducible apply subData_still
    | with_reducible apply noteSub_still
    | exact Fld.turnFree rfl
    | exact balFld_free _
    | decide
    | with_reducible apply stillParts_of
    | intro _
    | with_reducible refine Still.of_eq (by assumption) ?_
    | with_reducible refine Still.of_eq_snd (by assumption) ?_
    | simp only [still_mk]
    | split

theorem State.holdPacked_still {r s : State} (h : r.Still s) (c : Client) (l : Leaf) (va : ℕ) (write : Bool) (data : List Byte) (bads : List Bool)
    (busy : Bool) : r.Still (State.holdPacked s c l va write data bads busy) := by
  unfold State.holdPacked
  repeat' first
    | with_reducible assumption
    | with_reducible exact Still.refl _
    | with_reducible apply Still.ite
    | exact Fld.turnFree rfl
    | exact balFld_free _
    | decide
    | with_reducible apply stillParts_of
    | intro _
    | with_reducible refine Still.of_eq (by assumption) ?_
    | with_reducible refine Still.of_eq_snd (by assumption) ?_
    | simp only [still_mk]
    | split

theorem State.waitForDir_still {r s : State} (h : r.Still s) (c : Client) (l : Leaf) (va : ℕ) (write : Bool) (data : List Byte) (bads : List Bool) :
    r.Still (State.waitForDir s c l va write data bads) := by
  unfold State.waitForDir
  repeat' first
    | with_reducible assumption
    | with_reducible exact Still.refl _
    | with_reducible apply Still.ite
    | with_reducible apply holdPacked_still
    | with_reducible apply ev_still
    | exact Fld.turnFree rfl
    | exact balFld_free _
    | decide
    | with_reducible apply stillParts_of
    | intro _
    | with_reducible refine Still.of_eq (by assumption) ?_
    | with_reducible refine Still.of_eq_snd (by assumption) ?_
    | simp only [still_mk]
    | split

theorem State.dirDamage_still {r s : State} (h : r.Still s) (c : Client) (l : Leaf) (va : ℕ) (poisoned : Bool) : r.Still (State.dirDamage s c l va
    poisoned) := by
  unfold State.dirDamage
  repeat' first
    | with_reducible assumption
    | with_reducible exact Still.refl _
    | with_reducible apply Still.ite
    | with_reducible apply noteDamage_still
    | exact Fld.turnFree rfl
    | exact balFld_free _
    | decide
    | with_reducible apply stillParts_of
    | intro _
    | with_reducible refine Still.of_eq (by assumption) ?_
    | with_reducible refine Still.of_eq_snd (by assumption) ?_
    | simp only [still_mk]
    | split

theorem State.packedRead_still {r s : State} (h : r.Still s) (c : Client) (l : Leaf) (va : ℕ) (n : ℕ) : r.Still (State.packedRead s c l va n).1 := by
  unfold State.packedRead
  repeat' first
    | with_reducible assumption
    | with_reducible exact Still.refl _
    | with_reducible apply Still.ite
    | with_reducible apply Still.ite_fst
    | with_reducible apply readDir_still
    | with_reducible apply dirDamage_still
    | with_reducible apply waitForDir_still
    | with_reducible apply expand_still
    | rw [List.foldl_cons]
    | rw [List.foldl_nil]
    | exact Fld.turnFree rfl
    | exact balFld_free _
    | decide
    | with_reducible refine Still.foldl ?_ (fun u x => ?_)
    | with_reducible refine Still.foldl_fst ?_ (fun u x => ?_)
    | with_reducible apply stillParts_of
    | intro _
    | with_reducible refine Still.of_eq (by assumption) ?_
    | with_reducible refine Still.of_eq_snd (by assumption) ?_
    | simp only [still_mk]
    | split

theorem State.dirBusy_still {r s : State} (h : r.Still s) (c : Client) (pte : ℕ) (on : Bool) : r.Still (State.dirBusy s c pte on) := by
  unfold State.dirBusy
  repeat' first
    | with_reducible assumption
    | with_reducible exact Still.refl _
    | with_reducible apply Still.ite
    | with_reducible apply physWrite_still
    | exact Fld.turnFree rfl
    | exact balFld_free _
    | decide
    | with_reducible apply stillParts_of
    | intro _
    | with_reducible refine Still.of_eq (by assumption) ?_
    | with_reducible refine Still.of_eq_snd (by assumption) ?_
    | simp only [still_mk]
    | split

theorem State.oldBlocks_still {r s : State} (h : r.Still s) (c : Client) (l : Leaf) (va : ℕ) (j : ℕ) (fmt : ℕ) (first : ℕ) (d : Dir) : r.Still
    (State.oldBlocks s c l va j fmt first d).1 := by
  unfold State.oldBlocks
  repeat' first
    | with_reducible assumption
    | with_reducible exact Still.refl _
    | with_reducible apply Still.ite
    | with_reducible apply Still.ite_fst
    | with_reducible apply subData_still
    | with_reducible apply noteSub_still
    | exact Fld.turnFree rfl
    | exact balFld_free _
    | decide
    | with_reducible apply stillParts_of
    | intro _
    | with_reducible refine Still.of_eq (by assumption) ?_
    | with_reducible refine Still.of_eq_snd (by assumption) ?_
    | simp only [still_mk]
    | split

theorem State.putSub_still {r s : State} (h : r.Still s) (c : Client) (pte : ℕ) (slack : ℕ) (d : Dir) (runs : List (ℕ × ℕ × ℕ)) (e : State.NewSub) :
    r.Still (State.putSub s c pte slack d runs e).1 := by
  unfold State.putSub
  repeat' first
    | with_reducible assumption
    | with_reducible exact Still.refl _
    | with_reducible apply Still.ite
    | with_reducible apply Still.ite_fst
    | with_reducible apply chanPoison_still
    | with_reducible apply chanWrite_still
    | with_reducible apply physWrite_still
    | with_reducible apply bump_still
    | with_reducible apply ev_still
    | rw [List.foldl_cons]
    | rw [List.foldl_nil]
    | exact Fld.turnFree rfl
    | exact balFld_free _
    | decide
    | with_reducible refine Still.foldl ?_ (fun u x => ?_)
    | with_reducible refine Still.foldl_fst ?_ (fun u x => ?_)
    | with_reducible apply stillParts_of
    | intro _
    | with_reducible refine Still.of_eq (by assumption) ?_
    | with_reducible refine Still.of_eq_snd (by assumption) ?_
    | simp only [still_mk]
    | split

theorem State.packedWriteAt_still {r s : State} (h : r.Still s) (c : Client) (l : Leaf) (va : ℕ) (data : List Byte) (bads : List Bool) : r.Still
    (State.packedWriteAt s c l va data bads).1 := by
  unfold State.packedWriteAt
  repeat' first
    | with_reducible assumption
    | with_reducible exact Still.refl _
    | with_reducible apply Still.ite
    | with_reducible apply Still.ite_fst
    | with_reducible apply readDir_still
    | with_reducible apply waitForDir_still
    | with_reducible apply dirDamage_still
    | with_reducible apply oldBlocks_still
    | with_reducible apply ev_still
    | with_reducible apply dirBusy_still
    | with_reducible apply raiseVf_still
    | with_reducible apply mark_still
    | with_reducible apply holdPacked_still
    | with_reducible apply putSub_still
    | with_reducible apply physWrite_still
    | rw [List.foldl_cons]
    | rw [List.foldl_nil]
    | exact Fld.turnFree rfl
    | exact balFld_free _
    | decide
    | with_reducible refine Still.foldl ?_ (fun u x => ?_)
    | with_reducible refine Still.foldl_fst ?_ (fun u x => ?_)
    | with_reducible apply stillParts_of
    | intro _
    | with_reducible refine Still.of_eq (by assumption) ?_
    | with_reducible refine Still.of_eq_snd (by assumption) ?_
    | simp only [still_mk]
    | split

theorem State.packedFault_still {r s : State} (h : r.Still s) (c : Client) (va : ℕ) (write : Bool) (cause : ℕ) : r.Still (State.packedFault s c va
    write cause) := by
  unfold State.packedFault
  repeat' first
    | with_reducible assumption
    | with_reducible exact Still.refl _
    | with_reducible apply Still.ite
    | with_reducible apply raiseFault_still
    | exact Fld.turnFree rfl
    | exact balFld_free _
    | decide
    | with_reducible apply stillParts_of
    | intro _
    | with_reducible refine Still.of_eq (by assumption) ?_
    | with_reducible refine Still.of_eq_snd (by assumption) ?_
    | simp only [still_mk]
    | split

theorem State.readPieces_still {r s : State} (h : r.Still s) (c : Client) (va : ℕ) (n : ℕ) (y4 : ℕ) : r.Still (State.readPieces s c va n y4).1 := by
  induction y4 generalizing s c va n with
  | zero =>
    unfold State.readPieces
    repeat' first
      | with_reducible assumption
      | with_reducible exact Still.refl _
      | with_reducible apply Still.ite
      | with_reducible apply Still.ite_fst
      | with_reducible apply xlate_still
      | with_reducible apply packedRead_still
      | with_reducible apply packedFault_still
      | with_reducible apply readPiece_still
      | exact Fld.turnFree rfl
      | exact balFld_free _
      | decide
      | with_reducible apply stillParts_of
      | intro _
      | with_reducible refine Still.of_eq (by assumption) ?_
      | with_reducible refine Still.of_eq_snd (by assumption) ?_
      | simp only [still_mk]
      | split
  | succ n0 ih =>
    unfold State.readPieces
    repeat' first
      | with_reducible assumption
      | with_reducible exact Still.refl _
      | with_reducible apply Still.ite
      | with_reducible apply Still.ite_fst
      | with_reducible apply xlate_still
      | with_reducible apply packedRead_still
      | with_reducible apply packedFault_still
      | with_reducible apply readPiece_still
      | with_reducible apply ih
      | exact Fld.turnFree rfl
      | exact balFld_free _
      | decide
      | with_reducible apply stillParts_of
      | intro _
      | with_reducible refine Still.of_eq (by assumption) ?_
      | with_reducible refine Still.of_eq_snd (by assumption) ?_
      | simp only [still_mk]
      | split

theorem State.writePlain_still {r s : State} (h : r.Still s) (c : Client) (l : Leaf) (va : ℕ) (d : List Byte) (bads : List Bool) (shadow : Option (ℕ ×
    ℕ)) : r.Still (State.writePlain s c l va d bads shadow).1 := by
  unfold State.writePlain
  repeat' first
    | with_reducible assumption
    | with_reducible exact Still.refl _
    | with_reducible apply Still.ite
    | with_reducible apply Still.ite_fst
    | with_reducible apply packedWriteAt_still
    | with_reducible apply packedFault_still
    | with_reducible apply writePiece_still
    | exact Fld.turnFree rfl
    | exact balFld_free _
    | decide
    | with_reducible apply stillParts_of
    | intro _
    | with_reducible refine Still.of_eq (by assumption) ?_
    | with_reducible refine Still.of_eq_snd (by assumption) ?_
    | simp only [still_mk]
    | split

theorem State.plainPieces_still {r s : State} (h : r.Still s) (c : Client) (va : ℕ) (d : List Byte) (bads : List Bool) (y5 : ℕ) : r.Still
    (State.plainPieces s c va d bads y5).1 := by
  induction y5 generalizing s c va d bads with
  | zero =>
    unfold State.plainPieces
    repeat' first
      | with_reducible assumption
      | with_reducible exact Still.refl _
      | with_reducible apply Still.ite
      | with_reducible apply Still.ite_fst
      | with_reducible apply xlate_still
      | with_reducible apply writePlain_still
      | exact Fld.turnFree rfl
      | exact balFld_free _
      | decide
      | with_reducible apply stillParts_of
      | intro _
      | with_reducible refine Still.of_eq (by assumption) ?_
      | with_reducible refine Still.of_eq_snd (by assumption) ?_
      | simp only [still_mk]
      | split
  | succ n0 ih =>
    unfold State.plainPieces
    repeat' first
      | with_reducible assumption
      | with_reducible exact Still.refl _
      | with_reducible apply Still.ite
      | with_reducible apply Still.ite_fst
      | with_reducible apply xlate_still
      | with_reducible apply writePlain_still
      | with_reducible apply ih
      | exact Fld.turnFree rfl
      | exact balFld_free _
      | decide
      | with_reducible apply stillParts_of
      | intro _
      | with_reducible refine Still.of_eq (by assumption) ?_
      | with_reducible refine Still.of_eq_snd (by assumption) ?_
      | simp only [still_mk]
      | split

theorem State.readLedger_still {r s : State} (h : r.Still s) (c : Client) (obj : ℕ) : r.Still (State.readLedger s c obj).1 := by
  unfold State.readLedger
  repeat' first
    | with_reducible assumption
    | with_reducible exact Still.refl _
    | with_reducible apply Still.ite
    | with_reducible apply Still.ite_fst
    | with_reducible apply readPieces_still
    | with_reducible apply raiseFault_still
    | exact Fld.turnFree rfl
    | exact balFld_free _
    | decide
    | with_reducible apply stillParts_of
    | intro _
    | with_reducible refine Still.of_eq (by assumption) ?_
    | with_reducible refine Still.of_eq_snd (by assumption) ?_
    | simp only [still_mk]
    | split

theorem State.clearShadow_still {r s : State} (h : r.Still s) (q : ℕ) (obj : ℕ) : r.Still (State.clearShadow s q obj) := by
  unfold State.clearShadow
  repeat' first
    | with_reducible assumption
    | with_reducible exact Still.refl _
    | with_reducible apply Still.ite
    | with_reducible apply Still.ite_fst
    | with_reducible apply readPieces_still
    | with_reducible apply plainPieces_still
    | exact Fld.turnFree rfl
    | exact balFld_free _
    | decide
    | with_reducible apply stillParts_of
    | intro _
    | with_reducible refine Still.of_eq (by assumption) ?_
    | with_reducible refine Still.of_eq_snd (by assumption) ?_
    | simp only [still_mk]
    | split

theorem State.secondWrite_still {r s : State} (h : r.Still s) (q : ℕ) (obj : ℕ) (va : ℕ) (d : List Byte) (bads : List Bool) : r.Still
    (State.secondWrite s q obj va d bads) := by
  unfold State.secondWrite
  repeat' first
    | with_reducible assumption
    | with_reducible exact Still.refl _
    | with_reducible apply Still.ite
    | with_reducible apply Still.ite_fst
    | with_reducible apply plainPieces_still
    | with_reducible apply clearShadow_still
    | exact Fld.turnFree rfl
    | exact balFld_free _
    | decide
    | with_reducible apply stillParts_of
    | intro _
    | with_reducible refine Still.of_eq (by assumption) ?_
    | with_reducible refine Still.of_eq_snd (by assumption) ?_
    | simp only [still_mk]
    | split

theorem State.restoreWrite_still {r s : State} (h : r.Still s) (l : PLine) : r.Still (State.restoreWrite s l) := by
  unfold State.restoreWrite
  repeat' first
    | with_reducible assumption
    | with_reducible exact Still.refl _
    | with_reducible apply Still.ite
    | with_reducible apply secondWrite_still
    | exact Fld.turnFree rfl
    | exact balFld_free _
    | decide
    | with_reducible apply stillParts_of
    | intro _
    | with_reducible refine Still.of_eq (by assumption) ?_
    | with_reducible refine Still.of_eq_snd (by assumption) ?_
    | simp only [still_mk]
    | split

theorem State.settle_still {r s : State} (h : r.Still s) : r.Still (State.settle s) := by
  unfold State.settle
  repeat' first
    | with_reducible assumption
    | with_reducible exact Still.refl _
    | with_reducible apply Still.ite
    | with_reducible apply restoreWrite_still
    | rw [List.foldl_cons]
    | rw [List.foldl_nil]
    | exact Fld.turnFree rfl
    | exact balFld_free _
    | decide
    | with_reducible refine Still.foldl ?_ (fun u x => ?_)
    | with_reducible refine Still.foldl_fst ?_ (fun u x => ?_)
    | with_reducible apply stillParts_of
    | intro _
    | with_reducible refine Still.of_eq (by assumption) ?_
    | with_reducible refine Still.of_eq_snd (by assumption) ?_
    | simp only [still_mk]
    | split

theorem State.writeBack_still {r s : State} (h : r.Still s) (l : PLine) : r.Still (State.writeBack s l) := by
  unfold State.writeBack
  repeat' first
    | with_reducible assumption
    | with_reducible exact Still.refl _
    | with_reducible apply Still.ite
    | with_reducible apply restoreWrite_still
    | with_reducible apply storePoison_still
    | exact Fld.turnFree rfl
    | exact balFld_free _
    | decide
    | with_reducible apply stillParts_of
    | intro _
    | with_reducible refine Still.of_eq (by assumption) ?_
    | with_reducible refine Still.of_eq_snd (by assumption) ?_
    | simp only [still_mk]
    | split

theorem State.flushLines_still {r s : State} (h : r.Still s) (ls : List PLine) : r.Still (State.flushLines s ls) := by
  unfold State.flushLines
  repeat' first
    | with_reducible assumption
    | with_reducible exact Still.refl _
    | with_reducible apply Still.ite
    | with_reducible apply dropLine_still
    | with_reducible apply writeBack_still
    | rw [List.foldl_cons]
    | rw [List.foldl_nil]
    | exact Fld.turnFree rfl
    | exact balFld_free _
    | decide
    | with_reducible refine Still.foldl ?_ (fun u x => ?_)
    | with_reducible refine Still.foldl_fst ?_ (fun u x => ?_)
    | with_reducible apply stillParts_of
    | intro _
    | with_reducible refine Still.of_eq (by assumption) ?_
    | with_reducible refine Still.of_eq_snd (by assumption) ?_
    | simp only [still_mk]
    | split

theorem State.vreadL_still {r s : State} (h : r.Still s) (c : Client) (va : ℕ) (n : ℕ) : r.Still (State.vreadL s c va n).1 := by
  unfold State.vreadL
  repeat' first
    | with_reducible assumption
    | with_reducible exact Still.refl _
    | with_reducible apply Still.ite
    | with_reducible apply Still.ite_fst
    | with_reducible apply readPieces_still
    | with_reducible apply settle_still
    | exact Fld.turnFree rfl
    | exact balFld_free _
    | decide
    | with_reducible apply stillParts_of
    | intro _
    | with_reducible refine Still.of_eq (by assumption) ?_
    | with_reducible refine Still.of_eq_snd (by assumption) ?_
    | simp only [still_mk]
    | split

theorem State.vread_still {r s : State} (h : r.Still s) (c : Client) (va : ℕ) (n : ℕ) : r.Still (State.vread s c va n).1 := by
  unfold State.vread
  repeat' first
    | with_reducible assumption
    | with_reducible exact Still.refl _
    | with_reducible apply Still.ite
    | with_reducible apply Still.ite_fst
    | with_reducible apply vreadL_still
    | exact Fld.turnFree rfl
    | exact balFld_free _
    | decide
    | with_reducible apply stillParts_of
    | intro _
    | with_reducible refine Still.of_eq (by assumption) ?_
    | with_reducible refine Still.of_eq_snd (by assumption) ?_
    | simp only [still_mk]
    | split

theorem State.shadowFor_still {r s : State} (h : r.Still s) (c : Client) (l : Leaf) (va : ℕ) : r.Still (State.shadowFor s c l va).1 := by
  unfold State.shadowFor
  repeat' first
    | with_reducible assumption
    | with_reducible exact Still.refl _
    | with_reducible apply Still.ite
    | with_reducible apply Still.ite_fst
    | with_reducible apply readLedger_still
    | with_reducible apply clearShadow_still
    | exact Fld.turnFree rfl
    | exact balFld_free _
    | decide
    | with_reducible apply stillParts_of
    | intro _
    | with_reducible refine Still.of_eq (by assumption) ?_
    | with_reducible refine Still.of_eq_snd (by assumption) ?_
    | simp only [still_mk]
    | split

theorem State.writeOne_still {r s : State} (h : r.Still s) (c : Client) (l : Leaf) (va : ℕ) (d : List Byte) (bads : List Bool) : r.Still
    (State.writeOne s c l va d bads).1 := by
  unfold State.writeOne
  repeat' first
    | with_reducible assumption
    | with_reducible exact Still.refl _
    | with_reducible apply Still.ite
    | with_reducible apply Still.ite_fst
    | with_reducible apply shadowFor_still
    | with_reducible apply secondWrite_still
    | with_reducible apply writePlain_still
    | exact Fld.turnFree rfl
    | exact balFld_free _
    | decide
    | with_reducible apply stillParts_of
    | intro _
    | with_reducible refine Still.of_eq (by assumption) ?_
    | with_reducible refine Still.of_eq_snd (by assumption) ?_
    | simp only [still_mk]
    | split

theorem State.writePieces_still {r s : State} (h : r.Still s) (c : Client) (va : ℕ) (d : List Byte) (bads : List Bool) (y5 : ℕ) : r.Still
    (State.writePieces s c va d bads y5).1 := by
  induction y5 generalizing s c va d bads with
  | zero =>
    unfold State.writePieces
    repeat' first
      | with_reducible assumption
      | with_reducible exact Still.refl _
      | with_reducible apply Still.ite
      | with_reducible apply Still.ite_fst
      | with_reducible apply xlate_still
      | with_reducible apply writeOne_still
      | exact Fld.turnFree rfl
      | exact balFld_free _
      | decide
      | with_reducible apply stillParts_of
      | intro _
      | with_reducible refine Still.of_eq (by assumption) ?_
      | with_reducible refine Still.of_eq_snd (by assumption) ?_
      | simp only [still_mk]
      | split
  | succ n0 ih =>
    unfold State.writePieces
    repeat' first
      | with_reducible assumption
      | with_reducible exact Still.refl _
      | with_reducible apply Still.ite
      | with_reducible apply Still.ite_fst
      | with_reducible apply xlate_still
      | with_reducible apply writeOne_still
      | with_reducible apply ih
      | exact Fld.turnFree rfl
      | exact balFld_free _
      | decide
      | with_reducible apply stillParts_of
      | intro _
      | with_reducible refine Still.of_eq (by assumption) ?_
      | with_reducible refine Still.of_eq_snd (by assumption) ?_
      | simp only [still_mk]
      | split

theorem State.vwriteL_still {r s : State} (h : r.Still s) (c : Client) (va : ℕ) (d : List Byte) (bads : List Bool) : r.Still (State.vwriteL s c va d
    bads).1 := by
  unfold State.vwriteL
  repeat' first
    | with_reducible assumption
    | with_reducible exact Still.refl _
    | with_reducible apply Still.ite
    | with_reducible apply Still.ite_fst
    | with_reducible apply writePieces_still
    | with_reducible apply settle_still
    | exact Fld.turnFree rfl
    | exact balFld_free _
    | decide
    | with_reducible apply stillParts_of
    | intro _
    | with_reducible refine Still.of_eq (by assumption) ?_
    | with_reducible refine Still.of_eq_snd (by assumption) ?_
    | simp only [still_mk]
    | split

theorem State.vwrite_still {r s : State} (h : r.Still s) (c : Client) (va : ℕ) (d : List Byte) : r.Still (State.vwrite s c va d).1 := by
  unfold State.vwrite
  repeat' first
    | with_reducible assumption
    | with_reducible exact Still.refl _
    | with_reducible apply Still.ite
    | with_reducible apply Still.ite_fst
    | with_reducible apply vwriteL_still
    | exact Fld.turnFree rfl
    | exact balFld_free _
    | decide
    | with_reducible apply stillParts_of
    | intro _
    | with_reducible refine Still.of_eq (by assumption) ?_
    | with_reducible refine Still.of_eq_snd (by assumption) ?_
    | simp only [still_mk]
    | split

theorem State.vwrites_still {r s : State} (h : r.Still s) (c : Client) (y2 : List VWrite) : r.Still (State.vwrites s c y2).1 := by
  induction y2 generalizing s c with
  | nil =>
    unfold State.vwrites
    repeat' first
      | with_reducible assumption
      | with_reducible exact Still.refl _
      | with_reducible apply Still.ite
      | with_reducible apply Still.ite_fst
      | with_reducible apply vwrite_still
      | exact Fld.turnFree rfl
      | exact balFld_free _
      | decide
      | with_reducible apply stillParts_of
      | intro _
      | with_reducible refine Still.of_eq (by assumption) ?_
      | with_reducible refine Still.of_eq_snd (by assumption) ?_
      | simp only [still_mk]
      | split
  | cons z l ih =>
    unfold State.vwrites
    repeat' first
      | with_reducible assumption
      | with_reducible exact Still.refl _
      | with_reducible apply Still.ite
      | with_reducible apply Still.ite_fst
      | with_reducible apply vwrite_still
      | with_reducible apply ih
      | exact Fld.turnFree rfl
      | exact balFld_free _
      | decide
      | with_reducible apply stillParts_of
      | intro _
      | with_reducible refine Still.of_eq (by assumption) ?_
      | with_reducible refine Still.of_eq_snd (by assumption) ?_
      | simp only [still_mk]
      | split

theorem State.promote_still {r s : State} (h : r.Still s) (t : ℕ) (u : ℕ) (ch : ℕ) : r.Still (State.promote s t u ch) := by
  unfold State.promote
  repeat' first
    | with_reducible assumption
    | with_reducible exact Still.refl _
    | with_reducible apply Still.ite
    | with_reducible apply ev_still
    | exact Fld.turnFree rfl
    | exact balFld_free _
    | decide
    | with_reducible apply stillParts_of
    | intro _
    | with_reducible refine Still.of_eq (by assumption) ?_
    | with_reducible refine Still.of_eq_snd (by assumption) ?_
    | simp only [still_mk]
    | split

theorem State.serveReq_still {r s : State} (h : r.Still s) (t : ℕ) (u : ℕ) (ch : ℕ) (x : MemReq) : r.Still (State.serveReq s t u ch x) := by
  unfold State.serveReq
  repeat' first
    | with_reducible assumption
    | with_reducible exact Still.refl _
    | with_reducible apply Still.ite
    | with_reducible apply promote_still
    | exact Fld.turnFree rfl
    | exact balFld_free _
    | decide
    | with_reducible apply stillParts_of
    | intro _
    | with_reducible refine Still.of_eq (by assumption) ?_
    | with_reducible refine Still.of_eq_snd (by assumption) ?_
    | simp only [still_mk]
    | split

theorem State.enqueue_still {r0 s : State} (h : r0.Still s) (t : ℕ) (u : ℕ) (r : MemReq) : r0.Still (State.enqueue s t u r) := by
  unfold State.enqueue
  repeat' first
    | with_reducible assumption
    | with_reducible exact Still.refl _
    | with_reducible apply Still.ite
    | with_reducible apply ev_still
    | exact Fld.turnFree rfl
    | exact balFld_free _
    | decide
    | with_reducible apply stillParts_of
    | intro _
    | with_reducible refine Still.of_eq (by assumption) ?_
    | with_reducible refine Still.of_eq_snd (by assumption) ?_
    | simp only [still_mk]
    | split

theorem State.serveAll_still {r s : State} (h : r.Still s) (t : ℕ) (u : ℕ) (ch : ℕ) (y4 : ℕ) : r.Still (State.serveAll s t u ch y4) := by
  induction y4 generalizing s t u ch with
  | zero =>
    unfold State.serveAll
    repeat' first
      | with_reducible assumption
      | with_reducible exact Still.refl _
      | with_reducible apply Still.ite
      | with_reducible apply serveReq_still
      | exact Fld.turnFree rfl
      | exact balFld_free _
      | decide
      | with_reducible apply stillParts_of
      | intro _
      | with_reducible refine Still.of_eq (by assumption) ?_
      | with_reducible refine Still.of_eq_snd (by assumption) ?_
      | simp only [still_mk]
      | split
  | succ n0 ih =>
    unfold State.serveAll
    repeat' first
      | with_reducible assumption
      | with_reducible exact Still.refl _
      | with_reducible apply Still.ite
      | with_reducible apply serveReq_still
      | with_reducible apply ih
      | exact Fld.turnFree rfl
      | exact balFld_free _
      | decide
      | with_reducible apply stillParts_of
      | intro _
      | with_reducible refine Still.of_eq (by assumption) ?_
      | with_reducible refine Still.of_eq_snd (by assumption) ?_
      | simp only [still_mk]
      | split

theorem State.serveFor_still {r s : State} (h : r.Still s) (k : ℕ) (p : ℕ) (bs : List ℕ) (y4 : ℕ) : r.Still (State.serveFor s k p bs y4) := by
  induction y4 generalizing s k p bs with
  | zero =>
    unfold State.serveFor
    repeat' first
      | with_reducible assumption
      | with_reducible exact Still.refl _
      | with_reducible apply Still.ite
      | with_reducible apply serveReq_still
      | exact Fld.turnFree rfl
      | exact balFld_free _
      | decide
      | with_reducible apply stillParts_of
      | intro _
      | with_reducible refine Still.of_eq (by assumption) ?_
      | with_reducible refine Still.of_eq_snd (by assumption) ?_
      | simp only [still_mk]
      | split
  | succ n0 ih =>
    unfold State.serveFor
    repeat' first
      | with_reducible assumption
      | with_reducible exact Still.refl _
      | with_reducible apply Still.ite
      | with_reducible apply serveReq_still
      | with_reducible apply ih
      | exact Fld.turnFree rfl
      | exact balFld_free _
      | decide
      | with_reducible apply stillParts_of
      | intro _
      | with_reducible refine Still.of_eq (by assumption) ?_
      | with_reducible refine Still.of_eq_snd (by assumption) ?_
      | simp only [still_mk]
      | split

theorem State.serveBanks_still {r s : State} (h : r.Still s) (k : ℕ) (p : ℕ) : r.Still (State.serveBanks s k p) := by
  unfold State.serveBanks
  repeat' first
    | with_reducible assumption
    | with_reducible exact Still.refl _
    | with_reducible apply Still.ite
    | with_reducible apply serveFor_still
    | rw [List.foldl_cons]
    | rw [List.foldl_nil]
    | exact Fld.turnFree rfl
    | exact balFld_free _
    | decide
    | with_reducible refine Still.foldl ?_ (fun u x => ?_)
    | with_reducible refine Still.foldl_fst ?_ (fun u x => ?_)
    | with_reducible apply stillParts_of
    | intro _
    | with_reducible refine Still.of_eq (by assumption) ?_
    | with_reducible refine Still.of_eq_snd (by assumption) ?_
    | simp only [still_mk]
    | split

theorem State.serveQueues_still {r s : State} (h : r.Still s) : r.Still (State.serveQueues s) := by
  unfold State.serveQueues
  repeat' first
    | with_reducible assumption
    | with_reducible exact Still.refl _
    | with_reducible apply Still.ite
    | with_reducible apply serveAll_still
    | rw [List.foldl_cons]
    | rw [List.foldl_nil]
    | exact Fld.turnFree rfl
    | exact balFld_free _
    | decide
    | with_reducible refine Still.foldl ?_ (fun u x => ?_)
    | with_reducible refine Still.foldl_fst ?_ (fun u x => ?_)
    | with_reducible apply stillParts_of
    | intro _
    | with_reducible refine Still.of_eq (by assumption) ?_
    | with_reducible refine Still.of_eq_snd (by assumption) ?_
    | simp only [still_mk]
    | split

theorem State.setStrip_still {r s : State} (h : r.Still s) (k : ℕ) (st : Strip) : r.Still (State.setStrip s k st) := by
  unfold State.setStrip
  repeat' first
    | with_reducible assumption
    | with_reducible exact Still.refl _
    | with_reducible apply Still.ite
    | exact Fld.turnFree rfl
    | exact balFld_free _
    | decide
    | with_reducible apply stillParts_of
    | intro _
    | with_reducible refine Still.of_eq (by assumption) ?_
    | with_reducible refine Still.of_eq_snd (by assumption) ?_
    | simp only [still_mk]
    | split

theorem State.syncBlanks_still {r s : State} (h : r.Still s) (q : ℕ) : r.Still (State.syncBlanks s q) := by
  unfold State.syncBlanks
  repeat' first
    | with_reducible assumption
    | with_reducible exact Still.refl _
    | with_reducible apply Still.ite
    | with_reducible apply wr_still
    | exact Fld.turnFree rfl
    | exact balFld_free _
    | decide
    | with_reducible apply stillParts_of
    | intro _
    | with_reducible refine Still.of_eq (by assumption) ?_
    | with_reducible refine Still.of_eq_snd (by assumption) ?_
    | simp only [still_mk]
    | split

theorem State.placeBlank_still {r s : State} (h : r.Still s) (o : Op) (top : ℕ) (left : ℕ) (c : ℕ) : r.Still (State.placeBlank s o top left c) := by
  unfold State.placeBlank
  repeat' first
    | with_reducible assumption
    | with_reducible exact Still.refl _
    | with_reducible apply Still.ite
    | with_reducible apply setOp_still
    | with_reducible apply syncBlanks_still
    | with_reducible apply startAlloc_still
    | exact Fld.turnFree rfl
    | exact balFld_free _
    | decide
    | with_reducible apply stillParts_of
    | intro _
    | with_reducible refine Still.of_eq (by assumption) ?_
    | with_reducible refine Still.of_eq_snd (by assumption) ?_
    | simp only [still_mk]
    | split

theorem State.scanTo_still {r s : State} (h : r.Still s) (q : ℕ) (c : ℕ) (y3 : ℕ) : r.Still (State.scanTo s q c y3) := by
  induction y3 generalizing s q c with
  | zero =>
    unfold State.scanTo
    repeat' first
      | with_reducible assumption
      | with_reducible exact Still.refl _
      | with_reducible apply Still.ite
      | with_reducible apply placeBlank_still
      | with_reducible apply setH_still
      | exact Fld.turnFree rfl
      | exact balFld_free _
      | decide
      | with_reducible apply stillParts_of
      | intro _
      | with_reducible refine Still.of_eq (by assumption) ?_
      | with_reducible refine Still.of_eq_snd (by assumption) ?_
      | simp only [still_mk]
      | split
  | succ n0 ih =>
    unfold State.scanTo
    repeat' first
      | with_reducible assumption
      | with_reducible exact Still.refl _
      | with_reducible apply Still.ite
      | with_reducible apply placeBlank_still
      | with_reducible apply setH_still
      | with_reducible apply ih
      | exact Fld.turnFree rfl
      | exact balFld_free _
      | decide
      | with_reducible apply stillParts_of
      | intro _
      | with_reducible refine Still.of_eq (by assumption) ?_
      | with_reducible refine Still.of_eq_snd (by assumption) ?_
      | simp only [still_mk]
      | split

theorem State.writeRecord_still {r s : State} (h : r.Still s) (o : Op) : r.Still (State.writeRecord s o).1 := by
  unfold State.writeRecord
  repeat' first
    | with_reducible assumption
    | with_reducible exact Still.refl _
    | with_reducible apply Still.ite
    | with_reducible apply Still.ite_fst
    | with_reducible apply vwrite_still
    | with_reducible apply setOp_still
    | with_reducible apply mark_still
    | exact Fld.turnFree rfl
    | exact balFld_free _
    | decide
    | with_reducible apply stillParts_of
    | intro _
    | with_reducible refine Still.of_eq (by assumption) ?_
    | with_reducible refine Still.of_eq_snd (by assumption) ?_
    | simp only [still_mk]
    | split

theorem State.clearRecord_still {r s : State} (h : r.Still s) (o : Op) : r.Still (State.clearRecord s o) := by
  unfold State.clearRecord
  repeat' first
    | with_reducible assumption
    | with_reducible exact Still.refl _
    | with_reducible apply Still.ite
    | with_reducible apply Still.ite_fst
    | with_reducible apply vread_still
    | with_reducible apply vwrite_still
    | exact Fld.turnFree rfl
    | exact balFld_free _
    | decide
    | with_reducible apply stillParts_of
    | intro _
    | with_reducible refine Still.of_eq (by assumption) ?_
    | with_reducible refine Still.of_eq_snd (by assumption) ?_
    | simp only [still_mk]
    | split

theorem State.signalBar_still {r s : State} (h : r.Still s) (q : ℕ) (b : ℕ) (status : ℕ) : r.Still (State.signalBar s q b status) := by
  unfold State.signalBar
  repeat' first
    | with_reducible assumption
    | with_reducible exact Still.refl _
    | with_reducible apply Still.ite
    | with_reducible apply wr_still
    | with_reducible apply mark_still
    | exact Fld.turnFree rfl
    | exact balFld_free _
    | decide
    | with_reducible apply stillParts_of
    | intro _
    | with_reducible refine Still.of_eq (by assumption) ?_
    | with_reducible refine Still.of_eq_snd (by assumption) ?_
    | simp only [still_mk]
    | split

theorem State.pageVector_still {r s : State} (h : r.Still s) (page : ℕ) : r.Still (State.pageVector s page) := by
  unfold State.pageVector
  repeat' first
    | with_reducible assumption
    | with_reducible exact Still.refl _
    | with_reducible apply Still.ite
    | with_reducible apply raiseVf_still
    | with_reducible apply sendMsix_still
    | exact Fld.turnFree rfl
    | exact balFld_free _
    | decide
    | with_reducible apply stillParts_of
    | intro _
    | with_reducible refine Still.of_eq (by assumption) ?_
    | with_reducible refine Still.of_eq_snd (by assumption) ?_
    | simp only [still_mk]
    | split

theorem State.ringFault_still {r s : State} (h : r.Still s) (page : ℕ) : r.Still (State.ringFault s page) := by
  unfold State.ringFault
  repeat' first
    | with_reducible assumption
    | with_reducible exact Still.refl _
    | with_reducible apply Still.ite
    | with_reducible apply wr_still
    | with_reducible apply mark_still
    | with_reducible apply raiseVf_still
    | with_reducible apply raisePf_still
    | exact Fld.turnFree rfl
    | exact balFld_free _
    | decide
    | with_reducible apply stillParts_of
    | intro _
    | with_reducible refine Still.of_eq (by assumption) ?_
    | with_reducible refine Still.of_eq_snd (by assumption) ?_
    | simp only [still_mk]
    | split

theorem State.ringRead_still {r s : State} (h : r.Still s) (page : ℕ) (loc : ℕ) (a : ℕ) (n : ℕ) : r.Still (State.ringRead s page loc a n).1 := by
  unfold State.ringRead
  repeat' first
    | with_reducible assumption
    | with_reducible exact Still.refl _
    | with_reducible apply Still.ite
    | with_reducible apply Still.ite_fst
    | with_reducible apply vread_still
    | exact Fld.turnFree rfl
    | exact balFld_free _
    | decide
    | with_reducible apply stillParts_of
    | intro _
    | with_reducible refine Still.of_eq (by assumption) ?_
    | with_reducible refine Still.of_eq_snd (by assumption) ?_
    | simp only [still_mk]
    | split

theorem State.ringWrite_still {r s : State} (h : r.Still s) (page : ℕ) (loc : ℕ) (a : ℕ) (d : List Byte) : r.Still (State.ringWrite s page loc a d).1
    := by
  unfold State.ringWrite
  repeat' first
    | with_reducible assumption
    | with_reducible exact Still.refl _
    | with_reducible apply Still.ite
    | with_reducible apply Still.ite_fst
    | with_reducible apply setBytes_still
    | with_reducible apply vwrite_still
    | exact Fld.turnFree rfl
    | exact balFld_free _
    | decide
    | with_reducible apply stillParts_of
    | intro _
    | with_reducible refine Still.of_eq (by assumption) ?_
    | with_reducible refine Still.of_eq_snd (by assumption) ?_
    | simp only [still_mk]
    | split

theorem State.postNow_still {r s : State} (h : r.Still s) (page : ℕ) (c : Cpl) : r.Still (State.postNow s page c).1 := by
  unfold State.postNow
  repeat' first
    | with_reducible assumption
    | with_reducible exact Still.refl _
    | with_reducible apply Still.ite
    | with_reducible apply Still.ite_fst
    | with_reducible apply ringWrite_still
    | with_reducible apply pageVector_still
    | with_reducible apply wr_still
    | with_reducible apply ringFault_still
    | exact Fld.turnFree rfl
    | exact balFld_free _
    | decide
    | with_reducible apply stillParts_of
    | intro _
    | with_reducible refine Still.of_eq (by assumption) ?_
    | with_reducible refine Still.of_eq_snd (by assumption) ?_
    | simp only [still_mk]
    | split

theorem State.endCqWait_still {r s : State} (h : r.Still s) (page : ℕ) : r.Still (State.endCqWait s page) := by
  unfold State.endCqWait
  repeat' first
    | with_reducible assumption
    | with_reducible exact Still.refl _
    | with_reducible apply Still.ite
    | with_reducible apply setH_still
    | with_reducible apply ev_still
    | exact Fld.turnFree rfl
    | exact balFld_free _
    | decide
    | with_reducible apply stillParts_of
    | intro _
    | with_reducible refine Still.of_eq (by assumption) ?_
    | with_reducible refine Still.of_eq_snd (by assumption) ?_
    | simp only [still_mk]
    | split

theorem State.drainCq_still {r s : State} (h : r.Still s) (page : ℕ) (y2 : ℕ) : r.Still (State.drainCq s page y2) := by
  induction y2 generalizing s page with
  | zero =>
    unfold State.drainCq
    repeat' first
      | with_reducible assumption
      | with_reducible exact Still.refl _
      | with_reducible apply Still.ite
      | with_reducible apply Still.ite_fst
      | with_reducible apply setH_still
      | with_reducible apply postNow_still
      | with_reducible apply endCqWait_still
      | exact Fld.turnFree rfl
      | exact balFld_free _
      | decide
      | with_reducible apply stillParts_of
      | intro _
      | with_reducible refine Still.of_eq (by assumption) ?_
      | with_reducible refine Still.of_eq_snd (by assumption) ?_
      | simp only [still_mk]
      | split
  | succ n0 ih =>
    unfold State.drainCq
    repeat' first
      | with_reducible assumption
      | with_reducible exact Still.refl _
      | with_reducible apply Still.ite
      | with_reducible apply Still.ite_fst
      | with_reducible apply setH_still
      | with_reducible apply postNow_still
      | with_reducible apply endCqWait_still
      | with_reducible apply ih
      | exact Fld.turnFree rfl
      | exact balFld_free _
      | decide
      | with_reducible apply stillParts_of
      | intro _
      | with_reducible refine Still.of_eq (by assumption) ?_
      | with_reducible refine Still.of_eq_snd (by assumption) ?_
      | simp only [still_mk]
      | split

theorem State.complete_still {r s : State} (h : r.Still s) (page : ℕ) (c : Cpl) : r.Still (State.complete s page c) := by
  unfold State.complete
  repeat' first
    | with_reducible assumption
    | with_reducible exact Still.refl _
    | with_reducible apply Still.ite
    | with_reducible apply wr_still
    | with_reducible apply setH_still
    | with_reducible apply raiseVf_still
    | with_reducible apply sendMsix_still
    | with_reducible apply drainCq_still
    | exact Fld.turnFree rfl
    | exact balFld_free _
    | decide
    | with_reducible apply stillParts_of
    | intro _
    | with_reducible refine Still.of_eq (by assumption) ?_
    | with_reducible refine Still.of_eq_snd (by assumption) ?_
    | simp only [still_mk]
    | split

theorem State.releaseClaims_still {r s : State} (h : r.Still s) (q : ℕ) (b : ℕ) (y3 : ℕ) : r.Still (State.releaseClaims s q b y3) := by
  induction y3 generalizing s q b with
  | zero =>
    unfold State.releaseClaims
    repeat' first
      | with_reducible assumption
      | with_reducible exact Still.refl _
      | with_reducible apply Still.ite
      | with_reducible apply wr_still
      | exact Fld.turnFree rfl
      | exact balFld_free _
      | decide
      | with_reducible apply stillParts_of
      | intro _
      | with_reducible refine Still.of_eq (by assumption) ?_
      | with_reducible refine Still.of_eq_snd (by assumption) ?_
      | simp only [still_mk]
      | split
  | succ n0 ih =>
    unfold State.releaseClaims
    repeat' first
      | with_reducible assumption
      | with_reducible exact Still.refl _
      | with_reducible apply Still.ite
      | with_reducible apply wr_still
      | with_reducible apply ih
      | exact Fld.turnFree rfl
      | exact balFld_free _
      | decide
      | with_reducible apply stillParts_of
      | intro _
      | with_reducible refine Still.of_eq (by assumption) ?_
      | with_reducible refine Still.of_eq_snd (by assumption) ?_
      | simp only [still_mk]
      | split

theorem State.endClaim_still {r s : State} (h : r.Still s) (o : Op) : r.Still (State.endClaim s o) := by
  unfold State.endClaim
  repeat' first
    | with_reducible assumption
    | with_reducible exact Still.refl _
    | with_reducible apply Still.ite
    | with_reducible apply releaseClaims_still
    | exact Fld.turnFree rfl
    | exact balFld_free _
    | decide
    | with_reducible apply stillParts_of
    | intro _
    | with_reducible refine Still.of_eq (by assumption) ?_
    | with_reducible refine Still.of_eq_snd (by assumption) ?_
    | simp only [still_mk]
    | split

theorem State.releaseBlank_still {r s : State} (h : r.Still s) (id : ℕ) : r.Still (State.releaseBlank s id) := by
  unfold State.releaseBlank
  repeat' first
    | with_reducible assumption
    | with_reducible exact Still.refl _
    | with_reducible apply Still.ite
    | with_reducible apply scanTo_still
    | with_reducible apply setH_still
    | with_reducible apply ev_still
    | with_reducible apply setOp_still
    | exact Fld.turnFree rfl
    | exact balFld_free _
    | decide
    | with_reducible apply stillParts_of
    | intro _
    | with_reducible refine Still.of_eq (by assumption) ?_
    | with_reducible refine Still.of_eq_snd (by assumption) ?_
    | simp only [still_mk]
    | split

theorem State.endOp_still {r s : State} (h : r.Still s) (id : ℕ) (status : ℕ) (y3 : ℕ) : r.Still (State.endOp s id status y3) := by
  induction y3 generalizing s id status with
  | zero =>
    unfold State.endOp
    repeat' first
      | with_reducible assumption
      | with_reducible exact Still.refl _
      | with_reducible apply Still.ite
      | with_reducible apply releaseBlank_still
      | with_reducible apply endClaim_still
      | with_reducible apply clearRecord_still
      | with_reducible apply signalBar_still
      | with_reducible apply dropOp_still
      | with_reducible apply setOp_still
      | with_reducible apply complete_still
      | exact Fld.turnFree rfl
      | exact balFld_free _
      | decide
      | with_reducible apply stillParts_of
      | intro _
      | with_reducible refine Still.of_eq (by assumption) ?_
      | with_reducible refine Still.of_eq_snd (by assumption) ?_
      | simp only [still_mk]
      | split
  | succ n0 ih =>
    unfold State.endOp
    repeat' first
      | with_reducible assumption
      | with_reducible exact Still.refl _
      | with_reducible apply Still.ite
      | with_reducible apply releaseBlank_still
      | with_reducible apply endClaim_still
      | with_reducible apply clearRecord_still
      | with_reducible apply signalBar_still
      | with_reducible apply dropOp_still
      | with_reducible apply setOp_still
      | with_reducible apply complete_still
      | with_reducible apply ih
      | exact Fld.turnFree rfl
      | exact balFld_free _
      | decide
      | with_reducible apply stillParts_of
      | intro _
      | with_reducible refine Still.of_eq (by assumption) ?_
      | with_reducible refine Still.of_eq_snd (by assumption) ?_
      | simp only [still_mk]
      | split

theorem State.finish_still {r s : State} (h : r.Still s) (id : ℕ) (status : ℕ) : r.Still (State.finish s id status) := by
  unfold State.finish
  repeat' first
    | with_reducible assumption
    | with_reducible exact Still.refl _
    | with_reducible apply Still.ite
    | with_reducible apply endOp_still
    | exact Fld.turnFree rfl
    | exact balFld_free _
    | decide
    | with_reducible apply stillParts_of
    | intro _
    | with_reducible refine Still.of_eq (by assumption) ?_
    | with_reducible refine Still.of_eq_snd (by assumption) ?_
    | simp only [still_mk]
    | split

theorem State.finishWith_still {r s : State} (h : r.Still s) (id : ℕ) (status : ℕ) : r.Still (State.finishWith s id status) := by
  unfold State.finishWith
  repeat' first
    | with_reducible assumption
    | with_reducible exact Still.refl _
    | with_reducible apply Still.ite
    | with_reducible apply finish_still
    | exact Fld.turnFree rfl
    | exact balFld_free _
    | decide
    | with_reducible apply stillParts_of
    | intro _
    | with_reducible refine Still.of_eq (by assumption) ?_
    | with_reducible refine Still.of_eq_snd (by assumption) ?_
    | simp only [still_mk]
    | split

theorem State.parkOp_still {r s : State} (h : r.Still s) (id : ℕ) (spilled : Bool) (overrun : Bool) (noProgress : ℕ) : r.Still (State.parkOp s id
    spilled overrun noProgress) := by
  unfold State.parkOp
  repeat' first
    | with_reducible assumption
    | with_reducible exact Still.refl _
    | with_reducible apply Still.ite
    | with_reducible apply Still.ite_fst
    | with_reducible apply writeRecord_still
    | with_reducible apply setOp_still
    | with_reducible apply leaveAlloc_still
    | with_reducible apply releaseBlank_still
    | with_reducible apply finish_still
    | exact Fld.turnFree rfl
    | exact balFld_free _
    | decide
    | with_reducible apply stillParts_of
    | intro _
    | with_reducible refine Still.of_eq (by assumption) ?_
    | with_reducible refine Still.of_eq_snd (by assumption) ?_
    | simp only [still_mk]
    | split

theorem State.lateDone_still {r s : State} (h : r.Still s) (u : Until) (status : ℕ) : r.Still (State.lateDone s u status) := by
  unfold State.lateDone
  repeat' first
    | with_reducible assumption
    | with_reducible exact Still.refl _
    | with_reducible apply Still.ite
    | with_reducible apply complete_still
    | rw [List.foldl_cons]
    | rw [List.foldl_nil]
    | exact Fld.turnFree rfl
    | exact balFld_free _
    | decide
    | with_reducible refine Still.foldl ?_ (fun u x => ?_)
    | with_reducible refine Still.foldl_fst ?_ (fun u x => ?_)
    | with_reducible apply stillParts_of
    | intro _
    | with_reducible refine Still.of_eq (by assumption) ?_
    | with_reducible refine Still.of_eq_snd (by assumption) ?_
    | simp only [still_mk]
    | split

theorem State.refuse_still {r s : State} (h : r.Still s) (a : Agent) (off : ℕ) : r.Still (State.refuse s a off) := by
  unfold State.refuse
  repeat' first
    | with_reducible assumption
    | with_reducible exact Still.refl _
    | with_reducible apply Still.ite
    | with_reducible apply fnErr_still
    | exact Fld.turnFree rfl
    | exact balFld_free _
    | decide
    | with_reducible apply stillParts_of
    | intro _
    | with_reducible refine Still.of_eq (by assumption) ?_
    | with_reducible refine Still.of_eq_snd (by assumption) ?_
    | simp only [still_mk]
    | split

theorem State.applyFence_still {r s : State} (h : r.Still s) (x : ℕ) (y : ℕ) : r.Still (State.applyFence s x y) := by
  unfold State.applyFence
  repeat' first
    | with_reducible assumption
    | with_reducible exact Still.refl _
    | with_reducible apply Still.ite
    | with_reducible apply setStrip_still
    | exact Fld.turnFree rfl
    | exact balFld_free _
    | decide
    | with_reducible apply stillParts_of
    | intro _
    | with_reducible refine Still.of_eq (by assumption) ?_
    | with_reducible refine Still.of_eq_snd (by assumption) ?_
    | simp only [still_mk]
    | split

theorem State.applyUnfence_still {r s : State} (h : r.Still s) (x : ℕ) (y : ℕ) : r.Still (State.applyUnfence s x y) := by
  unfold State.applyUnfence
  repeat' first
    | with_reducible assumption
    | with_reducible exact Still.refl _
    | with_reducible apply Still.ite
    | with_reducible apply setStrip_still
    | exact Fld.turnFree rfl
    | exact balFld_free _
    | decide
    | with_reducible apply stillParts_of
    | intro _
    | with_reducible refine Still.of_eq (by assumption) ?_
    | with_reducible refine Still.of_eq_snd (by assumption) ?_
    | simp only [still_mk]
    | split

theorem State.syncStrip_still {r s : State} (h : r.Still s) (old : State) (k : ℕ) : r.Still (State.syncStrip old s k) := by
  unfold State.syncStrip
  repeat' first
    | with_reducible assumption
    | with_reducible exact Still.refl _
    | with_reducible apply Still.ite
    | with_reducible apply wr_still
    | with_reducible apply mark_still
    | exact Fld.turnFree rfl
    | exact balFld_free _
    | decide
    | with_reducible apply stillParts_of
    | intro _
    | with_reducible refine Still.of_eq (by assumption) ?_
    | with_reducible refine Still.of_eq_snd (by assumption) ?_
    | simp only [still_mk]
    | split

theorem State.startClearing_still {r s : State} (h : r.Still s) (k : ℕ) : r.Still (State.startClearing s k) := by
  unfold State.startClearing
  repeat' first
    | with_reducible assumption
    | with_reducible exact Still.refl _
    | with_reducible apply Still.ite
    | with_reducible apply wr_still
    | exact Fld.turnFree rfl
    | exact balFld_free _
    | decide
    | with_reducible apply stillParts_of
    | intro _
    | with_reducible refine Still.of_eq (by assumption) ?_
    | with_reducible refine Still.of_eq_snd (by assumption) ?_
    | simp only [still_mk]
    | split

theorem State.syncPending_still {r s : State} (h : r.Still s) (q : ℕ) : r.Still (State.syncPending s q) := by
  unfold State.syncPending
  repeat' first
    | with_reducible assumption
    | with_reducible exact Still.refl _
    | with_reducible apply Still.ite
    | with_reducible apply wr_still
    | exact Fld.turnFree rfl
    | exact balFld_free _
    | decide
    | with_reducible apply stillParts_of
    | intro _
    | with_reducible refine Still.of_eq (by assumption) ?_
    | with_reducible refine Still.of_eq_snd (by assumption) ?_
    | simp only [still_mk]
    | split

theorem State.trimQuarter_still {r s : State} (h : r.Still s) (q : ℕ) : r.Still (State.trimQuarter s q) := by
  unfold State.trimQuarter
  repeat' first
    | with_reducible assumption
    | with_reducible exact Still.refl _
    | with_reducible apply Still.ite
    | with_reducible apply startClearing_still
    | with_reducible apply mark_still
    | with_reducible apply wr_still
    | with_reducible apply syncPending_still
    | rw [List.foldl_cons]
    | rw [List.foldl_nil]
    | exact Fld.turnFree rfl
    | exact balFld_free _
    | decide
    | with_reducible refine Still.foldl ?_ (fun u x => ?_)
    | with_reducible refine Still.foldl_fst ?_ (fun u x => ?_)
    | with_reducible apply stillParts_of
    | intro _
    | with_reducible refine Still.of_eq (by assumption) ?_
    | with_reducible refine Still.of_eq_snd (by assumption) ?_
    | simp only [still_mk]
    | split

theorem State.applyFences_still {r s : State} (h : r.Still s) : r.Still (State.applyFences s) := by
  unfold State.applyFences
  repeat' first
    | with_reducible assumption
    | with_reducible exact Still.refl _
    | with_reducible apply Still.ite
    | with_reducible apply applyUnfence_still
    | with_reducible apply applyFence_still
    | with_reducible apply wr_still
    | with_reducible apply syncStrip_still
    | with_reducible apply mark_still
    | with_reducible apply trimQuarter_still
    | rw [List.foldl_cons]
    | rw [List.foldl_nil]
    | exact Fld.turnFree rfl
    | exact balFld_free _
    | decide
    | with_reducible refine Still.foldl ?_ (fun u x => ?_)
    | with_reducible refine Still.foldl_fst ?_ (fun u x => ?_)
    | with_reducible apply stillParts_of
    | intro _
    | with_reducible refine Still.of_eq (by assumption) ?_
    | with_reducible refine Still.of_eq_snd (by assumption) ?_
    | simp only [still_mk]
    | split

theorem State.loseScratch_still {r s : State} (h : r.Still s) (q : ℕ) : r.Still (State.loseScratch s q) := by
  unfold State.loseScratch
  repeat' first
    | with_reducible assumption
    | with_reducible exact Still.refl _
    | with_reducible apply Still.ite
    | with_reducible apply addH_still
    | exact Fld.turnFree rfl
    | exact balFld_free _
    | decide
    | with_reducible apply stillParts_of
    | intro _
    | with_reducible refine Still.of_eq (by assumption) ?_
    | with_reducible refine Still.of_eq_snd (by assumption) ?_
    | simp only [still_mk]
    | split

theorem State.zeroScratch_still {r s : State} (h : r.Still s) (q : ℕ) : r.Still (State.zeroScratch s q) := by
  unfold State.zeroScratch
  repeat' first
    | with_reducible assumption
    | with_reducible exact Still.refl _
    | with_reducible apply Still.ite
    | with_reducible apply setH_still
    | with_reducible apply wipe_still
    | exact Fld.turnFree rfl
    | exact balFld_free _
    | decide
    | with_reducible apply stillParts_of
    | intro _
    | with_reducible refine Still.of_eq (by assumption) ?_
    | with_reducible refine Still.of_eq_snd (by assumption) ?_
    | simp only [still_mk]
    | split

theorem State.settleSize_still {r s : State} (h : r.Still s) (q : ℕ) (oldP : ℕ) (oldWays : ℕ) : r.Still (State.settleSize s q oldP oldWays) := by
  unfold State.settleSize
  repeat' first
    | with_reducible assumption
    | with_reducible exact Still.refl _
    | with_reducible apply Still.ite
    | with_reducible apply flushLines_still
    | with_reducible apply zeroScratch_still
    | with_reducible apply loseScratch_still
    | with_reducible apply setH_still
    | with_reducible apply mark_still
    | exact Fld.turnFree rfl
    | exact balFld_free _
    | decide
    | with_reducible apply stillParts_of
    | intro _
    | with_reducible refine Still.of_eq (by assumption) ?_
    | with_reducible refine Still.of_eq_snd (by assumption) ?_
    | simp only [still_mk]
    | split

theorem State.refence_still {r s : State} (h : r.Still s) : r.Still (State.refence s) := by
  unfold State.refence
  repeat' first
    | with_reducible assumption
    | with_reducible exact Still.refl _
    | with_reducible apply Still.ite
    | with_reducible apply applyFences_still
    | with_reducible apply settleSize_still
    | rw [List.foldl_cons]
    | rw [List.foldl_nil]
    | exact Fld.turnFree rfl
    | exact balFld_free _
    | decide
    | with_reducible refine Still.foldl ?_ (fun u x => ?_)
    | with_reducible refine Still.foldl_fst ?_ (fun u x => ?_)
    | with_reducible apply stillParts_of
    | intro _
    | with_reducible refine Still.of_eq (by assumption) ?_
    | with_reducible refine Still.of_eq_snd (by assumption) ?_
    | simp only [still_mk]
    | split

theorem State.sizeRefused_still {r s : State} (h : r.Still s) (q : ℕ) : r.Still (State.sizeRefused s q) := by
  unfold State.sizeRefused
  repeat' first
    | with_reducible assumption
    | with_reducible exact Still.refl _
    | with_reducible apply Still.ite
    | with_reducible apply fnErr_still
    | with_reducible apply mark_still
    | exact Fld.turnFree rfl
    | exact balFld_free _
    | decide
    | with_reducible apply stillParts_of
    | intro _
    | with_reducible refine Still.of_eq (by assumption) ?_
    | with_reducible refine Still.of_eq_snd (by assumption) ?_
    | simp only [still_mk]
    | split

theorem State.applyAssign_still {r s : State} (h : r.Still s) (q : ℕ) : r.Still (State.applyAssign s q) := by
  unfold State.applyAssign
  repeat' first
    | with_reducible assumption
    | with_reducible exact Still.refl _
    | with_reducible apply Still.ite
    | with_reducible apply sizeRefused_still
    | with_reducible apply wr_still
    | with_reducible apply startClearing_still
    | with_reducible apply syncPending_still
    | rw [List.foldl_cons]
    | rw [List.foldl_nil]
    | exact Fld.turnFree rfl
    | exact balFld_free _
    | decide
    | with_reducible refine Still.foldl ?_ (fun u x => ?_)
    | with_reducible refine Still.foldl_fst ?_ (fun u x => ?_)
    | with_reducible apply stillParts_of
    | intro _
    | with_reducible refine Still.of_eq (by assumption) ?_
    | with_reducible refine Still.of_eq_snd (by assumption) ?_
    | simp only [still_mk]
    | split

theorem State.suspect_still {r s : State} (h : r.Still s) (x : ℕ) (y : ℕ) : r.Still (State.suspect s x y).1 := by
  unfold State.suspect
  repeat' first
    | with_reducible assumption
    | with_reducible exact Still.refl _
    | with_reducible apply Still.ite
    | with_reducible apply Still.ite_fst
    | with_reducible apply scanTo_still
    | with_reducible apply wr_still
    | exact Fld.turnFree rfl
    | exact balFld_free _
    | decide
    | with_reducible apply stillParts_of
    | intro _
    | with_reducible refine Still.of_eq (by assumption) ?_
    | with_reducible refine Still.of_eq_snd (by assumption) ?_
    | simp only [still_mk]
    | split

theorem State.fenceReq_still {r s : State} (h : r.Still s) (x : ℕ) (y : ℕ) (action : ℕ) (fromMc : Bool) : r.Still (State.fenceReq s x y action fromMc)
    := by
  unfold State.fenceReq
  repeat' first
    | with_reducible assumption
    | with_reducible exact Still.refl _
    | with_reducible apply Still.ite
    | with_reducible apply Still.ite_fst
    | with_reducible apply mark_still
    | with_reducible apply wr_still
    | with_reducible apply suspect_still
    | exact Fld.turnFree rfl
    | exact balFld_free _
    | decide
    | with_reducible apply stillParts_of
    | intro _
    | with_reducible refine Still.of_eq (by assumption) ?_
    | with_reducible refine Still.of_eq_snd (by assumption) ?_
    | simp only [still_mk]
    | split

theorem State.allocate_still {r s : State} (h : r.Still s) (q : ℕ) (y2 : ℕ) : r.Still (State.allocate s q y2) := by
  induction y2 generalizing s q with
  | zero =>
    unfold State.allocate
    repeat' first
      | with_reducible assumption
      | with_reducible exact Still.refl _
      | with_reducible apply Still.ite
      | with_reducible apply scanTo_still
      | with_reducible apply syncBlanks_still
      | with_reducible apply startAlloc_still
      | with_reducible apply finish_still
      | exact Fld.turnFree rfl
      | exact balFld_free _
      | decide
      | with_reducible apply stillParts_of
      | intro _
      | with_reducible refine Still.of_eq (by assumption) ?_
      | with_reducible refine Still.of_eq_snd (by assumption) ?_
      | simp only [still_mk]
      | split
  | succ n0 ih =>
    unfold State.allocate
    repeat' first
      | with_reducible assumption
      | with_reducible exact Still.refl _
      | with_reducible apply Still.ite
      | with_reducible apply scanTo_still
      | with_reducible apply syncBlanks_still
      | with_reducible apply startAlloc_still
      | with_reducible apply finish_still
      | with_reducible apply ih
      | exact Fld.turnFree rfl
      | exact balFld_free _
      | decide
      | with_reducible apply stillParts_of
      | intro _
      | with_reducible refine Still.of_eq (by assumption) ?_
      | with_reducible refine Still.of_eq_snd (by assumption) ?_
      | simp only [still_mk]
      | split

theorem State.retryAlloc_still {r s : State} (h : r.Still s) (q : ℕ) : r.Still (State.retryAlloc s q) := by
  unfold State.retryAlloc
  repeat' first
    | with_reducible assumption
    | with_reducible exact Still.refl _
    | with_reducible apply Still.ite
    | with_reducible apply startAlloc_still
    | with_reducible apply ev_still
    | exact Fld.turnFree rfl
    | exact balFld_free _
    | decide
    | with_reducible apply stillParts_of
    | intro _
    | with_reducible refine Still.of_eq (by assumption) ?_
    | with_reducible refine Still.of_eq_snd (by assumption) ?_
    | simp only [still_mk]
    | split

theorem execStripCleared_still (k : ℕ) {s : State} : s.StillNext (execStripCleared k s) := by
  unfold execStripCleared
  repeat' first
    | with_reducible assumption
    | with_reducible exact Still.refl _
    | with_reducible apply StillNext.next
    | with_reducible apply StillNext.ite
    | with_reducible apply Still.ite
    | with_reducible apply wr_still
    | with_reducible apply flushLines_still
    | exact Fld.turnFree rfl
    | exact balFld_free _
    | decide
    | with_reducible apply stillParts_of
    | intro _
    | with_reducible refine Still.of_eq (by assumption) ?_
    | with_reducible refine Still.of_eq_snd (by assumption) ?_
    | simp only [still_mk]
    | split

theorem execRehomeScanComplete_still (q : ℕ) {s : State} : s.StillNext (execRehomeScanComplete q s) := by
  unfold execRehomeScanComplete
  repeat' first
    | with_reducible assumption
    | with_reducible exact Still.refl _
    | with_reducible apply StillNext.next
    | with_reducible apply StillNext.ite
    | with_reducible apply Still.ite
    | with_reducible apply wr_still
    | with_reducible apply flushLines_still
    | exact Fld.turnFree rfl
    | exact balFld_free _
    | decide
    | with_reducible apply stillParts_of
    | intro _
    | with_reducible refine Still.of_eq (by assumption) ?_
    | with_reducible refine Still.of_eq_snd (by assumption) ?_
    | simp only [still_mk]
    | split

theorem State.readCodes_still {r s : State} (h : r.Still s) (c : Client) (rowVA : ℕ) (w : ℕ) (i0 : ℕ) (n : ℕ) : r.Still (State.readCodes s c rowVA w
    i0 n).1 := by
  unfold State.readCodes
  repeat' first
    | with_reducible assumption
    | with_reducible exact Still.refl _
    | with_reducible apply Still.ite
    | with_reducible apply Still.ite_fst
    | with_reducible apply vread_still
    | exact Fld.turnFree rfl
    | exact balFld_free _
    | decide
    | with_reducible apply stillParts_of
    | intro _
    | with_reducible refine Still.of_eq (by assumption) ?_
    | with_reducible refine Still.of_eq_snd (by assumption) ?_
    | simp only [still_mk]
    | split

theorem State.readElems_still {r s : State} (h : r.Still s) (c : Client) (fmt : ℕ) (rowVA : ℕ) (i0 : ℕ) (n : ℕ) (scale : ℕ → ℕ) : r.Still
    (State.readElems s c fmt rowVA i0 n scale).1 := by
  unfold State.readElems
  repeat' first
    | with_reducible assumption
    | with_reducible exact Still.refl _
    | with_reducible apply Still.ite
    | with_reducible apply Still.ite_fst
    | with_reducible apply readCodes_still
    | rw [List.foldl_cons]
    | rw [List.foldl_nil]
    | exact Fld.turnFree rfl
    | exact balFld_free _
    | decide
    | with_reducible refine Still.foldl ?_ (fun u x => ?_)
    | with_reducible refine Still.foldl_fst ?_ (fun u x => ?_)
    | with_reducible apply stillParts_of
    | intro _
    | with_reducible refine Still.of_eq (by assumption) ?_
    | with_reducible refine Still.of_eq_snd (by assumption) ?_
    | simp only [still_mk]
    | split

theorem State.readA_still {r s : State} (h : r.Still s) (c : Client) (d : ℕ) (t : ℕ) (k0 : ℕ) (n : ℕ) : r.Still (State.readA s c d t k0 n).1 := by
  unfold State.readA
  repeat' first
    | with_reducible assumption
    | with_reducible exact Still.refl _
    | with_reducible apply Still.ite
    | with_reducible apply Still.ite_fst
    | with_reducible apply readElems_still
    | with_reducible apply vread_still
    | exact Fld.turnFree rfl
    | exact balFld_free _
    | decide
    | with_reducible apply stillParts_of
    | intro _
    | with_reducible refine Still.of_eq (by assumption) ?_
    | with_reducible refine Still.of_eq_snd (by assumption) ?_
    | simp only [still_mk]
    | split

theorem State.collect_still {r s : State} (h : r.Still s) (f : State → ℕ → State × Except ℕ Elems) (y2 : List ℕ) (hf : ∀ (u : State) w1, u.Still (f u
    w1).1) : r.Still (State.collect s f y2).1 := by
  induction y2 generalizing s with
  | nil =>
    unfold State.collect
    repeat' first
      | with_reducible assumption
      | with_reducible exact Still.refl _
      | with_reducible apply Still.ite
      | with_reducible apply Still.ite_fst
      | with_reducible refine Still.trans ?_ (hf _ _)
      | exact Fld.turnFree rfl
      | exact balFld_free _
      | decide
      | with_reducible apply stillParts_of
      | intro _
      | with_reducible refine Still.of_eq (by assumption) ?_
      | with_reducible refine Still.of_eq_snd (by assumption) ?_
      | simp only [still_mk]
      | split
  | cons z l ih =>
    unfold State.collect
    repeat' first
      | with_reducible assumption
      | with_reducible exact Still.refl _
      | with_reducible apply Still.ite
      | with_reducible apply Still.ite_fst
      | with_reducible refine Still.trans ?_ (hf _ _)
      | with_reducible apply ih
      | exact Fld.turnFree rfl
      | exact balFld_free _
      | decide
      | with_reducible apply stillParts_of
      | intro _
      | with_reducible refine Still.of_eq (by assumption) ?_
      | with_reducible refine Still.of_eq_snd (by assumption) ?_
      | simp only [still_mk]
      | split

theorem State.readBcol_still {r s : State} (h : r.Still s) (c : Client) (d : ℕ) (n : ℕ) (k0 : ℕ) (m : ℕ) (rep : Option ℕ) : r.Still (State.readBcol s
    c d n k0 m rep).1 := by
  unfold State.readBcol
  repeat' first
    | with_reducible assumption
    | with_reducible exact Still.refl _
    | with_reducible apply Still.ite
    | with_reducible apply Still.ite_fst
    | with_reducible apply vread_still
    | with_reducible apply readElems_still
    | exact Fld.turnFree rfl
    | exact balFld_free _
    | decide
    | with_reducible apply stillParts_of
    | intro _
    | with_reducible refine Still.of_eq (by assumption) ?_
    | with_reducible refine Still.of_eq_snd (by assumption) ?_
    | simp only [still_mk]
    | split

theorem State.readBrow_still {r s : State} (h : r.Still s) (c : Client) (d : ℕ) (k : ℕ) (n0 : ℕ) (m : ℕ) : r.Still (State.readBrow s c d k n0 m).1 :=
    by
  unfold State.readBrow
  repeat' first
    | with_reducible assumption
    | with_reducible exact Still.refl _
    | with_reducible apply Still.ite
    | with_reducible apply Still.ite_fst
    | with_reducible apply readElems_still
    | with_reducible apply collect_still
    | with_reducible apply vread_still
    | exact Fld.turnFree rfl
    | exact balFld_free _
    | decide
    | with_reducible apply stillParts_of
    | intro _
    | with_reducible refine Still.of_eq (by assumption) ?_
    | with_reducible refine Still.of_eq_snd (by assumption) ?_
    | simp only [still_mk]
    | split

theorem State.readB_still {r s : State} (h : r.Still s) (c : Client) (d : ℕ) (nb0 : ℕ) (k0 : ℕ) (rep : Option ℕ) : r.Still (State.readB s c d nb0 k0
    rep).1 := by
  unfold State.readB
  repeat' first
    | with_reducible assumption
    | with_reducible exact Still.refl _
    | with_reducible apply Still.ite
    | with_reducible apply Still.ite_fst
    | with_reducible apply collect_still
    | with_reducible apply readBcol_still
    | with_reducible apply readBrow_still
    | rw [List.foldl_cons]
    | rw [List.foldl_nil]
    | exact Fld.turnFree rfl
    | exact balFld_free _
    | decide
    | with_reducible refine Still.foldl ?_ (fun u x => ?_)
    | with_reducible refine Still.foldl_fst ?_ (fun u x => ?_)
    | with_reducible apply stillParts_of
    | intro _
    | with_reducible refine Still.of_eq (by assumption) ?_
    | with_reducible refine Still.of_eq_snd (by assumption) ?_
    | simp only [still_mk]
    | split

theorem State.mergeFlags_still {r s : State} (h : r.Still s) (q : ℕ) (fl : ℕ) : r.Still (State.mergeFlags s q fl) := by
  unfold State.mergeFlags
  repeat' first
    | with_reducible assumption
    | with_reducible exact Still.refl _
    | with_reducible apply Still.ite
    | with_reducible apply mark_still
    | rw [List.foldl_cons]
    | rw [List.foldl_nil]
    | exact Fld.turnFree rfl
    | exact balFld_free _
    | decide
    | with_reducible refine Still.foldl ?_ (fun u x => ?_)
    | with_reducible refine Still.foldl_fst ?_ (fun u x => ?_)
    | with_reducible apply stillParts_of
    | intro _
    | with_reducible refine Still.of_eq (by assumption) ?_
    | with_reducible refine Still.of_eq_snd (by assumption) ?_
    | simp only [still_mk]
    | split

theorem State.histCount_still {r s : State} (h : r.Still s) (q : ℕ) (slot : ℕ) (e : ℕ × ℕ) : r.Still (State.histCount s q slot e) := by
  unfold State.histCount
  repeat' first
    | with_reducible assumption
    | with_reducible exact Still.refl _
    | with_reducible apply Still.ite
    | with_reducible apply wr_still
    | with_reducible apply mark_still
    | exact Fld.turnFree rfl
    | exact balFld_free _
    | decide
    | with_reducible apply stillParts_of
    | intro _
    | with_reducible refine Still.of_eq (by assumption) ?_
    | with_reducible refine Still.of_eq_snd (by assumption) ?_
    | simp only [still_mk]
    | split

theorem State.histCommit_still {r s : State} (h : r.Still s) (q : ℕ) (slot : ℕ) (hist : List (ℕ × ℕ)) : r.Still (State.histCommit s q slot hist) := by
  unfold State.histCommit
  repeat' first
    | with_reducible assumption
    | with_reducible exact Still.refl _
    | with_reducible apply Still.ite
    | with_reducible apply histCount_still
    | rw [List.foldl_cons]
    | rw [List.foldl_nil]
    | exact Fld.turnFree rfl
    | exact balFld_free _
    | decide
    | with_reducible refine Still.foldl ?_ (fun u x => ?_)
    | with_reducible refine Still.foldl_fst ?_ (fun u x => ?_)
    | with_reducible apply stillParts_of
    | intro _
    | with_reducible refine Still.of_eq (by assumption) ?_
    | with_reducible refine Still.of_eq_snd (by assumption) ?_
    | simp only [still_mk]
    | split

theorem State.histZero_still {r s : State} (h : r.Still s) (q : ℕ) (slot : ℕ) : r.Still (State.histZero s q slot) := by
  unfold State.histZero
  repeat' first
    | with_reducible assumption
    | with_reducible exact Still.refl _
    | with_reducible apply Still.ite
    | with_reducible apply wr_still
    | rw [List.foldl_cons]
    | rw [List.foldl_nil]
    | exact Fld.turnFree rfl
    | exact balFld_free _
    | decide
    | with_reducible refine Still.foldl ?_ (fun u x => ?_)
    | with_reducible refine Still.foldl_fst ?_ (fun u x => ?_)
    | with_reducible apply stillParts_of
    | intro _
    | with_reducible refine Still.of_eq (by assumption) ?_
    | with_reducible refine Still.of_eq_snd (by assumption) ?_
    | simp only [still_mk]
    | split

theorem State.histClear_still {r s : State} (h : r.Still s) (q : ℕ) (slot : ℕ) : r.Still (State.histClear s q slot) := by
  unfold State.histClear
  repeat' first
    | with_reducible assumption
    | with_reducible exact Still.refl _
    | with_reducible apply Still.ite
    | with_reducible apply histZero_still
    | with_reducible apply histCount_still
    | rw [List.foldl_cons]
    | rw [List.foldl_nil]
    | exact Fld.turnFree rfl
    | exact balFld_free _
    | decide
    | with_reducible refine Still.foldl ?_ (fun u x => ?_)
    | with_reducible refine Still.foldl_fst ?_ (fun u x => ?_)
    | with_reducible apply stillParts_of
    | intro _
    | with_reducible refine Still.of_eq (by assumption) ?_
    | with_reducible refine Still.of_eq_snd (by assumption) ?_
    | simp only [still_mk]
    | split

theorem State.laterReqs_still {r s : State} (h : r.Still s) (id : ℕ) (n : ℕ) (p : Need → Bool) : r.Still (State.laterReqs s id n p) := by
  unfold State.laterReqs
  repeat' first
    | with_reducible assumption
    | with_reducible exact Still.refl _
    | with_reducible apply Still.ite
    | exact Fld.turnFree rfl
    | exact balFld_free _
    | decide
    | with_reducible apply stillParts_of
    | intro _
    | with_reducible refine Still.of_eq (by assumption) ?_
    | with_reducible refine Still.of_eq_snd (by assumption) ?_
    | simp only [still_mk]
    | split

theorem State.freezeBlank_still {r s : State} (h : r.Still s) (id : ℕ) (n : ℕ) : r.Still (State.freezeBlank s id n) := by
  unfold State.freezeBlank
  repeat' first
    | with_reducible assumption
    | with_reducible exact Still.refl _
    | with_reducible apply Still.ite
    | with_reducible apply laterReqs_still
    | with_reducible apply updOp_still
    | with_reducible apply ev_still
    | exact Fld.turnFree rfl
    | exact balFld_free _
    | decide
    | with_reducible apply stillParts_of
    | intro _
    | with_reducible refine Still.of_eq (by assumption) ?_
    | with_reducible refine Still.of_eq_snd (by assumption) ?_
    | simp only [still_mk]
    | split

theorem State.delayPreload_still {r s : State} (h : r.Still s) (id : ℕ) (n : ℕ) : r.Still (State.delayPreload s id n) := by
  unfold State.delayPreload
  repeat' first
    | with_reducible assumption
    | with_reducible exact Still.refl _
    | with_reducible apply Still.ite
    | with_reducible apply laterReqs_still
    | with_reducible apply updOp_still
    | exact Fld.turnFree rfl
    | exact balFld_free _
    | decide
    | with_reducible apply stillParts_of
    | intro _
    | with_reducible refine Still.of_eq (by assumption) ?_
    | with_reducible refine Still.of_eq_snd (by assumption) ?_
    | simp only [still_mk]
    | split

theorem State.arrive_still {r s : State} (h : r.Still s) (id : ℕ) (e : Need) : r.Still (State.arrive s id e) := by
  unfold State.arrive
  repeat' first
    | with_reducible assumption
    | with_reducible exact Still.refl _
    | with_reducible apply Still.ite
    | with_reducible apply delayPreload_still
    | with_reducible apply freezeBlank_still
    | exact Fld.turnFree rfl
    | exact balFld_free _
    | decide
    | with_reducible apply stillParts_of
    | intro _
    | with_reducible refine Still.of_eq (by assumption) ?_
    | with_reducible refine Still.of_eq_snd (by assumption) ?_
    | simp only [still_mk]
    | split

theorem State.countFrozen_still {r s : State} (h : r.Still s) (o : Op) : r.Still (State.countFrozen s o) := by
  unfold State.countFrozen
  repeat' first
    | with_reducible assumption
    | with_reducible exact Still.refl _
    | with_reducible apply Still.ite
    | with_reducible apply ev_still
    | rw [List.foldl_cons]
    | rw [List.foldl_nil]
    | exact Fld.turnFree rfl
    | exact balFld_free _
    | decide
    | with_reducible refine Still.foldl ?_ (fun u x => ?_)
    | with_reducible refine Still.foldl_fst ?_ (fun u x => ?_)
    | with_reducible apply stillParts_of
    | intro _
    | with_reducible refine Still.of_eq (by assumption) ?_
    | with_reducible refine Still.of_eq_snd (by assumption) ?_
    | simp only [still_mk]
    | split

theorem State.operandVals_still {r s : State} (h : r.Still s) (c : Client) (fmt : ℕ) (va : ℕ) (i : ℕ) (n : ℕ) : r.Still (State.operandVals s c fmt va
    i n).1 := by
  unfold State.operandVals
  repeat' first
    | with_reducible assumption
    | with_reducible exact Still.refl _
    | with_reducible apply Still.ite
    | with_reducible apply Still.ite_fst
    | with_reducible apply readElems_still
    | exact Fld.turnFree rfl
    | exact balFld_free _
    | decide
    | with_reducible apply stillParts_of
    | intro _
    | with_reducible refine Still.of_eq (by assumption) ?_
    | with_reducible refine Still.of_eq_snd (by assumption) ?_
    | simp only [still_mk]
    | split

theorem State.preOperands_still {r s : State} (h : r.Still s) (o : Op) (pos : UnitPos) : r.Still (State.preOperands s o pos).1 := by
  unfold State.preOperands
  repeat' first
    | with_reducible assumption
    | with_reducible exact Still.refl _
    | with_reducible apply Still.ite
    | with_reducible apply Still.ite_fst
    | with_reducible apply collect_still
    | with_reducible apply operandVals_still
    | exact Fld.turnFree rfl
    | exact balFld_free _
    | decide
    | with_reducible apply stillParts_of
    | intro _
    | with_reducible refine Still.of_eq (by assumption) ?_
    | with_reducible refine Still.of_eq_snd (by assumption) ?_
    | simp only [still_mk]
    | split

theorem State.streamedOperand_still {r s : State} (h : r.Still s) (o : Op) (pos : UnitPos) (slot : ℕ) : r.Still (State.streamedOperand s o pos slot).1
    := by
  unfold State.streamedOperand
  repeat' first
    | with_reducible assumption
    | with_reducible exact Still.refl _
    | with_reducible apply Still.ite
    | with_reducible apply Still.ite_fst
    | with_reducible apply collect_still
    | with_reducible apply operandVals_still
    | exact Fld.turnFree rfl
    | exact balFld_free _
    | decide
    | with_reducible apply stillParts_of
    | intro _
    | with_reducible refine Still.of_eq (by assumption) ?_
    | with_reducible refine Still.of_eq_snd (by assumption) ?_
    | simp only [still_mk]
    | split

theorem State.collectAll_still {r s : State} (h : r.Still s) (f : State → ℕ → State × Except ℕ (List Elems)) (y2 : List ℕ) (hf : ∀ (u : State) w1,
    u.Still (f u w1).1) : r.Still (State.collectAll s f y2).1 := by
  induction y2 generalizing s with
  | nil =>
    unfold State.collectAll
    repeat' first
      | with_reducible assumption
      | with_reducible exact Still.refl _
      | with_reducible apply Still.ite
      | with_reducible apply Still.ite_fst
      | with_reducible refine Still.trans ?_ (hf _ _)
      | exact Fld.turnFree rfl
      | exact balFld_free _
      | decide
      | with_reducible apply stillParts_of
      | intro _
      | with_reducible refine Still.of_eq (by assumption) ?_
      | with_reducible refine Still.of_eq_snd (by assumption) ?_
      | simp only [still_mk]
      | split
  | cons z l ih =>
    unfold State.collectAll
    repeat' first
      | with_reducible assumption
      | with_reducible exact Still.refl _
      | with_reducible apply Still.ite
      | with_reducible apply Still.ite_fst
      | with_reducible refine Still.trans ?_ (hf _ _)
      | with_reducible apply ih
      | exact Fld.turnFree rfl
      | exact balFld_free _
      | decide
      | with_reducible apply stillParts_of
      | intro _
      | with_reducible refine Still.of_eq (by assumption) ?_
      | with_reducible refine Still.of_eq_snd (by assumption) ?_
      | simp only [still_mk]
      | split

theorem State.readUnit_still {r s : State} (h : r.Still s) (o : Op) (pos : UnitPos) : r.Still (State.readUnit s o pos).1 := by
  unfold State.readUnit
  repeat' first
    | with_reducible assumption
    | with_reducible exact Still.refl _
    | with_reducible apply Still.ite
    | with_reducible apply Still.ite_fst
    | with_reducible apply collect_still
    | with_reducible apply readA_still
    | with_reducible apply readElems_still
    | with_reducible apply collectAll_still
    | with_reducible apply streamedOperand_still
    | rw [List.foldl_cons]
    | rw [List.foldl_nil]
    | exact Fld.turnFree rfl
    | exact balFld_free _
    | decide
    | with_reducible refine Still.foldl ?_ (fun u x => ?_)
    | with_reducible refine Still.foldl_fst ?_ (fun u x => ?_)
    | with_reducible apply stillParts_of
    | intro _
    | with_reducible refine Still.of_eq (by assumption) ?_
    | with_reducible refine Still.of_eq_snd (by assumption) ?_
    | simp only [still_mk]
    | split

theorem State.overrun_still {r s : State} (h : r.Still s) (id : ℕ) (inc : ℕ) : r.Still (State.overrun s id inc) := by
  unfold State.overrun
  repeat' first
    | with_reducible assumption
    | with_reducible exact Still.refl _
    | with_reducible apply Still.ite
    | with_reducible apply ev_still
    | with_reducible apply countFrozen_still
    | with_reducible apply finish_still
    | with_reducible apply parkOp_still
    | with_reducible apply setOp_still
    | exact Fld.turnFree rfl
    | exact balFld_free _
    | decide
    | with_reducible apply stillParts_of
    | intro _
    | with_reducible refine Still.of_eq (by assumption) ?_
    | with_reducible refine Still.of_eq_snd (by assumption) ?_
    | simp only [still_mk]
    | split

theorem State.finishUnit_still {r s : State} (h : r.Still s) (id : ℕ) (u : WorkUnit) : r.Still (State.finishUnit s id u).1 := by
  unfold State.finishUnit
  repeat' first
    | with_reducible assumption
    | with_reducible exact Still.refl _
    | with_reducible apply Still.ite
    | with_reducible apply Still.ite_fst
    | with_reducible apply readUnit_still
    | with_reducible apply vwrites_still
    | with_reducible apply overrun_still
    | with_reducible apply mark_still
    | with_reducible apply updOp_still
    | exact Fld.turnFree rfl
    | exact balFld_free _
    | decide
    | with_reducible apply stillParts_of
    | intro _
    | with_reducible refine Still.of_eq (by assumption) ?_
    | with_reducible refine Still.of_eq_snd (by assumption) ?_
    | simp only [still_mk]
    | split

theorem State.finishUnits_still {r s : State} (h : r.Still s) (id : ℕ) (y2 : List WorkUnit) : r.Still (State.finishUnits s id y2).1 := by
  induction y2 generalizing s id with
  | nil =>
    unfold State.finishUnits
    repeat' first
      | with_reducible assumption
      | with_reducible exact Still.refl _
      | with_reducible apply Still.ite
      | with_reducible apply Still.ite_fst
      | with_reducible apply finishUnit_still
      | exact Fld.turnFree rfl
      | exact balFld_free _
      | decide
      | with_reducible apply stillParts_of
      | intro _
      | with_reducible refine Still.of_eq (by assumption) ?_
      | with_reducible refine Still.of_eq_snd (by assumption) ?_
      | simp only [still_mk]
      | split
  | cons z l ih =>
    unfold State.finishUnits
    repeat' first
      | with_reducible assumption
      | with_reducible exact Still.refl _
      | with_reducible apply Still.ite
      | with_reducible apply Still.ite_fst
      | with_reducible apply finishUnit_still
      | with_reducible apply ih
      | exact Fld.turnFree rfl
      | exact balFld_free _
      | decide
      | with_reducible apply stillParts_of
      | intro _
      | with_reducible refine Still.of_eq (by assumption) ?_
      | with_reducible refine Still.of_eq_snd (by assumption) ?_
      | simp only [still_mk]
      | split

theorem State.repeatHit_still {r s : State} (h : r.Still s) (o : Op) : r.Still (State.repeatHit s o).1 := by
  unfold State.repeatHit
  repeat' first
    | with_reducible assumption
    | with_reducible exact Still.refl _
    | with_reducible apply Still.ite
    | with_reducible apply Still.ite_fst
    | exact Fld.turnFree rfl
    | exact balFld_free _
    | decide
    | with_reducible apply stillParts_of
    | intro _
    | with_reducible refine Still.of_eq (by assumption) ?_
    | with_reducible refine Still.of_eq_snd (by assumption) ?_
    | simp only [still_mk]
    | split

theorem State.repeatClear_still {r s : State} (h : r.Still s) (o : Op) : r.Still (State.repeatClear s o) := by
  unfold State.repeatClear
  repeat' first
    | with_reducible assumption
    | with_reducible exact Still.refl _
    | with_reducible apply Still.ite
    | exact Fld.turnFree rfl
    | exact balFld_free _
    | decide
    | with_reducible apply stillParts_of
    | intro _
    | with_reducible refine Still.of_eq (by assumption) ?_
    | with_reducible refine Still.of_eq_snd (by assumption) ?_
    | simp only [still_mk]
    | split

theorem State.mismatch_still {r s : State} (h : r.Still s) (id : ℕ) (cause : ℕ) (kc : ℕ) (nFail : ℕ) (named : Option (ℕ × ℕ)) : r.Still
    (State.mismatch s id cause kc nFail named) := by
  unfold State.mismatch
  repeat' first
    | with_reducible assumption
    | with_reducible exact Still.refl _
    | with_reducible apply Still.ite
    | with_reducible apply Still.ite_fst
    | with_reducible apply firstError_still
    | with_reducible apply wr_still
    | with_reducible apply ev_still
    | with_reducible apply bump_still
    | with_reducible apply repeatHit_still
    | with_reducible apply syncBlanks_still
    | with_reducible apply finish_still
    | with_reducible apply mcLog_still
    | with_reducible apply mark_still
    | with_reducible apply parkOp_still
    | with_reducible apply setOp_still
    | exact Fld.turnFree rfl
    | exact balFld_free _
    | decide
    | with_reducible apply stillParts_of
    | intro _
    | with_reducible refine Still.of_eq (by assumption) ?_
    | with_reducible refine Still.of_eq_snd (by assumption) ?_
    | simp only [still_mk]
    | split

theorem State.beginUnit_still {r s : State} (h : r.Still s) (o : Op) (pos : UnitPos) (swap : Bool) (faults : List TileFault) : r.Still
    (State.beginUnit s o pos swap faults) := by
  unfold State.beginUnit
  repeat' first
    | with_reducible assumption
    | with_reducible exact Still.refl _
    | with_reducible apply Still.ite
    | with_reducible apply ev_still
    | with_reducible apply laterReqs_still
    | with_reducible apply setOp_still
    | exact Fld.turnFree rfl
    | exact balFld_free _
    | decide
    | with_reducible apply stillParts_of
    | intro _
    | with_reducible refine Still.of_eq (by assumption) ?_
    | with_reducible refine Still.of_eq_snd (by assumption) ?_
    | simp only [still_mk]
    | split

theorem State.passUnit_still {r s : State} (h : r.Still s) (o : Op) (u : WorkUnit) : r.Still (State.passUnit s o u) := by
  unfold State.passUnit
  repeat' first
    | with_reducible assumption
    | with_reducible exact Still.refl _
    | with_reducible apply Still.ite
    | with_reducible apply repeatClear_still
    | with_reducible apply histCommit_still
    | with_reducible apply mergeFlags_still
    | exact Fld.turnFree rfl
    | exact balFld_free _
    | decide
    | with_reducible apply stillParts_of
    | intro _
    | with_reducible refine Still.of_eq (by assumption) ?_
    | with_reducible refine Still.of_eq_snd (by assumption) ?_
    | simp only [still_mk]
    | split

theorem State.copyBytes_still {r s : State} (h : r.Still s) (c : Client) (src : ℕ) (dst : ℕ) (n : ℕ) : r.Still (State.copyBytes s c src dst n).1 := by
  unfold State.copyBytes
  repeat' first
    | with_reducible assumption
    | with_reducible exact Still.refl _
    | with_reducible apply Still.ite
    | with_reducible apply Still.ite_fst
    | with_reducible apply vreadL_still
    | with_reducible apply vwriteL_still
    | exact Fld.turnFree rfl
    | exact balFld_free _
    | decide
    | with_reducible apply stillParts_of
    | intro _
    | with_reducible refine Still.of_eq (by assumption) ?_
    | with_reducible refine Still.of_eq_snd (by assumption) ?_
    | simp only [still_mk]
    | split

theorem State.syncOut_still {r s : State} (h : r.Still s) (e : ℕ) : r.Still (State.syncOut s e) := by
  unfold State.syncOut
  repeat' first
    | with_reducible assumption
    | with_reducible exact Still.refl _
    | with_reducible apply Still.ite
    | with_reducible apply wr_still
    | exact Fld.turnFree rfl
    | exact balFld_free _
    | decide
    | with_reducible apply stillParts_of
    | intro _
    | with_reducible refine Still.of_eq (by assumption) ?_
    | with_reducible refine Still.of_eq_snd (by assumption) ?_
    | simp only [still_mk]
    | split

theorem State.giveBack_still {r0 s : State} (h : r0.Still s) (r : Req) : r0.Still (State.giveBack s r) := by
  unfold State.giveBack
  repeat' first
    | with_reducible assumption
    | with_reducible exact Still.refl _
    | with_reducible apply Still.ite
    | with_reducible apply updOp_still
    | exact Fld.turnFree rfl
    | exact balFld_free _
    | decide
    | with_reducible apply stillParts_of
    | intro _
    | with_reducible refine Still.of_eq (by assumption) ?_
    | with_reducible refine Still.of_eq_snd (by assumption) ?_
    | simp only [still_mk]
    | split

theorem State.resumeFaulted_still {r s : State} (h : r.Still s) : r.Still (State.resumeFaulted s) := by
  unfold State.resumeFaulted
  repeat' first
    | with_reducible assumption
    | with_reducible exact Still.refl _
    | with_reducible apply Still.ite
    | with_reducible apply syncOut_still
    | with_reducible apply giveBack_still
    | rw [List.foldl_cons]
    | rw [List.foldl_nil]
    | exact Fld.turnFree rfl
    | exact balFld_free _
    | decide
    | with_reducible refine Still.foldl ?_ (fun u x => ?_)
    | with_reducible refine Still.foldl_fst ?_ (fun u x => ?_)
    | with_reducible apply stillParts_of
    | intro _
    | with_reducible refine Still.of_eq (by assumption) ?_
    | with_reducible refine Still.of_eq_snd (by assumption) ?_
    | simp only [still_mk]
    | split

theorem State.packedNeeds_still {r s : State} (h : r.Still s) (c : Client) (l : Leaf) (e : Need) : r.Still (State.packedNeeds s c l e).1 := by
  unfold State.packedNeeds
  repeat' first
    | with_reducible assumption
    | with_reducible exact Still.refl _
    | with_reducible apply Still.ite
    | with_reducible apply Still.ite_fst
    | with_reducible apply readDir_still
    | with_reducible apply packedFault_still
    | with_reducible apply waitForDir_still
    | exact Fld.turnFree rfl
    | exact balFld_free _
    | decide
    | with_reducible apply stillParts_of
    | intro _
    | with_reducible refine Still.of_eq (by assumption) ?_
    | with_reducible refine Still.of_eq_snd (by assumption) ?_
    | simp only [still_mk]
    | split

theorem State.offerNeed_still {r s : State} (h : r.Still s) (eng : ℕ) (o : Op) (e : Need) : r.Still (State.offerNeed s eng o e).1 := by
  unfold State.offerNeed
  repeat' first
    | with_reducible assumption
    | with_reducible exact Still.refl _
    | with_reducible apply Still.ite
    | with_reducible apply Still.ite_fst
    | with_reducible apply raiseFault_still
    | with_reducible apply xlate_still
    | with_reducible apply packedNeeds_still
    | exact Fld.turnFree rfl
    | exact balFld_free _
    | decide
    | with_reducible apply stillParts_of
    | intro _
    | with_reducible refine Still.of_eq (by assumption) ?_
    | with_reducible refine Still.of_eq_snd (by assumption) ?_
    | simp only [still_mk]
    | split

theorem State.takeNeed_still {r s : State} (h : r.Still s) (id : ℕ) (e : Need) : r.Still (State.takeNeed s id e) := by
  unfold State.takeNeed
  repeat' first
    | with_reducible assumption
    | with_reducible exact Still.refl _
    | with_reducible apply Still.ite
    | with_reducible apply updOp_still
    | exact Fld.turnFree rfl
    | exact balFld_free _
    | decide
    | with_reducible apply stillParts_of
    | intro _
    | with_reducible refine Still.of_eq (by assumption) ?_
    | with_reducible refine Still.of_eq_snd (by assumption) ?_
    | simp only [still_mk]
    | split

theorem State.deliver_still {r s : State} (h : r.Still s) (o : Op) (eng : ℕ) (e : Need) : r.Still (State.deliver s o eng e).1 := by
  unfold State.deliver
  repeat' first
    | with_reducible assumption
    | with_reducible exact Still.refl _
    | with_reducible apply Still.ite
    | with_reducible apply Still.ite_fst
    | with_reducible apply copyBytes_still
    | with_reducible apply arrive_still
    | exact Fld.turnFree rfl
    | exact balFld_free _
    | decide
    | with_reducible apply stillParts_of
    | intro _
    | with_reducible refine Still.of_eq (by assumption) ?_
    | with_reducible refine Still.of_eq_snd (by assumption) ?_
    | simp only [still_mk]
    | split

theorem State.addReq_still {r0 s : State} (h : r0.Still s) (r : Req) : r0.Still (State.addReq s r) := by
  unfold State.addReq
  repeat' first
    | with_reducible assumption
    | with_reducible exact Still.refl _
    | with_reducible apply Still.ite
    | with_reducible apply addH_still
    | exact Fld.turnFree rfl
    | exact balFld_free _
    | decide
    | with_reducible apply stillParts_of
    | intro _
    | with_reducible refine Still.of_eq (by assumption) ?_
    | with_reducible refine Still.of_eq_snd (by assumption) ?_
    | simp only [still_mk]
    | split

theorem State.holdFault_still {r s : State} (h : r.Still s) (eng : ℕ) (o : Op) (e : Need) : r.Still (State.holdFault s eng o e) := by
  unfold State.holdFault
  repeat' first
    | with_reducible assumption
    | with_reducible exact Still.refl _
    | with_reducible apply Still.ite
    | with_reducible apply syncOut_still
    | with_reducible apply addReq_still
    | with_reducible apply takeNeed_still
    | exact Fld.turnFree rfl
    | exact balFld_free _
    | decide
    | with_reducible apply stillParts_of
    | intro _
    | with_reducible refine Still.of_eq (by assumption) ?_
    | with_reducible refine Still.of_eq_snd (by assumption) ?_
    | simp only [still_mk]
    | split

theorem State.offerNeeds_still {r s : State} (h : r.Still s) (eng : ℕ) (id : ℕ) (cands : List State.Cand) (y4 : List Need) (y5 : List ℕ) : r.Still
    (State.offerNeeds s eng id cands y4 y5).1 := by
  induction y4 generalizing s eng id cands y5 with
  | nil =>
    unfold State.offerNeeds
    repeat' first
      | with_reducible assumption
      | with_reducible exact Still.refl _
      | with_reducible apply Still.ite
      | with_reducible apply Still.ite_fst
      | with_reducible apply offerNeed_still
      | with_reducible apply deliver_still
      | with_reducible apply takeNeed_still
      | with_reducible apply updOp_still
      | with_reducible apply addReq_still
      | with_reducible apply holdFault_still
      | exact Fld.turnFree rfl
      | exact balFld_free _
      | decide
      | with_reducible apply stillParts_of
      | intro _
      | with_reducible refine Still.of_eq (by assumption) ?_
      | with_reducible refine Still.of_eq_snd (by assumption) ?_
      | simp only [still_mk]
      | split
  | cons z l ih =>
    unfold State.offerNeeds
    repeat' first
      | with_reducible assumption
      | with_reducible exact Still.refl _
      | with_reducible apply Still.ite
      | with_reducible apply Still.ite_fst
      | with_reducible apply offerNeed_still
      | with_reducible apply deliver_still
      | with_reducible apply takeNeed_still
      | with_reducible apply updOp_still
      | with_reducible apply addReq_still
      | with_reducible apply holdFault_still
      | with_reducible apply ih
      | exact Fld.turnFree rfl
      | exact balFld_free _
      | decide
      | with_reducible apply stillParts_of
      | intro _
      | with_reducible refine Still.of_eq (by assumption) ?_
      | with_reducible refine Still.of_eq_snd (by assumption) ?_
      | simp only [still_mk]
      | split

theorem State.planPage_still {r s : State} (h : r.Still s) (o : Op) : r.Still (State.planPage s o) := by
  unfold State.planPage
  repeat' first
    | with_reducible assumption
    | with_reducible exact Still.refl _
    | with_reducible apply Still.ite
    | with_reducible apply Still.ite_fst
    | with_reducible apply xlate_still
    | with_reducible apply updOp_still
    | exact Fld.turnFree rfl
    | exact balFld_free _
    | decide
    | with_reducible apply stillParts_of
    | intro _
    | with_reducible refine Still.of_eq (by assumption) ?_
    | with_reducible refine Still.of_eq_snd (by assumption) ?_
    | simp only [still_mk]
    | split

theorem State.offerOp_still {r s : State} (h : r.Still s) (eng : ℕ) (cands : List State.Cand) (id : ℕ) : r.Still (State.offerOp s eng cands id).1 :=
    by
  unfold State.offerOp
  repeat' first
    | with_reducible assumption
    | with_reducible exact Still.refl _
    | with_reducible apply Still.ite
    | with_reducible apply Still.ite_fst
    | with_reducible apply syncBlanks_still
    | with_reducible apply finish_still
    | with_reducible apply setOp_still
    | with_reducible apply planPage_still
    | with_reducible apply offerNeeds_still
    | exact Fld.turnFree rfl
    | exact balFld_free _
    | decide
    | with_reducible apply stillParts_of
    | intro _
    | with_reducible refine Still.of_eq (by assumption) ?_
    | with_reducible refine Still.of_eq_snd (by assumption) ?_
    | simp only [still_mk]
    | split

theorem State.tagsWait_still {r s : State} (h : r.Still s) (q : ℕ) (e : ℕ) (on : Bool) : r.Still (State.tagsWait s q e on) := by
  unfold State.tagsWait
  repeat' first
    | with_reducible assumption
    | with_reducible exact Still.refl _
    | with_reducible apply Still.ite
    | with_reducible apply span_still
    | exact Fld.turnFree rfl
    | exact balFld_free _
    | decide
    | with_reducible apply stillParts_of
    | intro _
    | with_reducible refine Still.of_eq (by assumption) ?_
    | with_reducible refine Still.of_eq_snd (by assumption) ?_
    | simp only [still_mk]
    | split

theorem State.issueReq_still {r s : State} (h : r.Still s) (eng : ℕ) (c : State.Cand) : r.Still (State.issueReq s eng c) := by
  unfold State.issueReq
  repeat' first
    | with_reducible assumption
    | with_reducible exact Still.refl _
    | with_reducible apply Still.ite
    | with_reducible apply addReq_still
    | with_reducible apply takeNeed_still
    | with_reducible apply enqueue_still
    | with_reducible apply ev_still
    | with_reducible apply bump_still
    | with_reducible apply syncOut_still
    | with_reducible apply setH_still
    | exact Fld.turnFree rfl
    | exact balFld_free _
    | decide
    | with_reducible apply stillParts_of
    | intro _
    | with_reducible refine Still.of_eq (by assumption) ?_
    | with_reducible refine Still.of_eq_snd (by assumption) ?_
    | simp only [still_mk]
    | split

theorem State.serveUntil_still {r s : State} (h : r.Still s) (sid : ℕ) (y2 : ℕ) : r.Still (State.serveUntil s sid y2) := by
  induction y2 generalizing s sid with
  | zero =>
    unfold State.serveUntil
    repeat' first
      | with_reducible assumption
      | with_reducible exact Still.refl _
      | with_reducible apply Still.ite
      | with_reducible apply serveReq_still
      | exact Fld.turnFree rfl
      | exact balFld_free _
      | decide
      | with_reducible apply stillParts_of
      | intro _
      | with_reducible refine Still.of_eq (by assumption) ?_
      | with_reducible refine Still.of_eq_snd (by assumption) ?_
      | simp only [still_mk]
      | split
  | succ n0 ih =>
    unfold State.serveUntil
    repeat' first
      | with_reducible assumption
      | with_reducible exact Still.refl _
      | with_reducible apply Still.ite
      | with_reducible apply serveReq_still
      | with_reducible apply ih
      | exact Fld.turnFree rfl
      | exact balFld_free _
      | decide
      | with_reducible apply stillParts_of
      | intro _
      | with_reducible refine Still.of_eq (by assumption) ?_
      | with_reducible refine Still.of_eq_snd (by assumption) ?_
      | simp only [still_mk]
      | split

theorem State.freeReq_still {r0 s : State} (h : r0.Still s) (r : Req) : r0.Still (State.freeReq s r) := by
  unfold State.freeReq
  repeat' first
    | with_reducible assumption
    | with_reducible exact Still.refl _
    | with_reducible apply Still.ite
    | with_reducible apply tagsWait_still
    | with_reducible apply syncOut_still
    | exact Fld.turnFree rfl
    | exact balFld_free _
    | decide
    | with_reducible apply stillParts_of
    | intro _
    | with_reducible refine Still.of_eq (by assumption) ?_
    | with_reducible refine Still.of_eq_snd (by assumption) ?_
    | simp only [still_mk]
    | split

theorem State.answered_still {r0 s : State} (h : r0.Still s) (r : Req) (o : Op) : r0.Still (State.answered s r o) := by
  unfold State.answered
  repeat' first
    | with_reducible assumption
    | with_reducible exact Still.refl _
    | with_reducible apply Still.ite
    | with_reducible apply Still.ite_fst
    | with_reducible apply deliver_still
    | with_reducible apply freeReq_still
    | with_reducible apply updOp_still
    | exact Fld.turnFree rfl
    | exact balFld_free _
    | decide
    | with_reducible apply stillParts_of
    | intro _
    | with_reducible refine Still.of_eq (by assumption) ?_
    | with_reducible refine Still.of_eq_snd (by assumption) ?_
    | simp only [still_mk]
    | split

theorem State.syncFe_still {r s : State} (h : r.Still s) (e : ℕ) : r.Still (State.syncFe s e) := by
  unfold State.syncFe
  repeat' first
    | with_reducible assumption
    | with_reducible exact Still.refl _
    | with_reducible apply Still.ite
    | with_reducible apply wr_still
    | exact Fld.turnFree rfl
    | exact balFld_free _
    | decide
    | with_reducible apply stillParts_of
    | intro _
    | with_reducible refine Still.of_eq (by assumption) ?_
    | with_reducible refine Still.of_eq_snd (by assumption) ?_
    | simp only [still_mk]
    | split

theorem State.feErr_still {r s : State} (h : r.Still s) (f : Fld) (q : ℕ) (i : ℕ) (hff : f.perTurn = false) : r.Still (State.feErr s f q i) := by
  unfold State.feErr
  repeat' first
    | with_reducible assumption
    | with_reducible exact Still.refl _
    | with_reducible apply Still.ite
    | with_reducible apply mark_still
    | with_reducible apply wr_still
    | exact Fld.turnFree rfl
    | exact balFld_free _
    | decide
    | with_reducible apply stillParts_of
    | intro _
    | with_reducible refine Still.of_eq (by assumption) ?_
    | with_reducible refine Still.of_eq_snd (by assumption) ?_
    | simp only [still_mk]
    | split

theorem State.rsRead_still {r s : State} (h : r.Still s) (q : ℕ) (e : ℕ) (i : ℕ) : r.Still (State.rsRead s q e i).1 := by
  unfold State.rsRead
  repeat' first
    | with_reducible assumption
    | with_reducible exact Still.refl _
    | with_reducible apply Still.ite
    | with_reducible apply Still.ite_fst
    | with_reducible apply vread_still
    | exact Fld.turnFree rfl
    | exact balFld_free _
    | decide
    | with_reducible apply stillParts_of
    | intro _
    | with_reducible refine Still.of_eq (by assumption) ?_
    | with_reducible refine Still.of_eq_snd (by assumption) ?_
    | simp only [still_mk]
    | split

theorem State.rsWrite_still {r s : State} (h : r.Still s) (q : ℕ) (e : ℕ) (i : ℕ) (next : ℕ) (exp : ℕ) (seen : ℕ) : r.Still (State.rsWrite s q e i
    next exp seen).1 := by
  unfold State.rsWrite
  repeat' first
    | with_reducible assumption
    | with_reducible exact Still.refl _
    | with_reducible apply Still.ite
    | with_reducible apply Still.ite_fst
    | with_reducible apply vwrite_still
    | exact Fld.turnFree rfl
    | exact balFld_free _
    | decide
    | with_reducible apply stillParts_of
    | intro _
    | with_reducible refine Still.of_eq (by assumption) ?_
    | with_reducible refine Still.of_eq_snd (by assumption) ?_
    | simp only [still_mk]
    | split

theorem State.putMessage_still {r0 s : State} (h : r0.Still s) (r : ℕ) (alive : ℕ) (head : List Byte) (payload : List Byte) : r0.Still
    (State.putMessage s r alive head payload) := by
  unfold State.putMessage
  repeat' first
    | with_reducible assumption
    | with_reducible exact Still.refl _
    | with_reducible apply Still.ite
    | with_reducible apply setBytes_still
    | exact Fld.turnFree rfl
    | exact balFld_free _
    | decide
    | with_reducible apply stillParts_of
    | intro _
    | with_reducible refine Still.of_eq (by assumption) ?_
    | with_reducible refine Still.of_eq_snd (by assumption) ?_
    | simp only [still_mk]
    | split

theorem State.messageWait_still {r s : State} (h : r.Still s) (q : ℕ) (e : ℕ) (why : Option ℕ) : r.Still (State.messageWait s q e why) := by
  unfold State.messageWait
  repeat' first
    | with_reducible assumption
    | with_reducible exact Still.refl _
    | with_reducible apply Still.ite
    | with_reducible apply span_still
    | exact Fld.turnFree rfl
    | exact balFld_free _
    | decide
    | with_reducible apply stillParts_of
    | intro _
    | with_reducible refine Still.of_eq (by assumption) ?_
    | with_reducible refine Still.of_eq_snd (by assumption) ?_
    | simp only [still_mk]
    | split

theorem State.sendMsg_still {r s : State} (h : r.Still s) (q : ℕ) (route : ℕ) (op : ℕ) (own : Bool) (m : FeMsg) : r.Still (State.sendMsg s q route op
    own m).1 := by
  unfold State.sendMsg
  repeat' first
    | with_reducible assumption
    | with_reducible exact Still.refl _
    | with_reducible apply Still.ite
    | with_reducible apply Still.ite_fst
    | with_reducible apply messageWait_still
    | with_reducible apply rsRead_still
    | with_reducible apply vwrite_still
    | with_reducible apply rsWrite_still
    | with_reducible apply syncFe_still
    | with_reducible apply bump_still
    | with_reducible apply putMessage_still
    | exact Fld.turnFree rfl
    | exact balFld_free _
    | decide
    | with_reducible apply stillParts_of
    | intro _
    | with_reducible refine Still.of_eq (by assumption) ?_
    | with_reducible refine Still.of_eq_snd (by assumption) ?_
    | simp only [still_mk]
    | split

theorem State.resend_still {r s : State} (h : r.Still s) (x : FeTx) : r.Still (State.resend s x) := by
  unfold State.resend
  repeat' first
    | with_reducible assumption
    | with_reducible exact Still.refl _
    | with_reducible apply Still.ite
    | with_reducible apply Still.ite_fst
    | with_reducible apply vread_still
    | with_reducible apply putMessage_still
    | with_reducible apply bump_still
    | exact Fld.turnFree rfl
    | exact balFld_free _
    | decide
    | with_reducible apply stillParts_of
    | intro _
    | with_reducible refine Still.of_eq (by assumption) ?_
    | with_reducible refine Still.of_eq_snd (by assumption) ?_
    | simp only [still_mk]
    | split

theorem State.freeRecords_still {r s : State} (h : r.Still s) (xs : List FeTx) : r.Still (State.freeRecords s xs) := by
  unfold State.freeRecords
  repeat' first
    | with_reducible assumption
    | with_reducible exact Still.refl _
    | with_reducible apply Still.ite
    | with_reducible apply Still.ite_fst
    | with_reducible apply vread_still
    | with_reducible apply vwrite_still
    | with_reducible apply syncFe_still
    | rw [List.foldl_cons]
    | rw [List.foldl_nil]
    | exact Fld.turnFree rfl
    | exact balFld_free _
    | decide
    | with_reducible refine Still.foldl ?_ (fun u x => ?_)
    | with_reducible refine Still.foldl_fst ?_ (fun u x => ?_)
    | with_reducible apply stillParts_of
    | intro _
    | with_reducible refine Still.of_eq (by assumption) ?_
    | with_reducible refine Still.of_eq_snd (by assumption) ?_
    | simp only [still_mk]
    | split

theorem State.feDone_still {r s : State} (h : r.Still s) (id : ℕ) : r.Still (State.feDone s id) := by
  unfold State.feDone
  repeat' first
    | with_reducible assumption
    | with_reducible exact Still.refl _
    | with_reducible apply Still.ite
    | with_reducible apply setOp_still
    | exact Fld.turnFree rfl
    | exact balFld_free _
    | decide
    | with_reducible apply stillParts_of
    | intro _
    | with_reducible refine Still.of_eq (by assumption) ?_
    | with_reducible refine Still.of_eq_snd (by assumption) ?_
    | simp only [still_mk]
    | split

theorem State.sendAck_still {r s : State} (h : r.Still s) (q : ℕ) (i : ℕ) (missing : Bool) : r.Still (State.sendAck s q i missing) := by
  unfold State.sendAck
  repeat' first
    | with_reducible assumption
    | with_reducible exact Still.refl _
    | with_reducible apply Still.ite
    | with_reducible apply Still.ite_fst
    | with_reducible apply rsRead_still
    | with_reducible apply setH_still
    | with_reducible apply setBytes_still
    | exact Fld.turnFree rfl
    | exact balFld_free _
    | decide
    | with_reducible apply stillParts_of
    | intro _
    | with_reducible refine Still.of_eq (by assumption) ?_
    | with_reducible refine Still.of_eq_snd (by assumption) ?_
    | simp only [still_mk]
    | split

theorem State.startAck_still {r s : State} (h : r.Still s) (q : ℕ) (i : ℕ) : r.Still (State.startAck s q i) := by
  unfold State.startAck
  repeat' first
    | with_reducible assumption
    | with_reducible exact Still.refl _
    | with_reducible apply Still.ite
    | with_reducible apply setH_still
    | exact Fld.turnFree rfl
    | exact balFld_free _
    | decide
    | with_reducible apply stillParts_of
    | intro _
    | with_reducible refine Still.of_eq (by assumption) ?_
    | with_reducible refine Still.of_eq_snd (by assumption) ?_
    | simp only [still_mk]
    | split

theorem State.slotMsg_still {r s : State} (h : r.Still s) (q : ℕ) (e : ℕ) (i : ℕ) (l : ℕ) : r.Still (State.slotMsg s q e i l).1 := by
  unfold State.slotMsg
  repeat' first
    | with_reducible assumption
    | with_reducible exact Still.refl _
    | with_reducible apply Still.ite
    | with_reducible apply Still.ite_fst
    | with_reducible apply vread_still
    | exact Fld.turnFree rfl
    | exact balFld_free _
    | decide
    | with_reducible apply stillParts_of
    | intro _
    | with_reducible refine Still.of_eq (by assumption) ?_
    | with_reducible refine Still.of_eq_snd (by assumption) ?_
    | simp only [still_mk]
    | split

theorem State.checkHeader_still {r s : State} (h : r.Still s) (e : ℕ) (q : ℕ) (i : ℕ) (l : ℕ) (rid : ℕ) : r.Still (State.checkHeader s e q i l rid) :=
    by
  unfold State.checkHeader
  repeat' first
    | with_reducible assumption
    | with_reducible exact Still.refl _
    | with_reducible apply Still.ite
    | with_reducible apply Still.ite_fst
    | with_reducible apply slotMsg_still
    | with_reducible apply ev_still
    | with_reducible apply feErr_still
    | with_reducible apply rsRead_still
    | with_reducible apply sendAck_still
    | with_reducible apply rsWrite_still
    | with_reducible apply startAck_still
    | exact Fld.turnFree rfl
    | exact balFld_free _
    | decide
    | with_reducible apply stillParts_of
    | intro _
    | with_reducible refine Still.of_eq (by assumption) ?_
    | with_reducible refine Still.of_eq_snd (by assumption) ?_
    | simp only [still_mk]
    | split

theorem State.markApplied_still {r s : State} (h : r.Still s) (x : FeRx) : r.Still (State.markApplied s x) := by
  unfold State.markApplied
  repeat' first
    | with_reducible assumption
    | with_reducible exact Still.refl _
    | with_reducible apply Still.ite
    | with_reducible apply Still.ite_fst
    | with_reducible apply rsRead_still
    | with_reducible apply rsWrite_still
    | with_reducible apply sendAck_still
    | with_reducible apply startAck_still
    | with_reducible apply setH_still
    | exact Fld.turnFree rfl
    | exact balFld_free _
    | decide
    | with_reducible apply stillParts_of
    | intro _
    | with_reducible refine Still.of_eq (by assumption) ?_
    | with_reducible refine Still.of_eq_snd (by assumption) ?_
    | simp only [still_mk]
    | split

theorem State.feStore_still {r s : State} (h : r.Still s) (c : Client) (hint : ℕ) (keep : ℕ) (va : ℕ) (d : List Byte) (bad : Bool) (y7 : ℕ) : r.Still
    (State.feStore s c hint keep va d bad y7).1 := by
  induction y7 generalizing s c hint keep va d bad with
  | zero =>
    unfold State.feStore
    repeat' first
      | with_reducible assumption
      | with_reducible exact Still.refl _
      | with_reducible apply Still.ite
      | with_reducible apply Still.ite_fst
      | with_reducible apply xlate_still
      | with_reducible apply writeOne_still
      | with_reducible apply settle_still
      | exact Fld.turnFree rfl
      | exact balFld_free _
      | decide
      | with_reducible apply stillParts_of
      | intro _
      | with_reducible refine Still.of_eq (by assumption) ?_
      | with_reducible refine Still.of_eq_snd (by assumption) ?_
      | simp only [still_mk]
      | split
  | succ n0 ih =>
    unfold State.feStore
    repeat' first
      | with_reducible assumption
      | with_reducible exact Still.refl _
      | with_reducible apply Still.ite
      | with_reducible apply Still.ite_fst
      | with_reducible apply xlate_still
      | with_reducible apply writeOne_still
      | with_reducible apply settle_still
      | with_reducible apply ih
      | exact Fld.turnFree rfl
      | exact balFld_free _
      | decide
      | with_reducible apply stillParts_of
      | intro _
      | with_reducible refine Still.of_eq (by assumption) ?_
      | with_reducible refine Still.of_eq_snd (by assumption) ?_
      | simp only [still_mk]
      | split

theorem State.feNote_still {r s : State} (h : r.Still s) (id : ℕ) (n : ℕ) (bad : Bool) (fl : ℕ) : r.Still (State.feNote s id n bad fl) := by
  unfold State.feNote
  repeat' first
    | with_reducible assumption
    | with_reducible exact Still.refl _
    | with_reducible apply Still.ite
    | with_reducible apply setOp_still
    | with_reducible apply mergeFlags_still
    | exact Fld.turnFree rfl
    | exact balFld_free _
    | decide
    | with_reducible apply stillParts_of
    | intro _
    | with_reducible refine Still.of_eq (by assumption) ?_
    | with_reducible refine Still.of_eq_snd (by assumption) ?_
    | simp only [still_mk]
    | split

theorem State.applyMsg_still {r s : State} (h : r.Still s) (x : FeRx) : r.Still (State.applyMsg s x) := by
  unfold State.applyMsg
  repeat' first
    | with_reducible assumption
    | with_reducible exact Still.refl _
    | with_reducible apply Still.ite
    | with_reducible apply Still.ite_fst
    | with_reducible apply slotMsg_still
    | with_reducible apply ev_still
    | with_reducible apply sendMsg_still
    | with_reducible apply finish_still
    | with_reducible apply markApplied_still
    | with_reducible apply feErr_still
    | with_reducible apply messageWait_still
    | with_reducible apply feStore_still
    | with_reducible apply feDone_still
    | with_reducible apply feNote_still
    | with_reducible apply vread_still
    | exact Fld.turnFree rfl
    | exact balFld_free _
    | decide
    | with_reducible apply stillParts_of
    | intro _
    | with_reducible refine Still.of_eq (by assumption) ?_
    | with_reducible refine Still.of_eq_snd (by assumption) ?_
    | simp only [still_mk]
    | split

theorem State.downRoute_still {r s : State} (h : r.Still s) (q : ℕ) (i : ℕ) : r.Still (State.downRoute s q i) := by
  unfold State.downRoute
  repeat' first
    | with_reducible assumption
    | with_reducible exact Still.refl _
    | with_reducible apply Still.ite
    | with_reducible apply wr_still
    | with_reducible apply freeRecords_still
    | with_reducible apply feErr_still
    | with_reducible apply finish_still
    | rw [List.foldl_cons]
    | rw [List.foldl_nil]
    | exact Fld.turnFree rfl
    | exact balFld_free _
    | decide
    | with_reducible refine Still.foldl ?_ (fun u x => ?_)
    | with_reducible refine Still.foldl_fst ?_ (fun u x => ?_)
    | with_reducible apply stillParts_of
    | intro _
    | with_reducible refine Still.of_eq (by assumption) ?_
    | with_reducible refine Still.of_eq_snd (by assumption) ?_
    | simp only [still_mk]
    | split

theorem State.feBegin_still {r s : State} (h : r.Still s) (id : ℕ) (op : ℕ) : r.Still (State.feBegin s id op) := by
  unfold State.feBegin
  repeat' first
    | with_reducible assumption
    | with_reducible exact Still.refl _
    | with_reducible apply Still.ite
    | with_reducible apply finish_still
    | with_reducible apply feDone_still
    | with_reducible apply setOp_still
    | exact Fld.turnFree rfl
    | exact balFld_free _
    | decide
    | with_reducible apply stillParts_of
    | intro _
    | with_reducible refine Still.of_eq (by assumption) ?_
    | with_reducible refine Still.of_eq_snd (by assumption) ?_
    | simp only [still_mk]
    | split

theorem State.applyTable_still {r s : State} (h : r.Still s) (q : ℕ) : r.Still (State.applyTable s q).1 := by
  unfold State.applyTable
  repeat' first
    | with_reducible assumption
    | with_reducible exact Still.refl _
    | with_reducible apply Still.ite
    | with_reducible apply Still.ite_fst
    | with_reducible apply vread_still
    | with_reducible apply vwrite_still
    | with_reducible apply wr_still
    | with_reducible apply setH_still
    | rw [List.foldl_cons]
    | rw [List.foldl_nil]
    | exact Fld.turnFree rfl
    | exact balFld_free _
    | decide
    | with_reducible refine Still.foldl ?_ (fun u x => ?_)
    | with_reducible refine Still.foldl_fst ?_ (fun u x => ?_)
    | with_reducible apply stillParts_of
    | intro _
    | with_reducible refine Still.of_eq (by assumption) ?_
    | with_reducible refine Still.of_eq_snd (by assumption) ?_
    | simp only [still_mk]
    | split

theorem State.applyFabric_still {r s : State} (h : r.Still s) : r.Still (State.applyFabric s) := by
  unfold State.applyFabric
  repeat' first
    | with_reducible assumption
    | with_reducible exact Still.refl _
    | with_reducible apply Still.ite
    | with_reducible apply Still.ite_fst
    | with_reducible apply applyTable_still
    | with_reducible apply setH_still
    | with_reducible apply fnErr_still
    | with_reducible apply mark_still
    | rw [List.foldl_cons]
    | rw [List.foldl_nil]
    | exact Fld.turnFree rfl
    | exact balFld_free _
    | decide
    | with_reducible refine Still.foldl ?_ (fun u x => ?_)
    | with_reducible refine Still.foldl_fst ?_ (fun u x => ?_)
    | with_reducible apply stillParts_of
    | intro _
    | with_reducible refine Still.of_eq (by assumption) ?_
    | with_reducible refine Still.of_eq_snd (by assumption) ?_
    | simp only [still_mk]
    | split

theorem State.applyCredits_still {r s : State} (h : r.Still s) : r.Still (State.applyCredits s) := by
  unfold State.applyCredits
  repeat' first
    | with_reducible assumption
    | with_reducible exact Still.refl _
    | with_reducible apply Still.ite
    | with_reducible apply mark_still
    | with_reducible apply wr_still
    | rw [List.foldl_cons]
    | rw [List.foldl_nil]
    | exact Fld.turnFree rfl
    | exact balFld_free _
    | decide
    | with_reducible refine Still.foldl ?_ (fun u x => ?_)
    | with_reducible refine Still.foldl_fst ?_ (fun u x => ?_)
    | with_reducible apply stillParts_of
    | intro _
    | with_reducible refine Still.of_eq (by assumption) ?_
    | with_reducible refine Still.of_eq_snd (by assumption) ?_
    | simp only [still_mk]
    | split

theorem State.recheckHeaders_still {r s : State} (h : r.Still s) : r.Still (State.recheckHeaders s) := by
  unfold State.recheckHeaders
  repeat' first
    | with_reducible assumption
    | with_reducible exact Still.refl _
    | with_reducible apply Still.ite
    | with_reducible apply checkHeader_still
    | rw [List.foldl_cons]
    | rw [List.foldl_nil]
    | exact Fld.turnFree rfl
    | exact balFld_free _
    | decide
    | with_reducible refine Still.foldl ?_ (fun u x => ?_)
    | with_reducible refine Still.foldl_fst ?_ (fun u x => ?_)
    | with_reducible apply stillParts_of
    | intro _
    | with_reducible refine Still.of_eq (by assumption) ?_
    | with_reducible refine Still.of_eq_snd (by assumption) ?_
    | simp only [still_mk]
    | split

theorem State.putPte_still {r s : State} (h : r.Still s) (q : ℕ) (unit : ℕ) (addr : ℕ) (p : ℕ) : r.Still (State.putPte s q unit addr p) := by
  unfold State.putPte
  repeat' first
    | with_reducible assumption
    | with_reducible exact Still.refl _
    | with_reducible apply Still.ite
    | with_reducible apply setBytes_still
    | with_reducible apply plazaTouch_still
    | exact Fld.turnFree rfl
    | exact balFld_free _
    | decide
    | with_reducible apply stillParts_of
    | intro _
    | with_reducible refine Still.of_eq (by assumption) ?_
    | with_reducible refine Still.of_eq_snd (by assumption) ?_
    | simp only [still_mk]
    | split

theorem State.dropTlb_still {r s : State} (h : r.Still s) (q : ℕ) (va : ℕ) (n : ℕ) : r.Still (State.dropTlb s q va n) := by
  unfold State.dropTlb
  repeat' first
    | with_reducible assumption
    | with_reducible exact Still.refl _
    | with_reducible apply Still.ite
    | exact Fld.turnFree rfl
    | exact balFld_free _
    | decide
    | with_reducible apply stillParts_of
    | intro _
    | with_reducible refine Still.of_eq (by assumption) ?_
    | with_reducible refine Still.of_eq_snd (by assumption) ?_
    | simp only [still_mk]
    | split

theorem State.writeFrame_still {r s : State} (h : r.Still s) (c : Client) (l : Leaf) (va : ℕ) (d : List Byte) (bads : List Bool) : r.Still
    (State.writeFrame s c l va d bads).1 := by
  unfold State.writeFrame
  repeat' first
    | with_reducible assumption
    | with_reducible exact Still.refl _
    | with_reducible apply Still.ite
    | with_reducible apply Still.ite_fst
    | with_reducible apply packedWriteAt_still
    | with_reducible apply packedFault_still
    | with_reducible apply writePiece_still
    | rw [List.foldl_cons]
    | rw [List.foldl_nil]
    | exact Fld.turnFree rfl
    | exact balFld_free _
    | decide
    | with_reducible refine Still.foldl ?_ (fun u x => ?_)
    | with_reducible refine Still.foldl_fst ?_ (fun u x => ?_)
    | with_reducible apply stillParts_of
    | intro _
    | with_reducible refine Still.of_eq (by assumption) ?_
    | with_reducible refine Still.of_eq_snd (by assumption) ?_
    | simp only [still_mk]
    | split

theorem State.noteMovePoison_still {r s : State} (h : r.Still s) (id : ℕ) (bad : Bool) : r.Still (State.noteMovePoison s id bad) := by
  unfold State.noteMovePoison
  repeat' first
    | with_reducible assumption
    | with_reducible exact Still.refl _
    | with_reducible apply Still.ite
    | with_reducible apply updOp_still
    | exact Fld.turnFree rfl
    | exact balFld_free _
    | decide
    | with_reducible apply stillParts_of
    | intro _
    | with_reducible refine Still.of_eq (by assumption) ?_
    | with_reducible refine Still.of_eq_snd (by assumption) ?_
    | simp only [still_mk]
    | split

theorem State.nextPage_still {r s : State} (h : r.Still s) (id : ℕ) : r.Still (State.nextPage s id) := by
  unfold State.nextPage
  repeat' first
    | with_reducible assumption
    | with_reducible exact Still.refl _
    | with_reducible apply Still.ite
    | with_reducible apply updOp_still
    | exact Fld.turnFree rfl
    | exact balFld_free _
    | decide
    | with_reducible apply stillParts_of
    | intro _
    | with_reducible refine Still.of_eq (by assumption) ?_
    | with_reducible refine Still.of_eq_snd (by assumption) ?_
    | simp only [still_mk]
    | split

theorem State.migDst_still {r s : State} (h : r.Still s) (c : Client) (d : ℕ) (i : ℕ) (sz : ℕ) : r.Still (State.migDst s c d i sz).1 := by
  unfold State.migDst
  repeat' first
    | with_reducible assumption
    | with_reducible exact Still.refl _
    | with_reducible apply Still.ite
    | with_reducible apply Still.ite_fst
    | with_reducible apply readDir_still
    | exact Fld.turnFree rfl
    | exact balFld_free _
    | decide
    | with_reducible apply stillParts_of
    | intro _
    | with_reducible refine Still.of_eq (by assumption) ?_
    | with_reducible refine Still.of_eq_snd (by assumption) ?_
    | simp only [still_mk]
    | split

theorem State.migDone_still {r s : State} (h : r.Still s) (o : Op) (l : Leaf) (va : ℕ) (new : ℕ) (bads : List Bool) : r.Still (State.migDone s o l va
    new bads) := by
  unfold State.migDone
  repeat' first
    | with_reducible assumption
    | with_reducible exact Still.refl _
    | with_reducible apply Still.ite
    | with_reducible apply nextPage_still
    | with_reducible apply noteMovePoison_still
    | with_reducible apply dropTlb_still
    | with_reducible apply putPte_still
    | exact Fld.turnFree rfl
    | exact balFld_free _
    | decide
    | with_reducible apply stillParts_of
    | intro _
    | with_reducible refine Still.of_eq (by assumption) ?_
    | with_reducible refine Still.of_eq_snd (by assumption) ?_
    | simp only [still_mk]
    | split

theorem State.migrateLeaf_still {r s : State} (h : r.Still s) (o : Op) (l : Leaf) (va : ℕ) : r.Still (State.migrateLeaf s o l va) := by
  unfold State.migrateLeaf
  repeat' first
    | with_reducible assumption
    | with_reducible exact Still.refl _
    | with_reducible apply Still.ite
    | with_reducible apply Still.ite_fst
    | with_reducible apply migDst_still
    | with_reducible apply raiseFault_still
    | with_reducible apply dropTlb_still
    | with_reducible apply putPte_still
    | with_reducible apply updOp_still
    | with_reducible apply vreadL_still
    | with_reducible apply writeFrame_still
    | with_reducible apply migDone_still
    | exact Fld.turnFree rfl
    | exact balFld_free _
    | decide
    | with_reducible apply stillParts_of
    | intro _
    | with_reducible refine Still.of_eq (by assumption) ?_
    | with_reducible refine Still.of_eq_snd (by assumption) ?_
    | simp only [still_mk]
    | split

theorem State.migratePage_still {r s : State} (h : r.Still s) (o : Op) : r.Still (State.migratePage s o) := by
  unfold State.migratePage
  repeat' first
    | with_reducible assumption
    | with_reducible exact Still.refl _
    | with_reducible apply Still.ite
    | with_reducible apply Still.ite_fst
    | with_reducible apply nextPage_still
    | with_reducible apply updOp_still
    | with_reducible apply walk_still
    | with_reducible apply raiseFault_still
    | with_reducible apply migrateLeaf_still
    | exact Fld.turnFree rfl
    | exact balFld_free _
    | decide
    | with_reducible apply stillParts_of
    | intro _
    | with_reducible refine Still.of_eq (by assumption) ?_
    | with_reducible refine Still.of_eq_snd (by assumption) ?_
    | simp only [still_mk]
    | split

theorem State.convGroup_still {r s : State} (h : r.Still s) (o : Op) (total : ℕ) (g : ℕ × ℕ) : r.Still (State.convGroup s o total g).1 := by
  unfold State.convGroup
  repeat' first
    | with_reducible assumption
    | with_reducible exact Still.refl _
    | with_reducible apply Still.ite
    | with_reducible apply Still.ite_fst
    | with_reducible apply vread_still
    | with_reducible apply vwriteL_still
    | with_reducible apply noteMovePoison_still
    | with_reducible apply updOp_still
    | exact Fld.turnFree rfl
    | exact balFld_free _
    | decide
    | with_reducible apply stillParts_of
    | intro _
    | with_reducible refine Still.of_eq (by assumption) ?_
    | with_reducible refine Still.of_eq_snd (by assumption) ?_
    | simp only [still_mk]
    | split

theorem State.copyPage_still {r s : State} (h : r.Still s) (o : Op) : r.Still (State.copyPage s o) := by
  unfold State.copyPage
  repeat' first
    | with_reducible assumption
    | with_reducible exact Still.refl _
    | with_reducible apply Still.ite
    | with_reducible apply Still.ite_fst
    | with_reducible apply xlate_still
    | with_reducible apply convGroup_still
    | with_reducible apply nextPage_still
    | with_reducible apply vreadL_still
    | with_reducible apply vwriteL_still
    | with_reducible apply noteMovePoison_still
    | rw [List.foldl_cons]
    | rw [List.foldl_nil]
    | exact Fld.turnFree rfl
    | exact balFld_free _
    | decide
    | with_reducible refine Still.foldl ?_ (fun u x => ?_)
    | with_reducible refine Still.foldl_fst ?_ (fun u x => ?_)
    | with_reducible apply stillParts_of
    | intro _
    | with_reducible refine Still.of_eq (by assumption) ?_
    | with_reducible refine Still.of_eq_snd (by assumption) ?_
    | simp only [still_mk]
    | split

theorem State.abandonPage_still {r s : State} (h : r.Still s) (id : ℕ) : r.Still (State.abandonPage s id) := by
  unfold State.abandonPage
  repeat' first
    | with_reducible assumption
    | with_reducible exact Still.refl _
    | with_reducible apply Still.ite
    | with_reducible apply putPte_still
    | with_reducible apply updOp_still
    | with_reducible apply dropTlb_still
    | exact Fld.turnFree rfl
    | exact balFld_free _
    | decide
    | with_reducible apply stillParts_of
    | intro _
    | with_reducible refine Still.of_eq (by assumption) ?_
    | with_reducible refine Still.of_eq_snd (by assumption) ?_
    | simp only [still_mk]
    | split

theorem State.replicaOf_still {r s : State} (h : r.Still s) (o : Op) (e : Need) : r.Still (State.replicaOf s o e).1 := by
  unfold State.replicaOf
  repeat' first
    | with_reducible assumption
    | with_reducible exact Still.refl _
    | with_reducible apply Still.ite
    | with_reducible apply Still.ite_fst
    | with_reducible apply translate_still
    | with_reducible apply readLedger_still
    | exact Fld.turnFree rfl
    | exact balFld_free _
    | decide
    | with_reducible apply stillParts_of
    | intro _
    | with_reducible refine Still.of_eq (by assumption) ?_
    | with_reducible refine Still.of_eq_snd (by assumption) ?_
    | simp only [still_mk]
    | split

theorem State.switchReplica_still {r s : State} (h : r.Still s) (id : ℕ) (x : ℕ) : r.Still (State.switchReplica s id x) := by
  unfold State.switchReplica
  repeat' first
    | with_reducible assumption
    | with_reducible exact Still.refl _
    | with_reducible apply Still.ite
    | with_reducible apply bump_still
    | with_reducible apply updOp_still
    | with_reducible apply laterReqs_still
    | exact Fld.turnFree rfl
    | exact balFld_free _
    | decide
    | with_reducible apply stillParts_of
    | intro _
    | with_reducible refine Still.of_eq (by assumption) ?_
    | with_reducible refine Still.of_eq_snd (by assumption) ?_
    | simp only [still_mk]
    | split

theorem State.syncFrames_still {r s : State} (h : r.Still s) (d : ℕ) : r.Still (State.syncFrames s d) := by
  unfold State.syncFrames
  repeat' first
    | with_reducible assumption
    | with_reducible exact Still.refl _
    | with_reducible apply Still.ite
    | with_reducible apply wr_still
    | exact Fld.turnFree rfl
    | exact balFld_free _
    | decide
    | with_reducible apply stillParts_of
    | intro _
    | with_reducible refine Still.of_eq (by assumption) ?_
    | with_reducible refine Still.of_eq_snd (by assumption) ?_
    | simp only [still_mk]
    | split

theorem State.memRetire_still {r s : State} (h : r.Still s) (fromMc : Bool) (val : ℕ) : r.Still (State.memRetire s fromMc val) := by
  unfold State.memRetire
  repeat' first
    | with_reducible assumption
    | with_reducible exact Still.refl _
    | with_reducible apply Still.ite
    | with_reducible apply fnErr_still
    | with_reducible apply wr_still
    | exact Fld.turnFree rfl
    | exact balFld_free _
    | decide
    | with_reducible apply stillParts_of
    | intro _
    | with_reducible refine Still.of_eq (by assumption) ?_
    | with_reducible refine Still.of_eq_snd (by assumption) ?_
    | simp only [still_mk]
    | split

theorem State.loseBay_still {r s : State} (h : r.Still s) (d : ℕ) : r.Still (State.loseBay s d) := by
  unfold State.loseBay
  repeat' first
    | with_reducible assumption
    | with_reducible exact Still.refl _
    | with_reducible apply Still.ite
    | with_reducible apply giveBack_still
    | with_reducible apply ev_still
    | with_reducible apply bump_still
    | with_reducible apply syncOut_still
    | with_reducible apply wr_still
    | with_reducible apply setH_still
    | rw [List.foldl_cons]
    | rw [List.foldl_nil]
    | exact Fld.turnFree rfl
    | exact balFld_free _
    | decide
    | with_reducible refine Still.foldl ?_ (fun u x => ?_)
    | with_reducible refine Still.foldl_fst ?_ (fun u x => ?_)
    | with_reducible apply stillParts_of
    | intro _
    | with_reducible refine Still.of_eq (by assumption) ?_
    | with_reducible refine Still.of_eq_snd (by assumption) ?_
    | simp only [still_mk]
    | split

theorem State.bayOpens_still {r s : State} (h : r.Still s) (d : ℕ) : r.Still (State.bayOpens s d) := by
  unfold State.bayOpens
  repeat' first
    | with_reducible assumption
    | with_reducible exact Still.refl _
    | with_reducible apply Still.ite
    | with_reducible apply wr_still
    | with_reducible apply loseBay_still
    | exact Fld.turnFree rfl
    | exact balFld_free _
    | decide
    | with_reducible apply stillParts_of
    | intro _
    | with_reducible refine Still.of_eq (by assumption) ?_
    | with_reducible refine Still.of_eq_snd (by assumption) ?_
    | simp only [still_mk]
    | split

theorem execTranslationWalk_still (q : ℕ) (va : ℕ) (write : Bool) (init : Initiator) {s : State} : s.StillNext (execTranslationWalk q va write init s)
    := by
  unfold execTranslationWalk
  repeat' first
    | with_reducible assumption
    | with_reducible exact Still.refl _
    | with_reducible apply StillNext.next
    | with_reducible apply StillNext.ite
    | with_reducible apply Still.ite
    | with_reducible apply Still.ite_fst
    | with_reducible apply xlate_still
    | exact Fld.turnFree rfl
    | exact balFld_free _
    | decide
    | with_reducible apply stillParts_of
    | intro _
    | with_reducible refine Still.of_eq (by assumption) ?_
    | with_reducible refine Still.of_eq_snd (by assumption) ?_
    | simp only [still_mk]
    | split

theorem State.plazaServe_still {r0 s : State} (h : r0.Still s) (r : PlazaReq) : r0.Still (State.plazaServe s r).1 := by
  unfold State.plazaServe
  repeat' first
    | with_reducible assumption
    | with_reducible exact Still.refl _
    | with_reducible apply Still.ite
    | with_reducible apply Still.ite_fst
    | with_reducible apply settle_still
    | with_reducible apply lineWrite_still
    | with_reducible apply readLines_still
    | rw [List.foldl_cons]
    | rw [List.foldl_nil]
    | exact Fld.turnFree rfl
    | exact balFld_free _
    | decide
    | with_reducible refine Still.foldl ?_ (fun u x => ?_)
    | with_reducible refine Still.foldl_fst ?_ (fun u x => ?_)
    | with_reducible apply stillParts_of
    | intro _
    | with_reducible refine Still.of_eq (by assumption) ?_
    | with_reducible refine Still.of_eq_snd (by assumption) ?_
    | simp only [still_mk]
    | split

theorem execPlazaAccess_still (rs : List PlazaReq) {s : State} : s.StillNext (execPlazaAccess rs s) := by
  unfold execPlazaAccess
  repeat' first
    | with_reducible assumption
    | with_reducible exact Still.refl _
    | with_reducible apply StillNext.next
    | with_reducible apply StillNext.ite
    | with_reducible apply Still.ite
    | with_reducible apply Still.ite_fst
    | with_reducible apply plazaServe_still
    | rw [List.foldl_cons]
    | rw [List.foldl_nil]
    | exact Fld.turnFree rfl
    | exact balFld_free _
    | decide
    | with_reducible refine Still.foldl ?_ (fun u x => ?_)
    | with_reducible refine Still.foldl_fst ?_ (fun u x => ?_)
    | with_reducible apply stillParts_of
    | intro _
    | with_reducible refine Still.of_eq (by assumption) ?_
    | with_reducible refine Still.of_eq_snd (by assumption) ?_
    | simp only [still_mk]
    | split

theorem execUnitZeroed_still (lot : Bool) (i : ℕ) {s : State} : s.StillNext (execUnitZeroed lot i s) := by
  unfold execUnitZeroed
  repeat' first
    | with_reducible assumption
    | with_reducible exact Still.refl _
    | with_reducible apply StillNext.next
    | with_reducible apply StillNext.ite
    | with_reducible apply Still.ite
    | with_reducible apply setH_still
    | with_reducible apply lateDone_still
    | with_reducible apply wr_still
    | with_reducible apply wipe_still
    | exact Fld.turnFree rfl
    | exact balFld_free _
    | decide
    | with_reducible apply stillParts_of
    | intro _
    | with_reducible refine Still.of_eq (by assumption) ?_
    | with_reducible refine Still.of_eq_snd (by assumption) ?_
    | simp only [still_mk]
    | split

theorem execMemoryRequest_still (tier : ℕ) (unit : ℕ) (r : MemReq) (serve : Bool) {s : State} : s.StillNext (execMemoryRequest tier unit r serve s) :=
    by
  unfold execMemoryRequest
  repeat' first
    | with_reducible assumption
    | with_reducible exact Still.refl _
    | with_reducible apply StillNext.next
    | with_reducible apply StillNext.ite
    | with_reducible apply Still.ite
    | with_reducible apply enqueue_still
    | with_reducible apply serveReq_still
    | exact Fld.turnFree rfl
    | exact balFld_free _
    | decide
    | with_reducible apply stillParts_of
    | intro _
    | with_reducible refine Still.of_eq (by assumption) ?_
    | with_reducible refine Still.of_eq_snd (by assumption) ?_
    | simp only [still_mk]
    | split

theorem execReadComplete_still (tier : ℕ) (unit : ℕ) (addr : ℕ) (wrong : ℕ) (lane : ℕ) {s : State} : s.StillNext (execReadComplete tier unit addr
    wrong lane s) := by
  unfold execReadComplete
  repeat' first
    | with_reducible assumption
    | with_reducible exact Still.refl _
    | with_reducible apply StillNext.next
    | with_reducible apply StillNext.ite
    | with_reducible apply Still.ite
    | with_reducible apply Still.ite_fst
    | with_reducible apply dramRead_still
    | exact Fld.turnFree rfl
    | exact balFld_free _
    | decide
    | with_reducible apply stillParts_of
    | intro _
    | with_reducible refine Still.of_eq (by assumption) ?_
    | with_reducible refine Still.of_eq_snd (by assumption) ?_
    | simp only [still_mk]
    | split

theorem execBankRefresh_still (tier : ℕ) (unit : ℕ) (ch : ℕ) (bank : ℕ) {s : State} : s.StillNext (execBankRefresh tier unit ch bank s) := by
  unfold execBankRefresh
  repeat' first
    | with_reducible assumption
    | with_reducible exact Still.refl _
    | with_reducible apply StillNext.next
    | with_reducible apply StillNext.ite
    | with_reducible apply Still.ite
    | exact Fld.turnFree rfl
    | exact balFld_free _
    | decide
    | with_reducible apply stillParts_of
    | intro _
    | with_reducible refine Still.of_eq (by assumption) ?_
    | with_reducible refine Still.of_eq_snd (by assumption) ?_
    | simp only [still_mk]
    | split

theorem execScrub_still (tier : ℕ) (unit : ℕ) (ch : ℕ) (wrong : ℕ) (lane : ℕ) {s : State} : s.StillNext (execScrub tier unit ch wrong lane s) := by
  unfold execScrub
  repeat' first
    | with_reducible assumption
    | with_reducible exact Still.refl _
    | with_reducible apply StillNext.next
    | with_reducible apply StillNext.ite
    | with_reducible apply Still.ite
    | with_reducible apply Still.ite_fst
    | with_reducible apply dramRead_still
    | with_reducible apply setH_still
    | exact Fld.turnFree rfl
    | exact balFld_free _
    | decide
    | with_reducible apply stillParts_of
    | intro _
    | with_reducible refine Still.of_eq (by assumption) ?_
    | with_reducible refine Still.of_eq_snd (by assumption) ?_
    | simp only [still_mk]
    | split

theorem execLaneFailure_still (k : ℕ) (p : ℕ) (lane : ℕ) {s : State} : s.StillNext (execLaneFailure k p lane s) := by
  unfold execLaneFailure
  repeat' first
    | with_reducible assumption
    | with_reducible exact Still.refl _
    | with_reducible apply StillNext.next
    | with_reducible apply StillNext.ite
    | with_reducible apply Still.ite
    | with_reducible apply laneFails_still
    | exact Fld.turnFree rfl
    | exact balFld_free _
    | decide
    | with_reducible apply stillParts_of
    | intro _
    | with_reducible refine Still.of_eq (by assumption) ?_
    | with_reducible refine Still.of_eq_snd (by assumption) ?_
    | simp only [still_mk]
    | split

theorem execLostScanComplete_still (k : ℕ) {s : State} : s.StillNext (execLostScanComplete k s) := by
  unfold execLostScanComplete
  repeat' first
    | with_reducible assumption
    | with_reducible exact Still.refl _
    | with_reducible apply StillNext.next
    | with_reducible apply StillNext.ite
    | with_reducible apply Still.ite
    | with_reducible apply dropLine_still
    | with_reducible apply writeBack_still
    | with_reducible apply bump_still
    | with_reducible apply revertLine_still
    | rw [List.foldl_cons]
    | rw [List.foldl_nil]
    | exact Fld.turnFree rfl
    | exact balFld_free _
    | decide
    | with_reducible refine Still.foldl ?_ (fun u x => ?_)
    | with_reducible refine Still.foldl_fst ?_ (fun u x => ?_)
    | with_reducible apply stillParts_of
    | intro _
    | with_reducible refine Still.of_eq (by assumption) ?_
    | with_reducible refine Still.of_eq_snd (by assumption) ?_
    | simp only [still_mk]
    | split

theorem execRetirementCopyComplete_still (k : ℕ) {s : State} : s.StillNext (execRetirementCopyComplete k s) := by
  unfold execRetirementCopyComplete
  repeat' first
    | with_reducible assumption
    | with_reducible exact Still.refl _
    | with_reducible apply StillNext.next
    | with_reducible apply StillNext.ite
    | with_reducible apply Still.ite
    | with_reducible apply setH_still
    | with_reducible apply wr_still
    | rw [List.foldl_cons]
    | rw [List.foldl_nil]
    | exact Fld.turnFree rfl
    | exact balFld_free _
    | decide
    | with_reducible refine Still.foldl ?_ (fun u x => ?_)
    | with_reducible refine Still.foldl_fst ?_ (fun u x => ?_)
    | with_reducible apply stillParts_of
    | intro _
    | with_reducible refine Still.of_eq (by assumption) ?_
    | with_reducible refine Still.of_eq_snd (by assumption) ?_
    | simp only [still_mk]
    | split

theorem State.badFrame_still {r s : State} (h : r.Still s) (d : ℕ) (val : ℕ) : r.Still (State.badFrame s d val) := by
  unfold State.badFrame
  repeat' first
    | with_reducible assumption
    | with_reducible exact Still.refl _
    | with_reducible apply Still.ite
    | with_reducible apply mark_still
    | with_reducible apply setH_still
    | with_reducible apply syncFrames_still
    | with_reducible apply wr_still
    | exact Fld.turnFree rfl
    | exact balFld_free _
    | decide
    | with_reducible apply stillParts_of
    | intro _
    | with_reducible refine Still.of_eq (by assumption) ?_
    | with_reducible refine Still.of_eq_snd (by assumption) ?_
    | simp only [still_mk]
    | split

theorem State.askWithdraw_still {r s : State} (h : r.Still s) (who : ℕ) (d : ℕ) : r.Still (State.askWithdraw s who d) := by
  unfold State.askWithdraw
  repeat' first
    | with_reducible assumption
    | with_reducible exact Still.refl _
    | with_reducible apply Still.ite
    | with_reducible apply setH_still
    | with_reducible apply wr_still
    | with_reducible apply fnErr_still
    | exact Fld.turnFree rfl
    | exact balFld_free _
    | decide
    | with_reducible apply stillParts_of
    | intro _
    | with_reducible refine Still.of_eq (by assumption) ?_
    | with_reducible refine Still.of_eq_snd (by assumption) ?_
    | simp only [still_mk]
    | split

theorem State.askService_still {r s : State} (h : r.Still s) (who : ℕ) (d : ℕ) : r.Still (State.askService s who d) := by
  unfold State.askService
  repeat' first
    | with_reducible assumption
    | with_reducible exact Still.refl _
    | with_reducible apply Still.ite
    | with_reducible apply fnErr_still
    | with_reducible apply wr_still
    | with_reducible apply syncFrames_still
    | with_reducible apply mark_still
    | rw [List.foldl_cons]
    | rw [List.foldl_nil]
    | exact Fld.turnFree rfl
    | exact balFld_free _
    | decide
    | with_reducible refine Still.foldl ?_ (fun u x => ?_)
    | with_reducible refine Still.foldl_fst ?_ (fun u x => ?_)
    | with_reducible apply stillParts_of
    | intro _
    | with_reducible refine Still.of_eq (by assumption) ?_
    | with_reducible refine Still.of_eq_snd (by assumption) ?_
    | simp only [still_mk]
    | split

theorem execCartridgeSafe_still (d : ℕ) {s : State} : s.StillNext (execCartridgeSafe d s) := by
  unfold execCartridgeSafe
  repeat' first
    | with_reducible assumption
    | with_reducible exact Still.refl _
    | with_reducible apply StillNext.next
    | with_reducible apply StillNext.ite
    | with_reducible apply Still.ite
    | with_reducible apply setH_still
    | with_reducible apply wr_still
    | exact Fld.turnFree rfl
    | exact balFld_free _
    | decide
    | with_reducible apply stillParts_of
    | intro _
    | with_reducible refine Still.of_eq (by assumption) ?_
    | with_reducible refine Still.of_eq_snd (by assumption) ?_
    | simp only [still_mk]
    | split

theorem execCartridgeInService_still (d : ℕ) {s : State} : s.StillNext (execCartridgeInService d s) := by
  unfold execCartridgeInService
  repeat' first
    | with_reducible assumption
    | with_reducible exact Still.refl _
    | with_reducible apply StillNext.next
    | with_reducible apply StillNext.ite
    | with_reducible apply Still.ite
    | with_reducible apply setH_still
    | with_reducible apply wr_still
    | with_reducible apply wipe_still
    | exact Fld.turnFree rfl
    | exact balFld_free _
    | decide
    | with_reducible apply stillParts_of
    | intro _
    | with_reducible refine Still.of_eq (by assumption) ?_
    | with_reducible refine Still.of_eq_snd (by assumption) ?_
    | simp only [still_mk]
    | split

theorem execLatchOpen_still (d : ℕ) {s : State} : s.StillNext (execLatchOpen d s) := by
  unfold execLatchOpen
  repeat' first
    | with_reducible assumption
    | with_reducible exact Still.refl _
    | with_reducible apply StillNext.next
    | with_reducible apply StillNext.ite
    | with_reducible apply Still.ite
    | with_reducible apply setH_still
    | with_reducible apply wr_still
    | with_reducible apply bayOpens_still
    | exact Fld.turnFree rfl
    | exact balFld_free _
    | decide
    | with_reducible apply stillParts_of
    | intro _
    | with_reducible refine Still.of_eq (by assumption) ?_
    | with_reducible refine Still.of_eq_snd (by assumption) ?_
    | simp only [still_mk]
    | split

theorem execLatchClose_still (d : ℕ) (genuine : Bool) (frames : List ℕ) {s : State} : s.StillNext (execLatchClose d genuine frames s) := by
  unfold execLatchClose
  repeat' first
    | with_reducible assumption
    | with_reducible exact Still.refl _
    | with_reducible apply StillNext.next
    | with_reducible apply StillNext.ite
    | with_reducible apply Still.ite
    | with_reducible apply setH_still
    | with_reducible apply wr_still
    | exact Fld.turnFree rfl
    | exact balFld_free _
    | decide
    | with_reducible apply stillParts_of
    | intro _
    | with_reducible refine Still.of_eq (by assumption) ?_
    | with_reducible refine Still.of_eq_snd (by assumption) ?_
    | simp only [still_mk]
    | split

theorem execPresenceContactOpen_still (d : ℕ) {s : State} : s.StillNext (execPresenceContactOpen d s) := by
  unfold execPresenceContactOpen
  repeat' first
    | with_reducible assumption
    | with_reducible exact Still.refl _
    | with_reducible apply StillNext.next
    | with_reducible apply StillNext.ite
    | with_reducible apply Still.ite
    | with_reducible apply loseBay_still
    | exact Fld.turnFree rfl
    | exact balFld_free _
    | decide
    | with_reducible apply stillParts_of
    | intro _
    | with_reducible refine Still.of_eq (by assumption) ?_
    | with_reducible refine Still.of_eq_snd (by assumption) ?_
    | simp only [still_mk]
    | split

theorem execPackedWrite_still (q : ℕ) (va : ℕ) (data : List Byte) (init : Initiator) {s : State} : s.StillNext (execPackedWrite q va data init s) :=
    by
  unfold execPackedWrite
  repeat' first
    | with_reducible assumption
    | with_reducible exact Still.refl _
    | with_reducible apply StillNext.next
    | with_reducible apply StillNext.ite
    | with_reducible apply Still.ite
    | with_reducible apply Still.ite_fst
    | with_reducible apply xlate_still
    | with_reducible apply vwrite_still
    | exact Fld.turnFree rfl
    | exact balFld_free _
    | decide
    | with_reducible apply stillParts_of
    | intro _
    | with_reducible refine Still.of_eq (by assumption) ?_
    | with_reducible refine Still.of_eq_snd (by assumption) ?_
    | simp only [still_mk]
    | split

theorem State.retryPacked_still {r s : State} (h : r.Still s) (x : PackStall) : r.Still (State.retryPacked s x).1 := by
  unfold State.retryPacked
  repeat' first
    | with_reducible assumption
    | with_reducible exact Still.refl _
    | with_reducible apply Still.ite
    | with_reducible apply Still.ite_fst
    | with_reducible apply packedWriteAt_still
    | with_reducible apply migDone_still
    | with_reducible apply packedFault_still
    | with_reducible apply writeOne_still
    | with_reducible apply settle_still
    | with_reducible apply packedRead_still
    | exact Fld.turnFree rfl
    | exact balFld_free _
    | decide
    | with_reducible apply stillParts_of
    | intro _
    | with_reducible refine Still.of_eq (by assumption) ?_
    | with_reducible refine Still.of_eq_snd (by assumption) ?_
    | simp only [still_mk]
    | split

theorem execPoolRecheck_still (q : ℕ) {s : State} : s.StillNext (execPoolRecheck q s) := by
  unfold execPoolRecheck
  repeat' first
    | with_reducible assumption
    | with_reducible exact Still.refl _
    | with_reducible apply StillNext.next
    | with_reducible apply StillNext.ite
    | with_reducible apply Still.ite
    | with_reducible apply Still.ite_fst
    | with_reducible apply retryPacked_still
    | with_reducible apply dirBusy_still
    | with_reducible apply ev_still
    | with_reducible apply wr_still
    | exact Fld.turnFree rfl
    | exact balFld_free _
    | decide
    | with_reducible apply stillParts_of
    | intro _
    | with_reducible refine Still.of_eq (by assumption) ?_
    | with_reducible refine Still.of_eq_snd (by assumption) ?_
    | simp only [still_mk]
    | split

theorem execBusyRecheck_still (q : ℕ) (va : ℕ) {s : State} : s.StillNext (execBusyRecheck q va s) := by
  unfold execBusyRecheck
  repeat' first
    | with_reducible assumption
    | with_reducible exact Still.refl _
    | with_reducible apply StillNext.next
    | with_reducible apply StillNext.ite
    | with_reducible apply Still.ite
    | with_reducible apply Still.ite_fst
    | with_reducible apply retryPacked_still
    | with_reducible apply ev_still
    | exact Fld.turnFree rfl
    | exact balFld_free _
    | decide
    | with_reducible apply stillParts_of
    | intro _
    | with_reducible refine Still.of_eq (by assumption) ?_
    | with_reducible refine Still.of_eq_snd (by assumption) ?_
    | simp only [still_mk]
    | split

theorem execExpanderDecode_still (q : ℕ) (va : ℕ) (j : ℕ) (first : ℕ) (last : ℕ) (inWait : ℕ) (outWait : ℕ) {s : State} : s.StillNext
    (execExpanderDecode q va j first last inWait outWait s) := by
  unfold execExpanderDecode
  repeat' first
    | with_reducible assumption
    | with_reducible exact Still.refl _
    | with_reducible apply StillNext.next
    | with_reducible apply StillNext.ite
    | with_reducible apply Still.ite
    | with_reducible apply Still.ite_fst
    | with_reducible apply xlate_still
    | with_reducible apply readDir_still
    | with_reducible apply packedFault_still
    | with_reducible apply dirDamage_still
    | with_reducible apply waitForDir_still
    | with_reducible apply expand_still
    | with_reducible apply ev_still
    | exact Fld.turnFree rfl
    | exact balFld_free _
    | decide
    | with_reducible apply stillParts_of
    | intro _
    | with_reducible refine Still.of_eq (by assumption) ?_
    | with_reducible refine Still.of_eq_snd (by assumption) ?_
    | simp only [still_mk]
    | split

theorem State.eaPut_still {r s : State} (h : r.Still s) (k : ℕ) (p : ℕ) (ea : ℕ) (d : List Byte) : r.Still (State.eaPut s k p ea d) := by
  unfold State.eaPut
  repeat' first
    | with_reducible assumption
    | with_reducible exact Still.refl _
    | with_reducible apply Still.ite
    | with_reducible apply setBytes_still
    | with_reducible apply setPoison_still
    | exact Fld.turnFree rfl
    | exact balFld_free _
    | decide
    | with_reducible apply stillParts_of
    | intro _
    | with_reducible refine Still.of_eq (by assumption) ?_
    | with_reducible refine Still.of_eq_snd (by assumption) ?_
    | simp only [still_mk]
    | split

theorem State.eaWrite_still {r s : State} (h : r.Still s) (k : ℕ) (p : ℕ) (ea : ℕ) (n : ℕ) (v : ℕ) : r.Still (State.eaWrite s k p ea n v) := by
  unfold State.eaWrite
  repeat' first
    | with_reducible assumption
    | with_reducible exact Still.refl _
    | with_reducible apply Still.ite
    | with_reducible apply eaPut_still
    | rw [List.foldl_cons]
    | rw [List.foldl_nil]
    | exact Fld.turnFree rfl
    | exact balFld_free _
    | decide
    | with_reducible refine Still.foldl ?_ (fun u x => ?_)
    | with_reducible refine Still.foldl_fst ?_ (fun u x => ?_)
    | with_reducible apply stillParts_of
    | intro _
    | with_reducible refine Still.of_eq (by assumption) ?_
    | with_reducible refine Still.of_eq_snd (by assumption) ?_
    | simp only [still_mk]
    | split

theorem State.noteRead_still {r s : State} (h : r.Still s) (k : ℕ) (a : ℕ) : r.Still (State.noteRead s k a) := by
  unfold State.noteRead
  repeat' first
    | with_reducible assumption
    | with_reducible exact Still.refl _
    | with_reducible apply Still.ite
    | with_reducible apply ueLog_still
    | with_reducible apply uncorrectable_still
    | with_reducible apply bump_still
    | with_reducible apply setH_still
    | exact Fld.turnFree rfl
    | exact balFld_free _
    | decide
    | with_reducible apply stillParts_of
    | intro _
    | with_reducible refine Still.of_eq (by assumption) ?_
    | with_reducible refine Still.of_eq_snd (by assumption) ?_
    | simp only [still_mk]
    | split

theorem State.bankReads_still {r : State} {o : State.BankOut} (h : r.Still o.st) (k : ℕ) (p : ℕ) (rs : List (ℕ × ℕ)) :
    r.Still (State.bankReads o k p rs).1.st := h

theorem State.gemvStore_still {r : State} {o : State.BankOut} (h : r.Still o.st) (k : ℕ) (p : ℕ) (d : ℕ) (g : ℕ) (t : ℕ) : r.Still (State.gemvStore o
    k p d g t).st := by
  unfold State.gemvStore
  repeat' first
    | with_reducible assumption
    | with_reducible exact Still.refl _
    | with_reducible apply Still.ite
    | with_reducible apply Still.ite_st
    | with_reducible apply bankReads_still
    | with_reducible apply eaWrite_still
    | exact Fld.turnFree rfl
    | exact balFld_free _
    | decide
    | with_reducible apply stillParts_of
    | intro _
    | with_reducible refine Still.of_eq (by assumption) ?_
    | with_reducible refine Still.of_eq_snd (by assumption) ?_
    | simp only [still_mk]
    | split

theorem State.gemvBlock_still {r : State} {o : State.BankOut} (h : r.Still o.st) (k : ℕ) (p : ℕ) (d : ℕ) (g : ℕ) (kb : ℕ) : r.Still (State.gemvBlock o
    k p d g kb).st := by
  unfold State.gemvBlock
  repeat' first
    | with_reducible assumption
    | with_reducible exact Still.refl _
    | with_reducible apply Still.ite
    | with_reducible apply Still.ite_st
    | with_reducible apply bankReads_still
    | exact Fld.turnFree rfl
    | exact balFld_free _
    | decide
    | with_reducible apply stillParts_of
    | intro _
    | with_reducible refine Still.of_eq (by assumption) ?_
    | with_reducible refine Still.of_eq_snd (by assumption) ?_
    | simp only [still_mk]
    | split

theorem State.gemvStep_still {r0 : State} {o : State.BankOut} (h : r0.Still o.st) (k : ℕ) (p : ℕ) (d : ℕ) (g : ℕ) (r : ℕ) : r0.Still (State.gemvStep o
    k p d g r).st := by
  unfold State.gemvStep
  repeat' first
    | with_reducible assumption
    | with_reducible exact Still.refl _
    | with_reducible apply Still.ite
    | with_reducible apply Still.ite_st
    | with_reducible apply gemvBlock_still
    | with_reducible apply bankReads_still
    | exact Fld.turnFree rfl
    | exact balFld_free _
    | decide
    | with_reducible apply stillParts_of
    | intro _
    | with_reducible refine Still.of_eq (by assumption) ?_
    | with_reducible refine Still.of_eq_snd (by assumption) ?_
    | simp only [still_mk]
    | split

theorem State.gemvUnit_still {r : State} {o : State.BankOut} (h : r.Still o.st) (k : ℕ) (p : ℕ) (d : ℕ) (n : ℕ) : r.Still (State.gemvUnit o k p d
    n).st := by
  unfold State.gemvUnit
  repeat' first
    | with_reducible assumption
    | with_reducible exact Still.refl _
    | with_reducible apply Still.ite
    | with_reducible apply Still.ite_st
    | with_reducible apply gemvStep_still
    | with_reducible apply gemvStore_still
    | exact Fld.turnFree rfl
    | exact balFld_free _
    | decide
    | with_reducible apply stillParts_of
    | intro _
    | with_reducible refine Still.of_eq (by assumption) ?_
    | with_reducible refine Still.of_eq_snd (by assumption) ?_
    | simp only [still_mk]
    | split

theorem State.outerUnit_still {r : State} {o : State.BankOut} (h : r.Still o.st) (k : ℕ) (p : ℕ) (d : ℕ) (n : ℕ) : r.Still (State.outerUnit o k p d
    n).st := by
  unfold State.outerUnit
  repeat' first
    | with_reducible assumption
    | with_reducible exact Still.refl _
    | with_reducible apply Still.ite
    | with_reducible apply Still.ite_st
    | with_reducible apply bankReads_still
    | with_reducible apply eaWrite_still
    | rw [List.foldl_cons]
    | rw [List.foldl_nil]
    | exact Fld.turnFree rfl
    | exact balFld_free _
    | decide
    | with_reducible refine Still.foldl ?_ (fun u x => ?_)
    | with_reducible refine Still.foldl_fst ?_ (fun u x => ?_)
    | with_reducible refine Still.foldl_st ?_ (fun u x => ?_)
    | with_reducible apply stillParts_of
    | intro _
    | with_reducible refine Still.of_eq (by assumption) ?_
    | with_reducible refine Still.of_eq_snd (by assumption) ?_
    | simp only [still_mk]
    | split

theorem State.rowaddIndex_still {r : State} {o : State.BankOut} (h : r.Still o.st) (k : ℕ) (p : ℕ) (d : ℕ) (i : ℕ) : r.Still (State.rowaddIndex o k p
    d i).st := by
  unfold State.rowaddIndex
  repeat' first
    | with_reducible assumption
    | with_reducible exact Still.refl _
    | with_reducible apply Still.ite
    | with_reducible apply Still.ite_st
    | with_reducible apply bankReads_still
    | exact Fld.turnFree rfl
    | exact balFld_free _
    | decide
    | with_reducible apply stillParts_of
    | intro _
    | with_reducible refine Still.of_eq (by assumption) ?_
    | with_reducible refine Still.of_eq_snd (by assumption) ?_
    | simp only [still_mk]
    | split

theorem State.rowaddUnit_still {r : State} {o : State.BankOut} (h : r.Still o.st) (k : ℕ) (p : ℕ) (d : ℕ) (n : ℕ) : r.Still (State.rowaddUnit o k p d
    n).st := by
  unfold State.rowaddUnit
  repeat' first
    | with_reducible assumption
    | with_reducible exact Still.refl _
    | with_reducible apply Still.ite
    | with_reducible apply Still.ite_st
    | with_reducible apply rowaddIndex_still
    | with_reducible apply bankReads_still
    | with_reducible apply eaWrite_still
    | exact Fld.turnFree rfl
    | exact balFld_free _
    | decide
    | with_reducible apply stillParts_of
    | intro _
    | with_reducible refine Still.of_eq (by assumption) ?_
    | with_reducible refine Still.of_eq_snd (by assumption) ?_
    | simp only [still_mk]
    | split

theorem State.burstUnit_still {r : State} {o : State.BankOut} (h : r.Still o.st) (k : ℕ) (p : ℕ) (d : ℕ) (n : ℕ) : r.Still (State.burstUnit o k p d
    n).st := by
  unfold State.burstUnit
  repeat' first
    | with_reducible assumption
    | with_reducible exact Still.refl _
    | with_reducible apply Still.ite
    | with_reducible apply Still.ite_st
    | with_reducible apply gemvUnit_still
    | with_reducible apply outerUnit_still
    | with_reducible apply rowaddUnit_still
    | exact Fld.turnFree rfl
    | exact balFld_free _
    | decide
    | with_reducible apply stillParts_of
    | intro _
    | with_reducible refine Still.of_eq (by assumption) ?_
    | with_reducible refine Still.of_eq_snd (by assumption) ?_
    | simp only [still_mk]
    | split

theorem State.runUnits_still {r s : State} (h : r.Still s) (k : ℕ) (p : ℕ) (d : ℕ) (n : ℕ) : r.Still (State.runUnits s k p d n).st := by
  unfold State.runUnits
  repeat' first
    | with_reducible assumption
    | with_reducible exact Still.refl _
    | with_reducible apply Still.ite
    | with_reducible apply Still.ite_st
    | with_reducible apply burstUnit_still
    | rw [List.foldl_cons]
    | rw [List.foldl_nil]
    | exact Fld.turnFree rfl
    | exact balFld_free _
    | decide
    | with_reducible refine Still.foldl ?_ (fun u x => ?_)
    | with_reducible refine Still.foldl_fst ?_ (fun u x => ?_)
    | with_reducible refine Still.foldl_st ?_ (fun u x => ?_)
    | with_reducible apply stillParts_of
    | intro _
    | with_reducible refine Still.of_eq (by assumption) ?_
    | with_reducible refine Still.of_eq_snd (by assumption) ?_
    | simp only [still_mk]
    | split

theorem State.performCmd_still {r s : State} (h : r.Still s) (k : ℕ) (p : ℕ) (d : ℕ) (n : ℕ) (fin : Option ℕ) : r.Still (State.performCmd s k p d n
    fin) := by
  unfold State.performCmd
  repeat' first
    | with_reducible assumption
    | with_reducible exact Still.refl _
    | with_reducible apply Still.ite
    | with_reducible apply Still.ite_st
    | with_reducible apply runUnits_still
    | with_reducible apply setEngine_still
    | with_reducible apply retireCmd_still
    | with_reducible apply noteRead_still
    | rw [List.foldl_cons]
    | rw [List.foldl_nil]
    | exact Fld.turnFree rfl
    | exact balFld_free _
    | decide
    | with_reducible refine Still.foldl ?_ (fun u x => ?_)
    | with_reducible refine Still.foldl_fst ?_ (fun u x => ?_)
    | with_reducible refine Still.foldl_st ?_ (fun u x => ?_)
    | with_reducible apply stillParts_of
    | intro _
    | with_reducible refine Still.of_eq (by assumption) ?_
    | with_reducible refine Still.of_eq_snd (by assumption) ?_
    | simp only [still_mk]
    | split

theorem State.burstsDone_still {r s : State} (h : r.Still s) (k : ℕ) (p : ℕ) : r.Still (State.burstsDone s k p) := by
  unfold State.burstsDone
  repeat' first
    | with_reducible assumption
    | with_reducible exact Still.refl _
    | with_reducible apply Still.ite
    | with_reducible apply performCmd_still
    | exact Fld.turnFree rfl
    | exact balFld_free _
    | decide
    | with_reducible apply stillParts_of
    | intro _
    | with_reducible refine Still.of_eq (by assumption) ?_
    | with_reducible refine Still.of_eq_snd (by assumption) ?_
    | simp only [still_mk]
    | split

theorem State.stepCmd_still {r s : State} (h : r.Still s) (k : ℕ) (p : ℕ) (isOp : ℕ → Bool) : r.Still (State.stepCmd s k p isOp) := by
  unfold State.stepCmd
  repeat' first
    | with_reducible assumption
    | with_reducible exact Still.refl _
    | with_reducible apply Still.ite
    | with_reducible apply burstsDone_still
    | with_reducible apply performCmd_still
    | with_reducible apply ev_still
    | with_reducible apply retireCmd_still
    | with_reducible apply syncBusy_still
    | with_reducible apply setEngine_still
    | exact Fld.turnFree rfl
    | exact balFld_free _
    | decide
    | with_reducible apply stillParts_of
    | intro _
    | with_reducible refine Still.of_eq (by assumption) ?_
    | with_reducible refine Still.of_eq_snd (by assumption) ?_
    | simp only [still_mk]
    | split

theorem State.signalCmd_still {r s : State} (h : r.Still s) (k : ℕ) (p : ℕ) : r.Still (State.signalCmd s k p) := by
  unfold State.signalCmd
  repeat' first
    | with_reducible assumption
    | with_reducible exact Still.refl _
    | with_reducible apply Still.ite
    | with_reducible apply retireCmd_still
    | with_reducible apply signalBar_still
    | with_reducible apply setEngine_still
    | exact Fld.turnFree rfl
    | exact balFld_free _
    | decide
    | with_reducible apply stillParts_of
    | intro _
    | with_reducible refine Still.of_eq (by assumption) ?_
    | with_reducible refine Still.of_eq_snd (by assumption) ?_
    | simp only [still_mk]
    | split

theorem State.copyOnce_still {r s : State} (h : r.Still s) (k : ℕ) (p : ℕ) : r.Still (State.copyOnce s k p) := by
  unfold State.copyOnce
  repeat' first
    | with_reducible assumption
    | with_reducible exact Still.refl _
    | with_reducible apply Still.ite
    | with_reducible apply setEngine_still
    | with_reducible apply eaWrite_still
    | exact Fld.turnFree rfl
    | exact balFld_free _
    | decide
    | with_reducible apply stillParts_of
    | intro _
    | with_reducible refine Still.of_eq (by assumption) ?_
    | with_reducible refine Still.of_eq_snd (by assumption) ?_
    | simp only [still_mk]
    | split

theorem State.cutEngines_still {r s : State} (h : r.Still s) : r.Still (State.cutEngines s) := by
  unfold State.cutEngines
  repeat' first
    | with_reducible assumption
    | with_reducible exact Still.refl _
    | with_reducible apply Still.ite
    | with_reducible apply performCmd_still
    | rw [List.foldl_cons]
    | rw [List.foldl_nil]
    | exact Fld.turnFree rfl
    | exact balFld_free _
    | decide
    | with_reducible refine Still.foldl ?_ (fun u x => ?_)
    | with_reducible refine Still.foldl_fst ?_ (fun u x => ?_)
    | with_reducible apply stillParts_of
    | intro _
    | with_reducible refine Still.of_eq (by assumption) ?_
    | with_reducible refine Still.of_eq_snd (by assumption) ?_
    | simp only [still_mk]
    | split

theorem State.zeroRegs_still {r s : State} (h : r.Still s) : r.Still (State.zeroRegs s) := by
  unfold State.zeroRegs
  repeat' first
    | with_reducible assumption
    | with_reducible exact Still.refl _
    | with_reducible apply Still.ite
    | exact Fld.turnFree rfl
    | exact balFld_free _
    | decide
    | with_reducible apply stillParts_of
    | intro _
    | with_reducible refine Still.of_eq (by assumption) ?_
    | with_reducible refine Still.of_eq_snd (by assumption) ?_
    | simp only [still_mk]
    | split

theorem State.windowDo_still {r s : State} (h : r.Still s) (w : WinWrite) (k : ℕ) (inside : Bool) (f : State → State) (hf : ∀ (u : State), u.Still (f
    u)) : r.Still (State.windowDo s w k inside f) := by
  unfold State.windowDo
  repeat' first
    | with_reducible assumption
    | with_reducible exact Still.refl _
    | with_reducible apply Still.ite
    | with_reducible refine Still.trans ?_ (hf _)
    | with_reducible apply raiseFault_still
    | exact Fld.turnFree rfl
    | exact balFld_free _
    | decide
    | with_reducible apply stillParts_of
    | intro _
    | with_reducible refine Still.of_eq (by assumption) ?_
    | with_reducible refine Still.of_eq_snd (by assumption) ?_
    | simp only [still_mk]
    | split

theorem execCommandPush_still (w : WinWrite) (k : ℕ) (p : ℕ) (full : Bool) (line : Line) {s : State} : s.StillNext (execCommandPush w k p full line s)
    := by
  unfold execCommandPush
  repeat' first
    | with_reducible assumption
    | with_reducible exact Still.refl _
    | with_reducible apply StillNext.next
    | with_reducible apply StillNext.ite
    | with_reducible apply Still.ite
    | with_reducible apply windowDo_still
    | with_reducible apply pushEngine_still
    | with_reducible apply windowErr_still
    | exact Fld.turnFree rfl
    | exact balFld_free _
    | decide
    | with_reducible apply stillParts_of
    | intro _
    | with_reducible refine Still.of_eq (by assumption) ?_
    | with_reducible refine Still.of_eq_snd (by assumption) ?_
    | simp only [still_mk]
    | split

theorem execBroadcastPush_still (w : WinWrite) (k : ℕ) (full : Bool) (line : Line) {s : State} : s.StillNext (execBroadcastPush w k full line s) := by
  unfold execBroadcastPush
  repeat' first
    | with_reducible assumption
    | with_reducible exact Still.refl _
    | with_reducible apply StillNext.next
    | with_reducible apply StillNext.ite
    | with_reducible apply Still.ite
    | with_reducible apply windowDo_still
    | with_reducible apply pushAll_still
    | with_reducible apply windowErr_still
    | exact Fld.turnFree rfl
    | exact balFld_free _
    | decide
    | with_reducible apply stillParts_of
    | intro _
    | with_reducible refine Still.of_eq (by assumption) ?_
    | with_reducible refine Still.of_eq_snd (by assumption) ?_
    | simp only [still_mk]
    | split

theorem execBroadcastDataWrite_still (w : WinWrite) (k : ℕ) (off : ℕ) (data : List Byte) {s : State} : s.StillNext (execBroadcastDataWrite w k off
    data s) := by
  unfold execBroadcastDataWrite
  repeat' first
    | with_reducible assumption
    | with_reducible exact Still.refl _
    | with_reducible apply StillNext.next
    | with_reducible apply StillNext.ite
    | with_reducible apply Still.ite
    | with_reducible apply windowDo_still
    | with_reducible apply bcastData_still
    | exact Fld.turnFree rfl
    | exact balFld_free _
    | decide
    | with_reducible apply stillParts_of
    | intro _
    | with_reducible refine Still.of_eq (by assumption) ?_
    | with_reducible refine Still.of_eq_snd (by assumption) ?_
    | simp only [still_mk]
    | split

theorem execBroadcastCopy_still (k : ℕ) (p : ℕ) {s : State} : s.StillNext (execBroadcastCopy k p s) := by
  unfold execBroadcastCopy
  repeat' first
    | with_reducible assumption
    | with_reducible exact Still.refl _
    | with_reducible apply StillNext.next
    | with_reducible apply StillNext.ite
    | with_reducible apply Still.ite
    | with_reducible apply copyOnce_still
    | with_reducible apply burstsDone_still
    | exact Fld.turnFree rfl
    | exact balFld_free _
    | decide
    | with_reducible apply stillParts_of
    | intro _
    | with_reducible refine Still.of_eq (by assumption) ?_
    | with_reducible refine Still.of_eq_snd (by assumption) ?_
    | simp only [still_mk]
    | split

theorem execEngineClear_still (w : WinWrite) (k : ℕ) (p : ℕ) (full : Bool) {s : State} : s.StillNext (execEngineClear w k p full s) := by
  unfold execEngineClear
  repeat' first
    | with_reducible assumption
    | with_reducible exact Still.refl _
    | with_reducible apply StillNext.next
    | with_reducible apply StillNext.ite
    | with_reducible apply Still.ite
    | with_reducible apply windowDo_still
    | with_reducible apply clearEngine_still
    | exact Fld.turnFree rfl
    | exact balFld_free _
    | decide
    | with_reducible apply stillParts_of
    | intro _
    | with_reducible refine Still.of_eq (by assumption) ?_
    | with_reducible refine Still.of_eq_snd (by assumption) ?_
    | simp only [still_mk]
    | split

theorem execBankReady_still (k : ℕ) {s : State} : s.StillNext (execBankReady k s) := by
  unfold execBankReady
  repeat' first
    | with_reducible assumption
    | with_reducible exact Still.refl _
    | with_reducible apply StillNext.next
    | with_reducible apply StillNext.ite
    | with_reducible apply Still.ite
    | with_reducible apply wr_still
    | with_reducible apply flushLines_still
    | exact Fld.turnFree rfl
    | exact balFld_free _
    | decide
    | with_reducible apply stillParts_of
    | intro _
    | with_reducible refine Still.of_eq (by assumption) ?_
    | with_reducible refine Still.of_eq_snd (by assumption) ?_
    | simp only [still_mk]
    | split

theorem execBurstBoundary_still (k : ℕ) (p : ℕ) (hold : ℕ) (yielded : ℕ) {s : State} : s.StillNext (execBurstBoundary k p hold yielded s) := by
  unfold execBurstBoundary
  repeat' first
    | with_reducible assumption
    | with_reducible exact Still.refl _
    | with_reducible apply StillNext.next
    | with_reducible apply StillNext.ite
    | with_reducible apply Still.ite
    | with_reducible apply burstsDone_still
    | with_reducible apply ev_still
    | with_reducible apply bump_still
    | with_reducible apply serveBanks_still
    | with_reducible apply setEngine_still
    | exact Fld.turnFree rfl
    | exact balFld_free _
    | decide
    | with_reducible apply stillParts_of
    | intro _
    | with_reducible refine Still.of_eq (by assumption) ?_
    | with_reducible refine Still.of_eq_snd (by assumption) ?_
    | simp only [still_mk]
    | split

theorem State.scratchWrite_still {r s : State} (h : r.Still s) (q : ℕ) (a : ℕ) (d : List Byte) : r.Still (State.scratchWrite s q a d) := by
  unfold State.scratchWrite
  repeat' first
    | with_reducible assumption
    | with_reducible exact Still.refl _
    | with_reducible apply Still.ite
    | with_reducible apply writePiece_still
    | rw [List.foldl_cons]
    | rw [List.foldl_nil]
    | exact Fld.turnFree rfl
    | exact balFld_free _
    | decide
    | with_reducible refine Still.foldl ?_ (fun u x => ?_)
    | with_reducible refine Still.foldl_fst ?_ (fun u x => ?_)
    | with_reducible apply stillParts_of
    | intro _
    | with_reducible refine Still.of_eq (by assumption) ?_
    | with_reducible refine Still.of_eq_snd (by assumption) ?_
    | simp only [still_mk]
    | split

theorem State.setSlot_still {r s : State} (h : r.Still s) (u : ℕ) (k : ℕ) (st : ℕ) (q : ℕ) : r.Still (State.setSlot s u k st q) := by
  unfold State.setSlot
  repeat' first
    | with_reducible assumption
    | with_reducible exact Still.refl _
    | with_reducible apply Still.ite
    | with_reducible apply wr_still
    | exact Fld.turnFree rfl
    | exact balFld_free _
    | decide
    | with_reducible apply stillParts_of
    | intro _
    | with_reducible refine Still.of_eq (by assumption) ?_
    | with_reducible refine Still.of_eq_snd (by assumption) ?_
    | simp only [still_mk]
    | split

theorem State.pagesHome_still {r s : State} (h : r.Still s) (c : Client) (u : ℕ) (va : ℕ) (n : ℕ) (write : Bool) (y6 : ℕ) : r.Still (State.pagesHome s
    c u va n write y6).1 := by
  induction y6 generalizing s c u va n write with
  | zero =>
    unfold State.pagesHome
    repeat' first
      | with_reducible assumption
      | with_reducible exact Still.refl _
      | with_reducible apply Still.ite
      | with_reducible apply Still.ite_fst
      | with_reducible apply xlate_still
      | exact Fld.turnFree rfl
      | exact balFld_free _
      | decide
      | with_reducible apply stillParts_of
      | intro _
      | with_reducible refine Still.of_eq (by assumption) ?_
      | with_reducible refine Still.of_eq_snd (by assumption) ?_
      | simp only [still_mk]
      | split
  | succ n0 ih =>
    unfold State.pagesHome
    repeat' first
      | with_reducible assumption
      | with_reducible exact Still.refl _
      | with_reducible apply Still.ite
      | with_reducible apply Still.ite_fst
      | with_reducible apply xlate_still
      | with_reducible apply ih
      | exact Fld.turnFree rfl
      | exact balFld_free _
      | decide
      | with_reducible apply stillParts_of
      | intro _
      | with_reducible refine Still.of_eq (by assumption) ?_
      | with_reducible refine Still.of_eq_snd (by assumption) ?_
      | simp only [still_mk]
      | split

theorem State.inHome_still {r s : State} (h : r.Still s) (c : Client) (u : ℕ) (va : ℕ) (n : ℕ) (write : Bool) : r.Still (State.inHome s c u va n
    write).1 := by
  unfold State.inHome
  repeat' first
    | with_reducible assumption
    | with_reducible exact Still.refl _
    | with_reducible apply Still.ite
    | with_reducible apply Still.ite_fst
    | with_reducible apply pagesHome_still
    | exact Fld.turnFree rfl
    | exact balFld_free _
    | decide
    | with_reducible apply stillParts_of
    | intro _
    | with_reducible refine Still.of_eq (by assumption) ?_
    | with_reducible refine Still.of_eq_snd (by assumption) ?_
    | simp only [still_mk]
    | split

theorem State.homeWrite_still {r s : State} (h : r.Still s) (c : Client) (u : ℕ) (va : ℕ) (d : List Byte) : r.Still (State.homeWrite s c u va d).1 :=
    by
  unfold State.homeWrite
  repeat' first
    | with_reducible assumption
    | with_reducible exact Still.refl _
    | with_reducible apply Still.ite
    | with_reducible apply Still.ite_fst
    | with_reducible apply inHome_still
    | with_reducible apply vwrite_still
    | exact Fld.turnFree rfl
    | exact balFld_free _
    | decide
    | with_reducible apply stillParts_of
    | intro _
    | with_reducible refine Still.of_eq (by assumption) ?_
    | with_reducible refine Still.of_eq_snd (by assumption) ?_
    | simp only [still_mk]
    | split

theorem State.homeRead_still {r s : State} (h : r.Still s) (c : Client) (u : ℕ) (va : ℕ) (n : ℕ) : r.Still (State.homeRead s c u va n).1 := by
  unfold State.homeRead
  repeat' first
    | with_reducible assumption
    | with_reducible exact Still.refl _
    | with_reducible apply Still.ite
    | with_reducible apply Still.ite_fst
    | with_reducible apply inHome_still
    | with_reducible apply vread_still
    | exact Fld.turnFree rfl
    | exact balFld_free _
    | decide
    | with_reducible apply stillParts_of
    | intro _
    | with_reducible refine Still.of_eq (by assumption) ?_
    | with_reducible refine Still.of_eq_snd (by assumption) ?_
    | simp only [still_mk]
    | split

theorem State.syncUnit_still {r s : State} (h : r.Still s) (u : ℕ) : r.Still (State.syncUnit s u) := by
  unfold State.syncUnit
  repeat' first
    | with_reducible assumption
    | with_reducible exact Still.refl _
    | with_reducible apply Still.ite
    | with_reducible apply wr_still
    | exact Fld.turnFree rfl
    | exact balFld_free _
    | decide
    | with_reducible apply stillParts_of
    | intro _
    | with_reducible refine Still.of_eq (by assumption) ?_
    | with_reducible refine Still.of_eq_snd (by assumption) ?_
    | simp only [still_mk]
    | split

theorem State.putLine_still {r s : State} (h : r.Still s) (c : Client) (recVA : ℕ) (line : ℕ) : r.Still (State.putLine s c recVA line).1 := by
  unfold State.putLine
  repeat' first
    | with_reducible assumption
    | with_reducible exact Still.refl _
    | with_reducible apply Still.ite
    | with_reducible apply Still.ite_fst
    | with_reducible apply vwrite_still
    | exact Fld.turnFree rfl
    | exact balFld_free _
    | decide
    | with_reducible apply stillParts_of
    | intro _
    | with_reducible refine Still.of_eq (by assumption) ?_
    | with_reducible refine Still.of_eq_snd (by assumption) ?_
    | simp only [still_mk]
    | split

theorem State.readRec_still {r s : State} (h : r.Still s) (c : Client) (recVA : ℕ) : r.Still (State.readRec s c recVA).1 := by
  unfold State.readRec
  repeat' first
    | with_reducible assumption
    | with_reducible exact Still.refl _
    | with_reducible apply Still.ite
    | with_reducible apply Still.ite_fst
    | with_reducible apply vread_still
    | exact Fld.turnFree rfl
    | exact balFld_free _
    | decide
    | with_reducible apply stillParts_of
    | intro _
    | with_reducible refine Still.of_eq (by assumption) ?_
    | with_reducible refine Still.of_eq_snd (by assumption) ?_
    | simp only [still_mk]
    | split

theorem State.unitFail_still {r s : State} (h : r.Still s) (o : Op) (st : ℕ) : r.Still (State.unitFail s o st) := by
  unfold State.unitFail
  repeat' first
    | with_reducible assumption
    | with_reducible exact Still.refl _
    | with_reducible apply Still.ite
    | with_reducible apply syncUnit_still
    | with_reducible apply finish_still
    | exact Fld.turnFree rfl
    | exact balFld_free _
    | decide
    | with_reducible apply stillParts_of
    | intro _
    | with_reducible refine Still.of_eq (by assumption) ?_
    | with_reducible refine Still.of_eq_snd (by assumption) ?_
    | simp only [still_mk]
    | split

theorem State.unitStart_still {r s : State} (h : r.Still s) (o : Op) : r.Still (State.unitStart s o) := by
  unfold State.unitStart
  repeat' first
    | with_reducible assumption
    | with_reducible exact Still.refl _
    | with_reducible apply Still.ite
    | with_reducible apply Still.ite_fst
    | with_reducible apply setOp_still
    | with_reducible apply ev_still
    | with_reducible apply unitFail_still
    | with_reducible apply inHome_still
    | with_reducible apply readRec_still
    | with_reducible apply vread_still
    | with_reducible apply syncUnit_still
    | with_reducible apply putLine_still
    | with_reducible apply updOp_still
    | exact Fld.turnFree rfl
    | exact balFld_free _
    | decide
    | with_reducible apply stillParts_of
    | intro _
    | with_reducible refine Still.of_eq (by assumption) ?_
    | with_reducible refine Still.of_eq_snd (by assumption) ?_
    | simp only [still_mk]
    | split

theorem State.unitBusy_still {r s : State} (h : r.Still s) (u : ℕ) (n : ℕ) : r.Still (State.unitBusy s u n) := by
  unfold State.unitBusy
  repeat' first
    | with_reducible assumption
    | with_reducible exact Still.refl _
    | with_reducible apply Still.ite
    | with_reducible apply setH_still
    | exact Fld.turnFree rfl
    | exact balFld_free _
    | decide
    | with_reducible apply stillParts_of
    | intro _
    | with_reducible refine Still.of_eq (by assumption) ?_
    | with_reducible refine Still.of_eq_snd (by assumption) ?_
    | simp only [still_mk]
    | split

theorem State.openSlot_still {r s : State} (h : r.Still s) (o : Op) (u : ℕ) (k : ℕ) (shard : ℕ) (gclr : Bool) (ra : Option (List Byte)) (rb : Option
    (List Byte)) (rc : Option (List Byte)) (fl : ℕ) (nf : ℕ) (cycles : ℕ) (poison : Bool) : r.Still (State.openSlot s o u k shard gclr ra rb rc fl nf
    cycles poison) := by
  unfold State.openSlot
  repeat' first
    | with_reducible assumption
    | with_reducible exact Still.refl _
    | with_reducible apply Still.ite
    | with_reducible apply scratchWrite_still
    | with_reducible apply setSlot_still
    | with_reducible apply unitBusy_still
    | with_reducible apply setOp_still
    | exact Fld.turnFree rfl
    | exact balFld_free _
    | decide
    | with_reducible apply stillParts_of
    | intro _
    | with_reducible refine Still.of_eq (by assumption) ?_
    | with_reducible refine Still.of_eq_snd (by assumption) ?_
    | simp only [still_mk]
    | split

theorem State.journalWait_still {r s : State} (h : r.Still s) (u : ℕ) (q : ℕ) (on : Bool) : r.Still (State.journalWait s u q on) := by
  unfold State.journalWait
  repeat' first
    | with_reducible assumption
    | with_reducible exact Still.refl _
    | with_reducible apply Still.ite
    | with_reducible apply span_still
    | exact Fld.turnFree rfl
    | exact balFld_free _
    | decide
    | with_reducible apply stillParts_of
    | intro _
    | with_reducible refine Still.of_eq (by assumption) ?_
    | with_reducible refine Still.of_eq_snd (by assumption) ?_
    | simp only [still_mk]
    | split

theorem State.accumShard_still {r0 s : State} (h : r0.Still s) (o : Op) (r : ℕ) (u : ℕ) (k : ℕ) : r0.Still (State.accumShard s o r u k) := by
  unfold State.accumShard
  repeat' first
    | with_reducible assumption
    | with_reducible exact Still.refl _
    | with_reducible apply Still.ite
    | with_reducible apply Still.ite_fst
    | with_reducible apply homeRead_still
    | with_reducible apply unitFail_still
    | with_reducible apply vread_still
    | with_reducible apply openSlot_still
    | rw [List.foldl_cons]
    | rw [List.foldl_nil]
    | exact Fld.turnFree rfl
    | exact balFld_free _
    | decide
    | with_reducible refine Still.foldl ?_ (fun u x => ?_)
    | with_reducible refine Still.foldl_fst ?_ (fun u x => ?_)
    | with_reducible apply stillParts_of
    | intro _
    | with_reducible refine Still.of_eq (by assumption) ?_
    | with_reducible refine Still.of_eq_snd (by assumption) ?_
    | simp only [still_mk]
    | split

theorem State.applyShard_still {r0 s : State} (h : r0.Still s) (o : Op) (r : ℕ) (u : ℕ) (k : ℕ) : r0.Still (State.applyShard s o r u k) := by
  unfold State.applyShard
  repeat' first
    | with_reducible assumption
    | with_reducible exact Still.refl _
    | with_reducible apply Still.ite
    | with_reducible apply Still.ite_fst
    | with_reducible apply inHome_still
    | with_reducible apply unitFail_still
    | with_reducible apply openSlot_still
    | with_reducible apply homeRead_still
    | with_reducible apply vread_still
    | with_reducible apply fresh_still
    | rw [List.foldl_cons]
    | rw [List.foldl_nil]
    | exact Fld.turnFree rfl
    | exact balFld_free _
    | decide
    | with_reducible refine Still.foldl ?_ (fun u x => ?_)
    | with_reducible refine Still.foldl_fst ?_ (fun u x => ?_)
    | with_reducible apply stillParts_of
    | intro _
    | with_reducible refine Still.of_eq (by assumption) ?_
    | with_reducible refine Still.of_eq_snd (by assumption) ?_
    | simp only [still_mk]
    | split

theorem State.factorRow_still {r0 s : State} (h : r0.Still s) (o : Op) (r : ℕ) (u : ℕ) : r0.Still (State.factorRow s o r u) := by
  unfold State.factorRow
  repeat' first
    | with_reducible assumption
    | with_reducible exact Still.refl _
    | with_reducible apply Still.ite
    | with_reducible apply Still.ite_fst
    | with_reducible apply homeRead_still
    | with_reducible apply unitFail_still
    | with_reducible apply homeWrite_still
    | with_reducible apply unitBusy_still
    | with_reducible apply mergeFlags_still
    | with_reducible apply setOp_still
    | with_reducible apply putLine_still
    | rw [List.foldl_cons]
    | rw [List.foldl_nil]
    | exact Fld.turnFree rfl
    | exact balFld_free _
    | decide
    | with_reducible refine Still.foldl ?_ (fun u x => ?_)
    | with_reducible refine Still.foldl_fst ?_ (fun u x => ?_)
    | with_reducible apply stillParts_of
    | intro _
    | with_reducible refine Still.of_eq (by assumption) ?_
    | with_reducible refine Still.of_eq_snd (by assumption) ?_
    | simp only [still_mk]
    | split

theorem State.normShard_still {r0 s : State} (h : r0.Still s) (o : Op) (r : ℕ) (u : ℕ) : r0.Still (State.normShard s o r u) := by
  unfold State.normShard
  repeat' first
    | with_reducible assumption
    | with_reducible exact Still.refl _
    | with_reducible apply Still.ite
    | with_reducible apply Still.ite_fst
    | with_reducible apply homeRead_still
    | with_reducible apply unitFail_still
    | with_reducible apply unitBusy_still
    | with_reducible apply mergeFlags_still
    | with_reducible apply setOp_still
    | with_reducible apply vwrite_still
    | with_reducible apply syncUnit_still
    | with_reducible apply bump_still
    | rw [List.foldl_cons]
    | rw [List.foldl_nil]
    | exact Fld.turnFree rfl
    | exact balFld_free _
    | decide
    | with_reducible refine Still.foldl ?_ (fun u x => ?_)
    | with_reducible refine Still.foldl_fst ?_ (fun u x => ?_)
    | with_reducible apply stillParts_of
    | intro _
    | with_reducible refine Still.of_eq (by assumption) ?_
    | with_reducible refine Still.of_eq_snd (by assumption) ?_
    | simp only [still_mk]
    | split

theorem State.unitStep_still {r s : State} (h : r.Still s) (u : ℕ) (op : ℕ) (wait : ℕ) : r.Still (State.unitStep s u op wait) := by
  unfold State.unitStep
  repeat' first
    | with_reducible assumption
    | with_reducible exact Still.refl _
    | with_reducible apply Still.ite
    | with_reducible apply Still.ite_fst
    | with_reducible apply ev_still
    | with_reducible apply readRec_still
    | with_reducible apply unitFail_still
    | with_reducible apply normShard_still
    | with_reducible apply factorRow_still
    | with_reducible apply journalWait_still
    | with_reducible apply accumShard_still
    | with_reducible apply applyShard_still
    | with_reducible apply unitStart_still
    | exact Fld.turnFree rfl
    | exact balFld_free _
    | decide
    | with_reducible apply stillParts_of
    | intro _
    | with_reducible refine Still.of_eq (by assumption) ?_
    | with_reducible refine Still.of_eq_snd (by assumption) ?_
    | simp only [still_mk]
    | split

theorem State.unitDone_still {r s : State} (h : r.Still s) (id : ℕ) : r.Still (State.unitDone s id) := by
  unfold State.unitDone
  repeat' first
    | with_reducible assumption
    | with_reducible exact Still.refl _
    | with_reducible apply Still.ite
    | with_reducible apply setOp_still
    | exact Fld.turnFree rfl
    | exact balFld_free _
    | decide
    | with_reducible apply stillParts_of
    | intro _
    | with_reducible refine Still.of_eq (by assumption) ?_
    | with_reducible refine Still.of_eq_snd (by assumption) ?_
    | simp only [still_mk]
    | split

theorem State.freeUp_still {r s : State} (h : r.Still s) (u : ℕ) (k : ℕ) : r.Still (State.freeUp s u k) := by
  unfold State.freeUp
  repeat' first
    | with_reducible assumption
    | with_reducible exact Still.refl _
    | with_reducible apply Still.ite
    | with_reducible apply setSlot_still
    | exact Fld.turnFree rfl
    | exact balFld_free _
    | decide
    | with_reducible apply stillParts_of
    | intro _
    | with_reducible refine Still.of_eq (by assumption) ?_
    | with_reducible refine Still.of_eq_snd (by assumption) ?_
    | simp only [still_mk]
    | split

theorem State.retireSlot_still {r s : State} (h : r.Still s) (u : ℕ) (k : ℕ) (id : ℕ) : r.Still (State.retireSlot s u k id).1 := by
  unfold State.retireSlot
  repeat' first
    | with_reducible assumption
    | with_reducible exact Still.refl _
    | with_reducible apply Still.ite
    | with_reducible apply Still.ite_fst
    | with_reducible apply readRec_still
    | with_reducible apply vwrites_still
    | with_reducible apply scratchWrite_still
    | with_reducible apply unitDone_still
    | with_reducible apply freeUp_still
    | exact Fld.turnFree rfl
    | exact balFld_free _
    | decide
    | with_reducible apply stillParts_of
    | intro _
    | with_reducible refine Still.of_eq (by assumption) ?_
    | with_reducible refine Still.of_eq_snd (by assumption) ?_
    | simp only [still_mk]
    | split

theorem State.dropBad_still {r s : State} (h : r.Still s) (u : ℕ) (k : ℕ) (id : ℕ) : r.Still (State.dropBad s u k id) := by
  unfold State.dropBad
  repeat' first
    | with_reducible assumption
    | with_reducible exact Still.refl _
    | with_reducible apply Still.ite
    | with_reducible apply scratchWrite_still
    | with_reducible apply unitDone_still
    | with_reducible apply mcLog_still
    | with_reducible apply mark_still
    | with_reducible apply freeUp_still
    | exact Fld.turnFree rfl
    | exact balFld_free _
    | decide
    | with_reducible apply stillParts_of
    | intro _
    | with_reducible refine Still.of_eq (by assumption) ?_
    | with_reducible refine Still.of_eq_snd (by assumption) ?_
    | simp only [still_mk]
    | split

theorem State.abortRetire_still {r s : State} (h : r.Still s) (u : ℕ) : r.Still (State.abortRetire s u) := by
  unfold State.abortRetire
  repeat' first
    | with_reducible assumption
    | with_reducible exact Still.refl _
    | with_reducible apply Still.ite
    | with_reducible apply dropBad_still
    | exact Fld.turnFree rfl
    | exact balFld_free _
    | decide
    | with_reducible apply stillParts_of
    | intro _
    | with_reducible refine Still.of_eq (by assumption) ?_
    | with_reducible refine Still.of_eq_snd (by assumption) ?_
    | simp only [still_mk]
    | split

theorem State.settleUnits_still {r s : State} (h : r.Still s) : r.Still (State.settleUnits s) := by
  unfold State.settleUnits
  repeat' first
    | with_reducible assumption
    | with_reducible exact Still.refl _
    | with_reducible apply Still.ite
    | with_reducible apply Still.ite_fst
    | with_reducible apply mark_still
    | with_reducible apply freeUp_still
    | with_reducible apply scratchWrite_still
    | with_reducible apply retireSlot_still
    | with_reducible apply dropBad_still
    | rw [List.foldl_cons]
    | rw [List.foldl_nil]
    | exact Fld.turnFree rfl
    | exact balFld_free _
    | decide
    | with_reducible refine Still.foldl ?_ (fun u x => ?_)
    | with_reducible refine Still.foldl_fst ?_ (fun u x => ?_)
    | with_reducible apply stillParts_of
    | intro _
    | with_reducible refine Still.of_eq (by assumption) ?_
    | with_reducible refine Still.of_eq_snd (by assumption) ?_
    | simp only [still_mk]
    | split

theorem State.rebuildSlots_still {r s : State} (h : r.Still s) : r.Still (State.rebuildSlots s) := by
  unfold State.rebuildSlots
  repeat' first
    | with_reducible assumption
    | with_reducible exact Still.refl _
    | with_reducible apply Still.ite
    | with_reducible apply setSlot_still
    | rw [List.foldl_cons]
    | rw [List.foldl_nil]
    | exact Fld.turnFree rfl
    | exact balFld_free _
    | decide
    | with_reducible refine Still.foldl ?_ (fun u x => ?_)
    | with_reducible refine Still.foldl_fst ?_ (fun u x => ?_)
    | with_reducible apply stillParts_of
    | intro _
    | with_reducible refine Still.of_eq (by assumption) ?_
    | with_reducible refine Still.of_eq_snd (by assumption) ?_
    | simp only [still_mk]
    | split

theorem State.unitPark_still {r s : State} (h : r.Still s) (o : Op) : r.Still (State.unitPark s o) := by
  unfold State.unitPark
  repeat' first
    | with_reducible assumption
    | with_reducible exact Still.refl _
    | with_reducible apply Still.ite
    | with_reducible apply Still.ite_fst
    | with_reducible apply vwrite_still
    | with_reducible apply readRec_still
    | with_reducible apply putLine_still
    | exact Fld.turnFree rfl
    | exact balFld_free _
    | decide
    | with_reducible apply stillParts_of
    | intro _
    | with_reducible refine Still.of_eq (by assumption) ?_
    | with_reducible refine Still.of_eq_snd (by assumption) ?_
    | simp only [still_mk]
    | split

theorem State.giveVerdict_still {r s : State} (h : r.Still s) (q : ℕ) (n : ℕ) (skip : Bool) : r.Still (State.giveVerdict s q n skip).1 := by
  unfold State.giveVerdict
  repeat' first
    | with_reducible assumption
    | with_reducible exact Still.refl _
    | with_reducible apply Still.ite
    | with_reducible apply Still.ite_fst
    | with_reducible apply mark_still
    | with_reducible apply wr_still
    | exact Fld.turnFree rfl
    | exact balFld_free _
    | decide
    | with_reducible apply stillParts_of
    | intro _
    | with_reducible refine Still.of_eq (by assumption) ?_
    | with_reducible refine Still.of_eq_snd (by assumption) ?_
    | simp only [still_mk]
    | split

theorem State.setObj_still {r s : State} (h : r.Still s) (k : ℕ) (b : List Byte) : r.Still (State.setObj s k b) := by
  unfold State.setObj
  repeat' first
    | with_reducible assumption
    | with_reducible exact Still.refl _
    | with_reducible apply Still.ite
    | exact Fld.turnFree rfl
    | exact balFld_free _
    | decide
    | with_reducible apply stillParts_of
    | intro _
    | with_reducible refine Still.of_eq (by assumption) ?_
    | with_reducible refine Still.of_eq_snd (by assumption) ?_
    | simp only [still_mk]
    | split

theorem State.orBit_still {r s : State} (h : r.Still s) (f : Fld) (u : ℕ) (i : ℕ) (hff : f.perTurn = false) : r.Still (State.orBit s f u i) := by
  unfold State.orBit
  repeat' first
    | with_reducible assumption
    | with_reducible exact Still.refl _
    | with_reducible apply Still.ite
    | with_reducible apply wr_still
    | exact Fld.turnFree rfl
    | exact balFld_free _
    | decide
    | with_reducible apply stillParts_of
    | intro _
    | with_reducible refine Still.of_eq (by assumption) ?_
    | with_reducible refine Still.of_eq_snd (by assumption) ?_
    | simp only [still_mk]
    | split

theorem State.removeUnit_still {r s : State} (h : r.Still s) (cls : ℕ) (u : ℕ) (i : ℕ) : r.Still (State.removeUnit s cls u i) := by
  unfold State.removeUnit
  repeat' first
    | with_reducible assumption
    | with_reducible exact Still.refl _
    | with_reducible apply Still.ite
    | with_reducible apply orBit_still
    | with_reducible apply wr_still
    | with_reducible apply mcLog_still
    | with_reducible apply mark_still
    | exact Fld.turnFree rfl
    | exact balFld_free _
    | decide
    | with_reducible apply stillParts_of
    | intro _
    | with_reducible refine Still.of_eq (by assumption) ?_
    | with_reducible refine Still.of_eq_snd (by assumption) ?_
    | simp only [still_mk]
    | split

theorem State.applyOuts_still {r s : State} (h : r.Still s) : r.Still (State.applyOuts s) := by
  unfold State.applyOuts
  repeat' first
    | with_reducible assumption
    | with_reducible exact Still.refl _
    | with_reducible apply Still.ite
    | with_reducible apply dropCmds_still
    | with_reducible apply setH_still
    | rw [List.foldl_cons]
    | rw [List.foldl_nil]
    | exact Fld.turnFree rfl
    | exact balFld_free _
    | decide
    | with_reducible refine Still.foldl ?_ (fun u x => ?_)
    | with_reducible refine Still.foldl_fst ?_ (fun u x => ?_)
    | with_reducible apply stillParts_of
    | intro _
    | with_reducible refine Still.of_eq (by assumption) ?_
    | with_reducible refine Still.of_eq_snd (by assumption) ?_
    | simp only [still_mk]
    | split

theorem State.removeUnits_still {r s : State} (h : r.Still s) : r.Still (State.removeUnits s) := by
  unfold State.removeUnits
  repeat' first
    | with_reducible assumption
    | with_reducible exact Still.refl _
    | with_reducible apply Still.ite
    | with_reducible apply setH_still
    | with_reducible apply removeUnit_still
    | with_reducible apply applyOuts_still
    | rw [List.foldl_cons]
    | rw [List.foldl_nil]
    | exact Fld.turnFree rfl
    | exact balFld_free _
    | decide
    | with_reducible refine Still.foldl ?_ (fun u x => ?_)
    | with_reducible refine Still.foldl_fst ?_ (fun u x => ?_)
    | with_reducible apply stillParts_of
    | intro _
    | with_reducible refine Still.of_eq (by assumption) ?_
    | with_reducible refine Still.of_eq_snd (by assumption) ?_
    | simp only [still_mk]
    | split

theorem State.haltQuarter_still {r s : State} (h : r.Still s) (q : ℕ) (dispose : Bool) : r.Still (State.haltQuarter s q dispose) := by
  unfold State.haltQuarter
  repeat' first
    | with_reducible assumption
    | with_reducible exact Still.refl _
    | with_reducible apply Still.ite
    | with_reducible apply mark_still
    | with_reducible apply setH_still
    | exact Fld.turnFree rfl
    | exact balFld_free _
    | decide
    | with_reducible apply stillParts_of
    | intro _
    | with_reducible refine Still.of_eq (by assumption) ?_
    | with_reducible refine Still.of_eq_snd (by assumption) ?_
    | simp only [still_mk]
    | split

theorem State.haltAll_still {r s : State} (h : r.Still s) : r.Still (State.haltAll s) := by
  unfold State.haltAll
  repeat' first
    | with_reducible assumption
    | with_reducible exact Still.refl _
    | with_reducible apply Still.ite
    | with_reducible apply haltQuarter_still
    | rw [List.foldl_cons]
    | rw [List.foldl_nil]
    | exact Fld.turnFree rfl
    | exact balFld_free _
    | decide
    | with_reducible refine Still.foldl ?_ (fun u x => ?_)
    | with_reducible refine Still.foldl_fst ?_ (fun u x => ?_)
    | with_reducible apply stillParts_of
    | intro _
    | with_reducible refine Still.of_eq (by assumption) ?_
    | with_reducible refine Still.of_eq_snd (by assumption) ?_
    | simp only [still_mk]
    | split

theorem State.setLevel_still {r s : State} (h : r.Still s) : r.Still (State.setLevel s) := by
  unfold State.setLevel
  repeat' first
    | with_reducible assumption
    | with_reducible exact Still.refl _
    | with_reducible apply Still.ite
    | with_reducible apply wr_still
    | with_reducible apply haltAll_still
    | exact Fld.turnFree rfl
    | exact balFld_free _
    | decide
    | with_reducible apply stillParts_of
    | intro _
    | with_reducible refine Still.of_eq (by assumption) ?_
    | with_reducible refine Still.of_eq_snd (by assumption) ?_
    | simp only [still_mk]
    | split

theorem State.endAll_still {r s : State} (h : r.Still s) (q : ℕ) (status : ℕ) : r.Still (State.endAll s q status) := by
  unfold State.endAll
  repeat' first
    | with_reducible assumption
    | with_reducible exact Still.refl _
    | with_reducible apply Still.ite
    | with_reducible apply finish_still
    | rw [List.foldl_cons]
    | rw [List.foldl_nil]
    | exact Fld.turnFree rfl
    | exact balFld_free _
    | decide
    | with_reducible refine Still.foldl ?_ (fun u x => ?_)
    | with_reducible refine Still.foldl_fst ?_ (fun u x => ?_)
    | with_reducible apply stillParts_of
    | intro _
    | with_reducible refine Still.of_eq (by assumption) ?_
    | with_reducible refine Still.of_eq_snd (by assumption) ?_
    | simp only [still_mk]
    | split

theorem State.disposeQuarter_still {r s : State} (h : r.Still s) (q : ℕ) : r.Still (State.disposeQuarter s q) := by
  unfold State.disposeQuarter
  repeat' first
    | with_reducible assumption
    | with_reducible exact Still.refl _
    | with_reducible apply Still.ite
    | with_reducible apply syncBlanks_still
    | with_reducible apply setH_still
    | with_reducible apply endAll_still
    | exact Fld.turnFree rfl
    | exact balFld_free _
    | decide
    | with_reducible apply stillParts_of
    | intro _
    | with_reducible refine Still.of_eq (by assumption) ?_
    | with_reducible refine Still.of_eq_snd (by assumption) ?_
    | simp only [still_mk]
    | split

theorem State.releaseQuarter_still {r s : State} (h : r.Still s) (q : ℕ) : r.Still (State.releaseQuarter s q) := by
  unfold State.releaseQuarter
  repeat' first
    | with_reducible assumption
    | with_reducible exact Still.refl _
    | with_reducible apply Still.ite
    | with_reducible apply wr_still
    | with_reducible apply setH_still
    | exact Fld.turnFree rfl
    | exact balFld_free _
    | decide
    | with_reducible apply stillParts_of
    | intro _
    | with_reducible refine Still.of_eq (by assumption) ?_
    | with_reducible refine Still.of_eq_snd (by assumption) ?_
    | simp only [still_mk]
    | split

theorem State.newMeasurement_still {r s : State} (h : r.Still s) : r.Still (State.newMeasurement s) := by
  unfold State.newMeasurement
  repeat' first
    | with_reducible assumption
    | with_reducible exact Still.refl _
    | with_reducible apply Still.ite
    | with_reducible apply setH_still
    | rw [List.foldl_cons]
    | rw [List.foldl_nil]
    | exact Fld.turnFree rfl
    | exact balFld_free _
    | decide
    | with_reducible refine Still.foldl ?_ (fun u x => ?_)
    | with_reducible refine Still.foldl_fst ?_ (fun u x => ?_)
    | with_reducible apply stillParts_of
    | intro _
    | with_reducible refine Still.of_eq (by assumption) ?_
    | with_reducible refine Still.of_eq_snd (by assumption) ?_
    | simp only [still_mk]
    | split

theorem State.clearHandshakes_still {r s : State} (h : r.Still s) : r.Still (State.clearHandshakes s) := by
  unfold State.clearHandshakes
  repeat' first
    | with_reducible assumption
    | with_reducible exact Still.refl _
    | with_reducible apply Still.ite
    | with_reducible apply wr_still
    | rw [List.foldl_cons]
    | rw [List.foldl_nil]
    | exact Fld.turnFree rfl
    | exact balFld_free _
    | decide
    | with_reducible refine Still.foldl ?_ (fun u x => ?_)
    | with_reducible refine Still.foldl_fst ?_ (fun u x => ?_)
    | with_reducible apply stillParts_of
    | intro _
    | with_reducible refine Still.of_eq (by assumption) ?_
    | with_reducible refine Still.of_eq_snd (by assumption) ?_
    | simp only [still_mk]
    | split

theorem State.applySelects_still {r s : State} (h : r.Still s) : r.Still (State.applySelects s) := by
  unfold State.applySelects
  repeat' first
    | with_reducible assumption
    | with_reducible exact Still.refl _
    | with_reducible apply Still.ite
    | with_reducible apply setH_still
    | with_reducible apply wr_still
    | with_reducible apply mark_still
    | with_reducible apply newMeasurement_still
    | with_reducible apply clearHandshakes_still
    | exact Fld.turnFree rfl
    | exact balFld_free _
    | decide
    | with_reducible apply stillParts_of
    | intro _
    | with_reducible refine Still.of_eq (by assumption) ?_
    | with_reducible refine Still.of_eq_snd (by assumption) ?_
    | simp only [still_mk]
    | split

theorem State.endRestricted_still {r s : State} (h : r.Still s) : r.Still (State.endRestricted s) := by
  unfold State.endRestricted
  repeat' first
    | with_reducible assumption
    | with_reducible exact Still.refl _
    | with_reducible apply Still.ite
    | with_reducible apply wr_still
    | with_reducible apply setH_still
    | exact Fld.turnFree rfl
    | exact balFld_free _
    | decide
    | with_reducible apply stillParts_of
    | intro _
    | with_reducible refine Still.of_eq (by assumption) ?_
    | with_reducible refine Still.of_eq_snd (by assumption) ?_
    | simp only [still_mk]
    | split

theorem State.claim_still {r s : State} (h : r.Still s) (o : Op) : r.Still (State.claim s o) := by
  unfold State.claim
  repeat' first
    | with_reducible assumption
    | with_reducible exact Still.refl _
    | with_reducible apply Still.ite
    | with_reducible apply wr_still
    | exact Fld.turnFree rfl
    | exact balFld_free _
    | decide
    | with_reducible apply stillParts_of
    | intro _
    | with_reducible refine Still.of_eq (by assumption) ?_
    | with_reducible refine Still.of_eq_snd (by assumption) ?_
    | simp only [still_mk]
    | split

theorem State.issueProblem_still {r s : State} (h : r.Still s) (g : Op) : r.Still (State.issueProblem s g).1 := by
  unfold State.issueProblem
  repeat' first
    | with_reducible assumption
    | with_reducible exact Still.refl _
    | with_reducible apply Still.ite
    | with_reducible apply Still.ite_fst
    | with_reducible apply vread_still
    | with_reducible apply newId_still
    | with_reducible apply setOp_still
    | with_reducible apply finish_still
    | exact Fld.turnFree rfl
    | exact balFld_free _
    | decide
    | with_reducible apply stillParts_of
    | intro _
    | with_reducible refine Still.of_eq (by assumption) ?_
    | with_reducible refine Still.of_eq_snd (by assumption) ?_
    | simp only [still_mk]
    | split

theorem State.admissionHead_still {r s : State} (h : r.Still s) (q : ℕ) : r.Still (State.admissionHead s q).1 := by
  unfold State.admissionHead
  repeat' first
    | with_reducible assumption
    | with_reducible exact Still.refl _
    | with_reducible apply Still.ite
    | with_reducible apply Still.ite_fst
    | with_reducible apply finish_still
    | with_reducible apply issueProblem_still
    | exact Fld.turnFree rfl
    | exact balFld_free _
    | decide
    | with_reducible apply stillParts_of
    | intro _
    | with_reducible refine Still.of_eq (by assumption) ?_
    | with_reducible refine Still.of_eq_snd (by assumption) ?_
    | simp only [still_mk]
    | split

theorem State.handOver_still {r s : State} (h : r.Still s) (o : Op) : r.Still (State.handOver s o).1 := by
  unfold State.handOver
  repeat' first
    | with_reducible assumption
    | with_reducible exact Still.refl _
    | with_reducible apply Still.ite
    | with_reducible apply Still.ite_fst
    | with_reducible apply vread_still
    | exact Fld.turnFree rfl
    | exact balFld_free _
    | decide
    | with_reducible apply stillParts_of
    | intro _
    | with_reducible refine Still.of_eq (by assumption) ?_
    | with_reducible refine Still.of_eq_snd (by assumption) ?_
    | simp only [still_mk]
    | split

theorem State.admitOp_still {r s : State} (h : r.Still s) (o : Op) (new : Bool) (u : ℕ) (slice : ℕ) (charge : ℕ) : r.Still (State.admitOp s o new u
    slice charge) := by
  unfold State.admitOp
  repeat' first
    | with_reducible assumption
    | with_reducible exact Still.refl _
    | with_reducible apply Still.ite
    | with_reducible apply claim_still
    | with_reducible apply addH_still
    | with_reducible apply wr_still
    | with_reducible apply setOp_still
    | with_reducible apply syncBlanks_still
    | with_reducible apply startAlloc_still
    | with_reducible apply syncUnit_still
    | exact Fld.turnFree rfl
    | exact balFld_free _
    | decide
    | with_reducible apply stillParts_of
    | intro _
    | with_reducible refine Still.of_eq (by assumption) ?_
    | with_reducible refine Still.of_eq_snd (by assumption) ?_
    | simp only [still_mk]
    | split

theorem State.readOpnds_still {r s : State} (h : r.Still s) (o : Op) (y2 : List ℕ) : r.Still (State.readOpnds s o y2).1 := by
  induction y2 generalizing s o with
  | nil =>
    unfold State.readOpnds
    repeat' first
      | with_reducible assumption
      | with_reducible exact Still.refl _
      | with_reducible apply Still.ite
      | with_reducible apply Still.ite_fst
      | with_reducible apply vread_still
      | exact Fld.turnFree rfl
      | exact balFld_free _
      | decide
      | with_reducible apply stillParts_of
      | intro _
      | with_reducible refine Still.of_eq (by assumption) ?_
      | with_reducible refine Still.of_eq_snd (by assumption) ?_
      | simp only [still_mk]
      | split
  | cons z l ih =>
    unfold State.readOpnds
    repeat' first
      | with_reducible assumption
      | with_reducible exact Still.refl _
      | with_reducible apply Still.ite
      | with_reducible apply Still.ite_fst
      | with_reducible apply vread_still
      | with_reducible apply ih
      | exact Fld.turnFree rfl
      | exact balFld_free _
      | decide
      | with_reducible apply stillParts_of
      | intro _
      | with_reducible refine Still.of_eq (by assumption) ?_
      | with_reducible refine Still.of_eq_snd (by assumption) ?_
      | simp only [still_mk]
      | split

theorem State.withEntries_still {r s : State} (h : r.Still s) (o : Op) (new : Bool) : r.Still (State.withEntries s o new).1 := by
  unfold State.withEntries
  repeat' first
    | with_reducible assumption
    | with_reducible exact Still.refl _
    | with_reducible apply Still.ite
    | with_reducible apply Still.ite_fst
    | with_reducible apply readOpnds_still
    | exact Fld.turnFree rfl
    | exact balFld_free _
    | decide
    | with_reducible apply stillParts_of
    | intro _
    | with_reducible refine Still.of_eq (by assumption) ?_
    | with_reducible refine Still.of_eq_snd (by assumption) ?_
    | simp only [still_mk]
    | split

theorem State.decideOn_still {r s : State} (h : r.Still s) (o : Op) (new : Bool) : r.Still (State.decideOn s o new) := by
  unfold State.decideOn
  repeat' first
    | with_reducible assumption
    | with_reducible exact Still.refl _
    | with_reducible apply Still.ite
    | with_reducible apply Still.ite_fst
    | with_reducible apply ev_still
    | with_reducible apply withEntries_still
    | with_reducible apply finishWith_still
    | with_reducible apply finish_still
    | with_reducible apply handOver_still
    | with_reducible apply admitOp_still
    | exact Fld.turnFree rfl
    | exact balFld_free _
    | decide
    | with_reducible apply stillParts_of
    | intro _
    | with_reducible refine Still.of_eq (by assumption) ?_
    | with_reducible refine Still.of_eq_snd (by assumption) ?_
    | simp only [still_mk]
    | split

theorem State.admission_still {r s : State} (h : r.Still s) (q : ℕ) : r.Still (State.admission s q) := by
  unfold State.admission
  repeat' first
    | with_reducible assumption
    | with_reducible exact Still.refl _
    | with_reducible apply Still.ite
    | with_reducible apply Still.ite_fst
    | with_reducible apply setH_still
    | with_reducible apply ev_still
    | with_reducible apply admissionHead_still
    | with_reducible apply decideOn_still
    | exact Fld.turnFree rfl
    | exact balFld_free _
    | decide
    | with_reducible apply stillParts_of
    | intro _
    | with_reducible refine Still.of_eq (by assumption) ?_
    | with_reducible refine Still.of_eq_snd (by assumption) ?_
    | simp only [still_mk]
    | split

theorem State.freeze_still {r s : State} (h : r.Still s) : r.Still (State.freeze s) := by
  unfold State.freeze
  repeat' first
    | with_reducible assumption
    | with_reducible exact Still.refl _
    | with_reducible apply Still.ite
    | with_reducible apply wr_still
    | rw [List.foldl_cons]
    | rw [List.foldl_nil]
    | exact Fld.turnFree rfl
    | exact balFld_free _
    | decide
    | with_reducible refine Still.foldl ?_ (fun u x => ?_)
    | with_reducible refine Still.foldl_fst ?_ (fun u x => ?_)
    | with_reducible apply stillParts_of
    | intro _
    | with_reducible refine Still.of_eq (by assumption) ?_
    | with_reducible refine Still.of_eq_snd (by assumption) ?_
    | simp only [still_mk]
    | split

theorem State.latch_still {r s : State} (h : r.Still s) (src : ℕ) : r.Still (State.latch s src) := by
  unfold State.latch
  repeat' first
    | with_reducible assumption
    | with_reducible exact Still.refl _
    | with_reducible apply Still.ite
    | with_reducible apply bump_still
    | with_reducible apply freeze_still
    | with_reducible apply wr_still
    | exact Fld.turnFree rfl
    | exact balFld_free _
    | decide
    | with_reducible apply stillParts_of
    | intro _
    | with_reducible refine Still.of_eq (by assumption) ?_
    | with_reducible refine Still.of_eq_snd (by assumption) ?_
    | simp only [still_mk]
    | split

theorem State.dump_still {r s : State} (h : r.Still s) (m : ℕ) : r.Still (State.dump s m) := by
  unfold State.dump
  repeat' first
    | with_reducible assumption
    | with_reducible exact Still.refl _
    | with_reducible apply Still.ite
    | with_reducible apply setH_still
    | with_reducible apply setBytes_still
    | with_reducible apply bump_still
    | exact Fld.turnFree rfl
    | exact balFld_free _
    | decide
    | with_reducible apply stillParts_of
    | intro _
    | with_reducible refine Still.of_eq (by assumption) ?_
    | with_reducible refine Still.of_eq_snd (by assumption) ?_
    | simp only [still_mk]
    | split

theorem execShiftOutComplete_still {s : State} : s.StillNext (execShiftOutComplete s) := by
  unfold execShiftOutComplete
  repeat' first
    | with_reducible assumption
    | with_reducible exact Still.refl _
    | with_reducible apply StillNext.next
    | with_reducible apply StillNext.ite
    | with_reducible apply Still.ite
    | with_reducible apply wr_still
    | exact Fld.turnFree rfl
    | exact balFld_free _
    | decide
    | with_reducible apply stillParts_of
    | intro _
    | with_reducible refine Still.of_eq (by assumption) ?_
    | with_reducible refine Still.of_eq_snd (by assumption) ?_
    | simp only [still_mk]
    | split

theorem execBwWindowEnd_still (port : ℕ) (rx : ℕ) (tx : ℕ) {s : State} : s.StillNext (execBwWindowEnd port rx tx s) := by
  unfold execBwWindowEnd
  repeat' first
    | with_reducible assumption
    | with_reducible exact Still.refl _
    | with_reducible apply StillNext.next
    | with_reducible apply StillNext.ite
    | with_reducible apply Still.ite
    | with_reducible apply wr_still
    | exact Fld.turnFree rfl
    | exact balFld_free _
    | decide
    | with_reducible apply stillParts_of
    | intro _
    | with_reducible refine Still.of_eq (by assumption) ?_
    | with_reducible refine Still.of_eq_snd (by assumption) ?_
    | simp only [still_mk]
    | split

theorem State.endSlotWait_still {r s : State} (h : r.Still s) (o : Op) : r.Still (State.endSlotWait s o) := by
  unfold State.endSlotWait
  repeat' first
    | with_reducible assumption
    | with_reducible exact Still.refl _
    | with_reducible apply Still.ite
    | with_reducible apply setOp_still
    | with_reducible apply ev_still
    | exact Fld.turnFree rfl
    | exact balFld_free _
    | decide
    | with_reducible apply stillParts_of
    | intro _
    | with_reducible refine Still.of_eq (by assumption) ?_
    | with_reducible refine Still.of_eq_snd (by assumption) ?_
    | simp only [still_mk]
    | split

theorem State.parkAsIs_still {r s : State} (h : r.Still s) (id : ℕ) : r.Still (State.parkAsIs s id) := by
  unfold State.parkAsIs
  repeat' first
    | with_reducible assumption
    | with_reducible exact Still.refl _
    | with_reducible apply Still.ite
    | with_reducible apply syncBlanks_still
    | with_reducible apply parkOp_still
    | with_reducible apply endSlotWait_still
    | exact Fld.turnFree rfl
    | exact balFld_free _
    | decide
    | with_reducible apply stillParts_of
    | intro _
    | with_reducible refine Still.of_eq (by assumption) ?_
    | with_reducible refine Still.of_eq_snd (by assumption) ?_
    | simp only [still_mk]
    | split

theorem State.sweepOp_still {r s : State} (h : r.Still s) (id : ℕ) : r.Still (State.sweepOp s id) := by
  unfold State.sweepOp
  repeat' first
    | with_reducible assumption
    | with_reducible exact Still.refl _
    | with_reducible apply Still.ite
    | with_reducible apply setOp_still
    | with_reducible apply overrun_still
    | with_reducible apply endSlotWait_still
    | with_reducible apply syncUnit_still
    | with_reducible apply syncBlanks_still
    | with_reducible apply parkOp_still
    | with_reducible apply ev_still
    | with_reducible apply parkAsIs_still
    | exact Fld.turnFree rfl
    | exact balFld_free _
    | decide
    | with_reducible apply stillParts_of
    | intro _
    | with_reducible refine Still.of_eq (by assumption) ?_
    | with_reducible refine Still.of_eq_snd (by assumption) ?_
    | simp only [still_mk]
    | split

theorem State.sweep_still {r s : State} (h : r.Still s) : r.Still (State.sweep s) := by
  unfold State.sweep
  repeat' first
    | with_reducible assumption
    | with_reducible exact Still.refl _
    | with_reducible apply Still.ite
    | with_reducible apply scanTo_still
    | with_reducible apply ev_still
    | with_reducible apply sweepOp_still
    | with_reducible apply messageWait_still
    | with_reducible apply journalWait_still
    | with_reducible apply setH_still
    | with_reducible apply tagsWait_still
    | rw [List.foldl_cons]
    | rw [List.foldl_nil]
    | exact Fld.turnFree rfl
    | exact balFld_free _
    | decide
    | with_reducible refine Still.foldl ?_ (fun u x => ?_)
    | with_reducible refine Still.foldl_fst ?_ (fun u x => ?_)
    | with_reducible apply stillParts_of
    | intro _
    | with_reducible refine Still.of_eq (by assumption) ?_
    | with_reducible refine Still.of_eq_snd (by assumption) ?_
    | simp only [still_mk]
    | split

theorem State.parkNow_still {r s : State} (h : r.Still s) (o : Op) : r.Still (State.parkNow s o) := by
  unfold State.parkNow
  repeat' first
    | with_reducible assumption
    | with_reducible exact Still.refl _
    | with_reducible apply Still.ite
    | with_reducible apply syncUnit_still
    | with_reducible apply parkOp_still
    | with_reducible apply unitPark_still
    | with_reducible apply parkAsIs_still
    | exact Fld.turnFree rfl
    | exact balFld_free _
    | decide
    | with_reducible apply stillParts_of
    | intro _
    | with_reducible refine Still.of_eq (by assumption) ?_
    | with_reducible refine Still.of_eq_snd (by assumption) ?_
    | simp only [still_mk]
    | split

theorem State.deadlineOp_still {r s : State} (h : r.Still s) (id : ℕ) : r.Still (State.deadlineOp s id) := by
  unfold State.deadlineOp
  repeat' first
    | with_reducible assumption
    | with_reducible exact Still.refl _
    | with_reducible apply Still.ite
    | with_reducible apply syncBlanks_still
    | with_reducible apply finish_still
    | with_reducible apply overrun_still
    | with_reducible apply endSlotWait_still
    | with_reducible apply abandonPage_still
    | with_reducible apply syncUnit_still
    | exact Fld.turnFree rfl
    | exact balFld_free _
    | decide
    | with_reducible apply stillParts_of
    | intro _
    | with_reducible refine Still.of_eq (by assumption) ?_
    | with_reducible refine Still.of_eq_snd (by assumption) ?_
    | simp only [still_mk]
    | split

theorem State.dropPacked_still {r s : State} (h : r.Still s) : r.Still (State.dropPacked s) := by
  unfold State.dropPacked
  repeat' first
    | with_reducible assumption
    | with_reducible exact Still.refl _
    | with_reducible apply Still.ite
    | with_reducible apply dirBusy_still
    | with_reducible apply wr_still
    | rw [List.foldl_cons]
    | rw [List.foldl_nil]
    | exact Fld.turnFree rfl
    | exact balFld_free _
    | decide
    | with_reducible refine Still.foldl ?_ (fun u x => ?_)
    | with_reducible refine Still.foldl_fst ?_ (fun u x => ?_)
    | with_reducible apply stillParts_of
    | intro _
    | with_reducible refine Still.of_eq (by assumption) ?_
    | with_reducible refine Still.of_eq_snd (by assumption) ?_
    | simp only [still_mk]
    | split

theorem State.drain_still {r s : State} (h : r.Still s) : r.Still (State.drain s) := by
  unfold State.drain
  repeat' first
    | with_reducible assumption
    | with_reducible exact Still.refl _
    | with_reducible apply Still.ite
    | with_reducible apply ev_still
    | with_reducible apply bump_still
    | with_reducible apply syncOut_still
    | with_reducible apply serveQueues_still
    | with_reducible apply cutEngines_still
    | with_reducible apply dropPacked_still
    | rw [List.foldl_cons]
    | rw [List.foldl_nil]
    | exact Fld.turnFree rfl
    | exact balFld_free _
    | decide
    | with_reducible refine Still.foldl ?_ (fun u x => ?_)
    | with_reducible refine Still.foldl_fst ?_ (fun u x => ?_)
    | with_reducible apply stillParts_of
    | intro _
    | with_reducible refine Still.of_eq (by assumption) ?_
    | with_reducible refine Still.of_eq_snd (by assumption) ?_
    | simp only [still_mk]
    | split

theorem State.balAction_still {r s : State} (h : r.Still s) (e : ℕ × ℕ × ℕ × ℕ) : r.Still (State.balAction s e) := by
  unfold State.balAction
  repeat' first
    | with_reducible assumption
    | with_reducible exact Still.refl _
    | with_reducible apply Still.ite
    | with_reducible apply setH_still
    | with_reducible apply fenceReq_still
    | with_reducible apply ringFault_still
    | with_reducible apply syncOut_still
    | with_reducible apply addH_still
    | with_reducible apply setSlot_still
    | with_reducible apply syncFe_still
    | with_reducible apply overrun_still
    | rw [List.foldl_cons]
    | rw [List.foldl_nil]
    | exact Fld.turnFree rfl
    | exact balFld_free _
    | decide
    | with_reducible refine Still.foldl ?_ (fun u x => ?_)
    | with_reducible refine Still.foldl_fst ?_ (fun u x => ?_)
    | with_reducible apply stillParts_of
    | intro _
    | with_reducible refine Still.of_eq (by assumption) ?_
    | with_reducible refine Still.of_eq_snd (by assumption) ?_
    | simp only [still_mk]
    | split

theorem State.balance_still {r s : State} (h : r.Still s) (upsets : List Upset) : r.Still (State.balance s upsets) := by
  unfold State.balance
  repeat' first
    | with_reducible assumption
    | with_reducible exact Still.refl _
    | with_reducible apply Still.ite
    | with_reducible apply mark_still
    | with_reducible apply wr_still
    | with_reducible apply raisePf_still
    | with_reducible apply mcLog_still
    | rw [List.foldl_cons]
    | rw [List.foldl_nil]
    | exact Fld.turnFree rfl
    | exact balFld_free _
    | decide
    | with_reducible refine Still.foldl ?_ (fun u x => ?_)
    | with_reducible refine Still.foldl_fst ?_ (fun u x => ?_)
    | with_reducible apply stillParts_of
    | intro _
    | with_reducible refine Still.of_eq (by assumption) ?_
    | with_reducible refine Still.of_eq_snd (by assumption) ?_
    | simp only [still_mk]
    | split

theorem State.correct_still {r s : State} (h : r.Still s) : r.Still (State.correct s) := by
  unfold State.correct
  repeat' first
    | with_reducible assumption
    | with_reducible exact Still.refl _
    | with_reducible apply Still.ite
    | with_reducible apply balAction_still
    | rw [List.foldl_cons]
    | rw [List.foldl_nil]
    | exact Fld.turnFree rfl
    | exact balFld_free _
    | decide
    | with_reducible refine Still.foldl ?_ (fun u x => ?_)
    | with_reducible refine Still.foldl_fst ?_ (fun u x => ?_)
    | with_reducible apply stillParts_of
    | intro _
    | with_reducible refine Still.of_eq (by assumption) ?_
    | with_reducible refine Still.of_eq_snd (by assumption) ?_
    | simp only [still_mk]
    | split

theorem State.applySizes_still {r s : State} (h : r.Still s) (old : List (ℕ × ℕ)) : r.Still (State.applySizes s old) := by
  unfold State.applySizes
  repeat' first
    | with_reducible assumption
    | with_reducible exact Still.refl _
    | with_reducible apply Still.ite
    | with_reducible apply settleSize_still
    | with_reducible apply sizeRefused_still
    | with_reducible apply applyAssign_still
    | rw [List.foldl_cons]
    | rw [List.foldl_nil]
    | exact Fld.turnFree rfl
    | exact balFld_free _
    | decide
    | with_reducible refine Still.foldl ?_ (fun u x => ?_)
    | with_reducible refine Still.foldl_fst ?_ (fun u x => ?_)
    | with_reducible apply stillParts_of
    | intro _
    | with_reducible refine Still.of_eq (by assumption) ?_
    | with_reducible refine Still.of_eq_snd (by assumption) ?_
    | simp only [still_mk]
    | split

theorem State.bankEnter_still {r s : State} (h : r.Still s) (k : ℕ) : r.Still (State.bankEnter s k) := by
  unfold State.bankEnter
  repeat' first
    | with_reducible assumption
    | with_reducible exact Still.refl _
    | with_reducible apply Still.ite
    | with_reducible apply wr_still
    | with_reducible apply mark_still
    | with_reducible apply setH_still
    | with_reducible apply syncBusy_still
    | with_reducible apply setEngine_still
    | rw [List.foldl_cons]
    | rw [List.foldl_nil]
    | exact Fld.turnFree rfl
    | exact balFld_free _
    | decide
    | with_reducible refine Still.foldl ?_ (fun u x => ?_)
    | with_reducible refine Still.foldl_fst ?_ (fun u x => ?_)
    | with_reducible apply stillParts_of
    | intro _
    | with_reducible refine Still.of_eq (by assumption) ?_
    | with_reducible refine Still.of_eq_snd (by assumption) ?_
    | simp only [still_mk]
    | split

theorem State.applyBank_still {r s : State} (h : r.Still s) (k : ℕ) : r.Still (State.applyBank s k) := by
  unfold State.applyBank
  repeat' first
    | with_reducible assumption
    | with_reducible exact Still.refl _
    | with_reducible apply Still.ite
    | with_reducible apply fnErr_still
    | with_reducible apply mark_still
    | with_reducible apply endBank_still
    | with_reducible apply bankEnter_still
    | exact Fld.turnFree rfl
    | exact balFld_free _
    | decide
    | with_reducible apply stillParts_of
    | intro _
    | with_reducible refine Still.of_eq (by assumption) ?_
    | with_reducible refine Still.of_eq_snd (by assumption) ?_
    | simp only [still_mk]
    | split

theorem State.applyShares_still {r s : State} (h : r.Still s) : r.Still (State.applyShares s) := by
  unfold State.applyShares
  repeat' first
    | with_reducible assumption
    | with_reducible exact Still.refl _
    | with_reducible apply Still.ite
    | with_reducible apply mark_still
    | with_reducible apply setH_still
    | rw [List.foldl_cons]
    | rw [List.foldl_nil]
    | exact Fld.turnFree rfl
    | exact balFld_free _
    | decide
    | with_reducible refine Still.foldl ?_ (fun u x => ?_)
    | with_reducible refine Still.foldl_fst ?_ (fun u x => ?_)
    | with_reducible apply stillParts_of
    | intro _
    | with_reducible refine Still.of_eq (by assumption) ?_
    | with_reducible refine Still.of_eq_snd (by assumption) ?_
    | simp only [still_mk]
    | split

theorem State.applyTags_still {r s : State} (h : r.Still s) : r.Still (State.applyTags s) := by
  unfold State.applyTags
  repeat' first
    | with_reducible assumption
    | with_reducible exact Still.refl _
    | with_reducible apply Still.ite
    | with_reducible apply mark_still
    | with_reducible apply wr_still
    | rw [List.foldl_cons]
    | rw [List.foldl_nil]
    | exact Fld.turnFree rfl
    | exact balFld_free _
    | decide
    | with_reducible refine Still.foldl ?_ (fun u x => ?_)
    | with_reducible refine Still.foldl_fst ?_ (fun u x => ?_)
    | with_reducible apply stillParts_of
    | intro _
    | with_reducible refine Still.of_eq (by assumption) ?_
    | with_reducible refine Still.of_eq_snd (by assumption) ?_
    | simp only [still_mk]
    | split

theorem State.applyRetire_still {r s : State} (h : r.Still s) (k : ℕ) : r.Still (State.applyRetire s k) := by
  unfold State.applyRetire
  repeat' first
    | with_reducible assumption
    | with_reducible exact Still.refl _
    | with_reducible apply Still.ite
    | with_reducible apply wr_still
    | with_reducible apply setH_still
    | with_reducible apply mark_still
    | with_reducible apply endBank_still
    | exact Fld.turnFree rfl
    | exact balFld_free _
    | decide
    | with_reducible apply stillParts_of
    | intro _
    | with_reducible refine Still.of_eq (by assumption) ?_
    | with_reducible refine Still.of_eq_snd (by assumption) ?_
    | simp only [still_mk]
    | split

theorem State.applyBay_still {r s : State} (h : r.Still s) (d : ℕ) : r.Still (State.applyBay s d) := by
  unfold State.applyBay
  repeat' first
    | with_reducible assumption
    | with_reducible exact Still.refl _
    | with_reducible apply Still.ite
    | with_reducible apply setH_still
    | with_reducible apply wr_still
    | rw [List.foldl_cons]
    | rw [List.foldl_nil]
    | exact Fld.turnFree rfl
    | exact balFld_free _
    | decide
    | with_reducible refine Still.foldl ?_ (fun u x => ?_)
    | with_reducible refine Still.foldl_fst ?_ (fun u x => ?_)
    | with_reducible apply stillParts_of
    | intro _
    | with_reducible refine Still.of_eq (by assumption) ?_
    | with_reducible refine Still.of_eq_snd (by assumption) ?_
    | simp only [still_mk]
    | split

theorem State.freeCodebooks_still {r s : State} (h : r.Still s) : r.Still (State.freeCodebooks s) := by
  unfold State.freeCodebooks
  repeat' first
    | with_reducible assumption
    | with_reducible exact Still.refl _
    | with_reducible apply Still.ite
    | with_reducible apply lateDone_still
    | with_reducible apply wr_still
    | rw [List.foldl_cons]
    | rw [List.foldl_nil]
    | exact Fld.turnFree rfl
    | exact balFld_free _
    | decide
    | with_reducible refine Still.foldl ?_ (fun u x => ?_)
    | with_reducible refine Still.foldl_fst ?_ (fun u x => ?_)
    | with_reducible apply stillParts_of
    | intro _
    | with_reducible refine Still.of_eq (by assumption) ?_
    | with_reducible refine Still.of_eq_snd (by assumption) ?_
    | simp only [still_mk]
    | split

theorem State.applyStaged_still {r s : State} (h : r.Still s) : r.Still (State.applyStaged s) := by
  unfold State.applyStaged
  repeat' first
    | with_reducible assumption
    | with_reducible exact Still.refl _
    | with_reducible apply Still.ite
    | with_reducible apply disposeQuarter_still
    | with_reducible apply applySizes_still
    | with_reducible apply applyFences_still
    | with_reducible apply applyBank_still
    | with_reducible apply applyFabric_still
    | with_reducible apply setH_still
    | with_reducible apply applyCredits_still
    | with_reducible apply applyTags_still
    | with_reducible apply applyShares_still
    | with_reducible apply applySelects_still
    | with_reducible apply applyRetire_still
    | with_reducible apply applyBay_still
    | with_reducible apply setLevel_still
    | with_reducible apply endRestricted_still
    | with_reducible apply removeUnits_still
    | with_reducible apply freeCodebooks_still
    | rw [List.foldl_cons]
    | rw [List.foldl_nil]
    | exact Fld.turnFree rfl
    | exact balFld_free _
    | decide
    | with_reducible refine Still.foldl ?_ (fun u x => ?_)
    | with_reducible refine Still.foldl_fst ?_ (fun u x => ?_)
    | with_reducible apply stillParts_of
    | intro _
    | with_reducible refine Still.of_eq (by assumption) ?_
    | with_reducible refine Still.of_eq_snd (by assumption) ?_
    | simp only [still_mk]
    | split

theorem State.applyKeys_still {r s : State} (h : r.Still s) : r.Still (State.applyKeys s) := by
  unfold State.applyKeys
  repeat' first
    | with_reducible assumption
    | with_reducible exact Still.refl _
    | with_reducible apply Still.ite
    | with_reducible apply complete_still
    | with_reducible apply setH_still
    | with_reducible apply wr_still
    | rw [List.foldl_cons]
    | rw [List.foldl_nil]
    | exact Fld.turnFree rfl
    | exact balFld_free _
    | decide
    | with_reducible refine Still.foldl ?_ (fun u x => ?_)
    | with_reducible refine Still.foldl_fst ?_ (fun u x => ?_)
    | with_reducible apply stillParts_of
    | intro _
    | with_reducible refine Still.of_eq (by assumption) ?_
    | with_reducible refine Still.of_eq_snd (by assumption) ?_
    | simp only [still_mk]
    | split

theorem State.thermal_still {r s : State} (h : r.Still s) (vmin : ℕ) (tmax : ℕ) : r.Still (State.thermal s vmin tmax) := by
  unfold State.thermal
  repeat' first
    | with_reducible assumption
    | with_reducible exact Still.refl _
    | with_reducible apply Still.ite
    | with_reducible apply wr_still
    | with_reducible apply setH_still
    | with_reducible apply mcLog_still
    | with_reducible apply mark_still
    | exact Fld.turnFree rfl
    | exact balFld_free _
    | decide
    | with_reducible apply stillParts_of
    | intro _
    | with_reducible refine Still.of_eq (by assumption) ?_
    | with_reducible refine Still.of_eq_snd (by assumption) ?_
    | simp only [still_mk]
    | split

theorem State.allotQ_still {r s : State} (h : r.Still s) (b : ℕ) (f : ℕ) (metered : List ℕ) (q : ℕ) : r.Still (State.allotQ s b f metered q) := by
  unfold State.allotQ
  repeat' first
    | with_reducible assumption
    | with_reducible exact Still.refl _
    | with_reducible apply Still.ite
    | with_reducible apply mark_still
    | with_reducible apply setH_still
    | with_reducible apply wr_still
    | exact Fld.turnFree rfl
    | exact balFld_free _
    | decide
    | with_reducible apply stillParts_of
    | intro _
    | with_reducible refine Still.of_eq (by assumption) ?_
    | with_reducible refine Still.of_eq_snd (by assumption) ?_
    | simp only [still_mk]
    | split

theorem State.rebuildOp_still {r s : State} (h : r.Still s) (id : ℕ) : r.Still (State.rebuildOp s id) := by
  unfold State.rebuildOp
  repeat' first
    | with_reducible assumption
    | with_reducible exact Still.refl _
    | with_reducible apply Still.ite
    | with_reducible apply Still.ite_fst
    | with_reducible apply vread_still
    | with_reducible apply setOp_still
    | with_reducible apply finish_still
    | with_reducible apply mark_still
    | exact Fld.turnFree rfl
    | exact balFld_free _
    | decide
    | with_reducible apply stillParts_of
    | intro _
    | with_reducible refine Still.of_eq (by assumption) ?_
    | with_reducible refine Still.of_eq_snd (by assumption) ?_
    | simp only [still_mk]
    | split

theorem State.chargeBank_still {r s : State} (h : r.Still s) (q : ℕ) : r.Still (State.chargeBank s q) := by
  unfold State.chargeBank
  repeat' first
    | with_reducible assumption
    | with_reducible exact Still.refl _
    | with_reducible apply Still.ite
    | with_reducible apply setH_still
    | with_reducible apply addH_still
    | with_reducible apply wr_still
    | exact Fld.turnFree rfl
    | exact balFld_free _
    | decide
    | with_reducible apply stillParts_of
    | intro _
    | with_reducible refine Still.of_eq (by assumption) ?_
    | with_reducible refine Still.of_eq_snd (by assumption) ?_
    | simp only [still_mk]
    | split

theorem State.clearAer_still {r s : State} (h : r.Still s) (p : ℕ) : r.Still (State.clearAer s p) := by
  unfold State.clearAer
  repeat' first
    | with_reducible assumption
    | with_reducible exact Still.refl _
    | with_reducible apply Still.ite
    | with_reducible apply setH_still
    | rw [List.foldl_cons]
    | rw [List.foldl_nil]
    | exact Fld.turnFree rfl
    | exact balFld_free _
    | decide
    | with_reducible refine Still.foldl ?_ (fun u x => ?_)
    | with_reducible refine Still.foldl_fst ?_ (fun u x => ?_)
    | with_reducible apply stillParts_of
    | intro _
    | with_reducible refine Still.of_eq (by assumption) ?_
    | with_reducible refine Still.of_eq_snd (by assumption) ?_
    | simp only [still_mk]
    | split

theorem State.parkDeadline_still {r s : State} (h : r.Still s) : r.Still (State.parkDeadline s) := by
  unfold State.parkDeadline
  repeat' first
    | with_reducible assumption
    | with_reducible exact Still.refl _
    | with_reducible apply Still.ite
    | with_reducible apply deadlineOp_still
    | rw [List.foldl_cons]
    | rw [List.foldl_nil]
    | exact Fld.turnFree rfl
    | exact balFld_free _
    | decide
    | with_reducible refine Still.foldl ?_ (fun u x => ?_)
    | with_reducible refine Still.foldl_fst ?_ (fun u x => ?_)
    | with_reducible apply stillParts_of
    | intro _
    | with_reducible refine Still.of_eq (by assumption) ?_
    | with_reducible refine Still.of_eq_snd (by assumption) ?_
    | simp only [still_mk]
    | split

theorem State.cleanL2_still {r s : State} (h : r.Still s) (l : L2Line) : r.Still (State.cleanL2 s l) := by
  unfold State.cleanL2
  repeat' first
    | with_reducible assumption
    | with_reducible exact Still.refl _
    | with_reducible apply Still.ite
    | with_reducible apply Still.ite_fst
    | with_reducible apply vwriteL_still
    | with_reducible apply raiseVf_still
    | exact Fld.turnFree rfl
    | exact balFld_free _
    | decide
    | with_reducible apply stillParts_of
    | intro _
    | with_reducible refine Still.of_eq (by assumption) ?_
    | with_reducible refine Still.of_eq_snd (by assumption) ?_
    | simp only [still_mk]
    | split

theorem State.dropL2_still {r s : State} (h : r.Still s) (p : L2Line → Bool) : r.Still (State.dropL2 s p) := by
  unfold State.dropL2
  repeat' first
    | with_reducible assumption
    | with_reducible exact Still.refl _
    | with_reducible apply Still.ite
    | exact Fld.turnFree rfl
    | exact balFld_free _
    | decide
    | with_reducible apply stillParts_of
    | intro _
    | with_reducible refine Still.of_eq (by assumption) ?_
    | with_reducible refine Still.of_eq_snd (by assumption) ?_
    | simp only [still_mk]
    | split

theorem State.flushL2_still {r s : State} (h : r.Still s) (p : L2Line → Bool) : r.Still (State.flushL2 s p) := by
  unfold State.flushL2
  repeat' first
    | with_reducible assumption
    | with_reducible exact Still.refl _
    | with_reducible apply Still.ite
    | with_reducible apply dropL2_still
    | with_reducible apply cleanL2_still
    | rw [List.foldl_cons]
    | rw [List.foldl_nil]
    | exact Fld.turnFree rfl
    | exact balFld_free _
    | decide
    | with_reducible refine Still.foldl ?_ (fun u x => ?_)
    | with_reducible refine Still.foldl_fst ?_ (fun u x => ?_)
    | with_reducible apply stillParts_of
    | intro _
    | with_reducible refine Still.of_eq (by assumption) ?_
    | with_reducible refine Still.of_eq_snd (by assumption) ?_
    | simp only [still_mk]
    | split

theorem State.setCores_still {r s : State} (h : r.Still s) (q : ℕ) : r.Still (State.setCores s q) := by
  unfold State.setCores
  repeat' first
    | with_reducible assumption
    | with_reducible exact Still.refl _
    | with_reducible apply Still.ite
    | with_reducible apply flushL2_still
    | with_reducible apply wr_still
    | exact Fld.turnFree rfl
    | exact balFld_free _
    | decide
    | with_reducible apply stillParts_of
    | intro _
    | with_reducible refine Still.of_eq (by assumption) ?_
    | with_reducible refine Still.of_eq_snd (by assumption) ?_
    | simp only [still_mk]
    | split

theorem State.holdCores_still {r s : State} (h : r.Still s) : r.Still (State.holdCores s) := by
  unfold State.holdCores
  repeat' first
    | with_reducible assumption
    | with_reducible exact Still.refl _
    | with_reducible apply Still.ite
    | with_reducible apply setCores_still
    | with_reducible apply wr_still
    | rw [List.foldl_cons]
    | rw [List.foldl_nil]
    | exact Fld.turnFree rfl
    | exact balFld_free _
    | decide
    | with_reducible refine Still.foldl ?_ (fun u x => ?_)
    | with_reducible refine Still.foldl_fst ?_ (fun u x => ?_)
    | with_reducible apply stillParts_of
    | intro _
    | with_reducible refine Still.of_eq (by assumption) ?_
    | with_reducible refine Still.of_eq_snd (by assumption) ?_
    | simp only [still_mk]
    | split

theorem State.clearBits_still {r s : State} (h : r.Still s) (f : Fld) (i : ℕ) (v : ℕ) (hff : f.perTurn = false) : r.Still (State.clearBits s f i v) :=
    by
  unfold State.clearBits
  repeat' first
    | with_reducible assumption
    | with_reducible exact Still.refl _
    | with_reducible apply Still.ite
    | with_reducible apply setH_still
    | with_reducible apply wr_still
    | exact Fld.turnFree rfl
    | exact balFld_free _
    | decide
    | with_reducible apply stillParts_of
    | intro _
    | with_reducible refine Still.of_eq (by assumption) ?_
    | with_reducible refine Still.of_eq_snd (by assumption) ?_
    | simp only [still_mk]
    | split

theorem State.fldWrite_still {r s : State} (h : r.Still s) (f : Fld) (i : ℕ) (v : ℕ) : r.Still (State.fldWrite s f i v) := by
  unfold State.fldWrite
  split
  · exact wr_still h _ _ _ (Fld.perTurn_acc (by assumption) (by decide))
  · exact clearBits_still h _ _ _ (Fld.perTurn_acc (by assumption) (by decide))
  · exact wr_still h _ _ _ (Fld.perTurn_acc (by assumption) (by decide))
  all_goals exact h

theorem State.unitRequest_still {r s : State} (h : r.Still s) (lot : Bool) (i : ℕ) (req : ℕ) (granted : Bool) : r.Still (State.unitRequest s lot i req
    granted) := by
  unfold State.unitRequest
  repeat' first
    | with_reducible assumption
    | with_reducible exact Still.refl _
    | with_reducible apply Still.ite
    | with_reducible apply fnErr_still
    | with_reducible apply wr_still
    | exact Fld.turnFree rfl
    | exact balFld_free _
    | decide
    | with_reducible apply stillParts_of
    | intro _
    | with_reducible refine Still.of_eq (by assumption) ?_
    | with_reducible refine Still.of_eq_snd (by assumption) ?_
    | simp only [still_mk]
    | split

theorem State.stopAll_still {r s : State} (h : r.Still s) : r.Still (State.stopAll s) := by
  unfold State.stopAll
  repeat' first
    | with_reducible assumption
    | with_reducible exact Still.refl _
    | with_reducible apply Still.ite
    | with_reducible apply setH_still
    | rw [List.foldl_cons]
    | rw [List.foldl_nil]
    | exact Fld.turnFree rfl
    | exact balFld_free _
    | decide
    | with_reducible refine Still.foldl ?_ (fun u x => ?_)
    | with_reducible refine Still.foldl_fst ?_ (fun u x => ?_)
    | with_reducible apply stillParts_of
    | intro _
    | with_reducible refine Still.of_eq (by assumption) ?_
    | with_reducible refine Still.of_eq_snd (by assumption) ?_
    | simp only [still_mk]
    | split

theorem State.startQuiesce_still {r s : State} (h : r.Still s) (cause : ℕ) : r.Still (State.startQuiesce s cause) := by
  unfold State.startQuiesce
  repeat' first
    | with_reducible assumption
    | with_reducible exact Still.refl _
    | with_reducible apply Still.ite
    | with_reducible apply setH_still
    | with_reducible apply stopAll_still
    | exact Fld.turnFree rfl
    | exact balFld_free _
    | decide
    | with_reducible apply stillParts_of
    | intro _
    | with_reducible refine Still.of_eq (by assumption) ?_
    | with_reducible refine Still.of_eq_snd (by assumption) ?_
    | simp only [still_mk]
    | split

theorem State.regAfter_still {r0 s : State} (h : r0.Still s) (old : State) (r : Reg) (i : ℕ) (val : ℕ) (who : ℕ) (mc : Bool) : r0.Still
    (State.regAfter old s r i val who mc) := by
  unfold State.regAfter
  repeat' first
    | with_reducible assumption
    | with_reducible exact Still.refl _
    | with_reducible apply Still.ite
    | with_reducible apply Still.ite_fst
    | with_reducible apply mark_still
    | with_reducible apply wr_still
    | with_reducible apply setH_still
    | with_reducible apply syncPending_still
    | with_reducible apply fenceReq_still
    | with_reducible apply histClear_still
    | with_reducible apply unitRequest_still
    | with_reducible apply memRetire_still
    | with_reducible apply flushRecords_still
    | with_reducible apply badFrame_still
    | with_reducible apply askWithdraw_still
    | with_reducible apply askService_still
    | with_reducible apply requestRetire_still
    | with_reducible apply giveVerdict_still
    | with_reducible apply setCores_still
    | with_reducible apply startQuiesce_still
    | exact Fld.turnFree rfl
    | exact balFld_free _
    | decide
    | with_reducible apply stillParts_of
    | intro _
    | with_reducible refine Still.of_eq (by assumption) ?_
    | with_reducible refine Still.of_eq_snd (by assumption) ?_
    | simp only [still_mk]
    | split

theorem State.regWrite_still {r0 s : State} (h : r0.Still s) (bits : ℕ) (who : ℕ) (mc : Bool) (r : Reg) (i : ℕ) (off : ℕ) (val : ℕ) : r0.Still
    (State.regWrite s bits who mc r i off val) := by
  unfold State.regWrite
  repeat' first
    | with_reducible assumption
    | with_reducible exact Still.refl _
    | with_reducible apply Still.ite
    | with_reducible apply fnErr_still
    | with_reducible apply fldWrite_still
    | with_reducible apply regAfter_still
    | rw [List.foldl_cons]
    | rw [List.foldl_nil]
    | exact Fld.turnFree rfl
    | exact balFld_free _
    | decide
    | with_reducible refine Still.foldl ?_ (fun u x => ?_)
    | with_reducible refine Still.foldl_fst ?_ (fun u x => ?_)
    | with_reducible apply stillParts_of
    | intro _
    | with_reducible refine Still.of_eq (by assumption) ?_
    | with_reducible refine Still.of_eq_snd (by assumption) ?_
    | simp only [still_mk]
    | split

theorem State.mcWrite_still {r s : State} (h : r.Still s) (off : ℕ) (val : ℕ) : r.Still (State.mcWrite s off val) := by
  unfold State.mcWrite
  repeat' first
    | with_reducible assumption
    | with_reducible exact Still.refl _
    | with_reducible apply Still.ite
    | with_reducible apply regWrite_still
    | with_reducible apply fnErr_still
    | exact Fld.turnFree rfl
    | exact balFld_free _
    | decide
    | with_reducible apply stillParts_of
    | intro _
    | with_reducible refine Still.of_eq (by assumption) ?_
    | with_reducible refine Still.of_eq_snd (by assumption) ?_
    | simp only [still_mk]
    | split

theorem State.serveMcRing_still {r s : State} (h : r.Still s) (y1 : ℕ) : r.Still (State.serveMcRing s y1) := by
  induction y1 generalizing s with
  | zero =>
    unfold State.serveMcRing
    repeat' first
      | with_reducible assumption
      | with_reducible exact Still.refl _
      | with_reducible apply Still.ite
      | with_reducible apply mcWrite_still
      | exact Fld.turnFree rfl
      | exact balFld_free _
      | decide
      | with_reducible apply stillParts_of
      | intro _
      | with_reducible refine Still.of_eq (by assumption) ?_
      | with_reducible refine Still.of_eq_snd (by assumption) ?_
      | simp only [still_mk]
      | split
  | succ n0 ih =>
    unfold State.serveMcRing
    repeat' first
      | with_reducible assumption
      | with_reducible exact Still.refl _
      | with_reducible apply Still.ite
      | with_reducible apply mcWrite_still
      | with_reducible apply ih
      | exact Fld.turnFree rfl
      | exact balFld_free _
      | decide
      | with_reducible apply stillParts_of
      | intro _
      | with_reducible refine Still.of_eq (by assumption) ?_
      | with_reducible refine Still.of_eq_snd (by assumption) ?_
      | simp only [still_mk]
      | split

theorem State.mcAsk_still {r s : State} (h : r.Still s) (off : ℕ) (val : ℕ) : r.Still (State.mcAsk s off val) := by
  unfold State.mcAsk
  repeat' first
    | with_reducible assumption
    | with_reducible exact Still.refl _
    | with_reducible apply Still.ite
    | with_reducible apply serveMcRing_still
    | exact Fld.turnFree rfl
    | exact balFld_free _
    | decide
    | with_reducible apply stillParts_of
    | intro _
    | with_reducible refine Still.of_eq (by assumption) ?_
    | with_reducible refine Still.of_eq_snd (by assumption) ?_
    | simp only [still_mk]
    | split

theorem State.busWrite_still {r s : State} (h : r.Still s) (a : Agent) (off : ℕ) (val : ℕ) : r.Still (State.busWrite s a off val) := by
  unfold State.busWrite
  repeat' first
    | with_reducible assumption
    | with_reducible exact Still.refl _
    | with_reducible apply Still.ite
    | with_reducible apply mcAsk_still
    | with_reducible apply regWrite_still
    | exact Fld.turnFree rfl
    | exact balFld_free _
    | decide
    | with_reducible apply stillParts_of
    | intro _
    | with_reducible refine Still.of_eq (by assumption) ?_
    | with_reducible refine Still.of_eq_snd (by assumption) ?_
    | simp only [still_mk]
    | split

theorem State.cpWrite_still {r s : State} (h : r.Still s) (off : ℕ) (val : ℕ) : r.Still (State.cpWrite s off val) := by
  unfold State.cpWrite
  repeat' first
    | with_reducible assumption
    | with_reducible exact Still.refl _
    | with_reducible apply Still.ite
    | with_reducible apply busWrite_still
    | exact Fld.turnFree rfl
    | exact balFld_free _
    | decide
    | with_reducible apply stillParts_of
    | intro _
    | with_reducible refine Still.of_eq (by assumption) ?_
    | with_reducible refine Still.of_eq_snd (by assumption) ?_
    | simp only [still_mk]
    | split

theorem State.fldRead_still {r s : State} (h : r.Still s) (f : Fld) (i : ℕ) (lo : ℕ) (n : ℕ) : r.Still (State.fldRead s f i lo n) := by
  unfold State.fldRead
  split
  · exact wr_still h _ _ _ (Fld.perTurn_acc (And.left (by assumption)) (by decide))
  · exact h

theorem State.regRead_still {r0 s : State} (h : r0.Still s) (bits : ℕ) (who : ℕ) (r : Reg) (i : ℕ) (off : ℕ) (lo : ℕ) (n : ℕ) : r0.Still
    (State.regRead s bits who r i off lo n).1 := by
  unfold State.regRead
  repeat' first
    | with_reducible assumption
    | with_reducible exact Still.refl _
    | with_reducible apply Still.ite
    | with_reducible apply Still.ite_fst
    | with_reducible apply fnErr_still
    | with_reducible apply fldRead_still
    | rw [List.foldl_cons]
    | rw [List.foldl_nil]
    | exact Fld.turnFree rfl
    | exact balFld_free _
    | decide
    | with_reducible refine Still.foldl ?_ (fun u x => ?_)
    | with_reducible refine Still.foldl_fst ?_ (fun u x => ?_)
    | with_reducible apply stillParts_of
    | intro _
    | with_reducible refine Still.of_eq (by assumption) ?_
    | with_reducible refine Still.of_eq_snd (by assumption) ?_
    | simp only [still_mk]
    | split

theorem State.busRead_still {r s : State} (h : r.Still s) (a : Agent) (off : ℕ) (lo : ℕ) (n : ℕ) : r.Still (State.busRead s a off lo n).1 := by
  unfold State.busRead
  repeat' first
    | with_reducible assumption
    | with_reducible exact Still.refl _
    | with_reducible apply Still.ite
    | with_reducible apply Still.ite_fst
    | with_reducible apply regRead_still
    | exact Fld.turnFree rfl
    | exact balFld_free _
    | decide
    | with_reducible apply stillParts_of
    | intro _
    | with_reducible refine Still.of_eq (by assumption) ?_
    | with_reducible refine Still.of_eq_snd (by assumption) ?_
    | simp only [still_mk]
    | split

theorem State.done_still {r s : State} (h : r.Still s) (e : SubEntry) (status : ℕ) (res0 : ℕ) : r.Still (State.done s e status res0) := by
  unfold State.done
  repeat' first
    | with_reducible assumption
    | with_reducible exact Still.refl _
    | with_reducible apply Still.ite
    | with_reducible apply complete_still
    | exact Fld.turnFree rfl
    | exact balFld_free _
    | decide
    | with_reducible apply stillParts_of
    | intro _
    | with_reducible refine Still.of_eq (by assumption) ?_
    | with_reducible refine Still.of_eq_snd (by assumption) ?_
    | simp only [still_mk]
    | split

theorem State.doneWith_still {r s : State} (h : r.Still s) (e : SubEntry) (status : ℕ) (res0 : ℕ) : r.Still (State.doneWith s e status res0) := by
  unfold State.doneWith
  repeat' first
    | with_reducible assumption
    | with_reducible exact Still.refl _
    | with_reducible apply Still.ite
    | with_reducible apply setH_still
    | with_reducible apply done_still
    | exact Fld.turnFree rfl
    | exact balFld_free _
    | decide
    | with_reducible apply stillParts_of
    | intro _
    | with_reducible refine Still.of_eq (by assumption) ?_
    | with_reducible refine Still.of_eq_snd (by assumption) ?_
    | simp only [still_mk]
    | split

theorem State.command_still {r s : State} (h : r.Still s) (e : SubEntry) (code : ℕ) (body : State → ℕ → State) (hbody : ∀ (u : State) w1, u.Still
    (body u w1)) : r.Still (State.command s e code body) := by
  unfold State.command
  repeat' first
    | with_reducible assumption
    | with_reducible exact Still.refl _
    | with_reducible apply Still.ite
    | with_reducible refine Still.trans ?_ (hbody _ _)
    | with_reducible apply done_still
    | exact Fld.turnFree rfl
    | exact balFld_free _
    | decide
    | with_reducible apply stillParts_of
    | intro _
    | with_reducible refine Still.of_eq (by assumption) ?_
    | with_reducible refine Still.of_eq_snd (by assumption) ?_
    | simp only [still_mk]
    | split

theorem State.cmdNop_still {r s : State} (h : r.Still s) (e : SubEntry) : r.Still (State.cmdNop s e) := by
  unfold State.cmdNop
  repeat' first
    | with_reducible assumption
    | with_reducible exact Still.refl _
    | with_reducible apply Still.ite
    | with_reducible apply command_still
    | with_reducible apply done_still
    | exact Fld.turnFree rfl
    | exact balFld_free _
    | decide
    | with_reducible apply stillParts_of
    | intro _
    | with_reducible refine Still.of_eq (by assumption) ?_
    | with_reducible refine Still.of_eq_snd (by assumption) ?_
    | simp only [still_mk]
    | split

theorem State.cmdVersion_still {r s : State} (h : r.Still s) (e : SubEntry) : r.Still (State.cmdVersion s e) := by
  unfold State.cmdVersion
  repeat' first
    | with_reducible assumption
    | with_reducible exact Still.refl _
    | with_reducible apply Still.ite
    | with_reducible apply command_still
    | with_reducible apply mark_still
    | with_reducible apply complete_still
    | exact Fld.turnFree rfl
    | exact balFld_free _
    | decide
    | with_reducible apply stillParts_of
    | intro _
    | with_reducible refine Still.of_eq (by assumption) ?_
    | with_reducible refine Still.of_eq_snd (by assumption) ?_
    | simp only [still_mk]
    | split

theorem State.readDesc_still {r s : State} (h : r.Still s) (q : ℕ) (tag : ℕ) (va : ℕ) : r.Still (State.readDesc s q tag va).1 := by
  unfold State.readDesc
  repeat' first
    | with_reducible assumption
    | with_reducible exact Still.refl _
    | with_reducible apply Still.ite
    | with_reducible apply Still.ite_fst
    | with_reducible apply vread_still
    | exact Fld.turnFree rfl
    | exact balFld_free _
    | decide
    | with_reducible apply stillParts_of
    | intro _
    | with_reducible refine Still.of_eq (by assumption) ?_
    | with_reducible refine Still.of_eq_snd (by assumption) ?_
    | simp only [still_mk]
    | split

theorem State.submitEntry_still {r s : State} (h : r.Still s) (q : ℕ) (page : ℕ) (source : ℕ) (w : ℕ) (plan : Option (ℕ × ℕ)) : r.Still
    (State.submitEntry s q page source w plan).1 := by
  unfold State.submitEntry
  repeat' first
    | with_reducible assumption
    | with_reducible exact Still.refl _
    | with_reducible apply Still.ite
    | with_reducible apply Still.ite_fst
    | with_reducible apply readDesc_still
    | with_reducible apply newId_still
    | with_reducible apply finish_still
    | exact Fld.turnFree rfl
    | exact balFld_free _
    | decide
    | with_reducible apply stillParts_of
    | intro _
    | with_reducible refine Still.of_eq (by assumption) ?_
    | with_reducible refine Still.of_eq_snd (by assumption) ?_
    | simp only [still_mk]
    | split

theorem State.cmdSubmit_still {r s : State} (h : r.Still s) (e : SubEntry) : r.Still (State.cmdSubmit s e) := by
  unfold State.cmdSubmit
  repeat' first
    | with_reducible assumption
    | with_reducible exact Still.refl _
    | with_reducible apply Still.ite
    | with_reducible apply Still.ite_fst
    | with_reducible apply command_still
    | with_reducible apply ev_still
    | with_reducible apply submitEntry_still
    | with_reducible apply setH_still
    | exact Fld.turnFree rfl
    | exact balFld_free _
    | decide
    | with_reducible apply stillParts_of
    | intro _
    | with_reducible refine Still.of_eq (by assumption) ?_
    | with_reducible refine Still.of_eq_snd (by assumption) ?_
    | simp only [still_mk]
    | split

theorem State.planRun_still {r s : State} (h : r.Still s) (id : ℕ) (y2 : ℕ) : r.Still (State.planRun s id y2) := by
  induction y2 generalizing s id with
  | zero =>
    unfold State.planRun
    repeat' first
      | with_reducible assumption
      | with_reducible exact Still.refl _
      | with_reducible apply Still.ite
      | with_reducible apply Still.ite_fst
      | with_reducible apply setOp_still
      | with_reducible apply finish_still
      | with_reducible apply vread_still
      | with_reducible apply submitEntry_still
      | with_reducible apply updOp_still
      | exact Fld.turnFree rfl
      | exact balFld_free _
      | decide
      | with_reducible apply stillParts_of
      | intro _
      | with_reducible refine Still.of_eq (by assumption) ?_
      | with_reducible refine Still.of_eq_snd (by assumption) ?_
      | simp only [still_mk]
      | split
  | succ n0 ih =>
    unfold State.planRun
    repeat' first
      | with_reducible assumption
      | with_reducible exact Still.refl _
      | with_reducible apply Still.ite
      | with_reducible apply Still.ite_fst
      | with_reducible apply setOp_still
      | with_reducible apply finish_still
      | with_reducible apply vread_still
      | with_reducible apply submitEntry_still
      | with_reducible apply updOp_still
      | with_reducible apply ih
      | exact Fld.turnFree rfl
      | exact balFld_free _
      | decide
      | with_reducible apply stillParts_of
      | intro _
      | with_reducible refine Still.of_eq (by assumption) ?_
      | with_reducible refine Still.of_eq_snd (by assumption) ?_
      | simp only [still_mk]
      | split

theorem State.cmdPlan_still {r s : State} (h : r.Still s) (e : SubEntry) : r.Still (State.cmdPlan s e) := by
  unfold State.cmdPlan
  repeat' first
    | with_reducible assumption
    | with_reducible exact Still.refl _
    | with_reducible apply Still.ite
    | with_reducible apply Still.ite_fst
    | with_reducible apply command_still
    | with_reducible apply done_still
    | with_reducible apply ev_still
    | with_reducible apply newId_still
    | with_reducible apply planRun_still
    | exact Fld.turnFree rfl
    | exact balFld_free _
    | decide
    | with_reducible apply stillParts_of
    | intro _
    | with_reducible refine Still.of_eq (by assumption) ?_
    | with_reducible refine Still.of_eq_snd (by assumption) ?_
    | simp only [still_mk]
    | split

theorem State.pumpPlans_still {r s : State} (h : r.Still s) : r.Still (State.pumpPlans s) := by
  unfold State.pumpPlans
  repeat' first
    | with_reducible assumption
    | with_reducible exact Still.refl _
    | with_reducible apply Still.ite
    | with_reducible apply planRun_still
    | rw [List.foldl_cons]
    | rw [List.foldl_nil]
    | exact Fld.turnFree rfl
    | exact balFld_free _
    | decide
    | with_reducible refine Still.foldl ?_ (fun u x => ?_)
    | with_reducible refine Still.foldl_fst ?_ (fun u x => ?_)
    | with_reducible apply stillParts_of
    | intro _
    | with_reducible refine Still.of_eq (by assumption) ?_
    | with_reducible refine Still.of_eq_snd (by assumption) ?_
    | simp only [still_mk]
    | split

theorem State.retryStall_still {r s : State} (h : r.Still s) (x : Stall) : r.Still (State.retryStall s x) := by
  unfold State.retryStall
  repeat' first
    | with_reducible assumption
    | with_reducible exact Still.refl _
    | with_reducible apply Still.ite
    | with_reducible apply Still.ite_fst
    | with_reducible apply xlate_still
    | with_reducible apply walk_still
    | exact Fld.turnFree rfl
    | exact balFld_free _
    | decide
    | with_reducible apply stillParts_of
    | intro _
    | with_reducible refine Still.of_eq (by assumption) ?_
    | with_reducible refine Still.of_eq_snd (by assumption) ?_
    | simp only [still_mk]
    | split

theorem State.cmdInvalidate_still {r s : State} (h : r.Still s) (e : SubEntry) : r.Still (State.cmdInvalidate s e) := by
  unfold State.cmdInvalidate
  repeat' first
    | with_reducible assumption
    | with_reducible exact Still.refl _
    | with_reducible apply Still.ite
    | with_reducible apply command_still
    | with_reducible apply done_still
    | with_reducible apply dropTlb_still
    | with_reducible apply flushRecords_still
    | with_reducible apply resumeFaulted_still
    | with_reducible apply retryStall_still
    | rw [List.foldl_cons]
    | rw [List.foldl_nil]
    | exact Fld.turnFree rfl
    | exact balFld_free _
    | decide
    | with_reducible refine Still.foldl ?_ (fun u x => ?_)
    | with_reducible refine Still.foldl_fst ?_ (fun u x => ?_)
    | with_reducible apply stillParts_of
    | intro _
    | with_reducible refine Still.of_eq (by assumption) ?_
    | with_reducible refine Still.of_eq_snd (by assumption) ?_
    | simp only [still_mk]
    | split

theorem State.abortOp_still {r s : State} (h : r.Still s) (id : ℕ) : r.Still (State.abortOp s id) := by
  unfold State.abortOp
  repeat' first
    | with_reducible assumption
    | with_reducible exact Still.refl _
    | with_reducible apply Still.ite
    | with_reducible apply finish_still
    | with_reducible apply abandonPage_still
    | with_reducible apply syncOut_still
    | with_reducible apply syncUnit_still
    | with_reducible apply syncBlanks_still
    | rw [List.foldl_cons]
    | rw [List.foldl_nil]
    | exact Fld.turnFree rfl
    | exact balFld_free _
    | decide
    | with_reducible refine Still.foldl ?_ (fun u x => ?_)
    | with_reducible refine Still.foldl_fst ?_ (fun u x => ?_)
    | with_reducible apply stillParts_of
    | intro _
    | with_reducible refine Still.of_eq (by assumption) ?_
    | with_reducible refine Still.of_eq_snd (by assumption) ?_
    | simp only [still_mk]
    | split

theorem State.cmdAbortFault_still {r s : State} (h : r.Still s) (e : SubEntry) : r.Still (State.cmdAbortFault s e) := by
  unfold State.cmdAbortFault
  repeat' first
    | with_reducible assumption
    | with_reducible exact Still.refl _
    | with_reducible apply Still.ite
    | with_reducible apply command_still
    | with_reducible apply abortOp_still
    | with_reducible apply abortRetire_still
    | with_reducible apply done_still
    | rw [List.foldl_cons]
    | rw [List.foldl_nil]
    | exact Fld.turnFree rfl
    | exact balFld_free _
    | decide
    | with_reducible refine Still.foldl ?_ (fun u x => ?_)
    | with_reducible refine Still.foldl_fst ?_ (fun u x => ?_)
    | with_reducible apply stillParts_of
    | intro _
    | with_reducible refine Still.of_eq (by assumption) ?_
    | with_reducible refine Still.of_eq_snd (by assumption) ?_
    | simp only [still_mk]
    | split

theorem State.cmdFqHead_still {r s : State} (h : r.Still s) (e : SubEntry) : r.Still (State.cmdFqHead s e) := by
  unfold State.cmdFqHead
  repeat' first
    | with_reducible assumption
    | with_reducible exact Still.refl _
    | with_reducible apply Still.ite
    | with_reducible apply command_still
    | with_reducible apply done_still
    | with_reducible apply cpWrite_still
    | exact Fld.turnFree rfl
    | exact balFld_free _
    | decide
    | with_reducible apply stillParts_of
    | intro _
    | with_reducible refine Still.of_eq (by assumption) ?_
    | with_reducible refine Still.of_eq_snd (by assumption) ?_
    | simp only [still_mk]
    | split

theorem State.cmdMmuCfg_still {r s : State} (h : r.Still s) (e : SubEntry) : r.Still (State.cmdMmuCfg s e) := by
  unfold State.cmdMmuCfg
  repeat' first
    | with_reducible assumption
    | with_reducible exact Still.refl _
    | with_reducible apply Still.ite
    | with_reducible apply command_still
    | with_reducible apply cpWrite_still
    | with_reducible apply done_still
    | exact Fld.turnFree rfl
    | exact balFld_free _
    | decide
    | with_reducible apply stillParts_of
    | intro _
    | with_reducible refine Still.of_eq (by assumption) ?_
    | with_reducible refine Still.of_eq_snd (by assumption) ?_
    | simp only [still_mk]
    | split

theorem State.cmdReleaseKeep_still {r s : State} (h : r.Still s) (e : SubEntry) : r.Still (State.cmdReleaseKeep s e) := by
  unfold State.cmdReleaseKeep
  repeat' first
    | with_reducible assumption
    | with_reducible exact Still.refl _
    | with_reducible apply Still.ite
    | with_reducible apply command_still
    | with_reducible apply done_still
    | exact Fld.turnFree rfl
    | exact balFld_free _
    | decide
    | with_reducible apply stillParts_of
    | intro _
    | with_reducible refine Still.of_eq (by assumption) ?_
    | with_reducible refine Still.of_eq_snd (by assumption) ?_
    | simp only [still_mk]
    | split

theorem State.cmdUnit_still {r s : State} (h : r.Still s) (e : SubEntry) : r.Still (State.cmdUnit s e) := by
  unfold State.cmdUnit
  repeat' first
    | with_reducible assumption
    | with_reducible exact Still.refl _
    | with_reducible apply Still.ite
    | with_reducible apply command_still
    | with_reducible apply done_still
    | with_reducible apply cpWrite_still
    | exact Fld.turnFree rfl
    | exact balFld_free _
    | decide
    | with_reducible apply stillParts_of
    | intro _
    | with_reducible refine Still.of_eq (by assumption) ?_
    | with_reducible refine Still.of_eq_snd (by assumption) ?_
    | simp only [still_mk]
    | split

theorem State.cmdHostWin_still {r s : State} (h : r.Still s) (e : SubEntry) : r.Still (State.cmdHostWin s e) := by
  unfold State.cmdHostWin
  repeat' first
    | with_reducible assumption
    | with_reducible exact Still.refl _
    | with_reducible apply Still.ite
    | with_reducible apply command_still
    | with_reducible apply done_still
    | with_reducible apply cpWrite_still
    | exact Fld.turnFree rfl
    | exact balFld_free _
    | decide
    | with_reducible apply stillParts_of
    | intro _
    | with_reducible refine Still.of_eq (by assumption) ?_
    | with_reducible refine Still.of_eq_snd (by assumption) ?_
    | simp only [still_mk]
    | split

theorem State.moveHead_still {r s : State} (h : r.Still s) (q : ℕ) (b : ℕ) (n : ℕ) : r.Still (State.moveHead s q b n) := by
  unfold State.moveHead
  repeat' first
    | with_reducible assumption
    | with_reducible exact Still.refl _
    | with_reducible apply Still.ite
    | with_reducible apply mark_still
    | with_reducible apply wr_still
    | exact Fld.turnFree rfl
    | exact balFld_free _
    | decide
    | with_reducible apply stillParts_of
    | intro _
    | with_reducible refine Still.of_eq (by assumption) ?_
    | with_reducible refine Still.of_eq_snd (by assumption) ?_
    | simp only [still_mk]
    | split

theorem State.cmdSwap_still {r s : State} (h : r.Still s) (e : SubEntry) : r.Still (State.cmdSwap s e) := by
  unfold State.cmdSwap
  repeat' first
    | with_reducible assumption
    | with_reducible exact Still.refl _
    | with_reducible apply Still.ite
    | with_reducible apply command_still
    | with_reducible apply done_still
    | with_reducible apply moveHead_still
    | exact Fld.turnFree rfl
    | exact balFld_free _
    | decide
    | with_reducible apply stillParts_of
    | intro _
    | with_reducible refine Still.of_eq (by assumption) ?_
    | with_reducible refine Still.of_eq_snd (by assumption) ?_
    | simp only [still_mk]
    | split

theorem State.cmdAdvance_still {r s : State} (h : r.Still s) (e : SubEntry) : r.Still (State.cmdAdvance s e) := by
  unfold State.cmdAdvance
  repeat' first
    | with_reducible assumption
    | with_reducible exact Still.refl _
    | with_reducible apply Still.ite
    | with_reducible apply command_still
    | with_reducible apply done_still
    | with_reducible apply moveHead_still
    | exact Fld.turnFree rfl
    | exact balFld_free _
    | decide
    | with_reducible apply stillParts_of
    | intro _
    | with_reducible refine Still.of_eq (by assumption) ?_
    | with_reducible refine Still.of_eq_snd (by assumption) ?_
    | simp only [still_mk]
    | split

theorem State.cmdBarrier_still {r s : State} (h : r.Still s) (e : SubEntry) : r.Still (State.cmdBarrier s e) := by
  unfold State.cmdBarrier
  repeat' first
    | with_reducible assumption
    | with_reducible exact Still.refl _
    | with_reducible apply Still.ite
    | with_reducible apply command_still
    | with_reducible apply done_still
    | with_reducible apply cpWrite_still
    | exact Fld.turnFree rfl
    | exact balFld_free _
    | decide
    | with_reducible apply stillParts_of
    | intro _
    | with_reducible refine Still.of_eq (by assumption) ?_
    | with_reducible refine Still.of_eq_snd (by assumption) ?_
    | simp only [still_mk]
    | split

theorem State.cmdBufCfg_still {r s : State} (h : r.Still s) (e : SubEntry) : r.Still (State.cmdBufCfg s e) := by
  unfold State.cmdBufCfg
  repeat' first
    | with_reducible assumption
    | with_reducible exact Still.refl _
    | with_reducible apply Still.ite
    | with_reducible apply command_still
    | with_reducible apply done_still
    | with_reducible apply cpWrite_still
    | exact Fld.turnFree rfl
    | exact balFld_free _
    | decide
    | with_reducible apply stillParts_of
    | intro _
    | with_reducible refine Still.of_eq (by assumption) ?_
    | with_reducible refine Still.of_eq_snd (by assumption) ?_
    | simp only [still_mk]
    | split

theorem State.cmdCbLoad_still {r s : State} (h : r.Still s) (e : SubEntry) : r.Still (State.cmdCbLoad s e) := by
  unfold State.cmdCbLoad
  repeat' first
    | with_reducible assumption
    | with_reducible exact Still.refl _
    | with_reducible apply Still.ite
    | with_reducible apply Still.ite_fst
    | with_reducible apply command_still
    | with_reducible apply done_still
    | with_reducible apply vread_still
    | with_reducible apply doneWith_still
    | with_reducible apply wr_still
    | with_reducible apply mark_still
    | exact Fld.turnFree rfl
    | exact balFld_free _
    | decide
    | with_reducible apply stillParts_of
    | intro _
    | with_reducible refine Still.of_eq (by assumption) ?_
    | with_reducible refine Still.of_eq_snd (by assumption) ?_
    | simp only [still_mk]
    | split

theorem State.cmdCbUnload_still {r s : State} (h : r.Still s) (e : SubEntry) : r.Still (State.cmdCbUnload s e) := by
  unfold State.cmdCbUnload
  repeat' first
    | with_reducible assumption
    | with_reducible exact Still.refl _
    | with_reducible apply Still.ite
    | with_reducible apply command_still
    | with_reducible apply done_still
    | with_reducible apply mark_still
    | exact Fld.turnFree rfl
    | exact balFld_free _
    | decide
    | with_reducible apply stillParts_of
    | intro _
    | with_reducible refine Still.of_eq (by assumption) ?_
    | with_reducible refine Still.of_eq_snd (by assumption) ?_
    | simp only [still_mk]
    | split

theorem State.cmdVerdict_still {r s : State} (h : r.Still s) (e : SubEntry) : r.Still (State.cmdVerdict s e) := by
  unfold State.cmdVerdict
  repeat' first
    | with_reducible assumption
    | with_reducible exact Still.refl _
    | with_reducible apply Still.ite
    | with_reducible apply Still.ite_fst
    | with_reducible apply command_still
    | with_reducible apply giveVerdict_still
    | with_reducible apply wr_still
    | with_reducible apply done_still
    | exact Fld.turnFree rfl
    | exact balFld_free _
    | decide
    | with_reducible apply stillParts_of
    | intro _
    | with_reducible refine Still.of_eq (by assumption) ?_
    | with_reducible refine Still.of_eq_snd (by assumption) ?_
    | simp only [still_mk]
    | split

theorem State.cmdSetScale_still {r s : State} (h : r.Still s) (e : SubEntry) : r.Still (State.cmdSetScale s e) := by
  unfold State.cmdSetScale
  repeat' first
    | with_reducible assumption
    | with_reducible exact Still.refl _
    | with_reducible apply Still.ite
    | with_reducible apply command_still
    | with_reducible apply done_still
    | with_reducible apply wr_still
    | exact Fld.turnFree rfl
    | exact balFld_free _
    | decide
    | with_reducible apply stillParts_of
    | intro _
    | with_reducible refine Still.of_eq (by assumption) ?_
    | with_reducible refine Still.of_eq_snd (by assumption) ?_
    | simp only [still_mk]
    | split

theorem State.cmdSetStep_still {r s : State} (h : r.Still s) (e : SubEntry) : r.Still (State.cmdSetStep s e) := by
  unfold State.cmdSetStep
  repeat' first
    | with_reducible assumption
    | with_reducible exact Still.refl _
    | with_reducible apply Still.ite
    | with_reducible apply command_still
    | with_reducible apply done_still
    | with_reducible apply wr_still
    | exact Fld.turnFree rfl
    | exact balFld_free _
    | decide
    | with_reducible apply stillParts_of
    | intro _
    | with_reducible refine Still.of_eq (by assumption) ?_
    | with_reducible refine Still.of_eq_snd (by assumption) ?_
    | simp only [still_mk]
    | split

theorem State.cmdJournal_still {r s : State} (h : r.Still s) (e : SubEntry) : r.Still (State.cmdJournal s e) := by
  unfold State.cmdJournal
  repeat' first
    | with_reducible assumption
    | with_reducible exact Still.refl _
    | with_reducible apply Still.ite
    | with_reducible apply command_still
    | with_reducible apply done_still
    | with_reducible apply wr_still
    | exact Fld.turnFree rfl
    | exact balFld_free _
    | decide
    | with_reducible apply stillParts_of
    | intro _
    | with_reducible refine Still.of_eq (by assumption) ?_
    | with_reducible refine Still.of_eq_snd (by assumption) ?_
    | simp only [still_mk]
    | split

theorem State.cmdHist_still {r s : State} (h : r.Still s) (e : SubEntry) : r.Still (State.cmdHist s e) := by
  unfold State.cmdHist
  repeat' first
    | with_reducible assumption
    | with_reducible exact Still.refl _
    | with_reducible apply Still.ite
    | with_reducible apply Still.ite_fst
    | with_reducible apply command_still
    | with_reducible apply done_still
    | with_reducible apply vwrite_still
    | with_reducible apply histClear_still
    | with_reducible apply doneWith_still
    | exact Fld.turnFree rfl
    | exact balFld_free _
    | decide
    | with_reducible apply stillParts_of
    | intro _
    | with_reducible refine Still.of_eq (by assumption) ?_
    | with_reducible refine Still.of_eq_snd (by assumption) ?_
    | simp only [still_mk]
    | split

theorem execNop_still (e : SubEntry) {s : State} : s.StillNext (execNop e s) := by
  unfold execNop
  repeat' first
    | with_reducible assumption
    | with_reducible exact Still.refl _
    | with_reducible apply StillNext.next
    | with_reducible apply StillNext.ite
    | with_reducible apply Still.ite
    | with_reducible apply cmdNop_still
    | exact Fld.turnFree rfl
    | exact balFld_free _
    | decide
    | with_reducible apply stillParts_of
    | intro _
    | with_reducible refine Still.of_eq (by assumption) ?_
    | with_reducible refine Still.of_eq_snd (by assumption) ?_
    | simp only [still_mk]
    | split

theorem execVersion_still (e : SubEntry) {s : State} : s.StillNext (execVersion e s) := by
  unfold execVersion
  repeat' first
    | with_reducible assumption
    | with_reducible exact Still.refl _
    | with_reducible apply StillNext.next
    | with_reducible apply StillNext.ite
    | with_reducible apply Still.ite
    | with_reducible apply cmdVersion_still
    | exact Fld.turnFree rfl
    | exact balFld_free _
    | decide
    | with_reducible apply stillParts_of
    | intro _
    | with_reducible refine Still.of_eq (by assumption) ?_
    | with_reducible refine Still.of_eq_snd (by assumption) ?_
    | simp only [still_mk]
    | split

theorem execSubmit_still (e : SubEntry) {s : State} : s.StillNext (execSubmit e s) := by
  unfold execSubmit
  repeat' first
    | with_reducible assumption
    | with_reducible exact Still.refl _
    | with_reducible apply StillNext.next
    | with_reducible apply StillNext.ite
    | with_reducible apply Still.ite
    | with_reducible apply cmdSubmit_still
    | exact Fld.turnFree rfl
    | exact balFld_free _
    | decide
    | with_reducible apply stillParts_of
    | intro _
    | with_reducible refine Still.of_eq (by assumption) ?_
    | with_reducible refine Still.of_eq_snd (by assumption) ?_
    | simp only [still_mk]
    | split

theorem execPlan_still (e : SubEntry) {s : State} : s.StillNext (execPlan e s) := by
  unfold execPlan
  repeat' first
    | with_reducible assumption
    | with_reducible exact Still.refl _
    | with_reducible apply StillNext.next
    | with_reducible apply StillNext.ite
    | with_reducible apply Still.ite
    | with_reducible apply cmdPlan_still
    | exact Fld.turnFree rfl
    | exact balFld_free _
    | decide
    | with_reducible apply stillParts_of
    | intro _
    | with_reducible refine Still.of_eq (by assumption) ?_
    | with_reducible refine Still.of_eq_snd (by assumption) ?_
    | simp only [still_mk]
    | split

theorem execInvalidate_still (e : SubEntry) {s : State} : s.StillNext (execInvalidate e s) := by
  unfold execInvalidate
  repeat' first
    | with_reducible assumption
    | with_reducible exact Still.refl _
    | with_reducible apply StillNext.next
    | with_reducible apply StillNext.ite
    | with_reducible apply Still.ite
    | with_reducible apply cmdInvalidate_still
    | exact Fld.turnFree rfl
    | exact balFld_free _
    | decide
    | with_reducible apply stillParts_of
    | intro _
    | with_reducible refine Still.of_eq (by assumption) ?_
    | with_reducible refine Still.of_eq_snd (by assumption) ?_
    | simp only [still_mk]
    | split

theorem execAbortFault_still (e : SubEntry) {s : State} : s.StillNext (execAbortFault e s) := by
  unfold execAbortFault
  repeat' first
    | with_reducible assumption
    | with_reducible exact Still.refl _
    | with_reducible apply StillNext.next
    | with_reducible apply StillNext.ite
    | with_reducible apply Still.ite
    | with_reducible apply cmdAbortFault_still
    | exact Fld.turnFree rfl
    | exact balFld_free _
    | decide
    | with_reducible apply stillParts_of
    | intro _
    | with_reducible refine Still.of_eq (by assumption) ?_
    | with_reducible refine Still.of_eq_snd (by assumption) ?_
    | simp only [still_mk]
    | split

theorem execFqHead_still (e : SubEntry) {s : State} : s.StillNext (execFqHead e s) := by
  unfold execFqHead
  repeat' first
    | with_reducible assumption
    | with_reducible exact Still.refl _
    | with_reducible apply StillNext.next
    | with_reducible apply StillNext.ite
    | with_reducible apply Still.ite
    | with_reducible apply cmdFqHead_still
    | exact Fld.turnFree rfl
    | exact balFld_free _
    | decide
    | with_reducible apply stillParts_of
    | intro _
    | with_reducible refine Still.of_eq (by assumption) ?_
    | with_reducible refine Still.of_eq_snd (by assumption) ?_
    | simp only [still_mk]
    | split

theorem execMmuCfg_still (e : SubEntry) {s : State} : s.StillNext (execMmuCfg e s) := by
  unfold execMmuCfg
  repeat' first
    | with_reducible assumption
    | with_reducible exact Still.refl _
    | with_reducible apply StillNext.next
    | with_reducible apply StillNext.ite
    | with_reducible apply Still.ite
    | with_reducible apply cmdMmuCfg_still
    | exact Fld.turnFree rfl
    | exact balFld_free _
    | decide
    | with_reducible apply stillParts_of
    | intro _
    | with_reducible refine Still.of_eq (by assumption) ?_
    | with_reducible refine Still.of_eq_snd (by assumption) ?_
    | simp only [still_mk]
    | split

theorem execReleaseKeep_still (e : SubEntry) {s : State} : s.StillNext (execReleaseKeep e s) := by
  unfold execReleaseKeep
  repeat' first
    | with_reducible assumption
    | with_reducible exact Still.refl _
    | with_reducible apply StillNext.next
    | with_reducible apply StillNext.ite
    | with_reducible apply Still.ite
    | with_reducible apply cmdReleaseKeep_still
    | exact Fld.turnFree rfl
    | exact balFld_free _
    | decide
    | with_reducible apply stillParts_of
    | intro _
    | with_reducible refine Still.of_eq (by assumption) ?_
    | with_reducible refine Still.of_eq_snd (by assumption) ?_
    | simp only [still_mk]
    | split

theorem execUnit_still (e : SubEntry) {s : State} : s.StillNext (execUnit e s) := by
  unfold execUnit
  repeat' first
    | with_reducible assumption
    | with_reducible exact Still.refl _
    | with_reducible apply StillNext.next
    | with_reducible apply StillNext.ite
    | with_reducible apply Still.ite
    | with_reducible apply cmdUnit_still
    | exact Fld.turnFree rfl
    | exact balFld_free _
    | decide
    | with_reducible apply stillParts_of
    | intro _
    | with_reducible refine Still.of_eq (by assumption) ?_
    | with_reducible refine Still.of_eq_snd (by assumption) ?_
    | simp only [still_mk]
    | split

theorem execHostWin_still (e : SubEntry) {s : State} : s.StillNext (execHostWin e s) := by
  unfold execHostWin
  repeat' first
    | with_reducible assumption
    | with_reducible exact Still.refl _
    | with_reducible apply StillNext.next
    | with_reducible apply StillNext.ite
    | with_reducible apply Still.ite
    | with_reducible apply cmdHostWin_still
    | exact Fld.turnFree rfl
    | exact balFld_free _
    | decide
    | with_reducible apply stillParts_of
    | intro _
    | with_reducible refine Still.of_eq (by assumption) ?_
    | with_reducible refine Still.of_eq_snd (by assumption) ?_
    | simp only [still_mk]
    | split

theorem execSwap_still (e : SubEntry) {s : State} : s.StillNext (execSwap e s) := by
  unfold execSwap
  repeat' first
    | with_reducible assumption
    | with_reducible exact Still.refl _
    | with_reducible apply StillNext.next
    | with_reducible apply StillNext.ite
    | with_reducible apply Still.ite
    | with_reducible apply cmdSwap_still
    | exact Fld.turnFree rfl
    | exact balFld_free _
    | decide
    | with_reducible apply stillParts_of
    | intro _
    | with_reducible refine Still.of_eq (by assumption) ?_
    | with_reducible refine Still.of_eq_snd (by assumption) ?_
    | simp only [still_mk]
    | split

theorem execAdvance_still (e : SubEntry) {s : State} : s.StillNext (execAdvance e s) := by
  unfold execAdvance
  repeat' first
    | with_reducible assumption
    | with_reducible exact Still.refl _
    | with_reducible apply StillNext.next
    | with_reducible apply StillNext.ite
    | with_reducible apply Still.ite
    | with_reducible apply cmdAdvance_still
    | exact Fld.turnFree rfl
    | exact balFld_free _
    | decide
    | with_reducible apply stillParts_of
    | intro _
    | with_reducible refine Still.of_eq (by assumption) ?_
    | with_reducible refine Still.of_eq_snd (by assumption) ?_
    | simp only [still_mk]
    | split

theorem execBarrier_still (e : SubEntry) {s : State} : s.StillNext (execBarrier e s) := by
  unfold execBarrier
  repeat' first
    | with_reducible assumption
    | with_reducible exact Still.refl _
    | with_reducible apply StillNext.next
    | with_reducible apply StillNext.ite
    | with_reducible apply Still.ite
    | with_reducible apply cmdBarrier_still
    | exact Fld.turnFree rfl
    | exact balFld_free _
    | decide
    | with_reducible apply stillParts_of
    | intro _
    | with_reducible refine Still.of_eq (by assumption) ?_
    | with_reducible refine Still.of_eq_snd (by assumption) ?_
    | simp only [still_mk]
    | split

theorem execBufCfg_still (e : SubEntry) {s : State} : s.StillNext (execBufCfg e s) := by
  unfold execBufCfg
  repeat' first
    | with_reducible assumption
    | with_reducible exact Still.refl _
    | with_reducible apply StillNext.next
    | with_reducible apply StillNext.ite
    | with_reducible apply Still.ite
    | with_reducible apply cmdBufCfg_still
    | exact Fld.turnFree rfl
    | exact balFld_free _
    | decide
    | with_reducible apply stillParts_of
    | intro _
    | with_reducible refine Still.of_eq (by assumption) ?_
    | with_reducible refine Still.of_eq_snd (by assumption) ?_
    | simp only [still_mk]
    | split

theorem execCbLoad_still (e : SubEntry) {s : State} : s.StillNext (execCbLoad e s) := by
  unfold execCbLoad
  repeat' first
    | with_reducible assumption
    | with_reducible exact Still.refl _
    | with_reducible apply StillNext.next
    | with_reducible apply StillNext.ite
    | with_reducible apply Still.ite
    | with_reducible apply cmdCbLoad_still
    | exact Fld.turnFree rfl
    | exact balFld_free _
    | decide
    | with_reducible apply stillParts_of
    | intro _
    | with_reducible refine Still.of_eq (by assumption) ?_
    | with_reducible refine Still.of_eq_snd (by assumption) ?_
    | simp only [still_mk]
    | split

theorem execCbUnload_still (e : SubEntry) {s : State} : s.StillNext (execCbUnload e s) := by
  unfold execCbUnload
  repeat' first
    | with_reducible assumption
    | with_reducible exact Still.refl _
    | with_reducible apply StillNext.next
    | with_reducible apply StillNext.ite
    | with_reducible apply Still.ite
    | with_reducible apply cmdCbUnload_still
    | exact Fld.turnFree rfl
    | exact balFld_free _
    | decide
    | with_reducible apply stillParts_of
    | intro _
    | with_reducible refine Still.of_eq (by assumption) ?_
    | with_reducible refine Still.of_eq_snd (by assumption) ?_
    | simp only [still_mk]
    | split

theorem execVerdict_still (e : SubEntry) {s : State} : s.StillNext (execVerdict e s) := by
  unfold execVerdict
  repeat' first
    | with_reducible assumption
    | with_reducible exact Still.refl _
    | with_reducible apply StillNext.next
    | with_reducible apply StillNext.ite
    | with_reducible apply Still.ite
    | with_reducible apply cmdVerdict_still
    | exact Fld.turnFree rfl
    | exact balFld_free _
    | decide
    | with_reducible apply stillParts_of
    | intro _
    | with_reducible refine Still.of_eq (by assumption) ?_
    | with_reducible refine Still.of_eq_snd (by assumption) ?_
    | simp only [still_mk]
    | split

theorem execSetScale_still (e : SubEntry) {s : State} : s.StillNext (execSetScale e s) := by
  unfold execSetScale
  repeat' first
    | with_reducible assumption
    | with_reducible exact Still.refl _
    | with_reducible apply StillNext.next
    | with_reducible apply StillNext.ite
    | with_reducible apply Still.ite
    | with_reducible apply cmdSetScale_still
    | exact Fld.turnFree rfl
    | exact balFld_free _
    | decide
    | with_reducible apply stillParts_of
    | intro _
    | with_reducible refine Still.of_eq (by assumption) ?_
    | with_reducible refine Still.of_eq_snd (by assumption) ?_
    | simp only [still_mk]
    | split

theorem execSetStep_still (e : SubEntry) {s : State} : s.StillNext (execSetStep e s) := by
  unfold execSetStep
  repeat' first
    | with_reducible assumption
    | with_reducible exact Still.refl _
    | with_reducible apply StillNext.next
    | with_reducible apply StillNext.ite
    | with_reducible apply Still.ite
    | with_reducible apply cmdSetStep_still
    | exact Fld.turnFree rfl
    | exact balFld_free _
    | decide
    | with_reducible apply stillParts_of
    | intro _
    | with_reducible refine Still.of_eq (by assumption) ?_
    | with_reducible refine Still.of_eq_snd (by assumption) ?_
    | simp only [still_mk]
    | split

theorem execJournal_still (e : SubEntry) {s : State} : s.StillNext (execJournal e s) := by
  unfold execJournal
  repeat' first
    | with_reducible assumption
    | with_reducible exact Still.refl _
    | with_reducible apply StillNext.next
    | with_reducible apply StillNext.ite
    | with_reducible apply Still.ite
    | with_reducible apply cmdJournal_still
    | exact Fld.turnFree rfl
    | exact balFld_free _
    | decide
    | with_reducible apply stillParts_of
    | intro _
    | with_reducible refine Still.of_eq (by assumption) ?_
    | with_reducible refine Still.of_eq_snd (by assumption) ?_
    | simp only [still_mk]
    | split

theorem execHist_still (e : SubEntry) {s : State} : s.StillNext (execHist e s) := by
  unfold execHist
  repeat' first
    | with_reducible assumption
    | with_reducible exact Still.refl _
    | with_reducible apply StillNext.next
    | with_reducible apply StillNext.ite
    | with_reducible apply Still.ite
    | with_reducible apply cmdHist_still
    | exact Fld.turnFree rfl
    | exact balFld_free _
    | decide
    | with_reducible apply stillParts_of
    | intro _
    | with_reducible refine Still.of_eq (by assumption) ?_
    | with_reducible refine Still.of_eq_snd (by assumption) ?_
    | simp only [still_mk]
    | split

theorem State.cmdConfig_still {r s : State} (h : r.Still s) (e : SubEntry) : r.Still (State.cmdConfig s e) := by
  unfold State.cmdConfig
  repeat' first
    | with_reducible assumption
    | with_reducible exact Still.refl _
    | with_reducible apply Still.ite
    | with_reducible apply command_still
    | with_reducible apply done_still
    | with_reducible apply setH_still
    | with_reducible apply syncPending_still
    | with_reducible apply wr_still
    | exact Fld.turnFree rfl
    | exact balFld_free _
    | decide
    | with_reducible apply stillParts_of
    | intro _
    | with_reducible refine Still.of_eq (by assumption) ?_
    | with_reducible refine Still.of_eq_snd (by assumption) ?_
    | simp only [still_mk]
    | split

theorem State.cmdHalt_still {r s : State} (h : r.Still s) (e : SubEntry) : r.Still (State.cmdHalt s e) := by
  unfold State.cmdHalt
  repeat' first
    | with_reducible assumption
    | with_reducible exact Still.refl _
    | with_reducible apply Still.ite
    | with_reducible apply command_still
    | with_reducible apply done_still
    | with_reducible apply haltQuarter_still
    | exact Fld.turnFree rfl
    | exact balFld_free _
    | decide
    | with_reducible apply stillParts_of
    | intro _
    | with_reducible refine Still.of_eq (by assumption) ?_
    | with_reducible refine Still.of_eq_snd (by assumption) ?_
    | simp only [still_mk]
    | split

theorem State.cmdRelease_still {r s : State} (h : r.Still s) (e : SubEntry) : r.Still (State.cmdRelease s e) := by
  unfold State.cmdRelease
  repeat' first
    | with_reducible assumption
    | with_reducible exact Still.refl _
    | with_reducible apply Still.ite
    | with_reducible apply command_still
    | with_reducible apply done_still
    | with_reducible apply setH_still
    | exact Fld.turnFree rfl
    | exact balFld_free _
    | decide
    | with_reducible apply stillParts_of
    | intro _
    | with_reducible refine Still.of_eq (by assumption) ?_
    | with_reducible refine Still.of_eq_snd (by assumption) ?_
    | simp only [still_mk]
    | split

theorem State.cmdCores_still {r s : State} (h : r.Still s) (e : SubEntry) : r.Still (State.cmdCores s e) := by
  unfold State.cmdCores
  repeat' first
    | with_reducible assumption
    | with_reducible exact Still.refl _
    | with_reducible apply Still.ite
    | with_reducible apply command_still
    | with_reducible apply done_still
    | with_reducible apply cpWrite_still
    | exact Fld.turnFree rfl
    | exact balFld_free _
    | decide
    | with_reducible apply stillParts_of
    | intro _
    | with_reducible refine Still.of_eq (by assumption) ?_
    | with_reducible refine Still.of_eq_snd (by assumption) ?_
    | simp only [still_mk]
    | split

theorem State.cmdPfWin_still {r s : State} (h : r.Still s) (e : SubEntry) : r.Still (State.cmdPfWin s e) := by
  unfold State.cmdPfWin
  repeat' first
    | with_reducible assumption
    | with_reducible exact Still.refl _
    | with_reducible apply Still.ite
    | with_reducible apply command_still
    | with_reducible apply done_still
    | with_reducible apply cpWrite_still
    | exact Fld.turnFree rfl
    | exact balFld_free _
    | decide
    | with_reducible apply stillParts_of
    | intro _
    | with_reducible refine Still.of_eq (by assumption) ?_
    | with_reducible refine Still.of_eq_snd (by assumption) ?_
    | simp only [still_mk]
    | split

theorem State.cmdBank_still {r s : State} (h : r.Still s) (e : SubEntry) : r.Still (State.cmdBank s e) := by
  unfold State.cmdBank
  repeat' first
    | with_reducible assumption
    | with_reducible exact Still.refl _
    | with_reducible apply Still.ite
    | with_reducible apply command_still
    | with_reducible apply done_still
    | with_reducible apply wr_still
    | with_reducible apply setH_still
    | exact Fld.turnFree rfl
    | exact balFld_free _
    | decide
    | with_reducible apply stillParts_of
    | intro _
    | with_reducible refine Still.of_eq (by assumption) ?_
    | with_reducible refine Still.of_eq_snd (by assumption) ?_
    | simp only [still_mk]
    | split

theorem State.cmdFence_still {r s : State} (h : r.Still s) (e : SubEntry) : r.Still (State.cmdFence s e) := by
  unfold State.cmdFence
  repeat' first
    | with_reducible assumption
    | with_reducible exact Still.refl _
    | with_reducible apply Still.ite
    | with_reducible apply command_still
    | with_reducible apply done_still
    | with_reducible apply fenceReq_still
    | exact Fld.turnFree rfl
    | exact balFld_free _
    | decide
    | with_reducible apply stillParts_of
    | intro _
    | with_reducible refine Still.of_eq (by assumption) ?_
    | with_reducible refine Still.of_eq_snd (by assumption) ?_
    | simp only [still_mk]
    | split

theorem State.cmdUnfence_still {r s : State} (h : r.Still s) (e : SubEntry) : r.Still (State.cmdUnfence s e) := by
  unfold State.cmdUnfence
  repeat' first
    | with_reducible assumption
    | with_reducible exact Still.refl _
    | with_reducible apply Still.ite
    | with_reducible apply command_still
    | with_reducible apply done_still
    | with_reducible apply mcAsk_still
    | exact Fld.turnFree rfl
    | exact balFld_free _
    | decide
    | with_reducible apply stillParts_of
    | intro _
    | with_reducible refine Still.of_eq (by assumption) ?_
    | with_reducible refine Still.of_eq_snd (by assumption) ?_
    | simp only [still_mk]
    | split

theorem State.cmdRoute_still {r s : State} (h : r.Still s) (e : SubEntry) : r.Still (State.cmdRoute s e) := by
  unfold State.cmdRoute
  repeat' first
    | with_reducible assumption
    | with_reducible exact Still.refl _
    | with_reducible apply Still.ite
    | with_reducible apply command_still
    | with_reducible apply done_still
    | with_reducible apply setH_still
    | with_reducible apply wr_still
    | exact Fld.turnFree rfl
    | exact balFld_free _
    | decide
    | with_reducible apply stillParts_of
    | intro _
    | with_reducible refine Still.of_eq (by assumption) ?_
    | with_reducible refine Still.of_eq_snd (by assumption) ?_
    | simp only [still_mk]
    | split

theorem State.cmdFabricCfg_still {r s : State} (h : r.Still s) (e : SubEntry) : r.Still (State.cmdFabricCfg s e) := by
  unfold State.cmdFabricCfg
  repeat' first
    | with_reducible assumption
    | with_reducible exact Still.refl _
    | with_reducible apply Still.ite
    | with_reducible apply command_still
    | with_reducible apply done_still
    | with_reducible apply wr_still
    | exact Fld.turnFree rfl
    | exact balFld_free _
    | decide
    | with_reducible apply stillParts_of
    | intro _
    | with_reducible refine Still.of_eq (by assumption) ?_
    | with_reducible refine Still.of_eq_snd (by assumption) ?_
    | simp only [still_mk]
    | split

theorem State.cmdModId_still {r s : State} (h : r.Still s) (e : SubEntry) : r.Still (State.cmdModId s e) := by
  unfold State.cmdModId
  repeat' first
    | with_reducible assumption
    | with_reducible exact Still.refl _
    | with_reducible apply Still.ite
    | with_reducible apply command_still
    | with_reducible apply done_still
    | with_reducible apply wr_still
    | exact Fld.turnFree rfl
    | exact balFld_free _
    | decide
    | with_reducible apply stillParts_of
    | intro _
    | with_reducible refine Still.of_eq (by assumption) ?_
    | with_reducible refine Still.of_eq_snd (by assumption) ?_
    | simp only [still_mk]
    | split

theorem State.cmdLink_still {r s : State} (h : r.Still s) (e : SubEntry) : r.Still (State.cmdLink s e) := by
  unfold State.cmdLink
  repeat' first
    | with_reducible assumption
    | with_reducible exact Still.refl _
    | with_reducible apply Still.ite
    | with_reducible apply command_still
    | with_reducible apply done_still
    | with_reducible apply setH_still
    | with_reducible apply bump_still
    | exact Fld.turnFree rfl
    | exact balFld_free _
    | decide
    | with_reducible apply stillParts_of
    | intro _
    | with_reducible refine Still.of_eq (by assumption) ?_
    | with_reducible refine Still.of_eq_snd (by assumption) ?_
    | simp only [still_mk]
    | split

theorem State.putHost_still {r s : State} (h : r.Still s) (page : ℕ) (a : ℕ) (d : List Byte) : r.Still (State.putHost s page a d) := by
  unfold State.putHost
  repeat' first
    | with_reducible assumption
    | with_reducible exact Still.refl _
    | with_reducible apply Still.ite
    | with_reducible apply setBytes_still
    | exact Fld.turnFree rfl
    | exact balFld_free _
    | decide
    | with_reducible apply stillParts_of
    | intro _
    | with_reducible refine Still.of_eq (by assumption) ?_
    | with_reducible refine Still.of_eq_snd (by assumption) ?_
    | simp only [still_mk]
    | split

theorem State.cmdFwLoad_still {r s : State} (h : r.Still s) (e : SubEntry) : r.Still (State.cmdFwLoad s e) := by
  unfold State.cmdFwLoad
  repeat' first
    | with_reducible assumption
    | with_reducible exact Still.refl _
    | with_reducible apply Still.ite
    | with_reducible apply command_still
    | with_reducible apply done_still
    | with_reducible apply setObj_still
    | with_reducible apply wr_still
    | with_reducible apply setH_still
    | exact Fld.turnFree rfl
    | exact balFld_free _
    | decide
    | with_reducible apply stillParts_of
    | intro _
    | with_reducible refine Still.of_eq (by assumption) ?_
    | with_reducible refine Still.of_eq_snd (by assumption) ?_
    | simp only [still_mk]
    | split

theorem State.cmdFwSelect_still {r s : State} (h : r.Still s) (e : SubEntry) : r.Still (State.cmdFwSelect s e) := by
  unfold State.cmdFwSelect
  repeat' first
    | with_reducible assumption
    | with_reducible exact Still.refl _
    | with_reducible apply Still.ite
    | with_reducible apply command_still
    | with_reducible apply done_still
    | with_reducible apply mark_still
    | with_reducible apply setH_still
    | exact Fld.turnFree rfl
    | exact balFld_free _
    | decide
    | with_reducible apply stillParts_of
    | intro _
    | with_reducible refine Still.of_eq (by assumption) ?_
    | with_reducible refine Still.of_eq_snd (by assumption) ?_
    | simp only [still_mk]
    | split

theorem State.afterLoad_still {r s : State} (h : r.Still s) : r.Still (State.afterLoad s) := by
  unfold State.afterLoad
  repeat' first
    | with_reducible assumption
    | with_reducible exact Still.refl _
    | with_reducible apply Still.ite
    | with_reducible apply setH_still
    | exact Fld.turnFree rfl
    | exact balFld_free _
    | decide
    | with_reducible apply stillParts_of
    | intro _
    | with_reducible refine Still.of_eq (by assumption) ?_
    | with_reducible refine Still.of_eq_snd (by assumption) ?_
    | simp only [still_mk]
    | split

theorem State.cmdManifest_still {r s : State} (h : r.Still s) (e : SubEntry) : r.Still (State.cmdManifest s e) := by
  unfold State.cmdManifest
  repeat' first
    | with_reducible assumption
    | with_reducible exact Still.refl _
    | with_reducible apply Still.ite
    | with_reducible apply command_still
    | with_reducible apply done_still
    | with_reducible apply afterLoad_still
    | with_reducible apply setObj_still
    | exact Fld.turnFree rfl
    | exact balFld_free _
    | decide
    | with_reducible apply stillParts_of
    | intro _
    | with_reducible refine Still.of_eq (by assumption) ?_
    | with_reducible refine Still.of_eq_snd (by assumption) ?_
    | simp only [still_mk]
    | split

theorem State.cmdOverride_still {r s : State} (h : r.Still s) (e : SubEntry) : r.Still (State.cmdOverride s e) := by
  unfold State.cmdOverride
  repeat' first
    | with_reducible assumption
    | with_reducible exact Still.refl _
    | with_reducible apply Still.ite
    | with_reducible apply command_still
    | with_reducible apply done_still
    | with_reducible apply setObj_still
    | with_reducible apply afterLoad_still
    | exact Fld.turnFree rfl
    | exact balFld_free _
    | decide
    | with_reducible apply stillParts_of
    | intro _
    | with_reducible refine Still.of_eq (by assumption) ?_
    | with_reducible refine Still.of_eq_snd (by assumption) ?_
    | simp only [still_mk]
    | split

theorem State.patternTest_still {r s : State} (h : r.Still s) (k : ℕ) (p : ℕ) : r.Still (State.patternTest s k p) := by
  unfold State.patternTest
  repeat' first
    | with_reducible assumption
    | with_reducible exact Still.refl _
    | with_reducible apply Still.ite
    | with_reducible apply Still.ite_fst
    | with_reducible apply fresh_still
    | with_reducible apply setByte_still
    | rw [List.foldl_cons]
    | rw [List.foldl_nil]
    | exact Fld.turnFree rfl
    | exact balFld_free _
    | decide
    | with_reducible refine Still.foldl ?_ (fun u x => ?_)
    | with_reducible refine Still.foldl_fst ?_ (fun u x => ?_)
    | with_reducible apply stillParts_of
    | intro _
    | with_reducible refine Still.of_eq (by assumption) ?_
    | with_reducible refine Still.of_eq_snd (by assumption) ?_
    | simp only [still_mk]
    | split

theorem State.cmdRepair_still {r s : State} (h : r.Still s) (e : SubEntry) : r.Still (State.cmdRepair s e) := by
  unfold State.cmdRepair
  repeat' first
    | with_reducible assumption
    | with_reducible exact Still.refl _
    | with_reducible apply Still.ite
    | with_reducible apply Still.ite_fst
    | with_reducible apply command_still
    | with_reducible apply fresh_still
    | with_reducible apply done_still
    | with_reducible apply setH_still
    | with_reducible apply patternTest_still
    | exact Fld.turnFree rfl
    | exact balFld_free _
    | decide
    | with_reducible apply stillParts_of
    | intro _
    | with_reducible refine Still.of_eq (by assumption) ?_
    | with_reducible refine Still.of_eq_snd (by assumption) ?_
    | simp only [still_mk]
    | split

theorem State.cmdSnapRead_still {r s : State} (h : r.Still s) (e : SubEntry) : r.Still (State.cmdSnapRead s e) := by
  unfold State.cmdSnapRead
  repeat' first
    | with_reducible assumption
    | with_reducible exact Still.refl _
    | with_reducible apply Still.ite
    | with_reducible apply command_still
    | with_reducible apply done_still
    | with_reducible apply putHost_still
    | exact Fld.turnFree rfl
    | exact balFld_free _
    | decide
    | with_reducible apply stillParts_of
    | intro _
    | with_reducible refine Still.of_eq (by assumption) ?_
    | with_reducible refine Still.of_eq_snd (by assumption) ?_
    | simp only [still_mk]
    | split

theorem State.cmdErrLogRead_still {r s : State} (h : r.Still s) (e : SubEntry) : r.Still (State.cmdErrLogRead s e) := by
  unfold State.cmdErrLogRead
  repeat' first
    | with_reducible assumption
    | with_reducible exact Still.refl _
    | with_reducible apply Still.ite
    | with_reducible apply command_still
    | with_reducible apply done_still
    | with_reducible apply wr_still
    | with_reducible apply putHost_still
    | exact Fld.turnFree rfl
    | exact balFld_free _
    | decide
    | with_reducible apply stillParts_of
    | intro _
    | with_reducible refine Still.of_eq (by assumption) ?_
    | with_reducible refine Still.of_eq_snd (by assumption) ?_
    | simp only [still_mk]
    | split

theorem State.endScan_still {r s : State} (h : r.Still s) (e : SubEntry) (bs : List Byte) : r.Still (State.endScan s e bs) := by
  unfold State.endScan
  repeat' first
    | with_reducible assumption
    | with_reducible exact Still.refl _
    | with_reducible apply Still.ite
    | with_reducible apply complete_still
    | exact Fld.turnFree rfl
    | exact balFld_free _
    | decide
    | with_reducible apply stillParts_of
    | intro _
    | with_reducible refine Still.of_eq (by assumption) ?_
    | with_reducible refine Still.of_eq_snd (by assumption) ?_
    | simp only [still_mk]
    | split

theorem State.cmdScan_still {r s : State} (h : r.Still s) (e : SubEntry) : r.Still (State.cmdScan s e) := by
  unfold State.cmdScan
  repeat' first
    | with_reducible assumption
    | with_reducible exact Still.refl _
    | with_reducible apply Still.ite
    | with_reducible apply Still.ite_fst
    | with_reducible apply command_still
    | with_reducible apply done_still
    | with_reducible apply endScan_still
    | with_reducible apply vread_still
    | with_reducible apply doneWith_still
    | exact Fld.turnFree rfl
    | exact balFld_free _
    | decide
    | with_reducible apply stillParts_of
    | intro _
    | with_reducible refine Still.of_eq (by assumption) ?_
    | with_reducible refine Still.of_eq_snd (by assumption) ?_
    | simp only [still_mk]
    | split

theorem State.keyCommand_still {r s : State} (h : r.Still s) (e : SubEntry) (action : ℕ) : r.Still (State.keyCommand s e action) := by
  unfold State.keyCommand
  repeat' first
    | with_reducible assumption
    | with_reducible exact Still.refl _
    | with_reducible apply Still.ite
    | with_reducible apply done_still
    | with_reducible apply setH_still
    | exact Fld.turnFree rfl
    | exact balFld_free _
    | decide
    | with_reducible apply stillParts_of
    | intro _
    | with_reducible refine Still.of_eq (by assumption) ?_
    | with_reducible refine Still.of_eq_snd (by assumption) ?_
    | simp only [still_mk]
    | split

theorem State.cmdKeyNew_still {r s : State} (h : r.Still s) (e : SubEntry) : r.Still (State.cmdKeyNew s e) := by
  unfold State.cmdKeyNew
  repeat' first
    | with_reducible assumption
    | with_reducible exact Still.refl _
    | with_reducible apply Still.ite
    | with_reducible apply command_still
    | with_reducible apply keyCommand_still
    | exact Fld.turnFree rfl
    | exact balFld_free _
    | decide
    | with_reducible apply stillParts_of
    | intro _
    | with_reducible refine Still.of_eq (by assumption) ?_
    | with_reducible refine Still.of_eq_snd (by assumption) ?_
    | simp only [still_mk]
    | split

theorem State.cmdKeyErase_still {r s : State} (h : r.Still s) (e : SubEntry) : r.Still (State.cmdKeyErase s e) := by
  unfold State.cmdKeyErase
  repeat' first
    | with_reducible assumption
    | with_reducible exact Still.refl _
    | with_reducible apply Still.ite
    | with_reducible apply command_still
    | with_reducible apply keyCommand_still
    | exact Fld.turnFree rfl
    | exact balFld_free _
    | decide
    | with_reducible apply stillParts_of
    | intro _
    | with_reducible refine Still.of_eq (by assumption) ?_
    | with_reducible refine Still.of_eq_snd (by assumption) ?_
    | simp only [still_mk]
    | split

theorem State.cmdDebugNonce_still {r s : State} (h : r.Still s) (e : SubEntry) : r.Still (State.cmdDebugNonce s e) := by
  unfold State.cmdDebugNonce
  repeat' first
    | with_reducible assumption
    | with_reducible exact Still.refl _
    | with_reducible apply Still.ite
    | with_reducible apply command_still
    | with_reducible apply done_still
    | with_reducible apply putHost_still
    | exact Fld.turnFree rfl
    | exact balFld_free _
    | decide
    | with_reducible apply stillParts_of
    | intro _
    | with_reducible refine Still.of_eq (by assumption) ?_
    | with_reducible refine Still.of_eq_snd (by assumption) ?_
    | simp only [still_mk]
    | split

theorem State.flushEnc_still {r s : State} (h : r.Still s) : r.Still (State.flushEnc s) := by
  unfold State.flushEnc
  repeat' first
    | with_reducible assumption
    | with_reducible exact Still.refl _
    | with_reducible apply Still.ite
    | with_reducible apply flushLines_still
    | exact Fld.turnFree rfl
    | exact balFld_free _
    | decide
    | with_reducible apply stillParts_of
    | intro _
    | with_reducible refine Still.of_eq (by assumption) ?_
    | with_reducible refine Still.of_eq_snd (by assumption) ?_
    | simp only [still_mk]
    | split

theorem State.tryUnlock_still {r s : State} (h : r.Still s) (b : List Byte) : r.Still (State.tryUnlock s b).1 := by
  unfold State.tryUnlock
  repeat' first
    | with_reducible assumption
    | with_reducible exact Still.refl _
    | with_reducible apply Still.ite
    | with_reducible apply Still.ite_fst
    | with_reducible apply addH_still
    | with_reducible apply haltAll_still
    | with_reducible apply mark_still
    | with_reducible apply setObj_still
    | with_reducible apply setH_still
    | with_reducible apply flushEnc_still
    | with_reducible apply holdCores_still
    | with_reducible apply wr_still
    | exact Fld.turnFree rfl
    | exact balFld_free _
    | decide
    | with_reducible apply stillParts_of
    | intro _
    | with_reducible refine Still.of_eq (by assumption) ?_
    | with_reducible refine Still.of_eq_snd (by assumption) ?_
    | simp only [still_mk]
    | split

theorem State.cmdDebugUnlock_still {r s : State} (h : r.Still s) (e : SubEntry) : r.Still (State.cmdDebugUnlock s e) := by
  unfold State.cmdDebugUnlock
  repeat' first
    | with_reducible assumption
    | with_reducible exact Still.refl _
    | with_reducible apply Still.ite
    | with_reducible apply Still.ite_fst
    | with_reducible apply command_still
    | with_reducible apply tryUnlock_still
    | with_reducible apply done_still
    | exact Fld.turnFree rfl
    | exact balFld_free _
    | decide
    | with_reducible apply stillParts_of
    | intro _
    | with_reducible refine Still.of_eq (by assumption) ?_
    | with_reducible refine Still.of_eq_snd (by assumption) ?_
    | simp only [still_mk]
    | split

theorem State.cmdSvnCommit_still {r s : State} (h : r.Still s) (e : SubEntry) : r.Still (State.cmdSvnCommit s e) := by
  unfold State.cmdSvnCommit
  repeat' first
    | with_reducible assumption
    | with_reducible exact Still.refl _
    | with_reducible apply Still.ite
    | with_reducible apply command_still
    | with_reducible apply done_still
    | with_reducible apply newMeasurement_still
    | with_reducible apply wr_still
    | exact Fld.turnFree rfl
    | exact balFld_free _
    | decide
    | with_reducible apply stillParts_of
    | intro _
    | with_reducible refine Still.of_eq (by assumption) ?_
    | with_reducible refine Still.of_eq_snd (by assumption) ?_
    | simp only [still_mk]
    | split

theorem State.cmdKeyRevoke_still {r s : State} (h : r.Still s) (e : SubEntry) : r.Still (State.cmdKeyRevoke s e) := by
  unfold State.cmdKeyRevoke
  repeat' first
    | with_reducible assumption
    | with_reducible exact Still.refl _
    | with_reducible apply Still.ite
    | with_reducible apply command_still
    | with_reducible apply done_still
    | with_reducible apply newMeasurement_still
    | with_reducible apply wr_still
    | exact Fld.turnFree rfl
    | exact balFld_free _
    | decide
    | with_reducible apply stillParts_of
    | intro _
    | with_reducible refine Still.of_eq (by assumption) ?_
    | with_reducible refine Still.of_eq_snd (by assumption) ?_
    | simp only [still_mk]
    | split

theorem State.cmdPowerCap_still {r s : State} (h : r.Still s) (e : SubEntry) : r.Still (State.cmdPowerCap s e) := by
  unfold State.cmdPowerCap
  repeat' first
    | with_reducible assumption
    | with_reducible exact Still.refl _
    | with_reducible apply Still.ite
    | with_reducible apply command_still
    | with_reducible apply wr_still
    | with_reducible apply done_still
    | exact Fld.turnFree rfl
    | exact balFld_free _
    | decide
    | with_reducible apply stillParts_of
    | intro _
    | with_reducible refine Still.of_eq (by assumption) ?_
    | with_reducible refine Still.of_eq_snd (by assumption) ?_
    | simp only [still_mk]
    | split

theorem State.cmdPowerRead_still {r s : State} (h : r.Still s) (e : SubEntry) : r.Still (State.cmdPowerRead s e) := by
  unfold State.cmdPowerRead
  repeat' first
    | with_reducible assumption
    | with_reducible exact Still.refl _
    | with_reducible apply Still.ite
    | with_reducible apply command_still
    | with_reducible apply done_still
    | exact Fld.turnFree rfl
    | exact balFld_free _
    | decide
    | with_reducible apply stillParts_of
    | intro _
    | with_reducible refine Still.of_eq (by assumption) ?_
    | with_reducible refine Still.of_eq_snd (by assumption) ?_
    | simp only [still_mk]
    | split

theorem State.cmdThermCfg_still {r s : State} (h : r.Still s) (e : SubEntry) : r.Still (State.cmdThermCfg s e) := by
  unfold State.cmdThermCfg
  repeat' first
    | with_reducible assumption
    | with_reducible exact Still.refl _
    | with_reducible apply Still.ite
    | with_reducible apply command_still
    | with_reducible apply done_still
    | with_reducible apply wr_still
    | exact Fld.turnFree rfl
    | exact balFld_free _
    | decide
    | with_reducible apply stillParts_of
    | intro _
    | with_reducible refine Still.of_eq (by assumption) ?_
    | with_reducible refine Still.of_eq_snd (by assumption) ?_
    | simp only [still_mk]
    | split

theorem execConfig_still (e : SubEntry) {s : State} : s.StillNext (execConfig e s) := by
  unfold execConfig
  repeat' first
    | with_reducible assumption
    | with_reducible exact Still.refl _
    | with_reducible apply StillNext.next
    | with_reducible apply StillNext.ite
    | with_reducible apply Still.ite
    | with_reducible apply cmdConfig_still
    | exact Fld.turnFree rfl
    | exact balFld_free _
    | decide
    | with_reducible apply stillParts_of
    | intro _
    | with_reducible refine Still.of_eq (by assumption) ?_
    | with_reducible refine Still.of_eq_snd (by assumption) ?_
    | simp only [still_mk]
    | split

theorem execHalt_still (e : SubEntry) {s : State} : s.StillNext (execHalt e s) := by
  unfold execHalt
  repeat' first
    | with_reducible assumption
    | with_reducible exact Still.refl _
    | with_reducible apply StillNext.next
    | with_reducible apply StillNext.ite
    | with_reducible apply Still.ite
    | with_reducible apply cmdHalt_still
    | exact Fld.turnFree rfl
    | exact balFld_free _
    | decide
    | with_reducible apply stillParts_of
    | intro _
    | with_reducible refine Still.of_eq (by assumption) ?_
    | with_reducible refine Still.of_eq_snd (by assumption) ?_
    | simp only [still_mk]
    | split

theorem execRelease_still (e : SubEntry) {s : State} : s.StillNext (execRelease e s) := by
  unfold execRelease
  repeat' first
    | with_reducible assumption
    | with_reducible exact Still.refl _
    | with_reducible apply StillNext.next
    | with_reducible apply StillNext.ite
    | with_reducible apply Still.ite
    | with_reducible apply cmdRelease_still
    | exact Fld.turnFree rfl
    | exact balFld_free _
    | decide
    | with_reducible apply stillParts_of
    | intro _
    | with_reducible refine Still.of_eq (by assumption) ?_
    | with_reducible refine Still.of_eq_snd (by assumption) ?_
    | simp only [still_mk]
    | split

theorem execCores_still (e : SubEntry) {s : State} : s.StillNext (execCores e s) := by
  unfold execCores
  repeat' first
    | with_reducible assumption
    | with_reducible exact Still.refl _
    | with_reducible apply StillNext.next
    | with_reducible apply StillNext.ite
    | with_reducible apply Still.ite
    | with_reducible apply cmdCores_still
    | exact Fld.turnFree rfl
    | exact balFld_free _
    | decide
    | with_reducible apply stillParts_of
    | intro _
    | with_reducible refine Still.of_eq (by assumption) ?_
    | with_reducible refine Still.of_eq_snd (by assumption) ?_
    | simp only [still_mk]
    | split

theorem execPfWin_still (e : SubEntry) {s : State} : s.StillNext (execPfWin e s) := by
  unfold execPfWin
  repeat' first
    | with_reducible assumption
    | with_reducible exact Still.refl _
    | with_reducible apply StillNext.next
    | with_reducible apply StillNext.ite
    | with_reducible apply Still.ite
    | with_reducible apply cmdPfWin_still
    | exact Fld.turnFree rfl
    | exact balFld_free _
    | decide
    | with_reducible apply stillParts_of
    | intro _
    | with_reducible refine Still.of_eq (by assumption) ?_
    | with_reducible refine Still.of_eq_snd (by assumption) ?_
    | simp only [still_mk]
    | split

theorem execBank_still (e : SubEntry) {s : State} : s.StillNext (execBank e s) := by
  unfold execBank
  repeat' first
    | with_reducible assumption
    | with_reducible exact Still.refl _
    | with_reducible apply StillNext.next
    | with_reducible apply StillNext.ite
    | with_reducible apply Still.ite
    | with_reducible apply cmdBank_still
    | exact Fld.turnFree rfl
    | exact balFld_free _
    | decide
    | with_reducible apply stillParts_of
    | intro _
    | with_reducible refine Still.of_eq (by assumption) ?_
    | with_reducible refine Still.of_eq_snd (by assumption) ?_
    | simp only [still_mk]
    | split

theorem execFence_still (e : SubEntry) {s : State} : s.StillNext (execFence e s) := by
  unfold execFence
  repeat' first
    | with_reducible assumption
    | with_reducible exact Still.refl _
    | with_reducible apply StillNext.next
    | with_reducible apply StillNext.ite
    | with_reducible apply Still.ite
    | with_reducible apply cmdFence_still
    | exact Fld.turnFree rfl
    | exact balFld_free _
    | decide
    | with_reducible apply stillParts_of
    | intro _
    | with_reducible refine Still.of_eq (by assumption) ?_
    | with_reducible refine Still.of_eq_snd (by assumption) ?_
    | simp only [still_mk]
    | split

theorem execUnfence_still (e : SubEntry) {s : State} : s.StillNext (execUnfence e s) := by
  unfold execUnfence
  repeat' first
    | with_reducible assumption
    | with_reducible exact Still.refl _
    | with_reducible apply StillNext.next
    | with_reducible apply StillNext.ite
    | with_reducible apply Still.ite
    | with_reducible apply cmdUnfence_still
    | exact Fld.turnFree rfl
    | exact balFld_free _
    | decide
    | with_reducible apply stillParts_of
    | intro _
    | with_reducible refine Still.of_eq (by assumption) ?_
    | with_reducible refine Still.of_eq_snd (by assumption) ?_
    | simp only [still_mk]
    | split

theorem execRoute_still (e : SubEntry) {s : State} : s.StillNext (execRoute e s) := by
  unfold execRoute
  repeat' first
    | with_reducible assumption
    | with_reducible exact Still.refl _
    | with_reducible apply StillNext.next
    | with_reducible apply StillNext.ite
    | with_reducible apply Still.ite
    | with_reducible apply cmdRoute_still
    | exact Fld.turnFree rfl
    | exact balFld_free _
    | decide
    | with_reducible apply stillParts_of
    | intro _
    | with_reducible refine Still.of_eq (by assumption) ?_
    | with_reducible refine Still.of_eq_snd (by assumption) ?_
    | simp only [still_mk]
    | split

theorem execFabricCfg_still (e : SubEntry) {s : State} : s.StillNext (execFabricCfg e s) := by
  unfold execFabricCfg
  repeat' first
    | with_reducible assumption
    | with_reducible exact Still.refl _
    | with_reducible apply StillNext.next
    | with_reducible apply StillNext.ite
    | with_reducible apply Still.ite
    | with_reducible apply cmdFabricCfg_still
    | exact Fld.turnFree rfl
    | exact balFld_free _
    | decide
    | with_reducible apply stillParts_of
    | intro _
    | with_reducible refine Still.of_eq (by assumption) ?_
    | with_reducible refine Still.of_eq_snd (by assumption) ?_
    | simp only [still_mk]
    | split

theorem execModId_still (e : SubEntry) {s : State} : s.StillNext (execModId e s) := by
  unfold execModId
  repeat' first
    | with_reducible assumption
    | with_reducible exact Still.refl _
    | with_reducible apply StillNext.next
    | with_reducible apply StillNext.ite
    | with_reducible apply Still.ite
    | with_reducible apply cmdModId_still
    | exact Fld.turnFree rfl
    | exact balFld_free _
    | decide
    | with_reducible apply stillParts_of
    | intro _
    | with_reducible refine Still.of_eq (by assumption) ?_
    | with_reducible refine Still.of_eq_snd (by assumption) ?_
    | simp only [still_mk]
    | split

theorem execLink_still (e : SubEntry) {s : State} : s.StillNext (execLink e s) := by
  unfold execLink
  repeat' first
    | with_reducible assumption
    | with_reducible exact Still.refl _
    | with_reducible apply StillNext.next
    | with_reducible apply StillNext.ite
    | with_reducible apply Still.ite
    | with_reducible apply cmdLink_still
    | exact Fld.turnFree rfl
    | exact balFld_free _
    | decide
    | with_reducible apply stillParts_of
    | intro _
    | with_reducible refine Still.of_eq (by assumption) ?_
    | with_reducible refine Still.of_eq_snd (by assumption) ?_
    | simp only [still_mk]
    | split

theorem execFwLoad_still (e : SubEntry) {s : State} : s.StillNext (execFwLoad e s) := by
  unfold execFwLoad
  repeat' first
    | with_reducible assumption
    | with_reducible exact Still.refl _
    | with_reducible apply StillNext.next
    | with_reducible apply StillNext.ite
    | with_reducible apply Still.ite
    | with_reducible apply cmdFwLoad_still
    | exact Fld.turnFree rfl
    | exact balFld_free _
    | decide
    | with_reducible apply stillParts_of
    | intro _
    | with_reducible refine Still.of_eq (by assumption) ?_
    | with_reducible refine Still.of_eq_snd (by assumption) ?_
    | simp only [still_mk]
    | split

theorem execFwSelect_still (e : SubEntry) {s : State} : s.StillNext (execFwSelect e s) := by
  unfold execFwSelect
  repeat' first
    | with_reducible assumption
    | with_reducible exact Still.refl _
    | with_reducible apply StillNext.next
    | with_reducible apply StillNext.ite
    | with_reducible apply Still.ite
    | with_reducible apply cmdFwSelect_still
    | exact Fld.turnFree rfl
    | exact balFld_free _
    | decide
    | with_reducible apply stillParts_of
    | intro _
    | with_reducible refine Still.of_eq (by assumption) ?_
    | with_reducible refine Still.of_eq_snd (by assumption) ?_
    | simp only [still_mk]
    | split

theorem execManifest_still (e : SubEntry) {s : State} : s.StillNext (execManifest e s) := by
  unfold execManifest
  repeat' first
    | with_reducible assumption
    | with_reducible exact Still.refl _
    | with_reducible apply StillNext.next
    | with_reducible apply StillNext.ite
    | with_reducible apply Still.ite
    | with_reducible apply cmdManifest_still
    | exact Fld.turnFree rfl
    | exact balFld_free _
    | decide
    | with_reducible apply stillParts_of
    | intro _
    | with_reducible refine Still.of_eq (by assumption) ?_
    | with_reducible refine Still.of_eq_snd (by assumption) ?_
    | simp only [still_mk]
    | split

theorem execOverride_still (e : SubEntry) {s : State} : s.StillNext (execOverride e s) := by
  unfold execOverride
  repeat' first
    | with_reducible assumption
    | with_reducible exact Still.refl _
    | with_reducible apply StillNext.next
    | with_reducible apply StillNext.ite
    | with_reducible apply Still.ite
    | with_reducible apply cmdOverride_still
    | exact Fld.turnFree rfl
    | exact balFld_free _
    | decide
    | with_reducible apply stillParts_of
    | intro _
    | with_reducible refine Still.of_eq (by assumption) ?_
    | with_reducible refine Still.of_eq_snd (by assumption) ?_
    | simp only [still_mk]
    | split

theorem execRepair_still (e : SubEntry) {s : State} : s.StillNext (execRepair e s) := by
  unfold execRepair
  repeat' first
    | with_reducible assumption
    | with_reducible exact Still.refl _
    | with_reducible apply StillNext.next
    | with_reducible apply StillNext.ite
    | with_reducible apply Still.ite
    | with_reducible apply cmdRepair_still
    | exact Fld.turnFree rfl
    | exact balFld_free _
    | decide
    | with_reducible apply stillParts_of
    | intro _
    | with_reducible refine Still.of_eq (by assumption) ?_
    | with_reducible refine Still.of_eq_snd (by assumption) ?_
    | simp only [still_mk]
    | split

theorem execSnapRead_still (e : SubEntry) {s : State} : s.StillNext (execSnapRead e s) := by
  unfold execSnapRead
  repeat' first
    | with_reducible assumption
    | with_reducible exact Still.refl _
    | with_reducible apply StillNext.next
    | with_reducible apply StillNext.ite
    | with_reducible apply Still.ite
    | with_reducible apply cmdSnapRead_still
    | exact Fld.turnFree rfl
    | exact balFld_free _
    | decide
    | with_reducible apply stillParts_of
    | intro _
    | with_reducible refine Still.of_eq (by assumption) ?_
    | with_reducible refine Still.of_eq_snd (by assumption) ?_
    | simp only [still_mk]
    | split

theorem execErrLogRead_still (e : SubEntry) {s : State} : s.StillNext (execErrLogRead e s) := by
  unfold execErrLogRead
  repeat' first
    | with_reducible assumption
    | with_reducible exact Still.refl _
    | with_reducible apply StillNext.next
    | with_reducible apply StillNext.ite
    | with_reducible apply Still.ite
    | with_reducible apply cmdErrLogRead_still
    | exact Fld.turnFree rfl
    | exact balFld_free _
    | decide
    | with_reducible apply stillParts_of
    | intro _
    | with_reducible refine Still.of_eq (by assumption) ?_
    | with_reducible refine Still.of_eq_snd (by assumption) ?_
    | simp only [still_mk]
    | split

theorem execScan_still (e : SubEntry) {s : State} : s.StillNext (execScan e s) := by
  unfold execScan
  repeat' first
    | with_reducible assumption
    | with_reducible exact Still.refl _
    | with_reducible apply StillNext.next
    | with_reducible apply StillNext.ite
    | with_reducible apply Still.ite
    | with_reducible apply cmdScan_still
    | exact Fld.turnFree rfl
    | exact balFld_free _
    | decide
    | with_reducible apply stillParts_of
    | intro _
    | with_reducible refine Still.of_eq (by assumption) ?_
    | with_reducible refine Still.of_eq_snd (by assumption) ?_
    | simp only [still_mk]
    | split

theorem execKeyNew_still (e : SubEntry) {s : State} : s.StillNext (execKeyNew e s) := by
  unfold execKeyNew
  repeat' first
    | with_reducible assumption
    | with_reducible exact Still.refl _
    | with_reducible apply StillNext.next
    | with_reducible apply StillNext.ite
    | with_reducible apply Still.ite
    | with_reducible apply cmdKeyNew_still
    | exact Fld.turnFree rfl
    | exact balFld_free _
    | decide
    | with_reducible apply stillParts_of
    | intro _
    | with_reducible refine Still.of_eq (by assumption) ?_
    | with_reducible refine Still.of_eq_snd (by assumption) ?_
    | simp only [still_mk]
    | split

theorem execKeyErase_still (e : SubEntry) {s : State} : s.StillNext (execKeyErase e s) := by
  unfold execKeyErase
  repeat' first
    | with_reducible assumption
    | with_reducible exact Still.refl _
    | with_reducible apply StillNext.next
    | with_reducible apply StillNext.ite
    | with_reducible apply Still.ite
    | with_reducible apply cmdKeyErase_still
    | exact Fld.turnFree rfl
    | exact balFld_free _
    | decide
    | with_reducible apply stillParts_of
    | intro _
    | with_reducible refine Still.of_eq (by assumption) ?_
    | with_reducible refine Still.of_eq_snd (by assumption) ?_
    | simp only [still_mk]
    | split

theorem execDebugNonce_still (e : SubEntry) {s : State} : s.StillNext (execDebugNonce e s) := by
  unfold execDebugNonce
  repeat' first
    | with_reducible assumption
    | with_reducible exact Still.refl _
    | with_reducible apply StillNext.next
    | with_reducible apply StillNext.ite
    | with_reducible apply Still.ite
    | with_reducible apply cmdDebugNonce_still
    | exact Fld.turnFree rfl
    | exact balFld_free _
    | decide
    | with_reducible apply stillParts_of
    | intro _
    | with_reducible refine Still.of_eq (by assumption) ?_
    | with_reducible refine Still.of_eq_snd (by assumption) ?_
    | simp only [still_mk]
    | split

theorem execDebugUnlock_still (e : SubEntry) {s : State} : s.StillNext (execDebugUnlock e s) := by
  unfold execDebugUnlock
  repeat' first
    | with_reducible assumption
    | with_reducible exact Still.refl _
    | with_reducible apply StillNext.next
    | with_reducible apply StillNext.ite
    | with_reducible apply Still.ite
    | with_reducible apply cmdDebugUnlock_still
    | exact Fld.turnFree rfl
    | exact balFld_free _
    | decide
    | with_reducible apply stillParts_of
    | intro _
    | with_reducible refine Still.of_eq (by assumption) ?_
    | with_reducible refine Still.of_eq_snd (by assumption) ?_
    | simp only [still_mk]
    | split

theorem execSvnCommit_still (e : SubEntry) {s : State} : s.StillNext (execSvnCommit e s) := by
  unfold execSvnCommit
  repeat' first
    | with_reducible assumption
    | with_reducible exact Still.refl _
    | with_reducible apply StillNext.next
    | with_reducible apply StillNext.ite
    | with_reducible apply Still.ite
    | with_reducible apply cmdSvnCommit_still
    | exact Fld.turnFree rfl
    | exact balFld_free _
    | decide
    | with_reducible apply stillParts_of
    | intro _
    | with_reducible refine Still.of_eq (by assumption) ?_
    | with_reducible refine Still.of_eq_snd (by assumption) ?_
    | simp only [still_mk]
    | split

theorem execKeyRevoke_still (e : SubEntry) {s : State} : s.StillNext (execKeyRevoke e s) := by
  unfold execKeyRevoke
  repeat' first
    | with_reducible assumption
    | with_reducible exact Still.refl _
    | with_reducible apply StillNext.next
    | with_reducible apply StillNext.ite
    | with_reducible apply Still.ite
    | with_reducible apply cmdKeyRevoke_still
    | exact Fld.turnFree rfl
    | exact balFld_free _
    | decide
    | with_reducible apply stillParts_of
    | intro _
    | with_reducible refine Still.of_eq (by assumption) ?_
    | with_reducible refine Still.of_eq_snd (by assumption) ?_
    | simp only [still_mk]
    | split

theorem execPowerCap_still (e : SubEntry) {s : State} : s.StillNext (execPowerCap e s) := by
  unfold execPowerCap
  repeat' first
    | with_reducible assumption
    | with_reducible exact Still.refl _
    | with_reducible apply StillNext.next
    | with_reducible apply StillNext.ite
    | with_reducible apply Still.ite
    | with_reducible apply cmdPowerCap_still
    | exact Fld.turnFree rfl
    | exact balFld_free _
    | decide
    | with_reducible apply stillParts_of
    | intro _
    | with_reducible refine Still.of_eq (by assumption) ?_
    | with_reducible refine Still.of_eq_snd (by assumption) ?_
    | simp only [still_mk]
    | split

theorem execPowerRead_still (e : SubEntry) {s : State} : s.StillNext (execPowerRead e s) := by
  unfold execPowerRead
  repeat' first
    | with_reducible assumption
    | with_reducible exact Still.refl _
    | with_reducible apply StillNext.next
    | with_reducible apply StillNext.ite
    | with_reducible apply Still.ite
    | with_reducible apply cmdPowerRead_still
    | exact Fld.turnFree rfl
    | exact balFld_free _
    | decide
    | with_reducible apply stillParts_of
    | intro _
    | with_reducible refine Still.of_eq (by assumption) ?_
    | with_reducible refine Still.of_eq_snd (by assumption) ?_
    | simp only [still_mk]
    | split

theorem execThermCfg_still (e : SubEntry) {s : State} : s.StillNext (execThermCfg e s) := by
  unfold execThermCfg
  repeat' first
    | with_reducible assumption
    | with_reducible exact Still.refl _
    | with_reducible apply StillNext.next
    | with_reducible apply StillNext.ite
    | with_reducible apply Still.ite
    | with_reducible apply cmdThermCfg_still
    | exact Fld.turnFree rfl
    | exact balFld_free _
    | decide
    | with_reducible apply stillParts_of
    | intro _
    | with_reducible refine Still.of_eq (by assumption) ?_
    | with_reducible refine Still.of_eq_snd (by assumption) ?_
    | simp only [still_mk]
    | split

theorem State.readEntries_still {r s : State} (h : r.Still s) (q : ℕ) (tag : ℕ) (i : ℕ) (y4 : ℕ) : r.Still (State.readEntries s q tag i y4).1 := by
  induction y4 generalizing s q tag i with
  | zero =>
    unfold State.readEntries
    repeat' first
      | with_reducible assumption
      | with_reducible exact Still.refl _
      | with_reducible apply Still.ite
      | with_reducible apply Still.ite_fst
      | with_reducible apply vread_still
      | exact Fld.turnFree rfl
      | exact balFld_free _
      | decide
      | with_reducible apply stillParts_of
      | intro _
      | with_reducible refine Still.of_eq (by assumption) ?_
      | with_reducible refine Still.of_eq_snd (by assumption) ?_
      | simp only [still_mk]
      | split
  | succ n0 ih =>
    unfold State.readEntries
    repeat' first
      | with_reducible assumption
      | with_reducible exact Still.refl _
      | with_reducible apply Still.ite
      | with_reducible apply Still.ite_fst
      | with_reducible apply vread_still
      | with_reducible apply ih
      | exact Fld.turnFree rfl
      | exact balFld_free _
      | decide
      | with_reducible apply stillParts_of
      | intro _
      | with_reducible refine Still.of_eq (by assumption) ?_
      | with_reducible refine Still.of_eq_snd (by assumption) ?_
      | simp only [still_mk]
      | split

theorem State.cmdPlace_still {r s : State} (h : r.Still s) (e : SubEntry) : r.Still (State.cmdPlace s e) := by
  unfold State.cmdPlace
  repeat' first
    | with_reducible assumption
    | with_reducible exact Still.refl _
    | with_reducible apply Still.ite
    | with_reducible apply Still.ite_fst
    | with_reducible apply command_still
    | with_reducible apply readEntries_still
    | with_reducible apply doneWith_still
    | with_reducible apply vwrite_still
    | rw [List.foldl_cons]
    | rw [List.foldl_nil]
    | exact Fld.turnFree rfl
    | exact balFld_free _
    | decide
    | with_reducible refine Still.foldl ?_ (fun u x => ?_)
    | with_reducible refine Still.foldl_fst ?_ (fun u x => ?_)
    | with_reducible apply stillParts_of
    | intro _
    | with_reducible refine Still.of_eq (by assumption) ?_
    | with_reducible refine Still.of_eq_snd (by assumption) ?_
    | simp only [still_mk]
    | split

theorem execPlace_still (e : SubEntry) {s : State} : s.StillNext (execPlace e s) := by
  unfold execPlace
  repeat' first
    | with_reducible assumption
    | with_reducible exact Still.refl _
    | with_reducible apply StillNext.next
    | with_reducible apply StillNext.ite
    | with_reducible apply Still.ite
    | with_reducible apply cmdPlace_still
    | exact Fld.turnFree rfl
    | exact balFld_free _
    | decide
    | with_reducible apply stillParts_of
    | intro _
    | with_reducible refine Still.of_eq (by assumption) ?_
    | with_reducible refine Still.of_eq_snd (by assumption) ?_
    | simp only [still_mk]
    | split

theorem State.dispatch_still {r s : State} (h : r.Still s) (e : SubEntry) : r.Still (State.dispatch s e) := by
  unfold State.dispatch
  repeat' first
    | with_reducible assumption
    | with_reducible exact Still.refl _
    | with_reducible apply Still.ite
    | with_reducible apply cmdNop_still
    | with_reducible apply cmdVersion_still
    | with_reducible apply cmdSubmit_still
    | with_reducible apply cmdPlan_still
    | with_reducible apply cmdInvalidate_still
    | with_reducible apply cmdAbortFault_still
    | with_reducible apply cmdFqHead_still
    | with_reducible apply cmdMmuCfg_still
    | with_reducible apply cmdPlace_still
    | with_reducible apply cmdReleaseKeep_still
    | with_reducible apply cmdUnit_still
    | with_reducible apply cmdHostWin_still
    | with_reducible apply cmdSwap_still
    | with_reducible apply cmdAdvance_still
    | with_reducible apply cmdBarrier_still
    | with_reducible apply cmdBufCfg_still
    | with_reducible apply cmdCbLoad_still
    | with_reducible apply cmdCbUnload_still
    | with_reducible apply cmdVerdict_still
    | with_reducible apply cmdSetScale_still
    | with_reducible apply cmdSetStep_still
    | with_reducible apply cmdJournal_still
    | with_reducible apply cmdHist_still
    | with_reducible apply cmdConfig_still
    | with_reducible apply cmdHalt_still
    | with_reducible apply cmdRelease_still
    | with_reducible apply cmdCores_still
    | with_reducible apply cmdPfWin_still
    | with_reducible apply cmdBank_still
    | with_reducible apply cmdFence_still
    | with_reducible apply cmdRoute_still
    | with_reducible apply cmdFabricCfg_still
    | with_reducible apply cmdModId_still
    | with_reducible apply cmdLink_still
    | with_reducible apply cmdFwLoad_still
    | with_reducible apply cmdFwSelect_still
    | with_reducible apply cmdManifest_still
    | with_reducible apply cmdOverride_still
    | with_reducible apply cmdRepair_still
    | with_reducible apply cmdUnfence_still
    | with_reducible apply cmdSnapRead_still
    | with_reducible apply cmdErrLogRead_still
    | with_reducible apply cmdScan_still
    | with_reducible apply cmdKeyNew_still
    | with_reducible apply cmdKeyErase_still
    | with_reducible apply cmdDebugNonce_still
    | with_reducible apply cmdDebugUnlock_still
    | with_reducible apply cmdSvnCommit_still
    | with_reducible apply cmdKeyRevoke_still
    | with_reducible apply cmdPowerCap_still
    | with_reducible apply cmdPowerRead_still
    | with_reducible apply cmdThermCfg_still
    | with_reducible apply command_still
    | exact Fld.turnFree rfl
    | exact balFld_free _
    | decide
    | with_reducible apply stillParts_of
    | intro _
    | with_reducible refine Still.of_eq (by assumption) ?_
    | with_reducible refine Still.of_eq_snd (by assumption) ?_
    | simp only [still_mk]
    | split

theorem State.discardDb_still {r s : State} (h : r.Still s) (page : ℕ) (off : ℕ) : r.Still (State.discardDb s page off) := by
  unfold State.discardDb
  repeat' first
    | with_reducible assumption
    | with_reducible exact Still.refl _
    | with_reducible apply Still.ite
    | with_reducible apply fnErr_still
    | with_reducible apply mark_still
    | exact Fld.turnFree rfl
    | exact balFld_free _
    | decide
    | with_reducible apply stillParts_of
    | intro _
    | with_reducible refine Still.of_eq (by assumption) ?_
    | with_reducible refine Still.of_eq_snd (by assumption) ?_
    | simp only [still_mk]
    | split

theorem State.doorbell_still {r s : State} (h : r.Still s) (a : Agent) (port : ℕ) (page : ℕ) (off : ℕ) (body : State → State) (hbody : ∀ (u : State),
    u.Still (body u)) : r.Still (State.doorbell s a port page off body) := by
  unfold State.doorbell
  repeat' first
    | with_reducible assumption
    | with_reducible exact Still.refl _
    | with_reducible apply Still.ite
    | with_reducible refine Still.trans ?_ (hbody _)
    | with_reducible apply fnErr_still
    | exact Fld.turnFree rfl
    | exact balFld_free _
    | decide
    | with_reducible apply stillParts_of
    | intro _
    | with_reducible refine Still.of_eq (by assumption) ?_
    | with_reducible refine Still.of_eq_snd (by assumption) ?_
    | simp only [still_mk]
    | split

theorem State.writeTail_still {r s : State} (h : r.Still s) (page : ℕ) (tail : ℕ) : r.Still (State.writeTail s page tail) := by
  unfold State.writeTail
  repeat' first
    | with_reducible assumption
    | with_reducible exact Still.refl _
    | with_reducible apply Still.ite
    | with_reducible apply discardDb_still
    | with_reducible apply wr_still
    | exact Fld.turnFree rfl
    | exact balFld_free _
    | decide
    | with_reducible apply stillParts_of
    | intro _
    | with_reducible refine Still.of_eq (by assumption) ?_
    | with_reducible refine Still.of_eq_snd (by assumption) ?_
    | simp only [still_mk]
    | split

theorem State.writeHead_still {r s : State} (h : r.Still s) (page : ℕ) (head : ℕ) : r.Still (State.writeHead s page head) := by
  unfold State.writeHead
  repeat' first
    | with_reducible assumption
    | with_reducible exact Still.refl _
    | with_reducible apply Still.ite
    | with_reducible apply discardDb_still
    | with_reducible apply wr_still
    | with_reducible apply drainCq_still
    | exact Fld.turnFree rfl
    | exact balFld_free _
    | decide
    | with_reducible apply stillParts_of
    | intro _
    | with_reducible refine Still.of_eq (by assumption) ?_
    | with_reducible refine Still.of_eq_snd (by assumption) ?_
    | simp only [still_mk]
    | split

theorem State.writeRing_still {r s : State} (h : r.Still s) (page : ℕ) (cq : Bool) (val : ℕ) : r.Still (State.writeRing s page cq val) := by
  unfold State.writeRing
  repeat' first
    | with_reducible assumption
    | with_reducible exact Still.refl _
    | with_reducible apply Still.ite
    | with_reducible apply wr_still
    | with_reducible apply drainCq_still
    | exact Fld.turnFree rfl
    | exact balFld_free _
    | decide
    | with_reducible apply stillParts_of
    | intro _
    | with_reducible refine Still.of_eq (by assumption) ?_
    | with_reducible refine Still.of_eq_snd (by assumption) ?_
    | simp only [still_mk]
    | split

theorem State.writeGo_still {r s : State} (h : r.Still s) (page : ℕ) (line : Line) : r.Still (State.writeGo s page line) := by
  unfold State.writeGo
  repeat' first
    | with_reducible assumption
    | with_reducible exact Still.refl _
    | with_reducible apply Still.ite
    | with_reducible apply discardDb_still
    | with_reducible apply mark_still
    | with_reducible apply dispatch_still
    | exact Fld.turnFree rfl
    | exact balFld_free _
    | decide
    | with_reducible apply stillParts_of
    | intro _
    | with_reducible refine Still.of_eq (by assumption) ?_
    | with_reducible refine Still.of_eq_snd (by assumption) ?_
    | simp only [still_mk]
    | split

theorem State.submitStall_still {r s : State} (h : r.Still s) (q : ℕ) : r.Still (State.submitStall s q) := by
  unfold State.submitStall
  repeat' first
    | with_reducible assumption
    | with_reducible exact Still.refl _
    | with_reducible apply Still.ite
    | with_reducible apply setH_still
    | exact Fld.turnFree rfl
    | exact balFld_free _
    | decide
    | with_reducible apply stillParts_of
    | intro _
    | with_reducible refine Still.of_eq (by assumption) ?_
    | with_reducible refine Still.of_eq_snd (by assumption) ?_
    | simp only [still_mk]
    | split

theorem State.submitGo_still {r s : State} (h : r.Still s) (q : ℕ) : r.Still (State.submitGo s q) := by
  unfold State.submitGo
  repeat' first
    | with_reducible assumption
    | with_reducible exact Still.refl _
    | with_reducible apply Still.ite
    | with_reducible apply setH_still
    | with_reducible apply ev_still
    | exact Fld.turnFree rfl
    | exact balFld_free _
    | decide
    | with_reducible apply stillParts_of
    | intro _
    | with_reducible refine Still.of_eq (by assumption) ?_
    | with_reducible refine Still.of_eq_snd (by assumption) ?_
    | simp only [still_mk]
    | split

theorem State.copyFrom_still {r s : State} (h : r.Still s) (y1 : List ℕ) : r.Still (State.copyFrom s y1) := by
  induction y1 generalizing s with
  | nil =>
    unfold State.copyFrom
    repeat' first
      | with_reducible assumption
      | with_reducible exact Still.refl _
      | with_reducible apply Still.ite
      | with_reducible apply Still.ite_fst
      | with_reducible apply ringRead_still
      | with_reducible apply ringFault_still
      | with_reducible apply submitStall_still
      | with_reducible apply submitGo_still
      | with_reducible apply setH_still
      | with_reducible apply wr_still
      | with_reducible apply dispatch_still
      | exact Fld.turnFree rfl
      | exact balFld_free _
      | decide
      | with_reducible apply stillParts_of
      | intro _
      | with_reducible refine Still.of_eq (by assumption) ?_
      | with_reducible refine Still.of_eq_snd (by assumption) ?_
      | simp only [still_mk]
      | split
  | cons z l ih =>
    unfold State.copyFrom
    repeat' first
      | with_reducible assumption
      | with_reducible exact Still.refl _
      | with_reducible apply Still.ite
      | with_reducible apply Still.ite_fst
      | with_reducible apply ringRead_still
      | with_reducible apply ringFault_still
      | with_reducible apply submitStall_still
      | with_reducible apply submitGo_still
      | with_reducible apply setH_still
      | with_reducible apply wr_still
      | with_reducible apply dispatch_still
      | with_reducible apply ih
      | exact Fld.turnFree rfl
      | exact balFld_free _
      | decide
      | with_reducible apply stillParts_of
      | intro _
      | with_reducible refine Still.of_eq (by assumption) ?_
      | with_reducible refine Still.of_eq_snd (by assumption) ?_
      | simp only [still_mk]
      | split

theorem execSqDoorbell_still (a : Agent) (port : ℕ) (page : ℕ) (tail : ℕ) {s : State} : s.StillNext (execSqDoorbell a port page tail s) := by
  unfold execSqDoorbell
  repeat' first
    | with_reducible assumption
    | with_reducible exact Still.refl _
    | with_reducible apply StillNext.next
    | with_reducible apply StillNext.ite
    | with_reducible apply Still.ite
    | with_reducible apply doorbell_still
    | with_reducible apply writeTail_still
    | exact Fld.turnFree rfl
    | exact balFld_free _
    | decide
    | with_reducible apply stillParts_of
    | intro _
    | with_reducible refine Still.of_eq (by assumption) ?_
    | with_reducible refine Still.of_eq_snd (by assumption) ?_
    | simp only [still_mk]
    | split

theorem execCqDoorbell_still (a : Agent) (port : ℕ) (page : ℕ) (head : ℕ) {s : State} : s.StillNext (execCqDoorbell a port page head s) := by
  unfold execCqDoorbell
  repeat' first
    | with_reducible assumption
    | with_reducible exact Still.refl _
    | with_reducible apply StillNext.next
    | with_reducible apply StillNext.ite
    | with_reducible apply Still.ite
    | with_reducible apply doorbell_still
    | with_reducible apply writeHead_still
    | exact Fld.turnFree rfl
    | exact balFld_free _
    | decide
    | with_reducible apply stillParts_of
    | intro _
    | with_reducible refine Still.of_eq (by assumption) ?_
    | with_reducible refine Still.of_eq_snd (by assumption) ?_
    | simp only [still_mk]
    | split

theorem execRingConfig_still (a : Agent) (page : ℕ) (cq : Bool) (val : ℕ) {s : State} : s.StillNext (execRingConfig a page cq val s) := by
  unfold execRingConfig
  repeat' first
    | with_reducible assumption
    | with_reducible exact Still.refl _
    | with_reducible apply StillNext.next
    | with_reducible apply StillNext.ite
    | with_reducible apply Still.ite
    | with_reducible apply writeRing_still
    | with_reducible apply fnErr_still
    | exact Fld.turnFree rfl
    | exact balFld_free _
    | decide
    | with_reducible apply stillParts_of
    | intro _
    | with_reducible refine Still.of_eq (by assumption) ?_
    | with_reducible refine Still.of_eq_snd (by assumption) ?_
    | simp only [still_mk]
    | split

theorem execUrgentGo_still (a : Agent) (port : ℕ) (page : ℕ) (line : Line) {s : State} : s.StillNext (execUrgentGo a port page line s) := by
  unfold execUrgentGo
  repeat' first
    | with_reducible assumption
    | with_reducible exact Still.refl _
    | with_reducible apply StillNext.next
    | with_reducible apply StillNext.ite
    | with_reducible apply Still.ite
    | with_reducible apply doorbell_still
    | with_reducible apply writeGo_still
    | exact Fld.turnFree rfl
    | exact balFld_free _
    | decide
    | with_reducible apply stillParts_of
    | intro _
    | with_reducible refine Still.of_eq (by assumption) ?_
    | with_reducible refine Still.of_eq_snd (by assumption) ?_
    | simp only [still_mk]
    | split

theorem State.pagePut_still {r s : State} (h : r.Still s) (a : Agent) (port : ℕ) (page : ℕ) (o : ℕ) (val : ℕ) : r.Still (State.pagePut s a port page o
    val) := by
  unfold State.pagePut
  repeat' first
    | with_reducible assumption
    | with_reducible exact Still.refl _
    | with_reducible apply Still.ite
    | with_reducible apply writeRing_still
    | with_reducible apply doorbell_still
    | with_reducible apply writeTail_still
    | with_reducible apply writeHead_still
    | with_reducible apply clearBits_still
    | with_reducible apply writeGo_still
    | exact Fld.turnFree rfl
    | exact balFld_free _
    | decide
    | with_reducible apply stillParts_of
    | intro _
    | with_reducible refine Still.of_eq (by assumption) ?_
    | with_reducible refine Still.of_eq_snd (by assumption) ?_
    | simp only [still_mk]
    | split

theorem State.pageWrite_still {r s : State} (h : r.Still s) (a : Agent) (port : ℕ) (page : ℕ) (o : ℕ) (val : ℕ) : r.Still (State.pageWrite s a port
    page o val) := by
  unfold State.pageWrite
  repeat' first
    | with_reducible assumption
    | with_reducible exact Still.refl _
    | with_reducible apply Still.ite
    | with_reducible apply pagePut_still
    | with_reducible apply fnErr_still
    | exact Fld.turnFree rfl
    | exact balFld_free _
    | decide
    | with_reducible apply stillParts_of
    | intro _
    | with_reducible refine Still.of_eq (by assumption) ?_
    | with_reducible refine Still.of_eq_snd (by assumption) ?_
    | simp only [still_mk]
    | split

theorem State.pageRead_still {r s : State} (h : r.Still s) (a : Agent) (page : ℕ) (o : ℕ) : r.Still (State.pageRead s a page o).1 := by
  unfold State.pageRead
  repeat' first
    | with_reducible assumption
    | with_reducible exact Still.refl _
    | with_reducible apply Still.ite
    | with_reducible apply Still.ite_fst
    | with_reducible apply fnErr_still
    | exact Fld.turnFree rfl
    | exact balFld_free _
    | decide
    | with_reducible apply stillParts_of
    | intro _
    | with_reducible refine Still.of_eq (by assumption) ?_
    | with_reducible refine Still.of_eq_snd (by assumption) ?_
    | simp only [still_mk]
    | split

theorem State.msixPut_still {r s : State} (h : r.Still s) (port : ℕ) (func : ℕ) (o : ℕ) (d : ℕ) : r.Still (State.msixPut s port func o d) := by
  unfold State.msixPut
  repeat' first
    | with_reducible assumption
    | with_reducible exact Still.refl _
    | with_reducible apply Still.ite
    | with_reducible apply setH_still
    | with_reducible apply sendMsix_still
    | exact Fld.turnFree rfl
    | exact balFld_free _
    | decide
    | with_reducible apply stillParts_of
    | intro _
    | with_reducible refine Still.of_eq (by assumption) ?_
    | with_reducible refine Still.of_eq_snd (by assumption) ?_
    | simp only [still_mk]
    | split

theorem State.bar0Dword_still {r s : State} (h : r.Still s) (a : Agent) (port : ℕ) (off : ℕ) (d : ℕ) : r.Still (State.bar0Dword s a port off d) := by
  unfold State.bar0Dword
  repeat' first
    | with_reducible assumption
    | with_reducible exact Still.refl _
    | with_reducible apply Still.ite
    | with_reducible apply msixPut_still
    | with_reducible apply pageWrite_still
    | with_reducible apply busWrite_still
    | exact Fld.turnFree rfl
    | exact balFld_free _
    | decide
    | with_reducible apply stillParts_of
    | intro _
    | with_reducible refine Still.of_eq (by assumption) ?_
    | with_reducible refine Still.of_eq_snd (by assumption) ?_
    | simp only [still_mk]
    | split

theorem State.bar0Write_still {r s : State} (h : r.Still s) (a : Agent) (port : ℕ) (off : ℕ) (d : List Byte) (y5 : ℕ) : r.Still (State.bar0Write s a
    port off d y5) := by
  induction y5 generalizing s a port off d with
  | zero =>
    unfold State.bar0Write
    repeat' first
      | with_reducible assumption
      | with_reducible exact Still.refl _
      | with_reducible apply Still.ite
      | with_reducible apply pageWrite_still
      | with_reducible apply bar0Dword_still
      | with_reducible apply busWrite_still
      | exact Fld.turnFree rfl
      | exact balFld_free _
      | decide
      | with_reducible apply stillParts_of
      | intro _
      | with_reducible refine Still.of_eq (by assumption) ?_
      | with_reducible refine Still.of_eq_snd (by assumption) ?_
      | simp only [still_mk]
      | split
  | succ n0 ih =>
    unfold State.bar0Write
    repeat' first
      | with_reducible assumption
      | with_reducible exact Still.refl _
      | with_reducible apply Still.ite
      | with_reducible apply pageWrite_still
      | with_reducible apply bar0Dword_still
      | with_reducible apply busWrite_still
      | with_reducible apply ih
      | exact Fld.turnFree rfl
      | exact balFld_free _
      | decide
      | with_reducible apply stillParts_of
      | intro _
      | with_reducible refine Still.of_eq (by assumption) ?_
      | with_reducible refine Still.of_eq_snd (by assumption) ?_
      | simp only [still_mk]
      | split

theorem State.bar0Read_still {r s : State} (h : r.Still s) (a : Agent) (port : ℕ) (off : ℕ) (len : ℕ) (y5 : ℕ) : r.Still (State.bar0Read s a port off
    len y5).1 := by
  induction y5 generalizing s a port off len with
  | zero =>
    unfold State.bar0Read
    repeat' first
      | with_reducible assumption
      | with_reducible exact Still.refl _
      | with_reducible apply Still.ite
      | with_reducible apply Still.ite_fst
      | with_reducible apply pageRead_still
      | with_reducible apply busRead_still
      | exact Fld.turnFree rfl
      | exact balFld_free _
      | decide
      | with_reducible apply stillParts_of
      | intro _
      | with_reducible refine Still.of_eq (by assumption) ?_
      | with_reducible refine Still.of_eq_snd (by assumption) ?_
      | simp only [still_mk]
      | split
  | succ n0 ih =>
    unfold State.bar0Read
    repeat' first
      | with_reducible assumption
      | with_reducible exact Still.refl _
      | with_reducible apply Still.ite
      | with_reducible apply Still.ite_fst
      | with_reducible apply pageRead_still
      | with_reducible apply busRead_still
      | with_reducible apply ih
      | exact Fld.turnFree rfl
      | exact balFld_free _
      | decide
      | with_reducible apply stillParts_of
      | intro _
      | with_reducible refine Still.of_eq (by assumption) ?_
      | with_reducible refine Still.of_eq_snd (by assumption) ?_
      | simp only [still_mk]
      | split

theorem State.agentWrite_still {r s : State} (h : r.Still s) (a : Agent) (off : ℕ) (val : ℕ) : r.Still (State.agentWrite s a off val) := by
  unfold State.agentWrite
  repeat' first
    | with_reducible assumption
    | with_reducible exact Still.refl _
    | with_reducible apply Still.ite
    | with_reducible apply pageWrite_still
    | with_reducible apply bar0Dword_still
    | with_reducible apply busWrite_still
    | exact Fld.turnFree rfl
    | exact balFld_free _
    | decide
    | with_reducible apply stillParts_of
    | intro _
    | with_reducible refine Still.of_eq (by assumption) ?_
    | with_reducible refine Still.of_eq_snd (by assumption) ?_
    | simp only [still_mk]
    | split

theorem State.agentRead_still {r s : State} (h : r.Still s) (a : Agent) (off : ℕ) : r.Still (State.agentRead s a off) := by
  unfold State.agentRead
  repeat' first
    | with_reducible assumption
    | with_reducible exact Still.refl _
    | with_reducible apply Still.ite
    | with_reducible apply Still.ite_fst
    | with_reducible apply bar0Read_still
    | exact Fld.turnFree rfl
    | exact balFld_free _
    | decide
    | with_reducible apply stillParts_of
    | intro _
    | with_reducible refine Still.of_eq (by assumption) ?_
    | with_reducible refine Still.of_eq_snd (by assumption) ?_
    | simp only [still_mk]
    | split

theorem execRegisterWrite_still (a : Agent) (off : ℕ) (val : ℕ) {s : State} : s.StillNext (execRegisterWrite a off val s) := by
  unfold execRegisterWrite
  repeat' first
    | with_reducible assumption
    | with_reducible exact Still.refl _
    | with_reducible apply StillNext.next
    | with_reducible apply StillNext.ite
    | with_reducible apply Still.ite
    | with_reducible apply agentWrite_still
    | exact Fld.turnFree rfl
    | exact balFld_free _
    | decide
    | with_reducible apply stillParts_of
    | intro _
    | with_reducible refine Still.of_eq (by assumption) ?_
    | with_reducible refine Still.of_eq_snd (by assumption) ?_
    | simp only [still_mk]
    | split

theorem execRegisterReadClear_still (a : Agent) (off : ℕ) {s : State} : s.StillNext (execRegisterReadClear a off s) := by
  unfold execRegisterReadClear
  repeat' first
    | with_reducible assumption
    | with_reducible exact Still.refl _
    | with_reducible apply StillNext.next
    | with_reducible apply StillNext.ite
    | with_reducible apply Still.ite
    | with_reducible apply agentRead_still
    | exact Fld.turnFree rfl
    | exact balFld_free _
    | decide
    | with_reducible apply stillParts_of
    | intro _
    | with_reducible refine Still.of_eq (by assumption) ?_
    | with_reducible refine Still.of_eq_snd (by assumption) ?_
    | simp only [still_mk]
    | split

theorem execMcRingRequest_still (off : ℕ) (val : ℕ) {s : State} : s.StillNext (execMcRingRequest off val s) := by
  unfold execMcRingRequest
  repeat' first
    | with_reducible assumption
    | with_reducible exact Still.refl _
    | with_reducible apply StillNext.next
    | with_reducible apply StillNext.ite
    | with_reducible apply Still.ite
    | with_reducible apply mcAsk_still
    | exact Fld.turnFree rfl
    | exact balFld_free _
    | decide
    | with_reducible apply stillParts_of
    | intro _
    | with_reducible refine Still.of_eq (by assumption) ?_
    | with_reducible refine Still.of_eq_snd (by assumption) ?_
    | simp only [still_mk]
    | split

theorem execStkRetire_still (a : Agent) (k : ℕ) (val : ℕ) {s : State} : s.StillNext (execStkRetire a k val s) := by
  unfold execStkRetire
  repeat' first
    | with_reducible assumption
    | with_reducible exact Still.refl _
    | with_reducible apply StillNext.next
    | with_reducible apply StillNext.ite
    | with_reducible apply Still.ite
    | with_reducible apply busWrite_still
    | exact Fld.turnFree rfl
    | exact balFld_free _
    | decide
    | with_reducible apply stillParts_of
    | intro _
    | with_reducible refine Still.of_eq (by assumption) ?_
    | with_reducible refine Still.of_eq_snd (by assumption) ?_
    | simp only [still_mk]
    | split

theorem execBadFrameWrite_still (a : Agent) (d : ℕ) (val : ℕ) {s : State} : s.StillNext (execBadFrameWrite a d val s) := by
  unfold execBadFrameWrite
  repeat' first
    | with_reducible assumption
    | with_reducible exact Still.refl _
    | with_reducible apply StillNext.next
    | with_reducible apply StillNext.ite
    | with_reducible apply Still.ite
    | with_reducible apply busWrite_still
    | exact Fld.turnFree rfl
    | exact balFld_free _
    | decide
    | with_reducible apply stillParts_of
    | intro _
    | with_reducible refine Still.of_eq (by assumption) ?_
    | with_reducible refine Still.of_eq_snd (by assumption) ?_
    | simp only [still_mk]
    | split

theorem execWithdraw_still (a : Agent) (d : ℕ) {s : State} : s.StillNext (execWithdraw a d s) := by
  unfold execWithdraw
  repeat' first
    | with_reducible assumption
    | with_reducible exact Still.refl _
    | with_reducible apply StillNext.next
    | with_reducible apply StillNext.ite
    | with_reducible apply Still.ite
    | with_reducible apply busWrite_still
    | exact Fld.turnFree rfl
    | exact balFld_free _
    | decide
    | with_reducible apply stillParts_of
    | intro _
    | with_reducible refine Still.of_eq (by assumption) ?_
    | with_reducible refine Still.of_eq_snd (by assumption) ?_
    | simp only [still_mk]
    | split

theorem execBringIntoService_still (a : Agent) (d : ℕ) {s : State} : s.StillNext (execBringIntoService a d s) := by
  unfold execBringIntoService
  repeat' first
    | with_reducible assumption
    | with_reducible exact Still.refl _
    | with_reducible apply StillNext.next
    | with_reducible apply StillNext.ite
    | with_reducible apply Still.ite
    | with_reducible apply busWrite_still
    | exact Fld.turnFree rfl
    | exact balFld_free _
    | decide
    | with_reducible apply stillParts_of
    | intro _
    | with_reducible refine Still.of_eq (by assumption) ?_
    | with_reducible refine Still.of_eq_snd (by assumption) ?_
    | simp only [still_mk]
    | split

theorem execPmcSelect_still (a : Agent) (i : ℕ) (val : ℕ) {s : State} : s.StillNext (execPmcSelect a i val s) := by
  unfold execPmcSelect
  repeat' first
    | with_reducible assumption
    | with_reducible exact Still.refl _
    | with_reducible apply StillNext.next
    | with_reducible apply StillNext.ite
    | with_reducible apply Still.ite
    | with_reducible apply busWrite_still
    | exact Fld.turnFree rfl
    | exact balFld_free _
    | decide
    | with_reducible apply stillParts_of
    | intro _
    | with_reducible refine Still.of_eq (by assumption) ?_
    | with_reducible refine Still.of_eq_snd (by assumption) ?_
    | simp only [still_mk]
    | split

theorem execBwWindowConfig_still (a : Agent) (port : ℕ) (val : ℕ) {s : State} : s.StillNext (execBwWindowConfig a port val s) := by
  unfold execBwWindowConfig
  repeat' first
    | with_reducible assumption
    | with_reducible exact Still.refl _
    | with_reducible apply StillNext.next
    | with_reducible apply StillNext.ite
    | with_reducible apply Still.ite
    | with_reducible apply busWrite_still
    | exact Fld.turnFree rfl
    | exact balFld_free _
    | decide
    | with_reducible apply stillParts_of
    | intro _
    | with_reducible refine Still.of_eq (by assumption) ?_
    | with_reducible refine Still.of_eq_snd (by assumption) ?_
    | simp only [still_mk]
    | split

theorem execSnapNow_still (a : Agent) (val : ℕ) {s : State} : s.StillNext (execSnapNow a val s) := by
  unfold execSnapNow
  repeat' first
    | with_reducible assumption
    | with_reducible exact Still.refl _
    | with_reducible apply StillNext.next
    | with_reducible apply StillNext.ite
    | with_reducible apply Still.ite
    | with_reducible apply busWrite_still
    | exact Fld.turnFree rfl
    | exact balFld_free _
    | decide
    | with_reducible apply stillParts_of
    | intro _
    | with_reducible refine Still.of_eq (by assumption) ?_
    | with_reducible refine Still.of_eq_snd (by assumption) ?_
    | simp only [still_mk]
    | split

theorem execGhClear_still (a : Agent) (q : ℕ) (sl : ℕ) (val : ℕ) {s : State} : s.StillNext (execGhClear a q sl val s) := by
  unfold execGhClear
  repeat' first
    | with_reducible assumption
    | with_reducible exact Still.refl _
    | with_reducible apply StillNext.next
    | with_reducible apply StillNext.ite
    | with_reducible apply Still.ite
    | with_reducible apply busWrite_still
    | exact Fld.turnFree rfl
    | exact balFld_free _
    | decide
    | with_reducible apply stillParts_of
    | intro _
    | with_reducible refine Still.of_eq (by assumption) ?_
    | with_reducible refine Still.of_eq_snd (by assumption) ?_
    | simp only [still_mk]
    | split

theorem execResCtrlMod_still (a : Agent) (val : ℕ) {s : State} : s.StillNext (execResCtrlMod a val s) := by
  unfold execResCtrlMod
  repeat' first
    | with_reducible assumption
    | with_reducible exact Still.refl _
    | with_reducible apply StillNext.next
    | with_reducible apply StillNext.ite
    | with_reducible apply Still.ite
    | with_reducible apply busWrite_still
    | exact Fld.turnFree rfl
    | exact balFld_free _
    | decide
    | with_reducible apply stillParts_of
    | intro _
    | with_reducible refine Still.of_eq (by assumption) ?_
    | with_reducible refine Still.of_eq_snd (by assumption) ?_
    | simp only [still_mk]
    | split

theorem State.answer_still {r s : State} (h : r.Still s) (status : ℕ) (d : List Byte) : r.Still (State.answer s status d) := by
  unfold State.answer
  repeat' first
    | with_reducible assumption
    | with_reducible exact Still.refl _
    | with_reducible apply Still.ite
    | exact Fld.turnFree rfl
    | exact balFld_free _
    | decide
    | with_reducible apply stillParts_of
    | intro _
    | with_reducible refine Still.of_eq (by assumption) ?_
    | with_reducible refine Still.of_eq_snd (by assumption) ?_
    | simp only [still_mk]
    | split

theorem State.cfgSet_still {r s : State} (h : r.Still s) (f : ℕ) (off : ℕ) (bits : ℕ) : r.Still (State.cfgSet s f off bits) := by
  unfold State.cfgSet
  repeat' first
    | with_reducible assumption
    | with_reducible exact Still.refl _
    | with_reducible apply Still.ite
    | with_reducible apply setH_still
    | exact Fld.turnFree rfl
    | exact balFld_free _
    | decide
    | with_reducible apply stillParts_of
    | intro _
    | with_reducible refine Still.of_eq (by assumption) ?_
    | with_reducible refine Still.of_eq_snd (by assumption) ?_
    | simp only [still_mk]
    | split

theorem State.aerReject_still {r s : State} (h : r.Still s) (port : ℕ) (func : ℕ) (status : ℕ) : r.Still (State.aerReject s port func status) := by
  unfold State.aerReject
  repeat' first
    | with_reducible assumption
    | with_reducible exact Still.refl _
    | with_reducible apply Still.ite
    | with_reducible apply cfgSet_still
    | exact Fld.turnFree rfl
    | exact balFld_free _
    | decide
    | with_reducible apply stillParts_of
    | intro _
    | with_reducible refine Still.of_eq (by assumption) ?_
    | with_reducible refine Still.of_eq_snd (by assumption) ?_
    | simp only [still_mk]
    | split

theorem State.aerCorrectable_still {r s : State} (h : r.Still s) (port : ℕ) (cls : ℕ) (bit : ℕ) : r.Still (State.aerCorrectable s port cls bit) := by
  unfold State.aerCorrectable
  repeat' first
    | with_reducible assumption
    | with_reducible exact Still.refl _
    | with_reducible apply Still.ite
    | with_reducible apply setH_still
    | with_reducible apply cfgSet_still
    | exact Fld.turnFree rfl
    | exact balFld_free _
    | decide
    | with_reducible apply stillParts_of
    | intro _
    | with_reducible refine Still.of_eq (by assumption) ?_
    | with_reducible refine Still.of_eq_snd (by assumption) ?_
    | simp only [still_mk]
    | split

theorem State.reject_still {r0 s : State} (h : r0.Still s) (r : InReq) (cause : ℕ) (status : ℕ) : r0.Still (State.reject s r cause status) := by
  unfold State.reject
  repeat' first
    | with_reducible assumption
    | with_reducible exact Still.refl _
    | with_reducible apply Still.ite
    | with_reducible apply ev_still
    | with_reducible apply bump_still
    | with_reducible apply firstError_still
    | with_reducible apply raisePf_still
    | with_reducible apply wr_still
    | with_reducible apply answer_still
    | with_reducible apply aerReject_still
    | exact Fld.turnFree rfl
    | exact balFld_free _
    | decide
    | with_reducible apply stillParts_of
    | intro _
    | with_reducible refine Still.of_eq (by assumption) ?_
    | with_reducible refine Still.of_eq_snd (by assumption) ?_
    | simp only [still_mk]
    | split

theorem State.reachable_still {r s : State} (h : r.Still s) (c : Client) (va : ℕ) (n : ℕ) (write : Bool) : r.Still (State.reachable s c va n write).1
    := by
  unfold State.reachable
  repeat' first
    | with_reducible assumption
    | with_reducible exact Still.refl _
    | with_reducible apply Still.ite
    | with_reducible apply Still.ite_fst
    | with_reducible apply xlate_still
    | rw [List.foldl_cons]
    | rw [List.foldl_nil]
    | exact Fld.turnFree rfl
    | exact balFld_free _
    | decide
    | with_reducible refine Still.foldl ?_ (fun u x => ?_)
    | with_reducible refine Still.foldl_fst ?_ (fun u x => ?_)
    | with_reducible apply stillParts_of
    | intro _
    | with_reducible refine Still.of_eq (by assumption) ?_
    | with_reducible refine Still.of_eq_snd (by assumption) ?_
    | simp only [still_mk]
    | split

theorem State.bar2Stops_still {r0 s : State} (h : r0.Still s) (r : InReq) (cause : ℕ) : r0.Still (State.bar2Stops s r cause) := by
  unfold State.bar2Stops
  repeat' first
    | with_reducible assumption
    | with_reducible exact Still.refl _
    | with_reducible apply Still.ite
    | with_reducible apply reject_still
    | exact Fld.turnFree rfl
    | exact balFld_free _
    | decide
    | with_reducible apply stillParts_of
    | intro _
    | with_reducible refine Still.of_eq (by assumption) ?_
    | with_reducible refine Still.of_eq_snd (by assumption) ?_
    | simp only [still_mk]
    | split

theorem State.serveInbound_still {r0 s : State} (h : r0.Still s) (r : InReq) : r0.Still (State.serveInbound s r) := by
  unfold State.serveInbound
  repeat' first
    | with_reducible assumption
    | with_reducible exact Still.refl _
    | with_reducible apply Still.ite
    | with_reducible apply Still.ite_fst
    | with_reducible apply answer_still
    | with_reducible apply reachable_still
    | with_reducible apply bar2Stops_still
    | with_reducible apply vwrite_still
    | with_reducible apply vread_still
    | with_reducible apply bar0Write_still
    | with_reducible apply bar0Read_still
    | exact Fld.turnFree rfl
    | exact balFld_free _
    | decide
    | with_reducible apply stillParts_of
    | intro _
    | with_reducible refine Still.of_eq (by assumption) ?_
    | with_reducible refine Still.of_eq_snd (by assumption) ?_
    | simp only [still_mk]
    | split

theorem State.serveNext_still {r0 s : State} (h : r0.Still s) (r : InReq) : r0.Still (State.serveNext s r) := by
  unfold State.serveNext
  repeat' first
    | with_reducible assumption
    | with_reducible exact Still.refl _
    | with_reducible apply Still.ite
    | with_reducible apply serveInbound_still
    | exact Fld.turnFree rfl
    | exact balFld_free _
    | decide
    | with_reducible apply stillParts_of
    | intro _
    | with_reducible refine Still.of_eq (by assumption) ?_
    | with_reducible refine Still.of_eq_snd (by assumption) ?_
    | simp only [still_mk]
    | split

theorem State.retryHeld_still {r s : State} (h : r.Still s) : r.Still (State.retryHeld s) := by
  unfold State.retryHeld
  repeat' first
    | with_reducible assumption
    | with_reducible exact Still.refl _
    | with_reducible apply Still.ite
    | with_reducible apply serveNext_still
    | rw [List.foldl_cons]
    | rw [List.foldl_nil]
    | exact Fld.turnFree rfl
    | exact balFld_free _
    | decide
    | with_reducible refine Still.foldl ?_ (fun u x => ?_)
    | with_reducible refine Still.foldl_fst ?_ (fun u x => ?_)
    | with_reducible apply stillParts_of
    | intro _
    | with_reducible refine Still.of_eq (by assumption) ?_
    | with_reducible refine Still.of_eq_snd (by assumption) ?_
    | simp only [still_mk]
    | split

theorem State.inbound_still {r0 s : State} (h : r0.Still s) (r : InReq) : r0.Still (State.inbound s r) := by
  unfold State.inbound
  repeat' first
    | with_reducible assumption
    | with_reducible exact Still.refl _
    | with_reducible apply Still.ite
    | with_reducible apply answer_still
    | with_reducible apply reject_still
    | with_reducible apply serveNext_still
    | with_reducible apply retryHeld_still
    | exact Fld.turnFree rfl
    | exact balFld_free _
    | decide
    | with_reducible apply stillParts_of
    | intro _
    | with_reducible refine Still.of_eq (by assumption) ?_
    | with_reducible refine Still.of_eq_snd (by assumption) ?_
    | simp only [still_mk]
    | split

theorem State.endLink_still {r s : State} (h : r.Still s) (port : ℕ) (status : ℕ) : r.Still (State.endLink s port status) := by
  unfold State.endLink
  repeat' first
    | with_reducible assumption
    | with_reducible exact Still.refl _
    | with_reducible apply Still.ite
    | with_reducible apply complete_still
    | with_reducible apply setH_still
    | rw [List.foldl_cons]
    | rw [List.foldl_nil]
    | exact Fld.turnFree rfl
    | exact balFld_free _
    | decide
    | with_reducible refine Still.foldl ?_ (fun u x => ?_)
    | with_reducible refine Still.foldl_fst ?_ (fun u x => ?_)
    | with_reducible apply stillParts_of
    | intro _
    | with_reducible refine Still.of_eq (by assumption) ?_
    | with_reducible refine Still.of_eq_snd (by assumption) ?_
    | simp only [still_mk]
    | split

theorem State.resetFunc_still {r s : State} (h : r.Still s) (port : ℕ) (func : ℕ) : r.Still (State.resetFunc s port func) := by
  unfold State.resetFunc
  repeat' first
    | with_reducible assumption
    | with_reducible exact Still.refl _
    | with_reducible apply Still.ite
    | with_reducible apply setH_still
    | rw [List.foldl_cons]
    | rw [List.foldl_nil]
    | exact Fld.turnFree rfl
    | exact balFld_free _
    | decide
    | with_reducible refine Still.foldl ?_ (fun u x => ?_)
    | with_reducible refine Still.foldl_fst ?_ (fun u x => ?_)
    | with_reducible apply stillParts_of
    | intro _
    | with_reducible refine Still.of_eq (by assumption) ?_
    | with_reducible refine Still.of_eq_snd (by assumption) ?_
    | simp only [still_mk]
    | split

theorem State.failStore_still {r s : State} (h : r.Still s) (d : DirectStore) : r.Still (State.failStore s d) := by
  unfold State.failStore
  repeat' first
    | with_reducible assumption
    | with_reducible exact Still.refl _
    | with_reducible apply Still.ite
    | with_reducible apply Still.ite_fst
    | with_reducible apply fresh_still
    | with_reducible apply setBytes_still
    | with_reducible apply raiseFault_still
    | exact Fld.turnFree rfl
    | exact balFld_free _
    | decide
    | with_reducible apply stillParts_of
    | intro _
    | with_reducible refine Still.of_eq (by assumption) ?_
    | with_reducible refine Still.of_eq_snd (by assumption) ?_
    | simp only [still_mk]
    | split

theorem State.failRead_still {r0 s : State} (h : r0.Still s) (r : Req) : r0.Still (State.failRead s r) := by
  unfold State.failRead
  repeat' first
    | with_reducible assumption
    | with_reducible exact Still.refl _
    | with_reducible apply Still.ite
    | with_reducible apply Still.ite_fst
    | with_reducible apply walk_still
    | with_reducible apply syncOut_still
    | with_reducible apply raiseFault_still
    | exact Fld.turnFree rfl
    | exact balFld_free _
    | decide
    | with_reducible apply stillParts_of
    | intro _
    | with_reducible refine Still.of_eq (by assumption) ?_
    | with_reducible refine Still.of_eq_snd (by assumption) ?_
    | simp only [still_mk]
    | split

theorem State.portFalls_still {r s : State} (h : r.Still s) (port : ℕ) : r.Still (State.portFalls s port) := by
  unfold State.portFalls
  repeat' first
    | with_reducible assumption
    | with_reducible exact Still.refl _
    | with_reducible apply Still.ite
    | with_reducible apply failStore_still
    | with_reducible apply failRead_still
    | with_reducible apply resetFunc_still
    | with_reducible apply raisePfOther_still
    | with_reducible apply mark_still
    | rw [List.foldl_cons]
    | rw [List.foldl_nil]
    | exact Fld.turnFree rfl
    | exact balFld_free _
    | decide
    | with_reducible refine Still.foldl ?_ (fun u x => ?_)
    | with_reducible refine Still.foldl_fst ?_ (fun u x => ?_)
    | with_reducible apply stillParts_of
    | intro _
    | with_reducible refine Still.of_eq (by assumption) ?_
    | with_reducible refine Still.of_eq_snd (by assumption) ?_
    | simp only [still_mk]
    | split

theorem State.linkGone_still {r s : State} (h : r.Still s) (port : ℕ) : r.Still (State.linkGone s port) := by
  unfold State.linkGone
  repeat' first
    | with_reducible assumption
    | with_reducible exact Still.refl _
    | with_reducible apply Still.ite
    | with_reducible apply wr_still
    | exact Fld.turnFree rfl
    | exact balFld_free _
    | decide
    | with_reducible apply stillParts_of
    | intro _
    | with_reducible refine Still.of_eq (by assumption) ?_
    | with_reducible refine Still.of_eq_snd (by assumption) ?_
    | simp only [still_mk]
    | split

theorem State.portDown_still {r s : State} (h : r.Still s) (port : ℕ) : r.Still (State.portDown s port) := by
  unfold State.portDown
  repeat' first
    | with_reducible assumption
    | with_reducible exact Still.refl _
    | with_reducible apply Still.ite
    | with_reducible apply portFalls_still
    | with_reducible apply linkGone_still
    | exact Fld.turnFree rfl
    | exact balFld_free _
    | decide
    | with_reducible apply stillParts_of
    | intro _
    | with_reducible refine Still.of_eq (by assumption) ?_
    | with_reducible refine Still.of_eq_snd (by assumption) ?_
    | simp only [still_mk]
    | split

theorem State.laneFail_still {r s : State} (h : r.Still s) (port : ℕ) (lane : ℕ) : r.Still (State.laneFail s port lane) := by
  unfold State.laneFail
  repeat' first
    | with_reducible assumption
    | with_reducible exact Still.refl _
    | with_reducible apply Still.ite
    | with_reducible apply setH_still
    | with_reducible apply bump_still
    | with_reducible apply wr_still
    | with_reducible apply mark_still
    | with_reducible apply raisePf_still
    | with_reducible apply portDown_still
    | exact Fld.turnFree rfl
    | exact balFld_free _
    | decide
    | with_reducible apply stillParts_of
    | intro _
    | with_reducible refine Still.of_eq (by assumption) ?_
    | with_reducible refine Still.of_eq_snd (by assumption) ?_
    | simp only [still_mk]
    | split

theorem State.crcFail_still {r s : State} (h : r.Still s) (port : ℕ) (lane : ℕ) : r.Still (State.crcFail s port lane) := by
  unfold State.crcFail
  repeat' first
    | with_reducible assumption
    | with_reducible exact Still.refl _
    | with_reducible apply Still.ite
    | with_reducible apply addH_still
    | with_reducible apply bump_still
    | with_reducible apply aerCorrectable_still
    | with_reducible apply mcLog_still
    | with_reducible apply raisePf_still
    | with_reducible apply mark_still
    | with_reducible apply setH_still
    | with_reducible apply laneFail_still
    | exact Fld.turnFree rfl
    | exact balFld_free _
    | decide
    | with_reducible apply stillParts_of
    | intro _
    | with_reducible refine Still.of_eq (by assumption) ?_
    | with_reducible refine Still.of_eq_snd (by assumption) ?_
    | simp only [still_mk]
    | split

theorem State.l2Line_still {r s : State} (h : r.Still s) (q : ℕ) (c : ℕ) (pa : ℕ) : r.Still (State.l2Line s q c pa).1 := by
  unfold State.l2Line
  repeat' first
    | with_reducible assumption
    | with_reducible exact Still.refl _
    | with_reducible apply Still.ite
    | with_reducible apply Still.ite_fst
    | with_reducible apply vread_still
    | exact Fld.turnFree rfl
    | exact balFld_free _
    | decide
    | with_reducible apply stillParts_of
    | intro _
    | with_reducible refine Still.of_eq (by assumption) ?_
    | with_reducible refine Still.of_eq_snd (by assumption) ?_
    | simp only [still_mk]
    | split

theorem State.l2Access_still {r s : State} (h : r.Still s) (q : ℕ) (c : ℕ) (pa : ℕ) (len : ℕ) (write : Bool) (d : List Byte) (y7 : ℕ) : r.Still
    (State.l2Access s q c pa len write d y7).1 := by
  induction y7 generalizing s q c pa len write d with
  | zero =>
    unfold State.l2Access
    repeat' first
      | with_reducible assumption
      | with_reducible exact Still.refl _
      | with_reducible apply Still.ite
      | with_reducible apply Still.ite_fst
      | with_reducible apply l2Line_still
      | exact Fld.turnFree rfl
      | exact balFld_free _
      | decide
      | with_reducible apply stillParts_of
      | intro _
      | with_reducible refine Still.of_eq (by assumption) ?_
      | with_reducible refine Still.of_eq_snd (by assumption) ?_
      | simp only [still_mk]
      | split
  | succ n0 ih =>
    unfold State.l2Access
    repeat' first
      | with_reducible assumption
      | with_reducible exact Still.refl _
      | with_reducible apply Still.ite
      | with_reducible apply Still.ite_fst
      | with_reducible apply l2Line_still
      | with_reducible apply ih
      | exact Fld.turnFree rfl
      | exact balFld_free _
      | decide
      | with_reducible apply stillParts_of
      | intro _
      | with_reducible refine Still.of_eq (by assumption) ?_
      | with_reducible refine Still.of_eq_snd (by assumption) ?_
      | simp only [still_mk]
      | split

theorem State.maintain_still {r s : State} (h : r.Still s) (q : ℕ) (action : ℕ) : r.Still (State.maintain s q action) := by
  unfold State.maintain
  repeat' first
    | with_reducible assumption
    | with_reducible exact Still.refl _
    | with_reducible apply Still.ite
    | with_reducible apply cleanL2_still
    | with_reducible apply dropL2_still
    | with_reducible apply flushL2_still
    | rw [List.foldl_cons]
    | rw [List.foldl_nil]
    | exact Fld.turnFree rfl
    | exact balFld_free _
    | decide
    | with_reducible refine Still.foldl ?_ (fun u x => ?_)
    | with_reducible refine Still.foldl_fst ?_ (fun u x => ?_)
    | with_reducible apply stillParts_of
    | intro _
    | with_reducible refine Still.of_eq (by assumption) ?_
    | with_reducible refine Still.of_eq_snd (by assumption) ?_
    | simp only [still_mk]
    | split

theorem State.localWrite_still {r s : State} (h : r.Still s) (q : ℕ) (o : ℕ) (v : ℕ) : r.Still (State.localWrite s q o v) := by
  unfold State.localWrite
  repeat' first
    | with_reducible assumption
    | with_reducible exact Still.refl _
    | with_reducible apply Still.ite
    | with_reducible apply setH_still
    | with_reducible apply maintain_still
    | exact Fld.turnFree rfl
    | exact balFld_free _
    | decide
    | with_reducible apply stillParts_of
    | intro _
    | with_reducible refine Still.of_eq (by assumption) ?_
    | with_reducible refine Still.of_eq_snd (by assumption) ?_
    | simp only [still_mk]
    | split

theorem State.coreAccess_still {r s : State} (h : r.Still s) (x : CoreAcc) : r.Still (State.coreAccess s x) := by
  unfold State.coreAccess
  repeat' first
    | with_reducible assumption
    | with_reducible exact Still.refl _
    | with_reducible apply Still.ite
    | with_reducible apply Still.ite_fst
    | with_reducible apply answer_still
    | with_reducible apply flushL2_still
    | with_reducible apply l2Access_still
    | with_reducible apply vwrite_still
    | with_reducible apply vread_still
    | with_reducible apply bar0Write_still
    | with_reducible apply bar0Read_still
    | with_reducible apply localWrite_still
    | with_reducible apply setBytes_still
    | exact Fld.turnFree rfl
    | exact balFld_free _
    | decide
    | with_reducible apply stillParts_of
    | intro _
    | with_reducible refine Still.of_eq (by assumption) ?_
    | with_reducible refine Still.of_eq_snd (by assumption) ?_
    | simp only [still_mk]
    | split

theorem State.tapLine_still {r s : State} (h : r.Still s) (dr : ℕ) : r.Still (State.tapLine s dr) := by
  unfold State.tapLine
  repeat' first
    | with_reducible assumption
    | with_reducible exact Still.refl _
    | with_reducible apply Still.ite
    | with_reducible apply setBytes_still
    | with_reducible apply setPoison_still
    | with_reducible apply answer_still
    | exact Fld.turnFree rfl
    | exact balFld_free _
    | decide
    | with_reducible apply stillParts_of
    | intro _
    | with_reducible refine Still.of_eq (by assumption) ?_
    | with_reducible refine Still.of_eq_snd (by assumption) ?_
    | simp only [still_mk]
    | split

theorem State.remakeStore_still {r s : State} (h : r.Still s) (d : DirectStore) : r.Still (State.remakeStore s d) := by
  unfold State.remakeStore
  repeat' first
    | with_reducible assumption
    | with_reducible exact Still.refl _
    | with_reducible apply Still.ite
    | with_reducible apply Still.ite_fst
    | with_reducible apply xlate_still
    | with_reducible apply vwrite_still
    | exact Fld.turnFree rfl
    | exact balFld_free _
    | decide
    | with_reducible apply stillParts_of
    | intro _
    | with_reducible refine Still.of_eq (by assumption) ?_
    | with_reducible refine Still.of_eq_snd (by assumption) ?_
    | simp only [still_mk]
    | split

theorem execBar2ReadTimeout_still (port : ℕ) (tag : ℕ) {s : State} : s.StillNext (execBar2ReadTimeout port tag s) := by
  unfold execBar2ReadTimeout
  repeat' first
    | with_reducible assumption
    | with_reducible exact Still.refl _
    | with_reducible apply StillNext.next
    | with_reducible apply StillNext.ite
    | with_reducible apply Still.ite
    | with_reducible apply reject_still
    | exact Fld.turnFree rfl
    | exact balFld_free _
    | decide
    | with_reducible apply stillParts_of
    | intro _
    | with_reducible refine Still.of_eq (by assumption) ?_
    | with_reducible refine Still.of_eq_snd (by assumption) ?_
    | simp only [still_mk]
    | split

theorem execHostSnoop_still (_addr : ℕ) {s : State} : s.StillNext (execHostSnoop _addr s) := by
  unfold execHostSnoop
  repeat' first
    | with_reducible assumption
    | with_reducible exact Still.refl _
    | with_reducible apply StillNext.next
    | with_reducible apply StillNext.ite
    | with_reducible apply Still.ite
    | with_reducible apply answer_still
    | exact Fld.turnFree rfl
    | exact balFld_free _
    | decide
    | with_reducible apply stillParts_of
    | intro _
    | with_reducible refine Still.of_eq (by assumption) ?_
    | with_reducible refine Still.of_eq_snd (by assumption) ?_
    | simp only [still_mk]
    | split

theorem execHostAck_still (req : ℕ) {s : State} : s.StillNext (execHostAck req s) := by
  unfold execHostAck
  repeat' first
    | with_reducible assumption
    | with_reducible exact Still.refl _
    | with_reducible apply StillNext.next
    | with_reducible apply StillNext.ite
    | with_reducible apply Still.ite
    | with_reducible apply setBytes_still
    | exact Fld.turnFree rfl
    | exact balFld_free _
    | decide
    | with_reducible apply stillParts_of
    | intro _
    | with_reducible refine Still.of_eq (by assumption) ?_
    | with_reducible refine Still.of_eq_snd (by assumption) ?_
    | simp only [still_mk]
    | split

theorem execHostRequestTimeout_still (req : ℕ) {s : State} : s.StillNext (execHostRequestTimeout req s) := by
  unfold execHostRequestTimeout
  repeat' first
    | with_reducible assumption
    | with_reducible exact Still.refl _
    | with_reducible apply StillNext.next
    | with_reducible apply StillNext.ite
    | with_reducible apply Still.ite
    | with_reducible apply failStore_still
    | with_reducible apply failRead_still
    | exact Fld.turnFree rfl
    | exact balFld_free _
    | decide
    | with_reducible apply stillParts_of
    | intro _
    | with_reducible refine Still.of_eq (by assumption) ?_
    | with_reducible refine Still.of_eq_snd (by assumption) ?_
    | simp only [still_mk]
    | split

theorem execFlitCrcFail_still (port : ℕ) (lane : ℕ) (fec : ℕ) {s : State} : s.StillNext (execFlitCrcFail port lane fec s) := by
  unfold execFlitCrcFail
  repeat' first
    | with_reducible assumption
    | with_reducible exact Still.refl _
    | with_reducible apply StillNext.next
    | with_reducible apply StillNext.ite
    | with_reducible apply Still.ite
    | with_reducible apply crcFail_still
    | with_reducible apply bump_still
    | exact Fld.turnFree rfl
    | exact balFld_free _
    | decide
    | with_reducible apply stillParts_of
    | intro _
    | with_reducible refine Still.of_eq (by assumption) ?_
    | with_reducible refine Still.of_eq_snd (by assumption) ?_
    | simp only [still_mk]
    | split

theorem execFlitNak_still (port : ℕ) {s : State} : s.StillNext (execFlitNak port s) := by
  unfold execFlitNak
  repeat' first
    | with_reducible assumption
    | with_reducible exact Still.refl _
    | with_reducible apply StillNext.next
    | with_reducible apply StillNext.ite
    | with_reducible apply Still.ite
    | with_reducible apply bump_still
    | with_reducible apply aerCorrectable_still
    | exact Fld.turnFree rfl
    | exact balFld_free _
    | decide
    | with_reducible apply stillParts_of
    | intro _
    | with_reducible refine Still.of_eq (by assumption) ?_
    | with_reducible refine Still.of_eq_snd (by assumption) ?_
    | simp only [still_mk]
    | split

theorem execReplayTimeout_still (port : ℕ) (rollover : Bool) {s : State} : s.StillNext (execReplayTimeout port rollover s) := by
  unfold execReplayTimeout
  repeat' first
    | with_reducible assumption
    | with_reducible exact Still.refl _
    | with_reducible apply StillNext.next
    | with_reducible apply StillNext.ite
    | with_reducible apply Still.ite
    | with_reducible apply bump_still
    | with_reducible apply aerCorrectable_still
    | exact Fld.turnFree rfl
    | exact balFld_free _
    | decide
    | with_reducible apply stillParts_of
    | intro _
    | with_reducible refine Still.of_eq (by assumption) ?_
    | with_reducible refine Still.of_eq_snd (by assumption) ?_
    | simp only [still_mk]
    | split

theorem execPortLaneFailure_still (port : ℕ) (lane : ℕ) {s : State} : s.StillNext (execPortLaneFailure port lane s) := by
  unfold execPortLaneFailure
  repeat' first
    | with_reducible assumption
    | with_reducible exact Still.refl _
    | with_reducible apply StillNext.next
    | with_reducible apply StillNext.ite
    | with_reducible apply Still.ite
    | with_reducible apply laneFail_still
    | exact Fld.turnFree rfl
    | exact balFld_free _
    | decide
    | with_reducible apply stillParts_of
    | intro _
    | with_reducible refine Still.of_eq (by assumption) ?_
    | with_reducible refine Still.of_eq_snd (by assumption) ?_
    | simp only [still_mk]
    | split

theorem execLinkDown_still (port : ℕ) {s : State} : s.StillNext (execLinkDown port s) := by
  unfold execLinkDown
  repeat' first
    | with_reducible assumption
    | with_reducible exact Still.refl _
    | with_reducible apply StillNext.next
    | with_reducible apply StillNext.ite
    | with_reducible apply Still.ite
    | with_reducible apply portDown_still
    | exact Fld.turnFree rfl
    | exact balFld_free _
    | decide
    | with_reducible apply stillParts_of
    | intro _
    | with_reducible refine Still.of_eq (by assumption) ?_
    | with_reducible refine Still.of_eq_snd (by assumption) ?_
    | simp only [still_mk]
    | split

theorem execLinkUp_still (port : ℕ) (width : ℕ) (rate : ℕ) (flit : Bool) (cache : Bool) {s : State} : s.StillNext (execLinkUp port width rate flit
    cache s) := by
  unfold execLinkUp
  repeat' first
    | with_reducible assumption
    | with_reducible exact Still.refl _
    | with_reducible apply StillNext.next
    | with_reducible apply StillNext.ite
    | with_reducible apply Still.ite
    | with_reducible apply wr_still
    | with_reducible apply mark_still
    | with_reducible apply endLink_still
    | exact Fld.turnFree rfl
    | exact balFld_free _
    | decide
    | with_reducible apply stillParts_of
    | intro _
    | with_reducible refine Still.of_eq (by assumption) ?_
    | with_reducible refine Still.of_eq_snd (by assumption) ?_
    | simp only [still_mk]
    | split

theorem execRecoveryExit_still (port : ℕ) {s : State} : s.StillNext (execRecoveryExit port s) := by
  unfold execRecoveryExit
  repeat' first
    | with_reducible assumption
    | with_reducible exact Still.refl _
    | with_reducible apply StillNext.next
    | with_reducible apply StillNext.ite
    | with_reducible apply Still.ite
    | with_reducible apply wr_still
    | with_reducible apply endLink_still
    | exact Fld.turnFree rfl
    | exact balFld_free _
    | decide
    | with_reducible apply stillParts_of
    | intro _
    | with_reducible refine Still.of_eq (by assumption) ?_
    | with_reducible refine Still.of_eq_snd (by assumption) ?_
    | simp only [still_mk]
    | split

theorem execLinkTrainingTimeout_still (port : ℕ) {s : State} : s.StillNext (execLinkTrainingTimeout port s) := by
  unfold execLinkTrainingTimeout
  repeat' first
    | with_reducible assumption
    | with_reducible exact Still.refl _
    | with_reducible apply StillNext.next
    | with_reducible apply StillNext.ite
    | with_reducible apply Still.ite
    | with_reducible apply endLink_still
    | exact Fld.turnFree rfl
    | exact balFld_free _
    | decide
    | with_reducible apply stillParts_of
    | intro _
    | with_reducible refine Still.of_eq (by assumption) ?_
    | with_reducible refine Still.of_eq_snd (by assumption) ?_
    | simp only [still_mk]
    | split

theorem execPortReset_still (port : ℕ) (hot : Bool) {s : State} : s.StillNext (execPortReset port hot s) := by
  unfold execPortReset
  repeat' first
    | with_reducible assumption
    | with_reducible exact Still.refl _
    | with_reducible apply StillNext.next
    | with_reducible apply StillNext.ite
    | with_reducible apply Still.ite
    | with_reducible apply portFalls_still
    | with_reducible apply setH_still
    | with_reducible apply portDown_still
    | exact Fld.turnFree rfl
    | exact balFld_free _
    | decide
    | with_reducible apply stillParts_of
    | intro _
    | with_reducible refine Still.of_eq (by assumption) ?_
    | with_reducible refine Still.of_eq_snd (by assumption) ?_
    | simp only [still_mk]
    | split

theorem execPerstNRelease_still (port : ℕ) {s : State} : s.StillNext (execPerstNRelease port s) := by
  unfold execPerstNRelease
  repeat' first
    | with_reducible assumption
    | with_reducible exact Still.refl _
    | with_reducible apply StillNext.next
    | with_reducible apply StillNext.ite
    | with_reducible apply Still.ite
    | with_reducible apply setH_still
    | exact Fld.turnFree rfl
    | exact balFld_free _
    | decide
    | with_reducible apply stillParts_of
    | intro _
    | with_reducible refine Still.of_eq (by assumption) ?_
    | with_reducible refine Still.of_eq_snd (by assumption) ?_
    | simp only [still_mk]
    | split

theorem State.functionReset_still {r s : State} (h : r.Still s) (port : ℕ) (func : ℕ) : r.Still (State.functionReset s port func) := by
  unfold State.functionReset
  repeat' first
    | with_reducible assumption
    | with_reducible exact Still.refl _
    | with_reducible apply Still.ite
    | with_reducible apply haltQuarter_still
    | with_reducible apply wr_still
    | with_reducible apply resetFunc_still
    | exact Fld.turnFree rfl
    | exact balFld_free _
    | decide
    | with_reducible apply stillParts_of
    | intro _
    | with_reducible refine Still.of_eq (by assumption) ?_
    | with_reducible refine Still.of_eq_snd (by assumption) ?_
    | simp only [still_mk]
    | split

theorem execFunctionLevelReset_still (port : ℕ) (func : ℕ) {s : State} : s.StillNext (execFunctionLevelReset port func s) := by
  unfold execFunctionLevelReset
  repeat' first
    | with_reducible assumption
    | with_reducible exact Still.refl _
    | with_reducible apply StillNext.next
    | with_reducible apply StillNext.ite
    | with_reducible apply Still.ite
    | with_reducible apply functionReset_still
    | exact Fld.turnFree rfl
    | exact balFld_free _
    | decide
    | with_reducible apply stillParts_of
    | intro _
    | with_reducible refine Still.of_eq (by assumption) ?_
    | with_reducible refine Still.of_eq_snd (by assumption) ?_
    | simp only [still_mk]
    | split

theorem execIdeIntegrityFail_still (port : ℕ) (stream : ℕ) {s : State} : s.StillNext (execIdeIntegrityFail port stream s) := by
  unfold execIdeIntegrityFail
  repeat' first
    | with_reducible assumption
    | with_reducible exact Still.refl _
    | with_reducible apply StillNext.next
    | with_reducible apply StillNext.ite
    | with_reducible apply Still.ite
    | with_reducible apply raisePf_still
    | with_reducible apply mark_still
    | with_reducible apply setH_still
    | exact Fld.turnFree rfl
    | exact balFld_free _
    | decide
    | with_reducible apply stillParts_of
    | intro _
    | with_reducible refine Still.of_eq (by assumption) ?_
    | with_reducible refine Still.of_eq_snd (by assumption) ?_
    | simp only [still_mk]
    | split

theorem execMaintenanceAction_still (q : ℕ) (action : ℕ) {s : State} : s.StillNext (execMaintenanceAction q action s) := by
  unfold execMaintenanceAction
  repeat' first
    | with_reducible assumption
    | with_reducible exact Still.refl _
    | with_reducible apply StillNext.next
    | with_reducible apply StillNext.ite
    | with_reducible apply Still.ite
    | with_reducible apply maintain_still
    | exact Fld.turnFree rfl
    | exact balFld_free _
    | decide
    | with_reducible apply stillParts_of
    | intro _
    | with_reducible refine Still.of_eq (by assumption) ?_
    | with_reducible refine Still.of_eq_snd (by assumption) ?_
    | simp only [still_mk]
    | split

theorem execCoreRelease_still (a : Agent) (q : ℕ) (c : ℕ) {s : State} : s.StillNext (execCoreRelease a q c s) := by
  unfold execCoreRelease
  repeat' first
    | with_reducible assumption
    | with_reducible exact Still.refl _
    | with_reducible apply StillNext.next
    | with_reducible apply StillNext.ite
    | with_reducible apply Still.ite
    | with_reducible apply busWrite_still
    | exact Fld.turnFree rfl
    | exact balFld_free _
    | decide
    | with_reducible apply stillParts_of
    | intro _
    | with_reducible refine Still.of_eq (by assumption) ?_
    | with_reducible refine Still.of_eq_snd (by assumption) ?_
    | simp only [still_mk]
    | split

theorem execCoreHold_still (a : Agent) (q : ℕ) (c : ℕ) {s : State} : s.StillNext (execCoreHold a q c s) := by
  unfold execCoreHold
  repeat' first
    | with_reducible assumption
    | with_reducible exact Still.refl _
    | with_reducible apply StillNext.next
    | with_reducible apply StillNext.ite
    | with_reducible apply Still.ite
    | with_reducible apply busWrite_still
    | exact Fld.turnFree rfl
    | exact balFld_free _
    | decide
    | with_reducible apply stillParts_of
    | intro _
    | with_reducible refine Still.of_eq (by assumption) ?_
    | with_reducible refine Still.of_eq_snd (by assumption) ?_
    | simp only [still_mk]
    | split

theorem State.bootCfw_still {r s : State} (h : r.Still s) : r.Still (State.bootCfw s).1 := by
  unfold State.bootCfw
  repeat' first
    | with_reducible assumption
    | with_reducible exact Still.refl _
    | with_reducible apply Still.ite
    | with_reducible apply Still.ite_fst
    | with_reducible apply wr_still
    | with_reducible apply mark_still
    | exact Fld.turnFree rfl
    | exact balFld_free _
    | decide
    | with_reducible apply stillParts_of
    | intro _
    | with_reducible refine Still.of_eq (by assumption) ?_
    | with_reducible refine Still.of_eq_snd (by assumption) ?_
    | simp only [still_mk]
    | split

theorem State.useObject_still {r s : State} (h : r.Still s) (use : ℕ) (src : ℕ) (ty : ℕ) : r.Still (State.useObject s use src ty) := by
  unfold State.useObject
  repeat' first
    | with_reducible assumption
    | with_reducible exact Still.refl _
    | with_reducible apply Still.ite
    | with_reducible apply setObj_still
    | exact Fld.turnFree rfl
    | exact balFld_free _
    | decide
    | with_reducible apply stillParts_of
    | intro _
    | with_reducible refine Still.of_eq (by assumption) ?_
    | with_reducible refine Still.of_eq_snd (by assumption) ?_
    | simp only [still_mk]
    | split

theorem State.startControl_still {r s : State} (h : r.Still s) (pair0 : Bool) (pair1 : Bool) : r.Still (State.startControl s pair0 pair1) := by
  unfold State.startControl
  repeat' first
    | with_reducible assumption
    | with_reducible exact Still.refl _
    | with_reducible apply Still.ite
    | with_reducible apply Still.ite_fst
    | with_reducible apply bootCfw_still
    | with_reducible apply useObject_still
    | with_reducible apply wr_still
    | with_reducible apply setH_still
    | with_reducible apply newMeasurement_still
    | exact Fld.turnFree rfl
    | exact balFld_free _
    | decide
    | with_reducible apply stillParts_of
    | intro _
    | with_reducible refine Still.of_eq (by assumption) ?_
    | with_reducible refine Still.of_eq_snd (by assumption) ?_
    | simp only [still_mk]
    | split

theorem State.abandonStores_still {r s : State} (h : r.Still s) : r.Still (State.abandonStores s) := by
  unfold State.abandonStores
  repeat' first
    | with_reducible assumption
    | with_reducible exact Still.refl _
    | with_reducible apply Still.ite
    | with_reducible apply Still.ite_fst
    | with_reducible apply fresh_still
    | with_reducible apply setBytes_still
    | with_reducible apply bump_still
    | rw [List.foldl_cons]
    | rw [List.foldl_nil]
    | exact Fld.turnFree rfl
    | exact balFld_free _
    | decide
    | with_reducible refine Still.foldl ?_ (fun u x => ?_)
    | with_reducible refine Still.foldl_fst ?_ (fun u x => ?_)
    | with_reducible apply stillParts_of
    | intro _
    | with_reducible refine Still.of_eq (by assumption) ?_
    | with_reducible refine Still.of_eq_snd (by assumption) ?_
    | simp only [still_mk]
    | split

theorem State.discardOps_still {r s : State} (h : r.Still s) : r.Still (State.discardOps s) := by
  unfold State.discardOps
  repeat' first
    | with_reducible assumption
    | with_reducible exact Still.refl _
    | with_reducible apply Still.ite
    | with_reducible apply clearRecord_still
    | with_reducible apply wr_still
    | with_reducible apply syncBlanks_still
    | with_reducible apply syncOut_still
    | rw [List.foldl_cons]
    | rw [List.foldl_nil]
    | exact Fld.turnFree rfl
    | exact balFld_free _
    | decide
    | with_reducible refine Still.foldl ?_ (fun u x => ?_)
    | with_reducible refine Still.foldl_fst ?_ (fun u x => ?_)
    | with_reducible apply stillParts_of
    | intro _
    | with_reducible refine Still.of_eq (by assumption) ?_
    | with_reducible refine Still.of_eq_snd (by assumption) ?_
    | simp only [still_mk]
    | split

theorem State.dropBanks_still {r s : State} (h : r.Still s) : r.Still (State.dropBanks s) := by
  unfold State.dropBanks
  repeat' first
    | with_reducible assumption
    | with_reducible exact Still.refl _
    | with_reducible apply Still.ite
    | with_reducible apply syncBusy_still
    | with_reducible apply dropCmds_still
    | with_reducible apply setEngine_still
    | rw [List.foldl_cons]
    | rw [List.foldl_nil]
    | exact Fld.turnFree rfl
    | exact balFld_free _
    | decide
    | with_reducible refine Still.foldl ?_ (fun u x => ?_)
    | with_reducible refine Still.foldl_fst ?_ (fun u x => ?_)
    | with_reducible apply stillParts_of
    | intro _
    | with_reducible refine Still.of_eq (by assumption) ?_
    | with_reducible refine Still.of_eq_snd (by assumption) ?_
    | simp only [still_mk]
    | split

theorem State.dropFabric_still {r s : State} (h : r.Still s) : r.Still (State.dropFabric s) := by
  unfold State.dropFabric
  repeat' first
    | with_reducible assumption
    | with_reducible exact Still.refl _
    | with_reducible apply Still.ite
    | with_reducible apply freeRecords_still
    | with_reducible apply wr_still
    | rw [List.foldl_cons]
    | rw [List.foldl_nil]
    | exact Fld.turnFree rfl
    | exact balFld_free _
    | decide
    | with_reducible refine Still.foldl ?_ (fun u x => ?_)
    | with_reducible refine Still.foldl_fst ?_ (fun u x => ?_)
    | with_reducible apply stillParts_of
    | intro _
    | with_reducible refine Still.of_eq (by assumption) ?_
    | with_reducible refine Still.of_eq_snd (by assumption) ?_
    | simp only [still_mk]
    | split

theorem State.stopRings_still {r s : State} (h : r.Still s) : r.Still (State.stopRings s) := by
  unfold State.stopRings
  repeat' first
    | with_reducible assumption
    | with_reducible exact Still.refl _
    | with_reducible apply Still.ite
    | with_reducible apply clearHandshakes_still
    | with_reducible apply wr_still
    | rw [List.foldl_cons]
    | rw [List.foldl_nil]
    | exact Fld.turnFree rfl
    | exact balFld_free _
    | decide
    | with_reducible refine Still.foldl ?_ (fun u x => ?_)
    | with_reducible refine Still.foldl_fst ?_ (fun u x => ?_)
    | with_reducible apply stillParts_of
    | intro _
    | with_reducible refine Still.of_eq (by assumption) ?_
    | with_reducible refine Still.of_eq_snd (by assumption) ?_
    | simp only [still_mk]
    | split

theorem State.retrainPorts_still {r s : State} (h : r.Still s) : r.Still (State.retrainPorts s) := by
  unfold State.retrainPorts
  repeat' first
    | with_reducible assumption
    | with_reducible exact Still.refl _
    | with_reducible apply Still.ite
    | with_reducible apply resetFunc_still
    | with_reducible apply linkGone_still
    | rw [List.foldl_cons]
    | rw [List.foldl_nil]
    | exact Fld.turnFree rfl
    | exact balFld_free _
    | decide
    | with_reducible refine Still.foldl ?_ (fun u x => ?_)
    | with_reducible refine Still.foldl_fst ?_ (fun u x => ?_)
    | with_reducible apply stillParts_of
    | intro _
    | with_reducible refine Still.of_eq (by assumption) ?_
    | with_reducible refine Still.of_eq_snd (by assumption) ?_
    | simp only [still_mk]
    | split

theorem execLockstepMismatch_still {s : State} : s.StillNext (execLockstepMismatch s) := by
  unfold execLockstepMismatch
  repeat' first
    | with_reducible assumption
    | with_reducible exact Still.refl _
    | with_reducible apply StillNext.next
    | with_reducible apply StillNext.ite
    | with_reducible apply Still.ite
    | with_reducible apply mcLog_still
    | with_reducible apply setH_still
    | with_reducible apply mark_still
    | with_reducible apply wr_still
    | with_reducible apply startQuiesce_still
    | exact Fld.turnFree rfl
    | exact balFld_free _
    | decide
    | with_reducible apply stillParts_of
    | intro _
    | with_reducible refine Still.of_eq (by assumption) ?_
    | with_reducible refine Still.of_eq_snd (by assumption) ?_
    | simp only [still_mk]
    | split

theorem execCpPairRetest_still (pass : Bool) {s : State} : s.StillNext (execCpPairRetest pass s) := by
  unfold execCpPairRetest
  repeat' first
    | with_reducible assumption
    | with_reducible exact Still.refl _
    | with_reducible apply StillNext.next
    | with_reducible apply StillNext.ite
    | with_reducible apply Still.ite
    | with_reducible apply setH_still
    | with_reducible apply wr_still
    | exact Fld.turnFree rfl
    | exact balFld_free _
    | decide
    | with_reducible apply stillParts_of
    | intro _
    | with_reducible refine Still.of_eq (by assumption) ?_
    | with_reducible refine Still.of_eq_snd (by assumption) ?_
    | simp only [still_mk]
    | split

theorem execMcWatchdog_still {s : State} : s.StillNext (execMcWatchdog s) := by
  unfold execMcWatchdog
  repeat' first
    | with_reducible assumption
    | with_reducible exact Still.refl _
    | with_reducible apply StillNext.next
    | with_reducible apply StillNext.ite
    | with_reducible apply Still.ite
    | with_reducible apply newMeasurement_still
    | with_reducible apply mcLog_still
    | exact Fld.turnFree rfl
    | exact balFld_free _
    | decide
    | with_reducible apply stillParts_of
    | intro _
    | with_reducible refine Still.of_eq (by assumption) ?_
    | with_reducible refine Still.of_eq_snd (by assumption) ?_
    | simp only [still_mk]
    | split

theorem execModRstN_still {s : State} : s.StillNext (execModRstN s) := by
  unfold execModRstN
  repeat' first
    | with_reducible assumption
    | with_reducible exact Still.refl _
    | with_reducible apply StillNext.next
    | with_reducible apply StillNext.ite
    | with_reducible apply Still.ite
    | with_reducible apply startQuiesce_still
    | with_reducible apply setH_still
    | exact Fld.turnFree rfl
    | exact balFld_free _
    | decide
    | with_reducible apply stillParts_of
    | intro _
    | with_reducible refine Still.of_eq (by assumption) ?_
    | with_reducible refine Still.of_eq_snd (by assumption) ?_
    | simp only [still_mk]
    | split

theorem State.identity_still {r s : State} (h : r.Still s) (kind : ℕ) (n : ℕ) : r.Still (State.identity s kind n).1 := by
  unfold State.identity
  repeat' first
    | with_reducible assumption
    | with_reducible exact Still.refl _
    | with_reducible apply Still.ite
    | with_reducible apply Still.ite_fst
    | with_reducible apply fresh_still
    | exact Fld.turnFree rfl
    | exact balFld_free _
    | decide
    | with_reducible apply stillParts_of
    | intro _
    | with_reducible refine Still.of_eq (by assumption) ?_
    | with_reducible refine Still.of_eq_snd (by assumption) ?_
    | simp only [still_mk]
    | split

theorem State.spdmError_still {r s : State} (h : r.Still s) (status : ℕ) (code : ℕ) : r.Still (State.spdmError s status code) := by
  unfold State.spdmError
  repeat' first
    | with_reducible assumption
    | with_reducible exact Still.refl _
    | with_reducible apply Still.ite
    | with_reducible apply answer_still
    | exact Fld.turnFree rfl
    | exact balFld_free _
    | decide
    | with_reducible apply stillParts_of
    | intro _
    | with_reducible refine Still.of_eq (by assumption) ?_
    | with_reducible refine Still.of_eq_snd (by assumption) ?_
    | simp only [still_mk]
    | split

theorem State.spdmMeasurements_still {r s : State} (h : r.Still s) (i : ℕ) : r.Still (State.spdmMeasurements s i) := by
  unfold State.spdmMeasurements
  repeat' first
    | with_reducible assumption
    | with_reducible exact Still.refl _
    | with_reducible apply Still.ite
    | with_reducible apply Still.ite_fst
    | with_reducible apply identity_still
    | with_reducible apply answer_still
    | exact Fld.turnFree rfl
    | exact balFld_free _
    | decide
    | with_reducible apply stillParts_of
    | intro _
    | with_reducible refine Still.of_eq (by assumption) ?_
    | with_reducible refine Still.of_eq_snd (by assumption) ?_
    | simp only [still_mk]
    | split

theorem State.spdm_still {r s : State} (h : r.Still s) (t : ℕ) (k : SpdmKind) : r.Still (State.spdm s t k) := by
  unfold State.spdm
  repeat' first
    | with_reducible assumption
    | with_reducible exact Still.refl _
    | with_reducible apply Still.ite
    | with_reducible apply Still.ite_fst
    | with_reducible apply answer_still
    | with_reducible apply identity_still
    | with_reducible apply spdmMeasurements_still
    | with_reducible apply spdmError_still
    | with_reducible apply addH_still
    | with_reducible apply setH_still
    | exact Fld.turnFree rfl
    | exact balFld_free _
    | decide
    | with_reducible apply stillParts_of
    | intro _
    | with_reducible refine Still.of_eq (by assumption) ?_
    | with_reducible refine Still.of_eq_snd (by assumption) ?_
    | simp only [still_mk]
    | split

theorem State.tap_still {r s : State} (h : r.Still s) (opcode : ℕ) (cond : Bool) (run : State → State × List Byte) (hrun : ∀ (u : State), u.Still (run
    u).1) : r.Still (State.tap s opcode cond run) := by
  unfold State.tap
  repeat' first
    | with_reducible assumption
    | with_reducible exact Still.refl _
    | with_reducible apply Still.ite
    | with_reducible refine Still.trans ?_ (hrun _)
    | with_reducible apply setH_still
    | with_reducible apply answer_still
    | exact Fld.turnFree rfl
    | exact balFld_free _
    | decide
    | with_reducible apply stillParts_of
    | intro _
    | with_reducible refine Still.of_eq (by assumption) ?_
    | with_reducible refine Still.of_eq_snd (by assumption) ?_
    | simp only [still_mk]
    | split

theorem State.tapShow_still {r s : State} (h : r.Still s) (opcode : ℕ) (cond : Bool) (d : List Byte) : r.Still (State.tapShow s opcode cond d) := by
  unfold State.tapShow
  repeat' first
    | with_reducible assumption
    | with_reducible exact Still.refl _
    | with_reducible apply Still.ite
    | with_reducible apply tap_still
    | exact Fld.turnFree rfl
    | exact balFld_free _
    | decide
    | with_reducible apply stillParts_of
    | intro _
    | with_reducible refine Still.of_eq (by assumption) ?_
    | with_reducible refine Still.of_eq_snd (by assumption) ?_
    | simp only [still_mk]
    | split

theorem State.openDebug_still {r s : State} (h : r.Still s) : r.Still (State.openDebug s) := by
  unfold State.openDebug
  repeat' first
    | with_reducible assumption
    | with_reducible exact Still.refl _
    | with_reducible apply Still.ite
    | with_reducible apply complete_still
    | with_reducible apply wr_still
    | with_reducible apply setH_still
    | with_reducible apply mcLog_still
    | with_reducible apply mark_still
    | with_reducible apply newMeasurement_still
    | rw [List.foldl_cons]
    | rw [List.foldl_nil]
    | exact Fld.turnFree rfl
    | exact balFld_free _
    | decide
    | with_reducible refine Still.foldl ?_ (fun u x => ?_)
    | with_reducible refine Still.foldl_fst ?_ (fun u x => ?_)
    | with_reducible apply stillParts_of
    | intro _
    | with_reducible refine Still.of_eq (by assumption) ?_
    | with_reducible refine Still.of_eq_snd (by assumption) ?_
    | simp only [still_mk]
    | split

theorem execSpdmRequest_still (transport : ℕ) (k : SpdmKind) {s : State} : s.StillNext (execSpdmRequest transport k s) := by
  unfold execSpdmRequest
  repeat' first
    | with_reducible assumption
    | with_reducible exact Still.refl _
    | with_reducible apply StillNext.next
    | with_reducible apply StillNext.ite
    | with_reducible apply Still.ite
    | with_reducible apply spdm_still
    | exact Fld.turnFree rfl
    | exact balFld_free _
    | decide
    | with_reducible apply stillParts_of
    | intro _
    | with_reducible refine Still.of_eq (by assumption) ?_
    | with_reducible refine Still.of_eq_snd (by assumption) ?_
    | simp only [still_mk]
    | split

theorem execExtest_still {s : State} : s.StillNext (execExtest s) := by
  unfold execExtest
  repeat' first
    | with_reducible assumption
    | with_reducible exact Still.refl _
    | with_reducible apply StillNext.next
    | with_reducible apply StillNext.ite
    | with_reducible apply Still.ite
    | with_reducible apply tapShow_still
    | exact Fld.turnFree rfl
    | exact balFld_free _
    | decide
    | with_reducible apply stillParts_of
    | intro _
    | with_reducible refine Still.of_eq (by assumption) ?_
    | with_reducible refine Still.of_eq_snd (by assumption) ?_
    | simp only [still_mk]
    | split

theorem execSamplePreload_still {s : State} : s.StillNext (execSamplePreload s) := by
  unfold execSamplePreload
  repeat' first
    | with_reducible assumption
    | with_reducible exact Still.refl _
    | with_reducible apply StillNext.next
    | with_reducible apply StillNext.ite
    | with_reducible apply Still.ite
    | with_reducible apply tapShow_still
    | exact Fld.turnFree rfl
    | exact balFld_free _
    | decide
    | with_reducible apply stillParts_of
    | intro _
    | with_reducible refine Still.of_eq (by assumption) ?_
    | with_reducible refine Still.of_eq_snd (by assumption) ?_
    | simp only [still_mk]
    | split

theorem execIdcode_still {s : State} : s.StillNext (execIdcode s) := by
  unfold execIdcode
  repeat' first
    | with_reducible assumption
    | with_reducible exact Still.refl _
    | with_reducible apply StillNext.next
    | with_reducible apply StillNext.ite
    | with_reducible apply Still.ite
    | with_reducible apply tapShow_still
    | exact Fld.turnFree rfl
    | exact balFld_free _
    | decide
    | with_reducible apply stillParts_of
    | intro _
    | with_reducible refine Still.of_eq (by assumption) ?_
    | with_reducible refine Still.of_eq_snd (by assumption) ?_
    | simp only [still_mk]
    | split

theorem execClamp_still {s : State} : s.StillNext (execClamp s) := by
  unfold execClamp
  repeat' first
    | with_reducible assumption
    | with_reducible exact Still.refl _
    | with_reducible apply StillNext.next
    | with_reducible apply StillNext.ite
    | with_reducible apply Still.ite
    | with_reducible apply tapShow_still
    | exact Fld.turnFree rfl
    | exact balFld_free _
    | decide
    | with_reducible apply stillParts_of
    | intro _
    | with_reducible refine Still.of_eq (by assumption) ?_
    | with_reducible refine Still.of_eq_snd (by assumption) ?_
    | simp only [still_mk]
    | split

theorem execHighz_still {s : State} : s.StillNext (execHighz s) := by
  unfold execHighz
  repeat' first
    | with_reducible assumption
    | with_reducible exact Still.refl _
    | with_reducible apply StillNext.next
    | with_reducible apply StillNext.ite
    | with_reducible apply Still.ite
    | with_reducible apply tapShow_still
    | exact Fld.turnFree rfl
    | exact balFld_free _
    | decide
    | with_reducible apply stillParts_of
    | intro _
    | with_reducible refine Still.of_eq (by assumption) ?_
    | with_reducible refine Still.of_eq_snd (by assumption) ?_
    | simp only [still_mk]
    | split

theorem execDbgState_still {s : State} : s.StillNext (execDbgState s) := by
  unfold execDbgState
  repeat' first
    | with_reducible assumption
    | with_reducible exact Still.refl _
    | with_reducible apply StillNext.next
    | with_reducible apply StillNext.ite
    | with_reducible apply Still.ite
    | with_reducible apply tapShow_still
    | exact Fld.turnFree rfl
    | exact balFld_free _
    | decide
    | with_reducible apply stillParts_of
    | intro _
    | with_reducible refine Still.of_eq (by assumption) ?_
    | with_reducible refine Still.of_eq_snd (by assumption) ?_
    | simp only [still_mk]
    | split

theorem execUnlockNonce_still {s : State} : s.StillNext (execUnlockNonce s) := by
  unfold execUnlockNonce
  repeat' first
    | with_reducible assumption
    | with_reducible exact Still.refl _
    | with_reducible apply StillNext.next
    | with_reducible apply StillNext.ite
    | with_reducible apply Still.ite
    | with_reducible apply tapShow_still
    | exact Fld.turnFree rfl
    | exact balFld_free _
    | decide
    | with_reducible apply stillParts_of
    | intro _
    | with_reducible refine Still.of_eq (by assumption) ?_
    | with_reducible refine Still.of_eq_snd (by assumption) ?_
    | simp only [still_mk]
    | split

theorem execUnlockLoad_still (obj : SignedObj) {s : State} : s.StillNext (execUnlockLoad obj s) := by
  unfold execUnlockLoad
  repeat' first
    | with_reducible assumption
    | with_reducible exact Still.refl _
    | with_reducible apply StillNext.next
    | with_reducible apply StillNext.ite
    | with_reducible apply Still.ite
    | with_reducible apply Still.ite_fst
    | with_reducible apply tap_still
    | with_reducible apply tryUnlock_still
    | exact Fld.turnFree rfl
    | exact balFld_free _
    | decide
    | with_reducible apply stillParts_of
    | intro _
    | with_reducible refine Still.of_eq (by assumption) ?_
    | with_reducible refine Still.of_eq_snd (by assumption) ?_
    | simp only [still_mk]
    | split

theorem execRegAccess_still (dr : BitVec 96) {s : State} : s.StillNext (execRegAccess dr s) := by
  unfold execRegAccess
  repeat' first
    | with_reducible assumption
    | with_reducible exact Still.refl _
    | with_reducible apply StillNext.next
    | with_reducible apply StillNext.ite
    | with_reducible apply Still.ite
    | with_reducible apply tap_still
    | with_reducible apply agentWrite_still
    | with_reducible apply agentRead_still
    | exact Fld.turnFree rfl
    | exact balFld_free _
    | decide
    | with_reducible apply stillParts_of
    | intro _
    | with_reducible refine Still.of_eq (by assumption) ?_
    | with_reducible refine Still.of_eq_snd (by assumption) ?_
    | simp only [still_mk]
    | split

theorem execMemAccess_still (dr : BitVec 576) {s : State} : s.StillNext (execMemAccess dr s) := by
  unfold execMemAccess
  repeat' first
    | with_reducible assumption
    | with_reducible exact Still.refl _
    | with_reducible apply StillNext.next
    | with_reducible apply StillNext.ite
    | with_reducible apply Still.ite
    | with_reducible apply setH_still
    | with_reducible apply tapLine_still
    | with_reducible apply tapShow_still
    | exact Fld.turnFree rfl
    | exact balFld_free _
    | decide
    | with_reducible apply stillParts_of
    | intro _
    | with_reducible refine Still.of_eq (by assumption) ?_
    | with_reducible refine Still.of_eq_snd (by assumption) ?_
    | simp only [still_mk]
    | split

theorem execMcDebug_still {s : State} : s.StillNext (execMcDebug s) := by
  unfold execMcDebug
  repeat' first
    | with_reducible assumption
    | with_reducible exact Still.refl _
    | with_reducible apply StillNext.next
    | with_reducible apply StillNext.ite
    | with_reducible apply Still.ite
    | with_reducible apply tapShow_still
    | exact Fld.turnFree rfl
    | exact balFld_free _
    | decide
    | with_reducible apply stillParts_of
    | intro _
    | with_reducible refine Still.of_eq (by assumption) ?_
    | with_reducible refine Still.of_eq_snd (by assumption) ?_
    | simp only [still_mk]
    | split

theorem execCpDebug_still {s : State} : s.StillNext (execCpDebug s) := by
  unfold execCpDebug
  repeat' first
    | with_reducible assumption
    | with_reducible exact Still.refl _
    | with_reducible apply StillNext.next
    | with_reducible apply StillNext.ite
    | with_reducible apply Still.ite
    | with_reducible apply tapShow_still
    | exact Fld.turnFree rfl
    | exact balFld_free _
    | decide
    | with_reducible apply stillParts_of
    | intro _
    | with_reducible refine Still.of_eq (by assumption) ?_
    | with_reducible refine Still.of_eq_snd (by assumption) ?_
    | simp only [still_mk]
    | split

theorem execBypass_still {s : State} : s.StillNext (execBypass s) := by
  unfold execBypass
  repeat' first
    | with_reducible assumption
    | with_reducible exact Still.refl _
    | with_reducible apply StillNext.next
    | with_reducible apply StillNext.ite
    | with_reducible apply Still.ite
    | with_reducible apply tapShow_still
    | exact Fld.turnFree rfl
    | exact balFld_free _
    | decide
    | with_reducible apply stillParts_of
    | intro _
    | with_reducible refine Still.of_eq (by assumption) ?_
    | with_reducible refine Still.of_eq_snd (by assumption) ?_
    | simp only [still_mk]
    | split

theorem State.doeRespond_still {r s : State} (h : r.Still s) (f : ℕ) (head : ℕ) (payload : List Byte) : r.Still (State.doeRespond s f head payload) :=
    by
  unfold State.doeRespond
  repeat' first
    | with_reducible assumption
    | with_reducible exact Still.refl _
    | with_reducible apply Still.ite
    | with_reducible apply setH_still
    | rw [List.foldl_cons]
    | rw [List.foldl_nil]
    | exact Fld.turnFree rfl
    | exact balFld_free _
    | decide
    | with_reducible refine Still.foldl ?_ (fun u x => ?_)
    | with_reducible refine Still.foldl_fst ?_ (fun u x => ?_)
    | with_reducible apply stillParts_of
    | intro _
    | with_reducible refine Still.of_eq (by assumption) ?_
    | with_reducible refine Still.of_eq_snd (by assumption) ?_
    | simp only [still_mk]
    | split

theorem State.doeGo_still {r s : State} (h : r.Still s) (port : ℕ) (func : ℕ) : r.Still (State.doeGo s port func) := by
  unfold State.doeGo
  repeat' first
    | with_reducible assumption
    | with_reducible exact Still.refl _
    | with_reducible apply Still.ite
    | with_reducible apply setH_still
    | with_reducible apply doeRespond_still
    | with_reducible apply spdm_still
    | exact Fld.turnFree rfl
    | exact balFld_free _
    | decide
    | with_reducible apply stillParts_of
    | intro _
    | with_reducible refine Still.of_eq (by assumption) ?_
    | with_reducible refine Still.of_eq_snd (by assumption) ?_
    | simp only [still_mk]
    | split

theorem State.doeWrite_still {r s : State} (h : r.Still s) (port : ℕ) (func : ℕ) (off : ℕ) (val : ℕ) : r.Still (State.doeWrite s port func off val) :=
    by
  unfold State.doeWrite
  repeat' first
    | with_reducible assumption
    | with_reducible exact Still.refl _
    | with_reducible apply Still.ite
    | with_reducible apply setH_still
    | with_reducible apply doeGo_still
    | with_reducible apply addH_still
    | exact Fld.turnFree rfl
    | exact balFld_free _
    | decide
    | with_reducible apply stillParts_of
    | intro _
    | with_reducible refine Still.of_eq (by assumption) ?_
    | with_reducible refine Still.of_eq_snd (by assumption) ?_
    | simp only [still_mk]
    | split

theorem State.cfgHold_still {r s : State} (h : r.Still s) (f : ℕ) (vf : Bool) (off : ℕ) (val : ℕ) : r.Still (State.cfgHold s f vf off val) := by
  unfold State.cfgHold
  repeat' first
    | with_reducible assumption
    | with_reducible exact Still.refl _
    | with_reducible apply Still.ite
    | with_reducible apply setH_still
    | exact Fld.turnFree rfl
    | exact balFld_free _
    | decide
    | with_reducible apply stillParts_of
    | intro _
    | with_reducible refine Still.of_eq (by assumption) ?_
    | with_reducible refine Still.of_eq_snd (by assumption) ?_
    | simp only [still_mk]
    | split

theorem State.cfgWrite_still {r s : State} (h : r.Still s) (port : ℕ) (func : ℕ) (off : ℕ) (val : ℕ) : r.Still (State.cfgWrite s port func off val) :=
    by
  unfold State.cfgWrite
  repeat' first
    | with_reducible assumption
    | with_reducible exact Still.refl _
    | with_reducible apply Still.ite
    | with_reducible apply cfgHold_still
    | with_reducible apply setH_still
    | with_reducible apply sendMsix_still
    | with_reducible apply functionReset_still
    | with_reducible apply doeWrite_still
    | rw [List.foldl_cons]
    | rw [List.foldl_nil]
    | exact Fld.turnFree rfl
    | exact balFld_free _
    | decide
    | with_reducible refine Still.foldl ?_ (fun u x => ?_)
    | with_reducible refine Still.foldl_fst ?_ (fun u x => ?_)
    | with_reducible apply stillParts_of
    | intro _
    | with_reducible refine Still.of_eq (by assumption) ?_
    | with_reducible refine Still.of_eq_snd (by assumption) ?_
    | simp only [still_mk]
    | split

theorem State.configAccess_still {r s : State} (h : r.Still s) (port : ℕ) (func : ℕ) (off : ℕ) (write : Bool) (val : ℕ) : r.Still (State.configAccess
    s port func off write val) := by
  unfold State.configAccess
  repeat' first
    | with_reducible assumption
    | with_reducible exact Still.refl _
    | with_reducible apply Still.ite
    | with_reducible apply answer_still
    | with_reducible apply cfgWrite_still
    | exact Fld.turnFree rfl
    | exact balFld_free _
    | decide
    | with_reducible apply stillParts_of
    | intro _
    | with_reducible refine Still.of_eq (by assumption) ?_
    | with_reducible refine Still.of_eq_snd (by assumption) ?_
    | simp only [still_mk]
    | split

theorem execConfigRequest_still (port : ℕ) (func : ℕ) (off : ℕ) (write : Bool) (val : ℕ) {s : State} : s.StillNext (execConfigRequest port func off
    write val s) := by
  unfold execConfigRequest
  repeat' first
    | with_reducible assumption
    | with_reducible exact Still.refl _
    | with_reducible apply StillNext.next
    | with_reducible apply StillNext.ite
    | with_reducible apply Still.ite
    | with_reducible apply answer_still
    | with_reducible apply configAccess_still
    | exact Fld.turnFree rfl
    | exact balFld_free _
    | decide
    | with_reducible apply stillParts_of
    | intro _
    | with_reducible refine Still.of_eq (by assumption) ?_
    | with_reducible refine Still.of_eq_snd (by assumption) ?_
    | simp only [still_mk]
    | split

theorem State.bootMfw_still {r s : State} (h : r.Still s) : r.Still (State.bootMfw s) := by
  unfold State.bootMfw
  repeat' first
    | with_reducible assumption
    | with_reducible exact Still.refl _
    | with_reducible apply Still.ite
    | with_reducible apply setH_still
    | with_reducible apply wr_still
    | with_reducible apply mark_still
    | exact Fld.turnFree rfl
    | exact balFld_free _
    | decide
    | with_reducible apply stillParts_of
    | intro _
    | with_reducible refine Still.of_eq (by assumption) ?_
    | with_reducible refine Still.of_eq_snd (by assumption) ?_
    | simp only [still_mk]
    | split

theorem State.startBay_still {r s : State} (h : r.Still s) (d : ℕ) : r.Still (State.startBay s d) := by
  unfold State.startBay
  repeat' first
    | with_reducible assumption
    | with_reducible exact Still.refl _
    | with_reducible apply Still.ite
    | with_reducible apply askService_still
    | with_reducible apply wr_still
    | exact Fld.turnFree rfl
    | exact balFld_free _
    | decide
    | with_reducible apply stillParts_of
    | intro _
    | with_reducible refine Still.of_eq (by assumption) ?_
    | with_reducible refine Still.of_eq_snd (by assumption) ?_
    | simp only [still_mk]
    | split

theorem State.startPlanes_still {r s : State} (h : r.Still s) (pair0 : Bool) (pair1 : Bool) : r.Still (State.startPlanes s pair0 pair1) := by
  unfold State.startPlanes
  repeat' first
    | with_reducible assumption
    | with_reducible exact Still.refl _
    | with_reducible apply Still.ite
    | with_reducible apply startControl_still
    | with_reducible apply setH_still
    | with_reducible apply wr_still
    | with_reducible apply applyOuts_still
    | with_reducible apply refence_still
    | with_reducible apply startBay_still
    | rw [List.foldl_cons]
    | rw [List.foldl_nil]
    | exact Fld.turnFree rfl
    | exact balFld_free _
    | decide
    | with_reducible refine Still.foldl ?_ (fun u x => ?_)
    | with_reducible refine Still.foldl_fst ?_ (fun u x => ?_)
    | with_reducible apply stillParts_of
    | intro _
    | with_reducible refine Still.of_eq (by assumption) ?_
    | with_reducible refine Still.of_eq_snd (by assumption) ?_
    | simp only [still_mk]
    | split

theorem State.startSweep_still {r s : State} (h : r.Still s) (cause : ℕ) : r.Still (State.startSweep s cause) := by
  unfold State.startSweep
  repeat' first
    | with_reducible assumption
    | with_reducible exact Still.refl _
    | with_reducible apply Still.ite
    | with_reducible apply setH_still
    | with_reducible apply wr_still
    | with_reducible apply stopAll_still
    | with_reducible apply mark_still
    | exact Fld.turnFree rfl
    | exact balFld_free _
    | decide
    | with_reducible apply stillParts_of
    | intro _
    | with_reducible refine Still.of_eq (by assumption) ?_
    | with_reducible refine Still.of_eq_snd (by assumption) ?_
    | simp only [still_mk]
    | split

theorem State.portsIdle_still {r s : State} (h : r.Still s) : r.Still (State.portsIdle s) := by
  unfold State.portsIdle
  repeat' first
    | with_reducible assumption
    | with_reducible exact Still.refl _
    | with_reducible apply Still.ite
    | with_reducible apply setH_still
    | with_reducible apply linkGone_still
    | with_reducible apply abandonStores_still
    | with_reducible apply mcLog_still
    | exact Fld.turnFree rfl
    | exact balFld_free _
    | decide
    | with_reducible apply stillParts_of
    | intro _
    | with_reducible refine Still.of_eq (by assumption) ?_
    | with_reducible refine Still.of_eq_snd (by assumption) ?_
    | simp only [still_mk]
    | split

theorem execPowerUp_still (pair0 : Bool) (pair1 : Bool) {s : State} : s.StillNext (execPowerUp pair0 pair1 s) := by
  unfold execPowerUp
  repeat' first
    | with_reducible assumption
    | with_reducible exact Still.refl _
    | with_reducible apply StillNext.next
    | with_reducible apply StillNext.ite
    | with_reducible apply Still.ite
    | with_reducible apply startPlanes_still
    | exact Fld.turnFree rfl
    | exact balFld_free _
    | decide
    | with_reducible apply stillParts_of
    | intro _
    | with_reducible refine Still.of_eq (by assumption) ?_
    | with_reducible refine Still.of_eq_snd (by assumption) ?_
    | simp only [still_mk]
    | split

theorem execInputUndervoltage_still {s : State} : s.StillNext (execInputUndervoltage s) := by
  unfold execInputUndervoltage
  repeat' first
    | with_reducible assumption
    | with_reducible exact Still.refl _
    | with_reducible apply StillNext.next
    | with_reducible apply StillNext.ite
    | with_reducible apply Still.ite
    | with_reducible apply startSweep_still
    | exact Fld.turnFree rfl
    | exact balFld_free _
    | decide
    | with_reducible apply stillParts_of
    | intro _
    | with_reducible refine Still.of_eq (by assumption) ?_
    | with_reducible refine Still.of_eq_snd (by assumption) ?_
    | simp only [still_mk]
    | split

theorem execPwrWarn_still {s : State} : s.StillNext (execPwrWarn s) := by
  unfold execPwrWarn
  repeat' first
    | with_reducible assumption
    | with_reducible exact Still.refl _
    | with_reducible apply StillNext.next
    | with_reducible apply StillNext.ite
    | with_reducible apply Still.ite
    | with_reducible apply startSweep_still
    | exact Fld.turnFree rfl
    | exact balFld_free _
    | decide
    | with_reducible apply stillParts_of
    | intro _
    | with_reducible refine Still.of_eq (by assumption) ?_
    | with_reducible refine Still.of_eq_snd (by assumption) ?_
    | simp only [still_mk]
    | split

theorem execAuxSupplyLoss_still {s : State} : s.StillNext (execAuxSupplyLoss s) := by
  unfold execAuxSupplyLoss
  repeat' first
    | with_reducible assumption
    | with_reducible exact Still.refl _
    | with_reducible apply StillNext.next
    | with_reducible apply StillNext.ite
    | with_reducible apply Still.ite
    | with_reducible apply startSweep_still
    | exact Fld.turnFree rfl
    | exact balFld_free _
    | decide
    | with_reducible apply stillParts_of
    | intro _
    | with_reducible refine Still.of_eq (by assumption) ?_
    | with_reducible refine Still.of_eq_snd (by assumption) ?_
    | simp only [still_mk]
    | split

theorem execThermalTrip_still (die : ℕ) (base : ℕ) {s : State} : s.StillNext (execThermalTrip die base s) := by
  unfold execThermalTrip
  repeat' first
    | with_reducible assumption
    | with_reducible exact Still.refl _
    | with_reducible apply StillNext.next
    | with_reducible apply StillNext.ite
    | with_reducible apply Still.ite
    | with_reducible apply startSweep_still
    | exact Fld.turnFree rfl
    | exact balFld_free _
    | decide
    | with_reducible apply stillParts_of
    | intro _
    | with_reducible refine Still.of_eq (by assumption) ?_
    | with_reducible refine Still.of_eq_snd (by assumption) ?_
    | simp only [still_mk]
    | split

theorem execFlowTrip_still {s : State} : s.StillNext (execFlowTrip s) := by
  unfold execFlowTrip
  repeat' first
    | with_reducible assumption
    | with_reducible exact Still.refl _
    | with_reducible apply StillNext.next
    | with_reducible apply StillNext.ite
    | with_reducible apply Still.ite
    | with_reducible apply startSweep_still
    | exact Fld.turnFree rfl
    | exact balFld_free _
    | decide
    | with_reducible apply stillParts_of
    | intro _
    | with_reducible refine Still.of_eq (by assumption) ?_
    | with_reducible refine Still.of_eq_snd (by assumption) ?_
    | simp only [still_mk]
    | split

theorem execPowerDownPortIdle_still {s : State} : s.StillNext (execPowerDownPortIdle s) := by
  unfold execPowerDownPortIdle
  repeat' first
    | with_reducible assumption
    | with_reducible exact Still.refl _
    | with_reducible apply StillNext.next
    | with_reducible apply StillNext.ite
    | with_reducible apply Still.ite
    | with_reducible apply portsIdle_still
    | exact Fld.turnFree rfl
    | exact balFld_free _
    | decide
    | with_reducible apply stillParts_of
    | intro _
    | with_reducible refine Still.of_eq (by assumption) ?_
    | with_reducible refine Still.of_eq_snd (by assumption) ?_
    | simp only [still_mk]
    | split

theorem execRepower_still (ms : ℕ) (vin : ℕ) {s : State} : s.StillNext (execRepower ms vin s) := by
  unfold execRepower
  repeat' first
    | with_reducible assumption
    | with_reducible exact Still.refl _
    | with_reducible apply StillNext.next
    | with_reducible apply StillNext.ite
    | with_reducible apply Still.ite
    | with_reducible apply setH_still
    | exact Fld.turnFree rfl
    | exact balFld_free _
    | decide
    | with_reducible apply stillParts_of
    | intro _
    | with_reducible refine Still.of_eq (by assumption) ?_
    | with_reducible refine Still.of_eq_snd (by assumption) ?_
    | simp only [still_mk]
    | split

theorem execPldmFirmwareUpdate_still (slot : ℕ) (obj : SignedObj) {s : State} : s.StillNext (execPldmFirmwareUpdate slot obj s) := by
  unfold execPldmFirmwareUpdate
  repeat' first
    | with_reducible assumption
    | with_reducible exact Still.refl _
    | with_reducible apply StillNext.next
    | with_reducible apply StillNext.ite
    | with_reducible apply Still.ite
    | with_reducible apply answer_still
    | with_reducible apply setObj_still
    | exact Fld.turnFree rfl
    | exact balFld_free _
    | decide
    | with_reducible apply stillParts_of
    | intro _
    | with_reducible refine Still.of_eq (by assumption) ?_
    | with_reducible refine Still.of_eq_snd (by assumption) ?_
    | simp only [still_mk]
    | split

end Sys2Proof.Machine

end
end

