-- ==== Sys2Proof/Laws/Ops.lean ====
section
/-! SUPPORT. What the shared operations do, said once: the entry of a command, time, an operation's place in the list, and the width of a field. -/

namespace Sys2Proof.Machine

namespace State

variable {s : State}

/-- A served entry runs its command's body on its target quarter. -/
theorem command_serves {e : SubEntry} {code : Nat} (h : s.Serves e code) (body : State → Nat → State) :
    s.command e code body = body s (eTarget e) := by
  simp [command, h.isCode, h.here, h.passes]

/-- An entry that a check completes runs nothing. -/
theorem command_screened {e : SubEntry} {code st : Nat} (hc : eCode e = code) (hp : s.pageHere e.page = true) (hs : s.screen e = some st)
    (body : State → Nat → State) : s.command e code body = s.done e st 0 := by
  simp [command, hc, hp, hs]

/-- An entry of another command, or of a page that the module does not have, runs nothing. -/
theorem command_other {e : SubEntry} {code : Nat} (h : eCode e ≠ code ∨ s.pageHere e.page = false) (body : State → Nat → State) :
    s.command e code body = s := by
  rcases h with h | h <;> simp [command, h]

theorem rd_wr_fits (f : Fld) (i v : Nat) (h : v < 2 ^ f.width) : (s.wr f i v).rd f i = v := by
  rw [rd_wr_same, Nat.mod_eq_of_lt h]

/-- Reads after writes, where the field or the index is another. -/
theorem rd_wr_field {f g : Fld} (i j v : Nat) (h : f ≠ g) : (s.wr f i v).rd g j = s.rd g j := rd_wr_other s v (.inl h)
theorem rd_wr_index {f : Fld} {i j : Nat} (v : Nat) (h : i ≠ j) : (s.wr f i v).rd f j = s.rd f j := rd_wr_other s v (.inr h)
theorem h_setH_name {x y : Hid} (i j v : Nat) (hn : x ≠ y) : (s.setH x i v).h y j = s.h y j := h_setH_other s v (.inl hn)
theorem h_setH_index {x : Hid} {i j : Nat} (v : Nat) (hn : i ≠ j) : (s.setH x i v).h x j = s.h x j := h_setH_other s v (.inr hn)

theorem find?_map_replace {l : List Op} {id : Nat} {f : Op → Op} {p : Op} (hf : ∀ (x : Op), x.id = id → (f x).id = id)
    (h : l.find? (fun o => o.id == id) = some p) :
    (l.map (fun x => if x.id = id then f x else x)).find? (fun o => o.id == id) = some (f p) := by
  induction l with
  | nil => simp at h
  | cons x l ih =>
    by_cases hx : x.id = id
    · have hp : x = p := by simpa [hx] using h
      subst hp
      simp [hx, hf x hx]
    · have h' : l.find? (fun o => o.id == id) = some p := by simpa [hx] using h
      simpa [hx] using ih h'

/-- An operation that is in the list is found after it is replaced. -/
theorem op?_setOp {o p : Op} (h : s.op? o.id = some p) : (s.setOp o).op? o.id = some o :=
  find?_map_replace (f := fun _ => o) (fun _ _ => rfl) h

theorem op?_updOp {id : Nat} {f : Op → Op} {p : Op} (hf : ∀ (x : Op), (f x).id = x.id) (h : s.op? id = some p) :
    (s.updOp id f).op? id = some (f p) :=
  find?_map_replace (fun x hx => (hf x).trans hx) h

theorem op?_id {id : Nat} {o : Op} (h : s.op? id = some o) : o.id = id := by
  simpa using List.find?_some h

/-- Time that passes changes the cycle and nothing of the turn. -/
theorem advance_now (n : Nat) : (s.advance n).now = s.now + n := by
  have h := (ev_still (Still.refl s) 256 15 0 n).now
  simp [advance, h]

theorem advance_turn0 (n : Nat) : (s.advance n).turn0 = s.turn0 := (ev_still (Still.refl s) 256 15 0 n).turn0

theorem advance_rd {f : Fld} (h : f.perTurn = true) (n i : Nat) : (s.advance n).rd f i = s.rd f i :=
  (ev_still (Still.refl s) 256 15 0 n).regs f i h

theorem goTo_turn0 (t : Nat) : (s.goTo t).turn0 = s.turn0 := by
  unfold goTo
  split
  · exact advance_turn0 _
  · rfl

theorem goTo_rd {f : Fld} (h : f.perTurn = true) (t i : Nat) : (s.goTo t).rd f i = s.rd f i := by
  unfold goTo
  split
  · exact advance_rd h _ _
  · rfl

theorem goTo_len (t : Nat) : (s.goTo t).len = s.len := by
  unfold len
  rw [goTo_rd rfl]

/-- The cycle after a wait for cycle `t`. -/
theorem goTo_pos (t : Nat) (h : s.turn0 ≤ s.now) : (s.goTo t).pos = max s.pos (min t (s.len - 1)) := by
  unfold goTo
  split
  · next h' =>
    simp only [pos, advance_now, advance_turn0] at *
    omega
  · omega

theorem goTo_now (t : Nat) (h : s.turn0 ≤ s.now) : (s.goTo t).now = s.turn0 + (s.goTo t).pos := by
  have h1 : s.now ≤ (s.goTo t).now := by
    unfold goTo
    split
    · rw [advance_now]
      omega
    · exact Nat.le_refl _
  unfold pos
  rw [goTo_turn0]
  omega

/-- What an event leaves: it moves the values of the event counters, and the notes of the last event and of the cycle in which hardware set a field, and
nothing else. -/
structure Counts (s t : State) : Prop where
  eq : t = { s with regs := t.regs, hid := t.hid }
  regs : ∀ (f : Fld) (i : Nat), f ≠ .PMC_VAL_COUNT → f ≠ .PMC_VAL_SAT → t.rd f i = s.rd f i
  hid : ∀ (x : Hid) (i : Nat), x ≠ .evLast → x ≠ .setAt → t.h x i = s.h x i

theorem Counts.refl (s : State) : s.Counts s := ⟨rfl, fun _ _ _ _ => rfl, fun _ _ _ _ => rfl⟩

theorem Counts.trans {s t u : State} (h1 : s.Counts t) (h2 : t.Counts u) : s.Counts u :=
  ⟨by rw [h2.eq, h1.eq], fun f i a b => (h2.regs f i a b).trans (h1.regs f i a b), fun x i a b => (h2.hid x i a b).trans (h1.hid x i a b)⟩

theorem wr_count_counts (i v : Nat) : s.Counts (s.wr .PMC_VAL_COUNT i v) :=
  ⟨rfl, fun _ _ a _ => rd_wr_field _ _ _ (Ne.symm a), fun _ _ _ _ => rfl⟩

theorem mark_sat_counts (i : Nat) : s.Counts (s.mark .PMC_VAL_SAT i) := by
  unfold mark
  split
  · exact ⟨rfl, fun _ _ _ b => by rw [rd_setH, rd_wr_field _ _ _ (Ne.symm b)], fun _ _ _ b => by rw [h_setH_name _ _ _ (Ne.symm b), h_wr]⟩
  · exact ⟨rfl, fun _ _ _ b => rd_wr_field _ _ _ (Ne.symm b), fun _ _ _ _ => rfl⟩

theorem pmcBump_counts (i n : Nat) : s.Counts (s.pmcBump i n) := by
  unfold pmcBump
  simp only
  split
  · exact Counts.trans (wr_count_counts _ _) (mark_sat_counts _)
  · exact wr_count_counts _ _

theorem setH_evLast_counts (i v : Nat) : s.Counts (s.setH .evLast i v) :=
  ⟨rfl, fun _ _ _ _ => rfl, fun _ _ hx _ => h_setH_name _ _ _ (Ne.symm hx)⟩

theorem evFrom_counts (code q inst t n : Nat) : s.Counts (s.evFrom code q inst t n) := by
  unfold evFrom
  split
  · exact Counts.refl s
  · have key : ∀ (l : List Nat) (g : State → Nat → State) (_ : ∀ (u : State) (i : Nat), u.Counts (g u i)) (u : State), u.Counts (l.foldl g u) := by
      intro l g hg
      induction l with
      | nil => exact fun u => Counts.refl u
      | cons x l ih => exact fun u => (hg u x).trans (ih _)
    refine Counts.trans (key (List.range 64) _ (fun u i => ?_) s) (setH_evLast_counts _ _)
    split
    · exact pmcBump_counts _ _
    · exact Counts.refl u

theorem ev_counts (code q inst n : Nat) : s.Counts (s.ev code q inst n) := evFrom_counts _ _ _ _ _

/-- What time that passes leaves: the state but for the cycle, the event counters and their notes. -/
theorem goTo_counts (t : Nat) : s.Counts { s.goTo t with now := s.now, regs0 := s.regs0 } := by
  unfold goTo
  split
  · have h := ev_counts (s := s) 0x100 15 0 (min t (s.len - 1) - s.pos)
    exact ⟨congrArg (fun (u : State) => ({ u with now := s.now, regs0 := s.regs0 } : State)) h.eq, h.regs, h.hid⟩
  · exact Counts.refl s

theorem goTo_reg {f : Fld} (t i : Nat) (h1 : f ≠ .PMC_VAL_COUNT) (h2 : f ≠ .PMC_VAL_SAT) : (s.goTo t).rd f i = s.rd f i :=
  (goTo_counts (s := s) t).regs f i h1 h2

theorem goTo_h {x : Hid} (t i : Nat) (h : x ≠ .evLast) (h2 : x ≠ .setAt) : (s.goTo t).h x i = s.h x i := (goTo_counts (s := s) t).hid x i h h2

theorem goTo_eq (t : Nat) :
    s.goTo t = { s with regs := (s.goTo t).regs, regs0 := (s.goTo t).regs0, hid := (s.goTo t).hid, now := (s.goTo t).now } := by
  have h := (goTo_counts (s := s) t).eq
  have h2 : s.goTo t = { ({ s.goTo t with now := s.now, regs0 := s.regs0 } : State) with now := (s.goTo t).now, regs0 := (s.goTo t).regs0 } := rfl
  rw [h2, h]

@[simp] theorem goTo_pending (t : Nat) : (s.goTo t).pending = s.pending := by rw [goTo_eq]
@[simp] theorem goTo_lt09 (t : Nat) : (s.goTo t).lt09 = s.lt09 := by rw [goTo_eq]
@[simp] theorem goTo_mem (t : Nat) : (s.goTo t).mem = s.mem := by rw [goTo_eq]
@[simp] theorem goTo_hostMem (t : Nat) : (s.goTo t).hostMem = s.hostMem := by rw [goTo_eq]
@[simp] theorem goTo_poison (t : Nat) : (s.goTo t).poison = s.poison := by rw [goTo_eq]
@[simp] theorem goTo_encTag (t : Nat) : (s.goTo t).encTag = s.encTag := by rw [goTo_eq]
@[simp] theorem goTo_plaza (t : Nat) : (s.goTo t).plaza = s.plaza := by rw [goTo_eq]
@[simp] theorem goTo_tlb (t : Nat) : (s.goTo t).tlb = s.tlb := by rw [goTo_eq]
@[simp] theorem goTo_stalls (t : Nat) : (s.goTo t).stalls = s.stalls := by rw [goTo_eq]
@[simp] theorem goTo_ops (t : Nat) : (s.goTo t).ops = s.ops := by rw [goTo_eq]
@[simp] theorem goTo_submitQ (t : Nat) : (s.goTo t).submitQ = s.submitQ := by rw [goTo_eq]
@[simp] theorem goTo_resumeQ (t : Nat) : (s.goTo t).resumeQ = s.resumeQ := by rw [goTo_eq]
@[simp] theorem goTo_allocQ (t : Nat) : (s.goTo t).allocQ = s.allocQ := by rw [goTo_eq]
@[simp] theorem goTo_strips (t : Nat) : (s.goTo t).strips = s.strips := by rw [goTo_eq]
@[simp] theorem goTo_fenced (t : Nat) : (s.goTo t).fenced = s.fenced := by rw [goTo_eq]
@[simp] theorem goTo_fences (t : Nat) : (s.goTo t).fences = s.fences := by rw [goTo_eq]
@[simp] theorem goTo_suspects (t : Nat) : (s.goTo t).suspects = s.suspects := by rw [goTo_eq]
@[simp] theorem goTo_repeats (t : Nat) : (s.goTo t).repeats = s.repeats := by rw [goTo_eq]
@[simp] theorem goTo_histNow (t : Nat) : (s.goTo t).histNow = s.histNow := by rw [goTo_eq]
@[simp] theorem goTo_cqWait (t : Nat) : (s.goTo t).cqWait = s.cqWait := by rw [goTo_eq]
@[simp] theorem goTo_urgCmd (t : Nat) : (s.goTo t).urgCmd = s.urgCmd := by rw [goTo_eq]
@[simp] theorem goTo_urgRes (t : Nat) : (s.goTo t).urgRes = s.urgRes := by rw [goTo_eq]
@[simp] theorem goTo_late (t : Nat) : (s.goTo t).late = s.late := by rw [goTo_eq]
@[simp] theorem goTo_mcRing (t : Nat) : (s.goTo t).mcRing = s.mcRing := by rw [goTo_eq]
@[simp] theorem goTo_outbox (t : Nat) : (s.goTo t).outbox = s.outbox := by rw [goTo_eq]
@[simp] theorem goTo_reply (t : Nat) : (s.goTo t).reply = s.reply := by rw [goTo_eq]
@[simp] theorem goTo_due (t : Nat) : (s.goTo t).due = s.due := by rw [goTo_eq]
@[simp] theorem goTo_codebooks (t : Nat) : (s.goTo t).codebooks = s.codebooks := by rw [goTo_eq]
@[simp] theorem goTo_packStalls (t : Nat) : (s.goTo t).packStalls = s.packStalls := by rw [goTo_eq]
@[simp] theorem goTo_claims (t : Nat) : (s.goTo t).claims = s.claims := by rw [goTo_eq]
@[simp] theorem goTo_reqs (t : Nat) : (s.goTo t).reqs = s.reqs := by rw [goTo_eq]
@[simp] theorem goTo_engines (t : Nat) : (s.goTo t).engines = s.engines := by rw [goTo_eq]
@[simp] theorem goTo_memQ (t : Nat) : (s.goTo t).memQ = s.memQ := by rw [goTo_eq]
@[simp] theorem goTo_openRow (t : Nat) : (s.goTo t).openRow = s.openRow := by rw [goTo_eq]
@[simp] theorem goTo_ueTurns (t : Nat) : (s.goTo t).ueTurns = s.ueTurns := by rw [goTo_eq]
@[simp] theorem goTo_idFrames (t : Nat) : (s.goTo t).idFrames = s.idFrames := by rw [goTo_eq]
@[simp] theorem goTo_repairs (t : Nat) : (s.goTo t).repairs = s.repairs := by rw [goTo_eq]
@[simp] theorem goTo_uuSlots (t : Nat) : (s.goTo t).uuSlots = s.uuSlots := by rw [goTo_eq]
@[simp] theorem goTo_snap (t : Nat) : (s.goTo t).snap = s.snap := by rw [goTo_eq]
@[simp] theorem goTo_routes (t : Nat) : (s.goTo t).routes = s.routes := by rw [goTo_eq]
@[simp] theorem goTo_feTx (t : Nat) : (s.goTo t).feTx = s.feTx := by rw [goTo_eq]
@[simp] theorem goTo_feRx (t : Nat) : (s.goTo t).feRx = s.feRx := by rw [goTo_eq]
@[simp] theorem goTo_feHeld (t : Nat) : (s.goTo t).feHeld = s.feHeld := by rw [goTo_eq]
@[simp] theorem goTo_objs (t : Nat) : (s.goTo t).objs = s.objs := by rw [goTo_eq]
@[simp] theorem goTo_balDue (t : Nat) : (s.goTo t).balDue = s.balDue := by rw [goTo_eq]
@[simp] theorem goTo_leaving (t : Nat) : (s.goTo t).leaving = s.leaving := by rw [goTo_eq]
@[simp] theorem goTo_heldReqs (t : Nat) : (s.goTo t).heldReqs = s.heldReqs := by rw [goTo_eq]
@[simp] theorem goTo_heldCores (t : Nat) : (s.goTo t).heldCores = s.heldCores := by rw [goTo_eq]
@[simp] theorem goTo_direct (t : Nat) : (s.goTo t).direct = s.direct := by rw [goTo_eq]
@[simp] theorem goTo_l2 (t : Nat) : (s.goTo t).l2 = s.l2 := by rw [goTo_eq]
@[simp] theorem goTo_heldTap (t : Nat) : (s.goTo t).heldTap = s.heldTap := by rw [goTo_eq]

end State

end Sys2Proof.Machine
end

