-- ==== Sys2Proof/WellFormed.lean ====
section
/-! DEFINITION. Which commands are well formed: operands that name a part of the module name one that the larger module has (Table 0-2), and values fit
their registers. -/

namespace Sys2Proof

/-- Quarters are Q0 to Q11. -/
def agentOk : Agent → Bool
  | .vf q => decide (q < 12)
  | .pf => true
  | .cp => true
  | .mc => true

/-- A page is a quarter's or one of the PF's two; SOURCE is a ring, a plan or the urgent slot (Table 14-4). -/
def entryOk (e : SubEntry) : Bool := decide (e.page < 14) && decide (e.source < 3)

/-- INITIATOR classes are those of Table 6-6. -/
def initOk (i : Initiator) : Bool := decide (i.cls < 16)

/-- A request names a port, a function and a BAR, and a write carries its bytes (R272). -/
def inReqOk (r : InReq) : Bool :=
  decide (r.port < 2) && decide (r.func < 13) && decide (r.bar < 6) && (!r.write || r.data.length == r.len)

/-- A plaza request lies in one 256-byte line (R129), and comes from the port, a tap or a privileged unit (R130). -/
def plazaOk (r : PlazaReq) : Bool :=
  decide (r.q < 12) && decide (r.tier < 4) && decide (r.unit < 12) && decide (r.off + r.data.length ≤ 256) && decide (r.cls < 16) &&
    decide (r.hint < 4) && decide (r.keep < 16)

/-- A core's access names a core of a quarter, and a write carries its bytes (R292). -/
def coreOk (x : CoreAcc) : Bool := decide (x.q < 12) && decide (x.c < 3) && (!x.write || x.data.length == x.len)

/-- A pool belongs to a quarter, or to none (15). -/
def upsetOk (u : Upset) : Bool := decide (u.q < 16)

/-- Whether a command is well formed. -/
def wellFormed (i : Instr) : Bool :=
  match i with
  | .turnStart => true
  | .turnMark m flow => decide (m < 8) && decide (flow < 256)
  | .admissionDecision q _ => decide (q < 12)
  | .blankAllocation q _ => decide (q < 12)
  | .allocatorRetry q _ => decide (q < 12)
  | .operationStart _ _ => true
  | .preloadComplete _ _ => true
  | .workUnitStart _ _ _ => true
  | .witnessVerdict _ _ _ => true
  | .tileSelfTest _ _ _ => true
  | .sweepStart => true
  | .park _ _ => true
  | .parkDeadline => true
  | .drainDeadline => true
  | .balanceCheck upsets => upsets.all upsetOk
  | .stagedConfigurationApply => true
  | .keyApply => true
  | .tokenBudgetLoad _ _ _ _ _ _ => true
  | .resumeQueueRebuild => true
  | .operationComplete _ _ => true
  | .translationWalk q _ _ init => decide (q < 12) && initOk init
  | .plazaAccess rs => rs.all plazaOk
  | .rehomeScanComplete q => decide (q < 12)
  | .unitZeroed lot i => decide (i < (if lot then 256 else 1152))
  | .stripCleared s => decide (s < 16)
  | .movePage _ _ => true
  | .lateRead _ _ => true
  | .memoryRequest tier unit r _ => (tier == 1 || tier == 2) && decide (unit < 12) && decide (r.q < 16)
  | .readComplete tier unit _ _ lane => (tier == 1 || tier == 2) && decide (unit < 12) && decide (lane < 35)
  | .bankRefresh tier unit ch bank => (tier == 1 || tier == 2) && decide (unit < 12) && decide (ch < 64) && decide (bank < 16)
  | .scrub tier unit ch _ lane => (tier == 1 || tier == 2) && decide (unit < 12) && decide (ch < 64) && decide (lane < 35)
  | .laneFailure s p lane => decide (s < 12) && decide (p < 64) && decide (lane < 35)
  | .laneRemap s p => decide (s < 12) && decide (p < 64)
  | .spareTrained s p _ => decide (s < 12) && decide (p < 64)
  | .stkRetire a s val => agentOk a && decide (s < 12) && decide (val < 2 ^ 64)
  | .lostScanComplete s => decide (s < 12)
  | .retirementCopyComplete s => decide (s < 12)
  | .repairApply s _ => decide (s < 12)
  | .badFrameWrite a d val => agentOk a && decide (d < 4) && decide (val < 2 ^ 64)
  | .withdraw a d => agentOk a && decide (d < 4)
  | .cartridgeSafe d => decide (d < 4)
  | .bringIntoService a d => agentOk a && decide (d < 4)
  | .cartridgeInService d => decide (d < 4)
  | .latchOpen d => decide (d < 4)
  | .latchClose d _ frames => decide (d < 4) && decide (frames.length ≤ 1024) && frames.all (fun f => decide (f < 2 ^ 24))
  | .presenceContactOpen d => decide (d < 4)
  | .packedWrite q _ _ init => decide (q < 12) && initOk init
  | .poolRecheck q => decide (q < 12)
  | .busyRecheck q _ => decide (q < 12)
  | .expanderDecode q _ _ _ _ _ _ => decide (q < 12)
  | .streamIssue e _ => decide (e < 64)
  | .portTier3Issue _ => true
  | .streamResponse _ _ => true
  | .slotOpen _ _ => true
  | .slotCommit _ _ => true
  | .directHostStore _ _ => true
  | .bankReady s => decide (s < 12)
  | .commandPush w s p _ _ => decide (w.q < 12) && decide (s < 12) && decide (p < 64)
  | .broadcastPush w s _ _ => decide (w.q < 12) && decide (s < 12)
  | .broadcastDataWrite w s _ _ => decide (w.q < 12) && decide (s < 12)
  | .broadcastCopy s p => decide (s < 12) && decide (p < 64)
  | .engineClear w s p _ => decide (w.q < 12) && decide (s < 12) && decide (p < 64)
  | .bankNop s p _ => decide (s < 12) && decide (p < 64)
  | .gemv s p _ => decide (s < 12) && decide (p < 64)
  | .outer s p _ => decide (s < 12) && decide (p < 64)
  | .rowadd s p _ => decide (s < 12) && decide (p < 64)
  | .signal s p _ => decide (s < 12) && decide (p < 64)
  | .burstBoundary s p _ _ => decide (s < 12) && decide (p < 64)
  | .accum u _ _ => decide (u < 16)
  | .norm u _ _ => decide (u < 16)
  | .update u _ _ => decide (u < 16)
  | .shardCommit u _ => decide (u < 16)
  | .slotRetire u _ => decide (u < 16)
  | .inboundRequest r _ => inReqOk r
  | .bar2ReadTimeout port _ => decide (port < 2)
  | .configRequest port func _ _ val => decide (port < 2) && decide (func < 13) && decide (val < 2 ^ 32)
  | .hostSnoop _ => true
  | .hostAck _ => true
  | .hostRequestTimeout _ => true
  | .holdoffExpiry q v => decide (q < 12) && decide (v < 8)
  | .flitCrcFail port lane _ => decide (port < 2) && decide (lane < 16)
  | .flitNak port => decide (port < 2)
  | .replayTimeout port _ => decide (port < 2)
  | .portLaneFailure port lane => decide (port < 2) && decide (lane < 16)
  | .linkDown port => decide (port < 2)
  | .linkUp port width rate _ _ => decide (port < 2) && [1, 2, 4, 8, 16].contains width && decide (1 ≤ rate ∧ rate ≤ 6)
  | .portReset port _ => decide (port < 2)
  | .functionLevelReset port func => decide (port < 2) && decide (func < 13)
  | .ideIntegrityFail port stream => decide (port < 2) && decide (stream < 256)
  | .portAdaptationRefresh port => decide (port < 2)
  | .coreDeviceAccess x _ => coreOk x
  | .maintenanceAction q _ => decide (q < 12)
  | .coreRelease a q c => agentOk a && decide (q < 12) && decide (c < 3)
  | .coreHold a q c => agentOk a && decide (q < 12) && decide (c < 3)
  | .messageSend _ _ => true
  | .headerCheck e q i _ _ _ => decide (e < 2) && decide (q < 12) && decide (i < 64)
  | .messageApply q i _ _ => decide (q < 12) && decide (i < 64)
  | .ackLineReceive q i _ => decide (q < 12) && decide (i < 64)
  | .ackTimer q i _ => decide (q < 12) && decide (i < 64)
  | .resendTimer q e _ _ => decide (q < 12) && decide (e < 2)
  | .send _ _ => true
  | .recv _ _ => true
  | .allreduce _ _ => true
  | .sqDoorbell a port page _ => agentOk a && decide (port < 2) && decide (page < 14)
  | .cqDoorbell a port page _ => agentOk a && decide (port < 2) && decide (page < 14)
  | .ringConfig a page _ val => agentOk a && decide (page < 14) && decide (val < 2 ^ 64)
  | .urgentGo a port page _ => agentOk a && decide (port < 2) && decide (page < 14)
  | .sqEntryCopy _ => true
  | .mcRingRequest off val => decide (off < 2 ^ 26) && decide (val < 2 ^ 64)
  | .nop e => entryOk e
  | .version e => entryOk e
  | .submit e => entryOk e
  | .plan e => entryOk e
  | .invalidate e => entryOk e
  | .abortFault e => entryOk e
  | .fqHead e => entryOk e
  | .mmuCfg e => entryOk e
  | .place e => entryOk e
  | .releaseKeep e => entryOk e
  | .unit e => entryOk e
  | .hostWin e => entryOk e
  | .swap e => entryOk e
  | .advance e => entryOk e
  | .barrier e => entryOk e
  | .bufCfg e => entryOk e
  | .cbLoad e => entryOk e
  | .cbUnload e => entryOk e
  | .verdict e => entryOk e
  | .setScale e => entryOk e
  | .setStep e => entryOk e
  | .journal e => entryOk e
  | .hist e => entryOk e
  | .config e => entryOk e
  | .halt e => entryOk e
  | .release e => entryOk e
  | .cores e => entryOk e
  | .pfWin e => entryOk e
  | .bank e => entryOk e
  | .fence e => entryOk e
  | .unfence e => entryOk e
  | .route e => entryOk e
  | .fabricCfg e => entryOk e
  | .modId e => entryOk e
  | .link e => entryOk e
  | .fwLoad e => entryOk e
  | .fwSelect e => entryOk e
  | .manifest e => entryOk e
  | .override e => entryOk e
  | .repair e => entryOk e
  | .snapRead e => entryOk e
  | .errLogRead e => entryOk e
  | .scan e => entryOk e
  | .keyNew e => entryOk e
  | .keyErase e => entryOk e
  | .debugNonce e => entryOk e
  | .debugUnlock e => entryOk e
  | .svnCommit e => entryOk e
  | .keyRevoke e => entryOk e
  | .powerCap e => entryOk e
  | .powerRead e => entryOk e
  | .thermCfg e => entryOk e
  | .lockstepMismatch => true
  | .cpPairRetest _ => true
  | .mcWatchdog => true
  | .unitSelfTest _ => true
  | .receiverAdaptationRefresh _ => true
  | .resCtrlMod a val => agentOk a && decide (val < 2 ^ 64)
  | .modRstN => true
  | .quiesceEnd _ _ => true
  | .snapNow a val => agentOk a && decide (val < 2 ^ 64)
  | .snapshotLatch src _ => decide (src < 4)
  | .shiftOutComplete => true
  | .pmcSelect a i val => agentOk a && decide (i < 64) && decide (val < 2 ^ 64)
  | .bwWindowEnd port _ _ => decide (port < 2)
  | .bwWindowConfig a port val => agentOk a && decide (port < 2) && decide (val < 2 ^ 64)
  | .ghClear a q sl val => agentOk a && decide (q < 12) && decide (sl < 64) && decide (val < 2 ^ 64)
  | .registerReadClear a off => agentOk a && decide (off < 2 ^ 26)
  | .registerWrite a off val => agentOk a && decide (off < 2 ^ 26) && decide (val < 2 ^ 64)
  | .spdmRequest transport _ => decide (transport < 4)
  | .extest => true
  | .samplePreload => true
  | .idcode => true
  | .clamp => true
  | .highz => true
  | .dbgState => true
  | .unlockNonce => true
  | .unlockLoad _ => true
  | .debugErasure => true
  | .regAccess _ => true
  | .memAccess _ => true
  | .mcDebug => true
  | .cpDebug => true
  | .bypass => true
  | .powerOnReset => true
  | .powerUp _ _ => true
  | .inputUndervoltage => true
  | .pwrWarn => true
  | .auxSupplyLoss => true
  | .thermalTrip _ _ => true
  | .flowTrip => true
  | .powerDownPortIdle => true
  | .powerDownOff => true
  | .repower _ _ => true
  | .modRstNRelease => true
  | .perstNRelease port => decide (port < 2)
  | .linkTrainingTimeout port => decide (port < 2)
  | .recoveryExit port => decide (port < 2)
  | .pldmFirmwareUpdate slot _ => decide (slot < 2)
  | .timerCompare q c => decide (q < 12) && decide (c < 3)

end Sys2Proof
end

