-- ==== Sys2Proof/Tests/Slice0.lean ====
section
/-! SUPPORT. Tests: `test_<Obligation>` shows, for each clause of that obligation, a state and operands that meet its hypotheses, at the bounds of their
ranges; then the spec's worked examples, and an ill-formed command for each check of `wellFormed`. -/

set_option Elab.async false

open Sys2Proof.Machine

namespace Sys2Proof.Tests

/-- The block after reset, as the tests start from. -/
def w0 : State := State.reset

/-- Every page has shaken hands (R321). -/
def wH : State := (List.range 14).foldl (fun (s : State) (p : Nat) => s.wr .MB_STAT_HANDSHAKE p 1) w0

/-- Cycle `c` of the first turn. -/
def wAt (c : Nat) : State := { w0 with now := c }

/-- A submission entry on `page` of command CLASS × 256 + CODE for quarter `q` with ARGS `args` (R317). -/
def ent (page code q args : Nat) : SubEntry :=
  ⟨page, 0, BitVec.ofNat 512 (code / 256 + 2 ^ 8 * (code % 256) + 2 ^ 32 * 7 + 2 ^ 108 * q + 2 ^ 128 * args)⟩

/-- An operation of quarter 0 with descriptor `raw`. -/
def opOf (raw : Nat) : Op := Op.fresh 1 0 0 0 5 raw 0

/-- A 2-MiB page at quarter virtual address 0 of quarter 0, readable and writable, over extent 0 of stack 0, which the quarter owns. -/
def wMap (s : State) : State :=
  (({ s with tlb := [⟨0, 0, 21, 0x407D, 1, 0⟩] }.wr .STK_STAT_STATE 0 1).wr .MEM_EXT_STATE 0 1).wr .MEM_EXT_OWNER 0 0

/-- The same page with the packed flag. -/
def wPk (s : State) : State :=
  (({ s with tlb := [⟨0, 0, 21, 0x507D, 1, 0⟩] }.wr .STK_STAT_STATE 0 1).wr .MEM_EXT_STATE 0 1).wr .MEM_EXT_OWNER 0 0

/-- A matrix operation of one 1 × 1 × 1 problem in FP16 on a 2 × 2 blank (Table 4-4). -/
def mxRaw : Nat := 1 + 2 ^ 40 * 2 + 2 ^ 52 * 2 + 2 ^ 64 + 2 ^ 96 + 2 ^ 128 + 2 ^ 160 + 2 ^ 176 + 2 ^ 192 * 0x1000 + 2 ^ 256 + 2 ^ 288 +
  2 ^ 320 * 0x2000 + 2 ^ 384 * 0x3000 + 2 ^ 448 + 2 ^ 480 * 100 + 2 ^ 512 * 50 + 2 ^ 544 * 100

/-- The state with one operation. -/
def wOp (s : State) (o : Op) : State := { s with ops := [o] }

/-- Quarter 0 holds one strip (so that blanks of up to 64 columns are legal). -/
def wStrip (s : State) : State := (s.wr .GRID_Q_STRIPS_COUNT_ACT 0 1).wr .TURN_Q_PARK_EN 0 1

/-! Each statement's hypotheses are met together (a statement nothing meets says nothing). -/

theorem test_EmptyQueueIdles : w0.pending = [] ∧ w0.turn0 ≤ w0.now ∧ ∀ i < 64, w0.rd .PMC_SEL_EN i = 0 := by decide +kernel

theorem wIdle_inv : { w0 with pending := [.idcode] }.Inv := ⟨fun f i => Fld.resetVal_lt false f, by decide, by decide⟩

theorem test_EveryStepKeepsTheStateSound : ∃ s t : State, s.pending = [.idcode] ∧ s.Inv ∧ step s = .next t :=
  ⟨{ w0 with pending := [.idcode] }, _, rfl, wIdle_inv, rfl⟩

theorem test_CommandsThatTakeNoTime : Instr.idcode.timeless = true ∧ ∃ t, exec .idcode w0 = .next t := ⟨rfl, _, rfl⟩

theorem test_CommandsThatLeaveMemory : (Instr.shiftOutComplete).dry = true ∧ ∃ t, exec .shiftOutComplete w0 = .next t := ⟨rfl, _, rfl⟩

theorem test_KeysStayOutsideTheirCommands : (Instr.registerWrite .mc 0 1).mayKey = false ∧ ∃ t, exec (.registerWrite .mc 0 1) w0 = .next t :=
  ⟨rfl, _, rfl⟩

theorem test_TurnStartBeginsATurn : (∀ s ∈ [wAt 0, wAt 262143, (wAt 5).setH .lenNext 0 3], s.turn0 ≤ s.now ∧ s.pos ≤ s.len) ∧
    (wAt 5).h .sched 0 < 9 ∧ ((wAt 5).setH .sched 0 9).h .sched 0 = 9 ∧ (wAt 5).h .lenNext 0 = 0 ∧ ((wAt 5).setH .lenNext 0 3).h .lenNext 0 ≠ 0 := by decide +kernel

theorem test_TurnCommandsFallOnTheirCycles : ∀ c ∈ ([.turnMark 1 40, .turnMark 7 40, .sweepStart, .parkDeadline, .drainDeadline, .balanceCheck [],
    .stagedConfigurationApply, .keyApply, .tokenBudgetLoad false [] 0 0 5000 40, .resumeQueueRebuild] : List Instr),
    ∃ n, c.fallsOn w0 = some n ∧ (∀ k, c.schedNo = some k → w0.h .sched 0 < k) ∧ w0.turn0 ≤ w0.now ∧ w0.pos < n := by
  intro c hc
  fin_cases hc <;> exact ⟨_, rfl, fun k hk => by cases hk <;> decide +kernel, by decide +kernel⟩

/-- The shares together are 4,096; the MC has delivered a budget by register, or not. -/
theorem test_TheBudgetIsShared : let s := ((w0.setH .sched 0 7).setH .shareAct 0 4000).setH .shareAct 11 96
    s.h .sched 0 = 7 ∧ ((List.range s.nQ).map (fun (q : Nat) => s.h .shareAct q)).sum ≤ 4096 ∧ s.h .mcNext 0 ≠ 1 ∧
      (s.setH .mcNext 0 1).h .mcNext 0 = 1 := by decide +kernel

theorem test_KeysChangeInTheirWindow : let s := ((w0.setH .sched 0 6).setH .keyStage 0 1).setH .keyStage 11 2
    s.h .sched 0 = 6 ∧ s.rd .SEC_STAT_ERASE_PEND 0 = 0 ∧ 11 < s.nQ ∧ s.h .keyStage 0 = 1 ∧ s.h .keyStage 11 = 2 ∧ s.h .keyStage 5 = 0 := by decide +kernel

theorem test_NothingIsAdmittedFromS : (wAt 1032192).turn0 ≤ (wAt 1032192).now ∧ (wAt 1032192).cycS ≤ (wAt 1032192).pos := by decide +kernel

theorem test_AdmissionKeepsTheTokens : ∃ s t : State, s.Inv ∧ exec (.admissionDecision 0 0) s = .next t :=
  ⟨{ w0 with pending := [.idcode] }, _, wIdle_inv, rfl⟩

/-- A matrix operation at the head of the submit queue, or of the resume queue, whose charge, 50, is all that the quarter has, or one more. -/
def wHead (resume : Bool) (free : Nat) : State :=
  ({ wStrip w0 with ops := [opOf mxRaw], submitQ := if resume then [] else [1], resumeQ := if resume then [1] else [] }).wr .TOK_Q_STAT_FREE 0 free

theorem test_AdmissionChargesTheSlice : ∀ resume, ∀ free ∈ [49, 50], ∀ c ∈ [0, 1032091, 1032092],
    let s := wHead resume free
    let o := opOf mxRaw
    let u := s.goTo c
    let s1 := u.setH .decideAt 0 (u.pos + 2)
    let left := u.cycS - u.pos
    let charge := (o.estTokens * min o.estCycles left + o.estCycles - 1) / o.estCycles
    u.pos < u.cycS ∧ u.h .halted 0 = 0 ∧ u.h .decideAt 0 ≤ u.pos ∧ 0 < u.nQ ∧ u.rd .TURN_Q_PARK_EN 0 = 1 ∧ o.q = 0 ∧ o.kind ≠ 0x30 ∧
    s1.executing 0 < 256 ∧ (if resume then s1.headOf 0 s1.resumeQ = some o ∧ s1.estBad o = none else
      s1.headOf 0 s1.resumeQ = none ∧ s1.headOf 0 s1.submitQ = some o ∧ o.kind ≠ 0x02 ∧ s1.parkedCount 0 < 768 ∧
      (match s1.withEntries o true with
       | (s2, .ok p) => decide (p = { o with entries := List.replicate 8 0 } ∧ s2.invalid p = none)
       | (_, .error _) => false) = true) ∧
    ((if o.span then (estOf o.raw).2.2 else o.estCycles) ≤ left ↔ c ≤ 1032092) ∧ (charge ≤ s1.rd .TOK_Q_STAT_FREE 0 ↔ free = 50) ∧
    s.rd .TOK_Q_STAT_FREE 0 < 2 ^ 21 := by decide +kernel

/-- A matrix operation that waits for its blank. -/
def wPlace (raw : Nat) : State := ({ wOp (wStrip w0) { opOf raw with phase := .placing } with allocQ := [1] }).setH .allocAt 0 1

theorem test_BlanksAreLegal : let s := wPlace (mxRaw - 2 ^ 40)
    let o := { opOf (mxRaw - 2 ^ 40) with phase := .placing }
    let u := s.goTo 1
    let v := ((u.finish o.id stBlankTooLarge).startAlloc 0 (u.h .allocAt 0)).syncBlanks 0
    u.h .halted 0 ≠ 1 ∧ u.allocHead 0 = some o ∧ u.h .allocAt 0 ≠ 0 ∧ u.h .allocAt 0 ≤ u.now ∧
      u.blankLegal 0 (State.blankRows o) (State.blankCols o) (State.drainRows o) = false ∧ v.allocHead 0 = none := by decide +kernel

/-- The operation reached the head in cycle 0: with no row examined yet, and with the first. -/
theorem test_BlanksAreAllocated : ∀ c ∈ [1, 2],
    let u := (wPlace mxRaw).goTo c
    let o := { opOf mxRaw with phase := .placing }
    u.h .halted 0 ≠ 1 ∧ u.allocHead 0 = some o ∧ u.blankLegal 0 (State.blankRows o) (State.blankCols o) (State.drainRows o) = true ∧
      u.h .allocAt 0 = 0 + 1 ∧ u.h .allocRow 0 = 0 ∧ u.allocQ = [o.id] ∧
      u.findPlace 0 1 1 0 (min 128 (u.now - 1)) = if c = 1 then none else some (0, 0) := by decide +kernel

/-- No place: a blank of the same quarter covers the whole strip; all 128 rows are examined by cycle 129. -/
theorem test_BlanksAreAllocated_none :
    let o := { opOf mxRaw with phase := .placing }
    let u := ({ wPlace mxRaw with ops := [o, { opOf mxRaw with id := 2, phase := .running, blank := some ⟨0, 0, 8, 128⟩ }] }).goTo 129
    u.allocHead 0 = some o ∧ u.blankLegal 0 (State.blankRows o) (State.blankCols o) (State.drainRows o) = true ∧ u.h .allocAt 0 = 0 + 1 ∧
      u.h .allocRow 0 = 0 ∧ 0 + 1 + (129 - 1) ≤ u.now ∧ u.findPlace 0 1 1 0 (129 - 1) = none := by
  decide +kernel

/-- The allocator waits since cycle 130; a release takes effect in cycle 140. -/
theorem test_BlanksAreAllocated_retry :
    let o := { opOf mxRaw with phase := .placing }
    let u := ((((wPlace mxRaw).setH .allocAt 0 0).setH .allocWait 0 130).setH .allocFree 0 140).goTo 142
    let v := (u.ev evBlankWait 0 0 (139 + 1 - u.h .allocWait 0)).startAlloc 0 139
    u.h .halted 0 ≠ 1 ∧ u.allocHead 0 = some o ∧ u.blankLegal 0 (State.blankRows o) (State.blankCols o) (State.drainRows o) = true ∧
      u.h .allocWait 0 ≠ 0 ∧ u.h .allocFree 0 = 139 + 1 ∧ u.allocQ = [o.id] ∧ v.findPlace 0 1 1 0 (min 128 (u.now - 140)) = some (0, 0) := by
  decide +kernel

/-- A pair whose second part is known. -/
theorem pair_of {α β : Type} (p : α × β) (x : β) (h : p.2 = x) : ∃ t, p = (t, x) := ⟨p.1, Prod.ext rfl h⟩

theorem serves (s : State) (e : SubEntry) (code : Nat)
    (h : (eCode e == code && s.pageHere e.page && (s.screen e).isNone) = true) : s.Serves e code := by
  simp only [Bool.and_eq_true, beq_iff_eq, Option.isNone_iff_eq_none] at h
  exact ⟨h.1.1, h.1.2, h.2⟩

/-- Every status of the checks is met: no handshake, restricted service, a command of another page, a reserved bit, a quarter that is not there. -/
theorem test_CommandsAreScreened :
    w0.screen (ent 13 0xC01 0 0) = some stNoHandshake ∧
    ((wH.wr .FW_STATE_SERVICE 0 1).screen (ent 12 0x701 3 0)) = some stRestricted ∧
    wH.screen (ent 13 0x701 0 0) = some stNotPermitted ∧ wH.screen (ent 12 0x701 3 2) = some stInvalidDescriptor ∧
    ({ wH with lt09 := true }).screen (ent 12 0x701 9 0) = some stInvalidTarget ∧
    wH.pageHere 13 = true ∧ ({ wH with lt09 := true }).pageHere 9 = false ∧ eCode (ent 12 0x701 3 0) = 0x701 ∧
    (Instr.halt (ent 12 0x701 3 0)).entry? = some (0x701, ent 12 0x701 3 0) := by decide +kernel

theorem test_NoCommandBeforeTheHandshake : w0.restricted = false ∧ w0.rd .MB_STAT_HANDSHAKE 13 = 0 ∧ (ent 13 0xC01 0 0).source ≠ 2 ∧
    eCode (ent 13 0xC01 0 0) ≠ 0 ∧ eCode (ent 13 0xC01 0 0) ≠ 1 ∧ eCode (ent 13 1 0 0) = 1 := by decide +kernel

/-- Page 13's completion ring in host memory, its last round's last entry. -/
def wRing : State := ((((wH.wr .MB_CQ_CFG_EN 13 1).wr .MB_CQ_CFG_LOG2 13 4).wr .MB_CQ_CFG_BASE 13 5).wr .PT_LINK_STAT_UP 0 1).wr .MB_STAT_CQ_TAIL 13 31

theorem test_CompletionsArePosted :
    let s := wRing.wr .MB_CQ_DB_HEAD 13 30
    let c : Cpl := ⟨7, 0, 0, 0, false, 0, 0, none⟩
    13 < 14 ∧ c.source ≠ 2 ∧ s.cqWait = [] ∧ s.rd .MB_CQ_CFG_EN 13 = 1 ∧ s.cqFull 13 = false ∧ s.rd .MB_CQ_CFG_LOG2 13 ≤ 12 ∧
    s.rd .MB_CQ_CFG_LOC 13 = 0 ∧ s.rd .PT_LINK_STAT_UP (s.pagePort 13) = 1 ∧ s.h .cqSince 13 = 0 := by decide +kernel

/-- A command of the management page is served. -/
theorem test_management : ∀ code ∈ [0x000, 0x001, 0xC01, 0xA01, 0xB02, 0x902, 0xB05, 0xB03], wH.Serves (ent 13 code 0 0) code := by
  intro code hc
  fin_cases hc <;> exact serves _ _ _ (by decide +kernel)

/-- A snapshot image of a module with nothing in it. -/
def wSnap : State := { wH.wr .SNAP_STAT_VALID 0 1 with snap := some ⟨1, 0, 0, 3, [], [], [], [], 0, []⟩ }

theorem image_big (s : State) : 4096 ≤ s.imageSize := by
  unfold State.imageSize
  omega

theorem test_ReportingCommandsAnswer_snapRead : let e := ent 13 0xA00 0 (64 + 2 ^ 64 * 64)
    wSnap.Serves e 0xA00 ∧ (∃ p, wSnap.snap = some p) ∧ wSnap.rd .SNAP_STAT_BUSY 0 = 0 ∧ wSnap.rd .SNAP_STAT_VALID 0 = 1 ∧
      eArg e 64 32 % 64 = 0 ∧ eArg e 0 64 + eArg e 64 32 ≤ wSnap.imageSize :=
  ⟨serves _ _ _ (by decide +kernel), ⟨_, rfl⟩, by decide +kernel, by decide +kernel, by decide +kernel,
    Nat.le_trans (show eArg (ent 13 0xA00 0 (64 + 2 ^ 64 * 64)) 0 64 + eArg (ent 13 0xA00 0 (64 + 2 ^ 64 * 64)) 64 32 ≤ 4096 by decide +kernel)
      (image_big wSnap)⟩

theorem test_ReportingCommandsAnswer_scan : let s := { wH with objs := [(3, [1])] }
    let e := ent 13 0xA02 0 (2 ^ 2 * 2 + 2 ^ 64 * 3)
    s.Serves e 0xA02 ∧ eArg e 2 2 = 2 ∧ eArg e 128 64 = 0 ∧ eArg e 64 64 < 4 ∧ s.obj (objCfw + eArg e 64 64) ≠ [] ∧ eArg e 4 1 = 0 ∧
      eArg e 5 1 = 0 ∧ eArg e 6 1 = 0 :=
  ⟨serves _ _ _ (by decide +kernel), by decide +kernel⟩

/-- The 69 words of histogram slot 63 of quarter 0 after reset. -/
def wWords : List Byte := ((wMap wH).histRead 63).flatMap (fun w => toBytes w 8)

theorem wWords_zero : wWords = List.replicate 552 0 := by decide +kernel

theorem wWords_fit : ((wMap wH).vwrite (State.cpClient 0 7) 64 wWords).2 = .ok () := by
  rw [wWords_zero]
  decide +kernel

theorem test_ReportingCommandsAnswer_hist : let e := ent 0 0x600 0 (63 + 2 ^ 64 * 64)
    (wMap wH).Serves e 0x600 ∧ eTarget e = 0 ∧ eTag e = 7 ∧ eArg e 0 6 = 63 ∧ eArg e 6 1 = 0 ∧ eArg (ent 0 0x600 0 (63 + 2 ^ 6 + 2 ^ 64 * 64)) 6 1 = 1 ∧
      (wMap wH).histOf 63 = none ∧ eArg e 64 64 % 64 = 0 ∧ eArg e 64 64 = 64 ∧ ∃ t, (wMap wH).vwrite (State.cpClient 0 7) 64 wWords = (t, .ok ()) :=
  ⟨serves _ _ _ (by decide +kernel), by decide +kernel, by decide +kernel, by decide +kernel, by decide +kernel, by decide +kernel, by decide +kernel,
    by decide +kernel, by decide +kernel, pair_of _ _ wWords_fit⟩

theorem test_SettingCommandsWriteTheirRegisters :
    wH.Serves (ent 0 0x502 0 7) 0x502 ∧
    (wH.Serves (ent 12 0x501 11 (24 + 2 ^ 16 * 1 + 2 ^ 33)) 0x501 ∧ eArg (ent 12 0x501 11 (24 + 2 ^ 16 * 1 + 2 ^ 33)) 0 5 ≤ 24 ∧
      eArg (ent 12 0x501 11 (24 + 2 ^ 16 * 1 + 2 ^ 33)) 16 16 ≠ 0 ∧ eArg (ent 12 0x501 11 (24 + 2 ^ 16 * 1 + 2 ^ 33)) 33 1 = 1) ∧
    (wH.Serves (ent 12 0x503 3 (2 ^ 63 + 9)) 0x503 ∧ wH.slotsHeld 3 = false) ∧ wH.Serves (ent 12 0x802 0 5) 0x802 ∧
    (wH.Serves (ent 13 0xC00 0 1000) 0xC00 ∧ 100 ≤ eArg (ent 13 0xC00 0 1000) 0 11 ∧ eArg (ent 13 0xC00 0 1000) 0 11 ≤ wH.capW) ∧
    (wH.Serves (ent 13 0xC02 0 (95 + 256 * 94)) 0xC02 ∧ eArg (ent 13 0xC02 0 (95 + 256 * 94)) 8 8 < eArg (ent 13 0xC02 0 (95 + 256 * 94)) 0 8) ∧
    (wH.Serves (ent 12 0x705 11 (11 + 2 ^ 4)) 0x705 ∧ eArg (ent 12 0x705 11 (11 + 2 ^ 4)) 0 4 < wH.nStacks) ∧
    wH.Serves (ent 5 0x800 0 64) 0x800 ∧ (wH.Serves (ent 5 0x801 0 1) 0x801 ∧ wH.feTx = []) := by
  refine ⟨serves _ _ _ ?_, ⟨serves _ _ _ ?_, ?_⟩, ⟨serves _ _ _ ?_, ?_⟩, serves _ _ _ ?_, ⟨serves _ _ _ ?_, ?_⟩, ⟨serves _ _ _ ?_, ?_⟩,
    ⟨serves _ _ _ ?_, ?_⟩, serves _ _ _ ?_, ⟨serves _ _ _ ?_, rfl⟩⟩ <;> decide +kernel

/-- CONFIG with every count at its largest: 16 strips, 12 ways, 512 tags, 1,024 credits. -/
theorem test_ConfigStagesTheQuarter : let e := ent 12 0x700 11 (2 ^ 4 * 16 + 2 ^ 9 * 12 + 2 ^ 26 * 512 + 2 ^ 37 * 1024 + 2 ^ 50 * 2)
    wH.Serves e 0x700 ∧ eArg e 4 5 ≤ 16 ∧ eArg e 9 4 ≤ 12 ∧ eArg e 26 10 ≤ 512 ∧ eArg e 37 11 ≤ 1024 ∧ eArg e 50 2 ≠ 3 :=
  ⟨serves _ _ _ (by decide +kernel), by decide +kernel⟩

theorem test_RegisterCommandsWriteAsTheCP : (∀ code ∈ [0x202, 0x203, 0x302, 0x303], wH.Serves (ent 11 code 0 0) code) ∧
    (∀ code ∈ [0x207, 0x703, 0x704], wH.Serves (ent 12 code 11 0) code) ∧ wH.bufUsed 11 0 = false ∧
    { wH with claims := [⟨11, 0, 1, 1, false⟩] }.Serves (ent 11 0x303 0 0) 0x303 ∧
    { wH with claims := [⟨11, 0, 1, 1, false⟩] }.bufUsed 11 0 = true := by
  refine ⟨fun code hc => ?_, fun code hc => ?_, by decide +kernel, serves _ _ _ (by decide +kernel), by decide +kernel⟩ <;>
    (fin_cases hc <;> exact serves _ _ _ (by decide +kernel))

theorem test_StagingCommands : wH.Serves (ent 12 0x701 11 1) 0x701 ∧
    ((wH.setH .halted 11 1).Serves (ent 12 0x702 11 0) 0x702 ∧ (wH.setH .halted 11 1).h .halted 11 = 1) ∧
    (wH.Serves (ent 12 0x706 0 (1039 + 2 ^ 11 * 1039)) 0x706 ∧ eArg (ent 12 0x706 0 (1039 + 2 ^ 11 * 1039)) 0 11 < wH.nCols ∧
      eArg (ent 12 0x706 0 (1039 + 2 ^ 11 * 1039)) 11 11 < 1040) ∧ (wH.Serves (ent 13 0x905 0 (1039 + 2 ^ 11 * 1039)) 0x905 ∧ wH.mcRing = [] ∧ wH.h .cpUp 0 = 0 ∧ (wH.setH .cpUp 0 1).h .cpUp 0 ≠ 0 ∧
      wH.fences.length < 64) ∧
    (wH.Serves (ent 13 0x803 0 (1 + 2 * 6)) 0x803 ∧ eArg (ent 13 0x803 0 (1 + 2 * 6)) 1 3 = 6 ∧ wH.rd .PT_LINK_STAT_UP 1 = 0) ∧
    (∀ code ∈ [0xB00, 0xB01], wH.Serves (ent 13 code 0 11) code ∧ eArg (ent 13 code 0 11) 0 4 < wH.nQ) ∧ wH.rd .SEC_STAT_DBG_OPEN 0 = 0 ∧
    (∀ k ∈ [0, 2], wH.Serves (ent 13 0x904 0 (11 + 2 ^ 10 * k)) 0x904 ∧ eArg (ent 13 0x904 0 (11 + 2 ^ 10 * k)) 0 4 < wH.nStacks ∧
      eArg (ent 13 0x904 0 (11 + 2 ^ 10 * k)) 10 4 = k ∧ wH.repairs = []) ∧
    (wH.Serves (ent 13 0x904 0 (11 + 2 ^ 10 * 3 + 2 ^ 18 * 34)) 0x904 ∧ eArg (ent 13 0x904 0 (11 + 2 ^ 10 * 3 + 2 ^ 18 * 34)) 10 4 = 3 ∧
      eArg (ent 13 0x904 0 (11 + 2 ^ 10 * 3 + 2 ^ 18 * 34)) 18 6 < 35 ∧ wH.rd .STK_PC_ERR_SPARE_USED (State.pcIdx 11 0) = 0) := by
  refine ⟨serves _ _ _ (by decide +kernel), ⟨serves _ _ _ (by decide +kernel), by decide +kernel⟩,
    ⟨serves _ _ _ (by decide +kernel), by decide +kernel⟩, ⟨serves _ _ _ (by decide +kernel), by decide +kernel⟩,
    ⟨serves _ _ _ (by decide +kernel), by decide +kernel⟩, fun code hc => ?_, by decide +kernel, fun k hk => ?_, ⟨serves _ _ _ (by decide +kernel), by decide +kernel⟩⟩
  · fin_cases hc <;> exact ⟨serves _ _ _ (by decide +kernel), by decide +kernel⟩
  · fin_cases hk <;> exact ⟨serves _ _ _ (by decide +kernel), by decide +kernel⟩

/-- Eight tiles of quarter 0 are suspect, in its strip 0. -/
def wSuspects : State :=
  { (w0.wr .GRID_STRIP_STATE_STATE 0 1) with suspects := (List.range 8).map (fun (i : Nat) => (⟨0, i, 0⟩ : Suspect)) }

theorem test_FenceRequestsAreStagedOrRefused :
    w0.nCols ≤ 1040 ∧ 1039 < w0.nCols ∧ w0.fences.length < 64 ∧ 64 ≤ { w0 with fences := List.replicate 64 ⟨0, 0, false⟩ }.fences.length ∧
    wSuspects.holder (7 / 65) = some 0 ∧ (⟨0, 7, 0⟩ : Suspect) ∈ wSuspects.suspects ∧
    { wSuspects with suspects := wSuspects.suspects.tail }.holder (64 / 65) = some 0 ∧
    (wSuspects.suspects.tail.filter (fun t => t.q == 0)).length < 8 ∧ (⟨0, 64, 0⟩ : Suspect) ∉ wSuspects.suspects ∧
    8 ≤ (wSuspects.suspects.filter (fun t => t.q == 0)).length := by decide +kernel

theorem test_MemoryCommandsAct : w0.stalls = [] ∧
    (wH.Serves (ent 0 0x200 0 (65536 + 2 ^ 64 * 65536)) 0x200 ∧ eArg (ent 0 0x200 0 (65536 + 2 ^ 64 * 65536)) 64 64 = 65536) ∧
    wH.Serves (ent 0 0x201 0 65536) 0x201 ∧ wH.Serves (ent 0 0x205 0 0x8000) 0x205 ∧
    (wH.Serves (ent 12 0x206 11 (1 + 2 ^ 3 * 1151)) 0x206 ∧ eArg (ent 12 0x206 11 (1 + 2 ^ 3 * 1151)) 0 2 = 1 ∧
      eArg (ent 12 0x206 11 (1 + 2 ^ 3 * 1151)) 2 1 = 0 ∧ eArg (ent 12 0x206 11 (1 + 2 ^ 3 * 1151)) 3 11 < 96 * wH.nStacks) := by
  refine ⟨rfl, ⟨serves _ _ _ ?_, ?_⟩, serves _ _ _ ?_, serves _ _ _ ?_, ⟨serves _ _ _ ?_, ?_⟩⟩ <;> decide +kernel

/-- Extent 95, OWNED by quarter 11, is released. -/
theorem test_MemoryCommandsAct_release :
    let s := (wH.wr .MEM_EXT_STATE 95 1).wr .MEM_EXT_OWNER 95 11
    let e := ent 12 0x206 11 (2 + 2 ^ 3 * 95)
    let s1 := s.cpWrite (0x74000 + 4 * eArg e 3 11) (2 ^ 9 + 2 ^ 4 * 11)
    s.Serves e 0x206 ∧ eTarget e = 11 ∧ eArg e 0 2 = 2 ∧ eArg e 2 1 = 0 ∧ eArg e 3 11 < 96 * s.nStacks ∧
      s.rd .MEM_EXT_STATE (eArg e 3 11) = 1 ∧ s1.rd .MEM_EXT_STATE (eArg e 3 11) = 2 :=
  ⟨serves _ _ _ (by decide +kernel), by decide +kernel⟩

/-- Buffer 15 of quarter 0 as a swap pair, and buffer 14 as a ring of 4 slots of which 3 are full. -/
def wBufs : State :=
  ((((((wH.wr .SE_BUF_CFG_EN 14 1).wr .SE_BUF_CFG_EN 15 1).wr .SE_BUF_CFG_KIND 15 1).wr .SE_BUF_CFG_SLOTS_M1 15 1).wr .SE_BUF_CFG_SLOTS_M1 14 3).wr .SE_BUF_PTR_FULL 14 3).wr .SE_BUF_PTR_HEAD 14 2

theorem test_MemoryCommandsAct_buffers : (wBufs.Serves (ent 0 0x300 0 15) 0x300 ∧ wBufs.bufSlots 0 15 = some 2 ∧
      wBufs.rd .SE_BUF_CFG_KIND (State.bufIdx 0 15) = 1) ∧
    (wBufs.Serves (ent 0 0x301 0 (14 + 2 ^ 8 * 64)) 0x301 ∧ eArg (ent 0 0x301 0 (14 + 2 ^ 8 * 64)) 8 7 = 64 ∧ wBufs.bufSlots 0 14 = some 4 ∧
      wBufs.rd .SE_BUF_CFG_KIND (State.bufIdx 0 14) = 0) ∧
    (3 ≤ wBufs.rd .SE_BUF_PTR_FULL 14 ∧ wBufs.rd .SE_BUF_PTR_FULL 14 < 128 ∧ wBufs.rd .SE_BUF_CFG_SLOTS_M1 14 < 64 ∧
      wBufs.rd .SE_BUF_PTR_FULL 14 < 4) := by
  refine ⟨⟨serves _ _ _ ?_, ?_⟩, ⟨serves _ _ _ ?_, ?_⟩, ?_⟩ <;> decide +kernel

/-- A ledger of one object of 64 KiB for tier 1, or, with `bad`, for tier 2, where the quarter holds nothing; it names unit 0. -/
def wLedger (bad : Bool) : State := wMap { wH with mem := [(1, 33), (65, if bad then 12 else 8), (1153, 1)] }
def wEntry (bad : Bool) : Nat := 33 + 2 ^ 8 * (if bad then 12 else 8) + 2 ^ 144
def wPlaced (bad : Bool) : List Placed := if bad then [⟨0, 7, 0, 0, 0, 0⟩] else [⟨0, 0, 1, 0, 0, 65536⟩]

theorem wLedger_reads (bad : Bool) : ((wLedger bad).readEntries 0 7 0 (2 ^ min 24 ((wLedger bad).rd .MMU_LEDGER_LOG2 0))).2 =
    .ok [(0, wEntry bad)] := by
  cases bad <;> decide +kernel

def wRead (bad : Bool) : State := ((wLedger bad).readEntries 0 7 0 1).1

theorem wLedger_placed (bad : Bool) : placeAll [(0, wEntry bad)] ((wRead bad).ownedFree 0) = wPlaced bad := by
  cases bad <;> decide +kernel

theorem test_MemoryCommandsAct_place_none : let e := ent 0 0x204 0 (4096 + 2 ^ 64 * 1)
    (wLedger true).Serves e 0x204 ∧ eArg e 64 32 = 1 ∧ eArg e 0 64 = 4096 ∧ placeStatus (wPlaced true) = 2 ∧
      ((wRead true).vwrite (State.cpClient 0 7) 4096 (placeReport (wPlaced true) 0)).2 = .ok () :=
  ⟨serves _ _ _ (by decide +kernel), by decide +kernel, by decide +kernel, by decide +kernel, by decide +kernel⟩

/-- Its entry is written. -/
def wWrite : State × Except Nat Unit := (wRead false).vwrite (State.cpClient 0 7) ((wRead false).ledgerVA 0 0)
  (toBytes (placedEntry (wEntry false) ⟨0, 0, 1, 0, 0, 65536⟩) 64)

theorem test_MemoryCommandsAct_place : let e := ent 0 0x204 0 (4096 + 2 ^ 64 * 1)
    (wLedger false).Serves e 0x204 ∧ eArg e 64 32 = 1 ∧ placeStatus (wPlaced false) ≠ 2 ∧
      wWrite.2 = .ok () ∧ (wWrite.1.vwrite (State.cpClient 0 7) 4096 (placeReport (wPlaced false) 0)).2 = .ok () :=
  ⟨serves _ _ _ (by decide +kernel), by decide +kernel, by decide +kernel, by decide +kernel, by decide +kernel⟩

theorem placeOrder_one (x : Nat × Nat) : placeOrder [x] = [x] := List.mergeSort_singleton _

/-- A good codebook image of one entry of FMT 0 (Table 8-3), all zero but for its header, at address 0. -/
def wImg : State := wMap { wH with mem := [(129, 1), (513, 52), (577, 79), (641, 233), (705, 211)] }
def imgHead : List Byte := [0, 0, 1, 0, 0, 0, 0, 0, 52, 79, 233, 211] ++ List.replicate 52 0
def img : List Byte := imgHead ++ List.replicate 1032 0

set_option maxRecDepth 100000 in
theorem img_good : cbImageOk img = true := by decide +kernel

theorem img_head : (wImg.vread (State.cpClient 0 7) 0 64).2 = .ok (imgHead, false) := by decide +kernel

def wImg1 : State := (wImg.vread (State.cpClient 0 7) 0 64).1

theorem img_read : (wImg1.vread (State.cpClient 0 7) 0 (1088 + min (cbEntries imgHead) 4096 * modeW (cbFmt imgHead) / 2)).2 = .ok (img, false) := by
  decide +kernel

/-- Codebook slot 255 for the stores of stack 11 and bay 3. -/
theorem test_CodebookAndTrainingCommands_load : let e := ent 0 0x400 0 (255 + 2 ^ 16 * (2 ^ 11 + 2 ^ 15))
    wImg.Serves e 0x400 ∧ eArg e 0 8 = 255 ∧ eArg e 16 16 = 2 ^ 11 + 2 ^ 15 ∧ eArg e 64 64 = 0 ∧
    (∀ u < 16, bitsOf (eArg e 16 16) u 1 = 1 → u < wImg.nStacks ∨ (12 ≤ u ∧ u < 12 + wImg.nBays)) ∧
    wImg.rd .CB_SLOT_VALID 255 = 0 ∧ wImg.rd .CB_SLOT_UNLOADING 255 = 0 ∧
    (List.range 4096).find? (fun b => (wImg1.vread (State.cpClient 0 7) 0 1096).1.cbFits (2 ^ 11 + 2 ^ 15) b ((img.length + 63) / 64)) = some 0 :=
  ⟨serves _ _ _ (by decide +kernel), by decide +kernel, by decide +kernel, by decide +kernel, by decide +kernel, by decide +kernel,
    by decide +kernel, by decide +kernel⟩

theorem test_CodebookAndTrainingCommands :
    (let s := (wH.wr .CB_SLOT_VALID 255 1).wr .CB_SLOT_OWNER 255 11
     s.Serves (ent 11 0x401 0 255) 0x401 ∧ s.rd .CB_SLOT_VALID (eArg (ent 11 0x401 0 255) 0 8) = 1 ∧
       s.rd .CB_SLOT_OWNER (eArg (ent 11 0x401 0 255) 0 8) = 11) ∧
    (wH.Serves (ent 11 0x500 0 (1 + 2 ^ 64 * 0x3F800000)) 0x500 ∧
      ((wH.wr .UU_Q_CLIP_CLIP 11 (eArg (ent 11 0x500 0 (1 + 2 ^ 64 * 0x3F800000)) 64 32)).giveVerdict 11 1 false).2 = true) ∧
    ((wMap wH).Serves (ent 0 0x100 0 128) 0x100 ∧ (wMap wH).submitHeld 0 = false ∧ ((wMap wH).newId.2.readDesc 0 7 128).2 = .ok 0) ∧
    (wH.Serves (ent 0 0x101 0 (128 + 2 ^ 64 * 3)) 0x101 ∧ eArg (ent 0 0x101 0 (128 + 2 ^ 64 * 3)) 0 64 % 64 = 0 ∧ wH.submitHeld 0 = false) :=
  ⟨⟨serves _ _ _ (by decide +kernel), by decide +kernel⟩, ⟨serves _ _ _ (by decide +kernel), by decide +kernel⟩,
    ⟨serves _ _ _ (by decide +kernel), by decide +kernel⟩, ⟨serves _ _ _ (by decide +kernel), by decide +kernel⟩⟩

theorem test_FirmwareAndKeyCommands :
    (wH.Serves (ent 13 0x900 0 1) 0x900 ∧ eArg (ent 13 0x900 0 1) 0 1 = 1 ∧ wH.h .selStaged 1 ≠ 2 - wH.rd .FW_STATE_MFW_SLOT 0) ∧
    (wH.Serves (ent 13 0x901 0 3) 0x901 ∧ eArg (ent 13 0x901 0 3) 0 1 = 1 ∧ wH.h .selStaged 0 = 0) ∧
    ({ wH with objs := [(4, [])] }.Serves (ent 13 0x902 0 0) 0x902 ∧ { wH with objs := [(4, [])] }.obj objManifest = []) ∧ (wH.Serves (ent 13 0x903 0 0) 0x903 ∧ eArg (ent 13 0x903 0 0) 0 1 = 0) ∧
    (wH.Serves (ent 13 0xB04 0 1) 0xB04 ∧ eArg (ent 13 0xB04 0 1) 0 1 = 1 ∧ wH.rd .FW_STATE_SWAP_PEND 0 = 0 ∧
      wH.rd .SEC_STAT_SVN_MFW 0 < 64) ∧
    (wH.Serves (ent 13 0xB05 0 0) 0xB05 ∧
      (let b := wH.readObject 13 (eArg (ent 13 0xB05 0 0) 64 64) (eArg (ent 13 0xB05 0 0) 128 32)
       bitsOf (objScope b) (objKey b) 1 = 0 ∧ wH.rd .SEC_STAT_REVOKED 0 ||| objScope b ≠ 15)) ∧
    wH.Serves (ent 13 0xB03 0 0) 0xB03 :=
  ⟨⟨serves _ _ _ (by decide +kernel), by decide +kernel⟩, ⟨serves _ _ _ (by decide +kernel), by decide +kernel⟩,
    ⟨serves _ _ _ (by decide +kernel), by decide +kernel⟩, ⟨serves _ _ _ (by decide +kernel), by decide +kernel⟩,
    ⟨serves _ _ _ (by decide +kernel), by decide +kernel⟩, ⟨serves _ _ _ (by decide +kernel), by decide +kernel⟩,
    serves _ _ _ (by decide +kernel)⟩

theorem test_TheSweepParksAndCutsOff : w0.h .sched 0 = 0 ∧
    (let o := { opOf mxRaw with phase := .placing }
     let v := (wOp w0 o).goTo w0.cycS
     v.op? 1 = some o ∧ o.kind = 0x01 ∧ v.h .halted o.q = 0) ∧
    (let o := { opOf mxRaw with phase := .running, wait := some (63, 5) }
     let v := (wOp w0 o).goTo w0.cycS
     v.op? 1 = some o ∧ v.barOpen o = false ∧ o.units = []) ∧
    (let o := { opOf mxRaw with phase := .running }
     let u := (wOp w0 o).goTo w0.cycS
     u.op? o.id = some o ∧ u.barOpen o = true ∧ u.h .halted o.q = 0 ∧ u.atParkPoint o = true ∧ u.cycS ≤ u.pos ∧ o.kind ≠ 0x30 ∧ o.kind ≠ 0x40) ∧
    (let o := { opOf mxRaw with phase := .running }
     let s := (wOp w0 o).setH .sched 0 1
     let u := s.goTo w0.cycP
     s.h .sched 0 = 1 ∧ u.ops = [o] ∧ o.kind = 0x01 ∧ u.h .halted o.q = 0) ∧
    (w0.setH .sched 0 2).h .sched 0 = 2 ∧ w0.engines = [] ∧ w0.packStalls = [] := by decide +kernel

theorem test_TheBalanceVerdict : w0.reqs = [] ∧ w0.ops = [] ∧ w0.uuSlots = [] ∧ w0.feTx = [] ∧ (w0.setH .sched 0 3).h .sched 0 = 3 ∧
    (∀ q < w0.nQ, ((w0.setH .sched 0 3).goTo (w0.cycW 256)).parkCount q = ((w0.setH .sched 0 3).goTo (w0.cycW 256)).parkInArea q) ∧
    (-3 : Int) ≠ 0 ∧ 11 < w0.nQ ∧ w0.rd .TURN_BAL_WHERE_CODE 0 = 0 ∧
    (let s := { w0.setH .sched 0 4 with balDue := [(4, 11, 0, 3)] }
     s.h .sched 0 = 4 ∧ s.balDue = [(4, 11, 0, 3)] ∧ s.turn0 ≤ s.now ∧ s.pos < s.cycW 258) := by
  decide +kernel

/-- Shares and quotas that fit exactly, and by one too many. -/
theorem test_StagedSharesAndTags : (w0.setH .sched 0 5).h .sched 0 = 5 ∧
    (let s := ((((w0.wr .SE_Q_TAGS_AUTO 11 0).wr .SE_Q_TAGS_AUTO 0 0).wr .TOK_Q_SHARE_SHARE 0 4000).wr .TOK_Q_SHARE_SHARE 11 96).wr .SE_Q_TAGS_TAGS 11 512
     ((List.range s.nQ).map (fun (q : Nat) => s.rd .TOK_Q_SHARE_SHARE q)).sum ≤ 4096 ∧
       ((List.range s.nQ).map (fun (q : Nat) => s.tagsNext q)).sum ≤ 512) ∧
    (let s := (((((w0.wr .SE_Q_TAGS_AUTO 11 0).wr .SE_Q_TAGS_AUTO 0 0).wr .TOK_Q_SHARE_SHARE 0 4000).wr .TOK_Q_SHARE_SHARE 11 97).wr .SE_Q_TAGS_TAGS 11 512).wr .SE_Q_TAGS_TAGS 0 1
     4096 < ((List.range s.nQ).map (fun (q : Nat) => s.rd .TOK_Q_SHARE_SHARE q)).sum ∧
       512 < ((List.range s.nQ).map (fun (q : Nat) => s.tagsNext q)).sum) := by decide +kernel

/-- The operation that runs, with its residency in place. -/
def oRun : Op := { opOf mxRaw with phase := .running, actKey := some (0, 0), actB := [[[0x3C00]]] }
def wRun : State := wOp (wMap w0) oRun

theorem test_BlankOperationsRun_unit :
    let u := wRun.goTo 9
    u.op? oRun.id = some oRun ∧ u.h .halted oRun.q = 0 ∧ oRun.phase = .running ∧ oRun.kind = 0x01 ∧ State.unitsDone oRun = false ∧
      oRun.lastEnd ≤ u.now ∧ u.waitBroken oRun = false ∧ u.pos + (estOf oRun.raw).2.2 ≤ u.cycP ∧ u.pos < u.cycS ∧ oRun.units = [] ∧
      oRun.actKey = some (State.nextUnit oRun).key ∧
      u.dataDue oRun.id (fun e => e.ofA && e.unit == oRun.unitNo + 1 && decide (e.at_ ≤ oRun.nextAt)) = false := by decide +kernel

/-- Its preload in hand. -/
def oPre : Op := { opOf mxRaw with phase := .running, preKey := some (0, 0) }

theorem test_BlankOperationsRun_preload :
    let u := (wOp (wMap w0) oPre).goTo 9
    let r1 := u.readB (blankClient oPre) oPre.raw 0 (⟨0, 0, 0⟩ : UnitPos).k0 none
    u.op? oPre.id = some oPre ∧ u.h .halted oPre.q = 0 ∧ oPre.preKey = some (0, 0) ∧ oPre.phase = .running ∧ oPre.preDone = false ∧
      oPre.preEnd ≤ u.now ∧ u.dataDue oPre.id Need.preload = false ∧ oPre.replica = false ∧
      r1.2.isOk = true ∧ (r1.1.preOperands oPre ⟨0, 0, 0⟩).2.isOk = true := by decide +kernel

/-- A work unit in hand whose difference from the witness is `d` and bound 5, and what it has found. -/
def oUnit (d : Nat) (checked spill poison : Bool) : Op :=
  { opOf mxRaw with phase := .running, units := [⟨1, 0, 0, 0, [], true, 3, 4, [], 0, [], d, 5, checked, spill, poison⟩] }

theorem test_BlankOperationsRun_verdict : ∀ d ∈ [0, 5, 6], ∀ checked spill poison,
    let o := oUnit d checked spill poison
    let u := (wOp (wMap w0) o).goTo 9
    u.op? 1 = some o ∧ u.h .halted 0 = 0 ∧ o.phase = .running ∧ ∀ x ∈ o.units, x.verdictAt ≤ u.now ∧ x.written = true ∧ x.poison = poison ∧
      x.checked = checked ∧ x.spillTag = spill ∧ (x.diff ≤ x.bound ↔ d ≤ 5) := by decide +kernel

theorem test_BlankOperationsRun :
    (let o := { opOf mxRaw with phase := .setup, startAt := 9 }
     ((wOp w0 o).goTo 9).op? 1 = some o ∧ ((wOp w0 o).goTo 9).h .halted 0 = 0 ∧ o.startAt ≤ ((wOp w0 o).goTo 9).now) ∧
    (let o := { opOf mxRaw with phase := .testing, preEnd := 9, blank := some ⟨0, 0, 1, 1⟩ }
     ((wOp w0 o).goTo 9).op? 1 = some o ∧ o.preEnd ≤ ((wOp w0 o).goTo 9).now ∧ o.blank = some ⟨0, 0, 1, 1⟩) ∧
    (let o := { opOf mxRaw with phase := .ended, status := some 0 }
     ((wOp w0 o).goTo 9).op? 1 = some o ∧ o.status = some 0 ∧ ∀ d ∈ ((wOp w0 o).goTo 9).direct, d.op ≠ o.id) := by decide +kernel

/-- A bank-mode region of stack 1, of one extent, that quarter 3 owns and that is READY, with tokens to run its engines (R215, R235). -/
def wBank : State := ((((w0.wr .BANK_CFG_ACTIVE 1 1).wr .BANK_CFG_OWNER_ACT 1 3).wr .BANK_CFG_READY 1 1).wr .BANK_CFG_COUNT_ACT 1 1).setH .bankCharge 3 10

/-- A move operation of plain copies (Table 6-8), its source page at 0 and its destination at 2 MiB, that has read its first page. -/
def mvRaw : Nat := 0x20 + 2 ^ 9 + 2 ^ 32 + 2 ^ 128 * 2 ^ 16
def oMove : Op := { opOf mvRaw with phase := .running, unitNo := 1 }

/-- Two 64-KiB pages, at 0 and 64 KiB, over extent 0 of stack 0. -/
def wTwo (s : State) : State :=
  (({ s with tlb := [⟨0, 0, 16, 0x407D, 1, 0⟩, ⟨0, 65536, 16, 0x407D + 2 ^ 16 * 1024, 1, 0⟩] }.wr .STK_STAT_STATE 0 1).wr .MEM_EXT_STATE 0 1).wr
    .MEM_EXT_OWNER 0 0

def rqRead : PlazaReq := ⟨0, 1, 0, 256, false, 0, [], 2, 0, 0, true, false, 0, none⟩

theorem test_TranslationsAndPlaza : 11 < w0.nQ ∧ w0.ownCheck 0 1 0 256 = some 5 ∧
    (wBank.rd .BANK_CFG_ACTIVE 1 = 1 ∧ { rqRead with unit := 1, noalloc := false }.tier = 1 ∧ wBank.inBank 1 256 = true) ∧
    (96 * 2 ^ 30 ≤ { rqRead with addr := 96 * 2 ^ 30 }.addr / 256 * 256) ∧
    ((wMap w0).applyFence 32 2 |>.applyFence 33 3).meshOk { rqRead with rank := 1, tile := some (0, 0) } = false ∧
    ((wMap w0).ownCheck rqRead.q rqRead.tier rqRead.unit (rqRead.addr / 256 * 256) = none ∧ rqRead.addr / 256 * 256 < 96 * 2 ^ 30 ∧
      rqRead.noalloc = true ∧ (wMap w0).inBank 0 256 = false ∧ (wMap w0).meshOk rqRead = true ∧ rqRead.write = false) ∧
    { rqRead with rank := 16 }.rank < { rqRead with rank := 17 }.rank ∧
    (let s := wOp (wTwo w0) oMove
     (s.goTo 3).op? 1 = some oMove ∧ oMove.kind = 0x20 ∧ oMove.kind ≠ 0x01 ∧ oMove.phase = .running ∧ (s.goTo 3).isStalled 1 = false ∧
       (s.goTo 3).h .halted 0 = 0 ∧ (s.goTo 3).waitBroken oMove = false ∧ oMove.unitNo = oMove.rowRun + 1 ∧
       (s.goTo 3).dataDue 1 (fun _ => true) = false ∧ mvCopy oMove.raw = true ∧ mvConv oMove.raw = false ∧
       ((s.goTo 3).xlate (moveClient oMove) (mvSrc oMove.raw) false).2 = .ok ⟨0x407D, 16, 1, 0⟩) := by decide +kernel

def rqMem : MemReq := ⟨15, 64, false, none, 0, false, none⟩

theorem test_ChannelsServe : w0.dramReachable 1 11 (96 * 2 ^ 30 - 1) = true ∧ w0.dramReachable 2 3 (2 ^ 40 - 1) = true ∧
    w0.dramReachable 1 11 (96 * 2 ^ 30) = false ∧ ((w0.wr .CRT_BF_DATA_VALID 1023 1).dramReachable 2 0 0) = false ∧
    (w0.chanQueue 1 11 (w0.channelOf 1 11 64)).length < 64 ∧
    (let s := { w0 with memQ := List.replicate 64 (1, 11, w0.channelOf 1 11 64, rqMem) }
     64 ≤ (s.chanQueue 1 11 (s.channelOf 1 11 64)).length) ∧
    (let s1 := { w0 with memQ := [(1, 11, w0.channelOf 1 11 64, rqMem)] }
     s1.pickRequest 1 11 (w0.channelOf 1 11 rqMem.addr) = some rqMem) ∧
    w0.chanShut 1 11 (w0.channelOf 1 11 64) = false ∧ w0.poisonOf 1 11 64 = 0 ∧ w0.badLanes (State.pcIdx 11 (w0.channelOf 1 11 64)) = [] ∧
    w0.unitFitted 1 11 = true ∧ 63 < nChan 1 := by decide +kernel

theorem test_StacksAreRepaired : 11 < w0.nStacks ∧ 63 < 64 ∧ 34 < 35 ∧ w0.h .laneBad (State.pcIdx 11 63) = 0 ∧
    w0.rd .STK_PC_ERR_SPARE_USED (State.pcIdx 11 63) = 0 ∧
    (∀ want ∈ [0, 35], let s := (w0.setH .laneBad (State.pcIdx 11 63) (2 ^ 34)).setH .spareWant (State.pcIdx 11 63) want
     let u := s.goTo (s.cycW 512)
     let i := State.pcIdx 11 63
     (if want = 0 then u.h .spareWant i = 0 ∧ u.badLanes i = [34] else u.h .spareWant i = 34 + 1) ∧ u.pos < u.cycW 3584 ∧
       u.rd .STK_PC_ERR_SPARE_USED i = 0 ∧ u.h .laneFailAt i + 64 ≤ u.turn0 + u.cycW 0 ∧ u.h .spareTrain i = 0 ∧ u.h .spareTurn i ≤ u.turn0) ∧
    (let i := State.pcIdx 11 63
     let s := ((w0.setH .spareTrain i 35).setH .spareTries i 3).setH .spareTurn i 1045001
     let v := s.goTo (s.h .spareTurn i + 1023 - s.turn0)
     v.h .spareTrain i = 34 + 1 ∧ v.h .spareTries i = 3) ∧
    bitsOf (2 ^ 31 + 63) 31 1 = 1 ∧
    (let s := (w0.wr .STK_STAT_STATE 11 1).setH .retirePend 11 3
     s.rd .STK_STAT_STATE 11 = 1 ∧ s.rd .STK_STAT_RPC_VALID 11 = 0 ∧ s.h .retirePend 11 ≠ 0 ∧ s.h .retirePend 11 ≠ 63 + 1 ∧
       (w0.wr .STK_STAT_STATE 11 1).h .retirePend 11 = 0) ∧
    (let x : Repair := ⟨11, 63, 0, 15, 7, false⟩
     let u := { w0 with repairs := [x] }.goTo (w0.cycW 512)
     u.repairs.find? (fun r => r.stack == 11 && !r.applied) = some x ∧ u.pos < u.cycW 3584) ∧
    (∀ lanes ∈ [1, 3], let s := (w0.wr .STK_STAT_COPYING 11 1).setH .laneBad (State.pcIdx 11 0) lanes
     s.rd .STK_STAT_COPYING 11 = 1 ∧ ((s.badLanes (State.pcIdx 11 (s.rd .STK_STAT_RPC 11))).length < 2 ↔ lanes = 1)) ∧
    (w0.wr .STK_STAT_STATE 11 3).rd .STK_STAT_STATE 11 = 3 ∧ (w0.wr .STK_STAT_STATE 11 3).plaza = [] := by decide +kernel

/-- Bay 3 in a state. -/
def wBay (st : Nat) : State := w0.wr .CRT_STAT_STATE 3 st

theorem test_CartridgesComeAndGo : 3 < w0.nBays ∧ w0.rd .CRT_STAT_BADFRAMES 3 ≠ 1024 ∧
    ((w0.wr .CRT_STAT_BADFRAMES 3 1024).rd .CRT_STAT_BADFRAMES 3 = 1024 ∧ bitsOf (2 ^ 31) 31 1 = 1 ∧ bitsOf 5 31 1 = 0) ∧
    (∀ st ∈ [1, 2, 3, 5], (wBay st).rd .CRT_STAT_STATE 3 = st) ∧
    (∀ l < 64, (wBay 3).rd .MEM_LOT_STATE (64 * 3 + l) = 0 ∨ (wBay 3).rd .MEM_LOT_STATE (64 * 3 + l) = 3) ∧ (wBay 2).rd .CRT_STAT_STATE 3 ≠ 3 ∧
    (∀ g < 2, ((wBay 1).setH .fitted 3 g).h .fitted 3 = g) ∧
    (((wBay 4).setH .withdrawn 3 1).rd .CRT_STAT_STATE 3 = 4 ∧ ((wBay 4).setH .withdrawn 3 1).h .withdrawn 3 = 1) ∧
    (w0.wr .CRT_STAT_LATCH 3 0).rd .CRT_STAT_LATCH 3 = 0 := by decide +kernel

theorem test_ScansCompleteAndFree : (w0.wr .MEM_EXT_STATE 1151 2).rd .MEM_EXT_STATE 1151 = 2 ∧ 1151 < 96 * w0.nStacks ∧
    (w0.wr .GRID_STRIP_STATE_STATE 15 2).rd .GRID_STRIP_STATE_STATE 15 = 2 ∧
    (let s := ((w0.wr .PLZ_Q_CFG_REHOME 11 1).setH .scanAt 27 5).goTo 98309
     s.rd .PLZ_Q_CFG_REHOME 11 = 1 ∧ s.h .scanAt (16 + 11) + 98304 ≤ s.now) ∧
    (let s := ((w0.wr .BANK_CFG_ACTIVE 11 1).setH .scanAt 11 5).goTo 98309
     s.rd .BANK_CFG_ACTIVE 11 = 1 ∧ s.rd .BANK_CFG_READY 11 = 0 ∧ s.h .scanAt 11 + 98304 ≤ s.now) := by decide +kernel

def cPk : Client := ⟨0, ⟨2, 0⟩, 0, none⟩
def lPk : Leaf := ⟨0x507D, 21, 1, 0⟩

/-- The packed page's directory: BUSY; not valid; good; and damaged. -/
def wBusy : State := wPk { w0 with mem := [(1, 2)] }
def wFresh : State := wPk w0
def wGood : State := wPk { w0 with mem := [(1, 1), (3969, 144), (4033, 254)] }
def wBad : State := wPk { w0 with mem := [(1, 1)] }

theorem test_PackedPagesAreServed : ptePacked lPk.pte = true ∧
    (∀ s ∈ [wFresh, wGood, wBad], (s.xlate cPk 0 false).2 = .ok lPk ∧ (s.xlate cPk 0 true).2 = .ok lPk ∧
      (match (s.xlate cPk 0 false).1.readDir cPk lPk.pte with
       | (s2, .ok (d, bytes, false)) => !d.busy && d.valid == (s != wFresh) && (s == wFresh || State.dirBad d bytes == (s == wBad)) &&
          (s2.runCheck 0 1 0 ((d.subs * d.slot + 7) % nChan 1) (d.runs.getD 7 (0, 0, 0)).1 (d.runs.getD 7 (0, 0, 0)).2.1).isNone
       | _ => false) = true) := by decide +kernel

/-- A packer of quarter 0 that stalls on a pool, on a 64-KiB page of 32 sub-streams whose directory is good and whose pool, at 64 KiB, ends at
LOCAL `room`. -/
def xPk : PackStall := ⟨0, ⟨2, 0⟩, 0, none, 0x507D, 16, 1, 0, 100, true, [1, 2, 3], [], false⟩
def wPool (room : Nat) : State :=
  (({ wTwo w0 with tlb := [⟨0, 0, 16, 0x507D, 1, 0⟩], packStalls := [xPk],
                   mem := [(1, 1), (577, 4), (3969, 234), (4033, 251), (4194305, 2), (4195073, BitVec.ofNat 8 room)] }.wr
    .CB_SLOT_VALID 0 1).wr .CB_SLOT_UNITS 0 1)

set_option maxRecDepth 100000 in
theorem test_PackedPagesAreServed_pool : xPk.q = 0 ∧ xPk.busy = false ∧ xPk.op = none ∧ xPk.write = true ∧
    (∀ room ∈ [0, 20], let r := ({ wPool room with packStalls := [] }.dirBusy cPk xPk.pte false).writeOne cPk ⟨xPk.pte, 16, 1, 0⟩ 100 xPk.data []
      (wPool room).packStalls = [xPk] ∧ (match r.2 with
        | .ok _ => room == 20 && decide (r.1.settle.packStalls = [])
        | .error e => room == 0 && e == State.waitPool) = true) := by decide +kernel

/-- A read of the page that waits on BUSY. -/
def xBusy : PackStall := ⟨0, ⟨2, 0⟩, 0, none, 0x507D, 21, 1, 0, 100, false, List.replicate 8 0, [], true⟩

theorem test_PackedPagesAreServed_busy : ∀ s ∈ [wBusy, wFresh],
    { s with packStalls := [xBusy] }.packStalls = [xBusy] ∧ xBusy.q = 0 ∧ xBusy.va / 2 ^ xBusy.log2 = 0 / 2 ^ xBusy.log2 ∧ xBusy.busy = true ∧
      xBusy.op = none ∧ xBusy.write = false ∧
      (match ({ s with packStalls := [] }.packedRead cPk lPk xBusy.va xBusy.data.length).2 with
       | .ok _ => s == wFresh
       | .error e => s == wBusy && e == State.waitBusy) = true := by decide +kernel

/-- A stream of one row of 64 bytes, from 0 to 64 KiB, one row to a segment (Table 9-2), with its one segment open. -/
def stRaw : Nat := 0x10 + 2 ^ 32 * 64 + 2 ^ 160 + 2 ^ 256 * 65536
def oStr (row opened : Nat) : Op := { opOf stRaw with phase := .running, aux := [row, 0, opened, 0, 0, 0, 0] }
def wStr (row opened : Nat) : State := wOp (wTwo w0) (oStr row opened)

/-- The stream's request, at Port A or not, and dropped or not. -/
def rStr (at3 drop : Bool) : Req := ⟨7, 1, 0, 0, 0, 1, at3, ⟨0, 33, 0, 64, 65536, 0, none⟩, 0, false, false, false, drop, false⟩
def dStr : DirectStore := ⟨0, 1, 0, 5, 65536, 0, [7], 0⟩

theorem test_StreamsRun_issue : ∀ last ∈ [0, 4], let u := (((wStr 0 1).wr .SE_Q_TAGS_TAGS_ACT 0 1).setH .seLast 0 last).goTo 3
    (match (u.resumeFaulted.ops.map (·.id)).foldl (fun (acc : State × List State.Cand) (id : Nat) => acc.1.offerOp 0 acc.2 id)
        (u.resumeFaulted, []) with
     | (v, [c]) => decide ((v.h .seLast 0 ≠ v.now + 1 ↔ last = 0) ∧ v.outOf c.op.q 0 < v.rd .SE_Q_TAGS_TAGS_ACT c.op.q)
     | _ => false) = true := by decide +kernel

theorem test_StreamsRun :
    (let u := { w0 with reqs := [rStr true false] }.goTo 3
     u.reqs = [rStr true false] ∧ u.direct = [] ∧ u.liveStacks ≠ [] ∧ (rStr true false).atPort = true ∧ (rStr true false).lost = false) ∧
    (∀ drop, let u := { wStr 1 1 with reqs := [rStr false drop] }.goTo 3
     u.reqs = [rStr false drop] ∧ (rStr false drop).atPort = false ∧ (rStr false drop).faulted = false ∧ (rStr false drop).need.gran = none ∧
       (rStr false drop).drop = drop ∧ u.memQ = [] ∧ u.op? 1 = some (oStr 1 1) ∧ (oStr 1 1).phase = .running ∧ (oStr 1 1).kind = 0x10 ∧
       (u.copyBytes (State.engineClient (oStr 1 1) 0) 0 65536 64).2 = true) ∧ (({ w0 with reqs := [rStr false false] }).goTo 3).op? 1 = none ∧
    (∀ t ∈ [3, 1032191, 1032192], let u := (wStr 0 0).goTo t
     u.op? 1 = some (oStr 0 0) ∧ (StreamPos.ofOp (oStr 0 0)).opened = 0 ∧ u.h .halted 0 ≠ 1 ∧ u.waitBroken (oStr 0 0) = false ∧
       stDstKind stRaw = 0 ∧ (u.pos < u.cycS ∨ u.cycS ≤ u.pos)) ∧
    (∀ s ∈ [wStr 1 1, wOp w0 (oStr 1 1)], let u := s.goTo 3
     let done := u.unitEnd (oStr 1 1) 0
     let o1 := { StreamPos.ofOp (oStr 1 1) with opened := 0 }.put { oStr 1 1 with
        rowRun := done % 2 ^ 32, nBlock := done / 2 ^ 32, overrun := false, spilled := false, noProgress := 0 }
     let left : Op := { o1 with estCycles := max (o1.estCycles - o1.slice) (estOf stRaw).2.2, estTokens := max (o1.estTokens - o1.charge) 1 }
     u.op? 1 = some (oStr 1 1) ∧ (StreamPos.ofOp (oStr 1 1)).opened = 1 ∧ u.h .halted 0 ≠ 1 ∧ done ≤ (StreamPos.ofOp (oStr 1 1)).row ∧
       u.dataDue 1 (fun e => decide (e.unit < done)) = false ∧ stTotal stRaw ≤ done ∧
       ((u.setOp o1).writeRecord left).2 = !s.tlb.isEmpty) ∧
    (let u := { (wStr 1 1) with direct := [dStr] }.wr .PT_LINK_STAT_CACHE 0 1 |>.goTo 3
     u.op? 1 = some (oStr 1 1) ∧ u.direct = [dStr] ∧ u.reqs = [] ∧ u.h .halted 0 ≠ 1 ∧ u.rd .PT_LINK_STAT_CACHE 0 = 1) := by decide +kernel

/-- Engine 63 of it with command `d` queued and `run`. -/
def wEng (d : Nat) (run : Option (Nat × Nat)) : State := wBank.setEngine 1 63 { Engine.empty with queue := [d], run := run }
def wFull : State := wBank.setEngine 1 63 { Engine.empty with queue := List.replicate 64 0, copies := [(0, [1])] }

/-- One command of each opcode, of one row, column or group (Table 10-3). -/
def bkCmd (op : Nat) : Nat := if op = 0 then 0 else if op = 4 then 4 + 2 ^ 96 * 63 else op + 2 ^ 64 + 2 ^ 96

theorem test_BankWindowsAccept : 1 < wBank.nStacks ∧ wBank.bankOwner 3 1 = true ∧ wFull.bankOwner 3 1 = true ∧ wBank.bankOwner 2 1 = false ∧ wBank.rd .BANK_CFG_ACTIVE 1 = 1 ∧
    (wBank.engine 1 63).queue.length < 64 ∧ wBank.bankOut 1 63 = false ∧ (wFull.engine 1 63).queue.length = 64 ∧ wBank.pos < wBank.cycS ∧
    (∀ j < 64, (wBank.engine 1 j).queue.length < 64 ∧ wBank.bankOut 1 j = false) ∧ 0x3FFFFF + [(1 : Byte)].length ≤ 0x400000 := by decide +kernel

theorem test_BankEnginesRun : 1 < wBank.nStacks ∧
    (∀ op < 5, ∀ t ∈ [3, 1032191], let u := (wEng (bkCmd op) none).goTo t
      u.rd .BANK_CFG_OWNER_ACT 1 = 3 ∧ (u.engine 1 63).queue = [bkCmd op] ∧ bkOp (bkCmd op) = op ∧ (u.engine 1 63).run = none ∧
        u.rd .BANK_CFG_READY 1 = 1 ∧ u.pos < u.cycS ∧ u.h .halted 3 ≠ 1 ∧ (u.engine 1 63).copies = [] ∧
        u.bankMetered 3 < u.h .bankCharge 3 * 2 ^ 24 ∧ bkBad (bkCmd op) = false ∧ bkCycles (bkCmd op) ≤ 8192 ∧
        (∀ r ∈ bkRanges (bkCmd op), bkOp (bkCmd op) = 3 ∨ r.1 + r.2 ≤ u.eaLimit 1)) ∧
    (∀ op < 5, let u := (wEng (bkCmd op) (some (0, 3))).goTo 3
      (u.engine 1 63).queue = [bkCmd op] ∧ bkOp (bkCmd op) = op ∧ (u.engine 1 63).run = some (0, 3) ∧ 3 ≤ u.now) ∧
    (∀ op < 4, let u := (wEng (bkCmd op) (some (0, 4))).goTo 3
      (u.engine 1 63).queue = [bkCmd op] ∧ bkOp (bkCmd op) = op ∧ (u.engine 1 63).run = some (0, 4) ∧ u.now < 4) := by decide +kernel

/-- A GEMV of K 4,096 and one group at b 1 takes 4,244 cycles (10.6, worked example): one k a cycle, after the cycle that each block of 32 spends on
its x. -/
theorem test_GemvLength : let d := 1 + 2 ^ 64 * 4096 + 2 ^ 96
    bkCycles d = 4244 ∧ bkUnits d = 4097 ∧ bkDue d 17 = 0 ∧ bkDue d 18 = 1 ∧ bkDue d 49 = 32 ∧ bkDue d 50 = 32 ∧ bkDue d 4243 = 4096 ∧
      bkDue d 4244 = 4097 := by decide

/-- An update-unit operation `op` of unit 15 on the tensor record at 0, which has one element. -/
def oUu (op : Nat) : Op := { opOf (0x30 + 2 ^ 9 * op) with phase := .running, aux := [15] }
def wUu (op : Nat) : State := wOp (wMap { w0 with mem := [(257, 1)] }) (oUu op)

/-- Unit 15 with its slot 7 in state `st`, for shard 0 of operation 1, whose shard's cycles end at cycle 2. -/
def wkOne : WorkUnit := ⟨0, 0, 0, 0, [], false, 2, 0, [], 0, [], 0, 0, false, false, false⟩
def oCom : Op := { oUu 0 with units := [wkOne] }
def wSlot (st : Nat) : State := ({ wOp (wMap { w0 with mem := [(257, 1)] }) oCom with uuSlots := [(15, 7, 1, 1)] }).setSlot 15 7 st 0

theorem test_UpdateUnitsRun : (∀ op < 3, ∀ t ∈ [3, 1032191], let v := (wUu op).goTo t
      v.pos < v.cycS ∧ v.unitRuns 15 = some (oUu op) ∧ v.isStalled 1 = false ∧ v.h .halted 0 ≠ 1 ∧ (oUu op).nBlock ≠ 1 ∧ v.h .uuFree 15 ≤ v.now ∧
      uuOp (oUu op).raw = op ∧
      (match (v.ev evUuInWait 0 15 2).readRec (State.unitClient 0 15 5 (some 1)) (uuRec (oUu op).raw) with
       | (s1, .ok (r, bad)) => decide (bad = false ∧ (oUu op).rowRun < trShards r ∧ s1.freeSlot 15 = some 0)
       | (_, .error _) => false) = true) ∧
    (let v := (wUu 0).goTo 1032192
     v.cycS ≤ v.pos) ∧
    (let v := ((wUu 0).setH .uuFree 15 4).goTo 3
     v.unitRuns 15 = some (oUu 0) ∧ v.now < v.h .uuFree 15) ∧ w0.unitRuns 15 = none ∧ w0.unitHead 15 = none ∧
    (let v := (wSlot 2).goTo 3
     v.pos < v.cycD ∧ v.uuSlots = [(15, 7, 1, 1)] ∧ v.slotState 15 7 = 2 ∧ v.stalls = [] ∧ (v.retireSlot 15 7 1).2 = true) ∧
    (let v := (wSlot 1).goTo 3
     v.uuSlots = [(15, 7, 1, 1)] ∧ v.slotState 15 7 = 1 ∧ v.op? 1 = some oCom ∧ oCom.units = [wkOne] ∧ wkOne.endAt ≤ v.now ∧
      (match v.readRec (State.unitClient 0 15 5 (some 1)) (uuRec oCom.raw) with
       | (s1, .ok (r, _)) => decide (s1.op? 1 = some oCom ∧ trShards r = 1)
       | (_, .error _) => false) = true) := by decide +kernel

/-- Both ports up; the PF of each enabled and in D0. -/
def wUp : State :=
  ((((w0.wr .PT_LINK_STAT_UP 0 1).wr .PT_LINK_STAT_UP 1 1).setH .cfgMem 0 1).setH .cfgMem 13 1)

/-- A read of the PF's BAR0, a read beyond it, a write outside any stream of a VF that requires one, and a BAR2 read of the PF's window. -/
def rqBar0 : InReq := ⟨1, 3, 0, 0, 0, 0, false, 8, [], 0, 0, none⟩
def rqPast : InReq := { rqBar0 with off := 2 ^ 26 - 7 }
def rqVf : InReq := { rqBar0 with func := 12, write := true, data := List.replicate 8 0 }
def rqBar2 : InReq := { rqBar0 with bar := 2, off := 2 ^ 36 - 8 }
def wReq : State := ((wUp.setH .cfgVf 1 (1 + 2 * 12 + 2 ^ 17)).wr .PT_Q_CFG_REQ_IDE 11 1).wr .PT_PF_WIN_EN 1 1

/-- A direct store that Port A has sent. -/
def dOut : DirectStore := ⟨9, 1, 0, 5, 65536, 0, [7], 1⟩

theorem test_HostRequestsAreServed : (∀ t ∈ [3, 1032192], let u := wReq.goTo t
      u.rd .PT_LINK_STAT_UP 1 = 1 ∧ (∀ r ∈ [rqBar0, rqPast, rqVf, rqBar2], u.ideDropped r = false) ∧ u.h .quiesce 0 = 0 ∧
        u.inboundCause rqPast = some 1 ∧ u.inboundCause rqVf = some 2 ∧ u.inboundCause rqBar0 = none ∧ u.inboundCause rqBar2 = none) ∧
    (wReq.goTo 3).pos < (wReq.goTo 3).cycW 0 ∧ (wReq.goTo 1044479).pos < (wReq.goTo 1044479).cycW 0 ∧
    (wReq.goTo 1044480).cycW 0 ≤ (wReq.goTo 1044480).pos ∧ (wReq.goTo 1044480).inboundCause rqBar2 = none ∧
    (let u := { wReq with heldReqs := [{ rqBar2 with write := true, data := List.replicate 8 0 }] }.goTo 1044480
     u.cycW 0 ≤ u.pos ∧ u.inboundCause rqBar0 = none ∧ ∃ x ∈ u.heldReqs, x.port = rqBar0.port ∧ x.write = true) ∧
    ({ w0 with heldReqs := [rqBar2] }).heldReqs = [rqBar2] ∧
    (w0.h .perstLow 1 = 0 ∧ w0.h .romRec 0 = 0 ∧ w0.rd .RES_STAT_LEVEL 0 = 0 ∧
      (wUp.wr .RES_STAT_LEVEL 0 1).rd .RES_STAT_LEVEL 0 = 1 ∧ (wUp.wr .RES_STAT_LEVEL 0 1).rd .PT_LINK_STAT_UP 1 = 1 ∧ wUp.h .perstLow 1 = 0) ∧
    (({ w0 with direct := [dOut] }).direct = [dOut] ∧ dOut.st = 1 ∧ dOut.data.length ≤ 64) := by decide +kernel

theorem test_InterruptsReachCoresAndHost : (∀ r < 3, (w0.wr .PT_Q_CFG_INT_ROUTE 11 r).rd .PT_Q_CFG_INT_ROUTE 11 = r) := by decide +kernel

/-- VF vector 7 of quarter 11 waits out its holdoff, with an event pending. -/
def wHold : State :=
  (((w0.setH .holdUntil 95 9000).setH .msixPend (16 * 12 + 7) 1).setH .msixEn 12 1).setH .msixUnmask (16 * 12 + 7) 1

theorem test_TimersAndHoldoffs : 11 < w0.nQ ∧
    (∀ s ∈ [wHold, wHold.setH .msixPend (16 * 12 + 7) 0], let u := s.goTo (s.h .holdUntil 95 - s.turn0)
      s.rd .PT_Q_CFG_HOST_PORT 11 = 0 ∧ s.h .holdUntil 95 ≠ 0 ∧ u.h .holdUntil 95 = s.h .holdUntil 95 ∧ u.rd .PT_Q_CFG_HOST_PORT 11 = 0 ∧
        u.h .msixPend (16 * 12 + 7) = s.h .msixPend (16 * 12 + 7) ∧ u.h .msixEn 12 = 1 ∧ u.h .msixUnmask (16 * 12 + 7) = 1) ∧
    (let s := w0.setH .timerCmp 35 7
     let u := s.goTo (10 * s.h .timerCmp 35 - s.turn0)
     u.h .timerCmp 35 ≤ u.now / 10) := by decide +kernel

theorem test_PortsTrainFailAndRecover : (∀ p < 2, wUp.rd .PT_LINK_STAT_UP p = 1) ∧
    (let s := wUp.wr .PT_LINK_CFG_REPLAY_LIMIT 1 1
     s.rd .PT_LINK_STAT_UP 1 = 1 ∧ s.h .crcTurn 1 + 1 ≤ s.rd .PT_LINK_CFG_REPLAY_LIMIT 1 ∧ (s.setH .laneCrc 31 1023).h .laneCrc 31 < 1024) ∧
    (let s := wUp.wr .PT_LINK_STAT_WIDTH 1 16
     s.rd .PT_LINK_STAT_UP 1 = 1 ∧ s.rd .PT_LINK_STAT_WIDTH 1 = 16 ∧ s.h .portBad 1 = 0) ∧
    ((w0.setH .planes 0 1).h .planes 0 = 1 ∧ w0.h .perstLow 1 = 0 ∧ w0.late = []) ∧
    (∀ rate < 7, let s := wUp.setH .linkReq 1 (1 + rate)
      s.rd .PT_LINK_STAT_UP 1 = 1 ∧ s.h .linkReq 1 = 1 + rate ∧ s.late = []) ∧
    (let s := { w0 with late := [⟨13, 2, 5, .linkUp 1⟩] }
     s.late = [⟨13, 2, 5, .linkUp 1⟩]) ∧ wUp.h .sweepAt 0 = 0 ∧
    (12 ≤ w0.nQ ∧ w0.rd .PT_Q_CFG_HOST_PORT 11 = 0) ∧ (w0.setH .ide 511 1).h .ide 511 = 1 ∧ w0.heldReqs = [] := by decide +kernel

/-- A read of 8 bytes by core 2 of quarter 0 in its uncached window, the core running. -/
def xCore : CoreAcc := ⟨0, 2, 2 ^ 36 + 8, false, 8, [], false⟩
def wCore : State := (wMap w0).wr .CORE_CTRL_RUN 0 7
def xPast : CoreAcc := { xCore with pa := 2 ^ 37 - 8 }

theorem test_ResidentCoresRun : (∀ t ∈ [3, 1044479, 1044480], let u := wCore.goTo t
      xCore.q < u.nQ ∧ xCore.c < 3 ∧ bitsOf (u.rd .CORE_CTRL_RUN 0) 2 1 = 1 ∧ xCore.len ≠ 0 ∧ 2 ^ 36 ≤ xCore.pa ∧ xPast.pa < 2 ^ 37 ∧
      (u.pos < u.cycW 0 ↔ t < 1044480)) ∧
    (match (wCore.goTo 3).vread (State.coreClient 0 2) ((wCore.goTo 3).bar2VA 0 8) 8 with
      | (_, .ok (d, bad)) => d.length == 8 && !bad
      | (_, .error _) => false) = true ∧
    (match (wCore.goTo 3).vread (State.coreClient 0 2) ((wCore.goTo 3).bar2VA 0 (2 ^ 36 - 8)) 8 with
      | (_, .ok _) => false
      | (_, .error _) => true) = true ∧
    bitsOf ((w0.goTo 3).rd .CORE_CTRL_RUN 0) 2 1 = 0 ∧ 11 < w0.nQ := by decide +kernel

/-- A fabric operation `op` of 64 bytes of quarter 0 on route 63 and transfer 9. -/
def feRaw (op : Nat) : Nat := 0x40 + 2 ^ 9 * op + 2 ^ 18 * 63 + 2 ^ 48 * 9 + 2 ^ 64 * 64 + 2 ^ 192 * 4096
def oFe (op : Nat) (ph : Phase) : Op := { opOf (feRaw op) with phase := ph }

/-- A 1-GiB page at 0 of quarter 0, over extents 0 and 1 of stack 0, and a send-log share of 2; its acknowledgement line of route 63 is good. -/
def wFe (ops : List Op) : State :=
  let cells := [(1090777089, 2), (1090780929, 135), (1090780993, 77), (1090781057, 124), (1090781121, 177)]
  let s := { w0 with ops := ops, tlb := [⟨0, 0, 30, 0x407D, 1, 0⟩], mem := cells }
  [(Fld.STK_STAT_STATE, 0, 1), (.MEM_EXT_STATE, 0, 1), (.MEM_EXT_STATE, 1, 1), (.MEM_EXT_OWNER, 0, 0), (.MEM_EXT_OWNER, 1, 0),
    (.FE_Q_CFG_RX_EN, 0, 1), (.FE_Q_CFG_CREDITS_ACT, 0, 2)].foldl (fun (s : State) (x : Fld × Nat × Nat) => s.wr x.1 x.2.1 x.2.2) s

def mFe : FeMsg := ⟨0, false, false, 1, 9, 0, List.replicate 64 0⟩
def xTx : FeTx := ⟨0, 0, 3, 63, 0, 1, true, 0, 0, false⟩
def xRx : FeRx := ⟨0, 63, 63, 63, 0, false, 0⟩

theorem test_FabricEnginesRun_operations : (∀ op < 3, let u := (wFe [oFe op .placing]).goTo 1032191
      u.op? 1 = some (oFe op .placing) ∧ (oFe op .placing).kind = 0x40 ∧ feOp (feRaw op) = op ∧ u.pos < u.cycS ∧ u.h .halted 0 = 0 ∧
      u.waitBroken (oFe op .placing) = false ∧ u.barOpen (oFe op .placing) = true ∧ u.claimFull (oFe op .placing) = true ∧
      u.armed 0 (feXfer (feRaw op)) = none ∧ u.routeDown 0 (feRoute (feRaw op)) = false ∧
      (u.wr .FE_Q_DOWN_DOWN 0 (2 ^ 63)).routeDown 0 (feRoute (feRaw op)) = true) ∧
    (let u := (wFe [oFe 0 .placing, { oFe 1 .running with id := 2 }]).goTo 3
     u.op? 1 = some (oFe 0 .placing) ∧ u.armed 0 (feXfer (feRaw 0)) ≠ none) ∧
    (∀ broken < 2, let o := { oFe 0 .placing with wait := some (63, 5) }
     let u := ((wFe [o]).wr .SE_BAR_BROKEN 63 broken).goTo 3
     u.op? 1 = some o ∧ u.barOpen o = false ∧ (u.waitBroken o = true ↔ broken = 1)) := by decide +kernel

theorem test_FabricEnginesRun_send : (let u := (wFe [oFe 0 .running]).goTo 3
     u.op? 1 = some (oFe 0 .running) ∧ (oFe 0 .running).rowRun < feCount (feRaw 0) ∧ u.feBlocked 0 63 1 true = none ∧
      (match u.vread (State.feClient 0 (rtEngine (u.route 0 63)) 5 (some 1)) 0 64 with
       | (s1, .ok (p, bad)) => p == List.replicate 64 0 && !bad && (s1.sendMsg 0 63 1 true mFe).2
       | (_, .error _) => false) = true ∧
      ({ u with feTx := [xTx, { xTx with recNo := 4 }] }).feBlocked 0 63 1 true = some evFeMsgFull) := by decide +kernel

theorem test_FabricEnginesRun : ((w0.goTo 1044223).pos < (w0.goTo 1044223).cycD ∧ (w0.goTo 1044224).cycD ≤ (w0.goTo 1044224).pos ∧ 11 < w0.nQ) ∧
    (∀ t ∈ [3, 1032191, 1032192], let u := { w0 with feRx := [xRx] }.goTo t
      u.feRx = [xRx] ∧ xRx.applied = false ∧ u.h .halted 0 ≠ 1 ∧ (u.pos < u.cycS ↔ t < 1032192)) ∧
    (∀ i ∈ [0, 63], let u := (wFe []).goTo 3
      u.rd .FE_Q_CFG_RX_EN 0 = 1 ∧ u.feTx = [] ∧
      (match u.vread (State.feClient 0 (rtEngine (u.route 0 i)) 0 none) (u.feWin 0 + feAckOff + 64 * i) 64 with
       | (s1, .ok (d, _)) => decide (s1.feTx = []) && decide (mhCrc (ofBytes d) = crc32c (d.take 60)) == (i == 63) &&
          (i == 0 || (mhVer (ofBytes d) == 2 && bitsOf (ofBytes d) 32 32 == s1.rd .FE_Q_ERR_EPOCH_ACT 0 && bitsOf (ofBytes d) 8 1 == 0))
       | (_, .error _) => false) = true) ∧
    (let u := (w0.setH .feAckAt 767 1).goTo 1024
     u.h .feAckAt 767 = 1 ∧ 1 + 1024 ≤ u.now + 1 ∧ u.pos < u.cycD) ∧
    (let u := { w0 with feTx := [xTx] }.goTo 1000000
     u.feTx = [xTx] ∧ u.pos < u.cycS ∧ xTx.sentAt + 1000 * u.rd .FE_CFG_RETX_US 0 ≤ u.now ∧ xTx.resends < u.rd .FE_CFG_RETRY_MAX 0 ∧
      u.rd .FE_CFG_RETRY_MAX 0 ≤ { xTx with resends := 255 }.resends) := by decide +kernel

/-- The module serves its rings; that of Q1 (page 1) is on, 16 entries in host memory, with one entry (of zeros) waiting. -/
def wServed (rr n : Nat) : State :=
  [(Fld.MB_SQ_CFG_EN, 1, 1), (.MB_SQ_CFG_LOG2, 1, 4), (.MB_SQ_DB_TAIL, 1, 1), (.MB_CQ_CFG_LOG2, 1, 4), (.MB_STAT_CQ_TAIL, 1, 16),
    (.PT_LINK_STAT_UP, 0, 1), (.PT_LINK_STAT_UP, 1, 1)].foldl (fun (s : State) (x : Fld × Nat × Nat) => s.wr x.1 x.2.1 x.2.2)
    ((((w0.setH .planes 0 1).setH .cpUp 0 3).setH .rrobin 0 rr).setH .rrobin 1 n)

/-- The entry is a HIST to a packed page of Q1 whose directory is BUSY, so that it stays next in its ring. -/
def wHeld : State :=
  (({ (wServed 1 0).wr .MB_STAT_HANDSHAKE 1 1 with
      hostMem := ((toBytes (ent 1 0x600 0 (2 ^ 64 * 64)).raw.toNat 64).zipIdx.filter (fun (e : Byte × Nat) => e.1 != 0)).map (fun (e : Byte × Nat) => (e.2, e.1)),
      tlb := [⟨1, 0, 21, 0x507D, 1, 0⟩], mem := [(1, 2)] }.wr .STK_STAT_STATE 0 1).wr .MEM_EXT_STATE 0 1).wr .MEM_EXT_OWNER 0 1

theorem test_RingsAreServed : 1 < (wServed 1 0).nQ ∧
    (let s := wServed 1 0
     s.rd .MB_SQ_CFG_LOG2 1 = 4 ∧ 16 < 2 * 2 ^ 4 ∧ State.ringHeld 16 (s.rd .MB_STAT_SQ_HEAD 1) 4 ≤ 2 ^ 4 ∧
      State.ringHeld 16 (s.rd .MB_CQ_DB_HEAD 1) (s.rd .MB_CQ_CFG_LOG2 1) ≤
        State.ringHeld (s.rd .MB_STAT_CQ_TAIL 1) (s.rd .MB_CQ_DB_HEAD 1) (s.rd .MB_CQ_CFG_LOG2 1) ∧ s.cqWait = [] ∧
      s.rd .MB_SQ_CFG_EN 2 = 0 ∧ s.rd .MB_URG_DB_BUSY 1 = 0 ∧ s.served 1 = true ∧ s.mcRing = [] ∧ s.h .cpUp 0 ≠ 0 ∧ w0.h .cpUp 0 = 0 ∧
      (s.wr .MB_URG_DB_BUSY 1 1).rd .MB_URG_DB_BUSY 1 = 1) ∧
    (∀ lg ∈ [4, 12], let val := lg + 2 ^ 11
      bitsOf val 11 1 = 1 ∧ 4 ≤ bitsOf val 0 4 ∧ bitsOf val 0 4 ≤ 12) ∧
    (∀ s ∈ [wServed 1 0, wServed 1 31, wServed 0 32, wHeld], let u := ((s.goTo 3).serveMcRing (s.goTo 3).mcRing.length).pumpPlans
      u.ringOrder.head? = some 1 ∧ u.ringReady 1 = true ∧ u.rd .MB_SQ_CFG_LOC 1 = 0 ∧ u.rd .PT_LINK_STAT_UP (u.pagePort 1) = 1 ∧
        eCode ⟨1, 0, BitVec.ofNat 512 (ofBytes ((List.range 64).map (fun i =>
          u.memByte 3 0 (u.rd .MB_SQ_CFG_BASE 1 * 4096 + 64 * (u.rd .MB_STAT_SQ_HEAD 1 % 2 ^ u.rd .MB_SQ_CFG_LOG2 1) + i))))⟩ / 256 ≠ 1) ∧
    (∀ s ∈ [wServed 1 0, wHeld], (match exec (.sqEntryCopy 3) s with
      | .next t => t.rd .MB_STAT_SQ_HEAD 1 == (if s = wHeld then 0 else 1)
      | _ => false) = true) := by
  decide +kernel

/-- One field of each access type that the register tables use (none is W1S), the RC field in bits 31..0 of its register. -/
theorem test_RegisterFieldsObeyTheirAccessType : (∀ x ∈ [(Fld.TURN_LEN_LEN_SEL, Access.rw), (.SE_CFG_TAG_SUM, .w1c), (.TURN_COUNT_COUNT, .ro),
      (.GRID_FENCE_REQ_X, .wo), (.MX_WIT_STAT_CHECKED, .rc)], x.1.info.acc = x.2 ∧ w0.rd x.1 0 < 2 ^ x.1.width ∧ 2 ^ x.1.width - 1 < 2 ^ x.1.width) ∧
    Fld.MX_WIT_STAT_CHECKED.info.lo < 31 + 1 ∧ 31 < Fld.MX_WIT_STAT_CHECKED.info.lo + Fld.MX_WIT_STAT_CHECKED.width ∧
    Fld.MX_WIT_STAT_CHECKED.info.lo + Fld.MX_WIT_STAT_CHECKED.width ≤ 32 ∧
    (wAt 5).setNow .SE_CFG_TAG_SUM 0 = false ∧ ((wAt 5).mark .SE_CFG_TAG_SUM 0).setNow .SE_CFG_TAG_SUM 0 = true := by
  decide +kernel

/-- A write of SNAP_CFG with NOW, of GH_CTRL with CLEAR, of RES_CTRL with the key and MOD, and of PT_BW_CFG with WIN_LOG2 `k`. -/
def snapNowVal : Nat := 2 ^ Fld.SNAP_CFG_NOW.info.lo
def ghClearVal : Nat := 2 ^ Fld.GH_CTRL_CLEAR.info.lo
def resModVal : Nat := 0xA5C3 * 2 ^ Fld.RES_CTRL_KEY.info.lo + 2 ^ Fld.RES_CTRL_MOD.info.lo
def bwVal (k : Nat) : Nat := k * 2 ^ Fld.PT_BW_CFG_WIN_LOG2.info.lo

theorem test_RegistersAreWrittenAndRead : fldOf .SNAP_CFG_NOW snapNowVal = 1 ∧ fldOf .GH_CTRL_CLEAR ghClearVal = 1 ∧
    fldOf .RES_CTRL_KEY resModVal = 0xA5C3 ∧ fldOf .RES_CTRL_MOD resModVal = 1 ∧ w0.h .quiesce 0 = 0 ∧ w0.lt09 = false ∧ w0.histOf 0 = none ∧
    w0.setNow .MEM_DEG_STAT_LATE 0 = false ∧ w0.setNow .MEM_DEG_STAT_SWITCHES 0 = false ∧
    (∀ q ∈ [8, 9, 14, 15], fldOf .PMC_SEL_QUARTER (q * 2 ^ Fld.PMC_SEL_QUARTER.info.lo) = q ∧
      fldOf .SNAP_CFG_QUARTER (snapNowVal + q * 2 ^ Fld.SNAP_CFG_QUARTER.info.lo) = q) ∧ { w0 with lt09 := true }.lt09 = true ∧
    (∀ k ∈ [10, 24], fldOf .PT_BW_CFG_WIN_LOG2 (bwVal k) = k) ∧ 0x01FFFFF8 < 0x02000000 ∧
    (match findReg false 0x160000 with
     | some (r, i) => i == 0 && r.info.readers &&& 4 == 0
     | none => false) = true := by decide +kernel

theorem test_SnapshotsLatchOnce : (∀ r < 2, let s := ((w0.wr .SNAP_CFG_ARM 0 1).wr .SNAP_CFG_REPEAT 0 r).wr .SNAP_STAT_SEQ 0 (2 ^ 32 - 1)
      s.rd .SNAP_CFG_ARM 0 = 1 ∧ s.rd .SNAP_STAT_BUSY 0 = 0 ∧ s.rd .SNAP_CFG_REPEAT 0 = r) ∧
    w0.rd .SNAP_CFG_ARM 0 = 0 ∧ ((w0.wr .SNAP_CFG_ARM 0 1).wr .SNAP_STAT_BUSY 0 1).rd .SNAP_STAT_BUSY 0 = 1 := by decide +kernel

theorem test_InstrumentsComplete : (∀ k ∈ [0, 1], (w0.wr .SNAP_CFG_SRC 0 k).rd .SNAP_CFG_SRC 0 = k) ∧ w0.h .sched 0 ≤ 4 ∧ (wAt 1044737).pos ≤ (wAt 1044737).cycW 257 ∧ 4 < (w0.setH .sched 0 5).h .sched 0 ∧
    (w0.setH .snapDue 0 1025).h .snapDue 0 ≠ 0 ∧
    (w0.wr .SNAP_STAT_BUSY 0 1).rd .SNAP_STAT_BUSY 0 = 1 ∧
    (let s := { (w0.wr .PT_BW_CFG_WIN_LOG2 1 10).setH .bwFrom 1 1024 with now := 2048 }
     s.h .bwFrom 1 ≠ 0 ∧ s.rd .PT_BW_CFG_WIN_LOG2 1 = 10 ∧ s.h .bwFrom 1 + 2 ^ 10 ≤ s.now / 2 ^ 10 * 2 ^ 10) := by decide +kernel

theorem test_TheModuleRecovers : w0.rd .FW_STATE_CP_PAIR 0 = 0 ∧ (∀ k ∈ [1, 3], (w0.setH .cpUp 0 k).h .cpUp 0 = k) ∧ w0.h .quiesce 0 = 0 ∧
    (w0.h .sweepAt 0 = 0 ∧ (w0.setH .planes 0 1).h .planes 0 = 1) ∧
    (∀ k ∈ [1, 4, 5], ((w0.setH .quiesce 0 k).setH .rstHeld 0 1).h .quiesce 0 = k ∧ ((w0.setH .quiesce 0 k).setH .rstHeld 0 1).h .rstHeld 0 = 1) ∧
    (let s := w0.setH .testBad ((1 * 16 + 11) * 64 + 3) 1
     s.unitExists 1 11 3 = true ∧ s.unitIsOut 1 11 3 = false ∧ s.h .testBad ((1 * 16 + 11) * 64 + 3) = 1 ∧ s.leaving = []) ∧
    w0.h .rstPairs 0 = 0 ∧ (w0.setH .rstPairs 0 4).h .rstPairs 0 ≠ 0 := by decide +kernel

theorem test_TheDebugPortShowsWhatItMay : w0.h .planes 0 = 0 ∧ (w0.setH .planes 0 1).h .planes 0 ≠ 0 ∧ w0.rd .SEC_STAT_SCOPE 0 = 0 ∧
    (let s := w0.wr .SEC_STAT_SCOPE 0 15
     bitsOf (s.rd .SEC_STAT_SCOPE 0) 2 1 = 1 ∧ bitsOf (s.rd .SEC_STAT_SCOPE 0) 3 1 = 1 ∧ s.pos < s.cycW 0 ∧
      ({ s with now := 1044480 }).cycW 0 ≤ ({ s with now := 1044480 }).pos) ∧ bitsOf (BitVec.ofNat 96 (2 ^ 26 + 0x150000)).toNat 26 1 = 1 ∧
    (w0.setH .mfwUp 0 1).h .mfwUp 0 = 1 ∧
    (let s := (w0.wr .SEC_STAT_ERASE_PEND 0 1).setH .eraseReady 0 1
     let u := s.goTo (s.cycW 2560)
     u.rd .SEC_STAT_ERASE_PEND 0 = 1 ∧ u.h .eraseReady 0 ≠ 0 ∧ u.h .eraseReady 0 ≤ u.now + 1 ∧ u.late = []) := by decide +kernel

theorem test_PowerIsSequenced : (let s := w0.setH .mfwUp 0 1
      s.h .mfwUp 0 = 1 ∧ s.h .planes 0 = 0 ∧ s.h .rstPairs 0 = 0 ∧ s.h .rstHeld 0 = 0 ∧ s.h .offHold 0 = 0 ∧ s.h .auxLost 0 = 0) ∧
    (w0.h .sweepAt 0 = 0 ∧ (w0.setH .planes 0 1).h .planes 0 = 1 ∧ (w0.setH .planes 0 1).h .sweepAt 0 = 0) ∧
    ((w0.setH .sweepAt 0 1).h .sweepAt 0 ≠ 0 ∧ (w0.setH .sweepAt 0 1).h .sweepIdle 0 = 0) ∧
    ((w0.setH .offHold 0 1).h .offHold 0 = 1 ∧ (w0.setH .offHold 0 1).h .auxLost 0 = 0) ∧ (∀ slot < 2, w0.h .selStaged 1 ≠ slot + 1) := by
  decide +kernel

-- The worked examples of the spec.

/-- 5.6, widening single elements: E2M1, E4M3 and E5M2 elements, their value and flags. -/
theorem test_widening : widenMx 6 0x85 0x7 = (0x5E00, 0) ∧ widenMx 2 0x88 0x7E = (0x7BFF, flagESAT + flagNX) ∧ widenMx 2 0x70 0x01 = (0x0001, 0) ∧
    widenMx 2 0x6F 0x01 = (0, flagUF + flagNX) ∧ widenMx 3 0x7F 0xFC = (0xFC00, 0) ∧ widenMx 3 0xFF 0x12 = (0x7E00, 0) := by decide +kernel

/-- 5.7: a group whose largest element is 3.0 takes the scale byte 0x78 in E4M3. -/
theorem test_narrowing_scale : (narrowMx8 2 .rne (0xC0400000 :: List.replicate 31 0)).1 = 0x78 := by decide +kernel

/-- 5.8: 1.0 falls in bin 31, 65,504 and 120,005.25 in bin 35. -/
theorem test_histogram_bins : histClass 0x3F800000 = (31, 127) ∧ histClass 0x477FE000 = (35, 142) ∧ histClass 0x47EA62A0 = (35, 143) := by
  decide +kernel

/-- 2.6: with B = 65,536 and F = 12,000, SHARE 1,024 and no debt, A(Q3) = 13,384. -/
theorem test_share_of_the_budget : ((w0.setH .shareAct 3 1024).allotQ 65536 12000 [] 3).rd .TOK_Q_STAT_FREE 3 = 13384 := by decide +kernel

/-- 2.6: Q3 spans four strips and has 5,000 tokens free; the operation of 1,024 × 256 at the head of its submit queue declares 526,000 cycles,
3,600 tokens and chunks of 5,400 cycles. -/
def exRaw : Nat := 1 + 2 ^ 8 + 2 ^ 40 * 1024 + 2 ^ 52 * 256 + 2 ^ 64 * 4096 + 2 ^ 96 * 2048 + 2 ^ 128 * 256 + 2 ^ 160 * 4096 + 2 ^ 176 + 2 ^ 192 * 0x1000 +
  2 ^ 256 * 256 + 2 ^ 288 + 2 ^ 320 * 0x2000 + 2 ^ 384 * 0x3000 + 2 ^ 448 * 256 + 2 ^ 480 * 526000 + 2 ^ 512 * 3600 + 2 ^ 544 * 5400
def wExample : State := { (((w0.wr .GRID_Q_STRIPS_COUNT_ACT 3 4).wr .TURN_Q_PARK_EN 3 1).wr .TOK_Q_STAT_FREE 3 5000) with
  ops := [Op.fresh 1 3 3 0 5 exRaw 0], submitQ := [1] }

/-- 2.6: admitted at cycle 700,000 with a slice of 332,192 cycles and a charge of 2,274 tokens, which leaves 2,726. -/
theorem test_admission : (match exec (.admissionDecision 3 700000) wExample with
    | .next t => t.ops.map (fun (o : Op) => (o.slice, o.charge)) == [(332192, 2274)] && t.rd .TOK_Q_STAT_FREE 3 == 2726
    | _ => false) = true := by decide +kernel

/-- 3.8: Q2 holds strips 4 to 7. Its logical tile (87, 200) is the physical tile (348, 200), and (349, 200) once that is fenced; with (360, 200)
fenced too, row 200 leaves and logical row 200 is physical row 201. -/
def wGrid : State := (w0.wr .GRID_Q_STRIPS_FIRST_ACT 2 4).wr .GRID_Q_STRIPS_COUNT_ACT 2 4
theorem test_fencing : wGrid.physTile 2 87 200 = (348, 200) ∧ (wGrid.applyFence 348 200).physTile 2 87 200 = (349, 200) ∧
    ((wGrid.applyFence 348 200).applyFence 360 200).physRow 2 200 = 201 ∧
    ((wGrid.applyFence 348 200).applyFence 360 200).physRow 2 1023 = 1024 := by decide +kernel

/-- 12.4: lane 3 fails and the link goes on at x8; lane 12 fails too and it goes on at x2. -/
theorem test_narrowing_of_a_link : (match exec (.portLaneFailure 0 3) (wUp.wr .PT_LINK_STAT_WIDTH 0 16) with
    | .next t => t.rd .PT_LINK_STAT_WIDTH 0 == 8 && (match exec (.portLaneFailure 0 12) t with
      | .next u => u.rd .PT_LINK_STAT_WIDTH 0 == 2
      | _ => false)
    | _ => false) = true := by decide +kernel

/-- 11.5: one element of an M1 tensor at step 1,024: the learning rate, and the new W and m. -/
def exRec : Nat := 2 ^ 8 * 8 + 2 ^ 96 * 0x3F600000 + 2 ^ 128 * 0x3E000000 + 2 ^ 256 * 0x3D800000 + 2 ^ 1248 * 0x3F800000 + 2 ^ 1283 * 15
def exSched : Nat := 2 ^ 32 + 2 ^ 96 * 0x39800000 + 2 ^ 128 * 0x3A000000 + (List.range 7).foldl (fun (a i : Nat) => a + 2 ^ (256 * (i + 1) + 32) * 3) 0
theorem test_update_of_one_element : schedRate exSched 1024 = (0x39000000, 0) ∧
    (let y := applyElem exRec (0x39000000, 0) (0x37000000, 0) 0x3F400000 0x5A00 0x45800000 0 0 0
     y.1 = 0x3F3FFA40 ∧ y.2.1 = 0x5960 ∧ y.2.2.2 = 0) := by decide +kernel

/-- FIPS 197, C.3: the example vector of AES-256, the cipher that R171 names; and the ends of its inverse. -/
def aesKey : Nat := ofBytes ((List.range 32).map (BitVec.ofNat 8))
def aesPlain : List Nat := (List.range 16).map (fun i => 17 * i)
def aesText : List Nat := [0x8E, 0xA2, 0xB7, 0xCA, 0x51, 0x67, 0x45, 0xBF, 0xEA, 0xFC, 0x49, 0x90, 0x4B, 0x49, 0x60, 0x89]
theorem test_cipher : aesEncrypt aesKey aesPlain = aesText ∧ aesDecrypt aesKey aesText = aesPlain := by decide +kernel

-- One ill-formed command for each check of `wellFormed`.

theorem test_well_formed : wellFormed (.turnMark 7 255) = true ∧ wellFormed (.inboundRequest rqVf 0) = true ∧ wellFormed (.submit (ent 13 0x100 0 0)) = true := by
  decide +kernel

theorem test_ill_formed : wellFormed (.turnMark 8 0) = false ∧ wellFormed (.turnMark 0 256) = false ∧ wellFormed (.admissionDecision 12 0) = false ∧
    wellFormed (.stkRetire (.vf 12) 0 0) = false ∧ wellFormed (.stkRetire .mc 12 0) = false ∧ wellFormed (.stkRetire .mc 0 (2 ^ 64)) = false ∧
    wellFormed (.submit (ent 14 0x100 0 0)) = false ∧ wellFormed (.submit { ent 0 0x100 0 0 with source := 3 }) = false ∧
    wellFormed (.translationWalk 0 0 false ⟨16, 0⟩) = false ∧ wellFormed (.inboundRequest { rqBar0 with port := 2 } 0) = false ∧
    wellFormed (.inboundRequest { rqBar0 with func := 13 } 0) = false ∧ wellFormed (.inboundRequest { rqBar0 with bar := 6 } 0) = false ∧
    wellFormed (.inboundRequest { rqVf with data := [] } 0) = false ∧ wellFormed (.plazaAccess [{ rqRead with tier := 4 }]) = false ∧
    wellFormed (.plazaAccess [rqRead, { rqRead with off := 257 }]) = false ∧ wellFormed (.coreDeviceAccess { xCore with c := 3 } 0) = false ∧
    wellFormed (.coreDeviceAccess { xCore with write := true } 0) = false ∧ wellFormed (.balanceCheck [⟨.linkCredit, 16, 0, 1⟩]) = false ∧
    wellFormed (.unitZeroed true 256) = false ∧ wellFormed (.unitZeroed false 1152) = false ∧ wellFormed (.update 16 0 0) = false ∧
    wellFormed (.spdmRequest 4 .getVersion) = false ∧ wellFormed (.replayTimeout 2 false) = false := by decide +kernel

/-- No row of the table gives bits, so no word spells a command. -/
theorem test_no_word : decodeTableWord 32 5 = none := by decide

end Sys2Proof.Tests
end

section
/-! PROOFS. What a write and a read do to a field by its access type (R9, Table 0-4). -/

namespace Sys2Proof.Machine

/-- A single bit, as the library's `Nat.testBit`. -/
theorem bitsOf_one (x k : Nat) : bitsOf x k 1 = (x.testBit k).toNat := (Nat.toNat_testBit x k).symm

/-- The subtraction by which `State.clearBits` takes bits away borrows nothing, so that it clears exactly those bits. -/
theorem testBit_sub_and (k x v : Nat) : (x - (x &&& v)).testBit k = (x.testBit k && !v.testBit k) := by
  induction k generalizing x v with
  | zero =>
    have hle : x &&& v ≤ x := Nat.and_le_left
    have hlow : (x &&& v).testBit 0 = (x.testBit 0 && v.testBit 0) := Nat.testBit_and x v 0
    simp only [Nat.testBit_zero, ← Bool.decide_and, decide_eq_decide] at hlow
    simp only [Nat.testBit_zero, ← decide_not, ← Bool.decide_and, decide_eq_decide]
    omega
  | succ k ih =>
    have hle : x &&& v ≤ x := Nat.and_le_left
    have hmod : (x &&& v) % 2 ≤ x % 2 := by
      rw [show (x &&& v) % 2 = x % 2 &&& v % 2 from Nat.and_mod_two_pow (n := 1)]
      exact Nat.and_le_left
    have hhalf : (x - (x &&& v)) / 2 = x / 2 - (x / 2 &&& v / 2) := by
      rw [← Nat.and_div_two]
      omega
    simp only [Nat.testBit_succ, hhalf, ih]

theorem bitsOf_sub_and (x v k : Nat) : bitsOf (x - (x &&& v)) k 1 = if bitsOf v k 1 = 1 then 0 else bitsOf x k 1 := by
  simp only [bitsOf_one, testBit_sub_and]
  cases v.testBit k <;> simp

theorem bitsOf_or (x v k : Nat) : bitsOf (x ||| v) k 1 = if bitsOf v k 1 = 1 then 1 else bitsOf x k 1 := by
  simp only [bitsOf_one, Nat.testBit_or]
  cases v.testBit k <;> simp

namespace State

variable {s : State} {f g : Fld} {i j v lo n : Nat}

/-- A set by hardware in the same cycle wins over the clear. -/
theorem clearBits_of_setNow (h : s.setNow f i = true) : s.clearBits f i v = s := by simp [clearBits, h]

theorem rd_clearBits_same (hs : s.rd f i < 2 ^ f.width) (h : s.setNow f i = false) :
    (s.clearBits f i v).rd f i = s.rd f i - (s.rd f i &&& v) := by
  by_cases hv : s.rd f i &&& v = 0
  · simp [clearBits, hv]
  · simp [clearBits, h, hv, rd_wr_fits f i _ (Nat.lt_of_le_of_lt (Nat.sub_le _ _) hs)]

theorem rd_clearBits_other (h : f ≠ g ∨ i ≠ j) : (s.clearBits f i v).rd g j = s.rd g j := by
  unfold clearBits
  split
  · rfl
  · rw [rd_setH, rd_wr_other _ _ h]

theorem fldWrite_of_rw (h : f.info.acc = .rw) : s.fldWrite f i v = s.wr f i v := by simp [fldWrite, h]

theorem fldWrite_of_w1c (h : f.info.acc = .w1c) : s.fldWrite f i v = s.clearBits f i v := by simp [fldWrite, h]

theorem fldWrite_of_w1s (h : f.info.acc = .w1s) : s.fldWrite f i v = s.wr f i (s.rd f i ||| v) := by simp [fldWrite, h]

theorem fldWrite_of_ro_wo_rc (h : f.info.acc = .ro ∨ f.info.acc = .wo ∨ f.info.acc = .rc) : s.fldWrite f i v = s := by
  rcases h with h | h | h <;> simp [fldWrite, h]

theorem rd_fldWrite_other (h : f ≠ g ∨ i ≠ j) : (s.fldWrite f i v).rd g j = s.rd g j := by
  cases hacc : f.info.acc with
  | rw => rw [fldWrite_of_rw hacc, rd_wr_other _ _ h]
  | w1c => rw [fldWrite_of_w1c hacc, rd_clearBits_other h]
  | w1s => rw [fldWrite_of_w1s hacc, rd_wr_other _ _ h]
  | ro => rw [fldWrite_of_ro_wo_rc (.inl hacc)]
  | wo => rw [fldWrite_of_ro_wo_rc (.inr (.inl hacc))]
  | rc => rw [fldWrite_of_ro_wo_rc (.inr (.inr hacc))]

theorem fldRead_of_not_rc (h : f.info.acc ≠ .rc) : s.fldRead f i lo n = s := by simp [fldRead, h]

/-- A read that takes none of a field's bits. -/
theorem fldRead_of_outside (h : lo + n ≤ f.info.lo ∨ f.info.lo + f.width ≤ lo) : s.fldRead f i lo n = s :=
  if_neg fun hc => by
    obtain ⟨-, hlo, hhi⟩ := hc
    omega

theorem rd_fldRead_rc (hs : s.rd f i < 2 ^ f.width) (h : f.info.acc = .rc) (hlo : f.info.lo < lo + n) (hhi : lo < f.info.lo + f.width) :
    (s.fldRead f i lo n).rd f i = if s.setNow f i = true then min (s.h .rcNew (regKey f i)) (s.rd f i) else 0 := by
  unfold fldRead
  rw [if_pos ⟨h, hlo, hhi⟩]
  apply rd_wr_fits
  split
  · exact Nat.lt_of_le_of_lt (Nat.min_le_right _ _) hs
  · exact Nat.two_pow_pos _

theorem rd_fldRead_other (h : f ≠ g ∨ i ≠ j) : (s.fldRead f i lo n).rd g j = s.rd g j := by
  unfold fldRead
  split
  · rw [rd_wr_other _ _ h]
  · rfl

end State

/-- Settles O53: a write by the equation of each access type, a read by whether it takes a bit of an RC field. -/
theorem registerFieldsObeyTheirAccessType : Obligations.RegisterFieldsObeyTheirAccessType := by
  intro s f i v hs hv
  refine ⟨fun h => ?rw, fun h hset k => ?w1c, fun h hset => ?w1cSet, fun h k => ?w1s, State.fldWrite_of_ro_wo_rc,
    fun lo n hlo hhi => ?read, fun lo n => State.fldRead_of_outside, fun g j lo n hne => ?others⟩
  case rw => rw [State.fldWrite_of_rw h, State.rd_wr_fits f i v hv]
  case w1c => rw [State.fldWrite_of_w1c h, State.rd_clearBits_same hs hset, bitsOf_sub_and]
  case w1cSet => rw [State.fldWrite_of_w1c h, State.clearBits_of_setNow hset]
  case w1s => rw [State.fldWrite_of_w1s h, State.rd_wr_fits f i _ (Nat.or_lt_two_pow hs hv), bitsOf_or]
  case read =>
    by_cases h : f.info.acc = .rc
    · rw [if_pos h, State.rd_fldRead_rc hs h hlo hhi]
    · rw [if_neg h, State.fldRead_of_not_rc h]
  case others =>
    have hother : f ≠ g ∨ i ≠ j := by
      rw [Ne, Prod.mk.injEq, not_and_or] at hne
      exact hne.imp Ne.symm Ne.symm
    exact ⟨State.rd_fldWrite_other hother, State.rd_fldRead_other hother⟩

end Sys2Proof.Machine
end

section
/-! PROOFS. What an agent's access to a mailbox page does (R311 to R316, R325), how the rings are served (R313), and the requests of the MC (R17). -/

namespace Sys2Proof.Machine

theorem bitsOf_lt (x lo n : Nat) : bitsOf x lo n < 2 ^ n := Nat.mod_lt _ (Nat.two_pow_pos n)

namespace State

variable {s : State} {q page off : Nat}

theorem pageHere_of_quarter (h : q < s.nQ) : s.pageHere q = true := by simp [pageHere, h]

theorem pageReach_vf_self (q : Nat) : pageReach (.vf q) q = true := by simp [pageReach]

/-- No page of a quarter is the PF's. -/
theorem pageReach_pf_of_quarter (h : q < 12) : pageReach .pf q = false := by
  simp only [pageReach, Bool.or_eq_false_iff, beq_eq_false_iff_ne]
  omega

theorem pageOff_of_quarter (h : q < 12) : pageOff q off = off := if_pos h

theorem pageFn_of_quarter (h : q < 12) : pageFn q = q := if_pos h

/-- A VF reaches its own page through HOST_PORT (R268). -/
theorem doorbell_of_own_function (h : q < s.nQ) (body : State → State) :
    s.doorbell (.vf q) (s.rd .PT_Q_CFG_HOST_PORT q) q off body = body s := by
  simp [doorbell, pageHere_of_quarter h, pageReach_vf_self]

theorem doorbell_of_no_reach {a : Agent} (hp : s.pageHere page = true) (hr : pageReach a page = false) (port : Nat) (body : State → State) :
    s.doorbell a port page off body = s.fnErr (agentNo a) 1 (pageOff page off) := by
  simp [doorbell, hp, hr]

theorem discardDb_of_quarter (h : q < 12) : s.discardDb q off = (s.mark .MB_STAT_DB_DISCARD q).fnErr q 2 off := by
  rw [discardDb, pageFn_of_quarter h]

/-- A tail within the count that the ring can hold moves the tail (R313). -/
theorem writeTail_of_held {tail : Nat} (hr : tail < 2 * 2 ^ s.rd .MB_SQ_CFG_LOG2 page)
    (hh : ringHeld tail (s.rd .MB_STAT_SQ_HEAD page) (s.rd .MB_SQ_CFG_LOG2 page) ≤ 2 ^ s.rd .MB_SQ_CFG_LOG2 page) :
    s.writeTail page tail = s.wr .MB_SQ_DB_TAIL page tail :=
  if_neg (not_or.2 ⟨Nat.not_le.2 hr, Nat.not_lt.2 hh⟩)

theorem writeTail_of_out_of_range {tail : Nat} (hr : 2 * 2 ^ s.rd .MB_SQ_CFG_LOG2 page ≤ tail) :
    s.writeTail page tail = s.discardDb page 0x40 :=
  if_pos (.inl hr)

/-- No completion waits, so a drain posts nothing (R314). -/
theorem drainCq_of_none_waits (page : Nat) (h : s.cqWait = []) : s.drainCq page s.cqWait.length = s := by
  rw [h]
  rfl

theorem writeHead_of_frees {head : Nat} (hr : head < 2 * 2 ^ s.rd .MB_CQ_CFG_LOG2 page)
    (hh : ringHeld head (s.rd .MB_CQ_DB_HEAD page) (s.rd .MB_CQ_CFG_LOG2 page) ≤
      ringHeld (s.rd .MB_STAT_CQ_TAIL page) (s.rd .MB_CQ_DB_HEAD page) (s.rd .MB_CQ_CFG_LOG2 page))
    (hw : s.cqWait = []) : s.writeHead page head = s.wr .MB_CQ_DB_HEAD page head :=
  (if_neg (not_or.2 ⟨Nat.not_le.2 hr, Nat.not_lt.2 hh⟩)).trans (drainCq_of_none_waits (s := s.wr .MB_CQ_DB_HEAD page head) page hw)

/-- The submission ring of a quarter as a write of MB_SQ_CFG with EN leaves it where it was off: base, place and size taken, both rings' pointers at
zero (R316). -/
def enableSq (s : State) (q val : Nat) : State :=
  let placed := (((s.wr .MB_SQ_CFG_BASE q (bitsOf val 12 52)).wr .MB_SQ_CFG_LOC q (bitsOf val 10 1)).wr .MB_SQ_CFG_LOG2 q (bitsOf val 0 4)).wr
    .MB_SQ_CFG_PORT q 0
  ((((placed.wr .MB_SQ_CFG_EN q 1).wr .MB_STAT_SQ_HEAD q 0).wr .MB_SQ_DB_TAIL q 0).wr .MB_STAT_CQ_TAIL q 0).wr .MB_CQ_DB_HEAD q 0

@[simp] theorem enableSq_cqWait (s : State) (q val : Nat) : (s.enableSq q val).cqWait = s.cqWait := by simp [enableSq]

theorem writeRing_of_enables {val : Nat} (hq : q < 12) (hoff : s.rd .MB_SQ_CFG_EN q = 0) (hon : bitsOf val 11 1 = 1)
    (h4 : 4 ≤ bitsOf val 0 4) (h12 : bitsOf val 0 4 ≤ 12) (hw : s.cqWait = []) : s.writeRing q false val = s.enableSq q val := by
  have hvf : ¬ 12 ≤ q := Nat.not_le.2 hq
  have hdrain : (s.enableSq q val).drainCq q (s.enableSq q val).cqWait.length = s.enableSq q val :=
    drainCq_of_none_waits q ((enableSq_cqWait s q val).trans hw)
  unfold writeRing
  simp only [hvf, hq, hoff, hon, h4, h12, false_and, and_false, Nat.zero_ne_one, or_self, or_true, and_self, if_true, if_false,
    Bool.false_eq_true, Bool.not_false]
  exact hdrain

section EnableSq

variable (s : State) (q val : Nat)

theorem rd_enableSq_base : (s.enableSq q val).rd .MB_SQ_CFG_BASE q = bitsOf val 12 52 := by
  simp only [enableSq, rd_wr_other, ne_eq, reduceCtorEq, not_false_eq_true, true_or]
  exact rd_wr_fits _ _ _ (bitsOf_lt val 12 52)

theorem rd_enableSq_log2 : (s.enableSq q val).rd .MB_SQ_CFG_LOG2 q = bitsOf val 0 4 := by
  simp only [enableSq, rd_wr_other, ne_eq, reduceCtorEq, not_false_eq_true, true_or]
  exact rd_wr_fits _ _ _ (bitsOf_lt val 0 4)

theorem rd_enableSq_en : (s.enableSq q val).rd .MB_SQ_CFG_EN q = 1 := by
  simp only [enableSq, rd_wr_other, ne_eq, reduceCtorEq, not_false_eq_true, true_or]
  exact rd_wr_same _ _ _ _

theorem rd_enableSq_tail : (s.enableSq q val).rd .MB_SQ_DB_TAIL q = 0 := by simp [enableSq, rd_wr_other]

theorem rd_enableSq_head : (s.enableSq q val).rd .MB_STAT_SQ_HEAD q = 0 := by simp [enableSq, rd_wr_other]

end EnableSq

/-- GO on a slot that is not busy and that is served starts the command (R325). -/
theorem writeGo_of_idle (hb : s.rd .MB_URG_DB_BUSY page = 0) (hs : s.served page = true) (line : Line) :
    s.writeGo page line =
      State.dispatch { s.mark .MB_URG_DB_BUSY page with urgCmd := Tab.set 0 page line.toNat s.urgCmd } ⟨page, 2, line⟩ := by
  have hserved : State.served { s.mark .MB_URG_DB_BUSY page with urgCmd := Tab.set 0 page line.toNat s.urgCmd } page = true := hs
  have hflag : s.flag .MB_URG_DB_BUSY page = false := by simp [flag, hb]
  simp only [writeGo, hflag, Bool.false_eq_true, if_false]
  exact if_pos hserved

theorem writeGo_of_busy (hb : s.rd .MB_URG_DB_BUSY page = 1) (line : Line) : s.writeGo page line = s.discardDb page 0xC0 := by
  simp [writeGo, flag, hb]

/-- The entry at HEAD of a ring in host memory (R312). -/
def headLine (s : State) (page : Nat) : Line :=
  BitVec.ofNat 512 (ofBytes ((List.range 64).map (fun i =>
    s.memByte 3 0 (s.rd .MB_SQ_CFG_BASE page * 4096 + 64 * (s.rd .MB_STAT_SQ_HEAD page % 2 ^ s.rd .MB_SQ_CFG_LOG2 page) + i))))

/-- The entry at HEAD is taken: the round robin counts it and HEAD passes it (R313). -/
def takeHead (s : State) (page : Nat) : State :=
  (((s.setH .rrobin 0 page).setH .rrobin 1 (if s.h .rrobin 0 = page then s.h .rrobin 1 + 1 else 1)).wr
    .MB_STAT_SQ_HEAD page ((s.rd .MB_STAT_SQ_HEAD page + 1) % (2 * 2 ^ s.rd .MB_SQ_CFG_LOG2 page))).setH .cmdWait 0 0

theorem ringRead_of_host {a n : Nat} (h : s.rd .PT_LINK_STAT_UP (s.pagePort page) = 1) :
    s.ringRead page 0 a n = (s, some ((List.range n).map (fun i => s.memByte 3 0 (a + i)))) := by
  simp [ringRead, flag, h]

/-- The first page in the order whose ring is ready gives its entry, and the command starts; where its access waits, HEAD returns to the entry. -/
theorem copyFrom_of_ready {rest : List Nat} (hr : s.ringReady page = true) (hloc : s.rd .MB_SQ_CFG_LOC page = 0)
    (hup : s.rd .PT_LINK_STAT_UP (s.pagePort page) = 1) (hclass : eCode ⟨page, 0, s.headLine page⟩ / 256 ≠ 1) :
    s.copyFrom (page :: rest) =
      let v := (s.takeHead page).dispatch ⟨page, 0, s.headLine page⟩
      if v.h .cmdWait 0 = 1 then (v.wr .MB_STAT_SQ_HEAD page (s.rd .MB_STAT_SQ_HEAD page)).setH .cmdWait 0 0 else v := by
  rw [headLine] at hclass
  simp only [copyFrom, hr, hloc, ringRead_of_host hup, hclass, Bool.true_eq_false, false_and, if_false]
  rfl

/-- With no CP pair in service the requests of the MC wait (R17). -/
theorem serveMcRing_of_no_cp (hc : s.h .cpUp 0 = 0) (n : Nat) : s.serveMcRing n = s := by
  cases n with
  | zero => rfl
  | succ n => simp [serveMcRing, hc]

/-- With one in service it carries out the oldest. -/
theorem serveMcRing_succ_of_cp {o v : Nat} {rest : List (Nat × Nat)} (hc : s.h .cpUp 0 ≠ 0) (hr : s.mcRing = (o, v) :: rest) (n : Nat) :
    s.serveMcRing (n + 1) = ({ s with mcRing := rest }.mcWrite o v).serveMcRing n := by
  simp [serveMcRing, hc, hr]

/-- With a CP pair in service a request that finds the internal ring empty is carried out (R17). -/
theorem mcAsk_of_idle {val : Nat} (hr : s.mcRing = []) (hc : s.h .cpUp 0 ≠ 0) : s.mcAsk off val = s.mcWrite off val := by
  have hone : State.serveMcRing { s with mcRing := [(off, val)] } 1 = { s with mcRing := [] }.mcWrite off val :=
    serveMcRing_succ_of_cp (s := { s with mcRing := [(off, val)] }) hc rfl 0
  have hempty : { s with mcRing := [] } = s := by rw [← hr]
  rw [hempty] at hone
  rw [mcAsk, hr]
  exact hone

theorem mcAsk_of_no_cp {val : Nat} (hc : s.h .cpUp 0 = 0) : s.mcAsk off val = { s with mcRing := s.mcRing ++ [(off, val)] } :=
  serveMcRing_of_no_cp (s := { s with mcRing := s.mcRing ++ [(off, val)] }) hc _

end State

section Exec

variable {s : State} {q page : Nat}

theorem exec_sqDoorbell (a : Agent) (port tail : Nat) :
    exec (.sqDoorbell a port page tail) s = .next (s.doorbell a port page 0x40 (fun (s : State) => s.writeTail page tail)) := rfl

theorem exec_cqDoorbell (a : Agent) (port head : Nat) :
    exec (.cqDoorbell a port page head) s = .next (s.doorbell a port page 0x48 (fun (s : State) => s.writeHead page head)) := rfl

theorem exec_ringConfig_of_own_function (h : q < s.nQ) (cq : Bool) (val : Nat) :
    exec (.ringConfig (.vf q) q cq val) s = .next (s.writeRing q cq val) := by
  show execRingConfig (.vf q) q cq val s = _
  simp [execRingConfig, State.pageHere_of_quarter h, State.pageReach_vf_self]

theorem exec_urgentGo_of_slot (h : page ≠ 13) (a : Agent) (port : Nat) (line : Line) :
    exec (.urgentGo a port page line) s = .next (s.doorbell a port page 0xC0 (fun (s : State) => s.writeGo page line)) :=
  if_neg h

/-- The state at cycle `t` when the rings are served: the MC's requests come first, then the plans. -/
def State.atService (s : State) (t : Nat) : State := ((s.goTo t).serveMcRing (s.goTo t).mcRing.length).pumpPlans

theorem exec_sqEntryCopy (t : Nat) : exec (.sqEntryCopy t) s = .next ((s.atService t).copyFrom (s.atService t).ringOrder) := rfl

theorem exec_mcRingRequest (off val : Nat) : exec (.mcRingRequest off val) s = .next (s.mcAsk off val) := rfl

end Exec

/-- Settles O52: each access by the page it reaches and the branch of the register it writes; the service of the rings by the first page of the order,
which is ready. -/
theorem ringsAreServed : Obligations.RingsAreServed := by
  intro s q hnQ h12 lg
  have h13 : q ≠ 13 := by omega
  refine ⟨fun tail hrange hheld => ?doorbell, fun tail hout => ?outOfRange, fun head hrange hfree hwait => ?frees, fun port tail => ?noReach,
    fun val hoff hon hlo hhi hwait => ?enables, fun line hidle hserved => ?go, fun line hbusy => ?busyGo,
    fun t u d rest hu horder hready hloc hup hd hclass => ?entry, fun off val => ⟨fun hempty hcp => ?served, fun hcp => ?waits⟩⟩
  case doorbell => rw [exec_sqDoorbell, State.doorbell_of_own_function hnQ, State.writeTail_of_held hrange hheld]
  case outOfRange =>
    rw [exec_sqDoorbell, State.doorbell_of_own_function hnQ, State.writeTail_of_out_of_range hout, State.discardDb_of_quarter h12]
  case frees => rw [exec_cqDoorbell, State.doorbell_of_own_function hnQ, State.writeHead_of_frees hrange hfree hwait]
  case noReach =>
    rw [exec_sqDoorbell, State.doorbell_of_no_reach (State.pageHere_of_quarter hnQ) (State.pageReach_pf_of_quarter h12),
      State.pageOff_of_quarter h12]
    rfl
  case enables =>
    refine ⟨s.enableSq q val, ?_, s.rd_enableSq_en q val, s.rd_enableSq_base q val, s.rd_enableSq_log2 q val, s.rd_enableSq_tail q val,
      s.rd_enableSq_head q val⟩
    rw [exec_ringConfig_of_own_function hnQ, State.writeRing_of_enables h12 hoff hon hlo hhi hwait]
  case go => rw [exec_urgentGo_of_slot h13, State.doorbell_of_own_function hnQ, State.writeGo_of_idle hidle hserved]
  case busyGo =>
    rw [exec_urgentGo_of_slot h13, State.doorbell_of_own_function hnQ, State.writeGo_of_busy hbusy, State.discardDb_of_quarter h12]
  case entry =>
    intro v
    have hline : d = u.headLine q := hd
    have hv : v = (u.takeHead q).dispatch ⟨q, 0, d⟩ := rfl
    have hcopy : exec (.sqEntryCopy t) s = .next (u.copyFrom (q :: rest)) := by
      rw [exec_sqEntryCopy, State.atService, ← hu, horder]
    rw [hline] at hclass hv
    rw [hcopy, State.copyFrom_of_ready hready hloc hup hclass, ← hv]
    exact ⟨fun hdone => congrArg Host.Outcome.next (if_neg hdone), fun hwaits => congrArg Host.Outcome.next (if_pos hwaits)⟩
  case served => rw [exec_mcRingRequest, State.mcAsk_of_idle hempty hcp]
  case waits => rw [exec_mcRingRequest, State.mcAsk_of_no_cp hcp]

end Sys2Proof.Machine
end

section
/-! PROOFS. Right after reset, with nothing to do, and from sweep start on (R30, R32, R40). -/

namespace Sys2Proof.Machine

theorem rd_reset (f : Fld) (i : Nat) : State.reset.rd f i = f.resetVal false := rfl

/-- Settles O60: each part is as `State.reset` lists it, each register as its table does. -/
theorem whatResetLeaves : Obligations.WhatResetLeaves := by
  refine ⟨rfl, rfl, rfl, rfl, ?len, rd_reset .TURN_COUNT_COUNT 0, rd_reset .TOK_BUDGET_CUR 0, rfl, rfl, rfl, rfl, rfl, rfl, rfl, rd_reset⟩
  case len => exact congrArg (fun k => 2 ^ (18 + k)) (rd_reset .TURN_LEN_LEN_ACTIVE 0)

/-- A fold whose every step leaves the start as it is. -/
theorem foldl_eq_of_mem {α β : Type} {l : List α} {f : β → α → β} {b : β} (h : ∀ x ∈ l, f b x = b) : l.foldl f b = b := by
  induction l with
  | nil => rfl
  | cons x l ih =>
    rw [List.foldl_cons, h x (List.mem_cons_self ..)]
    exact ih fun y hy => h y (List.mem_cons_of_mem _ hy)

namespace State

variable {s : State}

/-- With no counter enabled an event is only noted (R357). -/
theorem evFrom_of_no_counter (h : ∀ i < 64, s.rd .PMC_SEL_EN i = 0) (code q inst t n : Nat) : (s.evFrom code q inst t n).regs = s.regs := by
  have hm : ∀ i ∈ List.range 64, s.pmcMatch i code q inst = false := fun i hi => by
    simp [pmcMatch, flag, h i (List.mem_range.1 hi)]
  unfold evFrom
  split
  · rfl
  · simp only [setH_regs]
    rw [foldl_eq_of_mem fun i hi => by simp [hm i hi]]

theorem goTo_regs_of_no_counter (h : ∀ i < 64, s.rd .PMC_SEL_EN i = 0) (t : Nat) : (s.goTo t).regs = s.regs := by
  unfold goTo
  split
  · exact evFrom_of_no_counter h ..
  · rfl

end State

open State

theorem step_of_empty {s : State} (h : s.pending = []) : step s = .next (s.goTo (s.pos + 1)) := by
  rw [step, h]
  rfl

/-- Settles O2: an idle step is a wait for the next cycle. -/
theorem emptyQueueIdles : Obligations.EmptyQueueIdles := by
  intro s hp h0
  refine ⟨_, step_of_empty hp, goTo_pos _ h0, goTo_turn0 _, (goTo_pending _).trans hp, fun f i hf => goTo_rd hf _ i, goTo_mem _, goTo_ops _,
    fun hoff f i => ?_⟩
  rw [rd, rd, goTo_lt09, goTo_regs_of_no_counter hoff]

namespace State

variable {s : State}

theorem goTo_cycS (t : Nat) : (s.goTo t).cycS = s.cycS := by
  unfold cycS
  rw [goTo_rd rfl]

/-- No decision falls on cycle S or later (R40). -/
theorem admission_of_sweep {q : Nat} (h : s.cycS ≤ s.pos) : s.admission q = s := if_pos (.inl h)

end State

/-- Settles O13: the wait does not go back before S. -/
theorem nothingIsAdmittedFromS : Obligations.NothingIsAdmittedFromS := by
  intro s q t h0 hS
  have hS' : (s.goTo t).cycS ≤ (s.goTo t).pos := by
    rw [goTo_cycS, goTo_pos t h0]
    exact hS.trans (Nat.le_max_left ..)
  exact congrArg Host.Outcome.next (admission_of_sweep hS')

end Sys2Proof.Machine
end

section
/-! PROOFS. The cycles of a turn's schedule, and what its steps take of the turn (R31, R45, R46, R50). -/

namespace Sys2Proof.Machine
namespace State
variable {s : State}

/-! The cycles of the schedule by the length of the turn (R31, R45, R46, R50). -/

theorem len_ge : 2 ^ 18 ≤ s.len := Nat.pow_le_pow_right (by decide) (Nat.le_add_right ..)

theorem cycS_eq : s.cycS = s.len - 16384 := by
  rw [cycS, len, pow_add, pow_add]
  omega

theorem cycP_eq : s.cycP = s.len - 5120 := by
  rw [cycP, len, pow_add, pow_add]
  omega

theorem cycD_eq : s.cycD = s.len - 4352 := by
  rw [cycD, len, pow_add, pow_add]
  omega

theorem cycW_eq (w : Nat) : s.cycW w = s.len - 4096 + w := by
  rw [cycW, len, pow_add, pow_add]
  omega

/-- The cycle of the turn on which step `k` of its schedule falls. -/
def schedCyc (s : State) (k : Nat) : Nat :=
  match k with
  | 1 => s.cycS
  | 2 => s.cycP
  | 3 => s.cycD
  | 4 => s.cycW 256
  | 5 => s.cycW 258
  | 6 => s.cycW 512
  | 7 => s.cycW 2560
  | 8 => s.cycW 3584
  | _ => s.cycW 3840

/-- What step `k` of the schedule does in its cycle. -/
def schedAct (s : State) (k : Nat) : State :=
  match k with
  | 1 => s.sweep
  | 2 => s.parkDeadline
  | 3 => s.drain
  | 4 => s.balance []
  | 5 => s.correct
  | 6 => s.applyStaged
  | 7 => s.applyKeys
  | 8 => s.loadBudget true [] 0 0 0 0
  | _ => s.rebuildQueues

theorem schedStep_eq (k : Nat) : s.schedStep k = (s.goTo (s.schedCyc k)).schedAct k := by
  match k with
  | 0 | 1 | 2 | 3 | 4 | 5 | 6 | 7 | 8 | _ + 9 => simp only [schedStep, schedCyc, schedAct]

/-- No time passes, and the length in force and the count of turns stay. -/
structure Steady (s t : State) : Prop where
  now : t.now = s.now
  turn0 : t.turn0 = s.turn0
  len : t.rd .TURN_LEN_LEN_ACTIVE 0 = s.rd .TURN_LEN_LEN_ACTIVE 0
  count : t.rd .TURN_COUNT_COUNT 0 = s.rd .TURN_COUNT_COUNT 0

theorem Steady.trans {s t u : State} (h1 : s.Steady t) (h2 : t.Steady u) : s.Steady u :=
  ⟨h2.now.trans h1.now, h2.turn0.trans h1.turn0, h2.len.trans h1.len, h2.count.trans h1.count⟩

theorem Still.steady {s t : State} (h : s.Still t) : s.Steady t := ⟨h.now, h.turn0, h.regs _ _ rfl, h.regs _ _ rfl⟩

theorem wr_steady (f : Fld) (i v : Nat) (hl : f ≠ .TURN_LEN_LEN_ACTIVE) (hc : f ≠ .TURN_COUNT_COUNT) : s.Steady (s.wr f i v) :=
  ⟨rfl, rfl, rd_wr_field _ _ _ hl, rd_wr_field _ _ _ hc⟩

/-- B and F of the next turn, put in force (R18, R36, R386). -/
def deliverBudget (s : State) (late : Bool) (modMetered fixed vmin tmax : Nat) : State :=
  if late && !decide (s.h .mcNext 0 = 1) then (s.wr .TOK_BUDGET_LATE 0 1).mcLog 1 15 0
  else
    let u := s.thermal vmin tmax
    let n := u.nextBudget modMetered vmin
    let b := if s.h .mcNext 0 = 1 then s.rd .TOK_BUDGET_NEXT 0 else n.1
    let f := if s.h .mcFixed 0 = 1 then s.rd .TOK_FIXED_FIXED 0 else fixed
    (((((((u.setH .balE 0 0).setH .carryE 0 n.2.1).wr .PWR_STAT_C_EFF 0 n.2.2).wr .TOK_BUDGET_NEXT 0 b).wr .TOK_BUDGET_CUR 0 b).wr
      .TOK_FIXED_FIXED 0 f).wr .TOK_BUDGET_LATE 0 0)

/-- B and F in force are shared out to the quarters, with what F and the shares leave in reserve (R36). -/
def shareBudget (s : State) (metered : List Nat) : State :=
  let b := s.rd .TOK_BUDGET_CUR 0
  let f := s.rd .TOK_FIXED_FIXED 0
  let u := (List.range s.nQ).foldl (fun (s : State) (q : Nat) => s.allotQ b f metered q) s
  (u.setH .fixedAct 0 (min f b)).setH .reserve 0 (b - f - ((List.range u.nQ).map (fun q => u.h .gross q)).sum)

theorem loadBudget_eq (late : Bool) (metered : List Nat) (modMetered fixed vmin tmax : Nat) :
    s.loadBudget late metered modMetered fixed vmin tmax =
      (((s.deliverBudget late modMetered fixed vmin tmax).setH .mcNext 0 0).setH .mcFixed 0 0).shareBudget metered := by
  unfold loadBudget deliverBudget shareBudget
  simp only [decide_eq_true_eq]

theorem deliverBudget_steady (late : Bool) (modMetered fixed vmin tmax : Nat) : s.Steady (s.deliverBudget late modMetered fixed vmin tmax) := by
  unfold deliverBudget
  split
  · exact (wr_steady _ _ _ (by decide) (by decide)).trans (mcLog_still (.refl _) ..).steady
  · refine (setH_still (setH_still (thermal_still (.refl s) vmin tmax) .balE 0 0) .carryE 0 _).steady.trans
      (((((wr_steady .PWR_STAT_C_EFF 0 _ ?_ ?_).trans (wr_steady .TOK_BUDGET_NEXT 0 _ ?_ ?_)).trans
      (wr_steady .TOK_BUDGET_CUR 0 _ ?_ ?_)).trans (wr_steady .TOK_FIXED_FIXED 0 _ ?_ ?_)).trans (wr_steady .TOK_BUDGET_LATE 0 _ ?_ ?_))
    all_goals decide

theorem shareBudget_still (metered : List Nat) : s.Still (s.shareBudget metered) :=
  setH_still (setH_still (Still.foldl (.refl s) fun u _ => allotQ_still (.refl u) ..) ..) ..

theorem loadBudget_steady (late : Bool) (metered : List Nat) (modMetered fixed vmin tmax : Nat) :
    s.Steady (s.loadBudget late metered modMetered fixed vmin tmax) := by
  rw [loadBudget_eq]
  exact ((deliverBudget_steady ..).trans (setH_still (setH_still (.refl _) ..) ..).steady).trans (shareBudget_still _).steady

end State
end Sys2Proof.Machine
end

section
/-! PROOFS. The schedule of a turn, step by step (R15, R50). -/

namespace Sys2Proof.Machine
namespace State
variable {s : State}

theorem schedAct_steady {k : Nat} (h1 : 1 ≤ k) (h8 : k ≤ 8) : s.Steady (s.schedAct k) := by
  have hs := Still.refl s
  match k with
  | 1 => exact (sweep_still hs).steady
  | 2 => exact (parkDeadline_still hs).steady
  | 3 => exact (drain_still hs).steady
  | 4 => exact (balance_still hs _).steady
  | 5 => exact (correct_still hs).steady
  | 6 => exact (applyStaged_still hs).steady
  | 7 => exact (applyKeys_still hs).steady
  | 8 => exact loadBudget_steady ..

/-- The rebuild but for TURN_COUNT, with which it ends. -/
def requeue (s : State) : State :=
  let ids := (s.ops.filter (fun o => o.phase == .parked || o.phase == .resuming)).map (·.id)
  let u := ids.foldl (fun (s : State) (id : Nat) => s.rebuildOp id) s
  { u with resumeQ := ((u.ops.filter (fun o => o.phase == .resuming)).mergeSort resumeBefore).map (fun (o : Op) => o.id) }

theorem rebuildQueues_eq : s.rebuildQueues = s.requeue.wr .TURN_COUNT_COUNT 0 (s.requeue.rd .TURN_COUNT_COUNT 0 + 1) := rfl

theorem requeue_still : s.Still s.requeue :=
  Still.upd (Still.foldl (.refl s) fun u id => rebuildOp_still (.refl u) id) rfl rfl rfl rfl

/-- The last step adds one to TURN_COUNT (R50). -/
theorem rebuildQueues_count : s.rebuildQueues.rd .TURN_COUNT_COUNT 0 = (s.rd .TURN_COUNT_COUNT 0 + 1) % 2 ^ 64 := by
  rw [rebuildQueues_eq, rd_wr_same, requeue_still.regs _ _ rfl]
  rfl

/-- A step of the schedule takes no time in its cycle. -/
theorem schedAct_time {k : Nat} (h1 : 1 ≤ k) :
    (s.schedAct k).now = s.now ∧ (s.schedAct k).turn0 = s.turn0 ∧ (s.schedAct k).rd .TURN_LEN_LEN_ACTIVE 0 = s.rd .TURN_LEN_LEN_ACTIVE 0 := by
  by_cases h8 : k ≤ 8
  · have h := schedAct_steady (s := s) h1 h8
    exact ⟨h.now, h.turn0, h.len⟩
  · obtain ⟨j, rfl⟩ := Nat.exists_eq_add_of_le' (Nat.lt_of_not_le h8)
    have h := requeue_still (s := s)
    exact ⟨h.now, h.turn0, (rd_wr_field _ _ _ (by decide)).trans (h.regs _ _ rfl)⟩

/-! The steps that a turn has had are not made again, and those up to `k` are made in order (R15, R50). -/

theorem schedTo_zero : s.schedTo 0 = s := rfl

theorem schedTo_succ (k : Nat) :
    s.schedTo (k + 1) = if (s.schedTo k).h .sched 0 = k then ((s.schedTo k).schedStep (k + 1)).setH .sched 0 (k + 1) else s.schedTo k := by
  rw [schedTo, List.range_succ, List.foldl_append]
  rfl

theorem schedTo_sched (k : Nat) : (s.schedTo k).h .sched 0 = max k (s.h .sched 0) := by
  induction k with
  | zero => rw [schedTo_zero, Nat.zero_max]
  | succ k ih =>
    rw [schedTo_succ]
    split
    · next h =>
      rw [h_setH_same]
      omega
    · omega

theorem schedTo_of_done {k : Nat} (h : k ≤ s.h .sched 0) : s.schedTo k = s := by
  induction k with
  | zero => rfl
  | succ k ih =>
    rw [schedTo_succ, ih (by omega), if_neg (by omega)]

theorem schedTo_of_due {k : Nat} (h : s.h .sched 0 ≤ k) :
    s.schedTo (k + 1) = ((s.schedTo k).schedStep (k + 1)).setH .sched 0 (k + 1) := by
  rw [schedTo_succ, if_pos]
  rw [schedTo_sched]
  omega

/-- The steps before have been made: the next one, in its cycle. -/
theorem schedTo_next {k : Nat} (h : s.h .sched 0 = k) : s.schedTo (k + 1) = (s.schedStep (k + 1)).setH .sched 0 (k + 1) := by
  rw [schedTo_of_due (Nat.le_of_eq h), schedTo_of_done (Nat.le_of_eq h.symm)]

theorem schedDo_of_due {k : Nat} (h : s.h .sched 0 ≤ k) (f : State → State) :
    s.schedDo (k + 1) f = (f (s.schedTo k)).setH .sched 0 (k + 1) := if_neg (by omega)

/-- Between the start of a turn and cycle `n`: the turn goes on, and its cycle is `n`, or where it was if that lies later. -/
structure Reaches (s t : State) (n : Nat) : Prop where
  turn0 : t.turn0 = s.turn0
  len : t.rd .TURN_LEN_LEN_ACTIVE 0 = s.rd .TURN_LEN_LEN_ACTIVE 0
  now : t.now = s.turn0 + max s.pos n

theorem Reaches.pos {t : State} {n : Nat} (h : s.Reaches t n) : t.pos = max s.pos n := by
  rw [State.pos, h.now, h.turn0]
  omega

theorem Reaches.len_eq {t : State} {n : Nat} (h : s.Reaches t n) : t.len = s.len := by rw [State.len, h.len, State.len]

theorem Reaches.refl (h : s.turn0 ≤ s.now) : s.Reaches s 0 := ⟨rfl, rfl, by rw [State.pos]; omega⟩

theorem Reaches.goTo {t : State} {m n : Nat} (h : s.Reaches t m) (hn : n < s.len) (hmn : m ≤ n) : s.Reaches (t.goTo n) n := by
  have h0 : t.turn0 ≤ t.now := by rw [h.turn0, h.now]; omega
  refine ⟨(goTo_turn0 n).trans h.turn0, (goTo_rd rfl ..).trans h.len, ?_⟩
  rw [goTo_now n h0, goTo_pos n h0, h.pos, h.turn0, h.len_eq]
  omega

theorem Reaches.still {t u : State} {n : Nat} (h : s.Reaches t n) (hn : u.now = t.now) (h0 : u.turn0 = t.turn0)
    (hl : u.rd .TURN_LEN_LEN_ACTIVE 0 = t.rd .TURN_LEN_LEN_ACTIVE 0) : s.Reaches u n := ⟨h0.trans h.turn0, hl.trans h.len, hn.trans h.now⟩

theorem Reaches.steady {t u : State} {n : Nat} (h : s.Reaches t n) (hu : t.Steady u) : s.Reaches u n := h.still hu.now hu.turn0 hu.len

theorem Reaches.setH {t : State} {n : Nat} (h : s.Reaches t n) (x : Hid) (i v : Nat) : s.Reaches (t.setH x i v) n := h.still rfl rfl rfl

theorem schedCyc_congr {t : State} (h : t.rd .TURN_LEN_LEN_ACTIVE 0 = s.rd .TURN_LEN_LEN_ACTIVE 0) (k : Nat) : t.schedCyc k = s.schedCyc k := by
  unfold schedCyc cycS cycP cycD cycW
  rw [h]

/-- The steps fall on rising cycles of the turn. -/
theorem schedCyc_lt_len (k : Nat) : s.schedCyc k < s.len := by
  have h := len_ge (s := s)
  unfold schedCyc
  rw [cycS_eq, cycP_eq, cycD_eq]
  simp only [cycW_eq]
  split <;> omega

theorem schedCyc_mono {k : Nat} (h1 : 1 ≤ k) (h9 : k < 9) : s.schedCyc k ≤ s.schedCyc (k + 1) := by
  have h := len_ge (s := s)
  unfold schedCyc
  rw [cycS_eq, cycP_eq, cycD_eq]
  simp only [cycW_eq]
  interval_cases k <;> simp only <;> omega

theorem Reaches.schedStep {t : State} {m k : Nat} (h : s.Reaches t m) (hk : 1 ≤ k) (hm : m ≤ s.schedCyc k) : s.Reaches (t.schedStep k) (s.schedCyc k) := by
  rw [schedStep_eq, schedCyc_congr h.len]
  obtain ⟨hn, h0, hl⟩ := schedAct_time (s := t.goTo (s.schedCyc k)) hk
  exact (h.goTo (schedCyc_lt_len k) hm).still hn h0 hl

/-- With the steps up to `k` made, the turn has reached the cycle of step `k`. -/
theorem schedTo_reaches {k : Nat} (h0 : s.turn0 ≤ s.now) (h9 : k < 9) :
    ∃ m ≤ s.schedCyc (k + 1), s.Reaches (s.schedTo k) m := by
  induction k with
  | zero => exact ⟨0, Nat.zero_le _, .refl h0⟩
  | succ k ih =>
    obtain ⟨m, hm, hr⟩ := ih (by omega)
    rw [schedTo_succ]
    split
    · exact ⟨s.schedCyc (k + 1), schedCyc_mono (by omega) h9, (hr.schedStep (by omega) hm).setH ..⟩
    · exact ⟨m, hm.trans (schedCyc_mono (by omega) h9), hr⟩

/-- The step `k + 1`, not made yet, is made in its cycle. -/
theorem schedTo_succ_reaches {k : Nat} (h0 : s.turn0 ≤ s.now) (h9 : k < 9) (hk : s.h .sched 0 ≤ k) :
    s.Reaches (s.schedTo (k + 1)) (s.schedCyc (k + 1)) := by
  obtain ⟨m, hm, hr⟩ := schedTo_reaches h0 h9
  rw [schedTo_of_due hk]
  exact (hr.schedStep (by omega) hm).setH ..

/-- TURN_COUNT stays up to the last step. -/
theorem schedTo_count {k : Nat} (h8 : k ≤ 8) : (s.schedTo k).rd .TURN_COUNT_COUNT 0 = s.rd .TURN_COUNT_COUNT 0 := by
  induction k with
  | zero => rfl
  | succ k ih =>
    rw [schedTo_succ]
    split
    · rw [rd_setH, schedStep_eq, (schedAct_steady (by omega) h8).count, goTo_rd rfl, ih (by omega)]
    · exact ih (by omega)

theorem schedTo_nine_count (h : s.h .sched 0 < 9) : (s.schedTo 9).rd .TURN_COUNT_COUNT 0 = (s.rd .TURN_COUNT_COUNT 0 + 1) % 2 ^ 64 := by
  rw [schedTo_of_due (k := 8) (by omega), rd_setH, schedStep_eq]
  refine rebuildQueues_count.trans ?_
  rw [goTo_rd rfl, schedTo_count (Nat.le_refl 8)]
end State
end Sys2Proof.Machine
end

section
/-! PROOFS. The commands of a turn and the cycles on which they fall (R31, R374). -/

namespace Sys2Proof.Machine
namespace State
variable {s : State}

/-- A command that waits for a later cycle of the turn. -/
theorem Reaches.waits {t : State} {n : Nat} (h : s.Reaches t n) (hn : s.pos < n) : t.turn0 = s.turn0 ∧ t.pos = n :=
  ⟨h.turn0, by rw [h.pos]; omega⟩

theorem schedDo_succ_reaches {k : Nat} {f : State → State} (h0 : s.turn0 ≤ s.now) (h9 : k < 9) (hk : s.h .sched 0 ≤ k)
    (hf : ∀ u : State, (u.goTo (u.schedCyc (k + 1))).Steady (f u)) : s.Reaches (s.schedDo (k + 1) f) (s.schedCyc (k + 1)) := by
  obtain ⟨m, hm, hr⟩ := schedTo_reaches h0 h9
  rw [schedDo_of_due hk]
  refine Reaches.setH ((hr.goTo (schedCyc_lt_len _) hm).steady ?_) ..
  rw [← schedCyc_congr hr.len]
  exact hf _

/-- The step `k + 1`, not made yet, waits for its cycle. -/
theorem schedTo_waits {k n : Nat} (h0 : s.turn0 ≤ s.now) (hn : s.pos < n) (h9 : k < 9) (hk : s.h .sched 0 < k + 1) (hc : s.schedCyc (k + 1) = n) :
    (s.schedTo (k + 1)).turn0 = s.turn0 ∧ (s.schedTo (k + 1)).pos = n :=
  hc ▸ (schedTo_succ_reaches h0 h9 (Nat.le_of_lt_succ hk)).waits (hc ▸ hn)

/-- So does one with what comes with it. -/
theorem schedDo_waits {k n : Nat} {f : State → State} (h0 : s.turn0 ≤ s.now) (hn : s.pos < n) (h9 : k < 9) (hk : s.h .sched 0 < k + 1)
    (hc : s.schedCyc (k + 1) = n) (hf : ∀ u : State, (u.goTo (u.schedCyc (k + 1))).Steady (f u)) :
    (s.schedDo (k + 1) f).turn0 = s.turn0 ∧ (s.schedDo (k + 1) f).pos = n :=
  hc ▸ (schedDo_succ_reaches h0 h9 (Nat.le_of_lt_succ hk) hf).waits (hc ▸ hn)

/-- The flow sampled at a mark, and what a low or a sufficient one brings (R392). -/
def sampleFlow (s : State) (flow : Nat) : State :=
  let u := s.wr .PWR_STAT_FLOW 0 (min flow 255)
  if flow < 36 then ((u.mark .PWR_STAT_FLOW_LOW 0).setH .flowLow 0 1).mcLog 16 15 flow
  else if 38 < flow then u.setH .flowLow 0 0
  else u

theorem exec_turnMark {m : Nat} (h : m < 8) (flow : Nat) :
    exec (.turnMark m flow) s = .next (((s.goTo (m * s.len / 8)).dump m).sampleFlow flow) := by
  change execTurnMark m flow s = _
  rw [execTurnMark, if_neg (by omega), sampleFlow]
  simp only [apply_ite Host.Outcome.next]

theorem sampleFlow_still (flow : Nat) : s.Still (s.sampleFlow flow) := by
  have h : s.Still (s.wr .PWR_STAT_FLOW 0 (min flow 255)) := wr_still (.refl s) _ _ _ rfl
  unfold sampleFlow
  exact (mcLog_still (setH_still (mark_still h _ _ rfl) ..) ..).ite ((setH_still h ..).ite h)

theorem mark_lt_len {m : Nat} (h : m < 8) : m * s.len / 8 < s.len := by
  have := Nat.mul_le_mul_right s.len (Nat.le_of_lt_succ h)
  have := len_ge (s := s)
  omega

theorem turnMark_reaches {m : Nat} (h0 : s.turn0 ≤ s.now) (h : m < 8) (flow : Nat) :
    s.Reaches (((s.goTo (m * s.len / 8)).dump m).sampleFlow flow) (m * s.len / 8) :=
  (((Reaches.refl h0).goTo (mark_lt_len h) (Nat.zero_le _)).steady (dump_still (.refl _) m).steady).steady (sampleFlow_still flow).steady
end State

open State

/-- Settles O10: a mark is reached by waiting alone, a step of the schedule by making those before it in their cycles. -/
theorem turnCommandsFallOnTheirCycles : Obligations.TurnCommandsFallOnTheirCycles := by
  intro c s n hc hk h0 hn
  cases c
  case turnMark m flow =>
    obtain ⟨hm, rfl⟩ : m < 8 ∧ m * s.len / 8 = n := by simpa [Instr.fallsOn] using hc
    exact ⟨_, exec_turnMark hm flow, (turnMark_reaches h0 hm flow).waits hn⟩
  case sweepStart => exact ⟨_, rfl, schedTo_waits (k := 0) h0 hn (by decide) (hk _ rfl) (cycS_eq.trans (Option.some.inj hc))⟩
  case parkDeadline => exact ⟨_, rfl, schedTo_waits (k := 1) h0 hn (by decide) (hk _ rfl) (cycP_eq.trans (Option.some.inj hc))⟩
  case drainDeadline => exact ⟨_, rfl, schedTo_waits (k := 2) h0 hn (by decide) (hk _ rfl) (cycD_eq.trans (Option.some.inj hc))⟩
  case balanceCheck upsets =>
    have hs : s.h .sched 0 < 4 := hk _ rfl
    exact ⟨_, if_neg (Nat.ne_of_lt hs), schedDo_waits (k := 3) h0 hn (by decide) hs ((cycW_eq _).trans (Option.some.inj hc))
      fun u => (balance_still (.refl _) upsets).steady⟩
  case stagedConfigurationApply =>
    exact ⟨_, rfl, schedTo_waits (k := 5) h0 hn (by decide) (hk _ rfl) ((cycW_eq _).trans (Option.some.inj hc))⟩
  case keyApply => exact ⟨_, rfl, schedTo_waits (k := 6) h0 hn (by decide) (hk _ rfl) ((cycW_eq _).trans (Option.some.inj hc))⟩
  case tokenBudgetLoad =>
    exact ⟨_, rfl, schedDo_waits (k := 7) h0 hn (by decide) (hk _ rfl) ((cycW_eq _).trans (Option.some.inj hc)) fun u => loadBudget_steady ..⟩
  case resumeQueueRebuild => exact ⟨_, rfl, schedTo_waits (k := 8) h0 hn (by decide) (hk _ rfl) ((cycW_eq _).trans (Option.some.inj hc))⟩
  all_goals cases hc

end Sys2Proof.Machine
end

section
/-! PROOFS. The end of a turn and the start of the next (R30, R51, R52). -/

namespace Sys2Proof.Machine
namespace State
variable {s : State}

/-- A turn starts in the present cycle, with the length that the window put in force (R30, R51). -/
def openTurn (s : State) : State :=
  let u := { s with turn0 := s.now, suspects := [] }.setH .sched 0 0
  if u.h .lenNext 0 = 0 then u else u.wr .TURN_LEN_LEN_ACTIVE 0 (u.h .lenNext 0 - 1)

theorem openTurn_now : s.openTurn.now = s.now := by
  simp only [openTurn]
  split <;> rfl

theorem openTurn_turn0 : s.openTurn.turn0 = s.now := by
  simp only [openTurn]
  split <;> rfl

theorem openTurn_count : s.openTurn.rd .TURN_COUNT_COUNT 0 = s.rd .TURN_COUNT_COUNT 0 := by
  simp only [openTurn]
  split
  · rfl
  · exact rd_wr_field _ _ _ (by decide)

theorem openTurn_len : s.openTurn.rd .TURN_LEN_LEN_ACTIVE 0 =
    if s.h .lenNext 0 = 0 then s.rd .TURN_LEN_LEN_ACTIVE 0 else (s.h .lenNext 0 - 1) % 8 := by
  have h : ({ s with turn0 := s.now, suspects := [] }.setH .sched 0 0).h .lenNext 0 = s.h .lenNext 0 := h_setH_name _ _ _ (by decide)
  simp only [openTurn, h]
  split
  · rfl
  · exact rd_wr_same ..

/-- The counts of a turn that begin anew with it take no time. -/
theorem beginTurn_still : s.openTurn.Still s.beginTurn := by
  unfold beginTurn
  refine recheckHeaders_still (Still.foldl (zeroRegs_still (settleUnits_still ?_)) fun u q => releaseQuarter_still (chargeBank_still (.refl u) q) q)
  refine Still.foldl ?_ fun u k => Still.ite (mark_still (.refl u) _ _ rfl) (.refl u)
  refine Still.foldl ?_ fun u i => setH_still (.refl u) ..
  refine Still.foldl ?_ fun u p => clearAer_still (setH_still (setH_still (.refl u) ..) ..) p
  refine Still.foldl ?_ fun u e => wr_still (.refl u) _ _ _ rfl
  refine Still.foldl (.refl _) fun u q => ?_
  exact setH_still (wr_still (setH_still (setH_still (setH_still (.refl u) ..) ..) ..) _ _ _ rfl) ..

/-- What is held over the boundary window is served in cycle 0 (R52). -/
def serveAtStart (s : State) : State :=
  let s1 := s.retryHeld
  let s2 := s1.heldCores.foldl (fun (s : State) (x : CoreAcc) => s.coreAccess x) { s1 with heldCores := [] }
  s2.heldTap.foldl (fun (s : State) (dr : Nat) => s.tapLine dr) { s2 with heldTap := [] }

theorem serveAtStart_still : s.Still s.serveAtStart := by
  have h1 : s.Still { s.retryHeld with heldCores := [] } := Still.upd (retryHeld_still (.refl s)) rfl rfl rfl rfl
  have h2 := Still.foldl (l := s.retryHeld.heldCores) h1 fun u x => coreAccess_still (.refl u) x
  exact Still.foldl (Still.upd h2 rfl rfl rfl rfl) fun u dr => tapLine_still (.refl u) dr

theorem exec_turnStart : exec .turnStart s = .next s.newTurn.serveAtStart := rfl

/-- The state at the end of the last cycle of a turn whose schedule is complete. -/
def lastCycle (s : State) : State := (s.schedTo 9).advance ((s.schedTo 9).len - (s.schedTo 9).pos)

theorem newTurn_eq : s.newTurn = s.lastCycle.beginTurn := rfl

theorem advance_h {x : Hid} (n i : Nat) (h : x ≠ .evLast) (h2 : x ≠ .setAt) : (s.advance n).h x i = s.h x i :=
  (ev_counts (s := s) 0x100 15 0 n).hid x i h h2

/-- With the whole schedule made, the turn has not passed its end. -/
theorem schedTo_nine_reaches (h0 : s.turn0 ≤ s.now) : ∃ m < s.len, s.Reaches (s.schedTo 9) m := by
  obtain ⟨m, hm, hr⟩ := schedTo_reaches (k := 8) h0 (by decide)
  have hlt := schedCyc_lt_len (s := s) 9
  rw [schedTo_succ]
  split
  · exact ⟨_, hlt, (hr.schedStep (by decide) hm).setH ..⟩
  · exact ⟨m, hm.trans_lt hlt, hr⟩

theorem lastCycle_now (h0 : s.turn0 ≤ s.now) (hp : s.pos ≤ s.len) : s.lastCycle.now = s.turn0 + s.len := by
  obtain ⟨m, hm, hr⟩ := schedTo_nine_reaches h0
  rw [lastCycle, advance_now, hr.pos, hr.len_eq, hr.now]
  omega

end State
open State

/-- Settles O9: the schedule is completed, the time goes on to the end of the turn, and what follows takes none. -/
theorem turnStartBeginsATurn : Obligations.TurnStartBeginsATurn := by
  intro s
  refine ⟨fun hs => ⟨s.schedTo 9, rfl, ?_, schedTo_nine_count hs⟩, fun hs => ?_, fun h0 hp => ?_⟩
  · rw [schedTo_sched]
    omega
  · exact congrArg Host.Outcome.next (schedTo_of_done (Nat.le_of_eq hs.symm))
  have h := (beginTurn_still (s := s.lastCycle)).trans serveAtStart_still
  have hn := lastCycle_now h0 hp
  have hnow := h.now.trans (openTurn_now.trans hn)
  have hturn0 := h.turn0.trans (openTurn_turn0.trans hn)
  have hcount : (s.newTurn.serveAtStart).rd .TURN_COUNT_COUNT 0 = (s.schedTo 9).rd .TURN_COUNT_COUNT 0 :=
    (h.regs _ _ rfl).trans (openTurn_count.trans (advance_rd rfl ..))
  refine ⟨_, exec_turnStart, hturn0, hnow.trans hturn0.symm, ?_, fun hs => hcount.trans (schedTo_nine_count hs), fun hs => ⟨?_, ?_⟩⟩
  · exact Nat.sub_eq_zero_of_le (Nat.le_of_eq (hnow.trans hturn0.symm))
  · rw [hcount, schedTo_of_done (Nat.le_of_eq hs.symm)]
  · rw [newTurn_eq, h.regs _ _ rfl, openTurn_len, lastCycle, schedTo_of_done (Nat.le_of_eq hs.symm), advance_rd rfl]
    rw [advance_h _ _ (by decide) (by decide)]
end Sys2Proof.Machine
end

section
/-! PROOFS. The coolant flow sampled at a turn mark (R359, R392). -/

namespace Sys2Proof.Machine
namespace State
variable {s : State}

/-! Reads after a mark and after a count (Table 0-4). -/

theorem rd_mark_same (f : Fld) (i : Nat) : (s.mark f i).rd f i = 1 % 2 ^ f.width := by
  unfold mark
  split
  · rw [rd_setH, rd_wr_same]
  · exact rd_wr_same ..

theorem rd_mark_field {f g : Fld} (i j : Nat) (h : f ≠ g) : (s.mark f i).rd g j = s.rd g j := by
  unfold mark
  split
  · rw [rd_setH, rd_wr_field _ _ _ h]
  · exact rd_wr_field _ _ _ h

theorem h_mark {x : Hid} (f : Fld) (i j : Nat) (h : x ≠ .setAt) : (s.mark f i).h x j = s.h x j := by
  unfold mark
  split
  · exact h_setH_name _ _ _ h.symm
  · rfl

theorem rd_bump_field {f g : Fld} (i j n : Nat) (h : f ≠ g) : (s.bump f i n).rd g j = s.rd g j := by
  unfold bump
  simp only
  split
  · rw [rd_setH, rd_setH, rd_wr_field _ _ _ h]
  · exact rd_wr_field _ _ _ h

theorem h_bump {x : Hid} (f : Fld) (i j n : Nat) (h : x ≠ .rcNew) (h2 : x ≠ .setAt) : (s.bump f i n).h x j = s.h x j := by
  unfold bump
  simp only
  split
  · rw [h_setH_name _ _ _ h2.symm, h_setH_name _ _ _ h.symm, h_wr]
  · rfl

/-- A dump reaches host memory, or is counted as lost (R359). -/
theorem dump_cases (m : Nat) :
    s.dump m = s ∨ (∃ n, (s.setH .dumpSeq 0 n).Posts (s.dump m)) ∨ ∃ n, s.dump m = (s.setH .dumpSeq 0 n).bump .PMC_DUMP_CFG_LOST 0 1 := by
  unfold dump
  simp only
  split
  · exact .inl rfl
  · split
    · exact .inr (.inl ⟨_, setBytes_posts (.refl _) ..⟩)
    · exact .inr (.inr ⟨_, rfl⟩)

theorem rd_dump {f : Fld} (m i : Nat) (hp : f.posts = false) (h : f ≠ .PMC_DUMP_CFG_LOST) : (s.dump m).rd f i = s.rd f i := by
  obtain he | ⟨n, hn⟩ | ⟨n, he⟩ := dump_cases (s := s) m
  · rw [he]
  · exact hn.regs f i hp
  · rw [he, rd_bump_field _ _ _ h.symm, rd_setH]

theorem h_dump {x : Hid} (m i : Nat) (hp : x.posts = false) (h : x ≠ .dumpSeq) : (s.dump m).h x i = s.h x i := by
  have hseq (n : Nat) : (s.setH .dumpSeq 0 n).h x i = s.h x i := h_setH_name _ _ _ h.symm
  have hne {y : Hid} (hy : y.posts = true) : x ≠ y := fun he => by simp [he, hy] at hp
  obtain he | ⟨n, hn⟩ | ⟨n, he⟩ := dump_cases (s := s) m
  · rw [he]
  · exact (hn.hid x i hp).trans (hseq n)
  · rw [he, h_bump _ _ _ _ (hne rfl) (hne rfl), hseq]

section SampleFlow

variable {flow : Nat}

theorem rd_sampleFlow_flow : (s.sampleFlow flow).rd .PWR_STAT_FLOW 0 = min flow 255 := by
  have hf : (s.wr .PWR_STAT_FLOW 0 (min flow 255)).rd .PWR_STAT_FLOW 0 = min flow 255 :=
    rd_wr_fits _ _ _ (Nat.lt_of_le_of_lt (Nat.min_le_right ..) (by decide))
  simp only [sampleFlow]
  split
  · rw [(mcLog_posts (.refl _) ..).regs _ _ rfl, rd_setH, rd_mark_field _ _ (by decide), hf]
  · split
    · rw [rd_setH, hf]
    · exact hf

/-- Below 1.8 L/min. -/
theorem sampleFlow_of_low (h : flow < 36) :
    (s.sampleFlow flow).rd .PWR_STAT_FLOW_LOW 0 = 1 ∧ (s.sampleFlow flow).h .flowLow 0 = 1 := by
  have hp := mcLog_posts (.refl (((s.wr .PWR_STAT_FLOW 0 (min flow 255)).mark .PWR_STAT_FLOW_LOW 0).setH .flowLow 0 1)) 16 15 flow
  simp only [sampleFlow, if_pos h]
  exact ⟨(hp.regs _ _ rfl).trans (rd_mark_same ..), (hp.hid _ _ rfl).trans (h_setH_same ..)⟩

theorem sampleFlow_of_between (h : 36 ≤ flow) (h' : flow ≤ 38) : s.sampleFlow flow = s.wr .PWR_STAT_FLOW 0 (min flow 255) := by
  simp only [sampleFlow, if_neg (Nat.not_lt.2 h), if_neg (Nat.not_lt.2 h')]

theorem sampleFlow_of_high (h : 38 < flow) : s.sampleFlow flow = (s.wr .PWR_STAT_FLOW 0 (min flow 255)).setH .flowLow 0 0 := by
  simp only [sampleFlow, if_neg (by omega : ¬ flow < 36), if_pos h]

end SampleFlow

end State

open State

/-- Settles O31: the wait and the dump change neither flag, so that the sample decides by its range. -/
theorem turnMarksSampleTheFlow : Obligations.TurnMarksSampleTheFlow := by
  intro s m flow hm
  have hlow : ((s.goTo (m * s.len / 8)).dump m).rd .PWR_STAT_FLOW_LOW 0 = s.rd .PWR_STAT_FLOW_LOW 0 :=
    (rd_dump m 0 rfl (by decide)).trans (goTo_reg _ _ (by decide) (by decide))
  have halert : ((s.goTo (m * s.len / 8)).dump m).h .flowLow 0 = s.h .flowLow 0 :=
    (h_dump m 0 rfl (by decide)).trans (goTo_h _ _ (by decide) (by decide))
  refine ⟨_, exec_turnMark hm flow, rd_sampleFlow_flow, sampleFlow_of_low, fun h h' => ?between, fun h => ?high⟩
  case between =>
    rw [sampleFlow_of_between h h']
    exact ⟨(rd_wr_field _ _ _ (by decide)).trans hlow, halert⟩
  case high =>
    rw [sampleFlow_of_high h]
    exact ⟨(rd_wr_field _ _ _ (by decide)).trans hlow, h_setH_same ..⟩
end Sys2Proof.Machine
end

section
/-! PROOFS. Staged shares and tag quotas, all or none (R39, R195). -/

namespace Sys2Proof.Machine
namespace State
variable {s : State}

/-! A scalar, or a field, of several indices written one after another, each from what the writes before it leave alone. -/

theorem h_foldl_setH {x : Hid} {g : State → Nat → Nat} (hg : ∀ (u : State) (i v j : Nat), g (u.setH x i v) j = g u j) (q : Nat) (l : List Nat) :
    (l.foldl (fun (u : State) (i : Nat) => u.setH x i (g u i)) s).h x q = if q ∈ l then g s q else s.h x q := by
  induction l generalizing s with
  | nil => simp
  | cons i l ih =>
    rw [List.foldl_cons, ih, hg]
    by_cases hq : q = i
    · subst hq
      simp
    · rw [h_setH_index _ (Ne.symm hq)]
      simp [hq]

theorem rd_foldl_setH {x : Hid} {g : State → Nat → Nat} (f : Fld) (i : Nat) (l : List Nat) :
    (l.foldl (fun (u : State) (i : Nat) => u.setH x i (g u i)) s).rd f i = s.rd f i := by
  induction l generalizing s with
  | nil => rfl
  | cons i l ih => rw [List.foldl_cons, ih, rd_setH]

theorem rd_foldl_wr {f : Fld} {g : State → Nat → Nat} (hg : ∀ (u : State) (i v j : Nat), g (u.wr f i v) j = g u j) (q : Nat) (l : List Nat) :
    (l.foldl (fun (u : State) (i : Nat) => u.wr f i (g u i)) s).rd f q = if q ∈ l then g s q % 2 ^ f.width else s.rd f q := by
  induction l generalizing s with
  | nil => simp
  | cons i l ih =>
    rw [List.foldl_cons, ih, hg]
    by_cases hq : q = i
    · subst hq
      simp
    · rw [rd_wr_index _ (Ne.symm hq)]
      simp [hq]

/-- A term of a sum over the quarters is no larger than the sum. -/
theorem le_sum_range {n q : Nat} (g : Nat → Nat) (h : q < n) : g q ≤ ((List.range n).map g).sum :=
  List.le_sum_of_mem (List.mem_map_of_mem (List.mem_range.2 h))

/-! Change 6 of Table 2-6: all or none (R39, R195). -/

theorem applyShares_of_fits (h : ((List.range s.nQ).map (fun (q : Nat) => s.rd .TOK_Q_SHARE_SHARE q)).sum ≤ 4096) :
    s.applyShares = (List.range s.nQ).foldl (fun (s : State) (q : Nat) => s.setH .shareAct q (s.rd .TOK_Q_SHARE_SHARE q)) s :=
  if_neg (Nat.not_lt.2 h)

theorem applyShares_of_exceeds (h : 4096 < ((List.range s.nQ).map (fun (q : Nat) => s.rd .TOK_Q_SHARE_SHARE q)).sum) :
    s.applyShares = s.mark .TURN_BAL_ERR_SHARE_SUM 0 := if_pos h

theorem tagsNext_wr_tagsAct (i v q : Nat) : (s.wr .SE_Q_TAGS_TAGS_ACT i v).tagsNext q = s.tagsNext q := by
  rw [tagsNext, flag, h_wr, rd_wr_field _ _ _ (by decide : Fld.SE_Q_TAGS_TAGS_ACT ≠ .SE_Q_TAGS_AUTO),
    rd_wr_field _ _ _ (by decide : Fld.SE_Q_TAGS_TAGS_ACT ≠ .SE_Q_TAGS_TAGS)]
  rfl

theorem rd_applyTags_of_fits (h : ((List.range s.nQ).map (fun (q : Nat) => s.tagsNext q)).sum ≤ 512) {q : Nat} (hq : q < s.nQ) :
    s.applyTags.rd .SE_Q_TAGS_TAGS_ACT q = s.tagsNext q := by
  have hle : s.tagsNext q ≤ 512 := (le_sum_range s.tagsNext hq).trans h
  rw [applyTags, if_neg (Nat.not_lt.2 h), rd_foldl_wr (fun u i v j => tagsNext_wr_tagsAct i v j), if_pos (List.mem_range.2 hq)]
  exact Nat.mod_eq_of_lt (Nat.lt_of_le_of_lt hle (by decide))

theorem applyTags_of_exceeds (h : 512 < ((List.range s.nQ).map (fun (q : Nat) => s.tagsNext q)).sum) :
    s.applyTags = s.mark .SE_CFG_TAG_SUM 0 := if_pos h

theorem exec_stagedConfigurationApply (h : s.h .sched 0 = 5) :
    exec .stagedConfigurationApply s = .next ((s.goTo (s.cycW 512)).applyStaged.setH .sched 0 6) :=
  congrArg Host.Outcome.next (schedTo_next h)

end State
open State

/-- Settles O34: the window takes the shares and the tags each by their own sum. -/
theorem stagedSharesAndTags : Obligations.StagedSharesAndTags := by
  intro s
  refine ⟨exec_stagedConfigurationApply, fun hfit => ⟨fun q hq => ?_, fun f i => ?_⟩, fun hover => ?_, fun hfit q hq => rd_applyTags_of_fits hfit hq,
    fun hover => ?_⟩
  · rw [applyShares_of_fits hfit, h_foldl_setH (fun u i v j => rd_setH ..), if_pos (List.mem_range.2 hq)]
  · rw [applyShares_of_fits hfit, rd_foldl_setH]
  · rw [applyShares_of_exceeds hover]
    exact ⟨rfl, rd_mark_same .., fun q => h_mark _ _ _ (by decide)⟩
  · rw [applyTags_of_exceeds hover]
    exact ⟨rfl, rd_mark_same .., fun q => rd_mark_field _ _ (by decide)⟩
end Sys2Proof.Machine
end

section
/-! PROOFS. The verdict of the boundary window and its correction (R53 to R55, R399). -/

namespace Sys2Proof.Machine
namespace State
variable {s : State}

/-! What an error record and its message leave of the imbalances found. -/

theorem balDue_sendMsix (p f v : Nat) : (s.sendMsix p f v).balDue = s.balDue := by
  simp only [sendMsix]
  split
  · rfl
  · split <;> rfl

theorem balDue_raisePf (v : Nat) : (s.raisePf v).balDue = s.balDue := by
  rw [raisePf, balDue_sendMsix, balDue_sendMsix]

theorem balDue_mark (f : Fld) (i : Nat) : (s.mark f i).balDue = s.balDue := by
  rw [mark]
  split <;> rfl

theorem balDue_bump (f : Fld) (i n : Nat) : (s.bump f i n).balDue = s.balDue := by
  simp only [bump]
  split <;> rfl

theorem balDue_mcLog (c q d : Nat) : (s.mcLog c q d).balDue = s.balDue := by
  simp only [mcLog]
  split
  · rw [balDue_mark, balDue_bump]
  · rw [balDue_raisePf]
    rfl

/-- With nothing out and nothing in use only what the hardware upset, and the park areas, can fail the check (Table 2-7). -/
theorem imbalances_of_idle (hreqs : s.reqs = []) (hops : s.ops = []) (hslots : s.uuSlots = []) (htx : s.feTx = [])
    (hpark : ∀ q < s.nQ, s.parkCount q = s.parkInArea q) (upsets : List Upset) : s.imbalances upsets = s.upsetPools upsets := by
  have hexec (q : Nat) : s.executing q = 0 := by simp [executing, hops]
  have hparks : (List.range s.nQ).filter (fun q => s.parkCount q != s.parkInArea q) = [] :=
    List.filter_eq_nil_iff.2 fun q hq => by simp [hpark q (List.mem_range.1 hq)]
  simp [imbalances, hreqs, hslots, htx, hexec, hparks]

/-- One power-token counter that hardware has moved (R399). -/
theorem upsetPools_powerToken {q : Nat} {d : Int} (hd : d ≠ 0) (hq : q < s.nQ) :
    s.upsetPools [⟨.powerToken, q, 0, d⟩] = [(4, q, 0, d.natAbs)] := by
  simp [upsetPools, poolName, hd, hq]

/-- What the verdict shows of one imbalance: its bit, and its name where none stood (R54, R55). -/
def showImbalance (s : State) (e : Nat × Nat × Nat × Nat) : State :=
  let u := ({ s with balDue := [e] } : State).mark (balFld e.1) 0
  if s.rd .TURN_BAL_WHERE_CODE 0 ≠ 0 then u else
    ((u.wr .TURN_BAL_WHERE_CODE 0 e.1).wr .TURN_BAL_WHERE_QUARTER 0 e.2.1).wr .TURN_BAL_WHERE_INSTANCE 0 e.2.2.1

/-- The number in the management log that names what TURN_BAL_WHERE names. -/
def whereDetail (s : State) : Nat :=
  s.rd .TURN_BAL_WHERE_CODE 0 + 2 ^ 4 * s.rd .TURN_BAL_WHERE_QUARTER 0 + 2 ^ 8 * s.rd .TURN_BAL_WHERE_INSTANCE 0

theorem balance_of_none {upsets : List Upset} (h : s.imbalances upsets = []) : s.balance upsets = { s with balDue := [] } := by
  rw [balance, h]

theorem balance_of_one {upsets : List Upset} {e : Nat × Nat × Nat × Nat} (h : s.imbalances upsets = [e]) :
    s.balance upsets = ((s.showImbalance e).mcLog 9 15 (s.showImbalance e).whereDetail).raisePf 4 := by
  rw [balance, h]
  rfl

theorem balance_posts {upsets : List Upset} {e : Nat × Nat × Nat × Nat} (h : s.imbalances upsets = [e]) :
    (s.showImbalance e).Posts (s.balance upsets) := by
  rw [balance_of_one h]
  exact raisePf_posts (mcLog_posts (.refl _) ..) _

theorem balDue_balance {upsets : List Upset} {e : Nat × Nat × Nat × Nat} (h : s.imbalances upsets = [e]) : (s.balance upsets).balDue = [e] := by
  rw [balance_of_one h, balDue_raisePf, balDue_mcLog]
  simp only [showImbalance]
  split
  · exact balDue_mark ..
  · exact balDue_mark ..

section PowerToken

variable {q d : Nat}

theorem rd_showImbalance_bit : (s.showImbalance (4, q, 0, d)).rd .TURN_BAL_ERR_POWER_TOKEN 0 = 1 := by
  simp only [showImbalance, balFld]
  split
  · exact rd_mark_same ..
  · rw [rd_wr_field _ _ _ (by decide), rd_wr_field _ _ _ (by decide), rd_wr_field _ _ _ (by decide)]
    exact rd_mark_same ..

/-- Where TURN_BAL_WHERE named nothing it names the quarter. -/
theorem rd_showImbalance_where (hq : q < 16) (h : s.rd .TURN_BAL_WHERE_CODE 0 = 0) :
    (s.showImbalance (4, q, 0, d)).rd .TURN_BAL_WHERE_CODE 0 = 4 ∧ (s.showImbalance (4, q, 0, d)).rd .TURN_BAL_WHERE_QUARTER 0 = q ∧
      (s.showImbalance (4, q, 0, d)).rd .TURN_BAL_WHERE_INSTANCE 0 = 0 := by
  simp only [showImbalance, if_neg (not_not.2 h)]
  refine ⟨?_, ?_, rd_wr_fits _ _ _ (by decide)⟩
  · rw [rd_wr_field _ _ _ (by decide), rd_wr_field _ _ _ (by decide)]
    exact rd_wr_fits _ _ _ (by decide)
  · rw [rd_wr_field _ _ _ (by decide)]
    exact rd_wr_fits _ _ _ hq

end PowerToken

theorem balAny_of_powerToken (h : s.rd .TURN_BAL_ERR_POWER_TOKEN 0 = 1) : s.balAny = true :=
  List.any_eq_true.2 ⟨3, by decide, by rw [flag, balFld, h]; rfl⟩

theorem nQ_le : s.nQ ≤ 12 := by
  unfold nQ
  split <;> decide

/-- The corrective reset of one power-token counter (Table 2-7). -/
theorem correct_of_powerToken {q n : Nat} (h : s.balDue = [(4, q, 0, n)]) :
    s.correct = ({ s with balDue := [] } : State).addH .balE 0 n := by
  rw [correct, h]
  rfl

theorem exec_balanceCheck_verdict {upsets : List Upset} (h : s.h .sched 0 = 3) :
    exec (.balanceCheck upsets) s = .next (((s.goTo (s.cycW 256)).balance upsets).setH .sched 0 4) := by
  have hdo : s.schedDo 4 (fun (s : State) => (s.goTo (s.cycW 256)).balance upsets) = ((s.goTo (s.cycW 256)).balance upsets).setH .sched 0 4 := by
    rw [schedDo_of_due (Nat.le_of_eq h), schedTo_of_done (Nat.le_of_eq h.symm)]
  exact (if_neg (by omega)).trans (congrArg Host.Outcome.next hdo)

theorem exec_balanceCheck_correct {upsets : List Upset} (h : s.h .sched 0 = 4) :
    exec (.balanceCheck upsets) s = .next ((s.goTo (s.cycW 258)).correct.setH .sched 0 5) :=
  (if_pos h).trans (congrArg Host.Outcome.next (schedTo_next h))

end State
open State

/-- Settles O33: the state in which the check is made is idle, so that the counter moved, if any, is all that it finds. -/
theorem theBalanceVerdict : Obligations.TheBalanceVerdict := by
  intro s hreqs hops hslots htx
  have hnQ (t : Nat) : (s.goTo t).nQ = s.nQ := by rw [nQ, goTo_lt09, nQ]
  have hwhere (t : Nat) : (s.goTo t).rd .TURN_BAL_WHERE_CODE 0 = s.rd .TURN_BAL_WHERE_CODE 0 := goTo_reg _ _ (by decide) (by decide)
  refine ⟨fun hs hpark => ?verdict, fun q n hs hdue h0 hpos => ?corrected⟩
  case verdict =>
    have hfound (upsets : List Upset) :
        (s.goTo (s.cycW 256)).imbalances upsets = (s.goTo (s.cycW 256)).upsetPools upsets :=
      imbalances_of_idle ((goTo_reqs _).trans hreqs) ((goTo_ops _).trans hops) ((goTo_uuSlots _).trans hslots) ((goTo_feTx _).trans htx)
        (fun q hq => hpark q (hnQ _ ▸ hq)) upsets
    refine ⟨?balanced, fun q d hd hq => ?moved⟩
    case balanced => rw [exec_balanceCheck_verdict hs, balance_of_none (hfound [])]
    case moved =>
      have hone := (hfound _).trans (upsetPools_powerToken hd ((hnQ _).symm ▸ hq))
      have hp := balance_posts hone
      have hbit := (hp.regs .TURN_BAL_ERR_POWER_TOKEN 0 rfl).trans rd_showImbalance_bit
      refine ⟨_, exec_balanceCheck_verdict hs, (rd_setH ..).trans hbit, balAny_of_powerToken ((rd_setH ..).trans hbit), (setH_balDue ..).trans (balDue_balance hone), h_setH_same .., fun hcode => ?_⟩
      simp only [rd_setH]
      obtain ⟨hc, hq', hi⟩ := rd_showImbalance_where (d := d.natAbs) (by have := nQ_le (s := s); omega : q < 16) ((hwhere (s.cycW 256)).trans hcode)
      exact ⟨(hp.regs _ _ rfl).trans hc, (hp.regs _ _ rfl).trans hq', (hp.regs _ _ rfl).trans hi⟩
  case corrected =>
    have hlt : s.cycW 258 < s.len := schedCyc_lt_len 5
    refine ⟨_, exec_balanceCheck_correct hs, ?_⟩
    rw [correct_of_powerToken ((goTo_balDue _).trans hdue)]
    refine ⟨(goTo_pos _ h0).trans (by omega), rfl, ?_, h_setH_same ..⟩
    rw [h_setH_name _ _ _ (by decide)]
    refine (h_setH_same ..).trans (congrArg (· + n) ?_)
    exact goTo_h _ _ (by decide) (by decide)
end Sys2Proof.Machine
end

section
/-! PROOFS. No tokens move: accesses, the allocator's queue and the end of an operation (R33, R37). -/

namespace Sys2Proof.Machine
namespace State
variable {r s t : State}

/-- No quarter's tokens free or charged change. -/
structure Purse (s t : State) : Prop where
  free : ∀ q, t.rd .TOK_Q_STAT_FREE q = s.rd .TOK_Q_STAT_FREE q
  charged : ∀ q, t.h .charged q = s.h .charged q

theorem Purse.refl (s : State) : s.Purse s := ⟨fun _ => rfl, fun _ => rfl⟩

theorem Purse.trans (h1 : r.Purse s) (h2 : s.Purse t) : r.Purse t :=
  ⟨fun q => (h2.free q).trans (h1.free q), fun q => (h2.charged q).trans (h1.charged q)⟩

/-- What a completion may change is none of them. -/
theorem Posts.purse (h : s.Posts t) : s.Purse t := ⟨fun q => h.regs _ q rfl, fun q => h.hid _ q rfl⟩

/-- An update of anything but the kind of module, the registers and the hidden scalars. -/
theorem Purse.upd (h : r.Purse s) (hl : t.lt09 = s.lt09) (hr : t.regs = s.regs) (hh : t.hid = s.hid) : r.Purse t :=
  h.trans ⟨fun q => by rw [rd, rd, hl, hr], fun q => by rw [State.h, State.h, hh]⟩

theorem Purse.wr (h : r.Purse s) (f : Fld) (i v : Nat) (hf : f ≠ .TOK_Q_STAT_FREE) : r.Purse (s.wr f i v) :=
  h.trans ⟨fun _ => rd_wr_field _ _ _ hf, fun _ => rfl⟩

theorem Purse.setH (h : r.Purse s) (x : Hid) (i v : Nat) (hx : x ≠ .charged) : r.Purse (s.setH x i v) :=
  h.trans ⟨fun _ => rfl, fun _ => h_setH_name _ _ _ hx⟩

theorem Purse.ite {c : Prop} [Decidable c] (hs : r.Purse s) (ht : r.Purse t) : r.Purse (if c then s else t) := by
  split
  · exact hs
  · exact ht

theorem Purse.ite_fst {α : Type} {c : Prop} [Decidable c] {p p' : State × α} (hs : r.Purse p.1) (ht : r.Purse p'.1) :
    r.Purse (if c then p else p').1 := by
  split
  · exact hs
  · exact ht

/-- The state in a pair that a function gave. -/
theorem Purse.of_eq {α : Type} {p : State × α} {x : α} (h : p = (t, x)) (hp : r.Purse p.1) : r.Purse t := by
  rw [h] at hp
  exact hp

/-! Accesses to memory, events, marks and completions change nothing but what a completion may. -/

theorem vread_posts (h : r.Posts s) (c : Client) (va n : Nat) : r.Posts (s.vread c va n).1 := by
  have hl : r.Posts (s.vreadL c va n).1 := settle_posts (readPieces_posts h c va n (n / 64 + 2))
  unfold vread
  generalize s.vreadL c va n = p at hl
  obtain ⟨u, e | d⟩ := p
  · exact hl
  · exact hl

theorem vread_purse (c : Client) (va n : Nat) : s.Purse (s.vread c va n).1 := (vread_posts (.refl s) c va n).purse

theorem ev_purse (code q inst n : Nat) : s.Purse (s.ev code q inst n) := (ev_posts (.refl s) ..).purse

theorem mark_purse (f : Fld) (i : Nat) (hf : f ≠ .TOK_Q_STAT_FREE) : s.Purse (s.mark f i) :=
  ⟨fun _ => rd_mark_field _ _ hf, fun _ => h_mark _ _ _ (by decide)⟩

/-! The allocator's queue (R71, R72). -/

theorem startAlloc_purse (q a : Nat) : s.Purse (s.startAlloc q a) :=
  ((((Purse.refl s).setH _ _ _ (by decide)).setH _ _ _ (by decide)).setH _ _ _ (by decide)).setH _ _ _ (by decide)

theorem leaveAlloc_purse (id a : Nat) : s.Purse (s.leaveAlloc id a) := by
  have h : s.Purse { s with allocQ := s.allocQ.filter (· != id) } := (Purse.refl s).upd rfl rfl rfl
  unfold leaveAlloc
  split
  · exact h
  · exact Purse.ite (h.trans (startAlloc_purse ..)) h

theorem syncBlanks_purse (q : Nat) : s.Purse (s.syncBlanks q) := ((Purse.refl s).wr _ _ _ (by decide)).wr _ _ _ (by decide)

theorem placeBlank_purse (o : Op) (top left c : Nat) : s.Purse (s.placeBlank o top left c) := by
  unfold placeBlank
  refine Purse.trans (Purse.trans ?_ (startAlloc_purse o.q c)) (syncBlanks_purse o.q)
  exact ⟨fun _ => rfl, fun _ => rfl⟩

theorem scanTo_purse (q c n : Nat) : s.Purse (s.scanTo q c n) := by
  induction n generalizing s with
  | zero => exact .refl s
  | succ n ih =>
    unfold scanTo
    refine Purse.ite (.refl s) ?_
    split
    · exact .refl s
    · refine Purse.ite (.refl s) ?_
      simp only
      split
      · exact (placeBlank_purse ..).trans ih
      · refine Purse.ite ?_ ((Purse.refl s).setH _ _ _ (by decide))
        exact ((((Purse.refl s).setH _ _ _ (by decide)).setH _ _ _ (by decide)).setH _ _ _ (by decide)).setH _ _ _ (by decide)

/-! The end of an operation (R208, R314). -/

theorem setOp_purse (o : Op) : s.Purse (s.setOp o) := (Purse.refl s).upd rfl rfl rfl

theorem dropOp_purse (id : Nat) : s.Purse (s.dropOp id) := (leaveAlloc_purse id s.now).upd rfl rfl rfl

theorem releaseBlank_purse (id : Nat) : s.Purse (s.releaseBlank id) := by
  unfold releaseBlank
  split
  · exact .refl s
  · simp only
    refine Purse.trans ?_ (setOp_purse _)
    have hscan (c : Prop) [Decidable c] (q a n : Nat) : s.Purse (if c then s.scanTo q a n else s) := Purse.ite (scanTo_purse ..) (.refl s)
    refine Purse.ite (Purse.trans ?_ (ev_purse ..)) ?_
    · exact Purse.ite ((hscan ..).setH _ _ _ (by decide)) (hscan ..)
    · exact Purse.ite ((hscan ..).setH _ _ _ (by decide)) (hscan ..)

theorem clearRecord_purse (o : Op) : s.Purse (s.clearRecord o) := by
  unfold clearRecord
  split
  · exact .refl s
  · next i _ =>
    have h := vread_posts (.refl s) (schedClient o) (s.parkVA o.q i) 64
    simp only
    split
    · exact h.purse
    · exact Purse.ite (vwrite_posts h ..).purse h.purse

theorem withClaims_purse (l : List Claim) : s.Purse { s with claims := l } := ⟨fun _ => rfl, fun _ => rfl⟩

theorem releaseClaims_purse (q b k : Nat) : s.Purse (s.releaseClaims q b k) := by
  induction k generalizing s with
  | zero => exact .refl s
  | succ k ih =>
    unfold releaseClaims
    split
    · exact .refl s
    · simp only
      refine Purse.ite (Purse.trans ?_ ih) (.refl s)
      refine Purse.trans (((Purse.refl s).wr .SE_BUF_PTR_HEAD _ _ ?_).wr .SE_BUF_PTR_FULL _ _ ?_ |>.wr .SE_BUF_PTR_CLAIMED _ _ ?_) (withClaims_purse _)
      all_goals decide

theorem endClaim_purse (o : Op) : s.Purse (s.endClaim o) := by
  unfold endClaim
  split
  · exact .refl s
  · simp only
    exact (withClaims_purse _).trans (releaseClaims_purse ..)

theorem signalBar_purse (q b status : Nat) : s.Purse (s.signalBar q b status) := by
  unfold signalBar
  simp only
  exact Purse.ite (Purse.upd ((Purse.refl s).wr .SE_BAR_COUNT _ _ (by decide)) rfl rfl rfl) (mark_purse _ _ (by decide))

theorem complete_purse (page : Nat) (c : Cpl) : s.Purse (s.complete page c) := (complete_posts (.refl s) ..).purse

theorem endOp_purse (id status n : Nat) : s.Purse (s.endOp id status n) := by
  induction n generalizing s id status with
  | zero => exact .refl s
  | succ n ih =>
    unfold endOp
    simp only
    split
    · exact releaseBlank_purse id
    · next o _ =>
      have hmember (u : State) (p : Op) (pid : Nat) :
          u.Purse (if p.left = 0 ∧ p.phase = .members then (u.setOp p).endOp pid (memberStatus p).1 n else u.setOp p) :=
        Purse.ite ((setOp_purse p).trans (ih ..)) (setOp_purse p)
      have hsig (u : State) : u.Purse (match o.sig with
          | some b => u.signalBar o.q b status
          | none => u) := by
        split
        · exact signalBar_purse ..
        · exact .refl u
      have hdrop := ((((releaseBlank_purse (s := s) id).trans (clearRecord_purse o)).trans (endClaim_purse o)).trans (hsig _)).trans
        (dropOp_purse id)
      split
      case h_1 =>
        split
        · exact hdrop
        · exact hdrop.trans (hmember ..)
      case h_2 =>
        split
        case h_1 =>
          have hnote := hdrop.trans (Purse.ite (c := o.notify = true) (complete_purse o.page (opCpl o 1 status)) (.refl _))
          split
          · exact hnote
          · exact hnote.trans (hmember ..)
        case h_2 => exact hdrop.trans (complete_purse ..)

theorem finish_purse (id status : Nat) : s.Purse (s.finish id status) := endOp_purse id status 3

end State
end Sys2Proof.Machine
end

section
/-! PROOFS. What an admission decision reads and what an admission takes (R33, R71, R89, R92, R237). -/

namespace Sys2Proof.Machine
namespace State
variable {r s t : State}

/-! What a decision reads, and what it ends, leaves the tokens (R33, R89, R92, R237). -/

/-- One step operand entry (Table 4-9): a slot that needs none has the entry 0. -/
def readEntry (s : State) (o : Op) (slot : Nat) : State × Except Nat Nat :=
  let st := mStep o.raw slot
  if !needsEntry st then (s, .ok 0)
  else match s.vread (schedClient o) (mOpnd o.raw + 16 * slot) 16 with
    | (s, .error e) => (s, .error (accessStatus e))
    | (s, .ok (_, true)) => (s, .error stPoisonedData)
    | (s, .ok (b, false)) => (s, if entryOk st (ofBytes b) then .ok (ofBytes b) else .error stInvalidDescriptor)

theorem readEntry_posts (o : Op) (slot : Nat) : s.Posts (s.readEntry o slot).1 := by
  have h := vread_posts (.refl s) (schedClient o) (mOpnd o.raw + 16 * slot) 16
  simp only [readEntry]
  split
  · exact .refl s
  · generalize s.vread (schedClient o) (mOpnd o.raw + 16 * slot) 16 = p at h
    obtain ⟨u, e | ⟨b, bad⟩⟩ := p
    · exact h
    · cases bad <;> exact h

theorem readOpnds_cons (o : Op) (slot : Nat) (slots : List Nat) :
    s.readOpnds o (slot :: slots) = match s.readEntry o slot with
      | (u, r) => match r with
        | .error st => (u, .error st)
        | .ok e => match u.readOpnds o slots with
          | (v, .error st) => (v, .error st)
          | (v, .ok es) => (v, .ok (e :: es)) := by
  rw [readOpnds]
  rfl

theorem readOpnds_posts (o : Op) (l : List Nat) : s.Posts (s.readOpnds o l).1 := by
  induction l generalizing s with
  | nil => exact .refl s
  | cons slot l ih =>
    have h := readEntry_posts (s := s) o slot
    rw [readOpnds_cons]
    generalize s.readEntry o slot = p at h
    obtain ⟨u, e | e⟩ := p
    · exact h
    · have h2 := h.trans (ih (s := u))
      simp only
      split
      · next he2 => exact Posts.of_eq he2 h2
      · next he2 => exact Posts.of_eq he2 h2

theorem withEntries_posts (o : Op) (new : Bool) : s.Posts (s.withEntries o new).1 := by
  have h := readOpnds_posts (s := s) o (List.range 8)
  unfold withEntries
  split
  · split
    · next he => exact Posts.of_eq he h
    · next he => exact Posts.of_eq he h
  · exact .refl s

/-- Reading its entries changes nothing else of the operation. -/
theorem withEntries_op {o p : Op} {new : Bool} (h : s.withEntries o new = (t, .ok p)) :
    p.q = o.q ∧ p.kind = o.kind ∧ p.id = o.id := by
  unfold withEntries at h
  split at h
  · split at h
    · cases h
    · cases h
      exact ⟨rfl, rfl, rfl⟩
  · cases h
    exact ⟨rfl, rfl, rfl⟩

theorem handOver_posts (o : Op) : s.Posts (s.handOver o).1 := by
  have h := vread_posts (.refl s) (schedClient o) (uuRec o.raw) 64
  unfold handOver
  split
  · next he => exact Posts.of_eq he h
  · next he => exact Posts.of_eq he h
  · next he => exact Posts.of_eq he h

theorem claim_purse (o : Op) : s.Purse (s.claim o) := by
  unfold claim
  simp only
  split
  · exact .refl s
  · exact Purse.ite (.refl s) ((withClaims_purse _).wr .SE_BUF_PTR_CLAIMED _ _ (by decide))

theorem syncUnit_purse (u : Nat) : s.Purse (s.syncUnit u) := by
  have h := (Purse.refl s).wr .UU_STAT_QUEUED u
    (s.ops.filter (fun o => o.kind == 0x30 && o.phase == .placing && (UnitOp.ofOp o).unit == u)).length (by decide)
  unfold syncUnit
  simp only
  split
  · exact (h.wr .UU_STAT_BUSY _ _ (by decide)).wr .UU_STAT_QUARTER _ _ (by decide)
  · exact h.wr .UU_STAT_BUSY _ _ (by decide)

theorem finishWith_purse (id status : Nat) : s.Purse (s.finishWith id status) := Purse.ite (.refl s) (finish_purse ..)

theorem newId_purse : s.Purse s.newId.2 := (newId_posts (.refl s)).purse

theorem issueProblem_purse (g : Op) : s.Purse (s.issueProblem g).1 := by
  have hread := vread_purse (s := s) (schedClient g) (grProb g.raw + 128 * g.issued) 128
  simp only [issueProblem]
  generalize s.vread (schedClient g) (grProb g.raw + 128 * g.issued) 128 = p at hread
  obtain ⟨u, a⟩ := p
  have hnew (l : List Op) (k : List Nat) (x : Op) : s.Purse { u.newId.2.setOp x with ops := l, submitQ := k } :=
    ((hread.trans newId_purse).trans (setOp_purse x)).upd rfl rfl rfl
  split
  · exact hread
  · split
    · exact (hnew ..).trans (finish_purse ..)
    · exact (hnew ..).trans (finish_purse ..)
    · exact Purse.ite_fst ((hnew ..).trans (finish_purse ..)) (hnew ..)

theorem admissionHead_purse (q : Nat) : s.Purse (s.admissionHead q).1 := by
  unfold admissionHead
  split
  · exact .refl s
  · split
    · exact .refl s
    · next o _ =>
      have h := issueProblem_purse (s := s) o
      split
      · exact .refl s
      · split
        · exact finish_purse ..
        · split
          · next he => exact Purse.of_eq he h
          · next he => exact Purse.of_eq he h

/-- A quarter is charged (R33, R37). -/
def chargeQuarter (s : State) (q c : Nat) : State := (s.wr .TOK_Q_STAT_FREE q (s.rd .TOK_Q_STAT_FREE q - c)).addH .charged q c

theorem Purse.chargeQuarter (h : s.Purse t) (q c : Nat) : (s.chargeQuarter q c).Purse (t.chargeQuarter q c) := by
  refine ⟨fun r => ?_, fun r => ?_⟩
  · simp only [State.chargeQuarter, addH, rd_setH]
    by_cases hr : q = r
    · rw [hr, rd_wr_same, rd_wr_same, h.free]
    · rw [rd_wr_index _ hr, rd_wr_index _ hr, h.free]
  · simp only [State.chargeQuarter, addH, h_wr]
    by_cases hr : q = r
    · rw [hr, h_setH_same, h_setH_same, h.charged]
    · rw [h_setH_index _ hr, h_setH_index _ hr, h_wr, h_wr, h.charged]

theorem withQueues_purse (l k : List Nat) : s.Purse { s with submitQ := l, resumeQ := k } := ⟨fun _ => rfl, fun _ => rfl⟩

theorem withAllocQ_purse (l : List Nat) : s.Purse { s with allocQ := l } := ⟨fun _ => rfl, fun _ => rfl⟩

/-- The operation as it is admitted (R33, R200). -/
def admitted (s : State) (o : Op) (new : Bool) (slice charge : Nat) : Op :=
  { o with
    slice := slice, charge := charge, slotNo := s.freeSlotNo o.q, lossE := if new then s.rd .UU_Q_KEEP_E o.q else o.lossE,
    phase := .placing, startAt := s.now + 2, stalled := false, admitNo := s.h .admits 0, passed := 0 }

/-- An admitted operation goes to what runs it (R71, R200, R237). -/
def handOn (s : State) (o : Op) (new : Bool) (u : Nat) : State :=
  match o.kind with
  | 0x01 =>
    let s1 := { s with allocQ := s.allocQ ++ [o.id] }.setOp { o with
      aux := [o.rowRun, o.nBlock, o.kChunk, if o.spilled then 1 else 0, o.spillBytes] }
    (if (s.allocHead o.q).isNone then s1.startAlloc o.q (s.now + 2) else s1).syncBlanks o.q
  | 0x10 => s.setOp (startStream o (s.now + 2))
  | 0x20 => s.setOp { o with phase := .running, aux := [] }
  | 0x30 =>
    let o1 := if new then latchUnit s o u else
      { UnitOp.ofOp o with unit := u, claimed := 0, sumr := 0, nf := 0, lanes := [] : UnitOp }.put o
    ({ s with allocQ := s.allocQ ++ [o.id] }.setOp o1).syncUnit u
  | _ => s.setOp o

theorem admitOp_eq (o : Op) (new : Bool) (u slice charge : Nat) :
    s.admitOp o new u slice charge =
      let v := (if new then s.claim o else s).chargeQuarter o.q charge
      let w := v.addH .admits 0 1
      { w with submitQ := w.submitQ.filter (· != o.id), resumeQ := w.resumeQ.filter (· != o.id) }.handOn (v.admitted o new slice charge) new u := rfl

theorem handOn_purse (o : Op) (new : Bool) (u : Nat) : s.Purse (s.handOn o new u) := by
  have hqueue (x : Op) : s.Purse ({ s with allocQ := s.allocQ ++ [o.id] }.setOp x) := (withAllocQ_purse _).trans (setOp_purse x)
  simp only [handOn]
  split
  · exact (Purse.ite ((hqueue _).trans (startAlloc_purse ..)) (hqueue _)).trans (syncBlanks_purse _)
  · exact setOp_purse _
  · exact setOp_purse _
  · exact (hqueue _).trans (syncUnit_purse _)
  · exact setOp_purse _

/-- Of a quarter's tokens an admission takes the charge, and nothing else. -/
theorem admitOp_purse (o : Op) (new : Bool) (u slice charge : Nat) : (s.chargeQuarter o.q charge).Purse (s.admitOp o new u slice charge) := by
  have hclaim : s.Purse (if new then s.claim o else s) := Purse.ite (claim_purse o) (.refl s)
  rw [admitOp_eq]
  exact (((hclaim.chargeQuarter o.q charge).setH .admits 0 _ (by decide)).trans (withQueues_purse ..)).trans (handOn_purse ..)

end State
end Sys2Proof.Machine
end

section
/-! PROOFS. The admission decision and the tokens (R33 to R37). -/

namespace Sys2Proof.Machine
namespace State
variable {s t : State}

/-! The decision on a valid operation (R33, R37). -/

def needOf (o : Op) : Nat := if o.span then (estOf o.raw).2.2 else o.estCycles

/-- Slice and charge of an operation with `left` cycles to S. -/
def sliceOf (o : Op) (left : Nat) : Nat := min o.estCycles left
def chargeOf (o : Op) (left : Nat) : Nat := (o.estTokens * sliceOf o left + o.estCycles - 1) / o.estCycles

/-- A valid operation is admitted where its need and its charge fit. -/
def offer (s : State) (q : Nat) (o : Op) (new : Bool) (u : Nat) : State :=
  let left := s.cycS - s.pos
  if left < needOf o ∨ s.rd .TOK_Q_STAT_FREE q < chargeOf o left then s.ev evAdmitWait q 0 1
  else s.admitOp o new u (sliceOf o left) (chargeOf o left)

/-- The decision once the operation's entries are read. -/
def judge (s : State) (q : Nat) (o : Op) (new : Bool) : State :=
  match if new then s.invalid o else s.estBad o with
  | some st => s.finish o.id st
  | none =>
    let (s, unit) : State × Except Nat Nat := if o.kind = 0x30 then s.handOver o else (s, .ok 0)
    match unit with
    | .error st => s.finishWith o.id st
    | .ok u => s.offer q o new u

theorem decideOn_eq (o : Op) (new : Bool) :
    s.decideOn o new = if s.executing o.q ≥ 256 then s.ev evOpsFull o.q 0 2
      else if new ∧ s.parkedCount o.q ≥ 768 then s.ev evParkHigh o.q 0 1
      else match s.withEntries o new with
        | (t, .error st) => t.finishWith o.id st
        | (t, .ok p) => t.judge o.q p new := rfl

/-- Tokens change only by a charge that the quarter has free, taken once. -/
inductive Pays (s t : State) : Prop
  | none (h : s.Purse t)
  | charge (q c : Nat) (hc : c ≤ s.rd .TOK_Q_STAT_FREE q) (h : (s.chargeQuarter q c).Purse t)

theorem Purse.pays {r s t : State} (h : r.Purse s) (hp : s.Pays t) : r.Pays t := by
  cases hp with
  | none hp => exact .none (h.trans hp)
  | charge q c hc hp => exact .charge q c (h.free q ▸ hc) ((h.chargeQuarter q c).trans hp)

theorem offer_pays {q : Nat} {o : Op} (hq : o.q = q) (new : Bool) (u : Nat) : s.Pays (s.offer q o new u) := by
  simp only [offer]
  split
  · exact .none (ev_purse ..)
  · next h =>
    refine .charge q _ ?_ (hq ▸ admitOp_purse ..)
    omega

theorem judge_pays {q : Nat} {o : Op} (hq : o.q = q) (new : Bool) : s.Pays (s.judge q o new) := by
  have hunit : s.Purse (if o.kind = 0x30 then s.handOver o else (s, .ok 0)).1 := Purse.ite_fst (handOver_posts o).purse (.refl s)
  unfold judge
  split
  · exact .none (finish_purse ..)
  · generalize (if o.kind = 0x30 then s.handOver o else (s, .ok 0)) = p at hunit
    obtain ⟨v, e | u⟩ := p
    · exact .none (hunit.trans (finishWith_purse ..))
    · exact hunit.pays (offer_pays hq new u)

theorem decideOn_pays (o : Op) (new : Bool) : s.Pays (s.decideOn o new) := by
  have h := withEntries_posts (s := s) o new
  rw [decideOn_eq]
  split
  · exact .none (ev_purse ..)
  · split
    · exact .none (ev_purse ..)
    · split
      · next he => exact .none ((Posts.of_eq he h).purse.trans (finishWith_purse ..))
      · next he => exact (Posts.of_eq he h).purse.pays (judge_pays (withEntries_op he).1 new)

theorem admission_pays (q : Nat) : s.Pays (s.admission q) := by
  have hnext : s.Purse (s.setH .decideAt q (s.pos + 2)) := (Purse.refl s).setH _ _ _ (by decide)
  unfold admission
  split
  · exact .none (.refl s)
  · have hhead := hnext.trans (admissionHead_purse (s := s.setH .decideAt q (s.pos + 2)) q)
    simp only
    split
    · exact .none (hnext.trans (ev_purse ..))
    · split
      · next he => exact .none (Purse.of_eq he hhead)
      · next he => exact (Purse.of_eq he hhead).pays (decideOn_pays ..)

theorem goTo_purse (t : Nat) : s.Purse (s.goTo t) :=
  ⟨fun _ => goTo_reg _ _ (by decide) (by decide), fun _ => goTo_h _ _ (by decide) (by decide)⟩

theorem rd_chargeQuarter_same {q : Nat} (c : Nat) (hf : s.rd .TOK_Q_STAT_FREE q < 2 ^ 21) :
    (s.chargeQuarter q c).rd .TOK_Q_STAT_FREE q = s.rd .TOK_Q_STAT_FREE q - c := by
  rw [chargeQuarter, addH, rd_setH]
  exact rd_wr_fits _ _ _ (Nat.lt_of_le_of_lt (Nat.sub_le ..) hf)

theorem h_chargeQuarter_same (q c : Nat) : (s.chargeQuarter q c).h .charged q = s.h .charged q + c := h_setH_same ..

/-- A charge moves tokens from what is free to what is charged. -/
theorem chargeQuarter_sum {q c : Nat} (hc : c ≤ s.rd .TOK_Q_STAT_FREE q) (hf : s.rd .TOK_Q_STAT_FREE q < 2 ^ 21) (r : Nat) :
    (s.chargeQuarter q c).rd .TOK_Q_STAT_FREE r + (s.chargeQuarter q c).h .charged r = s.rd .TOK_Q_STAT_FREE r + s.h .charged r ∧
      (s.chargeQuarter q c).rd .TOK_Q_STAT_FREE r ≤ s.rd .TOK_Q_STAT_FREE r := by
  by_cases hr : q = r
  · rw [← hr, rd_chargeQuarter_same c hf, h_chargeQuarter_same]
    omega
  · have hfree : (s.chargeQuarter q c).rd .TOK_Q_STAT_FREE r = s.rd .TOK_Q_STAT_FREE r := (rd_setH ..).trans (rd_wr_index _ hr)
    have hcharged : (s.chargeQuarter q c).h .charged r = s.h .charged r := h_setH_index _ hr
    rw [hfree, hcharged]
    exact ⟨rfl, Nat.le_refl _⟩

end State
open State

/-- Settles O14: a decision pays at most one charge, out of tokens that are free. -/
theorem admissionKeepsTheTokens : Obligations.AdmissionKeepsTheTokens := by
  intro s t q c hs ht r
  have hp : s.Pays t := by
    cases ht
    exact (goTo_purse c).pays (admission_pays q)
  cases hp with
  | none hp =>
    rw [hp.free, hp.charged]
    exact ⟨rfl, Nat.le_refl _⟩
  | charge p n hn hp =>
    rw [hp.free, hp.charged]
    exact chargeQuarter_sum hn (hs.fits _ p) r

namespace State

variable {s t : State} {o : Op} {q : Nat}

/-- What the decision does with the head that it found. -/
def decideHead (p : State × Option (Op × Bool)) : State :=
  match p with
  | (u, none) => u
  | (u, some (o, new)) => u.decideOn o new

/-- Before S a quarter that is not halted, with its park area, has its decision, two cycles after the last or later. -/
theorem admission_of_open (hS : s.pos < s.cycS) (hh : s.h .halted q = 0) (hd : s.h .decideAt q ≤ s.pos) (hq : q < s.nQ)
    (hp : s.rd .TURN_Q_PARK_EN q = 1) : s.admission q = decideHead ((s.setH .decideAt q (s.pos + 2)).admissionHead q) := by
  have hcond : ¬ (s.cycS ≤ s.pos ∨ s.h .halted q = 1 ∨ s.pos < s.h .decideAt q ∨ s.nQ ≤ q) := by omega
  have hpark : (s.setH .decideAt q (s.pos + 2)).flag .TURN_Q_PARK_EN q = true := by simp [flag, hp]
  rw [admission, if_neg hcond]
  simp only [hpark, Bool.not_true, Bool.false_eq_true, if_false]
  rfl

theorem admissionHead_of_resume (h : s.headOf q s.resumeQ = some o) : s.admissionHead q = (s, some (o, false)) := by
  rw [admissionHead, h]

theorem admissionHead_of_submit (hr : s.headOf q s.resumeQ = none) (hs : s.headOf q s.submitQ = some o) (hk : o.kind ≠ 0x02) :
    s.admissionHead q = (s, some (o, true)) := by
  simp only [admissionHead, hr, hs, if_pos hk]

theorem judge_of_valid {new : Bool} (hk : o.kind ≠ 0x30) (hv : (if new then s.invalid o else s.estBad o) = none) :
    s.judge q o new = s.offer q o new 0 := by
  simp only [judge, hv, if_neg hk]

theorem decideOn_of_resume (hx : s.executing o.q < 256) (hv : s.estBad o = none) (hk : o.kind ≠ 0x30) :
    s.decideOn o false = s.offer o.q o false 0 := by
  rw [decideOn_eq, if_neg (Nat.not_le.2 hx)]
  exact judge_of_valid hk hv

theorem decideOn_of_submit {p : Op} (hx : s.executing o.q < 256) (hp : s.parkedCount o.q < 768) (he : s.withEntries o true = (t, .ok p))
    (hv : t.invalid p = none) (hk : o.kind ≠ 0x30) : s.decideOn o true = t.offer o.q p true 0 := by
  rw [decideOn_eq, if_neg (Nat.not_le.2 hx), if_neg (by omega), he]
  exact judge_of_valid ((withEntries_op he).2.1 ▸ hk) hv

/-- Where need and charge fit the operation is admitted, and its quarter is charged. -/
theorem offer_of_fits {r : State} {new : Bool} {left : Nat} (hr : r.Purse s) (hq : o.q = q) (hl : s.cycS - s.pos = left) (hn : needOf o ≤ left)
    (hc : chargeOf o left ≤ s.rd .TOK_Q_STAT_FREE q) :
    s.offer q o new 0 = s.admitOp o new 0 (sliceOf o left) (chargeOf o left) ∧
      (r.rd .TOK_Q_STAT_FREE q < 2 ^ 21 → (s.offer q o new 0).rd .TOK_Q_STAT_FREE q = r.rd .TOK_Q_STAT_FREE q - chargeOf o left) ∧
      (s.offer q o new 0).h .charged q = r.h .charged q + chargeOf o left := by
  have heq : s.offer q o new 0 = s.admitOp o new 0 (sliceOf o left) (chargeOf o left) := by
    rw [offer, hl]
    exact if_neg (by omega)
  have hp := admitOp_purse (s := s) o new 0 (sliceOf o left) (chargeOf o left)
  rw [hq] at hp
  rw [heq, hp.free, hp.charged, h_chargeQuarter_same, hr.charged, ← hr.free]
  exact ⟨rfl, rd_chargeQuarter_same _, rfl⟩

theorem offer_of_not_fits {new : Bool} {left : Nat} (hl : s.cycS - s.pos = left) (h : left < needOf o ∨ s.rd .TOK_Q_STAT_FREE q < chargeOf o left) :
    s.offer q o new 0 = s.ev evAdmitWait q 0 1 := by
  rw [offer, hl]
  exact if_pos h

end State

/-- Settles O15: the decision comes down to the offer of the head, whose wait and reads leave the tokens. -/
theorem admissionChargesTheSlice : Obligations.AdmissionChargesTheSlice := by
  intro s q c o u s1 left need slice charge hS hh hd hq hp hoq hk hx
  have hs1 : s.Purse s1 := (goTo_purse c).trans ((Purse.refl _).setH _ _ _ (by decide))
  have hdecide : exec (.admissionDecision q c) s = .next (u.admission q) := rfl
  rw [admission_of_open hS hh hd hq hp] at hdecide
  subst hoq
  refine ⟨fun hhead hest => ?resumed, fun s2 p hnone hhead hgroup hpark hent hval => ?submitted⟩
  case resumed =>
    rw [admissionHead_of_resume hhead] at hdecide
    simp only [decideHead, decideOn_of_resume hx hest hk] at hdecide
    have hleft : s1.cycS - s1.pos = left := rfl
    refine ⟨fun hn hc => ?_, fun hw => ?_⟩
    · exact ⟨_, hdecide, offer_of_fits hs1 rfl hleft hn hc⟩
    · rw [hdecide, offer_of_not_fits hleft hw]
  case submitted =>
    rw [admissionHead_of_submit hnone hhead hgroup] at hdecide
    simp only [decideHead, decideOn_of_submit hx hpark hent hval hk] at hdecide
    have hread := Posts.of_eq hent (withEntries_posts o true)
    have hleft : s2.cycS - s2.pos = left := by rw [cycS, pos, hread.regs _ _ rfl, hread.now, hread.turn0]; rfl
    refine ⟨fun hn hc => ?_, fun hw => ?_⟩
    · exact ⟨_, hdecide, offer_of_fits (hs1.trans hread.purse) (withEntries_op hent).1 hleft hn hc⟩
    · rw [hdecide, offer_of_not_fits hleft hw]

end Sys2Proof.Machine
end

section
/-! PROOFS. Commands that write registers, and CONFIG (Table 14-5). -/

namespace Sys2Proof.Machine
open State

/-- Settles O25: each command, once its entry is served, is its body. -/
theorem registerCommandsWriteAsTheCP : Obligations.RegisterCommandsWriteAsTheCP := by
  intro s e q
  refine ⟨?fqHead, ?mmuCfg, ?hostWin, ?barrier, ?bufCfg, ?cores, ?pfWin⟩
  case bufCfg =>
    intro h
    have hbody : exec (.bufCfg e) s = .next (s.cmdBufCfg e) := rfl
    rw [hbody, cmdBufCfg, command_serves h]
    exact ⟨fun hu => congrArg Host.Outcome.next (if_pos hu), fun hu => congrArg Host.Outcome.next (if_neg (Bool.not_eq_true _ ▸ hu))⟩
  all_goals exact fun h => congrArg Host.Outcome.next (command_serves h _)

namespace State

variable {s : State} {q r : Nat} {f : Fld} {l : List (Fld × Nat)}

/-- Writes to the registers of one quarter, in order. -/
def stage (s : State) (q : Nat) (l : List (Fld × Nat)) : State := l.foldl (fun s p => s.wr p.1 q p.2) s

theorem stage_cons (p : Fld × Nat) : s.stage q (p :: l) = (s.wr p.1 q p.2).stage q l := rfl

theorem rd_stage_index (h : r ≠ q) : (s.stage q l).rd f r = s.rd f r := by
  induction l generalizing s with
  | nil => rfl
  | cons p l ih =>
    rw [stage_cons, ih]
    exact rd_wr_other _ _ (.inr (Ne.symm h))

theorem rd_stage_field (h : f ∉ l.map Prod.fst) : (s.stage q l).rd f r = s.rd f r := by
  induction l generalizing s with
  | nil => rfl
  | cons p l ih =>
    rw [List.map_cons, List.mem_cons, not_or] at h
    rw [stage_cons, ih h.2]
    exact rd_wr_field _ _ _ (Ne.symm h.1)

theorem rd_stage_of_mem {v : Nat} (hn : (l.map Prod.fst).Nodup) (hm : (f, v) ∈ l) (hv : v < 2 ^ f.width) : (s.stage q l).rd f q = v := by
  induction l generalizing s with
  | nil => cases hm
  | cons p l ih =>
    rw [List.map_cons, List.nodup_cons] at hn
    rw [stage_cons]
    rcases List.mem_cons.1 hm with rfl | hm
    · exact (rd_stage_field hn.1).trans (rd_wr_fits _ _ _ hv)
    · exact ih hn.2 hm

/-- What CONFIG stages: the strips, and the rest (Table 14-5, code 0x700). -/
def stripArgs (e : SubEntry) : List (Fld × Nat) := [(.GRID_Q_STRIPS_FIRST, eArg e 0 4), (.GRID_Q_STRIPS_COUNT, eArg e 4 5)]
def shareArgs (e : SubEntry) : List (Fld × Nat) :=
  [(.PLZ_Q_CFG_SCRATCH_WAYS, eArg e 9 4), (.TOK_Q_SHARE_SHARE, eArg e 13 13), (.SE_Q_TAGS_TAGS, eArg e 26 10),
    (.SE_Q_TAGS_AUTO, eArg e 36 1), (.FE_Q_CFG_CREDITS, eArg e 37 11), (.FE_Q_CFG_AUTO, eArg e 48 1), (.PT_Q_CFG_HOST_PORT, eArg e 49 1),
    (.PT_Q_CFG_INT_ROUTE, eArg e 50 2), (.PT_Q_CFG_HOLDOFF, eArg e 52 8), (.PT_Q_CFG_REQ_IDE, eArg e 60 1),
    (.PT_Q_CFG_B2_BASE, eArg e 64 16)]

/-- Their registers. -/
def stripFlds : List Fld := [.GRID_Q_STRIPS_FIRST, .GRID_Q_STRIPS_COUNT]
def shareFlds : List Fld :=
  [.PLZ_Q_CFG_SCRATCH_WAYS, .TOK_Q_SHARE_SHARE, .SE_Q_TAGS_TAGS, .SE_Q_TAGS_AUTO, .FE_Q_CFG_CREDITS, .FE_Q_CFG_AUTO, .PT_Q_CFG_HOST_PORT,
    .PT_Q_CFG_INT_ROUTE, .PT_Q_CFG_HOLDOFF, .PT_Q_CFG_REQ_IDE, .PT_Q_CFG_B2_BASE]

theorem stripArgs_flds (e : SubEntry) : (stripArgs e).map Prod.fst = stripFlds := rfl
theorem shareArgs_flds (e : SubEntry) : (shareArgs e).map Prod.fst = shareFlds := rfl

theorem stripArgs_nodup (e : SubEntry) : ((stripArgs e).map Prod.fst).Nodup := by
  rw [stripArgs_flds]
  decide

theorem shareArgs_nodup (e : SubEntry) : ((shareArgs e).map Prod.fst).Nodup := by
  rw [shareArgs_flds]
  decide

theorem eArg_lt (e : SubEntry) (lo n : Nat) : eArg e lo n < 2 ^ n := bitsOf_lt ..

/-- A quarter as CONFIG leaves it, before the completion. -/
def configured (s : State) (e : SubEntry) : State :=
  let q := eTarget e
  (((s.stage q (stripArgs e)).syncPending q).setH .sizeBy q (pageFn e.page + 1)).stage q (shareArgs e)

theorem cmdConfig_in_range {e : SubEntry} (h : s.Serves e 0x700) (hs : eArg e 4 5 ≤ 16) (hw : eArg e 9 4 ≤ 12) (ht : eArg e 26 10 ≤ 512)
    (hc : eArg e 37 11 ≤ 1024) (hi : eArg e 50 2 ≠ 3) : s.cmdConfig e = (s.configured e).done e stSuccess 0 := by
  rw [cmdConfig, command_serves h]
  exact if_neg (by omega)

theorem rd_configured_strip {e : SubEntry} {v : Nat} (hm : (f, v) ∈ stripArgs e) (hv : v < 2 ^ f.width)
    (hf : f ∉ shareFlds) (hp : f ≠ .GRID_Q_STRIPS_PENDING) : (s.configured e).rd f (eTarget e) = v := by
  rw [configured, rd_stage_field hf, rd_setH, syncPending, rd_wr_field _ _ _ (Ne.symm hp)]
  exact rd_stage_of_mem (stripArgs_nodup e) hm hv

theorem rd_configured_share {e : SubEntry} {v : Nat} (hm : (f, v) ∈ shareArgs e) (hv : v < 2 ^ f.width) :
    (s.configured e).rd f (eTarget e) = v := rd_stage_of_mem (shareArgs_nodup e) hm hv

theorem rd_configured_field {e : SubEntry} (hs : f ∉ stripFlds) (hr : f ∉ shareFlds)
    (hp : f ≠ .GRID_Q_STRIPS_PENDING) : (s.configured e).rd f r = s.rd f r := by
  rw [configured, rd_stage_field hr, rd_setH, syncPending, rd_wr_field _ _ _ (Ne.symm hp), rd_stage_field hs]

theorem rd_configured_index {e : SubEntry} (h : r ≠ eTarget e) : (s.configured e).rd f r = s.rd f r := by
  rw [configured, rd_stage_index h, rd_setH, syncPending, rd_wr_other _ _ (.inr (Ne.symm h)), rd_stage_index h]

/-- The change of strips is pending exactly where what is staged is not what is in force (R66). -/
theorem rd_configured_pending (e : SubEntry) : (s.configured e).rd .GRID_Q_STRIPS_PENDING (eTarget e) =
    if eArg e 4 5 = s.rd .GRID_Q_STRIPS_COUNT_ACT (eTarget e) ∧
      (eArg e 4 5 = 0 ∨ eArg e 0 4 = s.rd .GRID_Q_STRIPS_FIRST_ACT (eTarget e)) then 0 else 1 := by
  have hcount : (s.stage (eTarget e) (stripArgs e)).rd .GRID_Q_STRIPS_COUNT (eTarget e) = eArg e 4 5 :=
    rd_stage_of_mem (stripArgs_nodup e) (by simp [stripArgs]) (eArg_lt ..)
  have hfirst : (s.stage (eTarget e) (stripArgs e)).rd .GRID_Q_STRIPS_FIRST (eTarget e) = eArg e 0 4 :=
    rd_stage_of_mem (stripArgs_nodup e) (by simp [stripArgs]) (eArg_lt ..)
  have hact (f : Fld) (hf : f ∉ stripFlds) : (s.stage (eTarget e) (stripArgs e)).rd f (eTarget e) = s.rd f (eTarget e) :=
    rd_stage_field hf
  rw [configured, rd_stage_field (show _ ∉ shareFlds by decide), rd_setH, syncPending]
  simp only [hcount, hfirst, hact .GRID_Q_STRIPS_COUNT_ACT (by decide), hact .GRID_Q_STRIPS_FIRST_ACT (by decide)]
  exact rd_wr_fits _ _ _ (by split <;> decide)

end State

/-- Settles O24: what CONFIG writes are plain registers of its quarter, which its completion leaves. -/
theorem configStagesTheQuarter : Obligations.ConfigStagesTheQuarter := by
  intro s e h hs hw ht hc hi
  have hstep : exec (.config e) s = .next (s.cmdConfig e) := rfl
  rw [cmdConfig_in_range h hs hw ht hc hi] at hstep
  refine ⟨_, hstep, ?_⟩
  intro q
  have hdone (f : Fld) (r : Nat) (hf : f.posts = false) : ((s.configured e).done e stSuccess 0).rd f r = (s.configured e).rd f r :=
    (done_posts (.refl _) e stSuccess 0).regs f r hf
  have hstrip (f : Fld) (v : Nat) (hf : f.posts = false) (hm : (f, v) ∈ stripArgs e) (hv : v < 2 ^ f.width)
      (hn : f ∉ shareFlds) (hp : f ≠ .GRID_Q_STRIPS_PENDING) := (hdone f q hf).trans (rd_configured_strip hm hv hn hp)
  have hshare (f : Fld) (v : Nat) (hf : f.posts = false) (hm : (f, v) ∈ shareArgs e) (hv : v < 2 ^ f.width) :=
    (hdone f q hf).trans (rd_configured_share (s := s) hm hv)
  refine ⟨?_, ?_, (hdone _ q rfl).trans (rd_configured_pending e), ?_, ?_, ?_, ?_, ?_, ?_, ?_, ?_, ?_, ?_, ?_, ?inForce, ?others⟩
  case inForce =>
    intro f hf r
    have hplain : f.posts = false ∧ f ∉ stripFlds ∧ f ∉ shareFlds ∧ f ≠ .GRID_Q_STRIPS_PENDING := by
      simp only [List.mem_cons, List.not_mem_nil, or_false] at hf
      rcases hf with rfl | rfl | rfl | rfl <;> decide
    obtain ⟨hp, hn, hm, hq⟩ := hplain
    exact (hdone f r hp).trans (rd_configured_field hn hm hq)
  case others => exact fun f hf r hr => (hdone f r hf).trans (rd_configured_index hr)
  iterate 2 exact hstrip _ _ rfl (by simp [stripArgs]) (eArg_lt ..) (by decide) (by decide)
  all_goals exact hshare _ _ rfl (by simp [shareArgs]) (eArg_lt ..)

end Sys2Proof.Machine
end

section
/-! PROOFS. Sweep start, the park deadline and the drain deadline (R40, R41, R45, R46). -/

namespace Sys2Proof.Machine
namespace State

variable {r s t : State}

/-- What waits for the cut-off at D: the reads that are out, the stalls, the bank commands and the packers' stalls (R46). -/
structure SameWaits (s t : State) : Prop where
  reqs : t.reqs = s.reqs
  stalls : t.stalls = s.stalls
  engines : t.engines = s.engines
  packStalls : t.packStalls = s.packStalls

theorem SameWaits.refl (s : State) : s.SameWaits s := ⟨rfl, rfl, rfl, rfl⟩

theorem SameWaits.trans (h : r.SameWaits s) (h' : s.SameWaits t) : r.SameWaits t :=
  ⟨h'.reqs.trans h.reqs, h'.stalls.trans h.stalls, h'.engines.trans h.engines, h'.packStalls.trans h.packStalls⟩

theorem SameWaits.foldl {α : Type} {l : List α} {f : State → α → State} (hf : ∀ (u : State) (x : α), u.SameWaits (f u x)) :
    s.SameWaits (l.foldl f s) := by
  induction l generalizing s with
  | nil => exact .refl s
  | cons x l ih => exact (hf s x).trans ih

theorem ev_sameWaits (code q inst n : Nat) : s.SameWaits (s.ev code q inst n) := by
  rw [(ev_counts (s := s) code q inst n).eq]
  exact ⟨rfl, rfl, rfl, rfl⟩

theorem goTo_sameWaits (n : Nat) : s.SameWaits (s.goTo n) := by
  rw [goTo_eq]
  exact ⟨rfl, rfl, rfl, rfl⟩

theorem bump_sameWaits (f : Fld) (i n : Nat) : s.SameWaits (s.bump f i n) := by
  unfold bump
  simp only
  split <;> exact ⟨rfl, rfl, rfl, rfl⟩

theorem queue_sameWaits (m : List (Nat × Nat × Nat × MemReq)) (o : List (Nat × Nat)) : s.SameWaits { s with memQ := m, openRow := o } :=
  ⟨rfl, rfl, rfl, rfl⟩

theorem promote_sameWaits (k u ch : Nat) : s.SameWaits (s.promote k u ch) := by
  unfold promote
  split
  · split
    · exact .refl s
    · exact (queue_sameWaits _ s.openRow).trans (ev_sameWaits ..)
  · exact .refl s

theorem serveReq_sameWaits (k u ch : Nat) (x : MemReq) : s.SameWaits (s.serveReq k u ch x) :=
  (queue_sameWaits ..).trans (promote_sameWaits ..)

theorem serveAll_sameWaits (k u ch n : Nat) : s.SameWaits (s.serveAll k u ch n) := by
  induction n generalizing s with
  | zero => exact .refl s
  | succ n ih =>
    rw [serveAll]
    split
    · exact (serveReq_sameWaits ..).trans ih
    · exact .refl s

theorem serveQueues_sameWaits : s.SameWaits s.serveQueues := .foldl fun _ _ => serveAll_sameWaits ..

theorem dropPacked_sameWaits (h : s.packStalls = []) : s.SameWaits s.dropPacked := by
  unfold dropPacked
  rw [h]
  exact SameWaits.trans (s := { s with packStalls := [] }) ⟨rfl, rfl, rfl, h.symm⟩ (.foldl fun _ _ => ⟨rfl, rfl, rfl, rfl⟩)

theorem cutEngines_of_none (h : s.engines = []) : s.cutEngines = s := by rw [cutEngines, h, List.foldl_nil]

/-- The cut-off abandons the reads that are out (R205), and ends the packers' stalls, the bank commands and the channels' queues. -/
def abandoned (s : State) : State :=
  let reqs := s.reqs.filter (fun (r : Req) => !r.lost && !r.direct)
  let u := reqs.foldl (fun (s : State) (r : Req) => (s.bump .SE_STAT_ABANDONED r.engine 1).ev evTagAbandon r.q r.engine 1) { s with reqs := [] }
  (reqs.map (·.engine)).dedup.foldl (fun (s : State) (e : Nat) => s.syncOut e) u

def cutOff (s : State) : State := s.abandoned.dropPacked.cutEngines.serveQueues

theorem drain_eq : s.drain = { s.cutOff with
    stalls := s.cutOff.stalls.filter (fun x => !(x.op.isSome || x.init.cls == 4 || x.init.cls == 6)),
    direct := (s.cutOff.direct.filter (fun (d : DirectStore) => d.st != 2)).map (fun (d : DirectStore) => { d with st := 1 }) } := rfl

theorem drain_reqs : s.drain.reqs = s.cutOff.reqs := by rw [drain_eq]

theorem drain_stalls : s.drain.stalls = s.cutOff.stalls.filter (fun x => !(x.op.isSome || x.init.cls == 4 || x.init.cls == 6)) := by
  rw [drain_eq]

/-- Of the direct stores those accepted stay, and nothing is due of them any more. -/
theorem drain_direct {d : DirectStore} (h : d ∈ s.drain.direct) : d.st = 1 := by
  rw [drain_eq] at h
  obtain ⟨d0, -, rfl⟩ := List.mem_map.1 h
  rfl

theorem abandoned_sameWaits : SameWaits { s with reqs := [] } s.abandoned :=
  SameWaits.trans (.foldl fun _ _ => (bump_sameWaits ..).trans (ev_sameWaits ..)) (.foldl fun _ _ => ⟨rfl, rfl, rfl, rfl⟩)

theorem cutOff_sameWaits (he : s.engines = []) (hp : s.packStalls = []) : SameWaits { s with reqs := [] } s.cutOff := by
  have h := (abandoned_sameWaits (s := s)).trans (dropPacked_sameWaits (abandoned_sameWaits.packStalls.trans hp))
  rw [cutOff, cutEngines_of_none (h.engines.trans he)]
  exact h.trans serveQueues_sameWaits

/-! The operations, from sweep start to the park deadline (R40, R41, R45). -/

variable {o : Op}

theorem sweepOp_placing (ho : s.op? o.id = some o) (hh : s.h .halted o.q = 0) (hp : o.phase = .placing) (hk : o.kind = 0x01) :
    s.sweepOp o.id = s.parkAsIs o.id := by
  simp [sweepOp, ho, hh, hp, hk]

theorem sweepOp_waiting (ho : s.op? o.id = some o) (hh : s.h .halted o.q = 0) (hp : o.phase = .running) (hb : s.barOpen o = false)
    (hk : o.kind = 0x01) (hu : o.units = []) : s.sweepOp o.id = s.parkAsIs o.id := by
  simp [sweepOp, ho, hh, hp, hk, hu, waits, hb]

theorem sweepOp_open (ho : s.op? o.id = some o) (hh : s.h .halted o.q = 0) (hp : o.phase = .running) (hb : s.barOpen o = true)
    (hk : o.kind ≠ 0x40) : s.sweepOp o.id = s := by
  simp [sweepOp, ho, hh, hp, hk, waits, hb]

theorem deadlineOp_running (ho : s.op? o.id = some o) (hh : s.h .halted o.q = 0) (hp : o.phase = .running) (hk : o.kind = 0x01) :
    s.deadlineOp o.id = (((s.abandonPage o.id).endSlotWait o).overrun o.id 1).syncBlanks o.q := by
  simp [deadlineOp, ho, hh, hp, hk, holdsSlot]

theorem parkDeadline_single (h : s.ops = [o]) : s.parkDeadline = s.deadlineOp o.id := by
  rw [parkDeadline, h]
  rfl

theorem op?_single (h : s.ops = [o]) : s.op? o.id = some o := by simp [op?, h]

theorem execPark_of_S {n : Nat} (ho : (s.goTo n).op? o.id = some o) (hh : (s.goTo n).h .halted o.q = 0)
    (ha : (s.goTo n).atParkPoint o = true) (hS : (s.goTo n).cycS ≤ (s.goTo n).pos) :
    exec (.park o.id n) s = .next ((s.goTo n).parkNow o) := by
  have hstep : exec (.park o.id n) s = execPark o.id n s := rfl
  rw [hstep, execPark]
  simp only [ho]
  exact if_pos ⟨hh, ha, .inl hS⟩

theorem exec_drainDeadline (h : s.h .sched 0 = 2) : exec .drainDeadline s = .next ((s.goTo s.cycD).drain.setH .sched 0 3) := by
  have hstep : exec .drainDeadline s = .next (s.schedTo 3) := rfl
  rw [hstep, schedTo_next h, schedStep]

end State
open State

/-- Settles O32: the sweep and the park deadline come down to the operation, the drain deadline to what it leaves of the waits. -/
theorem theSweepParksAndCutsOff : Obligations.TheSweepParksAndCutsOff := by
  intro s o
  refine ⟨?sweepStart, ?sweepOp, ?park, ?parkDeadline, ?drainDeadline⟩
  case sweepStart => exact fun h => congrArg Host.Outcome.next (schedTo_next h)
  case sweepOp =>
    intro v ho hh
    exact ⟨sweepOp_placing ho hh, sweepOp_waiting ho hh, sweepOp_open ho hh⟩
  case park =>
    rintro n u rfl ho hh ha hS hk
    rw [execPark_of_S ho hh ha hS, parkNow, if_neg hk]
  case parkDeadline =>
    rintro u rfl h hops hk hp hh
    have hstep : exec .parkDeadline s = .next (((s.goTo s.cycP).parkDeadline).setH .sched 0 2) :=
      congrArg Host.Outcome.next (schedTo_next h)
    rw [hstep, parkDeadline_single hops, deadlineOp_running (op?_single hops) hh hp hk]
  case drainDeadline =>
    intro h he hp
    have hgo := goTo_sameWaits (s := s) s.cycD
    have hcut := cutOff_sameWaits (hgo.engines.trans he) (hgo.packStalls.trans hp)
    refine ⟨_, exec_drainDeadline h, ?_, ?_, fun d hd => drain_direct (s := s.goTo s.cycD) (setH_direct .. ▸ hd)⟩
    · rw [setH_reqs, drain_reqs, hcut.reqs]
    · rw [setH_stalls, drain_stalls, hcut.stalls]
      exact congrArg (List.filter _) hgo.stalls

end Sys2Proof.Machine
end

section
/-! PROOFS. The budget that the MC delivers (R18, R36, R386). -/

namespace Sys2Proof.Machine
namespace State

variable {s t u : State}

/-! What the MC delivers (R18, R36, R386), and what it leaves: the shares in force. -/

theorem deliverBudget_late (modMetered fixed vmin tmax : Nat) (h : s.h .mcNext 0 ≠ 1) :
    s.deliverBudget true modMetered fixed vmin tmax = (s.wr .TOK_BUDGET_LATE 0 1).mcLog 1 15 0 := by
  simp [deliverBudget, h]

theorem thermal_h {x : Hid} (vmin tmax i : Nat) (hp : x.posts = false) (hc : x ≠ .thermCut) : (s.thermal vmin tmax).h x i = s.h x i := by
  have hset : x ≠ .setAt := fun he => by simp [he, Hid.posts] at hp
  have hlog (v : State) (c d : Nat) : (v.mcLog c 15 d).h x i = v.h x i := (mcLog_posts (.refl v) ..).hid _ _ hp
  have hcut (v : Nat) : (s.setH .thermCut 0 v).h x i = s.h x i := h_setH_name _ _ _ hc.symm
  unfold thermal
  simp only
  repeat' split
  all_goals simp only [hlog, h_wr, h_mark _ _ _ hset, hcut]

theorem deliverBudget_shareAct (late : Bool) (modMetered fixed vmin tmax q : Nat) :
    (s.deliverBudget late modMetered fixed vmin tmax).h .shareAct q = s.h .shareAct q := by
  unfold deliverBudget
  split
  · exact (mcLog_posts (.refl (s.wr .TOK_BUDGET_LATE 0 1)) 1 15 0).hid _ _ rfl
  · simp only [h_wr]
    rw [h_setH_name _ _ _ (by decide), h_setH_name _ _ _ (by decide), thermal_h _ _ _ rfl (by decide)]

theorem deliverBudget_lt09 (late : Bool) (modMetered fixed vmin tmax : Nat) : (s.deliverBudget late modMetered fixed vmin tmax).lt09 = s.lt09 := by
  unfold deliverBudget
  split
  · exact (mcLog_still (.refl (s.wr .TOK_BUDGET_LATE 0 1)) 1 15 0).lt09
  · simp only [wr_lt09, setH_lt09]
    exact (thermal_still (.refl s) vmin tmax).lt09

theorem deliverBudget_cur_late (modMetered fixed vmin tmax : Nat) (h : s.h .mcNext 0 ≠ 1) :
    (s.deliverBudget true modMetered fixed vmin tmax).rd .TOK_BUDGET_LATE 0 = 1 ∧
      (s.deliverBudget true modMetered fixed vmin tmax).rd .TOK_BUDGET_CUR 0 = s.rd .TOK_BUDGET_CUR 0 := by
  have hlog := mcLog_still (.refl (s.wr .TOK_BUDGET_LATE 0 1)) 1 15 0
  rw [deliverBudget_late _ _ _ _ h, hlog.regs _ _ rfl, hlog.regs _ _ rfl]
  exact ⟨rd_wr_fits _ _ _ (by decide), rd_wr_field _ _ _ (by decide)⟩

/-- A budget that is delivered is in force, within its register, and no late bit stands. -/
theorem deliverBudget_cur {late : Bool} (modMetered fixed vmin tmax : Nat) (h : late = false ∨ s.h .mcNext 0 = 1) :
    (s.deliverBudget late modMetered fixed vmin tmax).rd .TOK_BUDGET_LATE 0 = 0 ∧
      (s.deliverBudget late modMetered fixed vmin tmax).rd .TOK_BUDGET_CUR 0 =
        (if s.h .mcNext 0 = 1 then s.rd .TOK_BUDGET_NEXT 0 else ((s.thermal vmin tmax).nextBudget modMetered vmin).1) % 2 ^ 21 := by
  have hdeliver : ¬ (late && !decide (s.h .mcNext 0 = 1)) = true := by
    rcases h with h | h <;> simp [h]
  rw [deliverBudget, if_neg hdeliver]
  refine ⟨rd_wr_fits _ _ _ (by decide), ?_⟩
  rw [rd_wr_field _ _ _ (by decide), rd_wr_field _ _ _ (by decide)]
  exact rd_wr_same ..

end State
end Sys2Proof.Machine
end

section
/-! PROOFS. The budget shared out to the quarters (R36, R38). -/

namespace Sys2Proof.Machine
namespace State

variable {s t u : State}

/-! How B and F are shared out (R36, R38). -/

/-- G(q) of a share in units of 1/4,096. -/
def gross (b f share : Nat) : Nat := (b - f) * share / 4096

/-- A quarter that used more than its allotment is marked (R38). -/
def overdraw (s : State) (used q : Nat) : State := if s.h .allot q < used then s.mark .TOK_Q_STAT_OVERDRAW q else s

/-- A quarter is given `g` tokens, of which what it owes is taken first. -/
def grant (s : State) (q g owed : Nat) : State :=
  let debt := min owed g
  (((((s.setH .allot q (g - debt)).setH .gross q g).setH .owed q owed).wr .TOK_Q_STAT_FREE q (g - debt)).wr .TOK_Q_STAT_DEBT q debt).wr
    .TOK_Q_CARRY_CARRY q (min (owed - debt) 2097151)

theorem h_overdraw {x : Hid} (used q j : Nat) (h : x ≠ .setAt) : (s.overdraw used q).h x j = s.h x j := by
  unfold overdraw
  split
  · exact h_mark _ _ _ h
  · rfl

theorem rd_overdraw {f : Fld} (used q j : Nat) (h : f ≠ .TOK_Q_STAT_OVERDRAW) : (s.overdraw used q).rd f j = s.rd f j := by
  unfold overdraw
  split
  · exact rd_mark_field _ _ h.symm
  · rfl

theorem allotQ_eq (b f : Nat) (metered : List Nat) (q : Nat) :
    ∃ used owed, s.allotQ b f metered q = (s.overdraw used q).grant q (State.gross b f (s.h .shareAct q)) owed := by
  rw [← h_overdraw (metered.getD q 0 + s.bankMetered q / 2 ^ 24) q q (by decide)]
  exact ⟨_, _, rfl⟩

/-- FREE and DEBT of a quarter are together G(q), which is noted. -/
def Shared (t : State) (g : Nat → Nat) (q : Nat) : Prop :=
  t.rd .TOK_Q_STAT_FREE q + t.rd .TOK_Q_STAT_DEBT q = g q ∧ t.h .gross q = g q

theorem grant_shared (g : Nat → Nat) (q owed : Nat) (h : g q < 2 ^ 21) : (s.grant q (g q) owed).Shared g q := by
  have hfree : (s.grant q (g q) owed).rd .TOK_Q_STAT_FREE q = g q - min owed (g q) := by
    rw [grant, rd_wr_field _ _ _ (by decide), rd_wr_field _ _ _ (by decide)]
    exact rd_wr_fits _ _ _ (Nat.lt_of_le_of_lt (Nat.sub_le ..) h)
  have hdebt : (s.grant q (g q) owed).rd .TOK_Q_STAT_DEBT q = min owed (g q) := by
    rw [grant, rd_wr_field _ _ _ (by decide)]
    exact rd_wr_fits _ _ _ (Nat.lt_of_le_of_lt (Nat.min_le_right ..) h)
  have hgross : (s.grant q (g q) owed).h .gross q = g q := by
    simp only [grant, h_wr]
    rw [h_setH_name _ _ _ (by decide), h_setH_same]
  rw [Shared, hfree, hdebt]
  exact ⟨Nat.sub_add_cancel (Nat.min_le_right ..), hgross⟩

theorem grant_shared_index {g : Nat → Nat} {q r : Nat} (n owed : Nat) (h : q ≠ r) (hr : s.Shared g r) : (s.grant q n owed).Shared g r := by
  have hrd (f : Fld) : (s.grant q n owed).rd f r = s.rd f r := by
    simp only [grant, rd_wr_other _ _ (.inr h), rd_setH]
  have hgross : (s.grant q n owed).h .gross r = s.h .gross r := by
    simp only [grant, h_wr]
    rw [h_setH_name _ _ _ (by decide), h_setH_index _ h, h_setH_name _ _ _ (by decide)]
  simpa only [Shared, hrd, hgross] using hr

/-- What the sharing leaves: the shares in force and F. -/
structure SameShares (s t : State) : Prop where
  share : ∀ q, t.h .shareAct q = s.h .shareAct q
  fixed : t.rd .TOK_FIXED_FIXED 0 = s.rd .TOK_FIXED_FIXED 0

theorem allotQ_sameShares (b f : Nat) (metered : List Nat) (q : Nat) : s.SameShares (s.allotQ b f metered q) := by
  obtain ⟨used, owed, he⟩ := allotQ_eq (s := s) b f metered q
  rw [he]
  constructor
  · intro r
    simp only [grant, h_wr]
    rw [h_setH_name _ _ _ (by decide), h_setH_name _ _ _ (by decide), h_setH_name _ _ _ (by decide), h_overdraw _ _ _ (by decide)]
  · simp only [grant]
    rw [rd_wr_field _ _ _ (by decide), rd_wr_field _ _ _ (by decide), rd_wr_field _ _ _ (by decide)]
    exact rd_overdraw _ _ _ (by decide)

theorem allotQ_shared {b f : Nat} (metered : List Nat) {q r : Nat} {g : Nat → Nat} (hg : g q = State.gross b f (s.h .shareAct q)) (hb : g q < 2 ^ 21)
    (hr : r = q ∨ s.Shared g r) : (s.allotQ b f metered q).Shared g r := by
  obtain ⟨used, owed, he⟩ := allotQ_eq (s := s) b f metered q
  rw [he, ← hg]
  by_cases h : q = r
  · exact h ▸ grant_shared g q owed hb
  · have hold : s.Shared g r := hr.resolve_left fun e => h e.symm
    refine grant_shared_index _ _ h ?_
    simpa only [Shared, rd_overdraw _ _ _ (show Fld.TOK_Q_STAT_FREE ≠ .TOK_Q_STAT_OVERDRAW by decide),
      rd_overdraw _ _ _ (show Fld.TOK_Q_STAT_DEBT ≠ .TOK_Q_STAT_OVERDRAW by decide), h_overdraw _ _ _ (show Hid.gross ≠ .setAt by decide)] using hold

/-- The quarters' allotments, one after the other. -/
def allotAll (s : State) (b f : Nat) (metered : List Nat) (n : Nat) : State :=
  (List.range n).foldl (fun (s : State) (q : Nat) => s.allotQ b f metered q) s

theorem allotAll_succ (b f : Nat) (metered : List Nat) (n : Nat) :
    s.allotAll b f metered (n + 1) = (s.allotAll b f metered n).allotQ b f metered n := by
  rw [allotAll, List.range_succ, List.foldl_append]
  rfl

theorem allotAll_sameShares (b f : Nat) (metered : List Nat) (n : Nat) : s.SameShares (s.allotAll b f metered n) := by
  induction n with
  | zero => exact ⟨fun _ => rfl, rfl⟩
  | succ n ih =>
    have h := allotQ_sameShares (s := s.allotAll b f metered n) b f metered n
    rw [allotAll_succ]
    exact ⟨fun q => (h.share q).trans (ih.share q), h.fixed.trans ih.fixed⟩

theorem allotAll_shared {b f : Nat} (metered : List Nat) {n : Nat} {g : Nat → Nat} (hg : ∀ q, g q = State.gross b f (s.h .shareAct q))
    (hb : ∀ q < n, g q < 2 ^ 21) : ∀ q < n, (s.allotAll b f metered n).Shared g q := by
  induction n with
  | zero => exact fun q hq => absurd hq (Nat.not_lt_zero q)
  | succ n ih =>
    intro q hq
    have hshare := (allotAll_sameShares (s := s) b f metered n).share n
    rw [allotAll_succ]
    refine allotQ_shared metered (by rw [hg, hshare]) (hb n (Nat.lt_succ_self n)) ?_
    rcases Nat.lt_succ_iff_lt_or_eq.1 hq with h | h
    · exact .inr (ih (fun r hr => hb r (Nat.lt_succ_of_lt hr)) q h)
    · exact .inl h

/-- What the shares take of `n` tokens is no more than their sum takes. -/
theorem sum_gross_le (b f : Nat) (l : List Nat) : (l.map (State.gross b f)).sum ≤ State.gross b f l.sum := by
  induction l with
  | nil => exact Nat.zero_le _
  | cons x l ih =>
    rw [List.map_cons, List.sum_cons, List.sum_cons]
    calc State.gross b f x + (l.map (State.gross b f)).sum
        ≤ State.gross b f x + State.gross b f l.sum := Nat.add_le_add_left ih _
      _ ≤ State.gross b f (x + l.sum) := by
        rw [State.gross, State.gross, State.gross, Nat.mul_add]
        exact Nat.div_add_div_le_add_div ..

theorem gross_le {b f share : Nat} (h : share ≤ 4096) : State.gross b f share ≤ b - f := by
  have hmul : (b - f) * share ≤ (b - f) * 4096 := Nat.mul_le_mul_left _ h
  rw [State.gross]
  omega

end State
end Sys2Proof.Machine
end

section
/-! PROOFS. TOKEN_BUDGET_LOAD, in the states that its statement is about and in those that it is not (R36, R38). -/

namespace Sys2Proof.Machine
namespace State

variable {s t u : State}

/-- The sum of the shares in force. -/
def shareSum (s : State) : Nat := ((List.range s.nQ).map (fun (q : Nat) => s.h .shareAct q)).sum

theorem nQ_of_lt09 (h : t.lt09 = s.lt09) : t.nQ = s.nQ := by rw [nQ, nQ, h]

theorem allotAll_still (b f : Nat) (metered : List Nat) (n : Nat) : s.Still (s.allotAll b f metered n) :=
  .foldl (.refl s) fun u _ => allotQ_still (.refl u) ..

theorem shareBudget_eq (metered : List Nat) : s.shareBudget metered =
    let b := s.rd .TOK_BUDGET_CUR 0
    let f := s.rd .TOK_FIXED_FIXED 0
    let u := s.allotAll b f metered s.nQ
    (u.setH .fixedAct 0 (min f b)).setH .reserve 0 (b - f - ((List.range u.nQ).map (fun q => u.h .gross q)).sum) := rfl

theorem shareBudget_fixed (metered : List Nat) : (s.shareBudget metered).rd .TOK_FIXED_FIXED 0 = s.rd .TOK_FIXED_FIXED 0 :=
  (allotAll_sameShares (s := s) _ _ metered s.nQ).fixed

/-- A budget that its register holds is shared out with nothing lost: G(q) to each quarter, F, and the rest in reserve (R36). -/
theorem shareBudget_shares (metered : List Nat) (hb : s.rd .TOK_BUDGET_CUR 0 < 2 ^ 21) (hs : s.shareSum ≤ 4096) :
    let b := s.rd .TOK_BUDGET_CUR 0
    let f := s.rd .TOK_FIXED_FIXED 0
    (∀ q < s.nQ, (s.shareBudget metered).rd .TOK_Q_STAT_FREE q + (s.shareBudget metered).rd .TOK_Q_STAT_DEBT q = State.gross b f (s.h .shareAct q)) ∧
      (s.shareBudget metered).h .fixedAct 0 = min f b ∧
      (s.shareBudget metered).h .fixedAct 0 + (s.shareBudget metered).h .reserve 0 +
        ((List.range s.nQ).map (fun q => (s.shareBudget metered).h .gross q)).sum = b := by
  intro b f
  have hn : (s.allotAll b f metered s.nQ).nQ = s.nQ := nQ_of_lt09 (allotAll_still ..).lt09
  have hgross : ∀ q < s.nQ, State.gross b f (s.h .shareAct q) < 2 ^ 21 := fun q hq =>
    Nat.lt_of_le_of_lt ((gross_le ((le_sum_range (fun q => s.h .shareAct q) hq).trans hs)).trans (Nat.sub_le ..)) hb
  have hshared := allotAll_shared (s := s) (b := b) (f := f) metered (g := fun q => State.gross b f (s.h .shareAct q)) (fun _ => rfl) hgross
  have hsum : ((List.range s.nQ).map (fun q => (s.allotAll b f metered s.nQ).h .gross q)).sum ≤ b - f := by
    have hmap : (List.range s.nQ).map (fun q => (s.allotAll b f metered s.nQ).h .gross q) =
        ((List.range s.nQ).map (fun q => s.h .shareAct q)).map (State.gross b f) := by
      rw [List.map_map]
      exact List.map_congr_left fun q hq => (hshared q (List.mem_range.1 hq)).2
    rw [hmap]
    exact (sum_gross_le ..).trans (gross_le hs)
  have hfix : (s.shareBudget metered).h .fixedAct 0 = min f b := by
    rw [shareBudget_eq, h_setH_name _ _ _ (by decide), h_setH_same]
  have hres : (s.shareBudget metered).h .reserve 0 =
      b - f - ((List.range s.nQ).map (fun q => (s.allotAll b f metered s.nQ).h .gross q)).sum := by
    rw [shareBudget_eq, h_setH_same, hn]
  have hg (q : Nat) : (s.shareBudget metered).h .gross q = (s.allotAll b f metered s.nQ).h .gross q := by
    rw [shareBudget_eq, h_setH_name _ _ _ (by decide), h_setH_name _ _ _ (by decide)]
  refine ⟨fun q hq => (hshared q hq).1, hfix, ?_⟩
  simp only [hfix, hres, hg]
  omega

/-- B as the MC computes it is at most the cap's tokens for the next turn (R36). -/
theorem nextBudget_le (modMetered vmin tmax : Nat) :
    ((s.thermal vmin tmax).nextBudget modMetered vmin).1 ≤ s.capW * s.lenAfter / 16000 := by
  have hstill := thermal_still (.refl s) vmin tmax
  have hcap : (s.thermal vmin tmax).capW = s.capW := by rw [capW, capW, hstill.lt09]
  have hlen : (s.thermal vmin tmax).lenAfter = s.lenAfter := by
    rw [lenAfter, lenAfter, len, len, thermal_h _ _ _ rfl (by decide), hstill.regs _ _ rfl]
  rw [nextBudget, hcap, hlen]
  exact Nat.sub_le ..

theorem goTo_lenAfter (n : Nat) : (s.goTo n).lenAfter = s.lenAfter := by
  rw [lenAfter, lenAfter, goTo_len, goTo_h _ _ (by decide) (by decide)]

/-- A budget delivered is within its register: it was, or it is cut to it. -/
theorem deliverBudget_fits (late : Bool) (modMetered fixed vmin tmax : Nat) (hb : s.rd .TOK_BUDGET_CUR 0 < 2 ^ 21) :
    (s.deliverBudget late modMetered fixed vmin tmax).rd .TOK_BUDGET_CUR 0 < 2 ^ 21 := by
  by_cases h : late = false ∨ s.h .mcNext 0 = 1
  · rw [(deliverBudget_cur _ _ _ _ h).2]
    exact Nat.mod_lt _ (by decide)
  · obtain ⟨hl, hm⟩ := not_or.1 h
    rw [Bool.eq_true_of_not_eq_false hl, (deliverBudget_cur_late _ _ _ _ hm).2]
    exact hb

/-- What the MC delivered before the sharing: the budget in force and its late bit stay. -/
theorem loadBudget_regs {f : Fld} (late : Bool) (metered : List Nat) (modMetered fixed vmin tmax : Nat) (hf : f.perTurn = true) :
    (s.loadBudget late metered modMetered fixed vmin tmax).rd f 0 = (s.deliverBudget late modMetered fixed vmin tmax).rd f 0 := by
  rw [loadBudget_eq, (shareBudget_still metered).regs f 0 hf, rd_setH, rd_setH]

/-- Every token of the budget in force is an allotment, a debt, a fixed draw or the reserve, by the shares in force in `s` (R36, R38). -/
structure BudgetShared (s t : State) : Prop where
  quarters : ∀ q < s.nQ, t.rd .TOK_Q_STAT_FREE q + t.rd .TOK_Q_STAT_DEBT q =
    (t.rd .TOK_BUDGET_CUR 0 - t.rd .TOK_FIXED_FIXED 0) * s.h .shareAct q / 4096
  fixed : t.h .fixedAct 0 = min (t.rd .TOK_FIXED_FIXED 0) (t.rd .TOK_BUDGET_CUR 0)
  all : t.h .fixedAct 0 + t.h .reserve 0 + ((List.range s.nQ).map (fun (q : Nat) => t.h .gross q)).sum = t.rd .TOK_BUDGET_CUR 0

theorem loadBudget_shared (late : Bool) (metered : List Nat) (modMetered fixed vmin tmax : Nat) (hb : s.rd .TOK_BUDGET_CUR 0 < 2 ^ 21)
    (hs : s.shareSum ≤ 4096) : s.BudgetShared (s.loadBudget late metered modMetered fixed vmin tmax) := by
  let d := ((s.deliverBudget late modMetered fixed vmin tmax).setH .mcNext 0 0).setH .mcFixed 0 0
  have hn : d.nQ = s.nQ := nQ_of_lt09 (deliverBudget_lt09 ..)
  have hshare (q : Nat) : d.h .shareAct q = s.h .shareAct q := by
    rw [h_setH_name _ _ _ (by decide), h_setH_name _ _ _ (by decide), deliverBudget_shareAct]
  have hsum : d.shareSum ≤ 4096 := by simpa only [shareSum, hn, hshare] using hs
  have hcur : (d.shareBudget metered).rd .TOK_BUDGET_CUR 0 = d.rd .TOK_BUDGET_CUR 0 := (shareBudget_still metered).regs _ _ rfl
  have hfixed : (d.shareBudget metered).rd .TOK_FIXED_FIXED 0 = d.rd .TOK_FIXED_FIXED 0 := shareBudget_fixed metered
  obtain ⟨hquarters, hdraws, hall⟩ := shareBudget_shares (s := d) metered (deliverBudget_fits late modMetered fixed vmin tmax hb) hsum
  have hload : s.loadBudget late metered modMetered fixed vmin tmax = d.shareBudget metered := loadBudget_eq ..
  rw [hload]
  constructor
  · intro q hq
    rw [hcur, hfixed, hquarters q (hn ▸ hq), hshare]
    rfl
  · rw [hcur, hfixed, hdraws]
  · rw [hcur, ← hn]
    exact hall

/-- The budget in force after the command: the one that the MC has delivered, or the old one with LATE. -/
structure BudgetLoaded (s t : State) (late : Bool) : Prop where
  stays : late = true → s.h .mcNext 0 ≠ 1 → t.rd .TOK_BUDGET_LATE 0 = 1 ∧ t.rd .TOK_BUDGET_CUR 0 = s.rd .TOK_BUDGET_CUR 0
  computed : late = false → s.h .mcNext 0 ≠ 1 → t.rd .TOK_BUDGET_LATE 0 = 0 ∧ t.rd .TOK_BUDGET_CUR 0 ≤ s.capW * s.lenAfter / 16000
  given : s.h .mcNext 0 = 1 → t.rd .TOK_BUDGET_LATE 0 = 0 ∧ t.rd .TOK_BUDGET_CUR 0 = s.rd .TOK_BUDGET_NEXT 0 % 2 ^ 21

theorem loadBudget_loaded (late : Bool) (metered : List Nat) (modMetered fixed vmin tmax : Nat) :
    s.BudgetLoaded (s.loadBudget late metered modMetered fixed vmin tmax) late := by
  constructor <;> rw [loadBudget_regs _ _ _ _ _ _ rfl, loadBudget_regs _ _ _ _ _ _ rfl]
  · rintro rfl h
    exact deliverBudget_cur_late _ _ _ _ h
  · intro hl h
    obtain ⟨hlate, hcur⟩ := deliverBudget_cur modMetered fixed vmin tmax (.inl hl)
    rw [if_neg h] at hcur
    exact ⟨hlate, hcur ▸ (Nat.mod_le ..).trans (nextBudget_le ..)⟩
  · intro h
    obtain ⟨hlate, hcur⟩ := deliverBudget_cur (late := late) modMetered fixed vmin tmax (.inr h)
    rw [if_pos h] at hcur
    exact ⟨hlate, hcur⟩

/-- The note that the step of the schedule is made changes nothing of this. -/
theorem BudgetShared.setSched (h : s.BudgetShared t) (n : Nat) : s.BudgetShared (t.setH .sched 0 n) := by
  have hh {x : Hid} (i : Nat) (hx : Hid.sched ≠ x) : (t.setH .sched 0 n).h x i = t.h x i := h_setH_name _ _ _ hx
  obtain ⟨hquarters, hfixed, hall⟩ := h
  constructor <;> simp only [rd_setH, hh _ (show Hid.sched ≠ .fixedAct by decide), hh _ (show Hid.sched ≠ .reserve by decide),
    hh _ (show Hid.sched ≠ .gross by decide)] <;> assumption

theorem BudgetLoaded.setSched {late : Bool} (h : s.BudgetLoaded t late) (n : Nat) : s.BudgetLoaded (t.setH .sched 0 n) late := by
  obtain ⟨hlate, hcomputed, hgiven⟩ := h
  constructor <;> simp only [rd_setH] <;> assumption

theorem exec_tokenBudgetLoad (late : Bool) (metered : List Nat) (modMetered fixed vmin tmax : Nat) (h : s.h .sched 0 = 7) :
    exec (.tokenBudgetLoad late metered modMetered fixed vmin tmax) s =
      .next (((s.goTo (s.cycW 3584)).loadBudget late metered modMetered fixed vmin tmax).setH .sched 0 8) := by
  have hstep : exec (.tokenBudgetLoad late metered modMetered fixed vmin tmax) s = .next (s.schedDo 8 fun u =>
    (u.goTo (u.cycW 3584)).loadBudget late metered modMetered fixed vmin tmax) := rfl
  rw [hstep, schedDo_of_due (Nat.le_of_eq h), schedTo_of_done (Nat.le_of_eq h.symm)]

/-- What O11 says holds of a state whose budget in force is one that TOK_BUDGET CUR, of 21 bits, can hold: every sound state is such. -/
theorem tokenBudgetLoad_shares (late : Bool) (metered : List Nat) (modMetered fixed vmin tmax : Nat) (h : s.h .sched 0 = 7)
    (hs : s.shareSum ≤ 4096) (hb : s.rd .TOK_BUDGET_CUR 0 < 2 ^ 21) :
    ∃ t, exec (.tokenBudgetLoad late metered modMetered fixed vmin tmax) s = .next t ∧ s.BudgetShared t ∧ s.BudgetLoaded t late := by
  have hrd {f : Fld} (h1 : f ≠ .PMC_VAL_COUNT) (h2 : f ≠ .PMC_VAL_SAT) : (s.goTo (s.cycW 3584)).rd f 0 = s.rd f 0 := goTo_reg _ _ h1 h2
  have hshare (q : Nat) : (s.goTo (s.cycW 3584)).h .shareAct q = s.h .shareAct q := goTo_h _ _ (by decide) (by decide)
  have hnext : (s.goTo (s.cycW 3584)).h .mcNext 0 = s.h .mcNext 0 := goTo_h _ _ (by decide) (by decide)
  have hn : (s.goTo (s.cycW 3584)).nQ = s.nQ := nQ_of_lt09 (goTo_lt09 _)
  have hsum : (s.goTo (s.cycW 3584)).shareSum ≤ 4096 := by simpa only [shareSum, hn, hshare] using hs
  have hcap : (s.goTo (s.cycW 3584)).capW = s.capW := by rw [capW, capW, goTo_lt09]
  obtain ⟨hquarters, hfixed, hall⟩ := loadBudget_shared late metered modMetered fixed vmin tmax
    ((hrd (by decide) (by decide)).trans_lt hb) hsum
  obtain ⟨hlate, hcomputed, hgiven⟩ := loadBudget_loaded (s := s.goTo (s.cycW 3584)) late metered modMetered fixed vmin tmax
  rw [hn] at hquarters hall
  simp only [hshare] at hquarters
  rw [hnext, hrd (by decide) (by decide)] at hlate hgiven
  rw [hnext, hcap, goTo_lenAfter] at hcomputed
  exact ⟨_, exec_tokenBudgetLoad _ _ _ _ _ _ h, .setSched ⟨hquarters, hfixed, hall⟩ 8, .setSched ⟨hlate, hcomputed, hgiven⟩ 8⟩

/-- A budget in force that TOK_BUDGET CUR cannot hold, with the whole of it the share of quarter 0. -/
def overfull : State :=
  (({ State.reset with regs := [(regKey .TOK_BUDGET_CUR 0, 2 ^ 22)] }).setH .sched 0 7).setH .shareAct 0 4096

end State
open State

/-- Refutes O11: the statement is of every state, sound or not, and a budget in force beyond its register stays where the MC is late,
while FREE holds its lowest 21 bits only. `tokenBudgetLoad_shares` proves it of the other states. -/
theorem not_theBudgetIsShared : ¬ Obligations.TheBudgetIsShared := by
  intro h
  have hsched : overfull.h .sched 0 = 7 := by decide +kernel
  obtain ⟨t, ht, hshare, -⟩ := h overfull true [] 0 0 0 0 hsched (by decide +kernel)
  rw [exec_tokenBudgetLoad _ _ _ _ _ _ hsched, Host.Outcome.next.injEq] at ht
  subst ht
  exact absurd (hshare 0 (by decide +kernel)) (by decide +kernel)

end Sys2Proof.Machine
end

section
/-! PROOFS. A fence request: refused, or staged with its tile suspect (R74). -/

namespace Sys2Proof.Machine
namespace State
variable {r s t : State}

/-- No fence is staged and no tile becomes suspect. -/
structure SameFences (s t : State) : Prop where
  fences : t.fences = s.fences
  suspects : t.suspects = s.suspects

theorem SameFences.refl (s : State) : s.SameFences s := ⟨rfl, rfl⟩

theorem SameFences.trans (h1 : r.SameFences s) (h2 : s.SameFences t) : r.SameFences t :=
  ⟨h2.fences.trans h1.fences, h2.suspects.trans h1.suspects⟩

theorem mark_sameFences (f : Fld) (i : Nat) : s.SameFences (s.mark f i) := by
  unfold mark
  split <;> constructor <;> simp

theorem placeBlank_sameFences (o : Op) (top left c : Nat) : s.SameFences (s.placeBlank o top left c) := by
  constructor <;> simp [placeBlank, startAlloc, syncBlanks, setOp]

theorem scanTo_sameFences (q c n : Nat) : s.SameFences (s.scanTo q c n) := by
  induction n generalizing s with
  | zero => exact .refl s
  | succ n ih =>
    unfold scanTo
    split
    · exact .refl s
    · split
      · exact .refl s
      · split
        · exact .refl s
        · simp only
          split
          · exact (placeBlank_sameFences ..).trans ih
          · split <;> constructor <;> simp

section Staging

variable {x y act q : Nat} {mc : Bool}

/-- A fence, or an unfence, joins the staged queue, and GRID_FENCE_STAT shows it. -/
def stageFence (s : State) (x y : Nat) (undo : Bool) : State :=
  let s1 := { s with fences := s.fences ++ [(⟨x, y, undo⟩ : Fence)] }
  (s1.wr .GRID_FENCE_STAT_PENDING 0 s1.fences.length).mark .GRID_FENCE_STAT_BUSY 0

theorem stageFence_fences (undo : Bool) : (s.stageFence x y undo).fences = s.fences ++ [⟨x, y, undo⟩] := (mark_sameFences ..).fences

theorem stageFence_suspects (undo : Bool) : (s.stageFence x y undo).suspects = s.suspects := (mark_sameFences ..).suspects

/-- PENDING counts the staged fences, of which there are at most 64. -/
theorem stageFence_pending (undo : Bool) (h : s.fences.length < 64) :
    (s.stageFence x y undo).rd .GRID_FENCE_STAT_PENDING 0 = s.fences.length + 1 := by
  rw [stageFence, rd_mark_field _ _ (by decide), rd_wr_same, List.length_append, List.length_singleton]
  exact Nat.mod_eq_of_lt (lt_of_le_of_lt h (by decide))

theorem fenceReq_of_refused (h : s.nCols ≤ x ∨ 1040 ≤ y ∨ 64 ≤ s.fences.length ∨ 2 ≤ act ∨ (act = 1 ∧ mc = false)) :
    s.fenceReq x y act mc = s.mark .GRID_FENCE_STAT_REFUSED 0 := if_pos h

theorem fenceReq_unfence (hx : x < s.nCols) (hy : y < 1040) (hf : s.fences.length < 64) : s.fenceReq x y 1 true = s.stageFence x y true := by
  have hin : ¬ (x ≥ s.nCols ∨ y ≥ 1040 ∨ s.fences.length ≥ 64 ∨ 1 ≥ 2 ∨ 1 = 1 ∧ true = false) := by
    simp only [reduceCtorEq, and_false, or_false]
    omega
  rw [fenceReq, if_neg hin, if_pos rfl]
  rfl

theorem fenceReq_fence (hx : x < s.nCols) (hy : y < 1040) (hf : s.fences.length < 64) :
    s.fenceReq x y 0 mc =
      if (s.suspect x y).2 = true then (s.suspect x y).1.stageFence x y false else s.mark .GRID_FENCE_STAT_REFUSED 0 := by
  have hin : ¬ (x ≥ s.nCols ∨ y ≥ 1040 ∨ s.fences.length ≥ 64 ∨ 0 ≥ 2 ∨ 0 = 1 ∧ mc = false) := by omega
  rw [fenceReq, if_neg hin, if_neg Nat.zero_ne_one]
  rfl

theorem suspect_of_mem (hh : s.holder (x / 65) = some q) (hm : ⟨q, x, y⟩ ∈ s.suspects) : s.suspect x y = (s, true) := by
  have hany : s.suspects.any (fun t => t.q == q && t.x == x && t.y == y) = true := List.any_eq_true.2 ⟨_, hm, by simp⟩
  simp [suspect, hh, hany]

/-- A tile that is not yet suspect (R72, R74): the rows examined so far count for the allocator, then the tile joins the suspects of its quarter, up to
8 of them in a turn. -/
theorem suspect_of_not_mem (hh : s.holder (x / 65) = some q) (hm : ⟨q, x, y⟩ ∉ s.suspects) :
    s.suspect x y =
      let u := s.scanTo q (s.now - 1) s.allocQ.length
      let n := (s.suspects.filter (fun t => t.q == q)).length
      if 8 ≤ n then (u, false) else (({ u with suspects := s.suspects ++ [⟨q, x, y⟩] } : State).wr .GRID_Q_STAT_SUSPECTS q (n + 1), true) := by
  have hany : s.suspects.any (fun t => t.q == q && t.x == x && t.y == y) = false := by
    refine List.any_eq_false.2 fun t ht hmatch => hm ?_
    obtain ⟨tq, tx, ty⟩ := t
    simp only [Bool.and_eq_true, beq_iff_eq] at hmatch
    obtain ⟨⟨rfl, rfl⟩, rfl⟩ := hmatch
    exact ht
  simp only [suspect, hh, hany, Bool.false_eq_true, if_false, ge_iff_le, (scanTo_sameFences (s := s) q (s.now - 1) s.allocQ.length).suspects]

/-- A tile that is suspect, or for which its quarter has room among its 8, is suspect then; nothing is staged. -/
theorem suspect_of_room (hh : s.holder (x / 65) = some q)
    (hroom : ⟨q, x, y⟩ ∈ s.suspects ∨ (s.suspects.filter (fun t => t.q == q)).length < 8) :
    (s.suspect x y).2 = true ∧ (s.suspect x y).1.fences = s.fences ∧ ⟨q, x, y⟩ ∈ (s.suspect x y).1.suspects := by
  by_cases hm : ⟨q, x, y⟩ ∈ s.suspects
  · rw [suspect_of_mem hh hm]
    exact ⟨rfl, rfl, hm⟩
  · have hn : ¬ 8 ≤ (s.suspects.filter (fun t => t.q == q)).length := Nat.not_le.2 (hroom.resolve_left hm)
    rw [suspect_of_not_mem hh hm]
    simp only [if_neg hn, wr_fences, wr_suspects]
    exact ⟨trivial, (scanTo_sameFences ..).fences, List.mem_append_right _ (List.mem_singleton_self _)⟩

end Staging

end State
open State

/-- Settles O27: the refusals first, then the unfence of the MC, then the fence by whether its tile can be suspect. -/
theorem fenceRequestsAreStagedOrRefused : Obligations.FenceRequestsAreStagedOrRefused := by
  intro s x y act mc
  refine ⟨fun h => ?refused, fun hx hy hf => ⟨fun hmc => ?unfence, fun q hh => ⟨fun hroom => ?fence, fun hm hfull => ?full⟩⟩⟩
  case refused =>
    rw [fenceReq_of_refused h]
    exact ⟨rfl, rd_mark_same ..⟩
  case unfence =>
    rw [hmc, fenceReq_unfence hx hy hf]
    exact ⟨stageFence_fences _, stageFence_suspects _⟩
  case fence =>
    obtain ⟨hok, hfences, hsuspect⟩ := suspect_of_room hh hroom
    rw [fenceReq_fence hx hy hf, if_pos hok, stageFence_fences, stageFence_suspects, stageFence_pending _ (by rwa [hfences]), hfences]
    exact ⟨rfl, hsuspect, rfl⟩
  case full =>
    rw [fenceReq_fence hx hy hf, suspect_of_not_mem hh hm]
    simp only [if_pos hfull, Bool.false_eq_true, if_false]

end Sys2Proof.Machine
end

section
/-! PROOFS. Commands that stage what a later command carries out (R74, R168, R286, R326, R327, R374). -/

namespace Sys2Proof.Machine

/-- The register at 0x41c08 is GRID_FENCE_REQ on either module. -/
theorem findReg_fenceReq (lt09 : Bool) : findReg lt09 0x41c08 = some (.GRID_FENCE_REQ, 0) := by
  cases lt09 <;> decide +kernel

namespace State
variable {s : State} {e : SubEntry}

/-- A write of GRID_FENCE_REQ at the request of the MC is a fence request of the MC (R17, R74): its fields are WO, and none is barred. -/
theorem mcWrite_fenceReq (val : Nat) : s.mcWrite 0x41c08 val =
    s.fenceReq (fldOf .GRID_FENCE_REQ_X val) (fldOf .GRID_FENCE_REQ_Y val) (fldOf .GRID_FENCE_REQ_ACTION val) true := by
  have habsent : s.namesAbsent .GRID_FENCE_REQ val = false := Bool.and_false _
  rw [mcWrite, findReg_fenceReq]
  simp only [show mcMay .GRID_FENCE_REQ = true from rfl, if_true]
  rw [regWrite, habsent]
  rfl

/-- The fields of the value that UNFENCE asks for. -/
theorem fldOf_unfence {x y : Nat} (hx : x < 2048) (hy : y < 2048) :
    fldOf .GRID_FENCE_REQ_X (2 ^ 22 + 2 ^ 11 * y + x) = x ∧ fldOf .GRID_FENCE_REQ_Y (2 ^ 22 + 2 ^ 11 * y + x) = y ∧
      fldOf .GRID_FENCE_REQ_ACTION (2 ^ 22 + 2 ^ 11 * y + x) = 1 := by
  show bitsOf _ 0 11 = x ∧ bitsOf _ 11 11 = y ∧ bitsOf _ 22 2 = 1
  unfold bitsOf
  omega

theorem mcWrite_unfence {x y : Nat} (hx : x < s.nCols) (hx' : x < 2048) (hy : y < 1040) (hf : s.fences.length < 64) :
    s.mcWrite 0x41c08 (2 ^ 22 + 2 ^ 11 * y + x) = s.stageFence x y true := by
  obtain ⟨hfx, hfy, hact⟩ := fldOf_unfence hx' (hy.trans (by decide))
  rw [mcWrite_fenceReq, hfx, hfy, hact, fenceReq_unfence hx hy hf]

theorem haltQuarter_halted (q : Nat) (dispose : Bool) :
    (s.haltQuarter q dispose).h .halted q = 1 ∧ (s.haltQuarter q dispose).rd .MB_STAT_HALTED q = 1 ∧
      (s.haltQuarter q dispose).h .dispose q = if dispose = true then 1 else s.h .dispose q := by
  have hh : ((s.setH .halted q 1).mark .MB_STAT_HALTED q).h .halted q = 1 := (h_mark _ _ _ (by decide)).trans (h_setH_same ..)
  have hr : ((s.setH .halted q 1).mark .MB_STAT_HALTED q).rd .MB_STAT_HALTED q = 1 := rd_mark_same ..
  have hd : ((s.setH .halted q 1).mark .MB_STAT_HALTED q).h .dispose q = s.h .dispose q :=
    (h_mark _ _ _ (by decide)).trans (h_setH_name _ _ _ (by decide))
  cases dispose
  · exact ⟨hh, hr, hd⟩
  · have hon : s.haltQuarter q true = ((s.setH .halted q 1).mark .MB_STAT_HALTED q).setH .dispose q 1 := rfl
    rw [hon, h_setH_name _ _ _ (by decide), rd_setH, h_setH_same]
    exact ⟨hh, hr, rfl⟩

/-- LINK of a port that is down: it asks for its rate, and waits until the port is up (R286). -/
theorem cmdLink_of_down (h : s.Serves e 0x803) (hlo : 1 ≤ eArg e 1 3) (hhi : eArg e 1 3 ≤ 6) (hup : s.rd .PT_LINK_STAT_UP (eArg e 0 1) = 0) :
    s.cmdLink e = { s.setH .linkReq (eArg e 0 1) (1 + eArg e 1 3 + 16 * eArg e 4 1) with
      late := s.late ++ [⟨e.page, e.source, eTag e, .linkUp (eArg e 0 1)⟩] } := by
  have hdown : s.flag .PT_LINK_STAT_UP (eArg e 0 1) = false := by simp [flag, hup]
  rw [cmdLink, command_serves h]
  simp only [if_neg (by omega : ¬ (eArg e 1 3 = 0 ∨ 6 < eArg e 1 3)), hdown, Bool.false_eq_true, if_false, setH_late]

/-- A key action of a quarter of the module, with debug closed, is staged, and waits for the key window (R374, R375). -/
theorem keyCommand_stages (action : Nat) (hq : eArg e 0 4 < s.nQ) (hdbg : s.rd .SEC_STAT_DBG_OPEN 0 = 0) :
    s.keyCommand e action = { s.setH .keyStage (eArg e 0 4) action with
      late := s.late ++ [⟨e.page, e.source, eTag e, .keyApplied (eArg e 0 4)⟩] } := by
  have hclosed : s.flag .SEC_STAT_DBG_OPEN 0 = false := by simp [flag, hdbg]
  simp only [keyCommand, if_neg (Nat.not_le.2 hq), hclosed, Bool.false_eq_true, if_false, setH_late]

/-- REPAIR of a row, for the turn (KIND 0) or for good (KIND 2), waits for a window (R168). -/
theorem cmdRepair_row (h : s.Serves e 0x904) (hk : eArg e 0 4 < s.nStacks) (hkind : eArg e 10 4 = 0 ∨ eArg e 10 4 = 2)
    (hroom : (s.repairs.filter (fun r => r.stack == eArg e 0 4 && r.pc == eArg e 4 6 && r.kind == 2)).length < 256) :
    s.cmdRepair e = State.done { s with
      repairs := s.repairs ++ [⟨eArg e 0 4, eArg e 4 6, eArg e 10 4, eArg e 14 4, eArg e 32 32, false⟩] } e stSuccess 1 := by
  rw [cmdRepair, command_serves h]
  rcases hkind with hkind | hkind
  · simp [hkind, Nat.not_le.2 hk]
  · simp [hkind, Nat.not_le.2 hk, Nat.not_le.2 hroom]

/-- REPAIR of a lane whose PC has its spare free asks for its training (R168). -/
theorem cmdRepair_lane (h : s.Serves e 0x904) (hk : eArg e 0 4 < s.nStacks) (hkind : eArg e 10 4 = 3) (hlane : eArg e 18 6 < 35)
    (hfree : s.rd .STK_PC_ERR_SPARE_USED (pcIdx (eArg e 0 4) (eArg e 4 6)) = 0) :
    s.cmdRepair e = (s.setH .spareWant (pcIdx (eArg e 0 4) (eArg e 4 6)) (eArg e 18 6 + 1)).done e stSuccess 1 := by
  have hunused : s.flag .STK_PC_ERR_SPARE_USED (pcIdx (eArg e 0 4) (eArg e 4 6)) = false := by simp [flag, hfree]
  rw [cmdRepair, command_serves h]
  simp [hkind, Nat.not_le.2 hk, Nat.not_le.2 hlane, hunused]

end State
open State

/-- Settles O26: each command, once its entry is served, is its body with the checks passed. A HALT of a quarter that is halted already answers its
executing operations by the model's choice (log entry 40). -/
theorem stagingCommands : Obligations.StagingCommands := by
  intro s e q
  refine ⟨fun h => ?halt, fun h hhalted => ?release, fun h hx hy => ?fence, fun h hempty => ?unfence, fun h hlo hhi hup => ?link,
    fun h hq hdbg => ?keyNew, fun h hq hdbg => ?keyErase, fun h hk hkind hroom => ?row, fun h hk hkind hlane hfree => ?lane⟩
  case halt =>
    have hstep : exec (.halt e) s = .next ((s.haltQuarter q (eArg e 0 1 == 1)).done e stSuccess (s.executing q)) :=
      congrArg Host.Outcome.next (command_serves h _)
    have hposts := done_posts (.refl (s.haltQuarter q (eArg e 0 1 == 1))) e stSuccess (s.executing q)
    obtain ⟨hhalted, hshown, hdispose⟩ := haltQuarter_halted (s := s) q (eArg e 0 1 == 1)
    simp only [beq_iff_eq] at hdispose
    exact ⟨hstep, _, hstep, (hposts.hid _ _ rfl).trans hhalted, (hposts.regs _ _ rfl).trans hshown, (hposts.hid _ _ rfl).trans hdispose⟩
  case release =>
    have hstep : exec (.release e) s = .next ((s.setH .releaseStaged q 1).done e stSuccess 0) := by
      have hbody : exec (.release e) s = .next ((if s.h .halted q = 1 then s.setH .releaseStaged q 1 else s).done e stSuccess 0) :=
        congrArg Host.Outcome.next (command_serves h _)
      rwa [if_pos hhalted] at hbody
    exact ⟨_, hstep, done_posts (.refl _) ..⟩
  case fence =>
    refine congrArg Host.Outcome.next ((command_serves h _).trans (if_neg ?_))
    omega
  case unfence =>
    intro v
    have hstep : exec (.unfence e) s = .next ((s.mcAsk 0x41c08 v).done e stSuccess 0) := congrArg Host.Outcome.next (command_serves h _)
    refine ⟨fun hcp => ?_, fun hcp => ⟨?_, fun hx hy hf => ?_⟩⟩
    · rw [hstep, mcAsk_of_no_cp hcp, hempty, List.nil_append]
    · rw [hstep, mcAsk_of_idle hempty hcp]
    · rw [mcWrite_unfence hx (eArg_lt ..) hy hf, stageFence_fences]
  case link => exact congrArg Host.Outcome.next (cmdLink_of_down h hlo hhi hup)
  case keyNew => exact congrArg Host.Outcome.next ((command_serves h _).trans (keyCommand_stages 1 hq hdbg))
  case keyErase => exact congrArg Host.Outcome.next ((command_serves h _).trans (keyCommand_stages 2 hq hdbg))
  case row => exact congrArg Host.Outcome.next (cmdRepair_row h hk hkind hroom)
  case lane => exact congrArg Host.Outcome.next (cmdRepair_lane h hk hkind hlane hfree)

end Sys2Proof.Machine
end

section
/-! PROOFS. The blank allocator: legal blanks, the scan of a head, and its retry (R69, R71, R72). -/

namespace Sys2Proof.Machine

namespace State
variable {s t : State} {q a n c top left : Nat} {o : Op}

theorem exec_blankAllocation : exec (.blankAllocation q c) s = .next ((s.goTo c).allocate q ((s.goTo c).allocQ.length + 1)) := rfl

theorem exec_allocatorRetry : exec (.allocatorRetry q c) s =
    .next (((s.goTo c).retryAlloc q).allocate q (((s.goTo c).retryAlloc q).allocQ.length + 1)) := rfl

theorem blankLegal_iff {r d : Nat} :
    s.blankLegal q r c d = true ↔ 2 ≤ r ∧ 2 ≤ c ∧ c ≤ 64 * s.rd .GRID_Q_STRIPS_COUNT_ACT q ∧ r + d ≤ 1024 := by
  simp [blankLegal, and_assoc]

/-- The head of the queue is an operation of the quarter that stands in the queue. -/
theorem allocHead_op (h : s.allocHead q = some o) : s.op? o.id = some o ∧ o.q = q ∧ o.id ∈ s.allocQ := by
  obtain ⟨id, hmem, hid⟩ := List.exists_of_findSome?_eq_some h
  split at hid
  · next p hp =>
    split at hid
    · next hpq =>
      cases hid
      rw [op?_id hp]
      exact ⟨hp, hpq.1, hmem⟩
    · cases hid
  · cases hid

theorem allocHead_congr (hq : t.allocQ = s.allocQ) (ho : t.ops = s.ops) : t.allocHead q = s.allocHead q := by
  simp only [allocHead, op?, hq, ho]

theorem allocHead_of_empty (h : s.allocQ = []) : s.allocHead q = none := by rw [allocHead, h, List.findSome?_nil]

/-! The scan goes no further than a head that it may not scan for (R69, R72). -/

theorem scanTo_of_idle (h : s.h .allocAt q = 0) : s.scanTo q c n = s := by
  cases n with
  | zero => rfl
  | succ n => exact if_pos (.inr h)

theorem scanTo_of_no_head (h : s.allocHead q = none) : s.scanTo q c n = s := by
  cases n with
  | zero => rfl
  | succ n => simp [scanTo, h]

theorem scanTo_of_illegal (ho : s.allocHead q = some o) (hl : s.blankLegal q (blankRows o) (blankCols o) (drainRows o) = false) :
    s.scanTo q c n = s := by
  cases n with
  | zero => rfl
  | succ n => simp [scanTo, ho, hl]

section Scan

variable (hh : s.h .halted q ≠ 1) (ha : s.h .allocAt q = a + 1) (hr : s.h .allocRow q = 0) (ho : s.allocHead q = some o)
  (hl : s.blankLegal q (blankRows o) (blankCols o) (drainRows o) = true)
include hh ha hr ho hl

/-- The first place that the rows examined by cycle `c` show is the head's, as of the cycle of its row. -/
theorem scanTo_of_place (hp : s.findPlace q (granH o) (granW o) 0 (min (129 - granH o) (c - (a + 1))) = some (top, left)) :
    s.scanTo q c (n + 1) = (s.placeBlank o top left (a + 2 + top)).scanTo q c n := by
  simp [scanTo, hh, ha, hr, ho, hl, hp]

/-- The last row has shown none: the allocator waits. -/
theorem scanTo_of_no_place (hc : a + 1 + (129 - granH o) ≤ c) (hp : s.findPlace q (granH o) (granW o) 0 (129 - granH o) = none) :
    s.scanTo q c (n + 1) =
      (((s.setH .allocAt q 0).setH .allocRow q 0).setH .allocWait q (a + 2 + (129 - granH o))).setH .allocFree q 0 := by
  have hrows : min (129 - granH o) (c - (a + 1)) = 129 - granH o := Nat.min_eq_left (by omega)
  simp [scanTo, hh, ha, hr, ho, hl, hrows, hp]

end Scan

/-! The allocator after its scan (R69). -/

theorem allocate_of_no_head (h : s.allocHead q = none) : s.allocate q n = s := by
  cases n with
  | zero => rfl
  | succ n => simp [allocate, scanTo_of_no_head h, h]

/-- A scan that leaves no head, or an allocator at rest, ends it. -/
theorem allocate_of_scanned (hs : s.scanTo q s.now s.allocQ.length = t) (h : t.allocHead q = none ∨ t.h .allocAt q = 0) :
    s.allocate q (n + 1) = t := by
  simp only [allocate, hs]
  rcases h with h | h
  · rw [h]
  · split
    · rfl
    · exact if_pos (.inr (.inl h))

theorem allocate_of_illegal (hh : s.h .halted q ≠ 1) (ho : s.allocHead q = some o) (ha : s.h .allocAt q ≠ 0) (hn : s.h .allocAt q ≤ s.now)
    (hl : s.blankLegal q (blankRows o) (blankCols o) (drainRows o) = false) :
    s.allocate q (n + 1) = (((s.finish o.id stBlankTooLarge).startAlloc q (s.h .allocAt q)).syncBlanks q).allocate q n := by
  simp [allocate, scanTo_of_illegal ho hl, ho, hh, ha, Nat.not_lt.2 hn, hl]

/-! An operation that receives its blank (R71, R72). -/

theorem placeBlank_allocQ : (s.placeBlank o top left c).allocQ = s.allocQ.filter (· != o.id) := by
  simp [placeBlank, startAlloc, syncBlanks, setOp]

theorem placeBlank_op (h : s.op? o.id = some o) : (s.placeBlank o top left c).op? o.id =
    some { o with blank := some ⟨left, top, granW o, granH o⟩, phase := .setup, startAt := c + 32 } := by
  have hops : (s.placeBlank o top left c).ops =
      (s.setOp { o with blank := some ⟨left, top, granW o, granH o⟩, phase := .setup, startAt := c + 32 }).ops := by
    simp [placeBlank, startAlloc, syncBlanks, setOp]
  have hput := op?_setOp (o := { o with blank := some ⟨left, top, granW o, granH o⟩, phase := .setup, startAt := c + 32 }) h
  rw [op?, hops]
  exact hput

/-- The operation that is alone in the queue takes its place, and the allocator has no other. -/
theorem allocate_of_place (hh : s.h .halted q ≠ 1) (ha : s.h .allocAt q = a + 1) (hr : s.h .allocRow q = 0) (ho : s.allocHead q = some o)
    (hl : s.blankLegal q (blankRows o) (blankCols o) (drainRows o) = true) (hq : s.allocQ = [o.id])
    (hp : s.findPlace q (granH o) (granW o) 0 (min (129 - granH o) (s.now - (a + 1))) = some (top, left)) :
    s.allocate q (n + 1) = s.placeBlank o top left (a + 2 + top) := by
  have hempty : (s.placeBlank o top left (a + 2 + top)).allocQ = [] := by simp [placeBlank_allocQ, hq]
  refine allocate_of_scanned ?_ (.inl (allocHead_of_empty hempty))
  rw [hq]
  exact scanTo_of_place (n := 0) hh ha hr ho hl hp

theorem allocate_of_no_place (hh : s.h .halted q ≠ 1) (ha : s.h .allocAt q = a + 1) (hr : s.h .allocRow q = 0) (ho : s.allocHead q = some o)
    (hl : s.blankLegal q (blankRows o) (blankCols o) (drainRows o) = true) (hc : a + 1 + (129 - granH o) ≤ s.now)
    (hp : s.findPlace q (granH o) (granW o) 0 (129 - granH o) = none) :
    s.allocate q (n + 1) = (((s.setH .allocAt q 0).setH .allocRow q 0).setH .allocWait q (a + 2 + (129 - granH o))).setH .allocFree q 0 := by
  obtain ⟨m, hm⟩ := Nat.exists_eq_succ_of_ne_zero (List.length_pos_of_mem (allocHead_op ho).2.2).ne'
  refine allocate_of_scanned (hm ▸ scanTo_of_no_place hh ha hr ho hl hc hp) (.inr ?_)
  rw [h_setH_name _ _ _ (by decide), h_setH_name _ _ _ (by decide), h_setH_name _ _ _ (by decide), h_setH_same]

/-! An allocator that starts over (R72). -/

/-- The allocator looks at its head again, which has reached it in cycle `a`: it has examined no row, and does not wait. -/
structure Restarts (s t : State) (q a : Nat) : Prop where
  now : t.now = s.now
  allocQ : t.allocQ = s.allocQ
  head : t.allocHead q = s.allocHead q
  halted : t.h .halted q = s.h .halted q
  strips : t.rd .GRID_Q_STRIPS_COUNT_ACT q = s.rd .GRID_Q_STRIPS_COUNT_ACT q
  reached : t.h .allocAt q = a + 1
  row : t.h .allocRow q = 0
  wait : t.h .allocWait q = 0

theorem startAlloc_restarts (ho : s.allocHead q = some o) : s.Restarts (s.startAlloc q a) q a where
  now := by simp [startAlloc]
  allocQ := by simp [startAlloc]
  head := allocHead_congr (by simp [startAlloc]) (by simp [startAlloc])
  halted := by
    rw [startAlloc, h_setH_name _ _ _ (by decide), h_setH_name _ _ _ (by decide), h_setH_name _ _ _ (by decide), h_setH_name _ _ _ (by decide)]
  strips := by simp [startAlloc]
  reached := by
    rw [startAlloc, h_setH_name _ _ _ (by decide), h_setH_name _ _ _ (by decide), h_setH_name _ _ _ (by decide), h_setH_same, ho]
    rfl
  row := by rw [startAlloc, h_setH_name _ _ _ (by decide), h_setH_name _ _ _ (by decide), h_setH_same]
  wait := by rw [startAlloc, h_setH_name _ _ _ (by decide), h_setH_same]

theorem ev_ops (code i n : Nat) : (s.ev code q i n).ops = s.ops := by rw [(ev_counts ..).eq]

theorem ev_allocQ (code i n : Nat) : (s.ev code q i n).allocQ = s.allocQ := by rw [(ev_counts ..).eq]

theorem ev_now (code i n : Nat) : (s.ev code q i n).now = s.now := by rw [(ev_counts ..).eq]

/-- A retry counts the cycles waited, which moves nothing of the allocator. -/
theorem retryAlloc_restarts (ho : s.allocHead q = some o) (n : Nat) : s.Restarts ((s.ev evBlankWait q 0 n).startAlloc q a) q a := by
  have hc := ev_counts (s := s) evBlankWait q 0 n
  have hhead : (s.ev evBlankWait q 0 n).allocHead q = s.allocHead q := allocHead_congr (ev_allocQ ..) (ev_ops ..)
  have hs := startAlloc_restarts (a := a) (hhead.trans ho)
  exact ⟨hs.now.trans (ev_now ..), hs.allocQ.trans (ev_allocQ ..), hs.head.trans hhead, hs.halted.trans (hc.hid _ _ (by decide) (by decide)),
    hs.strips.trans (hc.regs _ _ (by decide) (by decide)), hs.reached, hs.row, hs.wait⟩

theorem Restarts.legal {r d : Nat} (h : s.Restarts t q a) : t.blankLegal q r c d = s.blankLegal q r c d := by rw [blankLegal, h.strips, blankLegal]

theorem retryAlloc_of_freed {f : Nat} (hw : s.h .allocWait q ≠ 0) (hf : s.h .allocFree q = f + 1) :
    s.retryAlloc q = (s.ev evBlankWait q 0 (f + 1 - s.h .allocWait q)).startAlloc q f := by
  simp [retryAlloc, hw, hf]

end State
open State

/-- Settles O16: no access, end of an operation or move of the allocator's queue moves a token. -/
theorem blanksAreLegal : Obligations.BlanksAreLegal := by
  intro s q c o
  refine ⟨blankLegal_iff, ?_⟩
  intro u v hh ho ha hn hl
  refine ⟨?_, allocate_of_no_head, fun r => ?_⟩
  · rw [exec_blankAllocation]
    exact congrArg Host.Outcome.next (allocate_of_illegal hh ho ha hn hl)
  · have hv : s.Purse v := (((goTo_purse c).trans (finish_purse ..)).trans (startAlloc_purse ..)).trans (syncBlanks_purse q)
    exact ⟨hv.free r, hv.charged r⟩

/-- Settles O17: one scan places the head or leaves the allocator waiting, and a retry is such a scan from the cycle of the release. -/
theorem blanksAreAllocated : Obligations.BlanksAreAllocated := by
  intro s q c o u h w hh ho hl
  refine ⟨fun a top left ha hr hq hp => ⟨?place, ?setup⟩, fun a ha hr hc hp => ?none, fun f hw hf => ?retry⟩
  case place => exact congrArg Host.Outcome.next (allocate_of_place hh ha hr ho hl hq hp)
  case setup => exact placeBlank_op (allocHead_op ho).1
  case none => exact congrArg Host.Outcome.next (allocate_of_no_place hh ha hr ho hl hc hp)
  case retry =>
    intro v
    have hv : u.Restarts v q f := retryAlloc_restarts ho _
    have hstep : exec (.allocatorRetry q c) s = .next (v.allocate q (u.allocQ.length + 1)) := by
      rw [exec_allocatorRetry, retryAlloc_of_freed hw hf, ← hv.allocQ]
    refine ⟨hstep, hv.reached, hv.wait, fun top left hq hp => ?_⟩
    rw [hstep]
    rw [← hv.now] at hp
    exact congrArg Host.Outcome.next (allocate_of_place (hv.halted.trans_ne hh) hv.reached hv.row (hv.head.trans ho) (hv.legal.trans hl)
      (hv.allocQ.trans hq) hp)

end Sys2Proof.Machine
end

section
/-! PROOFS. Extents, strips, quarters and bank regions whose scan is complete (R68, R127, R133, R215). -/

namespace Sys2Proof.Machine

namespace State
variable {s : State} {k : Nat}

/-- The key of a byte names its tier, its unit and its address. -/
theorem mkey_parts {t u : Nat} (ht : t < 4) (hu : u < 16) (a : Nat) : mkey t u a % 4 = t ∧ mkey t u a / 4 % 16 = u ∧ mkey t u a / 64 = a := by
  unfold mkey
  omega

/-- A byte of device memory that is wiped reads as zero. -/
theorem memByte_wipe {p : Nat → Nat → Nat → Bool} {t u a : Nat} (ht : t < 3) (hu : u < 16) (hp : p t u a = true) : (s.wipe p).memByte t u a = 0 := by
  obtain ⟨htier, hunit, haddr⟩ := mkey_parts (ht.trans (by decide)) hu a
  rw [memByte, if_neg ht.ne, wipe, Tab.get_keep]
  simp only [htier, hunit, haddr, hp, Bool.not_true, Bool.false_eq_true, if_false]

theorem nStacks_le : s.nStacks ≤ 12 := by
  unfold nStacks
  split <;> decide

/-- The bytes of extent `k` (R127): GiB k mod 96 of stack k div 96. -/
theorem extent_bytes {a : Nat} (ha : a < 2 ^ 30) :
    k % 96 * 2 ^ 30 + a < 96 * 2 ^ 30 ∧ 96 * (k / 96) + (k % 96 * 2 ^ 30 + a) / 2 ^ 30 = k := by omega

theorem exec_unitZeroed_extent (h : s.rd .MEM_EXT_STATE k = 2) :
    exec (.unitZeroed false k) s = .next ((((s.setH .pcPoison k 0).wipe (fun t u a =>
      t == 1 && decide (a < 96 * 2 ^ 30) && 96 * u + a / 2 ^ 30 == k)).wr .MEM_EXT_STATE k 0).lateDone (.unitFree false k) 0) := if_pos h

theorem exec_stripCleared (h : s.rd .GRID_STRIP_STATE_STATE k = 2) : exec (.stripCleared k) s =
    .next ((s.flushLines (s.plaza.filter (fun l => l.slice / 16 == k))).wr .GRID_STRIP_STATE_STATE k 0) := if_pos h

theorem exec_rehomeScanComplete (hr : s.rd .PLZ_Q_CFG_REHOME k = 1) (hs : s.h .scanAt (16 + k) + 98304 ≤ s.now) :
    exec (.rehomeScanComplete k) s = .next ((s.flushLines
      (s.plaza.filter (fun l => l.q == k && l.slice != s.homeSlice k l.tier l.unit l.addr))).wr .PLZ_Q_CFG_REHOME k 0) :=
  if_pos ⟨beq_iff_eq.2 hr, hs⟩

theorem exec_bankReady (ha : s.rd .BANK_CFG_ACTIVE k = 1) (hr : s.rd .BANK_CFG_READY k = 0) (hs : s.h .scanAt k + 98304 ≤ s.now) :
    exec (.bankReady k) s = .next ((s.flushLines
      (s.plaza.filter (fun (l : PLine) => l.tier == 1 && l.unit == k && s.inBank k l.addr))).wr .BANK_CFG_READY k 1) :=
  if_pos ⟨beq_iff_eq.2 ha, by simp [flag, hr], hs⟩

end State
open State

/-- Settles O40: each command whose scan is complete writes its register last, and what is wiped is gone from the table of bytes. -/
theorem scansCompleteAndFree : Obligations.ScansCompleteAndFree := by
  intro s k
  refine ⟨exec_unitZeroed_extent, fun a ha hk => ?bytes, exec_stripCleared, fun hr hs => ⟨_, exec_rehomeScanComplete hr hs, rd_wr_same ..⟩,
    fun ha hr hs => ⟨_, exec_bankReady ha hr hs, rd_wr_same ..⟩⟩
  case bytes =>
    have hstacks : s.nStacks ≤ 12 := nStacks_le
    obtain ⟨hin, hext⟩ := extent_bytes (k := k) ha
    refine memByte_wipe (by decide) (by omega) ?_
    simp only [beq_self_eq_true, decide_eq_true hin, hext, Bool.and_self]

end Sys2Proof.Machine
end

section
/-! PROOFS. A matrix operation on its blank, from its first cycle to its completion (R72, R82, R85, R97 to R101, R114, R196, R314). -/

namespace Sys2Proof.Machine

namespace State
variable {r s u : State} {o : Op} {id t : Nat} {x : WorkUnit}

/-! The start of an operation and of its work units (R72, R82, R85). -/

theorem exec_operationStart (ho : (s.goTo t).op? o.id = some o) (hh : (s.goTo t).h .halted o.q = 0) (hp : o.phase = .setup)
    (hs : o.startAt ≤ (s.goTo t).now) :
    exec (.operationStart o.id t) s = .next ((s.goTo t).setOp { o with
      phase := .running, startAt := (s.goTo t).now, preKey := some (nextUnit o).key, preDone := false,
      preEnd := (s.goTo t).now + tPre o.raw (nextUnit o), replica := false, lastEnd := 0, units := [], unitNo := 0,
      nextAt := (s.goTo t).now + tPre o.raw (nextUnit o),
      needs := needsLoad o 1 (nextUnit o) (s.goTo t).now none ++ needsRun o 1 (nextUnit o) ((s.goTo t).now + tPre o.raw (nextUnit o)) }) := by
  show execOperationStart o.id t s = _
  simp only [execOperationStart, ho]
  exact if_pos ⟨hp, hs, hh⟩

theorem exec_preloadComplete {nb kc : Nat} {s1 s2 : State} {b : List (List (List Nat))} {fl : Nat} {bad : Bool} {es : List Elems}
    (ho : (s.goTo t).op? o.id = some o) (hh : (s.goTo t).h .halted o.q = 0) (hk : o.preKey = some (nb, kc)) (hp : o.phase = .running)
    (hd : o.preDone = false) (he : o.preEnd ≤ (s.goTo t).now) (hdue : (s.goTo t).dataDue o.id Need.preload = false)
    (hB : (s.goTo t).readB (blankClient o) o.raw nb (⟨0, nb, kc⟩ : UnitPos).k0 (if o.replica then some o.repEntry else none) = (s1, .ok (b, fl, bad)))
    (hes : s1.preOperands o ⟨0, nb, kc⟩ = (s2, .ok es)) :
    exec (.preloadComplete o.id t) s = .next (s2.updOp o.id (fun p => { p with
      preDone := true, preEnd := s2.now, preB := b ++ [es.map (·.vals)], preFlags := fl, prePoison := bad || es.any (·.poison) })) := by
  show execPreloadComplete o.id t s = _
  simp only [execPreloadComplete, ho, hk, hB, hes]
  exact if_pos ⟨hp, by rw [hd]; rfl, he, hh, hdue⟩

/-- The plan of the residency after a work unit changes nothing but the preload and what the next work unit reads. -/
theorem planNext_eq (o : Op) (pos : UnitPos) (now : Nat) :
    ∃ pk pd pe rep at_ ns, planNext o pos now = { o with preKey := pk, preDone := pd, preEnd := pe, replica := rep, nextAt := at_, needs := ns } := by
  unfold planNext
  simp only
  split
  · exact ⟨_, _, _, _, _, _, rfl⟩
  · split <;> exact ⟨_, _, _, _, _, _, rfl⟩

theorem laterReqs_ops (n : Nat) (p : Need → Bool) : (s.laterReqs id n p).ops = s.ops := rfl

/-- An operation whose first work unit in hand begins: where its cursor moves, and when the work unit ends (R85). -/
theorem beginUnit_op {pos : UnitPos} (swap : Bool) (faults : List TileFault) (ho : s.op? o.id = some o) (hu : o.units = []) :
    ∃ w x, (s.beginUnit o pos swap faults).op? o.id = some w ∧ w.rowRun = (pos.next o.raw).rowRun ∧ w.nBlock = (pos.next o.raw).nBlock ∧
      w.kChunk = (pos.next o.raw).kChunk ∧ w.actKey = some pos.key ∧ w.unitNo = o.unitNo + 1 ∧ w.lastEnd = s.now + pos.steps o.raw + 1 ∧
      w.units = [x] ∧ x.verdictAt = s.now + pos.steps o.raw + mR o.raw + mC o.raw + 8 := by
  unfold beginUnit
  simp only [hu, List.map_nil, List.nil_append]
  generalize hp : planNext _ pos s.now = p
  obtain ⟨_, _, _, _, _, _, hplan⟩ := planNext_eq _ pos s.now
  rw [hplan] at hp
  subst hp
  refine ⟨_, _, op?_setOp (p := o) ?_, rfl, rfl, rfl, rfl, rfl, rfl, rfl, rfl⟩
  rw [op?, laterReqs_ops, ev_ops, ev_ops]
  exact ho

/-- The next work unit of a matrix operation, which has none in hand, may begin (R41, R79, R85, R87): its barrier holds, it does not pass P and begins
before S, its residency is in place or preloaded, and its first A row is there. -/
structure MayBegin (s : State) (o : Op) : Prop where
  running : o.phase = .running
  matrix : o.kind = 0x01
  left : unitsDone o = false
  last : o.lastEnd ≤ s.now
  unbroken : s.waitBroken o = false
  fits : s.pos + (estOf o.raw).2.2 ≤ s.cycP
  sweep : s.pos < s.cycS
  alone : o.units = []
  placed : o.actKey = some (nextUnit o).key ∨ (o.preKey = some (nextUnit o).key ∧ o.preDone = true ∧ o.preEnd ≤ s.now)
  data : s.dataDue o.id (fun e => e.ofA && e.unit == o.unitNo + 1 && decide (e.at_ ≤ o.nextAt)) = false

theorem exec_workUnitStart (faults : List TileFault) (ho : (s.goTo t).op? o.id = some o) (hh : (s.goTo t).h .halted o.q = 0)
    (hb : (s.goTo t).MayBegin o) :
    exec (.workUnitStart o.id t faults) s =
      .next ((s.goTo t).beginUnit o (nextUnit o) (decide (o.actKey ≠ some (nextUnit o).key)) faults) := by
  obtain ⟨hp, hk, hd, hl, hw, hP, hS, hu, hplaced, hdue⟩ := hb
  have hready : ¬ (o.phase ≠ .running ∨ o.kind ≠ 0x01 ∨ unitsDone o = true ∨ (s.goTo t).now < o.lastEnd ∨ (s.goTo t).h .halted o.q = 1) := by
    simp [hp, hk, hd, hl, hh]
  have htime : ¬ ((s.goTo t).cycP < (s.goTo t).pos + (estOf o.raw).2.2 ∨ (s.goTo t).cycS ≤ (s.goTo t).pos) := by omega
  have hpreloaded : ¬ (decide (o.actKey ≠ some (nextUnit o).key) = true ∧
      (o.preKey ≠ some (nextUnit o).key ∨ (!o.preDone) = true ∨ (s.goTo t).now < o.preEnd)) := by
    rintro ⟨hswap, hpre⟩
    obtain ⟨hkey, hdone, hend⟩ := hplaced.resolve_left (of_decide_eq_true hswap)
    simp [hkey, hdone, Nat.not_lt.2 hend] at hpre
  show execWorkUnitStart o.id t faults s = _
  simp only [execWorkUnitStart, ho, if_neg hready, hw, if_neg htime, if_neg hpreloaded, hdue, Bool.false_eq_true, if_false, hu, finishUnits]

/-! What a verdict leaves alone (R101, R114, R122). -/

/-- The operations stay, and the count of checked work units. -/
structure KeepsChecks (s t : State) : Prop where
  ops : t.ops = s.ops
  checked : ∀ q, t.rd .MX_WIT_STAT_CHECKED q = s.rd .MX_WIT_STAT_CHECKED q

theorem KeepsChecks.refl (s : State) : s.KeepsChecks s := ⟨rfl, fun _ => rfl⟩

theorem KeepsChecks.trans (h1 : r.KeepsChecks s) (h2 : s.KeepsChecks u) : r.KeepsChecks u :=
  ⟨h2.ops.trans h1.ops, fun q => (h2.checked q).trans (h1.checked q)⟩

theorem KeepsChecks.ite {c : Prop} [Decidable c] (hs : r.KeepsChecks s) (hu : r.KeepsChecks u) : r.KeepsChecks (if c then s else u) := by
  split
  · exact hs
  · exact hu

theorem KeepsChecks.foldl {α : Type} {f : State → α → State} (hf : ∀ (v : State) (x : α), v.KeepsChecks (f v x)) (l : List α) :
    s.KeepsChecks (l.foldl f s) := by
  induction l generalizing s with
  | nil => exact .refl s
  | cons x l ih => exact (hf s x).trans ih

theorem wr_keepsChecks {f : Fld} (i v : Nat) (hf : f ≠ .MX_WIT_STAT_CHECKED) : s.KeepsChecks (s.wr f i v) :=
  ⟨rfl, fun _ => rd_wr_field _ _ _ hf⟩

theorem mark_ops (f : Fld) (i : Nat) : (s.mark f i).ops = s.ops := by
  unfold mark
  split <;> simp

theorem bump_ops (f : Fld) (i n : Nat) : (s.bump f i n).ops = s.ops := by
  unfold bump
  simp only
  split <;> simp

theorem bump_now (f : Fld) (i n : Nat) : (s.bump f i n).now = s.now := by
  unfold bump
  simp only
  split <;> simp

theorem mark_keepsChecks {f : Fld} (i : Nat) (hf : f ≠ .MX_WIT_STAT_CHECKED) : s.KeepsChecks (s.mark f i) :=
  ⟨mark_ops .., fun _ => rd_mark_field _ _ hf⟩

theorem mergeFlags_keepsChecks (q fl : Nat) : s.KeepsChecks (s.mergeFlags q fl) := by
  have hflag (v : State) (b : Nat) (f : Fld) (hf : f ≠ .MX_WIT_STAT_CHECKED) : v.KeepsChecks (if bitsOf fl b 1 = 1 then v.mark f q else v) :=
    .ite (mark_keepsChecks q hf) (.refl v)
  simp only [mergeFlags, List.foldl_cons, List.foldl_nil]
  refine ((((hflag s 0 .NUM_FLAGS_NX ?_).trans (hflag _ 1 .NUM_FLAGS_UF ?_)).trans (hflag _ 2 .NUM_FLAGS_OF ?_)).trans
    (hflag _ 3 .NUM_FLAGS_NV ?_)).trans (hflag _ 4 .NUM_FLAGS_ESAT ?_)
  all_goals decide

theorem histCount_keepsChecks (q slot : Nat) (e : Nat × Nat) : s.KeepsChecks (s.histCount q slot e) := by
  have hput (v : State) (cnt sat : Fld) (i n sl : Nat) (hcnt : cnt ≠ .MX_WIT_STAT_CHECKED) (hsat : sat ≠ .MX_WIT_STAT_CHECKED) :
      v.KeepsChecks (if n = 2 ^ 48 - 1 then ((v.wr cnt i n).mark sat i).mark .GH_CTRL_ANY_SAT sl else v.wr cnt i n) :=
    .ite (((wr_keepsChecks i n hcnt).trans (mark_keepsChecks i hsat)).trans (mark_keepsChecks sl (by decide))) (wr_keepsChecks i n hcnt)
  have hmax (v : State) (c : Prop) [Decidable c] (i n : Nat) : v.KeepsChecks (if c then v.wr .GH_CTRL_MAXEXP i n else v) :=
    .ite (wr_keepsChecks i n (by decide)) (.refl v)
  unfold histCount
  by_cases hbin : e.1 < 64
  · simp only [hbin, if_true]
    exact (hput s .GH_BIN_COUNT .GH_BIN_SAT _ _ _ (by decide) (by decide)).trans (hmax _ _ _ _)
  · simp only [hbin, if_false]
    exact (hput s .GH_SPECIAL_COUNT .GH_SPECIAL_SAT _ _ _ (by decide) (by decide)).trans (hmax _ _ _ _)

theorem histCommit_keepsChecks (q slot : Nat) (hist : List (Nat × Nat)) : s.KeepsChecks (s.histCommit q slot hist) := by
  unfold histCommit
  refine KeepsChecks.trans ?_ (.foldl (fun _ e => histCount_keepsChecks q slot e) hist)
  exact ⟨rfl, fun _ => rfl⟩

theorem passUnit_keepsChecks (o : Op) (x : WorkUnit) : s.KeepsChecks (s.passUnit o x) := by
  have hclear : s.KeepsChecks (s.repeatClear o) := ⟨rfl, fun _ => rfl⟩
  exact hclear.trans (.ite ((mergeFlags_keepsChecks ..).trans (histCommit_keepsChecks ..)) (.refl _))

/-! The verdict of the only work unit in hand (R99 to R101). -/

theorem freezeBlank_zero : s.freezeBlank id 0 = s := by
  unfold freezeBlank
  split
  · rfl
  · exact if_pos rfl

theorem finishUnit_of_written (h : x.written = true) : s.finishUnit id x = (s, true) := if_pos h

/-- A work unit is counted as checked, or EV_WIT_SKIP asserted. -/
def countVerdict (s : State) (o : Op) (x : WorkUnit) : State :=
  if x.checked then s.bump .MX_WIT_STAT_CHECKED o.q 1 else s.ev evWitSkip o.q o.slotNo 1

theorem countVerdict_ops : (s.countVerdict o x).ops = s.ops := by
  unfold countVerdict
  split
  · exact bump_ops ..
  · exact ev_ops ..

theorem countVerdict_now : (s.countVerdict o x).now = s.now := by
  unfold countVerdict
  split
  · exact bump_now ..
  · exact ev_now ..

theorem rd_updOp (f : Op → Op) (g : Fld) (i : Nat) : (s.updOp id f).rd g i = s.rd g i := rfl

theorem rd_bump_same (f : Fld) (i n : Nat) : (s.bump f i n).rd f i = min (s.rd f i + n) (2 ^ f.width - 1) := by
  have hfits : (s.wr f i (min (s.rd f i + n) (2 ^ f.width - 1))).rd f i = min (s.rd f i + n) (2 ^ f.width - 1) :=
    rd_wr_fits _ _ _ (lt_of_le_of_lt (Nat.min_le_right ..) (Nat.sub_one_lt (Nat.two_pow_pos _).ne'))
  unfold bump
  simp only
  split
  · rw [rd_setH, rd_setH, hfits]
  · exact hfits

/-- The operation after its work unit has passed: none is in hand, and with none left it ends with success. -/
def passed (x : WorkUnit) (o : Op) : Op :=
  let p := { o with units := [], flags := o.flags ||| x.flags, passed := o.passed + 1, again := o.again - 1 }
  if unitsDone p then { p with phase := .ended, status := some stSuccess } else p

/-- The operation whose tiles test themselves: its cursor is back at the work unit. -/
def testing (x : WorkUnit) (now : Nat) (o : Op) : Op :=
  { o with phase := .testing, units := [], needs := [], rowRun := x.rowRun, nBlock := x.nBlock, kChunk := x.kChunk, preEnd := now + 512 }

theorem passed_id : (passed x o).id = o.id := by
  unfold passed
  simp only
  split <;> rfl

theorem passed_units : (passed x o).units = [] := by
  unfold passed
  simp only
  split <;> rfl

theorem passed_flags : (passed x o).flags = o.flags ||| x.flags := by
  unfold passed
  simp only
  split <;> rfl

theorem passed_status (h : unitsDone o = true) : (passed x o).status = some stSuccess := by
  have hdone : unitsDone { o with units := [], flags := o.flags ||| x.flags, passed := o.passed + 1, again := o.again - 1 } = true := h
  simp only [passed, hdone, if_true]

/-- What the verdict of the only work unit in hand does, in the order of its causes (R99 to R101). -/
def judgeUnit (s : State) (o : Op) (x : WorkUnit) : State :=
  if x.poison then (s.finish o.id stPoisonedData).syncBlanks o.q
  else if x.spillTag then
    ((((s.countVerdict o x).ev evSpillTag o.q o.slotNo 1).mark .MX_WIT_STAT_SPILL_TAG o.q).updOp o.id
      (fun p => { p with rowRun := x.rowRun, nBlock := x.nBlock })).mismatch o.id 2 x.kChunk 0 none
  else if x.checked ∧ x.bound < x.diff then (s.countVerdict o x).updOp o.id (testing x (s.countVerdict o x).now)
  else ((s.countVerdict o x).passUnit o x).updOp o.id (passed x)

theorem exec_witnessVerdict (ho : (s.goTo t).op? o.id = some o) (hh : (s.goTo t).h .halted o.q = 0) (hp : o.phase = .running) (hu : o.units = [x])
    (hv : x.verdictAt ≤ (s.goTo t).now) (hw : x.written = true) :
    exec (.witnessVerdict o.id t 0) s = .next ((s.goTo t).judgeUnit o x) := by
  have hdue : ¬ (o.phase ≠ .running ∨ (s.goTo t).now < x.verdictAt + 0 ∨ (s.goTo t).h .halted o.q = 1) := by
    simp [hp, hh, hv]
  show execWitnessVerdict o.id t 0 s = _
  simp only [execWitnessVerdict, ho, hu, if_neg hdue, freezeBlank_zero, finishUnit_of_written hw, Option.bind_some, List.head?_cons,
    judgeUnit, apply_ite Host.Outcome.next]
  rfl

theorem judgeUnit_of_poison (hbad : x.poison = true) : s.judgeUnit o x = (s.finish o.id stPoisonedData).syncBlanks o.q := if_pos hbad

theorem judgeUnit_of_spillTag (hbad : x.poison = false) (hs : x.spillTag = true) : s.judgeUnit o x =
    ((((s.countVerdict o x).ev evSpillTag o.q o.slotNo 1).mark .MX_WIT_STAT_SPILL_TAG o.q).updOp o.id
      (fun p => { p with rowRun := x.rowRun, nBlock := x.nBlock })).mismatch o.id 2 x.kChunk 0 none := by
  simp only [judgeUnit, hbad, hs, Bool.false_eq_true, if_false, if_true]

theorem judgeUnit_of_exceeds (hbad : x.poison = false) (hs : x.spillTag = false) (hc : x.checked = true) (hd : x.bound < x.diff) :
    s.judgeUnit o x = (s.countVerdict o x).updOp o.id (testing x s.now) := by
  simp only [judgeUnit, hbad, hs, hc, hd, Bool.false_eq_true, if_false, and_self, if_true, countVerdict_now]

theorem judgeUnit_of_passes (hbad : x.poison = false) (hs : x.spillTag = false) (hd : x.checked = false ∨ x.diff ≤ x.bound) :
    s.judgeUnit o x = ((s.countVerdict o x).passUnit o x).updOp o.id (passed x) := by
  have hin : ¬ (x.checked = true ∧ x.bound < x.diff) := by
    rintro ⟨hc, hlt⟩
    rcases hd with hd | hd
    · exact Bool.false_ne_true (hd.symm.trans hc)
    · exact Nat.not_lt.2 hd hlt
  simp only [judgeUnit, hbad, hs, hin, Bool.false_eq_true, if_false]

/-! The self-test and the completion (R100, R314). -/

theorem exec_tileSelfTest_clean {b : Blank} (ho : (s.goTo t).op? o.id = some o) (hp : o.phase = .testing) (he : o.preEnd ≤ (s.goTo t).now)
    (hb : o.blank = some b) : exec (.tileSelfTest o.id t []) s = .next ((s.goTo t).mismatch o.id 1 o.kChunk 0 none) := by
  show execTileSelfTest o.id t [] s = _
  simp [execTileSelfTest, ho, hp, he, hb]

theorem exec_operationComplete {st : Nat} (ho : (s.goTo t).op? o.id = some o) (hp : o.phase = .ended) (hs : o.status = some st)
    (hd : ∀ d ∈ (s.goTo t).direct, d.op ≠ o.id) :
    exec (.operationComplete o.id t) s = .next (((s.goTo t).finish o.id st).syncBlanks o.q) := by
  have hnone : (s.goTo t).direct.any (fun (d : DirectStore) => d.op == o.id) = false := by simpa using hd
  show execOperationComplete o.id t s = _
  simp only [execOperationComplete, ho, hp, hs, hnone, Bool.false_eq_true, if_false]

end State
open State

/-- Settles O35: each command by the branch that its premises choose, and the operation that this leaves. -/
theorem blankOperationsRun : Obligations.BlankOperationsRun := by
  intro s o t u key ho hh
  refine ⟨exec_operationStart ho hh, fun nb kc hk hp hd he hdue s1 b fl bad s2 es hB hes => exec_preloadComplete ho hh hk hp hd he hdue hB hes,
    fun faults hp hk hd hl hw hP hS hu hres hdue => ?start, fun x hp hu hv hw => ?verdict,
    fun b hp he hb => exec_tileSelfTest_clean ho hp he hb, fun st hp hs hd => exec_operationComplete ho hp hs hd⟩
  case start =>
    obtain ⟨w, x, hop, hrest⟩ := beginUnit_op (pos := nextUnit o) (decide (o.actKey ≠ some (nextUnit o).key)) faults ho hu
    exact ⟨_, w, x, exec_workUnitStart faults ho hh ⟨hp, hk, hd, hl, hw, hP, hS, hu, hres, hdue⟩, hop, hrest⟩
  case verdict =>
    rw [exec_witnessVerdict ho hh hp hu hv hw]
    have hop : (u.countVerdict o x).op? o.id = some o := by rwa [op?, countVerdict_ops]
    refine ⟨fun hbad => congrArg Host.Outcome.next (judgeUnit_of_poison hbad), fun hbad hs => ?spill, fun hbad hs hd => ?passes,
      fun hbad hs hc hd => ?exceeds⟩
    case spill =>
      refine ⟨_, congrArg Host.Outcome.next (judgeUnit_of_spillTag hbad hs), ?_⟩
      rw [rd_updOp]
      exact rd_mark_same ..
    case passes =>
      have hkeep : (u.countVerdict o x).KeepsChecks ((u.countVerdict o x).passUnit o x) := passUnit_keepsChecks o x
      have hpass : ((u.countVerdict o x).passUnit o x).op? o.id = some o := by rwa [op?, hkeep.ops]
      refine ⟨_, passed x o, congrArg Host.Outcome.next (judgeUnit_of_passes hbad hs hd), op?_updOp (fun _ => passed_id) hpass, passed_units,
        passed_flags, passed_status, fun hc => (hkeep.checked o.q).trans ?_⟩
      simp only [countVerdict, hc, if_true]
      exact rd_bump_same ..
    case exceeds =>
      exact ⟨_, testing x u.now o, congrArg Host.Outcome.next (judgeUnit_of_exceeds hbad hs hc hd), op?_updOp (fun _ => rfl) hop, rfl, rfl, rfl,
        rfl, rfl, rfl⟩

end Sys2Proof.Machine
end

section
/-! PROOFS. Memory commands (R127, R131, R139, R142, R151, R203, Table 14-5). -/

namespace Sys2Proof.Machine

namespace State

variable {s s1 s2 s3 : State} {e : SubEntry}

/-! Stalled accesses and keep groups (R131, R139, R142). -/

/-- With no stalled access there is none to try again. -/
theorem cmdInvalidate_of_no_stalls (h : s.Serves e 0x200) (hva : eArg e 0 64 % 65536 = 0) (hn : eArg e 64 64 % 65536 = 0)
    (hpos : eArg e 64 64 ≠ 0) (hs : s.stalls = []) :
    s.cmdInvalidate e =
      ((s.dropTlb (eTarget e) (eArg e 0 64) (eArg e 64 64)).resumeFaulted.flushRecords (eTarget e) 0).done e stSuccess 0 := by
  have hdrop : (s.dropTlb (eTarget e) (eArg e 0 64) (eArg e 64 64)).stalls = [] := hs
  rw [cmdInvalidate, command_serves h]
  simp [hva, hn, hpos, hdrop]

/-- With no stalled access there is none to abort. -/
theorem cmdAbortFault_of_no_stalls (h : s.Serves e 0x201) (hs : s.stalls = []) : s.cmdAbortFault e = s.done e stSuccess 0 := by
  have hsame : ({ s with stalls := [] } : State) = s := by rw [← hs]
  rw [cmdAbortFault, command_serves h]
  simp [hs, hsame]

/-- A line is freed where its keep group, if it has one, is named. -/
theorem cmdReleaseKeep_serves (h : s.Serves e 0x205) :
    s.cmdReleaseKeep e = State.done { s with plaza := s.plaza.map (fun (l : PLine) =>
      if (l.q == eTarget e && l.keep.any (fun g => bitsOf (eArg e 0 16) g 1 == 1)) = true then { l with keep := none } else l) }
        e stSuccess 0 := by
  rw [cmdReleaseKeep, command_serves h]
  refine congrArg (fun lines => State.done { s with plaza := lines } e stSuccess 0) (List.map_congr_left fun l _ => ?_)
  beta_reduce
  cases l.keep <;> rfl

/-! Grants and releases of extents (R127). -/

theorem cmdUnit_grant (h : s.Serves e 0x206) (ha : eArg e 0 2 = 1) (hl : eArg e 2 1 = 0) (hi : eArg e 3 11 < 96 * s.nStacks) :
    let s1 := s.cpWrite (0x74000 + 4 * eArg e 3 11) (2 ^ 8 + 2 ^ 4 * eTarget e)
    s.cmdUnit e = s1.done e stSuccess (s1.rd .MEM_EXT_STATE (eArg e 3 11)) := by
  rw [cmdUnit, command_serves h]
  simp [ha, hl, Nat.not_le.2 hi]

/-- The release of an owned extent waits for its zeroing. -/
theorem cmdUnit_release (h : s.Serves e 0x206) (ha : eArg e 0 2 = 2) (hl : eArg e 2 1 = 0) (hi : eArg e 3 11 < 96 * s.nStacks)
    (howned : s.rd .MEM_EXT_STATE (eArg e 3 11) = 1) :
    let s1 := s.cpWrite (0x74000 + 4 * eArg e 3 11) (2 ^ 9 + 2 ^ 4 * eTarget e)
    s1.rd .MEM_EXT_STATE (eArg e 3 11) = 2 →
      s.cmdUnit e = { s1 with late := s1.late ++ [⟨e.page, e.source, eTag e, .unitFree false (eArg e 3 11)⟩] } := by
  intro s1 hclear
  rw [cmdUnit, command_serves h]
  have hext : (eArg e 2 1 == 1) = false := by simp [hl]
  simp only [ha, hext, Bool.false_eq_true, if_false]
  rw [if_neg (by decide), if_neg (Nat.not_le.2 hi), if_neg (by decide)]
  exact if_pos ⟨trivial, howned, hclear⟩

/-! Buffers (R203). -/

theorem moveHead_of_past {q b k : Nat} (h : s.rd .SE_BUF_PTR_FULL (bufIdx q b) < k) :
    s.moveHead q b k = s.mark .SE_BUF_PTR_HEAD_PAST (bufIdx q b) := if_pos h

theorem moveHead_of_full {q b k : Nat} (h : k ≤ s.rd .SE_BUF_PTR_FULL (bufIdx q b)) :
    s.moveHead q b k =
      (s.wr .SE_BUF_PTR_HEAD (bufIdx q b) ((s.rd .SE_BUF_PTR_HEAD (bufIdx q b) + k) % (s.rd .SE_BUF_CFG_SLOTS_M1 (bufIdx q b) + 1))).wr
        .SE_BUF_PTR_FULL (bufIdx q b) (s.rd .SE_BUF_PTR_FULL (bufIdx q b) - k) := if_neg (Nat.not_lt.2 h)

theorem rd_head_moveHead {q b k : Nat} (h : k ≤ s.rd .SE_BUF_PTR_FULL (bufIdx q b)) (hm : s.rd .SE_BUF_CFG_SLOTS_M1 (bufIdx q b) < 64) :
    (s.moveHead q b k).rd .SE_BUF_PTR_HEAD (bufIdx q b) =
      (s.rd .SE_BUF_PTR_HEAD (bufIdx q b) + k) % (s.rd .SE_BUF_CFG_SLOTS_M1 (bufIdx q b) + 1) := by
  rw [moveHead_of_full h, rd_wr_field _ _ _ (by decide)]
  exact rd_wr_fits _ _ _ (Nat.lt_of_lt_of_le (Nat.mod_lt _ (Nat.succ_pos _)) hm)

theorem rd_full_moveHead {q b k : Nat} (h : k ≤ s.rd .SE_BUF_PTR_FULL (bufIdx q b)) (hf : s.rd .SE_BUF_PTR_FULL (bufIdx q b) < 128) :
    (s.moveHead q b k).rd .SE_BUF_PTR_FULL (bufIdx q b) = s.rd .SE_BUF_PTR_FULL (bufIdx q b) - k := by
  rw [moveHead_of_full h]
  exact rd_wr_fits _ _ _ (Nat.lt_of_le_of_lt (Nat.sub_le ..) hf)

theorem cmdSwap_of_pair (h : s.Serves e 0x300) (hb : s.bufSlots (eTarget e) (eArg e 0 4) = some 2)
    (hk : s.rd .SE_BUF_CFG_KIND (bufIdx (eTarget e) (eArg e 0 4)) = 1) :
    s.cmdSwap e = (s.moveHead (eTarget e) (eArg e 0 4) 1).done e stSuccess 0 := by
  rw [cmdSwap, command_serves h]
  simp [hb, flag, hk]

theorem cmdAdvance_of_ring {k : Nat} (h : s.Serves e 0x301) (hlo : 1 ≤ eArg e 8 7) (hhi : eArg e 8 7 ≤ 64)
    (hb : s.bufSlots (eTarget e) (eArg e 0 4) = some k) (hk : s.rd .SE_BUF_CFG_KIND (bufIdx (eTarget e) (eArg e 0 4)) = 0) :
    s.cmdAdvance e = (s.moveHead (eTarget e) (eArg e 0 4) (eArg e 8 7)).done e stSuccess 0 := by
  rw [cmdAdvance, command_serves h]
  simp [hb, flag, hk, Nat.not_lt.2 hhi, Nat.one_le_iff_ne_zero.1 hlo]

/-! The placement of a ledger (R151). -/

section
variable {es : List (Nat × Nat)} {ps : List Placed}

theorem doneWith_success (n : Nat) : s.doneWith e stSuccess n = s.done e stSuccess n := if_neg (by decide)

/-- With an object that does not fit, the report is all that is written. -/
theorem cmdPlace_of_misfit (h : s.Serves e 0x204)
    (hread : s.readEntries (eTarget e) (eTag e) 0 (2 ^ min 24 (s.rd .MMU_LEDGER_LOG2 (eTarget e))) = (s1, .ok es))
    (hps : placeAll (placeOrder es) (s1.ownedFree (eTarget e)) = ps) (hst : placeStatus ps = 2)
    (hreport : s1.vwrite (cpClient (eTarget e) (eTag e)) (eArg e 0 64) (placeReport ps (hostMs (placedIn ps 3) (eArg e 64 32))) = (s2, .ok ())) :
    s.cmdPlace e = s2.done e stSuccess 2 := by
  rw [cmdPlace, command_serves h]
  simp [hread, hps, hst, hreport, doneWith_success]

/-- One object that fits: its entry, then the report. -/
theorem cmdPlace_of_one {i w : Nat} {p : Placed} (h : s.Serves e 0x204)
    (hread : s.readEntries (eTarget e) (eTag e) 0 (2 ^ min 24 (s.rd .MMU_LEDGER_LOG2 (eTarget e))) = (s1, .ok [(i, w)]))
    (hps : placeAll (placeOrder [(i, w)]) (s1.ownedFree (eTarget e)) = [p]) (hobj : p.obj = i) (hst : placeStatus [p] ≠ 2)
    (hentry : s1.vwrite (cpClient (eTarget e) (eTag e)) (s1.ledgerVA (eTarget e) i) (toBytes (placedEntry w p) 64) = (s2, .ok ()))
    (hreport : s2.vwrite (cpClient (eTarget e) (eTag e)) (eArg e 0 64) (placeReport [p] (hostMs (placedIn [p] 3) (eArg e 64 32))) =
      (s3, .ok ())) : s.cmdPlace e = s3.done e stSuccess (placeStatus [p]) := by
  rw [cmdPlace, command_serves h]
  simp [hread, hps, hobj, hst, hentry, hreport, doneWith_success]

end

end State
open State

/-- Settles O28: each command, once its entry is served, is its body with the checks passed. A grant of an extent that is not FREE completes with the
present STATE as well by the model's choice (log entry 40). -/
theorem memoryCommandsAct : Obligations.MemoryCommandsAct := by
  intro s e q va n
  refine ⟨fun h hva hn hpos hs => ?invalidate, fun h hs => ?abortFault, fun h => ?releaseKeep, fun h ha hl hi => ?grant,
    fun h ha hl hi howned hclear => ?release, fun h hb hk => ?swap, fun h hlo hhi k hb hk => ?advance,
    fun h s1 es hread => ⟨fun hst s2 hreport => ?misfit, fun i w p hes hps hobj hst s2 s3 hentry hreport => ?one⟩,
    fun b k _ => ⟨fun hk hf hm => ?moves, moveHead_of_past⟩⟩
  case invalidate => exact congrArg Host.Outcome.next (cmdInvalidate_of_no_stalls h hva hn hpos hs)
  case abortFault => exact congrArg Host.Outcome.next (cmdAbortFault_of_no_stalls h hs)
  case releaseKeep => exact congrArg Host.Outcome.next (cmdReleaseKeep_serves h)
  case grant => exact congrArg Host.Outcome.next (cmdUnit_grant h ha hl hi)
  case release => exact congrArg Host.Outcome.next (cmdUnit_release h ha hl hi howned hclear)
  case swap => exact congrArg Host.Outcome.next (cmdSwap_of_pair h hb hk)
  case advance => exact congrArg Host.Outcome.next (cmdAdvance_of_ring h hlo hhi hb hk)
  case misfit => exact congrArg Host.Outcome.next (cmdPlace_of_misfit h hread rfl hst hreport)
  case one =>
    subst hes
    rw [hps] at hst
    simp only [hps] at hreport ⊢
    exact congrArg Host.Outcome.next (cmdPlace_of_one h hread hps hobj hst hentry hreport)
  case moves => exact ⟨rd_head_moveHead hk hm, rd_full_moveHead hk hf⟩

end Sys2Proof.Machine
end

section
/-! PROOFS. Translations, the home slices, the pages of a move and late reads (R126, R130 to R132, R138, R145, R146, R149). -/

namespace Sys2Proof.Machine

namespace State

variable {s s1 : State} {o : Op}

/-! A home slice serves one request (R126, R130, R131, R132). -/

section
variable {r r1 r2 : PlazaReq}

/-- The unit whose line a request names: in tier 0, the quarter's own. -/
def plazaUnit (r : PlazaReq) : Nat := if r.tier = 0 then r.q else r.unit

theorem plazaServe_of_refused
    (h : (s.ownCheck r.q r.tier (plazaUnit r) (r.addr / 256 * 256)).isSome = true ∨
      (r.tier = 1 ∧ s.inBank (plazaUnit r) (r.addr / 256 * 256) = true ∧ r.noalloc = false) ∨
      (r.tier = 1 ∧ 96 * 2 ^ 30 ≤ r.addr / 256 * 256) ∨ s.meshOk r = false) : s.plazaServe r = (s, 5, []) := by
  refine if_pos ?_
  simp only [Bool.and_eq_true, Bool.or_eq_true, beq_iff_eq, decide_eq_true_eq, Bool.not_eq_true']
  rcases h with hown | ⟨htier, hbank, halloc⟩ | ⟨htier, htop⟩ | hmesh
  · exact .inl hown
  · exact .inr (.inl ⟨htier, .inr ⟨hbank, halloc⟩⟩)
  · exact .inr (.inl ⟨htier, .inl htop⟩)
  · exact .inr (.inr hmesh)

theorem plazaServe_of_read {d : List Byte} {bad : Bool} (hown : s.ownCheck r.q r.tier (plazaUnit r) (r.addr / 256 * 256) = none)
    (hbank : r.tier ≠ 1 ∨ (r.addr / 256 * 256 < 96 * 2 ^ 30 ∧ (s.inBank (plazaUnit r) (r.addr / 256 * 256) = false ∨ r.noalloc = true)))
    (hmesh : s.meshOk r = true) (hw : r.write = false)
    (hread : s.readLines ⟨r.q, ⟨r.cls, 0⟩, 0, none⟩ (plazaPte r) r.tier (plazaUnit r) (r.addr / 256 * 256) 4 = (s1, d, bad)) :
    s.plazaServe r = (s1.settle, if bad = true then 3 else 0, d) := by
  have hserves : ¬((s.ownCheck r.q r.tier (plazaUnit r) (r.addr / 256 * 256)).isSome = true ∨
      (r.tier == 1 && (decide (96 * 2 ^ 30 ≤ r.addr / 256 * 256) || (s.inBank (plazaUnit r) (r.addr / 256 * 256) && !r.noalloc))) = true ∨
      s.meshOk r = false) := by
    simp only [hown, hmesh, Bool.and_eq_true, Bool.or_eq_true, beq_iff_eq, decide_eq_true_eq, Bool.not_eq_true']
    rintro (hf | ⟨htier, htop | ⟨hin, halloc⟩⟩ | hf)
    · exact Bool.noConfusion hf
    · exact hbank.elim (absurd htier) fun hb => absurd htop (Nat.not_le.2 hb.1)
    · simp [htier, hin, halloc] at hbank
    · exact Bool.noConfusion hf
  refine (if_neg hserves).trans ((if_neg (hw ▸ Bool.false_ne_true)).trans ?_)
  have hlines : s.readLines ⟨r.q, ⟨r.cls, 0⟩, 0, none⟩ (plazaPte r) r.tier (if r.tier = 0 then r.q else r.unit) (r.addr / 256 * 256) 4 =
    (s1, d, bad) := hread
  rw [hlines]

theorem exec_plazaAccess_one {st : Nat} {d : List Byte} (h : s.plazaServe r = (s1, st, d)) :
    exec (.plazaAccess [r]) s = .next { s1 with reply := ⟨st, d⟩ } := by
  have hbody : exec (.plazaAccess [r]) s = execPlazaAccess [r] s := rfl
  rw [hbody, execPlazaAccess]
  simp only [List.insertionSort_cons, List.insertionSort_nil, List.orderedInsert_nil, List.foldl_cons, List.foldl_nil, h, Nat.zero_max,
    List.nil_append]

/-- Two requests of different rank are served in one order. -/
theorem insertionSort_rank_pair (h : r2.rank < r1.rank) :
    [r1, r2].insertionSort (fun a b => a.rank ≤ b.rank) = [r2, r1].insertionSort (fun a b => a.rank ≤ b.rank) := by
  simp [List.insertionSort, List.orderedInsert, Nat.not_le.2 h, h.le]

end

/-! A page of a copy (R145, R146). -/

/-- A running move that is not held and has its page's reads in hand treats the page. -/
theorem exec_movePage_of_due {t : Nat} (ho : (s.goTo t).op? o.id = some o) (hk : o.kind = 0x20) (hp : o.phase = .running)
    (hst : (s.goTo t).isStalled o.id = false) (hh : (s.goTo t).h .halted o.q = 0) (hw : (s.goTo t).waitBroken o = false)
    (hread : o.unitNo = o.rowRun + 1) (hdue : (s.goTo t).dataDue o.id (fun _ => true) = false) (hc : mvCopy o.raw = true) :
    exec (.movePage o.id t) s = .next ((s.goTo t).copyPage o) := by
  have hbody : exec (.movePage o.id t) s = execMovePage o.id t s := rfl
  rw [hbody, execMovePage]
  simp [ho, hk, hp, hst, hh, hw, hread, hdue, hc]

/-! Late reads (R149). -/

/-- The late reads of an operation are noted and counted. -/
def noteLate (s : State) (o : Op) : State :=
  ({ s with reqs := s.reqs.map (fun (r : Req) => if (s.lateReqs o.id).contains r then { r with late := true } else r) }.bump
    .MEM_DEG_STAT_LATE o.q (s.lateReqs o.id).length).ev evLateRead o.q 0 (s.lateReqs o.id).length

theorem exec_lateRead_of_not_matrix {t : Nat} (ho : (s.goTo t).op? o.id = some o) (hk : o.kind ≠ 0x01) :
    exec (.lateRead o.id t) s = .next ((s.goTo t).noteLate o) := by
  have hbody : exec (.lateRead o.id t) s = execLateRead o.id t s := rfl
  rw [hbody, execLateRead]
  simp only [ho, hk, false_and, if_false]
  split <;> rfl

theorem ev_reqs (c q i n : Nat) : (s.ev c q i n).reqs = s.reqs := by rw [(ev_counts c q i n).eq]

theorem bump_reqs (f : Fld) (i n : Nat) : (s.bump f i n).reqs = s.reqs := by
  unfold bump
  simp only
  split <;> rfl

theorem noteLate_reqs : (s.noteLate o).reqs =
    s.reqs.map (fun (r : Req) => if (s.lateReqs o.id).contains r then { r with late := true } else r) := by
  rw [noteLate, ev_reqs, bump_reqs]

theorem late_of_mem_lateReqs {id : Nat} {r : Req} (h : r ∈ s.lateReqs id) : r.late = false := by
  simp only [lateReqs, List.mem_filter, Bool.and_eq_true, Bool.not_eq_true'] at h
  obtain ⟨-, ⟨⟨-, hlate⟩, -⟩, -⟩ := h
  exact hlate

/-- No late read is counted twice. -/
theorem not_late_of_mem_noteLate {r : Req} (h : r ∈ (s.noteLate o).reqs) : r ∉ s.lateReqs o.id := by
  rw [noteLate_reqs, List.mem_map] at h
  obtain ⟨x, -, hx⟩ := h
  split at hx
  · subst hx
    exact fun hr => Bool.noConfusion (late_of_mem_lateReqs hr)
  · next hc =>
    subst hx
    exact fun hr => hc (List.contains_iff_mem.2 hr)

theorem rd_late_noteLate : (s.noteLate o).rd .MEM_DEG_STAT_LATE o.q =
    min (s.rd .MEM_DEG_STAT_LATE o.q + (s.lateReqs o.id).length) (2 ^ Fld.width .MEM_DEG_STAT_LATE - 1) := by
  rw [noteLate, (ev_counts ..).regs _ _ (by decide) (by decide)]
  exact rd_bump_same ..

end State
open State

/-- Settles O36: each command by the branch that its premises choose; what a late read leaves are the requests noted late and their count. -/
theorem translationsAndPlaza : Obligations.TranslationsAndPlaza := by
  intro s
  refine ⟨fun q va write init hq => ?walk, fun r h => ?refused, fun r hown hbank hmesh hw s1 d bad hread => ?read,
    fun r1 r2 h => ?rank, fun o t s1 l ho hk hp hst hh hw hread hdue hc hconv hx => ?page, fun o t ho hk => ?late⟩
  case walk => exact if_pos hq
  case refused => exact exec_plazaAccess_one (plazaServe_of_refused h)
  case read => exact exec_plazaAccess_one (plazaServe_of_read hown hbank hmesh hw hread)
  case rank =>
    have hbody (rs : List PlazaReq) : exec (.plazaAccess rs) s = execPlazaAccess rs s := rfl
    rw [hbody, hbody, execPlazaAccess, execPlazaAccess, insertionSort_rank_pair h]
  case page =>
    rw [exec_movePage_of_due ho hk hp hst hh hw hread hdue hc]
    refine congrArg Host.Outcome.next ?_
    simp only [copyPage, hx, hconv] <;> rfl
  case late =>
    refine ⟨_, exec_lateRead_of_not_matrix ho hk, fun r => not_late_of_mem_noteLate, ?_⟩
    rw [rd_late_noteLate, goTo_reg _ _ (by decide) (by decide)]

end Sys2Proof.Machine
end

section
/-! PROOFS. Memory requests, DRAM reads, refresh and scrubbing (R153, R155 to R160, R166). -/

namespace Sys2Proof.Machine

namespace State
variable {s : State} {tier unit : Nat} {r : MemReq}

/-! A request at its channel (R155, R166). -/

theorem exec_memoryRequest_of_unreachable (h : s.dramReachable tier unit r.addr = false) (serve : Bool) :
    exec (.memoryRequest tier unit r serve) s = .next { s with reply := ⟨5, []⟩ } :=
  if_pos (by rw [h, Bool.not_false])

theorem exec_memoryRequest_of_reachable (h : s.dramReachable tier unit r.addr = true) :
    exec (.memoryRequest tier unit r false) s = .next (s.enqueue tier unit { r with sid := none }) :=
  if_neg (by simp [h])

theorem enqueue_of_room (h : (s.chanQueue tier unit (s.channelOf tier unit r.addr)).length < 64) :
    s.enqueue tier unit r =
      { s with memQ := s.memQ ++ [(tier, unit, s.channelOf tier unit r.addr, { r with arrival := s.now, stalled := false })] } := by
  simp only [enqueue, decide_eq_false (Nat.not_le.2 h), Bool.false_eq_true, if_false]

theorem enqueue_of_full (h : 64 ≤ (s.chanQueue tier unit (s.channelOf tier unit r.addr)).length) :
    s.enqueue tier unit r =
      { s with memQ := s.memQ ++ [(tier, unit, s.channelOf tier unit r.addr, { r with arrival := s.now, stalled := true })] }.ev
        evMemQfull r.q (chanNo tier unit (s.channelOf tier unit r.addr)) 1 := by
  simp only [enqueue, decide_eq_true h, if_true]

/-- What a channel picks of its queue, the new request among it, it serves (R155). -/
theorem exec_memoryRequest_of_pick {x : MemReq} (h : s.dramReachable tier unit r.addr = true)
    (hx : (s.enqueue tier unit { r with sid := none }).pickRequest tier unit (s.channelOf tier unit r.addr) = some x) :
    exec (.memoryRequest tier unit r true) s =
      .next ((s.enqueue tier unit { r with sid := none }).serveReq tier unit (s.channelOf tier unit r.addr) x) := by
  show execMemoryRequest tier unit r true s = _
  simp only [execMemoryRequest, h, Bool.not_true, Bool.false_eq_true, if_false, if_true, hx]

/-! A read of a line (R157 to R160). -/

section Reads

variable {a lane : Nat}

theorem dramRead_of_no_error (hp : s.poisonOf tier unit a = 0) (hb : s.badLanes (pcIdx unit (s.channelOf tier unit a)) = []) :
    s.dramRead tier unit a 0 lane = (if tier = 1 then s.setH .corrRun (pcIdx unit (s.channelOf tier unit a)) 0 else s, false) := by
  simp [dramRead, hp, hb]

/-- Two symbols in error are as many as a stack's code detects. -/
theorem dramRead_of_two_errors (hp : s.poisonOf 1 unit a = 0) (hb : s.badLanes (pcIdx unit (s.channelOf 1 unit a)) = []) :
    s.dramRead 1 unit a 2 lane = (s.uncorrectable 1 unit a, true) := by
  simp [dramRead, hp, hb]

theorem exec_readComplete_of_read {t : State} {wrong : Nat} {bad : Bool} (hr : s.dramReachable tier unit a = true)
    (hc : s.chanShut tier unit (s.channelOf tier unit a) = false) (hd : s.dramRead tier unit a wrong lane = (t, bad)) :
    exec (.readComplete tier unit a wrong lane) s =
      .next { t with reply := ⟨if bad = true then 3 else 0, t.memBytes tier unit (a / 64 * 64) 64⟩ } := by
  show execReadComplete tier unit a wrong lane s = _
  simp only [execReadComplete, hr, hc, hd, Bool.not_true, Bool.false_eq_true, if_false]

end Reads

theorem exec_scrub_of_fitted {ch : Nat} (hu : s.unitFitted tier unit = true) (hc : ch < nChan tier) (wrong lane : Nat) :
    exec (.scrub tier unit ch wrong lane) s =
      .next ((s.dramRead tier unit (chanAddr tier ch (64 * s.h .scrubPos ((ch * 16 + unit) * 4 + tier))) wrong lane).1.setH .scrubPos
        ((ch * 16 + unit) * 4 + tier)
        ((s.h .scrubPos ((ch * 16 + unit) * 4 + tier) + 1) % ((if tier = 1 then 96 * 2 ^ 30 else 2 ^ 40) / nChan tier / 64))) :=
  if_neg (not_or.2 ⟨by simp [hu], Nat.not_le.2 hc⟩)

end State
open State

/-- Settles O37: a request by its reach and the room of its queue, a read by its errors; neither of a read's two forms writes memory. -/
theorem channelsServe : Obligations.ChannelsServe := by
  intro s tier unit
  refine ⟨fun r serve h => exec_memoryRequest_of_unreachable h serve, fun r h hroom => ?room, fun r h hfull => ?full,
    fun r s1 x h hs1 hx => ?serve, fun a lane hr hc hp hb => ⟨?read, ?double⟩, fun ch bank => rfl,
    fun ch wrong lane hu hc => exec_scrub_of_fitted hu hc wrong lane⟩
  case room => rw [exec_memoryRequest_of_reachable h, enqueue_of_room (r := { r with sid := none }) hroom]
  case full => rw [exec_memoryRequest_of_reachable h, enqueue_of_full (r := { r with sid := none }) hfull]
  case serve =>
    rw [exec_memoryRequest_of_reachable h] at hs1
    cases hs1
    exact exec_memoryRequest_of_pick h hx
  case read =>
    refine ⟨_, exec_readComplete_of_read hr hc (dramRead_of_no_error hp hb), ?_⟩
    split <;> exact ⟨rfl, rfl⟩
  case double =>
    rintro rfl
    exact ⟨_, exec_readComplete_of_read hr hc (dramRead_of_two_errors hp hb), rfl, rfl⟩

end Sys2Proof.Machine
end

section
/-! PROOFS. Writes of the CP that are requests: STK_RETIRE, CRT_BF_DATA and CRT_CTRL (R8, R9, R164, R166, R169, R170). -/

namespace Sys2Proof.Machine

/-! Where the three registers lie, on either module. -/

theorem findReg_stkRetire : ∀ lt09, ∀ k < (if lt09 = true then 9 else 12), findReg lt09 (0x80008 + 0x1000 * k) = some (.STK_RETIRE, k) := by
  decide +kernel

theorem findReg_bfData : ∀ lt09, ∀ d < (if lt09 = true then 3 else 4), findReg lt09 (0x90014 + 0x1000 * d) = some (.CRT_BF_DATA, d) := by
  decide +kernel

theorem findReg_crtCtrl : ∀ lt09, ∀ d < (if lt09 = true then 3 else 4), findReg lt09 (0x90008 + 0x1000 * d) = some (.CRT_CTRL, d) := by
  decide +kernel

namespace State
variable {s : State} {k d val : Nat}

/-- A write of a register all of whose fields the CP may write, with none that keeps a value, is what the write sets going and nothing else. -/
theorem busWrite_cp_of_request {r : Reg} {i off : Nat} (hf : findReg s.lt09 off = some (r, i))
    (hr : r.info.readers &&& 4 ≠ 0 ∧ r.info.writers &&& 4 ≠ 0)
    (ha : s.namesAbsent r val = false) (hb : s.regBusy r i val = false) (hw : ∀ f ∈ r.fields, f.info.writers &&& 4 ≠ 0)
    (hacc : r = .CRT_BF_DATA ∨ ∀ f ∈ r.fields, f.info.acc = .wo) : s.busWrite .cp off val = s.regAfter s r i val 13 false := by
  have hopen (f : Fld) (h : f ∈ r.fields) : (f.info.writers &&& 4 == 0) = false := beq_eq_false_iff_ne.2 (hw f h)
  have hval : r.fields.foldl (fun (v : Nat) (f : Fld) =>
      if (f.info.writers &&& 4 == 0) = true then v - 2 ^ f.info.lo * fldOf f val else v) val = val :=
    foldl_eq_of_mem fun f h => by simp [hopen f h]
  have hbar : r.fields.any (fun (f : Fld) =>
      (f.info.writers &&& 4 == 0) && fldOf f val != (if f.info.acc = .wo then 0 else s.shown f i)) = false :=
    List.any_eq_false.2 fun f h => by simp [hopen f h]
  have hfld : (if r = .CRT_BF_DATA then s else r.fields.foldl (fun (t : State) (f : Fld) =>
      if ((f.info.writers &&& 4 == 0) || !s.fldLegal f i val) = true then t else t.fldWrite f i (fldOf f val)) s) = s := by
    split
    · rfl
    · next hne => exact foldl_eq_of_mem fun f h => by rw [fldWrite_of_ro_wo_rc (.inr (.inl (hacc.resolve_left hne f h))), ite_self]
  rw [busWrite, hf]
  show s.regWrite 4 13 false r i off val = _
  rw [regWrite, if_neg (not_or.2 hr), ha, hb]
  simp only [hval, hbar, hfld, Bool.false_eq_true, if_false]

theorem exec_stkRetire_cp (h : k < s.nStacks) (val : Nat) :
    exec (.stkRetire .cp k val) s = .next (if bitsOf val 31 1 = 1 then s.requestRetire k (bitsOf val 0 6) else s) := by
  have hw : s.busWrite .cp (0x80008 + 0x1000 * k) val = s.regAfter s .STK_RETIRE k val 13 false :=
    busWrite_cp_of_request (findReg_stkRetire _ k h) (by decide) (Bool.and_false _) rfl (by decide) (.inr (by decide))
  exact (if_pos h).trans (congrArg Host.Outcome.next hw)

/-- STK_RETIRE is not among the registers that the PF writes (R8). -/
theorem exec_stkRetire_pf (h : k < s.nStacks) (val : Nat) : exec (.stkRetire .pf k val) s = .next (s.fnErr 12 1 (0x80008 + 0x1000 * k)) := by
  have hw : s.busWrite .pf (0x80008 + 0x1000 * k) val = s.fnErr 12 1 (0x80008 + 0x1000 * k) := by
    rw [busWrite, findReg_stkRetire _ k h]
    rfl
  exact (if_pos h).trans (congrArg Host.Outcome.next hw)

theorem exec_badFrameWrite_cp (h : d < s.nBays) (val : Nat) : exec (.badFrameWrite .cp d val) s = .next (s.badFrame d val) := by
  have hw : s.busWrite .cp (0x90014 + 0x1000 * d) val = s.regAfter s .CRT_BF_DATA d val 13 false :=
    busWrite_cp_of_request (findReg_bfData _ d h) (by decide) (Bool.and_false _) rfl (by decide) (.inl rfl)
  exact (if_pos h).trans (congrArg Host.Outcome.next hw)

theorem busWrite_crtCtrl (h : d < s.nBays) (val : Nat) : s.busWrite .cp (0x90008 + 0x1000 * d) val = s.regAfter s .CRT_CTRL d val 13 false :=
  busWrite_cp_of_request (findReg_crtCtrl _ d h) (by decide) (Bool.and_false _) rfl (by decide) (.inr (by decide))

theorem exec_withdraw_cp (h : d < s.nBays) : exec (.withdraw .cp d) s = .next (s.askWithdraw 13 d) :=
  (if_pos h).trans (congrArg Host.Outcome.next (busWrite_crtCtrl h 1))

theorem exec_bringIntoService_cp (h : d < s.nBays) : exec (.bringIntoService .cp d) s = .next (s.askService 13 d) :=
  (if_pos h).trans (congrArg Host.Outcome.next (busWrite_crtCtrl h 2))

end State

end Sys2Proof.Machine
end

section
/-! PROOFS. What an entry of the management log leaves alone, and what a fold establishes (R356). -/

namespace Sys2Proof.Machine

/-- The registers that an entry of the management log moves. -/
def Fld.logged : Fld → Bool
  | .MC_ERR_PTR_DROPPED | .MC_ERR_PTR_OVERFLOW | .MC_ERR_PTR_TAIL => true
  | _ => false

/-- The hidden scalars of the same: the entry, the pending messages, and the notes of the cycle in which hardware set a field. -/
def Hid.logged : Hid → Bool
  | .mcLog | .msixPend | .rcNew | .setAt => true
  | _ => false

theorem Fld.ne_of_logged {f g : Fld} (hg : g.logged = true) (hf : f.logged = false) : g ≠ f := fun he => by simp [← he, hg] at hf

theorem Hid.ne_of_logged {x y : Hid} (hy : y.logged = true) (hx : x.logged = false) : y ≠ x := fun he => by simp [← he, hy] at hx

namespace State
variable {s : State}

theorem rd_sendMsix (f : Fld) (i port func vec : Nat) : (s.sendMsix port func vec).rd f i = s.rd f i := by
  simp only [sendMsix]
  split
  · rfl
  · split <;> rfl

theorem h_sendMsix {x : Hid} (i port func vec : Nat) (hx : x.logged = false) : (s.sendMsix port func vec).h x i = s.h x i := by
  have hpend (v : Nat) : (s.setH .msixPend (16 * (13 * port + func) + vec) v).h x i = s.h x i := h_setH_name _ _ _ (Hid.ne_of_logged rfl hx)
  simp only [sendMsix]
  split
  · rfl
  · split
    · exact hpend 1
    · exact hpend 0

theorem rd_mcLog {f : Fld} (i code q detail : Nat) (hf : f.logged = false) : (s.mcLog code q detail).rd f i = s.rd f i := by
  simp only [mcLog]
  split
  · rw [rd_mark_field _ _ (Fld.ne_of_logged rfl hf), rd_bump_field _ _ _ (Fld.ne_of_logged rfl hf)]
  · rw [raisePf, rd_sendMsix, rd_sendMsix, rd_wr_field _ _ _ (Fld.ne_of_logged rfl hf), rd_setH, rd_setH]

theorem h_mcLog {x : Hid} (i code q detail : Nat) (hx : x.logged = false) : (s.mcLog code q detail).h x i = s.h x i := by
  have hne {y : Hid} (hy : y.logged = true) : y ≠ x := Hid.ne_of_logged hy hx
  simp only [mcLog]
  split
  · rw [h_mark _ _ _ (hne rfl).symm, h_bump _ _ _ _ (hne rfl).symm (hne rfl).symm]
  · rw [raisePf, h_sendMsix _ _ _ _ hx, h_sendMsix _ _ _ _ hx, h_wr, h_setH_name _ _ _ (hne rfl), h_setH_name _ _ _ (hne rfl)]

section Fold

variable {α β : Type} {f : State → α → State} {l : List α}

/-- What every step of a fold leaves alone. -/
theorem foldl_keeps {g : State → β} (hf : ∀ u, ∀ x ∈ l, g (f u x) = g u) : g (l.foldl f s) = g s := by
  induction l generalizing s with
  | nil => rfl
  | cons x l ih =>
    rw [List.foldl_cons, ih fun u y hy => hf u y (List.mem_cons_of_mem _ hy)]
    exact hf s x (List.mem_cons_self ..)

/-- What the step of one element sets, and the steps of the others leave alone. -/
theorem foldl_establishes {I P : State → Prop} {x : α} (hI : ∀ u y, I u → I (f u y)) (hset : ∀ u, I u → P (f u x))
    (hkeep : ∀ u y, y ≠ x → P u → P (f u y)) (hx : x ∈ l) (hs : I s) : P (l.foldl f s) := by
  have hstay : ∀ (l : List α) (u : State), I u → P u → P (l.foldl f u) := fun l => by
    induction l with
    | nil => exact fun _ _ hp => hp
    | cons y l ih =>
      intro u hi hp
      refine ih _ (hI u y hi) ?_
      by_cases hy : y = x
      · exact hy ▸ hset u hi
      · exact hkeep u y hy hp
  induction l generalizing s with
  | nil => cases hx
  | cons y l ih =>
    rcases List.mem_cons.1 hx with rfl | hx
    · exact hstay l _ (hI s x hs) (hset s hs)
    · exact ih hx (hI s y hs)

end Fold

end State

end Sys2Proof.Machine
end

section
/-! PROOFS. Lanes that fail, spares that train, and the retirement of a PC (R161 to R165). -/

namespace Sys2Proof.Machine

/-- A bit that is taken away where it is set. -/
theorem bitsOf_clear (x l : Nat) : bitsOf (x - (if bitsOf x l 1 = 1 then 2 ^ l else 0)) l 1 = 0 := by
  have hand : (if bitsOf x l 1 = 1 then 2 ^ l else 0) = x &&& 2 ^ l := by
    rw [Nat.and_two_pow, bitsOf_one]
    cases x.testBit l <;> simp
  have hself : bitsOf (2 ^ l) l 1 = 1 := by rw [bitsOf_one, Nat.testBit_two_pow_self, Bool.toNat_true]
  rw [hand, bitsOf_sub_and, if_pos hself]

namespace State
variable {s u : State} {k p lane : Nat}

/-! A lane fails (R161). -/

/-- What the first failure of a lane of a PC notes and shows. -/
def firstFailure (s : State) (k p lane : Nat) : State :=
  ((((s.setH .laneBad (pcIdx k p) (2 ^ lane)).setH .laneFailAt (pcIdx k p) s.now).setH .spareTries (pcIdx k p) 0).mark
    .STK_PC_ERR_LANE_FAIL (pcIdx k p)).wr .STK_PC_ERR_FAILED_LANE (pcIdx k p) lane

theorem exec_laneFailure_of_first (hk : k < s.nStacks) (hp : p < 64) (hl : lane < 35) (hbad : s.h .laneBad (pcIdx k p) = 0)
    (hspare : s.rd .STK_PC_ERR_SPARE_USED (pcIdx k p) = 0) :
    exec (.laneFailure k p lane) s = .next ((s.firstFailure k p lane).mcLog 3 15 (2 ^ 28 * k + 2 ^ 22 * p + 2 ^ 16 * lane)) := by
  have hfails : s.laneFails k p lane = (s.firstFailure k p lane).mcLog 3 15 (2 ^ 28 * k + 2 ^ 22 * p + 2 ^ 16 * lane) := by
    simp [laneFails, firstFailure, hbad, flag, hspare, bitsOf]
  exact (if_pos ⟨hk, hp, hl⟩).trans (congrArg Host.Outcome.next hfails)

section FirstFailure

theorem rd_firstFailure_other {f : Fld} (i : Nat) (h : f ≠ .STK_PC_ERR_LANE_FAIL) (h' : f ≠ .STK_PC_ERR_FAILED_LANE) :
    (s.firstFailure k p lane).rd f i = s.rd f i := by
  rw [firstFailure, rd_wr_field _ _ _ h'.symm, rd_mark_field _ _ h.symm, rd_setH, rd_setH, rd_setH]

theorem rd_firstFailure_laneFail : (s.firstFailure k p lane).rd .STK_PC_ERR_LANE_FAIL (pcIdx k p) = 1 := by
  rw [firstFailure, rd_wr_field _ _ _ (by decide), rd_mark_same]
  rfl

theorem rd_firstFailure_failedLane (hl : lane < 35) : (s.firstFailure k p lane).rd .STK_PC_ERR_FAILED_LANE (pcIdx k p) = lane :=
  rd_wr_fits _ _ _ (hl.trans (by decide))

theorem h_firstFailure_other {x : Hid} (i : Nat) (h0 : x ≠ .setAt) (h1 : x ≠ .spareTries) (h2 : x ≠ .laneFailAt) (h3 : x ≠ .laneBad) :
    (s.firstFailure k p lane).h x i = s.h x i := by
  rw [firstFailure, h_wr, h_mark _ _ _ h0, h_setH_name _ _ _ h1.symm, h_setH_name _ _ _ h2.symm, h_setH_name _ _ _ h3.symm]

theorem h_firstFailure_laneBad : (s.firstFailure k p lane).h .laneBad (pcIdx k p) = 2 ^ lane := by
  rw [firstFailure, h_wr, h_mark _ _ _ (by decide), h_setH_name _ _ _ (by decide), h_setH_name _ _ _ (by decide), h_setH_same]

theorem h_firstFailure_laneFailAt : (s.firstFailure k p lane).h .laneFailAt (pcIdx k p) = s.now := by
  rw [firstFailure, h_wr, h_mark _ _ _ (by decide), h_setH_name _ _ _ (by decide), h_setH_same]

end FirstFailure

/-! The training of a spare (R162). -/

theorem exec_laneRemap_of_wanted (hu : s.goTo (s.cycW 512) = u) (hk : k < s.nStacks)
    (hw : u.h .spareWant (pcIdx k p) = lane + 1 ∨ (u.h .spareWant (pcIdx k p) = 0 ∧ u.badLanes (pcIdx k p) = [lane])) (hpos : u.pos < u.cycW 3584)
    (hspare : u.rd .STK_PC_ERR_SPARE_USED (pcIdx k p) = 0) (hfail : u.h .laneFailAt (pcIdx k p) + 64 ≤ u.turn0 + u.cycW 0)
    (htrain : u.h .spareTrain (pcIdx k p) = 0) (hturn : u.h .spareTurn (pcIdx k p) ≤ u.turn0) :
    exec (.laneRemap k p) s =
      .next (((u.setH .spareTrain (pcIdx k p) (lane + 1)).setH .spareTurn (pcIdx k p) (u.now + 1)).setH .spareWant (pcIdx k p) 0) := by
  have hlane : (if u.h .spareWant (pcIdx k p) = 0 then u.badLanes (pcIdx k p) else [u.h .spareWant (pcIdx k p) - 1]) = [lane] := by
    rcases hw with hw | ⟨hw, hbad⟩
    · simp [hw]
    · rw [if_pos hw, hbad]
  have hfree : ¬ u.flag .STK_PC_ERR_SPARE_USED (pcIdx k p) = true := by simp [flag, hspare]
  have hthere : k < u.nStacks := by rwa [← hu, nStacks, goTo_lt09]
  show execLaneRemap k p s = _
  simp only [execLaneRemap, hu, hlane]
  exact if_pos ⟨hthere, hpos, hfree, hfail, htrain, hturn⟩

/-- A spare that has trained is in the lane's place. -/
def spareIn (s : State) (k p lane : Nat) : State :=
  ((((s.setH .spareTrain (pcIdx k p) 0).wr .STK_PC_ERR_SPARE_USED (pcIdx k p) 1).wr .STK_PC_ERR_SPARE_FOR (pcIdx k p) lane).setH .laneBad (pcIdx k p)
    (s.h .laneBad (pcIdx k p) - (if bitsOf (s.h .laneBad (pcIdx k p)) lane 1 = 1 then 2 ^ lane else 0))).wr
    .STK_STAT_SPARES_USED k (s.rd .STK_STAT_SPARES_USED k + 1)

theorem exec_spareTrained_of_success (hu : s.goTo (s.h .spareTurn (pcIdx k p) + 1023 - s.turn0) = u) (ht : u.h .spareTrain (pcIdx k p) = lane + 1) :
    exec (.spareTrained k p true) s = .next (u.spareIn k p lane) := by
  show execSpareTrained k p true s = _
  simp only [execSpareTrained, hu, ht, if_neg (Nat.succ_ne_zero lane), Nat.add_sub_cancel, if_true]
  rfl

theorem exec_spareTrained_of_fourth_failure (hu : s.goTo (s.h .spareTurn (pcIdx k p) + 1023 - s.turn0) = u)
    (ht : u.h .spareTrain (pcIdx k p) = lane + 1) (hn : u.h .spareTries (pcIdx k p) = 3) :
    exec (.spareTrained k p false) s = .next (((u.setH .spareTrain (pcIdx k p) 0).setH .spareTries (pcIdx k p) 4).requestRetire k p) := by
  show execSpareTrained k p false s = _
  simp only [execSpareTrained, hu, ht, hn, if_neg (Nat.succ_ne_zero lane), Bool.false_eq_true, if_false]
  rfl

section SpareIn

theorem rd_spareIn_spareUsed : (s.spareIn k p lane).rd .STK_PC_ERR_SPARE_USED (pcIdx k p) = 1 := by
  rw [spareIn, rd_wr_field _ _ _ (by decide), rd_setH, rd_wr_field _ _ _ (by decide), rd_wr_same]
  rfl

theorem rd_spareIn_spareFor (hl : lane < 35) : (s.spareIn k p lane).rd .STK_PC_ERR_SPARE_FOR (pcIdx k p) = lane := by
  rw [spareIn, rd_wr_field _ _ _ (by decide), rd_setH, rd_wr_fits _ _ _ (hl.trans (by decide))]

theorem h_spareIn_spareTrain : (s.spareIn k p lane).h .spareTrain (pcIdx k p) = 0 := by
  rw [spareIn, h_wr, h_setH_name _ _ _ (by decide), h_wr, h_wr, h_setH_same]

theorem bitsOf_laneBad_spareIn : bitsOf ((s.spareIn k p lane).h .laneBad (pcIdx k p)) lane 1 = 0 := by
  rw [spareIn, h_wr, h_setH_same, bitsOf_clear]

end SpareIn

/-! The retirement of a PC, and the loss of its stack (R164, R165). -/

theorem requestRetire_of_none (hs : s.rd .STK_STAT_STATE k = 1) (hv : s.rd .STK_STAT_RPC_VALID k = 0) (h : s.h .retirePend k = 0) :
    s.requestRetire k p = s.setH .retirePend k (p + 1) := by
  simp [requestRetire, flag, hs, hv, h]

theorem requestRetire_of_another (hs : s.rd .STK_STAT_STATE k = 1) (hv : s.rd .STK_STAT_RPC_VALID k = 0) (h : s.h .retirePend k ≠ 0)
    (hp : s.h .retirePend k ≠ p + 1) : s.requestRetire k p = s.loseStack k := by
  simp [requestRetire, flag, hs, hv, h, hp]

theorem loseStack_of_in_service (hs : s.rd .STK_STAT_STATE k = 1) :
    s.loseStack k = (((s.endBank k true).wr .STK_STAT_STATE k 3).mark .RES_STAT_STACK_LOST 0).mcLog 10 15 k :=
  if_neg (by omega)

theorem rd_loseStack_state (hs : s.rd .STK_STAT_STATE k = 1) : (s.loseStack k).rd .STK_STAT_STATE k = 3 := by
  rw [loseStack_of_in_service hs, rd_mcLog _ _ _ _ rfl, rd_mark_field _ _ (by decide), rd_wr_fits _ _ _ (by decide)]

theorem rd_loseStack_shown (hs : s.rd .STK_STAT_STATE k = 1) : (s.loseStack k).rd .RES_STAT_STACK_LOST 0 = 1 := by
  rw [loseStack_of_in_service hs, rd_mcLog _ _ _ _ rfl, rd_mark_same]
  rfl

/-- The copy of a PC with at most one failed lane carries no poison (R164). -/
theorem exec_retirementCopyComplete_of_good (hc : s.rd .STK_STAT_COPYING k = 1)
    (hb : (s.badLanes (pcIdx k (s.rd .STK_STAT_RPC k))).length < 2) :
    exec (.retirementCopyComplete k) s = .next ((s.wr .STK_STAT_COPYING k 0).setH .copyDone k 1) := by
  show execRetirementCopyComplete k s = _
  simp [execRetirementCopyComplete, flag, hc, Nat.not_le.2 hb]

/-- The extents of a stack, each marked as holding lines of a PC that read as uncorrectable (R163, R164). -/
def markExtents (s : State) (k : Nat) : State := (List.range 96).foldl (fun (s : State) (e : Nat) => s.setH .pcPoison (96 * k + e) 1) s

theorem h_markExtents {e : Nat} (he : e < 96) : (s.markExtents k).h .pcPoison (96 * k + e) = 1 :=
  foldl_establishes (I := fun _ => True) (P := fun u => u.h .pcPoison (96 * k + e) = 1) (fun _ _ _ => trivial) (fun _ _ => h_setH_same ..)
    (fun _ _ hne hu => (h_setH_index _ (by omega)).trans hu) (List.mem_range.2 he) trivial

theorem exec_retirementCopyComplete_of_bad (hc : s.rd .STK_STAT_COPYING k = 1)
    (hb : 2 ≤ (s.badLanes (pcIdx k (s.rd .STK_STAT_RPC k))).length) :
    exec (.retirementCopyComplete k) s = .next (((s.markExtents k).wr .STK_STAT_COPYING k 0).setH .copyDone k 1) := by
  show execRetirementCopyComplete k s = _
  simp only [execRetirementCopyComplete, flag, hc, hb, beq_self_eq_true, decide_true, if_true]
  rfl

theorem exec_lostScanComplete_of_no_line (hs : s.rd .STK_STAT_STATE k = 3) (hp : s.plaza = []) : exec (.lostScanComplete k) s = .next s := by
  show execLostScanComplete k s = _
  simp only [execLostScanComplete, hs, hp, if_true, List.filter_nil, List.foldl_nil]

theorem exec_repairApply_of_fits {x : Repair} (hu : s.goTo (s.cycW 512) = u)
    (hx : u.repairs.find? (fun r => r.stack == k && !r.applied) = some x) (hpos : u.pos < u.cycW 3584) :
    exec (.repairApply k true) s = .next { u with repairs := u.repairs.map (fun r => if r = x then { r with applied := true } else r) } := by
  show execRepairApply k true s = _
  simp only [execRepairApply, hu, hx, hpos, and_self, if_true]

/-! The refresh of receivers (R348). -/

/-- The receivers of PC `p` of every stack are refreshed. -/
def refreshStacks (s : State) (p : Nat) : State :=
  (List.range s.nStacks).foldl (fun (s : State) (k : Nat) => s.setH .refreshEnd (chanNo 1 k p) (s.now + 512)) (s.setH .refreshPos 0 ((p + 1) % 64))

/-- So are those of the next channel of a bay, with no failure. -/
def refreshBay (s : State) (d : Nat) : State :=
  ((s.setH .refreshEnd (chanNo 2 d (s.h .refreshCh d % 32)) (s.now + 512)).setH .refreshBad d 0).setH .refreshCh d ((s.h .refreshCh d % 32 + 1) % 32)

theorem exec_receiverAdaptationRefresh_of_none_fails (hu : s.goTo (s.cycW 512) = u) :
    exec (.receiverAdaptationRefresh []) s =
      .next ((List.range (u.refreshStacks (u.h .refreshPos 0 % 64)).nBays).foldl refreshBay (u.refreshStacks (u.h .refreshPos 0 % 64))) := by
  rw [← hu]
  rfl

theorem refreshStacks_lt09 : (s.refreshStacks p).lt09 = s.lt09 := foldl_keeps (g := State.lt09) fun _ _ _ => rfl

theorem rd_refreshStacks (f : Fld) (i : Nat) : (s.refreshStacks p).rd f i = s.rd f i := foldl_keeps (g := fun u => u.rd f i) fun _ _ _ => rfl

theorem h_refreshStacks_pos : (s.refreshStacks p).h .refreshPos 0 = (p + 1) % 64 :=
  (foldl_keeps (g := fun u => u.h .refreshPos 0) fun _ _ _ => h_setH_name _ _ _ (by decide)).trans (h_setH_same ..)

theorem h_refreshStacks_end (hk : k < s.nStacks) : (s.refreshStacks p).h .refreshEnd (chanNo 1 k p) = s.now + 512 := by
  have hindex {j : Nat} (h : j ≠ k) : chanNo 1 j p ≠ chanNo 1 k p := by
    simp only [chanNo, unitNo, if_true]
    omega
  exact foldl_establishes (I := fun u => u.now = s.now) (P := fun u => u.h .refreshEnd (chanNo 1 k p) = s.now + 512) (fun _ _ hu => hu)
    (fun _ hu => by rw [h_setH_same, hu]) (fun _ _ hne hu => (h_setH_index _ (hindex hne)).trans hu) (List.mem_range.2 hk) rfl

theorem rd_refreshBays (l : List Nat) (f : Fld) (i : Nat) : (l.foldl refreshBay s).rd f i = s.rd f i :=
  foldl_keeps (g := fun u => u.rd f i) fun _ _ _ => rfl

theorem h_refreshBays_pos (l : List Nat) : (l.foldl refreshBay s).h .refreshPos 0 = s.h .refreshPos 0 :=
  foldl_keeps (g := fun u => u.h .refreshPos 0) fun u d _ => by
    rw [refreshBay, h_setH_name _ _ _ (by decide), h_setH_name _ _ _ (by decide), h_setH_name _ _ _ (by decide)]

/-- No channel of a bay is a PC of a stack. -/
theorem h_refreshBays_end (l : List Nat) (hk : k < 12) (hp : p < 64) :
    (l.foldl refreshBay s).h .refreshEnd (chanNo 1 k p) = s.h .refreshEnd (chanNo 1 k p) := by
  have hindex (d ch : Nat) : chanNo 2 d ch ≠ chanNo 1 k p := by
    simp only [chanNo, unitNo, if_true, if_neg (by decide : ¬ 2 = 1)]
    omega
  exact foldl_keeps (g := fun u => u.h .refreshEnd (chanNo 1 k p)) fun u d _ => by
    rw [refreshBay, h_setH_name _ _ _ (by decide), h_setH_name _ _ _ (by decide), h_setH_index _ (hindex _ _)]

theorem h_refreshBays_bad {d n : Nat} (h : d < n) : ((List.range n).foldl refreshBay s).h .refreshBad d = 0 := by
  have hlast (u : State) (b : Nat) : (u.refreshBay b).h .refreshBad d = if b = d then 0 else u.h .refreshBad d := by
    rw [refreshBay, h_setH_name _ _ _ (by decide)]
    split
    · next hb => rw [hb, h_setH_same]
    · next hb => rw [h_setH_index _ hb, h_setH_name _ _ _ (by decide)]
  exact foldl_establishes (I := fun _ => True) (P := fun u => u.h .refreshBad d = 0) (fun _ _ _ => trivial)
    (fun u _ => (hlast u d).trans (if_pos rfl)) (fun u b hne hu => ((hlast u b).trans (if_neg hne)).trans hu) (List.mem_range.2 h) trivial

end State
open State

/-- Settles O38: each command by the branch that its premises choose. That RETIREMENT_COPY_COMPLETE makes the copy whole, and with it marks every extent
of a PC with two failed lanes, is the model's choice (log entry 86). -/
theorem stacksAreRepaired : Obligations.StacksAreRepaired := by
  intro s k p lane hk hp hl i u v
  refine ⟨fun hbad hspare => ?failure, fun hw hpos hspare hfail htrain hturn => exec_laneRemap_of_wanted rfl hk hw hpos hspare hfail htrain hturn,
    fun ht => ⟨_, exec_spareTrained_of_success rfl ht, rd_spareIn_spareUsed, rd_spareIn_spareFor hl, h_spareIn_spareTrain, bitsOf_laneBad_spareIn⟩,
    fun ht hn => exec_spareTrained_of_fourth_failure rfl ht hn, exec_stkRetire_cp hk, exec_stkRetire_pf hk,
    fun hs hv => ⟨requestRetire_of_none hs hv, fun hpend hother => ?lost⟩, fun x hx hpos => exec_repairApply_of_fits rfl hx hpos, rfl,
    exec_retirementCopyComplete_of_good, fun hc hb => ⟨_, exec_retirementCopyComplete_of_bad hc hb, ?ended, h_setH_same .., fun e he => ?marked⟩,
    exec_lostScanComplete_of_no_line,
    ⟨_, exec_receiverAdaptationRefresh_of_none_fails rfl, ?position, ?shut, fun d hd => ?bays, fun f j hf => ?turn⟩⟩
  case failure =>
    refine ⟨_, exec_laneFailure_of_first hk hp hl hbad hspare, (h_mcLog _ _ _ _ rfl).trans h_firstFailure_laneBad,
      (rd_mcLog _ _ _ _ rfl).trans rd_firstFailure_laneFail, (rd_mcLog _ _ _ _ rfl).trans (rd_firstFailure_failedLane hl),
      (h_mcLog _ _ _ _ rfl).trans h_firstFailure_laneFailAt, (h_mcLog _ _ _ _ rfl).trans ?_, (rd_mcLog _ _ _ _ rfl).trans ?_⟩
    · exact h_firstFailure_other _ (by decide) (by decide) (by decide) (by decide)
    · exact rd_firstFailure_other _ (by decide) (by decide)
  case lost =>
    rw [requestRetire_of_another hs hv hpend hother]
    exact ⟨rd_loseStack_state hs, rd_loseStack_shown hs⟩
  case ended => rw [rd_setH, rd_wr_same, Nat.zero_mod]
  case marked => rw [h_setH_name _ _ _ (by decide), h_wr, h_markExtents he]
  case position => rw [h_refreshBays_pos, h_refreshStacks_pos, goTo_h _ _ (by decide) (by decide)]
  case shut =>
    have hpos : u.h .refreshPos 0 = s.h .refreshPos 0 := goTo_h _ _ (by decide) (by decide)
    have hthere : k < u.nStacks := by rwa [nStacks, goTo_lt09]
    rw [h_refreshBays_end _ (hk.trans_le nStacks_le) (Nat.mod_lt _ (by decide)), ← hpos, h_refreshStacks_end hthere]
  case bays =>
    refine h_refreshBays_bad ?_
    rwa [nBays, refreshStacks_lt09, goTo_lt09]
  case turn => rw [rd_refreshBays, rd_refreshStacks, goTo_rd hf]

end Sys2Proof.Machine
end

section
/-! PROOFS. The life of a bay: its bad frames, its withdrawal and return, its latch and its loss (R166, R169, R170, R393). -/

namespace Sys2Proof.Machine

namespace State
variable {s : State} {d val : Nat}

theorem nBays_le : s.nBays ≤ 4 := by
  unfold nBays
  split <;> decide

theorem rd_syncFrames {f : Fld} (i : Nat) (h : f ≠ .CRT_STAT_BADFRAMES) : (s.syncFrames d).rd f i = s.rd f i := rd_wr_field _ _ _ h.symm

/-! A bad frame by the CP (R166). -/

/-- The entry that CRT_BF_IDX names takes the frame. -/
def takeFrame (s : State) (d val : Nat) : State :=
  (((s.wr .CRT_BF_DATA_VALID (1024 * d + s.rd .CRT_BF_IDX_INDEX d) (bitsOf val 31 1)).wr .CRT_BF_DATA_FRAME
    (1024 * d + s.rd .CRT_BF_IDX_INDEX d) (bitsOf val 0 24)).syncFrames d).setH .bfDirty d 1

theorem badFrame_of_taken (h : s.rd .CRT_STAT_BADFRAMES d ≠ 1024 ∨ bitsOf val 31 1 = 0) : s.badFrame d val = s.takeFrame d val :=
  if_neg fun hc => by
    obtain ⟨hfull, hvalid⟩ := hc
    omega

theorem badFrame_of_full (h : s.rd .CRT_STAT_BADFRAMES d = 1024) (hv : bitsOf val 31 1 = 1) : s.badFrame d val = s.mark .CRT_STAT_BF_FULL d :=
  if_pos ⟨h, hv⟩

theorem rd_takeFrame_valid : (s.takeFrame d val).rd .CRT_BF_DATA_VALID (1024 * d + s.rd .CRT_BF_IDX_INDEX d) = bitsOf val 31 1 := by
  rw [takeFrame, rd_setH, rd_syncFrames _ (by decide), rd_wr_field _ _ _ (by decide), rd_wr_fits _ _ _ (bitsOf_lt val 31 1)]

theorem rd_takeFrame_frame : (s.takeFrame d val).rd .CRT_BF_DATA_FRAME (1024 * d + s.rd .CRT_BF_IDX_INDEX d) = bitsOf val 0 24 := by
  rw [takeFrame, rd_setH, rd_syncFrames _ (by decide), rd_wr_fits _ _ _ (bitsOf_lt val 0 24)]

/-! Out of service and into it (R169, R170). -/

theorem askWithdraw_of_idle {who : Nat} (hs : s.rd .CRT_STAT_STATE d = 3)
    (hl : ∀ l < 64, s.rd .MEM_LOT_STATE (64 * d + l) = 0 ∨ s.rd .MEM_LOT_STATE (64 * d + l) = 3) :
    s.askWithdraw who d = ((s.wr .CRT_STAT_STATE d 4).setH .withdrawn d 0).setH .presentPend d 0 :=
  if_pos ⟨hs, List.all_eq_true.2 fun l hmem => by simpa using hl l (List.mem_range.1 hmem)⟩

theorem askWithdraw_of_not_in_service {who : Nat} (hs : s.rd .CRT_STAT_STATE d ≠ 3) :
    s.askWithdraw who d = s.fnErr who 4 ((0x90008 + 0x1000 * d) * 2 ^ 22 + d) :=
  if_neg fun h => hs h.1

theorem exec_cartridgeSafe_of_withdrawn (hs : s.rd .CRT_STAT_STATE d = 4) (hw : s.h .withdrawn d = 1) :
    exec (.cartridgeSafe d) s = .next ((s.wr .CRT_STAT_STATE d 5).setH .withdrawn d 0) := if_pos ⟨hs, hw⟩

/-- One entry of the bay's table as the identity memory has it (R166, R170). -/
def loadFrame (d : Nat) (s : State) (i : Nat) : State :=
  match (s.cartFrames d)[i]? with
  | some f => (s.wr .CRT_BF_DATA_VALID (1024 * d + i) 1).wr .CRT_BF_DATA_FRAME (1024 * d + i) f
  | none => (s.wr .CRT_BF_DATA_VALID (1024 * d + i) 0).wr .CRT_BF_DATA_FRAME (1024 * d + i) 0

theorem loadFrame_eq (i : Nat) : s.loadFrame d i =
    (s.wr .CRT_BF_DATA_VALID (1024 * d + i) (if i < (s.cartFrames d).length then 1 else 0)).wr .CRT_BF_DATA_FRAME (1024 * d + i)
      ((s.cartFrames d).getD i 0) := by
  rw [loadFrame, List.getD_eq_getElem?_getD]
  by_cases hi : i < (s.cartFrames d).length
  · rw [List.getElem?_eq_getElem hi, if_pos hi]
    rfl
  · rw [List.getElem?_eq_none (Nat.le_of_not_lt hi), if_neg hi]
    rfl

theorem loadFrame_cartFrames (i : Nat) : (s.loadFrame d i).cartFrames d = s.cartFrames d := by
  rw [loadFrame_eq]
  rfl

/-- What the table shows at entry `i` once the identity memory's table `frames` is loaded. -/
def ShowsFrame (d : Nat) (frames : List Nat) (i : Nat) (s : State) : Prop :=
  s.rd .CRT_BF_DATA_VALID (1024 * d + i) = (if i < frames.length then 1 else 0) ∧
    s.rd .CRT_BF_DATA_FRAME (1024 * d + i) = frames.getD i 0 % 2 ^ 24

theorem loadFrame_shows (i : Nat) : ShowsFrame d (s.cartFrames d) i (s.loadFrame d i) := by
  rw [loadFrame_eq]
  refine ⟨?_, rd_wr_same ..⟩
  rw [rd_wr_field _ _ _ (by decide), rd_wr_fits _ _ _ (by split <;> decide)]

theorem loadFrame_shows_other {i j : Nat} {frames : List Nat} (hne : j ≠ i) (h : ShowsFrame d frames i s) :
    ShowsFrame d frames i (s.loadFrame d j) := by
  have hindex : 1024 * d + j ≠ 1024 * d + i := by omega
  rw [loadFrame_eq, ShowsFrame, rd_wr_field _ _ _ (by decide), rd_wr_index _ hindex, rd_wr_index _ hindex, rd_wr_field _ _ _ (by decide)]
  exact h

theorem loadFrames_shows {n i : Nat} (hi : i < n) : ShowsFrame d (s.cartFrames d) i ((List.range n).foldl (loadFrame d) s) :=
  foldl_establishes (I := fun u => u.cartFrames d = s.cartFrames d) (fun _ j hu => (loadFrame_cartFrames j).trans hu)
    (fun _ hu => hu ▸ loadFrame_shows i) (fun _ _ hne hu => loadFrame_shows_other hne hu) (List.mem_range.2 hi) rfl

/-- A genuine cartridge's table is loaded, and the bay trains (R170). -/
theorem askService_of_genuine {who : Nat} (hs : s.rd .CRT_STAT_STATE d = 1) (hg : s.h .fitted d = 1) :
    s.askService who d = (((List.range 1024).foldl (loadFrame d) s).syncFrames d).wr .CRT_STAT_STATE d 2 := by
  simp only [askService, hs, hg, ne_eq, not_true_eq_false, if_true, if_false]
  rfl

theorem askService_of_rejected {who : Nat} (hs : s.rd .CRT_STAT_STATE d = 1) (hg : s.h .fitted d ≠ 1) :
    s.askService who d = (s.mark .CRT_STAT_REJECT d).wr .CRT_STAT_STATE d 1 := by
  simp only [askService, hs, hg, ne_eq, not_true_eq_false, if_false]

theorem exec_cartridgeInService_of_training (hs : s.rd .CRT_STAT_STATE d = 2) :
    exec (.cartridgeInService d) s = .next (((s.wipe (fun t u _ => t == 2 && u == d)).wr .CRT_STAT_STATE d 3).setH .presentPend d 1) := if_pos hs

/-! The latch, the presence contact, and a bay that is lost (R170, R393). -/

theorem exec_latchOpen_of_bay (h : d < s.nBays) : exec (.latchOpen d) s = .next (((s.bayOpens d).wr .CRT_STAT_LATCH d 0).setH .fitted d 0) :=
  if_neg (Nat.not_le.2 h)

theorem bayOpens_of_safe (hs : s.rd .CRT_STAT_STATE d = 5) : s.bayOpens d = s.wr .CRT_STAT_STATE d 0 := if_pos hs

theorem bayOpens_of_in_service (hs : s.rd .CRT_STAT_STATE d = 3) : s.bayOpens d = s.loseBay d := by
  simp [bayOpens, hs]

theorem rd_of_memQ (f : Fld) (i : Nat) (q : List (Nat × Nat × Nat × MemReq)) : State.rd { s with memQ := q } f i = s.rd f i := rfl

theorem rd_loseBay_state : (s.loseBay d).rd .CRT_STAT_STATE d = 6 := by
  simp only [loseBay]
  rw [rd_of_memQ, rd_setH, rd_setH, rd_wr_fits _ _ _ (by decide)]

theorem rd_loseBay_present {l : Nat} (hl : l < 64) : (s.loseBay d).rd .MEM_LOT_PRESENT (64 * d + l) = 0 := by
  simp only [loseBay]
  rw [rd_of_memQ, rd_setH, rd_setH, rd_wr_field _ _ _ (by decide)]
  exact foldl_establishes (I := fun _ => True) (P := fun u => u.rd .MEM_LOT_PRESENT (64 * d + l) = 0) (fun _ _ _ => trivial)
    (fun _ _ => rd_wr_same ..) (fun _ _ hne hu => (rd_wr_index _ (by omega)).trans hu) (List.mem_range.2 hl) trivial

/-- A cartridge is fitted, with its identity memory. -/
def closeLatch (s : State) (d : Nat) (genuine : Bool) (frames : List Nat) : State :=
  { ((s.wr .CRT_STAT_LATCH d 1).wr .CRT_STAT_STATE d 1).setH .fitted d (if genuine = true then 1 else 2) with
    idFrames := (d, frames) :: s.idFrames.filter (fun (e : Nat × List Nat) => e.1 != d) }

theorem exec_latchClose_of_open (h : d < s.nBays) (hl : s.rd .CRT_STAT_LATCH d = 0) (genuine : Bool) (frames : List Nat) :
    exec (.latchClose d genuine frames) s = .next (s.closeLatch d genuine frames) :=
  if_neg (not_or.2 ⟨Nat.not_le.2 h, by simp [flag, hl]⟩)

theorem rd_closeLatch_state (genuine : Bool) (frames : List Nat) : (s.closeLatch d genuine frames).rd .CRT_STAT_STATE d = 1 :=
  rd_wr_fits (s := s.wr .CRT_STAT_LATCH d 1) .CRT_STAT_STATE d 1 (by decide)

theorem rd_closeLatch_latch (genuine : Bool) (frames : List Nat) : (s.closeLatch d genuine frames).rd .CRT_STAT_LATCH d = 1 :=
  (rd_wr_field (s := s.wr .CRT_STAT_LATCH d 1) (f := .CRT_STAT_STATE) (g := .CRT_STAT_LATCH) d d 1 (by decide)).trans (rd_wr_same ..)

theorem cartFrames_closeLatch (genuine : Bool) (frames : List Nat) : (s.closeLatch d genuine frames).cartFrames d = frames := by
  simp [cartFrames, closeLatch]

theorem h_closeLatch_fitted (genuine : Bool) (frames : List Nat) :
    (s.closeLatch d genuine frames).h .fitted d = if genuine = true then 1 else 2 := h_setH_same ..

theorem exec_presenceContactOpen_of_safe (hs : s.rd .CRT_STAT_STATE d = 5) : exec (.presenceContactOpen d) s = .next s := if_pos (.inr (.inl hs))

theorem exec_presenceContactOpen_of_in_service (h : d < s.nBays) (hs : s.rd .CRT_STAT_STATE d = 3) :
    exec (.presenceContactOpen d) s = .next (s.loseBay d) := if_neg (by omega)

end State
open State

/-- Settles O39: each command by the state of its bay. That a write with VALID clear is taken of a full table (log entry 85), and that WITHDRAW is
refused in every state but IN_SERVICE (log entry 62), are the model's choices. -/
theorem cartridgesComeAndGo : Obligations.CartridgesComeAndGo := by
  intro s d hd
  refine ⟨fun val h => ?taken, fun val hfull hv => ?full, fun hs hl => ?withdraws, fun hs => ?refused, exec_cartridgeSafe_of_withdrawn,
    fun hs hg => ⟨_, exec_bringIntoService_cp hd, ?trains⟩, fun hs hg => ⟨_, exec_bringIntoService_cp hd, ?rejected⟩,
    fun hs => ⟨_, exec_cartridgeInService_of_training hs, ?inService, h_setH_same .., fun a => ?zero⟩,
    fun hs => ⟨_, exec_latchOpen_of_bay hd, ?emptied⟩, fun hs => ⟨_, exec_latchOpen_of_bay hd, ?lost⟩,
    fun genuine frames hl => ⟨_, exec_latchClose_of_open hd hl genuine frames, ?present⟩, exec_presenceContactOpen_of_safe,
    exec_presenceContactOpen_of_in_service hd⟩
  case taken =>
    refine ⟨_, exec_badFrameWrite_cp hd val, ?_⟩
    rw [badFrame_of_taken h]
    exact ⟨rd_takeFrame_valid, rd_takeFrame_frame, h_setH_same ..⟩
  case full => rw [exec_badFrameWrite_cp hd, badFrame_of_full hfull hv]
  case withdraws => rw [exec_withdraw_cp hd, askWithdraw_of_idle hs hl]
  case refused => rw [exec_withdraw_cp hd, askWithdraw_of_not_in_service hs]
  case trains =>
    rw [askService_of_genuine hs hg]
    refine ⟨rd_wr_fits _ _ _ (by decide), fun i hi => ?_⟩
    rw [rd_wr_field _ _ _ (by decide), rd_syncFrames _ (by decide), rd_wr_field _ _ _ (by decide), rd_syncFrames _ (by decide)]
    exact loadFrames_shows hi
  case rejected =>
    rw [askService_of_rejected hs hg]
    exact ⟨rd_wr_fits _ _ _ (by decide), (rd_wr_field _ _ _ (by decide)).trans (rd_mark_same ..)⟩
  case inService => rw [rd_setH, rd_wr_fits _ _ _ (by decide)]
  case zero =>
    have hbay : d < 16 := (hd.trans_le nBays_le).trans (by decide)
    have hwiped : (s.wipe (fun t u _ => t == 2 && u == d)).memByte 2 d a = 0 := memByte_wipe (by decide) hbay (by simp)
    exact hwiped
  case emptied =>
    rw [bayOpens_of_safe hs, rd_setH, rd_setH, rd_wr_field _ _ _ (by decide), rd_wr_same, rd_wr_same]
    exact ⟨rfl, rfl⟩
  case lost =>
    rw [bayOpens_of_in_service hs, rd_setH, rd_setH, rd_wr_field _ _ _ (by decide), rd_loseBay_state, rd_wr_same]
    refine ⟨rfl, rfl, fun l hl => ?_⟩
    rw [rd_setH, rd_wr_field _ _ _ (by decide), rd_loseBay_present hl]
  case present =>
    refine ⟨rd_closeLatch_state genuine frames, rd_closeLatch_latch genuine frames, ?_, cartFrames_closeLatch genuine frames⟩
    rw [h_closeLatch_fitted]
    cases genuine <;> decide

end Sys2Proof.Machine
end

section
/-! PROOFS. Codebooks, verdicts, submissions and plans (R90, R179, R180, R245, R319, R322). -/

namespace Sys2Proof.Machine
namespace State

variable {s s1 s2 : State} {e : SubEntry}

/-! CB_LOAD and CB_UNLOAD (R179, R180). -/

/-- Slot `k` with image `img` at offset `base` of the stores of `units`, as CB_LOAD leaves it; `n` entries. -/
def loadSlot (s : State) (k q units base n : Nat) (img : List Byte) : State :=
  let s1 := (((s.wr .CB_SLOT_OWNER k q).wr .CB_SLOT_FMT k (cbFmt img)).wr .CB_SLOT_ENTRIES k n).wr .CB_SLOT_BASE k base
  { (s1.wr .CB_SLOT_UNITS k units).mark .CB_SLOT_VALID k with codebooks := s1.codebooks ++ [(k, img)] }

section
variable {k q units base n : Nat} {img : List Byte}

theorem rd_of_codebooks (f : Fld) (i : Nat) (l : List (Nat × List Byte)) : State.rd { s with codebooks := l } f i = s.rd f i := rfl

theorem rd_loadSlot_valid : (s.loadSlot k q units base n img).rd .CB_SLOT_VALID k = 1 := by
  rw [loadSlot, rd_of_codebooks, rd_mark_same]
  rfl

theorem rd_loadSlot_units : (s.loadSlot k q units base n img).rd .CB_SLOT_UNITS k = units % 2 ^ 16 := by
  rw [loadSlot, rd_of_codebooks, rd_mark_field _ _ (by decide), rd_wr_same]
  rfl

theorem rd_loadSlot_base : (s.loadSlot k q units base n img).rd .CB_SLOT_BASE k = base % 4096 := by
  rw [loadSlot, rd_of_codebooks, rd_mark_field _ _ (by decide), rd_wr_field _ _ _ (by decide), rd_wr_same]
  rfl

theorem rd_loadSlot_owner : (s.loadSlot k q units base n img).rd .CB_SLOT_OWNER k = q % 16 := by
  rw [loadSlot, rd_of_codebooks, rd_mark_field _ _ (by decide), rd_wr_field _ _ _ (by decide), rd_wr_field _ _ _ (by decide),
    rd_wr_field _ _ _ (by decide), rd_wr_field _ _ _ (by decide), rd_wr_same]
  rfl

end

/-- CB_LOAD with every check passed. -/
theorem cmdCbLoad_of_good {h img : List Byte} {b : Nat} (hs : s.Serves e 0x400)
    (hunits : ∀ u < 16, bitsOf (eArg e 16 16) u 1 = 1 → u < s.nStacks ∨ (12 ≤ u ∧ u < 12 + s.nBays))
    (hvalid : s.rd .CB_SLOT_VALID (eArg e 0 8) = 0) (hunloading : s.rd .CB_SLOT_UNLOADING (eArg e 0 8) = 0)
    (hhead : s.vread (cpClient (eTarget e) (eTag e)) (eArg e 64 64) 64 = (s1, .ok (h, false)))
    (himg : s1.vread (cpClient (eTarget e) (eTag e)) (eArg e 64 64) (1088 + min (cbEntries h) 4096 * modeW (cbFmt h) / 2) =
      (s2, .ok (img, false))) (hgood : cbImageOk img = true)
    (hfit : (List.range 4096).find? (fun b => s2.cbFits (eArg e 16 16) b ((img.length + 63) / 64)) = some b) :
    s.cmdCbLoad e = (s2.loadSlot (eArg e 0 8) (eTarget e) (eArg e 16 16) b (min (cbEntries h) 4096) img).done e stSuccess 0 := by
  have hfitted : (List.range 16).any (fun u => bitsOf (eArg e 16 16) u 1 == 1 &&
      !(decide (u < s.nStacks) || (decide (12 ≤ u) && decide (u < 12 + s.nBays)))) = false := by
    simpa [List.any_eq_false, or_iff_not_imp_left] using hunits
  have hfree : ¬ (s.flag .CB_SLOT_VALID (eArg e 0 8) = true ∨ s.flag .CB_SLOT_UNLOADING (eArg e 0 8) = true) := by
    simp [flag, hvalid, hunloading]
  rw [cmdCbLoad, command_serves hs]
  simp only [hfitted, hfree, hhead, himg, hgood, hfit, Bool.not_true, Bool.false_eq_true, if_false]
  rfl

/-- The owner's CB_UNLOAD waits for the turn end that frees the slot. -/
theorem cmdCbUnload_of_owner (hs : s.Serves e 0x401) (hvalid : s.rd .CB_SLOT_VALID (eArg e 0 8) = 1)
    (howner : s.rd .CB_SLOT_OWNER (eArg e 0 8) = eTarget e) :
    s.cmdCbUnload e =
      { s.wr .CB_SLOT_UNLOADING (eArg e 0 8) 1 with late := s.late ++ [⟨e.page, e.source, eTag e, .slotFree (eArg e 0 8)⟩] } := by
  rw [cmdCbUnload, command_serves hs]
  simp only [flag, hvalid, howner, beq_self_eq_true, Bool.true_or, Bool.not_true, Bool.false_eq_true, if_false, ne_eq, not_true_eq_false]
  rfl

/-! VERDICT (R245). -/

theorem cmdVerdict_of_given (hs : s.Serves e 0x500)
    (hgiven : (s.wr .UU_Q_CLIP_CLIP (eTarget e) (eArg e 64 32)).giveVerdict (eTarget e) (eArg e 0 32) (eArg e 32 1 == 1) = (s1, true)) :
    s.cmdVerdict e = s1.done e stSuccess (s1.rd .UU_STEP_EXPECT_VSEQ (eTarget e) + 2 ^ 32 * s1.rd .UU_Q_KEEP_APPLY (eTarget e) +
      2 ^ 40 * s1.rd .UU_Q_KEEP_E (eTarget e)) := by
  rw [cmdVerdict, command_serves hs]
  simp only [hgiven, if_true]

/-! SUBMIT and PLAN (R90, R319, R322). -/

/-- The operation numbered `id` that SUBMIT entry `w` makes of descriptor `raw`. -/
def submitted (id q page source w raw : Nat) (plan : Option (Nat × Nat)) : Op :=
  { Op.fresh id q page source (bitsOf w 32 32) raw (bitsOf w 128 64) with
    notify := bitsOf w 31 1 == 1, plan := plan,
    sig := if bitsOf w 16 1 = 1 then some (bitsOf w 17 6) else none,
    wait := if bitsOf w 23 1 = 1 then some (bitsOf w 24 6, bitsOf w 64 32) else none,
    bind := if bitsOf w 30 1 = 1 then some (bitsOf w 96 4, bitsOf w 100 7) else none }

/-- An entry whose descriptor is read puts its operation at the end of the submit queue. -/
theorem submitEntry_of_read {q page source w d : Nat} {plan : Option (Nat × Nat)}
    (hread : s.readDesc q (bitsOf w 32 32) (bitsOf w 128 64) = (s1, .ok d)) :
    s.submitEntry q page source w plan =
      ({ s1.newId.2 with ops := s1.ops ++ [submitted (s1.h .nextId 0) q page source w d plan],
                         submitQ := s1.submitQ ++ [s1.h .nextId 0] }, true) := by
  simp only [submitEntry, hread, reduceCtorEq, if_false]
  rfl

theorem newId_next : s.newId.2.h .nextId 0 = s.h .nextId 0 + 1 := h_setH_same ..

theorem cmdSubmit_of_entry (hs : s.Serves e 0x100) (hheld : s.submitHeld (eTarget e) = false)
    (hentry : s.submitEntry (eTarget e) e.page e.source (eRaw e) none = (s1, true)) : s.cmdSubmit e = s1 := by
  rw [cmdSubmit, command_serves hs]
  simp only [hheld, hentry, Bool.false_eq_true, if_false, if_true]

/-- The operation of a plan of `n` entries, none of them read. -/
def planOp (s : State) (e : SubEntry) (n : Nat) : Op :=
  { Op.fresh (s.h .nextId 0) (eTarget e) e.page e.source (eTag e) 0x03 (eArg e 0 64) with phase := .members, left := n, lossE := n }

theorem cmdPlan_of_room (hs : s.Serves e 0x101) (halign : eArg e 0 64 % 64 = 0) (hheld : s.submitHeld (eTarget e) = false) :
    s.cmdPlan e = { s.newId.2 with ops := s.newId.2.ops ++ [s.planOp e (eArg e 64 12 + 1)] }.planRun (s.h .nextId 0) (eArg e 64 12 + 1) := by
  rw [cmdPlan, command_serves hs]
  simp only [halign, hheld, Bool.false_eq_true, if_false, ne_eq, not_true_eq_false]
  rfl

end State
open State

/-- Settles O29: each command, once its entry is served, is its body with the checks passed. That a loaded image lies at the lowest offset that fits
is the model's choice (log entry 41). -/
theorem codebookAndTrainingCommands : Obligations.CodebookAndTrainingCommands := by
  intro s e q c
  refine ⟨fun h hunits hvalid hunloading s1 hd s2 img b hhead himg hgood hfit => ?load, fun h hvalid howner => ?unload, fun h s1 hgiven => ?verdict,
    fun h hheld => ⟨fun t hentry => ?enters, fun s1 d hread => ?submits⟩, fun h halign hheld => ?plan⟩
  case load =>
    have hdone := done_posts (.refl (s2.loadSlot (eArg e 0 8) q (eArg e 16 16) b (min (cbEntries hd) 4096) img)) e stSuccess 0
    refine ⟨_, congrArg Host.Outcome.next (cmdCbLoad_of_good h hunits hvalid hunloading hhead himg hgood hfit), ?_, ?_, ?_, ?_⟩
    · exact (hdone.regs _ _ rfl).trans rd_loadSlot_valid
    · exact (hdone.regs _ _ rfl).trans rd_loadSlot_owner
    · exact (hdone.regs _ _ rfl).trans rd_loadSlot_base
    · exact (hdone.regs _ _ rfl).trans (rd_loadSlot_units.trans (Nat.mod_eq_of_lt (eArg_lt ..)))
  case unload => exact congrArg Host.Outcome.next (cmdCbUnload_of_owner h hvalid howner)
  case verdict => exact congrArg Host.Outcome.next (cmdVerdict_of_given h hgiven)
  case enters => exact congrArg Host.Outcome.next (cmdSubmit_of_entry h hheld hentry)
  case submits =>
    have hentry := submitEntry_of_read (page := e.page) (source := e.source) (plan := none) hread
    exact ⟨_, _, congrArg Host.Outcome.next (cmdSubmit_of_entry h hheld hentry), rfl, rfl, rfl, rfl, rfl, rfl, rfl, newId_next⟩
  case plan => exact congrArg Host.Outcome.next (cmdPlan_of_room h halign hheld)

end Sys2Proof.Machine
end

section
/-! PROOFS. Packed pages (R184 to R189). -/

namespace Sys2Proof.Machine
namespace State

variable {s s1 s2 : State} {q va : Nat} {x : PackStall}

/-! PACKED_WRITE (R185). -/

theorem exec_packedWrite_of_packed {data : List Byte} {init : Initiator} {l : Leaf} {r : Except Nat Unit}
    (hx : s.xlate ⟨q, init, 0, none⟩ va true = (s1, .ok l)) (hp : ptePacked l.pte = true)
    (hwrite : s1.vwrite ⟨q, init, 0, none⟩ va (data.take (2 ^ l.log2 - va % 2 ^ l.log2)) = (s2, r)) :
    exec (.packedWrite q va data init) s = .next s2 := by
  show execPackedWrite q va data init s = _
  simp only [execPackedWrite, hx, hp, hwrite, if_true]

/-! An access of no operation that waited is made again (R184, R186). -/

theorem retryPacked_of_write {r : Except Nat Unit} (hop : x.op = none) (hw : x.write = true)
    (hwrite : s.writeOne ⟨x.q, x.init, x.tag, none⟩ ⟨x.pte, x.log2, x.unit, x.addr⟩ x.va x.data x.bads = (s1, r)) :
    s.retryPacked x = (s1.settle, r) := by
  simp only [retryPacked, hop, hw, hwrite, Option.bind_none, Option.filter_none, if_true]

theorem retryPacked_of_read {d : List Byte} {bs : List Bool} (hop : x.op = none) (hw : x.write = false)
    (hread : s.packedRead ⟨x.q, x.init, x.tag, none⟩ ⟨x.pte, x.log2, x.unit, x.addr⟩ x.va x.data.length = (s1, .ok (d, bs))) :
    s.retryPacked x = ({ s1 with reply := ⟨if bs.any id = true then 3 else 0, d⟩ }, .ok ()) := by
  simp only [retryPacked, hop, hw, hread, Option.bind_none, Option.filter_none, Bool.false_eq_true, if_false]

theorem retryPacked_of_read_error {cause : Nat} (hop : x.op = none) (hw : x.write = false)
    (hread : s.packedRead ⟨x.q, x.init, x.tag, none⟩ ⟨x.pte, x.log2, x.unit, x.addr⟩ x.va x.data.length = (s1, .error cause)) :
    s.retryPacked x = (s1.packedFault ⟨x.q, x.init, x.tag, none⟩ x.va false cause, .error cause) := by
  simp only [retryPacked, hop, hw, hread, Option.bind_none, Option.filter_none, Bool.false_eq_true, if_false]

/-! POOL_RECHECK (R186) of a quarter with one stalled packer. -/

section
variable (hone : s.packStalls = [x]) (hbusy : x.busy = false) (hop : x.op = none)
include hone hbusy hop

theorem exec_poolRecheck_of_full
    (hretry : (({ s with packStalls := [] } : State).dirBusy ⟨x.q, x.init, x.tag, none⟩ x.pte false).retryPacked x = (s1, .error waitPool)) :
    exec (.poolRecheck x.q) s = .next (s.ev evPkPoolFull x.q 0 1024) := by
  show execPoolRecheck x.q s = _
  simp [execPoolRecheck, hone, hbusy, hop, hretry]

theorem exec_poolRecheck_of_room
    (hretry : (({ s with packStalls := [] } : State).dirBusy ⟨x.q, x.init, x.tag, none⟩ x.pte false).retryPacked x = (s1, .ok ()))
    (hnone : s1.packStalls = []) :
    exec (.poolRecheck x.q) s = .next ((s1.ev evPkPoolFull x.q 0 1023).wr .PK_Q_STAT_WAITING x.q 0) := by
  have hleft : (s1.ev evPkPoolFull x.q 0 1023).packStalls = [] := (ev_sameWaits ..).packStalls.trans hnone
  show execPoolRecheck x.q s = _
  simp [execPoolRecheck, hone, hbusy, hop, hretry, hleft]

end

/-! BUSY_RECHECK (R184) of a quarter with one access that waits. -/

section
variable (hone : s.packStalls = [x]) (hpage : x.va / 2 ^ x.log2 = va / 2 ^ x.log2) (hbusy : x.busy = true)
include hone hpage hbusy

theorem exec_busyRecheck_of_busy (hretry : ({ s with packStalls := [] } : State).retryPacked x = (s1, .error waitBusy)) :
    exec (.busyRecheck x.q va) s = .next (s.ev evPkBusyWait x.q 0 64) := by
  show execBusyRecheck x.q va s = _
  simp [execBusyRecheck, hone, hpage, hbusy, hretry]

theorem exec_busyRecheck_of_clear
    (hretry : ({ s with packStalls := [] } : State).retryPacked x = (s1, .ok ())) :
    exec (.busyRecheck x.q va) s = .next (s1.ev evPkBusyWait x.q 0 63) := by
  show execBusyRecheck x.q va s = _
  simp [execBusyRecheck, hone, hpage, hbusy, hretry]

end

/-! EXPANDER_DECODE (R187 to R191) of a page whose directory slot is read. -/

/-- R189: the damage is shown at the unit. -/
theorem rd_noteDamage_damaged (t u cause b : Nat) : (s.noteDamage q t u va cause b).rd .EXP_STAT_DAMAGED (unitNo t u) = 1 := by
  simp only [noteDamage, firstError]
  split
  · rw [rd_mark_field _ _ (by decide), rd_mark_same]
    rfl
  · rw [rd_wr_field _ _ _ (by decide), rd_wr_field _ _ _ (by decide), rd_wr_field _ _ _ (by decide), rd_wr_field _ _ _ (by decide),
      rd_mark_field _ _ (by decide), rd_mark_same]
    rfl

theorem rd_of_reply (f : Fld) (n : Nat) (r : Reply) : State.rd { s with reply := r } f n = s.rd f n := rfl

section
variable {l : Leaf} {d : Dir} {bytes : List Byte} {j first last i o : Nat}
  (hx : s.xlate ⟨q, ⟨2, 0⟩, 0, none⟩ va false = (s1, .ok l)) (hp : ptePacked l.pte = true)
  (hdir : s1.readDir ⟨q, ⟨2, 0⟩, 0, none⟩ l.pte = (s2, .ok (d, bytes, false))) (hbusy : d.busy = false)
include hx hp hdir hbusy

theorem exec_expanderDecode_of_invalid (hvalid : d.valid = false) :
    exec (.expanderDecode q va j first last i o) s = .next { s2 with reply := ⟨0, []⟩ } := by
  show execExpanderDecode q va j first last i o s = _
  simp only [execExpanderDecode, hx, hp, hdir, hbusy, hvalid, Bool.not_true, Bool.not_false, Bool.false_eq_true, if_false, if_true]

theorem exec_expanderDecode_of_damaged (hvalid : d.valid = true) (hbad : dirBad d bytes = true) :
    exec (.expanderDecode q va j first last i o) s = .next { s2.dirDamage ⟨q, ⟨2, 0⟩, 0, none⟩ l va false with reply := ⟨3, []⟩ } := by
  show execExpanderDecode q va j first last i o s = _
  simp only [execExpanderDecode, hx, hp, hdir, hbusy, hvalid, hbad, Bool.not_true, Bool.false_eq_true, if_false, if_true]

theorem exec_expanderDecode_of_good (hvalid : d.valid = true) (hgood : dirBad d bytes = false) :
    let u := if pteTier l.pte = 0 then q else pteUnit l.pte
    let n := unitNo (pteTier l.pte) u
    let out := ((s2.ev evExpInWait q n i).ev evExpOutWait q n o).expand ⟨q, ⟨2, 0⟩, 0, none⟩ l.pte l.log2 va j first last d
    s2.runCheck q (pteTier l.pte) u ((d.subs * d.slot + j) % nChan (pteTier l.pte)) (d.runs.getD j (0, 0, 0)).1
        (d.runs.getD j (0, 0, 0)).2.1 = none →
      exec (.expanderDecode q va j first last i o) s = .next { out.1 with
        reply := ⟨if out.2.any (fun e => e.2.isNone) = true then 3 else 0, out.2.flatMap (fun e => e.2.getD [])⟩ } := by
  intro u n out hrun
  show execExpanderDecode q va j first last i o s = _
  simp only [execExpanderDecode, hx, hp, hdir, hbusy, hvalid, hgood, Bool.not_true, Bool.false_eq_true, if_false]
  rw [hrun]

end

/-- The status of an expansion is 0 exactly where no block of it is damaged. -/
theorem expandStatus_eq_zero_iff (blocks : List (Nat × Option (List Byte))) :
    (if blocks.any (fun e => e.2.isNone) = true then 3 else 0) = 0 ↔ ∀ e ∈ blocks, e.2 ≠ none := by
  simp only [ite_eq_right_iff, OfNat.ofNat_ne_zero, imp_false, List.any_eq_true, Option.isNone_iff_eq_none, not_exists, not_and, ne_eq]

end State
open State

/-- Settles O41: an access that waits is made again as its write or its read; the expander by what its directory slot says. -/
theorem packedPagesAreServed : Obligations.PackedPagesAreServed := by
  intro s q va
  refine ⟨fun data init s1 l s2 r => exec_packedWrite_of_packed, fun x s1 r hone hq hbusy hop hw hwrite => ?pool,
    fun x s1 r hone hq hpage hbusy hop hw hread => ?busy, fun s1 l s2 d bytes => ?expander⟩
  case pool =>
    subst hq
    have hretry := retryPacked_of_write hop hw hwrite
    refine ⟨fun hr => ?full, fun hr hnone => ?room⟩ <;> subst hr
    case full => exact exec_poolRecheck_of_full hone hbusy hop hretry
    case room => exact exec_poolRecheck_of_room hone hbusy hop hretry hnone
  case busy =>
    subst hq
    refine ⟨fun hr => ?waits, fun d bs hr => ?clear⟩ <;> subst hr
    case waits => exact exec_busyRecheck_of_busy hone hpage hbusy (retryPacked_of_read_error hop hw hread)
    case clear => exact exec_busyRecheck_of_clear hone hpage hbusy (retryPacked_of_read hop hw hread)
  case expander =>
    intro c u hx hp hdir hbusy
    refine ⟨fun hvalid j first last i o => exec_expanderDecode_of_invalid hx hp hdir hbusy hvalid,
      fun hvalid hgood j first last i o hrun => ?good, fun hvalid hbad j first last i o => ?damaged⟩
    case good =>
      exact ⟨_, exec_expanderDecode_of_good hx hp hdir hbusy hvalid hgood hrun, rfl, expandStatus_eq_zero_iff _, rfl⟩
    case damaged =>
      exact ⟨_, exec_expanderDecode_of_damaged hx hp hdir hbusy hvalid hbad, rfl, (rd_of_reply ..).trans (rd_noteDamage_damaged ..)⟩

end Sys2Proof.Machine
end

section
/-! PROOFS. Streams: issue, Port A, responses, work units and direct stores (R192 to R205, R211, R277). -/

namespace Sys2Proof.Machine
namespace State

variable {s u v w : State} {t e : Nat}

/-! What the events and counts of an issue leave of what the issue is said in (R194, R199). -/

/-- The requests, the cycle, and the notes of the next request's number and of each engine's last issue. -/
structure SameIssue (s t : State) : Prop where
  reqs : t.reqs = s.reqs
  now : t.now = s.now
  nextReq : t.h .nextReq 0 = s.h .nextReq 0
  seLast : ∀ e, t.h .seLast e = s.h .seLast e

theorem SameIssue.refl (s : State) : s.SameIssue s := ⟨rfl, rfl, rfl, fun _ => rfl⟩

theorem SameIssue.trans (h : s.SameIssue u) (h' : u.SameIssue v) : s.SameIssue v :=
  ⟨h'.reqs.trans h.reqs, h'.now.trans h.now, h'.nextReq.trans h.nextReq, fun e => (h'.seLast e).trans (h.seLast e)⟩

theorem SameIssue.foldl {α : Type} {l : List α} {f : State → α → State} (hf : ∀ (u : State) (x : α), u.SameIssue (f u x)) :
    s.SameIssue (l.foldl f s) := by
  induction l generalizing s with
  | nil => exact .refl s
  | cons x l ih => exact (hf s x).trans ih

theorem Counts.sameIssue (h : s.Counts u) : s.SameIssue u :=
  ⟨by rw [h.eq], by rw [h.eq], h.hid _ _ nofun nofun, fun _ => h.hid _ _ nofun nofun⟩

theorem setH_tagsSince_sameIssue (i n : Nat) : s.SameIssue (s.setH .tagsSince i n) :=
  ⟨rfl, rfl, h_setH_name _ _ _ nofun, fun _ => h_setH_name _ _ _ nofun⟩

theorem bump_sameIssue (f : Fld) (i n : Nat) : s.SameIssue (s.bump f i n) := by
  refine ⟨(bump_sameWaits ..).reqs, ?_, h_bump _ _ _ _ nofun nofun, fun _ => h_bump _ _ _ _ nofun nofun⟩
  unfold bump
  simp only
  split <;> rfl

theorem tagsWait_sameIssue (q e : Nat) (on : Bool) : s.SameIssue (s.tagsWait q e on) := by
  unfold tagsWait span
  simp only
  split
  · split
    · exact setH_tagsSince_sameIssue ..
    · exact .refl s
  · split
    · exact .refl s
    · exact (setH_tagsSince_sameIssue ..).trans (evFrom_counts ..).sameIssue

theorem enqueue_sameIssue (k u : Nat) (x : MemReq) : s.SameIssue (s.enqueue k u x) := by
  have hqueue (m : List (Nat × Nat × Nat × MemReq)) : s.SameIssue { s with memQ := m } := ⟨rfl, rfl, rfl, fun _ => rfl⟩
  by_cases hroom : (s.chanQueue k u (s.channelOf k u x.addr)).length < 64
  · rw [enqueue_of_room hroom]
    exact hqueue _
  · rw [enqueue_of_full (Nat.not_lt.1 hroom)]
    exact (hqueue _).trans (ev_counts ..).sameIssue

/-! STREAM_ISSUE (R192, R199). -/

/-- The candidates that engine `e` meets, operation by operation, and the state that meeting them leaves (R198, R199). -/
def offers (s : State) (e : Nat) : State × List Cand :=
  (s.ops.map (·.id)).foldl (fun (acc : State × List Cand) (id : Nat) => acc.1.offerOp e acc.2 id) (s, [])

/-- The events of the quarters whose quota is used up (R195). -/
def tagsNoted (v : State) (e : Nat) (cs : List Cand) : State :=
  (List.range v.nQ).foldl (fun (s : State) (q : Nat) =>
    s.tagsWait q e (decide (v.rd .SE_Q_TAGS_TAGS_ACT q ≤ v.outOf q e) && cs.any (fun c => c.op.q == q))) v

theorem tagsNoted_sameIssue (cs : List Cand) : v.SameIssue (v.tagsNoted e cs) := .foldl fun _ _ => tagsWait_sameIssue ..

/-- The request that engine `e` makes of candidate `c`. -/
def reqOf (s : State) (e : Nat) (c : Cand) : Req := { s.newReq c.op e c.t c.need with atPort := c.t == 3 }

/-- The request is made and, but for Port A's, queued at its channel. -/
def queuedReq (s : State) (e : Nat) (c : Cand) : State :=
  let s1 := (s.takeNeed c.op.id c.need).addReq (s.reqOf e c)
  if c.t = 1 ∨ c.t = 2 then s1.enqueue c.t c.u ⟨c.op.q, c.a, false, some (s.reqOf e c).deadline, s.now, false, some (s.reqOf e c).id⟩ else s1

theorem issueReq_eq (c : Cand) : s.issueReq e c =
    ((((s.queuedReq e c).setH .seLast e (s.now + 1)).syncOut e).bump .SE_STAT_ISSUED e 1).ev evSeIssue c.op.q e 1 := rfl

theorem queuedReq_sameIssue (c : Cand) : ((s.takeNeed c.op.id c.need).addReq (s.reqOf e c)).SameIssue (s.queuedReq e c) := by
  unfold queuedReq
  simp only
  split
  · exact enqueue_sameIssue ..
  · exact .refl _

theorem addReq_nextReq (r : Req) : (s.addReq r).h .nextReq 0 = s.h .nextReq 0 + 1 := h_setH_same ..

/-- An issue adds the request and counts it, and notes that the engine has issued in this cycle. -/
theorem issueReq_adds (c : Cand) :
    (s.issueReq e c).reqs = s.reqs ++ [s.reqOf e c] ∧ (s.issueReq e c).h .nextReq 0 = s.h .nextReq 0 + 1 ∧
      (s.issueReq e c).h .seLast e = s.now + 1 := by
  have hqueue := queuedReq_sameIssue (s := s) (e := e) c
  have hcount : SameIssue (((s.queuedReq e c).setH .seLast e (s.now + 1)).syncOut e) (s.issueReq e c) := by
    rw [issueReq_eq]
    exact (bump_sameIssue ..).trans (ev_counts ..).sameIssue
  refine ⟨hcount.reqs.trans hqueue.reqs, ?_, ?_⟩
  · rw [hcount.nextReq, syncOut, h_wr, h_setH_name _ _ _ (by decide), hqueue.nextReq, addReq_nextReq]
    rfl
  · rw [hcount.seLast, syncOut, h_wr, h_setH_same]

theorem exec_streamIssue_of_one {c : Cand} (hoffer : (s.goTo t).resumeFaulted.offers e = (v, [c]))
    (hlast : v.h .seLast e ≠ v.now + 1) (hquota : v.outOf c.op.q e < v.rd .SE_Q_TAGS_TAGS_ACT c.op.q) :
    exec (.streamIssue e t) s = .next ((v.tagsNoted e [c]).issueReq e c) := by
  rw [offers] at hoffer
  have hsame := tagsNoted_sameIssue (v := v) (e := e) [c]
  have hfree : [c].filter (fun c => !decide (v.rd .SE_Q_TAGS_TAGS_ACT c.op.q ≤ v.outOf c.op.q e)) = [c] := by simp [hquota]
  have hnot : (v.tagsNoted e [c]).h .seLast e ≠ (v.tagsNoted e [c]).now + 1 := by rwa [hsame.seLast, hsame.now]
  show execStreamIssue e t s = _
  simp only [execStreamIssue, hoffer, hfree, List.foldl_nil]
  exact if_neg hnot

/-- With no candidate left, and with some, the engine issues no second request in its cycle (R199). -/
theorem exec_streamIssue_of_issued {cs : List Cand} (hoffer : (s.goTo t).resumeFaulted.offers e = (v, cs))
    (hlast : v.h .seLast e = v.now + 1) : exec (.streamIssue e t) s = .next (v.tagsNoted e cs) := by
  rw [offers] at hoffer
  have hsame := tagsNoted_sameIssue (v := v) (e := e) cs
  have hissued : (v.tagsNoted e cs).h .seLast e = (v.tagsNoted e cs).now + 1 := by rwa [hsame.seLast, hsame.now]
  show execStreamIssue e t s = _
  simp only [execStreamIssue, hoffer]
  split
  · rfl
  · exact if_pos hissued

/-! PORT_TIER3_ISSUE, STREAM_RESPONSE and DIRECT_HOST_STORE, of one request or one store (R192, R194, R206, R211, R277). -/

section
variable {r : Req} {o : Op} {d : DirectStore} (hu : s.goTo t = u)
include hu

theorem exec_portTier3Issue_of_one (hone : u.reqs = [r]) (hport : r.atPort = true) (hlost : r.lost = false) (hdirect : u.direct = [])
    (hlive : u.liveStacks ≠ []) :
    exec (.portTier3Issue t) s = .next ({ u with reqs := [{ r with atPort := false, lost := false }] }.syncOut r.engine) := by
  have hout : u.cacheOut = 0 := by simp [cacheOut, hone, hport, hdirect]
  show execPortTier3Issue t s = _
  simp [execPortTier3Issue, hu, hone, hport, hlost, hlive, hout]

/-- Nothing stands before the response in the channels' queues, so that it finds its request (R155, R194). -/
theorem exec_streamResponse_of_running (hone : u.reqs = [r]) (hport : r.atPort = false) (hfault : r.faulted = false) (hdrop : r.drop = false)
    (hq : u.memQ = []) (hop : u.op? r.op = some o) (hrun : o.phase = .running) :
    exec (.streamResponse r.id t) s = .next (u.answered r o) := by
  have hnone : s.memQ = [] := by rw [← goTo_memQ t, hu, hq]
  show execStreamResponse r.id t s = _
  simp [execStreamResponse, hu, hnone, serveUntil, hone, hport, hfault, hdrop, hq, hop, hrun]

theorem exec_streamResponse_of_gone (hone : u.reqs = [r]) (hport : r.atPort = false) (hfault : r.faulted = false)
    (hq : u.memQ = []) (hgone : u.op? r.op = none ∨ r.drop = true) : exec (.streamResponse r.id t) s = .next (u.freeReq r) := by
  have hnone : s.memQ = [] := by rw [← goTo_memQ t, hu, hq]
  show execStreamResponse r.id t s = _
  cases hop : u.op? r.op with
  | none => simp [execStreamResponse, hu, hnone, serveUntil, hone, hport, hfault, hq, hop]
  | some o =>
    have hdrop : r.drop = true := hgone.resolve_left (by simp [hop])
    simp [execStreamResponse, hu, hnone, serveUntil, hone, hport, hfault, hq, hop, hdrop]

theorem exec_directHostStore_of_one (hop : u.op? o.id = some o) (hone : u.direct = [d]) (howner : d.op = o.id) (hst : d.st = 0)
    (hreqs : u.reqs = []) (hrun : u.h .halted o.q ≠ 1) (hcache : u.rd .PT_LINK_STAT_CACHE 0 = 1) :
    exec (.directHostStore o.id t) s = .next { u with direct := [{ d with st := 1 }] } := by
  have hnext : u.nextStore o.id = some d := by simp [nextStore, lineClear, hone, howner, hst]
  have hout : u.cacheOut = 0 := by simp [cacheOut, hone, hreqs, hst]
  show execDirectHostStore o.id t s = _
  simp [execDirectHostStore, hu, hnext, hop, hone, hst, hrun, flag, hcache, hout]

/-! SLOT_OPEN and SLOT_COMMIT of a stream to a plain destination (R202, R204, R205). -/

theorem exec_slotOpen_of_segment (hop : u.op? o.id = some o) (hkind : o.kind = 0x10) (hphase : o.phase = .running)
    (hopen : (StreamPos.ofOp o).opened = 0) (hrun : u.h .halted o.q ≠ 1) (hbar : u.waitBroken o = false) (hdst : stDstKind o.raw = 0)
    (hpos : u.pos < u.cycS) :
    exec (.slotOpen o.id t) s = .next (u.setOp ({ StreamPos.ofOp o with opened := streamCursor o + 1 }.put o)) := by
  show execSlotOpen o.id t s = _
  simp [execSlotOpen, hu, hop, hkind, hphase, hopen, hrun, hbar, hdst, hpos]

theorem exec_slotOpen_of_sweep (hop : u.op? o.id = some o) (hpos : u.cycS ≤ u.pos) : exec (.slotOpen o.id t) s = .next u := by
  show execSlotOpen o.id t s = _
  simp [execSlotOpen, hu, hop, hpos]

end

/-- A response for an explicit stream is its copy, and then frees its tag (R194). -/
theorem answered_of_copied {r : Req} {o : Op} (hgran : r.need.gran = none) (hkind : o.kind = 0x10)
    (hcopy : s.copyBytes (engineClient o r.engine) r.need.va r.need.dst r.need.n = (v, true)) : s.answered r o = v.freeReq r := by
  simp only [answered, hgran, deliver, hkind, hcopy, if_true]

/-- A stream with `done` rows committed and no work unit open (R204). -/
def committed (o : Op) (done : Nat) : Op := { StreamPos.ofOp o with opened := 0 }.put { o with
  rowRun := done % 2 ^ 32, nBlock := done / 2 ^ 32, overrun := false, spilled := false, noProgress := 0 }

/-- What its park record shows as left. -/
def recordLeft (o : Op) : Op :=
  { o with estCycles := max (o.estCycles - o.slice) (estOf o.raw).2.2, estTokens := max (o.estTokens - o.charge) 1 }

/-- The last work unit commits: the record is written, and the stream is done or ends with page-fault. -/
theorem exec_slotCommit_of_last {o : Op} (hu : s.goTo t = u) (hop : u.op? o.id = some o) (hkind : o.kind = 0x10) (hphase : o.phase = .running)
    (hopen : (StreamPos.ofOp o).opened ≠ 0) (hrun : u.h .halted o.q ≠ 1) (hdst : stDstKind o.raw = 0) {done : Nat}
    (hdone : u.unitEnd o ((StreamPos.ofOp o).opened - 1) = done) (hrow : done ≤ (StreamPos.ofOp o).row)
    (hdue : u.dataDue o.id (fun e => decide (e.unit < done)) = false) (hlast : stTotal o.raw ≤ done) {ok : Bool}
    (hrec : (u.setOp (committed o done)).writeRecord (recordLeft (committed o done)) = (v, ok)) :
    exec (.slotCommit o.id t) s = .next (if ok = true then v.updOp o.id (fun l => { l with
        estCycles := (committed o done).estCycles, estTokens := (committed o done).estTokens, phase := .ended, status := some stSuccess })
      else v.finish o.id stPageFault) := by
  show execSlotCommit o.id t s = _
  have hgo : ¬ (o.kind ≠ 0x10 ∨ o.phase ≠ .running ∨ (StreamPos.ofOp o).opened = 0 ∨ (StreamPos.ofOp o).row < done ∨ u.h .halted o.q = 1 ∨
      u.dataDue o.id (fun e => decide (e.unit < done)) = true) := by simp [hkind, hphase, hopen, hrow, hrun, hdue]
  have hend : ¬ (done < stTotal o.raw ∧ u.cycS ≤ u.pos) := fun h => Nat.not_le.2 h.1 hlast
  simp only [execSlotCommit, hu, hop, hdone, hdst, zero_ne_one, if_false, hlast, if_true]
  rw [if_neg hgo, if_neg hend]
  obtain ⟨rfl, rfl⟩ := Prod.ext_iff.1 hrec
  exact (apply_ite Host.Outcome.next ..).symm

end State
open State

/-- Settles O42: each command in the state of its premises; an issue's events leave the requests, the cycle and the notes of the issue as they are. -/
theorem streamsRun : Obligations.StreamsRun := by
  intro s t
  refine ⟨fun e c v hoffer hlast hquota => ?issue, fun e cs v hoffer hlast => ⟨_, exec_streamIssue_of_issued hoffer hlast, ?issued⟩,
    fun r => exec_portTier3Issue_of_one rfl, fun r o v hone hport hfault hdrop hgran hq hop hrun hkind hcopy => ?response,
    fun r => exec_streamResponse_of_gone rfl,
    fun o hop hkind hphase hopen hrun hbar hdst =>
      ⟨exec_slotOpen_of_segment rfl hop hkind hphase hopen hrun hbar hdst, exec_slotOpen_of_sweep rfl hop⟩,
    ?commit,
    fun o d => exec_directHostStore_of_one rfl⟩
  case issue =>
    have hsame := tagsNoted_sameIssue (v := v) (e := e) [c]
    obtain ⟨hreqs, hnext, hlast'⟩ := issueReq_adds (s := v.tagsNoted e [c]) (e := e) c
    rw [hsame.reqs] at hreqs
    rw [hsame.nextReq] at hnext
    rw [hsame.now] at hlast'
    exact ⟨_, _, exec_streamIssue_of_one hoffer hlast hquota, hreqs, hsame.nextReq, rfl, rfl, rfl, rfl, rfl, rfl, hnext, hlast'⟩
  case issued => exact (tagsNoted_sameIssue cs).reqs
  case response => rw [exec_streamResponse_of_running rfl hone hport hfault hdrop hq hop hrun, answered_of_copied hgran hkind hcopy]
  case commit =>
    intro o done o1 left hop hkind hphase hopen hrun hdst hrow hdue hlast
    exact ⟨fun v hrec => exec_slotCommit_of_last rfl hop hkind hphase hopen hrun hdst rfl hrow hdue hlast hrec,
      fun v hrec => exec_slotCommit_of_last rfl hop hkind hphase hopen hrun hdst rfl hrow hdue hlast hrec⟩

end Sys2Proof.Machine
end

section
/-! PROOFS. The fabric engines: operations, messages, header lines, acknowledgements and timers (R296, R302 to R306, R308). -/

namespace Sys2Proof.Machine
namespace State

variable {s u v : State} {t n : Nat} {o : Op}

/-! SEND, RECV and ALLREDUCE as they begin (R203, R209, R304). -/

theorem exec_fabric {c : Instr} (h : (c, n) ∈ [(Instr.send o.id t, 0), (.recv o.id t, 1), (.allreduce o.id t, 2)]) :
    exec c s = .next ((s.goTo t).feBegin o.id n) := by
  simp only [List.mem_cons, Prod.mk.injEq, List.not_mem_nil, or_false] at h
  rcases h with ⟨rfl, rfl⟩ | ⟨rfl, rfl⟩ | ⟨rfl, rfl⟩ <;> rfl

section
variable (hop : u.op? o.id = some o) (hkind : o.kind = 0x40) (hn : feOp o.raw = n) (hphase : o.phase = .placing) (hpos : u.pos < u.cycS)
  (hrun : u.h .halted o.q = 0)
include hop hkind hn hphase hpos hrun

/-- What an operation that may begin now does. -/
theorem feBegin_of_placing : u.feBegin o.id n =
    if u.waitBroken o = true then u.finish o.id stBarrierBroken
    else if u.barOpen o = false ∨ u.claimFull o = false then u
    else if u.armed o.q (feXfer o.raw) ≠ none then u.finish o.id stTransferBusy
    else if u.routeDown o.q (feRoute o.raw) = true then u.finish o.id stFabricTimeout
    else (u.setOp { o with phase := .running, startAt := u.now, claimOk := true, barOk := true }).feDone o.id := by
  simp [feBegin, hop, hkind, hn, hphase, hpos, hrun, Option.isSome_iff_ne_none]

theorem feBegin_of_broken (hw : u.waitBroken o = true) : u.feBegin o.id n = u.finish o.id stBarrierBroken := by
  rw [feBegin_of_placing hop hkind hn hphase hpos hrun, if_pos hw]

theorem feBegin_of_waiting (hw : u.waitBroken o = false) (hwait : u.barOpen o = false ∨ u.claimFull o = false) : u.feBegin o.id n = u := by
  rw [feBegin_of_placing hop hkind hn hphase hpos hrun, if_neg (by simp [hw]), if_pos hwait]

variable (hw : u.waitBroken o = false) (hbar : u.barOpen o = true) (hclaim : u.claimFull o = true)
include hw hbar hclaim

theorem feBegin_of_open : u.feBegin o.id n =
    if u.armed o.q (feXfer o.raw) ≠ none then u.finish o.id stTransferBusy
    else if u.routeDown o.q (feRoute o.raw) = true then u.finish o.id stFabricTimeout
    else (u.setOp { o with phase := .running, startAt := u.now, claimOk := true, barOk := true }).feDone o.id := by
  rw [feBegin_of_placing hop hkind hn hphase hpos hrun, if_neg (by simp [hw]), if_neg (by simp [hbar, hclaim])]

end

/-! MESSAGE_SEND (R296, R299, R305): an operation has a message left to send. -/

section
variable (hu : s.goTo t = u) (hop : u.op? o.id = some o) (hkind : o.kind = 0x40) (hphase : o.phase = .running) (hleft : o.rowRun < feCount o.raw)
  (hpos : u.pos < u.cycS) (hrun : u.h .halted o.q = 0)
include hu hop hkind hphase hleft hpos hrun

theorem exec_messageSend_of_blocked {code : Nat} (hwhy : u.feBlocked o.q (feRoute o.raw) o.id true = some code) :
    exec (.messageSend o.id t) s = .next (u.messageWait o.q (rtEngine (u.route o.q (feRoute o.raw))) (some code)) := by
  show execMessageSend o.id t s = _
  simp [execMessageSend, hu, hop, hkind, hphase, hleft, hpos, hrun, hwhy]

/-- A SEND reads its next bytes and sends them as a PUT. -/
theorem exec_messageSend_of_sent {s1 s2 : State} {p : List Byte} {bad : Bool} (hsend : feOp o.raw = 0)
    (hfree : u.feBlocked o.q (feRoute o.raw) o.id true = none)
    (hread : u.vread (feClient o.q (rtEngine (u.route o.q (feRoute o.raw))) o.tag (some o.id)) (feSrc o.raw + (0 + 4096 * o.rowRun))
      (min 4096 (feBytes o.raw - 4096 * o.rowRun)) = (s1, .ok (p, bad)))
    (hsent : s1.sendMsg o.q (feRoute o.raw) o.id true ⟨0, false, bad, 1, feXfer o.raw, 0 + 4096 * o.rowRun, p⟩ = (s2, true)) :
    exec (.messageSend o.id t) s = .next ((s2.feNote o.id 0 bad 0).updOp o.id (fun p => { p with rowRun := p.rowRun + 1 })) := by
  have hgo : ¬ (o.kind ≠ 0x40 ∨ o.phase ≠ .running ∨ feCount o.raw ≤ o.rowRun ∨ u.cycS ≤ u.pos ∨ u.h .halted o.q = 1) := by
    simp [hkind, hphase, hleft, hpos, hrun]
  show execMessageSend o.id t s = _
  simp only [execMessageSend, hu, hop, if_neg hgo, hsend, OfNat.zero_ne_ofNat, if_false, hfree, hread, hsent, if_true]

end

/-! HEADER_CHECK and MESSAGE_APPLY (R302, R308). -/

section
variable (hu : s.goTo t = u)
include hu

theorem exec_headerCheck_of_range {e q i l rid : Nat} (he : e < 2) (hq : q < u.nQ) (hi : i < 64) (hl : l < 64) :
    exec (.headerCheck e q i l rid t) s =
      .next (if u.cycD ≤ u.pos then { u with feHeld := u.feHeld ++ [⟨e, q, i, l, rid⟩] } else u.checkHeader e q i l rid) := by
  show execHeaderCheck e q i l rid t s = _
  simp only [execHeaderCheck, hu]
  rw [if_neg (by omega), apply_ite Host.Outcome.next]

theorem exec_messageApply_of_one {x : FeRx} (hone : u.feRx = [x]) (happ : x.applied = false) :
    exec (.messageApply x.q x.i x.l t) s = .next (if u.cycS ≤ u.pos ∨ u.h .halted x.q = 1 then u else u.applyMsg x) := by
  have hfind : u.feRx.find? (fun (y : FeRx) => y.q == x.q && y.i == x.i && y.l == x.l && !y.applied) = some x := by simp [hone, happ]
  show execMessageApply x.q x.i x.l t s = _
  simp only [execMessageApply, hu, hfind, apply_ite Host.Outcome.next]

/-! ACK_LINE_RECEIVE, ACK_TIMER and RESEND_TIMER (R303). -/

section
variable {q i : Nat} {s1 : State} {d : List Byte} {b : Bool} (hq : q < u.nQ) (hi : i < 64) (hrx : u.rd .FE_Q_CFG_RX_EN q = 1)
  (hread : u.vread (feClient q (rtEngine (u.route q i)) 0 none) (u.feWin q + feAckOff + 64 * i) 64 = (s1, .ok (d, b)))
include hq hi hrx hread

theorem exec_ackLineReceive_of_bad (hcrc : mhCrc (ofBytes d) ≠ crc32c (d.take 60)) : exec (.ackLineReceive q i t) s = .next s1 := by
  show execAckLineReceive q i t s = _
  simp [execAckLineReceive, hu, Nat.not_le.2 hq, Nat.not_le.2 hi, flag, hrx, hread, hcrc]

/-- With no message outstanding a good line frees nothing, and with MISSING clear nothing is sent again. -/
theorem exec_ackLineReceive_of_none (hver : mhVer (ofBytes d) = 2) (hcrc : mhCrc (ofBytes d) = crc32c (d.take 60))
    (hepoch : bitsOf (ofBytes d) 32 32 = s1.rd .FE_Q_ERR_EPOCH_ACT q) (hnone : s1.feTx = []) (hmiss : bitsOf (ofBytes d) 8 1 = 0) :
    exec (.ackLineReceive q i t) s = .next { s1.freeRecords [] with feTx := [] } := by
  have hleft : (s1.freeRecords []).feTx = [] := by simp [freeRecords, syncFe, hnone]
  show execAckLineReceive q i t s = _
  simp [execAckLineReceive, hu, Nat.not_le.2 hq, Nat.not_le.2 hi, flag, hrx, hread, hver, hcrc, hepoch, hnone, hmiss, hleft]

end

theorem exec_ackTimer_of_due {q i : Nat} (hon : u.h .feAckAt (64 * q + i) ≠ 0) (hdue : u.h .feAckAt (64 * q + i) + 1024 ≤ u.now + 1)
    (hpos : u.pos < u.cycD) : exec (.ackTimer q i t) s = .next (u.sendAck q i false) := by
  show execAckTimer q i t s = _
  simp only [execAckTimer, hu]
  exact if_neg (by omega)

theorem exec_resendTimer_of_due {x : FeTx} (hone : u.feTx = [x]) (hrecv : x.received = false) (hpos : u.pos < u.cycS)
    (hdue : x.sentAt + 1000 * u.rd .FE_CFG_RETX_US x.e ≤ u.now) :
    exec (.resendTimer x.q x.e x.recNo t) s =
      .next (if u.rd .FE_CFG_RETRY_MAX x.e ≤ x.resends then u.downRoute x.q x.route else u.resend x) := by
  have hfind : u.feTx.find? (fun (y : FeTx) => y.q == x.q && y.e == x.e && y.recNo == x.recNo) = some x := by simp [hone]
  have hgo : ¬ (x.received = true ∨ u.cycS ≤ u.pos ∨ u.now < x.sentAt + 1000 * u.rd .FE_CFG_RETX_US x.e) := by
    simp only [hrecv, Bool.false_eq_true, false_or]
    omega
  show execResendTimer x.q x.e x.recNo t s = _
  simp only [execResendTimer, hu, hfind, if_neg hgo, apply_ite Host.Outcome.next]

end

end State
open State

/-- Settles O51: the three operations by one lemma about how one begins, and each event of the engines in the state of its premises. That an
operation waits as it begins, and that it ends on a route that is DOWN, are the model's reading (log entries 93 and 63). -/
theorem fabricEnginesRun : Obligations.FabricEnginesRun := by
  intro s t
  refine ⟨fun o c n hc hop hkind hn hphase hpos hrun => ?starts, fun o hop hkind hphase hleft hpos hrun =>
      ⟨fun code => exec_messageSend_of_blocked rfl hop hkind hphase hleft hpos hrun,
        fun s1 p bad s2 => exec_messageSend_of_sent rfl hop hkind hphase hleft hpos hrun⟩,
    fun e q i l rid he hq hi hl => ?header, fun x hone happ => ?apply,
    fun q i s1 d b hq hi hrx hread => ⟨exec_ackLineReceive_of_bad rfl hq hi hrx hread, fun hver hcrc hepoch hnone hmiss =>
      ⟨_, exec_ackLineReceive_of_none rfl hq hi hrx hread hver hcrc hepoch hnone hmiss, rfl, rfl⟩⟩,
    fun q i => exec_ackTimer_of_due rfl, fun x hone hrecv hpos hdue => ?resend⟩
  case starts =>
    rw [exec_fabric hc]
    refine ⟨fun hw => ?broken, fun hw hwait => ?waits, fun hw hbar hclaim => ?opens⟩
    case broken => rw [feBegin_of_broken hop hkind hn hphase hpos hrun hw]
    case waits => rw [feBegin_of_waiting hop hkind hn hphase hpos hrun hw hwait]
    case opens =>
      rw [feBegin_of_open hop hkind hn hphase hpos hrun hw hbar hclaim]
      refine ⟨fun harmed => ?busy, fun hfree hdown => ?down, fun hfree hup => ?runs⟩
      case busy => rw [if_pos harmed]
      case down => rw [if_neg (not_not.2 hfree), if_pos hdown]
      case runs => rw [if_neg (not_not.2 hfree), if_neg (by simp [hup])]
  case header =>
    rw [exec_headerCheck_of_range rfl he hq hi hl]
    exact ⟨fun hpos => by rw [if_neg (Nat.not_le.2 hpos)], fun hpos => by rw [if_pos hpos]⟩
  case apply =>
    rw [exec_messageApply_of_one rfl hone happ]
    exact ⟨fun hpos hrun => by rw [if_neg (not_or.2 ⟨Nat.not_le.2 hpos, hrun⟩)], fun hpos => by rw [if_pos (.inl hpos)]⟩
  case resend =>
    rw [exec_resendTimer_of_due rfl hone hrecv hpos hdue]
    exact ⟨fun hmore => by rw [if_neg (Nat.not_le.2 hmore)], fun hmax => by rw [if_pos hmax]⟩

end Sys2Proof.Machine
end

section
/-! PROOFS. The bank windows: pushes, broadcasts, copies, CLEAR and burst boundaries (R219 to R221, R230, R231). -/

namespace Sys2Proof.Machine

/-! What a write to its window, or a boundary, makes of an engine (R220, R221, R230, R335). -/

namespace Engine

/-- Its queue takes a command. -/
def accepts (e : Engine) (line : Nat) : Engine := { e with queue := e.queue ++ [line], seqPushed := e.seqPushed + 1 }

/-- It discards a push. -/
def discards (e : Engine) : Engine := { e with discarded := min (e.discarded + 1) (2 ^ 32 - 1), overflow := true }

/-- It owes one copy more. -/
def owes (e : Engine) (off : Nat) (data : List Byte) : Engine := { e with copies := e.copies ++ [(off, data)] }

/-- Its running command ends later by the cycles that it yields. -/
def delayed (e : Engine) (yielded : Nat) : Engine := { e with run := e.run.map (fun r => (r.1, r.2 + yielded)) }

end Engine

namespace State

variable {s : State} {k p : Nat}

/-! An engine of a stack after a write of one. -/

@[simp] theorem engine_setEngine_same (e : Engine) : (s.setEngine k p e).engine k p = e := Tab.get_set_same ..

theorem engine_setEngine_other {j : Nat} (e : Engine) (h : j ≠ p) : (s.setEngine k p e).engine k j = s.engine k j :=
  Tab.get_set_other _ _ _ _ (by omega)

/-! What a write to a window does by who makes it (R219). -/

theorem windowDo_of_owner {w : WinWrite} {inside : Bool} (hk : k < s.nStacks) (hin : inside = true) (ho : s.bankOwner w.q k = true)
    (f : State → State) : s.windowDo w k inside f = f s := if_pos ⟨hk, hin, ho⟩

theorem windowDo_of_other {w : WinWrite} (ho : s.bankOwner w.q k = false) (inside : Bool) (f : State → State) :
    s.windowDo w k inside f = s.raiseFault ⟨w.q, w.init, w.tag, none⟩ w.va true 3 7 none := if_neg (by simp [ho])

/-! A push on one engine (R220, R335). -/

theorem pushEngine_of_room {line : Nat} (hroom : (s.engine k p).queue.length < 64) (hin : s.bankOut k p = false) :
    s.pushEngine k p line = s.setEngine k p ((s.engine k p).accepts line) := if_neg (by simp [hin, hroom])

theorem pushEngine_of_full {line : Nat} (hfull : 64 ≤ (s.engine k p).queue.length) :
    s.pushEngine k p line = s.setEngine k p (s.engine k p).discards := if_pos (.inl hfull)

/-! A broadcast: the engines of a stack in turn (R220, R221). -/

/-- The first `n` engines of a stack, each replaced by `f` of it. -/
def mapEngines (s : State) (k : Nat) (f : Engine → Engine) (n : Nat) : State :=
  (List.range n).foldl (fun (s : State) (p : Nat) => s.setEngine k p (f (s.engine k p))) s

theorem mapEngines_succ (f : Engine → Engine) (n : Nat) :
    s.mapEngines k f (n + 1) = (s.mapEngines k f n).setEngine k n (f ((s.mapEngines k f n).engine k n)) := by
  rw [mapEngines, List.range_succ, List.foldl_append]
  rfl

theorem bankOut_mapEngines (f : Engine → Engine) (n : Nat) : (s.mapEngines k f n).bankOut k p = s.bankOut k p :=
  foldl_keeps (g := fun u => u.bankOut k p) fun _ _ _ => rfl

theorem engine_mapEngines (f : Engine → Engine) (n : Nat) :
    (s.mapEngines k f n).engine k p = if p < n then f (s.engine k p) else s.engine k p := by
  induction n with
  | zero => rfl
  | succ n ih =>
    rw [mapEngines_succ]
    by_cases hp : p = n
    · subst hp
      rw [engine_setEngine_same, ih, if_neg (Nat.lt_irrefl p), if_pos (Nat.lt_succ_self p)]
    · rw [engine_setEngine_other _ hp, ih]
      exact if_congr (by omega) rfl rfl

theorem engine_mapEngines_of_lt {n : Nat} (f : Engine → Engine) (hp : p < n) : (s.mapEngines k f n).engine k p = f (s.engine k p) := by
  rw [engine_mapEngines, if_pos hp]

/-- Pushes on engines that all take them. -/
theorem foldl_pushEngine_of_room {line n : Nat} (h : ∀ j < n, (s.engine k j).queue.length < 64 ∧ s.bankOut k j = false) :
    (List.range n).foldl (fun (s : State) (p : Nat) => s.pushEngine k p line) s = s.mapEngines k (Engine.accepts · line) n := by
  induction n with
  | zero => rfl
  | succ n ih =>
    obtain ⟨hroom, hin⟩ := h n (Nat.lt_succ_self n)
    have hsame : (s.mapEngines k (Engine.accepts · line) n).engine k n = s.engine k n := by rw [engine_mapEngines, if_neg (Nat.lt_irrefl n)]
    rw [List.range_succ, List.foldl_append, ih fun j hj => h j (Nat.lt_succ_of_lt hj), mapEngines_succ]
    exact pushEngine_of_room (by rwa [hsame]) (by rwa [bankOut_mapEngines])

theorem pushAll_of_room {line : Nat} (h : ∀ j < 64, (s.engine k j).queue.length < 64 ∧ s.bankOut k j = false) :
    s.pushAll k line = s.mapEngines k (Engine.accepts · line) 64 := by
  have hnone : (List.range 64).any (fun p => decide ((s.engine k p).queue.length ≥ 64)) = false :=
    List.any_eq_false.2 fun j hj => by simpa using (h j (List.mem_range.1 hj)).1
  rw [pushAll, hnone, if_neg Bool.false_ne_true, foldl_pushEngine_of_room h]

theorem pushAll_of_full {line : Nat} (h : ∃ j < 64, 64 ≤ (s.engine k j).queue.length) : s.pushAll k line = s.mapEngines k Engine.discards 64 := by
  obtain ⟨j, hj, hfull⟩ := h
  exact if_pos (List.any_eq_true.2 ⟨j, List.mem_range.2 hj, decide_eq_true hfull⟩)

/-! The commands on a window, of its owner. -/

section
variable {w : WinWrite} (hk : k < s.nStacks) (ho : s.bankOwner w.q k = true)
include hk ho

theorem exec_commandPush_of_owner (hp : p < 64) (full : Bool) (line : Line) : exec (.commandPush w k p full line) s =
    .next (if full then s.pushEngine k p line.toNat else s.windowErr w.q (bankWinBase + 65536 * p)) :=
  congrArg Host.Outcome.next (windowDo_of_owner hk (decide_eq_true hp) ho _)

theorem exec_broadcastPush_of_owner (line : Line) : exec (.broadcastPush w k true line) s = .next (s.pushAll k line.toNat) :=
  congrArg Host.Outcome.next (windowDo_of_owner hk rfl ho _)

theorem exec_broadcastDataWrite_of_owner {off : Nat} {data : List Byte} (hin : off + data.length ≤ 0x400000) :
    exec (.broadcastDataWrite w k off data) s = .next (s.mapEngines k (Engine.owes · off data) 64) :=
  congrArg Host.Outcome.next (windowDo_of_owner hk (decide_eq_true hin) ho _)

theorem exec_engineClear_of_owner (hp : p < 64) : exec (.engineClear w k p true) s = .next (s.clearEngine k p) :=
  congrArg Host.Outcome.next (windowDo_of_owner hk (decide_eq_true hp) ho _)

end

/-- Any other quarter's command on a window is an OWNER fault (R219). -/
theorem exec_window_of_other {w : WinWrite} {full : Bool} {line : Line} {off : Nat} {data : List Byte} {c : Instr}
    (ho : s.bankOwner w.q k = false)
    (hc : c ∈ [Instr.commandPush w k p full line, .broadcastPush w k full line, .broadcastDataWrite w k off data, .engineClear w k p full]) :
    exec c s = .next (s.raiseFault ⟨w.q, w.init, w.tag, none⟩ w.va true 3 7 none) := by
  simp only [List.mem_cons, List.not_mem_nil, or_false] at hc
  rcases hc with rfl | rfl | rfl | rfl <;> exact congrArg Host.Outcome.next (windowDo_of_other ho _ _)

/-- Before S a copy waits for no command (R221, R233). -/
theorem exec_broadcastCopy_before_sweep (hact : s.rd .BANK_CFG_ACTIVE k = 1) (hpos : s.pos < s.cycS) :
    exec (.broadcastCopy k p) s = .next ((s.burstsDone k p).copyOnce k p) :=
  if_pos ⟨by simp [flag, hact], fun h => Nat.not_le.2 hpos h.1⟩

/-! BURST_BOUNDARY (R230, R231). -/

/-- The counts of a boundary: the cycles that ordinary requests waited, and those that engine `p` yields, of the bank owner `q`. -/
def boundaryCounted (v : State) (q k p hold yielded : Nat) : State :=
  ((v.bump .BANK_STAT_HOLD_CYCLES k hold).ev evBankHold q (64 * k + p) hold).ev evBankYield q (64 * k + p) yielded

theorem exec_burstBoundary_of_engine (hk : k < s.nStacks) (hp : p < 64) (hold yielded : Nat) : exec (.burstBoundary k p hold yielded) s =
    .next ((((s.burstsDone k p).boundaryCounted (s.rd .BANK_CFG_OWNER_ACT k) k p hold yielded).setEngine k p
      (((s.burstsDone k p).engine k p).delayed yielded)).serveBanks k p) :=
  if_neg (by omega)

/-- The counts are registers, events and their notes. -/
theorem boundaryCounted_counts (q hold yielded : Nat) :
    (s.bump .BANK_STAT_HOLD_CYCLES k hold).Counts (s.boundaryCounted q k p hold yielded) := (ev_counts ..).trans (ev_counts ..)

theorem bump_mem (f : Fld) (i n : Nat) : (s.bump f i n).mem = s.mem := by
  simp only [bump]
  split <;> rfl

theorem bump_memQ (f : Fld) (i n : Nat) : (s.bump f i n).memQ = s.memQ := by
  simp only [bump]
  split <;> rfl

theorem boundaryCounted_mem (q hold yielded : Nat) : (s.boundaryCounted q k p hold yielded).mem = s.mem := by
  rw [(boundaryCounted_counts ..).eq, bump_mem]

theorem boundaryCounted_memQ (q hold yielded : Nat) : (s.boundaryCounted q k p hold yielded).memQ = s.memQ := by
  rw [(boundaryCounted_counts ..).eq, bump_memQ]

theorem boundaryCounted_holdCycles (q hold yielded : Nat) : (s.boundaryCounted q k p hold yielded).rd .BANK_STAT_HOLD_CYCLES k =
    min (s.rd .BANK_STAT_HOLD_CYCLES k + hold) (2 ^ Fld.width .BANK_STAT_HOLD_CYCLES - 1) := by
  rw [(boundaryCounted_counts q hold yielded).regs .BANK_STAT_HOLD_CYCLES k nofun nofun, rd_bump_same]

end State
open State

/-- Settles O43: a push by the room of the queue or queues, a broadcast as one map over the stack's engines, and a boundary as counts, a delay and the
requests it serves. -/
theorem bankWindowsAccept : Obligations.BankWindowsAccept := by
  intro s w k p line hk hp
  refine ⟨fun ho => ⟨fun hroom hin => ⟨_, exec_commandPush_of_owner hk ho hp true line, ?push⟩,
      fun hfull => ⟨_, exec_commandPush_of_owner hk ho hp true line, ?full⟩, exec_commandPush_of_owner hk ho hp false line,
      fun hroom => ⟨_, exec_broadcastPush_of_owner hk ho line, fun j hj => ?pushAll⟩,
      fun hfull => ⟨_, exec_broadcastPush_of_owner hk ho line, fun j hj => ?fullAll⟩,
      fun off data hin => ⟨_, exec_broadcastDataWrite_of_owner hk ho hin, fun j hj => ?copies⟩,
      ⟨_, exec_engineClear_of_owner hk ho hp, ?clear⟩⟩,
    fun ho full off data c => exec_window_of_other ho, exec_broadcastCopy_before_sweep,
    fun hold yielded => ⟨_, exec_burstBoundary_of_engine hk hp hold yielded, boundaryCounted_mem .., boundaryCounted_memQ ..,
      boundaryCounted_holdCycles .., ?delay⟩⟩
  case push =>
    rw [if_pos rfl, pushEngine_of_room hroom hin, engine_setEngine_same]
    exact ⟨rfl, rfl, fun j hj _ => engine_setEngine_other _ hj⟩
  case full =>
    rw [if_pos rfl, pushEngine_of_full hfull, engine_setEngine_same]
    exact ⟨rfl, rfl, rfl⟩
  case pushAll =>
    rw [pushAll_of_room hroom, engine_mapEngines_of_lt _ hj]
    rfl
  case fullAll =>
    rw [pushAll_of_full hfull, engine_mapEngines_of_lt _ hj]
    exact ⟨rfl, rfl⟩
  case copies =>
    rw [engine_mapEngines_of_lt _ hj]
    exact ⟨rfl, rfl⟩
  case clear =>
    rw [clearEngine, engine_setEngine_same]
    exact ⟨rfl, rfl, rfl, rfl, rfl⟩
  case delay =>
    rw [engine_setEngine_same]
    exact ⟨rfl, rfl⟩

end Sys2Proof.Machine
end

section
/-! PROOFS. Commands of the bank engines: start, bursts and retirement (R222 to R227, R231, R233, R235). -/

namespace Sys2Proof.Machine

/-- What an engine shows of the retirement of its head command `d`. -/
structure Engine.Retired (e e' : Engine) (d : Nat) (rest : List Nat) (status : Nat) : Prop where
  queue : e'.queue = rest
  run : e'.run = none
  seqDone : e'.seqDone = e.seqDone + 1
  lastTag : e'.lastTag = bitsOf d 32 32
  lastStatus : e'.lastStatus = status

namespace State

variable {s u : State} {k p t d : Nat} {rest : List Nat}

theorem engine_congr (h : u.engines = s.engines) : u.engine k p = s.engine k p := by rw [engine, engine, h]

theorem mark_engines (f : Fld) (i : Nat) : (s.mark f i).engines = s.engines := by
  unfold mark
  split <;> rfl

/-! Retirement (R223). -/

/-- Of the engines, a retirement changes the one whose command it is: what follows its write is counts and flags. -/
theorem retireCmd_retires {status fl : Nat} (hqueue : (s.engine k p).queue = d :: rest) :
    (s.engine k p).Retired ((s.retireCmd k p status fl).engine k p) d rest status := by
  have hflags (v : State) (l : List (Nat × Fld)) (g q : Nat) :
      (l.foldl (fun (s : State) (x : Nat × Fld) => if bitsOf g x.1 1 = 1 then s.mark x.2 q else s) v).engines = v.engines :=
    foldl_keeps (g := State.engines) fun v x _ => by split <;> simp only [mark_engines]
  have hlast (v : State) : (if status = bkPoisoned then v.mark .BANK_STAT_POISONED k else v).engines = v.engines := by
    split <;> simp only [mark_engines]
  simp only [retireCmd, hqueue]
  rw [engine_congr ((hlast _).trans (hflags ..))]
  show Engine.Retired _ ((s.setEngine k p _).engine k p) ..
  rw [engine_setEngine_same]
  exact ⟨rfl, rfl, rfl, rfl, rfl⟩

/-! A running command performed up to a unit (R231, R232). -/

/-- What a command's units leave of the engine's registers, operands, units and flags. -/
def BankOut.performed (o : BankOut) (k p n : Nat) : State :=
  o.st.setEngine k p { o.st.engine k p with regs := o.regs, held := o.held, units := max n (o.st.engine k p).units, cmdFlags := o.flags }

/-- A command that is performed to its end retires with the status that its units leave. -/
theorem performCmd_to_end (n : Nat) : s.performCmd k p d n (some bkDone) = (s.runUnits k p d n).reads.foldl (fun s a => s.noteRead k a)
    (((s.runUnits k p d n).performed k p n).retireCmd k p (s.runUnits k p d n).status (s.runUnits k p d n).flags) := by
  by_cases hdone : (s.runUnits k p d n).status = bkDone
  · simp only [performCmd, BankOut.performed, hdone, ne_eq, not_true_eq_false, if_false]
  · simp only [performCmd, BankOut.performed, hdone, ne_eq, not_false_eq_true, if_true]

/-- Performing units writes memory; of the engine it leaves what a retirement counts on. -/
theorem engine_performed (n : Nat) : (((s.runUnits k p d n).performed k p n).engine k p).queue = (s.engine k p).queue ∧
    (((s.runUnits k p d n).performed k p n).engine k p).seqDone = (s.engine k p).seqDone := by
  have hsame : (s.runUnits k p d n).st.engine k p = s.engine k p := engine_congr (runUnits_engines ..)
  rw [BankOut.performed, engine_setEngine_same, hsame]
  exact ⟨rfl, rfl⟩

/-! The engine's next step on the command at the head of its queue (R222, R223, R233, R235). -/

section
variable {isOp : Nat → Bool} (hk : k < u.nStacks) (hp : p < 64) (hqueue : (u.engine k p).queue = d :: rest) (hop : isOp d = true)
include hk hp hqueue hop

theorem stepCmd_of_running {a b : Nat} (hrun : (u.engine k p).run = some (a, b)) :
    u.stepCmd k p isOp = if u.now < b then u.burstsDone k p else u.performCmd k p d (bkUnits d) (some bkDone) := by
  have hgo : ¬ ((!isOp d) = true ∨ k ≥ u.nStacks ∨ p ≥ 64) := by simp [hop, hk, hp]
  simp only [stepCmd, hqueue, if_neg hgo, hrun]

theorem stepCmd_of_starts (hidle : (u.engine k p).run = none) (hready : u.rd .BANK_CFG_READY k = 1) (hpos : u.pos < u.cycS)
    (hhalt : u.h .halted (u.rd .BANK_CFG_OWNER_ACT k) ≠ 1) (hcopies : (u.engine k p).copies = [])
    (htokens : u.bankMetered (u.rd .BANK_CFG_OWNER_ACT k) < u.h .bankCharge (u.rd .BANK_CFG_OWNER_ACT k) * 2 ^ 24)
    (hgood : bkBad d = false) (hlen : bkCycles d ≤ 8192) (hrange : ∀ r ∈ bkRanges d, bkOp d = 3 ∨ r.1 + r.2 ≤ u.eaLimit k) :
    u.stepCmd k p isOp = (u.setEngine k p { u.engine k p with run := some (u.now, u.now + bkCycles d) }).syncBusy k := by
  have hgo : ¬ ((!isOp d) = true ∨ k ≥ u.nStacks ∨ p ≥ 64) := by simp [hop, hk, hp]
  have hmay : ¬ ((!u.flag .BANK_CFG_READY k) = true ∨ u.cycS ≤ u.pos ∨ u.h .halted (u.rd .BANK_CFG_OWNER_ACT k) = 1 ∨
      (!(u.engine k p).copies.isEmpty) = true) := by simp [flag, hready, hpos, hhalt, hcopies]
  have hin : ¬ ((bkOp d = 1 ∨ bkOp d = 2) ∧ (bkRanges d).any (fun r => decide (u.eaLimit k < r.1 + r.2)) = true) := by
    rintro ⟨hranged, hout⟩
    obtain ⟨r, hr, hover⟩ := List.any_eq_true.1 hout
    have := hrange r hr
    have := of_decide_eq_true hover
    omega
  simp only [stepCmd, hqueue, if_neg hgo, hidle, if_neg hmay, if_neg (Nat.not_le.2 htokens), hgood, Bool.false_eq_true, if_false,
    if_neg (Nat.not_lt.2 hlen), if_neg hin]

end

theorem burstsDone_of_running {a b : Nat} (hqueue : (u.engine k p).queue = d :: rest) (hrun : (u.engine k p).run = some (a, b)) (hb : u.now < b) :
    u.burstsDone k p = u.performCmd k p d (bkDue d (bkCycles d - (b - u.now))) none := by
  simp only [burstsDone, hqueue, hrun, if_pos hb]

/-! The five commands (R222, R224 to R227). -/

theorem exec_bankCommand {c : Instr} (h : (c, bkOp d) ∈ [(Instr.bankNop k p t, 0), (.gemv k p t, 1), (.outer k p t, 2), (.rowadd k p t, 3)]) :
    ∃ isOp : Nat → Bool, isOp d = true ∧ exec c s = .next ((s.goTo t).stepCmd k p isOp) := by
  simp only [List.mem_cons, Prod.mk.injEq, List.not_mem_nil, or_false] at h
  rcases h with ⟨rfl, hop⟩ | ⟨rfl, hop⟩ | ⟨rfl, hop⟩ | ⟨rfl, hop⟩ <;> exact ⟨_, by simp [hop], rfl⟩

/-- An idle engine takes a SIGNAL as it takes the others. -/
theorem exec_signal_of_idle (hidle : ((s.goTo t).engine k p).run = none) :
    exec (.signal k p t) s = .next ((s.goTo t).stepCmd k p (fun d => bkOp d == 4)) := by
  show execSignal k p t s = _
  simp only [execSignal, hidle]
  split
  · next h => cases h
  · rfl

theorem exec_bankCommand_of_idle {c : Instr}
    (h : (c, bkOp d) ∈ [(Instr.bankNop k p t, 0), (.gemv k p t, 1), (.outer k p t, 2), (.rowadd k p t, 3), (.signal k p t, 4)])
    (hidle : ((s.goTo t).engine k p).run = none) : ∃ isOp : Nat → Bool, isOp d = true ∧ exec c s = .next ((s.goTo t).stepCmd k p isOp) := by
  have hparts : (c, bkOp d) ∈ [(Instr.bankNop k p t, 0), (.gemv k p t, 1), (.outer k p t, 2), (.rowadd k p t, 3)] ++ [(.signal k p t, 4)] := h
  rcases List.mem_append.1 hparts with hfour | hsignal
  · exact exec_bankCommand hfour
  · obtain ⟨rfl, hop⟩ := Prod.mk.inj (List.mem_singleton.1 hsignal)
    exact ⟨_, by simp [hop], exec_signal_of_idle hidle⟩

theorem exec_signal_of_running {a b : Nat} (hu : s.goTo t = u) (hqueue : (u.engine k p).queue = d :: rest) (hop : bkOp d = 4)
    (hrun : (u.engine k p).run = some (a, b)) : exec (.signal k p t) s = .next (u.signalCmd k p) := by
  show execSignal k p t s = _
  simp only [execSignal, hu, hqueue, hrun, hop, if_true]

/-- A SIGNAL that retires signals its barrier, and the engine counts anew from it whether its commands are DONE (R227). -/
theorem signalCmd_of_passed {a b : Nat} (hqueue : (u.engine k p).queue = d :: rest) (hrun : (u.engine k p).run = some (a, b)) (hb : b ≤ u.now) :
    u.signalCmd k p = (
      let s1 := (u.signalBar (u.rd .BANK_CFG_OWNER_ACT k) (bitsOf d 96 6) (if (u.engine k p).clean then 0 else 1)).retireCmd k p bkDone 0
      s1.setEngine k p { s1.engine k p with clean := true }) := by
  simp only [signalCmd, hqueue, hrun, if_neg (Nat.not_lt.2 hb)]

end State
open State

/-- Settles O44: every command by one lemma about the engine's next step, and a retirement by one about what it shows of its engine. How a command
divides into units is the model's reading (log entry 29). -/
theorem bankEnginesRun : Obligations.BankEnginesRun := by
  intro s k p t d rest u q hk hp hqueue
  refine ⟨fun c hc hidle hready hpos hhalt hcopies htokens hgood hlen hrange => ?starts,
    fun c a b hc hrun => ⟨fun hb => ?bursts, fun hb => ?retires⟩, fun a b hop hrun hb => ?signal⟩
  case starts =>
    obtain ⟨isOp, hop, hexec⟩ := exec_bankCommand_of_idle hc hidle
    rw [hexec, stepCmd_of_starts hk hp hqueue hop hidle hready hpos hhalt hcopies htokens hgood hlen hrange]
  case bursts =>
    obtain ⟨isOp, hop, hexec⟩ := exec_bankCommand hc
    rw [hexec, stepCmd_of_running hk hp hqueue hop hrun, if_pos hb, burstsDone_of_running hqueue hrun hb]
  case retires =>
    obtain ⟨isOp, hop, hexec⟩ := exec_bankCommand hc
    obtain ⟨hpend, hcount⟩ := engine_performed (s := u) (k := k) (p := p) (d := d) (bkUnits d)
    have hretired := retireCmd_retires (status := (u.runUnits k p d (bkUnits d)).status) (fl := (u.runUnits k p d (bkUnits d)).flags)
      (hpend.trans hqueue)
    refine ⟨_, ?_, hretired.queue, hretired.run, hretired.seqDone.trans (congrArg (· + 1) hcount), hretired.lastTag, hretired.lastStatus⟩
    rw [hexec, stepCmd_of_running hk hp hqueue hop hrun, if_neg (Nat.not_lt.2 hb), performCmd_to_end]
  case signal => rw [exec_signal_of_running rfl hqueue hop hrun, signalCmd_of_passed hqueue hrun hb]

end Sys2Proof.Machine
end

section
/-! PROOFS. The update units: the next shard, its commit and the retirement of its slot (R237, R242, R244, R246, R254, R256, R257). -/

namespace Sys2Proof.Machine
namespace State

variable {s u v s1 : State} {n t wait k r op : Nat} {o : Op}

/-! A write of journal bytes in the scratchpad, and what follows a commit, leave the operations (R128, R256). -/

theorem inert_ops : Inert State.ops :=
  ⟨fun s t u a b => by unfold setByte; split <;> rfl, fun s t u a v => by unfold setPoison; split <;> rfl, fun _ _ => rfl⟩

/-- The scratchpad has no line in the plaza, so that a write there is one of bytes, poison and key tags alone. -/
theorem lineWrite_scratch_fixes {α : Type} {f : State → α} (hf : Inert f) (c : Client) (pte unit a : Nat) (d : List Byte) (bad : Bool)
    (shadow : Option (Nat × Nat)) : f (s.lineWrite c pte 0 unit a d bad shadow) = f s := by
  have htouch (cls hint keep : Nat) (noalloc : Bool) : s.plazaTouch c.q 0 unit a cls hint keep noalloc true shadow = s := by
    simp [plazaTouch]
  simp only [lineWrite, htouch]
  repeat' split
  all_goals simp only [hf.pois, setBytes_fixes hf, hf.tags]

theorem writePiece_scratch (q a : Nat) (d : List Byte) (bad : Bool) (shadow : Option (Nat × Nat)) :
    s.writePiece (unitClient q 0 0 none) scratchLeaf a d bad shadow =
      s.lineWrite (unitClient q 0 0 none) scratchLeaf.pte 0 q (leafAddr scratchLeaf a) d bad shadow := by
  have htier : pteTier scratchLeaf.pte = 0 := rfl
  simp [writePiece, htier, unitClient]

theorem scratchWrite_fixes {α : Type} {f : State → α} (hf : Inert f) (q a : Nat) (d : List Byte) : f (s.scratchWrite q a d) = f s := by
  refine foldl_keeps (g := f) fun v i _ => ?_
  dsimp only
  split
  · rfl
  · rw [writePiece_scratch, lineWrite_scratch_fixes hf]

theorem syncUnit_ops (n : Nat) : (s.syncUnit n).ops = s.ops := by
  simp only [syncUnit]
  split <;> rfl

theorem op?_congr {id : Nat} (h : u.ops = s.ops) : u.op? id = s.op? id := by rw [op?, op?, h]

/-! The unit's step (R237, R242, R244, R246, R254). -/

/-- Before S a unit that is free goes on with the operation it runs. -/
structure MayStep (v : State) (n : Nat) (o : Op) : Prop where
  before : v.pos < v.cycS
  runs : v.unitRuns n = some o
  unstalled : v.isStalled o.id = false
  running : v.h .halted o.q ≠ 1
  free : v.h .uuFree n ≤ v.now

theorem MayStep.goesOn (hmay : v.MayStep n o) (hop : uuOp o.raw = op) :
    ¬ (uuOp o.raw ≠ op ∨ v.isStalled o.id = true ∨ v.h .halted o.q = 1 ∨ v.now < v.h .uuFree n) := by
  obtain ⟨-, -, hstall, hhalt, hfree⟩ := hmay
  simp [hop, hstall, hhalt, hfree]

section
variable (hmay : v.MayStep n o)
  (hread : (v.ev evUuInWait o.q n wait).readRec (unitClient o.q n o.tag (some o.id)) (uuRec o.raw) = (s1, .ok (r, false)))
include hmay hread

theorem unitStep_of_norm (hop : uuOp o.raw = 1) : v.unitStep n 1 wait = s1.normShard o r n := by
  simp only [unitStep, if_neg (Nat.not_le.2 hmay.before), hmay.runs, if_neg (hmay.goesOn hop), hread, Bool.false_eq_true, if_false, if_true]

/-- A pass that makes slots takes the next shard into a FREE one. -/
theorem unitStep_of_slot (hop : uuOp o.raw = op) (hnorm : op ≠ 1) (hpass : o.nBlock ≠ 1) (hleft : o.rowRun < trShards r)
    (hslot : s1.freeSlot n = some k) : v.unitStep n op wait =
      if op = 0 then (s1.journalWait n o.q false).accumShard o r n k else (s1.journalWait n o.q false).applyShard o r n k := by
  simp only [unitStep, if_neg (Nat.not_le.2 hmay.before), hmay.runs, if_neg (hmay.goesOn hop), hread, Bool.false_eq_true, if_false, if_neg hnorm, if_neg hpass,
    if_neg (Nat.not_le.2 hleft), hslot]

end

theorem unitStep_of_sweep (hpos : v.cycS ≤ v.pos) : v.unitStep n op wait = v := if_pos hpos

theorem unitStep_of_busy (hruns : v.unitRuns n = some o) (hbusy : v.now < v.h .uuFree n) : v.unitStep n op wait = v := by
  simp only [unitStep, hruns, hbusy, or_true, if_true, ite_self]

theorem unitStep_of_nothing (hruns : v.unitRuns n = none) (hhead : v.unitHead n = none) : v.unitStep n op wait = v := by
  simp only [unitStep, hruns, hhead, ite_self]

/-- From S on, while it is busy, or with nothing to run. -/
theorem unitStep_of_idle
    (h : v.cycS ≤ v.pos ∨ (∃ o, v.unitRuns n = some o ∧ v.now < v.h .uuFree n) ∨ (v.unitRuns n = none ∧ v.unitHead n = none)) (op wait : Nat) :
    v.unitStep n op wait = v := by
  rcases h with hpos | ⟨o, hruns, hbusy⟩ | ⟨hruns, hhead⟩
  · exact unitStep_of_sweep hpos
  · exact unitStep_of_busy hruns hbusy
  · exact unitStep_of_nothing hruns hhead

/-! SLOT_RETIRE and SHARD_COMMIT of a unit's only slot (R256, R257). -/

theorem exec_slotRetire_of_one {id sh : Nat} (hv : s.goTo t = v) (hpos : v.pos < v.cycD) (hone : v.uuSlots = [(n, k, id, sh)])
    (hst : v.slotState n k = 2) (hnone : v.stalls = []) : exec (.slotRetire n t) s = .next (v.retireSlot n k id).1 := by
  show execSlotRetire n t s = _
  simp [execSlotRetire, hv, hone, hst, hpos, retireStalled, hnone]

/-- The operation after the commit of the shard of `w`, its last one or not. -/
def shardCommitted (o : Op) (w : WorkUnit) (rest : List WorkUnit) (last : Bool) : Op :=
  { o with units := rest, flags := o.flags ||| w.flags, phase := if last then .ended else o.phase }

/-- What the commit of the shard of `w` writes beside its operation: the slot's header and state, and the quarter's flags and counts. -/
def slotCommitted (s : State) (o : Op) (w : WorkUnit) (n k : Nat) (header : List Byte) : State :=
  ((((s.scratchWrite o.q (s.slotBase o.q n k) header).setSlot n k 2 o.q).mergeFlags o.q w.flags).bump .UU_Q_NF_NF o.q w.kChunk).bump
    .UU_STAT_SHARDS n 1

theorem slotCommitted_ops (w : WorkUnit) (header : List Byte) : (s.slotCommitted o w n k header).ops = s.ops := by
  rw [slotCommitted, bump_ops, bump_ops, (mergeFlags_keepsChecks ..).ops, setSlot, wr_ops, wr_ops, scratchWrite_fixes inert_ops]

theorem exec_shardCommit_of_one {w : WorkUnit} {rest : List WorkUnit} {sh : Nat} {b : Bool} (hv : s.goTo t = v)
    (hone : v.uuSlots = [(n, k, o.id, sh)]) (hst : v.slotState n k = 1) (hop : v.op? o.id = some o) (hunits : o.units = w :: rest)
    (hdue : w.endAt ≤ v.now) (hread : v.readRec (unitClient o.q n o.tag (some o.id)) (uuRec o.raw) = (s1, .ok (r, b))) :
    ∃ header : List Byte, exec (.shardCommit n t) s =
      .next (((s1.slotCommitted o w n k header).setOp (shardCommitted o w rest (decide (trShards r ≤ sh)))).syncUnit n) := by
  have hfind : v.uuSlots.find? (fun e => e.1 == n && v.slotState n e.2.1 == 1) = some (n, k, o.id, sh) := by simp [hone, hst]
  show ∃ header : List Byte, execShardCommit n t s = _
  simp only [execShardCommit, hv, hfind, hop, hunits, if_neg (Nat.not_lt.2 hdue), hread]
  exact ⟨_, rfl⟩

theorem phase_shardCommitted (w : WorkUnit) (rest : List WorkUnit) (last : Bool) :
    (shardCommitted o w rest last).phase = .ended ↔ last = true ∨ o.phase = .ended := by
  cases last <;> simp [shardCommitted]

end State
open State

/-- Settles O45: the unit's next step by what it runs and whether it may go on, and a commit by the operation that it puts back. -/
theorem updateUnitsRun : Obligations.UpdateUnitsRun := by
  intro s u t wait v
  refine ⟨fun o s1 r hpos hruns hstall hhalt hpass hfree hread => ?shard, fun hidle => ?idle,
    fun k id sh w hpos hone hst hnone hretire => ?retire, fun k o w rest s1 r b hone hst hop hunits hdue hread hop1 => ?commit⟩
  case shard =>
    have hmay : v.MayStep u o := ⟨hpos, hruns, hstall, hhalt, hfree⟩
    exact ⟨fun hnorm => congrArg _ (unitStep_of_norm hmay hread hnorm), fun k hleft hslot =>
      ⟨fun haccum => congrArg _ (unitStep_of_slot hmay hread haccum (by decide) hpass hleft hslot),
        fun hupdate => congrArg _ (unitStep_of_slot hmay hread hupdate (by decide) hpass hleft hslot)⟩⟩
  case idle =>
    refine ⟨?_, ?_, ?_⟩ <;> exact congrArg _ (unitStep_of_idle hidle _ wait)
  case retire => rw [exec_slotRetire_of_one rfl hpos hone hst hnone, hretire]
  case commit =>
    obtain ⟨header, hexec⟩ := exec_shardCommit_of_one rfl hone hst hop hunits hdue hread
    have hthere : (s1.slotCommitted o w u k header).op? o.id = some o := (op?_congr (slotCommitted_ops w header)).trans hop1
    exact ⟨_, _, hexec, (op?_congr (syncUnit_ops u)).trans (op?_setOp hthere), rfl, rfl,
      (phase_shardCommitted w rest _).trans (by rw [decide_eq_true_iff])⟩

end Sys2Proof.Machine
end

section
/-! PROOFS. The interrupts of a quarter and its resident cores (R52, R283, R284, R292, R293, R295). -/

namespace Sys2Proof.Machine

namespace State

variable {s u v : State} {q c vec : Nat} {x : CoreAcc}

/-! Where the vectors of a quarter's VF go (R283, R284). -/

/-- What INT_ROUTE gives the interrupt controller of the cores: pending bit `vec`, or nothing. -/
def raiseCores (s : State) (q vec : Nat) : State :=
  if s.rd .PT_Q_CFG_INT_ROUTE q = 1 ∨ s.rd .PT_Q_CFG_INT_ROUTE q = 2 then s.setH .corePend q (s.h .corePend q ||| 2 ^ vec) else s

theorem raiseCores_outbox : (s.raiseCores q vec).outbox = s.outbox := by
  unfold raiseCores
  split <;> rfl

theorem raiseVf_of_cores_alone (h : s.rd .PT_Q_CFG_INT_ROUTE q = 1) : s.raiseVf q vec = s.raiseCores q vec := if_pos h

/-- The message, its pending bit and its holdoff move nothing of the interrupt controller. -/
theorem corePend_raiseVf : (s.raiseVf q vec).h .corePend q = (s.raiseCores q vec).h .corePend q := by
  have hpend (u : State) (i v : Nat) : (u.setH .msixPend i v).h .corePend q = u.h .corePend q := h_setH_name _ _ _ nofun
  have hhold (u : State) (i v : Nat) : (u.setH .holdUntil i v).h .corePend q = u.h .corePend q := h_setH_name _ _ _ nofun
  have hsend (u : State) (port : Nat) : (u.sendMsix port (q + 1) vec).h .corePend q = u.h .corePend q := h_sendMsix _ _ _ _ rfl
  simp only [raiseVf, ← raiseCores.eq_def]
  split
  · rfl
  · split
    · exact hpend ..
    · split
      · exact hsend ..
      · exact (hhold ..).trans (hsend ..)

theorem corePend_raiseCores_of_routed (h : s.rd .PT_Q_CFG_INT_ROUTE q = 1 ∨ s.rd .PT_Q_CFG_INT_ROUTE q = 2) :
    (s.raiseCores q vec).h .corePend q = s.h .corePend q ||| 2 ^ vec := by
  rw [raiseCores, if_pos h, h_setH_same]

theorem raiseCores_of_unrouted (h1 : s.rd .PT_Q_CFG_INT_ROUTE q ≠ 1) (h2 : s.rd .PT_Q_CFG_INT_ROUTE q ≠ 2) : s.raiseCores q vec = s :=
  if_neg (not_or.2 ⟨h1, h2⟩)

theorem bitsOf_or_two_pow (n l : Nat) : bitsOf (n ||| 2 ^ l) l 1 = 1 := by
  rw [bitsOf_one, Nat.testBit_or, Nat.testBit_two_pow_self, Bool.or_true, Bool.toNat_true]

/-! A core's access of the window of device memory (R52, R292, R295). -/

theorem coreAccess_of_reset (h : bitsOf (s.rd .CORE_CTRL_RUN x.q) x.c 1 = 0) : s.coreAccess x = s := if_pos (.inr (.inr h))

/-- A core out of reset reads through its uncached window. -/
structure UncachedRead (u : State) (x : CoreAcc) : Prop where
  quarter : x.q < u.nQ
  core : x.c < 3
  running : bitsOf (u.rd .CORE_CTRL_RUN x.q) x.c 1 = 1
  asked : x.len ≠ 0
  low : 2 ^ 36 ≤ x.pa
  high : x.pa < 2 ^ 37
  read : x.write = false

theorem UncachedRead.runs (h : u.UncachedRead x) : ¬ (u.nQ ≤ x.q ∨ 3 ≤ x.c ∨ bitsOf (u.rd .CORE_CTRL_RUN x.q) x.c 1 = 0) := by
  obtain ⟨hq, hc, hrun, -, -, -, -⟩ := h
  omega

theorem UncachedRead.held (h : u.UncachedRead x) (hpos : u.cycW 0 ≤ u.pos) : u.coreAccess x = { u with heldCores := u.heldCores ++ [x] } := by
  have hwindow : u.inWindow = true := decide_eq_true hpos
  simp only [coreAccess, if_neg h.runs, if_neg h.asked, h.high, hwindow, decide_true, Bool.true_or, Bool.and_true, if_true]

/-- What the core's read answers, by what the VF access of its quarter answers. -/
def coreReply : Except Nat (List Byte × Bool) → Reply
  | .ok (d, bad) => ⟨if bad then 3 else 0, d⟩
  | .error _ => ⟨5, []⟩

/-- Before the boundary window the read is a VF access of the quarter at the address that the window gives. -/
theorem UncachedRead.served (h : u.UncachedRead x) (hpos : u.pos < u.cycW 0) {r : Except Nat (List Byte × Bool)}
    (hread : u.vread (coreClient x.q x.c) (u.bar2VA x.q (x.pa - 2 ^ 36)) x.len = (v, r)) :
    u.coreAccess x = { v with reply := coreReply r } := by
  have hwindow : u.inWindow = false := decide_eq_false (Nat.not_le.2 hpos)
  simp only [coreAccess, if_neg h.runs, if_neg h.asked, h.high, hwindow, if_neg (Nat.not_lt.2 h.low), h.read, hread, decide_true, Bool.and_false,
    Bool.false_eq_true, if_false, if_true]
  match r with
  | .ok (d, bad) => rfl
  | .error e => rfl

/-! The maintenance port, and the CP's writes of RUN (R293, R295). -/

theorem exec_maintenanceAction_of_quarter (h : q < s.nQ) (action : Nat) : exec (.maintenanceAction q action) s = .next (s.maintain q action) :=
  if_pos h

theorem exec_coreRelease_of_core (a : Agent) (hq : q < s.nQ) (hc : c < 3) : exec (.coreRelease a q c) s =
    .next (s.busWrite a (0x130000 + 0x100 * q) (2 ^ 61 * (s.rd .CORE_CTRL_RUN q ||| 2 ^ c) + 2 ^ 2 * s.rd .CORE_CTRL_BOOT q)) :=
  if_pos ⟨hq, hc⟩

theorem exec_coreHold_of_core (a : Agent) (hq : q < s.nQ) (hc : c < 3) : exec (.coreHold a q c) s =
    .next (s.busWrite a (0x130000 + 0x100 * q)
      (2 ^ 61 * (s.rd .CORE_CTRL_RUN q - (s.rd .CORE_CTRL_RUN q &&& 2 ^ c)) + 2 ^ 2 * s.rd .CORE_CTRL_BOOT q)) :=
  if_pos ⟨hq, hc⟩

end State
open State

/-- Settles O47: the cores' part of a raised vector by INT_ROUTE, which the host's part does not touch. -/
theorem interruptsReachCoresAndHost : Obligations.InterruptsReachCoresAndHost := by
  intro s q vec _ _
  refine ⟨fun hroute => ?routed, fun h1 h2 => ?unrouted, fun h1 => ?silent⟩
  case routed => rw [corePend_raiseVf, corePend_raiseCores_of_routed hroute, bitsOf_or_two_pow]
  case unrouted => rw [corePend_raiseVf, raiseCores_of_unrouted h1 h2]
  case silent => rw [raiseVf_of_cores_alone h1, raiseCores_outbox]

/-- Settles O50: the uncached read by the cycle it falls on and by what the translation answers; the other clauses are the commands' own
effects in a quarter of the module. -/
theorem residentCoresRun : Obligations.ResidentCoresRun := by
  intro s
  refine ⟨?uncached, fun x t hreset => ?reset, ?maintenance, fun a q c hq hc => ⟨exec_coreRelease_of_core a hq hc, exec_coreHold_of_core a hq hc⟩⟩
  case uncached =>
    intro x t u hq hc hrun hlen hlow hhigh hread
    have hx : u.UncachedRead x := ⟨hq, hc, hrun, hlen, hlow, hhigh, hread⟩
    exact ⟨fun hpos => ⟨fun v d bad hok => congrArg _ (hx.served hpos hok), fun v e herr => congrArg _ (hx.served hpos herr)⟩,
      fun hpos => congrArg _ (hx.held hpos)⟩
  case reset => exact congrArg _ (coreAccess_of_reset hreset)
  case maintenance =>
    intro q hq
    exact ⟨exec_maintenanceAction_of_quarter hq 1, exec_maintenanceAction_of_quarter hq 2, exec_maintenanceAction_of_quarter hq 3⟩

end Sys2Proof.Machine
end

section
/-! PROOFS. What every command keeps, leaves and answers, by a table of the commands over their own lemmas. -/

namespace Sys2Proof.Machine

/-- Every command, by what its own lemma says, keeps the queue, the module and a sound state. -/
theorem exec_keeps (c : Instr) {s : State} : s.KeepsNext (exec c s) := by
  cases c with
  | turnStart => exact execTurnStart_keeps .. | turnMark => exact execTurnMark_keeps .. | admissionDecision => exact execAdmissionDecision_keeps ..
  | blankAllocation => exact execBlankAllocation_keeps .. | allocatorRetry => exact execAllocatorRetry_keeps ..
  | operationStart => exact execOperationStart_keeps .. | preloadComplete => exact execPreloadComplete_keeps ..
  | workUnitStart => exact execWorkUnitStart_keeps .. | witnessVerdict => exact execWitnessVerdict_keeps ..
  | tileSelfTest => exact execTileSelfTest_keeps .. | sweepStart => exact execSweepStart_keeps .. | park => exact execPark_keeps ..
  | parkDeadline => exact execParkDeadline_keeps .. | drainDeadline => exact execDrainDeadline_keeps ..
  | balanceCheck => exact execBalanceCheck_keeps .. | stagedConfigurationApply => exact execStagedConfigurationApply_keeps ..
  | keyApply => exact execKeyApply_keeps .. | tokenBudgetLoad => exact execTokenBudgetLoad_keeps ..
  | resumeQueueRebuild => exact execResumeQueueRebuild_keeps .. | operationComplete => exact execOperationComplete_keeps ..
  | translationWalk => exact execTranslationWalk_keeps .. | plazaAccess => exact execPlazaAccess_keeps ..
  | rehomeScanComplete => exact execRehomeScanComplete_keeps .. | unitZeroed => exact execUnitZeroed_keeps ..
  | stripCleared => exact execStripCleared_keeps .. | movePage => exact execMovePage_keeps .. | lateRead => exact execLateRead_keeps ..
  | memoryRequest => exact execMemoryRequest_keeps .. | readComplete => exact execReadComplete_keeps ..
  | bankRefresh => exact execBankRefresh_keeps .. | scrub => exact execScrub_keeps .. | laneFailure => exact execLaneFailure_keeps ..
  | laneRemap => exact execLaneRemap_keeps .. | spareTrained => exact execSpareTrained_keeps .. | stkRetire => exact execStkRetire_keeps ..
  | lostScanComplete => exact execLostScanComplete_keeps .. | retirementCopyComplete => exact execRetirementCopyComplete_keeps ..
  | repairApply => exact execRepairApply_keeps .. | badFrameWrite => exact execBadFrameWrite_keeps .. | withdraw => exact execWithdraw_keeps ..
  | cartridgeSafe => exact execCartridgeSafe_keeps .. | bringIntoService => exact execBringIntoService_keeps ..
  | cartridgeInService => exact execCartridgeInService_keeps .. | latchOpen => exact execLatchOpen_keeps ..
  | latchClose => exact execLatchClose_keeps .. | presenceContactOpen => exact execPresenceContactOpen_keeps ..
  | packedWrite => exact execPackedWrite_keeps .. | poolRecheck => exact execPoolRecheck_keeps .. | busyRecheck => exact execBusyRecheck_keeps ..
  | expanderDecode => exact execExpanderDecode_keeps .. | streamIssue => exact execStreamIssue_keeps ..
  | portTier3Issue => exact execPortTier3Issue_keeps .. | streamResponse => exact execStreamResponse_keeps ..
  | slotOpen => exact execSlotOpen_keeps .. | slotCommit => exact execSlotCommit_keeps .. | directHostStore => exact execDirectHostStore_keeps ..
  | bankReady => exact execBankReady_keeps .. | commandPush => exact execCommandPush_keeps .. | broadcastPush => exact execBroadcastPush_keeps ..
  | broadcastDataWrite => exact execBroadcastDataWrite_keeps .. | broadcastCopy => exact execBroadcastCopy_keeps ..
  | engineClear => exact execEngineClear_keeps .. | bankNop => exact execBankNop_keeps .. | gemv => exact execGemv_keeps ..
  | outer => exact execOuter_keeps .. | rowadd => exact execRowadd_keeps .. | signal => exact execSignal_keeps ..
  | burstBoundary => exact execBurstBoundary_keeps .. | accum => exact execAccum_keeps .. | norm => exact execNorm_keeps ..
  | update => exact execUpdate_keeps .. | shardCommit => exact execShardCommit_keeps .. | slotRetire => exact execSlotRetire_keeps ..
  | inboundRequest => exact execInboundRequest_keeps .. | bar2ReadTimeout => exact execBar2ReadTimeout_keeps ..
  | configRequest => exact execConfigRequest_keeps .. | hostSnoop addr => exact execHostSnoop_keeps addr | hostAck => exact execHostAck_keeps ..
  | hostRequestTimeout => exact execHostRequestTimeout_keeps .. | holdoffExpiry => exact execHoldoffExpiry_keeps ..
  | flitCrcFail => exact execFlitCrcFail_keeps .. | flitNak => exact execFlitNak_keeps .. | replayTimeout => exact execReplayTimeout_keeps ..
  | portLaneFailure => exact execPortLaneFailure_keeps .. | linkDown => exact execLinkDown_keeps .. | linkUp => exact execLinkUp_keeps ..
  | portReset => exact execPortReset_keeps .. | functionLevelReset => exact execFunctionLevelReset_keeps ..
  | ideIntegrityFail => exact execIdeIntegrityFail_keeps .. | portAdaptationRefresh => exact execPortAdaptationRefresh_keeps ..
  | coreDeviceAccess => exact execCoreDeviceAccess_keeps .. | maintenanceAction => exact execMaintenanceAction_keeps ..
  | coreRelease => exact execCoreRelease_keeps .. | coreHold => exact execCoreHold_keeps .. | messageSend => exact execMessageSend_keeps ..
  | headerCheck => exact execHeaderCheck_keeps .. | messageApply => exact execMessageApply_keeps ..
  | ackLineReceive => exact execAckLineReceive_keeps .. | ackTimer => exact execAckTimer_keeps .. | resendTimer => exact execResendTimer_keeps ..
  | send => exact execSend_keeps .. | recv => exact execRecv_keeps .. | allreduce => exact execAllreduce_keeps ..
  | sqDoorbell => exact execSqDoorbell_keeps .. | cqDoorbell => exact execCqDoorbell_keeps .. | ringConfig => exact execRingConfig_keeps ..
  | urgentGo => exact execUrgentGo_keeps .. | sqEntryCopy => exact execSqEntryCopy_keeps .. | mcRingRequest => exact execMcRingRequest_keeps ..
  | nop => exact execNop_keeps .. | version => exact execVersion_keeps .. | submit => exact execSubmit_keeps .. | plan => exact execPlan_keeps ..
  | invalidate => exact execInvalidate_keeps .. | abortFault => exact execAbortFault_keeps .. | fqHead => exact execFqHead_keeps ..
  | mmuCfg => exact execMmuCfg_keeps .. | place => exact execPlace_keeps .. | releaseKeep => exact execReleaseKeep_keeps ..
  | unit => exact execUnit_keeps .. | hostWin => exact execHostWin_keeps .. | swap => exact execSwap_keeps ..
  | advance => exact execAdvance_keeps .. | barrier => exact execBarrier_keeps .. | bufCfg => exact execBufCfg_keeps ..
  | cbLoad => exact execCbLoad_keeps .. | cbUnload => exact execCbUnload_keeps .. | verdict => exact execVerdict_keeps ..
  | setScale => exact execSetScale_keeps .. | setStep => exact execSetStep_keeps .. | journal => exact execJournal_keeps ..
  | hist => exact execHist_keeps .. | config => exact execConfig_keeps .. | halt => exact execHalt_keeps .. | release => exact execRelease_keeps ..
  | cores => exact execCores_keeps .. | pfWin => exact execPfWin_keeps .. | bank => exact execBank_keeps .. | fence => exact execFence_keeps ..
  | unfence => exact execUnfence_keeps .. | route => exact execRoute_keeps .. | fabricCfg => exact execFabricCfg_keeps ..
  | modId => exact execModId_keeps .. | link => exact execLink_keeps .. | fwLoad => exact execFwLoad_keeps ..
  | fwSelect => exact execFwSelect_keeps .. | manifest => exact execManifest_keeps .. | override => exact execOverride_keeps ..
  | repair => exact execRepair_keeps .. | snapRead => exact execSnapRead_keeps .. | errLogRead => exact execErrLogRead_keeps ..
  | scan => exact execScan_keeps .. | keyNew => exact execKeyNew_keeps .. | keyErase => exact execKeyErase_keeps ..
  | debugNonce => exact execDebugNonce_keeps .. | debugUnlock => exact execDebugUnlock_keeps .. | svnCommit => exact execSvnCommit_keeps ..
  | keyRevoke => exact execKeyRevoke_keeps .. | powerCap => exact execPowerCap_keeps .. | powerRead => exact execPowerRead_keeps ..
  | thermCfg => exact execThermCfg_keeps .. | lockstepMismatch => exact execLockstepMismatch_keeps ..
  | cpPairRetest => exact execCpPairRetest_keeps .. | mcWatchdog => exact execMcWatchdog_keeps .. | unitSelfTest => exact execUnitSelfTest_keeps ..
  | receiverAdaptationRefresh => exact execReceiverAdaptationRefresh_keeps .. | resCtrlMod => exact execResCtrlMod_keeps ..
  | modRstN => exact execModRstN_keeps .. | quiesceEnd => exact execQuiesceEnd_keeps .. | snapNow => exact execSnapNow_keeps ..
  | snapshotLatch => exact execSnapshotLatch_keeps .. | shiftOutComplete => exact execShiftOutComplete_keeps ..
  | pmcSelect => exact execPmcSelect_keeps .. | bwWindowEnd => exact execBwWindowEnd_keeps .. | bwWindowConfig => exact execBwWindowConfig_keeps ..
  | ghClear => exact execGhClear_keeps .. | registerReadClear => exact execRegisterReadClear_keeps ..
  | registerWrite => exact execRegisterWrite_keeps .. | spdmRequest => exact execSpdmRequest_keeps .. | extest => exact execExtest_keeps ..
  | samplePreload => exact execSamplePreload_keeps .. | idcode => exact execIdcode_keeps .. | clamp => exact execClamp_keeps ..
  | highz => exact execHighz_keeps .. | dbgState => exact execDbgState_keeps .. | unlockNonce => exact execUnlockNonce_keeps ..
  | unlockLoad => exact execUnlockLoad_keeps .. | debugErasure => exact execDebugErasure_keeps .. | regAccess => exact execRegAccess_keeps ..
  | memAccess => exact execMemAccess_keeps .. | mcDebug => exact execMcDebug_keeps .. | cpDebug => exact execCpDebug_keeps ..
  | bypass => exact execBypass_keeps .. | powerOnReset => exact execPowerOnReset_keeps .. | powerUp => exact execPowerUp_keeps ..
  | inputUndervoltage => exact execInputUndervoltage_keeps .. | pwrWarn => exact execPwrWarn_keeps ..
  | auxSupplyLoss => exact execAuxSupplyLoss_keeps .. | thermalTrip => exact execThermalTrip_keeps .. | flowTrip => exact execFlowTrip_keeps ..
  | powerDownPortIdle => exact execPowerDownPortIdle_keeps .. | powerDownOff => exact execPowerDownOff_keeps ..
  | repower => exact execRepower_keeps .. | modRstNRelease => exact execModRstNRelease_keeps .. | perstNRelease => exact execPerstNRelease_keeps ..
  | linkTrainingTimeout => exact execLinkTrainingTimeout_keeps .. | recoveryExit => exact execRecoveryExit_keeps ..
  | pldmFirmwareUpdate => exact execPldmFirmwareUpdate_keeps .. | timerCompare => exact execTimerCompare_keeps ..

/-- The commands of `Instr.timeless`, each by its own lemma. -/
theorem exec_still (c : Instr) {s : State} (h : c.timeless = true) : s.StillNext (exec c s) := by
  cases c with
  | translationWalk => exact execTranslationWalk_still .. | plazaAccess => exact execPlazaAccess_still ..
  | rehomeScanComplete => exact execRehomeScanComplete_still .. | unitZeroed => exact execUnitZeroed_still ..
  | stripCleared => exact execStripCleared_still .. | memoryRequest => exact execMemoryRequest_still ..
  | readComplete => exact execReadComplete_still .. | bankRefresh => exact execBankRefresh_still .. | scrub => exact execScrub_still ..
  | laneFailure => exact execLaneFailure_still .. | stkRetire => exact execStkRetire_still ..
  | lostScanComplete => exact execLostScanComplete_still .. | retirementCopyComplete => exact execRetirementCopyComplete_still ..
  | badFrameWrite => exact execBadFrameWrite_still .. | withdraw => exact execWithdraw_still .. | cartridgeSafe => exact execCartridgeSafe_still ..
  | bringIntoService => exact execBringIntoService_still .. | cartridgeInService => exact execCartridgeInService_still ..
  | latchOpen => exact execLatchOpen_still .. | latchClose => exact execLatchClose_still ..
  | presenceContactOpen => exact execPresenceContactOpen_still .. | packedWrite => exact execPackedWrite_still ..
  | poolRecheck => exact execPoolRecheck_still .. | busyRecheck => exact execBusyRecheck_still ..
  | expanderDecode => exact execExpanderDecode_still .. | bankReady => exact execBankReady_still .. | commandPush => exact execCommandPush_still ..
  | broadcastPush => exact execBroadcastPush_still .. | broadcastDataWrite => exact execBroadcastDataWrite_still ..
  | broadcastCopy => exact execBroadcastCopy_still .. | engineClear => exact execEngineClear_still ..
  | burstBoundary => exact execBurstBoundary_still .. | bar2ReadTimeout => exact execBar2ReadTimeout_still ..
  | configRequest => exact execConfigRequest_still .. | hostSnoop addr => exact execHostSnoop_still addr | hostAck => exact execHostAck_still ..
  | hostRequestTimeout => exact execHostRequestTimeout_still .. | flitCrcFail => exact execFlitCrcFail_still ..
  | flitNak => exact execFlitNak_still .. | replayTimeout => exact execReplayTimeout_still ..
  | portLaneFailure => exact execPortLaneFailure_still .. | linkDown => exact execLinkDown_still .. | linkUp => exact execLinkUp_still ..
  | portReset => exact execPortReset_still .. | functionLevelReset => exact execFunctionLevelReset_still ..
  | ideIntegrityFail => exact execIdeIntegrityFail_still .. | maintenanceAction => exact execMaintenanceAction_still ..
  | coreRelease => exact execCoreRelease_still .. | coreHold => exact execCoreHold_still .. | sqDoorbell => exact execSqDoorbell_still ..
  | cqDoorbell => exact execCqDoorbell_still .. | ringConfig => exact execRingConfig_still .. | urgentGo => exact execUrgentGo_still ..
  | mcRingRequest => exact execMcRingRequest_still .. | nop => exact execNop_still .. | version => exact execVersion_still ..
  | submit => exact execSubmit_still .. | plan => exact execPlan_still .. | invalidate => exact execInvalidate_still ..
  | abortFault => exact execAbortFault_still .. | fqHead => exact execFqHead_still .. | mmuCfg => exact execMmuCfg_still ..
  | place => exact execPlace_still .. | releaseKeep => exact execReleaseKeep_still .. | unit => exact execUnit_still ..
  | hostWin => exact execHostWin_still .. | swap => exact execSwap_still .. | advance => exact execAdvance_still ..
  | barrier => exact execBarrier_still .. | bufCfg => exact execBufCfg_still .. | cbLoad => exact execCbLoad_still ..
  | cbUnload => exact execCbUnload_still .. | verdict => exact execVerdict_still .. | setScale => exact execSetScale_still ..
  | setStep => exact execSetStep_still .. | journal => exact execJournal_still .. | hist => exact execHist_still ..
  | config => exact execConfig_still .. | halt => exact execHalt_still .. | release => exact execRelease_still ..
  | cores => exact execCores_still .. | pfWin => exact execPfWin_still .. | bank => exact execBank_still .. | fence => exact execFence_still ..
  | unfence => exact execUnfence_still .. | route => exact execRoute_still .. | fabricCfg => exact execFabricCfg_still ..
  | modId => exact execModId_still .. | link => exact execLink_still .. | fwLoad => exact execFwLoad_still ..
  | fwSelect => exact execFwSelect_still .. | manifest => exact execManifest_still .. | override => exact execOverride_still ..
  | repair => exact execRepair_still .. | snapRead => exact execSnapRead_still .. | errLogRead => exact execErrLogRead_still ..
  | scan => exact execScan_still .. | keyNew => exact execKeyNew_still .. | keyErase => exact execKeyErase_still ..
  | debugNonce => exact execDebugNonce_still .. | debugUnlock => exact execDebugUnlock_still .. | svnCommit => exact execSvnCommit_still ..
  | keyRevoke => exact execKeyRevoke_still .. | powerCap => exact execPowerCap_still .. | powerRead => exact execPowerRead_still ..
  | thermCfg => exact execThermCfg_still .. | lockstepMismatch => exact execLockstepMismatch_still ..
  | cpPairRetest => exact execCpPairRetest_still .. | mcWatchdog => exact execMcWatchdog_still .. | resCtrlMod => exact execResCtrlMod_still ..
  | modRstN => exact execModRstN_still .. | snapNow => exact execSnapNow_still .. | shiftOutComplete => exact execShiftOutComplete_still ..
  | pmcSelect => exact execPmcSelect_still .. | bwWindowEnd => exact execBwWindowEnd_still .. | bwWindowConfig => exact execBwWindowConfig_still ..
  | ghClear => exact execGhClear_still .. | registerReadClear => exact execRegisterReadClear_still ..
  | registerWrite => exact execRegisterWrite_still .. | spdmRequest => exact execSpdmRequest_still .. | extest => exact execExtest_still ..
  | samplePreload => exact execSamplePreload_still .. | idcode => exact execIdcode_still .. | clamp => exact execClamp_still ..
  | highz => exact execHighz_still .. | dbgState => exact execDbgState_still .. | unlockNonce => exact execUnlockNonce_still ..
  | unlockLoad => exact execUnlockLoad_still .. | regAccess => exact execRegAccess_still .. | memAccess => exact execMemAccess_still ..
  | mcDebug => exact execMcDebug_still .. | cpDebug => exact execCpDebug_still .. | bypass => exact execBypass_still ..
  | powerUp => exact execPowerUp_still .. | inputUndervoltage => exact execInputUndervoltage_still .. | pwrWarn => exact execPwrWarn_still ..
  | auxSupplyLoss => exact execAuxSupplyLoss_still .. | thermalTrip => exact execThermalTrip_still .. | flowTrip => exact execFlowTrip_still ..
  | powerDownPortIdle => exact execPowerDownPortIdle_still .. | repower => exact execRepower_still ..
  | perstNRelease => exact execPerstNRelease_still .. | linkTrainingTimeout => exact execLinkTrainingTimeout_still ..
  | recoveryExit => exact execRecoveryExit_still .. | pldmFirmwareUpdate => exact execPldmFirmwareUpdate_still ..
  | _ => cases h

/-- The commands of `Instr.dry`, each by its own lemma. -/
theorem exec_dry (c : Instr) {s : State} (h : c.dry = true) : s.DryNext (exec c s) := by
  cases c with
  | operationStart => exact execOperationStart_dry .. | memoryRequest => exact execMemoryRequest_dry ..
  | bankRefresh => exact execBankRefresh_dry .. | laneFailure => exact execLaneFailure_dry .. | laneRemap => exact execLaneRemap_dry ..
  | spareTrained => exact execSpareTrained_dry .. | retirementCopyComplete => exact execRetirementCopyComplete_dry ..
  | repairApply => exact execRepairApply_dry .. | cartridgeSafe => exact execCartridgeSafe_dry .. | latchOpen => exact execLatchOpen_dry ..
  | latchClose => exact execLatchClose_dry .. | presenceContactOpen => exact execPresenceContactOpen_dry ..
  | bar2ReadTimeout => exact execBar2ReadTimeout_dry .. | configRequest => exact execConfigRequest_dry ..
  | hostSnoop addr => exact execHostSnoop_dry addr | holdoffExpiry => exact execHoldoffExpiry_dry .. | flitNak => exact execFlitNak_dry ..
  | replayTimeout => exact execReplayTimeout_dry .. | functionLevelReset => exact execFunctionLevelReset_dry ..
  | ideIntegrityFail => exact execIdeIntegrityFail_dry .. | portAdaptationRefresh => exact execPortAdaptationRefresh_dry ..
  | sqDoorbell => exact execSqDoorbell_dry .. | lockstepMismatch => exact execLockstepMismatch_dry ..
  | cpPairRetest => exact execCpPairRetest_dry .. | mcWatchdog => exact execMcWatchdog_dry .. | unitSelfTest => exact execUnitSelfTest_dry ..
  | receiverAdaptationRefresh => exact execReceiverAdaptationRefresh_dry .. | modRstN => exact execModRstN_dry ..
  | shiftOutComplete => exact execShiftOutComplete_dry .. | bwWindowEnd => exact execBwWindowEnd_dry ..
  | registerReadClear => exact execRegisterReadClear_dry .. | spdmRequest => exact execSpdmRequest_dry .. | extest => exact execExtest_dry ..
  | samplePreload => exact execSamplePreload_dry .. | idcode => exact execIdcode_dry .. | clamp => exact execClamp_dry ..
  | highz => exact execHighz_dry .. | dbgState => exact execDbgState_dry .. | unlockNonce => exact execUnlockNonce_dry ..
  | mcDebug => exact execMcDebug_dry .. | cpDebug => exact execCpDebug_dry .. | bypass => exact execBypass_dry ..
  | inputUndervoltage => exact execInputUndervoltage_dry .. | pwrWarn => exact execPwrWarn_dry .. | auxSupplyLoss => exact execAuxSupplyLoss_dry ..
  | thermalTrip => exact execThermalTrip_dry .. | flowTrip => exact execFlowTrip_dry .. | repower => exact execRepower_dry ..
  | perstNRelease => exact execPerstNRelease_dry .. | pldmFirmwareUpdate => exact execPldmFirmwareUpdate_dry ..
  | timerCompare => exact execTimerCompare_dry ..
  | _ => cases h

/-- Every command outside `Instr.mayKey`, each by its own lemma. -/
theorem exec_sealed (c : Instr) {s : State} (h : c.mayKey = false) : s.SealedNext (exec c s) := by
  cases c with
  | turnMark => exact execTurnMark_sealed .. | admissionDecision => exact execAdmissionDecision_sealed ..
  | blankAllocation => exact execBlankAllocation_sealed .. | allocatorRetry => exact execAllocatorRetry_sealed ..
  | operationStart => exact execOperationStart_sealed .. | preloadComplete => exact execPreloadComplete_sealed ..
  | workUnitStart => exact execWorkUnitStart_sealed .. | witnessVerdict => exact execWitnessVerdict_sealed ..
  | tileSelfTest => exact execTileSelfTest_sealed .. | sweepStart => exact execSweepStart_sealed .. | park => exact execPark_sealed ..
  | parkDeadline => exact execParkDeadline_sealed .. | drainDeadline => exact execDrainDeadline_sealed ..
  | balanceCheck => exact execBalanceCheck_sealed .. | stagedConfigurationApply => exact execStagedConfigurationApply_sealed ..
  | operationComplete => exact execOperationComplete_sealed .. | translationWalk => exact execTranslationWalk_sealed ..
  | plazaAccess => exact execPlazaAccess_sealed .. | rehomeScanComplete => exact execRehomeScanComplete_sealed ..
  | unitZeroed => exact execUnitZeroed_sealed .. | stripCleared => exact execStripCleared_sealed .. | movePage => exact execMovePage_sealed ..
  | lateRead => exact execLateRead_sealed .. | memoryRequest => exact execMemoryRequest_sealed ..
  | readComplete => exact execReadComplete_sealed .. | bankRefresh => exact execBankRefresh_sealed .. | scrub => exact execScrub_sealed ..
  | laneFailure => exact execLaneFailure_sealed .. | laneRemap => exact execLaneRemap_sealed .. | spareTrained => exact execSpareTrained_sealed ..
  | stkRetire => exact execStkRetire_sealed .. | lostScanComplete => exact execLostScanComplete_sealed ..
  | retirementCopyComplete => exact execRetirementCopyComplete_sealed .. | repairApply => exact execRepairApply_sealed ..
  | badFrameWrite => exact execBadFrameWrite_sealed .. | withdraw => exact execWithdraw_sealed ..
  | cartridgeSafe => exact execCartridgeSafe_sealed .. | bringIntoService => exact execBringIntoService_sealed ..
  | cartridgeInService => exact execCartridgeInService_sealed .. | latchOpen => exact execLatchOpen_sealed ..
  | latchClose => exact execLatchClose_sealed .. | presenceContactOpen => exact execPresenceContactOpen_sealed ..
  | packedWrite => exact execPackedWrite_sealed .. | poolRecheck => exact execPoolRecheck_sealed ..
  | busyRecheck => exact execBusyRecheck_sealed .. | expanderDecode => exact execExpanderDecode_sealed ..
  | streamIssue => exact execStreamIssue_sealed .. | portTier3Issue => exact execPortTier3Issue_sealed ..
  | streamResponse => exact execStreamResponse_sealed .. | slotOpen => exact execSlotOpen_sealed .. | slotCommit => exact execSlotCommit_sealed ..
  | directHostStore => exact execDirectHostStore_sealed .. | bankReady => exact execBankReady_sealed ..
  | commandPush => exact execCommandPush_sealed .. | broadcastPush => exact execBroadcastPush_sealed ..
  | broadcastDataWrite => exact execBroadcastDataWrite_sealed .. | broadcastCopy => exact execBroadcastCopy_sealed ..
  | engineClear => exact execEngineClear_sealed .. | bankNop => exact execBankNop_sealed .. | gemv => exact execGemv_sealed ..
  | outer => exact execOuter_sealed .. | rowadd => exact execRowadd_sealed .. | signal => exact execSignal_sealed ..
  | burstBoundary => exact execBurstBoundary_sealed .. | accum => exact execAccum_sealed .. | norm => exact execNorm_sealed ..
  | update => exact execUpdate_sealed .. | shardCommit => exact execShardCommit_sealed .. | slotRetire => exact execSlotRetire_sealed ..
  | inboundRequest => exact execInboundRequest_sealed .. | bar2ReadTimeout => exact execBar2ReadTimeout_sealed ..
  | configRequest => exact execConfigRequest_sealed .. | hostSnoop addr => exact execHostSnoop_sealed addr | hostAck => exact execHostAck_sealed ..
  | hostRequestTimeout => exact execHostRequestTimeout_sealed .. | holdoffExpiry => exact execHoldoffExpiry_sealed ..
  | flitCrcFail => exact execFlitCrcFail_sealed .. | flitNak => exact execFlitNak_sealed .. | replayTimeout => exact execReplayTimeout_sealed ..
  | portLaneFailure => exact execPortLaneFailure_sealed .. | linkDown => exact execLinkDown_sealed .. | linkUp => exact execLinkUp_sealed ..
  | portReset => exact execPortReset_sealed .. | functionLevelReset => exact execFunctionLevelReset_sealed ..
  | ideIntegrityFail => exact execIdeIntegrityFail_sealed .. | portAdaptationRefresh => exact execPortAdaptationRefresh_sealed ..
  | coreDeviceAccess => exact execCoreDeviceAccess_sealed .. | maintenanceAction => exact execMaintenanceAction_sealed ..
  | coreRelease => exact execCoreRelease_sealed .. | coreHold => exact execCoreHold_sealed .. | messageSend => exact execMessageSend_sealed ..
  | headerCheck => exact execHeaderCheck_sealed .. | messageApply => exact execMessageApply_sealed ..
  | ackLineReceive => exact execAckLineReceive_sealed .. | ackTimer => exact execAckTimer_sealed ..
  | resendTimer => exact execResendTimer_sealed .. | send => exact execSend_sealed .. | recv => exact execRecv_sealed ..
  | allreduce => exact execAllreduce_sealed .. | sqDoorbell => exact execSqDoorbell_sealed .. | cqDoorbell => exact execCqDoorbell_sealed ..
  | ringConfig => exact execRingConfig_sealed .. | urgentGo => exact execUrgentGo_sealed .. | sqEntryCopy => exact execSqEntryCopy_sealed ..
  | mcRingRequest => exact execMcRingRequest_sealed .. | nop => exact execNop_sealed .. | version => exact execVersion_sealed ..
  | submit => exact execSubmit_sealed .. | plan => exact execPlan_sealed .. | invalidate => exact execInvalidate_sealed ..
  | abortFault => exact execAbortFault_sealed .. | fqHead => exact execFqHead_sealed .. | mmuCfg => exact execMmuCfg_sealed ..
  | place => exact execPlace_sealed .. | releaseKeep => exact execReleaseKeep_sealed .. | unit => exact execUnit_sealed ..
  | hostWin => exact execHostWin_sealed .. | swap => exact execSwap_sealed .. | advance => exact execAdvance_sealed ..
  | barrier => exact execBarrier_sealed .. | bufCfg => exact execBufCfg_sealed .. | cbLoad => exact execCbLoad_sealed ..
  | cbUnload => exact execCbUnload_sealed .. | verdict => exact execVerdict_sealed .. | setScale => exact execSetScale_sealed ..
  | setStep => exact execSetStep_sealed .. | journal => exact execJournal_sealed .. | hist => exact execHist_sealed ..
  | config => exact execConfig_sealed .. | halt => exact execHalt_sealed .. | release => exact execRelease_sealed ..
  | cores => exact execCores_sealed .. | pfWin => exact execPfWin_sealed .. | bank => exact execBank_sealed .. | fence => exact execFence_sealed ..
  | unfence => exact execUnfence_sealed .. | route => exact execRoute_sealed .. | fabricCfg => exact execFabricCfg_sealed ..
  | modId => exact execModId_sealed .. | link => exact execLink_sealed .. | fwLoad => exact execFwLoad_sealed ..
  | fwSelect => exact execFwSelect_sealed .. | manifest => exact execManifest_sealed .. | override => exact execOverride_sealed ..
  | repair => exact execRepair_sealed .. | snapRead => exact execSnapRead_sealed .. | errLogRead => exact execErrLogRead_sealed ..
  | scan => exact execScan_sealed .. | keyNew => exact execKeyNew_sealed .. | keyErase => exact execKeyErase_sealed ..
  | debugNonce => exact execDebugNonce_sealed .. | debugUnlock => exact execDebugUnlock_sealed .. | svnCommit => exact execSvnCommit_sealed ..
  | keyRevoke => exact execKeyRevoke_sealed .. | powerCap => exact execPowerCap_sealed .. | powerRead => exact execPowerRead_sealed ..
  | thermCfg => exact execThermCfg_sealed .. | lockstepMismatch => exact execLockstepMismatch_sealed ..
  | cpPairRetest => exact execCpPairRetest_sealed .. | mcWatchdog => exact execMcWatchdog_sealed ..
  | unitSelfTest => exact execUnitSelfTest_sealed .. | receiverAdaptationRefresh => exact execReceiverAdaptationRefresh_sealed ..
  | resCtrlMod => exact execResCtrlMod_sealed .. | modRstN => exact execModRstN_sealed .. | quiesceEnd => exact execQuiesceEnd_sealed ..
  | snapNow => exact execSnapNow_sealed .. | snapshotLatch => exact execSnapshotLatch_sealed ..
  | shiftOutComplete => exact execShiftOutComplete_sealed .. | pmcSelect => exact execPmcSelect_sealed ..
  | bwWindowEnd => exact execBwWindowEnd_sealed .. | bwWindowConfig => exact execBwWindowConfig_sealed .. | ghClear => exact execGhClear_sealed ..
  | registerReadClear => exact execRegisterReadClear_sealed .. | registerWrite => exact execRegisterWrite_sealed ..
  | spdmRequest => exact execSpdmRequest_sealed .. | extest => exact execExtest_sealed .. | samplePreload => exact execSamplePreload_sealed ..
  | idcode => exact execIdcode_sealed .. | clamp => exact execClamp_sealed .. | highz => exact execHighz_sealed ..
  | dbgState => exact execDbgState_sealed .. | unlockNonce => exact execUnlockNonce_sealed .. | unlockLoad => exact execUnlockLoad_sealed ..
  | regAccess => exact execRegAccess_sealed .. | memAccess => exact execMemAccess_sealed .. | mcDebug => exact execMcDebug_sealed ..
  | cpDebug => exact execCpDebug_sealed .. | bypass => exact execBypass_sealed .. | powerUp => exact execPowerUp_sealed ..
  | inputUndervoltage => exact execInputUndervoltage_sealed .. | pwrWarn => exact execPwrWarn_sealed ..
  | auxSupplyLoss => exact execAuxSupplyLoss_sealed .. | thermalTrip => exact execThermalTrip_sealed .. | flowTrip => exact execFlowTrip_sealed ..
  | powerDownPortIdle => exact execPowerDownPortIdle_sealed .. | repower => exact execRepower_sealed ..
  | modRstNRelease => exact execModRstNRelease_sealed .. | perstNRelease => exact execPerstNRelease_sealed ..
  | linkTrainingTimeout => exact execLinkTrainingTimeout_sealed .. | recoveryExit => exact execRecoveryExit_sealed ..
  | pldmFirmwareUpdate => exact execPldmFirmwareUpdate_sealed .. | timerCompare => exact execTimerCompare_sealed ..
  | _ => cases h

/-- Every branch of every command is a next state. -/
theorem exec_answers (c : Instr) (s : State) : ∃ t, exec c s = .next t := by
  cases c with
  | turnMark | operationStart | preloadComplete | workUnitStart | witnessVerdict | tileSelfTest | park | balanceCheck | operationComplete
  | translationWalk | rehomeScanComplete | unitZeroed | stripCleared | movePage | lateRead | memoryRequest | readComplete | scrub | laneFailure
  | laneRemap | spareTrained | stkRetire | lostScanComplete | retirementCopyComplete | repairApply | badFrameWrite | withdraw | cartridgeSafe
  | bringIntoService | cartridgeInService | latchOpen | latchClose | presenceContactOpen | packedWrite | poolRecheck | busyRecheck | expanderDecode
  | streamIssue | portTier3Issue | streamResponse | slotOpen | slotCommit | directHostStore | bankReady | broadcastCopy | burstBoundary
  | shardCommit | slotRetire | bar2ReadTimeout | configRequest | hostAck | hostRequestTimeout | holdoffExpiry | flitCrcFail | flitNak
  | replayTimeout | portLaneFailure | linkDown | linkUp | portReset | functionLevelReset | ideIntegrityFail | portAdaptationRefresh
  | maintenanceAction | coreRelease | coreHold | messageSend | headerCheck | messageApply | ackLineReceive | ackTimer | resendTimer | ringConfig
  | urgentGo | lockstepMismatch | cpPairRetest | receiverAdaptationRefresh | modRstN | quiesceEnd | snapshotLatch | shiftOutComplete | pmcSelect
  | bwWindowEnd | bwWindowConfig | ghClear | debugErasure | memAccess | powerUp | thermalTrip | powerDownOff | repower | modRstNRelease
  | perstNRelease | recoveryExit | pldmFirmwareUpdate | timerCompare =>
    dsimp only [exec, execTurnMark, execOperationStart, execPreloadComplete, execWorkUnitStart, execWitnessVerdict, execTileSelfTest, execPark,
      execBalanceCheck, execOperationComplete, execTranslationWalk, execRehomeScanComplete, execUnitZeroed, execStripCleared, execMovePage,
      execLateRead, execMemoryRequest, execReadComplete, execScrub, execLaneFailure, execLaneRemap, execSpareTrained, execStkRetire,
      execLostScanComplete, execRetirementCopyComplete, execRepairApply, execBadFrameWrite, execWithdraw, execCartridgeSafe, execBringIntoService,
      execCartridgeInService, execLatchOpen, execLatchClose, execPresenceContactOpen, execPackedWrite, execPoolRecheck, execBusyRecheck,
      execExpanderDecode, execStreamIssue, execPortTier3Issue, execStreamResponse, execSlotOpen, execSlotCommit, execDirectHostStore, execBankReady,
      execBroadcastCopy, execBurstBoundary, execShardCommit, execSlotRetire, execBar2ReadTimeout, execConfigRequest, execHostAck,
      execHostRequestTimeout, execHoldoffExpiry, execFlitCrcFail, execFlitNak, execReplayTimeout, execPortLaneFailure, execLinkDown, execLinkUp,
      execPortReset, execFunctionLevelReset, execIdeIntegrityFail, execPortAdaptationRefresh, execMaintenanceAction, execCoreRelease, execCoreHold,
      execMessageSend, execHeaderCheck, execMessageApply, execAckLineReceive, execAckTimer, execResendTimer, execRingConfig, execUrgentGo,
      execLockstepMismatch, execCpPairRetest, execReceiverAdaptationRefresh, execModRstN, execQuiesceEnd, execSnapshotLatch, execShiftOutComplete,
      execPmcSelect, execBwWindowEnd, execBwWindowConfig, execGhClear, execDebugErasure, execMemAccess, execPowerUp, execThermalTrip,
      execPowerDownOff, execRepower, execModRstNRelease, execPerstNRelease, execRecoveryExit, execPldmFirmwareUpdate, execTimerCompare]
    repeat' split
    all_goals exact ⟨_, rfl⟩
  | _ => exact ⟨_, rfl⟩

/-- A Doresque command is `State.command` of its number and its entry. -/
theorem exec_of_entry {c : Instr} {code : Nat} {e : SubEntry} (h : c.entry? = some (code, e)) (s : State) :
    ∃ body, exec c s = .next (s.command e code body) := by
  cases c <;> cases h <;> exact ⟨_, rfl⟩

end Sys2Proof.Machine
end

section
/-! PROOFS. The step, what it keeps, and how an entry is screened and completed. -/

namespace Sys2Proof.Machine

namespace State

/-- Which commands wait is no part of soundness. -/
theorem Inv.withPending {s : State} (h : s.Inv) (l : List Instr) : State.Inv { s with pending := l } := ⟨h.fits, h.mem, h.host⟩

/-- A status other than no-handshake comes of an entry once the handshake is made or not asked for. -/
theorem screen_ne_noHandshake {s : State} {e : SubEntry}
    (h : e.source = 2 ∨ eCode e = 0 ∨ eCode e = 1) : s.screen e ≠ some 4 := by
  have hfree : (!(e.source == 2) && !(eCode e == 0 || eCode e == 1) && s.rd .MB_STAT_HANDSHAKE e.page == 0 &&
      !(s.restricted && e.page == 13 && restrictedServes 13 (eCode e))) = false := by
    rcases h with h | h | h <;> simp [h]
  unfold screen
  simp only [hfree, Bool.false_eq_true, if_false]
  repeat' split
  all_goals simp [stRestricted, stNotPermitted, stInvalidDescriptor, stInvalidTarget]

end State
open State

/-- Settles O1: `step` takes the front command off the queue. -/
theorem stepRunsTheFrontCommand : Obligations.StepRunsTheFrontCommand := by
  intro c s
  rfl

/-- Settles O3: every reset value fits its field, and both memories list nothing. -/
theorem resetIsSound : Obligations.ResetIsSound := ⟨fun f _ => Fld.resetVal_lt false f, rfl, rfl⟩

/-- Settles O4: a step is a wait for the next cycle or the front command, and both keep the state sound. -/
theorem everyStepKeepsTheStateSound : Obligations.EveryStepKeepsTheStateSound := by
  intro s t hs hstep
  match hq : s.pending with
  | [] =>
    rw [step_of_empty hq] at hstep
    cases hstep
    exact (goTo_keeps (.refl s) _).inv hs
  | c :: rest =>
    rw [step, hq] at hstep
    exact ((exec_keeps c).out t hstep).inv (hs.withPending rest)

/-- Settles O5: every command answers, and what it answers keeps the queue and the module. -/
theorem everyCommandKeepsTheQueue : Obligations.EveryCommandKeepsTheQueue := by
  intro c s
  obtain ⟨t, ht⟩ := exec_answers c s
  have hkeeps := (exec_keeps c).out t ht
  exact ⟨t, ht, hkeeps.pending, hkeeps.lt09⟩

/-- Settles O6: the table of the commands that take no time. -/
theorem commandsThatTakeNoTime : Obligations.CommandsThatTakeNoTime := fun c _ t hc ht => (exec_still c hc).out t ht

/-- Settles O7: the table of the commands that leave both memories; a byte is read from one of them. -/
theorem commandsThatLeaveMemory : Obligations.CommandsThatLeaveMemory := by
  intro c s t hc ht tier unit a
  have hdry := (exec_dry c hc).out t ht
  simp only [memByte, hdry.mem, hdry.host]

/-- Settles O8: the table of the commands that leave the key slots. -/
theorem keysStayOutsideTheirCommands : Obligations.KeysStayOutsideTheirCommands := by
  intro c s t hc ht
  have hsealed := (exec_sealed c hc).out t ht
  exact ⟨hsealed.key, fun q => ⟨hsealed.regs _ q rfl, hsealed.regs _ q rfl⟩⟩

/-- Settles O18: each Doresque command is `State.command` of its own number, which looks at the entry first. -/
theorem commandsAreScreened : Obligations.CommandsAreScreened := by
  intro c s code e hc
  obtain ⟨body, hbody⟩ := exec_of_entry hc s
  refine ⟨fun st hcode hpage hst => ⟨?_, done_posts (.refl s) e st 0⟩, fun hother => ?_⟩
  · rw [hbody, command_screened hcode hpage hst]
  · rw [hbody, command_other hother]

/-- Settles O19: the handshake is the first check, and it asks neither the urgent slot nor NOP and VERSION. -/
theorem noCommandBeforeTheHandshake : Obligations.NoCommandBeforeTheHandshake := by
  intro s e hservice hshake
  refine ⟨fun hslot hnop hversion => ?_, screen_ne_noHandshake⟩
  simp [screen, hservice, hshake, hslot, hnop, hversion, stNoHandshake]

/-- Settles O21: a completion posts. -/
theorem completionsChangeNothingElse : Obligations.CompletionsChangeNothingElse := fun s e st res0 => done_posts (.refl s) e st res0

end Sys2Proof.Machine
end

section
/-! PROOFS. The setting and reporting commands (R123, R261, R300, R301, R332, R352, R356, R361, R379, R389). -/

namespace Sys2Proof.Machine

namespace State

variable {s : State} {e : SubEntry}

/-- A field that software does not clear by writing one is set without a note of the cycle. -/
theorem mark_of_not_w1c {f : Fld} (h : f.info.acc ≠ .w1c) (i : Nat) : s.mark f i = s.wr f i 1 := if_neg h

theorem cmdSetScale_in_range (h : s.Serves e 0x501) (hE : eArg e 0 5 ≤ 24) (hi : eArg e 16 16 ≠ 0) (hw : eArg e 33 1 = 1) :
    s.cmdSetScale e = ((((s.wr .UU_Q_KEEP_E (eTarget e) (eArg e 0 5)).wr .UU_Q_KEEP_CLEAN (eTarget e) 0).wr .UU_Q_KEEP_INTERVAL (eTarget e)
      (eArg e 16 16)).wr .UU_Q_KEEP_HW (eTarget e) (eArg e 32 1)).done e stSuccess 0 := by
  rw [cmdSetScale, command_serves h]
  simp [Nat.not_lt.2 hE, hi, hw]

theorem cmdPowerCap_in_range (h : s.Serves e 0xC00) (hlo : 100 ≤ eArg e 0 11) (hhi : eArg e 0 11 ≤ s.capW) :
    s.cmdPowerCap e = (s.wr .PWR_CFG_CAP_SET 0 (eArg e 0 11)).done e stSuccess
      ((s.wr .PWR_CFG_CAP_SET 0 (eArg e 0 11)).rd .PWR_CFG_CAP_SET 0) := by
  rw [cmdPowerCap, command_serves h]
  simp only [hlo, hhi, and_self, if_true]

/-- VERSION's answer, with the handshake made exactly where the major is covered (R332). -/
theorem cmdVersion_served (h : s.Serves e 0x001) :
    let lo := (s.covered.map (fun (x : Bool × Nat × Nat) => x.2.1)).getD 0
    let hi := (s.covered.map (fun (x : Bool × Nat × Nat) => x.2.2)).getD 0
    let ok := s.covered.isSome && decide (lo / 256 ≤ eArg e 8 8) && decide (eArg e 8 8 ≤ hi / 256)
    let r0 := 0xA1 + 2 ^ 8 * s.rd .FW_STATE_CFW_VER 0 + 2 ^ 32 * s.rd .FW_STATE_MFW_VER 0 + 2 ^ 56 * s.rd .FW_STATE_SERVICE 0
    let r1 := lo + 2 ^ 16 * hi + 2 ^ 32 * objVersion (s.obj objManifestUse)
    s.cmdVersion e = (if ok then s.wr .MB_STAT_HANDSHAKE e.page 1 else s).complete e.page
      ⟨eTag e, e.source, if ok then stSuccess else stVersionRefused, 0, false, 0, r0, some r1⟩ := by
  rw [cmdVersion, command_serves h]
  simp only [mark_of_not_w1c (f := .MB_STAT_HANDSHAKE) (by decide)]
  cases s.covered with
  | none => rfl
  | some x => rfl

/-- SNAP_READ of bytes inside a completed image. -/
theorem cmdSnapRead_of_image {p : Snap} (h : s.Serves e 0xA00) (hp : s.snap = some p) (hbusy : s.rd .SNAP_STAT_BUSY 0 = 0)
    (hvalid : s.rd .SNAP_STAT_VALID 0 = 1) (hn : eArg e 64 32 % 64 = 0) (hend : eArg e 0 64 + eArg e 64 32 ≤ s.imageSize) :
    s.cmdSnapRead e = (s.putHost e.page (eArg e 128 64) (s.imageBytes p (eArg e 0 64) (eArg e 64 32))).done e stSuccess 0 := by
  rw [cmdSnapRead, command_serves h]
  simp [hp, flag, hbusy, hvalid, hn, Nat.not_lt.2 hend]

/-- SCAN of a CFW slot that holds an image, with no guard, no check and the engine's own start value. -/
theorem cmdScan_of_cfw (h : s.Serves e 0xA02) (hspace : eArg e 2 2 = 2) (hlen : eArg e 128 64 = 0) (hslot : eArg e 64 64 < 4)
    (himg : s.obj (objCfw + eArg e 64 64) ≠ []) (hguard : eArg e 4 1 = 0) (hcheck : eArg e 5 1 = 0) (hinit : eArg e 6 1 = 0) :
    s.cmdScan e = s.complete e.page
      ⟨eTag e, e.source, stSuccess, 0, false, 0, crcJob (eArg e 0 2) none (s.obj (objCfw + eArg e 64 64)), some 0⟩ := by
  rw [cmdScan, command_serves h]
  simp [hspace, hlen, Nat.not_le.2 hslot, himg, endScan, hguard, hcheck, hinit]

/-- HIST without CLEAR, once its words are written. -/
theorem cmdHist_of_copy {t : State} (h : s.Serves e 0x600) (hva : eArg e 64 64 % 64 = 0) (hclear : eArg e 6 1 = 0)
    (hw : s.vwrite (cpClient (eTarget e) (eTag e)) (eArg e 64 64)
      ((s.histRead (64 * eTarget e + eArg e 0 6)).flatMap (fun w => toBytes w 8)) = (t, .ok ())) :
    s.cmdHist e = t.done e stSuccess 0 := by
  rw [cmdHist, command_serves h]
  simp [hva, hclear, hw]

/-- HIST with CLEAR, once its words are written, of a slot with no commit in the cycle. -/
theorem cmdHist_of_clear {t : State} (h : s.Serves e 0x600) (hva : eArg e 64 64 % 64 = 0) (hclear : eArg e 6 1 = 1)
    (hnow : s.histOf (64 * eTarget e + eArg e 0 6) = none)
    (hw : s.vwrite (cpClient (eTarget e) (eTag e)) (eArg e 64 64)
      ((s.histRead (64 * eTarget e + eArg e 0 6)).flatMap (fun w => toBytes w 8)) = (t, .ok ())) :
    s.cmdHist e = (t.histClear (eTarget e) (eArg e 0 6)).done e stSuccess 0 := by
  rw [cmdHist, command_serves h]
  simp [hva, hclear, hnow, hw]


end State
open State

/-- Settles O23: with its arguments in range each command is its register writes and a completion, which posts. -/
theorem settingCommandsWriteTheirRegisters : Obligations.SettingCommandsWriteTheirRegisters := by
  intro s e q
  have posts {c : Instr} {t : State} {st res : Nat} (h : exec c s = .next (t.done e st res)) : ∃ u, exec c s = .next u ∧ t.Posts u :=
    ⟨_, h, done_posts (.refl t) ..⟩
  refine ⟨fun h => ?step, fun h hE hi hw => ?scale, fun h hfree => ?journal, fun h => ?modId, fun h hlo hhi => ?cap, fun h hlo hhi hr => ?therm,
    fun h hk => ?bank, fun h => ?route, fun h hfree => ?fabric⟩
  case step => exact posts (congrArg Host.Outcome.next (command_serves h _))
  case scale => exact posts (congrArg Host.Outcome.next (cmdSetScale_in_range h hE hi hw))
  case journal =>
    have hnone : ¬ s.slotsHeld (eTarget e) = true := ne_true_of_eq_false hfree
    exact posts (congrArg Host.Outcome.next ((command_serves h _).trans (if_neg hnone)))
  case modId => exact posts (congrArg Host.Outcome.next (command_serves h _))
  case cap => exact posts (congrArg Host.Outcome.next (cmdPowerCap_in_range h hlo hhi))
  case therm => exact posts (congrArg Host.Outcome.next ((command_serves h _).trans (if_neg (by omega))))
  case bank => exact posts (congrArg Host.Outcome.next ((command_serves h _).trans (if_neg (Nat.not_le.2 hk))))
  case route => exact posts (congrArg Host.Outcome.next (command_serves h _))
  case fabric =>
    have hnone : ¬ s.feTx.any (fun (x : FeTx) => x.q == eTarget e) = true := by
      simpa using hfree
    exact posts (congrArg Host.Outcome.next ((command_serves h _).trans (if_neg hnone)))

/-- Settles O22: each command, once its entry is served, is its body with the checks passed. That ERR_LOG_READ, DEBUG_NONCE and SNAP_READ complete
with success where the page's port is down, and their write is lost, is the model's choice (log entries 39 and 40). -/
theorem reportingCommandsAnswer : Obligations.ReportingCommandsAnswer := by
  intro s e
  refine ⟨fun h => ?nop, fun h => ?version, fun h => ?power, fun h => ?errLog, fun h => ?nonce, fun h p hp hbusy hvalid hn hend => ?snap,
    fun h hspace hlen hslot himg hguard hcheck hinit => ?scan, fun h hva t hw => ⟨fun hclear => ?copy, fun hclear hnow => ?clear⟩⟩
  case version => exact congrArg Host.Outcome.next (cmdVersion_served h)
  case snap => exact congrArg Host.Outcome.next (cmdSnapRead_of_image h hp hbusy hvalid hn hend)
  case scan => exact congrArg Host.Outcome.next (cmdScan_of_cfw h hspace hlen hslot himg hguard hcheck hinit)
  case copy => exact congrArg Host.Outcome.next (cmdHist_of_copy h hva hclear hw)
  case clear => exact congrArg Host.Outcome.next (cmdHist_of_clear h hva hclear hnow hw)
  all_goals exact congrArg Host.Outcome.next (command_serves h _)

end Sys2Proof.Machine
end

section
/-! PROOFS. The firmware and key commands (R330, R331, R366 to R368, R379, R380). -/

namespace Sys2Proof.Machine

namespace State

variable {s : State} {e : SubEntry} {b : List Byte}

/-- FW_LOAD of an MFW image into the slot that does not run. -/
theorem cmdFwLoad_mfw (hb : s.readObject e.page (eArg e 64 64) (eArg e 128 32) = b) (h : s.Serves e 0x900) (hmfw : eArg e 0 1 = 1)
    (hfree : s.h .selStaged 1 ≠ 1 - s.rd .FW_STATE_MFW_SLOT 0 + 1) :
    s.cmdFwLoad e = if s.authentic 1 b then
      (s.setObj (objMfw + (1 - s.rd .FW_STATE_MFW_SLOT 0)) b).done e stSuccess 0
      else s.done e stNotAuthentic 0 := by
  rw [cmdFwLoad, command_serves h]
  simp only [hb, hmfw, beq_self_eq_true, if_true, hfree, Bool.not_true, Bool.false_and, Bool.false_eq_true, or_self, if_false]
  cases s.authentic 1 b <;> rfl

/-- FW_SELECT of an MFW image with no CFW image staged. -/
theorem cmdFwSelect_mfw (h : s.Serves e 0x901) (hmfw : eArg e 0 1 = 1) (hcfw : s.h .selStaged 0 = 0) :
    s.cmdFwSelect e = if s.authentic 1 (s.obj (objMfw + eArg e 1 1)) then
      if (s.coverage (s.rd .FW_STATE_CFW_VER 0) (objVersion (s.obj (objMfw + eArg e 1 1)))).isSome then
        ((s.setH .selStaged 1 (eArg e 1 1 + 1)).wr .FW_STATE_SWAP_PEND 0 1).done e stSuccess 0
      else s.done e stIncompatible 0
      else s.done e stNotAuthentic 0 := by
  rw [cmdFwSelect, command_serves h]
  simp only [hmfw, hcfw, beq_self_eq_true, if_true, Bool.not_true, Bool.false_eq_true, if_false, false_and,
    mark_of_not_w1c (f := .FW_STATE_SWAP_PEND) (by decide)]
  cases s.authentic 1 (s.obj (objMfw + eArg e 1 1)) with
  | false => rfl
  | true => cases s.coverage (s.rd .FW_STATE_CFW_VER 0) (objVersion (s.obj (objMfw + eArg e 1 1))) <;> rfl

/-- MANIFEST of an object newer than the one held, or with none held. -/
theorem cmdManifest_newer (hb : s.readObject e.page (eArg e 64 64) (eArg e 128 32) = b) (h : s.Serves e 0x902) (hnew : s.obj objManifest = [] ∨
      objVersion (s.obj objManifest) < objVersion b) :
    s.cmdManifest e = if s.authentic 3 b then
      (((s.setObj objManifest b).setObj objManifestUse
        b).afterLoad).done e stSuccess 0
      else s.done e stNotAuthentic 0 := by
  have hheld : (!(s.obj objManifest).isEmpty && decide (objVersion b ≤
      objVersion (s.obj objManifest))) = false := by
    rcases hnew with hnone | hlt
    · simp [hnone]
    · simp [Nat.not_le.2 hlt]
  rw [cmdManifest, command_serves h]
  simp only [hb, hheld, Bool.false_eq_true, if_false]
  cases s.authentic 3 b <;> rfl

/-- OVERRIDE that brings a policy. -/
theorem cmdOverride_load (hb : s.readObject e.page (eArg e 64 64) (eArg e 128 32) = b) (h : s.Serves e 0x903) (hload : eArg e 0 1 = 0) :
    s.cmdOverride e = if s.authentic 4 b then
      (((s.setObj objPolicy b).setObj objPolicyUse
        b).afterLoad).done e stSuccess 0
      else s.done e stNotAuthentic 0 := by
  rw [cmdOverride, command_serves h]
  simp only [hb, hload, Nat.zero_ne_one, if_false]
  cases s.authentic 4 b <;> rfl

/-- KEY_REVOKE of keys that are neither its own nor the last. -/
theorem cmdKeyRevoke_others (hb : s.readObject e.page (eArg e 64 64) (eArg e 128 32) = b) (h : s.Serves e 0xB05)
    (hown : bitsOf (objScope b) (objKey b) 1 = 0) (hlast : s.rd .SEC_STAT_REVOKED 0 ||| objScope b ≠ 15) :
    s.cmdKeyRevoke e = if s.authentic 6 b then
      ((s.wr .SEC_STAT_REVOKED 0 (s.rd .SEC_STAT_REVOKED 0 ||| objScope b)).newMeasurement).done e stSuccess
        (s.rd .SEC_STAT_REVOKED 0 ||| objScope b)
      else s.done e stNotAuthentic 0 := by
  rw [cmdKeyRevoke, command_serves h]
  simp only [hb, hown]
  cases s.authentic 6 b <;> simp [hlast]

/-- SVN_COMMIT of MFW raises the minimum to the running image's version where that is higher. -/
theorem cmdSvnCommit_mfw (h : s.Serves e 0xB04) (hswap : s.rd .FW_STATE_SWAP_PEND 0 = 0) (hmfw : eArg e 0 1 = 1) :
    s.cmdSvnCommit e = if s.rd .SEC_STAT_SVN_MIN_MFW 0 < s.rd .SEC_STAT_SVN_MFW 0 then
      (s.wr .SEC_STAT_SVN_MIN_MFW 0 (s.rd .SEC_STAT_SVN_MFW 0)).newMeasurement.done e stSuccess (s.rd .SEC_STAT_SVN_MFW 0)
      else s.done e stSuccess (s.rd .SEC_STAT_SVN_MIN_MFW 0) := by
  rw [cmdSvnCommit, command_serves h]
  simp only [flag, hswap, hmfw, beq_self_eq_true, if_true, Nat.reduceBEq, Bool.false_eq_true, if_false]

/-- The end of the sessions with the old measurement writes no register (R384). -/
theorem rd_newMeasurement (f : Fld) (i : Nat) : s.newMeasurement.rd f i = s.rd f i := rfl

/-- Which tokens are accepted (R379). -/
theorem tryUnlock_accepts (b : List Byte) : (s.tryUnlock b).2 = (s.rd .SEC_STAT_ERASE_PEND 0 != 1 && s.rd .SEC_STAT_DBG_OPEN 0 != 1 &&
    s.rd .SEC_STAT_UNLOCK_FAILS 0 != 3 && s.tokenGood b) := by
  unfold tryUnlock
  split
  · next hclosed =>
    rcases hclosed with hclosed | hclosed | hclosed
    · simp [beq_iff_eq.1 hclosed]
    · simp [beq_iff_eq.1 hclosed]
    · simp [hclosed]
  · next hopen =>
    simp only [flag, beq_iff_eq, not_or] at hopen
    obtain ⟨herase, hdbg, hfails⟩ := hopen
    have hgood : (s.rd .SEC_STAT_ERASE_PEND 0 != 1 && s.rd .SEC_STAT_DBG_OPEN 0 != 1 && s.rd .SEC_STAT_UNLOCK_FAILS 0 != 3) = true := by
      simp [herase, hdbg, hfails]
    rw [hgood, Bool.true_and]
    cases s.tokenGood b <;> rfl

/-- DEBUG_UNLOCK waits for the erasure where its token is accepted, and completes at once where it is not. -/
theorem cmdDebugUnlock_served (hb : s.readObject e.page (eArg e 64 64) (eArg e 128 32) = b) (h : s.Serves e 0xB03) :
    s.cmdDebugUnlock e = if (s.tryUnlock b).2 then
      { (s.tryUnlock b).1 with
        late := (s.tryUnlock b).1.late ++ [⟨e.page, e.source, eTag e, .erased⟩] }
      else (s.tryUnlock b).1.done e stNotAuthentic 0 := by
  rw [cmdDebugUnlock, command_serves h]
  simp only [hb]

/-- The two answers of a command that a check divides. -/
theorem next_of_check {c : Instr} {a : Bool} {t u : State} (h : exec c s = .next (if a then t else u)) :
    (a = true → exec c s = .next t) ∧ (a = false → exec c s = .next u) := by
  cases a
  · exact ⟨fun ha => (Bool.noConfusion ha), fun _ => h⟩
  · exact ⟨fun _ => h, fun ha => (Bool.noConfusion ha)⟩

end State
open State

/-- Settles O30: each command is its body with the checks passed, which asks first whether the object is authentic. SVN_COMMIT leaves the higher of
the two versions, which its completion does not write. -/
theorem firmwareAndKeyCommands : Obligations.FirmwareAndKeyCommands := by
  intro s e b
  refine ⟨fun h hmfw hfree => ?load, fun h hmfw hcfw => ?select, fun h hnew => ?manifest, fun h hload => ?override,
    fun h hswap hmfw hsvn => ?svn, fun h hown hlast => ?revoke, fun h => ?unlock⟩
  case load => exact next_of_check (congrArg Host.Outcome.next (cmdFwLoad_mfw rfl h hmfw hfree))
  case select =>
    obtain ⟨hgood, hbad⟩ := next_of_check (c := .fwSelect e) (congrArg Host.Outcome.next (cmdFwSelect_mfw h hmfw hcfw))
    refine ⟨fun ha hcover => ?_, fun ha hcover => ?_, hbad⟩
    · exact (next_of_check (hgood ha)).1 hcover
    · exact (next_of_check (hgood ha)).2 (Option.isSome_eq_false_iff.2 (by simp [hcover]))
  case manifest => exact next_of_check (congrArg Host.Outcome.next (cmdManifest_newer rfl h hnew))
  case override => exact next_of_check (congrArg Host.Outcome.next (cmdOverride_load rfl h hload))
  case revoke => exact next_of_check (congrArg Host.Outcome.next (cmdKeyRevoke_others rfl h hown hlast))
  case unlock =>
    obtain ⟨hgood, hbad⟩ := next_of_check (c := .debugUnlock e) (congrArg Host.Outcome.next (cmdDebugUnlock_served rfl h))
    exact ⟨hgood, hbad, tryUnlock_accepts b⟩
  case svn =>
    refine ⟨_, congrArg Host.Outcome.next (cmdSvnCommit_mfw h hswap hmfw), ?_⟩
    split
    · next hlt =>
      rw [(done_posts (.refl _) ..).regs _ _ rfl, rd_newMeasurement, rd_wr_fits _ _ _ hsvn, Nat.max_eq_right (Nat.le_of_lt hlt)]
    · next hle =>
      rw [(done_posts (.refl _) ..).regs _ _ rfl, Nat.max_eq_left (Nat.not_lt.1 hle)]

end Sys2Proof.Machine
end

section
/-! PROOFS. Snapshots and the instruments (R350 to R352, R360). -/

namespace Sys2Proof.Machine

namespace State

variable {s : State} {src port rx tx : Nat}

/-- What a trigger latches (R351, R353). -/
def snapOf (s : State) (src : Nat) : Snap :=
  ⟨(s.rd .SNAP_STAT_SEQ 0 + 1) % 2 ^ 32, s.rd .TURN_COUNT_COUNT 0, s.pos, src, ({ s with regs := s.regs0 } : State).freeze.regs, s.strips,
    s.fenced, s.suspects, s.now, (s.ops.filter (fun (o : Op) => o.blank.isSome)).map (fun (o : Op) => (o, s.frozen o))⟩

/-- The shift-out of a snapshot begins. -/
def beginShiftOut (s : State) (p : Snap) : State :=
  ((({ s with snap := some p } : State).wr .SNAP_STAT_SEQ 0 p.seq).wr .SNAP_STAT_BUSY 0 1).wr .SNAP_STAT_VALID 0 0

/-- A trigger that is armed, with no shift-out in progress. -/
theorem latch_of_armed (harm : s.rd .SNAP_CFG_ARM 0 = 1) (hidle : s.rd .SNAP_STAT_BUSY 0 = 0) :
    s.latch src = if s.rd .SNAP_CFG_REPEAT 0 = 1 then s.beginShiftOut (s.snapOf src) else (s.beginShiftOut (s.snapOf src)).wr .SNAP_CFG_ARM 0 0 :=
  if_neg (by omega)

/-- Any other trigger. -/
theorem latch_of_missed (h : s.rd .SNAP_CFG_ARM 0 = 0 ∨ s.rd .SNAP_STAT_BUSY 0 = 1) : s.latch src = s.bump .SNAP_STAT_MISSED 0 1 := if_pos h

theorem rd_beginShiftOut_seq (p : Snap) : (s.beginShiftOut p).rd .SNAP_STAT_SEQ 0 = p.seq % 2 ^ 32 := by
  rw [beginShiftOut, rd_wr_field _ _ _ (by decide), rd_wr_field _ _ _ (by decide), rd_wr_same]
  rfl

theorem rd_beginShiftOut_busy (p : Snap) : (s.beginShiftOut p).rd .SNAP_STAT_BUSY 0 = 1 := by
  rw [beginShiftOut, rd_wr_field _ _ _ (by decide), rd_wr_fits _ _ _ (by decide)]

theorem rd_beginShiftOut_arm (p : Snap) : (s.beginShiftOut p).rd .SNAP_CFG_ARM 0 = s.rd .SNAP_CFG_ARM 0 := by
  rw [beginShiftOut, rd_wr_field _ _ _ (by decide), rd_wr_field _ _ _ (by decide), rd_wr_field _ _ _ (by decide)]
  rfl

theorem snap_bump (f : Fld) (i n : Nat) : (s.bump f i n).snap = s.snap := by
  unfold bump
  simp only
  split <;> rfl

theorem exec_bwWindowEnd_of_over (hport : port < 2) (h : s.h .bwFrom port + 2 ^ s.rd .PT_BW_CFG_WIN_LOG2 port ≤
      s.now / 2 ^ s.rd .PT_BW_CFG_WIN_LOG2 port * 2 ^ s.rd .PT_BW_CFG_WIN_LOG2 port) :
    exec (.bwWindowEnd port rx tx) s = .next ((((s.wr .PT_BW_RX_BYTES port rx).wr .PT_BW_RX_RATE port
      (rx * 1000 / 2 ^ s.rd .PT_BW_CFG_WIN_LOG2 port)).wr .PT_BW_TX_BYTES port tx).wr .PT_BW_TX_RATE port
        (tx * 1000 / 2 ^ s.rd .PT_BW_CFG_WIN_LOG2 port)) :=
  (if_neg (Nat.not_le.2 hport)).trans (if_neg fun hover => absurd hover.1 (Nat.not_lt.2 h))

end State
open State

/-- Settles O55: an armed trigger with no shift-out in progress latches, and any other one is a count. That SNAP_READ is never in progress at a trigger
is the model's choice (log entry 24). -/
theorem snapshotsLatchOnce : Obligations.SnapshotsLatchOnce := by
  intro s src
  refine ⟨fun harm hidle => ?latches, fun h => ?missed⟩
  case latches =>
    have hseq : (s.snapOf src).seq % 2 ^ 32 = (s.rd .SNAP_STAT_SEQ 0 + 1) % 2 ^ 32 := Nat.mod_mod ..
    rw [latch_of_armed harm hidle]
    split
    · exact ⟨(rd_beginShiftOut_seq _).trans hseq, rd_beginShiftOut_busy _, ⟨_, rfl, rfl, rfl, rfl, rfl, rfl, rfl, rfl⟩,
        (rd_beginShiftOut_arm _).trans harm⟩
    · refine ⟨?_, ?_, ⟨_, rfl, rfl, rfl, rfl, rfl, rfl, rfl, rfl⟩, rd_wr_same ..⟩
      · rw [rd_wr_field _ _ _ (by decide), rd_beginShiftOut_seq, hseq]
      · rw [rd_wr_field _ _ _ (by decide), rd_beginShiftOut_busy]
  case missed =>
    rw [latch_of_missed h]
    exact ⟨rd_bump_same .., snap_bump .., fun f i hf => rd_bump_field _ _ _ (Ne.symm hf)⟩

/-- Settles O56: the trigger's command by its source, and the register writes of the other two. -/
theorem instrumentsComplete : Obligations.InstrumentsComplete := by
  intro s
  have latches (src t : Nat) : exec (.snapshotLatch src t) s = execSnapshotLatch src t s := rfl
  refine ⟨fun hsrc hsched hpos t => ?turnEnd, fun hsrc hsched t => ?late, fun hsrc t => ?mark, fun hdue t => ?now, fun hbusy => ?shiftOut,
    fun port rx tx hport _ => ?window⟩
  case turnEnd => simp [latches, execSnapshotLatch, hsrc, Nat.not_lt.2 hsched, Nat.not_lt.2 hpos]
  case late => simp [latches, execSnapshotLatch, hsrc, hsched]
  case mark => simp [latches, execSnapshotLatch, hsrc]
  case now => simp [latches, execSnapshotLatch, hdue]
  case shiftOut => exact if_pos (beq_iff_eq.2 hbusy)
  case window =>
    intro w hw
    refine ⟨_, exec_bwWindowEnd_of_over hport hw, ?_, ?_, ?_⟩
    · rw [rd_wr_field _ _ _ (by decide), rd_wr_field _ _ _ (by decide), rd_wr_field _ _ _ (by decide), rd_wr_same]
    · rw [rd_wr_field _ _ _ (by decide), rd_wr_same]
    · rw [rd_wr_field _ _ _ (by decide), rd_wr_field _ _ _ (by decide), rd_wr_same]

end Sys2Proof.Machine
end

section
/-! PROOFS. A completion posted to its ring (R312, R314, Table 14-4). -/

namespace Sys2Proof.Machine

theorem toBytes_length (x n : Nat) : (toBytes x n).length = n := by
  induction n generalizing x with
  | zero => rfl
  | succ n ih => rw [toBytes, List.length_cons, ih]

namespace State

variable {s t u : State} {page : Nat}

/-! Bytes of host memory. -/

theorem memByte_setByte_host_same (a : Nat) (b : Byte) : (s.setByte 3 0 a b).memByte 3 0 a = b := Tab.get_set_same ..

theorem memByte_setByte_host_other {a x : Nat} (b : Byte) (h : x ≠ a) : (s.setByte 3 0 a b).memByte 3 0 x = s.memByte 3 0 x :=
  Tab.get_set_other _ _ _ _ h

theorem memByte_setBytes_host_below {a x : Nat} (d : List Byte) (h : x < a) : (s.setBytes 3 0 a d).memByte 3 0 x = s.memByte 3 0 x := by
  induction d generalizing s a with
  | nil => rfl
  | cons b d ih => rw [setBytes, ih (Nat.lt_succ_of_lt h), memByte_setByte_host_other _ (Nat.ne_of_lt h)]

/-- What is written to host memory is read there. -/
theorem memBytes_setBytes_host (a : Nat) (d : List Byte) : (s.setBytes 3 0 a d).memBytes 3 0 a d.length = d := by
  induction d generalizing s a with
  | nil => rfl
  | cons b d ih =>
    have hhead : (s.setBytes 3 0 a (b :: d)).memByte 3 0 a = b := by
      rw [setBytes, memByte_setBytes_host_below _ (Nat.lt_succ_self a), memByte_setByte_host_same]
    have htail : (s.setBytes 3 0 a (b :: d)).memBytes 3 0 (a + 1) d.length = d := ih (s := s.setByte 3 0 a b) (a + 1)
    simp only [memBytes, List.length_cons, List.range_succ_eq_map, List.map_cons, List.map_map, Nat.add_zero, hhead]
    refine congrArg (b :: ·) (Eq.trans (List.map_congr_left fun i _ => ?_) htail)
    simp only [Function.comp_apply, Nat.succ_eq_add_one, Nat.add_assoc, Nat.add_comm 1]

/-! An interrupt moves pending bits, holdoffs and messages, and nothing else (R282 to R284). -/

/-- Only hidden scalars and the outbox differ. -/
def Signals (s t : State) : Prop := t = { s with hid := t.hid, outbox := t.outbox }

theorem Signals.refl (s : State) : s.Signals s := rfl

theorem Signals.trans (h : s.Signals t) (h' : t.Signals u) : s.Signals u := by
  unfold Signals at *
  rw [h', h]

theorem setH_signals (x : Hid) (i v : Nat) : s.Signals (s.setH x i v) := rfl

theorem sendMsix_signals (port func vec : Nat) : s.Signals (s.sendMsix port func vec) := by
  unfold sendMsix
  simp only
  repeat' split
  all_goals rfl

theorem raiseCores_signals (q vec : Nat) : s.Signals (s.raiseCores q vec) := by
  unfold raiseCores
  split <;> rfl

theorem raiseVf_signals (q vec : Nat) : s.Signals (s.raiseVf q vec) := by
  simp only [raiseVf, ← raiseCores.eq_def]
  refine Signals.trans (raiseCores_signals q vec) ?_
  split
  · exact .refl _
  · split
    · exact setH_signals ..
    · split
      · exact sendMsix_signals ..
      · exact (sendMsix_signals ..).trans (setH_signals ..)

theorem pageVector_signals (page : Nat) : s.Signals (s.pageVector page) := by
  unfold pageVector
  repeat' split
  · exact raiseVf_signals ..
  · exact sendMsix_signals ..
  · exact sendMsix_signals ..
  · exact .refl s

theorem Signals.rd (h : s.Signals t) (f : Fld) (i : Nat) : t.rd f i = s.rd f i := by
  rw [h]
  rfl

theorem Signals.cqWait (h : s.Signals t) : t.cqWait = s.cqWait := by rw [h]

theorem Signals.memBytes (h : s.Signals t) (tier unit a n : Nat) : t.memBytes tier unit a n = s.memBytes tier unit a n := by
  rw [h]
  rfl

theorem cqWait_setBytes (a : Nat) (d : List Byte) : (s.setBytes 3 0 a d).cqWait = s.cqWait :=
  setBytes_fixes ⟨fun s t u a b => by unfold setByte; split <;> rfl, fun s t u a v => by unfold setPoison; split <;> rfl, fun _ _ => rfl⟩ ..

/-! The completion ring (R312, R314). -/

/-- Where the next entry of a page's completion ring goes. -/
def cqPlace (s : State) (page : Nat) : Nat :=
  s.rd .MB_CQ_CFG_BASE page * 4096 + 32 * (s.rd .MB_STAT_CQ_TAIL page % 2 ^ s.rd .MB_CQ_CFG_LOG2 page)

/-- The entry of a completion, with the phase of the ring's round. -/
def cqEntry (s : State) (page : Nat) (c : Cpl) : List Byte :=
  toBytes (s.cplWord page (1 - s.rd .MB_STAT_CQ_TAIL page / 2 ^ s.rd .MB_CQ_CFG_LOG2 page % 2) c) 32

/-- The entry is written and the tail moves on, before the interrupt. -/
def posted (s : State) (page : Nat) (c : Cpl) : State :=
  (s.setBytes 3 0 (s.cqPlace page) (s.cqEntry page c)).wr .MB_STAT_CQ_TAIL page
    ((s.rd .MB_STAT_CQ_TAIL page + 1) % (2 * 2 ^ s.rd .MB_CQ_CFG_LOG2 page))

theorem postNow_of_host (c : Cpl) (hloc : s.rd .MB_CQ_CFG_LOC page = 0) (hup : s.rd .PT_LINK_STAT_UP (s.pagePort page) = 1) :
    s.postNow page c = ((s.posted page c).pageVector page, true) := by
  unfold postNow ringWrite
  simp only [hloc, flag, hup, beq_self_eq_true, if_true]
  rfl

theorem posted_cqWait (c : Cpl) : (s.posted page c).cqWait = s.cqWait := by simp [posted, cqWait_setBytes]

theorem memBytes_wr (f : Fld) (i v tier unit a n : Nat) : (s.wr f i v).memBytes tier unit a n = s.memBytes tier unit a n := rfl

theorem rd_posted_tail (c : Cpl) (h : s.rd .MB_CQ_CFG_LOG2 page ≤ 12) : (s.posted page c).rd .MB_STAT_CQ_TAIL page =
    (s.rd .MB_STAT_CQ_TAIL page + 1) % (2 * 2 ^ s.rd .MB_CQ_CFG_LOG2 page) := by
  refine rd_wr_fits _ _ _ (Nat.lt_of_lt_of_le (Nat.mod_lt _ (by positivity)) ?_)
  calc 2 * 2 ^ s.rd .MB_CQ_CFG_LOG2 page ≤ 2 * 2 ^ 12 := Nat.mul_le_mul_left 2 (Nat.pow_le_pow_right (by decide) h)
    _ = 2 ^ Fld.width .MB_STAT_CQ_TAIL := rfl

theorem memBytes_posted (c : Cpl) : (s.posted page c).memBytes 3 0 (s.cqPlace page) 32 = s.cqEntry page c := by
  have hlen : (s.cqEntry page c).length = 32 := toBytes_length ..
  have h := memBytes_setBytes_host (s := s) (s.cqPlace page) (s.cqEntry page c)
  rw [hlen] at h
  rw [posted, memBytes_wr, h]

/-- A completion that is the only one to wait, and that nothing holds back, is posted. -/
theorem drainCq_of_free (c : Cpl) (hwait : s.cqWait = [(page, c)]) (hen : s.rd .MB_CQ_CFG_EN page = 1) (hroom : s.cqFull page = false)
    (hloc : s.rd .MB_CQ_CFG_LOC page = 0) (hup : s.rd .PT_LINK_STAT_UP (s.pagePort page) = 1) (hsince : s.h .cqSince page = 0) :
    s.drainCq page 1 = { (s.posted page c).pageVector page with cqWait := [] } := by
  have hend : s.endCqWait page = s := if_pos hsince
  have hleft : ((s.posted page c).pageVector page).cqWait.erase (page, c) = [] := by
    rw [(pageVector_signals page).cqWait, posted_cqWait, hwait, List.erase_cons_head]
  simp only [drainCq, hwait, List.find?_cons, beq_self_eq_true, flag, hen, Bool.not_true, Bool.false_eq_true, if_false, hroom, hend,
    postNow_of_host c hloc hup, if_true, hleft]

end State
open State

/-- Settles O20: the entry is in host memory as written, and the interrupt that follows moves neither memory nor the ring. -/
theorem completionsArePosted : Obligations.CompletionsArePosted := by
  intro s page c lg tail hpage hsource hwait hen hroom hlg hloc hup hsince
  let u : State := { s with cqWait := [(page, c)] }
  have hcomplete : s.complete page c = { (u.posted page c).pageVector page with cqWait := [] } := by
    unfold complete
    rw [if_neg (Nat.not_le.2 hpage), if_neg hsource, hwait]
    exact drainCq_of_free (s := u) c rfl hen hroom hloc hup hsince
  have hsignals := pageVector_signals (s := u.posted page c) page
  rw [hcomplete]
  exact ⟨(hsignals.memBytes ..).trans (memBytes_posted (s := u) c), (hsignals.rd ..).trans (rd_posted_tail (s := u) c hlg), rfl⟩

end Sys2Proof.Machine
end

section
/-! PROOFS. The key window (R374). -/

namespace Sys2Proof.Machine

namespace State

variable {s t u : State} {q r n : Nat}

/-- The key commands that wait for the key window of a quarter complete. -/
def endKeyCommands (s : State) (q status res0 : Nat) : State :=
  (s.late.filter (fun (l : Late) => l.until_ == .keyApplied q)).foldl (fun (s : State) (l : Late) =>
    s.complete l.page ⟨l.tag, l.source, status, 0, false, 0, res0, none⟩)
    { s with late := s.late.filter (fun (l : Late) => l.until_ != .keyApplied q) }

/-- A quarter takes a key that no quarter had. -/
def newKey (s : State) (q : Nat) : State :=
  ((((s.setH .keyStage q 0).setH .keyCount 0 (s.h .keyCount 0 + 1)).setH .keyNum q (s.h .keyCount 0 + 1)).wr .MEM_ENC_STAT_KEY q 1).wr
    .MEM_ENC_STAT_GEN q (s.rd .MEM_ENC_STAT_GEN q + 1)

/-- A quarter's key is erased. -/
def dropKey (s : State) (q : Nat) : State := ((s.setH .keyStage q 0).setH .keyNum q 0).wr .MEM_ENC_STAT_KEY q 2

/-- One quarter's staged key action, with no erasure due. -/
def applyKey (s : State) (q : Nat) : State :=
  match s.h .keyStage q with
  | 1 => (s.newKey q).endKeyCommands q stSuccess ((s.rd .MEM_ENC_STAT_GEN q + 1) % 256)
  | 2 => (s.dropKey q).endKeyCommands q stSuccess 0
  | _ => s

theorem endKeyCommands_posts (q status res0 : Nat) : s.Posts (s.endKeyCommands q status res0) := by
  have hfold (l : List Late) : ∀ v : State, s.Posts v → s.Posts (l.foldl (fun (s : State) (l : Late) =>
      s.complete l.page ⟨l.tag, l.source, status, 0, false, 0, res0, none⟩) v) := by
    induction l with
    | nil => exact fun _ h => h
    | cons l ls ih => exact fun v h => ih _ (complete_posts h _ _)
  exact hfold _ _ ⟨rfl, rfl, rfl, fun _ _ _ => rfl, fun _ _ _ => rfl⟩

/-! What one action leaves of the other quarters. -/

/-- A quarter's key, and what is staged for it, are the same. -/
structure SameKey (s t : State) (q : Nat) : Prop where
  num : t.h .keyNum q = s.h .keyNum q
  stage : t.h .keyStage q = s.h .keyStage q
  key : t.rd .MEM_ENC_STAT_KEY q = s.rd .MEM_ENC_STAT_KEY q
  gen : t.rd .MEM_ENC_STAT_GEN q = s.rd .MEM_ENC_STAT_GEN q

theorem SameKey.refl (s : State) (q : Nat) : s.SameKey s q := ⟨rfl, rfl, rfl, rfl⟩

theorem SameKey.trans (h : s.SameKey t q) (h' : t.SameKey u q) : s.SameKey u q :=
  ⟨h'.num.trans h.num, h'.stage.trans h.stage, h'.key.trans h.key, h'.gen.trans h.gen⟩

theorem Posts.sameKey (h : s.Posts t) (q : Nat) : s.SameKey t q := ⟨h.hid _ q rfl, h.hid _ q rfl, h.regs _ q rfl, h.regs _ q rfl⟩

/-- The keys given so far are numbered up to the count, and no erasure begins. -/
structure KeysGoOn (s t : State) : Prop where
  count : s.h .keyCount 0 ≤ t.h .keyCount 0
  erase : t.rd .SEC_STAT_ERASE_PEND 0 = s.rd .SEC_STAT_ERASE_PEND 0

theorem KeysGoOn.refl (s : State) : s.KeysGoOn s := ⟨Nat.le_refl _, rfl⟩
theorem KeysGoOn.trans (h : s.KeysGoOn t) (h' : t.KeysGoOn u) : s.KeysGoOn u := ⟨h.count.trans h'.count, h'.erase.trans h.erase⟩

theorem Posts.keysGoOn (h : s.Posts t) : s.KeysGoOn t := ⟨Nat.le_of_eq (h.hid _ 0 rfl).symm, h.regs _ 0 rfl⟩

theorem newKey_sameKey (h : q ≠ r) : s.SameKey (s.newKey q) r := by
  refine ⟨?_, ?_, ?_, ?_⟩
  · rw [newKey, h_wr, h_wr, h_setH_index _ h, h_setH_name _ _ _ (by decide), h_setH_name _ _ _ (by decide)]
  · rw [newKey, h_wr, h_wr, h_setH_name _ _ _ (by decide), h_setH_name _ _ _ (by decide), h_setH_index _ h]
  · rw [newKey, rd_wr_field _ _ _ (by decide), rd_wr_index _ h, rd_setH, rd_setH, rd_setH]
  · rw [newKey, rd_wr_index _ h, rd_wr_field _ _ _ (by decide), rd_setH, rd_setH, rd_setH]

theorem dropKey_sameKey (h : q ≠ r) : s.SameKey (s.dropKey q) r := by
  refine ⟨?_, ?_, ?_, ?_⟩
  · rw [dropKey, h_wr, h_setH_index _ h, h_setH_name _ _ _ (by decide)]
  · rw [dropKey, h_wr, h_setH_name _ _ _ (by decide), h_setH_index _ h]
  · rw [dropKey, rd_wr_index _ h, rd_setH, rd_setH]
  · rw [dropKey, rd_wr_field _ _ _ (by decide), rd_setH, rd_setH]

theorem h_newKey_count : (s.newKey q).h .keyCount 0 = s.h .keyCount 0 + 1 := by
  rw [newKey, h_wr, h_wr, h_setH_name _ _ _ (by decide), h_setH_same]

theorem newKey_keysGoOn : s.KeysGoOn (s.newKey q) := by
  refine ⟨?_, ?_⟩
  · rw [h_newKey_count]
    exact Nat.le_succ _
  · rw [newKey, rd_wr_field _ _ _ (by decide), rd_wr_field _ _ _ (by decide), rd_setH, rd_setH, rd_setH]

theorem dropKey_keysGoOn : s.KeysGoOn (s.dropKey q) := by
  refine ⟨?_, ?_⟩
  · rw [dropKey, h_wr, h_setH_name _ _ _ (by decide), h_setH_name _ _ _ (by decide)]
  · rw [dropKey, rd_wr_field _ _ _ (by decide), rd_setH, rd_setH]

theorem applyKey_sameKey (h : q ≠ r) : s.SameKey (s.applyKey q) r := by
  unfold applyKey
  split
  · exact (newKey_sameKey h).trans ((endKeyCommands_posts ..).sameKey r)
  · exact (dropKey_sameKey h).trans ((endKeyCommands_posts ..).sameKey r)
  · exact .refl s r

theorem applyKey_keysGoOn : s.KeysGoOn (s.applyKey q) := by
  unfold applyKey
  split
  · exact newKey_keysGoOn.trans (endKeyCommands_posts ..).keysGoOn
  · exact dropKey_keysGoOn.trans (endKeyCommands_posts ..).keysGoOn
  · exact .refl s

/-! What one action makes of its quarter. -/

/-- A quarter's staged key action has been carried out. -/
structure KeyDone (s t : State) (q : Nat) : Prop where
  new : s.h .keyStage q = 1 → s.h .keyCount 0 < t.h .keyNum q ∧ t.rd .MEM_ENC_STAT_KEY q = 1 ∧
    t.rd .MEM_ENC_STAT_GEN q = (s.rd .MEM_ENC_STAT_GEN q + 1) % 256 ∧ t.h .keyStage q = 0
  erased : s.h .keyStage q = 2 → t.h .keyNum q = 0 ∧ t.rd .MEM_ENC_STAT_KEY q = 2 ∧ t.h .keyStage q = 0
  kept : s.h .keyStage q = 0 → t.h .keyNum q = s.h .keyNum q ∧ t.rd .MEM_ENC_STAT_KEY q = s.rd .MEM_ENC_STAT_KEY q ∧
    t.rd .MEM_ENC_STAT_GEN q = s.rd .MEM_ENC_STAT_GEN q

/-- What is done stays done where the quarter's key stays. -/
theorem KeyDone.sameKey (h : s.KeyDone t q) (h' : t.SameKey u q) : s.KeyDone u q := by
  refine ⟨fun hs => ?_, fun hs => ?_, fun hs => ?_⟩
  · rw [h'.num, h'.key, h'.gen, h'.stage]
    exact h.new hs
  · rw [h'.num, h'.key, h'.stage]
    exact h.erased hs
  · rw [h'.num, h'.key, h'.gen]
    exact h.kept hs

/-- What is done after keys have gone on without the quarter's is done. -/
theorem SameKey.keyDone (h : s.SameKey t q) (hon : s.KeysGoOn t) (h' : t.KeyDone u q) : s.KeyDone u q := by
  obtain ⟨hnew, herased, hkept⟩ := h'
  rw [h.stage] at hnew herased hkept
  rw [h.gen] at hnew hkept
  rw [h.num, h.key] at hkept
  exact ⟨fun hs => ⟨hon.count.trans_lt (hnew hs).1, (hnew hs).2⟩, herased, hkept⟩

theorem newKey_done (h : s.h .keyStage q = 1) : s.KeyDone (s.newKey q) q := by
  have hother {k : Nat} (hk : k ≠ 1) (hs : s.h .keyStage q = k) : False := hk (hs.symm.trans h)
  refine ⟨fun _ => ⟨?_, ?_, rd_wr_same .., ?_⟩, fun hs => (hother (by decide) hs).elim, fun hs => (hother (by decide) hs).elim⟩
  · rw [newKey, h_wr, h_wr, h_setH_same]
    exact Nat.lt_succ_self _
  · rw [newKey, rd_wr_field _ _ _ (by decide), rd_wr_fits _ _ _ (by decide)]
  · rw [newKey, h_wr, h_wr, h_setH_name _ _ _ (by decide), h_setH_name _ _ _ (by decide), h_setH_same]

theorem dropKey_done (h : s.h .keyStage q = 2) : s.KeyDone (s.dropKey q) q := by
  have hother {k : Nat} (hk : k ≠ 2) (hs : s.h .keyStage q = k) : False := hk (hs.symm.trans h)
  refine ⟨fun hs => (hother (by decide) hs).elim, fun _ => ⟨?_, ?_, ?_⟩, fun hs => (hother (by decide) hs).elim⟩
  · rw [dropKey, h_wr, h_setH_same]
  · rw [dropKey, rd_wr_fits _ _ _ (by decide)]
  · rw [dropKey, h_wr, h_setH_name _ _ _ (by decide), h_setH_same]

theorem applyKey_done : s.KeyDone (s.applyKey q) q := by
  unfold applyKey
  split
  · next h => exact (newKey_done h).sameKey ((endKeyCommands_posts ..).sameKey q)
  · next h => exact (dropKey_done h).sameKey ((endKeyCommands_posts ..).sameKey q)
  · next h1 h2 => exact ⟨fun h => (h1 h).elim, fun h => (h2 h).elim, fun _ => ⟨rfl, rfl, rfl⟩⟩

/-! The quarters in turn. -/

/-- The actions of the first `n` quarters. -/
def applyFirstKeys (s : State) (n : Nat) : State := (List.range n).foldl applyKey s

theorem applyFirstKeys_succ (n : Nat) : s.applyFirstKeys (n + 1) = (s.applyFirstKeys n).applyKey n := by
  rw [applyFirstKeys, List.range_succ, List.foldl_concat]
  rfl

theorem applyFirstKeys_keysGoOn (n : Nat) : s.KeysGoOn (s.applyFirstKeys n) := by
  induction n with
  | zero => exact .refl s
  | succ n ih =>
    rw [applyFirstKeys_succ]
    exact ih.trans applyKey_keysGoOn

theorem applyFirstKeys_sameKey (h : n ≤ q) : s.SameKey (s.applyFirstKeys n) q := by
  induction n with
  | zero => exact .refl s q
  | succ n ih =>
    rw [applyFirstKeys_succ]
    exact (ih (Nat.le_of_succ_le h)).trans (applyKey_sameKey (Nat.ne_of_lt h))

theorem applyFirstKeys_done (h : q < n) : s.KeyDone (s.applyFirstKeys n) q := by
  induction n with
  | zero => exact absurd h (Nat.not_lt_zero q)
  | succ n ih =>
    rw [applyFirstKeys_succ]
    rcases Nat.lt_succ_iff_lt_or_eq.1 h with hlt | rfl
    · exact (ih hlt).sameKey (applyKey_sameKey (Nat.ne_of_gt hlt))
    · exact (applyFirstKeys_sameKey (Nat.le_refl _)).keyDone (applyFirstKeys_keysGoOn _) applyKey_done

/-- With no erasure due the key window is the quarters' actions in turn. -/
theorem applyKeys_of_no_erasure (h : s.rd .SEC_STAT_ERASE_PEND 0 = 0) : s.applyKeys = s.applyFirstKeys s.nQ := by
  unfold applyKeys
  generalize s.nQ = n
  induction n with
  | zero => rfl
  | succ n ih =>
    have hnone : (s.applyFirstKeys n).flag .SEC_STAT_ERASE_PEND 0 = false := by
      rw [flag, (applyFirstKeys_keysGoOn n).erase, h]
      rfl
    rw [List.range_succ, List.foldl_concat, ih, applyFirstKeys_succ]
    simp only [hnone, Bool.false_and, Bool.false_eq_true, if_false]
    rfl

end State
open State

/-- Settles O12: KEY_APPLY is the key window in its cycle, and there the quarters' actions in turn. -/
theorem keysChangeInTheirWindow : Obligations.KeysChangeInTheirWindow := by
  intro s hsched herase
  have hnext : exec .keyApply s = .next (((s.goTo (s.cycW 2560)).applyKeys).setH .sched 0 7) := congrArg Host.Outcome.next (schedTo_next hsched)
  have hcount : (s.goTo (s.cycW 2560)).h .keyCount 0 = s.h .keyCount 0 := goTo_h _ _ nofun nofun
  have hpend : (s.goTo (s.cycW 2560)).rd .SEC_STAT_ERASE_PEND 0 = s.rd .SEC_STAT_ERASE_PEND 0 := goTo_reg _ _ nofun nofun
  have hwait (q : Nat) : s.SameKey (s.goTo (s.cycW 2560)) q :=
    ⟨goTo_h _ _ nofun nofun, goTo_h _ _ nofun nofun, goTo_reg _ _ nofun nofun, goTo_reg _ _ nofun nofun⟩
  have hon : s.KeysGoOn (s.goTo (s.cycW 2560)) := ⟨Nat.le_of_eq hcount.symm, hpend⟩
  refine ⟨_, hnext, fun q hq => ?_⟩
  have hq' : q < (s.goTo (s.cycW 2560)).nQ := by
    rw [nQ, goTo_lt09]
    exact hq
  rw [applyKeys_of_no_erasure (hpend.trans herase)]
  have hdone : s.KeyDone (((s.goTo (s.cycW 2560)).applyFirstKeys (s.goTo (s.cycW 2560)).nQ).setH .sched 0 7) q :=
    (hwait q).keyDone hon ((applyFirstKeys_done hq').sameKey ⟨h_setH_name _ _ _ nofun, h_setH_name _ _ _ nofun, rd_setH .., rd_setH ..⟩)
  exact ⟨hdone.new, hdone.erased, hdone.kept⟩

end Sys2Proof.Machine
end

section
/-! PROOFS. The cause that a module reset raised by the MC shows (R337, R338, R345). -/

namespace Sys2Proof.Machine

namespace State

/-- Once the planes are down, LAST_RESET, a field of four bits, shows the cause that the quiesce began with. -/
theorem planesDown_lastReset (s : State) : s.planesDown.rd .RES_STAT_LAST_RESET 0 = (s.h .quiesce 0 - 1) % 16 := by
  unfold planesDown
  rw [rd_wr_field _ _ _ (by decide), rd_wr_field _ _ _ (by decide), rd_wr_same]
  rfl

/-- The state after reset, in the quiesce of a module reset that the MC raised (cause 4), and with MOD_RST_N low. -/
def mcResetPinLow : State := (State.reset.setH .quiesce 0 5).setH .rstHeld 0 1

theorem mcResetPinLow_quiesce : mcResetPinLow.h .quiesce 0 = 5 := by
  rw [mcResetPinLow, h_setH_name _ _ _ (by decide), h_setH_same]

theorem mcResetPinLow_rstHeld : mcResetPinLow.h .rstHeld 0 = 1 := h_setH_same _ _ _ _

set_option maxRecDepth 20000 in
theorem mcResetPinLow_planesDown_rstHeld : mcResetPinLow.planesDown.h .rstHeld 0 = 1 := by decide +kernel

end State

/-- With MOD_RST_N low, the end of a quiesce leaves the planes down and keeps the pairs for the release of the pin (R345, R384). -/
theorem exec_quiesceEnd_pinLow {s : State} (pair0 pair1 : Bool) (hquiesce : s.h .quiesce 0 ≠ 0) (hpin : s.planesDown.h .rstHeld 0 = 1) :
    exec (.quiesceEnd pair0 pair1) s =
      .next (s.planesDown.setH .rstPairs 0 (1 + (if pair0 then 1 else 0) + (if pair1 then 2 else 0))) :=
  (if_neg hquiesce).trans (if_pos hpin)

/-- Refutes O57: the statement takes the cause modulo 4, but LAST_RESET has four bits (61:58 of RES_STAT) and shows cause 4, a reset that the
MC raised, as 4. The counterexample ends such a reset's quiesce while MOD_RST_N is low. -/
theorem not_theModuleRecovers : ¬ Obligations.TheModuleRecovers := by
  intro h
  obtain ⟨-, -, -, -, -, -, hend, -⟩ := h State.mcResetPinLow
  have hquiesce : State.mcResetPinLow.h .quiesce 0 ≠ 0 := by rw [State.mcResetPinLow_quiesce]; decide
  obtain ⟨t, hexec, -, -, hcause, -⟩ := hend false false hquiesce State.mcResetPinLow_rstHeld
  rw [exec_quiesceEnd_pinLow _ _ hquiesce State.mcResetPinLow_planesDown_rstHeld] at hexec
  obtain rfl := Host.Outcome.next.inj hexec
  rw [State.rd_setH, State.planesDown_lastReset, State.mcResetPinLow_quiesce] at hcause
  exact absurd hcause (by decide)

end Sys2Proof.Machine
end
